-- ==== Sys2Proof/Word.lean ====
section
/-!
DEFINITION. The word types and the index types of the JD816: bytes, and the numbers by which the manual
names doorways, drives, channels, groups, sessions, engines, contexts and rows.
-/

namespace Sys2Proof

/-- One byte of a packet, an object or a memory (R6). -/
abbrev Byte := BitVec 8

/-- A doorway, 0 to 7 (R1). -/
abbrev DoorIx := Fin 8

/-- A drive, 0 to 15: door drive of doorway d is 2d, step drive 2d + 1 (R107). -/
abbrev DriveIx := Fin 16

/-- An input group of the isolation link: doorways 0 to 7, and 8 the trainline and output group. -/
abbrev GroupIx := Fin 9

/-- A load channel, 0 to 47: channels 6d to 6d + 5 belong to doorway d. -/
abbrev ChanIx := Fin 48

/-- A command session, 0 to 5. -/
abbrev SessIx := Fin 6

/-- An isolated digital output, 0 to 15. -/
abbrev OutIx := Fin 16

/-- A profile context of the pool, 0 to 159 (R2, Table 0.1). -/
abbrev CtxIx := Fin 160

/-- A CAN FD channel, 0 or 1. -/
abbrev CanIx := Fin 2

/-- A ring port, 0 (A) or 1 (B). -/
abbrev PortIx := Fin 2

/-- A row of Quince, 0 to 63 (R251). -/
abbrev RowIx := Fin 64

end Sys2Proof
end

