-- ==== Sys2Proof/Syntax.lean ====
section
/-!
DEFINITION. The commands of the JD816: one constructor of Instr per row of spec/opcode_table.json, with its
operands. A row that is an FCP opcode takes the header of the packet and the typed parameters of its home
chapter; a row that is an occurrence (an edge of an input, the end of a time, a trip, a frame) takes the
doorway, drive, channel or group concerned and the values that only the outside world supplies.
-/

namespace Sys2Proof

/-- Table 9.4: the carriage a packet came by. -/
inductive Transport where
  | ring | can (c : CanIx) | service | mailbox
  deriving DecidableEq, Repr

/-- The header of an FCP command packet (Tables 9.1 and 9.3) with the transport and source it came from (R354).
For the service port, source is the IPv4 address and UDP port as one number (R358). -/
structure Hdr where
  transport : Transport
  source    : Nat
  /-- Carried by a ring frame with DEST_ADDR 0xFF (R456). -/
  trainWide : Bool
  format    : BitVec 8
  session   : BitVec 4
  resume    : Bool
  takeover  : Bool
  hseq      : BitVec 16
  dack      : BitVec 16
  tag       : BitVec 32
  deriving DecidableEq, Repr

/-- The two egress devices of a doorway (Table 1.2). -/
inductive Egress where | inside | outside
  deriving DecidableEq, Repr

/-- The two door switches whose break is an uncommanded unlock (R33). -/
inductive DoorSwitch where | dcs | dls
  deriving DecidableEq, Repr

/-- The two implausible pairs of R25. -/
inductive Implausible where | dlsWithoutDcs | sdsWithSrs
  deriving DecidableEq, Repr

/-- The trainline inputs of the release condition (R71). -/
inductive RelInput where | relL | relR | zspd1 | zspd2
  deriving DecidableEq, Repr

/-- Train left and train right (Table 1.1). -/
inductive TrainSide where | left | right
  deriving DecidableEq, Repr

/-- The hardware trips of Tables 4.7 and 5.5. -/
inductive HwTrip where | overcurrent | desat | gateSupply | phaseOpen | currentSensor
  deriving DecidableEq, Repr

/-- The causes of an interruption (R658, Tables 4.7 and 5.5). -/
inductive Interruption where | dcLow | dcHigh | temperature | following | hall | legSubstitution
  deriving DecidableEq, Repr

/-- What the hardware measures when a final-closure criterion is met (Table 6.2). -/
inductive FinalClosure where
  | energy (w : Nat)
  | timing (edge ratio : Nat)
  | count (edges : Nat)
  deriving DecidableEq, Repr

/-- A pair that the supervisor compares under R86: a doorway's switch condition, or the bypass view. -/
inductive LoopPair where | door (d : DoorIx) | bypass
  deriving DecidableEq, Repr

/-- The engine-facing bus masters of the interrupt controller (R588). -/
inductive Engine where | leaf (d : DoorIx) | supv | comms | app
  deriving DecidableEq, Repr

/-- The mode field of a load-switch command frame (R300). -/
inductive LswMode where | run | updateHold | stable
  deriving DecidableEq, Repr

/-- What an off-state test of a channel measures (R290 to R292): the load present, no load, a voltage between the two
thresholds, or a voltage above 50 % of the rail, with the channel whose turn-on and turn-off it follows, if any. -/
inductive OffTest where | present | openLoad | between | fed (partner : Option ChanIx)
  deriving DecidableEq, Repr

/-- A frame as it arrives on a ring port (R430, Tables 11.1 and 11.2). `body` is the body with its padding. -/
structure RingFrame where
  fcsOk     : Bool
  ringDest  : Bool
  tagged    : Bool
  etherType : Nat
  srcMac    : Nat
  type      : Nat
  source    : Nat
  dest      : Nat
  hops      : Nat
  direction : Bool
  wrapped   : Bool
  seq       : Nat
  body      : List Byte
  deriving DecidableEq, Repr

/-- A frame on a CAN channel (R468): identifier [28:0], format, and the data. -/
structure CanFrame where
  id     : Nat
  ext    : Bool
  fd     : Bool
  brs    : Bool
  esi    : Bool
  remote : Bool
  data   : List Byte
  deriving DecidableEq, Repr

/-- What the front end of a sensitive edge shows of a fast path (R323): the second edge or the first, and voltages in mV. -/
structure EdgeSample where
  second : Bool
  vIn    : Nat
  vCom   : Nat
  deriving DecidableEq, Repr

/-- A transmit buffer of a CAN controller (Table 12.2). -/
inductive TxBuf where | txb0 | txb1 | txb2
  deriving DecidableEq, Repr

/-- The end of one attempt to send a frame (R477). -/
inductive TxResult where | complete | lostArbitration | error
  deriving DecidableEq, Repr

/-- The width of an access of the application engine, in bytes (R574). -/
inductive AccessWidth where | byte | half | word
  deriving DecidableEq, Repr

/-- The number of bytes of an access width. -/
def AccessWidth.bytes : AccessWidth → Nat
  | .byte => 1 | .half => 2 | .word => 4

/-- The commands, one constructor per row of spec/opcode_table.json: the rows with operands in the table's order, then those
without. -/
inductive Instr where
  /-- POWER_UP (R546) -/
  | powerUp (keepLost goodA goodB : Bool)
  /-- CARTRIDGE_INSERTED (R556) -/
  | cartridgeInserted (serial : List Byte) (capacitance esr : BitVec 16)
  /-- CARTRIDGE_MEASURE (R556) -/
  | cartridgeMeasure (capacitance esr : BitVec 16)
  /-- POWER_ENTER_STABLE (R540) -/
  | powerEnterStable (h : Hdr) (wakeAt : BitVec 64)
  /-- POWER_ENTER_HIBERNATE (R541) -/
  | powerEnterHibernate (h : Hdr) (wakeAt : BitVec 64)
  /-- POWER_ENTRY_FAILED (R539) -/
  | powerEntryFailed (refuser : BitVec 8)
  /-- WAKE_FROM_HIBERNATE (R546) -/
  | wakeFromHibernate (goodA goodB : Bool)
  /-- STABLE_SAMPLE (R334) -/
  | stableSample (groups : List (GroupIx × BitVec 16 × Bool))
  /-- WATCHER_SOURCE (R594) -/
  | watcherSource (source : Fin 128)
  /-- CAN_WAKE_PATTERN (R499) -/
  | canWakePattern (ch : CanIx)
  /-- LEAF_WATCHDOG_EXPIRY (R568) -/
  | leafWatchdogExpiry (d : DoorIx)
  /-- LEAF_ENGINE_RESTART (R568) -/
  | leafEngineRestart (d : DoorIx)
  /-- APP_TIMER_EXPIRY (R577) -/
  | appTimerExpiry (k : Fin 4)
  /-- TMR_WD_KICK (R578) -/
  | tmrWdKick (v : BitVec 32)
  /-- TMR_CTRL_WRITE (R577) -/
  | tmrCtrlWrite (k : Fin 4) (v : BitVec 32)
  /-- MBX_POST (R580) -/
  | mbxPost (v : BitVec 32)
  /-- MBX_ACK (R581) -/
  | mbxAck (mask : BitVec 32)
  /-- CAN_TXREQ_WRITE (R496) -/
  | canTxreqWrite (v : BitVec 32)
  /-- CAN_TXABORT_WRITE (R496) -/
  | canTxabortWrite (v : BitVec 32)
  /-- CAN_RXQ_POP (R496) -/
  | canRxqPop (second : Bool)
  /-- CAN_OBJ_DATA_WRITE (R496) -/
  | canObjDataWrite (m : Fin 64) (v : BitVec 32)
  /-- INTC_COMPLETE_WRITE (R592) -/
  | intcCompleteWrite (e : Engine) (v : BitVec 32)
  /-- INTC_CTRL_WRITE (R589) -/
  | intcCtrlWrite (e : Engine) (v : BitVec 32)
  /-- INTERRUPT_DELIVERY (R590) -/
  | interruptDelivery (e : Engine) (source : Fin 128) (priority : BitVec 8)
  /-- OUT_OF_RIGHTS_ACCESS (R574) -/
  | outOfRightsAccess (addr : BitVec 32)
  /-- REGISTER_WRITE (R10) -/
  | registerWrite (addr : BitVec 32) (width : AccessWidth) (v : BitVec 32)
  /-- CAN_PARTIAL_TIMEOUT (R356) -/
  | canPartialTimeout (i : SessIx)
  /-- SERVICE_DATAGRAM_RECEIVED (R357) -/
  | serviceDatagramReceived (source : BitVec 48) (bytes : List Byte)
  /-- TX_QUEUE_SEND (R370) -/
  | txQueueSend (i : SessIx)
  /-- SESSION_SILENT_TIMEOUT (R376) -/
  | sessionSilentTimeout (i : SessIx)
  /-- SESSION_EXPIRY_TIMEOUT (R376) -/
  | sessionExpiryTimeout (i : SessIx)
  /-- RESULT_HOLD_END (R373) -/
  | resultHoldEnd (handle : BitVec 16)
  /-- RESULT_DISCARD_TIMEOUT (R373) -/
  | resultDiscardTimeout (handle : BitVec 16)
  /-- AUTH_LOCK_END (R382) -/
  | authLockEnd (i : SessIx)
  /-- SESSION_OPEN (R379) -/
  | sessionOpen (h : Hdr) (lastHseq lastDseq : BitVec 16) (cfgId : BitVec 64)
  /-- SESSION_CLOSE (R383) -/
  | sessionClose (h : Hdr)
  /-- SESSION_STATE (R383) -/
  | sessionState (h : Hdr)
  /-- SESSION_AUTH (R382) -/
  | sessionAuth (h : Hdr) (mac : List Byte)
  /-- RESULT_FETCH (R373) -/
  | resultFetch (h : Hdr) (handle : BitVec 16)
  /-- ABORT (R374) -/
  | abort (h : Hdr) (handle : BitVec 16)
  /-- EVENT_REPLAY (R371) -/
  | eventReplay (h : Hdr) (fromDseq : BitVec 16) (count : BitVec 8)
  /-- COMMAND_CLAIM (R390) -/
  | commandClaim (h : Hdr) (mask : BitVec 8)
  /-- COMMAND_YIELD (R389) -/
  | commandYield (h : Hdr) (mask : BitVec 8)
  /-- CFG_LOAD_BLOCK (R404) -/
  | cfgLoadBlock (h : Hdr) (offset : BitVec 32) (flags : BitVec 8) (block : List Byte)
  /-- CFG_COMMIT (R407) -/
  | cfgCommit (h : Hdr) (previous : Bool) (cfgId : BitVec 64)
  /-- CFG_COMMIT_CHECK_ONLY (R408) -/
  | cfgCommitCheckOnly (h : Hdr) (previous : Bool) (cfgId : BitVec 64)
  /-- CFG_READ (R423) -/
  | cfgRead (h : Hdr) (bank : BitVec 8) (length : BitVec 16) (offset : BitVec 32)
  /-- OBJ_READ (R422) -/
  | objRead (h : Hdr) (index : BitVec 16) (sub : BitVec 8)
  /-- OBJ_WRITE (R422) -/
  | objWrite (h : Hdr) (index : BitVec 16) (sub : BitVec 8) (value : List Byte)
  /-- DISCREPANCY_RESET (R89) -/
  | discrepancyReset (h : Hdr) (v : BitVec 8)
  /-- ROLE_SELECT (R113) -/
  | roleSelect (h : Hdr) (r : DriveIx) (v : BitVec 16)
  /-- SESSION_KEY (R607) -/
  | sessionKey (h : Hdr) (i : Fin 5) (key : List Byte)
  /-- CAN_RESTART (R473) -/
  | canRestart (h : Hdr) (ch : CanIx) (v : BitVec 8)
  /-- DOOR_COMMAND_OPEN (R51) -/
  | doorCommandOpen (h : Hdr) (mask : BitVec 8)
  /-- DOOR_COMMAND_CLOSE (R51) -/
  | doorCommandClose (h : Hdr) (mask : BitVec 8)
  /-- DOOR_COMMAND_STOP (R54) -/
  | doorCommandStop (h : Hdr) (mask : BitVec 8)
  /-- DOOR_COMMAND_RESUME (R52) -/
  | doorCommandResume (h : Hdr) (mask : BitVec 8)
  /-- DOOR_COMMAND_RESET (R184) -/
  | doorCommandReset (h : Hdr) (mask : BitVec 8)
  /-- DOOR_STATUS (R58) -/
  | doorStatus (h : Hdr) (mask detail : BitVec 8)
  /-- DOOR_ISOLATE_SET (R59) -/
  | doorIsolateSet (h : Hdr) (doorway : BitVec 8)
  /-- DOOR_ISOLATE_CLEAR (R59) -/
  | doorIsolateClear (h : Hdr) (doorway : BitVec 8)
  /-- DOOR_TEST_CYCLE (R61) -/
  | doorTestCycle (h : Hdr) (doorway cycles : BitVec 8)
  /-- ENVELOPE_LEARN (R238) -/
  | envelopeLearn (h : Hdr) (doorway : BitVec 8)
  /-- MOVE_TO (R138) -/
  | moveTo (h : Hdr) (drive mode : BitVec 8) (target speed : BitVec 32)
  /-- MOVE_STOP (R141) -/
  | moveStop (h : Hdr) (mask : BitVec 16) (mode : BitVec 8)
  /-- MOVE_RESUME (R142) -/
  | moveResume (h : Hdr) (mask : BitVec 16)
  /-- PROFILE_WRITE (R143) -/
  | profileWrite (h : Hdr) (context : BitVec 16) (body : List Byte)
  /-- COMPARE_SET (R145) -/
  | compareSet (h : Hdr) (drive mode direction actions : BitVec 8) (position hyst : BitVec 32)
  /-- HOME_STEP_HOME (R221) -/
  | homeStepHome (h : Hdr) (doorway : BitVec 8)
  /-- HOME_STEP_MEASURE (R221) -/
  | homeStepMeasure (h : Hdr) (doorway : BitVec 8)
  /-- SWITCH_SET_OFF (R307) -/
  | switchSetOff (h : Hdr) (mask : BitVec 64)
  /-- SWITCH_SET_ON (R307) -/
  | switchSetOn (h : Hdr) (mask : BitVec 64)
  /-- SWITCH_SET_KEEP_WARM (R307) -/
  | switchSetKeepWarm (h : Hdr) (mask : BitVec 64)
  /-- SWITCH_SET_RETURN (R307) -/
  | switchSetReturn (h : Hdr) (mask : BitVec 64)
  /-- SWITCH_STATUS (R309) -/
  | switchStatus (h : Hdr) (mask : BitVec 64)
  /-- FAULT_CLEAR (R310) -/
  | faultClear (h : Hdr) (mask : BitVec 64)
  /-- IO_READ (R347) -/
  | ioRead (h : Hdr) (mask : BitVec 16)
  /-- OUTPUT_SET (R348) -/
  | outputSet (h : Hdr) (mask value : BitVec 16)
  /-- LOG_DRAIN (R522) -/
  | logDrain (h : Hdr) (fromRseq : BitVec 32) (count : BitVec 8)
  /-- LOG_ACK (R520) -/
  | logAck (h : Hdr) (upTo : BitVec 32)
  /-- INCIDENT_READ (R524) -/
  | incidentRead (h : Hdr) (iseq : BitVec 32) (chunk : BitVec 16)
  /-- LOG_STATUS (R527) -/
  | logStatus (h : Hdr) (flags : BitVec 8)
  /-- INCIDENT_ERASE (R525) -/
  | incidentErase (h : Hdr) (upTo confirm : BitVec 32)
  /-- POWER_STATUS (R559) -/
  | powerStatus (h : Hdr)
  /-- POWER_ACCOUNTS (R560) -/
  | powerAccounts (h : Hdr)
  /-- FW_STAGE (R609) -/
  | fwStage (h : Hdr) (offset : BitVec 32) (flags : BitVec 8) (block : List Byte)
  /-- FW_ACTIVATE_LIVE (R612) -/
  | fwActivateLive (h : Hdr) (flags : BitVec 8)
  /-- FW_ACTIVATE_RESTART (R617) -/
  | fwActivateRestart (h : Hdr) (flags : BitVec 8)
  /-- LEAF_ENGINE_UPDATE (R613) -/
  | leafEngineUpdate (d : DoorIx)
  /-- LEAF_ENGINE_UPDATE_DONE (R613) -/
  | leafEngineUpdateDone (d : DoorIx) (ok : Bool)
  /-- SUPV_UPDATE_DONE (R613) -/
  | supvUpdateDone (ok : Bool)
  /-- COMMS_UPDATE_DONE (R615) -/
  | commsUpdateDone (ok : Bool)
  /-- SELFTEST (R618) -/
  | selftest (h : Hdr) (tests : BitVec 16) (mask : BitVec 8)
  /-- LEG_SUBSTITUTE (R605) -/
  | legSubstitute (h : Hdr) (pair leg : BitVec 8)
  /-- IDENTITY (R626) -/
  | identity (h : Hdr)
  /-- RING_STATUS (R462) -/
  | ringStatus (h : Hdr)
  /-- CONSIST_VIEW (R463) -/
  | consistView (h : Hdr) (mask : BitVec 32)
  /-- SCHED_LOAD (R497) -/
  | schedLoad (h : Hdr) (channel : BitVec 8) (schedule : List Byte)
  /-- SCHEDULE_SWAP (R497) -/
  | scheduleSwap (ch : CanIx)
  /-- CAN_STATUS (R498) -/
  | canStatus (h : Hdr) (mask : BitVec 8)
  /-- APP_LOAD (R586) -/
  | appLoad (h : Hdr) (offset : BitVec 32) (flags : BitVec 8) (block : List Byte)
  /-- APP_CONTROL_STOP (R587) -/
  | appControlStop (h : Hdr)
  /-- APP_CONTROL_START (R587) -/
  | appControlStart (h : Hdr)
  /-- APP_CONTROL_RESTART (R587) -/
  | appControlRestart (h : Hdr)
  /-- OPEN_PUSHBUTTON (R24) -/
  | openPushbutton (d : DoorIx) (outside active : Bool)
  /-- CLOSE_PUSHBUTTON (R24) -/
  | closePushbutton (d : DoorIx) (active : Bool)
  /-- TL_CLOSE_CHANGE (R31) -/
  | tlCloseChange (active : Bool)
  /-- TRAINLINE_INPUT_CHANGE (R71) -/
  | trainlineInputChange (x : RelInput) (active : Bool)
  /-- REL_SETTLE_EXPIRY (R72) -/
  | relSettleExpiry (side : TrainSide)
  /-- CAB_INPUT_CHANGE (R20) -/
  | cabInputChange (second active : Bool)
  /-- DIS_MAKE (R43) -/
  | disMake (d : DoorIx)
  /-- DIS_BREAK (R34) -/
  | disBreak (d : DoorIx)
  /-- EGRESS_ACTIVE (R41) -/
  | egressActive (d : DoorIx) (which : Egress)
  /-- EGRESS_INACTIVE (R34) -/
  | egressInactive (d : DoorIx)
  /-- UNCOMMANDED_UNLOCK (R33) -/
  | uncommandedUnlock (d : DoorIx) (sw : DoorSwitch)
  /-- PLAUSIBILITY_TIMEOUT (R25) -/
  | plausibilityTimeout (d : DoorIx) (p : Implausible)
  /-- DCS_POSITION_IMPLAUSIBLE (R179) -/
  | dcsPositionImplausible (d : DoorIx)
  /-- INPUT_GROUP_FAULT (R26) -/
  | inputGroupFault (g : GroupIx)
  /-- INPUT_GROUP_FAULT_CLEAR (R26) -/
  | inputGroupFaultClear (g : GroupIx)
  /-- FAULT_INPUT_CAUSE_GONE (R34) -/
  | faultInputCauseGone (d : DoorIx)
  /-- UNLOCK_TIMEOUT_EXPIRY (R176) -/
  | unlockTimeoutExpiry (d : DoorIx)
  /-- DLS_BREAK_UNLOCKING (R34) -/
  | dlsBreakUnlocking (d : DoorIx)
  /-- DCS_BREAK_OPENING (R176) -/
  | dcsBreakOpening (d : DoorIx)
  /-- UNLOCK_COMMANDED_GRACE_END (R216) -/
  | unlockCommandedGraceEnd (d : DoorIx)
  /-- PRE_CLOSE_WARN_EXPIRY (R37) -/
  | preCloseWarnExpiry (d : DoorIx)
  /-- DWELL_EXPIRY (R29) -/
  | dwellExpiry (d : DoorIx)
  /-- DCS_MADE_CLOSED_WINDOW (R34) -/
  | dcsMadeClosedWindow (d : DoorIx)
  /-- DLS_CONFIRMED (R177) -/
  | dlsConfirmed (d : DoorIx)
  /-- LOCK_ATTEMPT_EXPIRY (R178) -/
  | lockAttemptExpiry (d : DoorIx)
  /-- DLS_MADE_CLOSED_UNLOCKED (R34) -/
  | dlsMadeClosedUnlocked (d : DoorIx)
  /-- DCS_BREAK_CLOSED_UNLOCKED (R34) -/
  | dcsBreakClosedUnlocked (d : DoorIx)
  /-- REOPEN_DWELL_EXPIRY (R264) -/
  | reopenDwellExpiry (d : DoorIx)
  /-- PATH_COMPLETE (R109) -/
  | pathComplete (r : DriveIx)
  /-- ADAPT_WINDOW_END (R245) -/
  | adaptWindowEnd (d : DoorIx) (closing : Bool)
  /-- ADAPT_MRAM_WRITE (R246) -/
  | adaptMramWrite (d : DoorIx)
  /-- SEGMENT_END_EVENT (R115) -/
  | segmentEndEvent (r : DriveIx)
  /-- STOP_COMPLETE (R125) -/
  | stopComplete (r : DriveIx)
  /-- DRIVE_INTERRUPTION (R127) -/
  | driveInterruption (r : DriveIx) (x : Interruption)
  /-- INTERRUPTION_END (R658) -/
  | interruptionEnd (r : DriveIx) (x : Interruption)
  /-- COMPARE_FIRE (R130) -/
  | compareFire (r : DriveIx)
  /-- COMPARE_REARM (R131) -/
  | compareRearm (r : DriveIx)
  /-- ENCODER_SOURCE_COUNT (R135) -/
  | encoderSourceCount (e : Fin 2) (up : Bool)
  /-- HALL_CHANGE (R153) -/
  | hallChange (d : DoorIx) (code : BitVec 3) (since : Nat)
  /-- HALL_DROPOUT (R180) -/
  | hallDropout (d : DoorIx) (consistent : Bool) (after : Nat)
  /-- HALL_LOST_TIMEOUT (R180) -/
  | hallLostTimeout (d : DoorIx)
  /-- HALL_SUPPLY_FAULT (R180) -/
  | hallSupplyFault (d : DoorIx)
  /-- DRIVE_HARDWARE_TRIP (R182) -/
  | driveHardwareTrip (r : DriveIx) (trip : HwTrip) (leg : Fin 4) (peak : Nat)
  /-- DC_LINK_OUT_OF_RANGE (R182) -/
  | dcLinkOutOfRange (high : Bool)
  /-- DIRECTION_FAULT (R159) -/
  | directionFault (d : DoorIx)
  /-- FOLLOWING_ERROR (R164) -/
  | followingError (d : DoorIx)
  /-- THERMAL_HOLD (R163) -/
  | thermalHold (r : DriveIx) (temp : Int)
  /-- THERMAL_HOLD_CLEAR (R163) -/
  | thermalHoldClear (r : DriveIx) (temp : Int)
  /-- DCS_EDGE_CONFIRMED (R168) -/
  | dcsEdgeConfirmed (d : DoorIx) (make : Bool)
  /-- SEAL_STALL (R172) -/
  | sealStall (d : DoorIx)
  /-- SEAL_SEEK_OVERTRAVEL (R173) -/
  | sealSeekOvertravel (d : DoorIx)
  /-- STEP_TIMER_EXPIRY (R192) -/
  | stepTimerExpiry (d : DoorIx)
  /-- STALL_CONFIRMED (R199) -/
  | stallConfirmed (d : DoorIx) (onset : Int)
  /-- HOMING_OVERTRAVEL (R205) -/
  | homingOvertravel (d : DoorIx)
  /-- PARK_COMPLETE (R206) -/
  | parkComplete (d : DoorIx)
  /-- DEPLOY_COMPLETE (R213) -/
  | deployComplete (d : DoorIx)
  /-- DEPLOY_SDS_TIMEOUT (R214) -/
  | deploySdsTimeout (d : DoorIx)
  /-- SDS_LOST (R213) -/
  | sdsLost (d : DoorIx)
  /-- STEP_RETRY_PAUSE_EXPIRY (R218) -/
  | stepRetryPauseExpiry (d : DoorIx)
  /-- SE_FAST_ONSET (R251) -/
  | seFastOnset (d : DoorIx) (x : EdgeSample)
  /-- ROWAN_TRIP (R236) -/
  | rowanTrip (d : DoorIx) (iq acc temp : Int)
  /-- FINAL_CLOSURE_TRIP (R247) -/
  | finalClosureTrip (d : DoorIx) (m : FinalClosure)
  /-- LEVEL_ROW_CHANGE (R659) -/
  | levelRowChange (row : RowIx) (r : DriveIx) (present : Bool)
  /-- REFLEX_TRIP_TAKEN (R259) -/
  | reflexTripTaken (d : DoorIx)
  /-- REFLEX_STOP_END (R261) -/
  | reflexStopEnd (d : DoorIx)
  /-- REFLEX_LATCH_RELEASE (R268) -/
  | reflexLatchRelease (d : DoorIx)
  /-- SE_PATH_FAULT (R228) -/
  | sePathFault (d : DoorIx) (second : Bool)
  /-- SE_PATH_FAULT_CLEAR (R228) -/
  | sePathFaultClear (d : DoorIx)
  /-- ENV_BREAKAWAY_EXPIRY (R235) -/
  | envBreakawayExpiry (d : DoorIx)
  /-- ISOLATION_UPLINK_FRAME (R330) -/
  | isolationUplinkFrame (g : GroupIx) (group seq : BitVec 4) (crcOk : Bool) (raw : BitVec 16) (flags : BitVec 8)
  /-- KEEPER_CLOSED_SETTLE (R84) -/
  | keeperClosedSettle (d : DoorIx)
  /-- INPUT_SAMPLE (R320) -/
  | inputSample (g : GroupIx) (i : Fin 16) (vIn vCom : Nat)
  /-- LINE_BREAK (R326) -/
  | lineBreak (g : GroupIx) (i : Fin 16)
  /-- FEED_OUT_OF_RANGE (R326) -/
  | feedOutOfRange (g : GroupIx)
  /-- COMMON_FAULT_CLEAR (R326) -/
  | commonFaultClear (g : GroupIx)
  /-- FRONT_END_SELFTEST (R327) -/
  | frontEndSelftest (g : GroupIx) (pass : Bool)
  /-- GROUP_INVALID (R331) -/
  | groupInvalid (g : GroupIx)
  /-- GROUP_VALID (R331) -/
  | groupValid (g : GroupIx)
  /-- DOWNLINK_FRAME (R329) -/
  | downlinkFrame (g : GroupIx) (group seq : BitVec 4) (crcOk : Bool) (index : BitVec 4)
  /-- OUTPUT_TRIP (R344) -/
  | outputTrip (k : OutIx)
  /-- OUTPUT_RETRY (R344) -/
  | outputRetry (k : OutIx)
  /-- LOOP_DISAGREE_EXPIRY (R86) -/
  | loopDisagreeExpiry (p : LoopPair)
  /-- BYPASS_CHANGE (R94) -/
  | bypassChange (active : Bool)
  /-- LSW_COMMAND_FRAME (R300) -/
  | lswCommandFrame (seq : BitVec 8) (crcOk : Bool) (mode : LswMode)
  /-- INRUSH_WINDOW_END (R280) -/
  | inrushWindowEnd (n : ChanIx) (current : Nat)
  /-- OC_STEADY (R282) -/
  | ocSteady (n : ChanIx) (current : Nat)
  /-- OC_SHORT (R283) -/
  | ocShort (n : ChanIx)
  /-- RETRY_BACKOFF_EXPIRY (R284) -/
  | retryBackoffExpiry (n : ChanIx)
  /-- RETRY_RESTORE (R285) -/
  | retryRestore (n : ChanIx)
  /-- THERMAL_LATCH (R286) -/
  | thermalLatch (n : ChanIx)
  /-- RAIL_SAG (R288) -/
  | railSag (d : DoorIx) (duration : Nat)
  /-- OFF_STATE_TEST (R290) -/
  | offStateTest (n : ChanIx) (r : OffTest)
  /-- OPEN_LOAD_ON (R294) -/
  | openLoadOn (n : ChanIx) (current : Nat)
  /-- KEEP_WARM_REGULATION (R297) -/
  | keepWarmRegulation (n : ChanIx) (vOut current : Nat)
  /-- HEATER_MEASURE_PULSE (R298) -/
  | heaterMeasurePulse (n : ChanIx) (vOut current : Nat)
  /-- FLASH_TOGGLE (R276) -/
  | flashToggle (n : ChanIx)
  /-- RING_FRAME_RECEIVED (R432) -/
  | ringFrameReceived (p : PortIx) (f : RingFrame)
  /-- NODE_TIMEOUT (R438) -/
  | nodeTimeout (addr : BitVec 8)
  /-- PORT_DOWN (R440) -/
  | portDown (p : PortIx)
  /-- PORT_UP (R442) -/
  | portUp (p : PortIx)
  /-- CAN_FRAME_RECEIVED (R480) -/
  | canFrameReceived (ch : CanIx) (f : CanFrame)
  /-- CAN_QUEUE_SERVICE (R483) -/
  | canQueueService (ch : CanIx)
  /-- CAN_BUS_OFF (R473) -/
  | canBusOff (ch : CanIx)
  /-- CAN_BUS_RECOVERED (R473) -/
  | canBusRecovered (ch : CanIx)
  /-- CAN_INTEGRATION_COMPLETE (R474) -/
  | canIntegrationComplete (ch : CanIx)
  /-- BASIC_CYCLE_START (R488) -/
  | basicCycleStart (ch : CanIx)
  /-- SLOT_TXB0_LOAD (R491) -/
  | slotTxb0Load (ch : CanIx) (slot : BitVec 8)
  /-- TX_LATEST_START (R477) -/
  | txLatestStart (ch : CanIx) (buf : TxBuf)
  /-- CAN_FRAME_TRANSMITTED (R477) -/
  | canFrameTransmitted (ch : CanIx) (ready : BitVec 3) (result : TxResult)
  /-- SCHED_SYNC_LOST (R490) -/
  | schedSyncLost (ch : CanIx)
  /-- FLUSH_COMPLETE (R513) -/
  | flushComplete (us : Nat)
  /-- INCIDENT_COMPLETE (R509) -/
  | incidentComplete (slot : Fin 9)
  /-- SUBSTITUTION_COMPLETE (R601) -/
  | substitutionComplete (pair : Fin 4) (pass : Bool)
  /-- AUTO_RESUME (R603) -/
  | autoResume (d : DoorIx)
  /-- UPLINK_FRAME_MISSED (R84) -/
  | uplinkFrameMissed (g : GroupIx)
  /-- FRONT_END_SUPPLY_FAULT (R326) -/
  | frontEndSupplyFault (g : GroupIx) (present : Bool)
  /-- MAINT_OPEN_HOLD_EXPIRY (R61) -/
  | maintOpenHoldExpiry (d : DoorIx)
  /-- SELFTEST_COMPLETE (R618) -/
  | selftestComplete (failed : BitVec 16) (legs : List (Fin 4 × Fin 14)) (latency : BitVec 16)
  /-- SUPPLY_FAIL (R553) -/
  | supplyFail
  /-- SUPPLY_RETURN (R553) -/
  | supplyReturn
  /-- HOLDUP_RESERVE_REACHED (R554) -/
  | holdupReserveReached
  /-- HOLDUP_EXHAUSTED (R554) -/
  | holdupExhausted
  /-- STABLE_HOLDUP_TIMEOUT (R555) -/
  | stableHoldupTimeout
  /-- CARTRIDGE_REMOVED (R556) -/
  | cartridgeRemoved
  /-- CARTRIDGE_CHARGED (R556) -/
  | cartridgeCharged
  /-- PRECHARGE_COMPLETE (R548) -/
  | prechargeComplete
  /-- POWER_ENTRY_COMMIT (R540) -/
  | powerEntryCommit
  /-- WAKE_FROM_STABLE (R545) -/
  | wakeFromStable
  /-- SERVICE_LINK_ENERGY (R544) -/
  | serviceLinkEnergy
  /-- WAKE_ALARM (R544) -/
  | wakeAlarm
  /-- SUPV_WATCHDOG_EXPIRY (R568) -/
  | supvWatchdogExpiry
  /-- LOCKSTEP_MISMATCH (R571) -/
  | lockstepMismatch
  /-- SUPV_RESTART (R572) -/
  | supvRestart
  /-- COMMS_WATCHDOG_EXPIRY (R569) -/
  | commsWatchdogExpiry
  /-- COMMS_RESTART (R569) -/
  | commsRestart
  /-- APP_WATCHDOG_HALF (R578) -/
  | appWatchdogHalf
  /-- APP_WATCHDOG_EXPIRY (R578) -/
  | appWatchdogExpiry
  /-- APP_EXCEPTION (R583) -/
  | appException
  /-- APP_AUTORESTART (R585) -/
  | appAutorestart
  /-- TMR_NOW_LO_READ (R577) -/
  | tmrNowLoRead
  /-- MBX_SLOT_TAKEN (R580) -/
  | mbxSlotTaken
  /-- MBX_INBOUND_FILL (R581) -/
  | mbxInboundFill
  /-- SAFE_POINT_FOUND (R410) -/
  | safePointFound
  /-- SAFE_POINT_TIMEOUT (R410) -/
  | safePointTimeout
  /-- ERASE_CLEAR_COMPLETE (R526) -/
  | eraseClearComplete
  /-- SUPV_UPDATE (R613) -/
  | supvUpdate
  /-- COMMS_UPDATE (R613) -/
  | commsUpdate
  /-- UPDATE_WAIT_TIMEOUT (R616) -/
  | updateWaitTimeout
  /-- ORIENT_SETTLE_EXPIRY (R20) -/
  | orientSettleExpiry
  /-- ZSPD_DISCREP_EXPIRY (R73) -/
  | zspdDiscrepExpiry
  /-- QUINCE_CLOCK_FAULT (R255) -/
  | quinceClockFault
  /-- DOWNLINK_LOST (R332) -/
  | downlinkLost
  /-- OUTPUT_HOLD_TIMEOUT (R345) -/
  | outputHoldTimeout
  /-- DISCREPANCY_CLEAR_EXPIRY (R88) -/
  | discrepancyClearExpiry
  /-- LOOP_RB_TIME_EXPIRY (R82) -/
  | loopRbTimeExpiry
  /-- KEEPER_ALONE_TIMEOUT (R97) -/
  | keeperAloneTimeout
  /-- LSW_WATCHDOG_TIMEOUT (R301) -/
  | lswWatchdogTimeout
  /-- UPDATE_HOLD_TIMEOUT (R304) -/
  | updateHoldTimeout
  /-- BEACON_TRANSMIT (R436) -/
  | beaconTransmit
  /-- TIME_AGE_COUNT (R447) -/
  | timeAgeCount
  /-- ADDRESS_CONFLICT_CLEAR (R439) -/
  | addressConflictClear
  /-- ETHERTYPE_CONFLICT_CLEAR (R434) -/
  | ethertypeConflictClear
  /-- CONSIST_MISMATCH_CLEAR (R454) -/
  | consistMismatchClear
  /-- VERSION_MISMATCH_CLEAR (R455) -/
  | versionMismatchClear
  /-- RING_INSERTION (R445) -/
  | ringInsertion
  /-- RING_REMOVAL (R445) -/
  | ringRemoval
  /-- FLUSH_START (R511) -/
  | flushStart
  /-- FLUSH_EACH_RECORD (R516) -/
  | flushEachRecord
  /-- MIRROR_REFRESH (R576) -/
  | mirrorRefresh
  deriving DecidableEq, Repr

end Sys2Proof
end

