-- ==== Sys2Proof/Decode.lean ====
section
/-!
DEFINITION. The command that a table word spells. spec/opcode_table.json gives its rows no bits: a command is an occurrence or
a packet with typed operands, so no word spells one (note 83). The bytes of a packet are read by Machine/FcpPackets.lean.
-/

namespace Sys2Proof

/-- No row of the table has bits. -/
def decodeTableWord (_nbits _w : Nat) : Option Instr := none

end Sys2Proof
end

