-- ==== Sys2Proof/Config.lean ====
section
/-!
DEFINITION. What the spec leaves open: values that only the outside world or one part number fixes. Each is an opaque
constant, so nothing can be proved of its value; a free value is read at the free counter of State, which advances
with each use.
-/

namespace Sys2Proof

/-- A quantity the module measures and whose value no command states. -/
inductive Quantity where
  | iqMeas | idMeas | dcLink | coilCurrent | loadAngle | emf | baseplate | supply | stackVoltage | stackEnergy
  | cellVoltage | current | outVoltage | switchTemp | feedVoltage | outCurrent | peakDoor | peakStep | energy
  | minSupply | effort | closeEnergy | hallRatio | edgeCount | gateSupply | hallSupply | senseOffset | nonce | account
  | phaseCurrent | chopCurrent | chopMean | coilSlope | legTest | visited | capacitance | esr | trace | interruptedPc | clock
  deriving DecidableEq, Repr

/-- Free value: the n-th measurement of a quantity (note 4). -/
opaque Config.measured : Quantity → Nat → Int

/-- Free value: whether the signature of a firmware image verifies under the vendor key its header names (R606, note 62). -/
opaque Config.firmwareSigned : List Byte → Bool

/-- Free value: the version in a firmware image's header, whose layout the spec does not give (R606, note 62). -/
opaque Config.firmwareVersion : List Byte → BitVec 32

/-- Free value: ROLLBACK_MIN in a firmware image's header (R606, note 62). -/
opaque Config.firmwareRollbackMin : List Byte → BitVec 32

end Sys2Proof
end

