-- ==== Sys2Proof/Machine/Bytes.lean ====
section
/-!
DEFINITION. Bytes and numbers: the little-endian packing of R6, two's complement (R8), bit words (R7),
saturating counters, CRC-32C (R351), and the integer square root the motion generator uses.
-/

namespace Sys2Proof.Machine

/-- The n low bytes of v, lowest first (R6). -/
def le : Nat → Nat → List Byte
  | 0, _ => []
  | n + 1, v => BitVec.ofNat 8 v :: le n (v / 256)

/-- A signed value in n bytes, two's complement (R8). -/
def leInt (n : Nat) (v : Int) : List Byte := le n (v % ((256 : Int) ^ n)).toNat

/-- The value of bytes, lowest first (R6). -/
def ofLe : List Byte → Nat
  | [] => 0
  | b :: bs => b.toNat + 256 * ofLe bs

/-- The unsigned field of n bytes at an offset of a byte list; absent bytes read as zero. -/
def fieldAt (bs : List Byte) (off n : Nat) : Nat := ofLe ((bs.drop off).take n)

/-- A raw value of that many bits as a signed number (R8). -/
def signedOf (bits raw : Nat) : Int := if raw < 2 ^ (bits - 1) then (raw : Int) else (raw : Int) - 2 ^ bits

/-- The signed field of n bytes at an offset. -/
def fieldIntAt (bs : List Byte) (off n : Nat) : Int := signedOf (8 * n) (fieldAt bs off n)

/-- A word whose bit i is the i-th entry (R7). -/
def bitWord : List Bool → Nat
  | [] => 0
  | b :: bs => b.toNat + 2 * bitWord bs

/-- Bit i of a word (R7). -/
def bitOf (w i : Nat) : Bool := (w / 2 ^ i) % 2 == 1

/-- A counter of that many bits counts up and saturates at its maximum. -/
def satAdd (bits v n : Nat) : Nat := min (v + n) (2 ^ bits - 1)

/-- One more, saturating. -/
def satInc (bits v : Nat) : Nat := satAdd bits v 1

/-- Saturation to a number of bits. -/
def satTo (bits v : Nat) : Nat := min v (2 ^ bits - 1)

/-- A value held between two bounds. -/
def clampInt (lo hi v : Int) : Int := max lo (min hi v)

/-- Sign of an integer. -/
def sgn (v : Int) : Int := if v < 0 then -1 else if v = 0 then 0 else 1

/-- Quotient rounded to the nearest integer, halves away from zero; denominators are positive. -/
def roundDiv (n d : Int) : Int :=
  if d = 0 then 0 else if 0 ≤ n then (2 * n + d) / (2 * d) else -((2 * (-n) + d) / (2 * d))

/-- Integer square root, one result bit per unit of fuel, from the top bit down. -/
def isqrtFrom (n : Nat) : Nat → Nat → Nat
  | 0, r => r
  | k + 1, r => let r' := r + 2 ^ k; if r' * r' ≤ n then isqrtFrom n k r' else isqrtFrom n k r

/-- The largest r with r² ≤ n, for n below 2^128. -/
def isqrt (n : Nat) : Nat := isqrtFrom n 64 0

/-- One bit of the reflected CRC-32C. -/
def crcBit (c : Nat) : Nat := if c % 2 = 1 then (c / 2) ^^^ 0x82F63B78 else c / 2

/-- One byte into the CRC-32C. -/
def crcByte (c : Nat) (b : Byte) : Nat :=
  crcBit (crcBit (crcBit (crcBit (crcBit (crcBit (crcBit (crcBit (c ^^^ b.toNat))))))))

/-- R351: CRC-32C, polynomial 0x1EDC6F41 reflected, initial value and final exclusive-or 0xFFFF_FFFF. -/
def crc32c (bs : List Byte) : Nat := (bs.foldl crcByte 0xFFFFFFFF) ^^^ 0xFFFFFFFF

/-- The eight doorways in order. -/
def doorways : List DoorIx := [0, 1, 2, 3, 4, 5, 6, 7]

/-- The sixteen drives in order. -/
def drives : List DriveIx := [0, 1, 2, 3, 4, 5, 6, 7, 8, 9, 10, 11, 12, 13, 14, 15]

/-- The six sessions in order. -/
def sessions : List SessIx := [0, 1, 2, 3, 4, 5]

/-- The doorway of a drive (R107). -/
def doorOf (r : DriveIx) : DoorIx := ⟨r.val / 2, by omega⟩

/-- Whether a drive is a step drive (R107). -/
def isStep (r : DriveIx) : Bool := r.val % 2 == 1

/-- The door drive of a doorway (R107). -/
def doorDrive (d : DoorIx) : DriveIx := ⟨2 * d.val, by omega⟩

/-- The step drive of a doorway (R107). -/
def stepDrive (d : DoorIx) : DriveIx := ⟨2 * d.val + 1, by omega⟩

/-- A table of n entries by its index. -/
def tab {α : Type} (n : Nat) (f : Fin n → α) : Vector α n := ⟨⟨(List.finRange n).map f⟩, by simp⟩

/-- An entry of a table is what its function gives. -/
theorem tab_get {α : Type} {n : Nat} (f : Fin n → α) (i : Fin n) : (tab n f)[i] = f i := by simp [tab]

/-- One bit of a 16-bit word. -/
def setBit (w : BitVec 16) (i : Nat) (b : Bool) : BitVec 16 :=
  if b then w ||| (1#16 <<< i) else w &&& ~~~(1#16 <<< i)

/-- A 16-bit word by its bits. -/
def word16 (f : Nat → Bool) : BitVec 16 := BitVec.ofNat 16 (bitWord ((List.range 16).map f))

/-- The number of set bits among the n lowest of a word. -/
def popCount (n w : Nat) : Nat := ((List.range n).filter (bitOf w)).length

end Sys2Proof.Machine
end

