-- ==== Sys2Proof/Machine/Settings.lean ====
section
/-!
DEFINITION. The configuration in force, as the committed image gives it: a list of values by object index and
subindex, in ascending order, with the documented default where the image has no record (R403). One accessor per
setting, named as the object tables name it.
-/

namespace Sys2Proof.Machine

/-- The records in force: object key and raw little-endian value, keys strictly rising. -/
abbrev Cfg := List (Nat × Nat)

/-- The key of an object: index × 256 + subindex. -/
def key (index sub : Nat) : Nat := index * 256 + sub

/-- The raw value of a record, where the image has one. -/
def Cfg.find : Cfg → Nat → Option Nat
  | [], _ => none
  | (k, v) :: r, q => if k = q then some v else Cfg.find r q

/-- An unsigned setting or its default. -/
def Cfg.unsigned (c : Cfg) (k d : Nat) : Nat := (c.find k).getD d

/-- A signed setting of that many bits or its default. -/
def Cfg.signed (c : Cfg) (k bits : Nat) (d : Int) : Int :=
  match c.find k with
  | some v => signedOf bits v
  | none => d

/-- FITTED (+0x00.01, R63): 1 fitted, 0 not fitted. -/
def Cfg.fitted (c : Cfg) (d : DoorIx) : Nat := Cfg.unsigned c (key (0x2000 + d.val * 0x100 + 0x00) 0x01) 0

/-- SIDE (+0x00.02, R63): 0 side A, 1 side B. -/
def Cfg.side (c : Cfg) (d : DoorIx) : Nat := Cfg.unsigned c (key (0x2000 + d.val * 0x100 + 0x00) 0x02) (d.val / 4)

/-- POSITION (+0x00.03, R63): Position 0–7 from car end 1. -/
def Cfg.position (c : Cfg) (d : DoorIx) : Nat := Cfg.unsigned c (key (0x2000 + d.val * 0x100 + 0x00) 0x03) (d.val % 4)

/-- OPEN_MODE (+0x03.01, R63): 0 on demand, 1 automatic on release. -/
def Cfg.openMode (c : Cfg) (d : DoorIx) : Nat := Cfg.unsigned c (key (0x2000 + d.val * 0x100 + 0x03) 0x01) 0

/-- DWELL (+0x03.02, R63): µs; 0 never, else 2,000,000 to 600,000,000. -/
def Cfg.dwell (c : Cfg) (d : DoorIx) : Nat := Cfg.unsigned c (key (0x2000 + d.val * 0x100 + 0x03) 0x02) 0

/-- PRE_CLOSE_WARN (+0x03.03, R63): µs; 0 to 10,000,000; default 2,000,000. -/
def Cfg.preCloseWarn (c : Cfg) (d : DoorIx) : Nat := Cfg.unsigned c (key (0x2000 + d.val * 0x100 + 0x03) 0x03) 2000000

/-- REOPEN_ON_DEMAND (+0x03.04, R63): 0 or 1; default 1. -/
def Cfg.reopenOnDemand (c : Cfg) (d : DoorIx) : Nat := Cfg.unsigned c (key (0x2000 + d.val * 0x100 + 0x03) 0x04) 1

/-- UNLOCK_TIMEOUT (+0x03.05, R63): µs; 200,000 to 5,000,000; default 1,000,000. -/
def Cfg.unlockTimeout (c : Cfg) (d : DoorIx) : Nat := Cfg.unsigned c (key (0x2000 + d.val * 0x100 + 0x03) 0x05) 1000000

/-- LOCK_TIMEOUT (+0x03.06, R63): µs; 200,000 to 5,000,000; default 1,000,000. -/
def Cfg.lockTimeout (c : Cfg) (d : DoorIx) : Nat := Cfg.unsigned c (key (0x2000 + d.val * 0x100 + 0x03) 0x06) 1000000

/-- LOCK_RETRIES (+0x03.07, R63): 0 to 5; default 2. -/
def Cfg.lockRetries (c : Cfg) (d : DoorIx) : Nat := Cfg.unsigned c (key (0x2000 + d.val * 0x100 + 0x03) 0x07) 2

/-- STEP_FITTED (+0x03.08, R63): 0 or 1; default 1. -/
def Cfg.stepFitted (c : Cfg) (d : DoorIx) : Nat := Cfg.unsigned c (key (0x2000 + d.val * 0x100 + 0x03) 0x08) 1

/-- CAR_ORIENT (0x1100.01, R63): 0 side A left facing end 1, 1 side A right. -/
def Cfg.carOrient (c : Cfg) : Nat := Cfg.unsigned c (key 0x1100 0x01) 0

/-- ORIENT_SETTLE (0x1100.02, R63): µs; 100,000 to 2,000,000; default 500,000. -/
def Cfg.orientSettle (c : Cfg) : Nat := Cfg.unsigned c (key 0x1100 0x02) 500000

/-- REL_SETTLE (0x1200.01, R104): µs; 0 to 1,000,000; default 100,000; consist-shared. -/
def Cfg.relSettle (c : Cfg) : Nat := Cfg.unsigned c (key 0x1200 0x01) 100000

/-- ZSPD_DISCREP_TIME (0x1200.02, R104): µs; 500,000 to 10,000,000; default 2,000,000; consist-shared. -/
def Cfg.zspdDiscrepTime (c : Cfg) : Nat := Cfg.unsigned c (key 0x1200 0x02) 2000000

/-- LOOP_DISAGREE_TIME (0x1200.03, R104): µs; 20,000 to 500,000; default 100,000; limited by R90. -/
def Cfg.loopDisagreeTime (c : Cfg) : Nat := Cfg.unsigned c (key 0x1200 0x03) 100000

/-- LOOP_RB_TIME (0x1200.04, R104): µs; 20,000 to 1,000,000; default 200,000. -/
def Cfg.loopRbTime (c : Cfg) : Nat := Cfg.unsigned c (key 0x1200 0x04) 200000

/-- LOOP_RB_FITTED (0x1200.05, R104): 0 or 1; default 1. -/
def Cfg.loopRbFitted (c : Cfg) : Nat := Cfg.unsigned c (key 0x1200 0x05) 1

/-- WELD_BLOCKS_RELEASE (0x1200.06, R104): 0 or 1; default 1. -/
def Cfg.weldBlocksRelease (c : Cfg) : Nat := Cfg.unsigned c (key 0x1200 0x06) 1

/-- SOURCE_DRIVE (0x1300, 0x1301.01, R146): Drive 0 to 15; 0xFF output off. Without a record the output is off (DESIGN
CHOICE, note 66). -/
def Cfg.encSourceDrive (c : Cfg) (e : Fin 2) : Nat := Cfg.unsigned c (key (0x1300 + e.val) 0x01) 0xFF

/-- RATIO_N (0x1300, 0x1301.02, R146): N under R135; 1 without a record (DESIGN CHOICE, note 66). -/
def Cfg.encRatioN (c : Cfg) (e : Fin 2) : Nat := Cfg.unsigned c (key (0x1300 + e.val) 0x02) 1

/-- RATIO_M (0x1300, 0x1301.03, R146): M under R135; 1 without a record (DESIGN CHOICE, note 66). -/
def Cfg.encRatioM (c : Cfg) (e : Fin 2) : Nat := Cfg.unsigned c (key (0x1300 + e.val) 0x03) 1

/-- INVERT (0x1300, 0x1301.04, R146): 1 swaps the lead of A and B. -/
def Cfg.encInvert (c : Cfg) (e : Fin 2) : Nat := Cfg.unsigned c (key (0x1300 + e.val) 0x04) 0

/-- EDGE_PITCH (+0x20.01, R185): µm per Hall edge; 100 to 5,000; default 800. -/
def Cfg.edgePitch (c : Cfg) (d : DoorIx) : Nat := Cfg.unsigned c (key (0x2000 + d.val * 0x100 + 0x20) 0x01) 800

/-- HALL_SEQUENCE (+0x20.02, R185): Table 4.2; default 0. -/
def Cfg.hallSequence (c : Cfg) (d : DoorIx) : Nat := Cfg.unsigned c (key (0x2000 + d.val * 0x100 + 0x20) 0x02) 0

/-- HALL_OFFSET (+0x20.03, R185): 0.1° electrical; −1800 to 1799; default 0. -/
def Cfg.hallOffset (c : Cfg) (d : DoorIx) : Int := Cfg.signed c (key (0x2000 + d.val * 0x100 + 0x20) 0x03) 16 0

/-- MOTOR_R (+0x20.04, R185): mΩ phase resistance; 50 to 20,000. -/
def Cfg.motorR (c : Cfg) (d : DoorIx) : Nat := Cfg.unsigned c (key (0x2000 + d.val * 0x100 + 0x20) 0x04) 0

/-- MOTOR_L (+0x20.05, R185): µH phase inductance; 50 to 20,000. -/
def Cfg.motorL (c : Cfg) (d : DoorIx) : Nat := Cfg.unsigned c (key (0x2000 + d.val * 0x100 + 0x20) 0x05) 0

/-- CLOSED_WINDOW (+0x20.06, R185): µm; 1,000 to 10,000; default 4,000. -/
def Cfg.closedWindow (c : Cfg) (d : DoorIx) : Nat := Cfg.unsigned c (key (0x2000 + d.val * 0x100 + 0x20) 0x06) 4000

/-- V_CREEP (+0x20.07, R185): µm/s; 10,000 to 100,000; default 50,000. -/
def Cfg.vCreep (c : Cfg) (d : DoorIx) : Nat := Cfg.unsigned c (key (0x2000 + d.val * 0x100 + 0x20) 0x07) 50000

/-- SEAL_STALL_TIME (+0x20.08, R185): µs; 50,000 to 1,000,000; default 200,000. -/
def Cfg.sealStallTime (c : Cfg) (d : DoorIx) : Nat := Cfg.unsigned c (key (0x2000 + d.val * 0x100 + 0x20) 0x08) 200000

/-- SEAL_SEEK_MAX (+0x20.09, R185): µm; 10,000 to 200,000; default 100,000; R173. -/
def Cfg.sealSeekMax (c : Cfg) (d : DoorIx) : Nat := Cfg.unsigned c (key (0x2000 + d.val * 0x100 + 0x20) 0x09) 100000

/-- I_LIMIT (+0x21.01, R185): mA; 1,000 to 15,000; default 6,000. -/
def Cfg.iLimit (c : Cfg) (d : DoorIx) : Nat := Cfg.unsigned c (key (0x2000 + d.val * 0x100 + 0x21) 0x01) 6000

/-- I_LOW (+0x21.02, R185): mA; 500 to I_LIMIT; default 2,500. -/
def Cfg.iLow (c : Cfg) (d : DoorIx) : Nat := Cfg.unsigned c (key (0x2000 + d.val * 0x100 + 0x21) 0x02) 2500

/-- I_SEAL (+0x21.03, R185): mA; 500 to 8,000; default 3,000. -/
def Cfg.iSeal (c : Cfg) (d : DoorIx) : Nat := Cfg.unsigned c (key (0x2000 + d.val * 0x100 + 0x21) 0x03) 3000

/-- I_LOCK_PUSH (+0x21.04, R185): mA; 500 to 8,000; default 3,000. -/
def Cfg.iLockPush (c : Cfg) (d : DoorIx) : Nat := Cfg.unsigned c (key (0x2000 + d.val * 0x100 + 0x21) 0x04) 3000

/-- I_PRELOAD (+0x21.05, R185): mA; 0 to 5,000; default 1,500. -/
def Cfg.iPreload (c : Cfg) (d : DoorIx) : Nat := Cfg.unsigned c (key (0x2000 + d.val * 0x100 + 0x21) 0x05) 1500

/-- I_HOLD (+0x21.06, R185): mA; 0 to 5,000; default 1,000. -/
def Cfg.iHold (c : Cfg) (d : DoorIx) : Nat := Cfg.unsigned c (key (0x2000 + d.val * 0x100 + 0x21) 0x06) 1000

/-- I_TRIP (+0x21.07, R185): mA; fixed 20,000. -/
def Cfg.iTrip (c : Cfg) (d : DoorIx) : Nat := Cfg.unsigned c (key (0x2000 + d.val * 0x100 + 0x21) 0x07) 20000

/-- KP_POS (+0x22.01, R185): 0.1 s⁻¹; default 300. -/
def Cfg.kpPos (c : Cfg) (d : DoorIx) : Nat := Cfg.unsigned c (key (0x2000 + d.val * 0x100 + 0x22) 0x01) 300

/-- KV (+0x22.02, R185): mA per 1,000 µm/s; default 40. -/
def Cfg.kv (c : Cfg) (d : DoorIx) : Nat := Cfg.unsigned c (key (0x2000 + d.val * 0x100 + 0x22) 0x02) 40

/-- KI_VEL (+0x22.03, R185): mA per 1,000 µm; default 400. -/
def Cfg.kiVel (c : Cfg) (d : DoorIx) : Nat := Cfg.unsigned c (key (0x2000 + d.val * 0x100 + 0x22) 0x03) 400

/-- KFF_ACC (+0x22.04, R185): mA per 1,000,000 µm/s²; default 3,000. -/
def Cfg.kffAcc (c : Cfg) (d : DoorIx) : Nat := Cfg.unsigned c (key (0x2000 + d.val * 0x100 + 0x22) 0x04) 3000

/-- KFRICTION (+0x22.05, R185): mA; default 800. -/
def Cfg.kfriction (c : Cfg) (d : DoorIx) : Nat := Cfg.unsigned c (key (0x2000 + d.val * 0x100 + 0x22) 0x05) 800

/-- CUR_BW (+0x22.06, R185): Hz; 300 to 3,000; default 1,500. -/
def Cfg.curBw (c : Cfg) (d : DoorIx) : Nat := Cfg.unsigned c (key (0x2000 + d.val * 0x100 + 0x22) 0x06) 1500

/-- FOLLOW_ERR_MAX (+0x22.07, R185): µm; 2,000 to 100,000; default 20,000. -/
def Cfg.followErrMax (c : Cfg) (d : DoorIx) : Nat := Cfg.unsigned c (key (0x2000 + d.val * 0x100 + 0x22) 0x07) 20000

/-- FOLLOW_ERR_TIME (+0x22.08, R185): µs; 20,000 to 2,000,000; default 200,000. -/
def Cfg.followErrTime (c : Cfg) (d : DoorIx) : Nat := Cfg.unsigned c (key (0x2000 + d.val * 0x100 + 0x22) 0x08) 200000

/-- MOTOR_R_STEP (+0x28.01, R224): mΩ coil resistance; 100 to 50,000. -/
def Cfg.motorRStep (c : Cfg) (d : DoorIx) : Nat := Cfg.unsigned c (key (0x2000 + d.val * 0x100 + 0x28) 0x01) 0

/-- MOTOR_L_STEP (+0x28.02, R224): µH coil inductance; 100 to 60,000. -/
def Cfg.motorLStep (c : Cfg) (d : DoorIx) : Nat := Cfg.unsigned c (key (0x2000 + d.val * 0x100 + 0x28) 0x02) 0

/-- KE_STEP (+0x28.03, R224): mV peak per 1,000 microsteps/s. -/
def Cfg.keStep (c : Cfg) (d : DoorIx) : Nat := Cfg.unsigned c (key (0x2000 + d.val * 0x100 + 0x28) 0x03) 0

/-- I_RUN (+0x28.04, R224): mA peak; 200 to 3,000; default 1,500. -/
def Cfg.iRun (c : Cfg) (d : DoorIx) : Nat := Cfg.unsigned c (key (0x2000 + d.val * 0x100 + 0x28) 0x04) 1500

/-- I_STEP_LOW (+0x28.05, R224): mA; 200 to I_RUN; default 800. -/
def Cfg.iStepLow (c : Cfg) (d : DoorIx) : Nat := Cfg.unsigned c (key (0x2000 + d.val * 0x100 + 0x28) 0x05) 800

/-- I_HOME (+0x28.06, R224): mA; 200 to I_RUN; default 600. -/
def Cfg.iHome (c : Cfg) (d : DoorIx) : Nat := Cfg.unsigned c (key (0x2000 + d.val * 0x100 + 0x28) 0x06) 600

/-- I_STEP_HOLD (+0x28.07, R224): mA; 0 to I_RUN; default 0. -/
def Cfg.iStepHold (c : Cfg) (d : DoorIx) : Nat := Cfg.unsigned c (key (0x2000 + d.val * 0x100 + 0x28) 0x07) 0

/-- HYST_BAND (+0x28.08, R224): mA; 50 to 500; default 150. -/
def Cfg.hystBand (c : Cfg) (d : DoorIx) : Nat := Cfg.unsigned c (key (0x2000 + d.val * 0x100 + 0x28) 0x08) 150

/-- STEP_DIRECTION (+0x28.09, R224): 0 or 1; R189. -/
def Cfg.stepDirection (c : Cfg) (d : DoorIx) : Nat := Cfg.unsigned c (key (0x2000 + d.val * 0x100 + 0x28) 0x09) 0

/-- HOME_START_POS (+0x29.01, R224): microsteps; 128 to 6,400; default 640. -/
def Cfg.homeStartPos (c : Cfg) (d : DoorIx) : Int := Cfg.signed c (key (0x2000 + d.val * 0x100 + 0x29) 0x01) 32 640

/-- HOME_SPEED (+0x29.02, R224): microsteps/s; 2,000 to 16,000; default 4,000. -/
def Cfg.homeSpeed (c : Cfg) (d : DoorIx) : Nat := Cfg.unsigned c (key (0x2000 + d.val * 0x100 + 0x29) 0x02) 4000

/-- HOME_OVERTRAVEL (+0x29.03, R224): microsteps; 64 to 1,280; default 256. -/
def Cfg.homeOvertravel (c : Cfg) (d : DoorIx) : Nat := Cfg.unsigned c (key (0x2000 + d.val * 0x100 + 0x29) 0x03) 256

/-- STALL_ANGLE (+0x29.04, R224): 0.1° electrical; 700 to 1,500; default 1,100. -/
def Cfg.stallAngle (c : Cfg) (d : DoorIx) : Nat := Cfg.unsigned c (key (0x2000 + d.val * 0x100 + 0x29) 0x04) 1100

/-- STALL_EMF (+0x29.05, R224): %; 10 to 60; default 30. -/
def Cfg.stallEmf (c : Cfg) (d : DoorIx) : Nat := Cfg.unsigned c (key (0x2000 + d.val * 0x100 + 0x29) 0x05) 30

/-- STALL_STEPS (+0x29.06, R224): 2 to 8; default 3. -/
def Cfg.stallSteps (c : Cfg) (d : DoorIx) : Nat := Cfg.unsigned c (key (0x2000 + d.val * 0x100 + 0x29) 0x06) 3

/-- SRS_OFFSET_TOL (+0x29.07, R224): microsteps; 16 to 640; default 64. -/
def Cfg.srsOffsetTol (c : Cfg) (d : DoorIx) : Nat := Cfg.unsigned c (key (0x2000 + d.val * 0x100 + 0x29) 0x07) 64

/-- STEP_SEQUENCE (+0x29.08, R224): R212; default 0. -/
def Cfg.stepSequence (c : Cfg) (d : DoorIx) : Nat := Cfg.unsigned c (key (0x2000 + d.val * 0x100 + 0x29) 0x08) 0

/-- DEPLOY_WINDOW (+0x29.09, R224): microsteps; 32 to 640; default 128. -/
def Cfg.deployWindow (c : Cfg) (d : DoorIx) : Nat := Cfg.unsigned c (key (0x2000 + d.val * 0x100 + 0x29) 0x09) 128

/-- STEP_RETRIES (+0x29.0A, R224): 0 to 3; default 1. -/
def Cfg.stepRetries (c : Cfg) (d : DoorIx) : Nat := Cfg.unsigned c (key (0x2000 + d.val * 0x100 + 0x29) 0x0A) 1

/-- STEP_RETRY_PAUSE (+0x29.0B, R224): µs; 200,000 to 5,000,000; default 1,000,000. -/
def Cfg.stepRetryPause (c : Cfg) (d : DoorIx) : Nat := Cfg.unsigned c (key (0x2000 + d.val * 0x100 + 0x29) 0x0B) 1000000

/-- KT (+0x30.01, R269): mN·m/A; 10 to 2,000. -/
def Cfg.kt (c : Cfg) (d : DoorIx) : Nat := Cfg.unsigned c (key (0x2000 + d.val * 0x100 + 0x30) 0x01) 0

/-- TRANS_LEAD (+0x30.02, R269): µm of leaf travel per motor revolution; 5,000 to 500,000. -/
def Cfg.transLead (c : Cfg) (d : DoorIx) : Nat := Cfg.unsigned c (key (0x2000 + d.val * 0x100 + 0x30) 0x02) 0

/-- TRANS_EFF (+0x30.03, R269): %; 50 to 100; default 85. -/
def Cfg.transEff (c : Cfg) (d : DoorIx) : Nat := Cfg.unsigned c (key (0x2000 + d.val * 0x100 + 0x30) 0x03) 85

/-- FRIC_COULOMB (+0x30.04, R269): 0.1 N; 0 to 1,000. -/
def Cfg.fricCoulomb (c : Cfg) (d : DoorIx) : Nat := Cfg.unsigned c (key (0x2000 + d.val * 0x100 + 0x30) 0x04) 0

/-- FRIC_VISCOUS (+0x30.05, R269): 0.1 N per m/s; 0 to 2,000. -/
def Cfg.fricViscous (c : Cfg) (d : DoorIx) : Nat := Cfg.unsigned c (key (0x2000 + d.val * 0x100 + 0x30) 0x05) 0

/-- FORCE_CEILING (+0x30.06, R269): 0.1 N; 300 to 3,000; default 1,500. -/
def Cfg.forceCeiling (c : Cfg) (d : DoorIx) : Nat := Cfg.unsigned c (key (0x2000 + d.val * 0x100 + 0x30) 0x06) 1500

/-- ENV_K (+0x30.07, R269): 0.1; 20 to 60; default 30. -/
def Cfg.envK (c : Cfg) (d : DoorIx) : Nat := Cfg.unsigned c (key (0x2000 + d.val * 0x100 + 0x30) 0x07) 30

/-- ENV_MARGIN_MIN (+0x30.08, R269): 0.1 N; 50 to 1,000; default 300. -/
def Cfg.envMarginMin (c : Cfg) (d : DoorIx) : Nat := Cfg.unsigned c (key (0x2000 + d.val * 0x100 + 0x30) 0x08) 300

/-- ENV_SIGMA_MAX (+0x30.09, R269): 0.1 N; 20 to 500; default 150. -/
def Cfg.envSigmaMax (c : Cfg) (d : DoorIx) : Nat := Cfg.unsigned c (key (0x2000 + d.val * 0x100 + 0x30) 0x09) 150

/-- ENV_TEMP_COEF (+0x30.0A, R269): 0.01 N per K; −500 to 500; default 20. -/
def Cfg.envTempCoef (c : Cfg) (d : DoorIx) : Int := Cfg.signed c (key (0x2000 + d.val * 0x100 + 0x30) 0x0A) 16 20

/-- ENV_SPEED_COEF (+0x30.0B, R269): %; 0 to 50; default 20. -/
def Cfg.envSpeedCoef (c : Cfg) (d : DoorIx) : Nat := Cfg.unsigned c (key (0x2000 + d.val * 0x100 + 0x30) 0x0B) 20

/-- ENV_CONFIRM (+0x30.0C, R269): Samples; 1 to 8; default 1. -/
def Cfg.envConfirm (c : Cfg) (d : DoorIx) : Nat := Cfg.unsigned c (key (0x2000 + d.val * 0x100 + 0x30) 0x0C) 1

/-- ENV_BREAKAWAY_TIME (+0x30.0D, R269): µs; 50,000 to 500,000; default 150,000. -/
def Cfg.envBreakawayTime (c : Cfg) (d : DoorIx) : Nat := Cfg.unsigned c (key (0x2000 + d.val * 0x100 + 0x30) 0x0D) 150000

/-- ENV_STROKE (+0x30.0E, R269): µm; 100,000 to 1,000,000; default 650,000. -/
def Cfg.envStroke (c : Cfg) (d : DoorIx) : Nat := Cfg.unsigned c (key (0x2000 + d.val * 0x100 + 0x30) 0x0E) 650000

/-- ENV_ADAPT (+0x30.0F, R269): 0 or 1; default 1. -/
def Cfg.envAdapt (c : Cfg) (d : DoorIx) : Nat := Cfg.unsigned c (key (0x2000 + d.val * 0x100 + 0x30) 0x0F) 1

/-- SIG_ENABLE (+0x31.01, R269): 0 or 1; default 1. -/
def Cfg.sigEnable (c : Cfg) (d : DoorIx) : Nat := Cfg.unsigned c (key (0x2000 + d.val * 0x100 + 0x31) 0x01) 1

/-- SIG_ENERGY_TOL (+0x31.02, R269): %; 5 to 100; default 25. -/
def Cfg.sigEnergyTol (c : Cfg) (d : DoorIx) : Nat := Cfg.unsigned c (key (0x2000 + d.val * 0x100 + 0x31) 0x02) 25

/-- SIG_ENERGY_FLOOR (+0x31.03, R269): mJ; 0 to 2,000; default 200. -/
def Cfg.sigEnergyFloor (c : Cfg) (d : DoorIx) : Nat := Cfg.unsigned c (key (0x2000 + d.val * 0x100 + 0x31) 0x03) 200

/-- SIG_TIME_TOL (+0x31.04, R269): %; 10 to 200; default 50. -/
def Cfg.sigTimeTol (c : Cfg) (d : DoorIx) : Nat := Cfg.unsigned c (key (0x2000 + d.val * 0x100 + 0x31) 0x04) 50

/-- SIG_STRETCH_EDGES (+0x31.05, R269): 1 to 8; default 3. -/
def Cfg.sigStretchEdges (c : Cfg) (d : DoorIx) : Nat := Cfg.unsigned c (key (0x2000 + d.val * 0x100 + 0x31) 0x05) 3

/-- REOPEN_MODE (+0x32.01, R269): 0 full, 1 partial; default 1. -/
def Cfg.reopenMode (c : Cfg) (d : DoorIx) : Nat := Cfg.unsigned c (key (0x2000 + d.val * 0x100 + 0x32) 0x01) 1

/-- REOPEN_DISTANCE (+0x32.02, R269): µm; 100,000 to 650,000; default 300,000. -/
def Cfg.reopenDistance (c : Cfg) (d : DoorIx) : Nat := Cfg.unsigned c (key (0x2000 + d.val * 0x100 + 0x32) 0x02) 300000

/-- REOPEN_DWELL (+0x32.03, R269): µs; 0 to 10,000,000; default 2,000,000. -/
def Cfg.reopenDwell (c : Cfg) (d : DoorIx) : Nat := Cfg.unsigned c (key (0x2000 + d.val * 0x100 + 0x32) 0x03) 2000000

/-- OBSTACLE_LIMIT (+0x32.04, R269): 1 to 10; default 3. -/
def Cfg.obstacleLimit (c : Cfg) (d : DoorIx) : Nat := Cfg.unsigned c (key (0x2000 + d.val * 0x100 + 0x32) 0x04) 3

/-- SE_1_FILTER (+0x32.05, R269): ns, under R227; default 250. -/
def Cfg.se1Filter (c : Cfg) (d : DoorIx) : Nat := Cfg.unsigned c (key (0x2000 + d.val * 0x100 + 0x32) 0x05) 250

/-- SE_2_FILTER (+0x32.06, R269): ns, under R227; default 250. -/
def Cfg.se2Filter (c : Cfg) (d : DoorIx) : Nat := Cfg.unsigned c (key (0x2000 + d.val * 0x100 + 0x32) 0x06) 250

/-- Tables 7.1 and 7.2: a default by local channel (R273). -/
def localDefault (l : List Nat) (n : ChanIx) : Nat := l.getD (n.val % 6) 0

/-- FUNCTION (0x4000 + n.01, R312): R273. -/
def Cfg.chFunction (c : Cfg) (n : ChanIx) : Nat := Cfg.unsigned c (key (0x4000 + n.val) 0x01) (localDefault [1, 2, 3, 4, 5, 5] n)

/-- LOAD_TYPE (0x4000 + n.02, R312): Table 7.3. -/
def Cfg.chLoadType (c : Cfg) (n : ChanIx) : Nat := Cfg.unsigned c (key (0x4000 + n.val) 0x02) (localDefault [0, 0, 1, 1, 2, 2] n)

/-- GROUP_LEADER (0x4000 + n.03, R312): Channel number; own number when single. -/
def Cfg.chGroupLeader (c : Cfg) (n : ChanIx) : Nat := Cfg.unsigned c (key (0x4000 + n.val) 0x03) (if n.val % 6 = 5 then n.val - 1 else n.val)

/-- GROUP_SIZE (0x4000 + n.04, R312): 1 to 4. -/
def Cfg.chGroupSize (c : Cfg) (n : ChanIx) : Nat := Cfg.unsigned c (key (0x4000 + n.val) 0x04) (localDefault [1, 1, 1, 1, 2, 2] n)

/-- OC_LIMIT (0x4000 + n.05, R312): mA; 100 to 3,000; default 3,000. -/
def Cfg.chOcLimit (c : Cfg) (n : ChanIx) : Nat := Cfg.unsigned c (key (0x4000 + n.val) 0x05) 3000

/-- OC_TIME (0x4000 + n.06, R312): µs; 1,000 to 100,000; default 10,000. -/
def Cfg.chOcTime (c : Cfg) (n : ChanIx) : Nat := Cfg.unsigned c (key (0x4000 + n.val) 0x06) 10000

/-- INRUSH_WINDOW (0x4000 + n.07, R312): ms; 0 type default, else 5 to 500. -/
def Cfg.chInrushWindow (c : Cfg) (n : ChanIx) : Nat := Cfg.unsigned c (key (0x4000 + n.val) 0x07) 0

/-- RETRY_COUNT (0x4000 + n.08, R312): 0 to 15; default 3. -/
def Cfg.chRetryCount (c : Cfg) (n : ChanIx) : Nat := Cfg.unsigned c (key (0x4000 + n.val) 0x08) 3

/-- RETRY_BACKOFF (0x4000 + n.09, R312): µs; 10,000 to 5,000,000; default 100,000. -/
def Cfg.chRetryBackoff (c : Cfg) (n : ChanIx) : Nat := Cfg.unsigned c (key (0x4000 + n.val) 0x09) 100000

/-- FAILSAFE (0x4000 + n.0A, R312): Table 7.5; default 0. -/
def Cfg.chFailsafe (c : Cfg) (n : ChanIx) : Nat := Cfg.unsigned c (key (0x4000 + n.val) 0x0A) 0

/-- STABLE_MODE (0x4000 + n.0B, R312): R305; default 0. -/
def Cfg.chStableMode (c : Cfg) (n : ChanIx) : Nat := Cfg.unsigned c (key (0x4000 + n.val) 0x0B) 0

/-- OPEN_TEST (0x4000 + n.0C, R312): 0 or 1; default 1. -/
def Cfg.chOpenTest (c : Cfg) (n : ChanIx) : Nat := Cfg.unsigned c (key (0x4000 + n.val) 0x0C) 1

/-- OPEN_ON_I (0x4000 + n.0D, R312): mA; 0 to 500; default 20. -/
def Cfg.chOpenOnI (c : Cfg) (n : ChanIx) : Nat := Cfg.unsigned c (key (0x4000 + n.val) 0x0D) 20

/-- STATE_ON_MASK (0x4000 + n.0E, R312): Table 7.2. -/
def Cfg.chStateOnMask (c : Cfg) (n : ChanIx) : Nat := Cfg.unsigned c (key (0x4000 + n.val) 0x0E) (localDefault [0x0020, 0x001E, 0, 0, 0, 0] n)

/-- STATE_FLASH_MASK (0x4000 + n.0F, R312): Table 7.2. -/
def Cfg.chStateFlashMask (c : Cfg) (n : ChanIx) : Nat := Cfg.unsigned c (key (0x4000 + n.val) 0x0F) (localDefault [0x0080, 0x00E0, 0x0080, 0, 0, 0] n)

/-- HEAT_SENSE (0x4000 + n.10, R312): 0 or 1; default 1 on HEATER. -/
def Cfg.chHeatSense (c : Cfg) (n : ChanIx) : Nat := Cfg.unsigned c (key (0x4000 + n.val) 0x10) (if c.chFunction n = 5 then 1 else 0)

/-- HEAT_R_REF (0x4000 + n.11, R312): mΩ at 20.0 °C. -/
def Cfg.chHeatRRef (c : Cfg) (n : ChanIx) : Nat := Cfg.unsigned c (key (0x4000 + n.val) 0x11) 0

/-- HEAT_ALPHA (0x4000 + n.12, R312): ppm/K; 500 to 8,000. -/
def Cfg.chHeatAlpha (c : Cfg) (n : ChanIx) : Nat := Cfg.unsigned c (key (0x4000 + n.val) 0x12) 0

/-- HEAT_SETPOINT (0x4000 + n.13, R312): 0.1 °C; −200 to 400; default 50. -/
def Cfg.chHeatSetpoint (c : Cfg) (n : ChanIx) : Int := Cfg.signed c (key (0x4000 + n.val) 0x13) 16 50

/-- HEAT_BAND (0x4000 + n.14, R312): 0.1 K; 10 to 200; default 40. -/
def Cfg.chHeatBand (c : Cfg) (n : ChanIx) : Nat := Cfg.unsigned c (key (0x4000 + n.val) 0x14) 40

/-- LSW_WD_TIME (0x1500.01, R312): µs; 5,000 to 100,000; default 20,000. -/
def Cfg.lswWdTime (c : Cfg) : Nat := Cfg.unsigned c (key 0x1500 0x01) 20000

/-- CLASS (0x4100 + g.01, R349): Table 8.2; default 2. -/
def Cfg.grpClass (c : Cfg) (g : GroupIx) : Nat := Cfg.unsigned c (key (0x4100 + g.val) 0x01) 2

/-- POLARITY (0x4100 + g.02, R349): Bit per input: 1 active with contact open; default 0. -/
def Cfg.grpPolarity (c : Cfg) (g : GroupIx) : Nat := Cfg.unsigned c (key (0x4100 + g.val) 0x02) 0

/-- EOL_MASK (0x4100 + g.03, R349): Groups 0 to 7 only; default 0. -/
def Cfg.grpEolMask (c : Cfg) (g : GroupIx) : Nat := Cfg.unsigned c (key (0x4100 + g.val) 0x03) 0

/-- TL_MODE (0x4100 + g.04, R349): Group 8 only; 0 native, 1 legacy direct; default 0. -/
def Cfg.grpTlMode (c : Cfg) (g : GroupIx) : Nat := Cfg.unsigned c (key (0x4100 + g.val) 0x04) 0

/-- SOURCE (0x4200 + k.01, R349): Table 8.8. -/
def Cfg.outSource (c : Cfg) (k : OutIx) : Nat := Cfg.unsigned c (key (0x4200 + k.val) 0x01) ([2, 3, 4].getD k.val 0)

/-- SOURCE_PARAM (0x4200 + k.02, R349): Doorway for COMPARE; 0 otherwise. -/
def Cfg.outSourceParam (c : Cfg) (k : OutIx) : Nat := Cfg.unsigned c (key (0x4200 + k.val) 0x02) 0

/-- INVERT (0x4200 + k.03, R349): 0 or 1. -/
def Cfg.outInvert (c : Cfg) (k : OutIx) : Nat := Cfg.unsigned c (key (0x4200 + k.val) 0x03) 0

/-- PAIRED (0x4200 + k.04, R349): R343; even k only. -/
def Cfg.outPaired (c : Cfg) (k : OutIx) : Nat := Cfg.unsigned c (key (0x4200 + k.val) 0x04) 0

/-- OUT_SAFE (0x4200 + k.05, R349): 0 off, 1 on. -/
def Cfg.outSafe (c : Cfg) (k : OutIx) : Nat := Cfg.unsigned c (key (0x4200 + k.val) 0x05) 0

/-- OUT_STABLE (0x4200 + k.06, R349): R346; default 0. -/
def Cfg.outStable (c : Cfg) (k : OutIx) : Nat := Cfg.unsigned c (key (0x4200 + k.val) 0x06) 0

/-- TRANSPORT (0x8000 + s.02, R396): Table 9.4; 0 unused; image. -/
def Cfg.sessTransport (c : Cfg) (i : SessIx) : Nat := Cfg.unsigned c (key (0x8000 + i.val) 0x02) 0

/-- SOURCE (0x8000 + s.03, R396): Ring node address or CAN identifier; 0 for sessions 4 and 5; image. -/
def Cfg.sessSource (c : Cfg) (i : SessIx) : Nat := Cfg.unsigned c (key (0x8000 + i.val) 0x03) 0

/-- AUTH_REQUIRED (0x8000 + s.04, R396): 0 or 1; image; R382. -/
def Cfg.sessAuthRequired (c : Cfg) (i : SessIx) : Nat := Cfg.unsigned c (key (0x8000 + i.val) 0x04) 0

/-- RIGHTS_GROUPS (0x8000 + s.05, R396): Bit g: group g; image. -/
def Cfg.sessRightsGroups (c : Cfg) (i : SessIx) : Nat := Cfg.unsigned c (key (0x8000 + i.val) 0x05) 0

/-- RIGHTS_READ (0x8000 + s.06, R396): Table 9.12; image. -/
def Cfg.sessRightsRead (c : Cfg) (i : SessIx) : Nat := Cfg.unsigned c (key (0x8000 + i.val) 0x06) 0

/-- RIGHTS_WRITE (0x8000 + s.07, R396): Table 9.12; image. -/
def Cfg.sessRightsWrite (c : Cfg) (i : SessIx) : Nat := Cfg.unsigned c (key (0x8000 + i.val) 0x07) 0

/-- DOOR_PRIMARY (0x8000 + s.08, R396): Bit d: doorway d; image. -/
def Cfg.sessDoorPrimary (c : Cfg) (i : SessIx) : Nat := Cfg.unsigned c (key (0x8000 + i.val) 0x08) 0

/-- DOOR_STANDBY (0x8000 + s.09, R396): Bit d: doorway d; image. -/
def Cfg.sessDoorStandby (c : Cfg) (i : SessIx) : Nat := Cfg.unsigned c (key (0x8000 + i.val) 0x09) 0

/-- TAKEOVER_TIME (0x8008.01, R396): µs; 200,000 to 10,000,000; default 1,000,000; image. -/
def Cfg.takeoverTime (c : Cfg) : Nat := Cfg.unsigned c (key 0x8008 0x01) 1000000

/-- SESSION_EXPIRY (0x8008.02, R396): µs; 10,000,000 to 3,600,000,000; default 300,000,000; image. -/
def Cfg.sessionExpiry (c : Cfg) : Nat := Cfg.unsigned c (key 0x8008 0x02) 300000000

/-- SERVICE_UDP_PORT (0x8008.03, R396): Default 47816; image. -/
def Cfg.serviceUdpPort (c : Cfg) : Nat := Cfg.unsigned c (key 0x8008 0x03) 47816

/-- RING_ENABLE (0x5000.01, R464): 0 or 1; default 1. -/
def Cfg.ringEnable (c : Cfg) : Nat := Cfg.unsigned c (key 0x5000 0x01) 1

/-- RING_ADDRESS (0x5000.02, R464): 1 to 32; no default. -/
def Cfg.ringAddress (c : Cfg) : Nat := Cfg.unsigned c (key 0x5000 0x02) 0

/-- RING_KEEP_STABLE (0x5000.03, R464): 0 or 1; default 0. -/
def Cfg.ringKeepStable (c : Cfg) : Nat := Cfg.unsigned c (key 0x5000 0x03) 0

/-- RING_WAKE (0x5000.04, R464): 0 or 1; default 0. -/
def Cfg.ringWake (c : Cfg) : Nat := Cfg.unsigned c (key 0x5000 0x04) 0

/-- CAN_ENABLE (0x5100 + ch.01, R500): 0 or 1; default 0. -/
def Cfg.canEnable (c : Cfg) (h : CanIx) : Nat := Cfg.unsigned c (key (0x5100 + h.val) 0x01) 0

/-- NOM_RATE (0x5100 + ch.02, R500): kbit/s, Table 12.1. -/
def Cfg.canNomRate (c : Cfg) (h : CanIx) : Nat := Cfg.unsigned c (key (0x5100 + h.val) 0x02) 500

/-- NOM_SP (0x5100 + ch.03, R500): 0.1 %, Table 12.1. -/
def Cfg.canNomSp (c : Cfg) (h : CanIx) : Nat := Cfg.unsigned c (key (0x5100 + h.val) 0x03) 800

/-- DATA_RATE (0x5100 + ch.04, R500): kbit/s, Table 12.1. -/
def Cfg.canDataRate (c : Cfg) (h : CanIx) : Nat := Cfg.unsigned c (key (0x5100 + h.val) 0x04) 2000

/-- DATA_SP (0x5100 + ch.05, R500): 0.1 %, Table 12.1. -/
def Cfg.canDataSp (c : Cfg) (h : CanIx) : Nat := Cfg.unsigned c (key (0x5100 + h.val) 0x05) 750

/-- TERM (0x5100 + ch.06, R500): 0 or 1; default 0. -/
def Cfg.canTerm (c : Cfg) (h : CanIx) : Nat := Cfg.unsigned c (key (0x5100 + h.val) 0x06) 0

/-- TX_ORDER (0x5100 + ch.07, R500): R476; default 0. -/
def Cfg.canTxOrder (c : Cfg) (h : CanIx) : Nat := Cfg.unsigned c (key (0x5100 + h.val) 0x07) 0

/-- BUSOFF_AUTO (0x5100 + ch.08, R500): 0 or 1; default 1. -/
def Cfg.canBusoffAuto (c : Cfg) (h : CanIx) : Nat := Cfg.unsigned c (key (0x5100 + h.val) 0x08) 1

/-- CAN_WAKE (0x5100 + ch.09, R500): R499; default 0. -/
def Cfg.canWake (c : Cfg) (h : CanIx) : Nat := Cfg.unsigned c (key (0x5100 + h.val) 0x09) 0

/-- OWNER (0x5100 + ch.0A, R500): 0 module, 1 application engine; CAN1 only; default 0. -/
def Cfg.canOwner (c : Cfg) (h : CanIx) : Nat := Cfg.unsigned c (key (0x5100 + h.val) 0x0A) 0

/-- OBJ_CHANNEL (0x5300 + m.01, R500): 0, 1, or 0xFF unused. -/
def Cfg.objChannel (c : Cfg) (m : Fin 64) : Nat := Cfg.unsigned c (key (0x5300 + m.val) 0x01) 0xFF

/-- OBJ_ID (0x5300 + m.02, R500): Identifier [28:0]; bit 31 extended. -/
def Cfg.objId (c : Cfg) (m : Fin 64) : Nat := Cfg.unsigned c (key (0x5300 + m.val) 0x02) 0

/-- OBJ_FORMAT (0x5300 + m.03, R500): Bit 0 FD, bit 1 bit rate switching. -/
def Cfg.objFormat (c : Cfg) (m : Fin 64) : Nat := Cfg.unsigned c (key (0x5300 + m.val) 0x03) 0

/-- OBJ_LENGTH (0x5300 + m.04, R500): R493. -/
def Cfg.objLength (c : Cfg) (m : Fin 64) : Nat := Cfg.unsigned c (key (0x5300 + m.val) 0x04) 0

/-- DATA_SOURCE (0x5300 + m.05, R500): Table 12.5. -/
def Cfg.dataSource (c : Cfg) (m : Fin 64) : Nat := Cfg.unsigned c (key (0x5300 + m.val) 0x05) 0

/-- INC_PRE_SAMPLES (0x6000.01, R530): 200 to 1,800; default 1,000. -/
def Cfg.incPreSamples (c : Cfg) : Nat := Cfg.unsigned c (key 0x6000 0x01) 1000

/-- INC_CAUSE_MASK (0x6000.02, R530): Bit n: cause n of Table 13.4; bits 1, 2, 6 always set; default 0x0FFE. -/
def Cfg.incCauseMask (c : Cfg) : Nat := Cfg.unsigned c (key 0x6000 0x02) 4094

/-- LOG_WARN_PCT (0x6000.03, R530): %; 50 to 99; default 90. -/
def Cfg.logWarnPct (c : Cfg) : Nat := Cfg.unsigned c (key 0x6000 0x03) 90

/-- RETAIN_MASK (0x7000.01, R561): Bit n: bank n retained; default 0x000F. -/
def Cfg.retainMask (c : Cfg) : Nat := Cfg.unsigned c (key 0x7000 0x01) 15

/-- WAKE_ENABLE (0x7000.02, R561): Table 14.5; default 0x01E3. -/
def Cfg.wakeEnable (c : Cfg) : Nat := Cfg.unsigned c (key 0x7000 0x02) 483

/-- STABLE_HOLDUP_TIME (0x7000.03, R561): µs; 0 to 600,000,000; default 60,000,000. -/
def Cfg.stableHoldupTime (c : Cfg) : Nat := Cfg.unsigned c (key 0x7000 0x03) 60000000

/-- HOLDUP_RESERVE (0x7000.04, R561): J; 20 to 200; default 60. -/
def Cfg.holdupReserve (c : Cfg) : Nat := Cfg.unsigned c (key 0x7000 0x04) 60

/-- APP_AUTOSTART (0x1702.03, R597): 0 or 1; default 0; image. -/
def Cfg.appAutostart (c : Cfg) : Nat := Cfg.unsigned c (key 0x1702 0x03) 0

/-- APP_AUTORESTART (0x1702.04, R597): 0 or 1; default 0; image. -/
def Cfg.appAutorestart (c : Cfg) : Nat := Cfg.unsigned c (key 0x1702 0x04) 0

/-- APP_WD_TIME (0x1702.05, R597): µs; 0 off, else 10,000 to 10,000,000; default 0; image. -/
def Cfg.appWdTime (c : Cfg) : Nat := Cfg.unsigned c (key 0x1702 0x05) 0

/-- UPDATE_WAIT (0x1010.05, R627): s; 10 to 3,600; default 600. -/
def Cfg.updateWait (c : Cfg) : Nat := Cfg.unsigned c (key 0x1010 0x05) 600

/-- SUB_AUTO (0x1020.09, R627): 0 or 1; default 1. -/
def Cfg.subAuto (c : Cfg) : Nat := Cfg.unsigned c (key 0x1020 0x09) 1

/-- Whether a doorway is fitted (R16). -/
def Cfg.isFitted (c : Cfg) (d : DoorIx) : Bool := c.fitted d == 1

/-- Whether a doorway has a step (STEP_FITTED). -/
def Cfg.hasStep (c : Cfg) (d : DoorIx) : Bool := c.stepFitted d == 1

/-- The key of a motion object of a drive: offset 0x10 to 0x13 for the door drive, 0x18 to 0x1B for the step
drive (R146). -/
def motionKey (r : DriveIx) (off sub : Nat) : Nat :=
  key (0x2000 + (doorOf r).val * 0x100 + off + (if isStep r then 8 else 0)) sub

/-- A motion limit with its door and step defaults (Table 3.13). -/
def Cfg.limit (c : Cfg) (r : DriveIx) (sub door step : Nat) : Nat :=
  c.unsigned (motionKey r 0x11 sub) (if isStep r then step else door)

/-- V_MAX. -/
def Cfg.vMax (c : Cfg) (r : DriveIx) : Nat := c.limit r 0x01 500000 64000
/-- A_REPLAN. -/
def Cfg.aReplan (c : Cfg) (r : DriveIx) : Nat := c.limit r 0x02 1000000 256000
/-- D_REPLAN. -/
def Cfg.dReplan (c : Cfg) (r : DriveIx) : Nat := c.limit r 0x03 1000000 256000
/-- J_REPLAN. -/
def Cfg.jReplan (c : Cfg) (r : DriveIx) : Nat := c.limit r 0x04 5000000 2560000
/-- D_MAX. -/
def Cfg.dMax (c : Cfg) (r : DriveIx) : Nat := c.limit r 0x05 2500000 640000
/-- V_REPLAN. -/
def Cfg.vReplan (c : Cfg) (r : DriveIx) : Nat := c.limit r 0x06 400000 32000
/-- KE_MAX, mJ. -/
def Cfg.keMax (c : Cfg) (r : DriveIx) : Nat := c.limit r 0x07 10000 0
/-- MOVING_MASS, g. -/
def Cfg.movingMass (c : Cfg) (r : DriveIx) : Nat := c.limit r 0x08 90000 0
/-- SOFT_MIN. -/
def Cfg.softMin (c : Cfg) (r : DriveIx) : Int :=
  c.signed (motionKey r 0x11 0x09) 32 (if isStep r then 0 else -5000)
/-- SOFT_MAX; a step drive has no default, and 1,280, the least value of its range, stands in (DESIGN CHOICE). -/
def Cfg.softMax (c : Cfg) (r : DriveIx) : Int :=
  c.signed (motionKey r 0x11 0x0A) 32 (if isStep r then 1280 else 655000)
/-- PARTIAL_OPEN_MIN. -/
def Cfg.partialOpenMin (c : Cfg) (r : DriveIx) : Int :=
  c.signed (motionKey r 0x11 0x0B) 32 (if isStep r then 0 else 400000)
/-- CONTEXT_MAP: the context in a slot of a drive, none for 0xFFFF (R111). -/
def Cfg.contextMap (c : Cfg) (r : DriveIx) (slot : Nat) : Option CtxIx :=
  let v := c.unsigned (motionKey r 0x12 (slot + 1)) 0xFFFF
  if h : v < 160 then some ⟨v, h⟩ else none

/-- The 32-bit map word of a Quince row, where the image sets it (R252). -/
def Cfg.reflexRow (c : Cfg) (row : RowIx) : Option Nat := c.find (key 0x1400 (row.val + 1))

/-- The debounce time of one input of a group (R324). -/
def Cfg.filterTime (c : Cfg) (g : GroupIx) (input : Nat) : Nat := c.unsigned (key (0x4100 + g.val) (0x05 + input)) 5000

/-- Entry i of WATCH_SEL (R594). -/
def Cfg.watchSel (c : Cfg) (i : Nat) : Nat :=
  match c.find (key 0x1703 0x01) with
  | some v => (v / 256 ^ i) % 256
  | none => 0xFF

/-- The slot that ROLE_SELECT names for a role (R113). -/
def roleSlot (sel : Nat) (role : Nat) : Nat := (sel / 16 ^ role) % 16

end Sys2Proof.Machine
end

