-- ==== Sys2Proof/Machine/Groups.lean ====
section
/-!
DEFINITION. An input group of the isolation link (chapter 8): the field side that classifies the contacts, the frame
checks of R330 and R331, and the counter filters of R324.
-/

namespace Sys2Proof.Machine

/-- The field side of a group (R318 to R329): contact states, break times, causes of the common fault, and the settings
received over the downlink. Times are in µs. -/
structure FrontEnd where
  contact     : BitVec 16
  raw         : BitVec 16
  breakTime   : List Nat
  breakMask   : BitVec 16
  /-- Module time of the last wetting pulse of each input, none before the first. -/
  lastPulse   : List (Option Nat)
  feedFault   : Bool
  supplyFault : Bool
  selftestFail : Bool
  /-- COMMON_FAULT as the field side holds it (R326). -/
  commonFault : Bool
  /-- The settings words received in the present cycle, by CFG_INDEX (R329). -/
  words       : List Nat
  applied     : Bool
  polarity    : BitVec 16
  eolMask     : BitVec 16
  cls         : Nat
  legacy      : Bool
  mode        : Nat
  downSeq     : Option Nat
  downBad     : Bool
  downRun     : Nat
  downLost    : Bool
  deriving DecidableEq, Repr

/-- GROUP_FLAGS as the logic side holds them (Table 8.10) and the frame run of R331. -/
structure GroupFlags where
  valid       : Bool
  commonFault : Bool
  faultSeen   : Bool
  legacy      : Bool
  stable      : Bool
  applied     : Bool
  deriving DecidableEq, Repr

/-- An input group: RAW, FILTERED and the filter counters, and the frame checks of the logic side. -/
structure InGroup where
  raw       : BitVec 16
  filtered  : BitVec 16
  counts    : List Nat
  /-- The counters have been loaded since power-up (R325). -/
  loaded    : Bool
  lastSeq   : Option Nat
  /-- The last frame was invalid (R330). -/
  bad       : Bool
  validRun  : Nat
  flags     : GroupFlags
  front     : FrontEnd
  commonFaults  : Nat
  invalidations : Nat
  crcErrors     : Nat
  wettingPulses : Nat
  deriving DecidableEq, Repr

/-- The field side after power-up: no settings applied, CLASS 2. -/
def FrontEnd.reset : FrontEnd :=
  { contact := 0, raw := 0, breakTime := List.replicate 16 0, breakMask := 0, lastPulse := List.replicate 16 none
    feedFault := false, supplyFault := false, selftestFail := false, commonFault := false
    words := List.replicate 15 0, applied := false, polarity := 0, eolMask := 0, cls := 2, legacy := false, mode := 0
    downSeq := none, downBad := false, downRun := 0, downLost := false }

/-- A group after power-up, its counters kept (R349). -/
def InGroup.powered (g : InGroup) : InGroup :=
  { g with raw := 0, filtered := 0, counts := List.replicate 16 0, loaded := false, lastSeq := none, bad := false
           validRun := 0, front := FrontEnd.reset
           flags := { valid := false, commonFault := false, faultSeen := false, legacy := false, stable := false
                      applied := false } }

/-- A group as delivered. -/
def InGroup.reset : InGroup :=
  { raw := 0, filtered := 0, counts := List.replicate 16 0, loaded := false, lastSeq := none, bad := false, validRun := 0
    flags := { valid := false, commonFault := false, faultSeen := false, legacy := false, stable := false, applied := false }
    front := FrontEnd.reset, commonFaults := 0, invalidations := 0, crcErrors := 0, wettingPulses := 0 }

/-- GROUP_FLAGS (Table 8.10). -/
def InGroup.flagWord (g : InGroup) : Nat :=
  let f := g.flags
  bitWord [f.valid, f.commonFault, f.faultSeen, f.legacy, f.stable, f.applied]

/-- The logic side sees the common fault bit (R326). -/
def InGroup.seeFault (g : InGroup) (on : Bool) : InGroup :=
  { g with flags := { g.flags with commonFault := on, faultSeen := g.flags.faultSeen || on }
           commonFaults := if on && !g.flags.commonFault then satInc 16 g.commonFaults else g.commonFaults }

/-! ## Classification (R318, R320) -/

/-- Table 8.2: V_ON, V_OFF, V_BREAK, D_CLOSED and D_OPEN of a class, in mV. -/
def classLevels (cls : Nat) : Nat × Nat × Nat × Nat × Nat :=
  if cls = 0 then (12000, 5000, 3000, 3000, 6000)
  else if cls = 1 then (32000, 12000, 8000, 6000, 12000)
  else (45000, 18000, 8000, 6000, 12000)

/-- Table 8.2: the V_COM range of a class, in mV. -/
def classRange (cls : Nat) : Nat × Nat :=
  if cls = 0 then (14400, 33600) else if cls = 1 then (43200, 100800) else (66000, 154000)

/-- R320: the contact state of input i that comparators with a state show after a sample; between the thresholds they keep
it (R318). -/
def FrontEnd.classifyFrom (f : FrontEnd) (was : Bool) (i vIn vCom : Nat) : Bool :=
  let (von, voff, _, dc, dop) := classLevels f.cls
  if f.eolMask.getLsbD i then
    (if vCom ≤ vIn + dc then true else if vIn + dop ≤ vCom then false else was)
  else if von ≤ vIn then true else if vIn ≤ voff then false else was

/-- R320: the contact state of input i after a sample. -/
def FrontEnd.classify (f : FrontEnd) (i vIn vCom : Nat) : Bool := f.classifyFrom (f.contact.getLsbD i) i vIn vCom

/-- R323: whether the fast path of sensitive-edge input i is active, which it was or was not: its own comparators, with the
thresholds, the supervision setting and the polarity of the front end. -/
def FrontEnd.fastPath (f : FrontEnd) (was : Bool) (i vIn vCom : Nat) : Bool :=
  f.classifyFrom (was ^^ f.polarity.getLsbD i) i vIn vCom ^^ f.polarity.getLsbD i

/-- R335: a legacy coupler switches on at 40 V and off at 20 V. -/
def couplerState (was : Bool) (vIn : Nat) : Bool := if 40000 ≤ vIn then true else if vIn ≤ 20000 then false else was

/-- One sample of an input (R320, R321, R326): answers the field side and whether a wetting pulse started. A legacy
trainline input leaves the native front end (R335). -/
def FrontEnd.sample (f : FrontEnd) (g : GroupIx) (now i vIn vCom : Nat) : FrontEnd × Bool :=
  let (_, _, vb, _, _) := classLevels f.cls
  let coupler := decide (g.val = 8) && f.legacy && decide (i < 8)
  let contact := if coupler then couplerState (f.contact.getLsbD i) vIn else f.classify i vIn vCom
  let raw := contact ^^ f.polarity.getLsbD i
  let low := f.eolMask.getLsbD i && decide (vIn < vb)
  let rested := match f.lastPulse.getD i none with
    | some t => decide (t + 10000 ≤ now)
    | none => true
  let pulse := (raw != f.raw.getLsbD i) && rested && !coupler
  let range := classRange f.cls
  ({ f with contact := setBit f.contact i contact, raw := setBit f.raw i raw
            breakTime := f.breakTime.set i (if low then f.breakTime.getD i 0 + 20 else 0)
            breakMask := if low then f.breakMask else setBit f.breakMask i false
            lastPulse := if pulse then f.lastPulse.set i (some now) else f.lastPulse
            feedFault := f.feedFault && !(decide (range.1 ≤ vCom) && decide (vCom ≤ range.2)) }, pulse)

/-- Table 8.3: a cause of the common fault is present; line break and feed concern doorway groups. -/
def FrontEnd.causePresent (f : FrontEnd) (g : GroupIx) : Bool :=
  (decide (g.val < 8) && (f.breakMask != 0 || f.feedFault)) || f.selftestFail || f.supplyFault

/-! ## Downlink settings (R329) -/

/-- The settings word that the logic side sends at an index. -/
def settingsWord (c : Cfg) (g : GroupIx) (i : Nat) : Nat :=
  let sum := (c.grpPolarity g + c.grpEolMask g + (c.grpClass g % 4 + 4 * (c.grpTlMode g % 2))) % 65536
  if i = 0 then c.grpPolarity g else if i = 1 then c.grpEolMask g
  else if i = 2 then c.grpClass g % 4 + 4 * (c.grpTlMode g % 2) else if i = 15 then sum else 0

/-- The field side takes a settings word; the one at index 15 applies the set when it matches their sum. -/
def FrontEnd.takeWord (f : FrontEnd) (i word : Nat) : FrontEnd :=
  if i < 15 then { f with words := f.words.set i word }
  else if f.words.foldl (· + ·) 0 % 65536 = word then
    { f with applied := true, polarity := BitVec.ofNat 16 (f.words.getD 0 0), eolMask := BitVec.ofNat 16 (f.words.getD 1 0)
             cls := f.words.getD 2 0 % 4, legacy := bitOf (f.words.getD 2 0) 2 }
  else f

/-- R330: whether a frame with a correct CRC is valid, given the last valid SEQ and whether the last frame was bad. -/
def seqValid (last : Option Nat) (bad : Bool) (seq : Nat) : Bool :=
  match last with
  | none => true
  | some l => decide (seq % 16 = (l + 1) % 16) || (bad && decide (seq % 16 ≠ l % 16))

/-! ## Filters (R324, R325) -/

/-- The filter counter of one input after n valid frames that show the same raw state. -/
def filterCount (size cnt n : Nat) (raw : Bool) : Nat := if raw then min (cnt + n) size else cnt - n

/-- The filtered state of one input from its counter. -/
def filterState (size cnt : Nat) (raw was : Bool) : Bool :=
  if size = 0 then raw else if cnt = size then true else if cnt = 0 then false else was

/-- The filter size of an input, in frames. -/
def filterSize (c : Cfg) (g : GroupIx) (i : Nat) : Nat := c.filterTime g i / 20

/-- The counters after n valid frames that show one raw word. -/
def InGroup.counted (s : InGroup) (c : Cfg) (g : GroupIx) (n : Nat) (raw : BitVec 16) : List Nat :=
  (List.range 16).map (fun i => filterCount (filterSize c g i) (s.counts.getD i 0) n (raw.getLsbD i))

/-- The filtered word that counters give. -/
def InGroup.filteredBy (s : InGroup) (c : Cfg) (g : GroupIx) (counts : List Nat) (raw : BitVec 16) : BitVec 16 :=
  word16 (fun i => filterState (filterSize c g i) (counts.getD i 0) (raw.getLsbD i) (s.filtered.getLsbD i))

/-- R325: the counters loaded at the end that matches a raw word. -/
def loadedCounts (c : Cfg) (g : GroupIx) (raw : BitVec 16) : List Nat :=
  (List.range 16).map (fun i => if raw.getLsbD i then filterSize c g i else 0)

/-- The bit numbers at which two words differ. -/
def changedBits (a b : BitVec 16) : List Nat := (List.range 16).filter (fun i => a.getLsbD i != b.getLsbD i)

end Sys2Proof.Machine
end

