-- ==== Sys2Proof/Machine/DoorTypes.lean ====
section
/-!
DEFINITION. What one doorway holds: its input group, its state machine, the motion generators of its two drives,
the door drive, the step drive, its obstacle protection and the cycle in progress. Plain data; the operations on it
are in the family files.
-/

namespace Sys2Proof.Machine

/-- Table 1.3, the doorway states; `opened` is OPEN. -/
inductive DoorState where
  | locked | released | unlocking | opening | opened | closing | reopening | obstructed
  | closedUnlocked | stopped | egress | isolated | fault | maint
  deriving DecidableEq, Repr

/-- Table 1.16, the phases of CLOSING and REOPENING; `none` in every other state (R65). -/
inductive Phase where
  | none | warn | move | lock | reopenMove | reopenDwell
  deriving DecidableEq, Repr

/-- Tables 1.4, 1.17, 3.15, 5.8, 15.x and 16.x: what caused the latest transition (R66). -/
inductive Cause where
  | settled | openPbIn | openPbOut | openHost | openAuto
  | closeTl | closeReleaseWithdrawn | closeCpb | closeHost | closeDwell | closeStepFailed
  | stopHost | obstacleOpening | obstacleClosing | stopMove | stopDriveInterrupted
  | egressInside | accessOutside | isolSwitch | isolCommand
  | faultInputInvalid | faultInputGroup | faultDrive | faultStep | faultPlausibility
  | faultUncommandedUnlock | faultHall | faultLeafEngine
  | maintUpdate | maintTest | maintLearn | maintHome | maintSelftest
  deriving DecidableEq, Repr

/-- Table 3.1, the drive states. -/
inductive DriveState where | idle | moving | hold | stoppedMid | fault
  deriving DecidableEq, Repr

/-- Table 6.5, the reflex actions. -/
inductive Action where | none | torqueOff | shortBrake | reversal
  deriving DecidableEq, Repr

/-! ## Motion -/

/-- A state of motion: position, velocity and acceleration in the drive's units (R11). -/
structure Kin where
  pos : Int
  vel : Int
  acc : Int
  deriving DecidableEq, Repr

/-- One constant-jerk phase of a replanned path: duration in µs and jerk (R661). -/
structure Ramp where
  dur  : Nat
  jerk : Int
  deriving DecidableEq, Repr

/-- One context segment as it will be run: absolute end point and scaled duration (R115, R162). -/
structure Seg where
  dur        : Nat
  endPos     : Int
  endVel     : Int
  join       : Bool
  lowForce   : Bool
  eventAtEnd : Bool
  deriving DecidableEq, Repr

/-- A context of the pool as written: header, flags and segments (Tables 3.4 to 3.7). -/
structure Context where
  driveClass : Nat
  relative   : Bool
  replanOk   : Bool
  endHold    : Bool
  startMin   : Int
  startMax   : Int
  segs       : List Seg
  deriving DecidableEq, Repr

/-- What planning a path sets, shown in MOTION_FLAGS from its first reference on (R120, R123). -/
structure Marks where
  overshoot   : Bool
  decelRaised : Bool
  limitClip   : Bool
  deriving DecidableEq, Repr

/-- A path being run: replanned phases first, then context segments (R120, R124). -/
structure Path where
  start    : Kin
  elapsed  : Nat
  ramps    : List Ramp
  segs     : List Seg
  segNo    : Nat
  context  : Option CtxIx
  target   : Int
  endHold  : Bool
  replanOk : Bool
  moveTo   : Bool
  scale    : Nat
  /-- Its first reference, `start`, has not been issued yet (R122, R123). -/
  fresh    : Bool
  /-- It ends in STOPPED_MID (R125). -/
  stopping : Bool
  marks    : Marks
  /-- The position that a relative context is counted from. -/
  origin   : Int
  /-- Target or join point of the replanned phases, its end velocity, and the speed limit they were planned under, 0 for
  V_REPLAN (R119, R169). -/
  planTo   : Int
  planVel  : Int
  speed    : Nat
  /-- Soft limits at which the reference is clipped, where even D_MAX does not stop in time (R120). -/
  clipLow  : Option Int
  clipHigh : Option Int
  deriving DecidableEq, Repr

/-- The remaining move of a stopping drive, kept in STOPPED_MID (R126). -/
structure Kept where
  context : Option CtxIx
  nextSeg : Nat
  target  : Int
  /-- The position that a relative context is counted from. -/
  origin  : Int
  deriving DecidableEq, Repr

/-- The position compare of a drive (R130 to R134, Table 3.13). -/
structure Compare where
  position  : Int
  mode      : Nat
  direction : Nat
  actions   : Nat
  hyst      : Nat
  armed     : Bool
  behind    : Bool
  /-- The position at the last test (R130). -/
  last      : Int
  /-- The latest firing was an increasing crossing: it re-arms HYST above C, else HYST below (R131). -/
  above     : Bool
  fireCount : Nat
  lastFired : Nat
  deriving DecidableEq, Repr

/-- MOTION_FLAGS (Table 3.14), apart from RESUMABLE, which is the presence of a kept move. -/
structure MotionFlags where
  replanned   : Bool
  joined      : Bool
  overshoot   : Bool
  decelRaised : Bool
  limitClip   : Bool
  keCapped    : Bool
  tracking    : Bool
  interrupted : Bool
  ctxModified : Bool
  ctxRefused  : Bool
  deriving DecidableEq, Repr

/-- The motion generator of one drive (chapter 3). -/
structure Gen where
  state      : DriveState
  ref        : Kin
  path       : Option Path
  kept       : Option Kept
  remaining  : Int
  target     : Int
  flags      : MotionFlags
  roleSelect : Nat
  compare    : Compare
  /-- Causes of an interruption in force; torque is off while any is present (R183, R658). -/
  stops      : List Interruption
  /-- An action other than REVERSAL_REQUEST is latched on the drive's column: its bridge is overridden (R150, R257). -/
  braked     : Bool
  deriving DecidableEq, Repr

/-- What Quince holds for one column (R257, R258). -/
structure Latch where
  action   : Action
  firstRow : Option RowIx
  rows     : List RowIx
  deriving DecidableEq, Repr

/-! ## Door drive -/

/-- What a step of one sector is undone to, where it goes back within 100 µs (Table 4.6). -/
structure HallPrior where
  sector   : Nat
  rawEdges : Int
  dirLast  : Int
  interval : Option Nat
  frac     : Nat
  age      : Nat
  velocity : Int
  deriving DecidableEq, Repr

/-- The Hall counter of a door drive (R153). -/
structure Hall where
  code       : Nat
  sector     : Option Nat
  rawEdges   : Int
  dirLast    : Int
  interval   : Option Nat
  frac       : Nat
  zeroOffset : Int
  velocity   : Int
  skips      : Nat
  /-- Time since the last edge (t_now − t_last), in units of 50 ns. -/
  age        : Nat
  /-- Time since the last change of the code, in units of 50 ns. -/
  codeAge    : Nat
  prior      : Option HallPrior
  /-- raw_ticks at the last position-loop period (R155). -/
  before     : Int
  deriving DecidableEq, Repr

/-- DRIVE_FLAGS held by the door drive (Table 4.9) and the marks around them. -/
structure DriveFlags where
  indexed      : Bool
  learnt       : Bool
  suspect      : Bool
  sealSeek     : Bool
  hallDropout  : Bool
  thermalHold  : Bool
  followError  : Bool
  /-- A suspect mark of Table 4.6 held back while DCS and DLS stay made (R181). -/
  suspectHeld  : Bool
  /-- An opening has run since power-up (R159). -/
  openedOnce   : Bool
  /-- DCS_BREAK_POS is to be taken from the next break capture (R174). -/
  breakDue     : Bool
  /-- The one index comparison of the stroke has been made (R168). -/
  compared     : Bool
  /-- The clamp of R158 cuts the torque of an opening motion (R77). -/
  clamped      : Bool
  deriving DecidableEq, Repr

/-- The closing push of phase LOCK (Table 4.3, R177, R178). -/
inductive LockPush where | none | pushing | relaxing | holding
  deriving DecidableEq, Repr

/-- Learnt values kept in MRAM (R175, Table 4.8 at +0x23). -/
structure Learnt where
  makePos       : Option Int
  breakPos      : Option Int
  lastCorrection : Int
  lastShift     : Int
  lastRelearn   : Nat
  deriving DecidableEq, Repr

/-- Counters of the door drive (Table 4.8 at +0x25). -/
structure DriveCounters where
  corrections   : Nat
  relearns      : Nat
  glitches      : Nat
  skips         : Nat
  dropouts      : Nat
  interruptions : Nat
  faults        : Nat
  deriving DecidableEq, Repr

/-- The current loop's d and q axes (R157): the measured currents in mA, the integrators in µV, and the voltages in mV. -/
structure CurrentLoop where
  id    : Int
  iq    : Int
  dIntg : Int
  qIntg : Int
  vd    : Int
  vq    : Int
  deriving DecidableEq, Repr

/-- The door drive of a doorway (chapter 4). -/
structure DoorDrive where
  gen         : Gen
  hall        : Hall
  flags       : DriveFlags
  learnt      : Learnt
  /-- raw_ticks captured at the last raw make and break of DCS (R168). -/
  makeCapture  : Option Int
  breakCapture : Option Int
  sealStart   : Int
  /-- The part of a µm, in 1/2,000 µm, that the seal-seek reference is still to advance (R172). -/
  sealFrac    : Nat
  push        : LockPush
  attempt     : Nat
  attemptAt   : Nat
  /-- The integrator of R160, in 1/20,000,000 mA. -/
  integ       : Int
  iqCmd       : Int
  /-- The highest position register, in ticks, since the q command became positive (R159). -/
  dirHigh     : Int
  loop        : CurrentLoop
  bridgeTemp  : Int
  faultCode   : Nat
  latch       : Latch
  counters    : DriveCounters
  deriving DecidableEq, Repr

/-! ## Step drive -/

/-- What the step drive is doing (R200, R206, R212, R217, R218). -/
inductive StepJob where
  | none
  | deploying        -- the DEPLOY context runs
  | awaitSds         -- DEPLOY complete, SDS awaited for 200 ms
  | approach         -- the RETRACT context runs to HOME_START_POS
  | homing           -- the homing phase by the HOME context
  | creepHoming      -- a CREEP homing
  | toHomeStart      -- HOME_STEP MODE 1: the move to HOME_START_POS
  | parking          -- the park move of R206
  | retryPause       -- the pause of R218
  deriving DecidableEq, Repr

/-- A step that the interval timer will issue (R192): the time to it in units of 10 ns, and its signed length. -/
structure StepDue where
  ticks : Nat
  move  : Int
  deriving DecidableEq, Repr

/-- The load-angle estimate (R196 to R198): the samples of the full step in progress, the averages of the last one, and
the stall marks. Angles are in 0.1° electrical, voltages in mV. -/
structure LoadAngle where
  /-- The register value at which the full step in progress started. -/
  spanFrom : Int
  forward  : Bool
  count    : Nat
  angleSum : Int
  emfSum   : Nat
  angle    : Int
  emf      : Nat
  /-- Consecutive stall-marked full steps, and the register at the start of the first. -/
  marks    : Nat
  onset    : Int
  /-- A run of marks ended short of STALL_STEPS: an angle below STALL_ANGLE / 2 is then a slip (R198). -/
  slipDue  : Bool
  deriving DecidableEq, Repr

/-- The phases of a coil's chopper (R193). -/
inductive ChopPhase where | on | slowDecay | fastDecay
  deriving DecidableEq, Repr

/-- The chopper of one coil (R193). -/
structure Chopper where
  phase  : ChopPhase
  offset : Int
  deriving DecidableEq, Repr

/-- The homing phase in progress (R201 to R204, R223). -/
structure HomingRun where
  transitions : Nat
  makeCapture : Option Int
  /-- Filtered SRS was made at some time during the phase (R203). -/
  srsSeen     : Bool
  /-- Filtered SRS has changed to made during the phase: no later make is captured (R201). -/
  srsMade     : Bool
  srsAtStart  : Bool
  chatter     : Bool
  startedAt   : Nat
  deriving DecidableEq, Repr

/-- STEP_FLAGS held by the step drive (Table 5.7). -/
structure StepFlags where
  homed        : Bool
  lost         : Bool
  deployed     : Bool
  chatter      : Bool
  shifted      : Bool
  deployFailed : Bool
  sdsLost      : Bool
  thermalHold  : Bool
  /-- The step has moved since it was last retracted and homed (R217). -/
  moved        : Bool
  /-- The standing of R210: retracted and homed with the position lost. -/
  standing     : Bool
  deriving DecidableEq, Repr

/-- Counters of the step drive (Table 5.6 at +0x2C). -/
structure StepCounters where
  homings       : Nat
  stalls        : Nat
  lostSteps     : Nat
  chatters      : Nat
  deployFails   : Nat
  retractRetries : Nat
  interruptions : Nat
  faults        : Nat
  deriving DecidableEq, Repr

/-- The step drive of a doorway (chapter 5). -/
structure StepDrive where
  gen         : Gen
  position    : Int
  elec        : Nat
  resolution  : Nat
  /-- The register and ELEC_INDEX read 0 until the next completed homing (R210). -/
  blank       : Bool
  timer       : Option StepDue
  /-- How far STEP_TIMER_EXPIRY has taken the step timing past the last period, in units of 10 ns. -/
  ahead       : Nat
  load        : LoadAngle
  chopA       : Chopper
  chopB       : Chopper
  job         : StepJob
  /-- A deployment follows the homing in progress (R211, R214). -/
  thenDeploy  : Bool
  run         : HomingRun
  flags       : StepFlags
  demandFails : Nat
  retries     : Nat
  srsOffset   : Int
  lastShift   : Int
  lastHome    : Nat
  bridgeTemp  : Int
  faultCode   : Nat
  latch       : Latch
  counters    : StepCounters
  deriving DecidableEq, Repr

/-! ## Obstacle protection -/

/-- One envelope of Rowan (R231): its 256 bin words, and the adaptation window of its direction (R245). -/
structure Envelope where
  bins       : List Nat
  /-- The bins as last written to MRAM (R246). -/
  saved      : List Nat
  learntNom  : List Int
  windowUsed : Nat
  limitedSent : Bool
  deriving DecidableEq, Repr

/-- OBST_FLAGS (Table 6.11) and the marks around them. -/
structure ObstFlags where
  envLearnt     : Bool
  sigLearnt     : Bool
  envTripped    : Bool
  sigTripped    : Bool
  sePathFault   : Bool
  reopenBlocked : Bool
  adaptLimited  : Bool
  learnRunning  : Bool
  reflexStop    : Bool
  /-- ENV_BREAKAWAY_TIME is running (R235). -/
  breakaway     : Bool
  /-- The stroke in progress has had a trip, an interruption or a derated scale (R244). -/
  disturbed     : Bool
  /-- A further trip ended the reopen motion: phase DWELL follows the reflex stop (Table 6.8). -/
  reopenOver    : Bool
  /-- The close in progress has passed the mark (R247). -/
  pastMark      : Bool
  /-- The reopen in progress was not started (R263). -/
  reopenHeld    : Bool
  deriving DecidableEq, Repr

/-- Counters of Table 6.10 at +0x35. -/
structure ObstCounters where
  seTrips      : Nat
  envTrips     : Nat
  sigTrips     : Nat
  obstructions : Nat
  learns       : Nat
  sePathFaults : Nat
  deriving DecidableEq, Repr

/-- The learnt signature and values of Table 6.10 at +0x34 and +0x37. -/
structure Signature where
  tLearn      : Int
  learnTime   : Nat
  wSig        : Nat
  nClose      : Nat
  ratios      : List Nat
  /-- W_SIG and SIG_RATIO at the start of the closing window, which bound their adaptation (R245, R248). -/
  wRef        : Nat
  ratioRefs   : List Nat
  adaptStrokes : Nat
  deriving DecidableEq, Repr

/-- A trip that Quince has latched and the state machine has not yet taken (R259): the source as
LAST_TRIP_SOURCE gives it. -/
structure Trip where
  source : Nat
  /-- A final-closure trip passed under R172, which raises no row (R250). -/
  fromSeal : Bool
  deriving DecidableEq, Repr

/-- Obstacle protection of a doorway (chapter 6). -/
structure Obstacle where
  seFast      : Bool × Bool
  seFaultEdge : Nat
  flags       : ObstFlags
  lastEffort  : Int
  lastLimit   : Int
  lastTripPos : Int
  lastTripTime : Nat
  lastTripSource : Nat
  sigEnergy   : Nat
  closeEnv    : Envelope
  openEnv     : Envelope
  signature   : Signature
  pending     : Option Trip
  counters    : ObstCounters
  deriving DecidableEq, Repr

/-! ## The state machine -/

/-- The maintenance operations of MAINT (R46, chapters 5, 6 and 16). -/
inductive MaintOp where
  | test (cycles : Nat)
  | learn
  | home (mode : Nat)
  | update
  | selftest (tests : Nat)
  deriving DecidableEq, Repr

/-- A maintenance operation in progress on a doorway. `shadow` is the state the doorway's motion is in, as if it
were in service (R47, R48, R61). -/
structure Maint where
  op        : MaintOp
  handle    : Nat
  shadow    : DoorState
  phase     : Phase
  done      : Nat
  discarded : Nat
  ending    : Bool
  startedAt : Nat
  deriving DecidableEq, Repr

/-- W1C flags and marks of the state machine (Table 1.15). -/
structure SmFlags where
  unlockFailed  : Bool
  lockFailed    : Bool
  openIgnored   : Bool
  isolatedByCmd : Bool
  /-- A plausibility condition of R25 or R179 is present. -/
  plausibility  : Bool
  /-- An uncommanded unlock has been seen and not yet taken (R33). -/
  unlockSeen    : Bool
  /-- The grace of R216 runs. -/
  grace         : Bool
  /-- The doorway entered OPENING since it last left LOCKED or RELEASED (R64). -/
  openedSince   : Bool
  /-- DLS has been confirmed in this phase LOCK (R177). -/
  dlsConfirmed  : Bool
  /-- The doorway has settled since start-up (R100). -/
  hasSettled    : Bool
  /-- The TL_CLOSE level the state machine saw at its last tick (R35). -/
  tlCloseSeen   : Bool
  /-- Whether the trainline close class held at its last tick (Table 1.6, CLOSED_UNLOCKED). -/
  classSeen     : Bool
  /-- The open context has completed and the step is awaited (R212, R662). -/
  openComplete  : Bool
  /-- The lock solenoid channel has been switched off since the entry to UNLOCKING (R176). -/
  solenoidOff   : Bool
  /-- The leaf engine is being updated or reloaded: the state machine does not run (R49). -/
  halted        : Bool
  deriving DecidableEq, Repr

/-- Inactive-to-active edges the state machine has not yet taken (R24). -/
structure Edges where
  openIn  : Bool
  openOut : Bool
  cpb     : Bool
  /-- Entry to RELEASED with OPEN_MODE 1: the automatic open demand of Table 1.4. -/
  auto    : Bool
  deriving DecidableEq, Repr

/-- Counters of Table 1.14 at +0x04. -/
structure DoorCounters where
  cycles        : Nat
  obstacles     : Nat
  unlockFails   : Nat
  lockFails     : Nat
  egressEvents  : Nat
  ignoredDemands : Nat
  deriving DecidableEq, Repr

/-- The state machine of a doorway (chapter 1). -/
structure DoorSm where
  state     : DoorState
  phase     : Phase
  cause     : Cause
  prev      : DoorState
  entered   : Nat
  /-- Monotonic time of the last change of state or phase, for the durations of R504. -/
  since     : Nat
  obstacles : Nat
  /-- The state and phase a stop interrupted, for a resume (Table 1.6). -/
  interrupted : Option (DoorState × Phase)
  flags     : SmFlags
  edges     : Edges
  maint     : Option Maint
  counters  : DoorCounters
  deriving DecidableEq, Repr

/-! ## Cycles -/

/-- CYCLE_FLAGS of the cycle in progress (Table 13.3), without those decided at staging. -/
structure CycleFlags where
  reopened       : Bool
  obstructed     : Bool
  egress         : Bool
  stopped        : Bool
  indexCorrected : Bool
  relearned      : Bool
  derated        : Bool
  lockRetried    : Bool
  stepChatter    : Bool
  stepRetried    : Bool
  segmentMark    : Bool
  incident       : Bool
  timeStepped    : Bool
  timeInvalid    : Bool
  continued      : Bool
  deriving DecidableEq, Repr

/-- The cycle in progress of a doorway (R502 to R504). -/
structure Cycle where
  start    : Nat
  startMono : Nat
  type     : Nat
  flags    : CycleFlags
  tUnlock  : Nat
  tOpen    : Nat
  tHold    : Nat
  tWarn    : Nat
  tClose   : Nat
  tLock    : Nat
  obstacles : Nat
  sigEnergy : Nat
  deriving DecidableEq, Repr

/-- One doorway with everything that belongs to it. -/
structure Doorway where
  inp   : InGroup
  sm    : DoorSm
  door  : DoorDrive
  step  : StepDrive
  obst  : Obstacle
  cycle : Option Cycle
  deriving DecidableEq, Repr

end Sys2Proof.Machine
end

