-- ==== Sys2Proof/Machine/LoadSwitch.lean ====
section
/-!
DEFINITION. The protected load switches (chapter 7): 48 channels, their groups, the command link and the fail-safe states.
A group is handled at its leader (R278, R279); each member holds its own diagnostics.
-/

namespace Sys2Proof.Machine

/-- What a channel is told to do: off, on, or keep-warm regulation (R297). -/
inductive ChanCmd where | off | on | keepWarm
  deriving DecidableEq, Repr

/-- Diagnostics of one member (R290 to R294), with the run of tests that showed the load present. -/
structure ChanDiag where
  openOff     : Bool
  openOn      : Bool
  shortSupply : Bool
  crossFed    : Bool
  partner     : Option ChanIx
  presentRun  : Nat
  deriving DecidableEq, Repr

/-- Keep-warm regulation (R296 to R299). -/
structure Heater where
  heating   : Bool
  rFault    : Bool
  /-- In-range measuring pulses since the fault was set. -/
  goodRun   : Nat
  /-- ELEMENT_TEMP in 0.1 °C and ELEMENT_R in mΩ as last computed. -/
  temp      : Int
  resistance : Nat
  deriving DecidableEq, Repr

/-- Counters of Table 7.8 at .30 to .35. -/
structure ChanCounters where
  onCount    : Nat
  ocTrips    : Nat
  thermals   : Nat
  openLoads  : Nat
  /-- Time on in µs; ON_TIME reports whole seconds. -/
  onTime     : Nat
  extensions : Nat
  deriving DecidableEq, Repr

/-- One load channel. -/
structure Channel where
  /-- The SWITCH_SET action in force (R307), none when the function drives the channel. -/
  override  : Option ChanCmd
  /-- The half of the flash, where the channel flashes (R276). -/
  flash     : Option Bool
  /-- The command in force at the controller (R300). -/
  cmd       : ChanCmd
  on        : Bool
  inrush    : Bool
  extended  : Bool
  /-- The extension of this turn-on has been used (R288). -/
  extUsed   : Bool
  /-- The turn-on is a retry after OC_SHORT, with a 2 ms window (R284). -/
  shortWindow : Bool
  overcurrent : Bool
  ocCause   : Nat
  retryWait : Bool
  lockout   : Bool
  thermal   : Bool
  blocked   : Bool
  retriesLeft : Nat
  diag      : ChanDiag
  heater    : Heater
  counters  : ChanCounters
  deriving DecidableEq, Repr

/-- The command link of the controllers (Table 7.8 at 0x1500). -/
structure LswLink where
  seq        : Option Nat
  failsafe   : Bool
  updateHold : Bool
  stable     : Bool
  validRun   : Nat
  timeouts   : Nat
  invalidFrames : Nat
  railSags   : Nat
  deriving DecidableEq, Repr

/-- The load switches of the module. -/
structure LoadSwitches where
  chans : Vector Channel 48
  link  : LswLink
  deriving DecidableEq, Repr

/-- What the load switches read of the module: configuration, time, the doorways' states and phases, the lock solenoids
asked for (R176), the release permits (R75), and the free counter. -/
structure LswEnv where
  cfg      : Cfg
  now      : Nat
  states   : Vector DoorState 8
  phases   : Vector Phase 8
  solenoid : Vector Bool 8
  permits  : Vector Bool 8
  free     : Nat

/-- Events sent, code and payload. -/
abbrev Events := List (Nat × List Byte)

/-- The doorway of a channel (R272). -/
def chanDoor (n : ChanIx) : DoorIx := ⟨n.val / 6, by omega⟩

/-- The leader of a channel's group (R278). -/
def leaderOf (c : Cfg) (n : ChanIx) : ChanIx := if h : c.chGroupLeader n < 48 then ⟨c.chGroupLeader n, h⟩ else n

/-- Whether a channel leads its group. -/
def isLeader (c : Cfg) (n : ChanIx) : Bool := leaderOf c n == n

/-- The members of the group of a channel, in order. -/
def membersOf (c : Cfg) (n : ChanIx) : List ChanIx := (List.finRange 48).filter (fun m => leaderOf c m == leaderOf c n)

/-- The FUNCTION of a channel: its leader's (R278). -/
def functionOf (c : Cfg) (n : ChanIx) : Nat := c.chFunction (leaderOf c n)

/-- HEATER with HEAT_SENSE = 1. -/
def selfSensing (c : Cfg) (n : ChanIx) : Bool :=
  decide (functionOf c n = 5) && decide (c.chHeatSense (leaderOf c n) = 1)

/-- LOCK_FEED_FAULT: SHORT_TO_SUPPLY or CROSS_FED on a LOCK channel (R295). -/
def LoadSwitches.lockFeedFault (s : LoadSwitches) (c : Cfg) : Bool :=
  (List.finRange 48).any (fun n => decide (functionOf c n = 4) && (s.chans[n].diag.shortSupply || s.chans[n].diag.crossFed))

/-- LINK_FLAGS (Table 7.8). -/
def LoadSwitches.linkWord (s : LoadSwitches) (c : Cfg) : Nat :=
  bitWord [s.link.failsafe, s.link.updateHold, s.link.stable, s.lockFeedFault c]

/-- R313: the payload of a load-switch event. -/
def lswEvent (e : LswEnv) (chan code v16 : Nat) (value : Int) : List Byte :=
  le 8 e.now ++ le 1 chan ++ le 1 code ++ le 2 v16 ++ leInt 4 value

/-- Change one channel. -/
def LoadSwitches.chan (s : LoadSwitches) (n : ChanIx) (f : Channel → Channel) : LoadSwitches :=
  { s with chans := s.chans.set n (f s.chans[n]) }

/-- Change every channel of a list. -/
def LoadSwitches.each (s : LoadSwitches) (ns : List ChanIx) (f : Channel → Channel) : LoadSwitches :=
  ns.foldl (fun s n => s.chan n f) s

/-- Change the diagnostics of a channel. -/
def LoadSwitches.diag (s : LoadSwitches) (n : ChanIx) (f : ChanDiag → ChanDiag) : LoadSwitches :=
  s.chan n (fun q => { q with diag := f q.diag })

/-- Change the link. -/
def LoadSwitches.onLink (s : LoadSwitches) (f : LswLink → LswLink) : LoadSwitches := { s with link := f s.link }

/-- A reading of a channel in mA: free, 0 to 8,190 in steps of 2 (R289, note 4). -/
def currentReading (free : Nat) (n : ChanIx) : Nat :=
  (Config.measured .current (free + n.val)).toNat % 4096 * 2

/-- CH_FLAGS (Table 7.9); FAILSAFE is the link's, and CURRENT_LIMIT a reading at the limit while on. -/
def LoadSwitches.flagWord (s : LoadSwitches) (c : Cfg) (free : Nat) (n : ChanIx) : Nat :=
  let l := s.chans[leaderOf c n]
  let q := s.chans[n]
  bitWord [l.on, l.inrush, l.extended, l.on && decide (6000 ≤ currentReading free n), l.overcurrent, bitOf l.ocCause 0, bitOf l.ocCause 1, l.retryWait,
    l.lockout, q.thermal, q.diag.openOff, q.diag.openOn, q.diag.shortSupply, q.diag.crossFed, s.link.failsafe,
    l.blocked, l.heater.heating, l.heater.rFault]

/-- A channel of the group of n has latched (R286). -/
def LoadSwitches.groupThermal (s : LoadSwitches) (c : Cfg) (n : ChanIx) : Bool :=
  (membersOf c n).any (fun m => s.chans[m].thermal)

/-! ## Switching -/

/-- A leader turns on with its inrush window (R280, R281); `short` is a retry after OC_SHORT (R284). -/
def LoadSwitches.turnOn (s : LoadSwitches) (c : Cfg) (n : ChanIx) (short : Bool) : LoadSwitches :=
  let s := s.chan n (fun q => { q with on := true, inrush := true, extUsed := false, shortWindow := short })
  s.each (membersOf c n) (fun q => { q with counters := { q.counters with onCount := satInc 32 q.counters.onCount } })

/-- A leader turns off. -/
def LoadSwitches.turnOff (s : LoadSwitches) (n : ChanIx) : LoadSwitches :=
  s.chan n (fun q => { q with on := false, inrush := false })

/-- A leader follows an on or off demand: a turn-on waits for back-off, lock-out and thermal latch (R284, R286, R287); a
command to switch off cancels a back-off. -/
def LoadSwitches.follow (s : LoadSwitches) (c : Cfg) (n : ChanIx) (want : Bool) : LoadSwitches :=
  let q := s.chans[n]
  if want then
    (if q.on || q.lockout || q.retryWait || s.groupThermal c n then s else s.turnOn c n false)
  else
    let s := s.chan n (fun q => { q with retryWait := false })
    if q.on then (s.turnOff n).chan n (fun q => { q with overcurrent := false }) else s

/-- Whether keep-warm regulates the channel under its command. -/
def Channel.keepsWarm (q : Channel) : Bool := q.cmd == .keepWarm

/-- What a channel is to do now: nothing where the doorway is not fitted or the channel UNUSED; the LOCK channel off
in fail-safe, in UPDATE_HOLD and in STABLE (R302, R304, R305). -/
def LoadSwitches.demand (s : LoadSwitches) (c : Cfg) (n : ChanIx) : ChanCmd :=
  let f := functionOf c n
  let mode (v : Nat) : ChanCmd := if v = 1 then .on else if v = 2 then .keepWarm else .off
  if !c.isFitted (chanDoor n) || f = 0xFF then .off
  else if s.link.stable then (if f = 4 then .off else mode (c.chStableMode n))
  else if s.link.failsafe then (if f = 4 then .off else mode (c.chFailsafe n))
  else if s.link.updateHold && f = 4 then .off
  else s.chans[n].cmd

/-- The leader follows its demand; under keep-warm it is on while HEATING. -/
def LoadSwitches.apply (s : LoadSwitches) (c : Cfg) (n : ChanIx) : LoadSwitches :=
  match s.demand c n with
  | .off => (s.chan n (fun q => { q with heater := { q.heater with heating := false } })).follow c n false
  | .on => (s.chan n (fun q => { q with heater := { q.heater with heating := false } })).follow c n true
  | .keepWarm => s.follow c n (s.chans[n].heater.heating)

/-- Every leader follows its demand. -/
def LoadSwitches.applyAll (s : LoadSwitches) (c : Cfg) : LoadSwitches :=
  ((List.finRange 48).filter (isLeader c)).foldl (fun s n => s.apply c n) s

/-! ## The function requests (R275, R276) -/

/-- The mask bit of the present state of the channel's doorway. -/
def stateBit (e : LswEnv) (n : ChanIx) (mask : Nat) : Bool :=
  bitOf mask (match e.states[chanDoor n] with
    | .locked => 0 | .released => 1 | .unlocking => 2 | .opening => 3 | .opened => 4 | .closing => 5 | .reopening => 6
    | .obstructed => 7 | .closedUnlocked => 8 | .stopped => 9 | .egress => 10 | .isolated => 11 | .fault => 12
    | .maint => 13)

/-- The chime is on throughout CLOSING phase WARN (R37). -/
def chimeWarns (e : LswEnv) (n : ChanIx) : Bool :=
  decide (functionOf e.cfg n = 3) && e.states[chanDoor n] == .closing && e.phases[chanDoor n] == .warn

/-- A channel flashes in the present state. -/
def flashes (e : LswEnv) (n : ChanIx) (q : Channel) : Bool :=
  let f := functionOf e.cfg n
  q.override.isNone && (f = 1 || f = 2 || f = 3) && stateBit e n (e.cfg.chStateFlashMask (leaderOf e.cfg n)) &&
    !chimeWarns e n

/-- The command the supervisor assembles for a leader (R275, R300), before the permit of a LOCK channel. -/
def commandFor (e : LswEnv) (n : ChanIx) (q : Channel) : ChanCmd :=
  let f := functionOf e.cfg n
  let onOff (b : Bool) : ChanCmd := if b then .on else .off
  match q.override with
  | some o => if f = 4 || f = 0xFF then .off else o
  | none =>
    if f = 4 then onOff e.solenoid[chanDoor n]
    else if chimeWarns e n then .on
    else if f = 1 || f = 2 || f = 3 then
      (match q.flash with
        | some half => onOff half
        | none => onOff (stateBit e n (e.cfg.chStateOnMask n)))
    else if selfSensing e.cfg n then .keepWarm
    else .off

/-- The supervisor's flash state of a leader: a flash starts with the on half (R276). -/
def flashFor (e : LswEnv) (n : ChanIx) (q : Channel) : Option Bool :=
  if flashes e n q then some (q.flash.getD true) else none

/-- The frame's command of a leader, with the AND of the permit on a LOCK channel (R300). -/
def frameChannel (e : LswEnv) (n : ChanIx) (q : Channel) : Channel :=
  let q := { q with flash := flashFor e n q }
  let cmd := commandFor e n q
  let lock := functionOf e.cfg n == 4
  let permit := e.permits[chanDoor n]
  { q with cmd := if lock && !permit then .off else cmd, blocked := lock && cmd == .on && !permit }

/-! ## Frames and the watchdog (R300 to R305) -/

/-- Take a valid frame's mode and, in RUN, its commands. -/
def takeFrame (e : LswEnv) (mode : LswMode) (s : LoadSwitches) : LoadSwitches :=
  match mode with
  | .run =>
    let s := s.onLink (fun l => { l with updateHold := false, stable := false })
    ({ s with chans := tab 48 (fun n => if isLeader e.cfg n then frameChannel e n s.chans[n] else s.chans[n]) }).applyAll e.cfg
  | .updateHold =>
    ((s.onLink (fun l => { l with updateHold := true })).each
      ((List.finRange 48).filter (fun n => functionOf e.cfg n == 4)) (fun q => { q with cmd := .off, blocked := false })).applyAll e.cfg
  | .stable => (s.onLink (fun l => { l with stable := true, updateHold := false })).applyAll e.cfg

/-- R300, R301, R303: a frame arrives at the controllers. -/
def lswFrame (e : LswEnv) (seq : Nat) (crcOk : Bool) (mode : LswMode) (s : LoadSwitches) : LoadSwitches × Events :=
  let valid := crcOk && (match s.link.seq with
    | none => true
    | some q => decide (seq % 256 = (q + 1) % 256))
  if !valid then
    (s.onLink (fun l => { l with validRun := 0, invalidFrames := satInc 32 l.invalidFrames }), [])
  else
    let s := s.onLink (fun l => { l with seq := some (seq % 256), validRun := min 8 (l.validRun + 1) })
    if s.link.failsafe && s.link.validRun < 8 then (s, [])
    else
      let left := s.link.failsafe
      let s := takeFrame e mode (s.onLink (fun l => { l with failsafe := false }))
      (s, if left then [(0xE702, lswEvent e 0xFF 0 0 0)] else [])

/-- R301, R304: the channels take their fail-safe states. -/
def enterFailsafe (e : LswEnv) (s : LoadSwitches) : LoadSwitches × Events :=
  if s.link.failsafe then (s, [])
  else
    let s := s.onLink (fun l => { l with failsafe := true, updateHold := false, validRun := 0
                                         timeouts := satInc 16 l.timeouts })
    (s.applyAll e.cfg, [(0xE702, lswEvent e 0xFF 1 0 0)])

/-- R301: the watchdog, suspended in UPDATE_HOLD and in STABLE mode (R304, R305). -/
def lswWatchdog (e : LswEnv) (s : LoadSwitches) : LoadSwitches × Events :=
  if s.link.updateHold || s.link.stable then (s, []) else enterFailsafe e s

/-- R304: 2.0 s of UPDATE_HOLD without a RUN frame. -/
def lswHoldTimeout (e : LswEnv) (s : LoadSwitches) : LoadSwitches × Events :=
  if s.link.updateHold then enterFailsafe e s else (s, [])

/-! ## Protection (R280 to R288) -/

/-- R284: the channel of a group goes off as an overcurrent: it waits for a retry, or locks out. -/
def overcurrent (e : LswEnv) (n : ChanIx) (cause current : Nat) (s : LoadSwitches) : LoadSwitches × Events :=
  let l := leaderOf e.cfg n
  let left := s.chans[l].retriesLeft
  let s := (s.turnOff l).chan l (fun q => { q with
    overcurrent := true, ocCause := cause, counters := { q.counters with ocTrips := satInc 16 q.counters.ocTrips } })
  if left = 0 then
    (s.chan l (fun q => { q with lockout := true }), [(0xE701, lswEvent e l.val 8 0 current)])
  else (s.chan l (fun q => { q with retryWait := true }), [])

/-- R282: OC_STEADY, outside the inrush window. -/
def onSteady (e : LswEnv) (n : ChanIx) (current : Nat) (s : LoadSwitches) : LoadSwitches × Events :=
  let l := leaderOf e.cfg n
  if s.chans[l].on && !s.chans[l].inrush && e.cfg.chOcLimit l < current then overcurrent e n 1 current s else (s, [])

/-- R283: OC_SHORT, at the hardware limit outside the inrush window. -/
def onShort (e : LswEnv) (n : ChanIx) (s : LoadSwitches) : LoadSwitches × Events :=
  let l := leaderOf e.cfg n
  if s.chans[l].on && !s.chans[l].inrush then overcurrent e n 2 6000 s else (s, [])

/-- R280: the inrush window ends with the member's current as given. -/
def onInrushEnd (e : LswEnv) (n : ChanIx) (current : Nat) (s : LoadSwitches) : LoadSwitches × Events :=
  let l := leaderOf e.cfg n
  if s.chans[l].on && s.chans[l].inrush then
    if 6000 ≤ current then overcurrent e n 2 current s
    else if e.cfg.chOcLimit l < current then overcurrent e n 3 current s
    else (s.chan l (fun q => { q with inrush := false, shortWindow := false }), [])
  else (s, [])

/-- R284: the back-off ends. -/
def onRetry (e : LswEnv) (n : ChanIx) (s : LoadSwitches) : LoadSwitches :=
  let l := leaderOf e.cfg n
  let q := s.chans[l]
  if !q.retryWait then s
  else
    let s := s.chan l (fun q => { q with retryWait := false, retriesLeft := q.retriesLeft - 1 })
    match s.demand e.cfg l with
    | .off => s.chan l (fun r => { r with retriesLeft := q.retriesLeft })
    | .on => s.turnOn e.cfg l (q.ocCause == 2)
    | .keepWarm => if q.heater.heating then s.turnOn e.cfg l (q.ocCause == 2)
      else s.chan l (fun r => { r with retriesLeft := q.retriesLeft })

/-- R285: on for 60 s without an overcurrent. -/
def onRestore (e : LswEnv) (n : ChanIx) (s : LoadSwitches) : LoadSwitches :=
  let l := leaderOf e.cfg n
  if s.chans[l].on && !s.groupThermal e.cfg l then s.chan l (fun q => { q with retriesLeft := e.cfg.chRetryCount l }) else s

/-- R286: a switch reaches 150 °C. -/
def onThermalLatch (e : LswEnv) (n : ChanIx) (s : LoadSwitches) : LoadSwitches × Events :=
  if s.chans[n].thermal then (s, [])
  else
    let l := leaderOf e.cfg n
    let s := (s.turnOff l).chan l (fun q => { q with retryWait := false })
    let s := s.chan n (fun q => { q with
      thermal := true, counters := { q.counters with thermals := satInc 16 q.counters.thermals } })
    (s, [(0xE701, lswEvent e n.val 9 s.chans[l].retriesLeft (currentReading e.free n))])

/-- R288: a sag of the doorway's rail ends after a duration in µs. -/
def onRailSag (e : LswEnv) (d : DoorIx) (duration : Nat) (s : LoadSwitches) : LoadSwitches × Events :=
  if duration ≤ 100 then (s, [])
  else
    let hit := (List.finRange 48).filter (fun n => chanDoor n == d && isLeader e.cfg n && s.chans[n].on && s.chans[n].inrush
      && !s.chans[n].extUsed)
    let s := s.each hit (fun q => { q with
      extended := true, extUsed := true, counters := { q.counters with extensions := satInc 16 q.counters.extensions } })
    let s := s.onLink (fun l => { l with railSags := satInc 16 l.railSags })
    let mask := bitWord ((List.range 6).map (fun i => hit.any (fun n => (membersOf e.cfg n).any (fun m => m.val % 6 == i && chanDoor m == d))))
    (s, if hit.isEmpty then [] else [(0xE703, lswEvent e (6 * d.val) 0 mask duration)])

/-! ## Diagnostics (R290 to R299) -/

/-- Set a diagnostic flag: the event, and the counter of open loads. -/
def diagEvent (e : LswEnv) (n : ChanIx) (bit : Nat) (value : Int) (s : LoadSwitches) : Events :=
  [(0xE701, lswEvent e n.val bit s.chans[leaderOf e.cfg n].retriesLeft value)]

/-- Whether off-state tests run on a channel (R277, R290, R298). -/
def testRuns (e : LswEnv) (n : ChanIx) (s : LoadSwitches) : Bool :=
  let l := leaderOf e.cfg n
  e.cfg.isFitted (chanDoor n) && !s.chans[l].on && decide (e.cfg.chOpenTest n = 1) && s.demand e.cfg l != .keepWarm

/-- One more open load counted. -/
def countOpen (q : Channel) : Channel := { q with counters := { q.counters with openLoads := satInc 16 q.counters.openLoads } }

/-- R290 to R292: an off-state test. A partner counts only where it is another group of the same doorway. -/
def onOffTest (e : LswEnv) (n : ChanIx) (r : OffTest) (s : LoadSwitches) : LoadSwitches × Events :=
  if !testRuns e n s then (s, [])
  else
    let g := s.chans[n].diag
    match r with
    | .present =>
      if 1 ≤ g.presentRun then
        (s.diag n (fun q => { q with openOff := false, shortSupply := false, crossFed := false, partner := none, presentRun := 2 }), [])
      else (s.diag n (fun q => { q with presentRun := 1 }), [])
    | .between => (s.diag n (fun q => { q with presentRun := 0 }), [])
    | .openLoad =>
      let s' := s.diag n (fun q => { q with openOff := true, presentRun := 0 })
      if g.openOff then (s', []) else (s'.chan n countOpen, diagEvent e n 10 (currentReading e.free n) s)
    | .fed p =>
      let real := match p with
        | some m => chanDoor m == chanDoor n && leaderOf e.cfg m != leaderOf e.cfg n
        | none => false
      if real then
        let s' := s.diag n (fun q => { q with crossFed := true, shortSupply := false, partner := p, presentRun := 0 })
        (s', if g.crossFed then [] else diagEvent e n 13 ((p.map (fun m => (m.val : Int))).getD 0xFF) s)
      else if g.crossFed then (s.diag n (fun q => { q with presentRun := 0 }), [])
      else
        let s' := s.diag n (fun q => { q with shortSupply := true, presentRun := 0 })
        (s', if g.shortSupply then [] else diagEvent e n 12 (currentReading e.free n) s)

/-- R294: the current of a member that is on has stood below OPEN_ON_I, or at or above it, for 100 ms. -/
def onOpenOn (e : LswEnv) (n : ChanIx) (current : Nat) (s : LoadSwitches) : LoadSwitches × Events :=
  let l := leaderOf e.cfg n
  let lim := e.cfg.chOpenOnI l
  if !s.chans[l].on || s.chans[l].inrush || lim = 0 then (s, [])
  else if current < lim then
    let s' := s.diag n (fun q => { q with openOn := true })
    if s.chans[n].diag.openOn then (s', []) else (s'.chan n countOpen, diagEvent e n 11 current s)
  else (s.diag n (fun q => { q with openOn := false }), [])

/-- R296: the element resistance in mΩ from mV and mA. -/
def elementR (vOut current : Nat) : Nat := (roundDiv (1000 * vOut) current).toNat

/-- R296: the element temperature in 0.1 °C. -/
def elementTemp (c : Cfg) (n : ChanIx) (r : Nat) : Int :=
  200 + roundDiv (((r : Int) - c.chHeatRRef n) * 10000000) (c.chHeatRRef n * c.chHeatAlpha n : Nat)

/-- R299: a computed temperature is plausible. -/
def tempInRange (t : Int) : Bool := decide (-600 ≤ t) && decide (t ≤ 2000)

/-- A reading of a heater is taken (R296, R299); `pulse` marks a measuring pulse. -/
def takeReading (e : LswEnv) (l : ChanIx) (vOut current : Nat) (pulse : Bool) (s : LoadSwitches) : LoadSwitches × Events :=
  if current = 0 then (s, [])
  else
    let r := elementR vOut current
    let t := elementTemp e.cfg l r
    let h := s.chans[l].heater
    if tempInRange t then
      let good := if pulse then h.goodRun + 1 else h.goodRun
      let clears := h.rFault && decide (3 ≤ good)
      (s.chan l (fun q => { q with heater := { q.heater with
        temp := t, resistance := r, goodRun := if clears then 0 else if h.rFault then good else 0
        rFault := h.rFault && !clears } }), [])
    else
      (s.chan l (fun q => { q with heater := { q.heater with temp := t, resistance := r, goodRun := 0, rFault := true } }),
        if h.rFault then [] else diagEvent e l 17 current s)

/-- R297: the regulation decision of one second. -/
def regulate (e : LswEnv) (l : ChanIx) (s : LoadSwitches) : LoadSwitches :=
  let h := s.chans[l].heater
  let half : Int := (e.cfg.chHeatBand l / 2 : Nat)
  let set := e.cfg.chHeatSetpoint l
  let heating := if h.rFault then false else if h.temp < set - half then true else if set + half < h.temp then false else h.heating
  (s.chan l (fun q => { q with heater := { q.heater with heating := heating } })).apply e.cfg l

/-- R297: once per second; the readings count only while the heater is on outside its inrush window. -/
def onKeepWarm (e : LswEnv) (n : ChanIx) (vOut current : Nat) (s : LoadSwitches) : LoadSwitches × Events :=
  let l := leaderOf e.cfg n
  if s.demand e.cfg l != .keepWarm || !selfSensing e.cfg l then (s, [])
  else
    let r := if s.chans[l].on && !s.chans[l].inrush then takeReading e l vOut current false s else (s, [])
    (regulate e l r.1, r.2)

/-- R298: the 150 ms measuring pulse of an idle keep-warm heater. -/
def onMeasurePulse (e : LswEnv) (n : ChanIx) (vOut current : Nat) (s : LoadSwitches) : LoadSwitches × Events :=
  let l := leaderOf e.cfg n
  let q := s.chans[l]
  if s.demand e.cfg l != .keepWarm || !selfSensing e.cfg l || q.on || q.lockout || q.retryWait || s.groupThermal e.cfg l then (s, [])
  else
    let r := takeReading e l vOut current true (s.turnOn e.cfg l false)
    (r.1.turnOff l, r.2)

/-- R276: a flashing channel toggles. -/
def onFlash (e : LswEnv) (n : ChanIx) (s : LoadSwitches) : LoadSwitches :=
  let l := leaderOf e.cfg n
  if flashes e l s.chans[l] then
    let half : Bool := match s.chans[l].flash with
      | some b => !b
      | none => true
    let c : ChanCmd := match half with
      | true => .on
      | false => .off
    let s := s.chan l (fun q => { q with flash := some half, cmd := c })
    s.apply e.cfg l
  else s

/-! ## Commands (R307 to R310) -/

/-- R308: the reason a channel refuses a SWITCH_SET action. -/
def switchRefusal (c : Cfg) (n : ChanIx) (action : Nat) : Option Nat :=
  let f := functionOf c n
  if !c.isFitted (chanDoor n) then some 0x38
  else if f = 4 || f = 0xFF then some 0x3E
  else if action = 2 && !selfSensing c n then some 0x3E
  else if action = 3 && f = 0 then some 0x3E
  else none

/-- The channels of a mask. -/
def chansOf (mask : Nat) : List ChanIx := (List.finRange 48).filter (fun n => bitOf mask n.val)

/-- A mask of channels. -/
def maskOf (ns : List ChanIx) : Nat := bitWord ((List.finRange 48).map (fun n => ns.contains n))

/-- The override an action makes; a HOST channel returned or not yet set is off. -/
def overrideOf (action : Nat) : Option ChanCmd :=
  if action = 0 then some .off else if action = 1 then some .on else if action = 2 then some .keepWarm else none

/-- R307: SWITCH_SET on a mask: the channels accepted, those refused with the first reason, and the state after. -/
def switchSet (c : Cfg) (mask action : Nat) (s : LoadSwitches) : LoadSwitches × Nat × Nat × Nat :=
  let refused := (chansOf mask).filter (fun n => (switchRefusal c n action).isSome)
  let accepted := (chansOf mask).filter (fun n => (switchRefusal c n action).isNone)
  let reason := match refused with
    | [] => 0
    | n :: _ => (switchRefusal c n action).getD 0
  (s.each (accepted.map (leaderOf c)) (fun q => { q with override := overrideOf action }), maskOf accepted, maskOf refused, reason)

/-- R310: FAULT_CLEAR of one channel, given its switch temperature; answers whether THERMAL_LATCH stays. -/
def clearChannel (e : LswEnv) (n : ChanIx) (s : LoadSwitches) : LoadSwitches × Bool :=
  let l := leaderOf e.cfg n
  let hot := s.chans[n].thermal && decide (1300 ≤ Config.measured .switchTemp (e.free + n.val))
  let s := s.chan l (fun q => { q with
    lockout := false, overcurrent := false, retryWait := false, retriesLeft := e.cfg.chRetryCount l })
  let s := s.chan n (fun q => { q with thermal := hot })
  (s.apply e.cfg l, hot)

/-- R310: FAULT_CLEAR of a list of channels: the state, and those still hot. -/
def clearChannels (e : LswEnv) : List ChanIx → LoadSwitches → LoadSwitches × List ChanIx
  | [], s => (s, [])
  | n :: r, s =>
    let p := clearChannel e n s
    let q := clearChannels e r p.1
    (q.1, if p.2 then n :: q.2 else q.2)

/-- R310: FAULT_CLEAR on a mask. A channel whose doorway is not fitted refuses (Table 7.6). -/
def faultClear (e : LswEnv) (mask : Nat) (s : LoadSwitches) : LoadSwitches × Nat × Nat × Nat :=
  let unfitted := (chansOf mask).filter (fun n => !e.cfg.isFitted (chanDoor n))
  let fitted := (chansOf mask).filter (fun n => e.cfg.isFitted (chanDoor n))
  let r := clearChannels e fitted s
  let refused := (chansOf mask).filter (fun n => unfitted.contains n || r.2.contains n)
  let reason := match refused with
    | [] => 0
    | n :: _ => if unfitted.contains n then 0x38 else 0x3F
  (r.1, maskOf (fitted.filter (fun n => !r.2.contains n)), maskOf refused, reason)

/-- R309: the status entry of a channel. -/
def chanStatus (e : LswEnv) (s : LoadSwitches) (n : ChanIx) : List Byte :=
  let q := s.chans[leaderOf e.cfg n]
  le 1 n.val ++ le 1 (bitWord [q.cmd != .off, q.on, q.override.isSome]) ++ le 2 (s.flagWord e.cfg e.free n % 65536)
    ++ le 2 (if q.on then currentReading e.free n else 0) ++ leInt 2 (Config.measured .switchTemp (e.free + n.val)) ++ le 1 q.retriesLeft ++ le 1 0
    ++ leInt 2 q.heater.temp

/-- Time passes at the channels that are on. -/
def LoadSwitches.passes (s : LoadSwitches) (c : Cfg) (us : Nat) : LoadSwitches :=
  { s with chans := tab 48 (fun n =>
      let q := s.chans[n]
      if s.chans[leaderOf c n].on then { q with counters := { q.counters with onTime := q.counters.onTime + us } } else q) }

/-! ## Power (R306) -/

/-- R306: the FIELD_IO domain is off: every channel is off, RETRIES_LEFT restored, OC_LOCKOUT kept, THERMAL_LATCH cleared. -/
def Channel.unpowered (c : Cfg) (n : ChanIx) (q : Channel) : Channel :=
  { q with override := none, flash := none, cmd := .off, on := false, inrush := false, extended := false, extUsed := false
           shortWindow := false, overcurrent := false, ocCause := 0, retryWait := false
           thermal := false, blocked := false, retriesLeft := c.chRetryCount (leaderOf c n)
           diag := { openOff := false, openOn := false, shortSupply := false, crossFed := false, partner := none, presentRun := 0 }
           heater := { heating := false, rFault := false, goodRun := 0, temp := 0, resistance := 0 } }

/-- The load switches with FIELD_IO off. -/
def LoadSwitches.unpowered (c : Cfg) (s : LoadSwitches) : LoadSwitches :=
  { chans := tab 48 (fun n => Channel.unpowered c n s.chans[n])
    link := { s.link with seq := none, failsafe := false, updateHold := false, stable := false, validRun := 0 } }

/-- A channel as delivered. -/
def Channel.reset : Channel :=
  { override := none, flash := none, cmd := .off, on := false, inrush := false, extended := false, extUsed := false
    shortWindow := false, overcurrent := false, ocCause := 0, retryWait := false, lockout := false
    thermal := false, blocked := false, retriesLeft := 3
    diag := { openOff := false, openOn := false, shortSupply := false, crossFed := false, partner := none, presentRun := 0 }
    heater := { heating := false, rFault := false, goodRun := 0, temp := 0, resistance := 0 }
    counters := { onCount := 0, ocTrips := 0, thermals := 0, openLoads := 0, onTime := 0, extensions := 0 } }

/-- The load switches as delivered. -/
def LoadSwitches.reset : LoadSwitches :=
  { chans := tab 48 (fun _ => Channel.reset)
    link := { seq := none, failsafe := false, updateHold := false, stable := false, validRun := 0, timeouts := 0
              invalidFrames := 0, railSags := 0 } }

end Sys2Proof.Machine
end

