-- ==== Sys2Proof/Machine/Can.lean ====
section
/-!
DEFINITION. The CAN FD channels (chapter 12): controllers, transmit buffers, receive queues, filters, the schedule matrix and the
message objects.
-/

namespace Sys2Proof.Machine

/-- A transmit buffer: the frames of the packet it sends, first in front (R479), the session they belong to, or the message
object (TXB0). `waits` says that its latest start has passed and it waits for the next arbitrating window (R477). -/
structure TxBuffer where
  frames  : List CanFrame
  session : Option SessIx
  object  : Option (Fin 64)
  waits   : Bool
  deriving DecidableEq, Repr

/-- A received frame in a queue, with its timestamp and the filter that took it (R482, R483). -/
structure RxEntry where
  frame  : CanFrame
  time   : Nat
  filter : Fin 32
  deriving DecidableEq, Repr

/-- One receive queue. `lastEvent` is the time of its last overflow event (R482). -/
structure RxQueue where
  entries   : List RxEntry
  overflows : Nat
  lastEvent : Option Nat
  deriving DecidableEq, Repr

/-- Mirror and count of a filter (Table 12.11). -/
structure FilterState where
  lastRx : List Byte
  hits   : Nat
  deriving DecidableEq, Repr

/-- A basic cycle in progress: its number and the time of its start, module time under TIME_BASE 1, monotonic otherwise. -/
structure BasicCycle where
  number : Nat
  start  : Nat
  deriving DecidableEq, Repr

/-- One CAN channel. -/
structure CanChannel where
  /-- The domain is on and the channel is enabled. -/
  active       : Bool
  integrating  : Bool
  busOff       : Bool
  /-- Bus-off recovery has been started (R473). -/
  recovering   : Bool
  txErr          : Nat
  rxErr          : Nat
  txb0         : TxBuffer
  txb1         : TxBuffer
  txb2         : TxBuffer
  rxq0         : RxQueue
  rxq1         : RxQueue
  filters      : Vector FilterState 32
  /-- The 784 bytes of the schedule in force (R487). -/
  live         : List Byte
  /-- A schedule loaded by SCHED_LOAD that waits for the next matrix cycle (R497). -/
  loaded       : Option (List Byte)
  /-- The live schedule has started and is not suspended. -/
  running      : Bool
  cycle        : Option BasicCycle
  syncLost     : Bool
  modified     : Bool
  overflowSeen : Bool
  busOffSeen   : Bool
  txFrames     : Nat
  rxFrames     : Nat
  rxUnmatched  : Nat
  busOffs      : Nat
  txMissed     : Nat
  resyncs      : Nat
  deriving DecidableEq, Repr

/-- One message object (R493). `shadow` holds the words written to CAN_OBJ_DATA that are not yet taken (R496). -/
structure MsgObject where
  data    : List Byte
  shadow  : List Byte
  appData : List Byte
  txCount : Nat
  lastTx  : Nat
  missed  : Nat
  roll    : Nat
  deriving DecidableEq, Repr

/-- The CAN part of the module; `appTx` holds the frame registers of CAN1's TXB1 and TXB2 (Table 12.9). -/
structure Can where
  channels : Vector CanChannel 2
  objects  : Vector MsgObject 64
  appTx    : Vector (List Byte) 2
  deriving DecidableEq, Repr

/-- What the CAN part reads of the module. `summary` holds bytes 0 to 14 of DOOR_SUMMARY (Table 12.6). -/
structure CanEnv where
  cfg     : Cfg
  now     : Nat
  mono    : Nat
  summary : List Byte
  /-- The application engine is running (R583). -/
  appRuns : Bool

/-! ## Settings -/

/-- MATCH of a filter. -/
def Cfg.filterMatch (c : Cfg) (ch : CanIx) (f : Nat) : Nat := c.unsigned (key (0x5200 + 0x20 * ch.val + f) 0x01) 0
/-- MASK of a filter. -/
def Cfg.filterMask (c : Cfg) (ch : CanIx) (f : Nat) : Nat := c.unsigned (key (0x5200 + 0x20 * ch.val + f) 0x02) 0
/-- FILTER_CTRL of a filter. -/
def Cfg.filterCtrl (c : Cfg) (ch : CanIx) (f : Nat) : Nat := c.unsigned (key (0x5200 + 0x20 * ch.val + f) 0x03) 0
/-- SCHEDULE_IMAGE. -/
def Cfg.schedImage (c : Cfg) (ch : CanIx) : List Byte := le 784 (c.unsigned (key (0x5180 + ch.val) 0x01) 1)
/-- R494: the application engine owns the channel. -/
def Cfg.canOwned (c : Cfg) (ch : CanIx) : Bool := decide (ch.val = 1) && decide (c.canOwner ch = 1)

/-! ## Empty parts -/

/-- An empty transmit buffer. -/
def TxBuffer.empty : TxBuffer := { frames := [], session := none, object := none, waits := false }
/-- An empty queue. -/
def RxQueue.empty : RxQueue := { entries := [], overflows := 0, lastEvent := none }
/-- A filter that has matched nothing. -/
def FilterState.empty : FilterState := { lastRx := List.replicate 80 0, hits := 0 }
/-- A message object after power-up: DATA is zero (Table 12.5). -/
def MsgObject.empty : MsgObject :=
  { data := List.replicate 64 0, shadow := List.replicate 64 0, appData := List.replicate 64 0, txCount := 0, lastTx := 0
    missed := 0, roll := 0 }

/-- The channel with its domain off; counters stay (R500). -/
def CanChannel.unpowered (k : CanChannel) : CanChannel :=
  { k with active := false, integrating := false, busOff := false, recovering := false, txErr := 0, rxErr := 0, txb0 := TxBuffer.empty
           txb1 := TxBuffer.empty, txb2 := TxBuffer.empty, rxq0 := { k.rxq0 with entries := [], lastEvent := none }
           rxq1 := { k.rxq1 with entries := [], lastEvent := none }, loaded := none, running := false, cycle := none
           syncLost := false, modified := false }

/-- A channel as delivered. -/
def CanChannel.reset : CanChannel :=
  { active := false, integrating := false, busOff := false, recovering := false, txErr := 0, rxErr := 0, txb0 := TxBuffer.empty
    txb1 := TxBuffer.empty, txb2 := TxBuffer.empty, rxq0 := RxQueue.empty, rxq1 := RxQueue.empty
    filters := tab 32 (fun _ => FilterState.empty), live := le 784 1, loaded := none, running := false, cycle := none
    syncLost := false, modified := false, overflowSeen := false, busOffSeen := false, txFrames := 0, rxFrames := 0
    rxUnmatched := 0, busOffs := 0, txMissed := 0, resyncs := 0 }

/-- The CAN part as delivered. -/
def Can.reset : Can :=
  { channels := tab 2 (fun _ => CanChannel.reset), objects := tab 64 (fun _ => MsgObject.empty)
    appTx := tab 2 (fun _ => List.replicate 80 0) }

/-- Change one channel. -/
def Can.channel (c : Can) (ch : CanIx) (g : CanChannel → CanChannel) : Can :=
  { c with channels := c.channels.set ch (g c.channels[ch]) }

/-- Change one message object. -/
def Can.object (c : Can) (m : Fin 64) (g : MsgObject → MsgObject) : Can := { c with objects := c.objects.set m (g c.objects[m]) }

/-! ## Schedules (R487, Tables 12.3 and 12.4) -/

/-- SLOT_COUNT. -/
def schedSlots (b : List Byte) : Nat := fieldAt b 1 1
/-- CYCLE_COUNT. -/
def schedCycles (b : List Byte) : Nat := fieldAt b 2 1
/-- TIME_BASE. -/
def schedBase (b : List Byte) : Nat := fieldAt b 3 1
/-- CYCLE_LENGTH. -/
def schedLength (b : List Byte) : Nat := fieldAt b 4 4
/-- SCHED_GUARD. -/
def schedGuard (b : List Byte) : Nat := fieldAt b 8 2
/-- REF_OBJECT. -/
def schedRef (b : List Byte) : Nat := fieldAt b 10 1
/-- SLOT_START(s). -/
def slotStart (b : List Byte) (s : Nat) : Nat := fieldAt b (16 + 4 * s) 4
/-- Slot s ends at the next slot's start, the last at CYCLE_LENGTH. -/
def slotEnd (b : List Byte) (s : Nat) : Nat := if s + 1 < schedSlots b then slotStart b (s + 1) else schedLength b
/-- Cell (c, s). -/
def schedCell (b : List Byte) (c s : Nat) : Nat := fieldAt b (272 + 64 * c + s) 1
/-- KIND of a cell. -/
def cellKind (v : Nat) : Nat := v / 64
/-- OBJECT of a cell. -/
def cellObject (v : Nat) : Fin 64 := Fin.ofNat 64 v

/-- ⌈9.6 B⌉. -/
def stuffed (b : Nat) : Nat := (96 * b + 9) / 10

/-- R478: the duration of a frame in nanoseconds, at the channel's rates in kbit/s. -/
def frameDuration (c : Cfg) (ch : CanIx) (ext fd brs : Bool) (b : Nat) : Nat :=
  let n := if ext then 61 else 41
  let tn := if c.canNomRate ch = 0 then 0 else 1000000 / c.canNomRate ch
  let td := if c.canDataRate ch = 0 then 0 else 1000000 / c.canDataRate ch
  if fd && brs then n * tn + (stuffed b + 30) * td else if fd then (n + stuffed b + 30) * tn else (n + stuffed b + 20) * tn

/-- R471, R485: bit rate switching is used whenever DATA_RATE is above NOM_RATE. -/
def Cfg.switches (c : Cfg) (ch : CanIx) : Bool := decide (c.canNomRate ch < c.canDataRate ch)

/-- The duration of a message object's frame. -/
def objectDuration (c : Cfg) (ch : CanIx) (m : Fin 64) : Nat :=
  frameDuration c ch (bitOf (c.objId m) 31) (bitOf (c.objFormat m) 0) (bitOf (c.objFormat m) 1 && c.switches ch) (c.objLength m)

/-- R492: the header of a schedule lies within Table 12.3 and its slots ascend. -/
def schedHeaderOk (c : Cfg) (ch : CanIx) (b : List Byte) : Bool :=
  let n := schedSlots b
  let base := schedBase b
  decide (fieldAt b 0 1 = 1) && decide (base ≤ 3)
    && (if base = 0 then true
        else decide (1 ≤ n) && decide (n ≤ 64) && (schedCycles b == 1 || schedCycles b == 2 || schedCycles b == 4 || schedCycles b == 8)
          && decide (1000 ≤ schedLength b) && decide (schedLength b ≤ 1000000) && decide (schedGuard b ≤ 1000)
          && decide (slotStart b 0 = 0) && (List.range (n - 1)).all (fun s => decide (slotStart b s < slotStart b (s + 1)))
          && decide (slotStart b (n - 1) < schedLength b)
          && (List.range 64).all (fun s => decide (s < n) || decide (slotStart b s = 0))
          && (if base = 1 then decide (schedRef b = 0xFF) else decide (schedRef b < 64)) && decide (c.canEnable ch = 1))

/-- R492: one cell. -/
def schedCellOk (c : Cfg) (ch : CanIx) (b : List Byte) (cy s : Nat) : Bool :=
  let v := schedCell b cy s
  let base := schedBase b
  if schedCycles b ≤ cy ∨ schedSlots b ≤ s then decide (v = 0)
  else
    (match cellKind v with
      | 0 => decide (v % 64 = 0)
      | 1 => decide (c.objChannel (cellObject v) = ch.val)
          && decide (objectDuration c ch (cellObject v) + 1000 * schedGuard b ≤ 1000 * (slotEnd b s - slotStart b s))
      | 2 => decide (v % 64 = 0)
      | _ => false)
    && (if s = 0 ∧ base = 2 then decide (cellKind v = 0) else true)
    && (if s = 0 ∧ base = 3 then decide (v = 64 + schedRef b) else true)

/-- R492: a basic cycle has an arbitrating window long enough for one 64-byte segment of a session bound to the channel. -/
def schedWindowOk (c : Cfg) (ch : CanIx) (b : List Byte) (cy : Nat) : Bool :=
  sessions.all (fun i => if c.sessTransport i ≠ 2 + ch.val then true
    else (List.range (schedSlots b)).any (fun s => decide (cellKind (schedCell b cy s) = 2)
      && decide (frameDuration c ch (bitOf (c.sessSource i) 31) true (c.switches ch) 64 + 1000 * schedGuard b
        ≤ 1000 * (slotEnd b s - slotStart b s))))

/-- R492: the first slot and basic cycle at which a schedule breaks a rule; slot 0xFFFF for the header. -/
def schedRefusal (c : Cfg) (ch : CanIx) (b : List Byte) : Option (Nat × Nat) :=
  if !schedHeaderOk c ch b then some (0xFFFF, 0)
  else if schedBase b = 0 then none
  else
    let bad := (List.range 8).findSome? (fun cy =>
      (List.range 64).findSome? (fun s => if schedCellOk c ch b cy s then none else some (s, cy)))
    match bad with
    | some x => some x
    | none => ((List.range (schedCycles b)).find? (fun cy => !schedWindowOk c ch b cy)).map (fun cy => (0xFFFF, cy))

/-! ## Bus state, flags and events -/

/-- Error-passive: an error counter above 127 (ISO 11898-1, R473; PRESUMED). -/
def CanChannel.errorPassive (k : CanChannel) : Bool := k.active && !k.busOff && (decide (127 < k.txErr) || decide (127 < k.rxErr))

/-- Bus state of Table 12.10. -/
def CanChannel.busState (k : CanChannel) : Nat :=
  if !k.active then 0 else if k.busOff then 4 else if k.integrating then 1 else if k.errorPassive then 3 else 2

/-- CAN_FLAGS (Table 12.12). -/
def CanChannel.flagWord (k : CanChannel) (c : Cfg) (ch : CanIx) : Nat :=
  bitWord [k.active && !k.integrating && !k.busOff, k.integrating, k.errorPassive, k.busOff, k.running, k.syncLost, k.modified,
    c.canOwned ch, decide (16 ≤ k.rxq0.entries.length), decide (16 ≤ k.rxq1.entries.length), k.active && decide (c.canTerm ch = 1),
    k.overflowSeen, k.busOffSeen]

/-- R501: 0xEC01. -/
def canBusEvent (now : Nat) (ch : CanIx) (code v16 : Nat) (value : Int) : Nat × List Byte :=
  (0xEC01, le 8 now ++ le 1 ch.val ++ le 1 code ++ le 2 v16 ++ leInt 4 value)

/-- R501: 0xEC02. -/
def CanChannel.schedEvent (k : CanChannel) (now : Nat) (ch : CanIx) (code : Nat) : Nat × List Byte :=
  let n := match k.cycle with
    | some b => b.number
    | none => 0xFF
  (0xEC02, le 8 now ++ le 1 ch.val ++ le 1 code ++ le 2 n ++ le 4 k.resyncs)

/-- Slot in progress. -/
def CanChannel.slot (k : CanChannel) (e : CanEnv) : Option Nat :=
  match k.cycle with
  | none => none
  | some b =>
    let t := (if schedBase k.live = 1 then e.now else e.mono) - b.start
    ((List.range (schedSlots k.live)).filter (fun s => decide (slotStart k.live s ≤ t))).getLast?

/-- R498, Table 12.10. -/
def CanChannel.entry (k : CanChannel) (e : CanEnv) (ch : CanIx) : List Byte :=
  le 1 ch.val ++ le 1 k.busState ++ le 1 k.txErr ++ le 1 k.rxErr ++ le 4 (k.flagWord e.cfg ch)
    ++ le 1 (match k.cycle with | some b => b.number | none => 0xFF) ++ le 1 ((k.slot e).getD 0xFF) ++ le 2 0
    ++ le 4 k.txFrames ++ le 4 k.rxFrames ++ le 4 k.rxUnmatched ++ le 4 k.txMissed ++ le 2 k.busOffs
    ++ le 2 (satTo 16 (k.rxq0.overflows + k.rxq1.overflows))

/-- Table 12.9: a frame as its registers and objects show it. -/
def frameBytes (f : CanFrame) (time : Nat) : List Byte :=
  le 4 (f.id + if f.ext then 2 ^ 31 else 0)
    ++ le 4 (f.data.length + bitWord [false, false, false, false, false, false, false, false, f.fd, f.brs, f.esi])
    ++ le 8 time ++ f.data ++ List.replicate (64 - f.data.length) 0

/-- The event when the error-passive state changes (Table 12.13). -/
def errorChange (now : Nat) (ch : CanIx) (old new : CanChannel) : Events :=
  if old.errorPassive = new.errorPassive then []
  else [canBusEvent now ch (if new.errorPassive then 1 else 2) new.txErr new.rxErr]

/-! ## Reception (R469, R480 to R483) -/

/-- R481: a frame matches a filter. -/
def filterMatches (c : Cfg) (ch : CanIx) (f : Fin 32) (x : CanFrame) : Bool :=
  let m := c.filterMatch ch f.val
  let ctrl := c.filterCtrl ch f.val
  bitOf ctrl 0 && (x.ext == bitOf m 31)
    && decide (((x.id ^^^ (m % 2 ^ 29)) &&& (c.filterMask ch f.val % 2 ^ 29)) = 0) && !(bitOf ctrl 1 && !x.fd)

/-- The 32 filters. -/
def filterNumbers : List (Fin 32) := List.finRange 32

/-- R482: a frame into a queue, or lost with the queue full. -/
def RxQueue.take (q : RxQueue) (now : Nat) (x : RxEntry) : RxQueue × Bool × Bool :=
  if q.entries.length < 16 then ({ q with entries := q.entries ++ [x] }, false, false)
  else
    let quiet := match q.lastEvent with
      | some t => decide (now < t + 1000000)
      | none => false
    let q := { q with overflows := satInc 32 q.overflows }
    if quiet then (q, true, false) else ({ q with lastEvent := some now }, true, true)

/-- What a frame brings to the rest of the module. -/
inductive CanDelivery where
  | nothing
  /-- A segment for a session's reassembly (R480 step 1). -/
  | segment (i : SessIx) (f : CanFrame)
  deriving DecidableEq, Repr

/-- The session whose host-to-module identifier a frame carries (R484). -/
def sessionOf (c : Cfg) (ch : CanIx) (x : CanFrame) : Option SessIx :=
  sessions.find? (fun i => decide (c.sessTransport i = 2 + ch.val) && decide (c.sessSource i % 2 ^ 29 = x.id)
    && (bitOf (c.sessSource i) 31 == x.ext))

/-- R488, R490: a basic cycle begins with a number. -/
def CanChannel.beginCycle (k : CanChannel) (e : CanEnv) (ch : CanIx) (number start : Nat) : CanChannel × Events :=
  let first := !k.running
  let back := k.syncLost
  let k := { k with running := true, syncLost := false, cycle := some { number := number, start := start } }
  (k, (if first then [k.schedEvent e.now ch 1] else []) ++ (if back then [k.schedEvent e.now ch 3] else []))

/-- A frame is the reference of a schedule with TIME_BASE 2 (R480 step 2). -/
def CanChannel.isReference (k : CanChannel) (c : Cfg) (x : CanFrame) : Bool :=
  decide (schedBase k.live = 2) && (let id := c.objId (Fin.ofNat 64 (schedRef k.live))
    decide (id % 2 ^ 29 = x.id) && (bitOf id 31 == x.ext))

/-- R480 step 3: the filter bank. -/
def CanChannel.filtered (k : CanChannel) (e : CanEnv) (ch : CanIx) (x : CanFrame) : CanChannel × Events :=
  match filterNumbers.find? (fun f => filterMatches e.cfg ch f x) with
  | none => ({ k with rxUnmatched := satInc 32 k.rxUnmatched }, [])
  | some f =>
    let k := { k with filters := k.filters.set f { k.filters[f] with hits := satInc 32 k.filters[f].hits } }
    let x : RxEntry := { frame := x, time := e.now, filter := f }
    if bitOf (e.cfg.filterCtrl ch f.val) 2 then
      let (q, lost, ev) := k.rxq1.take e.mono x
      ({ k with rxq1 := q, overflowSeen := k.overflowSeen || lost }, if ev then [canBusEvent e.now ch 5 1 q.overflows] else [])
    else
      let (q, lost, ev) := k.rxq0.take e.mono x
      ({ k with rxq0 := q, overflowSeen := k.overflowSeen || lost }, if ev then [canBusEvent e.now ch 5 0 q.overflows] else [])

/-- R480: a received frame. A channel that is off, integrating or bus-off receives nothing. -/
def CanChannel.receive (k : CanChannel) (e : CanEnv) (ch : CanIx) (x : CanFrame) : CanChannel × Events × CanDelivery :=
  if !k.active || k.integrating || k.busOff then (k, [], .nothing)
  else
    let old := k
    let k := { k with rxFrames := satInc 32 k.rxFrames, rxErr := if 127 < k.rxErr then 127 else k.rxErr - 1 }
    let ev0 := errorChange e.now ch old k
    if x.remote then ({ k with rxUnmatched := satInc 32 k.rxUnmatched }, ev0, .nothing)
    else match sessionOf e.cfg ch x with
      | some i => (k, ev0, .segment i x)
      | none =>
        let b := if k.isReference e.cfg x then
            k.beginCycle e ch ((fieldAt x.data 0 1 % 8) % max 1 (schedCycles k.live)) e.mono
          else (k, [])
        let f := b.1.filtered e ch x
        (f.1, ev0 ++ b.2 ++ f.2, .nothing)

/-- R483: the comms engine empties both queues, queue 0 first, and mirrors the frames of filters with MIRROR. -/
def CanChannel.service (k : CanChannel) (c : Cfg) (ch : CanIx) : CanChannel :=
  if c.canOwned ch then k
  else
    let all := k.rxq0.entries ++ k.rxq1.entries
    let fs := all.foldl (fun fs x => if bitOf (c.filterCtrl ch x.filter.val) 3
      then fs.set x.filter { fs[x.filter] with lastRx := frameBytes x.frame x.time } else fs) k.filters
    { k with filters := fs, rxq0 := { k.rxq0 with entries := [] }, rxq1 := { k.rxq1 with entries := [] } }

/-! ## Bus-off, recovery and integration (R473, R474) -/

/-- R473: the controller enters bus-off. -/
def CanChannel.enterBusOff (k : CanChannel) (e : CanEnv) (ch : CanIx) : CanChannel × Events :=
  if !k.active || k.busOff then (k, [])
  else
    let k := { k with busOff := true, integrating := false, busOffs := satInc 16 k.busOffs, busOffSeen := true
                      txErr := 255, recovering := decide (e.cfg.canBusoffAuto ch = 1), txb0 := TxBuffer.empty
                      txb1 := TxBuffer.empty, txb2 := TxBuffer.empty, running := false, cycle := none, syncLost := false }
    (k, [canBusEvent e.now ch 3 k.txErr k.rxErr])

/-- R473: recovery is complete; the schedule resumes at the next basic cycle. -/
def CanChannel.recovered (k : CanChannel) (e : CanEnv) (ch : CanIx) : CanChannel × Events :=
  if k.active && k.busOff && k.recovering then
    let k := { k with busOff := false, recovering := false, txErr := 0, rxErr := 0 }
    (k, [canBusEvent e.now ch 4 k.txErr k.rxErr])
  else (k, [])

/-- R474: the domain comes on; an enabled controller integrates. The schedule is that of the image (R497). -/
def CanChannel.powered (k : CanChannel) (c : Cfg) (ch : CanIx) : CanChannel :=
  let k := k.unpowered
  if c.canEnable ch = 1 then { k with active := true, integrating := true, live := c.schedImage ch }
  else { k with live := c.schedImage ch }

/-- R474: the controller takes part on the bus. -/
def CanChannel.integrated (k : CanChannel) (e : CanEnv) (ch : CanIx) : CanChannel × Events :=
  if k.active && k.integrating then ({ k with integrating := false }, [canBusEvent e.now ch 2 k.txErr k.rxErr])
  else (k, [])

/-! ## The schedule (R488 to R491, R497) -/

/-- The number of the basic cycle that begins next. -/
def CanChannel.nextNumber (k : CanChannel) (now : Nat) : Nat :=
  let n := max 1 (schedCycles k.live)
  if schedBase k.live = 1 then (now / max 1 (schedLength k.live)) % n
  else match k.cycle with
    | some b => (b.number + 1) % n
    | none => 0

/-- R488: a basic cycle begins under TIME_BASE 1 or 3; one of TIME_BASE 2 begins with its reference frame only. -/
def CanChannel.cycleStart (k : CanChannel) (e : CanEnv) (ch : CanIx) : CanChannel × Events :=
  if !k.active || k.integrating || k.busOff then (k, [])
  else if schedBase k.live = 1 then
    k.beginCycle e ch (k.nextNumber e.now) (e.now / max 1 (schedLength k.live) * max 1 (schedLength k.live))
  else if schedBase k.live = 3 then k.beginCycle e ch (k.nextNumber e.now) e.mono
  else (k, [])

/-- R488: the reference object of a schedule with TIME_BASE 3 carries the basic cycle number. -/
def objectData (o : MsgObject) (c : Cfg) (m : Fin 64) (summary : List Byte) (number : Nat) : List Byte :=
  let n := c.objLength m
  let d := match c.dataSource m with
    | 1 => summary ++ le 1 o.roll
    | 2 => le 1 (number % 8) ++ o.data.drop 1
    | 3 => o.appData
    | _ => o.data
  (d ++ List.replicate 64 0).take n

/-- The frame of a message object. -/
def objectFrame (o : MsgObject) (e : CanEnv) (ch : CanIx) (m : Fin 64) (number : Nat) : CanFrame :=
  { id := e.cfg.objId m % 2 ^ 29, ext := bitOf (e.cfg.objId m) 31, fd := bitOf (e.cfg.objFormat m) 0
    brs := bitOf (e.cfg.objFormat m) 1 && e.cfg.switches ch, esi := false, remote := false
    data := objectData o e.cfg m e.summary number }

/-- The number of the basic cycle that a slot loaded now belongs to: slot 0 is loaded 20 µs before its cycle begins (R491). -/
def CanChannel.loadNumber (k : CanChannel) (e : CanEnv) (s : Nat) : Nat :=
  if s = 0 then k.nextNumber (e.now + 20) else match k.cycle with
    | some b => b.number
    | none => 0

/-- R491: TXB0 is loaded with the object of a transmit cell. While sync is lost no transmit cell is sent (R490), and those of
APPLICATION objects are free while the application does not run (R583). -/
def Can.loadSlot (c : Can) (e : CanEnv) (ch : CanIx) (s : Nat) : Can :=
  let k := c.channels[ch]
  let inCycle := k.cycle.isSome || decide (s = 0)
  if !k.active || k.integrating || k.busOff || k.syncLost || schedBase k.live == 0 || decide (schedSlots k.live ≤ s) || !inCycle then c
  else
    let n := k.loadNumber e s
    let v := schedCell k.live n s
    let m := cellObject v
    if cellKind v ≠ 1 ∨ (e.cfg.dataSource m = 3 ∧ !e.appRuns) then c
    else c.channel ch (fun k => { k with txb0 := { frames := [objectFrame c.objects[m] e ch m n], session := none
                                                   object := some m, waits := false } })

/-- R490: no reference for two cycle lengths. -/
def CanChannel.loseSync (k : CanChannel) (e : CanEnv) (ch : CanIx) : CanChannel × Events :=
  if k.active && !k.integrating && !k.busOff && schedBase k.live == 2 && !k.syncLost then
    let k' := { k with syncLost := true, txb0 := TxBuffer.empty }
    ({ k' with cycle := none }, [k'.schedEvent e.now ch 2])
  else (k, [])

/-- R497: the loaded schedule replaces the live one. -/
def CanChannel.swap (k : CanChannel) (e : CanEnv) (ch : CanIx) : CanChannel × Events :=
  match k.loaded with
  | none => (k, [])
  | some b =>
    let k := { k with live := b, loaded := none, modified := true, running := k.running && schedBase b != 0
                      cycle := none, syncLost := false }
    (k, [k.schedEvent e.now ch 5])

/-- R489: a step of module time ends the basic cycle in progress under TIME_BASE 1. -/
def CanChannel.timeStep (k : CanChannel) (e : CanEnv) (ch : CanIx) : CanChannel × Events :=
  if schedBase k.live = 1 ∧ k.running then
    let k := { k with cycle := none, resyncs := satInc 16 k.resyncs }
    (k, [k.schedEvent e.now ch 4])
  else (k, [])

/-- R497: a commit restores the image's schedule. -/
def CanChannel.restore (k : CanChannel) (c : Cfg) (ch : CanIx) : CanChannel :=
  { k with live := c.schedImage ch, loaded := none, modified := false, running := false, cycle := none, syncLost := false }

/-! ## Transmission (R475 to R479) -/

/-- A buffer of a channel. -/
def CanChannel.buffer (k : CanChannel) (b : TxBuf) : TxBuffer :=
  match b with | .txb0 => k.txb0 | .txb1 => k.txb1 | .txb2 => k.txb2

/-- A channel with one buffer set. -/
def CanChannel.setBuffer (k : CanChannel) (b : TxBuf) (x : TxBuffer) : CanChannel :=
  match b with | .txb0 => { k with txb0 := x } | .txb1 => { k with txb1 := x } | .txb2 => { k with txb2 := x }

/-- A free buffer for a packet of the FCP transport (R475, R479). -/
def CanChannel.free (k : CanChannel) (c : Cfg) (ch : CanIx) : Option TxBuf :=
  if !k.active || k.integrating || k.busOff || c.canOwned ch then none
  else if k.txb1.frames.isEmpty then some .txb1
  else if k.txb2.frames.isEmpty then some .txb2
  else none

/-- R477: the latest start of a buffer's frame passes. Without a schedule, or while sync is lost, there is none. -/
def Can.latestStart (c : Can) (ch : CanIx) (b : TxBuf) : Can :=
  let k := c.channels[ch]
  let x := k.buffer b
  if x.frames.isEmpty || schedBase k.live == 0 || k.syncLost || !k.running then c
  else match b with
    | .txb0 =>
      let c := c.channel ch (fun k => { k with txb0 := TxBuffer.empty, txMissed := satInc 32 k.txMissed })
      match x.object with
      | some m => c.object m (fun o => { o with missed := satInc 32 o.missed })
      | none => c
    | .txb1 => c.channel ch (fun k => { k with txb1 := { x with waits := true } })
    | .txb2 => c.channel ch (fun k => { k with txb2 := { x with waits := true } })

/-- The bits of a frame up to its control field, as arbitration compares them: dominant bits are 0, and the lower wins. -/
def frameArbitration (f : CanFrame) : Nat :=
  if f.ext then f.id / 2 ^ 18 % 2 ^ 11 * 2 ^ 21 + 2 ^ 20 + 2 ^ 19 + f.id % 2 ^ 18 * 2 + f.remote.toNat
  else f.id % 2 ^ 11 * 2 ^ 21 + f.remote.toNat * 2 ^ 20

/-- The arbitration bits of a buffer's frame. -/
def CanChannel.priority (k : CanChannel) (b : TxBuf) : Nat :=
  match (k.buffer b).frames with
  | [] => 0
  | f :: _ => frameArbitration f

/-- The buffers of a mask, bit n for TXBn, that hold a frame. -/
def CanChannel.loadedOf (k : CanChannel) (ready : BitVec 3) : List TxBuf :=
  ((if ready.getLsbD 0 then [TxBuf.txb0] else []) ++ (if ready.getLsbD 1 then [TxBuf.txb1] else [])
    ++ (if ready.getLsbD 2 then [TxBuf.txb2] else [])).filter (fun b => !(k.buffer b).frames.isEmpty)

/-- R476: of the buffers allowed to start a frame at the same moment, the one that goes first: under TX_ORDER 1 the
lowest-numbered, else the one whose frame would win arbitration. -/
def CanChannel.goesFirst (k : CanChannel) (c : Cfg) (ch : CanIx) (ready : BitVec 3) : Option TxBuf :=
  match k.loadedOf ready with
  | [] => none
  | b :: bs => some (if c.canTxOrder ch = 1 then b else bs.foldl (fun a b => if k.priority b < k.priority a then b else a) b)

/-- One attempt to send a buffer's frame ends (R477). The error counter follows ISO 11898-1 (PRESUMED): 8 more for an error, one
less for a success. -/
def Can.transmitted (c : Can) (e : CanEnv) (ch : CanIx) (b : TxBuf) (r : TxResult) : Can × Events :=
  let k := c.channels[ch]
  let x := k.buffer b
  match x.frames with
  | [] => (c, [])
  | _ :: rest =>
    match r with
    | .lostArbitration => (c, [])
    | .error =>
      let k' := { k with txErr := min 255 (k.txErr + 8) }
      ({ c with channels := c.channels.set ch k' }, errorChange e.now ch k k')
    | .complete =>
      let y : TxBuffer := if rest.isEmpty then TxBuffer.empty else { x with frames := rest, waits := false }
      let k' := { (k.setBuffer b y) with txFrames := satInc 32 k.txFrames, txErr := k.txErr - 1 }
      let c := { c with channels := c.channels.set ch k' }
      let c := match x.object with
        | some m => c.object m (fun o => { o with txCount := satInc 32 o.txCount, lastTx := e.now, roll := (o.roll + 1) % 256 })
        | none => c
      (c, errorChange e.now ch k k')

/-! ## CAN1 and the application engine (R494 to R496) -/

/-- A frame from the registers of Table 12.9. -/
def frameOfBytes (b : List Byte) : CanFrame :=
  let w := fieldAt b 4 4
  { id := fieldAt b 0 4 % 2 ^ 29, ext := bitOf (fieldAt b 0 4) 31, fd := bitOf w 8, brs := bitOf w 9, esi := false, remote := false
    data := (b.drop 16).take (min 64 (w % 128)) }

/-- CAN_TXREQ: writing 1 requests the buffer's frame; a pending one is not changed. -/
def Can.request (c : Can) (bits : Nat) : Can :=
  let one (c : Can) (b : TxBuf) (i : Fin 2) : Can :=
    if (c.channels[(1 : CanIx)].buffer b).frames.isEmpty then
      c.channel 1 (fun k => k.setBuffer b { frames := [frameOfBytes c.appTx[i]], session := none, object := none, waits := false })
    else c
  let c := if bitOf bits 1 then one c .txb1 0 else c
  if bitOf bits 2 then one c .txb2 1 else c

/-- CAN_TXABORT: the pending frame is aborted. -/
def Can.abort (c : Can) (bits : Nat) : Can :=
  let c := if bitOf bits 1 then c.channel 1 (fun k => k.setBuffer .txb1 TxBuffer.empty) else c
  if bitOf bits 2 then c.channel 1 (fun k => k.setBuffer .txb2 TxBuffer.empty) else c

/-- A pop removes the oldest frame of a queue; one of an empty queue is ignored (R496). -/
def CanChannel.pop (k : CanChannel) (second : Bool) : CanChannel :=
  if second then { k with rxq1 := { k.rxq1 with entries := k.rxq1.entries.drop 1 } }
  else { k with rxq0 := { k.rxq0 with entries := k.rxq0.entries.drop 1 } }

/-- Bytes of a list replaced from an offset. -/
def patch (b : List Byte) (off : Nat) (v : List Byte) : List Byte := b.take off ++ v ++ b.drop (off + v.length)

/-- A word of CAN_OBJ_DATA is written to the shadow. -/
def MsgObject.word (o : MsgObject) (i : Nat) (v : BitVec 32) : MsgObject := { o with shadow := patch o.shadow (4 * i) (le 4 v.toNat) }

/-- R496: the last word, at offset 0x3C, takes the data as a whole. -/
def MsgObject.takeData (o : MsgObject) (v : BitVec 32) : MsgObject := let o := o.word 15 v; { o with appData := o.shadow }

/-- The application stops: the pending requests of an owned CAN1 are aborted (R583). -/
def Can.appStops (c : Can) (cfg : Cfg) : Can := if cfg.canOwned 1 then c.abort 6 else c

/-- The domain goes off. -/
def Can.unpowered (c : Can) : Can :=
  { c with channels := tab 2 (fun ch => c.channels[ch].unpowered), appTx := tab 2 (fun _ => List.replicate 80 0) }

/-- The module loses its supply or is reset: DATA is zero after power-up (Table 12.5). -/
def Can.lost (c : Can) : Can :=
  { c.unpowered with objects := tab 64 (fun m => { MsgObject.empty with
      txCount := c.objects[m].txCount, lastTx := c.objects[m].lastTx, missed := c.objects[m].missed }) }

end Sys2Proof.Machine
end

