-- ==== Sys2Proof/Machine/Angles.lean ====
section
/-!
DEFINITION. Sine, cosine and the angle of a pair of coordinates, in integers. Angles are in 1/160°, so that 360° is
57,600, one unit of ELEC_INDEX is 225 and one of HALL_OFFSET 16; sines are × 1,000,000 (note 114).
-/

namespace Sys2Proof.Machine

/-- The sine, × 1,000,000, of an angle of the first quadrant, by its power series in 10⁻⁹ rad. -/
def sinFirst (a : Nat) : Int :=
  let x : Int := a * 3141592654 / 28800
  let term (t : Int) (n : Int) : Int := -(t * x / 1000000000 * x / 1000000000 / (n * (n + 1)))
  let t1 := x
  let t3 := term t1 2
  let t5 := term t3 4
  let t7 := term t5 6
  let t9 := term t7 8
  let t11 := term t9 10
  roundDiv (t1 + t3 + t5 + t7 + t9 + t11) 1000

/-- The sine, × 1,000,000. -/
def sinMicro (angle : Int) : Int :=
  let a := (angle % 57600).toNat
  if a < 14400 then sinFirst a
  else if a < 28800 then sinFirst (28800 - a)
  else if a < 43200 then -sinFirst (a - 28800)
  else -sinFirst (57600 - a)

/-- The cosine, × 1,000,000. -/
def cosMicro (angle : Int) : Int := sinMicro (angle + 14400)

/-- The largest angle of the first quadrant, in 0.1° and built bit by bit, whose tangent is at most y / x. -/
def angleBits (x y : Nat) : Nat → Nat → Nat
  | 0, r => r
  | k + 1, r =>
    let r' := r + 2 ^ k
    if r' ≤ 900 ∧ (x : Int) * sinMicro (16 * r') ≤ y * cosMicro (16 * r') then angleBits x y k r' else angleBits x y k r

/-- The angle of the point (x, y), in 0.1° from 0 to 3,599. -/
def angleOf (x y : Int) : Nat :=
  let a := angleBits x.natAbs y.natAbs 10 0
  (if x < 0 then (if y < 0 then 1800 + a else 1800 - a) else if y < 0 then 3600 - a else a) % 3600

/-- An angle in 0.1° taken to -1,799 to 1,800. -/
def wrapAngle (a : Int) : Int := let r := a % 3600; if 1800 < r then r - 3600 else r

end Sys2Proof.Machine
end

