-- ==== Sys2Proof/Machine/Motion.lean ====
section
/-!
DEFINITION. The motion generator (chapter 3): interpolation, replanning, joining a context, and the checks of R118.
Positions are integers in the drive's unit and times are µs; every evaluation is rounded to the nearest unit (R117).
Ramp durations are rounded to whole µs, and the end point of a path is taken exactly (DESIGN CHOICE, note 12).
-/

namespace Sys2Proof.Machine

/-- The limits one path is planned under (R119, scaled under R162). -/
structure Limits where
  vCap    : Nat
  a       : Nat
  d       : Nat
  j       : Nat
  dMax    : Nat
  softMin : Option Int
  softMax : Option Int
  keCaps  : Bool
  deriving DecidableEq, Repr

/-- State of motion t µs into a constant-jerk phase. -/
def rampAt (k : Kin) (jerk : Int) (t : Nat) : Kin :=
  { acc := k.acc + roundDiv (jerk * t) 1000000
    vel := k.vel + roundDiv (k.acc * t * 2000000 + jerk * t * t) 2000000000000
    pos := k.pos + roundDiv (k.vel * t * 6000000000000 + k.acc * t * t * 3000000 + jerk * t * t * t)
             6000000000000000000 }

/-- State of motion at the end of a list of phases. -/
def rampsEnd (k : Kin) (rs : List Ramp) : Kin := rs.foldl (fun q r => rampAt q r.jerk r.dur) k

/-- R117: the Hermite curve of a segment, e µs into it. -/
def hermite (p0 v0 : Int) (g : Seg) (e : Nat) : Kin :=
  let t : Int := g.dur
  let e : Int := e
  let p1 := g.endPos
  let v1 := g.endVel
  { pos := roundDiv ((2*e*e*e - 3*e*e*t + t*t*t) * p0 * 1000000 + (e*e*e - 2*e*e*t + e*t*t) * t * v0
        + (3*e*e*t - 2*e*e*e) * p1 * 1000000 + (e*e*e - e*e*t) * t * v1) (t*t*t * 1000000)
    vel := roundDiv ((6*e*e - 6*e*t) * (p0 - p1) * 1000000
        + ((3*e*e - 4*e*t + t*t) * v0 + (3*e*e - 2*e*t) * v1) * t) (t*t*t)
    acc := roundDiv (((12*e - 6*t) * (p0 - p1) * 1000000
        + ((6*e - 4*t) * v0 + (6*e - 2*t) * v1) * t) * 1000000) (t*t*t) }

/-- A ramp of acceleration from one value to another at the jerk limit (R661). -/
def rampTo (a0 a1 : Int) (j : Nat) : Ramp :=
  { dur := ((a1 - a0).natAbs * 1000000 + j / 2) / max j 1, jerk := sgn (a1 - a0) * j }

/-- R661: vel_change, from velocity v0 and acceleration a0 to velocity v1 with acceleration 0. -/
def velChange (v0 a0 v1 : Int) (a j : Nat) : List Ramp :=
  let vz := v0 + roundDiv (a0 * a0.natAbs) (2 * (max j 1))
  if vz = v1 then [rampTo a0 0 j]
  else
    let d := sgn (v1 - vz)
    let ap := d * isqrt ((j * d * (v1 - v0)) + a0 * a0 / 2).toNat
    if ap.natAbs ≤ a then [rampTo a0 ap j, rampTo ap 0 j]
    else
      let top := d * a
      let up := sgn (top - a0)
      let dv1 := if up = 0 then 0 else roundDiv (top * top - a0 * a0) (2 * (max j 1)) * up
      let dv2 := roundDiv (d * (a * a)) (2 * (max j 1))
      let holdFor := roundDiv ((v1 - v0 - dv1 - dv2) * d * 1000000) (max a 1)
      [rampTo a0 top j, { dur := holdFor.toNat, jerk := 0 }, rampTo top 0 j]

/-- A change of velocity under the limits of R119: through zero in two changes, D_REPLAN while speed falls and
A_REPLAN while it rises (R661). -/
def speedChange (v0 a0 v1 : Int) (lim : Limits) : List Ramp :=
  if v0 * v1 < 0 then velChange v0 a0 0 lim.d lim.j ++ velChange 0 0 v1 lim.a lim.j
  else if v1.natAbs < v0.natAbs then velChange v0 a0 v1 lim.d lim.j
  else velChange v0 a0 v1 lim.a lim.j

/-- Distance covered by a list of phases from a velocity and acceleration. -/
def rampsDistance (v a : Int) (rs : List Ramp) : Int := (rampsEnd { pos := 0, vel := v, acc := a } rs).pos

/-- R120, R661: the distance to rest. -/
def stopDistance (v a : Int) (d j : Nat) : Nat := (rampsDistance v a (velChange v a 0 d j)).natAbs

/-- The phases of a move along +1 with one peak velocity. -/
def peakPhases (v a e : Int) (peak : Nat) (lim : Limits) : List Ramp × List Ramp :=
  (speedChange v a peak lim, speedChange peak 0 e lim)

/-- The largest peak velocity, bit by bit, whose move fits in the distance. -/
def peakFrom (v a e : Int) (dist : Nat) (lim : Limits) : Nat → Nat → Nat
  | 0, r => r
  | k + 1, r =>
    let r' := r + 2 ^ k
    let ph := peakPhases v a e r' lim
    if r' ≤ lim.vCap ∧ rampsDistance v a (ph.1 ++ ph.2) ≤ dist then peakFrom v a e dist lim k r'
    else peakFrom v a e dist lim k r

/-- The move phases of R120 from a state to a target with an end velocity, the state not moving away from it. -/
def movePhases (k : Kin) (target vEnd : Int) (lim : Limits) : List Ramp :=
  let dir := if target < k.pos then (-1 : Int) else 1
  let dist := (target - k.pos).natAbs
  let v := k.vel * dir
  let a := k.acc * dir
  let e := vEnd * dir
  let peak := peakFrom v a e dist lim 21 0
  let ph := peakPhases v a e peak lim
  let rest := (dist : Int) - rampsDistance v a (ph.1 ++ ph.2)
  let cruise : Ramp := { dur := if peak = 0 then 0 else (rest * 1000000 / peak).toNat, jerk := 0 }
  (ph.1 ++ cruise :: ph.2).map (fun r => { r with jerk := r.jerk * dir })

/-- The smallest deceleration, at or above D_REPLAN and up to D_MAX, that stops within a distance. -/
def raisedDecel (v a : Int) (dist : Nat) (lim : Limits) : Nat → Nat → Nat
  | 0, r => r + 1
  | k + 1, r =>
    let r' := r + 2 ^ k
    if stopDistance v a (lim.d + r') lim.j ≤ dist then raisedDecel v a dist lim k r
    else raisedDecel v a dist lim k r'

/-- Nothing set. -/
def Marks.clear : Marks := { overshoot := false, decelRaised := false, limitClip := false }

/-- A replanned path: its phases and what planning sets. -/
structure Replan where
  ramps : List Ramp
  marks : Marks
  deriving DecidableEq, Repr

/-- The deceleration a stop uses and whether it was raised or the reference clipped (R120). -/
def stopDecel (k : Kin) (lim : Limits) : Nat × Bool × Bool :=
  let sd := stopDistance k.vel k.acc lim.d lim.j
  let edge := if k.vel < 0 then lim.softMin else lim.softMax
  match edge with
  | none => (lim.d, false, false)
  | some b =>
    let room := ((b - k.pos) * sgn k.vel).toNat
    if sd ≤ room ∨ k.vel = 0 then (lim.d, false, false)
    else
      let d' := lim.d + raisedDecel k.vel k.acc room lim 23 0
      if d' ≤ lim.dMax then (d', true, false) else (lim.dMax, false, true)

/-- R120: replan from a state of motion to a target with an end velocity. -/
def replan (k : Kin) (target vEnd : Int) (lim : Limits) : Replan :=
  let dir := sgn (target - k.pos)
  let sd := stopDistance k.vel k.acc lim.d lim.j
  let margin := if vEnd * dir > 0 then stopDistance vEnd 0 lim.d lim.j else 0
  if k.vel * dir < 0 ∨ (target - k.pos).natAbs + margin < sd then
    let (d, raised, clip) := stopDecel k lim
    let stopRamps := velChange k.vel k.acc 0 d lim.j
    let pStop := (rampsEnd k stopRamps).pos
    { ramps := stopRamps ++ movePhases { pos := pStop, vel := 0, acc := 0 } target vEnd lim
      marks := { overshoot := decide (dir = sgn k.vel ∧ dir ≠ 0 ∧ sgn (target - pStop) = -(sgn k.vel))
                 decelRaised := raised, limitClip := clip } }
  else { ramps := movePhases k target vEnd lim, marks := Marks.clear }

/-- R119: v_ke in µm/s; none for a step drive. -/
def vKe (c : Cfg) (r : DriveIx) : Option Nat :=
  if isStep r then none else some (isqrt (2 * c.keMax r * 1000000000000 / max (c.movingMass r) 1))

/-- R119 and R162: the limits of a drive for a speed limit (0 uses V_REPLAN) and a scale k × 1,000. The step
drive's homing roles are not bounded by SOFT_MIN (R660). -/
def limitsFor (c : Cfg) (r : DriveIx) (speed scale : Nat) (noSoftMin : Bool) : Limits :=
  let base := min (c.vMax r) (if speed = 0 then c.vReplan r else speed)
  let (cap, ke) := match vKe c r with
    | none => (base, false)
    | some v => if v < base then (v, true) else (base, false)
  { vCap := cap * scale / 1000
    a := c.aReplan r * scale * scale / 1000000
    d := c.dReplan r * scale * scale / 1000000
    j := c.jReplan r * scale * scale * scale / 1000000000
    dMax := c.dMax r
    softMin := if noSoftMin then none else some (c.softMin r)
    softMax := some (c.softMax r)
    keCaps := ke }

/-- R162: the speed scale × 1,000 for a DC-link voltage in mV. -/
def speedScale (dcLink : Int) : Nat := if dcLink < 77000 then max 650 (dcLink.toNat / 77) else 1000

/-! ## Contexts -/

/-- One segment entry of a context (Table 3.6). -/
def Seg.parse (bs : List Byte) : Seg :=
  let f := fieldAt bs 12 2
  { dur := fieldAt bs 0 4, endPos := fieldIntAt bs 4 4, endVel := fieldIntAt bs 8 4
    join := bitOf f 0, lowForce := bitOf f 1, eventAtEnd := bitOf f 2 }

/-- The segments of a context, count of them from an offset. -/
def Seg.parseMany (bs : List Byte) : Nat → List Seg
  | 0 => []
  | n + 1 => Seg.parse (bs.take 16) :: Seg.parseMany (bs.drop 16) n

/-- A 528-byte context (Tables 3.4 to 3.7); none for an unused one. -/
def Context.parse (bs : List Byte) : Option Context :=
  if fieldAt bs 0 1 = 0 then none
  else
    let f := fieldAt bs 2 2
    some { driveClass := fieldAt bs 0 1, relative := bitOf f 0, replanOk := bitOf f 1, endHold := bitOf f 2
           startMin := fieldIntAt bs 4 4, startMax := fieldIntAt bs 8 4
           segs := Seg.parseMany (bs.drop 16) (fieldAt bs 1 1) }

/-- All bytes zero. -/
def allZero (bs : List Byte) : Bool := bs.all (· == 0)

/-- Whether the entries after SEG_COUNT are all zero (R115). -/
def Context.tailZero (bs : List Byte) : Bool := allZero ((bs.drop (16 + 16 * fieldAt bs 1 1)).take 528)

/-- The first segment, from 1, whose entry breaks Table 3.6 or whose last END_VELOCITY is not 0 (R115, R116). -/
def badSegment : Nat → List Seg → Option Nat
  | _, [] => none
  | n, g :: gs =>
    if g.dur < 500 ∨ 60000000 < g.dur ∨ (gs = [] ∧ g.endVel ≠ 0) then some n else badSegment (n + 1) gs

/-- Format of a context (R114 to R116, R660): none when it is good, else the offending segment or 0 for the header.
`cls` is the class its assigned drive needs, where it is assigned. -/
def contextFormat (bs : List Byte) (cls : Option Nat) : Option Nat :=
  let dc := fieldAt bs 0 1
  let n := fieldAt bs 1 1
  if bs.length ≠ 528 then some 0
  else if dc = 0 then (if allZero bs ∧ cls = none then none else some 0)
  else if 2 < dc ∨ n = 0 ∨ 32 < n then some 0
  else if cls.any (· != dc) then some 0
  else match Context.parse bs with
    | none => some 0
    | some c =>
      if c.startMax < c.startMin then some 0
      else if c.relative ∧ (c.startMin ≠ 0 ∨ c.startMax ≠ 0) then some 0
      else match badSegment 1 c.segs with
        | some k => some k
        | none => if Context.tailZero bs then none else some (min 32 (n + 1))

/-- What a segment breaks: nothing, a limit or the energy limit (Table 3.9). -/
inductive SegCheck where | good | limit | energy
  deriving DecidableEq, Repr

/-- ½ · MOVING_MASS · (n/m)² ≤ KE_MAX with the mass in g, the velocity n/m in µm/s and the energy in mJ. -/
def energyOk (c : Cfg) (r : DriveIx) (n : Int) (m : Nat) : Bool :=
  isStep r || decide (c.movingMass r * (n.natAbs * n.natAbs) ≤ 2 * c.keMax r * 1000000000000 * (m * m))

/-- Position within the soft limits; a limit that does not bind is absent (R660). -/
def inSoft (low high : Option Int) (p : Int) : Bool :=
  high.all (fun h => decide (p ≤ h)) && low.all (fun l => decide (l ≤ p))

/-- Positions where velocity is zero inside a segment, by the roots of A s² + B s + C in whole µs. -/
def turningPositions (p0 v0 : Int) (g : Seg) : List Int :=
  let t : Int := g.dur
  let ca := 6 * (p0 - g.endPos) * 1000000 + 3 * (v0 + g.endVel) * t
  let cb := -(6 * (p0 - g.endPos) * 1000000) - (4 * v0 + 2 * g.endVel) * t
  let cc := v0 * t
  let disc := cb * cb - 4 * ca * cc
  let roots : List Int :=
    if ca = 0 then (if cb = 0 then [] else [roundDiv (-(cc * t) * sgn cb) cb.natAbs])
    else if disc < 0 then []
    else
      let q : Int := isqrt disc.toNat
      [roundDiv ((-cb + q) * t * sgn ca) (2 * ca.natAbs), roundDiv ((-cb - q) * t * sgn ca) (2 * ca.natAbs)]
  (roots.filter (fun e => decide (0 < e ∧ e < t))).map (fun e => (hermite p0 v0 g e.toNat).pos)

/-- R118: one segment from a start point. -/
def checkSegment (c : Cfg) (r : DriveIx) (low high : Option Int) (p0 v0 : Int) (g : Seg) : SegCheck :=
  let t : Int := g.dur
  let vMax : Int := c.vMax r
  let dMax : Int := c.dMax r
  let ca := 6 * (p0 - g.endPos) * 1000000 + 3 * (v0 + g.endVel) * t
  let cb := -(6 * (p0 - g.endPos) * 1000000) - (4 * v0 + 2 * g.endVel) * t
  let ce := 6 * (p0 - g.endPos) * 1000000 + (2 * v0 + 4 * g.endVel) * t
  let inside := decide (ca ≠ 0 ∧ 0 < (-cb) * sgn ca ∧ (-cb) * sgn ca < 2 * ca.natAbs)
  let vn := 4 * ca * t * v0 - cb * cb
  let vm := 4 * ca.natAbs * g.dur
  if vMax < v0.natAbs ∨ vMax < g.endVel.natAbs ∨ (inside ∧ vMax * vm < vn.natAbs) then .limit
  else if dMax * t * t < cb.natAbs * 1000000 ∨ dMax * t * t < ce.natAbs * 1000000 then .limit
  else if !(inSoft low high p0 && inSoft low high g.endPos
      && (turningPositions p0 v0 g).all (inSoft low high)) then .limit
  else if !(energyOk c r v0 1 && energyOk c r g.endVel 1 && (!inside || energyOk c r vn vm)) then .energy
  else .good

/-- R118 over successive segments: the first that fails, numbered from n. -/
def checkSegments (c : Cfg) (r : DriveIx) (low high : Option Int) : Nat → Int → Int → List Seg → Option (Nat × SegCheck)
  | _, _, _, [] => none
  | n, p0, v0, g :: gs =>
    match checkSegment c r low high p0 v0 g with
    | .good => checkSegments c r low high (n + 1) g.endPos g.endVel gs
    | bad => some (n, bad)

/-- End positions of a relative context moved to a start position. -/
def Context.atPosition (x : Context) (p : Int) : List Seg :=
  if x.relative then x.segs.map (fun g => { g with endPos := g.endPos + p }) else x.segs

/-- The final end position of a context from a start position. -/
def Context.finalPos (x : Context) (p : Int) : Int :=
  match (x.atPosition p).getLast? with
  | some g => g.endPos
  | none => p

/-- Whether SOFT_MIN binds a context in the slots it is assigned to (R660). -/
def softMinBinds (r : DriveIx) (x : Context) (homingSlot : Bool) : Bool :=
  !(isStep r && (homingSlot || decide (x.finalPos 0 < 0)))

/-- R118 and R660 for a context as written or committed: absolute contexts from rest at START_MIN and START_MAX,
relative ones from rest at 0 without the position test. -/
def checkContext (c : Cfg) (r : DriveIx) (homingSlot : Bool) (x : Context) : Option (Nat × SegCheck) :=
  let low := if softMinBinds r x homingSlot then some (c.softMin r) else none
  let high := some (c.softMax r)
  if x.relative then checkSegments c r none none 1 0 0 x.segs
  else match checkSegments c r low high 1 x.startMin 0 x.segs with
    | none => checkSegments c r low high 1 x.startMax 0 x.segs
    | some bad => some bad

/-- R118 for a relative context at its start: its positions from the present one. -/
def relativeFits (c : Cfg) (r : DriveIx) (homingSlot : Bool) (x : Context) (p : Int) : Bool :=
  let low := if softMinBinds r x homingSlot then some (c.softMin r) else none
  (checkSegments c r low (some (c.softMax r)) 1 p 0 (x.atPosition p)).isNone

/-! ## Starting, stopping and running paths -/

/-- What the generator is told when it starts a path: the drive, its measured state, the configuration, the scale
of R162 and the homing exemption of R660. -/
structure GenEnv where
  cfg     : Cfg
  drive   : DriveIx
  meas    : Kin
  scale   : Nat
  homing  : Bool
  deriving DecidableEq, Repr

/-! ### The path and its references -/

/-- Advance a path by whole phases and segments that have elapsed; the fuel bounds the number of pieces. -/
def Path.settle (p : Path) : Nat → Path × List Seg
  | 0 => (p, [])
  | n + 1 =>
    match p.ramps, p.segs with
    | r :: rs, _ =>
      if r.dur ≤ p.elapsed then
        Path.settle { p with start := rampAt p.start r.jerk r.dur, elapsed := p.elapsed - r.dur, ramps := rs } n
      else (p, [])
    | [], g :: gs =>
      if g.dur ≤ p.elapsed then
        let q := Path.settle { p with start := { pos := g.endPos, vel := g.endVel, acc := 0 }
                                      elapsed := p.elapsed - g.dur, segs := gs, segNo := p.segNo + 1 } n
        (q.1, g :: q.2)
      else (p, [])
    | [], [] => (p, [])

/-- The reference on a path at its elapsed time (R117, R661). -/
def Path.at (p : Path) : Kin :=
  match p.ramps, p.segs with
  | r :: _, _ => rampAt p.start r.jerk p.elapsed
  | [], g :: _ => hermite p.start.pos p.start.vel g p.elapsed
  | [], [] => { pos := p.target, vel := 0, acc := 0 }

/-- Whether a path has issued its last reference. -/
def Path.done (p : Path) : Bool := p.ramps.isEmpty && p.segs.isEmpty

/-- R120: a reference clipped at soft limits. -/
def clipKin (low high : Option Int) (k : Kin) : Kin :=
  let h := match high with
    | some b => min k.pos b
    | none => k.pos
  let p := match low with
    | some b => max h b
    | none => h
  if p = k.pos then k else { pos := p, vel := 0, acc := 0 }

/-- The path with µs more elapsed, and the segments that ended meanwhile. -/
def Path.elapse (p : Path) (us : Nat) : Path × List Seg := Path.settle { p with elapsed := p.elapsed + us } 64

/-- The reference that a path issues at its elapsed time (R117, R120). -/
def Path.reference (p : Path) : Kin := clipKin p.clipLow p.clipHigh p.at

/-- A path that starts at a state of motion, with no phases yet. -/
def Path.from (k : Kin) (target : Int) (scale : Nat) : Path :=
  { start := k, elapsed := 0, ramps := [], segs := [], segNo := 0, context := none, target := target, endHold := true
    replanOk := true, moveTo := false, scale := scale, fresh := true, stopping := false, marks := Marks.clear
    origin := k.pos, planTo := target, planVel := 0, speed := 0, clipLow := none, clipHigh := none }

/-- R120: a path with its phases replanned from its start to a point. -/
def Path.replanned (p : Path) (goal vel : Int) (speed : Nat) (lim : Limits) : Path :=
  let rp := replan p.start goal vel lim
  { p with ramps := rp.ramps, marks := rp.marks, planTo := goal, planVel := vel, speed := speed
           clipLow := if rp.marks.limitClip then lim.softMin else none
           clipHigh := if rp.marks.limitClip then lim.softMax else none }

/-- R125: a path that is a stop; D_MAX where the stop is quick. A stop that D_MAX cannot bring to rest in time ends at the
soft limit (R120). -/
def Path.stopped (p : Path) (quick : Bool) (lim : Limits) : Path :=
  let (d, raised, clip) := if quick then (lim.dMax, false, false) else stopDecel p.start lim
  let ramps := velChange p.start.vel p.start.acc 0 d lim.j
  let low := if clip then lim.softMin else none
  let high := if clip then lim.softMax else none
  let last := (clipKin low high (rampsEnd p.start ramps)).pos
  { p with ramps := ramps, segs := [], target := last, planTo := last, planVel := 0
           marks := { overshoot := false, decelRaised := raised, limitClip := clip }, clipLow := low, clipHigh := high }

/-! ### The generator -/

/-- Torque is removed from the drive: it is IDLE or in FAULT, interrupted, or braked by the reflex matrix (R110). -/
def Gen.torqueless (g : Gen) : Bool := g.state == .idle || g.state == .fault || !g.stops.isEmpty || g.braked

/-- The drive has torque. -/
def Gen.hasTorque (g : Gen) : Bool := !g.torqueless

/-- R110: TRACKING is set while torque is removed. -/
def Gen.tracked (g : Gen) : Gen := { g with flags := { g.flags with tracking := g.torqueless } }

/-- The reference position in force: the measured one while TRACKING (R110). -/
def Gen.present (g : Gen) (e : GenEnv) : Kin := if g.flags.tracking then { e.meas with acc := 0 } else g.ref

/-- The state a path starts from at the next position-loop period (R110, R122, R123): the measured state while TRACKING,
else the reference that the path in force has for that period. -/
def Gen.base (g : Gen) (e : GenEnv) : Kin :=
  if g.flags.tracking then { e.meas with acc := 0 }
  else match g.path with
    | some p => if p.fresh then p.start else (p.elapse 500).1.reference
    | none => g.ref

/-- A segment scaled by k (R162). -/
def Seg.scaled (g : Seg) (k : Nat) : Seg :=
  { g with dur := g.dur * 1000 / max k 1, endVel := roundDiv (g.endVel * k) 1000 }

/-- The generator with a new path in force: any kept move is discarded (R129). -/
def Gen.run (g : Gen) (p : Path) (fl : MotionFlags) : Gen :=
  Gen.tracked { g with state := .moving, path := some p, kept := none, remaining := 0, target := p.target, flags := fl }

/-- A replanned move to a target (R119 to R121). -/
def Gen.moveToTarget (g : Gen) (e : GenEnv) (target : Int) (speed : Nat) (moveTo : Bool) : Gen :=
  let lim := limitsFor e.cfg e.drive speed e.scale e.homing
  let p := (Path.from (g.base e) target e.scale).replanned target 0 speed lim
  g.run { p with moveTo := moveTo } { g.flags with replanned := true, joined := false, keCapped := lim.keCaps }

/-- R124: rest, in the unit of the drive. -/
def atRest (r : DriveIx) (v : Int) : Bool := decide (v.natAbs ≤ (if isStep r then 64 else 1000))

/-- R124: the first join candidate from the present position, with its index; the final point always serves. An end
velocity can be reached under R119 where it is at most v_cap and the change to it fits in the distance; one against the
context's direction cannot, the point being passed in that direction (DEDUCED, note 131). -/
def joinPoint (k : Kin) (dir : Int) (lim : Limits) : Nat → List Seg → Option (Nat × Seg)
  | _, [] => none
  | n, [g] => some (n, g)
  | n, g :: gs =>
    let v := k.vel * dir
    let room : Int :=
      if v < 0 then (g.endPos - k.pos) * dir + stopDistance k.vel k.acc lim.d lim.j else (g.endPos - k.pos) * dir
    let from0 := if v < 0 then (0, 0) else (v, k.acc * dir)
    let need := rampsDistance from0.1 from0.2 (speedChange from0.1 from0.2 (g.endVel * dir) lim)
    if g.join ∧ 0 < (g.endPos - k.pos) * dir ∧ 0 ≤ g.endVel * dir ∧ g.endVel.natAbs ≤ lim.vCap ∧ need ≤ room then some (n, g)
    else joinPoint k dir lim (n + 1) gs

/-- R118, R660: a relative context that would run from its start does not fit where the drive stands. -/
def Gen.refuses (g : Gen) (e : GenEnv) (x : Context) (skip : Nat) (homingSlot : Bool) : Bool :=
  x.relative && decide (skip = 0) && atRest e.drive (g.base e).vel
    && !relativeFits e.cfg e.drive homingSlot x (g.base e).pos

/-- R124: start a context, from its start window or by joining it. `skip` segments are already run, and `origin` is the
position that the context of a resume is counted from (R126). A relative context that runs from its start is checked
from the present position (R118, R660). -/
def Gen.startContext (g : Gen) (e : GenEnv) (n : CtxIx) (x : Context) (skip : Nat) (origin : Option Int) (homingSlot : Bool) :
    Gen :=
  let k := g.base e
  let at0 := origin.getD k.pos
  let whole := decide (skip = 0) && atRest e.drive k.vel
  let segs := ((x.atPosition at0).map (fun s => s.scaled e.scale)).drop skip
  let final := x.finalPos at0
  let path : Path := { Path.from k final e.scale with
    segs := segs, segNo := skip + 1, context := some n, endHold := x.endHold, replanOk := x.replanOk, origin := at0 }
  if g.refuses e x skip homingSlot then
    { g with flags := { g.flags with ctxRefused := true } }
  else if whole && (x.relative || (decide (x.startMin ≤ k.pos) && decide (k.pos ≤ x.startMax))) then
    g.run { path with start := { k with vel := 0, acc := 0 } }
      { g.flags with replanned := false, joined := false, keCapped := false }
  else
    let lim := limitsFor e.cfg e.drive 0 e.scale e.homing
    let dir := if final < k.pos then (-1 : Int) else 1
    match joinPoint k dir lim 0 segs with
    | none => g
    | some (i, s) =>
      g.run { path.replanned s.endPos s.endVel 0 lim with segs := segs.drop (i + 1), segNo := skip + i + 2 }
        { g.flags with replanned := true, joined := true, keCapped := lim.keCaps }

/-- The remaining move of a path (R126): its context and next segment, or its target. -/
def Path.keep (p : Path) : Kept :=
  { context := p.context, nextSeg := p.segNo - (if p.ramps.isEmpty then 1 else 2), target := p.target, origin := p.origin }

/-- The path a MOVING drive runs. Seal seek has none of its own: its move stands for one to the present reference
position (R172). -/
def Gen.running (g : Gen) (e : GenEnv) : Path := g.path.getD (Path.from g.ref g.ref.pos e.scale)

/-- The drive runs a path that ends in STOPPED_MID (R125). -/
def Gen.stopping (g : Gen) : Bool :=
  match g.path with
  | some p => p.stopping
  | none => false

/-- The move of a MOVING drive that a stop or an interruption keeps: a stop path stands for the move it ends, where that is
still kept. -/
def Gen.keeps (g : Gen) (e : GenEnv) : Option Kept := if g.stopping then g.kept else some (g.running e).keep

/-- The final end of a kept move, or a position where none is kept. -/
def keptEnd (m : Option Kept) (p : Int) : Int :=
  match m with
  | some m => m.target
  | none => p

/-- R125: a stop demand; D_MAX where the stop is quick. The stop path carries the move it ends. -/
def Gen.stop (g : Gen) (e : GenEnv) (quick : Bool) : Gen :=
  match g.state with
  | .moving =>
    let p := g.running e
    let m := g.keeps e
    let lim := limitsFor e.cfg e.drive 0 p.scale e.homing
    { g with kept := m, target := keptEnd m g.target, flags := { g.flags with replanned := true }
             path := some { ({ p with start := g.base e, elapsed := 0, fresh := true }).stopped quick lim with stopping := true } }
  | .hold => { g with state := .stoppedMid, path := none }
  | _ => g

/-- R38: a moving drive is replanned to rest and holds there; no move is kept. -/
def Gen.bringToRest (g : Gen) (e : GenEnv) : Gen :=
  match g.state with
  | .moving =>
    let p := g.running e
    let lim := limitsFor e.cfg e.drive 0 p.scale e.homing
    g.run ((Path.from (g.base e) p.target p.scale).stopped false lim) { g.flags with replanned := true }
  | _ => g

/-- R126: rest is reached and the drive passes to STOPPED_MID at a position, with its remaining move kept. -/
def Gen.stopped (g : Gen) (pos : Int) : Gen :=
  { g with state := .stoppedMid, path := none, ref := { pos := pos, vel := 0, acc := 0 }
           remaining := keptEnd g.kept pos - pos }

/-- R127, R183: an interruption: the drive tracks, and a MOVING one keeps its move. -/
def Gen.interrupt (g : Gen) (e : GenEnv) (x : Interruption) : Gen :=
  let g := { g with stops := if g.stops.contains x then g.stops else x :: g.stops }
  match g.state with
  | .moving =>
    let m := g.keeps e
    Gen.tracked { g with
      state := .stoppedMid, path := none, kept := m, target := keptEnd m e.meas.pos
      remaining := keptEnd m e.meas.pos - e.meas.pos
      ref := { pos := e.meas.pos, vel := 0, acc := 0 }, flags := { g.flags with interrupted := true } }
  | _ => g.tracked

/-- R658: the cause of an interruption ends; with none left torque returns as the drive's state requires, at the position
where the drive stands. -/
def Gen.interruptionEnds (g : Gen) (e : GenEnv) (x : Interruption) : Gen :=
  let left := { g with stops := g.stops.filter (· != x) }
  if g.flags.tracking && !left.torqueless then Gen.tracked { left with ref := { e.meas with vel := 0, acc := 0 } } else left.tracked

/-- R127: while a drive that keeps a move comes to rest TRACKING, REMAINING is taken from where it is. -/
def Gen.track (g : Gen) (meas : Kin) : Gen :=
  { g with ref := meas
           remaining := match g.state, g.kept with
             | .stoppedMid, some m => m.target - meas.pos
             | _, _ => g.remaining }

/-- R129: discard the kept move. -/
def Gen.discard (g : Gen) : Gen := { g with kept := none, remaining := 0 }

/-- Table 3.2: the doorway state requires the drive off. -/
def Gen.off (g : Gen) : Gen :=
  match g.state with
  | .fault => g
  | _ => Gen.tracked { g with state := .idle, path := none, kept := none, remaining := 0 }

/-- R128: a drive fault records REMAINING, the way to the final end of the move in progress, and clears RESUMABLE. -/
def Gen.fail (g : Gen) (pos : Int) : Gen :=
  Gen.tracked { g with
    state := .fault, path := none, kept := none
    remaining := match g.path, g.kept with
      | some p, some m => if p.stopping then m.target - pos else p.target - pos
      | some p, none => p.target - pos
      | none, _ => g.remaining }

/-- Table 3.2: the doorway leaves FAULT. -/
def Gen.leaveFault (g : Gen) : Gen := if g.state = .fault then Gen.tracked { g with state := .idle } else g

/-- Hold at the present reference (or the measured position while tracking); a drive in STOPPED_MID holds as it is. An
IDLE drive holds by way of a replanned path of no length (Table 3.2, note 113). -/
def Gen.holdHere (g : Gen) (e : GenEnv) : Gen :=
  match g.state with
  | .fault => g
  | st => Gen.tracked { g with
      state := if st = .stoppedMid then .stoppedMid else .hold, path := none, ref := { (g.present e) with vel := 0, acc := 0 } }

/-- The drive stands in STOPPED_MID, with no move kept: a hold that a stop demand ends (Table 3.2, note 113). -/
def Gen.standStopped (g : Gen) (e : GenEnv) : Gen :=
  match g.state with
  | .fault => g
  | _ => { (g.holdHere e) with state := .stoppedMid, kept := none, remaining := 0 }

/-- The present path has issued its last reference: HOLD or IDLE at its end point (Table 3.2). -/
def Gen.complete (g : Gen) : Gen :=
  match g.path with
  | none => g
  | some p =>
    Gen.tracked { g with state := if p.endHold then .hold else .idle, path := none
                         ref := { pos := p.target, vel := 0, acc := 0 } }

/-- The flags with what planning a path set. -/
def MotionFlags.mark (f : MotionFlags) (m : Marks) : MotionFlags :=
  { f with overshoot := f.overshoot || m.overshoot, decelRaised := f.decelRaised || m.decelRaised
           limitClip := f.limitClip || m.limitClip }

/-- One position-loop period: a new path issues its first reference and shows its marks (R122, R123); else the reference
is 500 µs further on the path, and the segments that ended are listed. -/
def Gen.advance (g : Gen) (us : Nat) : Gen × List Seg :=
  match g.path with
  | none => (g, [])
  | some p =>
    if p.fresh then ({ g with path := some { p with fresh := false }, ref := p.start, flags := g.flags.mark p.marks }, [])
    else
      let q := p.elapse us
      ({ g with path := some q.1, ref := q.1.reference }, q.2)

/-- R148: OVERSHOOT, DECEL_RAISED or LIMIT_CLIP becomes set at the next reference. -/
def Gen.becomesLimited (g : Gen) : Bool :=
  match g.path with
  | some p => p.fresh && decide (g.flags.mark p.marks ≠ g.flags)
  | none => false

/-- A path has issued its last reference. -/
def Gen.atEnd (g : Gen) : Bool :=
  g.state == .moving && (match g.path with
    | some p => !p.fresh && p.done
    | none => false)

/-- SEGMENT: the segment being run, 0 in a replanned phase (Table 3.13). -/
def Gen.segment (g : Gen) : Nat :=
  match g.path with
  | some p => if p.ramps.isEmpty then p.segNo else 0
  | none => 0

/-- ACTIVE_CONTEXT: the context of the path, none for a MOVE_TO path. -/
def Gen.activeContext (g : Gen) : Option CtxIx := g.path.bind (·.context)

/-! ## Position compare (R130, R131) -/

/-- R130: the crossing between the last position and the present one: increasing or decreasing. -/
def Compare.crossing (c : Compare) (p : Int) : Option Bool :=
  if c.last < c.position ∧ c.position ≤ p then some true
  else if c.position < c.last ∧ p ≤ c.position then some false
  else none

/-- R130, R131: the crossing on which an armed compare fires at a position. -/
def Compare.fires (c : Compare) (p : Int) : Option Bool :=
  (c.crossing p).filter (fun up =>
    c.armed && decide (c.mode ≠ 0) && (decide (c.direction = 0) || decide (c.direction = if up then 1 else 2)))

/-- R131: the compare fires. -/
def Compare.fired (c : Compare) (now : Nat) (up : Bool) : Compare :=
  { c with armed := false, behind := false, above := up, fireCount := satInc 32 c.fireCount, lastFired := now }

/-- R131: a MODE 2 compare is re-armed HYST away from C on the side it crossed to. -/
def Compare.rearms (c : Compare) (p : Int) : Bool :=
  decide (c.mode = 2) && !c.armed &&
    (if c.above then decide (c.position + (c.hyst : Int) ≤ p) else decide (p ≤ c.position - (c.hyst : Int)))

/-- A test of the compare at a position: re-armed, fired, or left, and from now on counted from there. -/
def Compare.test (c : Compare) (now : Nat) (p : Int) : Compare × Option Bool :=
  match c.fires p with
  | some up => ({ (c.fired now up) with last := p }, some up)
  | none => ({ c with armed := c.armed || c.rearms p, last := p }, none)

/-- R133: the position is corrected; that is no crossing. -/
def Gen.correctedTo (g : Gen) (p : Int) : Gen := { g with compare := { g.compare with last := p } }

end Sys2Proof.Machine
end

