-- ==== Sys2Proof/Machine/DoorBasics.lean ====
section
/-!
DEFINITION. What the doorway operations share: the codes of the manual, the environment a doorway's engine reads,
the effects it has outside its doorway, the named conditions of chapters 1 and 2, and the flag words of the
doorway, motion, drive, step and obstacle objects.
-/

namespace Sys2Proof.Machine

/-- Table 1.3: state codes. -/
def DoorState.code : DoorState → Nat
  | .locked => 0x00 | .released => 0x01 | .unlocking => 0x02 | .opening => 0x03 | .opened => 0x04
  | .closing => 0x05 | .reopening => 0x06 | .obstructed => 0x07 | .closedUnlocked => 0x08 | .stopped => 0x09
  | .egress => 0x0A | .isolated => 0x0B | .fault => 0x0C | .maint => 0x0D

/-- Table 1.16: phase codes. -/
def Phase.code : Phase → Nat
  | .none => 0 | .warn => 1 | .move => 2 | .lock => 3 | .reopenMove => 1 | .reopenDwell => 2

/-- Tables 1.4, 1.17, 3.15, 5.8, 15.3 and 16: cause codes. -/
def Cause.code : Cause → Nat
  | .settled => 0x00 | .openPbIn => 0x01 | .openPbOut => 0x02 | .openHost => 0x03 | .openAuto => 0x04
  | .closeTl => 0x10 | .closeReleaseWithdrawn => 0x11 | .closeCpb => 0x12 | .closeHost => 0x13
  | .closeDwell => 0x14 | .closeStepFailed => 0x15
  | .stopHost => 0x20 | .obstacleOpening => 0x21 | .obstacleClosing => 0x22 | .stopMove => 0x23
  | .stopDriveInterrupted => 0x24
  | .egressInside => 0x30 | .accessOutside => 0x31 | .isolSwitch => 0x40 | .isolCommand => 0x41
  | .faultInputInvalid => 0x50 | .faultInputGroup => 0x51 | .faultDrive => 0x52 | .faultStep => 0x53
  | .faultPlausibility => 0x54 | .faultUncommandedUnlock => 0x55 | .faultHall => 0x56 | .faultLeafEngine => 0x57
  | .maintUpdate => 0x60 | .maintTest => 0x61 | .maintLearn => 0x62 | .maintHome => 0x63 | .maintSelftest => 0x64

/-- Table 3.1: drive state codes. -/
def DriveState.code : DriveState → Nat
  | .idle => 0 | .moving => 1 | .hold => 2 | .stoppedMid => 3 | .fault => 4

/-- Table 6.5: action codes. -/
def Action.code : Action → Nat
  | .none => 0 | .torqueOff => 1 | .shortBrake => 2 | .reversal => 3

/-- Table 6.5: an action from its code. -/
def Action.ofCode (n : Nat) : Action :=
  if n % 4 = 1 then .torqueOff else if n % 4 = 2 then .shortBrake else if n % 4 = 3 then .reversal else .none

/-- Strength order of R257: SHORT_BRAKE, TORQUE_OFF, REVERSAL_REQUEST, NONE. -/
def Action.strength : Action → Nat
  | .shortBrake => 3 | .torqueOff => 2 | .reversal => 1 | .none => 0

/-- The stronger of two actions (R257). -/
def Action.stronger (a b : Action) : Action := if b.strength ≤ a.strength then a else b

/-- What a doorway's engine reads from outside its doorway. -/
structure DoorEnv where
  d         : DoorIx
  cfg       : Cfg
  now       : Nat
  mono      : Nat
  /-- The release condition of the doorway's side (R71). -/
  release   : Bool
  /-- TL_CLOSE active (R31). -/
  tlClose   : Bool
  /-- The release permit (R75). -/
  permit    : Bool
  /-- DC-link voltage averaged over 100 ms, mV (R162). -/
  dcLink    : Int
  timeValid : Bool
  /-- POWER_STAGE_READY: until it is set no drive receives torque and no motion starts (R548). -/
  ready     : Bool
  /-- An entry to STABLE or HIBERNATE runs (R543). -/
  entering  : Bool
  /-- A level row with an action on the door drive's column, or on the step drive's, is present (R258). -/
  doorLevel : Bool
  stepLevel : Bool
  /-- The live pool of contexts. -/
  pool      : List (Nat × List Byte)
  free      : Nat

/-- What a doorway's engine does outside its doorway. -/
inductive DoorFx where
  | event (code : Nat) (payload : List Byte)
  | incident (cause : Nat) (step : Bool)
  | cycleRecord (c : Cycle) (endState : Nat)
  | flush
  | releaseBlocked
  /-- The doorway's compare output pulses for 1 ms (R134). -/
  | pulse
  /-- The doorway leaves FAULT: the hardware trips of its drives are unlatched (R182, R219). -/
  | tripsEnd
  | maintEnd (m : Maint) (outcome reason : Nat)
  deriving DecidableEq, Repr

/-- A doorway being worked on, with the effects so far, oldest first. -/
structure Work where
  dw : Doorway
  fx : List DoorFx
  deriving DecidableEq, Repr

/-- Add an effect. -/
def Work.emit (w : Work) (x : DoorFx) : Work := { w with fx := w.fx ++ [x] }

/-- Change the state machine. -/
def Work.sm (w : Work) (f : DoorSm → DoorSm) : Work := { w with dw := { w.dw with sm := f w.dw.sm } }

/-- Change the state machine's flags. -/
def Work.smFlags (w : Work) (f : SmFlags → SmFlags) : Work := w.sm (fun m => { m with flags := f m.flags })

/-- Change the doorway counters. -/
def Work.count (w : Work) (f : DoorCounters → DoorCounters) : Work := w.sm (fun m => { m with counters := f m.counters })

/-- Change the door drive. -/
def Work.door (w : Work) (f : DoorDrive → DoorDrive) : Work := { w with dw := { w.dw with door := f w.dw.door } }

/-- Change the door drive's flags. -/
def Work.doorFlags (w : Work) (f : DriveFlags → DriveFlags) : Work := w.door (fun q => { q with flags := f q.flags })

/-- Change the step drive. -/
def Work.step (w : Work) (f : StepDrive → StepDrive) : Work := { w with dw := { w.dw with step := f w.dw.step } }

/-- Change the step drive's flags. -/
def Work.stepFlags (w : Work) (f : StepFlags → StepFlags) : Work := w.step (fun q => { q with flags := f q.flags })

/-- Change the obstacle protection. -/
def Work.obst (w : Work) (f : Obstacle → Obstacle) : Work := { w with dw := { w.dw with obst := f w.dw.obst } }

/-- Change the obstacle flags. -/
def Work.obstFlags (w : Work) (f : ObstFlags → ObstFlags) : Work := w.obst (fun q => { q with flags := f q.flags })

/-- Change the cycle in progress, where there is one. -/
def Work.cyc (w : Work) (f : Cycle → Cycle) : Work := { w with dw := { w.dw with cycle := w.dw.cycle.map f } }

/-- Begin or end the cycle in progress. -/
def Work.setCycle (w : Work) (c : Option Cycle) : Work := { w with dw := { w.dw with cycle := c } }

/-- Change the flags of the cycle in progress. -/
def Work.cycleFlags (w : Work) (f : CycleFlags → CycleFlags) : Work := w.cyc (fun c => { c with flags := f c.flags })

/-! ## Conditions -/

/-- A filtered input of the doorway by its index (Table 1.2). -/
def Doorway.input (w : Doorway) (i : Nat) : Bool := w.inp.filtered.getLsbD i

/-- DCS made (filtered). -/
def Doorway.dcs (w : Doorway) : Bool := w.input 0
/-- DLS made (filtered). -/
def Doorway.dls (w : Doorway) : Bool := w.input 1
/-- DIS made (filtered). -/
def Doorway.dis (w : Doorway) : Bool := w.input 2
/-- EEH_IN active (filtered). -/
def Doorway.eehIn (w : Doorway) : Bool := w.input 3
/-- EEA_OUT active (filtered). -/
def Doorway.eeaOut (w : Doorway) : Bool := w.input 4
/-- SDS made (filtered). -/
def Doorway.sds (w : Doorway) : Bool := w.input 10
/-- SRS made (filtered). -/
def Doorway.srs (w : Doorway) : Bool := w.input 11

/-- R153: the position register of the door drive in ticks. -/
def Hall.ticks (h : Hall) : Int := 64 * h.rawEdges + h.dirLast * h.frac - h.zeroOffset

/-- R153: door position in µm. -/
def doorPos (c : Cfg) (d : DoorIx) (h : Hall) : Int := roundDiv (h.ticks * c.edgePitch d) 64

/-- R165: the door position lies in the closed window. -/
def inClosedWindow (e : DoorEnv) (w : Doorway) : Bool :=
  !w.door.flags.suspect && decide ((doorPos e.cfg e.d w.door.hall).natAbs ≤ e.cfg.closedWindow e.d)

/-- R68, R69: proven closed-and-locked. -/
def pcl (e : DoorEnv) (w : Doorway) : Bool := w.dcs && w.dls && inClosedWindow e w

/-- Bit 13 of DOOR_STATE.04: the step is retracted and homed (R206, R210). -/
def Doorway.stepHomed (w : Doorway) : Bool := w.step.flags.homed || w.step.flags.standing

/-- The step condition of Table 1.6: retracted and homed, or no step fitted. -/
def stepRetracted (e : DoorEnv) (w : Doorway) : Bool := !e.cfg.hasStep e.d || w.stepHomed

/-- Bit 14 of DOOR_STATE.04 as a condition: deployed, or no step fitted (R213). -/
def stepDeployed (e : DoorEnv) (w : Doorway) : Bool := !e.cfg.hasStep e.d || w.step.flags.deployed

/-- Table 1.4: the trainline close class holds for the doorway. -/
def DoorEnv.tlPresent (e : DoorEnv) : Bool := e.tlClose || !e.release

/-- R30: an open demand has effect. -/
def DoorEnv.openAllowed (e : DoorEnv) : Bool := e.release && !e.tlClose

/-- R39: the cause of a trainline close. -/
def DoorEnv.closeCause (e : DoorEnv) : Cause := if e.tlClose then .closeTl else .closeReleaseWithdrawn

/-- The measured state of the door drive. The module measures no acceleration; the measured one of R110 is taken as 0 (DESIGN
CHOICE, note 132). -/
def doorKin (e : DoorEnv) (w : Doorway) : Kin :=
  { pos := doorPos e.cfg e.d w.door.hall, vel := w.door.hall.velocity, acc := 0 }

/-- What the door generator is told. -/
def doorEnvOf (e : DoorEnv) (w : Doorway) : GenEnv :=
  { cfg := e.cfg, drive := doorDrive e.d, meas := doorKin e w, scale := speedScale e.dcLink, homing := false }

/-- What the step generator is told; `homing` lifts SOFT_MIN for the HOME and CREEP roles (R660). -/
def stepEnvOf (e : DoorEnv) (w : Doorway) (homing : Bool) : GenEnv :=
  { cfg := e.cfg, drive := stepDrive e.d, meas := { pos := w.step.position, vel := 0, acc := 0 }
    scale := speedScale e.dcLink, homing := homing }

/-- The bytes of a context in the live pool. -/
def poolBytes : List (Nat × List Byte) → Nat → Option (List Byte)
  | [], _ => none
  | (k, v) :: r, n => if k = n then some v else poolBytes r n

/-- The context that a role of a drive uses: the slot of ROLE_SELECT, its context, and that context (R111, R113). -/
def roleContext (e : DoorEnv) (r : DriveIx) (g : Gen) (role : Nat) : Option (CtxIx × Context) :=
  match e.cfg.contextMap r (roleSlot g.roleSelect role) with
  | none => none
  | some n => match (poolBytes e.pool n.val).bind Context.parse with
    | none => none
    | some x => some (n, x)

/-- The final end position of a role's context, from the present reference. -/
def roleEnd (e : DoorEnv) (r : DriveIx) (g : Gen) (role : Nat) (p : Int) : Int :=
  match roleContext e r g role with
  | some (_, x) => x.finalPos p
  | none => p

/-! ## Bridges, positions and flag words -/

/-- Tables 4.1 and 5.1, the states of a bridge: `driven` is PWM of a door drive and CHOP of a step drive. -/
inductive Bridge where | driven | torqueOff | shortBrake
  deriving DecidableEq, Repr

/-- R150, R187: the state of a drive's bridge: a latched reflex action overrides it; without POWER_STAGE_READY no drive
receives torque (R548). -/
def bridgeOf (ready : Bool) (l : Latch) (g : Gen) : Bridge :=
  match l.action with
  | .shortBrake => .shortBrake
  | .torqueOff => .torqueOff
  | .reversal | .none => if ready && g.hasTorque then .driven else .torqueOff

/-- No reflex latched. -/
def Latch.clear : Latch := { action := .none, firstRow := none, rows := [] }

/-- The latch of the door drive takes a value; its action brakes the generator. -/
def DoorDrive.latched (q : DoorDrive) (l : Latch) : DoorDrive :=
  { q with latch := l, gen := Gen.tracked { q.gen with braked := decide (2 ≤ l.action.strength) } }

/-- The latch of the step drive takes a value; its action brakes the generator. -/
def StepDrive.latched (q : StepDrive) (l : Latch) : StepDrive :=
  { q with latch := l, gen := Gen.tracked { q.gen with braked := decide (2 ≤ l.action.strength) } }

/-- The step's position register as it reads: 0 until the next completed homing after a loss (R210). -/
def StepDrive.reads (q : StepDrive) : Int := if q.blank then 0 else q.position

/-- ELEC_INDEX as it reads (R210). -/
def StepDrive.readsElec (q : StepDrive) : Nat := if q.blank then 0 else q.elec

/-- The velocity of a drive, µm/s or microsteps/s. -/
def driveVelocity (e : DoorEnv) (w : Doorway) (r : DriveIx) : Int :=
  if isStep r then (if w.step.gen.state = .moving then w.step.gen.ref.vel else 0) else (doorKin e w).vel

/-- The position of a drive, µm or microsteps. -/
def drivePosition (e : DoorEnv) (w : Doorway) (r : DriveIx) : Int := if isStep r then w.step.reads else (doorKin e w).pos

/-- Whether a remaining move is kept (bit 0 of MOTION_FLAGS, R126). -/
def Gen.resumable (g : Gen) : Bool := g.state == .stoppedMid && g.kept.isSome

/-- MOTION_FLAGS (Table 3.14). -/
def Gen.flagWord (g : Gen) : Nat :=
  let f := g.flags
  bitWord [g.resumable, f.replanned, f.joined, f.overshoot, f.decelRaised, f.limitClip, f.keCapped, f.tracking,
    f.interrupted, f.ctxModified, f.ctxRefused]

/-- REFLEX_ACTIVE: an action other than REVERSAL_REQUEST is latched on a drive of the doorway (R257). -/
def Doorway.reflexActive (w : Doorway) : Bool :=
  decide (2 ≤ w.door.latch.action.strength) || decide (2 ≤ w.step.latch.action.strength)

/-- DOOR_STATE.04 FLAGS (Table 1.15); of a doorway not fitted, NOT_FITTED and the command flag alone (R16). -/
def doorFlagWord (e : DoorEnv) (w : Doorway) : Nat :=
  let f := w.sm.flags
  if e.cfg.isFitted e.d then
    bitWord [e.release, f.isolatedByCmd, w.dis, w.inp.flags.commonFault, !w.inp.flags.valid, f.unlockFailed,
      f.lockFailed, w.door.flags.suspect, w.step.flags.lost, w.reflexActive, e.tlPresent, f.openIgnored, pcl e w,
      w.stepHomed, w.step.flags.deployed, w.door.gen.resumable || w.step.gen.resumable,
      match w.sm.maint with
      | some m => m.op == .update
      | none => false]
  else bitWord [false, f.isolatedByCmd] + 2 ^ 17

/-- Whether a running segment has LOW_FORCE (Table 3.7). -/
def Gen.lowForce (g : Gen) : Bool :=
  match g.path with
  | some p => p.ramps.isEmpty && (match p.segs with
    | s :: _ => s.lowForce
    | [] => false)
  | none => false

/-- R158: the opening-torque clamp. -/
def torqueInhibit (e : DoorEnv) (w : Doorway) : Bool := !e.permit && (w.dcs || inClosedWindow e w)

/-- R163: the thermal factor × 1,000 for a bridge temperature in 0.1 °C. -/
def thermalFactor (t : Int) : Nat :=
  if t ≤ 1050 then 1000 else if 1250 ≤ t then 500 else (1000 - (t - 1050) * 500 / 200).toNat

/-- SPEED_SCALE: the scale of the running path × 1,000, which it keeps, else the present one (R162, R195). -/
def Gen.scale (g : Gen) (e : DoorEnv) : Nat :=
  match g.path with
  | some p => p.scale
  | none => speedScale e.dcLink

/-- Interpolation is in use (R153): the interval is at most 50 ms, and the time since the edge at most twice it. -/
def Hall.interpolates (h : Hall) : Bool :=
  match h.interval with
  | some i => decide (i ≤ 1000000) && decide (h.age ≤ 2 * i)
  | none => false

/-- DRIVE_FLAGS (Table 4.9). -/
def driveFlagWord (e : DoorEnv) (w : Doorway) : Nat :=
  let f := w.door.flags
  bitWord [f.indexed, f.learnt, f.suspect, f.sealSeek, f.hallDropout, w.door.hall.interpolates, decide (w.door.gen.scale e < 1000),
    decide (thermalFactor w.door.bridgeTemp < 1000), f.thermalHold, torqueInhibit e w, f.followError,
    w.door.push == .pushing, w.door.gen.lowForce]

/-- Parked: at rest at a detent (Table 5.7). -/
def StepDrive.parked (q : StepDrive) : Bool := q.gen.state != .moving && q.elec % 64 == 0

/-- R196: the load-angle estimate is valid. -/
def StepDrive.laValid (q : StepDrive) : Bool :=
  q.gen.state == .moving && !q.gen.flags.tracking && decide (2000 ≤ q.gen.ref.vel.natAbs)

/-- STEP_FLAGS (Table 5.7). -/
def stepFlagWord (e : DoorEnv) (w : Doorway) : Nat :=
  let q := w.step
  let f := q.flags
  bitWord [w.stepHomed, f.lost, f.deployed, q.job == .homing || q.job == .creepHoming, q.parked, q.laValid, f.chatter,
    f.shifted, f.deployFailed, f.sdsLost, decide (q.gen.scale e < 1000), f.thermalHold, q.job == .retryPause]

/-- R235: Rowan in ceiling-only mode. -/
def ceilingOnly (w : Doorway) : Bool :=
  !w.obst.flags.envLearnt || w.door.flags.suspect || w.obst.flags.learnRunning || w.obst.flags.breakaway

/-- OBST_FLAGS (Table 6.11). -/
def obstFlagWord (w : Doorway) : Nat :=
  let f := w.obst.flags
  bitWord [f.envLearnt, f.sigLearnt, ceilingOnly w, f.envTripped, f.sigTripped, f.sePathFault, f.reopenBlocked,
    f.adaptLimited, f.learnRunning, f.reflexStop]

/-! ## Events of the doorway chapters -/

/-- R186: the payload of a door drive event. -/
def driveEvent (e : DoorEnv) (w : Doorway) (code : Nat) (value : Int) : List Byte :=
  le 8 e.now ++ le 1 (doorDrive e.d).val ++ le 1 code ++ le 2 0 ++ leInt 4 (doorPos e.cfg e.d w.door.hall) ++ leInt 4 value

/-- R226: the payload of a step drive event. -/
def stepEvent (e : DoorEnv) (w : Doorway) (code : Nat) (value : Int) : List Byte :=
  le 8 e.now ++ le 1 (stepDrive e.d).val ++ le 1 code ++ le 2 0 ++ leInt 4 w.step.reads ++ leInt 4 value

/-- R271: the payload of an obstacle event. -/
def obstEvent (e : DoorEnv) (w : Doorway) (code v16 : Nat) (value : Int) : List Byte :=
  le 8 e.now ++ le 1 e.d.val ++ le 1 code ++ le 2 v16 ++ leInt 4 (doorPos e.cfg e.d w.door.hall) ++ leInt 4 value

/-- Send a door drive event. -/
def Work.driveEvent (w : Work) (e : DoorEnv) (ev code : Nat) (value : Int) : Work :=
  w.emit (.event ev (Machine.driveEvent e w.dw code value))

/-- Send a step drive event. -/
def Work.stepEvent (w : Work) (e : DoorEnv) (ev code : Nat) (value : Int) : Work :=
  w.emit (.event ev (Machine.stepEvent e w.dw code value))

/-- R148: the payload of 0xE302. -/
def limitedEvent (e : DoorEnv) (w : Doorway) (step : Bool) : List Byte :=
  let r := if step then stepDrive e.d else doorDrive e.d
  let g := if step then w.step.gen else w.door.gen
  le 8 e.now ++ le 1 r.val ++ le 1 (g.flagWord % 256) ++ le 2 0 ++ leInt 4 (drivePosition e w r) ++ leInt 4 (driveVelocity e w r)

/-- R134: what a firing of a compare raises: event 0xE301 and the output pulse, as ACTIONS selects. -/
def compareActions (e : DoorEnv) (r : DriveIx) (c : Compare) (up : Bool) (pos vel : Int) : List DoorFx :=
  (if bitOf c.actions 0 then
    [.event 0xE301 (le 8 e.now ++ le 1 r.val ++ le 1 (if up then 1 else 2) ++ le 2 c.fireCount ++ leInt 4 c.position
      ++ leInt 4 pos ++ leInt 4 vel)] else [])
    ++ (if bitOf c.actions 1 then [.pulse] else [])

/-- R130 to R134: the door drive's compare is tested at the position register. -/
def doorCompare (e : DoorEnv) (w : Work) : Work :=
  let k := doorKin e w.dw
  let x := w.dw.door.gen.compare.test e.now k.pos
  let w := w.door (fun q => { q with gen := { q.gen with compare := x.1 } })
  match x.2 with
  | some up => { w with fx := w.fx ++ compareActions e (doorDrive e.d) x.1 up k.pos k.vel }
  | none => w

/-- R130 to R134: the step drive's compare is tested at the position register. -/
def stepCompare (e : DoorEnv) (w : Work) : Work :=
  let x := w.dw.step.gen.compare.test e.now w.dw.step.reads
  let w := w.step (fun q => { q with gen := { q.gen with compare := x.1 } })
  match x.2 with
  | some up => { w with fx := w.fx ++ compareActions e (stepDrive e.d) x.1 up w.dw.step.reads (driveVelocity e w.dw (stepDrive e.d)) }
  | none => w

/-- Send an obstacle event. -/
def Work.obstEvent (w : Work) (e : DoorEnv) (ev code v16 : Nat) (value : Int) : Work :=
  w.emit (.event ev (Machine.obstEvent e w.dw code v16 value))

end Sys2Proof.Machine
end

