-- ==== Sys2Proof/Machine/HallCounter.lean ====
section
/-!
DEFINITION. The Hall counter of a door drive (R151 to R155, R180): the sectors, what a change of the filtered code does, the
50 µs samples and the measured velocity.
-/

namespace Sys2Proof.Machine

/-- Table 4.2: the sector of a Hall code. -/
def sectorOf (sequence code : Nat) : Option Nat :=
  let s := match code with
    | 4 => some 0 | 6 => some 1 | 2 => some 2 | 3 => some 3 | 1 => some 4 | 5 => some 5 | _ => none
  s.map (fun k => if sequence = 1 then (6 - k) % 6 else k)

/-- R153: raw_ticks. -/
def Hall.rawTicks (h : Hall) : Int := 64 * h.rawEdges + h.dirLast * h.frac

/-- R155: the measured velocity: from the interval while it is known and at most 100 ms old, else from the change of the
register since the last position-loop period; zero after 100 ms without an edge. -/
def Hall.speed (pitch : Int) (h : Hall) : Int :=
  if 2000000 < h.age then 0
  else match h.interval with
    | some i => roundDiv (h.dirLast * pitch * 20000000) (max i 1)
    | none => roundDiv ((h.rawTicks - h.before) * pitch * 2000) 64

/-- R153: a step of one sector counts an edge. -/
def Hall.edge (pitch : Int) (h : Hall) (old s : Nat) (dir : Int) : Hall :=
  let h' := { h with
    sector := some s, rawEdges := h.rawEdges + dir, dirLast := dir, frac := 0, age := 0
    interval := if dir = h.dirLast then some h.age else none
    prior := some { sector := old, rawEdges := h.rawEdges, dirLast := h.dirLast, interval := h.interval, frac := h.frac
                    age := h.age, velocity := h.velocity } }
  { h' with velocity := h'.speed pitch }

/-- A step of one sector is undone (Table 4.6); `since` has passed since it. -/
def Hall.undo (h : Hall) (p : HallPrior) (since : Nat) : Hall :=
  { h with sector := some p.sector, rawEdges := p.rawEdges, dirLast := p.dirLast, interval := p.interval, frac := p.frac
           age := p.age + since, velocity := p.velocity, prior := none }

/-- What a change of the Hall code is, for Table 4.6. -/
inductive HallEvent where | quiet | glitch | skip | jump
  deriving DecidableEq, Repr

/-- R153, Table 4.6: the filtered code changes, the code before it having stood for `since` (units of 50 ns). An invalid
code changes nothing but the code; the glitch of a short one is counted as a valid code returns. A step of 2, 3 or 4
sectors leaves dir_last, the interval, frac and t_last as they are, as the pseudocode of R153 does; of 2 or 4 it counts
two edges in the direction shown. -/
def Hall.change (sequence : Nat) (pitch : Int) (code since : Nat) (h : Hall) : Hall × HallEvent :=
  let short := decide (since < 2000)
  let wasValid := (sectorOf sequence h.code).isSome
  let shortInvalid := short && !wasValid
  let h := { h with code := code, age := h.age - h.codeAge + since, codeAge := 0 }
  match sectorOf sequence code, h.sector with
  | none, _ => ({ h with prior := none }, .quiet)
  | some s, none => ({ h with sector := some s, prior := none }, .quiet)
  | some s, some old =>
    let undone := h.prior.filter (fun p => short && wasValid && p.sector == s)
    match undone, (s + 6 - old) % 6 with
    | some p, _ => (h.undo p since, .glitch)
    | none, 0 => ({ h with prior := none }, if shortInvalid then .glitch else .quiet)
    | none, 1 => (h.edge pitch old s 1, if shortInvalid then .glitch else .quiet)
    | none, 5 => (h.edge pitch old s (-1), if shortInvalid then .glitch else .quiet)
    | none, 3 => ({ h with sector := some s, prior := none }, .jump)
    | none, k =>
      ({ h with sector := some s, prior := none, rawEdges := h.rawEdges + (if k = 2 then 2 else -2), skips := h.skips + 1 }, .skip)

/-- R153: one sample, 50 µs on. -/
def Hall.sample (h : Hall) : Hall :=
  let h := { h with age := h.age + 1000, codeAge := h.codeAge + 1000 }
  match h.interval with
  | some i => if h.interpolates then { h with frac := min 63 (64 * h.age / max i 1) } else h
  | none => h

/-- R155: the measured velocity at a position-loop period. -/
def Hall.period (pitch : Int) (h : Hall) : Hall := { h with velocity := h.speed pitch, before := h.rawTicks }

/-- R153, R180: the hardware's part of a change of the code: the counter, and HALL_GLITCHES and HALL_SKIPS. -/
def DoorDrive.hallChange (c : Cfg) (d : DoorIx) (code since : Nat) (q : DoorDrive) : DoorDrive × HallEvent :=
  let r := q.hall.change (c.hallSequence d) (c.edgePitch d) code since
  ({ q with
      hall := r.1
      counters := { q.counters with
        glitches := if r.2 = .glitch then satInc 32 q.counters.glitches else q.counters.glitches
        skips := if r.2 = .skip then satInc 16 q.counters.skips else q.counters.skips } }, r.2)

end Sys2Proof.Machine
end

