-- ==== Sys2Proof/Machine/CurrentLoop.lean ====
section
/-!
DEFINITION. Commutation and the current loop of a door drive (R149, R156, R157), and the hardware's 50 µs samples. The phase
currents are measured, so free values; the transformation keeps amplitudes, and at the voltage limit both voltages are
scaled to it and the integrators stand (DESIGN CHOICE, note 115).
-/

namespace Sys2Proof.Machine

/-- R156: the electrical angle in 1/160°: the sector centre while no interval is known. -/
def electricalAngle (c : Cfg) (d : DoorIx) (h : Hall) : Int :=
  let s : Int := ((h.sector.getD 0 : Nat) : Int)
  let f : Int := if h.interval.isSome then h.frac else 32
  (if h.dirLast = -1 then 9600 * (s + 1) - 150 * f else 9600 * s + 150 * f) + 16 * c.hallOffset d

/-- R157: the d and q currents of three phase currents at an electrical angle. -/
def dqOf (angle iu iv iw : Int) : Int × Int :=
  (roundDiv (2 * (iu * cosMicro angle + iv * cosMicro (angle - 19200) + iw * cosMicro (angle + 19200))) 3000000,
   roundDiv (-2 * (iu * sinMicro angle + iv * sinMicro (angle - 19200) + iw * sinMicro (angle + 19200))) 3000000)

/-- R157: the proportional-integral controller of an axis over 50 µs: its integrator and its voltage, in µV, with the gains
2π × CUR_BW × MOTOR_R and 2π × CUR_BW × MOTOR_L. -/
def axisVoltage (c : Cfg) (d : DoorIx) (intg err : Int) : Int × Int :=
  let i := intg + roundDiv (6283185307 * c.curBw d * c.motorR d * err) 20000000000000
  (i, i + roundDiv (6283185307 * c.curBw d * c.motorL d * err) 1000000000000)

/-- R149: the largest phase voltage amplitude, in µV, at a DC-link voltage in mV. -/
def voltageLimit (dcLink : Int) : Int := 550 * dcLink

/-- R157: one run of the current loop with measured d and q currents, towards a q command. -/
def CurrentLoop.run (c : Cfg) (d : DoorIx) (dcLink iqCmd : Int) (m : Int × Int) (l : CurrentLoop) : CurrentLoop :=
  let x := axisVoltage c d l.dIntg (-m.1)
  let y := axisVoltage c d l.qIntg (iqCmd - m.2)
  let lim := voltageLimit dcLink
  if x.2 * x.2 + y.2 * y.2 ≤ lim * lim then
    { id := m.1, iq := m.2, dIntg := x.1, qIntg := y.1, vd := roundDiv x.2 1000, vq := roundDiv y.2 1000 }
  else
    let a : Int := isqrt (x.2 * x.2 + y.2 * y.2).toNat
    { id := m.1, iq := m.2, dIntg := l.dIntg, qIntg := l.qIntg
      vd := roundDiv (x.2 * lim) (1000 * a), vq := roundDiv (y.2 * lim) (1000 * a) }

/-- The current loop with its bridge not modulated: currents are measured, nothing is regulated. -/
def CurrentLoop.idle (m : Int × Int) : CurrentLoop := { id := m.1, iq := m.2, dIntg := 0, qIntg := 0, vd := 0, vq := 0 }

/-- The phase currents at a sample, n being the free value's number. -/
def phaseCurrents (angle : Int) (n : Nat) : Int × Int :=
  dqOf angle (Config.measured .phaseCurrent n) (Config.measured .phaseCurrent (n + 1)) (Config.measured .phaseCurrent (n + 2))

/-- The state of the door bridge (Table 4.1). -/
def doorBridge (e : DoorEnv) (w : Doorway) : Bridge := bridgeOf e.ready w.door.latch w.door.gen

/-- R153, R157: one hardware sample, 50 µs on: the Hall counter, the position compare at the updated register, and the
current loop. -/
def doorSample (e : DoorEnv) (k : Nat) (w : Work) : Work :=
  let w := doorCompare e (w.door (fun q => { q with hall := q.hall.sample }))
  let q := w.dw.door
  let m := phaseCurrents (electricalAngle e.cfg e.d q.hall) (e.free + 3 * k)
  let l := if doorBridge e w.dw = .driven then q.loop.run e.cfg e.d e.dcLink q.iqCmd m else CurrentLoop.idle m
  w.door (fun q => { q with loop := l })

/-- The ten samples of one position-loop period, and the velocity at its end. -/
def doorSamples (e : DoorEnv) (w : Work) : Work :=
  ((List.range 10).foldl (fun w k => doorSample e k w) w).door (fun q => { q with hall := q.hall.period (e.cfg.edgePitch e.d) })

end Sys2Proof.Machine
end

