-- ==== Sys2Proof/Machine/Stepper.lean ====
section
/-!
DEFINITION. The step drive's hardware (R187 to R198): the current in force and the coil targets, the choppers, the
resolutions, the interval timer on the reference curve, and the load-angle estimate with its stall marks. Times of the
interval timer are in units of 10 ns; positions and velocities on the curve are × 1,000 (note 116).
-/

namespace Sys2Proof.Machine

/-- The state of the step bridges (Table 5.1). -/
def stepBridge (e : DoorEnv) (w : Doorway) : Bridge := bridgeOf e.ready w.step.latch w.step.gen

/-- R194, Table 5.3: the current in force, by the first row that applies, times the thermal factor. -/
def stepCurrent (e : DoorEnv) (w : Doorway) : Nat :=
  let q := w.step
  let base :=
    if (q.job = .homing ∨ q.job = .creepHoming) ∧ q.gen.state = .moving then e.cfg.iHome e.d
    else if q.gen.lowForce then e.cfg.iStepLow e.d
    else match q.gen.state with
      | .moving | .stoppedMid => e.cfg.iRun e.d
      | .hold => e.cfg.iStepHold e.d
      | .idle | .fault => 0
  base * thermalFactor q.bridgeTemp / 1000

/-- R188, R189: the coil targets at ELEC_INDEX, in mA; STEP_DIRECTION 1 reverses the sense of coil B. -/
def coilTargets (e : DoorEnv) (w : Doorway) : Int × Int :=
  if stepBridge e w = .driven then
    let i : Int := stepCurrent e w
    let a : Int := 225 * w.step.elec
    (roundDiv (i * cosMicro a) 1000000,
      roundDiv (i * sinMicro a) 1000000 * (if e.cfg.stepDirection e.d = 1 then -1 else 1))
  else (0, 0)

/-! ## Chopper (R193) -/

/-- R193: one chopper period of 20 µs: the phase by the coil current at its end, and the offset by its mean. -/
def Chopper.period (band : Nat) (target i mean : Int) (x : Chopper) : Chopper :=
  let upper2 := 2 * ((target.natAbs : Int) + x.offset) + band
  let lower2 := 2 * ((target.natAbs : Int) + x.offset) - band
  let c2 : Int := 2 * i.natAbs
  { phase := match x.phase with
      | .on => if upper2 ≤ c2 then .slowDecay else .on
      | .slowDecay => if c2 ≤ lower2 then .on else if upper2 < c2 then .fastDecay else .slowDecay
      | .fastDecay => if c2 ≤ lower2 then .on else .fastDecay
    offset := clampInt (-(band : Int)) band (x.offset + roundDiv ((target.natAbs : Int) - mean.natAbs) 4) }

/-- A coil that is not regulated. -/
def Chopper.rest : Chopper := { phase := .on, offset := 0 }

/-- A chopper over the 25 chopper periods of 500 µs, with the currents measured from number n on. -/
def Chopper.periods (band : Nat) (target : Int) (n : Nat) (x : Chopper) : Chopper :=
  (List.range 25).foldl (fun x k =>
    x.period band target (Config.measured .chopCurrent (n + k)) (Config.measured .chopMean (n + k))) x

/-- Both choppers over 500 µs. -/
def stepChop (e : DoorEnv) (w : Work) : Work :=
  let t := coilTargets e w.dw
  let on := decide (stepBridge e w.dw = .driven)
  let band := e.cfg.hystBand e.d
  w.step (fun q => { q with
    chopA := if on then q.chopA.periods band t.1 e.free else Chopper.rest
    chopB := if on then q.chopB.periods band t.2 (e.free + 25) else Chopper.rest })

/-! ## Resolution (R190, R191) -/

/-- R190, R191: the resolution after a step at a speed, one row at most from the present one. -/
def nextResolution (q speed landing : Nat) : Nat :=
  let coarserFrom := if q = 1 then 2000 else if q = 2 then 4000 else if q = 4 then 8000 else if q = 8 then 16000
    else if q = 16 then 32000 else 56000
  let finerBelow := if q = 2 then 1600 else if q = 4 then 3200 else if q = 8 then 6400 else if q = 16 then 12800
    else if q = 32 then 25600 else 44800
  let member := if q = 32 then decide (landing % 64 = 32) else decide (landing % (2 * q) = 0)
  if q ≠ 1 ∧ speed < finerBelow then q / 2
  else if q < 64 ∧ coarserFrom ≤ speed ∧ member then 2 * q
  else q

/-- RESOLUTION: 1/64 with the step at rest. -/
def StepDrive.resolutionNow (q : StepDrive) : Nat := if q.gen.state = .moving then q.resolution else 1

/-- The register moves to a value with the electrical index (R188). -/
def StepDrive.moveTo (q : StepDrive) (p : Int) : StepDrive :=
  { q with position := p, elec := ((q.elec + (p - q.position)) % 256).toNat }

/-! ## The reference curve (R117, R661) -/

/-- Position and velocity, × 1,000, t × 10 ns into a constant-jerk phase. -/
def rampFine (k : Kin) (jerk : Int) (t : Nat) : Int × Int :=
  (k.pos * 1000 + roundDiv (k.vel * t * 60000000000000000 + k.acc * t * t * 300000000 + jerk * t * t * t) 6000000000000000000000,
   k.vel * 1000 + roundDiv (k.acc * t * 200000000 + jerk * t * t) 20000000000000)

/-- Position and velocity, × 1,000, t × 10 ns into a segment. -/
def hermiteFine (p0 v0 : Int) (g : Seg) (t : Nat) : Int × Int :=
  let d : Int := 100 * g.dur
  let e : Int := t
  (roundDiv (((2*e*e*e - 3*e*e*d + d*d*d) * p0 + (3*e*e*d - 2*e*e*e) * g.endPos) * 100000000000
      + ((e*e*e - 2*e*e*d + e*d*d) * v0 + (e*e*e - e*e*d) * g.endVel) * d * 1000) (d*d*d * 100000000),
   roundDiv ((6*e*e - 6*e*d) * (p0 - g.endPos) * 100000000000
      + ((3*e*e - 4*e*d + d*d) * v0 + (3*e*e - 2*e*d) * g.endVel) * d * 1000) (d*d*d))

/-- The curve over segments, and beyond their end. -/
def segsFine (k : Kin) : List Seg → Nat → Int × Int
  | [], _ => (k.pos * 1000, 0)
  | g :: gs, t =>
    if 100 * g.dur ≤ t then segsFine { pos := g.endPos, vel := g.endVel, acc := 0 } gs (t - 100 * g.dur)
    else hermiteFine k.pos k.vel g t

/-- The curve over replanned phases and the segments after them; the phases end at the point they were planned to. -/
def rampsFine (k stop : Kin) (segs : List Seg) : List Ramp → Nat → Int × Int
  | [], t => segsFine stop segs t
  | r :: rs, t =>
    if 100 * r.dur ≤ t then rampsFine (rampAt k r.jerk r.dur) stop segs rs (t - 100 * r.dur) else rampFine k r.jerk t

/-- Position and velocity, × 1,000, of a path t × 10 ns past its start, clipped as its reference is (R120). -/
def Path.fine (p : Path) (t : Nat) : Int × Int :=
  let stop : Kin := if p.ramps.isEmpty then p.start else { pos := p.planTo, vel := p.planVel, acc := 0 }
  let x := rampsFine p.start stop p.segs p.ramps t
  let k := clipKin (p.clipLow.map (· * 1000)) (p.clipHigh.map (· * 1000)) { pos := x.1, vel := x.2, acc := 0 }
  (k.pos, k.vel)

/-! ## The interval timer (R192) -/

/-- R192: one Newton step towards the moment at which the curve reaches n. -/
def newtonStep (p : Path) (t : Nat) (n dt : Int) : Int :=
  let x := p.fine (t + dt.toNat)
  if x.2 = 0 then dt else dt - roundDiv ((x.1 - 1000 * n) * 100000000 * sgn x.2) x.2.natAbs

/-- R192: the step after one issued at t; none where the curve turns before it reaches it. -/
def StepDrive.nextStep (p : Path) (t : Nat) (q : StepDrive) : Option StepDue :=
  let v := (p.fine t).2
  let dir := sgn v
  let r : Nat := nextResolution q.resolution (v.natAbs / 1000) q.elec
  let n := q.position + dir * r
  let dt := newtonStep p t n (newtonStep p t n ((r : Int) * 100000000000 / max v.natAbs 1))
  if dir ≠ 0 ∧ 0 < dt ∧ sgn (p.fine (t + dt.toNat)).2 = dir then some { ticks := dt.toNat, move := dir * r } else none

/-- The first moment, from t on and at most 2^k − 1 past `lo`, at which the curve lies a microstep from a position. -/
def reachFrom (p : Path) (t : Nat) (dir pos : Int) : Nat → Nat → Nat
  | 0, lo => lo + 1
  | k + 1, lo =>
    let m := lo + 2 ^ k
    if 1000 ≤ dir * ((p.fine (t + m)).1 - 1000 * pos) then reachFrom p t dir pos k lo else reachFrom p t dir pos k m

/-- R192: from rest or after a turn, the next step is that to the register ± 1, at 1/64, when the curve reaches it; none
within the time left. -/
def StepDrive.reach (p : Path) (t left : Nat) (q : StepDrive) : Option StepDue :=
  let off := (p.fine (t + left)).1 - 1000 * q.position
  if off.natAbs < 1000 then none
  else some { ticks := min left (reachFrom p t (sgn off) q.position 16 0 - 1), move := sgn off }

/-! ## Load angle and stall marks (R196 to R198) -/

/-- What a slow-decay off-time shows of the two coils (R196): currents in mA, slopes in A/s. -/
structure CoilSample where
  currentA : Int
  slopeA   : Int
  currentB : Int
  slopeB   : Int
  deriving DecidableEq, Repr

/-- R196: the load angle and the amplitude of the induced voltages that a sample of the coils shows, moving in a direction.
Coil A's flux goes with the cosine of the rotor's electrical angle and coil B's with its sine (DEDUCED, note 117). -/
def loadReading (c : Cfg) (d : DoorIx) (dir : Int) (elec : Nat) (x : CoilSample) : Int × Nat :=
  let ea := -(c.motorRStep d * x.currentA + c.motorLStep d * x.slopeA)
  let eb := -(c.motorRStep d * x.currentB + c.motorLStep d * x.slopeB)
  let sense : Int := if c.stepDirection d = 1 then -1 else 1
  let rotor : Int := angleOf (eb * sense * dir) (-(ea * dir))
  (dir * wrapAngle (roundDiv (elec * 225) 16 - rotor), isqrt (ea * ea + eb * eb).toNat / 1000)

/-- The full steps counted afresh from a register value (R196). -/
def LoadAngle.from (p : Int) (forward : Bool) : LoadAngle :=
  { spanFrom := p, forward := forward, count := 0, angleSum := 0, emfSum := 0, angle := 0, emf := 0, marks := 0, onset := 0
    slipDue := false }

/-- R197, R198: a full step is complete at a reference speed; answers whether the rotor has slipped. -/
def LoadAngle.complete (c : Cfg) (d : DoorIx) (speed : Nat) (l : LoadAngle) : LoadAngle × Bool :=
  let angle := roundDiv l.angleSum (max l.count 1)
  let emf := l.emfSum / max l.count 1
  let valid := decide (2000 ≤ speed)
  let marked := valid && (decide ((c.stallAngle d : Int) < angle) || decide (emf * 100000 < c.stallEmf d * (c.keStep d * speed)))
  let due := l.slipDue || (decide (0 < l.marks) && decide (l.marks < c.stallSteps d))
  let slip := valid && !marked && due && decide (2 * angle < (c.stallAngle d : Int))
  ({ l with
      spanFrom := if l.forward then l.spanFrom + 64 else l.spanFrom - 64
      count := 0, angleSum := 0, emfSum := 0, angle := angle, emf := emf
      marks := if marked then l.marks + 1 else 0
      onset := if marked && decide (l.marks = 0) then l.spanFrom else l.onset
      slipDue := due && !slip && !marked }, slip)

/-- R190, R196: a step is issued with a sample of the coils; answers whether the rotor has slipped. The full steps are
counted afresh from a reversal. -/
def StepDrive.issue (c : Cfg) (d : DoorIx) (move : Int) (x : CoilSample) (q : StepDrive) : StepDrive × Bool :=
  let l := if q.load.forward = decide (0 < move) then q.load else LoadAngle.from q.position (decide (0 < move))
  let q := q.moveTo (q.position + move)
  let r := loadReading c d (sgn move) q.elec x
  let l := { l with count := l.count + 1, angleSum := l.angleSum + r.1, emfSum := l.emfSum + r.2 }
  if (q.position - l.spanFrom).natAbs < 64 then ({ q with load := l }, false)
  else
    let y := l.complete c d q.gen.ref.vel.natAbs
    ({ q with load := y.1 }, y.2)

/-- LOAD_ANGLE: 0 while the estimate is not valid. -/
def StepDrive.loadAngle (q : StepDrive) : Int := if q.laValid then q.load.angle else 0

end Sys2Proof.Machine
end

