-- ==== Sys2Proof/Machine/StepOps.lean ====
section
/-!
DEFINITION. The step drive's shared operations (chapter 5): losing and keeping the position, deploying, homing,
parking, retracting, and what a stall means.
-/

namespace Sys2Proof.Machine

/-- R208, R226: the step position is lost, once, with the code of event 0xE503; any kept move is discarded (R129). -/
def stepLose (e : DoorEnv) (code : Nat) (w : Work) : Work :=
  let w' := w.step (fun q => { q with gen := q.gen.discard })
  if w.dw.step.flags.lost then w'
  else (w'.stepFlags (fun f => { f with lost := true })).stepEvent e 0xE503 code 0

/-- R208: whether torque removed now keeps the position: at rest at a detent, or no torque to remove. -/
def stepKeepsPosition (q : StepDrive) : Bool := q.gen.torqueless || (q.gen.state != .moving && q.elec % 64 == 0)

/-- R208: torque is removed from the step drive. -/
def stepTorqueRemoved (e : DoorEnv) (w : Work) : Work :=
  if stepKeepsPosition w.dw.step then w else stepLose e 2 w

/-- Table 3.2 with R208: the doorway state takes the step drive off. -/
def stepOff (e : DoorEnv) (w : Work) : Work :=
  (stepTorqueRemoved e w).step (fun q => { q with gen := q.gen.off, timer := none, job := .none, thenDeploy := false })

/-- R219, R226: a step drive fault. -/
def stepFault (e : DoorEnv) (code : Nat) (value : Int) (w : Work) : Work :=
  let w := stepTorqueRemoved e w
  let w := w.step (fun q => { q with
    gen := q.gen.fail q.position, timer := none, job := .none, thenDeploy := false, faultCode := code
    counters := { q.counters with faults := satInc 16 q.counters.faults } })
  w.stepEvent e 0xE505 code value

/-- The step starts to move: it is no longer retracted, deployed or standing (R210, R213, R217). -/
def stepStarts (w : Work) : Work :=
  w.stepFlags (fun f => { f with homed := false, standing := false, deployed := false, moved := true })

/-- Start a role's context of the step drive for a job; a context that is refused leaves the drive as it is (R118). -/
def stepContext (e : DoorEnv) (role : Nat) (homing : Bool) (job : StepJob) (w : Work) : Work :=
  let q := w.dw.step
  match roleContext e (stepDrive e.d) q.gen role with
  | none => w
  | some (n, x) =>
    let g := q.gen.startContext (stepEnvOf e w.dw homing) n x 0 none homing
    if q.gen.refuses (stepEnvOf e w.dw homing) x 0 homing then w.step (fun q => { q with gen := g })
    else stepStarts (w.step (fun q => { q with gen := g, job := job }))

/-- A homing run that has seen nothing yet. -/
def HomingRun.start (srs : Bool) (mono : Nat) : HomingRun :=
  { transitions := 0, makeCapture := none, srsSeen := false, srsMade := false, srsAtStart := srs, chatter := false, startedAt := mono }

/-- R200: begin the homing phase with the HOME context (role 2) or the CREEP context (role 3). A phase whose context
cannot start is HOMING_CONTEXT (R205). "SRS made at the start" of R223 is taken here, at the start of the phase (DESIGN
CHOICE, note 118). -/
def startHomingPhase (e : DoorEnv) (creep : Bool) (w : Work) : Work :=
  let w := w.step (fun q => { q with run := { HomingRun.start w.dw.srs e.mono with srsSeen := w.dw.srs } })
  let job : StepJob := if creep then .creepHoming else .homing
  let w' := stepContext e (if creep then 3 else 2) true job w
  if w'.dw.step.job = job then w' else stepFault e 0x12 0 w'

/-- R200: a homing: CREEP while the position is lost, else the approach and then the homing phase. -/
def startHoming (e : DoorEnv) (w : Work) : Work :=
  if w.dw.step.flags.lost then startHomingPhase e true w
  else if e.cfg.homeStartPos e.d < w.dw.step.position then stepContext e 1 false .approach w
  else startHomingPhase e false w

/-- R211, R212: start a deployment, by way of a CREEP homing while the position is lost. Without the release permit
nothing starts and the request counts as blocked (R75, R77). -/
def startDeploy (e : DoorEnv) (w : Work) : Work :=
  if !e.cfg.hasStep e.d || w.dw.step.flags.deployed then w
  else if !e.permit then w.emit .releaseBlocked
  else if w.dw.step.flags.lost then (startHomingPhase e true w).step (fun q => { q with thenDeploy := true })
  else stepContext e 0 false .deploying w

/-- A homing or its park is running, or paused for a retry (R217). -/
def StepDrive.retracting (q : StepDrive) : Bool :=
  match q.job with
  | .approach | .homing | .creepHoming | .parking | .retryPause | .toHomeStart => true
  | .none | .deploying | .awaitSds => false

/-- A homing of the step runs, or pauses before its retry; one that was stopped does not (R217). -/
def StepDrive.retractRuns (q : StepDrive) : Bool := q.retracting && (q.gen.state == .moving || q.job == .retryPause)

/-- R217: retract the step, unless it is retracted and has not moved since, or a homing already runs. -/
def startRetract (e : DoorEnv) (w : Work) : Work :=
  let q := w.dw.step
  if !e.cfg.hasStep e.d || (w.dw.stepHomed && !q.flags.moved) then w
  else if q.retractRuns then w.step (fun q => { q with thenDeploy := false })
  else startHoming e (w.step (fun q => { q with thenDeploy := false, retries := 0 }))

/-- R206: the park position: the first register value at or above 64 that lies at a detent. -/
def parkTarget (q : StepDrive) : Int :=
  64 + (q.position - q.elec) % 64

/-- R206: the park move. -/
def startPark (e : DoorEnv) (w : Work) : Work :=
  let q := w.dw.step
  w.step (fun q' => { q' with
    gen := q.gen.moveToTarget (stepEnvOf e w.dw true) (parkTarget q) (e.cfg.homeSpeed e.d) false
    job := .parking })

/-- Table 3.2, R208: the path in progress is complete. A drive that passes to IDLE away from a detent loses its position. -/
def stepCompletes (e : DoorEnv) (w : Work) : Work :=
  let w' := w.step (fun q => { (q.moveTo q.gen.target) with gen := q.gen.complete, resolution := 1, timer := none })
  if w.dw.step.gen.hasTorque && w'.dw.step.gen.torqueless && decide (w'.dw.step.elec % 64 ≠ 0) then stepLose e 2 w' else w'

/-- R206: the park is complete. -/
def finishPark (e : DoorEnv) (w : Work) : Work :=
  let hold := decide (0 < e.cfg.iStepHold e.d)
  let w := w.step (fun q =>
    let q := q.moveTo q.gen.target
    { q with
      gen := (Gen.tracked { q.gen with
        state := if hold then .hold else .idle, path := none, ref := { pos := q.position, vel := 0, acc := 0 } }).correctedTo
          (if q.blank then q.position else q.gen.compare.last)
      job := .none, resolution := 1, timer := none, blank := false, lastHome := e.now, retries := 0
      flags := { q.flags with lost := false, homed := true, standing := false, moved := false }
      counters := { q.counters with homings := satInc 32 q.counters.homings } })
  let r := w.dw.step.run
  let w := w.stepEvent e 0xE501 (bitWord [r.srsSeen || w.dw.srs, r.chatter]) w.dw.step.lastShift
  if w.dw.step.thenDeploy then startDeploy e (w.step (fun q => { q with thenDeploy := false })) else w

/-- R202 to R204: a confirmed stall in the homing phase, the switch having confirmed it or chattered. -/
def homingStall (e : DoorEnv) (onset : Int) (w : Work) : Work :=
  let old := w.dw.step.srsOffset
  let r := w.dw.step.run
  let w := w.step (fun q =>
    let back := q.moveTo onset
    { back with
      position := 0, lastShift := -onset, resolution := 1, timer := none
      gen := (Gen.tracked { q.gen with path := none, state := .hold, ref := { pos := 0, vel := 0, acc := 0 } }).correctedTo 0 })
  let w := match r.chatter, r.makeCapture with
    | false, some m =>
      let off := m - onset
      let w := w.step (fun q => { q with srsOffset := off })
      if (e.cfg.srsOffsetTol e.d : Int) < (off - old).natAbs then
        (w.stepFlags (fun f => { f with shifted := true })).stepEvent e 0xE504 2 off
      else w
    | _, _ => w
  startPark e w

/-- R224, R226: a stall outside the homing phase is counted and sent. -/
def stallCounts (e : DoorEnv) (code : Nat) (onset : Int) (w : Work) : Work :=
  (w.step (fun q => { q with counters := { q.counters with stalls := satInc 32 q.counters.stalls } })).stepEvent e 0xE502 code onset

/-- R218: a retraction obstruction: torque off for the pause, the position lost, one retry counted. -/
def retractionObstructed (e : DoorEnv) (w : Work) : Work :=
  let w := w.step (fun q => { q with counters := { q.counters with retractRetries := satInc 16 q.counters.retractRetries } })
  let w := stepLose e 4 w
  (w.step (fun q => { q with gen := q.gen.off, timer := none, job := .retryPause, retries := q.retries + 1 })).cycleFlags
    (fun f => { f with stepRetried := true })

/-- R214: a failed deployment. The second in one demand reports that the doorway is to close (true). -/
def deployFails (e : DoorEnv) (w : Work) : Work × Bool :=
  if w.dw.step.demandFails = 0 then
    let w := startHoming e (w.step (fun q => { q with demandFails := 1, gen := q.gen.discard }))
    ((w.step (fun q => { q with thenDeploy := true })).cycleFlags (fun f => { f with stepRetried := true }), false)
  else
    let w := w.step (fun q => { q with
      flags := { q.flags with deployFailed := true }, demandFails := 0
      counters := { q.counters with deployFails := satInc 16 q.counters.deployFails } })
    ((startHoming e w).step (fun q => { q with thenDeploy := false }), true)

/-- R214: a confirmed stall during a deployment. -/
def deployStall (e : DoorEnv) (onset : Int) (w : Work) : Work × Bool :=
  let w := stepLose e 4 (stallCounts e 1 onset w)
  deployFails e (w.step (fun q => { q with gen := q.gen.off, timer := none, job := .none }))

/-- R199: what a confirmed stall means by what the step is doing; true asks for the local close of R214. The rule names no
meaning for a stall in the park move or in the move of HOME_STEP MODE 1: the first is counted and sent as one of a
retraction, and the motion goes on; the second is a retraction obstruction (DESIGN CHOICE, note 119). -/
def stepStall (e : DoorEnv) (onset : Int) (w : Work) : Work × Bool :=
  let r := w.dw.step.run
  let seen := r.chatter || r.srsSeen || w.dw.srs
  match w.dw.step.job with
  | .homing => if seen then (homingStall e onset w, false) else (stepFault e 0x10 0 w, false)
  | .creepHoming =>
    if seen then (homingStall e onset w, false)
    else if 0 < w.dw.step.retries ∧ w.dw.step.retries < e.cfg.stepRetries e.d then (retractionObstructed e w, false)
    else (stepFault e 0x10 0 w, false)
  | .deploying | .awaitSds => deployStall e onset w
  | .approach | .toHomeStart => (retractionObstructed e (stallCounts e 2 onset w), false)
  | .none | .parking | .retryPause => (stallCounts e 2 onset w, false)

/-- R213: the step is deployed once SDS is made with the register within DEPLOY_WINDOW of the end position. -/
def checkDeployed (e : DoorEnv) (w : Work) : Work :=
  if w.dw.step.job == .awaitSds && w.dw.sds
      && decide ((w.dw.step.position - w.dw.step.gen.target).natAbs ≤ e.cfg.deployWindow e.d) then
    w.step (fun q => { q with job := .none, demandFails := 0, flags := { q.flags with deployed := true } })
  else w

/-- R213: the DEPLOY context has completed. -/
def deployCompletes (e : DoorEnv) (w : Work) : Work :=
  checkDeployed e ((stepCompletes e w).step (fun q => { q with job := .awaitSds }))

/-- What follows the end of the step drive's path, by its job (R200, R205, R206, R213, R221). -/
def stepPathEnds (e : DoorEnv) (w : Work) : Work :=
  match w.dw.step.job with
  | .deploying => deployCompletes e w
  | .approach | .toHomeStart =>
    let w := stepCompletes e w
    startHomingPhase e w.dw.step.flags.lost w
  | .homing | .creepHoming => stepFault e 0x11 0 (stepCompletes e w)
  | .parking => finishPark e w
  | .none | .awaitSds | .retryPause => stepCompletes e w

/-- R211: a deployment or retraction that the doorway still requires begins again from where the step stands. -/
def stepBeginsAgain (e : DoorEnv) (retract : Bool) (w : Work) : Work :=
  if w.dw.step.gen.state == .fault || !e.cfg.hasStep e.d then w
  else
    let w := w.step (fun q => { q with
      job := .none, timer := none, gen := { q.gen with path := none, ref := { pos := q.position, vel := 0, acc := 0 } } })
    if retract then startRetract e w else startDeploy e w

/-- R211: torque returns or the doorway goes on: a deployment or retraction still required is carried on. -/
def stepCarriesOn (e : DoorEnv) (retract : Bool) (w : Work) : Work :=
  if w.dw.step.gen.state == .moving then w else stepBeginsAgain e retract w

/-- R201, R204: a raw SRS transition in the homing phase. -/
def srsTransition (e : DoorEnv) (make : Bool) (w : Work) : Work :=
  match w.dw.step.job with
  | .homing | .creepHoming =>
    let w := w.step (fun q => { q with run := { q.run with
      transitions := q.run.transitions + 1
      makeCapture := if make && !q.run.srsMade then some q.position else q.run.makeCapture } })
    if w.dw.step.run.transitions = 9 then
      let w := w.step (fun q => { q with
        run := { q.run with chatter := true }, flags := { q.flags with chatter := true }
        counters := { q.counters with chatters := satInc 16 q.counters.chatters } })
      (w.cycleFlags (fun f => { f with stepChatter := true })).stepEvent e 0xE504 1 9
    else w
  | _ => w

end Sys2Proof.Machine
end

