-- ==== Sys2Proof/Machine/DoorOps.lean ====
section
/-!
DEFINITION. The door drive's and the obstacle protection's shared operations on one doorway (chapters 4 and 6): starting
the role motions, seal seek, the index, suspect positions, faults and interruptions, and what a trip records.
-/

namespace Sys2Proof.Machine

/-- The state and phase the doorway's motion is in: its own, or in MAINT those of the operation (R47, R48, R61). -/
def Doorway.course (w : Doorway) : DoorState × Phase :=
  match w.sm.state, w.sm.maint with
  | .maint, some m => (m.shadow, m.phase)
  | st, _ => (st, w.sm.phase)

/-- Table 1.3, Table 3.2: the doorway state takes the door drive off; a reflex stop at D_MAX ends with it. -/
def doorOff (w : Work) : Work :=
  (w.door (fun q => { q with gen := q.gen.off, integ := 0, push := .none, flags := { q.flags with sealSeek := false } })).obstFlags
    (fun f => { f with reflexStop := f.reflexStop && w.dw.door.gen.braked })

/-- The door drive holds at its present reference. -/
def doorHold (e : DoorEnv) (w : Work) : Work :=
  w.door (fun q => { q with gen := q.gen.holdHere (doorEnvOf e w.dw), flags := { q.flags with sealSeek := false } })

/-- A stroke begins when the drive leaves rest (R168): its captures, index comparison, skips and disturbances start afresh,
and ENV_BREAKAWAY_TIME runs (R235). A resume goes on with the stroke that was tripped or interrupted (R244). -/
def strokeStarts (e : DoorEnv) (fromRest resumed : Bool) (w : Work) : Work :=
  let derated := decide (speedScale e.dcLink < 1000)
  let w := w.door (fun q => { q with
    hall := { q.hall with skips := if fromRest then 0 else q.hall.skips }
    makeCapture := if fromRest then none else q.makeCapture
    breakCapture := if fromRest then none else q.breakCapture
    flags := { q.flags with compared := if fromRest then false else q.flags.compared, sealSeek := false }
    push := .none })
  let w := w.obstFlags (fun f => { f with
    breakaway := if fromRest then true else f.breakaway
    disturbed := derated || ((resumed || !fromRest) && f.disturbed), pastMark := false })
  if derated then w.cycleFlags (fun f => { f with derated := true }) else w

/-- Start a role's context of the door drive, from segment `skip` (R111, R124). -/
def doorContext (e : DoorEnv) (role skip : Nat) (w : Work) : Work :=
  let q := w.dw.door
  let rest := q.gen.state != .moving
  match roleContext e (doorDrive e.d) q.gen role with
  | none => w
  | some (n, x) =>
    strokeStarts e rest false (w.door (fun q => { q with gen := q.gen.startContext (doorEnvOf e w.dw) n x skip none false }))

/-- A replanned move of the door drive to a target (R119 to R121). -/
def doorMove (e : DoorEnv) (target : Int) (speed : Nat) (moveTo : Bool) (w : Work) : Work :=
  let rest := w.dw.door.gen.state != .moving
  strokeStarts e rest false (w.door (fun q => { q with gen := q.gen.moveToTarget (doorEnvOf e w.dw) target speed moveTo }))

/-- R172: seal seek begins from the reference position in force. -/
def sealSeekStart (e : DoorEnv) (w : Work) : Work :=
  w.door (fun q => { q with
    gen := Gen.tracked { q.gen with
      state := .moving, path := none, kept := none, remaining := 0
      ref := { pos := (q.gen.present (doorEnvOf e w.dw)).pos, vel := -(e.cfg.vCreep e.d : Int), acc := 0 } }
    sealFrac := 0
    sealStart := doorPos e.cfg e.d q.hall
    flags := { q.flags with sealSeek := true } })

/-- The motion of an entry to OPENING: the OPEN context, or with a suspect position a creep to its end (R171). -/
def doorStartOpen (e : DoorEnv) (w : Work) : Work :=
  let q := w.dw.door
  if q.flags.suspect then
    doorMove e (roleEnd e (doorDrive e.d) q.gen 0 (q.gen.base (doorEnvOf e w.dw)).pos) (e.cfg.vCreep e.d) false w
  else doorContext e 0 0 w

/-- The motion of phase MOVE: the CLOSE context, or the CREEP context before seal seek with a suspect position or an
SE path fault (R171, R229). -/
def doorStartClose (e : DoorEnv) (w : Work) : Work :=
  let q := w.dw.door
  if q.flags.suspect || w.dw.obst.flags.sePathFault then
    let p := (q.gen.base (doorEnvOf e w.dw)).pos
    if p ≤ roleEnd e (doorDrive e.d) q.gen 3 p then
      sealSeekStart e (strokeStarts e (q.gen.state != .moving) false w)
    else doorContext e 3 0 w
  else doorContext e 1 0 w

/-- R126: resume the kept move of the door drive; with a suspect position V_CREEP is the cruise cap (R171). -/
def doorResume (e : DoorEnv) (w : Work) : Work :=
  match w.dw.door.gen.kept with
  | none => w
  | some m =>
    let rest := w.dw.door.gen.state != .moving
    let move := strokeStarts e rest true (w.door (fun q => { q with
      gen := q.gen.moveToTarget (doorEnvOf e w.dw) m.target (if w.dw.door.flags.suspect then e.cfg.vCreep e.d else 0) true }))
    match m.context with
    | none => move
    | some n =>
      match (poolBytes e.pool n.val).bind Context.parse with
      | none => w
      | some x =>
        if w.dw.door.flags.suspect then move
        else strokeStarts e rest true (w.door (fun q => { q with
          gen := q.gen.startContext (doorEnvOf e w.dw) n x m.nextSeg (some m.origin) false }))

/-- R126, R211: resume the kept move of the step drive, or carry a lost one on. -/
def stepResume (e : DoorEnv) (w : Work) : Work :=
  match w.dw.step.gen.kept with
  | none => if w.dw.step.job == .none then w else stepCarriesOn e (w.dw.step.retracting && !w.dw.step.thenDeploy) w
  | some m =>
    let homing := w.dw.step.job == .homing || w.dw.step.job == .creepHoming
    match m.context with
    | none => w.step (fun q => { q with gen := q.gen.moveToTarget (stepEnvOf e w.dw homing) m.target 0 false })
    | some n =>
      match (poolBytes e.pool n.val).bind Context.parse with
      | none => w
      | some x => w.step (fun q => { q with
          gen := q.gen.startContext (stepEnvOf e w.dw homing) n x m.nextSeg (some m.origin) homing })

/-- R170, Table 4.6, R186: the position is marked suspect, once: the flag, event 0xE401, incident cause 10, and any
kept move is discarded (R129). -/
def markSuspect (e : DoorEnv) (code : Nat) (deviation : Int) (w : Work) : Work :=
  if w.dw.door.flags.suspect then w
  else
    let w := w.door (fun q => { q with
      flags := { q.flags with suspect := true, suspectHeld := false }
      gen := q.gen.discard })
    (w.driveEvent e 0xE401 code deviation).emit (.incident 10 false)

/-- R181: a Hall condition marks the position suspect, but not while DCS and DLS have both stayed made. -/
def hallSuspect (e : DoorEnv) (w : Work) : Work :=
  if w.dw.dcs && w.dw.dls then w.doorFlags (fun f => { f with suspectHeld := true }) else markSuspect e 2 0 w

/-- R128, R182, R186: a drive fault of the door drive. -/
def doorFault (e : DoorEnv) (code : Nat) (value : Int) (w : Work) : Work :=
  let w := w.door (fun q => { q with
    gen := q.gen.fail (doorPos e.cfg e.d q.hall), faultCode := code, integ := 0, push := .none
    flags := { q.flags with sealSeek := false }
    counters := { q.counters with faults := satInc 16 q.counters.faults } })
  w.driveEvent e 0xE403 code value

/-- The code of an interruption in the events 0xE404 and 0xE506. -/
def interruptionCode : Interruption → Nat
  | .dcLow => 1 | .dcHigh => 2 | .temperature => 3 | .following => 4 | .hall => 5 | .legSubstitution => 6

/-- R127, R183: an interruption of the door drive. -/
def doorInterrupted (e : DoorEnv) (x : Interruption) (w : Work) : Work :=
  let moving := w.dw.door.gen.state == .moving
  let w := w.door (fun q => { q with
    gen := q.gen.interrupt (doorEnvOf e w.dw) x
    integ := if moving then 0 else q.integ
    flags := { q.flags with
      sealSeek := false
      followError := if x = .following then true else q.flags.followError
      thermalHold := if x = .temperature then true else q.flags.thermalHold }
    counters := { q.counters with interruptions := satInc 16 q.counters.interruptions } })
  let w := (w.obstFlags (fun f => { f with disturbed := true, reflexStop := f.reflexStop && w.dw.door.gen.braked })).driveEvent e
    0xE404 (interruptionCode x) 0
  if moving then (w.emit (.incident 3 false)).emit .flush else w.emit .flush

/-- R127, R208, R220: an interruption of the step drive. -/
def stepInterrupted (e : DoorEnv) (x : Interruption) (w : Work) : Work :=
  let moving := w.dw.step.gen.state == .moving
  let stopped := w.dw.step.gen.interrupt (stepEnvOf e w.dw false) x
  let w := stepTorqueRemoved e w
  let w := w.step (fun q => { q with
    gen := if q.flags.lost then stopped.discard else stopped
    timer := none
    flags := { q.flags with thermalHold := if x = .temperature then true else q.flags.thermalHold }
    counters := { q.counters with interruptions := satInc 16 q.counters.interruptions } })
  let w := w.stepEvent e 0xE506 (interruptionCode x) 0
  if moving then (w.emit (.incident 3 true)).emit .flush else w.emit .flush

/-- R658: the cause of an interruption of the door drive ends; with none left torque returns as the state requires. The end
of an overtemperature is that of THERMAL_HOLD. -/
def doorInterruptionEnds (e : DoorEnv) (x : Interruption) (w : Work) : Work :=
  w.door (fun q => { q with
    gen := q.gen.interruptionEnds (doorEnvOf e w.dw) x
    flags := { q.flags with thermalHold := if x = .temperature then false else q.flags.thermalHold } })

/-- R658: the same for the step drive. -/
def stepInterruptionEnds (e : DoorEnv) (x : Interruption) (w : Work) : Work :=
  w.step (fun q => { q with
    gen := q.gen.interruptionEnds (stepEnvOf e w.dw false) x
    flags := { q.flags with thermalHold := if x = .temperature then false else q.flags.thermalHold } })

/-- R174: a relearn at a seal stall with DCS made: the register is 0 from this sample on. -/
def relearn (e : DoorEnv) (w : Work) : Work :=
  let h := w.dw.door.hall
  let p := doorPos e.cfg e.d h
  let make := match w.dw.door.makeCapture with
    | some t => some (roundDiv ((t - (h.zeroOffset + h.ticks)) * e.cfg.edgePitch e.d) 64)
    | none => w.dw.door.learnt.makePos
  let w := w.door (fun q => { q with
    hall := { q.hall with zeroOffset := q.hall.zeroOffset + q.hall.ticks }
    learnt := { q.learnt with makePos := make, lastShift := -p, lastRelearn := e.now }
    flags := { q.flags with
      suspect := false, suspectHeld := false, sealSeek := false, breakDue := true
      learnt := make.isSome && q.learnt.breakPos.isSome }
    gen := ({ q.gen with ref := { pos := 0, vel := 0, acc := 0 } } : Gen).correctedTo 0
    counters := { q.counters with relearns := satInc 16 q.counters.relearns } })
  (w.cycleFlags (fun f => { f with relearned := true })).driveEvent e 0xE402 0 (-p)

/-- R169: a path in progress from the shifted reference: a segment is re-interpolated over its remaining duration, a
replanned phase replanned to its stated target or join point, and a stop shifted, its end being no stated position. -/
def Path.shifted (p : Path) (ref : Kin) (deviation : Int) (lim : Limits) : Path :=
  if p.stopping then
    { p with start := { p.start with pos := p.start.pos - deviation }, target := p.target - deviation, planTo := p.planTo - deviation }
  else
    let start := if p.fresh then { p.start with pos := p.start.pos - deviation } else ref
    match p.ramps, p.segs with
    | _ :: _, _ => ({ p with start := start, elapsed := 0 }).replanned p.planTo p.planVel p.speed lim
    | [], g :: gs => { p with start := start, elapsed := 0, segs := { g with dur := max 1 (g.dur - p.elapsed) } :: gs }
    | [], [] => { p with start := start }

/-- R169: shift the register and the reference by the deviation; the path in progress goes on from the shifted reference to
its stated ends. That is no crossing of a compare (R133). -/
def indexShift (e : DoorEnv) (deviation : Int) (w : Work) : Work :=
  let ticks := roundDiv (deviation * 64) (e.cfg.edgePitch e.d)
  let old := w.dw.door.gen.flags
  let w := w.door (fun q =>
    let ref := { q.gen.ref with pos := q.gen.ref.pos - deviation }
    let path := q.gen.path.map (fun p => p.shifted ref deviation (limitsFor e.cfg (doorDrive e.d) p.speed p.scale false))
    let marks := match path with
      | some p => if p.fresh then Marks.clear else p.marks
      | none => Marks.clear
    let hall := { q.hall with zeroOffset := q.hall.zeroOffset + ticks }
    { q with
      hall := hall
      gen := ({ q.gen with ref := ref, path := path, flags := q.gen.flags.mark marks } : Gen).correctedTo (doorPos e.cfg e.d hall)
      learnt := { q.learnt with lastCorrection := deviation }
      counters := { q.counters with corrections := satInc 32 q.counters.corrections } })
  let w := if w.dw.door.gen.flags = old then w else w.emit (.event 0xE302 (limitedEvent e w.dw false))
  w.cycleFlags (fun f => { f with indexCorrected := true })

/-! ## Trips -/

/-- R259, R265, R250: what a trip records: its source, position and time. -/
def recordTrip (e : DoorEnv) (source : Nat) (w : Work) : Work :=
  w.obst (fun q => { q with
    lastTripSource := source, lastTripPos := doorPos e.cfg e.d w.dw.door.hall, lastTripTime := e.now })

/-- R271: event 0xE601 for a trip taken: LAST_EFFORT, or W for a final-closure trip. -/
def tripEvent (e : DoorEnv) (w : Work) : Work :=
  let o := w.dw.obst
  let fc := decide (32 ≤ o.lastTripSource % 64 ∧ o.lastTripSource % 64 < 40)
  w.obstEvent e 0xE601 o.lastTripSource w.dw.sm.obstacles (if fc then o.sigEnergy else o.lastEffort)

/-- R250: a final-closure trip is counted and flagged. -/
def countFinalClosure (w : Work) : Work :=
  w.obst (fun q => { q with
    flags := { q.flags with sigTripped := true }
    counters := { q.counters with sigTrips := satInc 16 q.counters.sigTrips } })

/-- The row of a doorway whose sensitive-edge event is present, the lower-numbered first (R265). -/
def edgePresent (e : DoorEnv) (w : Doorway) : Option Nat :=
  if w.obst.seFast.1 then some (2 * e.d.val) else if w.obst.seFast.2 then some (2 * e.d.val + 1) else none

end Sys2Proof.Machine
end

