-- ==== Sys2Proof/Machine/Rowan.lean ====
section
/-!
DEFINITION. Rowan, the force-envelope watch (chapter 6): effort, bins and the limit in force, learning, adaptation, and the
final-closure check. Forces are in 0.1 N, and 2π is taken as 6,283,185,307 / 10^9 (DESIGN CHOICE, note 14).
-/

namespace Sys2Proof.Machine

/-- R230: f_drive for a q current, 0.1 N, positive opening. -/
def driveForce (c : Cfg) (d : DoorIx) (iq : Int) : Int :=
  roundDiv (c.kt d * iq * 6283185307 * c.transEff d * 10) (1000000000 * 100 * max (c.transLead d) 1)

/-- R230: effort in 0.1 N for a q current (mA), a sign of travel, a measured acceleration (µm/s²) and velocity. -/
def effort (c : Cfg) (d : DoorIx) (s iq acc vel : Int) : Int :=
  s * (driveForce c d iq - roundDiv (c.movingMass (doorDrive d) * acc) 100000000)
    - (c.fricCoulomb d + roundDiv (c.fricViscous d * vel.natAbs) 1000000)

/-- R231: the bin of a position. -/
def binOf (c : Cfg) (d : DoorIx) (p : Int) : Nat :=
  (clampInt 0 255 (p * 256 / max (c.envStroke d) 1)).toNat

/-- F_NOM of a bin word (Table 6.1). -/
def binNom (w : Nat) : Int := signedOf 16 (w % 65536)
/-- MARGIN of a bin word. -/
def binMargin (w : Nat) : Nat := (w / 2 ^ 16) % 65536
/-- SIGMA of a bin word. -/
def binSigma (w : Nat) : Nat := (w / 2 ^ 32) % 65536
/-- ADAPT_REF of a bin word. -/
def binAdaptRef (w : Nat) : Int := signedOf 8 ((w / 2 ^ 48) % 256)
/-- VALID of a bin word. -/
def binValid (w : Nat) : Bool := bitOf w 56

/-- A bin word from its fields (Table 6.1). -/
def binWord (nom : Int) (margin sigma : Nat) (adaptRef : Int) (valid capped limited : Bool) : Nat :=
  (nom % 65536).toNat + 2 ^ 16 * (margin % 65536) + 2 ^ 32 * (sigma % 65536) + 2 ^ 48 * (adaptRef % 256).toNat
    + 2 ^ 56 * bitWord [valid, capped, limited]

/-- Table 4.3 in phase LOCK: the opening and closing limits by what the attempt does. -/
def lockLimits (c : Cfg) (d : DoorIx) : LockPush → Nat × Nat
  | .pushing => (0, c.iLockPush d)
  | .holding => (0, c.iHold d)
  | .relaxing | .none => (0, 0)

/-- R161, Table 4.3: the rows of opening and closing limits that apply, beside the one of motion and holding; a reopen that
is blocked holds with both at zero (R263). -/
def limitRows (e : DoorEnv) (w : Doorway) : List (Nat × Nat) :=
  let c := e.cfg
  let q := w.door
  let co := w.course
  let row (applies : Bool) (r : Nat × Nat) : List (Nat × Nat) := if applies then [r] else []
  row q.gen.lowForce (c.iLow e.d, c.iLow e.d)
    ++ row q.flags.sealSeek (c.iLow e.d, c.iSeal e.d)
    ++ row (co.1 == .unlocking) (0, c.iPreload e.d)
    ++ row (co == (.closing, .lock)) (lockLimits c e.d q.push)
    ++ row (co.1 == .closedUnlocked) (0, c.iHold e.d)
    ++ row q.flags.thermalHold (c.iLow e.d, c.iLow e.d)
    ++ row (w.obst.flags.reopenHeld && (co.1 == .reopening || co.1 == .obstructed)) (0, 0)

/-- R161: the opening and closing current limits: the lowest that apply, times the thermal factor. -/
def currentLimits (e : DoorEnv) (w : Doorway) : Nat × Nat :=
  let low := (limitRows e w).foldl (fun (a r : Nat × Nat) => (min a.1 r.1, min a.2 r.2)) (e.cfg.iLimit e.d, e.cfg.iLimit e.d)
  let k := thermalFactor w.door.bridgeTemp
  (low.1 * k / 1000, low.2 * k / 1000)

/-- R232: c_eff for the direction of s. -/
def effortCeiling (e : DoorEnv) (w : Doorway) (s : Int) : Int :=
  let i := currentLimits e w
  min (e.cfg.forceCeiling e.d : Int)
    (roundDiv ((driveForce e.cfg e.d (if 0 < s then i.1 else i.2) - e.cfg.fricCoulomb e.d) * 10) 11)

/-- R232: the limit in force for a bin, with the scale k of the running path and the baseplate temperature. -/
def effortLimit (e : DoorEnv) (w : Doorway) (s temp : Int) : Int :=
  let ceil := effortCeiling e w s
  let env := if 0 < s then w.obst.openEnv else w.obst.closeEnv
  let bw := env.bins.getD (binOf e.cfg e.d (doorPos e.cfg e.d w.door.hall)) 0
  if ceilingOnly w || !binValid bw then ceil
  else
    let k : Int := w.door.gen.scale e
    let nom := roundDiv (binNom bw * (100000 - e.cfg.envSpeedCoef e.d * (1000 - k))) 100000
      + roundDiv (e.cfg.envTempCoef e.d * (w.obst.signature.tLearn - temp)) 100
    min ceil (nom + binMargin bw)

/-- R244: a value moved by a 64th of the way to a measured one, and held within a tenth of its value at the window's start;
whether it was held. -/
def adapted (ref old new : Int) : Int × Bool :=
  let next := old + roundDiv (new - old) 64
  let lo := min (roundDiv (ref * 9) 10) (roundDiv (ref * 11) 10)
  let hi := max (roundDiv (ref * 9) 10) (roundDiv (ref * 11) 10)
  (clampInt lo hi next, decide (clampInt lo hi next ≠ next))

/-- R244: one bin adapted by the highest effort of the stroke, the bin's learnt nominal and the temperature term; CAPPED as
F_NOM + MARGIN exceeds FORCE_CEILING (Table 6.1). -/
def adaptBin (c : Cfg) (d : DoorIx) (learnt eff : Int) (w : Nat) : Nat × Bool :=
  if !binValid w then (w, false)
  else
    let x := adapted (roundDiv (learnt * (100 + binAdaptRef w)) 100) (binNom w) eff
    let fin := min x.1 ((c.forceCeiling d : Int) - binMargin w)
    let capped := decide (fin < x.1)
    (binWord fin (binMargin w) (binSigma w) (binAdaptRef w) true (bitOf w 57 || capped) (bitOf w 58 || x.2 || capped), x.2 || capped)

/-- R244 over every bin, with the efforts measured in the stroke. -/
def adaptBins (e : DoorEnv) (tLearn : Int) : Nat → List Int → List Nat → List (Nat × Bool)
  | _, _, [] => []
  | n, ls, w :: ws =>
    let t := Config.measured .baseplate (e.free + n)
    let eff := Config.measured .effort (e.free + n) - roundDiv (e.cfg.envTempCoef e.d * (tLearn - t)) 100
    adaptBin e.cfg e.d (ls.headD 0) eff w :: adaptBins e tLearn (n + 1) (ls.drop 1) ws

/-- The index of the first clamped bin. -/
def firstLimited : Nat → List (Nat × Bool) → Option Nat
  | _, [] => none
  | n, (_, l) :: r => if l then some n else firstLimited (n + 1) r

/-- R245: the window ends: ADAPT_REF of every bin is its present F_NOM, as a percentage of the learnt one less 100. -/
def restartWindow (env : Envelope) : Envelope :=
  { env with
    windowUsed := 0, limitedSent := false
    bins := List.zipWith (fun w l =>
      if binValid w then
        binWord (binNom w) (binMargin w) (binSigma w) (if l = 0 then 0 else roundDiv (binNom w * 100 * sgn l) l.natAbs - 100)
          true (bitOf w 57) false
      else w) env.bins env.learntNom }

/-- R248: after an adapted close W_SIG and each SIG_RATIO(j) move as a bin does, within the same bound; N_CLOSE does not.
The bound acting on them marks no bin and sends no event (DESIGN CHOICE, note 120). -/
def Signature.adapt (free : Nat) (g : Signature) : Signature :=
  { g with
    wSig := (adapted g.wRef g.wSig (Config.measured .closeEnergy free)).1.toNat
    ratios := (List.range 64).map (fun j =>
      (adapted (g.ratioRefs.getD j 0) (g.ratios.getD j 0) (Config.measured .hallRatio (free + j))).1.toNat) }

/-- R244, R248: after a completed stroke the envelope of its direction, and with a close the signature, adapt; not while the
envelope is being learnt, when the previous one stays in force (R242). -/
def adaptStroke (e : DoorEnv) (closing : Bool) (w : Work) : Work :=
  let o := w.dw.obst
  if e.cfg.envAdapt e.d = 1 ∧ o.flags.envLearnt ∧ !o.flags.disturbed ∧ !w.dw.door.flags.suspect
      ∧ !o.flags.learnRunning then
    let env := if closing then o.closeEnv else o.openEnv
    let res := adaptBins e o.signature.tLearn 0 env.learntNom env.bins
    let hit := firstLimited 0 res
    let env' : Envelope := { env with bins := res.map (·.1), windowUsed := env.windowUsed + 1
                                      limitedSent := env.limitedSent || hit.isSome }
    let sig := if closing ∧ o.flags.sigLearnt then o.signature.adapt e.free else o.signature
    let sig := { sig with adaptStrokes := satInc 32 sig.adaptStrokes }
    let w := w.obst (fun q => { q with
      closeEnv := if closing then env' else q.closeEnv
      openEnv := if closing then q.openEnv else env'
      signature := sig
      flags := { q.flags with adaptLimited := q.flags.adaptLimited || hit.isSome } })
    match hit with
    | some b =>
      if env.limitedSent then w
      else w.obstEvent e 0xE605 (if closing then 1 else 2) b (binNom ((res.map (·.1)).getD b 0))
    | none => w
  else w

/-- The mean and the standard deviation of eight values (R241). -/
def meanOf (vs : List Int) : Int := roundDiv (vs.foldl (· + ·) 0) 8
/-- Standard deviation with divisor 8 (R241). -/
def sigmaOf (vs : List Int) : Nat :=
  let m := meanOf vs
  isqrt ((vs.foldl (fun a v => a + (v - m) * (v - m)) 0) / 8).toNat

/-- The eight highest efforts of one bin over the kept cycles: free values, n being the bin's number. -/
def learnSamples (free n : Nat) : List Int :=
  [0, 1, 2, 3, 4, 5, 6, 7].map (fun c => Config.measured .effort (free + 8 * n + c))

/-- R241: one learnt bin. -/
def learnBin (e : DoorEnv) (n : Nat) : Nat :=
  let vs := learnSamples e.free n
  let nom := meanOf vs
  let sg := sigmaOf vs
  let margin := max (e.cfg.envMarginMin e.d) (e.cfg.envK e.d * sg / 10)
  let valid := decide (Config.measured .visited (e.free + n) ≠ 0)
  binWord nom margin sg 0 valid (decide ((e.cfg.forceCeiling e.d : Int) < nom + margin)) false

/-- R241: the bins from a number on. -/
def learnBins (e : DoorEnv) : Nat → Nat → List Nat
  | 0, _ => []
  | k + 1, n => learnBin e n :: learnBins e k (n + 1)

/-- The highest SIGMA of the valid bins. -/
def maxSigma (ws : List Nat) : Nat := ws.foldl (fun a w => if binValid w then max a (binSigma w) else a) 0

/-- Bins marked CAPPED. -/
def cappedCount (ws : List Nat) : Nat := (ws.filter (fun w => bitOf w 57)).length

/-- A freshly learnt envelope. -/
def Envelope.learnt (ws : List Nat) : Envelope :=
  { bins := ws, saved := ws, learntNom := ws.map binNom, windowUsed := 0, limitedSent := false }

/-- R241, R242: the commitment point of ENVELOPE_LEARN, or its refusal for scatter. -/
def learnCommits (e : DoorEnv) (w : Work) : Work × Bool :=
  let cl := learnBins e 256 0
  let op := learnBins e 256 256
  let sg := max (maxSigma cl) (maxSigma op)
  if e.cfg.envSigmaMax e.d < sg then (w, false)
  else
    let wsig := (Config.measured .closeEnergy e.free).toNat
    let ratios := (List.range 64).map (fun j => (Config.measured .hallRatio (e.free + j)).toNat)
    let w := w.obst (fun q => { q with
      closeEnv := Envelope.learnt cl, openEnv := Envelope.learnt op
      signature :=
        { tLearn := Config.measured .baseplate e.free, learnTime := e.now, wSig := wsig
          nClose := (Config.measured .edgeCount e.free).toNat
          ratios := ratios, wRef := wsig, ratioRefs := ratios, adaptStrokes := 0 }
      flags := { q.flags with envLearnt := true, sigLearnt := true }
      counters := { q.counters with learns := satInc 16 q.counters.learns } })
    (w.obstEvent e 0xE603 0 sg wsig, true)

/-- R238, R247: the final-closure check applies to a close of the doorway. -/
def closureApplies (e : DoorEnv) (w : Doorway) : Bool :=
  decide (e.cfg.sigEnable e.d = 1) && w.obst.flags.sigLearnt && !w.door.flags.suspect && !w.obst.flags.learnRunning

/-- SIG_ENERGY after a checked close: its W, which is measured (Table 6.10). -/
def closureMeasured (e : DoorEnv) (w : Work) : Work :=
  if closureApplies e w.dw && w.dw.obst.flags.pastMark then
    let x := (Config.measured .closeEnergy e.free).toNat
    (w.obst (fun q => { q with sigEnergy := x })).cyc (fun c => { c with sigEnergy := x })
  else w

/-- R247, Table 6.2: whether a measured criterion trips the final-closure check. -/
def finalClosureTrips (c : Cfg) (d : DoorIx) (o : Obstacle) : FinalClosure → Bool
  | .energy w => decide (o.signature.wSig * (100 + c.sigEnergyTol d) / 100 + c.sigEnergyFloor d < w)
  | .timing j r => decide (o.signature.ratios.getD (min j 63) 0 * (100 + c.sigTimeTol d) < r * 100)
  | .count n => decide (n < o.signature.nClose)

/-- The number of a criterion in LAST_TRIP_SOURCE (Table 6.10). -/
def FinalClosure.number : FinalClosure → Nat
  | .energy _ => 1 | .timing _ _ => 2 | .count _ => 3

end Sys2Proof.Machine
end

