-- ==== Sys2Proof/Machine/DoorMachine.lean ====
section
/-!
DEFINITION. The doorway state machine (chapter 1): the transitions of Table 1.6 with their entries, settling, maintenance,
trips, and one tick of the priority order of Table 1.5.
-/

namespace Sys2Proof.Machine

/-- The action a Quince row holds for a column: the image's map word, or the default map of Table 6.6 (R252, R253). -/
def reflexAction (c : Cfg) (row : RowIx) (col : DriveIx) : Action :=
  match c.reflexRow row with
  | some w => Action.ofCode (w / 4 ^ col.val)
  | none =>
    let own := (doorOf col).val
    let r := row.val
    if r < 16 then (if r / 2 = own ∧ !isStep col then .shortBrake else .none)
    else if r < 32 then
      (if (r - 16) / 2 = own ∧ !isStep col then (if r % 2 = 0 then .shortBrake else .torqueOff) else .none)
    else if r < 40 then (if r - 32 = own ∧ !isStep col then .reversal else .none)
    else if r < 56 then (if (r - 40) / 2 = own then .torqueOff else .none)
    else if r = 57 ∨ r = 58 ∨ r = 59 ∨ r = 60 ∨ r = 63 then .torqueOff
    else .none

/-! ## Cycles -/

/-- R504: the time spent in the course being left is added to the cycle's durations. -/
def cycleAccount (e : DoorEnv) (w : Work) : Work :=
  let dt := e.mono - w.dw.sm.since
  let co := w.dw.course
  w.cyc (fun c =>
      match co.1, co.2 with
      | .unlocking, _ => { c with tUnlock := satAdd 32 c.tUnlock dt }
      | .opening, _ => { c with tOpen := satAdd 32 c.tOpen dt }
      | .opened, _ => { c with tHold := satAdd 32 c.tHold dt }
      | .closing, .warn => { c with tWarn := satAdd 32 c.tWarn dt }
      | .closing, .move => { c with tClose := satAdd 32 c.tClose dt }
      | .reopening, _ => { c with tClose := satAdd 32 c.tClose dt }
      | .closing, .lock => { c with tLock := satAdd 32 c.tLock dt }
      | .closedUnlocked, _ => { c with tLock := satAdd 32 c.tLock dt }
      | _, _ => c)

/-- No CYCLE_FLAGS set but TIME_INVALID (Table 13.3). -/
def CycleFlags.fresh (timeValid : Bool) : CycleFlags :=
  { reopened := false, obstructed := false, egress := false, stopped := false, indexCorrected := false
    relearned := false, derated := false, lockRetried := false, stepChatter := false, stepRetried := false
    segmentMark := false, incident := false, timeStepped := false, timeInvalid := !timeValid, continued := false }

/-- R502: a cycle of a type begins now. -/
def cycleStart (e : DoorEnv) (type : Nat) (w : Work) : Work :=
  w.setCycle (some
    { start := e.now, startMono := e.mono, type := type, flags := CycleFlags.fresh e.timeValid
      tUnlock := 0, tOpen := 0, tHold := 0, tWarn := 0, tClose := 0, tLock := 0, obstacles := 0, sigEnergy := 0 })

/-- R502: a cycle begins where none is open. -/
def cycleBegin (e : DoorEnv) (type : Nat) (w : Work) : Work :=
  if w.dw.cycle.isSome then w else cycleStart e type w

/-- R503: the cycle in progress ends and its record is staged. -/
def cycleEnd (endState : Nat) (w : Work) : Work :=
  match w.dw.cycle with
  | none => w
  | some c => (w.setCycle none).emit (.cycleRecord c endState)

/-- Table 13.2: the cycle type of a maintenance operation. -/
def MaintOp.cycleType : MaintOp → Nat
  | .test _ => 2 | .learn => 3 | .home _ => 4 | .update => 6 | .selftest _ => 7

/-- R46: the cause of an entry to MAINT (Table 1.17). -/
def MaintOp.cause : MaintOp → Cause
  | .test _ => .maintTest | .learn => .maintLearn | .home _ => .maintHome | .update => .maintUpdate
  | .selftest _ => .maintSelftest

/-! ## Entering a state -/

/-- What every entry to a state does to the counters, flags, cycle and records (R64, R267, R502, R506, R512). -/
def entryMarks (e : DoorEnv) (st : DoorState) (old : DoorState) (oldPhase : Phase) (w : Work) : Work :=
  match st with
  | .locked | .released =>
    let w := if ((old = .closing ∧ oldPhase = .lock) ∨ old = .closedUnlocked ∨ old = .maint) ∧ w.dw.sm.flags.openedSince then
        w.count (fun c => { c with cycles := satInc 32 c.cycles }) else w
    let w := w.sm (fun m => { m with
      flags := { m.flags with openedSince := if old = .released ∨ old = .locked then m.flags.openedSince else false }
      edges := { m.edges with auto := decide (st = .released) && decide (e.cfg.openMode e.d = 1) } })
    cycleEnd st.code w
  | .isolated => cycleEnd st.code w
  | .fault => ((cycleEnd st.code w).emit (.incident 2 (decide (w.dw.sm.cause = .faultStep)))).emit .flush
  | .egress =>
    ((w.count (fun c => { c with egressEvents := satInc 16 c.egressEvents })).cycleFlags
      (fun f => { f with egress := true })).emit (.incident 5 false)
  | .closedUnlocked =>
    ((w.count (fun c => { c with lockFails := satInc 16 c.lockFails })).smFlags
      (fun f => { f with lockFailed := true })).emit (.incident 4 false)
  | .opening => (w.sm (fun m => { m with obstacles := 0 })).smFlags (fun f => { f with openedSince := true, openComplete := false })
  | .opened => w.sm (fun m => { m with obstacles := 0 })
  | .reopening => w.cycleFlags (fun f => { f with reopened := true })
  | .obstructed => w.cycleFlags (fun f => { f with obstructed := true })
  | .stopped => w.cycleFlags (fun f => { f with stopped := true })
  | .closing => if old = .obstructed then w.sm (fun m => { m with obstacles := 0 }) else w
  | .unlocking | .maint => w

/-- R182, R219, Table 3.2: the doorway leaves FAULT: the hardware trips of both drives are unlatched, and a drive in FAULT
is IDLE. -/
def leaveFault (w : Work) : Work :=
  ((w.door (fun q => { q with gen := q.gen.leaveFault, faultCode := 0 })).step
    (fun q => { q with gen := q.gen.leaveFault, faultCode := 0 })).emit .tripsEnd

/-- R34, R66: the doorway takes a state and phase; the cause stays in force where the trigger has none. -/
def enter (e : DoorEnv) (st : DoorState) (ph : Phase) (cause : Option Cause) (w : Work) : Work :=
  let old := w.dw.sm.state
  let oldPhase := w.dw.sm.phase
  let w := cycleAccount e w
  let w := match st with
    | .unlocking => cycleBegin e 1 w
    | .opening => cycleBegin e 1 w
    | .closing => cycleBegin e 5 w
    | .maint => match w.dw.sm.maint with
      | some m => cycleBegin e m.op.cycleType w
      | none => w
    | _ => w
  let w := w.sm (fun m => { m with
    state := st, phase := ph, cause := cause.getD m.cause
    prev := if st = old then m.prev else old
    entered := if st = old then m.entered else e.now
    since := e.mono })
  if st = old then w
  else entryMarks e st old oldPhase (if old = .fault then leaveFault w else w)

/-- The motion of a maintenance operation takes a state and phase within MAINT. -/
def maintCourse (e : DoorEnv) (st : DoorState) (ph : Phase) (w : Work) : Work :=
  let w := cycleAccount e w
  w.sm (fun m => { m with since := e.mono, maint := m.maint.map (fun q => { q with shadow := st, phase := ph }) })

/-- Take a state and phase, within MAINT while a maintenance operation runs. -/
def goTo (e : DoorEnv) (st : DoorState) (ph : Phase) (cause : Option Cause) (w : Work) : Work :=
  if w.dw.sm.state = .maint then maintCourse e st ph w else enter e st ph cause w

/-- R48: a maintenance operation ends with an outcome of R55 and a REASON. -/
def maintStops (outcome reason : Nat) (w : Work) : Work :=
  match w.dw.sm.maint with
  | none => w
  | some m =>
    ((w.sm (fun q => { q with maint := none })).obstFlags (fun f => { f with learnRunning := false })).emit
      (.maintEnd m outcome reason)

/-! ## Entries of Table 1.6 -/

/-- The lock solenoid channel's command: on in UNLOCKING and the first part of OPENING (R176). -/
def solenoidOn (w : Doorway) : Bool :=
  (w.course.1 == .unlocking || w.course.1 == .opening) && !w.sm.flags.solenoidOff

/-- LOCKED or RELEASED by the release condition. -/
def closedRest (e : DoorEnv) (w : Work) : DoorState :=
  if e.release && !w.dw.sm.flags.isolatedByCmd && !w.dw.inp.flags.commonFault then .released else .locked

/-- A close has ended locked and retracted: RELEASED or LOCKED (Table 1.6), the cause kept (R66). -/
def finishClosed (e : DoorEnv) (w : Work) : Work :=
  doorOff (enter e (closedRest e w) .none none w)

/-- A return from UNLOCKING to LOCKED or RELEASED: the grace of R216 runs and the step is brought back (Table 1.3). -/
def backFromUnlocking (e : DoorEnv) (cause : Option Cause) (w : Work) : Work :=
  let w := enter e (closedRest e w) .none cause w
  let w := w.smFlags (fun f => { f with grace := true, solenoidOff := true })
  startRetract e (doorOff w)

/-- Entry to CLOSING phase LOCK (R177, R178, R217, R267). -/
def enterLock (e : DoorEnv) (w : Work) : Work :=
  let w := goTo e .closing .lock none w
  let w := w.sm (fun m => { m with obstacles := 0, flags := { m.flags with dlsConfirmed := false, solenoidOff := true } })
  let w := doorHold e w
  let w := w.door (fun q => { q with push := .pushing, attempt := 1, attemptAt := e.mono, gen := q.gen.discard })
  startRetract e (w.obstFlags (fun f => { f with pastMark := false }))

/-- CLOSING phase MOVE has reached the closed position: the close adapts the envelope and phase LOCK begins. -/
def strokeEnds (e : DoorEnv) (w : Work) : Work := enterLock e (adaptStroke e true (closureMeasured e w))

/-- Phase LOCK ends once DLS is confirmed, and CLOSED_UNLOCKED once it is made, with the step retracted and homed (R217). -/
def lockProven (e : DoorEnv) (w : Work) : Bool :=
  w.dw.dls && (w.dw.sm.flags.dlsConfirmed || w.dw.sm.state == .closedUnlocked) && stepRetracted e w.dw && w.dw.step.job == .none

/-! ## Reflex stop and reopen (R261 to R263) -/

/-- R261: no motion starts during a reflex stop; that of the state then in force begins as it ends. -/
def unlessReflexStop (f : Work → Work) (w : Work) : Work := if w.dw.obst.flags.reflexStop then w else f w

/-- R263: the reopen motion is not started. -/
def reopenBlocked (e : DoorEnv) (w : Doorway) : Bool := !e.permit && (inClosedWindow e w || w.dcs)

/-- REOPENING passes to phase DWELL. -/
def enterDwell (e : DoorEnv) (w : Work) : Work :=
  if w.dw.sm.state = .reopening then enter e .reopening .reopenDwell none w else w

/-- R262: the target of a partial reopen. -/
def reopenTarget (e : DoorEnv) (w : Doorway) : Int :=
  min (w.obst.lastTripPos + e.cfg.reopenDistance e.d)
    (roleEnd e (doorDrive e.d) w.door.gen 0 (w.door.gen.base (doorEnvOf e w)).pos)

/-- R77, R171, R262, R263: the reopen motion from the measured state. -/
def reopenMotion (e : DoorEnv) (w : Work) : Work :=
  let w := w.door (fun q => { q with gen := { q.gen with flags := { q.gen.flags with tracking := true } } })
  let here := (doorKin e w.dw).pos
  if reopenBlocked e w.dw then
    (enterDwell e (doorHold e (w.obstFlags (fun f => { f with reopenBlocked := true, reopenHeld := true })))).emit .releaseBlocked
  else if e.cfg.reopenMode e.d = 0 then
    if w.dw.door.flags.suspect then
      doorMove e (roleEnd e (doorDrive e.d) w.dw.door.gen 2 here) (e.cfg.vCreep e.d) false w
    else doorContext e 2 0 w
  else if reopenTarget e w.dw ≤ here then enterDwell e (doorHold e w)
  else doorMove e (reopenTarget e w.dw) (if w.dw.door.flags.suspect then e.cfg.vCreep e.d else 0) false w

/-- R261: the motion of the state in force begins from the measured state when the reflex stop ends; a doorway that was
stopped meanwhile keeps no move (R126: no path of the reopen had started). -/
def afterReflexStop (e : DoorEnv) (w : Work) : Work :=
  let ended := w.dw.obst.flags.reopenOver
  let w := w.obstFlags (fun f => { f with reflexStop := false, reopenOver := false })
  match w.dw.sm.state, w.dw.sm.phase with
  | .reopening, .reopenMove => if ended then enterDwell e (doorHold e w) else reopenMotion e w
  | .obstructed, _ => reopenMotion e w
  | .opening, _ => doorStartOpen e w
  | .closing, .move => doorStartClose e w
  | .closing, _ => doorHold e w
  | .stopped, _ => w.door (fun q => { q with gen := q.gen.standStopped (doorEnvOf e w.dw), integ := 0 })
  | _, _ => w

/-- R261: the reflex stop begins. Under a torque reflex the path is over and the drive tracks until the leaves are slow; else
the drive stops at D_MAX, and a drive at rest has nothing to stop. No move is kept. -/
def reflexStopStart (e : DoorEnv) (w : Work) : Work :=
  let w := w.obstFlags (fun f => { f with reflexStop := true, reopenHeld := false })
  if w.dw.door.gen.braked then
    w.door (fun q => { q with gen := Gen.tracked { q.gen with path := none, kept := none, remaining := 0 }
                              flags := { q.flags with sealSeek := false } })
  else if w.dw.door.gen.state = .moving then
    w.door (fun q => { q with gen := { (q.gen.stop (doorEnvOf e w.dw) true) with kept := none }
                              flags := { q.flags with sealSeek := false } })
  else afterReflexStop e w

/-- R266 to R268, R261: a reflex or final-closure trip taken in CLOSING phase MOVE. -/
def tripClosing (e : DoorEnv) (w : Work) : Work :=
  let n := w.dw.sm.obstacles + 1
  let w := w.sm (fun m => { m with obstacles := n })
  if n < e.cfg.obstacleLimit e.d then
    reflexStopStart e (enter e .reopening .reopenMove (some .obstacleClosing) (tripEvent e w))
  else
    let w := enter e .obstructed .none (some .obstacleClosing) (tripEvent e w)
    let w := w.obst (fun q => { q with counters := { q.counters with obstructions := satInc 16 q.counters.obstructions } })
    reflexStopStart e (w.obstEvent e 0xE602 0 (e.cfg.obstacleLimit e.d) 0)

/-- R265: the trip raised again on entry to phase MOVE, which latches no Quince action. -/
def raiseAgain (e : DoorEnv) (row : Nat) (w : Work) : Work :=
  let w := recordTrip e row w
  let w := w.obst (fun q => { q with counters := { q.counters with seTrips := satInc 32 q.counters.seTrips } })
  let w := w.count (fun c => { c with obstacles := satInc 32 c.obstacles })
  let w := w.cyc (fun c => { c with obstacles := satInc 8 c.obstacles })
  tripClosing e w

/-- Entry to CLOSING phase MOVE (R265, R126, Table 3.3); a close that is to creep continues no kept move (R171, R229). -/
def enterMove (e : DoorEnv) (w : Work) : Work :=
  let w := goTo e .closing .move none w
  let blocked := (edgePresent e w.dw).filter (fun r =>
    if h : r < 64 then decide (reflexAction e.cfg ⟨r, h⟩ (doorDrive e.d) ≠ .none) else false)
  match blocked with
  | some r =>
    if w.dw.sm.state = .maint then
      let w := maintStops 3 0 w
      raiseAgain e r (enter e .closing .move none w)
    else raiseAgain e r w
  | none =>
    unlessReflexStop (fun w =>
      if w.dw.door.gen.kept.isSome && !w.dw.door.flags.suspect && !w.dw.obst.flags.sePathFault then doorResume e w
      else doorStartClose e w) w

/-- Entry to CLOSING phase WARN (R37, R38); a resumed close keeps its move. -/
def enterWarn (e : DoorEnv) (cause : Option Cause) (resumed : Bool) (w : Work) : Work :=
  let w := goTo e .closing .warn cause w
  let w := w.sm (fun m => { m with interrupted := none, flags := { m.flags with solenoidOff := true } })
  if e.cfg.preCloseWarn e.d = 0 then enterMove e (if resumed then w else w.door (fun q => { q with gen := q.gen.discard }))
  else if resumed then w
  else unlessReflexStop (fun w =>
    if w.dw.door.gen.state = .moving then w.door (fun q => { q with gen := q.gen.bringToRest (doorEnvOf e w.dw) })
    else doorHold e (w.door (fun q => { q with gen := q.gen.discard }))) w

/-- Entry to UNLOCKING (Table 4.5, R212). -/
def enterUnlocking (e : DoorEnv) (cause : Cause) (w : Work) : Work :=
  let w := goTo e .unlocking .none (some cause) w
  let w := w.smFlags (fun f => { f with solenoidOff := false, grace := false })
  let w := doorHold e w
  let w := w.step (fun q => { q with demandFails := 0 })
  let w := if e.permit then w else w.emit .releaseBlocked
  if e.cfg.stepSequence e.d = 0 then startDeploy e w else w

/-- A deployment, or the homing before it, is under way (R212, R214). -/
def StepDrive.deployRuns (q : StepDrive) : Bool :=
  (q.job == .deploying && q.gen.state == .moving) || q.job == .awaitSds || (q.retractRuns && q.thenDeploy)

/-- Entry to OPENING (Table 3.3, R171, R176, R212, R662). -/
def enterOpening (e : DoorEnv) (cause : Option Cause) (w : Work) : Work :=
  let fromUnlocking := w.dw.course.1 == .unlocking
  let w := goTo e .opening .none cause w
  let w := w.sm (fun m => { m with
    interrupted := none, obstacles := 0
    flags := { m.flags with
      openComplete := false, openedSince := true
      solenoidOff := if fromUnlocking then m.flags.solenoidOff else !w.dw.dcs } })
  let w := if w.dw.step.flags.deployed || fromUnlocking then w else w.step (fun q => { q with demandFails := 0 })
  let w := unlessReflexStop (doorStartOpen e) w
  if w.dw.step.deployRuns then w else startDeploy e w

/-- OPENING to OPEN once the open context is complete and the step is deployed (R212, R662). -/
def tryOpened (e : DoorEnv) (w : Work) : Work :=
  if w.dw.course.1 == .opening && w.dw.sm.flags.openComplete && stepDeployed e w.dw then
    goTo e .opened .none none (adaptStroke e false (w.sm (fun m => { m with obstacles := 0 })))
  else w

/-- R125: both drives stop; the integrator is cleared where the door drive passes to STOPPED_MID at once (R160). -/
def stopDrives (e : DoorEnv) (quick : Bool) (w : Work) : Work :=
  let w := unlessReflexStop (fun w => w.door (fun q => { q with
    gen := q.gen.stop (doorEnvOf e w.dw) quick, flags := { q.flags with sealSeek := false }, push := .none
    integ := if q.gen.state = .hold then 0 else q.integ })) w
  w.step (fun q => { q with
    gen := q.gen.stop (stepEnvOf e w.dw (w.dw.step.job == .homing || w.dw.step.job == .creepHoming)) quick })

/-- A stop demand with its cause (R54, R125, Table 1.6). -/
def doStop (e : DoorEnv) (cause : Cause) (quick : Bool) (w : Work) : Work :=
  match w.dw.sm.state, w.dw.sm.phase with
  | .unlocking, _ => backFromUnlocking e (some cause) w
  | .opened, _ =>
    let w := enter e .stopped .none (some cause) w
    stopDrives e quick (w.sm (fun m => { m with interrupted := none }))
  | .opening, ph | .reopening, ph =>
    let st := w.dw.sm.state
    let w := enter e .stopped .none (some cause) w
    stopDrives e quick (w.sm (fun m => { m with interrupted := some (st, ph), flags := { m.flags with solenoidOff := true } }))
  | .closing, .lock => w
  | .closing, ph =>
    let w := enter e .stopped .none (some cause) w
    stopDrives e quick (w.sm (fun m => { m with interrupted := some (.closing, ph) }))
  | _, _ => w

/-- Whether STOPPED keeps a move to resume (R126, R40). -/
def Doorway.canResume (w : Doorway) : Bool :=
  w.sm.state == .stopped && w.sm.interrupted.isSome && (w.door.gen.resumable || w.step.gen.resumable)

/-- A resume from STOPPED (Table 1.6, R37, R66). -/
def doResume (e : DoorEnv) (w : Work) : Work :=
  if !w.dw.canResume then w
  else match w.dw.sm.interrupted with
    | some (.closing, _) => stepResume e (enterWarn e none true w)
    | some (st, ph) =>
      let w := enter e st ph none w
      stepResume e (doorResume e (w.sm (fun m => { m with interrupted := none })))
    | none => w

/-- An open demand is ignored, and counted (R30). -/
def ignoreOpen (w : Work) : Work :=
  (w.smFlags (fun f => { f with openIgnored := true })).count
    (fun c => { c with ignoredDemands := satInc 16 c.ignoredDemands })

/-- A pushbutton transition other than an open demand is ignored, and counted. -/
def ignoreButton (w : Work) : Work :=
  w.count (fun c => { c with ignoredDemands := satInc 16 c.ignoredDemands })

/-- An open demand (R30, Table 1.6). -/
def doOpen (e : DoorEnv) (cause : Cause) (w : Work) : Work :=
  if !e.openAllowed then ignoreOpen w
  else match w.dw.sm.state, w.dw.sm.phase with
    | .released, _ => enterUnlocking e cause w
    | .closing, .warn | .closing, .move =>
      if e.cfg.reopenOnDemand e.d = 1 then enterOpening e (some cause) w else ignoreOpen w
    | .reopening, _ | .obstructed, _ | .closedUnlocked, _ | .stopped, _ => enterOpening e (some cause) w
    | .egress, _ | .isolated, _ | .fault, _ | .maint, _ => ignoreOpen w
    | _, _ => w

/-- A local close (Table 1.6); the cause 0x22 stays in force from OBSTRUCTED (R264). -/
def doLocalClose (e : DoorEnv) (cause : Cause) (w : Work) : Work :=
  match w.dw.sm.state with
  | .unlocking => backFromUnlocking e (some cause) w
  | .opening | .opened | .stopped => enterWarn e (some cause) false w
  | .obstructed => if cause = .closeDwell ∨ cause = .closeStepFailed then w else enterWarn e none false w
  | .closedUnlocked => enterLock e (w.sm (fun m => { m with cause := cause }))
  | _ => w

/-- The trainline close class at a tick (R35, R36, Table 1.6). -/
def doTrainlineClose (e : DoorEnv) (w : Work) : Work :=
  match w.dw.sm.state with
  | .unlocking => backFromUnlocking e (some e.closeCause) w
  | .opening | .opened | .stopped => enterWarn e (some e.closeCause) false w
  | .obstructed => if e.tlClose && !w.dw.sm.flags.tlCloseSeen then enterWarn e none false w else w
  | .closedUnlocked => if w.dw.sm.flags.classSeen then w else enterLock e (w.sm (fun m => { m with cause := e.closeCause }))
  | .released => if e.release then w else doorOff (enter e .locked .none (some .closeReleaseWithdrawn) w)
  | _ => w

/-! ## Ranks 1 to 4, settling -/

/-- A state of ranks 1 to 4 takes both drives off (Table 1.3). -/
def drivesOff (e : DoorEnv) (w : Work) : Work := stepOff e (doorOff w)

/-- Entry to FAULT with a cause (ranks 1 and 4). -/
def enterFault (e : DoorEnv) (cause : Cause) (w : Work) : Work :=
  let w := enter e .fault .none (some cause) (maintStops 5 0 w)
  drivesOff e (w.sm (fun m => { m with interrupted := none
                                       flags := { m.flags with plausibility := false, unlockSeen := false, solenoidOff := true
                                                               hasSettled := true } }))

/-- Entry to EGRESS (R41, R42). -/
def enterEgress (e : DoorEnv) (w : Work) : Work :=
  let cause : Cause := if w.dw.eehIn then .egressInside else .accessOutside
  let w := enter e .egress .none (some cause) (maintStops 3 0 w)
  drivesOff e (w.sm (fun m => { m with interrupted := none
                                       flags := { m.flags with unlockSeen := false, solenoidOff := true, hasSettled := true } }))

/-- Entry to ISOLATED by the lock-out device or by command (R43, R44, R59). A retraction outside a cycle gives a
record of its own (R503). -/
def enterIsolated (e : DoorEnv) (cause : Cause) (w : Work) : Work :=
  let w := enter e .isolated .none (some cause) (maintStops 3 0 w)
  let w := doorOff (w.sm (fun m => { m with
    interrupted := none, flags := { m.flags with unlockSeen := false, solenoidOff := true, hasSettled := true } }))
  if stepRetracted e w.dw then w
  else startRetract e (cycleBegin e 4 w)

/-- The cause of a drive fault (Tables 4.7 and 5.5). -/
def driveFaultCause (w : Doorway) : Option Cause :=
  if w.door.faultCode = 6 ∨ w.door.faultCode = 7 then some .faultHall
  else if w.door.faultCode ≠ 0 then some .faultDrive
  else if w.step.faultCode ≠ 0 then some .faultStep
  else none

/-- R25: the switch pairs are implausible at this moment. -/
def implausible (w : Doorway) : Bool := (w.dls && !w.dcs) || (w.sds && w.srs)

/-- R179: DCS made with the leaves far above DCS_BREAK_POS. -/
def dcsImplausible (e : DoorEnv) (w : Doorway) : Bool :=
  w.dcs && !w.door.flags.suspect &&
    (match w.door.learnt.breakPos with
     | some b => decide (b + 50000 < doorPos e.cfg e.d w.door.hall)
     | none => false)

/-- The first condition of rank 4 that holds, with its cause. -/
def rankFour (w : Doorway) : Option Cause :=
  match driveFaultCause w with
  | some c => some c
  | none =>
    if w.sm.flags.plausibility then some .faultPlausibility
    else if w.inp.flags.commonFault && w.sm.state != .locked then some .faultInputGroup
    else if w.sm.flags.unlockSeen then some .faultUncommandedUnlock
    else none

/-- R39, R67: settling. -/
def settle (e : DoorEnv) (w : Work) : Work :=
  let w := maintStops 3 0 w
  let w := (w.door (fun q => { q with gen := q.gen.discard })).step (fun q => { q with gen := q.gen.discard })
  let w := w.sm (fun m => { m with
    obstacles := 0, interrupted := none
    flags := { m.flags with hasSettled := true, solenoidOff := true, unlockSeen := false } })
  if w.dw.sm.flags.isolatedByCmd then enterIsolated e .settled w
  else if pcl e w.dw && stepRetracted e w.dw then
    doorOff (enter e (if e.release then .released else .locked) .none (some .settled) w)
  else if w.dw.dcs && inClosedWindow e w.dw then
    doorHold e (enter e .closedUnlocked .none (some .settled) w)
  else
    let w := enter e .stopped .none (some .settled) w
    let w := w.door (fun q => { q with gen := q.gen.standStopped (doorEnvOf e w.dw), integ := 0
                                       flags := { q.flags with sealSeek := false } })
    if e.tlPresent then enterWarn e (some e.closeCause) false w else w

/-! ## Trips -/

/-- Table 6.8, R126: a trip in OPENING stops the leaves: under a torque reflex the remaining move is kept from where they come
to rest, else the drive stops at D_MAX (R229). -/
def keepFromReflex (e : DoorEnv) (w : Work) : Work :=
  let g := w.dw.door.gen
  if g.braked && g.state == .moving then
    let m := g.keeps (doorEnvOf e w.dw)
    let p := (doorKin e w.dw).pos
    w.door (fun q => { q with
      gen := Gen.tracked { q.gen with state := .stoppedMid, path := none, kept := m, target := keptEnd m p
                                      remaining := keptEnd m p - p }
      integ := 0, flags := { q.flags with sealSeek := false } })
  else w.door (fun q => { q with gen := q.gen.stop (doorEnvOf e w.dw) true, integ := if g.state = .hold then 0 else q.integ
                                 flags := { q.flags with sealSeek := false } })

/-- R259, Table 6.8: the state machine takes a trip (rank 6). -/
def takeTrip (e : DoorEnv) (t : Trip) (w : Work) : Work :=
  let w := w.count (fun c => { c with obstacles := satInc 32 c.obstacles })
  let w := w.cyc (fun c => { c with obstacles := satInc 8 c.obstacles })
  let w := w.obstFlags (fun f => { f with disturbed := true })
  let co := w.dw.course
  let w := if w.dw.sm.state = .maint then
      (if co.1 = .maint then settle e w else enter e co.1 co.2 none (maintStops 3 0 w)) else w
  let w := if t.fromSeal then w.emit (.incident 1 false) else w
  match w.dw.sm.state, w.dw.sm.phase with
  | .closing, .move => tripClosing e w
  | .opening, ph =>
    let w := enter e .stopped .none (some .obstacleOpening) (tripEvent e w)
    let w := w.sm (fun m => { m with interrupted := some (.opening, ph), flags := { m.flags with solenoidOff := true } })
    let w := w.step (fun q => { q with gen := q.gen.stop (stepEnvOf e w.dw false) false })
    unlessReflexStop (keepFromReflex e) w
  | .reopening, .reopenMove =>
    reflexStopStart e ((tripEvent e w).obstFlags (fun f => { f with reopenOver := true }))
  | _, _ => tripEvent e w

/-- R258: the leaf engine releases the latches of the doorway's drives; the hardware refuses a column on which a level row
with an action is present. -/
def releaseLatch (e : DoorEnv) (w : Work) : Work :=
  let w := if e.doorLevel then w else w.door (fun q => q.latched Latch.clear)
  if e.stepLevel then w else w.step (fun q => q.latched Latch.clear)

/-! ## Maintenance -/

/-- R61, R238: the next open–close cycle of a maintenance operation begins by unlocking. -/
def maintUnlock (e : DoorEnv) (w : Work) : Work :=
  enterUnlocking e .maintTest (w.sm (fun m => { m with edges := { m.edges with auto := false } }))

/-- R61: DOOR_TEST_CYCLE has passed its commitment point: DLS confirmed at the end of the last cycle. -/
def Maint.committed (m : Maint) : Bool :=
  match m.op with
  | .test n => decide (n ≤ m.done)
  | _ => false

/-- R47: the operation is brought to its end by closing and locking the doorway. -/
def maintWindUp (e : DoorEnv) (w : Work) : Work :=
  match w.dw.sm.maint with
  | none => w
  | some m =>
    let w := w.sm (fun q => { q with maint := some { m with ending := true } })
    match m.shadow, m.phase with
    | .closing, _ => w
    | .unlocking, _ => enterLock e w
    | .opening, _ | .opened, _ => enterWarn e none false w
    | _, _ => w

/-- The open hold is over, or the close of a maintenance cycle is due. -/
def maintClose (e : DoorEnv) (w : Work) : Work := enterWarn e none false w

/-- R61, R242: ABORT of a maintenance operation: an opening under way is first completed. -/
def maintAbort (e : DoorEnv) (w : Work) : Work :=
  if w.dw.course.1 = .opening then w.sm (fun q => { q with maint := q.maint.map (fun m => { m with ending := true }) })
  else maintWindUp e w

/-- A maintenance operation is being brought to its end. -/
def Doorway.windsUp (w : Doorway) : Bool := w.sm.state == .maint && w.sm.maint.any (·.ending)

/-- R61, R64, R502: one maintenance cycle has ended with DLS confirmed: the next begins at once, or the operation is at its
commitment point. `more` says whether a further cycle is to run. -/
def maintCycleEnds (e : DoorEnv) (more : Bool) (w : Work) : Work :=
  let w := cycleEnd DoorState.maint.code (cycleAccount e w)
  let w := if w.dw.sm.flags.openedSince then w.count (fun c => { c with cycles := satInc 32 c.cycles }) else w
  let w := w.sm (fun m => { m with since := e.mono, flags := { m.flags with openedSince := false } })
  if more then
    match w.dw.sm.maint with
    | some m => maintUnlock e (cycleStart e m.op.cycleType w)
    | none => w
  else w

/-! ## One tick -/

/-- The levels the state machine has seen at this tick (R35). -/
def seeLevels (e : DoorEnv) (w : Work) : Work :=
  w.smFlags (fun f => { f with tlCloseSeen := e.tlClose, classSeen := e.tlPresent })

/-- Edges waiting are taken, or ignored and counted, in the order of ranks 9 and 10. -/
def takeEdges (e : DoorEnv) (w : Work) : Work :=
  let g := w.dw.sm.edges
  let w := w.sm (fun m => { m with edges := { openIn := false, openOut := false, cpb := false, auto := false } })
  let deaf := decide (w.dw.sm.state = .egress) || decide (w.dw.sm.state = .isolated)
  let w := if g.cpb then (if deaf then ignoreButton w else doLocalClose e .closeCpb w) else w
  let open1 (on : Bool) (c : Cause) (w : Work) : Work :=
    if on then (if g.cpb then ignoreOpen w else doOpen e c w) else w
  let w := open1 g.openIn .openPbIn w
  let w := open1 g.openOut .openPbOut w
  if g.auto then doOpen e .openAuto w else w

/-- R32, R46: edges that arrive with a condition of a higher rank are ignored, and counted. -/
def dropEdges (w : Work) : Work :=
  let g := w.dw.sm.edges
  let w := w.sm (fun m => { m with edges := { openIn := false, openOut := false, cpb := false, auto := false } })
  let w := if g.cpb then ignoreButton w else w
  let w := if g.openIn then ignoreOpen w else w
  let w := if g.openOut then ignoreOpen w else w
  if g.auto then ignoreOpen w else w

/-- R543: while an entry runs, demands and pushbutton transitions are discarded and counted. -/
def discardEdges (w : Work) : Work :=
  let g := w.dw.sm.edges
  let n := (bitWord [g.openIn] + bitWord [g.openOut] + bitWord [g.cpb])
  (w.sm (fun m => { m with edges := { openIn := false, openOut := false, cpb := false, auto := false } })).count
    (fun c => { c with ignoredDemands := satAdd 16 c.ignoredDemands n })

/-- The level rows of Table 1.6 that need no trigger: release, DLS and step conditions. -/
def levelRows (e : DoorEnv) (w : Work) : Work :=
  let w := checkDeployed e w
  match w.dw.course.1, w.dw.course.2 with
  | .locked, _ =>
    if e.release && !w.dw.inp.flags.commonFault && !w.dw.sm.flags.isolatedByCmd then enter e .released .none none w else w
  | .unlocking, _ =>
    if !w.dw.dls && (decide (e.cfg.stepSequence e.d = 1) || stepDeployed e w.dw) then enterOpening e none w else w
  | .opening, _ => tryOpened e w
  | .opened, _ => if w.dw.windsUp then maintClose e w else w
  | .closing, .move => if w.dw.dcs && inClosedWindow e w.dw && !w.dw.obst.flags.reflexStop then strokeEnds e w else w
  | .closing, .lock =>
    if lockProven e w then
      match w.dw.sm.state, w.dw.sm.maint with
      | .maint, some m =>
        match m.op with
        | .test n =>
          if m.ending then settle e (maintStops 3 0 w)
          else if m.done < n then maintCycleEnds e true w
          else settle e (maintStops 0 0 w)
        | .learn =>
          if m.ending then settle e (maintStops (if 5 ≤ m.discarded then 2 else 3) (if 5 ≤ m.discarded then 0x3D else 0) w)
          else if m.done < 8 then maintCycleEnds e true w
          else settle e w
        | _ => w
      | _, _ => finishClosed e w
    else w
  | .closedUnlocked, _ =>
    if !w.dw.dcs then stopDrives e false ((enter e .stopped .none none w).sm (fun m => { m with interrupted := none }))
    else if lockProven e w then finishClosed e w
    else w
  | _, _ => w

/-- Timed marks of phase LOCK: a relaxing attempt pushes again after 100 ms (R178). -/
def lockTiming (e : DoorEnv) (w : Work) : Work :=
  if w.dw.door.push == .relaxing && decide (100000 ≤ e.mono - w.dw.door.attemptAt) then
    w.door (fun q => { q with push := .pushing })
  else w

/-- R75: a deployment in progress stops while the permit is absent. -/
def permitCheck (e : DoorEnv) (w : Work) : Work :=
  if !e.permit && w.dw.step.job == .deploying && w.dw.step.gen.state == .moving then
    (w.step (fun q => { q with gen := q.gen.bringToRest (stepEnvOf e w.dw false), job := .none })).emit .releaseBlocked
  else w

/-- R176: past 30,000 µm the lock solenoid channel is off. -/
def solenoidCheck (e : DoorEnv) (w : Work) : Work :=
  if 30000 < doorPos e.cfg e.d w.dw.door.hall ∧ (w.dw.course.1 = .unlocking ∨ w.dw.course.1 = .opening) then
    w.smFlags (fun f => { f with solenoidOff := true })
  else w

/-- R26, R43: conditions that no longer hold are forgotten. -/
def clearGone (e : DoorEnv) (w : Work) : Work :=
  let w := if w.dw.sm.flags.plausibility && !implausible w.dw && !dcsImplausible e w.dw then
      w.smFlags (fun f => { f with plausibility := false }) else w
  if w.dw.step.flags.standing && !w.dw.srs then w.stepFlags (fun f => { f with standing := false }) else w

/-- R166, R210: the references of a doorway whose engine starts: the position register is 0 at the closed position with
learnt values, else suspect; a step that was homed still counts so while filtered SRS is made. -/
def referencesStart (e : DoorEnv) (w : Work) : Work :=
  let w := if w.dw.door.flags.learnt && w.dw.dcs && w.dw.dls then
      w.door (fun q => { q with
        hall := { q.hall with zeroOffset := q.hall.zeroOffset + q.hall.ticks }
        flags := { q.flags with indexed := true, suspect := false }
        gen := ({ q.gen with ref := { pos := 0, vel := 0, acc := 0 } } : Gen).correctedTo 0 })
    else markSuspect e 3 0 w
  if w.dw.step.flags.lost then
    (w.stepFlags (fun f => { f with standing := (f.homed || f.standing) && w.dw.srs, homed := false })).stepEvent e 0xE503 3 0
  else w

/-- R67: the engine's first tick. It comes when the input group is valid, or 180 ms after its domain was switched on,
when a group that is still not valid is a fault of rank 1 (note 67). -/
def doorStart (e : DoorEnv) (w : Work) : Work :=
  if w.dw.inp.flags.valid then
    let w := referencesStart e w
    if w.dw.dis then enterIsolated e .isolSwitch w
    else if w.dw.eehIn || w.dw.eeaOut then enterEgress e w
    else
      let t := settle e w
      match (if t.dw.sm.state = .isolated then none else rankFour t.dw) with
      | some c => enterFault e c w
      | none => t
  else if e.mono < w.dw.sm.since + 180000 then w
  else enterFault e .faultInputInvalid (referencesStart e w)

/-- Ranks 1 to 3 of Table 1.5, and the ends of their states: the doorway that they decide, or none where no such condition
holds. -/
def firstRanks (e : DoorEnv) (w : Work) : Option Work :=
  let sm := w.dw.sm
  if !w.dw.inp.flags.valid then
    some (if sm.state = .fault then w.sm (fun m => { m with cause := .faultInputInvalid }) else enterFault e .faultInputInvalid w)
  else if w.dw.dis then some (if sm.state = .isolated then w else enterIsolated e .isolSwitch w)
  else if w.dw.eehIn || w.dw.eeaOut then some (if sm.state = .egress then w else enterEgress e w)
  else if sm.state = .egress ∨ (sm.state = .isolated ∧ !sm.flags.isolatedByCmd) then some (settle e w)
  else none

/-- Rank 5 of Table 1.5: a maintenance operation goes on; without the release it needs it is brought to its end (R47). -/
def maintRank (e : DoorEnv) (trigger : Work → Work) (w : Work) : Work :=
  match w.dw.sm.maint with
  | some m =>
    let needsRelease := match m.op with
      | .test _ => true
      | .learn => true
      | _ => false
    if needsRelease && !e.release && !m.ending && !m.committed then maintWindUp e w else levelRows e (trigger w)
  | none => settle e w

/-- Ranks 4 to 11 of Table 1.5, with a trip that Quince has latched (R259). Edges are ignored beside a higher rank (R32). In
FAULT and ISOLATED a trip keeps no command from acting (DEDUCED, note 134). -/
def laterRanks (e : DoorEnv) (trigger : Work → Work) (trip : Option Trip) (w : Work) : Work :=
  let sm := w.dw.sm
  match (if sm.state = .isolated ∨ sm.state = .fault then none else rankFour w.dw) with
  | some c => dropEdges (enterFault e c w)
  | none =>
    if e.entering then
      discardEdges (if sm.state = .locked then levelRows e w else if e.tlPresent && sm.state == .released then doTrainlineClose e w else w)
    else match trip with
      | some t =>
        if sm.state = .fault ∨ sm.state = .isolated then takeEdges e (trigger (takeTrip e t w)) else dropEdges (takeTrip e t w)
      | none =>
        if sm.state = .fault ∨ sm.state = .isolated then takeEdges e (trigger w)
        else if sm.state = .maint then dropEdges (maintRank e trigger w)
        else if e.tlPresent then takeEdges e (levelRows e (trigger (doTrainlineClose e w)))
        else takeEdges e (levelRows e (trigger w))

/-- Table 1.5 at one state-machine tick, with a trigger of ranks 8 to 11 that the tick is given. A trip that this tick does
not take is over (R259). -/
def doorTickWith (e : DoorEnv) (trigger : Work → Work) (w : Work) : Work :=
  if !e.cfg.isFitted e.d || w.dw.sm.flags.halted then w
  else if !w.dw.sm.flags.hasSettled then doorStart e w
  else
    let trip := w.dw.obst.pending
    let w := w.obst (fun q => { q with pending := none })
    let w := clearGone e (solenoidCheck e (lockTiming e (permitCheck e w)))
    seeLevels e (match firstRanks e w with
      | some x => dropEdges x
      | none => laterRanks e trigger trip w)

/-- One tick without a trigger. -/
def doorTick (e : DoorEnv) (w : Work) : Work := doorTickWith e id w

end Sys2Proof.Machine
end

