-- ==== Sys2Proof/Machine/ImageObjects.lean ====
section
/-!
DEFINITION. The objects that a committed image may set (R402): for each family of indices its subindices, their length
in bytes and the values their home chapters allow. Generated from the object tables of chapters 1 to 16.
-/

namespace Sys2Proof.Machine

/-- Image-set subindices `first` to `last` of a family: length, and a value between lo and hi or one of `also`; a
blank range (hi below lo, none also) admits every value. -/
structure ObjSpec where
  first  : Nat
  last   : Nat
  len    : Nat
  isInt  : Bool
  lo     : Int
  hi     : Int
  also   : List Int
  deriving DecidableEq, Repr

/-- Image-set objects of family 0x1010. -/
def specs1010 : List ObjSpec :=
  [⟨5, 5, 4, false, 10, 3600, []⟩]

/-- Image-set objects of family 0x1020. -/
def specs1020 : List ObjSpec :=
  [⟨9, 9, 1, false, 0, 1, []⟩]

/-- Image-set objects of family 0x1100. -/
def specs1100 : List ObjSpec :=
  [⟨1, 1, 1, false, 0, 1, []⟩,
   ⟨2, 2, 4, false, 100000, 2000000, []⟩]

/-- Image-set objects of family 0x1200. -/
def specs1200 : List ObjSpec :=
  [⟨3, 3, 4, false, 20000, 500000, []⟩,
   ⟨4, 4, 4, false, 20000, 1000000, []⟩,
   ⟨5, 5, 1, false, 0, 1, []⟩,
   ⟨6, 6, 1, false, 0, 1, []⟩]

/-- Image-set objects of family 0x1300. -/
def specs1300 : List ObjSpec :=
  [⟨1, 1, 1, false, 0, 15, [255]⟩,
   ⟨2, 2, 2, false, 1, 65535, []⟩,
   ⟨3, 3, 2, false, 1, 65535, []⟩,
   ⟨4, 4, 1, false, 0, 1, []⟩]

/-- Image-set objects of family 0x1400. -/
def specs1400 : List ObjSpec :=
  [⟨1, 64, 4, false, 0, 4294967295, []⟩]

/-- Image-set objects of family 0x1500. -/
def specs1500 : List ObjSpec :=
  [⟨1, 1, 4, false, 5000, 100000, []⟩]

/-- Image-set objects of family 0x1702. -/
def specs1702 : List ObjSpec :=
  [⟨3, 3, 1, false, 0, 1, []⟩,
   ⟨4, 4, 1, false, 0, 1, []⟩,
   ⟨5, 5, 4, false, 10000, 10000000, [0]⟩]

/-- Image-set objects of family 0x1703. -/
def specs1703 : List ObjSpec :=
  [⟨1, 1, 16, false, 0, 340282366920938463463374607431768211455, []⟩]

/-- Image-set objects of family 0x2000. -/
def specs2000 : List ObjSpec :=
  [⟨1, 1, 1, false, 0, 1, []⟩,
   ⟨2, 2, 1, false, 0, 1, []⟩,
   ⟨3, 3, 1, false, 0, 7, []⟩]

/-- Image-set objects of family 0x2003. -/
def specs2003 : List ObjSpec :=
  [⟨1, 1, 1, false, 0, 1, []⟩,
   ⟨2, 2, 4, false, 2000000, 600000000, [0]⟩,
   ⟨3, 3, 4, false, 0, 10000000, []⟩,
   ⟨4, 4, 1, false, 0, 1, []⟩,
   ⟨5, 5, 4, false, 200000, 5000000, []⟩,
   ⟨6, 6, 4, false, 200000, 5000000, []⟩,
   ⟨7, 7, 1, false, 0, 5, []⟩,
   ⟨8, 8, 1, false, 0, 1, []⟩]

/-- Image-set objects of family 0x2011. -/
def specs2011 : List ObjSpec :=
  [⟨1, 1, 4, false, 50000, 800000, []⟩,
   ⟨2, 2, 4, false, 100000, 3000000, []⟩,
   ⟨3, 3, 4, false, 100000, 3000000, []⟩,
   ⟨4, 4, 4, false, 500000, 50000000, []⟩,
   ⟨5, 5, 4, false, 0, 5000000, []⟩,
   ⟨6, 6, 4, false, 1, 800000, []⟩,
   ⟨7, 7, 4, false, 1000, 20000, []⟩,
   ⟨8, 8, 4, false, 10000, 300000, []⟩,
   ⟨9, 9, 4, true, -20000, 0, []⟩,
   ⟨10, 10, 4, true, 100000, 1000000, []⟩,
   ⟨11, 11, 4, true, 100000, 1000000, []⟩]

/-- Image-set objects of family 0x2012. -/
def specs2012 : List ObjSpec :=
  [⟨1, 16, 2, false, 0, 159, [65535]⟩]

/-- Image-set objects of family 0x2019. -/
def specs2019 : List ObjSpec :=
  [⟨1, 1, 4, false, 2000, 128000, []⟩,
   ⟨2, 2, 4, false, 10000, 2560000, []⟩,
   ⟨3, 3, 4, false, 10000, 2560000, []⟩,
   ⟨4, 4, 4, false, 50000, 25600000, []⟩,
   ⟨5, 5, 4, false, 0, 5000000, []⟩,
   ⟨6, 6, 4, false, 1, 128000, []⟩,
   ⟨7, 7, 4, false, 0, 0, []⟩,
   ⟨8, 8, 4, false, 0, 0, []⟩,
   ⟨9, 9, 4, true, -1280, 0, []⟩,
   ⟨10, 10, 4, true, 1280, 400000, []⟩,
   ⟨11, 11, 4, true, 0, 0, []⟩]

/-- Image-set objects of family 0x201A. -/
def specs201A : List ObjSpec :=
  [⟨1, 16, 2, false, 0, 159, [65535]⟩]

/-- Image-set objects of family 0x2020. -/
def specs2020 : List ObjSpec :=
  [⟨1, 1, 2, false, 100, 5000, []⟩,
   ⟨2, 2, 1, false, 0, 1, []⟩,
   ⟨3, 3, 2, true, -1800, 1799, []⟩,
   ⟨4, 4, 2, false, 50, 20000, []⟩,
   ⟨5, 5, 2, false, 50, 20000, []⟩,
   ⟨6, 6, 4, false, 1000, 10000, []⟩,
   ⟨7, 7, 4, false, 10000, 100000, []⟩,
   ⟨8, 8, 4, false, 50000, 1000000, []⟩,
   ⟨9, 9, 4, false, 10000, 200000, []⟩]

/-- Image-set objects of family 0x2021. -/
def specs2021 : List ObjSpec :=
  [⟨1, 1, 2, false, 1000, 15000, []⟩,
   ⟨2, 2, 2, false, 500, 15000, []⟩,
   ⟨3, 3, 2, false, 500, 8000, []⟩,
   ⟨4, 4, 2, false, 500, 8000, []⟩,
   ⟨5, 5, 2, false, 0, 5000, []⟩,
   ⟨6, 6, 2, false, 0, 5000, []⟩,
   ⟨7, 7, 2, false, 20000, 20000, []⟩]

/-- Image-set objects of family 0x2022. -/
def specs2022 : List ObjSpec :=
  [⟨1, 1, 2, false, 0, 65535, []⟩,
   ⟨2, 2, 2, false, 0, 65535, []⟩,
   ⟨3, 3, 2, false, 0, 65535, []⟩,
   ⟨4, 4, 2, false, 0, 65535, []⟩,
   ⟨5, 5, 2, false, 0, 65535, []⟩,
   ⟨6, 6, 2, false, 300, 3000, []⟩,
   ⟨7, 7, 4, false, 2000, 100000, []⟩,
   ⟨8, 8, 4, false, 20000, 2000000, []⟩]

/-- Image-set objects of family 0x2028. -/
def specs2028 : List ObjSpec :=
  [⟨1, 1, 2, false, 100, 50000, []⟩,
   ⟨2, 2, 2, false, 100, 60000, []⟩,
   ⟨3, 3, 2, false, 0, 65535, []⟩,
   ⟨4, 4, 2, false, 200, 3000, []⟩,
   ⟨5, 5, 2, false, 200, 3000, []⟩,
   ⟨6, 6, 2, false, 200, 3000, []⟩,
   ⟨7, 7, 2, false, 0, 3000, []⟩,
   ⟨8, 8, 2, false, 50, 500, []⟩,
   ⟨9, 9, 1, false, 0, 1, []⟩]

/-- Image-set objects of family 0x2029. -/
def specs2029 : List ObjSpec :=
  [⟨1, 1, 4, true, 128, 6400, []⟩,
   ⟨2, 2, 4, false, 2000, 16000, []⟩,
   ⟨3, 3, 4, false, 64, 1280, []⟩,
   ⟨4, 4, 2, false, 700, 1500, []⟩,
   ⟨5, 5, 1, false, 10, 60, []⟩,
   ⟨6, 6, 1, false, 2, 8, []⟩,
   ⟨7, 7, 2, false, 16, 640, []⟩,
   ⟨8, 8, 1, false, 0, 1, []⟩,
   ⟨9, 9, 2, false, 32, 640, []⟩,
   ⟨10, 10, 1, false, 0, 3, []⟩,
   ⟨11, 11, 4, false, 200000, 5000000, []⟩]

/-- Image-set objects of family 0x2030. -/
def specs2030 : List ObjSpec :=
  [⟨1, 1, 2, false, 10, 2000, []⟩,
   ⟨2, 2, 4, false, 5000, 500000, []⟩,
   ⟨3, 3, 1, false, 50, 100, []⟩,
   ⟨4, 4, 2, false, 0, 1000, []⟩,
   ⟨5, 5, 2, false, 0, 2000, []⟩,
   ⟨6, 6, 2, false, 300, 3000, []⟩,
   ⟨7, 7, 1, false, 20, 60, []⟩,
   ⟨8, 8, 2, false, 50, 1000, []⟩,
   ⟨9, 9, 2, false, 20, 500, []⟩,
   ⟨10, 10, 2, true, -500, 500, []⟩,
   ⟨11, 11, 1, false, 0, 50, []⟩,
   ⟨12, 12, 1, false, 1, 8, []⟩,
   ⟨13, 13, 4, false, 50000, 500000, []⟩,
   ⟨14, 14, 4, false, 100000, 1000000, []⟩,
   ⟨15, 15, 1, false, 0, 1, []⟩]

/-- Image-set objects of family 0x2031. -/
def specs2031 : List ObjSpec :=
  [⟨1, 1, 1, false, 0, 1, []⟩,
   ⟨2, 2, 1, false, 5, 100, []⟩,
   ⟨3, 3, 2, false, 0, 2000, []⟩,
   ⟨4, 4, 1, false, 10, 200, []⟩,
   ⟨5, 5, 1, false, 1, 8, []⟩]

/-- Image-set objects of family 0x2032. -/
def specs2032 : List ObjSpec :=
  [⟨1, 1, 1, false, 0, 1, []⟩,
   ⟨2, 2, 4, false, 100000, 650000, []⟩,
   ⟨3, 3, 4, false, 0, 10000000, []⟩,
   ⟨4, 4, 1, false, 1, 10, []⟩,
   ⟨5, 5, 2, false, 250, 20000, []⟩,
   ⟨6, 6, 2, false, 250, 20000, []⟩]

/-- Image-set objects of family 0x3000. -/
def specs3000 : List ObjSpec :=
  [⟨1, 1, 528, false, 0, -1, []⟩]

/-- Image-set objects of family 0x4000. -/
def specs4000 : List ObjSpec :=
  [⟨1, 1, 1, false, 0, 5, [255]⟩,
   ⟨2, 2, 1, false, 0, 3, []⟩,
   ⟨3, 3, 1, false, 0, 47, []⟩,
   ⟨4, 4, 1, false, 1, 4, []⟩,
   ⟨5, 5, 2, false, 100, 3000, []⟩,
   ⟨6, 6, 4, false, 1000, 100000, []⟩,
   ⟨7, 7, 2, false, 5, 500, [0]⟩,
   ⟨8, 8, 1, false, 0, 15, []⟩,
   ⟨9, 9, 4, false, 10000, 5000000, []⟩,
   ⟨10, 10, 1, false, 0, 2, []⟩,
   ⟨11, 11, 1, false, 0, 2, []⟩,
   ⟨12, 12, 1, false, 0, 1, []⟩,
   ⟨13, 13, 2, false, 0, 500, []⟩,
   ⟨14, 14, 2, false, 0, 65535, []⟩,
   ⟨15, 15, 2, false, 0, 65535, []⟩,
   ⟨16, 16, 1, false, 0, 1, []⟩,
   ⟨17, 17, 4, false, 0, 4294967295, []⟩,
   ⟨18, 18, 2, false, 500, 8000, []⟩,
   ⟨19, 19, 2, true, -200, 400, []⟩,
   ⟨20, 20, 2, false, 10, 200, []⟩]

/-- Image-set objects of family 0x4100. -/
def specs4100 : List ObjSpec :=
  [⟨1, 1, 1, false, 0, 2, []⟩,
   ⟨2, 2, 2, false, 0, 65535, []⟩,
   ⟨3, 3, 2, false, 0, 65535, []⟩,
   ⟨4, 4, 1, false, 0, 1, []⟩,
   ⟨5, 16, 4, false, 100, 100000, [0]⟩]

/-- Image-set objects of family 0x4200. -/
def specs4200 : List ObjSpec :=
  [⟨1, 1, 1, false, 0, 10, []⟩,
   ⟨2, 2, 1, false, 0, 7, []⟩,
   ⟨3, 3, 1, false, 0, 1, []⟩,
   ⟨4, 4, 1, false, 0, 1, []⟩,
   ⟨5, 5, 1, false, 0, 1, []⟩,
   ⟨6, 6, 1, false, 0, 1, []⟩]

/-- Image-set objects of family 0x5000. -/
def specs5000 : List ObjSpec :=
  [⟨1, 1, 1, false, 0, 1, []⟩,
   ⟨2, 2, 1, false, 1, 32, []⟩,
   ⟨3, 3, 1, false, 0, 1, []⟩,
   ⟨4, 4, 1, false, 0, 1, []⟩]

/-- Image-set objects of family 0x5100. -/
def specs5100 : List ObjSpec :=
  [⟨1, 1, 1, false, 0, 1, []⟩,
   ⟨2, 2, 2, false, 1, 0, [125, 250, 500, 1000]⟩,
   ⟨3, 3, 2, false, 600, 900, []⟩,
   ⟨4, 4, 2, false, 1, 0, [1000, 2000, 4000, 5000]⟩,
   ⟨5, 5, 2, false, 600, 900, []⟩,
   ⟨6, 6, 1, false, 0, 1, []⟩,
   ⟨7, 7, 1, false, 0, 1, []⟩,
   ⟨8, 8, 1, false, 0, 1, []⟩,
   ⟨9, 9, 1, false, 0, 1, []⟩,
   ⟨10, 10, 1, false, 0, 1, []⟩]

/-- Image-set objects of family 0x5180. -/
def specs5180 : List ObjSpec :=
  [⟨1, 1, 784, false, 0, -1, []⟩]

/-- Image-set objects of family 0x5200. -/
def specs5200 : List ObjSpec :=
  [⟨1, 1, 4, false, 0, 4294967295, []⟩,
   ⟨2, 2, 4, false, 0, 4294967295, []⟩,
   ⟨3, 3, 1, false, 0, 255, []⟩]

/-- Image-set objects of family 0x5300. -/
def specs5300 : List ObjSpec :=
  [⟨1, 1, 1, false, 0, 1, [255]⟩,
   ⟨2, 2, 4, false, 0, 4294967295, []⟩,
   ⟨3, 3, 1, false, 0, 3, []⟩,
   ⟨4, 4, 1, false, 0, 8, [12, 16, 20, 24, 32, 48, 64]⟩,
   ⟨5, 5, 1, false, 0, 3, []⟩]

/-- Image-set objects of family 0x6000. -/
def specs6000 : List ObjSpec :=
  [⟨1, 1, 2, false, 200, 1800, []⟩,
   ⟨2, 2, 2, false, 0, 65535, []⟩,
   ⟨3, 3, 1, false, 50, 99, []⟩]

/-- Image-set objects of family 0x7000. -/
def specs7000 : List ObjSpec :=
  [⟨1, 1, 2, false, 0, 65535, []⟩,
   ⟨2, 2, 2, false, 0, 65535, []⟩,
   ⟨3, 3, 4, false, 0, 600000000, []⟩,
   ⟨4, 4, 2, false, 20, 200, []⟩]

/-- Image-set objects of family 0x8000. -/
def specs8000 : List ObjSpec :=
  [⟨2, 2, 1, false, 0, 5, []⟩,
   ⟨3, 3, 4, false, 0, 4294967295, []⟩,
   ⟨4, 4, 1, false, 0, 1, []⟩,
   ⟨5, 5, 2, false, 0, 65535, []⟩,
   ⟨6, 6, 4, false, 0, 4294967295, []⟩,
   ⟨7, 7, 4, false, 0, 4294967295, []⟩,
   ⟨8, 8, 1, false, 0, 255, []⟩,
   ⟨9, 9, 1, false, 0, 255, []⟩]

/-- Image-set objects of family 0x8008. -/
def specs8008 : List ObjSpec :=
  [⟨1, 1, 4, false, 200000, 10000000, []⟩,
   ⟨2, 2, 4, false, 10000000, 3600000000, []⟩,
   ⟨3, 3, 2, false, 0, 65535, []⟩]

/-- The image-set objects of a family. -/
def familySpecs (f : Nat) : List ObjSpec :=
  match f with
  | 0x1010 => specs1010
  | 0x1020 => specs1020
  | 0x1100 => specs1100
  | 0x1200 => specs1200
  | 0x1300 => specs1300
  | 0x1400 => specs1400
  | 0x1500 => specs1500
  | 0x1702 => specs1702
  | 0x1703 => specs1703
  | 0x2000 => specs2000
  | 0x2003 => specs2003
  | 0x2011 => specs2011
  | 0x2012 => specs2012
  | 0x2019 => specs2019
  | 0x201A => specs201A
  | 0x2020 => specs2020
  | 0x2021 => specs2021
  | 0x2022 => specs2022
  | 0x2028 => specs2028
  | 0x2029 => specs2029
  | 0x2030 => specs2030
  | 0x2031 => specs2031
  | 0x2032 => specs2032
  | 0x3000 => specs3000
  | 0x4000 => specs4000
  | 0x4100 => specs4100
  | 0x4200 => specs4200
  | 0x5000 => specs5000
  | 0x5100 => specs5100
  | 0x5180 => specs5180
  | 0x5200 => specs5200
  | 0x5300 => specs5300
  | 0x6000 => specs6000
  | 0x7000 => specs7000
  | 0x8000 => specs8000
  | 0x8008 => specs8008
  | _ => []

/-- The family of an index: doorway objects lose their doorway, the others their channel, group, output or number. -/
def family (index : Nat) : Nat :=
  if 0x2000 ≤ index ∧ index < 0x2800 then 0x2000 + index % 0x100
  else if 0x3000 ≤ index ∧ index < 0x30A0 then 0x3000
  else if 0x4000 ≤ index ∧ index < 0x4030 then 0x4000
  else if 0x4100 ≤ index ∧ index < 0x4109 then 0x4100
  else if 0x4200 ≤ index ∧ index < 0x4210 then 0x4200
  else if 0x5100 ≤ index ∧ index < 0x5102 then 0x5100
  else if 0x5180 ≤ index ∧ index < 0x5182 then 0x5180
  else if 0x5200 ≤ index ∧ index < 0x5240 then 0x5200
  else if 0x5300 ≤ index ∧ index < 0x5340 then 0x5300
  else if 0x8000 ≤ index ∧ index < 0x8006 then 0x8000
  else if index = 0x1301 then 0x1300
  else index

/-- Objects whose table restricts them to some members of the family: EOL_MASK to groups 0 to 7, TL_MODE to group 8,
OWNER to CAN1. -/
def memberAllowed (index sub : Nat) : Bool :=
  !((index == 0x4108 && sub == 3) || (0x4100 ≤ index && index < 0x4108 && sub == 4) || (index == 0x5100 && sub == 0x0A))

/-- The image-set object of an index and subindex, where there is one. -/
def objSpec (index sub : Nat) : Option ObjSpec :=
  if memberAllowed index sub then
    (familySpecs (family index)).find? (fun s => decide (s.first ≤ sub) && decide (sub ≤ s.last))
  else none

/-- A value lies on the steps its object admits: SE_FILTER of 50 ns (R227), FILTER of 20 µs (R324). -/
def inSteps (index sub raw : Nat) : Bool :=
  if family index = 0x2032 ∧ (sub = 5 ∨ sub = 6) then raw % 50 == 0
  else if family index = 0x4100 ∧ 5 ≤ sub ∧ sub ≤ 0x10 then raw % 20 == 0
  else true

/-- Whether a raw value lies in an object's range or set of codes. -/
def ObjSpec.admits (s : ObjSpec) (raw : Nat) : Bool :=
  let v : Int := if s.isInt then signedOf (8 * s.len) raw else raw
  (decide (s.hi < s.lo) && s.also.isEmpty) || (decide (s.lo ≤ v) && decide (v ≤ s.hi)) || s.also.contains v

end Sys2Proof.Machine
end

