-- ==== Sys2Proof/Machine/Loop.lean ====
section
/-!
DEFINITION. Orientation, release enforcement and the door loop (chapters 1 and 2): the supervisor's evaluation on
filtered inputs, the loop keeper on raw inputs, readback, disagreement, bypass and KEEPER_ALONE.
-/

namespace Sys2Proof.Machine

/-- What the loop keeper holds of one condition it watches (R84): its view, the frames in succession that show it
false, and those that show it true. -/
structure KeeperView where
  closed    : Bool
  falseRun  : Nat
  trueRun   : Nat
  deriving DecidableEq, Repr

/-- Why the loop keeper drives the loop alone (R96). -/
inductive AloneReason where | update | stable
  deriving DecidableEq, Repr

/-- KEEPER_ALONE: its reason, whether the loop was open on entry, and whether its 2.0 s have run out (R96 to R99). -/
structure KeeperAlone where
  reason      : AloneReason
  openOnEntry : Bool
  stopped     : Bool
  deriving DecidableEq, Repr

/-- Counters of 0x1202. BYPASS_TIME is held in µs and read in seconds. -/
structure LoopCounters where
  openings      : Nat
  discrepancies : Nat
  bypasses      : Nat
  bypassTime    : Nat
  rbFaults      : Nat
  blocked       : Nat
  zspdFaults    : Nat
  deriving DecidableEq, Repr

/-- Orientation, release and the loop. -/
structure Loop where
  /-- No cab combination has been stable for ORIENT_SETTLE (R20). -/
  orientPending : Bool
  /-- TL_REL_L and TL_REL_R have been active for REL_SETTLE (R72). -/
  relSettled    : Bool × Bool
  /-- The trainline group has been valid at an evaluation since the settle times last started (R72). -/
  relCounts     : Bool
  releaseLeft   : Bool
  releaseRight  : Bool
  zspdDiscrepancy : Bool
  /-- The masks of the loop keeper, fitted and step-fitted (R85), none until loaded (R100). -/
  masks         : Option (Nat × Nat)
  keeper        : Vector KeeperView 8
  bypassView    : KeeperView
  /-- The loop stays open since start-up (R100). -/
  starting      : Bool
  /-- The supervisor pair is held: its toggles and permits are stopped (R91, R97). -/
  supvStopped   : Bool
  alone         : Option KeeperAlone
  supvPermit    : Bool
  keeperPermit  : Bool
  commanded     : Bool
  changedAt     : Nat
  discrepancy   : Bool
  persistent    : Bool
  /-- Module times at which DISCREPANCY was latched, latest first (R88). -/
  latched       : List Nat
  rbWeld        : Bool
  rbNotOperated : Bool
  bypassActive  : Bool
  bypassSince   : Nat
  counters      : LoopCounters
  deriving DecidableEq, Repr

/-- What the loop's channels see of one doorway. -/
structure DoorView where
  fitted   : Bool
  hasStep  : Bool
  valid    : Bool
  raw      : BitVec 16
  filtered : BitVec 16
  pcl      : Bool
  stepOk   : Bool
  settled  : Bool
  deriving DecidableEq, Repr

/-- What the loop reads of the module. -/
structure LoopEnv where
  cfg      : Cfg
  hasImage : Bool
  now      : Nat
  mono     : Nat
  train    : InGroup
  doors    : Vector DoorView 8

/-- A filtered trainline input (Table 8.1). -/
def LoopEnv.tl (e : LoopEnv) (i : Nat) : Bool := e.train.filtered.getLsbD i

/-- TL_LOOP_BYP as the supervisor pair sees it: inactive while the trainline group is invalid (R92). -/
def LoopEnv.bypass (e : LoopEnv) : Bool := e.train.flags.valid && e.tl 7

/-- Table 1.1: the orientation code of the present cab combination. -/
def cabCode (a b : Bool) : Nat := if a && !b then 1 else if b && !a then 2 else 0

/-- R20, R21: the orientation code in force. -/
def Loop.orientation (l : Loop) (e : LoopEnv) : Nat := if l.orientPending then 0 else cabCode (e.tl 5) (e.tl 6)

/-- Table 1.1: whether train left is side A for an unambiguous code. -/
def leftIsA (code carOrient : Nat) : Bool := decide (code = 1) == decide (carOrient = 0)

/-- R71: the release condition of a train side. -/
def Loop.releaseOf (l : Loop) (e : LoopEnv) (left : Bool) : Bool :=
  decide (l.orientation e ≠ 0) && (if left then e.tl 0 && l.relSettled.1 else e.tl 1 && l.relSettled.2)
    && e.tl 3 && e.tl 4 && e.train.flags.valid && !e.train.flags.commonFault
    && !(decide (e.cfg.weldBlocksRelease = 1) && l.rbWeld)

/-- The release condition of the body side of a doorway, as last evaluated; false while the supervisor pair is held (R571). -/
def Loop.releaseAt (l : Loop) (e : LoopEnv) (d : DoorIx) : Bool :=
  let code := l.orientation e
  !l.supvStopped && decide (code ≠ 0) && (if (decide (e.cfg.side d = 0)) == leftIsA code e.cfg.carOrient then l.releaseLeft else l.releaseRight)

/-- R75, R97: the release permit of a doorway; all are absent while the supervisor pair does not run. -/
def Loop.permit (l : Loop) (e : LoopEnv) (d : DoorIx) : Bool :=
  e.cfg.isFitted d && l.releaseAt e d

/-- supv_full (R83). -/
def supvFull (v : DoorView) : Bool :=
  !v.fitted || (v.valid && ((v.pcl && v.stepOk && !v.filtered.getLsbD 3 && !v.filtered.getLsbD 4) || v.filtered.getLsbD 2))

/-- The switch condition on an input word: DCS, DLS, SRS or no step, no egress input, or DIS. -/
def switchCond (hasStep : Bool) (w : BitVec 16) : Bool :=
  (w.getLsbD 0 && w.getLsbD 1 && (w.getLsbD 11 || !hasStep) && !w.getLsbD 3 && !w.getLsbD 4) || w.getLsbD 2

/-- supv_switch (R83). -/
def supvSwitch (v : DoorView) : Bool := !v.fitted || (v.valid && switchCond v.hasStep v.filtered)

/-- Whether the keeper's masks count a doorway as fitted, and as having a step. -/
def Loop.mask (l : Loop) (d : DoorIx) : Bool × Bool :=
  match l.masks with
  | some (f, s) => (bitOf f d.val, bitOf s d.val)
  | none => (true, true)

/-- What one valid frame shows of a doorway: the keeper's condition on raw inputs (R83). -/
def Loop.rawCond (l : Loop) (d : DoorIx) (raw : BitVec 16) : Bool := switchCond (l.mask d).2 raw

/-- keeper_closed (R83): a doorway the masks leave out is closed; a valid group shows it through the keeper's view. -/
def Loop.keeperClosed (l : Loop) (e : LoopEnv) (d : DoorIx) : Bool :=
  !(l.mask d).1 || (e.doors[d].valid && l.keeper[d].closed)

/-- TL_LOOP_BYP as the keeper sees it (R84, R92). -/
def Loop.keeperBypass (l : Loop) (e : LoopEnv) : Bool := e.train.flags.valid && l.bypassView.closed

/-- R84: n frames in succession that show a condition true or false; 200 frames are the 4 ms. -/
def KeeperView.frames (v : KeeperView) (shows : Bool) (n : Nat) : KeeperView :=
  if n = 0 then v
  else if shows then
    let run := min 200 (v.trueRun + n)
    { closed := v.closed || decide (200 ≤ run), falseRun := 0, trueRun := run }
  else
    let run := min 2 (v.falseRun + n)
    { closed := v.closed && decide (run < 2), falseRun := run, trueRun := 0 }

/-- R84: the condition has held in every frame for 4 ms. -/
def KeeperView.settle (v : KeeperView) : KeeperView := { v with closed := true, falseRun := 0, trueRun := 200 }

/-- SUPV_FULL_MASK. -/
def supvFullMask (e : LoopEnv) : Nat := bitWord (doorways.map (fun d => supvFull e.doors[d]))
/-- SUPV_SWITCH_MASK. -/
def supvSwitchMask (e : LoopEnv) : Nat := bitWord (doorways.map (fun d => supvSwitch e.doors[d]))
/-- KEEPER_MASK. -/
def Loop.keeperMask (l : Loop) (e : LoopEnv) : Nat := bitWord (doorways.map (fun d => l.keeperClosed e d))
/-- RELEASE_PERMITS. -/
def Loop.permits (l : Loop) (e : LoopEnv) : Nat := bitWord (doorways.map (fun d => l.permit e d))

/-- LOOP_FLAGS (Table 2.4). -/
def Loop.flagWord (l : Loop) (e : LoopEnv) : Nat :=
  bitWord [l.commanded, l.supvPermit, l.keeperPermit, l.bypassActive, l.alone.isSome, l.discrepancy, l.persistent, e.tl 8,
    l.rbWeld, l.rbNotOperated, l.zspdDiscrepancy, decide (l.orientation e = 0), l.releaseLeft, l.releaseRight]

/-- R105: the payload of a loop event. -/
def Loop.event (l : Loop) (e : LoopEnv) : List Byte :=
  le 8 e.now ++ le 4 (l.flagWord e) ++ le 1 (supvFullMask e) ++ le 1 (l.keeperMask e) ++ le 1 (l.permits e) ++ le 1 0

/-! ## Evaluation (R72, R83, R86, R92, R96, R100) -/

/-- R100: the conditions under which a starting module may close the loop. -/
def Loop.startReady (l : Loop) (e : LoopEnv) : Bool :=
  e.hasImage && l.masks.isSome && doorways.all (fun d => !e.doors[d].fitted || e.doors[d].settled)

/-- supv_permit (R83, R87, R92). -/
def Loop.supvPermitNow (l : Loop) (e : LoopEnv) : Bool :=
  !l.supvStopped && (e.bypass || (!l.discrepancy && doorways.all (fun d => supvFull e.doors[d])))

/-- keeper_permit (R83, R92). -/
def Loop.keeperPermitNow (l : Loop) (e : LoopEnv) : Bool :=
  l.keeperBypass e || doorways.all (fun d => l.keeperClosed e d)

/-- The commanded loop state, given the permits (R81, R96, R97, R99, R100). -/
def Loop.commandedNow (l : Loop) (e : LoopEnv) (supv keeper : Bool) : Bool :=
  if l.starting then false
  else match l.alone with
    | none => supv && keeper
    | some a => !a.stopped && keeper && (l.commanded || (a.openOnEntry && l.keeperBypass e))

/-- The permits and the commanded state are evaluated; answers whether the commanded state changed. The keeper alone takes the
supervisor permit as present (R96). -/
def Loop.drive (l : Loop) (e : LoopEnv) : Loop × Bool :=
  let l := { l with starting := l.starting && !(l.startReady e && (l.supvPermitNow e || l.alone.isSome) && l.keeperPermitNow e) }
  let s := l.supvPermitNow e
  let k := l.keeperPermitNow e
  let c := l.commandedNow e s k
  let l' := { l with supvPermit := s, keeperPermit := k, commanded := c }
  if c = l.commanded then (l', false)
  else ({ l' with changedAt := e.now, counters := if c then l'.counters else
      { l'.counters with openings := satInc 32 l'.counters.openings } }, true)

/-- R72: the release conditions are evaluated; answers whether either side changed. -/
def Loop.release (l : Loop) (e : LoopEnv) : Loop × Bool :=
  let a := l.releaseOf e true
  let b := l.releaseOf e false
  ({ l with releaseLeft := a, releaseRight := b }, a != l.releaseLeft || b != l.releaseRight)

/-- R73, R82: the flags that clear with their condition, those of the readback as it agrees with the command; answers whether
each flag cleared. The readback check is suspended while the trainline group is invalid. -/
def Loop.clearFlags (l : Loop) (e : LoopEnv) : Loop × Bool × Bool :=
  let z := l.zspdDiscrepancy && e.tl 3 == e.tl 4
  let agrees := e.train.flags.valid && (l.commanded != e.tl 8)
  let w := l.rbWeld && agrees
  let n := l.rbNotOperated && agrees
  ({ l with zspdDiscrepancy := l.zspdDiscrepancy && !z, rbWeld := l.rbWeld && !w, rbNotOperated := l.rbNotOperated && !n },
    z, w || n)

/-- One supervisor evaluation of release and loop, with the events it sends. A held supervisor pair evaluates no release. -/
def Loop.evaluate (l : Loop) (e : LoopEnv) : Loop × List Nat :=
  let r := if l.supvStopped || l.alone.isSome then (l, false)
    else ({ l with relCounts := l.relCounts || e.train.flags.valid } : Loop).release e
  let d := r.1.drive e
  let c := d.1.clearFlags e
  (c.1, (if r.2 then [0xE206] else []) ++ (if d.2 then [0xE201] else []) ++ (if c.2.2 then [0xE204] else [])
    ++ (if c.2.1 then [0xE205] else []))

/-! ## Occurrences -/

/-- The filtered trainline word changed: settle states fall with their inputs (R20, R72). -/
def Loop.inputsChanged (l : Loop) (e : LoopEnv) (before : BitVec 16) : Loop :=
  let now := e.train.filtered
  let cab := before.getLsbD 5 != now.getLsbD 5 || before.getLsbD 6 != now.getLsbD 6
  let settled (was : Bool) (i : Nat) : Bool :=
    now.getLsbD i && (if before.getLsbD i then was else decide (e.cfg.relSettle = 0) && e.train.flags.valid)
  { l with orientPending := l.orientPending || cab, relSettled := (settled l.relSettled.1 0, settled l.relSettled.2 1) }

/-- REL_SETTLE ends for a release input, whatever the other terms of R71 are (R71, R72; DEDUCED, note 135). -/
def Loop.relSettle (l : Loop) (e : LoopEnv) (side : TrainSide) : Loop :=
  match side with
  | .left => if e.tl 0 && l.relCounts then { l with relSettled := (true, l.relSettled.2) } else l
  | .right => if e.tl 1 && l.relCounts then { l with relSettled := (l.relSettled.1, true) } else l

/-- ORIENT_SETTLE ends (R20). -/
def Loop.orientSettle (l : Loop) (e : LoopEnv) : Loop :=
  if e.train.flags.valid then { l with orientPending := false } else l

/-- ZSPD_DISCREP_TIME ends (R73). -/
def Loop.zspdExpiry (l : Loop) (e : LoopEnv) : Loop × List Nat :=
  if e.tl 3 != e.tl 4 && !l.zspdDiscrepancy then
    ({ l with zspdDiscrepancy := true, counters := { l.counters with zspdFaults := satInc 16 l.counters.zspdFaults } }, [0xE205])
  else (l, [])

/-- A compared pair differs (R86). -/
def Loop.pairDiffers (l : Loop) (e : LoopEnv) : LoopPair → Bool
  | .door d => supvSwitch e.doors[d] != l.keeperClosed e d
  | .bypass => e.bypass != l.keeperBypass e

/-- Every compared pair agrees (R88, R89). -/
def Loop.pairsAgree (l : Loop) (e : LoopEnv) : Bool :=
  doorways.all (fun d => !l.pairDiffers e (.door d)) && !l.pairDiffers e .bypass

/-- R86, R88: LOOP_DISAGREE_TIME ends for a pair. -/
def Loop.disagree (l : Loop) (e : LoopEnv) (p : LoopPair) : Loop × List Nat :=
  if l.pairDiffers e p && !l.discrepancy && !l.supvStopped && l.alone.isNone then
    let recent := (e.now :: l.latched).filter (fun t => decide (e.now ≤ t + 3600000000))
    ({ l with discrepancy := true, latched := recent, persistent := l.persistent || decide (3 ≤ recent.length)
              counters := { l.counters with discrepancies := satInc 16 l.counters.discrepancies } }, [0xE202])
  else (l, [])

/-- R88: every pair has agreed for 3 s. -/
def Loop.discrepancyClears (l : Loop) (e : LoopEnv) : Loop × List Nat :=
  if l.discrepancy && !l.persistent && l.pairsAgree e then ({ l with discrepancy := false }, [0xE202]) else (l, [])

/-- R82: LOOP_RB_TIME ends with the readback against the command. -/
def Loop.readback (l : Loop) (e : LoopEnv) : Loop × List Nat :=
  let bump (l : Loop) : Loop := { l with counters := { l.counters with rbFaults := satInc 16 l.counters.rbFaults } }
  if e.cfg.loopRbFitted = 0 || !e.train.flags.valid then (l, [])
  else if !l.commanded && !e.tl 8 && !l.rbWeld then (bump { l with rbWeld := true }, [0xE204])
  else if l.commanded && e.tl 8 && !l.rbNotOperated then (bump { l with rbNotOperated := true }, [0xE204])
  else (l, [])

/-- R94: bypass starts or ends at the supervisor pair; answers whether it changed. -/
def Loop.bypassChanges (l : Loop) (e : LoopEnv) : Loop × Bool :=
  let b := e.bypass
  if b = l.bypassActive then (l, false)
  else if b then
    ({ l with bypassActive := true, bypassSince := e.mono
              counters := { l.counters with bypasses := satInc 16 l.counters.bypasses } }, true)
  else
    ({ l with bypassActive := false
              counters := { l.counters with bypassTime := l.counters.bypassTime + (e.mono - l.bypassSince) } }, true)

/-- R96: the loop keeper takes the loop alone. -/
def Loop.keeperTakes (l : Loop) (r : AloneReason) : Loop :=
  { l with alone := some { reason := r, openOnEntry := !l.commanded, stopped := false }
           supvStopped := l.supvStopped || r == .update }

/-- R97: 2.0 s of KEEPER_ALONE in an update: both toggles stop. -/
def Loop.aloneTimeout (l : Loop) : Loop :=
  match l.alone with
  | some a => if a.reason = .update then { l with alone := some { a with stopped := true } } else l
  | none => l

/-- R98: the supervisor pair resumes. -/
def Loop.supvResumes (l : Loop) : Loop := { l with alone := none, supvStopped := false }

/-- R91: the supervisor pair's toggles stop. -/
def Loop.supvStops (l : Loop) : Loop := { l with supvStopped := true }

/-- R85: the keeper takes its masks from the configuration in force. -/
def keeperMasks (c : Cfg) : Nat × Nat :=
  (bitWord (doorways.map (fun d => c.isFitted d)), bitWord (doorways.map (fun d => c.hasStep d)))

/-- A view that has seen nothing. -/
def KeeperView.fresh : KeeperView := { closed := false, falseRun := 0, trueRun := 0 }

/-- R20, R72: settle times start again at power-up, reset and every return to RUN. -/
def Loop.resettle (l : Loop) : Loop := { l with orientPending := true, relSettled := (false, false), relCounts := false }

/-- R95, R100, R102, R104: no toggle is driven; the loop stays open until it starts again, and LOOP_FLAGS take their reset
values, the history of R88 with them (DESIGN CHOICE, note 42). A bypass that stands ends, and its time is added; the module
sends no event for that end and writes no incident, its domains being off (DESIGN CHOICE, note 129). -/
def Loop.unpowered (l : Loop) (now mono : Nat) : Loop :=
  { l with orientPending := true, relSettled := (false, false), relCounts := false, releaseLeft := false, releaseRight := false
           zspdDiscrepancy := false, masks := none, keeper := tab 8 (fun _ => KeeperView.fresh)
           bypassView := KeeperView.fresh, starting := true, supvStopped := false, alone := none, supvPermit := false
           keeperPermit := false, commanded := false, changedAt := if l.commanded then now else l.changedAt
           discrepancy := false, persistent := false, latched := []
           rbWeld := false, rbNotOperated := false, bypassActive := false
           counters := { l.counters with
             openings := if l.commanded then satInc 32 l.counters.openings else l.counters.openings
             bypassTime := if l.bypassActive then l.counters.bypassTime + (mono - l.bypassSince) else l.counters.bypassTime } }

/-- The loop as delivered. -/
def Loop.reset : Loop :=
  { orientPending := true, relSettled := (false, false), relCounts := false, releaseLeft := false, releaseRight := false
    zspdDiscrepancy := false, masks := none, keeper := tab 8 (fun _ => KeeperView.fresh), bypassView := KeeperView.fresh
    starting := true, supvStopped := false, alone := none, supvPermit := false, keeperPermit := false, commanded := false
    changedAt := 0, discrepancy := false, persistent := false, latched := [], rbWeld := false, rbNotOperated := false
    bypassActive := false, bypassSince := 0
    counters := { openings := 0, discrepancies := 0, bypasses := 0, bypassTime := 0, rbFaults := 0, blocked := 0, zspdFaults := 0 } }

end Sys2Proof.Machine
end

