-- ==== Sys2Proof/Machine/Ring.lean ====
section
/-!
DEFINITION. The Nulor ring (chapter 11): forwarding and duplicate filtering, beacons and the node view, wrapping, shared time
and consist agreement.
-/

namespace Sys2Proof.Machine

/-- A node of the view, as its last accepted beacon shows it (Table 11.3). -/
structure RingNode where
  addr     : Nat
  kind     : Nat
  state    : Nat
  flags    : Nat
  fw       : Nat
  cfgId    : Nat
  csbId    : Nat
  scheme   : Nat
  timeAge  : Nat
  orient   : Nat
  summary  : Nat
  fitted   : Nat
  supvFull : Nat
  fault    : Nat
  obstructed : Nat
  /-- Offset of the node's time from the module's at its last beacon, µs. -/
  offset   : Int
  port     : PortIx
  seenAt   : Nat
  /-- Consecutive beacons with another CSB_ID, and with another firmware major version (R454, R455). -/
  csbRun   : Nat
  fwRun    : Nat
  deriving DecidableEq, Repr

/-- Counters of 0x5002. -/
structure RingCounters where
  wraps      : Nat
  unwraps    : Nat
  forwarded  : Nat
  duplicates : Nat
  hopsExpired : Nat
  foreign    : Nat
  fcsA       : Nat
  fcsB       : Nat
  nodeTimeouts : Nat
  timeSteps  : Nat
  timeSlews  : Nat
  mismatches : Nat
  trainwideRefused : Nat
  relayCycles : Nat
  deriving DecidableEq, Repr

/-- The ring of the module. -/
structure Ring where
  inserted : Bool
  up       : Bool × Bool
  wrapped  : Bool × Bool
  nodes    : List RingNode
  /-- Accepted FRAME_SEQ values of each source, highest first, within 256 of the highest (R433). -/
  windows  : List (Nat × List Nat)
  frameSeq : Nat
  addressConflict : Bool
  etherConflict : Bool
  consistMismatch : Bool
  versionMismatch : Bool
  nodeLost : Bool
  timeAge  : Nat
  master   : Nat
  /-- Offsets of the present master, latest first, at most 16 (R449). -/
  offsets  : List Int
  meanOffset : Int
  agreed   : Bool
  /-- 0, or the direction in which time is slewed (R450). -/
  slew     : Int
  stepped  : Bool
  /-- The beacon's content as the comms engine refreshed it last (R436). -/
  beacon   : List Byte
  /-- The body of the beacon last sent. -/
  sent     : List Byte
  /-- The frame last sent out of a port by forwarding or turning back. -/
  lastOut  : Option (PortIx × RingFrame)
  /-- Monotonic time at which a port last wrapped or unwrapped (refuser RING, Table 14.3). -/
  wrappedAt : Option Nat
  counters : RingCounters
  deriving DecidableEq, Repr

/-- What the ring reads of the module. -/
structure RingEnv where
  cfg      : Cfg
  now      : Nat
  mono     : Nat
  hasImage : Bool
  csbId    : Nat
  scheme   : Nat
  etherType : Nat
  fw       : Nat
  mac      : Nat

/-- The firmware major version of a version word (Table 9.11). -/
def fwMajor (v : Nat) : Nat := v / 2 ^ 24

/-- TIME_VALID (R447). -/
def Ring.timeValid (r : Ring) : Bool := decide (r.timeAge ≤ 86400)

/-- NODE_COUNT, the module included. -/
def Ring.nodeCount (r : Ring) : Nat := r.nodes.length + 1

/-- NODE_MASK. -/
def Ring.nodeMask (r : Ring) : Nat := bitWord ((List.range 32).map (fun i => r.nodes.any (fun n => n.addr == i + 1)))

/-- A node disagrees on the consist-shared block (R454). -/
def RingNode.csbDiffers (n : RingNode) : Bool := decide (10 ≤ n.csbRun)

/-- A node disagrees on the firmware major version (R455). -/
def RingNode.fwDiffers (n : RingNode) : Bool := decide (10 ≤ n.fwRun)

/-- A condition of CONSIST_MISMATCH is present (R454). -/
def Ring.consistCondition (r : Ring) : Bool :=
  r.nodes.any (·.csbDiffers) || r.etherConflict || r.addressConflict || r.nodes.any (fun n => bitOf n.flags 3)

/-- A condition of VERSION_MISMATCH is present (R455). -/
def Ring.versionCondition (r : Ring) : Bool := r.nodes.any (·.fwDiffers)

/-- The lowest address of the nodes a condition selects, 0 with none. -/
def Ring.lowest (r : Ring) (p : RingNode → Bool) : Nat :=
  (r.nodes.filter p).foldl (fun a n => if a = 0 ∨ n.addr < a then n.addr else a) 0

/-- MISMATCH_NODE. -/
def Ring.mismatchNode (r : Ring) : Nat := r.lowest (fun n => n.csbDiffers || bitOf n.flags 3 || n.fwDiffers)

/-- RING_FLAGS (Table 11.10). -/
def Ring.flagWord (r : Ring) (own : Nat) : Nat :=
  bitWord [r.up.1, r.up.2, r.wrapped.1, r.wrapped.2, r.inserted, r.timeValid, decide (r.master ≠ 0 ∧ r.master = own), r.agreed,
    r.slew != 0, r.stepped, r.consistMismatch, r.versionMismatch, r.addressConflict, r.etherConflict, r.nodeLost]

/-- R467: the payload of a ring event. -/
def ringEvent (now code addr v16 : Nat) (value : Int) : List Byte :=
  le 8 now ++ le 1 code ++ le 1 addr ++ le 2 v16 ++ leInt 4 value

/-- 0xEB01. -/
def Ring.topology (r : Ring) (e : RingEnv) (code addr port : Nat) : Nat × List Byte :=
  (0xEB01, ringEvent e.now code addr port r.nodeCount)

/-- 0xEB02; the value is the CSB_ID or FW_VERSION of MISMATCH_NODE. -/
def Ring.agreement (r : Ring) (e : RingEnv) (code : Nat) : Nat × List Byte :=
  let a := r.mismatchNode
  let v := match r.nodes.find? (fun n => n.addr == a) with
    | some n => if code = 3 ∨ code = 4 then n.fw else n.csbId
    | none => 0
  (0xEB02, ringEvent e.now code a 0 v)

/-- An offset limited to ±2,000,000,000 µs. -/
def limitOffset (v : Int) : Int := clampInt (-2000000000) 2000000000 v

/-- 0xEB03. -/
def Ring.timeEvent (r : Ring) (e : RingEnv) (code : Nat) (offset : Int) : Nat × List Byte :=
  (0xEB03, ringEvent e.now code r.master 0 (limitOffset offset))

/-! ## Agreement and the time master -/

/-- CONSIST_MISMATCH and VERSION_MISMATCH are set at once with a condition; they clear by their rows (R454, R455). -/
def Ring.judge (r : Ring) (e : RingEnv) : Ring × Events :=
  let c := r.consistCondition && !r.consistMismatch
  let v := r.versionCondition && !r.versionMismatch
  let r' := { r with consistMismatch := r.consistMismatch || c, versionMismatch := r.versionMismatch || v
                     counters := if c then { r.counters with mismatches := satInc 16 r.counters.mismatches } else r.counters }
  (r', (if c then [r'.agreement e 1] else []) ++ (if v then [r'.agreement e 3] else []))

/-- R448: the address of the time master among the view and, while inserted, the module itself. -/
def Ring.masterNow (r : Ring) (e : RingEnv) : Nat :=
  let seen := r.lowest (fun n => bitOf n.flags 6 && n.state != 3)
  let own := if r.inserted && r.timeValid then e.cfg.ringAddress else 0
  if own = 0 then seen else if seen = 0 ∨ own < seen then own else seen

/-- R448: the master is chosen again; a change starts R449 anew. -/
def Ring.chooseMaster (r : Ring) (e : RingEnv) : Ring × Events :=
  let m := r.masterNow e
  if m = r.master then (r, [])
  else
    let ended := r.slew != 0
    let r' := { r with master := m, offsets := [], agreed := false, slew := 0 }
    (r', [r'.timeEvent e 1 r.meanOffset] ++ (if ended then [r'.timeEvent e 5 r.meanOffset] else []))

/-- TIME_AGE changes, with the event when TIME_VALID does. -/
def Ring.setAge (r : Ring) (e : RingEnv) (age : Nat) : Ring × Events :=
  let r' := { r with timeAge := age }
  if r'.timeValid = r.timeValid then (r', [])
  else (r', [r'.timeEvent e (if r'.timeValid then 2 else 3) r.meanOffset])

/-- What a time correction does to module time: nothing, or a step (R451). -/
inductive TimeFix where | none | step (offset : Int)
  deriving DecidableEq, Repr

/-- Mean of the last offsets. -/
def offsetMean (l : List Int) : Int := roundDiv (l.foldl (· + ·) 0) l.length

/-- Table 11.5: the decision on 16 offsets of the master. -/
def Ring.correct (r : Ring) (e : RingEnv) (valid : Bool) : Ring × Events × TimeFix :=
  if r.offsets.length < 16 then (r, [], .none)
  else
    let m := offsetMean r.offsets
    let r := { r with meanOffset := m }
    if 2000000 < m.natAbs ∨ !valid then
      let ended := r.slew != 0
      let r' := { r with agreed := false, slew := 0, stepped := true, offsets := []
                         counters := { r.counters with timeSteps := satInc 16 r.counters.timeSteps } }
      (r', (if ended then [r'.timeEvent e 5 m] else []) ++ [r'.timeEvent e 6 m], .step m)
    else if 5000 < m.natAbs then
      if r.slew != 0 then ({ r with agreed := false, slew := sgn m }, [], .none)
      else
        let r' := { r with agreed := false, slew := sgn m, counters := { r.counters with timeSlews := satInc 16 r.counters.timeSlews } }
        (r', [r'.timeEvent e 4 m], .none)
    else if r.slew != 0 then
      let r' := { r with agreed := true, slew := 0 }
      (r', [r'.timeEvent e 5 m], .none)
    else ({ r with agreed := true }, [], .none)

/-! ## Frames (R431 to R434) -/

/-- The other port. -/
def otherPort (p : PortIx) : PortIx := if p = 0 then 1 else 0

/-- A pair's entry for a port. -/
def ofPort (x : Bool × Bool) (p : PortIx) : Bool := if p = 0 then x.1 else x.2

/-- A pair with one entry set. -/
def setPort (x : Bool × Bool) (p : PortIx) (b : Bool) : Bool × Bool := if p = 0 then (b, x.2) else (x.1, b)

/-- A frame leaves: by the other port, or back with WRAPPED where that port is wrapped or down (R432). Nothing is forwarded
out of a wrapped port (R441). -/
def Ring.sendOn (r : Ring) (p : PortIx) (f : RingFrame) : Ring :=
  let q := otherPort p
  let back := ofPort r.wrapped q || !ofPort r.up q
  let out := if back then (p, { f with wrapped := true }) else (q, f)
  if ofPort r.wrapped out.1 then r
  else { r with lastOut := some out, counters := { r.counters with forwarded := satInc 32 r.counters.forwarded } }

/-- R432: whether a ring frame is forwarded. -/
def forwards (own : Nat) (f : RingFrame) : Bool := decide (f.source ≠ own) && decide (f.dest ≠ own) && decide (f.hops ≠ 0)

/-- The accepted window of a source. -/
def Ring.window (r : Ring) (source : Nat) : List Nat :=
  match r.windows.find? (fun w => w.1 == source) with
  | some w => w.2
  | none => []

/-- How far a FRAME_SEQ lies behind another, modulo 65,536. -/
def behind (high seq : Nat) : Nat := (high + 65536 - seq % 65536) % 65536

/-- R433: a later copy within the 256 values behind the highest accepted is a duplicate. -/
def isDuplicate (w : List Nat) (seq : Nat) : Bool :=
  match w with
  | [] => false
  | high :: _ => w.contains seq && decide (behind high seq ≤ 256)

/-- The window with an accepted value, pruned to the 256 values behind the highest. -/
def windowAdd (w : List Nat) (seq : Nat) : List Nat :=
  match w with
  | [] => [seq]
  | high :: rest =>
    let newHigh := decide (behind seq high < 32768)
    let top := if newHigh then seq else high
    let others := if newHigh then high :: rest else seq :: rest
    top :: others.filter (fun s => decide (behind top s ≤ 256) && s != top)

/-- Record an accepted frame. -/
def Ring.accept (r : Ring) (source seq : Nat) : Ring :=
  let w := windowAdd (r.window source) seq
  { r with windows := (source, w) :: r.windows.filter (fun x => x.1 != source) }

/-- What a frame brings to the module. -/
inductive Delivery where
  | nothing
  | beacon (f : RingFrame)
  | fcp (source : Nat) (trainWide : Bool) (body : List Byte)
  | wake (mask scheme : Nat)
  deriving DecidableEq, Repr

/-- R432 to R434, R441: the frame is counted, removed, forwarded or turned back, and delivered once. -/
def Ring.receive (r : Ring) (e : RingEnv) (p : PortIx) (f : RingFrame) : Ring × Events × Delivery :=
  let own := e.cfg.ringAddress
  if !f.fcsOk then
    ({ r with counters := if p = 0 then { r.counters with fcsA := satInc 32 r.counters.fcsA }
        else { r.counters with fcsB := satInc 32 r.counters.fcsB } }, [], .nothing)
  else if !f.ringDest || f.tagged then
    ({ r with counters := { r.counters with foreign := satInc 32 r.counters.foreign } }, [], .nothing)
  else if f.etherType ≠ e.etherType then
    let set := !r.etherConflict
    let r := { r with etherConflict := true, counters := { r.counters with foreign := satInc 32 r.counters.foreign } }
    let j := (r.sendOn p f).judge e
    (j.1, (if set then [r.agreement e 5] else []) ++ j.2, .nothing)
  else
    let onWrapped := ofPort r.wrapped p
    let expired := decide (f.source ≠ own) && decide (f.dest ≠ own) && decide (f.hops = 0)
    let r := if expired then { r with counters := { r.counters with hopsExpired := satInc 32 r.counters.hopsExpired } } else r
    let r := if forwards own f && !(onWrapped && f.type == 1) then r.sendOn p { f with hops := f.hops - 1 } else r
    if f.source = own then
      -- R439: a beacon with the module's own address and another MAC
      if f.type = 1 ∧ f.srcMac ≠ e.mac ∧ !r.addressConflict then
        let r := { r with addressConflict := true }
        let j := r.judge e
        (j.1, [r.topology e 6 own 0] ++ j.2, .nothing)
      else (r, [], .nothing)
    else if expired || (onWrapped && f.type == 1) then (r, [], .nothing)
    else if isDuplicate (r.window f.source) f.seq then
      ({ r with counters := { r.counters with duplicates := satInc 32 r.counters.duplicates } }, [], .nothing)
    else
      let r := r.accept f.source f.seq
      let mine := decide (f.dest = own) || decide (f.dest = 0xFF)
      if f.type = 1 then (r, [], .beacon f)
      else if f.type = 2 ∧ mine then
        (r, [], if r.addressConflict && decide (f.dest = own) then .nothing
          else .fcp f.source (decide (f.dest = 0xFF)) f.body)
      else if f.type = 3 then (r, [], .wake (fieldAt f.body 0 4) (fieldAt f.body 4 4))
      else (r, [], .nothing)

/-! ## Beacons -/

/-- BEACON_CRC: over bytes 0 to 59, taken with CORRECTION as 0 (Table 11.3). -/
def beaconCrcOk (b : List Byte) : Bool :=
  decide (fieldAt b 60 4 = crc32c ((b.take 32) ++ le 4 0 ++ ((b.drop 36).take 24)))

/-- R449: the offset that a beacon gives. -/
def beaconOffset (e : RingEnv) (f : RingFrame) : Int :=
  (fieldAt f.body 24 8 : Int) + (fieldAt f.body 32 4 / 1000 : Nat) + (65 - (f.hops : Int)) - e.now

/-- The node that a beacon shows, given its previous entry. -/
def nodeOf (e : RingEnv) (p : PortIx) (f : RingFrame) (old : Option RingNode) : RingNode :=
  let b := f.body
  let csb := fieldAt b 16 4
  let fw := fieldAt b 4 4
  let kind := fieldAt b 0 1
  let image := bitOf (fieldAt b 2 2) 0
  let csbRun := if kind = 1 ∧ image ∧ csb ≠ e.csbId then ((old.map (·.csbRun)).getD 0) + 1 else 0
  let fwRun := if kind = 1 ∧ fwMajor fw ≠ fwMajor e.fw then ((old.map (·.fwRun)).getD 0) + 1 else 0
  { addr := f.source, kind := kind, state := fieldAt b 1 1, flags := fieldAt b 2 2, fw := fw, cfgId := fieldAt b 8 8
    csbId := csb, scheme := fieldAt b 20 4, timeAge := fieldAt b 36 4, orient := fieldAt b 41 1, summary := fieldAt b 42 1
    fitted := fieldAt b 43 1, supvFull := fieldAt b 44 1, fault := fieldAt b 45 1, obstructed := fieldAt b 46 1
    offset := beaconOffset e f, port := p, seenAt := e.mono, csbRun := min 10 csbRun, fwRun := min 10 fwRun }

/-- A node leaves the view; its window is cleared (R433, R438). -/
def Ring.dropNode (r : Ring) (a : Nat) : Ring :=
  { r with nodes := r.nodes.filter (fun n => n.addr != a), windows := r.windows.filter (fun w => w.1 != a) }

/-- A node into the view, in address order. -/
def insertNode (n : RingNode) : List RingNode → List RingNode
  | [] => [n]
  | m :: rest => if n.addr < m.addr then n :: m :: rest else if n.addr = m.addr then n :: rest else m :: insertNode n rest

/-- R438, R439, R448, R449, R454, R455: an accepted beacon. -/
def Ring.takeBeacon (r : Ring) (e : RingEnv) (p : PortIx) (f : RingFrame) : Ring × Events × TimeFix :=
  if !beaconCrcOk f.body then (r, [], .none)
  else
    let old := r.nodes.find? (fun n => n.addr == f.source)
    let n := nodeOf e p f old
    if n.state = 3 then
      let r' := r.dropNode f.source
      let m := r'.chooseMaster e
      (m.1, (if old.isSome then [r'.topology e 4 f.source 0] else []) ++ m.2, .none)
    else
      let r := { r with nodes := insertNode n r.nodes }
      let joined := if old.isNone then [r.topology e 3 f.source 0] else []
      let j := r.judge e
      let m := j.1.chooseMaster e
      let r := m.1
      if r.master = f.source then
        let valid := r.timeValid
        let a := r.setAge e n.timeAge
        let r := { a.1 with offsets := (n.offset :: a.1.offsets).take 16 }
        let c := r.correct e valid
        (c.1, joined ++ j.2 ++ m.2 ++ a.2 ++ c.2.1, c.2.2)
      else (r, joined ++ j.2 ++ m.2, .none)

/-- A node has sent no accepted beacon for 50 ms (R438). -/
def Ring.nodeTimeout (r : Ring) (e : RingEnv) (a : Nat) : Ring × Events :=
  if r.nodes.any (fun n => n.addr == a) then
    let r := r.dropNode a
    let r := { r with nodeLost := true, counters := { r.counters with nodeTimeouts := satInc 16 r.counters.nodeTimeouts } }
    let m := r.chooseMaster e
    (m.1, [r.topology e 5 a 0] ++ m.2)
  else (r, [])

/-- R440, R441: a port goes down and is wrapped. -/
def Ring.portDown (r : Ring) (e : RingEnv) (p : PortIx) : Ring × Events :=
  if ofPort r.wrapped p then ({ r with up := setPort r.up p false }, [])
  else
    let r := { r with up := setPort r.up p false, wrapped := setPort r.wrapped p true, wrappedAt := some e.mono
                      counters := { r.counters with wraps := satInc 16 r.counters.wraps } }
    (r, [r.topology e 1 e.cfg.ringAddress p.val])

/-- R440, R442: a port comes up and is unwrapped. -/
def Ring.portUp (r : Ring) (e : RingEnv) (p : PortIx) : Ring × Events :=
  if !ofPort r.wrapped p then ({ r with up := setPort r.up p true }, [])
  else
    let r := { r with up := setPort r.up p true, wrapped := setPort r.wrapped p false, wrappedAt := some e.mono
                      counters := { r.counters with unwraps := satInc 16 r.counters.unwraps } }
    (r, [r.topology e 2 e.cfg.ringAddress p.val])

/-- R439: 1 s without a conflicting beacon. -/
def Ring.addressClear (r : Ring) (e : RingEnv) : Ring × Events :=
  if r.addressConflict then
    let r := { r with addressConflict := false }
    (r, [r.topology e 7 e.cfg.ringAddress 0])
  else (r, [])

/-- R434: 1 s without foreign EtherTypes. -/
def Ring.etherClear (r : Ring) (e : RingEnv) : Ring × Events :=
  if r.etherConflict then
    let r := { r with etherConflict := false }
    (r, [r.agreement e 6])
  else (r, [])

/-- R454: 1 s with no condition. -/
def Ring.consistClear (r : Ring) (e : RingEnv) : Ring × Events :=
  if r.consistMismatch && !r.consistCondition then
    let r := { r with consistMismatch := false, counters := { r.counters with mismatches := satInc 16 r.counters.mismatches } }
    (r, [r.agreement e 2])
  else (r, [])

/-- R455: 1 s of agreement. -/
def Ring.versionClear (r : Ring) (e : RingEnv) : Ring × Events :=
  if r.versionMismatch && !r.versionCondition then
    let r := { r with versionMismatch := false }
    (r, [r.agreement e 4])
  else (r, [])

/-- R447: one second without a master. -/
def Ring.ageCount (r : Ring) (e : RingEnv) : Ring × Events :=
  if r.master ≠ 0 ∧ r.master ≠ e.cfg.ringAddress then (r, [])
  else
    let a := r.setAge e (satInc 32 r.timeAge)
    let m := a.1.chooseMaster e
    (m.1, a.2 ++ m.2)

/-- R445: the relays are energised; both ports start wrapped until 100 ms of valid frames. -/
def Ring.insert (r : Ring) (e : RingEnv) : Ring × Events :=
  if r.inserted then (r, [])
  else
    let r := { r with inserted := true, up := (false, false), wrapped := (true, true)
                      counters := { r.counters with relayCycles := satInc 32 r.counters.relayCycles } }
    r.chooseMaster e

/-- R444, R445: the module leaves the ring; nothing is in view. -/
def Ring.leave (r : Ring) : Ring :=
  { r with inserted := false, up := (false, false), wrapped := (false, false), nodes := [], windows := [], master := 0
           offsets := [], agreed := false, slew := 0, addressConflict := false, etherConflict := false
           consistMismatch := false, versionMismatch := false }

/-- The ring after reset or a loss of supply: the counters and the age of the time stay. -/
def Ring.unpowered (r : Ring) : Ring :=
  { r.leave with frameSeq := 0, nodeLost := false, stepped := false, meanOffset := 0, beacon := [], sent := [], lastOut := none, wrappedAt := none }

/-- Table 11.7: the entry of a node. -/
def RingNode.entry (n : RingNode) (e : RingEnv) : List Byte :=
  le 1 n.addr ++ le 1 n.kind ++ le 1 n.state
    ++ le 1 (bitWord [decide (n.csbId = e.csbId), decide (fwMajor n.fw = fwMajor e.fw), decide (n.offset.natAbs ≤ 5000),
        bitOf n.flags 3, decide (n.port = 0), decide (n.port = 1)])
    ++ le 4 n.fw ++ le 4 n.csbId ++ le 4 n.scheme ++ leInt 4 (limitOffset n.offset) ++ le 1 n.orient ++ le 1 n.summary
    ++ le 1 n.fitted ++ le 1 n.supvFull ++ le 1 n.fault ++ le 1 n.obstructed ++ le 2 (min 65535 ((e.mono - n.seenAt) / 1000))

/-- R463: the payload of CONSIST_VIEW. -/
def Ring.view (r : Ring) (e : RingEnv) (mask : Nat) : List Byte :=
  let ns := (r.nodes.filter (fun n => decide (mask = 0) || bitOf mask (n.addr - 1))).take 32
  le 8 e.now ++ le 1 ns.length ++ le 1 e.cfg.ringAddress ++ le 1 r.master ++ le 1 0 ++ le 4 0
    ++ (ns.map (fun n => n.entry e)).flatten

/-- R462: the payload of RING_STATUS. -/
def Ring.status (r : Ring) (e : RingEnv) : List Byte :=
  let own := e.cfg.ringAddress
  le 8 e.now ++ le 4 (r.flagWord own) ++ le 1 own ++ le 1 r.nodeCount ++ le 1 r.master ++ le 1 0 ++ le 4 r.nodeMask
    ++ le 4 r.timeAge ++ leInt 4 r.meanOffset ++ le 4 r.counters.wraps ++ le 4 r.counters.fcsA ++ le 4 r.counters.fcsB

/-- The ring as delivered: by-passed, and no time ever known. -/
def Ring.reset : Ring :=
  { inserted := false, up := (false, false), wrapped := (false, false), nodes := [], windows := [], frameSeq := 0
    addressConflict := false, etherConflict := false, consistMismatch := false, versionMismatch := false, nodeLost := false
    timeAge := 0xFFFFFFFF, master := 0, offsets := [], meanOffset := 0, agreed := false, slew := 0, stepped := false
    beacon := [], sent := [], lastOut := none, wrappedAt := none
    counters := { wraps := 0, unwraps := 0, forwarded := 0, duplicates := 0, hopsExpired := 0, foreign := 0, fcsA := 0
                  fcsB := 0, nodeTimeouts := 0, timeSteps := 0, timeSlews := 0, mismatches := 0, trainwideRefused := 0
                  relayCycles := 0 } }

end Sys2Proof.Machine
end

