-- ==== Sys2Proof/Machine/Sha256.lean ====
section
/-!
DEFINITION. SHA-256 and HMAC-SHA-256, which the manual names for CFG_ID (R400) and for the session MAC (R382). The constants are
the fractional parts of the square and cube roots of the first primes, as the standard defines them (PRESUMED, note 64).
-/

namespace Sys2Proof.Machine

/-- The initial hash value. -/
def shaInit : List Nat :=
  [0x6A09E667, 0xBB67AE85, 0x3C6EF372, 0xA54FF53A, 0x510E527F, 0x9B05688C, 0x1F83D9AB, 0x5BE0CD19]

/-- The round constants. -/
def shaK : List Nat :=
  [0x428A2F98, 0x71374491, 0xB5C0FBCF, 0xE9B5DBA5, 0x3956C25B, 0x59F111F1, 0x923F82A4, 0xAB1C5ED5]
    ++ [0xD807AA98, 0x12835B01, 0x243185BE, 0x550C7DC3, 0x72BE5D74, 0x80DEB1FE, 0x9BDC06A7, 0xC19BF174]
    ++ [0xE49B69C1, 0xEFBE4786, 0x0FC19DC6, 0x240CA1CC, 0x2DE92C6F, 0x4A7484AA, 0x5CB0A9DC, 0x76F988DA]
    ++ [0x983E5152, 0xA831C66D, 0xB00327C8, 0xBF597FC7, 0xC6E00BF3, 0xD5A79147, 0x06CA6351, 0x14292967]
    ++ [0x27B70A85, 0x2E1B2138, 0x4D2C6DFC, 0x53380D13, 0x650A7354, 0x766A0ABB, 0x81C2C92E, 0x92722C85]
    ++ [0xA2BFE8A1, 0xA81A664B, 0xC24B8B70, 0xC76C51A3, 0xD192E819, 0xD6990624, 0xF40E3585, 0x106AA070]
    ++ [0x19A4C116, 0x1E376C08, 0x2748774C, 0x34B0BCB5, 0x391C0CB3, 0x4ED8AA4A, 0x5B9CCA4F, 0x682E6FF3]
    ++ [0x748F82EE, 0x78A5636F, 0x84C87814, 0x8CC70208, 0x90BEFFFA, 0xA4506CEB, 0xBEF9A3F7, 0xC67178F2]

/-- Rotation right of a 32-bit word. -/
def rotr (x n : Nat) : Nat := (x / 2 ^ n) ||| (x * 2 ^ (32 - n) % 2 ^ 32)

/-- Sum modulo 2^32. -/
def add32 (a b : Nat) : Nat := (a + b) % 2 ^ 32

/-- The message schedule: the next word from the last 16, newest first. -/
def shaNext (w : List Nat) : Nat :=
  let at_ (i : Nat) : Nat := (w[i]?).getD 0
  let x := at_ 14
  let y := at_ 1
  let s0 := rotr x 7 ^^^ rotr x 18 ^^^ (x / 2 ^ 3)
  let s1 := rotr y 17 ^^^ rotr y 19 ^^^ (y / 2 ^ 10)
  add32 (add32 (at_ 15) s0) (add32 (at_ 6) s1)

/-- n further words of the schedule, newest first. -/
def shaExtend : Nat → List Nat → List Nat
  | 0, w => w
  | n + 1, w => shaExtend n (shaNext w :: w)

/-- The eight working variables. -/
structure ShaWork where
  a : Nat
  b : Nat
  c : Nat
  d : Nat
  e : Nat
  f : Nat
  g : Nat
  h : Nat
  deriving DecidableEq, Repr

/-- One round. -/
def ShaWork.round (v : ShaWork) (kw : Nat) : ShaWork :=
  let s1 := rotr v.e 6 ^^^ rotr v.e 11 ^^^ rotr v.e 25
  let ch := (v.e &&& v.f) ^^^ ((2 ^ 32 - 1 - v.e) &&& v.g)
  let t1 := add32 (add32 v.h s1) (add32 ch kw)
  let s0 := rotr v.a 2 ^^^ rotr v.a 13 ^^^ rotr v.a 22
  let mj := (v.a &&& v.b) ^^^ (v.a &&& v.c) ^^^ (v.b &&& v.c)
  { a := add32 t1 (add32 s0 mj), b := v.a, c := v.b, d := v.c, e := add32 v.d t1, f := v.e, g := v.f, h := v.g }

/-- The words of the working variables. -/
def ShaWork.words (v : ShaWork) : List Nat := [v.a, v.b, v.c, v.d, v.e, v.f, v.g, v.h]

/-- The working variables from eight words. -/
def ShaWork.ofWords (l : List Nat) : ShaWork :=
  let at_ (i : Nat) : Nat := (l[i]?).getD 0
  { a := at_ 0, b := at_ 1, c := at_ 2, d := at_ 3, e := at_ 4, f := at_ 5, g := at_ 6, h := at_ 7 }

/-- Bytes as a big-endian number. -/
def ofBe (bs : List Byte) : Nat := bs.foldl (fun a b => a * 256 + b.toNat) 0

/-- A number as n big-endian bytes. -/
def be (n v : Nat) : List Byte := (le n v).reverse

/-- The 16 words of a block of 64 bytes, newest first. -/
def blockWords (b : List Byte) : List Nat := ((List.range 16).map (fun i => ofBe ((b.drop (4 * i)).take 4))).reverse

/-- One block into the hash. -/
def shaBlock (h : List Nat) (b : List Byte) : List Nat :=
  let w := (shaExtend 48 (blockWords b)).reverse
  let v := (List.zipWith add32 shaK w).foldl ShaWork.round (ShaWork.ofWords h)
  List.zipWith add32 h v.words

/-- The padding of a message of that many bytes. -/
def shaPad (n : Nat) : List Byte := 0x80 :: List.replicate ((119 - n % 64) % 64) 0 ++ be 8 (8 * n)

/-- The blocks of a padded message, by a bound on their number. -/
def shaBlocks : Nat → List Byte → List Nat → List Nat
  | 0, _, h => h
  | n + 1, m, h => if m.isEmpty then h else shaBlocks n (m.drop 64) (shaBlock h (m.take 64))

/-- SHA-256: 32 bytes. -/
def sha256 (m : List Byte) : List Byte :=
  let p := m ++ shaPad m.length
  ((shaBlocks (p.length / 64 + 1) p shaInit).map (be 4)).flatten

/-- HMAC-SHA-256 under a key of at most 64 bytes. -/
def hmacSha256 (k m : List Byte) : List Byte :=
  let k := k ++ List.replicate (64 - k.length) 0
  sha256 (k.map (fun b => b ^^^ 0x5C) ++ sha256 (k.map (fun b => b ^^^ 0x36) ++ m))

end Sys2Proof.Machine
end

