-- ==== Sys2Proof/Machine/Image.lean ====
section
/-!
DEFINITION. The configuration image (chapter 10): its header, directory, sections and records, and the consistency check
of Table 10.9 with its codes in order and the lowest offending object.
-/

namespace Sys2Proof.Machine

/-- A refusal of the consistency check (R413, Table 10.9). -/
structure Refused where
  code  : Nat
  index : Nat
  sub   : Nat
  item  : Nat
  deriving DecidableEq, Repr

/-- A refusal that names no object. -/
def refusedBare (code item : Nat) : Refused := ⟨code, 0xFFFF, 0, item⟩

/-- Among offending objects the lowest index and subindex is reported (R408). -/
def lowestRefused : List Refused → Option Refused
  | [] => none
  | f :: fs =>
    match lowestRefused fs with
    | none => some f
    | some g => if key g.index g.sub < key f.index f.sub then some g else some f

/-- The first check, in order, that refuses. -/
def firstRefused : List (List Refused) → Option Refused
  | [] => none
  | l :: ls =>
    match lowestRefused l with
    | none => firstRefused ls
    | some f => some f

/-- A refusal where a condition holds. -/
def refuseIf (bad : Bool) (f : Refused) : List Refused := if bad then [f] else []

/-- A directory entry (Table 10.2). -/
structure Section where
  type   : Nat
  offset : Nat
  length : Nat
  crc    : Nat
  deriving DecidableEq, Repr

/-- IMAGE_LEN of an image. -/
def imageLen (b : List Byte) : Nat := fieldAt b 8 4

/-- CFG_ID in the header of an image. -/
def imageId (b : List Byte) : Nat := fieldAt b 16 8

/-- ZERAN_VERSION of an image. -/
def imageZeran (b : List Byte) : Nat := fieldAt b 28 4

/-- The directory of an image (Table 10.1). -/
def imageSections (b : List Byte) : List Section :=
  (List.range (fieldAt b 6 2)).map (fun i =>
    ⟨fieldAt b (64 + 16 * i) 2, fieldAt b (68 + 16 * i) 4, fieldAt b (72 + 16 * i) 4, fieldAt b (76 + 16 * i) 4⟩)

/-- The bytes of a section. -/
def sectionBytes (b : List Byte) (s : Section) : List Byte := (b.drop s.offset).take s.length

/-- 0x05: MAGIC, IMAGE_FORMAT, SECTION_COUNT, IMAGE_LEN and HEADER_CRC (Table 10.1). -/
def headerOk (b : List Byte) : Bool :=
  fieldAt b 0 4 == 0x4643525A && fieldAt b 4 2 == 1
    && decide (1 ≤ fieldAt b 6 2) && decide (fieldAt b 6 2 ≤ 16)
    && imageLen b % 4 == 0 && decide (imageLen b ≤ 262144)
    && fieldAt b 60 4 == crc32c (b.take 60)

/-- 0x06: the first directory entry or section that breaks R399, given where the section before it ended. -/
def badSection (b : List Byte) (len : Nat) (dirEnd : Nat) : Nat → List Nat → List Section → Option Nat
  | _, seen, [] => if seen.contains 0x000A then none else some 0x000A
  | prev, seen, s :: ss =>
    if s.type < 1 ∨ 0x000A < s.type ∨ seen.contains s.type ∨ s.offset % 4 ≠ 0 ∨ s.length % 4 ≠ 0
        ∨ s.offset < prev ∨ len < s.offset + s.length
        ∨ (prev ≠ dirEnd ∧ !allZero ((b.drop prev).take (s.offset - prev)))
        ∨ crc32c (sectionBytes b s) ≠ s.crc then some s.type
    else badSection b len dirEnd (s.offset + s.length) (s.type :: seen) ss

/-- R400: CFG_ID as the digest of the image gives it. -/
def digestId (b : List Byte) : Nat :=
  let zeroed := b.take 16 ++ List.replicate 8 (0 : Byte) ++ (b.drop 24).take 36 ++ List.replicate 4 (0 : Byte) ++ b.drop 64
  ofLe ((sha256 zeroed).take 8)

/-- R400: the header's CFG_ID is the digest's and not 0. -/
def idOk (b : List Byte) : Bool := digestId b != 0 && digestId b == imageId b

/-- R409: the image is compatible with a running firmware version. -/
def compatible (b : List Byte) (running : Nat) : Bool :=
  fieldAt b 15 1 == running / 0x1000000 && decide (fieldAt b 14 1 ≤ running / 0x10000 % 256)

/-- Integrity of an image (step 2 of Table 10.7, codes 0x05 to 0x07); `want` is the CFG_COMMIT parameter, absent at
power-up. -/
def integrity (b : List Byte) (want : Option Nat) : Option Refused :=
  if !headerOk b then some (refusedBare 0x05 0xFFFF)
  else match badSection b (imageLen b) (64 + 16 * fieldAt b 6 2) (64 + 16 * fieldAt b 6 2) [] (imageSections b) with
    | some t => some (refusedBare 0x06 t)
    | none => if !idOk b || want.any (· != imageId b) then some (refusedBare 0x07 0xFFFF) else none

/-- R418: steps 2 and 3 of Table 10.7 at power-up. -/
def imageGood (b : List Byte) (running : Nat) : Bool :=
  decide (b.length = imageLen b) && (integrity b none).isNone && compatible b running

/-- A record of a section (Table 10.4). -/
structure ImgRecord where
  index : Nat
  sub   : Nat
  value : List Byte
  deriving DecidableEq, Repr

/-- The object range of a section type (Table 10.3). -/
def sectionRange : Nat → Nat × Nat
  | 1 => (0x1100, 0x1FFF) | 2 => (0x2000, 0x27FF) | 3 => (0x3000, 0x309F) | 4 => (0x4000, 0x402F)
  | 5 => (0x4100, 0x42FF) | 6 => (0x5000, 0x5FFF) | 7 => (0x6000, 0x6FFF) | 8 => (0x7000, 0x7FFF)
  | 9 => (0x8000, 0x80FF) | _ => (1, 0)

/-- A length rounded up to a multiple of 4. -/
def padded (n : Nat) : Nat := (n + 3) / 4 * 4

/-- R401: the records of a section in order, and the first breach of the record format. -/
def records : Nat → Nat → List Byte → List ImgRecord × Option Refused
  | 0, _, _ => ([], none)
  | fuel + 1, prev, b =>
    if b.isEmpty then ([], none)
    else
      let index := fieldAt b 0 2
      let sub := fieldAt b 2 1
      let len := fieldAt b 4 2
      let value := (b.drop 8).take len
      let bad : Refused := ⟨0x0A, index, sub, 0xFFFF⟩
      if b.length < 8 + padded len ∨ key index sub < prev ∨ !allZero ((b.drop (8 + len)).take (padded len - len))
          ∨ (objSpec index sub).any (·.len != len) then ([], some bad)
      else
        let (rest, f) := records fuel (key index sub + 1) (b.drop (8 + padded len))
        (⟨index, sub, value⟩ :: rest, f)

/-- The records of one section. -/
def sectionRecords (b : List Byte) (s : Section) : List ImgRecord × Option Refused :=
  if s.type = 0x000A then ([], none) else records (s.length / 8 + 1) 0 (sectionBytes b s)

/-- The bytes of the consist-shared block. -/
def imageBlock (b : List Byte) : List Byte :=
  match (imageSections b).find? (fun s => s.type == 0x000A) with
  | some s => sectionBytes b s
  | none => []

/-- A value put into a configuration in its place. -/
def Cfg.put : Cfg → Nat → Nat → Cfg
  | [], k, v => [(k, v)]
  | (q, u) :: r, k, v => if k < q then (k, v) :: (q, u) :: r else if k = q then (k, v) :: r else (q, u) :: Cfg.put r k v

/-- All records of an image, its context records apart. -/
def imageRecords (b : List Byte) : List ImgRecord := (imageSections b).flatMap (fun s => (sectionRecords b s).1)

/-- Whether a record is a profile context (R402). -/
def ImgRecord.isContext (r : ImgRecord) : Bool := decide (0x3000 ≤ r.index) && decide (r.index < 0x30A0)

/-- The configuration an image gives: its records, and REL_SETTLE and ZSPD_DISCREP_TIME from the block (R403). -/
def imageCfg (b : List Byte) : Cfg :=
  let own : Cfg := ((imageRecords b).filter (fun r => !r.isContext)).foldl
    (fun (c : Cfg) r => c.put (key r.index r.sub) (ofLe r.value)) []
  (own.put (key 0x1200 1) (fieldAt (imageBlock b) 8 4)).put (key 0x1200 2) (fieldAt (imageBlock b) 12 4)

/-- The context pool an image gives (R144, R402). -/
def imagePool (b : List Byte) : List (Nat × List Byte) :=
  ((imageRecords b).filter ImgRecord.isContext).map (fun r => (r.index - 0x3000, r.value))

/-- 0x0A: breaches of the record format. -/
def checkFormat (b : List Byte) : List Refused := (imageSections b).filterMap (fun s => (sectionRecords b s).2)

/-- 0x0B: records of objects that are not image-set or lie outside their section's range. -/
def checkConfigurable (b : List Byte) : List Refused :=
  (imageSections b).flatMap (fun s =>
    let range := sectionRange s.type
    ((sectionRecords b s).1.filter (fun r => (objSpec r.index r.sub).isNone || decide (r.index < range.1)
      || decide (range.2 < r.index))).map (fun r => ⟨0x0B, r.index, r.sub, 0xFFFF⟩))

/-- 0x0C: values outside their range or set of codes. -/
def checkRange (b : List Byte) : List Refused :=
  ((imageRecords b).filter (fun r => (objSpec r.index r.sub).any (fun s => !(s.admits (ofLe r.value) && inSteps r.index r.sub (ofLe r.value))))).map
    (fun r => ⟨0x0C, r.index, r.sub, 0xFFFF⟩)

/-- The index of a doorway object. -/
def doorIndex (d : DoorIx) (off : Nat) : Nat := 0x2000 + d.val * 0x100 + off

/-- The index of a motion object of a drive. -/
def motionIndex (r : DriveIx) (off : Nat) : Nat := 0x2000 + (doorOf r).val * 0x100 + off + (if isStep r then 8 else 0)

/-- Whether a drive is fitted: its doorway is, and for a step drive the step. -/
def Cfg.driveFitted (c : Cfg) (r : DriveIx) : Bool := c.isFitted (doorOf r) && (!isStep r || c.hasStep (doorOf r))

/-- 0x0D where an object has no record. -/
def absent (c : Cfg) (index sub item : Nat) : List Refused :=
  refuseIf (c.find (key index sub)).isNone ⟨0x0D, index, sub, item⟩

/-- All channels in order. -/
def channels : List ChanIx := List.finRange 48

/-- 0x0D VALUE_MISSING (R402, R465). -/
def checkMissing (c : Cfg) : List Refused :=
  (doorways.filter c.isFitted).flatMap (fun d =>
    absent c (doorIndex d 0x20) 4 d.val ++ absent c (doorIndex d 0x20) 5 d.val ++ absent c (doorIndex d 0x30) 1 d.val
      ++ absent c (doorIndex d 0x30) 2 d.val ++ absent c (doorIndex d 0x30) 4 d.val ++ absent c (doorIndex d 0x30) 5 d.val
      ++ (if c.hasStep d then absent c (doorIndex d 0x28) 1 d.val ++ absent c (doorIndex d 0x28) 2 d.val
            ++ absent c (doorIndex d 0x28) 3 d.val ++ absent c (doorIndex d 0x19) 0x0A (stepDrive d).val
          else []))
  ++ (channels.filter (fun n => c.isFitted (chanDoor n) && isLeader c n && functionOf c n == 5 && c.chHeatSense n == 1)).flatMap
      (fun n => absent c (0x4000 + n.val) 0x11 n.val ++ absent c (0x4000 + n.val) 0x12 n.val)
  ++ (if c.ringEnable = 1 then absent c 0x5000 2 0xFFFF else [])

/-- 0x0E LIMIT_ORDER of one drive. -/
def checkDriveOrder (c : Cfg) (r : DriveIx) : List Refused :=
  let d := doorOf r
  let m := motionIndex r 0x11
  let hasMax := !isStep r || (c.find (motionKey r 0x11 0x0A)).isSome
  refuseIf (decide (c.dMax r < c.dReplan r)) ⟨0x0E, m, 5, m⟩
    ++ refuseIf (decide (c.vMax r < c.vReplan r)) ⟨0x0E, m, 6, m⟩
    ++ refuseIf (hasMax && decide (c.softMax r ≤ c.softMin r)) ⟨0x0E, m, 9, m⟩
    ++ refuseIf (hasMax && decide (c.softMax r < c.partialOpenMin r)) ⟨0x0E, m, 0x0B, m⟩
    ++ (if isStep r then
          refuseIf (decide (c.iRun d < c.iStepLow d)) ⟨0x0E, doorIndex d 0x28, 5, doorIndex d 0x28⟩
            ++ refuseIf (decide (c.iRun d < c.iHome d)) ⟨0x0E, doorIndex d 0x28, 6, doorIndex d 0x28⟩
            ++ refuseIf (decide (c.iRun d < c.iStepHold d)) ⟨0x0E, doorIndex d 0x28, 7, doorIndex d 0x28⟩
            ++ refuseIf (hasMax && decide (c.softMax r ≤ c.homeStartPos d)) ⟨0x0E, doorIndex d 0x29, 1, m⟩
        else refuseIf (decide (c.iLimit d < c.iLow d)) ⟨0x0E, doorIndex d 0x21, 2, doorIndex d 0x21⟩)

/-- 0x0E LIMIT_ORDER: values that break their range relative to another. -/
def checkOrder (c : Cfg) : List Refused :=
  drives.flatMap (checkDriveOrder c)
    ++ ([0, 1] : List (Fin 2)).flatMap (fun e =>
      refuseIf (decide (c.encRatioM e < c.encRatioN e)) ⟨0x0E, 0x1300 + e.val, 2, 0x1300 + e.val⟩)
    ++ ([0, 1] : List CanIx).flatMap (fun h =>
      refuseIf (decide (c.canDataRate h < c.canNomRate h)) ⟨0x0E, 0x5100 + h.val, 4, 0x5100 + h.val⟩)

/-- 0x10 SIDE_POSITION_TWICE (R17). -/
def checkPositions (c : Cfg) : List Refused :=
  doorways.flatMap (fun d => doorways.flatMap (fun f =>
    refuseIf (decide (d.val < f.val) && c.isFitted d && c.isFitted f && c.side d == c.side f && c.position d == c.position f)
      ⟨0x10, doorIndex d 0, 2, f.val⟩))

/-- The transports Table 10.8 allows a session; session 4 is bound to the service port without a record (note 66). -/
def transportAllowed (c : Cfg) (i : SessIx) : Bool :=
  let t := c.sessTransport i
  if i.val < 4 then decide (t ≤ 3) else if i.val = 4 then t == 4 || (c.find (key 0x8004 2)).isNone else t == 0 || t == 5

/-- The two identifiers of a session on a CAN channel (R484): base identifier and format. -/
def sessionIds (c : Cfg) (i : SessIx) : List (Nat × Bool) :=
  let s := c.sessSource i
  [(s % 2 ^ 29, bitOf s 31), (s % 2 ^ 29 + 1, bitOf s 31)]

/-- The identifiers in use on a CAN channel beside the sessions: its message objects and its reference (R484). -/
def otherIds (c : Cfg) (h : CanIx) : List (Nat × Bool) :=
  ((List.finRange 64).filter (fun m => c.objChannel m == h.val)).map (fun m => (c.objId m % 2 ^ 29, bitOf (c.objId m) 31))
    ++ (let s := c.schedImage h
        if schedCycles s = 0 then [] else [(schedRef s % 2 ^ 29, bitOf (schedRef s) 31)])

/-- 0x11 SOURCE_TWICE (R416, R484, R494). -/
def checkSources (c : Cfg) : List Refused :=
  sessions.flatMap (fun i =>
    let t := c.sessTransport i
    refuseIf (!transportAllowed c i || (t == 3 && c.canOwned 1)) ⟨0x11, 0x8000 + i.val, 2, 0xFFFF⟩
      ++ (if t = 2 ∨ t = 3 then
            refuseIf ((sessionIds c i).any (otherIds c (if t = 2 then 0 else 1)).contains) ⟨0x11, 0x8000 + i.val, 3, 0xFFFF⟩
          else [])
      ++ sessions.flatMap (fun j =>
        refuseIf (decide (i.val < j.val) && t != 0 && t == c.sessTransport j &&
          (c.sessSource i == c.sessSource j || ((t == 2 || t == 3) && (sessionIds c i).any (sessionIds c j).contains)))
          ⟨0x11, 0x8000 + i.val, 3, j.val⟩))

/-- 0x12 PRIMARY_TWICE (R388). -/
def checkPrimaries (c : Cfg) : List Refused :=
  sessions.flatMap (fun i => sessions.flatMap (fun j =>
    refuseIf (decide (i.val < j.val) && c.sessDoorPrimary i &&& c.sessDoorPrimary j != 0) ⟨0x12, 0x8000 + i.val, 8, j.val⟩))

/-- 0x13 APP_RIGHTS (R385). -/
def checkAppRights (c : Cfg) : List Refused := refuseIf (bitOf (c.sessRightsGroups 5) 8) ⟨0x13, 0x8005, 5, 0xFFFF⟩

/-- Whether the group that a channel leads has this member in order: adjacent, of one doorway, and naming the leader. -/
def memberOk (c : Cfg) (l m : Nat) : Bool :=
  match channels.find? (fun n => n.val == m) with
  | some n => m / 6 == l / 6 && c.chGroupLeader n == l
  | none => false

/-- 0x14 GROUP_INVALID (R278). -/
def checkGroups (c : Cfg) : List Refused :=
  channels.flatMap (fun n =>
    let l := c.chGroupLeader n
    if l = n.val then
      ((List.range (c.chGroupSize n)).filter (fun i => !memberOk c n.val (n.val + i))).map
        (fun i => ⟨0x14, 0x4000 + n.val, 4, n.val + i⟩)
    else
      let size := match channels.find? (fun q => q.val == l) with
        | some q => if c.chGroupLeader q = l then c.chGroupSize q else 0
        | none => 0
      refuseIf (decide (n.val < l) || decide (l + size ≤ n.val)) ⟨0x14, 0x4000 + l, 3, n.val⟩)

/-- 0x15 LOCK_CHANNEL (R274). -/
def checkLocks (c : Cfg) : List Refused :=
  channels.flatMap (fun n =>
    let lock := c.chFunction n == 4
    let want := n.val % 6 == 3 && c.isFitted (chanDoor n)
    refuseIf ((want && !lock) || (lock && n.val % 6 != 3)
      || (lock && (c.chGroupLeader n != n.val || c.chGroupSize n != 1 || (membersOf c n).length != 1)))
      ⟨0x15, 0x4000 + n.val, 1, n.val⟩)

/-- 0x16 LOCK_FAILSAFE (R302). -/
def checkLockFailsafe (c : Cfg) : List Refused :=
  channels.flatMap (fun n =>
    refuseIf (c.chFunction n == 4 && c.chFailsafe n != 0) ⟨0x16, 0x4000 + n.val, 0x0A, n.val⟩
      ++ refuseIf (c.chFunction n == 4 && c.chStableMode n != 0) ⟨0x16, 0x4000 + n.val, 0x0B, n.val⟩)

/-- 0x17 HEATER_MODE: mode 2 on a channel that does not sense its own temperature. -/
def checkHeaters (c : Cfg) : List Refused :=
  channels.flatMap (fun n =>
    let ok := c.chFunction n == 5 && c.chHeatSense n == 1
    refuseIf (!ok && c.chFailsafe n == 2) ⟨0x17, 0x4000 + n.val, 0x0A, n.val⟩
      ++ refuseIf (!ok && c.chStableMode n == 2) ⟨0x17, 0x4000 + n.val, 0x0B, n.val⟩)

/-- 0x18 OUTPUT_SETTING (R343, Table 8.8). -/
def checkOutputs (c : Cfg) : List Refused :=
  ((List.finRange 16 : List OutIx)).flatMap (fun k =>
    refuseIf (c.outSource k == 5 && !(doorways.any (fun d => d.val == c.outSourceParam k && c.isFitted d)))
      ⟨0x18, 0x4200 + k.val, 1, k.val⟩
      ++ refuseIf (k.val % 2 == 1 && c.outPaired k == 1) ⟨0x18, 0x4200 + k.val, 4, k.val⟩)

/-- 0x19 CONTEXTS_MISSING (R112). -/
def checkSlots (c : Cfg) : List Refused :=
  drives.flatMap (fun r => (List.range 16).flatMap (fun s =>
    refuseIf ((c.driveFitted r && decide (s < 4) && (c.contextMap r s).isNone)
      || (!c.isFitted (doorOf r) && (c.contextMap r s).isSome)) ⟨0x19, motionIndex r 0x12, s + 1, s⟩))

/-- Where the image assigns a context: drive and slot, in order (R402). -/
def assignments (c : Cfg) : List (CtxIx × DriveIx × Nat) :=
  drives.flatMap (fun r => (List.range 16).filterMap (fun s => (c.contextMap r s).map (fun n => (n, r, s))))

/-- The body of a context of a pool: all zero without a record (R402). -/
def poolBody (pool : List (Nat × List Byte)) (n : Nat) : List Byte := (poolBytes pool n).getD (List.replicate 528 0)

/-- DRIVE_CLASS of the contexts that a drive runs: 1 door, 2 step (Table 3.4). -/
def driveClassOf (r : DriveIx) : Nat := if isStep r then 2 else 1

/-- 0x1A CONTEXT_TWICE. -/
def checkTwice (c : Cfg) (pool : List (Nat × List Byte)) : List Refused :=
  let all := assignments c
  all.flatMap (fun (n, r, _) =>
    refuseIf (decide (1 < (all.filter (fun x => x.1 == n)).length) || fieldAt (poolBody pool n.val) 0 1 != driveClassOf r)
      ⟨0x1A, 0x3000 + n.val, 1, r.val⟩)

/-- 0x1B CONTEXT_FORMAT, of every context the image holds (Tables 3.4 to 3.7, R116). -/
def checkContextFormat (pool : List (Nat × List Byte)) : List Refused :=
  pool.filterMap (fun (n, b) => (contextFormat b none).map (fun s => ⟨0x1B, 0x3000 + n, 1, s⟩))

/-- The context assigned, as the generator reads it, with whether its slot is a homing slot (R660). -/
def assignedContexts (c : Cfg) (pool : List (Nat × List Byte)) : List (CtxIx × DriveIx × Nat × Context) :=
  (assignments c).filterMap (fun (n, r, s) => (Context.parse (poolBody pool n.val)).map (fun x => (n, r, s, x)))

/-- A configuration without the energy limit of a drive, by which the velocity, acceleration and position limits of
R118 are checked apart from the energy. -/
def Cfg.withoutEnergy (c : Cfg) (r : DriveIx) : Cfg := c.put (motionKey r 0x11 7) (2 ^ 128)

/-- 0x1C CONTEXT_LIMIT (R118, R171). -/
def checkContextLimit (c : Cfg) (pool : List (Nat × List Byte)) : List Refused :=
  (assignedContexts c pool).flatMap (fun (n, r, s, x) =>
    match checkContext (c.withoutEnergy r) r (s == 2 || s == 3) x with
    | some (k, _) => [⟨0x1C, 0x3000 + n.val, 1, k⟩]
    | none => refuseIf (!isStep r && s == 3 && decide (x.finalPos 0 < c.closedWindow (doorOf r)))
        ⟨0x1C, 0x3000 + n.val, 1, x.segs.length⟩)

/-- 0x1D CONTEXT_ENERGY (R118). -/
def checkContextEnergy (c : Cfg) (pool : List (Nat × List Byte)) : List Refused :=
  (assignedContexts c pool).filterMap (fun (n, r, s, x) =>
    (checkContext c r (s == 2 || s == 3) x).map (fun (k, _) => ⟨0x1D, 0x3000 + n.val, 1, k⟩))

/-- R118's velocity at s*, as numerator and positive denominator, where s* lies inside the segment. -/
def interiorVelocity (p0 v0 : Int) (g : Seg) : Option (Int × Nat) :=
  let t : Int := g.dur
  let ca := 6 * (p0 - g.endPos) * 1000000 + 3 * (v0 + g.endVel) * t
  let cb := -(6 * (p0 - g.endPos) * 1000000) - (4 * v0 + 2 * g.endVel) * t
  if ca ≠ 0 ∧ 0 < (-cb) * sgn ca ∧ (-cb) * sgn ca < 2 * ca.natAbs then
    some ((4 * ca * t * v0 - cb * cb) * sgn ca, 4 * ca.natAbs * g.dur)
  else none

/-- R199: the first of these segments, numbered from n, that runs below 2,000 microsteps/s in the retracting direction;
the last segment is not tested, and segment 1 only at its end. -/
def slowSegment : Nat → Int → Int → List Seg → Option Nat
  | _, _, _, [] => none
  | _, _, _, [_] => none
  | n, p0, v0, g :: gs =>
    let inner := if n = 1 then false
      else (interiorVelocity p0 v0 g).any (fun (v, m) => decide (-(2000 * (m : Int)) < v))
    if -2000 < g.endVel ∨ inner then some n else slowSegment (n + 1) g.endPos g.endVel gs

/-- 0x1E HOME_SPEED (R199). -/
def checkHomeSpeed (c : Cfg) (pool : List (Nat × List Byte)) : List Refused :=
  (assignedContexts c pool).filterMap (fun (n, r, s, x) =>
    if isStep r && (s == 2 || s == 3) then
      (slowSegment 1 x.startMin 0 x.segs).map (fun k => ⟨0x1E, 0x3000 + n.val, 1, k⟩)
    else none)

/-- 0x1F FORCE_HEADROOM (R234). -/
def checkHeadroom (c : Cfg) : List Refused :=
  (doorways.filter c.isFitted).flatMap (fun d =>
    refuseIf (decide (10 * (driveForce c d (c.iLimit d) - (c.fricCoulomb d : Int)) < 11 * (c.forceCeiling d : Int)))
      ⟨0x1F, doorIndex d 0x30, 6, d.val⟩)

/-- R90: the inputs whose filter LOOP_DISAGREE_TIME must exceed: DCS, DLS, DIS, EEH_IN, EEA_OUT, SRS of the fitted
doorways, and TL_LOOP_BYP. -/
def loopInputs (c : Cfg) : List (GroupIx × Nat) :=
  (doorways.filter c.isFitted).flatMap (fun d =>
    [0, 1, 2, 3, 4, 11].map (fun i => ((⟨d.val, by omega⟩ : GroupIx), i))) ++ [(8, 7)]

/-- 0x20 LOOP_TIMING (R90): ITEM is the group in its high byte and the input in its low byte (note 66). -/
def checkLoopTiming (c : Cfg) : List Refused :=
  (loopInputs c).flatMap (fun (g, i) =>
    refuseIf (decide (c.loopDisagreeTime < c.filterTime g i + 10000)) ⟨0x20, 0x1200, 3, g.val * 256 + i⟩)

/-- R254: what a row may not hold for a column. -/
def badReflex (c : Cfg) (row : RowIx) (col : DriveIx) : Bool :=
  let a := reflexAction c row col
  let own := (doorOf col).val
  let n := row.val
  (n < 16 && n / 2 == own && !isStep col && a != .torqueOff && a != .shortBrake)
    || (decide (16 ≤ n) && decide (n < 32) && (n - 16) / 2 == own && !isStep col && a != .torqueOff && a != .shortBrake)
    || (decide (40 ≤ n) && decide (n < 56) && (n - 40) / 2 == own && a != .torqueOff)
    || ((n == 57 || n == 63) && a == .none)
    || (isStep col && a == .reversal)

/-- 0x21 REFLEX_MAP (R254): the columns of drives that are not fitted are ignored. -/
def checkReflex (c : Cfg) : List Refused :=
  ((List.finRange 64 : List RowIx)).flatMap (fun row => (drives.filter c.driveFitted).flatMap (fun col =>
    refuseIf (badReflex c row col) ⟨0x21, 0x1400, row.val + 1, col.val⟩))

/-- 0x22 CONSIST_BLOCK (R403, Table 10.5): ITEM is the block offset of the first field that is wrong. -/
def checkBlock (b : List Byte) (c : Cfg) : List Refused :=
  let k := imageBlock b
  let off : Option Nat :=
    if k.length ≠ 64 ∨ fieldAt k 0 2 ≠ 1 then some 0
    else if fieldAt k 2 1 ≠ 0 then some 2
    else if c.grpPolarity 8 % 256 ≠ fieldAt k 3 1 then some 3
    else if fieldAt k 4 4 = 0 then some 4
    else if 1000000 < fieldAt k 8 4 then some 8
    else if fieldAt k 12 4 < 500000 ∨ 10000000 < fieldAt k 12 4 then some 12
    else if fieldAt k 60 4 ≠ crc32c (k.take 60) ∨ fieldAt b 24 4 ≠ fieldAt k 60 4 then some 60
    else none
  off.toList.map (refusedBare 0x22)

/-- 0x23 CAN_SCHEDULE (Chapter 12): the schedules of the image, and CAN_WAKE without CAN_ENABLE. -/
def checkSchedules (c : Cfg) : List Refused :=
  ([0, 1] : List CanIx).flatMap (fun h =>
    refuseIf (c.canWake h == 1 && c.canEnable h == 0) ⟨0x23, 0x5100 + h.val, 9, 0xFFFF⟩
      ++ (match schedRefusal c h (c.schedImage h) with
          | some (s, _) => [⟨0x23, 0x5180 + h.val, 1, s⟩]
          | none => []))

/-- 0x24 RING_SETTING (R465). -/
def checkRing (c : Cfg) : List Refused :=
  refuseIf (c.ringWake == 1 && c.ringKeepStable == 0) ⟨0x24, 0x5000, 4, 0xFFFF⟩
    ++ sessions.flatMap (fun i =>
      let s := c.sessSource i
      refuseIf (c.sessTransport i == 1 && c.ringEnable == 0) ⟨0x24, 0x8000 + i.val, 2, 0xFFFF⟩
        ++ refuseIf (c.sessTransport i == 1 && (s == 0 || decide (32 < s) || s == c.ringAddress))
          ⟨0x24, 0x8000 + i.val, 3, 0xFFFF⟩)

/-- 0x25 RECORDER_SETTING: bits 1, 2 and 6 of INC_CAUSE_MASK are always set (Table 13.9). -/
def checkRecorder (c : Cfg) : List Refused :=
  refuseIf (!(bitOf c.incCauseMask 1 && bitOf c.incCauseMask 2 && bitOf c.incCauseMask 6)) ⟨0x25, 0x6000, 2, 0xFFFF⟩

/-- The sources of Table 15.12. -/
def watchable (n : Nat) : Bool :=
  (decide (16 ≤ n) && decide (n ≤ 23)) || n == 48 || n == 50 || n == 52 || (decide (120 ≤ n) && decide (n ≤ 125))

/-- 0x26 POWER_SETTING (R562, R594). -/
def checkPower (c : Cfg) : List Refused :=
  refuseIf ((List.range 16).any (fun i => c.watchSel i != 0xFF && !watchable (c.watchSel i))) ⟨0x26, 0x1703, 1, 0xFFFF⟩
    ++ refuseIf (!bitOf c.retainMask 0) ⟨0x26, 0x7000, 1, 0xFFFF⟩
    ++ refuseIf (!bitOf c.wakeEnable 0 || (bitOf c.wakeEnable 3 && c.ringKeepStable == 0)) ⟨0x26, 0x7000, 2, 0xFFFF⟩

/-- The content check (step 4 of Table 10.7): codes 0x0A to 0x26 in the order of Table 10.9. -/
def content (b : List Byte) : Option Refused :=
  match firstRefused [checkFormat b, checkConfigurable b, checkRange b] with
  | some f => some f
  | none =>
    let c := imageCfg b
    let pool := imagePool b
    firstRefused [checkMissing c, checkOrder c, checkPositions c, checkSources c, checkPrimaries c, checkAppRights c,
      checkGroups c, checkLocks c, checkLockFailsafe c, checkHeaters c, checkOutputs c, checkSlots c, checkTwice c pool,
      checkContextFormat pool, checkContextLimit c pool, checkContextEnergy c pool, checkHomeSpeed c pool,
      checkHeadroom c, checkLoopTiming c, checkReflex c, checkBlock b c, checkSchedules c, checkRing c, checkRecorder c,
      checkPower c]

end Sys2Proof.Machine
end

