-- ==== Sys2Proof/Machine/ConfigStore.lean ====
section
/-!
DEFINITION. The configuration store (chapter 10): the two banks, staging (R404 to R406), the check and the commit
(R407 to R413), the image in force and what it gives, and the verification at power-up (R418, R419).
-/

namespace Sys2Proof.Machine

/-- A CFG_COMMIT that waits for its safe point (step 6 of Table 10.7). -/
structure Commit where
  handle   : Nat
  session  : SessIx
  previous : Bool
  cfgId    : Nat
  started  : Nat
  waitFrom : Nat
  deriving DecidableEq, Repr

/-- The configuration banks and the registers of Tables 10.13 and 10.14. The banks, ACTIVE_BANK, PREVIOUS_AVAILABLE,
COMMITTED_AT and the counters survive loss of supply (R411, R424); the rest is working state. -/
structure ConfigStore where
  banks          : Vector (List Byte) 2
  active         : Fin 2
  inForce        : Bool
  cfg            : Cfg
  pool           : List (Nat × List Byte)
  block          : List Byte
  previous       : Bool
  checkPassed    : Bool
  loadFailed     : Bool
  fallback       : Bool
  staged         : Bool
  stagedBytes    : Nat
  stagingSession : Option SessIx
  lastStaged     : Nat
  committedAt    : Nat
  commits        : Nat
  refusals       : Nat
  timeouts       : Nat
  lastRefusal    : Nat
  commit         : Option Commit
  deriving DecidableEq, Repr

/-- The store as delivered: no image, both banks empty (note 85). -/
def ConfigStore.reset : ConfigStore :=
  { banks := ⟨#[[], []], rfl⟩, active := 0, inForce := false, cfg := [], pool := [], block := [], previous := false
    checkPassed := false, loadFailed := false, fallback := false, staged := false, stagedBytes := 0
    stagingSession := none, lastStaged := 0, committedAt := 0, commits := 0, refusals := 0, timeouts := 0
    lastRefusal := 0, commit := none }

/-- The bank that is not in force. -/
def ConfigStore.other (s : ConfigStore) : Fin 2 := 1 - s.active

/-- The image in force, empty without one. -/
def ConfigStore.image (s : ConfigStore) : List Byte := if s.inForce then s.banks[s.active] else []

/-- CFG_ID of the image in force; 0 none. -/
def ConfigStore.cfgId (s : ConfigStore) : Nat := imageId s.image

/-- CSB_ID: CSB_CHECK in force. -/
def ConfigStore.csbId (s : ConfigStore) : Nat := fieldAt s.block 60 4

/-- SCHEME_ID in force. -/
def ConfigStore.scheme (s : ConfigStore) : Nat := fieldAt s.block 4 4

/-- RING_ETHERTYPE in force, with its default. -/
def ConfigStore.etherType (s : ConfigStore) : Nat := if s.inForce then fieldAt s.block 16 2 else 0x88B5

/-- CFG_FLAGS (Table 10.14). -/
def ConfigStore.flagWord (s : ConfigStore) : Nat :=
  bitWord [s.inForce, s.commit.isSome, s.commit.isSome, s.previous, s.checkPassed, s.loadFailed, s.fallback]

/-- STAGED_CFG_ID: from the staged header once 64 bytes are staged. -/
def ConfigStore.stagedId (s : ConfigStore) : Nat :=
  if s.staged ∧ 64 ≤ s.stagedBytes then imageId s.banks[s.other] else 0

/-- PREVIOUS_CFG_ID. -/
def ConfigStore.previousId (s : ConfigStore) : Nat := if s.previous then imageId s.banks[s.other] else 0

/-- Makes the bytes of a bank the configuration in force. -/
def ConfigStore.load (s : ConfigStore) (bank : Fin 2) : ConfigStore :=
  let b := s.banks[bank]
  { s with active := bank, inForce := true, cfg := imageCfg b, pool := imagePool b, block := imageBlock b }

/-- No image is in force (R419). -/
def ConfigStore.unload (s : ConfigStore) : ConfigStore := { s with inForce := false, cfg := [], pool := [], block := [] }

/-- R418: verification at power-up, which tells whether the previous image was put in force. `good` says of each bank
whether its bytes were read without a fault of the memory. -/
def ConfigStore.verify (s : ConfigStore) (good : Fin 2 → Bool) (running : Nat) : ConfigStore × Bool :=
  let ok (b : Fin 2) : Bool := good b && imageGood s.banks[b] running
  if ok s.active then (s.load s.active, false)
  else if s.previous && ok s.other then ({ (s.load s.other) with fallback := true, loadFailed := true }, true)
  else ({ s.unload with loadFailed := true }, false)

/-- R405: the refusal of a staging block, if any: REASON code of Table 10.9. -/
def ConfigStore.stageRefusal (s : ConfigStore) (i : SessIx) (mono offset len : Nat) (first : Bool) : Option Nat :=
  if !first && s.stagingSession != some i then some 0x02
  else if (first && offset != 0) || (!first && offset != s.stagedBytes) || decide (262144 < offset + len) then some 0x01
  else if first && i.val != 4 && s.stagingSession.isSome && s.stagingSession != some i
      && decide (mono < s.lastStaged + 60000000) then some 0x03
  else none

/-- R404, R405: a staged block. A FIRST overwrites the bank that held the previous image. -/
def ConfigStore.stage (s : ConfigStore) (i : SessIx) (mono : Nat) (first : Bool) (block : List Byte) : ConfigStore :=
  let bytes := if first then block else s.banks[s.other].take s.stagedBytes ++ block
  { s with banks := s.banks.set s.other bytes, staged := true, stagedBytes := bytes.length, stagingSession := some i
           lastStaged := mono, previous := if first then false else s.previous, checkPassed := false }

/-- STAGED_CRC (R404). -/
def ConfigStore.stagedCrc (s : ConfigStore) : Nat := crc32c (s.banks[s.other].take s.stagedBytes)

/-- R406: the staging session loses its ownership when it enters CLOSED. -/
def ConfigStore.sessionClosed (s : ConfigStore) (i : SessIx) : ConfigStore :=
  { s with stagingSession := if s.stagingSession = some i then none else s.stagingSession }

/-- Steps 2 to 4 of Table 10.7: the step at which the check stops and its refusal, or none. Where PREVIOUS is set
without a previous image there is nothing to check but code 0x09 (note 66). -/
def ConfigStore.check (s : ConfigStore) (previous : Bool) (id running : Nat) : Option (Nat × Refused) :=
  let b := s.banks[s.other]
  if previous && !s.previous then some (2, refusedBare 0x09 0xFFFF)
  else if !previous && (!s.staged || b.length < 64 || b.length != imageLen b) then some (2, refusedBare 0x04 0xFFFF)
  else match integrity b (some id) with
    | some f => some (2, f)
    | none =>
      if !compatible b running then some (3, refusedBare 0x08 (running / 0x10000))
      else (content b).map (fun f => (4, f))

/-- R413: the result of CFG_COMMIT, 24 bytes. -/
def commitResult (id step : Nat) (f : Option Refused) (wait dur : Nat) : List Byte :=
  le 8 id ++ le 1 step ++ le 1 ((f.map (·.code)).getD 0) ++ le 2 ((f.map (·.index)).getD 0xFFFF)
    ++ le 1 ((f.map (·.sub)).getD 0) ++ le 1 0 ++ le 2 ((f.map (·.item)).getD 0xFFFF) ++ le 4 wait ++ le 4 dur

/-- A commit ends REFUSED: COMMIT_REFUSALS and LAST_REFUSAL (Table 10.13). -/
def ConfigStore.refuse (s : ConfigStore) (f : Refused) : ConfigStore :=
  { s with commit := none, refusals := satInc 16 s.refusals, lastRefusal := f.code + f.sub * 0x100 + f.index * 0x10000
           timeouts := if f.code = 0x30 then satInc 16 s.timeouts else s.timeouts }

/-- R411, R414: the swap of the store itself. -/
def ConfigStore.swap (s : ConfigStore) (now : Nat) : ConfigStore :=
  { (s.load s.other) with
    previous := true, commits := satInc 16 s.commits, committedAt := now, commit := none, checkPassed := false
    staged := false, stagedBytes := 0, stagingSession := none, fallback := false }

/-- R425: the payload of event 0xEA01. -/
def ConfigStore.event (s : ConfigStore) (now cause : Nat) : Nat × List Byte :=
  (0xEA01, le 8 now ++ le 8 s.cfgId ++ le 4 s.csbId ++ le 1 s.active.val ++ le 1 cause ++ le 2 0)

/-- R423: bytes of a bank; beyond its valid content they read as zero. -/
def ConfigStore.read (s : ConfigStore) (other : Bool) (offset len : Nat) : List Byte :=
  let b := if other then s.banks[s.other] else s.image
  let part := (b.drop offset).take len
  part ++ List.replicate (len - part.length) (0 : Byte)

/-- Supply lost or reset: a commit and staging end (R411, R424). -/
def ConfigStore.unpowered (s : ConfigStore) : ConfigStore :=
  { s.unload with commit := none, checkPassed := false, staged := false, stagedBytes := 0, stagingSession := none
                  loadFailed := false, fallback := false }

/-- R175: whether the image changes a value that clears LEARNT; compared with defaults in place. -/
def changesLearnt (old new : Cfg) (d : DoorIx) : Bool :=
  old.edgePitch d != new.edgePitch d || old.hallSequence d != new.hallSequence d || old.hallOffset d != new.hallOffset d
    || old.closedWindow d != new.closedWindow d

/-- R269: whether the image changes a value that clears the learnt envelopes and signature; with defaults in place. -/
def changesEnvelope (old new : Cfg) (d : DoorIx) : Bool :=
  old.edgePitch d != new.edgePitch d || old.kt d != new.kt d || old.transLead d != new.transLead d
    || old.transEff d != new.transEff d || old.fricCoulomb d != new.fricCoulomb d || old.fricViscous d != new.fricViscous d
    || old.movingMass (doorDrive d) != new.movingMass (doorDrive d) || old.envStroke d != new.envStroke d

end Sys2Proof.Machine
end

