-- ==== Sys2Proof/Machine/DoorRows.lean ====
section
/-!
DEFINITION. What each occurrence at a doorway does there (chapters 1, 3, 4, 5 and 6): the inputs, the timers of the state
machine, the ends of motions, Hall and drive conditions, step conditions and the reflexes' aftermath. Each answers the
doorway worked on with the effects it has outside.
-/

namespace Sys2Proof.Machine

/-- R168: the index comparison of a captured DCS edge, on the make of a closing stroke or the break of an opening one.
A reopen is an opening stroke (Table 6.8). The first break capture after a relearn, while the position is known, is taken as
DCS_BREAK_POS (R174; DEDUCED, note 122). -/
def indexCompare (e : DoorEnv) (make : Bool) (w : Work) : Work :=
  let q := w.dw.door
  let closing := w.dw.course.1 == .closing && w.dw.course.2 == .move
  let opening := w.dw.course.1 == .opening || w.dw.course.1 == .reopening || w.dw.course.1 == .obstructed
  let learntAt := if make then q.learnt.makePos else q.learnt.breakPos
  match (if make then q.makeCapture else q.breakCapture) with
  | none => w
  | some t =>
    let p := roundDiv ((t - q.hall.zeroOffset) * e.cfg.edgePitch e.d) 64
    if !make && q.flags.breakDue && !q.flags.suspect then
      w.door (fun q => { q with
        learnt := { q.learnt with breakPos := some p }
        flags := { q.flags with breakDue := false, learnt := q.learnt.makePos.isSome } })
    else if (make && closing || !make && opening) && q.flags.learnt && !q.flags.suspect && !q.flags.compared then
      match learntAt with
      | none => w
      | some l =>
        let w := w.doorFlags (fun f => { f with compared := true })
        if (p - l).natAbs ≤ 3 * e.cfg.edgePitch e.d then indexShift e (p - l) w
        else
          let w := markSuspect e 1 (p - l) w
          if make then sealSeekStart e w
          else
            let g := w.dw.door.gen
            doorMove e (roleEnd e (doorDrive e.d) g 0 (g.base (doorEnvOf e w.dw)).pos) (e.cfg.vCreep e.d) false w
    else w

/-- A change of a raw input: DCS edges are captured (R168), SRS transitions counted (R201). -/
def rawChange (e : DoorEnv) (i : Nat) (b : Bool) (w : Work) : Work :=
  if w.dw.inp.raw.getLsbD i = b then w
  else
    let w := { w with dw := { w.dw with inp := { w.dw.inp with raw := setBit w.dw.inp.raw i b } } }
    let t := w.dw.door.hall.ticks + w.dw.door.hall.zeroOffset
    if i = 0 then
      w.door (fun q => if b then { q with makeCapture := some t } else { q with breakCapture := some t })
    else if i = 11 then srsTransition e b w
    else w

/-- R33: a break of DCS or DLS that the module did not command. -/
def uncommanded (w : Doorway) (dls : Bool) : Bool :=
  (w.sm.state == .locked || w.sm.state == .released) && !w.eehIn && !w.eeaOut && !(dls && w.sm.flags.grace)

/-- A change of a filtered input (R24, R33, R168, R181, R203, R213). -/
def filteredChange (e : DoorEnv) (i : Nat) (b : Bool) (w : Work) : Work :=
  if w.dw.inp.filtered.getLsbD i = b then w
  else
    let w := { w with dw := { w.dw with inp := { w.dw.inp with filtered := setBit w.dw.inp.filtered i b } } }
    let w := if (i = 0 ∨ i = 1) ∧ !b ∧ w.dw.door.flags.suspectHeld then markSuspect e 2 0 w else w
    if i = 0 then
      let w := if !b && uncommanded w.dw false then w.smFlags (fun f => { f with unlockSeen := true }) else w
      let w := if b then w else w.smFlags (fun f => { f with solenoidOff := true })
      indexCompare e b w
    else if i = 1 then
      if b then w.smFlags (fun f => { f with grace := false })
      else if uncommanded w.dw true then w.smFlags (fun f => { f with unlockSeen := true })
      else w
    else if i = 5 then (if b then w.sm (fun m => { m with edges := { m.edges with openIn := true } }) else w)
    else if i = 6 then (if b then w.sm (fun m => { m with edges := { m.edges with openOut := true } }) else w)
    else if i = 7 then (if b then w.sm (fun m => { m with edges := { m.edges with cpb := true } }) else w)
    else if i = 8 ∨ i = 9 then
      -- R229: with SE_PATH_FAULT the filtered edge is itself a reflex trip; an edge that opens ends the event of its row
      if !b then w.obst (fun q => { q with seFast := if i = 8 then (false, q.seFast.2) else (q.seFast.1, false) })
      else if w.dw.obst.flags.sePathFault then
        (recordTrip e (2 * e.d.val + (i - 8)) w).obst (fun q => { q with
          pending := some { source := 2 * e.d.val + (i - 8), fromSeal := false }
          counters := { q.counters with seTrips := satInc 32 q.counters.seTrips } })
      else w
    else if i = 10 then
      if !b && w.dw.step.flags.deployed then w.stepFlags (fun f => { f with deployed := false, sdsLost := true }) else w
    else if i = 11 then
      let w := if b then w.step (fun q => { q with run := { q.run with srsSeen := true, srsMade := true } }) else w
      if b then w else w.stepFlags (fun f => { f with standing := false })
    else w

/-- An input takes a level, raw and filtered alike, with its filter at rest. -/
def setInput (e : DoorEnv) (i : Nat) (b : Bool) (w : Work) : Work :=
  let w := filteredChange e i b (rawChange e i b w)
  let n := e.cfg.filterTime ⟨e.d.val, by omega⟩ i / 20
  { w with dw := { w.dw with inp := { w.dw.inp with counts := w.dw.inp.counts.set i (if b then n else 0) } } }

/-! ## Inputs -/

/-- OPB_IN or OPB_OUT changes (R24, R30). -/
def onOpenButton (e : DoorEnv) (outside active : Bool) (w : Work) : Work :=
  doorTick e (setInput e (if outside then 6 else 5) active w)

/-- CPB changes (R24). -/
def onCloseButton (e : DoorEnv) (active : Bool) (w : Work) : Work := doorTick e (setInput e 7 active w)

/-- DIS is made or breaks (R43, R44). -/
def onDis (e : DoorEnv) (made : Bool) (w : Work) : Work := doorTick e (setInput e 2 made w)

/-- An egress input becomes active (R41). -/
def onEgress (e : DoorEnv) (which : Egress) (w : Work) : Work :=
  doorTick e (setInput e (match which with
    | .inside => 3
    | .outside => 4) true w)

/-- Both egress inputs are inactive (Table 1.6). -/
def onEgressEnds (e : DoorEnv) (w : Work) : Work := doorTick e (setInput e 4 false (setInput e 3 false w))

/-- R33: DCS or DLS breaks. -/
def onUnlockSeen (e : DoorEnv) (sw : DoorSwitch) (w : Work) : Work :=
  doorTick e (setInput e (match sw with
    | .dcs => 0
    | .dls => 1) false w)

/-- R25: a pair has been implausible for 200 ms: the inputs stand so, and the condition is taken at the tick. -/
def onImplausible (e : DoorEnv) (p : Implausible) (w : Work) : Work :=
  let w := match p with
    | .dlsWithoutDcs => setInput e 0 false (setInput e 1 true w)
    | .sdsWithSrs => setInput e 11 true (setInput e 10 true w)
  doorTick e (w.smFlags (fun f => { f with plausibility := true, unlockSeen := false }))

/-- R179: DCS has been made for 200 ms far above DCS_BREAK_POS. -/
def onDcsImplausible (e : DoorEnv) (w : Work) : Work :=
  if dcsImplausible e w.dw then doorTick e (w.smFlags (fun f => { f with plausibility := true })) else w

/-- R26: the group's common fault bit. -/
def onGroupFault (e : DoorEnv) (on : Bool) (w : Work) : Work :=
  doorTick e { w with dw := { w.dw with inp := w.dw.inp.seeFault on } }

/-- Table 1.6: an input fault cause has been gone for 1 s. -/
def onInputCauseGone (e : DoorEnv) (w : Work) : Work :=
  if w.dw.sm.state = .fault ∧ (w.dw.sm.cause = .faultInputGroup ∨ w.dw.sm.cause = .faultInputInvalid)
      ∧ w.dw.inp.flags.valid ∧ !w.dw.inp.flags.commonFault then settle e w
  else w

/-! ## Unlocking, opening, closing and locking -/

/-- UNLOCK_TIMEOUT expires (R176, Table 1.6). -/
def onUnlockTimeout (e : DoorEnv) (w : Work) : Work :=
  let w := w.smFlags (fun f => { f with solenoidOff := true })
  if w.dw.sm.state = .unlocking ∧ w.dw.dls then
    let w := (w.smFlags (fun f => { f with unlockFailed := true })).count
      (fun c => { c with unlockFails := satInc 16 c.unlockFails })
    doorTickWith e (fun w => if w.dw.sm.state = .unlocking then backFromUnlocking e none w else w) w
  else if w.dw.course.1 = .unlocking ∧ w.dw.dls then
    -- the same in a maintenance operation: the doorway locks again and the operation ends
    let w := (w.smFlags (fun f => { f with unlockFailed := true })).count
      (fun c => { c with unlockFails := satInc 16 c.unlockFails })
    settle e w
  else w

/-- DLS breaks in UNLOCKING (Table 1.6). -/
def onDlsBreak (e : DoorEnv) (w : Work) : Work :=
  if w.dw.course.1 = .unlocking then doorTick e (setInput e 1 false w) else w

/-- Filtered DCS breaks while opening (R176). -/
def onDcsBreakOpening (e : DoorEnv) (w : Work) : Work :=
  if w.dw.course.1 = .opening then doorTick e (setInput e 0 false w) else w

/-- R216: the grace after a return from UNLOCKING ends. -/
def onGraceEnd (w : Work) : Work := w.smFlags (fun f => { f with grace := false })

/-- PRE_CLOSE_WARN ends (R37). -/
def onWarnEnd (e : DoorEnv) (w : Work) : Work :=
  doorTickWith e (fun w => if w.dw.course = (.closing, .warn) then enterMove e w else w) w

/-- DWELL expires in OPEN (Table 1.4). -/
def onDwellEnd (e : DoorEnv) (w : Work) : Work :=
  doorTickWith e (fun w => if w.dw.sm.state = .opened ∧ e.cfg.dwell e.d ≠ 0 then doLocalClose e .closeDwell w else w) w

/-- DCS is made in CLOSING phase MOVE (Table 1.6). -/
def onDcsMade (e : DoorEnv) (w : Work) : Work :=
  if w.dw.course = (.closing, .move) then doorTick e (setInput e 0 true w) else w

/-- R177: DLS has been made for 50 ms in phase LOCK. In a maintenance cycle it ends the cycle (R61, R240, R242). -/
def onDlsConfirmed (e : DoorEnv) (w : Work) : Work :=
  if w.dw.course = (.closing, .lock) then
    let w := setInput e 1 true w
    let w := (w.smFlags (fun f => { f with dlsConfirmed := true })).door (fun q => { q with push := .holding })
    let derated := (w.dw.cycle.map (fun c => c.flags.derated)).getD false
    let w := match w.dw.sm.state, w.dw.sm.maint with
      | .maint, some m =>
        match m.op with
        | .test _ => w.sm (fun q => { q with maint := some { m with done := m.done + 1 } })
        | .learn =>
          if m.ending then w
          else if derated then
            let m' := { m with discarded := m.discarded + 1, ending := decide (5 ≤ m.discarded + 1) }
            w.sm (fun q => { q with maint := some m' })
          else if m.done + 1 < 8 then w.sm (fun q => { q with maint := some { m with done := m.done + 1 } })
          else
            let r := learnCommits e (w.sm (fun q => { q with maint := some { m with done := 8 } }))
            if r.2 then maintStops 0 0 r.1 else maintStops 2 0x3C r.1
        | _ => w
      | _, _ => w
    doorTick e w
  else w

/-- R178: a lock attempt ends without DLS confirmed. -/
def onLockAttemptEnd (e : DoorEnv) (w : Work) : Work :=
  if w.dw.course = (.closing, .lock) ∧ !w.dw.sm.flags.dlsConfirmed then
    if w.dw.door.attempt < e.cfg.lockRetries e.d + 1 then
      (w.door (fun q => { q with attempt := q.attempt + 1, attemptAt := e.mono, push := .relaxing })).cycleFlags
        (fun f => { f with lockRetried := true })
    else
      doorTickWith e (fun w =>
        if w.dw.course = (.closing, .lock) then
          doorHold e ((enter e .closedUnlocked .none none (maintStops 3 0 w)).door (fun q => { q with push := .holding }))
        else w) w
  else w

/-- DLS is made in CLOSED_UNLOCKED (Table 1.6). -/
def onDlsMadeClosedUnlocked (e : DoorEnv) (w : Work) : Work :=
  if w.dw.sm.state = .closedUnlocked then
    doorTick e ((setInput e 1 true w).smFlags (fun f => { f with dlsConfirmed := true }))
  else w

/-- DCS breaks in CLOSED_UNLOCKED (Table 1.6). -/
def onDcsBreakClosedUnlocked (e : DoorEnv) (w : Work) : Work :=
  if w.dw.sm.state = .closedUnlocked then
    doorTick e (setInput e 0 false w)
  else w

/-- REOPEN_DWELL ends (R264). -/
def onReopenDwellEnd (e : DoorEnv) (w : Work) : Work :=
  doorTickWith e (fun w =>
    if w.dw.sm.state = .reopening ∧ w.dw.sm.phase = .reopenDwell then
      enterWarn e none false w
    else w) w

/-- R61: the 2 s open hold of a maintenance cycle ends. -/
def onMaintHoldEnd (e : DoorEnv) (w : Work) : Work :=
  if w.dw.sm.state = .maint ∧ w.dw.course.1 = .opened then maintClose e w else w

/-! ## Ends of motion -/

/-- The door drive's path reaches its end (Table 3.2). -/
def doorPathEnds (e : DoorEnv) (w : Work) : Work :=
  if w.dw.door.gen.state != .moving || w.dw.door.gen.stopping || w.dw.door.gen.path.isNone then w
  else
    let w := w.door (fun q => { q with gen := q.gen.complete })
    match w.dw.course.1, w.dw.course.2 with
    | .opening, _ =>
      doorTick e ((w.smFlags (fun f => { f with openComplete := true, solenoidOff := true })).doorFlags
        (fun f => { f with openedOnce := true }))
    | .reopening, .reopenMove => enterDwell e w
    | .closing, .move =>
      if w.dw.door.flags.suspect || w.dw.obst.flags.sePathFault then sealSeekStart e w else doorTick e w
    | _, _ => w

/-- A HOME_STEP or a retraction in ISOLATED ends with its homing (R221, R503). -/
def homingEnds (e : DoorEnv) (w : Work) : Work :=
  match w.dw.sm.state, w.dw.sm.maint with
  | .isolated, some _ => cycleEnd DoorState.isolated.code (maintStops 0 0 w)
  | .isolated, none => cycleEnd DoorState.isolated.code w
  | .maint, some m =>
    match m.op with
    | .home _ => settle e (maintStops 0 0 w)
    | _ => doorTick e w
  | _, _ => doorTick e w

/-- After a step action: a finished homing, or a fault that rank 4 takes. -/
def afterStep (e : DoorEnv) (w : Work) : Work :=
  if w.dw.step.faultCode ≠ 0 ∧ w.dw.sm.state = .isolated then cycleEnd DoorState.isolated.code (maintStops 5 0 w)
  else if w.dw.step.faultCode = 0 ∧ w.dw.step.job = .none ∧ w.dw.step.flags.homed then homingEnds e w
  else doorTick e w

/-- The step drive's path reaches its end. -/
def onStepPathEnds (e : DoorEnv) (w : Work) : Work :=
  if w.dw.step.gen.state != .moving || w.dw.step.gen.stopping then w else afterStep e (stepPathEnds e w)

/-- R115, Table 3.7: a segment with EVENT_AT_END ends. -/
def onSegmentEnd (w : Work) : Work := w.cycleFlags (fun f => { f with segmentMark := true })

/-- R125, R126, R261: the stopping door drive reaches rest. The stop of a reopen is then over; an opening brought to rest
in phase WARN holds there (R38). -/
def onDoorStopped (e : DoorEnv) (w : Work) : Work :=
  match w.dw.door.gen.state, w.dw.door.gen.path with
  | .moving, some p =>
    if p.stopping then
      let w := w.door (fun q => { q with gen := q.gen.stopped p.planTo, integ := 0 })
      if w.dw.obst.flags.reflexStop then afterReflexStop e (releaseLatch e w) else w
    else if w.dw.course = (.closing, .warn) then w.door (fun q => { q with gen := q.gen.complete })
    else w
  | _, _ => w

/-- The stopping step drive reaches rest. -/
def onStepStopped (w : Work) : Work :=
  match w.dw.step.gen.state, w.dw.step.gen.path with
  | .moving, some p =>
    if p.stopping then w.step (fun q => { (q.moveTo p.planTo) with gen := q.gen.stopped p.planTo, timer := none, resolution := 1 })
    else w
  | _, _ => w

/-- R127: an interruption stops the other drive, and the doorway enters STOPPED as by a stop demand; CLOSING phase LOCK
has no such transition. -/
def interruptionStop (e : DoorEnv) (w : Work) : Work :=
  match w.dw.sm.state, w.dw.sm.phase with
  | .closing, .lock => w
  | .unlocking, _ => backFromUnlocking e (some .stopDriveInterrupted) w
  | .opening, ph | .closing, ph | .reopening, ph =>
    let st := w.dw.sm.state
    let w := enter e .stopped .none (some .stopDriveInterrupted) w
    stopDrives e false (w.sm (fun m => { m with interrupted := some (st, ph), flags := { m.flags with solenoidOff := true } }))
  | .opened, _ =>
    stopDrives e false ((enter e .stopped .none (some .stopDriveInterrupted) w).sm (fun m => { m with interrupted := none }))
  | _, _ => w

/-- R127, R183, R220: an interruption of one drive of the doorway. -/
def onInterruption (e : DoorEnv) (step : Bool) (x : Interruption) (w : Work) : Work :=
  let moving := if step then w.dw.step.gen.state == .moving else w.dw.door.gen.state == .moving
  let w := if step then stepInterrupted e x w else doorInterrupted e x w
  if moving then doorTickWith e (interruptionStop e) w else w

/-- R211: the step motion that the doorway's state and phase require: a retraction (true) or a deployment. -/
def stepRequired (e : DoorEnv) (w : Doorway) : Option Bool :=
  match w.course with
  | (.closing, .lock) | (.isolated, _) => some true
  | (.unlocking, _) => if e.cfg.stepSequence e.d = 0 then some false else none
  | (.opening, _) => some false
  | _ => none

/-- R211: torque is back on a step that lost its position under way: what the doorway still requires begins again, and a
motion that it no longer requires is over. -/
def stepRegains (e : DoorEnv) (w : Work) : Work :=
  let q := w.dw.step
  if q.gen.torqueless || !q.flags.lost || q.job == .none then w
  else match stepRequired e w.dw with
    | some r => stepBeginsAgain e r w
    | none => w.step (fun q => { q with
        timer := none
        gen := if q.gen.state = .moving then { (q.gen.stopped q.position) with kept := none, remaining := 0 } else q.gen })

/-- R658: whether the cause of an interruption is seen to have ended: THERMAL_HOLD clears below 110 °C, the leaves are slower
than 1,000 µm/s, a valid Hall code is present. The other causes end outside the doorway. -/
def causeEnds (e : DoorEnv) (step : Bool) (x : Interruption) (w : Doorway) : Bool :=
  match x with
  | .temperature => decide ((if step then w.step.bridgeTemp else w.door.bridgeTemp) < 1100)
  | .following => decide (w.door.hall.velocity.natAbs < 1000)
  | .hall => (sectorOf (e.cfg.hallSequence e.d) w.door.hall.code).isSome
  | .dcLow | .dcHigh | .legSubstitution => true

/-- R658, R211: the cause of an interruption ends. -/
def onInterruptionEnd (e : DoorEnv) (step : Bool) (x : Interruption) (w : Work) : Work :=
  if !causeEnds e step x w.dw then w
  else if step then stepRegains e (stepInterruptionEnds e x w)
  else doorInterruptionEnds e x w

/-! ## Hall, drive faults and limits -/

/-- R130, R153: the hardware's part of a change of the Hall code: the compare is tested at the register as it was, and the
counter takes the code. -/
def hallHardware (e : DoorEnv) (code since : Nat) (w : Work) : Work × HallEvent :=
  let w := doorCompare e w
  let x := w.dw.door.hallChange e.cfg e.d code since
  (w.door (fun _ => x.1), x.2)

/-- Table 4.6: what a change of the Hall code means to the engine: the fifth skip of a stroke and a step of 3 sectors. -/
def hallReacts (e : DoorEnv) (x : HallEvent) (w : Work) : Work :=
  match x with
  | .quiet | .glitch => w
  | .skip => if w.dw.door.hall.skips = 5 then hallSuspect e w else w
  | .jump => hallSuspect e (if w.dw.door.gen.state == .moving then onInterruption e false .hall w else w)

/-- Table 4.6: an invalid Hall code for 100 µs. `consistent` and `after` say how the code returned: consistently, and
after how many µs. -/
def onHallDropout (e : DoorEnv) (consistent : Bool) (after : Nat) (w : Work) : Work :=
  let w := w.door (fun q => { q with
    flags := { q.flags with hallDropout := true }
    counters := { q.counters with dropouts := satInc 16 q.counters.dropouts } })
  let w := if w.dw.door.gen.state == .moving then onInterruption e false .hall w
    else w.door (fun q => { q with gen := q.gen.interrupt (doorEnvOf e w.dw) .hall })
  if consistent && decide (after ≤ 20000) then w else hallSuspect e w

/-- R180: HALL_LOST or HALL_SUPPLY. -/
def onHallFault (e : DoorEnv) (code : Nat) (w : Work) : Work :=
  if w.dw.door.faultCode ≠ 0 then hallSuspect e w else doorTick e (hallSuspect e (doorFault e code 0 w))

/-- The FAULT_CODE of a hardware trip (Tables 4.7 and 5.5). -/
def tripCode : HwTrip → Nat
  | .overcurrent => 1 | .desat => 2 | .gateSupply => 3 | .phaseOpen => 4 | .currentSensor => 5

/-- R182, R219: a hardware trip removes torque and latches a fault; `peak` is the highest current of R186 or R226. -/
def onHardwareTrip (e : DoorEnv) (step : Bool) (t : HwTrip) (peak : Nat) (w : Work) : Work :=
  let value : Int := if t = .currentSensor then 0 else peak
  if step then (if w.dw.step.faultCode ≠ 0 then w else afterStep e (stepFault e (tripCode t) value w))
  else (if w.dw.door.faultCode ≠ 0 then w else doorTick e (doorFault e (tripCode t) value w))

/-- R159: DIRECTION, on the first opening only: the register has fallen 20 edges under a positive q command. -/
def onDirection (e : DoorEnv) (w : Work) : Work :=
  let q := w.dw.door
  if w.dw.course.1 = .opening ∧ !q.flags.openedOnce ∧ q.faultCode = 0 ∧ 0 < q.iqCmd ∧ q.hall.ticks + 1280 ≤ q.dirHigh then
    doorTick e (doorFault e 8 0 w)
  else w

/-- R164: a following error beyond FOLLOW_ERR_MAX, while MOVING outside seal seek and phase LOCK. -/
def onFollowing (e : DoorEnv) (w : Work) : Work :=
  let q := w.dw.door
  if q.gen.state = .moving ∧ !q.flags.sealSeek ∧ w.dw.course ≠ (.closing, .lock)
      ∧ e.cfg.followErrMax e.d < (q.gen.ref.pos - (doorKin e w.dw).pos).natAbs then
    onInterruption e false .following w
  else w

/-- R163, R194: a bridge reaches 125 °C. -/
def onThermal (e : DoorEnv) (step : Bool) (temp : Int) (w : Work) : Work :=
  let w := if step then w.step (fun q => { q with bridgeTemp := temp }) else w.door (fun q => { q with bridgeTemp := temp })
  let held := if step then w.dw.step.flags.thermalHold else w.dw.door.flags.thermalHold
  if 1250 ≤ temp ∧ !held then onInterruption e step .temperature w else w

/-- R163: a bridge falls below 110 °C. -/
def onThermalClear (e : DoorEnv) (step : Bool) (temp : Int) (w : Work) : Work :=
  let w := if step then w.step (fun q => { q with bridgeTemp := temp }) else w.door (fun q => { q with bridgeTemp := temp })
  onInterruptionEnd e step .temperature w

/-- R168: filtered DCS confirms a captured edge. -/
def onDcsEdge (e : DoorEnv) (make : Bool) (w : Work) : Work :=
  doorTick e (if w.dw.inp.filtered.getLsbD 0 = make then indexCompare e make w else setInput e 0 make w)

/-- R172: a seal stall, the leaves being slower than 1,000 µm/s: a relearn with DCS made, else a final-closure trip passed to
the state machine (R250). -/
def onSealStall (e : DoorEnv) (w : Work) : Work :=
  if !w.dw.door.flags.sealSeek || decide (1000 ≤ w.dw.door.hall.velocity.natAbs) then w
  else if w.dw.dcs then
    let w := relearn e w
    let w := if w.dw.course = (.closing, .move) then enterLock e w else w
    doorTick e w
  else
    let src := 32 + e.d.val + 3 * 64
    let w := countFinalClosure (recordTrip e src w)
    (w.doorFlags (fun f => { f with sealSeek := false })).obst (fun q => { q with
      pending := some { source := src, fromSeal := true } })

/-- R173: seal seek travels beyond SEAL_SEEK_MAX on the position register. -/
def onSealOvertravel (e : DoorEnv) (w : Work) : Work :=
  if w.dw.door.flags.sealSeek
      && decide (e.cfg.sealSeekMax e.d < (w.dw.door.sealStart - doorPos e.cfg e.d w.dw.door.hall).natAbs) then
    doorTick e (doorFault e 9 0 w)
  else w

/-! ## Step -/

/-- The coils at the k-th step issued, as measured. -/
def coilsAt (free k : Nat) : CoilSample :=
  { currentA := Config.measured .coilCurrent (free + 2 * k), slopeA := Config.measured .coilSlope (free + 2 * k)
    currentB := Config.measured .coilCurrent (free + 2 * k + 1), slopeB := Config.measured .coilSlope (free + 2 * k + 1) }

/-- R190 to R192, R196: a step is issued at a time on the curve: the compare is tested, the full step in progress sampled, the
next step timed, and a slip acted on (R198). -/
def issueStep (e : DoorEnv) (p : Path) (t : Nat) (move : Int) (c : CoilSample) (w : Work) : Work :=
  let w := stepCompare e w
  let r := w.dw.step.issue e.cfg e.d move c
  let due := StepDrive.nextStep p t r.1
  let w := w.step (fun _ => { r.1 with
    timer := due
    resolution := match due with
      | some x => x.move.natAbs
      | none => 1 })
  if r.2 then
    stepLose e 1 (w.step (fun q => { q with counters := { q.counters with lostSteps := satInc 16 q.counters.lostSteps } }))
  else w

/-- STALL_STEPS full steps in succession are stall-marked (R197). -/
def stallMarked (e : DoorEnv) (w : Doorway) : Bool :=
  w.step.gen.state == .moving && decide (e.cfg.stallSteps e.d ≤ w.step.load.marks)

/-- R192: the interval timer expires. With no step timed, the expiry is that of the step to the register ± 1 towards the end
of the path (note 116). -/
def onStepTimer (e : DoorEnv) (w : Work) : Work :=
  let q := w.dw.step
  match q.gen.path with
  | none => w
  | some p =>
    let x := q.timer.getD { ticks := 0, move := sgn (p.target - q.position) }
    if !e.ready || q.gen.flags.tracking || p.fresh || x.move == 0 || stallMarked e w.dw then w
    else (issueStep e p (100 * p.elapsed + q.ahead + x.ticks) x.move (coilsAt e.free 0) w).step (fun q => { q with ahead := q.ahead + x.ticks })

/-- R197, R199: a confirmed stall, with the register at its onset. -/
def onStall (e : DoorEnv) (w : Work) : Work :=
  if !stallMarked e w.dw then w
  else
    let onset := w.dw.step.load.onset
    let r := stepStall e onset (w.step (fun q => { q with load := { q.load with marks := 0, slipDue := false } }))
    if r.2 then doorTickWith e (doLocalClose e .closeStepFailed) r.1 else afterStep e r.1

/-- R197: a stall is reported with its onset; it is one that the estimate shows, or nothing
(DEDUCED, note 133). -/
def onStallReport (e : DoorEnv) (onset : Int) (w : Work) : Work := if w.dw.step.load.onset = onset then onStall e w else w

/-- R205: the homing phase ends without a stall. -/
def onHomingOvertravel (e : DoorEnv) (w : Work) : Work :=
  if w.dw.step.job = .homing ∨ w.dw.step.job = .creepHoming then afterStep e (stepFault e 0x11 0 w) else w

/-- R206: the park ends. -/
def onParkComplete (e : DoorEnv) (w : Work) : Work :=
  if w.dw.step.job = .parking then afterStep e (finishPark e w) else w

/-- R213: the DEPLOY context completes. -/
def onDeployComplete (e : DoorEnv) (w : Work) : Work :=
  if w.dw.step.job = .deploying then doorTick e (deployCompletes e w) else w

/-- R214: SDS was not made within 200 ms. -/
def onSdsTimeout (e : DoorEnv) (w : Work) : Work :=
  if w.dw.step.job = .awaitSds then
    let r := deployFails e w
    if r.2 then doorTickWith e (doLocalClose e .closeStepFailed) r.1 else doorTick e r.1
  else w

/-- R213: filtered SDS breaks after deployment. -/
def onSdsLost (e : DoorEnv) (w : Work) : Work := setInput e 10 false w

/-- R218: the retry pause ends. -/
def onRetryPauseEnd (e : DoorEnv) (w : Work) : Work :=
  if w.dw.step.job = .retryPause then afterStep e (startHomingPhase e true w) else w

/-! ## Reflexes -/

/-- R259: the state machine takes the trip that Quince latched. -/
def onTripTaken (e : DoorEnv) (w : Work) : Work := doorTick e w

/-- R110, R268: torque is back on a door drive whose latch was released: it goes on from the measured state. -/
def resumeDoor (e : DoorEnv) (w : Work) : Work :=
  let g := w.dw.door.gen
  if g.torqueless then w
  else
    let w := w.door (fun q => { q with
      gen := { q.gen with ref := { (doorKin e w.dw) with vel := 0 }, flags := { q.gen.flags with tracking := true } } })
    match g.state, g.path with
    | .moving, some p =>
      if p.stopping then w.door (fun q => { q with gen := Gen.tracked (q.gen.stop (doorEnvOf e w.dw) false) })
      else doorResume e (w.door (fun q => { q with gen := { q.gen with kept := some p.keep } }))
    | .moving, none => if w.dw.door.flags.sealSeek then sealSeekStart e w else doorHold e w
    | .hold, _ => doorHold e w
    | _, _ => w.door (fun q => { q with gen := q.gen.tracked })

/-- R268, R211: no latched onset row has its event present; the leaf engine releases the latches, and the drives that they
braked go on. -/
def onLatchRelease (e : DoorEnv) (w : Work) : Work :=
  if (w.dw.door.latch.action = .none ∧ w.dw.step.latch.action = .none) ∨ w.dw.obst.flags.reflexStop then w
  else
    let door := w.dw.door.gen.braked
    let step := w.dw.step.gen.braked
    let w := releaseLatch e (w.obst (fun q => { q with seFast := (false, false) }))
    let w := if door then resumeDoor e w else w
    if step then stepRegains e w else w

/-- R261: the leaves are slow enough, or 300 ms have passed: the reflex stop under a torque reflex ends. -/
def onReflexStopEnd (e : DoorEnv) (w : Work) : Work :=
  if w.dw.obst.flags.reflexStop && w.dw.door.gen.braked then
    let step := w.dw.step.gen.braked
    let w := afterReflexStop e (releaseLatch e w)
    if step then stepRegains e w else w
  else w

/-- R228: the fast path and the filtered state of an edge agree. -/
def Doorway.edgeAgrees (w : Doorway) (edge2 : Bool) : Bool :=
  (if edge2 then w.obst.seFast.2 else w.obst.seFast.1) == w.input (if edge2 then 9 else 8)

/-- R228: SE_PATH_FAULT. -/
def onSePathFault (e : DoorEnv) (edge2 : Bool) (w : Work) : Work :=
  if w.dw.obst.flags.sePathFault || w.dw.edgeAgrees edge2 then w
  else
    let code := if edge2 then 2 else 1
    let w := w.obst (fun q => { q with
      seFaultEdge := code, flags := { q.flags with sePathFault := true }
      counters := { q.counters with sePathFaults := satInc 16 q.counters.sePathFaults } })
    (w.obstEvent e 0xE604 code 1 0).emit (.incident 11 false)

/-- R228: SE_PATH_FAULT clears. -/
def onSePathClear (e : DoorEnv) (w : Work) : Work :=
  if w.dw.obst.flags.sePathFault && w.dw.edgeAgrees false && w.dw.edgeAgrees true then
    (w.obstFlags (fun f => { f with sePathFault := false })).obstEvent e 0xE604 w.dw.obst.seFaultEdge 0 0
  else w

/-- R235: ENV_BREAKAWAY_TIME ends. -/
def onBreakawayEnd (w : Work) : Work := w.obstFlags (fun f => { f with breakaway := false })

/-- R245: the adaptation window of a direction ends after 1,000 adapted strokes. -/
def onAdaptWindowEnd (closing : Bool) (w : Work) : Work :=
  w.obst (fun q =>
    if closing then (if 1000 ≤ q.closeEnv.windowUsed then { q with closeEnv := restartWindow q.closeEnv } else q)
    else (if 1000 ≤ q.openEnv.windowUsed then { q with openEnv := restartWindow q.openEnv } else q))

/-- R246: the adapted bins are written to MRAM. -/
def saveEnvelopes (w : Work) : Work :=
  w.obst (fun q => { q with
    closeEnv := { q.closeEnv with saved := q.closeEnv.bins }, openEnv := { q.openEnv with saved := q.openEnv.bins } })

/-- Every 64th adapted stroke writes the bins (R246). -/
def onAdaptWrite (w : Work) : Work :=
  if w.dw.obst.signature.adaptStrokes % 64 = 0 then saveEnvelopes w else w

/-! ## Commands on one doorway -/

/-- R184: a cause of the FAULT is measured present; the measurements that only the bridge supplies are free. A Hall code that
has never been valid is one that was lost. -/
def causePresent (e : DoorEnv) (w : Doorway) : Bool :=
  let gate (n : Nat) := decide (Config.measured .gateSupply (e.free + n) ≠ 0)
  let offset (n : Nat) := decide (Config.measured .senseOffset (e.free + n) ≠ 0)
  !w.inp.flags.valid || w.inp.flags.commonFault
    || (decide (w.sm.cause = .faultPlausibility) && (implausible w || dcsImplausible e w))
    || (decide (w.sm.cause = .faultLeafEngine) && w.sm.flags.halted)
    || gate 0 || offset 0 || (e.cfg.hasStep e.d && (gate 1 || offset 1))
    || decide (Config.measured .hallSupply e.free ≠ 0)
    || (sectorOf 0 w.door.hall.code).isNone
    || decide (1250 ≤ w.door.bridgeTemp) || (e.cfg.hasStep e.d && decide (1250 ≤ w.step.bridgeTemp))

/-- R184: an accepted RESET: the latches of both drives are cleared as the doorway leaves FAULT, and a homing fault leaves the
step position lost. Table 5.9 gives that loss no code of its own; it goes as an obstruction, 4 (DESIGN CHOICE, note 124). -/
def doReset (e : DoorEnv) (w : Work) : Work :=
  settle e (if 0x10 ≤ w.dw.step.faultCode then stepLose e 4 w else w)

/-- R59: DOOR_ISOLATE with SET 1. -/
def doIsolate (e : DoorEnv) (w : Work) : Work :=
  enterIsolated e .isolCommand (w.smFlags (fun f => { f with isolatedByCmd := true }))

/-- R59: DOOR_ISOLATE with SET 0. -/
def doReturn (e : DoorEnv) (w : Work) : Work :=
  let w := w.smFlags (fun f => { f with isolatedByCmd := false })
  if w.dw.sm.state = .isolated then settle e w else w

/-- A maintenance operation at its start. -/
def newMaint (e : DoorEnv) (op : MaintOp) (handle : Nat) : Maint :=
  { op := op, handle := handle, shadow := .maint, phase := .none, done := 0, discarded := 0, ending := false
    startedAt := e.mono }

/-- R221: HOME_STEP: with MODE 1 and a known position a move to HOME_START_POS goes before the homing phase. The flags of its
result are of this operation (R223). -/
def startHome (e : DoorEnv) (mode : Nat) (w : Work) : Work :=
  let w := w.step (fun q => { q with retries := 0, thenDeploy := false, run := HomingRun.start w.dw.srs e.mono })
  if mode = 1 ∧ !w.dw.step.flags.lost then
    stepStarts (w.step (fun q => { q with
      gen := q.gen.moveToTarget (stepEnvOf e w.dw false) (e.cfg.homeStartPos e.d) 0 false, job := .toHomeStart }))
  else startHoming e w

/-- R46: a maintenance operation is started. -/
def startMaint (e : DoorEnv) (op : MaintOp) (handle : Nat) (w : Work) : Work :=
  let w := w.sm (fun m => { m with maint := some (newMaint e op handle) })
  let w := enter e .maint .none (some op.cause) w
  match op with
  | .test _ => maintUnlock e w
  | .learn => maintUnlock e (w.obstFlags (fun f => { f with learnRunning := true }))
  | .home mode => startHome e mode w
  | .update => w.smFlags (fun f => { f with halted := true })
  | .selftest _ => w

/-- R221: HOME_STEP of a doorway with DIS made runs in ISOLATED. -/
def homeIsolated (e : DoorEnv) (mode handle : Nat) (w : Work) : Work :=
  startHome e mode (cycleBegin e 4 (w.sm (fun m => { m with maint := some (newMaint e (.home mode) handle) })))

/-- R139: MOVE_TO replaces the remainder of the open context. -/
def doMoveTo (e : DoorEnv) (target : Int) (speed : Nat) (w : Work) : Work :=
  doorMove e target speed true (w.smFlags (fun f => { f with openComplete := false }))

/-! ## One period of 500 µs -/

/-- R160: one period of the position loop: the integrator, in 1/20,000,000 mA, and the q command before the clamp of R158. The
sums are exact; the command is taken to the nearest mA, the unit of IQ_CMD (DESIGN CHOICE, note 125). -/
def positionLoop (e : DoorEnv) (w : Doorway) : Int × Int :=
  let c := e.cfg
  let q := w.door
  let k := doorKin e w
  let lim := currentLimits e w
  let ev10 := 10 * (q.gen.ref.vel - k.vel) + c.kpPos e.d * (q.gen.ref.pos - k.pos)
  let integ := clampInt (-(lim.2 : Int) * 20000000) (lim.1 * 20000000) (q.integ + c.kiVel e.d * ev10)
  let iq := c.kv e.d * ev10 * 2000 + integ + c.kffAcc e.d * q.gen.ref.acc * 20 + c.kfriction e.d * sgn q.gen.ref.vel * 20000000
  (integ, clampInt (-(lim.2 : Int)) lim.1 (roundDiv iq 20000000))

/-- R172: the seal-seek reference after one period, and the part of a µm left over, in 1/2,000 µm. -/
def sealPeriod (e : DoorEnv) (w : Doorway) : Kin × Nat :=
  let n := e.cfg.vCreep e.d + w.door.sealFrac
  let p := w.door.gen.ref.pos - (n / 2000 : Nat)
  let least := (doorKin e w).pos - 2000
  ({ pos := max p least, vel := -(e.cfg.vCreep e.d : Int), acc := 0 }, if p < least then 0 else n % 2000)

/-- R247: in phase MOVE the leaves have passed 30,000 µm downward since the register read as at `before`. -/
def markPassed (e : DoorEnv) (before : Hall) (w : Work) : Work :=
  let p0 := roundDiv ((before.before - before.zeroOffset) * e.cfg.edgePitch e.d) 64
  if w.dw.course = (.closing, .move) ∧ 30000 < p0 ∧ (doorKin e w.dw).pos ≤ 30000 then
    w.obstFlags (fun f => { f with pastMark := true })
  else w

/-- R115, R148: what a step along a path raises: event 0xE302 at the first reference, and the mark of a segment that ended. -/
def pathRaises (e : DoorEnv) (step limited : Bool) (ended : List Seg) (w : Work) : Work :=
  let w := if limited then w.emit (.event 0xE302 (limitedEvent e w.dw step)) else w
  if ended.any (·.eventAtEnd) then onSegmentEnd w else w

/-- R110, R122, R172: the door drive's reference at a position-loop period. -/
def doorReference (e : DoorEnv) (w : Work) : Work :=
  let q := w.dw.door
  if q.gen.flags.tracking then w.door (fun q => { q with gen := q.gen.track (doorKin e w.dw) })
  else if !e.ready then w
  else if q.flags.sealSeek then
    let r := sealPeriod e w.dw
    w.door (fun q => { q with gen := { q.gen with ref := r.1 }, sealFrac := r.2 })
  else
    let r := q.gen.advance 500
    pathRaises e false q.gen.becomesLimited r.2 (w.door (fun q => { q with gen := r.1 }))

/-- R158, R160: the position loop of a period, and the clamp; a bridge that is not driven has no command. The torque of an
opening motion that the clamp cuts counts once as a blocked request (R77; DESIGN CHOICE, note 121). -/
def doorLoop (e : DoorEnv) (w : Work) : Work :=
  if doorBridge e w.dw = .driven then
    let r := positionLoop e w.dw
    let held := torqueInhibit e w.dw
    let cut := held && decide (0 < r.2) && w.dw.door.gen.state == .moving && decide (0 < w.dw.door.gen.ref.vel)
    let first := cut && !w.dw.door.flags.clamped
    let w := w.door (fun q => { q with
      integ := r.1, iqCmd := if held then min r.2 0 else r.2, flags := { q.flags with clamped := cut } })
    if first then w.emit .releaseBlocked else w
  else w.door (fun q => { q with integ := 0, iqCmd := 0, flags := { q.flags with clamped := false } })

/-- One position-loop period of the door drive. -/
def doorPeriod (e : DoorEnv) (w : Work) : Work :=
  let before := w.dw.door.hall
  let w := doorReference e (markPassed e before (doorSamples e w))
  doorLoop e (w.door (fun q => { q with dirHigh := if 0 < q.iqCmd then max q.dirHigh q.hall.ticks else q.hall.ticks }))

/-- R192: the steps due in the time left of a period, at most n of them, from t on. -/
def stepIssues (e : DoorEnv) (p : Path) : Nat → Nat → Nat → Work → Work
  | 0, _, _, w => w
  | n + 1, t, left, w =>
    let due := match w.dw.step.timer with
      | some x => if x.ticks ≤ left then some x else none
      | none => w.dw.step.reach p t left
    match due with
    | some x =>
      if stallMarked e w.dw then w
      else stepIssues e p n (t + x.ticks) (left - x.ticks) (issueStep e p (t + x.ticks) x.move (coilsAt e.free n) w)
    | none => w.step (fun q => { q with timer := q.timer.map (fun x => { x with ticks := x.ticks - left }) })

/-- The step due when a new path takes over, where it falls before the path's first reference (note 116). -/
def lastOfOld (e : DoorEnv) (p : Path) (w : Work) : Work :=
  match w.dw.step.timer with
  | some x => if x.ticks + w.dw.step.ahead ≤ 50000 then issueStep e p 0 x.move (coilsAt e.free 64) w else w
  | none => w

/-- R110, R122, R192: the step drive's reference at a position-loop period, and the steps due in it; the full steps are
counted from where a path starts (R196). -/
def stepReference (e : DoorEnv) (w : Work) : Work :=
  let q := w.dw.step
  if q.gen.flags.tracking then
    w.step (fun q => { q with
      gen := q.gen.track { pos := q.position, vel := 0, acc := 0 }, timer := none, ahead := 0, resolution := 1
      load := LoadAngle.from q.position q.load.forward })
  else if !e.ready then w
  else match q.gen.path with
    | none => w
    | some p =>
      if p.fresh then
        let w := lastOfOld e p w
        let r := w.dw.step.gen.advance 500
        pathRaises e true q.gen.becomesLimited r.2 (w.step (fun q => { q with
          gen := r.1, timer := none, ahead := 0, load := LoadAngle.from q.position q.load.forward }))
      else
        let w := stepIssues e p 64 (100 * p.elapsed + q.ahead) (50000 - q.ahead) w
        let r := w.dw.step.gen.advance 500
        pathRaises e true false r.2 (w.step (fun q => { q with gen := r.1, ahead := q.ahead - 50000 }))

/-- One period of the step drive: its reference and steps, the compare at the register, and the choppers. -/
def stepPeriod (e : DoorEnv) (w : Work) : Work := stepChop e (stepCompare e (stepReference e w))

/-- 500 µs pass at a doorway: both drives, the ends of their paths and a confirmed stall, and one state-machine tick. -/
def doorIdle (e : DoorEnv) (w : Work) : Work :=
  if !e.cfg.isFitted e.d then w
  else
    let w := onStall e (stepPeriod e (doorPeriod e w))
    let w := if w.dw.door.gen.atEnd then (if w.dw.door.gen.stopping then onDoorStopped e w else doorPathEnds e w) else w
    let w := if w.dw.step.gen.atEnd then (if w.dw.step.gen.stopping then onStepStopped w else onStepPathEnds e w) else w
    doorTick e w

end Sys2Proof.Machine
end

