-- ==== Sys2Proof/Machine/DoorReset.lean ====
section
/-!
DEFINITION. A doorway as delivered, and what stays of it when its engine's domain is switched off and on again
(R60, R64, R67, R166, R175, R185, R209, R210, R224, R246, R269).
-/

namespace Sys2Proof.Machine

/-- A generator with nothing started: IDLE, without torque and so TRACKING (R110). -/
def Gen.fresh : Gen :=
  { state := .idle, ref := { pos := 0, vel := 0, acc := 0 }, path := none, kept := none, remaining := 0, target := 0
    flags := { replanned := false, joined := false, overshoot := false, decelRaised := false, limitClip := false
               keCapped := false, tracking := true, interrupted := false, ctxModified := false, ctxRefused := false }
    roleSelect := 0x3210
    compare := { position := 0, mode := 0, direction := 0, actions := 0, hyst := 0, armed := false, behind := false
                 last := 0, above := false, fireCount := 0, lastFired := 0 }
    stops := [], braked := false }

/-- A generator whose domain was off. FIRE_COUNT counts from power-up, so it stays over STABLE (R146). -/
def Gen.unpowered (keep : Bool) (g : Gen) : Gen :=
  { Gen.fresh with compare := { Gen.fresh.compare with fireCount := if keep then g.compare.fireCount else 0 } }

/-- A Hall counter before its first code. -/
def Hall.fresh : Hall :=
  { code := 0, sector := none, rawEdges := 0, dirLast := 0, interval := none, frac := 0, zeroOffset := 0, velocity := 0
    skips := 0, age := 0, codeAge := 0, prior := none, before := 0 }

/-- A Hall counter whose domain was off: the raw edge counter is never re-zeroed (R153). -/
def Hall.unpowered (h : Hall) : Hall :=
  { Hall.fresh with rawEdges := h.rawEdges, zeroOffset := h.zeroOffset, before := 64 * h.rawEdges }

/-- The flags of a door drive whose domain has just come on; LEARNT is kept, and so is whether the break position is still
to be taken (R174, R175). -/
def DriveFlags.fresh (learnt breakDue : Bool) : DriveFlags :=
  { indexed := false, learnt := learnt, suspect := false, sealSeek := false, hallDropout := false, thermalHold := false
    followError := false, suspectHeld := false, openedOnce := false, breakDue := breakDue, compared := false, clamped := false }

/-- The current loop with no current. -/
def CurrentLoop.rest : CurrentLoop := { id := 0, iq := 0, dIntg := 0, qIntg := 0, vd := 0, vq := 0 }

/-- The door drive after its domain was off: learnt values and counters are kept (R175, R185). -/
def DoorDrive.unpowered (keep : Bool) (q : DoorDrive) : DoorDrive :=
  { gen := q.gen.unpowered keep, hall := q.hall.unpowered, flags := DriveFlags.fresh q.flags.learnt q.flags.breakDue
    learnt := q.learnt, makeCapture := none, breakCapture := none, sealStart := 0, sealFrac := 0, push := .none, attempt := 0
    attemptAt := 0, integ := 0, iqCmd := 0, dirHigh := 0, loop := CurrentLoop.rest, bridgeTemp := q.bridgeTemp, faultCode := 0, latch := Latch.clear, counters := q.counters }

/-- A door drive as delivered: nothing learnt. -/
def DoorDrive.reset : DoorDrive :=
  { gen := Gen.fresh, hall := Hall.fresh, flags := DriveFlags.fresh false false
    learnt := { makePos := none, breakPos := none, lastCorrection := 0, lastShift := 0, lastRelearn := 0 }
    makeCapture := none, breakCapture := none, sealStart := 0, sealFrac := 0, push := .none, attempt := 0, attemptAt := 0
    integ := 0, iqCmd := 0, dirHigh := 0, loop := CurrentLoop.rest, bridgeTemp := 0, faultCode := 0, latch := Latch.clear
    counters := { corrections := 0, relearns := 0, glitches := 0, skips := 0, dropouts := 0, interruptions := 0, faults := 0 } }

/-- R209: a drive that held its step is re-energised where it stood. -/
def Gen.reenergised (g : Gen) (pos : Int) : Gen :=
  let u := { (g.unpowered true) with compare := { (g.unpowered true).compare with last := pos } }
  if g.state = .hold then Gen.tracked { u with state := .hold, ref := { pos := pos, vel := 0, acc := 0 }, target := pos } else u

/-- The step drive after its domain was off. The position is kept only through STABLE, from a detent or without torque
lost (R209); after supply loss, reset or HIBERNATE it is lost, reads 0, and `homed` waits for SRS (R210). -/
def StepDrive.unpowered (keep : Bool) (q : StepDrive) : StepDrive :=
  { gen := if keep then q.gen.reenergised q.position else q.gen.unpowered false, position := if keep then q.position else 0
    elec := if keep then q.elec else 0, resolution := 1, blank := !keep || q.blank, timer := none, ahead := 0
    load := LoadAngle.from 0 true, chopA := Chopper.rest, chopB := Chopper.rest, job := .none, thenDeploy := false
    run := HomingRun.start false 0
    flags := { homed := q.flags.homed, lost := if keep then q.flags.lost || q.gen.state == .fault || q.elec % 64 != 0 else true, deployed := keep && q.flags.deployed
               chatter := false, shifted := false, deployFailed := false, sdsLost := false, thermalHold := false, moved := false
               standing := q.flags.standing }
    demandFails := 0, retries := 0, srsOffset := q.srsOffset, lastShift := q.lastShift, lastHome := q.lastHome
    bridgeTemp := q.bridgeTemp, faultCode := 0, latch := Latch.clear, counters := q.counters }

/-- A step drive as delivered: STEP_POSITION_LOST set (Table 5.7). -/
def StepDrive.reset : StepDrive :=
  { gen := Gen.fresh, position := 0, elec := 0, resolution := 1, blank := true, timer := none, ahead := 0, load := LoadAngle.from 0 true
    chopA := Chopper.rest, chopB := Chopper.rest, job := .none, thenDeploy := false, run := HomingRun.start false 0
    flags := { homed := false, lost := true, deployed := false, chatter := false, shifted := false
               deployFailed := false, sdsLost := false, thermalHold := false, moved := false, standing := false }
    demandFails := 0, retries := 0, srsOffset := 0, lastShift := 0, lastHome := 0, bridgeTemp := 0, faultCode := 0
    latch := Latch.clear
    counters := { homings := 0, stalls := 0, lostSteps := 0, chatters := 0, deployFails := 0, retractRetries := 0
                  interruptions := 0, faults := 0 } }

/-- An envelope read back from MRAM: what was adapted since the last write is lost (R246). -/
def Envelope.restored (v : Envelope) : Envelope := { v with bins := v.saved }

/-- An envelope before the first learn. -/
def Envelope.empty : Envelope :=
  { bins := List.replicate 256 0, saved := List.replicate 256 0, learntNom := List.replicate 256 0, windowUsed := 0
    limitedSent := false }

/-- The obstacle flags of a doorway whose engine has just started; what is learnt is kept. -/
def ObstFlags.fresh (env sig : Bool) : ObstFlags :=
  { envLearnt := env, sigLearnt := sig, envTripped := false, sigTripped := false, sePathFault := false
    reopenBlocked := false, adaptLimited := false, learnRunning := false, reflexStop := false, breakaway := false
    disturbed := false, reopenOver := false, pastMark := false, reopenHeld := false }

/-- The obstacle registers after the domain was off: learnt values and counters survive (R269). -/
def Obstacle.unpowered (q : Obstacle) : Obstacle :=
  { q with seFast := (false, false), seFaultEdge := 0, flags := ObstFlags.fresh q.flags.envLearnt q.flags.sigLearnt
           closeEnv := q.closeEnv.restored, openEnv := q.openEnv.restored, pending := none }

/-- The obstacle registers as delivered. -/
def Obstacle.reset : Obstacle :=
  { seFast := (false, false), seFaultEdge := 0, flags := ObstFlags.fresh false false, lastEffort := 0, lastLimit := 0
    lastTripPos := 0, lastTripTime := 0, lastTripSource := 0, sigEnergy := 0, closeEnv := Envelope.empty
    openEnv := Envelope.empty
    signature := { tLearn := 0, learnTime := 0, wSig := 0, nClose := 0, ratios := List.replicate 64 0, wRef := 0
                   ratioRefs := List.replicate 64 0, adaptStrokes := 0 }
    pending := none
    counters := { seTrips := 0, envTrips := 0, sigTrips := 0, obstructions := 0, learns := 0, sePathFaults := 0 } }

/-- The flags of a state machine that has not settled since its engine started. -/
def SmFlags.fresh (isolated : Bool) : SmFlags :=
  { unlockFailed := false, lockFailed := false, openIgnored := false, isolatedByCmd := isolated, plausibility := false
    unlockSeen := false, grace := false, openedSince := false, dlsConfirmed := false, hasSettled := false
    tlCloseSeen := false, classSeen := false, openComplete := false, solenoidOff := true, halted := false }

/-- The state machine after its engine was off: ISOLATED_BY_COMMAND and the counters are kept (R60, R64). -/
def DoorSm.unpowered (mono : Nat) (m : DoorSm) : DoorSm :=
  { m with phase := .none, since := mono, obstacles := 0, interrupted := none
           flags := SmFlags.fresh m.flags.isolatedByCmd, edges := { openIn := false, openOut := false, cpb := false, auto := false }
           maint := none }

/-- R16: a doorway that the image does not fit reports ISOLATED. -/
def DoorSm.notFitted (m : DoorSm) : DoorSm :=
  { m with state := .isolated, phase := .none, cause := .settled, flags := { m.flags with isolatedByCmd := false, hasSettled := false } }

/-- The domains of a doorway come on. -/
def Doorway.started (w : Doorway) (fitted : Bool) (mono : Nat) : Doorway :=
  let m := { w.sm with since := mono }
  { w with sm := if fitted then m else m.notFitted }

/-- A state machine as delivered: without an image every doorway is ISOLATED, not fitted (R16, R419). -/
def DoorSm.reset : DoorSm :=
  { state := .isolated, phase := .none, cause := .settled, prev := .isolated, entered := 0, since := 0, obstacles := 0
    interrupted := none, flags := SmFlags.fresh false, edges := { openIn := false, openOut := false, cpb := false, auto := false }
    maint := none
    counters := { cycles := 0, obstacles := 0, unlockFails := 0, lockFails := 0, egressEvents := 0, ignoredDemands := 0 } }

/-- A doorway whose LEAF domain is switched off; `keep` on entry to STABLE. -/
def Doorway.unpowered (keep : Bool) (mono : Nat) (w : Doorway) : Doorway :=
  { w with sm := w.sm.unpowered mono, door := w.door.unpowered keep, step := w.step.unpowered keep, obst := w.obst.unpowered
           cycle := none }

/-- A doorway as delivered. -/
def Doorway.reset : Doorway :=
  { inp := InGroup.reset, sm := DoorSm.reset, door := DoorDrive.reset, step := StepDrive.reset, obst := Obstacle.reset
    cycle := none }

end Sys2Proof.Machine
end

