-- ==== Sys2Proof/Machine/Memory.lean ====
section
/-!
DEFINITION. Addressed memory as a list of cells in one canonical form: addresses strictly rising, and no cell equal to what an
unlisted address reads as, which is zero (note 55). The application engine's memories (Table 15.3) are held so.
-/

namespace Sys2Proof.Machine

/-- Memory: address and byte. -/
abbrev Memory := List Host.Cell

/-- One byte; an address that is not listed reads zero. -/
def Memory.read : Memory → Nat → Byte
  | [], _ => 0
  | (a, b) :: m, q => if a = q then b else Memory.read m q

/-- Write one byte, keeping the canonical form. -/
def Memory.write : Memory → Nat → Byte → Memory
  | [], q, v => if v = 0 then [] else [(q, v)]
  | (a, b) :: m, q, v =>
    if a < q then (a, b) :: Memory.write m q v
    else if a = q then (if v = 0 then m else (q, v) :: m)
    else if v = 0 then (a, b) :: m else (q, v) :: (a, b) :: m

/-- Bytes from an address on. -/
def Memory.readMany (m : Memory) : Nat → Nat → List Byte
  | _, 0 => []
  | a, n + 1 => m.read a :: m.readMany (a + 1) n

/-- Write bytes from an address on. -/
def Memory.writeMany : Memory → Nat → List Byte → Memory
  | m, _, [] => m
  | m, a, b :: bs => Memory.writeMany (m.write a b) (a + 1) bs

/-- The cells of bytes laid out from an address, without the zero ones. -/
def cellsFrom : Nat → List Byte → Memory
  | _, [] => []
  | a, b :: bs => if b = 0 then cellsFrom (a + 1) bs else (a, b) :: cellsFrom (a + 1) bs

/-- Replace the whole of [base, base + size) by bytes, zero beyond them. -/
def Memory.fill (m : Memory) (base size : Nat) (bs : List Byte) : Memory :=
  m.filter (fun c => decide (c.1 < base)) ++ cellsFrom base (bs.take size) ++ m.filter (fun c => decide (base + size ≤ c.1))

/-- The canonical form. -/
def Memory.wf : Memory → Bool
  | [] => true
  | [c] => c.2 != 0
  | c :: d :: m => c.2 != 0 && decide (c.1 < d.1) && Memory.wf (d :: m)

end Sys2Proof.Machine
end

