-- ==== Sys2Proof/Machine/Engines.lean ====
section
/-!
DEFINITION. The engines, the application engine with its timers, watchdog and mailbox, and the interrupt controller
(chapter 15).
-/

namespace Sys2Proof.Machine

/-- ENGINE_STATE (Table 15.14); IDLE is read from the doorway (note 60). -/
inductive EngState where | off | loading | running | updating | held
  deriving DecidableEq, Repr

/-- Codes of ENGINE_STATE. -/
def EngState.code : EngState → Nat
  | .off => 0 | .loading => 1 | .running => 2 | .updating => 4 | .held => 5

/-- APP_STATE (R583). -/
inductive AppState where | empty | stopped | starting | running | faulted
  deriving DecidableEq, Repr

/-- Codes of APP_STATE. -/
def AppState.code : AppState → Nat
  | .empty => 0 | .stopped => 1 | .starting => 2 | .running => 3 | .faulted => 4

/-- One timer (Table 15.4). -/
structure AppTimer where
  en       : Bool
  periodic : Bool
  fired    : Bool
  load     : Nat
  /-- The value in force, taken from TMR_LOAD at the last start or reload, and the monotonic time of that moment. -/
  span     : Nat
  since    : Nat
  deriving DecidableEq, Repr

/-- The application engine (R573 to R587). -/
structure App where
  state     : AppState
  cause     : Nat
  /-- The stored image, header included, durable in MRAM. -/
  image     : List Byte
  loaded    : List Byte
  faults    : Nat
  violations : Nat
  lastViolation : Nat
  restarts  : Nat
  /-- Times of the restarts under R585 within 3,600 s, latest first. -/
  restartTimes : List Nat
  runSince  : Nat
  /-- Code, data, tables and mailbox slots as the application sees them (Table 15.3). -/
  mem       : Memory
  timers    : Vector AppTimer 4
  nowHi     : Nat
  wdKick    : Nat
  wdHalf    : Bool
  /-- Outbound slots that are busy, and the posts not yet taken, in order (R580). -/
  outBusy   : Vector Bool 4
  posts     : List (Fin 4 × Nat)
  postErrors : Nat
  /-- Lengths of the packets in the inbound slots, 0 when empty, and the slot filled next (R581). -/
  inLen     : Vector Nat 4
  inNext    : Fin 4
  mirrorSeq : Nat
  mirror    : List Byte
  deriving DecidableEq, Repr

/-- One engine's view of the interrupt controller, and what a delivery sets in its core (R589 to R591). -/
structure IntView where
  groupWidth : Nat
  /-- Top first: source and the priority captured at delivery. -/
  stack      : List (Fin 128 × Nat)
  ignored    : Nat
  pc         : Int
  mepc       : Int
  mcause     : Nat
  mie        : Bool
  mpie       : Bool
  deriving DecidableEq, Repr

/-- The engines and their interrupt controller. -/
structure Engines where
  states    : Vector EngState 12
  restarts  : Vector Nat 12
  expiries  : Vector Nat 12
  /-- Module times of a leaf engine's expiries within 3,600 s (Table 15.2). -/
  leafTimes : Vector (List Nat) 8
  /-- Module times of the supervisor pair's stops within 3,600 s (R572). -/
  supvTimes : List Nat
  mismatches : Nat
  halted    : Bool
  stackFaults : Nat
  stackFaultLast : Nat
  /-- Engines whose stack fault is told once they run again, with the source (R593). -/
  stackDue  : List (Fin 12 × Fin 128)
  views     : Vector IntView 12
  /-- PRIORITY and HANDLER of each source, seen by the engine it is routed to. -/
  prio      : Vector (BitVec 8) 128
  vec       : Vector (BitVec 32) 128
  app       : App
  deriving DecidableEq, Repr

/-! ## Reset -/

/-- A timer at reset (Table 15.4A). -/
def AppTimer.reset : AppTimer := { en := false, periodic := false, fired := false, load := 0, span := 0, since := 0 }

/-- The application engine of a module as delivered: no image stored. -/
def App.reset : App :=
  { state := .empty, cause := 0, image := [], loaded := [], faults := 0, violations := 0, lastViolation := 0, restarts := 0
    restartTimes := [], runSince := 0, mem := [], timers := tab 4 (fun _ => AppTimer.reset), nowHi := 0, wdKick := 0
    wdHalf := false, outBusy := tab 4 (fun _ => false), posts := [], postErrors := 0, inLen := tab 4 (fun _ => 0), inNext := 0
    mirrorSeq := 0, mirror := [] }

/-- A view at reset (Tables 15.9, 15.10). -/
def IntView.reset : IntView :=
  { groupWidth := 0, stack := [], ignored := 0, pc := 0, mepc := 0, mcause := 0, mie := false, mpie := false }

/-- The engines before power-up: every one off. -/
def Engines.reset : Engines :=
  { states := tab 12 (fun _ => .off), restarts := tab 12 (fun _ => 0), expiries := tab 12 (fun _ => 0)
    leafTimes := tab 8 (fun _ => []), supvTimes := [], mismatches := 0, halted := false, stackFaults := 0, stackFaultLast := 0
    stackDue := [], views := tab 12 (fun _ => IntView.reset), prio := tab 128 (fun _ => 0), vec := tab 128 (fun _ => 0), app := App.reset }

/-- Change the application engine. -/
def Engines.onApp (g : Engines) (f : App → App) : Engines := { g with app := f g.app }

/-- R598: 0xEF01. -/
def Engines.event (g : Engines) (now : Nat) (e : Fin 12) (code source : Nat) : Nat × List Byte :=
  (0xEF01, le 8 now ++ le 1 e.val ++ le 1 code ++ le 2 source ++ le 4 g.restarts[e])

/-- The engine number of a leaf engine. -/
def leafEngine (d : DoorIx) : Fin 12 := ⟨d.val, by omega⟩

/-- The times of the last hour of module time. -/
def lastHour (now : Nat) (l : List Nat) : List Nat := l.filter (fun t => decide (now < t + 3600000000))

/-! ## The application image (R582, R583, R586) -/

/-- Fields of the stored image header (Table 15.6A). -/
def App.codeLen (a : App) : Nat := fieldAt a.image 4 4
/-- DATA_LEN. -/
def App.dataLen (a : App) : Nat := fieldAt a.image 8 4
/-- TABLE_LEN. -/
def App.tableLen (a : App) : Nat := fieldAt a.image 12 4
/-- ENTRY. -/
def App.entry (a : App) : Nat := fieldAt a.image 16 4
/-- APP_VERSION; 0 when EMPTY. -/
def App.version (a : App) : Nat := if a.state = .empty then 0 else fieldAt a.image 24 4
/-- IMAGE_CRC of the stored image. -/
def App.imageCrc (a : App) : Nat := if a.state = .empty then 0 else fieldAt a.image 28 4

/-- Base of the data region. -/
def dataBase : Nat := 0x10000000
/-- Base of banks 12 to 14 in the shared SRAM window. -/
def tableBase : Nat := 0x200C0000
/-- Base of the outbound mailbox slots. -/
def outBase : Nat := 0x200FC000
/-- Base of the inbound mailbox slots. -/
def inBase : Nat := 0x200FE000

/-- R586: the header of Table 15.6A and IMAGE_CRC pass. -/
def appImageOk (b : List Byte) : Bool :=
  let code := fieldAt b 4 4
  let data := fieldAt b 8 4
  let table := fieldAt b 12 4
  let entry := fieldAt b 16 4
  let top := fieldAt b 20 4
  decide (32 ≤ b.length) && decide (fieldAt b 0 4 = 0x41504A44) && decide (code % 4 = 0) && decide (4 ≤ code)
    && decide (code ≤ 262144) && decide (data % 4 = 0) && decide (data ≤ 131072) && decide (table % 4 = 0)
    && decide (table ≤ 196608) && decide (entry < code) && decide (entry % 2 = 0) && decide (dataBase ≤ top)
    && decide (top ≤ dataBase + 131072) && decide (top % 16 = 0) && decide (b.length = 32 + code + data + table)
    && decide (fieldAt b 28 4 = crc32c (b.drop 32))

/-- R598: 0xEF02 with the new APP_STATE. -/
def App.event (a : App) (now : Nat) : Nat × List Byte :=
  (0xEF02, le 8 now ++ le 1 11 ++ le 1 a.state.code ++ le 2 a.cause ++ le 4 a.version)

/-- Sources routed to the application engine alone (Table 15.7). -/
def appSource (c : Cfg) (n : Nat) : Bool :=
  (decide (68 ≤ n) && decide (n ≤ 74) || decide (n = 91)) || ((decide (n = 62) || decide (n = 63)) && decide (c.canOwner 1 = 1))

/-- TARGET of a source (Table 15.7); a reserved source has none. -/
def sourceTarget (c : Cfg) (n : Nat) : Option (Fin 12) :=
  if n < 16 then some (Fin.ofNat 12 (n / 2))
  else if n < 48 then some (Fin.ofNat 12 (n % 8))
  else if n < 54 then some 8
  else if n = 56 ∨ n = 57 ∨ n = 58 ∨ n = 59 ∨ n = 60 ∨ n = 61 ∨ n = 64 ∨ n = 65 ∨ n = 66 then some 10
  else if n = 62 ∨ n = 63 then some (if c.canOwner 1 = 1 then 11 else 10)
  else if 68 ≤ n ∧ n ≤ 74 then some 11
  else if 80 ≤ n ∧ n ≤ 91 then some (Fin.ofNat 12 (n - 80))
  else if 120 ≤ n ∧ n ≤ 125 then some 10
  else if n = 127 then some 8
  else none

/-- R583: the application starts: memories copied and cleared, its view at reset values, RUNNING at ENTRY. -/
def Engines.appStart (g : Engines) (c : Cfg) (now mono : Nat) : Engines × Events :=
  let a := g.app
  if a.state = .empty ∨ a.state = .running then (g, [])
  else
    let body := a.image.drop 32
    let mem := a.mem.fill 0 262144 (body.take a.codeLen)
    let mem := mem.fill dataBase 131072 ((body.drop a.codeLen).take a.dataLen)
    let mem := mem.fill tableBase 196608 ((body.drop (a.codeLen + a.dataLen)).take a.tableLen)
    let a : App := { a with state := .running, cause := 0, mem := mem, runSince := mono, wdKick := mono, wdHalf := false }
    let g := { g with
      app := a
      prio := tab 128 (fun n => if appSource c n.val then 0 else g.prio[n])
      vec := tab 128 (fun n => if appSource c n.val then 0 else g.vec[n])
      states := g.states.set 11 .running
      views := g.views.set 11 { IntView.reset with pc := (a.entry : Int) } }
    (g, [a.event now])

/-- R583: the application stops, or ends FAULTED with a cause. -/
def Engines.appEnd (g : Engines) (now cause : Nat) : Engines × Events :=
  let a := g.app
  if a.state ≠ .running ∧ a.state ≠ .starting then (g, [])
  else
    let a : App := { a with state := if cause = 0 then .stopped else .faulted, cause := cause, wdHalf := false
                            faults := if cause = 0 then a.faults else satInc 16 a.faults }
    ({ g with app := a }, [a.event now])

/-- R585: a restart one second after a fault, at most three times within 3,600 s. -/
def App.mayRestart (a : App) (c : Cfg) (now : Nat) : Bool :=
  a.state == .faulted && decide (c.appAutorestart = 1) && decide ((lastHour now a.restartTimes).length < 3)

/-! ## Timers (R577) -/

/-- TMR_COUNT. -/
def AppTimer.count (t : AppTimer) (mono : Nat) : Nat := if t.en then t.span - (mono - t.since) else 0

/-- TMR_LOAD as a time: 0 is taken as 1. -/
def AppTimer.period (t : AppTimer) : Nat := max 1 t.load

/-- A write to TMR_CTRL (Table 15.4A). -/
def AppTimer.control (t : AppTimer) (mono : Nat) (v : BitVec 32) : AppTimer :=
  let en := v.getLsbD 0
  let t := { t with periodic := v.getLsbD 1, fired := t.fired && !v.getLsbD 2 }
  if en && !t.en then { t with en := true, span := t.period, since := mono } else { t with en := en }

/-- A timer counts to zero: FIRED is set, and it reloads or stops. -/
def AppTimer.expire (t : AppTimer) (mono : Nat) : AppTimer :=
  if !t.en then t
  else if t.periodic then { t with fired := true, span := t.period, since := mono } else { t with fired := true, en := false }

/-- TMR_CTRL as read. -/
def AppTimer.word (t : AppTimer) : Nat := bitWord [t.en, t.periodic, t.fired]

/-! ## Mailbox (R579 to R581) -/

/-- MBX_STATUS. -/
def App.mailboxStatus (a : App) (open_ paused : Bool) : Nat :=
  bitWord ((a.outBusy.toList.map (!·)) ++ (a.inLen.toList.map (fun n => decide (n ≠ 0))) ++ [open_, paused])

/-- R580: a post; one that names a busy slot or a wrong length is ignored and counted. -/
def App.post (a : App) (slot : Fin 4) (len : Nat) : App :=
  if a.outBusy[slot] || decide (len < 20) || decide (1028 < len) then { a with postErrors := satInc 32 a.postErrors }
  else { a with outBusy := a.outBusy.set slot true, posts := a.posts ++ [(slot, len)] }

/-- R581: inbound slots are freed. -/
def App.ack (a : App) (mask : Nat) : App :=
  { a with inLen := tab 4 (fun k => if bitOf mask k.val then 0 else a.inLen[k]) }

/-- R580: the posted slot first in order, its bytes, and the slot freed. -/
def App.take (a : App) : Option (App × List Byte) :=
  match a.posts with
  | [] => none
  | (k, len) :: rest =>
    some ({ a with posts := rest, outBusy := a.outBusy.set k false }, a.mem.readMany (outBase + 0x800 * k.val) len)

/-- R581: a packet into the next inbound slot, when that slot is free. -/
def App.deliver (a : App) (p : List Byte) : App :=
  { a with mem := a.mem.writeMany (inBase + 0x800 * a.inNext.val) p, inLen := a.inLen.set a.inNext p.length
           inNext := Fin.ofNat 4 (a.inNext.val + 1) }

/-- The next inbound slot is free. -/
def App.inboundFree (a : App) : Bool := decide (a.inLen[a.inNext] = 0)

/-- R575: at a return to RUN every mailbox slot is emptied. -/
def App.clearMailbox (a : App) : App :=
  { a with outBusy := tab 4 (fun _ => false), posts := [], inLen := tab 4 (fun _ => 0), inNext := 0
           mem := a.mem.fill outBase 0x4000 [] }

/-! ## The application's rights (R574) -/

/-- An out-of-rights access: counted and recorded, nothing else. -/
def App.violate (a : App) (addr : Nat) : App := { a with violations := satInc 32 a.violations, lastViolation := addr }

/-- The application may write an address of its memories. -/
def memWritable (addr width : Nat) : Bool :=
  (decide (dataBase ≤ addr) && decide (addr + width ≤ dataBase + 131072))
    || (decide (outBase ≤ addr) && decide (addr + width ≤ outBase + 0x2000))

/-! ## The interrupt controller (R588 to R593) -/

/-- GROUP_WIDTH as it acts: 9 to 15 act as 8. -/
def groupWidthOf (v : Nat) : Nat := if 8 < v % 16 then 8 else v % 16

/-- The pre-empting group part of a priority. -/
def groupOf (width p : Nat) : Nat := if width = 0 then 0 else p / 2 ^ (8 - width)

/-- R589: a write of INTC_CTRL. -/
def IntView.control (v : IntView) (w : Nat) : IntView := if v.stack.isEmpty then { v with groupWidth := groupWidthOf w } else v

/-- A source is on an engine's stack. -/
def IntView.active (v : IntView) (n : Fin 128) : Bool := v.stack.any (fun x => x.1 == n)

/-- R590: the view takes a winning source with its priority. -/
def IntView.mayDeliver (v : IntView) (p : Nat) : Bool :=
  match v.stack with
  | [] => true
  | (_, q) :: _ => decide (v.stack.length < 8) && decide (groupOf v.groupWidth q < groupOf v.groupWidth p)

/-- R591: delivery: the source is pushed and the core enters HANDLER; mepc is the interrupted pc, which is free (note 61). -/
def IntView.deliver (v : IntView) (n : Fin 128) (p handler free : Nat) : IntView :=
  { v with stack := (n, p) :: v.stack, mepc := Config.measured .interruptedPc free, mcause := 0x8000000B, mpie := true, mie := false
           pc := (handler : Int) }

/-- What a completion does (R592). -/
inductive Completion where | ignored | popped | fault
  deriving DecidableEq, Repr

/-- R592: a write to INTC_COMPLETE. -/
def IntView.complete (v : IntView) (n : Fin 128) : IntView × Completion :=
  if !v.active n then ({ v with ignored := satInc 32 v.ignored }, .ignored)
  else match v.stack with
    | (top, _) :: rest => if top = n then ({ v with stack := rest }, .popped) else (v, .fault)
    | [] => (v, .ignored)

/-- INTC_STATUS. -/
def IntView.statusWord (v : IntView) : Nat :=
  match v.stack with
  | [] => 0
  | (n, _) :: _ => n.val + 128 + 256 * v.stack.length

/-- INTC_STACK(i): level 0 is the oldest. -/
def IntView.level (v : IntView) (i : Nat) : Nat :=
  match v.stack.reverse[i]? with
  | some (n, p) => n.val + 256 * p + 2 ^ 31
  | none => 0

/-- The candidates of the application's view: asserted, with a priority, not active, and with a handler in the code region. -/
def Engines.candidates (g : Engines) (c : Cfg) (asserted : Nat → Bool) : List (Fin 128) :=
  (List.finRange 128).filter (fun n => decide (sourceTarget c n.val = some 11) && asserted n.val && decide (g.prio[n].toNat ≠ 0)
    && !(g.views[(11 : Fin 12)].active n) && decide (g.vec[n].toNat < 262144))

/-- R590: the candidate with the highest priority; ties go to the lowest number. -/
def Engines.winner (g : Engines) (c : Cfg) (asserted : Nat → Bool) : Option (Fin 128) :=
  (g.candidates c asserted).foldl (fun b n => match b with
    | none => some n
    | some m => if g.prio[m].toNat < g.prio[n].toNat then some n else b) none

/-- R593: STACK_FAULT_LAST and STACK_FAULTS. -/
def Engines.stackFault (g : Engines) (e : Fin 12) (n : Fin 128) : Engines :=
  { g with stackFaults := satInc 16 g.stackFaults, stackFaultLast := e.val + 256 * n.val, stackDue := g.stackDue ++ [(e, n)] }

/-- R598: an engine runs again: 0xEF01 code 4 for a stack fault served, else code 1. -/
def Engines.again (g : Engines) (now : Nat) (e : Fin 12) : Engines × Events :=
  let g := { g with restarts := g.restarts.set e (satInc 16 g.restarts[e]) }
  match g.stackDue.find? (fun x => x.1 == e) with
  | some x => ({ g with stackDue := g.stackDue.filter (fun y => y.1 != e) }, [g.event now e 4 x.2.val])
  | none => (g, [g.event now e 1 0])

/-- R572, R598: the pair runs again; it acts as one, and E8 sends its event. -/
def Engines.pairAgain (g : Engines) (now : Nat) : Engines × Events :=
  ({ g with restarts := g.restarts.set 9 (satInc 16 g.restarts[(9 : Fin 12)]) } : Engines).again now 8

/-- The engine objects in memory that a supply loss clears; counters and the stored image stay (R596). -/
def Engines.unpowered (g : Engines) : Engines :=
  { g with
    states := tab 12 (fun _ => .off), halted := false, leafTimes := tab 8 (fun _ => []), supvTimes := []
    stackDue := [], views := tab 12 (fun _ => IntView.reset), prio := tab 128 (fun _ => 0), vec := tab 128 (fun _ => 0)
    app := { g.app with
      state := if g.app.state = .empty then .empty else .stopped, mem := [], timers := tab 4 (fun _ => AppTimer.reset), nowHi := 0
      wdHalf := false, outBusy := tab 4 (fun _ => false), posts := [], inLen := tab 4 (fun _ => 0), inNext := 0, loaded := []
      mirrorSeq := 0, mirror := [], restartTimes := [] } }

/-- The engines with their domains off in STABLE: an engine held until the next power-up stays held (R568, R572). -/
def Engines.asleep (g : Engines) : Engines :=
  let u := g.unpowered
  { u with states := tab 12 (fun n => if g.states[n] = .held then .held else .off), halted := g.halted
           leafTimes := g.leafTimes, supvTimes := g.supvTimes, app := { u.app with restartTimes := g.app.restartTimes } }

end Sys2Proof.Machine
end

