-- ==== Sys2Proof/Machine/FieldIo.lean ====
section
/-!
DEFINITION. The field side of the module (chapter 8): group validity, the isolated digital outputs with their sources, trips
and safe states.
-/

namespace Sys2Proof.Machine

/-- The sixteen digital outputs (R338 to R348); words have one bit per output. -/
structure FieldOutputs where
  /-- HOST values set by OUTPUT_SET. -/
  host     : BitVec 16
  /-- Value of each output under R338, as last evaluated. -/
  value    : BitVec 16
  /-- OUTPUTS as the field side last took it (R332). -/
  taken    : BitVec 16
  /-- Energised outputs (OUTPUT_WORD). -/
  on       : BitVec 16
  tripped  : BitVec 16
  tripSeen : BitVec 16
  trips    : List Nat
  /-- The outputs are in their safe states (R332). -/
  safe     : Bool
  /-- MODE HOLD of a supervisor update (R345), and its 2.0 s have run out. -/
  held     : Bool
  heldOut  : Bool
  losses   : Nat
  /-- Time left of each doorway's compare pulse, µs (R134). -/
  pulse    : List Nat
  deriving DecidableEq, Repr

/-- What output sources read of the module (Tables 8.8, R339). -/
structure OutEnv where
  cfg        : Cfg
  supvFull   : Nat
  fault      : Bool
  commanded  : Bool
  left       : Bool
  right      : Bool
  obstructed : Bool
  /-- In STABLE (R346): keeper_closed by doorway. -/
  stable     : Bool
  keeper     : Nat
  powered    : Bool

/-- The output whose settings an output takes: an odd member of a pair takes its partner's (R343). -/
def outSettings (c : Cfg) (k : OutIx) : OutIx :=
  if k.val % 2 = 1 then
    let p : OutIx := ⟨k.val - 1, by omega⟩
    if c.outPaired p = 1 then p else k
  else k

/-- The pair partner of an output, where there is one. -/
def outPartner (c : Cfg) (k : OutIx) : Option OutIx :=
  if k.val % 2 = 1 then
    let p : OutIx := ⟨k.val - 1, by omega⟩
    if c.outPaired p = 1 then some p else none
  else if h : k.val + 1 < 16 then (if c.outPaired k = 1 then some ⟨k.val + 1, h⟩ else none)
  else none

/-- Every fitted doorway of a side is in a mask (SIDE_A_CLOSED, SIDE_B_CLOSED). -/
def sideClosed (c : Cfg) (mask side : Nat) : Bool :=
  doorways.all (fun d => !c.isFitted d || decide (c.side d ≠ side) || bitOf mask d.val)

/-- Whether the supervisor pair evaluates a source (R342). -/
def bySupervisor (src : Nat) : Bool := decide (2 ≤ src) && decide (src ≠ 5) && decide (src ≤ 10)

/-- The value of a source before INVERT (Table 8.8). -/
def sourceValue (e : OutEnv) (f : FieldOutputs) (k : OutIx) : Bool :=
  let src := e.cfg.outSource k
  if src = 1 then f.host.getLsbD k.val
  else if src = 2 then sideClosed e.cfg e.supvFull 0
  else if src = 3 then sideClosed e.cfg e.supvFull 1
  else if src = 4 then !e.fault
  else if src = 5 then decide (0 < f.pulse.getD (e.cfg.outSourceParam k % 8) 0)
  else if src = 6 then e.commanded
  else if src = 7 then e.left
  else if src = 8 then e.right
  else if src = 9 then sideClosed e.cfg e.supvFull 0 && sideClosed e.cfg e.supvFull 1
  else if src = 10 then e.obstructed
  else false

/-- R338, R343, R345: the value of an output. Held sources keep their last value, then take OUT_SAFE. -/
def outValue (e : OutEnv) (f : FieldOutputs) (k : OutIx) : Bool :=
  let s := outSettings e.cfg k
  if f.held && bySupervisor (e.cfg.outSource s) then
    (if f.heldOut then decide (e.cfg.outSafe s = 1) else f.value.getLsbD k.val)
  else sourceValue e f s ^^ decide (e.cfg.outInvert s = 1)

/-- R346: the state of an output in STABLE. -/
def outStableValue (e : OutEnv) (f : FieldOutputs) (k : OutIx) : Bool :=
  let s := outSettings e.cfg k
  let m := e.cfg.outStable s
  let src := e.cfg.outSource s
  if m = 1 then true
  else if m = 2 then f.on.getLsbD k.val
  else if m = 3 then
    (if src = 2 then sideClosed e.cfg e.keeper 0 else if src = 3 then sideClosed e.cfg e.keeper 1
      else if src = 9 then sideClosed e.cfg e.keeper 0 && sideClosed e.cfg e.keeper 1 else false) ^^ decide (e.cfg.outInvert s = 1)
  else false

/-- Whether a member of an output's pair has tripped (R343). -/
def pairTripped (c : Cfg) (f : FieldOutputs) (k : OutIx) : Bool :=
  f.tripped.getLsbD k.val || (match outPartner c k with
    | some p => f.tripped.getLsbD p.val
    | none => false)

/-- A word of outputs by its entries. -/
def outWord (g : OutIx → Bool) : BitVec 16 := BitVec.ofNat 16 (bitWord ((List.finRange 16).map g))

/-- R342: the supervisor pair evaluates the sources. -/
def FieldOutputs.evaluate (e : OutEnv) (f : FieldOutputs) : FieldOutputs := { f with value := outWord (outValue e f) }

/-- The field side drives the outputs: the value taken, OUT_SAFE, or the STABLE setting; a tripped output stays as its
retries left it, and off once not commanded. -/
def FieldOutputs.drive (e : OutEnv) (f : FieldOutputs) : FieldOutputs :=
  { f with on := outWord (fun k =>
      let want := if !e.powered then false else if e.stable then outStableValue e f k
        else if f.safe then decide (e.cfg.outSafe (outSettings e.cfg k) = 1) else f.taken.getLsbD k.val
      want && (!pairTripped e.cfg f k || f.on.getLsbD k.val)) }

/-- R329, R330: group 8's downlink brings the values. -/
def FieldOutputs.take (e : OutEnv) (f : FieldOutputs) : FieldOutputs := ({ f with taken := f.value }).drive e

/-- R350: the payload of a field event. -/
def ioEvent (now item code v16 : Nat) (value : Int) : List Byte :=
  le 8 now ++ le 1 item ++ le 1 code ++ le 2 v16 ++ leInt 4 value

/-- A current reading of an output, mA (note 4). -/
def outCurrent (free : Nat) : Int := Config.measured .outCurrent free

/-- R344: an output has stood at its limit for 1 ms. -/
def FieldOutputs.trip (e : OutEnv) (now free : Nat) (k : OutIx) (f : FieldOutputs) : FieldOutputs × Events :=
  if !f.on.getLsbD k.val then (f, [])
  else
    let off := match outPartner e.cfg k with
      | some p => setBit (setBit f.on k.val false) p.val false
      | none => setBit f.on k.val false
    let f := { f with on := off, tripped := setBit f.tripped k.val true, tripSeen := setBit f.tripSeen k.val true
                      trips := f.trips.set k.val (satInc 16 (f.trips.getD k.val 0)) }
    (f, [(0xE802, ioEvent now k.val 1 f.on.toNat (outCurrent free))])

/-- R344: a tripped output still commanded on is turned on again; one found on has been on for 1 s and OUT_TRIPPED clears. -/
def FieldOutputs.retry (k : OutIx) (e : OutEnv) (f : FieldOutputs) : FieldOutputs :=
  if !f.tripped.getLsbD k.val then f
  else if f.on.getLsbD k.val then { f with tripped := setBit f.tripped k.val false }
  else if f.taken.getLsbD k.val && !f.safe && e.powered then
    { f with on := match outPartner e.cfg k with
      | some p => setBit (setBit f.on k.val true) p.val true
      | none => setBit f.on k.val true }
  else f

/-- R332: the outputs enter their safe states. -/
def FieldOutputs.enterSafe (e : OutEnv) (now : Nat) (f : FieldOutputs) : FieldOutputs × Events :=
  if f.safe then (f, [])
  else
    let f := ({ f with safe := true, losses := satInc 16 f.losses }).drive e
    (f, [(0xE802, ioEvent now 0xFF 2 f.on.toNat 0)])

/-- R332: 16 consecutive valid frames: the outputs follow again. -/
def FieldOutputs.leaveSafe (e : OutEnv) (now : Nat) (f : FieldOutputs) : FieldOutputs × Events :=
  if f.safe then
    let f := ({ f with safe := false }).take e
    (f, [(0xE802, ioEvent now 0xFF 3 f.on.toNat 0)])
  else (f, [])

/-- OUT_FLAGS (Table 8.11). -/
def FieldOutputs.flagWord (c : Cfg) (f : FieldOutputs) (k : OutIx) : Nat :=
  bitWord [f.value.getLsbD k.val, f.on.getLsbD k.val, f.tripped.getLsbD k.val, f.safe,
    f.held && bySupervisor (c.outSource (outSettings c k)), f.tripSeen.getLsbD k.val]

/-- R348: OUTPUT_SET: the outputs accepted and refused, and the state after. -/
def outputSet (c : Cfg) (mask value : Nat) (f : FieldOutputs) : FieldOutputs × Nat × Nat :=
  let asked := (List.finRange 16).filter (fun k => bitOf mask k.val)
  let isHost (k : OutIx) : Bool := decide (c.outSource (outSettings c k) = 1)
  let ok := asked.filter isHost
  let bit (k : OutIx) : Option Bool :=
    (ok.find? (fun j => outSettings c j == k)).map (fun j => bitOf value j.val)
  let host := outWord (fun k => (bit k).getD (f.host.getLsbD k.val))
  let word (l : List OutIx) : Nat := bitWord ((List.finRange 16).map (fun k => l.contains k))
  ({ f with host := host }, word ok, word (asked.filter (fun k => !isHost k)))

/-- The outputs with FIELD_IO off (R346) and after power-up (R348); the counters stay. -/
def FieldOutputs.unpowered (f : FieldOutputs) : FieldOutputs :=
  { f with host := 0, value := 0, taken := 0, on := 0, tripped := 0, tripSeen := 0, safe := false, held := false
           heldOut := false, pulse := List.replicate 8 0 }

/-- The outputs as delivered. -/
def FieldOutputs.reset : FieldOutputs :=
  { host := 0, value := 0, taken := 0, on := 0, tripped := 0, tripSeen := 0, trips := List.replicate 16 0, safe := false
    held := false, heldOut := false, losses := 0, pulse := List.replicate 8 0 }

end Sys2Proof.Machine
end

