-- ==== Sys2Proof/Machine/Power.lean ====
section
/-!
DEFINITION. Power states, domains, entries, wakes and the hold-up cartridge (chapter 14, with the forecast of R619).
-/

namespace Sys2Proof.Machine

/-- Table 14.1, the power states of the module. -/
inductive PwrMode where | run | stable | hibernate
  deriving DecidableEq, Repr

/-- PWR_STATE codes. -/
def PwrMode.code : PwrMode → Nat
  | .run => 0 | .stable => 1 | .hibernate => 2

/-- An entry in progress (R540 to R543). -/
structure Entry where
  handle  : Nat
  session : SessIx
  target  : PwrMode
  started : Nat
  /-- The application was running when the entry began (R585). -/
  appRan  : Bool
  aborted : Bool
  deriving DecidableEq, Repr

/-- One capacitance and ESR measurement of the cartridge (R556, R619). -/
structure CartMeasure where
  time : Nat
  cap  : Nat
  esr  : Nat
  deriving DecidableEq, Repr

/-- The hold-up cartridge and its history (Table 16.6, 0x1030). -/
structure Cartridge where
  fitted     : Bool
  serial     : List Byte
  fittedAt   : Nat
  capInitial : Nat
  esrInitial : Nat
  /-- The first measurement after insertion is still due. -/
  firstDue   : Bool
  measures   : List CartMeasure
  cap        : Nat
  esr        : Nat
  eolDays    : Nat
  eolCause   : Nat
  deriving DecidableEq, Repr

/-- Counters of 0x7002. Times are kept in µs. -/
structure PowerCounters where
  stable     : Nat
  hibernate  : Nat
  refused    : Nat
  refusals   : Vector Nat 74
  wakes      : Vector Nat 9
  usRun      : Nat
  usStable   : Nat
  usHibernate : Nat
  usHoldup   : Nat
  holdupEvents : Nat
  holdupResets : Nat
  lastRefusalTime : Nat
  deriving DecidableEq, Repr

/-- The power part of the module. -/
structure Power where
  mode       : PwrMode
  /-- Domains D0 to D9 (Table 14.2). -/
  domains    : Vector Bool 10
  entry      : Option Entry
  holdup     : Bool
  noHoldup   : Bool
  charging   : Bool
  reserve    : Bool
  ready      : Bool
  cellLow    : Bool
  keepLost   : Bool
  supplyLow  : Bool
  /-- The monotonic time at which the supply fell below 45 V (Table 14.5, bit 7). -/
  lowSince   : Option Nat
  /-- Wake causes latched and not yet taken (R543, R545, R595). -/
  latched    : Nat
  lastWake   : Nat
  lastRefuser : Nat
  wakeAt     : Nat
  /-- Monotonic time of the last return to RUN. -/
  runSince   : Nat
  /-- The application was running when the last entry began (R585). -/
  appRan     : Bool
  dcLink     : Int
  cart       : Cartridge
  watchFired : Nat
  counters   : PowerCounters
  deriving DecidableEq, Repr

/-- What a cartridge bay holds with no cartridge fitted. -/
def Cartridge.absent : Cartridge :=
  { fitted := false, serial := List.replicate 12 0, fittedAt := 0, capInitial := 0, esrInitial := 0, firstDue := false
    measures := [], cap := 0, esr := 0, eolDays := 0xFFFF, eolCause := 0 }

/-- The power part of a module as delivered: only KEEP is on, no cartridge fitted. -/
def Power.reset : Power :=
  { mode := .run, domains := tab 10 (fun n => decide (n.val = 0)), entry := none, holdup := false, noHoldup := true
    charging := false, reserve := false, ready := false, cellLow := false, keepLost := false, supplyLow := false
    lowSince := none, latched := 0, lastWake := 0xFF, lastRefuser := 0xFF, wakeAt := 0, runSince := 0, appRan := false
    dcLink := 0, cart := Cartridge.absent, watchFired := 0
    counters := { stable := 0, hibernate := 0, refused := 0, refusals := tab 74 (fun _ => 0), wakes := tab 9 (fun _ => 0)
                  usRun := 0, usStable := 0, usHibernate := 0, usHoldup := 0, holdupEvents := 0, holdupResets := 0
                  lastRefusalTime := 0 } }

/-- A domain is on. -/
def Power.on (p : Power) (n : Fin 10) : Bool := p.domains[n]

/-- The module works in RUN: it has been powered up. -/
def Power.running (p : Power) : Bool := p.mode == .run && p.on 4

/-- R534, Table 14.2: a domain is on in RUN unless it has nothing to serve. -/
def runDomain (c : Cfg) (n : Fin 10) : Bool :=
  match n.val with
  | 1 => decide (c.ringEnable ≠ 0)
  | 2 => decide (c.canEnable 0 = 1) || decide (c.canEnable 1 = 1)
  | 5 => c.isFitted 0 || c.isFitted 1 || c.isFitted 2 || c.isFitted 3
  | 6 => c.isFitted 4 || c.isFitted 5 || c.isFitted 6 || c.isFitted 7
  | _ => true

/-- Table 14.2 for a state. -/
def domainOn (c : Cfg) (m : PwrMode) (n : Fin 10) : Bool :=
  match m with
  | .run => runDomain c n
  | .stable => decide (n.val = 0) || decide (n.val = 8) || (decide (n.val = 1) && decide (c.ringKeepStable = 1) && runDomain c n)
  | .hibernate => decide (n.val = 0)

/-- The domains of a state. -/
def Power.switchTo (p : Power) (c : Cfg) (m : PwrMode) : Power :=
  { p with mode := m, domains := tab 10 (domainOn c m), ready := p.ready && m == .run }

/-- The leaf engines' domain of a doorway (Table 15.1). -/
def leafDomain (d : DoorIx) : Fin 10 := if d.val < 4 then 5 else 6

/-- PWR_FLAGS (Table 14.15). -/
def Power.flagWord (p : Power) : Nat :=
  bitWord [p.entry.isSome, p.holdup, p.noHoldup, p.charging, p.reserve, p.ready,
    p.entry.isSome && decide (p.latched ≠ 0), p.cellLow, p.keepLost, p.supplyLow]

/-- DOMAINS_ON. -/
def Power.domainWord (p : Power) : Nat := bitWord p.domains.toList

/-- R564: the payload of a power event. -/
def powerEvent (now free code refuser : Nat) : List Byte :=
  le 8 now ++ le 1 code ++ le 1 refuser ++ leInt 2 (Config.measured .stackEnergy free) ++ leInt 4 (Config.measured .supply free)

/-- R539: a refusal or a failed entry by a refuser is counted. -/
def Power.refuse (p : Power) (now r : Nat) : Power :=
  { p with lastRefuser := r
           counters := { p.counters with
             refused := satInc 16 p.counters.refused, lastRefusalTime := now
             refusals := if h : r < 74 then p.counters.refusals.set r (satInc 16 p.counters.refusals[r]) else p.counters.refusals } }

/-- Table 14.5: the states in which a wake cause is marked. -/
def wakeMarked (m : PwrMode) (bit : Nat) : Bool :=
  match m with
  | .run => false
  | .stable => decide (bit ≠ 7)
  | .hibernate => decide (bit = 5) || decide (bit = 6) || decide (bit = 7) || decide (bit = 8)

/-- The state a wake cause is judged by: the state reached, or the target of the entry in progress (R543). -/
def Power.wakeState (p : Power) : PwrMode := match p.entry with
  | some e => e.target
  | none => p.mode

/-- R544: a wake cause is latched where its bit is set and the state is marked. Bit 0 is always set. -/
def Power.latch (p : Power) (c : Cfg) (bit : Nat) : Power :=
  if wakeMarked p.wakeState bit && (decide (bit = 0) || bitOf c.wakeEnable bit) && !bitOf p.latched bit then
    { p with latched := p.latched + 2 ^ bit }
  else p

/-- The lowest set bit among the nine causes (R595). -/
def lowestCause (w : Nat) : Nat := ((List.range 9).find? (bitOf w)).getD 0xFF

/-- R545, R546, R595: the wake is taken: each latched cause is counted, and the lowest is LAST_WAKE_CAUSE. -/
def Power.takeWake (p : Power) (mono : Nat) : Power :=
  { p with lastWake := lowestCause p.latched, latched := 0, runSince := mono
           counters := { p.counters with wakes := tab 9 (fun i =>
             if bitOf p.latched i.val then satInc 16 p.counters.wakes[i] else p.counters.wakes[i]) } }

/-- Time passes in the state in force. -/
def Power.passes (p : Power) (us : Nat) : Power :=
  let q := p.counters
  let q := if p.holdup then { q with usHoldup := q.usHoldup + us } else q
  { p with counters := match p.mode with
      | .run => if p.on 4 then { q with usRun := q.usRun + us } else q
      | .stable => { q with usStable := q.usStable + us }
      | .hibernate => { q with usHibernate := q.usHibernate + us } }

/-- Seconds of a time in µs, as a u32 counter. -/
def seconds32 (us : Nat) : Nat := satTo 32 (us / 1000000)

/-! ## The cartridge forecast (R619, R620) -/

/-- µs in a day. -/
def dayUs : Nat := 86400000000

/-- Least-squares line through points (x, y): the sums n, Σx, Σy, Σx², Σxy. -/
def lineSums (ps : List (Int × Int)) : Int × Int × Int × Int × Int :=
  ps.foldl (fun (n, sx, sy, sxx, sxy) (x, y) => (n + 1, sx + x, sy + y, sxx + x * x, sxy + x * y)) (0, 0, 0, 0, 0)

/-- Days from x = 0 (now) until the fitted line reaches a level; `falling` says from which side. None when it never does. -/
def daysToLevel (ps : List (Int × Int)) (level : Int) (falling : Bool) : Option Nat :=
  let (n, sx, sy, sxx, sxy) := lineSums ps
  let den := n * sxx - sx * sx
  if den = 0 then none
  else
    -- slope = num / den and value at 0 = icept / den
    let num := n * sxy - sx * sy
    let icept := sy * sxx - sx * sxy
    let gap := level * den - icept
    if (falling && decide (0 ≤ gap)) || (!falling && decide (gap ≤ 0)) then some 0
    else if (falling && decide (num < 0)) || (!falling && decide (0 < num)) then some ((gap / num).toNat)
    else none

/-- The measurements of the last 365 days as points in days before now. -/
def Cartridge.points (q : Cartridge) (now : Nat) (f : CartMeasure → Nat) : List (Int × Int) :=
  (q.measures.filter (fun m => decide (now ≤ m.time + 365 * dayUs))).map
    (fun m => (-(((now - m.time) / dayUs : Nat) : Int), (f m : Int)))

/-- R619: the days to the first limit and its cause; 0xFFFF until 30 days of measurements are held. -/
def Cartridge.forecast (q : Cartridge) (now : Nat) : Nat × Nat :=
  match q.measures with
  | [] => (0xFFFF, 0)
  | oldest :: _ =>
    if now < oldest.time + 30 * dayUs then (0xFFFF, 0)
    else
      let age := ((q.fittedAt + 4383 * dayUs) - now) / dayUs
      let cap := daysToLevel (q.points now (·.cap)) 1715 true
      let esr := daysToLevel (q.points now (·.esr)) (2 * q.esrInitial) false
      let best := (age, 3)
      let best := match esr with
        | some x => if x ≤ best.1 then (x, 2) else best
        | none => best
      let best := match cap with
        | some x => if x ≤ best.1 then (x, 1) else best
        | none => best
      (min best.1 0xFFFE, best.2)

/-- R619: the levels at which event 0xE103 is sent. -/
def eolCrossed (old new : Nat) : Bool := [180, 30, 0].any (fun l => decide (new ≤ l) && decide (l < old))

/-- R556: a measurement; the first after insertion sets the initial values. -/
def Cartridge.measure (q : Cartridge) (now cap esr : Nat) : Cartridge :=
  let q : Cartridge := { q with
                    cap := cap, esr := esr
                    measures := (q.measures ++ [({ time := now, cap := cap, esr := esr } : CartMeasure)]).filter
                      (fun m => decide (now ≤ m.time + 365 * dayUs)) }
  let q : Cartridge := if q.firstDue then { q with capInitial := cap, esrInitial := esr, firstDue := false } else q
  let f := q.forecast now
  { q with eolDays := f.1, eolCause := if f.1 = 0 then f.2 else q.eolCause }

/-- R620: the cartridge's end of life stands. -/
def Power.endOfLife (p : Power) : Bool := decide (p.cart.eolDays = 0) || p.cellLow

/-- CART_EOL_CAUSE. -/
def Power.eolCause (p : Power) : Nat := if p.cart.eolCause ≠ 0 then p.cart.eolCause else if p.cellLow then 4 else 0

/-! ## Payloads -/

/-- R559: POWER_STATUS. -/
def Power.status (p : Power) (c : Cfg) (now mono free : Nat) : List Byte :=
  le 8 now ++ le 4 p.flagWord ++ le 2 p.domainWord ++ le 1 p.lastWake ++ le 1 p.lastRefuser
    ++ leInt 4 (Config.measured .supply free) ++ leInt 4 (Config.measured .stackVoltage free)
    ++ leInt 2 (Config.measured .stackEnergy free) ++ le 2 p.cart.cap ++ le 2 p.cart.esr ++ le 2 c.retainMask
    ++ leInt 4 (Config.measured .cellVoltage free) ++ le 4 (seconds32 (mono - p.runSince)) ++ le 8 p.wakeAt

/-- R560: POWER_ACCOUNTS; ENERGY and ENGINE_IDLE are measured. -/
def Power.accounts (p : Power) (now free : Nat) : List Byte :=
  let q := p.counters
  le 8 now ++ le 4 (seconds32 q.usRun) ++ le 4 (seconds32 q.usStable) ++ le 4 (seconds32 q.usHibernate)
    ++ le 4 (seconds32 q.usHoldup) ++ leInt 4 (Config.measured .account free) ++ le 2 q.stable ++ le 2 q.hibernate ++ le 2 q.refused
    ++ le 1 p.lastRefuser ++ le 1 p.lastWake ++ le 8 q.lastRefusalTime ++ le 2 q.holdupEvents ++ le 2 q.holdupResets
    ++ (q.refusals.toList.map (le 2)).flatten ++ (q.wakes.toList.map (le 2)).flatten
    ++ ((List.range 10).map (fun i => leInt 1 (Config.measured .account (free + 1 + i)))).flatten

/-- R556: no cartridge, or less than 90 % of its energy. -/
def Power.removeCartridge (p : Power) : Power :=
  { p with noHoldup := true, charging := false, cart := { p.cart with fitted := false } }

end Sys2Proof.Machine
end

