-- ==== Sys2Proof/Machine/Recorder.lean ====
section
/-!
DEFINITION. The cycle and incident recorder (chapter 13): records, staging, flushes, the cycle log with its acknowledgement and
the incident journal.
-/

namespace Sys2Proof.Machine

/-- One trace sample (Table 13.6): its four 16-bit fields. -/
structure Sample where
  current  : Int
  position : Int
  velocity : Int
  sflags   : Nat
  deriving DecidableEq, Repr

/-- An incident (Table 13.5). `head` holds bytes 16 to 18 and `values` bytes 28 to 95, taken at the first trigger. -/
structure Incident where
  time     : Nat
  mono     : Nat
  cause    : Nat
  door     : Option DoorIx
  drive    : Option DriveIx
  head     : List Byte
  truncated   : Bool
  timeStepped : Bool
  timeInvalid : Bool
  bypassStart : Bool
  bypassEnd   : Bool
  pre      : Nat
  historyStart : Nat
  secondary : Nat
  /-- The first four secondary triggers: cause and offset in ms (R508). -/
  seconds  : List (Nat × Nat)
  values   : List Byte
  detail   : List Byte
  samples  : List Sample
  deriving DecidableEq, Repr

/-- A running flush (R511): the RSEQ and ISEQ up to which it writes, and whether a further one follows. -/
structure Flush where
  rseq    : Nat
  iseq    : Nat
  further : Bool
  deriving DecidableEq, Repr

/-- A running INCIDENT_ERASE (R526). -/
structure Erase where
  handle  : Nat
  erased  : Nat
  since   : Nat
  deriving DecidableEq, Repr

/-- The recorder. -/
structure Recorder where
  /-- The records from ACK_RSEQ on, in RSEQ order. -/
  log        : List (Nat × List Byte)
  /-- RSEQ of the staged records that are not yet durable. -/
  staged     : List Nat
  ackRseq    : Nat
  nextRseq   : Nat
  durableRseq : Nat
  stopped    : Bool
  warned     : Bool
  /-- Cycles lost since the log stopped, for the GAP marker (R521). -/
  gap        : Nat
  /-- Incidents held, durable and staged, in ISEQ order. -/
  journal    : List (Nat × Incident)
  stagedInc  : List Nat
  firstIseq  : Nat
  nextIseq   : Nat
  journalFull : Bool
  /-- Open incidents: of doorways 0 to 7, and the module-level one. -/
  opened     : Vector (Option Incident) 9
  history    : Vector (List Sample) 16
  due        : Bool
  powerFailDue : Bool
  flush      : Option Flush
  erase      : Option Erase
  lastFlush  : Nat
  lastFlushTime : Nat
  overrunSeen : Bool
  powerFailSeen : Bool
  lastOverrun : Option Nat
  lostCycles : Nat
  incidentsLost : Nat
  flushes    : Nat
  powerFailFlushes : Nat
  overruns   : Nat
  truncatedIncidents : Nat
  acks       : Nat
  erases     : Nat
  deriving DecidableEq, Repr

/-- The recorder as delivered. -/
def Recorder.reset : Recorder :=
  { log := [], staged := [], ackRseq := 0, nextRseq := 0, durableRseq := 0, stopped := false, warned := false, gap := 0
    journal := [], stagedInc := [], firstIseq := 0, nextIseq := 0, journalFull := false, opened := tab 9 (fun _ => none)
    history := tab 16 (fun _ => []), due := false, powerFailDue := false, flush := none, erase := none, lastFlush := 0
    lastFlushTime := 0, overrunSeen := false, powerFailSeen := false, lastOverrun := none, lostCycles := 0
    incidentsLost := 0, flushes := 0, powerFailFlushes := 0, overruns := 0, truncatedIncidents := 0, acks := 0, erases := 0 }

/-! ## Record bytes -/

/-- A record with its RECORD_CRC (Table 13.1). -/
def sealRecord (body : List Byte) : List Byte := body ++ le 4 (crc32c body)

/-- The bits of CYCLE_FLAGS (Table 13.3); INCOMPLETE is decided at staging. -/
def CycleFlags.word (f : CycleFlags) (incomplete : Bool) : Nat :=
  bitWord [f.reopened, f.obstructed, f.egress, f.stopped, f.indexCorrected, f.relearned, f.derated, f.lockRetried,
    f.stepChatter, f.stepRetried, f.segmentMark, f.incident, f.timeStepped, f.timeInvalid, incomplete, f.continued]

/-- The cycle record of a doorway (Table 13.1); peaks, energy, temperature and least supply are measured (note 4). -/
def cycleBytes (c : Cycle) (d : DoorIx) (rseq mono endState free : Nat) (incomplete : Bool) : List Byte :=
  sealRecord (le 8 c.start ++ le 4 rseq ++ le 1 d.val ++ le 1 c.type ++ le 2 (c.flags.word incomplete) ++ le 4 c.tUnlock
    ++ le 4 c.tOpen ++ le 4 c.tHold ++ le 4 c.tWarn ++ le 4 c.tClose ++ le 4 c.tLock
    ++ leInt 2 (Config.measured .peakDoor free) ++ leInt 2 (Config.measured .peakStep free)
    ++ leInt 4 (Config.measured .energy free) ++ le 4 (satTo 32 (mono - c.startMono))
    ++ leInt 2 (Config.measured .baseplate free) ++ le 1 (min c.obstacles 255) ++ le 1 endState
    ++ le 2 (min c.sigEnergy 65535) ++ leInt 2 (Config.measured .minSupply free))

/-- A marker record (R504, R505, R521): its bytes 16 to 59 are the value, then zeros. -/
def markerBytes (now rseq type : Nat) (value : List Byte) : List Byte :=
  sealRecord (le 8 now ++ le 4 rseq ++ le 1 0xFF ++ le 1 type ++ le 2 0 ++ value ++ List.replicate (44 - value.length) 0)

/-- A field of 16 bits clamped to its ends (Table 13.6). -/
def clamp16 (v : Int) : Int := clampInt (-32768) 32767 v

/-- The eight bytes of a sample. -/
def Sample.bytes (s : Sample) : List Byte :=
  leInt 2 (clamp16 s.current) ++ leInt 2 (clamp16 s.position) ++ leInt 2 (clamp16 s.velocity) ++ le 2 s.sflags

/-- A sample of zeros. -/
def Sample.zero : Sample := { current := 0, position := 0, velocity := 0, sflags := 0 }

/-- INC_FLAGS. -/
def Incident.flagWord (i : Incident) : Nat :=
  bitWord [i.truncated, i.timeStepped, i.timeInvalid, i.bypassStart, i.bypassEnd]

/-- The doorway byte of an incident. -/
def Incident.doorByte (i : Incident) : Nat :=
  match i.door with
  | some d => d.val
  | none => 0xFF

/-- The header of an incident up to HEADER_CRC (Table 13.5). -/
def Incident.header (i : Incident) (iseq : Nat) (trace : List Byte) : List Byte :=
  let drive := match i.drive with
    | some r => r.val
    | none => 0xFF
  let sec := (List.range 4).map (fun k => match i.seconds[k]? with
    | some (c, ms) => le 2 c ++ le 2 ms
    | none => le 4 0)
  let body := le 8 i.time ++ le 4 iseq ++ le 2 i.cause ++ le 1 i.doorByte ++ le 1 drive ++ i.head ++ le 1 i.flagWord
    ++ le 2 i.pre ++ le 2 i.samples.length ++ le 2 i.historyStart ++ le 2 i.secondary ++ i.values ++ sec.flatten ++ i.detail
    ++ List.replicate 200 0 ++ le 4 (crc32c trace)
  body ++ le 4 (crc32c body)

/-- The trace of an incident: 2,000 samples, zero where none was recorded. -/
def Incident.trace (i : Incident) : List Byte :=
  let t := (i.samples.map Sample.bytes).flatten
  t ++ List.replicate (16000 - t.length) 0

/-- The 16,384 bytes of an incident record (R510). -/
def Incident.bytes (i : Incident) (iseq : Nat) : List Byte := let t := i.trace; i.header iseq t ++ t

/-! ## Flags, fill and events -/

/-- Bytes staged: 64 for each cycle record and 16,384 for each incident. -/
def Recorder.stagedBytes (r : Recorder) : Nat := 64 * r.staged.length + 16384 * r.stagedInc.length

/-- REC_FLAGS (Table 13.12); FLUSH_EACH while running without hold-up (R516). -/
def Recorder.flagWord (r : Recorder) (flushEach : Bool) : Nat :=
  bitWord [r.stopped, r.warned, r.journalFull, r.flush.isSome, r.erase.isSome, flushEach, r.overrunSeen, r.powerFailSeen]

/-- 0xED01 (Table 13.13): LOST_CYCLES, or INCIDENTS_LOST for the journal's codes. -/
def Recorder.state (r : Recorder) (now code : Nat) : Nat × List Byte :=
  (0xED01, le 8 now ++ le 1 code ++ le 1 0 ++ le 2 0 ++ le 4 (if code = 4 ∨ code = 5 then r.incidentsLost else r.lostCycles))

/-- R519: the fill in percent reaches LOG_WARN_PCT. -/
def Recorder.atWarn (r : Recorder) (c : Cfg) : Bool := decide (c.logWarnPct * 524288 ≤ 100 * (r.nextRseq - r.ackRseq))

/-- R517: a record finds too little space. -/
def Recorder.overrun (r : Recorder) (now : Nat) : Recorder × Events :=
  let r := { r with overruns := satInc 32 r.overruns, overrunSeen := true }
  let quiet := match r.lastOverrun with
    | some t => decide (now < t + 1000000)
    | none => false
  if quiet then (r, []) else ({ r with lastOverrun := some now }, [r.state now 6])

/-- R512: the staged content reaches 75 % of the buffer. -/
def Recorder.fillTrigger (r : Recorder) : Recorder := if 196608 ≤ r.stagedBytes then { r with due := true } else r

/-- R503, R517, R518: one record is staged with the next RSEQ; `bytes` builds it. `cycle` is false for markers. -/
def Recorder.stage (r : Recorder) (c : Cfg) (now : Nat) (cycle : Bool) (bytes : Nat → List Byte) : Recorder × Events :=
  let lose (r : Recorder) : Recorder := if cycle then { r with lostCycles := satInc 32 r.lostCycles } else r
  if r.stopped then ({ lose r with gap := if cycle then satInc 32 r.gap else r.gap }, [])
  else if 262144 < r.stagedBytes + 64 then (lose r).overrun now
  else
    let r := { r with log := r.log ++ [(r.nextRseq, bytes r.nextRseq)], staged := r.staged ++ [r.nextRseq], nextRseq := r.nextRseq + 1 }
    let r := r.fillTrigger
    let w := r.atWarn c && !r.warned
    let r := { r with warned := r.warned || w }
    let r' := if 524288 ≤ r.nextRseq - r.ackRseq then { r with stopped := true, gap := 0 } else r
    (r', (if w then [r'.state now 1] else []) ++ (if r'.stopped then [r'.state now 2] else []))

/-! ## Incidents (R506 to R509) -/

/-- The place of an incident among the open ones: its doorway, or 8 for a module-level cause. -/
def incidentSlot (moduleLevel : Bool) (d : Option DoorIx) : Fin 9 :=
  if moduleLevel then 8 else match d with
    | some d => ⟨d.val, by omega⟩
    | none => 8

/-- R509, R517: a complete incident is staged with the next ISEQ. -/
def Recorder.stageIncident (r : Recorder) (now : Nat) (i : Incident) : Recorder × Events :=
  if 262144 < r.stagedBytes + 16384 then ({ r with incidentsLost := satInc 32 r.incidentsLost }).overrun now
  else
    let n := r.nextIseq
    let r := { r with journal := r.journal ++ [(n, i)], stagedInc := r.stagedInc ++ [n], nextIseq := n + 1, due := true }
    (r.fillTrigger, [(0xED02, le 8 now ++ le 4 n ++ le 2 i.cause ++ le 1 i.doorByte ++ le 1 i.flagWord)])

/-- R508: a trigger while the slot's incident is recording. -/
def Incident.again (i : Incident) (cause mono : Nat) : Incident :=
  { i with secondary := satInc 16 i.secondary
           seconds := if i.seconds.length < 4 then i.seconds ++ [(cause, (mono - i.mono) / 1000)] else i.seconds }

/-- R506 to R508: a trigger opens an incident, or is a secondary one. One without a doorway has no trace and is complete at
once. Answers whether it was opened. -/
def Recorder.open (r : Recorder) (c : Cfg) (slot : Fin 9) (i : Incident) : Recorder × Events × Bool :=
  if !bitOf c.incCauseMask i.cause && i.cause ≠ 1 && i.cause ≠ 2 && i.cause ≠ 6 then (r, [], false)
  else match r.opened[slot] with
    | some j => ({ r with opened := r.opened.set slot (some (j.again i.cause i.mono)) }, [], false)
    | none =>
      if i.drive.isNone then
        let s := r.stageIncident i.time i
        (s.1, s.2, true)
      else ({ r with opened := r.opened.set slot (some i) }, [], true)

/-- R507: the samples an incident takes from the history: INC_PRE_SAMPLES, zero before HISTORY_START. -/
def preSamples (hist : List Sample) (pre : Nat) : List Sample × Nat :=
  let h := hist.drop (hist.length - pre)
  (List.replicate (pre - h.length) Sample.zero ++ h, pre - h.length)

/-- One millisecond of a drive's history (R507). -/
def pushSample (hist : List Sample) (s : Sample) : List Sample :=
  let l := hist ++ [s]
  l.drop (l.length - 1800)

/-- An open incident that has its 2,000 samples is complete (R509). -/
def Recorder.completeAt (r : Recorder) (now : Nat) (slot : Fin 9) : Recorder × Events :=
  match r.opened[slot] with
  | some i => ({ r with opened := r.opened.set slot none }).stageIncident now i
  | none => (r, [])

/-- INCIDENT_COMPLETE: the samples not yet taken here are free (note 4). -/
def Recorder.complete (r : Recorder) (now free : Nat) (slot : Fin 9) : Recorder × Events :=
  match r.opened[slot] with
  | some i =>
    let rest := (List.range (2000 - i.samples.length)).map (fun k =>
      { current := Config.measured .trace (free + 4 * k), position := Config.measured .trace (free + 4 * k + 1)
        velocity := Config.measured .trace (free + 4 * k + 2)
        sflags := (Config.measured .trace (free + 4 * k + 3)).toNat % 65536 : Sample })
    ({ r with opened := r.opened.set slot (some { i with samples := i.samples ++ rest }) }).completeAt now slot
  | none => (r, [])

/-- A millisecond passes at a slot: its incident records a sample. -/
def Recorder.sampleSlot (r : Recorder) (now : Nat) (slot : Fin 9) (sample : DriveIx → Sample) : Recorder × Events :=
  match r.opened[slot] with
  | some i =>
    match i.drive with
    | none => (r, [])
    | some q =>
      let i := { i with samples := i.samples ++ [sample q] }
      let r := { r with opened := r.opened.set slot (some i) }
      if 2000 ≤ i.samples.length then r.completeAt now slot else (r, [])
  | none => (r, [])

/-- The nine slots. -/
def slots : List (Fin 9) := [0, 1, 2, 3, 4, 5, 6, 7, 8]

/-- A millisecond passes: every powered drive's history and every open incident take a sample. -/
def Recorder.millisecond (r : Recorder) (now : Nat) (powered : DriveIx → Bool) (sample : DriveIx → Sample) : Recorder × Events :=
  let r := { r with history := tab 16 (fun q => if powered q then pushSample r.history[q] (sample q) else []) }
  slots.foldl (fun p s => let q := p.1.sampleSlot now s sample; (q.1, p.2 ++ q.2)) (r, [])

/-! ## Flushes (R511 to R516) -/

/-- A flush trigger (R512). -/
def Recorder.trigger (r : Recorder) : Recorder :=
  match r.flush with
  | some f => { r with flush := some { f with further := true } }
  | none => { r with due := true }

/-- A flush begins: it writes every record staged now (R511). -/
def Recorder.beginFlush (r : Recorder) : Recorder :=
  match r.flush with
  | some f => { r with flush := some { f with further := true } }
  | none =>
    { r with due := false, powerFailDue := false, flush := some { rseq := r.nextRseq, iseq := r.nextIseq, further := false }
             powerFailFlushes := if r.powerFailDue then satInc 16 r.powerFailFlushes else r.powerFailFlushes
             powerFailSeen := r.powerFailSeen || r.powerFailDue }

/-- R523: the staged incidents a flush writes go into the journal, or are discarded where it is full. An erase in progress
keeps them staged (R526). -/
def Recorder.writeIncidents (r : Recorder) (now upTo : Nat) : Recorder × Events :=
  if r.erase.isSome then (r, [])
  else
    r.stagedInc.foldl (fun p n =>
      let r := p.1
      if upTo ≤ n then p
      else
        let durable := (r.journal.filter (fun x => !r.stagedInc.contains x.1)).length
        let rest := r.stagedInc.filter (fun m => m != n)
        if r.journalFull then
          ({ r with stagedInc := rest, journal := r.journal.filter (fun x => x.1 != n)
                    incidentsLost := satInc 32 r.incidentsLost }, p.2)
        else
          let r := { r with stagedInc := rest, journalFull := decide (1024 ≤ durable + 1) }
          (r, p.2 ++ (if r.journalFull then [r.state now 4] else []))) (r, [])

/-- A flush completes after a time in µs (R513). -/
def Recorder.endFlush (r : Recorder) (now us : Nat) : Recorder × Events :=
  match r.flush with
  | none => (r, [])
  | some f =>
    let done := r.staged.filter (fun n => decide (n < f.rseq))
    let top := done.foldl max r.durableRseq
    let r := { r with staged := r.staged.filter (fun n => decide (f.rseq ≤ n)), durableRseq := top, flush := none
                      lastFlush := now, lastFlushTime := satTo 32 us, flushes := satInc 32 r.flushes }
    let w := r.writeIncidents now f.iseq
    (if f.further then w.1.beginFlush else w.1, w.2)

/-- R515: at a power-fail each open incident is truncated and staged. -/
def Recorder.truncate (r : Recorder) (now : Nat) : Recorder × Events :=
  slots.foldl (fun p s =>
    match p.1.opened[s] with
    | none => p
    | some i =>
      let r := { p.1 with opened := p.1.opened.set s (some { i with truncated := true })
                          truncatedIncidents := satInc 16 p.1.truncatedIncidents }
      let q := r.completeAt now s
      (q.1, p.2 ++ q.2)) (r, [])

/-! ## Commands (R520 to R527) -/

/-- R520, R521: LOG_ACK. -/
def Recorder.ack (r : Recorder) (c : Cfg) (now upTo : Nat) : Recorder × Events :=
  if upTo ≤ r.ackRseq then (r, [])
  else
    let r := { r with ackRseq := upTo, acks := satInc 32 r.acks, log := r.log.filter (fun x => decide (upTo ≤ x.1))
                      staged := r.staged.filter (fun n => decide (upTo ≤ n)) }
    let r := { r with warned := r.warned && r.atWarn c }
    if r.stopped then
      let lost := r.gap
      let m := ({ r with stopped := false, gap := 0 }).stage c now false (fun n => markerBytes now n 9 (le 4 lost))
      (m.1, m.2 ++ [m.1.state now 3])
    else (r, [])

/-- R522: the payload of LOG_DRAIN. -/
def Recorder.drain (r : Recorder) (from_ max_ : Nat) : List Byte :=
  let start := max from_ r.ackRseq
  let all := r.log.filter (fun x => decide (start ≤ x.1))
  let got := all.take max_
  le 4 r.ackRseq ++ le 4 r.nextRseq ++ le 1 got.length
    ++ le 1 (bitWord [decide (max_ < all.length), decide (from_ < r.ackRseq), r.stopped]) ++ le 2 0
    ++ (got.map (·.2)).flatten

/-- An incident of the journal. -/
def Recorder.incident (r : Recorder) (n : Nat) : Option Incident := (r.journal.find? (fun x => x.1 == n)).map (·.2)

/-- R524: the payload of INCIDENT_READ. -/
def readChunk (i : Incident) (n chunk : Nat) : List Byte :=
  let data := (i.bytes n).drop (992 * chunk) |>.take 992
  le 4 n ++ le 2 chunk ++ le 2 data.length ++ data

/-- R525, R526: the erase takes effect at its commitment point, with event code 5. -/
def Recorder.startErase (r : Recorder) (now mono upTo handle : Nat) : Recorder × Events :=
  let below (n : Nat) : Bool := decide (upTo = 0xFFFFFFFF) || decide (n < upTo)
  let gone := (r.journal.filter (fun x => below x.1)).length
  let first := if upTo = 0xFFFFFFFF then r.nextIseq else max r.firstIseq upTo
  let r := { r with journal := r.journal.filter (fun x => !below x.1), stagedInc := r.stagedInc.filter (fun n => !below n)
                    firstIseq := first, journalFull := false, erases := satInc 16 r.erases
                    erase := some { handle := handle, erased := gone, since := mono } }
  (r, [r.state now 5])

/-- R527: the payload of LOG_STATUS. -/
def Recorder.status (r : Recorder) (now : Nat) (flushEach : Bool) : List Byte :=
  le 8 now ++ le 4 r.ackRseq ++ le 4 r.nextRseq ++ le 4 r.durableRseq ++ le 4 r.firstIseq ++ le 4 r.nextIseq
    ++ le 4 r.lostCycles ++ le 4 r.incidentsLost ++ le 4 (r.flagWord flushEach)
    ++ le 1 (slots.filter (fun s => r.opened[s].isSome)).length ++ le 1 0 ++ le 2 0

/-- A supply loss or reset: what is staged or open and not durable is lost (R513, R516). -/
def Recorder.lose (r : Recorder) : Recorder :=
  { r with log := r.log.filter (fun x => !r.staged.contains x.1), staged := []
           journal := r.journal.filter (fun x => !r.stagedInc.contains x.1), stagedInc := []
           opened := tab 9 (fun _ => none), history := tab 16 (fun _ => []), due := false, powerFailDue := false, flush := none
           erase := none, lastOverrun := none }

end Sys2Proof.Machine
end

