-- ==== Sys2Proof/Machine/Service.lean ====
section
/-!
DEFINITION. Spare legs, firmware banks and activation, the security store, self-test and identity (chapter 16).
-/

namespace Sys2Proof.Machine

/-- SPARE_STATE. -/
inductive SpareState where | free | inUse | failed
  deriving DecidableEq, Repr

/-- Codes of SPARE_STATE. -/
def SpareState.code : SpareState → Nat
  | .free => 0 | .inUse => 1 | .failed => 2

/-- A substitution in progress (Table 16.1); `leg` is none for the restoring of the original leg. -/
structure Substitution where
  leg     : Option (Fin 14)
  /-- The handle of a manual substitution (R605). -/
  handle  : Option Nat
  started : Nat
  deriving DecidableEq, Repr

/-- Bramble of one pair of doorways (R599 to R605). -/
structure Bramble where
  state   : SpareState
  leg     : Option (Fin 14)
  failed  : Vector Bool 14
  suspect : Bool
  running : Option Substitution
  /-- Monotonic time at which the spare took over. -/
  takenAt : Nat
  deriving DecidableEq, Repr

/-- One firmware bank (R606). -/
structure FwBank where
  bytes   : List Byte
  version : Nat
  rollbackMin : Nat
  valid   : Bool
  deriving DecidableEq, Repr

/-- The engines an activation updates: leaf engines 0 to 7, the supervisor pair, the comms engine (R612). -/
inductive FwEngine where | leaf (d : DoorIx) | supv | comms
  deriving DecidableEq, Repr

/-- The roll-back of an activation: final STATUS and REASON, and the engine at failure (R616). -/
structure RollBack where
  status : Nat
  reason : Nat
  failed : Nat
  deriving DecidableEq, Repr

/-- FW_ACTIVATE in progress (R611 to R617). -/
structure Activation where
  handle   : Nat
  session  : SessIx
  live     : Bool
  started  : Nat
  updated  : List FwEngine
  /-- The engine halted for its update. -/
  current  : Option FwEngine
  rolling  : Option RollBack
  deriving DecidableEq, Repr

/-- Firmware banks and their update. -/
structure Firmware where
  banks     : Vector FwBank 2
  active    : Fin 2
  staged    : Bool
  previous  : Bool
  fallback  : Bool
  /-- Neither bank was valid at power-up: the boot loader runs (R610). -/
  bootLoader : Bool
  stagedBytes : Nat
  stager    : Option SessIx
  lastStage : Nat
  floor     : Nat
  activations : Nat
  activation : Option Activation
  deriving DecidableEq, Repr

/-- A SELFTEST in progress (R618). -/
structure SelfTest where
  handle  : Nat
  session : SessIx
  tests   : Nat
  doors   : Vector Bool 8
  skipped : Nat
  started : Nat
  aborted : Bool
  deriving DecidableEq, Repr

/-- Identity and service state of the module. -/
structure Service where
  brambles  : Vector Bramble 4
  substitutions : Nat
  fw        : Firmware
  keys      : Vector (List Byte) 5
  keyIds    : Vector Nat 2
  selftest  : Option SelfTest
  testLast  : Nat
  testFailed : Nat
  serial    : List Byte
  hwIssue   : Nat
  macRing   : Nat
  macService : Nat
  manufactured : Nat
  usOperating : Nat
  testModeEntries : Nat
  deriving DecidableEq, Repr

/-- Bramble as delivered. -/
def Bramble.reset : Bramble :=
  { state := .free, leg := none, failed := tab 14 (fun _ => false), suspect := false, running := none, takenAt := 0 }

/-- An empty bank. -/
def FwBank.empty : FwBank := { bytes := [], version := 0, rollbackMin := 0, valid := false }

/-- Firmware as delivered: bank A holds the factory's firmware (note 63). -/
def Firmware.reset : Firmware :=
  { banks := tab 2 (fun b => { FwBank.empty with valid := b.val == 0 }), active := 0, staged := false, previous := false
    fallback := false, bootLoader := false, stagedBytes := 0, stager := none, lastStage := 0, floor := 0, activations := 0
    activation := none }

/-- The service state as delivered (R621): empty keys. -/
def Service.reset : Service :=
  { brambles := tab 4 (fun _ => Bramble.reset), substitutions := 0, fw := Firmware.reset
    keys := tab 5 (fun _ => List.replicate 32 0), keyIds := tab 2 (fun _ => 0), selftest := none, testLast := 0, testFailed := 0
    serial := List.replicate 16 0, hwIssue := 0, macRing := 0, macService := 0, manufactured := 0, usOperating := 0
    testModeEntries := 0 }

/-- Change the firmware part. -/
def Service.onFw (s : Service) (f : Firmware → Firmware) : Service := { s with fw := f s.fw }

/-- Change one pair's Bramble. -/
def Service.bramble (s : Service) (p : Fin 4) (f : Bramble → Bramble) : Service :=
  { s with brambles := s.brambles.set p (f s.brambles[p]) }

/-! ## Legs (R599) -/

/-- The pair of a doorway. -/
def pairOf (d : DoorIx) : Fin 4 := ⟨d.val / 2, by omega⟩

/-- The drive that a leg of a pair belongs to. -/
def legDrive (p : Fin 4) (l : Fin 14) : DriveIx :=
  let d : DoorIx := Fin.ofNat 8 (2 * p.val + l.val / 7)
  if l.val % 7 < 3 then doorDrive d else stepDrive d

/-- The leg of a phase or coil end of a drive within its pair; `k` is 0 to 2 for U, V, W and 0 to 3 for the coil ends. -/
def legOf (r : DriveIx) (k : Fin 4) : Fin 14 :=
  let off := if isStep r then 3 + k.val else min k.val 2
  Fin.ofNat 14 (7 * ((doorOf r).val % 2) + off)

/-- LEG_FAILED_MASK: bit 16p + leg. -/
def Service.legMask (s : Service) : Nat :=
  bitWord (((List.finRange 4).map (fun p => s.brambles[p].failed.toList ++ [false, false])).flatten)

/-- SPARE_SUSPECT. -/
def Service.suspectMask (s : Service) : Nat := bitWord (s.brambles.toList.map (·.suspect))

/-- Mark a leg failed (R600). -/
def Bramble.mark (b : Bramble) (l : Fin 14) : Bramble := { b with failed := b.failed.set l true }

/-- The lowest failed leg that is not served by the spare. -/
def Bramble.lowestFailed (b : Bramble) : Option (Fin 14) := (List.finRange 14).find? (fun l => b.failed[l])

/-- R602: an automatic substitution may start. -/
def Bramble.mayTake (b : Bramble) (c : Cfg) : Bool := b.state == .free && b.running.isNone && decide (c.subAuto = 1)

/-- R628: the payload of a service event. -/
def serviceEvent (now code item v16 value : Nat) : List Byte := le 8 now ++ le 1 code ++ le 1 item ++ le 2 v16 ++ le 4 value

/-! ## Firmware (R606 to R617) -/

/-- The number of an engine in the results and events of chapter 16: the pair counts as E8. -/
def FwEngine.number : FwEngine → Nat
  | .leaf d => d.val | .supv => 8 | .comms => 10

/-- The other bank. -/
def Firmware.other (f : Firmware) : Fin 2 := if f.active = 0 then 1 else 0

/-- FW_FLAGS (Table 16.7). -/
def Firmware.flagWord (f : Firmware) : Nat := bitWord [f.staged, f.previous, f.activation.isSome, f.fallback]

/-- The running firmware's version. -/
def Firmware.version (f : Firmware) : Nat := f.banks[f.active].version

/-- R606: a bank is valid: its signature verifies and its version is not below the floor. -/
def Firmware.bankValid (f : Firmware) (b : Fin 2) : Bool := f.banks[b].valid && decide (f.floor ≤ f.banks[b].version)

/-- R609: staging refusal, in the order of R405. -/
def Firmware.stageRefusal (f : Firmware) (i : SessIx) (mono offset len : Nat) (first : Bool) : Option Nat :=
  if first then
    if offset ≠ 0 ∨ 4194304 < len then some 0x60
    else match f.stager with
      | some j => if j ≠ i ∧ i.val ≠ 4 ∧ mono < f.lastStage + 60000000 then some 0x03 else none
      | none => none
  else if f.stager ≠ some i then some 0x60
  else if offset ≠ f.stagedBytes ∨ 4194304 < offset + len then some 0x60
  else none

/-- R609: a block into the bank that is not active. -/
def Firmware.stage (f : Firmware) (i : SessIx) (mono : Nat) (first : Bool) (block : List Byte) : Firmware :=
  let b := f.other
  let old := if first then [] else f.banks[b].bytes
  { f with banks := f.banks.set b { FwBank.empty with bytes := old ++ block }
           stagedBytes := old.length + block.length, stager := some i, lastStage := mono
           staged := f.staged && !first, previous := f.previous && !first }

/-- R609 at LAST: the image is checked under R606; answers the refusal, if any. -/
def Firmware.check (f : Firmware) : Firmware × Option Nat :=
  let b := f.other
  let bytes := f.banks[b].bytes
  let v := (Config.firmwareVersion bytes).toNat
  if bytes.length < 256 || !Config.firmwareSigned bytes then (f, some 0x61)
  else if v < f.floor then (f, some 0x65)
  else
    ({ f with staged := true
              banks := f.banks.set b { bytes := bytes, version := v, rollbackMin := (Config.firmwareRollbackMin bytes).toNat
                                       valid := true } }, none)

/-- The engines of an activation in order, those whose domain is off left to the bank switch (R612). -/
def activationOrder (on : DoorIx → Bool) : List FwEngine := ((doorways.filter on).map FwEngine.leaf) ++ [.supv, .comms]

/-- The engine to update next. -/
def Activation.next (a : Activation) (on : DoorIx → Bool) : Option FwEngine :=
  (activationOrder on).find? (fun e => !a.updated.contains e)

/-- The engine that this update or roll-back has to take now: the next one, or the last updated one in a roll-back (R616). -/
def Activation.due (a : Activation) (on : DoorIx → Bool) : Option FwEngine :=
  match a.rolling with
  | none => a.next on
  | some _ => a.updated.getLast?

/-- An engine has been updated, or has been returned to the old code. -/
def Activation.finished (a : Activation) (e : FwEngine) : Activation :=
  match a.rolling with
  | none => { a with current := none, updated := a.updated ++ [e] }
  | some _ => { a with current := none, updated := a.updated.filter (fun x => x != e) }

/-- R615: the commitment point: ACTIVE_FW_BANK is written. -/
def Firmware.commit (f : Firmware) : Firmware :=
  let b := f.other
  { f with active := b, previous := true, staged := false, activations := satInc 16 f.activations
           floor := max f.floor f.banks[b].rollbackMin }

/-- R616: the result of FW_ACTIVATE. -/
def activationResult (outcome count failed ms version : Nat) : List Byte :=
  le 1 outcome ++ le 1 count ++ le 1 failed ++ le 1 0 ++ le 4 ms ++ le 4 version

/-! ## Keys and identity -/

/-- A key of 32 zero bytes is empty (R608). -/
def keyEmpty (k : List Byte) : Bool := k.all (fun b => b == 0)

/-- KEY_UNSET: the key of session 4 is empty (R608). -/
def Service.keyUnset (s : Service) : Bool := keyEmpty s.keys[(4 : Fin 5)]

/-- A loss of supply or a reset ends what is in progress; banks, keys, counters and Bramble's state stay. -/
def Service.unpowered (s : Service) : Service :=
  { s with
    brambles := tab 4 (fun p => { s.brambles[p] with running := none })
    selftest := none, fw := { s.fw with activation := none, stager := none } }

end Sys2Proof.Machine
end

