-- ==== Sys2Proof/Machine/Session.lean ====
section
/-!
DEFINITION. Sessions of the Ferken command protocol (chapter 9): packets, sequence numbers, stored replies and events, the
transmit queue, outstanding operations and commanding sessions.
-/

namespace Sys2Proof.Machine

/-- Table 9.9, the session states. -/
inductive SessState where | closed | opened | silent | paused
  deriving DecidableEq, Repr

/-- A reply or event packet as queued for its transport (Table 9.2). -/
structure Packet where
  event   : Bool
  session : SessIx
  code    : Nat
  dseq    : Nat
  hack    : Nat
  tag     : Nat
  status  : Nat
  reason  : Nat
  handle  : Nat
  payload : List Byte
  /-- For the service port, the address and port it goes to (R358); 0 elsewhere. -/
  dest    : Nat
  deriving DecidableEq, Repr

/-- A stored reply with the command it answered (R362, R363). -/
structure StoredReply where
  hseq    : Nat
  opcode  : Nat
  params  : List Byte
  status  : Nat
  reason  : Nat
  handle  : Nat
  dseq    : Nat
  payload : List Byte
  deriving DecidableEq, Repr

/-- A stored event (R369). -/
structure StoredEvent where
  dseq    : Nat
  code    : Nat
  payload : List Byte
  deriving DecidableEq, Repr

/-- A packet being reassembled from CAN FD segments (R356). -/
structure Partial where
  bytes  : List Byte
  index  : Nat
  toggle : Bool
  deriving DecidableEq, Repr

/-- One session. -/
structure Session where
  state     : SessState
  /-- The state before PAUSED. -/
  before    : SessState
  expected  : Nat
  /-- The DSEQ the session uses next (R365). -/
  dseqNext  : Nat
  replies   : List StoredReply
  events    : List StoredEvent
  lastDack  : Nat
  lostUnacked : Nat
  eventsLost : Bool
  /-- DSEQ of the last event that left the store (R371). -/
  lastGone  : Option Nat
  txQueue   : List Packet
  /-- Replies that wait for room in the queue (R370). -/
  txWaiting : List Packet
  txDropped : Nat
  /-- The packet last handed to the transport. -/
  lastSent  : Option Packet
  eventMask : Nat
  resumed   : Bool
  authenticated : Bool
  authLocked : Bool
  authFails : Nat
  nonce     : List Byte
  lastValid : Nat
  /-- Source of the last valid packet, for session 4 (R358). -/
  peer      : Nat
  partialIn : Option Partial
  /-- The segment received last, for double receptions (R356). -/
  lastSeg   : Option (Nat × Bool)
  txToggle  : Bool
  deriving DecidableEq, Repr

/-- A session as after power-up or reset (R365, R377, R396). -/
def Session.reset : Session :=
  { state := .closed, before := .closed, expected := 0, dseqNext := 0, replies := [], events := [], lastDack := 0
    lostUnacked := 0, eventsLost := false, lastGone := none, txQueue := [], txWaiting := [], txDropped := 0, lastSent := none
    eventMask := 0xFFFF, resumed := false, authenticated := false, authLocked := false, authFails := 0
    nonce := List.replicate 16 0, lastValid := 0, peer := 0, partialIn := none, lastSeg := none, txToggle := false }

/-- The kinds of long-running operation (Table 9.14, marked A). -/
inductive OpKind where
  | doorOpen | doorClose | doorResume | testCycle | learn | moveTo (drive : DriveIx) | homeStep
  | cfgCommit | incidentErase | powerEnter | fwActivate | selftest | legSubstitute
  deriving DecidableEq, Repr

/-- A doorway's part in an operation (R55): whether it was addressed, and its outcome once decided. `opening` says of a
RESUME that the resumed motion is an opening. -/
structure DoorOut where
  addressed : Bool
  opening   : Bool
  /-- An ABORT stops the doorway (R57). -/
  stopping  : Bool
  outcome   : Option Nat
  reason    : Nat
  final     : Nat
  deriving DecidableEq, Repr

/-- Whether an operation runs, is complete, or is in its fetch hold (R373). -/
inductive OpState where | running | complete | held
  deriving DecidableEq, Repr

/-- A long-running operation (R372, R373). -/
structure Operation where
  handle  : Nat
  session : SessIx
  opcode  : Nat
  kind    : OpKind
  started : Nat
  doors   : Vector DoorOut 8
  state   : OpState
  aborting : Bool
  status  : Nat
  reason  : Nat
  result  : List Byte
  deriving DecidableEq, Repr

/-- Counters of 0x8010 and 0x8011. -/
structure FcpCounters where
  discarded    : Nat
  unbound      : Nat
  formatErrors : Nat
  gaps         : Nat
  duplicates   : Nat
  takeovers    : Nat
  authFailures : Nat
  pausedDiscards : Nat
  violations   : Vector Nat 6
  violationLast : Vector Nat 6
  deriving DecidableEq, Repr

/-- A LOG_STATUS whose reply waits for its flush (R527), with the tags of its repeats (R363). -/
structure Deferred where
  session : SessIx
  hseq    : Nat
  tag     : Nat
  params  : List Byte
  repeats : List Nat
  dest    : Nat
  /-- Flushes that must still complete before the reply. -/
  flushes : Nat
  deriving DecidableEq, Repr

/-- The command protocol: sessions, commanding sessions and operations. -/
structure Fcp where
  sessions   : Vector Session 6
  /-- The commanding session of each doorway; of a CLOSED session, a doorway held under R389. -/
  commander  : Vector (Option SessIx) 8
  ops        : List Operation
  nextHandle : Nat
  deferred   : List Deferred
  counters   : FcpCounters
  deriving DecidableEq, Repr

/-- Counters at reset (R396). -/
def FcpCounters.reset : FcpCounters :=
  { discarded := 0, unbound := 0, formatErrors := 0, gaps := 0, duplicates := 0, takeovers := 0, authFailures := 0
    pausedDiscards := 0, violations := tab 6 (fun _ => 0), violationLast := tab 6 (fun _ => 0) }

/-- The protocol after reset: every session closed, no commander, no operation (R377, R389). -/
def Fcp.reset : Fcp :=
  { sessions := tab 6 (fun _ => Session.reset), commander := tab 8 (fun _ => none), ops := [], nextHandle := 1
    deferred := [], counters := FcpCounters.reset }

/-! ## Codes -/

/-- Table 9.9: session state codes. -/
def SessState.code : SessState → Nat
  | .closed => 0 | .opened => 1 | .silent => 2 | .paused => 3

/-- An operation's state code (Table 9.11). -/
def OpState.code : OpState → Nat
  | .running => 0 | .complete => 1 | .held => 2

/-- STATUS codes of Table 9.7. -/
def stDone : Nat := 0x00
/-- ACCEPTED. -/
def stAccepted : Nat := 0x01
/-- NOT_READY. -/
def stNotReady : Nat := 0x02
/-- DUPLICATE. -/
def stDuplicate : Nat := 0x03
/-- FORMAT_ERROR. -/
def stFormat : Nat := 0x10
/-- UNKNOWN_OPCODE. -/
def stUnknown : Nat := 0x11
/-- SEQUENCE_GAP. -/
def stGap : Nat := 0x12
/-- REFUSED. -/
def stRefused : Nat := 0x20
/-- BUSY. -/
def stBusy : Nat := 0x21
/-- ABORTED. -/
def stAborted : Nat := 0x30
/-- TOO_LATE. -/
def stTooLate : Nat := 0x31

/-- "Ahead" modulo 65,536 within a half-range (R361). -/
def seqAhead (a b : Nat) : Bool :=
  let x := (a + 65536 - b % 65536) % 65536
  decide (0 < x) && decide (x < 32768)

/-- The next sequence number. -/
def seqNext (a : Nat) : Nat := (a + 1) % 65536

/-- The previous sequence number. -/
def seqPrev (a : Nat) : Nat := (a + 65535) % 65536

/-- The bytes of a reply or event packet (Table 9.2, R351). -/
def Packet.bytes (p : Packet) : List Byte :=
  let body := le 2 0x6A44 ++ le 1 2 ++ le 1 (p.session.val + (if p.event then 16 else 0)) ++ le 2 p.code ++ le 2 p.dseq
    ++ le 2 p.hack ++ le 2 (4 + p.payload.length) ++ le 4 p.tag ++ le 1 p.status ++ le 1 p.reason ++ le 2 p.handle ++ p.payload
  body ++ le 4 (crc32c body)

/-! ## Sending (R365, R368 to R370) -/

/-- FIRST_KEPT_DSEQ, or a given number when no event is kept (Table 9.11). -/
def Session.firstKept (s : Session) (none_ : Nat) : Nat :=
  match s.events with
  | [] => none_
  | e :: _ => e.dseq

/-- The latest DSEQ sent. -/
def Session.dseq (s : Session) : Nat := seqPrev s.dseqNext

/-- The last accepted HSEQ. -/
def Session.hack (s : Session) : Nat := seqPrev s.expected

/-- A reply goes to the transmit queue, or waits for room (R370). -/
def Session.queueReply (s : Session) (p : Packet) : Session :=
  if s.txQueue.length < 32 && s.txWaiting.isEmpty then { s with txQueue := s.txQueue ++ [p] }
  else { s with txWaiting := s.txWaiting ++ [p] }

/-- An event is stored: the last 64 are kept, and one that leaves unacknowledged is counted (R369). -/
def Session.storeEvent (s : Session) (e : StoredEvent) : Session :=
  let l := s.events ++ [e]
  if l.length ≤ 64 then { s with events := l }
  else match l with
    | [] => s
    | old :: rest =>
      let s := { s with events := rest, lastGone := some old.dseq }
      if seqAhead old.dseq s.lastDack then { s with lostUnacked := satInc 16 s.lostUnacked, eventsLost := true } else s

/-- R368, R370: an event of a session that is OPEN or SILENT and lets the code group pass. -/
def Session.sendEvent (s : Session) (i : SessIx) (code handle : Nat) (payload : List Byte) : Session :=
  let group := code / 256 % 16
  let masked := !(bitOf s.eventMask group || group == 9)
  if (s.state != .opened && s.state != .silent) || masked then s
  else
    let p : Packet := { event := true, session := i, code := code, dseq := s.dseqNext, hack := s.hack, tag := 0
                        status := 0, reason := 0, handle := handle, payload := payload, dest := s.peer }
    let s := { s.storeEvent { dseq := s.dseqNext, code := code, payload := payload } with dseqNext := seqNext s.dseqNext }
    if s.txQueue.length < 32 && s.txWaiting.isEmpty then { s with txQueue := s.txQueue ++ [p] }
    else { s with txDropped := satInc 32 s.txDropped }

/-- A packet leaves the queue when the transport has room; a waiting reply takes its place (R370). -/
def Session.sendNext (s : Session) : Session :=
  match s.txQueue with
  | [] => s
  | p :: rest =>
    let s := { s with lastSent := some p, txQueue := rest, txToggle := !s.txToggle }
    match s.txWaiting with
    | [] => s
    | q :: more => { s with txQueue := s.txQueue ++ [q], txWaiting := more }

/-- An answer to a command: STATUS, REASON, HANDLE and payload. -/
structure Answer where
  status  : Nat
  reason  : Nat
  handle  : Nat
  payload : List Byte
  deriving DecidableEq, Repr

/-- DONE with a payload. -/
def Answer.done (payload : List Byte) : Answer := { status := stDone, reason := 0, handle := 0, payload := payload }
/-- REFUSED with a reason. -/
def Answer.refused (reason : Nat) : Answer := { status := stRefused, reason := reason, handle := 0, payload := [] }
/-- FORMAT_ERROR of step 8. -/
def Answer.format : Answer := { status := stFormat, reason := 0, handle := 0, payload := [] }
/-- BUSY with a reason. -/
def Answer.busy (reason : Nat) : Answer := { status := stBusy, reason := reason, handle := 0, payload := [] }
/-- NOT_READY. -/
def Answer.notReady : Answer := { status := stNotReady, reason := 0, handle := 0, payload := [] }
/-- ACCEPTED with a handle. -/
def Answer.accepted (handle : Nat) : Answer := { status := stAccepted, reason := 0, handle := handle, payload := [] }

/-- The packet of an answer at the session's next DSEQ. -/
def Session.packet (s : Session) (i : SessIx) (opcode tag dest : Nat) (a : Answer) : Packet :=
  { event := false, session := i, code := opcode, dseq := s.dseqNext, hack := s.hack, tag := tag, status := a.status
    reason := a.reason, handle := a.handle, payload := a.payload, dest := dest }

/-- A reply that consumes a DSEQ and is not stored (SEQUENCE_GAP, DUPLICATE, FORMAT_ERROR of step 4). -/
def Session.answer (s : Session) (i : SessIx) (opcode tag dest : Nat) (a : Answer) : Session :=
  { s.queueReply (s.packet i opcode tag dest a) with dseqNext := seqNext s.dseqNext }

/-- A reply of a CLOSED session, which consumes no DSEQ (R365). -/
def Session.answerClosed (s : Session) (i : SessIx) (opcode tag dest : Nat) (a : Answer) : Session :=
  s.queueReply (s.packet i opcode tag dest a)

/-- A reply whose command consumed its HSEQ: stored with the last eight (R363). -/
def Session.answerStored (s : Session) (i : SessIx) (hseq opcode tag dest : Nat) (params : List Byte) (a : Answer) : Session :=
  let r : StoredReply := { hseq := hseq, opcode := opcode, params := params, status := a.status, reason := a.reason
                           handle := a.handle, dseq := s.dseqNext, payload := a.payload }
  let s := s.answer i opcode tag dest a
  { s with replies := (r :: s.replies).take 8 }

/-- The DUPLICATE answer built from a stored reply (R363). -/
def StoredReply.duplicate (r : StoredReply) : Answer :=
  { status := stDuplicate, reason := 0, handle := r.handle
    payload := le 1 r.status ++ le 1 r.reason ++ le 2 r.dseq ++ r.payload }

/-- R362: HSEQ is one of the last eight accepted. -/
def Session.isRepeat (s : Session) (hseq : Nat) : Option StoredReply := s.replies.find? (fun r => r.hseq == hseq)

/-- R366: a DACK that lies ahead of LAST_DACK and not ahead of the latest DSEQ. -/
def Session.takeDack (s : Session) (dack : Nat) : Session :=
  if seqAhead dack s.lastDack && !seqAhead dack s.dseq then { s with lastDack := dack } else s

/-- SESSION_FLAGS (Table 9.17); `keyUnset` is bit 6 of session 4. -/
def Session.flagWord (s : Session) (c : Cfg) (i : SessIx) (keyUnset : Bool) : Nat :=
  bitWord [s.resumed, decide (c.sessAuthRequired i = 1), s.authenticated, s.authLocked, s.eventsLost,
    decide (32 ≤ s.txQueue.length), decide (i.val = 4) && keyUnset]

/-- The stored replies and events are discarded (R377, R380). -/
def Session.discardStore (s : Session) : Session :=
  { s with replies := [], events := [], lastGone := match s.events.getLast? with
      | some e => some e.dseq
      | none => s.lastGone }

/-- R377: the entry to CLOSED. -/
def Session.close (s : Session) : Session :=
  { s.discardStore with state := .closed, lastDack := 0, authenticated := false, partialIn := none, lastSeg := none }

/-- R379: the cause of a refused resume. -/
def Session.resumeRefusal (s : Session) (cfgId lastHseq lastDseq id : Nat) : Option Nat :=
  let first := s.firstKept s.dseqNext
  if s.state != .opened && s.state != .silent then some 1
  else if id ≠ cfgId then some 2
  else if seqAhead (seqPrev first) lastDseq || seqAhead lastDseq s.dseq then some 3
  else
    let x := (lastHseq + 65536 + 7 - s.hack) % 65536
    if x ≤ 15 then none else some 4

/-- R371: the events ahead of a DSEQ. -/
def Session.eventsAfter (s : Session) (from_ : Nat) : List StoredEvent := s.events.filter (fun e => seqAhead e.dseq from_)

/-- One replay record. -/
def StoredEvent.record (e : StoredEvent) : List Byte := le 2 e.dseq ++ le 2 e.code ++ le 2 e.payload.length ++ le 2 0 ++ e.payload

/-- Records up to a count and to a number of bytes. -/
def takeRecords : Nat → Nat → List (List Byte) → List (List Byte)
  | 0, _, _ => []
  | _, _, [] => []
  | n + 1, room, r :: rs => if r.length ≤ room then r :: takeRecords n (room - r.length) rs else []

/-- GAP: an event ahead of a DSEQ is no longer stored (R371). -/
def Session.replayGap (s : Session) (from_ : Nat) : Bool :=
  match s.lastGone with
  | some g => seqAhead g from_
  | none => false

/-! ## Operations -/

/-- A doorway that an operation does not address. -/
def DoorOut.other : DoorOut := { addressed := false, opening := false, stopping := false, outcome := none, reason := 0, final := 0 }

/-- Every addressed doorway has an outcome (R55). -/
def Operation.decided (o : Operation) : Bool :=
  doorways.all (fun d => !o.doors[d].addressed || o.doors[d].outcome.isSome)

/-- The outstanding operations of a session, in the order of their handles' issue. -/
def Fcp.outstanding (f : Fcp) (i : SessIx) : List Operation := f.ops.filter (fun o => o.session == i)

/-- The handle after a handle: non-zero, and not reused until 65,535 further ones (R372). -/
def handleAfter (h : Nat) : Nat := if h = 65535 then 1 else h + 1

/-- Commander byte of a doorway. -/
def commanderByte (c : Option SessIx) : Nat :=
  match c with
  | some s => s.val
  | none => 0xFF

/-- The commanding sessions as bytes (0xE902, Table 9.11). -/
def Fcp.commanderBytes (f : Fcp) : List Byte := (doorways.map (fun d => le 1 (commanderByte f.commander[d]))).flatten

/-- The doorways a session commands, as a mask. -/
def Fcp.commanded (f : Fcp) (i : SessIx) : Nat := bitWord (doorways.map (fun d => f.commander[d] == some i))

/-- Change one session. -/
def Fcp.session (f : Fcp) (i : SessIx) (g : Session → Session) : Fcp := { f with sessions := f.sessions.set i (g f.sessions[i]) }

/-- Change the counters. -/
def Fcp.count (f : Fcp) (g : FcpCounters → FcpCounters) : Fcp := { f with counters := g f.counters }

/-- R378: every OPEN and SILENT session is PAUSED. -/
def Fcp.pauseAll (f : Fcp) : Fcp :=
  { f with sessions := tab 6 (fun i =>
      let z := f.sessions[i]
      if z.state = .opened ∨ z.state = .silent then { z with before := z.state, state := .paused } else z) }

/-- An event in every session (R397). -/
def Fcp.eventAll (f : Fcp) (code : Nat) (payload : List Byte) : Fcp :=
  { f with sessions := tab 6 (fun i => f.sessions[i].sendEvent i code 0 payload) }

/-- 0xE903 for a change of state of a session, in the others (R397). -/
def Fcp.eventState (f : Fcp) (now : Nat) (i : SessIx) (old new : SessState) : Fcp :=
  let p := le 8 now ++ le 1 i.val ++ le 1 new.code ++ le 1 old.code ++ le 1 0 ++ le 4 0
  { f with sessions := tab 6 (fun j => if j = i then f.sessions[j] else f.sessions[j].sendEvent j 0xE903 0 p) }

/-- A session enters a state, with its event (R397). -/
def Fcp.enterState (f : Fcp) (now : Nat) (i : SessIx) (new : SessState) : Fcp :=
  let old := f.sessions[i].state
  if old = new then f
  else ((f.session i (fun s => { s with state := new })).eventState now i old new)

/-- The commanding sessions change; the event when any does (R389). -/
def Fcp.setCommanders (f : Fcp) (now : Nat) (g : DoorIx → Option SessIx) : Fcp :=
  let f' := { f with commander := tab 8 g }
  if f'.commander = f.commander then f else f'.eventAll 0xE902 (le 8 now ++ f'.commanderBytes)

/-- R389: a session that opens commands the doorways of its DOOR_PRIMARY that have no commander. -/
def Fcp.takePrimaries (f : Fcp) (c : Cfg) (now : Nat) (i : SessIx) : Fcp :=
  f.setCommanders now (fun d =>
    if f.commander[d].isNone && bitOf (c.sessDoorPrimary i) d.val && c.isFitted d then some i else f.commander[d])

/-- R377, R389: a session enters CLOSED; `held` keeps its doorways (STABLE and HIBERNATE). -/
def Fcp.closeSession (f : Fcp) (now : Nat) (i : SessIx) (held : Bool) : Fcp :=
  let old := f.sessions[i].state
  if old = .closed then f
  else
    let f := (f.session i Session.close).eventState now i old .closed
    if held then f
    else f.setCommanders now (fun d => if f.commander[d] = some i then none else f.commander[d])

/-- R390: the reason a session's claim of a doorway is refused. -/
def Fcp.claimRefusal (f : Fcp) (c : Cfg) (i : SessIx) (d : DoorIx) : Option Nat :=
  if !c.isFitted d then some 0x38
  else if f.commander[d] = some i then none
  else if i.val = 4 then none
  else if !(bitOf (c.sessDoorPrimary i) d.val || bitOf (c.sessDoorStandby i) d.val) then some 0x4C
  else match f.commander[d] with
    | none => none
    | some j =>
      match f.sessions[j].state with
      | .silent => none
      | .closed => none
      | .opened => some 0x46
      | .paused => some 0x46

/-- R389, R390: a session claims the doorways of a mask; those refused stay. -/
def Fcp.claim (f : Fcp) (c : Cfg) (now : Nat) (i : SessIx) (mask : Nat) : Fcp :=
  let takes (d : DoorIx) : Bool := bitOf mask d.val && (f.claimRefusal c i d).isNone
  let displaced := (doorways.filter (fun d => takes d && (match f.commander[d] with
    | some j => j != i
    | none => false))).length
  (f.count (fun q => { q with takeovers := satAdd 16 q.takeovers displaced })).setCommanders now
    (fun d => if takes d then some i else f.commander[d])

end Sys2Proof.Machine
end

