-- ==== Sys2Proof/Machine/State.lean ====
section
/-!
DEFINITION. The state of the JD816: everything the spec gives the module, the queue of commands that wait, the counter
at which the next free value is read, and the state as delivered, before its first power-up.
-/

namespace Sys2Proof.Machine

/-- An encoder output: the accumulator of R135, EDGE_COUNT, and its lines A and B. -/
structure Encoder where
  acc   : Int
  edges : Int
  a     : Bool
  b     : Bool
  deriving DecidableEq, Repr

/-- Quince's own registers: the level rows whose event is present (R659), whether its RC oscillator runs (R255), and the
counters of 0x1403. The latches are held with the drives they act on. -/
structure Quince where
  present     : BitVec 64
  /-- Drives with a hardware trip present (rows 57 and 58). -/
  trips       : BitVec 16
  oscillator  : Bool
  events      : Nat
  clockFaults : Nat
  deriving DecidableEq, Repr

/-- The whole module. -/
structure State where
  /-- The commands that wait, first in, first out. -/
  pending : List Instr
  /-- The model's own counter: the number of free values read so far (note 4). -/
  free    : Nat
  /-- Module time, µs (R446). -/
  now     : Nat
  /-- The monotonic clock, µs: time steps do not touch it, and only its differences are used. -/
  mono    : Nat
  /-- Whether the next 500 µs period ends a millisecond. -/
  half    : Bool
  doors   : Vector Doorway 8
  encoders : Vector Encoder 2
  quince  : Quince
  /-- The trainline and output group, group 8. -/
  train   : InGroup
  loop    : Loop
  lsw     : LoadSwitches
  outs    : FieldOutputs
  fcp     : Fcp
  log     : Recorder
  ring    : Ring
  can     : Can
  power   : Power
  engines : Engines
  service : Service
  config  : ConfigStore
  deriving DecidableEq, Repr

/-- The module has no fault in which it stops: every failure that the spec describes is an effect on State. Nothing
raises a Fault, so none is safe or unsafe. -/
inductive Fault where
  deriving DecidableEq, Repr

/-- Reasons for which the model gives a command no meaning. -/
inductive Refusal where
  /-- Raised by an arm of exec whose command has no meaning yet; safe: nothing can be proved of it. -/
  | notModelled (mnemonic : String)
  deriving DecidableEq, Repr

/-- What a command answers. -/
abbrev Outcome : Type := Host.Outcome State Fault Refusal

/-- The module as delivered from the factory, before its first POWER_UP: only the KEEP domain is on, no image is in
force, nothing is learnt, every counter is zero (note 85). -/
def State.reset : State :=
  { pending := [], free := 0, now := 0, mono := 0, half := false
    doors := tab 8 (fun _ => Doorway.reset)
    encoders := tab 2 (fun _ => { acc := 0, edges := 0, a := false, b := false })
    quince := { present := 0, trips := 0, oscillator := false, events := 0, clockFaults := 0 }
    train := InGroup.reset
    loop := Loop.reset
    lsw := LoadSwitches.reset
    outs := FieldOutputs.reset
    fcp := Fcp.reset
    log := Recorder.reset
    ring := Ring.reset
    can := Can.reset
    power := Power.reset
    engines := Engines.reset
    service := Service.reset
    config := ConfigStore.reset }

end Sys2Proof.Machine
end

