-- ==== Sys2Proof/Machine/Views.lean ====
section
/-!
DEFINITION. Views of State: what each part reads of the others, and the words that several parts publish.
-/

namespace Sys2Proof.Machine

/-- The values one command may have read are behind the free counter. -/
def State.fresh (s : State) : State := { s with free := s.free + 65536 }

/-- The configuration in force. -/
def State.cfg (s : State) : Cfg := s.config.cfg

/-- Changes one doorway. -/
def State.onDoor (s : State) (d : DoorIx) (f : Doorway → Doorway) : State := { s with doors := s.doors.set d (f s.doors[d]) }

/-- Whether the supervisor pair runs. -/
def State.supvRuns (s : State) : Bool := s.power.on 3 && s.engines.states[(8 : Fin 12)] == .running && !s.loop.supvStopped

/-- Whether the comms engine runs. -/
def State.commsRuns (s : State) : Bool := s.power.on 4 && s.engines.states[(10 : Fin 12)] == .running

/-- Whether the leaf engine of a doorway runs (R568). -/
def State.leafRuns (s : State) (d : DoorIx) : Bool :=
  s.power.on (leafDomain d) && s.engines.states[leafEngine d] == .running

/-- Whether the FIELD_IO domain is on. -/
def State.fieldOn (s : State) : Bool := s.power.on 8

/-- What a leaf engine reads beside its own doorway; release, trainlines and level rows apart. -/
def State.baseEnv (s : State) (d : DoorIx) : DoorEnv :=
  { d := d, cfg := s.cfg, now := s.now, mono := s.mono, release := false, tlClose := false, permit := false
    dcLink := s.power.dcLink, timeValid := s.ring.timeValid, ready := s.power.ready, entering := s.power.entry.isSome
    doorLevel := false, stepLevel := false, pool := s.config.pool, free := s.free }

/-- What the loop's channels see of a doorway (R70, R83). -/
def State.doorView (s : State) (d : DoorIx) : DoorView :=
  let w := s.doors[d]
  let e := s.baseEnv d
  { fitted := s.cfg.isFitted d, hasStep := s.cfg.hasStep d, valid := w.inp.flags.valid, raw := w.inp.raw
    filtered := w.inp.filtered, pcl := pcl e w, stepOk := stepRetracted e w, settled := w.sm.flags.hasSettled }

/-- What the loop reads. -/
def State.loopEnv (s : State) : LoopEnv :=
  { cfg := s.cfg, hasImage := s.config.inForce, now := s.now, mono := s.mono, train := s.train, doors := tab 8 s.doorView }

/-- The other drive of a drive's doorway. -/
def otherDrive (r : DriveIx) : DriveIx := if isStep r then doorDrive (doorOf r) else stepDrive (doorOf r)

/-- The level rows of all columns (Table 6.3). -/
def levelRowIxs : List RowIx := [40, 41, 42, 43, 44, 45, 46, 47, 48, 49, 50, 51, 52, 53, 54, 55, 56, 59, 60, 61]

/-- R258: a level row with an action on the column is present, so its latch cannot be released. -/
def State.levelHolds (s : State) (c : DriveIx) : Bool :=
  let acts (n : RowIx) : Bool := reflexAction s.cfg n c != .none
  levelRowIxs.any (fun n => s.quince.present.getLsbD n.val && acts n)
    || (s.quince.trips.getLsbD c.val && acts 57) || (s.quince.trips.getLsbD (otherDrive c).val && acts 58)
    || (!s.doors[doorOf c].inp.flags.valid && acts 63)

/-- What a leaf engine reads. -/
def State.doorEnv (s : State) (d : DoorIx) : DoorEnv :=
  let l := s.loopEnv
  { s.baseEnv d with
    release := s.loop.releaseAt l d, tlClose := l.tl 2, permit := s.loop.permit l d
    doorLevel := s.levelHolds (doorDrive d), stepLevel := s.levelHolds (stepDrive d) }

/-- LOOP_FLAGS as they stand (Table 2.4). -/
def State.loopFlags (s : State) : Nat := s.loop.flagWord s.loopEnv

/-- Doorways in a state. -/
def State.doorsIn (s : State) (p : DoorState → Bool) : Nat :=
  bitWord (doorways.map (fun d => s.cfg.isFitted d && p s.doors[d].sm.state))

/-- R339: a condition that FAULT_SUMMARY summarises is present; groups are those of fitted doorways and group 8. -/
def State.faultSummary (s : State) : Bool :=
  let bad (g : InGroup) : Bool := !g.flags.valid || g.flags.commonFault
  doorways.any (fun d => s.cfg.isFitted d && (s.doors[d].sm.state == .fault || bad s.doors[d].inp))
    || bad s.train || channels.any (fun n => s.lsw.chans[n].lockout || s.lsw.chans[n].thermal) || s.lsw.link.failsafe
    || s.loop.discrepancy || s.loop.rbWeld || s.loop.rbNotOperated || s.outs.tripped != 0 || !s.config.inForce
    || s.power.endOfLife

/-- What the outputs read (R338 to R346). -/
def State.outEnv (s : State) : OutEnv :=
  { cfg := s.cfg, supvFull := supvFullMask s.loopEnv, fault := s.faultSummary, commanded := s.loop.commanded
    left := s.loop.releaseLeft, right := s.loop.releaseRight, obstructed := s.doorsIn (· == .obstructed) != 0
    powered := s.fieldOn && s.config.inForce, stable := s.power.mode == .stable
    keeper := s.loop.keeperMask s.loopEnv }

/-- What the load switches read (R275, R300). -/
def State.lswEnv (s : State) : LswEnv :=
  let l := s.loopEnv
  { cfg := s.cfg, now := s.now, states := tab 8 (fun d => s.doors[d].sm.state), phases := tab 8 (fun d => s.doors[d].course.2)
    solenoid := tab 8 (fun d => solenoidOn s.doors[d]), permits := tab 8 (fun d => s.loop.permit l d), free := s.free }

/-- What the ring reads. -/
def State.ringEnv (s : State) : RingEnv :=
  { cfg := s.cfg, now := s.now, mono := s.mono, hasImage := s.config.inForce, csbId := s.config.csbId
    scheme := s.config.scheme, etherType := s.config.etherType, fw := s.service.fw.version, mac := s.service.macRing }

/-- A trace sample of a drive as it stands (Tables 13.6 and 13.7). -/
def State.sample (s : State) (r : DriveIx) : Sample :=
  let d := doorOf r
  let w := s.doors[d]
  let e := s.baseEnv d
  let l := s.loopEnv
  let g := if isStep r then w.step.gen else w.door.gen
  let k := if isStep r then (if g.state = .moving then g.ref else { pos := w.step.reads, vel := 0, acc := 0 }) else doorKin e w
  { current := if isStep r then Config.measured .coilCurrent (s.free + r.val) else w.door.loop.iq
    position := clamp16 (if isStep r then w.step.reads else roundDiv k.pos 100)
    velocity := clamp16 (roundDiv k.vel (if isStep r then 4 else 1000))
    sflags := (w.sm.state.code % 16) + (w.sm.phase.code % 4) * 16 + bitWord [false, false, false, false, false, false,
      w.reflexActive, w.dcs, w.dls, w.obst.seFast.1, w.obst.seFast.2, w.srs, s.loop.permit l d, s.loop.commanded,
      g.flags.tracking, if isStep r then w.step.flags.lost else w.door.flags.suspect] }

end Sys2Proof.Machine
end

