-- ==== Sys2Proof/Machine/Ops.lean ====
section
/-!
DEFINITION. The named operations over the whole module that the commands share: events and incidents, Quince's latches,
running a doorway's engine, evaluating release, loop and outputs, and completing operations.
-/

namespace Sys2Proof.Machine

/-! ## Events and the recorder -/

/-- R397: an event in every session that takes it. -/
def State.event (s : State) (code : Nat) (payload : List Byte) : State := { s with fcp := s.fcp.eventAll code payload }

/-- Events in order. -/
def State.events (s : State) (l : Events) : State := l.foldl (fun s x => s.event x.1 x.2) s

/-- Loop events, each with the payload of R105 as it stands. -/
def State.loopEvents (s : State) (l : List Nat) : State := l.foldl (fun s c => s.event c (s.loop.event s.loopEnv)) s

/-- The header values of an incident (Table 13.5): state bytes, offsets 28 to 95, and DETAIL. -/
def State.incidentValues (s : State) (cause : Nat) (d : Option DoorIx) (r : Option DriveIx) : List Byte × List Byte × List Byte :=
  let l := s.loopEnv
  let tail := le 1 (supvFullMask l) ++ le 1 (supvSwitchMask l) ++ le 1 (s.loop.keeperMask l) ++ le 1 (s.loop.permits l)
    ++ le 2 0 ++ leInt 4 s.power.dcLink ++ le 8 s.config.cfgId ++ le 4 s.service.fw.version
    ++ leInt 2 (Config.measured .baseplate s.free) ++ le 2 0
  match d with
  | none => (le 3 0, le 4 0xFFFFFFFF ++ le 4 0 ++ le 4 (s.loop.flagWord l) ++ le 30 0 ++ tail, le 64 0)
  | some d =>
    let w := s.doors[d]
    let e := s.doorEnv d
    let step := r.any isStep
    let g := if step then w.step.gen else w.door.gen
    let drive := r.getD (doorDrive d)
    let row := w.obst.lastTripSource
    let env := if row % 2 = 0 then w.obst.closeEnv else w.obst.openEnv
    let b := binOf s.cfg d w.obst.lastTripPos
    let detail := if cause = 1 ∧ 16 ≤ row ∧ row < 32 then
        ((List.range 8).map (fun k => le 8 (env.bins.getD (min 255 (b + k - 3)) 0))).flatten
      else le 64 0
    (le 1 w.sm.state.code ++ le 1 w.sm.phase.code ++ le 1 w.sm.cause.code,
      le 4 (if w.cycle.isSome then s.log.nextRseq else 0xFFFFFFFF) ++ le 4 (doorFlagWord e w) ++ le 4 (s.loop.flagWord l)
        ++ le 4 g.flagWord ++ le 4 (if step then stepFlagWord e w else driveFlagWord e w) ++ le 4 (obstFlagWord w)
        ++ le 2 w.inp.raw.toNat ++ le 2 w.inp.filtered.toNat ++ leInt 4 (drivePosition e w drive)
        ++ leInt 4 (driveVelocity e w drive) ++ leInt 2 w.obst.lastEffort ++ leInt 2 w.obst.lastLimit ++ le 1 row
        ++ le 1 (if step then w.step.faultCode else w.door.faultCode) ++ tail,
      detail)

/-- R506 to R508: a trigger of Table 13.4. -/
def State.incident (s : State) (cause : Nat) (module : Bool) (d : Option DoorIx) (r : Option DriveIx)
    (bypassStart bypassEnd : Bool) : State :=
  let (head, values, detail) := s.incidentValues cause d r
  let pre := s.cfg.incPreSamples
  let (samples, first) := match r with
    | some q => preSamples s.log.history[q] pre
    | none => ([], 0)
  let i : Incident :=
    { time := s.now, mono := s.mono, cause := cause, door := d, drive := r, head := head, truncated := false
      timeStepped := false, timeInvalid := !s.ring.timeValid, bypassStart := bypassStart, bypassEnd := bypassEnd, pre := pre
      historyStart := first, secondary := 0, seconds := [], values := values, detail := detail, samples := samples }
  let o := s.log.open s.cfg (incidentSlot module d) i
  let s := ({ s with log := o.1 }).events o.2.1
  match d with
  | some d => if o.2.2 && !module then s.onDoor d (fun w => (Work.cycleFlags ⟨w, []⟩ (fun f => { f with incident := true })).dw) else s
  | none => s

/-- The lowest doorway of a test, for the module-level causes of Table 13.4. -/
def lowestDoor (p : DoorIx → Bool) : Option DoorIx := doorways.find? p

/-- A record is staged (R503, R511, R517). -/
def State.stage (s : State) (cycle : Bool) (bytes : Nat → List Byte) : State :=
  let r := s.log.stage s.cfg s.now cycle bytes
  ({ s with log := r.1 }).events r.2

/-! ## Operations (R372, R373) -/

/-- Changes one operation by its handle. -/
def Fcp.onOp (f : Fcp) (handle : Nat) (g : Operation → Operation) : Fcp :=
  { f with ops := f.ops.map (fun o => if o.handle = handle then g o else o) }

/-- The result of an operation is fixed: event 0xE901 in its session (R373, R397). -/
def State.complete (s : State) (handle status reason : Nat) (result : List Byte) : State :=
  match s.fcp.ops.find? (fun o => o.handle == handle && o.state == .running) with
  | none => s
  | some o =>
    let f := s.fcp.onOp handle (fun o => { o with state := .complete, status := status, reason := reason, result := result })
    let payload := le 8 s.now ++ le 2 o.opcode ++ le 1 status ++ le 1 reason ++ le 4 0
    { s with fcp := f.session o.session (fun q => q.sendEvent o.session 0xE901 handle payload) }

/-- R55: the result of a doorway operation. -/
def doorResult (o : Operation) (state : DoorIx → DoorState) : List Byte :=
  (doorways.map (fun d =>
    let x := o.doors[d]
    le 1 d.val ++ le 1 (if x.addressed then x.final else (state d).code) ++ le 1 (if x.addressed then x.outcome.getD 0 else 1)
      ++ le 1 x.reason)).flatten

/-- R139: the result of MOVE_TO. -/
def moveResult (o : Operation) (r : DriveIx) (outcome : Nat) (e : DoorEnv) (w : Doorway) : List Byte :=
  le 1 r.val ++ le 1 outcome ++ le 2 (w.door.gen.flagWord % 65536) ++ leInt 4 (drivePosition e w r)
    ++ leInt 4 w.door.gen.remaining ++ le 4 (satTo 32 (e.mono - o.started))

/-- R55, R57, R139: an operation whose doorways are all decided is complete; it is ABORTED where an abort ended one. -/
def State.settleOp (s : State) (handle : Nat) : State :=
  match s.fcp.ops.find? (fun o => o.handle == handle && o.state == .running) with
  | none => s
  | some o =>
    if !o.decided then s
    else
      let status := if doorways.any (fun d => o.doors[d].outcome == some 3) then stAborted else stDone
      match o.kind with
      | .moveTo r => s.complete handle status 0
          (moveResult o r ((o.doors[doorOf r].outcome).getD 0) (s.baseEnv (doorOf r)) s.doors[doorOf r])
      | .doorOpen | .doorClose | .doorResume => s.complete handle status 0 (doorResult o (fun d => s.doors[d].sm.state))
      | _ => s

/-- What a doorway's state means for an opening, a closing or a retargeted opening (R55, R56): an outcome, or none while
it runs. Every end that is not one of R55's others is SUPERSEDED: the rule does not name the outcome of an OPEN ended by
UNLOCK_TIMEOUT nor of a CLOSE that ends in CLOSED_UNLOCKED (DESIGN CHOICE, note 126). -/
def doorOutcome (opening : Bool) (w : Doorway) : Option Nat :=
  if w.sm.state = .fault then some 5
  else if opening then
    match w.sm.state with
    | .opened => some 0
    | .unlocking | .opening => none
    | _ => some 4
  else match w.sm.state with
    | .locked | .released => some 0
    | .closing => if w.sm.phase = .lock ∧ w.sm.flags.dlsConfirmed then some 0 else none
    | .reopening | .unlocking => none
    | _ => some 4

/-- A doorway's outcome in an operation, once decided it stands. An aborted MOVE_TO ends as its drive comes to rest (R139). -/
def DoorOut.follow (x : DoorOut) (moveTo : Bool) (w : Doorway) : DoorOut :=
  if !x.addressed || x.outcome.isSome then x
  else if moveTo && x.stopping && w.sm.state == .stopped && w.door.gen.state == .moving then x
  else match doorOutcome x.opening w with
    | some c => { x with outcome := some (if x.stopping && c == 4 then 3 else c), final := w.sm.state.code }
    | none => x

/-- Whether an operation is decided by the states of its doorways. -/
def OpKind.followsDoors : OpKind → Bool
  | .doorOpen | .doorClose | .doorResume | .moveTo _ => true
  | _ => false

/-- The operation is a MOVE_TO. -/
def OpKind.isMoveTo : OpKind → Bool
  | .moveTo _ => true
  | _ => false

/-- The operations that a doorway's new state decides (R55, R56). -/
def State.followDoor (s : State) (d : DoorIx) : State :=
  let w := s.doors[d]
  let ops := s.fcp.ops.map (fun o =>
    if o.kind.followsDoors && o.state == .running then { o with doors := o.doors.set d (o.doors[d].follow o.kind.isMoveTo w) } else o)
  (ops.map (·.handle)).foldl State.settleOp { s with fcp := { s.fcp with ops := ops } }

/-- The status that ends a maintenance operation with an outcome of R55 (R47, R48, R240). -/
def maintStatus (outcome : Nat) : Nat := if outcome = 0 then stDone else if outcome = 2 then stRefused else stAborted

/-- R243: the result of ENVELOPE_LEARN. -/
def learnResult (d : DoorIx) (m : Maint) (outcome reason mono : Nat) (w : Doorway) : List Byte :=
  le 1 d.val ++ le 1 outcome ++ le 1 reason ++ le 1 (min m.done 8 + 16 * min m.discarded 5)
    ++ le 2 (cappedCount w.obst.closeEnv.bins) ++ le 2 (cappedCount w.obst.openEnv.bins)
    ++ le 2 (maxSigma w.obst.closeEnv.bins) ++ le 2 (maxSigma w.obst.openEnv.bins)
    ++ le 4 w.obst.signature.wSig ++ leInt 2 w.obst.signature.tLearn ++ le 2 w.obst.signature.nClose
    ++ le 4 (satTo 32 ((mono - m.startedAt) / 1000))

/-- R223: the result of HOME_STEP. -/
def homeResult (d : DoorIx) (m : Maint) (outcome mono : Nat) (w : Doorway) : List Byte :=
  let r := w.step.run
  le 1 d.val ++ le 1 outcome ++ le 1 (bitWord [r.srsSeen, r.chatter, r.srsAtStart]) ++ le 1 (min r.transitions 255)
    ++ leInt 4 w.step.srsOffset ++ leInt 4 w.step.lastShift ++ le 4 (satTo 32 (mono - m.startedAt))

/-- A maintenance operation of a doorway ends. -/
def State.maintEnds (s : State) (d : DoorIx) (m : Maint) (outcome reason : Nat) : State :=
  let w := s.doors[d]
  match m.op with
  | .test _ => s.complete m.handle (maintStatus outcome) reason []
  | .learn => s.complete m.handle (maintStatus outcome) reason (learnResult d m outcome reason s.mono w)
  | .home _ => s.complete m.handle (maintStatus outcome) reason (homeResult d m outcome s.mono w)
  | .update => s
  | .selftest _ => { s with service := { s.service with
      selftest := s.service.selftest.map (fun t => { t with aborted := true }) } }

/-! ## Quince (R251 to R260, R659) -/

/-- An action of a row is latched on a column (R257). -/
def Latch.add (l : Latch) (row : RowIx) (a : Action) : Latch :=
  { action := l.action.stronger a, firstRow := some (l.firstRow.getD row), rows := if l.rows.contains row then l.rows else l.rows ++ [row] }

/-- Whether a row is an onset row of a doorway whose latch on its door drive is a reflex trip (R259). -/
def tripRow (row : RowIx) (d : DoorIx) : Bool :=
  let n := row.val
  (decide (n < 32) && n % 16 / 2 == d.val) || (decide (32 ≤ n) && decide (n < 40) && n - 32 == d.val)

/-- The record of a reflex trip at the moment of latching (R259, Table 6.10); a final-closure trip carries its criterion
in bits [7:6]. -/
def takeLatchTrip (e : DoorEnv) (row : RowIx) (criterion : Nat) (w : Work) : Work :=
  let w := recordTrip e (row.val + 64 * criterion) w
  let w := w.obst (fun q => { q with pending := some (q.pending.getD { source := row.val, fromSeal := false }) })
  if row.val < 16 then w.obst (fun q => { q with counters := { q.counters with seTrips := satInc 32 q.counters.seTrips } })
  else if row.val < 32 then
    w.obst (fun q => { q with flags := { q.flags with envTripped := true }
                              counters := { q.counters with envTrips := satInc 32 q.counters.envTrips } })
  else countFinalClosure w

/-- R257, R259, R260: an action of a row is latched on one column. -/
def State.latchAction (s : State) (row : RowIx) (criterion : Nat) (a : Action) (c : DriveIx) : State :=
  let d := doorOf c
  if a = .none ∨ !s.cfg.driveFitted c ∨ !s.power.on (leafDomain d) ∨ !s.quince.oscillator then s
  else
    let e := s.doorEnv d
    let w : Work := ⟨s.doors[d], []⟩
    let w := if isStep c then
        (if 2 ≤ a.strength then stepTorqueRemoved e w else w).step (fun q => q.latched (q.latch.add row a))
      else w.door (fun q => q.latched (q.latch.add row a))
    let trips := !isStep c && tripRow row d
    let w := if trips then takeLatchTrip e row criterion w else w
    let s := { s with doors := s.doors.set d w.dw, quince := { s.quince with events := satInc 32 s.quince.events } }
    let s := w.fx.foldl (fun s x => match x with
      | .event k p => s.event k p
      | _ => s) s
    if trips then s.incident 1 false (some d) (some c) false false else s

/-- R251: a row acts on one column as the map says. -/
def State.latchColumn (s : State) (row : RowIx) (criterion : Nat) (c : DriveIx) : State :=
  s.latchAction row criterion (reflexAction s.cfg row c) c

/-- A row's event becomes present: it acts on the columns that the map names (R251). -/
def State.latchRow (s : State) (row : RowIx) (criterion : Nat) (cols : List DriveIx) : State :=
  cols.foldl (fun s c => s.latchColumn row criterion c) s

/-- A level row common to all columns is present or gone (R659). -/
def State.setLevel (s : State) (row : RowIx) (on : Bool) : State :=
  let was := s.quince.present.getLsbD row.val
  let s' := { s with quince := { s.quince with
    present := if on then s.quince.present ||| (1#64 <<< row.val) else s.quince.present &&& ~~~(1#64 <<< row.val) } }
  if on && !was then s'.latchRow row 0 drives else s'

/-- R659: the egress rows of a doorway follow the raw inputs of its valid group. -/
def State.egressRows (s : State) (d : DoorIx) : State :=
  let g := s.doors[d].inp
  let s := s.setLevel ⟨40 + 2 * d.val, by omega⟩ (g.flags.valid && g.raw.getLsbD 3)
  s.setLevel ⟨41 + 2 * d.val, by omega⟩ (g.flags.valid && g.raw.getLsbD 4)

/-- R659: row 56 follows the raw bypass input of the valid trainline group. -/
def State.bypassRow (s : State) : State := s.setLevel 56 (s.train.flags.valid && s.train.raw.getLsbD 7)

/-- R257: row 57 on the drive's own column and row 58 on the other drive of its doorway, for a hardware trip. -/
def State.tripRows (s : State) (r : DriveIx) (on : Bool) : State :=
  let was := s.quince.trips.getLsbD r.val
  let s' := { s with quince := { s.quince with trips := setBit s.quince.trips r.val on } }
  if on && !was then (s'.latchRow 57 0 [r]).latchRow 58 0 [otherDrive r] else s'

/-- Row 63 on the columns of a doorway whose group is marked invalid. -/
def State.invalidRow (s : State) (d : DoorIx) : State := s.latchRow 63 0 [doorDrive d, stepDrive d]

/-- R251: the level rows whose event is present act on their columns. -/
def State.levelsAct (s : State) : State :=
  let s := levelRowIxs.foldl (fun s n => if s.quince.present.getLsbD n.val then s.latchRow n 0 drives else s) s
  let s := drives.foldl (fun s r =>
    if s.quince.trips.getLsbD r.val then (s.latchRow 57 0 [r]).latchRow 58 0 [otherDrive r] else s) s
  doorways.foldl (fun s d => if s.cfg.isFitted d && !s.doors[d].inp.flags.valid then s.invalidRow d else s) s

/-- R255: Quince starts; a level that is present acts (R251). -/
def State.quinceStarts (s : State) : State :=
  if s.quince.oscillator then s else ({ s with quince := { s.quince with oscillator := true } } : State).levelsAct

/-! ## Release, loop and outputs -/

/-- R72, R338: one evaluation of the release conditions, the loop and the outputs. -/
def State.evaluate (s : State) : State :=
  let s := if s.power.on 3 || s.power.on 8 then
      let r := s.loop.evaluate s.loopEnv
      ({ s with loop := r.1 }).loopEvents r.2
    else s
  if s.supvRuns then { s with outs := s.outs.evaluate s.outEnv }
  else if s.fieldOn then
    -- the sources that the supervisor pair evaluates keep their last value (R342, R345)
    { s with outs := { (FieldOutputs.evaluate s.outEnv { s.outs with held := true }) with held := s.outs.held } }
  else s

/-! ## Running a doorway's engine -/

/-- An effect of a doorway's engine outside its doorway. -/
def State.applyFx (d : DoorIx) (s : State) (x : DoorFx) : State :=
  match x with
  | .event c p => s.event c p
  | .incident cause step => s.incident cause false (some d) (some (if step then stepDrive d else doorDrive d)) false false
  | .cycleRecord c st => s.stage true (fun n => cycleBytes c d n s.mono st s.free false)
  | .flush => { s with log := s.log.trigger }
  | .releaseBlocked => { s with loop := { s.loop with counters := { s.loop.counters with
      blocked := satInc 16 s.loop.counters.blocked } } }
  | .pulse => { s with outs := { s.outs with pulse := s.outs.pulse.set d 1000 } }
  | .tripsEnd => (s.tripRows (doorDrive d) false).tripRows (stepDrive d) false
  | .maintEnd m o r => s.maintEnds d m o r

/-- Runs the leaf engine of a doorway on an occurrence, with what follows from its new state. -/
def State.runDoor (s : State) (d : DoorIx) (f : DoorEnv → Work → Work) : State :=
  if !s.leafRuns d then s
  else
    let w := f (s.doorEnv d) ⟨s.doors[d], []⟩
    let s := w.fx.foldl (State.applyFx d) { s with doors := s.doors.set d w.dw }
    (((s.followDoor d).egressRows d).evaluate).fresh

/-- A change of a doorway that needs no running leaf engine, with its effects. -/
def State.changeDoor (s : State) (d : DoorIx) (f : DoorEnv → Work → Work) : State :=
  let w := f (s.doorEnv d) ⟨s.doors[d], []⟩
  w.fx.foldl (State.applyFx d) { s with doors := s.doors.set d w.dw }

/-- Every doorway's engine takes a tick. -/
def State.tickAll (s : State) : State := doorways.foldl (fun s d => s.runDoor d doorTick) s

/-- The loop changed what the doorways read: a tick of each follows. -/
def State.supervise (s : State) : State := s.evaluate.tickAll

end Sys2Proof.Machine
end

