-- ==== Sys2Proof/Machine/Receive.lean ====
section
/-!
DEFINITION. What every command of the Ferken command protocol passes before its own effect: the checks of Table 9.6, the
sequence rules, stored replies, rights and violations, command ownership with takeover, and the start of operations.
-/

namespace Sys2Proof.Machine

/-- What an opcode does: the new state, its answer (none while it waits, R527), and what follows the answer. -/
structure Reply where
  state  : State
  answer : Option Answer
  after  : State → State

/-- A command as its opcode defines it. -/
structure Req where
  opcode : Nat
  params : List Byte
  /-- Step 7: the opcode is listed in Table 9.14. -/
  listed : Bool
  /-- Step 8: length and values of the parameters. -/
  valid  : Bool
  /-- Object index for VIOLATION_LAST, or 0. -/
  index  : Nat
  /-- Rights beyond the opcode's group (R384, R385, R423). -/
  rights : State → SessIx → Bool
  /-- The payload of a violation (R386). -/
  zeros  : State → List Byte
  /-- R608: session 4 accepts it outside group 0x01 while its key is empty. -/
  keyless : Bool
  /-- Step 11: the domains the command needs run. -/
  ready  : State → Bool
  /-- Steps 12 to 14 and the effect. -/
  act    : Hdr → SessIx → State → Reply

/-- An answer and nothing to follow. -/
def State.answers (s : State) (a : Answer) : Reply := { state := s, answer := some a, after := id }

/-- A command of a listed opcode with no rights beyond its group, that needs no domain but the comms engine's. -/
def Req.plain (opcode : Nat) (params : List Byte) (valid : Bool) (act : Hdr → SessIx → State → Reply) : Req :=
  { opcode := opcode, params := params, listed := true, valid := valid, index := 0, rights := fun _ _ => true, zeros := fun _ => []
    keyless := false, ready := fun _ => true, act := act }

/-- A command whose opcode Table 9.14 does not list. -/
def Req.unlisted (opcode : Nat) (params : List Byte) : Req :=
  { Req.plain opcode params true (fun _ _ s => s.answers (Answer.done [])) with listed := false }

/-- TRANSPORT codes (Table 9.4). -/
def transportCode : Transport → Nat
  | .ring => 1 | .can c => 2 + c.val | .service => 4 | .mailbox => 5

/-- Changes one session. -/
def State.onSession (s : State) (i : SessIx) (g : Session → Session) : State := { s with fcp := s.fcp.session i g }

/-- Changes the protocol's counters. -/
def State.countFcp (s : State) (g : FcpCounters → FcpCounters) : State := { s with fcp := s.fcp.count g }

/-- Step 3: the session that a packet belongs to; session 4 on the service port needs no record (R354, R416, R419). -/
def State.bound (s : State) (h : Hdr) : Option SessIx :=
  if hlt : h.session.toNat < 6 then
    let i : SessIx := ⟨h.session.toNat, hlt⟩
    match h.transport with
    | .service => if i = 4 then some i else none
    | .mailbox => if i = 5 ∧ s.cfg.sessTransport i = 5 then some i else none
    | t => if i.val < 4 ∧ s.cfg.sessTransport i = transportCode t ∧ s.cfg.sessSource i = h.source then some i else none
  else none

/-- Where replies of a packet go: its address and port on the service port (R358). -/
def replyTo (h : Hdr) : Nat := if h.transport = .service then h.source else 0

/-- R358: a SESSION_OPEN from a source other than that of an open session 4. -/
def State.foreign (s : State) (h : Hdr) (i : SessIx) : Bool :=
  decide (i = 4) && s.fcp.sessions[i].state == .opened && replyTo h != s.fcp.sessions[i].peer

/-- A valid packet (R376): LAST_VALID, the session's source, and SILENT ends. -/
def State.heard (s : State) (h : Hdr) (i : SessIx) : State :=
  let s := s.onSession i (fun z => { z with lastValid := s.now, peer := replyTo h })
  if s.fcp.sessions[i].state = .silent then { s with fcp := s.fcp.enterState s.now i .opened } else s

/-- A reply that is not stored: of step 4, 5 or 6, or of SESSION_OPEN; a CLOSED session's consumes no DSEQ (R365). -/
def State.answerPlain (s : State) (h : Hdr) (i : SessIx) (opcode : Nat) (a : Answer) : State :=
  s.onSession i (fun z =>
    if z.state = .closed then z.answerClosed i opcode h.tag.toNat (replyTo h) a else z.answer i opcode h.tag.toNat (replyTo h) a)

/-- The reply of a command that consumed its HSEQ (R363). -/
def State.answerStored (s : State) (h : Hdr) (i : SessIx) (q : Req) (a : Answer) : State :=
  let s := if a.status = stFormat then s.countFcp (fun k => { k with formatErrors := satInc 32 k.formatErrors }) else s
  if q.opcode = 0x0101 then s.answerPlain h i q.opcode a
  else s.onSession i (fun z => z.answerStored i h.hseq.toNat q.opcode h.tag.toNat (replyTo h) q.params a)

/-! ## Rights (R382, R384 to R386) -/

/-- R382, R608: the session must authenticate. -/
def State.needsAuth (s : State) (i : SessIx) : Bool :=
  if i.val = 4 then !s.service.keyUnset else if i.val = 5 then false else decide (s.cfg.sessAuthRequired i = 1)

/-- R384, R385: the session may use the opcode. -/
def State.granted (s : State) (i : SessIx) (opcode : Nat) : Bool :=
  let g := opcode / 256
  decide (i.val = 4) ||
    ((decide (g = 1) || bitOf (s.cfg.sessRightsGroups i) g) && opcode != 0x0605
      && !(decide (i.val = 5) && (decide (g = 8) || opcode == 0x0201 || opcode == 0x0202)))

/-- Table 9.12: the bit of RIGHTS_READ and RIGHTS_WRITE that covers an object; none where no range does. -/
def rangeBit (index : Nat) : Option Nat :=
  if 0x1000 ≤ index ∧ index ≤ 0x1FFF then some 0
  else if 0x2000 ≤ index ∧ index ≤ 0x27FF then some (1 + (index - 0x2000) / 0x100)
  else if 0x3000 ≤ index ∧ index ≤ 0x309F then some 9
  else if 0x4000 ≤ index ∧ index ≤ 0x402F then some 10
  else if 0x4100 ≤ index ∧ index ≤ 0x41FF then some 11
  else if 0x4200 ≤ index ∧ index ≤ 0x42FF then some 12
  else if 0x5000 ≤ index ∧ index ≤ 0x5FFF then some 13
  else if 0x6000 ≤ index ∧ index ≤ 0x6FFF then some 14
  else if 0x7000 ≤ index ∧ index ≤ 0x7FFF then some 15
  else if 0x8000 ≤ index ∧ index ≤ 0x80FF then some 16
  else none

/-- A rights mask covers an object. -/
def coveredBy (mask index : Nat) : Bool := match rangeBit index with
  | some b => bitOf mask b
  | none => false

/-- R384, R385: OBJ_READ of an object. -/
def State.mayRead (s : State) (i : SessIx) (index : Nat) : Bool :=
  decide (i.val = 4) || ((coveredBy (s.cfg.sessRightsRead i) index || index == 0x8000 + i.val) && index != 0x8010)

/-- R89, R396, R607: objects that only one session may write: DISCREPANCY_RESET and the session keys (session 4), and each
session's own EVENT_MASK. -/
def reservedWrite (i : SessIx) (index sub : Nat) : Bool :=
  (index == 0x1203 && sub == 1) || (index == 0x1050 && decide (1 ≤ sub) && decide (sub ≤ 5))
    || (decide (0x8000 ≤ index) && decide (index ≤ 0x8005) && sub == 0x0A && index != 0x8000 + i.val)

/-- R384, R385: OBJ_WRITE of an object. -/
def State.mayWrite (s : State) (i : SessIx) (index sub : Nat) : Bool :=
  decide (i.val = 4)
    || ((coveredBy (s.cfg.sessRightsWrite i) index || (index == 0x8000 + i.val && sub == 0x0A)) && !reservedWrite i index sub)

/-- R386: a violation is counted and recorded; nothing else happens. -/
def State.violation (s : State) (i : SessIx) (q : Req) : State :=
  s.countFcp (fun k => { k with violations := k.violations.set i (satInc 32 k.violations[i])
                                violationLast := k.violationLast.set i (q.opcode + q.index * 65536) })

/-! ## Steps 7 to 11 -/

/-- R456: a train-wide command outside groups 0x01 and 0x09 while the consist disagrees. -/
def State.trainWideRefusal (s : State) (h : Hdr) (q : Req) : Option Nat :=
  let g := q.opcode / 256
  if !h.trainWide || g == 1 || g == 9 then none
  else if s.ring.consistMismatch then some 0x4D
  else if s.ring.versionMismatch then some 0x4E
  else none

/-- Steps 7 to 11 of Table 9.6 and R456: the state and the answer of a command that goes no further. -/
def State.precheck (s : State) (h : Hdr) (i : SessIx) (q : Req) : Option (State × Answer) :=
  let g := q.opcode / 256
  if !q.listed then some (s, { Answer.format with status := stUnknown })
  else if !q.valid then some (s, Answer.format)
  else if g ≠ 1 ∧ i.val = 4 ∧ s.service.keyUnset ∧ !q.keyless then some (s, Answer.refused 0x41)
  else if g ≠ 1 ∧ s.needsAuth i ∧ !s.fcp.sessions[i].authenticated then some (s, Answer.refused 0x41)
  else if !s.granted i q.opcode || !q.rights s i then some (s.violation i q, Answer.done (q.zeros s))
  else if !q.ready s then some (s, Answer.notReady)
  else match s.trainWideRefusal h q with
    | some r =>
      some ({ s with ring := { s.ring with counters := { s.ring.counters with
        trainwideRefused := satInc 32 s.ring.counters.trainwideRefused } } }, Answer.refused r)
    | none => none

/-- Steps 7 to 14, and the reply. -/
def State.perform (s : State) (h : Hdr) (i : SessIx) (q : Req) : State :=
  match s.precheck h i q with
  | some (t, a) => t.answerStored h i q a
  | none =>
    let r := q.act h i s
    r.after (match r.answer with
      | some a => r.state.answerStored h i q a
      | none => r.state)

/-! ## Steps 3 to 6 -/

/-- SEQUENCE_GAP with EXPECTED_HSEQ (R364); the reason is 0x48 where a repeat differs (R362). -/
def State.gap (s : State) (h : Hdr) (i : SessIx) (opcode reason : Nat) : State :=
  (s.answerPlain h i opcode
      { status := stGap, reason := reason, handle := 0, payload := le 2 s.fcp.sessions[i].expected }).countFcp
    (fun k => { k with gaps := satInc 32 k.gaps })

/-- A DUPLICATE from a stored reply (R363). -/
def State.duplicate (s : State) (h : Hdr) (i : SessIx) (r : StoredReply) : State :=
  (s.answerPlain h i r.opcode r.duplicate).countFcp (fun k => { k with duplicates := satInc 32 k.duplicates })

/-- R362, R364: a packet whose HSEQ is not the expected one. A repeat of a command whose reply still waits is answered
after it (R363). -/
def State.unexpected (s : State) (h : Hdr) (i : SessIx) (q : Req) : State :=
  match s.fcp.deferred.find? (fun x => x.session == i && x.hseq == h.hseq.toNat) with
  | some x =>
    if q.opcode = 0x0604 ∧ q.params = x.params then
      { s with fcp := { s.fcp with deferred := s.fcp.deferred.map (fun y =>
          if y.session == i && y.hseq == h.hseq.toNat then { y with repeats := y.repeats ++ [h.tag.toNat] } else y) } }
    else s.gap h i q.opcode 0x48
  | none =>
    match s.fcp.sessions[i].isRepeat h.hseq.toNat with
    | some r => if r.opcode = q.opcode ∧ r.params = q.params then s.duplicate h i r else s.gap h i q.opcode 0x48
    | none => s.gap h i q.opcode 0

/-- Steps 4 to 14 for a packet of a session. -/
def State.process (s : State) (h : Hdr) (i : SessIx) (q : Req) : State :=
  let z := s.fcp.sessions[i]
  if h.format ≠ 2 then
    (s.answerPlain h i q.opcode Answer.format).countFcp (fun k => { k with formatErrors := satInc 32 k.formatErrors })
  else if z.state = .closed ∧ q.opcode ≠ 0x0101 then s.answerPlain h i q.opcode (Answer.refused 0x40)
  else
    let s := s.onSession i (Session.takeDack · h.dack.toNat)
    if q.opcode = 0x0101 then s.perform h i q
    else if h.hseq.toNat = z.expected then
      (s.onSession i (fun z => { z with expected := seqNext z.expected })).perform h i q
    else s.unexpected h i q

/-- Whether a command is heard: the comms engine runs it, or the boot loader answers the service port with IDENTITY and
FW_STAGE in session 4 (R610). -/
def State.hears (s : State) (h : Hdr) (q : Req) : Bool :=
  if s.service.fw.bootLoader then
    h.transport == .service && (q.opcode / 256 == 1 || q.opcode == 0x0805 || q.opcode == 0x0801)
  else s.commsRuns

/-- R359: a complete packet whose SYNC, length and CRC are right. With the COMMS domain off nothing hears it; while its
session is PAUSED it is discarded (R378). -/
def State.receive (s : State) (h : Hdr) (q : Req) : State :=
  match s.bound h with
  | none => if s.commsRuns then s.countFcp (fun k => { k with unbound := satInc 32 k.unbound }) else s
  | some i =>
    if s.fcp.sessions[i].state = .paused then
      s.countFcp (fun k => { k with pausedDiscards := satInc 32 k.pausedDiscards })
    else if !s.hears h q then s
    else
      let t := if q.opcode = 0x0101 && s.foreign h i then s else s.heard h i
      (t.process h i q).fresh

/-! ## Ownership and operations -/

/-- Step 12 (R387, R390): with TAKEOVER the claim comes first; then each doorway of a mask is refused or not. -/
def State.own (s : State) (h : Hdr) (i : SessIx) (mask : Nat) : State × (DoorIx → Option Nat) :=
  let claim (d : DoorIx) : Option Nat := if h.takeover then s.fcp.claimRefusal s.cfg i d else none
  let t := if h.takeover then { s with fcp := s.fcp.claim s.cfg s.now i mask } else s
  (t, fun d =>
    if !bitOf mask d.val then none
    else if !s.cfg.isFitted d then some 0x38
    else if t.fcp.commander[d] = some i then none
    else some ((claim d).getD 0x45))

/-- The lowest refused doorway's reason. -/
def lowestReason (f : DoorIx → Option Nat) : Nat := (doorways.findSome? f).getD 0

/-- The LEAF domains of the fitted doorways of a mask are on (R394). -/
def State.leavesOn (s : State) (mask : Nat) : Bool :=
  doorways.all (fun d => !(bitOf mask d.val && s.cfg.isFitted d) || s.power.on (leafDomain d))

/-- Step 14: sixteen operations are outstanding. -/
def State.exhausted (s : State) (i : SessIx) : Bool := decide (16 ≤ (s.fcp.outstanding i).length)

/-- Starts an operation; answers its handle (R372). -/
def State.startOp (s : State) (i : SessIx) (opcode : Nat) (kind : OpKind) (doors : Vector DoorOut 8) : State × Nat :=
  let handle := s.fcp.nextHandle
  let o : Operation :=
    { handle := handle, session := i, opcode := opcode, kind := kind, started := s.mono, doors := doors, state := .running
      aborting := false, status := 0, reason := 0, result := [] }
  ({ s with fcp := { s.fcp with ops := s.fcp.ops ++ [o], nextHandle := handleAfter handle } }, handle)

/-- No doorway addressed. -/
def noDoors : Vector DoorOut 8 := tab 8 (fun _ => DoorOut.other)

/-- An operation accepted, or BUSY with sixteen outstanding (step 14); `next` follows the reply, given the handle. -/
def State.accepts (s : State) (i : SessIx) (opcode : Nat) (kind : OpKind) (doors : Vector DoorOut 8)
    (next : Nat → State → State) : Reply :=
  if s.exhausted i then s.answers (Answer.busy 0x49)
  else
    let r := s.startOp i opcode kind doors
    { state := r.1, answer := some (Answer.accepted r.2), after := next r.2 }

end Sys2Proof.Machine
end

