-- ==== Sys2Proof/Machine/Legs.lean ====
section
/-!
DEFINITION. Failed legs and their substitution by the spare of a pair (R599 to R605).
-/

namespace Sys2Proof.Machine

/-- Changes one pair's Bramble. -/
def State.onPair (s : State) (p : Fin 4) (f : Bramble → Bramble) : State := { s with service := s.service.bramble p f }

/-- R601 step 1: a substitution starts; `leg` is none to restore the original leg. The drive concerned is in an
interruption meanwhile. -/
def State.startSub (s : State) (p : Fin 4) (leg : Option (Fin 14)) (handle : Option Nat) (r : DriveIx) : State :=
  (s.onPair p (fun b => { b with running := some ({ leg := leg, handle := handle, started := s.mono } : Substitution) })).runDoor
    (doorOf r) (fun e w => onInterruption e (isStep r) .legSubstitution w)

/-- A hardware trip that is a fault: rows 57 and 58 of Quince, and the drive's fault (R182, R219, R257). -/
def State.driveTrips (s : State) (r : DriveIx) (t : HwTrip) (peak : Nat) : State :=
  (s.tripRows r true).runDoor (doorOf r) (fun e w => onHardwareTrip e (isStep r) t peak w)

/-- R600, R602, R604: a leg desaturates or fails the leg test. The spare takes it where it is FREE and SUB_AUTO is 1;
otherwise its drive has a fault. A spare that desaturates within 10 s of taking over is suspect. -/
def State.legFails (s : State) (p : Fin 4) (l : Fin 14) (peak : Nat) : State :=
  let b := s.service.brambles[p]
  let r := legDrive p l
  let early := b.state == .inUse && b.leg == some l && decide (s.mono < b.takenAt + 10000000)
  let s := s.onPair p (fun b => { b.mark l with suspect := b.suspect || early })
  if b.mayTake s.cfg then s.startSub p (some l) none r else s.driveTrips r .desat peak

/-- R182, R219, R602: a hardware trip of a drive; `leg` numbers the phase or coil end that desaturates. -/
def State.hardwareTrip (s : State) (r : DriveIx) (t : HwTrip) (leg : Fin 4) (peak : Nat) : State :=
  if t = .desat then s.legFails (pairOf (doorOf r)) (legOf r leg) peak else s.driveTrips r t peak

/-- The legs of a drive within its pair. -/
def legsOf (r : DriveIx) : List (Fin 14) :=
  if isStep r then [legOf r 0, legOf r 1, legOf r 2, legOf r 3] else [legOf r 0, legOf r 1, legOf r 2]

/-- R184, R600: the leg test of a drive; which legs fail it is free. -/
def State.legTest (s : State) (r : DriveIx) : State :=
  ((legsOf r).filter (fun l => decide (Config.measured .legTest (s.free + 16 * r.val + l.val) ≠ 0))).foldl
    (fun s l => s.legFails (pairOf (doorOf r)) l 0) s

/-- R605: the result of LEG_SUBSTITUTE. -/
def legResult (p : Fin 4) (leg : Option (Fin 14)) (outcome : Nat) (b : Bramble) (us : Nat) : List Byte :=
  le 1 p.val ++ le 1 (match leg with
    | some l => l.val
    | none => 0xFF) ++ le 1 outcome ++ le 1 b.state.code ++ le 4 (satTo 32 us)

/-- R601 step 5, R605: a substitution is over: it passed, or the leg test failed. -/
def State.subEnds (s : State) (p : Fin 4) (pass : Bool) : State :=
  let b := s.service.brambles[p]
  match b.running with
  | none => s
  | some u =>
    let gone := { b with running := none }
    let was := b.leg.getD 0
    let b' : Bramble := match u.leg, pass with
      | some l, true => { gone with state := .inUse, leg := some l, takenAt := s.mono }
      | some _, false => { gone with state := .failed }
      | none, true => { gone with state := .free, leg := none, suspect := false, failed := b.failed.set was false }
      | none, false => gone
    let l := u.leg.getD was
    let r := legDrive p l
    let s := s.onPair p (fun _ => b')
    let s := if pass && u.leg.isSome then
        { s with service := { s.service with substitutions := satInc 16 s.service.substitutions } } else s
    let s := if pass then s.event 0xE102 (serviceEvent s.now 0 p.val l.val b'.state.code) else s
    let s := s.runDoor (doorOf r) (fun e w => onInterruptionEnd e (isStep r) .legSubstitution w)
    let s := if !pass && u.leg.isSome && u.handle.isNone then s.driveTrips r .desat 0 else s
    match u.handle with
    | some h => s.complete h stDone 0 (legResult p u.leg (if pass then 0 else 5) b' (s.mono - u.started))
    | none => s

/-- R374, R605: an aborted substitution leaves the legs as they were. -/
def State.subAborts (s : State) (p : Fin 4) (u : Substitution) (handle : Nat) : State :=
  let b := s.service.brambles[p]
  let r := legDrive p (u.leg.getD (b.leg.getD 0))
  let s := s.onPair p (fun b => { b with running := none })
  let s := s.runDoor (doorOf r) (fun e w => onInterruptionEnd e (isStep r) .legSubstitution w)
  s.complete handle stAborted 0 (legResult p u.leg 3 b (s.mono - u.started))

/-- R605: both doorways of a pair let their legs be changed. -/
def State.pairQuiet (s : State) (p : Fin 4) : Bool :=
  doorways.all (fun d => pairOf d != p || !s.cfg.isFitted d ||
    (let w := s.doors[d]
     let still (g : Gen) : Bool := g.state == .idle || g.state == .fault
     w.sm.state == .locked || w.sm.state == .isolated || (w.sm.state == .fault && still w.door.gen && still w.step.gen)))

end Sys2Proof.Machine
end

