-- ==== Sys2Proof/Machine/DoorCmds.lean ====
section
/-!
DEFINITION. The doorway-bound commands: DOOR_COMMAND, DOOR_STATUS, DOOR_ISOLATE, DOOR_TEST_CYCLE, ENVELOPE_LEARN,
HOME_STEP, MOVE_TO, MOVE_STOP, MOVE_RESUME, PROFILE_WRITE and COMPARE_SET (chapters 1, 3, 5 and 6).
-/

namespace Sys2Proof.Machine

/-- A doorway-bound command over a mask of doorways (step 11, R394). -/
def Req.doorway (opcode : Nat) (params : List Byte) (valid : Bool) (mask : Nat)
    (act : Hdr → SessIx → State → Reply) : Req :=
  { Req.plain opcode params valid act with ready := fun s => s.leavesOn mask }

/-! ## DOOR_COMMAND (R50 to R57) -/

/-- Table 1.11: OPEN. -/
def refuseOpen (e : DoorEnv) (w : Doorway) : Option Nat :=
  if w.sm.state = .isolated then some 0x3A
  else if w.inp.flags.commonFault then some 0x39
  else if e.tlClose then some 0x32
  else if !e.release then some 0x31
  else if w.sm.state = .egress ∨ w.sm.state = .fault ∨ w.sm.state = .maint then some 0x33
  else none

/-- Table 1.11: CLOSE. -/
def refuseClose (_ : DoorEnv) (w : Doorway) : Option Nat :=
  if w.sm.state = .isolated then some 0x3A
  else if w.sm.state = .egress ∨ w.sm.state = .fault ∨ w.sm.state = .maint then some 0x33
  else none

/-- Table 1.11: STOP. -/
def refuseStop (e : DoorEnv) (w : Doorway) : Option Nat :=
  if e.tlPresent then some 0x32
  else if w.sm.state = .closing ∧ w.sm.phase = .lock then some 0x34
  else match w.sm.state with
    | .unlocking | .opening | .opened | .closing | .reopening => none
    | _ => some 0x33

/-- The motion that a RESUME continues is an opening (Table 1.11): OPENING, or REOPENING still in phase MOVE. -/
def Doorway.resumesOpening (w : Doorway) : Bool :=
  match w.sm.interrupted with
  | some (.opening, _) => true
  | some (.reopening, .reopenMove) => true
  | _ => false

/-- Table 1.11: RESUME. -/
def refuseResume (e : DoorEnv) (w : Doorway) : Option Nat :=
  if !w.canResume then some 0x33
  else if e.tlPresent && w.resumesOpening then some 0x32
  else none

/-- Table 1.11: RESET. -/
def refuseReset (e : DoorEnv) (w : Doorway) : Option Nat :=
  if w.sm.state ≠ .fault then some 0x33 else if causePresent e w then some 0x35 else none

/-- R52: the REASON of every addressed doorway that refuses, ownership first (R387). -/
def State.reasons (s : State) (mask : Nat) (own : DoorIx → Option Nat) (refuse : DoorEnv → Doorway → Option Nat)
    (d : DoorIx) : Option Nat :=
  if !bitOf mask d.val then none
  else match own d with
    | some r => some r
    | none => refuse (s.doorEnv d) s.doors[d]

/-- The doorways of a mask that do not refuse. -/
def acting (mask : Nat) (why : DoorIx → Option Nat) : List DoorIx :=
  doorways.filter (fun d => bitOf mask d.val && (why d).isNone)

/-- A mask as bits of doorways. -/
def doorMask (p : DoorIx → Bool) : Nat := bitWord (doorways.map p)

/-- R52: the 12-byte payload of STOP and RESET. -/
def actedPayload (mask : Nat) (why : DoorIx → Option Nat) : List Byte :=
  le 1 (doorMask (fun d => bitOf mask d.val && (why d).isNone)) ++ le 1 (doorMask (fun d => (why d).isSome)) ++ le 2 0
    ++ (doorways.map (fun d => le 1 ((why d).getD 0))).flatten

/-- Runs a trigger at a tick of each of some doorways. -/
def State.trigger (s : State) (ds : List DoorIx) (f : DoorEnv → Work → Work) : State :=
  ds.foldl (fun s d => s.runDoor d (fun e => doorTickWith e (f e))) s

/-- R543: while an entry runs, a host's open or close demand is discarded and counted. -/
def demandAt (f : DoorEnv → Work → Work) (e : DoorEnv) (w : Work) : Work :=
  doorTickWith e (f e) (if e.entering then ignoreButton w else w)

/-- The part of a doorway in OPEN, CLOSE or RESUME at its acceptance (R52, R53, R55). -/
def partOf (mask : Nat) (why : DoorIx → Option Nat) (w : Doorway) (opening atOnce : Bool) (d : DoorIx) : DoorOut :=
  if !bitOf mask d.val then DoorOut.other
  else match why d with
    | some r => { addressed := true, opening := opening, stopping := false, outcome := some 2, reason := r, final := w.sm.state.code }
    | none =>
      { addressed := true, opening := opening, stopping := false, outcome := if atOnce then some 0 else none, reason := 0
        final := w.sm.state.code }

/-- OPEN, CLOSE or RESUME of a mask of doorways: an operation, or refused where every doorway refuses. `run` is what
each accepting doorway does at its tick, after the reply. -/
def State.doorOperation (s : State) (i : SessIx) (opcode mask : Nat) (kind : OpKind) (why : DoorIx → Option Nat)
    (opening atOnce : Doorway → Bool) (run : DoorEnv → Work → Work) : Reply :=
  let ds := acting mask why
  if ds.isEmpty then s.answers (Answer.refused (lowestReason why))
  else
    let parts := tab 8 (fun d => partOf mask why s.doors[d] (opening s.doors[d]) (atOnce s.doors[d]) d)
    s.accepts i opcode kind parts (fun h t => (ds.foldl (fun t d => t.runDoor d run) t).settleOp h)

/-- STOP of a mask of doorways (R52, R54, R141). -/
def State.doorStop (s : State) (h : Hdr) (i : SessIx) (mask : Nat) (cause : Cause) (quick : Bool) : Reply :=
  let r := s.own h i mask
  let why := r.1.reasons mask r.2 refuseStop
  let ds := acting mask why
  if ds.isEmpty then r.1.answers (Answer.refused (lowestReason why))
  else (r.1.trigger ds (fun e => doStop e cause quick)).answers (Answer.done (actedPayload mask why))

/-- RESUME of a mask of doorways (R52, R142). -/
def State.doorResumes (s : State) (h : Hdr) (i : SessIx) (opcode mask : Nat) : Reply :=
  let r := s.own h i mask
  let why := r.1.reasons mask r.2 refuseResume
  r.1.doorOperation i opcode mask .doorResume why (fun w => match w.sm.interrupted with
    | some (.opening, _) => true
    | _ => false) (fun _ => false) (fun e => doorTickWith e (doResume e))

/-- OPEN (Table 1.10): the open demand of the host; a LOCKED doorway with release passes through RELEASED. -/
def hostOpen (e : DoorEnv) (w : Work) : Work :=
  doOpen e .openHost (if w.dw.sm.state = .locked then levelRows e w else w)

/-- The legs of drives that were reset from OVERCURRENT or DESAT are tested (R184). -/
def State.testAfterReset (s : State) (before : DoorIx → Doorway) (ds : List DoorIx) : State :=
  (ds.flatMap (fun d =>
    (if (before d).door.faultCode = 1 ∨ (before d).door.faultCode = 2 then [doorDrive d] else [])
      ++ (if (before d).step.faultCode = 1 ∨ (before d).step.faultCode = 2 then [stepDrive d] else []))).foldl
    (fun s r => s.legTest r) s

/-- RESET (R184): the trip rows of the drives end with their latches. -/
def State.doorReset (s : State) (d : DoorIx) : State :=
  ((s.tripRows (doorDrive d) false).tripRows (stepDrive d) false).runDoor d
    (fun e => doorTickWith e (fun w => if w.dw.sm.state = .fault then doReset e w else w))

/-- DOOR_COMMAND with an ACTION of Table 1.10. -/
def State.doorCommand (s : State) (h : Hdr) (i : SessIx) (mask action : Nat) : Reply :=
  if action = 3 then s.doorStop h i mask .stopHost false
  else if action = 4 then s.doorResumes h i 0x0301 mask
  else
    let r := s.own h i mask
    let s := r.1
    if action = 1 then
      s.doorOperation i 0x0301 mask .doorOpen (s.reasons mask r.2 refuseOpen) (fun _ => true)
        (fun w => w.sm.state == .opened) (demandAt hostOpen)
    else if action = 2 then
      s.doorOperation i 0x0301 mask .doorClose (s.reasons mask r.2 refuseClose) (fun _ => false)
        (fun w => w.sm.state == .locked || w.sm.state == .released) (demandAt (fun e => doLocalClose e .closeHost))
    else
      let why := s.reasons mask r.2 refuseReset
      let ds := acting mask why
      if ds.isEmpty then s.answers (Answer.refused (lowestReason why))
      else ((ds.foldl State.doorReset s).testAfterReset (fun d => s.doors[d]) ds).answers (Answer.done (actedPayload mask why))

/-- The DOOR_COMMAND command. -/
def Req.doorCommand (params : List Byte) (mask action : Nat) : Req :=
  Req.doorway 0x0301 params (decide (params.length = 4) && mask != 0 && decide (1 ≤ action) && decide (action ≤ 5)) mask
    (fun h i s => s.doorCommand h i mask action)

/-! ## DOOR_STATUS (R58) -/

/-- Table 1.13: one entry, brief or full. -/
def doorEntry (e : DoorEnv) (w : Doorway) (full : Bool) : List Byte :=
  let k := doorKin e w
  le 1 e.d.val ++ le 1 w.sm.state.code ++ le 1 w.sm.phase.code ++ le 1 w.sm.cause.code ++ le 4 (doorFlagWord e w)
    ++ (if full then
          leInt 4 k.pos ++ leInt 4 k.vel ++ leInt 4 w.step.reads ++ le 1 w.sm.obstacles ++ le 1 w.door.gen.state.code
            ++ le 1 w.step.gen.state.code ++ le 1 0 ++ le 2 w.inp.raw.toNat ++ le 2 w.inp.filtered.toNat
        else [])

/-- Orientation code, the side on train left, and the line byte of Table 1.12. -/
def State.lineBytes (s : State) : List Byte :=
  let l := s.loopEnv
  let code := s.loop.orientation l
  le 1 code ++ le 1 (if code = 0 then 0xFF else if leftIsA code s.cfg.carOrient then 0 else 1)
    ++ le 1 (bitWord [s.loop.releaseLeft, s.loop.releaseRight, l.tl 2]) ++ le 1 0

/-- Table 1.12: the payload of DOOR_STATUS. -/
def State.doorStatus (s : State) (mask : Nat) (full : Bool) : List Byte :=
  le 8 s.now ++ s.lineBytes
    ++ (doorways.flatMap (fun d => if bitOf mask d.val then doorEntry (s.doorEnv d) s.doors[d] full else []))

/-- The DOOR_STATUS command. -/
def Req.doorStatus (params : List Byte) (mask detail : Nat) : Req :=
  { Req.plain 0x0302 params (decide (params.length = 4) && decide (detail ≤ 1))
      (fun _ _ s => s.answers (Answer.done (s.doorStatus mask (detail == 1)))) with ready := fun s => s.fieldOn }

/-! ## Commands on one doorway -/

/-- A command on one doorway: refused by ownership, by its own reasons in order, or carried on. -/
def State.oneDoor (s : State) (h : Hdr) (i : SessIx) (d : DoorIx) (refuse : State → DoorEnv → Doorway → Option Nat)
    (go : State → Reply) : Reply :=
  let r := s.own h i (2 ^ d.val)
  match r.2 d with
  | some x => r.1.answers (Answer.refused x)
  | none =>
    match refuse r.1 (r.1.doorEnv d) r.1.doors[d] with
    | some x => r.1.answers (Answer.refused x)
    | none => go r.1

/-- A doorway number of a command, 0 for numbers that step 8 refuses. -/
def doorOfNat (n : Nat) : DoorIx := Fin.ofNat 8 n

/-- DOOR_ISOLATE (R59). -/
def Req.doorIsolate (params : List Byte) (door set : Nat) : Req :=
  Req.doorway 0x0303 params (decide (params.length = 4) && decide (door < 8) && decide (set ≤ 1)) (2 ^ door)
    (fun h i s => s.oneDoor h i (doorOfNat door)
      (fun _ _ w =>
        if set = 1 then (if w.sm.state = .locked ∨ w.sm.state = .released then none else some 0x36)
        else if w.dis then some 0x37 else none)
      (fun s => (s.runDoor (doorOfNat door) (fun e w =>
          doorTick e (if set = 1 then doIsolate e w else doReturn e w))).answers (Answer.done [])))

/-- A maintenance operation starts on a doorway; while an entry runs none starts (note 71). -/
def State.startsMaint (s : State) (i : SessIx) (opcode : Nat) (kind : OpKind) (d : DoorIx) (op : MaintOp) : Reply :=
  s.accepts i opcode kind noDoors (fun n t => t.runDoor d (fun e w => doorTick e (startMaint e op n w)))

/-- R62: the refusals of DOOR_TEST_CYCLE. "A trainline close is present" is read as TL_CLOSE alone, an absent release having
its own reason (DESIGN CHOICE, note 127). -/
def refuseTest (e : DoorEnv) (w : Doorway) : Option Nat :=
  if w.sm.state = .isolated then some 0x3A
  else if (w.sm.state ≠ .locked ∧ w.sm.state ≠ .released) ∨ e.entering then some 0x33
  else if w.inp.flags.commonFault then some 0x39
  else if w.door.flags.suspect then some 0x7B
  else if e.tlClose then some 0x32
  else if !e.release then some 0x31
  else none

/-- DOOR_TEST_CYCLE (R61). -/
def Req.doorTestCycle (params : List Byte) (door cycles : Nat) : Req :=
  Req.doorway 0x0304 params
    (decide (params.length = 4) && decide (door < 8) && decide (1 ≤ cycles) && decide (cycles ≤ 16)) (2 ^ door)
    (fun h i s => s.oneDoor h i (doorOfNat door) (fun _ => refuseTest)
      (fun s => s.startsMaint i 0x0304 .testCycle (doorOfNat door) (.test cycles)))

/-- R239: the refusals of ENVELOPE_LEARN. -/
def refuseLearn (e : DoorEnv) (w : Doorway) : Option Nat :=
  if w.sm.state = .isolated then some 0x3A
  else if (w.sm.state ≠ .locked ∧ w.sm.state ≠ .released) ∨ e.entering then some 0x33
  else if w.door.flags.suspect ∨ !w.door.flags.learnt then some 0x7B
  else if e.tlClose then some 0x32
  else if !e.release then some 0x31
  else none

/-- ENVELOPE_LEARN (R238). -/
def Req.envelopeLearn (params : List Byte) (door : Nat) : Req :=
  Req.doorway 0x0305 params (decide (params.length = 4) && decide (door < 8)) (2 ^ door)
    (fun h i s => s.oneDoor h i (doorOfNat door) (fun _ => refuseLearn)
      (fun s => s.startsMaint i 0x0305 .learn (doorOfNat door) .learn))

/-- R222: the refusals of HOME_STEP. -/
def refuseHome (mode : Nat) (e : DoorEnv) (w : Doorway) : Option Nat :=
  if !e.cfg.hasStep e.d then some 0x70
  else if (w.sm.state ≠ .locked ∧ w.sm.state ≠ .released ∧ w.sm.state ≠ .isolated) ∨ e.entering then some 0x33
  else if mode = 1 ∧ !e.permit ∧ !w.step.flags.lost then some 0x31
  else none

/-- HOME_STEP (R221): with DIS made the doorway stays ISOLATED; a second one meanwhile finds it busy (note 72). -/
def Req.homeStep (params : List Byte) (door mode : Nat) : Req :=
  Req.doorway 0x0406 params (decide (params.length = 4) && decide (door < 8) && decide (mode ≤ 1)) (2 ^ door)
    (fun h i s => s.oneDoor h i (doorOfNat door) (fun _ => refuseHome mode)
      (fun s =>
        let d := doorOfNat door
        let w := s.doors[d]
        if w.sm.maint.isSome then s.answers (Answer.busy 0x4A)
        else if w.sm.state = .isolated ∧ w.dis then
          s.accepts i 0x0406 .homeStep noDoors (fun n t => t.runDoor d (fun e w => homeIsolated e mode n w))
        else s.startsMaint i 0x0406 .homeStep d (.home mode)))

/-- R223: ABORT of HOME_STEP: the step stops at D_REPLAN and the doorway settles. -/
def abortHome (e : DoorEnv) (w : Work) : Work :=
  let w := w.step (fun q => { q with
    gen := (q.gen.stop (stepEnvOf e w.dw (q.job == .homing || q.job == .creepHoming)) false), timer := none, job := .none })
  let w := maintStops 3 0 w
  if w.dw.sm.state = .isolated then cycleEnd DoorState.isolated.code w else settle e w

/-! ## Motion (R138 to R145) -/

/-- A drive number of a command, 0 for numbers refused before it is used. -/
def driveOfNat (n : Nat) : DriveIx := Fin.ofNat 16 n

/-- The doorways of a mask of drives. -/
def drivesMask (mask : Nat) : Nat := doorMask (fun d => bitOf mask (2 * d.val) || bitOf mask (2 * d.val + 1))

/-- The absolute target of a MOVE_TO. -/
def moveTarget (e : DoorEnv) (w : Doorway) (mode : Nat) (target : Int) : Int :=
  if mode = 1 then (w.door.gen.base (doorEnvOf e w)).pos + target else target

/-- R138: the refusals of MOVE_TO after 0x70. -/
def refuseMove (mode : Nat) (target : Int) (e : DoorEnv) (w : Doorway) : Option Nat :=
  let t := moveTarget e w mode target
  let fixed : Bool := match w.door.gen.path with
    | some p => w.door.gen.state == DriveState.moving && p.context.isSome && !p.replanOk
    | none => false
  if w.door.gen.state = .fault then some 0x72
  else if w.sm.state ≠ .opening ∧ w.sm.state ≠ .opened then some 0x73
  else if w.door.flags.suspect then some 0x7B
  else if fixed then some 0x74
  else if t < e.cfg.partialOpenMin (doorDrive e.d) ∨ e.cfg.softMax (doorDrive e.d) < t
      ∨ (w.sm.state = .opened ∧ t < (doorKin e w).pos) then some 0x71
  else none

/-- R139: an accepted MOVE_TO; from OPEN the doorway passes through OPENING (note 73). -/
def startMove (e : DoorEnv) (mode : Nat) (target : Int) (speed : Nat) (w : Work) : Work :=
  let t := moveTarget e w.dw mode target
  doMoveTo e t speed (if w.dw.sm.state = .opened then enter e .opening .none none w else w)

/-- An earlier MOVE_TO of a drive ends SUPERSEDED when another, of handle n, starts. -/
def State.supersedeMove (s : State) (r : DriveIx) (n : Nat) : State :=
  let d := doorOf r
  let ends (o : Operation) : Bool := o.kind == .moveTo r && o.state == .running && o.handle != n
  let ops := s.fcp.ops.map (fun o => if ends o then
    { o with doors := o.doors.set d { o.doors[d] with outcome := some 4, final := s.doors[d].sm.state.code } } else o)
  ((s.fcp.ops.filter ends).map (·.handle)).foldl State.settleOp { s with fcp := { s.fcp with ops := ops } }

/-- MOVE_TO (R138). -/
def Req.moveTo (params : List Byte) (drive mode : Nat) (target : Int) (speed : Nat) : Req :=
  let r := driveOfNat drive
  let d := doorOf r
  Req.doorway 0x0401 params (decide (params.length = 12) && decide (mode ≤ 1)) (if drive < 16 then 2 ^ d.val else 0)
    (fun h i s =>
      if 16 ≤ drive then s.answers (Answer.refused 0x70)
      else s.oneDoor h i d (fun _ e w => if isStep r then some 0x70 else refuseMove mode target e w)
        (fun s =>
          let part : DoorOut :=
            { addressed := true, opening := true, stopping := false, outcome := none, reason := 0, final := 0 }
          s.accepts i 0x0401 (.moveTo r) (noDoors.set d part)
            (fun n t => (t.supersedeMove r n).runDoor d (fun e w => startMove e mode target speed w))))

/-- MOVE_STOP (R141). -/
def Req.moveStop (params : List Byte) (mask mode : Nat) : Req :=
  Req.doorway 0x0402 params (decide (params.length = 4) && mask % 65536 != 0 && decide (mode ≤ 1)) (drivesMask mask)
    (fun h i s => s.doorStop h i (drivesMask mask) .stopMove (mode == 1))

/-- MOVE_RESUME (R142). -/
def Req.moveResume (params : List Byte) (mask : Nat) : Req :=
  Req.doorway 0x0403 params (decide (params.length = 4) && mask % 65536 != 0) (drivesMask mask)
    (fun h i s => s.doorResumes h i 0x0403 (drivesMask mask))

/-- The live pool with one context replaced. -/
def poolPut (pool : List (Nat × List Byte)) (n : Nat) (b : List Byte) : List (Nat × List Byte) :=
  pool.filter (fun x => x.1 != n) ++ [(n, b)]

/-- R143: the refusal of a context for its assigned drive: REASON and segment. -/
def profileRefusal (c : Cfg) (place : Option (DriveIx × Nat)) (b : List Byte) : Option (Nat × Nat) :=
  match contextFormat b (place.map (fun x => driveClassOf x.1)) with
  | some k => some (0x77, k)
  | none =>
    match place, Context.parse b with
    | some (r, slot), some x =>
      match checkContext (c.withoutEnergy r) r (slot == 2 || slot == 3) x with
      | some (k, _) => some (0x78, k)
      | none => (checkContext c r (slot == 2 || slot == 3) x).map (fun y => (0x79, y.1))
    | _, _ => none

/-- R137: REFUSED with the number of the offending segment. -/
def refusedSegment (reason segment : Nat) : Answer := { Answer.refused reason with payload := le 1 segment }

/-- R144: CONTEXT_MODIFIED of a drive. -/
def Doorway.contextModified (w : Doorway) (r : DriveIx) : Doorway :=
  let mark (g : Gen) : Gen := { g with flags := { g.flags with ctxModified := true } }
  if isStep r then { w with step := { w.step with gen := mark w.step.gen } }
  else { w with door := { w.door with gen := mark w.door.gen } }

/-- PROFILE_WRITE on a context of a place (R143, R144). -/
def State.profileWrite (s : State) (h : Hdr) (i : SessIx) (n : Nat) (b : List Byte) : Reply :=
  let place := ((assignments s.cfg).find? (fun x => x.1.val == n)).map (fun x => x.2)
  let own := match place with
    | some (r, _) => s.own h i (2 ^ (doorOf r).val)
    | none => (s, fun _ => none)
  let s := own.1
  let busy (r : DriveIx) : Bool :=
    let w := s.doors[doorOf r]
    let g := if isStep r then w.step.gen else w.door.gen
    g.state == .moving || (w.sm.state != .locked && w.sm.state != .released && w.sm.state != .isolated)
  if 160 ≤ n then s.answers (refusedSegment 0x7A 0)
  else match place.bind (fun x => own.2 (doorOf x.1)) with
    | some reason => s.answers (refusedSegment reason 0)
    | none =>
      if place.any (fun x => busy x.1) then s.answers (refusedSegment 0x76 0)
      else match profileRefusal s.cfg place b with
        | some (reason, k) => s.answers (refusedSegment reason k)
        | none =>
          let t := { s with config := { s.config with pool := poolPut s.config.pool n b } }
          (match place with
            | some (r, _) => t.onDoor (doorOf r) (fun w => w.contextModified r)
            | none => t).answers (Answer.done [])

/-- PROFILE_WRITE (R143). -/
def Req.profileWrite (params : List Byte) (context : Nat) (body : List Byte) : Req :=
  { Req.plain 0x0404 params (decide (params.length = 532)) (fun h i s => s.profileWrite h i context body) with
    ready := fun s => match (assignments s.cfg).find? (fun x => x.1.val == context) with
      | some x => s.leavesOn (2 ^ (doorOf x.2.1).val)
      | none => true }

/-- R145, R132: a compare as written on a drive at a position and a velocity of travel. -/
def compareWritten (r : DriveIx) (mode direction actions hyst : Nat) (c pos travel : Int) (moving : Bool) (old : Compare) :
    Compare :=
  { old with
    position := c, mode := mode, direction := direction, actions := actions % 4
    hyst := if hyst = 0 then (if isStep r then 16 else 50) else hyst, armed := mode != 0, last := pos
    behind := moving && ((decide (0 < travel) && decide (c ≤ pos)) || (decide (travel < 0) && decide (pos ≤ c))) }

/-- COMPARE_SET carried out (R145). -/
def State.compareSet (s : State) (r : DriveIx) (mode direction actions hyst : Nat) (c : Int) : State × List Byte :=
  let d := doorOf r
  let e := s.baseEnv d
  let w := s.doors[d]
  let g := if isStep r then w.step.gen else w.door.gen
  let pos := drivePosition e w r
  let vel := driveVelocity e w r
  let travel := if g.ref.vel = 0 then g.target - pos else g.ref.vel
  let x := compareWritten r mode direction actions hyst c pos travel (g.state == .moving) g.compare
  (s.onDoor d (fun w => if isStep r then { w with step := { w.step with gen := { w.step.gen with compare := x } } }
      else { w with door := { w.door with gen := { w.door.gen with compare := x } } }),
    le 1 (bitWord [x.behind, x.armed]) ++ le 1 g.state.code ++ le 2 0 ++ leInt 4 pos ++ leInt 4 vel)

/-- COMPARE_SET (R145). -/
def Req.compareSet (params : List Byte) (drive mode direction actions : Nat) (c : Int) (hyst : Nat) : Req :=
  let r := driveOfNat drive
  let d := doorOf r
  Req.doorway 0x0405 params (decide (params.length = 12)) (if drive < 16 then 2 ^ d.val else 0)
    (fun h i s =>
      if 16 ≤ drive then s.answers (Answer.refused 0x70)
      else s.oneDoor h i d
        (fun s _ _ =>
          if !s.cfg.driveFitted r then some 0x70
          else if 3 ≤ mode ∨ 3 ≤ direction ∨ c < s.cfg.softMin r ∨ s.cfg.softMax r < c then some 0x75
          else none)
        (fun s => let t := s.compareSet r mode direction actions hyst c; t.1.answers (Answer.done t.2)))

end Sys2Proof.Machine
end

