-- ==== Sys2Proof/Machine/IoCmds.lean ====
section
/-!
DEFINITION. The commands on load channels, inputs and outputs: SWITCH_SET, SWITCH_STATUS, FAULT_CLEAR, IO_READ and
OUTPUT_SET (chapters 7 and 8).
-/

namespace Sys2Proof.Machine

/-- The channels of a mask that belong to the doorways of a predicate. -/
def channelsOn (mask : Nat) (p : DoorIx → Bool) : Nat := maskOf ((chansOf mask).filter (fun n => p (chanDoor n)))

/-- The doorways that own the channels of a mask. -/
def ownersOf (mask : Nat) : Nat := doorMask (fun d => (chansOf mask).any (fun n => chanDoor n == d))

/-- R307, R310: the answer of a command over channels: the masks, or REFUSED with the reason of the lowest channel. -/
def channelAnswer (accepted refused : Nat) (reason : ChanIx → Nat) : Answer :=
  match chansOf refused with
  | n :: _ => if accepted = 0 then Answer.refused (reason n) else Answer.done (le 8 accepted ++ le 8 refused)
  | [] => Answer.done (le 8 accepted ++ le 8 refused)

/-- A command over the channels of a mask: those of doorways refused by ownership are refused with its reason (R387),
the others are acted on; `act` answers the load switches, the masks and the reason of its lowest refused channel. -/
def State.overChannels (s : State) (h : Hdr) (i : SessIx) (mask : Nat)
    (act : State → Nat → LoadSwitches × Nat × Nat × Nat) : Reply :=
  let r := s.own h i (ownersOf mask)
  let mine := channelsOn mask (fun d => (r.2 d).isNone)
  let others := channelsOn mask (fun d => (r.2 d).isSome)
  let a := act r.1 mine
  let t := { r.1 with lsw := a.1 }
  t.answers (channelAnswer a.2.1 (a.2.2.1 + others) (fun n => (r.2 (chanDoor n)).getD a.2.2.2))

/-- SWITCH_SET (R307). -/
def Req.switchSet (params : List Byte) (mask action : Nat) : Req :=
  Req.doorway 0x0501 params (decide (params.length = 12) && decide (action ≤ 3)) (ownersOf mask)
    (fun h i s => s.overChannels h i mask (fun t m => Sys2Proof.Machine.switchSet t.cfg m action t.lsw))

/-- FAULT_CLEAR (R310). -/
def Req.faultClear (params : List Byte) (mask : Nat) : Req :=
  Req.doorway 0x0505 params (decide (params.length = 8)) (ownersOf mask)
    (fun h i s => s.overChannels h i mask (fun t m => Sys2Proof.Machine.faultClear t.lswEnv m t.lsw))

/-- SWITCH_STATUS (R309). -/
def Req.switchStatus (params : List Byte) (mask : Nat) : Req :=
  { Req.plain 0x0502 params (decide (params.length = 8))
      (fun _ _ s => s.answers (Answer.done (le 8 s.now ++ (chansOf mask).flatMap (chanStatus s.lswEnv s.lsw)))) with
    ready := fun s => s.fieldOn }

/-- The group of an index: a doorway's, or the trainline and output group. -/
def State.group (s : State) (g : GroupIx) : InGroup := if h : g.val < 8 then s.doors[g.val].inp else s.train

/-- R315, R16: the group takes part: its doorway is fitted, or it is group 8. -/
def State.groupUsed (s : State) (g : GroupIx) : Bool := if h : g.val < 8 then s.cfg.isFitted ⟨g.val, h⟩ else true

/-- V_COM of a group, mV; 0 in group 8. -/
def State.vCom (s : State) (g : GroupIx) : Int := if g.val < 8 then Config.measured .feedVoltage (s.free + g.val) else 0

/-- R347: a group's entry; zeros after the number of a group that is not fitted. -/
def State.groupEntry (s : State) (g : GroupIx) : List Byte :=
  let q := s.group g
  le 1 g.val ++ (if s.groupUsed g then
      le 1 (q.flagWord % 256) ++ le 2 q.raw.toNat ++ le 2 q.filtered.toNat ++ le 2 0 ++ leInt 4 (s.vCom g)
    else le 11 0)

/-- R347: the payload of IO_READ. -/
def State.ioRead (s : State) (mask : Nat) : List Byte :=
  le 8 s.now ++ (List.finRange 9).flatMap (fun g => if bitOf mask g.val then s.groupEntry g else [])
    ++ (if bitOf mask 9 then
          le 1 0x10 ++ le 1 0 ++ le 2 s.outs.value.toNat ++ le 2 s.outs.on.toNat ++ le 2 s.outs.tripped.toNat ++ le 4 0
        else [])

/-- IO_READ (R347). -/
def Req.ioRead (params : List Byte) (mask : Nat) : Req :=
  { Req.plain 0x0503 params (decide (params.length = 4) && mask % 65536 != 0)
      (fun _ _ s => s.answers (Answer.done (s.ioRead mask))) with ready := fun s => s.fieldOn }

/-- OUTPUT_SET (R348). -/
def Req.outputSet (params : List Byte) (mask value : Nat) : Req :=
  Req.plain 0x0504 params (decide (params.length = 4)) (fun _ _ s =>
    let r := Sys2Proof.Machine.outputSet s.cfg mask value s.outs
    if r.2.1 = 0 ∧ r.2.2 ≠ 0 then s.answers (Answer.refused 0x3E)
    else ({ s with outs := r.1 }).evaluate.answers (Answer.done (le 2 r.2.1 ++ le 2 r.2.2)))

end Sys2Proof.Machine
end

