-- ==== Sys2Proof/Machine/RecorderCmds.lean ====
section
/-!
DEFINITION. The recorder's commands: LOG_DRAIN, LOG_ACK, INCIDENT_READ, LOG_STATUS and INCIDENT_ERASE, and the replies
and results that a flush and an erase give later (chapter 13).
-/

namespace Sys2Proof.Machine

/-- The recorder takes a new value and sends its events. -/
def State.takeLog (s : State) (r : Recorder × Events) : State := ({ s with log := r.1 }).events r.2

/-- R516: the recorder flushes each record, while the module runs without a hold-up cartridge. -/
def State.flushEach (s : State) : Bool := s.power.noHoldup

/-- LOG_DRAIN (R522). -/
def Req.logDrain (params : List Byte) (fromRseq count : Nat) : Req :=
  Req.plain 0x0601 params (decide (params.length = 8) && decide (1 ≤ count) && decide (count ≤ 15))
    (fun _ _ s => s.answers (Answer.done (s.log.drain fromRseq count)))

/-- R520: the payload of LOG_ACK, with the free records of the log. -/
def Recorder.ackPayload (r : Recorder) : List Byte := le 4 r.ackRseq ++ le 4 (524288 - (r.nextRseq - r.ackRseq))

/-- LOG_ACK (R520, R521). -/
def Req.logAck (params : List Byte) (upTo : Nat) : Req :=
  Req.plain 0x0602 params (decide (params.length = 4)) (fun _ _ s =>
    if s.log.nextRseq < upTo then s.answers (Answer.refused 0x80)
    else
      let t := s.takeLog (s.log.ack s.cfg s.now upTo)
      t.answers (Answer.done t.log.ackPayload))

/-- INCIDENT_READ (R524). -/
def Req.incidentRead (params : List Byte) (iseq chunk : Nat) : Req :=
  Req.plain 0x0603 params (decide (params.length = 8)) (fun _ _ s =>
    match s.log.incident iseq with
    | none => s.answers (Answer.refused 0x81)
    | some i => if 16 < chunk then s.answers (Answer.refused 0x0C) else s.answers (Answer.done (readChunk i iseq chunk)))

/-- LOG_STATUS (R527): with FLUSH set the reply waits for the flush it starts, or for the further one (R511). -/
def Req.logStatus (params : List Byte) (flags : Nat) : Req :=
  Req.plain 0x0604 params (decide (params.length = 4)) (fun h i s =>
    if bitOf flags 0 then
      let wait : Deferred :=
        { session := i, hseq := h.hseq.toNat, tag := h.tag.toNat, params := params, repeats := [], dest := replyTo h
          flushes := if s.log.flush.isSome then 2 else 1 }
      { state := { s with log := s.log.trigger, fcp := { s.fcp with deferred := s.fcp.deferred ++ [wait] } }
        answer := none, after := id }
    else s.answers (Answer.done (s.log.status s.now s.flushEach)))

/-- A reply that waited for its flush, and the DUPLICATE of each repeat that came meanwhile (R363, R527). -/
def State.sendDeferred (s : State) (x : Deferred) : State :=
  let a := Answer.done (s.log.status s.now s.flushEach)
  let s := s.onSession x.session (fun z => z.answerStored x.session x.hseq 0x0604 x.tag x.dest x.params a)
  x.repeats.foldl (fun s tag =>
    match s.fcp.sessions[x.session].isRepeat x.hseq with
    | some r => (s.onSession x.session (fun z => z.answer x.session 0x0604 tag x.dest r.duplicate)).countFcp
        (fun k => { k with duplicates := satInc 32 k.duplicates })
    | none => s) s

/-- A flush is complete: the waiting replies that waited for it are sent. -/
def State.flushDone (s : State) : State :=
  let l := s.fcp.deferred.map (fun x => { x with flushes := x.flushes - 1 })
  let s := { s with fcp := { s.fcp with deferred := l.filter (fun x => x.flushes != 0) } }
  (l.filter (fun x => x.flushes == 0)).foldl State.sendDeferred s

/-- R525: the refusal of INCIDENT_ERASE, if any. -/
def Recorder.eraseRefusal (r : Recorder) (upTo confirm : Nat) : Option Nat :=
  if confirm ≠ r.journal.length then some 0x83
  else if r.nextIseq < upTo ∧ upTo ≠ 0xFFFFFFFF then some 0x81
  else none

/-- INCIDENT_ERASE (R525, R526): its commitment point is its acceptance (note 46). -/
def Req.incidentErase (params : List Byte) (upTo confirm : Nat) : Req :=
  Req.plain 0x0605 params (decide (params.length = 8)) (fun _ i s =>
    match s.log.eraseRefusal upTo confirm with
    | some x => s.answers (Answer.refused x)
    | none =>
      if s.log.erase.isSome then s.answers (Answer.busy 0x4A)
      else s.accepts i 0x0605 .incidentErase noDoors (fun n t => t.takeLog (t.log.startErase t.now t.mono upTo n)))

/-- R526: the erased slots are clear: the result of INCIDENT_ERASE, and the incidents that waited go to the journal. -/
def State.eraseDone (s : State) : State :=
  match s.log.erase with
  | none => s
  | some e =>
    let s := { s with log := { s.log with erase := none, due := s.log.due || !s.log.stagedInc.isEmpty } }
    s.complete e.handle stDone 0 (le 4 e.erased ++ le 4 s.log.firstIseq ++ le 4 (satTo 32 ((s.mono - e.since) / 1000)))

end Sys2Proof.Machine
end

