-- ==== Sys2Proof/Machine/PowerOps.lean ====
section
/-!
DEFINITION. Power states of the whole module (chapter 14): the refusers, the entry to STABLE and HIBERNATE, what is lost when
domains go off, power-up with the verification of firmware and configuration, wakes, and the power commands.
-/

namespace Sys2Proof.Machine

/-! ## Sessions close -/

/-- R377, R406: a session enters CLOSED; its waiting replies go, and it owns no staging any more. -/
def State.closeSession (s : State) (i : SessIx) (held : Bool) : State :=
  if s.fcp.sessions[i].state = .closed then s
  else
    let f := s.fcp.closeSession s.now i held
    { s with fcp := { f with deferred := f.deferred.filter (fun x => x.session != i) }
             config := s.config.sessionClosed i
             service := s.service.onFw (fun w => { w with stager := if w.stager = some i then none else w.stager }) }

/-- The sessions. -/
def sessionIxs : List SessIx := [0, 1, 2, 3, 4, 5]

/-- Every session enters CLOSED on the entry to STABLE or HIBERNATE; nothing waits to be sent any more (R377). -/
def State.closeAll (s : State) : State :=
  let t := sessionIxs.foldl (fun s i => s.closeSession i true) s
  { t with fcp := { t.fcp with sessions := tab 6 (fun i => { t.fcp.sessions[i] with txQueue := [], txWaiting := [] }) } }

/-! ## Power events -/

/-- R564: a power event. -/
def State.powerEvent (s : State) (code kind refuser : Nat) : State := s.event code (Sys2Proof.Machine.powerEvent s.now s.free kind refuser)

/-- Changes the power part. -/
def State.onPower (s : State) (f : Power → Power) : State := { s with power := f s.power }

/-! ## Refusers (R538, Table 14.3) -/

/-- The target of POWER_ENTER. -/
def entryTarget (t : Nat) : PwrMode := if t = 2 then .hibernate else .stable

/-- Both drives of a doorway are IDLE or FAULT. -/
def Doorway.drivesStill (w : Doorway) : Bool :=
  (w.door.gen.state == .idle || w.door.gen.state == .fault) && (w.step.gen.state == .idle || w.step.gen.state == .fault)

/-- The states of a doorway in which nothing moves it: LOCKED, ISOLATED, or FAULT with both drives IDLE or FAULT. -/
def Doorway.atRest (w : Doorway) : Bool :=
  w.sm.state == .locked || w.sm.state == .isolated || (w.sm.state == .fault && w.drivesStill)

/-- LEAF_Dd. -/
def State.leafRefuses (s : State) (m : PwrMode) (d : DoorIx) : Bool :=
  s.cfg.isFitted d && (!s.doors[d].atRest || s.doors[d].sm.maint.isSome
    || (m == .stable && !bitOf (supvFullMask s.loopEnv) d.val))

/-- LSW_CHn before the channels are commanded for STABLE. -/
def State.chanRefuses (s : State) (n : ChanIx) : Bool :=
  let q := s.lsw.chans[leaderOf s.cfg n]
  isLeader s.cfg n && (s.cfg.chStableMode n == 1 || s.cfg.chStableMode n == 2) && (q.inrush || q.retryWait)

/-- RING. -/
def State.ringRefuses (s : State) (m : PwrMode) : Bool :=
  (match s.ring.wrappedAt with
    | some t => decide (s.mono < t + 200000)
    | none => false)
    || (m == .stable && decide (s.cfg.ringKeepStable = 1) && !s.ring.up.1 && !s.ring.up.2)

/-- A refuser of Table 14.3 applies when POWER_ENTER is received. -/
def State.refuses (s : State) (m : PwrMode) (wakeAt r : Nat) : Bool :=
  if h : r < 8 then s.leafRefuses m ⟨r, h⟩
  else if h : 16 ≤ r ∧ r < 64 then s.chanRefuses ⟨r - 16, by omega⟩
  else if r = 0x41 then s.ringRefuses m
  else if r = 0x42 then m == .stable && (s.loop.releaseLeft || s.loop.releaseRight)
  else if r = 0x43 then s.service.fw.staged || s.service.fw.activation.isSome
  else if r = 0x44 then s.config.commit.isSome
  else if r = 0x45 then m == .stable && (s.loop.discrepancy || s.loop.bypassActive || !s.loop.keeperPermit)
  else if r = 0x46 then s.power.holdup || s.power.supplyLow
  else if r = 0x47 then !s.config.inForce
  else if r = 0x49 then decide (wakeAt ≠ 0) && decide (wakeAt < s.now + 1000000)
  else false

/-- The lowest refuser that applies. -/
def State.lowestRefuser (s : State) (m : PwrMode) (wakeAt : Nat) : Option Nat := (List.range 74).find? (s.refuses m wakeAt)

/-! ## The entry (R539 to R543) -/

/-- R209: the nearest detent of a step, the lower one of two. -/
def detentTarget (q : StepDrive) : Int :=
  let r : Int := ((q.elec % 64 : Nat) : Int)
  if r ≤ 32 then q.position - r else q.position + (64 - r)

/-- R209: a step drive has torque and stands away from a detent. -/
def Doorway.offDetent (w : Doorway) : Bool := w.step.gen.hasTorque && w.step.gen.state != .moving && decide (w.step.elec % 64 ≠ 0)

/-- Step 3 of Table 14.4: a step drive with torque away from a detent parks at the nearest one. -/
def parkAtDetent (e : DoorEnv) (w : Work) : Work :=
  if w.dw.offDetent then
    w.step (fun q => { q with gen := q.gen.moveToTarget (stepEnvOf e w.dw false) (detentTarget q) (e.cfg.homeSpeed e.d) false, job := .none })
  else w

/-- A step drive still moves or stands away from a detent. -/
def State.stepWaits (s : State) (d : DoorIx) : Bool :=
  s.cfg.hasStep d && (s.doors[d].step.gen.state == .moving || s.doors[d].offDetent)

/-- The entry flush has not completed. -/
def State.flushWaits (s : State) : Bool := s.log.flush.isSome || s.log.due

/-- Steps 2 to 4 of Table 14.4 are over. -/
def State.entryReady (s : State) (m : PwrMode) : Bool := !s.flushWaits && (m != .stable || doorways.all (fun d => !s.stepWaits d))

/-- R542: the result of POWER_ENTER. -/
def entryResult (n : Entry) (outcome refuser mono at_ : Nat) : List Byte :=
  le 1 n.target.code ++ le 1 outcome ++ le 1 refuser ++ le 1 0 ++ le 4 (satTo 32 (mono - n.started)) ++ le 8 at_

/-- The entry ends and the module stays in RUN; wake causes latched meanwhile go with it. -/
def State.entryEnds (s : State) (n : Entry) (status reason outcome refuser : Nat) : State :=
  let s := s.onPower (fun p => { (p.refuse s.now refuser) with entry := none, latched := 0 })
  (s.complete n.handle status reason (entryResult n outcome refuser s.mono 0)).powerEvent 0xEE01 2 refuser

/-- R542: an aborted entry ends at the end of the step in progress. -/
def State.entryChecks (s : State) : State :=
  match s.power.entry with
  | some n => if n.aborted && s.entryReady n.target then s.entryEnds n stAborted 0 3 0x48 else s
  | none => s

/-- Steps 1 to 3 of Table 14.4, after the reply; before STABLE the adapted bins are written (R246). -/
def State.entryStarts (s : State) (i : SessIx) (m : PwrMode) (wakeAt handle : Nat) : State :=
  let n : Entry :=
    { handle := handle, session := i, target := m, started := s.mono, appRan := s.engines.app.state == .running, aborted := false }
  let s := s.onPower (fun p => { p with entry := some n, wakeAt := wakeAt, latched := 0 })
  let s := s.powerEvent 0xEE01 1 0xFF
  let s := { s with log := s.log.trigger, doors := tab 8 (fun d =>
    if m = .stable then (saveEnvelopes ⟨s.doors[d], []⟩).dw else s.doors[d]) }
  if m = .stable then doorways.foldl (fun s d => s.runDoor d parkAtDetent) s else s

/-- POWER_ENTER (R537, R538). -/
def Req.powerEnter (params : List Byte) (target wakeAt : Nat) : Req :=
  { Req.plain 0x0701 params (decide (params.length = 12) && (target == 1 || target == 2)) (fun _ i s =>
      let m := entryTarget target
      if s.power.entry.isSome then s.answers (Answer.busy 0x4A)
      else match s.lowestRefuser m wakeAt with
        | some r => (s.onPower (fun p => p.refuse s.now r)).answers { Answer.refused 0x50 with payload := le 1 r }
        | none => s.accepts i 0x0701 .powerEnter noDoors (fun n t => t.entryStarts i m wakeAt n)) with
    ready := fun s => s.power.ready || s.power.reserve }

/-- POWER_STATUS (R559). -/
def Req.powerStatus (params : List Byte) : Req :=
  Req.plain 0x0702 params (decide (params.length = 0))
    (fun _ _ s => s.answers (Answer.done (s.power.status s.cfg s.now s.mono s.free)))

/-- POWER_ACCOUNTS (R560). -/
def Req.powerAccounts (params : List Byte) : Req :=
  Req.plain 0x0703 params (decide (params.length = 0)) (fun _ _ s => s.answers (Answer.done (s.power.accounts s.now s.free)))

/-- R539: a refuser applies while the entry runs: parks, channels and the flush. -/
def State.entryFails (s : State) (r : Nat) : State :=
  match s.power.entry with
  | none => s
  | some n =>
    let applies : Bool :=
      if h : 8 ≤ r ∧ r < 16 then n.target == .stable && s.stepWaits ⟨r - 8, by omega⟩
      else if 16 ≤ r ∧ r < 64 then true
      else if r = 0x40 then s.flushWaits
      else false
    if applies then s.entryEnds n stRefused 0x51 2 r else s

/-! ## Domains go off -/

/-- What the doorways, engines, CAN controllers, the recorder, the encoders and Quince lose when their domains go off. Counts
since power-up stay over STABLE (R146; DEDUCED, note 130). -/
def State.runOff (s : State) (keep : Bool) : State :=
  { s with
    half := false
    doors := tab 8 (fun d => s.doors[d].unpowered keep s.mono)
    encoders := tab 2 (fun x => { acc := 0, edges := if keep then s.encoders[x].edges else 0, a := false, b := false })
    quince := { s.quince with present := 0, trips := 0, oscillator := false }
    log := s.log.lose
    can := s.can.unpowered
    engines := if keep then s.engines.asleep else s.engines.unpowered
    service := s.service.unpowered }

/-- What the input groups, the outputs, the load channels, the loop and the ring lose when FIELD_IO and RING go off: the loop
opens, every channel and output is off, and the relays by-pass the module (R95, R306, R346, R444). -/
def State.fieldOff (s : State) : State :=
  { s with
    doors := tab 8 (fun d => { s.doors[d] with inp := s.doors[d].inp.powered })
    train := s.train.powered
    loop := s.loop.unpowered s.now s.mono
    lsw := s.lsw.unpowered s.cfg
    outs := s.outs.unpowered
    ring := s.ring.unpowered }

/-- R434, R445: the ring is left where it is not kept in STABLE. -/
def State.leaveRing (s : State) : State := { s with ring := s.ring.leave }

/-- The field side takes a MODE of the downlink (R329, R334). -/
def InGroup.takesMode (g : InGroup) (mode : Nat) : InGroup :=
  { g with flags := { g.flags with stable := mode == 1 }, front := { g.front with mode := mode } }

/-- Every front end takes a MODE. -/
def State.groupModes (s : State) (mode : Nat) : State :=
  { s with doors := tab 8 (fun d => { s.doors[d] with inp := s.doors[d].inp.takesMode mode }), train := s.train.takesMode mode }

/-- The operations that still run when the module leaves RUN end ABORTED, with no result (note 76). -/
def State.operationsEnd (s : State) : State :=
  ((s.fcp.ops.filter (fun o => o.state == .running)).map (·.handle)).foldl (fun s h => s.complete h stAborted 0 []) s

/-- Steps 5 to 9 of Table 14.4: the module is in STABLE (R540), or in HIBERNATE (R541). -/
def State.entryCommits (s : State) : State :=
  match s.power.entry with
  | none => s
  | some n =>
    if n.aborted || !s.entryReady n.target then s.entryChecks
    else
      let c := s.cfg
      let toStable := n.target == .stable
      let s := if toStable && decide (c.ringKeepStable = 1) then s else s.leaveRing
      let s := if toStable then
          { ({ s with lsw := takeFrame s.lswEnv .stable s.lsw }).groupModes 1 with loop := s.loop.keeperTakes .stable }
        else s
      let s := (s.complete n.handle stDone 0 (entryResult n 0 0xFF s.mono s.now)).operationsEnd.closeAll
      let s := s.onPower (fun p => { p with watchFired := 0, appRan := n.appRan, entry := none, counters :=
        if toStable then { p.counters with stable := satInc 16 p.counters.stable }
        else { p.counters with hibernate := satInc 16 p.counters.hibernate } })
      let s := s.runOff toStable
      let s := if toStable then s else s.fieldOff
      let s := s.onPower (fun p => p.switchTo c n.target)
      let s := { s with config := { s.config with commit := none } }
      if toStable then ({ s with outs := s.outs.drive s.outEnv }).evaluate else s

/-- Supply is lost, or the module is reset: only the KEEP domain stays (R95, R210, R306, R377, R389, R513). -/
def State.powerLost (s : State) : State :=
  let s := (s.runOff false).fieldOff
  { s with
    can := s.can.lost
    fcp := { Fcp.reset with nextHandle := s.fcp.nextHandle }
    config := s.config.unpowered
    power := { s.power with
      mode := .run, domains := tab 10 (fun n => decide (n.val = 0)), entry := none, holdup := false, reserve := false
      ready := false, supplyLow := false, lowSince := none, latched := 0, appRan := false } }

/-! ## Power-up -/

/-- R610: the firmware that starts. -/
def Firmware.boot (f : Firmware) : Firmware × Bool :=
  if f.bankValid f.active then ({ f with bootLoader := false }, false)
  else if f.bankValid f.other then ({ f with active := f.other, fallback := true, bootLoader := false }, true)
  else ({ f with bootLoader := true }, false)

/-- FW_BANK_VERIFY (R610). -/
def State.bootFirmware (s : State) : State :=
  let r := s.service.fw.boot
  let s := { s with service := { s.service with fw := r.1 } }
  if r.2 then s.event 0xE101 (serviceEvent s.now 4 0 0 r.1.version) else s

/-- CFG_IMAGE_VERIFY (R418, R425); the boot loader has no image in force. -/
def State.bootImage (s : State) (goodA goodB : Bool) : State :=
  if s.service.fw.bootLoader then { s with config := s.config.unload }
  else
    let r := s.config.verify (fun b => if b = 0 then goodA else goodB) s.service.fw.version
    let s := { s with config := r.1 }
    if r.2 then (let e := r.1.event s.now 2; s.event e.1 e.2) else s

/-- ENGINE_STATE of an engine whose domain is on; a held engine stays held. -/
def bootState (p : Power) (boot : Bool) (old : EngState) (n : Fin 12) : EngState :=
  if old = .held then .held
  else if n.val < 8 then (if p.on (if n.val < 4 then 5 else 6) && !boot then .running else .off)
  else if n.val < 10 then (if p.on 3 && !boot then .running else .off)
  else if n.val = 10 then (if p.on 4 && !boot then .running else .off)
  else .off

/-- R585: the application starts with APP_AUTOSTART, or where it ran when the entry began. -/
def State.bootApp (s : State) (ran : Bool) : State :=
  let s := { s with engines := s.engines.onApp App.clearMailbox }
  if s.service.fw.bootLoader then s
  else if s.cfg.appAutostart = 1 ∨ ran then
    let r := s.engines.appStart s.cfg s.now s.mono
    ({ s with engines := r.1 }).events r.2
  else s

/-- The steps that power-up and every wake share: domains on in their order, engines loaded, CAN integrating, the live pool
restored (R144), settle times started (R20, R72), doorways at their first tick (R67), those not fitted ISOLATED (R16). -/
def State.domainsOn (s : State) (ran : Bool) : State :=
  let c := s.cfg
  let s := s.onPower (fun p => { (p.switchTo c .run) with runSince := s.mono, appRan := false })
  let boot := s.service.fw.bootLoader
  let s := { s with
    doors := tab 8 (fun d => s.doors[d].started (c.isFitted d) s.mono)
    engines := { s.engines with states := tab 12 (fun n => bootState s.power boot s.engines.states[n] n) }
    config := { s.config with pool := imagePool s.config.image }
    can := if s.power.on 2 then { s.can with channels := tab 2 (fun ch => s.can.channels[ch].powered c ch) } else s.can
    loop := { s.loop.resettle with supvStopped := s.engines.halted || boot } }
  (s.bootApp ran).tickAll

/-- R557: the cell is measured at a power-up. -/
def State.measureCell (s : State) : State :=
  let low := decide (Config.measured .cellVoltage s.free < 3000)
  let s := s.onPower (fun p => { p with cellLow := low })
  if low then s.powerEvent 0xEE02 6 0xFF else s

/-- Steps 4 to 8 of Table 14.7. -/
def State.restart (s : State) (goodA goodB ran : Bool) : State :=
  let s := (s.bootFirmware).bootImage goodA goodB
  let s := { s with loop := { s.loop with masks := if s.config.inForce then some (keeperMasks s.cfg) else none, starting := true } }
  (s.domainsOn ran).evaluate

/-- R546, R550, R556: power-up, or a reset of a running module; module time is lost with KEEP (note 74). -/
def State.powersUp (s : State) (keepLost goodA goodB : Bool) : State :=
  let s := s.powerLost
  let s := if keepLost then
      { s with now := (Config.measured .clock s.free).toNat, ring := { s.ring with timeAge := 0xFFFFFFFF } }
    else s
  let s := s.onPower (fun p => { p with
    lastWake := 0xFF, keepLost := p.keepLost || keepLost, noHoldup := true, charging := p.cart.fitted })
  (s.measureCell.restart goodA goodB false).fresh

/-! ## Wakes (R544 to R547) -/

/-- R544: a wake cause arises. -/
def State.wakeCause (s : State) (bit : Nat) : State := s.onPower (fun p => p.latch s.cfg bit)

/-- A wake cause is taken. -/
def State.takesWake (s : State) : State := s.onPower (fun p => p.takeWake s.mono)

/-- R325, R334: on the return to MODE RUN the filter counters are loaded from the last burst. -/
def InGroup.returnsToRun (g : InGroup) (c : Cfg) (n : GroupIx) : InGroup :=
  { (g.takesMode 0) with counts := loadedCounts c n g.filtered, loaded := true }

/-- R545, R547: the wake from STABLE; the loop keeper hands the loop back when RUN is reached (R98, R99). -/
def State.wakesFromStable (s : State) : State :=
  if s.power.mode ≠ .stable ∨ s.power.latched = 0 then s
  else
    let ran := s.power.appRan
    let s := s.takesWake
    let s := { s with
      doors := tab 8 (fun d => { s.doors[d] with inp := s.doors[d].inp.returnsToRun s.cfg ⟨d.val, by omega⟩ })
      train := s.train.returnsToRun s.cfg 8 }
    let s := s.domainsOn ran
    ({ s with loop := { s.loop with alone := none, starting := s.loop.starting || !s.loop.commanded } }).evaluate.fresh

/-- R546: the wake from HIBERNATE. -/
def State.wakesFromHibernate (s : State) (goodA goodB : Bool) : State :=
  if s.power.mode ≠ .hibernate ∨ s.power.latched = 0 then s
  else
    let ran := s.power.appRan
    let s := s.takesWake
    (s.restart goodA goodB ran).fresh

/-! ## Supply and cartridge (R553 to R557) -/

/-- R515: the open cycles are staged as INCOMPLETE, with their durations up to now; their later record carries CONTINUED. -/
def State.stageOpenCycle (s : State) (d : DoorIx) : State :=
  let w := (cycleAccount (s.doorEnv d) ⟨s.doors[d], []⟩).dw
  match w.cycle with
  | none => s
  | some c =>
    let s := s.stage true (fun n => cycleBytes c d n s.mono w.sm.state.code s.free true)
    s.onDoor d (fun w => { w with cycle := w.cycle.map (fun c => { c with flags := { c.flags with continued := true } }) })

/-- POWER_FAIL_STAGING (R515), and the power-fail flush (R512). -/
def State.powerFail (s : State) : State :=
  let s := s.takeLog (s.log.truncate s.now)
  let s := doorways.foldl State.stageOpenCycle s
  { s with log := { s.log.trigger with powerFailDue := true } }

/-- The module has been powered up and not lost its supply since. -/
def State.powered (s : State) : Bool := s.power.on 8 || s.power.mode == .hibernate

/-- R553, R555: the supply falls below 45 V. With no cartridge there is no stack to switch to (note 65). -/
def State.supplyFails (s : State) : State :=
  if !s.powered || s.power.holdup then s
  else if !s.power.cart.fitted then s.powerLost
  else
    let s := s.onPower (fun p => { p with
      holdup := true, supplyLow := true, lowSince := some s.mono
      dcLink := if p.mode = .run then 50400 else p.dcLink
      counters := { p.counters with holdupEvents := satInc 16 p.counters.holdupEvents } })
    if s.power.mode = .run then (s.powerFail.powerEvent 0xEE02 1 0xFF).fresh else s

/-- R553, R555: the supply is back for 10 ms. In HIBERNATE its return after 1 s is a wake cause (Table 14.5). -/
def State.supplyReturns (s : State) : State :=
  if !s.power.holdup then s
  else
    let long : Bool := match s.power.lowSince with
      | some t => decide (t + 1000000 ≤ s.mono)
      | none => false
    let s := if s.power.mode == .hibernate && long then s.wakeCause 7 else s
    let s := s.onPower (fun p => { p with
      holdup := false, supplyLow := false, lowSince := none
      dcLink := if p.mode = .run then Config.measured .dcLink s.free else p.dcLink
      domains := if p.reserve then p.domains.set 9 true else p.domains, reserve := false })
    if s.power.mode = .run then (s.powerEvent 0xEE02 2 0xFF).fresh else s

/-- A fitted drive takes an interruption (R127, R658). -/
def State.interruptDrive (s : State) (r : DriveIx) (x : Interruption) : State :=
  if s.cfg.driveFitted r then s.runDoor (doorOf r) (fun e w => onInterruption e (isStep r) x w) else s

/-- Every fitted drive takes an interruption. -/
def State.interruptDrives (s : State) (x : Interruption) : State := drives.foldl (fun s r => s.interruptDrive r x) s

/-- R554: the stack is down to HOLDUP_RESERVE: the power stage goes off and a flush starts. In STABLE it is the end of the
hold-up (R555). -/
def State.reserveReached (s : State) : State :=
  if !s.power.holdup ∨ s.power.reserve then s
  else match s.power.mode with
    | .run =>
      let s := s.onPower (fun p => { p with reserve := true, ready := false, domains := p.domains.set 9 false })
      let s := (s.powerEvent 0xEE02 3 0xFF)
      (({ s with log := s.log.trigger, quince := { s.quince with oscillator := false } }).interruptDrives .dcLow)
    | .stable => s.powerLost
    | .hibernate => s

/-- R554: the stack floor: the module resets and the loop opens. -/
def State.stackEmpty (s : State) : State :=
  if s.power.holdup ∧ s.power.mode = .run then
    s.powerLost.onPower (fun p => { p with counters := { p.counters with holdupResets := satInc 16 p.counters.holdupResets } })
  else s

/-- R555: STABLE_HOLDUP_TIME has run out. -/
def State.stableHoldupEnds (s : State) : State := if s.power.holdup ∧ s.power.mode = .stable then s.powerLost else s

/-- R556: the cartridge is withdrawn; on the stack that is the loss of the supply (note 65). -/
def State.cartridgeOut (s : State) : State :=
  if !s.power.cart.fitted then s
  else
    let lost := s.power.holdup
    let s := (s.onPower Power.removeCartridge).powerEvent 0xEE02 4 0xFF
    if lost then s.powerLost else s

/-- R556, R619: a measurement; the event where the forecast crosses 180, 30 or 0 days. -/
def State.measureCartridge (s : State) (cap esr : Nat) : State :=
  if !s.power.cart.fitted then s
  else
    let old := s.power.cart.eolDays
    let s := s.onPower (fun p => { p with cart := p.cart.measure s.now cap esr })
    let s := if eolCrossed old s.power.cart.eolDays then
        s.event 0xE103 (serviceEvent s.now 0 0 s.power.cart.eolDays s.power.eolCause) else s
    s.evaluate

/-- R556, R620: a cartridge is inserted: it charges, and its serial number, the time and the first measurement are taken. -/
def State.cartridgeIn (s : State) (serial : List Byte) (cap esr : Nat) : State :=
  if s.power.cart.fitted then s
  else
    let q : Cartridge := { Cartridge.absent with fitted := true, serial := serial, fittedAt := s.now, firstDue := true }
    let s := (s.onPower (fun p => { p with cart := q, charging := true, noHoldup := true })).powerEvent 0xEE02 5 0xFF
    s.measureCartridge cap esr

/-- R556: the stack has 90 % of its energy. -/
def State.cartridgeCharged (s : State) : State :=
  if s.power.cart.fitted then s.onPower (fun p => { p with noHoldup := false, charging := false }) else s

/-- R548, R600: precharge is complete: every leg has been tested, and motions that wait may start at the next tick. -/
def State.precharged (s : State) : State :=
  if s.power.ready ∨ !s.power.on 9 ∨ s.power.mode ≠ .run then s
  else
    let s := s.onPower (fun p => { p with ready := true, dcLink := Config.measured .dcLink s.free })
    let s := (drives.filter s.cfg.driveFitted).foldl State.legTest s
    s.quinceStarts.tickAll.fresh

end Sys2Proof.Machine
end

