-- ==== Sys2Proof/Machine/NetCmds.lean ====
section
/-!
DEFINITION. The ring and CAN commands, the words that the module publishes on both, and the commands that load and control
the application: RING_STATUS, CONSIST_VIEW, SCHED_LOAD, CAN_STATUS, APP_LOAD and APP_CONTROL (chapters 11, 12 and 15).
-/

namespace Sys2Proof.Machine

/-! ## Published words -/

/-- LOOP_SUMMARY (Table 11.3). -/
def State.loopSummary (s : State) : Nat :=
  bitWord [s.loop.commanded, s.loop.releaseLeft, s.loop.releaseRight, s.loopEnv.tl 2, s.loop.bypassActive, s.loop.discrepancy,
    s.loop.alone.isSome]

/-- Bytes 41 to 47 of a beacon, in the order of Table 11.3 from LOOP_SUMMARY on. -/
def State.doorMasks (s : State) : List Byte :=
  le 1 (doorMask s.cfg.isFitted) ++ le 1 (supvFullMask s.loopEnv) ++ le 1 (s.doorsIn (· == .fault))
    ++ le 1 (s.doorsIn (· == .obstructed)) ++ le 1 (s.doorsIn (· == .isolated))

/-- Bytes 0 to 14 of DOOR_SUMMARY (Table 12.6). -/
def State.doorSummary (s : State) : List Byte :=
  (doorways.flatMap (fun d => le 1 s.doors[d].sm.state.code)) ++ le 1 (supvFullMask s.loopEnv) ++ le 1 s.loopSummary
    ++ le 1 (doorMask s.cfg.isFitted) ++ le 1 (s.doorsIn (· == .fault)) ++ le 1 (s.doorsIn (· == .obstructed))
    ++ le 1 (s.doorsIn (· == .isolated)) ++ le 1 (s.loop.orientation s.loopEnv)

/-- What the CAN channels read. -/
def State.canEnv (s : State) : CanEnv :=
  { cfg := s.cfg, now := s.now, mono := s.mono, summary := s.doorSummary, appRuns := s.engines.app.state == .running }

/-- NODE_STATE (Table 11.3): STARTING until the module works, then RUN, STABLE, or LEAVING before the relays by-pass it. -/
def State.nodeState (s : State) : Nat :=
  if s.power.mode = .stable then 2 else if s.power.mode = .run ∧ s.commsRuns then 1 else 0

/-- The beacon's content but its time fields: bytes 2 to 23 and 41 to 47, as the comms engine refreshes them (R436). -/
def State.beaconContent (s : State) : List Byte :=
  let r := s.ring
  let own := s.cfg.ringAddress
  le 2 (bitWord [s.config.inForce, r.consistMismatch, r.versionMismatch, r.addressConflict, r.wrapped.1, r.wrapped.2, r.timeValid,
      decide (r.master ≠ 0) && r.master == own])
    ++ le 4 s.service.fw.version ++ le 8 s.config.cfgId ++ le 4 s.config.csbId ++ le 4 s.config.scheme
    ++ le 1 (s.loop.orientation s.loopEnv) ++ le 1 s.loopSummary ++ s.doorMasks

/-- R437: the body of a beacon with a NODE_STATE, from its content. -/
def State.beaconBody (s : State) (node : Nat) (content : List Byte) : List Byte :=
  let body := le 1 1 ++ le 1 node ++ content.take 22 ++ le 8 s.now ++ le 4 0 ++ le 4 s.ring.timeAge ++ le 1 s.ring.master
    ++ (content.drop 22).take 7 ++ le 12 0
  body ++ le 4 (crc32c body)

/-! ## Ring and CAN commands -/

/-- RING_STATUS (R462). -/
def Req.ringStatus (params : List Byte) : Req :=
  Req.plain 0x0901 params (decide (params.length = 0)) (fun _ _ s => s.answers (Answer.done (s.ring.status s.ringEnv)))

/-- CONSIST_VIEW (R463). -/
def Req.consistView (params : List Byte) (mask : Nat) : Req :=
  Req.plain 0x0902 params (decide (params.length = 4)) (fun _ _ s => s.answers (Answer.done (s.ring.view s.ringEnv mask)))

/-- A CAN channel by its number in a command. -/
def canOfNat (n : Nat) : CanIx := Fin.ofNat 2 n

/-- SCHED_LOAD (R497). -/
def Req.schedLoad (params : List Byte) (channel : Nat) (schedule : List Byte) : Req :=
  Req.plain 0x0A01 params (decide (params.length = 788)) (fun _ _ s =>
    let ch := canOfNat channel
    if 2 ≤ channel then s.answers (Answer.refused 0x0C)
    else match schedRefusal s.cfg ch schedule with
      | some (slot, cycle) => s.answers { Answer.refused 0x23 with payload := le 2 slot ++ le 1 cycle }
      | none =>
        if s.config.commit.isSome then s.answers (Answer.busy 0x4A)
        else ({ s with can := s.can.channel ch (fun k => { k with loaded := some schedule }) }).answers (Answer.done []))

/-- CAN_STATUS (R498). -/
def Req.canStatus (params : List Byte) (mask : Nat) : Req :=
  Req.plain 0x0A02 params (decide (params.length = 4) && mask % 4 != 0) (fun _ _ s =>
    s.answers (Answer.done (le 8 s.now ++ (List.finRange 2).flatMap (fun ch =>
      if bitOf mask ch.val then s.can.channels[ch].entry s.canEnv ch else []))))

/-! ## The application -/

/-- R583, R587: the application stops (cause 0) or ends FAULTED: session 5 closes and the requests of an owned CAN1 end. -/
def State.appEnds (s : State) (cause : Nat) : State :=
  if s.engines.app.state ≠ .running ∧ s.engines.app.state ≠ .starting then s
  else
    let r := s.engines.appEnd s.now cause
    (({ s with engines := r.1, can := s.can.appStops s.cfg }).closeSession 5 false).events r.2

/-- R583: the application starts. -/
def State.appStarts (s : State) : State :=
  let r := s.engines.appStart s.cfg s.now s.mono
  ({ s with engines := r.1 }).events r.2

/-- The stored image changes and with it APP_STATE (R586, R598). -/
def State.appStore (s : State) (st : AppState) (image loaded : List Byte) : State :=
  let old := s.engines.app.state
  let s := { s with engines := s.engines.onApp (fun a => { a with
    state := st, cause := if st = .empty then 0 else a.cause, image := image, loaded := loaded }) }
  if old = st then s else let e := s.engines.app.event s.now; s.event e.1 e.2

/-- R404, R586, R609: PLEN is 8 + LENGTH, and LENGTH is 1 to 1,000. -/
def blockOk (params block : List Byte) : Bool :=
  decide (params.length = 8 + block.length) && fieldAt params 4 2 == block.length && decide (1 ≤ block.length)
    && decide (block.length ≤ 1000)

/-- R586: the refusal of an APP_LOAD block before it is taken. -/
def App.loadRefusal (a : App) (offset : Nat) (first : Bool) : Option Nat :=
  if a.state = .starting ∨ a.state = .running then some 0x6C
  else if (first && offset != 0) || (!first && offset != a.loaded.length) then some 0x6F
  else none

/-- R586: a block that is accepted; at LAST the image is checked, stored or erased. -/
def State.appLoad (s : State) (first last : Bool) (block : List Byte) : Reply :=
  let a := s.engines.app
  let bytes := if first then block else a.loaded ++ block
  let s := if first then s.appStore .empty [] bytes else s.appStore a.state a.image bytes
  if !last then s.answers (Answer.done (le 4 bytes.length))
  else if appImageOk bytes then (s.appStore .stopped bytes bytes).answers (Answer.done (le 4 bytes.length))
  else (s.appStore .empty [] []).answers (Answer.refused 0x6D)

/-- APP_LOAD (R586). -/
def Req.appLoad (params : List Byte) (offset flags : Nat) (block : List Byte) : Req :=
  Req.plain 0x0B01 params
    (blockOk params block) (fun _ _ s =>
      match s.engines.app.loadRefusal offset (bitOf flags 0) with
      | some x => s.answers (Answer.refused x)
      | none => s.appLoad (bitOf flags 0) (bitOf flags 1) block)

/-- R587: the payload of APP_CONTROL. -/
def State.appStatus (s : State) : List Byte :=
  let a := s.engines.app
  le 1 a.state.code ++ le 1 a.cause ++ le 2 a.restarts ++ le 4 a.version ++ le 4 a.imageCrc
    ++ le 4 (if a.state = .running then seconds32 (s.mono - a.runSince) else 0)

/-- R587: a start clears the restart limit of R585. -/
def State.appControl (s : State) (action : Nat) : State :=
  let s := if action = 1 then s else s.appEnds 0
  if action = 0 then s
  else ({ s with engines := s.engines.onApp (fun a => { a with restartTimes := [] }) }).appStarts

/-- APP_CONTROL (R587). -/
def Req.appControl (params : List Byte) (action : Nat) : Req :=
  Req.plain 0x0B02 params (decide (params.length = 4) && decide (action ≤ 2)) (fun _ _ s =>
    if action ≠ 0 ∧ s.engines.app.state = .empty then s.answers (Answer.refused 0x6E)
    else let t := s.appControl action; t.answers (Answer.done t.appStatus))

end Sys2Proof.Machine
end

