-- ==== Sys2Proof/Machine/ServiceCmds.lean ====
section
/-!
DEFINITION. The service commands: FW_STAGE, FW_ACTIVATE with its engine updates and roll-back, SELFTEST, LEG_SUBSTITUTE and
IDENTITY (chapter 16), and the safe point of R410.
-/

namespace Sys2Proof.Machine

/-- Changes the firmware part. -/
def State.onFw (s : State) (f : Firmware → Firmware) : State := { s with service := s.service.onFw f }

/-- R410: the safe point. -/
def State.atSafePoint (s : State) : Bool :=
  doorways.all (fun d => !s.cfg.isFitted d || s.doors[d].atRest)
    && (match s.service.fw.activation with
      | some a => a.current.isNone
      | none => true)
    && doorways.all (fun d => match s.doors[d].sm.maint with
      | some m => (match m.op with
        | .test _ => false
        | .learn => false
        | .home _ => false
        | .update => true
        | .selftest _ => true)
      | none => true)

/-! ## FW_STAGE (R609) -/

/-- R609 at LAST: event 0xE101 code 1, or the refusal. -/
def State.stageLast (s : State) : Reply :=
  let r := s.service.fw.check
  match r.2 with
  | some x => s.answers (Answer.refused x)
  | none =>
    let s := s.onFw (fun _ => r.1)
    (s.event 0xE101 (serviceEvent s.now 1 0 0 r.1.banks[r.1.other].version)).answers (Answer.done (le 4 r.1.stagedBytes))

/-- FW_STAGE. -/
def Req.fwStage (params : List Byte) (offset flags : Nat) (block : List Byte) : Req :=
  Req.plain 0x0801 params (blockOk params block) (fun _ i s =>
    let first := bitOf flags 0
    match s.service.fw.stageRefusal i s.mono offset block.length first with
    | some x => s.answers (Answer.refused x)
    | none =>
      if s.service.fw.activation.isSome then s.answers (Answer.busy 0x4A)
      else
        let s := s.onFw (fun f => f.stage i s.mono first block)
        if bitOf flags 1 then s.stageLast else s.answers (Answer.done (le 4 s.service.fw.stagedBytes)))

/-! ## FW_ACTIVATE (R611 to R617) -/

/-- R611: the version staged. -/
def Firmware.stagedVersion (f : Firmware) : Nat := f.banks[f.other].version

/-- R611: the refusal of FW_ACTIVATE. -/
def State.activateRefusal (s : State) (mode flags : Nat) : Option Nat :=
  let f := s.service.fw
  if !f.staged then some 0x63
  else if mode = 0 ∧ fwMajor f.stagedVersion ≠ fwMajor f.version then some 0x64
  else if s.config.inForce ∧ !compatible s.config.image f.stagedVersion ∧ !(decide (mode = 1) && bitOf flags 0) then some 0x62
  else none

/-- R611: a LEG_SUBSTITUTE runs. -/
def State.manualSub (s : State) : Bool := s.service.brambles.toList.any (fun b => match b.running with
  | some u => u.handle.isSome
  | none => false)

/-- FW_ACTIVATE. -/
def Req.fwActivate (params : List Byte) (mode flags : Nat) : Req :=
  Req.plain 0x0802 params (decide (params.length = 4) && decide (mode ≤ 1)) (fun _ i s =>
    match s.activateRefusal mode flags with
    | some x => s.answers (Answer.refused x)
    | none =>
      if s.config.commit.isSome || s.manualSub || s.power.entry.isSome || s.service.fw.activation.isSome then
        s.answers (Answer.busy 0x4A)
      else s.accepts i 0x0802 .fwActivate noDoors (fun n t => t.onFw (fun f => { f with
        activation := some ({ handle := n, session := i, live := decide (mode = 0), started := t.mono, updated := []
                              current := none, rolling := none } : Activation) })))

/-- Whether the domain of a leaf engine is on. -/
def State.leafOn (s : State) (d : DoorIx) : Bool := s.power.on (leafDomain d)

/-- Changes the activation in progress. -/
def State.onActivation (s : State) (f : Activation → Activation) : State :=
  s.onFw (fun w => { w with activation := w.activation.map f })

/-- Sets ENGINE_STATE. -/
def State.setEngine (s : State) (n : Fin 12) (x : EngState) : State :=
  { s with engines := { s.engines with states := s.engines.states.set n x } }

/-- The engines updated by number: the pair counts as two (ch. 15). -/
def Activation.count (a : Activation) : Nat := a.updated.length + (if a.updated.contains .supv then 1 else 0)

/-- The activation ends with its result (R616). -/
def State.activationEnds (s : State) (a : Activation) (status reason outcome failed : Nat) : State :=
  let version := if a.rolling.isSome then s.service.fw.stagedVersion else s.service.fw.version
  let s := s.onFw (fun f => { f with activation := none })
  s.complete a.handle status reason (activationResult outcome a.count failed (satTo 32 ((s.mono - a.started) / 1000)) version)

/-- R616: a roll-back with no engine left to return ends the operation. -/
def State.rollSettles (s : State) : State :=
  match s.service.fw.activation with
  | none => s
  | some a =>
    match a.rolling with
    | none => s
    | some r =>
      if a.current.isNone && a.updated.isEmpty then
        s.activationEnds a r.status r.reason (if r.status = stAborted then 3 else 2) r.failed
      else s

/-- R616: the activation rolls back. -/
def State.rollsBack (s : State) (status reason failed : Nat) : State :=
  (s.onActivation (fun a => { a with rolling := some ({ status := status, reason := reason, failed := failed } : RollBack) })).rollSettles

/-- The engine that an update may take now: that of a live activation, with no other halted. -/
def State.updateDue (s : State) : Option FwEngine :=
  match s.service.fw.activation with
  | none => none
  | some a => if a.live && a.current.isNone then a.due s.leafOn else none

/-- Whether an engine is halted for its update. -/
def State.updating (s : State) (x : FwEngine) : Bool :=
  match s.service.fw.activation with
  | some a => a.current == some x
  | none => false

/-- An engine is halted for its update. -/
def State.takesEngine (s : State) (x : FwEngine) : State := s.onActivation (fun a => { a with current := some x })

/-- R613: an engine runs again: its event, and the roll-back where it does not run the new code. -/
def State.engineDone (s : State) (x : FwEngine) (ok : Bool) : State :=
  let forward : Bool := match s.service.fw.activation with
    | some a => a.rolling.isNone
    | none => false
  if !ok && forward then (s.onActivation (fun a => { a with current := none })).rollsBack stRefused 0x66 x.number
  else
    let version := if forward then s.service.fw.stagedVersion else s.service.fw.version
    ((s.onActivation (fun a => a.finished x)).event 0xE101 (serviceEvent s.now 2 x.number 0 version)).rollSettles

/-- R612: the doorway of a leaf engine lets it be updated. -/
def State.leafReady (s : State) (d : DoorIx) : Bool :=
  !s.cfg.isFitted d
    || (s.leafRuns d && s.doors[d].sm.maint.isNone && (s.doors[d].sm.state == .locked || s.doors[d].sm.state == .isolated))

/-- LEAF_ENGINE_UPDATE, step 1 of Table 16.3. -/
def State.leafUpdate (s : State) (d : DoorIx) : State :=
  if s.updateDue ≠ some (.leaf d) ∨ !s.leafReady d then s
  else
    let s := s.takesEngine (.leaf d)
    let s := if s.cfg.isFitted d then s.runDoor d (fun e w => startMaint e .update 0 w) else s
    s.setEngine (leafEngine d) .updating

/-- R39, R49: a doorway leaves the update of its engine by settling. -/
def endUpdate (e : DoorEnv) (w : Work) : Work :=
  doorTick e ((w.sm (fun m => { m with maint := none })).smFlags (fun f => { f with halted := false }))

/-- LEAF_ENGINE_UPDATE_DONE, steps 2 and 3. -/
def State.leafUpdateDone (s : State) (d : DoorIx) (ok : Bool) : State :=
  if !s.updating (.leaf d) then s
  else (((s.setEngine (leafEngine d) .running).runDoor d endUpdate).engineDone (.leaf d) ok)

/-- R612: the supervisor pair may be updated. -/
def State.supvReady (s : State) : Bool :=
  s.supvRuns && !s.loop.releaseLeft && !s.loop.releaseRight && !s.loop.discrepancy
    && doorways.all (fun d => !s.cfg.isFitted d || s.doors[d].sm.state == .locked || s.doors[d].sm.state == .isolated
      || s.doors[d].sm.state == .fault)

/-- SUPV_UPDATE, step 4: the last frame carries UPDATE_HOLD, the keeper takes the loop, the outputs hold. -/
def State.supvUpdate (s : State) : State :=
  if s.updateDue ≠ some .supv ∨ !s.supvReady then s
  else
    let s := { s.takesEngine .supv with lsw := takeFrame s.lswEnv .updateHold s.lsw }
    let s := (s.groupModes 2).setEngine 8 .updating
    let s := { s with loop := s.loop.keeperTakes .update, outs := { s.outs with held := true, heldOut := false } }
    (s.setEngine 9 .updating).supervise

/-- SUPV_UPDATE_DONE, steps 5 and 6. -/
def State.supvUpdateDone (s : State) (ok : Bool) : State :=
  if !s.updating .supv then s
  else
    let s := ((s.groupModes 0).setEngine 8 .running).setEngine 9 .running
    let s := { s with loop := s.loop.supvResumes, outs := { s.outs with held := false, heldOut := false } }
    s.supervise.engineDone .supv ok

/-- COMMS_UPDATE, step 7: no commit and no erase runs; the sessions are PAUSED (R378). -/
def State.commsUpdate (s : State) : State :=
  if s.updateDue ≠ some .comms ∨ !s.commsRuns ∨ s.config.commit.isSome ∨ s.log.erase.isSome then s
  else
    let s := (s.takesEngine .comms).setEngine 10 .updating
    { s with fcp := s.fcp.pauseAll }

/-- R378: the sessions return to the state before PAUSED. -/
def State.resumeSessions (s : State) : State :=
  sessionIxs.foldl (fun s i =>
    if s.fcp.sessions[i].state = .paused then { s with fcp := s.fcp.enterState s.now i s.fcp.sessions[i].before } else s) s

/-- R615: the commitment point of an activation. -/
def State.activated (s : State) : State :=
  let s := s.onFw Firmware.commit
  s.event 0xE101 (serviceEvent s.now 3 0 0 s.service.fw.version)

/-- COMMS_UPDATE_DONE, step 8; the last engine brings the commitment point (R615). -/
def State.commsUpdateDone (s : State) (ok : Bool) : State :=
  if !s.updating .comms then s
  else
    let s := ((s.setEngine 10 .running).resumeSessions).engineDone .comms ok
    match s.service.fw.activation with
    | some a => if a.rolling.isNone && ok then (s.activated).activationEnds a stDone 0 0 0xFF else s
    | none => s

/-- R616, R617: the waited state has not been reached within UPDATE_WAIT. -/
def State.updateWaitEnds (s : State) : State :=
  match s.service.fw.activation with
  | none => s
  | some a => if a.rolling.isNone && a.current.isNone then s.rollsBack stRefused 0x30 0xFF else s

/-- R616: ABORT before the commitment point; an engine in its update ends that update with the old code. -/
def State.activationAborts (s : State) : State :=
  match s.service.fw.activation with
  | none => s
  | some a => if a.rolling.isNone then s.rollsBack stAborted 0 0xFF else s

/-- R617: MODE 1 at the safe point: the bank is switched and the module resets. -/
def State.activationRestarts (s : State) : State :=
  match s.service.fw.activation with
  | none => s
  | some a => if a.live || a.rolling.isSome || !s.atSafePoint then s else s.activated.powerLost

/-! ## SELFTEST (R618) -/

/-- R618: a doorway can be tested. -/
def State.testable (s : State) (d : DoorIx) : Bool :=
  let w := s.doors[d]
  s.cfg.isFitted d && s.leafRuns d && w.sm.maint.isNone
    && (w.sm.state == .locked || w.sm.state == .released || w.sm.state == .isolated)

/-- R618: a doorway test begins; with DIS made the doorway stays ISOLATED. -/
def startTest (e : DoorEnv) (tests handle : Nat) (w : Work) : Work :=
  if w.dw.sm.state = .isolated ∧ w.dw.dis then w else startMaint e (.selftest tests) handle w

/-- Table 16.4, REFLEX_PATH: row 62 is raised on the drives of a doorway with a test action of TORQUE_OFF, and elsewhere as
the map has it. -/
def State.reflexTest (s : State) (d : DoorIx) : State :=
  drives.foldl (fun s c => s.latchAction 62 0 (if doorOf c = d then .torqueOff else reflexAction s.cfg 62 c) c) s

/-- SELFTEST starts. -/
def State.selftestStarts (s : State) (i : SessIx) (tests mask handle : Nat) : State :=
  let asked := tests % 4 != 0
  let ds := tab 8 (fun d : DoorIx => asked && bitOf mask d.val && s.testable d)
  let skipped := (doorways.filter (fun d => bitOf mask d.val && !ds[d])).length
  let s := { s with service := { s.service with selftest := some ({
    handle := handle, session := i, tests := tests, doors := ds, skipped := skipped, started := s.mono, aborted := false } : SelfTest) } }
  (doorways.filter (fun d => ds[d])).foldl (fun s d =>
    let s := s.runDoor d (fun e w => startTest e tests handle w)
    if bitOf tests 0 then s.reflexTest d else s) s

/-- SELFTEST. -/
def Req.selftest (params : List Byte) (tests mask : Nat) : Req :=
  Req.plain 0x0803 params (decide (params.length = 4)) (fun _ i s =>
    let pairBusy := doorways.any (fun d => bitOf mask d.val && s.testable d && s.service.brambles[pairOf d].running.isSome)
    if s.service.selftest.isSome || pairBusy then s.answers (Answer.busy 0x4A)
    else s.accepts i 0x0803 .selftest noDoors (fun n t => t.selftestStarts i tests mask n))

/-- Only row 62 is latched. -/
def Latch.testOnly (l : Latch) : Bool := l.rows.all (· == 62)

/-- The event of row 62 has ended: the leaf engine releases the latches that it alone raised (R258, R268). -/
def testRelease (e : DoorEnv) (w : Work) : Work :=
  if w.dw.door.latch.testOnly && w.dw.step.latch.testOnly then releaseLatch e w else w

/-- A tested doorway leaves MAINT and settles (R618). -/
def endTest (e : DoorEnv) (w : Work) : Work :=
  let w := testRelease e w
  match w.dw.sm.maint with
  | some m => (match m.op with
    | .selftest _ => doorTick e (w.sm (fun q => { q with maint := none }))
    | .test _ => w
    | .learn => w
    | .home _ => w
    | .update => w)
  | none => w

/-- The legs marked failed. -/
def State.failedLegs (s : State) : Nat := popCount 64 s.service.legMask

/-- R606: FIRMWARE_BANKS passes. -/
def Firmware.banksPass (f : Firmware) : Bool :=
  f.bankValid f.active && (f.banks[f.other].bytes.isEmpty || f.bankValid f.other)

/-- CARTRIDGE passes: capacitance and ESR lie within R620. -/
def Cartridge.passes (q : Cartridge) : Bool := decide (1715 < q.cap) && decide (q.esr < 2 * q.esrInitial)

/-- A measurement of the cartridge with free readings (R556). -/
def State.measuresFreely (s : State) : State :=
  s.measureCartridge ((Config.measured .capacitance s.free).toNat % 65536) ((Config.measured .esr s.free).toNat % 65536)

/-- SELFTEST_COMPLETE: the tests of Table 16.4 have run. The hardware's outcomes (REFLEX_PATH, LEG_TEST with the legs that
fail it, QUINCE_CLOCK, STORE_SCAN and REFLEX_LATENCY_MAX) are its operands. -/
def State.selftestEnds (s : State) (outcome : Nat) (failing : List (Fin 4 × Fin 14)) (latency : Nat) : State :=
  match s.service.selftest with
  | none => s
  | some t =>
    let tested := doorways.filter (fun d => t.doors[d])
    let s := { s with service := { s.service with selftest := none } }
    let s := tested.foldl (fun s d => s.runDoor d endTest) s
    let before := s.failedLegs
    let any := !tested.isEmpty
    let legs := bitOf t.tests 1 && any
    let hit := failing.filter (fun x => let r := legDrive x.1 x.2; t.doors[doorOf r] && s.cfg.driveFitted r)
    let s := if legs then hit.foldl (fun s x => s.legFails x.1 x.2 0) s else s
    let newly : Nat := s.failedLegs - before
    let cart := bitOf t.tests 5 && s.power.cart.fitted
    let s := if cart then s.measuresFreely else s
    let run := [bitOf t.tests 0 && any, legs, bitOf t.tests 2, bitOf t.tests 3, bitOf t.tests 4, cart]
    let bad := [bitOf outcome 0, !hit.isEmpty || bitOf outcome 1, bitOf outcome 2, !s.service.fw.banksPass
      , bitOf outcome 4, !s.power.cart.passes]
    let failed := bitWord (List.zipWith (fun a b => a && b) run bad)
    let s := { s with service := { s.service with testLast := s.now, testFailed := failed } }
    (s.complete t.handle (if t.aborted then stAborted else stDone) 0
      (le 2 (bitWord run) ++ le 2 failed ++ le 1 tested.length ++ le 1 t.skipped
        ++ le 2 (if bitOf t.tests 0 && any then latency else 0) ++ le 1 newly ++ le 1 0 ++ le 2 0
        ++ le 4 (satTo 32 ((s.mono - t.started) / 1000)))).fresh

/-! ## LEG_SUBSTITUTE (R605) -/

/-- R605: a leaf engine of a pair is being updated. -/
def State.pairUpdating (s : State) (p : Fin 4) : Bool := doorways.any (fun d => pairOf d == p && s.updating (.leaf d))

/-- R605, R393: what holds Bramble pair p, or keeps it. -/
def State.pairBusy (s : State) (p : Fin 4) : Bool :=
  s.pairUpdating p || s.service.brambles[p].running.isSome
    || (match s.service.selftest with
      | some t => doorways.any (fun d => pairOf d == p && t.doors[d])
      | none => false)

/-- R605: the refusal of a leg. -/
def Bramble.legRefusal (b : Bramble) (i : SessIx) (leg : Option (Fin 14)) : Option Nat :=
  match leg with
  | some l =>
    if b.state ≠ .free then some 0x68
    else if !b.failed[l] && decide (i.val ≠ 4) then some 0x69
    else none
  | none => if b.state = .free then some 0x69 else if b.state = .failed then some 0x6B else none

/-- LEG_SUBSTITUTE. -/
def Req.legSubstitute (params : List Byte) (pair leg : Nat) : Req :=
  Req.plain 0x0804 params (decide (params.length = 4)) (fun _ i s =>
    let p : Fin 4 := Fin.ofNat 4 pair
    let l : Option (Fin 14) := if h : leg < 14 then some ⟨leg, h⟩ else none
    if 4 ≤ pair ∨ (14 ≤ leg ∧ leg ≠ 0xFF) then s.answers (Answer.refused 0x0C)
    else if !s.pairQuiet p then s.answers (Answer.refused 0x6A)
    else if s.pairBusy p then s.answers (Answer.busy 0x4A)
    else match s.service.brambles[p].legRefusal i l with
      | some x => s.answers (Answer.refused x)
      | none =>
        let b := s.service.brambles[p]
        s.accepts i 0x0804 .legSubstitute noDoors (fun n t =>
          let t := match l with
            | some k => t.onPair p (fun b => b.mark k)
            | none => t
          t.startSub p l (some n) (legDrive p (l.getD (b.leg.getD 0)))))

/-! ## IDENTITY (R626) -/

/-- PART_NUMBER, zero-padded. -/
def partNumber : List Byte := [0x4A, 0x44, 0x38, 0x31, 0x36] ++ List.replicate 11 0

/-- OPERATING_HOURS. -/
def Service.hours (s : Service) : Nat := satTo 32 (s.usOperating / 3600000000)

/-- CART_SERIAL. -/
def Cartridge.serialShown (q : Cartridge) : List Byte := (if q.fitted then q.serial ++ List.replicate 12 0 else List.replicate 12 0).take 12

/-- The payload of IDENTITY. -/
def State.identity (s : State) : List Byte :=
  let v := s.service
  partNumber ++ v.serial.take 16 ++ le 2 v.hwIssue ++ le 2 0 ++ be 6 v.macRing ++ be 6 v.macService ++ le 4 v.fw.banks[(0 : Fin 2)].version
    ++ le 4 v.fw.banks[(1 : Fin 2)].version ++ le 1 v.fw.active.val ++ le 1 v.fw.flagWord ++ le 2 v.testModeEntries
    ++ le 4 s.engines.app.version ++ le 8 s.config.cfgId ++ le 8 v.manufactured ++ le 4 v.hours ++ s.power.cart.serialShown

/-- IDENTITY. -/
def Req.identity (params : List Byte) : Req :=
  { Req.plain 0x0805 params (decide (params.length = 0)) (fun _ _ s => s.answers (Answer.done s.identity)) with keyless := true }

end Sys2Proof.Machine
end

