-- ==== Sys2Proof/Machine/SessionCmds.lean ====
section
/-!
DEFINITION. The commands of group 0x01: opening, closing, authentication, results, ABORT, replay and the command of
doorways (chapter 9).
-/

namespace Sys2Proof.Machine

/-! ## SESSION_OPEN (R379 to R381) -/

/-- The NONCE of a SESSION_OPEN: sixteen free bytes, zeros where the session does not authenticate (R382, R608). -/
def State.freshNonce (s : State) (i : SessIx) : List Byte :=
  if s.needsAuth i then (List.range 16).map (fun k => BitVec.ofInt 8 (Config.measured .nonce (s.free + k)))
  else List.replicate 16 0

/-- SESSION_FLAGS of a session. -/
def State.sessionFlags (s : State) (i : SessIx) : Nat := s.fcp.sessions[i].flagWord s.cfg i s.service.keyUnset

/-- Table 9.11: one outstanding operation. -/
def Operation.listed (o : Operation) : List Byte := le 2 o.handle ++ le 2 o.opcode ++ le 1 o.state.code ++ le 3 0

/-- Table 9.11, with the commanding sessions as R389 leaves them. -/
def State.openPayload (s : State) (i : SessIx) : List Byte :=
  let z := s.fcp.sessions[i]
  let ops := s.fcp.outstanding i
  le 2 z.expected ++ le 2 z.dseqNext ++ le 2 (z.firstKept z.dseqNext) ++ le 1 (s.sessionFlags i) ++ le 1 ops.length
    ++ le 8 s.config.cfgId ++ z.nonce ++ (doorways.map (fun d => le 1 s.doors[d].sm.state.code)).flatten
    ++ (doorways.map (fun d => le 1 s.doors[d].sm.phase.code)).flatten
    ++ (s.fcp.takePrimaries s.cfg s.now i).commanderBytes ++ le 4 s.service.fw.version ++ (ops.map Operation.listed).flatten

/-- The session enters OPEN and takes its primary doorways, with their events, after the reply. -/
def State.opened (s : State) (i : SessIx) (old : SessState) : State :=
  let f := if old = .opened then s.fcp else s.fcp.eventState s.now i old .opened
  { s with fcp := f.takePrimaries s.cfg s.now i }

/-- The session as both kinds of open leave it. -/
def Session.openWith (z : Session) (resumed : Bool) (nonce : List Byte) : Session :=
  { z with state := .opened, resumed := resumed, authenticated := false, authFails := 0, nonce := nonce }

/-- R380: a fresh open. -/
def Session.openFresh (z : Session) (hseq : Nat) : Session :=
  { z.discardStore with expected := seqNext hseq, lastDack := z.dseqNext }

/-- A session opens with a change, and answers. -/
def State.opens (s : State) (i : SessIx) (resumed : Bool) (f : Session → Session) : Reply :=
  let old := s.fcp.sessions[i].state
  let nonce := s.freshNonce i
  let t := (s.onSession i (fun z => (f z).openWith resumed nonce)).fresh
  { state := t, answer := some (Answer.done (t.openPayload i)), after := fun u => u.opened i old }

/-- SESSION_OPEN. -/
def Req.sessionOpen (params : List Byte) (lastHseq lastDseq cfgId : Nat) : Req :=
  Req.plain 0x0101 params (decide (params.length = 12)) (fun h i s =>
    if s.foreign h i then s.answers (Answer.refused 0x4B)
    else if h.resume then
      match s.fcp.sessions[i].resumeRefusal s.config.cfgId lastHseq lastDseq cfgId with
      | some c => s.answers { Answer.refused 0x47 with payload := le 1 c }
      | none => s.opens i true (fun z => { z with lastDack := lastDseq })
    else s.opens i false (Session.openFresh · h.hseq.toNat))

/-! ## SESSION_CLOSE, SESSION_STATE, SESSION_AUTH (R382, R383) -/

/-- SESSION_CLOSE. -/
def Req.sessionClose (params : List Byte) : Req :=
  Req.plain 0x0102 params (decide (params.length = 0)) (fun _ i s =>
    { state := s, answer := some (Answer.done []), after := fun t => t.closeSession i false })

/-- The payload of SESSION_STATE. -/
def State.statePayload (s : State) (i : SessIx) : List Byte :=
  let z := s.fcp.sessions[i]
  le 1 z.state.code ++ le 1 (s.sessionFlags i) ++ le 2 z.expected ++ le 2 z.dseqNext ++ le 2 (z.firstKept z.dseqNext)
    ++ le 2 z.lastDack ++ le 2 z.lostUnacked ++ s.fcp.commanderBytes ++ le 1 (s.fcp.outstanding i).length
    ++ le 1 (s.fcp.commanded i) ++ le 2 0

/-- SESSION_STATE. -/
def Req.sessionState (params : List Byte) : Req :=
  Req.plain 0x0103 params (decide (params.length = 0)) (fun _ i s => s.answers (Answer.done (s.statePayload i)))

/-- The key of a session; session 5 has none. -/
def Service.keyOf (s : Service) (i : SessIx) : Option (List Byte) := if h : i.val < 5 then some s.keys[i.val] else none

/-- R382: the MAC is right. -/
def State.macRight (s : State) (i : SessIx) (mac : List Byte) : Bool :=
  match s.service.keyOf i with
  | none => false
  | some k => (hmacSha256 k (s.fcp.sessions[i].nonce ++ le 1 i.val ++ le 1 1)).take 16 == mac

/-- SESSION_AUTH. -/
def Req.sessionAuth (params mac : List Byte) : Req :=
  Req.plain 0x0104 params (decide (params.length = 16)) (fun _ i s =>
    if s.fcp.sessions[i].authLocked then s.answers (Answer.refused 0x42)
    else if s.macRight i mac then (s.onSession i (fun z => { z with authenticated := true })).answers (Answer.done [])
    else
      let s := s.countFcp (fun k => { k with authFailures := satInc 16 k.authFailures })
      (s.onSession i (fun z => { z with authFails := z.authFails + 1, authLocked := decide (3 ≤ z.authFails + 1) })).answers
        (Answer.refused 0x43))

/-! ## RESULT_FETCH (R373) -/

/-- An outstanding operation of a session by its handle. -/
def State.opOf (s : State) (i : SessIx) (handle : Nat) : Option Operation :=
  s.fcp.ops.find? (fun o => o.handle == handle && o.session == i)

/-- R373: the reply to a fetch of a completed operation. -/
def Operation.fetched (o : Operation) : Answer :=
  { status := o.status, reason := o.reason, handle := o.handle
    payload := le 1 (if o.state = .held then 1 else 0) ++ le 1 0 ++ le 2 o.opcode ++ o.result }

/-- RESULT_FETCH. -/
def Req.resultFetch (params : List Byte) (handle : Nat) : Req :=
  Req.plain 0x0105 params (decide (params.length = 4)) (fun _ i s =>
    match s.opOf i handle with
    | none => s.answers (Answer.refused 0x44)
    | some o =>
      if o.state = .running then s.answers { Answer.notReady with handle := handle }
      else { s with fcp := s.fcp.onOp handle (fun o => { o with state := .held }) }.answers o.fetched)

/-! ## ABORT (R57, R374, R375) -/

/-- One doorway of an aborted operation: it stops, or where its stop is refused it carries on SUPERSEDED (R57). -/
def State.abortDoor (s : State) (handle : Nat) (cause : Cause) (d : DoorIx) : State :=
  match refuseStop (s.doorEnv d) s.doors[d] with
  | some _ =>
    { s with fcp := s.fcp.onOp handle (fun o => { o with doors := o.doors.set d { o.doors[d] with
        outcome := some 4, final := s.doors[d].sm.state.code } }) }
  | none =>
    let t := { s with fcp := s.fcp.onOp handle (fun o => { o with doors := o.doors.set d { o.doors[d] with stopping := true } }) }
    t.runDoor d (fun e => doorTickWith e (doStop e cause false))

/-- The doorway of a maintenance operation. -/
def State.doorOfOp (s : State) (handle : Nat) : Option DoorIx :=
  doorways.find? (fun d => match s.doors[d].sm.maint with
    | some m => m.handle == handle
    | none => false)

/-- ABORT acts on the doorways of a running operation. -/
def State.abortDoors (s : State) (i : SessIx) (o : Operation) (cause : Cause) : State × Answer :=
  let mine := doorways.filter (fun d => o.doors[d].addressed && s.fcp.commander[d] == some i)
  let open_ := mine.filter (fun d => o.doors[d].outcome.isNone)
  if mine.isEmpty then (s, Answer.refused 0x45)
  else ((open_.foldl (fun s d => s.abortDoor o.handle cause d) s).settleOp o.handle, Answer.done [])

/-- R61, R223: the maintenance operation of a doorway has passed its commitment point. -/
def Doorway.maintCommitted (w : Doorway) : Bool :=
  match w.sm.maint with
  | none => false
  | some m => match m.op with
    | .test _ => m.committed
    | .home _ => w.step.job == .parking
    | .learn | .update | .selftest _ => false

/-- ABORT of an operation of maintenance on a doorway. -/
def State.abortMaint (s : State) (i : SessIx) (handle : Nat) (f : DoorEnv → Work → Work) : State × Answer :=
  match s.doorOfOp handle with
  | none => (s, { Answer.done [] with status := stTooLate })
  | some d =>
    if s.fcp.commander[d] ≠ some i then (s, Answer.refused 0x45)
    else if s.doors[d].maintCommitted then (s, { Answer.done [] with status := stTooLate })
    else (s.runDoor d f, Answer.done [])

/-- R412: a commit ends ABORTED. -/
def State.commitAborts (s : State) : State :=
  match s.config.commit with
  | none => s
  | some c =>
    let s := { s with config := { s.config with commit := none } }
    s.complete c.handle stAborted 0
      (commitResult c.cfgId 6 none (satTo 32 ((s.mono - c.waitFrom) / 1000)) (satTo 32 ((s.mono - c.started) / 1000)))

/-- The pair whose manual substitution has a handle. -/
def State.pairOfSub (s : State) (handle : Nat) : Option (Fin 4 × Substitution) :=
  (List.finRange 4).findSome? (fun p => match s.service.brambles[p].running with
    | some u => if u.handle = some handle then some (p, u) else none
    | none => none)

/-- ABORT of a running operation. -/
def State.abortOp (s : State) (i : SessIx) (o : Operation) : State × Answer :=
  match o.kind with
  | .doorOpen | .doorClose | .doorResume => s.abortDoors i o .stopHost
  | .moveTo _ => s.abortDoors i o .stopMove
  | .testCycle | .learn => s.abortMaint i o.handle maintAbort
  | .homeStep => s.abortMaint i o.handle abortHome
  | .cfgCommit => (s.commitAborts, Answer.done [])
  | .incidentErase => (s, { Answer.done [] with status := stTooLate })
  | .powerEnter =>
    ((s.onPower (fun p => { p with entry := p.entry.map (fun n => { n with aborted := true }) })).entryChecks, Answer.done [])
  | .fwActivate => (s.activationAborts, Answer.done [])
  | .selftest =>
    ({ s with service := { s.service with selftest := s.service.selftest.map (fun t => { t with aborted := true }) } }
      , Answer.done [])
  | .legSubstitute => match s.pairOfSub o.handle with
    | some (p, u) => (s.subAborts p u o.handle, Answer.done [])
    | none => (s, { Answer.done [] with status := stTooLate })

/-- ABORT. -/
def Req.abort (params : List Byte) (handle : Nat) : Req :=
  Req.plain 0x0106 params (decide (params.length = 4)) (fun _ i s =>
    match s.opOf i handle with
    | none => s.answers { Answer.refused 0x44 with handle := handle }
    | some o =>
      if o.aborting then s.answers { Answer.done [] with handle := handle }
      else if o.state ≠ .running then s.answers { Answer.done [] with status := stTooLate, handle := handle }
      else
        let r := s.abortOp i o
        let t := if r.2.status = stDone then { r.1 with fcp := r.1.fcp.onOp handle (fun o => { o with aborting := true }) } else r.1
        t.answers { r.2 with handle := handle })

/-! ## EVENT_REPLAY (R371) -/

/-- The payload of EVENT_REPLAY. -/
def Session.replay (z : Session) (from_ max : Nat) : List Byte :=
  let all := (z.eventsAfter from_).map StoredEvent.record
  let taken := takeRecords max 1000 all
  le 2 (z.firstKept z.dseqNext) ++ le 1 taken.length
    ++ le 1 (bitWord [decide (taken.length < all.length), z.replayGap from_]) ++ taken.flatten

/-- EVENT_REPLAY. -/
def Req.eventReplay (params : List Byte) (from_ max : Nat) : Req :=
  Req.plain 0x0107 params (decide (params.length = 4) && decide (1 ≤ max) && decide (max ≤ 64)) (fun _ i s =>
    let z := s.fcp.sessions[i]
    (s.onSession i (fun z => { z with eventsLost := z.eventsLost && z.replayGap from_ })).answers (Answer.done (z.replay from_ max)))

/-! ## COMMAND_CLAIM and COMMAND_YIELD (R389, R390) -/

/-- COMMAND_CLAIM. -/
def Req.commandClaim (params : List Byte) (mask : Nat) : Req :=
  Req.plain 0x0108 params (decide (params.length = 4)) (fun _ i s =>
    let why (d : DoorIx) : Option Nat := if bitOf mask d.val then s.fcp.claimRefusal s.cfg i d else none
    let claimed := doorMask (fun d => bitOf mask d.val && (why d).isNone)
    let refused := doorMask (fun d => (why d).isSome)
    if claimed = 0 ∧ refused ≠ 0 then s.answers (Answer.refused (lowestReason why))
    else
      { state := s, answer := some (Answer.done (le 1 claimed ++ le 1 refused ++ le 2 0))
        after := fun t => { t with fcp := t.fcp.claim t.cfg t.now i mask } })

/-- COMMAND_YIELD. -/
def Req.commandYield (params : List Byte) (mask : Nat) : Req :=
  Req.plain 0x0109 params (decide (params.length = 4)) (fun _ i s =>
    { state := s, answer := some (Answer.done [])
      after := fun t => { t with fcp := t.fcp.setCommanders t.now (fun d =>
        if bitOf mask d.val && t.fcp.commander[d] == some i then none else t.fcp.commander[d]) } })

/-! ## Timers of sessions and results (R356, R370, R373, R376, R382) -/

/-- R376: no valid packet for TAKEOVER_TIME. -/
def State.sessionSilent (s : State) (i : SessIx) : State :=
  if s.commsRuns && s.fcp.sessions[i].state == .opened then { s with fcp := s.fcp.enterState s.now i .silent } else s

/-- R376: SESSION_EXPIRY has passed. -/
def State.sessionExpires (s : State) (i : SessIx) : State :=
  if s.commsRuns && s.fcp.sessions[i].state == .silent then s.closeSession i false else s

/-- R373: a result is discarded in the state it must be in. -/
def State.discardResult (s : State) (handle : Nat) (st : OpState) : State :=
  { s with fcp := { s.fcp with ops := s.fcp.ops.filter (fun o => !(o.handle == handle && o.state == st)) } }

/-- R382: AUTH_LOCKED ends. -/
def State.authLockEnds (s : State) (i : SessIx) : State := s.onSession i (fun z => { z with authLocked := false })

/-- R356: 20 ms between two segments: the partial packet is discarded and counted. -/
def State.partialTimeout (s : State) (i : SessIx) : State :=
  if s.fcp.sessions[i].partialIn.isNone then s
  else (s.onSession i (fun z => { z with partialIn := none, lastSeg := none })).countFcp
    (fun k => { k with discarded := satInc 32 k.discarded })

end Sys2Proof.Machine
end

