-- ==== Sys2Proof/Machine/CfgCmds.lean ====
section
/-!
DEFINITION. The configuration commands CFG_LOAD_BLOCK, CFG_COMMIT and CFG_READ, the safe point and the swap (chapter 10).
-/

namespace Sys2Proof.Machine

/-- CFG_LOAD_BLOCK (R404 to R406). -/
def Req.cfgLoadBlock (params : List Byte) (offset flags : Nat) (block : List Byte) : Req :=
  Req.plain 0x0201 params (blockOk params block) (fun _ i s =>
    let first := bitOf flags 0
    match s.config.stageRefusal i s.mono offset block.length first with
    | some x => s.answers (Answer.refused x)
    | none =>
      if s.config.commit.isSome then s.answers (Answer.busy 0x4A)
      else
        let s := { s with config := s.config.stage i s.mono first block }
        s.answers (Answer.done (le 4 s.config.stagedBytes ++ le 4 s.config.stagedCrc)))

/-! ## CFG_COMMIT (R407 to R413) -/

/-- Milliseconds between two monotonic times. -/
def msBetween (a b : Nat) : Nat := satTo 32 ((b - a) / 1000)

/-- Steps 1 to 5 of Table 10.7, after the reply. -/
def State.commitChecks (s : State) (i : SessIx) (enable previous : Bool) (id handle : Nat) : State :=
  let s := { s with config := { s.config with checkPassed := false } }
  match s.config.check previous id s.service.fw.version with
  | some (step, f) =>
    ({ s with config := s.config.refuse f }).complete handle stRefused f.code (commitResult id step (some f) 0 0)
  | none =>
    if enable then
      { s with config := { s.config with commit := some ({
        handle := handle, session := i, previous := previous, cfgId := id, started := s.mono, waitFrom := s.mono } : Commit) } }
    else ({ s with config := { s.config with checkPassed := true } }).complete handle stDone 0 (commitResult id 5 none 0 0)

/-- CFG_COMMIT. -/
def Req.cfgCommit (params : List Byte) (flags cfgId : Nat) : Req :=
  Req.plain 0x0202 params (decide (params.length = 12)) (fun _ i s =>
    if s.config.commit.isSome then s.answers (Answer.busy 0x4A)
    else s.accepts i 0x0202 .cfgCommit noDoors (fun n t => t.commitChecks i (bitOf flags 0) (bitOf flags 1) cfgId n))

/-- CFG_READ (R423). -/
def Req.cfgRead (params : List Byte) (bank length offset : Nat) : Req :=
  { Req.plain 0x0203 params
      (decide (params.length = 8) && decide (bank ≤ 1) && decide (1 ≤ length) && decide (length ≤ 992)) (fun _ _ s =>
        s.answers (Answer.done (le 4 offset ++ le 2 length ++ le 2 0 ++ s.config.read (bank == 1) offset length))) with
    rights := fun s i => decide (i.val = 4) || s.cfg.sessRightsRead i % 2 ^ 17 == 2 ^ 17 - 1
    zeros := fun _ => List.replicate length (0 : Byte) }

/-! ## The swap (R411, R414, R415) -/

/-- A doorway that the new image makes not fitted is ISOLATED, NOT_FITTED (R16, R60, R415). -/
def becomesUnfitted (e : DoorEnv) (w : Work) : Work :=
  let w := enter e .isolated .none (some .settled) (maintStops 3 0 w)
  drivesOff e (w.smFlags (fun f => { f with isolatedByCmd := false, hasSettled := false }))

/-- What the swap clears in a doorway: kept moves, and learnt values whose settings change (R129, R175, R269). -/
def swapClears (old new : Cfg) (e : DoorEnv) (w : Work) : Work :=
  let w := w.door (fun q => { q with gen := q.gen.discard })
  let w := w.step (fun q => { q with gen := q.gen.discard })
  let w := if changesLearnt old new e.d then
      markSuspect e 0 0 (w.door (fun q => { q with
        flags := { q.flags with learnt := false }, learnt := { q.learnt with makePos := none, breakPos := none } }))
    else w
  if changesEnvelope old new e.d then w.obstFlags (fun f => { f with envLearnt := false, sigLearnt := false }) else w

/-- One doorway at the swap. -/
def State.swapDoor (old new : Cfg) (s : State) (d : DoorIx) : State :=
  let s := s.changeDoor d (swapClears old new)
  if old.isFitted d ∧ !new.isFitted d then s.changeDoor d becomesUnfitted
  else if !old.isFitted d ∧ new.isFitted d then
    s.onDoor d (fun w => { w with sm := { w.sm with since := s.mono, flags := { w.sm.flags with hasSettled := false } } })
  else s

/-- Sessions whose binding or authentication the image changes close (Table 9.10). -/
def State.closeRebound (s : State) (old : Cfg) : State :=
  let new := s.cfg
  sessionIxs.foldl (fun s i =>
    if old.sessTransport i ≠ new.sessTransport i ∨ old.sessSource i ≠ new.sessSource i
      ∨ old.sessAuthRequired i ≠ new.sessAuthRequired i then s.closeSession i false else s) s

/-- The domains that the image needs, and the engines, controllers and ring that come on or go off with them. -/
def State.swapDomains (s : State) (old : Power) : State :=
  let c := s.cfg
  let p := { s.power with domains := tab 10 (fun n => if n.val = 9 then old.on n else domainOn c .run n) }
  let s := { s with power := p }
  { s with
    doors := tab 8 (fun d => if !p.on (leafDomain d) && old.on (leafDomain d) then s.doors[d].unpowered true s.mono else s.doors[d])
    engines := { s.engines with states := tab 12 (fun n =>
      if n.val < 8 then
        let k : Fin 10 := if n.val < 4 then 5 else 6
        if p.on k = old.on k then s.engines.states[n] else bootState p false s.engines.states[n] n
      else s.engines.states[n]) }
    can := if p.on 2 then
        { s.can with channels := tab 2 (fun ch =>
          if old.on 2 then s.can.channels[ch].restore c ch else s.can.channels[ch].powered c ch) }
      else s.can.unpowered
    ring := if p.on 1 then s.ring else s.ring.unpowered }

/-- R411: the new model is in force in the doorways, the domains and the sessions. -/
def State.swapModel (s : State) : State :=
  let old := s.cfg
  let power := s.power
  let s := { s with config := s.config.swap s.now }
  ((doorways.foldl (State.swapDoor old s.cfg) s).swapDomains power).closeRebound old

/-- R411: the commanders of doorways that are not fitted, the keeper's masks and the encoders' counts. -/
def State.swapRest (s : State) : State :=
  { s with
    fcp := s.fcp.setCommanders s.now (fun d => if s.cfg.isFitted d then s.fcp.commander[d] else none)
    loop := { s.loop with masks := some (keeperMasks s.cfg) }
    encoders := tab 2 (fun x => { s.encoders[x] with acc := 0 }) }

/-- Step 7 of Table 10.7: the new image takes effect. -/
def State.swaps (s : State) (m : Commit) : State :=
  let s := s.swapModel.swapRest
  let e := s.config.event s.now 1
  let s := s.event e.1 e.2
  let s := s.complete m.handle stDone 0 (commitResult m.cfgId 7 none (msBetween m.waitFrom s.mono) (msBetween m.started s.mono))
  s.supervise.fresh

/-- SAFE_POINT_FOUND: a waiting commit proceeds to the swap, a waiting FW_ACTIVATE of MODE 1 to the reset (R410, R617). -/
def State.safePoint (s : State) : State :=
  if !s.atSafePoint then s
  else match s.config.commit with
    | some m => s.swaps m
    | none => s.activationRestarts

/-- SAFE_POINT_TIMEOUT: 60 s without the safe point (R410). -/
def State.safePointTimeout (s : State) : State :=
  match s.config.commit with
  | none => s
  | some m =>
    let f := refusedBare 0x30 0xFFFF
    ({ s with config := s.config.refuse f }).complete m.handle stRefused 0x30
      (commitResult m.cfgId 6 (some f) (msBetween m.waitFrom s.mono) (msBetween m.started s.mono))

end Sys2Proof.Machine
end

