-- ==== Sys2Proof/Machine/ObjectDictionary.lean ====
section
/-!
DEFINITION. The object dictionary (R421): the value, type and access of every object that a home chapter defines, and what
a write of each writable object does.
-/

namespace Sys2Proof.Machine

/-- An object as OBJ_READ shows it: its type code (Table 10.12), its bytes, and whether it has a RW, W1C or WO field. -/
structure Obj where
  type  : Nat
  bytes : List Byte
  writable : Bool
  deriving DecidableEq, Repr

/-- u8. -/
def ou8 (v : Nat) : Obj := ⟨0x01, le 1 v, false⟩
/-- u16. -/
def ou16 (v : Nat) : Obj := ⟨0x02, le 2 v, false⟩
/-- u32. -/
def ou32 (v : Nat) : Obj := ⟨0x03, le 4 v, false⟩
/-- u64. -/
def ou64 (v : Nat) : Obj := ⟨0x04, le 8 v, false⟩
/-- i16. -/
def oi16 (v : Int) : Obj := ⟨0x06, leInt 2 v, false⟩
/-- i32. -/
def oi32 (v : Int) : Obj := ⟨0x07, leInt 4 v, false⟩
/-- An array of n bytes in all. -/
def oarr (n : Nat) (b : List Byte) : Obj := ⟨0x10, (b ++ List.replicate n 0).take n, false⟩
/-- An object with a field that OBJ_WRITE writes (Table 0.3). -/
def Obj.rw (o : Obj) : Obj := { o with writable := true }

/-! ## Image-set objects (R402) -/

/-- Image-set objects of +0x00 of a doorway. -/
def door00Settings (c : Cfg) (d : DoorIx) (sub : Nat) : Option Obj :=
  match sub with
  | 0x01 => some (ou8 (c.fitted d))
  | 0x02 => some (ou8 (c.side d))
  | 0x03 => some (ou8 (c.position d))
  | _ => none

/-- Image-set objects of +0x03 of a doorway. -/
def door03Settings (c : Cfg) (d : DoorIx) (sub : Nat) : Option Obj :=
  match sub with
  | 0x01 => some (ou8 (c.openMode d))
  | 0x02 => some (ou32 (c.dwell d))
  | 0x03 => some (ou32 (c.preCloseWarn d))
  | 0x04 => some (ou8 (c.reopenOnDemand d))
  | 0x05 => some (ou32 (c.unlockTimeout d))
  | 0x06 => some (ou32 (c.lockTimeout d))
  | 0x07 => some (ou8 (c.lockRetries d))
  | 0x08 => some (ou8 (c.stepFitted d))
  | _ => none

/-- Image-set objects of 0x1100. -/
def module1100Settings (c : Cfg) (sub : Nat) : Option Obj :=
  match sub with
  | 0x01 => some (ou8 c.carOrient)
  | 0x02 => some (ou32 c.orientSettle)
  | _ => none

/-- Image-set objects of 0x1200. -/
def module1200Settings (c : Cfg) (sub : Nat) : Option Obj :=
  match sub with
  | 0x01 => some (ou32 c.relSettle)
  | 0x02 => some (ou32 c.zspdDiscrepTime)
  | 0x03 => some (ou32 c.loopDisagreeTime)
  | 0x04 => some (ou32 c.loopRbTime)
  | 0x05 => some (ou8 c.loopRbFitted)
  | 0x06 => some (ou8 c.weldBlocksRelease)
  | _ => none

/-- Image-set objects of 0x1300 and on. -/
def encSettings (c : Cfg) (x : Fin 2) (sub : Nat) : Option Obj :=
  match sub with
  | 0x01 => some (ou8 (c.encSourceDrive x))
  | 0x02 => some (ou16 (c.encRatioN x))
  | 0x03 => some (ou16 (c.encRatioM x))
  | 0x04 => some (ou8 (c.encInvert x))
  | _ => none

/-- Image-set objects of +0x20 of a doorway. -/
def door20Settings (c : Cfg) (d : DoorIx) (sub : Nat) : Option Obj :=
  match sub with
  | 0x01 => some (ou16 (c.edgePitch d))
  | 0x02 => some (ou8 (c.hallSequence d))
  | 0x03 => some (oi16 (c.hallOffset d))
  | 0x04 => some (ou16 (c.motorR d))
  | 0x05 => some (ou16 (c.motorL d))
  | 0x06 => some (ou32 (c.closedWindow d))
  | 0x07 => some (ou32 (c.vCreep d))
  | 0x08 => some (ou32 (c.sealStallTime d))
  | 0x09 => some (ou32 (c.sealSeekMax d))
  | _ => none

/-- Image-set objects of +0x21 of a doorway. -/
def door21Settings (c : Cfg) (d : DoorIx) (sub : Nat) : Option Obj :=
  match sub with
  | 0x01 => some (ou16 (c.iLimit d))
  | 0x02 => some (ou16 (c.iLow d))
  | 0x03 => some (ou16 (c.iSeal d))
  | 0x04 => some (ou16 (c.iLockPush d))
  | 0x05 => some (ou16 (c.iPreload d))
  | 0x06 => some (ou16 (c.iHold d))
  | 0x07 => some (ou16 (c.iTrip d))
  | _ => none

/-- Image-set objects of +0x22 of a doorway. -/
def door22Settings (c : Cfg) (d : DoorIx) (sub : Nat) : Option Obj :=
  match sub with
  | 0x01 => some (ou16 (c.kpPos d))
  | 0x02 => some (ou16 (c.kv d))
  | 0x03 => some (ou16 (c.kiVel d))
  | 0x04 => some (ou16 (c.kffAcc d))
  | 0x05 => some (ou16 (c.kfriction d))
  | 0x06 => some (ou16 (c.curBw d))
  | 0x07 => some (ou32 (c.followErrMax d))
  | 0x08 => some (ou32 (c.followErrTime d))
  | _ => none

/-- Image-set objects of +0x28 of a doorway. -/
def door28Settings (c : Cfg) (d : DoorIx) (sub : Nat) : Option Obj :=
  match sub with
  | 0x01 => some (ou16 (c.motorRStep d))
  | 0x02 => some (ou16 (c.motorLStep d))
  | 0x03 => some (ou16 (c.keStep d))
  | 0x04 => some (ou16 (c.iRun d))
  | 0x05 => some (ou16 (c.iStepLow d))
  | 0x06 => some (ou16 (c.iHome d))
  | 0x07 => some (ou16 (c.iStepHold d))
  | 0x08 => some (ou16 (c.hystBand d))
  | 0x09 => some (ou8 (c.stepDirection d))
  | _ => none

/-- Image-set objects of +0x29 of a doorway. -/
def door29Settings (c : Cfg) (d : DoorIx) (sub : Nat) : Option Obj :=
  match sub with
  | 0x01 => some (oi32 (c.homeStartPos d))
  | 0x02 => some (ou32 (c.homeSpeed d))
  | 0x03 => some (ou32 (c.homeOvertravel d))
  | 0x04 => some (ou16 (c.stallAngle d))
  | 0x05 => some (ou8 (c.stallEmf d))
  | 0x06 => some (ou8 (c.stallSteps d))
  | 0x07 => some (ou16 (c.srsOffsetTol d))
  | 0x08 => some (ou8 (c.stepSequence d))
  | 0x09 => some (ou16 (c.deployWindow d))
  | 0x0A => some (ou8 (c.stepRetries d))
  | 0x0B => some (ou32 (c.stepRetryPause d))
  | _ => none

/-- Image-set objects of +0x30 of a doorway. -/
def door30Settings (c : Cfg) (d : DoorIx) (sub : Nat) : Option Obj :=
  match sub with
  | 0x01 => some (ou16 (c.kt d))
  | 0x02 => some (ou32 (c.transLead d))
  | 0x03 => some (ou8 (c.transEff d))
  | 0x04 => some (ou16 (c.fricCoulomb d))
  | 0x05 => some (ou16 (c.fricViscous d))
  | 0x06 => some (ou16 (c.forceCeiling d))
  | 0x07 => some (ou8 (c.envK d))
  | 0x08 => some (ou16 (c.envMarginMin d))
  | 0x09 => some (ou16 (c.envSigmaMax d))
  | 0x0A => some (oi16 (c.envTempCoef d))
  | 0x0B => some (ou8 (c.envSpeedCoef d))
  | 0x0C => some (ou8 (c.envConfirm d))
  | 0x0D => some (ou32 (c.envBreakawayTime d))
  | 0x0E => some (ou32 (c.envStroke d))
  | 0x0F => some (ou8 (c.envAdapt d))
  | _ => none

/-- Image-set objects of +0x31 of a doorway. -/
def door31Settings (c : Cfg) (d : DoorIx) (sub : Nat) : Option Obj :=
  match sub with
  | 0x01 => some (ou8 (c.sigEnable d))
  | 0x02 => some (ou8 (c.sigEnergyTol d))
  | 0x03 => some (ou16 (c.sigEnergyFloor d))
  | 0x04 => some (ou8 (c.sigTimeTol d))
  | 0x05 => some (ou8 (c.sigStretchEdges d))
  | _ => none

/-- Image-set objects of +0x32 of a doorway. -/
def door32Settings (c : Cfg) (d : DoorIx) (sub : Nat) : Option Obj :=
  match sub with
  | 0x01 => some (ou8 (c.reopenMode d))
  | 0x02 => some (ou32 (c.reopenDistance d))
  | 0x03 => some (ou32 (c.reopenDwell d))
  | 0x04 => some (ou8 (c.obstacleLimit d))
  | 0x05 => some (ou16 (c.se1Filter d))
  | 0x06 => some (ou16 (c.se2Filter d))
  | _ => none

/-- Image-set objects of 0x4000 and on. -/
def chanSettings (c : Cfg) (n : ChanIx) (sub : Nat) : Option Obj :=
  match sub with
  | 0x01 => some (ou8 (c.chFunction n))
  | 0x02 => some (ou8 (c.chLoadType n))
  | 0x03 => some (ou8 (c.chGroupLeader n))
  | 0x04 => some (ou8 (c.chGroupSize n))
  | 0x05 => some (ou16 (c.chOcLimit n))
  | 0x06 => some (ou32 (c.chOcTime n))
  | 0x07 => some (ou16 (c.chInrushWindow n))
  | 0x08 => some (ou8 (c.chRetryCount n))
  | 0x09 => some (ou32 (c.chRetryBackoff n))
  | 0x0A => some (ou8 (c.chFailsafe n))
  | 0x0B => some (ou8 (c.chStableMode n))
  | 0x0C => some (ou8 (c.chOpenTest n))
  | 0x0D => some (ou16 (c.chOpenOnI n))
  | 0x0E => some (ou16 (c.chStateOnMask n))
  | 0x0F => some (ou16 (c.chStateFlashMask n))
  | 0x10 => some (ou8 (c.chHeatSense n))
  | 0x11 => some (ou32 (c.chHeatRRef n))
  | 0x12 => some (ou16 (c.chHeatAlpha n))
  | 0x13 => some (oi16 (c.chHeatSetpoint n))
  | 0x14 => some (ou16 (c.chHeatBand n))
  | _ => none

/-- Image-set objects of 0x1500. -/
def module1500Settings (c : Cfg) (sub : Nat) : Option Obj :=
  match sub with
  | 0x01 => some (ou32 c.lswWdTime)
  | _ => none

/-- Image-set objects of 0x4100 and on. -/
def groupSettings (c : Cfg) (g : GroupIx) (sub : Nat) : Option Obj :=
  match sub with
  | 0x01 => some (ou8 (c.grpClass g))
  | 0x02 => some (ou16 (c.grpPolarity g))
  | 0x03 => some (ou16 (c.grpEolMask g))
  | 0x04 => some (ou8 (c.grpTlMode g))
  | _ => none

/-- Image-set objects of 0x4200 and on. -/
def outpSettings (c : Cfg) (k : OutIx) (sub : Nat) : Option Obj :=
  match sub with
  | 0x01 => some (ou8 (c.outSource k))
  | 0x02 => some (ou8 (c.outSourceParam k))
  | 0x03 => some (ou8 (c.outInvert k))
  | 0x04 => some (ou8 (c.outPaired k))
  | 0x05 => some (ou8 (c.outSafe k))
  | 0x06 => some (ou8 (c.outStable k))
  | _ => none

/-- Image-set objects of 0x8000 and on. -/
def sessSettings (c : Cfg) (i : SessIx) (sub : Nat) : Option Obj :=
  match sub with
  | 0x02 => some (ou8 (c.sessTransport i))
  | 0x03 => some (ou32 (c.sessSource i))
  | 0x04 => some (ou8 (c.sessAuthRequired i))
  | 0x05 => some (ou16 (c.sessRightsGroups i))
  | 0x06 => some (ou32 (c.sessRightsRead i))
  | 0x07 => some (ou32 (c.sessRightsWrite i))
  | 0x08 => some (ou8 (c.sessDoorPrimary i))
  | 0x09 => some (ou8 (c.sessDoorStandby i))
  | _ => none

/-- Image-set objects of 0x8008. -/
def module8008Settings (c : Cfg) (sub : Nat) : Option Obj :=
  match sub with
  | 0x01 => some (ou32 c.takeoverTime)
  | 0x02 => some (ou32 c.sessionExpiry)
  | 0x03 => some (ou16 c.serviceUdpPort)
  | _ => none

/-- Image-set objects of 0x5000. -/
def module5000Settings (c : Cfg) (sub : Nat) : Option Obj :=
  match sub with
  | 0x01 => some (ou8 c.ringEnable)
  | 0x02 => some (ou8 c.ringAddress)
  | 0x03 => some (ou8 c.ringKeepStable)
  | 0x04 => some (ou8 c.ringWake)
  | _ => none

/-- Image-set objects of 0x5100 and on. -/
def canSettings (c : Cfg) (ch : CanIx) (sub : Nat) : Option Obj :=
  match sub with
  | 0x01 => some (ou8 (c.canEnable ch))
  | 0x02 => some (ou16 (c.canNomRate ch))
  | 0x03 => some (ou16 (c.canNomSp ch))
  | 0x04 => some (ou16 (c.canDataRate ch))
  | 0x05 => some (ou16 (c.canDataSp ch))
  | 0x06 => some (ou8 (c.canTerm ch))
  | 0x07 => some (ou8 (c.canTxOrder ch))
  | 0x08 => some (ou8 (c.canBusoffAuto ch))
  | 0x09 => some (ou8 (c.canWake ch))
  | 0x0A => some (ou8 (c.canOwner ch))
  | _ => none

/-- Image-set objects of 0x5300 and on. -/
def mobjSettings (c : Cfg) (m : Fin 64) (sub : Nat) : Option Obj :=
  match sub with
  | 0x01 => some (ou8 (c.objChannel m))
  | 0x02 => some (ou32 (c.objId m))
  | 0x03 => some (ou8 (c.objFormat m))
  | 0x04 => some (ou8 (c.objLength m))
  | 0x05 => some (ou8 (c.dataSource m))
  | _ => none

/-- Image-set objects of 0x6000. -/
def module6000Settings (c : Cfg) (sub : Nat) : Option Obj :=
  match sub with
  | 0x01 => some (ou16 c.incPreSamples)
  | 0x02 => some (ou16 c.incCauseMask)
  | 0x03 => some (ou8 c.logWarnPct)
  | _ => none

/-- Image-set objects of 0x7000. -/
def module7000Settings (c : Cfg) (sub : Nat) : Option Obj :=
  match sub with
  | 0x01 => some (ou16 c.retainMask)
  | 0x02 => some (ou16 c.wakeEnable)
  | 0x03 => some (ou32 c.stableHoldupTime)
  | 0x04 => some (ou16 c.holdupReserve)
  | _ => none

/-- Image-set objects of 0x1702. -/
def module1702Settings (c : Cfg) (sub : Nat) : Option Obj :=
  match sub with
  | 0x03 => some (ou8 c.appAutostart)
  | 0x04 => some (ou8 c.appAutorestart)
  | 0x05 => some (ou32 c.appWdTime)
  | _ => none

/-- Image-set objects of 0x1010. -/
def module1010Settings (c : Cfg) (sub : Nat) : Option Obj :=
  match sub with
  | 0x05 => some (ou32 c.updateWait)
  | _ => none

/-- Image-set objects of 0x1020. -/
def module1020Settings (c : Cfg) (sub : Nat) : Option Obj :=
  match sub with
  | 0x09 => some (ou8 c.subAuto)
  | _ => none

/-- Limits of a drive, +0x11 and +0x19 (Table 3.13). -/
def limitSettings (c : Cfg) (r : DriveIx) (sub : Nat) : Option Obj :=
  match sub with
  | 0x01 => some (ou32 (c.vMax r))
  | 0x02 => some (ou32 (c.aReplan r))
  | 0x03 => some (ou32 (c.dReplan r))
  | 0x04 => some (ou32 (c.jReplan r))
  | 0x05 => some (ou32 (c.dMax r))
  | 0x06 => some (ou32 (c.vReplan r))
  | 0x07 => some (ou32 (c.keMax r))
  | 0x08 => some (ou32 (c.movingMass r))
  | 0x09 => some (oi32 (c.softMin r))
  | 0x0A => some (oi32 (c.softMax r))
  | 0x0B => some (oi32 (c.partialOpenMin r))
  | _ => none

/-! ## Doorways (R67, R146, R185, R225, R270) -/

/-- A free measurement. -/
def State.meter (s : State) (q : Quantity) (n : Nat) : Int := Config.measured q (s.free + n)

/-- +0x01 DOOR_STATE (Table 1.14). -/
def doorStateObj (e : DoorEnv) (w : Doorway) (sub : Nat) : Option Obj :=
  match sub with
  | 0x01 => some (ou8 w.sm.state.code)
  | 0x02 => some (ou8 w.sm.phase.code)
  | 0x03 => some (ou8 w.sm.cause.code)
  | 0x04 => some (ou32 (doorFlagWord e w)).rw
  | 0x05 => some (ou8 w.sm.prev.code)
  | 0x06 => some (ou64 w.sm.entered)
  | 0x07 => some (ou8 (min w.sm.obstacles 255))
  | _ => none

/-- +0x04 counters. -/
def doorCountObj (q : DoorCounters) (sub : Nat) : Option Obj :=
  match sub with
  | 0x01 => some (ou32 q.cycles)
  | 0x02 => some (ou32 q.obstacles)
  | 0x03 => some (ou16 q.unlockFails)
  | 0x04 => some (ou16 q.lockFails)
  | 0x05 => some (ou16 q.egressEvents)
  | 0x06 => some (ou16 q.ignoredDemands)
  | _ => none

/-- +0x10 and +0x18: the motion state of a drive (Table 3.13). -/
def motionObj (g : Gen) (e : GenEnv) (sub : Nat) : Option Obj :=
  match sub with
  | 0x01 => some (ou8 g.state.code)
  | 0x02 => some (oi32 (g.present e).pos)
  | 0x03 => some (oi32 (g.present e).vel)
  | 0x04 => some (oi32 g.target)
  | 0x05 => some (oi32 g.remaining)
  | 0x06 => some (ou16 (match g.activeContext with | some n => n.val | none => 0xFFFF))
  | 0x07 => some (ou8 g.segment)
  | 0x08 => some (ou32 g.flagWord).rw
  | _ => none

/-- +0x12 and +0x1A: the context map and ROLE_SELECT. -/
def roleObj (c : Cfg) (r : DriveIx) (g : Gen) (sub : Nat) : Option Obj :=
  if 1 ≤ sub ∧ sub ≤ 0x10 then some (ou16 (match c.contextMap r (sub - 1) with | some n => n.val | none => 0xFFFF))
  else if sub = 0x11 then some (ou16 g.roleSelect).rw
  else none

/-- +0x13 and +0x1B: the position compare. -/
def compareObj (q : Compare) (sub : Nat) : Option Obj :=
  match sub with
  | 0x01 => some (oi32 q.position)
  | 0x02 => some (ou8 q.mode)
  | 0x03 => some (ou8 q.direction)
  | 0x04 => some (ou8 q.actions)
  | 0x05 => some (ou8 (bitWord [q.behind, q.armed]))
  | 0x06 => some (ou32 q.hyst)
  | 0x07 => some (ou32 q.fireCount)
  | 0x08 => some (ou64 q.lastFired)
  | _ => none

/-- +0x23: what the door drive has learnt. -/
def learntObj (q : Learnt) (sub : Nat) : Option Obj :=
  match sub with
  | 0x01 => some (oi32 (q.makePos.getD 0))
  | 0x02 => some (oi32 (q.breakPos.getD 0))
  | 0x03 => some (oi32 q.lastCorrection)
  | 0x04 => some (oi32 q.lastShift)
  | 0x05 => some (ou64 q.lastRelearn)
  | _ => none

/-- +0x24: the door drive (Table 4.8). -/
def doorDriveObj (e : DoorEnv) (w : Doorway) (sub : Nat) : Option Obj :=
  match sub with
  | 0x01 => some (oi32 (doorPos e.cfg e.d w.door.hall))
  | 0x02 => some (oi32 w.door.hall.velocity)
  | 0x03 => some (ou8 w.door.hall.code)
  | 0x04 => some (oi16 w.door.iqCmd)
  | 0x05 => some (oi16 w.door.loop.iq)
  | 0x06 => some (oi16 w.door.loop.id)
  | 0x07 => some (oi32 e.dcLink)
  | 0x08 => some (oi16 w.door.bridgeTemp)
  | 0x09 => some (ou32 (driveFlagWord e w)).rw
  | 0x0A => some (ou8 w.door.faultCode)
  | 0x0B => some (ou16 (w.door.gen.scale e))
  | _ => none

/-- +0x25: the door drive's counters. -/
def driveCountObj (q : DriveCounters) (sub : Nat) : Option Obj :=
  match sub with
  | 0x01 => some (ou32 q.corrections)
  | 0x02 => some (ou16 q.relearns)
  | 0x03 => some (ou32 q.glitches)
  | 0x04 => some (ou16 q.skips)
  | 0x05 => some (ou16 q.dropouts)
  | 0x06 => some (ou16 q.interruptions)
  | 0x07 => some (ou16 q.faults)
  | _ => none

/-- +0x2A: what the step drive has learnt. -/
def stepLearntObj (q : StepDrive) (sub : Nat) : Option Obj :=
  match sub with
  | 0x01 => some (oi32 q.srsOffset)
  | 0x02 => some (oi32 q.lastShift)
  | 0x03 => some (ou64 q.lastHome)
  | _ => none

/-- +0x2B: the step drive (Table 5.6). -/
def State.stepDriveObj (s : State) (e : DoorEnv) (w : Doorway) (sub : Nat) : Option Obj :=
  let n := (stepDrive e.d).val
  match sub with
  | 0x01 => some (oi32 w.step.reads)
  | 0x02 => some (ou8 w.step.readsElec)
  | 0x03 => some (ou8 w.step.resolutionNow)
  | 0x04 => some (oi16 (s.meter .coilCurrent n))
  | 0x05 => some (oi16 (s.meter .coilCurrent (n + 16)))
  | 0x06 => some (oi16 w.step.loadAngle)
  | 0x07 => some (ou16 w.step.load.emf)
  | 0x08 => some (oi16 w.step.bridgeTemp)
  | 0x09 => some (ou32 (stepFlagWord e w)).rw
  | 0x0A => some (ou8 w.step.faultCode)
  | 0x0B => some (ou16 (w.step.gen.scale e))
  | _ => none

/-- +0x2C: the step drive's counters. -/
def stepCountObj (q : StepCounters) (sub : Nat) : Option Obj :=
  match sub with
  | 0x01 => some (ou32 q.homings)
  | 0x02 => some (ou32 q.stalls)
  | 0x03 => some (ou16 q.lostSteps)
  | 0x04 => some (ou16 q.chatters)
  | 0x05 => some (ou16 q.deployFails)
  | 0x06 => some (ou16 q.retractRetries)
  | 0x07 => some (ou16 q.interruptions)
  | 0x08 => some (ou16 q.faults)
  | _ => none

/-- +0x33: obstacle detection (Table 6.10). -/
def State.obstObj (s : State) (w : Doorway) (sub : Nat) : Option Obj :=
  match sub with
  | 0x01 => some (ou32 (obstFlagWord w)).rw
  | 0x02 => some (oi16 w.obst.lastEffort)
  | 0x03 => some (oi16 w.obst.lastLimit)
  | 0x04 => some (oi32 w.obst.lastTripPos)
  | 0x05 => some (ou64 w.obst.lastTripTime)
  | 0x06 => some (ou8 w.obst.lastTripSource)
  | 0x07 => some (oi16 (s.meter .baseplate 0))
  | 0x08 => some (ou32 w.obst.sigEnergy)
  | _ => none

/-- +0x34: the learnt signature. -/
def signatureObj (q : Signature) (sub : Nat) : Option Obj :=
  match sub with
  | 0x01 => some (oi16 q.tLearn)
  | 0x02 => some (ou64 q.learnTime)
  | 0x03 => some (ou32 q.wSig)
  | 0x04 => some (ou16 q.nClose)
  | 0x05 => some (ou32 q.adaptStrokes)
  | _ => none

/-- +0x35: obstacle counters. -/
def obstCountObj (q : ObstCounters) (sub : Nat) : Option Obj :=
  match sub with
  | 0x01 => some (ou32 q.seTrips)
  | 0x02 => some (ou32 q.envTrips)
  | 0x03 => some (ou16 q.sigTrips)
  | 0x04 => some (ou16 q.obstructions)
  | 0x05 => some (ou16 q.learns)
  | 0x06 => some (ou16 q.sePathFaults)
  | _ => none

/-- +0x36: 64 bins of an envelope. -/
def binsObj (w : Doorway) (sub : Nat) : Option Obj :=
  let quarter (l : List Nat) (k : Nat) : Obj := oarr 512 (((l.drop (64 * k)).take 64).flatMap (le 8))
  if 1 ≤ sub ∧ sub ≤ 4 then some (quarter w.obst.closeEnv.bins (sub - 1))
  else if 5 ≤ sub ∧ sub ≤ 8 then some (quarter w.obst.openEnv.bins (sub - 5))
  else none

/-- The objects of a doorway at an offset from 0x2000 + d × 0x100. -/
def State.doorObj (s : State) (d : DoorIx) (off sub : Nat) : Option Obj :=
  let e := s.doorEnv d
  let w := s.doors[d]
  let c := s.cfg
  match off with
  | 0x00 =>
    if sub = 4 then
      some (ou8 (match s.loop.orientation s.loopEnv with
        | 0 => 0xFF
        | code => if (decide (c.side d = 0)) == leftIsA code c.carOrient then 0 else 1))
    else door00Settings c d sub
  | 0x01 => doorStateObj e w sub
  | 0x02 => match sub with
    | 0x01 => some (ou16 w.inp.raw.toNat)
    | 0x02 => some (ou16 w.inp.filtered.toNat)
    | _ => none
  | 0x03 => door03Settings c d sub
  | 0x04 => doorCountObj w.sm.counters sub
  | 0x05 => if sub = 1 then some (ou8 w.sm.flags.isolatedByCmd.toNat) else none
  | 0x10 => motionObj w.door.gen (doorEnvOf e w) sub
  | 0x11 => limitSettings c (doorDrive d) sub
  | 0x12 => roleObj c (doorDrive d) w.door.gen sub
  | 0x13 => compareObj w.door.gen.compare sub
  | 0x18 => motionObj w.step.gen (stepEnvOf e w false) sub
  | 0x19 => limitSettings c (stepDrive d) sub
  | 0x1A => roleObj c (stepDrive d) w.step.gen sub
  | 0x1B => compareObj w.step.gen.compare sub
  | 0x20 => door20Settings c d sub
  | 0x21 => door21Settings c d sub
  | 0x22 => door22Settings c d sub
  | 0x23 => learntObj w.door.learnt sub
  | 0x24 => doorDriveObj e w sub
  | 0x25 => driveCountObj w.door.counters sub
  | 0x28 => door28Settings c d sub
  | 0x29 => door29Settings c d sub
  | 0x2A => stepLearntObj w.step sub
  | 0x2B => s.stepDriveObj e w sub
  | 0x2C => stepCountObj w.step.counters sub
  | 0x30 => door30Settings c d sub
  | 0x31 => door31Settings c d sub
  | 0x32 => door32Settings c d sub
  | 0x33 => s.obstObj w sub
  | 0x34 => signatureObj w.obst.signature sub
  | 0x35 => obstCountObj w.obst.counters sub
  | 0x36 => binsObj w sub
  | 0x37 => if sub = 1 then some (oarr 128 (w.obst.signature.ratios.flatMap (le 2))) else none
  | _ => none

/-! ## Contexts, the loop, encoders and Quince -/

/-- Bytes from number i on under a mask for each number: a reserved bit reads zero (R9). -/
def maskedFrom (mask : Nat → Nat) : Nat → List Byte → List Byte
  | _, [] => []
  | i, b :: bs => (b &&& BitVec.ofNat 8 (mask i)) :: maskedFrom mask (i + 1) bs

/-- The bits of byte i of a context that are not reserved (Tables 3.4 to 3.7). -/
def contextBits (i : Nat) : Nat :=
  if i < 16 then (if i = 2 then 7 else if i = 3 ∨ 12 ≤ i then 0 else 255)
  else if i % 16 = 12 then 7 else if 13 ≤ i % 16 then 0 else 255

/-- The bits of byte i of a schedule that are not reserved (Table 12.3). -/
def scheduleBits (i : Nat) : Nat := if 11 ≤ i ∧ i < 16 then 0 else 255

/-- The drive and slot that a context is assigned to (R111). -/
def contextPlace (c : Cfg) (n : Nat) : Option (DriveIx × Nat) :=
  ((assignments c).find? (fun x => x.1.val == n)).map (fun x => x.2)

/-- 0x3000 + n: profile contexts of the live pool (Table 10.11). -/
def State.contextObj (s : State) (n : CtxIx) (sub : Nat) : Option Obj :=
  match sub with
  | 0x01 => some { oarr 528 (maskedFrom contextBits 0 ((poolBytes s.config.pool n.val).getD [])) with type := 0x11 }
  | 0x02 => some (ou8 (match contextPlace s.cfg n.val with | some p => p.1.val | none => 0xFF))
  | 0x03 => some (ou8 (match contextPlace s.cfg n.val with | some p => p.2 | none => 0xFF))
  | _ => none

/-- 0x1100. -/
def State.carObj (s : State) (sub : Nat) : Option Obj :=
  let code := s.loop.orientation s.loopEnv
  match sub with
  | 0x03 => some (ou8 code)
  | 0x04 => some (ou8 (if code = 0 then 0xFF else if leftIsA code s.cfg.carOrient then 0 else 1))
  | _ => module1100Settings s.cfg sub

/-- 0x1201 LOOP_STATE. -/
def State.loopObj (s : State) (sub : Nat) : Option Obj :=
  let e := s.loopEnv
  match sub with
  | 0x01 => some (ou32 (s.loop.flagWord e))
  | 0x02 => some (ou8 (supvFullMask e))
  | 0x03 => some (ou8 (supvSwitchMask e))
  | 0x04 => some (ou8 (s.loop.keeperMask e))
  | 0x05 => some (ou8 (s.loop.permits e))
  | 0x06 => some (ou64 s.loop.changedAt)
  | _ => none

/-- 0x1202 loop counters. -/
def loopCountObj (q : LoopCounters) (sub : Nat) : Option Obj :=
  match sub with
  | 0x01 => some (ou32 q.openings)
  | 0x02 => some (ou16 q.discrepancies)
  | 0x03 => some (ou16 q.bypasses)
  | 0x04 => some (ou32 (satTo 32 (q.bypassTime / 1000000)))
  | 0x05 => some (ou16 q.rbFaults)
  | 0x06 => some (ou16 q.blocked)
  | 0x07 => some (ou16 q.zspdFaults)
  | _ => none

/-- The map word of a Quince row in force. -/
def rowWord (c : Cfg) (row : RowIx) : Nat :=
  match c.reflexRow row with
  | some w => w
  | none => drives.foldl (fun a r => a + (reflexAction c row r).code * 4 ^ r.val) 0

/-- The latch of a drive. -/
def State.latchOf (s : State) (r : DriveIx) : Latch :=
  let w := s.doors[doorOf r]
  if isStep r then w.step.latch else w.door.latch

/-- 0x1401 REFLEX_STATE. -/
def State.reflexObj (s : State) (sub : Nat) : Option Obj :=
  match sub with
  | 0x01 => some (ou16 (bitWord (drives.map (fun r => (s.latchOf r).action != .none))))
  | 0x02 => some (ou16 (bitWord (drives.map (fun r => (s.latchOf r).action == .reversal))))
  | 0x03 => some (ou8 (bitWord [s.quince.oscillator, s.power.ready && !s.quince.oscillator]))
  | _ => none

/-! ## Load channels, inputs and outputs -/

/-- 0x4000 + n: a load channel (Table 7.8). -/
def State.chanObj (s : State) (n : ChanIx) (sub : Nat) : Option Obj :=
  let c := s.cfg
  let q := s.lsw.chans[n]
  let l := s.lsw.chans[leaderOf c n]
  match sub with
  | 0x20 => some (ou32 (s.lsw.flagWord c s.free n)).rw
  | 0x21 => some (oi16 (if l.on then currentReading s.free n else 0))
  | 0x22 => some (oi16 (if isLeader c n && l.on then
      ((membersOf c n).foldl (fun a m => a + currentReading s.free m) 0 : Nat) else 0))
  | 0x23 => some (oi32 (s.meter .outVoltage n.val))
  | 0x24 => some (oi16 (s.meter .switchTemp n.val))
  | 0x25 => some (ou8 l.retriesLeft)
  | 0x26 => some (oi16 (if selfSensing c n then l.heater.temp else 0))
  | 0x27 => some (ou32 (if selfSensing c n then l.heater.resistance else 0))
  | 0x28 => some (ou8 (match q.diag.partner with | some m => m.val | none => 0xFF))
  | 0x30 => some (ou32 q.counters.onCount)
  | 0x31 => some (ou16 q.counters.ocTrips)
  | 0x32 => some (ou16 q.counters.thermals)
  | 0x33 => some (ou16 q.counters.openLoads)
  | 0x34 => some (ou32 (satTo 32 (q.counters.onTime / 1000000)))
  | 0x35 => some (ou16 q.counters.extensions)
  | _ => chanSettings c n sub

/-- 0x1500: the load-switch link. -/
def State.linkObj (s : State) (sub : Nat) : Option Obj :=
  match sub with
  | 0x02 => some (ou32 (s.lsw.linkWord s.cfg))
  | 0x03 => some (ou16 s.lsw.link.timeouts)
  | 0x04 => some (ou32 s.lsw.link.invalidFrames)
  | 0x05 => some (ou16 s.lsw.link.railSags)
  | _ => module1500Settings s.cfg sub

/-- 0x4100 + g: an input group (Table 8.9). -/
def State.groupObj (s : State) (g : GroupIx) (sub : Nat) : Option Obj :=
  let q := s.group g
  if 0x05 ≤ sub ∧ sub ≤ 0x10 then some (ou32 (s.cfg.filterTime g (sub - 5)))
  else match sub with
    | 0x20 => some (ou16 q.raw.toNat)
    | 0x21 => some (ou16 q.filtered.toNat)
    | 0x22 => some (ou32 q.flagWord).rw
    | 0x23 => some (oi32 (s.vCom g))
    | 0x30 => some (ou16 q.commonFaults)
    | 0x31 => some (ou16 q.invalidations)
    | 0x32 => some (ou32 q.crcErrors)
    | 0x33 => some (ou32 q.wettingPulses)
    | _ => if memberAllowed (0x4100 + g.val) sub then groupSettings s.cfg g sub else none

/-- 0x4200 + k: an isolated output (Table 8.9). -/
def State.outObj (s : State) (k : OutIx) (sub : Nat) : Option Obj :=
  match sub with
  | 0x20 => some (ou8 (s.outs.flagWord s.cfg k)).rw
  | 0x21 => some (oi16 (if bitOf s.outs.on.toNat k.val then outCurrent (s.free + k.val) else 0))
  | 0x30 => some (ou16 (s.outs.trips.getD k.val 0))
  | 0x04 => if k.val % 2 = 0 then outpSettings s.cfg k sub else none
  | _ => outpSettings s.cfg k sub

/-! ## Sessions and configuration -/

/-- 0x8000 + s: a session (Table 9.16A). -/
def State.sessObj (s : State) (i : SessIx) (sub : Nat) : Option Obj :=
  let z := s.fcp.sessions[i]
  match sub with
  | 0x01 => some (ou8 z.state.code)
  | 0x0A => some (ou16 z.eventMask).rw
  | 0x0B => some (ou8 (z.flagWord s.cfg i s.service.keyUnset)).rw
  | 0x0C => some (ou16 z.expected)
  | 0x0D => some (ou16 z.dseq)
  | 0x0E => some (ou16 z.lastDack)
  | 0x0F => some (ou64 z.lastValid)
  | 0x10 => some (ou8 (s.fcp.outstanding i).length)
  | 0x11 => some (ou16 z.lostUnacked)
  | 0x12 => some (ou32 z.txDropped)
  | _ => sessSettings s.cfg i sub

/-- An entry of a six-session list. -/
def sessEntry (v : Vector Nat 6) (k : Nat) : Nat := v[k]?.getD 0

/-- 0x8010: violations. -/
def violationObj (q : FcpCounters) (sub : Nat) : Option Obj :=
  if 1 ≤ sub ∧ sub ≤ 6 then some (ou32 (sessEntry q.violations (sub - 1)))
  else if 7 ≤ sub ∧ sub ≤ 0x0C then some (ou32 (sessEntry q.violationLast (sub - 7)))
  else none

/-- 0x8011: protocol counters. -/
def fcpCountObj (q : FcpCounters) (sub : Nat) : Option Obj :=
  match sub with
  | 0x01 => some (ou32 q.discarded)
  | 0x02 => some (ou32 q.unbound)
  | 0x03 => some (ou32 q.formatErrors)
  | 0x04 => some (ou32 q.gaps)
  | 0x05 => some (ou32 q.duplicates)
  | 0x06 => some (ou16 q.takeovers)
  | 0x07 => some (ou16 q.authFailures)
  | 0x08 => some (ou32 q.pausedDiscards)
  | _ => none

/-- 0x1600: configuration (Table 10.13). -/
def configObj (q : ConfigStore) (sub : Nat) : Option Obj :=
  match sub with
  | 0x01 => some (ou64 q.cfgId)
  | 0x02 => some (ou8 q.active.val)
  | 0x03 => some (ou32 q.flagWord).rw
  | 0x04 => some (ou32 q.stagedBytes)
  | 0x05 => some (ou8 (match q.stagingSession with | some i => i.val | none => 0xFF))
  | 0x06 => some (ou64 q.stagedId)
  | 0x07 => some (ou64 q.previousId)
  | 0x08 => some (ou64 q.committedAt)
  | 0x09 => some (ou32 (if q.inForce then imageZeran q.image else 0))
  | 0x0A => some (ou16 q.commits)
  | 0x0B => some (ou16 q.refusals)
  | 0x0C => some (ou16 q.timeouts)
  | 0x0D => some (ou32 q.lastRefusal)
  | _ => none

/-- 0x1601: the consist-shared block in force (Table 10.5). -/
def blockObj (q : ConfigStore) (sub : Nat) : Option Obj :=
  match sub with
  | 0x01 => some (ou32 q.csbId)
  | 0x02 => some (ou32 q.scheme)
  | 0x03 => some (ou8 (fieldAt q.block 3 1))
  | 0x04 => some (ou16 q.etherType)
  | 0x05 => some (oarr 64 q.block)
  | _ => none

/-! ## Ring and CAN -/

/-- 0x5001 (Table 11.9). -/
def ringObj (q : Ring) (own sub : Nat) : Option Obj :=
  match sub with
  | 0x01 => some (ou32 (q.flagWord own)).rw
  | 0x02 => some (ou8 q.nodeCount)
  | 0x03 => some (ou8 q.master)
  | 0x04 => some (ou32 q.timeAge)
  | 0x05 => some (oi32 q.meanOffset)
  | 0x06 => some (ou32 q.nodeMask)
  | 0x07 => some (ou8 q.mismatchNode)
  | _ => none

/-- 0x5002: ring counters. -/
def ringCountObj (q : RingCounters) (sub : Nat) : Option Obj :=
  match sub with
  | 0x01 => some (ou16 q.wraps)
  | 0x02 => some (ou16 q.unwraps)
  | 0x03 => some (ou32 q.forwarded)
  | 0x04 => some (ou32 q.duplicates)
  | 0x05 => some (ou32 q.hopsExpired)
  | 0x06 => some (ou32 q.foreign)
  | 0x07 => some (ou32 q.fcsA)
  | 0x08 => some (ou32 q.fcsB)
  | 0x09 => some (ou16 q.nodeTimeouts)
  | 0x0A => some (ou16 q.timeSteps)
  | 0x0B => some (ou16 q.timeSlews)
  | 0x0C => some (ou16 q.mismatches)
  | 0x0D => some (ou32 q.trainwideRefused)
  | 0x0E => some (ou32 q.relayCycles)
  | _ => none

/-- 0x5100 + ch (Table 12.11). -/
def canObj (k : CanChannel) (c : Cfg) (ch : CanIx) (sub : Nat) : Option Obj :=
  match sub with
  | 0x20 => some (ou32 (k.flagWord c ch)).rw
  | 0x21 => some (ou8 (min k.txErr 255))
  | 0x22 => some (ou8 (min k.rxErr 255))
  | 0x30 => some (ou32 k.txFrames)
  | 0x31 => some (ou32 k.rxFrames)
  | 0x32 => some (ou32 k.rxUnmatched)
  | 0x33 => some (ou32 k.rxq0.overflows)
  | 0x34 => some (ou32 k.rxq1.overflows)
  | 0x35 => some (ou16 k.busOffs)
  | 0x36 => some (ou32 k.txMissed)
  | 0x37 => some (ou16 k.resyncs)
  | 0x40 => some (ou8 0).rw
  | _ => if memberAllowed (0x5100 + ch.val) sub then canSettings c ch sub else none

/-- 0x5180 + ch: the schedules. -/
def schedObj (k : CanChannel) (c : Cfg) (ch : CanIx) (sub : Nat) : Option Obj :=
  match sub with
  | 0x01 => some (oarr 784 (maskedFrom scheduleBits 0 (c.schedImage ch)))
  | 0x02 => some (oarr 784 (maskedFrom scheduleBits 0 k.live))
  | _ => none

/-- 0x5200 + 0x20 ch + f: an acceptance filter. -/
def filterObj (k : CanChannel) (c : Cfg) (ch : CanIx) (f : Fin 32) (sub : Nat) : Option Obj :=
  match sub with
  | 0x01 => some (ou32 (c.filterMatch ch f.val))
  | 0x02 => some (ou32 (c.filterMask ch f.val % 2 ^ 29))
  | 0x03 => some (ou8 (c.filterCtrl ch f.val % 16))
  | 0x10 => some (oarr 80 k.filters[f].lastRx)
  | 0x11 => some (ou32 k.filters[f].hits)
  | _ => none

/-- 0x5300 + m: a message object. -/
def mobjObj (o : MsgObject) (c : Cfg) (m : Fin 64) (sub : Nat) : Option Obj :=
  match sub with
  | 0x06 => some (oarr 64 o.data).rw
  | 0x07 => some (ou32 o.txCount)
  | 0x08 => some (ou64 o.lastTx)
  | 0x09 => some (ou32 o.missed)
  | _ => mobjSettings c m sub

/-! ## Recorder and power -/

/-- 0x6001 (Table 13.11). -/
def recorderObj (q : Recorder) (flushEach : Bool) (sub : Nat) : Option Obj :=
  match sub with
  | 0x01 => some (ou32 (q.flagWord flushEach)).rw
  | 0x02 => some (ou32 q.ackRseq)
  | 0x03 => some (ou32 q.nextRseq)
  | 0x04 => some (ou32 q.durableRseq)
  | 0x05 => some (ou32 q.firstIseq)
  | 0x06 => some (ou32 q.nextIseq)
  | 0x07 => some (ou32 q.stagedBytes)
  | 0x08 => some (ou64 q.lastFlush)
  | 0x09 => some (ou32 q.lastFlushTime)
  | _ => none

/-- 0x6002: recorder counters. -/
def recorderCountObj (q : Recorder) (sub : Nat) : Option Obj :=
  match sub with
  | 0x01 => some (ou32 q.lostCycles)
  | 0x02 => some (ou32 q.incidentsLost)
  | 0x03 => some (ou32 q.flushes)
  | 0x04 => some (ou16 q.powerFailFlushes)
  | 0x05 => some (ou32 q.overruns)
  | 0x06 => some (ou16 q.truncatedIncidents)
  | 0x07 => some (ou32 q.acks)
  | 0x08 => some (ou16 q.erases)
  | _ => none

/-- 0x7001 (Table 14.14). -/
def State.powerObj (s : State) (sub : Nat) : Option Obj :=
  let q := s.power
  match sub with
  | 0x01 => some (ou8 q.mode.code)
  | 0x02 => some (ou32 q.flagWord).rw
  | 0x03 => some (ou16 q.domainWord)
  | 0x04 => some (oi32 (s.meter .supply 0))
  | 0x05 => some (oi32 (s.meter .stackVoltage 0))
  | 0x06 => some (ou16 (s.meter .stackEnergy 0).toNat)
  | 0x07 => some (ou16 q.cart.cap)
  | 0x08 => some (ou16 q.cart.esr)
  | 0x09 => some (oi32 (s.meter .cellVoltage 0))
  | 0x0A => some (ou8 q.lastWake)
  | 0x0B => some (ou8 q.lastRefuser)
  | 0x0C => some (ou64 q.wakeAt)
  | _ => none

/-- 0x7002: power counters. -/
def State.powerCountObj (s : State) (sub : Nat) : Option Obj :=
  let q := s.power.counters
  match sub with
  | 0x01 => some (ou16 q.stable)
  | 0x02 => some (ou16 q.hibernate)
  | 0x03 => some (ou16 q.refused)
  | 0x04 => some (oarr 148 ((q.refusals.toList.map (le 2)).flatten))
  | 0x05 => some (oarr 18 ((q.wakes.toList.map (le 2)).flatten))
  | 0x06 => some (ou32 (seconds32 q.usRun))
  | 0x07 => some (ou32 (seconds32 q.usStable))
  | 0x08 => some (ou32 (seconds32 q.usHibernate))
  | 0x09 => some (ou32 (seconds32 q.usHoldup))
  | 0x0A => some (ou16 q.holdupEvents)
  | 0x0B => some (ou16 q.holdupResets)
  | 0x0C => some (ou64 q.lastRefusalTime)
  | 0x0D => some (ou32 (s.meter .account 0).toNat)
  | _ => none

/-! ## Engines and service -/

/-- R536: a leaf engine has no work while its doorway is not fitted, or stands in LOCKED or ISOLATED with both drives idle
or held (note 60). -/
def State.leafIdle (s : State) (d : DoorIx) : Bool :=
  let w := s.doors[d]
  let still (g : Gen) : Bool := g.state == .idle || g.state == .hold
  !s.cfg.isFitted d || ((w.sm.state == .locked || w.sm.state == .isolated) && still w.door.gen && still w.step.gen)

/-- ENGINE_STATE of an engine (0x1700). -/
def State.engineState (s : State) (k : Fin 12) : Nat :=
  if k.val = 11 then
    if !s.power.on 4 then 0
    else match s.engines.app.state with
      | .running => 2
      | .starting => 1
      | _ => 5
  else if h : k.val < 8 then
    if s.engines.states[k] == .running && s.leafIdle ⟨k.val, h⟩ then 3 else s.engines.states[k].code
  else s.engines.states[k].code

/-- An engine by number. -/
def engineOfNat (n : Nat) : Fin 12 := Fin.ofNat 12 n

/-- 0x1701: engine counters. -/
def engineCountObj (q : Engines) (sub : Nat) : Option Obj :=
  match sub with
  | 0x01 => some (oarr 24 ((q.restarts.toList.map (le 2)).flatten))
  | 0x02 => some (oarr 24 ((q.expiries.toList.map (le 2)).flatten))
  | 0x03 => some (ou16 q.mismatches)
  | 0x04 => some (ou8 q.halted.toNat)
  | 0x05 => some (ou16 q.stackFaults)
  | 0x06 => some (ou32 q.stackFaultLast)
  | _ => none

/-- 0x1702: the application engine. -/
def appObj (q : App) (c : Cfg) (sub : Nat) : Option Obj :=
  match sub with
  | 0x01 => some (ou8 q.state.code)
  | 0x02 => some (ou8 q.cause)
  | 0x06 => some (ou32 q.version)
  | 0x07 => some (ou16 q.faults)
  | 0x08 => some (ou32 q.violations)
  | 0x09 => some (ou32 q.lastViolation)
  | 0x0A => some (ou16 q.restarts)
  | _ => module1702Settings c sub

/-- 0x1000: identity (R626). -/
def identityObj (q : Service) (sub : Nat) : Option Obj :=
  match sub with
  | 0x01 => some (oarr 16 partNumber)
  | 0x02 => some (oarr 16 q.serial)
  | 0x03 => some (ou16 q.hwIssue)
  | 0x04 => some (oarr 6 (be 6 q.macRing))
  | 0x05 => some (oarr 6 (be 6 q.macService))
  | 0x06 => some (ou64 q.manufactured)
  | 0x07 => some (ou32 q.hours)
  | _ => none

/-- 0x1010: firmware. -/
def firmwareObj (q : Firmware) (c : Cfg) (sub : Nat) : Option Obj :=
  match sub with
  | 0x01 => some (ou8 q.active.val)
  | 0x02 => some (ou32 q.flagWord).rw
  | 0x03 => some (ou32 q.stagedBytes)
  | 0x04 => some (ou32 q.floor)
  | 0x06 => some (ou16 q.activations)
  | _ => module1010Settings c sub

/-- 0x1020: Bramble spares. -/
def brambleObj (q : Service) (c : Cfg) (sub : Nat) : Option Obj :=
  if 1 ≤ sub ∧ sub ≤ 4 then some (ou8 (q.brambles[(Fin.ofNat 4 (sub - 1) : Fin 4)]).state.code)
  else if 5 ≤ sub ∧ sub ≤ 8 then
    some (ou8 (match (q.brambles[(Fin.ofNat 4 (sub - 5) : Fin 4)]).leg with | some l => l.val | none => 0xFF))
  else match sub with
    | 0x0A => some (ou64 q.legMask)
    | 0x0B => some (ou8 q.suspectMask)
    | 0x0C => some (ou16 q.substitutions)
    | _ => module1020Settings c sub

/-- 0x1030: the cartridge. -/
def cartridgeObj (q : Cartridge) (cause sub : Nat) : Option Obj :=
  match sub with
  | 0x01 => some (ou64 q.fittedAt)
  | 0x02 => some (ou16 q.capInitial)
  | 0x03 => some (ou16 q.esrInitial)
  | 0x04 => some (ou16 q.eolDays)
  | 0x05 => some (ou8 cause)
  | _ => none

/-- 0x1050: session keys read as zero; vendor key slots. -/
def keyObj (q : Service) (sub : Nat) : Option Obj :=
  if 1 ≤ sub ∧ sub ≤ 5 then some (oarr 32 []).rw
  else if sub = 6 then some (ou32 (q.keyIds[(0 : Fin 2)]))
  else if sub = 7 then some (ou32 (q.keyIds[(1 : Fin 2)]))
  else none

/-! ## The dictionary -/

/-- Objects below 0x2000. -/
def State.moduleObj (s : State) (index sub : Nat) : Option Obj :=
  let c := s.cfg
  match index with
  | 0x1000 => identityObj s.service sub
  | 0x1010 => firmwareObj s.service.fw c sub
  | 0x1020 => brambleObj s.service c sub
  | 0x1030 => cartridgeObj s.power.cart s.power.eolCause sub
  | 0x1040 => match sub with
    | 0x01 => some (ou64 s.service.testLast)
    | 0x02 => some (ou16 s.service.testFailed)
    | _ => none
  | 0x1050 => keyObj s.service sub
  | 0x1100 => s.carObj sub
  | 0x1200 => module1200Settings c sub
  | 0x1201 => s.loopObj sub
  | 0x1202 => loopCountObj s.loop.counters sub
  | 0x1203 => if sub = 1 then some (ou8 0).rw else none
  | 0x1300 => if sub = 5 then some (oi32 (s.encoders[(0 : Fin 2)]).edges) else encSettings c 0 sub
  | 0x1301 => if sub = 5 then some (oi32 (s.encoders[(1 : Fin 2)]).edges) else encSettings c 1 sub
  | 0x1400 => if 1 ≤ sub ∧ sub ≤ 0x40 then some (ou32 (rowWord c (Fin.ofNat 64 (sub - 1)))) else none
  | 0x1401 => s.reflexObj sub
  | 0x1402 => if 1 ≤ sub ∧ sub ≤ 0x10 then
      some (ou8 (match (s.latchOf (Fin.ofNat 16 (sub - 1))).firstRow with | some r => r.val | none => 0xFF)) else none
  | 0x1403 => match sub with
    | 0x01 => some (ou32 s.quince.events)
    | 0x02 => some (ou16 s.quince.clockFaults)
    | _ => none
  | 0x1500 => s.linkObj sub
  | 0x1600 => configObj s.config sub
  | 0x1601 => blockObj s.config sub
  | 0x1700 => if 1 ≤ sub ∧ sub ≤ 0x0C then some (ou8 (s.engineState (engineOfNat (sub - 1)))) else none
  | 0x1701 => engineCountObj s.engines sub
  | 0x1702 => appObj s.engines.app c sub
  | 0x1703 => match sub with
    | 0x01 => some (oarr 16 ((List.range 16).flatMap (fun i => le 1 (c.watchSel i))))
    | 0x02 => some (ou16 s.power.watchFired)
    | _ => none
  | _ => none

/-- The value of an object; none where no home chapter defines it (R421, Table 10.11). -/
def State.obj (s : State) (index sub : Nat) : Option Obj :=
  let c := s.cfg
  if index < 0x2000 then s.moduleObj index sub
  else if index < 0x2800 then s.doorObj (Fin.ofNat 8 ((index - 0x2000) / 0x100)) (index % 0x100) sub
  else if h : 0x3000 ≤ index ∧ index < 0x30A0 then s.contextObj ⟨index - 0x3000, by omega⟩ sub
  else if h : 0x4000 ≤ index ∧ index < 0x4030 then s.chanObj ⟨index - 0x4000, by omega⟩ sub
  else if h : 0x4100 ≤ index ∧ index < 0x4109 then s.groupObj ⟨index - 0x4100, by omega⟩ sub
  else if h : 0x4200 ≤ index ∧ index < 0x4210 then s.outObj ⟨index - 0x4200, by omega⟩ sub
  else if h : 0x5200 ≤ index ∧ index < 0x5240 then
    let ch : CanIx := Fin.ofNat 2 ((index - 0x5200) / 0x20)
    filterObj s.can.channels[ch] c ch (Fin.ofNat 32 (index - 0x5200)) sub
  else if h : 0x5300 ≤ index ∧ index < 0x5340 then
    let m : Fin 64 := ⟨index - 0x5300, by omega⟩
    mobjObj s.can.objects[m] c m sub
  else if h : 0x8000 ≤ index ∧ index < 0x8006 then s.sessObj ⟨index - 0x8000, by omega⟩ sub
  else match index with
    | 0x4210 => match sub with
      | 0x01 => some (ou16 s.outs.on.toNat)
      | 0x02 => some (ou16 s.outs.losses)
      | _ => none
    | 0x5000 => module5000Settings c sub
    | 0x5001 => ringObj s.ring c.ringAddress sub
    | 0x5002 => ringCountObj s.ring.counters sub
    | 0x5100 => canObj s.can.channels[(0 : CanIx)] c 0 sub
    | 0x5101 => canObj s.can.channels[(1 : CanIx)] c 1 sub
    | 0x5180 => schedObj s.can.channels[(0 : CanIx)] c 0 sub
    | 0x5181 => schedObj s.can.channels[(1 : CanIx)] c 1 sub
    | 0x6000 => module6000Settings c sub
    | 0x6001 => recorderObj s.log s.flushEach sub
    | 0x6002 => recorderCountObj s.log sub
    | 0x7000 => module7000Settings c sub
    | 0x7001 => s.powerObj sub
    | 0x7002 => s.powerCountObj sub
    | 0x8008 => module8008Settings c sub
    | 0x8009 => if h : 1 ≤ sub ∧ sub ≤ 8 then some (ou8 (commanderByte s.fcp.commander[(⟨sub - 1, by omega⟩ : DoorIx)])) else none
    | 0x8010 => violationObj s.fcp.counters sub
    | 0x8011 => fcpCountObj s.fcp.counters sub
    | _ => none

end Sys2Proof.Machine
end

