-- ==== Sys2Proof/Machine/ObjectCmds.lean ====
section
/-!
DEFINITION. OBJ_READ and OBJ_WRITE (R421, R422), with the own refusals and effects of each writable object: flag words,
ROLE_SELECT, EVENT_MASK, message data, DISCREPANCY_RESET, CAN_RESTART and the session keys.
-/

namespace Sys2Proof.Machine

/-! ## OBJ_READ -/

/-- The header of a reply to OBJ_READ (R422). -/
def objHead (index sub type len : Nat) : List Byte := le 2 index ++ le 1 sub ++ le 1 type ++ le 2 len ++ le 2 0

/-- R386, R421: what a read outside the rights shows: zeros of the object's length, none for an undefined object. -/
def State.objZeros (s : State) (index sub : Nat) : List Byte :=
  match s.obj index sub with
  | some o => objHead index sub o.type o.bytes.length ++ List.replicate o.bytes.length 0
  | none => objHead index sub 0 0

/-- OBJ_READ (R422); the answer of session 4 without a key is in R608. -/
def Req.objRead (params : List Byte) (index sub : Nat) : Req :=
  { Req.plain 0x0204 params (decide (params.length = 4)) (fun _ _ s =>
      match s.obj index sub with
      | some o => s.answers (Answer.done (objHead index sub o.type o.bytes.length ++ o.bytes))
      | none => s.answers (Answer.refused 0x28)) with
    index := index
    rights := fun s i => s.mayRead i index
    zeros := fun s => s.objZeros index sub
    keyless := true }

/-! ## W1C fields (R10) -/

/-- W1C flags of DOOR_STATE.04 (Table 1.15). -/
def clearDoorFlags (v : Nat) (w : Doorway) : Doorway :=
  let f := w.sm.flags
  { w with sm := { w.sm with flags := { f with
      unlockFailed := f.unlockFailed && !bitOf v 5, lockFailed := f.lockFailed && !bitOf v 6
      openIgnored := f.openIgnored && !bitOf v 11 } } }

/-- W1C flags of MOTION_FLAGS (Table 3.14). -/
def Gen.clearFlags (v : Nat) (g : Gen) : Gen :=
  let f := g.flags
  { g with flags := { f with
      overshoot := f.overshoot && !bitOf v 3, decelRaised := f.decelRaised && !bitOf v 4, limitClip := f.limitClip && !bitOf v 5
      interrupted := f.interrupted && !bitOf v 8, ctxModified := f.ctxModified && !bitOf v 9
      ctxRefused := f.ctxRefused && !bitOf v 10 } }

/-- Changes the motion generator of a drive. -/
def Doorway.onGen (w : Doorway) (step : Bool) (f : Gen → Gen) : Doorway :=
  if step then { w with step := { w.step with gen := f w.step.gen } } else { w with door := { w.door with gen := f w.door.gen } }

/-- W1C flags of DRIVE_FLAGS (Table 4.9). -/
def clearDriveFlags (v : Nat) (w : Doorway) : Doorway :=
  let f := w.door.flags
  { w with door := { w.door with flags := { f with
      hallDropout := f.hallDropout && !bitOf v 4, followError := f.followError && !bitOf v 10 } } }

/-- W1C flags of STEP_FLAGS (Table 5.7). -/
def clearStepFlags (v : Nat) (w : Doorway) : Doorway :=
  let f := w.step.flags
  { w with step := { w.step with flags := { f with
      chatter := f.chatter && !bitOf v 6, shifted := f.shifted && !bitOf v 7, deployFailed := f.deployFailed && !bitOf v 8
      sdsLost := f.sdsLost && !bitOf v 9 } } }

/-- W1C flags of OBST_FLAGS (Table 6.11). -/
def clearObstFlags (v : Nat) (w : Doorway) : Doorway :=
  let f := w.obst.flags
  { w with obst := { w.obst with flags := { f with
      envTripped := f.envTripped && !bitOf v 3, sigTripped := f.sigTripped && !bitOf v 4
      reopenBlocked := f.reopenBlocked && !bitOf v 6, adaptLimited := f.adaptLimited && !bitOf v 7 } } }

/-- W1C flags of CH_FLAGS, held by the leader of the channel's group (Table 7.9). -/
def Channel.clearFlags (v : Nat) (q : Channel) : Channel :=
  { q with extended := q.extended && !bitOf v 2, overcurrent := q.overcurrent && !bitOf v 4 }

/-- W1C flags of CAN_FLAGS (Table 12.12). -/
def CanChannel.clearFlags (v : Nat) (k : CanChannel) : CanChannel :=
  { k with modified := k.modified && !bitOf v 6, overflowSeen := k.overflowSeen && !bitOf v 11
           busOffSeen := k.busOffSeen && !bitOf v 12 }

/-- A group's FAULT_SEEN (Table 8.10). -/
def InGroup.clearFlags (v : Nat) (g : InGroup) : InGroup :=
  { g with flags := { g.flags with faultSeen := g.flags.faultSeen && !bitOf v 2 } }

/-- Changes an input group. -/
def State.onGroup (s : State) (g : GroupIx) (f : InGroup → InGroup) : State :=
  if h : g.val < 8 then s.onDoor ⟨g.val, h⟩ (fun w => { w with inp := f w.inp }) else { s with train := f s.train }

/-! ## The home chapters' own refusals -/

/-- R113: a slot that ROLE_SELECT names is empty. -/
def emptySlot (c : Cfg) (r : DriveIx) (v : Nat) : Bool := [0, 1, 2, 3].any (fun k => (c.contextMap r (roleSlot v k)).isNone)

/-- Refusals of the writable objects after the common ones: 0x2B for a value outside the object's values, then R113
and R89. -/
def State.writeRefusal (s : State) (index sub : Nat) (v : List Byte) : Option Nat :=
  let n := ofLe v
  let off := index % 0x100
  if index = 0x1203 then
    if n ≠ 1 then some 0x2B else if !s.loop.pairsAgree s.loopEnv then some 0x3B else none
  else if index = 0x1050 then (if keyEmpty v then some 0x2B else none)
  else if (index = 0x5100 ∨ index = 0x5101) ∧ sub = 0x40 then (if n ≠ 1 then some 0x2B else none)
  else if 0x2000 ≤ index ∧ index < 0x2800 ∧ (off = 0x12 ∨ off = 0x1A) then
    let d : DoorIx := Fin.ofNat 8 ((index - 0x2000) / 0x100)
    if emptySlot s.cfg (if off = 0x12 then doorDrive d else stepDrive d) n then some 0x7C else none
  else none

/-! ## Effects -/

/-- A write of a doorway's object. -/
def doorWrite (off : Nat) (v : Nat) (w : Doorway) : Doorway :=
  match off with
  | 0x01 => clearDoorFlags v w
  | 0x10 => w.onGen false (Gen.clearFlags v)
  | 0x18 => w.onGen true (Gen.clearFlags v)
  | 0x12 => w.onGen false (fun g => { g with roleSelect := v })
  | 0x1A => w.onGen true (fun g => { g with roleSelect := v })
  | 0x24 => clearDriveFlags v w
  | 0x2B => clearStepFlags v w
  | 0x33 => clearObstFlags v w
  | _ => w

/-- DISCREPANCY_RESET (R89): DISCREPANCY and DISCREPANCY_PERSISTENT clear together. -/
def State.discrepancyReset (s : State) : State :=
  let was := s.loop.discrepancy
  let s := { s with loop := { s.loop with discrepancy := false, persistent := false } }
  (if was then s.loopEvents [0xE202] else s).supervise

/-- CAN_RESTART (R473): recovery of a controller in bus-off starts. -/
def CanChannel.restart (k : CanChannel) : CanChannel := if k.active && k.busOff then { k with recovering := true } else k

/-- The effect of a write that nothing refuses. -/
def State.writeObj (s : State) (index sub : Nat) (b : List Byte) : State :=
  let v := ofLe b
  if h : 0x2000 ≤ index ∧ index < 0x2800 then s.onDoor (Fin.ofNat 8 ((index - 0x2000) / 0x100)) (doorWrite (index % 0x100) v)
  else if h : 0x4000 ≤ index ∧ index < 0x4030 then
    { s with lsw := s.lsw.chan (leaderOf s.cfg ⟨index - 0x4000, by omega⟩) (Channel.clearFlags v) }
  else if h : 0x4100 ≤ index ∧ index < 0x4109 then s.onGroup ⟨index - 0x4100, by omega⟩ (InGroup.clearFlags v)
  else if h : 0x4200 ≤ index ∧ index < 0x4210 then
    if bitOf v 5 then { s with outs := { s.outs with tripSeen := setBit s.outs.tripSeen (index - 0x4200) false } } else s
  else if h : 0x5300 ≤ index ∧ index < 0x5340 then
    { s with can := s.can.object ⟨index - 0x5300, by omega⟩ (fun o => { o with data := b }) }
  else if h : 0x8000 ≤ index ∧ index < 0x8006 then
    s.onSession ⟨index - 0x8000, by omega⟩ (fun z =>
      if sub = 0x0A then { z with eventMask := v ||| 0x200 } else { z with eventsLost := z.eventsLost && !bitOf v 4 })
  else match index with
    | 0x1010 => { s with service := s.service.onFw (fun f => { f with fallback := f.fallback && !bitOf v 3 }) }
    | 0x1050 => { s with service := { s.service with keys := s.service.keys.set (Fin.ofNat 5 (sub - 1)).val b } }
    | 0x1203 => s.discrepancyReset
    | 0x1600 => { s with config := { s.config with loadFailed := s.config.loadFailed && !bitOf v 5 } }
    | 0x5001 => { s with ring := { s.ring with stepped := s.ring.stepped && !bitOf v 9, nodeLost := s.ring.nodeLost && !bitOf v 14 } }
    | 0x5100 => { s with can := s.can.channel 0 (if sub = 0x40 then CanChannel.restart else CanChannel.clearFlags v) }
    | 0x5101 => { s with can := s.can.channel 1 (if sub = 0x40 then CanChannel.restart else CanChannel.clearFlags v) }
    | 0x6001 => { s with log := { s.log with overrunSeen := s.log.overrunSeen && !bitOf v 6
                                             powerFailSeen := s.log.powerFailSeen && !bitOf v 7 } }
    | 0x7001 => { s with power := { s.power with keepLost := s.power.keepLost && !bitOf v 8 } }
    | _ => s

/-! ## OBJ_WRITE -/

/-- R387: the doorway that owns an object, as a mask; 0 for an object that no doorway owns. -/
def ownerMask (c : Cfg) (index : Nat) : Nat :=
  if 0x2000 ≤ index ∧ index < 0x2800 then 2 ^ ((index - 0x2000) / 0x100)
  else if 0x4000 ≤ index ∧ index < 0x4030 then 2 ^ ((index - 0x4000) / 6)
  else if 0x3000 ≤ index ∧ index < 0x30A0 then
    match contextPlace c (index - 0x3000) with
    | some p => 2 ^ (doorOf p.1).val
    | none => 0
  else 0

/-- R421, R422: the refusal of a write, in order. -/
def State.objRefusal (s : State) (index sub : Nat) (b : List Byte) : Option Nat :=
  if 0x3000 ≤ index ∧ index < 0x30A0 then some 0x29
  else match s.obj index sub with
    | none => some 0x28
    | some o =>
      if !o.writable then some 0x29
      else if b.length ≠ o.bytes.length then some 0x2A
      else s.writeRefusal index sub b

/-- OBJ_WRITE (R422). A write of session 4's own key closes session 4 after the reply (R608). -/
def State.objWrite (s : State) (h : Hdr) (i : SessIx) (index sub : Nat) (b : List Byte) : Reply :=
  let r := s.own h i (ownerMask s.cfg index)
  match doorways.findSome? r.2 with
  | some x => r.1.answers (Answer.refused x)
  | none =>
    match r.1.objRefusal index sub b with
    | some x => r.1.answers (Answer.refused x)
    | none =>
      let unset := s.service.keyUnset
      { state := r.1.writeObj index sub b, answer := some (Answer.done [])
        after := fun t => if unset && index == 0x1050 && sub == 5 then t.closeSession 4 false else t }

/-- OBJ_WRITE as a command. -/
def Req.objWrite (params : List Byte) (index sub : Nat) (value : List Byte) : Req :=
  { Req.plain 0x0205 params (decide (params.length = 8 + value.length) && fieldAt params 4 2 == value.length)
      (fun h i s => s.objWrite h i index sub value) with
    index := index
    rights := fun s i => s.mayWrite i index sub
    keyless := index == 0x1050 && sub == 5
    ready := fun s => s.leavesOn (ownerMask s.cfg index) }

/-- The parameters of an OBJ_WRITE. -/
def objParams (index sub : Nat) (value : List Byte) : List Byte :=
  le 2 index ++ le 1 sub ++ le 1 0 ++ le 2 value.length ++ le 2 0 ++ value

end Sys2Proof.Machine
end

