-- ==== Sys2Proof/Machine/FcpPackets.lean ====
section
/-!
DEFINITION. Command packets as bytes: their layout (Table 9.1), the opcodes of Table 9.14 by number, the carriage checks of
steps 1 and 2 of Table 9.6, and the segments of CAN FD (R355, R356).
-/

namespace Sys2Proof.Machine

/-! ## Parameters -/

/-- Parameters of DOOR_COMMAND. -/
def doorCommandParams (mask action : Nat) : List Byte := le 1 mask ++ le 1 action ++ le 2 0
/-- Parameters of two bytes and two reserved ones. -/
def pairParams (a b : Nat) : List Byte := le 1 a ++ le 1 b ++ le 2 0
/-- Parameters of a 16-bit word and two reserved bytes. -/
def wordParams (a : Nat) : List Byte := le 2 a ++ le 2 0
/-- Parameters of SWITCH_SET. -/
def switchParams (mask action : Nat) : List Byte := le 8 mask ++ le 1 action ++ le 3 0
/-- Parameters of a block: offset, length, flags and the bytes (R404, R586, R609). -/
def blockParams (offset flags : Nat) (block : List Byte) : List Byte :=
  le 4 offset ++ le 2 block.length ++ le 1 flags ++ le 1 0 ++ block
/-- Parameters of CFG_COMMIT. -/
def commitParams (flags cfgId : Nat) : List Byte := le 1 flags ++ le 3 0 ++ le 8 cfgId
/-- Parameters of POWER_ENTER. -/
def enterParams (target wakeAt : Nat) : List Byte := le 1 target ++ le 3 0 ++ le 8 wakeAt
/-- Parameters of MOVE_TO (Table 3.10). -/
def moveToParams (drive mode : Nat) (target : Int) (speed : Nat) : List Byte :=
  le 1 drive ++ le 1 mode ++ le 2 0 ++ leInt 4 target ++ le 4 speed
/-- Parameters of MOVE_STOP. -/
def moveStopParams (mask mode : Nat) : List Byte := le 2 mask ++ le 1 mode ++ le 1 0
/-- Parameters of COMPARE_SET (Table 3.11). -/
def compareParams (drive mode direction actions : Nat) (position : Int) (hyst : Nat) : List Byte :=
  le 1 drive ++ le 1 mode ++ le 1 direction ++ le 1 actions ++ leInt 4 position ++ le 4 hyst

/-! ## The opcodes by number (Table 9.14) -/

/-- Groups 0x01 and 0x02. -/
def sessionRequest (opcode : Nat) (p : List Byte) : Req :=
  match opcode with
  | 0x0101 => Req.sessionOpen p (fieldAt p 0 2) (fieldAt p 2 2) (fieldAt p 4 8)
  | 0x0102 => Req.sessionClose p
  | 0x0103 => Req.sessionState p
  | 0x0104 => Req.sessionAuth p p
  | 0x0105 => Req.resultFetch p (fieldAt p 0 2)
  | 0x0106 => Req.abort p (fieldAt p 0 2)
  | 0x0107 => Req.eventReplay p (fieldAt p 0 2) (fieldAt p 2 1)
  | 0x0108 => Req.commandClaim p (fieldAt p 0 1)
  | 0x0109 => Req.commandYield p (fieldAt p 0 1)
  | 0x0201 => Req.cfgLoadBlock p (fieldAt p 0 4) (fieldAt p 6 1) (p.drop 8)
  | 0x0202 => Req.cfgCommit p (fieldAt p 0 1) (fieldAt p 4 8)
  | 0x0203 => Req.cfgRead p (fieldAt p 0 1) (fieldAt p 2 2) (fieldAt p 4 4)
  | 0x0204 => Req.objRead p (fieldAt p 0 2) (fieldAt p 2 1)
  | 0x0205 => Req.objWrite p (fieldAt p 0 2) (fieldAt p 2 1) (p.drop 8)
  | n => Req.unlisted n p

/-- Groups 0x03 to 0x05. -/
def doorRequest (opcode : Nat) (p : List Byte) : Req :=
  match opcode with
  | 0x0301 => Req.doorCommand p (fieldAt p 0 1) (fieldAt p 1 1)
  | 0x0302 => Req.doorStatus p (fieldAt p 0 1) (fieldAt p 1 1)
  | 0x0303 => Req.doorIsolate p (fieldAt p 0 1) (fieldAt p 1 1)
  | 0x0304 => Req.doorTestCycle p (fieldAt p 0 1) (fieldAt p 1 1)
  | 0x0305 => Req.envelopeLearn p (fieldAt p 0 1)
  | 0x0401 => Req.moveTo p (fieldAt p 0 1) (fieldAt p 1 1) (fieldIntAt p 4 4) (fieldAt p 8 4)
  | 0x0402 => Req.moveStop p (fieldAt p 0 2) (fieldAt p 2 1)
  | 0x0403 => Req.moveResume p (fieldAt p 0 2)
  | 0x0404 => Req.profileWrite p (fieldAt p 0 2) (p.drop 4)
  | 0x0405 => Req.compareSet p (fieldAt p 0 1) (fieldAt p 1 1) (fieldAt p 2 1) (fieldAt p 3 1) (fieldIntAt p 4 4) (fieldAt p 8 4)
  | 0x0406 => Req.homeStep p (fieldAt p 0 1) (fieldAt p 1 1)
  | 0x0501 => Req.switchSet p (fieldAt p 0 8) (fieldAt p 8 1)
  | 0x0502 => Req.switchStatus p (fieldAt p 0 8)
  | 0x0503 => Req.ioRead p (fieldAt p 0 2)
  | 0x0504 => Req.outputSet p (fieldAt p 0 2) (fieldAt p 2 2)
  | 0x0505 => Req.faultClear p (fieldAt p 0 8)
  | n => Req.unlisted n p

/-- Groups 0x06 to 0x0B. -/
def moduleRequest (opcode : Nat) (p : List Byte) : Req :=
  match opcode with
  | 0x0601 => Req.logDrain p (fieldAt p 0 4) (fieldAt p 4 1)
  | 0x0602 => Req.logAck p (fieldAt p 0 4)
  | 0x0603 => Req.incidentRead p (fieldAt p 0 4) (fieldAt p 4 2)
  | 0x0604 => Req.logStatus p (fieldAt p 0 1)
  | 0x0605 => Req.incidentErase p (fieldAt p 0 4) (fieldAt p 4 4)
  | 0x0701 => Req.powerEnter p (fieldAt p 0 1) (fieldAt p 4 8)
  | 0x0702 => Req.powerStatus p
  | 0x0703 => Req.powerAccounts p
  | 0x0801 => Req.fwStage p (fieldAt p 0 4) (fieldAt p 6 1) (p.drop 8)
  | 0x0802 => Req.fwActivate p (fieldAt p 0 1) (fieldAt p 1 1)
  | 0x0803 => Req.selftest p (fieldAt p 0 2) (fieldAt p 2 1)
  | 0x0804 => Req.legSubstitute p (fieldAt p 0 1) (fieldAt p 1 1)
  | 0x0805 => Req.identity p
  | 0x0901 => Req.ringStatus p
  | 0x0902 => Req.consistView p (fieldAt p 0 4)
  | 0x0A01 => Req.schedLoad p (fieldAt p 0 1) (p.drop 4)
  | 0x0A02 => Req.canStatus p (fieldAt p 0 1)
  | 0x0B01 => Req.appLoad p (fieldAt p 0 4) (fieldAt p 6 1) (p.drop 8)
  | 0x0B02 => Req.appControl p (fieldAt p 0 1)
  | n => Req.unlisted n p

/-- The command of an opcode and its parameter bytes. -/
def request (opcode : Nat) (p : List Byte) : Req :=
  if opcode < 0x0300 then sessionRequest opcode p
  else if opcode < 0x0600 then doorRequest opcode p
  else moduleRequest opcode p

/-! ## Packets (R351, R359) -/

/-- The length that a packet's PLEN gives it. -/
def packetLen (b : List Byte) : Nat := 20 + fieldAt b 10 2

/-- Step 2 of Table 9.6. -/
def packetOk (b : List Byte) : Bool :=
  decide (20 ≤ b.length) && fieldAt b 0 2 == 0x6A44 && decide (fieldAt b 10 2 ≤ 1008) && decide (b.length = packetLen b)
    && fieldAt b (b.length - 4) 4 == crc32c (b.take (b.length - 4))

/-- The header of a packet (Tables 9.1 and 9.3). -/
def packetHdr (t : Transport) (source : Nat) (trainWide : Bool) (b : List Byte) : Hdr :=
  let z := fieldAt b 3 1
  { transport := t, source := source, trainWide := trainWide, format := BitVec.ofNat 8 (fieldAt b 2 1)
    session := BitVec.ofNat 4 z, resume := bitOf z 4, takeover := bitOf z 5, hseq := BitVec.ofNat 16 (fieldAt b 6 2)
    dack := BitVec.ofNat 16 (fieldAt b 8 2), tag := BitVec.ofNat 32 (fieldAt b 12 4) }

/-- Steps 1 and 2 failed. -/
def State.discarded (s : State) : State := s.countFcp (fun k => { k with discarded := satInc 32 k.discarded })

/-- A packet as its transport delivers it: steps 2 onwards of Table 9.6. -/
def State.packet (s : State) (t : Transport) (source : Nat) (trainWide : Bool) (b : List Byte) : State :=
  if !s.commsRuns && !s.service.fw.bootLoader then s
  else if !packetOk b then s.discarded
  else s.receive (packetHdr t source trainWide b) (request (fieldAt b 4 2) ((b.drop 16).take (b.length - 20)))

/-- The packet in a ring frame, without the padding to the Ethernet minimum of 46 bytes (R430). -/
def ringPacket (body : List Byte) : List Byte :=
  let n := packetLen body
  if n ≤ body.length ∧ body.length ≤ 38 then body.take n else body

/-! ## Segments of CAN FD (R355, R356) -/

/-- The data lengths of CAN FD that hold n bytes: the shortest. -/
def fdLength (n : Nat) : Nat :=
  if n ≤ 8 then n else ([12, 16, 20, 24, 32, 48, 64].find? (fun k => decide (n ≤ k))).getD 64

/-- A packet whose last segment has come: its bytes, when the lengths agree. -/
def assembled (bytes : List Byte) (last segs : Nat) : Option (List Byte) :=
  let n := packetLen bytes
  if 20 ≤ bytes.length ∧ n ≤ bytes.length ∧ 63 * segs < n ∧ last = fdLength (n - 63 * segs + 1) then some (bytes.take n) else none

/-- What a segment makes of a session: the session, a packet complete, and the number of packets discarded. -/
def Session.takeSegment (z : Session) (data : List Byte) : Session × Option (List Byte) × Nat :=
  let hd := fieldAt data 0 1
  let index := hd % 32
  let toggle := bitOf hd 7
  let last := bitOf hd 6
  let body := data.drop 1
  if data.isEmpty || z.lastSeg == some (index, toggle) then (z, none, 0)
  else
    let z := { z with lastSeg := some (index, toggle) }
    let lost : Nat := if z.partialIn.isSome then 1 else 0
    let joined : Option (List Byte × Nat) := match z.partialIn with
      | some p => if index = 0 then some (body, lost) else if index = p.index + 1 ∧ toggle = p.toggle then some (p.bytes ++ body, 0) else none
      | none => if index = 0 then some (body, 0) else none
    match joined with
    | none => ({ z with partialIn := none }, none, lost)
    | some (bytes, gone) =>
      if last then
        match assembled bytes data.length index with
        | some p => ({ z with partialIn := none }, some p, gone)
        | none => ({ z with partialIn := none }, none, gone + 1)
      else if data.length ≠ 64 ∨ 17 ≤ index + 1 then ({ z with partialIn := none }, none, gone + 1)
      else ({ z with partialIn := some { bytes := bytes, index := index, toggle := toggle } }, none, gone)

/-- A frame on a session's identifier (R355): a classical one is discarded and counted. -/
def State.segment (s : State) (ch : CanIx) (i : SessIx) (f : CanFrame) : State :=
  if !s.commsRuns then s
  else if !f.fd then s.discarded
  else
    let r := s.fcp.sessions[i].takeSegment f.data
    let s := (s.onSession i (fun z => (z.takeSegment f.data).1)).countFcp (fun k => { k with discarded := satAdd 32 k.discarded r.2.2 })
    match r.2.1 with
    | some p => s.packet (.can ch) (s.cfg.sessSource i) false p
    | none => s

end Sys2Proof.Machine
end

