-- ==== Sys2Proof/Machine/DoorCommandMeanings.lean ====
section
/-!
DEFINITION. Meanings: the commands on doorways, motion, load switches, inputs and outputs (groups 0x03 to 0x05). Each is a complete packet of Table 9.1, with
its typed parameters, taken through the checks of Table 9.6.
-/

namespace Sys2Proof.Machine

/-- DOOR_COMMAND_OPEN (R51): Host open demand, cause 0x03, to the addressed doorways. -/
def execDoorCommandOpen (h : Hdr) (mask : BitVec 8) (s : State) : Outcome :=
  .next (s.receive h (Req.doorCommand (doorCommandParams mask.toNat 1) mask.toNat 1))

/-- DOOR_COMMAND_CLOSE (R51): Host local close, cause 0x13; in CLOSED_UNLOCKED it restarts the lock attempts. -/
def execDoorCommandClose (h : Hdr) (mask : BitVec 8) (s : State) : Outcome :=
  .next (s.receive h (Req.doorCommand (doorCommandParams mask.toNat 2) mask.toNat 2))

/-- DOOR_COMMAND_STOP (R54): Host stop demand, cause 0x20, to the addressed doorways. -/
def execDoorCommandStop (h : Hdr) (mask : BitVec 8) (s : State) : Outcome :=
  .next (s.receive h (Req.doorCommand (doorCommandParams mask.toNat 3) mask.toNat 3))

/-- DOOR_COMMAND_RESUME (R52): Resumes the kept move of STOPPED doorways. -/
def execDoorCommandResume (h : Hdr) (mask : BitVec 8) (s : State) : Outcome :=
  .next (s.receive h (Req.doorCommand (doorCommandParams mask.toNat 4) mask.toNat 4))

/-- DOOR_COMMAND_RESET (R184): Takes a doorway out of FAULT when the cause is gone, clearing the drive latches. -/
def execDoorCommandReset (h : Hdr) (mask : BitVec 8) (s : State) : Outcome :=
  .next (s.receive h (Req.doorCommand (doorCommandParams mask.toNat 5) mask.toNat 5))

/-- DOOR_STATUS (R58): Returns a snapshot of orientation, release and per-doorway status. -/
def execDoorStatus (h : Hdr) (mask detail : BitVec 8) (s : State) : Outcome :=
  .next (s.receive h (Req.doorStatus (pairParams mask.toNat detail.toNat) mask.toNat detail.toNat))

/-- DOOR_ISOLATE_SET (R59): Moves a LOCKED or RELEASED doorway to ISOLATED by command. -/
def execDoorIsolateSet (h : Hdr) (doorway : BitVec 8) (s : State) : Outcome :=
  .next (s.receive h (Req.doorIsolate (pairParams doorway.toNat 1) doorway.toNat 1))

/-- DOOR_ISOLATE_CLEAR (R59): Clears ISOLATED_BY_COMMAND and settles the doorway. -/
def execDoorIsolateClear (h : Hdr) (doorway : BitVec 8) (s : State) : Outcome :=
  .next (s.receive h (Req.doorIsolate (pairParams doorway.toNat 0) doorway.toNat 0))

/-- DOOR_TEST_CYCLE (R61): Runs 1 to 16 open–close test cycles in MAINT. -/
def execDoorTestCycle (h : Hdr) (doorway cycles : BitVec 8) (s : State) : Outcome :=
  .next (s.receive h (Req.doorTestCycle (pairParams doorway.toNat cycles.toNat) doorway.toNat cycles.toNat))

/-- ENVELOPE_LEARN (R238): Runs eight learning cycles to build the force envelopes and the closure signature. -/
def execEnvelopeLearn (h : Hdr) (doorway : BitVec 8) (s : State) : Outcome :=
  .next (s.receive h (Req.envelopeLearn (pairParams doorway.toNat 0) doorway.toNat))

/-- MOVE_TO (R138): Retargets the open position of a door in OPENING or OPEN. -/
def execMoveTo (h : Hdr) (drive mode : BitVec 8) (target speed : BitVec 32) (s : State) : Outcome :=
  .next (s.receive h (Req.moveTo (moveToParams drive.toNat mode.toNat target.toInt speed.toNat) drive.toNat mode.toNat target.toInt speed.toNat))

/-- MOVE_STOP (R141): Stop demand, cause 0x23, on the doorways of the addressed drives. -/
def execMoveStop (h : Hdr) (mask : BitVec 16) (mode : BitVec 8) (s : State) : Outcome :=
  .next (s.receive h (Req.moveStop (moveStopParams mask.toNat mode.toNat) mask.toNat mode.toNat))

/-- MOVE_RESUME (R142): Resumes the doorways of the addressed drives. -/
def execMoveResume (h : Hdr) (mask : BitVec 16) (s : State) : Outcome :=
  .next (s.receive h (Req.moveResume (wordParams mask.toNat) mask.toNat))

/-- PROFILE_WRITE (R143): Writes a checked profile context into the live pool. -/
def execProfileWrite (h : Hdr) (context : BitVec 16) (body : List Byte) (s : State) : Outcome :=
  .next (s.receive h (Req.profileWrite (wordParams context.toNat ++ body) context.toNat body))

/-- COMPARE_SET (R145): Sets or disarms a drive's position compare. -/
def execCompareSet (h : Hdr) (drive mode direction actions : BitVec 8) (position hyst : BitVec 32) (s : State) : Outcome :=
  .next (s.receive h (Req.compareSet (compareParams drive.toNat mode.toNat direction.toNat actions.toNat position.toInt hyst.toNat) drive.toNat mode.toNat
    direction.toNat actions.toNat position.toInt hyst.toNat))

/-- HOME_STEP_HOME (R221): HOME_STEP MODE 0: homes the step from where it stands. -/
def execHomeStepHome (h : Hdr) (doorway : BitVec 8) (s : State) : Outcome :=
  .next (s.receive h (Req.homeStep (pairParams doorway.toNat 0) doorway.toNat 0))

/-- HOME_STEP_MEASURE (R221): HOME_STEP MODE 1: moves to HOME_START_POS and homes, measuring SRS_OFFSET afresh. -/
def execHomeStepMeasure (h : Hdr) (doorway : BitVec 8) (s : State) : Outcome :=
  .next (s.receive h (Req.homeStep (pairParams doorway.toNat 1) doorway.toNat 1))

/-- SWITCH_SET_OFF (R307): Overrides the addressed load channels off. -/
def execSwitchSetOff (h : Hdr) (mask : BitVec 64) (s : State) : Outcome :=
  .next (s.receive h (Req.switchSet (switchParams mask.toNat 0) mask.toNat 0))

/-- SWITCH_SET_ON (R307): Overrides the addressed load channels on. -/
def execSwitchSetOn (h : Hdr) (mask : BitVec 64) (s : State) : Outcome :=
  .next (s.receive h (Req.switchSet (switchParams mask.toNat 1) mask.toNat 1))

/-- SWITCH_SET_KEEP_WARM (R307): Puts self-sensing heater channels under keep-warm regulation. -/
def execSwitchSetKeepWarm (h : Hdr) (mask : BitVec 64) (s : State) : Outcome :=
  .next (s.receive h (Req.switchSet (switchParams mask.toNat 2) mask.toNat 2))

/-- SWITCH_SET_RETURN (R307): Returns the addressed channels to their function. -/
def execSwitchSetReturn (h : Hdr) (mask : BitVec 64) (s : State) : Outcome :=
  .next (s.receive h (Req.switchSet (switchParams mask.toNat 3) mask.toNat 3))

/-- SWITCH_STATUS (R309): Returns the state of the addressed load channels. -/
def execSwitchStatus (h : Hdr) (mask : BitVec 64) (s : State) : Outcome :=
  .next (s.receive h (Req.switchStatus (le 8 mask.toNat) mask.toNat))

/-- FAULT_CLEAR (R310): Clears lock-out, back-off and, when the switch is cool, the thermal latch of the addressed channels. -/
def execFaultClear (h : Hdr) (mask : BitVec 64) (s : State) : Outcome :=
  .next (s.receive h (Req.faultClear (le 8 mask.toNat) mask.toNat))

/-- IO_READ (R347): Returns input group and output states. -/
def execIoRead (h : Hdr) (mask : BitVec 16) (s : State) : Outcome :=
  .next (s.receive h (Req.ioRead (wordParams mask.toNat) mask.toNat))

/-- OUTPUT_SET (R348): Sets the value of outputs whose source is HOST. -/
def execOutputSet (h : Hdr) (mask value : BitVec 16) (s : State) : Outcome :=
  .next (s.receive h (Req.outputSet (le 2 mask.toNat ++ le 2 value.toNat) mask.toNat value.toNat))

end Sys2Proof.Machine
end

