-- ==== Sys2Proof/Machine/FieldCmds.lean ====
section
/-!
DEFINITION. Occurrences on the field side: input levels at doorways and trainlines, the frames of the isolation link, group
validity, and the results of the load switches and outputs (chapters 1, 2, 7 and 8).
-/

namespace Sys2Proof.Machine

/-! ## Doorway inputs -/

/-- The loop keeper sees at once a raw word that shows its doorway not closed (note 39). -/
def State.keeperSees (s : State) (d : DoorIx) : State :=
  if s.loop.rawCond d s.doors[d].inp.raw then s
  else { s with loop := { s.loop with keeper := s.loop.keeper.set d (s.loop.keeper[d].frames false 2) } }

/-- R49: pushbutton transitions from inactive to active between two filtered words. -/
def buttonsPressed (old new : BitVec 16) : Nat :=
  (([5, 6, 7] : List Nat).filter (fun i => new.getLsbD i && !old.getLsbD i)).length

/-- With the leaf engine stopped the input words change and nothing acts on them but the fast paths. During an update of the
engine pushbutton transitions count as ignored demands (R49). -/
def State.quietInput (s : State) (d : DoorIx) (f : DoorEnv → Work → Work) : State :=
  let new := (f (s.doorEnv d) ⟨s.doors[d], []⟩).dw
  let updating := s.engines.states[leafEngine d] == .updating
  s.onDoor d (fun w =>
    let k := w.sm.counters
    let n := if updating then buttonsPressed w.inp.filtered new.inp.filtered else 0
    { w with
      inp := new.inp, obst := { w.obst with seFast := new.obst.seFast }
      sm := { w.sm with counters := { k with ignoredDemands := satTo 16 (k.ignoredDemands + n) } } })

/-- An occurrence that is a change of a doorway's inputs. The inputs of an invalid group hold (R325). -/
def State.doorInput (s : State) (d : DoorIx) (f : DoorEnv → Work → Work) : State :=
  if !s.fieldOn || !s.cfg.isFitted d || !s.doors[d].inp.flags.valid then s
  else
    let t :=
      if s.leafRuns d then s.runDoor d f else s.quietInput d f
    ((t.keeperSees d).egressRows d).evaluate

/-! ## Trainline inputs -/

/-- R94: bypass starts or ends at the supervisor pair. -/
def State.bypassCheck (s : State) : State :=
  let r := s.loop.bypassChanges s.loopEnv
  if !s.supvRuns || !r.2 then s
  else
    let s := ({ s with loop := r.1 }).loopEvents [0xE203]
    let d := lowestDoor (fun d => !supvFull (s.doorView d))
    s.incident 6 true d (d.map doorDrive) s.loop.bypassActive (!s.loop.bypassActive)

/-- The trainline group changes, and with it orientation, release, bypass and the loop. -/
def State.onTrain (s : State) (f : InGroup → InGroup) : State :=
  let before := s.train.filtered
  let s := { s with train := f s.train }
  let s := { s with loop := s.loop.inputsChanged s.loopEnv before }
  (s.bypassCheck.bypassRow).supervise

/-- A trainline input takes a level, raw and filtered alike (note 3). -/
def InGroup.setLevel (q : InGroup) (c : Cfg) (i : Nat) (b : Bool) : InGroup :=
  { q with raw := setBit q.raw i b, filtered := setBit q.filtered i b
           counts := q.counts.set i (if b then filterSize c 8 i else 0) }

/-- An occurrence at a trainline input; the inputs of an invalid group hold (R325). -/
def State.trainInput (s : State) (i : Nat) (b : Bool) : State :=
  if !s.fieldOn || !s.train.flags.valid then s else s.onTrain (fun q => q.setLevel s.cfg i b)

/-- The index of a release or zero-speed input (Table 8.1). -/
def relIndex : RelInput → Nat
  | .relL => 0 | .relR => 1 | .zspd1 => 3 | .zspd2 => 4

/-- TL_LOOP_BYP changes: the keeper sees the raw input as the supervisor pair the filtered one (note 39). -/
def State.bypassInput (s : State) (b : Bool) : State :=
  if !s.fieldOn || !s.train.flags.valid then s
  else
    let s := { s with loop := { s.loop with bypassView := s.loop.bypassView.frames b (if b then 200 else 2) } }
    s.trainInput 7 b

/-- Results of the loop's own occurrences, taken by a running supervisor pair. -/
def State.takeLoop (s : State) (f : Loop → LoopEnv → Loop × List Nat) : State :=
  if !s.supvRuns then s
  else
    let r := f s.loop s.loopEnv
    (({ s with loop := r.1 }).loopEvents r.2).supervise

/-- R86: LOOP_DISAGREE_TIME ends for a pair; a latched DISCREPANCY is incident 7. -/
def State.disagrees (s : State) (p : LoopPair) : State :=
  if !s.supvRuns then s
  else
    let r := s.loop.disagree s.loopEnv p
    let s' := ({ s with loop := r.1 }).loopEvents r.2
    let d := lowestDoor (fun d => s.loop.pairDiffers s.loopEnv (.door d))
    (if r.2.isEmpty then s' else s'.incident 7 true d (d.map doorDrive) false false).supervise

/-- R82: LOOP_RB_TIME ends against the command; a set flag is incident 8. -/
def State.readsBack (s : State) : State :=
  if !s.supvRuns then s
  else
    let r := s.loop.readback s.loopEnv
    let s' := ({ s with loop := r.1 }).loopEvents r.2
    (if r.2.isEmpty then s' else s'.incident 8 true none none false false).supervise

/-! ## Isolation groups -/

/-- 0xE801 with the group as it stands (Table 8.12). -/
def State.groupEvent (s : State) (g : GroupIx) (code : Nat) : State :=
  s.event 0xE801 (ioEvent s.now g.val code (s.group g).raw.toNat (s.vCom g))

/-- Runs a group's change: its doorway ticks, or the trainlines are evaluated. -/
def State.runGroup (s : State) (g : GroupIx) (f : InGroup → InGroup) : State :=
  if h : g.val < 8 then
    let d : DoorIx := ⟨g.val, h⟩
    let t := if s.leafRuns d then s.runDoor d (fun e w => doorTick e { w with dw := { w.dw with inp := f w.dw.inp } })
      else s.onDoor d (fun w => { w with inp := f w.inp })
    (t.egressRows d).evaluate
  else s.onTrain f

/-- The field side of a group is supplied (R315). -/
def State.frontOn (s : State) (g : GroupIx) : Bool := s.fieldOn && s.groupUsed g

/-- R26, R326: the logic side sees the common fault bit of a group. -/
def State.groupFault (s : State) (g : GroupIx) (on : Bool) : State :=
  if !s.frontOn g || (s.group g).flags.commonFault == on then s
  else ((s.onGroup g (fun q => q.seeFault on)).groupEvent g (if on then 1 else 2)).runGroup g id

/-- R331: the group is marked valid after 16 consecutive valid frames; without applied settings it stays invalid (R329).
Filter counters not yet loaded are loaded from the raw state (R325). -/
def State.groupValid (s : State) (g : GroupIx) : State :=
  let q := s.group g
  if !s.frontOn g || q.flags.valid || !(q.flags.applied || q.front.applied) then s
  else
    let load (q : InGroup) : InGroup :=
      if q.loaded then q
      else { q with counts := loadedCounts s.cfg g q.raw, filtered := q.raw, loaded := true }
    let s := s.onGroup g (fun q => { q with validRun := 16, flags := { q.flags with valid := true, applied := true } })
    (s.groupEvent g 4).runGroup g load

/-- R331, R334: the group is marked invalid. -/
def State.groupInvalid (s : State) (g : GroupIx) : State :=
  if !s.frontOn g || !(s.group g).flags.valid then s
  else
    let s := s.onGroup g (fun q => { q with validRun := 0, invalidations := satInc 16 q.invalidations
                                            flags := { q.flags with valid := false } })
    let s := s.groupEvent g 3
    (if h : g.val < 8 then s.invalidRow ⟨g.val, h⟩ else s).runGroup g id

/-- What one frame, or its absence, shows the loop keeper of a group (R84). -/
def State.keeperFrame (s : State) (g : GroupIx) (raw : Option (BitVec 16)) : State :=
  if h : g.val < 8 then
    let d : DoorIx := ⟨g.val, h⟩
    let shows : Bool := match raw with
      | some r => s.loop.rawCond d r
      | none => false
    { s with loop := { s.loop with keeper := s.loop.keeper.set d (s.loop.keeper[d].frames shows 1) } }
  else
    let shows : Bool := match raw with
      | some r => r.getLsbD 7
      | none => false
    { s with loop := { s.loop with bypassView := s.loop.bypassView.frames shows 1 } }

/-- R335, R336: with TL_MODE 1 the couplers give bits 0 to 7 of the trainline group's RAW. -/
def shownRaw (q : InGroup) (g : GroupIx) (raw : BitVec 16) : BitVec 16 :=
  if g.val = 8 ∧ q.front.legacy then (raw &&& 0xFF00) ||| (q.front.raw &&& 0x00FF) else raw

/-- The order in which the filtered changes of one frame act: those of a higher rank, the egress inputs, first (R33). -/
def filterOrder : List Nat := [3, 4, 0, 1, 2, 5, 6, 7, 8, 9, 10, 11]

/-- R324: one valid frame reaches a doorway's filters; raw and filtered changes act in turn. -/
def filterDoor (e : DoorEnv) (raw : BitVec 16) (w : Work) : Work :=
  let g : GroupIx := ⟨e.d.val, by omega⟩
  let q := w.dw.inp
  let w := (List.range 12).foldl (fun w i => rawChange e i (raw.getLsbD i) w) w
  let counts := q.counted e.cfg g 1 raw
  let filtered := q.filteredBy e.cfg g counts raw
  let w := filterOrder.foldl (fun w i => filteredChange e i (filtered.getLsbD i) w) w
  { w with dw := { w.dw with inp := { w.dw.inp with counts := counts } } }

/-- The filters of a valid group take one valid frame (R324); before the first they load from it (R325). -/
def State.filterFrame (s : State) (g : GroupIx) (raw : BitVec 16) : State :=
  let q := s.group g
  if !q.loaded then
    s.onGroup g (fun q => { q with raw := raw, counts := loadedCounts s.cfg g raw, filtered := raw, loaded := true })
  else if !q.flags.valid then s.onGroup g (fun q => { q with raw := raw })
  else if h : g.val < 8 then
    let d : DoorIx := ⟨g.val, h⟩
    if s.leafRuns d then s.runDoor d (fun e w => doorTick e (filterDoor e raw w))
    else s.quietInput d (fun e => filterDoor e raw)
  else
    let counts := q.counted s.cfg g 1 raw
    s.onTrain (fun q => { q with raw := raw, counts := counts, filtered := q.filteredBy s.cfg g counts raw })

/-- R330, R331, R324, R84: an uplink frame of a group arrives in RUN. -/
def State.uplink (s : State) (g : GroupIx) (group seq : Nat) (crcOk : Bool) (raw : BitVec 16) (flags : Nat) : State :=
  let q := s.group g
  if !s.frontOn g || s.power.mode != .run then s
  else if !crcOk then
    s.onGroup g (fun q => { q with bad := true, validRun := 0, crcErrors := satInc 32 q.crcErrors })
  else if group ≠ g.val ∨ !seqValid q.lastSeq q.bad seq then s.onGroup g (fun q => { q with bad := true, validRun := 0 })
  else
    let raw := shownRaw q g raw
    let s := s.onGroup g (fun q => { q with
      lastSeq := some (seq % 16), bad := false, validRun := min 16 (q.validRun + 1)
      flags := { q.flags with applied := bitOf flags 2, legacy := q.front.legacy } })
    let s := (s.keeperFrame g (some raw)).filterFrame g raw
    let s := s.groupFault g (bitOf flags 0)
    let s := if (s.group g).validRun = 16 then s.groupValid g else s
    let s := if h : g.val < 8 then s.egressRows ⟨g.val, h⟩ else s.bypassRow
    s.evaluate

/-- R84: a frame period of a group passes with no valid frame. -/
def State.uplinkMissed (s : State) (g : GroupIx) : State :=
  if !s.frontOn g || s.power.mode != .run then s
  else ((s.onGroup g (fun q => { q with validRun := 0 })).keeperFrame g none).evaluate

/-- R84: a doorway has shown closed in every frame for 4 ms. -/
def State.keeperSettles (s : State) (d : DoorIx) : State :=
  if s.frontOn ⟨d.val, by omega⟩ && s.doors[d].inp.flags.valid && s.loop.rawCond d s.doors[d].inp.raw then
    ({ s with loop := { s.loop with keeper := s.loop.keeper.set d s.loop.keeper[d].settle } }).evaluate
  else s

/-! ## Front ends -/

/-- A change of a group's field side. -/
def State.onFront (s : State) (g : GroupIx) (f : FrontEnd → FrontEnd) : State :=
  if s.frontOn g then s.onGroup g (fun q => { q with front := f q.front }) else s

/-- R326: COMMON_FAULT is set while a cause is present. -/
def FrontEnd.raise (f : FrontEnd) (g : GroupIx) : FrontEnd := { f with commonFault := f.commonFault || f.causePresent g }

/-- R326: the break time of a supervised doorway input reaches 50 ms. -/
def FrontEnd.lineBreak (f : FrontEnd) (g : GroupIx) (i : Nat) : FrontEnd :=
  if g.val < 8 ∧ f.eolMask.getLsbD i then
    { f with breakMask := setBit f.breakMask i true, breakTime := f.breakTime.set i 50000 }.raise g
  else f

/-- Number of inputs of a group (R314). -/
def inputsOf (g : GroupIx) : Nat := if g.val < 8 then 12 else 9

/-- R320, R321: one sample of an input. -/
def State.sampleInput (s : State) (g : GroupIx) (i vIn vCom : Nat) : State :=
  if !s.frontOn g || decide (inputsOf g ≤ i) then s
  else
    s.onGroup g (fun q =>
      let r := q.front.sample g s.now i vIn vCom
      let f := if 50000 ≤ r.1.breakTime.getD i 0 then r.1.lineBreak g i else r.1
      { q with front := f, wettingPulses := if r.2 then satInc 32 q.wettingPulses else q.wettingPulses })

/-- MODE of the downlink (Table 8.5). -/
def State.linkMode (s : State) : Nat := if s.power.mode == .stable then 1 else if s.outs.held then 2 else 0

/-- R329, R330, R332: the field side of a group receives a downlink frame. -/
def State.downlink (s : State) (g : GroupIx) (group seq : Nat) (crcOk : Bool) (index : Nat) : State :=
  let f := (s.group g).front
  if !s.frontOn g then s
  else if !crcOk || decide (group ≠ g.val) || !seqValid f.downSeq f.downBad seq then
    s.onFront g (fun f => { f with downBad := true, downRun := 0 })
  else
    let s := s.onFront g (fun f =>
      let f := { f with downSeq := some (seq % 16), downBad := false, downRun := min 16 (f.downRun + 1), mode := s.linkMode }
      f.takeWord index (settingsWord s.cfg g index))
    if g.val ≠ 8 then s
    else if 16 ≤ s.train.front.downRun then
      let r := s.outs.leaveSafe s.outEnv s.now
      let t := ({ s with outs := r.1.take s.outEnv }).events r.2
      t.onFront 8 (fun f => { f with downLost := false })
    else { s with outs := s.outs.take s.outEnv }

/-! ## Outputs and load switches -/

/-- Results of the outputs' own occurrences, where FIELD_IO is on. -/
def State.takeOuts (s : State) (f : OutEnv → FieldOutputs → FieldOutputs × Events) : State :=
  if !s.fieldOn then s
  else
    let r := f s.outEnv s.outs
    ((({ s with outs := r.1 }).events r.2).evaluate).fresh

/-- R332: the downlink of group 8 is lost. -/
def State.downlinkLost (s : State) : State :=
  (s.onFront 8 (fun f => { f with downLost := true, downRun := 0 })).takeOuts (fun e f => f.enterSafe e s.now)

/-- Results of the load-switch controllers, where FIELD_IO is on. -/
def State.takeLsw (s : State) (f : LswEnv → LoadSwitches → LoadSwitches × Events) : State :=
  if !s.fieldOn then s
  else
    let r := f s.lswEnv s.lsw
    ((({ s with lsw := r.1 }).events r.2).evaluate).fresh

/-- R345: 2.0 s into a supervisor update the held sources take OUT_SAFE. -/
def holdEnds (e : OutEnv) (f : FieldOutputs) : FieldOutputs × Events :=
  if f.held then (({ f with heldOut := true }).evaluate e, []) else (f, [])

/-- R97: 2.0 s of KEEPER_ALONE in a supervisor update are over. -/
def State.keeperTimesOut (s : State) : State :=
  if s.fieldOn then ({ s with loop := s.loop.aloneTimeout }).evaluate else s

end Sys2Proof.Machine
end

