-- ==== Sys2Proof/Machine/DriveCmds.lean ====
section
/-!
DEFINITION. Occurrences at the drives and at Quince that concern more than one part: onset and level rows, Rowan trips, the
clock fault, the DC link, position compare and encoder outputs, and the resume after a substitution (chapters 3, 4, 6, 16).
-/

namespace Sys2Proof.Machine

/-! ## Onset rows (R228, R236, R247) -/

/-- R251, R323: a sensitive-edge fast path sees voltages, and its event begins where they make it active
(DEDUCED, notes 24 and 123). -/
def State.edgeOnset (s : State) (d : DoorIx) (x : EdgeSample) : State :=
  let was := if x.second then s.doors[d].obst.seFast.2 else s.doors[d].obst.seFast.1
  if !s.cfg.isFitted d || was || !s.doors[d].inp.front.fastPath was (if x.second then 9 else 8) x.vIn x.vCom then s
  else
    let s := s.onDoor d (fun w => { w with obst := { w.obst with
      seFast := if x.second then (w.obst.seFast.1, true) else (true, w.obst.seFast.2) } })
    (s.latchRow (if x.second then ⟨2 * d.val + 1, by omega⟩ else ⟨2 * d.val, by omega⟩) 0 drives).fresh

/-- R236: whether Rowan compares, and whether it does so at rest in phase DWELL. -/
def rowanCompares (w : Doorway) : Bool × Bool :=
  let dwell := decide (w.sm.state = .reopening ∧ w.sm.phase = .reopenDwell) && (w.door.gen.state == .hold || w.door.gen.state == .stoppedMid)
  let stroke := w.door.gen.state == .moving && decide (5000 ≤ w.door.gen.ref.vel.natAbs)
  let latched := decide (2 ≤ w.door.latch.action.strength)
  ((stroke || w.door.flags.sealSeek || dwell) && !latched && !w.obst.flags.reflexStop, dwell)

/-- R230, R232, R236: the sign of travel, the effort and the limit in force of a sample. -/
def rowanSample (e : DoorEnv) (w : Doorway) (iq acc temp : Int) : Int × Int × Int :=
  if (rowanCompares w).2 then
    let s := sgn (driveForce e.cfg e.d iq)
    (s, effort e.cfg e.d s iq 0 (doorKin e w).vel, effortCeiling e w s)
  else
    let s := sgn w.door.gen.ref.vel
    (s, effort e.cfg e.d s iq acc (doorKin e w).vel, effortLimit e w s temp)

/-- R236: ENV_CONFIRM samples in succession lay above the limit; the operands are those of the sample that completes them. -/
def State.rowanTrips (s : State) (d : DoorIx) (iq acc temp : Int) : State :=
  let w := s.doors[d]
  let x := rowanSample (s.doorEnv d) w iq acc temp
  if !s.cfg.isFitted d || !s.power.on (leafDomain d) || !(rowanCompares w).1 || decide (x.1 = 0) || decide (x.2.1 ≤ x.2.2) then s
  else
    let s := s.onDoor d (fun w => { w with obst := { w.obst with lastEffort := x.2.1, lastLimit := x.2.2 } })
    (s.latchRow (if x.1 < 0 then ⟨16 + 2 * d.val, by omega⟩ else ⟨17 + 2 * d.val, by omega⟩) 0 drives).fresh

/-- R247, R249: the final-closure check runs: in phase MOVE past the mark, or below it for the closed count alone. -/
def finalClosureRuns (e : DoorEnv) (w : Doorway) (m : FinalClosure) : Bool :=
  let count : Bool := match m with
    | .count _ => true
    | _ => false
  decide (w.course = (.closing, .move)) && closureApplies e w
    && (w.obst.flags.pastMark || (count && decide ((doorKin e w).pos < 30000)))

/-- The energy of a tripping close is its SIG_ENERGY (Table 6.10). -/
def Doorway.withEnergy (w : Doorway) (m : FinalClosure) : Doorway :=
  match m with
  | .energy x => { w with obst := { w.obst with sigEnergy := x }, cycle := w.cycle.map (fun c => { c with sigEnergy := x }) }
  | .timing _ _ => w
  | .count _ => w

/-- R247, R250: a final-closure criterion is met. -/
def State.closureTrips (s : State) (d : DoorIx) (m : FinalClosure) : State :=
  let w := s.doors[d]
  if !s.cfg.isFitted d || !finalClosureRuns (s.doorEnv d) w m || !finalClosureTrips s.cfg d w.obst m then s
  else
    let s := s.onDoor d (fun w => w.withEnergy m)
    (s.latchRow ⟨32 + d.val, by omega⟩ (FinalClosure.number m) drives).fresh

/-! ## Level rows (R251, R659) -/

/-- A raw egress input as the isolation link carries it. -/
def State.rawEgress (s : State) (d : DoorIx) (i : Nat) (on : Bool) : State :=
  if !s.fieldOn || !s.cfg.isFitted d || !s.doors[d].inp.flags.valid then s
  else
    let s := s.onDoor d (fun w => { w with inp := { w.inp with raw := setBit w.inp.raw i on } })
    ((s.keeperSees d).egressRows d).evaluate

/-- The raw bypass input as the isolation link carries it. -/
def State.rawBypass (s : State) (on : Bool) : State :=
  if !s.fieldOn || !s.train.flags.valid then s
  else (({ s with train := { s.train with raw := setBit s.train.raw 7 on }
                  loop := { s.loop with bypassView := s.loop.bypassView.frames on 2 } }).bypassRow).evaluate

/-- A level row's event starts or ends; the own rows name a drive. Onset rows are no levels. -/
def State.levelRow (s : State) (row : RowIx) (r : DriveIx) (on : Bool) : State :=
  let n := row.val
  if n < 40 ∨ n = 62 then s
  else if n < 56 then s.rawEgress ⟨(n - 40) / 2 % 8, by omega⟩ (3 + n % 2) on
  else if n = 56 then s.rawBypass on
  else if n = 57 then s.tripRows r on
  else if n = 58 then s.tripRows (otherDrive r) on
  else if n = 63 then (if !s.doors[doorOf r].inp.flags.valid && on then s.invalidRow (doorOf r) else s)
  else s.setLevel row on

/-- R182: the DC link leaves its range: row 59 or 60, and every drive is interrupted. Its voltage is then a free value. -/
def State.dcLinkOut (s : State) (high : Bool) : State :=
  if !s.power.on 9 then s
  else
    let s := s.onPower (fun p => { p with dcLink := Config.measured .dcLink s.free })
    ((s.setLevel (if high then 60 else 59) true).interruptDrives (if high then .dcHigh else .dcLow)).fresh

/-- R658: the cause of an interruption of a drive ends; with the DC link back in range its row ends too. -/
def State.interruptionEnds (s : State) (r : DriveIx) (x : Interruption) : State :=
  let s := match x with
    | .dcLow => s.setLevel 59 false
    | .dcHigh => s.setLevel 60 false
    | _ => s
  if s.cfg.driveFitted r then s.runDoor (doorOf r) (fun e w => onInterruptionEnd e (isStep r) x w) else s

/-! ## Latches and the clock (R255 to R261) -/

/-- R261: a doorway's reflex stop ends. -/
def State.reflexStopEnds (s : State) (d : DoorIx) : State :=
  s.runDoor d onReflexStopEnd

/-- R268: a doorway's latches are released. -/
def State.latchReleases (s : State) (d : DoorIx) : State :=
  s.runDoor d onLatchRelease

/-- A drive that moves or holds. -/
def Gen.energised (g : Gen) : Bool := g.state == .moving || g.state == .hold || g.state == .stoppedMid

/-- R255: a doorway with a moving or holding drive at a clock fault. A doorway in EGRESS or ISOLATED, and one whose group is
invalid, stay under their own ranks (Table 1.5), its drives without torque. -/
def onClockFault (e : DoorEnv) (w : Work) : Work :=
  if !w.dw.door.gen.energised && !w.dw.step.gen.energised then w
  else
    let w := if w.dw.step.gen.energised then stepTorqueRemoved e w else w
    match w.dw.sm.state with
    | .fault | .egress | .isolated => drivesOff e w
    | _ => enterFault e .faultDrive w

/-- R255: Quince's clock has stopped. -/
def State.clockFails (s : State) : State :=
  if !s.quince.oscillator then s
  else
    let s := { s with quince := { s.quince with oscillator := false, clockFaults := satInc 16 s.quince.clockFaults } }
    (doorways.foldl (fun s d => if s.cfg.isFitted d then s.runDoor d onClockFault else s) s).incident 9 true none none false false

/-! ## Compare and encoder outputs (R130 to R136) -/

/-- R130 to R134: a drive's compare is tested at its position: it fires, is re-armed, or is left. -/
def State.compareTests (s : State) (r : DriveIx) : State :=
  if !s.cfg.driveFitted r || !s.power.on (leafDomain (doorOf r)) then s
  else
    let t := s.changeDoor (doorOf r) (fun e w => if isStep r then stepCompare e w else doorCompare e w)
    if t.outs.pulse = s.outs.pulse then t else t.evaluate

/-- R135: an output edge: A leads B where the source position increases, with INVERT 1 where it decreases. -/
def Encoder.edge (x : Encoder) (invert up : Bool) : Encoder :=
  let x := { x with edges := if up then x.edges + 1 else x.edges - 1 }
  if decide (x.a = x.b) == (up != invert) then { x with a := !x.a } else { x with b := !x.b }

/-- R135: one source count. -/
def Encoder.count (x : Encoder) (n m : Nat) (invert up : Bool) : Encoder :=
  let acc := if up then x.acc + n else x.acc - n
  if (m : Int) ≤ acc then ({ x with acc := acc - m } : Encoder).edge invert true
  else if acc ≤ -(m : Int) then ({ x with acc := acc + m } : Encoder).edge invert false
  else { x with acc := acc }

/-- R135: a source count of an encoder output whose source drive is fitted and supplied. -/
def State.encoderCounts (s : State) (x : Fin 2) (up : Bool) : State :=
  let n := s.cfg.encSourceDrive x
  let r : DriveIx := Fin.ofNat 16 n
  if decide (16 ≤ n) || !s.cfg.driveFitted r || !s.power.on (leafDomain (doorOf r)) then s
  else
    let y := s.encoders[x].count (s.cfg.encRatioN x) (s.cfg.encRatioM x) (s.cfg.encInvert x == 1) up
    { s with encoders := s.encoders.set x y }

/-! ## Hall code and sensitive edges (R153, R154, R228) -/

/-- R153, R154: the Hall code of a door drive changes. The counter runs while its domain is supplied, whatever its engine
does. -/
def State.hallChanges (s : State) (d : DoorIx) (code since : Nat) : State :=
  if !s.cfg.isFitted d || !s.power.on (leafDomain d) then s
  else
    let x := hallHardware (s.doorEnv d) code since ⟨s.doors[d], []⟩
    let s := (s.changeDoor d (fun e w => (hallHardware e code since w).1)).evaluate
    s.runDoor d (fun e w => hallReacts e x.2 w)

/-- R228: the supervisor pair compares the fast and the filtered states of a doorway's edges. -/
def State.edgesCompared (s : State) (d : DoorIx) (f : DoorEnv → Work → Work) : State :=
  if !s.cfg.isFitted d || !s.supvRuns then s else (s.changeDoor d f).fresh

/-! ## The resume after a substitution (R603) -/

/-- The spare of a doorway's pair serves a leg of that doorway. -/
def State.spareServes (s : State) (d : DoorIx) : Bool :=
  let p := pairOf d
  let b := s.service.brambles[p]
  b.state == .inUse && b.running.isNone && (match b.leg with
    | some l => doorOf (legDrive p l) == d
    | none => false)

/-- R603: a doorway is resumed as under RESUME once both drives rest; Table 1.11 may refuse it. -/
def onAutoResume (e : DoorEnv) (w : Work) : Work :=
  if w.dw.sm.state = .stopped ∧ w.dw.sm.cause = .stopDriveInterrupted ∧ w.dw.door.gen.state != .moving
      ∧ w.dw.step.gen.state != .moving ∧ (refuseResume e w.dw).isNone then
    doResume e w
  else w

/-! ## One doorway or drive -/

/-- An occurrence at a fitted doorway. -/
def State.atDoor (s : State) (d : DoorIx) (f : DoorEnv → Work → Work) : State := if s.cfg.isFitted d then s.runDoor d f else s

/-- An occurrence at a fitted step drive. -/
def State.atStep (s : State) (d : DoorIx) (f : DoorEnv → Work → Work) : State :=
  if s.cfg.driveFitted (stepDrive d) then s.runDoor d f else s

/-- An occurrence at a fitted drive. -/
def State.atDrive (s : State) (r : DriveIx) (f : DoorEnv → Work → Work) : State :=
  if s.cfg.driveFitted r then s.runDoor (doorOf r) f else s

end Sys2Proof.Machine
end

