-- ==== Sys2Proof/Machine/EngineCmds.lean ====
section
/-!
DEFINITION. What happens to the engines (chapter 15): watchdogs, the supervisor pair's stop and restart, the comms engine's
restart, the application engine with its timers, mailbox and registers, and the interrupt controller.
-/

namespace Sys2Proof.Machine

/-- Changes the engines. -/
def State.onEngines (s : State) (f : Engines → Engines) : State := { s with engines := f s.engines }

/-- Engines with the events they send. -/
def State.takeEngines (s : State) (r : Engines × Events) : State := ({ s with engines := r.1 }).events r.2

/-- A watchdog's expiry is counted. -/
def Engines.expired (g : Engines) (e : Fin 12) : Engines := { g with expiries := g.expiries.set e (satInc 16 g.expiries[e]) }

/-! ## Leaf engines (Table 15.2) -/

/-- The drives lose their torque in hardware and the doorway enters FAULT 0x57; a doorway in EGRESS or ISOLATED stays under
its own rank (Table 1.5). -/
def onEngineStop (e : DoorEnv) (w : Work) : Work :=
  let w := if w.dw.step.gen.energised then stepTorqueRemoved e w else w
  let w := match w.dw.sm.state with
    | .fault | .egress | .isolated => drivesOff e w
    | _ => enterFault e .faultLeafEngine w
  w.smFlags (fun f => { f with halted := true })

/-- R568, R593: a leaf engine stops; the third stop within 3,600 s holds it. -/
def State.leafStops (s : State) (d : DoorIx) : State :=
  let times := s.now :: lastHour s.now s.engines.leafTimes[d]
  let held := decide (3 ≤ times.length)
  let s := if s.cfg.isFitted d then s.runDoor d onEngineStop else s
  let s := s.onEngines (fun g => { g with
    leafTimes := g.leafTimes.set d times, states := g.states.set (leafEngine d) (if held then .held else .loading) })
  if held then s.takeEngines (s.engines, [s.engines.event s.now (leafEngine d) 2 0]) else s

/-- R568: a leaf engine's watchdog expires. -/
def State.leafExpires (s : State) (d : DoorIx) : State :=
  if s.leafRuns d then (s.onEngines (fun g => g.expired (leafEngine d))).leafStops d else s

/-- R568: a leaf engine has been reloaded and started; its doorway leaves FAULT on RESET only. -/
def State.leafRestarts (s : State) (d : DoorIx) : State :=
  if s.engines.states[leafEngine d] ≠ .loading then s
  else
    let s := s.takeEngines ((s.engines.again s.now (leafEngine d)))
    let s := s.onEngines (fun g => { g with states := g.states.set (leafEngine d) .running })
    if s.cfg.isFitted d then s.runDoor d (fun e w => doorTick e (w.smFlags (fun f => { f with halted := false }))) else s

/-! ## The supervisor pair (R570 to R572) -/

/-- R571: the pair stops: toggles, permits and load-switch frames stop, row 61 is raised; the third stop within 3,600 s
halts it. -/
def State.supvStops (s : State) (watchdog : Bool) : State :=
  if !s.supvRuns then s
  else
    let times := s.now :: lastHour s.now s.engines.supvTimes
    let held := decide (3 ≤ times.length)
    let st : EngState := if held then .held else .loading
    let s := s.onEngines (fun g =>
      let g := if watchdog then (g.expired 8).expired 9 else { g with mismatches := satInc 16 g.mismatches }
      { g with supvTimes := times, halted := g.halted || held, states := (g.states.set 8 st).set 9 st })
    let s := s.takeEngines (s.engines, s.engines.event s.now 8 3 0 :: (if held then [s.engines.event s.now 8 2 0] else []))
    let s := { s with loop := s.loop.supvStops }
    (s.setLevel 61 true).supervise

/-- R572: the pair runs again; the loop closes only under R100. -/
def State.supvRestarts (s : State) : State :=
  if s.engines.states[(8 : Fin 12)] ≠ .loading then s
  else
    let s := s.takeEngines (s.engines.pairAgain s.now)
    let s := s.onEngines (fun g => { g with states := (g.states.set 8 .running).set 9 .running })
    let s := { s with loop := { s.loop with supvStopped := false, starting := true } }
    (s.bypassCheck.setLevel 61 false).supervise

/-! ## The comms engine (R569) -/

/-- R569: an operation that has not reached its commitment point ends. A doorway goes on as its leaf engine has it; a
maintenance operation is brought to its end as by ABORT (note 78). -/
def State.orphaned (s : State) (o : Operation) : State :=
  match o.kind with
  | .doorOpen | .doorClose | .doorResume | .moveTo _ | .incidentErase => s
  | .testCycle | .learn => match s.doorOfOp o.handle with
    | some d => if s.doors[d].maintCommitted then s else s.runDoor d maintAbort
    | none => s
  | .homeStep => match s.doorOfOp o.handle with
    | some d => if s.doors[d].maintCommitted then s else s.runDoor d abortHome
    | none => s
  | .cfgCommit => s.commitAborts
  | .powerEnter =>
    (s.onPower (fun p => { p with entry := p.entry.map (fun n => { n with aborted := true }) })).entryChecks
  | .fwActivate => s.activationAborts
  | .selftest => { s with service := { s.service with selftest := s.service.selftest.map (fun t => { t with aborted := true }) } }
  | .legSubstitute => match s.pairOfSub o.handle with
    | some (p, u) => s.subAborts p u o.handle
    | none => s

/-- R569: the comms engine stops: sessions close, operations short of their commitment point end, results are discarded. -/
def State.commsStops (s : State) : State :=
  let s := s.onEngines (fun g => { g with states := g.states.set 10 .loading })
  let s := ((s.fcp.ops.filter (fun o => o.state == .running)).foldl State.orphaned s).closeAll
  { s with fcp := { s.fcp with ops := [], deferred := [], commander := tab 8 (fun _ => none) } }

/-- R568: the comms engine's watchdog expires. -/
def State.commsExpires (s : State) : State :=
  if s.commsRuns then (s.onEngines (fun g => g.expired 10)).commsStops else s

/-- R569: the comms engine has been reloaded and started. -/
def State.commsRestarts (s : State) : State :=
  if s.engines.states[(10 : Fin 12)] ≠ .loading then s
  else
    let s := s.takeEngines (s.engines.again s.now 10)
    s.onEngines (fun g => { g with states := g.states.set 10 .running })

/-! ## The application engine (R573 to R583) -/

/-- The application executes. -/
def State.appRuns (s : State) : Bool := s.engines.app.state == .running

/-- Changes the application engine while the application runs. -/
def State.onApp (s : State) (f : App → App) : State := if s.appRuns then s.onEngines (fun g => g.onApp f) else s

/-- R574: an out-of-rights access. -/
def State.violates (s : State) (addr : Nat) : State := s.onApp (fun a => a.violate addr)

/-- R578: half a watchdog period without a kick. -/
def State.appHalf (s : State) : State := if s.cfg.appWdTime = 0 then s else s.onApp (fun a => { a with wdHalf := true })

/-- R578: a full watchdog period without a kick. -/
def State.appExpires (s : State) : State :=
  if s.cfg.appWdTime = 0 ∨ !s.appRuns then s else (s.onEngines (fun g => g.expired 11)).appEnds 1

/-- R583: an exception with mtvec outside the code region. -/
def State.appExcepts (s : State) : State := if s.appRuns then s.appEnds 3 else s

/-- R585: a FAULTED application starts again. -/
def State.appRestarts (s : State) : State :=
  if !s.power.on 4 || !s.engines.app.mayRestart s.cfg s.now then s
  else
    (s.onEngines (fun g => g.onApp (fun a => { a with
      restarts := satInc 16 a.restarts, restartTimes := s.now :: lastHour s.now a.restartTimes }))).appStarts

/-- R577: a read of TMR_NOW_LO latches the high half of module time. -/
def State.readNow (s : State) : State := s.onApp (fun a => { a with nowHi := s.now / 2 ^ 32 % 2 ^ 32 })

/-- R578: TMR_WD_KICK. -/
def State.kick (s : State) : State := s.onApp (fun a => { a with wdKick := s.mono, wdHalf := false })

/-- R577: TMR_CTRL(k). -/
def State.timerControl (s : State) (k : Fin 4) (v : BitVec 32) : State :=
  s.onApp (fun a => { a with timers := a.timers.set k (a.timers[k].control s.mono v) })

/-- R577: timer k counts to zero; the timers run while their domain is on. -/
def State.timerExpires (s : State) (k : Fin 4) : State :=
  if s.power.on 4 then s.onEngines (fun g => g.onApp (fun a => { a with timers := a.timers.set k (a.timers[k].expire s.mono) })) else s

/-- R580: MBX_POST; bits 1 to 0 are the slot, 26 to 16 the length. -/
def State.mailPost (s : State) (v : BitVec 32) : State :=
  s.onApp (fun a => a.post (Fin.ofNat 4 (v.toNat % 4)) (v.toNat / 65536 % 2048))

/-- R581: MBX_ACK. -/
def State.mailAck (s : State) (v : BitVec 32) : State := s.onApp (fun a => a.ack (v.toNat % 16))

/-- R580: the comms engine takes the slot posted first, unless session 5 is PAUSED. -/
def State.mailTaken (s : State) : State :=
  if !s.commsRuns || s.fcp.sessions[(5 : SessIx)].state == .paused then s
  else match s.engines.app.take with
    | none => s
    | some (a, bytes) => (s.onEngines (fun g => { g with app := a })).packet .mailbox 0 false bytes

/-- R581: the comms engine fills the next inbound slot from session 5's transmit queue. -/
def State.mailFill (s : State) : State :=
  match s.fcp.sessions[(5 : SessIx)].txQueue with
  | [] => s
  | p :: _ =>
    if !s.commsRuns || !s.engines.app.inboundFree then s
    else (s.onEngines (fun g => g.onApp (fun a => a.deliver p.bytes))).onSession 5 Session.sendNext

/-- The bytes of the doorway status mirror (R576). -/
def State.mirrorBytes (s : State) : List Byte :=
  s.doorStatus 0xFF true ++ List.replicate 20 0 ++ le 4 0 ++ le 4 s.loopFlags ++ le 8 s.config.cfgId

/-- R576: one refresh of the mirror; MIRROR_SEQ rises at its start and at its end. -/
def State.mirrorRefresh (s : State) : State :=
  if s.commsRuns then
    s.onEngines (fun g => g.onApp (fun a => { a with mirrorSeq := (a.mirrorSeq + 2) % 2 ^ 32, mirror := s.mirrorBytes }))
  else s

/-! ## CAN1 seen by the application engine (R494 to R496) -/

/-- Changes the CAN part as the owner of CAN1; without ownership the access is out of rights. -/
def State.onOwnCan (s : State) (addr : Nat) (f : Can → Can) : State :=
  if !s.appRuns then s
  else if s.cfg.canOwned 1 && s.power.on 2 then { s with can := f s.can }
  else s.violates addr

/-- CAN_TXREQ. -/
def State.canRequest (s : State) (v : BitVec 32) : State := s.onOwnCan 0x40003008 (fun c => c.request v.toNat)

/-- CAN_TXABORT. -/
def State.canAbort (s : State) (v : BitVec 32) : State := s.onOwnCan 0x4000300C (fun c => c.abort v.toNat)

/-- CAN_RXQ0_POP and CAN_RXQ1_POP. -/
def State.canPop (s : State) (second : Bool) : State :=
  s.onOwnCan (if second then 0x400035FC else 0x400034FC) (fun c => c.channel 1 (fun k => k.pop second))

/-- An APPLICATION object of CAN1. -/
def Cfg.appObject (c : Cfg) (m : Fin 64) : Bool := decide (c.dataSource m = 3) && decide (c.objChannel m = 1)

/-- A word of CAN_OBJ_DATA; the last word takes the data as a whole. Other objects have no data here. -/
def State.canObjWord (s : State) (m : Fin 64) (i : Nat) (v : BitVec 32) : State :=
  s.onOwnCan (0x40003800 + 64 * m.val + 4 * i) (fun c =>
    if s.cfg.appObject m then c.object m (fun o => if i = 15 then o.takeData v else o.word i v) else c)

/-- A word of the frame registers of TXB1 or TXB2, ignored while the buffer's request is pending (R496). -/
def Can.frameWord (c : Can) (k : Fin 2) (off : Nat) (v : BitVec 32) : Can :=
  let b : TxBuf := if k = 0 then .txb1 else .txb2
  if (c.channels[(1 : CanIx)].buffer b).frames.isEmpty then { c with appTx := c.appTx.set k (patch c.appTx[k] off (le 4 v.toNat)) }
  else c

/-! ## The interrupt controller (R588 to R593) -/

/-- The engine number of a view; the pair is served by engine 8. -/
def viewOf : Engine → Fin 12
  | .leaf d => leafEngine d | .supv => 8 | .comms => 10 | .app => 11

/-- The engine of a view executes. -/
def State.engineRuns (s : State) : Engine → Bool
  | .leaf d => s.leafRuns d
  | .supv => s.supvRuns
  | .comms => s.commsRuns
  | .app => s.appRuns

/-- R593: source 127 of an engine. -/
def State.stackFaults (s : State) (e : Engine) (n : Fin 128) : State :=
  let s := s.onEngines (fun g => g.stackFault (viewOf e) n)
  match e with
  | .leaf d => s.leafStops d
  | .supv => s.supvStops false
  | .comms => s.commsStops
  | .app =>
    let s := s.appEnds 2
    s.onEngines (fun g => { g with stackDue := g.stackDue.filter (fun x => x.1 != 11) })

/-- R592: a write to INTC_COMPLETE. -/
def State.completes (s : State) (e : Engine) (v : BitVec 32) : State :=
  if !s.engineRuns e then s
  else
    let n : Fin 128 := Fin.ofNat 128 (v.toNat % 128)
    let r := s.engines.views[viewOf e].complete n
    let s := s.onEngines (fun g => { g with views := g.views.set (viewOf e) r.1 })
    match r.2 with
    | .fault => s.stackFaults e n
    | .ignored | .popped => s

/-- R589: a write to INTC_CTRL. -/
def State.intcControl (s : State) (e : Engine) (v : BitVec 32) : State :=
  if s.engineRuns e then
    s.onEngines (fun g => { g with views := g.views.set (viewOf e) (g.views[viewOf e].control v.toNat) })
  else s

/-- The sources of the application engine that are asserted (Table 15.7). -/
def State.asserted (s : State) (n : Nat) : Bool :=
  let a := s.engines.app
  let k := s.can.channels[(1 : CanIx)]
  if n = 62 then !k.rxq0.entries.isEmpty || !k.rxq1.entries.isEmpty
  else if n = 63 then k.txb1.frames.isEmpty || k.txb2.frames.isEmpty
  else if n = 68 then (List.finRange 4).any (fun i => decide (a.inLen[i] ≠ 0))
  else if n = 69 then (List.finRange 4).any (fun i => !a.outBusy[i])
  else if 70 ≤ n ∧ n ≤ 73 then a.timers[(Fin.ofNat 4 (n - 70))].fired
  else if n = 74 then a.wdHalf
  else false

/-- R590, R591: a delivery. The application engine's is arbitrated from its state; another engine's priorities and handlers
are its firmware's, so its winner is the operand and the address it enters is a free value (note 61). -/
def State.delivers (s : State) (e : Engine) (n : Fin 128) (priority : Nat) : State :=
  let g := s.engines
  let v := g.views[viewOf e]
  let wins : Bool := match e with
    | .app => g.winner s.cfg s.asserted == some n
    | _ => sourceTarget s.cfg n.val == some (viewOf e) && decide (priority ≠ 0) && !v.active n
  let p := match e with
    | .app => g.prio[n].toNat
    | _ => priority
  let handler : Nat := match e with
    | .app => g.vec[n].toNat
    | _ => (Config.measured .interruptedPc (s.free + 1)).toNat
  if s.engineRuns e && wins && v.mayDeliver p then
    (s.onEngines (fun g => { g with views := g.views.set (viewOf e) (v.deliver n p handler s.free) })).fresh
  else s

/-! ## Register writes of the application engine (R574, R589, Tables 15.4, 15.5, 15.8, 12.8) -/

/-- A write in the interrupt controller's application view. -/
def State.writeIntc (s : State) (addr off : Nat) (v : BitVec 32) : State :=
  let own (n : Nat) : Bool := sourceTarget s.cfg n == some 11
  if off = 0 then s.intcControl .app v
  else if off = 8 then s.completes .app v
  else if h : 0x200 ≤ off ∧ off < 0x400 then
    let n : Fin 128 := ⟨(off - 0x200) / 4, by omega⟩
    if own n.val then s.onEngines (fun g => { g with prio := g.prio.set n (v.truncate 8) }) else s.violates addr
  else if h : 0x400 ≤ off ∧ off < 0x600 then
    let n : Fin 128 := ⟨(off - 0x400) / 4, by omega⟩
    if own n.val then s.onEngines (fun g => { g with vec := g.vec.set n (v &&& ~~~1#32) }) else s.violates addr
  else s

/-- A write in the timer block. -/
def State.writeTimer (s : State) (off : Nat) (v : BitVec 32) : State :=
  if off = 8 then s.kick
  else if 0x10 ≤ off ∧ off < 0x50 then
    let k : Fin 4 := Fin.ofNat 4 ((off - 0x10) / 0x10)
    if off % 16 = 0 then s.timerControl k v
    else if off % 16 = 4 then
      s.onApp (fun a => { a with timers := a.timers.set k { a.timers[k] with load := v.toNat } })
    else s
  else s

/-- A write in the mailbox registers. -/
def State.writeMailbox (s : State) (off : Nat) (v : BitVec 32) : State :=
  if off = 4 then s.mailPost v else if off = 8 then s.mailAck v else s

/-- A write in the window of CAN channel 1. -/
def State.writeCan (s : State) (addr off : Nat) (v : BitVec 32) : State :=
  if off = 0x008 then s.canRequest v
  else if off = 0x00C then s.canAbort v
  else if off = 0x4FC then s.canPop false
  else if off = 0x5FC then s.canPop true
  else if 0x100 ≤ off ∧ off < 0x150 then s.onOwnCan addr (fun c => c.frameWord 0 (off - 0x100) v)
  else if 0x200 ≤ off ∧ off < 0x250 then s.onOwnCan addr (fun c => c.frameWord 1 (off - 0x200) v)
  else if 0x800 ≤ off ∧ off < 0x1800 then s.canObjWord (Fin.ofNat 64 ((off - 0x800) / 64)) ((off - 0x800) % 64 / 4) v
  else s.onOwnCan addr id

/-- R10, R574: a write of the application engine. -/
def State.writeRegister (s : State) (addr width : Nat) (v : BitVec 32) : State :=
  if !s.appRuns then s
  else if 0x40000000 ≤ addr ∧ addr < 0x40005000 then
    if width ≠ 4 ∨ addr % 4 ≠ 0 then s.violates addr
    else if addr < 0x40001000 then s.writeIntc addr (addr - 0x40000000) v
    else if addr < 0x40002000 then s.writeTimer (addr - 0x40001000) v
    else if addr < 0x40003000 then s.writeMailbox (addr - 0x40002000) v
    else s.writeCan addr (addr - 0x40003000) v
  else if memWritable addr width then
    s.onApp (fun a => { a with mem := a.mem.writeMany addr (le width (v.toNat % 2 ^ (8 * width))) })
  else s.violates addr

end Sys2Proof.Machine
end

