-- ==== Sys2Proof/Machine/NetEvents.lean ====
section
/-!
DEFINITION. Occurrences on the ring and the CAN channels, time steps, and the samples and wake sources of STABLE (chapters
11, 12, 14 and 15), with the sending of a session's packets by its transport.
-/

namespace Sys2Proof.Machine

/-! ## Module time (R451, R489, R505) -/

/-- The ring takes a new value and sends its events. -/
def State.takeRing (s : State) (r : Ring × Events) : State := ({ s with ring := r.1 }).events r.2

/-- Every open cycle, and every incident being recorded, is marked TIME_STEPPED. -/
def State.markStepped (s : State) : State :=
  { s with
    doors := tab 8 (fun d => { s.doors[d] with
      cycle :=
      s.doors[d].cycle.map (fun c => { c with flags := { c.flags with timeStepped := true } }) })
    log := { s.log with opened := tab 9 (fun i => s.log.opened[i].map (fun x => { x with timeStepped := true })) } }

/-- R489: a channel whose schedule follows module time ends its basic cycle. -/
def State.stepChannel (s : State) (ch : CanIx) : State :=
  let r := s.can.channels[ch].timeStep s.canEnv ch
  ({ s with can := { s.can with channels := s.can.channels.set ch r.1 } }).events r.2

/-- R451, R505: module time is stepped; the marker needs the RECORD domain. -/
def State.stepTime (s : State) (m : Int) : State :=
  let s : State := { s with now := (s.now + m).toNat }
  let s := if s.power.on 7 then
      (s.markStepped).stage false (fun n => markerBytes s.now n 8 (leInt 8 m))
    else s
  (s.stepChannel 0).stepChannel 1

/-- What a decision of Table 11.5 does to module time. -/
def State.timeFix (s : State) : TimeFix → State
  | .none => s
  | .step m => s.stepTime m

/-! ## The ring -/

/-- The RING domain is on and the relays are energised. -/
def State.onRing (s : State) : Bool := s.power.on 1 && s.ring.inserted

/-- R438, R449: an accepted beacon. -/
def State.beaconArrives (s : State) (p : PortIx) (f : RingFrame) : State :=
  let r := s.ring.takeBeacon s.ringEnv p f
  (s.takeRing (r.1, r.2.1)).timeFix r.2.2

/-- R461: a WAKE frame is taken in STABLE where it names the module. -/
def State.ringWake (s : State) (mask scheme : Nat) : State :=
  if s.power.mode = .stable ∧ s.cfg.ringWake = 1 ∧ s.cfg.ringAddress ≠ 0 ∧ bitOf mask (s.cfg.ringAddress - 1) ∧ scheme = s.config.scheme then
    s.wakeCause 3
  else s

/-- R432 to R435: a frame arrives on a port. -/
def State.ringFrame (s : State) (p : PortIx) (f : RingFrame) : State :=
  if !s.onRing then s
  else
    let r := s.ring.receive s.ringEnv p f
    let s := s.takeRing (r.1, r.2.1)
    match r.2.2 with
    | .nothing => s
    | .beacon g => s.beaconArrives p g
    | .fcp source trainWide body => s.packet .ring source trainWide (ringPacket body)
    | .wake mask scheme => s.ringWake mask scheme

/-- R436, R437: a beacon leaves; a running comms engine has refreshed its content. -/
def State.sendBeacon (s : State) : State :=
  if !s.onRing then s
  else
    let content := if s.commsRuns then s.beaconContent else s.ring.beacon
    { s with ring := { s.ring with beacon := content, sent := s.beaconBody s.nodeState content
                                   frameSeq := (s.ring.frameSeq + 1) % 65536 } }

/-- A result of the ring while it is inserted. -/
def State.onInserted (s : State) (f : Ring → RingEnv → Ring × Events) : State :=
  if s.onRing then s.takeRing (f s.ring s.ringEnv) else s

/-- R447: one second without a master; the age counts in every state. -/
def State.timeAges (s : State) : State := s.takeRing (s.ring.ageCount s.ringEnv)

/-- R444, R445: the relays are energised. -/
def State.ringInserts (s : State) : State :=
  if s.power.on 1 && s.config.inForce && s.cfg.ringEnable == 1 then s.takeRing (s.ring.insert s.ringEnv) else s

/-- R445: three LEAVING beacons, and the relays are released. -/
def State.ringRemoves (s : State) : State :=
  if !s.onRing then s
  else
    let content := if s.commsRuns then s.beaconContent else s.ring.beacon
    { s with ring := { s.ring.leave with
        beacon := content, sent := s.beaconBody 3 content, frameSeq := (s.ring.frameSeq + 3) % 65536 } }

/-! ## CAN (chapter 12) -/

/-- A channel takes a new value and sends its events, where the CAN domain is on. -/
def State.onChannel (s : State) (ch : CanIx) (f : CanChannel → CanEnv → CanChannel × Events) : State :=
  if !s.power.on 2 then s
  else
    let r := f s.can.channels[ch] s.canEnv
    ({ s with can := { s.can with channels := s.can.channels.set ch r.1 } }).events r.2

/-- R480: a frame is received. -/
def State.canFrame (s : State) (ch : CanIx) (x : CanFrame) : State :=
  if !s.power.on 2 then s
  else
    let r := s.can.channels[ch].receive s.canEnv ch x
    let s := ({ s with can := { s.can with channels := s.can.channels.set ch r.1 } }).events r.2.1
    match r.2.2 with
    | .nothing => s
    | .segment i f => s.segment ch i f

/-- R483: the comms engine empties the receive queues. -/
def State.canServed (s : State) (ch : CanIx) : State :=
  if s.commsRuns then s.onChannel ch (fun k _ => (k.service s.cfg ch, [])) else s

/-- R473: the partial packets of the sessions on a channel are discarded. -/
def State.dropPartials (s : State) (ch : CanIx) : State :=
  sessions.foldl (fun s i => if s.cfg.sessTransport i = 2 + ch.val then s.partialTimeout i else s) s

/-- R473: a controller enters bus-off. -/
def State.busOff (s : State) (ch : CanIx) : State :=
  let k := s.can.channels[ch]
  if !s.power.on 2 || !k.active || k.busOff then s
  else (s.onChannel ch (fun k e => k.enterBusOff e ch)).dropPartials ch

/-- R491: TXB0 is loaded for a slot. -/
def State.loadSlot (s : State) (ch : CanIx) (slot : Nat) : State :=
  if s.power.on 2 then { s with can := s.can.loadSlot s.canEnv ch slot } else s

/-- R477: the latest start of a buffer's frame passes. -/
def State.latestStart (s : State) (ch : CanIx) (b : TxBuf) : State :=
  if s.power.on 2 then { s with can := s.can.latestStart ch b } else s

/-- R476, R477: an attempt to send a frame ends: that of the buffer which went first of those ready at its start, bit n for
TXBn (DEDUCED, note 128). -/
def State.frameSent (s : State) (ch : CanIx) (ready : BitVec 3) (r : TxResult) : State :=
  if !s.power.on 2 then s
  else match s.can.channels[ch].goesFirst s.cfg ch ready with
    | none => s
    | some b =>
      let x := s.can.transmitted s.canEnv ch b r
      ({ s with can := x.1 }).events x.2

/-! ## Sending (R355, R370, R431, R475, R479, R484, R485) -/

/-- The segments of a packet. -/
def segments (toggle : Bool) (p : List Byte) : List (List Byte) :=
  let n := (p.length + 62) / 63
  (List.range n).map (fun k =>
    let body := (p.drop (63 * k)).take 63
    let last := decide (k + 1 = n)
    let head := k + (if last then 64 else 0) + (if toggle then 128 else 0)
    le 1 head ++ body ++ List.replicate (fdLength (body.length + 1) - (body.length + 1)) 0xCC)

/-- The frames of a session's packet on its channel. -/
def packetFrames (c : Cfg) (ch : CanIx) (i : SessIx) (toggle : Bool) (p : List Byte) : List CanFrame :=
  (segments toggle p).map (fun d =>
    { id := (c.sessSource i % 2 ^ 29 + 1) % 2 ^ 29, ext := bitOf (c.sessSource i) 31, fd := true, brs := c.switches ch, esi := false
      remote := false, data := d })

/-- The next packet of a CAN session goes into a free buffer of its channel. -/
def State.sendCan (s : State) (ch : CanIx) (i : SessIx) (p : Packet) : State :=
  match s.can.channels[ch].free s.cfg ch with
  | none => s
  | some b =>
    if !s.power.on 2 then s
    else
      let frames := packetFrames s.cfg ch i s.fcp.sessions[i].txToggle p.bytes
      let x : TxBuffer := { frames := frames, session := some i, object := none, waits := false }
      ({ s with can := s.can.channel ch (fun k => k.setBuffer b x) }).onSession i Session.sendNext

/-- R370: a packet leaves a session's queue where its transport has room; the mailbox has its own row (R581). -/
def State.sendPacket (s : State) (i : SessIx) : State :=
  match s.fcp.sessions[i].txQueue with
  | [] => s
  | p :: _ =>
    if !s.commsRuns then s
    else if i = 4 then s.onSession i Session.sendNext
    else match s.cfg.sessTransport i with
      | 1 =>
        if s.onRing then
          ({ s with ring := { s.ring with frameSeq := (s.ring.frameSeq + 1) % 65536 } }).onSession i Session.sendNext
        else s
      | 2 => s.sendCan 0 i p
      | 3 => s.sendCan 1 i p
      | _ => s

/-! ## STABLE (R99, R334, R346) -/

/-- R99: the loop keeper finds a fitted doorway not closed in STABLE and raises a wake. -/
def State.keeperWakes (s : State) : State :=
  if s.power.mode = .stable ∧ doorways.any (fun d => s.cfg.isFitted d && !s.loop.keeperClosed s.loopEnv d) then s.wakeCause 0 else s

/-- Whether two words differ in one of some bits. -/
def differIn (a b : BitVec 16) (bits : List Nat) : Bool := bits.any (fun i => a.getLsbD i != b.getLsbD i)

/-- Table 14.5, bits 1 and 2: a filtered change of a trainline input, or a pushbutton transition on a fitted doorway. -/
def State.inputWakes (s : State) (g : GroupIx) (before after : BitVec 16) : State :=
  if g.val = 8 then (if differIn before after [0, 1, 2, 3, 4, 5, 6] then s.wakeCause 1 else s)
  else if differIn before after [5, 6] then s.wakeCause 2
  else s

/-- What one burst shows the loop keeper (R99): the first sample that shows a condition false is enough, and one that
agrees stands for its 4 ms (note 79). -/
def burstView (v : KeeperView) (shows agree : Bool) : KeeperView :=
  if !shows then v.frames false 2 else if agree then v.frames true 200 else v

/-- The loop keeper's view of a group's burst. -/
def State.keeperBurst (s : State) (g : GroupIx) (raw : BitVec 16) (agree : Bool) : State :=
  if h : g.val < 8 then
    let d : DoorIx := ⟨g.val, h⟩
    { s with loop := { s.loop with keeper := s.loop.keeper.set d (burstView s.loop.keeper[d] (s.loop.rawCond d raw) agree) } }
  else { s with loop := { s.loop with bypassView := burstView s.loop.bypassView (raw.getLsbD 7) agree } }

/-- R334: the burst of one group: raw, and whether its four frames agree. -/
def State.burst (s : State) (x : GroupIx × BitVec 16 × Bool) : State :=
  let g := x.1
  if !s.frontOn g then s
  else
    let q := s.group g
    let raw := shownRaw q g x.2.1
    let filtered := if !q.loaded || (q.flags.valid && x.2.2) then raw else q.filtered
    let s := s.onGroup g (fun q => { q with
      raw := raw, filtered := filtered, loaded := true, bad := false, validRun := min 16 (q.validRun + 4)
      counts := if q.loaded then q.counts else loadedCounts s.cfg g raw })
    let s := s.inputWakes g q.filtered filtered
    let s := s.keeperBurst g raw x.2.2
    if (s.group g).validRun = 16 then s.groupValid g else s

/-- STABLE_SAMPLE: every burst, then the loop keeper and the outputs that it computes. -/
def State.stableSample (s : State) (l : List (GroupIx × BitVec 16 × Bool)) : State :=
  if s.power.mode ≠ .stable ∨ !s.fieldOn then s
  else
    let s := l.foldl State.burst s
    let s := s.evaluate.keeperWakes
    { s with outs := s.outs.drive s.outEnv }

/-- R331: a group becomes invalid; in STABLE the keeper takes its doorway as not closed. -/
def State.groupLost (s : State) (g : GroupIx) : State := (s.groupInvalid g).keeperWakes

/-! ## Wake sources -/

/-- R544, bit 6: module time reaches WAKE_AT; 0 sets no alarm. -/
def State.alarm (s : State) : State := if s.power.wakeAt = 0 then s else s.wakeCause 6

/-- R499: a wake-up pattern on a low-power transceiver. -/
def State.canWakes (s : State) (ch : CanIx) : State :=
  if s.power.mode = .stable ∧ s.cfg.canWake ch = 1 then s.wakeCause 4 else s

/-- Table 15.12: a source may be watched in a state. -/
def watchedIn (c : Cfg) (m : PwrMode) (n : Nat) : Bool :=
  match m with
  | .run => false
  | .hibernate => decide (120 ≤ n ∧ n ≤ 123)
  | .stable => decide (120 ≤ n ∧ n ≤ 123) || decide (16 ≤ n ∧ n ≤ 23) || [48, 50, 52].contains n
      || (n == 124 && (decide (c.canWake 0 = 1) || decide (c.canWake 1 = 1))) || (n == 125 && decide (c.ringKeepStable = 1))

/-- R594, R595: a source asserts; its entries of WATCH_SEL set their bits in WATCH_FIRED. -/
def State.watcher (s : State) (n : Nat) : State :=
  let bits := bitWord ((List.range 16).map (fun k => decide (s.cfg.watchSel k = n)))
  if watchedIn s.cfg s.power.mode n ∧ bitOf s.cfg.wakeEnable 8 ∧ bits ≠ 0 then
    (s.onPower (fun p => { p with watchFired := p.watchFired ||| bits })).wakeCause 8
  else s

/-! ## The recorder (R511 to R516, R509) -/

/-- A flush starts; the comms engine runs it. -/
def State.flushStarts (s : State) : State :=
  if s.commsRuns && s.power.on 7 then { s with log := s.log.beginFlush } else s

/-- A flush is complete: replies that waited for it are sent, and an entry that waited for it goes on. -/
def State.flushEnds (s : State) (us : Nat) : State :=
  if s.commsRuns && s.power.on 7 && s.log.flush.isSome then (s.takeLog (s.log.endFlush s.now us)).flushDone.entryChecks else s

/-- R516: without a hold-up cartridge each staged record triggers a flush. -/
def State.flushRecord (s : State) : State :=
  if s.flushEach && s.power.on 7 && (!s.log.staged.isEmpty || !s.log.stagedInc.isEmpty) then { s with log := s.log.trigger } else s

/-- R509: an incident has its last sample. -/
def State.incidentEnds (s : State) (slot : Fin 9) : State :=
  if s.power.on 7 then (s.takeLog (s.log.complete s.now s.free slot)).fresh else s

/-! ## Ends of moves -/

/-- R109: a drive's path or context reaches its end point; an entry that waited for it goes on. -/
def State.pathEnds (s : State) (r : DriveIx) : State :=
  (s.atDrive r (if isStep r then onStepPathEnds else doorPathEnds)).entryChecks

/-- R206: a park ends at a detent. -/
def State.parkEnds (s : State) (d : DoorIx) : State := (s.atStep d onParkComplete).entryChecks

/-- R125: a stopping drive reaches rest. -/
def State.stopEnds (s : State) (r : DriveIx) : State :=
  s.atDrive r (fun e w => if isStep r then onStepStopped w else onDoorStopped e w)

/-- R603: a doorway whose drive the spare serves resumes. -/
def State.autoResumes (s : State) (d : DoorIx) : State := if s.spareServes d then s.runDoor d onAutoResume else s

end Sys2Proof.Machine
end

