-- ==== Sys2Proof/Machine/DoorwayMeanings.lean ====
section
/-!
DEFINITION. Meanings: doorway inputs and the doorway state machine (chapter 1).
-/

namespace Sys2Proof.Machine

/-- OPEN_PUSHBUTTON (R24): An OPB_IN or OPB_OUT transition makes an open demand, or is ignored and counted. -/
def execOpenPushbutton (d : DoorIx) (outside active : Bool) (s : State) : Outcome :=
  .next (s.doorInput d (fun e => onOpenButton e outside active))

/-- CLOSE_PUSHBUTTON (R24): A CPB transition makes a local close demand. -/
def execClosePushbutton (d : DoorIx) (active : Bool) (s : State) : Outcome :=
  .next (s.doorInput d (fun e => onCloseButton e active))

/-- DIS_MAKE (R43): The isolation lock-out device engages and the doorway enters ISOLATED, retracting its step. -/
def execDisMake (d : DoorIx) (s : State) : Outcome := .next (s.doorInput d (fun e => onDis e true))

/-- DIS_BREAK (R34): The isolation device disengages and a doorway not isolated by command settles. -/
def execDisBreak (d : DoorIx) (s : State) : Outcome := .next (s.doorInput d (fun e => onDis e false))

/-- EGRESS_ACTIVE (R41): An egress input becomes active and the doorway enters EGRESS. -/
def execEgressActive (d : DoorIx) (which : Egress) (s : State) : Outcome := .next (s.doorInput d (fun e => onEgress e which))

/-- EGRESS_INACTIVE (R34): Both egress inputs become inactive and the doorway settles. -/
def execEgressInactive (d : DoorIx) (s : State) : Outcome := .next (s.doorInput d onEgressEnds)

/-- UNCOMMANDED_UNLOCK (R33): DCS or DLS breaks uncommanded in LOCKED or RELEASED, and the doorway enters FAULT 0x55. -/
def execUncommandedUnlock (d : DoorIx) (sw : DoorSwitch) (s : State) : Outcome :=
  .next (s.doorInput d (fun e => onUnlockSeen e sw))

/-- PLAUSIBILITY_TIMEOUT (R25): DLS made without DCS, or SDS with SRS, for 200 ms puts the doorway in FAULT 0x54. -/
def execPlausibilityTimeout (d : DoorIx) (p : Implausible) (s : State) : Outcome :=
  .next (s.doorInput d (fun e => onImplausible e p))

/-- DCS_POSITION_IMPLAUSIBLE (R179): DCS is made for 200 ms far above DCS_BREAK_POS, and the doorway enters FAULT 0x54. -/
def execDcsPositionImplausible (d : DoorIx) (s : State) : Outcome := .next (s.atDoor d onDcsImplausible)

/-- FAULT_INPUT_CAUSE_GONE (R34): An input fault cause has been gone for 1 s and the doorway leaves FAULT by settling. -/
def execFaultInputCauseGone (d : DoorIx) (s : State) : Outcome := .next (s.atDoor d onInputCauseGone)

/-- UNLOCK_TIMEOUT_EXPIRY (R176): UNLOCK_TIMEOUT expires with DLS made: the doorway returns to LOCKED or RELEASED with UNLOCK_FAILED. -/
def execUnlockTimeoutExpiry (d : DoorIx) (s : State) : Outcome := .next (s.atDoor d onUnlockTimeout)

/-- DLS_BREAK_UNLOCKING (R34): DLS breaks in UNLOCKING and the doorway enters OPENING with the open context. -/
def execDlsBreakUnlocking (d : DoorIx) (s : State) : Outcome := .next (s.doorInput d onDlsBreak)

/-- DCS_BREAK_OPENING (R176): Filtered DCS breaks while opening: the lock solenoid is switched off and the break edge is compared. -/
def execDcsBreakOpening (d : DoorIx) (s : State) : Outcome := .next (s.doorInput d onDcsBreakOpening)

/-- UNLOCK_COMMANDED_GRACE_END (R216): After a return from UNLOCKING, UNLOCK_TIMEOUT passes without DLS made, and DLS breaks count as uncommanded again. -/
def execUnlockCommandedGraceEnd (d : DoorIx) (s : State) : Outcome := .next (s.atDoor d (fun _ => onGraceEnd))

/-- PRE_CLOSE_WARN_EXPIRY (R37): The closing warning ends and phase MOVE starts the close. -/
def execPreCloseWarnExpiry (d : DoorIx) (s : State) : Outcome := .next (s.atDoor d onWarnEnd)

/-- DWELL_EXPIRY (R29): DWELL expires in OPEN and makes a local close, cause 0x14. -/
def execDwellExpiry (d : DoorIx) (s : State) : Outcome := .next (s.atDoor d onDwellEnd)

/-- DCS_MADE_CLOSED_WINDOW (R34): DCS is made with the position in the closed window, and CLOSING passes to phase LOCK. -/
def execDcsMadeClosedWindow (d : DoorIx) (s : State) : Outcome := .next (s.doorInput d onDcsMade)

/-- DLS_CONFIRMED (R177): DLS has been made for 50 ms in phase LOCK: the hold current falls, and the doorway passes to LOCKED or RELEASED once the step is homed. -/
def execDlsConfirmed (d : DoorIx) (s : State) : Outcome := .next (s.doorInput d onDlsConfirmed)

/-- LOCK_ATTEMPT_EXPIRY (R178): A lock attempt ends without DLS confirmed; the next attempt starts or the doorway enters CLOSED_UNLOCKED. -/
def execLockAttemptExpiry (d : DoorIx) (s : State) : Outcome := .next (s.atDoor d onLockAttemptEnd)

/-- DLS_MADE_CLOSED_UNLOCKED (R34): DLS is made in CLOSED_UNLOCKED and the doorway passes to LOCKED or RELEASED. -/
def execDlsMadeClosedUnlocked (d : DoorIx) (s : State) : Outcome := .next (s.doorInput d onDlsMadeClosedUnlocked)

/-- DCS_BREAK_CLOSED_UNLOCKED (R34): DCS breaks in CLOSED_UNLOCKED and the doorway enters STOPPED. -/
def execDcsBreakClosedUnlocked (d : DoorIx) (s : State) : Outcome := .next (s.doorInput d onDcsBreakClosedUnlocked)

/-- REOPEN_DWELL_EXPIRY (R264): REOPEN_DWELL ends and the doorway recloses in phase WARN. -/
def execReopenDwellExpiry (d : DoorIx) (s : State) : Outcome := .next (s.atDoor d onReopenDwellEnd)

/-- MAINT_OPEN_HOLD_EXPIRY (R61): The 2 s open hold of a DOOR_TEST_CYCLE or ENVELOPE_LEARN cycle ends and the doorway starts the close of that cycle. -/
def execMaintOpenHoldExpiry (d : DoorIx) (s : State) : Outcome := .next (s.atDoor d onMaintHoldEnd)

end Sys2Proof.Machine
end

