-- ==== Sys2Proof/Machine/EngineMeanings.lean ====
section
/-!
DEFINITION. Meanings: the engines, the application engine and the interrupt controller (chapter 15).
-/

namespace Sys2Proof.Machine

/-- LEAF_WATCHDOG_EXPIRY (R568): A leaf engine watchdog expires: the doorway's drives go to TORQUE_OFF and the doorway enters FAULT 0x57. -/
def execLeafWatchdogExpiry (d : DoorIx) (s : State) : Outcome := .next (s.leafExpires d)

/-- LEAF_ENGINE_RESTART (R568): A leaf engine has been reloaded and started after a watchdog expiry or stack fault, unless it is held. -/
def execLeafEngineRestart (d : DoorIx) (s : State) : Outcome := .next (s.leafRestarts d)

/-- SUPV_WATCHDOG_EXPIRY (R568): The supervisor watchdog expires and is handled as a lockstep mismatch. -/
def execSupvWatchdogExpiry (s : State) : Outcome := .next (s.supvStops true)

/-- LOCKSTEP_MISMATCH (R571): The supervisor comparator mismatches: both cores are held, the toggles stop, row 61 is raised and the load-switch frames stop. -/
def execLockstepMismatch (s : State) : Outcome := .next (s.supvStops false)

/-- SUPV_RESTART (R572): The supervisor pair is reloaded and restarted, or held after its third stop within an hour. -/
def execSupvRestart (s : State) : Outcome := .next (s.supvRestarts)

/-- COMMS_WATCHDOG_EXPIRY (R569): The comms engine watchdog expires: every session is closed and the stored results are discarded. -/
def execCommsWatchdogExpiry (s : State) : Outcome := .next (s.commsExpires)

/-- COMMS_RESTART (R569): The comms engine is reloaded and started, and flushes resume. -/
def execCommsRestart (s : State) : Outcome := .next (s.commsRestarts)

/-- APP_WATCHDOG_HALF (R578): Half an application watchdog period passes without a kick, and source 74 is asserted. -/
def execAppWatchdogHalf (s : State) : Outcome := .next (s.appHalf)

/-- APP_WATCHDOG_EXPIRY (R578): A full application watchdog period passes without a kick, and the application ends FAULTED with cause 1. -/
def execAppWatchdogExpiry (s : State) : Outcome := .next (s.appExpires)

/-- APP_EXCEPTION (R583): The application takes an exception while mtvec lies outside the code region, and ends FAULTED with cause 3. -/
def execAppException (s : State) : Outcome := .next (s.appExcepts)

/-- APP_AUTORESTART (R585): One second after a fault, a FAULTED application is started again, at most three times an hour. -/
def execAppAutorestart (s : State) : Outcome := .next (s.appRestarts)

/-- APP_TIMER_EXPIRY (R577): An application timer counts to zero: FIRED is set, and the timer reloads or stops. -/
def execAppTimerExpiry (k : Fin 4) (s : State) : Outcome := .next (s.timerExpires k)

/-- TMR_NOW_LO_READ (R577): A read of TMR_NOW_LO returns module time and latches its high half into TMR_NOW_HI. -/
def execTmrNowLoRead (s : State) : Outcome := .next (s.readNow)

/-- TMR_WD_KICK (R578): A write to TMR_WD_KICK restarts the application watchdog. -/
def execTmrWdKick (v : BitVec 32) (s : State) : Outcome := .next (s.writeRegister 0x40001008 4 v)

/-- TMR_CTRL_WRITE (R577): A write to TMR_CTRL starts a timer when EN rises, sets its mode or clears FIRED. -/
def execTmrCtrlWrite (k : Fin 4) (v : BitVec 32) (s : State) : Outcome := .next (s.timerControl k v)

/-- MBX_POST (R580): The application posts an outbound mailbox slot with a packet length, or the post is ignored and counted. -/
def execMbxPost (v : BitVec 32) (s : State) : Outcome := .next (s.mailPost v)

/-- MBX_ACK (R581): The application frees inbound mailbox slots. -/
def execMbxAck (mask : BitVec 32) (s : State) : Outcome := .next (s.mailAck mask)

/-- MBX_SLOT_TAKEN (R580): The comms engine takes a posted outbound slot, frees it, and checks its packet as a session 5 command. -/
def execMbxSlotTaken (s : State) : Outcome := .next (s.mailTaken)

/-- MBX_INBOUND_FILL (R581): The comms engine writes a reply or event into the next inbound slot once that slot is free. -/
def execMbxInboundFill (s : State) : Outcome := .next (s.mailFill)

/-- CAN_TXREQ_WRITE (R496): The application requests transmission of CAN1 TXB1 or TXB2. -/
def execCanTxreqWrite (v : BitVec 32) (s : State) : Outcome := .next (s.canRequest v)

/-- CAN_TXABORT_WRITE (R496): The application aborts the pending frame of a CAN1 transmit buffer. -/
def execCanTxabortWrite (v : BitVec 32) (s : State) : Outcome := .next (s.canAbort v)

/-- CAN_RXQ_POP (R496): A write to a queue pop register removes the oldest frame of that CAN1 receive queue. -/
def execCanRxqPop (second : Bool) (s : State) : Outcome := .next (s.canPop second)

/-- CAN_OBJ_DATA_WRITE (R496): A write of the last word of CAN_OBJ_DATA takes the data of an APPLICATION object as a whole. -/
def execCanObjDataWrite (m : Fin 64) (v : BitVec 32) (s : State) : Outcome := .next (s.canObjWord m 15 v)

/-- INTC_COMPLETE_WRITE (R592): A handler completes a source: the stack is popped, the completion is ignored, or source 127 is raised. -/
def execIntcCompleteWrite (e : Engine) (v : BitVec 32) (s : State) : Outcome := .next (s.completes e v)

/-- INTC_CTRL_WRITE (R589): A write sets GROUP_WIDTH, and is ignored while the stack depth is above 0. -/
def execIntcCtrlWrite (e : Engine) (v : BitVec 32) (s : State) : Outcome := .next (s.intcControl e v)

/-- INTERRUPT_DELIVERY (R590): The winning asserted source is pushed on the engine's stack and its handler is entered. -/
def execInterruptDelivery (e : Engine) (source : Fin 128) (priority : BitVec 8) (s : State) : Outcome :=
  .next (s.delivers e source priority.toNat)

/-- OUT_OF_RIGHTS_ACCESS (R574): An application access outside its rights reads zero or is ignored, and is counted and recorded. -/
def execOutOfRightsAccess (addr : BitVec 32) (s : State) : Outcome := .next (if s.appRuns then s.violates addr.toNat else s)

/-- REGISTER_WRITE (R10): A write to a register with no behaviour of its own sets its RW fields. -/
def execRegisterWrite (addr : BitVec 32) (width : AccessWidth) (v : BitVec 32) (s : State) : Outcome :=
  .next (s.writeRegister addr.toNat width.bytes v)

/-- MIRROR_REFRESH (R576): Every 1 ms the comms engine refreshes the application's doorway status mirror, incrementing MIRROR_SEQ at the start and at the end. -/
def execMirrorRefresh (s : State) : Outcome := .next (s.mirrorRefresh)

end Sys2Proof.Machine
end

