-- ==== Sys2Proof/Machine/FieldMeanings.lean ====
section
/-!
DEFINITION. Meanings: trainlines, the isolation link, the loop, outputs and load switches (chapters 2, 7 and 8).
-/

namespace Sys2Proof.Machine

/-- TL_CLOSE_CHANGE (R31): A filtered change of TL_CLOSE starts or ends the trainline close class on both sides. -/
def execTlCloseChange (active : Bool) (s : State) : Outcome := .next (s.trainInput 2 active)

/-- TRAINLINE_INPUT_CHANGE (R71): A filtered change of a release or zero-speed input re-evaluates the release condition of each side. -/
def execTrainlineInputChange (x : RelInput) (active : Bool) (s : State) : Outcome := .next (s.trainInput (relIndex x) active)

/-- REL_SETTLE_EXPIRY (R72): A release input has been active for REL_SETTLE, so the release condition may rise. -/
def execRelSettleExpiry (side : TrainSide) (s : State) : Outcome := .next (s.takeLoop (fun l e => (l.relSettle e side, [])))

/-- CAB_INPUT_CHANGE (R20): A change of the cab-active inputs makes the orientation ambiguous until it settles. -/
def execCabInputChange (second active : Bool) (s : State) : Outcome := .next (s.trainInput (if second then 6 else 5) active)

/-- ORIENT_SETTLE_EXPIRY (R20): A cab-active combination has been stable for ORIENT_SETTLE, and the orientation is taken from Table 1.1. -/
def execOrientSettleExpiry (s : State) : Outcome := .next (s.takeLoop (fun l e => (l.orientSettle e, [])))

/-- ZSPD_DISCREP_EXPIRY (R73): The zero-speed inputs have differed for ZSPD_DISCREP_TIME, so ZSPD_DISCREPANCY is set. -/
def execZspdDiscrepExpiry (s : State) : Outcome := .next (s.takeLoop Loop.zspdExpiry)

/-- INPUT_GROUP_FAULT (R26): A group's common fault bit is seen: INPUT_FAULT is set, or the doorway enters FAULT 0x51. -/
def execInputGroupFault (g : GroupIx) (s : State) : Outcome := .next (s.groupFault g true)

/-- INPUT_GROUP_FAULT_CLEAR (R26): The common fault bit clears and a doorway held in LOCKED may pass to RELEASED. -/
def execInputGroupFaultClear (g : GroupIx) (s : State) : Outcome := .next (s.groupFault g false)

/-- ISOLATION_UPLINK_FRAME (R330): A valid uplink frame is received: the input filters and the loop keeper are updated. -/
def execIsolationUplinkFrame (g : GroupIx) (group seq : BitVec 4) (crcOk : Bool) (raw : BitVec 16) (flags : BitVec 8) (s : State) : Outcome :=
  .next (s.uplink g group.toNat seq.toNat crcOk raw flags.toNat)

/-- KEEPER_CLOSED_SETTLE (R84): A doorway has shown closed in every frame for 4 ms and the keeper takes it as closed. -/
def execKeeperClosedSettle (d : DoorIx) (s : State) : Outcome := .next (s.keeperSettles d)

/-- INPUT_SAMPLE (R320): The front end classifies an input; a change starts a wetting pulse. -/
def execInputSample (g : GroupIx) (i : Fin 16) (vIn vCom : Nat) (s : State) : Outcome := .next (s.sampleInput g i.val vIn vCom)

/-- LINE_BREAK (R326): A supervised input's break time reaches 50 ms and COMMON_FAULT is set. -/
def execLineBreak (g : GroupIx) (i : Fin 16) (s : State) : Outcome := .next (s.onFront g (fun f => f.lineBreak g i.val))

/-- FEED_OUT_OF_RANGE (R326): V_COM has been outside its class range for 100 ms and COMMON_FAULT is set. -/
def execFeedOutOfRange (g : GroupIx) (s : State) : Outcome :=
  .next (s.onFront g (fun f => if g.val < 8 then FrontEnd.raise { f with feedFault := true } g else f))

/-- COMMON_FAULT_CLEAR (R326): After 100 ms without a cause, COMMON_FAULT clears. -/
def execCommonFaultClear (g : GroupIx) (s : State) : Outcome :=
  .next (s.onFront g (fun f => if f.causePresent g then f else { f with commonFault := false }))

/-- FRONT_END_SELFTEST (R327): Once per second each front end checks its shadow comparators. -/
def execFrontEndSelftest (g : GroupIx) (pass : Bool) (s : State) : Outcome :=
  .next (s.onFront g (fun f => FrontEnd.raise { f with selftestFail := !pass } g))

/-- GROUP_INVALID (R331): No valid uplink frame for 10 ms marks a group invalid. -/
def execGroupInvalid (g : GroupIx) (s : State) : Outcome := .next (s.groupLost g)

/-- GROUP_VALID (R331): 16 consecutive valid frames mark a group valid again. -/
def execGroupValid (g : GroupIx) (s : State) : Outcome := .next (s.groupValid g)

/-- DOWNLINK_FRAME (R329): The field side receives a downlink frame and applies the settings words and outputs. -/
def execDownlinkFrame (g : GroupIx) (group seq : BitVec 4) (crcOk : Bool) (index : BitVec 4) (s : State) : Outcome :=
  .next (s.downlink g group.toNat seq.toNat crcOk index.toNat)

/-- DOWNLINK_LOST (R332): Group 8 gets no valid downlink for 10 ms and the outputs take OUT_SAFE. -/
def execDownlinkLost (s : State) : Outcome := .next (s.downlinkLost)

/-- OUTPUT_TRIP (R344): An output held at its current limit for 1 ms is turned off with OUT_TRIPPED. -/
def execOutputTrip (k : OutIx) (s : State) : Outcome := .next (s.takeOuts (fun e f => f.trip e s.now s.free k))

/-- OUTPUT_RETRY (R344): A tripped output still commanded on is turned on again every 1 s. -/
def execOutputRetry (k : OutIx) (s : State) : Outcome := .next (s.takeOuts (fun e f => (f.retry k e, [])))

/-- OUTPUT_HOLD_TIMEOUT (R345): Held output sources take OUT_SAFE 2.0 s into a supervisor update. -/
def execOutputHoldTimeout (s : State) : Outcome := .next (s.takeOuts holdEnds)

/-- LOOP_DISAGREE_EXPIRY (R86): A compared channel pair differs for LOOP_DISAGREE_TIME: DISCREPANCY is latched and the loop opens. -/
def execLoopDisagreeExpiry (p : LoopPair) (s : State) : Outcome := .next (s.disagrees p)

/-- DISCREPANCY_CLEAR_EXPIRY (R88): Every pair has agreed for 3 s and a non-persistent DISCREPANCY clears. -/
def execDiscrepancyClearExpiry (s : State) : Outcome := .next (s.takeLoop Loop.discrepancyClears)

/-- LOOP_RB_TIME_EXPIRY (R82): The readback disagrees with the commanded loop for LOOP_RB_TIME, and RB_WELD or RB_NOT_OPERATED is set. -/
def execLoopRbTimeExpiry (s : State) : Outcome := .next (s.readsBack)

/-- BYPASS_CHANGE (R94): TL_LOOP_BYP starts or ends: flags, counters, event and incident record. -/
def execBypassChange (active : Bool) (s : State) : Outcome := .next (s.bypassInput active)

/-- KEEPER_ALONE_TIMEOUT (R97): The supervisor has not resumed 2.0 s into KEEPER_ALONE; the keeper stops both toggles. -/
def execKeeperAloneTimeout (s : State) : Outcome := .next (s.keeperTimesOut)

/-- LSW_COMMAND_FRAME (R300): A load-switch controller receives a command frame and applies its commands, permits and mode. -/
def execLswCommandFrame (seq : BitVec 8) (crcOk : Bool) (mode : LswMode) (s : State) : Outcome :=
  .next (if s.supvRuns then s.takeLsw (fun e => lswFrame e seq.toNat crcOk mode) else s)

/-- LSW_WATCHDOG_TIMEOUT (R301): No valid frame for LSW_WD_TIME sends every channel to its fail-safe state. -/
def execLswWatchdogTimeout (s : State) : Outcome := .next (s.takeLsw lswWatchdog)

/-- UPDATE_HOLD_TIMEOUT (R304): No RUN frame within 2.0 s of UPDATE_HOLD sends the channels to fail-safe. -/
def execUpdateHoldTimeout (s : State) : Outcome := .next (s.takeLsw lswHoldTimeout)

/-- INRUSH_WINDOW_END (R280): A channel's inrush window ends and its current is checked against OC_LIMIT. -/
def execInrushWindowEnd (n : ChanIx) (current : Nat) (s : State) : Outcome := .next (s.takeLsw (fun e => onInrushEnd e n current))

/-- OC_STEADY (R282): A current above OC_LIMIT for OC_TIME switches the channel off. -/
def execOcSteady (n : ChanIx) (current : Nat) (s : State) : Outcome := .next (s.takeLsw (fun e => onSteady e n current))

/-- OC_SHORT (R283): A channel at the 6,000 mA limit outside inrush is switched off as shorted. -/
def execOcShort (n : ChanIx) (s : State) : Outcome := .next (s.takeLsw (fun e => onShort e n))

/-- RETRY_BACKOFF_EXPIRY (R284): The back-off ends and a channel still commanded on retries. -/
def execRetryBackoffExpiry (n : ChanIx) (s : State) : Outcome := .next (s.takeLsw (fun e w => (onRetry e n w, [])))

/-- RETRY_RESTORE (R285): 60 s on without an overcurrent restores RETRIES_LEFT. -/
def execRetryRestore (n : ChanIx) (s : State) : Outcome := .next (s.takeLsw (fun e w => (onRestore e n w, [])))

/-- THERMAL_LATCH (R286): A switch reaches 150 °C, latches and turns off. -/
def execThermalLatch (n : ChanIx) (s : State) : Outcome := .next (s.takeLsw (fun e => onThermalLatch e n))

/-- RAIL_SAG (R288): A doorway rail sag ends and extends the inrush windows in progress. -/
def execRailSag (d : DoorIx) (duration : Nat) (s : State) : Outcome := .next (s.takeLsw (fun e => onRailSag e d duration))

/-- OFF_STATE_TEST (R290): Every 100 ms an off channel is tested with a pull-up, then a pull-down. -/
def execOffStateTest (n : ChanIx) (r : OffTest) (s : State) : Outcome := .next (s.takeLsw (fun e => onOffTest e n r))

/-- OPEN_LOAD_ON (R294): An on channel's current below OPEN_ON_I for 100 ms sets OPEN_LOAD_ON. -/
def execOpenLoadOn (n : ChanIx) (current : Nat) (s : State) : Outcome := .next (s.takeLsw (fun e => onOpenOn e n current))

/-- KEEP_WARM_REGULATION (R297): Once per second the heater is switched by its computed element temperature. -/
def execKeepWarmRegulation (n : ChanIx) (vOut current : Nat) (s : State) : Outcome :=
  .next (s.takeLsw (fun e => onKeepWarm e n vOut current))

/-- HEATER_MEASURE_PULSE (R298): Every 10 s an idle keep-warm heater gets a 150 ms measuring pulse. -/
def execHeaterMeasurePulse (n : ChanIx) (vOut current : Nat) (s : State) : Outcome :=
  .next (s.takeLsw (fun e => onMeasurePulse e n vOut current))

/-- FLASH_TOGGLE (R276): A flashing channel toggles at 1 Hz. -/
def execFlashToggle (n : ChanIx) (s : State) : Outcome := .next (s.takeLsw (fun e w => (onFlash e n w, [])))

/-- UPLINK_FRAME_MISSED (R84): A 20 µs frame period passes with no valid uplink frame from a group; the loop keeper counts it as showing every doorway of the group not closed and restarts its 4 ms, so two such periods withdraw the keeper permit. -/
def execUplinkFrameMissed (g : GroupIx) (s : State) : Outcome := .next (s.uplinkMissed g)

/-- FRONT_END_SUPPLY_FAULT (R326): The field-side supply of a group has been out of range for 1 ms and the cause sets COMMON_FAULT. -/
def execFrontEndSupplyFault (g : GroupIx) (present : Bool) (s : State) : Outcome :=
  .next (s.onFront g (fun f => FrontEnd.raise { f with supplyFault := present } g))

end Sys2Proof.Machine
end

