-- ==== Sys2Proof/Machine/ModuleCommandMeanings.lean ====
section
/-!
DEFINITION. Meanings: the commands on the recorder, power, firmware, the ring, CAN and the application engine (groups 0x06 to 0x0B). Each is a complete packet of Table 9.1, with
its typed parameters, taken through the checks of Table 9.6.
-/

namespace Sys2Proof.Machine

/-- POWER_ENTER_STABLE (R540): Command to enter STABLE: the refusers are tested and the entry sequence starts. -/
def execPowerEnterStable (h : Hdr) (wakeAt : BitVec 64) (s : State) : Outcome :=
  .next (s.receive h (Req.powerEnter (enterParams 1 wakeAt.toNat) 1 wakeAt.toNat))

/-- POWER_ENTER_HIBERNATE (R541): Command to enter HIBERNATE: the refusers are tested and the entry sequence starts. -/
def execPowerEnterHibernate (h : Hdr) (wakeAt : BitVec 64) (s : State) : Outcome :=
  .next (s.receive h (Req.powerEnter (enterParams 2 wakeAt.toNat) 2 wakeAt.toNat))

/-- LOG_DRAIN (R522): Returns cycle records from a given RSEQ. -/
def execLogDrain (h : Hdr) (fromRseq : BitVec 32) (count : BitVec 8) (s : State) : Outcome :=
  .next (s.receive h (Req.logDrain (le 4 fromRseq.toNat ++ le 1 count.toNat ++ le 3 0) fromRseq.toNat count.toNat))

/-- LOG_ACK (R520): Frees cycle records below UP_TO_RSEQ and resumes a stopped log. -/
def execLogAck (h : Hdr) (upTo : BitVec 32) (s : State) : Outcome :=
  .next (s.receive h (Req.logAck (le 4 upTo.toNat) upTo.toNat))

/-- INCIDENT_READ (R524): Returns one chunk of an incident record. -/
def execIncidentRead (h : Hdr) (iseq : BitVec 32) (chunk : BitVec 16) (s : State) : Outcome :=
  .next (s.receive h (Req.incidentRead (le 4 iseq.toNat ++ wordParams chunk.toNat) iseq.toNat chunk.toNat))

/-- LOG_STATUS (R527): Returns recorder status, optionally after a flush. -/
def execLogStatus (h : Hdr) (flags : BitVec 8) (s : State) : Outcome :=
  .next (s.receive h (Req.logStatus (pairParams flags.toNat 0) flags.toNat))

/-- INCIDENT_ERASE (R525): Erases incidents below UP_TO_ISEQ. -/
def execIncidentErase (h : Hdr) (upTo confirm : BitVec 32) (s : State) : Outcome :=
  .next (s.receive h (Req.incidentErase (le 4 upTo.toNat ++ le 4 confirm.toNat) upTo.toNat confirm.toNat))

/-- POWER_STATUS (R559): Returns the power and hold-up status. -/
def execPowerStatus (h : Hdr) (s : State) : Outcome :=
  .next (s.receive h (Req.powerStatus []))

/-- POWER_ACCOUNTS (R560): Returns the power accounts and counters. -/
def execPowerAccounts (h : Hdr) (s : State) : Outcome :=
  .next (s.receive h (Req.powerAccounts []))

/-- FW_STAGE (R609): Stages a block of a firmware image and, at LAST, verifies its signature. -/
def execFwStage (h : Hdr) (offset : BitVec 32) (flags : BitVec 8) (block : List Byte) (s : State) : Outcome :=
  .next (s.receive h (Req.fwStage (blockParams offset.toNat flags.toNat block) offset.toNat flags.toNat block))

/-- FW_ACTIVATE_LIVE (R612): FW_ACTIVATE MODE 0: engines are updated one at a time while doorways stay in service. -/
def execFwActivateLive (h : Hdr) (flags : BitVec 8) (s : State) : Outcome :=
  .next (s.receive h (Req.fwActivate (pairParams 0 flags.toNat) 0 flags.toNat))

/-- FW_ACTIVATE_RESTART (R617): FW_ACTIVATE MODE 1: waits for the safe point, switches bank and resets. -/
def execFwActivateRestart (h : Hdr) (flags : BitVec 8) (s : State) : Outcome :=
  .next (s.receive h (Req.fwActivate (pairParams 1 flags.toNat) 1 flags.toNat))

/-- SELFTEST (R618): Runs the selected self-tests on the selected doorways. -/
def execSelftest (h : Hdr) (tests : BitVec 16) (mask : BitVec 8) (s : State) : Outcome :=
  .next (s.receive h (Req.selftest (le 2 tests.toNat ++ le 1 mask.toNat ++ le 1 0) tests.toNat mask.toNat))

/-- LEG_SUBSTITUTE (R605): Manually substitutes the spare leg for a leg, or restores the original leg. -/
def execLegSubstitute (h : Hdr) (pair leg : BitVec 8) (s : State) : Outcome :=
  .next (s.receive h (Req.legSubstitute (pairParams pair.toNat leg.toNat) pair.toNat leg.toNat))

/-- IDENTITY (R626): Returns the module identity. -/
def execIdentity (h : Hdr) (s : State) : Outcome :=
  .next (s.receive h (Req.identity []))

/-- RING_STATUS (R462): Returns the ring status. -/
def execRingStatus (h : Hdr) (s : State) : Outcome :=
  .next (s.receive h (Req.ringStatus []))

/-- CONSIST_VIEW (R463): Returns the node view entries. -/
def execConsistView (h : Hdr) (mask : BitVec 32) (s : State) : Outcome :=
  .next (s.receive h (Req.consistView (le 4 mask.toNat) mask.toNat))

/-- SCHED_LOAD (R497): Checks a CAN schedule and queues it to replace the live one. -/
def execSchedLoad (h : Hdr) (channel : BitVec 8) (schedule : List Byte) (s : State) : Outcome :=
  .next (s.receive h (Req.schedLoad (pairParams channel.toNat 0 ++ schedule) channel.toNat schedule))

/-- CAN_STATUS (R498): Returns the status of the addressed CAN channels. -/
def execCanStatus (h : Hdr) (mask : BitVec 8) (s : State) : Outcome :=
  .next (s.receive h (Req.canStatus (pairParams mask.toNat 0) mask.toNat))

/-- APP_LOAD (R586): Loads a block of the application image and checks it at LAST. -/
def execAppLoad (h : Hdr) (offset : BitVec 32) (flags : BitVec 8) (block : List Byte) (s : State) : Outcome :=
  .next (s.receive h (Req.appLoad (blockParams offset.toNat flags.toNat block) offset.toNat flags.toNat block))

/-- APP_CONTROL_STOP (R587): Stops the application. -/
def execAppControlStop (h : Hdr) (s : State) : Outcome :=
  .next (s.receive h (Req.appControl (pairParams 0 0) 0))

/-- APP_CONTROL_START (R587): Starts the application. -/
def execAppControlStart (h : Hdr) (s : State) : Outcome :=
  .next (s.receive h (Req.appControl (pairParams 1 0) 1))

/-- APP_CONTROL_RESTART (R587): Stops and starts the application. -/
def execAppControlRestart (h : Hdr) (s : State) : Outcome :=
  .next (s.receive h (Req.appControl (pairParams 2 0) 2))

end Sys2Proof.Machine
end

