-- ==== Sys2Proof/Machine/MotionMeanings.lean ====
section
/-!
DEFINITION. Meanings: motion, the drives and obstacle reflexes (chapters 3 to 6).
-/

namespace Sys2Proof.Machine

/-- PATH_COMPLETE (R109): A drive's path or context reaches its end point and the drive passes to HOLD or IDLE. -/
def execPathComplete (r : DriveIx) (s : State) : Outcome := .next (s.pathEnds r)

/-- ADAPT_WINDOW_END (R245): After 1,000 adapted strokes the adaptation window restarts from the present values. -/
def execAdaptWindowEnd (d : DoorIx) (closing : Bool) (s : State) : Outcome :=
  .next (s.atDoor d (fun _ => onAdaptWindowEnd closing))

/-- ADAPT_MRAM_WRITE (R246): Every 64th adapted stroke, the adapted bins are written to MRAM. -/
def execAdaptMramWrite (d : DoorIx) (s : State) : Outcome := .next (s.atDoor d (fun _ => onAdaptWrite))

/-- SEGMENT_END_EVENT (R115): A segment with EVENT_AT_END ends, and the leaf engine is told and the cycle record marked. -/
def execSegmentEndEvent (r : DriveIx) (s : State) : Outcome := .next (s.atDrive r (fun _ => onSegmentEnd))

/-- STOP_COMPLETE (R125): A stopping drive reaches rest and passes to STOPPED_MID with its remaining move kept. -/
def execStopComplete (r : DriveIx) (s : State) : Outcome := .next (s.stopEnds r)

/-- DRIVE_INTERRUPTION (R127): A drive loses torque recoverably: the move is kept, the doorway's other drive stops and the doorway enters STOPPED 0x24. -/
def execDriveInterruption (r : DriveIx) (x : Interruption) (s : State) : Outcome := .next (s.interruptDrive r x)

/-- INTERRUPTION_END (R658): The cause of an interruption ends and torque returns as the drive state requires. -/
def execInterruptionEnd (r : DriveIx) (x : Interruption) (s : State) : Outcome := .next (s.interruptionEnds r x)

/-- COMPARE_FIRE (R130): The position crosses an armed compare: event 0xE301 and the output pulse are raised as selected. -/
def execCompareFire (r : DriveIx) (s : State) : Outcome := .next (s.compareTests r)

/-- COMPARE_REARM (R131): A MODE 2 compare re-arms after the position moves HYST away. -/
def execCompareRearm (r : DriveIx) (s : State) : Outcome := .next (s.compareTests r)

/-- ENCODER_SOURCE_COUNT (R135): A source count updates the encoder accumulator and may emit a quadrature edge. -/
def execEncoderSourceCount (e : Fin 2) (up : Bool) (s : State) : Outcome := .next (s.encoderCounts e up)

/-- HALL_CHANGE (R153): A change of the filtered Hall code counts an edge, or handles a skip. -/
def execHallChange (d : DoorIx) (code : BitVec 3) (since : Nat) (s : State) : Outcome :=
  .next (s.hallChanges d code.toNat since)

/-- HALL_DROPOUT (R180): An invalid Hall code for 100 µs removes torque and interrupts a moving drive. -/
def execHallDropout (d : DoorIx) (consistent : Bool) (after : Nat) (s : State) : Outcome :=
  .next (s.atDoor d (fun e => onHallDropout e consistent after))

/-- HALL_LOST_TIMEOUT (R180): No valid Hall code for 1 s: drive FAULT HALL_LOST. -/
def execHallLostTimeout (d : DoorIx) (s : State) : Outcome := .next (s.atDoor d (fun e => onHallFault e 6))

/-- HALL_SUPPLY_FAULT (R180): The Hall supply is out of range for 10 ms: drive FAULT HALL_SUPPLY. -/
def execHallSupplyFault (d : DoorIx) (s : State) : Outcome := .next (s.atDoor d (fun e => onHallFault e 7))

/-- DRIVE_HARDWARE_TRIP (R182): An overcurrent, desaturation, gate-supply or phase-open trip removes torque and latches a drive fault. -/
def execDriveHardwareTrip (r : DriveIx) (trip : HwTrip) (leg : Fin 4) (peak : Nat) (s : State) : Outcome :=
  .next (if s.cfg.driveFitted r then s.hardwareTrip r trip leg peak else s)

/-- DC_LINK_OUT_OF_RANGE (R182): The DC link goes below 40 V or above 175 V and the drives are interrupted. -/
def execDcLinkOutOfRange (high : Bool) (s : State) : Outcome := .next (s.dcLinkOut high)

/-- DIRECTION_FAULT (R159): On the first opening, the position decreases 20 edges under positive q command: FAULT DIRECTION. -/
def execDirectionFault (d : DoorIx) (s : State) : Outcome := .next (s.atDoor d onDirection)

/-- FOLLOWING_ERROR (R164): The position error exceeds FOLLOW_ERR_MAX for FOLLOW_ERR_TIME and the drive is interrupted. -/
def execFollowingError (d : DoorIx) (s : State) : Outcome := .next (s.atDoor d onFollowing)

/-- THERMAL_HOLD (R163): The bridge reaches 125 °C: the drive is interrupted and THERMAL_HOLD is set. -/
def execThermalHold (r : DriveIx) (temp : Int) (s : State) : Outcome := .next (s.atDrive r (fun e => onThermal e (isStep r) temp))

/-- THERMAL_HOLD_CLEAR (R163): The bridge falls below 110 °C and THERMAL_HOLD clears. -/
def execThermalHoldClear (r : DriveIx) (temp : Int) (s : State) : Outcome :=
  .next (s.atDrive r (fun e => onThermalClear e (isStep r) temp))

/-- DCS_EDGE_CONFIRMED (R168): Filtered DCS confirms a captured edge, which is compared with its learnt position. -/
def execDcsEdgeConfirmed (d : DoorIx) (make : Bool) (s : State) : Outcome := .next (s.doorInput d (fun e => onDcsEdge e make))

/-- SEAL_STALL (R172): The velocity stays low for SEAL_STALL_TIME in seal seek: relearn, or a final-closure trip without DCS. -/
def execSealStall (d : DoorIx) (s : State) : Outcome := .next (s.atDoor d onSealStall)

/-- SEAL_SEEK_OVERTRAVEL (R173): Seal seek travels beyond SEAL_SEEK_MAX: FAULT SEAL_NOT_FOUND. -/
def execSealSeekOvertravel (d : DoorIx) (s : State) : Outcome := .next (s.atDoor d onSealOvertravel)

/-- STEP_TIMER_EXPIRY (R192): The step interval timer expires: a step is issued and the interval to the next is computed. -/
def execStepTimerExpiry (d : DoorIx) (s : State) : Outcome := .next (s.atStep d onStepTimer)

/-- STALL_CONFIRMED (R199): STALL_STEPS stall-marked full steps confirm a stall, handled as homing end, failed deploy or retraction obstruction. -/
def execStallConfirmed (d : DoorIx) (onset : Int) (s : State) : Outcome :=
  .next (s.atStep d (fun e => onStallReport e onset))

/-- HOMING_OVERTRAVEL (R205): The homing-phase context ends without a stall: FAULT HOMING_OVERTRAVEL. -/
def execHomingOvertravel (d : DoorIx) (s : State) : Outcome := .next (s.atStep d onHomingOvertravel)

/-- PARK_COMPLETE (R206): The park move ends at a detent: the step is homed and event 0xE501 is sent. -/
def execParkComplete (d : DoorIx) (s : State) : Outcome := .next (s.parkEnds d)

/-- DEPLOY_COMPLETE (R213): The DEPLOY context completes; the step counts as deployed once SDS is made within 200 ms. -/
def execDeployComplete (d : DoorIx) (s : State) : Outcome := .next (s.atStep d onDeployComplete)

/-- DEPLOY_SDS_TIMEOUT (R214): SDS is not made within 200 ms of deploy completion; the deployment fails and is repeated or closes the door. -/
def execDeploySdsTimeout (d : DoorIx) (s : State) : Outcome := .next (s.atStep d onSdsTimeout)

/-- SDS_LOST (R213): Filtered SDS breaks after deployment and SDS_LOST is set. -/
def execSdsLost (d : DoorIx) (s : State) : Outcome := .next (s.doorInput d onSdsLost)

/-- STEP_RETRY_PAUSE_EXPIRY (R218): The retry pause ends and the step homes by the CREEP context. -/
def execStepRetryPauseExpiry (d : DoorIx) (s : State) : Outcome := .next (s.atStep d onRetryPauseEnd)

/-- SE_FAST_ONSET (R251): A sensitive-edge fast path becomes active and Quince latches its row's actions in hardware. -/
def execSeFastOnset (d : DoorIx) (x : EdgeSample) (s : State) : Outcome := .next (s.edgeOnset d x)

/-- ROWAN_TRIP (R236): Effort exceeds the limit for ENV_CONFIRM samples and a Rowan row is raised. -/
def execRowanTrip (d : DoorIx) (iq acc temp : Int) (s : State) : Outcome := .next (s.rowanTrips d iq acc temp)

/-- FINAL_CLOSURE_TRIP (R247): A final-closure criterion is met and row 32 + d is raised. -/
def execFinalClosureTrip (d : DoorIx) (m : FinalClosure) (s : State) : Outcome := .next (s.closureTrips d m)

/-- LEVEL_ROW_CHANGE (R659): A level row event (egress, bypass, hardware trip, DC link, lockstep, group invalid) starts or ends in Quince. -/
def execLevelRowChange (row : RowIx) (r : DriveIx) (present : Bool) (s : State) : Outcome := .next (s.levelRow row r present)

/-- REFLEX_TRIP_TAKEN (R259): The state machine takes a reflex trip: reopen, obstruction or stop under Table 1.6. -/
def execReflexTripTaken (d : DoorIx) (s : State) : Outcome := .next (s.atDoor d onTripTaken)

/-- REFLEX_STOP_END (R261): The leaves slow to 20,000 µm/s or 300 ms pass: the latch is released and the reopen motion starts. -/
def execReflexStopEnd (d : DoorIx) (s : State) : Outcome := .next (s.reflexStopEnds d)

/-- REFLEX_LATCH_RELEASE (R268): At the first tick with no latched onset event present, the leaf engine releases the latch. -/
def execReflexLatchRelease (d : DoorIx) (s : State) : Outcome := .next (s.latchReleases d)

/-- QUINCE_CLOCK_FAULT (R255): No RC edge for 1 µs forces every bridge to TORQUE_OFF, and active doorways enter FAULT. -/
def execQuinceClockFault (s : State) : Outcome := .next (s.clockFails)

/-- SE_PATH_FAULT (R228): The fast and filtered SE states differ for 100 ms and SE_PATH_FAULT is set. -/
def execSePathFault (d : DoorIx) (second : Bool) (s : State) : Outcome := .next (s.edgesCompared d (fun e => onSePathFault e second))

/-- SE_PATH_FAULT_CLEAR (R228): The two paths agree for 1 s and SE_PATH_FAULT clears. -/
def execSePathFaultClear (d : DoorIx) (s : State) : Outcome := .next (s.edgesCompared d onSePathClear)

/-- ENV_BREAKAWAY_EXPIRY (R235): ENV_BREAKAWAY_TIME after leaving rest ends, and Rowan leaves ceiling-only mode. -/
def execEnvBreakawayExpiry (d : DoorIx) (s : State) : Outcome := .next (s.atDoor d (fun _ => onBreakawayEnd))

end Sys2Proof.Machine
end

