-- ==== Sys2Proof/Machine/NetworkMeanings.lean ====
section
/-!
DEFINITION. Meanings: the ring, CAN and the recorder (chapters 11 to 13).
-/

namespace Sys2Proof.Machine

/-- ERASE_CLEAR_COMPLETE (R526): The erased journal slots have been cleared and the erase operation completes. -/
def execEraseClearComplete (s : State) : Outcome := .next (s.eraseDone)

/-- SCHEDULE_SWAP (R497): At the next matrix cycle start, the loaded schedule replaces the live one. -/
def execScheduleSwap (ch : CanIx) (s : State) : Outcome := .next (s.onChannel ch (fun k e => k.swap e ch))

/-- RING_FRAME_RECEIVED (R432): A ring frame is forwarded, delivered, wrapped or removed, with duplicate filtering. -/
def execRingFrameReceived (p : PortIx) (f : RingFrame) (s : State) : Outcome := .next (s.ringFrame p f)

/-- BEACON_TRANSMIT (R436): Each millisecond a node sends its beacon. -/
def execBeaconTransmit (s : State) : Outcome := .next (s.sendBeacon)

/-- TIME_AGE_COUNT (R447): Each second without a master, TIME_AGE is incremented. -/
def execTimeAgeCount (s : State) : Outcome := .next (s.timeAges)

/-- NODE_TIMEOUT (R438): A node without a beacon for 50 ms leaves the view. -/
def execNodeTimeout (addr : BitVec 8) (s : State) : Outcome := .next (s.onInserted (fun r e => r.nodeTimeout e addr.toNat))

/-- PORT_DOWN (R440): A ring port loses link or valid frames for 3 ms and is wrapped. -/
def execPortDown (p : PortIx) (s : State) : Outcome := .next (s.onInserted (fun r e => r.portDown e p))

/-- PORT_UP (R442): 100 ms of valid frames bring a port up and unwrap it. -/
def execPortUp (p : PortIx) (s : State) : Outcome := .next (s.onInserted (fun r e => r.portUp e p))

/-- ADDRESS_CONFLICT_CLEAR (R439): 1 s without a conflicting beacon clears ADDRESS_CONFLICT. -/
def execAddressConflictClear (s : State) : Outcome := .next (s.onInserted Ring.addressClear)

/-- ETHERTYPE_CONFLICT_CLEAR (R434): 1 s without foreign EtherType frames clears ETHERTYPE_CONFLICT. -/
def execEthertypeConflictClear (s : State) : Outcome := .next (s.onInserted Ring.etherClear)

/-- CONSIST_MISMATCH_CLEAR (R454): 1 s with no mismatch condition clears CONSIST_MISMATCH. -/
def execConsistMismatchClear (s : State) : Outcome := .next (s.onInserted Ring.consistClear)

/-- VERSION_MISMATCH_CLEAR (R455): 1 s of agreement clears VERSION_MISMATCH. -/
def execVersionMismatchClear (s : State) : Outcome := .next (s.onInserted Ring.versionClear)

/-- RING_INSERTION (R445): The relays are energised and the module joins the ring. -/
def execRingInsertion (s : State) : Outcome := .next (s.ringInserts)

/-- RING_REMOVAL (R445): LEAVING beacons are sent, then the relay drive is released. -/
def execRingRemoval (s : State) : Outcome := .next (s.ringRemoves)

/-- CAN_FRAME_RECEIVED (R480): A received CAN frame goes to reassembly, starts a basic cycle, or is filtered into a queue. -/
def execCanFrameReceived (ch : CanIx) (f : CanFrame) (s : State) : Outcome := .next (s.canFrame ch f)

/-- CAN_QUEUE_SERVICE (R483): Every 1 ms the comms engine empties the receive queues and mirrors frames. -/
def execCanQueueService (ch : CanIx) (s : State) : Outcome := .next (s.canServed ch)

/-- CAN_BUS_OFF (R473): The controller enters bus-off: buffers cleared, partial packets discarded, schedule suspended. -/
def execCanBusOff (ch : CanIx) (s : State) : Outcome := .next (s.busOff ch)

/-- CAN_BUS_RECOVERED (R473): The controller returns to error-active and the schedule resumes. -/
def execCanBusRecovered (ch : CanIx) (s : State) : Outcome := .next (s.onChannel ch (fun k e => k.recovered e ch))

/-- CAN_INTEGRATION_COMPLETE (R474): After 11 recessive bits the controller joins the bus. -/
def execCanIntegrationComplete (ch : CanIx) (s : State) : Outcome := .next (s.onChannel ch (fun k e => k.integrated e ch))

/-- BASIC_CYCLE_START (R488): A basic cycle of the schedule begins. -/
def execBasicCycleStart (ch : CanIx) (s : State) : Outcome := .next (s.onChannel ch (fun k e => k.cycleStart e ch))

/-- SLOT_TXB0_LOAD (R491): 20 µs before a transmit slot, TXB0 is loaded with its message object. -/
def execSlotTxb0Load (ch : CanIx) (slot : BitVec 8) (s : State) : Outcome := .next (s.loadSlot ch slot.toNat)

/-- TX_LATEST_START (R477): A frame's latest start passes: TXB0 is aborted, or TXB1/2 waits for the next window. -/
def execTxLatestStart (ch : CanIx) (buf : TxBuf) (s : State) : Outcome := .next (s.latestStart ch buf)

/-- CAN_FRAME_TRANSMITTED (R477): A frame completes, or loses arbitration and is retried. -/
def execCanFrameTransmitted (ch : CanIx) (ready : BitVec 3) (result : TxResult) (s : State) : Outcome :=
  .next (s.frameSent ch ready result)

/-- SCHED_SYNC_LOST (R490): No reference for two cycle lengths sets SCHED_SYNC_LOST. -/
def execSchedSyncLost (ch : CanIx) (s : State) : Outcome := .next (s.onChannel ch (fun k e => k.loseSync e ch))

/-- FLUSH_START (R511): A flush trigger starts writing the staged records to MRAM. -/
def execFlushStart (s : State) : Outcome := .next (s.flushStarts)

/-- FLUSH_COMPLETE (R513): A flush completes, records become durable and a queued further flush may start. -/
def execFlushComplete (us : Nat) (s : State) : Outcome := .next (s.flushEnds us)

/-- FLUSH_EACH_RECORD (R516): Without hold-up, each record is flushed within 10 ms of staging. -/
def execFlushEachRecord (s : State) : Outcome := .next (s.flushRecord)

/-- INCIDENT_COMPLETE (R509): An incident has recorded its last sample and is staged with the next ISEQ. -/
def execIncidentComplete (slot : Fin 9) (s : State) : Outcome := .next (s.incidentEnds slot)

end Sys2Proof.Machine
end

