-- ==== Sys2Proof/Machine/PowerMeanings.lean ====
section
/-!
DEFINITION. Meanings: supply, hold-up, power states and wakes (chapter 14).
-/

namespace Sys2Proof.Machine

/-- POWER_UP (R546): Supply returns or the module is reset: logic supplies rise, firmware and configuration are verified, domains are restored and every fitted doorway settles. -/
def execPowerUp (keepLost goodA goodB : Bool) (s : State) : Outcome := .next (s.powersUp keepLost goodA goodB)

/-- SUPPLY_FAIL (R553): Supply at X1 falls below 45 V: the module switches to the hold-up stack and starts the power-fail flush. -/
def execSupplyFail (s : State) : Outcome := .next (s.supplyFails)

/-- SUPPLY_RETURN (R553): X1 has stayed above 50.4 V for 10 ms and the module returns from the stack to the supply. -/
def execSupplyReturn (s : State) : Outcome := .next (s.supplyReturns)

/-- HOLDUP_RESERVE_REACHED (R554): Deliverable stack energy falls to HOLDUP_RESERVE: the power stage is switched off and a flush starts. -/
def execHoldupReserveReached (s : State) : Outcome := .next (s.reserveReached)

/-- HOLDUP_EXHAUSTED (R554): The stack reaches its floor, the module resets and the loop opens. -/
def execHoldupExhausted (s : State) : Outcome := .next (s.stackEmpty)

/-- STABLE_HOLDUP_TIMEOUT (R555): In STABLE the supply has not returned within STABLE_HOLDUP_TIME, so every domain but KEEP is switched off and the loop opens. -/
def execStableHoldupTimeout (s : State) : Outcome := .next (s.stableHoldupEnds)

/-- CARTRIDGE_REMOVED (R556): The hold-up cartridge is withdrawn: NO_HOLDUP is set and flush-each-record mode begins. -/
def execCartridgeRemoved (s : State) : Outcome := .next (s.cartridgeOut)

/-- CARTRIDGE_INSERTED (R556): A cartridge is inserted: charging starts, and its serial number and fitting time are recorded. -/
def execCartridgeInserted (serial : List Byte) (capacitance esr : BitVec 16) (s : State) : Outcome :=
  .next (s.cartridgeIn serial capacitance.toNat esr.toNat)

/-- CARTRIDGE_CHARGED (R556): The stack reaches 90 % of full energy: NO_HOLDUP and CART_CHARGING clear. -/
def execCartridgeCharged (s : State) : Outcome := .next (s.cartridgeCharged)

/-- CARTRIDGE_MEASURE (R556): Every 24 h of RUN the stack capacitance and ESR are measured. -/
def execCartridgeMeasure (capacitance esr : BitVec 16) (s : State) : Outcome :=
  .next (s.measureCartridge capacitance.toNat esr.toNat)

/-- PRECHARGE_COMPLETE (R548): DC-link precharge completes, POWER_STAGE_READY is set and waiting motions start. -/
def execPrechargeComplete (s : State) : Outcome := .next (s.precharged)

/-- POWER_ENTRY_COMMIT (R540): Once the flush and parks are complete, the entry reaches its commitment point: loop to the keeper, sessions closed, domains off. -/
def execPowerEntryCommit (s : State) : Outcome := .next (s.entryCommits)

/-- POWER_ENTRY_FAILED (R539): A refuser applies while the entry runs (park or flush late, channel in inrush), so the entry ends ENTRY_FAILED. -/
def execPowerEntryFailed (refuser : BitVec 8) (s : State) : Outcome := .next (s.entryFails refuser.toNat)

/-- WAKE_FROM_STABLE (R545): A latched wake cause restores the domains from STABLE and returns the module to RUN. -/
def execWakeFromStable (s : State) : Outcome := .next (s.wakesFromStable)

/-- WAKE_FROM_HIBERNATE (R546): A latched wake cause restarts the module from HIBERNATE. -/
def execWakeFromHibernate (goodA goodB : Bool) (s : State) : Outcome := .next (s.wakesFromHibernate goodA goodB)

/-- STABLE_SAMPLE (R334): Every 100 ms in STABLE the front ends sample, a burst is sent, and the keeper evaluates the doorways. -/
def execStableSample (groups : List (GroupIx × BitVec 16 × Bool)) (s : State) : Outcome := .next (s.stableSample groups)

/-- SERVICE_LINK_ENERGY (R544): Link energy on X14 in STABLE or HIBERNATE latches a wake. -/
def execServiceLinkEnergy (s : State) : Outcome := .next (s.wakeCause 5)

/-- WAKE_ALARM (R544): Module time reaches WAKE_AT and the alarm wake is latched. -/
def execWakeAlarm (s : State) : Outcome := .next (s.alarm)

/-- WATCHER_SOURCE (R594): A selected watcher source asserts in STABLE or HIBERNATE and latches wake cause 8. -/
def execWatcherSource (source : Fin 128) (s : State) : Outcome := .next (s.watcher source.val)

/-- CAN_WAKE_PATTERN (R499): A wake-up pattern received on a low-power transceiver in STABLE is passed on as a wake request. -/
def execCanWakePattern (ch : CanIx) (s : State) : Outcome := .next (s.canWakes ch)

end Sys2Proof.Machine
end

