-- ==== Sys2Proof/Machine/SessionMeanings.lean ====
section
/-!
DEFINITION. Meanings: the session, configuration and object commands (groups 0x01 and 0x02). Each is a complete packet of Table 9.1, with
its typed parameters, taken through the checks of Table 9.6.
-/

namespace Sys2Proof.Machine

/-- SESSION_OPEN (R379): A session is opened fresh or resumed, and takes its primary doorways. -/
def execSessionOpen (h : Hdr) (lastHseq lastDseq : BitVec 16) (cfgId : BitVec 64) (s : State) : Outcome :=
  .next (s.receive h (Req.sessionOpen (le 2 lastHseq.toNat ++ le 2 lastDseq.toNat ++ le 8 cfgId.toNat) lastHseq.toNat lastDseq.toNat cfgId.toNat))

/-- SESSION_CLOSE (R383): A session is closed after its reply. -/
def execSessionClose (h : Hdr) (s : State) : Outcome :=
  .next (s.receive h (Req.sessionClose []))

/-- SESSION_STATE (R383): Returns the session's state; also serves as a keep-alive. -/
def execSessionState (h : Hdr) (s : State) : Outcome :=
  .next (s.receive h (Req.sessionState []))

/-- SESSION_AUTH (R382): The session MAC is checked to authenticate the session, with lock-out after three failures. -/
def execSessionAuth (h : Hdr) (mac : List Byte) (s : State) : Outcome :=
  .next (s.receive h (Req.sessionAuth mac mac))

/-- RESULT_FETCH (R373): Returns NOT_READY or the final result of an operation, and starts its fetch hold. -/
def execResultFetch (h : Hdr) (handle : BitVec 16) (s : State) : Outcome :=
  .next (s.receive h (Req.resultFetch (wordParams handle.toNat) handle.toNat))

/-- ABORT (R374): Aborts an operation before its commitment point, or answers TOO_LATE. -/
def execAbort (h : Hdr) (handle : BitVec 16) (s : State) : Outcome :=
  .next (s.receive h (Req.abort (wordParams handle.toNat) handle.toNat))

/-- EVENT_REPLAY (R371): Returns stored events after a given DSEQ. -/
def execEventReplay (h : Hdr) (fromDseq : BitVec 16) (count : BitVec 8) (s : State) : Outcome :=
  .next (s.receive h (Req.eventReplay (le 2 fromDseq.toNat ++ le 1 count.toNat ++ le 1 0) fromDseq.toNat count.toNat))

/-- COMMAND_CLAIM (R390): The session claims command of doorways under the takeover rules. -/
def execCommandClaim (h : Hdr) (mask : BitVec 8) (s : State) : Outcome :=
  .next (s.receive h (Req.commandClaim (pairParams mask.toNat 0) mask.toNat))

/-- COMMAND_YIELD (R389): The session gives up command of doorways. -/
def execCommandYield (h : Hdr) (mask : BitVec 8) (s : State) : Outcome :=
  .next (s.receive h (Req.commandYield (pairParams mask.toNat 0) mask.toNat))

/-- CFG_LOAD_BLOCK (R404): Stages a block of a configuration image in the inactive bank. -/
def execCfgLoadBlock (h : Hdr) (offset : BitVec 32) (flags : BitVec 8) (block : List Byte) (s : State) : Outcome :=
  .next (s.receive h (Req.cfgLoadBlock (blockParams offset.toNat flags.toNat block) offset.toNat flags.toNat block))

/-- CFG_COMMIT (R407): Checks a staged or previous image in full and waits for the safe point to swap it in. -/
def execCfgCommit (h : Hdr) (previous : Bool) (cfgId : BitVec 64) (s : State) : Outcome :=
  .next (s.receive h (Req.cfgCommit (commitParams (bitWord [true, previous]) cfgId.toNat) (bitWord [true, previous]) cfgId.toNat))

/-- CFG_COMMIT_CHECK_ONLY (R408): Checks an image without swapping it in, and sets CHECK_PASSED when it passes. -/
def execCfgCommitCheckOnly (h : Hdr) (previous : Bool) (cfgId : BitVec 64) (s : State) : Outcome :=
  .next (s.receive h (Req.cfgCommit (commitParams (bitWord [false, previous]) cfgId.toNat) (bitWord [false, previous]) cfgId.toNat))

/-- CFG_READ (R423): Returns bytes of a configuration bank. -/
def execCfgRead (h : Hdr) (bank : BitVec 8) (length : BitVec 16) (offset : BitVec 32) (s : State) : Outcome :=
  .next (s.receive h (Req.cfgRead (le 1 bank.toNat ++ le 1 0 ++ le 2 length.toNat ++ le 4 offset.toNat) bank.toNat length.toNat offset.toNat))

/-- OBJ_READ (R422): Returns the value of one object. -/
def execObjRead (h : Hdr) (index : BitVec 16) (sub : BitVec 8) (s : State) : Outcome :=
  .next (s.receive h (Req.objRead (le 2 index.toNat ++ le 1 sub.toNat ++ le 1 0) index.toNat sub.toNat))

/-- OBJ_WRITE (R422): Writes the RW and W1C fields of an object after the rights, ownership, length and range checks. -/
def execObjWrite (h : Hdr) (index : BitVec 16) (sub : BitVec 8) (value : List Byte) (s : State) : Outcome :=
  .next (s.receive h (Req.objWrite (objParams index.toNat sub.toNat value) index.toNat sub.toNat value))

/-- DISCREPANCY_RESET (R89): A write of 1 from the service session clears DISCREPANCY and DISCREPANCY_PERSISTENT while every compared pair agrees. -/
def execDiscrepancyReset (h : Hdr) (v : BitVec 8) (s : State) : Outcome :=
  .next (s.receive h (Req.objWrite (objParams 0x1203 1 [v]) 0x1203 1 [v]))

/-- ROLE_SELECT (R113): The commanding session selects which slot serves each role, from the next start of the role. -/
def execRoleSelect (h : Hdr) (r : DriveIx) (v : BitVec 16) (s : State) : Outcome :=
  .next (s.receive h (Req.objWrite (objParams (motionIndex r 0x12) 0x11 (le 2 v.toNat)) (motionIndex r 0x12) 0x11 (le 2 v.toNat)))

/-- SESSION_KEY (R607): Session 4 writes a session key into the security store; a write of its own key closes session 4. -/
def execSessionKey (h : Hdr) (i : Fin 5) (key : List Byte) (s : State) : Outcome :=
  .next (s.receive h (Req.objWrite (objParams 0x1050 (i.val + 1) key) 0x1050 (i.val + 1) key))

/-- CAN_RESTART (R473): A write of 1 starts bus-off recovery when BUSOFF_AUTO is 0. -/
def execCanRestart (h : Hdr) (ch : CanIx) (v : BitVec 8) (s : State) : Outcome :=
  .next (s.receive h (Req.objWrite (objParams (0x5100 + ch.val) 0x40 [v]) (0x5100 + ch.val) 0x40 [v]))

end Sys2Proof.Machine
end

