-- ==== Sys2Proof/Machine/TransportMeanings.lean ====
section
/-!
DEFINITION. Meanings: transports and session timers, commits, firmware updates and self-tests (chapters 9, 10 and 16).
-/

namespace Sys2Proof.Machine

/-- CAN_PARTIAL_TIMEOUT (R356): 20 ms pass between two segments and the partial packet is discarded. -/
def execCanPartialTimeout (i : SessIx) (s : State) : Outcome := .next (s.partialTimeout i)

/-- SERVICE_DATAGRAM_RECEIVED (R357): A UDP datagram on the service port carries one FCP packet to session 4. -/
def execServiceDatagramReceived (source : BitVec 48) (bytes : List Byte) (s : State) : Outcome :=
  .next (s.packet .service source.toNat false bytes)

/-- TX_QUEUE_SEND (R370): A waiting reply or event leaves the session's transmit queue when the transport has room. -/
def execTxQueueSend (i : SessIx) (s : State) : Outcome := .next (s.sendPacket i)

/-- SESSION_SILENT_TIMEOUT (R376): No valid packet arrives for TAKEOVER_TIME and an OPEN session becomes SILENT. -/
def execSessionSilentTimeout (i : SessIx) (s : State) : Outcome := .next (s.sessionSilent i)

/-- SESSION_EXPIRY_TIMEOUT (R376): SESSION_EXPIRY passes for a SILENT session, which becomes CLOSED and loses its doorways. -/
def execSessionExpiryTimeout (i : SessIx) (s : State) : Outcome := .next (s.sessionExpires i)

/-- RESULT_HOLD_END (R373): The 30 s fetch hold of a result ends and the result is discarded. -/
def execResultHoldEnd (handle : BitVec 16) (s : State) : Outcome := .next (s.discardResult handle.toNat .held)

/-- RESULT_DISCARD_TIMEOUT (R373): A result that has not been fetched 600 s after completion is discarded. -/
def execResultDiscardTimeout (handle : BitVec 16) (s : State) : Outcome := .next (s.discardResult handle.toNat .complete)

/-- AUTH_LOCK_END (R382): The 10 s AUTH_LOCKED period after a third wrong MAC ends. -/
def execAuthLockEnd (i : SessIx) (s : State) : Outcome := .next (s.authLockEnds i)

/-- SAFE_POINT_FOUND (R410): At a tick where every doorway is at rest and no update or maintenance runs, the commit proceeds to the swap. -/
def execSafePointFound (s : State) : Outcome := .next (s.safePoint)

/-- SAFE_POINT_TIMEOUT (R410): No safe point is found within 60 s, so the commit ends REFUSED 0x30. -/
def execSafePointTimeout (s : State) : Outcome := .next (s.safePointTimeout)

/-- LEAF_ENGINE_UPDATE (R613): When its doorway is LOCKED or ISOLATED, a leaf engine is halted and its doorway enters MAINT for the update. -/
def execLeafEngineUpdate (d : DoorIx) (s : State) : Outcome := .next (s.leafUpdate d)

/-- LEAF_ENGINE_UPDATE_DONE (R613): New leaf code has been loaded and started, and the doorway settles. -/
def execLeafEngineUpdateDone (d : DoorIx) (ok : Bool) (s : State) : Outcome := .next (s.leafUpdateDone d ok)

/-- SUPV_UPDATE (R613): When its conditions hold, the supervisor pair is held under KEEPER_ALONE and reloaded. -/
def execSupvUpdate (s : State) : Outcome := .next (s.supvUpdate)

/-- SUPV_UPDATE_DONE (R613): The updated supervisor pair starts and takes the loop back. -/
def execSupvUpdateDone (ok : Bool) (s : State) : Outcome := .next (s.supvUpdateDone ok)

/-- COMMS_UPDATE (R613): When no commit, erase or schedule load runs, sessions are paused and the comms engine is reloaded. -/
def execCommsUpdate (s : State) : Outcome := .next (s.commsUpdate)

/-- COMMS_UPDATE_DONE (R615): The comms engine restarts and writing ACTIVE_FW_BANK commits the activation. -/
def execCommsUpdateDone (ok : Bool) (s : State) : Outcome := .next (s.commsUpdateDone ok)

/-- UPDATE_WAIT_TIMEOUT (R616): A waited state is not reached within UPDATE_WAIT, so the activation is rolled back and refused. -/
def execUpdateWaitTimeout (s : State) : Outcome := .next (s.updateWaitEnds)

/-- SUBSTITUTION_COMPLETE (R601): The spare is joined, the interruption ends and SPARE_STATE becomes IN_USE. -/
def execSubstitutionComplete (pair : Fin 4) (pass : Bool) (s : State) : Outcome := .next (s.subEnds pair pass)

/-- AUTO_RESUME (R603): After an automatic substitution, a still-STOPPED doorway is resumed once both drives rest. -/
def execAutoResume (d : DoorIx) (s : State) : Outcome := .next (s.autoResumes d)

/-- SELFTEST_COMPLETE (R618): The selected self-tests have finished, the tested doorways leave MAINT and settle, and the SELFTEST result is fixed. -/
def execSelftestComplete (failed : BitVec 16) (legs : List (Fin 4 × Fin 14)) (latency : BitVec 16) (s : State) : Outcome :=
  .next (s.selftestEnds failed.toNat legs latency.toNat)

end Sys2Proof.Machine
end

