-- ==== Sys2Proof/Machine/Dispatch.lean ====
section
/-!
DEFINITION. The effect of a command on everything but the queue: one arm per row of the opcode table.
-/

namespace Sys2Proof.Machine

def exec (i : Instr) (s : State) : Host.Outcome State Fault Refusal :=
  match i with
  | .powerUp keepLost goodA goodB => Sys2Proof.Machine.execPowerUp keepLost goodA goodB s
  | .cartridgeInserted serial capacitance esr => Sys2Proof.Machine.execCartridgeInserted serial capacitance esr s
  | .cartridgeMeasure capacitance esr => Sys2Proof.Machine.execCartridgeMeasure capacitance esr s
  | .powerEnterStable h wakeAt => Sys2Proof.Machine.execPowerEnterStable h wakeAt s
  | .powerEnterHibernate h wakeAt => Sys2Proof.Machine.execPowerEnterHibernate h wakeAt s
  | .powerEntryFailed refuser => Sys2Proof.Machine.execPowerEntryFailed refuser s
  | .wakeFromHibernate goodA goodB => Sys2Proof.Machine.execWakeFromHibernate goodA goodB s
  | .stableSample groups => Sys2Proof.Machine.execStableSample groups s
  | .watcherSource source => Sys2Proof.Machine.execWatcherSource source s
  | .canWakePattern ch => Sys2Proof.Machine.execCanWakePattern ch s
  | .leafWatchdogExpiry d => Sys2Proof.Machine.execLeafWatchdogExpiry d s
  | .leafEngineRestart d => Sys2Proof.Machine.execLeafEngineRestart d s
  | .appTimerExpiry k => Sys2Proof.Machine.execAppTimerExpiry k s
  | .tmrWdKick v => Sys2Proof.Machine.execTmrWdKick v s
  | .tmrCtrlWrite k v => Sys2Proof.Machine.execTmrCtrlWrite k v s
  | .mbxPost v => Sys2Proof.Machine.execMbxPost v s
  | .mbxAck mask => Sys2Proof.Machine.execMbxAck mask s
  | .canTxreqWrite v => Sys2Proof.Machine.execCanTxreqWrite v s
  | .canTxabortWrite v => Sys2Proof.Machine.execCanTxabortWrite v s
  | .canRxqPop second => Sys2Proof.Machine.execCanRxqPop second s
  | .canObjDataWrite m v => Sys2Proof.Machine.execCanObjDataWrite m v s
  | .intcCompleteWrite e v => Sys2Proof.Machine.execIntcCompleteWrite e v s
  | .intcCtrlWrite e v => Sys2Proof.Machine.execIntcCtrlWrite e v s
  | .interruptDelivery e source priority => Sys2Proof.Machine.execInterruptDelivery e source priority s
  | .outOfRightsAccess addr => Sys2Proof.Machine.execOutOfRightsAccess addr s
  | .registerWrite addr width v => Sys2Proof.Machine.execRegisterWrite addr width v s
  | .canPartialTimeout k => Sys2Proof.Machine.execCanPartialTimeout k s
  | .serviceDatagramReceived source bytes => Sys2Proof.Machine.execServiceDatagramReceived source bytes s
  | .txQueueSend k => Sys2Proof.Machine.execTxQueueSend k s
  | .sessionSilentTimeout k => Sys2Proof.Machine.execSessionSilentTimeout k s
  | .sessionExpiryTimeout k => Sys2Proof.Machine.execSessionExpiryTimeout k s
  | .resultHoldEnd handle => Sys2Proof.Machine.execResultHoldEnd handle s
  | .resultDiscardTimeout handle => Sys2Proof.Machine.execResultDiscardTimeout handle s
  | .authLockEnd k => Sys2Proof.Machine.execAuthLockEnd k s
  | .sessionOpen h lastHseq lastDseq cfgId => Sys2Proof.Machine.execSessionOpen h lastHseq lastDseq cfgId s
  | .sessionClose h => Sys2Proof.Machine.execSessionClose h s
  | .sessionState h => Sys2Proof.Machine.execSessionState h s
  | .sessionAuth h mac => Sys2Proof.Machine.execSessionAuth h mac s
  | .resultFetch h handle => Sys2Proof.Machine.execResultFetch h handle s
  | .abort h handle => Sys2Proof.Machine.execAbort h handle s
  | .eventReplay h fromDseq count => Sys2Proof.Machine.execEventReplay h fromDseq count s
  | .commandClaim h mask => Sys2Proof.Machine.execCommandClaim h mask s
  | .commandYield h mask => Sys2Proof.Machine.execCommandYield h mask s
  | .cfgLoadBlock h offset flags block => Sys2Proof.Machine.execCfgLoadBlock h offset flags block s
  | .cfgCommit h previous cfgId => Sys2Proof.Machine.execCfgCommit h previous cfgId s
  | .cfgCommitCheckOnly h previous cfgId => Sys2Proof.Machine.execCfgCommitCheckOnly h previous cfgId s
  | .cfgRead h bank length offset => Sys2Proof.Machine.execCfgRead h bank length offset s
  | .objRead h index sub => Sys2Proof.Machine.execObjRead h index sub s
  | .objWrite h index sub value => Sys2Proof.Machine.execObjWrite h index sub value s
  | .discrepancyReset h v => Sys2Proof.Machine.execDiscrepancyReset h v s
  | .roleSelect h r v => Sys2Proof.Machine.execRoleSelect h r v s
  | .sessionKey h k key => Sys2Proof.Machine.execSessionKey h k key s
  | .canRestart h ch v => Sys2Proof.Machine.execCanRestart h ch v s
  | .doorCommandOpen h mask => Sys2Proof.Machine.execDoorCommandOpen h mask s
  | .doorCommandClose h mask => Sys2Proof.Machine.execDoorCommandClose h mask s
  | .doorCommandStop h mask => Sys2Proof.Machine.execDoorCommandStop h mask s
  | .doorCommandResume h mask => Sys2Proof.Machine.execDoorCommandResume h mask s
  | .doorCommandReset h mask => Sys2Proof.Machine.execDoorCommandReset h mask s
  | .doorStatus h mask detail => Sys2Proof.Machine.execDoorStatus h mask detail s
  | .doorIsolateSet h doorway => Sys2Proof.Machine.execDoorIsolateSet h doorway s
  | .doorIsolateClear h doorway => Sys2Proof.Machine.execDoorIsolateClear h doorway s
  | .doorTestCycle h doorway cycles => Sys2Proof.Machine.execDoorTestCycle h doorway cycles s
  | .envelopeLearn h doorway => Sys2Proof.Machine.execEnvelopeLearn h doorway s
  | .moveTo h drive mode target speed => Sys2Proof.Machine.execMoveTo h drive mode target speed s
  | .moveStop h mask mode => Sys2Proof.Machine.execMoveStop h mask mode s
  | .moveResume h mask => Sys2Proof.Machine.execMoveResume h mask s
  | .profileWrite h context body => Sys2Proof.Machine.execProfileWrite h context body s
  | .compareSet h drive mode direction actions position hyst => Sys2Proof.Machine.execCompareSet h drive mode direction actions position hyst s
  | .homeStepHome h doorway => Sys2Proof.Machine.execHomeStepHome h doorway s
  | .homeStepMeasure h doorway => Sys2Proof.Machine.execHomeStepMeasure h doorway s
  | .switchSetOff h mask => Sys2Proof.Machine.execSwitchSetOff h mask s
  | .switchSetOn h mask => Sys2Proof.Machine.execSwitchSetOn h mask s
  | .switchSetKeepWarm h mask => Sys2Proof.Machine.execSwitchSetKeepWarm h mask s
  | .switchSetReturn h mask => Sys2Proof.Machine.execSwitchSetReturn h mask s
  | .switchStatus h mask => Sys2Proof.Machine.execSwitchStatus h mask s
  | .faultClear h mask => Sys2Proof.Machine.execFaultClear h mask s
  | .ioRead h mask => Sys2Proof.Machine.execIoRead h mask s
  | .outputSet h mask value => Sys2Proof.Machine.execOutputSet h mask value s
  | .logDrain h fromRseq count => Sys2Proof.Machine.execLogDrain h fromRseq count s
  | .logAck h upTo => Sys2Proof.Machine.execLogAck h upTo s
  | .incidentRead h iseq chunk => Sys2Proof.Machine.execIncidentRead h iseq chunk s
  | .logStatus h flags => Sys2Proof.Machine.execLogStatus h flags s
  | .incidentErase h upTo confirm => Sys2Proof.Machine.execIncidentErase h upTo confirm s
  | .powerStatus h => Sys2Proof.Machine.execPowerStatus h s
  | .powerAccounts h => Sys2Proof.Machine.execPowerAccounts h s
  | .fwStage h offset flags block => Sys2Proof.Machine.execFwStage h offset flags block s
  | .fwActivateLive h flags => Sys2Proof.Machine.execFwActivateLive h flags s
  | .fwActivateRestart h flags => Sys2Proof.Machine.execFwActivateRestart h flags s
  | .leafEngineUpdate d => Sys2Proof.Machine.execLeafEngineUpdate d s
  | .leafEngineUpdateDone d ok => Sys2Proof.Machine.execLeafEngineUpdateDone d ok s
  | .supvUpdateDone ok => Sys2Proof.Machine.execSupvUpdateDone ok s
  | .commsUpdateDone ok => Sys2Proof.Machine.execCommsUpdateDone ok s
  | .selftest h tests mask => Sys2Proof.Machine.execSelftest h tests mask s
  | .legSubstitute h pair leg => Sys2Proof.Machine.execLegSubstitute h pair leg s
  | .identity h => Sys2Proof.Machine.execIdentity h s
  | .ringStatus h => Sys2Proof.Machine.execRingStatus h s
  | .consistView h mask => Sys2Proof.Machine.execConsistView h mask s
  | .schedLoad h channel schedule => Sys2Proof.Machine.execSchedLoad h channel schedule s
  | .scheduleSwap ch => Sys2Proof.Machine.execScheduleSwap ch s
  | .canStatus h mask => Sys2Proof.Machine.execCanStatus h mask s
  | .appLoad h offset flags block => Sys2Proof.Machine.execAppLoad h offset flags block s
  | .appControlStop h => Sys2Proof.Machine.execAppControlStop h s
  | .appControlStart h => Sys2Proof.Machine.execAppControlStart h s
  | .appControlRestart h => Sys2Proof.Machine.execAppControlRestart h s
  | .openPushbutton d outside active => Sys2Proof.Machine.execOpenPushbutton d outside active s
  | .closePushbutton d active => Sys2Proof.Machine.execClosePushbutton d active s
  | .tlCloseChange active => Sys2Proof.Machine.execTlCloseChange active s
  | .trainlineInputChange x active => Sys2Proof.Machine.execTrainlineInputChange x active s
  | .relSettleExpiry side => Sys2Proof.Machine.execRelSettleExpiry side s
  | .cabInputChange second active => Sys2Proof.Machine.execCabInputChange second active s
  | .disMake d => Sys2Proof.Machine.execDisMake d s
  | .disBreak d => Sys2Proof.Machine.execDisBreak d s
  | .egressActive d which => Sys2Proof.Machine.execEgressActive d which s
  | .egressInactive d => Sys2Proof.Machine.execEgressInactive d s
  | .uncommandedUnlock d sw => Sys2Proof.Machine.execUncommandedUnlock d sw s
  | .plausibilityTimeout d p => Sys2Proof.Machine.execPlausibilityTimeout d p s
  | .dcsPositionImplausible d => Sys2Proof.Machine.execDcsPositionImplausible d s
  | .inputGroupFault g => Sys2Proof.Machine.execInputGroupFault g s
  | .inputGroupFaultClear g => Sys2Proof.Machine.execInputGroupFaultClear g s
  | .faultInputCauseGone d => Sys2Proof.Machine.execFaultInputCauseGone d s
  | .unlockTimeoutExpiry d => Sys2Proof.Machine.execUnlockTimeoutExpiry d s
  | .dlsBreakUnlocking d => Sys2Proof.Machine.execDlsBreakUnlocking d s
  | .dcsBreakOpening d => Sys2Proof.Machine.execDcsBreakOpening d s
  | .unlockCommandedGraceEnd d => Sys2Proof.Machine.execUnlockCommandedGraceEnd d s
  | .preCloseWarnExpiry d => Sys2Proof.Machine.execPreCloseWarnExpiry d s
  | .dwellExpiry d => Sys2Proof.Machine.execDwellExpiry d s
  | .dcsMadeClosedWindow d => Sys2Proof.Machine.execDcsMadeClosedWindow d s
  | .dlsConfirmed d => Sys2Proof.Machine.execDlsConfirmed d s
  | .lockAttemptExpiry d => Sys2Proof.Machine.execLockAttemptExpiry d s
  | .dlsMadeClosedUnlocked d => Sys2Proof.Machine.execDlsMadeClosedUnlocked d s
  | .dcsBreakClosedUnlocked d => Sys2Proof.Machine.execDcsBreakClosedUnlocked d s
  | .reopenDwellExpiry d => Sys2Proof.Machine.execReopenDwellExpiry d s
  | .pathComplete r => Sys2Proof.Machine.execPathComplete r s
  | .adaptWindowEnd d closing => Sys2Proof.Machine.execAdaptWindowEnd d closing s
  | .adaptMramWrite d => Sys2Proof.Machine.execAdaptMramWrite d s
  | .segmentEndEvent r => Sys2Proof.Machine.execSegmentEndEvent r s
  | .stopComplete r => Sys2Proof.Machine.execStopComplete r s
  | .driveInterruption r x => Sys2Proof.Machine.execDriveInterruption r x s
  | .interruptionEnd r x => Sys2Proof.Machine.execInterruptionEnd r x s
  | .compareFire r => Sys2Proof.Machine.execCompareFire r s
  | .compareRearm r => Sys2Proof.Machine.execCompareRearm r s
  | .encoderSourceCount e up => Sys2Proof.Machine.execEncoderSourceCount e up s
  | .hallChange d code since => Sys2Proof.Machine.execHallChange d code since s
  | .hallDropout d consistent after => Sys2Proof.Machine.execHallDropout d consistent after s
  | .hallLostTimeout d => Sys2Proof.Machine.execHallLostTimeout d s
  | .hallSupplyFault d => Sys2Proof.Machine.execHallSupplyFault d s
  | .driveHardwareTrip r trip leg peak => Sys2Proof.Machine.execDriveHardwareTrip r trip leg peak s
  | .dcLinkOutOfRange high => Sys2Proof.Machine.execDcLinkOutOfRange high s
  | .directionFault d => Sys2Proof.Machine.execDirectionFault d s
  | .followingError d => Sys2Proof.Machine.execFollowingError d s
  | .thermalHold r temp => Sys2Proof.Machine.execThermalHold r temp s
  | .thermalHoldClear r temp => Sys2Proof.Machine.execThermalHoldClear r temp s
  | .dcsEdgeConfirmed d make => Sys2Proof.Machine.execDcsEdgeConfirmed d make s
  | .sealStall d => Sys2Proof.Machine.execSealStall d s
  | .sealSeekOvertravel d => Sys2Proof.Machine.execSealSeekOvertravel d s
  | .stepTimerExpiry d => Sys2Proof.Machine.execStepTimerExpiry d s
  | .stallConfirmed d onset => Sys2Proof.Machine.execStallConfirmed d onset s
  | .homingOvertravel d => Sys2Proof.Machine.execHomingOvertravel d s
  | .parkComplete d => Sys2Proof.Machine.execParkComplete d s
  | .deployComplete d => Sys2Proof.Machine.execDeployComplete d s
  | .deploySdsTimeout d => Sys2Proof.Machine.execDeploySdsTimeout d s
  | .sdsLost d => Sys2Proof.Machine.execSdsLost d s
  | .stepRetryPauseExpiry d => Sys2Proof.Machine.execStepRetryPauseExpiry d s
  | .seFastOnset d x => Sys2Proof.Machine.execSeFastOnset d x s
  | .rowanTrip d iq acc temp => Sys2Proof.Machine.execRowanTrip d iq acc temp s
  | .finalClosureTrip d m => Sys2Proof.Machine.execFinalClosureTrip d m s
  | .levelRowChange row r present => Sys2Proof.Machine.execLevelRowChange row r present s
  | .reflexTripTaken d => Sys2Proof.Machine.execReflexTripTaken d s
  | .reflexStopEnd d => Sys2Proof.Machine.execReflexStopEnd d s
  | .reflexLatchRelease d => Sys2Proof.Machine.execReflexLatchRelease d s
  | .sePathFault d second => Sys2Proof.Machine.execSePathFault d second s
  | .sePathFaultClear d => Sys2Proof.Machine.execSePathFaultClear d s
  | .envBreakawayExpiry d => Sys2Proof.Machine.execEnvBreakawayExpiry d s
  | .isolationUplinkFrame g group seq crcOk raw flags => Sys2Proof.Machine.execIsolationUplinkFrame g group seq crcOk raw flags s
  | .keeperClosedSettle d => Sys2Proof.Machine.execKeeperClosedSettle d s
  | .inputSample g k vIn vCom => Sys2Proof.Machine.execInputSample g k vIn vCom s
  | .lineBreak g k => Sys2Proof.Machine.execLineBreak g k s
  | .feedOutOfRange g => Sys2Proof.Machine.execFeedOutOfRange g s
  | .commonFaultClear g => Sys2Proof.Machine.execCommonFaultClear g s
  | .frontEndSelftest g pass => Sys2Proof.Machine.execFrontEndSelftest g pass s
  | .groupInvalid g => Sys2Proof.Machine.execGroupInvalid g s
  | .groupValid g => Sys2Proof.Machine.execGroupValid g s
  | .downlinkFrame g group seq crcOk index => Sys2Proof.Machine.execDownlinkFrame g group seq crcOk index s
  | .outputTrip k => Sys2Proof.Machine.execOutputTrip k s
  | .outputRetry k => Sys2Proof.Machine.execOutputRetry k s
  | .loopDisagreeExpiry p => Sys2Proof.Machine.execLoopDisagreeExpiry p s
  | .bypassChange active => Sys2Proof.Machine.execBypassChange active s
  | .lswCommandFrame seq crcOk mode => Sys2Proof.Machine.execLswCommandFrame seq crcOk mode s
  | .inrushWindowEnd n current => Sys2Proof.Machine.execInrushWindowEnd n current s
  | .ocSteady n current => Sys2Proof.Machine.execOcSteady n current s
  | .ocShort n => Sys2Proof.Machine.execOcShort n s
  | .retryBackoffExpiry n => Sys2Proof.Machine.execRetryBackoffExpiry n s
  | .retryRestore n => Sys2Proof.Machine.execRetryRestore n s
  | .thermalLatch n => Sys2Proof.Machine.execThermalLatch n s
  | .railSag d duration => Sys2Proof.Machine.execRailSag d duration s
  | .offStateTest n r => Sys2Proof.Machine.execOffStateTest n r s
  | .openLoadOn n current => Sys2Proof.Machine.execOpenLoadOn n current s
  | .keepWarmRegulation n vOut current => Sys2Proof.Machine.execKeepWarmRegulation n vOut current s
  | .heaterMeasurePulse n vOut current => Sys2Proof.Machine.execHeaterMeasurePulse n vOut current s
  | .flashToggle n => Sys2Proof.Machine.execFlashToggle n s
  | .ringFrameReceived p f => Sys2Proof.Machine.execRingFrameReceived p f s
  | .nodeTimeout addr => Sys2Proof.Machine.execNodeTimeout addr s
  | .portDown p => Sys2Proof.Machine.execPortDown p s
  | .portUp p => Sys2Proof.Machine.execPortUp p s
  | .canFrameReceived ch f => Sys2Proof.Machine.execCanFrameReceived ch f s
  | .canQueueService ch => Sys2Proof.Machine.execCanQueueService ch s
  | .canBusOff ch => Sys2Proof.Machine.execCanBusOff ch s
  | .canBusRecovered ch => Sys2Proof.Machine.execCanBusRecovered ch s
  | .canIntegrationComplete ch => Sys2Proof.Machine.execCanIntegrationComplete ch s
  | .basicCycleStart ch => Sys2Proof.Machine.execBasicCycleStart ch s
  | .slotTxb0Load ch slot => Sys2Proof.Machine.execSlotTxb0Load ch slot s
  | .txLatestStart ch buf => Sys2Proof.Machine.execTxLatestStart ch buf s
  | .canFrameTransmitted ch ready result => Sys2Proof.Machine.execCanFrameTransmitted ch ready result s
  | .schedSyncLost ch => Sys2Proof.Machine.execSchedSyncLost ch s
  | .flushComplete us => Sys2Proof.Machine.execFlushComplete us s
  | .incidentComplete slot => Sys2Proof.Machine.execIncidentComplete slot s
  | .substitutionComplete pair pass => Sys2Proof.Machine.execSubstitutionComplete pair pass s
  | .autoResume d => Sys2Proof.Machine.execAutoResume d s
  | .uplinkFrameMissed g => Sys2Proof.Machine.execUplinkFrameMissed g s
  | .frontEndSupplyFault g present => Sys2Proof.Machine.execFrontEndSupplyFault g present s
  | .maintOpenHoldExpiry d => Sys2Proof.Machine.execMaintOpenHoldExpiry d s
  | .selftestComplete failed legs latency => Sys2Proof.Machine.execSelftestComplete failed legs latency s
  | .supplyFail => Sys2Proof.Machine.execSupplyFail s
  | .supplyReturn => Sys2Proof.Machine.execSupplyReturn s
  | .holdupReserveReached => Sys2Proof.Machine.execHoldupReserveReached s
  | .holdupExhausted => Sys2Proof.Machine.execHoldupExhausted s
  | .stableHoldupTimeout => Sys2Proof.Machine.execStableHoldupTimeout s
  | .cartridgeRemoved => Sys2Proof.Machine.execCartridgeRemoved s
  | .cartridgeCharged => Sys2Proof.Machine.execCartridgeCharged s
  | .prechargeComplete => Sys2Proof.Machine.execPrechargeComplete s
  | .powerEntryCommit => Sys2Proof.Machine.execPowerEntryCommit s
  | .wakeFromStable => Sys2Proof.Machine.execWakeFromStable s
  | .serviceLinkEnergy => Sys2Proof.Machine.execServiceLinkEnergy s
  | .wakeAlarm => Sys2Proof.Machine.execWakeAlarm s
  | .supvWatchdogExpiry => Sys2Proof.Machine.execSupvWatchdogExpiry s
  | .lockstepMismatch => Sys2Proof.Machine.execLockstepMismatch s
  | .supvRestart => Sys2Proof.Machine.execSupvRestart s
  | .commsWatchdogExpiry => Sys2Proof.Machine.execCommsWatchdogExpiry s
  | .commsRestart => Sys2Proof.Machine.execCommsRestart s
  | .appWatchdogHalf => Sys2Proof.Machine.execAppWatchdogHalf s
  | .appWatchdogExpiry => Sys2Proof.Machine.execAppWatchdogExpiry s
  | .appException => Sys2Proof.Machine.execAppException s
  | .appAutorestart => Sys2Proof.Machine.execAppAutorestart s
  | .tmrNowLoRead => Sys2Proof.Machine.execTmrNowLoRead s
  | .mbxSlotTaken => Sys2Proof.Machine.execMbxSlotTaken s
  | .mbxInboundFill => Sys2Proof.Machine.execMbxInboundFill s
  | .safePointFound => Sys2Proof.Machine.execSafePointFound s
  | .safePointTimeout => Sys2Proof.Machine.execSafePointTimeout s
  | .eraseClearComplete => Sys2Proof.Machine.execEraseClearComplete s
  | .supvUpdate => Sys2Proof.Machine.execSupvUpdate s
  | .commsUpdate => Sys2Proof.Machine.execCommsUpdate s
  | .updateWaitTimeout => Sys2Proof.Machine.execUpdateWaitTimeout s
  | .orientSettleExpiry => Sys2Proof.Machine.execOrientSettleExpiry s
  | .zspdDiscrepExpiry => Sys2Proof.Machine.execZspdDiscrepExpiry s
  | .quinceClockFault => Sys2Proof.Machine.execQuinceClockFault s
  | .downlinkLost => Sys2Proof.Machine.execDownlinkLost s
  | .outputHoldTimeout => Sys2Proof.Machine.execOutputHoldTimeout s
  | .discrepancyClearExpiry => Sys2Proof.Machine.execDiscrepancyClearExpiry s
  | .loopRbTimeExpiry => Sys2Proof.Machine.execLoopRbTimeExpiry s
  | .keeperAloneTimeout => Sys2Proof.Machine.execKeeperAloneTimeout s
  | .lswWatchdogTimeout => Sys2Proof.Machine.execLswWatchdogTimeout s
  | .updateHoldTimeout => Sys2Proof.Machine.execUpdateHoldTimeout s
  | .beaconTransmit => Sys2Proof.Machine.execBeaconTransmit s
  | .timeAgeCount => Sys2Proof.Machine.execTimeAgeCount s
  | .addressConflictClear => Sys2Proof.Machine.execAddressConflictClear s
  | .ethertypeConflictClear => Sys2Proof.Machine.execEthertypeConflictClear s
  | .consistMismatchClear => Sys2Proof.Machine.execConsistMismatchClear s
  | .versionMismatchClear => Sys2Proof.Machine.execVersionMismatchClear s
  | .ringInsertion => Sys2Proof.Machine.execRingInsertion s
  | .ringRemoval => Sys2Proof.Machine.execRingRemoval s
  | .flushStart => Sys2Proof.Machine.execFlushStart s
  | .flushEachRecord => Sys2Proof.Machine.execFlushEachRecord s
  | .mirrorRefresh => Sys2Proof.Machine.execMirrorRefresh s

end Sys2Proof.Machine
end

