-- ==== Sys2Proof/Machine/Period.lean ====
section
/-!
DEFINITION. What the module does in 500 µs with no command waiting: the clocks, the position loops and a state-machine tick of
every fitted doorway, one evaluation of the supervisor pair, and every second period a millisecond of the recorder (note 1).
-/

namespace Sys2Proof.Machine

/-- How far module time moves while 500 µs pass: 1.1 or 0.9 times as far while it is slewed (Table 11.5). -/
def slewed (slew : Int) : Nat := if 0 < slew then 550 else if slew < 0 then 450 else 500

/-- The clocks and the accounts of time. -/
def State.clocks (s : State) : State :=
  { s with
    now := s.now + slewed s.ring.slew
    mono := s.mono + 500
    power := s.power.passes 500
    service := if s.power.running then { s.service with usOperating := s.service.usOperating + 500 } else s.service
    lsw := if s.fieldOn then s.lsw.passes s.cfg 500 else s.lsw
    outs := { s.outs with pulse := s.outs.pulse.map (· - 500) } }

/-- Quince's oscillator runs while the drives are enabled (note 68). -/
def State.quinceRuns (s : State) : State :=
  if s.power.ready then s.quinceStarts else { s with quince := { s.quince with oscillator := false } }

/-- 500 µs of a doorway: its engine's period, or with the engine stopped the samples of the hardware alone (R154). -/
def State.doorPasses (s : State) (d : DoorIx) : State :=
  if s.leafRuns d then s.runDoor d doorIdle
  else if s.cfg.isFitted d && s.power.on (leafDomain d) then (s.changeDoor d doorSamples).fresh
  else s

/-- Both generators, the position loop and a tick of every doorway. -/
def State.doorPeriods (s : State) : State := doorways.foldl State.doorPasses s

/-- A drive is powered: its history is sampled. -/
def State.sampled (s : State) (r : DriveIx) : Bool := s.cfg.driveFitted r && s.power.on (leafDomain (doorOf r))

/-- Every second period ends a millisecond of the recorder, where the RECORD domain is on. -/
def State.millisecond (s : State) : State :=
  let t := { s with half := !s.half }
  if s.half && s.power.on 7 then t.takeLog (s.log.millisecond s.now s.sampled s.sample) else t

/-- One period of 500 µs. -/
def State.period (s : State) : State :=
  (((s.clocks.quinceRuns.doorPeriods.bypassCheck).evaluate.millisecond).entryChecks).fresh

end Sys2Proof.Machine
end

