-- ==== Sys2Proof/WellFormed.lean ====
section
/-!
DEFINITION. Well-formed commands: an operand lies in the range that the row's own packet, frame or occurrence can have. A packet
with any other operand still arrives, and exec answers it as its chapter says; the statements that need the row's
own form ask for a well-formed command.
-/

namespace Sys2Proof

/-- R354, R456: the source is one that the transport can name, and only a ring frame is train-wide. -/
def Hdr.wf (h : Hdr) : Bool :=
  (match h.transport with
    | .ring => decide (1 ≤ h.source) && decide (h.source ≤ 32)
    | .can _ => decide (h.source < 2 ^ 29)
    | .service => decide (h.source < 2 ^ 48)
    | .mailbox => h.source == 0)
  && (!h.trainWide || h.transport == .ring)

/-- R404, R586, R609: a block has 1 to 1,000 bytes. -/
def blockLengthOk (block : List Byte) : Bool := decide (1 ≤ block.length) && decide (block.length ≤ 1000)

/-- R430, Table 11.1: the fields of a ring frame fit their widths, and an Ethernet body has at most 1,500 bytes, 8 of them
the ring header. -/
def RingFrame.wf (f : RingFrame) : Bool :=
  decide (f.etherType < 65536) && decide (f.srcMac < 2 ^ 48) && decide (f.type < 256) && decide (f.source < 256)
    && decide (f.dest < 256) && decide (f.hops < 256) && decide (f.seq < 65536) && decide (f.body.length ≤ 1492)

/-- R468: identifier and data length of a CAN frame. A classical frame carries up to 8 bytes and no FD bits, an FD frame is
never a remote frame and has one of the FD lengths. -/
def CanFrame.wf (f : CanFrame) : Bool :=
  decide (f.id < if f.ext then 2 ^ 29 else 2 ^ 11)
    && (if f.fd then !f.remote && [0, 1, 2, 3, 4, 5, 6, 7, 8, 12, 16, 20, 24, 32, 48, 64].contains f.data.length
        else !f.brs && !f.esi && decide (f.data.length ≤ 8) && (!f.remote || f.data.isEmpty))

/-- Table 4.7, Table 5.5: a following error and a Hall condition belong to door drives, which have even numbers. -/
def Interruption.wf (x : Interruption) (r : DriveIx) : Bool :=
  match x with
  | .following | .hall => r.val % 2 == 0
  | .dcLow | .dcHigh | .temperature | .legSubstitution => true

/-- R599: a door drive has three half-bridge legs, a step drive four. -/
def legCount (r : DriveIx) : Nat := if r.val % 2 = 0 then 3 else 4

/-- R292: another channel feeds the one tested. -/
def OffTest.wf (t : OffTest) (n : ChanIx) : Bool :=
  match t with
  | .fed (some p) => p != n
  | .fed none | .present | .openLoad | .between => true

/-- Table 15.7: the sources that are never asserted. -/
def reservedSource (n : Nat) : Bool :=
  n == 54 || n == 55 || n == 67 || (decide (75 ≤ n) && decide (n ≤ 79)) || (decide (92 ≤ n) && decide (n ≤ 119)) || n == 126

/-- A well-formed command. -/
def Instr.wf : Instr → Bool
  | .cartridgeInserted serial _ _ => serial.length == 12
  | .powerEnterStable h _ => h.wf
  | .powerEnterHibernate h _ => h.wf
  | .stableSample groups => groups.all (fun g => decide ((groups.filter (fun k => k.1 == g.1)).length = 1))
  | .interruptDelivery _ source _ => !reservedSource source.val
  | .registerWrite _ width v => decide (v.toNat < 2 ^ (8 * width.bytes))
  | .serviceDatagramReceived _ bytes => bytes.length ≤ 1472
  | .sessionOpen h _ _ _ => h.wf
  | .sessionClose h => h.wf
  | .sessionState h => h.wf
  | .sessionAuth h mac => h.wf && mac.length == 16
  | .resultFetch h _ => h.wf
  | .abort h _ => h.wf
  | .eventReplay h _ _ => h.wf
  | .commandClaim h _ => h.wf
  | .commandYield h _ => h.wf
  | .cfgLoadBlock h _ _ block => h.wf && blockLengthOk block
  | .cfgCommit h _ _ => h.wf
  | .cfgCommitCheckOnly h _ _ => h.wf
  | .cfgRead h _ _ _ => h.wf
  | .objRead h _ _ => h.wf
  | .objWrite h _ _ value => h.wf && decide (value.length ≤ 1000)
  | .discrepancyReset h _ => h.wf
  | .roleSelect h _ _ => h.wf
  | .sessionKey h _ key => h.wf && key.length == 32
  | .canRestart h _ _ => h.wf
  | .doorCommandOpen h _ => h.wf
  | .doorCommandClose h _ => h.wf
  | .doorCommandStop h _ => h.wf
  | .doorCommandResume h _ => h.wf
  | .doorCommandReset h _ => h.wf
  | .doorStatus h _ _ => h.wf
  | .doorIsolateSet h _ => h.wf
  | .doorIsolateClear h _ => h.wf
  | .doorTestCycle h _ _ => h.wf
  | .envelopeLearn h _ => h.wf
  | .moveTo h _ _ _ _ => h.wf
  | .moveStop h _ _ => h.wf
  | .moveResume h _ => h.wf
  | .profileWrite h _ body => h.wf && body.length == 528
  | .compareSet h _ _ _ _ _ _ => h.wf
  | .homeStepHome h _ => h.wf
  | .homeStepMeasure h _ => h.wf
  | .switchSetOff h _ => h.wf
  | .switchSetOn h _ => h.wf
  | .switchSetKeepWarm h _ => h.wf
  | .switchSetReturn h _ => h.wf
  | .switchStatus h _ => h.wf
  | .faultClear h _ => h.wf
  | .ioRead h _ => h.wf
  | .outputSet h _ _ => h.wf
  | .logDrain h _ _ => h.wf
  | .logAck h _ => h.wf
  | .incidentRead h _ _ => h.wf
  | .logStatus h _ => h.wf
  | .incidentErase h _ _ => h.wf
  | .powerStatus h => h.wf
  | .powerAccounts h => h.wf
  | .fwStage h _ _ block => h.wf && blockLengthOk block
  | .fwActivateLive h _ => h.wf
  | .fwActivateRestart h _ => h.wf
  | .selftest h _ _ => h.wf
  | .legSubstitute h _ _ => h.wf
  | .identity h => h.wf
  | .ringStatus h => h.wf
  | .consistView h _ => h.wf
  | .schedLoad h _ schedule => h.wf && schedule.length == 784
  | .canStatus h _ => h.wf
  | .appLoad h _ _ block => h.wf && blockLengthOk block
  | .appControlStop h => h.wf
  | .appControlStart h => h.wf
  | .appControlRestart h => h.wf
  | .driveInterruption r x => x.wf r
  | .interruptionEnd r x => x.wf r
  | .hallDropout _ _ after => decide (after ≤ 1000000)
  | .driveHardwareTrip r _ leg _ => decide (leg.val < legCount r)
  | .levelRowChange row _ _ => 40 ≤ row.val && row.val != 62
  | .offStateTest n r => r.wf n
  | .ringFrameReceived _ f => f.wf
  | .canFrameReceived _ f => f.wf
  | .selftestComplete _ legs _ => legs.Nodup
  | .powerUp _ _ _ | .cartridgeMeasure _ _ | .powerEntryFailed _ | .wakeFromHibernate _ _ | .watcherSource _
    | .canWakePattern _ | .leafWatchdogExpiry _ | .leafEngineRestart _ | .appTimerExpiry _ | .tmrWdKick _
    | .tmrCtrlWrite _ _ | .mbxPost _ | .mbxAck _ | .canTxreqWrite _ | .canTxabortWrite _ | .canRxqPop _
    | .canObjDataWrite _ _ | .intcCompleteWrite _ _ | .intcCtrlWrite _ _ | .outOfRightsAccess _ | .canPartialTimeout _
    | .txQueueSend _ | .sessionSilentTimeout _ | .sessionExpiryTimeout _ | .resultHoldEnd _ | .resultDiscardTimeout _
    | .authLockEnd _ | .leafEngineUpdate _ | .leafEngineUpdateDone _ _ | .supvUpdateDone _ | .commsUpdateDone _
    | .scheduleSwap _ | .openPushbutton _ _ _ | .closePushbutton _ _ | .tlCloseChange _ | .trainlineInputChange _ _
    | .relSettleExpiry _ | .cabInputChange _ _ | .disMake _ | .disBreak _ | .egressActive _ _ | .egressInactive _
    | .uncommandedUnlock _ _ | .plausibilityTimeout _ _ | .dcsPositionImplausible _ | .inputGroupFault _
    | .inputGroupFaultClear _ | .faultInputCauseGone _ | .unlockTimeoutExpiry _ | .dlsBreakUnlocking _
    | .dcsBreakOpening _ | .unlockCommandedGraceEnd _ | .preCloseWarnExpiry _ | .dwellExpiry _
    | .dcsMadeClosedWindow _ | .dlsConfirmed _ | .lockAttemptExpiry _ | .dlsMadeClosedUnlocked _
    | .dcsBreakClosedUnlocked _ | .reopenDwellExpiry _ | .pathComplete _ | .adaptWindowEnd _ _ | .adaptMramWrite _
    | .segmentEndEvent _ | .stopComplete _ | .compareFire _ | .compareRearm _ | .encoderSourceCount _ _
    | .hallChange _ _ _ | .hallLostTimeout _ | .hallSupplyFault _ | .dcLinkOutOfRange _ | .directionFault _
    | .followingError _ | .thermalHold _ _ | .thermalHoldClear _ _ | .dcsEdgeConfirmed _ _ | .sealStall _
    | .sealSeekOvertravel _ | .stepTimerExpiry _ | .stallConfirmed _ _ | .homingOvertravel _ | .parkComplete _
    | .deployComplete _ | .deploySdsTimeout _ | .sdsLost _ | .stepRetryPauseExpiry _ | .seFastOnset _ _
    | .rowanTrip _ _ _ _ | .finalClosureTrip _ _ | .reflexTripTaken _ | .reflexStopEnd _ | .reflexLatchRelease _
    | .sePathFault _ _ | .sePathFaultClear _ | .envBreakawayExpiry _ | .isolationUplinkFrame _ _ _ _ _ _
    | .keeperClosedSettle _ | .inputSample _ _ _ _ | .lineBreak _ _ | .feedOutOfRange _ | .commonFaultClear _
    | .frontEndSelftest _ _ | .groupInvalid _ | .groupValid _ | .downlinkFrame _ _ _ _ _ | .outputTrip _
    | .outputRetry _ | .loopDisagreeExpiry _ | .bypassChange _ | .lswCommandFrame _ _ _ | .inrushWindowEnd _ _
    | .ocSteady _ _ | .ocShort _ | .retryBackoffExpiry _ | .retryRestore _ | .thermalLatch _ | .railSag _ _
    | .openLoadOn _ _ | .keepWarmRegulation _ _ _ | .heaterMeasurePulse _ _ _ | .flashToggle _ | .nodeTimeout _
    | .portDown _ | .portUp _ | .canQueueService _ | .canBusOff _ | .canBusRecovered _ | .canIntegrationComplete _
    | .basicCycleStart _ | .slotTxb0Load _ _ | .txLatestStart _ _ | .canFrameTransmitted _ _ _ | .schedSyncLost _
    | .flushComplete _ | .incidentComplete _ | .substitutionComplete _ _ | .autoResume _ | .uplinkFrameMissed _
    | .frontEndSupplyFault _ _ | .maintOpenHoldExpiry _ | .supplyFail | .supplyReturn | .holdupReserveReached
    | .holdupExhausted | .stableHoldupTimeout | .cartridgeRemoved | .cartridgeCharged | .prechargeComplete
    | .powerEntryCommit | .wakeFromStable | .serviceLinkEnergy | .wakeAlarm | .supvWatchdogExpiry | .lockstepMismatch
    | .supvRestart | .commsWatchdogExpiry | .commsRestart | .appWatchdogHalf | .appWatchdogExpiry | .appException
    | .appAutorestart | .tmrNowLoRead | .mbxSlotTaken | .mbxInboundFill | .safePointFound | .safePointTimeout
    | .eraseClearComplete | .supvUpdate | .commsUpdate | .updateWaitTimeout | .orientSettleExpiry | .zspdDiscrepExpiry
    | .quinceClockFault | .downlinkLost | .outputHoldTimeout | .discrepancyClearExpiry | .loopRbTimeExpiry
    | .keeperAloneTimeout | .lswWatchdogTimeout | .updateHoldTimeout | .beaconTransmit | .timeAgeCount
    | .addressConflictClear | .ethertypeConflictClear | .consistMismatchClear | .versionMismatchClear | .ringInsertion
    | .ringRemoval | .flushStart | .flushEachRecord | .mirrorRefresh => true

end Sys2Proof
end

