-- ==== Sys2Proof/Safety.lean ====
section
/-!
DEFINITION. What counts as a safe run, in the terms that the statements use: the parts of State that a command may change,
and the invariant that every step keeps.
-/

namespace Sys2Proof.Machine

/-! ## The invariant -/

/-- R363, R369, R370: a session keeps at most eight replies and 64 events, and at most 32 packets wait in its transmit queue. -/
def Session.bounded (z : Session) : Prop :=
  z.replies.length ≤ 8 ∧ z.events.length ≤ 64 ∧ z.txQueue.length ≤ 32

/-- R372: at most sixteen operations of a session are outstanding. -/
def Fcp.bounded (f : Fcp) : Prop :=
  (∀ i : SessIx, f.sessions[i].bounded) ∧ ∀ i : SessIx, (f.outstanding i).length ≤ 16

/-- The application engine's memory has its canonical form (Table 15.3). -/
def Engines.memOk (g : Engines) : Prop := g.app.mem.wf = true

/-- What every step keeps. -/
structure State.Inv (s : State) : Prop where
  fcp : s.fcp.bounded
  mem : s.engines.memOk

/-! ## Frames -/

/-- The parts of State. -/
inductive Part where
  | pending | free | now | mono | half | doors | encoders | quince | train | loop | lsw | outs | fcp | log | ring | can
  | power | engines | service | config
  deriving DecidableEq, Repr

/-- Two states have the same part. -/
def Part.same (p : Part) (s t : State) : Prop :=
  match p with
  | .pending => t.pending = s.pending
  | .free => t.free = s.free
  | .now => t.now = s.now
  | .mono => t.mono = s.mono
  | .half => t.half = s.half
  | .doors => t.doors = s.doors
  | .encoders => t.encoders = s.encoders
  | .quince => t.quince = s.quince
  | .train => t.train = s.train
  | .loop => t.loop = s.loop
  | .lsw => t.lsw = s.lsw
  | .outs => t.outs = s.outs
  | .fcp => t.fcp = s.fcp
  | .log => t.log = s.log
  | .ring => t.ring = s.ring
  | .can => t.can = s.can
  | .power => t.power = s.power
  | .engines => t.engines = s.engines
  | .service => t.service = s.service
  | .config => t.config = s.config

/-- From s to t nothing but the named parts changes. -/
def OnlyChanges (ps : List Part) (s t : State) : Prop := ∀ p : Part, p ∉ ps → p.same s t

/-- The parts of State that a command may change. The queue of commands is among the parts of none. -/
def touches (c : Instr) : List Part :=
  match c with
  | .encoderSourceCount .. => [.encoders]
  | .canPartialTimeout .. | .sessionSilentTimeout .. | .resultHoldEnd .. | .resultDiscardTimeout .. | .authLockEnd .. =>
      [.fcp]
  | .flushStart | .flushEachRecord => [.log]
  | .beaconTransmit | .ringRemoval => [.ring]
  | .slotTxb0Load .. | .txLatestStart .. => [.can]
  | .watcherSource .. | .canWakePattern .. | .cartridgeCharged | .serviceLinkEnergy | .wakeAlarm => [.power]
  | .appTimerExpiry .. | .tmrCtrlWrite .. | .mbxPost .. | .mbxAck .. | .intcCtrlWrite .. | .outOfRightsAccess ..
  | .appWatchdogHalf | .tmrNowLoRead | .mirrorRefresh => [.engines]
  | .interruptDelivery .. => [.free, .engines]
  | .inputSample .. | .lineBreak .. | .feedOutOfRange .. | .commonFaultClear .. | .frontEndSelftest ..
  | .frontEndSupplyFault .. => [.doors, .train]
  | .eraseClearComplete => [.fcp, .log]
  | .nodeTimeout .. | .portDown .. | .portUp .. | .timeAgeCount | .addressConflictClear | .ethertypeConflictClear
  | .consistMismatchClear | .versionMismatchClear | .ringInsertion => [.fcp, .ring]
  | .scheduleSwap .. | .canQueueService .. | .canBusOff .. | .canBusRecovered .. | .canIntegrationComplete ..
  | .basicCycleStart .. | .canFrameTransmitted .. | .schedSyncLost .. => [.fcp, .can]
  | .powerEntryFailed .. => [.fcp, .power]
  | .commsRestart | .appAutorestart | .mbxInboundFill => [.fcp, .engines]
  | .updateWaitTimeout => [.fcp, .service]
  | .safePointTimeout => [.fcp, .config]
  | .canTxreqWrite .. | .canTxabortWrite .. | .canRxqPop .. | .canObjDataWrite .. => [.can, .engines]
  | .incidentComplete .. => [.free, .fcp, .log]
  | .sessionOpen .. | .sessionState .. | .sessionAuth .. | .resultFetch .. | .eventReplay .. | .commandClaim ..
  | .commandYield .. | .cfgRead .. | .objRead .. | .doorStatus .. | .switchStatus .. | .ioRead .. | .logDrain ..
  | .incidentRead .. | .powerStatus .. | .powerAccounts .. | .identity .. | .ringStatus .. | .consistView ..
  | .canStatus .. => [.free, .fcp, .ring]
  | .supplyReturn => [.free, .fcp, .power]
  | .keeperClosedSettle .. | .keeperAloneTimeout => [.loop, .outs, .fcp]
  | .flushComplete .. => [.fcp, .log, .power]
  | .txQueueSend .. => [.fcp, .ring, .can]
  | .commsUpdateDone .. | .commsUpdate => [.fcp, .engines, .service]
  | .sessionExpiryTimeout .. => [.fcp, .service, .config]
  | .compareSet .. => [.free, .doors, .fcp, .ring]
  | .outputTrip .. | .outputRetry .. | .outputHoldTimeout => [.free, .loop, .outs, .fcp]
  | .switchSetOff .. | .switchSetOn .. | .switchSetKeepWarm .. | .switchSetReturn .. | .faultClear .. =>
      [.free, .lsw, .fcp, .ring]
  | .logAck .. | .logStatus .. | .incidentErase .. => [.free, .fcp, .log, .ring]
  | .schedLoad .. => [.free, .fcp, .ring, .can]
  | .appLoad .. => [.free, .fcp, .ring, .engines]
  | .fwStage .. | .fwActivateLive .. | .fwActivateRestart .. => [.free, .fcp, .ring, .service]
  | .cfgLoadBlock .. | .cfgCommit .. | .cfgCommitCheckOnly .. => [.free, .fcp, .ring, .config]
  | .downlinkFrame .. => [.doors, .train, .outs, .fcp]
  | .compareFire .. | .compareRearm .. => [.doors, .loop, .outs, .fcp]
  | .cartridgeInserted .. | .cartridgeMeasure .. => [.loop, .outs, .fcp, .power]
  | .sePathFault .. | .sePathFaultClear .. => [.free, .doors, .fcp, .log]
  | .seFastOnset .. | .rowanTrip .. | .finalClosureTrip .. => [.free, .doors, .quince, .fcp, .log]
  | .profileWrite .. => [.free, .doors, .fcp, .ring, .config]
  | .lswCommandFrame .. | .inrushWindowEnd .. | .ocSteady .. | .ocShort .. | .retryBackoffExpiry ..
  | .retryRestore .. | .thermalLatch .. | .railSag .. | .offStateTest .. | .openLoadOn .. | .keepWarmRegulation ..
  | .heaterMeasurePulse .. | .flashToggle .. | .lswWatchdogTimeout | .updateHoldTimeout =>
      [.free, .loop, .lsw, .outs, .fcp]
  | .outputSet .. => [.free, .loop, .outs, .fcp, .ring]
  | .sessionClose .. => [.free, .fcp, .ring, .service, .config]
  | .uplinkFrameMissed .. => [.doors, .train, .loop, .outs, .fcp]
  | .appWatchdogExpiry | .appException => [.fcp, .can, .engines, .service, .config]
  | .downlinkLost => [.free, .doors, .train, .loop, .outs, .fcp]
  | .appControlStop .. | .appControlStart .. | .appControlRestart .. =>
      [.free, .fcp, .ring, .can, .engines, .service, .config]
  | .levelRowChange .. => [.doors, .quince, .train, .loop, .outs, .fcp, .log]
  | .openPushbutton .. | .closePushbutton .. | .relSettleExpiry .. | .disMake .. | .disBreak .. | .egressActive ..
  | .egressInactive .. | .uncommandedUnlock .. | .plausibilityTimeout .. | .dcsPositionImplausible ..
  | .faultInputCauseGone .. | .unlockTimeoutExpiry .. | .dlsBreakUnlocking .. | .dcsBreakOpening ..
  | .unlockCommandedGraceEnd .. | .preCloseWarnExpiry .. | .dwellExpiry .. | .dcsMadeClosedWindow ..
  | .dlsConfirmed .. | .lockAttemptExpiry .. | .dlsMadeClosedUnlocked .. | .dcsBreakClosedUnlocked ..
  | .reopenDwellExpiry .. | .adaptWindowEnd .. | .adaptMramWrite .. | .segmentEndEvent .. | .stopComplete ..
  | .driveInterruption .. | .interruptionEnd .. | .hallChange .. | .hallDropout .. | .hallLostTimeout ..
  | .hallSupplyFault .. | .driveHardwareTrip .. | .directionFault .. | .followingError .. | .thermalHold ..
  | .thermalHoldClear .. | .dcsEdgeConfirmed .. | .sealStall .. | .sealSeekOvertravel .. | .stepTimerExpiry ..
  | .stallConfirmed .. | .homingOvertravel .. | .deployComplete .. | .deploySdsTimeout .. | .sdsLost ..
  | .stepRetryPauseExpiry .. | .reflexTripTaken .. | .reflexStopEnd .. | .reflexLatchRelease ..
  | .envBreakawayExpiry .. | .loopDisagreeExpiry .. | .substitutionComplete ..
  | .autoResume .. | .maintOpenHoldExpiry .. | .orientSettleExpiry | .zspdDiscrepExpiry | .quinceClockFault
  | .discrepancyClearExpiry | .loopRbTimeExpiry => [.free, .doors, .quince, .loop, .outs, .fcp, .log, .service]
  | .tlCloseChange .. | .trainlineInputChange .. | .cabInputChange .. | .inputGroupFault ..
  | .inputGroupFaultClear .. | .isolationUplinkFrame .. | .groupValid .. | .bypassChange .. =>
      [.free, .doors, .quince, .train, .loop, .outs, .fcp, .log, .service]
  | .doorCommandOpen .. | .doorCommandClose .. | .doorCommandStop .. | .doorCommandResume .. | .doorCommandReset ..
  | .doorIsolateSet .. | .doorIsolateClear .. | .doorTestCycle .. | .envelopeLearn .. | .moveTo .. | .moveStop ..
  | .moveResume .. | .homeStepHome .. | .homeStepMeasure .. | .selftest .. | .legSubstitute .. =>
      [.free, .doors, .quince, .loop, .outs, .fcp, .log, .ring, .service]
  | .pathComplete .. | .dcLinkOutOfRange .. | .parkComplete .. | .selftestComplete .. | .prechargeComplete =>
      [.free, .doors, .quince, .loop, .outs, .fcp, .log, .power, .service]
  | .leafWatchdogExpiry .. | .leafEngineRestart .. | .leafEngineUpdate .. | .leafEngineUpdateDone ..
  | .supvWatchdogExpiry | .lockstepMismatch | .supvRestart =>
      [.free, .doors, .quince, .loop, .outs, .fcp, .log, .engines, .service]
  | .stableSample .. | .groupInvalid .. => [.free, .doors, .quince, .train, .loop, .outs, .fcp, .log, .power, .service]
  | .supvUpdateDone .. => [.free, .doors, .quince, .train, .loop, .outs, .fcp, .log, .engines, .service]
  | .powerEnterStable .. | .powerEnterHibernate .. =>
      [.free, .doors, .quince, .loop, .outs, .fcp, .log, .ring, .power, .service]
  | .supvUpdate => [.free, .doors, .quince, .train, .loop, .lsw, .outs, .fcp, .log, .engines, .service]
  | .abort .. => [.free, .doors, .quince, .loop, .outs, .fcp, .log, .ring, .power, .service, .config]
  | .commsWatchdogExpiry => [.free, .doors, .quince, .loop, .outs, .fcp, .log, .power, .engines, .service, .config]
  | .wakeFromHibernate .. | .tmrWdKick .. | .intcCompleteWrite .. | .registerWrite .. =>
      [.free, .doors, .quince, .loop, .outs, .fcp, .log, .can, .power, .engines, .service, .config]
  | .wakeFromStable =>
      [.free, .doors, .quince, .train, .loop, .outs, .fcp, .log, .can, .power, .engines, .service, .config]
  | .objWrite .. | .discrepancyReset .. | .roleSelect .. | .sessionKey .. | .canRestart .. =>
      [.free, .doors, .quince, .train, .loop, .lsw, .outs, .fcp, .log, .ring, .can, .power, .service, .config]
  | .serviceDatagramReceived .. | .canFrameReceived .. | .mbxSlotTaken =>
      [.free, .doors, .quince, .train, .loop, .lsw, .outs, .fcp, .log, .ring, .can, .power, .engines, .service, .config]
  | .ringFrameReceived .. =>
      [.free, .now, .doors, .quince, .train, .loop, .lsw, .outs, .fcp, .log, .ring, .can, .power, .engines, .service, .config]
  | .holdupExhausted | .stableHoldupTimeout | .cartridgeRemoved | .powerEntryCommit =>
      [.half, .doors, .encoders, .quince, .train, .loop, .lsw, .outs, .fcp, .log, .ring, .can, .power, .engines, .service, .config]
  | .supplyFail | .holdupReserveReached | .safePointFound =>
      [.free, .half, .doors, .encoders, .quince, .train, .loop, .lsw, .outs, .fcp, .log, .ring, .can, .power, .engines, .service, .config]
  | .powerUp .. =>
      [.free, .now, .half, .doors, .encoders, .quince, .train, .loop, .lsw, .outs, .fcp, .log, .ring, .can, .power, .engines, .service, .config]

/-! ## Doorways -/

/-- The generator of a drive. -/
def State.gen (s : State) (r : DriveIx) : Gen := if isStep r then s.doors[doorOf r].step.gen else s.doors[doorOf r].door.gen

/-- A door drive apart from what Quince's latch touches: the latch itself, and that the drive is braked and tracks (R257, R258). -/
def DoorDrive.bare (q : DoorDrive) : DoorDrive :=
  { q with latch := ⟨.none, none, []⟩, gen := { q.gen with braked := false, flags := { q.gen.flags with tracking := false } } }

/-- A step drive apart from the same and from what the loss of its position touches (R208). -/
def StepDrive.bare (q : StepDrive) : StepDrive :=
  { q with latch := ⟨.none, none, []⟩, flags := { q.flags with lost := false }
           gen := { q.gen with kept := none, remaining := 0, braked := false, flags := { q.gen.flags with tracking := false } } }

/-- A cycle in progress apart from its mark of an incident (Table 13.3). -/
def Cycle.bare (c : Cycle) : Cycle := { c with flags := { c.flags with incident := false } }

/-- Two doorways that differ at most in reflex latches, the step position lost by one, and the cycle's mark of an incident. -/
structure Doorway.alike (a b : Doorway) : Prop where
  sm   : b.sm = a.sm
  inp  : b.inp = a.inp
  obst : b.obst = a.obst
  door : b.door.bare = a.door.bare
  step : b.step.bare = a.step.bare
  cycle : b.cycle.map Cycle.bare = a.cycle.map Cycle.bare

/-- No edge of a pushbutton or of an automatic opening waits (R24). -/
def noEdges : Edges := { openIn := false, openOut := false, cpb := false, auto := false }

/-- At a tick nothing of ranks 1 to 7 acts on the doorway (Table 1.5): the tick takes the trigger it is
given, and then the level rows of Table 1.6 and the edges that wait. -/
structure Doorway.Calm (e : DoorEnv) (w : Doorway) : Prop where
  fitted       : e.cfg.isFitted e.d = true
  settled      : w.sm.flags.hasSettled = true
  running      : w.sm.flags.halted = false
  valid        : w.inp.flags.valid = true
  dis          : w.dis = false
  eehIn        : w.eehIn = false
  eeaOut       : w.eeaOut = false
  own          : w.sm.state ≠ .egress ∧ w.sm.state ≠ .isolated ∧ w.sm.state ≠ .fault ∧ w.sm.state ≠ .maint
  sound        : rankFour w = none
  plausible    : w.sm.flags.plausibility = false
  notEntering  : e.entering = false
  noTrip       : w.obst.pending = none
  noClass      : e.tlPresent = false
  notRelaxing  : w.door.push ≠ .relaxing
  notDeploying : w.step.job ≠ .deploying
  notStanding  : w.step.flags.standing = false

/-- Courses on which no level row acts (Table 1.6). -/
def quiet (st : DoorState) (ph : Phase) : Bool :=
  match st, ph with
  | .closing, .warn => true
  | .released, _ | .opened, _ | .reopening, _ | .obstructed, _ | .stopped, _ | .egress, _ | .isolated, _ | .fault, _ => true
  | _, _ => false

/-- Calm but for what the step drive does. -/
def Doorway.Still (e : DoorEnv) (w : Doorway) : Prop :=
  ({ w with step := { w.step with job := .none } } : Doorway).Calm e

/-- A leaf engine that runs the doorway's rows: fitted, settled, not halted, its group valid. -/
structure Doorway.Awake (e : DoorEnv) (w : Doorway) : Prop where
  fitted  : e.cfg.isFitted e.d = true
  settled : w.sm.flags.hasSettled = true
  running : w.sm.flags.halted = false
  valid   : w.inp.flags.valid = true

/-- The engine runs the doorway, nothing of ranks 1 to 3 holds, and no entry to a power mode runs. -/
structure Doorway.Ready (e : DoorEnv) (w : Doorway) : Prop where
  awake    : w.Awake e
  dis      : w.dis = false
  eeh      : w.eehIn = false
  eea      : w.eeaOut = false
  entering : e.entering = false

/-- The state that settling brings, where no trainline close is present. -/
def settled (e : DoorEnv) (w : Doorway) : DoorState :=
  if pcl e w && stepRetracted e w then .released else if w.dcs && inClosedWindow e w then .closedUnlocked else .stopped

/-- The doorway at which an occurrence acts; none where it acts on more than one doorway's engine. -/
def ownDoorway : Instr → Option DoorIx
  | .openPushbutton d _ _ => some d
  | .closePushbutton d _ => some d
  | .disMake d => some d
  | .disBreak d => some d
  | .egressActive d _ => some d
  | .egressInactive d => some d
  | .uncommandedUnlock d _ => some d
  | .plausibilityTimeout d _ => some d
  | .dcsPositionImplausible d => some d
  | .faultInputCauseGone d => some d
  | .unlockTimeoutExpiry d => some d
  | .dlsBreakUnlocking d => some d
  | .dcsBreakOpening d => some d
  | .unlockCommandedGraceEnd d => some d
  | .preCloseWarnExpiry d => some d
  | .dwellExpiry d => some d
  | .dcsMadeClosedWindow d => some d
  | .dlsConfirmed d => some d
  | .lockAttemptExpiry d => some d
  | .dlsMadeClosedUnlocked d => some d
  | .dcsBreakClosedUnlocked d => some d
  | .reopenDwellExpiry d => some d
  | .adaptWindowEnd d _ => some d
  | .adaptMramWrite d => some d
  | .segmentEndEvent r => some (doorOf r)
  | .hallChange d _ _ => some d
  | .hallDropout d _ _ => some d
  | .hallLostTimeout d => some d
  | .hallSupplyFault d => some d
  | .directionFault d => some d
  | .followingError d => some d
  | .thermalHold r _ => some (doorOf r)
  | .thermalHoldClear r _ => some (doorOf r)
  | .dcsEdgeConfirmed d _ => some d
  | .sealStall d => some d
  | .sealSeekOvertravel d => some d
  | .stepTimerExpiry d => some d
  | .stallConfirmed d _ => some d
  | .homingOvertravel d => some d
  | .deployComplete d => some d
  | .deploySdsTimeout d => some d
  | .sdsLost d => some d
  | .stepRetryPauseExpiry d => some d
  | .reflexTripTaken d => some d
  | .sePathFault d _ => some d
  | .sePathFaultClear d => some d
  | .envBreakawayExpiry d => some d
  | .maintOpenHoldExpiry d => some d
  | _ => none

/-! ## Load channels -/

/-- A leader goes off as an overcurrent of a cause: it waits for a retry, or locks out with none left (R284). -/
structure Channel.Tripped (q q' : Channel) (cause : Nat) : Prop where
  off     : q'.on = false ∧ q'.inrush = false
  flagged : q'.overcurrent = true ∧ q'.ocCause = cause
  counted : q'.counters.ocTrips = satInc 16 q.counters.ocTrips
  waits   : q.retriesLeft ≠ 0 → q'.retryWait = true ∧ q'.lockout = q.lockout
  locks   : q.retriesLeft = 0 → q'.lockout = true
  left    : q'.retriesLeft = q.retriesLeft

/-! ## Commands of the protocol (Table 9.6) -/

/-- A session after steps 3 to 6: heard, its DACK taken and its HSEQ consumed (R361, R366, R376). -/
def Session.admitted (z : Session) (h : Hdr) (now : Nat) : Session :=
  let z := ({ z with lastValid := now, peer := replyTo h } : Session).takeDack h.dack.toNat
  { z with expected := seqNext z.expected }

/-- The module after steps 3 to 6 of a packet of a session. -/
def State.admitted (s : State) (h : Hdr) (i : SessIx) : State := s.onSession i (fun z => z.admitted h s.now)

/-- A packet passes steps 3 to 11 of Table 9.6: its session is bound and OPEN, it is the one expected, its opcode is listed with
right parameters, and authentication, rights, domains and consist agreement let it pass. -/
structure State.Admits (s : State) (h : Hdr) (i : SessIx) (q : Req) : Prop where
  bound   : s.bound h = some i
  opened  : s.fcp.sessions[i].state = .opened
  hears   : s.hears h q = true
  format  : h.format = 2
  ordered : h.hseq.toNat = s.fcp.sessions[i].expected
  listed  : q.listed = true
  valid   : q.valid = true
  keyed   : q.opcode / 256 = 1 ∨ i.val ≠ 4 ∨ s.service.keyUnset = false ∨ q.keyless = true
  authed  : q.opcode / 256 = 1 ∨ s.needsAuth i = false ∨ s.fcp.sessions[i].authenticated = true
  granted : s.granted i q.opcode = true
  rights  : q.rights (s.admitted h i) i = true
  ready   : q.ready (s.admitted h i) = true
  agreed  : s.trainWideRefusal h q = none

/-- A doorway-bound command reaches a doorway whose engine runs, from the session that commands it (R387, R394). -/
structure State.Reaches (s : State) (h : Hdr) (i : SessIx) (q : Req) (d : DoorIx) : Prop extends s.Admits h i q where
  noTakeover : h.takeover = false
  commands   : s.fcp.commander[d] = some i
  fits       : s.cfg.isFitted d = true
  runs       : s.leafRuns d = true

/-- The stored reply of a packet that an answer with a DSEQ answers (R363). -/
def StoredReply.of (h : Hdr) (q : Req) (a : Answer) (n : Nat) : StoredReply :=
  { hseq := h.hseq.toNat, opcode := q.opcode, params := q.params, status := a.status, reason := a.reason, handle := a.handle, dseq := n
    payload := a.payload }

/-- R363: the reply to a packet is the session's last stored one. -/
def State.Answered (t : State) (i : SessIx) (h : Hdr) (q : Req) (a : Answer) : Prop :=
  ∃ n rest, t.fcp.sessions[i].replies = StoredReply.of h q a n :: rest

/-- R307, R310: the answer of a command over the channels of a mask, `r` telling why each is refused: DONE with the channels accepted
and refused, or REFUSED with the reason of the lowest where every one addressed refuses. -/
def State.ChannelsAnswered (t : State) (i : SessIx) (h : Hdr) (q : Req) (mask : Nat) (r : ChanIx → Option Nat) : Prop :=
  ((∃ n : ChanIx, bitOf mask n.val = true ∧ r n = none) ∨ (∀ n : ChanIx, bitOf mask n.val = false) →
    t.Answered i h q (Answer.done (le 8 (bitWord ((List.finRange 48).map (fun n : ChanIx => bitOf mask n.val && (r n).isNone)))
      ++ le 8 (bitWord ((List.finRange 48).map (fun n : ChanIx => bitOf mask n.val && (r n).isSome)))))) ∧
  (∀ n : ChanIx, bitOf mask n.val = true → (∀ m, m < n → bitOf mask m.val = false) → (∀ m : ChanIx, bitOf mask m.val = true → r m ≠ none) →
    ∃ x, r n = some x ∧ t.Answered i h q (Answer.refused x))

/-- From s to t the protocol's own records and the free value pass on, and nothing else: no other part of State changes, nor a
doorway's commanding session, an operation or a session's state. -/
def State.Unmoved (s t : State) : Prop :=
  t = { s with fcp := t.fcp, free := t.free } ∧ t.fcp.commander = s.fcp.commander ∧ t.fcp.ops = s.fcp.ops
    ∧ ∀ j : SessIx, t.fcp.sessions[j].state = s.fcp.sessions[j].state

/-- Chapter 9: the packet that a command of the host spells; the other commands spell none. -/
def hosted : Instr → Option (Hdr × Req)
  | .powerEnterStable h wakeAt => some (h, Req.powerEnter (enterParams 1 wakeAt.toNat) 1 wakeAt.toNat)
  | .powerEnterHibernate h wakeAt => some (h, Req.powerEnter (enterParams 2 wakeAt.toNat) 2 wakeAt.toNat)
  | .sessionOpen h lastHseq lastDseq cfgId => some (h, Req.sessionOpen (le 2 lastHseq.toNat ++ le 2 lastDseq.toNat ++ le 8 cfgId.toNat) lastHseq.toNat lastDseq.toNat cfgId.toNat)
  | .sessionClose h => some (h, Req.sessionClose [])
  | .sessionState h => some (h, Req.sessionState [])
  | .sessionAuth h mac => some (h, Req.sessionAuth mac mac)
  | .resultFetch h handle => some (h, Req.resultFetch (wordParams handle.toNat) handle.toNat)
  | .abort h handle => some (h, Req.abort (wordParams handle.toNat) handle.toNat)
  | .eventReplay h fromDseq count => some (h, Req.eventReplay (le 2 fromDseq.toNat ++ le 1 count.toNat ++ le 1 0) fromDseq.toNat count.toNat)
  | .commandClaim h mask => some (h, Req.commandClaim (pairParams mask.toNat 0) mask.toNat)
  | .commandYield h mask => some (h, Req.commandYield (pairParams mask.toNat 0) mask.toNat)
  | .cfgLoadBlock h offset flags block => some (h, Req.cfgLoadBlock (blockParams offset.toNat flags.toNat block) offset.toNat flags.toNat block)
  | .cfgCommit h previous cfgId => some (h, Req.cfgCommit (commitParams (bitWord [true, previous]) cfgId.toNat) (bitWord [true, previous]) cfgId.toNat)
  | .cfgCommitCheckOnly h previous cfgId => some (h, Req.cfgCommit (commitParams (bitWord [false, previous]) cfgId.toNat) (bitWord [false, previous]) cfgId.toNat)
  | .cfgRead h bank length offset => some (h, Req.cfgRead (le 1 bank.toNat ++ le 1 0 ++ le 2 length.toNat ++ le 4 offset.toNat) bank.toNat length.toNat offset.toNat)
  | .objRead h index sub => some (h, Req.objRead (le 2 index.toNat ++ le 1 sub.toNat ++ le 1 0) index.toNat sub.toNat)
  | .objWrite h index sub value => some (h, Req.objWrite (objParams index.toNat sub.toNat value) index.toNat sub.toNat value)
  | .discrepancyReset h v => some (h, Req.objWrite (objParams 0x1203 1 [v]) 0x1203 1 [v])
  | .roleSelect h r v => some (h, Req.objWrite (objParams (motionIndex r 0x12) 0x11 (le 2 v.toNat)) (motionIndex r 0x12) 0x11 (le 2 v.toNat))
  | .sessionKey h i key => some (h, Req.objWrite (objParams 0x1050 (i.val + 1) key) 0x1050 (i.val + 1) key)
  | .canRestart h ch v => some (h, Req.objWrite (objParams (0x5100 + ch.val) 0x40 [v]) (0x5100 + ch.val) 0x40 [v])
  | .doorCommandOpen h mask => some (h, Req.doorCommand (doorCommandParams mask.toNat 1) mask.toNat 1)
  | .doorCommandClose h mask => some (h, Req.doorCommand (doorCommandParams mask.toNat 2) mask.toNat 2)
  | .doorCommandStop h mask => some (h, Req.doorCommand (doorCommandParams mask.toNat 3) mask.toNat 3)
  | .doorCommandResume h mask => some (h, Req.doorCommand (doorCommandParams mask.toNat 4) mask.toNat 4)
  | .doorCommandReset h mask => some (h, Req.doorCommand (doorCommandParams mask.toNat 5) mask.toNat 5)
  | .doorStatus h mask detail => some (h, Req.doorStatus (pairParams mask.toNat detail.toNat) mask.toNat detail.toNat)
  | .doorIsolateSet h doorway => some (h, Req.doorIsolate (pairParams doorway.toNat 1) doorway.toNat 1)
  | .doorIsolateClear h doorway => some (h, Req.doorIsolate (pairParams doorway.toNat 0) doorway.toNat 0)
  | .doorTestCycle h doorway cycles => some (h, Req.doorTestCycle (pairParams doorway.toNat cycles.toNat) doorway.toNat cycles.toNat)
  | .envelopeLearn h doorway => some (h, Req.envelopeLearn (pairParams doorway.toNat 0) doorway.toNat)
  | .moveTo h drive mode target speed => some (h, Req.moveTo (moveToParams drive.toNat mode.toNat target.toInt speed.toNat) drive.toNat mode.toNat target.toInt speed.toNat)
  | .moveStop h mask mode => some (h, Req.moveStop (moveStopParams mask.toNat mode.toNat) mask.toNat mode.toNat)
  | .moveResume h mask => some (h, Req.moveResume (wordParams mask.toNat) mask.toNat)
  | .profileWrite h context body => some (h, Req.profileWrite (wordParams context.toNat ++ body) context.toNat body)
  | .compareSet h drive mode direction actions position hyst => some (h, Req.compareSet (compareParams drive.toNat mode.toNat direction.toNat actions.toNat position.toInt hyst.toNat) drive.toNat mode.toNat direction.toNat actions.toNat position.toInt hyst.toNat)
  | .homeStepHome h doorway => some (h, Req.homeStep (pairParams doorway.toNat 0) doorway.toNat 0)
  | .homeStepMeasure h doorway => some (h, Req.homeStep (pairParams doorway.toNat 1) doorway.toNat 1)
  | .switchSetOff h mask => some (h, Req.switchSet (switchParams mask.toNat 0) mask.toNat 0)
  | .switchSetOn h mask => some (h, Req.switchSet (switchParams mask.toNat 1) mask.toNat 1)
  | .switchSetKeepWarm h mask => some (h, Req.switchSet (switchParams mask.toNat 2) mask.toNat 2)
  | .switchSetReturn h mask => some (h, Req.switchSet (switchParams mask.toNat 3) mask.toNat 3)
  | .switchStatus h mask => some (h, Req.switchStatus (le 8 mask.toNat) mask.toNat)
  | .faultClear h mask => some (h, Req.faultClear (le 8 mask.toNat) mask.toNat)
  | .ioRead h mask => some (h, Req.ioRead (wordParams mask.toNat) mask.toNat)
  | .outputSet h mask value => some (h, Req.outputSet (le 2 mask.toNat ++ le 2 value.toNat) mask.toNat value.toNat)
  | .logDrain h fromRseq count => some (h, Req.logDrain (le 4 fromRseq.toNat ++ le 1 count.toNat ++ le 3 0) fromRseq.toNat count.toNat)
  | .logAck h upTo => some (h, Req.logAck (le 4 upTo.toNat) upTo.toNat)
  | .incidentRead h iseq chunk => some (h, Req.incidentRead (le 4 iseq.toNat ++ wordParams chunk.toNat) iseq.toNat chunk.toNat)
  | .logStatus h flags => some (h, Req.logStatus (pairParams flags.toNat 0) flags.toNat)
  | .incidentErase h upTo confirm => some (h, Req.incidentErase (le 4 upTo.toNat ++ le 4 confirm.toNat) upTo.toNat confirm.toNat)
  | .powerStatus h => some (h, Req.powerStatus [])
  | .powerAccounts h => some (h, Req.powerAccounts [])
  | .fwStage h offset flags block => some (h, Req.fwStage (blockParams offset.toNat flags.toNat block) offset.toNat flags.toNat block)
  | .fwActivateLive h flags => some (h, Req.fwActivate (pairParams 0 flags.toNat) 0 flags.toNat)
  | .fwActivateRestart h flags => some (h, Req.fwActivate (pairParams 1 flags.toNat) 1 flags.toNat)
  | .selftest h tests mask => some (h, Req.selftest (le 2 tests.toNat ++ le 1 mask.toNat ++ le 1 0) tests.toNat mask.toNat)
  | .legSubstitute h pair leg => some (h, Req.legSubstitute (pairParams pair.toNat leg.toNat) pair.toNat leg.toNat)
  | .identity h => some (h, Req.identity [])
  | .ringStatus h => some (h, Req.ringStatus [])
  | .consistView h mask => some (h, Req.consistView (le 4 mask.toNat) mask.toNat)
  | .schedLoad h channel schedule => some (h, Req.schedLoad (pairParams channel.toNat 0 ++ schedule) channel.toNat schedule)
  | .canStatus h mask => some (h, Req.canStatus (pairParams mask.toNat 0) mask.toNat)
  | .appLoad h offset flags block => some (h, Req.appLoad (blockParams offset.toNat flags.toNat block) offset.toNat flags.toNat block)
  | .appControlStop h => some (h, Req.appControl (pairParams 0 0) 0)
  | .appControlStart h => some (h, Req.appControl (pairParams 1 0) 1)
  | .appControlRestart h => some (h, Req.appControl (pairParams 2 0) 2)
  | _ => none

/-- Table 9.3: the session byte of a command packet. -/
def sessionByte (h : Hdr) : Nat := h.session.toNat + 16 * h.resume.toNat + 32 * h.takeover.toNat

/-- Table 9.1: a command packet, its CRC-32C at its end (R351). -/
def commandPacket (h : Hdr) (opcode : Nat) (params : List Byte) : List Byte :=
  let b := le 2 0x6A44 ++ le 1 h.format.toNat ++ le 1 (sessionByte h) ++ le 2 opcode ++ le 2 h.hseq.toNat ++ le 2 h.dack.toNat
    ++ le 2 params.length ++ le 4 h.tag.toNat ++ params
  b ++ le 4 (crc32c b)

/-- R370: the packets of a session that wait to be sent, the next one first. -/
def State.waiting (s : State) (i : SessIx) : List Packet := s.fcp.sessions[i].txQueue ++ s.fcp.sessions[i].txWaiting

/-- Only the protocol's own records differ, but for the free value. -/
def State.OnlyFcp (s t : State) : Prop := t = { s with fcp := t.fcp, free := t.free }

end Sys2Proof.Machine
end

