-- ==== Sys2Proof/Certificates/Slice0/Obligations.lean ====
section
/-!
DEFINITION. The statements for the provers, one definition each. Every docstring names the rules of the spec it rests on; a
clause that rests on a choice or a reading of the model says so and names the log entry.
-/

open Sys2Proof Sys2Proof.Machine

/-- At a doorway on which nothing of a higher rank acts: an open pushbutton moves RELEASED to UNLOCKING and a close
pushbutton moves OPEN to CLOSING phase WARN, each with its cause. DIS made moves any other state to ISOLATED with
cause ISOL_SWITCH. An egress input moves a doorway that DIS does not isolate to EGRESS, with cause EGRESS_INSIDE where
EEH_IN is active, whichever came, and ACCESS_OUTSIDE where only EEA_OUT is. That the occurrence sets the filtered
level of its input is the model's choice (log entry 3). Basis: R24, R29, R30, R32, R34, R41, R42, R43. -/
def Obligations.ButtonsIsolationAndEgressActAtOnce : Prop :=
  (∀ (s : State) (d : DoorIx), s.fieldOn = true → s.leafRuns d = true → (s.doors[d]).Calm (s.doorEnv d) →
    (s.doors[d]).sm.edges = noEdges →
    (∀ outside, (s.doors[d]).sm.state = .released → (s.doorEnv d).openAllowed = true →
      (s.doors[d]).input (if outside then 6 else 5) = false →
      ∃ t, exec (.openPushbutton d outside true) s = .next t ∧ (t.doors[d]).sm.state = .unlocking
        ∧ (t.doors[d]).sm.phase = .none ∧ (t.doors[d]).sm.cause = (if outside then .openPbOut else .openPbIn)) ∧
    ((s.doors[d]).sm.state = .opened → s.cfg.preCloseWarn d ≠ 0 → (s.doors[d]).input 7 = false →
      ∃ t, exec (.closePushbutton d true) s = .next t ∧ (t.doors[d]).sm.state = .closing
        ∧ (t.doors[d]).sm.phase = .warn ∧ (t.doors[d]).sm.cause = .closeCpb)) ∧
  (∀ (s : State) (d : DoorIx), s.fieldOn = true → s.leafRuns d = true → (s.doors[d]).Awake (s.doorEnv d) →
    ((s.doors[d]).sm.state ≠ .isolated →
      ∃ t, exec (.disMake d) s = .next t ∧ (t.doors[d]).sm.state = .isolated ∧ (t.doors[d]).sm.phase = .none
        ∧ (t.doors[d]).sm.cause = .isolSwitch) ∧
    ((s.doors[d]).dis = false → (s.doors[d]).sm.state ≠ .egress →
      (∃ t, exec (.egressActive d .inside) s = .next t ∧ (t.doors[d]).sm.state = .egress ∧ (t.doors[d]).sm.phase = .none
        ∧ (t.doors[d]).sm.cause = .egressInside) ∧
      ((s.doors[d]).eehIn = false →
        ∃ t, exec (.egressActive d .outside) s = .next t ∧ (t.doors[d]).sm.state = .egress ∧ (t.doors[d]).sm.phase = .none
          ∧ (t.doors[d]).sm.cause = .accessOutside) ∧
      ((s.doors[d]).eehIn = true →
        ∃ t, exec (.egressActive d .outside) s = .next t ∧ (t.doors[d]).sm.state = .egress ∧ (t.doors[d]).sm.phase = .none
          ∧ (t.doors[d]).sm.cause = .egressInside)))

/-- At a running doorway of no higher rank: a break of DCS or DLS in LOCKED or RELEASED that the module did not command
brings FAULT with FAULT_UNCOMMANDED_UNLOCK; a pair implausible for 200 ms, and DCS made far above its break position,
bring FAULT with FAULT_PLAUSIBILITY from every state but EGRESS, ISOLATED and FAULT. That the command is the
occurrence itself, and not its time, is the model's choice (log entry 2). Basis: R25, R32, R33, R179. -/
def Obligations.RankFourConditionsBringFault : Prop :=
  ∀ (s : State) (d : DoorIx), s.fieldOn = true → s.leafRuns d = true → (s.doors[d]).Awake (s.doorEnv d) →
    (s.doors[d]).dis = false → (s.doors[d]).eehIn = false → (s.doors[d]).eeaOut = false → driveFaultCause s.doors[d] = none →
    (∀ sw, ((s.doors[d]).sm.state = .locked ∨ (s.doors[d]).sm.state = .released) →
      (s.doors[d]).sm.flags.plausibility = false → (s.doors[d]).inp.flags.commonFault = false →
      (s.doors[d]).input (match sw with
        | .dcs => 0
        | .dls => 1) = true →
      (sw = .dls → (s.doors[d]).sm.flags.grace = false) →
      ∃ t, exec (.uncommandedUnlock d sw) s = .next t ∧ (t.doors[d]).sm.state = .fault
        ∧ (t.doors[d]).sm.cause = .faultUncommandedUnlock) ∧
    ((s.doors[d]).sm.state ≠ .egress → (s.doors[d]).sm.state ≠ .isolated → (s.doors[d]).sm.state ≠ .fault →
      (∀ p, ∃ t, exec (.plausibilityTimeout d p) s = .next t ∧ (t.doors[d]).sm.state = .fault
        ∧ (t.doors[d]).sm.cause = .faultPlausibility) ∧
      (dcsImplausible (s.doorEnv d) s.doors[d] = true →
        ∃ t, exec (.dcsPositionImplausible d) s = .next t ∧ (t.doors[d]).sm.state = .fault
          ∧ (t.doors[d]).sm.cause = .faultPlausibility))

/-- When DIS breaks, both egress inputs end, or the input cause of a FAULT goes, with nothing of another rank present and
no trainline close, the doorway enters the state that settling gives, phase 0, cause 0. In MAINT, when the hold of an
open door ends, the maintenance course goes to CLOSING phase WARN and the operation keeps its kind, handle and count.
That the command is the occurrence itself, and not its time, is the model's choice (log entry 2). Basis: R32, R39,
R40, R43, R48, R61. -/
def Obligations.LeavingRanksAndMaintenanceHolds : Prop :=
  (∀ (s : State) (d : DoorIx), s.fieldOn = true → s.leafRuns d = true → (s.doors[d]).Awake (s.doorEnv d) →
    (s.doors[d]).sm.flags.isolatedByCmd = false → (s.doorEnv d).tlPresent = false →
    ((s.doors[d]).step.flags.standing = true → (s.doors[d]).srs = true) →
    ((s.doors[d]).sm.state = .isolated → (s.doors[d]).eehIn = false → (s.doors[d]).eeaOut = false →
      ∃ t, exec (.disBreak d) s = .next t ∧ (t.doors[d]).sm.state = settled (s.doorEnv d) s.doors[d]
        ∧ (t.doors[d]).sm.phase = .none ∧ (t.doors[d]).sm.cause = .settled) ∧
    ((s.doors[d]).sm.state = .egress → (s.doors[d]).dis = false →
      ∃ t, exec (.egressInactive d) s = .next t ∧ (t.doors[d]).sm.state = settled (s.doorEnv d) s.doors[d]
        ∧ (t.doors[d]).sm.phase = .none ∧ (t.doors[d]).sm.cause = .settled) ∧
    ((s.doors[d]).sm.state = .fault →
      ((s.doors[d]).sm.cause = .faultInputGroup ∨ (s.doors[d]).sm.cause = .faultInputInvalid) →
      (s.doors[d]).inp.flags.commonFault = false →
      ∃ t, exec (.faultInputCauseGone d) s = .next t ∧ (t.doors[d]).sm.state = settled (s.doorEnv d) s.doors[d]
        ∧ (t.doors[d]).sm.phase = .none ∧ (t.doors[d]).sm.cause = .settled)) ∧
  (∀ (s : State) (d : DoorIx) (m : Maint), s.cfg.isFitted d = true → s.leafRuns d = true → (s.doors[d]).sm.state = .maint →
    (s.doors[d]).sm.maint = some m → m.shadow = .opened → s.cfg.preCloseWarn d ≠ 0 →
    ∃ t m', exec (.maintOpenHoldExpiry d) s = .next t ∧ (t.doors[d]).sm.state = .maint ∧ (t.doors[d]).sm.maint = some m'
      ∧ m'.shadow = .closing ∧ m'.phase = .warn ∧ m'.op = m.op ∧ m'.handle = m.handle ∧ m'.done = m.done)

/-- At a calm doorway UNLOCKING passes to OPENING when DLS breaks and the step allows it; when UNLOCK_TIMEOUT ends with
DLS still made it goes back to its closed rest state with UNLOCK_FAILED and the cause kept; DCS breaking in OPENING
switches the solenoid off. When the grace of R216 ends the state stays, and a DLS break is then judged as at any other
time. That the command is the occurrence itself, and not its time, is the model's choice (log entry 2). Basis: R34,
R66, R176, R212, R216. -/
def Obligations.UnlockingRowsAndGrace : Prop :=
  (∀ (s : State) (d : DoorIx), s.leafRuns d = true → (s.doors[d]).Calm (s.doorEnv d) → (s.doors[d]).sm.edges = noEdges →
    (s.doors[d]).sm.phase = .none →
    ((s.doors[d]).sm.state = .unlocking → (s.doors[d]).dls = true → s.cfg.openMode d ≠ 1 →
      ∃ t, exec (.unlockTimeoutExpiry d) s = .next t ∧ (t.doors[d]).sm.flags.unlockFailed = true
        ∧ (t.doors[d]).sm.cause = (s.doors[d]).sm.cause
        ∧ (t.doors[d]).sm.state = closedRest (s.doorEnv d) ⟨s.doors[d], []⟩) ∧
    (s.fieldOn = true → (s.doors[d]).sm.state = .unlocking →
      (s.cfg.stepSequence d = 1 ∨ stepDeployed (s.doorEnv d) s.doors[d] = true) →
      ∃ t, exec (.dlsBreakUnlocking d) s = .next t ∧ (t.doors[d]).sm.state = .opening ∧ (t.doors[d]).sm.phase = .none
        ∧ (t.doors[d]).sm.cause = (s.doors[d]).sm.cause) ∧
    (s.fieldOn = true → (s.doors[d]).sm.state = .opening → (s.doors[d]).dcs = true →
      ∃ t, exec (.dcsBreakOpening d) s = .next t ∧ solenoidOn t.doors[d] = false ∧ (t.doors[d]).dcs = false)) ∧
  (∀ (s : State) (d : DoorIx), s.cfg.isFitted d = true → s.leafRuns d = true →
    ∃ t, exec (.unlockCommandedGraceEnd d) s = .next t ∧ (t.doors[d]).sm.flags.grace = false
      ∧ (t.doors[d]).sm.state = (s.doors[d]).sm.state ∧ uncommanded t.doors[d] true = uncommanded s.doors[d] false)

/-- At a calm doorway: WARN ends in MOVE; the dwell of OPEN and of REOPENING ends in CLOSING phase WARN; DCS made in the
closed window ends MOVE in LOCK; DLS confirmed with the step retracted ends LOCK in the closed rest state; a lock
attempt that ends retries while attempts remain and else ends in CLOSED_UNLOCKED, whose rows act at once: STOPPED
without DCS, the closed rest state with DLS and the step retracted; from there DLS made ends in the closed rest state
and DCS broken in STOPPED. That the command is the occurrence itself, and not its time, is the
model's choice (log entry 2). Basis: R34, R37, R66, R177, R178, R264. -/
def Obligations.ClosingAndLockingRows : Prop :=
  (∀ (s : State) (d : DoorIx), s.leafRuns d = true → (s.doors[d]).Calm (s.doorEnv d) → (s.doors[d]).sm.edges = noEdges →
    ((s.doors[d]).sm.state = .closing → (s.doors[d]).sm.phase = .warn → (s.doors[d]).obst.seFast = (false, false) →
      (s.doors[d]).dcs = false →
      ∃ t, exec (.preCloseWarnExpiry d) s = .next t ∧ (t.doors[d]).sm.state = .closing ∧ (t.doors[d]).sm.phase = .move
        ∧ (t.doors[d]).sm.cause = (s.doors[d]).sm.cause) ∧
    ((s.doors[d]).sm.state = .opened → (s.doors[d]).sm.phase = .none → s.cfg.dwell d ≠ 0 → s.cfg.preCloseWarn d ≠ 0 →
      ∃ t, exec (.dwellExpiry d) s = .next t ∧ (t.doors[d]).sm.state = .closing ∧ (t.doors[d]).sm.phase = .warn
        ∧ (t.doors[d]).sm.cause = .closeDwell) ∧
    ((s.doors[d]).sm.state = .reopening → (s.doors[d]).sm.phase = .reopenDwell → s.cfg.preCloseWarn d ≠ 0 →
      ∃ t, exec (.reopenDwellExpiry d) s = .next t ∧ (t.doors[d]).sm.state = .closing ∧ (t.doors[d]).sm.phase = .warn
        ∧ (t.doors[d]).sm.cause = (s.doors[d]).sm.cause) ∧
    (s.fieldOn = true → (s.doors[d]).sm.state = .closing → (s.doors[d]).sm.phase = .move →
      inClosedWindow (s.doorEnv d) (setInput (s.doorEnv d) 0 true ⟨s.doors[d], []⟩).dw = true →
      (setInput (s.doorEnv d) 0 true ⟨s.doors[d], []⟩).dw.obst.flags.reflexStop = false →
      ∃ t, exec (.dcsMadeClosedWindow d) s = .next t ∧ (t.doors[d]).sm.state = .closing ∧ (t.doors[d]).sm.phase = .lock
        ∧ (t.doors[d]).sm.cause = (s.doors[d]).sm.cause)) ∧
  (∀ (s : State) (d : DoorIx), s.leafRuns d = true → (s.doors[d]).Calm (s.doorEnv d) → (s.doors[d]).sm.edges = noEdges →
    ((s.doors[d]).sm.state = .closing → (s.doors[d]).sm.phase = .lock →
      (s.fieldOn = true → stepRetracted (s.doorEnv d) s.doors[d] = true → (s.doors[d]).step.job = .none → s.cfg.openMode d ≠ 1 →
        ∃ t, exec (.dlsConfirmed d) s = .next t ∧ (t.doors[d]).sm.state = closedRest (s.doorEnv d) ⟨s.doors[d], []⟩
          ∧ (t.doors[d]).sm.phase = .none ∧ (t.doors[d]).sm.cause = (s.doors[d]).sm.cause) ∧
      ((s.doors[d]).sm.flags.dlsConfirmed = false → s.cfg.lockRetries d + 1 ≤ (s.doors[d]).door.attempt → s.cfg.openMode d ≠ 1 →
        ∃ t, exec (.lockAttemptExpiry d) s = .next t ∧ (t.doors[d]).sm.cause = (s.doors[d]).sm.cause
          ∧ (t.doors[d]).sm.state = (if (s.doors[d]).dcs = false then .stopped
              else if (s.doors[d]).dls = true ∧ stepRetracted (s.doorEnv d) s.doors[d] = true
                  ∧ (checkDeployed (s.doorEnv d) ⟨s.doors[d], []⟩).dw.step.job = .none
                then closedRest (s.doorEnv d) ⟨s.doors[d], []⟩
              else .closedUnlocked)) ∧
      ((s.doors[d]).sm.flags.dlsConfirmed = false → (s.doors[d]).door.attempt < s.cfg.lockRetries d + 1 →
        ∃ t, exec (.lockAttemptExpiry d) s = .next t ∧ (t.doors[d]).sm = (s.doors[d]).sm
          ∧ (t.doors[d]).door.attempt = (s.doors[d]).door.attempt + 1 ∧ (t.doors[d]).door.push = .relaxing)) ∧
    (s.fieldOn = true → (s.doors[d]).sm.state = .closedUnlocked → (s.doors[d]).sm.phase = .none →
      ((s.doors[d]).dcs = true → stepRetracted (s.doorEnv d) s.doors[d] = true → (s.doors[d]).step.job = .none →
        s.cfg.openMode d ≠ 1 → ∃ t, exec (.dlsMadeClosedUnlocked d) s = .next t ∧ (t.doors[d]).sm.state = closedRest (s.doorEnv d) ⟨s.doors[d], []⟩
          ∧ (t.doors[d]).sm.phase = .none ∧ (t.doors[d]).sm.cause = (s.doors[d]).sm.cause) ∧
      ∃ t, exec (.dcsBreakClosedUnlocked d) s = .next t ∧ (t.doors[d]).sm.state = .stopped
        ∧ (t.doors[d]).sm.cause = (s.doors[d]).sm.cause))

/-- An adaptation window restarts after 1,000 ms of use and its bins are saved at every 64th adapted stroke; the breakaway
mark clears; the sensitive-edge path fault sets while the paths of an edge differ and clears while those of both agree;
a segment end marks the cycle; a compare that C is crossed at disarms, counts, stamps the time and sends its event, and
a MODE 2 compare HYST past C re-arms; an encoder output divides its source counts; a step moves register and electrical
index. That a step timer command issues the step then due, and that a compare is tested as an occurrence of its own,
are readings of the model (log entries 11 and 21). Basis: R115, R130, R131, R134, R135, R188, R192, R228, R235, R245,
R246. -/
def Obligations.ObstacleAndMotionMarks : Prop :=
  (∀ (s : State) (d : DoorIx), s.cfg.isFitted d = true → s.leafRuns d = true →
    (∀ closing, ∃ t, exec (.adaptWindowEnd d closing) s = .next t
      ∧ (t.doors[d]).obst.closeEnv = (if closing = true ∧ 1000 ≤ (s.doors[d]).obst.closeEnv.windowUsed
          then restartWindow (s.doors[d]).obst.closeEnv else (s.doors[d]).obst.closeEnv)
      ∧ (t.doors[d]).obst.openEnv = (if closing = false ∧ 1000 ≤ (s.doors[d]).obst.openEnv.windowUsed
          then restartWindow (s.doors[d]).obst.openEnv else (s.doors[d]).obst.openEnv)) ∧
    (∃ t, exec (.adaptMramWrite d) s = .next t
      ∧ (t.doors[d]).obst.closeEnv.saved = (if (s.doors[d]).obst.signature.adaptStrokes % 64 = 0
          then (s.doors[d]).obst.closeEnv.bins else (s.doors[d]).obst.closeEnv.saved)
      ∧ (t.doors[d]).obst.openEnv.saved = (if (s.doors[d]).obst.signature.adaptStrokes % 64 = 0
          then (s.doors[d]).obst.openEnv.bins else (s.doors[d]).obst.openEnv.saved)) ∧
    (∃ t, exec (.envBreakawayExpiry d) s = .next t ∧ (t.doors[d]).obst.flags.breakaway = false)) ∧
  (∀ (s : State) (d : DoorIx), s.cfg.isFitted d = true → s.supvRuns = true →
    (∀ second, ∃ t, exec (.sePathFault d second) s = .next t
      ∧ (t.doors[d]).obst.flags.sePathFault = ((s.doors[d]).obst.flags.sePathFault || !(s.doors[d]).edgeAgrees second)
      ∧ ((s.doors[d]).obst.flags.sePathFault = false → (s.doors[d]).edgeAgrees second = false →
          (t.doors[d]).obst.seFaultEdge = (if second then 2 else 1)
          ∧ (t.doors[d]).obst.counters.sePathFaults = satInc 16 (s.doors[d]).obst.counters.sePathFaults)) ∧
    (∃ t, exec (.sePathFaultClear d) s = .next t
      ∧ (t.doors[d]).obst.flags.sePathFault = ((s.doors[d]).obst.flags.sePathFault
          && !((s.doors[d]).edgeAgrees false && (s.doors[d]).edgeAgrees true)))) ∧
  (∀ (s : State) (r : DriveIx), s.cfg.driveFitted r = true →
    (∀ c, s.leafRuns (doorOf r) = true → (s.doors[doorOf r]).cycle = some c →
      ∃ t c', exec (.segmentEndEvent r) s = .next t ∧ (t.doors[doorOf r]).cycle = some c' ∧ c'.flags.segmentMark = true
        ∧ c'.start = c.start) ∧
    (∀ up, s.power.on (leafDomain (doorOf r)) = true →
      (s.gen r).compare.fires (drivePosition (s.baseEnv (doorOf r)) s.doors[doorOf r] r) = some up →
      ∃ t, exec (.compareFire r) s = .next t ∧ (t.gen r).compare.armed = false
        ∧ (t.gen r).compare.fireCount = satInc 32 (s.gen r).compare.fireCount ∧ (t.gen r).compare.lastFired = s.now
        ∧ (bitOf (s.gen r).compare.actions 1 = false → t.fcp = (if bitOf (s.gen r).compare.actions 0 then
            s.fcp.eventAll 0xE301 (le 8 s.now ++ le 1 r.val
              ++ le 1 (if up then 1 else 2)
              ++ le 2 (satInc 32 (s.gen r).compare.fireCount) ++ leInt 4 (s.gen r).compare.position
              ++ leInt 4 (drivePosition (s.baseEnv (doorOf r)) s.doors[doorOf r] r)
              ++ leInt 4 (driveVelocity (s.baseEnv (doorOf r)) s.doors[doorOf r] r)) else s.fcp))) ∧
    (s.power.on (leafDomain (doorOf r)) = true →
      (s.gen r).compare.fires (drivePosition (s.baseEnv (doorOf r)) s.doors[doorOf r] r) = none →
      ∃ t, exec (.compareRearm r) s = .next t ∧ (t.gen r).compare.armed = ((s.gen r).compare.armed
        || (s.gen r).compare.rearms (drivePosition (s.baseEnv (doorOf r)) s.doors[doorOf r] r))) ∧
    (∀ x up, s.cfg.encSourceDrive x = r.val → s.power.on (leafDomain (doorOf r)) = true →
      ∃ t, exec (.encoderSourceCount x up) s = .next t
        ∧ t.encoders[x] = (s.encoders[x]).count (s.cfg.encRatioN x) (s.cfg.encRatioM x) (s.cfg.encInvert x == 1) up) ∧
    (∀ d p x, r = stepDrive d → s.leafRuns d = true → s.power.ready = true → (s.doors[d]).step.gen.flags.tracking = false →
      (s.doors[d]).step.gen.path = some p → p.fresh = false → (s.doors[d]).step.timer = some x → x.move ≠ 0 →
      stallMarked (s.doorEnv d) s.doors[d] = false →
      ∃ t, exec (.stepTimerExpiry d) s = .next t
        ∧ (t.doors[d]).step.position = (s.doors[d]).step.position + x.move
        ∧ ((t.doors[d]).step.elec : Int) = ((s.doors[d]).step.elec + x.move) % 256))

/-- A change between valid Hall codes, no glitch, moves the raw edge counter by 1 or 2 in the direction of the sector change,
also while the leaf engine does not run; a change by two sectors counts a skip; a change by three sectors at rest counts
no edge and marks the position suspect unless DCS and DLS are both made. A change back within 100 µs undoes the one
before it. Basis: R151, R153, R154, R180, R181. -/
def Obligations.HallCounts : Prop :=
  ∀ (s : State) (d : DoorIx) (code : BitVec 3) (since a b : Nat), s.cfg.isFitted d = true →
    s.power.on (leafDomain d) = true →
    sectorOf (s.cfg.hallSequence d) code.toNat = some b → (s.doors[d]).door.hall.sector = some a → a < 6 →
    ((2000 ≤ since ∨ (s.doors[d]).door.hall.prior = none) →
      ((b + 6 - a) % 6 = 3 → (s.doors[d]).door.gen.state ≠ .moving) →
      ∃ t, exec (.hallChange d code since) s = .next t ∧ (t.doors[d]).door.hall.sector = some b
        ∧ (t.doors[d]).door.hall.rawEdges = (s.doors[d]).door.hall.rawEdges
            + (match (b + 6 - a) % 6 with
              | 1 => 1
              | 2 => 2
              | 4 => -2
              | 5 => -1
              | _ => 0)
        ∧ (t.doors[d]).door.hall.skips = (s.doors[d]).door.hall.skips
            + (if (b + 6 - a) % 6 = 2 ∨ (b + 6 - a) % 6 = 4 then 1 else 0)
        ∧ (s.leafRuns d = true → (b + 6 - a) % 6 = 3 → ((s.doors[d]).dcs && (s.doors[d]).dls) = false →
            (t.doors[d]).door.flags.suspect = true)) ∧
    (∀ p, (s.doors[d]).door.hall.prior = some p → since < 2000 →
      (sectorOf (s.cfg.hallSequence d) (s.doors[d]).door.hall.code).isSome = true → p.sector = b →
      ∃ t, exec (.hallChange d code since) s = .next t ∧ (t.doors[d]).door.hall.sector = some b
        ∧ (t.doors[d]).door.hall.rawEdges = p.rawEdges)

/-- At a running doorway of no higher rank, lost Hall signals, a Hall supply fault, a wrong direction on the first
opening, overtravel in seal seek and in homing put FAULT_CODE 6, 7, 8, 9 and 0x11 on their drive and the doorway in
FAULT with FAULT_HALL, FAULT_DRIVE or FAULT_STEP. A hardware trip of any of the sixteen drives puts its code there and
the doorway in FAULT; a desaturation does so where no spare leg may take it. That the command is the occurrence
itself, and not its time, is the model's choice (log entry 2). Basis: R128, R159, R173, R180, R182, R205, R219, R600. -/
def Obligations.DriveTripsBringFault : Prop :=
  (∀ (s : State) (d : DoorIx), s.leafRuns d = true → (s.doors[d]).Awake (s.doorEnv d) →
    (s.doors[d]).dis = false → (s.doors[d]).eehIn = false → (s.doors[d]).eeaOut = false →
    (s.doors[d]).sm.state ≠ .egress → (s.doors[d]).sm.state ≠ .isolated → (s.doors[d]).sm.state ≠ .fault →
    (s.doors[d]).door.faultCode = 0 → (s.doors[d]).step.faultCode = 0 →
    (∃ t, exec (.hallLostTimeout d) s = .next t ∧ (t.doors[d]).sm.state = .fault ∧ (t.doors[d]).sm.cause = .faultHall
      ∧ (t.doors[d]).door.faultCode = 6) ∧
    (∃ t, exec (.hallSupplyFault d) s = .next t ∧ (t.doors[d]).sm.state = .fault ∧ (t.doors[d]).sm.cause = .faultHall
      ∧ (t.doors[d]).door.faultCode = 7) ∧
    ((s.doors[d]).course.1 = .opening → (s.doors[d]).door.flags.openedOnce = false → 0 < (s.doors[d]).door.iqCmd →
      (s.doors[d]).door.hall.ticks + 1280 ≤ (s.doors[d]).door.dirHigh →
      ∃ t, exec (.directionFault d) s = .next t ∧ (t.doors[d]).sm.state = .fault ∧ (t.doors[d]).sm.cause = .faultDrive
        ∧ (t.doors[d]).door.faultCode = 8) ∧
    ((s.doors[d]).door.flags.sealSeek = true →
      s.cfg.sealSeekMax d < ((s.doors[d]).door.sealStart - doorPos s.cfg d (s.doors[d]).door.hall).natAbs →
      ∃ t, exec (.sealSeekOvertravel d) s = .next t ∧ (t.doors[d]).sm.state = .fault ∧ (t.doors[d]).sm.cause = .faultDrive
        ∧ (t.doors[d]).door.faultCode = 9) ∧
    (s.cfg.driveFitted (stepDrive d) = true → ((s.doors[d]).step.job = .homing ∨ (s.doors[d]).step.job = .creepHoming) →
      ∃ t, exec (.homingOvertravel d) s = .next t ∧ (t.doors[d]).sm.state = .fault ∧ (t.doors[d]).sm.cause = .faultStep
        ∧ (t.doors[d]).step.faultCode = 0x11)) ∧
  (∀ (s : State) (r : DriveIx) (trip : HwTrip) (leg : Fin 4) (peak : Nat), s.cfg.driveFitted r = true →
    s.leafRuns (doorOf r) = true → (s.doors[doorOf r]).Awake (s.doorEnv (doorOf r)) →
    (s.doors[doorOf r]).dis = false → (s.doors[doorOf r]).eehIn = false → (s.doors[doorOf r]).eeaOut = false →
    (s.doors[doorOf r]).sm.state ≠ .egress → (s.doors[doorOf r]).sm.state ≠ .isolated → (s.doors[doorOf r]).sm.state ≠ .fault →
    (s.doors[doorOf r]).door.faultCode = 0 → (s.doors[doorOf r]).step.faultCode = 0 →
    (trip = .desat → (s.service.brambles[pairOf (doorOf r)]).mayTake s.cfg = false) →
    ∃ t, exec (.driveHardwareTrip r trip leg peak) s = .next t ∧ (t.doors[doorOf r]).sm.state = .fault
      ∧ (t.doors[doorOf r]).sm.cause = (if isStep r then .faultStep else .faultDrive)
      ∧ (if isStep r then (t.doors[doorOf r]).step.faultCode else (t.doors[doorOf r]).door.faultCode) = tripCode trip)

/-- In OPENING, REOPENING or CLOSING before phase LOCK, an interruption, a bridge at 125 degrees or more, a following
error or a Hall dropout of a moving drive puts the doorway in STOPPED with STOP_DRIVE_INTERRUPTED, the drive in
STOPPED_MID, and the cause among those that hold it. The end of a cause that is seen to have ended takes away that
cause and no other, and of one that stands takes away none; THERMAL_HOLD clears below 110 degrees. That the command
is the occurrence itself, and not its time, is the model's choice (log entry 2). Basis: R127, R163, R164, R180, R194, R658. -/
def Obligations.InterruptionsStopAndEnd : Prop :=
  (∀ (s : State) (d : DoorIx), s.leafRuns d = true → (s.doors[d]).Calm (s.doorEnv d) → (s.doors[d]).sm.edges = noEdges →
    ((s.doors[d]).sm.state = .opening ∨ (s.doors[d]).sm.state = .reopening
      ∨ (s.doors[d]).sm.state = .closing ∧ (s.doors[d]).sm.phase ≠ .lock) →
    (∀ r x, doorOf r = d → s.cfg.driveFitted r = true → (s.gen r).state = .moving →
      ∃ t, exec (.driveInterruption r x) s = .next t ∧ (t.doors[d]).sm.state = .stopped
        ∧ (t.doors[d]).sm.cause = .stopDriveInterrupted ∧ (t.gen r).state = .stoppedMid ∧ x ∈ (t.gen r).stops) ∧
    (∀ r (temp : Int), doorOf r = d → s.cfg.driveFitted r = true → (s.gen r).state = .moving → 1250 ≤ temp →
      (if isStep r then (s.doors[d]).step.flags.thermalHold else (s.doors[d]).door.flags.thermalHold) = false →
      ∃ t, exec (.thermalHold r temp) s = .next t ∧ (t.doors[d]).sm.state = .stopped
        ∧ (t.doors[d]).sm.cause = .stopDriveInterrupted ∧ (t.gen r).state = .stoppedMid ∧ .temperature ∈ (t.gen r).stops
        ∧ (if isStep r then (t.doors[d]).step.flags.thermalHold else (t.doors[d]).door.flags.thermalHold) = true
        ∧ (if isStep r then (t.doors[d]).step.bridgeTemp else (t.doors[d]).door.bridgeTemp) = temp) ∧
    ((s.doors[d]).door.gen.state = .moving →
      ((s.doors[d]).door.flags.sealSeek = false →
        s.cfg.followErrMax d < ((s.doors[d]).door.gen.ref.pos - doorPos s.cfg d (s.doors[d]).door.hall).natAbs →
        ∃ t, exec (.followingError d) s = .next t ∧ (t.doors[d]).sm.state = .stopped
          ∧ (t.doors[d]).sm.cause = .stopDriveInterrupted ∧ (t.doors[d]).door.gen.state = .stoppedMid
          ∧ .following ∈ (t.doors[d]).door.gen.stops ∧ (t.doors[d]).door.flags.followError = true) ∧
      (∀ consistent after, ∃ t, exec (.hallDropout d consistent after) s = .next t ∧ (t.doors[d]).sm.state = .stopped
          ∧ (t.doors[d]).sm.cause = .stopDriveInterrupted ∧ (t.doors[d]).door.gen.state = .stoppedMid
          ∧ .hall ∈ (t.doors[d]).door.gen.stops ∧ (t.doors[d]).door.flags.hallDropout = true))) ∧
  (∀ (s : State) (r : DriveIx), s.cfg.driveFitted r = true → s.leafRuns (doorOf r) = true →
    (isStep r = true → (s.doors[doorOf r]).step.job = .none) →
    (∀ x, causeEnds (s.doorEnv (doorOf r)) (isStep r) x s.doors[doorOf r] = true →
      ∃ t, exec (.interruptionEnd r x) s = .next t ∧ x ∉ (t.gen r).stops
        ∧ (∀ y, y ≠ x → y ∈ (s.gen r).stops → y ∈ (t.gen r).stops)) ∧
    (∀ x, causeEnds (s.doorEnv (doorOf r)) (isStep r) x s.doors[doorOf r] = false →
      ∃ t, exec (.interruptionEnd r x) s = .next t ∧ (t.gen r).stops = (s.gen r).stops) ∧
    (∀ temp : Int, temp < 1100 → ∃ t, exec (.thermalHoldClear r temp) s = .next t ∧ .temperature ∉ (t.gen r).stops
      ∧ (if isStep r then (t.doors[doorOf r]).step.flags.thermalHold else (t.doors[doorOf r]).door.flags.thermalHold) = false
      ∧ (if isStep r then (t.doors[doorOf r]).step.bridgeTemp else (t.doors[doorOf r]).door.bridgeTemp) = temp))

/-- When a substitution that runs on a pair completes, the leg it was asked for is in use, or the spare is free again;
when it fails the leg stays and the spare is marked failed. A doorway STOPPED with cause 0x24 whose drives are at rest
and whom no refusal of RESUME stops then resumes: a close in WARN, an opening in its phase. That the command is the
occurrence itself, and not its time, is the model's choice (log entry 2). Basis: R601, R603, R605. -/
def Obligations.SubstitutionsAndResumes : Prop :=
  ∀ (s : State),
    (∀ p u, (s.service.brambles[p]).running = some u →
      (∃ t, exec (.substitutionComplete p true) s = .next t ∧ (t.service.brambles[p]).running = none
        ∧ (t.service.brambles[p]).leg = u.leg
        ∧ (t.service.brambles[p]).state = (if u.leg.isSome then .inUse else .free)) ∧
      (∃ t, exec (.substitutionComplete p false) s = .next t ∧ (t.service.brambles[p]).running = none
        ∧ (t.service.brambles[p]).leg = (s.service.brambles[p]).leg
        ∧ (t.service.brambles[p]).state = (if u.leg.isSome then .failed else (s.service.brambles[p]).state))) ∧
    (∀ d ph, s.spareServes d = true → s.leafRuns d = true → (s.doors[d]).sm.state = .stopped →
      (s.doors[d]).sm.cause = .stopDriveInterrupted → (s.doors[d]).sm.edges = noEdges →
      (s.doors[d]).door.gen.state ≠ .moving → (s.doors[d]).step.gen.state ≠ .moving →
      refuseResume (s.doorEnv d) s.doors[d] = none → s.cfg.preCloseWarn d ≠ 0 →
      ((s.doors[d]).sm.interrupted = some (.closing, ph) →
        ∃ t, exec (.autoResume d) s = .next t ∧ (t.doors[d]).sm.state = .closing ∧ (t.doors[d]).sm.phase = .warn) ∧
      ((s.doors[d]).sm.interrupted = some (.opening, ph) →
        ∃ t, exec (.autoResume d) s = .next t ∧ (t.doors[d]).sm.state = .opening ∧ (t.doors[d]).sm.phase = ph))

/-- The DC-link rows, rows 59 to 61 and row 57 show their event; a clock fault stops the oscillator and is counted, and
every doorway with an energised drive enters FAULT with FAULT_DRIVE unless it is in FAULT, EGRESS or ISOLATED. The
DC-link voltage itself is a free value (log entry 107), and when the oscillator runs is a reading of the model (log
entry 68). Basis: R182, R251, R255, R659. -/
def Obligations.QuinceRowsAndClock : Prop :=
  ∀ (s : State),
    (∀ high, s.power.on 9 = true → ∃ t, exec (.dcLinkOutOfRange high) s = .next t
      ∧ t.quince.present.getLsbD (if high then 60 else 59) = true
      ∧ t.power.dcLink = Config.measured .dcLink s.free) ∧
    (∀ (row : RowIx) r present, (row.val = 59 ∨ row.val = 60 ∨ row.val = 61) →
      ∃ t, exec (.levelRowChange row r present) s = .next t ∧ t.quince.present.getLsbD row.val = present) ∧
    (∀ r present, ∃ t, exec (.levelRowChange 57 r present) s = .next t ∧ t.quince.trips.getLsbD r.val = present) ∧
    (s.quince.oscillator = true →
      ∃ t, exec .quinceClockFault s = .next t ∧ t.quince.oscillator = false
        ∧ t.quince.clockFaults = satInc 16 s.quince.clockFaults
        ∧ ∀ d, s.cfg.isFitted d = true → s.leafRuns d = true →
            ((s.doors[d]).door.gen.energised || (s.doors[d]).step.gen.energised) = true →
            (s.doors[d]).sm.state ≠ .fault → (s.doors[d]).sm.state ≠ .egress → (s.doors[d]).sm.state ≠ .isolated →
            (t.doors[d]).sm.state = .fault ∧ (t.doors[d]).sm.cause = .faultDrive)

/-- A deployment completes into deployed or waits for SDS, and fails into a homing after 200 ms; a park move ends homed at
its target and counts a homing; a stall confirmed in homing sets the register to zero and starts the park move; a
retry pause ends in a CREEP homing; SDS lost clears the deployed bit and sets SDS_LOST. A stop leaves the step drive
in STOPPED_MID at the path's end with the doorway where it was. That the command is the occurrence itself, and not its
time, is the model's choice (log entry 2). Basis: R109, R125, R126, R199, R202, R206, R213, R214, R218. -/
def Obligations.StepMotionsEndAsTheSpecSays : Prop :=
  (∀ (s : State) (d : DoorIx), s.leafRuns d = true → s.cfg.driveFitted (stepDrive d) = true → (s.doors[d]).sm.edges = noEdges →
    (s.doors[d]).Still (s.doorEnv d) →
    ((s.doors[d]).sm.state = .opening → (s.doors[d]).sm.flags.openComplete = false →
      ((s.doors[d]).step.job = .deploying →
        ∃ t, exec (.deployComplete d) s = .next t ∧ (t.doors[d]).step.position = (s.doors[d]).step.gen.target
          ∧ ((s.doors[d]).sds = true → (t.doors[d]).step.job = .none ∧ (t.doors[d]).step.flags.deployed = true)
          ∧ ((s.doors[d]).sds = false → (t.doors[d]).step.job = .awaitSds)) ∧
      ((s.doors[d]).step.job = .awaitSds → (s.doors[d]).sds = false → (s.doors[d]).step.demandFails = 0 →
        (s.doors[d]).step.flags.lost = false → s.cfg.homeStartPos d < (s.doors[d]).step.position →
        ∃ t, exec (.deploySdsTimeout d) s = .next t ∧ (t.doors[d]).step.demandFails = 1 ∧ (t.doors[d]).step.thenDeploy = true
          ∧ (t.doors[d]).sm.state = .opening)) ∧
    (quiet (s.doors[d]).sm.state (s.doors[d]).sm.phase = true →
      ((s.doors[d]).step.job = .parking → (s.doors[d]).step.thenDeploy = false →
        ∃ t, exec (.parkComplete d) s = .next t ∧ (t.doors[d]).step.flags.homed = true ∧ (t.doors[d]).step.job = .none
          ∧ (t.doors[d]).step.position = (s.doors[d]).step.gen.target
          ∧ (t.doors[d]).step.counters.homings = satInc 32 (s.doors[d]).step.counters.homings) ∧
      (∀ onset, ((s.doors[d]).step.job = .homing ∨ (s.doors[d]).step.job = .creepHoming) →
        (s.doors[d]).step.gen.state = .moving → s.cfg.stallSteps d ≤ (s.doors[d]).step.load.marks →
        (s.doors[d]).step.load.onset = onset →
        ((s.doors[d]).step.run.chatter || (s.doors[d]).step.run.srsSeen || (s.doors[d]).srs) = true →
        ∃ t, exec (.stallConfirmed d onset) s = .next t ∧ (t.doors[d]).step.job = .parking
          ∧ (t.doors[d]).step.position = 0 ∧ (t.doors[d]).step.lastShift = -onset) ∧
      (∀ n x, (s.doors[d]).step.job = .retryPause →
        roleContext (s.doorEnv d) (stepDrive d) (s.doors[d]).step.gen 3 = some (n, x) → x.relative = false →
        ∃ t, exec (.stepRetryPauseExpiry d) s = .next t ∧ (t.doors[d]).step.job = .creepHoming
          ∧ (t.doors[d]).step.run.startedAt = s.mono ∧ (t.doors[d]).step.flags.homed = false)) ∧
    (s.fieldOn = true → (s.doors[d]).sds = true → (s.doors[d]).step.flags.deployed = true →
      ∃ t, exec (.sdsLost d) s = .next t ∧ (t.doors[d]).sds = false ∧ (t.doors[d]).step.flags.deployed = false
        ∧ (t.doors[d]).step.flags.sdsLost = true)) ∧
  (∀ (s : State) (d : DoorIx), s.leafRuns d = true → s.cfg.driveFitted (stepDrive d) = true → (s.doors[d]).step.gen.state = .moving →
    (∀ p, (s.doors[d]).step.gen.path = some p → p.stopping = true →
      ∃ t, exec (.stopComplete (stepDrive d)) s = .next t ∧ (t.doors[d]).step.gen.state = .stoppedMid
        ∧ (t.doors[d]).step.position = p.planTo ∧ (t.doors[d]).sm = (s.doors[d]).sm) ∧
    ((s.doors[d]).Still (s.doorEnv d) → (s.doors[d]).sm.edges = noEdges →
      quiet (s.doors[d]).sm.state (s.doors[d]).sm.phase = true → (s.doors[d]).step.gen.stopping = false →
      (s.doors[d]).step.job = .parking → (s.doors[d]).step.thenDeploy = false →
      ∃ t, exec (.pathComplete (stepDrive d)) s = .next t ∧ (t.doors[d]).step.flags.homed = true
        ∧ (t.doors[d]).step.job = .none ∧ (t.doors[d]).step.position = (s.doors[d]).step.gen.target))

/-- At a calm doorway with a moving door drive: the open path's end brings OPEN where the step is deployed, the reopen
path's end brings phase DWELL, and the close path's end with a suspect position brings seal seek in phase MOVE. A stop
leaves STOPPED_MID, the reference at the path's end, and the kept move with REMAINING its target minus that end; the stop
of a reflex without torque loss ends the reflex stop. Basis: R34, R109, R125, R126, R171, R264, R662. -/
def Obligations.DoorMotionEnds : Prop :=
  ∀ (s : State) (d : DoorIx), s.leafRuns d = true → s.cfg.driveFitted (doorDrive d) = true → (s.doors[d]).Calm (s.doorEnv d) →
    (s.doors[d]).sm.edges = noEdges → (s.doors[d]).door.gen.state = .moving →
    ((s.doors[d]).door.gen.stopping = false → (s.doors[d]).door.gen.path.isSome = true →
      ((s.doors[d]).sm.state = .opening → (s.doors[d]).sm.phase = .none → stepDeployed (s.doorEnv d) s.doors[d] = true →
        ∃ t, exec (.pathComplete (doorDrive d)) s = .next t ∧ (t.doors[d]).sm.state = .opened ∧ (t.doors[d]).sm.phase = .none
          ∧ (t.doors[d]).sm.cause = (s.doors[d]).sm.cause) ∧
      ((s.doors[d]).sm.state = .reopening → (s.doors[d]).sm.phase = .reopenMove →
        ∃ t, exec (.pathComplete (doorDrive d)) s = .next t ∧ (t.doors[d]).sm.state = .reopening
          ∧ (t.doors[d]).sm.phase = .reopenDwell) ∧
      ((s.doors[d]).sm.state = .closing → (s.doors[d]).sm.phase = .move → (s.doors[d]).door.flags.suspect = true →
        ∃ t, exec (.pathComplete (doorDrive d)) s = .next t ∧ (t.doors[d]).sm.state = .closing
          ∧ (t.doors[d]).sm.phase = .move ∧ (t.doors[d]).door.flags.sealSeek = true)) ∧
    (∀ p, (s.doors[d]).door.gen.path = some p → p.stopping = true →
      (∀ m, (s.doors[d]).obst.flags.reflexStop = false → (s.doors[d]).door.gen.kept = some m →
        ∃ t, exec (.stopComplete (doorDrive d)) s = .next t ∧ (t.doors[d]).door.gen.state = .stoppedMid
          ∧ (t.doors[d]).door.gen.kept = some m ∧ (t.doors[d]).door.gen.remaining = m.target - p.planTo
          ∧ (t.doors[d]).door.gen.ref.pos = p.planTo ∧ (t.doors[d]).sm = (s.doors[d]).sm) ∧
      ((s.doors[d]).obst.flags.reflexStop = true →
        ∃ t, exec (.stopComplete (doorDrive d)) s = .next t ∧ (t.doors[d]).obst.flags.reflexStop = false))

/-- A confirmed edge sets the filtered DCS. In seal seek below 1,000 µm/s, a stall without DCS ends it as a final-closure
trip, counted, with its source recorded and the suspect mark kept; with DCS made in CLOSING phase MOVE and the step homed it sets the
position to zero, clears the mark, counts a relearn and passes to phase LOCK. Basis: R168, R172, R174, R247, R250. -/
def Obligations.SealSeekAndDcsEdges : Prop :=
  ∀ (s : State) (d : DoorIx), s.cfg.isFitted d = true → s.leafRuns d = true →
    (∀ make, s.fieldOn = true → (s.doors[d]).inp.flags.valid = true →
      ∃ t, exec (.dcsEdgeConfirmed d make) s = .next t ∧ (t.doors[d]).dcs = make) ∧
    ((s.doors[d]).door.flags.sealSeek = true → (s.doors[d]).door.hall.velocity.natAbs < 1000 →
      ((s.doors[d]).dcs = false →
        ∃ t, exec (.sealStall d) s = .next t ∧ (t.doors[d]).door.flags.sealSeek = false
          ∧ (t.doors[d]).obst.pending = some { source := 32 + d.val + 192, fromSeal := true }
          ∧ (t.doors[d]).obst.lastTripSource = 32 + d.val + 192 ∧ (t.doors[d]).obst.flags.sigTripped = true
          ∧ (t.doors[d]).obst.counters.sigTrips = satInc 16 (s.doors[d]).obst.counters.sigTrips
          ∧ (t.doors[d]).door.flags.suspect = (s.doors[d]).door.flags.suspect) ∧
      ((s.doors[d]).dcs = true → (s.doors[d]).Calm (s.doorEnv d) → (s.doors[d]).sm.edges = noEdges →
        (s.doors[d]).sm.state = .closing → (s.doors[d]).sm.phase = .move →
        (s.cfg.hasStep d = false ∨ (s.doors[d]).stepHomed = true ∧ (s.doors[d]).step.flags.moved = false) →
        ∃ t, exec (.sealStall d) s = .next t ∧ (t.doors[d]).sm.state = .closing ∧ (t.doors[d]).sm.phase = .lock
          ∧ (t.doors[d]).door.hall.ticks = 0 ∧ (t.doors[d]).door.flags.suspect = false
          ∧ (t.doors[d]).door.counters.relearns = satInc 16 (s.doors[d]).door.counters.relearns))

/-- With Quince running and a row that acts on the column: a sensitive edge whose voltages make its fast path active, a Rowan
sample above its limit and a final-closure criterion that is met each leave a waiting trip, its source and its counter;
voltages that leave the fast path inactive, or one that is active already, change nothing. A trip taken in CLOSING
phase MOVE brings REOPENING below OBSTACLE_LIMIT and OBSTRUCTED at it, with OBSTACLE_CLOSING. The end of a reflex stop
and the release of a latch clear their marks and no state. Which onsets a release clears is the model's reading (log
entries 24 and 82). Basis: R232, R236, R247, R251, R258, R259, R261, R266, R268. -/
def Obligations.ReflexTripsLatchAndAreTaken : Prop :=
  (∀ (s : State) (d : DoorIx), s.cfg.isFitted d = true → s.power.on (leafDomain d) = true → s.quince.oscillator = true →
    (∀ x : EdgeSample, (if x.second then (s.doors[d]).obst.seFast.2 else (s.doors[d]).obst.seFast.1) = true
        ∨ (s.doors[d]).inp.front.fastPath false (if x.second then 9 else 8) x.vIn x.vCom = false →
      exec (.seFastOnset d x) s = .next s) ∧
    (∀ (x : EdgeSample) (row : RowIx), row.val = 2 * d.val + x.second.toNat → reflexAction s.cfg row (doorDrive d) ≠ .none →
      (if x.second then (s.doors[d]).obst.seFast.2 else (s.doors[d]).obst.seFast.1) = false →
      (s.doors[d]).inp.front.fastPath false (if x.second then 9 else 8) x.vIn x.vCom = true →
      ∃ t, exec (.seFastOnset d x) s = .next t
        ∧ (if x.second then (t.doors[d]).obst.seFast.2 else (t.doors[d]).obst.seFast.1) = true
        ∧ (t.doors[d]).obst.pending = some ((s.doors[d]).obst.pending.getD { source := row.val, fromSeal := false })
        ∧ (t.doors[d]).obst.lastTripSource = row.val
        ∧ (t.doors[d]).obst.counters.seTrips = satInc 32 (s.doors[d]).obst.counters.seTrips) ∧
    (∀ (iq acc temp : Int) (row : RowIx),
      (rowanCompares s.doors[d]).1 = true → (rowanSample (s.doorEnv d) s.doors[d] iq acc temp).1 ≠ 0 →
      (rowanSample (s.doorEnv d) s.doors[d] iq acc temp).2.2 < (rowanSample (s.doorEnv d) s.doors[d] iq acc temp).2.1 →
      row.val = (if (rowanSample (s.doorEnv d) s.doors[d] iq acc temp).1 < 0 then 16 + 2 * d.val else 17 + 2 * d.val) →
      reflexAction s.cfg row (doorDrive d) ≠ .none →
      ∃ t, exec (.rowanTrip d iq acc temp) s = .next t
        ∧ (t.doors[d]).obst.lastEffort = (rowanSample (s.doorEnv d) s.doors[d] iq acc temp).2.1
        ∧ (t.doors[d]).obst.lastLimit = (rowanSample (s.doorEnv d) s.doors[d] iq acc temp).2.2
        ∧ (t.doors[d]).obst.pending = some ((s.doors[d]).obst.pending.getD { source := row.val, fromSeal := false })
        ∧ (t.doors[d]).obst.lastTripSource = row.val
        ∧ (t.doors[d]).obst.counters.envTrips = satInc 32 (s.doors[d]).obst.counters.envTrips) ∧
    (∀ (m : FinalClosure) (row : RowIx), row.val = 32 + d.val → finalClosureRuns (s.doorEnv d) s.doors[d] m = true →
      finalClosureTrips s.cfg d (s.doors[d]).obst m = true → reflexAction s.cfg row (doorDrive d) ≠ .none →
      ∃ t, exec (.finalClosureTrip d m) s = .next t
        ∧ (t.doors[d]).obst.pending = some ((s.doors[d]).obst.pending.getD { source := row.val, fromSeal := false })
        ∧ (t.doors[d]).obst.lastTripSource = row.val + 64 * FinalClosure.number m
        ∧ (t.doors[d]).obst.counters.sigTrips = satInc 16 (s.doors[d]).obst.counters.sigTrips)) ∧
  (∀ (s : State) (d : DoorIx), s.cfg.isFitted d = true → s.leafRuns d = true →
    (∀ trip, (s.doors[d]).obst.pending = some trip → (s.doors[d]).sm.edges = noEdges →
      ({ s.doors[d] with obst := { (s.doors[d]).obst with pending := none } } : Doorway).Calm (s.doorEnv d) →
      (s.doors[d]).sm.state = .closing → (s.doors[d]).sm.phase = .move →
      ∃ t, exec (.reflexTripTaken d) s = .next t ∧ (t.doors[d]).sm.cause = .obstacleClosing ∧ (t.doors[d]).obst.pending = none
        ∧ ((s.doors[d]).sm.obstacles + 1 < s.cfg.obstacleLimit d →
            (t.doors[d]).sm.state = .reopening
              ∧ ((s.doors[d]).door.gen.braked = true ∨ (s.doors[d]).door.gen.state = .moving →
                  (t.doors[d]).sm.phase = .reopenMove))
        ∧ (s.cfg.obstacleLimit d ≤ (s.doors[d]).sm.obstacles + 1 → (t.doors[d]).sm.state = .obstructed)) ∧
    ((s.doors[d]).obst.flags.reflexStop = true → (s.doors[d]).door.gen.braked = true →
      (s.doors[d]).sm.state = .stopped ∨ (s.doors[d]).sm.state = .closing →
      ∃ t, exec (.reflexStopEnd d) s = .next t ∧ (t.doors[d]).obst.flags.reflexStop = false
        ∧ (t.doors[d]).obst.flags.reopenOver = false ∧ (t.doors[d]).sm = (s.doors[d]).sm) ∧
    ((s.doors[d]).obst.flags.reflexStop = false → (s.doors[d]).door.latch.action ≠ .none →
      ∃ t, exec (.reflexLatchRelease d) s = .next t ∧ (t.doors[d]).obst.seFast = (false, false)
        ∧ (t.doors[d]).sm = (s.doors[d]).sm))

/-- A channel above 6,000 mA or above OC_LIMIT at the window's end, OC_STEADY and OC_SHORT switch the group off as
overcurrents with causes 2, 3, 1 and 2; a retry turns it on again and costs one; a restore refills the retries; a
thermal latch switches the group off for good. A rail sag above 100 microseconds extends each running inrush of its
doorway once; off-state and open-load tests set and clear their marks; keep-warm heats below the band and stops above
it; a flash alternates. That the command is the occurrence itself, and not its time, is the model's choice (log entry
2). Basis: R276, R279, R280, R282, R283, R284, R285, R286, R288, R290, R294, R297. -/
def Obligations.LoadSwitchProtectionAndDiagnostics : Prop :=
  (∀ (s : State) (n l : ChanIx), s.fieldOn = true → l = leaderOf s.cfg n →
    (∀ current, (s.lsw.chans[l]).on = true → (s.lsw.chans[l]).inrush = true →
      ∃ t, exec (.inrushWindowEnd n current) s = .next t ∧ OnlyChanges [.free, .loop, .lsw, .outs, .fcp] s t
        ∧ (current < 6000 → current ≤ s.cfg.chOcLimit l →
            (t.lsw.chans[l]).on = true ∧ (t.lsw.chans[l]).inrush = false ∧ (t.lsw.chans[l]).shortWindow = false)
        ∧ (6000 ≤ current → Channel.Tripped s.lsw.chans[l] t.lsw.chans[l] 2)
        ∧ (current < 6000 → s.cfg.chOcLimit l < current → Channel.Tripped s.lsw.chans[l] t.lsw.chans[l] 3)) ∧
    ((s.lsw.chans[l]).on = true → (s.lsw.chans[l]).inrush = false →
      (∀ current, s.cfg.chOcLimit l < current →
        ∃ t, exec (.ocSteady n current) s = .next t ∧ Channel.Tripped s.lsw.chans[l] t.lsw.chans[l] 1) ∧
      (∃ t, exec (.ocShort n) s = .next t ∧ Channel.Tripped s.lsw.chans[l] t.lsw.chans[l] 2)) ∧
    ((s.lsw.chans[l]).retryWait = true → s.lsw.demand s.cfg l = .on →
      ∃ t, exec (.retryBackoffExpiry n) s = .next t ∧ (t.lsw.chans[l]).on = true ∧ (t.lsw.chans[l]).inrush = true
        ∧ (t.lsw.chans[l]).retryWait = false ∧ (t.lsw.chans[l]).retriesLeft = (s.lsw.chans[l]).retriesLeft - 1
        ∧ (t.lsw.chans[l]).shortWindow = ((s.lsw.chans[l]).ocCause == 2)) ∧
    ((s.lsw.chans[l]).on = true → s.lsw.groupThermal s.cfg l = false →
      ∃ t, exec (.retryRestore n) s = .next t ∧ (t.lsw.chans[l]).retriesLeft = s.cfg.chRetryCount l) ∧
    ((s.lsw.chans[n]).thermal = false →
      ∃ t, exec (.thermalLatch n) s = .next t ∧ (t.lsw.chans[n]).thermal = true ∧ (t.lsw.chans[l]).on = false
        ∧ (t.lsw.chans[l]).retryWait = false ∧ (t.lsw.chans[l]).retriesLeft = (s.lsw.chans[l]).retriesLeft
        ∧ (t.lsw.chans[n]).counters.thermals = satInc 16 (s.lsw.chans[n]).counters.thermals)) ∧
  (∀ s : State, s.fieldOn = true →
    (∀ (d : DoorIx) (duration : Nat), 100 < duration →
      ∃ t, exec (.railSag d duration) s = .next t ∧ t.lsw.link.railSags = satInc 16 s.lsw.link.railSags
        ∧ ∀ n : ChanIx, chanDoor n = d → isLeader s.cfg n = true → (s.lsw.chans[n]).on = true → (s.lsw.chans[n]).inrush = true →
            (s.lsw.chans[n]).extUsed = false → (t.lsw.chans[n]).extended = true ∧ (t.lsw.chans[n]).extUsed = true) ∧
    (∀ n : ChanIx, testRuns s.lswEnv n s.lsw = true →
      (∃ t, exec (.offStateTest n .openLoad) s = .next t ∧ (t.lsw.chans[n]).diag.openOff = true) ∧
      (1 ≤ (s.lsw.chans[n]).diag.presentRun →
        ∃ t, exec (.offStateTest n .present) s = .next t ∧ (t.lsw.chans[n]).diag.openOff = false
          ∧ (t.lsw.chans[n]).diag.shortSupply = false ∧ (t.lsw.chans[n]).diag.crossFed = false) ∧
      ((s.lsw.chans[n]).diag.crossFed = false →
        ∃ t, exec (.offStateTest n (.fed none)) s = .next t ∧ (t.lsw.chans[n]).diag.shortSupply = true)) ∧
    (∀ (n l : ChanIx) (current : Nat), l = leaderOf s.cfg n → (s.lsw.chans[l]).on = true → (s.lsw.chans[l]).inrush = false →
      s.cfg.chOpenOnI l ≠ 0 →
      ∃ t, exec (.openLoadOn n current) s = .next t ∧ (t.lsw.chans[n]).diag.openOn = decide (current < s.cfg.chOpenOnI l)) ∧
    (∀ (n l : ChanIx) (vOut current : Nat), l = leaderOf s.cfg n → leaderOf s.cfg l = l → s.lsw.demand s.cfg l = .keepWarm →
      selfSensing s.cfg l = true → current ≠ 0 → tempInRange (elementTemp s.cfg l (elementR vOut current)) = true →
      ((s.lsw.chans[l]).on = true → (s.lsw.chans[l]).inrush = false → (s.lsw.chans[l]).heater.rFault = false →
        ∃ t, exec (.keepWarmRegulation n vOut current) s = .next t
          ∧ (t.lsw.chans[l]).heater.temp = elementTemp s.cfg l (elementR vOut current)
          ∧ (elementTemp s.cfg l (elementR vOut current) < s.cfg.chHeatSetpoint l - (s.cfg.chHeatBand l / 2 : Nat) →
              (t.lsw.chans[l]).heater.heating = true)
          ∧ (s.cfg.chHeatSetpoint l + (s.cfg.chHeatBand l / 2 : Nat) < elementTemp s.cfg l (elementR vOut current) →
              (t.lsw.chans[l]).heater.heating = false)) ∧
      ((s.lsw.chans[l]).on = false → (s.lsw.chans[l]).lockout = false → (s.lsw.chans[l]).retryWait = false →
        s.lsw.groupThermal s.cfg l = false →
        ∃ t, exec (.heaterMeasurePulse n vOut current) s = .next t
          ∧ (t.lsw.chans[l]).heater.temp = elementTemp s.cfg l (elementR vOut current) ∧ (t.lsw.chans[l]).on = false)) ∧
    (∀ (n l : ChanIx) (half : Bool), l = leaderOf s.cfg n → flashes s.lswEnv l s.lsw.chans[l] = true →
      (s.lsw.chans[l]).flash = some half →
      ∃ t, exec (.flashToggle n) s = .next t ∧ (t.lsw.chans[l]).flash = some (!half)
        ∧ (t.lsw.chans[l]).cmd = (if half then .off else .on)))

/-- A frame with a bad CRC or out of sequence changes no channel, ends the run of valid frames and is counted. In
fail-safe the first seven valid frames of a run only count; the eighth, and every valid frame outside fail-safe, is
taken in its mode: in RUN a LOCK channel without its doorway's permit is commanded off, and in UPDATE_HOLD every other
channel keeps its command. LSW_WD_TIME without a frame and the end of the update hold enter fail-safe and are counted.
A frame's commands are assembled from the state, a reading of the model (log entry 26). That the command is the
occurrence itself, and not its time, is the model's choice (log entry 2). Basis: R300, R301, R303, R304, R305. -/
def Obligations.LoadSwitchLink : Prop :=
  ∀ s : State, s.fieldOn = true →
    (∀ (seq : BitVec 8) (crcOk : Bool) (mode : LswMode), s.supvRuns = true →
      (crcOk = false ∨ (∃ q, s.lsw.link.seq = some q ∧ seq.toNat ≠ (q + 1) % 256) →
        ∃ t, exec (.lswCommandFrame seq crcOk mode) s = .next t ∧ t.lsw.chans = s.lsw.chans ∧ t.lsw.link.seq = s.lsw.link.seq
          ∧ t.lsw.link.validRun = 0 ∧ t.lsw.link.invalidFrames = satInc 32 s.lsw.link.invalidFrames) ∧
      (crcOk = true → (∀ q, s.lsw.link.seq = some q → seq.toNat = (q + 1) % 256) →
        (s.lsw.link.failsafe = true → s.lsw.link.validRun < 7 →
          ∃ t, exec (.lswCommandFrame seq crcOk mode) s = .next t ∧ t.lsw.chans = s.lsw.chans
            ∧ t.lsw.link.seq = some seq.toNat ∧ t.lsw.link.validRun = s.lsw.link.validRun + 1 ∧ t.lsw.link.failsafe = true) ∧
        (s.lsw.link.failsafe = false ∨ 7 ≤ s.lsw.link.validRun →
          ∃ t, exec (.lswCommandFrame seq crcOk mode) s = .next t ∧ t.lsw.link.seq = some seq.toNat
            ∧ t.lsw.link.failsafe = false ∧ t.lsw.link.updateHold = (mode == .updateHold)
            ∧ t.lsw.link.stable = (mode == .stable || (mode == .updateHold && s.lsw.link.stable))
            ∧ (mode = .run → ∀ n : ChanIx, isLeader s.cfg n = true → functionOf s.cfg n = 4 →
                (s.lswEnv.permits[chanDoor n]) = false → (t.lsw.chans[n]).cmd = .off)
            ∧ (mode = .updateHold → ∀ n : ChanIx, functionOf s.cfg n ≠ 4 → (t.lsw.chans[n]).cmd = (s.lsw.chans[n]).cmd)))) ∧
    (s.lsw.link.failsafe = false →
      (s.lsw.link.updateHold = false → s.lsw.link.stable = false →
        ∃ t, exec .lswWatchdogTimeout s = .next t ∧ t.lsw.link.failsafe = true ∧ t.lsw.link.validRun = 0
          ∧ t.lsw.link.timeouts = satInc 16 s.lsw.link.timeouts) ∧
      (s.lsw.link.updateHold = true →
        ∃ t, exec .updateHoldTimeout s = .next t ∧ t.lsw.link.failsafe = true ∧ t.lsw.link.updateHold = false
          ∧ t.lsw.link.timeouts = satInc 16 s.lsw.link.timeouts))

/-- With a valid trainline group, a change of TL_CLOSE, a release or zero-speed input, a cab input or the bypass sets its
level; a cab change makes the orientation unsettled, and the bypass starts and ends with its counters. REL_SETTLE
makes a release input settled and ORIENT_SETTLE the orientation; differing zero-speed inputs, differing pairs and a
readback against the command set their flags and counters; the third discrepancy in an hour is persistent; one that is
not persistent clears once every pair agrees. The third latching counts itself (log entry 41). That the occurrence
sets the filtered level of its input is the model's choice (log entry 3). Basis: R20, R31, R71, R72, R73, R82, R86,
R88, R92, R94. -/
def Obligations.TrainlinesAndSettleTimes : Prop :=
  (∀ s : State, s.fieldOn = true → s.train.flags.valid = true →
    (∀ active, ∃ t, exec (.tlCloseChange active) s = .next t ∧ t.train = s.train.setLevel s.cfg 2 active) ∧
    (∀ x active, ∃ t, exec (.trainlineInputChange x active) s = .next t ∧ t.train = s.train.setLevel s.cfg (relIndex x) active) ∧
    (∀ second active, ∃ t, exec (.cabInputChange second active) s = .next t
      ∧ t.train = s.train.setLevel s.cfg (if second then 6 else 5) active
      ∧ (s.train.filtered.getLsbD (if second then 6 else 5) ≠ active → t.loop.orientPending = true)) ∧
    (∀ active, ∃ t, exec (.bypassChange active) s = .next t ∧ t.train = s.train.setLevel s.cfg 7 active
      ∧ (s.supvRuns = true → t.loop.bypassActive = active
          ∧ (active = true → s.loop.bypassActive = false →
              t.loop.counters.bypasses = satInc 16 s.loop.counters.bypasses ∧ t.loop.bypassSince = s.mono)
          ∧ (active = false → s.loop.bypassActive = true →
              t.loop.counters.bypassTime = s.loop.counters.bypassTime + (s.mono - s.loop.bypassSince))))) ∧
  (∀ s : State, s.supvRuns = true →
    (∀ side, s.loop.relCounts = true → s.train.filtered.getLsbD (if side = TrainSide.left then 0 else 1) = true →
      ∃ t, exec (.relSettleExpiry side) s = .next t
        ∧ (if side = TrainSide.left then t.loop.relSettled.1 else t.loop.relSettled.2) = true) ∧
    (s.train.flags.valid = true → ∃ t, exec .orientSettleExpiry s = .next t ∧ t.loop.orientPending = false) ∧
    (s.train.filtered.getLsbD 3 ≠ s.train.filtered.getLsbD 4 → s.loop.zspdDiscrepancy = false →
      ∃ t, exec .zspdDiscrepExpiry s = .next t ∧ t.loop.zspdDiscrepancy = true
        ∧ t.loop.counters.zspdFaults = satInc 16 s.loop.counters.zspdFaults) ∧
    (∀ p, s.loop.pairDiffers s.loopEnv p = true → s.loop.discrepancy = false → s.loop.alone = none →
      ∃ t, exec (.loopDisagreeExpiry p) s = .next t ∧ t.loop.discrepancy = true
        ∧ t.loop.counters.discrepancies = satInc 16 s.loop.counters.discrepancies ∧ t.loop.latched.head? = some s.now
        ∧ (3 ≤ t.loop.latched.length → t.loop.persistent = true)) ∧
    (s.loop.discrepancy = true → s.loop.persistent = false → s.loop.pairsAgree s.loopEnv = true →
      ∃ t, exec .discrepancyClearExpiry s = .next t ∧ t.loop.discrepancy = false) ∧
    (s.cfg.loopRbFitted ≠ 0 → s.train.flags.valid = true → s.train.filtered.getLsbD 8 = s.loop.commanded →
      (if s.loop.commanded then s.loop.rbNotOperated else s.loop.rbWeld) = false →
      ∃ t, exec .loopRbTimeExpiry s = .next t ∧ t.loop.counters.rbFaults = satInc 16 s.loop.counters.rbFaults))

/-- KEEPER_ALONE in an update ends with both toggles stopped; a doorway whose raw inputs meet the keeper's condition is
shown closed when the 4 ms end; a missed uplink frame ends the group's run of valid frames and the keeper's run, and
the second frame that shows a doorway not closed opens the keeper's view. That the command is the occurrence itself,
and not its time, is the model's choice (log entry 2). Basis: R84, R97, R331. -/
def Obligations.LoopKeeper : Prop :=
  ∀ s : State, s.fieldOn = true →
    (∀ a, s.loop.alone = some a → a.reason = .update →
      ∃ t, exec .keeperAloneTimeout s = .next t ∧ t.loop.alone = some { a with stopped := true }) ∧
    (∀ d : DoorIx, s.cfg.isFitted d = true → (s.doors[d]).inp.flags.valid = true → s.loop.rawCond d (s.doors[d]).inp.raw = true →
      ∃ t, exec (.keeperClosedSettle d) s = .next t ∧ (t.loop.keeper[d]).closed = true) ∧
    (∀ d : DoorIx, s.cfg.isFitted d = true → s.power.mode = .run →
      ∃ t, exec (.uplinkFrameMissed ⟨d.val, by omega⟩) s = .next t ∧ (t.doors[d]).inp.validRun = 0
        ∧ (t.loop.keeper[d]).trueRun = 0 ∧ (1 ≤ (s.loop.keeper[d]).falseRun → (t.loop.keeper[d]).closed = false))

/-- A sample sets an input's contact state by its class thresholds (in class 0: on at 12.0 V, off at 5.0 V, kept between)
and its raw bit after polarity; a line break, a feed out of range, a failed selftest and a supply fault set the common
fault, which clears once no cause is present. A group's common fault sets and clears with its counter; sixteen valid
frames with applied settings make it valid; an invalid group keeps its raw word and is counted. How the causes of the
common fault end is the model's reading (log entries 36 and 79). That the command is the occurrence itself, and not
its time, is the model's choice (log entry 2). Basis: R26, R320, R326, R327, R331. -/
def Obligations.InputFrontEndsAndGroups : Prop :=
  (∀ (s : State) (g : GroupIx), s.frontOn g = true →
    (∀ (i : Fin 16) (vIn vCom : Nat), i.val < inputsOf g → ¬(g = 8 ∧ (s.group g).front.legacy = true ∧ i.val < 8) →
      ∃ t, exec (.inputSample g i vIn vCom) s = .next t
        ∧ (t.group g).front.contact.getLsbD i = (s.group g).front.classify i vIn vCom
        ∧ (t.group g).front.raw.getLsbD i = ((s.group g).front.classify i vIn vCom ^^ (s.group g).front.polarity.getLsbD i)
        ∧ ((s.group g).front.cls = 0 → (s.group g).front.eolMask.getLsbD i = false →
            (12000 ≤ vIn → (t.group g).front.contact.getLsbD i = true)
            ∧ (vIn ≤ 5000 → (t.group g).front.contact.getLsbD i = false)
            ∧ (5000 < vIn → vIn < 12000 → (t.group g).front.contact.getLsbD i = (s.group g).front.contact.getLsbD i))) ∧
    (∀ i : Fin 16, g.val < 8 → (s.group g).front.eolMask.getLsbD i = true →
      ∃ t, exec (.lineBreak g i) s = .next t ∧ (t.group g).front.breakMask.getLsbD i = true
        ∧ (t.group g).front.commonFault = true) ∧
    (g.val < 8 → ∃ t, exec (.feedOutOfRange g) s = .next t ∧ (t.group g).front.feedFault = true
      ∧ (t.group g).front.commonFault = true) ∧
    ((s.group g).front.causePresent g = false → ∃ t, exec (.commonFaultClear g) s = .next t
      ∧ (t.group g).front.commonFault = false) ∧
    (∀ pass, ∃ t, exec (.frontEndSelftest g pass) s = .next t ∧ (t.group g).front.selftestFail = !pass
      ∧ (pass = false → (t.group g).front.commonFault = true) ∧ (t.group g).front.raw = (s.group g).front.raw) ∧
    (∀ present, ∃ t, exec (.frontEndSupplyFault g present) s = .next t ∧ (t.group g).front.supplyFault = present
      ∧ (present = true → (t.group g).front.commonFault = true))) ∧
  (∀ (s : State) (g : GroupIx), s.frontOn g = true →
    ((s.group g).flags.commonFault = false →
      ∃ t, exec (.inputGroupFault g) s = .next t ∧ (t.group g).flags.commonFault = true ∧ (t.group g).flags.faultSeen = true
        ∧ (t.group g).commonFaults = satInc 16 (s.group g).commonFaults) ∧
    ((s.group g).flags.commonFault = true →
      ∃ t, exec (.inputGroupFaultClear g) s = .next t ∧ (t.group g).flags.commonFault = false
        ∧ (t.group g).flags.faultSeen = (s.group g).flags.faultSeen) ∧
    ((s.group g).flags.valid = false → (s.group g).flags.applied = true →
      ∃ t, exec (.groupValid g) s = .next t ∧ (t.group g).flags.valid = true ∧ (t.group g).validRun = 16) ∧
    ((s.group g).flags.valid = true → s.power.mode = .run →
      ∃ t, exec (.groupInvalid g) s = .next t ∧ (t.group g).flags.valid = false ∧ (t.group g).validRun = 0
        ∧ (t.group g).invalidations = satInc 16 (s.group g).invalidations ∧ (t.group g).raw = (s.group g).raw))

/-- A downlink frame with a bad CRC, another group or a number out of order changes no output, ends the run and keeps the
last number; a valid one stores its settings word, and word 15 applies the settings when the words' sum equals it. An
uplink frame with a bad CRC is counted in CRC_ERRORS; a bad one keeps the raw word and ends the run of valid frames; a
valid one is taken with its number. What a downlink frame carries is assembled from the state (log entry 34); the
contents of an uplink frame are operands (log entry 33). Basis: R328, R329, R330. -/
def Obligations.IsolationLink : Prop :=
  ∀ (s : State) (g : GroupIx), s.frontOn g = true →
    (∀ (group seq index : BitVec 4),
      (∀ crcOk, crcOk = false ∨ group.toNat ≠ g.val ∨ seqValid (s.group g).front.downSeq (s.group g).front.downBad seq.toNat = false →
        ∃ t, exec (.downlinkFrame g group seq crcOk index) s = .next t ∧ (t.group g).front.downBad = true
          ∧ (t.group g).front.downRun = 0 ∧ (t.group g).front.downSeq = (s.group g).front.downSeq ∧ t.outs = s.outs) ∧
      (group.toNat = g.val → seqValid (s.group g).front.downSeq (s.group g).front.downBad seq.toNat = true → g.val ≠ 8 →
        ∃ t, exec (.downlinkFrame g group seq true index) s = .next t ∧ (t.group g).front.downBad = false
          ∧ (t.group g).front.downSeq = some seq.toNat ∧ (t.group g).front.downRun = min 16 ((s.group g).front.downRun + 1)
          ∧ (index.toNat < 15 → (t.group g).front.words = (s.group g).front.words.set index.toNat (settingsWord s.cfg g index.toNat))
          ∧ (index.toNat = 15 → (s.group g).front.words.foldl (· + ·) 0 % 65536 = settingsWord s.cfg g 15 →
              (t.group g).front.applied = true
                ∧ (t.group g).front.polarity = BitVec.ofNat 16 ((s.group g).front.words.getD 0 0)))) ∧
    (s.power.mode = .run → ∀ (group seq : BitVec 4) (raw : BitVec 16) (flags : BitVec 8),
      (∃ t, exec (.isolationUplinkFrame g group seq false raw flags) s = .next t ∧ (t.group g).bad = true
        ∧ (t.group g).validRun = 0 ∧ (t.group g).crcErrors = satInc 32 (s.group g).crcErrors ∧ (t.group g).raw = (s.group g).raw) ∧
      (group.toNat ≠ g.val ∨ seqValid (s.group g).lastSeq (s.group g).bad seq.toNat = false →
        ∃ t, exec (.isolationUplinkFrame g group seq true raw flags) s = .next t ∧ (t.group g).bad = true
          ∧ (t.group g).validRun = 0 ∧ (t.group g).crcErrors = (s.group g).crcErrors ∧ (t.group g).raw = (s.group g).raw) ∧
      (group.toNat = g.val → seqValid (s.group g).lastSeq (s.group g).bad seq.toNat = true →
        ∃ t, exec (.isolationUplinkFrame g group seq true raw flags) s = .next t ∧ (t.group g).bad = false
          ∧ (t.group g).lastSeq = some seq.toNat))

/-- An output trip switches the output off, marks and counts it and leaves every output but its partner; a retry finds it
on and clears the mark, or turns it on again; the end of the output hold marks it without a change of output; a lost
downlink enters the safe states and is counted. When OUT_TRIPPED clears is the model's reading (log entry 35). That
the command is the occurrence itself, and not its time, is the model's choice (log entry 2). Basis: R332, R344, R345. -/
def Obligations.OutputsTripAndRetry : Prop :=
  ∀ s : State, s.fieldOn = true →
    (∀ k : OutIx, s.outs.on.getLsbD k = true →
      ∃ t, exec (.outputTrip k) s = .next t ∧ t.outs.on.getLsbD k = false ∧ t.outs.tripped.getLsbD k = true
        ∧ t.outs.tripSeen.getLsbD k = true ∧ t.outs.trips = s.outs.trips.set k (satInc 16 (s.outs.trips.getD k 0))
        ∧ ∀ j : OutIx, j ≠ k → outPartner s.cfg k ≠ some j → t.outs.on.getLsbD j = s.outs.on.getLsbD j) ∧
    (∀ k : OutIx, s.outs.tripped.getLsbD k = true →
      (s.outs.on.getLsbD k = true →
        ∃ t, exec (.outputRetry k) s = .next t ∧ t.outs.tripped.getLsbD k = false ∧ t.outs.on = s.outs.on) ∧
      (s.outs.on.getLsbD k = false → s.outs.taken.getLsbD k = true → s.outs.safe = false → s.config.inForce = true →
        ∃ t, exec (.outputRetry k) s = .next t ∧ t.outs.on.getLsbD k = true ∧ t.outs.tripped = s.outs.tripped)) ∧
    (s.outs.held = true → ∃ t, exec .outputHoldTimeout s = .next t ∧ t.outs.heldOut = true ∧ t.outs.on = s.outs.on) ∧
    (s.outs.safe = false → ∃ t, exec .downlinkLost s = .next t ∧ t.outs.safe = true ∧ t.outs.losses = satInc 16 s.outs.losses
      ∧ t.train.front.downLost = true ∧ t.train.front.downRun = 0)

/-- While the application runs: half a watchdog period marks it and a full one ends it FAULTED with cause 1, counted; an
exception ends it with cause 3; a kick restarts the period; a read of TMR_NOW_LO latches the high half; a write of a
timer's control starts it from its load and clears FIRED; an expiry sets FIRED and reloads or stops; an access outside
the rights is counted and recorded and changes nothing else. That the command is the occurrence itself, and not its
time, is the model's choice (log entry 2). Basis: R574, R577, R578, R583. -/
def Obligations.ApplicationEngine : Prop :=
  ∀ (s : State), s.appRuns = true →
    (s.cfg.appWdTime ≠ 0 →
      (∃ t, exec .appWatchdogHalf s = .next t ∧ t.engines.app = { s.engines.app with wdHalf := true }) ∧
      (∃ t, exec .appWatchdogExpiry s = .next t ∧ t.engines.app.state = .faulted ∧ t.engines.app.cause = 1
        ∧ t.engines.app.faults = satInc 16 s.engines.app.faults ∧ t.engines.expiries = s.engines.expiries.set 11 (satInc 16 s.engines.expiries[11]))) ∧
    (∃ t, exec .appException s = .next t ∧ t.engines.app.state = .faulted ∧ t.engines.app.cause = 3
      ∧ t.engines.app.faults = satInc 16 s.engines.app.faults) ∧
    (∃ t, exec .tmrNowLoRead s = .next t ∧ t.engines.app = { s.engines.app with nowHi := s.now / 2 ^ 32 % 2 ^ 32 }) ∧
    (∀ v, ∃ t, exec (.tmrWdKick v) s = .next t ∧ t.engines.app = { s.engines.app with wdKick := s.mono, wdHalf := false }) ∧
    (∀ (k : Fin 4) (v : BitVec 32), ∃ t, exec (.tmrCtrlWrite k v) s = .next t
      ∧ t.engines.app.timers[k].en = v.getLsbD 0 ∧ t.engines.app.timers[k].periodic = v.getLsbD 1
      ∧ t.engines.app.timers[k].fired = (s.engines.app.timers[k].fired && !v.getLsbD 2)
      ∧ (v.getLsbD 0 = true → s.engines.app.timers[k].en = false → t.engines.app.timers[k].count t.mono = max 1 s.engines.app.timers[k].load)
      ∧ (s.engines.app.timers[k].en = true → t.engines.app.timers[k].span = s.engines.app.timers[k].span)
      ∧ ∀ j : Fin 4, j ≠ k → t.engines.app.timers[j] = s.engines.app.timers[j]) ∧
    (∀ k : Fin 4, s.power.on 4 = true → s.engines.app.timers[k].en = true →
      ∃ t, exec (.appTimerExpiry k) s = .next t ∧ t.engines.app.timers[k].fired = true
        ∧ t.engines.app.timers[k].en = s.engines.app.timers[k].periodic
        ∧ (s.engines.app.timers[k].periodic = true → t.engines.app.timers[k].count t.mono = max 1 s.engines.app.timers[k].load)) ∧
    (∀ (a : BitVec 32), ∃ t, exec (.outOfRightsAccess a) s = .next t
      ∧ t.engines.app = { s.engines.app with violations := satInc 32 s.engines.app.violations, lastViolation := a.toNat })

/-- A write to writable memory stores its bytes, lowest first, and leaves every other byte; elsewhere it is a counted
violation. A post of a free slot with a length from 20 to 1,028 makes it busy and queues it, and any other is counted;
an acknowledgement frees the named inbound slots; the mirror is refreshed with its sequence; the next packet of
session 5 fills the next free inbound slot and no slot out of order. Basis: R10, R573, R574, R576, R579, R580, R581. -/
def Obligations.AppMemoryAndMailbox : Prop :=
  ∀ (s : State), s.appRuns = true → s.engines.memOk →
    (∀ (a v : BitVec 32) (w : AccessWidth), ¬(0x40000000 ≤ a.toNat ∧ a.toNat < 0x40005000 ∧ w = .word ∧ a.toNat % 4 = 0) →
      (memWritable a.toNat w.bytes = true → ∃ t, exec (.registerWrite a w v) s = .next t
        ∧ t.engines.app.mem.readMany a.toNat w.bytes = le w.bytes (v.toNat % 2 ^ (8 * w.bytes))
        ∧ t.engines.app.violations = s.engines.app.violations
        ∧ ∀ q, q < a.toNat ∨ a.toNat + w.bytes ≤ q → t.engines.app.mem.read q = s.engines.app.mem.read q) ∧
      (memWritable a.toNat w.bytes = false → ∃ t, exec (.registerWrite a w v) s = .next t
        ∧ t.engines.app = { s.engines.app with violations := satInc 32 s.engines.app.violations, lastViolation := a.toNat })) ∧
    (∀ v : BitVec 32, let k : Fin 4 := Fin.ofNat 4 (v.toNat % 4); let len := v.toNat / 65536 % 2048
      (s.engines.app.outBusy[k] = false → 20 ≤ len → len ≤ 1028 → ∃ t, exec (.mbxPost v) s = .next t
        ∧ t.engines.app.outBusy[k] = true ∧ t.engines.app.posts = s.engines.app.posts ++ [(k, len)]
        ∧ t.engines.app.postErrors = s.engines.app.postErrors) ∧
      (s.engines.app.outBusy[k] = true ∨ len < 20 ∨ 1028 < len → ∃ t, exec (.mbxPost v) s = .next t
        ∧ t.engines.app = { s.engines.app with postErrors := satInc 32 s.engines.app.postErrors })) ∧
    (∀ mask : BitVec 32, ∃ t, exec (.mbxAck mask) s = .next t ∧ ∀ k : Fin 4, t.engines.app.inLen[k] = if mask.getLsbD k then 0 else s.engines.app.inLen[k]) ∧
    (s.commsRuns = true → ∃ t, exec .mirrorRefresh s = .next t ∧ t.engines.app.mirror = s.mirrorBytes
      ∧ t.engines.app.mirrorSeq = (s.engines.app.mirrorSeq + 2) % 2 ^ 32) ∧
    (∀ p rest, s.fcp.sessions[(5 : SessIx)].txQueue = p :: rest → s.commsRuns = true → s.engines.app.inLen[s.engines.app.inNext] = 0 →
      ∃ t, exec .mbxInboundFill s = .next t ∧ t.engines.app.inLen[s.engines.app.inNext] = p.bytes.length
        ∧ t.engines.app.mem = s.engines.app.mem.writeMany (inBase + 0x800 * s.engines.app.inNext.val) p.bytes
        ∧ t.engines.app.inNext = Fin.ofNat 4 (s.engines.app.inNext.val + 1)
        ∧ t.fcp.sessions[(5 : SessIx)].txQueue = (s.fcp.sessions[(5 : SessIx)].sendNext).txQueue)

/-- A completion of the source on top pops the stack and one of a source that is not active is ignored and counted;
INTC_CTRL sets GROUP_WIDTH, at most 8, while nothing is stacked. A delivery pushes the source with its priority,
enters its vector with mcause 0x8000000B and clears MIE: for the application engine where the winner of the
arbitration outranks the group in service and fewer than eight are stacked, for another engine a source routed to it.
The saved program counter is a free value (log entry 61), and the moment of delivery is the command (log entry 81).
Basis: R588, R589, R590, R592. -/
def Obligations.InterruptController : Prop :=
  ∀ (s : State) (e : Engine), s.engineRuns e = true →
    (∀ v : BitVec 32, let n : Fin 128 := Fin.ofNat 128 (v.toNat % 128); let view := s.engines.views[viewOf e]
      (view.active n = false → ∃ t, exec (.intcCompleteWrite e v) s = .next t
        ∧ t.engines.views[viewOf e] = { view with ignored := satInc 32 view.ignored }) ∧
      (∀ p rest, view.stack = (n, p) :: rest → ∃ t, exec (.intcCompleteWrite e v) s = .next t
        ∧ t.engines.views[viewOf e] = { view with stack := rest })) ∧
    (∀ v : BitVec 32, ∃ t, exec (.intcCtrlWrite e v) s = .next t
      ∧ t.engines.views[viewOf e].groupWidth = (if s.engines.views[viewOf e].stack = [] then (if 8 < v.toNat % 16 then 8 else v.toNat % 16)
          else s.engines.views[viewOf e].groupWidth)
      ∧ t.engines.views[viewOf e].stack = s.engines.views[viewOf e].stack) ∧
    (∀ (n : Fin 128) (p : BitVec 8), e = .app → s.engines.winner s.cfg s.asserted = some n →
      (s.engines.views[viewOf e].stack = [] ∨ ∃ m q rest, s.engines.views[viewOf e].stack = (m, q) :: rest ∧ rest.length < 7
        ∧ groupOf s.engines.views[viewOf e].groupWidth q < groupOf s.engines.views[viewOf e].groupWidth s.engines.prio[n].toNat) →
      ∃ t, exec (.interruptDelivery e n p) s = .next t
        ∧ t.engines.views[viewOf e].stack = (n, s.engines.prio[n].toNat) :: s.engines.views[viewOf e].stack
        ∧ t.engines.views[viewOf e].pc = s.engines.vec[n].toNat ∧ t.engines.views[viewOf e].mcause = 0x8000000B
        ∧ t.engines.views[viewOf e].mpie = true ∧ t.engines.views[viewOf e].mie = false) ∧
    (∀ (n : Fin 128) (p : BitVec 8), e ≠ .app → sourceTarget s.cfg n.val = some (viewOf e) → p ≠ 0 →
      s.engines.views[viewOf e].stack = [] →
      ∃ t, exec (.interruptDelivery e n p) s = .next t ∧ t.engines.views[viewOf e].stack = [(n, p.toNat)]
        ∧ t.engines.views[viewOf e].mcause = 0x8000000B ∧ t.engines.views[viewOf e].mpie = true
        ∧ t.engines.views[viewOf e].mie = false)

/-- A leaf engine's watchdog puts it in LOADING, or HELD at the third stop in an hour, and its doorway in FAULT with
FAULT_LEAF_ENGINE unless it is in FAULT, EGRESS or ISOLATED; the supervisor pair stops together, by watchdog or
mismatch, and its permits end; the comms engine's stop ends operations, closes sessions and leaves no commander. Each
restart runs the engine and is counted; a FAULTED application restarts itself while allowed. EGRESS and ISOLATED
keeping their state is the model's reading (log entry 80), as is what a comms stop does to operations (log entry 78).
Basis: R568, R569, R571, R572, R585. -/
def Obligations.EnginesStopAndRestart : Prop :=
  ∀ s : State,
    (∀ d : DoorIx, s.leafRuns d = true → let times := s.now :: lastHour s.now s.engines.leafTimes[d]
      ∃ t, exec (.leafWatchdogExpiry d) s = .next t
        ∧ t.engines.states[leafEngine d] = (if 3 ≤ times.length then .held else .loading)
        ∧ t.engines.leafTimes[d] = times
        ∧ t.engines.expiries[leafEngine d] = satInc 16 s.engines.expiries[leafEngine d]
        ∧ (s.cfg.isFitted d = true → s.doors[d].sm.state ≠ .fault → s.doors[d].sm.state ≠ .egress → s.doors[d].sm.state ≠ .isolated →
            t.doors[d].sm.state = .fault ∧ t.doors[d].sm.cause = .faultLeafEngine)) ∧
    (∀ d : DoorIx, s.engines.states[leafEngine d] = .loading →
      ∃ t, exec (.leafEngineRestart d) s = .next t ∧ t.engines.states[leafEngine d] = .running
        ∧ t.engines.restarts[leafEngine d] = satInc 16 s.engines.restarts[leafEngine d]) ∧
    (s.supvRuns = true → let times := s.now :: lastHour s.now s.engines.supvTimes
      (∃ t, exec .supvWatchdogExpiry s = .next t
        ∧ t.engines.states[(8 : Fin 12)] = (if 3 ≤ times.length then .held else .loading)
        ∧ t.engines.states[(9 : Fin 12)] = (if 3 ≤ times.length then .held else .loading)
        ∧ t.engines.expiries[(8 : Fin 12)] = satInc 16 s.engines.expiries[(8 : Fin 12)]
        ∧ t.engines.expiries[(9 : Fin 12)] = satInc 16 s.engines.expiries[(9 : Fin 12)]
        ∧ t.engines.mismatches = s.engines.mismatches ∧ t.loop.supvStopped = true) ∧
      (∃ t, exec .lockstepMismatch s = .next t
        ∧ t.engines.states[(8 : Fin 12)] = (if 3 ≤ times.length then .held else .loading)
        ∧ t.engines.states[(9 : Fin 12)] = (if 3 ≤ times.length then .held else .loading)
        ∧ t.engines.mismatches = satInc 16 s.engines.mismatches ∧ t.loop.supvStopped = true)) ∧
    (s.engines.states[(8 : Fin 12)] = .loading → ∃ t, exec .supvRestart s = .next t
      ∧ t.engines.states[(8 : Fin 12)] = .running ∧ t.engines.states[(9 : Fin 12)] = .running
      ∧ t.engines.restarts[(8 : Fin 12)] = satInc 16 s.engines.restarts[(8 : Fin 12)] ∧ t.loop.supvStopped = false) ∧
    (s.commsRuns = true → ∃ t, exec .commsWatchdogExpiry s = .next t ∧ t.engines.states[(10 : Fin 12)] = .loading
      ∧ t.fcp.ops = [] ∧ t.fcp.deferred = [] ∧ (∀ i : SessIx, t.fcp.sessions[i].state = .closed)
      ∧ ∀ d : DoorIx, t.fcp.commander[d] = none) ∧
    (s.engines.states[(10 : Fin 12)] = .loading → ∃ t, exec .commsRestart s = .next t
      ∧ t.engines.states[(10 : Fin 12)] = .running ∧ t.engines.restarts[(10 : Fin 12)] = satInc 16 s.engines.restarts[(10 : Fin 12)]) ∧
    (s.power.on 4 = true → s.engines.app.state = .faulted → s.cfg.appAutorestart = 1 →
      (lastHour s.now s.engines.app.restartTimes).length < 3 →
      ∃ t, exec .appAutorestart s = .next t ∧ t.engines.app.state = .running ∧ t.engines.app.cause = 0
        ∧ t.engines.app.restarts = satInc 16 s.engines.app.restarts)

/-- For a channel that is powered: the comms engine empties the queues and mirrors frames; bus-off clears the buffers and
is counted, recovery and integration end; basic cycles start and number on under TIME_BASE 1 and 3, lost references
are marked under 2; a transmit slot loads TXB0 with its object; a schedule is swapped in. A latest start aborts TXB0
and counts it, or makes TXB1 and TXB2 wait; a sent frame leaves its buffer with its counters; a received frame goes to
the queue its first matching filter names, and one that finds it full is counted. The owner of CAN1 loads, aborts,
pops and writes; without ownership it is a violation. Error counters follow the standard (log entry 57); times of
frames are as log entry 56 says. Basis: R469, R473, R474, R477, R480, R482, R483, R488, R490, R491, R496, R497. -/
def Obligations.CanChannelsAndFrames : Prop :=
  (∀ (s : State) (ch : CanIx), s.power.on 2 = true → let k := s.can.channels[ch]
    (s.commsRuns = true → s.cfg.canOwned ch = false → ∃ t, exec (.canQueueService ch) s = .next t
      ∧ t.can.channels[ch].rxq0.entries = [] ∧ t.can.channels[ch].rxq1.entries = []
      ∧ t.can.channels[ch].rxq0.overflows = k.rxq0.overflows
      ∧ ∀ x, k.rxq0.entries = [x] → k.rxq1.entries = [] → bitOf (s.cfg.filterCtrl ch x.filter.val) 3 = true →
          t.can.channels[ch].filters[x.filter].lastRx = frameBytes x.frame x.time) ∧
    (k.active = true →
      (k.busOff = false → ∃ t, exec (.canBusOff ch) s = .next t ∧ t.can.channels[ch].busOff = true
        ∧ t.can.channels[ch].busOffs = satInc 16 k.busOffs ∧ t.can.channels[ch].txb0 = TxBuffer.empty
        ∧ t.can.channels[ch].txb1 = TxBuffer.empty ∧ t.can.channels[ch].txb2 = TxBuffer.empty
        ∧ t.can.channels[ch].running = false ∧ t.can.channels[ch].recovering = decide (s.cfg.canBusoffAuto ch = 1)) ∧
      (k.busOff = true → k.recovering = true → ∃ t, exec (.canBusRecovered ch) s = .next t
        ∧ t.can.channels[ch] = { k with busOff := false, recovering := false, txErr := 0, rxErr := 0 }) ∧
      (k.integrating = true → ∃ t, exec (.canIntegrationComplete ch) s = .next t
        ∧ t.can.channels[ch] = { k with integrating := false }) ∧
      (k.integrating = false → k.busOff = false →
        (schedBase k.live = 3 → ∃ t, exec (.basicCycleStart ch) s = .next t ∧ t.can.channels[ch].running = true
          ∧ t.can.channels[ch].syncLost = false ∧ t.can.channels[ch].cycle = some ⟨match k.cycle with
              | some b => (b.number + 1) % max 1 (schedCycles k.live)
              | none => 0, s.mono⟩) ∧
        (schedBase k.live = 1 → ∃ t, exec (.basicCycleStart ch) s = .next t ∧ t.can.channels[ch].running = true
          ∧ t.can.channels[ch].cycle = some ⟨s.now / max 1 (schedLength k.live) % max 1 (schedCycles k.live),
              s.now / max 1 (schedLength k.live) * max 1 (schedLength k.live)⟩) ∧
        (schedBase k.live = 2 → k.syncLost = false → ∃ t, exec (.schedSyncLost ch) s = .next t
          ∧ t.can.channels[ch].syncLost = true ∧ t.can.channels[ch].txb0 = TxBuffer.empty) ∧
        (∀ slot : BitVec 8, k.syncLost = false → schedBase k.live ≠ 0 → slot.toNat < schedSlots k.live →
          ∀ b, k.cycle = some b → slot.toNat ≠ 0 → cellKind (schedCell k.live b.number slot.toNat) = 1 →
            let m := cellObject (schedCell k.live b.number slot.toNat)
            s.cfg.dataSource m ≠ 3 → ∃ t, exec (.slotTxb0Load ch slot) s = .next t
              ∧ t.can.channels[ch].txb0.object = some m ∧ (∃ x, t.can.channels[ch].txb0.frames = [x] ∧ x.id = s.cfg.objId m % 2 ^ 29)
              ∧ t.can.channels[ch].txb1 = k.txb1 ∧ t.can.channels[ch].txb2 = k.txb2))) ∧
    (∀ b, k.loaded = some b → ∃ t, exec (.scheduleSwap ch) s = .next t ∧ t.can.channels[ch].live = b
      ∧ t.can.channels[ch].loaded = none ∧ t.can.channels[ch].modified = true ∧ t.can.channels[ch].cycle = none)) ∧
  (∀ (s : State) (ch : CanIx), s.power.on 2 = true → let k := s.can.channels[ch]
    (k.running = true → k.syncLost = false → schedBase k.live ≠ 0 →
      (∀ m, k.txb0.frames ≠ [] → k.txb0.object = some m → ∃ t, exec (.txLatestStart ch .txb0) s = .next t
        ∧ t.can.channels[ch].txb0 = TxBuffer.empty ∧ t.can.channels[ch].txMissed = satInc 32 k.txMissed
        ∧ t.can.objects[m].missed = satInc 32 s.can.objects[m].missed) ∧
      (k.txb1.frames ≠ [] → ∃ t, exec (.txLatestStart ch .txb1) s = .next t
        ∧ t.can.channels[ch] = { k with txb1 := { k.txb1 with waits := true } } ∧ t.can.objects = s.can.objects) ∧
      (k.txb2.frames ≠ [] → ∃ t, exec (.txLatestStart ch .txb2) s = .next t
        ∧ t.can.channels[ch] = { k with txb2 := { k.txb2 with waits := true } } ∧ t.can.objects = s.can.objects)) ∧
    (∀ ready : BitVec 3, k.goesFirst s.cfg ch ready = none → ∀ r, exec (.canFrameTransmitted ch ready r) s = .next s) ∧
    (∀ (ready : BitVec 3) (b : TxBuf) (x : CanFrame) (rest : List CanFrame), k.goesFirst s.cfg ch ready = some b →
      (k.buffer b).frames = x :: rest →
      (∃ t, exec (.canFrameTransmitted ch ready .complete) s = .next t ∧ (t.can.channels[ch].buffer b).frames = rest
        ∧ t.can.channels[ch].txFrames = satInc 32 k.txFrames
        ∧ ∀ m, (k.buffer b).object = some m → t.can.objects[m].txCount = satInc 32 s.can.objects[m].txCount
            ∧ t.can.objects[m].lastTx = s.now) ∧
      (∃ t, exec (.canFrameTransmitted ch ready .lostArbitration) s = .next t ∧ t.can = s.can)) ∧
    (k.active = true → k.integrating = false → k.busOff = false → ∀ x : CanFrame,
      (x.remote = true → ∃ t, exec (.canFrameReceived ch x) s = .next t ∧ t.can.channels[ch].rxFrames = satInc 32 k.rxFrames
        ∧ t.can.channels[ch].rxUnmatched = satInc 32 k.rxUnmatched) ∧
      (∀ f, x.remote = false → sessionOf s.cfg ch x = none → schedBase k.live ≠ 2 →
        filterNumbers.find? (fun f => filterMatches s.cfg ch f x) = some f → bitOf (s.cfg.filterCtrl ch f.val) 2 = false →
        k.rxq0.entries.length < 16 → ∃ t, exec (.canFrameReceived ch x) s = .next t
          ∧ t.can.channels[ch].rxq0.entries = k.rxq0.entries ++ [⟨x, s.now, f⟩]
          ∧ t.can.channels[ch].rxFrames = satInc 32 k.rxFrames
          ∧ t.can.channels[ch].filters[f].hits = satInc 32 k.filters[f].hits ∧ t.can.channels[ch].rxq1 = k.rxq1) ∧
      (∀ f, x.remote = false → sessionOf s.cfg ch x = none → schedBase k.live ≠ 2 →
        filterNumbers.find? (fun f => filterMatches s.cfg ch f x) = some f → bitOf (s.cfg.filterCtrl ch f.val) 2 = true →
        16 ≤ k.rxq1.entries.length → ∃ t, exec (.canFrameReceived ch x) s = .next t
          ∧ t.can.channels[ch].rxq1.entries = k.rxq1.entries ∧ t.can.channels[ch].rxq1.overflows = satInc 32 k.rxq1.overflows
          ∧ t.can.channels[ch].rxq0 = k.rxq0)) ∧
    (ch = 1 → s.appRuns = true →
      (s.cfg.canOwned 1 = true →
        (∀ v : BitVec 32, v.getLsbD 1 = true → v.getLsbD 2 = false → k.txb1.frames = [] → ∃ t, exec (.canTxreqWrite v) s = .next t
          ∧ t.can.channels[ch].txb1.frames = [frameOfBytes s.can.appTx[(0 : Fin 2)]] ∧ t.can.channels[ch].txb2 = k.txb2) ∧
        (∀ v : BitVec 32, ∃ t, exec (.canTxabortWrite v) s = .next t
          ∧ (v.getLsbD 1 = true → t.can.channels[ch].txb1 = TxBuffer.empty) ∧ (v.getLsbD 1 = false → t.can.channels[ch].txb1 = k.txb1)
          ∧ (v.getLsbD 2 = true → t.can.channels[ch].txb2 = TxBuffer.empty) ∧ (v.getLsbD 2 = false → t.can.channels[ch].txb2 = k.txb2)) ∧
        (∃ t, exec (.canRxqPop false) s = .next t ∧ t.can.channels[ch].rxq0.entries = k.rxq0.entries.drop 1
          ∧ t.can.channels[ch].rxq1 = k.rxq1) ∧
        (∃ t, exec (.canRxqPop true) s = .next t ∧ t.can.channels[ch].rxq1.entries = k.rxq1.entries.drop 1
          ∧ t.can.channels[ch].rxq0 = k.rxq0) ∧
        (∀ m v, s.cfg.dataSource m = 3 → s.cfg.objChannel m = 1 → ∃ t, exec (.canObjDataWrite m v) s = .next t
          ∧ t.can.objects[m].appData = patch s.can.objects[m].shadow 60 (le 4 v.toNat))) ∧
      (s.cfg.canOwned 1 = false → ∀ v, ∃ t, exec (.canTxreqWrite v) s = .next t ∧ t.can = s.can
        ∧ t.engines.app.violations = satInc 32 s.engines.app.violations ∧ t.engines.app.lastViolation = 0x40003008)))

/-- A frame with a bad check sequence, a foreign one, one of another EtherType, one out of hops, a duplicate, one at a
wrapped other port and an own beacon from another MAC address have the effect chapter 11 gives each. Insertion and
removal, beacons, node timeouts, ports down and up, the age of time and the clearing of conflicts and mismatches
change what their rules name and count it. Insertion starting wrapped, and when the age counts, are the model's
readings (log entries 52 and 53). Basis: R432, R433, R434, R436, R438, R439, R440, R442, R445, R447, R454, R455. -/
def Obligations.RingFramesAndUpkeep : Prop :=
  (∀ (s : State) (p : PortIx) (f : RingFrame), s.onRing = true → let own := s.cfg.ringAddress
    (f.fcsOk = false → ∃ t, exec (.ringFrameReceived p f) s = .next t
      ∧ t.ring = { s.ring with counters := if p = 0 then { s.ring.counters with fcsA := satInc 32 s.ring.counters.fcsA }
          else { s.ring.counters with fcsB := satInc 32 s.ring.counters.fcsB } }) ∧
    (f.fcsOk = true → (f.ringDest = false ∨ f.tagged = true) → ∃ t, exec (.ringFrameReceived p f) s = .next t
      ∧ t.ring = { s.ring with counters := { s.ring.counters with foreign := satInc 32 s.ring.counters.foreign } }) ∧
    (f.fcsOk = true → f.ringDest = true → f.tagged = false → f.etherType ≠ s.ringEnv.etherType →
      ∃ t, exec (.ringFrameReceived p f) s = .next t ∧ t.ring.etherConflict = true
        ∧ t.ring.counters.foreign = satInc 32 s.ring.counters.foreign ∧ t.ring.consistMismatch = true) ∧
    (f.fcsOk = true → f.ringDest = true → f.tagged = false → f.etherType = s.ringEnv.etherType → f.source ≠ own →
      (f.dest ≠ own → f.hops = 0 → ∃ t, exec (.ringFrameReceived p f) s = .next t
        ∧ t.ring = { s.ring with counters := { s.ring.counters with hopsExpired := satInc 32 s.ring.counters.hopsExpired } }) ∧
      (f.dest ≠ own → f.hops ≠ 0 → f.type = 4 → s.ring.wrapped = (false, false) → s.ring.up = (true, true) →
        isDuplicate (s.ring.window f.source) f.seq = true → ∃ t, exec (.ringFrameReceived p f) s = .next t
        ∧ t.ring.lastOut = some (otherPort p, { f with hops := f.hops - 1 })
        ∧ t.ring.counters.forwarded = satInc 32 s.ring.counters.forwarded
        ∧ t.ring.counters.duplicates = satInc 32 s.ring.counters.duplicates ∧ t.ring.windows = s.ring.windows) ∧
      (f.dest ≠ own → f.hops ≠ 0 → f.type = 4 → ofPort s.ring.wrapped p = false → ofPort s.ring.wrapped (otherPort p) = true →
        ∃ t, exec (.ringFrameReceived p f) s = .next t
        ∧ t.ring.lastOut = some (p, { f with hops := f.hops - 1, wrapped := true }))) ∧
    (f.fcsOk = true → f.ringDest = true → f.tagged = false → f.etherType = s.ringEnv.etherType → f.source = own →
      f.type = 1 → f.srcMac ≠ s.ringEnv.mac → s.ring.addressConflict = false → ∃ t, exec (.ringFrameReceived p f) s = .next t
        ∧ t.ring.addressConflict = true ∧ t.ring.consistMismatch = true ∧ t.ring.lastOut = s.ring.lastOut)) ∧
  (∀ s : State,
    ((s.ring.master = 0 ∨ s.ring.master = s.cfg.ringAddress) → ∃ t, exec .timeAgeCount s = .next t
      ∧ t.ring.timeAge = satInc 32 s.ring.timeAge) ∧
    (s.power.on 1 = true → s.config.inForce = true → s.cfg.ringEnable = 1 → s.ring.inserted = false →
      ∃ t, exec .ringInsertion s = .next t ∧ t.ring.inserted = true ∧ t.ring.wrapped = (true, true)
        ∧ t.ring.counters.relayCycles = satInc 32 s.ring.counters.relayCycles) ∧
    (s.onRing = true →
      (∃ t, exec .beaconTransmit s = .next t ∧ t.ring.frameSeq = (s.ring.frameSeq + 1) % 65536
        ∧ t.ring.sent = s.beaconBody s.nodeState (if s.commsRuns then s.beaconContent else s.ring.beacon)) ∧
      (∃ t, exec .ringRemoval s = .next t ∧ t.ring.inserted = false ∧ t.ring.nodes = [] ∧ t.ring.master = 0
        ∧ t.ring.frameSeq = (s.ring.frameSeq + 3) % 65536
        ∧ t.ring.sent = s.beaconBody 3 (if s.commsRuns then s.beaconContent else s.ring.beacon)) ∧
      (∀ a : BitVec 8, s.ring.nodes.any (fun n => n.addr == a.toNat) = true → ∃ t, exec (.nodeTimeout a) s = .next t
        ∧ t.ring.nodes = s.ring.nodes.filter (fun n => n.addr != a.toNat) ∧ t.ring.nodeLost = true
        ∧ t.ring.counters.nodeTimeouts = satInc 16 s.ring.counters.nodeTimeouts) ∧
      (∀ p : PortIx, ofPort s.ring.wrapped p = false → ∃ t, exec (.portDown p) s = .next t
        ∧ ofPort t.ring.wrapped p = true ∧ ofPort t.ring.up p = false ∧ t.ring.counters.wraps = satInc 16 s.ring.counters.wraps
        ∧ ofPort t.ring.wrapped (otherPort p) = ofPort s.ring.wrapped (otherPort p)) ∧
      (∀ p : PortIx, ofPort s.ring.wrapped p = true → ∃ t, exec (.portUp p) s = .next t
        ∧ ofPort t.ring.wrapped p = false ∧ ofPort t.ring.up p = true ∧ t.ring.counters.unwraps = satInc 16 s.ring.counters.unwraps
        ∧ ofPort t.ring.wrapped (otherPort p) = ofPort s.ring.wrapped (otherPort p)) ∧
      (s.ring.addressConflict = true → ∃ t, exec .addressConflictClear s = .next t ∧ t.ring = { s.ring with addressConflict := false }) ∧
      (s.ring.etherConflict = true → ∃ t, exec .ethertypeConflictClear s = .next t ∧ t.ring = { s.ring with etherConflict := false }) ∧
      (s.ring.consistMismatch = true → s.ring.consistCondition = false → ∃ t, exec .consistMismatchClear s = .next t
        ∧ t.ring.consistMismatch = false ∧ t.ring.counters.mismatches = satInc 16 s.ring.counters.mismatches) ∧
      (s.ring.versionMismatch = true → s.ring.versionCondition = false → ∃ t, exec .versionMismatchClear s = .next t
        ∧ t.ring = { s.ring with versionMismatch := false })))

/-- The hold-up takes over where a cartridge is fitted and else the module loses power; the reserve sheds D9; an exhausted
stack ends in loss of power with the loop open. A cartridge is taken up, measured, charged and removed with its
values. Power-up, precharge, a committed or failed entry and the wakes set mode, domains, counters and causes and
close sessions; a STABLE sample takes a raw word; each wake source latches its bit where enabled. Without a cartridge
a supply failure is a loss of power at once (log entry 65); power-up runs at once (log entry 59). That the command is
the occurrence itself, and not its time, is the model's choice (log entry 2). Basis: R334, R499, R539, R540, R544,
R545, R546, R548, R553, R554, R555, R556. -/
def Obligations.SupplyAndPowerStates : Prop :=
  (∀ s : State,
    (s.powered = true → s.power.holdup = false →
      (s.power.cart.fitted = true → ∃ t, exec .supplyFail s = .next t ∧ t.power.holdup = true ∧ t.power.supplyLow = true
        ∧ t.power.lowSince = some s.mono ∧ t.power.counters.holdupEvents = satInc 16 s.power.counters.holdupEvents
        ∧ (s.power.mode = .run → t.power.dcLink = 50400)) ∧
      (s.power.cart.fitted = false → ∃ t, exec .supplyFail s = .next t ∧ (∀ n, t.power.on n = decide (n.val = 0))
        ∧ t.loop.commanded = false ∧ ∀ i : SessIx, t.fcp.sessions[i].state = .closed)) ∧
    (s.power.holdup = true →
      (∃ t, exec .supplyReturn s = .next t ∧ t.power.holdup = false ∧ t.power.supplyLow = false ∧ t.power.reserve = false
        ∧ t.power.lowSince = none ∧ (s.power.reserve = true → t.power.on 9 = true)) ∧
      (s.power.reserve = false → s.power.mode = .run → ∃ t, exec .holdupReserveReached s = .next t ∧ t.power.reserve = true
        ∧ t.power.ready = false ∧ t.power.on 9 = false) ∧
      (s.power.mode = .run → ∃ t, exec .holdupExhausted s = .next t ∧ (∀ n, t.power.on n = decide (n.val = 0))
        ∧ t.loop.commanded = false ∧ t.power.counters.holdupResets = satInc 16 s.power.counters.holdupResets) ∧
      (s.power.mode = .stable → ∃ t, exec .stableHoldupTimeout s = .next t ∧ (∀ n, t.power.on n = decide (n.val = 0))
        ∧ t.loop.commanded = false)) ∧
    (s.power.cart.fitted = false → ∀ (serial : List Byte) (c e : BitVec 16), ∃ t, exec (.cartridgeInserted serial c e) s = .next t
      ∧ t.power.cart.fitted = true ∧ t.power.cart.serial = serial ∧ t.power.cart.fittedAt = s.now ∧ t.power.charging = true
      ∧ t.power.noHoldup = true ∧ t.power.cart.cap = c.toNat ∧ t.power.cart.capInitial = c.toNat
      ∧ t.power.cart.esr = e.toNat ∧ t.power.cart.esrInitial = e.toNat) ∧
    (s.power.cart.fitted = true →
      (s.power.holdup = false → ∃ t, exec .cartridgeRemoved s = .next t ∧ t.power.cart.fitted = false ∧ t.power.noHoldup = true
        ∧ t.power.charging = false) ∧
      (∃ t, exec .cartridgeCharged s = .next t ∧ t.power = { s.power with noHoldup := false, charging := false }) ∧
      (∀ c e : BitVec 16, ∃ t, exec (.cartridgeMeasure c e) s = .next t ∧ t.power.cart.cap = c.toNat ∧ t.power.cart.esr = e.toNat
        ∧ (s.power.cart.firstDue = false → t.power.cart.capInitial = s.power.cart.capInitial)
        ∧ t.power.cart.measures = (s.power.cart.measures ++ [(⟨s.now, c.toNat, e.toNat⟩ : CartMeasure)]).filter (fun m => decide (s.now ≤ m.time + 365 * dayUs))))) ∧
  (∀ s : State,
    (∀ a b c, ∃ t, exec (.powerUp a b c) s = .next t ∧ t.power.mode = .run ∧ t.power.lastWake = 0xFF ∧ t.power.noHoldup = true
      ∧ t.power.charging = s.power.cart.fitted ∧ t.power.ready = false ∧ (∀ n, t.power.on n = runDomain t.cfg n)
      ∧ ∀ i : SessIx, t.fcp.sessions[i].state = .closed) ∧
    (s.power.ready = false → s.power.on 9 = true → s.power.mode = .run → ∃ t, exec .prechargeComplete s = .next t
      ∧ t.power.ready = true ∧ t.power.domains = s.power.domains) ∧
    (∀ n, s.power.entry = some n →
      (n.aborted = false → s.entryReady n.target = true → ∃ t, exec .powerEntryCommit s = .next t ∧ t.power.mode = n.target
        ∧ t.power.entry = none ∧ (∀ k, t.power.on k = domainOn s.cfg n.target k)
        ∧ (n.target = .stable → t.power.counters.stable = satInc 16 s.power.counters.stable)
        ∧ (n.target = .hibernate → t.power.counters.hibernate = satInc 16 s.power.counters.hibernate)
        ∧ ∀ i : SessIx, t.fcp.sessions[i].state = .closed) ∧
      (s.flushWaits = true → ∃ t, exec (.powerEntryFailed 0x40) s = .next t ∧ t.power.entry = none ∧ t.power.lastRefuser = 0x40
        ∧ t.power.latched = 0 ∧ t.power.counters.refused = satInc 16 s.power.counters.refused ∧ t.power.mode = s.power.mode)) ∧
    (s.power.latched ≠ 0 →
      (s.power.mode = .stable → ∃ t, exec .wakeFromStable s = .next t ∧ t.power.mode = .run ∧ t.power.latched = 0
        ∧ t.power.lastWake = lowestCause s.power.latched ∧ (∀ n, t.power.on n = runDomain t.cfg n)) ∧
      (s.power.mode = .hibernate → ∀ a b, ∃ t, exec (.wakeFromHibernate a b) s = .next t ∧ t.power.mode = .run ∧ t.power.latched = 0
        ∧ t.power.lastWake = lowestCause s.power.latched ∧ (∀ n, t.power.on n = runDomain t.cfg n))) ∧
    (s.power.mode = .stable → s.fieldOn = true → ∀ (g : GroupIx) (raw : BitVec 16) (agree : Bool), s.frontOn g = true →
      ∃ t, exec (.stableSample [(g, raw, agree)]) s = .next t ∧ (t.group g).raw = shownRaw (s.group g) g raw
        ∧ ((s.group g).loaded = false ∨ ((s.group g).flags.valid = true ∧ agree = true) → (t.group g).filtered = shownRaw (s.group g) g raw)) ∧
    (∀ m, m = s.power.wakeState →
      (wakeMarked m 5 = true → bitOf s.cfg.wakeEnable 5 = true → bitOf s.power.latched 5 = false →
        ∃ t, exec .serviceLinkEnergy s = .next t ∧ t.power = { s.power with latched := s.power.latched + 32 }) ∧
      (s.power.wakeAt ≠ 0 → wakeMarked m 6 = true → bitOf s.cfg.wakeEnable 6 = true → bitOf s.power.latched 6 = false →
        ∃ t, exec .wakeAlarm s = .next t ∧ t.power = { s.power with latched := s.power.latched + 64 }) ∧
      (∀ ch : CanIx, s.power.mode = .stable → s.cfg.canWake ch = 1 → wakeMarked m 4 = true → bitOf s.cfg.wakeEnable 4 = true →
        bitOf s.power.latched 4 = false →
        ∃ t, exec (.canWakePattern ch) s = .next t ∧ t.power = { s.power with latched := s.power.latched + 16 }) ∧
      (∀ n : Fin 128, watchedIn s.cfg s.power.mode n.val = true → bitOf s.cfg.wakeEnable 8 = true →
        wakeMarked m 8 = true → bitOf s.power.latched 8 = false →
        ∀ bits, bits = bitWord ((List.range 16).map (fun k => decide (s.cfg.watchSel k = n.val))) → bits ≠ 0 →
          ∃ t, exec (.watcherSource n) s = .next t
            ∧ t.power = { s.power with watchFired := s.power.watchFired ||| bits, latched := s.power.latched + 256 })))

/-- A flush starts with the records and incidents staged so far and keeps all; its end makes them durable, counts it and
starts a further one where one was queued; without hold-up a staged record is due at once. A complete incident gets
the next ISEQ, all 2,000 samples, the first as recorded, and is staged. The end of an erase completes its operation
with the number erased and the first ISEQ left. Samples not yet recorded are free values (log entry 45). That the
command is the occurrence itself, and not its time, is the model's choice (log entry 2). Basis: R509, R511, R513,
R516, R526. -/
def Obligations.RecorderFlushes : Prop :=
  ∀ s : State,
    (s.commsRuns = true → s.power.on 7 = true →
      (s.log.flush = none → ∃ t, exec .flushStart s = .next t ∧ t.log.due = false ∧ t.log.staged = s.log.staged ∧ t.log.log = s.log.log
        ∧ t.log.flush = some { rseq := s.log.nextRseq, iseq := s.log.nextIseq, further := false }) ∧
      (∀ f, s.log.flush = some f →
        (∃ t, exec .flushStart s = .next t ∧ t.log.flush = some { f with further := true }) ∧
        (∀ us, ∃ t, exec (.flushComplete us) s = .next t ∧ t.log.staged = s.log.staged.filter (fun n => decide (f.rseq ≤ n))
          ∧ (∀ n ∈ s.log.staged, n < f.rseq → n ≤ t.log.durableRseq) ∧ s.log.durableRseq ≤ t.log.durableRseq
          ∧ t.log.lastFlush = s.now ∧ t.log.lastFlushTime = satTo 32 us ∧ t.log.flushes = satInc 32 s.log.flushes
          ∧ t.log.flush.isSome = f.further ∧ t.log.log = s.log.log))) ∧
    (s.power.on 7 = true →
      (s.power.noHoldup = true → s.log.flush = none → s.log.staged ≠ [] ∨ s.log.stagedInc ≠ [] →
        ∃ t, exec .flushEachRecord s = .next t ∧ t.log.due = true ∧ t.log.staged = s.log.staged) ∧
      (∀ (slot : Fin 9) (i : Incident), s.log.opened[slot] = some i → i.samples.length ≤ 2000 → s.log.stagedBytes + 16384 ≤ 262144 →
        ∃ t, exec (.incidentComplete slot) s = .next t ∧ t.log.opened[slot] = none ∧ t.log.nextIseq = s.log.nextIseq + 1
          ∧ t.log.stagedInc = s.log.stagedInc ++ [s.log.nextIseq] ∧ t.log.due = true
          ∧ ∃ j, t.log.journal = s.log.journal ++ [(s.log.nextIseq, j)] ∧ j.samples.length = 2000 ∧ j.cause = i.cause
            ∧ (∀ k, k < i.samples.length → j.samples[k]? = i.samples[k]?))) ∧
    (∀ e, s.log.erase = some e → ∃ t, exec .eraseClearComplete s = .next t ∧ t.log.erase = none ∧ t.log.journal = s.log.journal
      ∧ t.log.firstIseq = s.log.firstIseq
      ∧ ∀ o, s.fcp.ops.find? (fun o => o.handle == e.handle && o.state == .running) = some o →
        ∃ p ∈ t.fcp.ops, p.handle = e.handle ∧ p.state = .complete ∧ p.status = stDone
          ∧ p.result = le 4 e.erased ++ le 4 s.log.firstIseq ++ le 4 (satTo 32 ((s.mono - e.since) / 1000)))

/-- A partial CAN packet is discarded and counted; an OPEN session falls SILENT with everything kept; a SILENT one expires
to CLOSED, gives up its doorways and its stores and ends no operation; the next packet leaves the transmit queue where
its transport can send; held and complete results are released by handle; the authentication lock ends. That the
command is the occurrence itself, and not its time, is the model's choice (log entry 2). Basis: R356, R370, R373,
R376, R382, R389. -/
def Obligations.SessionTimers : Prop :=
  ∀ (s : State) (i : SessIx),
    (∀ p, s.fcp.sessions[i].partialIn = some p → ∃ t, exec (.canPartialTimeout i) s = .next t ∧ t.fcp.sessions[i].partialIn = none
      ∧ t.fcp.counters.discarded = satInc 32 s.fcp.counters.discarded ∧ ∀ j, j ≠ i → t.fcp.sessions[j] = s.fcp.sessions[j]) ∧
    (s.commsRuns = true →
      (s.fcp.sessions[i].state = .opened → ∃ t, exec (.sessionSilentTimeout i) s = .next t
        ∧ t.fcp.sessions[i] = { s.fcp.sessions[i] with state := .silent } ∧ t.fcp.commander = s.fcp.commander ∧ t.fcp.ops = s.fcp.ops) ∧
      (s.fcp.sessions[i].state = .silent → ∃ t, exec (.sessionExpiryTimeout i) s = .next t ∧ t.fcp.sessions[i].state = .closed
        ∧ (∀ d : DoorIx, t.fcp.commander[d] = if s.fcp.commander[d] = some i then none else s.fcp.commander[d])
        ∧ t.fcp.sessions[i].replies = [] ∧ t.fcp.sessions[i].lastDack = 0 ∧ t.fcp.sessions[i].authenticated = false
        ∧ t.fcp.ops = s.fcp.ops) ∧
      (∀ p rest, s.fcp.sessions[i].txQueue = p :: rest →
        i = 4 ∨ (s.cfg.sessTransport i = 1 ∧ s.onRing = true)
          ∨ (s.power.on 2 = true ∧ ∃ ch : CanIx, s.cfg.sessTransport i = 2 + ch.val ∧ (s.can.channels[ch].free s.cfg ch).isSome = true) →
        ∃ t, exec (.txQueueSend i) s = .next t ∧ t.fcp.sessions[i].lastSent = some p
          ∧ t.fcp.sessions[i].txQueue = rest ++ s.fcp.sessions[i].txWaiting.take 1
          ∧ t.fcp.sessions[i].txWaiting = s.fcp.sessions[i].txWaiting.drop 1)) ∧
    (∀ handle : BitVec 16,
      (∃ t, exec (.resultHoldEnd handle) s = .next t
        ∧ t.fcp.ops = s.fcp.ops.filter (fun o => !(decide (o.handle = handle.toNat) && decide (o.state = .held)))) ∧
      (∃ t, exec (.resultDiscardTimeout handle) s = .next t
        ∧ t.fcp.ops = s.fcp.ops.filter (fun o => !(decide (o.handle = handle.toNat) && decide (o.state = .complete))))) ∧
    (∃ t, exec (.authLockEnd i) s = .next t ∧ t.fcp.sessions[i] = { s.fcp.sessions[i] with authLocked := false })

/-- The engine that is due starts its update: a leaf engine with its doorway in MAINT, the supervisor pair with the loop
keeper alone and outputs held, the comms engine with its sessions PAUSED. A wait too long refuses or rolls back. A
finished engine runs and joins those updated, a failed one starts the roll-back; the comms engine's success makes the
other bank active, keeps the previous and counts the activation. Roll-backs follow log entry 75. That the command is
the occurrence itself, and not its time, is the model's choice (log entry 2). Basis: R612, R613, R615, R616. -/
def Obligations.EngineUpdates : Prop :=
  ∀ (s : State) (a : Activation), s.service.fw.activation = some a →
    (a.live = true → a.current = none →
      (∀ d : DoorIx, a.due s.leafOn = some (.leaf d) → s.leafReady d = true → ∃ t, exec (.leafEngineUpdate d) s = .next t
        ∧ t.engines.states[leafEngine d] = .updating ∧ t.service.fw.activation = some { a with current := some (.leaf d) }
        ∧ (s.cfg.isFitted d = true → t.doors[d].sm.state = .maint ∧ t.doors[d].sm.cause = .maintUpdate)) ∧
      (a.due s.leafOn = some .supv → s.supvReady = true → ∃ t, exec .supvUpdate s = .next t
        ∧ t.engines.states[(8 : Fin 12)] = .updating ∧ t.engines.states[(9 : Fin 12)] = .updating ∧ t.loop.supvStopped = true
        ∧ (t.loop.alone.map (fun k => k.reason)) = some .update ∧ t.outs.held = true
        ∧ t.service.fw.activation = some { a with current := some .supv }) ∧
      (a.due s.leafOn = some .comms → s.commsRuns = true → s.config.commit = none → s.log.erase = none →
        ∃ t, exec .commsUpdate s = .next t ∧ t.engines.states[(10 : Fin 12)] = .updating
          ∧ t.service.fw.activation = some { a with current := some .comms }
          ∧ ∀ i : SessIx, t.fcp.sessions[i] =
            if s.fcp.sessions[i].state = .opened ∨ s.fcp.sessions[i].state = .silent then
              { s.fcp.sessions[i] with before := s.fcp.sessions[i].state, state := .paused }
            else s.fcp.sessions[i])) ∧
    (a.current = none → a.rolling = none → ∃ t, exec .updateWaitTimeout s = .next t
      ∧ t.service.fw.activation = if a.updated = [] then none else some { a with rolling := some { status := stRefused, reason := 0x30, failed := 0xFF } }) ∧
    (∀ x, a.current = some x → ∀ (ok : Bool) (b : Activation),
      b = (if a.rolling = none ∧ ok = false then
          { a with current := none, rolling := some { status := stRefused, reason := 0x66, failed := x.number } }
        else if a.rolling = none then { a with current := none, updated := a.updated ++ [x] }
        else { a with current := none, updated := a.updated.filter (fun y => y != x) }) →
      (∀ d : DoorIx, x = .leaf d → ∃ t, exec (.leafEngineUpdateDone d ok) s = .next t ∧ t.engines.states[leafEngine d] = .running
        ∧ t.service.fw.activation = if b.rolling.isSome && b.updated.isEmpty then none else some b) ∧
      (x = .supv → ∃ t, exec (.supvUpdateDone ok) s = .next t ∧ t.engines.states[(8 : Fin 12)] = .running
        ∧ t.engines.states[(9 : Fin 12)] = .running ∧ t.loop.supvStopped = false ∧ t.loop.alone = none ∧ t.outs.held = false
        ∧ t.service.fw.activation = if b.rolling.isSome && b.updated.isEmpty then none else some b) ∧
      (x = .comms → ∃ t, exec (.commsUpdateDone ok) s = .next t ∧ t.engines.states[(10 : Fin 12)] = .running
        ∧ (a.rolling = none → ok = true → t.service.fw.activation = none ∧ t.service.fw.active = s.service.fw.other
          ∧ t.service.fw.previous = true ∧ t.service.fw.staged = false
          ∧ t.service.fw.activations = satInc 16 s.service.fw.activations)))

/-- At a safe point a waiting commit swaps the images, and a restart activation switches every domain but KEEP off with
the other bank active. A commit whose safe point does not come is refused with 0x30, counted, and keeps the image in
force. A module selftest that completes names the failed tests and ends its operation. What the hardware tests find
are operands (log entry 100). That the command is the occurrence itself, and not its time, is the model's choice (log
entry 2). Basis: R410, R617, R618. -/
def Obligations.SafePointAndSelfTest : Prop :=
  ∀ s : State,
    (s.atSafePoint = true →
      (∀ m, s.config.commit = some m → ∃ t, exec .safePointFound s = .next t ∧ t.config = s.config.swap s.now) ∧
      (∀ a, s.config.commit = none → s.service.fw.activation = some a → a.live = false → a.rolling = none →
        ∃ t, exec .safePointFound s = .next t ∧ (∀ n, t.power.on n = decide (n.val = 0)) ∧ t.loop.commanded = false
          ∧ t.service.fw.active = s.service.fw.other ∧ t.service.fw.previous = true
          ∧ t.service.fw.activations = satInc 16 s.service.fw.activations)) ∧
    (∀ m, s.config.commit = some m → ∃ t, exec .safePointTimeout s = .next t ∧ t.config.commit = none
      ∧ t.config.timeouts = satInc 16 s.config.timeouts ∧ t.config.refusals = satInc 16 s.config.refusals
      ∧ t.config.active = s.config.active ∧ t.config.cfg = s.config.cfg
      ∧ ∀ o, s.fcp.ops.find? (fun o => o.handle == m.handle && o.state == .running) = some o →
        ∃ p ∈ t.fcp.ops, p.handle = m.handle ∧ p.state = .complete ∧ p.status = stRefused ∧ p.reason = 0x30) ∧
    (∀ q, s.service.selftest = some q → ∀ (failed : BitVec 16) (legs : List (Fin 4 × Fin 14)) (latency : BitVec 16),
      ∃ t, exec (.selftestComplete failed legs latency) s = .next t ∧ t.service.selftest = none ∧ t.service.testLast = s.now
        ∧ ((∀ d : DoorIx, q.doors[d] = false) → bitOf q.tests 5 = false →
          t.service.testFailed = bitWord [false, false, bitOf q.tests 2 && bitOf failed.toNat 2, bitOf q.tests 3 && !s.service.fw.banksPass,
            bitOf q.tests 4 && bitOf failed.toNat 4, false]
          ∧ ∀ o, s.fcp.ops.find? (fun o => o.handle == q.handle && o.state == .running) = some o →
            ∃ p ∈ t.fcp.ops, p.handle = q.handle ∧ p.state = .complete ∧ p.status = if q.aborted then stAborted else stDone))

/-- SESSION_STATE, EVENT_REPLAY, OBJ_READ, CFG_READ, IDENTITY, DOOR_STATUS, SWITCH_STATUS, IO_READ, LOG_DRAIN,
INCIDENT_READ, LOG_STATUS, POWER_STATUS, POWER_ACCOUNTS, RING_STATUS, CONSIST_VIEW and CAN_STATUS (LOG_STATUS as long
as its flag bit 0 is clear): after the checks of Table 9.6 each stores and sends the reply its home chapter gives,
and, but for EVENT_REPLAY, changes nothing but the session's own records. Measured quantities in payloads are free
values (log entry 4). Basis: R58, R309, R347, R371, R383, R422, R423, R462, R498, R522, R527, R559. -/
def Obligations.ReadsAnswerWhatTheStateHolds : Prop :=
  (∀ (s : State) (h : Hdr) (i : SessIx) (q : Req), s.Admits h i q →
    (q = Req.sessionState [] → ∃ t, exec (.sessionState h) s = .next t ∧ s.Unmoved t
      ∧ t.Answered i h q (Answer.done ((s.admitted h i).statePayload i))) ∧
    (∀ (dseq : BitVec 16) (n : BitVec 8), q = Req.eventReplay (le 2 dseq.toNat ++ le 1 n.toNat ++ le 1 0) dseq.toNat n.toNat →
      ∃ t, exec (.eventReplay h dseq n) s = .next t
        ∧ t.Answered i h q (Answer.done ((s.admitted h i).fcp.sessions[i].replay dseq.toNat n.toNat))
        ∧ t.fcp.sessions[i].eventsLost = (s.fcp.sessions[i].eventsLost && s.fcp.sessions[i].replayGap dseq.toNat)) ∧
    (∀ (x : BitVec 16) (sub : BitVec 8), q = Req.objRead (le 2 x.toNat ++ le 1 sub.toNat ++ le 1 0) x.toNat sub.toNat →
      ∃ t, exec (.objRead h x sub) s = .next t ∧ s.Unmoved t
        ∧ (∀ o, (s.admitted h i).obj x.toNat sub.toNat = some o →
          t.Answered i h q (Answer.done (le 2 x.toNat ++ le 1 sub.toNat ++ le 1 o.type ++ le 2 o.bytes.length ++ le 2 0 ++ o.bytes)))
        ∧ ((s.admitted h i).obj x.toNat sub.toNat = none → t.Answered i h q (Answer.refused 0x28))) ∧
    (∀ (b : BitVec 8) (n : BitVec 16) (off : BitVec 32),
      q = Req.cfgRead (le 1 b.toNat ++ le 1 0 ++ le 2 n.toNat ++ le 4 off.toNat) b.toNat n.toNat off.toNat →
      ∃ t, exec (.cfgRead h b n off) s = .next t ∧ s.Unmoved t
        ∧ t.Answered i h q (Answer.done (le 4 off.toNat ++ le 2 n.toNat ++ le 2 0 ++ s.config.read (b.toNat == 1) off.toNat n.toNat))) ∧
    (q = Req.identity [] → ∃ t, exec (.identity h) s = .next t ∧ s.Unmoved t ∧ t.Answered i h q (Answer.done s.identity))) ∧
  (∀ (s : State) (h : Hdr) (i : SessIx) (q : Req), s.Admits h i q →
    (∀ mask detail : BitVec 8, q = Req.doorStatus (pairParams mask.toNat detail.toNat) mask.toNat detail.toNat →
      ∃ t, exec (.doorStatus h mask detail) s = .next t ∧ s.Unmoved t
        ∧ t.Answered i h q (Answer.done (le 8 s.now ++ s.lineBytes
          ++ doorways.flatMap (fun d => if bitOf mask.toNat d.val then doorEntry (s.doorEnv d) s.doors[d] (detail.toNat == 1) else [])))) ∧
    (∀ mask : BitVec 64, q = Req.switchStatus (le 8 mask.toNat) mask.toNat →
      ∃ t, exec (.switchStatus h mask) s = .next t ∧ s.Unmoved t
        ∧ t.Answered i h q (Answer.done (le 8 s.now ++ (chansOf mask.toNat).flatMap (chanStatus s.lswEnv s.lsw)))) ∧
    (∀ mask : BitVec 16, q = Req.ioRead (wordParams mask.toNat) mask.toNat →
      ∃ t, exec (.ioRead h mask) s = .next t ∧ s.Unmoved t
        ∧ t.Answered i h q (Answer.done (le 8 s.now ++ (List.finRange 9).flatMap (fun g => if bitOf mask.toNat g.val then s.groupEntry g else [])
          ++ (if bitOf mask.toNat 9 then le 1 0x10 ++ le 1 0 ++ le 2 s.outs.value.toNat ++ le 2 s.outs.on.toNat ++ le 2 s.outs.tripped.toNat ++ le 4 0
              else []))))) ∧
  (∀ (s : State) (h : Hdr) (i : SessIx) (q : Req), s.Admits h i q →
    (∀ (x : BitVec 32) (n : BitVec 8), q = Req.logDrain (le 4 x.toNat ++ le 1 n.toNat ++ le 3 0) x.toNat n.toNat →
      ∃ t, exec (.logDrain h x n) s = .next t ∧ s.Unmoved t ∧ t.Answered i h q (Answer.done (s.log.drain x.toNat n.toNat))) ∧
    (∀ (x : BitVec 32) (n : BitVec 16), q = Req.incidentRead (le 4 x.toNat ++ wordParams n.toNat) x.toNat n.toNat →
      ∃ t, exec (.incidentRead h x n) s = .next t ∧ s.Unmoved t
        ∧ (s.log.incident x.toNat = none → t.Answered i h q (Answer.refused 0x81))
        ∧ (∀ j, s.log.incident x.toNat = some j → 16 < n.toNat → t.Answered i h q (Answer.refused 0x0C))
        ∧ (∀ j, s.log.incident x.toNat = some j → n.toNat ≤ 16 → t.Answered i h q (Answer.done
            (le 4 x.toNat ++ le 2 n.toNat ++ le 2 (((j.bytes x.toNat).drop (992 * n.toNat)).take 992).length
              ++ ((j.bytes x.toNat).drop (992 * n.toNat)).take 992)))) ∧
    (∀ f : BitVec 8, bitOf f.toNat 0 = false → q = Req.logStatus (pairParams f.toNat 0) f.toNat →
      ∃ t, exec (.logStatus h f) s = .next t ∧ s.Unmoved t
        ∧ t.Answered i h q (Answer.done (le 8 s.now ++ le 4 s.log.ackRseq ++ le 4 s.log.nextRseq ++ le 4 s.log.durableRseq
          ++ le 4 s.log.firstIseq ++ le 4 s.log.nextIseq ++ le 4 s.log.lostCycles ++ le 4 s.log.incidentsLost
          ++ le 4 (s.log.flagWord s.power.noHoldup) ++ le 1 (slots.filter (fun k => s.log.opened[k].isSome)).length ++ le 1 0 ++ le 2 0))) ∧
    (q = Req.powerStatus [] → ∃ t, exec (.powerStatus h) s = .next t ∧ s.Unmoved t
      ∧ t.Answered i h q (Answer.done (s.power.status s.cfg s.now s.mono s.free))) ∧
    (q = Req.powerAccounts [] → ∃ t, exec (.powerAccounts h) s = .next t ∧ s.Unmoved t
      ∧ t.Answered i h q (Answer.done (s.power.accounts s.now s.free))) ∧
    (q = Req.ringStatus [] → ∃ t, exec (.ringStatus h) s = .next t ∧ s.Unmoved t
      ∧ t.Answered i h q (Answer.done (s.ring.status s.ringEnv))) ∧
    (∀ mask : BitVec 32, q = Req.consistView (le 4 mask.toNat) mask.toNat → ∃ t, exec (.consistView h mask) s = .next t ∧ s.Unmoved t
      ∧ t.Answered i h q (Answer.done (s.ring.view s.ringEnv mask.toNat))) ∧
    (∀ mask : BitVec 8, q = Req.canStatus (pairParams mask.toNat 0) mask.toNat → ∃ t, exec (.canStatus h mask) s = .next t ∧ s.Unmoved t
      ∧ t.Answered i h q (Answer.done (le 8 s.now ++ (List.finRange 2).flatMap (fun ch =>
        if bitOf mask.toNat ch.val then s.can.channels[ch].entry s.canEnv ch else [])))))

/-- A SESSION_OPEN without RESUME opens the session fresh, with the next HSEQ expected, no reply stored and every
uncommanded doorway of which it is the primary host; a SESSION_CLOSE closes it and its doorways have no commander; a
right MAC authenticates, a wrong one is refused with 0x43, counted, and the third locks; a locked one is refused with
0x42. Operations stay. Basis: R376, R380, R382, R383, R388, R389. -/
def Obligations.SessionsOpenAndClose : Prop :=
  ∀ (s : State) (h : Hdr) (i : SessIx),
    (∀ (lastH lastD : BitVec 16) (id : BitVec 64), s.bound h = some i → s.fcp.sessions[i].state ≠ .paused →
      s.hears h (Req.sessionOpen (le 2 lastH.toNat ++ le 2 lastD.toNat ++ le 8 id.toNat) lastH.toNat lastD.toNat id.toNat) = true →
      h.format = 2 → h.resume = false → s.foreign h i = false →
      ∃ t, exec (.sessionOpen h lastH lastD id) s = .next t ∧ t.fcp.sessions[i].state = .opened ∧ t.fcp.sessions[i].replies = []
        ∧ t.fcp.sessions[i].expected = seqNext h.hseq.toNat ∧ t.fcp.sessions[i].resumed = false
        ∧ t.fcp.sessions[i].authenticated = false ∧ t.fcp.sessions[i].authFails = 0 ∧ t.fcp.ops = s.fcp.ops
        ∧ ∀ d : DoorIx, t.fcp.commander[d] =
          if s.fcp.commander[d] = none ∧ bitOf (s.cfg.sessDoorPrimary i) d.val = true ∧ s.cfg.isFitted d = true then some i
          else s.fcp.commander[d]) ∧
    (∀ q, q = Req.sessionClose [] → s.Admits h i q → ∃ t, exec (.sessionClose h) s = .next t ∧ t.fcp.sessions[i].state = .closed
      ∧ t.fcp.sessions[i].replies = [] ∧ t.fcp.sessions[i].lastDack = 0 ∧ t.fcp.sessions[i].authenticated = false ∧ t.fcp.ops = s.fcp.ops
      ∧ ∀ d : DoorIx, t.fcp.commander[d] = if s.fcp.commander[d] = some i then none else s.fcp.commander[d]) ∧
    (∀ (mac : List Byte) (q : Req), q = Req.sessionAuth mac mac → s.Admits h i q →
      (s.fcp.sessions[i].authLocked = true → ∃ t, exec (.sessionAuth h mac) s = .next t ∧ s.Unmoved t ∧ t.Answered i h q (Answer.refused 0x42)) ∧
      (s.fcp.sessions[i].authLocked = false → s.macRight i mac = true → ∃ t, exec (.sessionAuth h mac) s = .next t
        ∧ s.Unmoved t ∧ t.Answered i h q (Answer.done []) ∧ t.fcp.sessions[i].authenticated = true) ∧
      (s.fcp.sessions[i].authLocked = false → s.macRight i mac = false → ∃ t, exec (.sessionAuth h mac) s = .next t
        ∧ s.Unmoved t ∧ t.Answered i h q (Answer.refused 0x43) ∧ t.fcp.sessions[i].authFails = s.fcp.sessions[i].authFails + 1
        ∧ t.fcp.sessions[i].authLocked = decide (3 ≤ s.fcp.sessions[i].authFails + 1)
        ∧ t.fcp.counters.authFailures = satInc 16 s.fcp.counters.authFailures))

/-- A claim makes the session the commander of every addressed doorway that does not refuse it, and answers with both
masks; where all refuse it is REFUSED with one of their reasons and moves nothing. A yield leaves the addressed
doorways of the session without a commander. A claim of no doorway is DONE by the model's reading (log entry 90).
Basis: R387, R389, R390. -/
def Obligations.CommandOfDoorways : Prop :=
  ∀ (s : State) (h : Hdr) (i : SessIx) (mask : BitVec 8) (q : Req), s.Admits h i q →
    (q = Req.commandClaim (pairParams mask.toNat 0) mask.toNat →
      ((∃ d : DoorIx, bitOf mask.toNat d.val = true ∧ s.fcp.claimRefusal s.cfg i d = none) ∨ (∀ d : DoorIx, bitOf mask.toNat d.val = false) →
        ∃ t, exec (.commandClaim h mask) s = .next t
          ∧ (∀ d : DoorIx, t.fcp.commander[d] =
            if bitOf mask.toNat d.val = true ∧ s.fcp.claimRefusal s.cfg i d = none then some i else s.fcp.commander[d])
          ∧ t.Answered i h q (Answer.done (le 1 (doorMask (fun d => bitOf mask.toNat d.val && (s.fcp.claimRefusal s.cfg i d).isNone))
            ++ le 1 (doorMask (fun d => bitOf mask.toNat d.val && (s.fcp.claimRefusal s.cfg i d).isSome)) ++ le 2 0))) ∧
      ((∃ d : DoorIx, bitOf mask.toNat d.val = true) → (∀ d : DoorIx, bitOf mask.toNat d.val = true → s.fcp.claimRefusal s.cfg i d ≠ none) →
        ∃ t, exec (.commandClaim h mask) s = .next t ∧ s.Unmoved t
          ∧ ∃ r, t.Answered i h q (Answer.refused r) ∧ ∃ d : DoorIx, bitOf mask.toNat d.val = true ∧ s.fcp.claimRefusal s.cfg i d = some r)) ∧
    (q = Req.commandYield (pairParams mask.toNat 0) mask.toNat →
      ∃ t, exec (.commandYield h mask) s = .next t ∧ t.Answered i h q (Answer.done [])
        ∧ ∀ d : DoorIx, t.fcp.commander[d] = if bitOf mask.toNat d.val = true ∧ s.fcp.commander[d] = some i then none else s.fcp.commander[d])

/-- An unknown handle is refused with 0x44. A running operation is NOT_READY; an ended one is answered with its status,
reason, handle and result, and is held. ABORT of an operation already aborting is DONE again, of an ended one and of
an erase TOO_LATE; a selftest is marked aborted, a commit is dropped, and an entry is dropped or marked. ABORT of an
erase and of an ended operation follow log entries 46 and 92. Basis: R372, R373, R374. -/
def Obligations.ResultsAndAborts : Prop :=
  ∀ (s : State) (h : Hdr) (i : SessIx) (n : BitVec 16) (q : Req), s.Admits h i q →
    (q = Req.resultFetch (wordParams n.toNat) n.toNat →
      (s.opOf i n.toNat = none → ∃ t, exec (.resultFetch h n) s = .next t ∧ s.Unmoved t ∧ t.Answered i h q (Answer.refused 0x44)) ∧
      (∀ o, s.opOf i n.toNat = some o →
        (o.state = .running → ∃ t, exec (.resultFetch h n) s = .next t ∧ s.Unmoved t
          ∧ t.Answered i h q { status := stNotReady, reason := 0, handle := n.toNat, payload := [] }) ∧
        (o.state ≠ .running → ∃ t, exec (.resultFetch h n) s = .next t
          ∧ t.fcp.ops = s.fcp.ops.map (fun p => if p.handle = n.toNat then { p with state := .held } else p)
          ∧ t.Answered i h q { status := o.status, reason := o.reason, handle := o.handle
                               payload := le 1 (if o.state = .held then 1 else 0) ++ le 1 0 ++ le 2 o.opcode ++ o.result }))) ∧
    (q = Req.abort (wordParams n.toNat) n.toNat →
      (s.opOf i n.toNat = none → ∃ t, exec (.abort h n) s = .next t ∧ s.Unmoved t
        ∧ t.Answered i h q { Answer.refused 0x44 with handle := n.toNat }) ∧
      (∀ o, s.opOf i n.toNat = some o →
        (o.aborting = true → ∃ t, exec (.abort h n) s = .next t ∧ s.Unmoved t ∧ t.Answered i h q { Answer.done [] with handle := n.toNat }) ∧
        (o.aborting = false → o.state ≠ .running ∨ o.kind = .incidentErase → ∃ t, exec (.abort h n) s = .next t ∧ s.Unmoved t
          ∧ t.Answered i h q { Answer.done [] with status := stTooLate, handle := n.toNat }) ∧
        (o.aborting = false → o.state = .running → o.kind = .selftest → ∃ t, exec (.abort h n) s = .next t
          ∧ t.service.selftest = s.service.selftest.map (fun x => { x with aborted := true })
          ∧ t.Answered i h q { Answer.done [] with handle := n.toNat }) ∧
        (∀ c, o.aborting = false → o.state = .running → o.kind = .cfgCommit → s.config.commit = some c → ∃ t, exec (.abort h n) s = .next t
          ∧ t.config = { s.config with commit := none } ∧ t.Answered i h q { Answer.done [] with handle := n.toNat }) ∧
        (∀ e, o.aborting = false → o.state = .running → o.kind = .powerEnter → s.power.entry = some e → ∃ t, exec (.abort h n) s = .next t
          ∧ t.power.entry = (if s.entryReady e.target then none else some { e with aborted := true })
          ∧ t.Answered i h q { Answer.done [] with handle := n.toNat })))

/-- From the session that commands a calm doorway: OPEN moves RELEASED to UNLOCKING with OPEN_HOST, is refused with the
doorway's reason, or is BUSY when sixteen operations are outstanding; CLOSE moves OPEN to CLOSING phase WARN; STOP and
MOVE_STOP stop a moving doorway, keep what they interrupted and answer DONE; RESUME and MOVE_RESUME take up the
interrupted course again and answer ACCEPTED. Basis: R51, R52, R54, R55, R141, R142. -/
def Obligations.HostCommandsOfOneDoorway : Prop :=
  ∀ (s : State) (h : Hdr) (i : SessIx) (d : DoorIx) (q : Req), s.Reaches h i q d → (s.doors[d]).Calm (s.doorEnv d) →
    (s.doors[d]).sm.edges = noEdges →
    (∀ mask : BitVec 8, mask.toNat = 2 ^ d.val → q = Req.doorCommand (doorCommandParams mask.toNat 1) mask.toNat 1 →
      (∀ r, refuseOpen (s.doorEnv d) s.doors[d] = some r →
        ∃ t, exec (.doorCommandOpen h mask) s = .next t ∧ s.Unmoved t ∧ t.Answered i h q (Answer.refused r)) ∧
      (refuseOpen (s.doorEnv d) s.doors[d] = none → s.exhausted i = true →
        ∃ t, exec (.doorCommandOpen h mask) s = .next t ∧ s.Unmoved t ∧ t.Answered i h q (Answer.busy 0x49)) ∧
      (refuseOpen (s.doorEnv d) s.doors[d] = none → s.exhausted i = false → (s.doors[d]).sm.state = .released → (s.doors[d]).dls = true →
        ∃ t, exec (.doorCommandOpen h mask) s = .next t ∧ t.Answered i h q (Answer.accepted s.fcp.nextHandle)
          ∧ (t.doors[d]).sm.state = .unlocking ∧ (t.doors[d]).sm.phase = .none ∧ (t.doors[d]).sm.cause = .openHost)) ∧
    (∀ mask : BitVec 8, mask.toNat = 2 ^ d.val → q = Req.doorCommand (doorCommandParams mask.toNat 2) mask.toNat 2 →
      refuseClose (s.doorEnv d) s.doors[d] = none → s.exhausted i = false → (s.doors[d]).sm.state = .opened → s.cfg.preCloseWarn d ≠ 0 →
        ∃ t, exec (.doorCommandClose h mask) s = .next t ∧ t.Answered i h q (Answer.accepted s.fcp.nextHandle)
          ∧ (t.doors[d]).sm.state = .closing ∧ (t.doors[d]).sm.phase = .warn ∧ (t.doors[d]).sm.cause = .closeHost) ∧
    (∀ mask : BitVec 8, mask.toNat = 2 ^ d.val → q = Req.doorCommand (doorCommandParams mask.toNat 3) mask.toNat 3 →
      (∀ r, refuseStop (s.doorEnv d) s.doors[d] = some r →
        ∃ t, exec (.doorCommandStop h mask) s = .next t ∧ s.Unmoved t ∧ t.Answered i h q (Answer.refused r)) ∧
      (refuseStop (s.doorEnv d) s.doors[d] = none →
        (s.doors[d]).sm.state = .opening ∨ (s.doors[d]).sm.state = .reopening ∨ (s.doors[d]).sm.state = .closing →
        ∃ t, exec (.doorCommandStop h mask) s = .next t
          ∧ t.Answered i h q (Answer.done (BitVec.ofNat 8 (2 ^ d.val) :: List.replicate 11 0))
          ∧ (t.doors[d]).sm.state = .stopped ∧ (t.doors[d]).sm.cause = .stopHost
          ∧ (t.doors[d]).sm.interrupted = some ((s.doors[d]).sm.state, (s.doors[d]).sm.phase))) ∧
    (∀ (mask : BitVec 8) ph, mask.toNat = 2 ^ d.val → q = Req.doorCommand (doorCommandParams mask.toNat 4) mask.toNat 4 →
      refuseResume (s.doorEnv d) s.doors[d] = none → s.exhausted i = false →
      ((s.doors[d]).sm.interrupted = some (.closing, ph) → s.cfg.preCloseWarn d ≠ 0 →
        ∃ t, exec (.doorCommandResume h mask) s = .next t ∧ t.Answered i h q (Answer.accepted s.fcp.nextHandle)
          ∧ (t.doors[d]).sm.state = .closing ∧ (t.doors[d]).sm.phase = .warn) ∧
      ((s.doors[d]).sm.interrupted = some (.reopening, ph) →
        ∃ t, exec (.doorCommandResume h mask) s = .next t ∧ t.Answered i h q (Answer.accepted s.fcp.nextHandle)
          ∧ (t.doors[d]).sm.state = .reopening ∧ (t.doors[d]).sm.phase = ph)) ∧
    (∀ (mask : BitVec 16) (mode : BitVec 8), drivesMask mask.toNat = 2 ^ d.val →
      q = Req.moveStop (moveStopParams mask.toNat mode.toNat) mask.toNat mode.toNat → refuseStop (s.doorEnv d) s.doors[d] = none →
      (s.doors[d]).sm.state = .opening ∨ (s.doors[d]).sm.state = .reopening ∨ (s.doors[d]).sm.state = .closing →
        ∃ t, exec (.moveStop h mask mode) s = .next t
          ∧ t.Answered i h q (Answer.done (BitVec.ofNat 8 (2 ^ d.val) :: List.replicate 11 0))
          ∧ (t.doors[d]).sm.state = .stopped ∧ (t.doors[d]).sm.cause = .stopMove
          ∧ (t.doors[d]).sm.interrupted = some ((s.doors[d]).sm.state, (s.doors[d]).sm.phase)) ∧
    (∀ (mask : BitVec 16) ph, drivesMask mask.toNat = 2 ^ d.val → q = Req.moveResume (wordParams mask.toNat) mask.toNat →
      refuseResume (s.doorEnv d) s.doors[d] = none → s.exhausted i = false →
      ((s.doors[d]).sm.interrupted = some (.closing, ph) → s.cfg.preCloseWarn d ≠ 0 →
        ∃ t, exec (.moveResume h mask) s = .next t ∧ t.Answered i h q (Answer.accepted s.fcp.nextHandle)
          ∧ (t.doors[d]).sm.state = .closing ∧ (t.doors[d]).sm.phase = .warn) ∧
      ((s.doors[d]).sm.interrupted = some (.reopening, ph) →
        ∃ t, exec (.moveResume h mask) s = .next t ∧ t.Answered i h q (Answer.accepted s.fcp.nextHandle)
          ∧ (t.doors[d]).sm.state = .reopening ∧ (t.doors[d]).sm.phase = ph))

/-- From the commanding session: RESET of a doorway whose faults have no present cause clears the fault codes and settles
it, or is refused; DOOR_ISOLATE isolates from LOCKED or RELEASED and refuses elsewhere with 0x36, and its clearing
settles; DOOR_TEST_CYCLE, ENVELOPE_LEARN and HOME_STEP in both modes enter MAINT with their cause and their operation
where no condition refuses. Basis: R52, R59, R60, R61, R62, R184, R238, R239, R221, R222. -/
def Obligations.DoorwaysOutOfService : Prop :=
  ∀ (s : State) (h : Hdr) (i : SessIx) (d : DoorIx) (q : Req), s.Reaches h i q d → (s.doors[d]).Ready (s.doorEnv d) →
    (s.doors[d]).sm.edges = noEdges → (s.doorEnv d).tlPresent = false → s.cfg.openMode d ≠ 1 →
    (∀ mask : BitVec 8, mask.toNat = 2 ^ d.val → q = Req.doorCommand (doorCommandParams mask.toNat 5) mask.toNat 5 →
      (∀ r, refuseReset (s.doorEnv d) s.doors[d] = some r →
        ∃ t, exec (.doorCommandReset h mask) s = .next t ∧ s.Unmoved t ∧ t.Answered i h q (Answer.refused r)) ∧
      (refuseReset (s.doorEnv d) s.doors[d] = none → (s.doors[d]).sm.flags.isolatedByCmd = false →
        (s.doors[d]).door.faultCode ≠ 1 → (s.doors[d]).door.faultCode ≠ 2 → (s.doors[d]).step.faultCode ≠ 1 →
        (s.doors[d]).step.faultCode ≠ 2 → (s.doors[d]).step.faultCode < 16 →
        ((s.doors[d]).step.flags.standing = true → (s.doors[d]).srs = true) →
        ∃ t, exec (.doorCommandReset h mask) s = .next t
          ∧ t.Answered i h q (Answer.done (BitVec.ofNat 8 (2 ^ d.val) :: List.replicate 11 0))
          ∧ (t.doors[d]).sm.state = settled (s.doorEnv d) s.doors[d] ∧ (t.doors[d]).sm.cause = .settled
          ∧ (t.doors[d]).door.faultCode = 0 ∧ (t.doors[d]).step.faultCode = 0)) ∧
    (∀ door : BitVec 8, door.toNat = d.val → q = Req.doorIsolate (pairParams door.toNat 1) door.toNat 1 →
      ((s.doors[d]).sm.state ≠ .locked → (s.doors[d]).sm.state ≠ .released →
        ∃ t, exec (.doorIsolateSet h door) s = .next t ∧ s.Unmoved t ∧ t.Answered i h q (Answer.refused 0x36)) ∧
      ((s.doors[d]).sm.state = .locked ∨ (s.doors[d]).sm.state = .released →
        ∃ t, exec (.doorIsolateSet h door) s = .next t ∧ t.Answered i h q (Answer.done [])
          ∧ (t.doors[d]).sm.state = .isolated ∧ (t.doors[d]).sm.cause = .isolCommand ∧ (t.doors[d]).sm.flags.isolatedByCmd = true)) ∧
    (∀ door : BitVec 8, door.toNat = d.val → q = Req.doorIsolate (pairParams door.toNat 0) door.toNat 0 →
      (s.doors[d]).sm.state = .isolated → rankFour s.doors[d] = none → (s.doors[d]).sm.flags.plausibility = false →
      (s.doors[d]).obst.pending = none → settled (s.doorEnv d) s.doors[d] ≠ .closedUnlocked →
        ∃ t, exec (.doorIsolateClear h door) s = .next t ∧ t.Answered i h q (Answer.done [])
          ∧ (t.doors[d]).sm.state = settled (s.doorEnv d) s.doors[d] ∧ (t.doors[d]).sm.cause = .settled
          ∧ (t.doors[d]).sm.flags.isolatedByCmd = false) ∧
    (∀ (door cycles : BitVec 8), door.toNat = d.val →
      q = Req.doorTestCycle (pairParams door.toNat cycles.toNat) door.toNat cycles.toNat →
      (∀ r, refuseTest (s.doorEnv d) s.doors[d] = some r →
        ∃ t, exec (.doorTestCycle h door cycles) s = .next t ∧ s.Unmoved t ∧ t.Answered i h q (Answer.refused r)) ∧
      (refuseTest (s.doorEnv d) s.doors[d] = none → s.exhausted i = false →
        rankFour (startMaint (s.doorEnv d) (.test cycles.toNat) s.fcp.nextHandle ⟨s.doors[d], []⟩).dw = none →
        (s.doors[d]).sm.flags.plausibility = false → (s.doors[d]).obst.pending = none → (s.doors[d]).dls = true →
        ∃ t, exec (.doorTestCycle h door cycles) s = .next t ∧ t.Answered i h q (Answer.accepted s.fcp.nextHandle)
          ∧ (t.doors[d]).sm.state = .maint ∧ (t.doors[d]).sm.cause = .maintTest
          ∧ ∃ m, (t.doors[d]).sm.maint = some m ∧ m.op = .test cycles.toNat ∧ m.handle = s.fcp.nextHandle ∧ m.shadow = .unlocking)) ∧
    (∀ door : BitVec 8, door.toNat = d.val → q = Req.envelopeLearn (pairParams door.toNat 0) door.toNat →
      refuseLearn (s.doorEnv d) s.doors[d] = none → s.exhausted i = false →
      rankFour (startMaint (s.doorEnv d) .learn s.fcp.nextHandle ⟨s.doors[d], []⟩).dw = none →
      (s.doors[d]).sm.flags.plausibility = false → (s.doors[d]).obst.pending = none → (s.doors[d]).dls = true →
        ∃ t, exec (.envelopeLearn h door) s = .next t ∧ t.Answered i h q (Answer.accepted s.fcp.nextHandle)
          ∧ (t.doors[d]).sm.state = .maint ∧ (t.doors[d]).obst.flags.learnRunning = true
          ∧ ∃ m, (t.doors[d]).sm.maint = some m ∧ m.op = .learn ∧ m.handle = s.fcp.nextHandle ∧ m.shadow = .unlocking) ∧
    ((s.doors[d]).sm.maint = none → (s.doors[d]).sm.state = .locked ∨ (s.doors[d]).sm.state = .released → s.exhausted i = false →
      (s.doors[d]).sm.flags.plausibility = false → (s.doors[d]).obst.pending = none →
      (∀ door : BitVec 8, door.toNat = d.val → q = Req.homeStep (pairParams door.toNat 0) door.toNat 0 →
        refuseHome 0 (s.doorEnv d) s.doors[d] = none →
        rankFour (startMaint (s.doorEnv d) (.home 0) s.fcp.nextHandle ⟨s.doors[d], []⟩).dw = none →
        ∃ t, exec (.homeStepHome h door) s = .next t ∧ t.Answered i h q (Answer.accepted s.fcp.nextHandle)
          ∧ (t.doors[d]).sm.state = .maint ∧ (t.doors[d]).sm.cause = .maintHome
          ∧ ∃ m, (t.doors[d]).sm.maint = some m ∧ m.op = .home 0 ∧ m.handle = s.fcp.nextHandle) ∧
      (∀ door : BitVec 8, door.toNat = d.val → q = Req.homeStep (pairParams door.toNat 1) door.toNat 1 →
        refuseHome 1 (s.doorEnv d) s.doors[d] = none →
        rankFour (startMaint (s.doorEnv d) (.home 1) s.fcp.nextHandle ⟨s.doors[d], []⟩).dw = none →
        ∃ t, exec (.homeStepMeasure h door) s = .next t ∧ t.Answered i h q (Answer.accepted s.fcp.nextHandle)
          ∧ (t.doors[d]).sm.state = .maint ∧ (t.doors[d]).sm.cause = .maintHome
          ∧ ∃ m, (t.doors[d]).sm.maint = some m ∧ m.op = .home 1 ∧ m.handle = s.fcp.nextHandle))

/-- From the commanding session: MOVE_TO moves the door drive to its limited target in OPENING, or is refused; COMPARE_SET
stores position, mode, direction, actions and hysteresis with the default for 0 and arms unless MODE is 0, or is
refused with 0x75 outside its ranges; PROFILE_WRITE puts a valid context into the pool, with CONTEXT_MODIFIED on the
drive to which it is assigned, and else names the offending segment. That OPEN passes to OPENING is the model's
reading (log entry 73). Basis: R118, R137, R138, R143, R144, R145. -/
def Obligations.MotionWrites : Prop :=
  ∀ (s : State) (h : Hdr) (i : SessIx) (d : DoorIx) (q : Req), s.Reaches h i q d →
    (∀ (drive mode : BitVec 8) (target speed : BitVec 32), drive.toNat = (doorDrive d).val →
      q = Req.moveTo (moveToParams drive.toNat mode.toNat target.toInt speed.toNat) drive.toNat mode.toNat target.toInt speed.toNat →
      (∀ r, refuseMove mode.toNat target.toInt (s.doorEnv d) s.doors[d] = some r →
        ∃ t, exec (.moveTo h drive mode target speed) s = .next t ∧ s.Unmoved t ∧ t.Answered i h q (Answer.refused r)) ∧
      (refuseMove mode.toNat target.toInt (s.doorEnv d) s.doors[d] = none → s.exhausted i = false →
        ∃ t, exec (.moveTo h drive mode target speed) s = .next t ∧ t.Answered i h q (Answer.accepted s.fcp.nextHandle)
          ∧ (t.doors[d]).sm.state = .opening ∧ (t.doors[d]).door.gen.state = .moving
          ∧ (t.doors[d]).door.gen.target = moveTarget (s.doorEnv d) s.doors[d] mode.toNat target.toInt
          ∧ (t.doors[d]).sm.flags.openComplete = false)) ∧
    (∀ (drive mode direction actions : BitVec 8) (position hyst : BitVec 32), drive.toNat < 16 → doorOf (driveOfNat drive.toNat) = d →
      q = Req.compareSet (compareParams drive.toNat mode.toNat direction.toNat actions.toNat position.toInt hyst.toNat) drive.toNat
        mode.toNat direction.toNat actions.toNat position.toInt hyst.toNat →
      s.cfg.driveFitted (driveOfNat drive.toNat) = true →
      (3 ≤ mode.toNat ∨ 3 ≤ direction.toNat ∨ position.toInt < s.cfg.softMin (driveOfNat drive.toNat)
          ∨ s.cfg.softMax (driveOfNat drive.toNat) < position.toInt →
        ∃ t, exec (.compareSet h drive mode direction actions position hyst) s = .next t ∧ s.Unmoved t
          ∧ t.Answered i h q (Answer.refused 0x75)) ∧
      (mode.toNat < 3 → direction.toNat < 3 → s.cfg.softMin (driveOfNat drive.toNat) ≤ position.toInt →
        position.toInt ≤ s.cfg.softMax (driveOfNat drive.toNat) →
        ∃ t a, exec (.compareSet h drive mode direction actions position hyst) s = .next t ∧ t.Answered i h q (Answer.done a)
          ∧ ((t.gen (driveOfNat drive.toNat)).compare).position = position.toInt
          ∧ ((t.gen (driveOfNat drive.toNat)).compare).mode = mode.toNat
          ∧ ((t.gen (driveOfNat drive.toNat)).compare).direction = direction.toNat
          ∧ ((t.gen (driveOfNat drive.toNat)).compare).actions = actions.toNat % 4
          ∧ ((t.gen (driveOfNat drive.toNat)).compare).armed = decide (mode.toNat ≠ 0)
          ∧ ((t.gen (driveOfNat drive.toNat)).compare).hyst
            = (if hyst.toNat = 0 then (if isStep (driveOfNat drive.toNat) then 16 else 50) else hyst.toNat))) ∧
    (∀ (context : BitVec 16) (body : List Byte), q = Req.profileWrite (wordParams context.toNat ++ body) context.toNat body →
      context.toNat < 160 → (assignments s.cfg).find? (fun x => x.1.val == context.toNat) = none →
      (∀ reason k, profileRefusal s.cfg none body = some (reason, k) →
        ∃ t, exec (.profileWrite h context body) s = .next t ∧ s.Unmoved t ∧ t.Answered i h q (refusedSegment reason k)) ∧
      (profileRefusal s.cfg none body = none →
        ∃ t, exec (.profileWrite h context body) s = .next t ∧ t.Answered i h q (Answer.done [])
          ∧ t.config = { s.config with pool := poolPut s.config.pool context.toNat body } ∧ t.doors = s.doors)) ∧
    (∀ (context : BitVec 16) (body : List Byte) (r : DriveIx) (slot : Nat) (n : CtxIx),
      q = Req.profileWrite (wordParams context.toNat ++ body) context.toNat body → context.toNat < 160 →
      (assignments s.cfg).find? (fun x => x.1.val == context.toNat) = some (n, r, slot) → doorOf r = d →
      (s.doors[d]).sm.state = .locked ∨ (s.doors[d]).sm.state = .released ∨ (s.doors[d]).sm.state = .isolated →
      (s.gen r).state ≠ .moving → profileRefusal s.cfg (some (r, slot)) body = none →
        ∃ t, exec (.profileWrite h context body) s = .next t ∧ t.Answered i h q (Answer.done [])
          ∧ t.config = { s.config with pool := poolPut s.config.pool context.toNat body }
          ∧ (t.gen r).flags.ctxModified = true)

/-- A block in order joins the staged image and is answered with the bytes staged and their CRC; out of order or out of
turn it is refused, and BUSY while a commit waits. A commit is accepted with a handle; where the consistency check
finds a fault its code, sub-code and item are recorded and counted; where it finds none a check-only commit marks the
image checked and an enabling one waits with its identity and session. Basis: R404, R405, R407, R408, R409. -/
def Obligations.ConfigurationStagesAndCommits : Prop :=
  ∀ (s : State) (h : Hdr) (i : SessIx),
    (∀ (offset : BitVec 32) (flags : BitVec 8) (block : List Byte) (q : Req),
      q = Req.cfgLoadBlock (blockParams offset.toNat flags.toNat block) offset.toNat flags.toNat block → s.Admits h i q →
      (∀ x, s.config.stageRefusal i s.mono offset.toNat block.length (bitOf flags.toNat 0) = some x →
        ∃ t, exec (.cfgLoadBlock h offset flags block) s = .next t ∧ s.Unmoved t ∧ t.Answered i h q (Answer.refused x)) ∧
      (s.config.stageRefusal i s.mono offset.toNat block.length (bitOf flags.toNat 0) = none → s.config.commit ≠ none →
        ∃ t, exec (.cfgLoadBlock h offset flags block) s = .next t ∧ s.Unmoved t ∧ t.Answered i h q (Answer.busy 0x4A)) ∧
      (s.config.stageRefusal i s.mono offset.toNat block.length (bitOf flags.toNat 0) = none → s.config.commit = none →
        ∃ t bytes, exec (.cfgLoadBlock h offset flags block) s = .next t
          ∧ bytes = (if bitOf flags.toNat 0 = true then block else s.config.banks[s.config.other].take s.config.stagedBytes ++ block)
          ∧ t.config = { s.config with
              banks := s.config.banks.set s.config.other bytes, staged := true, stagedBytes := bytes.length, stagingSession := some i
              lastStaged := s.mono, previous := s.config.previous && !bitOf flags.toNat 0, checkPassed := false }
          ∧ t.Answered i h q (Answer.done (le 4 bytes.length ++ le 4 (crc32c bytes))))) ∧
    (∀ (enable previous : Bool) (id : BitVec 64) (q : Req) (c : Instr),
      q = Req.cfgCommit (commitParams (bitWord [enable, previous]) id.toNat) (bitWord [enable, previous]) id.toNat → s.Admits h i q →
      c = (if enable then .cfgCommit h previous id else .cfgCommitCheckOnly h previous id) →
      (s.config.commit ≠ none → ∃ t, exec c s = .next t ∧ s.Unmoved t ∧ t.Answered i h q (Answer.busy 0x4A)) ∧
      (s.config.commit = none → s.exhausted i = true → ∃ t, exec c s = .next t ∧ s.Unmoved t ∧ t.Answered i h q (Answer.busy 0x49)) ∧
      (s.config.commit = none → s.exhausted i = false →
        ∃ t, exec c s = .next t ∧ t.Answered i h q (Answer.accepted s.fcp.nextHandle)
          ∧ (∀ step f, s.config.check previous id.toNat s.service.fw.version = some (step, f) →
              t.config = { s.config with
                checkPassed := false, refusals := satInc 16 s.config.refusals
                lastRefusal := f.code + f.sub * 0x100 + f.index * 0x10000
                timeouts := if f.code = 0x30 then satInc 16 s.config.timeouts else s.config.timeouts })
          ∧ (s.config.check previous id.toNat s.service.fw.version = none →
              t.config = { s.config with
                checkPassed := !enable
                commit := if enable = true then some {
                  handle := s.fcp.nextHandle, session := i, previous := previous, cfgId := id.toNat, started := s.mono, waitFrom := s.mono }
                else none })))

/-- A write that no rule refuses is DONE: message data take the bytes, and W1C bits written 1 clear alone.
DISCREPANCY_RESET clears both flags where every pair agrees, else 0x3B. ROLE_SELECT takes a slot that holds a context,
else 0x7C. A session key of 32 bytes is stored unless it is all zero, and the first key of session 4 closes the
session. CAN_RESTART starts the recovery of a channel that is bus-off. Refusals of odd values follow log entry 77.
Basis: R9, R10, R89, R113, R422, R473, R607, R608. -/
def Obligations.ObjectsAreWritten : Prop :=
  ∀ (s : State) (h : Hdr) (i : SessIx), h.takeover = false →
    (∀ (index : BitVec 16) (sub : BitVec 8) (value : List Byte) (q : Req),
      q = Req.objWrite (objParams index.toNat sub.toNat value) index.toNat sub.toNat value → s.Admits h i q →
      ownerMask s.cfg index.toNat = 0 →
      (∀ x, (s.admitted h i).objRefusal index.toNat sub.toNat value = some x →
        ∃ t, exec (.objWrite h index sub value) s = .next t ∧ s.Unmoved t ∧ t.Answered i h q (Answer.refused x)) ∧
      ((s.admitted h i).objRefusal index.toNat sub.toNat value = none → index ≠ 0x1203 → index ≠ 0x1050 →
        ∃ t, exec (.objWrite h index sub value) s = .next t ∧ t.Answered i h q (Answer.done [])
          ∧ (∀ m : Fin 64, index.toNat = 0x5300 + m.val → t.can.objects[m].data = value)
          ∧ (∀ n : Nat, n < 16 → index.toNat = 0x4200 + n →
              t.outs.tripSeen = if bitOf (ofLe value) 5 = true then setBit s.outs.tripSeen n false else s.outs.tripSeen)
          ∧ (index = 0x6001 → t.log.overrunSeen = (s.log.overrunSeen && !bitOf (ofLe value) 6)
              ∧ t.log.powerFailSeen = (s.log.powerFailSeen && !bitOf (ofLe value) 7))
          ∧ (index = 0x7001 → t.power.keepLost = (s.power.keepLost && !bitOf (ofLe value) 8)))) ∧
    (∀ (v : BitVec 8) (q : Req), q = Req.objWrite (objParams 0x1203 1 [v]) 0x1203 1 [v] → s.Admits h i q →
      (v ≠ 1 → ∃ t, exec (.discrepancyReset h v) s = .next t ∧ s.Unmoved t ∧ t.Answered i h q (Answer.refused 0x2B)) ∧
      (v = 1 → s.loop.pairsAgree s.loopEnv = false →
        ∃ t, exec (.discrepancyReset h v) s = .next t ∧ s.Unmoved t ∧ t.Answered i h q (Answer.refused 0x3B)) ∧
      (v = 1 → s.loop.pairsAgree s.loopEnv = true →
        ∃ t, exec (.discrepancyReset h v) s = .next t ∧ t.Answered i h q (Answer.done [])
          ∧ t.loop.discrepancy = false ∧ t.loop.persistent = false)) ∧
    (∀ (r : DriveIx) (v : BitVec 16) (q : Req),
      q = Req.objWrite (objParams (motionIndex r 0x12) 0x11 (le 2 v.toNat)) (motionIndex r 0x12) 0x11 (le 2 v.toNat) → s.Admits h i q →
      s.fcp.commander[doorOf r] = some i → s.cfg.isFitted (doorOf r) = true →
      (emptySlot s.cfg r v.toNat = true → ∃ t, exec (.roleSelect h r v) s = .next t ∧ s.Unmoved t ∧ t.Answered i h q (Answer.refused 0x7C)) ∧
      (emptySlot s.cfg r v.toNat = false → ∃ t, exec (.roleSelect h r v) s = .next t ∧ t.Answered i h q (Answer.done [])
        ∧ t.doors[doorOf r] = s.doors[doorOf r].onGen (isStep r) (fun g => { g with roleSelect := v.toNat }))) ∧
    (∀ (n : Fin 5) (key : List Byte) (q : Req), q = Req.objWrite (objParams 0x1050 (n.val + 1) key) 0x1050 (n.val + 1) key → s.Admits h i q →
      key.length = 32 →
      (keyEmpty key = true → ∃ t, exec (.sessionKey h n key) s = .next t ∧ s.Unmoved t ∧ t.Answered i h q (Answer.refused 0x2B)) ∧
      (keyEmpty key = false → ∃ t, exec (.sessionKey h n key) s = .next t ∧ t.service.keys = s.service.keys.set n key
        ∧ (n = 4 → s.service.keyUnset = true → t.fcp.sessions[(4 : SessIx)].state = .closed)
        ∧ (n ≠ 4 ∨ s.service.keyUnset = false → t.Answered i h q (Answer.done [])))) ∧
    (∀ (ch : CanIx) (v : BitVec 8) (q : Req), q = Req.objWrite (objParams (0x5100 + ch.val) 0x40 [v]) (0x5100 + ch.val) 0x40 [v] →
      s.Admits h i q →
      (v ≠ 1 → ∃ t, exec (.canRestart h ch v) s = .next t ∧ s.Unmoved t ∧ t.Answered i h q (Answer.refused 0x2B)) ∧
      (v = 1 → ∃ t, exec (.canRestart h ch v) s = .next t ∧ t.Answered i h q (Answer.done [])
        ∧ t.can.channels[ch].recovering = (s.can.channels[ch].recovering || (s.can.channels[ch].active && s.can.channels[ch].busOff))))

/-- For every addressed channel whose doorway is fitted and commanded by the session and which its rules let act: the
override of its leader is set or returned; FAULT_CLEAR clears lock-out and overcurrent with full retries and a thermal
latch that is cool enough; no other channel changes. OUTPUT_SET sets the host value of the addressed outputs with a
host source and refuses with 0x3E where none has. The answer names accepted and refused. Switch temperatures are free
values (log entry 4), and a FAULT_CLEAR of an unfitted doorway is refused with 0x38 (log entry 37). Basis: R307, R310,
R348, R387. -/
def Obligations.LoadsAndOutputsFollowCommands : Prop :=
  ∀ (s : State) (h : Hdr) (i : SessIx) (r : ChanIx → Option Nat) (q : Req), h.takeover = false → s.Admits h i q →
    (∀ (action : Fin 4) (mask : BitVec 64) (c : Instr), q = Req.switchSet (switchParams mask.toNat action.val) mask.toNat action.val →
      c = (match action with
        | 0 => .switchSetOff h mask
        | 1 => .switchSetOn h mask
        | 2 => .switchSetKeepWarm h mask
        | 3 => .switchSetReturn h mask) →
      (∀ n : ChanIx, r n = if s.cfg.isFitted (chanDoor n) = false then some 0x38 else if s.fcp.commander[chanDoor n] ≠ some i then some 0x45
        else switchRefusal s.cfg n action.val) →
      ∃ t, exec c s = .next t
        ∧ (∀ n : ChanIx, bitOf mask.toNat n.val = true → r n = none →
            t.lsw.chans[leaderOf s.cfg n] = { s.lsw.chans[leaderOf s.cfg n] with
              override := if action = 0 then some .off else if action = 1 then some .on else if action = 2 then some .keepWarm else none })
        ∧ (∀ m, (∀ n : ChanIx, bitOf mask.toNat n.val = true → r n = none → leaderOf s.cfg n ≠ m) → t.lsw.chans[m] = s.lsw.chans[m])
        ∧ t.ChannelsAnswered i h q mask.toNat r) ∧
    (∀ (mask : BitVec 64), q = Req.faultClear (le 8 mask.toNat) mask.toNat →
      (∀ n : ChanIx, r n = if s.cfg.isFitted (chanDoor n) = false then some 0x38 else if s.fcp.commander[chanDoor n] ≠ some i then some 0x45
        else if s.lsw.chans[n].thermal = true ∧ 1300 ≤ Config.measured .switchTemp (s.free + n.val) then some 0x3F else none) →
      ∃ t, exec (.faultClear h mask) s = .next t
        ∧ (∀ n : ChanIx, bitOf mask.toNat n.val = true → r n = none ∨ r n = some 0x3F →
            t.lsw.chans[leaderOf s.cfg n].lockout = false ∧ t.lsw.chans[leaderOf s.cfg n].overcurrent = false
              ∧ t.lsw.chans[leaderOf s.cfg n].retryWait = false
              ∧ t.lsw.chans[leaderOf s.cfg n].retriesLeft = s.cfg.chRetryCount (leaderOf s.cfg n)
              ∧ t.lsw.chans[n].thermal = (r n).isSome)
        ∧ (∀ n : ChanIx, bitOf mask.toNat n.val = false → t.lsw.chans[n].thermal = s.lsw.chans[n].thermal)
        ∧ (∀ m, (∀ n : ChanIx, bitOf mask.toNat n.val = true → leaderOf s.cfg n ≠ m) → t.lsw.chans[m].lockout = s.lsw.chans[m].lockout)
        ∧ t.ChannelsAnswered i h q mask.toNat r) ∧
    (∀ (mask value : BitVec 16), q = Req.outputSet (le 2 mask.toNat ++ le 2 value.toNat) mask.toNat value.toNat →
      ((∃ k : OutIx, bitOf mask.toNat k.val = true ∧ s.cfg.outSource (outSettings s.cfg k) = 1) ∨ (∀ k : OutIx, bitOf mask.toNat k.val = false) →
        ∃ t, exec (.outputSet h mask value) s = .next t
          ∧ t.Answered i h q (Answer.done (
              le 2 (bitWord ((List.finRange 16).map (fun k => bitOf mask.toNat k.val && decide (s.cfg.outSource (outSettings s.cfg k) = 1))))
              ++ le 2 (bitWord ((List.finRange 16).map (fun k => bitOf mask.toNat k.val && !decide (s.cfg.outSource (outSettings s.cfg k) = 1))))))
          ∧ (∀ j : OutIx, bitOf mask.toNat j.val = true → s.cfg.outSource (outSettings s.cfg j) = 1 →
              (∀ l, l < j → bitOf mask.toNat l.val = true → outSettings s.cfg l ≠ outSettings s.cfg j) →
              t.outs.host.getLsbD (outSettings s.cfg j).val = bitOf value.toNat j.val)
          ∧ (∀ k : OutIx, (∀ j : OutIx, bitOf mask.toNat j.val = true → s.cfg.outSource (outSettings s.cfg j) = 1 → outSettings s.cfg j ≠ k) →
              t.outs.host.getLsbD k.val = s.outs.host.getLsbD k.val)) ∧
      ((∃ k : OutIx, bitOf mask.toNat k.val = true) →
        (∀ k : OutIx, bitOf mask.toNat k.val = true → s.cfg.outSource (outSettings s.cfg k) ≠ 1) →
        ∃ t, exec (.outputSet h mask value) s = .next t ∧ s.Unmoved t ∧ t.Answered i h q (Answer.refused 0x3E)))

/-- LOG_ACK beyond the log is refused with 0x80, behind it changes nothing, and else it releases the records below it and,
where recording had stopped, restarts it with a marker. INCIDENT_ERASE with the right count removes the incidents
below its limit and runs as an operation, and else is refused with 0x83 or 0x81. POWER_ENTER is BUSY during an entry,
is refused with the lowest refuser, and else starts the entry with its alarm. Basis: R519, R520, R525, R537, R538,
R540, R541. -/
def Obligations.RecordsAndPowerModesAreCommanded : Prop :=
  ∀ (s : State) (h : Hdr) (i : SessIx) (q : Req), s.Admits h i q →
    (∀ (upTo : BitVec 32), q = Req.logAck (le 4 upTo.toNat) upTo.toNat →
      (s.log.nextRseq < upTo.toNat → ∃ t, exec (.logAck h upTo) s = .next t ∧ s.Unmoved t ∧ t.Answered i h q (Answer.refused 0x80)) ∧
      (upTo.toNat ≤ s.log.nextRseq → upTo.toNat ≤ s.log.ackRseq →
        ∃ t, exec (.logAck h upTo) s = .next t ∧ s.Unmoved t
          ∧ t.Answered i h q (Answer.done (le 4 s.log.ackRseq ++ le 4 (524288 - (s.log.nextRseq - s.log.ackRseq))))) ∧
      (upTo.toNat ≤ s.log.nextRseq → s.log.ackRseq < upTo.toNat →
        ∃ t, exec (.logAck h upTo) s = .next t
          ∧ t.Answered i h q (Answer.done (le 4 upTo.toNat ++ le 4 (524288 - (t.log.nextRseq - upTo.toNat))))
          ∧ t.log.ackRseq = upTo.toNat ∧ t.log.acks = satInc 32 s.log.acks
          ∧ (s.log.stopped = false → t.log.stopped = false ∧ t.log.nextRseq = s.log.nextRseq
              ∧ t.log.log = s.log.log.filter (fun x => decide (upTo.toNat ≤ x.1)))
          ∧ (s.log.stopped = true → t.log.gap = 0 ∧ (s.log.stagedBytes + 64 ≤ 262144 → t.log.nextRseq = s.log.nextRseq + 1
              ∧ t.log.log = s.log.log.filter (fun x => decide (upTo.toNat ≤ x.1))
                ++ [(s.log.nextRseq, markerBytes s.now s.log.nextRseq 9 (le 4 s.log.gap))])))) ∧
    (∀ (upTo confirm : BitVec 32), q = Req.incidentErase (le 4 upTo.toNat ++ le 4 confirm.toNat) upTo.toNat confirm.toNat →
      (confirm.toNat ≠ s.log.journal.length →
        ∃ t, exec (.incidentErase h upTo confirm) s = .next t ∧ s.Unmoved t ∧ t.Answered i h q (Answer.refused 0x83)) ∧
      (confirm.toNat = s.log.journal.length → s.log.nextIseq < upTo.toNat → upTo.toNat ≠ 0xFFFFFFFF →
        ∃ t, exec (.incidentErase h upTo confirm) s = .next t ∧ s.Unmoved t ∧ t.Answered i h q (Answer.refused 0x81)) ∧
      (confirm.toNat = s.log.journal.length → upTo.toNat ≤ s.log.nextIseq ∨ upTo.toNat = 0xFFFFFFFF →
        (s.log.erase ≠ none → ∃ t, exec (.incidentErase h upTo confirm) s = .next t ∧ s.Unmoved t ∧ t.Answered i h q (Answer.busy 0x4A)) ∧
        (s.log.erase = none → s.exhausted i = true →
          ∃ t, exec (.incidentErase h upTo confirm) s = .next t ∧ s.Unmoved t ∧ t.Answered i h q (Answer.busy 0x49)) ∧
        (s.log.erase = none → s.exhausted i = false →
          ∃ t, exec (.incidentErase h upTo confirm) s = .next t ∧ t.Answered i h q (Answer.accepted s.fcp.nextHandle)
            ∧ t.log.journal = s.log.journal.filter (fun x => !(decide (upTo.toNat = 0xFFFFFFFF) || decide (x.1 < upTo.toNat)))
            ∧ t.log.firstIseq = (if upTo.toNat = 0xFFFFFFFF then s.log.nextIseq else max s.log.firstIseq upTo.toNat)
            ∧ t.log.journalFull = false ∧ t.log.erase = some {
              handle := s.fcp.nextHandle, since := s.mono
              erased := (s.log.journal.filter (fun x => decide (upTo.toNat = 0xFFFFFFFF) || decide (x.1 < upTo.toNat))).length }))) ∧
    (∀ (m : PwrMode) (wakeAt : BitVec 64) (c : Instr) (n : Nat), (m = .stable ∧ n = 1 ∧ c = .powerEnterStable h wakeAt) ∨
        (m = .hibernate ∧ n = 2 ∧ c = .powerEnterHibernate h wakeAt) → q = Req.powerEnter (enterParams n wakeAt.toNat) n wakeAt.toNat →
      (s.power.entry ≠ none → ∃ t, exec c s = .next t ∧ s.Unmoved t ∧ t.Answered i h q (Answer.busy 0x4A)) ∧
      (∀ r, s.power.entry = none → s.lowestRefuser m wakeAt.toNat = some r →
        ∃ t, exec c s = .next t ∧ t.Answered i h q { Answer.refused 0x50 with payload := le 1 r } ∧ t.power = s.power.refuse s.now r) ∧
      (s.power.entry = none → s.lowestRefuser m wakeAt.toNat = none → s.exhausted i = true →
        ∃ t, exec c s = .next t ∧ s.Unmoved t ∧ t.Answered i h q (Answer.busy 0x49)) ∧
      (s.power.entry = none → s.lowestRefuser m wakeAt.toNat = none → s.exhausted i = false →
        ∃ t, exec c s = .next t ∧ t.Answered i h q (Answer.accepted s.fcp.nextHandle)
          ∧ t.power = { s.power with wakeAt := wakeAt.toNat, latched := 0, entry := some {
              handle := s.fcp.nextHandle, session := i, target := m, started := s.mono, appRan := s.engines.app.state == .running
              aborted := false } }))

/-- A block in order joins the inactive bank; the last one must leave a signed image of at least 256 bytes whose version
is not below the floor, else 0x61 or 0x65. FW_ACTIVATE is refused with 0x63, 0x64 or 0x62 in that order, is BUSY while
a commit, a manual substitution, an entry or an activation runs, and else starts. Signature and version are read by
opaque functions (log entry 62). Basis: R606, R609, R610, R611. -/
def Obligations.FirmwareIsStagedAndActivated : Prop :=
  ∀ (s : State) (h : Hdr) (i : SessIx) (q : Req), s.Admits h i q →
    (∀ (offset : BitVec 32) (flags : BitVec 8) (block : List Byte) (x : Option Nat) (bytes : List Byte),
      q = Req.fwStage (blockParams offset.toNat flags.toNat block) offset.toNat flags.toNat block →
      x = s.service.fw.stageRefusal i s.mono offset.toNat block.length (bitOf flags.toNat 0) →
      bytes = (if bitOf flags.toNat 0 = true then [] else s.service.fw.banks[s.service.fw.other].bytes) ++ block →
      (∀ r, x = some r → ∃ t, exec (.fwStage h offset flags block) s = .next t ∧ s.Unmoved t ∧ t.Answered i h q (Answer.refused r)) ∧
      (x = none → s.service.fw.activation ≠ none →
        ∃ t, exec (.fwStage h offset flags block) s = .next t ∧ s.Unmoved t ∧ t.Answered i h q (Answer.busy 0x4A)) ∧
      (x = none → s.service.fw.activation = none →
        ∃ t, exec (.fwStage h offset flags block) s = .next t ∧ t.service.fw.banks[s.service.fw.other].bytes = bytes
          ∧ t.service.fw.stagedBytes = bytes.length ∧ t.service.fw.stager = some i ∧ t.service.fw.active = s.service.fw.active
          ∧ (bitOf flags.toNat 1 = false → t.Answered i h q (Answer.done (le 4 bytes.length))
              ∧ t.service.fw.staged = (s.service.fw.staged && !bitOf flags.toNat 0))
          ∧ (bitOf flags.toNat 1 = true → bytes.length < 256 ∨ Config.firmwareSigned bytes = false → t.Answered i h q (Answer.refused 0x61))
          ∧ (bitOf flags.toNat 1 = true → 256 ≤ bytes.length → Config.firmwareSigned bytes = true →
              (Config.firmwareVersion bytes).toNat < s.service.fw.floor → t.Answered i h q (Answer.refused 0x65))
          ∧ (bitOf flags.toNat 1 = true → 256 ≤ bytes.length → Config.firmwareSigned bytes = true →
              s.service.fw.floor ≤ (Config.firmwareVersion bytes).toNat → t.Answered i h q (Answer.done (le 4 bytes.length))
                ∧ t.service.fw.staged = true ∧ t.service.fw.banks[s.service.fw.other].valid = true
                ∧ t.service.fw.banks[s.service.fw.other].version = (Config.firmwareVersion bytes).toNat))) ∧
    (∀ (live : Bool) (flags : BitVec 8) (c : Instr) (x : Option Nat),
      q = Req.fwActivate (pairParams (if live then 0 else 1) flags.toNat) (if live then 0 else 1) flags.toNat →
      c = (if live then .fwActivateLive h flags else .fwActivateRestart h flags) →
      x = (if s.service.fw.staged = false then some 0x63
        else if live = true ∧ fwMajor s.service.fw.stagedVersion ≠ fwMajor s.service.fw.version then some 0x64
        else if s.config.inForce = true ∧ compatible s.config.image s.service.fw.stagedVersion = false
          ∧ (live = true ∨ bitOf flags.toNat 0 = false) then some 0x62
        else none) →
      (∀ r, x = some r → ∃ t, exec c s = .next t ∧ s.Unmoved t ∧ t.Answered i h q (Answer.refused r)) ∧
      (x = none → s.config.commit ≠ none ∨ s.manualSub = true ∨ s.power.entry ≠ none ∨ s.service.fw.activation ≠ none →
        ∃ t, exec c s = .next t ∧ s.Unmoved t ∧ t.Answered i h q (Answer.busy 0x4A)) ∧
      (x = none → s.config.commit = none → s.manualSub = false → s.power.entry = none → s.service.fw.activation = none →
        (s.exhausted i = true → ∃ t, exec c s = .next t ∧ s.Unmoved t ∧ t.Answered i h q (Answer.busy 0x49)) ∧
        (s.exhausted i = false → ∃ t, exec c s = .next t ∧ t.Answered i h q (Answer.accepted s.fcp.nextHandle)
          ∧ t.service.fw = { s.service.fw with activation := some {
              handle := s.fcp.nextHandle, session := i, live := live, started := s.mono, updated := [], current := none, rolling := none } })))

/-- SELFTEST starts with the testable doorways addressed or is BUSY; LEG_SUBSTITUTE starts a substitution on a quiet pair
and marks the leg failed, or gives its refusals in order; SCHED_LOAD stores a right schedule until its swap, or names
slot and cycle; APP_LOAD joins blocks of a stopped application and checks the last; APP_CONTROL stops, starts and
restarts with a fresh view, watchdog and cause. The mark of a leg follows log entry 101. Basis: R497, R583, R586,
R587, R605, R618. -/
def Obligations.ServiceAndApplicationCommands : Prop :=
  ∀ (s : State) (h : Hdr) (i : SessIx) (q : Req), s.Admits h i q →
    (∀ (tests : BitVec 16) (mask : BitVec 8) (busy : Bool), q = Req.selftest (le 2 tests.toNat ++ le 1 mask.toNat ++ le 1 0) tests.toNat mask.toNat →
      busy = (s.service.selftest.isSome || doorways.any (fun d => bitOf mask.toNat d.val && s.testable d && s.service.brambles[pairOf d].running.isSome)) →
      (busy = true → ∃ t, exec (.selftest h tests mask) s = .next t ∧ s.Unmoved t ∧ t.Answered i h q (Answer.busy 0x4A)) ∧
      (busy = false → s.exhausted i = true → ∃ t, exec (.selftest h tests mask) s = .next t ∧ s.Unmoved t ∧ t.Answered i h q (Answer.busy 0x49)) ∧
      (busy = false → s.exhausted i = false → ∃ t x, exec (.selftest h tests mask) s = .next t ∧ t.Answered i h q (Answer.accepted s.fcp.nextHandle)
        ∧ t.service.selftest = some x ∧ x.handle = s.fcp.nextHandle ∧ x.session = i ∧ x.tests = tests.toNat ∧ x.started = s.mono
        ∧ ∀ d : DoorIx, x.doors[d] = (tests.toNat % 4 != 0 && bitOf mask.toNat d.val && s.testable d))) ∧
    (∀ (pair leg : BitVec 8), q = Req.legSubstitute (pairParams pair.toNat leg.toNat) pair.toNat leg.toNat →
      (4 ≤ pair.toNat ∨ (14 ≤ leg.toNat ∧ leg.toNat ≠ 0xFF) →
        ∃ t, exec (.legSubstitute h pair leg) s = .next t ∧ s.Unmoved t ∧ t.Answered i h q (Answer.refused 0x0C)) ∧
      (∀ (p : Fin 4) (l : Option (Fin 14)), pair.toNat = p.val → (∀ k : Fin 14, l = some k → leg.toNat = k.val) → (l = none → leg.toNat = 0xFF) →
        (s.pairQuiet p = false → ∃ t, exec (.legSubstitute h pair leg) s = .next t ∧ s.Unmoved t ∧ t.Answered i h q (Answer.refused 0x6A)) ∧
        (s.pairQuiet p = true → s.pairBusy p = true →
          ∃ t, exec (.legSubstitute h pair leg) s = .next t ∧ s.Unmoved t ∧ t.Answered i h q (Answer.busy 0x4A)) ∧
        (∀ x, s.pairQuiet p = true → s.pairBusy p = false → s.service.brambles[p].legRefusal i l = some x →
          ∃ t, exec (.legSubstitute h pair leg) s = .next t ∧ s.Unmoved t ∧ t.Answered i h q (Answer.refused x)) ∧
        (s.pairQuiet p = true → s.pairBusy p = false → s.service.brambles[p].legRefusal i l = none →
          (s.exhausted i = true → ∃ t, exec (.legSubstitute h pair leg) s = .next t ∧ s.Unmoved t ∧ t.Answered i h q (Answer.busy 0x49)) ∧
          (s.exhausted i = false → ∃ t, exec (.legSubstitute h pair leg) s = .next t ∧ t.Answered i h q (Answer.accepted s.fcp.nextHandle)
            ∧ t.service.brambles[p].running = some { leg := l, handle := some s.fcp.nextHandle, started := s.mono }
            ∧ ∀ k : Fin 14, t.service.brambles[p].failed[k] = (s.service.brambles[p].failed[k] || l == some k))))) ∧
    (∀ (channel : BitVec 8) (schedule : List Byte), q = Req.schedLoad (pairParams channel.toNat 0 ++ schedule) channel.toNat schedule →
      (2 ≤ channel.toNat → ∃ t, exec (.schedLoad h channel schedule) s = .next t ∧ s.Unmoved t ∧ t.Answered i h q (Answer.refused 0x0C)) ∧
      (∀ ch : CanIx, channel.toNat = ch.val →
        (∀ slot cycle, schedRefusal s.cfg ch schedule = some (slot, cycle) → ∃ t, exec (.schedLoad h channel schedule) s = .next t ∧ s.Unmoved t
          ∧ t.Answered i h q { Answer.refused 0x23 with payload := le 2 slot ++ le 1 cycle }) ∧
        (schedRefusal s.cfg ch schedule = none → s.config.commit ≠ none →
          ∃ t, exec (.schedLoad h channel schedule) s = .next t ∧ s.Unmoved t ∧ t.Answered i h q (Answer.busy 0x4A)) ∧
        (schedRefusal s.cfg ch schedule = none → s.config.commit = none →
          ∃ t, exec (.schedLoad h channel schedule) s = .next t ∧ t.Answered i h q (Answer.done [])
            ∧ t.can.channels[ch] = { s.can.channels[ch] with loaded := some schedule }))) ∧
    (∀ (offset : BitVec 32) (flags : BitVec 8) (block bytes : List Byte) (x : Option Nat),
      q = Req.appLoad (blockParams offset.toNat flags.toNat block) offset.toNat flags.toNat block →
      x = (if s.engines.app.state = .starting ∨ s.engines.app.state = .running then some 0x6C
        else if offset.toNat ≠ (if bitOf flags.toNat 0 = true then 0 else s.engines.app.loaded.length) then some 0x6F else none) →
      bytes = (if bitOf flags.toNat 0 = true then block else s.engines.app.loaded ++ block) →
      (∀ r, x = some r → ∃ t, exec (.appLoad h offset flags block) s = .next t ∧ s.Unmoved t ∧ t.Answered i h q (Answer.refused r)) ∧
      (x = none → ∃ t, exec (.appLoad h offset flags block) s = .next t
        ∧ (bitOf flags.toNat 1 = false → t.Answered i h q (Answer.done (le 4 bytes.length)) ∧ t.engines.app.loaded = bytes
          ∧ t.engines.app.state = (if bitOf flags.toNat 0 = true then .empty else s.engines.app.state))
        ∧ (bitOf flags.toNat 1 = true → appImageOk bytes = true → t.Answered i h q (Answer.done (le 4 bytes.length))
          ∧ t.engines.app.state = .stopped ∧ t.engines.app.image = bytes)
        ∧ (bitOf flags.toNat 1 = true → appImageOk bytes = false → t.Answered i h q (Answer.refused 0x6D)
          ∧ t.engines.app.state = .empty ∧ t.engines.app.image = []))) ∧
    (∀ (action : Fin 3) (c : Instr), q = Req.appControl (pairParams action.val 0) action.val →
      c = (match action with
        | 0 => .appControlStop h
        | 1 => .appControlStart h
        | 2 => .appControlRestart h) →
      (action ≠ 0 → s.engines.app.state = .empty → ∃ t, exec c s = .next t ∧ s.Unmoved t ∧ t.Answered i h q (Answer.refused 0x6E)) ∧
      (action = 0 → ∃ t, exec c s = .next t ∧ t.Answered i h q (Answer.done t.appStatus)
        ∧ (s.engines.app.state = .running ∨ s.engines.app.state = .starting → t.engines.app.state = .stopped ∧ t.engines.app.cause = 0
          ∧ t.fcp.sessions[(5 : SessIx)].state = .closed)
        ∧ (s.engines.app.state ≠ .running → s.engines.app.state ≠ .starting → t.engines = s.engines)) ∧
      (action ≠ 0 → s.engines.app.state ≠ .empty → ∃ t, exec c s = .next t ∧ t.Answered i h q (Answer.done t.appStatus)
        ∧ t.engines.app.state = .running ∧ t.engines.app.restartTimes = []
        ∧ (action = 1 → s.engines.app.state = .running → t.engines.app.mem = s.engines.app.mem ∧ t.engines.app.runSince = s.engines.app.runSince)
        ∧ (action = 2 ∨ s.engines.app.state ≠ .running → t.engines.app.cause = 0 ∧ t.engines.app.runSince = s.mono
          ∧ t.engines.app.wdKick = s.mono ∧ t.engines.views[(11 : Fin 12)] = { IntView.reset with pc := (s.engines.app.entry : Int) })))

/-- For every command c of the host with header h and parameters of at most 1,008 bytes: a datagram on the service port
that holds the packet of c as Table 9.1 lays it out, with its CRC-32C, has exactly the outcome of c in every state in
which the comms engine or the boot loader runs. That a command row is the packet with its parameters read is the
model's reading (log entry 108). Basis: R351, R357, R359. -/
def Obligations.PacketsSpellCommands : Prop :=
  ∀ (s : State) (c : Instr) (h : Hdr) (q : Req) (source : BitVec 48), hosted c = some (h, q) → h.transport = .service → h.source = source.toNat →
    h.trainWide = false → q.params.length ≤ 1008 → (s.commsRuns = true ∨ s.service.fw.bootLoader = true) →
    exec (.serviceDatagramReceived source (commandPacket h q.opcode q.params)) s = exec c s

/-- A datagram shorter than 20 bytes, without SYNC, with PLEN above 1,008, with another length than 20 + PLEN or with a
wrong CRC is discarded, DISCARDED is counted, and nothing else changes. A posted mailbox slot is taken in the order of
posting, freed, and its packet discarded and counted or run as the command it spells; in PAUSED none is taken. Nothing
is heard while neither comms engine nor boot loader runs. Basis: R351, R357, R359, R580. -/
def Obligations.CarriageOfPackets : Prop :=
  (∀ (s : State) (source : BitVec 48) (bytes : List Byte),
    (s.commsRuns = false → s.service.fw.bootLoader = false → exec (.serviceDatagramReceived source bytes) s = .next s) ∧
    (s.commsRuns = true ∨ s.service.fw.bootLoader = true →
      (bytes.length < 20 ∨ fieldAt bytes 0 2 ≠ 0x6A44 ∨ 1008 < fieldAt bytes 10 2 ∨ bytes.length ≠ 20 + fieldAt bytes 10 2
          ∨ fieldAt bytes (bytes.length - 4) 4 ≠ crc32c (bytes.take (bytes.length - 4)) →
        exec (.serviceDatagramReceived source bytes) s = .next (s.countFcp (fun k => { k with discarded := satInc 32 k.discarded }))) ∧
      (∀ c h q, hosted c = some (h, q) → bytes = commandPacket h q.opcode q.params → q.params.length ≤ 1008 → h.transport = .service →
        h.source = source.toNat → h.trainWide = false → exec (.serviceDatagramReceived source bytes) s = exec c s))) ∧
  (∀ (s : State),
    (s.commsRuns = false ∨ s.fcp.sessions[(5 : SessIx)].state = .paused ∨ s.engines.app.posts = [] → exec .mbxSlotTaken s = .next s) ∧
    (∀ (k : Fin 4) (len : Nat) (rest : List (Fin 4 × Nat)) (bytes : List Byte) (u : State), s.commsRuns = true → s.fcp.sessions[(5 : SessIx)].state ≠ .paused →
      s.engines.app.posts = (k, len) :: rest → bytes = s.engines.app.mem.readMany (0x200FC000 + 0x800 * k.val) len →
      u = { s with engines := { s.engines with app := { s.engines.app with posts := rest, outBusy := s.engines.app.outBusy.set k false } } } →
      (packetOk bytes = false → exec .mbxSlotTaken s = .next (u.countFcp (fun k => { k with discarded := satInc 32 k.discarded }))) ∧
      (∀ c h q, hosted c = some (h, q) → bytes = commandPacket h q.opcode q.params → q.params.length ≤ 1008 → h.transport = .mailbox →
        h.source = 0 → h.trainWide = false → exec .mbxSlotTaken s = exec c u)))

/-- In an open session, for every command of the host but SESSION_OPEN whose HSEQ is not the expected one: if it is the
HSEQ of one of the (at most eight) stored replies, the command is not executed; with equal opcode and parameter bytes
the stored reply is sent as DUPLICATE with a new DSEQ, the repeat's TAG, and the original status, reason, DSEQ and
payload; else SEQUENCE_GAP with 0x48. An HSEQ not stored is a SEQUENCE_GAP with the expected one. A repeat of a
command whose answer is still due waits for it. Basis: R362. -/
def Obligations.RepeatsAndGaps : Prop :=
  ∀ (s : State) (c : Instr) (h : Hdr) (q : Req) (i : SessIx) (z : Session), hosted c = some (h, q) → s.bound h = some i → z = s.fcp.sessions[i] →
    z.state = .opened → s.hears h q = true → h.format = 2 → q.opcode ≠ 0x0101 → h.hseq.toNat ≠ z.expected →
    ((∀ x ∈ s.fcp.deferred, x.session ≠ i ∨ x.hseq ≠ h.hseq.toNat) →
      (∀ r, z.replies.find? (fun r => r.hseq == h.hseq.toNat) = some r → r.opcode = q.opcode → r.params = q.params →
        ∃ t, exec c s = .next t ∧ s.Unmoved t ∧ t.fcp.sessions[i].expected = z.expected ∧ t.fcp.sessions[i].replies = z.replies
          ∧ t.fcp.counters.duplicates = satInc 32 s.fcp.counters.duplicates
          ∧ t.waiting i = s.waiting i ++ [{ event := false, session := i, code := q.opcode, dseq := z.dseqNext, hack := z.hack, tag := h.tag.toNat, status := 0x03, reason := 0, handle := r.handle, payload := le 1 r.status ++ le 1 r.reason ++ le 2 r.dseq ++ r.payload, dest := replyTo h }]) ∧
      (∀ r, z.replies.find? (fun r => r.hseq == h.hseq.toNat) = some r → r.opcode ≠ q.opcode ∨ r.params ≠ q.params →
        ∃ t, exec c s = .next t ∧ s.Unmoved t ∧ t.fcp.sessions[i].expected = z.expected ∧ t.fcp.sessions[i].replies = z.replies
          ∧ t.fcp.counters.gaps = satInc 32 s.fcp.counters.gaps
          ∧ t.waiting i = s.waiting i ++ [{ event := false, session := i, code := q.opcode, dseq := z.dseqNext, hack := z.hack, tag := h.tag.toNat, status := 0x12, reason := 0x48, handle := 0, payload := le 2 z.expected, dest := replyTo h }]) ∧
      (z.replies.find? (fun r => r.hseq == h.hseq.toNat) = none →
        ∃ t, exec c s = .next t ∧ s.Unmoved t ∧ t.fcp.sessions[i].expected = z.expected ∧ t.fcp.sessions[i].replies = z.replies
          ∧ t.fcp.counters.gaps = satInc 32 s.fcp.counters.gaps
          ∧ t.waiting i = s.waiting i ++ [{ event := false, session := i, code := q.opcode, dseq := z.dseqNext, hack := z.hack, tag := h.tag.toNat, status := 0x12, reason := 0, handle := 0, payload := le 2 z.expected, dest := replyTo h }])) ∧
    (∀ x, s.fcp.deferred.find? (fun x => x.session == i && x.hseq == h.hseq.toNat) = some x → q.opcode = 0x0604 → q.params = x.params →
      ∃ t, exec c s = .next t ∧ s.Unmoved t ∧ t.waiting i = s.waiting i
        ∧ t.fcp.deferred = s.fcp.deferred.map (fun y => if y.session = i ∧ y.hseq = h.hseq.toNat then { y with repeats := y.repeats ++ [h.tag.toNat] } else y))

/-- For every command of the host: an unbound packet is counted and has no reply; a paused session counts and discards; a
silent one becomes OPEN and goes on; another FORMAT is a FORMAT_ERROR and a closed session 0x40, with no HSEQ
consumed. Past step 6 the HSEQ is consumed, and wrong parameters, missing authentication (0x41), missing rights (DONE
with zeros, counted as a violation), a missing domain (NOT_READY) and a train-wide disagreement are answered so, and
the command is not executed; a packet on the service port with an opcode that is not listed is answered UNKNOWN.
Basis: R354, R359, R360, R376, R378, R382, R384, R386, R456. -/
def Obligations.ChecksOfPackets : Prop :=
  (∀ (s : State) (c : Instr) (h : Hdr) (q : Req), hosted c = some (h, q) →
    (s.bound h = none → s.commsRuns = true → exec c s = .next (s.countFcp (fun k => { k with unbound := satInc 32 k.unbound }))) ∧
    (s.bound h = none → s.commsRuns = false → exec c s = .next s) ∧
    (∀ (i : SessIx) (z : Session), s.bound h = some i → z = s.fcp.sessions[i] →
      (z.state = .paused → exec c s = .next (s.countFcp (fun k => { k with pausedDiscards := satInc 32 k.pausedDiscards }))) ∧
      (z.state ≠ .paused → s.hears h q = false → exec c s = .next s) ∧
      (z.state = .silent → s.hears h q = true → q.opcode ≠ 0x0101 →
        ∃ u, exec c s = exec c u ∧ u = { s with fcp := u.fcp } ∧ u.fcp.commander = s.fcp.commander ∧ u.fcp.ops = s.fcp.ops
          ∧ u.fcp.sessions[i].state = .opened ∧ u.fcp.sessions[i].expected = z.expected ∧ u.fcp.sessions[i].replies = z.replies
          ∧ u.fcp.sessions[i].lastValid = s.now) ∧
      (z.state = .opened ∨ z.state = .closed → s.hears h q = true → h.format ≠ 2 →
        ∃ t, exec c s = .next t ∧ s.Unmoved t ∧ t.fcp.sessions[i].expected = z.expected ∧ t.fcp.sessions[i].replies = z.replies
          ∧ t.waiting i = s.waiting i ++ [{ event := false, session := i, code := q.opcode, dseq := z.dseqNext, hack := z.hack, tag := h.tag.toNat, status := 0x10, reason := 0, handle := 0, payload := [], dest := replyTo h }]) ∧
      (z.state = .closed → s.hears h q = true → h.format = 2 → q.opcode ≠ 0x0101 →
        ∃ t, exec c s = .next t ∧ s.Unmoved t ∧ t.fcp.sessions[i].expected = z.expected ∧ t.fcp.sessions[i].replies = z.replies
          ∧ t.fcp.sessions[i].dseqNext = z.dseqNext
          ∧ t.waiting i = s.waiting i ++ [{ event := false, session := i, code := q.opcode, dseq := z.dseqNext, hack := z.hack, tag := h.tag.toNat, status := 0x20, reason := 0x40, handle := 0, payload := [], dest := replyTo h }]) ∧
      (∀ u, z.state = .opened → s.hears h q = true → h.format = 2 → q.opcode ≠ 0x0101 → h.hseq.toNat = z.expected → u = s.admitted h i →
        (q.listed = true → q.valid = false → ∃ t, exec c s = .next t ∧ s.Unmoved t ∧ t.fcp.sessions[i].expected = seqNext z.expected
          ∧ t.Answered i h q { status := 0x10, reason := 0, handle := 0, payload := [] }) ∧
        (q.listed = true → q.valid = true → q.opcode / 256 ≠ 1 →
          (i = 4 ∧ s.service.keyUnset = true ∧ q.keyless = false) ∨ (s.needsAuth i = true ∧ z.authenticated = false) →
          ∃ t, exec c s = .next t ∧ s.Unmoved t ∧ t.fcp.sessions[i].expected = seqNext z.expected ∧ t.Answered i h q (Answer.refused 0x41)) ∧
        (q.listed = true → q.valid = true → q.opcode / 256 = 1 ∨ i ≠ 4 ∨ s.service.keyUnset = false ∨ q.keyless = true →
          q.opcode / 256 = 1 ∨ s.needsAuth i = false ∨ z.authenticated = true →
          (s.granted i q.opcode = false ∨ q.rights u i = false →
            ∃ t, exec c s = .next t ∧ s.Unmoved t ∧ t.fcp.sessions[i].expected = seqNext z.expected ∧ t.Answered i h q (Answer.done (q.zeros u))
              ∧ t.fcp.counters.violations[i] = satInc 32 s.fcp.counters.violations[i]
              ∧ t.fcp.counters.violationLast[i] = q.opcode + q.index * 65536) ∧
          (s.granted i q.opcode = true → q.rights u i = true → q.ready u = false →
            ∃ t, exec c s = .next t ∧ s.Unmoved t ∧ t.fcp.sessions[i].expected = seqNext z.expected
              ∧ t.Answered i h q { status := 0x02, reason := 0, handle := 0, payload := [] }) ∧
          (∀ r, s.granted i q.opcode = true → q.rights u i = true → q.ready u = true → s.trainWideRefusal h q = some r →
            ∃ t, exec c s = .next t ∧ t.fcp.sessions[i].expected = seqNext z.expected ∧ t.Answered i h q (Answer.refused r)
              ∧ t.ring.counters.trainwideRefused = satInc 32 s.ring.counters.trainwideRefused))))) ∧
  (∀ (s : State) (source : BitVec 48) (h : Hdr) (i : SessIx) (op : Nat) (params : List Byte), op < 65536 → params.length ≤ 1008 →
    (request op params).listed = false → h.transport = .service → h.source = source.toNat → h.trainWide = false → s.commsRuns = true →
    s.service.fw.bootLoader = false → s.bound h = some i → s.fcp.sessions[i].state = .opened → h.format = 2 →
    h.hseq.toNat = s.fcp.sessions[i].expected →
    ∃ t, exec (.serviceDatagramReceived source (commandPacket h op params)) s = .next t ∧ s.Unmoved t
      ∧ t.fcp.sessions[i].expected = seqNext s.fcp.sessions[i].expected
      ∧ t.Answered i h (request op params) { status := 0x11, reason := 0, handle := 0, payload := [] })

/-- For every state and every command c at the front of its queue, step is exec of c on the state with the rest of the
queue. On an empty queue step is one period of 500 microseconds of the block's own clock, which is the model's choice
(log entry 1); that commands wait in one queue is too (log entry 83). Basis: spec: the commands of the opcode table,
R117. -/
def Obligations.StepTakesTheFront : Prop :=
  (∀ (s : State) (c : Instr) (rest : List Instr), s.pending = c :: rest → step s = exec c { s with pending := rest }) ∧
  (∀ s : State, s.pending = [] → step s = .next s.period)

/-- For every command and every state, exec answers a next state, and every one of the twenty parts of the state that the
table of parts does not name for that command is as before: pending commands, free value, clocks, doorways, encoders,
reflex, trainlines, loop, load switches, outputs, protocol, recorder, ring, CAN, power, engines, service and
configuration. The queue is named for none. The table of parts is the model's own reading of the chapters' rules
together. Basis: R34, R109, R275, R359, R501, R530. -/
def Obligations.FrameOfEveryCommand : Prop :=
  ∀ (c : Instr) (s : State), ∃ t, exec c s = .next t ∧ OnlyChanges (touches c) s t

/-- From every state in which each session keeps at most eight replies, 64 events, 32 queued packets and sixteen
outstanding operations, and the application engine's memory lists rising addresses and no byte that reads as an
unlisted one, every step answers such a state. What an unwritten byte reads is the model's choice (log entry 55).
Basis: R363, R369, R370, R372, R573. -/
def Obligations.StepKeepsTheInvariant : Prop :=
  ∀ (s t : State), s.Inv → step s = .next t → t.Inv

/-- For 48 commands that act at one doorway, and every other doorway: its state machine, inputs and obstacle state are
unchanged, and its drives and cycle differ at most in the latches of Quince, the step position that a latch loses, and
the cycle's mark of an incident. Basis: R28, R208, R257, R251. -/
def Obligations.OtherDoorwaysAreLeftAlone : Prop :=
  ∀ (c : Instr) (d j : DoorIx) (s t : State), ownDoorway c = some d → j ≠ d → exec c s = .next t → (s.doors[j]).alike t.doors[j]

/-- The state before the first POWER_UP holds the invariant, an empty queue and empty application memory, every session
CLOSED with DSEQ 0 and all events selected, no commanded doorway, lost step positions, the key of session 4 empty, no
hold-up, no wake and no refuser, and TIME_AGE at its greatest. The state as a whole is the model's choice (log entry
85). Basis: R210, R376, R389, R447, R608, R621. -/
def Obligations.ResetState : Prop :=
  State.reset.Inv ∧ State.reset.pending = [] ∧ State.reset.engines.app.mem = [] ∧ State.reset.service.keyUnset = true ∧ State.reset.power.noHoldup = true ∧
  State.reset.power.lastWake = 0xFF ∧ State.reset.power.lastRefuser = 0xFF ∧ State.reset.ring.timeAge = 0xFFFFFFFF ∧
  (∀ i : SessIx, State.reset.fcp.sessions[i].state = .closed ∧ State.reset.fcp.sessions[i].dseqNext = 0 ∧ State.reset.fcp.sessions[i].eventMask = 0xFFFF) ∧
  (∀ d : DoorIx, State.reset.fcp.commander[d] = none ∧ (State.reset.doors[d]).step.flags.lost = true)

/-- On a powered channel that is active, integrated and not bus-off, a received remote frame changes only that channel's
RX_FRAMES, RX_UNMATCHED, by one each, and its receive error counter, and what events of it the sessions hold: no
queue, filter, other channel, object, operation or other part of the state changes. Basis: R469. -/
def Obligations.RemoteFramesAreDiscarded : Prop :=
  ∀ (s : State) (ch : CanIx) (x : CanFrame), s.power.on 2 = true → (s.can.channels[ch]).active = true →
    (s.can.channels[ch]).integrating = false → (s.can.channels[ch]).busOff = false → x.remote = true →
    ∃ t k, exec (.canFrameReceived ch x) s = .next t ∧ OnlyChanges [.fcp, .can] s t ∧ t.fcp.ops = s.fcp.ops
      ∧ t.can = { s.can with channels := s.can.channels.set ch k }
      ∧ k = { s.can.channels[ch] with
          rxFrames := satInc 32 (s.can.channels[ch]).rxFrames, rxErr := k.rxErr
          rxUnmatched := satInc 32 (s.can.channels[ch]).rxUnmatched }

/-- The occurrence that a channel's current has exceeded OC_LIMIT for OC_TIME, with the channel's group on and outside its
inrush window: the group is off, marked as an overcurrent of cause 1 OC_STEADY and counted, and waits for a retry, or
locks out with none left. Basis: R282. -/
def Obligations.SteadyOvercurrentsSwitchOff : Prop :=
  ∀ (s : State) (n l : ChanIx) (current : Nat), s.fieldOn = true → l = leaderOf s.cfg n → (s.lsw.chans[l]).on = true →
    (s.lsw.chans[l]).inrush = false → s.cfg.chOcLimit l < current →
    ∃ t, exec (.ocSteady n current) s = .next t ∧ Channel.Tripped s.lsw.chans[l] t.lsw.chans[l] 1

/-- After the checks of Table 9.6, RING_STATUS takes no parameters and is answered DONE with exactly these 40 bytes:
timestamp, RING_FLAGS, RING_ADDRESS, NODE_COUNT, TIME_MASTER, a reserved zero, NODE_MASK, TIME_AGE, TIME_OFFSET,
WRAPS, FCS_ERRORS_A and FCS_ERRORS_B; nothing but the session's own records changes. Basis: R462. -/
def Obligations.RingStatusAnswers : Prop :=
  ∀ (s : State) (h : Hdr) (i : SessIx) (q : Req) (payload : List Byte), s.Admits h i q → q = Req.ringStatus [] →
    payload = le 8 s.now ++ le 4 (s.ring.flagWord s.cfg.ringAddress) ++ le 1 s.cfg.ringAddress ++ le 1 s.ring.nodeCount
      ++ le 1 s.ring.master ++ le 1 0 ++ le 4 s.ring.nodeMask ++ le 4 s.ring.timeAge ++ leInt 4 s.ring.meanOffset
      ++ le 4 s.ring.counters.wraps ++ le 4 s.ring.counters.fcsA ++ le 4 s.ring.counters.fcsB →
    payload.length = 40 ∧ ∃ t, exec (.ringStatus h) s = .next t ∧ s.Unmoved t ∧ t.Answered i h q (Answer.done payload)

/-- Each of these fourteen occurrences completes with its own effect. Where FIELD_IO is on and the trainline group valid, a
filtered change of TL_CLOSE, of a release or zero-speed input, of a cab input (the orientation then settles anew) and of
the bypass takes its level. Where the supervisor pair runs, REL_SETTLE settles its release input, ORIENT_SETTLE the
orientation; differing zero-speed inputs and a differing pair set their flags; agreement clears a discrepancy that is
not persistent; a readback against the command is counted. Where FIELD_IO is on, an output trips and goes off; a retry
finds it on and sound, or turns it on; held outputs take their safe states, and so do all at a lost downlink. That the
command is the occurrence itself, and sets its input's filtered level, is the model's choice (log entries 2 and 3).
Basis: R20, R31, R71, R72, R73, R82, R86, R88, R94, R332, R344, R345. -/
def Obligations.InputsSettleTimesAndOutputsComplete : Prop :=
  ∀ s : State,
    (s.fieldOn = true → s.train.flags.valid = true → ∀ active,
      (∃ t, exec (.tlCloseChange active) s = .next t ∧ t.train.filtered.getLsbD 2 = active) ∧
      (∀ x, ∃ t, exec (.trainlineInputChange x active) s = .next t ∧ t.train.filtered.getLsbD (relIndex x) = active) ∧
      (∀ second, ∃ t, exec (.cabInputChange second active) s = .next t
        ∧ t.train.filtered.getLsbD (if second then 6 else 5) = active
        ∧ (s.train.filtered.getLsbD (if second then 6 else 5) ≠ active → t.loop.orientPending = true)) ∧
      (∃ t, exec (.bypassChange active) s = .next t ∧ t.train.filtered.getLsbD 7 = active)) ∧
    (s.supvRuns = true →
      (∀ side, s.loop.relCounts = true → s.train.filtered.getLsbD (if side = TrainSide.left then 0 else 1) = true →
        ∃ t, exec (.relSettleExpiry side) s = .next t
          ∧ (if side = TrainSide.left then t.loop.relSettled.1 else t.loop.relSettled.2) = true) ∧
      (s.train.flags.valid = true → ∃ t, exec .orientSettleExpiry s = .next t ∧ t.loop.orientPending = false) ∧
      (s.train.filtered.getLsbD 3 ≠ s.train.filtered.getLsbD 4 →
        ∃ t, exec .zspdDiscrepExpiry s = .next t ∧ t.loop.zspdDiscrepancy = true) ∧
      (∀ p, s.loop.pairDiffers s.loopEnv p = true → s.loop.discrepancy = false → s.loop.alone = none →
        ∃ t, exec (.loopDisagreeExpiry p) s = .next t ∧ t.loop.discrepancy = true) ∧
      (s.loop.persistent = false → s.loop.pairsAgree s.loopEnv = true →
        ∃ t, exec .discrepancyClearExpiry s = .next t ∧ t.loop.discrepancy = false) ∧
      (s.cfg.loopRbFitted ≠ 0 → s.train.flags.valid = true → s.train.filtered.getLsbD 8 = s.loop.commanded →
        (if s.loop.commanded then s.loop.rbNotOperated else s.loop.rbWeld) = false →
        ∃ t, exec .loopRbTimeExpiry s = .next t ∧ t.loop.counters.rbFaults = satInc 16 s.loop.counters.rbFaults)) ∧
    (s.fieldOn = true →
      (∀ k : OutIx, s.outs.on.getLsbD k = true →
        ∃ t, exec (.outputTrip k) s = .next t ∧ t.outs.on.getLsbD k = false ∧ t.outs.tripped.getLsbD k = true) ∧
      (∀ k : OutIx, s.outs.tripped.getLsbD k = true →
        (s.outs.on.getLsbD k = true → ∃ t, exec (.outputRetry k) s = .next t ∧ t.outs.tripped.getLsbD k = false) ∧
        (s.outs.on.getLsbD k = false → s.outs.taken.getLsbD k = true → s.outs.safe = false → s.config.inForce = true →
          ∃ t, exec (.outputRetry k) s = .next t ∧ t.outs.on.getLsbD k = true)) ∧
      (s.outs.held = true → ∃ t, exec .outputHoldTimeout s = .next t ∧ t.outs.heldOut = true) ∧
      ∃ t, exec .downlinkLost s = .next t ∧ t.outs.safe = true)

/-- Each of these twenty-three occurrences completes with its own effect. At the load switches with FIELD_IO on: an inrush
window ends with the group on, or off above its limits; a short, the overcurrent of cause 2, and a thermal latch
switch it off; a retry turns it on; a restore refills its retries; a long rail sag is counted; an off-state test finds an
open load; an on-state test compares the current with its limit; keep-warm and the measuring pulse read the element; a
flash alternates. On the ring: a frame with a bad check sequence is counted, and one for another node at a port whose
other port is wrapped is turned back; insertion, removal and beacons, node timeouts, ports down and up, the age of time,
and the ends of conflicts and mismatches take effect. That the command is the occurrence itself, and not its time, is
the model's choice (log entry 2). Basis: R276, R280, R283, R284, R286, R290, R294, R297, R432, R436, R440, R454. -/
def Obligations.LoadSwitchAndRingOccurrencesComplete : Prop :=
  (∀ s : State, s.fieldOn = true →
    (∀ n l : ChanIx, l = leaderOf s.cfg n →
      ((s.lsw.chans[l]).on = true → (s.lsw.chans[l]).inrush = true → ∀ current,
        ∃ t, exec (.inrushWindowEnd n current) s = .next t ∧ (t.lsw.chans[l]).inrush = false
          ∧ (t.lsw.chans[l]).on = decide (current < 6000 ∧ current ≤ s.cfg.chOcLimit l)) ∧
      ((s.lsw.chans[l]).on = true → (s.lsw.chans[l]).inrush = false →
        (∃ t, exec (.ocShort n) s = .next t ∧ (t.lsw.chans[l]).on = false ∧ (t.lsw.chans[l]).ocCause = 2) ∧
        (∀ current, s.cfg.chOpenOnI l ≠ 0 → ∃ t, exec (.openLoadOn n current) s = .next t
          ∧ (t.lsw.chans[n]).diag.openOn = decide (current < s.cfg.chOpenOnI l))) ∧
      ((s.lsw.chans[l]).retryWait = true → s.lsw.demand s.cfg l = .on →
        ∃ t, exec (.retryBackoffExpiry n) s = .next t ∧ (t.lsw.chans[l]).on = true
          ∧ (t.lsw.chans[l]).retriesLeft = (s.lsw.chans[l]).retriesLeft - 1) ∧
      ((s.lsw.chans[l]).on = true → s.lsw.groupThermal s.cfg l = false →
        ∃ t, exec (.retryRestore n) s = .next t ∧ (t.lsw.chans[l]).retriesLeft = s.cfg.chRetryCount l) ∧
      ((s.lsw.chans[n]).thermal = false →
        ∃ t, exec (.thermalLatch n) s = .next t ∧ (t.lsw.chans[n]).thermal = true ∧ (t.lsw.chans[l]).on = false) ∧
      (testRuns s.lswEnv n s.lsw = true →
        ∃ t, exec (.offStateTest n .openLoad) s = .next t ∧ (t.lsw.chans[n]).diag.openOff = true) ∧
      (∀ vOut current : Nat, leaderOf s.cfg l = l → s.lsw.demand s.cfg l = .keepWarm → selfSensing s.cfg l = true →
        current ≠ 0 → tempInRange (elementTemp s.cfg l (elementR vOut current)) = true →
        ((s.lsw.chans[l]).on = true → (s.lsw.chans[l]).inrush = false →
          ∃ t, exec (.keepWarmRegulation n vOut current) s = .next t
            ∧ (t.lsw.chans[l]).heater.temp = elementTemp s.cfg l (elementR vOut current)) ∧
        ((s.lsw.chans[l]).on = false → (s.lsw.chans[l]).lockout = false → (s.lsw.chans[l]).retryWait = false →
          s.lsw.groupThermal s.cfg l = false →
          ∃ t, exec (.heaterMeasurePulse n vOut current) s = .next t
            ∧ (t.lsw.chans[l]).heater.temp = elementTemp s.cfg l (elementR vOut current))) ∧
      (∀ half : Bool, flashes s.lswEnv l s.lsw.chans[l] = true → (s.lsw.chans[l]).flash = some half →
        ∃ t, exec (.flashToggle n) s = .next t ∧ (t.lsw.chans[l]).flash = some (!half))) ∧
    (∀ (d : DoorIx) (duration : Nat), 100 < duration →
      ∃ t, exec (.railSag d duration) s = .next t ∧ t.lsw.link.railSags = satInc 16 s.lsw.link.railSags)) ∧
  (∀ s : State,
    ((s.ring.master = 0 ∨ s.ring.master = s.cfg.ringAddress) →
      ∃ t, exec .timeAgeCount s = .next t ∧ t.ring.timeAge = satInc 32 s.ring.timeAge) ∧
    (s.power.on 1 = true → s.config.inForce = true → s.cfg.ringEnable = 1 → s.ring.inserted = false →
      ∃ t, exec .ringInsertion s = .next t ∧ t.ring.inserted = true) ∧
    (s.onRing = true →
      (∀ (p : PortIx) (f : RingFrame),
        (f.fcsOk = false → ∃ t, exec (.ringFrameReceived p f) s = .next t
          ∧ (if p = 0 then t.ring.counters.fcsA else t.ring.counters.fcsB)
            = satInc 32 (if p = 0 then s.ring.counters.fcsA else s.ring.counters.fcsB)) ∧
        (f.fcsOk = true → f.ringDest = true → f.tagged = false → f.etherType = s.ringEnv.etherType →
          f.source ≠ s.cfg.ringAddress → f.dest ≠ s.cfg.ringAddress → f.hops ≠ 0 → f.type = 4 →
          ofPort s.ring.wrapped p = false → ofPort s.ring.wrapped (otherPort p) = true →
          ∃ t, exec (.ringFrameReceived p f) s = .next t
            ∧ t.ring.lastOut = some (p, { f with hops := f.hops - 1, wrapped := true }))) ∧
      (∃ t, exec .beaconTransmit s = .next t ∧ t.ring.frameSeq = (s.ring.frameSeq + 1) % 65536) ∧
      (∃ t, exec .ringRemoval s = .next t ∧ t.ring.inserted = false) ∧
      (∀ a : BitVec 8, s.ring.nodes.any (fun n => n.addr == a.toNat) = true →
        ∃ t, exec (.nodeTimeout a) s = .next t ∧ t.ring.nodes = s.ring.nodes.filter (fun n => n.addr != a.toNat)) ∧
      (∀ p : PortIx,
        (ofPort s.ring.wrapped p = false → ∃ t, exec (.portDown p) s = .next t ∧ ofPort t.ring.wrapped p = true) ∧
        (ofPort s.ring.wrapped p = true → ∃ t, exec (.portUp p) s = .next t ∧ ofPort t.ring.wrapped p = false)) ∧
      (s.ring.addressConflict = true → ∃ t, exec .addressConflictClear s = .next t ∧ t.ring.addressConflict = false) ∧
      (s.ring.etherConflict = true → ∃ t, exec .ethertypeConflictClear s = .next t ∧ t.ring.etherConflict = false) ∧
      (s.ring.consistMismatch = true → s.ring.consistCondition = false →
        ∃ t, exec .consistMismatchClear s = .next t ∧ t.ring.consistMismatch = false) ∧
      (s.ring.versionMismatch = true → s.ring.versionCondition = false →
        ∃ t, exec .versionMismatchClear s = .next t ∧ t.ring.versionMismatch = false)))
end

