-- ==== Sys2Proof/Laws/Memory.lean ====
section
/-!
SUPPORT. The canonical form of memory: what it says, that every operation keeps it, and what a read gives after a write.
-/

namespace Sys2Proof.Machine

/-- The form says: addresses strictly rising, no zero cell. -/
theorem Memory.wf_iff (m : Memory) :
    m.wf = true ↔ m.Pairwise (fun c d => c.1 < d.1) ∧ ∀ c ∈ m, c.2 ≠ 0 := by
  induction m with
  | nil => simp [Memory.wf]
  | cons c m ih =>
    cases m with
    | nil => simp [Memory.wf]
    | cons d m =>
      simp only [Memory.wf, Bool.and_eq_true, bne_iff_ne, ne_eq, decide_eq_true_eq, ih, List.pairwise_cons,
        List.mem_cons, forall_eq_or_imp]
      constructor
      · rintro ⟨⟨h1, h2⟩, ⟨h3, h4⟩, h5, h6⟩
        exact ⟨⟨⟨h2, fun e he => Nat.lt_trans h2 (h3 e he)⟩, h3, h4⟩, h1, h5, h6⟩
      · rintro ⟨⟨⟨h1, _⟩, h3, h4⟩, h5, h6, h7⟩
        exact ⟨⟨h5, h1⟩, ⟨h3, h4⟩, h6, h7⟩

theorem Memory.nil_wf : Memory.wf [] = true := rfl

/-- The rest of a memory in canonical form. -/
theorem Memory.wf_tail {c : Host.Cell} {m : Memory} (h : Memory.wf (c :: m) = true) : Memory.wf m = true := by
  rw [Memory.wf_iff] at *
  exact ⟨(List.pairwise_cons.1 h.1).2, fun d hd => h.2 d (List.mem_cons_of_mem _ hd)⟩

/-- Below its first address a memory in canonical form lists nothing. -/
theorem Memory.read_below {m : Memory} {q : Nat} (h : ∀ c ∈ m, q < c.1) : m.read q = 0 := by
  induction m with
  | nil => rfl
  | cons c m ih =>
    have hc := h c (List.mem_cons_self ..)
    simp only [Memory.read]
    rw [if_neg (by omega)]
    exact ih (fun d hd => h d (List.mem_cons_of_mem _ hd))

/-- The cells after a write are older ones and the one written. -/
theorem Memory.mem_write {m : Memory} {q : Nat} {v : Byte} {c : Host.Cell} (h : c ∈ m.write q v) :
    c ∈ m ∨ (c = (q, v) ∧ v ≠ 0) := by
  induction m with
  | nil =>
    simp only [Memory.write] at h
    split at h
    · cases h
    · exact Or.inr ⟨List.mem_singleton.1 h, by assumption⟩
  | cons d m ih =>
    simp only [Memory.write] at h
    split at h
    · rcases List.mem_cons.1 h with h | h
      · exact Or.inl (by rw [h]; exact List.mem_cons_self ..)
      · rcases ih h with h | h
        · exact Or.inl (List.mem_cons_of_mem _ h)
        · exact Or.inr h
    · split at h
      · split at h
        · exact Or.inl (List.mem_cons_of_mem _ h)
        · rcases List.mem_cons.1 h with h | h
          · exact Or.inr ⟨h, by assumption⟩
          · exact Or.inl (List.mem_cons_of_mem _ h)
      · split at h
        · exact Or.inl h
        · rcases List.mem_cons.1 h with h | h
          · exact Or.inr ⟨h, by assumption⟩
          · exact Or.inl h

/-- A write keeps the canonical form. -/
theorem Memory.write_wf {m : Memory} (h : m.wf = true) (q : Nat) (v : Byte) : (m.write q v).wf = true := by
  rw [Memory.wf_iff]
  refine ⟨?_, fun c hc => ?_⟩
  · induction m with
    | nil =>
      simp only [Memory.write]
      split <;> simp
    | cons d m ih =>
      have hd := (Memory.wf_iff _).1 h
      have hp := List.pairwise_cons.1 hd.1
      simp only [Memory.write]
      split
      · refine List.pairwise_cons.2 ⟨fun e he => ?_, ih (Memory.wf_tail h)⟩
        rcases Memory.mem_write he with he | he
        · exact hp.1 e he
        · rw [he.1]; assumption
      · split
        · split
          · exact hp.2
          · refine List.pairwise_cons.2 ⟨fun e he => ?_, hp.2⟩
            have := hp.1 e he
            dsimp only at *
            omega
        · split
          · exact hd.1
          · refine List.pairwise_cons.2 ⟨fun e he => ?_, hd.1⟩
            rcases List.mem_cons.1 he with he | he
            · rw [he]; dsimp only at *; omega
            · have := hp.1 e he
              dsimp only at *
              omega
  · rcases Memory.mem_write hc with hc | hc
    · exact ((Memory.wf_iff _).1 h).2 c hc
    · rw [hc.1]; exact hc.2

/-- A read after a write. -/
theorem Memory.read_write {m : Memory} (h : m.wf = true) (q : Nat) (v : Byte) (a : Nat) :
    (m.write q v).read a = if a = q then v else m.read a := by
  induction m with
  | nil =>
    simp only [Memory.write]
    split
    · rename_i hv
      simp only [Memory.read, hv]; split <;> rfl
    · show (if q = a then v else (0 : Byte)) = if a = q then v else 0
      simp only [eq_comm]
  | cons d m ih =>
    have hp := List.pairwise_cons.1 ((Memory.wf_iff _).1 h).1
    have ih := ih (Memory.wf_tail h)
    simp only [Memory.write]
    split
    · simp only [Memory.read, ih]
      split <;> split <;> first | rfl | omega
    · split
      · rename_i hlt heq
        split
        · rename_i hv
          simp only [Memory.read]
          by_cases ha : a = q
          · subst ha
            rw [if_pos rfl, hv]
            exact Memory.read_below (fun c hc => by have := hp.1 c hc; omega)
          · rw [if_neg ha, if_neg (by omega)]
        · simp only [Memory.read, heq]
          by_cases ha : q = a
          · rw [if_pos ha, if_pos ha.symm]
          · rw [if_neg ha, if_neg (fun x => ha x.symm), if_neg ha]
      · rename_i hlt hne
        split
        · rename_i hv
          by_cases ha : a = q
          · subst ha
            rw [if_pos rfl, hv]
            exact Memory.read_below (fun c hc => by
              rcases List.mem_cons.1 hc with hc | hc
              · rw [hc]; omega
              · have := hp.1 c hc; omega)
          · rw [if_neg ha]
        · show (if q = a then v else Memory.read (d :: m) a) = _
          simp only [eq_comm]

theorem Memory.writeMany_wf {m : Memory} (h : m.wf = true) (a : Nat) (bs : List Byte) : (m.writeMany a bs).wf = true := by
  induction bs generalizing m a with
  | nil => exact h
  | cons b bs ih => exact ih (Memory.write_wf h a b) (a + 1)

/-- Outside the bytes written a read gives what it gave. -/
theorem Memory.read_writeMany {m : Memory} (h : m.wf = true) (a : Nat) (bs : List Byte) (q : Nat)
    (hq : q < a ∨ a + bs.length ≤ q) : (m.writeMany a bs).read q = m.read q := by
  induction bs generalizing m a with
  | nil => rfl
  | cons b bs ih =>
    simp only [List.length_cons] at hq
    simp only [Memory.writeMany]
    rw [ih (Memory.write_wf h a b) (a + 1) (by omega), Memory.read_write h, if_neg (by omega)]

theorem cellsFrom_mem {a : Nat} {bs : List Byte} {c : Host.Cell} (h : c ∈ cellsFrom a bs) :
    a ≤ c.1 ∧ c.1 < a + bs.length ∧ c.2 ≠ 0 := by
  induction bs generalizing a with
  | nil => cases h
  | cons b bs ih =>
    simp only [cellsFrom] at h
    simp only [List.length_cons]
    split at h
    · have := ih h; exact ⟨by omega, by omega, this.2.2⟩
    · rcases List.mem_cons.1 h with h | h
      · subst h; exact ⟨Nat.le_refl _, by dsimp only; omega, by assumption⟩
      · have := ih h; exact ⟨by omega, by omega, this.2.2⟩

theorem cellsFrom_sorted (a : Nat) (bs : List Byte) : (cellsFrom a bs).Pairwise (fun c d => c.1 < d.1) := by
  induction bs generalizing a with
  | nil => exact List.Pairwise.nil
  | cons b bs ih =>
    simp only [cellsFrom]
    split
    · exact ih _
    · refine List.pairwise_cons.2 ⟨fun c hc => ?_, ih _⟩
      have := (cellsFrom_mem hc).1
      dsimp only
      omega

/-- Filling a region keeps the canonical form. -/
theorem Memory.fill_wf {m : Memory} (h : m.wf = true) (base size : Nat) (bs : List Byte) : (m.fill base size bs).wf = true := by
  have hm := (Memory.wf_iff m).1 h
  have hin : ∀ c ∈ cellsFrom base (bs.take size), base ≤ c.1 ∧ c.1 < base + size ∧ c.2 ≠ 0 := fun c hc => by
    have := cellsFrom_mem hc
    simp only [List.length_take] at this
    exact ⟨this.1, by omega, this.2.2⟩
  rw [Memory.wf_iff]
  unfold Memory.fill
  refine ⟨?_, ?_⟩
  · refine List.pairwise_append.2 ⟨List.pairwise_append.2 ⟨hm.1.filter _, cellsFrom_sorted _ _, ?_⟩, hm.1.filter _, ?_⟩
    · intro c hc d hd
      have := (List.mem_filter.1 hc).2
      have hd := hin d hd
      simp only [decide_eq_true_eq] at this
      omega
    · intro c hc d hd
      have hd := (List.mem_filter.1 hd).2
      simp only [decide_eq_true_eq] at hd
      rcases List.mem_append.1 hc with hc | hc
      · have := (List.mem_filter.1 hc).2
        simp only [decide_eq_true_eq] at this
        omega
      · have := hin c hc; omega
  · intro c hc
    rcases List.mem_append.1 hc with hc | hc
    · rcases List.mem_append.1 hc with hc | hc
      · exact hm.2 c (List.mem_filter.1 hc).1
      · exact (hin c hc).2.2
    · exact hm.2 c (List.mem_filter.1 hc).1

end Sys2Proof.Machine
end

