-- ==== Sys2Proof/Laws/Sessions.lean ====
section
/-!
SUPPORT. The bounds of the command protocol's stores (R363, R369, R370, R372) are kept by every operation on sessions.
-/

namespace Sys2Proof.Machine

theorem Session.reset_bounded : Session.reset.bounded := ⟨by decide, by decide, by decide⟩

/-- A session whose three stores are those of a bounded one is bounded. -/
theorem Session.bounded_of {z y : Session} (h : z.bounded) (h1 : y.replies = z.replies) (h2 : y.events = z.events)
    (h3 : y.txQueue = z.txQueue) : y.bounded := by
  unfold Session.bounded at *; rw [h1, h2, h3]; exact h

theorem Session.queueReply_bounded {z : Session} (h : z.bounded) (p : Packet) : (z.queueReply p).bounded := by
  unfold Session.queueReply Session.bounded at *
  split
  · rename_i hq
    simp only [Bool.and_eq_true, decide_eq_true_eq] at hq
    simp only [List.length_append, List.length_cons, List.length_nil]
    omega
  · exact h

theorem Session.storeEvent_bounded {z : Session} (h : z.bounded) (e : StoredEvent) : (z.storeEvent e).bounded := by
  unfold Session.storeEvent Session.bounded at *
  dsimp only
  split
  · rename_i hl
    exact ⟨h.1, hl, h.2.2⟩
  · split
    · exact h
    · rename_i hl
      have hx := congrArg List.length hl
      simp only [List.length_append, List.length_cons, List.length_nil] at hx
      split <;> exact ⟨h.1, by dsimp only; omega, h.2.2⟩

theorem Session.sendEvent_bounded {z : Session} (h : z.bounded) (i : SessIx) (code handle : Nat) (payload : List Byte) :
    (z.sendEvent i code handle payload).bounded := by
  unfold Session.sendEvent
  dsimp only
  split
  · exact h
  · have h1 := Session.storeEvent_bounded h { dseq := z.dseqNext, code := code, payload := payload }
    split
    · rename_i hq
      simp only [Bool.and_eq_true, decide_eq_true_eq] at hq
      unfold Session.bounded at *
      simp only [List.length_append, List.length_cons, List.length_nil]
      omega
    · exact Session.bounded_of h1 rfl rfl rfl

theorem Session.sendNext_bounded {z : Session} (h : z.bounded) : z.sendNext.bounded := by
  unfold Session.sendNext
  split
  · exact h
  · rename_i p rest hq
    unfold Session.bounded at *
    rw [hq] at h
    simp only [List.length_cons] at h
    dsimp only
    split
    · exact ⟨h.1, h.2.1, by dsimp only; omega⟩
    · refine ⟨h.1, h.2.1, ?_⟩
      simp only [List.length_append, List.length_cons, List.length_nil]
      omega

theorem Session.answer_bounded {z : Session} (h : z.bounded) (i : SessIx) (opcode tag dest : Nat) (a : Answer) :
    (z.answer i opcode tag dest a).bounded :=
  Session.bounded_of (Session.queueReply_bounded h _) rfl rfl rfl

theorem Session.answerClosed_bounded {z : Session} (h : z.bounded) (i : SessIx) (opcode tag dest : Nat) (a : Answer) :
    (z.answerClosed i opcode tag dest a).bounded := Session.queueReply_bounded h _

theorem Session.answerStored_bounded {z : Session} (h : z.bounded) (i : SessIx) (hseq opcode tag dest : Nat)
    (params : List Byte) (a : Answer) : (z.answerStored i hseq opcode tag dest params a).bounded := by
  have h1 := Session.answer_bounded h i opcode tag dest a
  refine ⟨?_, h1.2.1, h1.2.2⟩
  simp only [Session.answerStored, List.length_take]
  omega

theorem Session.takeDack_bounded {z : Session} (h : z.bounded) (d : Nat) : (z.takeDack d).bounded := by
  unfold Session.takeDack
  split
  · exact Session.bounded_of h rfl rfl rfl
  · exact h

theorem Session.discardStore_bounded {z : Session} (h : z.bounded) : z.discardStore.bounded :=
  ⟨Nat.zero_le _, Nat.zero_le _, h.2.2⟩

theorem Session.close_bounded {z : Session} (h : z.bounded) : z.close.bounded :=
  Session.bounded_of (Session.discardStore_bounded h) rfl rfl rfl

theorem Session.openWith_bounded {z : Session} (h : z.bounded) (r : Bool) (n : List Byte) : (z.openWith r n).bounded :=
  Session.bounded_of h rfl rfl rfl

theorem Session.openFresh_bounded {z : Session} (h : z.bounded) (q : Nat) : (z.openFresh q).bounded :=
  Session.bounded_of (Session.discardStore_bounded h) rfl rfl rfl

theorem Session.takeSegment_bounded {z : Session} (h : z.bounded) (data : List Byte) : (z.takeSegment data).1.bounded := by
  unfold Session.takeSegment
  dsimp only
  repeat' split
  all_goals exact Session.bounded_of h rfl rfl rfl

/-! ## The protocol as a whole -/

/-- Sessions from a bounded protocol with operations from it, in whatever list. -/
theorem Fcp.bounded_mk {f : Fcp} (h : f.bounded) {sessions : Vector Session 6} {commander ops nextHandle deferred counters}
    (hs : ∀ i : SessIx, sessions[i].bounded) (ho : ∀ i : SessIx, (ops.filter (fun o : Operation => o.session == i)).length
      ≤ (f.ops.filter (fun o => o.session == i)).length) :
    (Fcp.mk sessions commander ops nextHandle deferred counters).bounded :=
  ⟨hs, fun i => Nat.le_trans (ho i) (h.2 i)⟩

/-- A map that keeps each operation's session keeps their number. -/
theorem ops_map_length (ops : List Operation) (g : Operation → Operation) (hg : ∀ o, (g o).session = o.session) (i : SessIx) :
    ((ops.map g).filter (fun o => o.session == i)).length ≤ (ops.filter (fun o => o.session == i)).length := by
  induction ops with
  | nil => simp
  | cons o os ih =>
    simp only [List.map_cons, List.filter_cons, hg]
    split
    · simp only [List.length_cons]; omega
    · exact ih

theorem ops_filter_length (ops : List Operation) (p : Operation → Bool) (i : SessIx) :
    ((ops.filter p).filter (fun o => o.session == i)).length ≤ (ops.filter (fun o => o.session == i)).length := by
  rw [List.filter_filter, List.filter_congr (fun o _ => Bool.and_comm _ _), ← List.filter_filter]
  exact List.length_filter_le _ _

/-- A protocol with other commanders, handle, deferred replies or counters only. -/
theorem Fcp.bounded_same {f g : Fcp} (h : f.bounded) (h1 : g.sessions = f.sessions) (h2 : g.ops = f.ops) : g.bounded := by
  unfold Fcp.bounded Fcp.outstanding at *; rw [h1, h2]; exact h

/-- A protocol with other sessions. -/
theorem Fcp.bounded_sessions {f g : Fcp} (h : f.bounded) (h1 : ∀ i : SessIx, g.sessions[i].bounded) (h2 : g.ops = f.ops) :
    g.bounded := by
  unfold Fcp.bounded Fcp.outstanding at *; rw [h2]; exact ⟨h1, h.2⟩

theorem Fcp.bounded_rest {f : Fcp} {c n d k} (h : f.bounded) : (Fcp.mk f.sessions c f.ops n d k).bounded := Fcp.bounded_same h rfl rfl

/-- A protocol whose sessions send nothing any more. -/
theorem Fcp.silenced_bounded {f : Fcp} (h : f.bounded) :
    ({ f with sessions := tab 6 (fun i => { f.sessions[i] with txQueue := [], txWaiting := [] }) } : Fcp).bounded := by
  refine Fcp.bounded_sessions h (fun i => ?_) rfl
  dsimp only
  rw [tab_get]
  have hz := h.1 i
  exact ⟨hz.1, hz.2.1, Nat.zero_le _⟩

theorem Fcp.pauseAll_bounded {f : Fcp} (h : f.bounded) : f.pauseAll.bounded := by
  refine Fcp.bounded_sessions h (fun i => ?_) rfl
  dsimp only [Fcp.pauseAll]
  rw [tab_get]
  have hz := h.1 i
  split
  · exact hz
  · exact hz

/-- A protocol with other operations. -/
theorem Fcp.bounded_ops {f g : Fcp} (h : f.bounded) (h1 : g.sessions = f.sessions)
    (ho : ∀ i : SessIx, (g.ops.filter (fun o => o.session == i)).length ≤ (f.ops.filter (fun o => o.session == i)).length) :
    g.bounded := by
  unfold Fcp.bounded Fcp.outstanding at *; rw [h1]; exact ⟨h.1, fun i => Nat.le_trans (ho i) (h.2 i)⟩

/-- A protocol with no operation. -/
theorem Fcp.cleared_bounded {f : Fcp} {c n d k} (h : f.bounded) : (Fcp.mk f.sessions c [] n d k).bounded :=
  Fcp.bounded_ops h rfl (fun _ => Nat.zero_le _)

theorem Fcp.reset_bounded : Fcp.reset.bounded :=
  ⟨fun i => by
    show ((tab 6 (fun _ => Session.reset))[i]).bounded
    rw [tab_get]
    exact Session.reset_bounded, fun _ => Nat.zero_le _⟩

theorem Fcp.session_bounded {f : Fcp} (h : f.bounded) (i : SessIx) {g : Session → Session}
    (hg : ∀ z : Session, z.bounded → (g z).bounded) : (f.session i g).bounded := by
  refine Fcp.bounded_sessions h (fun j => ?_) rfl
  simp only [Fcp.session, Fin.getElem_fin, Vector.getElem_set]
  split
  · exact hg _ (h.1 i)
  · exact h.1 j

theorem Fcp.count_bounded {f : Fcp} (h : f.bounded) (g : FcpCounters → FcpCounters) : (f.count g).bounded :=
  Fcp.bounded_same h rfl rfl

theorem Fcp.onOp_bounded {f : Fcp} (h : f.bounded) (n : Nat) {g : Operation → Operation}
    (hg : ∀ o, (g o).session = o.session) : (f.onOp n g).bounded := by
  refine Fcp.bounded_ops h rfl (ops_map_length _ _ (fun o => ?_))
  split
  · exact hg o
  · rfl

theorem Fcp.eventAll_bounded {f : Fcp} (h : f.bounded) (code : Nat) (p : List Byte) : (f.eventAll code p).bounded := by
  refine Fcp.bounded_sessions h (fun j => ?_) rfl
  simp only [Fcp.eventAll, tab_get]
  exact Session.sendEvent_bounded (h.1 j) _ _ _ _

theorem Fcp.eventState_bounded {f : Fcp} (h : f.bounded) (now : Nat) (i : SessIx) (a b : SessState) :
    (f.eventState now i a b).bounded := by
  refine Fcp.bounded_sessions h (fun j => ?_) rfl
  simp only [Fcp.eventState, tab_get]
  split
  · exact h.1 j
  · exact Session.sendEvent_bounded (h.1 j) _ _ _ _

theorem Fcp.enterState_bounded {f : Fcp} (h : f.bounded) (now : Nat) (i : SessIx) (x : SessState) :
    (f.enterState now i x).bounded := by
  have hc : (f.session i (fun z => { z with state := x })).bounded :=
    Fcp.session_bounded h i (fun z hz => Session.bounded_of hz rfl rfl rfl)
  unfold Fcp.enterState
  dsimp only
  split
  · exact h
  · exact Fcp.eventState_bounded hc _ _ _ _

theorem Fcp.setCommanders_bounded {f : Fcp} (h : f.bounded) (now : Nat) (g : DoorIx → Option SessIx) :
    (f.setCommanders now g).bounded := by
  unfold Fcp.setCommanders
  dsimp only
  have h' : ({ f with commander := tab 8 g } : Fcp).bounded := Fcp.bounded_same h rfl rfl
  split
  · exact h'
  · exact Fcp.eventAll_bounded h' _ _

theorem Fcp.takePrimaries_bounded {f : Fcp} (h : f.bounded) (c : Cfg) (now : Nat) (i : SessIx) :
    (f.takePrimaries c now i).bounded := Fcp.setCommanders_bounded h _ _

theorem Fcp.closeSession_bounded {f : Fcp} (h : f.bounded) (now : Nat) (i : SessIx) (held : Bool) :
    (f.closeSession now i held).bounded := by
  have hc : (f.session i Session.close).bounded := Fcp.session_bounded h i (fun z hz => Session.close_bounded hz)
  unfold Fcp.closeSession
  dsimp only
  split
  · exact h
  · split
    · exact Fcp.eventState_bounded hc _ _ _ _
    · exact Fcp.setCommanders_bounded (Fcp.eventState_bounded hc _ _ _ _) _ _

theorem Fcp.claim_bounded {f : Fcp} (h : f.bounded) (c : Cfg) (now : Nat) (i : SessIx) (mask : Nat) :
    (f.claim c now i mask).bounded := Fcp.setCommanders_bounded (Fcp.count_bounded h _) _ _

/-- An operation is added for a session with fewer than sixteen. -/
theorem Fcp.started_bounded {f : Fcp} (h : f.bounded) {o : Operation} {n : Nat} (hn : (f.outstanding o.session).length < 16) :
    ({ f with ops := f.ops ++ [o], nextHandle := n } : Fcp).bounded := by
  refine ⟨h.1, fun i => ?_⟩
  have hi := h.2 i
  unfold Fcp.outstanding at *
  simp only [List.filter_append, List.length_append, List.filter_cons, List.filter_nil]
  split
  · rename_i he
    have : o.session = i := by simpa using he
    subst this
    simp only [List.length_cons, List.length_nil]
    omega
  · simp only [List.length_nil]
    omega

end Sys2Proof.Machine
end

