-- ==== Sys2Proof/Laws/Keeps.lean ====
section
/-!
SUPPORT. One relation says of a run of operations that only the named parts of State change and that the invariant is kept; the
lemmas here let it pass through record updates, folds and the parts that hold sessions and the application's memory.
-/

namespace Sys2Proof.Machine

/-- Only the named parts change, and the invariant is kept. -/
structure Keeps (ps : List Part) (s t : State) : Prop where
  only : OnlyChanges ps s t
  fcp  : s.fcp.bounded → t.fcp.bounded
  mem  : s.engines.memOk → t.engines.memOk

theorem Keeps.refl (ps : List Part) (s : State) : Keeps ps s s :=
  ⟨fun p _ => by cases p <;> rfl, id, id⟩

theorem Part.same_trans {p : Part} {s t u : State} (h1 : p.same s t) (h2 : p.same t u) : p.same s u := by
  cases p <;> exact Eq.trans h2 h1

theorem Keeps.trans {ps : List Part} {s t u : State} (h1 : Keeps ps s t) (h2 : Keeps ps t u) : Keeps ps s u :=
  ⟨fun p hp => Part.same_trans (h1.only p hp) (h2.only p hp), fun h => h2.fcp (h1.fcp h), fun h => h2.mem (h1.mem h)⟩

theorem Keeps.inv {ps : List Part} {s t : State} (h : Keeps ps s t) (hi : s.Inv) : t.Inv := ⟨h.fcp hi.fcp, h.mem hi.mem⟩

/-- More parts may be named. -/
theorem Keeps.mono {ps qs : List Part} {s t : State} (hs : ∀ p ∈ ps, p ∈ qs) (h : Keeps ps s t) : Keeps qs s t :=
  ⟨fun p hp => h.only p (fun hq => hp (hs p hq)), h.fcp, h.mem⟩

/-- Named parts are among named parts. -/
def Within (qs ps : List Part) : Prop := ∀ p, p ∈ qs → p ∈ ps

theorem Within.refl (ps : List Part) : Within ps ps := fun _ h => h

theorem Within.of {as qs ps : List Part} (h : Within qs ps) (hq : (as.all (fun p => qs.contains p)) = true) : Within as ps :=
  fun p hp => h p (by
    have := List.all_eq_true.1 hq p hp
    simpa using this)

theorem Within.has {qs ps : List Part} (h : Within qs ps) (p : Part) (hp : (qs.contains p) = true) : p ∈ ps :=
  h p (by simpa using hp)

theorem Keeps.dite {ps : List Part} {s0 : State} {c : Prop} {dc : Decidable c} {f : c → State} {g : ¬c → State}
    (hs : ∀ h, Keeps ps s0 (f h)) (ht : ∀ h, Keeps ps s0 (g h)) : Keeps ps s0 (if h : c then f h else g h) := by
  split
  · exact hs _
  · exact ht _

/-! ## Record updates of a state, by the parts they write -/

/-- `s` with another `free`. -/
def State.putFree (s : State) (x : Nat) : State := { s with free := x }

theorem Keeps.putFree {ps : List Part} {s0 s : State} {x : Nat} (hw : Within [.free] ps) (h : Keeps ps s0 s) :
    Keeps ps s0 (s.putFree x) :=
  h.trans ⟨fun p hp => by cases p <;> first | exact absurd (hw.has _ rfl) hp | rfl, id, id⟩

/-- `s` with another `now`. -/
def State.putNow (s : State) (x : Nat) : State := { s with now := x }

theorem Keeps.putNow {ps : List Part} {s0 s : State} {x : Nat} (hw : Within [.now] ps) (h : Keeps ps s0 s) :
    Keeps ps s0 (s.putNow x) :=
  h.trans ⟨fun p hp => by cases p <;> first | exact absurd (hw.has _ rfl) hp | rfl, id, id⟩

/-- `s` with another `mono`. -/
def State.putMono (s : State) (x : Nat) : State := { s with mono := x }

theorem Keeps.putMono {ps : List Part} {s0 s : State} {x : Nat} (hw : Within [.mono] ps) (h : Keeps ps s0 s) :
    Keeps ps s0 (s.putMono x) :=
  h.trans ⟨fun p hp => by cases p <;> first | exact absurd (hw.has _ rfl) hp | rfl, id, id⟩

/-- `s` with another `half`. -/
def State.putHalf (s : State) (x : Bool) : State := { s with half := x }

theorem Keeps.putHalf {ps : List Part} {s0 s : State} {x : Bool} (hw : Within [.half] ps) (h : Keeps ps s0 s) :
    Keeps ps s0 (s.putHalf x) :=
  h.trans ⟨fun p hp => by cases p <;> first | exact absurd (hw.has _ rfl) hp | rfl, id, id⟩

/-- `s` with another `doors`. -/
def State.putDoors (s : State) (x : Vector Doorway 8) : State := { s with doors := x }

theorem Keeps.putDoors {ps : List Part} {s0 s : State} {x : Vector Doorway 8} (hw : Within [.doors] ps) (h : Keeps ps s0 s) :
    Keeps ps s0 (s.putDoors x) :=
  h.trans ⟨fun p hp => by cases p <;> first | exact absurd (hw.has _ rfl) hp | rfl, id, id⟩

/-- `s` with another `encoders`. -/
def State.putEncoders (s : State) (x : Vector Encoder 2) : State := { s with encoders := x }

theorem Keeps.putEncoders {ps : List Part} {s0 s : State} {x : Vector Encoder 2} (hw : Within [.encoders] ps) (h : Keeps ps s0 s) :
    Keeps ps s0 (s.putEncoders x) :=
  h.trans ⟨fun p hp => by cases p <;> first | exact absurd (hw.has _ rfl) hp | rfl, id, id⟩

/-- `s` with another `quince`. -/
def State.putQuince (s : State) (x : Quince) : State := { s with quince := x }

theorem Keeps.putQuince {ps : List Part} {s0 s : State} {x : Quince} (hw : Within [.quince] ps) (h : Keeps ps s0 s) :
    Keeps ps s0 (s.putQuince x) :=
  h.trans ⟨fun p hp => by cases p <;> first | exact absurd (hw.has _ rfl) hp | rfl, id, id⟩

/-- `s` with another `train`. -/
def State.putTrain (s : State) (x : InGroup) : State := { s with train := x }

theorem Keeps.putTrain {ps : List Part} {s0 s : State} {x : InGroup} (hw : Within [.train] ps) (h : Keeps ps s0 s) :
    Keeps ps s0 (s.putTrain x) :=
  h.trans ⟨fun p hp => by cases p <;> first | exact absurd (hw.has _ rfl) hp | rfl, id, id⟩

/-- `s` with another `loop`. -/
def State.putLoop (s : State) (x : Loop) : State := { s with loop := x }

theorem Keeps.putLoop {ps : List Part} {s0 s : State} {x : Loop} (hw : Within [.loop] ps) (h : Keeps ps s0 s) :
    Keeps ps s0 (s.putLoop x) :=
  h.trans ⟨fun p hp => by cases p <;> first | exact absurd (hw.has _ rfl) hp | rfl, id, id⟩

/-- `s` with another `lsw`. -/
def State.putLsw (s : State) (x : LoadSwitches) : State := { s with lsw := x }

theorem Keeps.putLsw {ps : List Part} {s0 s : State} {x : LoadSwitches} (hw : Within [.lsw] ps) (h : Keeps ps s0 s) :
    Keeps ps s0 (s.putLsw x) :=
  h.trans ⟨fun p hp => by cases p <;> first | exact absurd (hw.has _ rfl) hp | rfl, id, id⟩

/-- `s` with another `outs`. -/
def State.putOuts (s : State) (x : FieldOutputs) : State := { s with outs := x }

theorem Keeps.putOuts {ps : List Part} {s0 s : State} {x : FieldOutputs} (hw : Within [.outs] ps) (h : Keeps ps s0 s) :
    Keeps ps s0 (s.putOuts x) :=
  h.trans ⟨fun p hp => by cases p <;> first | exact absurd (hw.has _ rfl) hp | rfl, id, id⟩

/-- `s` with another `fcp`. -/
def State.putFcp (s : State) (x : Fcp) : State := { s with fcp := x }

theorem Keeps.putFcp {ps : List Part} {s0 s : State} {x : Fcp} (hw : Within [.fcp] ps) (h : Keeps ps s0 s)
    (hf : s.fcp.bounded → x.bounded) :
    Keeps ps s0 (s.putFcp x) :=
  h.trans ⟨fun p hp => by cases p <;> first | exact absurd (hw.has _ rfl) hp | rfl, hf, id⟩

/-- `s` with another `log`. -/
def State.putLog (s : State) (x : Recorder) : State := { s with log := x }

theorem Keeps.putLog {ps : List Part} {s0 s : State} {x : Recorder} (hw : Within [.log] ps) (h : Keeps ps s0 s) :
    Keeps ps s0 (s.putLog x) :=
  h.trans ⟨fun p hp => by cases p <;> first | exact absurd (hw.has _ rfl) hp | rfl, id, id⟩

/-- `s` with another `ring`. -/
def State.putRing (s : State) (x : Ring) : State := { s with ring := x }

theorem Keeps.putRing {ps : List Part} {s0 s : State} {x : Ring} (hw : Within [.ring] ps) (h : Keeps ps s0 s) :
    Keeps ps s0 (s.putRing x) :=
  h.trans ⟨fun p hp => by cases p <;> first | exact absurd (hw.has _ rfl) hp | rfl, id, id⟩

/-- `s` with another `can`. -/
def State.putCan (s : State) (x : Can) : State := { s with can := x }

theorem Keeps.putCan {ps : List Part} {s0 s : State} {x : Can} (hw : Within [.can] ps) (h : Keeps ps s0 s) :
    Keeps ps s0 (s.putCan x) :=
  h.trans ⟨fun p hp => by cases p <;> first | exact absurd (hw.has _ rfl) hp | rfl, id, id⟩

/-- `s` with another `power`. -/
def State.putPower (s : State) (x : Power) : State := { s with power := x }

theorem Keeps.putPower {ps : List Part} {s0 s : State} {x : Power} (hw : Within [.power] ps) (h : Keeps ps s0 s) :
    Keeps ps s0 (s.putPower x) :=
  h.trans ⟨fun p hp => by cases p <;> first | exact absurd (hw.has _ rfl) hp | rfl, id, id⟩

/-- `s` with another `engines`. -/
def State.putEngines (s : State) (x : Engines) : State := { s with engines := x }

theorem Keeps.putEngines {ps : List Part} {s0 s : State} {x : Engines} (hw : Within [.engines] ps) (h : Keeps ps s0 s)
    (he : s.engines.memOk → x.memOk) :
    Keeps ps s0 (s.putEngines x) :=
  h.trans ⟨fun p hp => by cases p <;> first | exact absurd (hw.has _ rfl) hp | rfl, id, he⟩

/-- `s` with another `service`. -/
def State.putService (s : State) (x : Service) : State := { s with service := x }

theorem Keeps.putService {ps : List Part} {s0 s : State} {x : Service} (hw : Within [.service] ps) (h : Keeps ps s0 s) :
    Keeps ps s0 (s.putService x) :=
  h.trans ⟨fun p hp => by cases p <;> first | exact absurd (hw.has _ rfl) hp | rfl, id, id⟩

/-- `s` with another `config`. -/
def State.putConfig (s : State) (x : ConfigStore) : State := { s with config := x }

theorem Keeps.putConfig {ps : List Part} {s0 s : State} {x : ConfigStore} (hw : Within [.config] ps) (h : Keeps ps s0 s) :
    Keeps ps s0 (s.putConfig x) :=
  h.trans ⟨fun p hp => by cases p <;> first | exact absurd (hw.has _ rfl) hp | rfl, id, id⟩

theorem State.put_free (s : State) {free} :
    State.mk s.pending free s.now s.mono s.half s.doors s.encoders s.quince s.train s.loop s.lsw s.outs s.fcp
      s.log s.ring s.can s.power s.engines s.service s.config =
      s.putFree free := rfl

theorem State.put_now (s : State) {now} :
    State.mk s.pending s.free now s.mono s.half s.doors s.encoders s.quince s.train s.loop s.lsw s.outs s.fcp
      s.log s.ring s.can s.power s.engines s.service s.config =
      s.putNow now := rfl

theorem State.put_half (s : State) {half} :
    State.mk s.pending s.free s.now s.mono half s.doors s.encoders s.quince s.train s.loop s.lsw s.outs s.fcp
      s.log s.ring s.can s.power s.engines s.service s.config =
      s.putHalf half := rfl

theorem State.put_doors (s : State) {doors} :
    State.mk s.pending s.free s.now s.mono s.half doors s.encoders s.quince s.train s.loop s.lsw s.outs s.fcp
      s.log s.ring s.can s.power s.engines s.service s.config =
      s.putDoors doors := rfl

theorem State.put_encoders (s : State) {encoders} :
    State.mk s.pending s.free s.now s.mono s.half s.doors encoders s.quince s.train s.loop s.lsw s.outs s.fcp
      s.log s.ring s.can s.power s.engines s.service s.config =
      s.putEncoders encoders := rfl

theorem State.put_quince (s : State) {quince} :
    State.mk s.pending s.free s.now s.mono s.half s.doors s.encoders quince s.train s.loop s.lsw s.outs s.fcp
      s.log s.ring s.can s.power s.engines s.service s.config =
      s.putQuince quince := rfl

theorem State.put_train (s : State) {train} :
    State.mk s.pending s.free s.now s.mono s.half s.doors s.encoders s.quince train s.loop s.lsw s.outs s.fcp
      s.log s.ring s.can s.power s.engines s.service s.config =
      s.putTrain train := rfl

theorem State.put_loop (s : State) {loop} :
    State.mk s.pending s.free s.now s.mono s.half s.doors s.encoders s.quince s.train loop s.lsw s.outs s.fcp
      s.log s.ring s.can s.power s.engines s.service s.config =
      s.putLoop loop := rfl

theorem State.put_lsw (s : State) {lsw} :
    State.mk s.pending s.free s.now s.mono s.half s.doors s.encoders s.quince s.train s.loop lsw s.outs s.fcp
      s.log s.ring s.can s.power s.engines s.service s.config =
      s.putLsw lsw := rfl

theorem State.put_outs (s : State) {outs} :
    State.mk s.pending s.free s.now s.mono s.half s.doors s.encoders s.quince s.train s.loop s.lsw outs s.fcp
      s.log s.ring s.can s.power s.engines s.service s.config =
      s.putOuts outs := rfl

theorem State.put_fcp (s : State) {fcp} :
    State.mk s.pending s.free s.now s.mono s.half s.doors s.encoders s.quince s.train s.loop s.lsw s.outs fcp
      s.log s.ring s.can s.power s.engines s.service s.config =
      s.putFcp fcp := rfl

theorem State.put_log (s : State) {log} :
    State.mk s.pending s.free s.now s.mono s.half s.doors s.encoders s.quince s.train s.loop s.lsw s.outs s.fcp
      log s.ring s.can s.power s.engines s.service s.config =
      s.putLog log := rfl

theorem State.put_ring (s : State) {ring} :
    State.mk s.pending s.free s.now s.mono s.half s.doors s.encoders s.quince s.train s.loop s.lsw s.outs s.fcp
      s.log ring s.can s.power s.engines s.service s.config =
      s.putRing ring := rfl

theorem State.put_can (s : State) {can} :
    State.mk s.pending s.free s.now s.mono s.half s.doors s.encoders s.quince s.train s.loop s.lsw s.outs s.fcp
      s.log s.ring can s.power s.engines s.service s.config =
      s.putCan can := rfl

theorem State.put_power (s : State) {power} :
    State.mk s.pending s.free s.now s.mono s.half s.doors s.encoders s.quince s.train s.loop s.lsw s.outs s.fcp
      s.log s.ring s.can power s.engines s.service s.config =
      s.putPower power := rfl

theorem State.put_engines (s : State) {engines} :
    State.mk s.pending s.free s.now s.mono s.half s.doors s.encoders s.quince s.train s.loop s.lsw s.outs s.fcp
      s.log s.ring s.can s.power engines s.service s.config =
      s.putEngines engines := rfl

theorem State.put_service (s : State) {service} :
    State.mk s.pending s.free s.now s.mono s.half s.doors s.encoders s.quince s.train s.loop s.lsw s.outs s.fcp
      s.log s.ring s.can s.power s.engines service s.config =
      s.putService service := rfl

theorem State.put_config (s : State) {config} :
    State.mk s.pending s.free s.now s.mono s.half s.doors s.encoders s.quince s.train s.loop s.lsw s.outs s.fcp
      s.log s.ring s.can s.power s.engines s.service config =
      s.putConfig config := rfl

theorem State.put_now_ring (s : State) {now ring} :
    State.mk s.pending s.free now s.mono s.half s.doors s.encoders s.quince s.train s.loop s.lsw s.outs s.fcp
      s.log ring s.can s.power s.engines s.service s.config =
      (s.putNow now).putRing ring := rfl

theorem State.put_doors_quince (s : State) {doors quince} :
    State.mk s.pending s.free s.now s.mono s.half doors s.encoders quince s.train s.loop s.lsw s.outs s.fcp s.log
      s.ring s.can s.power s.engines s.service s.config =
      (s.putDoors doors).putQuince quince := rfl

theorem State.put_doors_train (s : State) {doors train} :
    State.mk s.pending s.free s.now s.mono s.half doors s.encoders s.quince train s.loop s.lsw s.outs s.fcp s.log
      s.ring s.can s.power s.engines s.service s.config =
      (s.putDoors doors).putTrain train := rfl

theorem State.put_doors_log (s : State) {doors log} :
    State.mk s.pending s.free s.now s.mono s.half doors s.encoders s.quince s.train s.loop s.lsw s.outs s.fcp log
      s.ring s.can s.power s.engines s.service s.config =
      (s.putDoors doors).putLog log := rfl

theorem State.put_quince_log (s : State) {quince log} :
    State.mk s.pending s.free s.now s.mono s.half s.doors s.encoders quince s.train s.loop s.lsw s.outs s.fcp log
      s.ring s.can s.power s.engines s.service s.config =
      (s.putQuince quince).putLog log := rfl

theorem State.put_train_loop (s : State) {train loop} :
    State.mk s.pending s.free s.now s.mono s.half s.doors s.encoders s.quince train loop s.lsw s.outs s.fcp s.log
      s.ring s.can s.power s.engines s.service s.config =
      (s.putTrain train).putLoop loop := rfl

theorem State.put_loop_outs (s : State) {loop outs} :
    State.mk s.pending s.free s.now s.mono s.half s.doors s.encoders s.quince s.train loop s.lsw outs s.fcp s.log
      s.ring s.can s.power s.engines s.service s.config =
      (s.putLoop loop).putOuts outs := rfl

theorem State.put_loop_log (s : State) {loop log} :
    State.mk s.pending s.free s.now s.mono s.half s.doors s.encoders s.quince s.train loop s.lsw s.outs s.fcp log
      s.ring s.can s.power s.engines s.service s.config =
      (s.putLoop loop).putLog log := rfl

theorem State.put_fcp_log (s : State) {fcp log} :
    State.mk s.pending s.free s.now s.mono s.half s.doors s.encoders s.quince s.train s.loop s.lsw s.outs fcp log
      s.ring s.can s.power s.engines s.service s.config =
      (s.putFcp fcp).putLog log := rfl

theorem State.put_can_engines (s : State) {can engines} :
    State.mk s.pending s.free s.now s.mono s.half s.doors s.encoders s.quince s.train s.loop s.lsw s.outs s.fcp
      s.log s.ring can s.power engines s.service s.config =
      (s.putEngines engines).putCan can := rfl

theorem State.put_doors_train_loop (s : State) {doors train loop} :
    State.mk s.pending s.free s.now s.mono s.half doors s.encoders s.quince train loop s.lsw s.outs s.fcp s.log
      s.ring s.can s.power s.engines s.service s.config =
      ((s.putDoors doors).putTrain train).putLoop loop := by
  simp only [State.putDoors, State.putLoop, State.putTrain]

theorem State.put_encoders_loop_fcp (s : State) {encoders loop fcp} :
    State.mk s.pending s.free s.now s.mono s.half s.doors encoders s.quince s.train loop s.lsw s.outs fcp s.log
      s.ring s.can s.power s.engines s.service s.config =
      ((s.putFcp fcp).putEncoders encoders).putLoop loop := by
  simp only [State.putEncoders, State.putFcp, State.putLoop]

theorem State.put_loop_lsw_outs (s : State) {loop lsw outs} :
    State.mk s.pending s.free s.now s.mono s.half s.doors s.encoders s.quince s.train loop lsw outs s.fcp s.log
      s.ring s.can s.power s.engines s.service s.config =
      ((s.putLoop loop).putLsw lsw).putOuts outs := by
  simp only [State.putLoop, State.putLsw, State.putOuts]

theorem State.put_fcp_service_config (s : State) {fcp service config} :
    State.mk s.pending s.free s.now s.mono s.half s.doors s.encoders s.quince s.train s.loop s.lsw s.outs fcp
      s.log s.ring s.can s.power s.engines service config =
      ((s.putFcp fcp).putService service).putConfig config := by
  simp only [State.putConfig, State.putFcp, State.putService]

theorem State.put_loop_lsw_outs_config (s : State) {loop lsw outs config} :
    State.mk s.pending s.free s.now s.mono s.half s.doors s.encoders s.quince s.train loop lsw outs s.fcp s.log
      s.ring s.can s.power s.engines s.service config =
      (((s.putLoop loop).putLsw lsw).putOuts outs).putConfig config := by
  simp only [State.putConfig, State.putLoop, State.putLsw, State.putOuts]

theorem State.put_fcp_can_power_config (s : State) {fcp can power config} :
    State.mk s.pending s.free s.now s.mono s.half s.doors s.encoders s.quince s.train s.loop s.lsw s.outs fcp
      s.log s.ring can power s.engines s.service config =
      (((s.putFcp fcp).putCan can).putPower power).putConfig config := by
  simp only [State.putCan, State.putConfig, State.putFcp, State.putPower]

theorem State.put_doors_loop_can_engines_config (s : State) {doors loop can engines config} :
    State.mk s.pending s.free s.now s.mono s.half doors s.encoders s.quince s.train loop s.lsw s.outs s.fcp s.log
      s.ring can s.power engines s.service config =
      ((((s.putEngines engines).putDoors doors).putLoop loop).putCan can).putConfig config := by
  simp only [State.putCan, State.putConfig, State.putDoors, State.putEngines, State.putLoop]

theorem State.put_doors_ring_can_power_engines (s : State) {doors ring can power engines} :
    State.mk s.pending s.free s.now s.mono s.half doors s.encoders s.quince s.train s.loop s.lsw s.outs s.fcp
      s.log ring can power engines s.service s.config =
      ((((s.putEngines engines).putDoors doors).putRing ring).putCan can).putPower power := by
  simp only [State.putCan, State.putDoors, State.putEngines, State.putPower, State.putRing]

theorem State.put_now_mono_lsw_outs_power_service (s : State) {now mono lsw outs power service} :
    State.mk s.pending s.free now mono s.half s.doors s.encoders s.quince s.train s.loop lsw outs s.fcp s.log
      s.ring s.can power s.engines service s.config =
      (((((s.putNow now).putMono mono).putLsw lsw).putOuts outs).putPower power).putService service := by
  simp only [State.putLsw, State.putMono, State.putNow, State.putOuts, State.putPower, State.putService]

theorem State.put_doors_train_loop_lsw_outs_ring (s : State) {doors train loop lsw outs ring} :
    State.mk s.pending s.free s.now s.mono s.half doors s.encoders s.quince train loop lsw outs s.fcp s.log ring
      s.can s.power s.engines s.service s.config =
      (((((s.putDoors doors).putTrain train).putLoop loop).putLsw lsw).putOuts outs).putRing ring := by
  simp only [State.putDoors, State.putLoop, State.putLsw, State.putOuts, State.putRing, State.putTrain]

theorem State.put_half_doors_encoders_quince_log_can_engines_service (s : State) {half doors encoders quince log can engines service} :
    State.mk s.pending s.free s.now s.mono half doors encoders quince s.train s.loop s.lsw s.outs s.fcp log
      s.ring can s.power engines service s.config =
      (((((((s.putEngines engines).putHalf half).putDoors doors).putEncoders encoders).putQuince quince).putLog log).putCan can).putService service := by
  simp only [State.putCan, State.putDoors, State.putEncoders, State.putEngines, State.putHalf, State.putLog, State.putQuince, State.putService]

theorem State.put_lsw_outs_log_ring_can_power_service_config (s : State) {lsw outs log ring can power service config} :
    State.mk s.pending s.free s.now s.mono s.half s.doors s.encoders s.quince s.train s.loop lsw outs s.fcp log
      ring can power s.engines service config =
      (((((((s.putLsw lsw).putOuts outs).putLog log).putRing ring).putCan can).putPower power).putService service).putConfig config := by
  simp only [State.putCan, State.putConfig, State.putLog, State.putLsw, State.putOuts, State.putPower, State.putRing, State.putService]

/-- A fold of an operation. -/
theorem Keeps.foldl {α : Type} {ps : List Part} {s0 s : State} (l : List α) {f : State → α → State}
    (hf : ∀ t x, Keeps ps s0 t → Keeps ps s0 (f t x)) (h : Keeps ps s0 s) : Keeps ps s0 (l.foldl f s) := by
  induction l generalizing s with
  | nil => exact h
  | cons a l ih => exact ih (hf s a h)

/-- What a reply of a command may change, before and after it. -/
structure ReplyKeeps (ps : List Part) (s0 : State) (r : Reply) : Prop where
  state : Keeps ps s0 r.state
  after : ∀ t, Keeps ps s0 t → Keeps ps s0 (r.after t)

theorem ReplyKeeps.ite {ps : List Part} {s0 : State} {r q : Reply} {c : Prop} {dc : Decidable c} (hr : ReplyKeeps ps s0 r)
    (hq : ReplyKeeps ps s0 q) : ReplyKeeps ps s0 (if c then r else q) := by split <;> assumption

/-- What a request may change. -/
abbrev ReqKeeps (ps : List Part) (q : Req) : Prop := ∀ h i s0 s, Keeps ps s0 s → ReplyKeeps ps s0 (q.act h i s)

/-! ## Engines -/

theorem Engines.memOk_same {g k : Engines} (h : g.memOk) (he : k.app.mem = g.app.mem) : k.memOk := by
  unfold Engines.memOk at *; rw [he]; exact h

theorem Engines.onApp_memOk {g : Engines} (h : g.memOk) {f : App → App} (hf : ∀ a : App, a.mem.wf = true → (f a).mem.wf = true) :
    (g.onApp f).memOk := hf _ h

theorem App.post_mem (a : App) (k : Fin 4) (n : Nat) : (a.post k n).mem = a.mem := by
  unfold App.post; split <;> rfl

theorem App.deliver_wf {a : App} (h : a.mem.wf = true) (p : List Byte) : (a.deliver p).mem.wf = true :=
  Memory.writeMany_wf h _ _

theorem App.clearMailbox_wf {a : App} (h : a.mem.wf = true) : a.clearMailbox.mem.wf = true := Memory.fill_wf h _ _ _

theorem App.mem_same {a b : App} (h : a.mem.wf = true) (he : b.mem = a.mem) : b.mem.wf = true := by rw [he]; exact h

theorem App.take_mem {a b : App} {l : List Byte} (h : a.take = some (b, l)) : b.mem = a.mem := by
  unfold App.take at h
  split at h
  · cases h
  · injection h with h; injection h with h _; rw [← h]

theorem Engines.appStart_memOk {g : Engines} (h : g.memOk) (c : Cfg) (now mono : Nat) : (g.appStart c now mono).1.memOk := by
  unfold Engines.appStart
  dsimp only
  split
  · exact h
  · exact Memory.fill_wf (Memory.fill_wf (Memory.fill_wf h _ _ _) _ _ _) _ _ _

theorem Engines.appEnd_memOk {g : Engines} (h : g.memOk) (now cause : Nat) : (g.appEnd now cause).1.memOk := by
  unfold Engines.appEnd
  dsimp only
  split <;> exact h

theorem Engines.again_memOk {g : Engines} (h : g.memOk) (now : Nat) (e : Fin 12) : (g.again now e).1.memOk := by
  unfold Engines.again
  dsimp only
  split <;> exact h

theorem Engines.pairAgain_memOk {g : Engines} (h : g.memOk) (now : Nat) : (g.pairAgain now).1.memOk := by
  unfold Engines.pairAgain
  refine Engines.again_memOk ?_ now 8
  exact Engines.memOk_same h rfl

theorem Engines.unpowered_memOk (g : Engines) : g.unpowered.memOk := rfl

theorem Engines.asleep_memOk (g : Engines) : g.asleep.memOk := rfl

end Sys2Proof.Machine
end

