-- ==== Sys2Proof/Laws/KeepsViews.lean ====
section
/-!
SUPPORT. For every operation of Machine/Views.lean: the parts of State it may change, and that it keeps the invariant.
-/

set_option linter.unusedVariables false
set_option linter.unusedSimpArgs false

namespace Sys2Proof.Machine

theorem State.onDoor_keeps {ps : List Part} {s0 s : State} (hw : Within [.doors] ps) (h : Keeps ps s0 s) (a2 : DoorIx)
    (a3 : (Doorway → Doorway)) :
    Keeps ps s0 (State.onDoor s a2 a3) := by
  unfold State.onDoor
  repeat' (first
    | (with_reducible assumption) | (with_reducible exact id) | (with_reducible refine Keeps.ite ?_ ?_)
    | rw [State.put_doors] | (with_reducible refine Keeps.putDoors (hw.of rfl) ?_)
    | (with_reducible refine Keeps.foldl _ (fun _ _ _ => ?_) ?_) | intro _ | split | dsimp only)

theorem State.fresh_keeps {ps : List Part} {s0 s : State} (hw : Within [.free] ps) (h : Keeps ps s0 s)  :
    Keeps ps s0 (State.fresh s) := by
  unfold State.fresh
  repeat' (first
    | (with_reducible assumption) | (with_reducible exact id) | (with_reducible refine Keeps.ite ?_ ?_)
    | rw [State.put_free] | (with_reducible refine Keeps.putFree (hw.of rfl) ?_)
    | (with_reducible refine Keeps.foldl _ (fun _ _ _ => ?_) ?_) | intro _ | split | dsimp only)

end Sys2Proof.Machine
end

