-- ==== Sys2Proof/Laws/KeepsOps.lean ====
section
/-!
SUPPORT. For every operation of Machine/Ops.lean: the parts of State it may change, and that it keeps the invariant.
-/

set_option linter.unusedVariables false
set_option linter.unusedSimpArgs false

namespace Sys2Proof.Machine

theorem State.complete_keeps {ps : List Part} {s0 s : State} (hw : Within [.fcp] ps) (h : Keeps ps s0 s)
    (handle status reason : Nat) (result : List Byte) : Keeps ps s0 (s.complete handle status reason result) := by
  unfold State.complete
  split
  · exact h
  · refine h.trans ⟨fun p hp => by cases p <;> first | exact absurd (hw.has _ rfl) hp | rfl,
      fun hb => ?_, id⟩
    refine Fcp.session_bounded (Fcp.onOp_bounded hb _ ?_) _ (fun z hz => Session.sendEvent_bounded hz _ _ _ _)
    exact fun _ => rfl

theorem State.event_keeps {ps : List Part} {s0 s : State} (hw : Within [.fcp] ps) (h : Keeps ps s0 s) (code : Nat)
    (payload : List Byte) : Keeps ps s0 (s.event code payload) :=
  h.trans ⟨fun p hp => by cases p <;> first | exact absurd (hw.has _ rfl) hp | rfl, fun hb => Fcp.eventAll_bounded hb _
    _, id⟩

theorem State.events_keeps {ps : List Part} {s0 s : State} (hw : Within [.fcp] ps) (h : Keeps ps s0 s) (a2 : Events) :
    Keeps ps s0 (State.events s a2) := by
  unfold State.events
  repeat' (first
    | (with_reducible assumption) | (with_reducible refine State.event_keeps (hw.of rfl) ?_ _ _)
    | (with_reducible refine Keeps.ite ?_ ?_) | (with_reducible refine Keeps.foldl _ (fun _ _ _ => ?_) ?_) | intro _
    | split | dsimp only)

theorem State.incident_keeps {ps : List Part} {s0 s : State} (hw : Within [.doors, .fcp, .log] ps) (h : Keeps ps s0 s)
    (a2 : Nat) (a3 : Bool) (a4 : Option DoorIx) (a5 : Option DriveIx) (a6 : Bool) (a7 : Bool) :
    Keeps ps s0 (State.incident s a2 a3 a4 a5 a6 a7) := by
  unfold State.incident
  repeat' (first
    | (with_reducible assumption) | (with_reducible exact id)
    | (with_reducible refine State.onDoor_keeps (hw.of rfl) ?_ _ _)
    | (with_reducible refine State.events_keeps (hw.of rfl) ?_ _) | (with_reducible refine Keeps.ite ?_ ?_)
    | rw [State.put_log] | (with_reducible refine Keeps.putLog (hw.of rfl) ?_)
    | (with_reducible refine Keeps.foldl _ (fun _ _ _ => ?_) ?_) | intro _ | split | dsimp only)

theorem State.latchAction_keeps {ps : List Part} {s0 s : State} (hw : Within [.doors, .quince, .fcp, .log] ps) (h :
    Keeps ps s0 s) (a2 : RowIx) (a3 : Nat) (a4 : Action) (a5 : DriveIx) :
    Keeps ps s0 (State.latchAction s a2 a3 a4 a5) := by
  unfold State.latchAction
  repeat' (first
    | (with_reducible assumption)
    | (with_reducible exact id)
    | (with_reducible refine State.event_keeps (hw.of rfl) ?_ _ _)
    | (with_reducible refine State.incident_keeps (hw.of rfl) ?_ _ _ _ _ _ _)
    | (with_reducible refine Keeps.ite ?_ ?_)
    | rw [State.put_doors_quince]
    | (with_reducible refine Keeps.putDoors (hw.of rfl) ?_)
    | (with_reducible refine Keeps.putQuince (hw.of rfl) ?_)
    | (with_reducible refine Keeps.foldl _ (fun _ _ _ => ?_) ?_)
    | intro _
    | split
    | dsimp only)

theorem State.latchColumn_keeps {ps : List Part} {s0 s : State} (hw : Within [.doors, .quince, .fcp, .log] ps) (h :
    Keeps ps s0 s) (a2 : RowIx) (a3 : Nat) (a4 : DriveIx) :
    Keeps ps s0 (State.latchColumn s a2 a3 a4) := by
  unfold State.latchColumn
  repeat' (first
    | (with_reducible assumption)
    | (with_reducible exact id)
    | (with_reducible refine State.latchAction_keeps (hw.of rfl) ?_ _ _ _ _)
    | (with_reducible refine Keeps.ite ?_ ?_)
    | (with_reducible refine Keeps.foldl _ (fun _ _ _ => ?_) ?_)
    | intro _
    | split
    | dsimp only)

theorem State.latchRow_keeps {ps : List Part} {s0 s : State} (hw : Within [.doors, .quince, .fcp, .log] ps) (h : Keeps
    ps s0 s) (a2 : RowIx) (a3 : Nat) (a4 : List DriveIx) :
    Keeps ps s0 (State.latchRow s a2 a3 a4) := by
  unfold State.latchRow
  repeat' (first
    | (with_reducible assumption) | (with_reducible refine State.latchColumn_keeps (hw.of rfl) ?_ _ _ _)
    | (with_reducible refine Keeps.ite ?_ ?_) | (with_reducible refine Keeps.foldl _ (fun _ _ _ => ?_) ?_) | intro _
    | split | dsimp only)

theorem State.setLevel_keeps {ps : List Part} {s0 s : State} (hw : Within [.doors, .quince, .fcp, .log] ps) (h : Keeps
    ps s0 s) (a2 : RowIx) (a3 : Bool) :
    Keeps ps s0 (State.setLevel s a2 a3) := by
  unfold State.setLevel
  repeat' (first
    | (with_reducible assumption) | (with_reducible exact id)
    | (with_reducible refine State.latchRow_keeps (hw.of rfl) ?_ _ _ _) | (with_reducible refine Keeps.ite ?_ ?_)
    | rw [State.put_quince] | (with_reducible refine Keeps.putQuince (hw.of rfl) ?_)
    | (with_reducible refine Keeps.foldl _ (fun _ _ _ => ?_) ?_) | intro _ | split | dsimp only)

theorem State.egressRows_keeps {ps : List Part} {s0 s : State} (hw : Within [.doors, .quince, .fcp, .log] ps) (h :
    Keeps ps s0 s) (a2 : DoorIx) :
    Keeps ps s0 (State.egressRows s a2) := by
  unfold State.egressRows
  repeat' (first
    | (with_reducible assumption) | (with_reducible refine State.setLevel_keeps (hw.of rfl) ?_ _ _)
    | (with_reducible refine Keeps.ite ?_ ?_) | (with_reducible refine Keeps.foldl _ (fun _ _ _ => ?_) ?_) | intro _
    | split | dsimp only)

theorem State.maintEnds_keeps {ps : List Part} {s0 s : State} (hw : Within [.fcp, .service] ps) (h : Keeps ps s0 s) (a2
    : DoorIx) (a3 : Maint) (a4 : Nat) (a5 : Nat) :
    Keeps ps s0 (State.maintEnds s a2 a3 a4 a5) := by
  unfold State.maintEnds
  repeat' (first
    | (with_reducible assumption) | (with_reducible exact id)
    | (with_reducible refine State.complete_keeps (hw.of rfl) ?_ _ _ _ _) | (with_reducible refine Keeps.ite ?_ ?_)
    | rw [State.put_service] | (with_reducible refine Keeps.putService (hw.of rfl) ?_)
    | (with_reducible refine Keeps.foldl _ (fun _ _ _ => ?_) ?_) | intro _ | split | dsimp only)

theorem State.stage_keeps {ps : List Part} {s0 s : State} (hw : Within [.fcp, .log] ps) (h : Keeps ps s0 s) (a2 : Bool)
    (a3 : (Nat → List Byte)) :
    Keeps ps s0 (State.stage s a2 a3) := by
  unfold State.stage
  repeat' (first
    | (with_reducible assumption) | (with_reducible exact id)
    | (with_reducible refine State.events_keeps (hw.of rfl) ?_ _) | (with_reducible refine Keeps.ite ?_ ?_)
    | rw [State.put_log] | (with_reducible refine Keeps.putLog (hw.of rfl) ?_)
    | (with_reducible refine Keeps.foldl _ (fun _ _ _ => ?_) ?_) | intro _ | split | dsimp only)

theorem State.tripRows_keeps {ps : List Part} {s0 s : State} (hw : Within [.doors, .quince, .fcp, .log] ps) (h : Keeps
    ps s0 s) (a2 : DriveIx) (a3 : Bool) :
    Keeps ps s0 (State.tripRows s a2 a3) := by
  unfold State.tripRows
  repeat' (first
    | (with_reducible assumption) | (with_reducible exact id)
    | (with_reducible refine State.latchRow_keeps (hw.of rfl) ?_ _ _ _) | (with_reducible refine Keeps.ite ?_ ?_)
    | rw [State.put_quince] | (with_reducible refine Keeps.putQuince (hw.of rfl) ?_)
    | (with_reducible refine Keeps.foldl _ (fun _ _ _ => ?_) ?_) | intro _ | split | dsimp only)

theorem State.applyFx_keeps {ps : List Part} {s0 s : State} (hw : Within [.doors, .quince, .loop, .outs, .fcp, .log,
    .service] ps) (h : Keeps ps s0 s) (a1 : DoorIx) (a3 : DoorFx) :
    Keeps ps s0 (State.applyFx a1 s a3) := by
  unfold State.applyFx
  repeat' (first
    | (with_reducible assumption)
    | (with_reducible exact id)
    | (with_reducible refine State.event_keeps (hw.of rfl) ?_ _ _)
    | (with_reducible refine State.incident_keeps (hw.of rfl) ?_ _ _ _ _ _ _)
    | (with_reducible refine State.stage_keeps (hw.of rfl) ?_ _ _)
    | (with_reducible refine State.tripRows_keeps (hw.of rfl) ?_ _ _)
    | (with_reducible refine State.maintEnds_keeps (hw.of rfl) ?_ _ _ _ _)
    | (with_reducible refine Keeps.ite ?_ ?_)
    | rw [State.put_log]
    | rw [State.put_loop]
    | rw [State.put_outs]
    | (with_reducible refine Keeps.putLoop (hw.of rfl) ?_)
    | (with_reducible refine Keeps.putOuts (hw.of rfl) ?_)
    | (with_reducible refine Keeps.putLog (hw.of rfl) ?_)
    | (with_reducible refine Keeps.foldl _ (fun _ _ _ => ?_) ?_)
    | intro _
    | split
    | dsimp only)

theorem State.loopEvents_keeps {ps : List Part} {s0 s : State} (hw : Within [.fcp] ps) (h : Keeps ps s0 s) (a2 : List
    Nat) :
    Keeps ps s0 (State.loopEvents s a2) := by
  unfold State.loopEvents
  repeat' (first
    | (with_reducible assumption) | (with_reducible refine State.event_keeps (hw.of rfl) ?_ _ _)
    | (with_reducible refine Keeps.ite ?_ ?_) | (with_reducible refine Keeps.foldl _ (fun _ _ _ => ?_) ?_) | intro _
    | split | dsimp only)

theorem State.evaluate_keeps {ps : List Part} {s0 s : State} (hw : Within [.loop, .outs, .fcp] ps) (h : Keeps ps s0 s)  :
    Keeps ps s0 (State.evaluate s) := by
  unfold State.evaluate
  repeat' (first
    | (with_reducible assumption) | (with_reducible exact id)
    | (with_reducible refine State.loopEvents_keeps (hw.of rfl) ?_ _) | (with_reducible refine Keeps.ite ?_ ?_)
    | rw [State.put_loop_outs] | (with_reducible refine Keeps.putLoop (hw.of rfl) ?_)
    | (with_reducible refine Keeps.putOuts (hw.of rfl) ?_)
    | (with_reducible refine Keeps.foldl _ (fun _ _ _ => ?_) ?_) | intro _ | split | dsimp only)

theorem State.settleOp_keeps {ps : List Part} {s0 s : State} (hw : Within [.fcp] ps) (h : Keeps ps s0 s) (a2 : Nat) :
    Keeps ps s0 (State.settleOp s a2) := by
  unfold State.settleOp
  repeat' (first
    | (with_reducible assumption) | (with_reducible refine State.complete_keeps (hw.of rfl) ?_ _ _ _ _)
    | (with_reducible refine Keeps.ite ?_ ?_) | (with_reducible refine Keeps.foldl _ (fun _ _ _ => ?_) ?_) | intro _
    | split | dsimp only)

theorem State.followDoor_keeps {ps : List Part} {s0 s : State} (hw : Within [.fcp] ps) (h : Keeps ps s0 s) (d : DoorIx) :
    Keeps ps s0 (s.followDoor d) := by
  unfold State.followDoor
  refine Keeps.foldl _ (fun _ _ ht => State.settleOp_keeps (hw.of rfl) ht _) (h.trans ⟨fun p hp => by
    cases p <;> first | exact absurd (hw.has _ rfl) hp | rfl, fun hb => ?_, id⟩)
  refine Fcp.bounded_ops hb rfl (ops_map_length _ _ (fun o => ?_))
  split <;> rfl

theorem State.runDoor_keeps {ps : List Part} {s0 s : State} (hw : Within [.free, .doors, .quince, .loop, .outs, .fcp,
    .log, .service] ps) (h : Keeps ps s0 s) (a2 : DoorIx) (a3 : (DoorEnv → Work → Work)) :
    Keeps ps s0 (State.runDoor s a2 a3) := by
  unfold State.runDoor
  repeat' (first
    | (with_reducible assumption) | (with_reducible exact id)
    | (with_reducible refine State.egressRows_keeps (hw.of rfl) ?_ _)
    | (with_reducible refine State.fresh_keeps (hw.of rfl) ?_)
    | (with_reducible refine State.applyFx_keeps (hw.of rfl) ?_ _ _)
    | (with_reducible refine State.evaluate_keeps (hw.of rfl) ?_)
    | (with_reducible refine State.followDoor_keeps (hw.of rfl) ?_ _) | (with_reducible refine Keeps.ite ?_ ?_)
    | rw [State.put_doors] | (with_reducible refine Keeps.putDoors (hw.of rfl) ?_)
    | (with_reducible refine Keeps.foldl _ (fun _ _ _ => ?_) ?_) | intro _ | split | dsimp only)

theorem State.tickAll_keeps {ps : List Part} {s0 s : State} (hw : Within [.free, .doors, .quince, .loop, .outs, .fcp,
    .log, .service] ps) (h : Keeps ps s0 s)  :
    Keeps ps s0 (State.tickAll s) := by
  unfold State.tickAll
  repeat' (first
    | (with_reducible assumption) | (with_reducible refine State.runDoor_keeps (hw.of rfl) ?_ _ _)
    | (with_reducible refine Keeps.ite ?_ ?_) | (with_reducible refine Keeps.foldl _ (fun _ _ _ => ?_) ?_) | intro _
    | split | dsimp only)

theorem State.supervise_keeps {ps : List Part} {s0 s : State} (hw : Within [.free, .doors, .quince, .loop, .outs, .fcp,
    .log, .service] ps) (h : Keeps ps s0 s)  :
    Keeps ps s0 (State.supervise s) := by
  unfold State.supervise
  repeat' (first
    | (with_reducible assumption) | (with_reducible refine State.evaluate_keeps (hw.of rfl) ?_)
    | (with_reducible refine State.tickAll_keeps (hw.of rfl) ?_) | (with_reducible refine Keeps.ite ?_ ?_)
    | (with_reducible refine Keeps.foldl _ (fun _ _ _ => ?_) ?_) | intro _ | split | dsimp only)

theorem State.bypassRow_keeps {ps : List Part} {s0 s : State} (hw : Within [.doors, .quince, .fcp, .log] ps) (h : Keeps
    ps s0 s)  :
    Keeps ps s0 (State.bypassRow s) := by
  unfold State.bypassRow
  repeat' (first
    | (with_reducible assumption) | (with_reducible refine State.setLevel_keeps (hw.of rfl) ?_ _ _)
    | (with_reducible refine Keeps.ite ?_ ?_) | (with_reducible refine Keeps.foldl _ (fun _ _ _ => ?_) ?_) | intro _
    | split | dsimp only)

theorem State.invalidRow_keeps {ps : List Part} {s0 s : State} (hw : Within [.doors, .quince, .fcp, .log] ps) (h :
    Keeps ps s0 s) (a2 : DoorIx) :
    Keeps ps s0 (State.invalidRow s a2) := by
  unfold State.invalidRow
  repeat' (first
    | (with_reducible assumption) | (with_reducible refine State.latchRow_keeps (hw.of rfl) ?_ _ _ _)
    | (with_reducible refine Keeps.ite ?_ ?_) | (with_reducible refine Keeps.foldl _ (fun _ _ _ => ?_) ?_) | intro _
    | split | dsimp only)

theorem State.levelsAct_keeps {ps : List Part} {s0 s : State} (hw : Within [.doors, .quince, .fcp, .log] ps) (h :
    Keeps ps s0 s) :
    Keeps ps s0 (State.levelsAct s) := by
  unfold State.levelsAct
  repeat' (first
    | (with_reducible assumption)
    | (with_reducible exact id)
    | (with_reducible refine State.latchRow_keeps (hw.of rfl) ?_ _ _ _)
    | (with_reducible refine State.invalidRow_keeps (hw.of rfl) ?_ _)
    | (with_reducible refine Keeps.ite ?_ ?_)
    | (with_reducible refine Keeps.foldl _ (fun _ _ _ => ?_) ?_)
    | intro _
    | split
    | dsimp only)

theorem State.quinceStarts_keeps {ps : List Part} {s0 s : State} (hw : Within [.doors, .quince, .fcp, .log] ps) (h :
    Keeps ps s0 s) :
    Keeps ps s0 (State.quinceStarts s) := by
  unfold State.quinceStarts
  repeat' (first
    | (with_reducible assumption)
    | (with_reducible exact id)
    | (with_reducible refine State.levelsAct_keeps (hw.of rfl) ?_)
    | (with_reducible refine Keeps.ite ?_ ?_)
    | rw [State.put_quince]
    | (with_reducible refine Keeps.putQuince (hw.of rfl) ?_)
    | (with_reducible refine Keeps.foldl _ (fun _ _ _ => ?_) ?_)
    | intro _
    | split
    | dsimp only)

/-- A change of a doorway whose effects outside it are known one by one. -/
theorem State.changeDoor_within {ps : List Part} {s0 s : State} (hw : Within [.doors] ps) (h : Keeps ps s0 s) (d : DoorIx)
    (f : DoorEnv → Work → Work) (hf : ∀ x ∈ (f (s.doorEnv d) ⟨s.doors[d], []⟩).fx, ∀ t, Keeps ps s0 t → Keeps ps s0 (State.applyFx d t x)) :
    Keeps ps s0 (s.changeDoor d f) := by
  have key : ∀ (l : List DoorFx) (u : State), Keeps ps s0 u → (∀ x ∈ l, ∀ t, Keeps ps s0 t → Keeps ps s0 (State.applyFx d t x)) →
      Keeps ps s0 (l.foldl (State.applyFx d) u) := by
    intro l
    induction l with
    | nil => exact fun u hu _ => hu
    | cons a l ih => exact fun u hu ha => ih _ (ha a (by simp) u hu) (fun x hx => ha x (by simp [hx]))
  unfold State.changeDoor
  dsimp only
  rw [State.put_doors]
  exact key _ _ (Keeps.putDoors hw h) hf

theorem State.changeDoor_keeps {ps : List Part} {s0 s : State} (hw : Within [.doors, .quince, .loop, .outs, .fcp,
    .log, .service] ps) (h : Keeps ps s0 s) (a2 : DoorIx) (a3 : DoorEnv → Work → Work) :
    Keeps ps s0 (State.changeDoor s a2 a3) := by
  unfold State.changeDoor
  repeat' (first
    | (with_reducible assumption)
    | (with_reducible exact id)
    | (with_reducible refine State.applyFx_keeps (hw.of rfl) ?_ _ _)
    | (with_reducible refine Keeps.ite ?_ ?_)
    | rw [State.put_doors]
    | (with_reducible refine Keeps.putDoors (hw.of rfl) ?_)
    | (with_reducible refine Keeps.foldl _ (fun _ _ _ => ?_) ?_)
    | intro _
    | split
    | dsimp only)

end Sys2Proof.Machine
end

