-- ==== Sys2Proof/Laws/KeepsLegs.lean ====
section
/-!
SUPPORT. For every operation of Machine/Legs.lean: the parts of State it may change, and that it keeps the invariant.
-/

set_option linter.unusedVariables false
set_option linter.unusedSimpArgs false

namespace Sys2Proof.Machine

theorem State.onPair_keeps {ps : List Part} {s0 s : State} (hw : Within [.service] ps) (h : Keeps ps s0 s) (a2 : Fin 4)
    (a3 : (Bramble → Bramble)) :
    Keeps ps s0 (State.onPair s a2 a3) := by
  unfold State.onPair
  repeat' (first
    | (with_reducible assumption) | (with_reducible exact id) | (with_reducible refine Keeps.ite ?_ ?_)
    | rw [State.put_service] | (with_reducible refine Keeps.putService (hw.of rfl) ?_)
    | (with_reducible refine Keeps.foldl _ (fun _ _ _ => ?_) ?_) | intro _ | split | dsimp only)

theorem State.subAborts_keeps {ps : List Part} {s0 s : State} (hw : Within [.free, .doors, .quince, .loop, .outs, .fcp,
    .log, .service] ps) (h : Keeps ps s0 s) (a2 : Fin 4) (a3 : Substitution) (a4 : Nat) :
    Keeps ps s0 (State.subAborts s a2 a3 a4) := by
  unfold State.subAborts
  repeat' (first
    | (with_reducible assumption) | (with_reducible refine State.complete_keeps (hw.of rfl) ?_ _ _ _ _)
    | (with_reducible refine State.runDoor_keeps (hw.of rfl) ?_ _ _)
    | (with_reducible refine State.onPair_keeps (hw.of rfl) ?_ _ _) | (with_reducible refine Keeps.ite ?_ ?_)
    | (with_reducible refine Keeps.foldl _ (fun _ _ _ => ?_) ?_) | intro _ | split | dsimp only)

theorem State.driveTrips_keeps {ps : List Part} {s0 s : State} (hw : Within [.free, .doors, .quince, .loop, .outs,
    .fcp, .log, .service] ps) (h : Keeps ps s0 s) (a2 : DriveIx) (a3 : HwTrip) (a4 : Nat) :
    Keeps ps s0 (State.driveTrips s a2 a3 a4) := by
  unfold State.driveTrips
  repeat' (first
    | (with_reducible assumption) | (with_reducible refine State.runDoor_keeps (hw.of rfl) ?_ _ _)
    | (with_reducible refine State.tripRows_keeps (hw.of rfl) ?_ _ _) | (with_reducible refine Keeps.ite ?_ ?_)
    | (with_reducible refine Keeps.foldl _ (fun _ _ _ => ?_) ?_) | intro _ | split | dsimp only)

theorem State.startSub_keeps {ps : List Part} {s0 s : State} (hw : Within [.free, .doors, .quince, .loop, .outs, .fcp,
    .log, .service] ps) (h : Keeps ps s0 s) (a2 : Fin 4) (a3 : Option (Fin 14)) (a4 : Option Nat) (a5 : DriveIx) :
    Keeps ps s0 (State.startSub s a2 a3 a4 a5) := by
  unfold State.startSub
  repeat' (first
    | (with_reducible assumption) | (with_reducible refine State.runDoor_keeps (hw.of rfl) ?_ _ _)
    | (with_reducible refine State.onPair_keeps (hw.of rfl) ?_ _ _) | (with_reducible refine Keeps.ite ?_ ?_)
    | (with_reducible refine Keeps.foldl _ (fun _ _ _ => ?_) ?_) | intro _ | split | dsimp only)

theorem State.legFails_keeps {ps : List Part} {s0 s : State} (hw : Within [.free, .doors, .quince, .loop, .outs, .fcp,
    .log, .service] ps) (h : Keeps ps s0 s) (a2 : Fin 4) (a3 : Fin 14) (a4 : Nat) :
    Keeps ps s0 (State.legFails s a2 a3 a4) := by
  unfold State.legFails
  repeat' (first
    | (with_reducible assumption) | (with_reducible refine State.driveTrips_keeps (hw.of rfl) ?_ _ _ _)
    | (with_reducible refine State.onPair_keeps (hw.of rfl) ?_ _ _)
    | (with_reducible refine State.startSub_keeps (hw.of rfl) ?_ _ _ _ _) | (with_reducible refine Keeps.ite ?_ ?_)
    | (with_reducible refine Keeps.foldl _ (fun _ _ _ => ?_) ?_) | intro _ | split | dsimp only)

theorem State.legTest_keeps {ps : List Part} {s0 s : State} (hw : Within [.free, .doors, .quince, .loop, .outs, .fcp,
    .log, .service] ps) (h : Keeps ps s0 s) (a2 : DriveIx) :
    Keeps ps s0 (State.legTest s a2) := by
  unfold State.legTest
  repeat' (first
    | (with_reducible assumption) | (with_reducible refine State.legFails_keeps (hw.of rfl) ?_ _ _ _)
    | (with_reducible refine Keeps.ite ?_ ?_) | (with_reducible refine Keeps.foldl _ (fun _ _ _ => ?_) ?_) | intro _
    | split | dsimp only)

theorem State.hardwareTrip_keeps {ps : List Part} {s0 s : State} (hw : Within [.free, .doors, .quince, .loop, .outs,
    .fcp, .log, .service] ps) (h : Keeps ps s0 s) (a2 : DriveIx) (a3 : HwTrip) (a4 : Fin 4) (a5 : Nat) :
    Keeps ps s0 (State.hardwareTrip s a2 a3 a4 a5) := by
  unfold State.hardwareTrip
  repeat' (first
    | (with_reducible assumption) | (with_reducible refine State.driveTrips_keeps (hw.of rfl) ?_ _ _ _)
    | (with_reducible refine State.legFails_keeps (hw.of rfl) ?_ _ _ _) | (with_reducible refine Keeps.ite ?_ ?_)
    | (with_reducible refine Keeps.foldl _ (fun _ _ _ => ?_) ?_) | intro _ | split | dsimp only)

theorem State.subEnds_keeps {ps : List Part} {s0 s : State} (hw : Within [.free, .doors, .quince, .loop, .outs, .fcp,
    .log, .service] ps) (h : Keeps ps s0 s) (a2 : Fin 4) (a3 : Bool) :
    Keeps ps s0 (State.subEnds s a2 a3) := by
  unfold State.subEnds
  repeat' (first
    | (with_reducible assumption) | (with_reducible exact id)
    | (with_reducible refine State.driveTrips_keeps (hw.of rfl) ?_ _ _ _)
    | (with_reducible refine State.complete_keeps (hw.of rfl) ?_ _ _ _ _)
    | (with_reducible refine State.runDoor_keeps (hw.of rfl) ?_ _ _)
    | (with_reducible refine State.onPair_keeps (hw.of rfl) ?_ _ _)
    | (with_reducible refine State.event_keeps (hw.of rfl) ?_ _ _) | (with_reducible refine Keeps.ite ?_ ?_)
    | rw [State.put_service] | (with_reducible refine Keeps.putService (hw.of rfl) ?_)
    | (with_reducible refine Keeps.foldl _ (fun _ _ _ => ?_) ?_) | intro _ | split | dsimp only)

end Sys2Proof.Machine
end

