-- ==== Sys2Proof/Laws/KeepsReceive.lean ====
section
/-!
SUPPORT. For every operation of Machine/Receive.lean: the parts of State it may change, and that it keeps the invariant.
-/

set_option linter.unusedVariables false
set_option linter.unusedSimpArgs false

namespace Sys2Proof.Machine

theorem Req.plain_keeps {ps : List Part} {opcode : Nat} {params : List Byte} {valid : Bool}
    {act : Hdr → SessIx → State → Reply} (ha : ∀ h i s0 s, Keeps ps s0 s → ReplyKeeps ps s0 (act h i s)) :
    ReqKeeps ps (Req.plain opcode params valid act) := ha

theorem State.answers_keeps {ps : List Part} {s0 s : State} (h : Keeps ps s0 s) (a : Answer) :
    ReplyKeeps ps s0 (s.answers a) := ⟨h, fun _ ht => ht⟩

theorem State.accepts_keeps {ps : List Part} {s0 s : State} (hw : Within [.fcp] ps) (h : Keeps ps s0 s) {i : SessIx}
    {opcode : Nat} {kind : OpKind} {doors : Vector DoorOut 8} {next : Nat → State → State}
    (hn : ∀ n t, Keeps ps s0 t → Keeps ps s0 (next n t)) : ReplyKeeps ps s0 (s.accepts i opcode kind doors next) := by
  unfold State.accepts
  split
  · exact State.answers_keeps h _
  · rename_i he
    refine ⟨h.trans ⟨fun p hp => by cases p <;> first | exact absurd (hw.has _ rfl) hp | rfl, fun hb => ?_, id⟩, hn _⟩
    refine Fcp.started_bounded hb ?_
    simp only [State.exhausted, decide_eq_true_eq] at he
    dsimp only
    omega

theorem State.own_keeps {ps : List Part} {s0 s : State} (hw : Within [.fcp] ps) (h : Keeps ps s0 s) (a2 : Hdr) (a3 :
    SessIx) (a4 : Nat) :
    Keeps ps s0 (State.own s a2 a3 a4).1 := by
  unfold State.own
  repeat' (first
    | (with_reducible assumption) | (with_reducible exact id) | (with_reducible refine Keeps.ite ?_ ?_)
    | rw [State.put_fcp] | (with_reducible refine Keeps.putFcp (hw.of rfl) ?_ ?_)
    | (with_reducible apply Fcp.claim_bounded) | (with_reducible refine Keeps.foldl _ (fun _ _ _ => ?_) ?_) | intro _
    | split | dsimp only | exact Session.bounded_of (by assumption) rfl rfl rfl
    | (with_reducible exact Fcp.reset_bounded) | (with_reducible refine Fcp.cleared_bounded ?_)
    | (with_reducible refine Fcp.bounded_rest ?_))

theorem State.onSession_keeps {ps : List Part} {s0 s : State} (hw : Within [.fcp] ps) (h : Keeps ps s0 s) {i : SessIx}
    {g : Session → Session} (hg : ∀ z : Session, z.bounded → (g z).bounded) : Keeps ps s0 (s.onSession i g) :=
  h.trans ⟨fun p hp => by cases p <;> first | exact absurd (hw.has _ rfl) hp | rfl, fun hb => Fcp.session_bounded hb i
    hg, id⟩

theorem State.countFcp_keeps {ps : List Part} {s0 s : State} (hw : Within [.fcp] ps) (h : Keeps ps s0 s)
    (g : FcpCounters → FcpCounters) : Keeps ps s0 (s.countFcp g) :=
  h.trans ⟨fun p hp => by cases p <;> first | exact absurd (hw.has _ rfl) hp | rfl, fun hb => Fcp.count_bounded hb g, id⟩

theorem Req.unlisted_keeps {ps : List Part} (hw : Within [] ps) (opcode : Nat) (params : List Byte) :
    ReqKeeps ps (Req.unlisted opcode params) := fun _ _ _ _ hs => ⟨hs, fun _ ht => ht⟩

theorem State.answerPlain_keeps {ps : List Part} {s0 s : State} (hw : Within [.fcp] ps) (h : Keeps ps s0 s) (a2 : Hdr)
    (a3 : SessIx) (a4 : Nat) (a5 : Answer) :
    Keeps ps s0 (State.answerPlain s a2 a3 a4 a5) := by
  unfold State.answerPlain
  repeat' (first
    | (with_reducible assumption) | (with_reducible exact id)
    | (with_reducible refine State.onSession_keeps (hw.of rfl) ?_ ?_) | (with_reducible refine Keeps.ite ?_ ?_)
    | (with_reducible apply Session.answer_bounded) | (with_reducible apply Session.answerClosed_bounded)
    | (with_reducible refine Keeps.foldl _ (fun _ _ _ => ?_) ?_) | intro _ | split | dsimp only
    | exact Session.bounded_of (by assumption) rfl rfl rfl | (with_reducible exact Fcp.reset_bounded)
    | (with_reducible refine Fcp.cleared_bounded ?_) | (with_reducible refine Fcp.bounded_rest ?_))

theorem State.answerStored_keeps {ps : List Part} {s0 s : State} (hw : Within [.fcp] ps) (h : Keeps ps s0 s) (a2 : Hdr)
    (a3 : SessIx) (a4 : Req) (a5 : Answer) :
    Keeps ps s0 (State.answerStored s a2 a3 a4 a5) := by
  unfold State.answerStored
  repeat' (first
    | (with_reducible assumption) | (with_reducible exact id)
    | (with_reducible refine State.onSession_keeps (hw.of rfl) ?_ ?_)
    | (with_reducible refine State.countFcp_keeps (hw.of rfl) ?_ _)
    | (with_reducible refine State.answerPlain_keeps (hw.of rfl) ?_ _ _ _ _) | (with_reducible refine Keeps.ite ?_ ?_)
    | (with_reducible apply Session.answerStored_bounded) | (with_reducible refine Keeps.foldl _ (fun _ _ _ => ?_) ?_)
    | intro _ | split | dsimp only | exact Session.bounded_of (by assumption) rfl rfl rfl
    | (with_reducible exact Fcp.reset_bounded) | (with_reducible refine Fcp.cleared_bounded ?_)
    | (with_reducible refine Fcp.bounded_rest ?_))

theorem State.duplicate_keeps {ps : List Part} {s0 s : State} (hw : Within [.fcp] ps) (h : Keeps ps s0 s) (a2 : Hdr)
    (a3 : SessIx) (a4 : StoredReply) :
    Keeps ps s0 (State.duplicate s a2 a3 a4) := by
  unfold State.duplicate
  repeat' (first
    | (with_reducible assumption) | (with_reducible refine State.countFcp_keeps (hw.of rfl) ?_ _)
    | (with_reducible refine State.answerPlain_keeps (hw.of rfl) ?_ _ _ _ _) | (with_reducible refine Keeps.ite ?_ ?_)
    | (with_reducible refine Keeps.foldl _ (fun _ _ _ => ?_) ?_) | intro _ | split | dsimp only)

theorem State.gap_keeps {ps : List Part} {s0 s : State} (hw : Within [.fcp] ps) (h : Keeps ps s0 s) (a2 : Hdr) (a3 :
    SessIx) (a4 : Nat) (a5 : Nat) :
    Keeps ps s0 (State.gap s a2 a3 a4 a5) := by
  unfold State.gap
  repeat' (first
    | (with_reducible assumption) | (with_reducible refine State.countFcp_keeps (hw.of rfl) ?_ _)
    | (with_reducible refine State.answerPlain_keeps (hw.of rfl) ?_ _ _ _ _) | (with_reducible refine Keeps.ite ?_ ?_)
    | (with_reducible refine Keeps.foldl _ (fun _ _ _ => ?_) ?_) | intro _ | split | dsimp only)

theorem State.unexpected_keeps {ps : List Part} {s0 s : State} (hw : Within [.fcp] ps) (h : Keeps ps s0 s) (hd : Hdr)
    (i : SessIx) (q : Req) : Keeps ps s0 (s.unexpected hd i q) := by
  unfold State.unexpected
  split
  · split
    · exact h.trans ⟨fun p hp => by cases p <;> first | exact absurd (hw.has _ rfl) hp | rfl,
        fun hb => Fcp.bounded_same hb rfl rfl, id⟩
    · exact State.gap_keeps (hw.of rfl) h _ _ _ _
  · split
    · split
      · exact State.duplicate_keeps (hw.of rfl) h _ _ _
      · exact State.gap_keeps (hw.of rfl) h _ _ _ _
    · exact State.gap_keeps (hw.of rfl) h _ _ _ _

theorem State.violation_keeps {ps : List Part} {s0 s : State} (hw : Within [.fcp] ps) (h : Keeps ps s0 s) (a2 : SessIx)
    (a3 : Req) :
    Keeps ps s0 (State.violation s a2 a3) := by
  unfold State.violation
  repeat' (first
    | (with_reducible assumption) | (with_reducible refine State.countFcp_keeps (hw.of rfl) ?_ _)
    | (with_reducible refine Keeps.ite ?_ ?_) | (with_reducible refine Keeps.foldl _ (fun _ _ _ => ?_) ?_) | intro _
    | split | dsimp only)

theorem State.precheck_keeps {ps : List Part} {s0 s : State} (hw : Within [.fcp, .ring] ps) (h : Keeps ps s0 s) {hd :
    Hdr} {i : SessIx}
    {q : Req} {t : State} {a : Answer} (he : s.precheck hd i q = some (t, a)) : Keeps ps s0 t := by
  have hr : Keeps ps s0 { s with ring := { s.ring with counters := { s.ring.counters with
      trainwideRefused := satInc 32 s.ring.counters.trainwideRefused } } } :=
    h.trans ⟨fun p hp => by cases p <;> first | exact absurd (hw.has _ rfl) hp | rfl, id, id⟩
  unfold State.precheck at he
  dsimp only at he
  repeat' split at he
  all_goals first
    | (cases he; done)
    | (injection he with he; injection he with he _; rw [← he]
       first | exact h | exact hr | exact State.violation_keeps (hw.of rfl) h _ _)

theorem State.perform_keeps {ps : List Part} {s0 s : State} (hw : Within [.fcp, .ring] ps) (h : Keeps ps s0 s) (hd :
    Hdr) (i : SessIx)
    {q : Req} (hq : ReqKeeps ps q) : Keeps ps s0 (s.perform hd i q) := by
  unfold State.perform
  split
  · rename_i he
    exact State.answerStored_keeps (hw.of rfl) (State.precheck_keeps (hw.of rfl) h he) _ _ _ _
  · have hr := hq hd i s0 s h
    refine hr.after _ ?_
    split
    · exact State.answerStored_keeps (hw.of rfl) hr.state _ _ _ _
    · exact hr.state

theorem State.process_keeps {ps : List Part} {s0 s : State} (hw : Within [.fcp, .ring] ps) (h : Keeps ps s0 s) (hd :
    Hdr) (i : SessIx)
    {q : Req} (hq : ReqKeeps ps q) : Keeps ps s0 (s.process hd i q) := by
  have hs := State.onSession_keeps (hw.of rfl) h (i := i) (g := (Session.takeDack · hd.dack.toNat))
    (fun z hz => Session.takeDack_bounded hz _)
  unfold State.process
  dsimp only
  split
  · exact State.countFcp_keeps (hw.of rfl) (State.answerPlain_keeps (hw.of rfl) h _ _ _ _) _
  · split
    · exact State.answerPlain_keeps (hw.of rfl) h _ _ _ _
    · split
      · exact State.perform_keeps (hw.of rfl) hs _ _ hq
      · split
        · refine State.perform_keeps (hw.of rfl) (State.onSession_keeps (hw.of rfl) hs ?_) _ _ hq
          exact fun z hz => Session.bounded_of hz rfl rfl rfl
        · exact State.unexpected_keeps (hw.of rfl) hs _ _ _

theorem State.heard_keeps {ps : List Part} {s0 s : State} (hw : Within [.fcp] ps) (h : Keeps ps s0 s) (a2 : Hdr) (a3 :
    SessIx) :
    Keeps ps s0 (State.heard s a2 a3) := by
  unfold State.heard
  repeat' (first
    | (with_reducible assumption) | (with_reducible exact id)
    | (with_reducible refine State.onSession_keeps (hw.of rfl) ?_ ?_) | (with_reducible refine Keeps.ite ?_ ?_)
    | rw [State.put_fcp] | (with_reducible refine Keeps.putFcp (hw.of rfl) ?_ ?_)
    | (with_reducible apply Fcp.enterState_bounded) | (with_reducible refine Keeps.foldl _ (fun _ _ _ => ?_) ?_)
    | intro _ | split | dsimp only | exact Session.bounded_of (by assumption) rfl rfl rfl
    | (with_reducible exact Fcp.reset_bounded) | (with_reducible refine Fcp.cleared_bounded ?_)
    | (with_reducible refine Fcp.bounded_rest ?_))

theorem State.receive_keeps {ps : List Part} {s0 s : State} (hw : Within [.free, .fcp, .ring] ps) (h : Keeps ps s0 s)
    (hd : Hdr) {q : Req}
    (hq : ReqKeeps ps q) : Keeps ps s0 (s.receive hd q) := by
  unfold State.receive
  split
  · split
    · exact State.countFcp_keeps (hw.of rfl) h _
    · exact h
  · dsimp only
    split
    · exact State.countFcp_keeps (hw.of rfl) h _
    · split
      · exact h
      · refine State.fresh_keeps (hw.of rfl) (State.process_keeps (hw.of rfl) ?_ _ _ hq)
        split
        · exact h
        · exact State.heard_keeps (hw.of rfl) h _ _

end Sys2Proof.Machine
end

