-- ==== Sys2Proof/Laws/KeepsDoorCmds.lean ====
section
/-!
SUPPORT. For every operation of Machine/DoorCmds.lean: the parts of State it may change, and that it keeps the invariant.
-/

set_option linter.unusedVariables false
set_option linter.unusedSimpArgs false

namespace Sys2Proof.Machine

theorem Req.doorway_keeps {ps : List Part} {opcode mask : Nat} {params : List Byte} {valid : Bool}
    {act : Hdr → SessIx → State → Reply} (ha : ∀ h i s0 s, Keeps ps s0 s → ReplyKeeps ps s0 (act h i s)) :
    ReqKeeps ps (Req.doorway opcode params valid mask act) := ha

theorem State.oneDoor_keeps {ps : List Part} {s0 s : State} (hw : Within [.fcp] ps) (h : Keeps ps s0 s) {hd : Hdr}
    {i : SessIx} {d : DoorIx} {refuse : State → DoorEnv → Doorway → Option Nat} {go : State → Reply}
    (hg : ∀ t, Keeps ps s0 t → ReplyKeeps ps s0 (go t)) : ReplyKeeps ps s0 (s.oneDoor hd i d refuse go) := by
  have ho := State.own_keeps hw h hd i (2 ^ d.val)
  unfold State.oneDoor
  dsimp only
  split
  · exact State.answers_keeps ho _
  · split
    · exact State.answers_keeps ho _
    · exact hg _ ho

theorem State.compareSet_keeps {ps : List Part} {s0 s : State} (hw : Within [.doors] ps) (h : Keeps ps s0 s) (a2 :
    DriveIx) (a3 : Nat) (a4 : Nat) (a5 : Nat) (a6 : Nat) (a7 : Int) :
    Keeps ps s0 (State.compareSet s a2 a3 a4 a5 a6 a7).1 := by
  unfold State.compareSet
  repeat' (first
    | (with_reducible assumption) | (with_reducible refine State.onDoor_keeps (hw.of rfl) ?_ _ _)
    | (with_reducible refine Keeps.ite ?_ ?_) | (with_reducible refine Keeps.foldl _ (fun _ _ _ => ?_) ?_) | intro _
    | split | dsimp only)

theorem Req.compareSet_keeps {ps : List Part} (hw : Within [.doors, .fcp] ps) (a1 : List Byte) (a2 : Nat) (a3 : Nat)
    (a4 : Nat) (a5 : Nat) (a6 : Int) (a7 : Nat) : ReqKeeps ps (Req.compareSet a1 a2 a3 a4 a5 a6 a7) := by
  intro _ _ s0 s h
  unfold Req.compareSet Req.doorway Req.plain
  dsimp only
  repeat' (first
    | (with_reducible assumption) | (with_reducible exact id)
    | (with_reducible refine State.oneDoor_keeps (hw.of rfl) ?_ ?_) | (with_reducible refine State.answers_keeps ?_ _)
    | (with_reducible refine State.compareSet_keeps (hw.of rfl) ?_ _ _ _ _ _ _)
    | (with_reducible refine ReplyKeeps.ite ?_ ?_) | (with_reducible refine Keeps.ite ?_ ?_)
    | (with_reducible refine Keeps.foldl _ (fun _ _ _ => ?_) ?_) | intro _ | split | dsimp only
    | (with_reducible refine ReplyKeeps.mk ?_ ?_) | rw [id])

theorem State.testAfterReset_keeps {ps : List Part} {s0 s : State} (hw : Within [.free, .doors, .quince, .loop, .outs,
    .fcp, .log, .service] ps) (h : Keeps ps s0 s) (a2 : (DoorIx → Doorway)) (a3 : List DoorIx) :
    Keeps ps s0 (State.testAfterReset s a2 a3) := by
  unfold State.testAfterReset
  repeat' (first
    | (with_reducible assumption) | (with_reducible refine State.legTest_keeps (hw.of rfl) ?_ _)
    | (with_reducible refine Keeps.ite ?_ ?_) | (with_reducible refine Keeps.foldl _ (fun _ _ _ => ?_) ?_) | intro _
    | split | dsimp only)

theorem State.doorReset_keeps {ps : List Part} {s0 s : State} (hw : Within [.free, .doors, .quince, .loop, .outs, .fcp,
    .log, .service] ps) (h : Keeps ps s0 s) (a2 : DoorIx) :
    Keeps ps s0 (State.doorReset s a2) := by
  unfold State.doorReset
  repeat' (first
    | (with_reducible assumption) | (with_reducible refine State.runDoor_keeps (hw.of rfl) ?_ _ _)
    | (with_reducible refine State.tripRows_keeps (hw.of rfl) ?_ _ _) | (with_reducible refine Keeps.ite ?_ ?_)
    | (with_reducible refine Keeps.foldl _ (fun _ _ _ => ?_) ?_) | intro _ | split | dsimp only)

theorem State.doorOperation_keeps {ps : List Part} {s0 s : State} (hw : Within [.free, .doors, .quince, .loop, .outs,
    .fcp, .log, .service] ps) (h : Keeps ps s0 s) (a2 : SessIx) (a3 : Nat) (a4 : Nat) (a5 : OpKind) (a6 : (DoorIx →
    Option Nat)) (a7 : (Doorway → Bool)) (a8 : (Doorway → Bool)) (a9 : (DoorEnv → Work → Work)) :
    ReplyKeeps ps s0 (State.doorOperation s a2 a3 a4 a5 a6 a7 a8 a9) := by
  unfold State.doorOperation
  repeat' (first
    | (with_reducible assumption) | (with_reducible exact id) | (with_reducible refine State.answers_keeps ?_ _)
    | (with_reducible refine State.runDoor_keeps (hw.of rfl) ?_ _ _)
    | (with_reducible refine State.accepts_keeps (hw.of rfl) ?_ ?_)
    | (with_reducible refine State.settleOp_keeps (hw.of rfl) ?_ _) | (with_reducible refine ReplyKeeps.ite ?_ ?_)
    | (with_reducible refine Keeps.ite ?_ ?_) | (with_reducible refine Keeps.foldl _ (fun _ _ _ => ?_) ?_) | intro _
    | split | dsimp only | (with_reducible refine ReplyKeeps.mk ?_ ?_) | rw [id])

theorem State.doorResumes_keeps {ps : List Part} {s0 s : State} (hw : Within [.free, .doors, .quince, .loop, .outs,
    .fcp, .log, .service] ps) (h : Keeps ps s0 s) (a2 : Hdr) (a3 : SessIx) (a4 : Nat) (a5 : Nat) :
    ReplyKeeps ps s0 (State.doorResumes s a2 a3 a4 a5) := by
  unfold State.doorResumes
  repeat' (first
    | (with_reducible assumption) | (with_reducible refine State.own_keeps (hw.of rfl) ?_ _ _ _)
    | (with_reducible refine State.doorOperation_keeps (hw.of rfl) ?_ _ _ _ _ _ _ _ _)
    | (with_reducible refine ReplyKeeps.ite ?_ ?_) | (with_reducible refine Keeps.ite ?_ ?_)
    | (with_reducible refine Keeps.foldl _ (fun _ _ _ => ?_) ?_) | intro _ | split | dsimp only
    | (with_reducible refine ReplyKeeps.mk ?_ ?_) | rw [id])

theorem State.trigger_keeps {ps : List Part} {s0 s : State} (hw : Within [.free, .doors, .quince, .loop, .outs, .fcp,
    .log, .service] ps) (h : Keeps ps s0 s) (a2 : List DoorIx) (a3 : (DoorEnv → Work → Work)) :
    Keeps ps s0 (State.trigger s a2 a3) := by
  unfold State.trigger
  repeat' (first
    | (with_reducible assumption) | (with_reducible refine State.runDoor_keeps (hw.of rfl) ?_ _ _)
    | (with_reducible refine Keeps.ite ?_ ?_) | (with_reducible refine Keeps.foldl _ (fun _ _ _ => ?_) ?_) | intro _
    | split | dsimp only)

theorem State.doorStop_keeps {ps : List Part} {s0 s : State} (hw : Within [.free, .doors, .quince, .loop, .outs, .fcp,
    .log, .service] ps) (h : Keeps ps s0 s) (a2 : Hdr) (a3 : SessIx) (a4 : Nat) (a5 : Cause) (a6 : Bool) :
    ReplyKeeps ps s0 (State.doorStop s a2 a3 a4 a5 a6) := by
  unfold State.doorStop
  repeat' (first
    | (with_reducible assumption) | (with_reducible refine State.trigger_keeps (hw.of rfl) ?_ _ _)
    | (with_reducible refine State.answers_keeps ?_ _) | (with_reducible refine State.own_keeps (hw.of rfl) ?_ _ _ _)
    | (with_reducible refine ReplyKeeps.ite ?_ ?_) | (with_reducible refine Keeps.ite ?_ ?_)
    | (with_reducible refine Keeps.foldl _ (fun _ _ _ => ?_) ?_) | intro _ | split | dsimp only
    | (with_reducible refine ReplyKeeps.mk ?_ ?_) | rw [id])

theorem State.doorCommand_keeps {ps : List Part} {s0 s : State} (hw : Within [.free, .doors, .quince, .loop, .outs,
    .fcp, .log, .service] ps) (h : Keeps ps s0 s) (a2 : Hdr) (a3 : SessIx) (a4 : Nat) (a5 : Nat) :
    ReplyKeeps ps s0 (State.doorCommand s a2 a3 a4 a5) := by
  unfold State.doorCommand
  repeat' (first
    | (with_reducible assumption) | (with_reducible refine State.testAfterReset_keeps (hw.of rfl) ?_ _ _)
    | (with_reducible refine State.doorReset_keeps (hw.of rfl) ?_ _)
    | (with_reducible refine State.doorResumes_keeps (hw.of rfl) ?_ _ _ _ _)
    | (with_reducible refine State.answers_keeps ?_ _) | (with_reducible refine State.own_keeps (hw.of rfl) ?_ _ _ _)
    | (with_reducible refine State.doorOperation_keeps (hw.of rfl) ?_ _ _ _ _ _ _ _ _)
    | (with_reducible refine State.doorStop_keeps (hw.of rfl) ?_ _ _ _ _ _)
    | (with_reducible refine ReplyKeeps.ite ?_ ?_) | (with_reducible refine Keeps.ite ?_ ?_)
    | (with_reducible refine Keeps.foldl _ (fun _ _ _ => ?_) ?_) | intro _ | split | dsimp only
    | (with_reducible refine ReplyKeeps.mk ?_ ?_) | rw [id])

theorem Req.doorCommand_keeps {ps : List Part} (hw : Within [.free, .doors, .quince, .loop, .outs, .fcp, .log,
    .service] ps) (a1 : List Byte) (a2 : Nat) (a3 : Nat) : ReqKeeps ps (Req.doorCommand a1 a2 a3) := by
  intro _ _ s0 s h
  unfold Req.doorCommand Req.doorway Req.plain
  dsimp only
  repeat' (first
    | (with_reducible assumption) | (with_reducible refine State.doorCommand_keeps (hw.of rfl) ?_ _ _ _ _)
    | (with_reducible refine ReplyKeeps.ite ?_ ?_) | (with_reducible refine Keeps.ite ?_ ?_)
    | (with_reducible refine Keeps.foldl _ (fun _ _ _ => ?_) ?_) | intro _ | split | dsimp only
    | (with_reducible refine ReplyKeeps.mk ?_ ?_) | rw [id])

theorem Req.doorIsolate_keeps {ps : List Part} (hw : Within [.free, .doors, .quince, .loop, .outs, .fcp, .log,
    .service] ps) (a1 : List Byte) (a2 : Nat) (a3 : Nat) : ReqKeeps ps (Req.doorIsolate a1 a2 a3) := by
  intro _ _ s0 s h
  unfold Req.doorIsolate Req.doorway Req.plain
  dsimp only
  repeat' (first
    | (with_reducible assumption) | (with_reducible exact id)
    | (with_reducible refine State.oneDoor_keeps (hw.of rfl) ?_ ?_) | (with_reducible refine State.answers_keeps ?_ _)
    | (with_reducible refine State.runDoor_keeps (hw.of rfl) ?_ _ _) | (with_reducible refine ReplyKeeps.ite ?_ ?_)
    | (with_reducible refine Keeps.ite ?_ ?_) | (with_reducible refine Keeps.foldl _ (fun _ _ _ => ?_) ?_) | intro _
    | split | dsimp only | (with_reducible refine ReplyKeeps.mk ?_ ?_) | rw [id])

theorem Req.doorStatus_keeps {ps : List Part} (hw : Within [] ps) (a1 : List Byte) (a2 : Nat) (a3 : Nat) : ReqKeeps ps
    (Req.doorStatus a1 a2 a3) := by
  intro _ _ s0 s h
  unfold Req.doorStatus Req.plain
  dsimp only
  repeat' (first
    | (with_reducible assumption) | (with_reducible refine State.answers_keeps ?_ _)
    | (with_reducible refine ReplyKeeps.ite ?_ ?_) | (with_reducible refine Keeps.ite ?_ ?_)
    | (with_reducible refine Keeps.foldl _ (fun _ _ _ => ?_) ?_) | intro _ | split | dsimp only
    | (with_reducible refine ReplyKeeps.mk ?_ ?_) | rw [id])

theorem State.startsMaint_keeps {ps : List Part} {s0 s : State} (hw : Within [.free, .doors, .quince, .loop, .outs,
    .fcp, .log, .service] ps) (h : Keeps ps s0 s) (a2 : SessIx) (a3 : Nat) (a4 : OpKind) (a5 : DoorIx) (a6 : MaintOp) :
    ReplyKeeps ps s0 (State.startsMaint s a2 a3 a4 a5 a6) := by
  unfold State.startsMaint
  repeat' (first
    | (with_reducible assumption) | (with_reducible exact id)
    | (with_reducible refine State.runDoor_keeps (hw.of rfl) ?_ _ _)
    | (with_reducible refine State.accepts_keeps (hw.of rfl) ?_ ?_) | (with_reducible refine ReplyKeeps.ite ?_ ?_)
    | (with_reducible refine Keeps.ite ?_ ?_) | (with_reducible refine Keeps.foldl _ (fun _ _ _ => ?_) ?_) | intro _
    | split | dsimp only | (with_reducible refine ReplyKeeps.mk ?_ ?_) | rw [id])

theorem Req.doorTestCycle_keeps {ps : List Part} (hw : Within [.free, .doors, .quince, .loop, .outs, .fcp, .log,
    .service] ps) (a1 : List Byte) (a2 : Nat) (a3 : Nat) : ReqKeeps ps (Req.doorTestCycle a1 a2 a3) := by
  intro _ _ s0 s h
  unfold Req.doorTestCycle Req.doorway Req.plain
  dsimp only
  repeat' (first
    | (with_reducible assumption) | (with_reducible exact id)
    | (with_reducible refine State.oneDoor_keeps (hw.of rfl) ?_ ?_)
    | (with_reducible refine State.startsMaint_keeps (hw.of rfl) ?_ _ _ _ _ _)
    | (with_reducible refine ReplyKeeps.ite ?_ ?_) | (with_reducible refine Keeps.ite ?_ ?_)
    | (with_reducible refine Keeps.foldl _ (fun _ _ _ => ?_) ?_) | intro _ | split | dsimp only
    | (with_reducible refine ReplyKeeps.mk ?_ ?_) | rw [id])

theorem Req.envelopeLearn_keeps {ps : List Part} (hw : Within [.free, .doors, .quince, .loop, .outs, .fcp, .log,
    .service] ps) (a1 : List Byte) (a2 : Nat) : ReqKeeps ps (Req.envelopeLearn a1 a2) := by
  intro _ _ s0 s h
  unfold Req.envelopeLearn Req.doorway Req.plain
  dsimp only
  repeat' (first
    | (with_reducible assumption) | (with_reducible exact id)
    | (with_reducible refine State.oneDoor_keeps (hw.of rfl) ?_ ?_)
    | (with_reducible refine State.startsMaint_keeps (hw.of rfl) ?_ _ _ _ _ _)
    | (with_reducible refine ReplyKeeps.ite ?_ ?_) | (with_reducible refine Keeps.ite ?_ ?_)
    | (with_reducible refine Keeps.foldl _ (fun _ _ _ => ?_) ?_) | intro _ | split | dsimp only
    | (with_reducible refine ReplyKeeps.mk ?_ ?_) | rw [id])

theorem Req.homeStep_keeps {ps : List Part} (hw : Within [.free, .doors, .quince, .loop, .outs, .fcp, .log, .service]
    ps) (a1 : List Byte) (a2 : Nat) (a3 : Nat) : ReqKeeps ps (Req.homeStep a1 a2 a3) := by
  intro _ _ s0 s h
  unfold Req.homeStep Req.doorway Req.plain
  dsimp only
  repeat' (first
    | (with_reducible assumption) | (with_reducible exact id)
    | (with_reducible refine State.oneDoor_keeps (hw.of rfl) ?_ ?_) | (with_reducible refine State.answers_keeps ?_ _)
    | (with_reducible refine State.runDoor_keeps (hw.of rfl) ?_ _ _)
    | (with_reducible refine State.startsMaint_keeps (hw.of rfl) ?_ _ _ _ _ _)
    | (with_reducible refine State.accepts_keeps (hw.of rfl) ?_ ?_) | (with_reducible refine ReplyKeeps.ite ?_ ?_)
    | (with_reducible refine Keeps.ite ?_ ?_) | (with_reducible refine Keeps.foldl _ (fun _ _ _ => ?_) ?_) | intro _
    | split | dsimp only | (with_reducible refine ReplyKeeps.mk ?_ ?_) | rw [id])

theorem Req.moveResume_keeps {ps : List Part} (hw : Within [.free, .doors, .quince, .loop, .outs, .fcp, .log, .service]
    ps) (a1 : List Byte) (a2 : Nat) : ReqKeeps ps (Req.moveResume a1 a2) := by
  intro _ _ s0 s h
  unfold Req.moveResume Req.doorway Req.plain
  dsimp only
  repeat' (first
    | (with_reducible assumption) | (with_reducible refine State.doorResumes_keeps (hw.of rfl) ?_ _ _ _ _)
    | (with_reducible refine ReplyKeeps.ite ?_ ?_) | (with_reducible refine Keeps.ite ?_ ?_)
    | (with_reducible refine Keeps.foldl _ (fun _ _ _ => ?_) ?_) | intro _ | split | dsimp only
    | (with_reducible refine ReplyKeeps.mk ?_ ?_) | rw [id])

theorem Req.moveStop_keeps {ps : List Part} (hw : Within [.free, .doors, .quince, .loop, .outs, .fcp, .log, .service]
    ps) (a1 : List Byte) (a2 : Nat) (a3 : Nat) : ReqKeeps ps (Req.moveStop a1 a2 a3) := by
  intro _ _ s0 s h
  unfold Req.moveStop Req.doorway Req.plain
  dsimp only
  repeat' (first
    | (with_reducible assumption) | (with_reducible refine State.doorStop_keeps (hw.of rfl) ?_ _ _ _ _ _)
    | (with_reducible refine ReplyKeeps.ite ?_ ?_) | (with_reducible refine Keeps.ite ?_ ?_)
    | (with_reducible refine Keeps.foldl _ (fun _ _ _ => ?_) ?_) | intro _ | split | dsimp only
    | (with_reducible refine ReplyKeeps.mk ?_ ?_) | rw [id])

theorem State.supersedeMove_keeps {ps : List Part} {s0 s : State} (hw : Within [.fcp] ps) (h : Keeps ps s0 s) (r :
    DriveIx)
    (n : Nat) : Keeps ps s0 (s.supersedeMove r n) := by
  unfold State.supersedeMove
  refine Keeps.foldl _ (fun _ _ ht => State.settleOp_keeps (hw.of rfl) ht _) (h.trans ⟨fun p hp => by
    cases p <;> first | exact absurd (hw.has _ rfl) hp | rfl, fun hb => ?_, id⟩)
  refine Fcp.bounded_ops hb rfl (ops_map_length _ _ (fun o => ?_))
  split <;> rfl

theorem Req.moveTo_keeps {ps : List Part} (hw : Within [.free, .doors, .quince, .loop, .outs, .fcp, .log, .service] ps)
    (a1 : List Byte) (a2 : Nat) (a3 : Nat) (a4 : Int) (a5 : Nat) : ReqKeeps ps (Req.moveTo a1 a2 a3 a4 a5) := by
  intro _ _ s0 s h
  unfold Req.moveTo Req.doorway Req.plain
  dsimp only
  repeat' (first
    | (with_reducible assumption) | (with_reducible exact id)
    | (with_reducible refine State.oneDoor_keeps (hw.of rfl) ?_ ?_) | (with_reducible refine State.answers_keeps ?_ _)
    | (with_reducible refine State.runDoor_keeps (hw.of rfl) ?_ _ _)
    | (with_reducible refine State.supersedeMove_keeps (hw.of rfl) ?_ _ _)
    | (with_reducible refine State.accepts_keeps (hw.of rfl) ?_ ?_) | (with_reducible refine ReplyKeeps.ite ?_ ?_)
    | (with_reducible refine Keeps.ite ?_ ?_) | (with_reducible refine Keeps.foldl _ (fun _ _ _ => ?_) ?_) | intro _
    | split | dsimp only | (with_reducible refine ReplyKeeps.mk ?_ ?_) | rw [id])

theorem State.profileWrite_keeps {ps : List Part} {s0 s : State} (hw : Within [.doors, .fcp, .config] ps) (h : Keeps ps
    s0 s) (a2 : Hdr) (a3 : SessIx) (a4 : Nat) (a5 : List Byte) :
    ReplyKeeps ps s0 (State.profileWrite s a2 a3 a4 a5) := by
  unfold State.profileWrite
  repeat' (first
    | (with_reducible assumption) | (with_reducible exact id)
    | (with_reducible refine State.onDoor_keeps (hw.of rfl) ?_ _ _) | (with_reducible refine State.answers_keeps ?_ _)
    | (with_reducible refine State.own_keeps (hw.of rfl) ?_ _ _ _) | (with_reducible refine ReplyKeeps.ite ?_ ?_)
    | (with_reducible refine Keeps.ite ?_ ?_) | rw [State.put_config]
    | (with_reducible refine Keeps.putConfig (hw.of rfl) ?_)
    | (with_reducible refine Keeps.foldl _ (fun _ _ _ => ?_) ?_) | intro _ | split | dsimp only
    | (with_reducible refine ReplyKeeps.mk ?_ ?_) | rw [id])

theorem Req.profileWrite_keeps {ps : List Part} (hw : Within [.doors, .fcp, .config] ps) (a1 : List Byte) (a2 : Nat)
    (a3 : List Byte) : ReqKeeps ps (Req.profileWrite a1 a2 a3) := by
  intro _ _ s0 s h
  unfold Req.profileWrite Req.plain
  dsimp only
  repeat' (first
    | (with_reducible assumption) | (with_reducible refine State.profileWrite_keeps (hw.of rfl) ?_ _ _ _ _)
    | (with_reducible refine ReplyKeeps.ite ?_ ?_) | (with_reducible refine Keeps.ite ?_ ?_)
    | (with_reducible refine Keeps.foldl _ (fun _ _ _ => ?_) ?_) | intro _ | split | dsimp only
    | (with_reducible refine ReplyKeeps.mk ?_ ?_) | rw [id])

end Sys2Proof.Machine
end

