-- ==== Sys2Proof/Laws/KeepsIoCmds.lean ====
section
/-!
SUPPORT. For every operation of Machine/IoCmds.lean: the parts of State it may change, and that it keeps the invariant.
-/

set_option linter.unusedVariables false
set_option linter.unusedSimpArgs false

namespace Sys2Proof.Machine

theorem State.overChannels_keeps {ps : List Part} {s0 s : State} (hw : Within [.lsw, .fcp] ps) (h : Keeps ps s0 s) (a2
    : Hdr) (a3 : SessIx) (a4 : Nat) (a5 : (State → Nat → LoadSwitches × Nat × Nat × Nat)) :
    ReplyKeeps ps s0 (State.overChannels s a2 a3 a4 a5) := by
  unfold State.overChannels
  repeat' (first
    | (with_reducible assumption) | (with_reducible exact id) | (with_reducible refine State.answers_keeps ?_ _)
    | (with_reducible refine State.own_keeps (hw.of rfl) ?_ _ _ _) | (with_reducible refine ReplyKeeps.ite ?_ ?_)
    | (with_reducible refine Keeps.ite ?_ ?_) | rw [State.put_lsw]
    | (with_reducible refine Keeps.putLsw (hw.of rfl) ?_) | (with_reducible refine Keeps.foldl _ (fun _ _ _ => ?_) ?_)
    | intro _ | split | dsimp only | (with_reducible refine ReplyKeeps.mk ?_ ?_) | rw [id])

theorem Req.faultClear_keeps {ps : List Part} (hw : Within [.lsw, .fcp] ps) (a1 : List Byte) (a2 : Nat) : ReqKeeps ps
    (Req.faultClear a1 a2) := by
  intro _ _ s0 s h
  unfold Req.faultClear Req.doorway Req.plain
  dsimp only
  repeat' (first
    | (with_reducible assumption) | (with_reducible refine State.overChannels_keeps (hw.of rfl) ?_ _ _ _ _)
    | (with_reducible refine ReplyKeeps.ite ?_ ?_) | (with_reducible refine Keeps.ite ?_ ?_)
    | (with_reducible refine Keeps.foldl _ (fun _ _ _ => ?_) ?_) | intro _ | split | dsimp only
    | (with_reducible refine ReplyKeeps.mk ?_ ?_) | rw [id])

theorem Req.ioRead_keeps {ps : List Part} (hw : Within [] ps) (a1 : List Byte) (a2 : Nat) : ReqKeeps ps (Req.ioRead a1
    a2) := by
  intro _ _ s0 s h
  unfold Req.ioRead Req.plain
  dsimp only
  repeat' (first
    | (with_reducible assumption) | (with_reducible refine State.answers_keeps ?_ _)
    | (with_reducible refine ReplyKeeps.ite ?_ ?_) | (with_reducible refine Keeps.ite ?_ ?_)
    | (with_reducible refine Keeps.foldl _ (fun _ _ _ => ?_) ?_) | intro _ | split | dsimp only
    | (with_reducible refine ReplyKeeps.mk ?_ ?_) | rw [id])

theorem Req.outputSet_keeps {ps : List Part} (hw : Within [.loop, .outs, .fcp] ps) (a1 : List Byte) (a2 : Nat) (a3 :
    Nat) : ReqKeeps ps (Req.outputSet a1 a2 a3) := by
  intro _ _ s0 s h
  unfold Req.outputSet Req.plain
  dsimp only
  repeat' (first
    | (with_reducible assumption) | (with_reducible exact id) | (with_reducible refine State.answers_keeps ?_ _)
    | (with_reducible refine State.evaluate_keeps (hw.of rfl) ?_) | (with_reducible refine ReplyKeeps.ite ?_ ?_)
    | (with_reducible refine Keeps.ite ?_ ?_) | rw [State.put_outs]
    | (with_reducible refine Keeps.putOuts (hw.of rfl) ?_)
    | (with_reducible refine Keeps.foldl _ (fun _ _ _ => ?_) ?_) | intro _ | split | dsimp only
    | (with_reducible refine ReplyKeeps.mk ?_ ?_) | rw [id])

theorem Req.switchSet_keeps {ps : List Part} (hw : Within [.lsw, .fcp] ps) (a1 : List Byte) (a2 : Nat) (a3 : Nat) :
    ReqKeeps ps (Req.switchSet a1 a2 a3) := by
  intro _ _ s0 s h
  unfold Req.switchSet Req.doorway Req.plain
  dsimp only
  repeat' (first
    | (with_reducible assumption) | (with_reducible refine State.overChannels_keeps (hw.of rfl) ?_ _ _ _ _)
    | (with_reducible refine ReplyKeeps.ite ?_ ?_) | (with_reducible refine Keeps.ite ?_ ?_)
    | (with_reducible refine Keeps.foldl _ (fun _ _ _ => ?_) ?_) | intro _ | split | dsimp only
    | (with_reducible refine ReplyKeeps.mk ?_ ?_) | rw [id])

theorem Req.switchStatus_keeps {ps : List Part} (hw : Within [] ps) (a1 : List Byte) (a2 : Nat) : ReqKeeps ps
    (Req.switchStatus a1 a2) := by
  intro _ _ s0 s h
  unfold Req.switchStatus Req.plain
  dsimp only
  repeat' (first
    | (with_reducible assumption) | (with_reducible refine State.answers_keeps ?_ _)
    | (with_reducible refine ReplyKeeps.ite ?_ ?_) | (with_reducible refine Keeps.ite ?_ ?_)
    | (with_reducible refine Keeps.foldl _ (fun _ _ _ => ?_) ?_) | intro _ | split | dsimp only
    | (with_reducible refine ReplyKeeps.mk ?_ ?_) | rw [id])

end Sys2Proof.Machine
end

