-- ==== Sys2Proof/Laws/KeepsDoorCommandMeanings.lean ====
section
/-!
SUPPORT. For every operation of Machine/DoorCommandMeanings.lean: the parts of State it may change, and that it keeps the invariant.
-/

set_option linter.unusedVariables false
set_option linter.unusedSimpArgs false

namespace Sys2Proof.Machine

theorem execCompareSet_keeps {ps : List Part} {s0 s t : State} (hw : Within [.free, .doors, .fcp, .ring] ps) (h : Keeps
    ps s0 s) (a1 : Hdr) (a2 : BitVec 8) (a3 : BitVec 8) (a4 : BitVec 8) (a5 : BitVec 8) (a6 : BitVec 32) (a7 : BitVec 32)
    (he : execCompareSet a1 a2 a3 a4 a5 a6 a7 s = .next t) : Keeps ps s0 t := by
  unfold execCompareSet at he
  injection he with he
  subst he
  repeat' (first
    | (with_reducible assumption) | (with_reducible refine State.receive_keeps (hw.of rfl) ?_ _ ?_)
    | (with_reducible refine Req.compareSet_keeps (hw.of rfl) _ _ _ _ _ _ _) | (with_reducible refine Keeps.ite ?_ ?_)
    | (with_reducible refine Keeps.foldl _ (fun _ _ _ => ?_) ?_) | intro _ | split | dsimp only)

theorem execDoorCommandClose_keeps {ps : List Part} {s0 s t : State} (hw : Within [.free, .doors, .quince, .loop,
    .outs, .fcp, .log, .ring, .service] ps) (h : Keeps ps s0 s) (a1 : Hdr) (a2 : BitVec 8)
    (he : execDoorCommandClose a1 a2 s = .next t) : Keeps ps s0 t := by
  unfold execDoorCommandClose at he
  injection he with he
  subst he
  repeat' (first
    | (with_reducible assumption) | (with_reducible refine State.receive_keeps (hw.of rfl) ?_ _ ?_)
    | (with_reducible refine Req.doorCommand_keeps (hw.of rfl) _ _ _) | (with_reducible refine Keeps.ite ?_ ?_)
    | (with_reducible refine Keeps.foldl _ (fun _ _ _ => ?_) ?_) | intro _ | split | dsimp only)

theorem execDoorCommandOpen_keeps {ps : List Part} {s0 s t : State} (hw : Within [.free, .doors, .quince, .loop, .outs,
    .fcp, .log, .ring, .service] ps) (h : Keeps ps s0 s) (a1 : Hdr) (a2 : BitVec 8)
    (he : execDoorCommandOpen a1 a2 s = .next t) : Keeps ps s0 t := by
  unfold execDoorCommandOpen at he
  injection he with he
  subst he
  repeat' (first
    | (with_reducible assumption) | (with_reducible refine State.receive_keeps (hw.of rfl) ?_ _ ?_)
    | (with_reducible refine Req.doorCommand_keeps (hw.of rfl) _ _ _) | (with_reducible refine Keeps.ite ?_ ?_)
    | (with_reducible refine Keeps.foldl _ (fun _ _ _ => ?_) ?_) | intro _ | split | dsimp only)

theorem execDoorCommandReset_keeps {ps : List Part} {s0 s t : State} (hw : Within [.free, .doors, .quince, .loop,
    .outs, .fcp, .log, .ring, .service] ps) (h : Keeps ps s0 s) (a1 : Hdr) (a2 : BitVec 8)
    (he : execDoorCommandReset a1 a2 s = .next t) : Keeps ps s0 t := by
  unfold execDoorCommandReset at he
  injection he with he
  subst he
  repeat' (first
    | (with_reducible assumption) | (with_reducible refine State.receive_keeps (hw.of rfl) ?_ _ ?_)
    | (with_reducible refine Req.doorCommand_keeps (hw.of rfl) _ _ _) | (with_reducible refine Keeps.ite ?_ ?_)
    | (with_reducible refine Keeps.foldl _ (fun _ _ _ => ?_) ?_) | intro _ | split | dsimp only)

theorem execDoorCommandResume_keeps {ps : List Part} {s0 s t : State} (hw : Within [.free, .doors, .quince, .loop,
    .outs, .fcp, .log, .ring, .service] ps) (h : Keeps ps s0 s) (a1 : Hdr) (a2 : BitVec 8)
    (he : execDoorCommandResume a1 a2 s = .next t) : Keeps ps s0 t := by
  unfold execDoorCommandResume at he
  injection he with he
  subst he
  repeat' (first
    | (with_reducible assumption) | (with_reducible refine State.receive_keeps (hw.of rfl) ?_ _ ?_)
    | (with_reducible refine Req.doorCommand_keeps (hw.of rfl) _ _ _) | (with_reducible refine Keeps.ite ?_ ?_)
    | (with_reducible refine Keeps.foldl _ (fun _ _ _ => ?_) ?_) | intro _ | split | dsimp only)

theorem execDoorCommandStop_keeps {ps : List Part} {s0 s t : State} (hw : Within [.free, .doors, .quince, .loop, .outs,
    .fcp, .log, .ring, .service] ps) (h : Keeps ps s0 s) (a1 : Hdr) (a2 : BitVec 8)
    (he : execDoorCommandStop a1 a2 s = .next t) : Keeps ps s0 t := by
  unfold execDoorCommandStop at he
  injection he with he
  subst he
  repeat' (first
    | (with_reducible assumption) | (with_reducible refine State.receive_keeps (hw.of rfl) ?_ _ ?_)
    | (with_reducible refine Req.doorCommand_keeps (hw.of rfl) _ _ _) | (with_reducible refine Keeps.ite ?_ ?_)
    | (with_reducible refine Keeps.foldl _ (fun _ _ _ => ?_) ?_) | intro _ | split | dsimp only)

theorem execDoorIsolateClear_keeps {ps : List Part} {s0 s t : State} (hw : Within [.free, .doors, .quince, .loop,
    .outs, .fcp, .log, .ring, .service] ps) (h : Keeps ps s0 s) (a1 : Hdr) (a2 : BitVec 8)
    (he : execDoorIsolateClear a1 a2 s = .next t) : Keeps ps s0 t := by
  unfold execDoorIsolateClear at he
  injection he with he
  subst he
  repeat' (first
    | (with_reducible assumption) | (with_reducible refine State.receive_keeps (hw.of rfl) ?_ _ ?_)
    | (with_reducible refine Req.doorIsolate_keeps (hw.of rfl) _ _ _) | (with_reducible refine Keeps.ite ?_ ?_)
    | (with_reducible refine Keeps.foldl _ (fun _ _ _ => ?_) ?_) | intro _ | split | dsimp only)

theorem execDoorIsolateSet_keeps {ps : List Part} {s0 s t : State} (hw : Within [.free, .doors, .quince, .loop, .outs,
    .fcp, .log, .ring, .service] ps) (h : Keeps ps s0 s) (a1 : Hdr) (a2 : BitVec 8)
    (he : execDoorIsolateSet a1 a2 s = .next t) : Keeps ps s0 t := by
  unfold execDoorIsolateSet at he
  injection he with he
  subst he
  repeat' (first
    | (with_reducible assumption) | (with_reducible refine State.receive_keeps (hw.of rfl) ?_ _ ?_)
    | (with_reducible refine Req.doorIsolate_keeps (hw.of rfl) _ _ _) | (with_reducible refine Keeps.ite ?_ ?_)
    | (with_reducible refine Keeps.foldl _ (fun _ _ _ => ?_) ?_) | intro _ | split | dsimp only)

theorem execDoorStatus_keeps {ps : List Part} {s0 s t : State} (hw : Within [.free, .fcp, .ring] ps) (h : Keeps ps s0
    s) (a1 : Hdr) (a2 : BitVec 8) (a3 : BitVec 8)
    (he : execDoorStatus a1 a2 a3 s = .next t) : Keeps ps s0 t := by
  unfold execDoorStatus at he
  injection he with he
  subst he
  repeat' (first
    | (with_reducible assumption) | (with_reducible refine State.receive_keeps (hw.of rfl) ?_ _ ?_)
    | (with_reducible refine Req.doorStatus_keeps (hw.of rfl) _ _ _) | (with_reducible refine Keeps.ite ?_ ?_)
    | (with_reducible refine Keeps.foldl _ (fun _ _ _ => ?_) ?_) | intro _ | split | dsimp only)

theorem execDoorTestCycle_keeps {ps : List Part} {s0 s t : State} (hw : Within [.free, .doors, .quince, .loop, .outs,
    .fcp, .log, .ring, .service] ps) (h : Keeps ps s0 s) (a1 : Hdr) (a2 : BitVec 8) (a3 : BitVec 8)
    (he : execDoorTestCycle a1 a2 a3 s = .next t) : Keeps ps s0 t := by
  unfold execDoorTestCycle at he
  injection he with he
  subst he
  repeat' (first
    | (with_reducible assumption) | (with_reducible refine Req.doorTestCycle_keeps (hw.of rfl) _ _ _)
    | (with_reducible refine State.receive_keeps (hw.of rfl) ?_ _ ?_) | (with_reducible refine Keeps.ite ?_ ?_)
    | (with_reducible refine Keeps.foldl _ (fun _ _ _ => ?_) ?_) | intro _ | split | dsimp only)

theorem execEnvelopeLearn_keeps {ps : List Part} {s0 s t : State} (hw : Within [.free, .doors, .quince, .loop, .outs,
    .fcp, .log, .ring, .service] ps) (h : Keeps ps s0 s) (a1 : Hdr) (a2 : BitVec 8)
    (he : execEnvelopeLearn a1 a2 s = .next t) : Keeps ps s0 t := by
  unfold execEnvelopeLearn at he
  injection he with he
  subst he
  repeat' (first
    | (with_reducible assumption) | (with_reducible refine State.receive_keeps (hw.of rfl) ?_ _ ?_)
    | (with_reducible refine Req.envelopeLearn_keeps (hw.of rfl) _ _) | (with_reducible refine Keeps.ite ?_ ?_)
    | (with_reducible refine Keeps.foldl _ (fun _ _ _ => ?_) ?_) | intro _ | split | dsimp only)

theorem execFaultClear_keeps {ps : List Part} {s0 s t : State} (hw : Within [.free, .lsw, .fcp, .ring] ps) (h : Keeps
    ps s0 s) (a1 : Hdr) (a2 : BitVec 64)
    (he : execFaultClear a1 a2 s = .next t) : Keeps ps s0 t := by
  unfold execFaultClear at he
  injection he with he
  subst he
  repeat' (first
    | (with_reducible assumption) | (with_reducible refine State.receive_keeps (hw.of rfl) ?_ _ ?_)
    | (with_reducible refine Req.faultClear_keeps (hw.of rfl) _ _) | (with_reducible refine Keeps.ite ?_ ?_)
    | (with_reducible refine Keeps.foldl _ (fun _ _ _ => ?_) ?_) | intro _ | split | dsimp only)

theorem execHomeStepHome_keeps {ps : List Part} {s0 s t : State} (hw : Within [.free, .doors, .quince, .loop, .outs,
    .fcp, .log, .ring, .service] ps) (h : Keeps ps s0 s) (a1 : Hdr) (a2 : BitVec 8)
    (he : execHomeStepHome a1 a2 s = .next t) : Keeps ps s0 t := by
  unfold execHomeStepHome at he
  injection he with he
  subst he
  repeat' (first
    | (with_reducible assumption) | (with_reducible refine State.receive_keeps (hw.of rfl) ?_ _ ?_)
    | (with_reducible refine Req.homeStep_keeps (hw.of rfl) _ _ _) | (with_reducible refine Keeps.ite ?_ ?_)
    | (with_reducible refine Keeps.foldl _ (fun _ _ _ => ?_) ?_) | intro _ | split | dsimp only)

theorem execHomeStepMeasure_keeps {ps : List Part} {s0 s t : State} (hw : Within [.free, .doors, .quince, .loop, .outs,
    .fcp, .log, .ring, .service] ps) (h : Keeps ps s0 s) (a1 : Hdr) (a2 : BitVec 8)
    (he : execHomeStepMeasure a1 a2 s = .next t) : Keeps ps s0 t := by
  unfold execHomeStepMeasure at he
  injection he with he
  subst he
  repeat' (first
    | (with_reducible assumption) | (with_reducible refine State.receive_keeps (hw.of rfl) ?_ _ ?_)
    | (with_reducible refine Req.homeStep_keeps (hw.of rfl) _ _ _) | (with_reducible refine Keeps.ite ?_ ?_)
    | (with_reducible refine Keeps.foldl _ (fun _ _ _ => ?_) ?_) | intro _ | split | dsimp only)

theorem execIoRead_keeps {ps : List Part} {s0 s t : State} (hw : Within [.free, .fcp, .ring] ps) (h : Keeps ps s0 s)
    (a1 : Hdr) (a2 : BitVec 16)
    (he : execIoRead a1 a2 s = .next t) : Keeps ps s0 t := by
  unfold execIoRead at he
  injection he with he
  subst he
  repeat' (first
    | (with_reducible assumption) | (with_reducible refine State.receive_keeps (hw.of rfl) ?_ _ ?_)
    | (with_reducible refine Req.ioRead_keeps (hw.of rfl) _ _) | (with_reducible refine Keeps.ite ?_ ?_)
    | (with_reducible refine Keeps.foldl _ (fun _ _ _ => ?_) ?_) | intro _ | split | dsimp only)

theorem execMoveResume_keeps {ps : List Part} {s0 s t : State} (hw : Within [.free, .doors, .quince, .loop, .outs,
    .fcp, .log, .ring, .service] ps) (h : Keeps ps s0 s) (a1 : Hdr) (a2 : BitVec 16)
    (he : execMoveResume a1 a2 s = .next t) : Keeps ps s0 t := by
  unfold execMoveResume at he
  injection he with he
  subst he
  repeat' (first
    | (with_reducible assumption) | (with_reducible refine Req.moveResume_keeps (hw.of rfl) _ _)
    | (with_reducible refine State.receive_keeps (hw.of rfl) ?_ _ ?_) | (with_reducible refine Keeps.ite ?_ ?_)
    | (with_reducible refine Keeps.foldl _ (fun _ _ _ => ?_) ?_) | intro _ | split | dsimp only)

theorem execMoveStop_keeps {ps : List Part} {s0 s t : State} (hw : Within [.free, .doors, .quince, .loop, .outs, .fcp,
    .log, .ring, .service] ps) (h : Keeps ps s0 s) (a1 : Hdr) (a2 : BitVec 16) (a3 : BitVec 8)
    (he : execMoveStop a1 a2 a3 s = .next t) : Keeps ps s0 t := by
  unfold execMoveStop at he
  injection he with he
  subst he
  repeat' (first
    | (with_reducible assumption) | (with_reducible refine Req.moveStop_keeps (hw.of rfl) _ _ _)
    | (with_reducible refine State.receive_keeps (hw.of rfl) ?_ _ ?_) | (with_reducible refine Keeps.ite ?_ ?_)
    | (with_reducible refine Keeps.foldl _ (fun _ _ _ => ?_) ?_) | intro _ | split | dsimp only)

theorem execMoveTo_keeps {ps : List Part} {s0 s t : State} (hw : Within [.free, .doors, .quince, .loop, .outs, .fcp,
    .log, .ring, .service] ps) (h : Keeps ps s0 s) (a1 : Hdr) (a2 : BitVec 8) (a3 : BitVec 8) (a4 : BitVec 32) (a5 :
    BitVec 32)
    (he : execMoveTo a1 a2 a3 a4 a5 s = .next t) : Keeps ps s0 t := by
  unfold execMoveTo at he
  injection he with he
  subst he
  repeat' (first
    | (with_reducible assumption) | (with_reducible refine State.receive_keeps (hw.of rfl) ?_ _ ?_)
    | (with_reducible refine Req.moveTo_keeps (hw.of rfl) _ _ _ _ _) | (with_reducible refine Keeps.ite ?_ ?_)
    | (with_reducible refine Keeps.foldl _ (fun _ _ _ => ?_) ?_) | intro _ | split | dsimp only)

theorem execOutputSet_keeps {ps : List Part} {s0 s t : State} (hw : Within [.free, .loop, .outs, .fcp, .ring] ps) (h :
    Keeps ps s0 s) (a1 : Hdr) (a2 : BitVec 16) (a3 : BitVec 16)
    (he : execOutputSet a1 a2 a3 s = .next t) : Keeps ps s0 t := by
  unfold execOutputSet at he
  injection he with he
  subst he
  repeat' (first
    | (with_reducible assumption) | (with_reducible refine State.receive_keeps (hw.of rfl) ?_ _ ?_)
    | (with_reducible refine Req.outputSet_keeps (hw.of rfl) _ _ _) | (with_reducible refine Keeps.ite ?_ ?_)
    | (with_reducible refine Keeps.foldl _ (fun _ _ _ => ?_) ?_) | intro _ | split | dsimp only)

theorem execProfileWrite_keeps {ps : List Part} {s0 s t : State} (hw : Within [.free, .doors, .fcp, .ring, .config] ps)
    (h : Keeps ps s0 s) (a1 : Hdr) (a2 : BitVec 16) (a3 : List Byte)
    (he : execProfileWrite a1 a2 a3 s = .next t) : Keeps ps s0 t := by
  unfold execProfileWrite at he
  injection he with he
  subst he
  repeat' (first
    | (with_reducible assumption) | (with_reducible refine State.receive_keeps (hw.of rfl) ?_ _ ?_)
    | (with_reducible refine Req.profileWrite_keeps (hw.of rfl) _ _ _) | (with_reducible refine Keeps.ite ?_ ?_)
    | (with_reducible refine Keeps.foldl _ (fun _ _ _ => ?_) ?_) | intro _ | split | dsimp only)

theorem execSwitchSetKeepWarm_keeps {ps : List Part} {s0 s t : State} (hw : Within [.free, .lsw, .fcp, .ring] ps) (h :
    Keeps ps s0 s) (a1 : Hdr) (a2 : BitVec 64)
    (he : execSwitchSetKeepWarm a1 a2 s = .next t) : Keeps ps s0 t := by
  unfold execSwitchSetKeepWarm at he
  injection he with he
  subst he
  repeat' (first
    | (with_reducible assumption) | (with_reducible refine State.receive_keeps (hw.of rfl) ?_ _ ?_)
    | (with_reducible refine Req.switchSet_keeps (hw.of rfl) _ _ _) | (with_reducible refine Keeps.ite ?_ ?_)
    | (with_reducible refine Keeps.foldl _ (fun _ _ _ => ?_) ?_) | intro _ | split | dsimp only)

theorem execSwitchSetOff_keeps {ps : List Part} {s0 s t : State} (hw : Within [.free, .lsw, .fcp, .ring] ps) (h : Keeps
    ps s0 s) (a1 : Hdr) (a2 : BitVec 64)
    (he : execSwitchSetOff a1 a2 s = .next t) : Keeps ps s0 t := by
  unfold execSwitchSetOff at he
  injection he with he
  subst he
  repeat' (first
    | (with_reducible assumption) | (with_reducible refine State.receive_keeps (hw.of rfl) ?_ _ ?_)
    | (with_reducible refine Req.switchSet_keeps (hw.of rfl) _ _ _) | (with_reducible refine Keeps.ite ?_ ?_)
    | (with_reducible refine Keeps.foldl _ (fun _ _ _ => ?_) ?_) | intro _ | split | dsimp only)

theorem execSwitchSetOn_keeps {ps : List Part} {s0 s t : State} (hw : Within [.free, .lsw, .fcp, .ring] ps) (h : Keeps
    ps s0 s) (a1 : Hdr) (a2 : BitVec 64)
    (he : execSwitchSetOn a1 a2 s = .next t) : Keeps ps s0 t := by
  unfold execSwitchSetOn at he
  injection he with he
  subst he
  repeat' (first
    | (with_reducible assumption) | (with_reducible refine State.receive_keeps (hw.of rfl) ?_ _ ?_)
    | (with_reducible refine Req.switchSet_keeps (hw.of rfl) _ _ _) | (with_reducible refine Keeps.ite ?_ ?_)
    | (with_reducible refine Keeps.foldl _ (fun _ _ _ => ?_) ?_) | intro _ | split | dsimp only)

theorem execSwitchSetReturn_keeps {ps : List Part} {s0 s t : State} (hw : Within [.free, .lsw, .fcp, .ring] ps) (h :
    Keeps ps s0 s) (a1 : Hdr) (a2 : BitVec 64)
    (he : execSwitchSetReturn a1 a2 s = .next t) : Keeps ps s0 t := by
  unfold execSwitchSetReturn at he
  injection he with he
  subst he
  repeat' (first
    | (with_reducible assumption) | (with_reducible refine State.receive_keeps (hw.of rfl) ?_ _ ?_)
    | (with_reducible refine Req.switchSet_keeps (hw.of rfl) _ _ _) | (with_reducible refine Keeps.ite ?_ ?_)
    | (with_reducible refine Keeps.foldl _ (fun _ _ _ => ?_) ?_) | intro _ | split | dsimp only)

theorem execSwitchStatus_keeps {ps : List Part} {s0 s t : State} (hw : Within [.free, .fcp, .ring] ps) (h : Keeps ps s0
    s) (a1 : Hdr) (a2 : BitVec 64)
    (he : execSwitchStatus a1 a2 s = .next t) : Keeps ps s0 t := by
  unfold execSwitchStatus at he
  injection he with he
  subst he
  repeat' (first
    | (with_reducible assumption) | (with_reducible refine State.receive_keeps (hw.of rfl) ?_ _ ?_)
    | (with_reducible refine Req.switchStatus_keeps (hw.of rfl) _ _) | (with_reducible refine Keeps.ite ?_ ?_)
    | (with_reducible refine Keeps.foldl _ (fun _ _ _ => ?_) ?_) | intro _ | split | dsimp only)

end Sys2Proof.Machine
end

