-- ==== Sys2Proof/Laws/KeepsRecorderCmds.lean ====
section
/-!
SUPPORT. For every operation of Machine/RecorderCmds.lean: the parts of State it may change, and that it keeps the invariant.
-/

set_option linter.unusedVariables false
set_option linter.unusedSimpArgs false

namespace Sys2Proof.Machine

theorem State.takeLog_keeps {ps : List Part} {s0 s : State} (hw : Within [.fcp, .log] ps) (h : Keeps ps s0 s) (a2 :
    Recorder × Events) :
    Keeps ps s0 (State.takeLog s a2) := by
  unfold State.takeLog
  repeat' (first
    | (with_reducible assumption) | (with_reducible exact id)
    | (with_reducible refine State.events_keeps (hw.of rfl) ?_ _) | (with_reducible refine Keeps.ite ?_ ?_)
    | rw [State.put_log] | (with_reducible refine Keeps.putLog (hw.of rfl) ?_)
    | (with_reducible refine Keeps.foldl _ (fun _ _ _ => ?_) ?_) | intro _ | split | dsimp only)

theorem Req.incidentErase_keeps {ps : List Part} (hw : Within [.fcp, .log] ps) (a1 : List Byte) (a2 : Nat) (a3 : Nat) :
    ReqKeeps ps (Req.incidentErase a1 a2 a3) := by
  intro _ _ s0 s h
  unfold Req.incidentErase Req.plain
  dsimp only
  repeat' (first
    | (with_reducible assumption) | (with_reducible exact id) | (with_reducible refine State.answers_keeps ?_ _)
    | (with_reducible refine State.accepts_keeps (hw.of rfl) ?_ ?_)
    | (with_reducible refine State.takeLog_keeps (hw.of rfl) ?_ _) | (with_reducible refine ReplyKeeps.ite ?_ ?_)
    | (with_reducible refine Keeps.ite ?_ ?_) | (with_reducible refine Keeps.foldl _ (fun _ _ _ => ?_) ?_) | intro _
    | split | dsimp only | (with_reducible refine ReplyKeeps.mk ?_ ?_) | rw [id])

theorem Req.incidentRead_keeps {ps : List Part} (hw : Within [] ps) (a1 : List Byte) (a2 : Nat) (a3 : Nat) : ReqKeeps
    ps (Req.incidentRead a1 a2 a3) := by
  intro _ _ s0 s h
  unfold Req.incidentRead Req.plain
  dsimp only
  repeat' (first
    | (with_reducible assumption) | (with_reducible refine State.answers_keeps ?_ _)
    | (with_reducible refine ReplyKeeps.ite ?_ ?_) | (with_reducible refine Keeps.ite ?_ ?_)
    | (with_reducible refine Keeps.foldl _ (fun _ _ _ => ?_) ?_) | intro _ | split | dsimp only
    | (with_reducible refine ReplyKeeps.mk ?_ ?_) | rw [id])

theorem Req.logAck_keeps {ps : List Part} (hw : Within [.fcp, .log] ps) (a1 : List Byte) (a2 : Nat) : ReqKeeps ps
    (Req.logAck a1 a2) := by
  intro _ _ s0 s h
  unfold Req.logAck Req.plain
  dsimp only
  repeat' (first
    | (with_reducible assumption) | (with_reducible refine State.answers_keeps ?_ _)
    | (with_reducible refine State.takeLog_keeps (hw.of rfl) ?_ _) | (with_reducible refine ReplyKeeps.ite ?_ ?_)
    | (with_reducible refine Keeps.ite ?_ ?_) | (with_reducible refine Keeps.foldl _ (fun _ _ _ => ?_) ?_) | intro _
    | split | dsimp only | (with_reducible refine ReplyKeeps.mk ?_ ?_) | rw [id])

theorem Req.logDrain_keeps {ps : List Part} (hw : Within [] ps) (a1 : List Byte) (a2 : Nat) (a3 : Nat) : ReqKeeps ps
    (Req.logDrain a1 a2 a3) := by
  intro _ _ s0 s h
  unfold Req.logDrain Req.plain
  dsimp only
  repeat' (first
    | (with_reducible assumption) | (with_reducible refine State.answers_keeps ?_ _)
    | (with_reducible refine ReplyKeeps.ite ?_ ?_) | (with_reducible refine Keeps.ite ?_ ?_)
    | (with_reducible refine Keeps.foldl _ (fun _ _ _ => ?_) ?_) | intro _ | split | dsimp only
    | (with_reducible refine ReplyKeeps.mk ?_ ?_) | rw [id])

theorem Req.logStatus_keeps {ps : List Part} (hw : Within [.fcp, .log] ps) (a1 : List Byte) (a2 : Nat) : ReqKeeps ps
    (Req.logStatus a1 a2) := by
  intro _ _ s0 s h
  unfold Req.logStatus Req.plain
  dsimp only
  repeat' (first
    | (with_reducible assumption) | (with_reducible exact id) | (with_reducible refine State.answers_keeps ?_ _)
    | (with_reducible refine ReplyKeeps.ite ?_ ?_) | (with_reducible refine Keeps.ite ?_ ?_) | rw [State.put_fcp_log]
    | (with_reducible refine Keeps.putFcp (hw.of rfl) ?_ ?_) | (with_reducible refine Keeps.putLog (hw.of rfl) ?_)
    | (with_reducible apply Fcp.session_bounded) | (with_reducible apply Session.answer_bounded)
    | (with_reducible refine Keeps.foldl _ (fun _ _ _ => ?_) ?_) | intro _ | split | dsimp only
    | (with_reducible refine ReplyKeeps.mk ?_ ?_) | rw [id] | exact Session.bounded_of (by assumption) rfl rfl rfl
    | (with_reducible exact Fcp.reset_bounded) | (with_reducible refine Fcp.cleared_bounded ?_)
    | (with_reducible refine Fcp.bounded_rest ?_))

theorem State.eraseDone_keeps {ps : List Part} {s0 s : State} (hw : Within [.fcp, .log] ps) (h : Keeps ps s0 s)  :
    Keeps ps s0 (State.eraseDone s) := by
  unfold State.eraseDone
  repeat' (first
    | (with_reducible assumption) | (with_reducible exact id)
    | (with_reducible refine State.complete_keeps (hw.of rfl) ?_ _ _ _ _) | (with_reducible refine Keeps.ite ?_ ?_)
    | rw [State.put_log] | (with_reducible refine Keeps.putLog (hw.of rfl) ?_)
    | (with_reducible refine Keeps.foldl _ (fun _ _ _ => ?_) ?_) | intro _ | split | dsimp only)

theorem State.sendDeferred_keeps {ps : List Part} {s0 s : State} (hw : Within [.fcp] ps) (h : Keeps ps s0 s) (a2 :
    Deferred) :
    Keeps ps s0 (State.sendDeferred s a2) := by
  unfold State.sendDeferred
  repeat' (first
    | (with_reducible assumption) | (with_reducible exact id)
    | (with_reducible refine State.onSession_keeps (hw.of rfl) ?_ ?_)
    | (with_reducible refine State.countFcp_keeps (hw.of rfl) ?_ _) | (with_reducible refine Keeps.ite ?_ ?_)
    | (with_reducible apply Fcp.session_bounded) | (with_reducible apply Session.answer_bounded)
    | (with_reducible apply Session.answerStored_bounded) | (with_reducible refine Keeps.foldl _ (fun _ _ _ => ?_) ?_)
    | intro _ | split | dsimp only | exact Session.bounded_of (by assumption) rfl rfl rfl
    | (with_reducible exact Fcp.reset_bounded) | (with_reducible refine Fcp.cleared_bounded ?_)
    | (with_reducible refine Fcp.bounded_rest ?_))

theorem State.flushDone_keeps {ps : List Part} {s0 s : State} (hw : Within [.fcp] ps) (h : Keeps ps s0 s)  :
    Keeps ps s0 (State.flushDone s) := by
  unfold State.flushDone
  repeat' (first
    | (with_reducible assumption) | (with_reducible exact id)
    | (with_reducible refine State.sendDeferred_keeps (hw.of rfl) ?_ _) | (with_reducible refine Keeps.ite ?_ ?_)
    | rw [State.put_fcp] | (with_reducible refine Keeps.putFcp (hw.of rfl) ?_ ?_)
    | (with_reducible refine Keeps.foldl _ (fun _ _ _ => ?_) ?_) | intro _ | split | dsimp only
    | exact Session.bounded_of (by assumption) rfl rfl rfl | (with_reducible exact Fcp.reset_bounded)
    | (with_reducible refine Fcp.cleared_bounded ?_) | (with_reducible refine Fcp.bounded_rest ?_))

end Sys2Proof.Machine
end

