-- ==== Sys2Proof/Laws/KeepsPowerOps.lean ====
section
/-!
SUPPORT. For every operation of Machine/PowerOps.lean: the parts of State it may change, and that it keeps the invariant.
-/

set_option linter.unusedVariables false
set_option linter.unusedSimpArgs false

namespace Sys2Proof.Machine

theorem State.onPower_keeps {ps : List Part} {s0 s : State} (hw : Within [.power] ps) (h : Keeps ps s0 s) (a2 : (Power
    → Power)) :
    Keeps ps s0 (State.onPower s a2) := by
  unfold State.onPower
  repeat' (first
    | (with_reducible assumption) | (with_reducible exact id) | (with_reducible refine Keeps.ite ?_ ?_)
    | rw [State.put_power] | (with_reducible refine Keeps.putPower (hw.of rfl) ?_)
    | (with_reducible refine Keeps.foldl _ (fun _ _ _ => ?_) ?_) | intro _ | split | dsimp only)

theorem State.powerEvent_keeps {ps : List Part} {s0 s : State} (hw : Within [.fcp] ps) (h : Keeps ps s0 s) (a2 : Nat)
    (a3 : Nat) (a4 : Nat) :
    Keeps ps s0 (State.powerEvent s a2 a3 a4) := by
  unfold State.powerEvent
  repeat' (first
    | (with_reducible assumption) | (with_reducible refine State.event_keeps (hw.of rfl) ?_ _ _)
    | (with_reducible refine Keeps.ite ?_ ?_) | (with_reducible refine Keeps.foldl _ (fun _ _ _ => ?_) ?_) | intro _
    | split | dsimp only)

theorem State.entryEnds_keeps {ps : List Part} {s0 s : State} (hw : Within [.fcp, .power] ps) (h : Keeps ps s0 s) (a2 :
    Entry) (a3 : Nat) (a4 : Nat) (a5 : Nat) (a6 : Nat) :
    Keeps ps s0 (State.entryEnds s a2 a3 a4 a5 a6) := by
  unfold State.entryEnds
  repeat' (first
    | (with_reducible assumption) | (with_reducible refine State.complete_keeps (hw.of rfl) ?_ _ _ _ _)
    | (with_reducible refine State.onPower_keeps (hw.of rfl) ?_ _)
    | (with_reducible refine State.powerEvent_keeps (hw.of rfl) ?_ _ _ _) | (with_reducible refine Keeps.ite ?_ ?_)
    | (with_reducible refine Keeps.foldl _ (fun _ _ _ => ?_) ?_) | intro _ | split | dsimp only)

theorem State.entryChecks_keeps {ps : List Part} {s0 s : State} (hw : Within [.fcp, .power] ps) (h : Keeps ps s0 s)  :
    Keeps ps s0 (State.entryChecks s) := by
  unfold State.entryChecks
  repeat' (first
    | (with_reducible assumption) | (with_reducible refine State.entryEnds_keeps (hw.of rfl) ?_ _ _ _ _ _)
    | (with_reducible refine Keeps.ite ?_ ?_) | (with_reducible refine Keeps.foldl _ (fun _ _ _ => ?_) ?_) | intro _
    | split | dsimp only)

theorem State.closeSession_keeps {ps : List Part} {s0 s : State} (hw : Within [.fcp, .service, .config] ps) (h : Keeps
    ps s0 s) (a2 : SessIx) (a3 : Bool) :
    Keeps ps s0 (State.closeSession s a2 a3) := by
  unfold State.closeSession
  repeat' (first
    | (with_reducible assumption) | (with_reducible exact id) | (with_reducible refine Keeps.ite ?_ ?_)
    | rw [State.put_fcp_service_config] | (with_reducible refine Keeps.putFcp (hw.of rfl) ?_ ?_)
    | (with_reducible refine Keeps.putService (hw.of rfl) ?_) | (with_reducible refine Keeps.putConfig (hw.of rfl) ?_)
    | (with_reducible apply Fcp.session_bounded) | (with_reducible apply Fcp.closeSession_bounded)
    | (with_reducible refine Keeps.foldl _ (fun _ _ _ => ?_) ?_) | intro _ | split | dsimp only
    | exact Session.bounded_of (by assumption) rfl rfl rfl | (with_reducible exact Fcp.reset_bounded)
    | (with_reducible refine Fcp.cleared_bounded ?_) | (with_reducible refine Fcp.bounded_rest ?_))

theorem Req.powerAccounts_keeps {ps : List Part} (hw : Within [] ps) (a1 : List Byte) : ReqKeeps ps (Req.powerAccounts
    a1) := by
  intro _ _ s0 s h
  unfold Req.powerAccounts Req.plain
  dsimp only
  repeat' (first
    | (with_reducible assumption) | (with_reducible refine State.answers_keeps ?_ _)
    | (with_reducible refine ReplyKeeps.ite ?_ ?_) | (with_reducible refine Keeps.ite ?_ ?_)
    | (with_reducible refine Keeps.foldl _ (fun _ _ _ => ?_) ?_) | intro _ | split | dsimp only
    | (with_reducible refine ReplyKeeps.mk ?_ ?_) | rw [id])

theorem State.entryStarts_keeps {ps : List Part} {s0 s : State} (hw : Within [.free, .doors, .quince, .loop, .outs,
    .fcp, .log, .power, .service] ps) (h : Keeps ps s0 s) (a2 : SessIx) (a3 : PwrMode) (a4 : Nat) (a5 : Nat) :
    Keeps ps s0 (State.entryStarts s a2 a3 a4 a5) := by
  unfold State.entryStarts
  repeat' (first
    | (with_reducible assumption) | (with_reducible exact id)
    | (with_reducible refine State.runDoor_keeps (hw.of rfl) ?_ _ _)
    | (with_reducible refine State.onPower_keeps (hw.of rfl) ?_ _)
    | (with_reducible refine State.powerEvent_keeps (hw.of rfl) ?_ _ _ _) | (with_reducible refine Keeps.ite ?_ ?_)
    | rw [State.put_doors_log] | (with_reducible refine Keeps.putDoors (hw.of rfl) ?_)
    | (with_reducible refine Keeps.putLog (hw.of rfl) ?_) | (with_reducible refine Keeps.foldl _ (fun _ _ _ => ?_) ?_)
    | intro _ | split | dsimp only)

theorem Req.powerEnter_keeps {ps : List Part} (hw : Within [.free, .doors, .quince, .loop, .outs, .fcp, .log, .power,
    .service] ps) (a1 : List Byte) (a2 : Nat) (a3 : Nat) : ReqKeeps ps (Req.powerEnter a1 a2 a3) := by
  intro _ _ s0 s h
  unfold Req.powerEnter Req.plain
  dsimp only
  repeat' (first
    | (with_reducible assumption) | (with_reducible exact id) | (with_reducible refine State.answers_keeps ?_ _)
    | (with_reducible refine State.onPower_keeps (hw.of rfl) ?_ _)
    | (with_reducible refine State.entryStarts_keeps (hw.of rfl) ?_ _ _ _ _)
    | (with_reducible refine State.accepts_keeps (hw.of rfl) ?_ ?_) | (with_reducible refine ReplyKeeps.ite ?_ ?_)
    | (with_reducible refine Keeps.ite ?_ ?_) | (with_reducible refine Keeps.foldl _ (fun _ _ _ => ?_) ?_) | intro _
    | split | dsimp only | (with_reducible refine ReplyKeeps.mk ?_ ?_) | rw [id])

theorem Req.powerStatus_keeps {ps : List Part} (hw : Within [] ps) (a1 : List Byte) : ReqKeeps ps (Req.powerStatus a1)
    := by
  intro _ _ s0 s h
  unfold Req.powerStatus Req.plain
  dsimp only
  repeat' (first
    | (with_reducible assumption) | (with_reducible refine State.answers_keeps ?_ _)
    | (with_reducible refine ReplyKeeps.ite ?_ ?_) | (with_reducible refine Keeps.ite ?_ ?_)
    | (with_reducible refine Keeps.foldl _ (fun _ _ _ => ?_) ?_) | intro _ | split | dsimp only
    | (with_reducible refine ReplyKeeps.mk ?_ ?_) | rw [id])

theorem State.runOff_keeps {ps : List Part} {s0 s : State} (hw : Within [.half, .doors, .encoders, .quince, .log, .can,
    .engines, .service] ps) (h : Keeps ps s0 s) (a2 : Bool) :
    Keeps ps s0 (State.runOff s a2) := by
  unfold State.runOff
  repeat' (first
    | (with_reducible assumption) | (with_reducible exact id) | (with_reducible refine Keeps.ite ?_ ?_)
    | rw [State.put_half_doors_encoders_quince_log_can_engines_service]
    | (with_reducible refine Keeps.putHalf (hw.of rfl) ?_) | (with_reducible refine Keeps.putDoors (hw.of rfl) ?_)
    | (with_reducible refine Keeps.putEncoders (hw.of rfl) ?_)
    | (with_reducible refine Keeps.putQuince (hw.of rfl) ?_) | (with_reducible refine Keeps.putLog (hw.of rfl) ?_)
    | (with_reducible refine Keeps.putCan (hw.of rfl) ?_) | (with_reducible refine Keeps.putEngines (hw.of rfl) ?_ ?_)
    | (with_reducible refine Keeps.putService (hw.of rfl) ?_) | (with_reducible apply Engines.unpowered_memOk)
    | (with_reducible apply Engines.asleep_memOk) | exact Engines.memOk_same (by assumption) rfl
    | exact App.mem_same (by assumption) rfl | exact App.mem_same (by assumption) (App.post_mem _ _ _)
    | (with_reducible apply Memory.writeMany_wf) | (with_reducible refine Keeps.foldl _ (fun _ _ _ => ?_) ?_)
    | intro _ | split | dsimp only)

theorem State.fieldOff_keeps {ps : List Part} {s0 s : State} (hw : Within [.doors, .train, .loop, .lsw, .outs, .ring]
    ps) (h : Keeps ps s0 s)  :
    Keeps ps s0 (State.fieldOff s) := by
  unfold State.fieldOff
  repeat' (first
    | (with_reducible assumption) | (with_reducible exact id) | (with_reducible refine Keeps.ite ?_ ?_)
    | rw [State.put_doors_train_loop_lsw_outs_ring] | (with_reducible refine Keeps.putDoors (hw.of rfl) ?_)
    | (with_reducible refine Keeps.putTrain (hw.of rfl) ?_) | (with_reducible refine Keeps.putLoop (hw.of rfl) ?_)
    | (with_reducible refine Keeps.putLsw (hw.of rfl) ?_) | (with_reducible refine Keeps.putOuts (hw.of rfl) ?_)
    | (with_reducible refine Keeps.putRing (hw.of rfl) ?_)
    | (with_reducible refine Keeps.foldl _ (fun _ _ _ => ?_) ?_) | intro _ | split | dsimp only)

theorem State.powerLost_keeps {ps : List Part} {s0 s : State} (hw : Within [.half, .doors, .encoders, .quince, .train,
    .loop, .lsw, .outs, .fcp, .log, .ring, .can, .power, .engines, .service, .config] ps) (h : Keeps ps s0 s)  :
    Keeps ps s0 (State.powerLost s) := by
  unfold State.powerLost
  repeat' (first
    | (with_reducible assumption) | (with_reducible exact id)
    | (with_reducible refine State.runOff_keeps (hw.of rfl) ?_ _)
    | (with_reducible refine State.fieldOff_keeps (hw.of rfl) ?_) | (with_reducible refine Keeps.ite ?_ ?_)
    | rw [State.put_fcp_can_power_config] | (with_reducible refine Keeps.putFcp (hw.of rfl) ?_ ?_)
    | (with_reducible refine Keeps.putCan (hw.of rfl) ?_) | (with_reducible refine Keeps.putPower (hw.of rfl) ?_)
    | (with_reducible refine Keeps.putConfig (hw.of rfl) ?_)
    | (with_reducible refine Keeps.foldl _ (fun _ _ _ => ?_) ?_) | intro _ | split | dsimp only
    | exact Session.bounded_of (by assumption) rfl rfl rfl | (with_reducible exact Fcp.reset_bounded)
    | (with_reducible refine Fcp.cleared_bounded ?_) | (with_reducible refine Fcp.bounded_rest ?_))

theorem State.wakeCause_keeps {ps : List Part} {s0 s : State} (hw : Within [.power] ps) (h : Keeps ps s0 s) (a2 : Nat) :
    Keeps ps s0 (State.wakeCause s a2) := by
  unfold State.wakeCause
  repeat' (first
    | (with_reducible assumption) | (with_reducible refine State.onPower_keeps (hw.of rfl) ?_ _)
    | (with_reducible refine Keeps.ite ?_ ?_) | (with_reducible refine Keeps.foldl _ (fun _ _ _ => ?_) ?_) | intro _
    | split | dsimp only)

theorem State.bootApp_keeps {ps : List Part} {s0 s : State} (hw : Within [.fcp, .engines] ps) (h : Keeps ps s0 s) (a2 :
    Bool) :
    Keeps ps s0 (State.bootApp s a2) := by
  unfold State.bootApp
  repeat' (first
    | (with_reducible assumption) | (with_reducible exact id)
    | (with_reducible refine State.events_keeps (hw.of rfl) ?_ _) | (with_reducible refine Keeps.ite ?_ ?_)
    | rw [State.put_engines] | (with_reducible refine Keeps.putEngines (hw.of rfl) ?_ ?_)
    | (with_reducible apply Engines.appStart_memOk) | (with_reducible refine Engines.onApp_memOk ?_ ?_)
    | (with_reducible apply App.clearMailbox_wf) | exact Engines.memOk_same (by assumption) rfl
    | exact App.mem_same (by assumption) rfl | exact App.mem_same (by assumption) (App.post_mem _ _ _)
    | (with_reducible apply Memory.writeMany_wf) | (with_reducible refine Keeps.foldl _ (fun _ _ _ => ?_) ?_)
    | intro _ | split | dsimp only)

theorem State.bootFirmware_keeps {ps : List Part} {s0 s : State} (hw : Within [.fcp, .service] ps) (h : Keeps ps s0 s)  :
    Keeps ps s0 (State.bootFirmware s) := by
  unfold State.bootFirmware
  repeat' (first
    | (with_reducible assumption) | (with_reducible exact id)
    | (with_reducible refine State.event_keeps (hw.of rfl) ?_ _ _) | (with_reducible refine Keeps.ite ?_ ?_)
    | rw [State.put_service] | (with_reducible refine Keeps.putService (hw.of rfl) ?_)
    | (with_reducible refine Keeps.foldl _ (fun _ _ _ => ?_) ?_) | intro _ | split | dsimp only)

theorem State.bootImage_keeps {ps : List Part} {s0 s : State} (hw : Within [.fcp, .config] ps) (h : Keeps ps s0 s) (a2
    : Bool) (a3 : Bool) :
    Keeps ps s0 (State.bootImage s a2 a3) := by
  unfold State.bootImage
  repeat' (first
    | (with_reducible assumption) | (with_reducible exact id)
    | (with_reducible refine State.event_keeps (hw.of rfl) ?_ _ _) | (with_reducible refine Keeps.ite ?_ ?_)
    | rw [State.put_config] | (with_reducible refine Keeps.putConfig (hw.of rfl) ?_)
    | (with_reducible refine Keeps.foldl _ (fun _ _ _ => ?_) ?_) | intro _ | split | dsimp only)

theorem State.cartridgeCharged_keeps {ps : List Part} {s0 s : State} (hw : Within [.power] ps) (h : Keeps ps s0 s)  :
    Keeps ps s0 (State.cartridgeCharged s) := by
  unfold State.cartridgeCharged
  repeat' (first
    | (with_reducible assumption) | (with_reducible refine State.onPower_keeps (hw.of rfl) ?_ _)
    | (with_reducible refine Keeps.ite ?_ ?_) | (with_reducible refine Keeps.foldl _ (fun _ _ _ => ?_) ?_) | intro _
    | split | dsimp only)

theorem State.measureCartridge_keeps {ps : List Part} {s0 s : State} (hw : Within [.loop, .outs, .fcp, .power] ps) (h :
    Keeps ps s0 s) (a2 : Nat) (a3 : Nat) :
    Keeps ps s0 (State.measureCartridge s a2 a3) := by
  unfold State.measureCartridge
  repeat' (first
    | (with_reducible assumption) | (with_reducible refine State.onPower_keeps (hw.of rfl) ?_ _)
    | (with_reducible refine State.evaluate_keeps (hw.of rfl) ?_)
    | (with_reducible refine State.event_keeps (hw.of rfl) ?_ _ _) | (with_reducible refine Keeps.ite ?_ ?_)
    | (with_reducible refine Keeps.foldl _ (fun _ _ _ => ?_) ?_) | intro _ | split | dsimp only)

theorem State.cartridgeIn_keeps {ps : List Part} {s0 s : State} (hw : Within [.loop, .outs, .fcp, .power] ps) (h :
    Keeps ps s0 s) (a2 : List Byte) (a3 : Nat) (a4 : Nat) :
    Keeps ps s0 (State.cartridgeIn s a2 a3 a4) := by
  unfold State.cartridgeIn
  repeat' (first
    | (with_reducible assumption) | (with_reducible refine State.onPower_keeps (hw.of rfl) ?_ _)
    | (with_reducible refine State.powerEvent_keeps (hw.of rfl) ?_ _ _ _)
    | (with_reducible refine State.measureCartridge_keeps (hw.of rfl) ?_ _ _)
    | (with_reducible refine Keeps.ite ?_ ?_) | (with_reducible refine Keeps.foldl _ (fun _ _ _ => ?_) ?_) | intro _
    | split | dsimp only)

theorem State.cartridgeOut_keeps {ps : List Part} {s0 s : State} (hw : Within [.half, .doors, .encoders, .quince,
    .train, .loop, .lsw, .outs, .fcp, .log, .ring, .can, .power, .engines, .service, .config] ps) (h : Keeps ps s0 s)  :
    Keeps ps s0 (State.cartridgeOut s) := by
  unfold State.cartridgeOut
  repeat' (first
    | (with_reducible assumption) | (with_reducible refine State.powerLost_keeps (hw.of rfl) ?_)
    | (with_reducible refine State.onPower_keeps (hw.of rfl) ?_ _)
    | (with_reducible refine State.powerEvent_keeps (hw.of rfl) ?_ _ _ _) | (with_reducible refine Keeps.ite ?_ ?_)
    | (with_reducible refine Keeps.foldl _ (fun _ _ _ => ?_) ?_) | intro _ | split | dsimp only)

theorem State.closeAll_keeps {ps : List Part} {s0 s : State} (hw : Within [.fcp, .service, .config] ps) (h : Keeps ps
    s0 s) :
    Keeps ps s0 s.closeAll := by
  unfold State.closeAll
  dsimp only
  rw [State.put_fcp]
  refine Keeps.putFcp (hw.of rfl) (Keeps.foldl _ (fun _ _ ht => State.closeSession_keeps (hw.of rfl) ht _ _) h)
    (fun hb => Fcp.silenced_bounded hb)

theorem State.interruptDrive_keeps {ps : List Part} {s0 s : State} (hw : Within [.free, .doors, .quince, .loop, .outs,
    .fcp, .log, .service] ps) (h : Keeps ps s0 s) (a2 : DriveIx) (a3 : Interruption) :
    Keeps ps s0 (State.interruptDrive s a2 a3) := by
  unfold State.interruptDrive
  repeat' (first
    | (with_reducible assumption) | (with_reducible refine State.runDoor_keeps (hw.of rfl) ?_ _ _)
    | (with_reducible refine Keeps.ite ?_ ?_) | (with_reducible refine Keeps.foldl _ (fun _ _ _ => ?_) ?_) | intro _
    | split | dsimp only)

theorem State.interruptDrives_keeps {ps : List Part} {s0 s : State} (hw : Within [.free, .doors, .quince, .loop, .outs,
    .fcp, .log, .service] ps) (h : Keeps ps s0 s) (a2 : Interruption) :
    Keeps ps s0 (State.interruptDrives s a2) := by
  unfold State.interruptDrives
  repeat' (first
    | (with_reducible assumption) | (with_reducible refine State.interruptDrive_keeps (hw.of rfl) ?_ _ _)
    | (with_reducible refine Keeps.ite ?_ ?_) | (with_reducible refine Keeps.foldl _ (fun _ _ _ => ?_) ?_) | intro _
    | split | dsimp only)

theorem State.domainsOn_keeps {ps : List Part} {s0 s : State} (hw : Within [.free, .doors, .quince, .loop, .outs, .fcp,
    .log, .can, .power, .engines, .service, .config] ps) (h : Keeps ps s0 s) (a2 : Bool) :
    Keeps ps s0 (State.domainsOn s a2) := by
  unfold State.domainsOn
  repeat' (first
    | (with_reducible assumption) | (with_reducible exact id)
    | (with_reducible refine State.bootApp_keeps (hw.of rfl) ?_ _)
    | (with_reducible refine State.onPower_keeps (hw.of rfl) ?_ _)
    | (with_reducible refine State.tickAll_keeps (hw.of rfl) ?_) | (with_reducible refine Keeps.ite ?_ ?_)
    | rw [State.put_doors_loop_can_engines_config] | (with_reducible refine Keeps.putDoors (hw.of rfl) ?_)
    | (with_reducible refine Keeps.putLoop (hw.of rfl) ?_) | (with_reducible refine Keeps.putCan (hw.of rfl) ?_)
    | (with_reducible refine Keeps.putEngines (hw.of rfl) ?_ ?_)
    | (with_reducible refine Keeps.putConfig (hw.of rfl) ?_) | exact Engines.memOk_same (by assumption) rfl
    | exact App.mem_same (by assumption) rfl | exact App.mem_same (by assumption) (App.post_mem _ _ _)
    | (with_reducible apply Memory.writeMany_wf) | (with_reducible refine Keeps.foldl _ (fun _ _ _ => ?_) ?_)
    | intro _ | split | dsimp only)

theorem State.groupModes_keeps {ps : List Part} {s0 s : State} (hw : Within [.doors, .train] ps) (h : Keeps ps s0 s)
    (a2 : Nat) :
    Keeps ps s0 (State.groupModes s a2) := by
  unfold State.groupModes
  repeat' (first
    | (with_reducible assumption) | (with_reducible exact id) | (with_reducible refine Keeps.ite ?_ ?_)
    | rw [State.put_doors_train] | (with_reducible refine Keeps.putDoors (hw.of rfl) ?_)
    | (with_reducible refine Keeps.putTrain (hw.of rfl) ?_)
    | (with_reducible refine Keeps.foldl _ (fun _ _ _ => ?_) ?_) | intro _ | split | dsimp only)

theorem State.leaveRing_keeps {ps : List Part} {s0 s : State} (hw : Within [.ring] ps) (h : Keeps ps s0 s)  :
    Keeps ps s0 (State.leaveRing s) := by
  unfold State.leaveRing
  repeat' (first
    | (with_reducible assumption) | (with_reducible exact id) | (with_reducible refine Keeps.ite ?_ ?_)
    | rw [State.put_ring] | (with_reducible refine Keeps.putRing (hw.of rfl) ?_)
    | (with_reducible refine Keeps.foldl _ (fun _ _ _ => ?_) ?_) | intro _ | split | dsimp only)

theorem State.operationsEnd_keeps {ps : List Part} {s0 s : State} (hw : Within [.fcp] ps) (h : Keeps ps s0 s)  :
    Keeps ps s0 (State.operationsEnd s) := by
  unfold State.operationsEnd
  repeat' (first
    | (with_reducible assumption) | (with_reducible refine State.complete_keeps (hw.of rfl) ?_ _ _ _ _)
    | (with_reducible refine Keeps.ite ?_ ?_) | (with_reducible refine Keeps.foldl _ (fun _ _ _ => ?_) ?_) | intro _
    | split | dsimp only)

theorem State.entryCommits_keeps {ps : List Part} {s0 s : State} (hw : Within [.half, .doors, .encoders, .quince,
    .train, .loop, .lsw, .outs, .fcp, .log, .ring, .can, .power, .engines, .service, .config] ps) (h : Keeps ps s0 s)  :
    Keeps ps s0 (State.entryCommits s) := by
  unfold State.entryCommits
  repeat' (first
    | (with_reducible assumption) | (with_reducible exact id)
    | (with_reducible refine State.runOff_keeps (hw.of rfl) ?_ _)
    | (with_reducible refine State.groupModes_keeps (hw.of rfl) ?_ _)
    | (with_reducible refine State.closeAll_keeps (hw.of rfl) ?_)
    | (with_reducible refine State.complete_keeps (hw.of rfl) ?_ _ _ _ _)
    | (with_reducible refine State.entryChecks_keeps (hw.of rfl) ?_)
    | (with_reducible refine State.onPower_keeps (hw.of rfl) ?_ _)
    | (with_reducible refine State.evaluate_keeps (hw.of rfl) ?_)
    | (with_reducible refine State.fieldOff_keeps (hw.of rfl) ?_)
    | (with_reducible refine State.leaveRing_keeps (hw.of rfl) ?_)
    | (with_reducible refine State.operationsEnd_keeps (hw.of rfl) ?_) | (with_reducible refine Keeps.ite ?_ ?_)
    | rw [State.put_loop_lsw_outs_config] | (with_reducible refine Keeps.putLoop (hw.of rfl) ?_)
    | (with_reducible refine Keeps.putLsw (hw.of rfl) ?_) | (with_reducible refine Keeps.putOuts (hw.of rfl) ?_)
    | (with_reducible refine Keeps.putConfig (hw.of rfl) ?_)
    | (with_reducible refine Keeps.foldl _ (fun _ _ _ => ?_) ?_) | intro _ | split | dsimp only)

theorem State.entryFails_keeps {ps : List Part} {s0 s : State} (hw : Within [.fcp, .power] ps) (h : Keeps ps s0 s) (a2
    : Nat) :
    Keeps ps s0 (State.entryFails s a2) := by
  unfold State.entryFails
  repeat' (first
    | (with_reducible assumption) | (with_reducible refine State.entryEnds_keeps (hw.of rfl) ?_ _ _ _ _ _)
    | (with_reducible refine Keeps.ite ?_ ?_) | (with_reducible refine Keeps.dite (fun _ => ?_) (fun _ => ?_))
    | (with_reducible refine Keeps.foldl _ (fun _ _ _ => ?_) ?_) | intro _ | split | dsimp only)

theorem State.measureCell_keeps {ps : List Part} {s0 s : State} (hw : Within [.fcp, .power] ps) (h : Keeps ps s0 s)  :
    Keeps ps s0 (State.measureCell s) := by
  unfold State.measureCell
  repeat' (first
    | (with_reducible assumption) | (with_reducible refine State.onPower_keeps (hw.of rfl) ?_ _)
    | (with_reducible refine State.powerEvent_keeps (hw.of rfl) ?_ _ _ _) | (with_reducible refine Keeps.ite ?_ ?_)
    | (with_reducible refine Keeps.foldl _ (fun _ _ _ => ?_) ?_) | intro _ | split | dsimp only)

theorem State.stageOpenCycle_keeps {ps : List Part} {s0 s : State} (hw : Within [.doors, .fcp, .log] ps) (h : Keeps ps
    s0 s) (a2 : DoorIx) :
    Keeps ps s0 (State.stageOpenCycle s a2) := by
  unfold State.stageOpenCycle
  repeat' (first
    | (with_reducible assumption) | (with_reducible refine State.onDoor_keeps (hw.of rfl) ?_ _ _)
    | (with_reducible refine State.stage_keeps (hw.of rfl) ?_ _ _) | (with_reducible refine Keeps.ite ?_ ?_)
    | (with_reducible refine Keeps.foldl _ (fun _ _ _ => ?_) ?_) | intro _ | split | dsimp only)

theorem State.powerFail_keeps {ps : List Part} {s0 s : State} (hw : Within [.doors, .fcp, .log] ps) (h : Keeps ps s0 s)  :
    Keeps ps s0 (State.powerFail s) := by
  unfold State.powerFail
  repeat' (first
    | (with_reducible assumption) | (with_reducible exact id)
    | (with_reducible refine State.stageOpenCycle_keeps (hw.of rfl) ?_ _)
    | (with_reducible refine State.takeLog_keeps (hw.of rfl) ?_ _) | (with_reducible refine Keeps.ite ?_ ?_)
    | rw [State.put_log] | (with_reducible refine Keeps.putLog (hw.of rfl) ?_)
    | (with_reducible refine Keeps.foldl _ (fun _ _ _ => ?_) ?_) | intro _ | split | dsimp only)

theorem State.restart_keeps {ps : List Part} {s0 s : State} (hw : Within [.free, .doors, .quince, .loop, .outs, .fcp,
    .log, .can, .power, .engines, .service, .config] ps) (h : Keeps ps s0 s) (a2 : Bool) (a3 : Bool) (a4 : Bool) :
    Keeps ps s0 (State.restart s a2 a3 a4) := by
  unfold State.restart
  repeat' (first
    | (with_reducible assumption) | (with_reducible exact id)
    | (with_reducible refine State.bootFirmware_keeps (hw.of rfl) ?_)
    | (with_reducible refine State.evaluate_keeps (hw.of rfl) ?_)
    | (with_reducible refine State.domainsOn_keeps (hw.of rfl) ?_ _)
    | (with_reducible refine State.bootImage_keeps (hw.of rfl) ?_ _ _) | (with_reducible refine Keeps.ite ?_ ?_)
    | rw [State.put_loop] | (with_reducible refine Keeps.putLoop (hw.of rfl) ?_)
    | (with_reducible refine Keeps.foldl _ (fun _ _ _ => ?_) ?_) | intro _ | split | dsimp only)

theorem State.powersUp_keeps {ps : List Part} {s0 s : State} (hw : Within [.free, .now, .half, .doors, .encoders,
    .quince, .train, .loop, .lsw, .outs, .fcp, .log, .ring, .can, .power, .engines, .service, .config] ps) (h : Keeps
    ps s0 s) (a2 : Bool) (a3 : Bool) (a4 : Bool) :
    Keeps ps s0 (State.powersUp s a2 a3 a4) := by
  unfold State.powersUp
  repeat' (first
    | (with_reducible assumption) | (with_reducible exact id)
    | (with_reducible refine State.fresh_keeps (hw.of rfl) ?_)
    | (with_reducible refine State.restart_keeps (hw.of rfl) ?_ _ _ _)
    | (with_reducible refine State.powerLost_keeps (hw.of rfl) ?_)
    | (with_reducible refine State.onPower_keeps (hw.of rfl) ?_ _)
    | (with_reducible refine State.measureCell_keeps (hw.of rfl) ?_) | (with_reducible refine Keeps.ite ?_ ?_)
    | rw [State.put_now_ring] | (with_reducible refine Keeps.putNow (hw.of rfl) ?_)
    | (with_reducible refine Keeps.putRing (hw.of rfl) ?_)
    | (with_reducible refine Keeps.foldl _ (fun _ _ _ => ?_) ?_) | intro _ | split | dsimp only)

theorem State.precharged_keeps {ps : List Part} {s0 s : State} (hw : Within [.free, .doors, .quince, .loop, .outs,
    .fcp, .log, .power, .service] ps) (h : Keeps ps s0 s) :
    Keeps ps s0 (State.precharged s) := by
  unfold State.precharged
  repeat' (first
    | (with_reducible assumption)
    | (with_reducible exact id)
    | (with_reducible refine State.legTest_keeps (hw.of rfl) ?_ _)
    | (with_reducible refine State.onPower_keeps (hw.of rfl) ?_ _)
    | (with_reducible refine State.quinceStarts_keeps (hw.of rfl) ?_)
    | (with_reducible refine State.tickAll_keeps (hw.of rfl) ?_)
    | (with_reducible refine State.fresh_keeps (hw.of rfl) ?_)
    | (with_reducible refine Keeps.ite ?_ ?_)
    | (with_reducible refine Keeps.foldl _ (fun _ _ _ => ?_) ?_)
    | intro _
    | split
    | dsimp only)

theorem State.reserveReached_keeps {ps : List Part} {s0 s : State} (hw : Within [.free, .half, .doors, .encoders,
    .quince, .train, .loop, .lsw, .outs, .fcp, .log, .ring, .can, .power, .engines, .service, .config] ps) (h : Keeps
    ps s0 s)  :
    Keeps ps s0 (State.reserveReached s) := by
  unfold State.reserveReached
  repeat' (first
    | (with_reducible assumption) | (with_reducible exact id)
    | (with_reducible refine State.powerLost_keeps (hw.of rfl) ?_)
    | (with_reducible refine State.onPower_keeps (hw.of rfl) ?_ _)
    | (with_reducible refine State.interruptDrives_keeps (hw.of rfl) ?_ _)
    | (with_reducible refine State.powerEvent_keeps (hw.of rfl) ?_ _ _ _) | (with_reducible refine Keeps.ite ?_ ?_)
    | rw [State.put_quince_log] | (with_reducible refine Keeps.putQuince (hw.of rfl) ?_)
    | (with_reducible refine Keeps.putLog (hw.of rfl) ?_) | (with_reducible refine Keeps.foldl _ (fun _ _ _ => ?_) ?_)
    | intro _ | split | dsimp only)

theorem State.stableHoldupEnds_keeps {ps : List Part} {s0 s : State} (hw : Within [.half, .doors, .encoders, .quince,
    .train, .loop, .lsw, .outs, .fcp, .log, .ring, .can, .power, .engines, .service, .config] ps) (h : Keeps ps s0 s)  :
    Keeps ps s0 (State.stableHoldupEnds s) := by
  unfold State.stableHoldupEnds
  repeat' (first
    | (with_reducible assumption) | (with_reducible refine State.powerLost_keeps (hw.of rfl) ?_)
    | (with_reducible refine Keeps.ite ?_ ?_) | (with_reducible refine Keeps.foldl _ (fun _ _ _ => ?_) ?_) | intro _
    | split | dsimp only)

theorem State.stackEmpty_keeps {ps : List Part} {s0 s : State} (hw : Within [.half, .doors, .encoders, .quince, .train,
    .loop, .lsw, .outs, .fcp, .log, .ring, .can, .power, .engines, .service, .config] ps) (h : Keeps ps s0 s)  :
    Keeps ps s0 (State.stackEmpty s) := by
  unfold State.stackEmpty
  repeat' (first
    | (with_reducible assumption) | (with_reducible refine State.powerLost_keeps (hw.of rfl) ?_)
    | (with_reducible refine State.onPower_keeps (hw.of rfl) ?_ _) | (with_reducible refine Keeps.ite ?_ ?_)
    | (with_reducible refine Keeps.foldl _ (fun _ _ _ => ?_) ?_) | intro _ | split | dsimp only)

theorem State.supplyFails_keeps {ps : List Part} {s0 s : State} (hw : Within [.free, .half, .doors, .encoders, .quince,
    .train, .loop, .lsw, .outs, .fcp, .log, .ring, .can, .power, .engines, .service, .config] ps) (h : Keeps ps s0 s)  :
    Keeps ps s0 (State.supplyFails s) := by
  unfold State.supplyFails
  repeat' (first
    | (with_reducible assumption) | (with_reducible refine State.powerFail_keeps (hw.of rfl) ?_)
    | (with_reducible refine State.fresh_keeps (hw.of rfl) ?_)
    | (with_reducible refine State.powerLost_keeps (hw.of rfl) ?_)
    | (with_reducible refine State.onPower_keeps (hw.of rfl) ?_ _)
    | (with_reducible refine State.powerEvent_keeps (hw.of rfl) ?_ _ _ _) | (with_reducible refine Keeps.ite ?_ ?_)
    | (with_reducible refine Keeps.foldl _ (fun _ _ _ => ?_) ?_) | intro _ | split | dsimp only)

theorem State.supplyReturns_keeps {ps : List Part} {s0 s : State} (hw : Within [.free, .fcp, .power] ps) (h : Keeps ps
    s0 s)  :
    Keeps ps s0 (State.supplyReturns s) := by
  unfold State.supplyReturns
  repeat' (first
    | (with_reducible assumption) | (with_reducible refine State.fresh_keeps (hw.of rfl) ?_)
    | (with_reducible refine State.onPower_keeps (hw.of rfl) ?_ _)
    | (with_reducible refine State.wakeCause_keeps (hw.of rfl) ?_ _)
    | (with_reducible refine State.powerEvent_keeps (hw.of rfl) ?_ _ _ _) | (with_reducible refine Keeps.ite ?_ ?_)
    | (with_reducible refine Keeps.foldl _ (fun _ _ _ => ?_) ?_) | intro _ | split | dsimp only)

theorem State.takesWake_keeps {ps : List Part} {s0 s : State} (hw : Within [.power] ps) (h : Keeps ps s0 s)  :
    Keeps ps s0 (State.takesWake s) := by
  unfold State.takesWake
  repeat' (first
    | (with_reducible assumption) | (with_reducible refine State.onPower_keeps (hw.of rfl) ?_ _)
    | (with_reducible refine Keeps.ite ?_ ?_) | (with_reducible refine Keeps.foldl _ (fun _ _ _ => ?_) ?_) | intro _
    | split | dsimp only)

theorem State.wakesFromHibernate_keeps {ps : List Part} {s0 s : State} (hw : Within [.free, .doors, .quince, .loop,
    .outs, .fcp, .log, .can, .power, .engines, .service, .config] ps) (h : Keeps ps s0 s) (a2 : Bool) (a3 : Bool) :
    Keeps ps s0 (State.wakesFromHibernate s a2 a3) := by
  unfold State.wakesFromHibernate
  repeat' (first
    | (with_reducible assumption) | (with_reducible refine State.fresh_keeps (hw.of rfl) ?_)
    | (with_reducible refine State.restart_keeps (hw.of rfl) ?_ _ _ _)
    | (with_reducible refine State.takesWake_keeps (hw.of rfl) ?_) | (with_reducible refine Keeps.ite ?_ ?_)
    | (with_reducible refine Keeps.foldl _ (fun _ _ _ => ?_) ?_) | intro _ | split | dsimp only)

theorem State.wakesFromStable_keeps {ps : List Part} {s0 s : State} (hw : Within [.free, .doors, .quince, .train,
    .loop, .outs, .fcp, .log, .can, .power, .engines, .service, .config] ps) (h : Keeps ps s0 s)  :
    Keeps ps s0 (State.wakesFromStable s) := by
  unfold State.wakesFromStable
  repeat' (first
    | (with_reducible assumption) | (with_reducible exact id)
    | (with_reducible refine State.fresh_keeps (hw.of rfl) ?_)
    | (with_reducible refine State.takesWake_keeps (hw.of rfl) ?_)
    | (with_reducible refine State.evaluate_keeps (hw.of rfl) ?_)
    | (with_reducible refine State.domainsOn_keeps (hw.of rfl) ?_ _) | (with_reducible refine Keeps.ite ?_ ?_)
    | rw [State.put_doors_train_loop] | (with_reducible refine Keeps.putDoors (hw.of rfl) ?_)
    | (with_reducible refine Keeps.putTrain (hw.of rfl) ?_) | (with_reducible refine Keeps.putLoop (hw.of rfl) ?_)
    | (with_reducible refine Keeps.foldl _ (fun _ _ _ => ?_) ?_) | intro _ | split | dsimp only)

end Sys2Proof.Machine
end

