-- ==== Sys2Proof/Laws/KeepsObjectCmds.lean ====
section
/-!
SUPPORT. For every operation of Machine/ObjectCmds.lean: the parts of State it may change, and that it keeps the invariant.
-/

set_option linter.unusedVariables false
set_option linter.unusedSimpArgs false

namespace Sys2Proof.Machine

theorem Req.objRead_keeps {ps : List Part} (hw : Within [] ps) (a1 : List Byte) (a2 : Nat) (a3 : Nat) : ReqKeeps ps
    (Req.objRead a1 a2 a3) := by
  intro _ _ s0 s h
  unfold Req.objRead Req.plain
  dsimp only
  repeat' (first
    | (with_reducible assumption) | (with_reducible refine State.answers_keeps ?_ _)
    | (with_reducible refine ReplyKeeps.ite ?_ ?_) | (with_reducible refine Keeps.ite ?_ ?_)
    | (with_reducible refine Keeps.foldl _ (fun _ _ _ => ?_) ?_) | intro _ | split | dsimp only
    | (with_reducible refine ReplyKeeps.mk ?_ ?_) | rw [id])

theorem State.onGroup_keeps {ps : List Part} {s0 s : State} (hw : Within [.doors, .train] ps) (h : Keeps ps s0 s) (a2 :
    GroupIx) (a3 : (InGroup → InGroup)) :
    Keeps ps s0 (State.onGroup s a2 a3) := by
  unfold State.onGroup
  repeat' (first
    | (with_reducible assumption) | (with_reducible exact id)
    | (with_reducible refine State.onDoor_keeps (hw.of rfl) ?_ _ _) | (with_reducible refine Keeps.ite ?_ ?_)
    | (with_reducible refine Keeps.dite (fun _ => ?_) (fun _ => ?_)) | rw [State.put_train]
    | (with_reducible refine Keeps.putTrain (hw.of rfl) ?_)
    | (with_reducible refine Keeps.foldl _ (fun _ _ _ => ?_) ?_) | intro _ | split | dsimp only)

theorem State.discrepancyReset_keeps {ps : List Part} {s0 s : State} (hw : Within [.free, .doors, .quince, .loop,
    .outs, .fcp, .log, .service] ps) (h : Keeps ps s0 s)  :
    Keeps ps s0 (State.discrepancyReset s) := by
  unfold State.discrepancyReset
  repeat' (first
    | (with_reducible assumption) | (with_reducible exact id)
    | (with_reducible refine State.loopEvents_keeps (hw.of rfl) ?_ _)
    | (with_reducible refine State.supervise_keeps (hw.of rfl) ?_) | (with_reducible refine Keeps.ite ?_ ?_)
    | rw [State.put_loop] | (with_reducible refine Keeps.putLoop (hw.of rfl) ?_)
    | (with_reducible refine Keeps.foldl _ (fun _ _ _ => ?_) ?_) | intro _ | split | dsimp only)

theorem State.writeObj_keeps {ps : List Part} {s0 s : State} (hw : Within [.free, .doors, .quince, .train, .loop, .lsw,
    .outs, .fcp, .log, .ring, .can, .power, .service, .config] ps) (h : Keeps ps s0 s) (a2 : Nat) (a3 : Nat) (a4 : List
    Byte) :
    Keeps ps s0 (State.writeObj s a2 a3 a4) := by
  unfold State.writeObj
  repeat' (first
    | (with_reducible assumption) | (with_reducible exact id)
    | (with_reducible refine State.onDoor_keeps (hw.of rfl) ?_ _ _)
    | (with_reducible refine State.onSession_keeps (hw.of rfl) ?_ ?_)
    | (with_reducible refine State.onGroup_keeps (hw.of rfl) ?_ _ _)
    | (with_reducible refine State.discrepancyReset_keeps (hw.of rfl) ?_) | (with_reducible refine Keeps.ite ?_ ?_)
    | (with_reducible refine Keeps.dite (fun _ => ?_) (fun _ => ?_))
    | rw [State.put_lsw_outs_log_ring_can_power_service_config] | (with_reducible refine Keeps.putLsw (hw.of rfl) ?_)
    | (with_reducible refine Keeps.putOuts (hw.of rfl) ?_) | (with_reducible refine Keeps.putLog (hw.of rfl) ?_)
    | (with_reducible refine Keeps.putRing (hw.of rfl) ?_) | (with_reducible refine Keeps.putCan (hw.of rfl) ?_)
    | (with_reducible refine Keeps.putPower (hw.of rfl) ?_) | (with_reducible refine Keeps.putService (hw.of rfl) ?_)
    | (with_reducible refine Keeps.putConfig (hw.of rfl) ?_)
    | (with_reducible refine Keeps.foldl _ (fun _ _ _ => ?_) ?_) | intro _ | split | dsimp only
    | exact Session.bounded_of (by assumption) rfl rfl rfl | (with_reducible exact Fcp.reset_bounded)
    | (with_reducible refine Fcp.cleared_bounded ?_) | (with_reducible refine Fcp.bounded_rest ?_))

theorem State.objWrite_keeps {ps : List Part} {s0 s : State} (hw : Within [.free, .doors, .quince, .train, .loop, .lsw,
    .outs, .fcp, .log, .ring, .can, .power, .service, .config] ps) (h : Keeps ps s0 s) (a2 : Hdr) (a3 : SessIx) (a4 :
    Nat) (a5 : Nat) (a6 : List Byte) :
    ReplyKeeps ps s0 (State.objWrite s a2 a3 a4 a5 a6) := by
  unfold State.objWrite
  repeat' (first
    | (with_reducible assumption) | (with_reducible refine State.answers_keeps ?_ _)
    | (with_reducible refine State.closeSession_keeps (hw.of rfl) ?_ _ _)
    | (with_reducible refine State.own_keeps (hw.of rfl) ?_ _ _ _)
    | (with_reducible refine State.writeObj_keeps (hw.of rfl) ?_ _ _ _) | (with_reducible refine ReplyKeeps.ite ?_ ?_)
    | (with_reducible refine Keeps.ite ?_ ?_) | (with_reducible refine Keeps.foldl _ (fun _ _ _ => ?_) ?_) | intro _
    | split | dsimp only | (with_reducible refine ReplyKeeps.mk ?_ ?_) | rw [id])

theorem Req.objWrite_keeps {ps : List Part} (hw : Within [.free, .doors, .quince, .train, .loop, .lsw, .outs, .fcp,
    .log, .ring, .can, .power, .service, .config] ps) (a1 : List Byte) (a2 : Nat) (a3 : Nat) (a4 : List Byte) :
    ReqKeeps ps (Req.objWrite a1 a2 a3 a4) := by
  intro _ _ s0 s h
  unfold Req.objWrite Req.plain
  dsimp only
  repeat' (first
    | (with_reducible assumption) | (with_reducible refine State.objWrite_keeps (hw.of rfl) ?_ _ _ _ _ _)
    | (with_reducible refine ReplyKeeps.ite ?_ ?_) | (with_reducible refine Keeps.ite ?_ ?_)
    | (with_reducible refine Keeps.foldl _ (fun _ _ _ => ?_) ?_) | intro _ | split | dsimp only
    | (with_reducible refine ReplyKeeps.mk ?_ ?_) | rw [id])

end Sys2Proof.Machine
end

