-- ==== Sys2Proof/Laws/KeepsFieldCmds.lean ====
section
/-!
SUPPORT. For every operation of Machine/FieldCmds.lean: the parts of State it may change, and that it keeps the invariant.
-/

set_option linter.unusedVariables false
set_option linter.unusedSimpArgs false

namespace Sys2Proof.Machine

theorem State.groupEvent_keeps {ps : List Part} {s0 s : State} (hw : Within [.fcp] ps) (h : Keeps ps s0 s) (a2 :
    GroupIx) (a3 : Nat) :
    Keeps ps s0 (State.groupEvent s a2 a3) := by
  unfold State.groupEvent
  repeat' (first
    | (with_reducible assumption) | (with_reducible refine State.event_keeps (hw.of rfl) ?_ _ _)
    | (with_reducible refine Keeps.ite ?_ ?_) | (with_reducible refine Keeps.foldl _ (fun _ _ _ => ?_) ?_) | intro _
    | split | dsimp only)

theorem State.bypassCheck_keeps {ps : List Part} {s0 s : State} (hw : Within [.doors, .loop, .fcp, .log] ps) (h : Keeps
    ps s0 s)  :
    Keeps ps s0 (State.bypassCheck s) := by
  unfold State.bypassCheck
  repeat' (first
    | (with_reducible assumption) | (with_reducible exact id)
    | (with_reducible refine State.loopEvents_keeps (hw.of rfl) ?_ _)
    | (with_reducible refine State.incident_keeps (hw.of rfl) ?_ _ _ _ _ _ _)
    | (with_reducible refine Keeps.ite ?_ ?_) | rw [State.put_loop]
    | (with_reducible refine Keeps.putLoop (hw.of rfl) ?_)
    | (with_reducible refine Keeps.foldl _ (fun _ _ _ => ?_) ?_) | intro _ | split | dsimp only)

theorem State.onTrain_keeps {ps : List Part} {s0 s : State} (hw : Within [.free, .doors, .quince, .train, .loop, .outs,
    .fcp, .log, .service] ps) (h : Keeps ps s0 s) (a2 : (InGroup → InGroup)) :
    Keeps ps s0 (State.onTrain s a2) := by
  unfold State.onTrain
  repeat' (first
    | (with_reducible assumption) | (with_reducible exact id)
    | (with_reducible refine State.bypassRow_keeps (hw.of rfl) ?_)
    | (with_reducible refine State.supervise_keeps (hw.of rfl) ?_)
    | (with_reducible refine State.bypassCheck_keeps (hw.of rfl) ?_) | (with_reducible refine Keeps.ite ?_ ?_)
    | rw [State.put_train_loop] | (with_reducible refine Keeps.putTrain (hw.of rfl) ?_)
    | (with_reducible refine Keeps.putLoop (hw.of rfl) ?_)
    | (with_reducible refine Keeps.foldl _ (fun _ _ _ => ?_) ?_) | intro _ | split | dsimp only)

theorem State.runGroup_keeps {ps : List Part} {s0 s : State} (hw : Within [.free, .doors, .quince, .train, .loop,
    .outs, .fcp, .log, .service] ps) (h : Keeps ps s0 s) (a2 : GroupIx) (a3 : (InGroup → InGroup)) :
    Keeps ps s0 (State.runGroup s a2 a3) := by
  unfold State.runGroup
  repeat' (first
    | (with_reducible assumption) | (with_reducible refine State.onDoor_keeps (hw.of rfl) ?_ _ _)
    | (with_reducible refine State.egressRows_keeps (hw.of rfl) ?_ _)
    | (with_reducible refine State.onTrain_keeps (hw.of rfl) ?_ _)
    | (with_reducible refine State.runDoor_keeps (hw.of rfl) ?_ _ _)
    | (with_reducible refine State.evaluate_keeps (hw.of rfl) ?_) | (with_reducible refine Keeps.ite ?_ ?_)
    | (with_reducible refine Keeps.dite (fun _ => ?_) (fun _ => ?_))
    | (with_reducible refine Keeps.foldl _ (fun _ _ _ => ?_) ?_) | intro _ | split | dsimp only)

theorem State.groupValid_keeps {ps : List Part} {s0 s : State} (hw : Within [.free, .doors, .quince, .train, .loop,
    .outs, .fcp, .log, .service] ps) (h : Keeps ps s0 s) (a2 : GroupIx) :
    Keeps ps s0 (State.groupValid s a2) := by
  unfold State.groupValid
  repeat' (first
    | (with_reducible assumption) | (with_reducible refine State.onGroup_keeps (hw.of rfl) ?_ _ _)
    | (with_reducible refine State.groupEvent_keeps (hw.of rfl) ?_ _ _)
    | (with_reducible refine State.runGroup_keeps (hw.of rfl) ?_ _ _) | (with_reducible refine Keeps.ite ?_ ?_)
    | (with_reducible refine Keeps.foldl _ (fun _ _ _ => ?_) ?_) | intro _ | split | dsimp only)

theorem State.trainInput_keeps {ps : List Part} {s0 s : State} (hw : Within [.free, .doors, .quince, .train, .loop,
    .outs, .fcp, .log, .service] ps) (h : Keeps ps s0 s) (a2 : Nat) (a3 : Bool) :
    Keeps ps s0 (State.trainInput s a2 a3) := by
  unfold State.trainInput
  repeat' (first
    | (with_reducible assumption) | (with_reducible refine State.onTrain_keeps (hw.of rfl) ?_ _)
    | (with_reducible refine Keeps.ite ?_ ?_) | (with_reducible refine Keeps.foldl _ (fun _ _ _ => ?_) ?_) | intro _
    | split | dsimp only)

theorem State.bypassInput_keeps {ps : List Part} {s0 s : State} (hw : Within [.free, .doors, .quince, .train, .loop,
    .outs, .fcp, .log, .service] ps) (h : Keeps ps s0 s) (a2 : Bool) :
    Keeps ps s0 (State.bypassInput s a2) := by
  unfold State.bypassInput
  repeat' (first
    | (with_reducible assumption) | (with_reducible exact id)
    | (with_reducible refine State.trainInput_keeps (hw.of rfl) ?_ _ _) | (with_reducible refine Keeps.ite ?_ ?_)
    | rw [State.put_loop] | (with_reducible refine Keeps.putLoop (hw.of rfl) ?_)
    | (with_reducible refine Keeps.foldl _ (fun _ _ _ => ?_) ?_) | intro _ | split | dsimp only)

theorem State.disagrees_keeps {ps : List Part} {s0 s : State} (hw : Within [.free, .doors, .quince, .loop, .outs, .fcp,
    .log, .service] ps) (h : Keeps ps s0 s) (a2 : LoopPair) :
    Keeps ps s0 (State.disagrees s a2) := by
  unfold State.disagrees
  repeat' (first
    | (with_reducible assumption) | (with_reducible exact id)
    | (with_reducible refine State.loopEvents_keeps (hw.of rfl) ?_ _)
    | (with_reducible refine State.supervise_keeps (hw.of rfl) ?_)
    | (with_reducible refine State.incident_keeps (hw.of rfl) ?_ _ _ _ _ _ _)
    | (with_reducible refine Keeps.ite ?_ ?_) | rw [State.put_loop]
    | (with_reducible refine Keeps.putLoop (hw.of rfl) ?_)
    | (with_reducible refine Keeps.foldl _ (fun _ _ _ => ?_) ?_) | intro _ | split | dsimp only)

theorem State.keeperSees_keeps {ps : List Part} {s0 s : State} (hw : Within [.loop] ps) (h : Keeps ps s0 s) (a2 :
    DoorIx) :
    Keeps ps s0 (State.keeperSees s a2) := by
  unfold State.keeperSees
  repeat' (first
    | (with_reducible assumption) | (with_reducible exact id) | (with_reducible refine Keeps.ite ?_ ?_)
    | rw [State.put_loop] | (with_reducible refine Keeps.putLoop (hw.of rfl) ?_)
    | (with_reducible refine Keeps.foldl _ (fun _ _ _ => ?_) ?_) | intro _ | split | dsimp only)

theorem State.quietInput_keeps {ps : List Part} {s0 s : State} (hw : Within [.doors] ps) (h : Keeps ps s0 s) (a2 :
    DoorIx) (a3 : DoorEnv → Work → Work) :
    Keeps ps s0 (State.quietInput s a2 a3) := by
  unfold State.quietInput
  repeat' (first
    | (with_reducible assumption)
    | (with_reducible exact id)
    | (with_reducible refine State.onDoor_keeps (hw.of rfl) ?_ _ _)
    | (with_reducible refine Keeps.ite ?_ ?_)
    | (with_reducible refine Keeps.foldl _ (fun _ _ _ => ?_) ?_)
    | intro _
    | split
    | dsimp only)

theorem State.doorInput_keeps {ps : List Part} {s0 s : State} (hw : Within [.free, .doors, .quince, .loop, .outs,
    .fcp, .log, .service] ps) (h : Keeps ps s0 s) (a2 : DoorIx) (a3 : DoorEnv → Work → Work) :
    Keeps ps s0 (State.doorInput s a2 a3) := by
  unfold State.doorInput
  repeat' (first
    | (with_reducible assumption)
    | (with_reducible exact id)
    | (with_reducible refine State.runDoor_keeps (hw.of rfl) ?_ _ _)
    | (with_reducible refine State.quietInput_keeps (hw.of rfl) ?_ _ _)
    | (with_reducible refine State.keeperSees_keeps (hw.of rfl) ?_ _)
    | (with_reducible refine State.egressRows_keeps (hw.of rfl) ?_ _)
    | (with_reducible refine State.evaluate_keeps (hw.of rfl) ?_)
    | (with_reducible refine Keeps.ite ?_ ?_)
    | (with_reducible refine Keeps.foldl _ (fun _ _ _ => ?_) ?_)
    | intro _
    | split
    | dsimp only)

theorem State.onFront_keeps {ps : List Part} {s0 s : State} (hw : Within [.doors, .train] ps) (h : Keeps ps s0 s) (a2 :
    GroupIx) (a3 : (FrontEnd → FrontEnd)) :
    Keeps ps s0 (State.onFront s a2 a3) := by
  unfold State.onFront
  repeat' (first
    | (with_reducible assumption) | (with_reducible refine State.onGroup_keeps (hw.of rfl) ?_ _ _)
    | (with_reducible refine Keeps.ite ?_ ?_) | (with_reducible refine Keeps.foldl _ (fun _ _ _ => ?_) ?_) | intro _
    | split | dsimp only)

theorem State.downlink_keeps {ps : List Part} {s0 s : State} (hw : Within [.doors, .train, .outs, .fcp] ps) (h : Keeps
    ps s0 s) (a2 : GroupIx) (a3 : Nat) (a4 : Nat) (a5 : Bool) (a6 : Nat) :
    Keeps ps s0 (State.downlink s a2 a3 a4 a5 a6) := by
  unfold State.downlink
  repeat' (first
    | (with_reducible assumption) | (with_reducible exact id)
    | (with_reducible refine State.events_keeps (hw.of rfl) ?_ _)
    | (with_reducible refine State.onFront_keeps (hw.of rfl) ?_ _ _) | (with_reducible refine Keeps.ite ?_ ?_)
    | rw [State.put_outs] | (with_reducible refine Keeps.putOuts (hw.of rfl) ?_)
    | (with_reducible refine Keeps.foldl _ (fun _ _ _ => ?_) ?_) | intro _ | split | dsimp only)

theorem State.takeOuts_keeps {ps : List Part} {s0 s : State} (hw : Within [.free, .loop, .outs, .fcp] ps) (h : Keeps ps
    s0 s) (a2 : (OutEnv → FieldOutputs → FieldOutputs × Events)) :
    Keeps ps s0 (State.takeOuts s a2) := by
  unfold State.takeOuts
  repeat' (first
    | (with_reducible assumption) | (with_reducible exact id)
    | (with_reducible refine State.fresh_keeps (hw.of rfl) ?_)
    | (with_reducible refine State.evaluate_keeps (hw.of rfl) ?_)
    | (with_reducible refine State.events_keeps (hw.of rfl) ?_ _) | (with_reducible refine Keeps.ite ?_ ?_)
    | rw [State.put_outs] | (with_reducible refine Keeps.putOuts (hw.of rfl) ?_)
    | (with_reducible refine Keeps.foldl _ (fun _ _ _ => ?_) ?_) | intro _ | split | dsimp only)

theorem State.downlinkLost_keeps {ps : List Part} {s0 s : State} (hw : Within [.free, .doors, .train, .loop, .outs,
    .fcp] ps) (h : Keeps ps s0 s)  :
    Keeps ps s0 (State.downlinkLost s) := by
  unfold State.downlinkLost
  repeat' (first
    | (with_reducible assumption) | (with_reducible refine State.takeOuts_keeps (hw.of rfl) ?_ _)
    | (with_reducible refine State.onFront_keeps (hw.of rfl) ?_ _ _) | (with_reducible refine Keeps.ite ?_ ?_)
    | (with_reducible refine Keeps.foldl _ (fun _ _ _ => ?_) ?_) | intro _ | split | dsimp only)

theorem State.filterFrame_keeps {ps : List Part} {s0 s : State} (hw : Within [.free, .doors, .quince, .train, .loop,
    .outs, .fcp, .log, .service] ps) (h : Keeps ps s0 s) (a2 : GroupIx) (a3 : BitVec 16) :
    Keeps ps s0 (State.filterFrame s a2 a3) := by
  unfold State.filterFrame
  repeat' (first
    | (with_reducible assumption)
    | (with_reducible exact id)
    | (with_reducible refine State.onGroup_keeps (hw.of rfl) ?_ _ _)
    | (with_reducible refine State.runDoor_keeps (hw.of rfl) ?_ _ _)
    | (with_reducible refine State.quietInput_keeps (hw.of rfl) ?_ _ _)
    | (with_reducible refine State.onTrain_keeps (hw.of rfl) ?_ _)
    | (with_reducible refine Keeps.ite ?_ ?_)
    | (with_reducible refine Keeps.foldl _ (fun _ _ _ => ?_) ?_)
    | (with_reducible refine Keeps.dite (fun _ => ?_) (fun _ => ?_))
    | intro _
    | split
    | dsimp only)

theorem State.groupFault_keeps {ps : List Part} {s0 s : State} (hw : Within [.free, .doors, .quince, .train, .loop,
    .outs, .fcp, .log, .service] ps) (h : Keeps ps s0 s) (a2 : GroupIx) (a3 : Bool) :
    Keeps ps s0 (State.groupFault s a2 a3) := by
  unfold State.groupFault
  repeat' (first
    | (with_reducible assumption) | (with_reducible refine State.onGroup_keeps (hw.of rfl) ?_ _ _)
    | (with_reducible refine State.groupEvent_keeps (hw.of rfl) ?_ _ _)
    | (with_reducible refine State.runGroup_keeps (hw.of rfl) ?_ _ _) | (with_reducible refine Keeps.ite ?_ ?_)
    | (with_reducible refine Keeps.foldl _ (fun _ _ _ => ?_) ?_) | intro _ | split | dsimp only)

theorem State.groupInvalid_keeps {ps : List Part} {s0 s : State} (hw : Within [.free, .doors, .quince, .train, .loop,
    .outs, .fcp, .log, .service] ps) (h : Keeps ps s0 s) (a2 : GroupIx) :
    Keeps ps s0 (State.groupInvalid s a2) := by
  unfold State.groupInvalid
  repeat' (first
    | (with_reducible assumption) | (with_reducible refine State.invalidRow_keeps (hw.of rfl) ?_ _)
    | (with_reducible refine State.onGroup_keeps (hw.of rfl) ?_ _ _)
    | (with_reducible refine State.groupEvent_keeps (hw.of rfl) ?_ _ _)
    | (with_reducible refine State.runGroup_keeps (hw.of rfl) ?_ _ _) | (with_reducible refine Keeps.ite ?_ ?_)
    | (with_reducible refine Keeps.dite (fun _ => ?_) (fun _ => ?_))
    | (with_reducible refine Keeps.foldl _ (fun _ _ _ => ?_) ?_) | intro _ | split | dsimp only)

theorem State.keeperFrame_keeps {ps : List Part} {s0 s : State} (hw : Within [.loop] ps) (h : Keeps ps s0 s) (a2 :
    GroupIx) (a3 : Option (BitVec 16)) :
    Keeps ps s0 (State.keeperFrame s a2 a3) := by
  unfold State.keeperFrame
  repeat' (first
    | (with_reducible assumption) | (with_reducible exact id) | (with_reducible refine Keeps.ite ?_ ?_)
    | (with_reducible refine Keeps.dite (fun _ => ?_) (fun _ => ?_)) | rw [State.put_loop]
    | (with_reducible refine Keeps.putLoop (hw.of rfl) ?_)
    | (with_reducible refine Keeps.foldl _ (fun _ _ _ => ?_) ?_) | intro _ | split | dsimp only)

theorem State.keeperSettles_keeps {ps : List Part} {s0 s : State} (hw : Within [.loop, .outs, .fcp] ps) (h : Keeps ps
    s0 s) (a2 : DoorIx) :
    Keeps ps s0 (State.keeperSettles s a2) := by
  unfold State.keeperSettles
  repeat' (first
    | (with_reducible assumption) | (with_reducible exact id)
    | (with_reducible refine State.evaluate_keeps (hw.of rfl) ?_) | (with_reducible refine Keeps.ite ?_ ?_)
    | rw [State.put_loop] | (with_reducible refine Keeps.putLoop (hw.of rfl) ?_)
    | (with_reducible refine Keeps.foldl _ (fun _ _ _ => ?_) ?_) | intro _ | split | dsimp only)

theorem State.keeperTimesOut_keeps {ps : List Part} {s0 s : State} (hw : Within [.loop, .outs, .fcp] ps) (h : Keeps ps
    s0 s)  :
    Keeps ps s0 (State.keeperTimesOut s) := by
  unfold State.keeperTimesOut
  repeat' (first
    | (with_reducible assumption) | (with_reducible exact id)
    | (with_reducible refine State.evaluate_keeps (hw.of rfl) ?_) | (with_reducible refine Keeps.ite ?_ ?_)
    | rw [State.put_loop] | (with_reducible refine Keeps.putLoop (hw.of rfl) ?_)
    | (with_reducible refine Keeps.foldl _ (fun _ _ _ => ?_) ?_) | intro _ | split | dsimp only)

theorem State.readsBack_keeps {ps : List Part} {s0 s : State} (hw : Within [.free, .doors, .quince, .loop, .outs, .fcp,
    .log, .service] ps) (h : Keeps ps s0 s)  :
    Keeps ps s0 (State.readsBack s) := by
  unfold State.readsBack
  repeat' (first
    | (with_reducible assumption) | (with_reducible exact id)
    | (with_reducible refine State.loopEvents_keeps (hw.of rfl) ?_ _)
    | (with_reducible refine State.supervise_keeps (hw.of rfl) ?_)
    | (with_reducible refine State.incident_keeps (hw.of rfl) ?_ _ _ _ _ _ _)
    | (with_reducible refine Keeps.ite ?_ ?_) | rw [State.put_loop]
    | (with_reducible refine Keeps.putLoop (hw.of rfl) ?_)
    | (with_reducible refine Keeps.foldl _ (fun _ _ _ => ?_) ?_) | intro _ | split | dsimp only)

theorem State.sampleInput_keeps {ps : List Part} {s0 s : State} (hw : Within [.doors, .train] ps) (h : Keeps ps s0 s)
    (a2 : GroupIx) (a3 : Nat) (a4 : Nat) (a5 : Nat) :
    Keeps ps s0 (State.sampleInput s a2 a3 a4 a5) := by
  unfold State.sampleInput
  repeat' (first
    | (with_reducible assumption) | (with_reducible refine State.onGroup_keeps (hw.of rfl) ?_ _ _)
    | (with_reducible refine Keeps.ite ?_ ?_) | (with_reducible refine Keeps.foldl _ (fun _ _ _ => ?_) ?_) | intro _
    | split | dsimp only)

theorem State.takeLoop_keeps {ps : List Part} {s0 s : State} (hw : Within [.free, .doors, .quince, .loop, .outs, .fcp,
    .log, .service] ps) (h : Keeps ps s0 s) (a2 : (Loop → LoopEnv → Loop × List Nat)) :
    Keeps ps s0 (State.takeLoop s a2) := by
  unfold State.takeLoop
  repeat' (first
    | (with_reducible assumption) | (with_reducible exact id)
    | (with_reducible refine State.loopEvents_keeps (hw.of rfl) ?_ _)
    | (with_reducible refine State.supervise_keeps (hw.of rfl) ?_) | (with_reducible refine Keeps.ite ?_ ?_)
    | rw [State.put_loop] | (with_reducible refine Keeps.putLoop (hw.of rfl) ?_)
    | (with_reducible refine Keeps.foldl _ (fun _ _ _ => ?_) ?_) | intro _ | split | dsimp only)

theorem State.takeLsw_keeps {ps : List Part} {s0 s : State} (hw : Within [.free, .loop, .lsw, .outs, .fcp] ps) (h :
    Keeps ps s0 s) (a2 : (LswEnv → LoadSwitches → LoadSwitches × Events)) :
    Keeps ps s0 (State.takeLsw s a2) := by
  unfold State.takeLsw
  repeat' (first
    | (with_reducible assumption) | (with_reducible exact id)
    | (with_reducible refine State.fresh_keeps (hw.of rfl) ?_)
    | (with_reducible refine State.evaluate_keeps (hw.of rfl) ?_)
    | (with_reducible refine State.events_keeps (hw.of rfl) ?_ _) | (with_reducible refine Keeps.ite ?_ ?_)
    | rw [State.put_lsw] | (with_reducible refine Keeps.putLsw (hw.of rfl) ?_)
    | (with_reducible refine Keeps.foldl _ (fun _ _ _ => ?_) ?_) | intro _ | split | dsimp only)

theorem State.uplink_keeps {ps : List Part} {s0 s : State} (hw : Within [.free, .doors, .quince, .train, .loop, .outs,
    .fcp, .log, .service] ps) (h : Keeps ps s0 s) (a2 : GroupIx) (a3 : Nat) (a4 : Nat) (a5 : Bool) (a6 : BitVec 16) (a7
    : Nat) :
    Keeps ps s0 (State.uplink s a2 a3 a4 a5 a6 a7) := by
  unfold State.uplink
  repeat' (first
    | (with_reducible assumption) | (with_reducible refine State.egressRows_keeps (hw.of rfl) ?_ _)
    | (with_reducible refine State.bypassRow_keeps (hw.of rfl) ?_)
    | (with_reducible refine State.groupFault_keeps (hw.of rfl) ?_ _ _)
    | (with_reducible refine State.onGroup_keeps (hw.of rfl) ?_ _ _)
    | (with_reducible refine State.evaluate_keeps (hw.of rfl) ?_)
    | (with_reducible refine State.filterFrame_keeps (hw.of rfl) ?_ _ _)
    | (with_reducible refine State.groupValid_keeps (hw.of rfl) ?_ _)
    | (with_reducible refine State.keeperFrame_keeps (hw.of rfl) ?_ _ _) | (with_reducible refine Keeps.ite ?_ ?_)
    | (with_reducible refine Keeps.dite (fun _ => ?_) (fun _ => ?_))
    | (with_reducible refine Keeps.foldl _ (fun _ _ _ => ?_) ?_) | intro _ | split | dsimp only)

theorem State.uplinkMissed_keeps {ps : List Part} {s0 s : State} (hw : Within [.doors, .train, .loop, .outs, .fcp] ps)
    (h : Keeps ps s0 s) (a2 : GroupIx) :
    Keeps ps s0 (State.uplinkMissed s a2) := by
  unfold State.uplinkMissed
  repeat' (first
    | (with_reducible assumption) | (with_reducible refine State.onGroup_keeps (hw.of rfl) ?_ _ _)
    | (with_reducible refine State.evaluate_keeps (hw.of rfl) ?_)
    | (with_reducible refine State.keeperFrame_keeps (hw.of rfl) ?_ _ _) | (with_reducible refine Keeps.ite ?_ ?_)
    | (with_reducible refine Keeps.foldl _ (fun _ _ _ => ?_) ?_) | intro _ | split | dsimp only)

end Sys2Proof.Machine
end

