-- ==== Sys2Proof/Laws/KeepsDriveCmds.lean ====
section
/-!
SUPPORT. For every operation of Machine/DriveCmds.lean: the parts of State it may change, and that it keeps the invariant.
-/

set_option linter.unusedVariables false
set_option linter.unusedSimpArgs false

namespace Sys2Proof.Machine

theorem State.atDoor_keeps {ps : List Part} {s0 s : State} (hw : Within [.free, .doors, .quince, .loop, .outs, .fcp,
    .log, .service] ps) (h : Keeps ps s0 s) (a2 : DoorIx) (a3 : (DoorEnv → Work → Work)) :
    Keeps ps s0 (State.atDoor s a2 a3) := by
  unfold State.atDoor
  repeat' (first
    | (with_reducible assumption) | (with_reducible refine State.runDoor_keeps (hw.of rfl) ?_ _ _)
    | (with_reducible refine Keeps.ite ?_ ?_) | (with_reducible refine Keeps.foldl _ (fun _ _ _ => ?_) ?_) | intro _
    | split | dsimp only)

theorem State.atDrive_keeps {ps : List Part} {s0 s : State} (hw : Within [.free, .doors, .quince, .loop, .outs, .fcp,
    .log, .service] ps) (h : Keeps ps s0 s) (a2 : DriveIx) (a3 : (DoorEnv → Work → Work)) :
    Keeps ps s0 (State.atDrive s a2 a3) := by
  unfold State.atDrive
  repeat' (first
    | (with_reducible assumption) | (with_reducible refine State.runDoor_keeps (hw.of rfl) ?_ _ _)
    | (with_reducible refine Keeps.ite ?_ ?_) | (with_reducible refine Keeps.foldl _ (fun _ _ _ => ?_) ?_) | intro _
    | split | dsimp only)

theorem State.atStep_keeps {ps : List Part} {s0 s : State} (hw : Within [.free, .doors, .quince, .loop, .outs, .fcp,
    .log, .service] ps) (h : Keeps ps s0 s) (a2 : DoorIx) (a3 : (DoorEnv → Work → Work)) :
    Keeps ps s0 (State.atStep s a2 a3) := by
  unfold State.atStep
  repeat' (first
    | (with_reducible assumption) | (with_reducible refine State.runDoor_keeps (hw.of rfl) ?_ _ _)
    | (with_reducible refine Keeps.ite ?_ ?_) | (with_reducible refine Keeps.foldl _ (fun _ _ _ => ?_) ?_) | intro _
    | split | dsimp only)

theorem State.clockFails_keeps {ps : List Part} {s0 s : State} (hw : Within [.free, .doors, .quince, .loop, .outs,
    .fcp, .log, .service] ps) (h : Keeps ps s0 s)  :
    Keeps ps s0 (State.clockFails s) := by
  unfold State.clockFails
  repeat' (first
    | (with_reducible assumption) | (with_reducible exact id)
    | (with_reducible refine State.runDoor_keeps (hw.of rfl) ?_ _ _)
    | (with_reducible refine State.incident_keeps (hw.of rfl) ?_ _ _ _ _ _ _)
    | (with_reducible refine Keeps.ite ?_ ?_) | rw [State.put_quince]
    | (with_reducible refine Keeps.putQuince (hw.of rfl) ?_)
    | (with_reducible refine Keeps.foldl _ (fun _ _ _ => ?_) ?_) | intro _ | split | dsimp only)

theorem State.closureTrips_keeps {ps : List Part} {s0 s : State} (hw : Within [.free, .doors, .quince, .fcp, .log] ps)
    (h : Keeps ps s0 s) (a2 : DoorIx) (a3 : FinalClosure) :
    Keeps ps s0 (State.closureTrips s a2 a3) := by
  unfold State.closureTrips
  repeat' (first
    | (with_reducible assumption) | (with_reducible refine State.onDoor_keeps (hw.of rfl) ?_ _ _)
    | (with_reducible refine State.fresh_keeps (hw.of rfl) ?_)
    | (with_reducible refine State.latchRow_keeps (hw.of rfl) ?_ _ _ _) | (with_reducible refine Keeps.ite ?_ ?_)
    | (with_reducible refine Keeps.foldl _ (fun _ _ _ => ?_) ?_) | intro _ | split | dsimp only)

theorem State.dcLinkOut_keeps {ps : List Part} {s0 s : State} (hw : Within [.free, .doors, .quince, .loop, .outs, .fcp,
    .log, .power, .service] ps) (h : Keeps ps s0 s) (a2 : Bool) :
    Keeps ps s0 (State.dcLinkOut s a2) := by
  unfold State.dcLinkOut
  repeat' (first
    | (with_reducible assumption) | (with_reducible refine State.fresh_keeps (hw.of rfl) ?_)
    | (with_reducible refine State.onPower_keeps (hw.of rfl) ?_ _)
    | (with_reducible refine State.interruptDrives_keeps (hw.of rfl) ?_ _)
    | (with_reducible refine State.setLevel_keeps (hw.of rfl) ?_ _ _) | (with_reducible refine Keeps.ite ?_ ?_)
    | (with_reducible refine Keeps.foldl _ (fun _ _ _ => ?_) ?_) | intro _ | split | dsimp only)

theorem State.edgeOnset_keeps {ps : List Part} {s0 s : State} (hw : Within [.free, .doors, .quince, .fcp, .log] ps) (h
    : Keeps ps s0 s) (a2 : DoorIx) (a3 : EdgeSample) :
    Keeps ps s0 (State.edgeOnset s a2 a3) := by
  unfold State.edgeOnset
  repeat' (first
    | (with_reducible assumption)
    | (with_reducible exact id)
    | (with_reducible refine State.onDoor_keeps (hw.of rfl) ?_ _ _)
    | (with_reducible refine State.latchRow_keeps (hw.of rfl) ?_ _ _ _)
    | (with_reducible refine State.fresh_keeps (hw.of rfl) ?_)
    | (with_reducible refine Keeps.ite ?_ ?_)
    | (with_reducible refine Keeps.foldl _ (fun _ _ _ => ?_) ?_)
    | intro _
    | split
    | dsimp only)

theorem State.encoderCounts_keeps {ps : List Part} {s0 s : State} (hw : Within [.encoders] ps) (h : Keeps ps s0 s) (a2
    : Fin 2) (a3 : Bool) :
    Keeps ps s0 (State.encoderCounts s a2 a3) := by
  unfold State.encoderCounts
  repeat' (first
    | (with_reducible assumption) | (with_reducible exact id) | (with_reducible refine Keeps.ite ?_ ?_)
    | rw [State.put_encoders] | (with_reducible refine Keeps.putEncoders (hw.of rfl) ?_)
    | (with_reducible refine Keeps.foldl _ (fun _ _ _ => ?_) ?_) | intro _ | split | dsimp only)

theorem State.interruptionEnds_keeps {ps : List Part} {s0 s : State} (hw : Within [.free, .doors, .quince, .loop,
    .outs, .fcp, .log, .service] ps) (h : Keeps ps s0 s) (a2 : DriveIx) (a3 : Interruption) :
    Keeps ps s0 (State.interruptionEnds s a2 a3) := by
  unfold State.interruptionEnds
  repeat' (first
    | (with_reducible assumption) | (with_reducible refine State.runDoor_keeps (hw.of rfl) ?_ _ _)
    | (with_reducible refine State.setLevel_keeps (hw.of rfl) ?_ _ _) | (with_reducible refine Keeps.ite ?_ ?_)
    | (with_reducible refine Keeps.foldl _ (fun _ _ _ => ?_) ?_) | intro _ | split | dsimp only)

theorem State.latchReleases_keeps {ps : List Part} {s0 s : State} (hw : Within [.free, .doors, .quince, .loop, .outs,
    .fcp, .log, .service] ps) (h : Keeps ps s0 s) (a2 : DoorIx) :
    Keeps ps s0 (State.latchReleases s a2) := by
  unfold State.latchReleases
  repeat' (first
    | (with_reducible assumption) | (with_reducible refine State.runDoor_keeps (hw.of rfl) ?_ _ _)
    | (with_reducible refine Keeps.ite ?_ ?_) | (with_reducible refine Keeps.foldl _ (fun _ _ _ => ?_) ?_) | intro _
    | split | dsimp only)

theorem State.rawEgress_keeps {ps : List Part} {s0 s : State} (hw : Within [.doors, .quince, .loop, .outs, .fcp, .log]
    ps) (h : Keeps ps s0 s) (a2 : DoorIx) (a3 : Nat) (a4 : Bool) :
    Keeps ps s0 (State.rawEgress s a2 a3 a4) := by
  unfold State.rawEgress
  repeat' (first
    | (with_reducible assumption) | (with_reducible refine State.onDoor_keeps (hw.of rfl) ?_ _ _)
    | (with_reducible refine State.egressRows_keeps (hw.of rfl) ?_ _)
    | (with_reducible refine State.keeperSees_keeps (hw.of rfl) ?_ _)
    | (with_reducible refine State.evaluate_keeps (hw.of rfl) ?_) | (with_reducible refine Keeps.ite ?_ ?_)
    | (with_reducible refine Keeps.foldl _ (fun _ _ _ => ?_) ?_) | intro _ | split | dsimp only)

theorem State.rawBypass_keeps {ps : List Part} {s0 s : State} (hw : Within [.doors, .quince, .train, .loop, .outs,
    .fcp, .log] ps) (h : Keeps ps s0 s) (a2 : Bool) :
    Keeps ps s0 (State.rawBypass s a2) := by
  unfold State.rawBypass
  repeat' (first
    | (with_reducible assumption) | (with_reducible exact id)
    | (with_reducible refine State.bypassRow_keeps (hw.of rfl) ?_)
    | (with_reducible refine State.evaluate_keeps (hw.of rfl) ?_) | (with_reducible refine Keeps.ite ?_ ?_)
    | rw [State.put_train_loop] | (with_reducible refine Keeps.putTrain (hw.of rfl) ?_)
    | (with_reducible refine Keeps.putLoop (hw.of rfl) ?_)
    | (with_reducible refine Keeps.foldl _ (fun _ _ _ => ?_) ?_) | intro _ | split | dsimp only)

theorem State.levelRow_keeps {ps : List Part} {s0 s : State} (hw : Within [.doors, .quince, .train, .loop, .outs, .fcp,
    .log] ps) (h : Keeps ps s0 s) (a2 : RowIx) (a3 : DriveIx) (a4 : Bool) :
    Keeps ps s0 (State.levelRow s a2 a3 a4) := by
  unfold State.levelRow
  repeat' (first
    | (with_reducible assumption) | (with_reducible refine State.invalidRow_keeps (hw.of rfl) ?_ _)
    | (with_reducible refine State.rawEgress_keeps (hw.of rfl) ?_ _ _ _)
    | (with_reducible refine State.setLevel_keeps (hw.of rfl) ?_ _ _)
    | (with_reducible refine State.rawBypass_keeps (hw.of rfl) ?_ _)
    | (with_reducible refine State.tripRows_keeps (hw.of rfl) ?_ _ _) | (with_reducible refine Keeps.ite ?_ ?_)
    | (with_reducible refine Keeps.foldl _ (fun _ _ _ => ?_) ?_) | intro _ | split | dsimp only)

theorem State.reflexStopEnds_keeps {ps : List Part} {s0 s : State} (hw : Within [.free, .doors, .quince, .loop, .outs,
    .fcp, .log, .service] ps) (h : Keeps ps s0 s) (a2 : DoorIx) :
    Keeps ps s0 (State.reflexStopEnds s a2) := by
  unfold State.reflexStopEnds
  repeat' (first
    | (with_reducible assumption) | (with_reducible refine State.runDoor_keeps (hw.of rfl) ?_ _ _)
    | (with_reducible refine Keeps.ite ?_ ?_) | (with_reducible refine Keeps.foldl _ (fun _ _ _ => ?_) ?_) | intro _
    | split | dsimp only)

theorem State.rowanTrips_keeps {ps : List Part} {s0 s : State} (hw : Within [.free, .doors, .quince, .fcp, .log] ps) (h
    : Keeps ps s0 s) (a2 : DoorIx) (a3 : Int) (a4 : Int) (a5 : Int) :
    Keeps ps s0 (State.rowanTrips s a2 a3 a4 a5) := by
  unfold State.rowanTrips
  repeat' (first
    | (with_reducible assumption) | (with_reducible refine State.onDoor_keeps (hw.of rfl) ?_ _ _)
    | (with_reducible refine State.fresh_keeps (hw.of rfl) ?_)
    | (with_reducible refine State.latchRow_keeps (hw.of rfl) ?_ _ _ _) | (with_reducible refine Keeps.ite ?_ ?_)
    | (with_reducible refine Keeps.foldl _ (fun _ _ _ => ?_) ?_) | intro _ | split | dsimp only)

/-- What a firing raises: its event and its pulse. -/
theorem compareActions_plain {e : DoorEnv} {r : DriveIx} {c : Compare} {up : Bool} {p v : Int} :
    ∀ x ∈ compareActions e r c up p v, (∃ n b, x = .event n b) ∨ x = .pulse := by
  intro x hx
  unfold compareActions at hx
  rw [List.mem_append] at hx
  rcases hx with hx | hx
  · split at hx
    · exact .inl ⟨_, _, List.mem_singleton.1 hx⟩
    · cases hx
  · split at hx
    · exact .inr (List.mem_singleton.1 hx)
    · cases hx

theorem doorCompare_plain (e : DoorEnv) (w : Doorway) : ∀ x ∈ (doorCompare e ⟨w, []⟩).fx, (∃ n b, x = .event n b) ∨ x = .pulse := by
  unfold doorCompare
  lift_lets
  intro k x w1
  split
  · exact fun y hy => compareActions_plain y (by simpa [w1, Work.door] using hy)
  · intro y hy; simp [w1, Work.door] at hy

theorem stepCompare_plain (e : DoorEnv) (w : Doorway) : ∀ x ∈ (stepCompare e ⟨w, []⟩).fx, (∃ n b, x = .event n b) ∨ x = .pulse := by
  unfold stepCompare
  lift_lets
  intro x w1
  split
  · exact fun y hy => compareActions_plain y (by simpa [w1, Work.step] using hy)
  · intro y hy; simp [w1, Work.step] at hy

theorem State.compareTests_keeps {ps : List Part} {s0 s : State} (hw : Within [.doors, .loop, .outs, .fcp] ps) (h : Keeps ps
    s0 s) (a2 : DriveIx) :
    Keeps ps s0 (State.compareTests s a2) := by
  have hp : ∀ x, ((∃ n b, x = DoorFx.event n b) ∨ x = .pulse) → ∀ t, Keeps ps s0 t → Keeps ps s0 (State.applyFx (doorOf a2) t x) := by
    rintro x (⟨n, b, rfl⟩ | rfl) t ht
    · exact State.event_keeps (hw.of rfl) ht _ _
    · unfold State.applyFx
      dsimp only
      rw [State.put_outs]
      exact Keeps.putOuts (hw.of rfl) ht
  have hc : Keeps ps s0 (s.changeDoor (doorOf a2) (fun e w => if isStep a2 then stepCompare e w else doorCompare e w)) := by
    refine State.changeDoor_within (hw.of rfl) h _ _ (fun x hx => hp x ?_)
    split at hx
    · exact stepCompare_plain _ _ x hx
    · exact doorCompare_plain _ _ x hx
  unfold State.compareTests
  split
  · exact h
  · generalize (s.changeDoor (doorOf a2) (fun e w => if isStep a2 then stepCompare e w else doorCompare e w)) = t at hc
    dsimp only
    split
    · exact hc
    · exact State.evaluate_keeps (hw.of rfl) hc

theorem State.hallChanges_keeps {ps : List Part} {s0 s : State} (hw : Within [.free, .doors, .quince, .loop, .outs,
    .fcp, .log, .service] ps) (h : Keeps ps s0 s) (a2 : DoorIx) (a3 : Nat) (a4 : Nat) :
    Keeps ps s0 (State.hallChanges s a2 a3 a4) := by
  unfold State.hallChanges
  repeat' (first
    | (with_reducible assumption)
    | (with_reducible exact id)
    | (with_reducible refine State.changeDoor_keeps (hw.of rfl) ?_ _ _)
    | (with_reducible refine State.evaluate_keeps (hw.of rfl) ?_)
    | (with_reducible refine State.runDoor_keeps (hw.of rfl) ?_ _ _)
    | (with_reducible refine Keeps.ite ?_ ?_)
    | (with_reducible refine Keeps.foldl _ (fun _ _ _ => ?_) ?_)
    | intro _
    | split
    | dsimp only)

/-- What a comparison of the edges raises: its event and its incident. -/
theorem sePath_plain (e : DoorEnv) (w : Doorway) (b : Bool) :
    ∀ x ∈ (onSePathFault e b ⟨w, []⟩).fx ++ (onSePathClear e ⟨w, []⟩).fx, (∃ n p, x = .event n p) ∨ x = .incident 11 false := by
  intro x hx
  rw [List.mem_append] at hx
  rcases hx with hx | hx
  · unfold onSePathFault at hx
    dsimp only at hx
    split at hx
    · cases hx
    · simp only [Work.emit, Work.obstEvent, Work.obst, List.nil_append, List.mem_append, List.mem_singleton] at hx
      rcases hx with hx | hx
      · exact .inl ⟨_, _, hx⟩
      · exact .inr hx
  · unfold onSePathClear at hx
    dsimp only at hx
    split at hx
    · simp only [Work.emit, Work.obstEvent, Work.obstFlags, Work.obst, List.nil_append, List.mem_singleton] at hx
      exact .inl ⟨_, _, hx⟩
    · cases hx

theorem State.edgesCompared_keeps {ps : List Part} {s0 s : State} (hw : Within [.free, .doors, .fcp, .log] ps) (h : Keeps ps
    s0 s) (a2 : DoorIx) (b : Bool) (a3 : DoorEnv → Work → Work)
    (hf : a3 = (fun e => onSePathFault e b) ∨ a3 = onSePathClear) :
    Keeps ps s0 (State.edgesCompared s a2 a3) := by
  have hp : ∀ x, ((∃ n p, x = DoorFx.event n p) ∨ x = .incident 11 false) → ∀ t, Keeps ps s0 t → Keeps ps s0 (State.applyFx a2 t x) := by
    rintro x (⟨n, p, rfl⟩ | rfl) t ht
    · exact State.event_keeps (hw.of rfl) ht _ _
    · unfold State.applyFx
      dsimp only
      exact State.incident_keeps (hw.of rfl) ht _ _ _ _ _ _
  unfold State.edgesCompared
  split
  · exact h
  · refine State.fresh_keeps (hw.of rfl) (State.changeDoor_within (hw.of rfl) h _ _ (fun x hx => hp x (sePath_plain (s.doorEnv a2) s.doors[a2] b x ?_)))
    rw [List.mem_append]
    rcases hf with rfl | rfl
    · exact .inl hx
    · exact .inr hx

end Sys2Proof.Machine
end

