-- ==== Sys2Proof/Laws/KeepsDoorwayMeanings.lean ====
section
/-!
SUPPORT. For every operation of Machine/DoorwayMeanings.lean: the parts of State it may change, and that it keeps the invariant.
-/

set_option linter.unusedVariables false
set_option linter.unusedSimpArgs false

namespace Sys2Proof.Machine

theorem execClosePushbutton_keeps {ps : List Part} {s0 s t : State} (hw : Within [.free, .doors, .quince, .loop, .outs,
    .fcp, .log, .service] ps) (h : Keeps ps s0 s) (a1 : DoorIx) (a2 : Bool)
    (he : execClosePushbutton a1 a2 s = .next t) : Keeps ps s0 t := by
  unfold execClosePushbutton at he
  injection he with he
  subst he
  repeat' (first
    | (with_reducible assumption) | (with_reducible refine State.doorInput_keeps (hw.of rfl) ?_ _ _)
    | (with_reducible refine Keeps.ite ?_ ?_) | (with_reducible refine Keeps.foldl _ (fun _ _ _ => ?_) ?_) | intro _
    | split | dsimp only)

theorem execDcsBreakClosedUnlocked_keeps {ps : List Part} {s0 s t : State} (hw : Within [.free, .doors, .quince, .loop,
    .outs, .fcp, .log, .service] ps) (h : Keeps ps s0 s) (a1 : DoorIx)
    (he : execDcsBreakClosedUnlocked a1 s = .next t) : Keeps ps s0 t := by
  unfold execDcsBreakClosedUnlocked at he
  injection he with he
  subst he
  repeat' (first
    | (with_reducible assumption) | (with_reducible refine State.doorInput_keeps (hw.of rfl) ?_ _ _)
    | (with_reducible refine Keeps.ite ?_ ?_) | (with_reducible refine Keeps.foldl _ (fun _ _ _ => ?_) ?_) | intro _
    | split | dsimp only)

theorem execDcsBreakOpening_keeps {ps : List Part} {s0 s t : State} (hw : Within [.free, .doors, .quince, .loop, .outs,
    .fcp, .log, .service] ps) (h : Keeps ps s0 s) (a1 : DoorIx)
    (he : execDcsBreakOpening a1 s = .next t) : Keeps ps s0 t := by
  unfold execDcsBreakOpening at he
  injection he with he
  subst he
  repeat' (first
    | (with_reducible assumption) | (with_reducible refine State.doorInput_keeps (hw.of rfl) ?_ _ _)
    | (with_reducible refine Keeps.ite ?_ ?_) | (with_reducible refine Keeps.foldl _ (fun _ _ _ => ?_) ?_) | intro _
    | split | dsimp only)

theorem execDcsMadeClosedWindow_keeps {ps : List Part} {s0 s t : State} (hw : Within [.free, .doors, .quince, .loop,
    .outs, .fcp, .log, .service] ps) (h : Keeps ps s0 s) (a1 : DoorIx)
    (he : execDcsMadeClosedWindow a1 s = .next t) : Keeps ps s0 t := by
  unfold execDcsMadeClosedWindow at he
  injection he with he
  subst he
  repeat' (first
    | (with_reducible assumption) | (with_reducible refine State.doorInput_keeps (hw.of rfl) ?_ _ _)
    | (with_reducible refine Keeps.ite ?_ ?_) | (with_reducible refine Keeps.foldl _ (fun _ _ _ => ?_) ?_) | intro _
    | split | dsimp only)

theorem execDcsPositionImplausible_keeps {ps : List Part} {s0 s t : State} (hw : Within [.free, .doors, .quince, .loop,
    .outs, .fcp, .log, .service] ps) (h : Keeps ps s0 s) (a1 : DoorIx)
    (he : execDcsPositionImplausible a1 s = .next t) : Keeps ps s0 t := by
  unfold execDcsPositionImplausible at he
  injection he with he
  subst he
  repeat' (first
    | (with_reducible assumption) | (with_reducible refine State.atDoor_keeps (hw.of rfl) ?_ _ _)
    | (with_reducible refine Keeps.ite ?_ ?_) | (with_reducible refine Keeps.foldl _ (fun _ _ _ => ?_) ?_) | intro _
    | split | dsimp only)

theorem execDisBreak_keeps {ps : List Part} {s0 s t : State} (hw : Within [.free, .doors, .quince, .loop, .outs, .fcp,
    .log, .service] ps) (h : Keeps ps s0 s) (a1 : DoorIx)
    (he : execDisBreak a1 s = .next t) : Keeps ps s0 t := by
  unfold execDisBreak at he
  injection he with he
  subst he
  repeat' (first
    | (with_reducible assumption) | (with_reducible refine State.doorInput_keeps (hw.of rfl) ?_ _ _)
    | (with_reducible refine Keeps.ite ?_ ?_) | (with_reducible refine Keeps.foldl _ (fun _ _ _ => ?_) ?_) | intro _
    | split | dsimp only)

theorem execDisMake_keeps {ps : List Part} {s0 s t : State} (hw : Within [.free, .doors, .quince, .loop, .outs, .fcp,
    .log, .service] ps) (h : Keeps ps s0 s) (a1 : DoorIx)
    (he : execDisMake a1 s = .next t) : Keeps ps s0 t := by
  unfold execDisMake at he
  injection he with he
  subst he
  repeat' (first
    | (with_reducible assumption) | (with_reducible refine State.doorInput_keeps (hw.of rfl) ?_ _ _)
    | (with_reducible refine Keeps.ite ?_ ?_) | (with_reducible refine Keeps.foldl _ (fun _ _ _ => ?_) ?_) | intro _
    | split | dsimp only)

theorem execDlsBreakUnlocking_keeps {ps : List Part} {s0 s t : State} (hw : Within [.free, .doors, .quince, .loop,
    .outs, .fcp, .log, .service] ps) (h : Keeps ps s0 s) (a1 : DoorIx)
    (he : execDlsBreakUnlocking a1 s = .next t) : Keeps ps s0 t := by
  unfold execDlsBreakUnlocking at he
  injection he with he
  subst he
  repeat' (first
    | (with_reducible assumption) | (with_reducible refine State.doorInput_keeps (hw.of rfl) ?_ _ _)
    | (with_reducible refine Keeps.ite ?_ ?_) | (with_reducible refine Keeps.foldl _ (fun _ _ _ => ?_) ?_) | intro _
    | split | dsimp only)

theorem execDlsConfirmed_keeps {ps : List Part} {s0 s t : State} (hw : Within [.free, .doors, .quince, .loop, .outs,
    .fcp, .log, .service] ps) (h : Keeps ps s0 s) (a1 : DoorIx)
    (he : execDlsConfirmed a1 s = .next t) : Keeps ps s0 t := by
  unfold execDlsConfirmed at he
  injection he with he
  subst he
  repeat' (first
    | (with_reducible assumption) | (with_reducible refine State.doorInput_keeps (hw.of rfl) ?_ _ _)
    | (with_reducible refine Keeps.ite ?_ ?_) | (with_reducible refine Keeps.foldl _ (fun _ _ _ => ?_) ?_) | intro _
    | split | dsimp only)

theorem execDlsMadeClosedUnlocked_keeps {ps : List Part} {s0 s t : State} (hw : Within [.free, .doors, .quince, .loop,
    .outs, .fcp, .log, .service] ps) (h : Keeps ps s0 s) (a1 : DoorIx)
    (he : execDlsMadeClosedUnlocked a1 s = .next t) : Keeps ps s0 t := by
  unfold execDlsMadeClosedUnlocked at he
  injection he with he
  subst he
  repeat' (first
    | (with_reducible assumption) | (with_reducible refine State.doorInput_keeps (hw.of rfl) ?_ _ _)
    | (with_reducible refine Keeps.ite ?_ ?_) | (with_reducible refine Keeps.foldl _ (fun _ _ _ => ?_) ?_) | intro _
    | split | dsimp only)

theorem execDwellExpiry_keeps {ps : List Part} {s0 s t : State} (hw : Within [.free, .doors, .quince, .loop, .outs,
    .fcp, .log, .service] ps) (h : Keeps ps s0 s) (a1 : DoorIx)
    (he : execDwellExpiry a1 s = .next t) : Keeps ps s0 t := by
  unfold execDwellExpiry at he
  injection he with he
  subst he
  repeat' (first
    | (with_reducible assumption) | (with_reducible refine State.atDoor_keeps (hw.of rfl) ?_ _ _)
    | (with_reducible refine Keeps.ite ?_ ?_) | (with_reducible refine Keeps.foldl _ (fun _ _ _ => ?_) ?_) | intro _
    | split | dsimp only)

theorem execEgressActive_keeps {ps : List Part} {s0 s t : State} (hw : Within [.free, .doors, .quince, .loop, .outs,
    .fcp, .log, .service] ps) (h : Keeps ps s0 s) (a1 : DoorIx) (a2 : Egress)
    (he : execEgressActive a1 a2 s = .next t) : Keeps ps s0 t := by
  unfold execEgressActive at he
  injection he with he
  subst he
  repeat' (first
    | (with_reducible assumption) | (with_reducible refine State.doorInput_keeps (hw.of rfl) ?_ _ _)
    | (with_reducible refine Keeps.ite ?_ ?_) | (with_reducible refine Keeps.foldl _ (fun _ _ _ => ?_) ?_) | intro _
    | split | dsimp only)

theorem execEgressInactive_keeps {ps : List Part} {s0 s t : State} (hw : Within [.free, .doors, .quince, .loop, .outs,
    .fcp, .log, .service] ps) (h : Keeps ps s0 s) (a1 : DoorIx)
    (he : execEgressInactive a1 s = .next t) : Keeps ps s0 t := by
  unfold execEgressInactive at he
  injection he with he
  subst he
  repeat' (first
    | (with_reducible assumption) | (with_reducible refine State.doorInput_keeps (hw.of rfl) ?_ _ _)
    | (with_reducible refine Keeps.ite ?_ ?_) | (with_reducible refine Keeps.foldl _ (fun _ _ _ => ?_) ?_) | intro _
    | split | dsimp only)

theorem execFaultInputCauseGone_keeps {ps : List Part} {s0 s t : State} (hw : Within [.free, .doors, .quince, .loop,
    .outs, .fcp, .log, .service] ps) (h : Keeps ps s0 s) (a1 : DoorIx)
    (he : execFaultInputCauseGone a1 s = .next t) : Keeps ps s0 t := by
  unfold execFaultInputCauseGone at he
  injection he with he
  subst he
  repeat' (first
    | (with_reducible assumption) | (with_reducible refine State.atDoor_keeps (hw.of rfl) ?_ _ _)
    | (with_reducible refine Keeps.ite ?_ ?_) | (with_reducible refine Keeps.foldl _ (fun _ _ _ => ?_) ?_) | intro _
    | split | dsimp only)

theorem execLockAttemptExpiry_keeps {ps : List Part} {s0 s t : State} (hw : Within [.free, .doors, .quince, .loop,
    .outs, .fcp, .log, .service] ps) (h : Keeps ps s0 s) (a1 : DoorIx)
    (he : execLockAttemptExpiry a1 s = .next t) : Keeps ps s0 t := by
  unfold execLockAttemptExpiry at he
  injection he with he
  subst he
  repeat' (first
    | (with_reducible assumption) | (with_reducible refine State.atDoor_keeps (hw.of rfl) ?_ _ _)
    | (with_reducible refine Keeps.ite ?_ ?_) | (with_reducible refine Keeps.foldl _ (fun _ _ _ => ?_) ?_) | intro _
    | split | dsimp only)

theorem execMaintOpenHoldExpiry_keeps {ps : List Part} {s0 s t : State} (hw : Within [.free, .doors, .quince, .loop,
    .outs, .fcp, .log, .service] ps) (h : Keeps ps s0 s) (a1 : DoorIx)
    (he : execMaintOpenHoldExpiry a1 s = .next t) : Keeps ps s0 t := by
  unfold execMaintOpenHoldExpiry at he
  injection he with he
  subst he
  repeat' (first
    | (with_reducible assumption) | (with_reducible refine State.atDoor_keeps (hw.of rfl) ?_ _ _)
    | (with_reducible refine Keeps.ite ?_ ?_) | (with_reducible refine Keeps.foldl _ (fun _ _ _ => ?_) ?_) | intro _
    | split | dsimp only)

theorem execOpenPushbutton_keeps {ps : List Part} {s0 s t : State} (hw : Within [.free, .doors, .quince, .loop, .outs,
    .fcp, .log, .service] ps) (h : Keeps ps s0 s) (a1 : DoorIx) (a2 : Bool) (a3 : Bool)
    (he : execOpenPushbutton a1 a2 a3 s = .next t) : Keeps ps s0 t := by
  unfold execOpenPushbutton at he
  injection he with he
  subst he
  repeat' (first
    | (with_reducible assumption) | (with_reducible refine State.doorInput_keeps (hw.of rfl) ?_ _ _)
    | (with_reducible refine Keeps.ite ?_ ?_) | (with_reducible refine Keeps.foldl _ (fun _ _ _ => ?_) ?_) | intro _
    | split | dsimp only)

theorem execPlausibilityTimeout_keeps {ps : List Part} {s0 s t : State} (hw : Within [.free, .doors, .quince, .loop,
    .outs, .fcp, .log, .service] ps) (h : Keeps ps s0 s) (a1 : DoorIx) (a2 : Implausible)
    (he : execPlausibilityTimeout a1 a2 s = .next t) : Keeps ps s0 t := by
  unfold execPlausibilityTimeout at he
  injection he with he
  subst he
  repeat' (first
    | (with_reducible assumption) | (with_reducible refine State.doorInput_keeps (hw.of rfl) ?_ _ _)
    | (with_reducible refine Keeps.ite ?_ ?_) | (with_reducible refine Keeps.foldl _ (fun _ _ _ => ?_) ?_) | intro _
    | split | dsimp only)

theorem execPreCloseWarnExpiry_keeps {ps : List Part} {s0 s t : State} (hw : Within [.free, .doors, .quince, .loop,
    .outs, .fcp, .log, .service] ps) (h : Keeps ps s0 s) (a1 : DoorIx)
    (he : execPreCloseWarnExpiry a1 s = .next t) : Keeps ps s0 t := by
  unfold execPreCloseWarnExpiry at he
  injection he with he
  subst he
  repeat' (first
    | (with_reducible assumption) | (with_reducible refine State.atDoor_keeps (hw.of rfl) ?_ _ _)
    | (with_reducible refine Keeps.ite ?_ ?_) | (with_reducible refine Keeps.foldl _ (fun _ _ _ => ?_) ?_) | intro _
    | split | dsimp only)

theorem execReopenDwellExpiry_keeps {ps : List Part} {s0 s t : State} (hw : Within [.free, .doors, .quince, .loop,
    .outs, .fcp, .log, .service] ps) (h : Keeps ps s0 s) (a1 : DoorIx)
    (he : execReopenDwellExpiry a1 s = .next t) : Keeps ps s0 t := by
  unfold execReopenDwellExpiry at he
  injection he with he
  subst he
  repeat' (first
    | (with_reducible assumption) | (with_reducible refine State.atDoor_keeps (hw.of rfl) ?_ _ _)
    | (with_reducible refine Keeps.ite ?_ ?_) | (with_reducible refine Keeps.foldl _ (fun _ _ _ => ?_) ?_) | intro _
    | split | dsimp only)

theorem execUncommandedUnlock_keeps {ps : List Part} {s0 s t : State} (hw : Within [.free, .doors, .quince, .loop,
    .outs, .fcp, .log, .service] ps) (h : Keeps ps s0 s) (a1 : DoorIx) (a2 : DoorSwitch)
    (he : execUncommandedUnlock a1 a2 s = .next t) : Keeps ps s0 t := by
  unfold execUncommandedUnlock at he
  injection he with he
  subst he
  repeat' (first
    | (with_reducible assumption) | (with_reducible refine State.doorInput_keeps (hw.of rfl) ?_ _ _)
    | (with_reducible refine Keeps.ite ?_ ?_) | (with_reducible refine Keeps.foldl _ (fun _ _ _ => ?_) ?_) | intro _
    | split | dsimp only)

theorem execUnlockCommandedGraceEnd_keeps {ps : List Part} {s0 s t : State} (hw : Within [.free, .doors, .quince,
    .loop, .outs, .fcp, .log, .service] ps) (h : Keeps ps s0 s) (a1 : DoorIx)
    (he : execUnlockCommandedGraceEnd a1 s = .next t) : Keeps ps s0 t := by
  unfold execUnlockCommandedGraceEnd at he
  injection he with he
  subst he
  repeat' (first
    | (with_reducible assumption) | (with_reducible refine State.atDoor_keeps (hw.of rfl) ?_ _ _)
    | (with_reducible refine Keeps.ite ?_ ?_) | (with_reducible refine Keeps.foldl _ (fun _ _ _ => ?_) ?_) | intro _
    | split | dsimp only)

theorem execUnlockTimeoutExpiry_keeps {ps : List Part} {s0 s t : State} (hw : Within [.free, .doors, .quince, .loop,
    .outs, .fcp, .log, .service] ps) (h : Keeps ps s0 s) (a1 : DoorIx)
    (he : execUnlockTimeoutExpiry a1 s = .next t) : Keeps ps s0 t := by
  unfold execUnlockTimeoutExpiry at he
  injection he with he
  subst he
  repeat' (first
    | (with_reducible assumption) | (with_reducible refine State.atDoor_keeps (hw.of rfl) ?_ _ _)
    | (with_reducible refine Keeps.ite ?_ ?_) | (with_reducible refine Keeps.foldl _ (fun _ _ _ => ?_) ?_) | intro _
    | split | dsimp only)

end Sys2Proof.Machine
end

