-- ==== Sys2Proof/Laws/KeepsServiceCmds.lean ====
section
/-!
SUPPORT. For every operation of Machine/ServiceCmds.lean: the parts of State it may change, and that it keeps the invariant.
-/

set_option linter.unusedVariables false
set_option linter.unusedSimpArgs false

namespace Sys2Proof.Machine

theorem State.onFw_keeps {ps : List Part} {s0 s : State} (hw : Within [.service] ps) (h : Keeps ps s0 s) (a2 :
    (Firmware → Firmware)) :
    Keeps ps s0 (State.onFw s a2) := by
  unfold State.onFw
  repeat' (first
    | (with_reducible assumption) | (with_reducible exact id) | (with_reducible refine Keeps.ite ?_ ?_)
    | rw [State.put_service] | (with_reducible refine Keeps.putService (hw.of rfl) ?_)
    | (with_reducible refine Keeps.foldl _ (fun _ _ _ => ?_) ?_) | intro _ | split | dsimp only)

theorem State.onActivation_keeps {ps : List Part} {s0 s : State} (hw : Within [.service] ps) (h : Keeps ps s0 s) (a2 :
    (Activation → Activation)) :
    Keeps ps s0 (State.onActivation s a2) := by
  unfold State.onActivation
  repeat' (first
    | (with_reducible assumption) | (with_reducible refine State.onFw_keeps (hw.of rfl) ?_ _)
    | (with_reducible refine Keeps.ite ?_ ?_) | (with_reducible refine Keeps.foldl _ (fun _ _ _ => ?_) ?_) | intro _
    | split | dsimp only)

theorem State.activationEnds_keeps {ps : List Part} {s0 s : State} (hw : Within [.fcp, .service] ps) (h : Keeps ps s0
    s) (a2 : Activation) (a3 : Nat) (a4 : Nat) (a5 : Nat) (a6 : Nat) :
    Keeps ps s0 (State.activationEnds s a2 a3 a4 a5 a6) := by
  unfold State.activationEnds
  repeat' (first
    | (with_reducible assumption) | (with_reducible refine State.complete_keeps (hw.of rfl) ?_ _ _ _ _)
    | (with_reducible refine State.onFw_keeps (hw.of rfl) ?_ _) | (with_reducible refine Keeps.ite ?_ ?_)
    | (with_reducible refine Keeps.foldl _ (fun _ _ _ => ?_) ?_) | intro _ | split | dsimp only)

theorem State.rollSettles_keeps {ps : List Part} {s0 s : State} (hw : Within [.fcp, .service] ps) (h : Keeps ps s0 s)  :
    Keeps ps s0 (State.rollSettles s) := by
  unfold State.rollSettles
  repeat' (first
    | (with_reducible assumption) | (with_reducible refine State.activationEnds_keeps (hw.of rfl) ?_ _ _ _ _ _)
    | (with_reducible refine Keeps.ite ?_ ?_) | (with_reducible refine Keeps.foldl _ (fun _ _ _ => ?_) ?_) | intro _
    | split | dsimp only)

theorem State.rollsBack_keeps {ps : List Part} {s0 s : State} (hw : Within [.fcp, .service] ps) (h : Keeps ps s0 s) (a2
    : Nat) (a3 : Nat) (a4 : Nat) :
    Keeps ps s0 (State.rollsBack s a2 a3 a4) := by
  unfold State.rollsBack
  repeat' (first
    | (with_reducible assumption) | (with_reducible refine State.onActivation_keeps (hw.of rfl) ?_ _)
    | (with_reducible refine State.rollSettles_keeps (hw.of rfl) ?_) | (with_reducible refine Keeps.ite ?_ ?_)
    | (with_reducible refine Keeps.foldl _ (fun _ _ _ => ?_) ?_) | intro _ | split | dsimp only)

theorem State.activationAborts_keeps {ps : List Part} {s0 s : State} (hw : Within [.fcp, .service] ps) (h : Keeps ps s0
    s)  :
    Keeps ps s0 (State.activationAborts s) := by
  unfold State.activationAborts
  repeat' (first
    | (with_reducible assumption) | (with_reducible refine State.rollsBack_keeps (hw.of rfl) ?_ _ _ _)
    | (with_reducible refine Keeps.ite ?_ ?_) | (with_reducible refine Keeps.foldl _ (fun _ _ _ => ?_) ?_) | intro _
    | split | dsimp only)

theorem Req.fwActivate_keeps {ps : List Part} (hw : Within [.fcp, .service] ps) (a1 : List Byte) (a2 : Nat) (a3 : Nat)
    : ReqKeeps ps (Req.fwActivate a1 a2 a3) := by
  intro _ _ s0 s h
  unfold Req.fwActivate Req.plain
  dsimp only
  repeat' (first
    | (with_reducible assumption) | (with_reducible exact id) | (with_reducible refine State.answers_keeps ?_ _)
    | (with_reducible refine State.onFw_keeps (hw.of rfl) ?_ _)
    | (with_reducible refine State.accepts_keeps (hw.of rfl) ?_ ?_) | (with_reducible refine ReplyKeeps.ite ?_ ?_)
    | (with_reducible refine Keeps.ite ?_ ?_) | (with_reducible refine Keeps.foldl _ (fun _ _ _ => ?_) ?_) | intro _
    | split | dsimp only | (with_reducible refine ReplyKeeps.mk ?_ ?_) | rw [id])

theorem State.stageLast_keeps {ps : List Part} {s0 s : State} (hw : Within [.fcp, .service] ps) (h : Keeps ps s0 s)  :
    ReplyKeeps ps s0 (State.stageLast s) := by
  unfold State.stageLast
  repeat' (first
    | (with_reducible assumption) | (with_reducible refine State.answers_keeps ?_ _)
    | (with_reducible refine State.onFw_keeps (hw.of rfl) ?_ _)
    | (with_reducible refine State.event_keeps (hw.of rfl) ?_ _ _) | (with_reducible refine ReplyKeeps.ite ?_ ?_)
    | (with_reducible refine Keeps.ite ?_ ?_) | (with_reducible refine Keeps.foldl _ (fun _ _ _ => ?_) ?_) | intro _
    | split | dsimp only | (with_reducible refine ReplyKeeps.mk ?_ ?_) | rw [id])

theorem Req.fwStage_keeps {ps : List Part} (hw : Within [.fcp, .service] ps) (a1 : List Byte) (a2 : Nat) (a3 : Nat) (a4
    : List Byte) : ReqKeeps ps (Req.fwStage a1 a2 a3 a4) := by
  intro _ _ s0 s h
  unfold Req.fwStage Req.plain
  dsimp only
  repeat' (first
    | (with_reducible assumption) | (with_reducible refine State.answers_keeps ?_ _)
    | (with_reducible refine State.onFw_keeps (hw.of rfl) ?_ _)
    | (with_reducible refine State.stageLast_keeps (hw.of rfl) ?_) | (with_reducible refine ReplyKeeps.ite ?_ ?_)
    | (with_reducible refine Keeps.ite ?_ ?_) | (with_reducible refine Keeps.foldl _ (fun _ _ _ => ?_) ?_) | intro _
    | split | dsimp only | (with_reducible refine ReplyKeeps.mk ?_ ?_) | rw [id])

theorem Req.identity_keeps {ps : List Part} (hw : Within [] ps) (a1 : List Byte) : ReqKeeps ps (Req.identity a1) := by
  intro _ _ s0 s h
  unfold Req.identity Req.plain
  dsimp only
  repeat' (first
    | (with_reducible assumption) | (with_reducible refine State.answers_keeps ?_ _)
    | (with_reducible refine ReplyKeeps.ite ?_ ?_) | (with_reducible refine Keeps.ite ?_ ?_)
    | (with_reducible refine Keeps.foldl _ (fun _ _ _ => ?_) ?_) | intro _ | split | dsimp only
    | (with_reducible refine ReplyKeeps.mk ?_ ?_) | rw [id])

theorem Req.legSubstitute_keeps {ps : List Part} (hw : Within [.free, .doors, .quince, .loop, .outs, .fcp, .log,
    .service] ps) (a1 : List Byte) (a2 : Nat) (a3 : Nat) : ReqKeeps ps (Req.legSubstitute a1 a2 a3) := by
  intro _ _ s0 s h
  unfold Req.legSubstitute Req.plain
  dsimp only
  repeat' (first
    | (with_reducible assumption) | (with_reducible exact id) | (with_reducible refine State.answers_keeps ?_ _)
    | (with_reducible refine State.onPair_keeps (hw.of rfl) ?_ _ _)
    | (with_reducible refine State.accepts_keeps (hw.of rfl) ?_ ?_)
    | (with_reducible refine State.startSub_keeps (hw.of rfl) ?_ _ _ _ _)
    | (with_reducible refine ReplyKeeps.ite ?_ ?_) | (with_reducible refine Keeps.ite ?_ ?_)
    | (with_reducible refine Keeps.dite (fun _ => ?_) (fun _ => ?_))
    | (with_reducible refine Keeps.foldl _ (fun _ _ _ => ?_) ?_) | intro _ | split | dsimp only
    | (with_reducible refine ReplyKeeps.mk ?_ ?_) | rw [id])

theorem State.reflexTest_keeps {ps : List Part} {s0 s : State} (hw : Within [.doors, .quince, .fcp, .log] ps) (h :
    Keeps ps s0 s) (a2 : DoorIx) :
    Keeps ps s0 (State.reflexTest s a2) := by
  unfold State.reflexTest
  repeat' (first
    | (with_reducible assumption)
    | (with_reducible exact id)
    | (with_reducible refine State.latchAction_keeps (hw.of rfl) ?_ _ _ _ _)
    | (with_reducible refine Keeps.ite ?_ ?_)
    | (with_reducible refine Keeps.foldl _ (fun _ _ _ => ?_) ?_)
    | intro _
    | split
    | dsimp only)

theorem State.selftestStarts_keeps {ps : List Part} {s0 s : State} (hw : Within [.free, .doors, .quince, .loop, .outs,
    .fcp, .log, .service] ps) (h : Keeps ps s0 s) (a2 : SessIx) (a3 : Nat) (a4 : Nat) (a5 : Nat) :
    Keeps ps s0 (State.selftestStarts s a2 a3 a4 a5) := by
  unfold State.selftestStarts
  repeat' (first
    | (with_reducible assumption)
    | (with_reducible exact id)
    | (with_reducible refine State.runDoor_keeps (hw.of rfl) ?_ _ _)
    | (with_reducible refine State.reflexTest_keeps (hw.of rfl) ?_ _)
    | (with_reducible refine Keeps.ite ?_ ?_)
    | rw [State.put_service]
    | (with_reducible refine Keeps.putService (hw.of rfl) ?_)
    | (with_reducible refine Keeps.foldl _ (fun _ _ _ => ?_) ?_)
    | intro _
    | split
    | dsimp only)

theorem Req.selftest_keeps {ps : List Part} (hw : Within [.free, .doors, .quince, .loop, .outs, .fcp, .log, .service]
    ps) (a1 : List Byte) (a2 : Nat) (a3 : Nat) : ReqKeeps ps (Req.selftest a1 a2 a3) := by
  intro _ _ s0 s h
  unfold Req.selftest Req.plain
  dsimp only
  repeat' (first
    | (with_reducible assumption) | (with_reducible exact id) | (with_reducible refine State.answers_keeps ?_ _)
    | (with_reducible refine State.accepts_keeps (hw.of rfl) ?_ ?_)
    | (with_reducible refine State.selftestStarts_keeps (hw.of rfl) ?_ _ _ _ _)
    | (with_reducible refine ReplyKeeps.ite ?_ ?_) | (with_reducible refine Keeps.ite ?_ ?_)
    | (with_reducible refine Keeps.foldl _ (fun _ _ _ => ?_) ?_) | intro _ | split | dsimp only
    | (with_reducible refine ReplyKeeps.mk ?_ ?_) | rw [id])

theorem State.activated_keeps {ps : List Part} {s0 s : State} (hw : Within [.fcp, .service] ps) (h : Keeps ps s0 s)  :
    Keeps ps s0 (State.activated s) := by
  unfold State.activated
  repeat' (first
    | (with_reducible assumption) | (with_reducible refine State.onFw_keeps (hw.of rfl) ?_ _)
    | (with_reducible refine State.event_keeps (hw.of rfl) ?_ _ _) | (with_reducible refine Keeps.ite ?_ ?_)
    | (with_reducible refine Keeps.foldl _ (fun _ _ _ => ?_) ?_) | intro _ | split | dsimp only)

theorem State.activationRestarts_keeps {ps : List Part} {s0 s : State} (hw : Within [.half, .doors, .encoders, .quince,
    .train, .loop, .lsw, .outs, .fcp, .log, .ring, .can, .power, .engines, .service, .config] ps) (h : Keeps ps s0 s)  :
    Keeps ps s0 (State.activationRestarts s) := by
  unfold State.activationRestarts
  repeat' (first
    | (with_reducible assumption) | (with_reducible refine State.activated_keeps (hw.of rfl) ?_)
    | (with_reducible refine State.powerLost_keeps (hw.of rfl) ?_) | (with_reducible refine Keeps.ite ?_ ?_)
    | (with_reducible refine Keeps.foldl _ (fun _ _ _ => ?_) ?_) | intro _ | split | dsimp only)

theorem State.takesEngine_keeps {ps : List Part} {s0 s : State} (hw : Within [.service] ps) (h : Keeps ps s0 s) (a2 :
    FwEngine) :
    Keeps ps s0 (State.takesEngine s a2) := by
  unfold State.takesEngine
  repeat' (first
    | (with_reducible assumption) | (with_reducible refine State.onActivation_keeps (hw.of rfl) ?_ _)
    | (with_reducible refine Keeps.ite ?_ ?_) | (with_reducible refine Keeps.foldl _ (fun _ _ _ => ?_) ?_) | intro _
    | split | dsimp only)

theorem State.setEngine_keeps {ps : List Part} {s0 s : State} (hw : Within [.engines] ps) (h : Keeps ps s0 s) (a2 : Fin
    12) (a3 : EngState) :
    Keeps ps s0 (State.setEngine s a2 a3) := by
  unfold State.setEngine
  repeat' (first
    | (with_reducible assumption) | (with_reducible exact id) | (with_reducible refine Keeps.ite ?_ ?_)
    | rw [State.put_engines] | (with_reducible refine Keeps.putEngines (hw.of rfl) ?_ ?_)
    | exact Engines.memOk_same (by assumption) rfl | exact App.mem_same (by assumption) rfl
    | exact App.mem_same (by assumption) (App.post_mem _ _ _) | (with_reducible apply Memory.writeMany_wf)
    | (with_reducible refine Keeps.foldl _ (fun _ _ _ => ?_) ?_) | intro _ | split | dsimp only)

theorem State.commsUpdate_keeps {ps : List Part} {s0 s : State} (hw : Within [.fcp, .engines, .service] ps) (h : Keeps
    ps s0 s)  :
    Keeps ps s0 (State.commsUpdate s) := by
  unfold State.commsUpdate
  repeat' (first
    | (with_reducible assumption) | (with_reducible exact id)
    | (with_reducible refine State.takesEngine_keeps (hw.of rfl) ?_ _)
    | (with_reducible refine State.setEngine_keeps (hw.of rfl) ?_ _ _) | (with_reducible refine Keeps.ite ?_ ?_)
    | rw [State.put_fcp] | (with_reducible refine Keeps.putFcp (hw.of rfl) ?_ ?_)
    | (with_reducible apply Fcp.pauseAll_bounded) | (with_reducible refine Keeps.foldl _ (fun _ _ _ => ?_) ?_)
    | intro _ | split | dsimp only | exact Session.bounded_of (by assumption) rfl rfl rfl
    | (with_reducible exact Fcp.reset_bounded) | (with_reducible refine Fcp.cleared_bounded ?_)
    | (with_reducible refine Fcp.bounded_rest ?_))

theorem State.resumeSessions_keeps {ps : List Part} {s0 s : State} (hw : Within [.fcp] ps) (h : Keeps ps s0 s)  :
    Keeps ps s0 (State.resumeSessions s) := by
  unfold State.resumeSessions
  repeat' (first
    | (with_reducible assumption) | (with_reducible exact id) | (with_reducible refine Keeps.ite ?_ ?_)
    | rw [State.put_fcp] | (with_reducible refine Keeps.putFcp (hw.of rfl) ?_ ?_)
    | (with_reducible apply Fcp.enterState_bounded) | (with_reducible refine Keeps.foldl _ (fun _ _ _ => ?_) ?_)
    | intro _ | split | dsimp only | exact Session.bounded_of (by assumption) rfl rfl rfl
    | (with_reducible exact Fcp.reset_bounded) | (with_reducible refine Fcp.cleared_bounded ?_)
    | (with_reducible refine Fcp.bounded_rest ?_))

theorem State.engineDone_keeps {ps : List Part} {s0 s : State} (hw : Within [.fcp, .service] ps) (h : Keeps ps s0 s)
    (a2 : FwEngine) (a3 : Bool) :
    Keeps ps s0 (State.engineDone s a2 a3) := by
  unfold State.engineDone
  repeat' (first
    | (with_reducible assumption) | (with_reducible refine State.onActivation_keeps (hw.of rfl) ?_ _)
    | (with_reducible refine State.rollsBack_keeps (hw.of rfl) ?_ _ _ _)
    | (with_reducible refine State.rollSettles_keeps (hw.of rfl) ?_)
    | (with_reducible refine State.event_keeps (hw.of rfl) ?_ _ _) | (with_reducible refine Keeps.ite ?_ ?_)
    | (with_reducible refine Keeps.foldl _ (fun _ _ _ => ?_) ?_) | intro _ | split | dsimp only)

theorem State.commsUpdateDone_keeps {ps : List Part} {s0 s : State} (hw : Within [.fcp, .engines, .service] ps) (h :
    Keeps ps s0 s) (a2 : Bool) :
    Keeps ps s0 (State.commsUpdateDone s a2) := by
  unfold State.commsUpdateDone
  repeat' (first
    | (with_reducible assumption) | (with_reducible refine State.resumeSessions_keeps (hw.of rfl) ?_)
    | (with_reducible refine State.activated_keeps (hw.of rfl) ?_)
    | (with_reducible refine State.activationEnds_keeps (hw.of rfl) ?_ _ _ _ _ _)
    | (with_reducible refine State.setEngine_keeps (hw.of rfl) ?_ _ _)
    | (with_reducible refine State.engineDone_keeps (hw.of rfl) ?_ _ _) | (with_reducible refine Keeps.ite ?_ ?_)
    | (with_reducible refine Keeps.foldl _ (fun _ _ _ => ?_) ?_) | intro _ | split | dsimp only)

theorem State.leafUpdate_keeps {ps : List Part} {s0 s : State} (hw : Within [.free, .doors, .quince, .loop, .outs,
    .fcp, .log, .engines, .service] ps) (h : Keeps ps s0 s) (a2 : DoorIx) :
    Keeps ps s0 (State.leafUpdate s a2) := by
  unfold State.leafUpdate
  repeat' (first
    | (with_reducible assumption) | (with_reducible refine State.takesEngine_keeps (hw.of rfl) ?_ _)
    | (with_reducible refine State.runDoor_keeps (hw.of rfl) ?_ _ _)
    | (with_reducible refine State.setEngine_keeps (hw.of rfl) ?_ _ _) | (with_reducible refine Keeps.ite ?_ ?_)
    | (with_reducible refine Keeps.foldl _ (fun _ _ _ => ?_) ?_) | intro _ | split | dsimp only)

theorem State.leafUpdateDone_keeps {ps : List Part} {s0 s : State} (hw : Within [.free, .doors, .quince, .loop, .outs,
    .fcp, .log, .engines, .service] ps) (h : Keeps ps s0 s) (a2 : DoorIx) (a3 : Bool) :
    Keeps ps s0 (State.leafUpdateDone s a2 a3) := by
  unfold State.leafUpdateDone
  repeat' (first
    | (with_reducible assumption) | (with_reducible refine State.runDoor_keeps (hw.of rfl) ?_ _ _)
    | (with_reducible refine State.setEngine_keeps (hw.of rfl) ?_ _ _)
    | (with_reducible refine State.engineDone_keeps (hw.of rfl) ?_ _ _) | (with_reducible refine Keeps.ite ?_ ?_)
    | (with_reducible refine Keeps.foldl _ (fun _ _ _ => ?_) ?_) | intro _ | split | dsimp only)

theorem State.measuresFreely_keeps {ps : List Part} {s0 s : State} (hw : Within [.loop, .outs, .fcp, .power] ps) (h :
    Keeps ps s0 s)  :
    Keeps ps s0 (State.measuresFreely s) := by
  unfold State.measuresFreely
  repeat' (first
    | (with_reducible assumption) | (with_reducible refine State.measureCartridge_keeps (hw.of rfl) ?_ _ _)
    | (with_reducible refine Keeps.ite ?_ ?_) | (with_reducible refine Keeps.foldl _ (fun _ _ _ => ?_) ?_) | intro _
    | split | dsimp only)

theorem State.selftestEnds_keeps {ps : List Part} {s0 s : State} (hw : Within [.free, .doors, .quince, .loop, .outs,
    .fcp, .log, .power, .service] ps) (h : Keeps ps s0 s) (a2 : Nat) (a3 : List (Fin 4 × Fin 14)) (a4 : Nat) :
    Keeps ps s0 (State.selftestEnds s a2 a3 a4) := by
  unfold State.selftestEnds
  repeat' (first
    | (with_reducible assumption) | (with_reducible exact id)
    | (with_reducible refine State.fresh_keeps (hw.of rfl) ?_)
    | (with_reducible refine State.measuresFreely_keeps (hw.of rfl) ?_)
    | (with_reducible refine State.legFails_keeps (hw.of rfl) ?_ _ _ _)
    | (with_reducible refine State.complete_keeps (hw.of rfl) ?_ _ _ _ _)
    | (with_reducible refine State.runDoor_keeps (hw.of rfl) ?_ _ _) | (with_reducible refine Keeps.ite ?_ ?_)
    | rw [State.put_service] | (with_reducible refine Keeps.putService (hw.of rfl) ?_)
    | (with_reducible refine Keeps.foldl _ (fun _ _ _ => ?_) ?_) | intro _ | split | dsimp only)

theorem State.supvUpdate_keeps {ps : List Part} {s0 s : State} (hw : Within [.free, .doors, .quince, .train, .loop,
    .lsw, .outs, .fcp, .log, .engines, .service] ps) (h : Keeps ps s0 s)  :
    Keeps ps s0 (State.supvUpdate s) := by
  unfold State.supvUpdate
  repeat' (first
    | (with_reducible assumption) | (with_reducible exact id)
    | (with_reducible refine State.groupModes_keeps (hw.of rfl) ?_ _)
    | (with_reducible refine State.supervise_keeps (hw.of rfl) ?_)
    | (with_reducible refine State.takesEngine_keeps (hw.of rfl) ?_ _)
    | (with_reducible refine State.setEngine_keeps (hw.of rfl) ?_ _ _) | (with_reducible refine Keeps.ite ?_ ?_)
    | rw [State.put_loop_lsw_outs] | (with_reducible refine Keeps.putLoop (hw.of rfl) ?_)
    | (with_reducible refine Keeps.putLsw (hw.of rfl) ?_) | (with_reducible refine Keeps.putOuts (hw.of rfl) ?_)
    | (with_reducible refine Keeps.foldl _ (fun _ _ _ => ?_) ?_) | intro _ | split | dsimp only)

theorem State.supvUpdateDone_keeps {ps : List Part} {s0 s : State} (hw : Within [.free, .doors, .quince, .train, .loop,
    .outs, .fcp, .log, .engines, .service] ps) (h : Keeps ps s0 s) (a2 : Bool) :
    Keeps ps s0 (State.supvUpdateDone s a2) := by
  unfold State.supvUpdateDone
  repeat' (first
    | (with_reducible assumption) | (with_reducible exact id)
    | (with_reducible refine State.groupModes_keeps (hw.of rfl) ?_ _)
    | (with_reducible refine State.supervise_keeps (hw.of rfl) ?_)
    | (with_reducible refine State.setEngine_keeps (hw.of rfl) ?_ _ _)
    | (with_reducible refine State.engineDone_keeps (hw.of rfl) ?_ _ _) | (with_reducible refine Keeps.ite ?_ ?_)
    | rw [State.put_loop_outs] | (with_reducible refine Keeps.putLoop (hw.of rfl) ?_)
    | (with_reducible refine Keeps.putOuts (hw.of rfl) ?_)
    | (with_reducible refine Keeps.foldl _ (fun _ _ _ => ?_) ?_) | intro _ | split | dsimp only)

theorem State.updateWaitEnds_keeps {ps : List Part} {s0 s : State} (hw : Within [.fcp, .service] ps) (h : Keeps ps s0
    s)  :
    Keeps ps s0 (State.updateWaitEnds s) := by
  unfold State.updateWaitEnds
  repeat' (first
    | (with_reducible assumption) | (with_reducible refine State.rollsBack_keeps (hw.of rfl) ?_ _ _ _)
    | (with_reducible refine Keeps.ite ?_ ?_) | (with_reducible refine Keeps.foldl _ (fun _ _ _ => ?_) ?_) | intro _
    | split | dsimp only)

end Sys2Proof.Machine
end

