-- ==== Sys2Proof/Laws/KeepsCfgCmds.lean ====
section
/-!
SUPPORT. For every operation of Machine/CfgCmds.lean: the parts of State it may change, and that it keeps the invariant.
-/

set_option linter.unusedVariables false
set_option linter.unusedSimpArgs false

namespace Sys2Proof.Machine

theorem State.commitChecks_keeps {ps : List Part} {s0 s : State} (hw : Within [.fcp, .config] ps) (h : Keeps ps s0 s)
    (a2 : SessIx) (a3 : Bool) (a4 : Bool) (a5 : Nat) (a6 : Nat) :
    Keeps ps s0 (State.commitChecks s a2 a3 a4 a5 a6) := by
  unfold State.commitChecks
  repeat' (first
    | (with_reducible assumption) | (with_reducible exact id)
    | (with_reducible refine State.complete_keeps (hw.of rfl) ?_ _ _ _ _) | (with_reducible refine Keeps.ite ?_ ?_)
    | rw [State.put_config] | (with_reducible refine Keeps.putConfig (hw.of rfl) ?_)
    | (with_reducible refine Keeps.foldl _ (fun _ _ _ => ?_) ?_) | intro _ | split | dsimp only)

theorem Req.cfgCommit_keeps {ps : List Part} (hw : Within [.fcp, .config] ps) (a1 : List Byte) (a2 : Nat) (a3 : Nat) :
    ReqKeeps ps (Req.cfgCommit a1 a2 a3) := by
  intro _ _ s0 s h
  unfold Req.cfgCommit Req.plain
  dsimp only
  repeat' (first
    | (with_reducible assumption) | (with_reducible exact id)
    | (with_reducible refine State.commitChecks_keeps (hw.of rfl) ?_ _ _ _ _ _)
    | (with_reducible refine State.answers_keeps ?_ _) | (with_reducible refine State.accepts_keeps (hw.of rfl) ?_ ?_)
    | (with_reducible refine ReplyKeeps.ite ?_ ?_) | (with_reducible refine Keeps.ite ?_ ?_)
    | (with_reducible refine Keeps.foldl _ (fun _ _ _ => ?_) ?_) | intro _ | split | dsimp only
    | (with_reducible refine ReplyKeeps.mk ?_ ?_) | rw [id])

theorem Req.cfgLoadBlock_keeps {ps : List Part} (hw : Within [.config] ps) (a1 : List Byte) (a2 : Nat) (a3 : Nat) (a4 :
    List Byte) : ReqKeeps ps (Req.cfgLoadBlock a1 a2 a3 a4) := by
  intro _ _ s0 s h
  unfold Req.cfgLoadBlock Req.plain
  dsimp only
  repeat' (first
    | (with_reducible assumption) | (with_reducible exact id) | (with_reducible refine State.answers_keeps ?_ _)
    | (with_reducible refine ReplyKeeps.ite ?_ ?_) | (with_reducible refine Keeps.ite ?_ ?_) | rw [State.put_config]
    | (with_reducible refine Keeps.putConfig (hw.of rfl) ?_)
    | (with_reducible refine Keeps.foldl _ (fun _ _ _ => ?_) ?_) | intro _ | split | dsimp only
    | (with_reducible refine ReplyKeeps.mk ?_ ?_) | rw [id])

theorem Req.cfgRead_keeps {ps : List Part} (hw : Within [] ps) (a1 : List Byte) (a2 : Nat) (a3 : Nat) (a4 : Nat) :
    ReqKeeps ps (Req.cfgRead a1 a2 a3 a4) := by
  intro _ _ s0 s h
  unfold Req.cfgRead Req.plain
  dsimp only
  repeat' (first
    | (with_reducible assumption) | (with_reducible refine State.answers_keeps ?_ _)
    | (with_reducible refine ReplyKeeps.ite ?_ ?_) | (with_reducible refine Keeps.ite ?_ ?_)
    | (with_reducible refine Keeps.foldl _ (fun _ _ _ => ?_) ?_) | intro _ | split | dsimp only
    | (with_reducible refine ReplyKeeps.mk ?_ ?_) | rw [id])

theorem State.closeRebound_keeps {ps : List Part} {s0 s : State} (hw : Within [.fcp, .service, .config] ps) (h : Keeps
    ps s0 s) (a2 : Cfg) :
    Keeps ps s0 (State.closeRebound s a2) := by
  unfold State.closeRebound
  repeat' (first
    | (with_reducible assumption) | (with_reducible refine State.closeSession_keeps (hw.of rfl) ?_ _ _)
    | (with_reducible refine Keeps.ite ?_ ?_) | (with_reducible refine Keeps.foldl _ (fun _ _ _ => ?_) ?_) | intro _
    | split | dsimp only)

theorem State.swapRest_keeps {ps : List Part} {s0 s : State} (hw : Within [.encoders, .loop, .fcp] ps) (h : Keeps ps s0
    s)  :
    Keeps ps s0 (State.swapRest s) := by
  unfold State.swapRest
  repeat' (first
    | (with_reducible assumption) | (with_reducible exact id) | (with_reducible refine Keeps.ite ?_ ?_)
    | rw [State.put_encoders_loop_fcp] | (with_reducible refine Keeps.putEncoders (hw.of rfl) ?_)
    | (with_reducible refine Keeps.putLoop (hw.of rfl) ?_) | (with_reducible refine Keeps.putFcp (hw.of rfl) ?_ ?_)
    | (with_reducible apply Fcp.setCommanders_bounded) | (with_reducible refine Keeps.foldl _ (fun _ _ _ => ?_) ?_)
    | intro _ | split | dsimp only | exact Session.bounded_of (by assumption) rfl rfl rfl
    | (with_reducible exact Fcp.reset_bounded) | (with_reducible refine Fcp.cleared_bounded ?_)
    | (with_reducible refine Fcp.bounded_rest ?_))

theorem State.swapDoor_keeps {ps : List Part} {s0 s : State} (hw : Within [.doors, .quince, .loop, .outs, .fcp, .log,
    .service] ps) (h : Keeps ps s0 s) (a1 : Cfg) (a2 : Cfg) (a4 : DoorIx) :
    Keeps ps s0 (State.swapDoor a1 a2 s a4) := by
  unfold State.swapDoor
  repeat' (first
    | (with_reducible assumption)
    | (with_reducible exact id)
    | (with_reducible refine State.changeDoor_keeps (hw.of rfl) ?_ _ _)
    | (with_reducible refine State.onDoor_keeps (hw.of rfl) ?_ _ _)
    | (with_reducible refine Keeps.ite ?_ ?_)
    | (with_reducible refine Keeps.foldl _ (fun _ _ _ => ?_) ?_)
    | intro _
    | split
    | dsimp only)

theorem State.swapDomains_keeps {ps : List Part} {s0 s : State} (hw : Within [.doors, .ring, .can, .power, .engines]
    ps) (h : Keeps ps s0 s) (a2 : Power) :
    Keeps ps s0 (State.swapDomains s a2) := by
  unfold State.swapDomains
  repeat' (first
    | (with_reducible assumption) | (with_reducible exact id) | (with_reducible refine Keeps.ite ?_ ?_)
    | rw [State.put_doors_ring_can_power_engines] | (with_reducible refine Keeps.putDoors (hw.of rfl) ?_)
    | (with_reducible refine Keeps.putRing (hw.of rfl) ?_) | (with_reducible refine Keeps.putCan (hw.of rfl) ?_)
    | (with_reducible refine Keeps.putPower (hw.of rfl) ?_)
    | (with_reducible refine Keeps.putEngines (hw.of rfl) ?_ ?_) | (with_reducible apply Engines.unpowered_memOk)
    | exact Engines.memOk_same (by assumption) rfl | exact App.mem_same (by assumption) rfl
    | exact App.mem_same (by assumption) (App.post_mem _ _ _) | (with_reducible apply Memory.writeMany_wf)
    | (with_reducible refine Keeps.foldl _ (fun _ _ _ => ?_) ?_) | intro _ | split | dsimp only)

theorem State.swapModel_keeps {ps : List Part} {s0 s : State} (hw : Within [.doors, .quince, .loop, .outs, .fcp, .log,
    .ring, .can, .power, .engines, .service, .config] ps) (h : Keeps ps s0 s) :
    Keeps ps s0 (State.swapModel s) := by
  unfold State.swapModel
  repeat' (first
    | (with_reducible assumption)
    | (with_reducible exact id)
    | (with_reducible refine State.swapDoor_keeps (hw.of rfl) ?_ _ _ _)
    | (with_reducible refine State.swapDomains_keeps (hw.of rfl) ?_ _)
    | (with_reducible refine State.closeRebound_keeps (hw.of rfl) ?_ _)
    | (with_reducible refine Keeps.ite ?_ ?_)
    | rw [State.put_config]
    | (with_reducible refine Keeps.putConfig (hw.of rfl) ?_)
    | (with_reducible refine Keeps.foldl _ (fun _ _ _ => ?_) ?_)
    | intro _
    | split
    | dsimp only)

theorem State.swaps_keeps {ps : List Part} {s0 s : State} (hw : Within [.free, .doors, .encoders, .quince, .loop,
    .outs, .fcp, .log, .ring, .can, .power, .engines, .service, .config] ps) (h : Keeps ps s0 s) (a2 : Commit) :
    Keeps ps s0 (State.swaps s a2) := by
  unfold State.swaps
  repeat' (first
    | (with_reducible assumption) | (with_reducible refine State.fresh_keeps (hw.of rfl) ?_)
    | (with_reducible refine State.supervise_keeps (hw.of rfl) ?_)
    | (with_reducible refine State.complete_keeps (hw.of rfl) ?_ _ _ _ _)
    | (with_reducible refine State.swapRest_keeps (hw.of rfl) ?_)
    | (with_reducible refine State.swapModel_keeps (hw.of rfl) ?_)
    | (with_reducible refine State.event_keeps (hw.of rfl) ?_ _ _) | (with_reducible refine Keeps.ite ?_ ?_)
    | (with_reducible refine Keeps.foldl _ (fun _ _ _ => ?_) ?_) | intro _ | split | dsimp only)

theorem State.safePoint_keeps {ps : List Part} {s0 s : State} (hw : Within [.free, .half, .doors, .encoders, .quince,
    .train, .loop, .lsw, .outs, .fcp, .log, .ring, .can, .power, .engines, .service, .config] ps) (h : Keeps ps s0 s)  :
    Keeps ps s0 (State.safePoint s) := by
  unfold State.safePoint
  repeat' (first
    | (with_reducible assumption) | (with_reducible refine State.swaps_keeps (hw.of rfl) ?_ _)
    | (with_reducible refine State.activationRestarts_keeps (hw.of rfl) ?_) | (with_reducible refine Keeps.ite ?_ ?_)
    | (with_reducible refine Keeps.foldl _ (fun _ _ _ => ?_) ?_) | intro _ | split | dsimp only)

theorem State.safePointTimeout_keeps {ps : List Part} {s0 s : State} (hw : Within [.fcp, .config] ps) (h : Keeps ps s0
    s)  :
    Keeps ps s0 (State.safePointTimeout s) := by
  unfold State.safePointTimeout
  repeat' (first
    | (with_reducible assumption) | (with_reducible exact id)
    | (with_reducible refine State.complete_keeps (hw.of rfl) ?_ _ _ _ _) | (with_reducible refine Keeps.ite ?_ ?_)
    | rw [State.put_config] | (with_reducible refine Keeps.putConfig (hw.of rfl) ?_)
    | (with_reducible refine Keeps.foldl _ (fun _ _ _ => ?_) ?_) | intro _ | split | dsimp only)

end Sys2Proof.Machine
end

