-- ==== Sys2Proof/Laws/KeepsNetCmds.lean ====
section
/-!
SUPPORT. For every operation of Machine/NetCmds.lean: the parts of State it may change, and that it keeps the invariant.
-/

set_option linter.unusedVariables false
set_option linter.unusedSimpArgs false

namespace Sys2Proof.Machine

theorem State.appStarts_keeps {ps : List Part} {s0 s : State} (hw : Within [.fcp, .engines] ps) (h : Keeps ps s0 s)  :
    Keeps ps s0 (State.appStarts s) := by
  unfold State.appStarts
  repeat' (first
    | (with_reducible assumption) | (with_reducible exact id)
    | (with_reducible refine State.events_keeps (hw.of rfl) ?_ _) | (with_reducible refine Keeps.ite ?_ ?_)
    | rw [State.put_engines] | (with_reducible refine Keeps.putEngines (hw.of rfl) ?_ ?_)
    | (with_reducible apply Engines.appStart_memOk) | exact Engines.memOk_same (by assumption) rfl
    | exact App.mem_same (by assumption) rfl | exact App.mem_same (by assumption) (App.post_mem _ _ _)
    | (with_reducible apply Memory.writeMany_wf) | (with_reducible refine Keeps.foldl _ (fun _ _ _ => ?_) ?_)
    | intro _ | split | dsimp only)

theorem State.appEnds_keeps {ps : List Part} {s0 s : State} (hw : Within [.fcp, .can, .engines, .service, .config] ps)
    (h : Keeps ps s0 s) (a2 : Nat) :
    Keeps ps s0 (State.appEnds s a2) := by
  unfold State.appEnds
  repeat' (first
    | (with_reducible assumption) | (with_reducible exact id)
    | (with_reducible refine State.closeSession_keeps (hw.of rfl) ?_ _ _)
    | (with_reducible refine State.events_keeps (hw.of rfl) ?_ _) | (with_reducible refine Keeps.ite ?_ ?_)
    | rw [State.put_can_engines] | (with_reducible refine Keeps.putCan (hw.of rfl) ?_)
    | (with_reducible refine Keeps.putEngines (hw.of rfl) ?_ ?_) | (with_reducible apply Engines.appEnd_memOk)
    | exact Engines.memOk_same (by assumption) rfl | exact App.mem_same (by assumption) rfl
    | exact App.mem_same (by assumption) (App.post_mem _ _ _) | (with_reducible apply Memory.writeMany_wf)
    | (with_reducible refine Keeps.foldl _ (fun _ _ _ => ?_) ?_) | intro _ | split | dsimp only)

theorem State.appControl_keeps {ps : List Part} {s0 s : State} (hw : Within [.fcp, .can, .engines, .service, .config]
    ps) (h : Keeps ps s0 s) (a2 : Nat) :
    Keeps ps s0 (State.appControl s a2) := by
  unfold State.appControl
  repeat' (first
    | (with_reducible assumption) | (with_reducible exact id)
    | (with_reducible refine State.appStarts_keeps (hw.of rfl) ?_)
    | (with_reducible refine State.appEnds_keeps (hw.of rfl) ?_ _) | (with_reducible refine Keeps.ite ?_ ?_)
    | rw [State.put_engines] | (with_reducible refine Keeps.putEngines (hw.of rfl) ?_ ?_)
    | (with_reducible refine Engines.onApp_memOk ?_ ?_) | exact Engines.memOk_same (by assumption) rfl
    | exact App.mem_same (by assumption) rfl | exact App.mem_same (by assumption) (App.post_mem _ _ _)
    | (with_reducible apply Memory.writeMany_wf) | (with_reducible refine Keeps.foldl _ (fun _ _ _ => ?_) ?_)
    | intro _ | split | dsimp only)

theorem Req.appControl_keeps {ps : List Part} (hw : Within [.fcp, .can, .engines, .service, .config] ps) (a1 : List
    Byte) (a2 : Nat) : ReqKeeps ps (Req.appControl a1 a2) := by
  intro _ _ s0 s h
  unfold Req.appControl Req.plain
  dsimp only
  repeat' (first
    | (with_reducible assumption) | (with_reducible refine State.appControl_keeps (hw.of rfl) ?_ _)
    | (with_reducible refine State.answers_keeps ?_ _) | (with_reducible refine ReplyKeeps.ite ?_ ?_)
    | (with_reducible refine Keeps.ite ?_ ?_) | (with_reducible refine Keeps.foldl _ (fun _ _ _ => ?_) ?_) | intro _
    | split | dsimp only | (with_reducible refine ReplyKeeps.mk ?_ ?_) | rw [id])

theorem State.appStore_keeps {ps : List Part} {s0 s : State} (hw : Within [.fcp, .engines] ps) (h : Keeps ps s0 s) (a2
    : AppState) (a3 : List Byte) (a4 : List Byte) :
    Keeps ps s0 (State.appStore s a2 a3 a4) := by
  unfold State.appStore
  repeat' (first
    | (with_reducible assumption) | (with_reducible exact id)
    | (with_reducible refine State.event_keeps (hw.of rfl) ?_ _ _) | (with_reducible refine Keeps.ite ?_ ?_)
    | rw [State.put_engines] | (with_reducible refine Keeps.putEngines (hw.of rfl) ?_ ?_)
    | (with_reducible refine Engines.onApp_memOk ?_ ?_) | exact Engines.memOk_same (by assumption) rfl
    | exact App.mem_same (by assumption) rfl | exact App.mem_same (by assumption) (App.post_mem _ _ _)
    | (with_reducible apply Memory.writeMany_wf) | (with_reducible refine Keeps.foldl _ (fun _ _ _ => ?_) ?_)
    | intro _ | split | dsimp only)

theorem State.appLoad_keeps {ps : List Part} {s0 s : State} (hw : Within [.fcp, .engines] ps) (h : Keeps ps s0 s) (a2 :
    Bool) (a3 : Bool) (a4 : List Byte) :
    ReplyKeeps ps s0 (State.appLoad s a2 a3 a4) := by
  unfold State.appLoad
  repeat' (first
    | (with_reducible assumption) | (with_reducible refine State.answers_keeps ?_ _)
    | (with_reducible refine State.appStore_keeps (hw.of rfl) ?_ _ _ _) | (with_reducible refine ReplyKeeps.ite ?_ ?_)
    | (with_reducible refine Keeps.ite ?_ ?_) | (with_reducible refine Keeps.foldl _ (fun _ _ _ => ?_) ?_) | intro _
    | split | dsimp only | (with_reducible refine ReplyKeeps.mk ?_ ?_) | rw [id])

theorem Req.appLoad_keeps {ps : List Part} (hw : Within [.fcp, .engines] ps) (a1 : List Byte) (a2 : Nat) (a3 : Nat) (a4
    : List Byte) : ReqKeeps ps (Req.appLoad a1 a2 a3 a4) := by
  intro _ _ s0 s h
  unfold Req.appLoad Req.plain
  dsimp only
  repeat' (first
    | (with_reducible assumption) | (with_reducible refine State.answers_keeps ?_ _)
    | (with_reducible refine State.appLoad_keeps (hw.of rfl) ?_ _ _ _) | (with_reducible refine ReplyKeeps.ite ?_ ?_)
    | (with_reducible refine Keeps.ite ?_ ?_) | (with_reducible refine Keeps.foldl _ (fun _ _ _ => ?_) ?_) | intro _
    | split | dsimp only | (with_reducible refine ReplyKeeps.mk ?_ ?_) | rw [id])

theorem Req.canStatus_keeps {ps : List Part} (hw : Within [] ps) (a1 : List Byte) (a2 : Nat) : ReqKeeps ps
    (Req.canStatus a1 a2) := by
  intro _ _ s0 s h
  unfold Req.canStatus Req.plain
  dsimp only
  repeat' (first
    | (with_reducible assumption) | (with_reducible refine State.answers_keeps ?_ _)
    | (with_reducible refine ReplyKeeps.ite ?_ ?_) | (with_reducible refine Keeps.ite ?_ ?_)
    | (with_reducible refine Keeps.foldl _ (fun _ _ _ => ?_) ?_) | intro _ | split | dsimp only
    | (with_reducible refine ReplyKeeps.mk ?_ ?_) | rw [id])

theorem Req.consistView_keeps {ps : List Part} (hw : Within [] ps) (a1 : List Byte) (a2 : Nat) : ReqKeeps ps
    (Req.consistView a1 a2) := by
  intro _ _ s0 s h
  unfold Req.consistView Req.plain
  dsimp only
  repeat' (first
    | (with_reducible assumption) | (with_reducible refine State.answers_keeps ?_ _)
    | (with_reducible refine ReplyKeeps.ite ?_ ?_) | (with_reducible refine Keeps.ite ?_ ?_)
    | (with_reducible refine Keeps.foldl _ (fun _ _ _ => ?_) ?_) | intro _ | split | dsimp only
    | (with_reducible refine ReplyKeeps.mk ?_ ?_) | rw [id])

theorem Req.ringStatus_keeps {ps : List Part} (hw : Within [] ps) (a1 : List Byte) : ReqKeeps ps (Req.ringStatus a1) := by
  intro _ _ s0 s h
  unfold Req.ringStatus Req.plain
  dsimp only
  repeat' (first
    | (with_reducible assumption) | (with_reducible refine State.answers_keeps ?_ _)
    | (with_reducible refine ReplyKeeps.ite ?_ ?_) | (with_reducible refine Keeps.ite ?_ ?_)
    | (with_reducible refine Keeps.foldl _ (fun _ _ _ => ?_) ?_) | intro _ | split | dsimp only
    | (with_reducible refine ReplyKeeps.mk ?_ ?_) | rw [id])

theorem Req.schedLoad_keeps {ps : List Part} (hw : Within [.can] ps) (a1 : List Byte) (a2 : Nat) (a3 : List Byte) :
    ReqKeeps ps (Req.schedLoad a1 a2 a3) := by
  intro _ _ s0 s h
  unfold Req.schedLoad Req.plain
  dsimp only
  repeat' (first
    | (with_reducible assumption) | (with_reducible exact id) | (with_reducible refine State.answers_keeps ?_ _)
    | (with_reducible refine ReplyKeeps.ite ?_ ?_) | (with_reducible refine Keeps.ite ?_ ?_) | rw [State.put_can]
    | (with_reducible refine Keeps.putCan (hw.of rfl) ?_) | (with_reducible refine Keeps.foldl _ (fun _ _ _ => ?_) ?_)
    | intro _ | split | dsimp only | (with_reducible refine ReplyKeeps.mk ?_ ?_) | rw [id])

end Sys2Proof.Machine
end

