-- ==== Sys2Proof/Laws/KeepsSessionCmds.lean ====
section
/-!
SUPPORT. For every operation of Machine/SessionCmds.lean: the parts of State it may change, and that it keeps the invariant.
-/

set_option linter.unusedVariables false
set_option linter.unusedSimpArgs false

namespace Sys2Proof.Machine

theorem State.abortMaint_keeps {ps : List Part} {s0 s : State} (hw : Within [.free, .doors, .quince, .loop, .outs,
    .fcp, .log, .service] ps) (h : Keeps ps s0 s) (a2 : SessIx) (a3 : Nat) (a4 : (DoorEnv → Work → Work)) :
    Keeps ps s0 (State.abortMaint s a2 a3 a4).1 := by
  unfold State.abortMaint
  repeat' (first
    | (with_reducible assumption) | (with_reducible refine State.runDoor_keeps (hw.of rfl) ?_ _ _)
    | (with_reducible refine Keeps.ite ?_ ?_) | (with_reducible refine Keeps.foldl _ (fun _ _ _ => ?_) ?_) | intro _
    | split | dsimp only)

theorem State.abortDoor_keeps {ps : List Part} {s0 s : State} (hw : Within [.free, .doors, .quince, .loop, .outs, .fcp,
    .log, .service] ps) (h : Keeps ps s0 s) (a2 : Nat) (a3 : Cause) (a4 : DoorIx) :
    Keeps ps s0 (State.abortDoor s a2 a3 a4) := by
  unfold State.abortDoor
  repeat' (first
    | (with_reducible assumption) | (with_reducible exact id)
    | (with_reducible refine State.runDoor_keeps (hw.of rfl) ?_ _ _) | (with_reducible refine Keeps.ite ?_ ?_)
    | rw [State.put_fcp] | (with_reducible refine Keeps.putFcp (hw.of rfl) ?_ ?_)
    | (with_reducible apply Fcp.onOp_bounded) | (with_reducible refine Keeps.foldl _ (fun _ _ _ => ?_) ?_) | intro _
    | split | dsimp only | exact Session.bounded_of (by assumption) rfl rfl rfl
    | (with_reducible exact Fcp.reset_bounded) | (with_reducible refine Fcp.cleared_bounded ?_)
    | (with_reducible refine Fcp.bounded_rest ?_))

theorem State.abortDoors_keeps {ps : List Part} {s0 s : State} (hw : Within [.free, .doors, .quince, .loop, .outs,
    .fcp, .log, .service] ps) (h : Keeps ps s0 s) (a2 : SessIx) (a3 : Operation) (a4 : Cause) :
    Keeps ps s0 (State.abortDoors s a2 a3 a4).1 := by
  unfold State.abortDoors
  repeat' (first
    | (with_reducible assumption) | (with_reducible refine State.abortDoor_keeps (hw.of rfl) ?_ _ _ _)
    | (with_reducible refine State.settleOp_keeps (hw.of rfl) ?_ _) | (with_reducible refine Keeps.ite ?_ ?_)
    | (with_reducible refine Keeps.foldl _ (fun _ _ _ => ?_) ?_) | intro _ | split | dsimp only)

theorem State.commitAborts_keeps {ps : List Part} {s0 s : State} (hw : Within [.fcp, .config] ps) (h : Keeps ps s0 s)  :
    Keeps ps s0 (State.commitAborts s) := by
  unfold State.commitAborts
  repeat' (first
    | (with_reducible assumption) | (with_reducible exact id)
    | (with_reducible refine State.complete_keeps (hw.of rfl) ?_ _ _ _ _) | (with_reducible refine Keeps.ite ?_ ?_)
    | rw [State.put_config] | (with_reducible refine Keeps.putConfig (hw.of rfl) ?_)
    | (with_reducible refine Keeps.foldl _ (fun _ _ _ => ?_) ?_) | intro _ | split | dsimp only)

theorem State.abortOp_keeps {ps : List Part} {s0 s : State} (hw : Within [.free, .doors, .quince, .loop, .outs, .fcp,
    .log, .power, .service, .config] ps) (h : Keeps ps s0 s) (a2 : SessIx) (a3 : Operation) :
    Keeps ps s0 (State.abortOp s a2 a3).1 := by
  unfold State.abortOp
  repeat' (first
    | (with_reducible assumption) | (with_reducible exact id)
    | (with_reducible refine State.subAborts_keeps (hw.of rfl) ?_ _ _ _)
    | (with_reducible refine State.abortMaint_keeps (hw.of rfl) ?_ _ _ _)
    | (with_reducible refine State.abortDoors_keeps (hw.of rfl) ?_ _ _ _)
    | (with_reducible refine State.activationAborts_keeps (hw.of rfl) ?_)
    | (with_reducible refine State.entryChecks_keeps (hw.of rfl) ?_)
    | (with_reducible refine State.onPower_keeps (hw.of rfl) ?_ _)
    | (with_reducible refine State.commitAborts_keeps (hw.of rfl) ?_) | (with_reducible refine Keeps.ite ?_ ?_)
    | rw [State.put_service] | (with_reducible refine Keeps.putService (hw.of rfl) ?_)
    | (with_reducible refine Keeps.foldl _ (fun _ _ _ => ?_) ?_) | intro _ | split | dsimp only)

theorem Req.abort_keeps {ps : List Part} (hw : Within [.free, .doors, .quince, .loop, .outs, .fcp, .log, .power,
    .service, .config] ps) (a1 : List Byte) (a2 : Nat) : ReqKeeps ps (Req.abort a1 a2) := by
  intro _ _ s0 s h
  unfold Req.abort Req.plain
  dsimp only
  repeat' (first
    | (with_reducible assumption) | (with_reducible exact id) | (with_reducible refine State.answers_keeps ?_ _)
    | (with_reducible refine State.abortOp_keeps (hw.of rfl) ?_ _ _) | (with_reducible refine ReplyKeeps.ite ?_ ?_)
    | (with_reducible refine Keeps.ite ?_ ?_) | rw [State.put_fcp]
    | (with_reducible refine Keeps.putFcp (hw.of rfl) ?_ ?_) | (with_reducible apply Fcp.onOp_bounded)
    | (with_reducible refine Keeps.foldl _ (fun _ _ _ => ?_) ?_) | intro _ | split | dsimp only
    | (with_reducible refine ReplyKeeps.mk ?_ ?_) | rw [id] | exact Session.bounded_of (by assumption) rfl rfl rfl
    | (with_reducible exact Fcp.reset_bounded) | (with_reducible refine Fcp.cleared_bounded ?_)
    | (with_reducible refine Fcp.bounded_rest ?_))

theorem Req.commandClaim_keeps {ps : List Part} (hw : Within [.fcp] ps) (a1 : List Byte) (a2 : Nat) : ReqKeeps ps
    (Req.commandClaim a1 a2) := by
  intro _ _ s0 s h
  unfold Req.commandClaim Req.plain
  dsimp only
  repeat' (first
    | (with_reducible assumption) | (with_reducible exact id) | (with_reducible refine State.answers_keeps ?_ _)
    | (with_reducible refine ReplyKeeps.ite ?_ ?_) | (with_reducible refine Keeps.ite ?_ ?_) | rw [State.put_fcp]
    | (with_reducible refine Keeps.putFcp (hw.of rfl) ?_ ?_) | (with_reducible apply Fcp.claim_bounded)
    | (with_reducible apply Session.answer_bounded) | (with_reducible refine Keeps.foldl _ (fun _ _ _ => ?_) ?_)
    | intro _ | split | dsimp only | (with_reducible refine ReplyKeeps.mk ?_ ?_) | rw [id]
    | exact Session.bounded_of (by assumption) rfl rfl rfl | (with_reducible exact Fcp.reset_bounded)
    | (with_reducible refine Fcp.cleared_bounded ?_) | (with_reducible refine Fcp.bounded_rest ?_))

theorem Req.commandYield_keeps {ps : List Part} (hw : Within [.fcp] ps) (a1 : List Byte) (a2 : Nat) : ReqKeeps ps
    (Req.commandYield a1 a2) := by
  intro _ _ s0 s h
  unfold Req.commandYield Req.plain
  dsimp only
  repeat' (first
    | (with_reducible assumption) | (with_reducible exact id) | (with_reducible refine ReplyKeeps.ite ?_ ?_)
    | (with_reducible refine Keeps.ite ?_ ?_) | rw [State.put_fcp]
    | (with_reducible refine Keeps.putFcp (hw.of rfl) ?_ ?_) | (with_reducible apply Fcp.setCommanders_bounded)
    | (with_reducible apply Session.answer_bounded) | (with_reducible refine Keeps.foldl _ (fun _ _ _ => ?_) ?_)
    | intro _ | split | dsimp only | (with_reducible refine ReplyKeeps.mk ?_ ?_) | rw [id]
    | exact Session.bounded_of (by assumption) rfl rfl rfl | (with_reducible exact Fcp.reset_bounded)
    | (with_reducible refine Fcp.cleared_bounded ?_) | (with_reducible refine Fcp.bounded_rest ?_))

theorem Req.eventReplay_keeps {ps : List Part} (hw : Within [.fcp] ps) (a1 : List Byte) (a2 : Nat) (a3 : Nat) :
    ReqKeeps ps (Req.eventReplay a1 a2 a3) := by
  intro _ _ s0 s h
  unfold Req.eventReplay Req.plain
  dsimp only
  repeat' (first
    | (with_reducible assumption) | (with_reducible exact id) | (with_reducible refine State.answers_keeps ?_ _)
    | (with_reducible refine State.onSession_keeps (hw.of rfl) ?_ ?_) | (with_reducible refine ReplyKeeps.ite ?_ ?_)
    | (with_reducible refine Keeps.ite ?_ ?_) | (with_reducible refine Keeps.foldl _ (fun _ _ _ => ?_) ?_) | intro _
    | split | dsimp only | (with_reducible refine ReplyKeeps.mk ?_ ?_) | rw [id]
    | exact Session.bounded_of (by assumption) rfl rfl rfl | (with_reducible exact Fcp.reset_bounded)
    | (with_reducible refine Fcp.cleared_bounded ?_) | (with_reducible refine Fcp.bounded_rest ?_))

theorem Req.resultFetch_keeps {ps : List Part} (hw : Within [.fcp] ps) (a1 : List Byte) (a2 : Nat) : ReqKeeps ps
    (Req.resultFetch a1 a2) := by
  intro _ _ s0 s h
  unfold Req.resultFetch Req.plain
  dsimp only
  repeat' (first
    | (with_reducible assumption) | (with_reducible exact id) | (with_reducible refine State.answers_keeps ?_ _)
    | (with_reducible refine ReplyKeeps.ite ?_ ?_) | (with_reducible refine Keeps.ite ?_ ?_) | rw [State.put_fcp]
    | (with_reducible refine Keeps.putFcp (hw.of rfl) ?_ ?_) | (with_reducible apply Fcp.onOp_bounded)
    | (with_reducible refine Keeps.foldl _ (fun _ _ _ => ?_) ?_) | intro _ | split | dsimp only
    | (with_reducible refine ReplyKeeps.mk ?_ ?_) | rw [id] | exact Session.bounded_of (by assumption) rfl rfl rfl
    | (with_reducible exact Fcp.reset_bounded) | (with_reducible refine Fcp.cleared_bounded ?_)
    | (with_reducible refine Fcp.bounded_rest ?_))

theorem Req.sessionAuth_keeps {ps : List Part} (hw : Within [.fcp] ps) (a1 : List Byte) (a2 : List Byte) : ReqKeeps ps
    (Req.sessionAuth a1 a2) := by
  intro _ _ s0 s h
  unfold Req.sessionAuth Req.plain
  dsimp only
  repeat' (first
    | (with_reducible assumption) | (with_reducible exact id) | (with_reducible refine State.answers_keeps ?_ _)
    | (with_reducible refine State.onSession_keeps (hw.of rfl) ?_ ?_)
    | (with_reducible refine State.countFcp_keeps (hw.of rfl) ?_ _) | (with_reducible refine ReplyKeeps.ite ?_ ?_)
    | (with_reducible refine Keeps.ite ?_ ?_) | (with_reducible refine Keeps.foldl _ (fun _ _ _ => ?_) ?_) | intro _
    | split | dsimp only | (with_reducible refine ReplyKeeps.mk ?_ ?_) | rw [id]
    | exact Session.bounded_of (by assumption) rfl rfl rfl | (with_reducible exact Fcp.reset_bounded)
    | (with_reducible refine Fcp.cleared_bounded ?_) | (with_reducible refine Fcp.bounded_rest ?_))

theorem Req.sessionClose_keeps {ps : List Part} (hw : Within [.fcp, .service, .config] ps) (a1 : List Byte) : ReqKeeps
    ps (Req.sessionClose a1) := by
  intro _ _ s0 s h
  unfold Req.sessionClose Req.plain
  dsimp only
  repeat' (first
    | (with_reducible assumption) | (with_reducible refine State.closeSession_keeps (hw.of rfl) ?_ _ _)
    | (with_reducible refine ReplyKeeps.ite ?_ ?_) | (with_reducible refine Keeps.ite ?_ ?_)
    | (with_reducible refine Keeps.foldl _ (fun _ _ _ => ?_) ?_) | intro _ | split | dsimp only
    | (with_reducible refine ReplyKeeps.mk ?_ ?_) | rw [id])

theorem State.opened_keeps {ps : List Part} {s0 s : State} (hw : Within [.fcp] ps) (h : Keeps ps s0 s) (a2 : SessIx)
    (a3 : SessState) :
    Keeps ps s0 (State.opened s a2 a3) := by
  unfold State.opened
  repeat' (first
    | (with_reducible assumption) | (with_reducible exact id) | (with_reducible refine Keeps.ite ?_ ?_)
    | rw [State.put_fcp] | (with_reducible refine Keeps.putFcp (hw.of rfl) ?_ ?_)
    | (with_reducible apply Fcp.eventState_bounded) | (with_reducible apply Fcp.takePrimaries_bounded)
    | (with_reducible refine Keeps.foldl _ (fun _ _ _ => ?_) ?_) | intro _ | split | dsimp only
    | exact Session.bounded_of (by assumption) rfl rfl rfl | (with_reducible exact Fcp.reset_bounded)
    | (with_reducible refine Fcp.cleared_bounded ?_) | (with_reducible refine Fcp.bounded_rest ?_))

theorem State.opens_keeps {ps : List Part} {s0 s : State} (hw : Within [.free, .fcp] ps) (h : Keeps ps s0 s) {i :
    SessIx} {r : Bool}
    {f : Session → Session} (hf : ∀ z : Session, z.bounded → (f z).bounded) : ReplyKeeps ps s0 (s.opens i r f) :=
  ⟨State.fresh_keeps (hw.of rfl) (State.onSession_keeps (hw.of rfl) h (fun z hz => Session.openWith_bounded (hf z hz) _
    _)),
    fun _ ht => State.opened_keeps (hw.of rfl) ht _ _⟩

theorem Req.sessionOpen_keeps {ps : List Part} (hw : Within [.free, .fcp] ps) (a1 : List Byte) (a2 : Nat) (a3 : Nat)
    (a4 : Nat) : ReqKeeps ps (Req.sessionOpen a1 a2 a3 a4) := by
  intro _ _ s0 s h
  unfold Req.sessionOpen Req.plain
  dsimp only
  repeat' (first
    | (with_reducible assumption) | (with_reducible exact id)
    | (with_reducible refine State.opens_keeps (hw.of rfl) ?_ ?_) | (with_reducible refine State.answers_keeps ?_ _)
    | (with_reducible refine ReplyKeeps.ite ?_ ?_) | (with_reducible refine Keeps.ite ?_ ?_)
    | (with_reducible apply Session.openFresh_bounded) | (with_reducible refine Keeps.foldl _ (fun _ _ _ => ?_) ?_)
    | intro _ | split | dsimp only | (with_reducible refine ReplyKeeps.mk ?_ ?_) | rw [id]
    | exact Session.bounded_of (by assumption) rfl rfl rfl | (with_reducible exact Fcp.reset_bounded)
    | (with_reducible refine Fcp.cleared_bounded ?_) | (with_reducible refine Fcp.bounded_rest ?_))

theorem Req.sessionState_keeps {ps : List Part} (hw : Within [] ps) (a1 : List Byte) : ReqKeeps ps (Req.sessionState
    a1) := by
  intro _ _ s0 s h
  unfold Req.sessionState Req.plain
  dsimp only
  repeat' (first
    | (with_reducible assumption) | (with_reducible refine State.answers_keeps ?_ _)
    | (with_reducible refine ReplyKeeps.ite ?_ ?_) | (with_reducible refine Keeps.ite ?_ ?_)
    | (with_reducible refine Keeps.foldl _ (fun _ _ _ => ?_) ?_) | intro _ | split | dsimp only
    | (with_reducible refine ReplyKeeps.mk ?_ ?_) | rw [id])

theorem State.authLockEnds_keeps {ps : List Part} {s0 s : State} (hw : Within [.fcp] ps) (h : Keeps ps s0 s) (a2 :
    SessIx) :
    Keeps ps s0 (State.authLockEnds s a2) := by
  unfold State.authLockEnds
  repeat' (first
    | (with_reducible assumption) | (with_reducible exact id)
    | (with_reducible refine State.onSession_keeps (hw.of rfl) ?_ ?_) | (with_reducible refine Keeps.ite ?_ ?_)
    | (with_reducible refine Keeps.foldl _ (fun _ _ _ => ?_) ?_) | intro _ | split | dsimp only
    | exact Session.bounded_of (by assumption) rfl rfl rfl | (with_reducible exact Fcp.reset_bounded)
    | (with_reducible refine Fcp.cleared_bounded ?_) | (with_reducible refine Fcp.bounded_rest ?_))

theorem State.partialTimeout_keeps {ps : List Part} {s0 s : State} (hw : Within [.fcp] ps) (h : Keeps ps s0 s) (a2 :
    SessIx) :
    Keeps ps s0 (State.partialTimeout s a2) := by
  unfold State.partialTimeout
  repeat' (first
    | (with_reducible assumption) | (with_reducible exact id)
    | (with_reducible refine State.onSession_keeps (hw.of rfl) ?_ ?_)
    | (with_reducible refine State.countFcp_keeps (hw.of rfl) ?_ _) | (with_reducible refine Keeps.ite ?_ ?_)
    | (with_reducible refine Keeps.foldl _ (fun _ _ _ => ?_) ?_) | intro _ | split | dsimp only
    | exact Session.bounded_of (by assumption) rfl rfl rfl | (with_reducible exact Fcp.reset_bounded)
    | (with_reducible refine Fcp.cleared_bounded ?_) | (with_reducible refine Fcp.bounded_rest ?_))

theorem State.discardResult_keeps {ps : List Part} {s0 s : State} (hw : Within [.fcp] ps) (h : Keeps ps s0 s) (handle :
    Nat)
    (st : OpState) : Keeps ps s0 (s.discardResult handle st) :=
  h.trans ⟨fun p hp => by cases p <;> first | exact absurd (hw.has _ rfl) hp | rfl,
    fun hb => Fcp.bounded_ops hb rfl (ops_filter_length _ _), id⟩

theorem State.sessionExpires_keeps {ps : List Part} {s0 s : State} (hw : Within [.fcp, .service, .config] ps) (h :
    Keeps ps s0 s) (a2 : SessIx) :
    Keeps ps s0 (State.sessionExpires s a2) := by
  unfold State.sessionExpires
  repeat' (first
    | (with_reducible assumption) | (with_reducible refine State.closeSession_keeps (hw.of rfl) ?_ _ _)
    | (with_reducible refine Keeps.ite ?_ ?_) | (with_reducible refine Keeps.foldl _ (fun _ _ _ => ?_) ?_) | intro _
    | split | dsimp only)

theorem State.sessionSilent_keeps {ps : List Part} {s0 s : State} (hw : Within [.fcp] ps) (h : Keeps ps s0 s) (a2 :
    SessIx) :
    Keeps ps s0 (State.sessionSilent s a2) := by
  unfold State.sessionSilent
  repeat' (first
    | (with_reducible assumption) | (with_reducible exact id) | (with_reducible refine Keeps.ite ?_ ?_)
    | rw [State.put_fcp] | (with_reducible refine Keeps.putFcp (hw.of rfl) ?_ ?_)
    | (with_reducible apply Fcp.enterState_bounded) | (with_reducible refine Keeps.foldl _ (fun _ _ _ => ?_) ?_)
    | intro _ | split | dsimp only | exact Session.bounded_of (by assumption) rfl rfl rfl
    | (with_reducible exact Fcp.reset_bounded) | (with_reducible refine Fcp.cleared_bounded ?_)
    | (with_reducible refine Fcp.bounded_rest ?_))

end Sys2Proof.Machine
end

