-- ==== Sys2Proof/Laws/KeepsFcpPackets.lean ====
section
/-!
SUPPORT. For every operation of Machine/FcpPackets.lean: the parts of State it may change, and that it keeps the invariant.
-/

set_option linter.unusedVariables false
set_option linter.unusedSimpArgs false

namespace Sys2Proof.Machine

theorem doorRequest_keeps {ps : List Part} (hw : Within [.free, .doors, .quince, .loop, .lsw, .outs, .fcp, .log,
    .service, .config] ps) (a1 : Nat) (a2 : List Byte) : ReqKeeps ps (doorRequest a1 a2) := by
  intro _ _ s0 s h
  unfold doorRequest
  repeat' (first
    | (with_reducible assumption) | (with_reducible refine Req.moveResume_keeps (hw.of rfl) _ _ _ _ _ _ ?_)
    | (with_reducible refine Req.moveStop_keeps (hw.of rfl) _ _ _ _ _ _ _ ?_)
    | (with_reducible refine Req.doorTestCycle_keeps (hw.of rfl) _ _ _ _ _ _ _ ?_)
    | (with_reducible refine Req.envelopeLearn_keeps (hw.of rfl) _ _ _ _ _ _ ?_)
    | (with_reducible refine Req.profileWrite_keeps (hw.of rfl) _ _ _ _ _ _ _ ?_)
    | (with_reducible refine Req.doorStatus_keeps (hw.of rfl) _ _ _ _ _ _ _ ?_)
    | (with_reducible refine Req.ioRead_keeps (hw.of rfl) _ _ _ _ _ _ ?_)
    | (with_reducible refine Req.outputSet_keeps (hw.of rfl) _ _ _ _ _ _ _ ?_)
    | (with_reducible refine Req.homeStep_keeps (hw.of rfl) _ _ _ _ _ _ _ ?_)
    | (with_reducible refine Req.unlisted_keeps (hw.of rfl) _ _ _ _ _ _ ?_)
    | (with_reducible refine Req.switchStatus_keeps (hw.of rfl) _ _ _ _ _ _ ?_)
    | (with_reducible refine Req.doorIsolate_keeps (hw.of rfl) _ _ _ _ _ _ _ ?_)
    | (with_reducible refine Req.faultClear_keeps (hw.of rfl) _ _ _ _ _ _ ?_)
    | (with_reducible refine Req.compareSet_keeps (hw.of rfl) _ _ _ _ _ _ _ _ _ _ _ ?_)
    | (with_reducible refine Req.doorCommand_keeps (hw.of rfl) _ _ _ _ _ _ _ ?_)
    | (with_reducible refine Req.switchSet_keeps (hw.of rfl) _ _ _ _ _ _ _ ?_)
    | (with_reducible refine Req.moveTo_keeps (hw.of rfl) _ _ _ _ _ _ _ _ _ ?_)
    | (with_reducible refine ReplyKeeps.ite ?_ ?_) | (with_reducible refine Keeps.ite ?_ ?_)
    | (with_reducible refine Keeps.foldl _ (fun _ _ _ => ?_) ?_) | intro _ | split | dsimp only
    | (with_reducible refine ReplyKeeps.mk ?_ ?_) | rw [id])

theorem sessionRequest_keeps {ps : List Part} (hw : Within [.free, .doors, .quince, .train, .loop, .lsw, .outs, .fcp,
    .log, .ring, .can, .power, .service, .config] ps) (a1 : Nat) (a2 : List Byte) : ReqKeeps ps (sessionRequest a1 a2)
    := by
  intro _ _ s0 s h
  unfold sessionRequest
  repeat' (first
    | (with_reducible assumption) | (with_reducible refine Req.eventReplay_keeps (hw.of rfl) _ _ _ _ _ _ _ ?_)
    | (with_reducible refine Req.resultFetch_keeps (hw.of rfl) _ _ _ _ _ _ ?_)
    | (with_reducible refine Req.objWrite_keeps (hw.of rfl) _ _ _ _ _ _ _ _ ?_)
    | (with_reducible refine Req.cfgRead_keeps (hw.of rfl) _ _ _ _ _ _ _ _ ?_)
    | (with_reducible refine Req.cfgLoadBlock_keeps (hw.of rfl) _ _ _ _ _ _ _ _ ?_)
    | (with_reducible refine Req.commandClaim_keeps (hw.of rfl) _ _ _ _ _ _ ?_)
    | (with_reducible refine Req.unlisted_keeps (hw.of rfl) _ _ _ _ _ _ ?_)
    | (with_reducible refine Req.commandYield_keeps (hw.of rfl) _ _ _ _ _ _ ?_)
    | (with_reducible refine Req.abort_keeps (hw.of rfl) _ _ _ _ _ _ ?_)
    | (with_reducible refine Req.cfgCommit_keeps (hw.of rfl) _ _ _ _ _ _ _ ?_)
    | (with_reducible refine Req.sessionOpen_keeps (hw.of rfl) _ _ _ _ _ _ _ _ ?_)
    | (with_reducible refine Req.sessionClose_keeps (hw.of rfl) _ _ _ _ _ ?_)
    | (with_reducible refine Req.objRead_keeps (hw.of rfl) _ _ _ _ _ _ _ ?_)
    | (with_reducible refine Req.sessionState_keeps (hw.of rfl) _ _ _ _ _ ?_)
    | (with_reducible refine Req.sessionAuth_keeps (hw.of rfl) _ _ _ _ _ _ ?_)
    | (with_reducible refine ReplyKeeps.ite ?_ ?_) | (with_reducible refine Keeps.ite ?_ ?_)
    | (with_reducible refine Keeps.foldl _ (fun _ _ _ => ?_) ?_) | intro _ | split | dsimp only
    | (with_reducible refine ReplyKeeps.mk ?_ ?_) | rw [id])

theorem moduleRequest_keeps {ps : List Part} (hw : Within [.free, .doors, .quince, .loop, .outs, .fcp, .log, .can,
    .power, .engines, .service, .config] ps) (a1 : Nat) (a2 : List Byte) : ReqKeeps ps (moduleRequest a1 a2) := by
  intro _ _ s0 s h
  unfold moduleRequest
  repeat' (first
    | (with_reducible assumption) | (with_reducible refine Req.appLoad_keeps (hw.of rfl) _ _ _ _ _ _ _ _ ?_)
    | (with_reducible refine Req.legSubstitute_keeps (hw.of rfl) _ _ _ _ _ _ _ ?_)
    | (with_reducible refine Req.consistView_keeps (hw.of rfl) _ _ _ _ _ _ ?_)
    | (with_reducible refine Req.ringStatus_keeps (hw.of rfl) _ _ _ _ _ ?_)
    | (with_reducible refine Req.identity_keeps (hw.of rfl) _ _ _ _ _ ?_)
    | (with_reducible refine Req.selftest_keeps (hw.of rfl) _ _ _ _ _ _ _ ?_)
    | (with_reducible refine Req.powerAccounts_keeps (hw.of rfl) _ _ _ _ _ ?_)
    | (with_reducible refine Req.logAck_keeps (hw.of rfl) _ _ _ _ _ _ ?_)
    | (with_reducible refine Req.canStatus_keeps (hw.of rfl) _ _ _ _ _ _ ?_)
    | (with_reducible refine Req.powerEnter_keeps (hw.of rfl) _ _ _ _ _ _ _ ?_)
    | (with_reducible refine Req.unlisted_keeps (hw.of rfl) _ _ _ _ _ _ ?_)
    | (with_reducible refine Req.powerStatus_keeps (hw.of rfl) _ _ _ _ _ ?_)
    | (with_reducible refine Req.incidentErase_keeps (hw.of rfl) _ _ _ _ _ _ _ ?_)
    | (with_reducible refine Req.appControl_keeps (hw.of rfl) _ _ _ _ _ _ ?_)
    | (with_reducible refine Req.schedLoad_keeps (hw.of rfl) _ _ _ _ _ _ _ ?_)
    | (with_reducible refine Req.fwStage_keeps (hw.of rfl) _ _ _ _ _ _ _ _ ?_)
    | (with_reducible refine Req.logDrain_keeps (hw.of rfl) _ _ _ _ _ _ _ ?_)
    | (with_reducible refine Req.incidentRead_keeps (hw.of rfl) _ _ _ _ _ _ _ ?_)
    | (with_reducible refine Req.logStatus_keeps (hw.of rfl) _ _ _ _ _ _ ?_)
    | (with_reducible refine Req.fwActivate_keeps (hw.of rfl) _ _ _ _ _ _ _ ?_)
    | (with_reducible refine ReplyKeeps.ite ?_ ?_) | (with_reducible refine Keeps.ite ?_ ?_)
    | (with_reducible refine Keeps.foldl _ (fun _ _ _ => ?_) ?_) | intro _ | split | dsimp only
    | (with_reducible refine ReplyKeeps.mk ?_ ?_) | rw [id])

theorem request_keeps {ps : List Part} (hw : Within [.free, .doors, .quince, .train, .loop, .lsw, .outs, .fcp, .log,
    .ring, .can, .power, .engines, .service, .config] ps) (a1 : Nat) (a2 : List Byte) : ReqKeeps ps (request a1 a2) := by
  intro _ _ s0 s h
  unfold request
  repeat' (first
    | (with_reducible assumption) | (with_reducible refine doorRequest_keeps (hw.of rfl) _ _ _ _ _ _ ?_)
    | (with_reducible refine sessionRequest_keeps (hw.of rfl) _ _ _ _ _ _ ?_)
    | (with_reducible refine moduleRequest_keeps (hw.of rfl) _ _ _ _ _ _ ?_)
    | (with_reducible refine ReplyKeeps.ite ?_ ?_) | (with_reducible refine Keeps.ite ?_ ?_)
    | (with_reducible refine Keeps.foldl _ (fun _ _ _ => ?_) ?_) | intro _ | split | dsimp only
    | (with_reducible refine ReplyKeeps.mk ?_ ?_) | rw [id])

theorem State.discarded_keeps {ps : List Part} {s0 s : State} (hw : Within [.fcp] ps) (h : Keeps ps s0 s)  :
    Keeps ps s0 (State.discarded s) := by
  unfold State.discarded
  repeat' (first
    | (with_reducible assumption) | (with_reducible refine State.countFcp_keeps (hw.of rfl) ?_ _)
    | (with_reducible refine Keeps.ite ?_ ?_) | (with_reducible refine Keeps.foldl _ (fun _ _ _ => ?_) ?_) | intro _
    | split | dsimp only)

theorem State.packet_keeps {ps : List Part} {s0 s : State} (hw : Within [.free, .doors, .quince, .train, .loop, .lsw,
    .outs, .fcp, .log, .ring, .can, .power, .engines, .service, .config] ps) (h : Keeps ps s0 s) (a2 : Transport) (a3 :
    Nat) (a4 : Bool) (a5 : List Byte) :
    Keeps ps s0 (State.packet s a2 a3 a4 a5) := by
  unfold State.packet
  repeat' (first
    | (with_reducible assumption) | (with_reducible refine State.receive_keeps (hw.of rfl) ?_ _ ?_)
    | (with_reducible refine request_keeps (hw.of rfl) _ _)
    | (with_reducible refine State.discarded_keeps (hw.of rfl) ?_) | (with_reducible refine Keeps.ite ?_ ?_)
    | (with_reducible refine Keeps.foldl _ (fun _ _ _ => ?_) ?_) | intro _ | split | dsimp only)

theorem State.segment_keeps {ps : List Part} {s0 s : State} (hw : Within [.free, .doors, .quince, .train, .loop, .lsw,
    .outs, .fcp, .log, .ring, .can, .power, .engines, .service, .config] ps) (h : Keeps ps s0 s) (a2 : CanIx) (a3 :
    SessIx) (a4 : CanFrame) :
    Keeps ps s0 (State.segment s a2 a3 a4) := by
  unfold State.segment
  repeat' (first
    | (with_reducible assumption) | (with_reducible exact id)
    | (with_reducible refine State.packet_keeps (hw.of rfl) ?_ _ _ _ _)
    | (with_reducible refine State.onSession_keeps (hw.of rfl) ?_ ?_)
    | (with_reducible refine State.countFcp_keeps (hw.of rfl) ?_ _)
    | (with_reducible refine State.discarded_keeps (hw.of rfl) ?_) | (with_reducible refine Keeps.ite ?_ ?_)
    | (with_reducible apply Session.takeSegment_bounded) | (with_reducible refine Keeps.foldl _ (fun _ _ _ => ?_) ?_)
    | intro _ | split | dsimp only | exact Session.bounded_of (by assumption) rfl rfl rfl
    | (with_reducible exact Fcp.reset_bounded) | (with_reducible refine Fcp.cleared_bounded ?_)
    | (with_reducible refine Fcp.bounded_rest ?_))

end Sys2Proof.Machine
end

