-- ==== Sys2Proof/Laws/KeepsEngineCmds.lean ====
section
/-!
SUPPORT. For every operation of Machine/EngineCmds.lean: the parts of State it may change, and that it keeps the invariant.
-/

set_option linter.unusedVariables false
set_option linter.unusedSimpArgs false

namespace Sys2Proof.Machine

theorem State.appExcepts_keeps {ps : List Part} {s0 s : State} (hw : Within [.fcp, .can, .engines, .service, .config]
    ps) (h : Keeps ps s0 s)  :
    Keeps ps s0 (State.appExcepts s) := by
  unfold State.appExcepts
  repeat' (first
    | (with_reducible assumption) | (with_reducible refine State.appEnds_keeps (hw.of rfl) ?_ _)
    | (with_reducible refine Keeps.ite ?_ ?_) | (with_reducible refine Keeps.foldl _ (fun _ _ _ => ?_) ?_) | intro _
    | split | dsimp only)

theorem State.onEngines_keeps {ps : List Part} {s0 s : State} (hw : Within [.engines] ps) (h : Keeps ps s0 s)
    {f : Engines → Engines} (hf : ∀ g : Engines, g.memOk → (f g).memOk) : Keeps ps s0 (s.onEngines f) :=
  h.trans ⟨fun p hp => by cases p <;> first | exact absurd (hw.has _ rfl) hp | rfl, id, fun he => hf _ he⟩

theorem State.appExpires_keeps {ps : List Part} {s0 s : State} (hw : Within [.fcp, .can, .engines, .service, .config]
    ps) (h : Keeps ps s0 s)  :
    Keeps ps s0 (State.appExpires s) := by
  unfold State.appExpires
  repeat' (first
    | (with_reducible assumption) | (with_reducible exact id)
    | (with_reducible refine State.onEngines_keeps (hw.of rfl) ?_ ?_)
    | (with_reducible refine State.appEnds_keeps (hw.of rfl) ?_ _) | (with_reducible refine Keeps.ite ?_ ?_)
    | exact Engines.memOk_same (by assumption) rfl | exact App.mem_same (by assumption) rfl
    | exact App.mem_same (by assumption) (App.post_mem _ _ _) | (with_reducible apply Memory.writeMany_wf)
    | (with_reducible refine Keeps.foldl _ (fun _ _ _ => ?_) ?_) | intro _ | split | dsimp only)

theorem State.onApp_keeps {ps : List Part} {s0 s : State} (hw : Within [.engines] ps) (h : Keeps ps s0 s) {f : App → App}
    (hf : ∀ a : App, a.mem.wf = true → (f a).mem.wf = true) : Keeps ps s0 (s.onApp f) := by
  unfold State.onApp
  split
  · exact State.onEngines_keeps hw h (fun g hg => Engines.onApp_memOk hg hf)
  · exact h

theorem State.appHalf_keeps {ps : List Part} {s0 s : State} (hw : Within [.engines] ps) (h : Keeps ps s0 s)  :
    Keeps ps s0 (State.appHalf s) := by
  unfold State.appHalf
  repeat' (first
    | (with_reducible assumption) | (with_reducible exact id)
    | (with_reducible refine State.onApp_keeps (hw.of rfl) ?_ ?_) | (with_reducible refine Keeps.ite ?_ ?_)
    | (with_reducible refine Engines.onApp_memOk ?_ ?_) | exact Engines.memOk_same (by assumption) rfl
    | exact App.mem_same (by assumption) rfl | exact App.mem_same (by assumption) (App.post_mem _ _ _)
    | (with_reducible apply Memory.writeMany_wf) | (with_reducible refine Keeps.foldl _ (fun _ _ _ => ?_) ?_)
    | intro _ | split | dsimp only)

theorem State.appRestarts_keeps {ps : List Part} {s0 s : State} (hw : Within [.fcp, .engines] ps) (h : Keeps ps s0 s)  :
    Keeps ps s0 (State.appRestarts s) := by
  unfold State.appRestarts
  repeat' (first
    | (with_reducible assumption) | (with_reducible exact id)
    | (with_reducible refine State.appStarts_keeps (hw.of rfl) ?_)
    | (with_reducible refine State.onEngines_keeps (hw.of rfl) ?_ ?_) | (with_reducible refine Keeps.ite ?_ ?_)
    | (with_reducible refine Engines.onApp_memOk ?_ ?_) | exact Engines.memOk_same (by assumption) rfl
    | exact App.mem_same (by assumption) rfl | exact App.mem_same (by assumption) (App.post_mem _ _ _)
    | (with_reducible apply Memory.writeMany_wf) | (with_reducible refine Keeps.foldl _ (fun _ _ _ => ?_) ?_)
    | intro _ | split | dsimp only)

theorem State.violates_keeps {ps : List Part} {s0 s : State} (hw : Within [.engines] ps) (h : Keeps ps s0 s) (a2 : Nat) :
    Keeps ps s0 (State.violates s a2) := by
  unfold State.violates
  repeat' (first
    | (with_reducible assumption) | (with_reducible exact id)
    | (with_reducible refine State.onApp_keeps (hw.of rfl) ?_ ?_) | (with_reducible refine Keeps.ite ?_ ?_)
    | (with_reducible refine Engines.onApp_memOk ?_ ?_) | exact Engines.memOk_same (by assumption) rfl
    | exact App.mem_same (by assumption) rfl | exact App.mem_same (by assumption) (App.post_mem _ _ _)
    | (with_reducible apply Memory.writeMany_wf) | (with_reducible refine Keeps.foldl _ (fun _ _ _ => ?_) ?_)
    | intro _ | split | dsimp only)

theorem State.onOwnCan_keeps {ps : List Part} {s0 s : State} (hw : Within [.can, .engines] ps) (h : Keeps ps s0 s) (a2
    : Nat) (a3 : (Can → Can)) :
    Keeps ps s0 (State.onOwnCan s a2 a3) := by
  unfold State.onOwnCan
  repeat' (first
    | (with_reducible assumption) | (with_reducible exact id)
    | (with_reducible refine State.violates_keeps (hw.of rfl) ?_ _) | (with_reducible refine Keeps.ite ?_ ?_)
    | rw [State.put_can] | (with_reducible refine Keeps.putCan (hw.of rfl) ?_)
    | (with_reducible refine Keeps.foldl _ (fun _ _ _ => ?_) ?_) | intro _ | split | dsimp only)

theorem State.canAbort_keeps {ps : List Part} {s0 s : State} (hw : Within [.can, .engines] ps) (h : Keeps ps s0 s) (a2
    : BitVec 32) :
    Keeps ps s0 (State.canAbort s a2) := by
  unfold State.canAbort
  repeat' (first
    | (with_reducible assumption) | (with_reducible refine State.onOwnCan_keeps (hw.of rfl) ?_ _ _)
    | (with_reducible refine Keeps.ite ?_ ?_) | (with_reducible refine Keeps.foldl _ (fun _ _ _ => ?_) ?_) | intro _
    | split | dsimp only)

theorem State.canObjWord_keeps {ps : List Part} {s0 s : State} (hw : Within [.can, .engines] ps) (h : Keeps ps s0 s)
    (a2 : Fin 64) (a3 : Nat) (a4 : BitVec 32) :
    Keeps ps s0 (State.canObjWord s a2 a3 a4) := by
  unfold State.canObjWord
  repeat' (first
    | (with_reducible assumption) | (with_reducible refine State.onOwnCan_keeps (hw.of rfl) ?_ _ _)
    | (with_reducible refine Keeps.ite ?_ ?_) | (with_reducible refine Keeps.foldl _ (fun _ _ _ => ?_) ?_) | intro _
    | split | dsimp only)

theorem State.canPop_keeps {ps : List Part} {s0 s : State} (hw : Within [.can, .engines] ps) (h : Keeps ps s0 s) (a2 :
    Bool) :
    Keeps ps s0 (State.canPop s a2) := by
  unfold State.canPop
  repeat' (first
    | (with_reducible assumption) | (with_reducible refine State.onOwnCan_keeps (hw.of rfl) ?_ _ _)
    | (with_reducible refine Keeps.ite ?_ ?_) | (with_reducible refine Keeps.foldl _ (fun _ _ _ => ?_) ?_) | intro _
    | split | dsimp only)

theorem State.canRequest_keeps {ps : List Part} {s0 s : State} (hw : Within [.can, .engines] ps) (h : Keeps ps s0 s)
    (a2 : BitVec 32) :
    Keeps ps s0 (State.canRequest s a2) := by
  unfold State.canRequest
  repeat' (first
    | (with_reducible assumption) | (with_reducible refine State.onOwnCan_keeps (hw.of rfl) ?_ _ _)
    | (with_reducible refine Keeps.ite ?_ ?_) | (with_reducible refine Keeps.foldl _ (fun _ _ _ => ?_) ?_) | intro _
    | split | dsimp only)

theorem State.orphaned_keeps {ps : List Part} {s0 s : State} (hw : Within [.free, .doors, .quince, .loop, .outs, .fcp,
    .log, .power, .service, .config] ps) (h : Keeps ps s0 s) (a2 : Operation) :
    Keeps ps s0 (State.orphaned s a2) := by
  unfold State.orphaned
  repeat' (first
    | (with_reducible assumption) | (with_reducible exact id)
    | (with_reducible refine State.subAborts_keeps (hw.of rfl) ?_ _ _ _)
    | (with_reducible refine State.activationAborts_keeps (hw.of rfl) ?_)
    | (with_reducible refine State.runDoor_keeps (hw.of rfl) ?_ _ _)
    | (with_reducible refine State.entryChecks_keeps (hw.of rfl) ?_)
    | (with_reducible refine State.onPower_keeps (hw.of rfl) ?_ _)
    | (with_reducible refine State.commitAborts_keeps (hw.of rfl) ?_) | (with_reducible refine Keeps.ite ?_ ?_)
    | rw [State.put_service] | (with_reducible refine Keeps.putService (hw.of rfl) ?_)
    | (with_reducible refine Keeps.foldl _ (fun _ _ _ => ?_) ?_) | intro _ | split | dsimp only)

theorem State.commsStops_keeps {ps : List Part} {s0 s : State} (hw : Within [.free, .doors, .quince, .loop, .outs,
    .fcp, .log, .power, .engines, .service, .config] ps) (h : Keeps ps s0 s)  :
    Keeps ps s0 (State.commsStops s) := by
  unfold State.commsStops
  repeat' (first
    | (with_reducible assumption) | (with_reducible exact id)
    | (with_reducible refine State.closeAll_keeps (hw.of rfl) ?_)
    | (with_reducible refine State.onEngines_keeps (hw.of rfl) ?_ ?_)
    | (with_reducible refine State.orphaned_keeps (hw.of rfl) ?_ _) | (with_reducible refine Keeps.ite ?_ ?_)
    | rw [State.put_fcp] | (with_reducible refine Keeps.putFcp (hw.of rfl) ?_ ?_)
    | exact Engines.memOk_same (by assumption) rfl | exact App.mem_same (by assumption) rfl
    | exact App.mem_same (by assumption) (App.post_mem _ _ _) | (with_reducible apply Memory.writeMany_wf)
    | (with_reducible refine Keeps.foldl _ (fun _ _ _ => ?_) ?_) | intro _ | split | dsimp only
    | exact Session.bounded_of (by assumption) rfl rfl rfl | (with_reducible exact Fcp.reset_bounded)
    | (with_reducible refine Fcp.cleared_bounded ?_) | (with_reducible refine Fcp.bounded_rest ?_))

theorem State.commsExpires_keeps {ps : List Part} {s0 s : State} (hw : Within [.free, .doors, .quince, .loop, .outs,
    .fcp, .log, .power, .engines, .service, .config] ps) (h : Keeps ps s0 s)  :
    Keeps ps s0 (State.commsExpires s) := by
  unfold State.commsExpires
  repeat' (first
    | (with_reducible assumption) | (with_reducible exact id)
    | (with_reducible refine State.commsStops_keeps (hw.of rfl) ?_)
    | (with_reducible refine State.onEngines_keeps (hw.of rfl) ?_ ?_) | (with_reducible refine Keeps.ite ?_ ?_)
    | exact Engines.memOk_same (by assumption) rfl | exact App.mem_same (by assumption) rfl
    | exact App.mem_same (by assumption) (App.post_mem _ _ _) | (with_reducible apply Memory.writeMany_wf)
    | (with_reducible refine Keeps.foldl _ (fun _ _ _ => ?_) ?_) | intro _ | split | dsimp only)

theorem State.takeEngines_keeps {ps : List Part} {s0 s : State} (hw : Within [.fcp, .engines] ps) (h : Keeps ps s0 s)
    {r : Engines × Events}
    (hr : s.engines.memOk → r.1.memOk) : Keeps ps s0 (s.takeEngines r) := by
  unfold State.takeEngines
  rw [State.put_engines]
  exact State.events_keeps (hw.of rfl) (Keeps.putEngines (hw.of rfl) h hr) _

theorem State.commsRestarts_keeps {ps : List Part} {s0 s : State} (hw : Within [.fcp, .engines] ps) (h : Keeps ps s0 s)  :
    Keeps ps s0 (State.commsRestarts s) := by
  unfold State.commsRestarts
  repeat' (first
    | (with_reducible assumption) | (with_reducible exact id)
    | (with_reducible refine State.onEngines_keeps (hw.of rfl) ?_ ?_)
    | (with_reducible refine State.takeEngines_keeps (hw.of rfl) ?_ ?_) | (with_reducible refine Keeps.ite ?_ ?_)
    | (with_reducible apply Engines.again_memOk) | exact Engines.memOk_same (by assumption) rfl
    | exact App.mem_same (by assumption) rfl | exact App.mem_same (by assumption) (App.post_mem _ _ _)
    | (with_reducible apply Memory.writeMany_wf) | (with_reducible refine Keeps.foldl _ (fun _ _ _ => ?_) ?_)
    | intro _ | split | dsimp only)

theorem State.leafStops_keeps {ps : List Part} {s0 s : State} (hw : Within [.free, .doors, .quince, .loop, .outs, .fcp,
    .log, .engines, .service] ps) (h : Keeps ps s0 s) (a2 : DoorIx) :
    Keeps ps s0 (State.leafStops s a2) := by
  unfold State.leafStops
  repeat' (first
    | (with_reducible assumption) | (with_reducible exact id)
    | (with_reducible refine State.runDoor_keeps (hw.of rfl) ?_ _ _)
    | (with_reducible refine State.onEngines_keeps (hw.of rfl) ?_ ?_)
    | (with_reducible refine State.takeEngines_keeps (hw.of rfl) ?_ ?_) | (with_reducible refine Keeps.ite ?_ ?_)
    | exact Engines.memOk_same (by assumption) rfl | exact App.mem_same (by assumption) rfl
    | exact App.mem_same (by assumption) (App.post_mem _ _ _) | (with_reducible apply Memory.writeMany_wf)
    | (with_reducible refine Keeps.foldl _ (fun _ _ _ => ?_) ?_) | intro _ | split | dsimp only)

theorem State.supvStops_keeps {ps : List Part} {s0 s : State} (hw : Within [.free, .doors, .quince, .loop, .outs, .fcp,
    .log, .engines, .service] ps) (h : Keeps ps s0 s) (a2 : Bool) :
    Keeps ps s0 (State.supvStops s a2) := by
  unfold State.supvStops
  repeat' (first
    | (with_reducible assumption) | (with_reducible exact id)
    | (with_reducible refine State.supervise_keeps (hw.of rfl) ?_)
    | (with_reducible refine State.onEngines_keeps (hw.of rfl) ?_ ?_)
    | (with_reducible refine State.takeEngines_keeps (hw.of rfl) ?_ ?_)
    | (with_reducible refine State.setLevel_keeps (hw.of rfl) ?_ _ _) | (with_reducible refine Keeps.ite ?_ ?_)
    | rw [State.put_loop] | (with_reducible refine Keeps.putLoop (hw.of rfl) ?_)
    | exact Engines.memOk_same (by assumption) rfl | exact App.mem_same (by assumption) rfl
    | exact App.mem_same (by assumption) (App.post_mem _ _ _) | (with_reducible apply Memory.writeMany_wf)
    | (with_reducible refine Keeps.foldl _ (fun _ _ _ => ?_) ?_) | intro _ | split | dsimp only)

theorem State.stackFaults_keeps {ps : List Part} {s0 s : State} (hw : Within [.free, .doors, .quince, .loop, .outs,
    .fcp, .log, .can, .power, .engines, .service, .config] ps) (h : Keeps ps s0 s) (a2 : Engine) (a3 : Fin 128) :
    Keeps ps s0 (State.stackFaults s a2 a3) := by
  unfold State.stackFaults
  repeat' (first
    | (with_reducible assumption) | (with_reducible exact id)
    | (with_reducible refine State.commsStops_keeps (hw.of rfl) ?_)
    | (with_reducible refine State.leafStops_keeps (hw.of rfl) ?_ _)
    | (with_reducible refine State.onEngines_keeps (hw.of rfl) ?_ ?_)
    | (with_reducible refine State.supvStops_keeps (hw.of rfl) ?_ _)
    | (with_reducible refine State.appEnds_keeps (hw.of rfl) ?_ _) | (with_reducible refine Keeps.ite ?_ ?_)
    | exact Engines.memOk_same (by assumption) rfl | exact App.mem_same (by assumption) rfl
    | exact App.mem_same (by assumption) (App.post_mem _ _ _) | (with_reducible apply Memory.writeMany_wf)
    | (with_reducible refine Keeps.foldl _ (fun _ _ _ => ?_) ?_) | intro _ | split | dsimp only)

theorem State.completes_keeps {ps : List Part} {s0 s : State} (hw : Within [.free, .doors, .quince, .loop, .outs, .fcp,
    .log, .can, .power, .engines, .service, .config] ps) (h : Keeps ps s0 s) (a2 : Engine) (a3 : BitVec 32) :
    Keeps ps s0 (State.completes s a2 a3) := by
  unfold State.completes
  repeat' (first
    | (with_reducible assumption) | (with_reducible exact id)
    | (with_reducible refine State.onEngines_keeps (hw.of rfl) ?_ ?_)
    | (with_reducible refine State.stackFaults_keeps (hw.of rfl) ?_ _ _) | (with_reducible refine Keeps.ite ?_ ?_)
    | exact Engines.memOk_same (by assumption) rfl | exact App.mem_same (by assumption) rfl
    | exact App.mem_same (by assumption) (App.post_mem _ _ _) | (with_reducible apply Memory.writeMany_wf)
    | (with_reducible refine Keeps.foldl _ (fun _ _ _ => ?_) ?_) | intro _ | split | dsimp only)

theorem State.delivers_keeps {ps : List Part} {s0 s : State} (hw : Within [.free, .engines] ps) (h : Keeps ps s0 s) (a2
    : Engine) (a3 : Fin 128) (a4 : Nat) :
    Keeps ps s0 (State.delivers s a2 a3 a4) := by
  unfold State.delivers
  repeat' (first
    | (with_reducible assumption) | (with_reducible exact id)
    | (with_reducible refine State.fresh_keeps (hw.of rfl) ?_)
    | (with_reducible refine State.onEngines_keeps (hw.of rfl) ?_ ?_) | (with_reducible refine Keeps.ite ?_ ?_)
    | (with_reducible apply App.deliver_wf) | exact Engines.memOk_same (by assumption) rfl
    | exact App.mem_same (by assumption) rfl | exact App.mem_same (by assumption) (App.post_mem _ _ _)
    | (with_reducible apply Memory.writeMany_wf) | (with_reducible refine Keeps.foldl _ (fun _ _ _ => ?_) ?_)
    | intro _ | split | dsimp only)

theorem State.intcControl_keeps {ps : List Part} {s0 s : State} (hw : Within [.engines] ps) (h : Keeps ps s0 s) (a2 :
    Engine) (a3 : BitVec 32) :
    Keeps ps s0 (State.intcControl s a2 a3) := by
  unfold State.intcControl
  repeat' (first
    | (with_reducible assumption) | (with_reducible exact id)
    | (with_reducible refine State.onEngines_keeps (hw.of rfl) ?_ ?_) | (with_reducible refine Keeps.ite ?_ ?_)
    | exact Engines.memOk_same (by assumption) rfl | exact App.mem_same (by assumption) rfl
    | exact App.mem_same (by assumption) (App.post_mem _ _ _) | (with_reducible apply Memory.writeMany_wf)
    | (with_reducible refine Keeps.foldl _ (fun _ _ _ => ?_) ?_) | intro _ | split | dsimp only)

theorem State.kick_keeps {ps : List Part} {s0 s : State} (hw : Within [.engines] ps) (h : Keeps ps s0 s)  :
    Keeps ps s0 (State.kick s) := by
  unfold State.kick
  repeat' (first
    | (with_reducible assumption) | (with_reducible exact id)
    | (with_reducible refine State.onApp_keeps (hw.of rfl) ?_ ?_) | (with_reducible refine Keeps.ite ?_ ?_)
    | (with_reducible refine Engines.onApp_memOk ?_ ?_) | exact Engines.memOk_same (by assumption) rfl
    | exact App.mem_same (by assumption) rfl | exact App.mem_same (by assumption) (App.post_mem _ _ _)
    | (with_reducible apply Memory.writeMany_wf) | (with_reducible refine Keeps.foldl _ (fun _ _ _ => ?_) ?_)
    | intro _ | split | dsimp only)

theorem State.leafExpires_keeps {ps : List Part} {s0 s : State} (hw : Within [.free, .doors, .quince, .loop, .outs,
    .fcp, .log, .engines, .service] ps) (h : Keeps ps s0 s) (a2 : DoorIx) :
    Keeps ps s0 (State.leafExpires s a2) := by
  unfold State.leafExpires
  repeat' (first
    | (with_reducible assumption) | (with_reducible exact id)
    | (with_reducible refine State.leafStops_keeps (hw.of rfl) ?_ _)
    | (with_reducible refine State.onEngines_keeps (hw.of rfl) ?_ ?_) | (with_reducible refine Keeps.ite ?_ ?_)
    | exact Engines.memOk_same (by assumption) rfl | exact App.mem_same (by assumption) rfl
    | exact App.mem_same (by assumption) (App.post_mem _ _ _) | (with_reducible apply Memory.writeMany_wf)
    | (with_reducible refine Keeps.foldl _ (fun _ _ _ => ?_) ?_) | intro _ | split | dsimp only)

theorem State.leafRestarts_keeps {ps : List Part} {s0 s : State} (hw : Within [.free, .doors, .quince, .loop, .outs,
    .fcp, .log, .engines, .service] ps) (h : Keeps ps s0 s) (a2 : DoorIx) :
    Keeps ps s0 (State.leafRestarts s a2) := by
  unfold State.leafRestarts
  repeat' (first
    | (with_reducible assumption) | (with_reducible exact id)
    | (with_reducible refine State.runDoor_keeps (hw.of rfl) ?_ _ _)
    | (with_reducible refine State.onEngines_keeps (hw.of rfl) ?_ ?_)
    | (with_reducible refine State.takeEngines_keeps (hw.of rfl) ?_ ?_) | (with_reducible refine Keeps.ite ?_ ?_)
    | (with_reducible apply Engines.again_memOk) | exact Engines.memOk_same (by assumption) rfl
    | exact App.mem_same (by assumption) rfl | exact App.mem_same (by assumption) (App.post_mem _ _ _)
    | (with_reducible apply Memory.writeMany_wf) | (with_reducible refine Keeps.foldl _ (fun _ _ _ => ?_) ?_)
    | intro _ | split | dsimp only)

theorem State.mailAck_keeps {ps : List Part} {s0 s : State} (hw : Within [.engines] ps) (h : Keeps ps s0 s) (a2 :
    BitVec 32) :
    Keeps ps s0 (State.mailAck s a2) := by
  unfold State.mailAck
  repeat' (first
    | (with_reducible assumption) | (with_reducible exact id)
    | (with_reducible refine State.onApp_keeps (hw.of rfl) ?_ ?_) | (with_reducible refine Keeps.ite ?_ ?_)
    | (with_reducible refine Engines.onApp_memOk ?_ ?_) | exact Engines.memOk_same (by assumption) rfl
    | exact App.mem_same (by assumption) rfl | exact App.mem_same (by assumption) (App.post_mem _ _ _)
    | (with_reducible apply Memory.writeMany_wf) | (with_reducible refine Keeps.foldl _ (fun _ _ _ => ?_) ?_)
    | intro _ | split | dsimp only)

theorem State.mailFill_keeps {ps : List Part} {s0 s : State} (hw : Within [.fcp, .engines] ps) (h : Keeps ps s0 s)  :
    Keeps ps s0 (State.mailFill s) := by
  unfold State.mailFill
  repeat' (first
    | (with_reducible assumption) | (with_reducible exact id)
    | (with_reducible refine State.onEngines_keeps (hw.of rfl) ?_ ?_)
    | (with_reducible refine State.onSession_keeps (hw.of rfl) ?_ ?_) | (with_reducible refine Keeps.ite ?_ ?_)
    | (with_reducible apply Session.sendNext_bounded) | (with_reducible refine Engines.onApp_memOk ?_ ?_)
    | (with_reducible apply App.deliver_wf) | exact Engines.memOk_same (by assumption) rfl
    | exact App.mem_same (by assumption) rfl | exact App.mem_same (by assumption) (App.post_mem _ _ _)
    | (with_reducible apply Memory.writeMany_wf) | (with_reducible refine Keeps.foldl _ (fun _ _ _ => ?_) ?_)
    | intro _ | split | dsimp only | exact Session.bounded_of (by assumption) rfl rfl rfl
    | (with_reducible exact Fcp.reset_bounded) | (with_reducible refine Fcp.cleared_bounded ?_)
    | (with_reducible refine Fcp.bounded_rest ?_))

theorem State.mailPost_keeps {ps : List Part} {s0 s : State} (hw : Within [.engines] ps) (h : Keeps ps s0 s) (a2 :
    BitVec 32) :
    Keeps ps s0 (State.mailPost s a2) := by
  unfold State.mailPost
  repeat' (first
    | (with_reducible assumption) | (with_reducible exact id)
    | (with_reducible refine State.onApp_keeps (hw.of rfl) ?_ ?_) | (with_reducible refine Keeps.ite ?_ ?_)
    | (with_reducible refine Engines.onApp_memOk ?_ ?_) | exact Engines.memOk_same (by assumption) rfl
    | exact App.mem_same (by assumption) rfl | exact App.mem_same (by assumption) (App.post_mem _ _ _)
    | (with_reducible apply Memory.writeMany_wf) | (with_reducible refine Keeps.foldl _ (fun _ _ _ => ?_) ?_)
    | intro _ | split | dsimp only)

theorem State.mailTaken_keeps {ps : List Part} {s0 s : State} (hw : Within [.free, .doors, .quince, .train, .loop,
    .lsw, .outs, .fcp, .log, .ring, .can, .power, .engines, .service, .config] ps) (h : Keeps ps s0 s) :
    Keeps ps s0 s.mailTaken := by
  unfold State.mailTaken State.onEngines
  split
  · exact h
  · split
    · exact h
    · rename_i he
      refine State.packet_keeps (hw.of rfl) ?_ _ _ _ _
      rw [State.put_engines]
      refine Keeps.putEngines (hw.of rfl) h (fun hm => ?_)
      exact App.mem_same hm (App.take_mem he)

theorem State.mirrorRefresh_keeps {ps : List Part} {s0 s : State} (hw : Within [.engines] ps) (h : Keeps ps s0 s)  :
    Keeps ps s0 (State.mirrorRefresh s) := by
  unfold State.mirrorRefresh
  repeat' (first
    | (with_reducible assumption) | (with_reducible exact id)
    | (with_reducible refine State.onEngines_keeps (hw.of rfl) ?_ ?_) | (with_reducible refine Keeps.ite ?_ ?_)
    | (with_reducible refine Engines.onApp_memOk ?_ ?_) | exact Engines.memOk_same (by assumption) rfl
    | exact App.mem_same (by assumption) rfl | exact App.mem_same (by assumption) (App.post_mem _ _ _)
    | (with_reducible apply Memory.writeMany_wf) | (with_reducible refine Keeps.foldl _ (fun _ _ _ => ?_) ?_)
    | intro _ | split | dsimp only)

theorem State.readNow_keeps {ps : List Part} {s0 s : State} (hw : Within [.engines] ps) (h : Keeps ps s0 s)  :
    Keeps ps s0 (State.readNow s) := by
  unfold State.readNow
  repeat' (first
    | (with_reducible assumption) | (with_reducible exact id)
    | (with_reducible refine State.onApp_keeps (hw.of rfl) ?_ ?_) | (with_reducible refine Keeps.ite ?_ ?_)
    | (with_reducible refine Engines.onApp_memOk ?_ ?_) | exact Engines.memOk_same (by assumption) rfl
    | exact App.mem_same (by assumption) rfl | exact App.mem_same (by assumption) (App.post_mem _ _ _)
    | (with_reducible apply Memory.writeMany_wf) | (with_reducible refine Keeps.foldl _ (fun _ _ _ => ?_) ?_)
    | intro _ | split | dsimp only)

theorem State.supvRestarts_keeps {ps : List Part} {s0 s : State} (hw : Within [.free, .doors, .quince, .loop, .outs,
    .fcp, .log, .engines, .service] ps) (h : Keeps ps s0 s)  :
    Keeps ps s0 (State.supvRestarts s) := by
  unfold State.supvRestarts
  repeat' (first
    | (with_reducible assumption) | (with_reducible exact id)
    | (with_reducible refine State.supervise_keeps (hw.of rfl) ?_)
    | (with_reducible refine State.onEngines_keeps (hw.of rfl) ?_ ?_)
    | (with_reducible refine State.takeEngines_keeps (hw.of rfl) ?_ ?_)
    | (with_reducible refine State.setLevel_keeps (hw.of rfl) ?_ _ _)
    | (with_reducible refine State.bypassCheck_keeps (hw.of rfl) ?_) | (with_reducible refine Keeps.ite ?_ ?_)
    | rw [State.put_loop] | (with_reducible refine Keeps.putLoop (hw.of rfl) ?_)
    | (with_reducible apply Engines.pairAgain_memOk) | exact Engines.memOk_same (by assumption) rfl
    | exact App.mem_same (by assumption) rfl | exact App.mem_same (by assumption) (App.post_mem _ _ _)
    | (with_reducible apply Memory.writeMany_wf) | (with_reducible refine Keeps.foldl _ (fun _ _ _ => ?_) ?_)
    | intro _ | split | dsimp only)

theorem State.timerControl_keeps {ps : List Part} {s0 s : State} (hw : Within [.engines] ps) (h : Keeps ps s0 s) (a2 :
    Fin 4) (a3 : BitVec 32) :
    Keeps ps s0 (State.timerControl s a2 a3) := by
  unfold State.timerControl
  repeat' (first
    | (with_reducible assumption) | (with_reducible exact id)
    | (with_reducible refine State.onApp_keeps (hw.of rfl) ?_ ?_) | (with_reducible refine Keeps.ite ?_ ?_)
    | (with_reducible refine Engines.onApp_memOk ?_ ?_) | exact Engines.memOk_same (by assumption) rfl
    | exact App.mem_same (by assumption) rfl | exact App.mem_same (by assumption) (App.post_mem _ _ _)
    | (with_reducible apply Memory.writeMany_wf) | (with_reducible refine Keeps.foldl _ (fun _ _ _ => ?_) ?_)
    | intro _ | split | dsimp only)

theorem State.timerExpires_keeps {ps : List Part} {s0 s : State} (hw : Within [.engines] ps) (h : Keeps ps s0 s) (a2 :
    Fin 4) :
    Keeps ps s0 (State.timerExpires s a2) := by
  unfold State.timerExpires
  repeat' (first
    | (with_reducible assumption) | (with_reducible exact id)
    | (with_reducible refine State.onEngines_keeps (hw.of rfl) ?_ ?_) | (with_reducible refine Keeps.ite ?_ ?_)
    | (with_reducible refine Engines.onApp_memOk ?_ ?_) | exact Engines.memOk_same (by assumption) rfl
    | exact App.mem_same (by assumption) rfl | exact App.mem_same (by assumption) (App.post_mem _ _ _)
    | (with_reducible apply Memory.writeMany_wf) | (with_reducible refine Keeps.foldl _ (fun _ _ _ => ?_) ?_)
    | intro _ | split | dsimp only)

theorem State.writeCan_keeps {ps : List Part} {s0 s : State} (hw : Within [.can, .engines] ps) (h : Keeps ps s0 s) (a2
    : Nat) (a3 : Nat) (a4 : BitVec 32) :
    Keeps ps s0 (State.writeCan s a2 a3 a4) := by
  unfold State.writeCan
  repeat' (first
    | (with_reducible assumption) | (with_reducible refine State.canPop_keeps (hw.of rfl) ?_ _)
    | (with_reducible refine State.canRequest_keeps (hw.of rfl) ?_ _)
    | (with_reducible refine State.onOwnCan_keeps (hw.of rfl) ?_ _ _)
    | (with_reducible refine State.canAbort_keeps (hw.of rfl) ?_ _)
    | (with_reducible refine State.canObjWord_keeps (hw.of rfl) ?_ _ _ _) | (with_reducible refine Keeps.ite ?_ ?_)
    | (with_reducible refine Keeps.foldl _ (fun _ _ _ => ?_) ?_) | intro _ | split | dsimp only)

theorem State.writeIntc_keeps {ps : List Part} {s0 s : State} (hw : Within [.free, .doors, .quince, .loop, .outs, .fcp,
    .log, .can, .power, .engines, .service, .config] ps) (h : Keeps ps s0 s) (a2 : Nat) (a3 : Nat) (a4 : BitVec 32) :
    Keeps ps s0 (State.writeIntc s a2 a3 a4) := by
  unfold State.writeIntc
  repeat' (first
    | (with_reducible assumption) | (with_reducible exact id)
    | (with_reducible refine State.violates_keeps (hw.of rfl) ?_ _)
    | (with_reducible refine State.onEngines_keeps (hw.of rfl) ?_ ?_)
    | (with_reducible refine State.intcControl_keeps (hw.of rfl) ?_ _ _)
    | (with_reducible refine State.completes_keeps (hw.of rfl) ?_ _ _) | (with_reducible refine Keeps.ite ?_ ?_)
    | (with_reducible refine Keeps.dite (fun _ => ?_) (fun _ => ?_)) | exact Engines.memOk_same (by assumption) rfl
    | exact App.mem_same (by assumption) rfl | exact App.mem_same (by assumption) (App.post_mem _ _ _)
    | (with_reducible apply Memory.writeMany_wf) | (with_reducible refine Keeps.foldl _ (fun _ _ _ => ?_) ?_)
    | intro _ | split | dsimp only)

theorem State.writeMailbox_keeps {ps : List Part} {s0 s : State} (hw : Within [.engines] ps) (h : Keeps ps s0 s) (a2 :
    Nat) (a3 : BitVec 32) :
    Keeps ps s0 (State.writeMailbox s a2 a3) := by
  unfold State.writeMailbox
  repeat' (first
    | (with_reducible assumption) | (with_reducible refine State.mailAck_keeps (hw.of rfl) ?_ _)
    | (with_reducible refine State.mailPost_keeps (hw.of rfl) ?_ _) | (with_reducible refine Keeps.ite ?_ ?_)
    | (with_reducible refine Keeps.foldl _ (fun _ _ _ => ?_) ?_) | intro _ | split | dsimp only)

theorem State.writeTimer_keeps {ps : List Part} {s0 s : State} (hw : Within [.engines] ps) (h : Keeps ps s0 s) (a2 :
    Nat) (a3 : BitVec 32) :
    Keeps ps s0 (State.writeTimer s a2 a3) := by
  unfold State.writeTimer
  repeat' (first
    | (with_reducible assumption) | (with_reducible exact id)
    | (with_reducible refine State.kick_keeps (hw.of rfl) ?_)
    | (with_reducible refine State.timerControl_keeps (hw.of rfl) ?_ _ _)
    | (with_reducible refine State.onApp_keeps (hw.of rfl) ?_ ?_) | (with_reducible refine Keeps.ite ?_ ?_)
    | (with_reducible refine Engines.onApp_memOk ?_ ?_) | exact Engines.memOk_same (by assumption) rfl
    | exact App.mem_same (by assumption) rfl | exact App.mem_same (by assumption) (App.post_mem _ _ _)
    | (with_reducible apply Memory.writeMany_wf) | (with_reducible refine Keeps.foldl _ (fun _ _ _ => ?_) ?_)
    | intro _ | split | dsimp only)

theorem State.writeRegister_keeps {ps : List Part} {s0 s : State} (hw : Within [.free, .doors, .quince, .loop, .outs,
    .fcp, .log, .can, .power, .engines, .service, .config] ps) (h : Keeps ps s0 s) (a2 : Nat) (a3 : Nat) (a4 : BitVec
    32) :
    Keeps ps s0 (State.writeRegister s a2 a3 a4) := by
  unfold State.writeRegister
  repeat' (first
    | (with_reducible assumption) | (with_reducible exact id)
    | (with_reducible refine State.violates_keeps (hw.of rfl) ?_ _)
    | (with_reducible refine State.writeTimer_keeps (hw.of rfl) ?_ _ _)
    | (with_reducible refine State.writeCan_keeps (hw.of rfl) ?_ _ _ _)
    | (with_reducible refine State.writeMailbox_keeps (hw.of rfl) ?_ _ _)
    | (with_reducible refine State.writeIntc_keeps (hw.of rfl) ?_ _ _ _)
    | (with_reducible refine State.onApp_keeps (hw.of rfl) ?_ ?_) | (with_reducible refine Keeps.ite ?_ ?_)
    | (with_reducible refine Engines.onApp_memOk ?_ ?_) | exact Engines.memOk_same (by assumption) rfl
    | exact App.mem_same (by assumption) rfl | exact App.mem_same (by assumption) (App.post_mem _ _ _)
    | (with_reducible apply Memory.writeMany_wf) | (with_reducible refine Keeps.foldl _ (fun _ _ _ => ?_) ?_)
    | intro _ | split | dsimp only)

end Sys2Proof.Machine
end

