-- ==== Sys2Proof/Laws/KeepsEngineMeanings.lean ====
section
/-!
SUPPORT. For every operation of Machine/EngineMeanings.lean: the parts of State it may change, and that it keeps the invariant.
-/

set_option linter.unusedVariables false
set_option linter.unusedSimpArgs false

namespace Sys2Proof.Machine

theorem execAppAutorestart_keeps {ps : List Part} {s0 s t : State} (hw : Within [.fcp, .engines] ps) (h : Keeps ps s0 s) 
    (he : execAppAutorestart s = .next t) : Keeps ps s0 t := by
  unfold execAppAutorestart at he
  injection he with he
  subst he
  repeat' (first
    | (with_reducible assumption) | (with_reducible refine State.appRestarts_keeps (hw.of rfl) ?_)
    | (with_reducible refine Keeps.ite ?_ ?_) | (with_reducible refine Keeps.foldl _ (fun _ _ _ => ?_) ?_) | intro _
    | split | dsimp only)

theorem execAppException_keeps {ps : List Part} {s0 s t : State} (hw : Within [.fcp, .can, .engines, .service, .config]
    ps) (h : Keeps ps s0 s) 
    (he : execAppException s = .next t) : Keeps ps s0 t := by
  unfold execAppException at he
  injection he with he
  subst he
  repeat' (first
    | (with_reducible assumption) | (with_reducible refine State.appExcepts_keeps (hw.of rfl) ?_)
    | (with_reducible refine Keeps.ite ?_ ?_) | (with_reducible refine Keeps.foldl _ (fun _ _ _ => ?_) ?_) | intro _
    | split | dsimp only)

theorem execAppTimerExpiry_keeps {ps : List Part} {s0 s t : State} (hw : Within [.engines] ps) (h : Keeps ps s0 s) (a1
    : Fin 4)
    (he : execAppTimerExpiry a1 s = .next t) : Keeps ps s0 t := by
  unfold execAppTimerExpiry at he
  injection he with he
  subst he
  repeat' (first
    | (with_reducible assumption) | (with_reducible refine State.timerExpires_keeps (hw.of rfl) ?_ _)
    | (with_reducible refine Keeps.ite ?_ ?_) | (with_reducible refine Keeps.foldl _ (fun _ _ _ => ?_) ?_) | intro _
    | split | dsimp only)

theorem execAppWatchdogExpiry_keeps {ps : List Part} {s0 s t : State} (hw : Within [.fcp, .can, .engines, .service,
    .config] ps) (h : Keeps ps s0 s) 
    (he : execAppWatchdogExpiry s = .next t) : Keeps ps s0 t := by
  unfold execAppWatchdogExpiry at he
  injection he with he
  subst he
  repeat' (first
    | (with_reducible assumption) | (with_reducible refine State.appExpires_keeps (hw.of rfl) ?_)
    | (with_reducible refine Keeps.ite ?_ ?_) | (with_reducible refine Keeps.foldl _ (fun _ _ _ => ?_) ?_) | intro _
    | split | dsimp only)

theorem execAppWatchdogHalf_keeps {ps : List Part} {s0 s t : State} (hw : Within [.engines] ps) (h : Keeps ps s0 s) 
    (he : execAppWatchdogHalf s = .next t) : Keeps ps s0 t := by
  unfold execAppWatchdogHalf at he
  injection he with he
  subst he
  repeat' (first
    | (with_reducible assumption) | (with_reducible refine State.appHalf_keeps (hw.of rfl) ?_)
    | (with_reducible refine Keeps.ite ?_ ?_) | (with_reducible refine Keeps.foldl _ (fun _ _ _ => ?_) ?_) | intro _
    | split | dsimp only)

theorem execCanObjDataWrite_keeps {ps : List Part} {s0 s t : State} (hw : Within [.can, .engines] ps) (h : Keeps ps s0
    s) (a1 : Fin 64) (a2 : BitVec 32)
    (he : execCanObjDataWrite a1 a2 s = .next t) : Keeps ps s0 t := by
  unfold execCanObjDataWrite at he
  injection he with he
  subst he
  repeat' (first
    | (with_reducible assumption) | (with_reducible refine State.canObjWord_keeps (hw.of rfl) ?_ _ _ _)
    | (with_reducible refine Keeps.ite ?_ ?_) | (with_reducible refine Keeps.foldl _ (fun _ _ _ => ?_) ?_) | intro _
    | split | dsimp only)

theorem execCanRxqPop_keeps {ps : List Part} {s0 s t : State} (hw : Within [.can, .engines] ps) (h : Keeps ps s0 s) (a1
    : Bool)
    (he : execCanRxqPop a1 s = .next t) : Keeps ps s0 t := by
  unfold execCanRxqPop at he
  injection he with he
  subst he
  repeat' (first
    | (with_reducible assumption) | (with_reducible refine State.canPop_keeps (hw.of rfl) ?_ _)
    | (with_reducible refine Keeps.ite ?_ ?_) | (with_reducible refine Keeps.foldl _ (fun _ _ _ => ?_) ?_) | intro _
    | split | dsimp only)

theorem execCanTxabortWrite_keeps {ps : List Part} {s0 s t : State} (hw : Within [.can, .engines] ps) (h : Keeps ps s0
    s) (a1 : BitVec 32)
    (he : execCanTxabortWrite a1 s = .next t) : Keeps ps s0 t := by
  unfold execCanTxabortWrite at he
  injection he with he
  subst he
  repeat' (first
    | (with_reducible assumption) | (with_reducible refine State.canAbort_keeps (hw.of rfl) ?_ _)
    | (with_reducible refine Keeps.ite ?_ ?_) | (with_reducible refine Keeps.foldl _ (fun _ _ _ => ?_) ?_) | intro _
    | split | dsimp only)

theorem execCanTxreqWrite_keeps {ps : List Part} {s0 s t : State} (hw : Within [.can, .engines] ps) (h : Keeps ps s0 s)
    (a1 : BitVec 32)
    (he : execCanTxreqWrite a1 s = .next t) : Keeps ps s0 t := by
  unfold execCanTxreqWrite at he
  injection he with he
  subst he
  repeat' (first
    | (with_reducible assumption) | (with_reducible refine State.canRequest_keeps (hw.of rfl) ?_ _)
    | (with_reducible refine Keeps.ite ?_ ?_) | (with_reducible refine Keeps.foldl _ (fun _ _ _ => ?_) ?_) | intro _
    | split | dsimp only)

theorem execCommsRestart_keeps {ps : List Part} {s0 s t : State} (hw : Within [.fcp, .engines] ps) (h : Keeps ps s0 s) 
    (he : execCommsRestart s = .next t) : Keeps ps s0 t := by
  unfold execCommsRestart at he
  injection he with he
  subst he
  repeat' (first
    | (with_reducible assumption) | (with_reducible refine State.commsRestarts_keeps (hw.of rfl) ?_)
    | (with_reducible refine Keeps.ite ?_ ?_) | (with_reducible refine Keeps.foldl _ (fun _ _ _ => ?_) ?_) | intro _
    | split | dsimp only)

theorem execCommsWatchdogExpiry_keeps {ps : List Part} {s0 s t : State} (hw : Within [.free, .doors, .quince, .loop,
    .outs, .fcp, .log, .power, .engines, .service, .config] ps) (h : Keeps ps s0 s) 
    (he : execCommsWatchdogExpiry s = .next t) : Keeps ps s0 t := by
  unfold execCommsWatchdogExpiry at he
  injection he with he
  subst he
  repeat' (first
    | (with_reducible assumption) | (with_reducible refine State.commsExpires_keeps (hw.of rfl) ?_)
    | (with_reducible refine Keeps.ite ?_ ?_) | (with_reducible refine Keeps.foldl _ (fun _ _ _ => ?_) ?_) | intro _
    | split | dsimp only)

theorem execIntcCompleteWrite_keeps {ps : List Part} {s0 s t : State} (hw : Within [.free, .doors, .quince, .loop,
    .outs, .fcp, .log, .can, .power, .engines, .service, .config] ps) (h : Keeps ps s0 s) (a1 : Engine) (a2 : BitVec 32)
    (he : execIntcCompleteWrite a1 a2 s = .next t) : Keeps ps s0 t := by
  unfold execIntcCompleteWrite at he
  injection he with he
  subst he
  repeat' (first
    | (with_reducible assumption) | (with_reducible refine State.completes_keeps (hw.of rfl) ?_ _ _)
    | (with_reducible refine Keeps.ite ?_ ?_) | (with_reducible refine Keeps.foldl _ (fun _ _ _ => ?_) ?_) | intro _
    | split | dsimp only)

theorem execIntcCtrlWrite_keeps {ps : List Part} {s0 s t : State} (hw : Within [.engines] ps) (h : Keeps ps s0 s) (a1 :
    Engine) (a2 : BitVec 32)
    (he : execIntcCtrlWrite a1 a2 s = .next t) : Keeps ps s0 t := by
  unfold execIntcCtrlWrite at he
  injection he with he
  subst he
  repeat' (first
    | (with_reducible assumption) | (with_reducible refine State.intcControl_keeps (hw.of rfl) ?_ _ _)
    | (with_reducible refine Keeps.ite ?_ ?_) | (with_reducible refine Keeps.foldl _ (fun _ _ _ => ?_) ?_) | intro _
    | split | dsimp only)

theorem execInterruptDelivery_keeps {ps : List Part} {s0 s t : State} (hw : Within [.free, .engines] ps) (h : Keeps ps
    s0 s) (a1 : Engine) (a2 : Fin 128) (a3 : BitVec 8)
    (he : execInterruptDelivery a1 a2 a3 s = .next t) : Keeps ps s0 t := by
  unfold execInterruptDelivery at he
  injection he with he
  subst he
  repeat' (first
    | (with_reducible assumption) | (with_reducible refine State.delivers_keeps (hw.of rfl) ?_ _ _ _)
    | (with_reducible refine Keeps.ite ?_ ?_) | (with_reducible refine Keeps.foldl _ (fun _ _ _ => ?_) ?_) | intro _
    | split | dsimp only)

theorem execLeafEngineRestart_keeps {ps : List Part} {s0 s t : State} (hw : Within [.free, .doors, .quince, .loop,
    .outs, .fcp, .log, .engines, .service] ps) (h : Keeps ps s0 s) (a1 : DoorIx)
    (he : execLeafEngineRestart a1 s = .next t) : Keeps ps s0 t := by
  unfold execLeafEngineRestart at he
  injection he with he
  subst he
  repeat' (first
    | (with_reducible assumption) | (with_reducible refine State.leafRestarts_keeps (hw.of rfl) ?_ _)
    | (with_reducible refine Keeps.ite ?_ ?_) | (with_reducible refine Keeps.foldl _ (fun _ _ _ => ?_) ?_) | intro _
    | split | dsimp only)

theorem execLeafWatchdogExpiry_keeps {ps : List Part} {s0 s t : State} (hw : Within [.free, .doors, .quince, .loop,
    .outs, .fcp, .log, .engines, .service] ps) (h : Keeps ps s0 s) (a1 : DoorIx)
    (he : execLeafWatchdogExpiry a1 s = .next t) : Keeps ps s0 t := by
  unfold execLeafWatchdogExpiry at he
  injection he with he
  subst he
  repeat' (first
    | (with_reducible assumption) | (with_reducible refine State.leafExpires_keeps (hw.of rfl) ?_ _)
    | (with_reducible refine Keeps.ite ?_ ?_) | (with_reducible refine Keeps.foldl _ (fun _ _ _ => ?_) ?_) | intro _
    | split | dsimp only)

theorem execLockstepMismatch_keeps {ps : List Part} {s0 s t : State} (hw : Within [.free, .doors, .quince, .loop,
    .outs, .fcp, .log, .engines, .service] ps) (h : Keeps ps s0 s) 
    (he : execLockstepMismatch s = .next t) : Keeps ps s0 t := by
  unfold execLockstepMismatch at he
  injection he with he
  subst he
  repeat' (first
    | (with_reducible assumption) | (with_reducible refine State.supvStops_keeps (hw.of rfl) ?_ _)
    | (with_reducible refine Keeps.ite ?_ ?_) | (with_reducible refine Keeps.foldl _ (fun _ _ _ => ?_) ?_) | intro _
    | split | dsimp only)

theorem execMbxAck_keeps {ps : List Part} {s0 s t : State} (hw : Within [.engines] ps) (h : Keeps ps s0 s) (a1 : BitVec
    32)
    (he : execMbxAck a1 s = .next t) : Keeps ps s0 t := by
  unfold execMbxAck at he
  injection he with he
  subst he
  repeat' (first
    | (with_reducible assumption) | (with_reducible refine State.mailAck_keeps (hw.of rfl) ?_ _)
    | (with_reducible refine Keeps.ite ?_ ?_) | (with_reducible refine Keeps.foldl _ (fun _ _ _ => ?_) ?_) | intro _
    | split | dsimp only)

theorem execMbxInboundFill_keeps {ps : List Part} {s0 s t : State} (hw : Within [.fcp, .engines] ps) (h : Keeps ps s0 s) 
    (he : execMbxInboundFill s = .next t) : Keeps ps s0 t := by
  unfold execMbxInboundFill at he
  injection he with he
  subst he
  repeat' (first
    | (with_reducible assumption) | (with_reducible refine State.mailFill_keeps (hw.of rfl) ?_)
    | (with_reducible refine Keeps.ite ?_ ?_) | (with_reducible refine Keeps.foldl _ (fun _ _ _ => ?_) ?_) | intro _
    | split | dsimp only)

theorem execMbxPost_keeps {ps : List Part} {s0 s t : State} (hw : Within [.engines] ps) (h : Keeps ps s0 s) (a1 :
    BitVec 32)
    (he : execMbxPost a1 s = .next t) : Keeps ps s0 t := by
  unfold execMbxPost at he
  injection he with he
  subst he
  repeat' (first
    | (with_reducible assumption) | (with_reducible refine State.mailPost_keeps (hw.of rfl) ?_ _)
    | (with_reducible refine Keeps.ite ?_ ?_) | (with_reducible refine Keeps.foldl _ (fun _ _ _ => ?_) ?_) | intro _
    | split | dsimp only)

theorem execMbxSlotTaken_keeps {ps : List Part} {s0 s t : State} (hw : Within [.free, .doors, .quince, .train, .loop,
    .lsw, .outs, .fcp, .log, .ring, .can, .power, .engines, .service, .config] ps) (h : Keeps ps s0 s) 
    (he : execMbxSlotTaken s = .next t) : Keeps ps s0 t := by
  unfold execMbxSlotTaken at he
  injection he with he
  subst he
  repeat' (first
    | (with_reducible assumption) | (with_reducible refine State.mailTaken_keeps (hw.of rfl) ?_)
    | (with_reducible refine Keeps.ite ?_ ?_) | (with_reducible refine Keeps.foldl _ (fun _ _ _ => ?_) ?_) | intro _
    | split | dsimp only)

theorem execMirrorRefresh_keeps {ps : List Part} {s0 s t : State} (hw : Within [.engines] ps) (h : Keeps ps s0 s) 
    (he : execMirrorRefresh s = .next t) : Keeps ps s0 t := by
  unfold execMirrorRefresh at he
  injection he with he
  subst he
  repeat' (first
    | (with_reducible assumption) | (with_reducible refine State.mirrorRefresh_keeps (hw.of rfl) ?_)
    | (with_reducible refine Keeps.ite ?_ ?_) | (with_reducible refine Keeps.foldl _ (fun _ _ _ => ?_) ?_) | intro _
    | split | dsimp only)

theorem execOutOfRightsAccess_keeps {ps : List Part} {s0 s t : State} (hw : Within [.engines] ps) (h : Keeps ps s0 s)
    (a1 : BitVec 32)
    (he : execOutOfRightsAccess a1 s = .next t) : Keeps ps s0 t := by
  unfold execOutOfRightsAccess at he
  injection he with he
  subst he
  repeat' (first
    | (with_reducible assumption) | (with_reducible refine State.violates_keeps (hw.of rfl) ?_ _)
    | (with_reducible refine Keeps.ite ?_ ?_) | (with_reducible refine Keeps.foldl _ (fun _ _ _ => ?_) ?_) | intro _
    | split | dsimp only)

theorem execRegisterWrite_keeps {ps : List Part} {s0 s t : State} (hw : Within [.free, .doors, .quince, .loop, .outs,
    .fcp, .log, .can, .power, .engines, .service, .config] ps) (h : Keeps ps s0 s) (a1 : BitVec 32) (a2 : AccessWidth)
    (a3 : BitVec 32)
    (he : execRegisterWrite a1 a2 a3 s = .next t) : Keeps ps s0 t := by
  unfold execRegisterWrite at he
  injection he with he
  subst he
  repeat' (first
    | (with_reducible assumption) | (with_reducible refine State.writeRegister_keeps (hw.of rfl) ?_ _ _ _)
    | (with_reducible refine Keeps.ite ?_ ?_) | (with_reducible refine Keeps.foldl _ (fun _ _ _ => ?_) ?_) | intro _
    | split | dsimp only)

theorem execSupvRestart_keeps {ps : List Part} {s0 s t : State} (hw : Within [.free, .doors, .quince, .loop, .outs,
    .fcp, .log, .engines, .service] ps) (h : Keeps ps s0 s) 
    (he : execSupvRestart s = .next t) : Keeps ps s0 t := by
  unfold execSupvRestart at he
  injection he with he
  subst he
  repeat' (first
    | (with_reducible assumption) | (with_reducible refine State.supvRestarts_keeps (hw.of rfl) ?_)
    | (with_reducible refine Keeps.ite ?_ ?_) | (with_reducible refine Keeps.foldl _ (fun _ _ _ => ?_) ?_) | intro _
    | split | dsimp only)

theorem execSupvWatchdogExpiry_keeps {ps : List Part} {s0 s t : State} (hw : Within [.free, .doors, .quince, .loop,
    .outs, .fcp, .log, .engines, .service] ps) (h : Keeps ps s0 s) 
    (he : execSupvWatchdogExpiry s = .next t) : Keeps ps s0 t := by
  unfold execSupvWatchdogExpiry at he
  injection he with he
  subst he
  repeat' (first
    | (with_reducible assumption) | (with_reducible refine State.supvStops_keeps (hw.of rfl) ?_ _)
    | (with_reducible refine Keeps.ite ?_ ?_) | (with_reducible refine Keeps.foldl _ (fun _ _ _ => ?_) ?_) | intro _
    | split | dsimp only)

theorem execTmrCtrlWrite_keeps {ps : List Part} {s0 s t : State} (hw : Within [.engines] ps) (h : Keeps ps s0 s) (a1 :
    Fin 4) (a2 : BitVec 32)
    (he : execTmrCtrlWrite a1 a2 s = .next t) : Keeps ps s0 t := by
  unfold execTmrCtrlWrite at he
  injection he with he
  subst he
  repeat' (first
    | (with_reducible assumption) | (with_reducible refine State.timerControl_keeps (hw.of rfl) ?_ _ _)
    | (with_reducible refine Keeps.ite ?_ ?_) | (with_reducible refine Keeps.foldl _ (fun _ _ _ => ?_) ?_) | intro _
    | split | dsimp only)

theorem execTmrNowLoRead_keeps {ps : List Part} {s0 s t : State} (hw : Within [.engines] ps) (h : Keeps ps s0 s) 
    (he : execTmrNowLoRead s = .next t) : Keeps ps s0 t := by
  unfold execTmrNowLoRead at he
  injection he with he
  subst he
  repeat' (first
    | (with_reducible assumption) | (with_reducible refine State.readNow_keeps (hw.of rfl) ?_)
    | (with_reducible refine Keeps.ite ?_ ?_) | (with_reducible refine Keeps.foldl _ (fun _ _ _ => ?_) ?_) | intro _
    | split | dsimp only)

theorem execTmrWdKick_keeps {ps : List Part} {s0 s t : State} (hw : Within [.free, .doors, .quince, .loop, .outs, .fcp,
    .log, .can, .power, .engines, .service, .config] ps) (h : Keeps ps s0 s) (a1 : BitVec 32)
    (he : execTmrWdKick a1 s = .next t) : Keeps ps s0 t := by
  unfold execTmrWdKick at he
  injection he with he
  subst he
  repeat' (first
    | (with_reducible assumption) | (with_reducible refine State.writeRegister_keeps (hw.of rfl) ?_ _ _ _)
    | (with_reducible refine Keeps.ite ?_ ?_) | (with_reducible refine Keeps.foldl _ (fun _ _ _ => ?_) ?_) | intro _
    | split | dsimp only)

end Sys2Proof.Machine
end

