-- ==== Sys2Proof/Laws/KeepsNetEvents.lean ====
section
/-!
SUPPORT. For every operation of Machine/NetEvents.lean: the parts of State it may change, and that it keeps the invariant.
-/

set_option linter.unusedVariables false
set_option linter.unusedSimpArgs false

namespace Sys2Proof.Machine

theorem State.alarm_keeps {ps : List Part} {s0 s : State} (hw : Within [.power] ps) (h : Keeps ps s0 s)  :
    Keeps ps s0 (State.alarm s) := by
  unfold State.alarm
  repeat' (first
    | (with_reducible assumption) | (with_reducible refine State.wakeCause_keeps (hw.of rfl) ?_ _)
    | (with_reducible refine Keeps.ite ?_ ?_) | (with_reducible refine Keeps.foldl _ (fun _ _ _ => ?_) ?_) | intro _
    | split | dsimp only)

theorem State.autoResumes_keeps {ps : List Part} {s0 s : State} (hw : Within [.free, .doors, .quince, .loop, .outs,
    .fcp, .log, .service] ps) (h : Keeps ps s0 s) (a2 : DoorIx) :
    Keeps ps s0 (State.autoResumes s a2) := by
  unfold State.autoResumes
  repeat' (first
    | (with_reducible assumption) | (with_reducible refine State.runDoor_keeps (hw.of rfl) ?_ _ _)
    | (with_reducible refine Keeps.ite ?_ ?_) | (with_reducible refine Keeps.foldl _ (fun _ _ _ => ?_) ?_) | intro _
    | split | dsimp only)

theorem State.takeRing_keeps {ps : List Part} {s0 s : State} (hw : Within [.fcp, .ring] ps) (h : Keeps ps s0 s) (a2 :
    Ring × Events) :
    Keeps ps s0 (State.takeRing s a2) := by
  unfold State.takeRing
  repeat' (first
    | (with_reducible assumption) | (with_reducible exact id)
    | (with_reducible refine State.events_keeps (hw.of rfl) ?_ _) | (with_reducible refine Keeps.ite ?_ ?_)
    | rw [State.put_ring] | (with_reducible refine Keeps.putRing (hw.of rfl) ?_)
    | (with_reducible refine Keeps.foldl _ (fun _ _ _ => ?_) ?_) | intro _ | split | dsimp only)

theorem State.markStepped_keeps {ps : List Part} {s0 s : State} (hw : Within [.doors, .log] ps) (h : Keeps ps s0 s)  :
    Keeps ps s0 (State.markStepped s) := by
  unfold State.markStepped
  repeat' (first
    | (with_reducible assumption) | (with_reducible exact id) | (with_reducible refine Keeps.ite ?_ ?_)
    | rw [State.put_doors_log] | (with_reducible refine Keeps.putDoors (hw.of rfl) ?_)
    | (with_reducible refine Keeps.putLog (hw.of rfl) ?_) | (with_reducible refine Keeps.foldl _ (fun _ _ _ => ?_) ?_)
    | intro _ | split | dsimp only)

theorem State.stepChannel_keeps {ps : List Part} {s0 s : State} (hw : Within [.fcp, .can] ps) (h : Keeps ps s0 s) (a2 :
    CanIx) :
    Keeps ps s0 (State.stepChannel s a2) := by
  unfold State.stepChannel
  repeat' (first
    | (with_reducible assumption) | (with_reducible exact id)
    | (with_reducible refine State.events_keeps (hw.of rfl) ?_ _) | (with_reducible refine Keeps.ite ?_ ?_)
    | rw [State.put_can] | (with_reducible refine Keeps.putCan (hw.of rfl) ?_)
    | (with_reducible refine Keeps.foldl _ (fun _ _ _ => ?_) ?_) | intro _ | split | dsimp only)

theorem State.stepTime_keeps {ps : List Part} {s0 s : State} (hw : Within [.now, .doors, .fcp, .log, .can] ps) (h :
    Keeps ps s0 s) (a2 : Int) :
    Keeps ps s0 (State.stepTime s a2) := by
  unfold State.stepTime
  repeat' (first
    | (with_reducible assumption) | (with_reducible exact id)
    | (with_reducible refine State.markStepped_keeps (hw.of rfl) ?_)
    | (with_reducible refine State.stage_keeps (hw.of rfl) ?_ _ _)
    | (with_reducible refine State.stepChannel_keeps (hw.of rfl) ?_ _) | (with_reducible refine Keeps.ite ?_ ?_)
    | rw [State.put_now] | (with_reducible refine Keeps.putNow (hw.of rfl) ?_)
    | (with_reducible refine Keeps.foldl _ (fun _ _ _ => ?_) ?_) | intro _ | split | dsimp only)

theorem State.timeFix_keeps {ps : List Part} {s0 s : State} (hw : Within [.now, .doors, .fcp, .log, .can] ps) (h :
    Keeps ps s0 s) (a2 : TimeFix) :
    Keeps ps s0 (State.timeFix s a2) := by
  unfold State.timeFix
  repeat' (first
    | (with_reducible assumption) | (with_reducible refine State.stepTime_keeps (hw.of rfl) ?_ _)
    | (with_reducible refine Keeps.ite ?_ ?_) | (with_reducible refine Keeps.foldl _ (fun _ _ _ => ?_) ?_) | intro _
    | split | dsimp only)

theorem State.beaconArrives_keeps {ps : List Part} {s0 s : State} (hw : Within [.now, .doors, .fcp, .log, .ring, .can]
    ps) (h : Keeps ps s0 s) (a2 : PortIx) (a3 : RingFrame) :
    Keeps ps s0 (State.beaconArrives s a2 a3) := by
  unfold State.beaconArrives
  repeat' (first
    | (with_reducible assumption) | (with_reducible refine State.takeRing_keeps (hw.of rfl) ?_ _)
    | (with_reducible refine State.timeFix_keeps (hw.of rfl) ?_ _) | (with_reducible refine Keeps.ite ?_ ?_)
    | (with_reducible refine Keeps.foldl _ (fun _ _ _ => ?_) ?_) | intro _ | split | dsimp only)

theorem State.inputWakes_keeps {ps : List Part} {s0 s : State} (hw : Within [.power] ps) (h : Keeps ps s0 s) (a2 :
    GroupIx) (a3 : BitVec 16) (a4 : BitVec 16) :
    Keeps ps s0 (State.inputWakes s a2 a3 a4) := by
  unfold State.inputWakes
  repeat' (first
    | (with_reducible assumption) | (with_reducible refine State.wakeCause_keeps (hw.of rfl) ?_ _)
    | (with_reducible refine Keeps.ite ?_ ?_) | (with_reducible refine Keeps.foldl _ (fun _ _ _ => ?_) ?_) | intro _
    | split | dsimp only)

theorem State.keeperBurst_keeps {ps : List Part} {s0 s : State} (hw : Within [.loop] ps) (h : Keeps ps s0 s) (a2 :
    GroupIx) (a3 : BitVec 16) (a4 : Bool) :
    Keeps ps s0 (State.keeperBurst s a2 a3 a4) := by
  unfold State.keeperBurst
  repeat' (first
    | (with_reducible assumption) | (with_reducible exact id) | (with_reducible refine Keeps.ite ?_ ?_)
    | (with_reducible refine Keeps.dite (fun _ => ?_) (fun _ => ?_)) | rw [State.put_loop]
    | (with_reducible refine Keeps.putLoop (hw.of rfl) ?_)
    | (with_reducible refine Keeps.foldl _ (fun _ _ _ => ?_) ?_) | intro _ | split | dsimp only)

theorem State.burst_keeps {ps : List Part} {s0 s : State} (hw : Within [.free, .doors, .quince, .train, .loop, .outs,
    .fcp, .log, .power, .service] ps) (h : Keeps ps s0 s) (a2 : GroupIx × BitVec 16 × Bool) :
    Keeps ps s0 (State.burst s a2) := by
  unfold State.burst
  repeat' (first
    | (with_reducible assumption) | (with_reducible refine State.onGroup_keeps (hw.of rfl) ?_ _ _)
    | (with_reducible refine State.inputWakes_keeps (hw.of rfl) ?_ _ _ _)
    | (with_reducible refine State.keeperBurst_keeps (hw.of rfl) ?_ _ _ _)
    | (with_reducible refine State.groupValid_keeps (hw.of rfl) ?_ _) | (with_reducible refine Keeps.ite ?_ ?_)
    | (with_reducible refine Keeps.foldl _ (fun _ _ _ => ?_) ?_) | intro _ | split | dsimp only)

theorem State.dropPartials_keeps {ps : List Part} {s0 s : State} (hw : Within [.fcp] ps) (h : Keeps ps s0 s) (a2 :
    CanIx) :
    Keeps ps s0 (State.dropPartials s a2) := by
  unfold State.dropPartials
  repeat' (first
    | (with_reducible assumption) | (with_reducible refine State.partialTimeout_keeps (hw.of rfl) ?_ _)
    | (with_reducible refine Keeps.ite ?_ ?_) | (with_reducible refine Keeps.foldl _ (fun _ _ _ => ?_) ?_) | intro _
    | split | dsimp only)

theorem State.onChannel_keeps {ps : List Part} {s0 s : State} (hw : Within [.fcp, .can] ps) (h : Keeps ps s0 s) (a2 :
    CanIx) (a3 : (CanChannel → CanEnv → CanChannel × Events)) :
    Keeps ps s0 (State.onChannel s a2 a3) := by
  unfold State.onChannel
  repeat' (first
    | (with_reducible assumption) | (with_reducible exact id)
    | (with_reducible refine State.events_keeps (hw.of rfl) ?_ _) | (with_reducible refine Keeps.ite ?_ ?_)
    | rw [State.put_can] | (with_reducible refine Keeps.putCan (hw.of rfl) ?_)
    | (with_reducible refine Keeps.foldl _ (fun _ _ _ => ?_) ?_) | intro _ | split | dsimp only)

theorem State.busOff_keeps {ps : List Part} {s0 s : State} (hw : Within [.fcp, .can] ps) (h : Keeps ps s0 s) (a2 :
    CanIx) :
    Keeps ps s0 (State.busOff s a2) := by
  unfold State.busOff
  repeat' (first
    | (with_reducible assumption) | (with_reducible refine State.dropPartials_keeps (hw.of rfl) ?_ _)
    | (with_reducible refine State.onChannel_keeps (hw.of rfl) ?_ _ _) | (with_reducible refine Keeps.ite ?_ ?_)
    | (with_reducible refine Keeps.foldl _ (fun _ _ _ => ?_) ?_) | intro _ | split | dsimp only)

theorem State.canFrame_keeps {ps : List Part} {s0 s : State} (hw : Within [.free, .doors, .quince, .train, .loop, .lsw,
    .outs, .fcp, .log, .ring, .can, .power, .engines, .service, .config] ps) (h : Keeps ps s0 s) (a2 : CanIx) (a3 :
    CanFrame) :
    Keeps ps s0 (State.canFrame s a2 a3) := by
  unfold State.canFrame
  repeat' (first
    | (with_reducible assumption) | (with_reducible exact id)
    | (with_reducible refine State.segment_keeps (hw.of rfl) ?_ _ _ _)
    | (with_reducible refine State.events_keeps (hw.of rfl) ?_ _) | (with_reducible refine Keeps.ite ?_ ?_)
    | rw [State.put_can] | (with_reducible refine Keeps.putCan (hw.of rfl) ?_)
    | (with_reducible refine Keeps.foldl _ (fun _ _ _ => ?_) ?_) | intro _ | split | dsimp only)

theorem State.canServed_keeps {ps : List Part} {s0 s : State} (hw : Within [.fcp, .can] ps) (h : Keeps ps s0 s) (a2 :
    CanIx) :
    Keeps ps s0 (State.canServed s a2) := by
  unfold State.canServed
  repeat' (first
    | (with_reducible assumption) | (with_reducible refine State.onChannel_keeps (hw.of rfl) ?_ _ _)
    | (with_reducible refine Keeps.ite ?_ ?_) | (with_reducible refine Keeps.foldl _ (fun _ _ _ => ?_) ?_) | intro _
    | split | dsimp only)

theorem State.canWakes_keeps {ps : List Part} {s0 s : State} (hw : Within [.power] ps) (h : Keeps ps s0 s) (a2 : CanIx) :
    Keeps ps s0 (State.canWakes s a2) := by
  unfold State.canWakes
  repeat' (first
    | (with_reducible assumption) | (with_reducible refine State.wakeCause_keeps (hw.of rfl) ?_ _)
    | (with_reducible refine Keeps.ite ?_ ?_) | (with_reducible refine Keeps.foldl _ (fun _ _ _ => ?_) ?_) | intro _
    | split | dsimp only)

theorem State.flushEnds_keeps {ps : List Part} {s0 s : State} (hw : Within [.fcp, .log, .power] ps) (h : Keeps ps s0 s)
    (a2 : Nat) :
    Keeps ps s0 (State.flushEnds s a2) := by
  unfold State.flushEnds
  repeat' (first
    | (with_reducible assumption) | (with_reducible refine State.entryChecks_keeps (hw.of rfl) ?_)
    | (with_reducible refine State.flushDone_keeps (hw.of rfl) ?_)
    | (with_reducible refine State.takeLog_keeps (hw.of rfl) ?_ _) | (with_reducible refine Keeps.ite ?_ ?_)
    | (with_reducible refine Keeps.foldl _ (fun _ _ _ => ?_) ?_) | intro _ | split | dsimp only)

theorem State.flushRecord_keeps {ps : List Part} {s0 s : State} (hw : Within [.log] ps) (h : Keeps ps s0 s)  :
    Keeps ps s0 (State.flushRecord s) := by
  unfold State.flushRecord
  repeat' (first
    | (with_reducible assumption) | (with_reducible exact id) | (with_reducible refine Keeps.ite ?_ ?_)
    | rw [State.put_log] | (with_reducible refine Keeps.putLog (hw.of rfl) ?_)
    | (with_reducible refine Keeps.foldl _ (fun _ _ _ => ?_) ?_) | intro _ | split | dsimp only)

theorem State.flushStarts_keeps {ps : List Part} {s0 s : State} (hw : Within [.log] ps) (h : Keeps ps s0 s)  :
    Keeps ps s0 (State.flushStarts s) := by
  unfold State.flushStarts
  repeat' (first
    | (with_reducible assumption) | (with_reducible exact id) | (with_reducible refine Keeps.ite ?_ ?_)
    | rw [State.put_log] | (with_reducible refine Keeps.putLog (hw.of rfl) ?_)
    | (with_reducible refine Keeps.foldl _ (fun _ _ _ => ?_) ?_) | intro _ | split | dsimp only)

theorem State.frameSent_keeps {ps : List Part} {s0 s : State} (hw : Within [.fcp, .can] ps) (h : Keeps ps s0 s) (a2 :
    CanIx) (a3 : BitVec 3) (a4 : TxResult) :
    Keeps ps s0 (State.frameSent s a2 a3 a4) := by
  unfold State.frameSent
  repeat' (first
    | (with_reducible assumption)
    | (with_reducible exact id)
    | (with_reducible refine State.events_keeps (hw.of rfl) ?_ _)
    | (with_reducible refine Keeps.ite ?_ ?_)
    | rw [State.put_can]
    | (with_reducible refine Keeps.putCan (hw.of rfl) ?_)
    | (with_reducible refine Keeps.foldl _ (fun _ _ _ => ?_) ?_)
    | intro _
    | split
    | dsimp only)

theorem State.keeperWakes_keeps {ps : List Part} {s0 s : State} (hw : Within [.power] ps) (h : Keeps ps s0 s)  :
    Keeps ps s0 (State.keeperWakes s) := by
  unfold State.keeperWakes
  repeat' (first
    | (with_reducible assumption) | (with_reducible refine State.wakeCause_keeps (hw.of rfl) ?_ _)
    | (with_reducible refine Keeps.ite ?_ ?_) | (with_reducible refine Keeps.foldl _ (fun _ _ _ => ?_) ?_) | intro _
    | split | dsimp only)

theorem State.groupLost_keeps {ps : List Part} {s0 s : State} (hw : Within [.free, .doors, .quince, .train, .loop,
    .outs, .fcp, .log, .power, .service] ps) (h : Keeps ps s0 s) (a2 : GroupIx) :
    Keeps ps s0 (State.groupLost s a2) := by
  unfold State.groupLost
  repeat' (first
    | (with_reducible assumption) | (with_reducible refine State.groupInvalid_keeps (hw.of rfl) ?_ _)
    | (with_reducible refine State.keeperWakes_keeps (hw.of rfl) ?_) | (with_reducible refine Keeps.ite ?_ ?_)
    | (with_reducible refine Keeps.foldl _ (fun _ _ _ => ?_) ?_) | intro _ | split | dsimp only)

theorem State.incidentEnds_keeps {ps : List Part} {s0 s : State} (hw : Within [.free, .fcp, .log] ps) (h : Keeps ps s0
    s) (a2 : Fin 9) :
    Keeps ps s0 (State.incidentEnds s a2) := by
  unfold State.incidentEnds
  repeat' (first
    | (with_reducible assumption) | (with_reducible refine State.fresh_keeps (hw.of rfl) ?_)
    | (with_reducible refine State.takeLog_keeps (hw.of rfl) ?_ _) | (with_reducible refine Keeps.ite ?_ ?_)
    | (with_reducible refine Keeps.foldl _ (fun _ _ _ => ?_) ?_) | intro _ | split | dsimp only)

theorem State.latestStart_keeps {ps : List Part} {s0 s : State} (hw : Within [.can] ps) (h : Keeps ps s0 s) (a2 :
    CanIx) (a3 : TxBuf) :
    Keeps ps s0 (State.latestStart s a2 a3) := by
  unfold State.latestStart
  repeat' (first
    | (with_reducible assumption) | (with_reducible exact id) | (with_reducible refine Keeps.ite ?_ ?_)
    | rw [State.put_can] | (with_reducible refine Keeps.putCan (hw.of rfl) ?_)
    | (with_reducible refine Keeps.foldl _ (fun _ _ _ => ?_) ?_) | intro _ | split | dsimp only)

theorem State.loadSlot_keeps {ps : List Part} {s0 s : State} (hw : Within [.can] ps) (h : Keeps ps s0 s) (a2 : CanIx)
    (a3 : Nat) :
    Keeps ps s0 (State.loadSlot s a2 a3) := by
  unfold State.loadSlot
  repeat' (first
    | (with_reducible assumption) | (with_reducible exact id) | (with_reducible refine Keeps.ite ?_ ?_)
    | rw [State.put_can] | (with_reducible refine Keeps.putCan (hw.of rfl) ?_)
    | (with_reducible refine Keeps.foldl _ (fun _ _ _ => ?_) ?_) | intro _ | split | dsimp only)

theorem State.onInserted_keeps {ps : List Part} {s0 s : State} (hw : Within [.fcp, .ring] ps) (h : Keeps ps s0 s) (a2 :
    (Ring → RingEnv → Ring × Events)) :
    Keeps ps s0 (State.onInserted s a2) := by
  unfold State.onInserted
  repeat' (first
    | (with_reducible assumption) | (with_reducible refine State.takeRing_keeps (hw.of rfl) ?_ _)
    | (with_reducible refine Keeps.ite ?_ ?_) | (with_reducible refine Keeps.foldl _ (fun _ _ _ => ?_) ?_) | intro _
    | split | dsimp only)

theorem State.parkEnds_keeps {ps : List Part} {s0 s : State} (hw : Within [.free, .doors, .quince, .loop, .outs, .fcp,
    .log, .power, .service] ps) (h : Keeps ps s0 s) (a2 : DoorIx) :
    Keeps ps s0 (State.parkEnds s a2) := by
  unfold State.parkEnds
  repeat' (first
    | (with_reducible assumption) | (with_reducible refine State.entryChecks_keeps (hw.of rfl) ?_)
    | (with_reducible refine State.atStep_keeps (hw.of rfl) ?_ _ _) | (with_reducible refine Keeps.ite ?_ ?_)
    | (with_reducible refine Keeps.foldl _ (fun _ _ _ => ?_) ?_) | intro _ | split | dsimp only)

theorem State.pathEnds_keeps {ps : List Part} {s0 s : State} (hw : Within [.free, .doors, .quince, .loop, .outs, .fcp,
    .log, .power, .service] ps) (h : Keeps ps s0 s) (a2 : DriveIx) :
    Keeps ps s0 (State.pathEnds s a2) := by
  unfold State.pathEnds
  repeat' (first
    | (with_reducible assumption) | (with_reducible refine State.atDrive_keeps (hw.of rfl) ?_ _ _)
    | (with_reducible refine State.entryChecks_keeps (hw.of rfl) ?_) | (with_reducible refine Keeps.ite ?_ ?_)
    | (with_reducible refine Keeps.foldl _ (fun _ _ _ => ?_) ?_) | intro _ | split | dsimp only)

theorem State.ringWake_keeps {ps : List Part} {s0 s : State} (hw : Within [.power] ps) (h : Keeps ps s0 s) (a2 : Nat)
    (a3 : Nat) :
    Keeps ps s0 (State.ringWake s a2 a3) := by
  unfold State.ringWake
  repeat' (first
    | (with_reducible assumption) | (with_reducible refine State.wakeCause_keeps (hw.of rfl) ?_ _)
    | (with_reducible refine Keeps.ite ?_ ?_) | (with_reducible refine Keeps.foldl _ (fun _ _ _ => ?_) ?_) | intro _
    | split | dsimp only)

theorem State.ringFrame_keeps {ps : List Part} {s0 s : State} (hw : Within [.free, .now, .doors, .quince, .train,
    .loop, .lsw, .outs, .fcp, .log, .ring, .can, .power, .engines, .service, .config] ps) (h : Keeps ps s0 s) (a2 :
    PortIx) (a3 : RingFrame) :
    Keeps ps s0 (State.ringFrame s a2 a3) := by
  unfold State.ringFrame
  repeat' (first
    | (with_reducible assumption) | (with_reducible refine State.takeRing_keeps (hw.of rfl) ?_ _)
    | (with_reducible refine State.packet_keeps (hw.of rfl) ?_ _ _ _ _)
    | (with_reducible refine State.ringWake_keeps (hw.of rfl) ?_ _ _)
    | (with_reducible refine State.beaconArrives_keeps (hw.of rfl) ?_ _ _) | (with_reducible refine Keeps.ite ?_ ?_)
    | (with_reducible refine Keeps.foldl _ (fun _ _ _ => ?_) ?_) | intro _ | split | dsimp only)

theorem State.ringInserts_keeps {ps : List Part} {s0 s : State} (hw : Within [.fcp, .ring] ps) (h : Keeps ps s0 s)  :
    Keeps ps s0 (State.ringInserts s) := by
  unfold State.ringInserts
  repeat' (first
    | (with_reducible assumption) | (with_reducible refine State.takeRing_keeps (hw.of rfl) ?_ _)
    | (with_reducible refine Keeps.ite ?_ ?_) | (with_reducible refine Keeps.foldl _ (fun _ _ _ => ?_) ?_) | intro _
    | split | dsimp only)

theorem State.ringRemoves_keeps {ps : List Part} {s0 s : State} (hw : Within [.ring] ps) (h : Keeps ps s0 s)  :
    Keeps ps s0 (State.ringRemoves s) := by
  unfold State.ringRemoves
  repeat' (first
    | (with_reducible assumption) | (with_reducible exact id) | (with_reducible refine Keeps.ite ?_ ?_)
    | rw [State.put_ring] | (with_reducible refine Keeps.putRing (hw.of rfl) ?_)
    | (with_reducible refine Keeps.foldl _ (fun _ _ _ => ?_) ?_) | intro _ | split | dsimp only)

theorem State.sendBeacon_keeps {ps : List Part} {s0 s : State} (hw : Within [.ring] ps) (h : Keeps ps s0 s)  :
    Keeps ps s0 (State.sendBeacon s) := by
  unfold State.sendBeacon
  repeat' (first
    | (with_reducible assumption) | (with_reducible exact id) | (with_reducible refine Keeps.ite ?_ ?_)
    | rw [State.put_ring] | (with_reducible refine Keeps.putRing (hw.of rfl) ?_)
    | (with_reducible refine Keeps.foldl _ (fun _ _ _ => ?_) ?_) | intro _ | split | dsimp only)

theorem State.sendCan_keeps {ps : List Part} {s0 s : State} (hw : Within [.fcp, .can] ps) (h : Keeps ps s0 s) (a2 :
    CanIx) (a3 : SessIx) (a4 : Packet) :
    Keeps ps s0 (State.sendCan s a2 a3 a4) := by
  unfold State.sendCan
  repeat' (first
    | (with_reducible assumption) | (with_reducible exact id)
    | (with_reducible refine State.onSession_keeps (hw.of rfl) ?_ ?_) | (with_reducible refine Keeps.ite ?_ ?_)
    | rw [State.put_can] | (with_reducible refine Keeps.putCan (hw.of rfl) ?_)
    | (with_reducible apply Fcp.session_bounded) | (with_reducible apply Session.sendNext_bounded)
    | (with_reducible refine Keeps.foldl _ (fun _ _ _ => ?_) ?_) | intro _ | split | dsimp only
    | exact Session.bounded_of (by assumption) rfl rfl rfl | (with_reducible exact Fcp.reset_bounded)
    | (with_reducible refine Fcp.cleared_bounded ?_) | (with_reducible refine Fcp.bounded_rest ?_))

theorem State.sendPacket_keeps {ps : List Part} {s0 s : State} (hw : Within [.fcp, .ring, .can] ps) (h : Keeps ps s0 s)
    (a2 : SessIx) :
    Keeps ps s0 (State.sendPacket s a2) := by
  unfold State.sendPacket
  repeat' (first
    | (with_reducible assumption) | (with_reducible exact id)
    | (with_reducible refine State.sendCan_keeps (hw.of rfl) ?_ _ _ _)
    | (with_reducible refine State.onSession_keeps (hw.of rfl) ?_ ?_) | (with_reducible refine Keeps.ite ?_ ?_)
    | rw [State.put_ring] | (with_reducible refine Keeps.putRing (hw.of rfl) ?_)
    | (with_reducible apply Session.sendNext_bounded) | (with_reducible refine Keeps.foldl _ (fun _ _ _ => ?_) ?_)
    | intro _ | split | dsimp only | exact Session.bounded_of (by assumption) rfl rfl rfl
    | (with_reducible exact Fcp.reset_bounded) | (with_reducible refine Fcp.cleared_bounded ?_)
    | (with_reducible refine Fcp.bounded_rest ?_))

theorem State.stableSample_keeps {ps : List Part} {s0 s : State} (hw : Within [.free, .doors, .quince, .train, .loop,
    .outs, .fcp, .log, .power, .service] ps) (h : Keeps ps s0 s) (a2 : List (GroupIx × BitVec 16 × Bool)) :
    Keeps ps s0 (State.stableSample s a2) := by
  unfold State.stableSample
  repeat' (first
    | (with_reducible assumption) | (with_reducible exact id)
    | (with_reducible refine State.burst_keeps (hw.of rfl) ?_ _)
    | (with_reducible refine State.evaluate_keeps (hw.of rfl) ?_)
    | (with_reducible refine State.keeperWakes_keeps (hw.of rfl) ?_) | (with_reducible refine Keeps.ite ?_ ?_)
    | rw [State.put_outs] | (with_reducible refine Keeps.putOuts (hw.of rfl) ?_)
    | (with_reducible refine Keeps.foldl _ (fun _ _ _ => ?_) ?_) | intro _ | split | dsimp only)

theorem State.stopEnds_keeps {ps : List Part} {s0 s : State} (hw : Within [.free, .doors, .quince, .loop, .outs, .fcp,
    .log, .service] ps) (h : Keeps ps s0 s) (a2 : DriveIx) :
    Keeps ps s0 (State.stopEnds s a2) := by
  unfold State.stopEnds
  repeat' (first
    | (with_reducible assumption) | (with_reducible refine State.atDrive_keeps (hw.of rfl) ?_ _ _)
    | (with_reducible refine Keeps.ite ?_ ?_) | (with_reducible refine Keeps.foldl _ (fun _ _ _ => ?_) ?_) | intro _
    | split | dsimp only)

theorem State.timeAges_keeps {ps : List Part} {s0 s : State} (hw : Within [.fcp, .ring] ps) (h : Keeps ps s0 s)  :
    Keeps ps s0 (State.timeAges s) := by
  unfold State.timeAges
  repeat' (first
    | (with_reducible assumption) | (with_reducible refine State.takeRing_keeps (hw.of rfl) ?_ _)
    | (with_reducible refine Keeps.ite ?_ ?_) | (with_reducible refine Keeps.foldl _ (fun _ _ _ => ?_) ?_) | intro _
    | split | dsimp only)

theorem State.watcher_keeps {ps : List Part} {s0 s : State} (hw : Within [.power] ps) (h : Keeps ps s0 s) (a2 : Nat) :
    Keeps ps s0 (State.watcher s a2) := by
  unfold State.watcher
  repeat' (first
    | (with_reducible assumption) | (with_reducible refine State.onPower_keeps (hw.of rfl) ?_ _)
    | (with_reducible refine State.wakeCause_keeps (hw.of rfl) ?_ _) | (with_reducible refine Keeps.ite ?_ ?_)
    | (with_reducible refine Keeps.foldl _ (fun _ _ _ => ?_) ?_) | intro _ | split | dsimp only)

end Sys2Proof.Machine
end

