-- ==== Sys2Proof/Laws/KeepsFieldMeanings.lean ====
section
/-!
SUPPORT. For every operation of Machine/FieldMeanings.lean: the parts of State it may change, and that it keeps the invariant.
-/

set_option linter.unusedVariables false
set_option linter.unusedSimpArgs false

namespace Sys2Proof.Machine

theorem execBypassChange_keeps {ps : List Part} {s0 s t : State} (hw : Within [.free, .doors, .quince, .train, .loop,
    .outs, .fcp, .log, .service] ps) (h : Keeps ps s0 s) (a1 : Bool)
    (he : execBypassChange a1 s = .next t) : Keeps ps s0 t := by
  unfold execBypassChange at he
  injection he with he
  subst he
  repeat' (first
    | (with_reducible assumption) | (with_reducible refine State.bypassInput_keeps (hw.of rfl) ?_ _)
    | (with_reducible refine Keeps.ite ?_ ?_) | (with_reducible refine Keeps.foldl _ (fun _ _ _ => ?_) ?_) | intro _
    | split | dsimp only)

theorem execCabInputChange_keeps {ps : List Part} {s0 s t : State} (hw : Within [.free, .doors, .quince, .train, .loop,
    .outs, .fcp, .log, .service] ps) (h : Keeps ps s0 s) (a1 : Bool) (a2 : Bool)
    (he : execCabInputChange a1 a2 s = .next t) : Keeps ps s0 t := by
  unfold execCabInputChange at he
  injection he with he
  subst he
  repeat' (first
    | (with_reducible assumption) | (with_reducible refine State.trainInput_keeps (hw.of rfl) ?_ _ _)
    | (with_reducible refine Keeps.ite ?_ ?_) | (with_reducible refine Keeps.foldl _ (fun _ _ _ => ?_) ?_) | intro _
    | split | dsimp only)

theorem execCommonFaultClear_keeps {ps : List Part} {s0 s t : State} (hw : Within [.doors, .train] ps) (h : Keeps ps s0
    s) (a1 : GroupIx)
    (he : execCommonFaultClear a1 s = .next t) : Keeps ps s0 t := by
  unfold execCommonFaultClear at he
  injection he with he
  subst he
  repeat' (first
    | (with_reducible assumption) | (with_reducible refine State.onFront_keeps (hw.of rfl) ?_ _ _)
    | (with_reducible refine Keeps.ite ?_ ?_) | (with_reducible refine Keeps.foldl _ (fun _ _ _ => ?_) ?_) | intro _
    | split | dsimp only)

theorem execDiscrepancyClearExpiry_keeps {ps : List Part} {s0 s t : State} (hw : Within [.free, .doors, .quince, .loop,
    .outs, .fcp, .log, .service] ps) (h : Keeps ps s0 s) 
    (he : execDiscrepancyClearExpiry s = .next t) : Keeps ps s0 t := by
  unfold execDiscrepancyClearExpiry at he
  injection he with he
  subst he
  repeat' (first
    | (with_reducible assumption) | (with_reducible refine State.takeLoop_keeps (hw.of rfl) ?_ _)
    | (with_reducible refine Keeps.ite ?_ ?_) | (with_reducible refine Keeps.foldl _ (fun _ _ _ => ?_) ?_) | intro _
    | split | dsimp only)

theorem execDownlinkFrame_keeps {ps : List Part} {s0 s t : State} (hw : Within [.doors, .train, .outs, .fcp] ps) (h :
    Keeps ps s0 s) (a1 : GroupIx) (a2 : BitVec 4) (a3 : BitVec 4) (a4 : Bool) (a5 : BitVec 4)
    (he : execDownlinkFrame a1 a2 a3 a4 a5 s = .next t) : Keeps ps s0 t := by
  unfold execDownlinkFrame at he
  injection he with he
  subst he
  repeat' (first
    | (with_reducible assumption) | (with_reducible refine State.downlink_keeps (hw.of rfl) ?_ _ _ _ _ _)
    | (with_reducible refine Keeps.ite ?_ ?_) | (with_reducible refine Keeps.foldl _ (fun _ _ _ => ?_) ?_) | intro _
    | split | dsimp only)

theorem execDownlinkLost_keeps {ps : List Part} {s0 s t : State} (hw : Within [.free, .doors, .train, .loop, .outs,
    .fcp] ps) (h : Keeps ps s0 s) 
    (he : execDownlinkLost s = .next t) : Keeps ps s0 t := by
  unfold execDownlinkLost at he
  injection he with he
  subst he
  repeat' (first
    | (with_reducible assumption) | (with_reducible refine State.downlinkLost_keeps (hw.of rfl) ?_)
    | (with_reducible refine Keeps.ite ?_ ?_) | (with_reducible refine Keeps.foldl _ (fun _ _ _ => ?_) ?_) | intro _
    | split | dsimp only)

theorem execFeedOutOfRange_keeps {ps : List Part} {s0 s t : State} (hw : Within [.doors, .train] ps) (h : Keeps ps s0
    s) (a1 : GroupIx)
    (he : execFeedOutOfRange a1 s = .next t) : Keeps ps s0 t := by
  unfold execFeedOutOfRange at he
  injection he with he
  subst he
  repeat' (first
    | (with_reducible assumption) | (with_reducible refine State.onFront_keeps (hw.of rfl) ?_ _ _)
    | (with_reducible refine Keeps.ite ?_ ?_) | (with_reducible refine Keeps.foldl _ (fun _ _ _ => ?_) ?_) | intro _
    | split | dsimp only)

theorem execFlashToggle_keeps {ps : List Part} {s0 s t : State} (hw : Within [.free, .loop, .lsw, .outs, .fcp] ps) (h :
    Keeps ps s0 s) (a1 : ChanIx)
    (he : execFlashToggle a1 s = .next t) : Keeps ps s0 t := by
  unfold execFlashToggle at he
  injection he with he
  subst he
  repeat' (first
    | (with_reducible assumption) | (with_reducible refine State.takeLsw_keeps (hw.of rfl) ?_ _)
    | (with_reducible refine Keeps.ite ?_ ?_) | (with_reducible refine Keeps.foldl _ (fun _ _ _ => ?_) ?_) | intro _
    | split | dsimp only)

theorem execFrontEndSelftest_keeps {ps : List Part} {s0 s t : State} (hw : Within [.doors, .train] ps) (h : Keeps ps s0
    s) (a1 : GroupIx) (a2 : Bool)
    (he : execFrontEndSelftest a1 a2 s = .next t) : Keeps ps s0 t := by
  unfold execFrontEndSelftest at he
  injection he with he
  subst he
  repeat' (first
    | (with_reducible assumption) | (with_reducible refine State.onFront_keeps (hw.of rfl) ?_ _ _)
    | (with_reducible refine Keeps.ite ?_ ?_) | (with_reducible refine Keeps.foldl _ (fun _ _ _ => ?_) ?_) | intro _
    | split | dsimp only)

theorem execFrontEndSupplyFault_keeps {ps : List Part} {s0 s t : State} (hw : Within [.doors, .train] ps) (h : Keeps ps
    s0 s) (a1 : GroupIx) (a2 : Bool)
    (he : execFrontEndSupplyFault a1 a2 s = .next t) : Keeps ps s0 t := by
  unfold execFrontEndSupplyFault at he
  injection he with he
  subst he
  repeat' (first
    | (with_reducible assumption) | (with_reducible refine State.onFront_keeps (hw.of rfl) ?_ _ _)
    | (with_reducible refine Keeps.ite ?_ ?_) | (with_reducible refine Keeps.foldl _ (fun _ _ _ => ?_) ?_) | intro _
    | split | dsimp only)

theorem execGroupInvalid_keeps {ps : List Part} {s0 s t : State} (hw : Within [.free, .doors, .quince, .train, .loop,
    .outs, .fcp, .log, .power, .service] ps) (h : Keeps ps s0 s) (a1 : GroupIx)
    (he : execGroupInvalid a1 s = .next t) : Keeps ps s0 t := by
  unfold execGroupInvalid at he
  injection he with he
  subst he
  repeat' (first
    | (with_reducible assumption) | (with_reducible refine State.groupLost_keeps (hw.of rfl) ?_ _)
    | (with_reducible refine Keeps.ite ?_ ?_) | (with_reducible refine Keeps.foldl _ (fun _ _ _ => ?_) ?_) | intro _
    | split | dsimp only)

theorem execGroupValid_keeps {ps : List Part} {s0 s t : State} (hw : Within [.free, .doors, .quince, .train, .loop,
    .outs, .fcp, .log, .service] ps) (h : Keeps ps s0 s) (a1 : GroupIx)
    (he : execGroupValid a1 s = .next t) : Keeps ps s0 t := by
  unfold execGroupValid at he
  injection he with he
  subst he
  repeat' (first
    | (with_reducible assumption) | (with_reducible refine State.groupValid_keeps (hw.of rfl) ?_ _)
    | (with_reducible refine Keeps.ite ?_ ?_) | (with_reducible refine Keeps.foldl _ (fun _ _ _ => ?_) ?_) | intro _
    | split | dsimp only)

theorem execHeaterMeasurePulse_keeps {ps : List Part} {s0 s t : State} (hw : Within [.free, .loop, .lsw, .outs, .fcp]
    ps) (h : Keeps ps s0 s) (a1 : ChanIx) (a2 : Nat) (a3 : Nat)
    (he : execHeaterMeasurePulse a1 a2 a3 s = .next t) : Keeps ps s0 t := by
  unfold execHeaterMeasurePulse at he
  injection he with he
  subst he
  repeat' (first
    | (with_reducible assumption) | (with_reducible refine State.takeLsw_keeps (hw.of rfl) ?_ _)
    | (with_reducible refine Keeps.ite ?_ ?_) | (with_reducible refine Keeps.foldl _ (fun _ _ _ => ?_) ?_) | intro _
    | split | dsimp only)

theorem execInputGroupFault_keeps {ps : List Part} {s0 s t : State} (hw : Within [.free, .doors, .quince, .train,
    .loop, .outs, .fcp, .log, .service] ps) (h : Keeps ps s0 s) (a1 : GroupIx)
    (he : execInputGroupFault a1 s = .next t) : Keeps ps s0 t := by
  unfold execInputGroupFault at he
  injection he with he
  subst he
  repeat' (first
    | (with_reducible assumption) | (with_reducible refine State.groupFault_keeps (hw.of rfl) ?_ _ _)
    | (with_reducible refine Keeps.ite ?_ ?_) | (with_reducible refine Keeps.foldl _ (fun _ _ _ => ?_) ?_) | intro _
    | split | dsimp only)

theorem execInputGroupFaultClear_keeps {ps : List Part} {s0 s t : State} (hw : Within [.free, .doors, .quince, .train,
    .loop, .outs, .fcp, .log, .service] ps) (h : Keeps ps s0 s) (a1 : GroupIx)
    (he : execInputGroupFaultClear a1 s = .next t) : Keeps ps s0 t := by
  unfold execInputGroupFaultClear at he
  injection he with he
  subst he
  repeat' (first
    | (with_reducible assumption) | (with_reducible refine State.groupFault_keeps (hw.of rfl) ?_ _ _)
    | (with_reducible refine Keeps.ite ?_ ?_) | (with_reducible refine Keeps.foldl _ (fun _ _ _ => ?_) ?_) | intro _
    | split | dsimp only)

theorem execInputSample_keeps {ps : List Part} {s0 s t : State} (hw : Within [.doors, .train] ps) (h : Keeps ps s0 s)
    (a1 : GroupIx) (a2 : Fin 16) (a3 : Nat) (a4 : Nat)
    (he : execInputSample a1 a2 a3 a4 s = .next t) : Keeps ps s0 t := by
  unfold execInputSample at he
  injection he with he
  subst he
  repeat' (first
    | (with_reducible assumption) | (with_reducible refine State.sampleInput_keeps (hw.of rfl) ?_ _ _ _ _)
    | (with_reducible refine Keeps.ite ?_ ?_) | (with_reducible refine Keeps.foldl _ (fun _ _ _ => ?_) ?_) | intro _
    | split | dsimp only)

theorem execInrushWindowEnd_keeps {ps : List Part} {s0 s t : State} (hw : Within [.free, .loop, .lsw, .outs, .fcp] ps)
    (h : Keeps ps s0 s) (a1 : ChanIx) (a2 : Nat)
    (he : execInrushWindowEnd a1 a2 s = .next t) : Keeps ps s0 t := by
  unfold execInrushWindowEnd at he
  injection he with he
  subst he
  repeat' (first
    | (with_reducible assumption) | (with_reducible refine State.takeLsw_keeps (hw.of rfl) ?_ _)
    | (with_reducible refine Keeps.ite ?_ ?_) | (with_reducible refine Keeps.foldl _ (fun _ _ _ => ?_) ?_) | intro _
    | split | dsimp only)

theorem execIsolationUplinkFrame_keeps {ps : List Part} {s0 s t : State} (hw : Within [.free, .doors, .quince, .train,
    .loop, .outs, .fcp, .log, .service] ps) (h : Keeps ps s0 s) (a1 : GroupIx) (a2 : BitVec 4) (a3 : BitVec 4) (a4 :
    Bool) (a5 : BitVec 16) (a6 : BitVec 8)
    (he : execIsolationUplinkFrame a1 a2 a3 a4 a5 a6 s = .next t) : Keeps ps s0 t := by
  unfold execIsolationUplinkFrame at he
  injection he with he
  subst he
  repeat' (first
    | (with_reducible assumption) | (with_reducible refine State.uplink_keeps (hw.of rfl) ?_ _ _ _ _ _ _)
    | (with_reducible refine Keeps.ite ?_ ?_) | (with_reducible refine Keeps.foldl _ (fun _ _ _ => ?_) ?_) | intro _
    | split | dsimp only)

theorem execKeepWarmRegulation_keeps {ps : List Part} {s0 s t : State} (hw : Within [.free, .loop, .lsw, .outs, .fcp]
    ps) (h : Keeps ps s0 s) (a1 : ChanIx) (a2 : Nat) (a3 : Nat)
    (he : execKeepWarmRegulation a1 a2 a3 s = .next t) : Keeps ps s0 t := by
  unfold execKeepWarmRegulation at he
  injection he with he
  subst he
  repeat' (first
    | (with_reducible assumption) | (with_reducible refine State.takeLsw_keeps (hw.of rfl) ?_ _)
    | (with_reducible refine Keeps.ite ?_ ?_) | (with_reducible refine Keeps.foldl _ (fun _ _ _ => ?_) ?_) | intro _
    | split | dsimp only)

theorem execKeeperAloneTimeout_keeps {ps : List Part} {s0 s t : State} (hw : Within [.loop, .outs, .fcp] ps) (h : Keeps
    ps s0 s) 
    (he : execKeeperAloneTimeout s = .next t) : Keeps ps s0 t := by
  unfold execKeeperAloneTimeout at he
  injection he with he
  subst he
  repeat' (first
    | (with_reducible assumption) | (with_reducible refine State.keeperTimesOut_keeps (hw.of rfl) ?_)
    | (with_reducible refine Keeps.ite ?_ ?_) | (with_reducible refine Keeps.foldl _ (fun _ _ _ => ?_) ?_) | intro _
    | split | dsimp only)

theorem execKeeperClosedSettle_keeps {ps : List Part} {s0 s t : State} (hw : Within [.loop, .outs, .fcp] ps) (h : Keeps
    ps s0 s) (a1 : DoorIx)
    (he : execKeeperClosedSettle a1 s = .next t) : Keeps ps s0 t := by
  unfold execKeeperClosedSettle at he
  injection he with he
  subst he
  repeat' (first
    | (with_reducible assumption) | (with_reducible refine State.keeperSettles_keeps (hw.of rfl) ?_ _)
    | (with_reducible refine Keeps.ite ?_ ?_) | (with_reducible refine Keeps.foldl _ (fun _ _ _ => ?_) ?_) | intro _
    | split | dsimp only)

theorem execLineBreak_keeps {ps : List Part} {s0 s t : State} (hw : Within [.doors, .train] ps) (h : Keeps ps s0 s) (a1
    : GroupIx) (a2 : Fin 16)
    (he : execLineBreak a1 a2 s = .next t) : Keeps ps s0 t := by
  unfold execLineBreak at he
  injection he with he
  subst he
  repeat' (first
    | (with_reducible assumption) | (with_reducible refine State.onFront_keeps (hw.of rfl) ?_ _ _)
    | (with_reducible refine Keeps.ite ?_ ?_) | (with_reducible refine Keeps.foldl _ (fun _ _ _ => ?_) ?_) | intro _
    | split | dsimp only)

theorem execLoopDisagreeExpiry_keeps {ps : List Part} {s0 s t : State} (hw : Within [.free, .doors, .quince, .loop,
    .outs, .fcp, .log, .service] ps) (h : Keeps ps s0 s) (a1 : LoopPair)
    (he : execLoopDisagreeExpiry a1 s = .next t) : Keeps ps s0 t := by
  unfold execLoopDisagreeExpiry at he
  injection he with he
  subst he
  repeat' (first
    | (with_reducible assumption) | (with_reducible refine State.disagrees_keeps (hw.of rfl) ?_ _)
    | (with_reducible refine Keeps.ite ?_ ?_) | (with_reducible refine Keeps.foldl _ (fun _ _ _ => ?_) ?_) | intro _
    | split | dsimp only)

theorem execLoopRbTimeExpiry_keeps {ps : List Part} {s0 s t : State} (hw : Within [.free, .doors, .quince, .loop,
    .outs, .fcp, .log, .service] ps) (h : Keeps ps s0 s) 
    (he : execLoopRbTimeExpiry s = .next t) : Keeps ps s0 t := by
  unfold execLoopRbTimeExpiry at he
  injection he with he
  subst he
  repeat' (first
    | (with_reducible assumption) | (with_reducible refine State.readsBack_keeps (hw.of rfl) ?_)
    | (with_reducible refine Keeps.ite ?_ ?_) | (with_reducible refine Keeps.foldl _ (fun _ _ _ => ?_) ?_) | intro _
    | split | dsimp only)

theorem execLswCommandFrame_keeps {ps : List Part} {s0 s t : State} (hw : Within [.free, .loop, .lsw, .outs, .fcp] ps)
    (h : Keeps ps s0 s) (a1 : BitVec 8) (a2 : Bool) (a3 : LswMode)
    (he : execLswCommandFrame a1 a2 a3 s = .next t) : Keeps ps s0 t := by
  unfold execLswCommandFrame at he
  injection he with he
  subst he
  repeat' (first
    | (with_reducible assumption) | (with_reducible refine State.takeLsw_keeps (hw.of rfl) ?_ _)
    | (with_reducible refine Keeps.ite ?_ ?_) | (with_reducible refine Keeps.foldl _ (fun _ _ _ => ?_) ?_) | intro _
    | split | dsimp only)

theorem execLswWatchdogTimeout_keeps {ps : List Part} {s0 s t : State} (hw : Within [.free, .loop, .lsw, .outs, .fcp]
    ps) (h : Keeps ps s0 s) 
    (he : execLswWatchdogTimeout s = .next t) : Keeps ps s0 t := by
  unfold execLswWatchdogTimeout at he
  injection he with he
  subst he
  repeat' (first
    | (with_reducible assumption) | (with_reducible refine State.takeLsw_keeps (hw.of rfl) ?_ _)
    | (with_reducible refine Keeps.ite ?_ ?_) | (with_reducible refine Keeps.foldl _ (fun _ _ _ => ?_) ?_) | intro _
    | split | dsimp only)

theorem execOcShort_keeps {ps : List Part} {s0 s t : State} (hw : Within [.free, .loop, .lsw, .outs, .fcp] ps) (h :
    Keeps ps s0 s) (a1 : ChanIx)
    (he : execOcShort a1 s = .next t) : Keeps ps s0 t := by
  unfold execOcShort at he
  injection he with he
  subst he
  repeat' (first
    | (with_reducible assumption) | (with_reducible refine State.takeLsw_keeps (hw.of rfl) ?_ _)
    | (with_reducible refine Keeps.ite ?_ ?_) | (with_reducible refine Keeps.foldl _ (fun _ _ _ => ?_) ?_) | intro _
    | split | dsimp only)

theorem execOcSteady_keeps {ps : List Part} {s0 s t : State} (hw : Within [.free, .loop, .lsw, .outs, .fcp] ps) (h :
    Keeps ps s0 s) (a1 : ChanIx) (a2 : Nat)
    (he : execOcSteady a1 a2 s = .next t) : Keeps ps s0 t := by
  unfold execOcSteady at he
  injection he with he
  subst he
  repeat' (first
    | (with_reducible assumption) | (with_reducible refine State.takeLsw_keeps (hw.of rfl) ?_ _)
    | (with_reducible refine Keeps.ite ?_ ?_) | (with_reducible refine Keeps.foldl _ (fun _ _ _ => ?_) ?_) | intro _
    | split | dsimp only)

theorem execOffStateTest_keeps {ps : List Part} {s0 s t : State} (hw : Within [.free, .loop, .lsw, .outs, .fcp] ps) (h
    : Keeps ps s0 s) (a1 : ChanIx) (a2 : OffTest)
    (he : execOffStateTest a1 a2 s = .next t) : Keeps ps s0 t := by
  unfold execOffStateTest at he
  injection he with he
  subst he
  repeat' (first
    | (with_reducible assumption) | (with_reducible refine State.takeLsw_keeps (hw.of rfl) ?_ _)
    | (with_reducible refine Keeps.ite ?_ ?_) | (with_reducible refine Keeps.foldl _ (fun _ _ _ => ?_) ?_) | intro _
    | split | dsimp only)

theorem execOpenLoadOn_keeps {ps : List Part} {s0 s t : State} (hw : Within [.free, .loop, .lsw, .outs, .fcp] ps) (h :
    Keeps ps s0 s) (a1 : ChanIx) (a2 : Nat)
    (he : execOpenLoadOn a1 a2 s = .next t) : Keeps ps s0 t := by
  unfold execOpenLoadOn at he
  injection he with he
  subst he
  repeat' (first
    | (with_reducible assumption) | (with_reducible refine State.takeLsw_keeps (hw.of rfl) ?_ _)
    | (with_reducible refine Keeps.ite ?_ ?_) | (with_reducible refine Keeps.foldl _ (fun _ _ _ => ?_) ?_) | intro _
    | split | dsimp only)

theorem execOrientSettleExpiry_keeps {ps : List Part} {s0 s t : State} (hw : Within [.free, .doors, .quince, .loop,
    .outs, .fcp, .log, .service] ps) (h : Keeps ps s0 s) 
    (he : execOrientSettleExpiry s = .next t) : Keeps ps s0 t := by
  unfold execOrientSettleExpiry at he
  injection he with he
  subst he
  repeat' (first
    | (with_reducible assumption) | (with_reducible refine State.takeLoop_keeps (hw.of rfl) ?_ _)
    | (with_reducible refine Keeps.ite ?_ ?_) | (with_reducible refine Keeps.foldl _ (fun _ _ _ => ?_) ?_) | intro _
    | split | dsimp only)

theorem execOutputHoldTimeout_keeps {ps : List Part} {s0 s t : State} (hw : Within [.free, .loop, .outs, .fcp] ps) (h :
    Keeps ps s0 s) 
    (he : execOutputHoldTimeout s = .next t) : Keeps ps s0 t := by
  unfold execOutputHoldTimeout at he
  injection he with he
  subst he
  repeat' (first
    | (with_reducible assumption) | (with_reducible refine State.takeOuts_keeps (hw.of rfl) ?_ _)
    | (with_reducible refine Keeps.ite ?_ ?_) | (with_reducible refine Keeps.foldl _ (fun _ _ _ => ?_) ?_) | intro _
    | split | dsimp only)

theorem execOutputRetry_keeps {ps : List Part} {s0 s t : State} (hw : Within [.free, .loop, .outs, .fcp] ps) (h : Keeps
    ps s0 s) (a1 : OutIx)
    (he : execOutputRetry a1 s = .next t) : Keeps ps s0 t := by
  unfold execOutputRetry at he
  injection he with he
  subst he
  repeat' (first
    | (with_reducible assumption) | (with_reducible refine State.takeOuts_keeps (hw.of rfl) ?_ _)
    | (with_reducible refine Keeps.ite ?_ ?_) | (with_reducible refine Keeps.foldl _ (fun _ _ _ => ?_) ?_) | intro _
    | split | dsimp only)

theorem execOutputTrip_keeps {ps : List Part} {s0 s t : State} (hw : Within [.free, .loop, .outs, .fcp] ps) (h : Keeps
    ps s0 s) (a1 : OutIx)
    (he : execOutputTrip a1 s = .next t) : Keeps ps s0 t := by
  unfold execOutputTrip at he
  injection he with he
  subst he
  repeat' (first
    | (with_reducible assumption) | (with_reducible refine State.takeOuts_keeps (hw.of rfl) ?_ _)
    | (with_reducible refine Keeps.ite ?_ ?_) | (with_reducible refine Keeps.foldl _ (fun _ _ _ => ?_) ?_) | intro _
    | split | dsimp only)

theorem execRailSag_keeps {ps : List Part} {s0 s t : State} (hw : Within [.free, .loop, .lsw, .outs, .fcp] ps) (h :
    Keeps ps s0 s) (a1 : DoorIx) (a2 : Nat)
    (he : execRailSag a1 a2 s = .next t) : Keeps ps s0 t := by
  unfold execRailSag at he
  injection he with he
  subst he
  repeat' (first
    | (with_reducible assumption) | (with_reducible refine State.takeLsw_keeps (hw.of rfl) ?_ _)
    | (with_reducible refine Keeps.ite ?_ ?_) | (with_reducible refine Keeps.foldl _ (fun _ _ _ => ?_) ?_) | intro _
    | split | dsimp only)

theorem execRelSettleExpiry_keeps {ps : List Part} {s0 s t : State} (hw : Within [.free, .doors, .quince, .loop, .outs,
    .fcp, .log, .service] ps) (h : Keeps ps s0 s) (a1 : TrainSide)
    (he : execRelSettleExpiry a1 s = .next t) : Keeps ps s0 t := by
  unfold execRelSettleExpiry at he
  injection he with he
  subst he
  repeat' (first
    | (with_reducible assumption) | (with_reducible refine State.takeLoop_keeps (hw.of rfl) ?_ _)
    | (with_reducible refine Keeps.ite ?_ ?_) | (with_reducible refine Keeps.foldl _ (fun _ _ _ => ?_) ?_) | intro _
    | split | dsimp only)

theorem execRetryBackoffExpiry_keeps {ps : List Part} {s0 s t : State} (hw : Within [.free, .loop, .lsw, .outs, .fcp]
    ps) (h : Keeps ps s0 s) (a1 : ChanIx)
    (he : execRetryBackoffExpiry a1 s = .next t) : Keeps ps s0 t := by
  unfold execRetryBackoffExpiry at he
  injection he with he
  subst he
  repeat' (first
    | (with_reducible assumption) | (with_reducible refine State.takeLsw_keeps (hw.of rfl) ?_ _)
    | (with_reducible refine Keeps.ite ?_ ?_) | (with_reducible refine Keeps.foldl _ (fun _ _ _ => ?_) ?_) | intro _
    | split | dsimp only)

theorem execRetryRestore_keeps {ps : List Part} {s0 s t : State} (hw : Within [.free, .loop, .lsw, .outs, .fcp] ps) (h
    : Keeps ps s0 s) (a1 : ChanIx)
    (he : execRetryRestore a1 s = .next t) : Keeps ps s0 t := by
  unfold execRetryRestore at he
  injection he with he
  subst he
  repeat' (first
    | (with_reducible assumption) | (with_reducible refine State.takeLsw_keeps (hw.of rfl) ?_ _)
    | (with_reducible refine Keeps.ite ?_ ?_) | (with_reducible refine Keeps.foldl _ (fun _ _ _ => ?_) ?_) | intro _
    | split | dsimp only)

theorem execThermalLatch_keeps {ps : List Part} {s0 s t : State} (hw : Within [.free, .loop, .lsw, .outs, .fcp] ps) (h
    : Keeps ps s0 s) (a1 : ChanIx)
    (he : execThermalLatch a1 s = .next t) : Keeps ps s0 t := by
  unfold execThermalLatch at he
  injection he with he
  subst he
  repeat' (first
    | (with_reducible assumption) | (with_reducible refine State.takeLsw_keeps (hw.of rfl) ?_ _)
    | (with_reducible refine Keeps.ite ?_ ?_) | (with_reducible refine Keeps.foldl _ (fun _ _ _ => ?_) ?_) | intro _
    | split | dsimp only)

theorem execTlCloseChange_keeps {ps : List Part} {s0 s t : State} (hw : Within [.free, .doors, .quince, .train, .loop,
    .outs, .fcp, .log, .service] ps) (h : Keeps ps s0 s) (a1 : Bool)
    (he : execTlCloseChange a1 s = .next t) : Keeps ps s0 t := by
  unfold execTlCloseChange at he
  injection he with he
  subst he
  repeat' (first
    | (with_reducible assumption) | (with_reducible refine State.trainInput_keeps (hw.of rfl) ?_ _ _)
    | (with_reducible refine Keeps.ite ?_ ?_) | (with_reducible refine Keeps.foldl _ (fun _ _ _ => ?_) ?_) | intro _
    | split | dsimp only)

theorem execTrainlineInputChange_keeps {ps : List Part} {s0 s t : State} (hw : Within [.free, .doors, .quince, .train,
    .loop, .outs, .fcp, .log, .service] ps) (h : Keeps ps s0 s) (a1 : RelInput) (a2 : Bool)
    (he : execTrainlineInputChange a1 a2 s = .next t) : Keeps ps s0 t := by
  unfold execTrainlineInputChange at he
  injection he with he
  subst he
  repeat' (first
    | (with_reducible assumption) | (with_reducible refine State.trainInput_keeps (hw.of rfl) ?_ _ _)
    | (with_reducible refine Keeps.ite ?_ ?_) | (with_reducible refine Keeps.foldl _ (fun _ _ _ => ?_) ?_) | intro _
    | split | dsimp only)

theorem execUpdateHoldTimeout_keeps {ps : List Part} {s0 s t : State} (hw : Within [.free, .loop, .lsw, .outs, .fcp]
    ps) (h : Keeps ps s0 s) 
    (he : execUpdateHoldTimeout s = .next t) : Keeps ps s0 t := by
  unfold execUpdateHoldTimeout at he
  injection he with he
  subst he
  repeat' (first
    | (with_reducible assumption) | (with_reducible refine State.takeLsw_keeps (hw.of rfl) ?_ _)
    | (with_reducible refine Keeps.ite ?_ ?_) | (with_reducible refine Keeps.foldl _ (fun _ _ _ => ?_) ?_) | intro _
    | split | dsimp only)

theorem execUplinkFrameMissed_keeps {ps : List Part} {s0 s t : State} (hw : Within [.doors, .train, .loop, .outs, .fcp]
    ps) (h : Keeps ps s0 s) (a1 : GroupIx)
    (he : execUplinkFrameMissed a1 s = .next t) : Keeps ps s0 t := by
  unfold execUplinkFrameMissed at he
  injection he with he
  subst he
  repeat' (first
    | (with_reducible assumption) | (with_reducible refine State.uplinkMissed_keeps (hw.of rfl) ?_ _)
    | (with_reducible refine Keeps.ite ?_ ?_) | (with_reducible refine Keeps.foldl _ (fun _ _ _ => ?_) ?_) | intro _
    | split | dsimp only)

theorem execZspdDiscrepExpiry_keeps {ps : List Part} {s0 s t : State} (hw : Within [.free, .doors, .quince, .loop,
    .outs, .fcp, .log, .service] ps) (h : Keeps ps s0 s) 
    (he : execZspdDiscrepExpiry s = .next t) : Keeps ps s0 t := by
  unfold execZspdDiscrepExpiry at he
  injection he with he
  subst he
  repeat' (first
    | (with_reducible assumption) | (with_reducible refine State.takeLoop_keeps (hw.of rfl) ?_ _)
    | (with_reducible refine Keeps.ite ?_ ?_) | (with_reducible refine Keeps.foldl _ (fun _ _ _ => ?_) ?_) | intro _
    | split | dsimp only)

end Sys2Proof.Machine
end

