-- ==== Sys2Proof/Laws/KeepsModuleCommandMeanings.lean ====
section
/-!
SUPPORT. For every operation of Machine/ModuleCommandMeanings.lean: the parts of State it may change, and that it keeps the invariant.
-/

set_option linter.unusedVariables false
set_option linter.unusedSimpArgs false

namespace Sys2Proof.Machine

theorem execAppControlRestart_keeps {ps : List Part} {s0 s t : State} (hw : Within [.free, .fcp, .ring, .can, .engines,
    .service, .config] ps) (h : Keeps ps s0 s) (a1 : Hdr)
    (he : execAppControlRestart a1 s = .next t) : Keeps ps s0 t := by
  unfold execAppControlRestart at he
  injection he with he
  subst he
  repeat' (first
    | (with_reducible assumption) | (with_reducible refine State.receive_keeps (hw.of rfl) ?_ _ ?_)
    | (with_reducible refine Req.appControl_keeps (hw.of rfl) _ _) | (with_reducible refine Keeps.ite ?_ ?_)
    | (with_reducible refine Keeps.foldl _ (fun _ _ _ => ?_) ?_) | intro _ | split | dsimp only)

theorem execAppControlStart_keeps {ps : List Part} {s0 s t : State} (hw : Within [.free, .fcp, .ring, .can, .engines,
    .service, .config] ps) (h : Keeps ps s0 s) (a1 : Hdr)
    (he : execAppControlStart a1 s = .next t) : Keeps ps s0 t := by
  unfold execAppControlStart at he
  injection he with he
  subst he
  repeat' (first
    | (with_reducible assumption) | (with_reducible refine State.receive_keeps (hw.of rfl) ?_ _ ?_)
    | (with_reducible refine Req.appControl_keeps (hw.of rfl) _ _) | (with_reducible refine Keeps.ite ?_ ?_)
    | (with_reducible refine Keeps.foldl _ (fun _ _ _ => ?_) ?_) | intro _ | split | dsimp only)

theorem execAppControlStop_keeps {ps : List Part} {s0 s t : State} (hw : Within [.free, .fcp, .ring, .can, .engines,
    .service, .config] ps) (h : Keeps ps s0 s) (a1 : Hdr)
    (he : execAppControlStop a1 s = .next t) : Keeps ps s0 t := by
  unfold execAppControlStop at he
  injection he with he
  subst he
  repeat' (first
    | (with_reducible assumption) | (with_reducible refine State.receive_keeps (hw.of rfl) ?_ _ ?_)
    | (with_reducible refine Req.appControl_keeps (hw.of rfl) _ _) | (with_reducible refine Keeps.ite ?_ ?_)
    | (with_reducible refine Keeps.foldl _ (fun _ _ _ => ?_) ?_) | intro _ | split | dsimp only)

theorem execAppLoad_keeps {ps : List Part} {s0 s t : State} (hw : Within [.free, .fcp, .ring, .engines] ps) (h : Keeps
    ps s0 s) (a1 : Hdr) (a2 : BitVec 32) (a3 : BitVec 8) (a4 : List Byte)
    (he : execAppLoad a1 a2 a3 a4 s = .next t) : Keeps ps s0 t := by
  unfold execAppLoad at he
  injection he with he
  subst he
  repeat' (first
    | (with_reducible assumption) | (with_reducible refine Req.appLoad_keeps (hw.of rfl) _ _ _ _)
    | (with_reducible refine State.receive_keeps (hw.of rfl) ?_ _ ?_) | (with_reducible refine Keeps.ite ?_ ?_)
    | (with_reducible refine Keeps.foldl _ (fun _ _ _ => ?_) ?_) | intro _ | split | dsimp only)

theorem execCanStatus_keeps {ps : List Part} {s0 s t : State} (hw : Within [.free, .fcp, .ring] ps) (h : Keeps ps s0 s)
    (a1 : Hdr) (a2 : BitVec 8)
    (he : execCanStatus a1 a2 s = .next t) : Keeps ps s0 t := by
  unfold execCanStatus at he
  injection he with he
  subst he
  repeat' (first
    | (with_reducible assumption) | (with_reducible refine State.receive_keeps (hw.of rfl) ?_ _ ?_)
    | (with_reducible refine Req.canStatus_keeps (hw.of rfl) _ _) | (with_reducible refine Keeps.ite ?_ ?_)
    | (with_reducible refine Keeps.foldl _ (fun _ _ _ => ?_) ?_) | intro _ | split | dsimp only)

theorem execConsistView_keeps {ps : List Part} {s0 s t : State} (hw : Within [.free, .fcp, .ring] ps) (h : Keeps ps s0
    s) (a1 : Hdr) (a2 : BitVec 32)
    (he : execConsistView a1 a2 s = .next t) : Keeps ps s0 t := by
  unfold execConsistView at he
  injection he with he
  subst he
  repeat' (first
    | (with_reducible assumption) | (with_reducible refine Req.consistView_keeps (hw.of rfl) _ _)
    | (with_reducible refine State.receive_keeps (hw.of rfl) ?_ _ ?_) | (with_reducible refine Keeps.ite ?_ ?_)
    | (with_reducible refine Keeps.foldl _ (fun _ _ _ => ?_) ?_) | intro _ | split | dsimp only)

theorem execFwActivateLive_keeps {ps : List Part} {s0 s t : State} (hw : Within [.free, .fcp, .ring, .service] ps) (h :
    Keeps ps s0 s) (a1 : Hdr) (a2 : BitVec 8)
    (he : execFwActivateLive a1 a2 s = .next t) : Keeps ps s0 t := by
  unfold execFwActivateLive at he
  injection he with he
  subst he
  repeat' (first
    | (with_reducible assumption) | (with_reducible refine State.receive_keeps (hw.of rfl) ?_ _ ?_)
    | (with_reducible refine Req.fwActivate_keeps (hw.of rfl) _ _ _) | (with_reducible refine Keeps.ite ?_ ?_)
    | (with_reducible refine Keeps.foldl _ (fun _ _ _ => ?_) ?_) | intro _ | split | dsimp only)

theorem execFwActivateRestart_keeps {ps : List Part} {s0 s t : State} (hw : Within [.free, .fcp, .ring, .service] ps)
    (h : Keeps ps s0 s) (a1 : Hdr) (a2 : BitVec 8)
    (he : execFwActivateRestart a1 a2 s = .next t) : Keeps ps s0 t := by
  unfold execFwActivateRestart at he
  injection he with he
  subst he
  repeat' (first
    | (with_reducible assumption) | (with_reducible refine State.receive_keeps (hw.of rfl) ?_ _ ?_)
    | (with_reducible refine Req.fwActivate_keeps (hw.of rfl) _ _ _) | (with_reducible refine Keeps.ite ?_ ?_)
    | (with_reducible refine Keeps.foldl _ (fun _ _ _ => ?_) ?_) | intro _ | split | dsimp only)

theorem execFwStage_keeps {ps : List Part} {s0 s t : State} (hw : Within [.free, .fcp, .ring, .service] ps) (h : Keeps
    ps s0 s) (a1 : Hdr) (a2 : BitVec 32) (a3 : BitVec 8) (a4 : List Byte)
    (he : execFwStage a1 a2 a3 a4 s = .next t) : Keeps ps s0 t := by
  unfold execFwStage at he
  injection he with he
  subst he
  repeat' (first
    | (with_reducible assumption) | (with_reducible refine State.receive_keeps (hw.of rfl) ?_ _ ?_)
    | (with_reducible refine Req.fwStage_keeps (hw.of rfl) _ _ _ _) | (with_reducible refine Keeps.ite ?_ ?_)
    | (with_reducible refine Keeps.foldl _ (fun _ _ _ => ?_) ?_) | intro _ | split | dsimp only)

theorem execIdentity_keeps {ps : List Part} {s0 s t : State} (hw : Within [.free, .fcp, .ring] ps) (h : Keeps ps s0 s)
    (a1 : Hdr)
    (he : execIdentity a1 s = .next t) : Keeps ps s0 t := by
  unfold execIdentity at he
  injection he with he
  subst he
  repeat' (first
    | (with_reducible assumption) | (with_reducible refine Req.identity_keeps (hw.of rfl) _)
    | (with_reducible refine State.receive_keeps (hw.of rfl) ?_ _ ?_) | (with_reducible refine Keeps.ite ?_ ?_)
    | (with_reducible refine Keeps.foldl _ (fun _ _ _ => ?_) ?_) | intro _ | split | dsimp only)

theorem execIncidentErase_keeps {ps : List Part} {s0 s t : State} (hw : Within [.free, .fcp, .log, .ring] ps) (h :
    Keeps ps s0 s) (a1 : Hdr) (a2 : BitVec 32) (a3 : BitVec 32)
    (he : execIncidentErase a1 a2 a3 s = .next t) : Keeps ps s0 t := by
  unfold execIncidentErase at he
  injection he with he
  subst he
  repeat' (first
    | (with_reducible assumption) | (with_reducible refine State.receive_keeps (hw.of rfl) ?_ _ ?_)
    | (with_reducible refine Req.incidentErase_keeps (hw.of rfl) _ _ _) | (with_reducible refine Keeps.ite ?_ ?_)
    | (with_reducible refine Keeps.foldl _ (fun _ _ _ => ?_) ?_) | intro _ | split | dsimp only)

theorem execIncidentRead_keeps {ps : List Part} {s0 s t : State} (hw : Within [.free, .fcp, .ring] ps) (h : Keeps ps s0
    s) (a1 : Hdr) (a2 : BitVec 32) (a3 : BitVec 16)
    (he : execIncidentRead a1 a2 a3 s = .next t) : Keeps ps s0 t := by
  unfold execIncidentRead at he
  injection he with he
  subst he
  repeat' (first
    | (with_reducible assumption) | (with_reducible refine State.receive_keeps (hw.of rfl) ?_ _ ?_)
    | (with_reducible refine Req.incidentRead_keeps (hw.of rfl) _ _ _) | (with_reducible refine Keeps.ite ?_ ?_)
    | (with_reducible refine Keeps.foldl _ (fun _ _ _ => ?_) ?_) | intro _ | split | dsimp only)

theorem execLegSubstitute_keeps {ps : List Part} {s0 s t : State} (hw : Within [.free, .doors, .quince, .loop, .outs,
    .fcp, .log, .ring, .service] ps) (h : Keeps ps s0 s) (a1 : Hdr) (a2 : BitVec 8) (a3 : BitVec 8)
    (he : execLegSubstitute a1 a2 a3 s = .next t) : Keeps ps s0 t := by
  unfold execLegSubstitute at he
  injection he with he
  subst he
  repeat' (first
    | (with_reducible assumption) | (with_reducible refine Req.legSubstitute_keeps (hw.of rfl) _ _ _)
    | (with_reducible refine State.receive_keeps (hw.of rfl) ?_ _ ?_) | (with_reducible refine Keeps.ite ?_ ?_)
    | (with_reducible refine Keeps.foldl _ (fun _ _ _ => ?_) ?_) | intro _ | split | dsimp only)

theorem execLogAck_keeps {ps : List Part} {s0 s t : State} (hw : Within [.free, .fcp, .log, .ring] ps) (h : Keeps ps s0
    s) (a1 : Hdr) (a2 : BitVec 32)
    (he : execLogAck a1 a2 s = .next t) : Keeps ps s0 t := by
  unfold execLogAck at he
  injection he with he
  subst he
  repeat' (first
    | (with_reducible assumption) | (with_reducible refine State.receive_keeps (hw.of rfl) ?_ _ ?_)
    | (with_reducible refine Req.logAck_keeps (hw.of rfl) _ _) | (with_reducible refine Keeps.ite ?_ ?_)
    | (with_reducible refine Keeps.foldl _ (fun _ _ _ => ?_) ?_) | intro _ | split | dsimp only)

theorem execLogDrain_keeps {ps : List Part} {s0 s t : State} (hw : Within [.free, .fcp, .ring] ps) (h : Keeps ps s0 s)
    (a1 : Hdr) (a2 : BitVec 32) (a3 : BitVec 8)
    (he : execLogDrain a1 a2 a3 s = .next t) : Keeps ps s0 t := by
  unfold execLogDrain at he
  injection he with he
  subst he
  repeat' (first
    | (with_reducible assumption) | (with_reducible refine State.receive_keeps (hw.of rfl) ?_ _ ?_)
    | (with_reducible refine Req.logDrain_keeps (hw.of rfl) _ _ _) | (with_reducible refine Keeps.ite ?_ ?_)
    | (with_reducible refine Keeps.foldl _ (fun _ _ _ => ?_) ?_) | intro _ | split | dsimp only)

theorem execLogStatus_keeps {ps : List Part} {s0 s t : State} (hw : Within [.free, .fcp, .log, .ring] ps) (h : Keeps ps
    s0 s) (a1 : Hdr) (a2 : BitVec 8)
    (he : execLogStatus a1 a2 s = .next t) : Keeps ps s0 t := by
  unfold execLogStatus at he
  injection he with he
  subst he
  repeat' (first
    | (with_reducible assumption) | (with_reducible refine State.receive_keeps (hw.of rfl) ?_ _ ?_)
    | (with_reducible refine Req.logStatus_keeps (hw.of rfl) _ _) | (with_reducible refine Keeps.ite ?_ ?_)
    | (with_reducible refine Keeps.foldl _ (fun _ _ _ => ?_) ?_) | intro _ | split | dsimp only)

theorem execPowerAccounts_keeps {ps : List Part} {s0 s t : State} (hw : Within [.free, .fcp, .ring] ps) (h : Keeps ps
    s0 s) (a1 : Hdr)
    (he : execPowerAccounts a1 s = .next t) : Keeps ps s0 t := by
  unfold execPowerAccounts at he
  injection he with he
  subst he
  repeat' (first
    | (with_reducible assumption) | (with_reducible refine State.receive_keeps (hw.of rfl) ?_ _ ?_)
    | (with_reducible refine Req.powerAccounts_keeps (hw.of rfl) _) | (with_reducible refine Keeps.ite ?_ ?_)
    | (with_reducible refine Keeps.foldl _ (fun _ _ _ => ?_) ?_) | intro _ | split | dsimp only)

theorem execPowerEnterHibernate_keeps {ps : List Part} {s0 s t : State} (hw : Within [.free, .doors, .quince, .loop,
    .outs, .fcp, .log, .ring, .power, .service] ps) (h : Keeps ps s0 s) (a1 : Hdr) (a2 : BitVec 64)
    (he : execPowerEnterHibernate a1 a2 s = .next t) : Keeps ps s0 t := by
  unfold execPowerEnterHibernate at he
  injection he with he
  subst he
  repeat' (first
    | (with_reducible assumption) | (with_reducible refine State.receive_keeps (hw.of rfl) ?_ _ ?_)
    | (with_reducible refine Req.powerEnter_keeps (hw.of rfl) _ _ _) | (with_reducible refine Keeps.ite ?_ ?_)
    | (with_reducible refine Keeps.foldl _ (fun _ _ _ => ?_) ?_) | intro _ | split | dsimp only)

theorem execPowerEnterStable_keeps {ps : List Part} {s0 s t : State} (hw : Within [.free, .doors, .quince, .loop,
    .outs, .fcp, .log, .ring, .power, .service] ps) (h : Keeps ps s0 s) (a1 : Hdr) (a2 : BitVec 64)
    (he : execPowerEnterStable a1 a2 s = .next t) : Keeps ps s0 t := by
  unfold execPowerEnterStable at he
  injection he with he
  subst he
  repeat' (first
    | (with_reducible assumption) | (with_reducible refine State.receive_keeps (hw.of rfl) ?_ _ ?_)
    | (with_reducible refine Req.powerEnter_keeps (hw.of rfl) _ _ _) | (with_reducible refine Keeps.ite ?_ ?_)
    | (with_reducible refine Keeps.foldl _ (fun _ _ _ => ?_) ?_) | intro _ | split | dsimp only)

theorem execPowerStatus_keeps {ps : List Part} {s0 s t : State} (hw : Within [.free, .fcp, .ring] ps) (h : Keeps ps s0
    s) (a1 : Hdr)
    (he : execPowerStatus a1 s = .next t) : Keeps ps s0 t := by
  unfold execPowerStatus at he
  injection he with he
  subst he
  repeat' (first
    | (with_reducible assumption) | (with_reducible refine State.receive_keeps (hw.of rfl) ?_ _ ?_)
    | (with_reducible refine Req.powerStatus_keeps (hw.of rfl) _) | (with_reducible refine Keeps.ite ?_ ?_)
    | (with_reducible refine Keeps.foldl _ (fun _ _ _ => ?_) ?_) | intro _ | split | dsimp only)

theorem execRingStatus_keeps {ps : List Part} {s0 s t : State} (hw : Within [.free, .fcp, .ring] ps) (h : Keeps ps s0
    s) (a1 : Hdr)
    (he : execRingStatus a1 s = .next t) : Keeps ps s0 t := by
  unfold execRingStatus at he
  injection he with he
  subst he
  repeat' (first
    | (with_reducible assumption) | (with_reducible refine Req.ringStatus_keeps (hw.of rfl) _)
    | (with_reducible refine State.receive_keeps (hw.of rfl) ?_ _ ?_) | (with_reducible refine Keeps.ite ?_ ?_)
    | (with_reducible refine Keeps.foldl _ (fun _ _ _ => ?_) ?_) | intro _ | split | dsimp only)

theorem execSchedLoad_keeps {ps : List Part} {s0 s t : State} (hw : Within [.free, .fcp, .ring, .can] ps) (h : Keeps ps
    s0 s) (a1 : Hdr) (a2 : BitVec 8) (a3 : List Byte)
    (he : execSchedLoad a1 a2 a3 s = .next t) : Keeps ps s0 t := by
  unfold execSchedLoad at he
  injection he with he
  subst he
  repeat' (first
    | (with_reducible assumption) | (with_reducible refine State.receive_keeps (hw.of rfl) ?_ _ ?_)
    | (with_reducible refine Req.schedLoad_keeps (hw.of rfl) _ _ _) | (with_reducible refine Keeps.ite ?_ ?_)
    | (with_reducible refine Keeps.foldl _ (fun _ _ _ => ?_) ?_) | intro _ | split | dsimp only)

theorem execSelftest_keeps {ps : List Part} {s0 s t : State} (hw : Within [.free, .doors, .quince, .loop, .outs, .fcp,
    .log, .ring, .service] ps) (h : Keeps ps s0 s) (a1 : Hdr) (a2 : BitVec 16) (a3 : BitVec 8)
    (he : execSelftest a1 a2 a3 s = .next t) : Keeps ps s0 t := by
  unfold execSelftest at he
  injection he with he
  subst he
  repeat' (first
    | (with_reducible assumption) | (with_reducible refine State.receive_keeps (hw.of rfl) ?_ _ ?_)
    | (with_reducible refine Req.selftest_keeps (hw.of rfl) _ _ _) | (with_reducible refine Keeps.ite ?_ ?_)
    | (with_reducible refine Keeps.foldl _ (fun _ _ _ => ?_) ?_) | intro _ | split | dsimp only)

end Sys2Proof.Machine
end

