-- ==== Sys2Proof/Laws/KeepsMotionMeanings.lean ====
section
/-!
SUPPORT. For every operation of Machine/MotionMeanings.lean: the parts of State it may change, and that it keeps the invariant.
-/

set_option linter.unusedVariables false
set_option linter.unusedSimpArgs false

namespace Sys2Proof.Machine

theorem execAdaptMramWrite_keeps {ps : List Part} {s0 s t : State} (hw : Within [.free, .doors, .quince, .loop, .outs,
    .fcp, .log, .service] ps) (h : Keeps ps s0 s) (a1 : DoorIx)
    (he : execAdaptMramWrite a1 s = .next t) : Keeps ps s0 t := by
  unfold execAdaptMramWrite at he
  injection he with he
  subst he
  repeat' (first
    | (with_reducible assumption) | (with_reducible refine State.atDoor_keeps (hw.of rfl) ?_ _ _)
    | (with_reducible refine Keeps.ite ?_ ?_) | (with_reducible refine Keeps.foldl _ (fun _ _ _ => ?_) ?_) | intro _
    | split | dsimp only)

theorem execAdaptWindowEnd_keeps {ps : List Part} {s0 s t : State} (hw : Within [.free, .doors, .quince, .loop, .outs,
    .fcp, .log, .service] ps) (h : Keeps ps s0 s) (a1 : DoorIx) (a2 : Bool)
    (he : execAdaptWindowEnd a1 a2 s = .next t) : Keeps ps s0 t := by
  unfold execAdaptWindowEnd at he
  injection he with he
  subst he
  repeat' (first
    | (with_reducible assumption) | (with_reducible refine State.atDoor_keeps (hw.of rfl) ?_ _ _)
    | (with_reducible refine Keeps.ite ?_ ?_) | (with_reducible refine Keeps.foldl _ (fun _ _ _ => ?_) ?_) | intro _
    | split | dsimp only)

theorem execCompareFire_keeps {ps : List Part} {s0 s t : State} (hw : Within [.doors, .loop, .outs, .fcp] ps) (h :
    Keeps ps s0 s) (a1 : DriveIx)
    (he : execCompareFire a1 s = .next t) : Keeps ps s0 t := by
  unfold execCompareFire at he
  injection he with he
  subst he
  repeat' (first
    | (with_reducible assumption)
    | (with_reducible exact id)
    | (with_reducible refine State.compareTests_keeps (hw.of rfl) ?_ _)
    | (with_reducible refine Keeps.ite ?_ ?_)
    | (with_reducible refine Keeps.foldl _ (fun _ _ _ => ?_) ?_)
    | intro _
    | split
    | dsimp only)

theorem execCompareRearm_keeps {ps : List Part} {s0 s t : State} (hw : Within [.doors, .loop, .outs, .fcp] ps) (h :
    Keeps ps s0 s) (a1 : DriveIx)
    (he : execCompareRearm a1 s = .next t) : Keeps ps s0 t := by
  unfold execCompareRearm at he
  injection he with he
  subst he
  repeat' (first
    | (with_reducible assumption)
    | (with_reducible exact id)
    | (with_reducible refine State.compareTests_keeps (hw.of rfl) ?_ _)
    | (with_reducible refine Keeps.ite ?_ ?_)
    | (with_reducible refine Keeps.foldl _ (fun _ _ _ => ?_) ?_)
    | intro _
    | split
    | dsimp only)

theorem execDcLinkOutOfRange_keeps {ps : List Part} {s0 s t : State} (hw : Within [.free, .doors, .quince, .loop,
    .outs, .fcp, .log, .power, .service] ps) (h : Keeps ps s0 s) (a1 : Bool)
    (he : execDcLinkOutOfRange a1 s = .next t) : Keeps ps s0 t := by
  unfold execDcLinkOutOfRange at he
  injection he with he
  subst he
  repeat' (first
    | (with_reducible assumption) | (with_reducible refine State.dcLinkOut_keeps (hw.of rfl) ?_ _)
    | (with_reducible refine Keeps.ite ?_ ?_) | (with_reducible refine Keeps.foldl _ (fun _ _ _ => ?_) ?_) | intro _
    | split | dsimp only)

theorem execDcsEdgeConfirmed_keeps {ps : List Part} {s0 s t : State} (hw : Within [.free, .doors, .quince, .loop,
    .outs, .fcp, .log, .service] ps) (h : Keeps ps s0 s) (a1 : DoorIx) (a2 : Bool)
    (he : execDcsEdgeConfirmed a1 a2 s = .next t) : Keeps ps s0 t := by
  unfold execDcsEdgeConfirmed at he
  injection he with he
  subst he
  repeat' (first
    | (with_reducible assumption) | (with_reducible refine State.doorInput_keeps (hw.of rfl) ?_ _ _)
    | (with_reducible refine Keeps.ite ?_ ?_) | (with_reducible refine Keeps.foldl _ (fun _ _ _ => ?_) ?_) | intro _
    | split | dsimp only)

theorem execDeployComplete_keeps {ps : List Part} {s0 s t : State} (hw : Within [.free, .doors, .quince, .loop, .outs,
    .fcp, .log, .service] ps) (h : Keeps ps s0 s) (a1 : DoorIx)
    (he : execDeployComplete a1 s = .next t) : Keeps ps s0 t := by
  unfold execDeployComplete at he
  injection he with he
  subst he
  repeat' (first
    | (with_reducible assumption) | (with_reducible refine State.atStep_keeps (hw.of rfl) ?_ _ _)
    | (with_reducible refine Keeps.ite ?_ ?_) | (with_reducible refine Keeps.foldl _ (fun _ _ _ => ?_) ?_) | intro _
    | split | dsimp only)

theorem execDeploySdsTimeout_keeps {ps : List Part} {s0 s t : State} (hw : Within [.free, .doors, .quince, .loop,
    .outs, .fcp, .log, .service] ps) (h : Keeps ps s0 s) (a1 : DoorIx)
    (he : execDeploySdsTimeout a1 s = .next t) : Keeps ps s0 t := by
  unfold execDeploySdsTimeout at he
  injection he with he
  subst he
  repeat' (first
    | (with_reducible assumption) | (with_reducible refine State.atStep_keeps (hw.of rfl) ?_ _ _)
    | (with_reducible refine Keeps.ite ?_ ?_) | (with_reducible refine Keeps.foldl _ (fun _ _ _ => ?_) ?_) | intro _
    | split | dsimp only)

theorem execDirectionFault_keeps {ps : List Part} {s0 s t : State} (hw : Within [.free, .doors, .quince, .loop, .outs,
    .fcp, .log, .service] ps) (h : Keeps ps s0 s) (a1 : DoorIx)
    (he : execDirectionFault a1 s = .next t) : Keeps ps s0 t := by
  unfold execDirectionFault at he
  injection he with he
  subst he
  repeat' (first
    | (with_reducible assumption) | (with_reducible refine State.atDoor_keeps (hw.of rfl) ?_ _ _)
    | (with_reducible refine Keeps.ite ?_ ?_) | (with_reducible refine Keeps.foldl _ (fun _ _ _ => ?_) ?_) | intro _
    | split | dsimp only)

theorem execDriveHardwareTrip_keeps {ps : List Part} {s0 s t : State} (hw : Within [.free, .doors, .quince, .loop,
    .outs, .fcp, .log, .service] ps) (h : Keeps ps s0 s) (a1 : DriveIx) (a2 : HwTrip) (a3 : Fin 4) (a4 : Nat)
    (he : execDriveHardwareTrip a1 a2 a3 a4 s = .next t) : Keeps ps s0 t := by
  unfold execDriveHardwareTrip at he
  injection he with he
  subst he
  repeat' (first
    | (with_reducible assumption) | (with_reducible refine State.hardwareTrip_keeps (hw.of rfl) ?_ _ _ _ _)
    | (with_reducible refine Keeps.ite ?_ ?_) | (with_reducible refine Keeps.foldl _ (fun _ _ _ => ?_) ?_) | intro _
    | split | dsimp only)

theorem execDriveInterruption_keeps {ps : List Part} {s0 s t : State} (hw : Within [.free, .doors, .quince, .loop,
    .outs, .fcp, .log, .service] ps) (h : Keeps ps s0 s) (a1 : DriveIx) (a2 : Interruption)
    (he : execDriveInterruption a1 a2 s = .next t) : Keeps ps s0 t := by
  unfold execDriveInterruption at he
  injection he with he
  subst he
  repeat' (first
    | (with_reducible assumption) | (with_reducible refine State.interruptDrive_keeps (hw.of rfl) ?_ _ _)
    | (with_reducible refine Keeps.ite ?_ ?_) | (with_reducible refine Keeps.foldl _ (fun _ _ _ => ?_) ?_) | intro _
    | split | dsimp only)

theorem execEncoderSourceCount_keeps {ps : List Part} {s0 s t : State} (hw : Within [.encoders] ps) (h : Keeps ps s0 s)
    (a1 : Fin 2) (a2 : Bool)
    (he : execEncoderSourceCount a1 a2 s = .next t) : Keeps ps s0 t := by
  unfold execEncoderSourceCount at he
  injection he with he
  subst he
  repeat' (first
    | (with_reducible assumption) | (with_reducible refine State.encoderCounts_keeps (hw.of rfl) ?_ _ _)
    | (with_reducible refine Keeps.ite ?_ ?_) | (with_reducible refine Keeps.foldl _ (fun _ _ _ => ?_) ?_) | intro _
    | split | dsimp only)

theorem execEnvBreakawayExpiry_keeps {ps : List Part} {s0 s t : State} (hw : Within [.free, .doors, .quince, .loop,
    .outs, .fcp, .log, .service] ps) (h : Keeps ps s0 s) (a1 : DoorIx)
    (he : execEnvBreakawayExpiry a1 s = .next t) : Keeps ps s0 t := by
  unfold execEnvBreakawayExpiry at he
  injection he with he
  subst he
  repeat' (first
    | (with_reducible assumption) | (with_reducible refine State.atDoor_keeps (hw.of rfl) ?_ _ _)
    | (with_reducible refine Keeps.ite ?_ ?_) | (with_reducible refine Keeps.foldl _ (fun _ _ _ => ?_) ?_) | intro _
    | split | dsimp only)

theorem execFinalClosureTrip_keeps {ps : List Part} {s0 s t : State} (hw : Within [.free, .doors, .quince, .fcp, .log]
    ps) (h : Keeps ps s0 s) (a1 : DoorIx) (a2 : FinalClosure)
    (he : execFinalClosureTrip a1 a2 s = .next t) : Keeps ps s0 t := by
  unfold execFinalClosureTrip at he
  injection he with he
  subst he
  repeat' (first
    | (with_reducible assumption) | (with_reducible refine State.closureTrips_keeps (hw.of rfl) ?_ _ _)
    | (with_reducible refine Keeps.ite ?_ ?_) | (with_reducible refine Keeps.foldl _ (fun _ _ _ => ?_) ?_) | intro _
    | split | dsimp only)

theorem execFollowingError_keeps {ps : List Part} {s0 s t : State} (hw : Within [.free, .doors, .quince, .loop, .outs,
    .fcp, .log, .service] ps) (h : Keeps ps s0 s) (a1 : DoorIx)
    (he : execFollowingError a1 s = .next t) : Keeps ps s0 t := by
  unfold execFollowingError at he
  injection he with he
  subst he
  repeat' (first
    | (with_reducible assumption) | (with_reducible refine State.atDoor_keeps (hw.of rfl) ?_ _ _)
    | (with_reducible refine Keeps.ite ?_ ?_) | (with_reducible refine Keeps.foldl _ (fun _ _ _ => ?_) ?_) | intro _
    | split | dsimp only)

theorem execHallChange_keeps {ps : List Part} {s0 s t : State} (hw : Within [.free, .doors, .quince, .loop, .outs,
    .fcp, .log, .service] ps) (h : Keeps ps s0 s) (a1 : DoorIx) (a2 : BitVec 3) (a3 : Nat)
    (he : execHallChange a1 a2 a3 s = .next t) : Keeps ps s0 t := by
  unfold execHallChange at he
  injection he with he
  subst he
  repeat' (first
    | (with_reducible assumption)
    | (with_reducible exact id)
    | (with_reducible refine State.hallChanges_keeps (hw.of rfl) ?_ _ _ _)
    | (with_reducible refine Keeps.ite ?_ ?_)
    | (with_reducible refine Keeps.foldl _ (fun _ _ _ => ?_) ?_)
    | intro _
    | split
    | dsimp only)

theorem execHallDropout_keeps {ps : List Part} {s0 s t : State} (hw : Within [.free, .doors, .quince, .loop, .outs,
    .fcp, .log, .service] ps) (h : Keeps ps s0 s) (a1 : DoorIx) (a2 : Bool) (a3 : Nat)
    (he : execHallDropout a1 a2 a3 s = .next t) : Keeps ps s0 t := by
  unfold execHallDropout at he
  injection he with he
  subst he
  repeat' (first
    | (with_reducible assumption) | (with_reducible refine State.atDoor_keeps (hw.of rfl) ?_ _ _)
    | (with_reducible refine Keeps.ite ?_ ?_) | (with_reducible refine Keeps.foldl _ (fun _ _ _ => ?_) ?_) | intro _
    | split | dsimp only)

theorem execHallLostTimeout_keeps {ps : List Part} {s0 s t : State} (hw : Within [.free, .doors, .quince, .loop, .outs,
    .fcp, .log, .service] ps) (h : Keeps ps s0 s) (a1 : DoorIx)
    (he : execHallLostTimeout a1 s = .next t) : Keeps ps s0 t := by
  unfold execHallLostTimeout at he
  injection he with he
  subst he
  repeat' (first
    | (with_reducible assumption) | (with_reducible refine State.atDoor_keeps (hw.of rfl) ?_ _ _)
    | (with_reducible refine Keeps.ite ?_ ?_) | (with_reducible refine Keeps.foldl _ (fun _ _ _ => ?_) ?_) | intro _
    | split | dsimp only)

theorem execHallSupplyFault_keeps {ps : List Part} {s0 s t : State} (hw : Within [.free, .doors, .quince, .loop, .outs,
    .fcp, .log, .service] ps) (h : Keeps ps s0 s) (a1 : DoorIx)
    (he : execHallSupplyFault a1 s = .next t) : Keeps ps s0 t := by
  unfold execHallSupplyFault at he
  injection he with he
  subst he
  repeat' (first
    | (with_reducible assumption) | (with_reducible refine State.atDoor_keeps (hw.of rfl) ?_ _ _)
    | (with_reducible refine Keeps.ite ?_ ?_) | (with_reducible refine Keeps.foldl _ (fun _ _ _ => ?_) ?_) | intro _
    | split | dsimp only)

theorem execHomingOvertravel_keeps {ps : List Part} {s0 s t : State} (hw : Within [.free, .doors, .quince, .loop,
    .outs, .fcp, .log, .service] ps) (h : Keeps ps s0 s) (a1 : DoorIx)
    (he : execHomingOvertravel a1 s = .next t) : Keeps ps s0 t := by
  unfold execHomingOvertravel at he
  injection he with he
  subst he
  repeat' (first
    | (with_reducible assumption) | (with_reducible refine State.atStep_keeps (hw.of rfl) ?_ _ _)
    | (with_reducible refine Keeps.ite ?_ ?_) | (with_reducible refine Keeps.foldl _ (fun _ _ _ => ?_) ?_) | intro _
    | split | dsimp only)

theorem execInterruptionEnd_keeps {ps : List Part} {s0 s t : State} (hw : Within [.free, .doors, .quince, .loop, .outs,
    .fcp, .log, .service] ps) (h : Keeps ps s0 s) (a1 : DriveIx) (a2 : Interruption)
    (he : execInterruptionEnd a1 a2 s = .next t) : Keeps ps s0 t := by
  unfold execInterruptionEnd at he
  injection he with he
  subst he
  repeat' (first
    | (with_reducible assumption) | (with_reducible refine State.interruptionEnds_keeps (hw.of rfl) ?_ _ _)
    | (with_reducible refine Keeps.ite ?_ ?_) | (with_reducible refine Keeps.foldl _ (fun _ _ _ => ?_) ?_) | intro _
    | split | dsimp only)

theorem execLevelRowChange_keeps {ps : List Part} {s0 s t : State} (hw : Within [.doors, .quince, .train, .loop, .outs,
    .fcp, .log] ps) (h : Keeps ps s0 s) (a1 : RowIx) (a2 : DriveIx) (a3 : Bool)
    (he : execLevelRowChange a1 a2 a3 s = .next t) : Keeps ps s0 t := by
  unfold execLevelRowChange at he
  injection he with he
  subst he
  repeat' (first
    | (with_reducible assumption) | (with_reducible refine State.levelRow_keeps (hw.of rfl) ?_ _ _ _)
    | (with_reducible refine Keeps.ite ?_ ?_) | (with_reducible refine Keeps.foldl _ (fun _ _ _ => ?_) ?_) | intro _
    | split | dsimp only)

theorem execParkComplete_keeps {ps : List Part} {s0 s t : State} (hw : Within [.free, .doors, .quince, .loop, .outs,
    .fcp, .log, .power, .service] ps) (h : Keeps ps s0 s) (a1 : DoorIx)
    (he : execParkComplete a1 s = .next t) : Keeps ps s0 t := by
  unfold execParkComplete at he
  injection he with he
  subst he
  repeat' (first
    | (with_reducible assumption) | (with_reducible refine State.parkEnds_keeps (hw.of rfl) ?_ _)
    | (with_reducible refine Keeps.ite ?_ ?_) | (with_reducible refine Keeps.foldl _ (fun _ _ _ => ?_) ?_) | intro _
    | split | dsimp only)

theorem execPathComplete_keeps {ps : List Part} {s0 s t : State} (hw : Within [.free, .doors, .quince, .loop, .outs,
    .fcp, .log, .power, .service] ps) (h : Keeps ps s0 s) (a1 : DriveIx)
    (he : execPathComplete a1 s = .next t) : Keeps ps s0 t := by
  unfold execPathComplete at he
  injection he with he
  subst he
  repeat' (first
    | (with_reducible assumption) | (with_reducible refine State.pathEnds_keeps (hw.of rfl) ?_ _)
    | (with_reducible refine Keeps.ite ?_ ?_) | (with_reducible refine Keeps.foldl _ (fun _ _ _ => ?_) ?_) | intro _
    | split | dsimp only)

theorem execQuinceClockFault_keeps {ps : List Part} {s0 s t : State} (hw : Within [.free, .doors, .quince, .loop,
    .outs, .fcp, .log, .service] ps) (h : Keeps ps s0 s) 
    (he : execQuinceClockFault s = .next t) : Keeps ps s0 t := by
  unfold execQuinceClockFault at he
  injection he with he
  subst he
  repeat' (first
    | (with_reducible assumption) | (with_reducible refine State.clockFails_keeps (hw.of rfl) ?_)
    | (with_reducible refine Keeps.ite ?_ ?_) | (with_reducible refine Keeps.foldl _ (fun _ _ _ => ?_) ?_) | intro _
    | split | dsimp only)

theorem execReflexLatchRelease_keeps {ps : List Part} {s0 s t : State} (hw : Within [.free, .doors, .quince, .loop,
    .outs, .fcp, .log, .service] ps) (h : Keeps ps s0 s) (a1 : DoorIx)
    (he : execReflexLatchRelease a1 s = .next t) : Keeps ps s0 t := by
  unfold execReflexLatchRelease at he
  injection he with he
  subst he
  repeat' (first
    | (with_reducible assumption) | (with_reducible refine State.latchReleases_keeps (hw.of rfl) ?_ _)
    | (with_reducible refine Keeps.ite ?_ ?_) | (with_reducible refine Keeps.foldl _ (fun _ _ _ => ?_) ?_) | intro _
    | split | dsimp only)

theorem execReflexStopEnd_keeps {ps : List Part} {s0 s t : State} (hw : Within [.free, .doors, .quince, .loop, .outs,
    .fcp, .log, .service] ps) (h : Keeps ps s0 s) (a1 : DoorIx)
    (he : execReflexStopEnd a1 s = .next t) : Keeps ps s0 t := by
  unfold execReflexStopEnd at he
  injection he with he
  subst he
  repeat' (first
    | (with_reducible assumption) | (with_reducible refine State.reflexStopEnds_keeps (hw.of rfl) ?_ _)
    | (with_reducible refine Keeps.ite ?_ ?_) | (with_reducible refine Keeps.foldl _ (fun _ _ _ => ?_) ?_) | intro _
    | split | dsimp only)

theorem execReflexTripTaken_keeps {ps : List Part} {s0 s t : State} (hw : Within [.free, .doors, .quince, .loop, .outs,
    .fcp, .log, .service] ps) (h : Keeps ps s0 s) (a1 : DoorIx)
    (he : execReflexTripTaken a1 s = .next t) : Keeps ps s0 t := by
  unfold execReflexTripTaken at he
  injection he with he
  subst he
  repeat' (first
    | (with_reducible assumption) | (with_reducible refine State.atDoor_keeps (hw.of rfl) ?_ _ _)
    | (with_reducible refine Keeps.ite ?_ ?_) | (with_reducible refine Keeps.foldl _ (fun _ _ _ => ?_) ?_) | intro _
    | split | dsimp only)

theorem execRowanTrip_keeps {ps : List Part} {s0 s t : State} (hw : Within [.free, .doors, .quince, .fcp, .log] ps) (h
    : Keeps ps s0 s) (a1 : DoorIx) (a2 : Int) (a3 : Int) (a4 : Int)
    (he : execRowanTrip a1 a2 a3 a4 s = .next t) : Keeps ps s0 t := by
  unfold execRowanTrip at he
  injection he with he
  subst he
  repeat' (first
    | (with_reducible assumption) | (with_reducible refine State.rowanTrips_keeps (hw.of rfl) ?_ _ _ _ _)
    | (with_reducible refine Keeps.ite ?_ ?_) | (with_reducible refine Keeps.foldl _ (fun _ _ _ => ?_) ?_) | intro _
    | split | dsimp only)

theorem execSdsLost_keeps {ps : List Part} {s0 s t : State} (hw : Within [.free, .doors, .quince, .loop, .outs, .fcp,
    .log, .service] ps) (h : Keeps ps s0 s) (a1 : DoorIx)
    (he : execSdsLost a1 s = .next t) : Keeps ps s0 t := by
  unfold execSdsLost at he
  injection he with he
  subst he
  repeat' (first
    | (with_reducible assumption) | (with_reducible refine State.doorInput_keeps (hw.of rfl) ?_ _ _)
    | (with_reducible refine Keeps.ite ?_ ?_) | (with_reducible refine Keeps.foldl _ (fun _ _ _ => ?_) ?_) | intro _
    | split | dsimp only)

theorem execSeFastOnset_keeps {ps : List Part} {s0 s t : State} (hw : Within [.free, .doors, .quince, .fcp, .log] ps)
    (h : Keeps ps s0 s) (a1 : DoorIx) (a2 : EdgeSample)
    (he : execSeFastOnset a1 a2 s = .next t) : Keeps ps s0 t := by
  unfold execSeFastOnset at he
  injection he with he
  subst he
  repeat' (first
    | (with_reducible assumption)
    | (with_reducible exact id)
    | (with_reducible refine State.edgeOnset_keeps (hw.of rfl) ?_ _ _)
    | (with_reducible refine Keeps.ite ?_ ?_)
    | (with_reducible refine Keeps.foldl _ (fun _ _ _ => ?_) ?_)
    | intro _
    | split
    | dsimp only)

theorem execSePathFault_keeps {ps : List Part} {s0 s t : State} (hw : Within [.free, .doors, .fcp, .log] ps) (h :
    Keeps ps s0 s) (a1 : DoorIx) (a2 : Bool)
    (he : execSePathFault a1 a2 s = .next t) : Keeps ps s0 t := by
  unfold execSePathFault at he
  injection he with he
  subst he
  repeat' (first
    | (with_reducible assumption)
    | (with_reducible exact id)
    | (with_reducible refine State.edgesCompared_keeps (hw.of rfl) ?_ _ _ _ (by first | exact .inl rfl | exact .inr rfl))
    | (with_reducible refine Keeps.ite ?_ ?_)
    | (with_reducible refine Keeps.foldl _ (fun _ _ _ => ?_) ?_)
    | intro _
    | split
    | dsimp only)

theorem execSePathFaultClear_keeps {ps : List Part} {s0 s t : State} (hw : Within [.free, .doors, .fcp, .log] ps) (h :
    Keeps ps s0 s) (a1 : DoorIx)
    (he : execSePathFaultClear a1 s = .next t) : Keeps ps s0 t := by
  unfold execSePathFaultClear at he
  injection he with he
  subst he
  exact State.edgesCompared_keeps (hw.of rfl) h _ false _ (.inr rfl)

theorem execSealSeekOvertravel_keeps {ps : List Part} {s0 s t : State} (hw : Within [.free, .doors, .quince, .loop,
    .outs, .fcp, .log, .service] ps) (h : Keeps ps s0 s) (a1 : DoorIx)
    (he : execSealSeekOvertravel a1 s = .next t) : Keeps ps s0 t := by
  unfold execSealSeekOvertravel at he
  injection he with he
  subst he
  repeat' (first
    | (with_reducible assumption) | (with_reducible refine State.atDoor_keeps (hw.of rfl) ?_ _ _)
    | (with_reducible refine Keeps.ite ?_ ?_) | (with_reducible refine Keeps.foldl _ (fun _ _ _ => ?_) ?_) | intro _
    | split | dsimp only)

theorem execSealStall_keeps {ps : List Part} {s0 s t : State} (hw : Within [.free, .doors, .quince, .loop, .outs, .fcp,
    .log, .service] ps) (h : Keeps ps s0 s) (a1 : DoorIx)
    (he : execSealStall a1 s = .next t) : Keeps ps s0 t := by
  unfold execSealStall at he
  injection he with he
  subst he
  repeat' (first
    | (with_reducible assumption) | (with_reducible refine State.atDoor_keeps (hw.of rfl) ?_ _ _)
    | (with_reducible refine Keeps.ite ?_ ?_) | (with_reducible refine Keeps.foldl _ (fun _ _ _ => ?_) ?_) | intro _
    | split | dsimp only)

theorem execSegmentEndEvent_keeps {ps : List Part} {s0 s t : State} (hw : Within [.free, .doors, .quince, .loop, .outs,
    .fcp, .log, .service] ps) (h : Keeps ps s0 s) (a1 : DriveIx)
    (he : execSegmentEndEvent a1 s = .next t) : Keeps ps s0 t := by
  unfold execSegmentEndEvent at he
  injection he with he
  subst he
  repeat' (first
    | (with_reducible assumption) | (with_reducible refine State.atDrive_keeps (hw.of rfl) ?_ _ _)
    | (with_reducible refine Keeps.ite ?_ ?_) | (with_reducible refine Keeps.foldl _ (fun _ _ _ => ?_) ?_) | intro _
    | split | dsimp only)

theorem execStallConfirmed_keeps {ps : List Part} {s0 s t : State} (hw : Within [.free, .doors, .quince, .loop, .outs,
    .fcp, .log, .service] ps) (h : Keeps ps s0 s) (a1 : DoorIx) (a2 : Int)
    (he : execStallConfirmed a1 a2 s = .next t) : Keeps ps s0 t := by
  unfold execStallConfirmed at he
  injection he with he
  subst he
  repeat' (first
    | (with_reducible assumption) | (with_reducible refine State.atStep_keeps (hw.of rfl) ?_ _ _)
    | (with_reducible refine Keeps.ite ?_ ?_) | (with_reducible refine Keeps.foldl _ (fun _ _ _ => ?_) ?_) | intro _
    | split | dsimp only)

theorem execStepRetryPauseExpiry_keeps {ps : List Part} {s0 s t : State} (hw : Within [.free, .doors, .quince, .loop,
    .outs, .fcp, .log, .service] ps) (h : Keeps ps s0 s) (a1 : DoorIx)
    (he : execStepRetryPauseExpiry a1 s = .next t) : Keeps ps s0 t := by
  unfold execStepRetryPauseExpiry at he
  injection he with he
  subst he
  repeat' (first
    | (with_reducible assumption) | (with_reducible refine State.atStep_keeps (hw.of rfl) ?_ _ _)
    | (with_reducible refine Keeps.ite ?_ ?_) | (with_reducible refine Keeps.foldl _ (fun _ _ _ => ?_) ?_) | intro _
    | split | dsimp only)

theorem execStepTimerExpiry_keeps {ps : List Part} {s0 s t : State} (hw : Within [.free, .doors, .quince, .loop, .outs,
    .fcp, .log, .service] ps) (h : Keeps ps s0 s) (a1 : DoorIx)
    (he : execStepTimerExpiry a1 s = .next t) : Keeps ps s0 t := by
  unfold execStepTimerExpiry at he
  injection he with he
  subst he
  repeat' (first
    | (with_reducible assumption) | (with_reducible refine State.atStep_keeps (hw.of rfl) ?_ _ _)
    | (with_reducible refine Keeps.ite ?_ ?_) | (with_reducible refine Keeps.foldl _ (fun _ _ _ => ?_) ?_) | intro _
    | split | dsimp only)

theorem execStopComplete_keeps {ps : List Part} {s0 s t : State} (hw : Within [.free, .doors, .quince, .loop, .outs,
    .fcp, .log, .service] ps) (h : Keeps ps s0 s) (a1 : DriveIx)
    (he : execStopComplete a1 s = .next t) : Keeps ps s0 t := by
  unfold execStopComplete at he
  injection he with he
  subst he
  repeat' (first
    | (with_reducible assumption) | (with_reducible refine State.stopEnds_keeps (hw.of rfl) ?_ _)
    | (with_reducible refine Keeps.ite ?_ ?_) | (with_reducible refine Keeps.foldl _ (fun _ _ _ => ?_) ?_) | intro _
    | split | dsimp only)

theorem execThermalHold_keeps {ps : List Part} {s0 s t : State} (hw : Within [.free, .doors, .quince, .loop, .outs,
    .fcp, .log, .service] ps) (h : Keeps ps s0 s) (a1 : DriveIx) (a2 : Int)
    (he : execThermalHold a1 a2 s = .next t) : Keeps ps s0 t := by
  unfold execThermalHold at he
  injection he with he
  subst he
  repeat' (first
    | (with_reducible assumption) | (with_reducible refine State.atDrive_keeps (hw.of rfl) ?_ _ _)
    | (with_reducible refine Keeps.ite ?_ ?_) | (with_reducible refine Keeps.foldl _ (fun _ _ _ => ?_) ?_) | intro _
    | split | dsimp only)

theorem execThermalHoldClear_keeps {ps : List Part} {s0 s t : State} (hw : Within [.free, .doors, .quince, .loop,
    .outs, .fcp, .log, .service] ps) (h : Keeps ps s0 s) (a1 : DriveIx) (a2 : Int)
    (he : execThermalHoldClear a1 a2 s = .next t) : Keeps ps s0 t := by
  unfold execThermalHoldClear at he
  injection he with he
  subst he
  repeat' (first
    | (with_reducible assumption) | (with_reducible refine State.atDrive_keeps (hw.of rfl) ?_ _ _)
    | (with_reducible refine Keeps.ite ?_ ?_) | (with_reducible refine Keeps.foldl _ (fun _ _ _ => ?_) ?_) | intro _
    | split | dsimp only)

end Sys2Proof.Machine
end

