-- ==== Sys2Proof/Laws/KeepsNetworkMeanings.lean ====
section
/-!
SUPPORT. For every operation of Machine/NetworkMeanings.lean: the parts of State it may change, and that it keeps the invariant.
-/

set_option linter.unusedVariables false
set_option linter.unusedSimpArgs false

namespace Sys2Proof.Machine

theorem execAddressConflictClear_keeps {ps : List Part} {s0 s t : State} (hw : Within [.fcp, .ring] ps) (h : Keeps ps
    s0 s) 
    (he : execAddressConflictClear s = .next t) : Keeps ps s0 t := by
  unfold execAddressConflictClear at he
  injection he with he
  subst he
  repeat' (first
    | (with_reducible assumption) | (with_reducible refine State.onInserted_keeps (hw.of rfl) ?_ _)
    | (with_reducible refine Keeps.ite ?_ ?_) | (with_reducible refine Keeps.foldl _ (fun _ _ _ => ?_) ?_) | intro _
    | split | dsimp only)

theorem execBasicCycleStart_keeps {ps : List Part} {s0 s t : State} (hw : Within [.fcp, .can] ps) (h : Keeps ps s0 s)
    (a1 : CanIx)
    (he : execBasicCycleStart a1 s = .next t) : Keeps ps s0 t := by
  unfold execBasicCycleStart at he
  injection he with he
  subst he
  repeat' (first
    | (with_reducible assumption) | (with_reducible refine State.onChannel_keeps (hw.of rfl) ?_ _ _)
    | (with_reducible refine Keeps.ite ?_ ?_) | (with_reducible refine Keeps.foldl _ (fun _ _ _ => ?_) ?_) | intro _
    | split | dsimp only)

theorem execBeaconTransmit_keeps {ps : List Part} {s0 s t : State} (hw : Within [.ring] ps) (h : Keeps ps s0 s) 
    (he : execBeaconTransmit s = .next t) : Keeps ps s0 t := by
  unfold execBeaconTransmit at he
  injection he with he
  subst he
  repeat' (first
    | (with_reducible assumption) | (with_reducible refine State.sendBeacon_keeps (hw.of rfl) ?_)
    | (with_reducible refine Keeps.ite ?_ ?_) | (with_reducible refine Keeps.foldl _ (fun _ _ _ => ?_) ?_) | intro _
    | split | dsimp only)

theorem execCanBusOff_keeps {ps : List Part} {s0 s t : State} (hw : Within [.fcp, .can] ps) (h : Keeps ps s0 s) (a1 :
    CanIx)
    (he : execCanBusOff a1 s = .next t) : Keeps ps s0 t := by
  unfold execCanBusOff at he
  injection he with he
  subst he
  repeat' (first
    | (with_reducible assumption) | (with_reducible refine State.busOff_keeps (hw.of rfl) ?_ _)
    | (with_reducible refine Keeps.ite ?_ ?_) | (with_reducible refine Keeps.foldl _ (fun _ _ _ => ?_) ?_) | intro _
    | split | dsimp only)

theorem execCanBusRecovered_keeps {ps : List Part} {s0 s t : State} (hw : Within [.fcp, .can] ps) (h : Keeps ps s0 s)
    (a1 : CanIx)
    (he : execCanBusRecovered a1 s = .next t) : Keeps ps s0 t := by
  unfold execCanBusRecovered at he
  injection he with he
  subst he
  repeat' (first
    | (with_reducible assumption) | (with_reducible refine State.onChannel_keeps (hw.of rfl) ?_ _ _)
    | (with_reducible refine Keeps.ite ?_ ?_) | (with_reducible refine Keeps.foldl _ (fun _ _ _ => ?_) ?_) | intro _
    | split | dsimp only)

theorem execCanFrameReceived_keeps {ps : List Part} {s0 s t : State} (hw : Within [.free, .doors, .quince, .train,
    .loop, .lsw, .outs, .fcp, .log, .ring, .can, .power, .engines, .service, .config] ps) (h : Keeps ps s0 s) (a1 :
    CanIx) (a2 : CanFrame)
    (he : execCanFrameReceived a1 a2 s = .next t) : Keeps ps s0 t := by
  unfold execCanFrameReceived at he
  injection he with he
  subst he
  repeat' (first
    | (with_reducible assumption) | (with_reducible refine State.canFrame_keeps (hw.of rfl) ?_ _ _)
    | (with_reducible refine Keeps.ite ?_ ?_) | (with_reducible refine Keeps.foldl _ (fun _ _ _ => ?_) ?_) | intro _
    | split | dsimp only)

theorem execCanFrameTransmitted_keeps {ps : List Part} {s0 s t : State} (hw : Within [.fcp, .can] ps) (h : Keeps ps s0
    s) (a1 : CanIx) (a2 : BitVec 3) (a3 : TxResult)
    (he : execCanFrameTransmitted a1 a2 a3 s = .next t) : Keeps ps s0 t := by
  unfold execCanFrameTransmitted at he
  injection he with he
  subst he
  repeat' (first
    | (with_reducible assumption)
    | (with_reducible exact id)
    | (with_reducible refine State.frameSent_keeps (hw.of rfl) ?_ _ _ _)
    | (with_reducible refine Keeps.ite ?_ ?_)
    | (with_reducible refine Keeps.foldl _ (fun _ _ _ => ?_) ?_)
    | intro _
    | split
    | dsimp only)

theorem execCanIntegrationComplete_keeps {ps : List Part} {s0 s t : State} (hw : Within [.fcp, .can] ps) (h : Keeps ps
    s0 s) (a1 : CanIx)
    (he : execCanIntegrationComplete a1 s = .next t) : Keeps ps s0 t := by
  unfold execCanIntegrationComplete at he
  injection he with he
  subst he
  repeat' (first
    | (with_reducible assumption) | (with_reducible refine State.onChannel_keeps (hw.of rfl) ?_ _ _)
    | (with_reducible refine Keeps.ite ?_ ?_) | (with_reducible refine Keeps.foldl _ (fun _ _ _ => ?_) ?_) | intro _
    | split | dsimp only)

theorem execCanQueueService_keeps {ps : List Part} {s0 s t : State} (hw : Within [.fcp, .can] ps) (h : Keeps ps s0 s)
    (a1 : CanIx)
    (he : execCanQueueService a1 s = .next t) : Keeps ps s0 t := by
  unfold execCanQueueService at he
  injection he with he
  subst he
  repeat' (first
    | (with_reducible assumption) | (with_reducible refine State.canServed_keeps (hw.of rfl) ?_ _)
    | (with_reducible refine Keeps.ite ?_ ?_) | (with_reducible refine Keeps.foldl _ (fun _ _ _ => ?_) ?_) | intro _
    | split | dsimp only)

theorem execConsistMismatchClear_keeps {ps : List Part} {s0 s t : State} (hw : Within [.fcp, .ring] ps) (h : Keeps ps
    s0 s) 
    (he : execConsistMismatchClear s = .next t) : Keeps ps s0 t := by
  unfold execConsistMismatchClear at he
  injection he with he
  subst he
  repeat' (first
    | (with_reducible assumption) | (with_reducible refine State.onInserted_keeps (hw.of rfl) ?_ _)
    | (with_reducible refine Keeps.ite ?_ ?_) | (with_reducible refine Keeps.foldl _ (fun _ _ _ => ?_) ?_) | intro _
    | split | dsimp only)

theorem execEraseClearComplete_keeps {ps : List Part} {s0 s t : State} (hw : Within [.fcp, .log] ps) (h : Keeps ps s0 s) 
    (he : execEraseClearComplete s = .next t) : Keeps ps s0 t := by
  unfold execEraseClearComplete at he
  injection he with he
  subst he
  repeat' (first
    | (with_reducible assumption) | (with_reducible refine State.eraseDone_keeps (hw.of rfl) ?_)
    | (with_reducible refine Keeps.ite ?_ ?_) | (with_reducible refine Keeps.foldl _ (fun _ _ _ => ?_) ?_) | intro _
    | split | dsimp only)

theorem execEthertypeConflictClear_keeps {ps : List Part} {s0 s t : State} (hw : Within [.fcp, .ring] ps) (h : Keeps ps
    s0 s) 
    (he : execEthertypeConflictClear s = .next t) : Keeps ps s0 t := by
  unfold execEthertypeConflictClear at he
  injection he with he
  subst he
  repeat' (first
    | (with_reducible assumption) | (with_reducible refine State.onInserted_keeps (hw.of rfl) ?_ _)
    | (with_reducible refine Keeps.ite ?_ ?_) | (with_reducible refine Keeps.foldl _ (fun _ _ _ => ?_) ?_) | intro _
    | split | dsimp only)

theorem execFlushComplete_keeps {ps : List Part} {s0 s t : State} (hw : Within [.fcp, .log, .power] ps) (h : Keeps ps
    s0 s) (a1 : Nat)
    (he : execFlushComplete a1 s = .next t) : Keeps ps s0 t := by
  unfold execFlushComplete at he
  injection he with he
  subst he
  repeat' (first
    | (with_reducible assumption) | (with_reducible refine State.flushEnds_keeps (hw.of rfl) ?_ _)
    | (with_reducible refine Keeps.ite ?_ ?_) | (with_reducible refine Keeps.foldl _ (fun _ _ _ => ?_) ?_) | intro _
    | split | dsimp only)

theorem execFlushEachRecord_keeps {ps : List Part} {s0 s t : State} (hw : Within [.log] ps) (h : Keeps ps s0 s) 
    (he : execFlushEachRecord s = .next t) : Keeps ps s0 t := by
  unfold execFlushEachRecord at he
  injection he with he
  subst he
  repeat' (first
    | (with_reducible assumption) | (with_reducible refine State.flushRecord_keeps (hw.of rfl) ?_)
    | (with_reducible refine Keeps.ite ?_ ?_) | (with_reducible refine Keeps.foldl _ (fun _ _ _ => ?_) ?_) | intro _
    | split | dsimp only)

theorem execFlushStart_keeps {ps : List Part} {s0 s t : State} (hw : Within [.log] ps) (h : Keeps ps s0 s) 
    (he : execFlushStart s = .next t) : Keeps ps s0 t := by
  unfold execFlushStart at he
  injection he with he
  subst he
  repeat' (first
    | (with_reducible assumption) | (with_reducible refine State.flushStarts_keeps (hw.of rfl) ?_)
    | (with_reducible refine Keeps.ite ?_ ?_) | (with_reducible refine Keeps.foldl _ (fun _ _ _ => ?_) ?_) | intro _
    | split | dsimp only)

theorem execIncidentComplete_keeps {ps : List Part} {s0 s t : State} (hw : Within [.free, .fcp, .log] ps) (h : Keeps ps
    s0 s) (a1 : Fin 9)
    (he : execIncidentComplete a1 s = .next t) : Keeps ps s0 t := by
  unfold execIncidentComplete at he
  injection he with he
  subst he
  repeat' (first
    | (with_reducible assumption) | (with_reducible refine State.incidentEnds_keeps (hw.of rfl) ?_ _)
    | (with_reducible refine Keeps.ite ?_ ?_) | (with_reducible refine Keeps.foldl _ (fun _ _ _ => ?_) ?_) | intro _
    | split | dsimp only)

theorem execNodeTimeout_keeps {ps : List Part} {s0 s t : State} (hw : Within [.fcp, .ring] ps) (h : Keeps ps s0 s) (a1
    : BitVec 8)
    (he : execNodeTimeout a1 s = .next t) : Keeps ps s0 t := by
  unfold execNodeTimeout at he
  injection he with he
  subst he
  repeat' (first
    | (with_reducible assumption) | (with_reducible refine State.onInserted_keeps (hw.of rfl) ?_ _)
    | (with_reducible refine Keeps.ite ?_ ?_) | (with_reducible refine Keeps.foldl _ (fun _ _ _ => ?_) ?_) | intro _
    | split | dsimp only)

theorem execPortDown_keeps {ps : List Part} {s0 s t : State} (hw : Within [.fcp, .ring] ps) (h : Keeps ps s0 s) (a1 :
    PortIx)
    (he : execPortDown a1 s = .next t) : Keeps ps s0 t := by
  unfold execPortDown at he
  injection he with he
  subst he
  repeat' (first
    | (with_reducible assumption) | (with_reducible refine State.onInserted_keeps (hw.of rfl) ?_ _)
    | (with_reducible refine Keeps.ite ?_ ?_) | (with_reducible refine Keeps.foldl _ (fun _ _ _ => ?_) ?_) | intro _
    | split | dsimp only)

theorem execPortUp_keeps {ps : List Part} {s0 s t : State} (hw : Within [.fcp, .ring] ps) (h : Keeps ps s0 s) (a1 :
    PortIx)
    (he : execPortUp a1 s = .next t) : Keeps ps s0 t := by
  unfold execPortUp at he
  injection he with he
  subst he
  repeat' (first
    | (with_reducible assumption) | (with_reducible refine State.onInserted_keeps (hw.of rfl) ?_ _)
    | (with_reducible refine Keeps.ite ?_ ?_) | (with_reducible refine Keeps.foldl _ (fun _ _ _ => ?_) ?_) | intro _
    | split | dsimp only)

theorem execRingFrameReceived_keeps {ps : List Part} {s0 s t : State} (hw : Within [.free, .now, .doors, .quince,
    .train, .loop, .lsw, .outs, .fcp, .log, .ring, .can, .power, .engines, .service, .config] ps) (h : Keeps ps s0 s)
    (a1 : PortIx) (a2 : RingFrame)
    (he : execRingFrameReceived a1 a2 s = .next t) : Keeps ps s0 t := by
  unfold execRingFrameReceived at he
  injection he with he
  subst he
  repeat' (first
    | (with_reducible assumption) | (with_reducible refine State.ringFrame_keeps (hw.of rfl) ?_ _ _)
    | (with_reducible refine Keeps.ite ?_ ?_) | (with_reducible refine Keeps.foldl _ (fun _ _ _ => ?_) ?_) | intro _
    | split | dsimp only)

theorem execRingInsertion_keeps {ps : List Part} {s0 s t : State} (hw : Within [.fcp, .ring] ps) (h : Keeps ps s0 s) 
    (he : execRingInsertion s = .next t) : Keeps ps s0 t := by
  unfold execRingInsertion at he
  injection he with he
  subst he
  repeat' (first
    | (with_reducible assumption) | (with_reducible refine State.ringInserts_keeps (hw.of rfl) ?_)
    | (with_reducible refine Keeps.ite ?_ ?_) | (with_reducible refine Keeps.foldl _ (fun _ _ _ => ?_) ?_) | intro _
    | split | dsimp only)

theorem execRingRemoval_keeps {ps : List Part} {s0 s t : State} (hw : Within [.ring] ps) (h : Keeps ps s0 s) 
    (he : execRingRemoval s = .next t) : Keeps ps s0 t := by
  unfold execRingRemoval at he
  injection he with he
  subst he
  repeat' (first
    | (with_reducible assumption) | (with_reducible refine State.ringRemoves_keeps (hw.of rfl) ?_)
    | (with_reducible refine Keeps.ite ?_ ?_) | (with_reducible refine Keeps.foldl _ (fun _ _ _ => ?_) ?_) | intro _
    | split | dsimp only)

theorem execSchedSyncLost_keeps {ps : List Part} {s0 s t : State} (hw : Within [.fcp, .can] ps) (h : Keeps ps s0 s) (a1
    : CanIx)
    (he : execSchedSyncLost a1 s = .next t) : Keeps ps s0 t := by
  unfold execSchedSyncLost at he
  injection he with he
  subst he
  repeat' (first
    | (with_reducible assumption) | (with_reducible refine State.onChannel_keeps (hw.of rfl) ?_ _ _)
    | (with_reducible refine Keeps.ite ?_ ?_) | (with_reducible refine Keeps.foldl _ (fun _ _ _ => ?_) ?_) | intro _
    | split | dsimp only)

theorem execScheduleSwap_keeps {ps : List Part} {s0 s t : State} (hw : Within [.fcp, .can] ps) (h : Keeps ps s0 s) (a1
    : CanIx)
    (he : execScheduleSwap a1 s = .next t) : Keeps ps s0 t := by
  unfold execScheduleSwap at he
  injection he with he
  subst he
  repeat' (first
    | (with_reducible assumption) | (with_reducible refine State.onChannel_keeps (hw.of rfl) ?_ _ _)
    | (with_reducible refine Keeps.ite ?_ ?_) | (with_reducible refine Keeps.foldl _ (fun _ _ _ => ?_) ?_) | intro _
    | split | dsimp only)

theorem execSlotTxb0Load_keeps {ps : List Part} {s0 s t : State} (hw : Within [.can] ps) (h : Keeps ps s0 s) (a1 :
    CanIx) (a2 : BitVec 8)
    (he : execSlotTxb0Load a1 a2 s = .next t) : Keeps ps s0 t := by
  unfold execSlotTxb0Load at he
  injection he with he
  subst he
  repeat' (first
    | (with_reducible assumption) | (with_reducible refine State.loadSlot_keeps (hw.of rfl) ?_ _ _)
    | (with_reducible refine Keeps.ite ?_ ?_) | (with_reducible refine Keeps.foldl _ (fun _ _ _ => ?_) ?_) | intro _
    | split | dsimp only)

theorem execTimeAgeCount_keeps {ps : List Part} {s0 s t : State} (hw : Within [.fcp, .ring] ps) (h : Keeps ps s0 s) 
    (he : execTimeAgeCount s = .next t) : Keeps ps s0 t := by
  unfold execTimeAgeCount at he
  injection he with he
  subst he
  repeat' (first
    | (with_reducible assumption) | (with_reducible refine State.timeAges_keeps (hw.of rfl) ?_)
    | (with_reducible refine Keeps.ite ?_ ?_) | (with_reducible refine Keeps.foldl _ (fun _ _ _ => ?_) ?_) | intro _
    | split | dsimp only)

theorem execTxLatestStart_keeps {ps : List Part} {s0 s t : State} (hw : Within [.can] ps) (h : Keeps ps s0 s) (a1 :
    CanIx) (a2 : TxBuf)
    (he : execTxLatestStart a1 a2 s = .next t) : Keeps ps s0 t := by
  unfold execTxLatestStart at he
  injection he with he
  subst he
  repeat' (first
    | (with_reducible assumption) | (with_reducible refine State.latestStart_keeps (hw.of rfl) ?_ _ _)
    | (with_reducible refine Keeps.ite ?_ ?_) | (with_reducible refine Keeps.foldl _ (fun _ _ _ => ?_) ?_) | intro _
    | split | dsimp only)

theorem execVersionMismatchClear_keeps {ps : List Part} {s0 s t : State} (hw : Within [.fcp, .ring] ps) (h : Keeps ps
    s0 s) 
    (he : execVersionMismatchClear s = .next t) : Keeps ps s0 t := by
  unfold execVersionMismatchClear at he
  injection he with he
  subst he
  repeat' (first
    | (with_reducible assumption) | (with_reducible refine State.onInserted_keeps (hw.of rfl) ?_ _)
    | (with_reducible refine Keeps.ite ?_ ?_) | (with_reducible refine Keeps.foldl _ (fun _ _ _ => ?_) ?_) | intro _
    | split | dsimp only)

end Sys2Proof.Machine
end

