-- ==== Sys2Proof/Laws/KeepsPowerMeanings.lean ====
section
/-!
SUPPORT. For every operation of Machine/PowerMeanings.lean: the parts of State it may change, and that it keeps the invariant.
-/

set_option linter.unusedVariables false
set_option linter.unusedSimpArgs false

namespace Sys2Proof.Machine

theorem execCanWakePattern_keeps {ps : List Part} {s0 s t : State} (hw : Within [.power] ps) (h : Keeps ps s0 s) (a1 :
    CanIx)
    (he : execCanWakePattern a1 s = .next t) : Keeps ps s0 t := by
  unfold execCanWakePattern at he
  injection he with he
  subst he
  repeat' (first
    | (with_reducible assumption) | (with_reducible refine State.canWakes_keeps (hw.of rfl) ?_ _)
    | (with_reducible refine Keeps.ite ?_ ?_) | (with_reducible refine Keeps.foldl _ (fun _ _ _ => ?_) ?_) | intro _
    | split | dsimp only)

theorem execCartridgeCharged_keeps {ps : List Part} {s0 s t : State} (hw : Within [.power] ps) (h : Keeps ps s0 s) 
    (he : execCartridgeCharged s = .next t) : Keeps ps s0 t := by
  unfold execCartridgeCharged at he
  injection he with he
  subst he
  repeat' (first
    | (with_reducible assumption) | (with_reducible refine State.cartridgeCharged_keeps (hw.of rfl) ?_)
    | (with_reducible refine Keeps.ite ?_ ?_) | (with_reducible refine Keeps.foldl _ (fun _ _ _ => ?_) ?_) | intro _
    | split | dsimp only)

theorem execCartridgeInserted_keeps {ps : List Part} {s0 s t : State} (hw : Within [.loop, .outs, .fcp, .power] ps) (h
    : Keeps ps s0 s) (a1 : List Byte) (a2 : BitVec 16) (a3 : BitVec 16)
    (he : execCartridgeInserted a1 a2 a3 s = .next t) : Keeps ps s0 t := by
  unfold execCartridgeInserted at he
  injection he with he
  subst he
  repeat' (first
    | (with_reducible assumption) | (with_reducible refine State.cartridgeIn_keeps (hw.of rfl) ?_ _ _ _)
    | (with_reducible refine Keeps.ite ?_ ?_) | (with_reducible refine Keeps.foldl _ (fun _ _ _ => ?_) ?_) | intro _
    | split | dsimp only)

theorem execCartridgeMeasure_keeps {ps : List Part} {s0 s t : State} (hw : Within [.loop, .outs, .fcp, .power] ps) (h :
    Keeps ps s0 s) (a1 : BitVec 16) (a2 : BitVec 16)
    (he : execCartridgeMeasure a1 a2 s = .next t) : Keeps ps s0 t := by
  unfold execCartridgeMeasure at he
  injection he with he
  subst he
  repeat' (first
    | (with_reducible assumption) | (with_reducible refine State.measureCartridge_keeps (hw.of rfl) ?_ _ _)
    | (with_reducible refine Keeps.ite ?_ ?_) | (with_reducible refine Keeps.foldl _ (fun _ _ _ => ?_) ?_) | intro _
    | split | dsimp only)

theorem execCartridgeRemoved_keeps {ps : List Part} {s0 s t : State} (hw : Within [.half, .doors, .encoders, .quince,
    .train, .loop, .lsw, .outs, .fcp, .log, .ring, .can, .power, .engines, .service, .config] ps) (h : Keeps ps s0 s) 
    (he : execCartridgeRemoved s = .next t) : Keeps ps s0 t := by
  unfold execCartridgeRemoved at he
  injection he with he
  subst he
  repeat' (first
    | (with_reducible assumption) | (with_reducible refine State.cartridgeOut_keeps (hw.of rfl) ?_)
    | (with_reducible refine Keeps.ite ?_ ?_) | (with_reducible refine Keeps.foldl _ (fun _ _ _ => ?_) ?_) | intro _
    | split | dsimp only)

theorem execHoldupExhausted_keeps {ps : List Part} {s0 s t : State} (hw : Within [.half, .doors, .encoders, .quince,
    .train, .loop, .lsw, .outs, .fcp, .log, .ring, .can, .power, .engines, .service, .config] ps) (h : Keeps ps s0 s) 
    (he : execHoldupExhausted s = .next t) : Keeps ps s0 t := by
  unfold execHoldupExhausted at he
  injection he with he
  subst he
  repeat' (first
    | (with_reducible assumption) | (with_reducible refine State.stackEmpty_keeps (hw.of rfl) ?_)
    | (with_reducible refine Keeps.ite ?_ ?_) | (with_reducible refine Keeps.foldl _ (fun _ _ _ => ?_) ?_) | intro _
    | split | dsimp only)

theorem execHoldupReserveReached_keeps {ps : List Part} {s0 s t : State} (hw : Within [.free, .half, .doors, .encoders,
    .quince, .train, .loop, .lsw, .outs, .fcp, .log, .ring, .can, .power, .engines, .service, .config] ps) (h : Keeps
    ps s0 s) 
    (he : execHoldupReserveReached s = .next t) : Keeps ps s0 t := by
  unfold execHoldupReserveReached at he
  injection he with he
  subst he
  repeat' (first
    | (with_reducible assumption) | (with_reducible refine State.reserveReached_keeps (hw.of rfl) ?_)
    | (with_reducible refine Keeps.ite ?_ ?_) | (with_reducible refine Keeps.foldl _ (fun _ _ _ => ?_) ?_) | intro _
    | split | dsimp only)

theorem execPowerEntryCommit_keeps {ps : List Part} {s0 s t : State} (hw : Within [.half, .doors, .encoders, .quince,
    .train, .loop, .lsw, .outs, .fcp, .log, .ring, .can, .power, .engines, .service, .config] ps) (h : Keeps ps s0 s) 
    (he : execPowerEntryCommit s = .next t) : Keeps ps s0 t := by
  unfold execPowerEntryCommit at he
  injection he with he
  subst he
  repeat' (first
    | (with_reducible assumption) | (with_reducible refine State.entryCommits_keeps (hw.of rfl) ?_)
    | (with_reducible refine Keeps.ite ?_ ?_) | (with_reducible refine Keeps.foldl _ (fun _ _ _ => ?_) ?_) | intro _
    | split | dsimp only)

theorem execPowerEntryFailed_keeps {ps : List Part} {s0 s t : State} (hw : Within [.fcp, .power] ps) (h : Keeps ps s0
    s) (a1 : BitVec 8)
    (he : execPowerEntryFailed a1 s = .next t) : Keeps ps s0 t := by
  unfold execPowerEntryFailed at he
  injection he with he
  subst he
  repeat' (first
    | (with_reducible assumption) | (with_reducible refine State.entryFails_keeps (hw.of rfl) ?_ _)
    | (with_reducible refine Keeps.ite ?_ ?_) | (with_reducible refine Keeps.foldl _ (fun _ _ _ => ?_) ?_) | intro _
    | split | dsimp only)

theorem execPowerUp_keeps {ps : List Part} {s0 s t : State} (hw : Within [.free, .now, .half, .doors, .encoders,
    .quince, .train, .loop, .lsw, .outs, .fcp, .log, .ring, .can, .power, .engines, .service, .config] ps) (h : Keeps
    ps s0 s) (a1 : Bool) (a2 : Bool) (a3 : Bool)
    (he : execPowerUp a1 a2 a3 s = .next t) : Keeps ps s0 t := by
  unfold execPowerUp at he
  injection he with he
  subst he
  repeat' (first
    | (with_reducible assumption) | (with_reducible refine State.powersUp_keeps (hw.of rfl) ?_ _ _ _)
    | (with_reducible refine Keeps.ite ?_ ?_) | (with_reducible refine Keeps.foldl _ (fun _ _ _ => ?_) ?_) | intro _
    | split | dsimp only)

theorem execPrechargeComplete_keeps {ps : List Part} {s0 s t : State} (hw : Within [.free, .doors, .quince, .loop,
    .outs, .fcp, .log, .power, .service] ps) (h : Keeps ps s0 s) 
    (he : execPrechargeComplete s = .next t) : Keeps ps s0 t := by
  unfold execPrechargeComplete at he
  injection he with he
  subst he
  repeat' (first
    | (with_reducible assumption) | (with_reducible refine State.precharged_keeps (hw.of rfl) ?_)
    | (with_reducible refine Keeps.ite ?_ ?_) | (with_reducible refine Keeps.foldl _ (fun _ _ _ => ?_) ?_) | intro _
    | split | dsimp only)

theorem execServiceLinkEnergy_keeps {ps : List Part} {s0 s t : State} (hw : Within [.power] ps) (h : Keeps ps s0 s) 
    (he : execServiceLinkEnergy s = .next t) : Keeps ps s0 t := by
  unfold execServiceLinkEnergy at he
  injection he with he
  subst he
  repeat' (first
    | (with_reducible assumption) | (with_reducible refine State.wakeCause_keeps (hw.of rfl) ?_ _)
    | (with_reducible refine Keeps.ite ?_ ?_) | (with_reducible refine Keeps.foldl _ (fun _ _ _ => ?_) ?_) | intro _
    | split | dsimp only)

theorem execStableHoldupTimeout_keeps {ps : List Part} {s0 s t : State} (hw : Within [.half, .doors, .encoders,
    .quince, .train, .loop, .lsw, .outs, .fcp, .log, .ring, .can, .power, .engines, .service, .config] ps) (h : Keeps
    ps s0 s) 
    (he : execStableHoldupTimeout s = .next t) : Keeps ps s0 t := by
  unfold execStableHoldupTimeout at he
  injection he with he
  subst he
  repeat' (first
    | (with_reducible assumption) | (with_reducible refine State.stableHoldupEnds_keeps (hw.of rfl) ?_)
    | (with_reducible refine Keeps.ite ?_ ?_) | (with_reducible refine Keeps.foldl _ (fun _ _ _ => ?_) ?_) | intro _
    | split | dsimp only)

theorem execStableSample_keeps {ps : List Part} {s0 s t : State} (hw : Within [.free, .doors, .quince, .train, .loop,
    .outs, .fcp, .log, .power, .service] ps) (h : Keeps ps s0 s) (a1 : List (GroupIx × BitVec 16 × Bool))
    (he : execStableSample a1 s = .next t) : Keeps ps s0 t := by
  unfold execStableSample at he
  injection he with he
  subst he
  repeat' (first
    | (with_reducible assumption) | (with_reducible refine State.stableSample_keeps (hw.of rfl) ?_ _)
    | (with_reducible refine Keeps.ite ?_ ?_) | (with_reducible refine Keeps.foldl _ (fun _ _ _ => ?_) ?_) | intro _
    | split | dsimp only)

theorem execSupplyFail_keeps {ps : List Part} {s0 s t : State} (hw : Within [.free, .half, .doors, .encoders, .quince,
    .train, .loop, .lsw, .outs, .fcp, .log, .ring, .can, .power, .engines, .service, .config] ps) (h : Keeps ps s0 s) 
    (he : execSupplyFail s = .next t) : Keeps ps s0 t := by
  unfold execSupplyFail at he
  injection he with he
  subst he
  repeat' (first
    | (with_reducible assumption) | (with_reducible refine State.supplyFails_keeps (hw.of rfl) ?_)
    | (with_reducible refine Keeps.ite ?_ ?_) | (with_reducible refine Keeps.foldl _ (fun _ _ _ => ?_) ?_) | intro _
    | split | dsimp only)

theorem execSupplyReturn_keeps {ps : List Part} {s0 s t : State} (hw : Within [.free, .fcp, .power] ps) (h : Keeps ps
    s0 s) 
    (he : execSupplyReturn s = .next t) : Keeps ps s0 t := by
  unfold execSupplyReturn at he
  injection he with he
  subst he
  repeat' (first
    | (with_reducible assumption) | (with_reducible refine State.supplyReturns_keeps (hw.of rfl) ?_)
    | (with_reducible refine Keeps.ite ?_ ?_) | (with_reducible refine Keeps.foldl _ (fun _ _ _ => ?_) ?_) | intro _
    | split | dsimp only)

theorem execWakeAlarm_keeps {ps : List Part} {s0 s t : State} (hw : Within [.power] ps) (h : Keeps ps s0 s) 
    (he : execWakeAlarm s = .next t) : Keeps ps s0 t := by
  unfold execWakeAlarm at he
  injection he with he
  subst he
  repeat' (first
    | (with_reducible assumption) | (with_reducible refine State.alarm_keeps (hw.of rfl) ?_)
    | (with_reducible refine Keeps.ite ?_ ?_) | (with_reducible refine Keeps.foldl _ (fun _ _ _ => ?_) ?_) | intro _
    | split | dsimp only)

theorem execWakeFromHibernate_keeps {ps : List Part} {s0 s t : State} (hw : Within [.free, .doors, .quince, .loop,
    .outs, .fcp, .log, .can, .power, .engines, .service, .config] ps) (h : Keeps ps s0 s) (a1 : Bool) (a2 : Bool)
    (he : execWakeFromHibernate a1 a2 s = .next t) : Keeps ps s0 t := by
  unfold execWakeFromHibernate at he
  injection he with he
  subst he
  repeat' (first
    | (with_reducible assumption) | (with_reducible refine State.wakesFromHibernate_keeps (hw.of rfl) ?_ _ _)
    | (with_reducible refine Keeps.ite ?_ ?_) | (with_reducible refine Keeps.foldl _ (fun _ _ _ => ?_) ?_) | intro _
    | split | dsimp only)

theorem execWakeFromStable_keeps {ps : List Part} {s0 s t : State} (hw : Within [.free, .doors, .quince, .train, .loop,
    .outs, .fcp, .log, .can, .power, .engines, .service, .config] ps) (h : Keeps ps s0 s) 
    (he : execWakeFromStable s = .next t) : Keeps ps s0 t := by
  unfold execWakeFromStable at he
  injection he with he
  subst he
  repeat' (first
    | (with_reducible assumption) | (with_reducible refine State.wakesFromStable_keeps (hw.of rfl) ?_)
    | (with_reducible refine Keeps.ite ?_ ?_) | (with_reducible refine Keeps.foldl _ (fun _ _ _ => ?_) ?_) | intro _
    | split | dsimp only)

theorem execWatcherSource_keeps {ps : List Part} {s0 s t : State} (hw : Within [.power] ps) (h : Keeps ps s0 s) (a1 :
    Fin 128)
    (he : execWatcherSource a1 s = .next t) : Keeps ps s0 t := by
  unfold execWatcherSource at he
  injection he with he
  subst he
  repeat' (first
    | (with_reducible assumption) | (with_reducible refine State.watcher_keeps (hw.of rfl) ?_ _)
    | (with_reducible refine Keeps.ite ?_ ?_) | (with_reducible refine Keeps.foldl _ (fun _ _ _ => ?_) ?_) | intro _
    | split | dsimp only)

end Sys2Proof.Machine
end

