-- ==== Sys2Proof/Laws/KeepsSessionMeanings.lean ====
section
/-!
SUPPORT. For every operation of Machine/SessionMeanings.lean: the parts of State it may change, and that it keeps the invariant.
-/

set_option linter.unusedVariables false
set_option linter.unusedSimpArgs false

namespace Sys2Proof.Machine

theorem execAbort_keeps {ps : List Part} {s0 s t : State} (hw : Within [.free, .doors, .quince, .loop, .outs, .fcp,
    .log, .ring, .power, .service, .config] ps) (h : Keeps ps s0 s) (a1 : Hdr) (a2 : BitVec 16)
    (he : execAbort a1 a2 s = .next t) : Keeps ps s0 t := by
  unfold execAbort at he
  injection he with he
  subst he
  repeat' (first
    | (with_reducible assumption) | (with_reducible refine State.receive_keeps (hw.of rfl) ?_ _ ?_)
    | (with_reducible refine Req.abort_keeps (hw.of rfl) _ _) | (with_reducible refine Keeps.ite ?_ ?_)
    | (with_reducible refine Keeps.foldl _ (fun _ _ _ => ?_) ?_) | intro _ | split | dsimp only)

theorem execCanRestart_keeps {ps : List Part} {s0 s t : State} (hw : Within [.free, .doors, .quince, .train, .loop,
    .lsw, .outs, .fcp, .log, .ring, .can, .power, .service, .config] ps) (h : Keeps ps s0 s) (a1 : Hdr) (a2 : CanIx)
    (a3 : BitVec 8)
    (he : execCanRestart a1 a2 a3 s = .next t) : Keeps ps s0 t := by
  unfold execCanRestart at he
  injection he with he
  subst he
  repeat' (first
    | (with_reducible assumption) | (with_reducible refine Req.objWrite_keeps (hw.of rfl) _ _ _ _)
    | (with_reducible refine State.receive_keeps (hw.of rfl) ?_ _ ?_) | (with_reducible refine Keeps.ite ?_ ?_)
    | (with_reducible refine Keeps.foldl _ (fun _ _ _ => ?_) ?_) | intro _ | split | dsimp only)

theorem execCfgCommit_keeps {ps : List Part} {s0 s t : State} (hw : Within [.free, .fcp, .ring, .config] ps) (h : Keeps
    ps s0 s) (a1 : Hdr) (a2 : Bool) (a3 : BitVec 64)
    (he : execCfgCommit a1 a2 a3 s = .next t) : Keeps ps s0 t := by
  unfold execCfgCommit at he
  injection he with he
  subst he
  repeat' (first
    | (with_reducible assumption) | (with_reducible refine State.receive_keeps (hw.of rfl) ?_ _ ?_)
    | (with_reducible refine Req.cfgCommit_keeps (hw.of rfl) _ _ _) | (with_reducible refine Keeps.ite ?_ ?_)
    | (with_reducible refine Keeps.foldl _ (fun _ _ _ => ?_) ?_) | intro _ | split | dsimp only)

theorem execCfgCommitCheckOnly_keeps {ps : List Part} {s0 s t : State} (hw : Within [.free, .fcp, .ring, .config] ps)
    (h : Keeps ps s0 s) (a1 : Hdr) (a2 : Bool) (a3 : BitVec 64)
    (he : execCfgCommitCheckOnly a1 a2 a3 s = .next t) : Keeps ps s0 t := by
  unfold execCfgCommitCheckOnly at he
  injection he with he
  subst he
  repeat' (first
    | (with_reducible assumption) | (with_reducible refine State.receive_keeps (hw.of rfl) ?_ _ ?_)
    | (with_reducible refine Req.cfgCommit_keeps (hw.of rfl) _ _ _) | (with_reducible refine Keeps.ite ?_ ?_)
    | (with_reducible refine Keeps.foldl _ (fun _ _ _ => ?_) ?_) | intro _ | split | dsimp only)

theorem execCfgLoadBlock_keeps {ps : List Part} {s0 s t : State} (hw : Within [.free, .fcp, .ring, .config] ps) (h :
    Keeps ps s0 s) (a1 : Hdr) (a2 : BitVec 32) (a3 : BitVec 8) (a4 : List Byte)
    (he : execCfgLoadBlock a1 a2 a3 a4 s = .next t) : Keeps ps s0 t := by
  unfold execCfgLoadBlock at he
  injection he with he
  subst he
  repeat' (first
    | (with_reducible assumption) | (with_reducible refine State.receive_keeps (hw.of rfl) ?_ _ ?_)
    | (with_reducible refine Req.cfgLoadBlock_keeps (hw.of rfl) _ _ _ _) | (with_reducible refine Keeps.ite ?_ ?_)
    | (with_reducible refine Keeps.foldl _ (fun _ _ _ => ?_) ?_) | intro _ | split | dsimp only)

theorem execCfgRead_keeps {ps : List Part} {s0 s t : State} (hw : Within [.free, .fcp, .ring] ps) (h : Keeps ps s0 s)
    (a1 : Hdr) (a2 : BitVec 8) (a3 : BitVec 16) (a4 : BitVec 32)
    (he : execCfgRead a1 a2 a3 a4 s = .next t) : Keeps ps s0 t := by
  unfold execCfgRead at he
  injection he with he
  subst he
  repeat' (first
    | (with_reducible assumption) | (with_reducible refine Req.cfgRead_keeps (hw.of rfl) _ _ _ _)
    | (with_reducible refine State.receive_keeps (hw.of rfl) ?_ _ ?_) | (with_reducible refine Keeps.ite ?_ ?_)
    | (with_reducible refine Keeps.foldl _ (fun _ _ _ => ?_) ?_) | intro _ | split | dsimp only)

theorem execCommandClaim_keeps {ps : List Part} {s0 s t : State} (hw : Within [.free, .fcp, .ring] ps) (h : Keeps ps s0
    s) (a1 : Hdr) (a2 : BitVec 8)
    (he : execCommandClaim a1 a2 s = .next t) : Keeps ps s0 t := by
  unfold execCommandClaim at he
  injection he with he
  subst he
  repeat' (first
    | (with_reducible assumption) | (with_reducible refine State.receive_keeps (hw.of rfl) ?_ _ ?_)
    | (with_reducible refine Req.commandClaim_keeps (hw.of rfl) _ _) | (with_reducible refine Keeps.ite ?_ ?_)
    | (with_reducible refine Keeps.foldl _ (fun _ _ _ => ?_) ?_) | intro _ | split | dsimp only)

theorem execCommandYield_keeps {ps : List Part} {s0 s t : State} (hw : Within [.free, .fcp, .ring] ps) (h : Keeps ps s0
    s) (a1 : Hdr) (a2 : BitVec 8)
    (he : execCommandYield a1 a2 s = .next t) : Keeps ps s0 t := by
  unfold execCommandYield at he
  injection he with he
  subst he
  repeat' (first
    | (with_reducible assumption) | (with_reducible refine State.receive_keeps (hw.of rfl) ?_ _ ?_)
    | (with_reducible refine Req.commandYield_keeps (hw.of rfl) _ _) | (with_reducible refine Keeps.ite ?_ ?_)
    | (with_reducible refine Keeps.foldl _ (fun _ _ _ => ?_) ?_) | intro _ | split | dsimp only)

theorem execDiscrepancyReset_keeps {ps : List Part} {s0 s t : State} (hw : Within [.free, .doors, .quince, .train,
    .loop, .lsw, .outs, .fcp, .log, .ring, .can, .power, .service, .config] ps) (h : Keeps ps s0 s) (a1 : Hdr) (a2 :
    BitVec 8)
    (he : execDiscrepancyReset a1 a2 s = .next t) : Keeps ps s0 t := by
  unfold execDiscrepancyReset at he
  injection he with he
  subst he
  repeat' (first
    | (with_reducible assumption) | (with_reducible refine Req.objWrite_keeps (hw.of rfl) _ _ _ _)
    | (with_reducible refine State.receive_keeps (hw.of rfl) ?_ _ ?_) | (with_reducible refine Keeps.ite ?_ ?_)
    | (with_reducible refine Keeps.foldl _ (fun _ _ _ => ?_) ?_) | intro _ | split | dsimp only)

theorem execEventReplay_keeps {ps : List Part} {s0 s t : State} (hw : Within [.free, .fcp, .ring] ps) (h : Keeps ps s0
    s) (a1 : Hdr) (a2 : BitVec 16) (a3 : BitVec 8)
    (he : execEventReplay a1 a2 a3 s = .next t) : Keeps ps s0 t := by
  unfold execEventReplay at he
  injection he with he
  subst he
  repeat' (first
    | (with_reducible assumption) | (with_reducible refine Req.eventReplay_keeps (hw.of rfl) _ _ _)
    | (with_reducible refine State.receive_keeps (hw.of rfl) ?_ _ ?_) | (with_reducible refine Keeps.ite ?_ ?_)
    | (with_reducible refine Keeps.foldl _ (fun _ _ _ => ?_) ?_) | intro _ | split | dsimp only)

theorem execObjRead_keeps {ps : List Part} {s0 s t : State} (hw : Within [.free, .fcp, .ring] ps) (h : Keeps ps s0 s)
    (a1 : Hdr) (a2 : BitVec 16) (a3 : BitVec 8)
    (he : execObjRead a1 a2 a3 s = .next t) : Keeps ps s0 t := by
  unfold execObjRead at he
  injection he with he
  subst he
  repeat' (first
    | (with_reducible assumption) | (with_reducible refine State.receive_keeps (hw.of rfl) ?_ _ ?_)
    | (with_reducible refine Req.objRead_keeps (hw.of rfl) _ _ _) | (with_reducible refine Keeps.ite ?_ ?_)
    | (with_reducible refine Keeps.foldl _ (fun _ _ _ => ?_) ?_) | intro _ | split | dsimp only)

theorem execObjWrite_keeps {ps : List Part} {s0 s t : State} (hw : Within [.free, .doors, .quince, .train, .loop, .lsw,
    .outs, .fcp, .log, .ring, .can, .power, .service, .config] ps) (h : Keeps ps s0 s) (a1 : Hdr) (a2 : BitVec 16) (a3
    : BitVec 8) (a4 : List Byte)
    (he : execObjWrite a1 a2 a3 a4 s = .next t) : Keeps ps s0 t := by
  unfold execObjWrite at he
  injection he with he
  subst he
  repeat' (first
    | (with_reducible assumption) | (with_reducible refine Req.objWrite_keeps (hw.of rfl) _ _ _ _)
    | (with_reducible refine State.receive_keeps (hw.of rfl) ?_ _ ?_) | (with_reducible refine Keeps.ite ?_ ?_)
    | (with_reducible refine Keeps.foldl _ (fun _ _ _ => ?_) ?_) | intro _ | split | dsimp only)

theorem execResultFetch_keeps {ps : List Part} {s0 s t : State} (hw : Within [.free, .fcp, .ring] ps) (h : Keeps ps s0
    s) (a1 : Hdr) (a2 : BitVec 16)
    (he : execResultFetch a1 a2 s = .next t) : Keeps ps s0 t := by
  unfold execResultFetch at he
  injection he with he
  subst he
  repeat' (first
    | (with_reducible assumption) | (with_reducible refine Req.resultFetch_keeps (hw.of rfl) _ _)
    | (with_reducible refine State.receive_keeps (hw.of rfl) ?_ _ ?_) | (with_reducible refine Keeps.ite ?_ ?_)
    | (with_reducible refine Keeps.foldl _ (fun _ _ _ => ?_) ?_) | intro _ | split | dsimp only)

theorem execRoleSelect_keeps {ps : List Part} {s0 s t : State} (hw : Within [.free, .doors, .quince, .train, .loop,
    .lsw, .outs, .fcp, .log, .ring, .can, .power, .service, .config] ps) (h : Keeps ps s0 s) (a1 : Hdr) (a2 : DriveIx)
    (a3 : BitVec 16)
    (he : execRoleSelect a1 a2 a3 s = .next t) : Keeps ps s0 t := by
  unfold execRoleSelect at he
  injection he with he
  subst he
  repeat' (first
    | (with_reducible assumption) | (with_reducible refine Req.objWrite_keeps (hw.of rfl) _ _ _ _)
    | (with_reducible refine State.receive_keeps (hw.of rfl) ?_ _ ?_) | (with_reducible refine Keeps.ite ?_ ?_)
    | (with_reducible refine Keeps.foldl _ (fun _ _ _ => ?_) ?_) | intro _ | split | dsimp only)

theorem execSessionAuth_keeps {ps : List Part} {s0 s t : State} (hw : Within [.free, .fcp, .ring] ps) (h : Keeps ps s0
    s) (a1 : Hdr) (a2 : List Byte)
    (he : execSessionAuth a1 a2 s = .next t) : Keeps ps s0 t := by
  unfold execSessionAuth at he
  injection he with he
  subst he
  repeat' (first
    | (with_reducible assumption) | (with_reducible refine State.receive_keeps (hw.of rfl) ?_ _ ?_)
    | (with_reducible refine Req.sessionAuth_keeps (hw.of rfl) _ _) | (with_reducible refine Keeps.ite ?_ ?_)
    | (with_reducible refine Keeps.foldl _ (fun _ _ _ => ?_) ?_) | intro _ | split | dsimp only)

theorem execSessionClose_keeps {ps : List Part} {s0 s t : State} (hw : Within [.free, .fcp, .ring, .service, .config]
    ps) (h : Keeps ps s0 s) (a1 : Hdr)
    (he : execSessionClose a1 s = .next t) : Keeps ps s0 t := by
  unfold execSessionClose at he
  injection he with he
  subst he
  repeat' (first
    | (with_reducible assumption) | (with_reducible refine State.receive_keeps (hw.of rfl) ?_ _ ?_)
    | (with_reducible refine Req.sessionClose_keeps (hw.of rfl) _) | (with_reducible refine Keeps.ite ?_ ?_)
    | (with_reducible refine Keeps.foldl _ (fun _ _ _ => ?_) ?_) | intro _ | split | dsimp only)

theorem execSessionKey_keeps {ps : List Part} {s0 s t : State} (hw : Within [.free, .doors, .quince, .train, .loop,
    .lsw, .outs, .fcp, .log, .ring, .can, .power, .service, .config] ps) (h : Keeps ps s0 s) (a1 : Hdr) (a2 : Fin 5)
    (a3 : List Byte)
    (he : execSessionKey a1 a2 a3 s = .next t) : Keeps ps s0 t := by
  unfold execSessionKey at he
  injection he with he
  subst he
  repeat' (first
    | (with_reducible assumption) | (with_reducible refine Req.objWrite_keeps (hw.of rfl) _ _ _ _)
    | (with_reducible refine State.receive_keeps (hw.of rfl) ?_ _ ?_) | (with_reducible refine Keeps.ite ?_ ?_)
    | (with_reducible refine Keeps.foldl _ (fun _ _ _ => ?_) ?_) | intro _ | split | dsimp only)

theorem execSessionOpen_keeps {ps : List Part} {s0 s t : State} (hw : Within [.free, .fcp, .ring] ps) (h : Keeps ps s0
    s) (a1 : Hdr) (a2 : BitVec 16) (a3 : BitVec 16) (a4 : BitVec 64)
    (he : execSessionOpen a1 a2 a3 a4 s = .next t) : Keeps ps s0 t := by
  unfold execSessionOpen at he
  injection he with he
  subst he
  repeat' (first
    | (with_reducible assumption) | (with_reducible refine State.receive_keeps (hw.of rfl) ?_ _ ?_)
    | (with_reducible refine Req.sessionOpen_keeps (hw.of rfl) _ _ _ _) | (with_reducible refine Keeps.ite ?_ ?_)
    | (with_reducible refine Keeps.foldl _ (fun _ _ _ => ?_) ?_) | intro _ | split | dsimp only)

theorem execSessionState_keeps {ps : List Part} {s0 s t : State} (hw : Within [.free, .fcp, .ring] ps) (h : Keeps ps s0
    s) (a1 : Hdr)
    (he : execSessionState a1 s = .next t) : Keeps ps s0 t := by
  unfold execSessionState at he
  injection he with he
  subst he
  repeat' (first
    | (with_reducible assumption) | (with_reducible refine State.receive_keeps (hw.of rfl) ?_ _ ?_)
    | (with_reducible refine Req.sessionState_keeps (hw.of rfl) _) | (with_reducible refine Keeps.ite ?_ ?_)
    | (with_reducible refine Keeps.foldl _ (fun _ _ _ => ?_) ?_) | intro _ | split | dsimp only)

end Sys2Proof.Machine
end

