-- ==== Sys2Proof/Laws/KeepsTransportMeanings.lean ====
section
/-!
SUPPORT. For every operation of Machine/TransportMeanings.lean: the parts of State it may change, and that it keeps the invariant.
-/

set_option linter.unusedVariables false
set_option linter.unusedSimpArgs false

namespace Sys2Proof.Machine

theorem execAuthLockEnd_keeps {ps : List Part} {s0 s t : State} (hw : Within [.fcp] ps) (h : Keeps ps s0 s) (a1 : SessIx)
    (he : execAuthLockEnd a1 s = .next t) : Keeps ps s0 t := by
  unfold execAuthLockEnd at he
  injection he with he
  subst he
  repeat' (first
    | (with_reducible assumption) | (with_reducible refine State.authLockEnds_keeps (hw.of rfl) ?_ _)
    | (with_reducible refine Keeps.ite ?_ ?_) | (with_reducible refine Keeps.foldl _ (fun _ _ _ => ?_) ?_) | intro _
    | split | dsimp only)

theorem execAutoResume_keeps {ps : List Part} {s0 s t : State} (hw : Within [.free, .doors, .quince, .loop, .outs,
    .fcp, .log, .service] ps) (h : Keeps ps s0 s) (a1 : DoorIx)
    (he : execAutoResume a1 s = .next t) : Keeps ps s0 t := by
  unfold execAutoResume at he
  injection he with he
  subst he
  repeat' (first
    | (with_reducible assumption) | (with_reducible refine State.autoResumes_keeps (hw.of rfl) ?_ _)
    | (with_reducible refine Keeps.ite ?_ ?_) | (with_reducible refine Keeps.foldl _ (fun _ _ _ => ?_) ?_) | intro _
    | split | dsimp only)

theorem execCanPartialTimeout_keeps {ps : List Part} {s0 s t : State} (hw : Within [.fcp] ps) (h : Keeps ps s0 s) (a1 :
    SessIx)
    (he : execCanPartialTimeout a1 s = .next t) : Keeps ps s0 t := by
  unfold execCanPartialTimeout at he
  injection he with he
  subst he
  repeat' (first
    | (with_reducible assumption) | (with_reducible refine State.partialTimeout_keeps (hw.of rfl) ?_ _)
    | (with_reducible refine Keeps.ite ?_ ?_) | (with_reducible refine Keeps.foldl _ (fun _ _ _ => ?_) ?_) | intro _
    | split | dsimp only)

theorem execCommsUpdate_keeps {ps : List Part} {s0 s t : State} (hw : Within [.fcp, .engines, .service] ps) (h : Keeps
    ps s0 s) 
    (he : execCommsUpdate s = .next t) : Keeps ps s0 t := by
  unfold execCommsUpdate at he
  injection he with he
  subst he
  repeat' (first
    | (with_reducible assumption) | (with_reducible refine State.commsUpdate_keeps (hw.of rfl) ?_)
    | (with_reducible refine Keeps.ite ?_ ?_) | (with_reducible refine Keeps.foldl _ (fun _ _ _ => ?_) ?_) | intro _
    | split | dsimp only)

theorem execCommsUpdateDone_keeps {ps : List Part} {s0 s t : State} (hw : Within [.fcp, .engines, .service] ps) (h :
    Keeps ps s0 s) (a1 : Bool)
    (he : execCommsUpdateDone a1 s = .next t) : Keeps ps s0 t := by
  unfold execCommsUpdateDone at he
  injection he with he
  subst he
  repeat' (first
    | (with_reducible assumption) | (with_reducible refine State.commsUpdateDone_keeps (hw.of rfl) ?_ _)
    | (with_reducible refine Keeps.ite ?_ ?_) | (with_reducible refine Keeps.foldl _ (fun _ _ _ => ?_) ?_) | intro _
    | split | dsimp only)

theorem execLeafEngineUpdate_keeps {ps : List Part} {s0 s t : State} (hw : Within [.free, .doors, .quince, .loop,
    .outs, .fcp, .log, .engines, .service] ps) (h : Keeps ps s0 s) (a1 : DoorIx)
    (he : execLeafEngineUpdate a1 s = .next t) : Keeps ps s0 t := by
  unfold execLeafEngineUpdate at he
  injection he with he
  subst he
  repeat' (first
    | (with_reducible assumption) | (with_reducible refine State.leafUpdate_keeps (hw.of rfl) ?_ _)
    | (with_reducible refine Keeps.ite ?_ ?_) | (with_reducible refine Keeps.foldl _ (fun _ _ _ => ?_) ?_) | intro _
    | split | dsimp only)

theorem execLeafEngineUpdateDone_keeps {ps : List Part} {s0 s t : State} (hw : Within [.free, .doors, .quince, .loop,
    .outs, .fcp, .log, .engines, .service] ps) (h : Keeps ps s0 s) (a1 : DoorIx) (a2 : Bool)
    (he : execLeafEngineUpdateDone a1 a2 s = .next t) : Keeps ps s0 t := by
  unfold execLeafEngineUpdateDone at he
  injection he with he
  subst he
  repeat' (first
    | (with_reducible assumption) | (with_reducible refine State.leafUpdateDone_keeps (hw.of rfl) ?_ _ _)
    | (with_reducible refine Keeps.ite ?_ ?_) | (with_reducible refine Keeps.foldl _ (fun _ _ _ => ?_) ?_) | intro _
    | split | dsimp only)

theorem execResultDiscardTimeout_keeps {ps : List Part} {s0 s t : State} (hw : Within [.fcp] ps) (h : Keeps ps s0 s)
    (a1 : BitVec 16)
    (he : execResultDiscardTimeout a1 s = .next t) : Keeps ps s0 t := by
  unfold execResultDiscardTimeout at he
  injection he with he
  subst he
  repeat' (first
    | (with_reducible assumption) | (with_reducible refine State.discardResult_keeps (hw.of rfl) ?_ _ _)
    | (with_reducible refine Keeps.ite ?_ ?_) | (with_reducible refine Keeps.foldl _ (fun _ _ _ => ?_) ?_) | intro _
    | split | dsimp only)

theorem execResultHoldEnd_keeps {ps : List Part} {s0 s t : State} (hw : Within [.fcp] ps) (h : Keeps ps s0 s) (a1 :
    BitVec 16)
    (he : execResultHoldEnd a1 s = .next t) : Keeps ps s0 t := by
  unfold execResultHoldEnd at he
  injection he with he
  subst he
  repeat' (first
    | (with_reducible assumption) | (with_reducible refine State.discardResult_keeps (hw.of rfl) ?_ _ _)
    | (with_reducible refine Keeps.ite ?_ ?_) | (with_reducible refine Keeps.foldl _ (fun _ _ _ => ?_) ?_) | intro _
    | split | dsimp only)

theorem execSafePointFound_keeps {ps : List Part} {s0 s t : State} (hw : Within [.free, .half, .doors, .encoders,
    .quince, .train, .loop, .lsw, .outs, .fcp, .log, .ring, .can, .power, .engines, .service, .config] ps) (h : Keeps
    ps s0 s) 
    (he : execSafePointFound s = .next t) : Keeps ps s0 t := by
  unfold execSafePointFound at he
  injection he with he
  subst he
  repeat' (first
    | (with_reducible assumption) | (with_reducible refine State.safePoint_keeps (hw.of rfl) ?_)
    | (with_reducible refine Keeps.ite ?_ ?_) | (with_reducible refine Keeps.foldl _ (fun _ _ _ => ?_) ?_) | intro _
    | split | dsimp only)

theorem execSafePointTimeout_keeps {ps : List Part} {s0 s t : State} (hw : Within [.fcp, .config] ps) (h : Keeps ps s0 s) 
    (he : execSafePointTimeout s = .next t) : Keeps ps s0 t := by
  unfold execSafePointTimeout at he
  injection he with he
  subst he
  repeat' (first
    | (with_reducible assumption) | (with_reducible refine State.safePointTimeout_keeps (hw.of rfl) ?_)
    | (with_reducible refine Keeps.ite ?_ ?_) | (with_reducible refine Keeps.foldl _ (fun _ _ _ => ?_) ?_) | intro _
    | split | dsimp only)

theorem execSelftestComplete_keeps {ps : List Part} {s0 s t : State} (hw : Within [.free, .doors, .quince, .loop,
    .outs, .fcp, .log, .power, .service] ps) (h : Keeps ps s0 s) (a1 : BitVec 16) (a2 : List (Fin 4 × Fin 14)) (a3 :
    BitVec 16)
    (he : execSelftestComplete a1 a2 a3 s = .next t) : Keeps ps s0 t := by
  unfold execSelftestComplete at he
  injection he with he
  subst he
  repeat' (first
    | (with_reducible assumption) | (with_reducible refine State.selftestEnds_keeps (hw.of rfl) ?_ _ _ _)
    | (with_reducible refine Keeps.ite ?_ ?_) | (with_reducible refine Keeps.foldl _ (fun _ _ _ => ?_) ?_) | intro _
    | split | dsimp only)

theorem execServiceDatagramReceived_keeps {ps : List Part} {s0 s t : State} (hw : Within [.free, .doors, .quince,
    .train, .loop, .lsw, .outs, .fcp, .log, .ring, .can, .power, .engines, .service, .config] ps) (h : Keeps ps s0 s)
    (a1 : BitVec 48) (a2 : List Byte)
    (he : execServiceDatagramReceived a1 a2 s = .next t) : Keeps ps s0 t := by
  unfold execServiceDatagramReceived at he
  injection he with he
  subst he
  repeat' (first
    | (with_reducible assumption) | (with_reducible refine State.packet_keeps (hw.of rfl) ?_ _ _ _ _)
    | (with_reducible refine Keeps.ite ?_ ?_) | (with_reducible refine Keeps.foldl _ (fun _ _ _ => ?_) ?_) | intro _
    | split | dsimp only)

theorem execSessionExpiryTimeout_keeps {ps : List Part} {s0 s t : State} (hw : Within [.fcp, .service, .config] ps) (h
    : Keeps ps s0 s) (a1 : SessIx)
    (he : execSessionExpiryTimeout a1 s = .next t) : Keeps ps s0 t := by
  unfold execSessionExpiryTimeout at he
  injection he with he
  subst he
  repeat' (first
    | (with_reducible assumption) | (with_reducible refine State.sessionExpires_keeps (hw.of rfl) ?_ _)
    | (with_reducible refine Keeps.ite ?_ ?_) | (with_reducible refine Keeps.foldl _ (fun _ _ _ => ?_) ?_) | intro _
    | split | dsimp only)

theorem execSessionSilentTimeout_keeps {ps : List Part} {s0 s t : State} (hw : Within [.fcp] ps) (h : Keeps ps s0 s)
    (a1 : SessIx)
    (he : execSessionSilentTimeout a1 s = .next t) : Keeps ps s0 t := by
  unfold execSessionSilentTimeout at he
  injection he with he
  subst he
  repeat' (first
    | (with_reducible assumption) | (with_reducible refine State.sessionSilent_keeps (hw.of rfl) ?_ _)
    | (with_reducible refine Keeps.ite ?_ ?_) | (with_reducible refine Keeps.foldl _ (fun _ _ _ => ?_) ?_) | intro _
    | split | dsimp only)

theorem execSubstitutionComplete_keeps {ps : List Part} {s0 s t : State} (hw : Within [.free, .doors, .quince, .loop,
    .outs, .fcp, .log, .service] ps) (h : Keeps ps s0 s) (a1 : Fin 4) (a2 : Bool)
    (he : execSubstitutionComplete a1 a2 s = .next t) : Keeps ps s0 t := by
  unfold execSubstitutionComplete at he
  injection he with he
  subst he
  repeat' (first
    | (with_reducible assumption) | (with_reducible refine State.subEnds_keeps (hw.of rfl) ?_ _ _)
    | (with_reducible refine Keeps.ite ?_ ?_) | (with_reducible refine Keeps.foldl _ (fun _ _ _ => ?_) ?_) | intro _
    | split | dsimp only)

theorem execSupvUpdate_keeps {ps : List Part} {s0 s t : State} (hw : Within [.free, .doors, .quince, .train, .loop,
    .lsw, .outs, .fcp, .log, .engines, .service] ps) (h : Keeps ps s0 s) 
    (he : execSupvUpdate s = .next t) : Keeps ps s0 t := by
  unfold execSupvUpdate at he
  injection he with he
  subst he
  repeat' (first
    | (with_reducible assumption) | (with_reducible refine State.supvUpdate_keeps (hw.of rfl) ?_)
    | (with_reducible refine Keeps.ite ?_ ?_) | (with_reducible refine Keeps.foldl _ (fun _ _ _ => ?_) ?_) | intro _
    | split | dsimp only)

theorem execSupvUpdateDone_keeps {ps : List Part} {s0 s t : State} (hw : Within [.free, .doors, .quince, .train, .loop,
    .outs, .fcp, .log, .engines, .service] ps) (h : Keeps ps s0 s) (a1 : Bool)
    (he : execSupvUpdateDone a1 s = .next t) : Keeps ps s0 t := by
  unfold execSupvUpdateDone at he
  injection he with he
  subst he
  repeat' (first
    | (with_reducible assumption) | (with_reducible refine State.supvUpdateDone_keeps (hw.of rfl) ?_ _)
    | (with_reducible refine Keeps.ite ?_ ?_) | (with_reducible refine Keeps.foldl _ (fun _ _ _ => ?_) ?_) | intro _
    | split | dsimp only)

theorem execTxQueueSend_keeps {ps : List Part} {s0 s t : State} (hw : Within [.fcp, .ring, .can] ps) (h : Keeps ps s0
    s) (a1 : SessIx)
    (he : execTxQueueSend a1 s = .next t) : Keeps ps s0 t := by
  unfold execTxQueueSend at he
  injection he with he
  subst he
  repeat' (first
    | (with_reducible assumption) | (with_reducible refine State.sendPacket_keeps (hw.of rfl) ?_ _)
    | (with_reducible refine Keeps.ite ?_ ?_) | (with_reducible refine Keeps.foldl _ (fun _ _ _ => ?_) ?_) | intro _
    | split | dsimp only)

theorem execUpdateWaitTimeout_keeps {ps : List Part} {s0 s t : State} (hw : Within [.fcp, .service] ps) (h : Keeps ps
    s0 s) 
    (he : execUpdateWaitTimeout s = .next t) : Keeps ps s0 t := by
  unfold execUpdateWaitTimeout at he
  injection he with he
  subst he
  repeat' (first
    | (with_reducible assumption) | (with_reducible refine State.updateWaitEnds_keeps (hw.of rfl) ?_)
    | (with_reducible refine Keeps.ite ?_ ?_) | (with_reducible refine Keeps.foldl _ (fun _ _ _ => ?_) ?_) | intro _
    | split | dsimp only)

end Sys2Proof.Machine
end

