-- ==== Sys2Proof/Laws/Exec.lean ====
section
/-!
SUPPORT. What every command and every step may change, and that each keeps the invariant.
-/

namespace Sys2Proof.Machine

/-- A command changes only what it touches, and keeps the invariant. -/
theorem exec_keeps : ∀ {c : Instr} {s t : State}, exec c s = .next t → Keeps (touches c) s t
  | .powerUp .., _, _, h => execPowerUp_keeps (Within.refl _) (Keeps.refl _ _) _ _ _ h
  | .cartridgeInserted .., _, _, h => execCartridgeInserted_keeps (Within.refl _) (Keeps.refl _ _) _ _ _ h
  | .cartridgeMeasure .., _, _, h => execCartridgeMeasure_keeps (Within.refl _) (Keeps.refl _ _) _ _ h
  | .powerEnterStable .., _, _, h => execPowerEnterStable_keeps (Within.refl _) (Keeps.refl _ _) _ _ h
  | .powerEnterHibernate .., _, _, h => execPowerEnterHibernate_keeps (Within.refl _) (Keeps.refl _ _) _ _ h
  | .powerEntryFailed .., _, _, h => execPowerEntryFailed_keeps (Within.refl _) (Keeps.refl _ _) _ h
  | .wakeFromHibernate .., _, _, h => execWakeFromHibernate_keeps (Within.refl _) (Keeps.refl _ _) _ _ h
  | .stableSample .., _, _, h => execStableSample_keeps (Within.refl _) (Keeps.refl _ _) _ h
  | .watcherSource .., _, _, h => execWatcherSource_keeps (Within.refl _) (Keeps.refl _ _) _ h
  | .canWakePattern .., _, _, h => execCanWakePattern_keeps (Within.refl _) (Keeps.refl _ _) _ h
  | .leafWatchdogExpiry .., _, _, h => execLeafWatchdogExpiry_keeps (Within.refl _) (Keeps.refl _ _) _ h
  | .leafEngineRestart .., _, _, h => execLeafEngineRestart_keeps (Within.refl _) (Keeps.refl _ _) _ h
  | .appTimerExpiry .., _, _, h => execAppTimerExpiry_keeps (Within.refl _) (Keeps.refl _ _) _ h
  | .tmrWdKick .., _, _, h => execTmrWdKick_keeps (Within.refl _) (Keeps.refl _ _) _ h
  | .tmrCtrlWrite .., _, _, h => execTmrCtrlWrite_keeps (Within.refl _) (Keeps.refl _ _) _ _ h
  | .mbxPost .., _, _, h => execMbxPost_keeps (Within.refl _) (Keeps.refl _ _) _ h
  | .mbxAck .., _, _, h => execMbxAck_keeps (Within.refl _) (Keeps.refl _ _) _ h
  | .canTxreqWrite .., _, _, h => execCanTxreqWrite_keeps (Within.refl _) (Keeps.refl _ _) _ h
  | .canTxabortWrite .., _, _, h => execCanTxabortWrite_keeps (Within.refl _) (Keeps.refl _ _) _ h
  | .canRxqPop .., _, _, h => execCanRxqPop_keeps (Within.refl _) (Keeps.refl _ _) _ h
  | .canObjDataWrite .., _, _, h => execCanObjDataWrite_keeps (Within.refl _) (Keeps.refl _ _) _ _ h
  | .intcCompleteWrite .., _, _, h => execIntcCompleteWrite_keeps (Within.refl _) (Keeps.refl _ _) _ _ h
  | .intcCtrlWrite .., _, _, h => execIntcCtrlWrite_keeps (Within.refl _) (Keeps.refl _ _) _ _ h
  | .interruptDelivery .., _, _, h => execInterruptDelivery_keeps (Within.refl _) (Keeps.refl _ _) _ _ _ h
  | .outOfRightsAccess .., _, _, h => execOutOfRightsAccess_keeps (Within.refl _) (Keeps.refl _ _) _ h
  | .registerWrite .., _, _, h => execRegisterWrite_keeps (Within.refl _) (Keeps.refl _ _) _ _ _ h
  | .canPartialTimeout .., _, _, h => execCanPartialTimeout_keeps (Within.refl _) (Keeps.refl _ _) _ h
  | .serviceDatagramReceived .., _, _, h => execServiceDatagramReceived_keeps (Within.refl _) (Keeps.refl _ _) _ _ h
  | .txQueueSend .., _, _, h => execTxQueueSend_keeps (Within.refl _) (Keeps.refl _ _) _ h
  | .sessionSilentTimeout .., _, _, h => execSessionSilentTimeout_keeps (Within.refl _) (Keeps.refl _ _) _ h
  | .sessionExpiryTimeout .., _, _, h => execSessionExpiryTimeout_keeps (Within.refl _) (Keeps.refl _ _) _ h
  | .resultHoldEnd .., _, _, h => execResultHoldEnd_keeps (Within.refl _) (Keeps.refl _ _) _ h
  | .resultDiscardTimeout .., _, _, h => execResultDiscardTimeout_keeps (Within.refl _) (Keeps.refl _ _) _ h
  | .authLockEnd .., _, _, h => execAuthLockEnd_keeps (Within.refl _) (Keeps.refl _ _) _ h
  | .sessionOpen .., _, _, h => execSessionOpen_keeps (Within.refl _) (Keeps.refl _ _) _ _ _ _ h
  | .sessionClose .., _, _, h => execSessionClose_keeps (Within.refl _) (Keeps.refl _ _) _ h
  | .sessionState .., _, _, h => execSessionState_keeps (Within.refl _) (Keeps.refl _ _) _ h
  | .sessionAuth .., _, _, h => execSessionAuth_keeps (Within.refl _) (Keeps.refl _ _) _ _ h
  | .resultFetch .., _, _, h => execResultFetch_keeps (Within.refl _) (Keeps.refl _ _) _ _ h
  | .abort .., _, _, h => execAbort_keeps (Within.refl _) (Keeps.refl _ _) _ _ h
  | .eventReplay .., _, _, h => execEventReplay_keeps (Within.refl _) (Keeps.refl _ _) _ _ _ h
  | .commandClaim .., _, _, h => execCommandClaim_keeps (Within.refl _) (Keeps.refl _ _) _ _ h
  | .commandYield .., _, _, h => execCommandYield_keeps (Within.refl _) (Keeps.refl _ _) _ _ h
  | .cfgLoadBlock .., _, _, h => execCfgLoadBlock_keeps (Within.refl _) (Keeps.refl _ _) _ _ _ _ h
  | .cfgCommit .., _, _, h => execCfgCommit_keeps (Within.refl _) (Keeps.refl _ _) _ _ _ h
  | .cfgCommitCheckOnly .., _, _, h => execCfgCommitCheckOnly_keeps (Within.refl _) (Keeps.refl _ _) _ _ _ h
  | .cfgRead .., _, _, h => execCfgRead_keeps (Within.refl _) (Keeps.refl _ _) _ _ _ _ h
  | .objRead .., _, _, h => execObjRead_keeps (Within.refl _) (Keeps.refl _ _) _ _ _ h
  | .objWrite .., _, _, h => execObjWrite_keeps (Within.refl _) (Keeps.refl _ _) _ _ _ _ h
  | .discrepancyReset .., _, _, h => execDiscrepancyReset_keeps (Within.refl _) (Keeps.refl _ _) _ _ h
  | .roleSelect .., _, _, h => execRoleSelect_keeps (Within.refl _) (Keeps.refl _ _) _ _ _ h
  | .sessionKey .., _, _, h => execSessionKey_keeps (Within.refl _) (Keeps.refl _ _) _ _ _ h
  | .canRestart .., _, _, h => execCanRestart_keeps (Within.refl _) (Keeps.refl _ _) _ _ _ h
  | .doorCommandOpen .., _, _, h => execDoorCommandOpen_keeps (Within.refl _) (Keeps.refl _ _) _ _ h
  | .doorCommandClose .., _, _, h => execDoorCommandClose_keeps (Within.refl _) (Keeps.refl _ _) _ _ h
  | .doorCommandStop .., _, _, h => execDoorCommandStop_keeps (Within.refl _) (Keeps.refl _ _) _ _ h
  | .doorCommandResume .., _, _, h => execDoorCommandResume_keeps (Within.refl _) (Keeps.refl _ _) _ _ h
  | .doorCommandReset .., _, _, h => execDoorCommandReset_keeps (Within.refl _) (Keeps.refl _ _) _ _ h
  | .doorStatus .., _, _, h => execDoorStatus_keeps (Within.refl _) (Keeps.refl _ _) _ _ _ h
  | .doorIsolateSet .., _, _, h => execDoorIsolateSet_keeps (Within.refl _) (Keeps.refl _ _) _ _ h
  | .doorIsolateClear .., _, _, h => execDoorIsolateClear_keeps (Within.refl _) (Keeps.refl _ _) _ _ h
  | .doorTestCycle .., _, _, h => execDoorTestCycle_keeps (Within.refl _) (Keeps.refl _ _) _ _ _ h
  | .envelopeLearn .., _, _, h => execEnvelopeLearn_keeps (Within.refl _) (Keeps.refl _ _) _ _ h
  | .moveTo .., _, _, h => execMoveTo_keeps (Within.refl _) (Keeps.refl _ _) _ _ _ _ _ h
  | .moveStop .., _, _, h => execMoveStop_keeps (Within.refl _) (Keeps.refl _ _) _ _ _ h
  | .moveResume .., _, _, h => execMoveResume_keeps (Within.refl _) (Keeps.refl _ _) _ _ h
  | .profileWrite .., _, _, h => execProfileWrite_keeps (Within.refl _) (Keeps.refl _ _) _ _ _ h
  | .compareSet .., _, _, h => execCompareSet_keeps (Within.refl _) (Keeps.refl _ _) _ _ _ _ _ _ _ h
  | .homeStepHome .., _, _, h => execHomeStepHome_keeps (Within.refl _) (Keeps.refl _ _) _ _ h
  | .homeStepMeasure .., _, _, h => execHomeStepMeasure_keeps (Within.refl _) (Keeps.refl _ _) _ _ h
  | .switchSetOff .., _, _, h => execSwitchSetOff_keeps (Within.refl _) (Keeps.refl _ _) _ _ h
  | .switchSetOn .., _, _, h => execSwitchSetOn_keeps (Within.refl _) (Keeps.refl _ _) _ _ h
  | .switchSetKeepWarm .., _, _, h => execSwitchSetKeepWarm_keeps (Within.refl _) (Keeps.refl _ _) _ _ h
  | .switchSetReturn .., _, _, h => execSwitchSetReturn_keeps (Within.refl _) (Keeps.refl _ _) _ _ h
  | .switchStatus .., _, _, h => execSwitchStatus_keeps (Within.refl _) (Keeps.refl _ _) _ _ h
  | .faultClear .., _, _, h => execFaultClear_keeps (Within.refl _) (Keeps.refl _ _) _ _ h
  | .ioRead .., _, _, h => execIoRead_keeps (Within.refl _) (Keeps.refl _ _) _ _ h
  | .outputSet .., _, _, h => execOutputSet_keeps (Within.refl _) (Keeps.refl _ _) _ _ _ h
  | .logDrain .., _, _, h => execLogDrain_keeps (Within.refl _) (Keeps.refl _ _) _ _ _ h
  | .logAck .., _, _, h => execLogAck_keeps (Within.refl _) (Keeps.refl _ _) _ _ h
  | .incidentRead .., _, _, h => execIncidentRead_keeps (Within.refl _) (Keeps.refl _ _) _ _ _ h
  | .logStatus .., _, _, h => execLogStatus_keeps (Within.refl _) (Keeps.refl _ _) _ _ h
  | .incidentErase .., _, _, h => execIncidentErase_keeps (Within.refl _) (Keeps.refl _ _) _ _ _ h
  | .powerStatus .., _, _, h => execPowerStatus_keeps (Within.refl _) (Keeps.refl _ _) _ h
  | .powerAccounts .., _, _, h => execPowerAccounts_keeps (Within.refl _) (Keeps.refl _ _) _ h
  | .fwStage .., _, _, h => execFwStage_keeps (Within.refl _) (Keeps.refl _ _) _ _ _ _ h
  | .fwActivateLive .., _, _, h => execFwActivateLive_keeps (Within.refl _) (Keeps.refl _ _) _ _ h
  | .fwActivateRestart .., _, _, h => execFwActivateRestart_keeps (Within.refl _) (Keeps.refl _ _) _ _ h
  | .leafEngineUpdate .., _, _, h => execLeafEngineUpdate_keeps (Within.refl _) (Keeps.refl _ _) _ h
  | .leafEngineUpdateDone .., _, _, h => execLeafEngineUpdateDone_keeps (Within.refl _) (Keeps.refl _ _) _ _ h
  | .supvUpdateDone .., _, _, h => execSupvUpdateDone_keeps (Within.refl _) (Keeps.refl _ _) _ h
  | .commsUpdateDone .., _, _, h => execCommsUpdateDone_keeps (Within.refl _) (Keeps.refl _ _) _ h
  | .selftest .., _, _, h => execSelftest_keeps (Within.refl _) (Keeps.refl _ _) _ _ _ h
  | .legSubstitute .., _, _, h => execLegSubstitute_keeps (Within.refl _) (Keeps.refl _ _) _ _ _ h
  | .identity .., _, _, h => execIdentity_keeps (Within.refl _) (Keeps.refl _ _) _ h
  | .ringStatus .., _, _, h => execRingStatus_keeps (Within.refl _) (Keeps.refl _ _) _ h
  | .consistView .., _, _, h => execConsistView_keeps (Within.refl _) (Keeps.refl _ _) _ _ h
  | .schedLoad .., _, _, h => execSchedLoad_keeps (Within.refl _) (Keeps.refl _ _) _ _ _ h
  | .scheduleSwap .., _, _, h => execScheduleSwap_keeps (Within.refl _) (Keeps.refl _ _) _ h
  | .canStatus .., _, _, h => execCanStatus_keeps (Within.refl _) (Keeps.refl _ _) _ _ h
  | .appLoad .., _, _, h => execAppLoad_keeps (Within.refl _) (Keeps.refl _ _) _ _ _ _ h
  | .appControlStop .., _, _, h => execAppControlStop_keeps (Within.refl _) (Keeps.refl _ _) _ h
  | .appControlStart .., _, _, h => execAppControlStart_keeps (Within.refl _) (Keeps.refl _ _) _ h
  | .appControlRestart .., _, _, h => execAppControlRestart_keeps (Within.refl _) (Keeps.refl _ _) _ h
  | .openPushbutton .., _, _, h => execOpenPushbutton_keeps (Within.refl _) (Keeps.refl _ _) _ _ _ h
  | .closePushbutton .., _, _, h => execClosePushbutton_keeps (Within.refl _) (Keeps.refl _ _) _ _ h
  | .tlCloseChange .., _, _, h => execTlCloseChange_keeps (Within.refl _) (Keeps.refl _ _) _ h
  | .trainlineInputChange .., _, _, h => execTrainlineInputChange_keeps (Within.refl _) (Keeps.refl _ _) _ _ h
  | .relSettleExpiry .., _, _, h => execRelSettleExpiry_keeps (Within.refl _) (Keeps.refl _ _) _ h
  | .cabInputChange .., _, _, h => execCabInputChange_keeps (Within.refl _) (Keeps.refl _ _) _ _ h
  | .disMake .., _, _, h => execDisMake_keeps (Within.refl _) (Keeps.refl _ _) _ h
  | .disBreak .., _, _, h => execDisBreak_keeps (Within.refl _) (Keeps.refl _ _) _ h
  | .egressActive .., _, _, h => execEgressActive_keeps (Within.refl _) (Keeps.refl _ _) _ _ h
  | .egressInactive .., _, _, h => execEgressInactive_keeps (Within.refl _) (Keeps.refl _ _) _ h
  | .uncommandedUnlock .., _, _, h => execUncommandedUnlock_keeps (Within.refl _) (Keeps.refl _ _) _ _ h
  | .plausibilityTimeout .., _, _, h => execPlausibilityTimeout_keeps (Within.refl _) (Keeps.refl _ _) _ _ h
  | .dcsPositionImplausible .., _, _, h => execDcsPositionImplausible_keeps (Within.refl _) (Keeps.refl _ _) _ h
  | .inputGroupFault .., _, _, h => execInputGroupFault_keeps (Within.refl _) (Keeps.refl _ _) _ h
  | .inputGroupFaultClear .., _, _, h => execInputGroupFaultClear_keeps (Within.refl _) (Keeps.refl _ _) _ h
  | .faultInputCauseGone .., _, _, h => execFaultInputCauseGone_keeps (Within.refl _) (Keeps.refl _ _) _ h
  | .unlockTimeoutExpiry .., _, _, h => execUnlockTimeoutExpiry_keeps (Within.refl _) (Keeps.refl _ _) _ h
  | .dlsBreakUnlocking .., _, _, h => execDlsBreakUnlocking_keeps (Within.refl _) (Keeps.refl _ _) _ h
  | .dcsBreakOpening .., _, _, h => execDcsBreakOpening_keeps (Within.refl _) (Keeps.refl _ _) _ h
  | .unlockCommandedGraceEnd .., _, _, h => execUnlockCommandedGraceEnd_keeps (Within.refl _) (Keeps.refl _ _) _ h
  | .preCloseWarnExpiry .., _, _, h => execPreCloseWarnExpiry_keeps (Within.refl _) (Keeps.refl _ _) _ h
  | .dwellExpiry .., _, _, h => execDwellExpiry_keeps (Within.refl _) (Keeps.refl _ _) _ h
  | .dcsMadeClosedWindow .., _, _, h => execDcsMadeClosedWindow_keeps (Within.refl _) (Keeps.refl _ _) _ h
  | .dlsConfirmed .., _, _, h => execDlsConfirmed_keeps (Within.refl _) (Keeps.refl _ _) _ h
  | .lockAttemptExpiry .., _, _, h => execLockAttemptExpiry_keeps (Within.refl _) (Keeps.refl _ _) _ h
  | .dlsMadeClosedUnlocked .., _, _, h => execDlsMadeClosedUnlocked_keeps (Within.refl _) (Keeps.refl _ _) _ h
  | .dcsBreakClosedUnlocked .., _, _, h => execDcsBreakClosedUnlocked_keeps (Within.refl _) (Keeps.refl _ _) _ h
  | .reopenDwellExpiry .., _, _, h => execReopenDwellExpiry_keeps (Within.refl _) (Keeps.refl _ _) _ h
  | .pathComplete .., _, _, h => execPathComplete_keeps (Within.refl _) (Keeps.refl _ _) _ h
  | .adaptWindowEnd .., _, _, h => execAdaptWindowEnd_keeps (Within.refl _) (Keeps.refl _ _) _ _ h
  | .adaptMramWrite .., _, _, h => execAdaptMramWrite_keeps (Within.refl _) (Keeps.refl _ _) _ h
  | .segmentEndEvent .., _, _, h => execSegmentEndEvent_keeps (Within.refl _) (Keeps.refl _ _) _ h
  | .stopComplete .., _, _, h => execStopComplete_keeps (Within.refl _) (Keeps.refl _ _) _ h
  | .driveInterruption .., _, _, h => execDriveInterruption_keeps (Within.refl _) (Keeps.refl _ _) _ _ h
  | .interruptionEnd .., _, _, h => execInterruptionEnd_keeps (Within.refl _) (Keeps.refl _ _) _ _ h
  | .compareFire .., _, _, h => execCompareFire_keeps (Within.refl _) (Keeps.refl _ _) _ h
  | .compareRearm .., _, _, h => execCompareRearm_keeps (Within.refl _) (Keeps.refl _ _) _ h
  | .encoderSourceCount .., _, _, h => execEncoderSourceCount_keeps (Within.refl _) (Keeps.refl _ _) _ _ h
  | .hallChange .., _, _, h => execHallChange_keeps (Within.refl _) (Keeps.refl _ _) _ _ _ h
  | .hallDropout .., _, _, h => execHallDropout_keeps (Within.refl _) (Keeps.refl _ _) _ _ _ h
  | .hallLostTimeout .., _, _, h => execHallLostTimeout_keeps (Within.refl _) (Keeps.refl _ _) _ h
  | .hallSupplyFault .., _, _, h => execHallSupplyFault_keeps (Within.refl _) (Keeps.refl _ _) _ h
  | .driveHardwareTrip .., _, _, h => execDriveHardwareTrip_keeps (Within.refl _) (Keeps.refl _ _) _ _ _ _ h
  | .dcLinkOutOfRange .., _, _, h => execDcLinkOutOfRange_keeps (Within.refl _) (Keeps.refl _ _) _ h
  | .directionFault .., _, _, h => execDirectionFault_keeps (Within.refl _) (Keeps.refl _ _) _ h
  | .followingError .., _, _, h => execFollowingError_keeps (Within.refl _) (Keeps.refl _ _) _ h
  | .thermalHold .., _, _, h => execThermalHold_keeps (Within.refl _) (Keeps.refl _ _) _ _ h
  | .thermalHoldClear .., _, _, h => execThermalHoldClear_keeps (Within.refl _) (Keeps.refl _ _) _ _ h
  | .dcsEdgeConfirmed .., _, _, h => execDcsEdgeConfirmed_keeps (Within.refl _) (Keeps.refl _ _) _ _ h
  | .sealStall .., _, _, h => execSealStall_keeps (Within.refl _) (Keeps.refl _ _) _ h
  | .sealSeekOvertravel .., _, _, h => execSealSeekOvertravel_keeps (Within.refl _) (Keeps.refl _ _) _ h
  | .stepTimerExpiry .., _, _, h => execStepTimerExpiry_keeps (Within.refl _) (Keeps.refl _ _) _ h
  | .stallConfirmed .., _, _, h => execStallConfirmed_keeps (Within.refl _) (Keeps.refl _ _) _ _ h
  | .homingOvertravel .., _, _, h => execHomingOvertravel_keeps (Within.refl _) (Keeps.refl _ _) _ h
  | .parkComplete .., _, _, h => execParkComplete_keeps (Within.refl _) (Keeps.refl _ _) _ h
  | .deployComplete .., _, _, h => execDeployComplete_keeps (Within.refl _) (Keeps.refl _ _) _ h
  | .deploySdsTimeout .., _, _, h => execDeploySdsTimeout_keeps (Within.refl _) (Keeps.refl _ _) _ h
  | .sdsLost .., _, _, h => execSdsLost_keeps (Within.refl _) (Keeps.refl _ _) _ h
  | .stepRetryPauseExpiry .., _, _, h => execStepRetryPauseExpiry_keeps (Within.refl _) (Keeps.refl _ _) _ h
  | .seFastOnset .., _, _, h => execSeFastOnset_keeps (Within.refl _) (Keeps.refl _ _) _ _ h
  | .rowanTrip .., _, _, h => execRowanTrip_keeps (Within.refl _) (Keeps.refl _ _) _ _ _ _ h
  | .finalClosureTrip .., _, _, h => execFinalClosureTrip_keeps (Within.refl _) (Keeps.refl _ _) _ _ h
  | .levelRowChange .., _, _, h => execLevelRowChange_keeps (Within.refl _) (Keeps.refl _ _) _ _ _ h
  | .reflexTripTaken .., _, _, h => execReflexTripTaken_keeps (Within.refl _) (Keeps.refl _ _) _ h
  | .reflexStopEnd .., _, _, h => execReflexStopEnd_keeps (Within.refl _) (Keeps.refl _ _) _ h
  | .reflexLatchRelease .., _, _, h => execReflexLatchRelease_keeps (Within.refl _) (Keeps.refl _ _) _ h
  | .sePathFault .., _, _, h => execSePathFault_keeps (Within.refl _) (Keeps.refl _ _) _ _ h
  | .sePathFaultClear .., _, _, h => execSePathFaultClear_keeps (Within.refl _) (Keeps.refl _ _) _ h
  | .envBreakawayExpiry .., _, _, h => execEnvBreakawayExpiry_keeps (Within.refl _) (Keeps.refl _ _) _ h
  | .isolationUplinkFrame .., _, _, h => execIsolationUplinkFrame_keeps (Within.refl _) (Keeps.refl _ _) _ _ _ _ _ _ h
  | .keeperClosedSettle .., _, _, h => execKeeperClosedSettle_keeps (Within.refl _) (Keeps.refl _ _) _ h
  | .inputSample .., _, _, h => execInputSample_keeps (Within.refl _) (Keeps.refl _ _) _ _ _ _ h
  | .lineBreak .., _, _, h => execLineBreak_keeps (Within.refl _) (Keeps.refl _ _) _ _ h
  | .feedOutOfRange .., _, _, h => execFeedOutOfRange_keeps (Within.refl _) (Keeps.refl _ _) _ h
  | .commonFaultClear .., _, _, h => execCommonFaultClear_keeps (Within.refl _) (Keeps.refl _ _) _ h
  | .frontEndSelftest .., _, _, h => execFrontEndSelftest_keeps (Within.refl _) (Keeps.refl _ _) _ _ h
  | .groupInvalid .., _, _, h => execGroupInvalid_keeps (Within.refl _) (Keeps.refl _ _) _ h
  | .groupValid .., _, _, h => execGroupValid_keeps (Within.refl _) (Keeps.refl _ _) _ h
  | .downlinkFrame .., _, _, h => execDownlinkFrame_keeps (Within.refl _) (Keeps.refl _ _) _ _ _ _ _ h
  | .outputTrip .., _, _, h => execOutputTrip_keeps (Within.refl _) (Keeps.refl _ _) _ h
  | .outputRetry .., _, _, h => execOutputRetry_keeps (Within.refl _) (Keeps.refl _ _) _ h
  | .loopDisagreeExpiry .., _, _, h => execLoopDisagreeExpiry_keeps (Within.refl _) (Keeps.refl _ _) _ h
  | .bypassChange .., _, _, h => execBypassChange_keeps (Within.refl _) (Keeps.refl _ _) _ h
  | .lswCommandFrame .., _, _, h => execLswCommandFrame_keeps (Within.refl _) (Keeps.refl _ _) _ _ _ h
  | .inrushWindowEnd .., _, _, h => execInrushWindowEnd_keeps (Within.refl _) (Keeps.refl _ _) _ _ h
  | .ocSteady .., _, _, h => execOcSteady_keeps (Within.refl _) (Keeps.refl _ _) _ _ h
  | .ocShort .., _, _, h => execOcShort_keeps (Within.refl _) (Keeps.refl _ _) _ h
  | .retryBackoffExpiry .., _, _, h => execRetryBackoffExpiry_keeps (Within.refl _) (Keeps.refl _ _) _ h
  | .retryRestore .., _, _, h => execRetryRestore_keeps (Within.refl _) (Keeps.refl _ _) _ h
  | .thermalLatch .., _, _, h => execThermalLatch_keeps (Within.refl _) (Keeps.refl _ _) _ h
  | .railSag .., _, _, h => execRailSag_keeps (Within.refl _) (Keeps.refl _ _) _ _ h
  | .offStateTest .., _, _, h => execOffStateTest_keeps (Within.refl _) (Keeps.refl _ _) _ _ h
  | .openLoadOn .., _, _, h => execOpenLoadOn_keeps (Within.refl _) (Keeps.refl _ _) _ _ h
  | .keepWarmRegulation .., _, _, h => execKeepWarmRegulation_keeps (Within.refl _) (Keeps.refl _ _) _ _ _ h
  | .heaterMeasurePulse .., _, _, h => execHeaterMeasurePulse_keeps (Within.refl _) (Keeps.refl _ _) _ _ _ h
  | .flashToggle .., _, _, h => execFlashToggle_keeps (Within.refl _) (Keeps.refl _ _) _ h
  | .ringFrameReceived .., _, _, h => execRingFrameReceived_keeps (Within.refl _) (Keeps.refl _ _) _ _ h
  | .nodeTimeout .., _, _, h => execNodeTimeout_keeps (Within.refl _) (Keeps.refl _ _) _ h
  | .portDown .., _, _, h => execPortDown_keeps (Within.refl _) (Keeps.refl _ _) _ h
  | .portUp .., _, _, h => execPortUp_keeps (Within.refl _) (Keeps.refl _ _) _ h
  | .canFrameReceived .., _, _, h => execCanFrameReceived_keeps (Within.refl _) (Keeps.refl _ _) _ _ h
  | .canQueueService .., _, _, h => execCanQueueService_keeps (Within.refl _) (Keeps.refl _ _) _ h
  | .canBusOff .., _, _, h => execCanBusOff_keeps (Within.refl _) (Keeps.refl _ _) _ h
  | .canBusRecovered .., _, _, h => execCanBusRecovered_keeps (Within.refl _) (Keeps.refl _ _) _ h
  | .canIntegrationComplete .., _, _, h => execCanIntegrationComplete_keeps (Within.refl _) (Keeps.refl _ _) _ h
  | .basicCycleStart .., _, _, h => execBasicCycleStart_keeps (Within.refl _) (Keeps.refl _ _) _ h
  | .slotTxb0Load .., _, _, h => execSlotTxb0Load_keeps (Within.refl _) (Keeps.refl _ _) _ _ h
  | .txLatestStart .., _, _, h => execTxLatestStart_keeps (Within.refl _) (Keeps.refl _ _) _ _ h
  | .canFrameTransmitted .., _, _, h => execCanFrameTransmitted_keeps (Within.refl _) (Keeps.refl _ _) _ _ _ h
  | .schedSyncLost .., _, _, h => execSchedSyncLost_keeps (Within.refl _) (Keeps.refl _ _) _ h
  | .flushComplete .., _, _, h => execFlushComplete_keeps (Within.refl _) (Keeps.refl _ _) _ h
  | .incidentComplete .., _, _, h => execIncidentComplete_keeps (Within.refl _) (Keeps.refl _ _) _ h
  | .substitutionComplete .., _, _, h => execSubstitutionComplete_keeps (Within.refl _) (Keeps.refl _ _) _ _ h
  | .autoResume .., _, _, h => execAutoResume_keeps (Within.refl _) (Keeps.refl _ _) _ h
  | .uplinkFrameMissed .., _, _, h => execUplinkFrameMissed_keeps (Within.refl _) (Keeps.refl _ _) _ h
  | .frontEndSupplyFault .., _, _, h => execFrontEndSupplyFault_keeps (Within.refl _) (Keeps.refl _ _) _ _ h
  | .maintOpenHoldExpiry .., _, _, h => execMaintOpenHoldExpiry_keeps (Within.refl _) (Keeps.refl _ _) _ h
  | .selftestComplete .., _, _, h => execSelftestComplete_keeps (Within.refl _) (Keeps.refl _ _) _ _ _ h
  | .supplyFail, _, _, h => execSupplyFail_keeps (Within.refl _) (Keeps.refl _ _) h
  | .supplyReturn, _, _, h => execSupplyReturn_keeps (Within.refl _) (Keeps.refl _ _) h
  | .holdupReserveReached, _, _, h => execHoldupReserveReached_keeps (Within.refl _) (Keeps.refl _ _) h
  | .holdupExhausted, _, _, h => execHoldupExhausted_keeps (Within.refl _) (Keeps.refl _ _) h
  | .stableHoldupTimeout, _, _, h => execStableHoldupTimeout_keeps (Within.refl _) (Keeps.refl _ _) h
  | .cartridgeRemoved, _, _, h => execCartridgeRemoved_keeps (Within.refl _) (Keeps.refl _ _) h
  | .cartridgeCharged, _, _, h => execCartridgeCharged_keeps (Within.refl _) (Keeps.refl _ _) h
  | .prechargeComplete, _, _, h => execPrechargeComplete_keeps (Within.refl _) (Keeps.refl _ _) h
  | .powerEntryCommit, _, _, h => execPowerEntryCommit_keeps (Within.refl _) (Keeps.refl _ _) h
  | .wakeFromStable, _, _, h => execWakeFromStable_keeps (Within.refl _) (Keeps.refl _ _) h
  | .serviceLinkEnergy, _, _, h => execServiceLinkEnergy_keeps (Within.refl _) (Keeps.refl _ _) h
  | .wakeAlarm, _, _, h => execWakeAlarm_keeps (Within.refl _) (Keeps.refl _ _) h
  | .supvWatchdogExpiry, _, _, h => execSupvWatchdogExpiry_keeps (Within.refl _) (Keeps.refl _ _) h
  | .lockstepMismatch, _, _, h => execLockstepMismatch_keeps (Within.refl _) (Keeps.refl _ _) h
  | .supvRestart, _, _, h => execSupvRestart_keeps (Within.refl _) (Keeps.refl _ _) h
  | .commsWatchdogExpiry, _, _, h => execCommsWatchdogExpiry_keeps (Within.refl _) (Keeps.refl _ _) h
  | .commsRestart, _, _, h => execCommsRestart_keeps (Within.refl _) (Keeps.refl _ _) h
  | .appWatchdogHalf, _, _, h => execAppWatchdogHalf_keeps (Within.refl _) (Keeps.refl _ _) h
  | .appWatchdogExpiry, _, _, h => execAppWatchdogExpiry_keeps (Within.refl _) (Keeps.refl _ _) h
  | .appException, _, _, h => execAppException_keeps (Within.refl _) (Keeps.refl _ _) h
  | .appAutorestart, _, _, h => execAppAutorestart_keeps (Within.refl _) (Keeps.refl _ _) h
  | .tmrNowLoRead, _, _, h => execTmrNowLoRead_keeps (Within.refl _) (Keeps.refl _ _) h
  | .mbxSlotTaken, _, _, h => execMbxSlotTaken_keeps (Within.refl _) (Keeps.refl _ _) h
  | .mbxInboundFill, _, _, h => execMbxInboundFill_keeps (Within.refl _) (Keeps.refl _ _) h
  | .safePointFound, _, _, h => execSafePointFound_keeps (Within.refl _) (Keeps.refl _ _) h
  | .safePointTimeout, _, _, h => execSafePointTimeout_keeps (Within.refl _) (Keeps.refl _ _) h
  | .eraseClearComplete, _, _, h => execEraseClearComplete_keeps (Within.refl _) (Keeps.refl _ _) h
  | .supvUpdate, _, _, h => execSupvUpdate_keeps (Within.refl _) (Keeps.refl _ _) h
  | .commsUpdate, _, _, h => execCommsUpdate_keeps (Within.refl _) (Keeps.refl _ _) h
  | .updateWaitTimeout, _, _, h => execUpdateWaitTimeout_keeps (Within.refl _) (Keeps.refl _ _) h
  | .orientSettleExpiry, _, _, h => execOrientSettleExpiry_keeps (Within.refl _) (Keeps.refl _ _) h
  | .zspdDiscrepExpiry, _, _, h => execZspdDiscrepExpiry_keeps (Within.refl _) (Keeps.refl _ _) h
  | .quinceClockFault, _, _, h => execQuinceClockFault_keeps (Within.refl _) (Keeps.refl _ _) h
  | .downlinkLost, _, _, h => execDownlinkLost_keeps (Within.refl _) (Keeps.refl _ _) h
  | .outputHoldTimeout, _, _, h => execOutputHoldTimeout_keeps (Within.refl _) (Keeps.refl _ _) h
  | .discrepancyClearExpiry, _, _, h => execDiscrepancyClearExpiry_keeps (Within.refl _) (Keeps.refl _ _) h
  | .loopRbTimeExpiry, _, _, h => execLoopRbTimeExpiry_keeps (Within.refl _) (Keeps.refl _ _) h
  | .keeperAloneTimeout, _, _, h => execKeeperAloneTimeout_keeps (Within.refl _) (Keeps.refl _ _) h
  | .lswWatchdogTimeout, _, _, h => execLswWatchdogTimeout_keeps (Within.refl _) (Keeps.refl _ _) h
  | .updateHoldTimeout, _, _, h => execUpdateHoldTimeout_keeps (Within.refl _) (Keeps.refl _ _) h
  | .beaconTransmit, _, _, h => execBeaconTransmit_keeps (Within.refl _) (Keeps.refl _ _) h
  | .timeAgeCount, _, _, h => execTimeAgeCount_keeps (Within.refl _) (Keeps.refl _ _) h
  | .addressConflictClear, _, _, h => execAddressConflictClear_keeps (Within.refl _) (Keeps.refl _ _) h
  | .ethertypeConflictClear, _, _, h => execEthertypeConflictClear_keeps (Within.refl _) (Keeps.refl _ _) h
  | .consistMismatchClear, _, _, h => execConsistMismatchClear_keeps (Within.refl _) (Keeps.refl _ _) h
  | .versionMismatchClear, _, _, h => execVersionMismatchClear_keeps (Within.refl _) (Keeps.refl _ _) h
  | .ringInsertion, _, _, h => execRingInsertion_keeps (Within.refl _) (Keeps.refl _ _) h
  | .ringRemoval, _, _, h => execRingRemoval_keeps (Within.refl _) (Keeps.refl _ _) h
  | .flushStart, _, _, h => execFlushStart_keeps (Within.refl _) (Keeps.refl _ _) h
  | .flushEachRecord, _, _, h => execFlushEachRecord_keeps (Within.refl _) (Keeps.refl _ _) h
  | .mirrorRefresh, _, _, h => execMirrorRefresh_keeps (Within.refl _) (Keeps.refl _ _) h

end Sys2Proof.Machine
end

