-- ==== Sys2Proof/Laws/Doorways.lean ====
section
/-!
SUPPORT. What follows a doorway engine's own work (effects outside, operations, egress rows, release and loop) leaves every
doorway's state machine, inputs, obstacle protection and drives as that work left them.
-/

namespace Sys2Proof.Machine

/-! ## Doorways that differ in little -/

theorem Doorway.alike_refl (a : Doorway) : a.alike a := ⟨rfl, rfl, rfl, rfl, rfl, rfl⟩

theorem Doorway.alike_of_eq {a b : Doorway} (h : b = a) : a.alike b := by rw [h]; exact a.alike_refl

theorem Doorway.alike_trans {a b c : Doorway} (h : a.alike b) (k : b.alike c) : a.alike c :=
  ⟨k.sm.trans h.sm, k.inp.trans h.inp, k.obst.trans h.obst, k.door.trans h.door, k.step.trans h.step, k.cycle.trans h.cycle⟩

/-- Every doorway of a state is as in another. -/
def State.alike (s t : State) : Prop := ∀ j : DoorIx, (s.doors[j]).alike t.doors[j]

theorem State.alike_refl (s : State) : s.alike s := fun _ => Doorway.alike_refl _

theorem State.alike_trans {s t u : State} (h : s.alike t) (k : t.alike u) : s.alike u := fun j =>
  Doorway.alike_trans (h j) (k j)

theorem State.alike_of_doors {s t : State} (h : t.doors = s.doors) : s.alike t := fun j => Doorway.alike_of_eq (by rw [h])

theorem State.alike_of_keeps {s t : State} {ps : List Part} (h : Keeps ps s t) (hp : Part.doors ∉ ps) : s.alike t :=
  State.alike_of_doors (h.only .doors hp)

theorem State.alike_foldl {α : Type} {s0 : State} (l : List α) {f : State → α → State}
    (hf : ∀ t x, s0.alike t → s0.alike (f t x)) {s : State} (h : s0.alike s) : s0.alike (l.foldl f s) := by
  induction l generalizing s with
  | nil => exact h
  | cons a l ih => exact ih (hf s a h)

/-- Reading a doorway after one is written. -/
theorem doors_set (v : Vector Doorway 8) (d j : DoorIx) (w : Doorway) : (v.set d w)[j] = if j = d then w else v[j] := by
  by_cases h : j = d
  · subst h; simp
  · rw [if_neg h]
    have : d.val ≠ j.val := fun e => h (Fin.ext e.symm)
    simp [Vector.getElem_set_ne, this]

theorem State.alike_set {s t : State} {d : DoorIx} {w : Doorway} (h : t.doors = s.doors.set d w) (hw : (s.doors[d]).alike w) :
    s.alike t := by
  intro j
  rw [h, doors_set]
  by_cases hj : j = d
  · subst hj; rw [if_pos rfl]; exact hw
  · rw [if_neg hj]; exact Doorway.alike_refl _

/-! ## Reflex rows 40 to 63 -/

theorem stepLose_alike (e : DoorEnv) (code : Nat) (w : Work) : w.dw.alike (stepLose e code w).dw := by
  unfold stepLose
  dsimp only
  split
  · exact ⟨rfl, rfl, rfl, rfl, rfl, rfl⟩
  · exact ⟨rfl, rfl, rfl, rfl, rfl, rfl⟩

theorem stepTorqueRemoved_alike (e : DoorEnv) (w : Work) : w.dw.alike (stepTorqueRemoved e w).dw := by
  unfold stepTorqueRemoved
  split
  · exact Doorway.alike_refl _
  · exact stepLose_alike e 2 w

theorem State.incident_alike (s : State) (a : Nat) (b : Bool) (c : Option DoorIx) (d : Option DriveIx) (x y : Bool) :
    s.alike (s.incident a b c d x y) := by
  have hk : ∀ (t : State) (l : Events), Keeps [.fcp] t (t.events l) := fun t l =>
    State.events_keeps (Within.refl _) (Keeps.refl _ _) l
  have hl : ∀ (t : State) (g : Recorder) (l : Events), t.alike (({ t with log := g }).events l) := fun t g l =>
    State.alike_trans (State.alike_of_doors (t := { t with log := g }) rfl) (State.alike_of_keeps (hk { t with log := g } l) (by decide))
  have hcy : ∀ (c : Option Cycle) (g : CycleFlags → CycleFlags), (∀ f, { g f with incident := false } = { f with incident := false }) →
      (c.map (fun c => { c with flags := g c.flags })).map Cycle.bare = c.map Cycle.bare := by
    intro c g hg
    cases c with
    | none => rfl
    | some c => exact congrArg (fun f => some { c with flags := f }) (hg c.flags)
  have hm : ∀ (t : State) (d : DoorIx) (g : CycleFlags → CycleFlags), (∀ f, { g f with incident := false } = { f with incident := false }) →
      t.alike (t.onDoor d (fun w => (Work.cycleFlags ⟨w, []⟩ g).dw)) := fun t d g hg =>
    State.alike_set (d := d) rfl ⟨rfl, rfl, rfl, rfl, rfl, hcy _ g hg⟩
  unfold State.incident
  cases c with
  | none => exact hl s _ _
  | some d =>
    dsimp only
    have hi : ∀ (p : Prop) (_ : Decidable p) (t u : State), s.alike t → s.alike u → s.alike (if p then t else u) := by
      intro p _ t u ht hu; split <;> assumption
    exact hi _ _ _ _ (State.alike_trans (hl s _ _) (hm _ d _ (fun _ => rfl))) (hl s _ _)

theorem State.latchColumn_alike (s : State) (row : RowIx) (hr : 40 ≤ row.val) (n : Nat) (c : DriveIx) :
    s.alike (s.latchColumn row n c) := by
  have ht : ∀ d, tripRow row d = false := by
    intro d
    unfold tripRow
    have h1 : ¬row.val < 32 := by omega
    have h2 : ¬row.val < 40 := by omega
    simp [h1, h2]
  have hf : ∀ (l : List DoorFx) (t : State), t.alike (l.foldl (fun s x => match x with
      | .event k p => s.event k p
      | _ => s) t) := by
    intro l t
    refine State.alike_foldl l (fun u x hu => State.alike_trans hu ?_) (State.alike_refl t)
    split
    · exact State.alike_of_doors rfl
    · exact State.alike_refl _
  unfold State.latchColumn State.latchAction
  dsimp only
  split
  · exact State.alike_refl s
  · rw [ht]
    simp only [Bool.and_false, Bool.false_eq_true, if_false]
    refine State.alike_trans (State.alike_set (d := doorOf c) rfl ?_) (hf _ _)
    split
    · have hl : ∀ v : Work, v.dw.alike (v.step (fun q => q.latched (q.latch.add row (reflexAction s.cfg row c)))).dw :=
        fun _ => ⟨rfl, rfl, rfl, rfl, rfl, rfl⟩
      refine Doorway.alike_trans ?_ (hl _)
      split
      · exact stepTorqueRemoved_alike (s.doorEnv (doorOf c)) ⟨s.doors[doorOf c], []⟩
      · exact Doorway.alike_refl _
    · exact ⟨rfl, rfl, rfl, rfl, rfl, rfl⟩

theorem State.latchRow_alike (s : State) (row : RowIx) (hr : 40 ≤ row.val) (n : Nat) (l : List DriveIx) :
    s.alike (s.latchRow row n l) :=
  State.alike_foldl l (fun t c ht => State.alike_trans ht (State.latchColumn_alike t row hr n c)) (State.alike_refl s)

theorem State.setLevel_alike (s : State) (row : RowIx) (hr : 40 ≤ row.val) (on : Bool) : s.alike (s.setLevel row on) := by
  have h0 : ∀ q : Quince, s.alike { s with quince := q } := fun _ => State.alike_of_doors rfl
  unfold State.setLevel
  dsimp only
  split
  · exact State.alike_trans (h0 _) (State.latchRow_alike _ row hr 0 drives)
  · exact h0 _

theorem State.egressRows_alike (s : State) (d : DoorIx) : s.alike (s.egressRows d) :=
  State.alike_trans (State.setLevel_alike s _ (by simp) _) (State.setLevel_alike _ _ (by show 40 ≤ 41 + 2 * d.val; omega) _)

theorem State.bypassRow_alike (s : State) : s.alike s.bypassRow := State.setLevel_alike s 56 (by decide) _

/-! ## Running a doorway's engine -/

theorem State.evaluate_alike (s : State) : s.alike s.evaluate :=
  State.alike_of_keeps (State.evaluate_keeps (Within.refl _) (Keeps.refl _ _)) (by decide)

theorem State.applyFx_alike (d : DoorIx) (s : State) (x : DoorFx) : s.alike (s.applyFx d x) := by
  cases x with
  | event c p => exact State.alike_of_doors rfl
  | incident c step => exact State.incident_alike s _ _ _ _ _ _
  | cycleRecord c st => exact State.alike_of_keeps (State.stage_keeps (Within.refl _) (Keeps.refl _ _) _ _) (by decide)
  | flush => exact State.alike_of_doors rfl
  | releaseBlocked => exact State.alike_of_doors rfl
  | pulse => exact State.alike_of_doors rfl
  | tripsEnd => exact State.alike_of_doors rfl
  | maintEnd m o r => exact State.alike_of_keeps (State.maintEnds_keeps (Within.refl _) (Keeps.refl _ _) d m o r) (by decide)

/-- After a doorway's engine has worked, that doorway is as the work left it, and every other as it was. -/
theorem State.runDoor_alike (s : State) (d : DoorIx) (f : DoorEnv → Work → Work) (hr : s.leafRuns d = true) (j : DoorIx) :
    (if j = d then (f (s.doorEnv d) ⟨s.doors[d], []⟩).dw else s.doors[j]).alike (s.runDoor d f).doors[j] := by
  unfold State.runDoor
  rw [hr]
  simp only [Bool.not_true, Bool.false_eq_true, if_false]
  generalize f (s.doorEnv d) ⟨s.doors[d], []⟩ = w
  let s1 : State := { s with doors := s.doors.set d w.dw }
  have h1 : s1.alike (w.fx.foldl (State.applyFx d) s1) :=
    State.alike_foldl _ (fun t x ht => State.alike_trans ht (State.applyFx_alike d t x)) (State.alike_refl _)
  have h2 := State.alike_trans h1 (State.alike_of_keeps (State.followDoor_keeps (Within.refl _) (Keeps.refl _ _) d) (by decide))
  have h3 := State.alike_trans h2 (State.egressRows_alike _ d)
  have h4 := State.alike_trans h3 (State.evaluate_alike _)
  have h5 := h4 j
  have h6 : s1.doors[j] = if j = d then w.dw else s.doors[j] := doors_set _ _ _ _
  rw [h6] at h5
  exact h5

end Sys2Proof.Machine
end

