-- ==== Sys2Proof/Laws/Works.lean ====
section
/-!
SUPPORT. Which parts of a doorway each operation of its engine may change.
-/

set_option linter.unusedVariables false

namespace Sys2Proof.Machine

/-- The parts of a doorway. -/
inductive DoorPart where
  | sm | inp | door | step | obst | cycle
  deriving DecidableEq, Repr

/-- A doorway at work has changed in the named parts only. -/
structure WorkKeeps (ps : List DoorPart) (a b : Work) : Prop where
  sm    : DoorPart.sm ∈ ps ∨ b.dw.sm = a.dw.sm
  inp   : DoorPart.inp ∈ ps ∨ b.dw.inp = a.dw.inp
  door  : DoorPart.door ∈ ps ∨ b.dw.door = a.dw.door
  step  : DoorPart.step ∈ ps ∨ b.dw.step = a.dw.step
  obst  : DoorPart.obst ∈ ps ∨ b.dw.obst = a.dw.obst
  cycle : DoorPart.cycle ∈ ps ∨ b.dw.cycle = a.dw.cycle

theorem WorkKeeps.refl (ps : List DoorPart) (w : Work) : WorkKeeps ps w w :=
  ⟨.inr rfl, .inr rfl, .inr rfl, .inr rfl, .inr rfl, .inr rfl⟩

/-- Named parts are among named parts. -/
def Inside (qs ps : List DoorPart) : Prop := ∀ p, p ∈ qs → p ∈ ps

theorem Inside.refl (ps : List DoorPart) : Inside ps ps := fun _ h => h

theorem Inside.of {as qs ps : List DoorPart} (h : Inside qs ps) (hq : (as.all (fun p => qs.contains p)) = true) : Inside as ps :=
  fun p hp => h p (by
    have := List.all_eq_true.1 hq p hp
    simpa using this)

theorem WorkKeeps.ite {ps : List DoorPart} {w0 a b : Work} {c : Prop} {dc : Decidable c} (ha : WorkKeeps ps w0 a)
    (hb : WorkKeeps ps w0 b) : WorkKeeps ps w0 (if c then a else b) := by split <;> assumption

theorem WorkKeeps.foldl {α : Type} {ps : List DoorPart} {w0 w : Work} (l : List α) {f : Work → α → Work}
    (hf : ∀ t x, WorkKeeps ps w0 t → WorkKeeps ps w0 (f t x)) (h : WorkKeeps ps w0 w) : WorkKeeps ps w0 (l.foldl f w) := by
  induction l generalizing w with
  | nil => exact h
  | cons a l ih => exact ih (hf w a h)

theorem WorkKeeps.putSm {ps : List DoorPart} {w0 w v : Work} (hw : Inside [.sm] ps) (h : WorkKeeps ps w0 w)
    {x} (hv : v.dw = { w.dw with sm := x }) : WorkKeeps ps w0 v := by
  have hp : DoorPart.sm ∈ ps := hw _ (by simp)
  exact ⟨.inl hp, by rw [hv]; exact h.inp, by rw [hv]; exact h.door, by rw [hv]; exact h.step, by rw [hv]; exact h.obst, by rw [hv]; exact h.cycle⟩

theorem WorkKeeps.putInp {ps : List DoorPart} {w0 w v : Work} (hw : Inside [.inp] ps) (h : WorkKeeps ps w0 w)
    {x} (hv : v.dw = { w.dw with inp := x }) : WorkKeeps ps w0 v := by
  have hp : DoorPart.inp ∈ ps := hw _ (by simp)
  exact ⟨by rw [hv]; exact h.sm, .inl hp, by rw [hv]; exact h.door, by rw [hv]; exact h.step, by rw [hv]; exact h.obst, by rw [hv]; exact h.cycle⟩

theorem WorkKeeps.putDoor {ps : List DoorPart} {w0 w v : Work} (hw : Inside [.door] ps) (h : WorkKeeps ps w0 w)
    {x} (hv : v.dw = { w.dw with door := x }) : WorkKeeps ps w0 v := by
  have hp : DoorPart.door ∈ ps := hw _ (by simp)
  exact ⟨by rw [hv]; exact h.sm, by rw [hv]; exact h.inp, .inl hp, by rw [hv]; exact h.step, by rw [hv]; exact h.obst, by rw [hv]; exact h.cycle⟩

theorem WorkKeeps.putStep {ps : List DoorPart} {w0 w v : Work} (hw : Inside [.step] ps) (h : WorkKeeps ps w0 w)
    {x} (hv : v.dw = { w.dw with step := x }) : WorkKeeps ps w0 v := by
  have hp : DoorPart.step ∈ ps := hw _ (by simp)
  exact ⟨by rw [hv]; exact h.sm, by rw [hv]; exact h.inp, by rw [hv]; exact h.door, .inl hp, by rw [hv]; exact h.obst, by rw [hv]; exact h.cycle⟩

theorem WorkKeeps.putObst {ps : List DoorPart} {w0 w v : Work} (hw : Inside [.obst] ps) (h : WorkKeeps ps w0 w)
    {x} (hv : v.dw = { w.dw with obst := x }) : WorkKeeps ps w0 v := by
  have hp : DoorPart.obst ∈ ps := hw _ (by simp)
  exact ⟨by rw [hv]; exact h.sm, by rw [hv]; exact h.inp, by rw [hv]; exact h.door, by rw [hv]; exact h.step, .inl hp, by rw [hv]; exact h.cycle⟩

theorem WorkKeeps.putCycle {ps : List DoorPart} {w0 w v : Work} (hw : Inside [.cycle] ps) (h : WorkKeeps ps w0 w)
    {x} (hv : v.dw = { w.dw with cycle := x }) : WorkKeeps ps w0 v := by
  have hp : DoorPart.cycle ∈ ps := hw _ (by simp)
  exact ⟨by rw [hv]; exact h.sm, by rw [hv]; exact h.inp, by rw [hv]; exact h.door, by rw [hv]; exact h.step, by rw [hv]; exact h.obst, .inl hp⟩

theorem Work.fx_wk {ps : List DoorPart} {w0 w : Work} (h : WorkKeeps ps w0 w) (l : List DoorFx) :
    WorkKeeps ps w0 { w with fx := l } := ⟨h.sm, h.inp, h.door, h.step, h.obst, h.cycle⟩

theorem Work.sm_wk {ps : List DoorPart} {w0 w : Work} (hw : Inside [.sm] ps) (h : WorkKeeps ps w0 w) (f : DoorSm → DoorSm) :
    WorkKeeps ps w0 (w.sm f) := WorkKeeps.putSm hw h rfl

theorem Work.count_wk {ps : List DoorPart} {w0 w : Work} (hw : Inside [.sm] ps) (h : WorkKeeps ps w0 w) (f : DoorCounters → DoorCounters) :
    WorkKeeps ps w0 (w.count f) := Work.sm_wk hw h _

theorem Work.cyc_wk {ps : List DoorPart} {w0 w : Work} (hw : Inside [.cycle] ps) (h : WorkKeeps ps w0 w) (f : Cycle → Cycle) :
    WorkKeeps ps w0 (w.cyc f) := WorkKeeps.putCycle hw h rfl

theorem Work.cycleFlags_wk {ps : List DoorPart} {w0 w : Work} (hw : Inside [.cycle] ps) (h : WorkKeeps ps w0 w) (f : CycleFlags → CycleFlags) :
    WorkKeeps ps w0 (w.cycleFlags f) := Work.cyc_wk hw h _

theorem Work.door_wk {ps : List DoorPart} {w0 w : Work} (hw : Inside [.door] ps) (h : WorkKeeps ps w0 w) (f : DoorDrive → DoorDrive) :
    WorkKeeps ps w0 (w.door f) := WorkKeeps.putDoor hw h rfl

theorem Work.doorFlags_wk {ps : List DoorPart} {w0 w : Work} (hw : Inside [.door] ps) (h : WorkKeeps ps w0 w) (f : DriveFlags → DriveFlags) :
    WorkKeeps ps w0 (w.doorFlags f) := Work.door_wk hw h _

theorem Work.emit_wk {ps : List DoorPart} {w0 w : Work} (_ : Inside [] ps) (h : WorkKeeps ps w0 w) (x : DoorFx) :
    WorkKeeps ps w0 (w.emit x) := ⟨h.sm, h.inp, h.door, h.step, h.obst, h.cycle⟩

theorem Work.obst_wk {ps : List DoorPart} {w0 w : Work} (hw : Inside [.obst] ps) (h : WorkKeeps ps w0 w) (f : Obstacle → Obstacle) :
    WorkKeeps ps w0 (w.obst f) := WorkKeeps.putObst hw h rfl

theorem Work.obstFlags_wk {ps : List DoorPart} {w0 w : Work} (hw : Inside [.obst] ps) (h : WorkKeeps ps w0 w) (f : ObstFlags → ObstFlags) :
    WorkKeeps ps w0 (w.obstFlags f) := Work.obst_wk hw h _

theorem Work.setCycle_wk {ps : List DoorPart} {w0 w : Work} (hw : Inside [.cycle] ps) (h : WorkKeeps ps w0 w)
    (c : Option Cycle) : WorkKeeps ps w0 (w.setCycle c) := WorkKeeps.putCycle hw h rfl

theorem Work.smFlags_wk {ps : List DoorPart} {w0 w : Work} (hw : Inside [.sm] ps) (h : WorkKeeps ps w0 w) (f : SmFlags → SmFlags) :
    WorkKeeps ps w0 (w.smFlags f) := Work.sm_wk hw h _

theorem Work.step_wk {ps : List DoorPart} {w0 w : Work} (hw : Inside [.step] ps) (h : WorkKeeps ps w0 w) (f : StepDrive → StepDrive) :
    WorkKeeps ps w0 (w.step f) := WorkKeeps.putStep hw h rfl

theorem Work.stepFlags_wk {ps : List DoorPart} {w0 w : Work} (hw : Inside [.step] ps) (h : WorkKeeps ps w0 w) (f : StepFlags → StepFlags) :
    WorkKeeps ps w0 (w.stepFlags f) := Work.step_wk hw h _

theorem Work.driveEvent_wk {ps : List DoorPart} {w0 w : Work} (hw : Inside [] ps) (h : WorkKeeps ps w0 w) (a2 : DoorEnv) (a3 : Nat) (a4 : Nat) (a5 : Int) :
    WorkKeeps ps w0 (Work.driveEvent w a2 a3 a4 a5) := by
  unfold Work.driveEvent
  repeat' (first
    | (with_reducible assumption)
    | (with_reducible refine Work.emit_wk (hw.of rfl) ?_ _)
    | (with_reducible refine WorkKeeps.ite ?_ ?_)
    | intro _
    | split
    | dsimp only)

theorem Work.stepEvent_wk {ps : List DoorPart} {w0 w : Work} (hw : Inside [] ps) (h : WorkKeeps ps w0 w) (a2 : DoorEnv) (a3 : Nat) (a4 : Nat) (a5 : Int) :
    WorkKeeps ps w0 (Work.stepEvent w a2 a3 a4 a5) := by
  unfold Work.stepEvent
  repeat' (first
    | (with_reducible assumption)
    | (with_reducible refine Work.emit_wk (hw.of rfl) ?_ _)
    | (with_reducible refine WorkKeeps.ite ?_ ?_)
    | intro _
    | split
    | dsimp only)

theorem doorCompare_wk {ps : List DoorPart} {w0 w : Work} (hw : Inside [.door] ps) (h : WorkKeeps ps w0 w) (a1 : DoorEnv) :
    WorkKeeps ps w0 (doorCompare a1 w) := by
  unfold doorCompare
  lift_lets
  repeat' intro
  split
  · exact Work.fx_wk (Work.door_wk hw h _) _
  · exact Work.door_wk hw h _

theorem stepCompare_wk {ps : List DoorPart} {w0 w : Work} (hw : Inside [.step] ps) (h : WorkKeeps ps w0 w) (a1 : DoorEnv) :
    WorkKeeps ps w0 (stepCompare a1 w) := by
  unfold stepCompare
  lift_lets
  repeat' intro
  split
  · exact Work.fx_wk (Work.step_wk hw h _) _
  · exact Work.step_wk hw h _

theorem Work.obstEvent_wk {ps : List DoorPart} {w0 w : Work} (hw : Inside [] ps) (h : WorkKeeps ps w0 w) (a2 : DoorEnv) (a3 : Nat) (a4 : Nat) (a5 : Nat) (a6 : Int) :
    WorkKeeps ps w0 (Work.obstEvent w a2 a3 a4 a5 a6) := by
  unfold Work.obstEvent
  repeat' (first
    | (with_reducible assumption)
    | (with_reducible refine Work.emit_wk (hw.of rfl) ?_ _)
    | (with_reducible refine WorkKeeps.ite ?_ ?_)
    | intro _
    | split
    | dsimp only)

theorem doorOff_wk {ps : List DoorPart} {w0 w : Work} (hw : Inside [.door, .obst] ps) (h : WorkKeeps ps w0 w) :
    WorkKeeps ps w0 (doorOff w) := by
  unfold doorOff
  repeat' (first
    | (with_reducible assumption)
    | (with_reducible refine Work.door_wk (hw.of rfl) ?_ _)
    | (with_reducible refine Work.obstFlags_wk (hw.of rfl) ?_ _)
    | (with_reducible refine WorkKeeps.ite ?_ ?_)
    | intro _
    | split
    | dsimp only)

theorem doorHold_wk {ps : List DoorPart} {w0 w : Work} (hw : Inside [.door] ps) (h : WorkKeeps ps w0 w) (a1 : DoorEnv) :
    WorkKeeps ps w0 (doorHold a1 w) := by
  unfold doorHold
  repeat' (first
    | (with_reducible assumption)
    | (with_reducible refine Work.door_wk (hw.of rfl) ?_ _)
    | (with_reducible refine WorkKeeps.ite ?_ ?_)
    | intro _
    | split
    | dsimp only)

theorem strokeStarts_wk {ps : List DoorPart} {w0 w : Work} (hw : Inside [.door, .obst, .cycle] ps) (h : WorkKeeps ps w0 w) (a1 : DoorEnv) (a2 : Bool) (a3 : Bool) :
    WorkKeeps ps w0 (strokeStarts a1 a2 a3 w) := by
  unfold strokeStarts
  repeat' (first
    | (with_reducible assumption)
    | (with_reducible refine Work.cycleFlags_wk (hw.of rfl) ?_ _)
    | (with_reducible refine Work.door_wk (hw.of rfl) ?_ _)
    | (with_reducible refine Work.obstFlags_wk (hw.of rfl) ?_ _)
    | (with_reducible refine WorkKeeps.ite ?_ ?_)
    | intro _
    | split
    | dsimp only)

theorem doorContext_wk {ps : List DoorPart} {w0 w : Work} (hw : Inside [.door, .obst, .cycle] ps) (h : WorkKeeps ps w0 w) (a1 : DoorEnv) (a2 : Nat) (a3 : Nat) :
    WorkKeeps ps w0 (doorContext a1 a2 a3 w) := by
  unfold doorContext
  repeat' (first
    | (with_reducible assumption)
    | (with_reducible refine Work.door_wk (hw.of rfl) ?_ _)
    | (with_reducible refine strokeStarts_wk (hw.of rfl) ?_ _ _ _)
    | (with_reducible refine WorkKeeps.ite ?_ ?_)
    | intro _
    | split
    | dsimp only)

theorem doorMove_wk {ps : List DoorPart} {w0 w : Work} (hw : Inside [.door, .obst, .cycle] ps) (h : WorkKeeps ps w0 w) (a1 : DoorEnv) (a2 : Int) (a3 : Nat) (a4 : Bool) :
    WorkKeeps ps w0 (doorMove a1 a2 a3 a4 w) := by
  unfold doorMove
  repeat' (first
    | (with_reducible assumption)
    | (with_reducible refine Work.door_wk (hw.of rfl) ?_ _)
    | (with_reducible refine strokeStarts_wk (hw.of rfl) ?_ _ _ _)
    | (with_reducible refine WorkKeeps.ite ?_ ?_)
    | intro _
    | split
    | dsimp only)

theorem sealSeekStart_wk {ps : List DoorPart} {w0 w : Work} (hw : Inside [.door] ps) (h : WorkKeeps ps w0 w) (a1 : DoorEnv) :
    WorkKeeps ps w0 (sealSeekStart a1 w) := by
  unfold sealSeekStart
  repeat' (first
    | (with_reducible assumption)
    | (with_reducible refine Work.door_wk (hw.of rfl) ?_ _)
    | (with_reducible refine WorkKeeps.ite ?_ ?_)
    | intro _
    | split
    | dsimp only)

theorem doorStartOpen_wk {ps : List DoorPart} {w0 w : Work} (hw : Inside [.door, .obst, .cycle] ps) (h : WorkKeeps ps w0 w) (a1 : DoorEnv) :
    WorkKeeps ps w0 (doorStartOpen a1 w) := by
  unfold doorStartOpen
  repeat' (first
    | (with_reducible assumption)
    | (with_reducible refine doorContext_wk (hw.of rfl) ?_ _ _ _)
    | (with_reducible refine doorMove_wk (hw.of rfl) ?_ _ _ _ _)
    | (with_reducible refine WorkKeeps.ite ?_ ?_)
    | intro _
    | split
    | dsimp only)

theorem doorStartClose_wk {ps : List DoorPart} {w0 w : Work} (hw : Inside [.door, .obst, .cycle] ps) (h : WorkKeeps ps w0 w) (a1 : DoorEnv) :
    WorkKeeps ps w0 (doorStartClose a1 w) := by
  unfold doorStartClose
  repeat' (first
    | (with_reducible assumption)
    | (with_reducible refine doorContext_wk (hw.of rfl) ?_ _ _ _)
    | (with_reducible refine sealSeekStart_wk (hw.of rfl) ?_ _)
    | (with_reducible refine strokeStarts_wk (hw.of rfl) ?_ _ _ _)
    | (with_reducible refine WorkKeeps.ite ?_ ?_)
    | intro _
    | split
    | dsimp only)

theorem doorResume_wk {ps : List DoorPart} {w0 w : Work} (hw : Inside [.door, .obst, .cycle] ps) (h : WorkKeeps ps w0 w) (a1 : DoorEnv) :
    WorkKeeps ps w0 (doorResume a1 w) := by
  unfold doorResume
  repeat' (first
    | (with_reducible assumption)
    | (with_reducible refine Work.door_wk (hw.of rfl) ?_ _)
    | (with_reducible refine strokeStarts_wk (hw.of rfl) ?_ _ _ _)
    | (with_reducible refine WorkKeeps.ite ?_ ?_)
    | intro _
    | split
    | dsimp only)

theorem stepStarts_wk {ps : List DoorPart} {w0 w : Work} (hw : Inside [.step] ps) (h : WorkKeeps ps w0 w) :
    WorkKeeps ps w0 (stepStarts w) := by
  unfold stepStarts
  repeat' (first
    | (with_reducible assumption)
    | (with_reducible refine Work.stepFlags_wk (hw.of rfl) ?_ _)
    | (with_reducible refine WorkKeeps.ite ?_ ?_)
    | intro _
    | split
    | dsimp only)

theorem stepContext_wk {ps : List DoorPart} {w0 w : Work} (hw : Inside [.step] ps) (h : WorkKeeps ps w0 w) (a1 : DoorEnv) (a2 : Nat) (a3 : Bool) (a4 : StepJob) :
    WorkKeeps ps w0 (stepContext a1 a2 a3 a4 w) := by
  unfold stepContext
  repeat' (first
    | (with_reducible assumption)
    | (with_reducible refine Work.step_wk (hw.of rfl) ?_ _)
    | (with_reducible refine stepStarts_wk (hw.of rfl) ?_)
    | (with_reducible refine WorkKeeps.ite ?_ ?_)
    | intro _
    | split
    | dsimp only)

theorem stepLose_wk {ps : List DoorPart} {w0 w : Work} (hw : Inside [.step] ps) (h : WorkKeeps ps w0 w) (a1 : DoorEnv) (a2 : Nat) :
    WorkKeeps ps w0 (stepLose a1 a2 w) := by
  unfold stepLose
  repeat' (first
    | (with_reducible assumption)
    | (with_reducible refine Work.step_wk (hw.of rfl) ?_ _)
    | (with_reducible refine Work.stepEvent_wk (hw.of rfl) ?_ _ _ _ _)
    | (with_reducible refine Work.stepFlags_wk (hw.of rfl) ?_ _)
    | (with_reducible refine WorkKeeps.ite ?_ ?_)
    | intro _
    | split
    | dsimp only)

theorem stepTorqueRemoved_wk {ps : List DoorPart} {w0 w : Work} (hw : Inside [.step] ps) (h : WorkKeeps ps w0 w) (a1 : DoorEnv) :
    WorkKeeps ps w0 (stepTorqueRemoved a1 w) := by
  unfold stepTorqueRemoved
  repeat' (first
    | (with_reducible assumption)
    | (with_reducible refine stepLose_wk (hw.of rfl) ?_ _ _)
    | (with_reducible refine WorkKeeps.ite ?_ ?_)
    | intro _
    | split
    | dsimp only)

theorem stepFault_wk {ps : List DoorPart} {w0 w : Work} (hw : Inside [.step] ps) (h : WorkKeeps ps w0 w) (a1 : DoorEnv) (a2 : Nat) (a3 : Int) :
    WorkKeeps ps w0 (stepFault a1 a2 a3 w) := by
  unfold stepFault
  repeat' (first
    | (with_reducible assumption)
    | (with_reducible refine Work.step_wk (hw.of rfl) ?_ _)
    | (with_reducible refine Work.stepEvent_wk (hw.of rfl) ?_ _ _ _ _)
    | (with_reducible refine stepTorqueRemoved_wk (hw.of rfl) ?_ _)
    | (with_reducible refine WorkKeeps.ite ?_ ?_)
    | intro _
    | split
    | dsimp only)

theorem startHomingPhase_wk {ps : List DoorPart} {w0 w : Work} (hw : Inside [.step] ps) (h : WorkKeeps ps w0 w) (a1 : DoorEnv) (a2 : Bool) :
    WorkKeeps ps w0 (startHomingPhase a1 a2 w) := by
  unfold startHomingPhase
  repeat' (first
    | (with_reducible assumption)
    | (with_reducible refine Work.step_wk (hw.of rfl) ?_ _)
    | (with_reducible refine stepContext_wk (hw.of rfl) ?_ _ _ _ _)
    | (with_reducible refine stepFault_wk (hw.of rfl) ?_ _ _ _)
    | (with_reducible refine WorkKeeps.ite ?_ ?_)
    | intro _
    | split
    | dsimp only)

theorem startDeploy_wk {ps : List DoorPart} {w0 w : Work} (hw : Inside [.step] ps) (h : WorkKeeps ps w0 w) (a1 : DoorEnv) :
    WorkKeeps ps w0 (startDeploy a1 w) := by
  unfold startDeploy
  repeat' (first
    | (with_reducible assumption)
    | (with_reducible refine Work.emit_wk (hw.of rfl) ?_ _)
    | (with_reducible refine Work.step_wk (hw.of rfl) ?_ _)
    | (with_reducible refine startHomingPhase_wk (hw.of rfl) ?_ _ _)
    | (with_reducible refine stepContext_wk (hw.of rfl) ?_ _ _ _ _)
    | (with_reducible refine WorkKeeps.ite ?_ ?_)
    | intro _
    | split
    | dsimp only)

theorem startHoming_wk {ps : List DoorPart} {w0 w : Work} (hw : Inside [.step] ps) (h : WorkKeeps ps w0 w) (a1 : DoorEnv) :
    WorkKeeps ps w0 (startHoming a1 w) := by
  unfold startHoming
  repeat' (first
    | (with_reducible assumption)
    | (with_reducible refine startHomingPhase_wk (hw.of rfl) ?_ _ _)
    | (with_reducible refine stepContext_wk (hw.of rfl) ?_ _ _ _ _)
    | (with_reducible refine WorkKeeps.ite ?_ ?_)
    | intro _
    | split
    | dsimp only)

theorem startRetract_wk {ps : List DoorPart} {w0 w : Work} (hw : Inside [.step] ps) (h : WorkKeeps ps w0 w) (a1 : DoorEnv) :
    WorkKeeps ps w0 (startRetract a1 w) := by
  unfold startRetract
  repeat' (first
    | (with_reducible assumption)
    | (with_reducible refine Work.step_wk (hw.of rfl) ?_ _)
    | (with_reducible refine startHoming_wk (hw.of rfl) ?_ _)
    | (with_reducible refine WorkKeeps.ite ?_ ?_)
    | intro _
    | split
    | dsimp only)

theorem stepBeginsAgain_wk {ps : List DoorPart} {w0 w : Work} (hw : Inside [.step] ps) (h : WorkKeeps ps w0 w) (a1 : DoorEnv) (a2 : Bool) :
    WorkKeeps ps w0 (stepBeginsAgain a1 a2 w) := by
  unfold stepBeginsAgain
  repeat' (first
    | (with_reducible assumption)
    | (with_reducible refine Work.step_wk (hw.of rfl) ?_ _)
    | (with_reducible refine startDeploy_wk (hw.of rfl) ?_ _)
    | (with_reducible refine startRetract_wk (hw.of rfl) ?_ _)
    | (with_reducible refine WorkKeeps.ite ?_ ?_)
    | intro _
    | split
    | dsimp only)

theorem stepCarriesOn_wk {ps : List DoorPart} {w0 w : Work} (hw : Inside [.step] ps) (h : WorkKeeps ps w0 w) (a1 : DoorEnv) (a2 : Bool) :
    WorkKeeps ps w0 (stepCarriesOn a1 a2 w) := by
  unfold stepCarriesOn
  repeat' (first
    | (with_reducible assumption)
    | (with_reducible refine stepBeginsAgain_wk (hw.of rfl) ?_ _ _)
    | (with_reducible refine WorkKeeps.ite ?_ ?_)
    | intro _
    | split
    | dsimp only)

theorem stepResume_wk {ps : List DoorPart} {w0 w : Work} (hw : Inside [.step] ps) (h : WorkKeeps ps w0 w) (a1 : DoorEnv) :
    WorkKeeps ps w0 (stepResume a1 w) := by
  unfold stepResume
  repeat' (first
    | (with_reducible assumption)
    | (with_reducible refine Work.step_wk (hw.of rfl) ?_ _)
    | (with_reducible refine stepCarriesOn_wk (hw.of rfl) ?_ _ _)
    | (with_reducible refine WorkKeeps.ite ?_ ?_)
    | intro _
    | split
    | dsimp only)

theorem markSuspect_wk {ps : List DoorPart} {w0 w : Work} (hw : Inside [.door] ps) (h : WorkKeeps ps w0 w) (a1 : DoorEnv) (a2 : Nat) (a3 : Int) :
    WorkKeeps ps w0 (markSuspect a1 a2 a3 w) := by
  unfold markSuspect
  repeat' (first
    | (with_reducible assumption)
    | (with_reducible refine Work.door_wk (hw.of rfl) ?_ _)
    | (with_reducible refine Work.driveEvent_wk (hw.of rfl) ?_ _ _ _ _)
    | (with_reducible refine Work.emit_wk (hw.of rfl) ?_ _)
    | (with_reducible refine WorkKeeps.ite ?_ ?_)
    | intro _
    | split
    | dsimp only)

theorem hallSuspect_wk {ps : List DoorPart} {w0 w : Work} (hw : Inside [.door] ps) (h : WorkKeeps ps w0 w) (a1 : DoorEnv) :
    WorkKeeps ps w0 (hallSuspect a1 w) := by
  unfold hallSuspect
  repeat' (first
    | (with_reducible assumption)
    | (with_reducible refine Work.doorFlags_wk (hw.of rfl) ?_ _)
    | (with_reducible refine markSuspect_wk (hw.of rfl) ?_ _ _ _)
    | (with_reducible refine WorkKeeps.ite ?_ ?_)
    | intro _
    | split
    | dsimp only)

theorem doorFault_wk {ps : List DoorPart} {w0 w : Work} (hw : Inside [.door] ps) (h : WorkKeeps ps w0 w) (a1 : DoorEnv) (a2 : Nat) (a3 : Int) :
    WorkKeeps ps w0 (doorFault a1 a2 a3 w) := by
  unfold doorFault
  repeat' (first
    | (with_reducible assumption)
    | (with_reducible refine Work.door_wk (hw.of rfl) ?_ _)
    | (with_reducible refine Work.driveEvent_wk (hw.of rfl) ?_ _ _ _ _)
    | (with_reducible refine WorkKeeps.ite ?_ ?_)
    | intro _
    | split
    | dsimp only)

theorem doorInterrupted_wk {ps : List DoorPart} {w0 w : Work} (hw : Inside [.door, .obst] ps) (h : WorkKeeps ps w0 w) (a1 : DoorEnv) (a2 : Interruption) :
    WorkKeeps ps w0 (doorInterrupted a1 a2 w) := by
  unfold doorInterrupted
  repeat' (first
    | (with_reducible assumption)
    | (with_reducible refine Work.door_wk (hw.of rfl) ?_ _)
    | (with_reducible refine Work.driveEvent_wk (hw.of rfl) ?_ _ _ _ _)
    | (with_reducible refine Work.emit_wk (hw.of rfl) ?_ _)
    | (with_reducible refine Work.obstFlags_wk (hw.of rfl) ?_ _)
    | (with_reducible refine WorkKeeps.ite ?_ ?_)
    | intro _
    | split
    | dsimp only)

theorem stepInterrupted_wk {ps : List DoorPart} {w0 w : Work} (hw : Inside [.step] ps) (h : WorkKeeps ps w0 w) (a1 : DoorEnv) (a2 : Interruption) :
    WorkKeeps ps w0 (stepInterrupted a1 a2 w) := by
  unfold stepInterrupted
  repeat' (first
    | (with_reducible assumption)
    | (with_reducible refine Work.emit_wk (hw.of rfl) ?_ _)
    | (with_reducible refine Work.step_wk (hw.of rfl) ?_ _)
    | (with_reducible refine Work.stepEvent_wk (hw.of rfl) ?_ _ _ _ _)
    | (with_reducible refine stepTorqueRemoved_wk (hw.of rfl) ?_ _)
    | (with_reducible refine WorkKeeps.ite ?_ ?_)
    | intro _
    | split
    | dsimp only)

theorem doorInterruptionEnds_wk {ps : List DoorPart} {w0 w : Work} (hw : Inside [.door] ps) (h : WorkKeeps ps w0 w) (a1 : DoorEnv) (a2 : Interruption) :
    WorkKeeps ps w0 (doorInterruptionEnds a1 a2 w) := by
  unfold doorInterruptionEnds
  repeat' (first
    | (with_reducible assumption)
    | (with_reducible refine Work.door_wk (hw.of rfl) ?_ _)
    | (with_reducible refine WorkKeeps.ite ?_ ?_)
    | intro _
    | split
    | dsimp only)

theorem stepInterruptionEnds_wk {ps : List DoorPart} {w0 w : Work} (hw : Inside [.step] ps) (h : WorkKeeps ps w0 w) (a1 : DoorEnv) (a2 : Interruption) :
    WorkKeeps ps w0 (stepInterruptionEnds a1 a2 w) := by
  unfold stepInterruptionEnds
  repeat' (first
    | (with_reducible assumption)
    | (with_reducible refine Work.step_wk (hw.of rfl) ?_ _)
    | (with_reducible refine WorkKeeps.ite ?_ ?_)
    | intro _
    | split
    | dsimp only)

theorem relearn_wk {ps : List DoorPart} {w0 w : Work} (hw : Inside [.door, .cycle] ps) (h : WorkKeeps ps w0 w) (a1 : DoorEnv) :
    WorkKeeps ps w0 (relearn a1 w) := by
  unfold relearn
  repeat' (first
    | (with_reducible assumption)
    | (with_reducible refine Work.cycleFlags_wk (hw.of rfl) ?_ _)
    | (with_reducible refine Work.door_wk (hw.of rfl) ?_ _)
    | (with_reducible refine Work.driveEvent_wk (hw.of rfl) ?_ _ _ _ _)
    | (with_reducible refine WorkKeeps.ite ?_ ?_)
    | intro _
    | split
    | dsimp only)

theorem indexShift_wk {ps : List DoorPart} {w0 w : Work} (hw : Inside [.door, .cycle] ps) (h : WorkKeeps ps w0 w) (a1 : DoorEnv) (a2 : Int) :
    WorkKeeps ps w0 (indexShift a1 a2 w) := by
  unfold indexShift
  repeat' (first
    | (with_reducible assumption)
    | (with_reducible refine Work.cycleFlags_wk (hw.of rfl) ?_ _)
    | (with_reducible refine Work.door_wk (hw.of rfl) ?_ _)
    | (with_reducible refine Work.emit_wk (hw.of rfl) ?_ _)
    | (with_reducible refine WorkKeeps.ite ?_ ?_)
    | intro _
    | split
    | dsimp only)

theorem recordTrip_wk {ps : List DoorPart} {w0 w : Work} (hw : Inside [.obst] ps) (h : WorkKeeps ps w0 w) (a1 : DoorEnv) (a2 : Nat) :
    WorkKeeps ps w0 (recordTrip a1 a2 w) := by
  unfold recordTrip
  repeat' (first
    | (with_reducible assumption)
    | (with_reducible refine Work.obst_wk (hw.of rfl) ?_ _)
    | (with_reducible refine WorkKeeps.ite ?_ ?_)
    | intro _
    | split
    | dsimp only)

theorem tripEvent_wk {ps : List DoorPart} {w0 w : Work} (hw : Inside [] ps) (h : WorkKeeps ps w0 w) (a1 : DoorEnv) :
    WorkKeeps ps w0 (tripEvent a1 w) := by
  unfold tripEvent
  repeat' (first
    | (with_reducible assumption)
    | (with_reducible refine Work.obstEvent_wk (hw.of rfl) ?_ _ _ _ _ _)
    | (with_reducible refine WorkKeeps.ite ?_ ?_)
    | intro _
    | split
    | dsimp only)

theorem countFinalClosure_wk {ps : List DoorPart} {w0 w : Work} (hw : Inside [.obst] ps) (h : WorkKeeps ps w0 w) :
    WorkKeeps ps w0 (countFinalClosure w) := by
  unfold countFinalClosure
  repeat' (first
    | (with_reducible assumption)
    | (with_reducible refine Work.obst_wk (hw.of rfl) ?_ _)
    | (with_reducible refine WorkKeeps.ite ?_ ?_)
    | intro _
    | split
    | dsimp only)

theorem stepChop_wk {ps : List DoorPart} {w0 w : Work} (hw : Inside [.step] ps) (h : WorkKeeps ps w0 w) (a1 : DoorEnv) :
    WorkKeeps ps w0 (stepChop a1 w) := by
  unfold stepChop
  repeat' (first
    | (with_reducible assumption)
    | (with_reducible refine Work.step_wk (hw.of rfl) ?_ _)
    | (with_reducible refine WorkKeeps.ite ?_ ?_)
    | intro _
    | split
    | dsimp only)

theorem doorSample_wk {ps : List DoorPart} {w0 w : Work} (hw : Inside [.door] ps) (h : WorkKeeps ps w0 w) (a1 : DoorEnv) (a2 : Nat) :
    WorkKeeps ps w0 (doorSample a1 a2 w) := by
  unfold doorSample
  repeat' (first
    | (with_reducible assumption)
    | (with_reducible refine Work.door_wk (hw.of rfl) ?_ _)
    | (with_reducible refine doorCompare_wk (hw.of rfl) ?_ _)
    | (with_reducible refine WorkKeeps.ite ?_ ?_)
    | intro _
    | split
    | dsimp only)

theorem doorSamples_wk {ps : List DoorPart} {w0 w : Work} (hw : Inside [.door] ps) (h : WorkKeeps ps w0 w) (a1 : DoorEnv) :
    WorkKeeps ps w0 (doorSamples a1 w) := by
  unfold doorSamples
  repeat' (first
    | (with_reducible assumption)
    | (with_reducible refine Work.door_wk (hw.of rfl) ?_ _)
    | (with_reducible refine doorSample_wk (hw.of rfl) ?_ _ _)
    | (with_reducible refine WorkKeeps.ite ?_ ?_)
    | (with_reducible refine WorkKeeps.foldl _ (fun _ _ _ => ?_) ?_)
    | intro _
    | split
    | dsimp only)

theorem stepOff_wk {ps : List DoorPart} {w0 w : Work} (hw : Inside [.step] ps) (h : WorkKeeps ps w0 w) (a1 : DoorEnv) :
    WorkKeeps ps w0 (stepOff a1 w) := by
  unfold stepOff
  repeat' (first
    | (with_reducible assumption)
    | (with_reducible refine Work.step_wk (hw.of rfl) ?_ _)
    | (with_reducible refine stepTorqueRemoved_wk (hw.of rfl) ?_ _)
    | (with_reducible refine WorkKeeps.ite ?_ ?_)
    | intro _
    | split
    | dsimp only)

theorem startPark_wk {ps : List DoorPart} {w0 w : Work} (hw : Inside [.step] ps) (h : WorkKeeps ps w0 w) (a1 : DoorEnv) :
    WorkKeeps ps w0 (startPark a1 w) := by
  unfold startPark
  repeat' (first
    | (with_reducible assumption)
    | (with_reducible refine Work.step_wk (hw.of rfl) ?_ _)
    | (with_reducible refine WorkKeeps.ite ?_ ?_)
    | intro _
    | split
    | dsimp only)

theorem stepCompletes_wk {ps : List DoorPart} {w0 w : Work} (hw : Inside [.step] ps) (h : WorkKeeps ps w0 w) (a1 : DoorEnv) :
    WorkKeeps ps w0 (stepCompletes a1 w) := by
  unfold stepCompletes
  repeat' (first
    | (with_reducible assumption)
    | (with_reducible refine Work.step_wk (hw.of rfl) ?_ _)
    | (with_reducible refine stepLose_wk (hw.of rfl) ?_ _ _)
    | (with_reducible refine WorkKeeps.ite ?_ ?_)
    | intro _
    | split
    | dsimp only)

theorem finishPark_wk {ps : List DoorPart} {w0 w : Work} (hw : Inside [.step] ps) (h : WorkKeeps ps w0 w) (a1 : DoorEnv) :
    WorkKeeps ps w0 (finishPark a1 w) := by
  unfold finishPark
  repeat' (first
    | (with_reducible assumption)
    | (with_reducible refine Work.step_wk (hw.of rfl) ?_ _)
    | (with_reducible refine Work.stepEvent_wk (hw.of rfl) ?_ _ _ _ _)
    | (with_reducible refine startDeploy_wk (hw.of rfl) ?_ _)
    | (with_reducible refine WorkKeeps.ite ?_ ?_)
    | intro _
    | split
    | dsimp only)

theorem homingStall_wk {ps : List DoorPart} {w0 w : Work} (hw : Inside [.step] ps) (h : WorkKeeps ps w0 w) (a1 : DoorEnv) (a2 : Int) :
    WorkKeeps ps w0 (homingStall a1 a2 w) := by
  unfold homingStall
  repeat' (first
    | (with_reducible assumption)
    | (with_reducible refine Work.step_wk (hw.of rfl) ?_ _)
    | (with_reducible refine Work.stepEvent_wk (hw.of rfl) ?_ _ _ _ _)
    | (with_reducible refine Work.stepFlags_wk (hw.of rfl) ?_ _)
    | (with_reducible refine startPark_wk (hw.of rfl) ?_ _)
    | (with_reducible refine WorkKeeps.ite ?_ ?_)
    | intro _
    | split
    | dsimp only)

theorem stallCounts_wk {ps : List DoorPart} {w0 w : Work} (hw : Inside [.step] ps) (h : WorkKeeps ps w0 w) (a1 : DoorEnv) (a2 : Nat) (a3 : Int) :
    WorkKeeps ps w0 (stallCounts a1 a2 a3 w) := by
  unfold stallCounts
  repeat' (first
    | (with_reducible assumption)
    | (with_reducible refine Work.step_wk (hw.of rfl) ?_ _)
    | (with_reducible refine Work.stepEvent_wk (hw.of rfl) ?_ _ _ _ _)
    | (with_reducible refine WorkKeeps.ite ?_ ?_)
    | intro _
    | split
    | dsimp only)

theorem retractionObstructed_wk {ps : List DoorPart} {w0 w : Work} (hw : Inside [.step, .cycle] ps) (h : WorkKeeps ps w0 w) (a1 : DoorEnv) :
    WorkKeeps ps w0 (retractionObstructed a1 w) := by
  unfold retractionObstructed
  repeat' (first
    | (with_reducible assumption)
    | (with_reducible refine Work.cycleFlags_wk (hw.of rfl) ?_ _)
    | (with_reducible refine Work.step_wk (hw.of rfl) ?_ _)
    | (with_reducible refine stepLose_wk (hw.of rfl) ?_ _ _)
    | (with_reducible refine WorkKeeps.ite ?_ ?_)
    | intro _
    | split
    | dsimp only)

theorem deployFails_wk {ps : List DoorPart} {w0 w : Work} (hw : Inside [.step, .cycle] ps) (h : WorkKeeps ps w0 w) (a1 : DoorEnv) :
    WorkKeeps ps w0 (deployFails a1 w).1 := by
  unfold deployFails
  repeat' (first
    | (with_reducible assumption)
    | (with_reducible refine Work.cycleFlags_wk (hw.of rfl) ?_ _)
    | (with_reducible refine Work.step_wk (hw.of rfl) ?_ _)
    | (with_reducible refine startHoming_wk (hw.of rfl) ?_ _)
    | (with_reducible refine WorkKeeps.ite ?_ ?_)
    | intro _
    | split
    | dsimp only)

theorem deployStall_wk {ps : List DoorPart} {w0 w : Work} (hw : Inside [.step, .cycle] ps) (h : WorkKeeps ps w0 w) (a1 : DoorEnv) (a2 : Int) :
    WorkKeeps ps w0 (deployStall a1 a2 w).1 := by
  unfold deployStall
  repeat' (first
    | (with_reducible assumption)
    | (with_reducible refine Work.step_wk (hw.of rfl) ?_ _)
    | (with_reducible refine deployFails_wk (hw.of rfl) ?_ _)
    | (with_reducible refine stallCounts_wk (hw.of rfl) ?_ _ _ _)
    | (with_reducible refine stepLose_wk (hw.of rfl) ?_ _ _)
    | (with_reducible refine WorkKeeps.ite ?_ ?_)
    | intro _
    | split
    | dsimp only)

theorem stepStall_wk {ps : List DoorPart} {w0 w : Work} (hw : Inside [.step, .cycle] ps) (h : WorkKeeps ps w0 w) (a1 : DoorEnv) (a2 : Int) :
    WorkKeeps ps w0 (stepStall a1 a2 w).1 := by
  unfold stepStall
  repeat' (first
    | (with_reducible assumption)
    | (with_reducible refine deployStall_wk (hw.of rfl) ?_ _ _)
    | (with_reducible refine homingStall_wk (hw.of rfl) ?_ _ _)
    | (with_reducible refine retractionObstructed_wk (hw.of rfl) ?_ _)
    | (with_reducible refine stallCounts_wk (hw.of rfl) ?_ _ _ _)
    | (with_reducible refine stepFault_wk (hw.of rfl) ?_ _ _ _)
    | (with_reducible refine WorkKeeps.ite ?_ ?_)
    | intro _
    | split
    | dsimp only)

theorem checkDeployed_wk {ps : List DoorPart} {w0 w : Work} (hw : Inside [.step] ps) (h : WorkKeeps ps w0 w) (a1 : DoorEnv) :
    WorkKeeps ps w0 (checkDeployed a1 w) := by
  unfold checkDeployed
  repeat' (first
    | (with_reducible assumption)
    | (with_reducible refine Work.step_wk (hw.of rfl) ?_ _)
    | (with_reducible refine WorkKeeps.ite ?_ ?_)
    | intro _
    | split
    | dsimp only)

theorem deployCompletes_wk {ps : List DoorPart} {w0 w : Work} (hw : Inside [.step] ps) (h : WorkKeeps ps w0 w) (a1 : DoorEnv) :
    WorkKeeps ps w0 (deployCompletes a1 w) := by
  unfold deployCompletes
  repeat' (first
    | (with_reducible assumption)
    | (with_reducible refine Work.step_wk (hw.of rfl) ?_ _)
    | (with_reducible refine checkDeployed_wk (hw.of rfl) ?_ _)
    | (with_reducible refine stepCompletes_wk (hw.of rfl) ?_ _)
    | (with_reducible refine WorkKeeps.ite ?_ ?_)
    | intro _
    | split
    | dsimp only)

theorem stepPathEnds_wk {ps : List DoorPart} {w0 w : Work} (hw : Inside [.step] ps) (h : WorkKeeps ps w0 w) (a1 : DoorEnv) :
    WorkKeeps ps w0 (stepPathEnds a1 w) := by
  unfold stepPathEnds
  repeat' (first
    | (with_reducible assumption)
    | (with_reducible refine deployCompletes_wk (hw.of rfl) ?_ _)
    | (with_reducible refine finishPark_wk (hw.of rfl) ?_ _)
    | (with_reducible refine startHomingPhase_wk (hw.of rfl) ?_ _ _)
    | (with_reducible refine stepCompletes_wk (hw.of rfl) ?_ _)
    | (with_reducible refine stepFault_wk (hw.of rfl) ?_ _ _ _)
    | (with_reducible refine WorkKeeps.ite ?_ ?_)
    | intro _
    | split
    | dsimp only)

theorem srsTransition_wk {ps : List DoorPart} {w0 w : Work} (hw : Inside [.step, .cycle] ps) (h : WorkKeeps ps w0 w) (a1 : DoorEnv) (a2 : Bool) :
    WorkKeeps ps w0 (srsTransition a1 a2 w) := by
  unfold srsTransition
  repeat' (first
    | (with_reducible assumption)
    | (with_reducible refine Work.cycleFlags_wk (hw.of rfl) ?_ _)
    | (with_reducible refine Work.step_wk (hw.of rfl) ?_ _)
    | (with_reducible refine Work.stepEvent_wk (hw.of rfl) ?_ _ _ _ _)
    | (with_reducible refine WorkKeeps.ite ?_ ?_)
    | intro _
    | split
    | dsimp only)

theorem cycleAccount_wk {ps : List DoorPart} {w0 w : Work} (hw : Inside [.cycle] ps) (h : WorkKeeps ps w0 w) (a1 : DoorEnv) :
    WorkKeeps ps w0 (cycleAccount a1 w) := by
  unfold cycleAccount
  repeat' (first
    | (with_reducible assumption)
    | (with_reducible refine Work.cyc_wk (hw.of rfl) ?_ _)
    | (with_reducible refine WorkKeeps.ite ?_ ?_)
    | intro _
    | split
    | dsimp only)

theorem cycleStart_wk {ps : List DoorPart} {w0 w : Work} (hw : Inside [.cycle] ps) (h : WorkKeeps ps w0 w) (a1 : DoorEnv) (a2 : Nat) :
    WorkKeeps ps w0 (cycleStart a1 a2 w) := by
  unfold cycleStart
  repeat' (first
    | (with_reducible assumption)
    | (with_reducible refine Work.setCycle_wk (hw.of rfl) ?_ _)
    | (with_reducible refine WorkKeeps.ite ?_ ?_)
    | intro _
    | split
    | dsimp only)

theorem cycleBegin_wk {ps : List DoorPart} {w0 w : Work} (hw : Inside [.cycle] ps) (h : WorkKeeps ps w0 w) (a1 : DoorEnv) (a2 : Nat) :
    WorkKeeps ps w0 (cycleBegin a1 a2 w) := by
  unfold cycleBegin
  repeat' (first
    | (with_reducible assumption)
    | (with_reducible refine cycleStart_wk (hw.of rfl) ?_ _ _)
    | (with_reducible refine WorkKeeps.ite ?_ ?_)
    | intro _
    | split
    | dsimp only)

theorem cycleEnd_wk {ps : List DoorPart} {w0 w : Work} (hw : Inside [.cycle] ps) (h : WorkKeeps ps w0 w) (a1 : Nat) :
    WorkKeeps ps w0 (cycleEnd a1 w) := by
  unfold cycleEnd
  repeat' (first
    | (with_reducible assumption)
    | (with_reducible refine Work.emit_wk (hw.of rfl) ?_ _)
    | (with_reducible refine Work.setCycle_wk (hw.of rfl) ?_ _)
    | (with_reducible refine WorkKeeps.ite ?_ ?_)
    | intro _
    | split
    | dsimp only)

theorem entryMarks_wk {ps : List DoorPart} {w0 w : Work} (hw : Inside [.sm, .cycle] ps) (h : WorkKeeps ps w0 w) (a1 : DoorEnv) (a2 : DoorState) (a3 : DoorState) (a4 : Phase) :
    WorkKeeps ps w0 (entryMarks a1 a2 a3 a4 w) := by
  unfold entryMarks
  repeat' (first
    | (with_reducible assumption)
    | (with_reducible refine Work.count_wk (hw.of rfl) ?_ _)
    | (with_reducible refine Work.cycleFlags_wk (hw.of rfl) ?_ _)
    | (with_reducible refine Work.emit_wk (hw.of rfl) ?_ _)
    | (with_reducible refine Work.sm_wk (hw.of rfl) ?_ _)
    | (with_reducible refine Work.smFlags_wk (hw.of rfl) ?_ _)
    | (with_reducible refine cycleEnd_wk (hw.of rfl) ?_ _)
    | (with_reducible refine WorkKeeps.ite ?_ ?_)
    | intro _
    | split
    | dsimp only)

theorem leaveFault_wk {ps : List DoorPart} {w0 w : Work} (hw : Inside [.door, .step] ps) (h : WorkKeeps ps w0 w) :
    WorkKeeps ps w0 (leaveFault w) := by
  unfold leaveFault
  repeat' (first
    | (with_reducible assumption)
    | (with_reducible refine Work.door_wk (hw.of rfl) ?_ _)
    | (with_reducible refine Work.emit_wk (hw.of rfl) ?_ _)
    | (with_reducible refine Work.step_wk (hw.of rfl) ?_ _)
    | (with_reducible refine WorkKeeps.ite ?_ ?_)
    | intro _
    | split
    | dsimp only)

theorem enter_wk {ps : List DoorPart} {w0 w : Work} (hw : Inside [.sm, .door, .step, .cycle] ps) (h : WorkKeeps ps w0 w) (a1 : DoorEnv) (a2 : DoorState) (a3 : Phase) (a4 : Option Cause) :
    WorkKeeps ps w0 (enter a1 a2 a3 a4 w) := by
  unfold enter
  repeat' (first
    | (with_reducible assumption)
    | (with_reducible refine Work.sm_wk (hw.of rfl) ?_ _)
    | (with_reducible refine cycleAccount_wk (hw.of rfl) ?_ _)
    | (with_reducible refine cycleBegin_wk (hw.of rfl) ?_ _ _)
    | (with_reducible refine entryMarks_wk (hw.of rfl) ?_ _ _ _ _)
    | (with_reducible refine leaveFault_wk (hw.of rfl) ?_)
    | (with_reducible refine WorkKeeps.ite ?_ ?_)
    | intro _
    | split
    | dsimp only)

theorem maintCourse_wk {ps : List DoorPart} {w0 w : Work} (hw : Inside [.sm, .cycle] ps) (h : WorkKeeps ps w0 w) (a1 : DoorEnv) (a2 : DoorState) (a3 : Phase) :
    WorkKeeps ps w0 (maintCourse a1 a2 a3 w) := by
  unfold maintCourse
  repeat' (first
    | (with_reducible assumption)
    | (with_reducible refine Work.sm_wk (hw.of rfl) ?_ _)
    | (with_reducible refine cycleAccount_wk (hw.of rfl) ?_ _)
    | (with_reducible refine WorkKeeps.ite ?_ ?_)
    | intro _
    | split
    | dsimp only)

theorem goTo_wk {ps : List DoorPart} {w0 w : Work} (hw : Inside [.sm, .door, .step, .cycle] ps) (h : WorkKeeps ps w0 w) (a1 : DoorEnv) (a2 : DoorState) (a3 : Phase) (a4 : Option Cause) :
    WorkKeeps ps w0 (goTo a1 a2 a3 a4 w) := by
  unfold goTo
  repeat' (first
    | (with_reducible assumption)
    | (with_reducible refine enter_wk (hw.of rfl) ?_ _ _ _ _)
    | (with_reducible refine maintCourse_wk (hw.of rfl) ?_ _ _ _)
    | (with_reducible refine WorkKeeps.ite ?_ ?_)
    | intro _
    | split
    | dsimp only)

theorem maintStops_wk {ps : List DoorPart} {w0 w : Work} (hw : Inside [.sm, .obst] ps) (h : WorkKeeps ps w0 w) (a1 : Nat) (a2 : Nat) :
    WorkKeeps ps w0 (maintStops a1 a2 w) := by
  unfold maintStops
  repeat' (first
    | (with_reducible assumption)
    | (with_reducible refine Work.emit_wk (hw.of rfl) ?_ _)
    | (with_reducible refine Work.obstFlags_wk (hw.of rfl) ?_ _)
    | (with_reducible refine Work.sm_wk (hw.of rfl) ?_ _)
    | (with_reducible refine WorkKeeps.ite ?_ ?_)
    | intro _
    | split
    | dsimp only)

theorem finishClosed_wk {ps : List DoorPart} {w0 w : Work} (hw : Inside [.sm, .door, .step, .obst, .cycle] ps) (h : WorkKeeps ps w0 w) (a1 : DoorEnv) :
    WorkKeeps ps w0 (finishClosed a1 w) := by
  unfold finishClosed
  repeat' (first
    | (with_reducible assumption)
    | (with_reducible refine doorOff_wk (hw.of rfl) ?_)
    | (with_reducible refine enter_wk (hw.of rfl) ?_ _ _ _ _)
    | (with_reducible refine WorkKeeps.ite ?_ ?_)
    | intro _
    | split
    | dsimp only)

theorem backFromUnlocking_wk {ps : List DoorPart} {w0 w : Work} (hw : Inside [.sm, .door, .step, .obst, .cycle] ps) (h : WorkKeeps ps w0 w) (a1 : DoorEnv) (a2 : Option Cause) :
    WorkKeeps ps w0 (backFromUnlocking a1 a2 w) := by
  unfold backFromUnlocking
  repeat' (first
    | (with_reducible assumption)
    | (with_reducible refine Work.smFlags_wk (hw.of rfl) ?_ _)
    | (with_reducible refine doorOff_wk (hw.of rfl) ?_)
    | (with_reducible refine enter_wk (hw.of rfl) ?_ _ _ _ _)
    | (with_reducible refine startRetract_wk (hw.of rfl) ?_ _)
    | (with_reducible refine WorkKeeps.ite ?_ ?_)
    | intro _
    | split
    | dsimp only)

theorem enterLock_wk {ps : List DoorPart} {w0 w : Work} (hw : Inside [.sm, .door, .step, .obst, .cycle] ps) (h : WorkKeeps ps w0 w) (a1 : DoorEnv) :
    WorkKeeps ps w0 (enterLock a1 w) := by
  unfold enterLock
  repeat' (first
    | (with_reducible assumption)
    | (with_reducible refine Work.door_wk (hw.of rfl) ?_ _)
    | (with_reducible refine Work.obstFlags_wk (hw.of rfl) ?_ _)
    | (with_reducible refine Work.sm_wk (hw.of rfl) ?_ _)
    | (with_reducible refine doorHold_wk (hw.of rfl) ?_ _)
    | (with_reducible refine goTo_wk (hw.of rfl) ?_ _ _ _ _)
    | (with_reducible refine startRetract_wk (hw.of rfl) ?_ _)
    | (with_reducible refine WorkKeeps.ite ?_ ?_)
    | intro _
    | split
    | dsimp only)

theorem adaptStroke_wk {ps : List DoorPart} {w0 w : Work} (hw : Inside [.obst] ps) (h : WorkKeeps ps w0 w) (a1 : DoorEnv) (a2 : Bool) :
    WorkKeeps ps w0 (adaptStroke a1 a2 w) := by
  unfold adaptStroke
  repeat' (first
    | (with_reducible assumption)
    | (with_reducible refine Work.obst_wk (hw.of rfl) ?_ _)
    | (with_reducible refine Work.obstEvent_wk (hw.of rfl) ?_ _ _ _ _ _)
    | (with_reducible refine WorkKeeps.ite ?_ ?_)
    | intro _
    | split
    | dsimp only)

theorem closureMeasured_wk {ps : List DoorPart} {w0 w : Work} (hw : Inside [.obst, .cycle] ps) (h : WorkKeeps ps w0 w) (a1 : DoorEnv) :
    WorkKeeps ps w0 (closureMeasured a1 w) := by
  unfold closureMeasured
  repeat' (first
    | (with_reducible assumption)
    | (with_reducible refine Work.cyc_wk (hw.of rfl) ?_ _)
    | (with_reducible refine Work.obst_wk (hw.of rfl) ?_ _)
    | (with_reducible refine WorkKeeps.ite ?_ ?_)
    | intro _
    | split
    | dsimp only)

theorem strokeEnds_wk {ps : List DoorPart} {w0 w : Work} (hw : Inside [.sm, .door, .step, .obst, .cycle] ps) (h : WorkKeeps ps w0 w) (a1 : DoorEnv) :
    WorkKeeps ps w0 (strokeEnds a1 w) := by
  unfold strokeEnds
  repeat' (first
    | (with_reducible assumption)
    | (with_reducible refine adaptStroke_wk (hw.of rfl) ?_ _ _)
    | (with_reducible refine closureMeasured_wk (hw.of rfl) ?_ _)
    | (with_reducible refine enterLock_wk (hw.of rfl) ?_ _)
    | (with_reducible refine WorkKeeps.ite ?_ ?_)
    | intro _
    | split
    | dsimp only)

theorem unlessReflexStop_wk {ps : List DoorPart} {w0 w : Work} (hw : Inside [] ps) (h : WorkKeeps ps w0 w) {a1 : (Work → Work)} (hf : ∀ u, WorkKeeps ps w0 u → WorkKeeps ps w0 (a1 u)) :
    WorkKeeps ps w0 (unlessReflexStop a1 w) := by
  unfold unlessReflexStop
  repeat' (first
    | (with_reducible assumption)
    | (with_reducible apply hf)
    | (with_reducible refine WorkKeeps.ite ?_ ?_)
    | intro _
    | split
    | dsimp only)

theorem enterDwell_wk {ps : List DoorPart} {w0 w : Work} (hw : Inside [.sm, .door, .step, .cycle] ps) (h : WorkKeeps ps w0 w) (a1 : DoorEnv) :
    WorkKeeps ps w0 (enterDwell a1 w) := by
  unfold enterDwell
  repeat' (first
    | (with_reducible assumption)
    | (with_reducible refine enter_wk (hw.of rfl) ?_ _ _ _ _)
    | (with_reducible refine WorkKeeps.ite ?_ ?_)
    | intro _
    | split
    | dsimp only)

theorem reopenMotion_wk {ps : List DoorPart} {w0 w : Work} (hw : Inside [.sm, .door, .step, .obst, .cycle] ps) (h : WorkKeeps ps w0 w) (a1 : DoorEnv) :
    WorkKeeps ps w0 (reopenMotion a1 w) := by
  unfold reopenMotion
  repeat' (first
    | (with_reducible assumption)
    | (with_reducible refine Work.door_wk (hw.of rfl) ?_ _)
    | (with_reducible refine Work.emit_wk (hw.of rfl) ?_ _)
    | (with_reducible refine Work.obstFlags_wk (hw.of rfl) ?_ _)
    | (with_reducible refine doorContext_wk (hw.of rfl) ?_ _ _ _)
    | (with_reducible refine doorHold_wk (hw.of rfl) ?_ _)
    | (with_reducible refine doorMove_wk (hw.of rfl) ?_ _ _ _ _)
    | (with_reducible refine enterDwell_wk (hw.of rfl) ?_ _)
    | (with_reducible refine WorkKeeps.ite ?_ ?_)
    | intro _
    | split
    | dsimp only)

theorem afterReflexStop_wk {ps : List DoorPart} {w0 w : Work} (hw : Inside [.sm, .door, .step, .obst, .cycle] ps) (h : WorkKeeps ps w0 w) (a1 : DoorEnv) :
    WorkKeeps ps w0 (afterReflexStop a1 w) := by
  unfold afterReflexStop
  repeat' (first
    | (with_reducible assumption)
    | (with_reducible refine Work.door_wk (hw.of rfl) ?_ _)
    | (with_reducible refine Work.obstFlags_wk (hw.of rfl) ?_ _)
    | (with_reducible refine doorHold_wk (hw.of rfl) ?_ _)
    | (with_reducible refine doorStartClose_wk (hw.of rfl) ?_ _)
    | (with_reducible refine doorStartOpen_wk (hw.of rfl) ?_ _)
    | (with_reducible refine enterDwell_wk (hw.of rfl) ?_ _)
    | (with_reducible refine reopenMotion_wk (hw.of rfl) ?_ _)
    | (with_reducible refine WorkKeeps.ite ?_ ?_)
    | intro _
    | split
    | dsimp only)

theorem reflexStopStart_wk {ps : List DoorPart} {w0 w : Work} (hw : Inside [.sm, .door, .step, .obst, .cycle] ps) (h : WorkKeeps ps w0 w) (a1 : DoorEnv) :
    WorkKeeps ps w0 (reflexStopStart a1 w) := by
  unfold reflexStopStart
  repeat' (first
    | (with_reducible assumption)
    | (with_reducible refine Work.door_wk (hw.of rfl) ?_ _)
    | (with_reducible refine Work.obstFlags_wk (hw.of rfl) ?_ _)
    | (with_reducible refine afterReflexStop_wk (hw.of rfl) ?_ _)
    | (with_reducible refine WorkKeeps.ite ?_ ?_)
    | intro _
    | split
    | dsimp only)

theorem tripClosing_wk {ps : List DoorPart} {w0 w : Work} (hw : Inside [.sm, .door, .step, .obst, .cycle] ps) (h : WorkKeeps ps w0 w) (a1 : DoorEnv) :
    WorkKeeps ps w0 (tripClosing a1 w) := by
  unfold tripClosing
  repeat' (first
    | (with_reducible assumption)
    | (with_reducible refine Work.obst_wk (hw.of rfl) ?_ _)
    | (with_reducible refine Work.obstEvent_wk (hw.of rfl) ?_ _ _ _ _ _)
    | (with_reducible refine Work.sm_wk (hw.of rfl) ?_ _)
    | (with_reducible refine enter_wk (hw.of rfl) ?_ _ _ _ _)
    | (with_reducible refine reflexStopStart_wk (hw.of rfl) ?_ _)
    | (with_reducible refine tripEvent_wk (hw.of rfl) ?_ _)
    | (with_reducible refine WorkKeeps.ite ?_ ?_)
    | intro _
    | split
    | dsimp only)

theorem raiseAgain_wk {ps : List DoorPart} {w0 w : Work} (hw : Inside [.sm, .door, .step, .obst, .cycle] ps) (h : WorkKeeps ps w0 w) (a1 : DoorEnv) (a2 : Nat) :
    WorkKeeps ps w0 (raiseAgain a1 a2 w) := by
  unfold raiseAgain
  repeat' (first
    | (with_reducible assumption)
    | (with_reducible refine Work.count_wk (hw.of rfl) ?_ _)
    | (with_reducible refine Work.cyc_wk (hw.of rfl) ?_ _)
    | (with_reducible refine Work.obst_wk (hw.of rfl) ?_ _)
    | (with_reducible refine recordTrip_wk (hw.of rfl) ?_ _ _)
    | (with_reducible refine tripClosing_wk (hw.of rfl) ?_ _)
    | (with_reducible refine WorkKeeps.ite ?_ ?_)
    | intro _
    | split
    | dsimp only)

theorem enterMove_wk {ps : List DoorPart} {w0 w : Work} (hw : Inside [.sm, .door, .step, .obst, .cycle] ps) (h : WorkKeeps ps w0 w) (a1 : DoorEnv) :
    WorkKeeps ps w0 (enterMove a1 w) := by
  unfold enterMove
  repeat' (first
    | (with_reducible assumption)
    | (with_reducible refine doorResume_wk (hw.of rfl) ?_ _)
    | (with_reducible refine doorStartClose_wk (hw.of rfl) ?_ _)
    | (with_reducible refine enter_wk (hw.of rfl) ?_ _ _ _ _)
    | (with_reducible refine goTo_wk (hw.of rfl) ?_ _ _ _ _)
    | (with_reducible refine maintStops_wk (hw.of rfl) ?_ _ _)
    | (with_reducible refine raiseAgain_wk (hw.of rfl) ?_ _ _)
    | (with_reducible refine unlessReflexStop_wk (hw.of rfl) ?_ ?_)
    | (with_reducible refine WorkKeeps.ite ?_ ?_)
    | intro _
    | split
    | dsimp only)

theorem enterWarn_wk {ps : List DoorPart} {w0 w : Work} (hw : Inside [.sm, .door, .step, .obst, .cycle] ps) (h : WorkKeeps ps w0 w) (a1 : DoorEnv) (a2 : Option Cause) (a3 : Bool) :
    WorkKeeps ps w0 (enterWarn a1 a2 a3 w) := by
  unfold enterWarn
  repeat' (first
    | (with_reducible assumption)
    | (with_reducible refine Work.door_wk (hw.of rfl) ?_ _)
    | (with_reducible refine Work.sm_wk (hw.of rfl) ?_ _)
    | (with_reducible refine doorHold_wk (hw.of rfl) ?_ _)
    | (with_reducible refine enterMove_wk (hw.of rfl) ?_ _)
    | (with_reducible refine goTo_wk (hw.of rfl) ?_ _ _ _ _)
    | (with_reducible refine unlessReflexStop_wk (hw.of rfl) ?_ ?_)
    | (with_reducible refine WorkKeeps.ite ?_ ?_)
    | intro _
    | split
    | dsimp only)

theorem enterUnlocking_wk {ps : List DoorPart} {w0 w : Work} (hw : Inside [.sm, .door, .step, .cycle] ps) (h : WorkKeeps ps w0 w) (a1 : DoorEnv) (a2 : Cause) :
    WorkKeeps ps w0 (enterUnlocking a1 a2 w) := by
  unfold enterUnlocking
  repeat' (first
    | (with_reducible assumption)
    | (with_reducible refine Work.emit_wk (hw.of rfl) ?_ _)
    | (with_reducible refine Work.smFlags_wk (hw.of rfl) ?_ _)
    | (with_reducible refine Work.step_wk (hw.of rfl) ?_ _)
    | (with_reducible refine doorHold_wk (hw.of rfl) ?_ _)
    | (with_reducible refine goTo_wk (hw.of rfl) ?_ _ _ _ _)
    | (with_reducible refine startDeploy_wk (hw.of rfl) ?_ _)
    | (with_reducible refine WorkKeeps.ite ?_ ?_)
    | intro _
    | split
    | dsimp only)

theorem enterOpening_wk {ps : List DoorPart} {w0 w : Work} (hw : Inside [.sm, .door, .step, .obst, .cycle] ps) (h : WorkKeeps ps w0 w) (a1 : DoorEnv) (a2 : Option Cause) :
    WorkKeeps ps w0 (enterOpening a1 a2 w) := by
  unfold enterOpening
  repeat' (first
    | (with_reducible assumption)
    | (with_reducible refine Work.sm_wk (hw.of rfl) ?_ _)
    | (with_reducible refine Work.step_wk (hw.of rfl) ?_ _)
    | (with_reducible refine doorStartOpen_wk (hw.of rfl) ?_ _)
    | (with_reducible refine goTo_wk (hw.of rfl) ?_ _ _ _ _)
    | (with_reducible refine startDeploy_wk (hw.of rfl) ?_ _)
    | (with_reducible refine unlessReflexStop_wk (hw.of rfl) ?_ ?_)
    | (with_reducible refine WorkKeeps.ite ?_ ?_)
    | intro _
    | split
    | dsimp only)

theorem tryOpened_wk {ps : List DoorPart} {w0 w : Work} (hw : Inside [.sm, .door, .step, .obst, .cycle] ps) (h : WorkKeeps ps w0 w) (a1 : DoorEnv) :
    WorkKeeps ps w0 (tryOpened a1 w) := by
  unfold tryOpened
  repeat' (first
    | (with_reducible assumption)
    | (with_reducible refine Work.sm_wk (hw.of rfl) ?_ _)
    | (with_reducible refine adaptStroke_wk (hw.of rfl) ?_ _ _)
    | (with_reducible refine goTo_wk (hw.of rfl) ?_ _ _ _ _)
    | (with_reducible refine WorkKeeps.ite ?_ ?_)
    | intro _
    | split
    | dsimp only)

theorem stopDrives_wk {ps : List DoorPart} {w0 w : Work} (hw : Inside [.door, .step] ps) (h : WorkKeeps ps w0 w) (a1 : DoorEnv) (a2 : Bool) :
    WorkKeeps ps w0 (stopDrives a1 a2 w) := by
  unfold stopDrives
  repeat' (first
    | (with_reducible assumption)
    | (with_reducible refine Work.door_wk (hw.of rfl) ?_ _)
    | (with_reducible refine Work.step_wk (hw.of rfl) ?_ _)
    | (with_reducible refine unlessReflexStop_wk (hw.of rfl) ?_ ?_)
    | (with_reducible refine WorkKeeps.ite ?_ ?_)
    | intro _
    | split
    | dsimp only)

theorem doStop_wk {ps : List DoorPart} {w0 w : Work} (hw : Inside [.sm, .door, .step, .obst, .cycle] ps) (h : WorkKeeps ps w0 w) (a1 : DoorEnv) (a2 : Cause) (a3 : Bool) :
    WorkKeeps ps w0 (doStop a1 a2 a3 w) := by
  unfold doStop
  repeat' (first
    | (with_reducible assumption)
    | (with_reducible refine Work.sm_wk (hw.of rfl) ?_ _)
    | (with_reducible refine backFromUnlocking_wk (hw.of rfl) ?_ _ _)
    | (with_reducible refine enter_wk (hw.of rfl) ?_ _ _ _ _)
    | (with_reducible refine stopDrives_wk (hw.of rfl) ?_ _ _)
    | (with_reducible refine WorkKeeps.ite ?_ ?_)
    | intro _
    | split
    | dsimp only)

theorem doResume_wk {ps : List DoorPart} {w0 w : Work} (hw : Inside [.sm, .door, .step, .obst, .cycle] ps) (h : WorkKeeps ps w0 w) (a1 : DoorEnv) :
    WorkKeeps ps w0 (doResume a1 w) := by
  unfold doResume
  repeat' (first
    | (with_reducible assumption)
    | (with_reducible refine Work.sm_wk (hw.of rfl) ?_ _)
    | (with_reducible refine doorResume_wk (hw.of rfl) ?_ _)
    | (with_reducible refine enter_wk (hw.of rfl) ?_ _ _ _ _)
    | (with_reducible refine enterWarn_wk (hw.of rfl) ?_ _ _ _)
    | (with_reducible refine stepResume_wk (hw.of rfl) ?_ _)
    | (with_reducible refine WorkKeeps.ite ?_ ?_)
    | intro _
    | split
    | dsimp only)

theorem ignoreOpen_wk {ps : List DoorPart} {w0 w : Work} (hw : Inside [.sm] ps) (h : WorkKeeps ps w0 w) :
    WorkKeeps ps w0 (ignoreOpen w) := by
  unfold ignoreOpen
  repeat' (first
    | (with_reducible assumption)
    | (with_reducible refine Work.count_wk (hw.of rfl) ?_ _)
    | (with_reducible refine Work.smFlags_wk (hw.of rfl) ?_ _)
    | (with_reducible refine WorkKeeps.ite ?_ ?_)
    | intro _
    | split
    | dsimp only)

theorem ignoreButton_wk {ps : List DoorPart} {w0 w : Work} (hw : Inside [.sm] ps) (h : WorkKeeps ps w0 w) :
    WorkKeeps ps w0 (ignoreButton w) := by
  unfold ignoreButton
  repeat' (first
    | (with_reducible assumption)
    | (with_reducible refine Work.count_wk (hw.of rfl) ?_ _)
    | (with_reducible refine WorkKeeps.ite ?_ ?_)
    | intro _
    | split
    | dsimp only)

theorem doOpen_wk {ps : List DoorPart} {w0 w : Work} (hw : Inside [.sm, .door, .step, .obst, .cycle] ps) (h : WorkKeeps ps w0 w) (a1 : DoorEnv) (a2 : Cause) :
    WorkKeeps ps w0 (doOpen a1 a2 w) := by
  unfold doOpen
  repeat' (first
    | (with_reducible assumption)
    | (with_reducible refine enterOpening_wk (hw.of rfl) ?_ _ _)
    | (with_reducible refine enterUnlocking_wk (hw.of rfl) ?_ _ _)
    | (with_reducible refine ignoreOpen_wk (hw.of rfl) ?_)
    | (with_reducible refine WorkKeeps.ite ?_ ?_)
    | intro _
    | split
    | dsimp only)

theorem doLocalClose_wk {ps : List DoorPart} {w0 w : Work} (hw : Inside [.sm, .door, .step, .obst, .cycle] ps) (h : WorkKeeps ps w0 w) (a1 : DoorEnv) (a2 : Cause) :
    WorkKeeps ps w0 (doLocalClose a1 a2 w) := by
  unfold doLocalClose
  repeat' (first
    | (with_reducible assumption)
    | (with_reducible refine Work.sm_wk (hw.of rfl) ?_ _)
    | (with_reducible refine backFromUnlocking_wk (hw.of rfl) ?_ _ _)
    | (with_reducible refine enterLock_wk (hw.of rfl) ?_ _)
    | (with_reducible refine enterWarn_wk (hw.of rfl) ?_ _ _ _)
    | (with_reducible refine WorkKeeps.ite ?_ ?_)
    | intro _
    | split
    | dsimp only)

theorem doTrainlineClose_wk {ps : List DoorPart} {w0 w : Work} (hw : Inside [.sm, .door, .step, .obst, .cycle] ps) (h : WorkKeeps ps w0 w) (a1 : DoorEnv) :
    WorkKeeps ps w0 (doTrainlineClose a1 w) := by
  unfold doTrainlineClose
  repeat' (first
    | (with_reducible assumption)
    | (with_reducible refine Work.sm_wk (hw.of rfl) ?_ _)
    | (with_reducible refine backFromUnlocking_wk (hw.of rfl) ?_ _ _)
    | (with_reducible refine doorOff_wk (hw.of rfl) ?_)
    | (with_reducible refine enter_wk (hw.of rfl) ?_ _ _ _ _)
    | (with_reducible refine enterLock_wk (hw.of rfl) ?_ _)
    | (with_reducible refine enterWarn_wk (hw.of rfl) ?_ _ _ _)
    | (with_reducible refine WorkKeeps.ite ?_ ?_)
    | intro _
    | split
    | dsimp only)

theorem drivesOff_wk {ps : List DoorPart} {w0 w : Work} (hw : Inside [.door, .step, .obst] ps) (h : WorkKeeps ps w0 w) (a1 : DoorEnv) :
    WorkKeeps ps w0 (drivesOff a1 w) := by
  unfold drivesOff
  repeat' (first
    | (with_reducible assumption)
    | (with_reducible refine doorOff_wk (hw.of rfl) ?_)
    | (with_reducible refine stepOff_wk (hw.of rfl) ?_ _)
    | (with_reducible refine WorkKeeps.ite ?_ ?_)
    | intro _
    | split
    | dsimp only)

theorem enterFault_wk {ps : List DoorPart} {w0 w : Work} (hw : Inside [.sm, .door, .step, .obst, .cycle] ps) (h : WorkKeeps ps w0 w) (a1 : DoorEnv) (a2 : Cause) :
    WorkKeeps ps w0 (enterFault a1 a2 w) := by
  unfold enterFault
  repeat' (first
    | (with_reducible assumption)
    | (with_reducible refine Work.sm_wk (hw.of rfl) ?_ _)
    | (with_reducible refine drivesOff_wk (hw.of rfl) ?_ _)
    | (with_reducible refine enter_wk (hw.of rfl) ?_ _ _ _ _)
    | (with_reducible refine maintStops_wk (hw.of rfl) ?_ _ _)
    | (with_reducible refine WorkKeeps.ite ?_ ?_)
    | intro _
    | split
    | dsimp only)

theorem enterEgress_wk {ps : List DoorPart} {w0 w : Work} (hw : Inside [.sm, .door, .step, .obst, .cycle] ps) (h : WorkKeeps ps w0 w) (a1 : DoorEnv) :
    WorkKeeps ps w0 (enterEgress a1 w) := by
  unfold enterEgress
  repeat' (first
    | (with_reducible assumption)
    | (with_reducible refine Work.sm_wk (hw.of rfl) ?_ _)
    | (with_reducible refine drivesOff_wk (hw.of rfl) ?_ _)
    | (with_reducible refine enter_wk (hw.of rfl) ?_ _ _ _ _)
    | (with_reducible refine maintStops_wk (hw.of rfl) ?_ _ _)
    | (with_reducible refine WorkKeeps.ite ?_ ?_)
    | intro _
    | split
    | dsimp only)

theorem enterIsolated_wk {ps : List DoorPart} {w0 w : Work} (hw : Inside [.sm, .door, .step, .obst, .cycle] ps) (h : WorkKeeps ps w0 w) (a1 : DoorEnv) (a2 : Cause) :
    WorkKeeps ps w0 (enterIsolated a1 a2 w) := by
  unfold enterIsolated
  repeat' (first
    | (with_reducible assumption)
    | (with_reducible refine Work.sm_wk (hw.of rfl) ?_ _)
    | (with_reducible refine cycleBegin_wk (hw.of rfl) ?_ _ _)
    | (with_reducible refine doorOff_wk (hw.of rfl) ?_)
    | (with_reducible refine enter_wk (hw.of rfl) ?_ _ _ _ _)
    | (with_reducible refine maintStops_wk (hw.of rfl) ?_ _ _)
    | (with_reducible refine startRetract_wk (hw.of rfl) ?_ _)
    | (with_reducible refine WorkKeeps.ite ?_ ?_)
    | intro _
    | split
    | dsimp only)

theorem settle_wk {ps : List DoorPart} {w0 w : Work} (hw : Inside [.sm, .door, .step, .obst, .cycle] ps) (h : WorkKeeps ps w0 w) (a1 : DoorEnv) :
    WorkKeeps ps w0 (settle a1 w) := by
  unfold settle
  repeat' (first
    | (with_reducible assumption)
    | (with_reducible refine Work.door_wk (hw.of rfl) ?_ _)
    | (with_reducible refine Work.sm_wk (hw.of rfl) ?_ _)
    | (with_reducible refine Work.step_wk (hw.of rfl) ?_ _)
    | (with_reducible refine doorHold_wk (hw.of rfl) ?_ _)
    | (with_reducible refine doorOff_wk (hw.of rfl) ?_)
    | (with_reducible refine enter_wk (hw.of rfl) ?_ _ _ _ _)
    | (with_reducible refine enterIsolated_wk (hw.of rfl) ?_ _ _)
    | (with_reducible refine enterWarn_wk (hw.of rfl) ?_ _ _ _)
    | (with_reducible refine maintStops_wk (hw.of rfl) ?_ _ _)
    | (with_reducible refine WorkKeeps.ite ?_ ?_)
    | intro _
    | split
    | dsimp only)

theorem keepFromReflex_wk {ps : List DoorPart} {w0 w : Work} (hw : Inside [.door] ps) (h : WorkKeeps ps w0 w) (a1 : DoorEnv) :
    WorkKeeps ps w0 (keepFromReflex a1 w) := by
  unfold keepFromReflex
  repeat' (first
    | (with_reducible assumption)
    | (with_reducible refine Work.door_wk (hw.of rfl) ?_ _)
    | (with_reducible refine WorkKeeps.ite ?_ ?_)
    | intro _
    | split
    | dsimp only)

theorem takeTrip_wk {ps : List DoorPart} {w0 w : Work} (hw : Inside [.sm, .door, .step, .obst, .cycle] ps) (h : WorkKeeps ps w0 w) (a1 : DoorEnv) (a2 : Trip) :
    WorkKeeps ps w0 (takeTrip a1 a2 w) := by
  unfold takeTrip
  repeat' (first
    | (with_reducible assumption)
    | (with_reducible refine Work.count_wk (hw.of rfl) ?_ _)
    | (with_reducible refine Work.cyc_wk (hw.of rfl) ?_ _)
    | (with_reducible refine Work.emit_wk (hw.of rfl) ?_ _)
    | (with_reducible refine Work.obstFlags_wk (hw.of rfl) ?_ _)
    | (with_reducible refine Work.sm_wk (hw.of rfl) ?_ _)
    | (with_reducible refine Work.step_wk (hw.of rfl) ?_ _)
    | (with_reducible refine enter_wk (hw.of rfl) ?_ _ _ _ _)
    | (with_reducible refine keepFromReflex_wk (hw.of rfl) ?_ _)
    | (with_reducible refine maintStops_wk (hw.of rfl) ?_ _ _)
    | (with_reducible refine reflexStopStart_wk (hw.of rfl) ?_ _)
    | (with_reducible refine settle_wk (hw.of rfl) ?_ _)
    | (with_reducible refine tripClosing_wk (hw.of rfl) ?_ _)
    | (with_reducible refine tripEvent_wk (hw.of rfl) ?_ _)
    | (with_reducible refine unlessReflexStop_wk (hw.of rfl) ?_ ?_)
    | (with_reducible refine WorkKeeps.ite ?_ ?_)
    | intro _
    | split
    | dsimp only)

theorem releaseLatch_wk {ps : List DoorPart} {w0 w : Work} (hw : Inside [.door, .step] ps) (h : WorkKeeps ps w0 w) (a1 : DoorEnv) :
    WorkKeeps ps w0 (releaseLatch a1 w) := by
  unfold releaseLatch
  repeat' (first
    | (with_reducible assumption)
    | (with_reducible refine Work.door_wk (hw.of rfl) ?_ _)
    | (with_reducible refine Work.step_wk (hw.of rfl) ?_ _)
    | (with_reducible refine WorkKeeps.ite ?_ ?_)
    | intro _
    | split
    | dsimp only)

theorem maintUnlock_wk {ps : List DoorPart} {w0 w : Work} (hw : Inside [.sm, .door, .step, .cycle] ps) (h : WorkKeeps ps w0 w) (a1 : DoorEnv) :
    WorkKeeps ps w0 (maintUnlock a1 w) := by
  unfold maintUnlock
  repeat' (first
    | (with_reducible assumption)
    | (with_reducible refine Work.sm_wk (hw.of rfl) ?_ _)
    | (with_reducible refine enterUnlocking_wk (hw.of rfl) ?_ _ _)
    | (with_reducible refine WorkKeeps.ite ?_ ?_)
    | intro _
    | split
    | dsimp only)

theorem maintWindUp_wk {ps : List DoorPart} {w0 w : Work} (hw : Inside [.sm, .door, .step, .obst, .cycle] ps) (h : WorkKeeps ps w0 w) (a1 : DoorEnv) :
    WorkKeeps ps w0 (maintWindUp a1 w) := by
  unfold maintWindUp
  repeat' (first
    | (with_reducible assumption)
    | (with_reducible refine Work.sm_wk (hw.of rfl) ?_ _)
    | (with_reducible refine enterLock_wk (hw.of rfl) ?_ _)
    | (with_reducible refine enterWarn_wk (hw.of rfl) ?_ _ _ _)
    | (with_reducible refine WorkKeeps.ite ?_ ?_)
    | intro _
    | split
    | dsimp only)

theorem maintClose_wk {ps : List DoorPart} {w0 w : Work} (hw : Inside [.sm, .door, .step, .obst, .cycle] ps) (h : WorkKeeps ps w0 w) (a1 : DoorEnv) :
    WorkKeeps ps w0 (maintClose a1 w) := by
  unfold maintClose
  repeat' (first
    | (with_reducible assumption)
    | (with_reducible refine enterWarn_wk (hw.of rfl) ?_ _ _ _)
    | (with_reducible refine WorkKeeps.ite ?_ ?_)
    | intro _
    | split
    | dsimp only)

theorem maintAbort_wk {ps : List DoorPart} {w0 w : Work} (hw : Inside [.sm, .door, .step, .obst, .cycle] ps) (h : WorkKeeps ps w0 w) (a1 : DoorEnv) :
    WorkKeeps ps w0 (maintAbort a1 w) := by
  unfold maintAbort
  repeat' (first
    | (with_reducible assumption)
    | (with_reducible refine Work.sm_wk (hw.of rfl) ?_ _)
    | (with_reducible refine maintWindUp_wk (hw.of rfl) ?_ _)
    | (with_reducible refine WorkKeeps.ite ?_ ?_)
    | intro _
    | split
    | dsimp only)

theorem maintCycleEnds_wk {ps : List DoorPart} {w0 w : Work} (hw : Inside [.sm, .door, .step, .cycle] ps) (h : WorkKeeps ps w0 w) (a1 : DoorEnv) (a2 : Bool) :
    WorkKeeps ps w0 (maintCycleEnds a1 a2 w) := by
  unfold maintCycleEnds
  repeat' (first
    | (with_reducible assumption)
    | (with_reducible refine Work.count_wk (hw.of rfl) ?_ _)
    | (with_reducible refine Work.sm_wk (hw.of rfl) ?_ _)
    | (with_reducible refine cycleAccount_wk (hw.of rfl) ?_ _)
    | (with_reducible refine cycleEnd_wk (hw.of rfl) ?_ _)
    | (with_reducible refine cycleStart_wk (hw.of rfl) ?_ _ _)
    | (with_reducible refine maintUnlock_wk (hw.of rfl) ?_ _)
    | (with_reducible refine WorkKeeps.ite ?_ ?_)
    | intro _
    | split
    | dsimp only)

theorem seeLevels_wk {ps : List DoorPart} {w0 w : Work} (hw : Inside [.sm] ps) (h : WorkKeeps ps w0 w) (a1 : DoorEnv) :
    WorkKeeps ps w0 (seeLevels a1 w) := by
  unfold seeLevels
  repeat' (first
    | (with_reducible assumption)
    | (with_reducible refine Work.smFlags_wk (hw.of rfl) ?_ _)
    | (with_reducible refine WorkKeeps.ite ?_ ?_)
    | intro _
    | split
    | dsimp only)

theorem takeEdges_wk {ps : List DoorPart} {w0 w : Work} (hw : Inside [.sm, .door, .step, .obst, .cycle] ps) (h : WorkKeeps ps w0 w) (a1 : DoorEnv) :
    WorkKeeps ps w0 (takeEdges a1 w) := by
  unfold takeEdges
  repeat' (first
    | (with_reducible assumption)
    | (with_reducible refine Work.sm_wk (hw.of rfl) ?_ _)
    | (with_reducible refine doLocalClose_wk (hw.of rfl) ?_ _ _)
    | (with_reducible refine doOpen_wk (hw.of rfl) ?_ _ _)
    | (with_reducible refine ignoreButton_wk (hw.of rfl) ?_)
    | (with_reducible refine ignoreOpen_wk (hw.of rfl) ?_)
    | (with_reducible refine WorkKeeps.ite ?_ ?_)
    | intro _
    | split
    | dsimp only)

theorem dropEdges_wk {ps : List DoorPart} {w0 w : Work} (hw : Inside [.sm] ps) (h : WorkKeeps ps w0 w) :
    WorkKeeps ps w0 (dropEdges w) := by
  unfold dropEdges
  repeat' (first
    | (with_reducible assumption)
    | (with_reducible refine Work.sm_wk (hw.of rfl) ?_ _)
    | (with_reducible refine ignoreButton_wk (hw.of rfl) ?_)
    | (with_reducible refine ignoreOpen_wk (hw.of rfl) ?_)
    | (with_reducible refine WorkKeeps.ite ?_ ?_)
    | intro _
    | split
    | dsimp only)

theorem discardEdges_wk {ps : List DoorPart} {w0 w : Work} (hw : Inside [.sm] ps) (h : WorkKeeps ps w0 w) :
    WorkKeeps ps w0 (discardEdges w) := by
  unfold discardEdges
  repeat' (first
    | (with_reducible assumption)
    | (with_reducible refine Work.count_wk (hw.of rfl) ?_ _)
    | (with_reducible refine Work.sm_wk (hw.of rfl) ?_ _)
    | (with_reducible refine WorkKeeps.ite ?_ ?_)
    | intro _
    | split
    | dsimp only)

theorem levelRows_wk {ps : List DoorPart} {w0 w : Work} (hw : Inside [.sm, .door, .step, .obst, .cycle] ps) (h : WorkKeeps ps w0 w) (a1 : DoorEnv) :
    WorkKeeps ps w0 (levelRows a1 w) := by
  unfold levelRows
  repeat' (first
    | (with_reducible assumption)
    | (with_reducible refine Work.sm_wk (hw.of rfl) ?_ _)
    | (with_reducible refine checkDeployed_wk (hw.of rfl) ?_ _)
    | (with_reducible refine enter_wk (hw.of rfl) ?_ _ _ _ _)
    | (with_reducible refine enterOpening_wk (hw.of rfl) ?_ _ _)
    | (with_reducible refine finishClosed_wk (hw.of rfl) ?_ _)
    | (with_reducible refine maintClose_wk (hw.of rfl) ?_ _)
    | (with_reducible refine maintCycleEnds_wk (hw.of rfl) ?_ _ _)
    | (with_reducible refine maintStops_wk (hw.of rfl) ?_ _ _)
    | (with_reducible refine settle_wk (hw.of rfl) ?_ _)
    | (with_reducible refine stopDrives_wk (hw.of rfl) ?_ _ _)
    | (with_reducible refine strokeEnds_wk (hw.of rfl) ?_ _)
    | (with_reducible refine tryOpened_wk (hw.of rfl) ?_ _)
    | (with_reducible refine WorkKeeps.ite ?_ ?_)
    | intro _
    | split
    | dsimp only)

theorem lockTiming_wk {ps : List DoorPart} {w0 w : Work} (hw : Inside [.door] ps) (h : WorkKeeps ps w0 w) (a1 : DoorEnv) :
    WorkKeeps ps w0 (lockTiming a1 w) := by
  unfold lockTiming
  repeat' (first
    | (with_reducible assumption)
    | (with_reducible refine Work.door_wk (hw.of rfl) ?_ _)
    | (with_reducible refine WorkKeeps.ite ?_ ?_)
    | intro _
    | split
    | dsimp only)

theorem permitCheck_wk {ps : List DoorPart} {w0 w : Work} (hw : Inside [.step] ps) (h : WorkKeeps ps w0 w) (a1 : DoorEnv) :
    WorkKeeps ps w0 (permitCheck a1 w) := by
  unfold permitCheck
  repeat' (first
    | (with_reducible assumption)
    | (with_reducible refine Work.emit_wk (hw.of rfl) ?_ _)
    | (with_reducible refine Work.step_wk (hw.of rfl) ?_ _)
    | (with_reducible refine WorkKeeps.ite ?_ ?_)
    | intro _
    | split
    | dsimp only)

theorem solenoidCheck_wk {ps : List DoorPart} {w0 w : Work} (hw : Inside [.sm] ps) (h : WorkKeeps ps w0 w) (a1 : DoorEnv) :
    WorkKeeps ps w0 (solenoidCheck a1 w) := by
  unfold solenoidCheck
  repeat' (first
    | (with_reducible assumption)
    | (with_reducible refine Work.smFlags_wk (hw.of rfl) ?_ _)
    | (with_reducible refine WorkKeeps.ite ?_ ?_)
    | intro _
    | split
    | dsimp only)

theorem clearGone_wk {ps : List DoorPart} {w0 w : Work} (hw : Inside [.sm, .step] ps) (h : WorkKeeps ps w0 w) (a1 : DoorEnv) :
    WorkKeeps ps w0 (clearGone a1 w) := by
  unfold clearGone
  repeat' (first
    | (with_reducible assumption)
    | (with_reducible refine Work.smFlags_wk (hw.of rfl) ?_ _)
    | (with_reducible refine Work.stepFlags_wk (hw.of rfl) ?_ _)
    | (with_reducible refine WorkKeeps.ite ?_ ?_)
    | intro _
    | split
    | dsimp only)

theorem referencesStart_wk {ps : List DoorPart} {w0 w : Work} (hw : Inside [.door, .step] ps) (h : WorkKeeps ps w0 w) (a1 : DoorEnv) :
    WorkKeeps ps w0 (referencesStart a1 w) := by
  unfold referencesStart
  repeat' (first
    | (with_reducible assumption)
    | (with_reducible refine Work.door_wk (hw.of rfl) ?_ _)
    | (with_reducible refine Work.stepEvent_wk (hw.of rfl) ?_ _ _ _ _)
    | (with_reducible refine Work.stepFlags_wk (hw.of rfl) ?_ _)
    | (with_reducible refine markSuspect_wk (hw.of rfl) ?_ _ _ _)
    | (with_reducible refine WorkKeeps.ite ?_ ?_)
    | intro _
    | split
    | dsimp only)

theorem doorStart_wk {ps : List DoorPart} {w0 w : Work} (hw : Inside [.sm, .door, .step, .obst, .cycle] ps) (h : WorkKeeps ps w0 w) (a1 : DoorEnv) :
    WorkKeeps ps w0 (doorStart a1 w) := by
  unfold doorStart
  repeat' (first
    | (with_reducible assumption)
    | (with_reducible refine enterEgress_wk (hw.of rfl) ?_ _)
    | (with_reducible refine enterFault_wk (hw.of rfl) ?_ _ _)
    | (with_reducible refine enterIsolated_wk (hw.of rfl) ?_ _ _)
    | (with_reducible refine referencesStart_wk (hw.of rfl) ?_ _)
    | (with_reducible refine settle_wk (hw.of rfl) ?_ _)
    | (with_reducible refine WorkKeeps.ite ?_ ?_)
    | intro _
    | split
    | dsimp only)

theorem firstRanks_wk {ps : List DoorPart} {w0 w : Work} (hw : Inside [.sm, .door, .step, .obst, .cycle] ps) (h : WorkKeeps ps w0 w) (a1 : DoorEnv) {x : Work} (hx : firstRanks a1 w = some x) :
    WorkKeeps ps w0 x := by
  unfold firstRanks at hx
  dsimp only at hx
  repeat' (split at hx)
  all_goals (try cases hx)
  all_goals repeat' (first
    | (with_reducible assumption)
    | (with_reducible refine Work.sm_wk (hw.of rfl) ?_ _)
    | (with_reducible refine enterEgress_wk (hw.of rfl) ?_ _)
    | (with_reducible refine enterFault_wk (hw.of rfl) ?_ _ _)
    | (with_reducible refine enterIsolated_wk (hw.of rfl) ?_ _ _)
    | (with_reducible refine settle_wk (hw.of rfl) ?_ _)
    | (with_reducible refine WorkKeeps.ite ?_ ?_)
    | intro _
    | split
    | dsimp only)

theorem maintRank_wk {ps : List DoorPart} {w0 w : Work} (hw : Inside [.sm, .door, .step, .obst, .cycle] ps) (h : WorkKeeps ps w0 w) (a1 : DoorEnv) {a2 : (Work → Work)} (hf : ∀ u, WorkKeeps ps w0 u → WorkKeeps ps w0 (a2 u)) :
    WorkKeeps ps w0 (maintRank a1 a2 w) := by
  unfold maintRank
  repeat' (first
    | (with_reducible assumption)
    | (with_reducible apply hf)
    | (with_reducible refine levelRows_wk (hw.of rfl) ?_ _)
    | (with_reducible refine maintWindUp_wk (hw.of rfl) ?_ _)
    | (with_reducible refine settle_wk (hw.of rfl) ?_ _)
    | (with_reducible refine WorkKeeps.ite ?_ ?_)
    | intro _
    | split
    | dsimp only)

theorem laterRanks_wk {ps : List DoorPart} {w0 w : Work} (hw : Inside [.sm, .door, .step, .obst, .cycle] ps) (h : WorkKeeps ps w0 w) (a1 : DoorEnv) {a2 : (Work → Work)} (hf : ∀ u, WorkKeeps ps w0 u → WorkKeeps ps w0 (a2 u)) (a3 : Option Trip) :
    WorkKeeps ps w0 (laterRanks a1 a2 a3 w) := by
  unfold laterRanks
  repeat' (first
    | (with_reducible assumption)
    | (with_reducible apply hf)
    | (with_reducible refine discardEdges_wk (hw.of rfl) ?_)
    | (with_reducible refine doTrainlineClose_wk (hw.of rfl) ?_ _)
    | (with_reducible refine dropEdges_wk (hw.of rfl) ?_)
    | (with_reducible refine enterFault_wk (hw.of rfl) ?_ _ _)
    | (with_reducible refine levelRows_wk (hw.of rfl) ?_ _)
    | (with_reducible refine maintRank_wk (hw.of rfl) ?_ _ ?_)
    | (with_reducible refine takeEdges_wk (hw.of rfl) ?_ _)
    | (with_reducible refine takeTrip_wk (hw.of rfl) ?_ _ _)
    | (with_reducible refine WorkKeeps.ite ?_ ?_)
    | intro _
    | split
    | dsimp only)

theorem doorTickWith_wk {ps : List DoorPart} {w0 w : Work} (hw : Inside [.sm, .door, .step, .obst, .cycle] ps) (h : WorkKeeps ps w0 w) (a1 : DoorEnv) {a2 : (Work → Work)} (hf : ∀ u, WorkKeeps ps w0 u → WorkKeeps ps w0 (a2 u)) :
    WorkKeeps ps w0 (doorTickWith a1 a2 w) := by
  unfold doorTickWith
  repeat' (first
    | (with_reducible assumption)
    | (with_reducible apply hf)
    | (with_reducible refine Work.obst_wk (hw.of rfl) ?_ _)
    | (with_reducible refine clearGone_wk (hw.of rfl) ?_ _)
    | (with_reducible refine doorStart_wk (hw.of rfl) ?_ _)
    | (with_reducible refine dropEdges_wk (hw.of rfl) ?_)
    | exact firstRanks_wk (hw.of rfl) (by assumption) _ (by assumption)
    | (refine firstRanks_wk (hw.of rfl) ?_ _ (by assumption))
    | (with_reducible refine laterRanks_wk (hw.of rfl) ?_ _ ?_ _)
    | (with_reducible refine lockTiming_wk (hw.of rfl) ?_ _)
    | (with_reducible refine permitCheck_wk (hw.of rfl) ?_ _)
    | (with_reducible refine seeLevels_wk (hw.of rfl) ?_ _)
    | (with_reducible refine solenoidCheck_wk (hw.of rfl) ?_ _)
    | (with_reducible refine WorkKeeps.ite ?_ ?_)
    | intro _
    | split
    | dsimp only)

theorem doorTick_wk {ps : List DoorPart} {w0 w : Work} (hw : Inside [.sm, .door, .step, .obst, .cycle] ps) (h : WorkKeeps ps w0 w) (a1 : DoorEnv) :
    WorkKeeps ps w0 (doorTick a1 w) := by
  unfold doorTick
  repeat' (first
    | (with_reducible assumption)
    | (with_reducible refine doorTickWith_wk (hw.of rfl) ?_ _ ?_)
    | (with_reducible refine WorkKeeps.ite ?_ ?_)
    | intro _
    | split
    | dsimp only
    | rw [id])

theorem learnCommits_wk {ps : List DoorPart} {w0 w : Work} (hw : Inside [.obst] ps) (h : WorkKeeps ps w0 w) (a1 : DoorEnv) :
    WorkKeeps ps w0 (learnCommits a1 w).1 := by
  unfold learnCommits
  repeat' (first
    | (with_reducible assumption)
    | (with_reducible refine Work.obst_wk (hw.of rfl) ?_ _)
    | (with_reducible refine Work.obstEvent_wk (hw.of rfl) ?_ _ _ _ _ _)
    | (with_reducible refine WorkKeeps.ite ?_ ?_)
    | intro _
    | split
    | dsimp only)

theorem indexCompare_wk {ps : List DoorPart} {w0 w : Work} (hw : Inside [.door, .obst, .cycle] ps) (h : WorkKeeps ps w0 w) (a1 : DoorEnv) (a2 : Bool) :
    WorkKeeps ps w0 (indexCompare a1 a2 w) := by
  unfold indexCompare
  repeat' (first
    | (with_reducible assumption)
    | (with_reducible refine Work.door_wk (hw.of rfl) ?_ _)
    | (with_reducible refine Work.doorFlags_wk (hw.of rfl) ?_ _)
    | (with_reducible refine doorMove_wk (hw.of rfl) ?_ _ _ _ _)
    | (with_reducible refine indexShift_wk (hw.of rfl) ?_ _ _)
    | (with_reducible refine markSuspect_wk (hw.of rfl) ?_ _ _ _)
    | (with_reducible refine sealSeekStart_wk (hw.of rfl) ?_ _)
    | (with_reducible refine WorkKeeps.ite ?_ ?_)
    | intro _
    | split
    | dsimp only)

theorem rawChange_wk {ps : List DoorPart} {w0 w : Work} (hw : Inside [.inp, .door, .step, .cycle] ps) (h : WorkKeeps ps w0 w) (a1 : DoorEnv) (a2 : Nat) (a3 : Bool) :
    WorkKeeps ps w0 (rawChange a1 a2 a3 w) := by
  unfold rawChange
  repeat' (first
    | (with_reducible assumption)
    | (with_reducible refine Work.door_wk (hw.of rfl) ?_ _)
    | (with_reducible refine srsTransition_wk (hw.of rfl) ?_ _ _)
    | (with_reducible refine WorkKeeps.ite ?_ ?_)
    | refine WorkKeeps.putInp (hw.of rfl) ?_ rfl
    | intro _
    | split
    | dsimp only)

theorem filteredChange_wk {ps : List DoorPart} {w0 w : Work} (hw : Inside [.sm, .inp, .door, .step, .obst, .cycle] ps) (h : WorkKeeps ps w0 w) (a1 : DoorEnv) (a2 : Nat) (a3 : Bool) :
    WorkKeeps ps w0 (filteredChange a1 a2 a3 w) := by
  unfold filteredChange
  repeat' (first
    | (with_reducible assumption)
    | (with_reducible refine Work.obst_wk (hw.of rfl) ?_ _)
    | (with_reducible refine Work.sm_wk (hw.of rfl) ?_ _)
    | (with_reducible refine Work.smFlags_wk (hw.of rfl) ?_ _)
    | (with_reducible refine Work.step_wk (hw.of rfl) ?_ _)
    | (with_reducible refine Work.stepFlags_wk (hw.of rfl) ?_ _)
    | (with_reducible refine indexCompare_wk (hw.of rfl) ?_ _ _)
    | (with_reducible refine markSuspect_wk (hw.of rfl) ?_ _ _ _)
    | (with_reducible refine recordTrip_wk (hw.of rfl) ?_ _ _)
    | (with_reducible refine WorkKeeps.ite ?_ ?_)
    | refine WorkKeeps.putInp (hw.of rfl) ?_ rfl
    | intro _
    | split
    | dsimp only)

theorem setInput_wk {ps : List DoorPart} {w0 w : Work} (hw : Inside [.sm, .inp, .door, .step, .obst, .cycle] ps) (h : WorkKeeps ps w0 w) (a1 : DoorEnv) (a2 : Nat) (a3 : Bool) :
    WorkKeeps ps w0 (setInput a1 a2 a3 w) := by
  unfold setInput
  repeat' (first
    | (with_reducible assumption)
    | (with_reducible refine filteredChange_wk (hw.of rfl) ?_ _ _ _)
    | (with_reducible refine rawChange_wk (hw.of rfl) ?_ _ _ _)
    | (with_reducible refine WorkKeeps.ite ?_ ?_)
    | refine WorkKeeps.putInp (hw.of rfl) ?_ rfl
    | intro _
    | split
    | dsimp only)

theorem onOpenButton_wk {ps : List DoorPart} {w0 w : Work} (hw : Inside [.sm, .inp, .door, .step, .obst, .cycle] ps) (h : WorkKeeps ps w0 w) (a1 : DoorEnv) (a2 : Bool) (a3 : Bool) :
    WorkKeeps ps w0 (onOpenButton a1 a2 a3 w) := by
  unfold onOpenButton
  repeat' (first
    | (with_reducible assumption)
    | (with_reducible refine doorTick_wk (hw.of rfl) ?_ _)
    | (with_reducible refine setInput_wk (hw.of rfl) ?_ _ _ _)
    | (with_reducible refine WorkKeeps.ite ?_ ?_)
    | intro _
    | split
    | dsimp only)

theorem onCloseButton_wk {ps : List DoorPart} {w0 w : Work} (hw : Inside [.sm, .inp, .door, .step, .obst, .cycle] ps) (h : WorkKeeps ps w0 w) (a1 : DoorEnv) (a2 : Bool) :
    WorkKeeps ps w0 (onCloseButton a1 a2 w) := by
  unfold onCloseButton
  repeat' (first
    | (with_reducible assumption)
    | (with_reducible refine doorTick_wk (hw.of rfl) ?_ _)
    | (with_reducible refine setInput_wk (hw.of rfl) ?_ _ _ _)
    | (with_reducible refine WorkKeeps.ite ?_ ?_)
    | intro _
    | split
    | dsimp only)

theorem onDis_wk {ps : List DoorPart} {w0 w : Work} (hw : Inside [.sm, .inp, .door, .step, .obst, .cycle] ps) (h : WorkKeeps ps w0 w) (a1 : DoorEnv) (a2 : Bool) :
    WorkKeeps ps w0 (onDis a1 a2 w) := by
  unfold onDis
  repeat' (first
    | (with_reducible assumption)
    | (with_reducible refine doorTick_wk (hw.of rfl) ?_ _)
    | (with_reducible refine setInput_wk (hw.of rfl) ?_ _ _ _)
    | (with_reducible refine WorkKeeps.ite ?_ ?_)
    | intro _
    | split
    | dsimp only)

theorem onEgress_wk {ps : List DoorPart} {w0 w : Work} (hw : Inside [.sm, .inp, .door, .step, .obst, .cycle] ps) (h : WorkKeeps ps w0 w) (a1 : DoorEnv) (a2 : Egress) :
    WorkKeeps ps w0 (onEgress a1 a2 w) := by
  unfold onEgress
  repeat' (first
    | (with_reducible assumption)
    | (with_reducible refine doorTick_wk (hw.of rfl) ?_ _)
    | (with_reducible refine setInput_wk (hw.of rfl) ?_ _ _ _)
    | (with_reducible refine WorkKeeps.ite ?_ ?_)
    | intro _
    | split
    | dsimp only)

theorem onEgressEnds_wk {ps : List DoorPart} {w0 w : Work} (hw : Inside [.sm, .inp, .door, .step, .obst, .cycle] ps) (h : WorkKeeps ps w0 w) (a1 : DoorEnv) :
    WorkKeeps ps w0 (onEgressEnds a1 w) := by
  unfold onEgressEnds
  repeat' (first
    | (with_reducible assumption)
    | (with_reducible refine doorTick_wk (hw.of rfl) ?_ _)
    | (with_reducible refine setInput_wk (hw.of rfl) ?_ _ _ _)
    | (with_reducible refine WorkKeeps.ite ?_ ?_)
    | intro _
    | split
    | dsimp only)

theorem onUnlockSeen_wk {ps : List DoorPart} {w0 w : Work} (hw : Inside [.sm, .inp, .door, .step, .obst, .cycle] ps) (h : WorkKeeps ps w0 w) (a1 : DoorEnv) (a2 : DoorSwitch) :
    WorkKeeps ps w0 (onUnlockSeen a1 a2 w) := by
  unfold onUnlockSeen
  repeat' (first
    | (with_reducible assumption)
    | (with_reducible refine doorTick_wk (hw.of rfl) ?_ _)
    | (with_reducible refine setInput_wk (hw.of rfl) ?_ _ _ _)
    | (with_reducible refine WorkKeeps.ite ?_ ?_)
    | intro _
    | split
    | dsimp only)

theorem onImplausible_wk {ps : List DoorPart} {w0 w : Work} (hw : Inside [.sm, .inp, .door, .step, .obst, .cycle] ps) (h : WorkKeeps ps w0 w) (a1 : DoorEnv) (a2 : Implausible) :
    WorkKeeps ps w0 (onImplausible a1 a2 w) := by
  unfold onImplausible
  repeat' (first
    | (with_reducible assumption)
    | (with_reducible refine Work.smFlags_wk (hw.of rfl) ?_ _)
    | (with_reducible refine doorTick_wk (hw.of rfl) ?_ _)
    | (with_reducible refine setInput_wk (hw.of rfl) ?_ _ _ _)
    | (with_reducible refine WorkKeeps.ite ?_ ?_)
    | intro _
    | split
    | dsimp only)

theorem onDcsImplausible_wk {ps : List DoorPart} {w0 w : Work} (hw : Inside [.sm, .door, .step, .obst, .cycle] ps) (h : WorkKeeps ps w0 w) (a1 : DoorEnv) :
    WorkKeeps ps w0 (onDcsImplausible a1 w) := by
  unfold onDcsImplausible
  repeat' (first
    | (with_reducible assumption)
    | (with_reducible refine Work.smFlags_wk (hw.of rfl) ?_ _)
    | (with_reducible refine doorTick_wk (hw.of rfl) ?_ _)
    | (with_reducible refine WorkKeeps.ite ?_ ?_)
    | intro _
    | split
    | dsimp only)

theorem onGroupFault_wk {ps : List DoorPart} {w0 w : Work} (hw : Inside [.sm, .inp, .door, .step, .obst, .cycle] ps) (h : WorkKeeps ps w0 w) (a1 : DoorEnv) (a2 : Bool) :
    WorkKeeps ps w0 (onGroupFault a1 a2 w) := by
  unfold onGroupFault
  repeat' (first
    | (with_reducible assumption)
    | (with_reducible refine doorTick_wk (hw.of rfl) ?_ _)
    | (with_reducible refine WorkKeeps.ite ?_ ?_)
    | refine WorkKeeps.putInp (hw.of rfl) ?_ rfl
    | intro _
    | split
    | dsimp only)

theorem onInputCauseGone_wk {ps : List DoorPart} {w0 w : Work} (hw : Inside [.sm, .door, .step, .obst, .cycle] ps) (h : WorkKeeps ps w0 w) (a1 : DoorEnv) :
    WorkKeeps ps w0 (onInputCauseGone a1 w) := by
  unfold onInputCauseGone
  repeat' (first
    | (with_reducible assumption)
    | (with_reducible refine settle_wk (hw.of rfl) ?_ _)
    | (with_reducible refine WorkKeeps.ite ?_ ?_)
    | intro _
    | split
    | dsimp only)

theorem onUnlockTimeout_wk {ps : List DoorPart} {w0 w : Work} (hw : Inside [.sm, .door, .step, .obst, .cycle] ps) (h : WorkKeeps ps w0 w) (a1 : DoorEnv) :
    WorkKeeps ps w0 (onUnlockTimeout a1 w) := by
  unfold onUnlockTimeout
  repeat' (first
    | (with_reducible assumption)
    | (with_reducible refine Work.count_wk (hw.of rfl) ?_ _)
    | (with_reducible refine Work.smFlags_wk (hw.of rfl) ?_ _)
    | (with_reducible refine backFromUnlocking_wk (hw.of rfl) ?_ _ _)
    | (with_reducible refine doorTickWith_wk (hw.of rfl) ?_ _ ?_)
    | (with_reducible refine settle_wk (hw.of rfl) ?_ _)
    | (with_reducible refine WorkKeeps.ite ?_ ?_)
    | intro _
    | split
    | dsimp only)

theorem onDlsBreak_wk {ps : List DoorPart} {w0 w : Work} (hw : Inside [.sm, .inp, .door, .step, .obst, .cycle] ps) (h : WorkKeeps ps w0 w) (a1 : DoorEnv) :
    WorkKeeps ps w0 (onDlsBreak a1 w) := by
  unfold onDlsBreak
  repeat' (first
    | (with_reducible assumption)
    | (with_reducible refine doorTick_wk (hw.of rfl) ?_ _)
    | (with_reducible refine setInput_wk (hw.of rfl) ?_ _ _ _)
    | (with_reducible refine WorkKeeps.ite ?_ ?_)
    | intro _
    | split
    | dsimp only)

theorem onDcsBreakOpening_wk {ps : List DoorPart} {w0 w : Work} (hw : Inside [.sm, .inp, .door, .step, .obst, .cycle] ps) (h : WorkKeeps ps w0 w) (a1 : DoorEnv) :
    WorkKeeps ps w0 (onDcsBreakOpening a1 w) := by
  unfold onDcsBreakOpening
  repeat' (first
    | (with_reducible assumption)
    | (with_reducible refine doorTick_wk (hw.of rfl) ?_ _)
    | (with_reducible refine setInput_wk (hw.of rfl) ?_ _ _ _)
    | (with_reducible refine WorkKeeps.ite ?_ ?_)
    | intro _
    | split
    | dsimp only)

theorem onGraceEnd_wk {ps : List DoorPart} {w0 w : Work} (hw : Inside [.sm] ps) (h : WorkKeeps ps w0 w) :
    WorkKeeps ps w0 (onGraceEnd w) := by
  unfold onGraceEnd
  repeat' (first
    | (with_reducible assumption)
    | (with_reducible refine Work.smFlags_wk (hw.of rfl) ?_ _)
    | (with_reducible refine WorkKeeps.ite ?_ ?_)
    | intro _
    | split
    | dsimp only)

theorem onWarnEnd_wk {ps : List DoorPart} {w0 w : Work} (hw : Inside [.sm, .door, .step, .obst, .cycle] ps) (h : WorkKeeps ps w0 w) (a1 : DoorEnv) :
    WorkKeeps ps w0 (onWarnEnd a1 w) := by
  unfold onWarnEnd
  repeat' (first
    | (with_reducible assumption)
    | (with_reducible refine doorTickWith_wk (hw.of rfl) ?_ _ ?_)
    | (with_reducible refine enterMove_wk (hw.of rfl) ?_ _)
    | (with_reducible refine WorkKeeps.ite ?_ ?_)
    | intro _
    | split
    | dsimp only)

theorem onDwellEnd_wk {ps : List DoorPart} {w0 w : Work} (hw : Inside [.sm, .door, .step, .obst, .cycle] ps) (h : WorkKeeps ps w0 w) (a1 : DoorEnv) :
    WorkKeeps ps w0 (onDwellEnd a1 w) := by
  unfold onDwellEnd
  repeat' (first
    | (with_reducible assumption)
    | (with_reducible refine doLocalClose_wk (hw.of rfl) ?_ _ _)
    | (with_reducible refine doorTickWith_wk (hw.of rfl) ?_ _ ?_)
    | (with_reducible refine WorkKeeps.ite ?_ ?_)
    | intro _
    | split
    | dsimp only)

theorem onDcsMade_wk {ps : List DoorPart} {w0 w : Work} (hw : Inside [.sm, .inp, .door, .step, .obst, .cycle] ps) (h : WorkKeeps ps w0 w) (a1 : DoorEnv) :
    WorkKeeps ps w0 (onDcsMade a1 w) := by
  unfold onDcsMade
  repeat' (first
    | (with_reducible assumption)
    | (with_reducible refine doorTick_wk (hw.of rfl) ?_ _)
    | (with_reducible refine setInput_wk (hw.of rfl) ?_ _ _ _)
    | (with_reducible refine WorkKeeps.ite ?_ ?_)
    | intro _
    | split
    | dsimp only)

theorem onDlsConfirmed_wk {ps : List DoorPart} {w0 w : Work} (hw : Inside [.sm, .inp, .door, .step, .obst, .cycle] ps) (h : WorkKeeps ps w0 w) (a1 : DoorEnv) :
    WorkKeeps ps w0 (onDlsConfirmed a1 w) := by
  unfold onDlsConfirmed
  repeat' (first
    | (with_reducible assumption)
    | (with_reducible refine Work.door_wk (hw.of rfl) ?_ _)
    | (with_reducible refine Work.sm_wk (hw.of rfl) ?_ _)
    | (with_reducible refine Work.smFlags_wk (hw.of rfl) ?_ _)
    | (with_reducible refine doorTick_wk (hw.of rfl) ?_ _)
    | (with_reducible refine learnCommits_wk (hw.of rfl) ?_ _)
    | (with_reducible refine maintStops_wk (hw.of rfl) ?_ _ _)
    | (with_reducible refine setInput_wk (hw.of rfl) ?_ _ _ _)
    | (with_reducible refine WorkKeeps.ite ?_ ?_)
    | intro _
    | split
    | dsimp only)

theorem onLockAttemptEnd_wk {ps : List DoorPart} {w0 w : Work} (hw : Inside [.sm, .door, .step, .obst, .cycle] ps) (h : WorkKeeps ps w0 w) (a1 : DoorEnv) :
    WorkKeeps ps w0 (onLockAttemptEnd a1 w) := by
  unfold onLockAttemptEnd
  repeat' (first
    | (with_reducible assumption)
    | (with_reducible refine Work.cycleFlags_wk (hw.of rfl) ?_ _)
    | (with_reducible refine Work.door_wk (hw.of rfl) ?_ _)
    | (with_reducible refine doorHold_wk (hw.of rfl) ?_ _)
    | (with_reducible refine doorTickWith_wk (hw.of rfl) ?_ _ ?_)
    | (with_reducible refine enter_wk (hw.of rfl) ?_ _ _ _ _)
    | (with_reducible refine maintStops_wk (hw.of rfl) ?_ _ _)
    | (with_reducible refine WorkKeeps.ite ?_ ?_)
    | intro _
    | split
    | dsimp only)

theorem onDlsMadeClosedUnlocked_wk {ps : List DoorPart} {w0 w : Work} (hw : Inside [.sm, .inp, .door, .step, .obst, .cycle] ps) (h : WorkKeeps ps w0 w) (a1 : DoorEnv) :
    WorkKeeps ps w0 (onDlsMadeClosedUnlocked a1 w) := by
  unfold onDlsMadeClosedUnlocked
  repeat' (first
    | (with_reducible assumption)
    | (with_reducible refine Work.smFlags_wk (hw.of rfl) ?_ _)
    | (with_reducible refine doorTick_wk (hw.of rfl) ?_ _)
    | (with_reducible refine setInput_wk (hw.of rfl) ?_ _ _ _)
    | (with_reducible refine WorkKeeps.ite ?_ ?_)
    | intro _
    | split
    | dsimp only)

theorem onDcsBreakClosedUnlocked_wk {ps : List DoorPart} {w0 w : Work} (hw : Inside [.sm, .inp, .door, .step, .obst, .cycle] ps) (h : WorkKeeps ps w0 w) (a1 : DoorEnv) :
    WorkKeeps ps w0 (onDcsBreakClosedUnlocked a1 w) := by
  unfold onDcsBreakClosedUnlocked
  repeat' (first
    | (with_reducible assumption)
    | (with_reducible refine doorTick_wk (hw.of rfl) ?_ _)
    | (with_reducible refine setInput_wk (hw.of rfl) ?_ _ _ _)
    | (with_reducible refine WorkKeeps.ite ?_ ?_)
    | intro _
    | split
    | dsimp only)

theorem onReopenDwellEnd_wk {ps : List DoorPart} {w0 w : Work} (hw : Inside [.sm, .door, .step, .obst, .cycle] ps) (h : WorkKeeps ps w0 w) (a1 : DoorEnv) :
    WorkKeeps ps w0 (onReopenDwellEnd a1 w) := by
  unfold onReopenDwellEnd
  repeat' (first
    | (with_reducible assumption)
    | (with_reducible refine doorTickWith_wk (hw.of rfl) ?_ _ ?_)
    | (with_reducible refine enterWarn_wk (hw.of rfl) ?_ _ _ _)
    | (with_reducible refine WorkKeeps.ite ?_ ?_)
    | intro _
    | split
    | dsimp only)

theorem onMaintHoldEnd_wk {ps : List DoorPart} {w0 w : Work} (hw : Inside [.sm, .door, .step, .obst, .cycle] ps) (h : WorkKeeps ps w0 w) (a1 : DoorEnv) :
    WorkKeeps ps w0 (onMaintHoldEnd a1 w) := by
  unfold onMaintHoldEnd
  repeat' (first
    | (with_reducible assumption)
    | (with_reducible refine maintClose_wk (hw.of rfl) ?_ _)
    | (with_reducible refine WorkKeeps.ite ?_ ?_)
    | intro _
    | split
    | dsimp only)

theorem doorPathEnds_wk {ps : List DoorPart} {w0 w : Work} (hw : Inside [.sm, .door, .step, .obst, .cycle] ps) (h : WorkKeeps ps w0 w) (a1 : DoorEnv) :
    WorkKeeps ps w0 (doorPathEnds a1 w) := by
  unfold doorPathEnds
  repeat' (first
    | (with_reducible assumption)
    | (with_reducible refine Work.door_wk (hw.of rfl) ?_ _)
    | (with_reducible refine Work.doorFlags_wk (hw.of rfl) ?_ _)
    | (with_reducible refine Work.smFlags_wk (hw.of rfl) ?_ _)
    | (with_reducible refine doorTick_wk (hw.of rfl) ?_ _)
    | (with_reducible refine enterDwell_wk (hw.of rfl) ?_ _)
    | (with_reducible refine sealSeekStart_wk (hw.of rfl) ?_ _)
    | (with_reducible refine WorkKeeps.ite ?_ ?_)
    | intro _
    | split
    | dsimp only)

theorem homingEnds_wk {ps : List DoorPart} {w0 w : Work} (hw : Inside [.sm, .door, .step, .obst, .cycle] ps) (h : WorkKeeps ps w0 w) (a1 : DoorEnv) :
    WorkKeeps ps w0 (homingEnds a1 w) := by
  unfold homingEnds
  repeat' (first
    | (with_reducible assumption)
    | (with_reducible refine cycleEnd_wk (hw.of rfl) ?_ _)
    | (with_reducible refine doorTick_wk (hw.of rfl) ?_ _)
    | (with_reducible refine maintStops_wk (hw.of rfl) ?_ _ _)
    | (with_reducible refine settle_wk (hw.of rfl) ?_ _)
    | (with_reducible refine WorkKeeps.ite ?_ ?_)
    | intro _
    | split
    | dsimp only)

theorem afterStep_wk {ps : List DoorPart} {w0 w : Work} (hw : Inside [.sm, .door, .step, .obst, .cycle] ps) (h : WorkKeeps ps w0 w) (a1 : DoorEnv) :
    WorkKeeps ps w0 (afterStep a1 w) := by
  unfold afterStep
  repeat' (first
    | (with_reducible assumption)
    | (with_reducible refine cycleEnd_wk (hw.of rfl) ?_ _)
    | (with_reducible refine doorTick_wk (hw.of rfl) ?_ _)
    | (with_reducible refine homingEnds_wk (hw.of rfl) ?_ _)
    | (with_reducible refine maintStops_wk (hw.of rfl) ?_ _ _)
    | (with_reducible refine WorkKeeps.ite ?_ ?_)
    | intro _
    | split
    | dsimp only)

theorem onStepPathEnds_wk {ps : List DoorPart} {w0 w : Work} (hw : Inside [.sm, .door, .step, .obst, .cycle] ps) (h : WorkKeeps ps w0 w) (a1 : DoorEnv) :
    WorkKeeps ps w0 (onStepPathEnds a1 w) := by
  unfold onStepPathEnds
  repeat' (first
    | (with_reducible assumption)
    | (with_reducible refine afterStep_wk (hw.of rfl) ?_ _)
    | (with_reducible refine stepPathEnds_wk (hw.of rfl) ?_ _)
    | (with_reducible refine WorkKeeps.ite ?_ ?_)
    | intro _
    | split
    | dsimp only)

theorem onSegmentEnd_wk {ps : List DoorPart} {w0 w : Work} (hw : Inside [.cycle] ps) (h : WorkKeeps ps w0 w) :
    WorkKeeps ps w0 (onSegmentEnd w) := by
  unfold onSegmentEnd
  repeat' (first
    | (with_reducible assumption)
    | (with_reducible refine Work.cycleFlags_wk (hw.of rfl) ?_ _)
    | (with_reducible refine WorkKeeps.ite ?_ ?_)
    | intro _
    | split
    | dsimp only)

theorem onDoorStopped_wk {ps : List DoorPart} {w0 w : Work} (hw : Inside [.sm, .door, .step, .obst, .cycle] ps) (h : WorkKeeps ps w0 w) (a1 : DoorEnv) :
    WorkKeeps ps w0 (onDoorStopped a1 w) := by
  unfold onDoorStopped
  repeat' (first
    | (with_reducible assumption)
    | (with_reducible refine Work.door_wk (hw.of rfl) ?_ _)
    | (with_reducible refine afterReflexStop_wk (hw.of rfl) ?_ _)
    | (with_reducible refine releaseLatch_wk (hw.of rfl) ?_ _)
    | (with_reducible refine WorkKeeps.ite ?_ ?_)
    | intro _
    | split
    | dsimp only)

theorem onStepStopped_wk {ps : List DoorPart} {w0 w : Work} (hw : Inside [.step] ps) (h : WorkKeeps ps w0 w) :
    WorkKeeps ps w0 (onStepStopped w) := by
  unfold onStepStopped
  repeat' (first
    | (with_reducible assumption)
    | (with_reducible refine Work.step_wk (hw.of rfl) ?_ _)
    | (with_reducible refine WorkKeeps.ite ?_ ?_)
    | intro _
    | split
    | dsimp only)

theorem interruptionStop_wk {ps : List DoorPart} {w0 w : Work} (hw : Inside [.sm, .door, .step, .obst, .cycle] ps) (h : WorkKeeps ps w0 w) (a1 : DoorEnv) :
    WorkKeeps ps w0 (interruptionStop a1 w) := by
  unfold interruptionStop
  repeat' (first
    | (with_reducible assumption)
    | (with_reducible refine Work.sm_wk (hw.of rfl) ?_ _)
    | (with_reducible refine backFromUnlocking_wk (hw.of rfl) ?_ _ _)
    | (with_reducible refine enter_wk (hw.of rfl) ?_ _ _ _ _)
    | (with_reducible refine stopDrives_wk (hw.of rfl) ?_ _ _)
    | (with_reducible refine WorkKeeps.ite ?_ ?_)
    | intro _
    | split
    | dsimp only)

theorem onInterruption_wk {ps : List DoorPart} {w0 w : Work} (hw : Inside [.sm, .door, .step, .obst, .cycle] ps) (h : WorkKeeps ps w0 w) (a1 : DoorEnv) (a2 : Bool) (a3 : Interruption) :
    WorkKeeps ps w0 (onInterruption a1 a2 a3 w) := by
  unfold onInterruption
  repeat' (first
    | (with_reducible assumption)
    | (with_reducible refine doorInterrupted_wk (hw.of rfl) ?_ _ _)
    | (with_reducible refine doorTickWith_wk (hw.of rfl) ?_ _ ?_)
    | (with_reducible refine interruptionStop_wk (hw.of rfl) ?_ _)
    | (with_reducible refine stepInterrupted_wk (hw.of rfl) ?_ _ _)
    | (with_reducible refine WorkKeeps.ite ?_ ?_)
    | intro _
    | split
    | dsimp only)

theorem stepRegains_wk {ps : List DoorPart} {w0 w : Work} (hw : Inside [.step] ps) (h : WorkKeeps ps w0 w) (a1 : DoorEnv) :
    WorkKeeps ps w0 (stepRegains a1 w) := by
  unfold stepRegains
  repeat' (first
    | (with_reducible assumption)
    | (with_reducible refine Work.step_wk (hw.of rfl) ?_ _)
    | (with_reducible refine stepBeginsAgain_wk (hw.of rfl) ?_ _ _)
    | (with_reducible refine WorkKeeps.ite ?_ ?_)
    | intro _
    | split
    | dsimp only)

theorem onInterruptionEnd_wk {ps : List DoorPart} {w0 w : Work} (hw : Inside [.door, .step] ps) (h : WorkKeeps ps w0 w) (a1 : DoorEnv) (a2 : Bool) (a3 : Interruption) :
    WorkKeeps ps w0 (onInterruptionEnd a1 a2 a3 w) := by
  unfold onInterruptionEnd
  repeat' (first
    | (with_reducible assumption)
    | (with_reducible refine doorInterruptionEnds_wk (hw.of rfl) ?_ _ _)
    | (with_reducible refine stepInterruptionEnds_wk (hw.of rfl) ?_ _ _)
    | (with_reducible refine stepRegains_wk (hw.of rfl) ?_ _)
    | (with_reducible refine WorkKeeps.ite ?_ ?_)
    | intro _
    | split
    | dsimp only)

theorem hallHardware_wk {ps : List DoorPart} {w0 w : Work} (hw : Inside [.door] ps) (h : WorkKeeps ps w0 w) (a1 : DoorEnv) (a2 : Nat) (a3 : Nat) :
    WorkKeeps ps w0 (hallHardware a1 a2 a3 w).1 := by
  unfold hallHardware
  repeat' (first
    | (with_reducible assumption)
    | (with_reducible refine Work.door_wk (hw.of rfl) ?_ _)
    | (with_reducible refine doorCompare_wk (hw.of rfl) ?_ _)
    | (with_reducible refine WorkKeeps.ite ?_ ?_)
    | intro _
    | split
    | dsimp only)

theorem hallReacts_wk {ps : List DoorPart} {w0 w : Work} (hw : Inside [.sm, .door, .step, .obst, .cycle] ps) (h : WorkKeeps ps w0 w) (a1 : DoorEnv) (a2 : HallEvent) :
    WorkKeeps ps w0 (hallReacts a1 a2 w) := by
  unfold hallReacts
  repeat' (first
    | (with_reducible assumption)
    | (with_reducible refine hallSuspect_wk (hw.of rfl) ?_ _)
    | (with_reducible refine onInterruption_wk (hw.of rfl) ?_ _ _ _)
    | (with_reducible refine WorkKeeps.ite ?_ ?_)
    | intro _
    | split
    | dsimp only)

theorem onHallDropout_wk {ps : List DoorPart} {w0 w : Work} (hw : Inside [.sm, .door, .step, .obst, .cycle] ps) (h : WorkKeeps ps w0 w) (a1 : DoorEnv) (a2 : Bool) (a3 : Nat) :
    WorkKeeps ps w0 (onHallDropout a1 a2 a3 w) := by
  unfold onHallDropout
  repeat' (first
    | (with_reducible assumption)
    | (with_reducible refine Work.door_wk (hw.of rfl) ?_ _)
    | (with_reducible refine hallSuspect_wk (hw.of rfl) ?_ _)
    | (with_reducible refine onInterruption_wk (hw.of rfl) ?_ _ _ _)
    | (with_reducible refine WorkKeeps.ite ?_ ?_)
    | intro _
    | split
    | dsimp only)

theorem onHallFault_wk {ps : List DoorPart} {w0 w : Work} (hw : Inside [.sm, .door, .step, .obst, .cycle] ps) (h : WorkKeeps ps w0 w) (a1 : DoorEnv) (a2 : Nat) :
    WorkKeeps ps w0 (onHallFault a1 a2 w) := by
  unfold onHallFault
  repeat' (first
    | (with_reducible assumption)
    | (with_reducible refine doorFault_wk (hw.of rfl) ?_ _ _ _)
    | (with_reducible refine doorTick_wk (hw.of rfl) ?_ _)
    | (with_reducible refine hallSuspect_wk (hw.of rfl) ?_ _)
    | (with_reducible refine WorkKeeps.ite ?_ ?_)
    | intro _
    | split
    | dsimp only)

theorem onHardwareTrip_wk {ps : List DoorPart} {w0 w : Work} (hw : Inside [.sm, .door, .step, .obst, .cycle] ps) (h : WorkKeeps ps w0 w) (a1 : DoorEnv) (a2 : Bool) (a3 : HwTrip) (a4 : Nat) :
    WorkKeeps ps w0 (onHardwareTrip a1 a2 a3 a4 w) := by
  unfold onHardwareTrip
  repeat' (first
    | (with_reducible assumption)
    | (with_reducible refine afterStep_wk (hw.of rfl) ?_ _)
    | (with_reducible refine doorFault_wk (hw.of rfl) ?_ _ _ _)
    | (with_reducible refine doorTick_wk (hw.of rfl) ?_ _)
    | (with_reducible refine stepFault_wk (hw.of rfl) ?_ _ _ _)
    | (with_reducible refine WorkKeeps.ite ?_ ?_)
    | intro _
    | split
    | dsimp only)

theorem onDirection_wk {ps : List DoorPart} {w0 w : Work} (hw : Inside [.sm, .door, .step, .obst, .cycle] ps) (h : WorkKeeps ps w0 w) (a1 : DoorEnv) :
    WorkKeeps ps w0 (onDirection a1 w) := by
  unfold onDirection
  repeat' (first
    | (with_reducible assumption)
    | (with_reducible refine doorFault_wk (hw.of rfl) ?_ _ _ _)
    | (with_reducible refine doorTick_wk (hw.of rfl) ?_ _)
    | (with_reducible refine WorkKeeps.ite ?_ ?_)
    | intro _
    | split
    | dsimp only)

theorem onFollowing_wk {ps : List DoorPart} {w0 w : Work} (hw : Inside [.sm, .door, .step, .obst, .cycle] ps) (h : WorkKeeps ps w0 w) (a1 : DoorEnv) :
    WorkKeeps ps w0 (onFollowing a1 w) := by
  unfold onFollowing
  repeat' (first
    | (with_reducible assumption)
    | (with_reducible refine onInterruption_wk (hw.of rfl) ?_ _ _ _)
    | (with_reducible refine WorkKeeps.ite ?_ ?_)
    | intro _
    | split
    | dsimp only)

theorem onThermal_wk {ps : List DoorPart} {w0 w : Work} (hw : Inside [.sm, .door, .step, .obst, .cycle] ps) (h : WorkKeeps ps w0 w) (a1 : DoorEnv) (a2 : Bool) (a3 : Int) :
    WorkKeeps ps w0 (onThermal a1 a2 a3 w) := by
  unfold onThermal
  repeat' (first
    | (with_reducible assumption)
    | (with_reducible refine Work.door_wk (hw.of rfl) ?_ _)
    | (with_reducible refine Work.step_wk (hw.of rfl) ?_ _)
    | (with_reducible refine onInterruption_wk (hw.of rfl) ?_ _ _ _)
    | (with_reducible refine WorkKeeps.ite ?_ ?_)
    | intro _
    | split
    | dsimp only)

theorem onThermalClear_wk {ps : List DoorPart} {w0 w : Work} (hw : Inside [.door, .step] ps) (h : WorkKeeps ps w0 w) (a1 : DoorEnv) (a2 : Bool) (a3 : Int) :
    WorkKeeps ps w0 (onThermalClear a1 a2 a3 w) := by
  unfold onThermalClear
  repeat' (first
    | (with_reducible assumption)
    | (with_reducible refine Work.door_wk (hw.of rfl) ?_ _)
    | (with_reducible refine Work.step_wk (hw.of rfl) ?_ _)
    | (with_reducible refine onInterruptionEnd_wk (hw.of rfl) ?_ _ _ _)
    | (with_reducible refine WorkKeeps.ite ?_ ?_)
    | intro _
    | split
    | dsimp only)

theorem onDcsEdge_wk {ps : List DoorPart} {w0 w : Work} (hw : Inside [.sm, .inp, .door, .step, .obst, .cycle] ps) (h : WorkKeeps ps w0 w) (a1 : DoorEnv) (a2 : Bool) :
    WorkKeeps ps w0 (onDcsEdge a1 a2 w) := by
  unfold onDcsEdge
  repeat' (first
    | (with_reducible assumption)
    | (with_reducible refine doorTick_wk (hw.of rfl) ?_ _)
    | (with_reducible refine indexCompare_wk (hw.of rfl) ?_ _ _)
    | (with_reducible refine setInput_wk (hw.of rfl) ?_ _ _ _)
    | (with_reducible refine WorkKeeps.ite ?_ ?_)
    | intro _
    | split
    | dsimp only)

theorem onSealStall_wk {ps : List DoorPart} {w0 w : Work} (hw : Inside [.sm, .door, .step, .obst, .cycle] ps) (h : WorkKeeps ps w0 w) (a1 : DoorEnv) :
    WorkKeeps ps w0 (onSealStall a1 w) := by
  unfold onSealStall
  repeat' (first
    | (with_reducible assumption)
    | (with_reducible refine Work.doorFlags_wk (hw.of rfl) ?_ _)
    | (with_reducible refine Work.obst_wk (hw.of rfl) ?_ _)
    | (with_reducible refine countFinalClosure_wk (hw.of rfl) ?_)
    | (with_reducible refine doorTick_wk (hw.of rfl) ?_ _)
    | (with_reducible refine enterLock_wk (hw.of rfl) ?_ _)
    | (with_reducible refine recordTrip_wk (hw.of rfl) ?_ _ _)
    | (with_reducible refine relearn_wk (hw.of rfl) ?_ _)
    | (with_reducible refine WorkKeeps.ite ?_ ?_)
    | intro _
    | split
    | dsimp only)

theorem onSealOvertravel_wk {ps : List DoorPart} {w0 w : Work} (hw : Inside [.sm, .door, .step, .obst, .cycle] ps) (h : WorkKeeps ps w0 w) (a1 : DoorEnv) :
    WorkKeeps ps w0 (onSealOvertravel a1 w) := by
  unfold onSealOvertravel
  repeat' (first
    | (with_reducible assumption)
    | (with_reducible refine doorFault_wk (hw.of rfl) ?_ _ _ _)
    | (with_reducible refine doorTick_wk (hw.of rfl) ?_ _)
    | (with_reducible refine WorkKeeps.ite ?_ ?_)
    | intro _
    | split
    | dsimp only)

theorem issueStep_wk {ps : List DoorPart} {w0 w : Work} (hw : Inside [.step] ps) (h : WorkKeeps ps w0 w) (a1 : DoorEnv) (a2 : Path) (a3 : Nat) (a4 : Int) (a5 : CoilSample) :
    WorkKeeps ps w0 (issueStep a1 a2 a3 a4 a5 w) := by
  unfold issueStep
  repeat' (first
    | (with_reducible assumption)
    | (with_reducible refine Work.step_wk (hw.of rfl) ?_ _)
    | (with_reducible refine stepCompare_wk (hw.of rfl) ?_ _)
    | (with_reducible refine stepLose_wk (hw.of rfl) ?_ _ _)
    | (with_reducible refine WorkKeeps.ite ?_ ?_)
    | intro _
    | split
    | dsimp only)

theorem stepIssues_wk {ps : List DoorPart} {w0 w : Work} (hw : Inside [.step] ps) (h : WorkKeeps ps w0 w) (a1 : DoorEnv) (a2 : Path) (a3 a4 a5 : Nat) :
    WorkKeeps ps w0 (stepIssues a1 a2 a3 a4 a5 w) := by
  induction a3 generalizing a4 a5 w with
  | zero => exact h
  | succ n ih =>
    unfold stepIssues
    repeat' (first
      | (with_reducible assumption)
      | (with_reducible refine ih ?_ _ _)
      | (with_reducible refine issueStep_wk (hw.of rfl) ?_ _ _ _ _ _)
      | (with_reducible refine Work.step_wk (hw.of rfl) ?_ _)
      | (with_reducible refine WorkKeeps.ite ?_ ?_)
      | split | dsimp only)

theorem onStepTimer_wk {ps : List DoorPart} {w0 w : Work} (hw : Inside [.step] ps) (h : WorkKeeps ps w0 w) (a1 : DoorEnv) :
    WorkKeeps ps w0 (onStepTimer a1 w) := by
  unfold onStepTimer
  repeat' (first
    | (with_reducible assumption)
    | (with_reducible refine Work.step_wk (hw.of rfl) ?_ _)
    | (with_reducible refine issueStep_wk (hw.of rfl) ?_ _ _ _ _ _)
    | (with_reducible refine WorkKeeps.ite ?_ ?_)
    | intro _
    | split
    | dsimp only)

theorem onStall_wk {ps : List DoorPart} {w0 w : Work} (hw : Inside [.sm, .door, .step, .obst, .cycle] ps) (h : WorkKeeps ps w0 w) (a1 : DoorEnv) :
    WorkKeeps ps w0 (onStall a1 w) := by
  unfold onStall
  repeat' (first
    | (with_reducible assumption)
    | (with_reducible refine Work.step_wk (hw.of rfl) ?_ _)
    | (with_reducible refine afterStep_wk (hw.of rfl) ?_ _)
    | (with_reducible refine doLocalClose_wk (hw.of rfl) ?_ _ _)
    | (with_reducible refine doorTickWith_wk (hw.of rfl) ?_ _ ?_)
    | (with_reducible refine stepStall_wk (hw.of rfl) ?_ _ _)
    | (with_reducible refine WorkKeeps.ite ?_ ?_)
    | intro _
    | split
    | dsimp only)

theorem onStallReport_wk {ps : List DoorPart} {w0 w : Work} (hw : Inside [.sm, .door, .step, .obst, .cycle] ps) (h : WorkKeeps ps w0 w) (a1 : DoorEnv) (a2 : Int) :
    WorkKeeps ps w0 (onStallReport a1 a2 w) := by
  unfold onStallReport
  repeat' (first
    | (with_reducible assumption)
    | (with_reducible refine onStall_wk (hw.of rfl) ?_ _)
    | (with_reducible refine WorkKeeps.ite ?_ ?_)
    | intro _
    | split
    | dsimp only)

theorem onHomingOvertravel_wk {ps : List DoorPart} {w0 w : Work} (hw : Inside [.sm, .door, .step, .obst, .cycle] ps) (h : WorkKeeps ps w0 w) (a1 : DoorEnv) :
    WorkKeeps ps w0 (onHomingOvertravel a1 w) := by
  unfold onHomingOvertravel
  repeat' (first
    | (with_reducible assumption)
    | (with_reducible refine afterStep_wk (hw.of rfl) ?_ _)
    | (with_reducible refine stepFault_wk (hw.of rfl) ?_ _ _ _)
    | (with_reducible refine WorkKeeps.ite ?_ ?_)
    | intro _
    | split
    | dsimp only)

theorem onParkComplete_wk {ps : List DoorPart} {w0 w : Work} (hw : Inside [.sm, .door, .step, .obst, .cycle] ps) (h : WorkKeeps ps w0 w) (a1 : DoorEnv) :
    WorkKeeps ps w0 (onParkComplete a1 w) := by
  unfold onParkComplete
  repeat' (first
    | (with_reducible assumption)
    | (with_reducible refine afterStep_wk (hw.of rfl) ?_ _)
    | (with_reducible refine finishPark_wk (hw.of rfl) ?_ _)
    | (with_reducible refine WorkKeeps.ite ?_ ?_)
    | intro _
    | split
    | dsimp only)

theorem onDeployComplete_wk {ps : List DoorPart} {w0 w : Work} (hw : Inside [.sm, .door, .step, .obst, .cycle] ps) (h : WorkKeeps ps w0 w) (a1 : DoorEnv) :
    WorkKeeps ps w0 (onDeployComplete a1 w) := by
  unfold onDeployComplete
  repeat' (first
    | (with_reducible assumption)
    | (with_reducible refine deployCompletes_wk (hw.of rfl) ?_ _)
    | (with_reducible refine doorTick_wk (hw.of rfl) ?_ _)
    | (with_reducible refine WorkKeeps.ite ?_ ?_)
    | intro _
    | split
    | dsimp only)

theorem onSdsTimeout_wk {ps : List DoorPart} {w0 w : Work} (hw : Inside [.sm, .door, .step, .obst, .cycle] ps) (h : WorkKeeps ps w0 w) (a1 : DoorEnv) :
    WorkKeeps ps w0 (onSdsTimeout a1 w) := by
  unfold onSdsTimeout
  repeat' (first
    | (with_reducible assumption)
    | (with_reducible refine deployFails_wk (hw.of rfl) ?_ _)
    | (with_reducible refine doLocalClose_wk (hw.of rfl) ?_ _ _)
    | (with_reducible refine doorTick_wk (hw.of rfl) ?_ _)
    | (with_reducible refine doorTickWith_wk (hw.of rfl) ?_ _ ?_)
    | (with_reducible refine WorkKeeps.ite ?_ ?_)
    | intro _
    | split
    | dsimp only)

theorem onSdsLost_wk {ps : List DoorPart} {w0 w : Work} (hw : Inside [.sm, .inp, .door, .step, .obst, .cycle] ps) (h : WorkKeeps ps w0 w) (a1 : DoorEnv) :
    WorkKeeps ps w0 (onSdsLost a1 w) := by
  unfold onSdsLost
  repeat' (first
    | (with_reducible assumption)
    | (with_reducible refine setInput_wk (hw.of rfl) ?_ _ _ _)
    | (with_reducible refine WorkKeeps.ite ?_ ?_)
    | intro _
    | split
    | dsimp only)

theorem onRetryPauseEnd_wk {ps : List DoorPart} {w0 w : Work} (hw : Inside [.sm, .door, .step, .obst, .cycle] ps) (h : WorkKeeps ps w0 w) (a1 : DoorEnv) :
    WorkKeeps ps w0 (onRetryPauseEnd a1 w) := by
  unfold onRetryPauseEnd
  repeat' (first
    | (with_reducible assumption)
    | (with_reducible refine afterStep_wk (hw.of rfl) ?_ _)
    | (with_reducible refine startHomingPhase_wk (hw.of rfl) ?_ _ _)
    | (with_reducible refine WorkKeeps.ite ?_ ?_)
    | intro _
    | split
    | dsimp only)

theorem onTripTaken_wk {ps : List DoorPart} {w0 w : Work} (hw : Inside [.sm, .door, .step, .obst, .cycle] ps) (h : WorkKeeps ps w0 w) (a1 : DoorEnv) :
    WorkKeeps ps w0 (onTripTaken a1 w) := by
  unfold onTripTaken
  repeat' (first
    | (with_reducible assumption)
    | (with_reducible refine doorTick_wk (hw.of rfl) ?_ _)
    | (with_reducible refine WorkKeeps.ite ?_ ?_)
    | intro _
    | split
    | dsimp only)

theorem resumeDoor_wk {ps : List DoorPart} {w0 w : Work} (hw : Inside [.door, .obst, .cycle] ps) (h : WorkKeeps ps w0 w) (a1 : DoorEnv) :
    WorkKeeps ps w0 (resumeDoor a1 w) := by
  unfold resumeDoor
  repeat' (first
    | (with_reducible assumption)
    | (with_reducible refine Work.door_wk (hw.of rfl) ?_ _)
    | (with_reducible refine doorHold_wk (hw.of rfl) ?_ _)
    | (with_reducible refine doorResume_wk (hw.of rfl) ?_ _)
    | (with_reducible refine sealSeekStart_wk (hw.of rfl) ?_ _)
    | (with_reducible refine WorkKeeps.ite ?_ ?_)
    | intro _
    | split
    | dsimp only)

theorem onLatchRelease_wk {ps : List DoorPart} {w0 w : Work} (hw : Inside [.door, .step, .obst, .cycle] ps) (h : WorkKeeps ps w0 w) (a1 : DoorEnv) :
    WorkKeeps ps w0 (onLatchRelease a1 w) := by
  unfold onLatchRelease
  repeat' (first
    | (with_reducible assumption)
    | (with_reducible refine Work.obst_wk (hw.of rfl) ?_ _)
    | (with_reducible refine releaseLatch_wk (hw.of rfl) ?_ _)
    | (with_reducible refine resumeDoor_wk (hw.of rfl) ?_ _)
    | (with_reducible refine stepRegains_wk (hw.of rfl) ?_ _)
    | (with_reducible refine WorkKeeps.ite ?_ ?_)
    | intro _
    | split
    | dsimp only)

theorem onReflexStopEnd_wk {ps : List DoorPart} {w0 w : Work} (hw : Inside [.sm, .door, .step, .obst, .cycle] ps) (h : WorkKeeps ps w0 w) (a1 : DoorEnv) :
    WorkKeeps ps w0 (onReflexStopEnd a1 w) := by
  unfold onReflexStopEnd
  repeat' (first
    | (with_reducible assumption)
    | (with_reducible refine afterReflexStop_wk (hw.of rfl) ?_ _)
    | (with_reducible refine releaseLatch_wk (hw.of rfl) ?_ _)
    | (with_reducible refine stepRegains_wk (hw.of rfl) ?_ _)
    | (with_reducible refine WorkKeeps.ite ?_ ?_)
    | intro _
    | split
    | dsimp only)

theorem onSePathFault_wk {ps : List DoorPart} {w0 w : Work} (hw : Inside [.obst] ps) (h : WorkKeeps ps w0 w) (a1 : DoorEnv) (a2 : Bool) :
    WorkKeeps ps w0 (onSePathFault a1 a2 w) := by
  unfold onSePathFault
  repeat' (first
    | (with_reducible assumption)
    | (with_reducible refine Work.emit_wk (hw.of rfl) ?_ _)
    | (with_reducible refine Work.obst_wk (hw.of rfl) ?_ _)
    | (with_reducible refine Work.obstEvent_wk (hw.of rfl) ?_ _ _ _ _ _)
    | (with_reducible refine WorkKeeps.ite ?_ ?_)
    | intro _
    | split
    | dsimp only)

theorem onSePathClear_wk {ps : List DoorPart} {w0 w : Work} (hw : Inside [.obst] ps) (h : WorkKeeps ps w0 w) (a1 : DoorEnv) :
    WorkKeeps ps w0 (onSePathClear a1 w) := by
  unfold onSePathClear
  repeat' (first
    | (with_reducible assumption)
    | (with_reducible refine Work.obstEvent_wk (hw.of rfl) ?_ _ _ _ _ _)
    | (with_reducible refine Work.obstFlags_wk (hw.of rfl) ?_ _)
    | (with_reducible refine WorkKeeps.ite ?_ ?_)
    | intro _
    | split
    | dsimp only)

theorem onBreakawayEnd_wk {ps : List DoorPart} {w0 w : Work} (hw : Inside [.obst] ps) (h : WorkKeeps ps w0 w) :
    WorkKeeps ps w0 (onBreakawayEnd w) := by
  unfold onBreakawayEnd
  repeat' (first
    | (with_reducible assumption)
    | (with_reducible refine Work.obstFlags_wk (hw.of rfl) ?_ _)
    | (with_reducible refine WorkKeeps.ite ?_ ?_)
    | intro _
    | split
    | dsimp only)

theorem onAdaptWindowEnd_wk {ps : List DoorPart} {w0 w : Work} (hw : Inside [.obst] ps) (h : WorkKeeps ps w0 w) (a1 : Bool) :
    WorkKeeps ps w0 (onAdaptWindowEnd a1 w) := by
  unfold onAdaptWindowEnd
  repeat' (first
    | (with_reducible assumption)
    | (with_reducible refine Work.obst_wk (hw.of rfl) ?_ _)
    | (with_reducible refine WorkKeeps.ite ?_ ?_)
    | intro _
    | split
    | dsimp only)

theorem saveEnvelopes_wk {ps : List DoorPart} {w0 w : Work} (hw : Inside [.obst] ps) (h : WorkKeeps ps w0 w) :
    WorkKeeps ps w0 (saveEnvelopes w) := by
  unfold saveEnvelopes
  repeat' (first
    | (with_reducible assumption)
    | (with_reducible refine Work.obst_wk (hw.of rfl) ?_ _)
    | (with_reducible refine WorkKeeps.ite ?_ ?_)
    | intro _
    | split
    | dsimp only)

theorem onAdaptWrite_wk {ps : List DoorPart} {w0 w : Work} (hw : Inside [.obst] ps) (h : WorkKeeps ps w0 w) :
    WorkKeeps ps w0 (onAdaptWrite w) := by
  unfold onAdaptWrite
  repeat' (first
    | (with_reducible assumption)
    | (with_reducible refine saveEnvelopes_wk (hw.of rfl) ?_)
    | (with_reducible refine WorkKeeps.ite ?_ ?_)
    | intro _
    | split
    | dsimp only)

theorem doReset_wk {ps : List DoorPart} {w0 w : Work} (hw : Inside [.sm, .door, .step, .obst, .cycle] ps) (h : WorkKeeps ps w0 w) (a1 : DoorEnv) :
    WorkKeeps ps w0 (doReset a1 w) := by
  unfold doReset
  repeat' (first
    | (with_reducible assumption)
    | (with_reducible refine settle_wk (hw.of rfl) ?_ _)
    | (with_reducible refine stepLose_wk (hw.of rfl) ?_ _ _)
    | (with_reducible refine WorkKeeps.ite ?_ ?_)
    | intro _
    | split
    | dsimp only)

theorem doIsolate_wk {ps : List DoorPart} {w0 w : Work} (hw : Inside [.sm, .door, .step, .obst, .cycle] ps) (h : WorkKeeps ps w0 w) (a1 : DoorEnv) :
    WorkKeeps ps w0 (doIsolate a1 w) := by
  unfold doIsolate
  repeat' (first
    | (with_reducible assumption)
    | (with_reducible refine Work.smFlags_wk (hw.of rfl) ?_ _)
    | (with_reducible refine enterIsolated_wk (hw.of rfl) ?_ _ _)
    | (with_reducible refine WorkKeeps.ite ?_ ?_)
    | intro _
    | split
    | dsimp only)

theorem doReturn_wk {ps : List DoorPart} {w0 w : Work} (hw : Inside [.sm, .door, .step, .obst, .cycle] ps) (h : WorkKeeps ps w0 w) (a1 : DoorEnv) :
    WorkKeeps ps w0 (doReturn a1 w) := by
  unfold doReturn
  repeat' (first
    | (with_reducible assumption)
    | (with_reducible refine Work.smFlags_wk (hw.of rfl) ?_ _)
    | (with_reducible refine settle_wk (hw.of rfl) ?_ _)
    | (with_reducible refine WorkKeeps.ite ?_ ?_)
    | intro _
    | split
    | dsimp only)

theorem startHome_wk {ps : List DoorPart} {w0 w : Work} (hw : Inside [.step] ps) (h : WorkKeeps ps w0 w) (a1 : DoorEnv) (a2 : Nat) :
    WorkKeeps ps w0 (startHome a1 a2 w) := by
  unfold startHome
  repeat' (first
    | (with_reducible assumption)
    | (with_reducible refine Work.step_wk (hw.of rfl) ?_ _)
    | (with_reducible refine startHoming_wk (hw.of rfl) ?_ _)
    | (with_reducible refine stepStarts_wk (hw.of rfl) ?_)
    | (with_reducible refine WorkKeeps.ite ?_ ?_)
    | intro _
    | split
    | dsimp only)

theorem startMaint_wk {ps : List DoorPart} {w0 w : Work} (hw : Inside [.sm, .door, .step, .obst, .cycle] ps) (h : WorkKeeps ps w0 w) (a1 : DoorEnv) (a2 : MaintOp) (a3 : Nat) :
    WorkKeeps ps w0 (startMaint a1 a2 a3 w) := by
  unfold startMaint
  repeat' (first
    | (with_reducible assumption)
    | (with_reducible refine Work.obstFlags_wk (hw.of rfl) ?_ _)
    | (with_reducible refine Work.sm_wk (hw.of rfl) ?_ _)
    | (with_reducible refine Work.smFlags_wk (hw.of rfl) ?_ _)
    | (with_reducible refine enter_wk (hw.of rfl) ?_ _ _ _ _)
    | (with_reducible refine maintUnlock_wk (hw.of rfl) ?_ _)
    | (with_reducible refine startHome_wk (hw.of rfl) ?_ _ _)
    | (with_reducible refine WorkKeeps.ite ?_ ?_)
    | intro _
    | split
    | dsimp only)

theorem homeIsolated_wk {ps : List DoorPart} {w0 w : Work} (hw : Inside [.sm, .step, .cycle] ps) (h : WorkKeeps ps w0 w) (a1 : DoorEnv) (a2 : Nat) (a3 : Nat) :
    WorkKeeps ps w0 (homeIsolated a1 a2 a3 w) := by
  unfold homeIsolated
  repeat' (first
    | (with_reducible assumption)
    | (with_reducible refine Work.sm_wk (hw.of rfl) ?_ _)
    | (with_reducible refine cycleBegin_wk (hw.of rfl) ?_ _ _)
    | (with_reducible refine startHome_wk (hw.of rfl) ?_ _ _)
    | (with_reducible refine WorkKeeps.ite ?_ ?_)
    | intro _
    | split
    | dsimp only)

theorem doMoveTo_wk {ps : List DoorPart} {w0 w : Work} (hw : Inside [.sm, .door, .obst, .cycle] ps) (h : WorkKeeps ps w0 w) (a1 : DoorEnv) (a2 : Int) (a3 : Nat) :
    WorkKeeps ps w0 (doMoveTo a1 a2 a3 w) := by
  unfold doMoveTo
  repeat' (first
    | (with_reducible assumption)
    | (with_reducible refine Work.smFlags_wk (hw.of rfl) ?_ _)
    | (with_reducible refine doorMove_wk (hw.of rfl) ?_ _ _ _ _)
    | (with_reducible refine WorkKeeps.ite ?_ ?_)
    | intro _
    | split
    | dsimp only)

theorem markPassed_wk {ps : List DoorPart} {w0 w : Work} (hw : Inside [.obst] ps) (h : WorkKeeps ps w0 w) (a1 : DoorEnv) (a2 : Hall) :
    WorkKeeps ps w0 (markPassed a1 a2 w) := by
  unfold markPassed
  repeat' (first
    | (with_reducible assumption)
    | (with_reducible refine Work.obstFlags_wk (hw.of rfl) ?_ _)
    | (with_reducible refine WorkKeeps.ite ?_ ?_)
    | intro _
    | split
    | dsimp only)

theorem pathRaises_wk {ps : List DoorPart} {w0 w : Work} (hw : Inside [.cycle] ps) (h : WorkKeeps ps w0 w) (a1 : DoorEnv) (a2 : Bool) (a3 : Bool) (a4 : List Seg) :
    WorkKeeps ps w0 (pathRaises a1 a2 a3 a4 w) := by
  unfold pathRaises
  repeat' (first
    | (with_reducible assumption)
    | (with_reducible refine Work.emit_wk (hw.of rfl) ?_ _)
    | (with_reducible refine onSegmentEnd_wk (hw.of rfl) ?_)
    | (with_reducible refine WorkKeeps.ite ?_ ?_)
    | intro _
    | split
    | dsimp only)

theorem doorReference_wk {ps : List DoorPart} {w0 w : Work} (hw : Inside [.door, .cycle] ps) (h : WorkKeeps ps w0 w) (a1 : DoorEnv) :
    WorkKeeps ps w0 (doorReference a1 w) := by
  unfold doorReference
  repeat' (first
    | (with_reducible assumption)
    | (with_reducible refine Work.door_wk (hw.of rfl) ?_ _)
    | (with_reducible refine pathRaises_wk (hw.of rfl) ?_ _ _ _ _)
    | (with_reducible refine WorkKeeps.ite ?_ ?_)
    | intro _
    | split
    | dsimp only)

theorem doorLoop_wk {ps : List DoorPart} {w0 w : Work} (hw : Inside [.door] ps) (h : WorkKeeps ps w0 w) (a1 : DoorEnv) :
    WorkKeeps ps w0 (doorLoop a1 w) := by
  unfold doorLoop
  repeat' (first
    | (with_reducible assumption)
    | (with_reducible refine Work.door_wk (hw.of rfl) ?_ _)
    | (with_reducible refine Work.emit_wk (hw.of rfl) ?_ _)
    | (with_reducible refine WorkKeeps.ite ?_ ?_)
    | intro _
    | split
    | dsimp only)

theorem doorPeriod_wk {ps : List DoorPart} {w0 w : Work} (hw : Inside [.door, .obst, .cycle] ps) (h : WorkKeeps ps w0 w) (a1 : DoorEnv) :
    WorkKeeps ps w0 (doorPeriod a1 w) := by
  unfold doorPeriod
  repeat' (first
    | (with_reducible assumption)
    | (with_reducible refine Work.door_wk (hw.of rfl) ?_ _)
    | (with_reducible refine doorLoop_wk (hw.of rfl) ?_ _)
    | (with_reducible refine doorReference_wk (hw.of rfl) ?_ _)
    | (with_reducible refine doorSamples_wk (hw.of rfl) ?_ _)
    | (with_reducible refine markPassed_wk (hw.of rfl) ?_ _ _)
    | (with_reducible refine WorkKeeps.ite ?_ ?_)
    | intro _
    | split
    | dsimp only)

theorem lastOfOld_wk {ps : List DoorPart} {w0 w : Work} (hw : Inside [.step] ps) (h : WorkKeeps ps w0 w) (a1 : DoorEnv) (a2 : Path) :
    WorkKeeps ps w0 (lastOfOld a1 a2 w) := by
  unfold lastOfOld
  repeat' (first
    | (with_reducible assumption)
    | (with_reducible refine issueStep_wk (hw.of rfl) ?_ _ _ _ _ _)
    | (with_reducible refine WorkKeeps.ite ?_ ?_)
    | intro _
    | split
    | dsimp only)

theorem stepReference_wk {ps : List DoorPart} {w0 w : Work} (hw : Inside [.step, .cycle] ps) (h : WorkKeeps ps w0 w) (a1 : DoorEnv) :
    WorkKeeps ps w0 (stepReference a1 w) := by
  unfold stepReference
  repeat' (first
    | (with_reducible assumption)
    | (with_reducible refine Work.step_wk (hw.of rfl) ?_ _)
    | (with_reducible refine lastOfOld_wk (hw.of rfl) ?_ _ _)
    | (with_reducible refine pathRaises_wk (hw.of rfl) ?_ _ _ _ _)
    | (with_reducible refine WorkKeeps.ite ?_ ?_)
    | (with_reducible refine stepIssues_wk (hw.of rfl) ?_ _ _ _ _ _)
    | intro _
    | split
    | dsimp only)

theorem stepPeriod_wk {ps : List DoorPart} {w0 w : Work} (hw : Inside [.step, .cycle] ps) (h : WorkKeeps ps w0 w) (a1 : DoorEnv) :
    WorkKeeps ps w0 (stepPeriod a1 w) := by
  unfold stepPeriod
  repeat' (first
    | (with_reducible assumption)
    | (with_reducible refine stepChop_wk (hw.of rfl) ?_ _)
    | (with_reducible refine stepCompare_wk (hw.of rfl) ?_ _)
    | (with_reducible refine stepReference_wk (hw.of rfl) ?_ _)
    | (with_reducible refine WorkKeeps.ite ?_ ?_)
    | intro _
    | split
    | dsimp only)

theorem doorIdle_wk {ps : List DoorPart} {w0 w : Work} (hw : Inside [.sm, .door, .step, .obst, .cycle] ps) (h : WorkKeeps ps w0 w) (a1 : DoorEnv) :
    WorkKeeps ps w0 (doorIdle a1 w) := by
  unfold doorIdle
  repeat' (first
    | (with_reducible assumption)
    | (with_reducible refine doorPathEnds_wk (hw.of rfl) ?_ _)
    | (with_reducible refine doorPeriod_wk (hw.of rfl) ?_ _)
    | (with_reducible refine doorTick_wk (hw.of rfl) ?_ _)
    | (with_reducible refine onDoorStopped_wk (hw.of rfl) ?_ _)
    | (with_reducible refine onStall_wk (hw.of rfl) ?_ _)
    | (with_reducible refine onStepPathEnds_wk (hw.of rfl) ?_ _)
    | (with_reducible refine onStepStopped_wk (hw.of rfl) ?_)
    | (with_reducible refine stepPeriod_wk (hw.of rfl) ?_ _)
    | (with_reducible refine WorkKeeps.ite ?_ ?_)
    | intro _
    | split
    | dsimp only)

theorem takeLatchTrip_wk {ps : List DoorPart} {w0 w : Work} (hw : Inside [.obst] ps) (h : WorkKeeps ps w0 w) (a1 : DoorEnv) (a2 : RowIx) (a3 : Nat) :
    WorkKeeps ps w0 (takeLatchTrip a1 a2 a3 w) := by
  unfold takeLatchTrip
  repeat' (first
    | (with_reducible assumption)
    | (with_reducible refine Work.obst_wk (hw.of rfl) ?_ _)
    | (with_reducible refine countFinalClosure_wk (hw.of rfl) ?_)
    | (with_reducible refine recordTrip_wk (hw.of rfl) ?_ _ _)
    | (with_reducible refine WorkKeeps.ite ?_ ?_)
    | intro _
    | split
    | dsimp only)

theorem demandAt_wk {ps : List DoorPart} {w0 w : Work} (hw : Inside [.sm, .door, .step, .obst, .cycle] ps) (h : WorkKeeps ps w0 w) {a1 : (DoorEnv → Work → Work)} (hf : ∀ x u, WorkKeeps ps w0 u → WorkKeeps ps w0 (a1 x u)) (a2 : DoorEnv) :
    WorkKeeps ps w0 (demandAt a1 a2 w) := by
  unfold demandAt
  repeat' (first
    | (with_reducible assumption)
    | (with_reducible apply hf)
    | (with_reducible refine doorTickWith_wk (hw.of rfl) ?_ _ ?_)
    | (with_reducible refine ignoreButton_wk (hw.of rfl) ?_)
    | (with_reducible refine WorkKeeps.ite ?_ ?_)
    | intro _
    | split
    | dsimp only)

theorem hostOpen_wk {ps : List DoorPart} {w0 w : Work} (hw : Inside [.sm, .door, .step, .obst, .cycle] ps) (h : WorkKeeps ps w0 w) (a1 : DoorEnv) :
    WorkKeeps ps w0 (hostOpen a1 w) := by
  unfold hostOpen
  repeat' (first
    | (with_reducible assumption)
    | (with_reducible refine doOpen_wk (hw.of rfl) ?_ _ _)
    | (with_reducible refine levelRows_wk (hw.of rfl) ?_ _)
    | (with_reducible refine WorkKeeps.ite ?_ ?_)
    | intro _
    | split
    | dsimp only)

theorem abortHome_wk {ps : List DoorPart} {w0 w : Work} (hw : Inside [.sm, .door, .step, .obst, .cycle] ps) (h : WorkKeeps ps w0 w) (a1 : DoorEnv) :
    WorkKeeps ps w0 (abortHome a1 w) := by
  unfold abortHome
  repeat' (first
    | (with_reducible assumption)
    | (with_reducible refine Work.step_wk (hw.of rfl) ?_ _)
    | (with_reducible refine cycleEnd_wk (hw.of rfl) ?_ _)
    | (with_reducible refine maintStops_wk (hw.of rfl) ?_ _ _)
    | (with_reducible refine settle_wk (hw.of rfl) ?_ _)
    | (with_reducible refine WorkKeeps.ite ?_ ?_)
    | intro _
    | split
    | dsimp only)

theorem startMove_wk {ps : List DoorPart} {w0 w : Work} (hw : Inside [.sm, .door, .step, .obst, .cycle] ps) (h : WorkKeeps ps w0 w) (a1 : DoorEnv) (a2 : Nat) (a3 : Int) (a4 : Nat) :
    WorkKeeps ps w0 (startMove a1 a2 a3 a4 w) := by
  unfold startMove
  repeat' (first
    | (with_reducible assumption)
    | (with_reducible refine doMoveTo_wk (hw.of rfl) ?_ _ _ _)
    | (with_reducible refine enter_wk (hw.of rfl) ?_ _ _ _ _)
    | (with_reducible refine WorkKeeps.ite ?_ ?_)
    | intro _
    | split
    | dsimp only)

theorem filterDoor_wk {ps : List DoorPart} {w0 w : Work} (hw : Inside [.sm, .inp, .door, .step, .obst, .cycle] ps) (h : WorkKeeps ps w0 w) (a1 : DoorEnv) (a2 : BitVec 16) :
    WorkKeeps ps w0 (filterDoor a1 a2 w) := by
  unfold filterDoor
  repeat' (first
    | (with_reducible assumption)
    | (with_reducible refine filteredChange_wk (hw.of rfl) ?_ _ _ _)
    | (with_reducible refine rawChange_wk (hw.of rfl) ?_ _ _ _)
    | (with_reducible refine WorkKeeps.ite ?_ ?_)
    | (with_reducible refine WorkKeeps.foldl _ (fun _ _ _ => ?_) ?_)
    | refine WorkKeeps.putInp (hw.of rfl) ?_ rfl
    | intro _
    | split
    | dsimp only)

theorem onClockFault_wk {ps : List DoorPart} {w0 w : Work} (hw : Inside [.sm, .door, .step, .obst, .cycle] ps) (h : WorkKeeps ps w0 w) (a1 : DoorEnv) :
    WorkKeeps ps w0 (onClockFault a1 w) := by
  unfold onClockFault
  repeat' (first
    | (with_reducible assumption)
    | (with_reducible refine drivesOff_wk (hw.of rfl) ?_ _)
    | (with_reducible refine enterFault_wk (hw.of rfl) ?_ _ _)
    | (with_reducible refine stepTorqueRemoved_wk (hw.of rfl) ?_ _)
    | (with_reducible refine WorkKeeps.ite ?_ ?_)
    | intro _
    | split
    | dsimp only)

theorem onAutoResume_wk {ps : List DoorPart} {w0 w : Work} (hw : Inside [.sm, .door, .step, .obst, .cycle] ps) (h : WorkKeeps ps w0 w) (a1 : DoorEnv) :
    WorkKeeps ps w0 (onAutoResume a1 w) := by
  unfold onAutoResume
  repeat' (first
    | (with_reducible assumption)
    | (with_reducible refine doResume_wk (hw.of rfl) ?_ _)
    | (with_reducible refine WorkKeeps.ite ?_ ?_)
    | intro _
    | split
    | dsimp only)

@[simp] theorem Work.sm_inp (w : Work) (a2 : (DoorSm → DoorSm)) : (Work.sm w a2).dw.inp = w.dw.inp :=
  rfl

@[simp] theorem Work.sm_door (w : Work) (a2 : (DoorSm → DoorSm)) : (Work.sm w a2).dw.door = w.dw.door :=
  rfl

@[simp] theorem Work.sm_step (w : Work) (a2 : (DoorSm → DoorSm)) : (Work.sm w a2).dw.step = w.dw.step :=
  rfl

@[simp] theorem Work.sm_obst (w : Work) (a2 : (DoorSm → DoorSm)) : (Work.sm w a2).dw.obst = w.dw.obst :=
  rfl

@[simp] theorem Work.sm_cycle (w : Work) (a2 : (DoorSm → DoorSm)) : (Work.sm w a2).dw.cycle = w.dw.cycle :=
  rfl

@[simp] theorem Work.count_inp (w : Work) (a2 : (DoorCounters → DoorCounters)) : (Work.count w a2).dw.inp = w.dw.inp :=
  rfl

@[simp] theorem Work.count_door (w : Work) (a2 : (DoorCounters → DoorCounters)) : (Work.count w a2).dw.door = w.dw.door :=
  rfl

@[simp] theorem Work.count_step (w : Work) (a2 : (DoorCounters → DoorCounters)) : (Work.count w a2).dw.step = w.dw.step :=
  rfl

@[simp] theorem Work.count_obst (w : Work) (a2 : (DoorCounters → DoorCounters)) : (Work.count w a2).dw.obst = w.dw.obst :=
  rfl

@[simp] theorem Work.count_cycle (w : Work) (a2 : (DoorCounters → DoorCounters)) : (Work.count w a2).dw.cycle = w.dw.cycle :=
  rfl

@[simp] theorem Work.cyc_sm (w : Work) (a2 : (Cycle → Cycle)) : (Work.cyc w a2).dw.sm = w.dw.sm :=
  rfl

@[simp] theorem Work.cyc_inp (w : Work) (a2 : (Cycle → Cycle)) : (Work.cyc w a2).dw.inp = w.dw.inp :=
  rfl

@[simp] theorem Work.cyc_door (w : Work) (a2 : (Cycle → Cycle)) : (Work.cyc w a2).dw.door = w.dw.door :=
  rfl

@[simp] theorem Work.cyc_step (w : Work) (a2 : (Cycle → Cycle)) : (Work.cyc w a2).dw.step = w.dw.step :=
  rfl

@[simp] theorem Work.cyc_obst (w : Work) (a2 : (Cycle → Cycle)) : (Work.cyc w a2).dw.obst = w.dw.obst :=
  rfl

@[simp] theorem Work.cycleFlags_sm (w : Work) (a2 : (CycleFlags → CycleFlags)) : (Work.cycleFlags w a2).dw.sm = w.dw.sm :=
  rfl

@[simp] theorem Work.cycleFlags_inp (w : Work) (a2 : (CycleFlags → CycleFlags)) : (Work.cycleFlags w a2).dw.inp = w.dw.inp :=
  rfl

@[simp] theorem Work.cycleFlags_door (w : Work) (a2 : (CycleFlags → CycleFlags)) : (Work.cycleFlags w a2).dw.door = w.dw.door :=
  rfl

@[simp] theorem Work.cycleFlags_step (w : Work) (a2 : (CycleFlags → CycleFlags)) : (Work.cycleFlags w a2).dw.step = w.dw.step :=
  rfl

@[simp] theorem Work.cycleFlags_obst (w : Work) (a2 : (CycleFlags → CycleFlags)) : (Work.cycleFlags w a2).dw.obst = w.dw.obst :=
  rfl

@[simp] theorem Work.door_sm (w : Work) (a2 : (DoorDrive → DoorDrive)) : (Work.door w a2).dw.sm = w.dw.sm :=
  rfl

@[simp] theorem Work.door_inp (w : Work) (a2 : (DoorDrive → DoorDrive)) : (Work.door w a2).dw.inp = w.dw.inp :=
  rfl

@[simp] theorem Work.door_step (w : Work) (a2 : (DoorDrive → DoorDrive)) : (Work.door w a2).dw.step = w.dw.step :=
  rfl

@[simp] theorem Work.door_obst (w : Work) (a2 : (DoorDrive → DoorDrive)) : (Work.door w a2).dw.obst = w.dw.obst :=
  rfl

@[simp] theorem Work.door_cycle (w : Work) (a2 : (DoorDrive → DoorDrive)) : (Work.door w a2).dw.cycle = w.dw.cycle :=
  rfl

@[simp] theorem Work.doorFlags_sm (w : Work) (a2 : (DriveFlags → DriveFlags)) : (Work.doorFlags w a2).dw.sm = w.dw.sm :=
  rfl

@[simp] theorem Work.doorFlags_inp (w : Work) (a2 : (DriveFlags → DriveFlags)) : (Work.doorFlags w a2).dw.inp = w.dw.inp :=
  rfl

@[simp] theorem Work.doorFlags_step (w : Work) (a2 : (DriveFlags → DriveFlags)) : (Work.doorFlags w a2).dw.step = w.dw.step :=
  rfl

@[simp] theorem Work.doorFlags_obst (w : Work) (a2 : (DriveFlags → DriveFlags)) : (Work.doorFlags w a2).dw.obst = w.dw.obst :=
  rfl

@[simp] theorem Work.doorFlags_cycle (w : Work) (a2 : (DriveFlags → DriveFlags)) : (Work.doorFlags w a2).dw.cycle = w.dw.cycle :=
  rfl

@[simp] theorem Work.emit_sm (w : Work) (a2 : DoorFx) : (Work.emit w a2).dw.sm = w.dw.sm :=
  rfl

@[simp] theorem Work.emit_inp (w : Work) (a2 : DoorFx) : (Work.emit w a2).dw.inp = w.dw.inp :=
  rfl

@[simp] theorem Work.emit_door (w : Work) (a2 : DoorFx) : (Work.emit w a2).dw.door = w.dw.door :=
  rfl

@[simp] theorem Work.emit_step (w : Work) (a2 : DoorFx) : (Work.emit w a2).dw.step = w.dw.step :=
  rfl

@[simp] theorem Work.emit_obst (w : Work) (a2 : DoorFx) : (Work.emit w a2).dw.obst = w.dw.obst :=
  rfl

@[simp] theorem Work.emit_cycle (w : Work) (a2 : DoorFx) : (Work.emit w a2).dw.cycle = w.dw.cycle :=
  rfl

@[simp] theorem Work.obst_sm (w : Work) (a2 : (Obstacle → Obstacle)) : (Work.obst w a2).dw.sm = w.dw.sm :=
  rfl

@[simp] theorem Work.obst_inp (w : Work) (a2 : (Obstacle → Obstacle)) : (Work.obst w a2).dw.inp = w.dw.inp :=
  rfl

@[simp] theorem Work.obst_door (w : Work) (a2 : (Obstacle → Obstacle)) : (Work.obst w a2).dw.door = w.dw.door :=
  rfl

@[simp] theorem Work.obst_step (w : Work) (a2 : (Obstacle → Obstacle)) : (Work.obst w a2).dw.step = w.dw.step :=
  rfl

@[simp] theorem Work.obst_cycle (w : Work) (a2 : (Obstacle → Obstacle)) : (Work.obst w a2).dw.cycle = w.dw.cycle :=
  rfl

@[simp] theorem Work.obstFlags_sm (w : Work) (a2 : (ObstFlags → ObstFlags)) : (Work.obstFlags w a2).dw.sm = w.dw.sm :=
  rfl

@[simp] theorem Work.obstFlags_inp (w : Work) (a2 : (ObstFlags → ObstFlags)) : (Work.obstFlags w a2).dw.inp = w.dw.inp :=
  rfl

@[simp] theorem Work.obstFlags_door (w : Work) (a2 : (ObstFlags → ObstFlags)) : (Work.obstFlags w a2).dw.door = w.dw.door :=
  rfl

@[simp] theorem Work.obstFlags_step (w : Work) (a2 : (ObstFlags → ObstFlags)) : (Work.obstFlags w a2).dw.step = w.dw.step :=
  rfl

@[simp] theorem Work.obstFlags_cycle (w : Work) (a2 : (ObstFlags → ObstFlags)) : (Work.obstFlags w a2).dw.cycle = w.dw.cycle :=
  rfl

@[simp] theorem Work.setCycle_sm (w : Work) (a2 : Option Cycle) : (Work.setCycle w a2).dw.sm = w.dw.sm :=
  rfl

@[simp] theorem Work.setCycle_inp (w : Work) (a2 : Option Cycle) : (Work.setCycle w a2).dw.inp = w.dw.inp :=
  rfl

@[simp] theorem Work.setCycle_door (w : Work) (a2 : Option Cycle) : (Work.setCycle w a2).dw.door = w.dw.door :=
  rfl

@[simp] theorem Work.setCycle_step (w : Work) (a2 : Option Cycle) : (Work.setCycle w a2).dw.step = w.dw.step :=
  rfl

@[simp] theorem Work.setCycle_obst (w : Work) (a2 : Option Cycle) : (Work.setCycle w a2).dw.obst = w.dw.obst :=
  rfl

@[simp] theorem Work.smFlags_inp (w : Work) (a2 : (SmFlags → SmFlags)) : (Work.smFlags w a2).dw.inp = w.dw.inp :=
  rfl

@[simp] theorem Work.smFlags_door (w : Work) (a2 : (SmFlags → SmFlags)) : (Work.smFlags w a2).dw.door = w.dw.door :=
  rfl

@[simp] theorem Work.smFlags_step (w : Work) (a2 : (SmFlags → SmFlags)) : (Work.smFlags w a2).dw.step = w.dw.step :=
  rfl

@[simp] theorem Work.smFlags_obst (w : Work) (a2 : (SmFlags → SmFlags)) : (Work.smFlags w a2).dw.obst = w.dw.obst :=
  rfl

@[simp] theorem Work.smFlags_cycle (w : Work) (a2 : (SmFlags → SmFlags)) : (Work.smFlags w a2).dw.cycle = w.dw.cycle :=
  rfl

@[simp] theorem Work.step_sm (w : Work) (a2 : (StepDrive → StepDrive)) : (Work.step w a2).dw.sm = w.dw.sm :=
  rfl

@[simp] theorem Work.step_inp (w : Work) (a2 : (StepDrive → StepDrive)) : (Work.step w a2).dw.inp = w.dw.inp :=
  rfl

@[simp] theorem Work.step_door (w : Work) (a2 : (StepDrive → StepDrive)) : (Work.step w a2).dw.door = w.dw.door :=
  rfl

@[simp] theorem Work.step_obst (w : Work) (a2 : (StepDrive → StepDrive)) : (Work.step w a2).dw.obst = w.dw.obst :=
  rfl

@[simp] theorem Work.step_cycle (w : Work) (a2 : (StepDrive → StepDrive)) : (Work.step w a2).dw.cycle = w.dw.cycle :=
  rfl

@[simp] theorem Work.stepFlags_sm (w : Work) (a2 : (StepFlags → StepFlags)) : (Work.stepFlags w a2).dw.sm = w.dw.sm :=
  rfl

@[simp] theorem Work.stepFlags_inp (w : Work) (a2 : (StepFlags → StepFlags)) : (Work.stepFlags w a2).dw.inp = w.dw.inp :=
  rfl

@[simp] theorem Work.stepFlags_door (w : Work) (a2 : (StepFlags → StepFlags)) : (Work.stepFlags w a2).dw.door = w.dw.door :=
  rfl

@[simp] theorem Work.stepFlags_obst (w : Work) (a2 : (StepFlags → StepFlags)) : (Work.stepFlags w a2).dw.obst = w.dw.obst :=
  rfl

@[simp] theorem Work.stepFlags_cycle (w : Work) (a2 : (StepFlags → StepFlags)) : (Work.stepFlags w a2).dw.cycle = w.dw.cycle :=
  rfl

theorem unlessReflexStop_sm {f : Work → Work} {w : Work} (h : (f w).dw.sm = w.dw.sm) :
    (unlessReflexStop f w).dw.sm = w.dw.sm := by
  unfold unlessReflexStop
  split
  · rfl
  · exact h

theorem unlessReflexStop_inp {f : Work → Work} {w : Work} (h : (f w).dw.inp = w.dw.inp) :
    (unlessReflexStop f w).dw.inp = w.dw.inp := by
  unfold unlessReflexStop
  split
  · rfl
  · exact h

theorem unlessReflexStop_door {f : Work → Work} {w : Work} (h : (f w).dw.door = w.dw.door) :
    (unlessReflexStop f w).dw.door = w.dw.door := by
  unfold unlessReflexStop
  split
  · rfl
  · exact h

theorem unlessReflexStop_step {f : Work → Work} {w : Work} (h : (f w).dw.step = w.dw.step) :
    (unlessReflexStop f w).dw.step = w.dw.step := by
  unfold unlessReflexStop
  split
  · rfl
  · exact h

theorem unlessReflexStop_obst {f : Work → Work} {w : Work} (h : (f w).dw.obst = w.dw.obst) :
    (unlessReflexStop f w).dw.obst = w.dw.obst := by
  unfold unlessReflexStop
  split
  · rfl
  · exact h

theorem unlessReflexStop_cycle {f : Work → Work} {w : Work} (h : (f w).dw.cycle = w.dw.cycle) :
    (unlessReflexStop f w).dw.cycle = w.dw.cycle := by
  unfold unlessReflexStop
  split
  · rfl
  · exact h

@[simp] theorem Work.driveEvent_sm (w : Work) (a2 : DoorEnv) (a3 : Nat) (a4 : Nat) (a5 : Int) : (Work.driveEvent w a2 a3 a4 a5).dw.sm = w.dw.sm :=
  (Work.driveEvent_wk (Inside.refl _) (WorkKeeps.refl _ w) _ _ _ _).sm.resolve_left (by decide)

@[simp] theorem Work.driveEvent_inp (w : Work) (a2 : DoorEnv) (a3 : Nat) (a4 : Nat) (a5 : Int) : (Work.driveEvent w a2 a3 a4 a5).dw.inp = w.dw.inp :=
  (Work.driveEvent_wk (Inside.refl _) (WorkKeeps.refl _ w) _ _ _ _).inp.resolve_left (by decide)

@[simp] theorem Work.driveEvent_door (w : Work) (a2 : DoorEnv) (a3 : Nat) (a4 : Nat) (a5 : Int) : (Work.driveEvent w a2 a3 a4 a5).dw.door = w.dw.door :=
  (Work.driveEvent_wk (Inside.refl _) (WorkKeeps.refl _ w) _ _ _ _).door.resolve_left (by decide)

@[simp] theorem Work.driveEvent_step (w : Work) (a2 : DoorEnv) (a3 : Nat) (a4 : Nat) (a5 : Int) : (Work.driveEvent w a2 a3 a4 a5).dw.step = w.dw.step :=
  (Work.driveEvent_wk (Inside.refl _) (WorkKeeps.refl _ w) _ _ _ _).step.resolve_left (by decide)

@[simp] theorem Work.driveEvent_obst (w : Work) (a2 : DoorEnv) (a3 : Nat) (a4 : Nat) (a5 : Int) : (Work.driveEvent w a2 a3 a4 a5).dw.obst = w.dw.obst :=
  (Work.driveEvent_wk (Inside.refl _) (WorkKeeps.refl _ w) _ _ _ _).obst.resolve_left (by decide)

@[simp] theorem Work.driveEvent_cycle (w : Work) (a2 : DoorEnv) (a3 : Nat) (a4 : Nat) (a5 : Int) : (Work.driveEvent w a2 a3 a4 a5).dw.cycle = w.dw.cycle :=
  (Work.driveEvent_wk (Inside.refl _) (WorkKeeps.refl _ w) _ _ _ _).cycle.resolve_left (by decide)

@[simp] theorem Work.stepEvent_sm (w : Work) (a2 : DoorEnv) (a3 : Nat) (a4 : Nat) (a5 : Int) : (Work.stepEvent w a2 a3 a4 a5).dw.sm = w.dw.sm :=
  (Work.stepEvent_wk (Inside.refl _) (WorkKeeps.refl _ w) _ _ _ _).sm.resolve_left (by decide)

@[simp] theorem Work.stepEvent_inp (w : Work) (a2 : DoorEnv) (a3 : Nat) (a4 : Nat) (a5 : Int) : (Work.stepEvent w a2 a3 a4 a5).dw.inp = w.dw.inp :=
  (Work.stepEvent_wk (Inside.refl _) (WorkKeeps.refl _ w) _ _ _ _).inp.resolve_left (by decide)

@[simp] theorem Work.stepEvent_door (w : Work) (a2 : DoorEnv) (a3 : Nat) (a4 : Nat) (a5 : Int) : (Work.stepEvent w a2 a3 a4 a5).dw.door = w.dw.door :=
  (Work.stepEvent_wk (Inside.refl _) (WorkKeeps.refl _ w) _ _ _ _).door.resolve_left (by decide)

@[simp] theorem Work.stepEvent_step (w : Work) (a2 : DoorEnv) (a3 : Nat) (a4 : Nat) (a5 : Int) : (Work.stepEvent w a2 a3 a4 a5).dw.step = w.dw.step :=
  (Work.stepEvent_wk (Inside.refl _) (WorkKeeps.refl _ w) _ _ _ _).step.resolve_left (by decide)

@[simp] theorem Work.stepEvent_obst (w : Work) (a2 : DoorEnv) (a3 : Nat) (a4 : Nat) (a5 : Int) : (Work.stepEvent w a2 a3 a4 a5).dw.obst = w.dw.obst :=
  (Work.stepEvent_wk (Inside.refl _) (WorkKeeps.refl _ w) _ _ _ _).obst.resolve_left (by decide)

@[simp] theorem Work.stepEvent_cycle (w : Work) (a2 : DoorEnv) (a3 : Nat) (a4 : Nat) (a5 : Int) : (Work.stepEvent w a2 a3 a4 a5).dw.cycle = w.dw.cycle :=
  (Work.stepEvent_wk (Inside.refl _) (WorkKeeps.refl _ w) _ _ _ _).cycle.resolve_left (by decide)

@[simp] theorem doorCompare_sm (a1 : DoorEnv) (w : Work) : (doorCompare a1 w).dw.sm = w.dw.sm :=
  (doorCompare_wk (Inside.refl _) (WorkKeeps.refl _ w) _).sm.resolve_left (by decide)

@[simp] theorem doorCompare_inp (a1 : DoorEnv) (w : Work) : (doorCompare a1 w).dw.inp = w.dw.inp :=
  (doorCompare_wk (Inside.refl _) (WorkKeeps.refl _ w) _).inp.resolve_left (by decide)

@[simp] theorem doorCompare_step (a1 : DoorEnv) (w : Work) : (doorCompare a1 w).dw.step = w.dw.step :=
  (doorCompare_wk (Inside.refl _) (WorkKeeps.refl _ w) _).step.resolve_left (by decide)

@[simp] theorem doorCompare_obst (a1 : DoorEnv) (w : Work) : (doorCompare a1 w).dw.obst = w.dw.obst :=
  (doorCompare_wk (Inside.refl _) (WorkKeeps.refl _ w) _).obst.resolve_left (by decide)

@[simp] theorem doorCompare_cycle (a1 : DoorEnv) (w : Work) : (doorCompare a1 w).dw.cycle = w.dw.cycle :=
  (doorCompare_wk (Inside.refl _) (WorkKeeps.refl _ w) _).cycle.resolve_left (by decide)

@[simp] theorem stepCompare_sm (a1 : DoorEnv) (w : Work) : (stepCompare a1 w).dw.sm = w.dw.sm :=
  (stepCompare_wk (Inside.refl _) (WorkKeeps.refl _ w) _).sm.resolve_left (by decide)

@[simp] theorem stepCompare_inp (a1 : DoorEnv) (w : Work) : (stepCompare a1 w).dw.inp = w.dw.inp :=
  (stepCompare_wk (Inside.refl _) (WorkKeeps.refl _ w) _).inp.resolve_left (by decide)

@[simp] theorem stepCompare_door (a1 : DoorEnv) (w : Work) : (stepCompare a1 w).dw.door = w.dw.door :=
  (stepCompare_wk (Inside.refl _) (WorkKeeps.refl _ w) _).door.resolve_left (by decide)

@[simp] theorem stepCompare_obst (a1 : DoorEnv) (w : Work) : (stepCompare a1 w).dw.obst = w.dw.obst :=
  (stepCompare_wk (Inside.refl _) (WorkKeeps.refl _ w) _).obst.resolve_left (by decide)

@[simp] theorem stepCompare_cycle (a1 : DoorEnv) (w : Work) : (stepCompare a1 w).dw.cycle = w.dw.cycle :=
  (stepCompare_wk (Inside.refl _) (WorkKeeps.refl _ w) _).cycle.resolve_left (by decide)

@[simp] theorem Work.obstEvent_sm (w : Work) (a2 : DoorEnv) (a3 : Nat) (a4 : Nat) (a5 : Nat) (a6 : Int) : (Work.obstEvent w a2 a3 a4 a5 a6).dw.sm = w.dw.sm :=
  (Work.obstEvent_wk (Inside.refl _) (WorkKeeps.refl _ w) _ _ _ _ _).sm.resolve_left (by decide)

@[simp] theorem Work.obstEvent_inp (w : Work) (a2 : DoorEnv) (a3 : Nat) (a4 : Nat) (a5 : Nat) (a6 : Int) : (Work.obstEvent w a2 a3 a4 a5 a6).dw.inp = w.dw.inp :=
  (Work.obstEvent_wk (Inside.refl _) (WorkKeeps.refl _ w) _ _ _ _ _).inp.resolve_left (by decide)

@[simp] theorem Work.obstEvent_door (w : Work) (a2 : DoorEnv) (a3 : Nat) (a4 : Nat) (a5 : Nat) (a6 : Int) : (Work.obstEvent w a2 a3 a4 a5 a6).dw.door = w.dw.door :=
  (Work.obstEvent_wk (Inside.refl _) (WorkKeeps.refl _ w) _ _ _ _ _).door.resolve_left (by decide)

@[simp] theorem Work.obstEvent_step (w : Work) (a2 : DoorEnv) (a3 : Nat) (a4 : Nat) (a5 : Nat) (a6 : Int) : (Work.obstEvent w a2 a3 a4 a5 a6).dw.step = w.dw.step :=
  (Work.obstEvent_wk (Inside.refl _) (WorkKeeps.refl _ w) _ _ _ _ _).step.resolve_left (by decide)

@[simp] theorem Work.obstEvent_obst (w : Work) (a2 : DoorEnv) (a3 : Nat) (a4 : Nat) (a5 : Nat) (a6 : Int) : (Work.obstEvent w a2 a3 a4 a5 a6).dw.obst = w.dw.obst :=
  (Work.obstEvent_wk (Inside.refl _) (WorkKeeps.refl _ w) _ _ _ _ _).obst.resolve_left (by decide)

@[simp] theorem Work.obstEvent_cycle (w : Work) (a2 : DoorEnv) (a3 : Nat) (a4 : Nat) (a5 : Nat) (a6 : Int) : (Work.obstEvent w a2 a3 a4 a5 a6).dw.cycle = w.dw.cycle :=
  (Work.obstEvent_wk (Inside.refl _) (WorkKeeps.refl _ w) _ _ _ _ _).cycle.resolve_left (by decide)

@[simp] theorem doorOff_sm (w : Work) : (doorOff w).dw.sm = w.dw.sm :=
  (doorOff_wk (Inside.refl _) (WorkKeeps.refl _ w)).sm.resolve_left (by decide)

@[simp] theorem doorOff_inp (w : Work) : (doorOff w).dw.inp = w.dw.inp :=
  (doorOff_wk (Inside.refl _) (WorkKeeps.refl _ w)).inp.resolve_left (by decide)

@[simp] theorem doorOff_step (w : Work) : (doorOff w).dw.step = w.dw.step :=
  (doorOff_wk (Inside.refl _) (WorkKeeps.refl _ w)).step.resolve_left (by decide)

@[simp] theorem doorOff_cycle (w : Work) : (doorOff w).dw.cycle = w.dw.cycle :=
  (doorOff_wk (Inside.refl _) (WorkKeeps.refl _ w)).cycle.resolve_left (by decide)

@[simp] theorem doorHold_sm (a1 : DoorEnv) (w : Work) : (doorHold a1 w).dw.sm = w.dw.sm :=
  (doorHold_wk (Inside.refl _) (WorkKeeps.refl _ w) _).sm.resolve_left (by decide)

@[simp] theorem doorHold_inp (a1 : DoorEnv) (w : Work) : (doorHold a1 w).dw.inp = w.dw.inp :=
  (doorHold_wk (Inside.refl _) (WorkKeeps.refl _ w) _).inp.resolve_left (by decide)

@[simp] theorem doorHold_step (a1 : DoorEnv) (w : Work) : (doorHold a1 w).dw.step = w.dw.step :=
  (doorHold_wk (Inside.refl _) (WorkKeeps.refl _ w) _).step.resolve_left (by decide)

@[simp] theorem doorHold_obst (a1 : DoorEnv) (w : Work) : (doorHold a1 w).dw.obst = w.dw.obst :=
  (doorHold_wk (Inside.refl _) (WorkKeeps.refl _ w) _).obst.resolve_left (by decide)

@[simp] theorem doorHold_cycle (a1 : DoorEnv) (w : Work) : (doorHold a1 w).dw.cycle = w.dw.cycle :=
  (doorHold_wk (Inside.refl _) (WorkKeeps.refl _ w) _).cycle.resolve_left (by decide)

@[simp] theorem strokeStarts_sm (a1 : DoorEnv) (a2 : Bool) (a3 : Bool) (w : Work) : (strokeStarts a1 a2 a3 w).dw.sm = w.dw.sm :=
  (strokeStarts_wk (Inside.refl _) (WorkKeeps.refl _ w) _ _ _).sm.resolve_left (by decide)

@[simp] theorem strokeStarts_inp (a1 : DoorEnv) (a2 : Bool) (a3 : Bool) (w : Work) : (strokeStarts a1 a2 a3 w).dw.inp = w.dw.inp :=
  (strokeStarts_wk (Inside.refl _) (WorkKeeps.refl _ w) _ _ _).inp.resolve_left (by decide)

@[simp] theorem strokeStarts_step (a1 : DoorEnv) (a2 : Bool) (a3 : Bool) (w : Work) : (strokeStarts a1 a2 a3 w).dw.step = w.dw.step :=
  (strokeStarts_wk (Inside.refl _) (WorkKeeps.refl _ w) _ _ _).step.resolve_left (by decide)

@[simp] theorem doorContext_sm (a1 : DoorEnv) (a2 : Nat) (a3 : Nat) (w : Work) : (doorContext a1 a2 a3 w).dw.sm = w.dw.sm :=
  (doorContext_wk (Inside.refl _) (WorkKeeps.refl _ w) _ _ _).sm.resolve_left (by decide)

@[simp] theorem doorContext_inp (a1 : DoorEnv) (a2 : Nat) (a3 : Nat) (w : Work) : (doorContext a1 a2 a3 w).dw.inp = w.dw.inp :=
  (doorContext_wk (Inside.refl _) (WorkKeeps.refl _ w) _ _ _).inp.resolve_left (by decide)

@[simp] theorem doorContext_step (a1 : DoorEnv) (a2 : Nat) (a3 : Nat) (w : Work) : (doorContext a1 a2 a3 w).dw.step = w.dw.step :=
  (doorContext_wk (Inside.refl _) (WorkKeeps.refl _ w) _ _ _).step.resolve_left (by decide)

@[simp] theorem doorMove_sm (a1 : DoorEnv) (a2 : Int) (a3 : Nat) (a4 : Bool) (w : Work) : (doorMove a1 a2 a3 a4 w).dw.sm = w.dw.sm :=
  (doorMove_wk (Inside.refl _) (WorkKeeps.refl _ w) _ _ _ _).sm.resolve_left (by decide)

@[simp] theorem doorMove_inp (a1 : DoorEnv) (a2 : Int) (a3 : Nat) (a4 : Bool) (w : Work) : (doorMove a1 a2 a3 a4 w).dw.inp = w.dw.inp :=
  (doorMove_wk (Inside.refl _) (WorkKeeps.refl _ w) _ _ _ _).inp.resolve_left (by decide)

@[simp] theorem doorMove_step (a1 : DoorEnv) (a2 : Int) (a3 : Nat) (a4 : Bool) (w : Work) : (doorMove a1 a2 a3 a4 w).dw.step = w.dw.step :=
  (doorMove_wk (Inside.refl _) (WorkKeeps.refl _ w) _ _ _ _).step.resolve_left (by decide)

@[simp] theorem sealSeekStart_sm (a1 : DoorEnv) (w : Work) : (sealSeekStart a1 w).dw.sm = w.dw.sm :=
  (sealSeekStart_wk (Inside.refl _) (WorkKeeps.refl _ w) _).sm.resolve_left (by decide)

@[simp] theorem sealSeekStart_inp (a1 : DoorEnv) (w : Work) : (sealSeekStart a1 w).dw.inp = w.dw.inp :=
  (sealSeekStart_wk (Inside.refl _) (WorkKeeps.refl _ w) _).inp.resolve_left (by decide)

@[simp] theorem sealSeekStart_step (a1 : DoorEnv) (w : Work) : (sealSeekStart a1 w).dw.step = w.dw.step :=
  (sealSeekStart_wk (Inside.refl _) (WorkKeeps.refl _ w) _).step.resolve_left (by decide)

@[simp] theorem sealSeekStart_obst (a1 : DoorEnv) (w : Work) : (sealSeekStart a1 w).dw.obst = w.dw.obst :=
  (sealSeekStart_wk (Inside.refl _) (WorkKeeps.refl _ w) _).obst.resolve_left (by decide)

@[simp] theorem sealSeekStart_cycle (a1 : DoorEnv) (w : Work) : (sealSeekStart a1 w).dw.cycle = w.dw.cycle :=
  (sealSeekStart_wk (Inside.refl _) (WorkKeeps.refl _ w) _).cycle.resolve_left (by decide)

@[simp] theorem doorStartOpen_sm (a1 : DoorEnv) (w : Work) : (doorStartOpen a1 w).dw.sm = w.dw.sm :=
  (doorStartOpen_wk (Inside.refl _) (WorkKeeps.refl _ w) _).sm.resolve_left (by decide)

@[simp] theorem doorStartOpen_inp (a1 : DoorEnv) (w : Work) : (doorStartOpen a1 w).dw.inp = w.dw.inp :=
  (doorStartOpen_wk (Inside.refl _) (WorkKeeps.refl _ w) _).inp.resolve_left (by decide)

@[simp] theorem doorStartOpen_step (a1 : DoorEnv) (w : Work) : (doorStartOpen a1 w).dw.step = w.dw.step :=
  (doorStartOpen_wk (Inside.refl _) (WorkKeeps.refl _ w) _).step.resolve_left (by decide)

@[simp] theorem doorStartClose_sm (a1 : DoorEnv) (w : Work) : (doorStartClose a1 w).dw.sm = w.dw.sm :=
  (doorStartClose_wk (Inside.refl _) (WorkKeeps.refl _ w) _).sm.resolve_left (by decide)

@[simp] theorem doorStartClose_inp (a1 : DoorEnv) (w : Work) : (doorStartClose a1 w).dw.inp = w.dw.inp :=
  (doorStartClose_wk (Inside.refl _) (WorkKeeps.refl _ w) _).inp.resolve_left (by decide)

@[simp] theorem doorStartClose_step (a1 : DoorEnv) (w : Work) : (doorStartClose a1 w).dw.step = w.dw.step :=
  (doorStartClose_wk (Inside.refl _) (WorkKeeps.refl _ w) _).step.resolve_left (by decide)

@[simp] theorem doorResume_sm (a1 : DoorEnv) (w : Work) : (doorResume a1 w).dw.sm = w.dw.sm :=
  (doorResume_wk (Inside.refl _) (WorkKeeps.refl _ w) _).sm.resolve_left (by decide)

@[simp] theorem doorResume_inp (a1 : DoorEnv) (w : Work) : (doorResume a1 w).dw.inp = w.dw.inp :=
  (doorResume_wk (Inside.refl _) (WorkKeeps.refl _ w) _).inp.resolve_left (by decide)

@[simp] theorem doorResume_step (a1 : DoorEnv) (w : Work) : (doorResume a1 w).dw.step = w.dw.step :=
  (doorResume_wk (Inside.refl _) (WorkKeeps.refl _ w) _).step.resolve_left (by decide)

@[simp] theorem stepStarts_sm (w : Work) : (stepStarts w).dw.sm = w.dw.sm :=
  (stepStarts_wk (Inside.refl _) (WorkKeeps.refl _ w)).sm.resolve_left (by decide)

@[simp] theorem stepStarts_inp (w : Work) : (stepStarts w).dw.inp = w.dw.inp :=
  (stepStarts_wk (Inside.refl _) (WorkKeeps.refl _ w)).inp.resolve_left (by decide)

@[simp] theorem stepStarts_door (w : Work) : (stepStarts w).dw.door = w.dw.door :=
  (stepStarts_wk (Inside.refl _) (WorkKeeps.refl _ w)).door.resolve_left (by decide)

@[simp] theorem stepStarts_obst (w : Work) : (stepStarts w).dw.obst = w.dw.obst :=
  (stepStarts_wk (Inside.refl _) (WorkKeeps.refl _ w)).obst.resolve_left (by decide)

@[simp] theorem stepStarts_cycle (w : Work) : (stepStarts w).dw.cycle = w.dw.cycle :=
  (stepStarts_wk (Inside.refl _) (WorkKeeps.refl _ w)).cycle.resolve_left (by decide)

@[simp] theorem stepContext_sm (a1 : DoorEnv) (a2 : Nat) (a3 : Bool) (a4 : StepJob) (w : Work) : (stepContext a1 a2 a3 a4 w).dw.sm = w.dw.sm :=
  (stepContext_wk (Inside.refl _) (WorkKeeps.refl _ w) _ _ _ _).sm.resolve_left (by decide)

@[simp] theorem stepContext_inp (a1 : DoorEnv) (a2 : Nat) (a3 : Bool) (a4 : StepJob) (w : Work) : (stepContext a1 a2 a3 a4 w).dw.inp = w.dw.inp :=
  (stepContext_wk (Inside.refl _) (WorkKeeps.refl _ w) _ _ _ _).inp.resolve_left (by decide)

@[simp] theorem stepContext_door (a1 : DoorEnv) (a2 : Nat) (a3 : Bool) (a4 : StepJob) (w : Work) : (stepContext a1 a2 a3 a4 w).dw.door = w.dw.door :=
  (stepContext_wk (Inside.refl _) (WorkKeeps.refl _ w) _ _ _ _).door.resolve_left (by decide)

@[simp] theorem stepContext_obst (a1 : DoorEnv) (a2 : Nat) (a3 : Bool) (a4 : StepJob) (w : Work) : (stepContext a1 a2 a3 a4 w).dw.obst = w.dw.obst :=
  (stepContext_wk (Inside.refl _) (WorkKeeps.refl _ w) _ _ _ _).obst.resolve_left (by decide)

@[simp] theorem stepContext_cycle (a1 : DoorEnv) (a2 : Nat) (a3 : Bool) (a4 : StepJob) (w : Work) : (stepContext a1 a2 a3 a4 w).dw.cycle = w.dw.cycle :=
  (stepContext_wk (Inside.refl _) (WorkKeeps.refl _ w) _ _ _ _).cycle.resolve_left (by decide)

@[simp] theorem stepLose_sm (a1 : DoorEnv) (a2 : Nat) (w : Work) : (stepLose a1 a2 w).dw.sm = w.dw.sm :=
  (stepLose_wk (Inside.refl _) (WorkKeeps.refl _ w) _ _).sm.resolve_left (by decide)

@[simp] theorem stepLose_inp (a1 : DoorEnv) (a2 : Nat) (w : Work) : (stepLose a1 a2 w).dw.inp = w.dw.inp :=
  (stepLose_wk (Inside.refl _) (WorkKeeps.refl _ w) _ _).inp.resolve_left (by decide)

@[simp] theorem stepLose_door (a1 : DoorEnv) (a2 : Nat) (w : Work) : (stepLose a1 a2 w).dw.door = w.dw.door :=
  (stepLose_wk (Inside.refl _) (WorkKeeps.refl _ w) _ _).door.resolve_left (by decide)

@[simp] theorem stepLose_obst (a1 : DoorEnv) (a2 : Nat) (w : Work) : (stepLose a1 a2 w).dw.obst = w.dw.obst :=
  (stepLose_wk (Inside.refl _) (WorkKeeps.refl _ w) _ _).obst.resolve_left (by decide)

@[simp] theorem stepLose_cycle (a1 : DoorEnv) (a2 : Nat) (w : Work) : (stepLose a1 a2 w).dw.cycle = w.dw.cycle :=
  (stepLose_wk (Inside.refl _) (WorkKeeps.refl _ w) _ _).cycle.resolve_left (by decide)

@[simp] theorem stepTorqueRemoved_sm (a1 : DoorEnv) (w : Work) : (stepTorqueRemoved a1 w).dw.sm = w.dw.sm :=
  (stepTorqueRemoved_wk (Inside.refl _) (WorkKeeps.refl _ w) _).sm.resolve_left (by decide)

@[simp] theorem stepTorqueRemoved_inp (a1 : DoorEnv) (w : Work) : (stepTorqueRemoved a1 w).dw.inp = w.dw.inp :=
  (stepTorqueRemoved_wk (Inside.refl _) (WorkKeeps.refl _ w) _).inp.resolve_left (by decide)

@[simp] theorem stepTorqueRemoved_door (a1 : DoorEnv) (w : Work) : (stepTorqueRemoved a1 w).dw.door = w.dw.door :=
  (stepTorqueRemoved_wk (Inside.refl _) (WorkKeeps.refl _ w) _).door.resolve_left (by decide)

@[simp] theorem stepTorqueRemoved_obst (a1 : DoorEnv) (w : Work) : (stepTorqueRemoved a1 w).dw.obst = w.dw.obst :=
  (stepTorqueRemoved_wk (Inside.refl _) (WorkKeeps.refl _ w) _).obst.resolve_left (by decide)

@[simp] theorem stepTorqueRemoved_cycle (a1 : DoorEnv) (w : Work) : (stepTorqueRemoved a1 w).dw.cycle = w.dw.cycle :=
  (stepTorqueRemoved_wk (Inside.refl _) (WorkKeeps.refl _ w) _).cycle.resolve_left (by decide)

@[simp] theorem stepFault_sm (a1 : DoorEnv) (a2 : Nat) (a3 : Int) (w : Work) : (stepFault a1 a2 a3 w).dw.sm = w.dw.sm :=
  (stepFault_wk (Inside.refl _) (WorkKeeps.refl _ w) _ _ _).sm.resolve_left (by decide)

@[simp] theorem stepFault_inp (a1 : DoorEnv) (a2 : Nat) (a3 : Int) (w : Work) : (stepFault a1 a2 a3 w).dw.inp = w.dw.inp :=
  (stepFault_wk (Inside.refl _) (WorkKeeps.refl _ w) _ _ _).inp.resolve_left (by decide)

@[simp] theorem stepFault_door (a1 : DoorEnv) (a2 : Nat) (a3 : Int) (w : Work) : (stepFault a1 a2 a3 w).dw.door = w.dw.door :=
  (stepFault_wk (Inside.refl _) (WorkKeeps.refl _ w) _ _ _).door.resolve_left (by decide)

@[simp] theorem stepFault_obst (a1 : DoorEnv) (a2 : Nat) (a3 : Int) (w : Work) : (stepFault a1 a2 a3 w).dw.obst = w.dw.obst :=
  (stepFault_wk (Inside.refl _) (WorkKeeps.refl _ w) _ _ _).obst.resolve_left (by decide)

@[simp] theorem stepFault_cycle (a1 : DoorEnv) (a2 : Nat) (a3 : Int) (w : Work) : (stepFault a1 a2 a3 w).dw.cycle = w.dw.cycle :=
  (stepFault_wk (Inside.refl _) (WorkKeeps.refl _ w) _ _ _).cycle.resolve_left (by decide)

@[simp] theorem startHomingPhase_sm (a1 : DoorEnv) (a2 : Bool) (w : Work) : (startHomingPhase a1 a2 w).dw.sm = w.dw.sm :=
  (startHomingPhase_wk (Inside.refl _) (WorkKeeps.refl _ w) _ _).sm.resolve_left (by decide)

@[simp] theorem startHomingPhase_inp (a1 : DoorEnv) (a2 : Bool) (w : Work) : (startHomingPhase a1 a2 w).dw.inp = w.dw.inp :=
  (startHomingPhase_wk (Inside.refl _) (WorkKeeps.refl _ w) _ _).inp.resolve_left (by decide)

@[simp] theorem startHomingPhase_door (a1 : DoorEnv) (a2 : Bool) (w : Work) : (startHomingPhase a1 a2 w).dw.door = w.dw.door :=
  (startHomingPhase_wk (Inside.refl _) (WorkKeeps.refl _ w) _ _).door.resolve_left (by decide)

@[simp] theorem startHomingPhase_obst (a1 : DoorEnv) (a2 : Bool) (w : Work) : (startHomingPhase a1 a2 w).dw.obst = w.dw.obst :=
  (startHomingPhase_wk (Inside.refl _) (WorkKeeps.refl _ w) _ _).obst.resolve_left (by decide)

@[simp] theorem startHomingPhase_cycle (a1 : DoorEnv) (a2 : Bool) (w : Work) : (startHomingPhase a1 a2 w).dw.cycle = w.dw.cycle :=
  (startHomingPhase_wk (Inside.refl _) (WorkKeeps.refl _ w) _ _).cycle.resolve_left (by decide)

@[simp] theorem startDeploy_sm (a1 : DoorEnv) (w : Work) : (startDeploy a1 w).dw.sm = w.dw.sm :=
  (startDeploy_wk (Inside.refl _) (WorkKeeps.refl _ w) _).sm.resolve_left (by decide)

@[simp] theorem startDeploy_inp (a1 : DoorEnv) (w : Work) : (startDeploy a1 w).dw.inp = w.dw.inp :=
  (startDeploy_wk (Inside.refl _) (WorkKeeps.refl _ w) _).inp.resolve_left (by decide)

@[simp] theorem startDeploy_door (a1 : DoorEnv) (w : Work) : (startDeploy a1 w).dw.door = w.dw.door :=
  (startDeploy_wk (Inside.refl _) (WorkKeeps.refl _ w) _).door.resolve_left (by decide)

@[simp] theorem startDeploy_obst (a1 : DoorEnv) (w : Work) : (startDeploy a1 w).dw.obst = w.dw.obst :=
  (startDeploy_wk (Inside.refl _) (WorkKeeps.refl _ w) _).obst.resolve_left (by decide)

@[simp] theorem startDeploy_cycle (a1 : DoorEnv) (w : Work) : (startDeploy a1 w).dw.cycle = w.dw.cycle :=
  (startDeploy_wk (Inside.refl _) (WorkKeeps.refl _ w) _).cycle.resolve_left (by decide)

@[simp] theorem startHoming_sm (a1 : DoorEnv) (w : Work) : (startHoming a1 w).dw.sm = w.dw.sm :=
  (startHoming_wk (Inside.refl _) (WorkKeeps.refl _ w) _).sm.resolve_left (by decide)

@[simp] theorem startHoming_inp (a1 : DoorEnv) (w : Work) : (startHoming a1 w).dw.inp = w.dw.inp :=
  (startHoming_wk (Inside.refl _) (WorkKeeps.refl _ w) _).inp.resolve_left (by decide)

@[simp] theorem startHoming_door (a1 : DoorEnv) (w : Work) : (startHoming a1 w).dw.door = w.dw.door :=
  (startHoming_wk (Inside.refl _) (WorkKeeps.refl _ w) _).door.resolve_left (by decide)

@[simp] theorem startHoming_obst (a1 : DoorEnv) (w : Work) : (startHoming a1 w).dw.obst = w.dw.obst :=
  (startHoming_wk (Inside.refl _) (WorkKeeps.refl _ w) _).obst.resolve_left (by decide)

@[simp] theorem startHoming_cycle (a1 : DoorEnv) (w : Work) : (startHoming a1 w).dw.cycle = w.dw.cycle :=
  (startHoming_wk (Inside.refl _) (WorkKeeps.refl _ w) _).cycle.resolve_left (by decide)

@[simp] theorem startRetract_sm (a1 : DoorEnv) (w : Work) : (startRetract a1 w).dw.sm = w.dw.sm :=
  (startRetract_wk (Inside.refl _) (WorkKeeps.refl _ w) _).sm.resolve_left (by decide)

@[simp] theorem startRetract_inp (a1 : DoorEnv) (w : Work) : (startRetract a1 w).dw.inp = w.dw.inp :=
  (startRetract_wk (Inside.refl _) (WorkKeeps.refl _ w) _).inp.resolve_left (by decide)

@[simp] theorem startRetract_door (a1 : DoorEnv) (w : Work) : (startRetract a1 w).dw.door = w.dw.door :=
  (startRetract_wk (Inside.refl _) (WorkKeeps.refl _ w) _).door.resolve_left (by decide)

@[simp] theorem startRetract_obst (a1 : DoorEnv) (w : Work) : (startRetract a1 w).dw.obst = w.dw.obst :=
  (startRetract_wk (Inside.refl _) (WorkKeeps.refl _ w) _).obst.resolve_left (by decide)

@[simp] theorem startRetract_cycle (a1 : DoorEnv) (w : Work) : (startRetract a1 w).dw.cycle = w.dw.cycle :=
  (startRetract_wk (Inside.refl _) (WorkKeeps.refl _ w) _).cycle.resolve_left (by decide)

@[simp] theorem stepBeginsAgain_sm (a1 : DoorEnv) (a2 : Bool) (w : Work) : (stepBeginsAgain a1 a2 w).dw.sm = w.dw.sm :=
  (stepBeginsAgain_wk (Inside.refl _) (WorkKeeps.refl _ w) _ _).sm.resolve_left (by decide)

@[simp] theorem stepBeginsAgain_inp (a1 : DoorEnv) (a2 : Bool) (w : Work) : (stepBeginsAgain a1 a2 w).dw.inp = w.dw.inp :=
  (stepBeginsAgain_wk (Inside.refl _) (WorkKeeps.refl _ w) _ _).inp.resolve_left (by decide)

@[simp] theorem stepBeginsAgain_door (a1 : DoorEnv) (a2 : Bool) (w : Work) : (stepBeginsAgain a1 a2 w).dw.door = w.dw.door :=
  (stepBeginsAgain_wk (Inside.refl _) (WorkKeeps.refl _ w) _ _).door.resolve_left (by decide)

@[simp] theorem stepBeginsAgain_obst (a1 : DoorEnv) (a2 : Bool) (w : Work) : (stepBeginsAgain a1 a2 w).dw.obst = w.dw.obst :=
  (stepBeginsAgain_wk (Inside.refl _) (WorkKeeps.refl _ w) _ _).obst.resolve_left (by decide)

@[simp] theorem stepBeginsAgain_cycle (a1 : DoorEnv) (a2 : Bool) (w : Work) : (stepBeginsAgain a1 a2 w).dw.cycle = w.dw.cycle :=
  (stepBeginsAgain_wk (Inside.refl _) (WorkKeeps.refl _ w) _ _).cycle.resolve_left (by decide)

@[simp] theorem stepCarriesOn_sm (a1 : DoorEnv) (a2 : Bool) (w : Work) : (stepCarriesOn a1 a2 w).dw.sm = w.dw.sm :=
  (stepCarriesOn_wk (Inside.refl _) (WorkKeeps.refl _ w) _ _).sm.resolve_left (by decide)

@[simp] theorem stepCarriesOn_inp (a1 : DoorEnv) (a2 : Bool) (w : Work) : (stepCarriesOn a1 a2 w).dw.inp = w.dw.inp :=
  (stepCarriesOn_wk (Inside.refl _) (WorkKeeps.refl _ w) _ _).inp.resolve_left (by decide)

@[simp] theorem stepCarriesOn_door (a1 : DoorEnv) (a2 : Bool) (w : Work) : (stepCarriesOn a1 a2 w).dw.door = w.dw.door :=
  (stepCarriesOn_wk (Inside.refl _) (WorkKeeps.refl _ w) _ _).door.resolve_left (by decide)

@[simp] theorem stepCarriesOn_obst (a1 : DoorEnv) (a2 : Bool) (w : Work) : (stepCarriesOn a1 a2 w).dw.obst = w.dw.obst :=
  (stepCarriesOn_wk (Inside.refl _) (WorkKeeps.refl _ w) _ _).obst.resolve_left (by decide)

@[simp] theorem stepCarriesOn_cycle (a1 : DoorEnv) (a2 : Bool) (w : Work) : (stepCarriesOn a1 a2 w).dw.cycle = w.dw.cycle :=
  (stepCarriesOn_wk (Inside.refl _) (WorkKeeps.refl _ w) _ _).cycle.resolve_left (by decide)

@[simp] theorem stepResume_sm (a1 : DoorEnv) (w : Work) : (stepResume a1 w).dw.sm = w.dw.sm :=
  (stepResume_wk (Inside.refl _) (WorkKeeps.refl _ w) _).sm.resolve_left (by decide)

@[simp] theorem stepResume_inp (a1 : DoorEnv) (w : Work) : (stepResume a1 w).dw.inp = w.dw.inp :=
  (stepResume_wk (Inside.refl _) (WorkKeeps.refl _ w) _).inp.resolve_left (by decide)

@[simp] theorem stepResume_door (a1 : DoorEnv) (w : Work) : (stepResume a1 w).dw.door = w.dw.door :=
  (stepResume_wk (Inside.refl _) (WorkKeeps.refl _ w) _).door.resolve_left (by decide)

@[simp] theorem stepResume_obst (a1 : DoorEnv) (w : Work) : (stepResume a1 w).dw.obst = w.dw.obst :=
  (stepResume_wk (Inside.refl _) (WorkKeeps.refl _ w) _).obst.resolve_left (by decide)

@[simp] theorem stepResume_cycle (a1 : DoorEnv) (w : Work) : (stepResume a1 w).dw.cycle = w.dw.cycle :=
  (stepResume_wk (Inside.refl _) (WorkKeeps.refl _ w) _).cycle.resolve_left (by decide)

@[simp] theorem markSuspect_sm (a1 : DoorEnv) (a2 : Nat) (a3 : Int) (w : Work) : (markSuspect a1 a2 a3 w).dw.sm = w.dw.sm :=
  (markSuspect_wk (Inside.refl _) (WorkKeeps.refl _ w) _ _ _).sm.resolve_left (by decide)

@[simp] theorem markSuspect_inp (a1 : DoorEnv) (a2 : Nat) (a3 : Int) (w : Work) : (markSuspect a1 a2 a3 w).dw.inp = w.dw.inp :=
  (markSuspect_wk (Inside.refl _) (WorkKeeps.refl _ w) _ _ _).inp.resolve_left (by decide)

@[simp] theorem markSuspect_step (a1 : DoorEnv) (a2 : Nat) (a3 : Int) (w : Work) : (markSuspect a1 a2 a3 w).dw.step = w.dw.step :=
  (markSuspect_wk (Inside.refl _) (WorkKeeps.refl _ w) _ _ _).step.resolve_left (by decide)

@[simp] theorem markSuspect_obst (a1 : DoorEnv) (a2 : Nat) (a3 : Int) (w : Work) : (markSuspect a1 a2 a3 w).dw.obst = w.dw.obst :=
  (markSuspect_wk (Inside.refl _) (WorkKeeps.refl _ w) _ _ _).obst.resolve_left (by decide)

@[simp] theorem markSuspect_cycle (a1 : DoorEnv) (a2 : Nat) (a3 : Int) (w : Work) : (markSuspect a1 a2 a3 w).dw.cycle = w.dw.cycle :=
  (markSuspect_wk (Inside.refl _) (WorkKeeps.refl _ w) _ _ _).cycle.resolve_left (by decide)

@[simp] theorem hallSuspect_sm (a1 : DoorEnv) (w : Work) : (hallSuspect a1 w).dw.sm = w.dw.sm :=
  (hallSuspect_wk (Inside.refl _) (WorkKeeps.refl _ w) _).sm.resolve_left (by decide)

@[simp] theorem hallSuspect_inp (a1 : DoorEnv) (w : Work) : (hallSuspect a1 w).dw.inp = w.dw.inp :=
  (hallSuspect_wk (Inside.refl _) (WorkKeeps.refl _ w) _).inp.resolve_left (by decide)

@[simp] theorem hallSuspect_step (a1 : DoorEnv) (w : Work) : (hallSuspect a1 w).dw.step = w.dw.step :=
  (hallSuspect_wk (Inside.refl _) (WorkKeeps.refl _ w) _).step.resolve_left (by decide)

@[simp] theorem hallSuspect_obst (a1 : DoorEnv) (w : Work) : (hallSuspect a1 w).dw.obst = w.dw.obst :=
  (hallSuspect_wk (Inside.refl _) (WorkKeeps.refl _ w) _).obst.resolve_left (by decide)

@[simp] theorem hallSuspect_cycle (a1 : DoorEnv) (w : Work) : (hallSuspect a1 w).dw.cycle = w.dw.cycle :=
  (hallSuspect_wk (Inside.refl _) (WorkKeeps.refl _ w) _).cycle.resolve_left (by decide)

@[simp] theorem doorFault_sm (a1 : DoorEnv) (a2 : Nat) (a3 : Int) (w : Work) : (doorFault a1 a2 a3 w).dw.sm = w.dw.sm :=
  (doorFault_wk (Inside.refl _) (WorkKeeps.refl _ w) _ _ _).sm.resolve_left (by decide)

@[simp] theorem doorFault_inp (a1 : DoorEnv) (a2 : Nat) (a3 : Int) (w : Work) : (doorFault a1 a2 a3 w).dw.inp = w.dw.inp :=
  (doorFault_wk (Inside.refl _) (WorkKeeps.refl _ w) _ _ _).inp.resolve_left (by decide)

@[simp] theorem doorFault_step (a1 : DoorEnv) (a2 : Nat) (a3 : Int) (w : Work) : (doorFault a1 a2 a3 w).dw.step = w.dw.step :=
  (doorFault_wk (Inside.refl _) (WorkKeeps.refl _ w) _ _ _).step.resolve_left (by decide)

@[simp] theorem doorFault_obst (a1 : DoorEnv) (a2 : Nat) (a3 : Int) (w : Work) : (doorFault a1 a2 a3 w).dw.obst = w.dw.obst :=
  (doorFault_wk (Inside.refl _) (WorkKeeps.refl _ w) _ _ _).obst.resolve_left (by decide)

@[simp] theorem doorFault_cycle (a1 : DoorEnv) (a2 : Nat) (a3 : Int) (w : Work) : (doorFault a1 a2 a3 w).dw.cycle = w.dw.cycle :=
  (doorFault_wk (Inside.refl _) (WorkKeeps.refl _ w) _ _ _).cycle.resolve_left (by decide)

@[simp] theorem doorInterrupted_sm (a1 : DoorEnv) (a2 : Interruption) (w : Work) : (doorInterrupted a1 a2 w).dw.sm = w.dw.sm :=
  (doorInterrupted_wk (Inside.refl _) (WorkKeeps.refl _ w) _ _).sm.resolve_left (by decide)

@[simp] theorem doorInterrupted_inp (a1 : DoorEnv) (a2 : Interruption) (w : Work) : (doorInterrupted a1 a2 w).dw.inp = w.dw.inp :=
  (doorInterrupted_wk (Inside.refl _) (WorkKeeps.refl _ w) _ _).inp.resolve_left (by decide)

@[simp] theorem doorInterrupted_step (a1 : DoorEnv) (a2 : Interruption) (w : Work) : (doorInterrupted a1 a2 w).dw.step = w.dw.step :=
  (doorInterrupted_wk (Inside.refl _) (WorkKeeps.refl _ w) _ _).step.resolve_left (by decide)

@[simp] theorem doorInterrupted_cycle (a1 : DoorEnv) (a2 : Interruption) (w : Work) : (doorInterrupted a1 a2 w).dw.cycle = w.dw.cycle :=
  (doorInterrupted_wk (Inside.refl _) (WorkKeeps.refl _ w) _ _).cycle.resolve_left (by decide)

@[simp] theorem stepInterrupted_sm (a1 : DoorEnv) (a2 : Interruption) (w : Work) : (stepInterrupted a1 a2 w).dw.sm = w.dw.sm :=
  (stepInterrupted_wk (Inside.refl _) (WorkKeeps.refl _ w) _ _).sm.resolve_left (by decide)

@[simp] theorem stepInterrupted_inp (a1 : DoorEnv) (a2 : Interruption) (w : Work) : (stepInterrupted a1 a2 w).dw.inp = w.dw.inp :=
  (stepInterrupted_wk (Inside.refl _) (WorkKeeps.refl _ w) _ _).inp.resolve_left (by decide)

@[simp] theorem stepInterrupted_door (a1 : DoorEnv) (a2 : Interruption) (w : Work) : (stepInterrupted a1 a2 w).dw.door = w.dw.door :=
  (stepInterrupted_wk (Inside.refl _) (WorkKeeps.refl _ w) _ _).door.resolve_left (by decide)

@[simp] theorem stepInterrupted_obst (a1 : DoorEnv) (a2 : Interruption) (w : Work) : (stepInterrupted a1 a2 w).dw.obst = w.dw.obst :=
  (stepInterrupted_wk (Inside.refl _) (WorkKeeps.refl _ w) _ _).obst.resolve_left (by decide)

@[simp] theorem stepInterrupted_cycle (a1 : DoorEnv) (a2 : Interruption) (w : Work) : (stepInterrupted a1 a2 w).dw.cycle = w.dw.cycle :=
  (stepInterrupted_wk (Inside.refl _) (WorkKeeps.refl _ w) _ _).cycle.resolve_left (by decide)

@[simp] theorem doorInterruptionEnds_sm (a1 : DoorEnv) (a2 : Interruption) (w : Work) : (doorInterruptionEnds a1 a2 w).dw.sm = w.dw.sm :=
  (doorInterruptionEnds_wk (Inside.refl _) (WorkKeeps.refl _ w) _ _).sm.resolve_left (by decide)

@[simp] theorem doorInterruptionEnds_inp (a1 : DoorEnv) (a2 : Interruption) (w : Work) : (doorInterruptionEnds a1 a2 w).dw.inp = w.dw.inp :=
  (doorInterruptionEnds_wk (Inside.refl _) (WorkKeeps.refl _ w) _ _).inp.resolve_left (by decide)

@[simp] theorem doorInterruptionEnds_step (a1 : DoorEnv) (a2 : Interruption) (w : Work) : (doorInterruptionEnds a1 a2 w).dw.step = w.dw.step :=
  (doorInterruptionEnds_wk (Inside.refl _) (WorkKeeps.refl _ w) _ _).step.resolve_left (by decide)

@[simp] theorem doorInterruptionEnds_obst (a1 : DoorEnv) (a2 : Interruption) (w : Work) : (doorInterruptionEnds a1 a2 w).dw.obst = w.dw.obst :=
  (doorInterruptionEnds_wk (Inside.refl _) (WorkKeeps.refl _ w) _ _).obst.resolve_left (by decide)

@[simp] theorem doorInterruptionEnds_cycle (a1 : DoorEnv) (a2 : Interruption) (w : Work) : (doorInterruptionEnds a1 a2 w).dw.cycle = w.dw.cycle :=
  (doorInterruptionEnds_wk (Inside.refl _) (WorkKeeps.refl _ w) _ _).cycle.resolve_left (by decide)

@[simp] theorem stepInterruptionEnds_sm (a1 : DoorEnv) (a2 : Interruption) (w : Work) : (stepInterruptionEnds a1 a2 w).dw.sm = w.dw.sm :=
  (stepInterruptionEnds_wk (Inside.refl _) (WorkKeeps.refl _ w) _ _).sm.resolve_left (by decide)

@[simp] theorem stepInterruptionEnds_inp (a1 : DoorEnv) (a2 : Interruption) (w : Work) : (stepInterruptionEnds a1 a2 w).dw.inp = w.dw.inp :=
  (stepInterruptionEnds_wk (Inside.refl _) (WorkKeeps.refl _ w) _ _).inp.resolve_left (by decide)

@[simp] theorem stepInterruptionEnds_door (a1 : DoorEnv) (a2 : Interruption) (w : Work) : (stepInterruptionEnds a1 a2 w).dw.door = w.dw.door :=
  (stepInterruptionEnds_wk (Inside.refl _) (WorkKeeps.refl _ w) _ _).door.resolve_left (by decide)

@[simp] theorem stepInterruptionEnds_obst (a1 : DoorEnv) (a2 : Interruption) (w : Work) : (stepInterruptionEnds a1 a2 w).dw.obst = w.dw.obst :=
  (stepInterruptionEnds_wk (Inside.refl _) (WorkKeeps.refl _ w) _ _).obst.resolve_left (by decide)

@[simp] theorem stepInterruptionEnds_cycle (a1 : DoorEnv) (a2 : Interruption) (w : Work) : (stepInterruptionEnds a1 a2 w).dw.cycle = w.dw.cycle :=
  (stepInterruptionEnds_wk (Inside.refl _) (WorkKeeps.refl _ w) _ _).cycle.resolve_left (by decide)

@[simp] theorem relearn_sm (a1 : DoorEnv) (w : Work) : (relearn a1 w).dw.sm = w.dw.sm :=
  (relearn_wk (Inside.refl _) (WorkKeeps.refl _ w) _).sm.resolve_left (by decide)

@[simp] theorem relearn_inp (a1 : DoorEnv) (w : Work) : (relearn a1 w).dw.inp = w.dw.inp :=
  (relearn_wk (Inside.refl _) (WorkKeeps.refl _ w) _).inp.resolve_left (by decide)

@[simp] theorem relearn_step (a1 : DoorEnv) (w : Work) : (relearn a1 w).dw.step = w.dw.step :=
  (relearn_wk (Inside.refl _) (WorkKeeps.refl _ w) _).step.resolve_left (by decide)

@[simp] theorem relearn_obst (a1 : DoorEnv) (w : Work) : (relearn a1 w).dw.obst = w.dw.obst :=
  (relearn_wk (Inside.refl _) (WorkKeeps.refl _ w) _).obst.resolve_left (by decide)

@[simp] theorem indexShift_sm (a1 : DoorEnv) (a2 : Int) (w : Work) : (indexShift a1 a2 w).dw.sm = w.dw.sm :=
  (indexShift_wk (Inside.refl _) (WorkKeeps.refl _ w) _ _).sm.resolve_left (by decide)

@[simp] theorem indexShift_inp (a1 : DoorEnv) (a2 : Int) (w : Work) : (indexShift a1 a2 w).dw.inp = w.dw.inp :=
  (indexShift_wk (Inside.refl _) (WorkKeeps.refl _ w) _ _).inp.resolve_left (by decide)

@[simp] theorem indexShift_step (a1 : DoorEnv) (a2 : Int) (w : Work) : (indexShift a1 a2 w).dw.step = w.dw.step :=
  (indexShift_wk (Inside.refl _) (WorkKeeps.refl _ w) _ _).step.resolve_left (by decide)

@[simp] theorem indexShift_obst (a1 : DoorEnv) (a2 : Int) (w : Work) : (indexShift a1 a2 w).dw.obst = w.dw.obst :=
  (indexShift_wk (Inside.refl _) (WorkKeeps.refl _ w) _ _).obst.resolve_left (by decide)

@[simp] theorem recordTrip_sm (a1 : DoorEnv) (a2 : Nat) (w : Work) : (recordTrip a1 a2 w).dw.sm = w.dw.sm :=
  (recordTrip_wk (Inside.refl _) (WorkKeeps.refl _ w) _ _).sm.resolve_left (by decide)

@[simp] theorem recordTrip_inp (a1 : DoorEnv) (a2 : Nat) (w : Work) : (recordTrip a1 a2 w).dw.inp = w.dw.inp :=
  (recordTrip_wk (Inside.refl _) (WorkKeeps.refl _ w) _ _).inp.resolve_left (by decide)

@[simp] theorem recordTrip_door (a1 : DoorEnv) (a2 : Nat) (w : Work) : (recordTrip a1 a2 w).dw.door = w.dw.door :=
  (recordTrip_wk (Inside.refl _) (WorkKeeps.refl _ w) _ _).door.resolve_left (by decide)

@[simp] theorem recordTrip_step (a1 : DoorEnv) (a2 : Nat) (w : Work) : (recordTrip a1 a2 w).dw.step = w.dw.step :=
  (recordTrip_wk (Inside.refl _) (WorkKeeps.refl _ w) _ _).step.resolve_left (by decide)

@[simp] theorem recordTrip_cycle (a1 : DoorEnv) (a2 : Nat) (w : Work) : (recordTrip a1 a2 w).dw.cycle = w.dw.cycle :=
  (recordTrip_wk (Inside.refl _) (WorkKeeps.refl _ w) _ _).cycle.resolve_left (by decide)

@[simp] theorem tripEvent_sm (a1 : DoorEnv) (w : Work) : (tripEvent a1 w).dw.sm = w.dw.sm :=
  (tripEvent_wk (Inside.refl _) (WorkKeeps.refl _ w) _).sm.resolve_left (by decide)

@[simp] theorem tripEvent_inp (a1 : DoorEnv) (w : Work) : (tripEvent a1 w).dw.inp = w.dw.inp :=
  (tripEvent_wk (Inside.refl _) (WorkKeeps.refl _ w) _).inp.resolve_left (by decide)

@[simp] theorem tripEvent_door (a1 : DoorEnv) (w : Work) : (tripEvent a1 w).dw.door = w.dw.door :=
  (tripEvent_wk (Inside.refl _) (WorkKeeps.refl _ w) _).door.resolve_left (by decide)

@[simp] theorem tripEvent_step (a1 : DoorEnv) (w : Work) : (tripEvent a1 w).dw.step = w.dw.step :=
  (tripEvent_wk (Inside.refl _) (WorkKeeps.refl _ w) _).step.resolve_left (by decide)

@[simp] theorem tripEvent_obst (a1 : DoorEnv) (w : Work) : (tripEvent a1 w).dw.obst = w.dw.obst :=
  (tripEvent_wk (Inside.refl _) (WorkKeeps.refl _ w) _).obst.resolve_left (by decide)

@[simp] theorem tripEvent_cycle (a1 : DoorEnv) (w : Work) : (tripEvent a1 w).dw.cycle = w.dw.cycle :=
  (tripEvent_wk (Inside.refl _) (WorkKeeps.refl _ w) _).cycle.resolve_left (by decide)

@[simp] theorem countFinalClosure_sm (w : Work) : (countFinalClosure w).dw.sm = w.dw.sm :=
  (countFinalClosure_wk (Inside.refl _) (WorkKeeps.refl _ w)).sm.resolve_left (by decide)

@[simp] theorem countFinalClosure_inp (w : Work) : (countFinalClosure w).dw.inp = w.dw.inp :=
  (countFinalClosure_wk (Inside.refl _) (WorkKeeps.refl _ w)).inp.resolve_left (by decide)

@[simp] theorem countFinalClosure_door (w : Work) : (countFinalClosure w).dw.door = w.dw.door :=
  (countFinalClosure_wk (Inside.refl _) (WorkKeeps.refl _ w)).door.resolve_left (by decide)

@[simp] theorem countFinalClosure_step (w : Work) : (countFinalClosure w).dw.step = w.dw.step :=
  (countFinalClosure_wk (Inside.refl _) (WorkKeeps.refl _ w)).step.resolve_left (by decide)

@[simp] theorem countFinalClosure_cycle (w : Work) : (countFinalClosure w).dw.cycle = w.dw.cycle :=
  (countFinalClosure_wk (Inside.refl _) (WorkKeeps.refl _ w)).cycle.resolve_left (by decide)

@[simp] theorem stepChop_sm (a1 : DoorEnv) (w : Work) : (stepChop a1 w).dw.sm = w.dw.sm :=
  (stepChop_wk (Inside.refl _) (WorkKeeps.refl _ w) _).sm.resolve_left (by decide)

@[simp] theorem stepChop_inp (a1 : DoorEnv) (w : Work) : (stepChop a1 w).dw.inp = w.dw.inp :=
  (stepChop_wk (Inside.refl _) (WorkKeeps.refl _ w) _).inp.resolve_left (by decide)

@[simp] theorem stepChop_door (a1 : DoorEnv) (w : Work) : (stepChop a1 w).dw.door = w.dw.door :=
  (stepChop_wk (Inside.refl _) (WorkKeeps.refl _ w) _).door.resolve_left (by decide)

@[simp] theorem stepChop_obst (a1 : DoorEnv) (w : Work) : (stepChop a1 w).dw.obst = w.dw.obst :=
  (stepChop_wk (Inside.refl _) (WorkKeeps.refl _ w) _).obst.resolve_left (by decide)

@[simp] theorem stepChop_cycle (a1 : DoorEnv) (w : Work) : (stepChop a1 w).dw.cycle = w.dw.cycle :=
  (stepChop_wk (Inside.refl _) (WorkKeeps.refl _ w) _).cycle.resolve_left (by decide)

@[simp] theorem doorSample_sm (a1 : DoorEnv) (a2 : Nat) (w : Work) : (doorSample a1 a2 w).dw.sm = w.dw.sm :=
  (doorSample_wk (Inside.refl _) (WorkKeeps.refl _ w) _ _).sm.resolve_left (by decide)

@[simp] theorem doorSample_inp (a1 : DoorEnv) (a2 : Nat) (w : Work) : (doorSample a1 a2 w).dw.inp = w.dw.inp :=
  (doorSample_wk (Inside.refl _) (WorkKeeps.refl _ w) _ _).inp.resolve_left (by decide)

@[simp] theorem doorSample_step (a1 : DoorEnv) (a2 : Nat) (w : Work) : (doorSample a1 a2 w).dw.step = w.dw.step :=
  (doorSample_wk (Inside.refl _) (WorkKeeps.refl _ w) _ _).step.resolve_left (by decide)

@[simp] theorem doorSample_obst (a1 : DoorEnv) (a2 : Nat) (w : Work) : (doorSample a1 a2 w).dw.obst = w.dw.obst :=
  (doorSample_wk (Inside.refl _) (WorkKeeps.refl _ w) _ _).obst.resolve_left (by decide)

@[simp] theorem doorSample_cycle (a1 : DoorEnv) (a2 : Nat) (w : Work) : (doorSample a1 a2 w).dw.cycle = w.dw.cycle :=
  (doorSample_wk (Inside.refl _) (WorkKeeps.refl _ w) _ _).cycle.resolve_left (by decide)

@[simp] theorem doorSamples_sm (a1 : DoorEnv) (w : Work) : (doorSamples a1 w).dw.sm = w.dw.sm :=
  (doorSamples_wk (Inside.refl _) (WorkKeeps.refl _ w) _).sm.resolve_left (by decide)

@[simp] theorem doorSamples_inp (a1 : DoorEnv) (w : Work) : (doorSamples a1 w).dw.inp = w.dw.inp :=
  (doorSamples_wk (Inside.refl _) (WorkKeeps.refl _ w) _).inp.resolve_left (by decide)

@[simp] theorem doorSamples_step (a1 : DoorEnv) (w : Work) : (doorSamples a1 w).dw.step = w.dw.step :=
  (doorSamples_wk (Inside.refl _) (WorkKeeps.refl _ w) _).step.resolve_left (by decide)

@[simp] theorem doorSamples_obst (a1 : DoorEnv) (w : Work) : (doorSamples a1 w).dw.obst = w.dw.obst :=
  (doorSamples_wk (Inside.refl _) (WorkKeeps.refl _ w) _).obst.resolve_left (by decide)

@[simp] theorem doorSamples_cycle (a1 : DoorEnv) (w : Work) : (doorSamples a1 w).dw.cycle = w.dw.cycle :=
  (doorSamples_wk (Inside.refl _) (WorkKeeps.refl _ w) _).cycle.resolve_left (by decide)

@[simp] theorem stepOff_sm (a1 : DoorEnv) (w : Work) : (stepOff a1 w).dw.sm = w.dw.sm :=
  (stepOff_wk (Inside.refl _) (WorkKeeps.refl _ w) _).sm.resolve_left (by decide)

@[simp] theorem stepOff_inp (a1 : DoorEnv) (w : Work) : (stepOff a1 w).dw.inp = w.dw.inp :=
  (stepOff_wk (Inside.refl _) (WorkKeeps.refl _ w) _).inp.resolve_left (by decide)

@[simp] theorem stepOff_door (a1 : DoorEnv) (w : Work) : (stepOff a1 w).dw.door = w.dw.door :=
  (stepOff_wk (Inside.refl _) (WorkKeeps.refl _ w) _).door.resolve_left (by decide)

@[simp] theorem stepOff_obst (a1 : DoorEnv) (w : Work) : (stepOff a1 w).dw.obst = w.dw.obst :=
  (stepOff_wk (Inside.refl _) (WorkKeeps.refl _ w) _).obst.resolve_left (by decide)

@[simp] theorem stepOff_cycle (a1 : DoorEnv) (w : Work) : (stepOff a1 w).dw.cycle = w.dw.cycle :=
  (stepOff_wk (Inside.refl _) (WorkKeeps.refl _ w) _).cycle.resolve_left (by decide)

@[simp] theorem startPark_sm (a1 : DoorEnv) (w : Work) : (startPark a1 w).dw.sm = w.dw.sm :=
  (startPark_wk (Inside.refl _) (WorkKeeps.refl _ w) _).sm.resolve_left (by decide)

@[simp] theorem startPark_inp (a1 : DoorEnv) (w : Work) : (startPark a1 w).dw.inp = w.dw.inp :=
  (startPark_wk (Inside.refl _) (WorkKeeps.refl _ w) _).inp.resolve_left (by decide)

@[simp] theorem startPark_door (a1 : DoorEnv) (w : Work) : (startPark a1 w).dw.door = w.dw.door :=
  (startPark_wk (Inside.refl _) (WorkKeeps.refl _ w) _).door.resolve_left (by decide)

@[simp] theorem startPark_obst (a1 : DoorEnv) (w : Work) : (startPark a1 w).dw.obst = w.dw.obst :=
  (startPark_wk (Inside.refl _) (WorkKeeps.refl _ w) _).obst.resolve_left (by decide)

@[simp] theorem startPark_cycle (a1 : DoorEnv) (w : Work) : (startPark a1 w).dw.cycle = w.dw.cycle :=
  (startPark_wk (Inside.refl _) (WorkKeeps.refl _ w) _).cycle.resolve_left (by decide)

@[simp] theorem stepCompletes_sm (a1 : DoorEnv) (w : Work) : (stepCompletes a1 w).dw.sm = w.dw.sm :=
  (stepCompletes_wk (Inside.refl _) (WorkKeeps.refl _ w) _).sm.resolve_left (by decide)

@[simp] theorem stepCompletes_inp (a1 : DoorEnv) (w : Work) : (stepCompletes a1 w).dw.inp = w.dw.inp :=
  (stepCompletes_wk (Inside.refl _) (WorkKeeps.refl _ w) _).inp.resolve_left (by decide)

@[simp] theorem stepCompletes_door (a1 : DoorEnv) (w : Work) : (stepCompletes a1 w).dw.door = w.dw.door :=
  (stepCompletes_wk (Inside.refl _) (WorkKeeps.refl _ w) _).door.resolve_left (by decide)

@[simp] theorem stepCompletes_obst (a1 : DoorEnv) (w : Work) : (stepCompletes a1 w).dw.obst = w.dw.obst :=
  (stepCompletes_wk (Inside.refl _) (WorkKeeps.refl _ w) _).obst.resolve_left (by decide)

@[simp] theorem stepCompletes_cycle (a1 : DoorEnv) (w : Work) : (stepCompletes a1 w).dw.cycle = w.dw.cycle :=
  (stepCompletes_wk (Inside.refl _) (WorkKeeps.refl _ w) _).cycle.resolve_left (by decide)

@[simp] theorem finishPark_sm (a1 : DoorEnv) (w : Work) : (finishPark a1 w).dw.sm = w.dw.sm :=
  (finishPark_wk (Inside.refl _) (WorkKeeps.refl _ w) _).sm.resolve_left (by decide)

@[simp] theorem finishPark_inp (a1 : DoorEnv) (w : Work) : (finishPark a1 w).dw.inp = w.dw.inp :=
  (finishPark_wk (Inside.refl _) (WorkKeeps.refl _ w) _).inp.resolve_left (by decide)

@[simp] theorem finishPark_door (a1 : DoorEnv) (w : Work) : (finishPark a1 w).dw.door = w.dw.door :=
  (finishPark_wk (Inside.refl _) (WorkKeeps.refl _ w) _).door.resolve_left (by decide)

@[simp] theorem finishPark_obst (a1 : DoorEnv) (w : Work) : (finishPark a1 w).dw.obst = w.dw.obst :=
  (finishPark_wk (Inside.refl _) (WorkKeeps.refl _ w) _).obst.resolve_left (by decide)

@[simp] theorem finishPark_cycle (a1 : DoorEnv) (w : Work) : (finishPark a1 w).dw.cycle = w.dw.cycle :=
  (finishPark_wk (Inside.refl _) (WorkKeeps.refl _ w) _).cycle.resolve_left (by decide)

@[simp] theorem homingStall_sm (a1 : DoorEnv) (a2 : Int) (w : Work) : (homingStall a1 a2 w).dw.sm = w.dw.sm :=
  (homingStall_wk (Inside.refl _) (WorkKeeps.refl _ w) _ _).sm.resolve_left (by decide)

@[simp] theorem homingStall_inp (a1 : DoorEnv) (a2 : Int) (w : Work) : (homingStall a1 a2 w).dw.inp = w.dw.inp :=
  (homingStall_wk (Inside.refl _) (WorkKeeps.refl _ w) _ _).inp.resolve_left (by decide)

@[simp] theorem homingStall_door (a1 : DoorEnv) (a2 : Int) (w : Work) : (homingStall a1 a2 w).dw.door = w.dw.door :=
  (homingStall_wk (Inside.refl _) (WorkKeeps.refl _ w) _ _).door.resolve_left (by decide)

@[simp] theorem homingStall_obst (a1 : DoorEnv) (a2 : Int) (w : Work) : (homingStall a1 a2 w).dw.obst = w.dw.obst :=
  (homingStall_wk (Inside.refl _) (WorkKeeps.refl _ w) _ _).obst.resolve_left (by decide)

@[simp] theorem homingStall_cycle (a1 : DoorEnv) (a2 : Int) (w : Work) : (homingStall a1 a2 w).dw.cycle = w.dw.cycle :=
  (homingStall_wk (Inside.refl _) (WorkKeeps.refl _ w) _ _).cycle.resolve_left (by decide)

@[simp] theorem stallCounts_sm (a1 : DoorEnv) (a2 : Nat) (a3 : Int) (w : Work) : (stallCounts a1 a2 a3 w).dw.sm = w.dw.sm :=
  (stallCounts_wk (Inside.refl _) (WorkKeeps.refl _ w) _ _ _).sm.resolve_left (by decide)

@[simp] theorem stallCounts_inp (a1 : DoorEnv) (a2 : Nat) (a3 : Int) (w : Work) : (stallCounts a1 a2 a3 w).dw.inp = w.dw.inp :=
  (stallCounts_wk (Inside.refl _) (WorkKeeps.refl _ w) _ _ _).inp.resolve_left (by decide)

@[simp] theorem stallCounts_door (a1 : DoorEnv) (a2 : Nat) (a3 : Int) (w : Work) : (stallCounts a1 a2 a3 w).dw.door = w.dw.door :=
  (stallCounts_wk (Inside.refl _) (WorkKeeps.refl _ w) _ _ _).door.resolve_left (by decide)

@[simp] theorem stallCounts_obst (a1 : DoorEnv) (a2 : Nat) (a3 : Int) (w : Work) : (stallCounts a1 a2 a3 w).dw.obst = w.dw.obst :=
  (stallCounts_wk (Inside.refl _) (WorkKeeps.refl _ w) _ _ _).obst.resolve_left (by decide)

@[simp] theorem stallCounts_cycle (a1 : DoorEnv) (a2 : Nat) (a3 : Int) (w : Work) : (stallCounts a1 a2 a3 w).dw.cycle = w.dw.cycle :=
  (stallCounts_wk (Inside.refl _) (WorkKeeps.refl _ w) _ _ _).cycle.resolve_left (by decide)

@[simp] theorem retractionObstructed_sm (a1 : DoorEnv) (w : Work) : (retractionObstructed a1 w).dw.sm = w.dw.sm :=
  (retractionObstructed_wk (Inside.refl _) (WorkKeeps.refl _ w) _).sm.resolve_left (by decide)

@[simp] theorem retractionObstructed_inp (a1 : DoorEnv) (w : Work) : (retractionObstructed a1 w).dw.inp = w.dw.inp :=
  (retractionObstructed_wk (Inside.refl _) (WorkKeeps.refl _ w) _).inp.resolve_left (by decide)

@[simp] theorem retractionObstructed_door (a1 : DoorEnv) (w : Work) : (retractionObstructed a1 w).dw.door = w.dw.door :=
  (retractionObstructed_wk (Inside.refl _) (WorkKeeps.refl _ w) _).door.resolve_left (by decide)

@[simp] theorem retractionObstructed_obst (a1 : DoorEnv) (w : Work) : (retractionObstructed a1 w).dw.obst = w.dw.obst :=
  (retractionObstructed_wk (Inside.refl _) (WorkKeeps.refl _ w) _).obst.resolve_left (by decide)

@[simp] theorem deployFails_sm (a1 : DoorEnv) (w : Work) : (deployFails a1 w).1.dw.sm = w.dw.sm :=
  (deployFails_wk (Inside.refl _) (WorkKeeps.refl _ w) _).sm.resolve_left (by decide)

@[simp] theorem deployFails_inp (a1 : DoorEnv) (w : Work) : (deployFails a1 w).1.dw.inp = w.dw.inp :=
  (deployFails_wk (Inside.refl _) (WorkKeeps.refl _ w) _).inp.resolve_left (by decide)

@[simp] theorem deployFails_door (a1 : DoorEnv) (w : Work) : (deployFails a1 w).1.dw.door = w.dw.door :=
  (deployFails_wk (Inside.refl _) (WorkKeeps.refl _ w) _).door.resolve_left (by decide)

@[simp] theorem deployFails_obst (a1 : DoorEnv) (w : Work) : (deployFails a1 w).1.dw.obst = w.dw.obst :=
  (deployFails_wk (Inside.refl _) (WorkKeeps.refl _ w) _).obst.resolve_left (by decide)

@[simp] theorem deployStall_sm (a1 : DoorEnv) (a2 : Int) (w : Work) : (deployStall a1 a2 w).1.dw.sm = w.dw.sm :=
  (deployStall_wk (Inside.refl _) (WorkKeeps.refl _ w) _ _).sm.resolve_left (by decide)

@[simp] theorem deployStall_inp (a1 : DoorEnv) (a2 : Int) (w : Work) : (deployStall a1 a2 w).1.dw.inp = w.dw.inp :=
  (deployStall_wk (Inside.refl _) (WorkKeeps.refl _ w) _ _).inp.resolve_left (by decide)

@[simp] theorem deployStall_door (a1 : DoorEnv) (a2 : Int) (w : Work) : (deployStall a1 a2 w).1.dw.door = w.dw.door :=
  (deployStall_wk (Inside.refl _) (WorkKeeps.refl _ w) _ _).door.resolve_left (by decide)

@[simp] theorem deployStall_obst (a1 : DoorEnv) (a2 : Int) (w : Work) : (deployStall a1 a2 w).1.dw.obst = w.dw.obst :=
  (deployStall_wk (Inside.refl _) (WorkKeeps.refl _ w) _ _).obst.resolve_left (by decide)

@[simp] theorem stepStall_sm (a1 : DoorEnv) (a2 : Int) (w : Work) : (stepStall a1 a2 w).1.dw.sm = w.dw.sm :=
  (stepStall_wk (Inside.refl _) (WorkKeeps.refl _ w) _ _).sm.resolve_left (by decide)

@[simp] theorem stepStall_inp (a1 : DoorEnv) (a2 : Int) (w : Work) : (stepStall a1 a2 w).1.dw.inp = w.dw.inp :=
  (stepStall_wk (Inside.refl _) (WorkKeeps.refl _ w) _ _).inp.resolve_left (by decide)

@[simp] theorem stepStall_door (a1 : DoorEnv) (a2 : Int) (w : Work) : (stepStall a1 a2 w).1.dw.door = w.dw.door :=
  (stepStall_wk (Inside.refl _) (WorkKeeps.refl _ w) _ _).door.resolve_left (by decide)

@[simp] theorem stepStall_obst (a1 : DoorEnv) (a2 : Int) (w : Work) : (stepStall a1 a2 w).1.dw.obst = w.dw.obst :=
  (stepStall_wk (Inside.refl _) (WorkKeeps.refl _ w) _ _).obst.resolve_left (by decide)

@[simp] theorem checkDeployed_sm (a1 : DoorEnv) (w : Work) : (checkDeployed a1 w).dw.sm = w.dw.sm :=
  (checkDeployed_wk (Inside.refl _) (WorkKeeps.refl _ w) _).sm.resolve_left (by decide)

@[simp] theorem checkDeployed_inp (a1 : DoorEnv) (w : Work) : (checkDeployed a1 w).dw.inp = w.dw.inp :=
  (checkDeployed_wk (Inside.refl _) (WorkKeeps.refl _ w) _).inp.resolve_left (by decide)

@[simp] theorem checkDeployed_door (a1 : DoorEnv) (w : Work) : (checkDeployed a1 w).dw.door = w.dw.door :=
  (checkDeployed_wk (Inside.refl _) (WorkKeeps.refl _ w) _).door.resolve_left (by decide)

@[simp] theorem checkDeployed_obst (a1 : DoorEnv) (w : Work) : (checkDeployed a1 w).dw.obst = w.dw.obst :=
  (checkDeployed_wk (Inside.refl _) (WorkKeeps.refl _ w) _).obst.resolve_left (by decide)

@[simp] theorem checkDeployed_cycle (a1 : DoorEnv) (w : Work) : (checkDeployed a1 w).dw.cycle = w.dw.cycle :=
  (checkDeployed_wk (Inside.refl _) (WorkKeeps.refl _ w) _).cycle.resolve_left (by decide)

@[simp] theorem deployCompletes_sm (a1 : DoorEnv) (w : Work) : (deployCompletes a1 w).dw.sm = w.dw.sm :=
  (deployCompletes_wk (Inside.refl _) (WorkKeeps.refl _ w) _).sm.resolve_left (by decide)

@[simp] theorem deployCompletes_inp (a1 : DoorEnv) (w : Work) : (deployCompletes a1 w).dw.inp = w.dw.inp :=
  (deployCompletes_wk (Inside.refl _) (WorkKeeps.refl _ w) _).inp.resolve_left (by decide)

@[simp] theorem deployCompletes_door (a1 : DoorEnv) (w : Work) : (deployCompletes a1 w).dw.door = w.dw.door :=
  (deployCompletes_wk (Inside.refl _) (WorkKeeps.refl _ w) _).door.resolve_left (by decide)

@[simp] theorem deployCompletes_obst (a1 : DoorEnv) (w : Work) : (deployCompletes a1 w).dw.obst = w.dw.obst :=
  (deployCompletes_wk (Inside.refl _) (WorkKeeps.refl _ w) _).obst.resolve_left (by decide)

@[simp] theorem deployCompletes_cycle (a1 : DoorEnv) (w : Work) : (deployCompletes a1 w).dw.cycle = w.dw.cycle :=
  (deployCompletes_wk (Inside.refl _) (WorkKeeps.refl _ w) _).cycle.resolve_left (by decide)

@[simp] theorem stepPathEnds_sm (a1 : DoorEnv) (w : Work) : (stepPathEnds a1 w).dw.sm = w.dw.sm :=
  (stepPathEnds_wk (Inside.refl _) (WorkKeeps.refl _ w) _).sm.resolve_left (by decide)

@[simp] theorem stepPathEnds_inp (a1 : DoorEnv) (w : Work) : (stepPathEnds a1 w).dw.inp = w.dw.inp :=
  (stepPathEnds_wk (Inside.refl _) (WorkKeeps.refl _ w) _).inp.resolve_left (by decide)

@[simp] theorem stepPathEnds_door (a1 : DoorEnv) (w : Work) : (stepPathEnds a1 w).dw.door = w.dw.door :=
  (stepPathEnds_wk (Inside.refl _) (WorkKeeps.refl _ w) _).door.resolve_left (by decide)

@[simp] theorem stepPathEnds_obst (a1 : DoorEnv) (w : Work) : (stepPathEnds a1 w).dw.obst = w.dw.obst :=
  (stepPathEnds_wk (Inside.refl _) (WorkKeeps.refl _ w) _).obst.resolve_left (by decide)

@[simp] theorem stepPathEnds_cycle (a1 : DoorEnv) (w : Work) : (stepPathEnds a1 w).dw.cycle = w.dw.cycle :=
  (stepPathEnds_wk (Inside.refl _) (WorkKeeps.refl _ w) _).cycle.resolve_left (by decide)

@[simp] theorem srsTransition_sm (a1 : DoorEnv) (a2 : Bool) (w : Work) : (srsTransition a1 a2 w).dw.sm = w.dw.sm :=
  (srsTransition_wk (Inside.refl _) (WorkKeeps.refl _ w) _ _).sm.resolve_left (by decide)

@[simp] theorem srsTransition_inp (a1 : DoorEnv) (a2 : Bool) (w : Work) : (srsTransition a1 a2 w).dw.inp = w.dw.inp :=
  (srsTransition_wk (Inside.refl _) (WorkKeeps.refl _ w) _ _).inp.resolve_left (by decide)

@[simp] theorem srsTransition_door (a1 : DoorEnv) (a2 : Bool) (w : Work) : (srsTransition a1 a2 w).dw.door = w.dw.door :=
  (srsTransition_wk (Inside.refl _) (WorkKeeps.refl _ w) _ _).door.resolve_left (by decide)

@[simp] theorem srsTransition_obst (a1 : DoorEnv) (a2 : Bool) (w : Work) : (srsTransition a1 a2 w).dw.obst = w.dw.obst :=
  (srsTransition_wk (Inside.refl _) (WorkKeeps.refl _ w) _ _).obst.resolve_left (by decide)

@[simp] theorem cycleAccount_sm (a1 : DoorEnv) (w : Work) : (cycleAccount a1 w).dw.sm = w.dw.sm :=
  (cycleAccount_wk (Inside.refl _) (WorkKeeps.refl _ w) _).sm.resolve_left (by decide)

@[simp] theorem cycleAccount_inp (a1 : DoorEnv) (w : Work) : (cycleAccount a1 w).dw.inp = w.dw.inp :=
  (cycleAccount_wk (Inside.refl _) (WorkKeeps.refl _ w) _).inp.resolve_left (by decide)

@[simp] theorem cycleAccount_door (a1 : DoorEnv) (w : Work) : (cycleAccount a1 w).dw.door = w.dw.door :=
  (cycleAccount_wk (Inside.refl _) (WorkKeeps.refl _ w) _).door.resolve_left (by decide)

@[simp] theorem cycleAccount_step (a1 : DoorEnv) (w : Work) : (cycleAccount a1 w).dw.step = w.dw.step :=
  (cycleAccount_wk (Inside.refl _) (WorkKeeps.refl _ w) _).step.resolve_left (by decide)

@[simp] theorem cycleAccount_obst (a1 : DoorEnv) (w : Work) : (cycleAccount a1 w).dw.obst = w.dw.obst :=
  (cycleAccount_wk (Inside.refl _) (WorkKeeps.refl _ w) _).obst.resolve_left (by decide)

@[simp] theorem cycleStart_sm (a1 : DoorEnv) (a2 : Nat) (w : Work) : (cycleStart a1 a2 w).dw.sm = w.dw.sm :=
  (cycleStart_wk (Inside.refl _) (WorkKeeps.refl _ w) _ _).sm.resolve_left (by decide)

@[simp] theorem cycleStart_inp (a1 : DoorEnv) (a2 : Nat) (w : Work) : (cycleStart a1 a2 w).dw.inp = w.dw.inp :=
  (cycleStart_wk (Inside.refl _) (WorkKeeps.refl _ w) _ _).inp.resolve_left (by decide)

@[simp] theorem cycleStart_door (a1 : DoorEnv) (a2 : Nat) (w : Work) : (cycleStart a1 a2 w).dw.door = w.dw.door :=
  (cycleStart_wk (Inside.refl _) (WorkKeeps.refl _ w) _ _).door.resolve_left (by decide)

@[simp] theorem cycleStart_step (a1 : DoorEnv) (a2 : Nat) (w : Work) : (cycleStart a1 a2 w).dw.step = w.dw.step :=
  (cycleStart_wk (Inside.refl _) (WorkKeeps.refl _ w) _ _).step.resolve_left (by decide)

@[simp] theorem cycleStart_obst (a1 : DoorEnv) (a2 : Nat) (w : Work) : (cycleStart a1 a2 w).dw.obst = w.dw.obst :=
  (cycleStart_wk (Inside.refl _) (WorkKeeps.refl _ w) _ _).obst.resolve_left (by decide)

@[simp] theorem cycleBegin_sm (a1 : DoorEnv) (a2 : Nat) (w : Work) : (cycleBegin a1 a2 w).dw.sm = w.dw.sm :=
  (cycleBegin_wk (Inside.refl _) (WorkKeeps.refl _ w) _ _).sm.resolve_left (by decide)

@[simp] theorem cycleBegin_inp (a1 : DoorEnv) (a2 : Nat) (w : Work) : (cycleBegin a1 a2 w).dw.inp = w.dw.inp :=
  (cycleBegin_wk (Inside.refl _) (WorkKeeps.refl _ w) _ _).inp.resolve_left (by decide)

@[simp] theorem cycleBegin_door (a1 : DoorEnv) (a2 : Nat) (w : Work) : (cycleBegin a1 a2 w).dw.door = w.dw.door :=
  (cycleBegin_wk (Inside.refl _) (WorkKeeps.refl _ w) _ _).door.resolve_left (by decide)

@[simp] theorem cycleBegin_step (a1 : DoorEnv) (a2 : Nat) (w : Work) : (cycleBegin a1 a2 w).dw.step = w.dw.step :=
  (cycleBegin_wk (Inside.refl _) (WorkKeeps.refl _ w) _ _).step.resolve_left (by decide)

@[simp] theorem cycleBegin_obst (a1 : DoorEnv) (a2 : Nat) (w : Work) : (cycleBegin a1 a2 w).dw.obst = w.dw.obst :=
  (cycleBegin_wk (Inside.refl _) (WorkKeeps.refl _ w) _ _).obst.resolve_left (by decide)

@[simp] theorem cycleEnd_sm (a1 : Nat) (w : Work) : (cycleEnd a1 w).dw.sm = w.dw.sm :=
  (cycleEnd_wk (Inside.refl _) (WorkKeeps.refl _ w) _).sm.resolve_left (by decide)

@[simp] theorem cycleEnd_inp (a1 : Nat) (w : Work) : (cycleEnd a1 w).dw.inp = w.dw.inp :=
  (cycleEnd_wk (Inside.refl _) (WorkKeeps.refl _ w) _).inp.resolve_left (by decide)

@[simp] theorem cycleEnd_door (a1 : Nat) (w : Work) : (cycleEnd a1 w).dw.door = w.dw.door :=
  (cycleEnd_wk (Inside.refl _) (WorkKeeps.refl _ w) _).door.resolve_left (by decide)

@[simp] theorem cycleEnd_step (a1 : Nat) (w : Work) : (cycleEnd a1 w).dw.step = w.dw.step :=
  (cycleEnd_wk (Inside.refl _) (WorkKeeps.refl _ w) _).step.resolve_left (by decide)

@[simp] theorem cycleEnd_obst (a1 : Nat) (w : Work) : (cycleEnd a1 w).dw.obst = w.dw.obst :=
  (cycleEnd_wk (Inside.refl _) (WorkKeeps.refl _ w) _).obst.resolve_left (by decide)

@[simp] theorem entryMarks_inp (a1 : DoorEnv) (a2 : DoorState) (a3 : DoorState) (a4 : Phase) (w : Work) : (entryMarks a1 a2 a3 a4 w).dw.inp = w.dw.inp :=
  (entryMarks_wk (Inside.refl _) (WorkKeeps.refl _ w) _ _ _ _).inp.resolve_left (by decide)

@[simp] theorem entryMarks_door (a1 : DoorEnv) (a2 : DoorState) (a3 : DoorState) (a4 : Phase) (w : Work) : (entryMarks a1 a2 a3 a4 w).dw.door = w.dw.door :=
  (entryMarks_wk (Inside.refl _) (WorkKeeps.refl _ w) _ _ _ _).door.resolve_left (by decide)

@[simp] theorem entryMarks_step (a1 : DoorEnv) (a2 : DoorState) (a3 : DoorState) (a4 : Phase) (w : Work) : (entryMarks a1 a2 a3 a4 w).dw.step = w.dw.step :=
  (entryMarks_wk (Inside.refl _) (WorkKeeps.refl _ w) _ _ _ _).step.resolve_left (by decide)

@[simp] theorem entryMarks_obst (a1 : DoorEnv) (a2 : DoorState) (a3 : DoorState) (a4 : Phase) (w : Work) : (entryMarks a1 a2 a3 a4 w).dw.obst = w.dw.obst :=
  (entryMarks_wk (Inside.refl _) (WorkKeeps.refl _ w) _ _ _ _).obst.resolve_left (by decide)

@[simp] theorem leaveFault_sm (w : Work) : (leaveFault w).dw.sm = w.dw.sm :=
  (leaveFault_wk (Inside.refl _) (WorkKeeps.refl _ w)).sm.resolve_left (by decide)

@[simp] theorem leaveFault_inp (w : Work) : (leaveFault w).dw.inp = w.dw.inp :=
  (leaveFault_wk (Inside.refl _) (WorkKeeps.refl _ w)).inp.resolve_left (by decide)

@[simp] theorem leaveFault_obst (w : Work) : (leaveFault w).dw.obst = w.dw.obst :=
  (leaveFault_wk (Inside.refl _) (WorkKeeps.refl _ w)).obst.resolve_left (by decide)

@[simp] theorem leaveFault_cycle (w : Work) : (leaveFault w).dw.cycle = w.dw.cycle :=
  (leaveFault_wk (Inside.refl _) (WorkKeeps.refl _ w)).cycle.resolve_left (by decide)

@[simp] theorem enter_inp (a1 : DoorEnv) (a2 : DoorState) (a3 : Phase) (a4 : Option Cause) (w : Work) : (enter a1 a2 a3 a4 w).dw.inp = w.dw.inp :=
  (enter_wk (Inside.refl _) (WorkKeeps.refl _ w) _ _ _ _).inp.resolve_left (by decide)

@[simp] theorem enter_obst (a1 : DoorEnv) (a2 : DoorState) (a3 : Phase) (a4 : Option Cause) (w : Work) : (enter a1 a2 a3 a4 w).dw.obst = w.dw.obst :=
  (enter_wk (Inside.refl _) (WorkKeeps.refl _ w) _ _ _ _).obst.resolve_left (by decide)

@[simp] theorem maintCourse_inp (a1 : DoorEnv) (a2 : DoorState) (a3 : Phase) (w : Work) : (maintCourse a1 a2 a3 w).dw.inp = w.dw.inp :=
  (maintCourse_wk (Inside.refl _) (WorkKeeps.refl _ w) _ _ _).inp.resolve_left (by decide)

@[simp] theorem maintCourse_door (a1 : DoorEnv) (a2 : DoorState) (a3 : Phase) (w : Work) : (maintCourse a1 a2 a3 w).dw.door = w.dw.door :=
  (maintCourse_wk (Inside.refl _) (WorkKeeps.refl _ w) _ _ _).door.resolve_left (by decide)

@[simp] theorem maintCourse_step (a1 : DoorEnv) (a2 : DoorState) (a3 : Phase) (w : Work) : (maintCourse a1 a2 a3 w).dw.step = w.dw.step :=
  (maintCourse_wk (Inside.refl _) (WorkKeeps.refl _ w) _ _ _).step.resolve_left (by decide)

@[simp] theorem maintCourse_obst (a1 : DoorEnv) (a2 : DoorState) (a3 : Phase) (w : Work) : (maintCourse a1 a2 a3 w).dw.obst = w.dw.obst :=
  (maintCourse_wk (Inside.refl _) (WorkKeeps.refl _ w) _ _ _).obst.resolve_left (by decide)

@[simp] theorem goTo_inp (a1 : DoorEnv) (a2 : DoorState) (a3 : Phase) (a4 : Option Cause) (w : Work) : (goTo a1 a2 a3 a4 w).dw.inp = w.dw.inp :=
  (goTo_wk (Inside.refl _) (WorkKeeps.refl _ w) _ _ _ _).inp.resolve_left (by decide)

@[simp] theorem goTo_obst (a1 : DoorEnv) (a2 : DoorState) (a3 : Phase) (a4 : Option Cause) (w : Work) : (goTo a1 a2 a3 a4 w).dw.obst = w.dw.obst :=
  (goTo_wk (Inside.refl _) (WorkKeeps.refl _ w) _ _ _ _).obst.resolve_left (by decide)

@[simp] theorem maintStops_inp (a1 : Nat) (a2 : Nat) (w : Work) : (maintStops a1 a2 w).dw.inp = w.dw.inp :=
  (maintStops_wk (Inside.refl _) (WorkKeeps.refl _ w) _ _).inp.resolve_left (by decide)

@[simp] theorem maintStops_door (a1 : Nat) (a2 : Nat) (w : Work) : (maintStops a1 a2 w).dw.door = w.dw.door :=
  (maintStops_wk (Inside.refl _) (WorkKeeps.refl _ w) _ _).door.resolve_left (by decide)

@[simp] theorem maintStops_step (a1 : Nat) (a2 : Nat) (w : Work) : (maintStops a1 a2 w).dw.step = w.dw.step :=
  (maintStops_wk (Inside.refl _) (WorkKeeps.refl _ w) _ _).step.resolve_left (by decide)

@[simp] theorem maintStops_cycle (a1 : Nat) (a2 : Nat) (w : Work) : (maintStops a1 a2 w).dw.cycle = w.dw.cycle :=
  (maintStops_wk (Inside.refl _) (WorkKeeps.refl _ w) _ _).cycle.resolve_left (by decide)

@[simp] theorem finishClosed_inp (a1 : DoorEnv) (w : Work) : (finishClosed a1 w).dw.inp = w.dw.inp :=
  (finishClosed_wk (Inside.refl _) (WorkKeeps.refl _ w) _).inp.resolve_left (by decide)

@[simp] theorem backFromUnlocking_inp (a1 : DoorEnv) (a2 : Option Cause) (w : Work) : (backFromUnlocking a1 a2 w).dw.inp = w.dw.inp :=
  (backFromUnlocking_wk (Inside.refl _) (WorkKeeps.refl _ w) _ _).inp.resolve_left (by decide)

@[simp] theorem enterLock_inp (a1 : DoorEnv) (w : Work) : (enterLock a1 w).dw.inp = w.dw.inp :=
  (enterLock_wk (Inside.refl _) (WorkKeeps.refl _ w) _).inp.resolve_left (by decide)

@[simp] theorem adaptStroke_sm (a1 : DoorEnv) (a2 : Bool) (w : Work) : (adaptStroke a1 a2 w).dw.sm = w.dw.sm :=
  (adaptStroke_wk (Inside.refl _) (WorkKeeps.refl _ w) _ _).sm.resolve_left (by decide)

@[simp] theorem adaptStroke_inp (a1 : DoorEnv) (a2 : Bool) (w : Work) : (adaptStroke a1 a2 w).dw.inp = w.dw.inp :=
  (adaptStroke_wk (Inside.refl _) (WorkKeeps.refl _ w) _ _).inp.resolve_left (by decide)

@[simp] theorem adaptStroke_door (a1 : DoorEnv) (a2 : Bool) (w : Work) : (adaptStroke a1 a2 w).dw.door = w.dw.door :=
  (adaptStroke_wk (Inside.refl _) (WorkKeeps.refl _ w) _ _).door.resolve_left (by decide)

@[simp] theorem adaptStroke_step (a1 : DoorEnv) (a2 : Bool) (w : Work) : (adaptStroke a1 a2 w).dw.step = w.dw.step :=
  (adaptStroke_wk (Inside.refl _) (WorkKeeps.refl _ w) _ _).step.resolve_left (by decide)

@[simp] theorem adaptStroke_cycle (a1 : DoorEnv) (a2 : Bool) (w : Work) : (adaptStroke a1 a2 w).dw.cycle = w.dw.cycle :=
  (adaptStroke_wk (Inside.refl _) (WorkKeeps.refl _ w) _ _).cycle.resolve_left (by decide)

@[simp] theorem closureMeasured_sm (a1 : DoorEnv) (w : Work) : (closureMeasured a1 w).dw.sm = w.dw.sm :=
  (closureMeasured_wk (Inside.refl _) (WorkKeeps.refl _ w) _).sm.resolve_left (by decide)

@[simp] theorem closureMeasured_inp (a1 : DoorEnv) (w : Work) : (closureMeasured a1 w).dw.inp = w.dw.inp :=
  (closureMeasured_wk (Inside.refl _) (WorkKeeps.refl _ w) _).inp.resolve_left (by decide)

@[simp] theorem closureMeasured_door (a1 : DoorEnv) (w : Work) : (closureMeasured a1 w).dw.door = w.dw.door :=
  (closureMeasured_wk (Inside.refl _) (WorkKeeps.refl _ w) _).door.resolve_left (by decide)

@[simp] theorem closureMeasured_step (a1 : DoorEnv) (w : Work) : (closureMeasured a1 w).dw.step = w.dw.step :=
  (closureMeasured_wk (Inside.refl _) (WorkKeeps.refl _ w) _).step.resolve_left (by decide)

@[simp] theorem strokeEnds_inp (a1 : DoorEnv) (w : Work) : (strokeEnds a1 w).dw.inp = w.dw.inp :=
  (strokeEnds_wk (Inside.refl _) (WorkKeeps.refl _ w) _).inp.resolve_left (by decide)

@[simp] theorem enterDwell_inp (a1 : DoorEnv) (w : Work) : (enterDwell a1 w).dw.inp = w.dw.inp :=
  (enterDwell_wk (Inside.refl _) (WorkKeeps.refl _ w) _).inp.resolve_left (by decide)

@[simp] theorem enterDwell_obst (a1 : DoorEnv) (w : Work) : (enterDwell a1 w).dw.obst = w.dw.obst :=
  (enterDwell_wk (Inside.refl _) (WorkKeeps.refl _ w) _).obst.resolve_left (by decide)

@[simp] theorem reopenMotion_inp (a1 : DoorEnv) (w : Work) : (reopenMotion a1 w).dw.inp = w.dw.inp :=
  (reopenMotion_wk (Inside.refl _) (WorkKeeps.refl _ w) _).inp.resolve_left (by decide)

@[simp] theorem afterReflexStop_inp (a1 : DoorEnv) (w : Work) : (afterReflexStop a1 w).dw.inp = w.dw.inp :=
  (afterReflexStop_wk (Inside.refl _) (WorkKeeps.refl _ w) _).inp.resolve_left (by decide)

@[simp] theorem reflexStopStart_inp (a1 : DoorEnv) (w : Work) : (reflexStopStart a1 w).dw.inp = w.dw.inp :=
  (reflexStopStart_wk (Inside.refl _) (WorkKeeps.refl _ w) _).inp.resolve_left (by decide)

@[simp] theorem tripClosing_inp (a1 : DoorEnv) (w : Work) : (tripClosing a1 w).dw.inp = w.dw.inp :=
  (tripClosing_wk (Inside.refl _) (WorkKeeps.refl _ w) _).inp.resolve_left (by decide)

@[simp] theorem raiseAgain_inp (a1 : DoorEnv) (a2 : Nat) (w : Work) : (raiseAgain a1 a2 w).dw.inp = w.dw.inp :=
  (raiseAgain_wk (Inside.refl _) (WorkKeeps.refl _ w) _ _).inp.resolve_left (by decide)

@[simp] theorem enterMove_inp (a1 : DoorEnv) (w : Work) : (enterMove a1 w).dw.inp = w.dw.inp :=
  (enterMove_wk (Inside.refl _) (WorkKeeps.refl _ w) _).inp.resolve_left (by decide)

@[simp] theorem enterWarn_inp (a1 : DoorEnv) (a2 : Option Cause) (a3 : Bool) (w : Work) : (enterWarn a1 a2 a3 w).dw.inp = w.dw.inp :=
  (enterWarn_wk (Inside.refl _) (WorkKeeps.refl _ w) _ _ _).inp.resolve_left (by decide)

@[simp] theorem enterUnlocking_inp (a1 : DoorEnv) (a2 : Cause) (w : Work) : (enterUnlocking a1 a2 w).dw.inp = w.dw.inp :=
  (enterUnlocking_wk (Inside.refl _) (WorkKeeps.refl _ w) _ _).inp.resolve_left (by decide)

@[simp] theorem enterUnlocking_obst (a1 : DoorEnv) (a2 : Cause) (w : Work) : (enterUnlocking a1 a2 w).dw.obst = w.dw.obst :=
  (enterUnlocking_wk (Inside.refl _) (WorkKeeps.refl _ w) _ _).obst.resolve_left (by decide)

@[simp] theorem enterOpening_inp (a1 : DoorEnv) (a2 : Option Cause) (w : Work) : (enterOpening a1 a2 w).dw.inp = w.dw.inp :=
  (enterOpening_wk (Inside.refl _) (WorkKeeps.refl _ w) _ _).inp.resolve_left (by decide)

@[simp] theorem tryOpened_inp (a1 : DoorEnv) (w : Work) : (tryOpened a1 w).dw.inp = w.dw.inp :=
  (tryOpened_wk (Inside.refl _) (WorkKeeps.refl _ w) _).inp.resolve_left (by decide)

@[simp] theorem stopDrives_sm (a1 : DoorEnv) (a2 : Bool) (w : Work) : (stopDrives a1 a2 w).dw.sm = w.dw.sm :=
  (stopDrives_wk (Inside.refl _) (WorkKeeps.refl _ w) _ _).sm.resolve_left (by decide)

@[simp] theorem stopDrives_inp (a1 : DoorEnv) (a2 : Bool) (w : Work) : (stopDrives a1 a2 w).dw.inp = w.dw.inp :=
  (stopDrives_wk (Inside.refl _) (WorkKeeps.refl _ w) _ _).inp.resolve_left (by decide)

@[simp] theorem stopDrives_obst (a1 : DoorEnv) (a2 : Bool) (w : Work) : (stopDrives a1 a2 w).dw.obst = w.dw.obst :=
  (stopDrives_wk (Inside.refl _) (WorkKeeps.refl _ w) _ _).obst.resolve_left (by decide)

@[simp] theorem stopDrives_cycle (a1 : DoorEnv) (a2 : Bool) (w : Work) : (stopDrives a1 a2 w).dw.cycle = w.dw.cycle :=
  (stopDrives_wk (Inside.refl _) (WorkKeeps.refl _ w) _ _).cycle.resolve_left (by decide)

@[simp] theorem doStop_inp (a1 : DoorEnv) (a2 : Cause) (a3 : Bool) (w : Work) : (doStop a1 a2 a3 w).dw.inp = w.dw.inp :=
  (doStop_wk (Inside.refl _) (WorkKeeps.refl _ w) _ _ _).inp.resolve_left (by decide)

@[simp] theorem doResume_inp (a1 : DoorEnv) (w : Work) : (doResume a1 w).dw.inp = w.dw.inp :=
  (doResume_wk (Inside.refl _) (WorkKeeps.refl _ w) _).inp.resolve_left (by decide)

@[simp] theorem ignoreOpen_inp (w : Work) : (ignoreOpen w).dw.inp = w.dw.inp :=
  (ignoreOpen_wk (Inside.refl _) (WorkKeeps.refl _ w)).inp.resolve_left (by decide)

@[simp] theorem ignoreOpen_door (w : Work) : (ignoreOpen w).dw.door = w.dw.door :=
  (ignoreOpen_wk (Inside.refl _) (WorkKeeps.refl _ w)).door.resolve_left (by decide)

@[simp] theorem ignoreOpen_step (w : Work) : (ignoreOpen w).dw.step = w.dw.step :=
  (ignoreOpen_wk (Inside.refl _) (WorkKeeps.refl _ w)).step.resolve_left (by decide)

@[simp] theorem ignoreOpen_obst (w : Work) : (ignoreOpen w).dw.obst = w.dw.obst :=
  (ignoreOpen_wk (Inside.refl _) (WorkKeeps.refl _ w)).obst.resolve_left (by decide)

@[simp] theorem ignoreOpen_cycle (w : Work) : (ignoreOpen w).dw.cycle = w.dw.cycle :=
  (ignoreOpen_wk (Inside.refl _) (WorkKeeps.refl _ w)).cycle.resolve_left (by decide)

@[simp] theorem ignoreButton_inp (w : Work) : (ignoreButton w).dw.inp = w.dw.inp :=
  (ignoreButton_wk (Inside.refl _) (WorkKeeps.refl _ w)).inp.resolve_left (by decide)

@[simp] theorem ignoreButton_door (w : Work) : (ignoreButton w).dw.door = w.dw.door :=
  (ignoreButton_wk (Inside.refl _) (WorkKeeps.refl _ w)).door.resolve_left (by decide)

@[simp] theorem ignoreButton_step (w : Work) : (ignoreButton w).dw.step = w.dw.step :=
  (ignoreButton_wk (Inside.refl _) (WorkKeeps.refl _ w)).step.resolve_left (by decide)

@[simp] theorem ignoreButton_obst (w : Work) : (ignoreButton w).dw.obst = w.dw.obst :=
  (ignoreButton_wk (Inside.refl _) (WorkKeeps.refl _ w)).obst.resolve_left (by decide)

@[simp] theorem ignoreButton_cycle (w : Work) : (ignoreButton w).dw.cycle = w.dw.cycle :=
  (ignoreButton_wk (Inside.refl _) (WorkKeeps.refl _ w)).cycle.resolve_left (by decide)

@[simp] theorem doOpen_inp (a1 : DoorEnv) (a2 : Cause) (w : Work) : (doOpen a1 a2 w).dw.inp = w.dw.inp :=
  (doOpen_wk (Inside.refl _) (WorkKeeps.refl _ w) _ _).inp.resolve_left (by decide)

@[simp] theorem doLocalClose_inp (a1 : DoorEnv) (a2 : Cause) (w : Work) : (doLocalClose a1 a2 w).dw.inp = w.dw.inp :=
  (doLocalClose_wk (Inside.refl _) (WorkKeeps.refl _ w) _ _).inp.resolve_left (by decide)

@[simp] theorem doTrainlineClose_inp (a1 : DoorEnv) (w : Work) : (doTrainlineClose a1 w).dw.inp = w.dw.inp :=
  (doTrainlineClose_wk (Inside.refl _) (WorkKeeps.refl _ w) _).inp.resolve_left (by decide)

@[simp] theorem drivesOff_sm (a1 : DoorEnv) (w : Work) : (drivesOff a1 w).dw.sm = w.dw.sm :=
  (drivesOff_wk (Inside.refl _) (WorkKeeps.refl _ w) _).sm.resolve_left (by decide)

@[simp] theorem drivesOff_inp (a1 : DoorEnv) (w : Work) : (drivesOff a1 w).dw.inp = w.dw.inp :=
  (drivesOff_wk (Inside.refl _) (WorkKeeps.refl _ w) _).inp.resolve_left (by decide)

@[simp] theorem drivesOff_cycle (a1 : DoorEnv) (w : Work) : (drivesOff a1 w).dw.cycle = w.dw.cycle :=
  (drivesOff_wk (Inside.refl _) (WorkKeeps.refl _ w) _).cycle.resolve_left (by decide)

@[simp] theorem enterFault_inp (a1 : DoorEnv) (a2 : Cause) (w : Work) : (enterFault a1 a2 w).dw.inp = w.dw.inp :=
  (enterFault_wk (Inside.refl _) (WorkKeeps.refl _ w) _ _).inp.resolve_left (by decide)

@[simp] theorem enterEgress_inp (a1 : DoorEnv) (w : Work) : (enterEgress a1 w).dw.inp = w.dw.inp :=
  (enterEgress_wk (Inside.refl _) (WorkKeeps.refl _ w) _).inp.resolve_left (by decide)

@[simp] theorem enterIsolated_inp (a1 : DoorEnv) (a2 : Cause) (w : Work) : (enterIsolated a1 a2 w).dw.inp = w.dw.inp :=
  (enterIsolated_wk (Inside.refl _) (WorkKeeps.refl _ w) _ _).inp.resolve_left (by decide)

@[simp] theorem settle_inp (a1 : DoorEnv) (w : Work) : (settle a1 w).dw.inp = w.dw.inp :=
  (settle_wk (Inside.refl _) (WorkKeeps.refl _ w) _).inp.resolve_left (by decide)

@[simp] theorem keepFromReflex_sm (a1 : DoorEnv) (w : Work) : (keepFromReflex a1 w).dw.sm = w.dw.sm :=
  (keepFromReflex_wk (Inside.refl _) (WorkKeeps.refl _ w) _).sm.resolve_left (by decide)

@[simp] theorem keepFromReflex_inp (a1 : DoorEnv) (w : Work) : (keepFromReflex a1 w).dw.inp = w.dw.inp :=
  (keepFromReflex_wk (Inside.refl _) (WorkKeeps.refl _ w) _).inp.resolve_left (by decide)

@[simp] theorem keepFromReflex_step (a1 : DoorEnv) (w : Work) : (keepFromReflex a1 w).dw.step = w.dw.step :=
  (keepFromReflex_wk (Inside.refl _) (WorkKeeps.refl _ w) _).step.resolve_left (by decide)

@[simp] theorem keepFromReflex_obst (a1 : DoorEnv) (w : Work) : (keepFromReflex a1 w).dw.obst = w.dw.obst :=
  (keepFromReflex_wk (Inside.refl _) (WorkKeeps.refl _ w) _).obst.resolve_left (by decide)

@[simp] theorem keepFromReflex_cycle (a1 : DoorEnv) (w : Work) : (keepFromReflex a1 w).dw.cycle = w.dw.cycle :=
  (keepFromReflex_wk (Inside.refl _) (WorkKeeps.refl _ w) _).cycle.resolve_left (by decide)

@[simp] theorem takeTrip_inp (a1 : DoorEnv) (a2 : Trip) (w : Work) : (takeTrip a1 a2 w).dw.inp = w.dw.inp :=
  (takeTrip_wk (Inside.refl _) (WorkKeeps.refl _ w) _ _).inp.resolve_left (by decide)

@[simp] theorem releaseLatch_sm (a1 : DoorEnv) (w : Work) : (releaseLatch a1 w).dw.sm = w.dw.sm :=
  (releaseLatch_wk (Inside.refl _) (WorkKeeps.refl _ w) _).sm.resolve_left (by decide)

@[simp] theorem releaseLatch_inp (a1 : DoorEnv) (w : Work) : (releaseLatch a1 w).dw.inp = w.dw.inp :=
  (releaseLatch_wk (Inside.refl _) (WorkKeeps.refl _ w) _).inp.resolve_left (by decide)

@[simp] theorem releaseLatch_obst (a1 : DoorEnv) (w : Work) : (releaseLatch a1 w).dw.obst = w.dw.obst :=
  (releaseLatch_wk (Inside.refl _) (WorkKeeps.refl _ w) _).obst.resolve_left (by decide)

@[simp] theorem releaseLatch_cycle (a1 : DoorEnv) (w : Work) : (releaseLatch a1 w).dw.cycle = w.dw.cycle :=
  (releaseLatch_wk (Inside.refl _) (WorkKeeps.refl _ w) _).cycle.resolve_left (by decide)

@[simp] theorem maintUnlock_inp (a1 : DoorEnv) (w : Work) : (maintUnlock a1 w).dw.inp = w.dw.inp :=
  (maintUnlock_wk (Inside.refl _) (WorkKeeps.refl _ w) _).inp.resolve_left (by decide)

@[simp] theorem maintUnlock_obst (a1 : DoorEnv) (w : Work) : (maintUnlock a1 w).dw.obst = w.dw.obst :=
  (maintUnlock_wk (Inside.refl _) (WorkKeeps.refl _ w) _).obst.resolve_left (by decide)

@[simp] theorem maintWindUp_inp (a1 : DoorEnv) (w : Work) : (maintWindUp a1 w).dw.inp = w.dw.inp :=
  (maintWindUp_wk (Inside.refl _) (WorkKeeps.refl _ w) _).inp.resolve_left (by decide)

@[simp] theorem maintClose_inp (a1 : DoorEnv) (w : Work) : (maintClose a1 w).dw.inp = w.dw.inp :=
  (maintClose_wk (Inside.refl _) (WorkKeeps.refl _ w) _).inp.resolve_left (by decide)

@[simp] theorem maintAbort_inp (a1 : DoorEnv) (w : Work) : (maintAbort a1 w).dw.inp = w.dw.inp :=
  (maintAbort_wk (Inside.refl _) (WorkKeeps.refl _ w) _).inp.resolve_left (by decide)

@[simp] theorem maintCycleEnds_inp (a1 : DoorEnv) (a2 : Bool) (w : Work) : (maintCycleEnds a1 a2 w).dw.inp = w.dw.inp :=
  (maintCycleEnds_wk (Inside.refl _) (WorkKeeps.refl _ w) _ _).inp.resolve_left (by decide)

@[simp] theorem maintCycleEnds_obst (a1 : DoorEnv) (a2 : Bool) (w : Work) : (maintCycleEnds a1 a2 w).dw.obst = w.dw.obst :=
  (maintCycleEnds_wk (Inside.refl _) (WorkKeeps.refl _ w) _ _).obst.resolve_left (by decide)

@[simp] theorem seeLevels_inp (a1 : DoorEnv) (w : Work) : (seeLevels a1 w).dw.inp = w.dw.inp :=
  (seeLevels_wk (Inside.refl _) (WorkKeeps.refl _ w) _).inp.resolve_left (by decide)

@[simp] theorem seeLevels_door (a1 : DoorEnv) (w : Work) : (seeLevels a1 w).dw.door = w.dw.door :=
  (seeLevels_wk (Inside.refl _) (WorkKeeps.refl _ w) _).door.resolve_left (by decide)

@[simp] theorem seeLevels_step (a1 : DoorEnv) (w : Work) : (seeLevels a1 w).dw.step = w.dw.step :=
  (seeLevels_wk (Inside.refl _) (WorkKeeps.refl _ w) _).step.resolve_left (by decide)

@[simp] theorem seeLevels_obst (a1 : DoorEnv) (w : Work) : (seeLevels a1 w).dw.obst = w.dw.obst :=
  (seeLevels_wk (Inside.refl _) (WorkKeeps.refl _ w) _).obst.resolve_left (by decide)

@[simp] theorem seeLevels_cycle (a1 : DoorEnv) (w : Work) : (seeLevels a1 w).dw.cycle = w.dw.cycle :=
  (seeLevels_wk (Inside.refl _) (WorkKeeps.refl _ w) _).cycle.resolve_left (by decide)

@[simp] theorem takeEdges_inp (a1 : DoorEnv) (w : Work) : (takeEdges a1 w).dw.inp = w.dw.inp :=
  (takeEdges_wk (Inside.refl _) (WorkKeeps.refl _ w) _).inp.resolve_left (by decide)

@[simp] theorem dropEdges_inp (w : Work) : (dropEdges w).dw.inp = w.dw.inp :=
  (dropEdges_wk (Inside.refl _) (WorkKeeps.refl _ w)).inp.resolve_left (by decide)

@[simp] theorem dropEdges_door (w : Work) : (dropEdges w).dw.door = w.dw.door :=
  (dropEdges_wk (Inside.refl _) (WorkKeeps.refl _ w)).door.resolve_left (by decide)

@[simp] theorem dropEdges_step (w : Work) : (dropEdges w).dw.step = w.dw.step :=
  (dropEdges_wk (Inside.refl _) (WorkKeeps.refl _ w)).step.resolve_left (by decide)

@[simp] theorem dropEdges_obst (w : Work) : (dropEdges w).dw.obst = w.dw.obst :=
  (dropEdges_wk (Inside.refl _) (WorkKeeps.refl _ w)).obst.resolve_left (by decide)

@[simp] theorem dropEdges_cycle (w : Work) : (dropEdges w).dw.cycle = w.dw.cycle :=
  (dropEdges_wk (Inside.refl _) (WorkKeeps.refl _ w)).cycle.resolve_left (by decide)

@[simp] theorem discardEdges_inp (w : Work) : (discardEdges w).dw.inp = w.dw.inp :=
  (discardEdges_wk (Inside.refl _) (WorkKeeps.refl _ w)).inp.resolve_left (by decide)

@[simp] theorem discardEdges_door (w : Work) : (discardEdges w).dw.door = w.dw.door :=
  (discardEdges_wk (Inside.refl _) (WorkKeeps.refl _ w)).door.resolve_left (by decide)

@[simp] theorem discardEdges_step (w : Work) : (discardEdges w).dw.step = w.dw.step :=
  (discardEdges_wk (Inside.refl _) (WorkKeeps.refl _ w)).step.resolve_left (by decide)

@[simp] theorem discardEdges_obst (w : Work) : (discardEdges w).dw.obst = w.dw.obst :=
  (discardEdges_wk (Inside.refl _) (WorkKeeps.refl _ w)).obst.resolve_left (by decide)

@[simp] theorem discardEdges_cycle (w : Work) : (discardEdges w).dw.cycle = w.dw.cycle :=
  (discardEdges_wk (Inside.refl _) (WorkKeeps.refl _ w)).cycle.resolve_left (by decide)

@[simp] theorem levelRows_inp (a1 : DoorEnv) (w : Work) : (levelRows a1 w).dw.inp = w.dw.inp :=
  (levelRows_wk (Inside.refl _) (WorkKeeps.refl _ w) _).inp.resolve_left (by decide)

@[simp] theorem lockTiming_sm (a1 : DoorEnv) (w : Work) : (lockTiming a1 w).dw.sm = w.dw.sm :=
  (lockTiming_wk (Inside.refl _) (WorkKeeps.refl _ w) _).sm.resolve_left (by decide)

@[simp] theorem lockTiming_inp (a1 : DoorEnv) (w : Work) : (lockTiming a1 w).dw.inp = w.dw.inp :=
  (lockTiming_wk (Inside.refl _) (WorkKeeps.refl _ w) _).inp.resolve_left (by decide)

@[simp] theorem lockTiming_step (a1 : DoorEnv) (w : Work) : (lockTiming a1 w).dw.step = w.dw.step :=
  (lockTiming_wk (Inside.refl _) (WorkKeeps.refl _ w) _).step.resolve_left (by decide)

@[simp] theorem lockTiming_obst (a1 : DoorEnv) (w : Work) : (lockTiming a1 w).dw.obst = w.dw.obst :=
  (lockTiming_wk (Inside.refl _) (WorkKeeps.refl _ w) _).obst.resolve_left (by decide)

@[simp] theorem lockTiming_cycle (a1 : DoorEnv) (w : Work) : (lockTiming a1 w).dw.cycle = w.dw.cycle :=
  (lockTiming_wk (Inside.refl _) (WorkKeeps.refl _ w) _).cycle.resolve_left (by decide)

@[simp] theorem permitCheck_sm (a1 : DoorEnv) (w : Work) : (permitCheck a1 w).dw.sm = w.dw.sm :=
  (permitCheck_wk (Inside.refl _) (WorkKeeps.refl _ w) _).sm.resolve_left (by decide)

@[simp] theorem permitCheck_inp (a1 : DoorEnv) (w : Work) : (permitCheck a1 w).dw.inp = w.dw.inp :=
  (permitCheck_wk (Inside.refl _) (WorkKeeps.refl _ w) _).inp.resolve_left (by decide)

@[simp] theorem permitCheck_door (a1 : DoorEnv) (w : Work) : (permitCheck a1 w).dw.door = w.dw.door :=
  (permitCheck_wk (Inside.refl _) (WorkKeeps.refl _ w) _).door.resolve_left (by decide)

@[simp] theorem permitCheck_obst (a1 : DoorEnv) (w : Work) : (permitCheck a1 w).dw.obst = w.dw.obst :=
  (permitCheck_wk (Inside.refl _) (WorkKeeps.refl _ w) _).obst.resolve_left (by decide)

@[simp] theorem permitCheck_cycle (a1 : DoorEnv) (w : Work) : (permitCheck a1 w).dw.cycle = w.dw.cycle :=
  (permitCheck_wk (Inside.refl _) (WorkKeeps.refl _ w) _).cycle.resolve_left (by decide)

@[simp] theorem solenoidCheck_inp (a1 : DoorEnv) (w : Work) : (solenoidCheck a1 w).dw.inp = w.dw.inp :=
  (solenoidCheck_wk (Inside.refl _) (WorkKeeps.refl _ w) _).inp.resolve_left (by decide)

@[simp] theorem solenoidCheck_door (a1 : DoorEnv) (w : Work) : (solenoidCheck a1 w).dw.door = w.dw.door :=
  (solenoidCheck_wk (Inside.refl _) (WorkKeeps.refl _ w) _).door.resolve_left (by decide)

@[simp] theorem solenoidCheck_step (a1 : DoorEnv) (w : Work) : (solenoidCheck a1 w).dw.step = w.dw.step :=
  (solenoidCheck_wk (Inside.refl _) (WorkKeeps.refl _ w) _).step.resolve_left (by decide)

@[simp] theorem solenoidCheck_obst (a1 : DoorEnv) (w : Work) : (solenoidCheck a1 w).dw.obst = w.dw.obst :=
  (solenoidCheck_wk (Inside.refl _) (WorkKeeps.refl _ w) _).obst.resolve_left (by decide)

@[simp] theorem solenoidCheck_cycle (a1 : DoorEnv) (w : Work) : (solenoidCheck a1 w).dw.cycle = w.dw.cycle :=
  (solenoidCheck_wk (Inside.refl _) (WorkKeeps.refl _ w) _).cycle.resolve_left (by decide)

@[simp] theorem clearGone_inp (a1 : DoorEnv) (w : Work) : (clearGone a1 w).dw.inp = w.dw.inp :=
  (clearGone_wk (Inside.refl _) (WorkKeeps.refl _ w) _).inp.resolve_left (by decide)

@[simp] theorem clearGone_door (a1 : DoorEnv) (w : Work) : (clearGone a1 w).dw.door = w.dw.door :=
  (clearGone_wk (Inside.refl _) (WorkKeeps.refl _ w) _).door.resolve_left (by decide)

@[simp] theorem clearGone_obst (a1 : DoorEnv) (w : Work) : (clearGone a1 w).dw.obst = w.dw.obst :=
  (clearGone_wk (Inside.refl _) (WorkKeeps.refl _ w) _).obst.resolve_left (by decide)

@[simp] theorem clearGone_cycle (a1 : DoorEnv) (w : Work) : (clearGone a1 w).dw.cycle = w.dw.cycle :=
  (clearGone_wk (Inside.refl _) (WorkKeeps.refl _ w) _).cycle.resolve_left (by decide)

@[simp] theorem referencesStart_sm (a1 : DoorEnv) (w : Work) : (referencesStart a1 w).dw.sm = w.dw.sm :=
  (referencesStart_wk (Inside.refl _) (WorkKeeps.refl _ w) _).sm.resolve_left (by decide)

@[simp] theorem referencesStart_inp (a1 : DoorEnv) (w : Work) : (referencesStart a1 w).dw.inp = w.dw.inp :=
  (referencesStart_wk (Inside.refl _) (WorkKeeps.refl _ w) _).inp.resolve_left (by decide)

@[simp] theorem referencesStart_obst (a1 : DoorEnv) (w : Work) : (referencesStart a1 w).dw.obst = w.dw.obst :=
  (referencesStart_wk (Inside.refl _) (WorkKeeps.refl _ w) _).obst.resolve_left (by decide)

@[simp] theorem referencesStart_cycle (a1 : DoorEnv) (w : Work) : (referencesStart a1 w).dw.cycle = w.dw.cycle :=
  (referencesStart_wk (Inside.refl _) (WorkKeeps.refl _ w) _).cycle.resolve_left (by decide)

@[simp] theorem doorStart_inp (a1 : DoorEnv) (w : Work) : (doorStart a1 w).dw.inp = w.dw.inp :=
  (doorStart_wk (Inside.refl _) (WorkKeeps.refl _ w) _).inp.resolve_left (by decide)

@[simp] theorem doorTick_inp (a1 : DoorEnv) (w : Work) : (doorTick a1 w).dw.inp = w.dw.inp :=
  (doorTick_wk (Inside.refl _) (WorkKeeps.refl _ w) _).inp.resolve_left (by decide)

@[simp] theorem learnCommits_sm (a1 : DoorEnv) (w : Work) : (learnCommits a1 w).1.dw.sm = w.dw.sm :=
  (learnCommits_wk (Inside.refl _) (WorkKeeps.refl _ w) _).sm.resolve_left (by decide)

@[simp] theorem learnCommits_inp (a1 : DoorEnv) (w : Work) : (learnCommits a1 w).1.dw.inp = w.dw.inp :=
  (learnCommits_wk (Inside.refl _) (WorkKeeps.refl _ w) _).inp.resolve_left (by decide)

@[simp] theorem learnCommits_door (a1 : DoorEnv) (w : Work) : (learnCommits a1 w).1.dw.door = w.dw.door :=
  (learnCommits_wk (Inside.refl _) (WorkKeeps.refl _ w) _).door.resolve_left (by decide)

@[simp] theorem learnCommits_step (a1 : DoorEnv) (w : Work) : (learnCommits a1 w).1.dw.step = w.dw.step :=
  (learnCommits_wk (Inside.refl _) (WorkKeeps.refl _ w) _).step.resolve_left (by decide)

@[simp] theorem learnCommits_cycle (a1 : DoorEnv) (w : Work) : (learnCommits a1 w).1.dw.cycle = w.dw.cycle :=
  (learnCommits_wk (Inside.refl _) (WorkKeeps.refl _ w) _).cycle.resolve_left (by decide)

@[simp] theorem indexCompare_sm (a1 : DoorEnv) (a2 : Bool) (w : Work) : (indexCompare a1 a2 w).dw.sm = w.dw.sm :=
  (indexCompare_wk (Inside.refl _) (WorkKeeps.refl _ w) _ _).sm.resolve_left (by decide)

@[simp] theorem indexCompare_inp (a1 : DoorEnv) (a2 : Bool) (w : Work) : (indexCompare a1 a2 w).dw.inp = w.dw.inp :=
  (indexCompare_wk (Inside.refl _) (WorkKeeps.refl _ w) _ _).inp.resolve_left (by decide)

@[simp] theorem indexCompare_step (a1 : DoorEnv) (a2 : Bool) (w : Work) : (indexCompare a1 a2 w).dw.step = w.dw.step :=
  (indexCompare_wk (Inside.refl _) (WorkKeeps.refl _ w) _ _).step.resolve_left (by decide)

@[simp] theorem rawChange_sm (a1 : DoorEnv) (a2 : Nat) (a3 : Bool) (w : Work) : (rawChange a1 a2 a3 w).dw.sm = w.dw.sm :=
  (rawChange_wk (Inside.refl _) (WorkKeeps.refl _ w) _ _ _).sm.resolve_left (by decide)

@[simp] theorem rawChange_obst (a1 : DoorEnv) (a2 : Nat) (a3 : Bool) (w : Work) : (rawChange a1 a2 a3 w).dw.obst = w.dw.obst :=
  (rawChange_wk (Inside.refl _) (WorkKeeps.refl _ w) _ _ _).obst.resolve_left (by decide)

@[simp] theorem onDcsImplausible_inp (a1 : DoorEnv) (w : Work) : (onDcsImplausible a1 w).dw.inp = w.dw.inp :=
  (onDcsImplausible_wk (Inside.refl _) (WorkKeeps.refl _ w) _).inp.resolve_left (by decide)

@[simp] theorem onInputCauseGone_inp (a1 : DoorEnv) (w : Work) : (onInputCauseGone a1 w).dw.inp = w.dw.inp :=
  (onInputCauseGone_wk (Inside.refl _) (WorkKeeps.refl _ w) _).inp.resolve_left (by decide)

@[simp] theorem onUnlockTimeout_inp (a1 : DoorEnv) (w : Work) : (onUnlockTimeout a1 w).dw.inp = w.dw.inp :=
  (onUnlockTimeout_wk (Inside.refl _) (WorkKeeps.refl _ w) _).inp.resolve_left (by decide)

@[simp] theorem onGraceEnd_inp (w : Work) : (onGraceEnd w).dw.inp = w.dw.inp :=
  (onGraceEnd_wk (Inside.refl _) (WorkKeeps.refl _ w)).inp.resolve_left (by decide)

@[simp] theorem onGraceEnd_door (w : Work) : (onGraceEnd w).dw.door = w.dw.door :=
  (onGraceEnd_wk (Inside.refl _) (WorkKeeps.refl _ w)).door.resolve_left (by decide)

@[simp] theorem onGraceEnd_step (w : Work) : (onGraceEnd w).dw.step = w.dw.step :=
  (onGraceEnd_wk (Inside.refl _) (WorkKeeps.refl _ w)).step.resolve_left (by decide)

@[simp] theorem onGraceEnd_obst (w : Work) : (onGraceEnd w).dw.obst = w.dw.obst :=
  (onGraceEnd_wk (Inside.refl _) (WorkKeeps.refl _ w)).obst.resolve_left (by decide)

@[simp] theorem onGraceEnd_cycle (w : Work) : (onGraceEnd w).dw.cycle = w.dw.cycle :=
  (onGraceEnd_wk (Inside.refl _) (WorkKeeps.refl _ w)).cycle.resolve_left (by decide)

@[simp] theorem onWarnEnd_inp (a1 : DoorEnv) (w : Work) : (onWarnEnd a1 w).dw.inp = w.dw.inp :=
  (onWarnEnd_wk (Inside.refl _) (WorkKeeps.refl _ w) _).inp.resolve_left (by decide)

@[simp] theorem onDwellEnd_inp (a1 : DoorEnv) (w : Work) : (onDwellEnd a1 w).dw.inp = w.dw.inp :=
  (onDwellEnd_wk (Inside.refl _) (WorkKeeps.refl _ w) _).inp.resolve_left (by decide)

@[simp] theorem onLockAttemptEnd_inp (a1 : DoorEnv) (w : Work) : (onLockAttemptEnd a1 w).dw.inp = w.dw.inp :=
  (onLockAttemptEnd_wk (Inside.refl _) (WorkKeeps.refl _ w) _).inp.resolve_left (by decide)

@[simp] theorem onReopenDwellEnd_inp (a1 : DoorEnv) (w : Work) : (onReopenDwellEnd a1 w).dw.inp = w.dw.inp :=
  (onReopenDwellEnd_wk (Inside.refl _) (WorkKeeps.refl _ w) _).inp.resolve_left (by decide)

@[simp] theorem onMaintHoldEnd_inp (a1 : DoorEnv) (w : Work) : (onMaintHoldEnd a1 w).dw.inp = w.dw.inp :=
  (onMaintHoldEnd_wk (Inside.refl _) (WorkKeeps.refl _ w) _).inp.resolve_left (by decide)

@[simp] theorem doorPathEnds_inp (a1 : DoorEnv) (w : Work) : (doorPathEnds a1 w).dw.inp = w.dw.inp :=
  (doorPathEnds_wk (Inside.refl _) (WorkKeeps.refl _ w) _).inp.resolve_left (by decide)

@[simp] theorem homingEnds_inp (a1 : DoorEnv) (w : Work) : (homingEnds a1 w).dw.inp = w.dw.inp :=
  (homingEnds_wk (Inside.refl _) (WorkKeeps.refl _ w) _).inp.resolve_left (by decide)

@[simp] theorem afterStep_inp (a1 : DoorEnv) (w : Work) : (afterStep a1 w).dw.inp = w.dw.inp :=
  (afterStep_wk (Inside.refl _) (WorkKeeps.refl _ w) _).inp.resolve_left (by decide)

@[simp] theorem onStepPathEnds_inp (a1 : DoorEnv) (w : Work) : (onStepPathEnds a1 w).dw.inp = w.dw.inp :=
  (onStepPathEnds_wk (Inside.refl _) (WorkKeeps.refl _ w) _).inp.resolve_left (by decide)

@[simp] theorem onSegmentEnd_sm (w : Work) : (onSegmentEnd w).dw.sm = w.dw.sm :=
  (onSegmentEnd_wk (Inside.refl _) (WorkKeeps.refl _ w)).sm.resolve_left (by decide)

@[simp] theorem onSegmentEnd_inp (w : Work) : (onSegmentEnd w).dw.inp = w.dw.inp :=
  (onSegmentEnd_wk (Inside.refl _) (WorkKeeps.refl _ w)).inp.resolve_left (by decide)

@[simp] theorem onSegmentEnd_door (w : Work) : (onSegmentEnd w).dw.door = w.dw.door :=
  (onSegmentEnd_wk (Inside.refl _) (WorkKeeps.refl _ w)).door.resolve_left (by decide)

@[simp] theorem onSegmentEnd_step (w : Work) : (onSegmentEnd w).dw.step = w.dw.step :=
  (onSegmentEnd_wk (Inside.refl _) (WorkKeeps.refl _ w)).step.resolve_left (by decide)

@[simp] theorem onSegmentEnd_obst (w : Work) : (onSegmentEnd w).dw.obst = w.dw.obst :=
  (onSegmentEnd_wk (Inside.refl _) (WorkKeeps.refl _ w)).obst.resolve_left (by decide)

@[simp] theorem onDoorStopped_inp (a1 : DoorEnv) (w : Work) : (onDoorStopped a1 w).dw.inp = w.dw.inp :=
  (onDoorStopped_wk (Inside.refl _) (WorkKeeps.refl _ w) _).inp.resolve_left (by decide)

@[simp] theorem onStepStopped_sm (w : Work) : (onStepStopped w).dw.sm = w.dw.sm :=
  (onStepStopped_wk (Inside.refl _) (WorkKeeps.refl _ w)).sm.resolve_left (by decide)

@[simp] theorem onStepStopped_inp (w : Work) : (onStepStopped w).dw.inp = w.dw.inp :=
  (onStepStopped_wk (Inside.refl _) (WorkKeeps.refl _ w)).inp.resolve_left (by decide)

@[simp] theorem onStepStopped_door (w : Work) : (onStepStopped w).dw.door = w.dw.door :=
  (onStepStopped_wk (Inside.refl _) (WorkKeeps.refl _ w)).door.resolve_left (by decide)

@[simp] theorem onStepStopped_obst (w : Work) : (onStepStopped w).dw.obst = w.dw.obst :=
  (onStepStopped_wk (Inside.refl _) (WorkKeeps.refl _ w)).obst.resolve_left (by decide)

@[simp] theorem onStepStopped_cycle (w : Work) : (onStepStopped w).dw.cycle = w.dw.cycle :=
  (onStepStopped_wk (Inside.refl _) (WorkKeeps.refl _ w)).cycle.resolve_left (by decide)

@[simp] theorem interruptionStop_inp (a1 : DoorEnv) (w : Work) : (interruptionStop a1 w).dw.inp = w.dw.inp :=
  (interruptionStop_wk (Inside.refl _) (WorkKeeps.refl _ w) _).inp.resolve_left (by decide)

@[simp] theorem onInterruption_inp (a1 : DoorEnv) (a2 : Bool) (a3 : Interruption) (w : Work) : (onInterruption a1 a2 a3 w).dw.inp = w.dw.inp :=
  (onInterruption_wk (Inside.refl _) (WorkKeeps.refl _ w) _ _ _).inp.resolve_left (by decide)

@[simp] theorem stepRegains_sm (a1 : DoorEnv) (w : Work) : (stepRegains a1 w).dw.sm = w.dw.sm :=
  (stepRegains_wk (Inside.refl _) (WorkKeeps.refl _ w) _).sm.resolve_left (by decide)

@[simp] theorem stepRegains_inp (a1 : DoorEnv) (w : Work) : (stepRegains a1 w).dw.inp = w.dw.inp :=
  (stepRegains_wk (Inside.refl _) (WorkKeeps.refl _ w) _).inp.resolve_left (by decide)

@[simp] theorem stepRegains_door (a1 : DoorEnv) (w : Work) : (stepRegains a1 w).dw.door = w.dw.door :=
  (stepRegains_wk (Inside.refl _) (WorkKeeps.refl _ w) _).door.resolve_left (by decide)

@[simp] theorem stepRegains_obst (a1 : DoorEnv) (w : Work) : (stepRegains a1 w).dw.obst = w.dw.obst :=
  (stepRegains_wk (Inside.refl _) (WorkKeeps.refl _ w) _).obst.resolve_left (by decide)

@[simp] theorem stepRegains_cycle (a1 : DoorEnv) (w : Work) : (stepRegains a1 w).dw.cycle = w.dw.cycle :=
  (stepRegains_wk (Inside.refl _) (WorkKeeps.refl _ w) _).cycle.resolve_left (by decide)

@[simp] theorem onInterruptionEnd_sm (a1 : DoorEnv) (a2 : Bool) (a3 : Interruption) (w : Work) : (onInterruptionEnd a1 a2 a3 w).dw.sm = w.dw.sm :=
  (onInterruptionEnd_wk (Inside.refl _) (WorkKeeps.refl _ w) _ _ _).sm.resolve_left (by decide)

@[simp] theorem onInterruptionEnd_inp (a1 : DoorEnv) (a2 : Bool) (a3 : Interruption) (w : Work) : (onInterruptionEnd a1 a2 a3 w).dw.inp = w.dw.inp :=
  (onInterruptionEnd_wk (Inside.refl _) (WorkKeeps.refl _ w) _ _ _).inp.resolve_left (by decide)

@[simp] theorem onInterruptionEnd_obst (a1 : DoorEnv) (a2 : Bool) (a3 : Interruption) (w : Work) : (onInterruptionEnd a1 a2 a3 w).dw.obst = w.dw.obst :=
  (onInterruptionEnd_wk (Inside.refl _) (WorkKeeps.refl _ w) _ _ _).obst.resolve_left (by decide)

@[simp] theorem onInterruptionEnd_cycle (a1 : DoorEnv) (a2 : Bool) (a3 : Interruption) (w : Work) : (onInterruptionEnd a1 a2 a3 w).dw.cycle = w.dw.cycle :=
  (onInterruptionEnd_wk (Inside.refl _) (WorkKeeps.refl _ w) _ _ _).cycle.resolve_left (by decide)

@[simp] theorem hallHardware_sm (a1 : DoorEnv) (a2 : Nat) (a3 : Nat) (w : Work) : (hallHardware a1 a2 a3 w).1.dw.sm = w.dw.sm :=
  (hallHardware_wk (Inside.refl _) (WorkKeeps.refl _ w) _ _ _).sm.resolve_left (by decide)

@[simp] theorem hallHardware_inp (a1 : DoorEnv) (a2 : Nat) (a3 : Nat) (w : Work) : (hallHardware a1 a2 a3 w).1.dw.inp = w.dw.inp :=
  (hallHardware_wk (Inside.refl _) (WorkKeeps.refl _ w) _ _ _).inp.resolve_left (by decide)

@[simp] theorem hallHardware_step (a1 : DoorEnv) (a2 : Nat) (a3 : Nat) (w : Work) : (hallHardware a1 a2 a3 w).1.dw.step = w.dw.step :=
  (hallHardware_wk (Inside.refl _) (WorkKeeps.refl _ w) _ _ _).step.resolve_left (by decide)

@[simp] theorem hallHardware_obst (a1 : DoorEnv) (a2 : Nat) (a3 : Nat) (w : Work) : (hallHardware a1 a2 a3 w).1.dw.obst = w.dw.obst :=
  (hallHardware_wk (Inside.refl _) (WorkKeeps.refl _ w) _ _ _).obst.resolve_left (by decide)

@[simp] theorem hallHardware_cycle (a1 : DoorEnv) (a2 : Nat) (a3 : Nat) (w : Work) : (hallHardware a1 a2 a3 w).1.dw.cycle = w.dw.cycle :=
  (hallHardware_wk (Inside.refl _) (WorkKeeps.refl _ w) _ _ _).cycle.resolve_left (by decide)

@[simp] theorem hallReacts_inp (a1 : DoorEnv) (a2 : HallEvent) (w : Work) : (hallReacts a1 a2 w).dw.inp = w.dw.inp :=
  (hallReacts_wk (Inside.refl _) (WorkKeeps.refl _ w) _ _).inp.resolve_left (by decide)

@[simp] theorem onHallDropout_inp (a1 : DoorEnv) (a2 : Bool) (a3 : Nat) (w : Work) : (onHallDropout a1 a2 a3 w).dw.inp = w.dw.inp :=
  (onHallDropout_wk (Inside.refl _) (WorkKeeps.refl _ w) _ _ _).inp.resolve_left (by decide)

@[simp] theorem onHallFault_inp (a1 : DoorEnv) (a2 : Nat) (w : Work) : (onHallFault a1 a2 w).dw.inp = w.dw.inp :=
  (onHallFault_wk (Inside.refl _) (WorkKeeps.refl _ w) _ _).inp.resolve_left (by decide)

@[simp] theorem onHardwareTrip_inp (a1 : DoorEnv) (a2 : Bool) (a3 : HwTrip) (a4 : Nat) (w : Work) : (onHardwareTrip a1 a2 a3 a4 w).dw.inp = w.dw.inp :=
  (onHardwareTrip_wk (Inside.refl _) (WorkKeeps.refl _ w) _ _ _ _).inp.resolve_left (by decide)

@[simp] theorem onDirection_inp (a1 : DoorEnv) (w : Work) : (onDirection a1 w).dw.inp = w.dw.inp :=
  (onDirection_wk (Inside.refl _) (WorkKeeps.refl _ w) _).inp.resolve_left (by decide)

@[simp] theorem onFollowing_inp (a1 : DoorEnv) (w : Work) : (onFollowing a1 w).dw.inp = w.dw.inp :=
  (onFollowing_wk (Inside.refl _) (WorkKeeps.refl _ w) _).inp.resolve_left (by decide)

@[simp] theorem onThermal_inp (a1 : DoorEnv) (a2 : Bool) (a3 : Int) (w : Work) : (onThermal a1 a2 a3 w).dw.inp = w.dw.inp :=
  (onThermal_wk (Inside.refl _) (WorkKeeps.refl _ w) _ _ _).inp.resolve_left (by decide)

@[simp] theorem onThermalClear_sm (a1 : DoorEnv) (a2 : Bool) (a3 : Int) (w : Work) : (onThermalClear a1 a2 a3 w).dw.sm = w.dw.sm :=
  (onThermalClear_wk (Inside.refl _) (WorkKeeps.refl _ w) _ _ _).sm.resolve_left (by decide)

@[simp] theorem onThermalClear_inp (a1 : DoorEnv) (a2 : Bool) (a3 : Int) (w : Work) : (onThermalClear a1 a2 a3 w).dw.inp = w.dw.inp :=
  (onThermalClear_wk (Inside.refl _) (WorkKeeps.refl _ w) _ _ _).inp.resolve_left (by decide)

@[simp] theorem onThermalClear_obst (a1 : DoorEnv) (a2 : Bool) (a3 : Int) (w : Work) : (onThermalClear a1 a2 a3 w).dw.obst = w.dw.obst :=
  (onThermalClear_wk (Inside.refl _) (WorkKeeps.refl _ w) _ _ _).obst.resolve_left (by decide)

@[simp] theorem onThermalClear_cycle (a1 : DoorEnv) (a2 : Bool) (a3 : Int) (w : Work) : (onThermalClear a1 a2 a3 w).dw.cycle = w.dw.cycle :=
  (onThermalClear_wk (Inside.refl _) (WorkKeeps.refl _ w) _ _ _).cycle.resolve_left (by decide)

@[simp] theorem onSealStall_inp (a1 : DoorEnv) (w : Work) : (onSealStall a1 w).dw.inp = w.dw.inp :=
  (onSealStall_wk (Inside.refl _) (WorkKeeps.refl _ w) _).inp.resolve_left (by decide)

@[simp] theorem onSealOvertravel_inp (a1 : DoorEnv) (w : Work) : (onSealOvertravel a1 w).dw.inp = w.dw.inp :=
  (onSealOvertravel_wk (Inside.refl _) (WorkKeeps.refl _ w) _).inp.resolve_left (by decide)

@[simp] theorem issueStep_sm (a1 : DoorEnv) (a2 : Path) (a3 : Nat) (a4 : Int) (a5 : CoilSample) (w : Work) : (issueStep a1 a2 a3 a4 a5 w).dw.sm = w.dw.sm :=
  (issueStep_wk (Inside.refl _) (WorkKeeps.refl _ w) _ _ _ _ _).sm.resolve_left (by decide)

@[simp] theorem issueStep_inp (a1 : DoorEnv) (a2 : Path) (a3 : Nat) (a4 : Int) (a5 : CoilSample) (w : Work) : (issueStep a1 a2 a3 a4 a5 w).dw.inp = w.dw.inp :=
  (issueStep_wk (Inside.refl _) (WorkKeeps.refl _ w) _ _ _ _ _).inp.resolve_left (by decide)

@[simp] theorem issueStep_door (a1 : DoorEnv) (a2 : Path) (a3 : Nat) (a4 : Int) (a5 : CoilSample) (w : Work) : (issueStep a1 a2 a3 a4 a5 w).dw.door = w.dw.door :=
  (issueStep_wk (Inside.refl _) (WorkKeeps.refl _ w) _ _ _ _ _).door.resolve_left (by decide)

@[simp] theorem issueStep_obst (a1 : DoorEnv) (a2 : Path) (a3 : Nat) (a4 : Int) (a5 : CoilSample) (w : Work) : (issueStep a1 a2 a3 a4 a5 w).dw.obst = w.dw.obst :=
  (issueStep_wk (Inside.refl _) (WorkKeeps.refl _ w) _ _ _ _ _).obst.resolve_left (by decide)

@[simp] theorem issueStep_cycle (a1 : DoorEnv) (a2 : Path) (a3 : Nat) (a4 : Int) (a5 : CoilSample) (w : Work) : (issueStep a1 a2 a3 a4 a5 w).dw.cycle = w.dw.cycle :=
  (issueStep_wk (Inside.refl _) (WorkKeeps.refl _ w) _ _ _ _ _).cycle.resolve_left (by decide)

@[simp] theorem onStepTimer_sm (a1 : DoorEnv) (w : Work) : (onStepTimer a1 w).dw.sm = w.dw.sm :=
  (onStepTimer_wk (Inside.refl _) (WorkKeeps.refl _ w) _).sm.resolve_left (by decide)

@[simp] theorem onStepTimer_inp (a1 : DoorEnv) (w : Work) : (onStepTimer a1 w).dw.inp = w.dw.inp :=
  (onStepTimer_wk (Inside.refl _) (WorkKeeps.refl _ w) _).inp.resolve_left (by decide)

@[simp] theorem onStepTimer_door (a1 : DoorEnv) (w : Work) : (onStepTimer a1 w).dw.door = w.dw.door :=
  (onStepTimer_wk (Inside.refl _) (WorkKeeps.refl _ w) _).door.resolve_left (by decide)

@[simp] theorem onStepTimer_obst (a1 : DoorEnv) (w : Work) : (onStepTimer a1 w).dw.obst = w.dw.obst :=
  (onStepTimer_wk (Inside.refl _) (WorkKeeps.refl _ w) _).obst.resolve_left (by decide)

@[simp] theorem onStepTimer_cycle (a1 : DoorEnv) (w : Work) : (onStepTimer a1 w).dw.cycle = w.dw.cycle :=
  (onStepTimer_wk (Inside.refl _) (WorkKeeps.refl _ w) _).cycle.resolve_left (by decide)

@[simp] theorem onStall_inp (a1 : DoorEnv) (w : Work) : (onStall a1 w).dw.inp = w.dw.inp :=
  (onStall_wk (Inside.refl _) (WorkKeeps.refl _ w) _).inp.resolve_left (by decide)

@[simp] theorem onStallReport_inp (a1 : DoorEnv) (a2 : Int) (w : Work) : (onStallReport a1 a2 w).dw.inp = w.dw.inp :=
  (onStallReport_wk (Inside.refl _) (WorkKeeps.refl _ w) _ _).inp.resolve_left (by decide)

@[simp] theorem onHomingOvertravel_inp (a1 : DoorEnv) (w : Work) : (onHomingOvertravel a1 w).dw.inp = w.dw.inp :=
  (onHomingOvertravel_wk (Inside.refl _) (WorkKeeps.refl _ w) _).inp.resolve_left (by decide)

@[simp] theorem onParkComplete_inp (a1 : DoorEnv) (w : Work) : (onParkComplete a1 w).dw.inp = w.dw.inp :=
  (onParkComplete_wk (Inside.refl _) (WorkKeeps.refl _ w) _).inp.resolve_left (by decide)

@[simp] theorem onDeployComplete_inp (a1 : DoorEnv) (w : Work) : (onDeployComplete a1 w).dw.inp = w.dw.inp :=
  (onDeployComplete_wk (Inside.refl _) (WorkKeeps.refl _ w) _).inp.resolve_left (by decide)

@[simp] theorem onSdsTimeout_inp (a1 : DoorEnv) (w : Work) : (onSdsTimeout a1 w).dw.inp = w.dw.inp :=
  (onSdsTimeout_wk (Inside.refl _) (WorkKeeps.refl _ w) _).inp.resolve_left (by decide)

@[simp] theorem onRetryPauseEnd_inp (a1 : DoorEnv) (w : Work) : (onRetryPauseEnd a1 w).dw.inp = w.dw.inp :=
  (onRetryPauseEnd_wk (Inside.refl _) (WorkKeeps.refl _ w) _).inp.resolve_left (by decide)

@[simp] theorem onTripTaken_inp (a1 : DoorEnv) (w : Work) : (onTripTaken a1 w).dw.inp = w.dw.inp :=
  (onTripTaken_wk (Inside.refl _) (WorkKeeps.refl _ w) _).inp.resolve_left (by decide)

@[simp] theorem resumeDoor_sm (a1 : DoorEnv) (w : Work) : (resumeDoor a1 w).dw.sm = w.dw.sm :=
  (resumeDoor_wk (Inside.refl _) (WorkKeeps.refl _ w) _).sm.resolve_left (by decide)

@[simp] theorem resumeDoor_inp (a1 : DoorEnv) (w : Work) : (resumeDoor a1 w).dw.inp = w.dw.inp :=
  (resumeDoor_wk (Inside.refl _) (WorkKeeps.refl _ w) _).inp.resolve_left (by decide)

@[simp] theorem resumeDoor_step (a1 : DoorEnv) (w : Work) : (resumeDoor a1 w).dw.step = w.dw.step :=
  (resumeDoor_wk (Inside.refl _) (WorkKeeps.refl _ w) _).step.resolve_left (by decide)

@[simp] theorem onLatchRelease_sm (a1 : DoorEnv) (w : Work) : (onLatchRelease a1 w).dw.sm = w.dw.sm :=
  (onLatchRelease_wk (Inside.refl _) (WorkKeeps.refl _ w) _).sm.resolve_left (by decide)

@[simp] theorem onLatchRelease_inp (a1 : DoorEnv) (w : Work) : (onLatchRelease a1 w).dw.inp = w.dw.inp :=
  (onLatchRelease_wk (Inside.refl _) (WorkKeeps.refl _ w) _).inp.resolve_left (by decide)

@[simp] theorem onReflexStopEnd_inp (a1 : DoorEnv) (w : Work) : (onReflexStopEnd a1 w).dw.inp = w.dw.inp :=
  (onReflexStopEnd_wk (Inside.refl _) (WorkKeeps.refl _ w) _).inp.resolve_left (by decide)

@[simp] theorem onSePathFault_sm (a1 : DoorEnv) (a2 : Bool) (w : Work) : (onSePathFault a1 a2 w).dw.sm = w.dw.sm :=
  (onSePathFault_wk (Inside.refl _) (WorkKeeps.refl _ w) _ _).sm.resolve_left (by decide)

@[simp] theorem onSePathFault_inp (a1 : DoorEnv) (a2 : Bool) (w : Work) : (onSePathFault a1 a2 w).dw.inp = w.dw.inp :=
  (onSePathFault_wk (Inside.refl _) (WorkKeeps.refl _ w) _ _).inp.resolve_left (by decide)

@[simp] theorem onSePathFault_door (a1 : DoorEnv) (a2 : Bool) (w : Work) : (onSePathFault a1 a2 w).dw.door = w.dw.door :=
  (onSePathFault_wk (Inside.refl _) (WorkKeeps.refl _ w) _ _).door.resolve_left (by decide)

@[simp] theorem onSePathFault_step (a1 : DoorEnv) (a2 : Bool) (w : Work) : (onSePathFault a1 a2 w).dw.step = w.dw.step :=
  (onSePathFault_wk (Inside.refl _) (WorkKeeps.refl _ w) _ _).step.resolve_left (by decide)

@[simp] theorem onSePathFault_cycle (a1 : DoorEnv) (a2 : Bool) (w : Work) : (onSePathFault a1 a2 w).dw.cycle = w.dw.cycle :=
  (onSePathFault_wk (Inside.refl _) (WorkKeeps.refl _ w) _ _).cycle.resolve_left (by decide)

@[simp] theorem onSePathClear_sm (a1 : DoorEnv) (w : Work) : (onSePathClear a1 w).dw.sm = w.dw.sm :=
  (onSePathClear_wk (Inside.refl _) (WorkKeeps.refl _ w) _).sm.resolve_left (by decide)

@[simp] theorem onSePathClear_inp (a1 : DoorEnv) (w : Work) : (onSePathClear a1 w).dw.inp = w.dw.inp :=
  (onSePathClear_wk (Inside.refl _) (WorkKeeps.refl _ w) _).inp.resolve_left (by decide)

@[simp] theorem onSePathClear_door (a1 : DoorEnv) (w : Work) : (onSePathClear a1 w).dw.door = w.dw.door :=
  (onSePathClear_wk (Inside.refl _) (WorkKeeps.refl _ w) _).door.resolve_left (by decide)

@[simp] theorem onSePathClear_step (a1 : DoorEnv) (w : Work) : (onSePathClear a1 w).dw.step = w.dw.step :=
  (onSePathClear_wk (Inside.refl _) (WorkKeeps.refl _ w) _).step.resolve_left (by decide)

@[simp] theorem onSePathClear_cycle (a1 : DoorEnv) (w : Work) : (onSePathClear a1 w).dw.cycle = w.dw.cycle :=
  (onSePathClear_wk (Inside.refl _) (WorkKeeps.refl _ w) _).cycle.resolve_left (by decide)

@[simp] theorem onBreakawayEnd_sm (w : Work) : (onBreakawayEnd w).dw.sm = w.dw.sm :=
  (onBreakawayEnd_wk (Inside.refl _) (WorkKeeps.refl _ w)).sm.resolve_left (by decide)

@[simp] theorem onBreakawayEnd_inp (w : Work) : (onBreakawayEnd w).dw.inp = w.dw.inp :=
  (onBreakawayEnd_wk (Inside.refl _) (WorkKeeps.refl _ w)).inp.resolve_left (by decide)

@[simp] theorem onBreakawayEnd_door (w : Work) : (onBreakawayEnd w).dw.door = w.dw.door :=
  (onBreakawayEnd_wk (Inside.refl _) (WorkKeeps.refl _ w)).door.resolve_left (by decide)

@[simp] theorem onBreakawayEnd_step (w : Work) : (onBreakawayEnd w).dw.step = w.dw.step :=
  (onBreakawayEnd_wk (Inside.refl _) (WorkKeeps.refl _ w)).step.resolve_left (by decide)

@[simp] theorem onBreakawayEnd_cycle (w : Work) : (onBreakawayEnd w).dw.cycle = w.dw.cycle :=
  (onBreakawayEnd_wk (Inside.refl _) (WorkKeeps.refl _ w)).cycle.resolve_left (by decide)

@[simp] theorem onAdaptWindowEnd_sm (a1 : Bool) (w : Work) : (onAdaptWindowEnd a1 w).dw.sm = w.dw.sm :=
  (onAdaptWindowEnd_wk (Inside.refl _) (WorkKeeps.refl _ w) _).sm.resolve_left (by decide)

@[simp] theorem onAdaptWindowEnd_inp (a1 : Bool) (w : Work) : (onAdaptWindowEnd a1 w).dw.inp = w.dw.inp :=
  (onAdaptWindowEnd_wk (Inside.refl _) (WorkKeeps.refl _ w) _).inp.resolve_left (by decide)

@[simp] theorem onAdaptWindowEnd_door (a1 : Bool) (w : Work) : (onAdaptWindowEnd a1 w).dw.door = w.dw.door :=
  (onAdaptWindowEnd_wk (Inside.refl _) (WorkKeeps.refl _ w) _).door.resolve_left (by decide)

@[simp] theorem onAdaptWindowEnd_step (a1 : Bool) (w : Work) : (onAdaptWindowEnd a1 w).dw.step = w.dw.step :=
  (onAdaptWindowEnd_wk (Inside.refl _) (WorkKeeps.refl _ w) _).step.resolve_left (by decide)

@[simp] theorem onAdaptWindowEnd_cycle (a1 : Bool) (w : Work) : (onAdaptWindowEnd a1 w).dw.cycle = w.dw.cycle :=
  (onAdaptWindowEnd_wk (Inside.refl _) (WorkKeeps.refl _ w) _).cycle.resolve_left (by decide)

@[simp] theorem saveEnvelopes_sm (w : Work) : (saveEnvelopes w).dw.sm = w.dw.sm :=
  (saveEnvelopes_wk (Inside.refl _) (WorkKeeps.refl _ w)).sm.resolve_left (by decide)

@[simp] theorem saveEnvelopes_inp (w : Work) : (saveEnvelopes w).dw.inp = w.dw.inp :=
  (saveEnvelopes_wk (Inside.refl _) (WorkKeeps.refl _ w)).inp.resolve_left (by decide)

@[simp] theorem saveEnvelopes_door (w : Work) : (saveEnvelopes w).dw.door = w.dw.door :=
  (saveEnvelopes_wk (Inside.refl _) (WorkKeeps.refl _ w)).door.resolve_left (by decide)

@[simp] theorem saveEnvelopes_step (w : Work) : (saveEnvelopes w).dw.step = w.dw.step :=
  (saveEnvelopes_wk (Inside.refl _) (WorkKeeps.refl _ w)).step.resolve_left (by decide)

@[simp] theorem saveEnvelopes_cycle (w : Work) : (saveEnvelopes w).dw.cycle = w.dw.cycle :=
  (saveEnvelopes_wk (Inside.refl _) (WorkKeeps.refl _ w)).cycle.resolve_left (by decide)

@[simp] theorem onAdaptWrite_sm (w : Work) : (onAdaptWrite w).dw.sm = w.dw.sm :=
  (onAdaptWrite_wk (Inside.refl _) (WorkKeeps.refl _ w)).sm.resolve_left (by decide)

@[simp] theorem onAdaptWrite_inp (w : Work) : (onAdaptWrite w).dw.inp = w.dw.inp :=
  (onAdaptWrite_wk (Inside.refl _) (WorkKeeps.refl _ w)).inp.resolve_left (by decide)

@[simp] theorem onAdaptWrite_door (w : Work) : (onAdaptWrite w).dw.door = w.dw.door :=
  (onAdaptWrite_wk (Inside.refl _) (WorkKeeps.refl _ w)).door.resolve_left (by decide)

@[simp] theorem onAdaptWrite_step (w : Work) : (onAdaptWrite w).dw.step = w.dw.step :=
  (onAdaptWrite_wk (Inside.refl _) (WorkKeeps.refl _ w)).step.resolve_left (by decide)

@[simp] theorem onAdaptWrite_cycle (w : Work) : (onAdaptWrite w).dw.cycle = w.dw.cycle :=
  (onAdaptWrite_wk (Inside.refl _) (WorkKeeps.refl _ w)).cycle.resolve_left (by decide)

@[simp] theorem doReset_inp (a1 : DoorEnv) (w : Work) : (doReset a1 w).dw.inp = w.dw.inp :=
  (doReset_wk (Inside.refl _) (WorkKeeps.refl _ w) _).inp.resolve_left (by decide)

@[simp] theorem doIsolate_inp (a1 : DoorEnv) (w : Work) : (doIsolate a1 w).dw.inp = w.dw.inp :=
  (doIsolate_wk (Inside.refl _) (WorkKeeps.refl _ w) _).inp.resolve_left (by decide)

@[simp] theorem doReturn_inp (a1 : DoorEnv) (w : Work) : (doReturn a1 w).dw.inp = w.dw.inp :=
  (doReturn_wk (Inside.refl _) (WorkKeeps.refl _ w) _).inp.resolve_left (by decide)

@[simp] theorem startHome_sm (a1 : DoorEnv) (a2 : Nat) (w : Work) : (startHome a1 a2 w).dw.sm = w.dw.sm :=
  (startHome_wk (Inside.refl _) (WorkKeeps.refl _ w) _ _).sm.resolve_left (by decide)

@[simp] theorem startHome_inp (a1 : DoorEnv) (a2 : Nat) (w : Work) : (startHome a1 a2 w).dw.inp = w.dw.inp :=
  (startHome_wk (Inside.refl _) (WorkKeeps.refl _ w) _ _).inp.resolve_left (by decide)

@[simp] theorem startHome_door (a1 : DoorEnv) (a2 : Nat) (w : Work) : (startHome a1 a2 w).dw.door = w.dw.door :=
  (startHome_wk (Inside.refl _) (WorkKeeps.refl _ w) _ _).door.resolve_left (by decide)

@[simp] theorem startHome_obst (a1 : DoorEnv) (a2 : Nat) (w : Work) : (startHome a1 a2 w).dw.obst = w.dw.obst :=
  (startHome_wk (Inside.refl _) (WorkKeeps.refl _ w) _ _).obst.resolve_left (by decide)

@[simp] theorem startHome_cycle (a1 : DoorEnv) (a2 : Nat) (w : Work) : (startHome a1 a2 w).dw.cycle = w.dw.cycle :=
  (startHome_wk (Inside.refl _) (WorkKeeps.refl _ w) _ _).cycle.resolve_left (by decide)

@[simp] theorem startMaint_inp (a1 : DoorEnv) (a2 : MaintOp) (a3 : Nat) (w : Work) : (startMaint a1 a2 a3 w).dw.inp = w.dw.inp :=
  (startMaint_wk (Inside.refl _) (WorkKeeps.refl _ w) _ _ _).inp.resolve_left (by decide)

@[simp] theorem homeIsolated_inp (a1 : DoorEnv) (a2 : Nat) (a3 : Nat) (w : Work) : (homeIsolated a1 a2 a3 w).dw.inp = w.dw.inp :=
  (homeIsolated_wk (Inside.refl _) (WorkKeeps.refl _ w) _ _ _).inp.resolve_left (by decide)

@[simp] theorem homeIsolated_door (a1 : DoorEnv) (a2 : Nat) (a3 : Nat) (w : Work) : (homeIsolated a1 a2 a3 w).dw.door = w.dw.door :=
  (homeIsolated_wk (Inside.refl _) (WorkKeeps.refl _ w) _ _ _).door.resolve_left (by decide)

@[simp] theorem homeIsolated_obst (a1 : DoorEnv) (a2 : Nat) (a3 : Nat) (w : Work) : (homeIsolated a1 a2 a3 w).dw.obst = w.dw.obst :=
  (homeIsolated_wk (Inside.refl _) (WorkKeeps.refl _ w) _ _ _).obst.resolve_left (by decide)

@[simp] theorem doMoveTo_inp (a1 : DoorEnv) (a2 : Int) (a3 : Nat) (w : Work) : (doMoveTo a1 a2 a3 w).dw.inp = w.dw.inp :=
  (doMoveTo_wk (Inside.refl _) (WorkKeeps.refl _ w) _ _ _).inp.resolve_left (by decide)

@[simp] theorem doMoveTo_step (a1 : DoorEnv) (a2 : Int) (a3 : Nat) (w : Work) : (doMoveTo a1 a2 a3 w).dw.step = w.dw.step :=
  (doMoveTo_wk (Inside.refl _) (WorkKeeps.refl _ w) _ _ _).step.resolve_left (by decide)

@[simp] theorem markPassed_sm (a1 : DoorEnv) (a2 : Hall) (w : Work) : (markPassed a1 a2 w).dw.sm = w.dw.sm :=
  (markPassed_wk (Inside.refl _) (WorkKeeps.refl _ w) _ _).sm.resolve_left (by decide)

@[simp] theorem markPassed_inp (a1 : DoorEnv) (a2 : Hall) (w : Work) : (markPassed a1 a2 w).dw.inp = w.dw.inp :=
  (markPassed_wk (Inside.refl _) (WorkKeeps.refl _ w) _ _).inp.resolve_left (by decide)

@[simp] theorem markPassed_door (a1 : DoorEnv) (a2 : Hall) (w : Work) : (markPassed a1 a2 w).dw.door = w.dw.door :=
  (markPassed_wk (Inside.refl _) (WorkKeeps.refl _ w) _ _).door.resolve_left (by decide)

@[simp] theorem markPassed_step (a1 : DoorEnv) (a2 : Hall) (w : Work) : (markPassed a1 a2 w).dw.step = w.dw.step :=
  (markPassed_wk (Inside.refl _) (WorkKeeps.refl _ w) _ _).step.resolve_left (by decide)

@[simp] theorem markPassed_cycle (a1 : DoorEnv) (a2 : Hall) (w : Work) : (markPassed a1 a2 w).dw.cycle = w.dw.cycle :=
  (markPassed_wk (Inside.refl _) (WorkKeeps.refl _ w) _ _).cycle.resolve_left (by decide)

@[simp] theorem pathRaises_sm (a1 : DoorEnv) (a2 : Bool) (a3 : Bool) (a4 : List Seg) (w : Work) : (pathRaises a1 a2 a3 a4 w).dw.sm = w.dw.sm :=
  (pathRaises_wk (Inside.refl _) (WorkKeeps.refl _ w) _ _ _ _).sm.resolve_left (by decide)

@[simp] theorem pathRaises_inp (a1 : DoorEnv) (a2 : Bool) (a3 : Bool) (a4 : List Seg) (w : Work) : (pathRaises a1 a2 a3 a4 w).dw.inp = w.dw.inp :=
  (pathRaises_wk (Inside.refl _) (WorkKeeps.refl _ w) _ _ _ _).inp.resolve_left (by decide)

@[simp] theorem pathRaises_door (a1 : DoorEnv) (a2 : Bool) (a3 : Bool) (a4 : List Seg) (w : Work) : (pathRaises a1 a2 a3 a4 w).dw.door = w.dw.door :=
  (pathRaises_wk (Inside.refl _) (WorkKeeps.refl _ w) _ _ _ _).door.resolve_left (by decide)

@[simp] theorem pathRaises_step (a1 : DoorEnv) (a2 : Bool) (a3 : Bool) (a4 : List Seg) (w : Work) : (pathRaises a1 a2 a3 a4 w).dw.step = w.dw.step :=
  (pathRaises_wk (Inside.refl _) (WorkKeeps.refl _ w) _ _ _ _).step.resolve_left (by decide)

@[simp] theorem pathRaises_obst (a1 : DoorEnv) (a2 : Bool) (a3 : Bool) (a4 : List Seg) (w : Work) : (pathRaises a1 a2 a3 a4 w).dw.obst = w.dw.obst :=
  (pathRaises_wk (Inside.refl _) (WorkKeeps.refl _ w) _ _ _ _).obst.resolve_left (by decide)

@[simp] theorem doorReference_sm (a1 : DoorEnv) (w : Work) : (doorReference a1 w).dw.sm = w.dw.sm :=
  (doorReference_wk (Inside.refl _) (WorkKeeps.refl _ w) _).sm.resolve_left (by decide)

@[simp] theorem doorReference_inp (a1 : DoorEnv) (w : Work) : (doorReference a1 w).dw.inp = w.dw.inp :=
  (doorReference_wk (Inside.refl _) (WorkKeeps.refl _ w) _).inp.resolve_left (by decide)

@[simp] theorem doorReference_step (a1 : DoorEnv) (w : Work) : (doorReference a1 w).dw.step = w.dw.step :=
  (doorReference_wk (Inside.refl _) (WorkKeeps.refl _ w) _).step.resolve_left (by decide)

@[simp] theorem doorReference_obst (a1 : DoorEnv) (w : Work) : (doorReference a1 w).dw.obst = w.dw.obst :=
  (doorReference_wk (Inside.refl _) (WorkKeeps.refl _ w) _).obst.resolve_left (by decide)

@[simp] theorem doorLoop_sm (a1 : DoorEnv) (w : Work) : (doorLoop a1 w).dw.sm = w.dw.sm :=
  (doorLoop_wk (Inside.refl _) (WorkKeeps.refl _ w) _).sm.resolve_left (by decide)

@[simp] theorem doorLoop_inp (a1 : DoorEnv) (w : Work) : (doorLoop a1 w).dw.inp = w.dw.inp :=
  (doorLoop_wk (Inside.refl _) (WorkKeeps.refl _ w) _).inp.resolve_left (by decide)

@[simp] theorem doorLoop_step (a1 : DoorEnv) (w : Work) : (doorLoop a1 w).dw.step = w.dw.step :=
  (doorLoop_wk (Inside.refl _) (WorkKeeps.refl _ w) _).step.resolve_left (by decide)

@[simp] theorem doorLoop_obst (a1 : DoorEnv) (w : Work) : (doorLoop a1 w).dw.obst = w.dw.obst :=
  (doorLoop_wk (Inside.refl _) (WorkKeeps.refl _ w) _).obst.resolve_left (by decide)

@[simp] theorem doorLoop_cycle (a1 : DoorEnv) (w : Work) : (doorLoop a1 w).dw.cycle = w.dw.cycle :=
  (doorLoop_wk (Inside.refl _) (WorkKeeps.refl _ w) _).cycle.resolve_left (by decide)

@[simp] theorem doorPeriod_sm (a1 : DoorEnv) (w : Work) : (doorPeriod a1 w).dw.sm = w.dw.sm :=
  (doorPeriod_wk (Inside.refl _) (WorkKeeps.refl _ w) _).sm.resolve_left (by decide)

@[simp] theorem doorPeriod_inp (a1 : DoorEnv) (w : Work) : (doorPeriod a1 w).dw.inp = w.dw.inp :=
  (doorPeriod_wk (Inside.refl _) (WorkKeeps.refl _ w) _).inp.resolve_left (by decide)

@[simp] theorem doorPeriod_step (a1 : DoorEnv) (w : Work) : (doorPeriod a1 w).dw.step = w.dw.step :=
  (doorPeriod_wk (Inside.refl _) (WorkKeeps.refl _ w) _).step.resolve_left (by decide)

@[simp] theorem lastOfOld_sm (a1 : DoorEnv) (a2 : Path) (w : Work) : (lastOfOld a1 a2 w).dw.sm = w.dw.sm :=
  (lastOfOld_wk (Inside.refl _) (WorkKeeps.refl _ w) _ _).sm.resolve_left (by decide)

@[simp] theorem lastOfOld_inp (a1 : DoorEnv) (a2 : Path) (w : Work) : (lastOfOld a1 a2 w).dw.inp = w.dw.inp :=
  (lastOfOld_wk (Inside.refl _) (WorkKeeps.refl _ w) _ _).inp.resolve_left (by decide)

@[simp] theorem lastOfOld_door (a1 : DoorEnv) (a2 : Path) (w : Work) : (lastOfOld a1 a2 w).dw.door = w.dw.door :=
  (lastOfOld_wk (Inside.refl _) (WorkKeeps.refl _ w) _ _).door.resolve_left (by decide)

@[simp] theorem lastOfOld_obst (a1 : DoorEnv) (a2 : Path) (w : Work) : (lastOfOld a1 a2 w).dw.obst = w.dw.obst :=
  (lastOfOld_wk (Inside.refl _) (WorkKeeps.refl _ w) _ _).obst.resolve_left (by decide)

@[simp] theorem lastOfOld_cycle (a1 : DoorEnv) (a2 : Path) (w : Work) : (lastOfOld a1 a2 w).dw.cycle = w.dw.cycle :=
  (lastOfOld_wk (Inside.refl _) (WorkKeeps.refl _ w) _ _).cycle.resolve_left (by decide)

@[simp] theorem stepReference_sm (a1 : DoorEnv) (w : Work) : (stepReference a1 w).dw.sm = w.dw.sm :=
  (stepReference_wk (Inside.refl _) (WorkKeeps.refl _ w) _).sm.resolve_left (by decide)

@[simp] theorem stepReference_inp (a1 : DoorEnv) (w : Work) : (stepReference a1 w).dw.inp = w.dw.inp :=
  (stepReference_wk (Inside.refl _) (WorkKeeps.refl _ w) _).inp.resolve_left (by decide)

@[simp] theorem stepReference_door (a1 : DoorEnv) (w : Work) : (stepReference a1 w).dw.door = w.dw.door :=
  (stepReference_wk (Inside.refl _) (WorkKeeps.refl _ w) _).door.resolve_left (by decide)

@[simp] theorem stepReference_obst (a1 : DoorEnv) (w : Work) : (stepReference a1 w).dw.obst = w.dw.obst :=
  (stepReference_wk (Inside.refl _) (WorkKeeps.refl _ w) _).obst.resolve_left (by decide)

@[simp] theorem stepPeriod_sm (a1 : DoorEnv) (w : Work) : (stepPeriod a1 w).dw.sm = w.dw.sm :=
  (stepPeriod_wk (Inside.refl _) (WorkKeeps.refl _ w) _).sm.resolve_left (by decide)

@[simp] theorem stepPeriod_inp (a1 : DoorEnv) (w : Work) : (stepPeriod a1 w).dw.inp = w.dw.inp :=
  (stepPeriod_wk (Inside.refl _) (WorkKeeps.refl _ w) _).inp.resolve_left (by decide)

@[simp] theorem stepPeriod_door (a1 : DoorEnv) (w : Work) : (stepPeriod a1 w).dw.door = w.dw.door :=
  (stepPeriod_wk (Inside.refl _) (WorkKeeps.refl _ w) _).door.resolve_left (by decide)

@[simp] theorem stepPeriod_obst (a1 : DoorEnv) (w : Work) : (stepPeriod a1 w).dw.obst = w.dw.obst :=
  (stepPeriod_wk (Inside.refl _) (WorkKeeps.refl _ w) _).obst.resolve_left (by decide)

@[simp] theorem doorIdle_inp (a1 : DoorEnv) (w : Work) : (doorIdle a1 w).dw.inp = w.dw.inp :=
  (doorIdle_wk (Inside.refl _) (WorkKeeps.refl _ w) _).inp.resolve_left (by decide)

@[simp] theorem takeLatchTrip_sm (a1 : DoorEnv) (a2 : RowIx) (a3 : Nat) (w : Work) : (takeLatchTrip a1 a2 a3 w).dw.sm = w.dw.sm :=
  (takeLatchTrip_wk (Inside.refl _) (WorkKeeps.refl _ w) _ _ _).sm.resolve_left (by decide)

@[simp] theorem takeLatchTrip_inp (a1 : DoorEnv) (a2 : RowIx) (a3 : Nat) (w : Work) : (takeLatchTrip a1 a2 a3 w).dw.inp = w.dw.inp :=
  (takeLatchTrip_wk (Inside.refl _) (WorkKeeps.refl _ w) _ _ _).inp.resolve_left (by decide)

@[simp] theorem takeLatchTrip_door (a1 : DoorEnv) (a2 : RowIx) (a3 : Nat) (w : Work) : (takeLatchTrip a1 a2 a3 w).dw.door = w.dw.door :=
  (takeLatchTrip_wk (Inside.refl _) (WorkKeeps.refl _ w) _ _ _).door.resolve_left (by decide)

@[simp] theorem takeLatchTrip_step (a1 : DoorEnv) (a2 : RowIx) (a3 : Nat) (w : Work) : (takeLatchTrip a1 a2 a3 w).dw.step = w.dw.step :=
  (takeLatchTrip_wk (Inside.refl _) (WorkKeeps.refl _ w) _ _ _).step.resolve_left (by decide)

@[simp] theorem takeLatchTrip_cycle (a1 : DoorEnv) (a2 : RowIx) (a3 : Nat) (w : Work) : (takeLatchTrip a1 a2 a3 w).dw.cycle = w.dw.cycle :=
  (takeLatchTrip_wk (Inside.refl _) (WorkKeeps.refl _ w) _ _ _).cycle.resolve_left (by decide)

@[simp] theorem hostOpen_inp (a1 : DoorEnv) (w : Work) : (hostOpen a1 w).dw.inp = w.dw.inp :=
  (hostOpen_wk (Inside.refl _) (WorkKeeps.refl _ w) _).inp.resolve_left (by decide)

@[simp] theorem abortHome_inp (a1 : DoorEnv) (w : Work) : (abortHome a1 w).dw.inp = w.dw.inp :=
  (abortHome_wk (Inside.refl _) (WorkKeeps.refl _ w) _).inp.resolve_left (by decide)

@[simp] theorem startMove_inp (a1 : DoorEnv) (a2 : Nat) (a3 : Int) (a4 : Nat) (w : Work) : (startMove a1 a2 a3 a4 w).dw.inp = w.dw.inp :=
  (startMove_wk (Inside.refl _) (WorkKeeps.refl _ w) _ _ _ _).inp.resolve_left (by decide)

@[simp] theorem onClockFault_inp (a1 : DoorEnv) (w : Work) : (onClockFault a1 w).dw.inp = w.dw.inp :=
  (onClockFault_wk (Inside.refl _) (WorkKeeps.refl _ w) _).inp.resolve_left (by decide)

@[simp] theorem onAutoResume_inp (a1 : DoorEnv) (w : Work) : (onAutoResume a1 w).dw.inp = w.dw.inp :=
  (onAutoResume_wk (Inside.refl _) (WorkKeeps.refl _ w) _).inp.resolve_left (by decide)

end Sys2Proof.Machine
end

