-- ==== Sys2Proof/Laws/Ticks.lean ====
section
/-!
SUPPORT. One tick of a calm doorway, and what an entry to a state leaves: the state machine's state, phase, cause and edges.
-/

namespace Sys2Proof.Machine

/-! ## A calm tick -/

/-- Off UNLOCKING and OPENING the position does not matter to the lock solenoid channel (R176). -/
theorem solenoidCheck_off (e : DoorEnv) {w : Work} (hu : w.dw.course.1 ≠ .unlocking) (ho : w.dw.course.1 ≠ .opening) :
    solenoidCheck e w = w := by
  unfold solenoidCheck
  rw [if_neg]
  rintro ⟨_, h | h⟩
  · exact hu h
  · exact ho h

/-- The check of the lock solenoid channel changes one flag of the state machine at most. -/
theorem solenoidCheck_dw (e : DoorEnv) (w : Work) :
    ∃ b, solenoidCheck e w = w.smFlags (fun f => { f with solenoidOff := b }) := by
  unfold solenoidCheck
  split
  · exact ⟨true, rfl⟩
  · exact ⟨w.dw.sm.flags.solenoidOff, rfl⟩

theorem solenoidCheck_idem (e : DoorEnv) (w : Work) : solenoidCheck e (solenoidCheck e w) = solenoidCheck e w := by
  unfold solenoidCheck
  by_cases h : 30000 < doorPos e.cfg e.d w.dw.door.hall ∧ (w.dw.course.1 = .unlocking ∨ w.dw.course.1 = .opening)
  · rw [if_pos h]; split <;> rfl
  · rw [if_neg h, if_neg h]

theorem Doorway.Calm.flags {e : DoorEnv} {w : Work} (h : w.dw.Calm e) (b : Bool) :
    (w.smFlags (fun f => { f with solenoidOff := b })).dw.Calm e :=
  ⟨h.fitted, h.settled, h.running, h.valid, h.dis, h.eehIn, h.eeaOut, h.own, h.sound, h.plausible, h.notEntering, h.noTrip,
    h.noClass, h.notRelaxing, h.notDeploying, h.notStanding⟩

theorem Doorway.Calm.checked {e : DoorEnv} {w : Work} (h : w.dw.Calm e) : (solenoidCheck e w).dw.Calm e := by
  obtain ⟨b, hb⟩ := solenoidCheck_dw e w
  rw [hb]; exact h.flags b

theorem Doorway.Calm.forgets {e : DoorEnv} {w : Work} (h : w.dw.Calm e) : clearGone e w = w := by
  unfold clearGone
  simp [h.plausible, h.notStanding]

theorem Doorway.Calm.noRank {e : DoorEnv} {w : Work} (h : w.dw.Calm e) : firstRanks e w = none := by
  unfold firstRanks
  simp [h.valid, h.dis, h.eehIn, h.eeaOut, h.own]

theorem Doorway.Calm.later {e : DoorEnv} {w : Work} (h : w.dw.Calm e) (f : Work → Work) :
    laterRanks e f none w = takeEdges e (levelRows e (f w)) := by
  unfold laterRanks
  simp [h.sound, h.notEntering, h.noClass, h.own]

/-- A calm doorway takes the trigger, the level rows and the edges, once the lock solenoid channel is checked. -/
theorem tick_checked {e : DoorEnv} {w : Work} (h : w.dw.Calm e) (f : Work → Work) :
    doorTickWith e f w = seeLevels e (takeEdges e (levelRows e (f (solenoidCheck e w)))) := by
  have hv := h.checked
  obtain ⟨h1, h2, h3, h4, h5, h6, h7, ⟨h8, h9, h10, h11⟩, h12, h13, h14, h15, h16, h18, h19, h21⟩ := h
  have ho : w.obst (fun q => { q with pending := none }) = w := by
    show ({ dw := { w.dw with obst := { w.dw.obst with pending := none } }, fx := w.fx } : Work) = w
    rw [← h15]
  have hp : permitCheck e w = w := by
    unfold permitCheck
    have : (w.dw.step.job == StepJob.deploying) = false := by simp [h19]
    simp [this]
  have hl : lockTiming e w = w := by
    unfold lockTiming
    have : (w.dw.door.push == LockPush.relaxing) = false := by simp [h18]
    simp [this]
  unfold doorTickWith
  simp only [h1, h2, h3, ho, hp, hl, h15, hv.forgets, hv.noRank]
  simp only [Bool.not_true, Bool.false_or, Bool.false_eq_true, if_false]
  rw [hv.later]

/-- The same where the check finds nothing to do. -/
theorem tick_calm {e : DoorEnv} {w : Work} (h : w.dw.Calm e) (hn : solenoidCheck e w = w) (f : Work → Work) :
    doorTickWith e f w = seeLevels e (takeEdges e (levelRows e (f w))) := by
  rw [tick_checked h, hn]

theorem solenoidCheck_already (e : DoorEnv) {w : Work} (h : w.dw.sm.flags.solenoidOff = true) : solenoidCheck e w = w := by
  unfold solenoidCheck
  split
  · show ({ dw := { w.dw with sm := { w.dw.sm with flags := { w.dw.sm.flags with solenoidOff := true } } }, fx := w.fx } : Work) = w
    rw [← h]
  · rfl

/-- A calm tick is one after the check of the lock solenoid channel. -/
theorem tick_after_check {e : DoorEnv} {w : Work} (h : w.dw.Calm e) (f : Work → Work) :
    doorTickWith e f w = doorTickWith e f (solenoidCheck e w) := by
  rw [tick_checked h, tick_checked h.checked, solenoidCheck_idem]

theorem takeEdges_quiet (e : DoorEnv) {w : Work} (h : w.dw.sm.edges = noEdges) : takeEdges e w = w := by
  unfold takeEdges
  simp only [h, noEdges]
  have : w.sm (fun m => { m with edges := { openIn := false, openOut := false, cpb := false, auto := false } }) = w := by
    have hw : w.dw.sm.edges = { openIn := false, openOut := false, cpb := false, auto := false } := h
    rw [← hw]; rfl
  rw [this]
  simp

/-! ## Where the state machine stands -/

/-- The state machine's state, phase and cause, with no edge waiting. -/
structure Work.At (w : Work) (st : DoorState) (ph : Phase) (c : Cause) : Prop where
  state : w.dw.sm.state = st
  phase : w.dw.sm.phase = ph
  cause : w.dw.sm.cause = c
  edges : w.dw.sm.edges = noEdges

theorem Work.At.of_sm {w v : Work} {st ph c} (h : w.At st ph c) (hs : v.dw.sm = w.dw.sm) : v.At st ph c :=
  ⟨by rw [hs]; exact h.state, by rw [hs]; exact h.phase, by rw [hs]; exact h.cause, by rw [hs]; exact h.edges⟩

/-- A change of the state machine that leaves these four. -/
theorem Work.At.sm {w : Work} {st ph c} (h : w.At st ph c) {f : DoorSm → DoorSm} (h1 : (f w.dw.sm).state = w.dw.sm.state)
    (h2 : (f w.dw.sm).phase = w.dw.sm.phase) (h3 : (f w.dw.sm).cause = w.dw.sm.cause)
    (h4 : (f w.dw.sm).edges = w.dw.sm.edges) : (w.sm f).At st ph c :=
  ⟨h1.trans h.state, h2.trans h.phase, h3.trans h.cause, h4.trans h.edges⟩

theorem Work.At.smFlags {w : Work} {st ph c} (h : w.At st ph c) (f : SmFlags → SmFlags) : (w.smFlags f).At st ph c :=
  h.sm rfl rfl rfl rfl

theorem Work.At.count {w : Work} {st ph c} (h : w.At st ph c) (f : DoorCounters → DoorCounters) : (w.count f).At st ph c :=
  h.sm rfl rfl rfl rfl

/-- What an entry makes of the state machine, before its marks (R34, R66). -/
def entered (e : DoorEnv) (st : DoorState) (ph : Phase) (cause : Option Cause) (m : DoorSm) : DoorSm :=
  { m with
    state := st, phase := ph, cause := cause.getD m.cause, prev := if st = m.state then m.prev else m.state
    entered := if st = m.state then m.entered else e.now, since := e.mono }

/-- An entry: the state machine takes the state, and where it is another one its marks follow, after those of leaving FAULT. -/
theorem enter_shape (e : DoorEnv) (st : DoorState) (ph : Phase) (cause : Option Cause) (w : Work) :
    ∃ u : Work, u.dw.sm = w.dw.sm ∧ u.dw.inp = w.dw.inp ∧ u.dw.door = w.dw.door ∧ u.dw.step = w.dw.step ∧ u.dw.obst = w.dw.obst
      ∧ enter e st ph cause w = (if st = w.dw.sm.state then u.sm (entered e st ph cause) else
          entryMarks e st w.dw.sm.state w.dw.sm.phase
            (if w.dw.sm.state = .fault then leaveFault (u.sm (entered e st ph cause)) else u.sm (entered e st ph cause))) := by
  have h0 := cycleAccount_sm e w
  have h1 : ∀ n, (cycleBegin e n (cycleAccount e w)).dw.sm = w.dw.sm := fun n => (cycleBegin_sm e n _).trans h0
  have a : ∃ u : Work, u.dw.sm = w.dw.sm ∧ u.dw.inp = w.dw.inp ∧ u.dw.door = w.dw.door ∧ u.dw.step = w.dw.step ∧ u.dw.obst = w.dw.obst
      ∧ u = (match st with
        | .unlocking => cycleBegin e 1 (cycleAccount e w)
        | .opening => cycleBegin e 1 (cycleAccount e w)
        | .closing => cycleBegin e 5 (cycleAccount e w)
        | .maint => match (cycleAccount e w).dw.sm.maint with
          | some m => cycleBegin e m.op.cycleType (cycleAccount e w)
          | none => cycleAccount e w
        | _ => cycleAccount e w) := by
    refine ⟨_, ?_, ?_, ?_, ?_, ?_, rfl⟩ <;> cases st <;> dsimp only <;> (try split) <;> simp
  obtain ⟨u, i1, i2, i3, i4, i5, hu⟩ := a
  have key : ∀ u : Work, u.dw.sm = w.dw.sm → u.sm (entered e st ph cause) = u.sm (fun m => { m with
      state := st, phase := ph, cause := cause.getD m.cause, prev := if st = w.dw.sm.state then m.prev else w.dw.sm.state
      entered := if st = w.dw.sm.state then m.entered else e.now, since := e.mono }) := by
    intro u hu
    unfold Work.sm entered
    rw [hu]
  refine ⟨u, i1, i2, i3, i4, i5, ?_⟩
  rw [key u i1, hu]
  cases st <;> rfl

/-- An entry leaves the state machine in the state entered (R34, R66). LOCKED and RELEASED are for `enter_closed`. -/
theorem enter_at (e : DoorEnv) (st : DoorState) (ph : Phase) (cause : Option Cause) (w : Work) (h : w.dw.sm.edges = noEdges)
    (hl : st ≠ .locked) (hr : st ≠ .released) : (enter e st ph cause w).At st ph (cause.getD w.dw.sm.cause) := by
  have hb : ∀ n v, (cycleBegin e n v).dw.sm = v.dw.sm := fun n v => cycleBegin_sm e n v
  have hc : (cycleAccount e w).dw.sm = w.dw.sm := cycleAccount_sm e w
  have hmid : ∀ v : Work, v.dw.sm = w.dw.sm → ∀ o en,
      (v.sm (fun m => { m with state := st, phase := ph, cause := cause.getD m.cause, prev := o, entered := en, since := e.mono })).At
        st ph (cause.getD w.dw.sm.cause) := by
    intro v hv o en
    refine ⟨rfl, rfl, ?_, ?_⟩
    · show cause.getD v.dw.sm.cause = _; rw [hv]
    · show v.dw.sm.edges = _; rw [hv]; exact h
  have hmarks : ∀ (v : Work) (o : DoorState) (p : Phase) c, v.At st ph c → (entryMarks e st o p v).At st ph c := by
    intro v o p c hv
    cases st with
    | locked => exact absurd rfl hl
    | released => exact absurd rfl hr
    | unlocking => exact hv
    | opening => exact ⟨hv.state, hv.phase, hv.cause, hv.edges⟩
    | opened => exact ⟨hv.state, hv.phase, hv.cause, hv.edges⟩
    | closing =>
      show (if o = .obstructed then _ else _ : Work).At _ _ _
      split
      · exact ⟨hv.state, hv.phase, hv.cause, hv.edges⟩
      · exact hv
    | reopening => exact hv.of_sm rfl
    | obstructed => exact hv.of_sm rfl
    | closedUnlocked => exact ⟨hv.state, hv.phase, hv.cause, hv.edges⟩
    | stopped => exact hv.of_sm rfl
    | egress => exact ⟨hv.state, hv.phase, hv.cause, hv.edges⟩
    | isolated => exact hv.of_sm (cycleEnd_sm _ _)
    | fault => exact hv.of_sm (by show ((cycleEnd _ v).emit _ |>.emit _).dw.sm = _; exact cycleEnd_sm _ v)
    | maint => exact hv
  have hp : ∀ v : Work, v.dw.sm = w.dw.sm → ∀ (b : Prop) (_ : Decidable b) (b2 : Prop) (_ : Decidable b2) (o : DoorState) (p : Phase) (x : DoorState) (y : Nat),
      (if b then v.sm (fun m => { m with state := st, phase := ph, cause := cause.getD m.cause, prev := x, entered := y, since := e.mono })
        else entryMarks e st o p (if b2 then leaveFault (v.sm (fun m => { m with
            state := st, phase := ph, cause := cause.getD m.cause, prev := x, entered := y, since := e.mono }))
          else v.sm (fun m => { m with
            state := st, phase := ph, cause := cause.getD m.cause, prev := x, entered := y, since := e.mono }))).At
        st ph (cause.getD w.dw.sm.cause) := by
    intro v hv b _ b2 _ o p x y
    split
    · exact hmid v hv _ _
    · refine hmarks _ _ _ _ ?_
      split
      · exact (hmid v hv _ _).of_sm (leaveFault_sm _)
      · exact hmid v hv _ _
  have hq : ∀ v : Work, v.dw.sm = w.dw.sm → ∀ (o : DoorState) (p : Phase),
      (if st = o then v.sm (fun m => { m with
          state := st, phase := ph, cause := cause.getD m.cause, prev := if st = o then m.prev else o
          entered := if st = o then m.entered else e.now, since := e.mono })
        else entryMarks e st o p (if o = .fault then leaveFault (v.sm (fun m => { m with
            state := st, phase := ph, cause := cause.getD m.cause, prev := if st = o then m.prev else o
            entered := if st = o then m.entered else e.now, since := e.mono }))
          else v.sm (fun m => { m with
            state := st, phase := ph, cause := cause.getD m.cause, prev := if st = o then m.prev else o
            entered := if st = o then m.entered else e.now, since := e.mono }))).At
        st ph (cause.getD w.dw.sm.cause) := fun v hv o p => hp v hv _ _ _ _ o p _ _
  have ha : ∀ n, (cycleBegin e n (cycleAccount e w)).dw.sm = w.dw.sm := fun n => by rw [hb, hc]
  unfold enter
  cases st with
  | maint =>
    dsimp only
    cases (cycleAccount e w).dw.sm.maint with
    | none => exact hq _ hc _ _
    | some m => exact hq _ (ha _) _ _
  | unlocking => exact hq _ (ha _) _ _
  | opening => exact hq _ (ha _) _ _
  | closing => exact hq _ (ha _) _ _
  | _ => exact hq _ hc _ _

/-- An entry to LOCKED or RELEASED; a doorway of OPEN_MODE 1 opens by itself on release (R34). -/
theorem enter_closed (e : DoorEnv) (st : DoorState) (ph : Phase) (cause : Option Cause) (w : Work) (h : w.dw.sm.edges = noEdges)
    (hs : st = .locked ∨ st = .released ∧ e.cfg.openMode e.d ≠ 1) : (enter e st ph cause w).At st ph (cause.getD w.dw.sm.cause) := by
  have hc : (cycleAccount e w).dw.sm = w.dw.sm := cycleAccount_sm e w
  have ha : (decide (st = .released) && decide (e.cfg.openMode e.d = 1)) = false := by
    rcases hs with hs | ⟨_, hs⟩
    · subst hs; rfl
    · simp [hs]
  have hend : ∀ (u : Work) (c : Cause) (b : Bool) n, u.At st ph c → (cycleEnd n (u.sm (fun m => { m with
        flags := { m.flags with openedSince := b }
        edges := { m.edges with auto := decide (st = .released) && decide (e.cfg.openMode e.d = 1) } }))).At st ph c := by
    intro u c b n hu
    have hx : ∀ v : Work, v.At st ph c → (cycleEnd n v).At st ph c := fun v hv => hv.of_sm (cycleEnd_sm _ _)
    refine hx _ ⟨hu.state, hu.phase, hu.cause, ?_⟩
    show ({ u.dw.sm.edges with auto := decide (st = .released) && decide (e.cfg.openMode e.d = 1) } : Edges) = noEdges
    rw [hu.edges, ha]; rfl
  have hmark : ∀ (v : Work) (o : DoorState) (p : Phase) c, v.At st ph c → (entryMarks e st o p v).At st ph c := by
    intro v o p c hv
    have h2 : ∀ (b : Prop) (_ : Decidable b) (g : DoorCounters → DoorCounters), (if b then v.count g else v).At st ph c := by
      intro b _ g; split
      · exact hv.count g
      · exact hv
    rcases hs with hs | ⟨hs, _⟩ <;> subst hs <;> exact hend _ _ _ _ (h2 _ _ _)
  have hmid : ∀ o en, ((cycleAccount e w).sm (fun m => { m with
      state := st, phase := ph, cause := cause.getD m.cause, prev := o, entered := en, since := e.mono })).At
        st ph (cause.getD w.dw.sm.cause) := by
    intro o en
    refine ⟨rfl, rfl, ?_, ?_⟩
    · show cause.getD (cycleAccount e w).dw.sm.cause = _; rw [hc]
    · show (cycleAccount e w).dw.sm.edges = _; rw [hc]; exact h
  have hq : (if st = w.dw.sm.state then (cycleAccount e w).sm (fun m => { m with
          state := st, phase := ph, cause := cause.getD m.cause, prev := if st = w.dw.sm.state then m.prev else w.dw.sm.state
          entered := if st = w.dw.sm.state then m.entered else e.now, since := e.mono })
        else entryMarks e st w.dw.sm.state w.dw.sm.phase (if w.dw.sm.state = .fault then
            leaveFault ((cycleAccount e w).sm (fun m => { m with
              state := st, phase := ph, cause := cause.getD m.cause, prev := if st = w.dw.sm.state then m.prev else w.dw.sm.state
              entered := if st = w.dw.sm.state then m.entered else e.now, since := e.mono }))
          else (cycleAccount e w).sm (fun m => { m with
            state := st, phase := ph, cause := cause.getD m.cause, prev := if st = w.dw.sm.state then m.prev else w.dw.sm.state
            entered := if st = w.dw.sm.state then m.entered else e.now, since := e.mono }))).At
        st ph (cause.getD w.dw.sm.cause) := by
    have k1 : ∀ x y, (if st = w.dw.sm.state then (cycleAccount e w).sm (fun m => { m with
          state := st, phase := ph, cause := cause.getD m.cause, prev := x, entered := y, since := e.mono })
        else entryMarks e st w.dw.sm.state w.dw.sm.phase (if w.dw.sm.state = .fault then
            leaveFault ((cycleAccount e w).sm (fun m => { m with
              state := st, phase := ph, cause := cause.getD m.cause, prev := x, entered := y, since := e.mono }))
          else (cycleAccount e w).sm (fun m => { m with
            state := st, phase := ph, cause := cause.getD m.cause, prev := x, entered := y, since := e.mono }))).At
        st ph (cause.getD w.dw.sm.cause) := by
      intro x y
      split
      · exact hmid _ _
      · refine hmark _ _ _ _ ?_
        split
        · exact (hmid _ _).of_sm (leaveFault_sm _)
        · exact hmid _ _
    by_cases hst : st = w.dw.sm.state
    · simp only [if_pos hst]; exact ⟨rfl, rfl, by show cause.getD (cycleAccount e w).dw.sm.cause = _; rw [hc],
        by show (cycleAccount e w).dw.sm.edges = _; rw [hc]; exact h⟩
    · simp only [if_neg hst]
      have := k1 w.dw.sm.state e.now
      rw [if_neg hst] at this
      exact this
  rcases hs with hs | ⟨hs, _⟩ <;> subst hs <;> exact hq

theorem goTo_at (e : DoorEnv) (st : DoorState) (ph : Phase) (cause : Option Cause) (w : Work) (h : w.dw.sm.edges = noEdges)
    (hm : w.dw.sm.state ≠ .maint) (hl : st ≠ .locked) (hr : st ≠ .released) :
    (goTo e st ph cause w).At st ph (cause.getD w.dw.sm.cause) := by
  unfold goTo
  rw [if_neg hm]
  exact enter_at e st ph cause w h hl hr

/-! ## Entries of Table 1.6 -/

theorem enterWarn_at (e : DoorEnv) (cause : Option Cause) (resumed : Bool) (w : Work) (h : w.dw.sm.edges = noEdges)
    (hm : w.dw.sm.state ≠ .maint) (hw : e.cfg.preCloseWarn e.d ≠ 0) :
    (enterWarn e cause resumed w).At .closing .warn (cause.getD w.dw.sm.cause) := by
  have hg := goTo_at e .closing .warn cause w h hm (by decide) (by decide)
  have hg2 : ((goTo e .closing .warn cause w).sm (fun m => { m with
      interrupted := none, flags := { m.flags with solenoidOff := true } })).At .closing .warn (cause.getD w.dw.sm.cause) :=
    hg.sm rfl rfl rfl rfl
  unfold enterWarn
  dsimp only
  rw [if_neg hw]
  generalize (goTo e .closing .warn cause w).sm _ = v at hg2 ⊢
  split
  · exact hg2
  · refine hg2.of_sm (unlessReflexStop_sm ?_)
    split <;> simp

theorem enterMove_at (e : DoorEnv) (w : Work) (h : w.dw.sm.edges = noEdges) (hm : w.dw.sm.state ≠ .maint)
    (hq : w.dw.obst.seFast = (false, false)) : (enterMove e w).At .closing .move w.dw.sm.cause := by
  have hg := goTo_at e .closing .move none w h hm (by decide) (by decide)
  have ho : (goTo e .closing .move none w).dw.obst = w.dw.obst := goTo_obst e _ _ _ w
  unfold enterMove
  dsimp only
  have hn : edgePresent e (goTo e .closing .move none w).dw = none := by
    unfold edgePresent; rw [ho, hq]; rfl
  rw [hn]
  dsimp only [Option.filter]
  refine hg.of_sm (unlessReflexStop_sm ?_)
  split
  · exact doorResume_sm _ _
  · exact doorStartClose_sm _ _

theorem enterUnlocking_at (e : DoorEnv) (cause : Cause) (w : Work) (h : w.dw.sm.edges = noEdges)
    (hm : w.dw.sm.state ≠ .maint) : (enterUnlocking e cause w).At .unlocking .none cause := by
  have hg := goTo_at e .unlocking .none (some cause) w h hm (by decide) (by decide)
  have h2 := hg.smFlags (fun f => { f with solenoidOff := false, grace := false })
  unfold enterUnlocking
  dsimp only
  generalize ((goTo e .unlocking .none (some cause) w).smFlags _) = v at h2 ⊢
  refine h2.of_sm ?_
  split <;> split <;> simp

theorem enterOpening_at (e : DoorEnv) (cause : Option Cause) (w : Work) (h : w.dw.sm.edges = noEdges)
    (hm : w.dw.sm.state ≠ .maint) : (enterOpening e cause w).At .opening .none (cause.getD w.dw.sm.cause) := by
  have hg := goTo_at e .opening .none cause w h hm (by decide) (by decide)
  unfold enterOpening
  dsimp only
  generalize hv : ((goTo e .opening .none cause w).sm _) = v
  have h2 : v.At .opening .none (cause.getD w.dw.sm.cause) := by rw [← hv]; exact hg.sm rfl rfl rfl rfl
  refine h2.of_sm ?_
  have hu : ∀ x : Work, (unlessReflexStop (doorStartOpen e) x).dw.sm = x.dw.sm :=
    fun x => unlessReflexStop_sm (doorStartOpen_sm e x)
  split <;> split <;> simp [hu]

theorem enterLock_at (e : DoorEnv) (w : Work) (h : w.dw.sm.edges = noEdges) (hm : w.dw.sm.state ≠ .maint) :
    (enterLock e w).At .closing .lock w.dw.sm.cause := by
  have hg := goTo_at e .closing .lock none w h hm (by decide) (by decide)
  unfold enterLock
  dsimp only
  generalize hv : ((goTo e .closing .lock none w).sm _) = v
  have h2 : v.At .closing .lock w.dw.sm.cause := by rw [← hv]; exact hg.sm rfl rfl rfl rfl
  exact h2.of_sm (by simp)

theorem backFromUnlocking_at (e : DoorEnv) (cause : Option Cause) (w : Work) (h : w.dw.sm.edges = noEdges)
    (ho : e.cfg.openMode e.d ≠ 1) : (backFromUnlocking e cause w).At (closedRest e w) .none (cause.getD w.dw.sm.cause) := by
  have hc : closedRest e w = .locked ∨ closedRest e w = .released ∧ e.cfg.openMode e.d ≠ 1 := by
    unfold closedRest; split
    · exact .inr ⟨rfl, ho⟩
    · exact .inl rfl
  have hg := (enter_closed e (closedRest e w) .none cause w h hc).smFlags (fun f => { f with grace := true, solenoidOff := true })
  unfold backFromUnlocking
  dsimp only
  generalize ((enter e (closedRest e w) .none cause w).smFlags _) = v at hg ⊢
  exact hg.of_sm (by simp)

theorem finishClosed_at (e : DoorEnv) (w : Work) (h : w.dw.sm.edges = noEdges) (ho : e.cfg.openMode e.d ≠ 1) :
    (finishClosed e w).At (closedRest e w) .none w.dw.sm.cause := by
  have hc : closedRest e w = .locked ∨ closedRest e w = .released ∧ e.cfg.openMode e.d ≠ 1 := by
    unfold closedRest; split
    · exact .inr ⟨rfl, ho⟩
    · exact .inl rfl
  exact (enter_closed e (closedRest e w) .none none w h hc).of_sm (doorOff_sm _)

theorem stopDrives_at {e : DoorEnv} {q : Bool} {w : Work} {st ph c} (h : w.At st ph c) : (stopDrives e q w).At st ph c :=
  h.of_sm (by simp)

theorem enterFault_at (e : DoorEnv) (cause : Cause) (w : Work) (h : w.dw.sm.edges = noEdges) :
    (enterFault e cause w).At .fault .none cause := by
  have h1 : (maintStops 5 0 w).dw.sm.edges = noEdges := by
    unfold maintStops; split
    · exact h
    · exact h
  have hg := enter_at e .fault .none (some cause) (maintStops 5 0 w) h1 (by decide) (by decide)
  unfold enterFault
  dsimp only
  generalize hv : ((enter e .fault .none (some cause) (maintStops 5 0 w)).sm _) = v
  have h2 : v.At .fault .none cause := by rw [← hv]; exact hg.sm rfl rfl rfl rfl
  exact h2.of_sm (by simp [drivesOff])

/-! ## The tick that follows -/

theorem course_own {w : Doorway} (h : w.sm.state ≠ .maint) : w.course = (w.sm.state, w.sm.phase) := by
  unfold Doorway.course
  split
  · contradiction
  · rfl

/-- The check of the lock solenoid channel finds nothing to do off UNLOCKING and OPENING. -/
theorem Work.At.unchecked {w : Work} {st ph c} (e : DoorEnv) (h : w.At st ph c)
    (hs : st ≠ .maint ∧ st ≠ .unlocking ∧ st ≠ .opening) : solenoidCheck e w = w := by
  have hc := course_own (w := w.dw) (by rw [h.state]; exact hs.1)
  rw [h.state] at hc
  exact solenoidCheck_off e (by rw [hc]; exact hs.2.1) (by rw [hc]; exact hs.2.2)

theorem Work.At.checked {w : Work} {st ph c} (e : DoorEnv) (h : w.At st ph c) : (solenoidCheck e w).At st ph c := by
  obtain ⟨b, hb⟩ := solenoidCheck_dw e w
  rw [hb]; exact h.smFlags _

theorem levelRows_quiet (e : DoorEnv) {w : Work} {st ph c} (h : w.At st ph c) (hq : quiet st ph = true) :
    (levelRows e w).At st ph c := by
  have hc : (checkDeployed e w).dw.sm = w.dw.sm := checkDeployed_sm e w
  have h2 := h.of_sm hc
  have hm : (checkDeployed e w).dw.sm.state ≠ .maint := by
    rw [h2.state]; intro hx; subst hx; simp [quiet] at hq
  have hco := course_own hm
  rw [h2.state, h2.phase] at hco
  unfold levelRows
  dsimp only
  rw [hco]
  dsimp only
  split <;> first
    | exact h2
    | (exfalso; simp_all [quiet]; done)
    | (have : Doorway.windsUp (checkDeployed e w).dw = false := by
         unfold Doorway.windsUp; rw [show ((checkDeployed e w).dw.sm.state == .maint) = false by simpa using hm]; rfl
       rw [this]; exact h2)

theorem seeLevels_at (e : DoorEnv) {w : Work} {st ph c} (h : w.At st ph c) : (seeLevels e w).At st ph c := h.smFlags _

/-- A calm doorway whose trigger brings it to a course without level rows stands there after the tick. -/
theorem tick_quiet {e : DoorEnv} {w : Work} (h : w.dw.Calm e) (hn : solenoidCheck e w = w) {f : Work → Work} {st ph c}
    (hf : (f w).At st ph c) (hq : quiet st ph = true) : (doorTickWith e f w).At st ph c := by
  rw [tick_calm h hn]
  have hl := levelRows_quiet e hf hq
  rw [takeEdges_quiet e hl.edges]
  exact seeLevels_at e hl

end Sys2Proof.Machine
end

