-- ==== Sys2Proof/Laws/Inputs.lean ====
section
/-!
SUPPORT. What a change of a doorway input leaves: the level it brings, every other input, and what each input does besides.
-/

namespace Sys2Proof.Machine

theorem setBit_get (w : BitVec 16) (i j : Nat) (b : Bool) (hi : i < 16) :
    (setBit w i b).getLsbD j = if j = i then b else w.getLsbD j := by
  unfold setBit
  by_cases hj : j < 16
  · by_cases hij : j = i
    · subst hij
      cases b <;> simp [hj]
    · have h1 : (1#16 <<< i).getLsbD j = false := by
        rw [BitVec.getLsbD_shiftLeft]
        by_cases h : j < i
        · simp [h]
        · have : j - i ≠ 0 := by omega
          simp [this]
      cases b
      · simp only [Bool.false_eq_true, if_false, hij]
        rw [BitVec.getLsbD_and, BitVec.getLsbD_not, h1]
        simp [hj]
      · simp only [if_true, hij, if_false]
        rw [BitVec.getLsbD_or, h1]
        simp
  · have h1 : ∀ v : BitVec 16, v.getLsbD j = false := fun v => BitVec.getLsbD_of_ge v j (by omega)
    have hij : j ≠ i := by omega
    simp [h1, hij]

theorem rawChange_filtered (e : DoorEnv) (i : Nat) (b : Bool) (w : Work) :
    (rawChange e i b w).dw.inp.filtered = w.dw.inp.filtered := by
  unfold rawChange
  dsimp only
  split
  · rfl
  · split
    · split <;> rfl
    · split
      · rw [srsTransition_inp]
      · rfl

theorem rawChange_raw (e : DoorEnv) (i j : Nat) (b : Bool) (w : Work) (hi : i < 16) :
    (rawChange e i b w).dw.inp.raw.getLsbD j = if j = i then b else w.dw.inp.raw.getLsbD j := by
  unfold rawChange
  dsimp only
  split
  · rename_i h
    by_cases hj : j = i
    · subst hj; rw [if_pos rfl]; exact h
    · rw [if_neg hj]
  · split
    · split <;> exact setBit_get _ _ _ _ hi
    · split
      · rw [srsTransition_inp]; exact setBit_get _ _ _ _ hi
      · exact setBit_get _ _ _ _ hi

/-- The inputs after a filtered change, whatever else it does. -/
theorem filteredChange_inp (e : DoorEnv) (i : Nat) (b : Bool) (w : Work) (h : ¬w.dw.inp.filtered.getLsbD i = b) :
    (filteredChange e i b w).dw.inp = { w.dw.inp with filtered := setBit w.dw.inp.filtered i b } := by
  have key : WorkKeeps [.sm, .door, .step, .obst, .cycle]
      { w with dw := { w.dw with inp := { w.dw.inp with filtered := setBit w.dw.inp.filtered i b } } } (filteredChange e i b w) := by
    have hw : Inside [.sm, .door, .step, .obst, .cycle] [.sm, .door, .step, .obst, .cycle] := Inside.refl _
    have hr := WorkKeeps.refl [.sm, .door, .step, .obst, .cycle]
      { w with dw := { w.dw with inp := { w.dw.inp with filtered := setBit w.dw.inp.filtered i b } } }
    unfold filteredChange
    rw [if_neg h]
    dsimp only
    repeat' (first
      | (with_reducible assumption) | (with_reducible refine WorkKeeps.ite ?_ ?_)
      | (with_reducible refine indexCompare_wk (hw.of rfl) ?_ _ _) | (with_reducible refine markSuspect_wk (hw.of rfl) ?_ _ _ _)
      | (with_reducible refine Work.smFlags_wk (hw.of rfl) ?_ _) | (with_reducible refine Work.sm_wk (hw.of rfl) ?_ _)
      | (with_reducible refine Work.obst_wk (hw.of rfl) ?_ _) | (with_reducible refine recordTrip_wk (hw.of rfl) ?_ _ _)
      | (with_reducible refine Work.stepFlags_wk (hw.of rfl) ?_ _) | (with_reducible refine Work.step_wk (hw.of rfl) ?_ _))
  exact key.inp.resolve_left (by decide)

theorem filteredChange_filtered (e : DoorEnv) (i j : Nat) (b : Bool) (w : Work) (hi : i < 16) :
    (filteredChange e i b w).dw.inp.filtered.getLsbD j = if j = i then b else w.dw.inp.filtered.getLsbD j := by
  by_cases h : w.dw.inp.filtered.getLsbD i = b
  · have : filteredChange e i b w = w := by unfold filteredChange; rw [if_pos h]
    rw [this]
    by_cases hj : j = i
    · subst hj; rw [if_pos rfl]; exact h
    · rw [if_neg hj]
  · rw [filteredChange_inp e i b w h]; exact setBit_get _ _ _ _ hi

theorem filteredChange_raw (e : DoorEnv) (i : Nat) (b : Bool) (w : Work) :
    (filteredChange e i b w).dw.inp.raw = w.dw.inp.raw ∧ (filteredChange e i b w).dw.inp.flags = w.dw.inp.flags := by
  by_cases h : w.dw.inp.filtered.getLsbD i = b
  · have : filteredChange e i b w = w := by unfold filteredChange; rw [if_pos h]
    rw [this]; exact ⟨rfl, rfl⟩
  · rw [filteredChange_inp e i b w h]; exact ⟨rfl, rfl⟩

/-- The filtered inputs after an input takes a level. -/
theorem setInput_filtered (e : DoorEnv) (i j : Nat) (b : Bool) (w : Work) (hi : i < 16) :
    (setInput e i b w).dw.inp.filtered.getLsbD j = if j = i then b else w.dw.inp.filtered.getLsbD j := by
  show (filteredChange e i b (rawChange e i b w)).dw.inp.filtered.getLsbD j = _
  rw [filteredChange_filtered e i j b _ hi, rawChange_filtered]

/-- The raw inputs after an input takes a level. -/
theorem setInput_raw (e : DoorEnv) (i j : Nat) (b : Bool) (w : Work) (hi : i < 16) :
    (setInput e i b w).dw.inp.raw.getLsbD j = if j = i then b else w.dw.inp.raw.getLsbD j := by
  show (filteredChange e i b (rawChange e i b w)).dw.inp.raw.getLsbD j = _
  rw [(filteredChange_raw e i b _).1, rawChange_raw e i j b w hi]

theorem rawChange_flags (e : DoorEnv) (i : Nat) (b : Bool) (w : Work) : (rawChange e i b w).dw.inp.flags = w.dw.inp.flags := by
  unfold rawChange
  dsimp only
  split
  · rfl
  · split
    · split <;> rfl
    · split
      · rw [srsTransition_inp]
      · rfl

/-- The group's flags stay. -/
theorem setInput_flags (e : DoorEnv) (i : Nat) (b : Bool) (w : Work) : (setInput e i b w).dw.inp.flags = w.dw.inp.flags := by
  show (filteredChange e i b (rawChange e i b w)).dw.inp.flags = _
  rw [(filteredChange_raw e i b _).2, rawChange_flags]

/-! ## The state machine -/

/-- What a change of an input leaves of the state machine, drives and obstacle protection that ranks 1 to 4 read. -/
structure Work.Core (w v : Work) : Prop where
  state  : v.dw.sm.state = w.dw.sm.state
  phase  : v.dw.sm.phase = w.dw.sm.phase
  cause  : v.dw.sm.cause = w.dw.sm.cause
  maint  : v.dw.sm.maint = w.dw.sm.maint
  settledF : v.dw.sm.flags.hasSettled = w.dw.sm.flags.hasSettled
  halted : v.dw.sm.flags.halted = w.dw.sm.flags.halted
  isol   : v.dw.sm.flags.isolatedByCmd = w.dw.sm.flags.isolatedByCmd
  plaus  : v.dw.sm.flags.plausibility = w.dw.sm.flags.plausibility

theorem Work.Core.of_sm {u v w : Work} (h : u.Core v) (hs : w.dw.sm = v.dw.sm) : u.Core w := by
  obtain ⟨h1, h2, h3, h4, h5, h6, h7, h8⟩ := h
  constructor <;> (rw [hs]; assumption)

theorem Work.Core.refl (w : Work) : w.Core w := ⟨rfl, rfl, rfl, rfl, rfl, rfl, rfl, rfl⟩

theorem Work.Core.ite {w u v : Work} {p : Prop} [Decidable p] (hu : w.Core u) (hv : w.Core v) : w.Core (if p then u else v) := by
  split <;> assumption

theorem Work.Core.obst {w v : Work} (h : w.Core v) (g : Obstacle → Obstacle) : w.Core (v.obst g) := h.of_sm rfl
theorem Work.Core.recordTrip {w v : Work} (h : w.Core v) (e : DoorEnv) (n : Nat) : w.Core (Sys2Proof.Machine.recordTrip e n v) := h.of_sm rfl
theorem Work.Core.stepFlags {w v : Work} (h : w.Core v) (g : StepFlags → StepFlags) : w.Core (v.stepFlags g) := h.of_sm rfl
theorem Work.Core.step {w v : Work} (h : w.Core v) (g : StepDrive → StepDrive) : w.Core (v.step g) := h.of_sm rfl

theorem filteredChange_core (e : DoorEnv) (i : Nat) (b : Bool) (w : Work) : w.Core (filteredChange e i b w) := by
  by_cases h : w.dw.inp.filtered.getLsbD i = b
  · unfold filteredChange; rw [if_pos h]; exact Work.Core.refl w
  · unfold filteredChange
    rw [if_neg h]
    dsimp only
    have hf : ∀ (x : Work) (g : SmFlags → SmFlags), w.Core x → (∀ f, (g f).hasSettled = f.hasSettled ∧ (g f).halted = f.halted ∧
        (g f).isolatedByCmd = f.isolatedByCmd ∧ (g f).plausibility = f.plausibility) → w.Core (x.smFlags g) := by
      intro x g hx hg
      exact ⟨hx.state, hx.phase, hx.cause, hx.maint, (hg _).1.trans hx.settledF, (hg _).2.1.trans hx.halted,
        (hg _).2.2.1.trans hx.isol, (hg _).2.2.2.trans hx.plaus⟩
    have he : ∀ (x : Work) (g : DoorSm → DoorSm), w.Core x → (∀ m, (g m).state = m.state ∧ (g m).phase = m.phase ∧ (g m).cause = m.cause ∧
        (g m).maint = m.maint ∧ (g m).flags = m.flags) → w.Core (x.sm g) := by
      intro x g hx hg
      have hq := hg x.dw.sm
      have hfl : (x.sm g).dw.sm.flags = x.dw.sm.flags := hq.2.2.2.2
      exact ⟨hq.1.trans hx.state, hq.2.1.trans hx.phase, hq.2.2.1.trans hx.cause, hq.2.2.2.1.trans hx.maint,
        by rw [hfl]; exact hx.settledF, by rw [hfl]; exact hx.halted, by rw [hfl]; exact hx.isol, by rw [hfl]; exact hx.plaus⟩
    repeat' (first
      | (with_reducible refine Work.Core.ite ?_ ?_)
      | (with_reducible refine Work.Core.of_sm ?_ (indexCompare_sm _ _ _))
      | (with_reducible refine Work.Core.of_sm ?_ (markSuspect_sm _ _ _ _))
      | (with_reducible refine hf _ _ ?_ (fun _ => ⟨rfl, rfl, rfl, rfl⟩))
      | (with_reducible refine Work.Core.obst ?_ _)
      | (with_reducible refine Work.Core.recordTrip ?_ _ _)
      | (with_reducible refine Work.Core.stepFlags ?_ _)
      | (with_reducible refine Work.Core.step ?_ _)
      | (with_reducible refine he _ _ ?_ (fun _ => ⟨rfl, rfl, rfl, rfl, rfl⟩))
      | (with_reducible refine Work.Core.of_sm (v := { w with dw := { w.dw with inp := { w.dw.inp with filtered := setBit w.dw.inp.filtered i b } } }) ⟨rfl, rfl, rfl, rfl, rfl, rfl, rfl, rfl⟩ rfl)
      | exact Work.Core.of_sm (Work.Core.refl w) rfl)

theorem setInput_core (e : DoorEnv) (i : Nat) (b : Bool) (w : Work) : w.Core (setInput e i b w) := by
  have h := filteredChange_core e i b (rawChange e i b w)
  have hs := rawChange_sm e i b w
  obtain ⟨h1, h2, h3, h4, h5, h6, h7, h8⟩ := h
  rw [hs] at h1 h2 h3 h4 h5 h6 h7 h8
  exact ⟨h1, h2, h3, h4, h5, h6, h7, h8⟩

/-- A break of filtered DCS is recorded and ends the unlocking command (R33, R176). -/
theorem setInput_dcsBreak (e : DoorEnv) (w : Work) (hf : w.dw.inp.filtered.getLsbD 0 = true) :
    (setInput e 0 false w).dw.sm.flags.unlockSeen = (w.dw.sm.flags.unlockSeen || uncommanded w.dw false)
      ∧ (setInput e 0 false w).dw.sm.flags.solenoidOff = true := by
  have hr : (rawChange e 0 false w).dw.inp.filtered.getLsbD 0 = true := by rw [rawChange_filtered]; exact hf
  have hsm := rawChange_sm e 0 false w
  have hfi := rawChange_filtered e 0 false w
  show (filteredChange e 0 false (rawChange e 0 false w)).dw.sm.flags.unlockSeen = _ ∧
    (filteredChange e 0 false (rawChange e 0 false w)).dw.sm.flags.solenoidOff = true
  generalize rawChange e 0 false w = v at hr hsm hfi
  unfold filteredChange
  rw [if_neg (by rw [hr]; decide)]
  dsimp only
  generalize hu : (if (0 = 0 ∨ 0 = 1) ∧ (!false) = true ∧ v.dw.door.flags.suspectHeld = true then _ else _ : Work) = u
  have husm : u.dw.sm = v.dw.sm := by rw [← hu]; split; · exact markSuspect_sm _ _ _ _
                                      · rfl
  have huin : u.dw.inp = { v.dw.inp with filtered := setBit v.dw.inp.filtered 0 false } := by
    rw [← hu]; split; · exact markSuspect_inp _ _ _ _
    · rfl
  have hun : uncommanded u.dw false = uncommanded w.dw false := by
    unfold uncommanded Doorway.eehIn Doorway.eeaOut Doorway.input
    rw [husm, hsm, huin, ← hfi]
    show (_ && !(setBit v.dw.inp.filtered 0 false).getLsbD 3 && !(setBit v.dw.inp.filtered 0 false).getLsbD 4 && _) = _
    rw [setBit_get _ _ _ _ (by decide), setBit_get _ _ _ _ (by decide)]; rfl
  simp only [if_true, Bool.not_false, Bool.true_and, Bool.false_eq_true, if_false]
  rw [indexCompare_sm, hun]
  cases hc : uncommanded w.dw false
  · simp [Work.smFlags, Work.sm, husm, hsm]
  · simp [Work.smFlags, Work.sm]

/-- A break of filtered DLS is recorded (R33). -/
theorem setInput_dlsBreak (e : DoorEnv) (w : Work) (hf : w.dw.inp.filtered.getLsbD 1 = true) :
    (setInput e 1 false w).dw.sm.flags.unlockSeen = (w.dw.sm.flags.unlockSeen || uncommanded w.dw true) := by
  have hr : (rawChange e 1 false w).dw.inp.filtered.getLsbD 1 = true := by rw [rawChange_filtered]; exact hf
  have hsm := rawChange_sm e 1 false w
  have hfi := rawChange_filtered e 1 false w
  show (filteredChange e 1 false (rawChange e 1 false w)).dw.sm.flags.unlockSeen = _
  generalize rawChange e 1 false w = v at hr hsm hfi
  unfold filteredChange
  rw [if_neg (by rw [hr]; decide)]
  dsimp only
  generalize hu : (if (1 = 0 ∨ 1 = 1) ∧ (!false) = true ∧ v.dw.door.flags.suspectHeld = true then _ else _ : Work) = u
  have husm : u.dw.sm = v.dw.sm := by rw [← hu]; split; · exact markSuspect_sm _ _ _ _
                                      · rfl
  have huin : u.dw.inp = { v.dw.inp with filtered := setBit v.dw.inp.filtered 1 false } := by
    rw [← hu]; split; · exact markSuspect_inp _ _ _ _
    · rfl
  have hun : uncommanded u.dw true = uncommanded w.dw true := by
    unfold uncommanded Doorway.eehIn Doorway.eeaOut Doorway.input
    rw [husm, hsm, huin, ← hfi]
    show (_ && !(setBit v.dw.inp.filtered 1 false).getLsbD 3 && !(setBit v.dw.inp.filtered 1 false).getLsbD 4 && _) = _
    rw [setBit_get _ _ _ _ (by decide), setBit_get _ _ _ _ (by decide)]; rfl
  simp only [Bool.not_false, Bool.true_and, if_neg (show ¬(1 : Nat) = 0 by decide), if_true]
  rw [hun]
  cases hc : uncommanded w.dw true
  · simp [husm, hsm]
  · simp [Work.smFlags, Work.sm]

/-- A pushbutton's transition leaves a waiting edge and nothing else but the inputs (R24). -/
theorem setInput_button (e : DoorEnv) (i : Nat) (w : Work) (hi : i = 5 ∨ i = 6 ∨ i = 7) (hf : w.dw.inp.filtered.getLsbD i = false) :
    (setInput e i true w).dw.door = w.dw.door ∧ (setInput e i true w).dw.step = w.dw.step
      ∧ (setInput e i true w).dw.obst = w.dw.obst
      ∧ (setInput e i true w).dw.sm = { w.dw.sm with edges := { w.dw.sm.edges with
          openIn := w.dw.sm.edges.openIn || decide (i = 5), openOut := w.dw.sm.edges.openOut || decide (i = 6)
          cpb := w.dw.sm.edges.cpb || decide (i = 7) } } := by
  have hraw : ∀ k, k = 5 ∨ k = 6 ∨ k = 7 → (rawChange e k true w).dw.door = w.dw.door ∧ (rawChange e k true w).dw.step = w.dw.step ∧
      (rawChange e k true w).dw.obst = w.dw.obst ∧ (rawChange e k true w).dw.sm = w.dw.sm := by
    intro k hk
    refine ⟨?_, ?_, rawChange_obst _ _ _ _, rawChange_sm _ _ _ _⟩
    · unfold rawChange; dsimp only
      rcases hk with rfl | rfl | rfl <;> simp <;> split <;> rfl
    · unfold rawChange; dsimp only
      rcases hk with rfl | rfl | rfl <;> simp <;> split <;> rfl
  have h := hraw i hi
  have hr : (rawChange e i true w).dw.inp.filtered.getLsbD i = false := by rw [rawChange_filtered]; exact hf
  show (filteredChange e i true (rawChange e i true w)).dw.door = _ ∧ (filteredChange e i true (rawChange e i true w)).dw.step = _ ∧
    (filteredChange e i true (rawChange e i true w)).dw.obst = _ ∧ (filteredChange e i true (rawChange e i true w)).dw.sm = _
  rw [← h.1, ← h.2.1, ← h.2.2.1, ← h.2.2.2]
  generalize rawChange e i true w = v at hr
  unfold filteredChange
  rw [if_neg (by rw [hr]; decide)]
  dsimp only
  rcases hi with rfl | rfl | rfl <;> simp [Work.sm]

/-! ## DCS and DLS -/

/-- What an index comparison leaves that the ranks read. -/
structure Work.Firm (w v : Work) : Prop where
  fault : v.dw.door.faultCode = w.dw.door.faultCode
  push  : v.dw.door.push = w.dw.door.push ∨ v.dw.door.push = .none
  pend  : v.dw.obst.pending = w.dw.obst.pending

theorem Work.Firm.refl (w : Work) : w.Firm w := ⟨rfl, .inl rfl, rfl⟩

theorem Work.Firm.of_door {u w v : Work} (h : u.Firm w) (h1 : v.dw.door.faultCode = w.dw.door.faultCode)
    (h2 : v.dw.door.push = w.dw.door.push ∨ v.dw.door.push = .none) (h3 : v.dw.obst.pending = w.dw.obst.pending) : u.Firm v := by
  refine ⟨h1.trans h.fault, ?_, h3.trans h.pend⟩
  rcases h2 with h2 | h2
  · rcases h.push with h4 | h4
    · exact .inl (h2.trans h4)
    · exact .inr (h2.trans h4)
  · exact .inr h2

theorem strokeStarts_firm (e : DoorEnv) (b r : Bool) (w : Work) : w.Firm (strokeStarts e b r w) := by
  unfold strokeStarts
  dsimp only
  split
  · exact ⟨rfl, .inr rfl, rfl⟩
  · exact ⟨rfl, .inr rfl, rfl⟩

theorem doorMove_firm (e : DoorEnv) (t : Int) (s : Nat) (m : Bool) (w : Work) : w.Firm (doorMove e t s m w) := by
  unfold doorMove
  dsimp only
  have h := strokeStarts_firm e (w.dw.door.gen.state != .moving) false (w.door (fun q => { q with gen := q.gen.moveToTarget (doorEnvOf e w.dw) t s m }))
  exact ⟨h.fault, h.push, h.pend⟩

theorem markSuspect_firm (e : DoorEnv) (c : Nat) (x : Int) (w : Work) : w.Firm (markSuspect e c x w) := by
  unfold markSuspect
  split
  · exact Work.Firm.refl w
  · exact ⟨rfl, .inl rfl, rfl⟩

theorem indexShift_firm (e : DoorEnv) (x : Int) (w : Work) : w.Firm (indexShift e x w) := by
  unfold indexShift
  dsimp only
  repeat' (first | exact ⟨rfl, .inl rfl, rfl⟩ | split)

theorem indexCompare_firm (e : DoorEnv) (b : Bool) (w : Work) : w.Firm (indexCompare e b w) := by
  have ht : ∀ u v : Work, w.Firm u → u.Firm v → w.Firm v := fun u v hu hv => hu.of_door hv.fault hv.push hv.pend
  have hflag : w.Firm (w.doorFlags (fun f => { f with compared := true })) := ⟨rfl, .inl rfl, rfl⟩
  unfold indexCompare
  dsimp only
  split
  · exact Work.Firm.refl w
  · split
    · exact ⟨rfl, .inl rfl, rfl⟩
    · split
      · split
        · exact Work.Firm.refl w
        · split
          · exact ht _ _ hflag (indexShift_firm _ _ _)
          · split
            · exact ht _ _ (ht _ _ hflag (markSuspect_firm _ _ _ _)) ⟨rfl, .inl rfl, rfl⟩
            · exact ht _ _ (ht _ _ hflag (markSuspect_firm _ _ _ _)) (doorMove_firm _ _ _ _ _)
      · exact Work.Firm.refl w

theorem Work.Firm.trans {u v w : Work} (h : u.Firm v) (k : v.Firm w) : u.Firm w := h.of_door k.fault k.push k.pend

theorem rawChange_switch (e : DoorEnv) (i : Nat) (b : Bool) (w : Work) (hi : i = 0 ∨ i = 1) :
    (rawChange e i b w).dw.step = w.dw.step ∧ w.Firm (rawChange e i b w) := by
  unfold rawChange
  dsimp only
  rcases hi with rfl | rfl
  · rw [if_pos rfl]
    by_cases h : w.dw.inp.raw.getLsbD 0 = b
    · rw [if_pos h]; exact ⟨rfl, Work.Firm.refl w⟩
    · rw [if_neg h]; cases b <;> exact ⟨rfl, rfl, .inl rfl, rfl⟩
  · by_cases h : w.dw.inp.raw.getLsbD 1 = b
    · rw [if_pos h]; exact ⟨rfl, Work.Firm.refl w⟩
    · rw [if_neg h]; simp; exact ⟨rfl, .inl rfl, rfl⟩

/-- What DCS or DLS does besides its level: the step stays, and no fault code, push or trip comes of it. -/
theorem filteredChange_switch (e : DoorEnv) (i : Nat) (b : Bool) (w : Work) (hi : i = 0 ∨ i = 1) :
    (filteredChange e i b w).dw.step = w.dw.step ∧ w.Firm (filteredChange e i b w)
      ∧ ((b = true ∨ uncommanded w.dw (i == 1) = false) →
          (filteredChange e i b w).dw.sm.flags.unlockSeen = w.dw.sm.flags.unlockSeen)
      ∧ (i = 0 ∧ b = true ∨ i = 1 ∧ b = false ∧ uncommanded w.dw true = false → (filteredChange e i b w).dw.sm = w.dw.sm)
      ∧ (i = 1 ∧ b = true →
          ∃ g, (filteredChange e i b w).dw.sm = { w.dw.sm with flags := { w.dw.sm.flags with grace := g } }) := by
  by_cases h : w.dw.inp.filtered.getLsbD i = b
  · have : filteredChange e i b w = w := by unfold filteredChange; rw [if_pos h]
    rw [this]; exact ⟨rfl, Work.Firm.refl w, fun _ => rfl, fun _ => rfl, fun _ => ⟨w.dw.sm.flags.grace, rfl⟩⟩
  unfold filteredChange
  rw [if_neg h]
  dsimp only
  generalize hu : (if (i = 0 ∨ i = 1) ∧ (!b) = true ∧ w.dw.door.flags.suspectHeld = true then markSuspect e 2 0 _ else _ : Work) = u
  have husm : u.dw.sm = w.dw.sm := by rw [← hu]; split; · exact markSuspect_sm _ _ _ _
                                      · rfl
  have huin : u.dw.inp = { w.dw.inp with filtered := setBit w.dw.inp.filtered i b } := by
    rw [← hu]; split; · exact markSuspect_inp _ _ _ _
    · rfl
  have hust : u.dw.step = w.dw.step := by
    rw [← hu]; split; · exact markSuspect_step _ _ _ _
    · rfl
  have hufi : w.Firm u := by
    rw [← hu]; split
    · exact Work.Firm.trans (v := { w with dw := { w.dw with inp := { w.dw.inp with filtered := setBit w.dw.inp.filtered i b } } })
        ⟨rfl, .inl rfl, rfl⟩ (markSuspect_firm _ _ _ _)
    · exact ⟨rfl, .inl rfl, rfl⟩
  have hun : ∀ x, uncommanded u.dw x = uncommanded w.dw x := by
    intro x
    unfold uncommanded Doorway.eehIn Doorway.eeaOut Doorway.input
    rw [husm, huin]
    dsimp only
    rw [setBit_get _ _ _ _ (by omega), setBit_get _ _ _ _ (by omega), if_neg (by omega), if_neg (by omega)]
  rcases hi with rfl | rfl
  · simp only [if_true]
    refine ⟨?_, ?_, ?_, ?_, fun hx => absurd hx.1 (by decide)⟩
    · rw [indexCompare_step]
      cases b
      · simp only [Bool.false_eq_true, if_false]; split <;> exact hust
      · exact hust
    · refine Work.Firm.trans ?_ (indexCompare_firm _ _ _)
      refine hufi.trans ?_
      cases b
      · simp only [Bool.false_eq_true, if_false]; split <;> exact ⟨rfl, .inl rfl, rfl⟩
      · exact Work.Firm.refl _
    · intro hb
      rw [indexCompare_sm]
      rcases hb with rfl | hb
      · simp [husm]
      · rw [hun]
        have : uncommanded w.dw false = false := hb
        rw [this]; cases b <;> simp [Work.smFlags, Work.sm, husm]
    · rintro (⟨-, rfl⟩ | ⟨hx, -⟩)
      · rw [indexCompare_sm]; simp [husm]
      · exact absurd hx (by decide)
  · simp only [if_neg (show ¬(1 : Nat) = 0 by decide), if_true]
    rw [hun]
    refine ⟨?_, ?_, ?_, ?_, ?_⟩
    · split
      · exact hust
      · split <;> exact hust
    · split
      · exact hufi.trans ⟨rfl, .inl rfl, rfl⟩
      · split
        · exact hufi.trans ⟨rfl, .inl rfl, rfl⟩
        · exact hufi
    · intro hb
      have hs : ∀ g, (u.smFlags (fun f => { f with grace := g })).dw.sm.flags.unlockSeen = w.dw.sm.flags.unlockSeen := by
        intro g; rw [← husm]; rfl
      rcases hb with rfl | hb
      · rw [if_pos rfl]; exact hs _
      · have : uncommanded w.dw true = false := hb
        rw [this]
        split
        · exact hs _
        · simp [husm]
    · rintro (⟨hx, -⟩ | ⟨-, rfl, hb⟩)
      · exact absurd hx (by decide)
      · rw [hb]; simp [husm]
    · rintro ⟨-, rfl⟩
      rw [if_pos rfl]
      exact ⟨false, by rw [← husm]; rfl⟩

theorem uncommanded_raw (e : DoorEnv) (i : Nat) (b : Bool) (w : Work) (x : Bool) :
    uncommanded (rawChange e i b w).dw x = uncommanded w.dw x := by
  unfold uncommanded Doorway.eehIn Doorway.eeaOut Doorway.input
  rw [rawChange_sm, rawChange_filtered]

theorem setInput_switch (e : DoorEnv) (i : Nat) (b : Bool) (w : Work) (hi : i = 0 ∨ i = 1) :
    (setInput e i b w).dw.step = w.dw.step ∧ w.Firm (setInput e i b w)
      ∧ ((b = true ∨ uncommanded w.dw (i == 1) = false) →
          (setInput e i b w).dw.sm.flags.unlockSeen = w.dw.sm.flags.unlockSeen)
      ∧ (i = 0 ∧ b = true ∨ i = 1 ∧ b = false ∧ uncommanded w.dw true = false → (setInput e i b w).dw.sm = w.dw.sm)
      ∧ (i = 1 ∧ b = true → ∃ g, (setInput e i b w).dw.sm = { w.dw.sm with flags := { w.dw.sm.flags with grace := g } }) := by
  have h := filteredChange_switch e i b (rawChange e i b w) hi
  have hr := rawChange_switch e i b w hi
  rw [uncommanded_raw, uncommanded_raw, rawChange_sm] at h
  refine ⟨h.1.trans hr.1, ?_, h.2.2.1, h.2.2.2.1, h.2.2.2.2⟩
  have := hr.2.trans h.2.1
  exact ⟨this.fault, this.push, this.pend⟩

/-- A calm doorway is calm after a change of DCS or DLS that is not an uncommanded unlock. -/
theorem setInput_switch_calm {e : DoorEnv} {i : Nat} {b : Bool} {w : Work} (h : w.dw.Calm e) (hi : i = 0 ∨ i = 1)
    (hb : b = true ∨ uncommanded w.dw (i == 1) = false) : (setInput e i b w).dw.Calm e := by
  obtain ⟨h1, h2, h3, -⟩ := setInput_switch e i b w hi
  have h4 := h3 hb
  have hfl := setInput_flags e i b w
  have hco := setInput_core e i b w
  have hbit : ∀ j, 2 ≤ j → (setInput e i b w).dw.inp.filtered.getLsbD j = w.dw.inp.filtered.getLsbD j := by
    intro j hj
    rw [setInput_filtered e i j b w (by omega), if_neg (by omega)]
  generalize setInput e i b w = v at h1 h2 h4 hfl hco hbit
  obtain ⟨a1, a2, a3, a4, a5, a6, a7, a8, a9, a10, a11, a12, a13, a14, a15, a17⟩ := h
  have hdr : driveFaultCause v.dw = driveFaultCause w.dw := by unfold driveFaultCause; rw [h1, h2.fault]
  refine ⟨a1, hco.settledF.trans a2, hco.halted.trans a3, by rw [hfl]; exact a4, (hbit 2 (by omega)).trans a5,
    (hbit 3 (by omega)).trans a6, (hbit 4 (by omega)).trans a7, by rw [hco.state]; exact a8, ?_, hco.plaus.trans a10, a11,
    h2.pend.trans a12, a13, ?_, by rw [h1]; exact a15, by rw [h1]; exact a17⟩
  · unfold rankFour at a9 ⊢; rw [hdr, hfl, h4, hco.state, hco.plaus]; exact a9
  · rcases h2.push with hp | hp
    · rw [hp]; exact a14
    · rw [hp]; decide

end Sys2Proof.Machine
end

