-- ==== Sys2Proof/Laws/DoorRows.lean ====
section
/-!
SUPPORT. What the rows of Table 1.6 make of a calm doorway, one lemma per occurrence at its engine.
-/

namespace Sys2Proof.Machine

/-! ## Entries whatever edges wait -/

/-- The state machine's state, phase and cause. -/
structure Work.Is (w : Work) (st : DoorState) (ph : Phase) (c : Cause) : Prop where
  state : w.dw.sm.state = st
  phase : w.dw.sm.phase = ph
  cause : w.dw.sm.cause = c

theorem Work.Is.of_sm {w v : Work} {st ph c} (h : w.Is st ph c) (hs : v.dw.sm = w.dw.sm) : v.Is st ph c :=
  ⟨by rw [hs]; exact h.state, by rw [hs]; exact h.phase, by rw [hs]; exact h.cause⟩

theorem Work.At.is {w : Work} {st ph c} (h : w.At st ph c) : w.Is st ph c := ⟨h.state, h.phase, h.cause⟩

theorem Work.At.mk' {w : Work} {st ph c} (h : w.Is st ph c) (he : w.dw.sm.edges = noEdges) : w.At st ph c :=
  ⟨h.state, h.phase, h.cause, he⟩

theorem entryMarks_is {e : DoorEnv} {st o : DoorState} {p : Phase} {v : Work} {s ph c} (h : v.Is s ph c) :
    (entryMarks e st o p v).Is s ph c := by
  have h2 : ∀ (b : Prop) (_ : Decidable b) (g : DoorCounters → DoorCounters), (if b then v.count g else v).Is s ph c := by
    intro b _ g; split
    · exact ⟨h.state, h.phase, h.cause⟩
    · exact h
  have hend : ∀ (u : Work) (f : DoorSm → DoorSm) n, u.Is s ph c → (∀ m, (f m).state = m.state ∧ (f m).phase = m.phase ∧ (f m).cause = m.cause) →
      (cycleEnd n (u.sm f)).Is s ph c := by
    intro u f n hu hf
    have hx : ∀ v : Work, v.Is s ph c → (cycleEnd n v).Is s ph c := fun v hv => hv.of_sm (cycleEnd_sm _ _)
    exact hx _ ⟨(hf _).1.trans hu.state, (hf _).2.1.trans hu.phase, (hf _).2.2.trans hu.cause⟩
  cases st with
  | locked => exact hend _ _ _ (h2 _ _ _) (fun _ => ⟨rfl, rfl, rfl⟩)
  | released => exact hend _ _ _ (h2 _ _ _) (fun _ => ⟨rfl, rfl, rfl⟩)
  | unlocking => exact h
  | opening => exact ⟨h.state, h.phase, h.cause⟩
  | opened => exact ⟨h.state, h.phase, h.cause⟩
  | closing =>
    show (if o = .obstructed then _ else _ : Work).Is _ _ _
    split
    · exact ⟨h.state, h.phase, h.cause⟩
    · exact h
  | reopening => exact h.of_sm rfl
  | obstructed => exact h.of_sm rfl
  | closedUnlocked => exact ⟨h.state, h.phase, h.cause⟩
  | stopped => exact h.of_sm rfl
  | egress => exact ⟨h.state, h.phase, h.cause⟩
  | isolated => exact h.of_sm (cycleEnd_sm _ _)
  | fault => exact h.of_sm (by show ((cycleEnd _ v).emit _ |>.emit _).dw.sm = _; exact cycleEnd_sm _ v)
  | maint => exact h

/-- An entry leaves the state machine in the state entered; without a cause of its own the cause stays (R34, R66). -/
theorem enter_is (e : DoorEnv) (st : DoorState) (ph : Phase) (cause : Option Cause) (w : Work) :
    (enter e st ph cause w).Is st ph (cause.getD w.dw.sm.cause) := by
  obtain ⟨u, hu, -, -, -, -, h⟩ := enter_shape e st ph cause w
  have h1 : (u.sm (entered e st ph cause)).Is st ph (cause.getD w.dw.sm.cause) :=
    ⟨rfl, rfl, by show cause.getD u.dw.sm.cause = _; rw [hu]⟩
  rw [h]
  split
  · exact h1
  · refine entryMarks_is ?_
    split
    · exact h1.of_sm (leaveFault_sm _)
    · exact h1

theorem seeLevels_is {e : DoorEnv} {w : Work} {st ph c} (h : w.Is st ph c) : (seeLevels e w).Is st ph c :=
  ⟨h.state, h.phase, h.cause⟩

theorem maintStops_is {o r : Nat} {w : Work} {st ph c} (h : w.Is st ph c) : (maintStops o r w).Is st ph c := by
  unfold maintStops; split
  · exact h
  · exact ⟨h.state, h.phase, h.cause⟩

/-! ## Settling (R39, R67) -/

theorem settle_is (e : DoorEnv) (w : Work) (hi : w.dw.sm.flags.isolatedByCmd = false) (ht : e.tlPresent = false) :
    (settle e w).Is (settled e w.dw) .none .settled := by
  have hr : e.release = true := by
    unfold DoorEnv.tlPresent at ht
    cases h : e.release
    · rw [h] at ht; simp at ht
    · rfl
  have hm : (maintStops 3 0 w).dw.sm.flags = w.dw.sm.flags ∧ (maintStops 3 0 w).dw.inp = w.dw.inp
      ∧ (maintStops 3 0 w).dw.door = w.dw.door ∧ (maintStops 3 0 w).dw.step = w.dw.step :=
    ⟨by unfold maintStops; split <;> rfl, maintStops_inp _ _ _, maintStops_door _ _ _, maintStops_step _ _ _⟩
  unfold settle
  dsimp only
  generalize maintStops 3 0 w = v at hm
  obtain ⟨h1, h2, h3, h4⟩ := hm
  generalize hu : (((v.door _).step _).sm _ : Work) = u
  have hu1 : u.dw.sm.flags.isolatedByCmd = false := by rw [← hu]; show v.dw.sm.flags.isolatedByCmd = false; rw [h1]; exact hi
  have hu2 : u.dw.inp = w.dw.inp := by rw [← hu]; exact h2
  have hu3 : u.dw.door.hall = w.dw.door.hall ∧ u.dw.door.flags = w.dw.door.flags := by
    rw [← hu]
    exact ⟨by show v.dw.door.hall = _; rw [h3], by show v.dw.door.flags = _; rw [h3]⟩
  have hu4 : u.dw.step.flags = w.dw.step.flags := by
    rw [← hu]; show v.dw.step.flags = _; rw [h4]
  have hdcs : u.dw.dcs = w.dw.dcs := by unfold Doorway.dcs Doorway.input; rw [hu2]
  have hdls : u.dw.dls = w.dw.dls := by unfold Doorway.dls Doorway.input; rw [hu2]
  have hwin : inClosedWindow e u.dw = inClosedWindow e w.dw := by unfold inClosedWindow; rw [hu3.1, hu3.2]
  have hpcl : pcl e u.dw = pcl e w.dw := by unfold pcl; rw [hdcs, hdls, hwin]
  have hst : stepRetracted e u.dw = stepRetracted e w.dw := by unfold stepRetracted Doorway.stepHomed; rw [hu4]
  rw [hu1, hpcl, hst, hdcs, hwin, ht, hr]
  simp only [Bool.false_eq_true, if_false, if_true]
  unfold settled
  split
  · exact (enter_is e .released .none (some .settled) u).of_sm (doorOff_sm _)
  · split
    · exact (enter_is e .closedUnlocked .none (some .settled) u).of_sm (doorHold_sm _ _)
    · exact (enter_is e .stopped .none (some .settled) u).of_sm (Work.door_sm _ _)

/-! ## Ranks 1 to 4 (Table 1.5) -/

/-- What a tick does before it looks at the ranks. -/
def tickMarks (e : DoorEnv) (w : Work) : Work :=
  solenoidCheck e (lockTiming e (permitCheck e (w.obst (fun q => { q with pending := none }))))

/-- The same, with the conditions that no longer hold forgotten. -/
def tickPre (e : DoorEnv) (w : Work) : Work := clearGone e (tickMarks e w)

/-- A tick of an engine that runs: the first marks, ranks 1 to 3, and the later ranks with the trip that waits. -/
theorem tick_awake {e : DoorEnv} {w : Work} (h : w.dw.Awake e) (f : Work → Work) :
    doorTickWith e f w = seeLevels e (match firstRanks e (tickPre e w) with
      | some x => dropEdges x
      | none => laterRanks e f w.dw.obst.pending (tickPre e w)) := by
  unfold doorTickWith
  rw [h.fitted, h.running, h.settled]
  rfl

/-- The tick's first marks leave the inputs and the state machine but for two flags. -/
structure Work.Marked (w v : Work) : Prop where
  inp    : v.dw.inp = w.dw.inp
  state  : v.dw.sm.state = w.dw.sm.state
  phase  : v.dw.sm.phase = w.dw.sm.phase
  cause  : v.dw.sm.cause = w.dw.sm.cause
  edges  : v.dw.sm.edges = w.dw.sm.edges
  maint  : v.dw.sm.maint = w.dw.sm.maint
  isol   : v.dw.sm.flags.isolatedByCmd = w.dw.sm.flags.isolatedByCmd
  unlock : v.dw.sm.flags.unlockSeen = w.dw.sm.flags.unlockSeen
  door   : v.dw.door.hall = w.dw.door.hall ∧ v.dw.door.flags = w.dw.door.flags ∧ v.dw.door.learnt = w.dw.door.learnt
    ∧ v.dw.door.faultCode = w.dw.door.faultCode
  step   : v.dw.step.faultCode = w.dw.step.faultCode ∧ v.dw.step.flags.homed = w.dw.step.flags.homed

theorem Work.Marked.refl (w : Work) : w.Marked w := ⟨rfl, rfl, rfl, rfl, rfl, rfl, rfl, rfl, ⟨rfl, rfl, rfl, rfl⟩, ⟨rfl, rfl⟩⟩

theorem Work.Marked.trans {u v w : Work} (h : u.Marked v) (k : v.Marked w) : u.Marked w :=
  ⟨k.inp.trans h.inp, k.state.trans h.state, k.phase.trans h.phase, k.cause.trans h.cause, k.edges.trans h.edges,
    k.maint.trans h.maint, k.isol.trans h.isol, k.unlock.trans h.unlock,
    ⟨k.door.1.trans h.door.1, k.door.2.1.trans h.door.2.1, k.door.2.2.1.trans h.door.2.2.1, k.door.2.2.2.trans h.door.2.2.2⟩,
    ⟨k.step.1.trans h.step.1, k.step.2.trans h.step.2⟩⟩

theorem clearGone_marked (e : DoorEnv) (w : Work) : w.Marked (clearGone e w) := by
  have h1 : ∀ (c : Bool) (v u : Work), w.Marked v → w.Marked u → w.Marked (if c = true then v else u) := by
    intro c v u hv hu; cases c <;> assumption
  unfold clearGone
  dsimp only
  have ha : w.Marked (if (w.dw.sm.flags.plausibility && !implausible w.dw && !dcsImplausible e w.dw) = true then
      w.smFlags (fun f => { f with plausibility := false }) else w) :=
    h1 _ _ _ ⟨rfl, rfl, rfl, rfl, rfl, rfl, rfl, rfl, ⟨rfl, rfl, rfl, rfl⟩, ⟨rfl, rfl⟩⟩ (Work.Marked.refl w)
  generalize (if (w.dw.sm.flags.plausibility && !implausible w.dw && !dcsImplausible e w.dw) = true then
      w.smFlags (fun f => { f with plausibility := false }) else w) = v at ha ⊢
  exact h1 _ _ _ (ha.trans ⟨rfl, rfl, rfl, rfl, rfl, rfl, rfl, rfl, ⟨rfl, rfl, rfl, rfl⟩, ⟨rfl, rfl⟩⟩) ha

theorem tickMarks_marked (e : DoorEnv) (w : Work) : w.Marked (tickMarks e w) := by
  have ho : w.Marked (w.obst (fun q => { q with pending := none })) :=
    ⟨rfl, rfl, rfl, rfl, rfl, rfl, rfl, rfl, ⟨rfl, rfl, rfl, rfl⟩, ⟨rfl, rfl⟩⟩
  have hp : ∀ v : Work, v.Marked (permitCheck e v) := by
    intro v; unfold permitCheck; split
    · exact ⟨rfl, rfl, rfl, rfl, rfl, rfl, rfl, rfl, ⟨rfl, rfl, rfl, rfl⟩, ⟨rfl, rfl⟩⟩
    · exact Work.Marked.refl v
  have hl : ∀ v : Work, v.Marked (lockTiming e v) := by
    intro v; unfold lockTiming; split
    · exact ⟨rfl, rfl, rfl, rfl, rfl, rfl, rfl, rfl, ⟨rfl, rfl, rfl, rfl⟩, ⟨rfl, rfl⟩⟩
    · exact Work.Marked.refl _
  have hs : ∀ v : Work, v.Marked (solenoidCheck e v) := by
    intro v; unfold solenoidCheck; split
    · exact ⟨rfl, rfl, rfl, rfl, rfl, rfl, rfl, rfl, ⟨rfl, rfl, rfl, rfl⟩, ⟨rfl, rfl⟩⟩
    · exact Work.Marked.refl _
  exact ((ho.trans (hp _)).trans (hl _)).trans (hs _)

theorem tickPre_marked (e : DoorEnv) (w : Work) : w.Marked (tickPre e w) := (tickMarks_marked e w).trans (clearGone_marked e _)

/-- Of the state machine's flags only the lock solenoid's changes before the conditions are looked at. -/
theorem tickMarks_flags (e : DoorEnv) (w : Work) :
    (∃ b, (tickMarks e w).dw.sm = { w.dw.sm with flags := { w.dw.sm.flags with solenoidOff := b } })
      ∧ (tickMarks e w).dw.step.flags = w.dw.step.flags := by
  have hl : (lockTiming e (permitCheck e (w.obst (fun q => { q with pending := none })))).dw.sm = w.dw.sm := by
    rw [lockTiming_sm, permitCheck_sm]; rfl
  have hp : ∀ v : Work, (permitCheck e v).dw.step.flags = v.dw.step.flags := by
    intro v; unfold permitCheck; split <;> rfl
  unfold tickMarks
  obtain ⟨b, hb⟩ := solenoidCheck_dw e (lockTiming e (permitCheck e (w.obst (fun q => { q with pending := none }))))
  refine ⟨⟨b, ?_⟩, ?_⟩
  · rw [hb, ← hl]; rfl
  · rw [solenoidCheck_step, lockTiming_step, hp]; rfl

/-- Edges ignored beside a higher rank leave the state machine where it stands. -/
theorem dropEdges_is {w : Work} {st ph c} (h : w.Is st ph c) : (dropEdges w).Is st ph c := by
  have hb : ∀ (p : Prop) (_ : Decidable p) (f : Work → Work) (v : Work), (∀ u : Work, u.Is st ph c → (f u).Is st ph c) →
      v.Is st ph c → (if p then f v else v).Is st ph c := by
    intro p _ f v hf hv; split
    · exact hf v hv
    · exact hv
  have hi : ∀ u : Work, u.Is st ph c → (ignoreOpen u).Is st ph c := fun _ hu => ⟨hu.state, hu.phase, hu.cause⟩
  have hk : ∀ u : Work, u.Is st ph c → (ignoreButton u).Is st ph c := fun _ hu => ⟨hu.state, hu.phase, hu.cause⟩
  unfold dropEdges
  dsimp only
  exact hb _ _ _ _ hi (hb _ _ _ _ hi (hb _ _ _ _ hi (hb _ _ _ _ hk ⟨h.state, h.phase, h.cause⟩)))

theorem Doorway.Calm.awake {e : DoorEnv} {w : Doorway} (h : w.Calm e) : w.Awake e := ⟨h.fitted, h.settled, h.running, h.valid⟩

/-- Rank 2: DIS isolates (R43). -/
theorem tick_isolates {e : DoorEnv} {w : Work} (h : w.dw.Awake e) (f : Work → Work) (hd : w.dw.dis = true)
    (hs : w.dw.sm.state ≠ .isolated) : (doorTickWith e f w).Is .isolated .none .isolSwitch := by
  have hm := tickPre_marked e w
  have hv : (tickPre e w).dw.inp.flags.valid = true := by rw [hm.inp]; exact h.valid
  have hdis : (tickPre e w).dw.dis = true := by unfold Doorway.dis Doorway.input; rw [hm.inp]; exact hd
  have hst : ¬(tickPre e w).dw.sm.state = .isolated := by rw [hm.state]; exact hs
  have key : ∀ v : Work, (enterIsolated e .isolSwitch v).Is .isolated .none .isolSwitch := by
    intro v
    have h1 := enter_is e .isolated .none (some .isolSwitch) (maintStops 3 0 v)
    unfold enterIsolated
    dsimp only
    generalize hx : ((enter e .isolated .none (some .isolSwitch) (maintStops 3 0 v)).sm _) = x
    have h0 : x.Is .isolated .none .isolSwitch := by rw [← hx]; exact ⟨h1.state, h1.phase, h1.cause⟩
    have h2 : (doorOff x).Is .isolated .none .isolSwitch := h0.of_sm (doorOff_sm _)
    split
    · exact h2
    · exact h2.of_sm (by rw [startRetract_sm, cycleBegin_sm])
  have hr : firstRanks e (tickPre e w) = some (enterIsolated e .isolSwitch (tickPre e w)) := by
    unfold firstRanks
    simp only [hv, hdis, hst, Bool.not_true, Bool.false_eq_true, if_false, if_true]
  rw [tick_awake h, hr]
  exact seeLevels_is (dropEdges_is (key _))

/-- Rank 3: an egress input brings EGRESS (R41). -/
theorem tick_egress {e : DoorEnv} {w : Work} (h : w.dw.Awake e) (f : Work → Work) (hd : w.dw.dis = false)
    (hx : (w.dw.eehIn || w.dw.eeaOut) = true) (hs : w.dw.sm.state ≠ .egress) :
    (doorTickWith e f w).Is .egress .none (if w.dw.eehIn then .egressInside else .accessOutside) := by
  have hm := tickPre_marked e w
  have hv : (tickPre e w).dw.inp.flags.valid = true := by rw [hm.inp]; exact h.valid
  have hdis : (tickPre e w).dw.dis = false := by unfold Doorway.dis Doorway.input; rw [hm.inp]; exact hd
  have he : (tickPre e w).dw.eehIn = w.dw.eehIn ∧ (tickPre e w).dw.eeaOut = w.dw.eeaOut := by
    unfold Doorway.eehIn Doorway.eeaOut Doorway.input; rw [hm.inp]; exact ⟨rfl, rfl⟩
  have hst : ¬(tickPre e w).dw.sm.state = .egress := by rw [hm.state]; exact hs
  have key : (enterEgress e (tickPre e w)).Is .egress .none (if w.dw.eehIn then .egressInside else .accessOutside) := by
    have h1 := enter_is e .egress .none (some (if (tickPre e w).dw.eehIn then .egressInside else .accessOutside)) (maintStops 3 0 (tickPre e w))
    unfold enterEgress
    dsimp only
    rw [he.1] at h1 ⊢
    generalize hy : ((enter e .egress .none _ (maintStops 3 0 (tickPre e w))).sm _) = y
    have h2 : y.Is .egress .none (if w.dw.eehIn then .egressInside else .accessOutside) := by
      rw [← hy]; exact ⟨h1.state, h1.phase, h1.cause⟩
    exact h2.of_sm (by simp [drivesOff])
  have hr : firstRanks e (tickPre e w) = some (enterEgress e (tickPre e w)) := by
    unfold firstRanks
    simp only [hv, hdis, he.1, he.2, hx, hst, Bool.not_true, Bool.false_eq_true, if_false, if_true]
  rw [tick_awake h, hr]
  exact seeLevels_is (dropEdges_is key)

theorem enterFault_is (e : DoorEnv) (cause : Cause) (w : Work) : (enterFault e cause w).Is .fault .none cause := by
  have hg := enter_is e .fault .none (some cause) (maintStops 5 0 w)
  unfold enterFault
  dsimp only
  generalize hv : ((enter e .fault .none (some cause) (maintStops 5 0 w)).sm _) = v
  have h2 : v.Is .fault .none cause := by rw [← hv]; exact ⟨hg.state, hg.phase, hg.cause⟩
  exact h2.of_sm (by simp [drivesOff])

/-- Rank 4: the first condition that holds is taken. -/
theorem tick_faults_eq {e : DoorEnv} {w : Work} (h : w.dw.Awake e) (f : Work → Work) {c : Cause} (hd : w.dw.dis = false)
    (h1 : w.dw.eehIn = false) (h2 : w.dw.eeaOut = false) (hs : w.dw.sm.state ≠ .egress) (hi : w.dw.sm.state ≠ .isolated)
    (hf : w.dw.sm.state ≠ .fault) (hr : rankFour (tickPre e w).dw = some c) :
    doorTickWith e f w = seeLevels e (dropEdges (enterFault e c (tickPre e w))) := by
  have hm := tickPre_marked e w
  have hv : (tickPre e w).dw.inp.flags.valid = true := by rw [hm.inp]; exact h.valid
  have hdis : (tickPre e w).dw.dis = false := by unfold Doorway.dis Doorway.input; rw [hm.inp]; exact hd
  have he : (tickPre e w).dw.eehIn = false ∧ (tickPre e w).dw.eeaOut = false := by
    unfold Doorway.eehIn Doorway.eeaOut Doorway.input at *; rw [hm.inp]; exact ⟨h1, h2⟩
  rw [← hm.state] at hs hi hf
  have hn : firstRanks e (tickPre e w) = none := by
    unfold firstRanks
    simp only [hv, hdis, he.1, he.2, hs, hi, false_and, or_self, Bool.not_true, Bool.false_eq_true, if_false, Bool.or_self]
  rw [tick_awake h, hn]
  unfold laterRanks
  simp only [hi, hf, or_self, if_false, hr]

/-- An entry that does not leave FAULT leaves the drives. -/
theorem enter_drives (e : DoorEnv) (st : DoorState) (ph : Phase) (cause : Option Cause) (w : Work)
    (hf : st = .fault ∨ w.dw.sm.state ≠ .fault) :
    (enter e st ph cause w).dw.door = w.dw.door ∧ (enter e st ph cause w).dw.step = w.dw.step := by
  obtain ⟨u, -, -, hd, hs, -, h⟩ := enter_shape e st ph cause w
  rw [h]
  split
  · exact ⟨hd, hs⟩
  · rename_i hn
    rw [if_neg (by rcases hf with hf | hf
                   · subst hf; exact fun h => hn h.symm
                   · exact hf), entryMarks_door, entryMarks_step]
    exact ⟨hd, hs⟩

theorem enterFault_codes (e : DoorEnv) (c : Cause) (w : Work) :
    (enterFault e c w).dw.door.faultCode = w.dw.door.faultCode ∧ (enterFault e c w).dw.step.faultCode = w.dw.step.faultCode := by
  have h1 : ∀ v : Work, (drivesOff e v).dw.door.faultCode = v.dw.door.faultCode ∧ (drivesOff e v).dw.step.faultCode = v.dw.step.faultCode := by
    intro v
    have hl : ∀ (n : Nat) (x : Work), (stepLose e n x).dw.step.faultCode = x.dw.step.faultCode ∧ (stepLose e n x).dw.door = x.dw.door := by
      intro n x; unfold stepLose; dsimp only; split <;> exact ⟨rfl, rfl⟩
    have ht : ∀ x : Work, (stepTorqueRemoved e x).dw.step.faultCode = x.dw.step.faultCode ∧ (stepTorqueRemoved e x).dw.door = x.dw.door := by
      intro x; unfold stepTorqueRemoved; split
      · exact ⟨rfl, rfl⟩
      · exact hl 2 x
    unfold drivesOff stepOff
    have h2 := congrArg DoorDrive.faultCode (ht (doorOff v)).2
    have h3 := (ht (doorOff v)).1
    exact ⟨h2, h3⟩
  have hm : (maintStops 5 0 w).dw.door = w.dw.door ∧ (maintStops 5 0 w).dw.step = w.dw.step :=
    ⟨maintStops_door _ _ _, maintStops_step _ _ _⟩
  unfold enterFault
  dsimp only
  generalize hv : ((enter e .fault .none (some c) (maintStops 5 0 w)).sm _) = v
  have hd : v.dw.door = w.dw.door ∧ v.dw.step = w.dw.step := by
    rw [← hv]
    have := enter_drives e .fault .none (some c) (maintStops 5 0 w) (.inl rfl)
    exact ⟨this.1.trans hm.1, this.2.trans hm.2⟩
  rw [(h1 v).1, (h1 v).2, hd.1, hd.2]
  exact ⟨rfl, rfl⟩

/-- Rank 4: the first condition that holds brings FAULT with its cause. -/
theorem tick_faults {e : DoorEnv} {w : Work} (h : w.dw.Awake e) (f : Work → Work) {c : Cause} (hd : w.dw.dis = false)
    (h1 : w.dw.eehIn = false) (h2 : w.dw.eeaOut = false) (hs : w.dw.sm.state ≠ .egress) (hi : w.dw.sm.state ≠ .isolated)
    (hf : w.dw.sm.state ≠ .fault) (hr : rankFour (tickPre e w).dw = some c) : (doorTickWith e f w).Is .fault .none c := by
  rw [tick_faults_eq h f hd h1 h2 hs hi hf hr]
  exact seeLevels_is (dropEdges_is (enterFault_is e c _))

/-- A drive's fault code brings FAULT and stays (R128, R182, R219). -/
theorem tick_faultCode {e : DoorEnv} {w : Work} (h : w.dw.Awake e) (f : Work → Work) {c : Cause} (hd : w.dw.dis = false)
    (h1 : w.dw.eehIn = false) (h2 : w.dw.eeaOut = false) (hs : w.dw.sm.state ≠ .egress) (hi : w.dw.sm.state ≠ .isolated)
    (hf : w.dw.sm.state ≠ .fault) (hc : driveFaultCause w.dw = some c) :
    (doorTickWith e f w).Is .fault .none c ∧ (doorTickWith e f w).dw.door.faultCode = w.dw.door.faultCode
      ∧ (doorTickWith e f w).dw.step.faultCode = w.dw.step.faultCode := by
  have hm := tickPre_marked e w
  have hr : rankFour (tickPre e w).dw = some c := by
    have : driveFaultCause (tickPre e w).dw = some c := by
      unfold driveFaultCause at hc ⊢; rw [hm.door.2.2.2, hm.step.1]; exact hc
    unfold rankFour; rw [this]
  refine ⟨tick_faults h f hd h1 h2 hs hi hf hr, ?_⟩
  rw [tick_faults_eq h f hd h1 h2 hs hi hf hr]
  have := enterFault_codes e c (tickPre e w)
  show (dropEdges (enterFault e c (tickPre e w))).dw.door.faultCode = _ ∧ (dropEdges (enterFault e c (tickPre e w))).dw.step.faultCode = _
  rw [dropEdges_door, dropEdges_step]
  exact ⟨this.1.trans hm.door.2.2.2, this.2.trans hm.step.1⟩

theorem tickPre_homed (e : DoorEnv) (w : Work) (hs : w.dw.step.flags.standing = true → w.dw.srs = true) :
    (tickPre e w).dw.stepHomed = w.dw.stepHomed := by
  have hl : (tickMarks e w).dw.step.flags = w.dw.step.flags ∧ (tickMarks e w).dw.inp = w.dw.inp :=
    ⟨(tickMarks_flags e w).2, (tickMarks_marked e w).inp⟩
  unfold tickPre
  generalize tickMarks e w = v at hl ⊢
  unfold clearGone
  dsimp only
  generalize hu : (if (v.dw.sm.flags.plausibility && !implausible v.dw && !dcsImplausible e v.dw) = true then
      v.smFlags (fun f => { f with plausibility := false }) else v) = u
  have hu' : u.dw.step.flags = w.dw.step.flags ∧ u.dw.inp = w.dw.inp := by rw [← hu]; split <;> exact hl
  have hsrs : u.dw.srs = w.dw.srs := by unfold Doorway.srs Doorway.input; rw [hu'.2]
  split
  · rename_i h
    rw [hu'.1, hsrs] at h
    cases hq : w.dw.step.flags.standing
    · rw [hq] at h; simp at h
    · rw [hq, hs hq] at h; simp at h
  · unfold Doorway.stepHomed; rw [hu'.1]

/-- Leaving rank 2 or 3: the doorway settles. -/
theorem tick_settles {e : DoorEnv} {w : Work} (h : w.dw.Awake e) (f : Work → Work) (hd : w.dw.dis = false)
    (h1 : w.dw.eehIn = false) (h2 : w.dw.eeaOut = false) (hs : w.dw.sm.state = .egress ∨ w.dw.sm.state = .isolated)
    (hc : w.dw.sm.flags.isolatedByCmd = false) (ht : e.tlPresent = false)
    (hn : w.dw.step.flags.standing = true → w.dw.srs = true) :
    (doorTickWith e f w).Is (settled e w.dw) .none .settled := by
  have hm := tickPre_marked e w
  have hv : (tickPre e w).dw.inp.flags.valid = true := by rw [hm.inp]; exact h.valid
  have hdis : (tickPre e w).dw.dis = false := by unfold Doorway.dis Doorway.input; rw [hm.inp]; exact hd
  have he : (tickPre e w).dw.eehIn = false ∧ (tickPre e w).dw.eeaOut = false := by
    unfold Doorway.eehIn Doorway.eeaOut Doorway.input at *; rw [hm.inp]; exact ⟨h1, h2⟩
  have hq : (tickPre e w).dw.sm.state = .egress ∨ (tickPre e w).dw.sm.state = .isolated ∧ (tickPre e w).dw.sm.flags.isolatedByCmd = false := by
    rw [hm.state, hm.isol]
    rcases hs with hs | hs
    · exact .inl hs
    · exact .inr ⟨hs, hc⟩
  have hk : settled e (tickPre e w).dw = settled e w.dw := by
    have hr : stepRetracted e (tickPre e w).dw = stepRetracted e w.dw := by
      unfold stepRetracted; rw [tickPre_homed e w hn]
    have hin : inClosedWindow e (tickPre e w).dw = inClosedWindow e w.dw := by unfold inClosedWindow; rw [hm.door.1, hm.door.2.1]
    unfold settled pcl Doorway.dcs Doorway.dls Doorway.input
    rw [hr, hin, hm.inp]
  have hr : firstRanks e (tickPre e w) = some (settle e (tickPre e w)) := by
    unfold firstRanks
    simp only [hv, hdis, he.1, he.2, Bool.not_true, Bool.false_eq_true, if_false, Bool.or_self, Bool.not_eq_true', hq, if_true]
  rw [tick_awake h, hr, ← hk]
  exact seeLevels_is (dropEdges_is (settle_is e _ (by rw [hm.isol]; exact hc) ht))

/-! ## Pushbuttons -/

/-- A calm doorway is calm after a pushbutton's transition. -/
theorem setInput_button_calm {e : DoorEnv} {i : Nat} {w : Work} (h : w.dw.Calm e) (hi : i = 5 ∨ i = 6 ∨ i = 7)
    (hf : w.dw.inp.filtered.getLsbD i = false) : (setInput e i true w).dw.Calm e := by
  obtain ⟨h1, h2, h3, h4⟩ := setInput_button e i w hi hf
  have hfl := setInput_flags e i true w
  have hbit : ∀ j, j < 5 → (setInput e i true w).dw.inp.filtered.getLsbD j = w.dw.inp.filtered.getLsbD j := by
    intro j hj
    rw [setInput_filtered e i j true w (by omega), if_neg (by omega)]
  generalize setInput e i true w = v at h1 h2 h3 h4 hfl hbit
  obtain ⟨a1, a2, a3, a4, a5, a6, a7, a8, a9, a10, a11, a12, a13, a14, a15, a17⟩ := h
  have hdr : driveFaultCause v.dw = driveFaultCause w.dw := by unfold driveFaultCause; rw [h1, h2]
  refine ⟨a1, by rw [h4]; exact a2, by rw [h4]; exact a3, by rw [hfl]; exact a4, ?_, ?_, ?_, by rw [h4]; exact a8, ?_,
    by rw [h4]; exact a10, a11, by rw [h3]; exact a12, a13, by rw [h1]; exact a14, by rw [h2]; exact a15, by rw [h2]; exact a17⟩
  · exact (hbit 2 (by decide)).trans a5
  · exact (hbit 3 (by decide)).trans a6
  · exact (hbit 4 (by decide)).trans a7
  · unfold rankFour at a9 ⊢; rw [hdr, hfl, h4]; exact a9

/-- On a course without level rows the state machine stays as it is. -/
theorem levelRows_sm (e : DoorEnv) {w : Work} (hm : w.dw.sm.state ≠ .maint) (hq : quiet w.dw.sm.state w.dw.sm.phase = true) :
    (levelRows e w).dw.sm = w.dw.sm := by
  have hc : (checkDeployed e w).dw.sm = w.dw.sm := checkDeployed_sm e w
  have hm' : (checkDeployed e w).dw.sm.state ≠ .maint := by rw [hc]; exact hm
  have hco := course_own hm'
  rw [hc] at hco
  unfold levelRows
  dsimp only
  rw [hco]
  dsimp only
  split <;> first
    | exact hc
    | (exfalso; simp_all [quiet]; done)
    | (have : Doorway.windsUp (checkDeployed e w).dw = false := by
         unfold Doorway.windsUp; rw [show ((checkDeployed e w).dw.sm.state == .maint) = false by simpa using hm']; rfl
       rw [this]; exact hc)

/-- An open pushbutton in RELEASED (R24, R30, Table 1.6). -/
theorem onOpenButton_is {e : DoorEnv} {outside : Bool} {w : Work} (h : w.dw.Calm e) (hn : w.dw.sm.edges = noEdges)
    (hs : w.dw.sm.state = .released) (ho : e.openAllowed = true)
    (hf : w.dw.inp.filtered.getLsbD (if outside then 6 else 5) = false) :
    (onOpenButton e outside true w).Is .unlocking .none (if outside then .openPbOut else .openPbIn) := by
  have hi : (if outside then 6 else 5) = 5 ∨ (if outside then 6 else 5) = 6 ∨ (if outside then 6 else 5) = 7 := by cases outside <;> simp
  have hc := setInput_button_calm h hi hf
  have hsm := (setInput_button e _ w hi hf).2.2.2
  have hk : solenoidCheck e (setInput e (if outside then 6 else 5) true w) = setInput e (if outside then 6 else 5) true w := by
    have := course_own (w := (setInput e (if outside then 6 else 5) true w).dw) (by rw [hsm]; show w.dw.sm.state ≠ _; rw [hs]; decide)
    have hst : (setInput e (if outside then 6 else 5) true w).dw.sm.state = .released := by rw [hsm]; exact hs
    rw [hst] at this
    exact solenoidCheck_off e (by rw [this]; intro h; cases h) (by rw [this]; intro h; cases h)
  unfold onOpenButton doorTick
  rw [tick_calm hc hk]
  generalize setInput e (if outside then 6 else 5) true w = v at hc hsm
  have hl := levelRows_sm e (w := v) (by rw [hsm]; show w.dw.sm.state ≠ _; rw [hs]; decide) (by rw [hsm]; show quiet w.dw.sm.state w.dw.sm.phase = true; rw [hs]; rfl)
  show (seeLevels e (takeEdges e (levelRows e v))).Is _ _ _
  generalize levelRows e v = u at hl
  have he : u.dw.sm.edges = { openIn := !outside, openOut := outside, cpb := false, auto := false } := by
    rw [hl, hsm]; dsimp only; rw [hn]; cases outside <;> rfl
  have hu : u.dw.sm.state = .released := by rw [hl, hsm]; exact hs
  refine seeLevels_is ?_
  unfold takeEdges
  dsimp only
  rw [he]
  have hopen : ∀ (c : Cause) (x : Work), x.dw.sm.state = .released → x.dw.sm.edges = noEdges → (doOpen e c x).Is .unlocking .none c := by
    intro c x hx hxe
    unfold doOpen
    rw [ho, hx]
    exact (enterUnlocking_at e c x hxe (by rw [hx]; decide)).is
  cases outside
  · simp only [Bool.not_false, if_true, Bool.false_eq_true, if_false, Bool.false_and]
    exact hopen _ _ hu rfl
  · simp only [Bool.not_true, if_true, Bool.false_eq_true, if_false, Bool.false_and]
    exact hopen _ _ hu rfl

/-- CPB in OPEN (R24, Table 1.6). -/
theorem onCloseButton_is {e : DoorEnv} {w : Work} (h : w.dw.Calm e) (hn : w.dw.sm.edges = noEdges)
    (hs : w.dw.sm.state = .opened) (hw : e.cfg.preCloseWarn e.d ≠ 0) (hf : w.dw.inp.filtered.getLsbD 7 = false) :
    (onCloseButton e true w).Is .closing .warn .closeCpb := by
  have hc := setInput_button_calm h (.inr (.inr rfl)) hf
  have hsm := (setInput_button e 7 w (.inr (.inr rfl)) hf).2.2.2
  have hk : solenoidCheck e (setInput e 7 true w) = setInput e 7 true w := by
    have := course_own (w := (setInput e 7 true w).dw) (by rw [hsm]; show w.dw.sm.state ≠ _; rw [hs]; decide)
    have hst : (setInput e 7 true w).dw.sm.state = .opened := by rw [hsm]; exact hs
    rw [hst] at this
    exact solenoidCheck_off e (by rw [this]; intro h; cases h) (by rw [this]; intro h; cases h)
  unfold onCloseButton doorTick
  rw [tick_calm hc hk]
  generalize setInput e 7 true w = v at hc hsm
  have hl := levelRows_sm e (w := v) (by rw [hsm]; show w.dw.sm.state ≠ _; rw [hs]; decide) (by rw [hsm]; show quiet w.dw.sm.state w.dw.sm.phase = true; rw [hs]; rfl)
  show (seeLevels e (takeEdges e (levelRows e v))).Is _ _ _
  generalize levelRows e v = u at hl
  have he : u.dw.sm.edges = { openIn := false, openOut := false, cpb := true, auto := false } := by
    rw [hl, hsm]; dsimp only; rw [hn]; rfl
  have hu : u.dw.sm.state = .opened := by rw [hl, hsm]; exact hs
  refine seeLevels_is ?_
  unfold takeEdges
  dsimp only
  rw [he]
  simp only [if_true, Bool.false_eq_true, if_false, Bool.false_and]
  have hd : (decide ((u.sm (fun m => { m with edges := { openIn := false, openOut := false, cpb := false, auto := false } })).dw.sm.state = .egress)
      || decide ((u.sm (fun m => { m with edges := { openIn := false, openOut := false, cpb := false, auto := false } })).dw.sm.state = .isolated)) = false := by
    show (decide (u.dw.sm.state = .egress) || decide (u.dw.sm.state = .isolated)) = false
    rw [hu]; rfl
  rw [hd]
  simp only [Bool.false_eq_true, if_false]
  unfold doLocalClose
  show (match u.dw.sm.state with | .unlocking => _ | .opening => _ | .opened => _ | .stopped => _ | .obstructed => _ | .closedUnlocked => _ | _ => _ : Work).Is _ _ _
  rw [hu]
  exact (enterWarn_at e (some .closeCpb) false _ rfl (by show u.dw.sm.state ≠ _; rw [hu]; decide) hw).is

/-! ## Flags that entries leave -/


/-- The flags that no entry to a state writes. -/
structure Work.SameMarks (w v : Work) : Prop where
  unlockFailed : v.dw.sm.flags.unlockFailed = w.dw.sm.flags.unlockFailed
  isol : v.dw.sm.flags.isolatedByCmd = w.dw.sm.flags.isolatedByCmd
  grace : v.dw.sm.flags.grace = w.dw.sm.flags.grace
  solenoid : v.dw.sm.flags.solenoidOff = w.dw.sm.flags.solenoidOff
  dls : v.dw.sm.flags.dlsConfirmed = w.dw.sm.flags.dlsConfirmed
  maint : v.dw.sm.maint = w.dw.sm.maint

theorem Work.SameMarks.refl (w : Work) : w.SameMarks w := ⟨rfl, rfl, rfl, rfl, rfl, rfl⟩

theorem Work.SameMarks.trans {u v w : Work} (h : u.SameMarks v) (k : v.SameMarks w) : u.SameMarks w :=
  ⟨k.unlockFailed.trans h.unlockFailed, k.isol.trans h.isol, k.grace.trans h.grace, k.solenoid.trans h.solenoid,
    k.dls.trans h.dls, k.maint.trans h.maint⟩

theorem Work.SameMarks.of_sm {u v w : Work} (h : u.SameMarks v) (hs : w.dw.sm = v.dw.sm) : u.SameMarks w := by
  obtain ⟨h1, h2, h3, h4, h5, h6⟩ := h
  constructor <;> (rw [hs]; assumption)

theorem entryMarks_same (e : DoorEnv) (st o : DoorState) (p : Phase) (w : Work) : w.SameMarks (entryMarks e st o p w) := by
  have h2 : ∀ (b : Prop) (_ : Decidable b) (g : DoorCounters → DoorCounters), w.SameMarks (if b then w.count g else w) := by
    intro b _ g; split
    · exact ⟨rfl, rfl, rfl, rfl, rfl, rfl⟩
    · exact Work.SameMarks.refl w
  have hend : ∀ (u : Work) n, w.SameMarks u → w.SameMarks (cycleEnd n u) := fun u n hu => hu.of_sm (cycleEnd_sm _ _)
  cases st with
  | locked => exact hend _ _ ((h2 _ _ _).trans ⟨rfl, rfl, rfl, rfl, rfl, rfl⟩)
  | released => exact hend _ _ ((h2 _ _ _).trans ⟨rfl, rfl, rfl, rfl, rfl, rfl⟩)
  | unlocking => exact Work.SameMarks.refl w
  | opening => exact ⟨rfl, rfl, rfl, rfl, rfl, rfl⟩
  | opened => exact ⟨rfl, rfl, rfl, rfl, rfl, rfl⟩
  | closing =>
    show w.SameMarks (if o = .obstructed then _ else _ : Work)
    split
    · exact ⟨rfl, rfl, rfl, rfl, rfl, rfl⟩
    · exact Work.SameMarks.refl w
  | reopening => exact (Work.SameMarks.refl w).of_sm rfl
  | obstructed => exact (Work.SameMarks.refl w).of_sm rfl
  | closedUnlocked => exact ⟨rfl, rfl, rfl, rfl, rfl, rfl⟩
  | stopped => exact (Work.SameMarks.refl w).of_sm rfl
  | egress => exact ⟨rfl, rfl, rfl, rfl, rfl, rfl⟩
  | isolated => exact hend _ _ (Work.SameMarks.refl w)
  | fault => exact (hend w _ (Work.SameMarks.refl w)).of_sm rfl
  | maint => exact Work.SameMarks.refl w

theorem enter_same (e : DoorEnv) (st : DoorState) (ph : Phase) (cause : Option Cause) (w : Work) :
    w.SameMarks (enter e st ph cause w) := by
  obtain ⟨u, hu, -, -, -, -, h⟩ := enter_shape e st ph cause w
  have h0 : w.SameMarks u := (Work.SameMarks.refl w).of_sm hu
  have h1 : w.SameMarks (u.sm (entered e st ph cause)) := h0.trans ⟨rfl, rfl, rfl, rfl, rfl, rfl⟩
  rw [h]
  split
  · exact h1
  · refine Work.SameMarks.trans ?_ (entryMarks_same _ _ _ _ _)
    split
    · exact h1.of_sm (leaveFault_sm _)
    · exact h1

/-! ## Level rows -/

theorem Work.At.course {w : Work} {st ph c} (h : w.At st ph c) (hm : st ≠ .maint) : w.dw.course = (st, ph) := by
  rw [course_own (by rw [h.state]; exact hm), h.state, h.phase]

/-- UNLOCKING passes to OPENING once DLS is broken and the step is as the sequence asks (Table 1.6). -/
theorem levelRows_unlocking {e : DoorEnv} {w : Work} {c} (h : w.At .unlocking .none c) (hd : w.dw.dls = false)
    (hs : (decide (e.cfg.stepSequence e.d = 1) || stepDeployed e w.dw) = true) : (levelRows e w).At .opening .none c := by
  have hc : (checkDeployed e w).At .unlocking .none c := h.of_sm (checkDeployed_sm e w)
  have hi : (checkDeployed e w).dw.dls = false := by
    unfold Doorway.dls Doorway.input at hd ⊢; rw [checkDeployed_inp]; exact hd
  have hq : (decide (e.cfg.stepSequence e.d = 1) || stepDeployed e (checkDeployed e w).dw) = true := by
    unfold checkDeployed
    split
    · rw [Bool.or_eq_true] at hs ⊢
      rcases hs with hs | hs
      · exact .inl hs
      · right; unfold stepDeployed; simp [Work.step]
    · exact hs
  unfold levelRows
  dsimp only
  rw [hc.course (by decide)]
  dsimp only
  rw [hi, hq]
  have := enterOpening_at e none (checkDeployed e w) hc.edges (by rw [hc.state]; decide)
  simp only [Option.getD_none, hc.cause] at this
  exact this

/-- CLOSING phase MOVE passes to phase LOCK once DCS is made in the closed window (Table 1.6). -/
theorem levelRows_move {e : DoorEnv} {w : Work} {c} (h : w.At .closing .move c) (hd : w.dw.dcs = true)
    (hs : inClosedWindow e w.dw = true) (hr : w.dw.obst.flags.reflexStop = false) : (levelRows e w).At .closing .lock c := by
  have hc : (checkDeployed e w).At .closing .move c := h.of_sm (checkDeployed_sm e w)
  have hi : (checkDeployed e w).dw.dcs = true := by
    unfold Doorway.dcs Doorway.input at hd ⊢; rw [checkDeployed_inp]; exact hd
  have hw : inClosedWindow e (checkDeployed e w).dw = true := by unfold inClosedWindow at hs ⊢; rw [checkDeployed_door]; exact hs
  have ho : (checkDeployed e w).dw.obst.flags.reflexStop = false := by rw [checkDeployed_obst]; exact hr
  unfold levelRows
  dsimp only
  rw [hc.course (by decide)]
  dsimp only
  rw [hi, hw, ho]
  unfold strokeEnds
  have h2 : (adaptStroke e true (closureMeasured e (checkDeployed e w))).At .closing .move c :=
    hc.of_sm (by rw [adaptStroke_sm, closureMeasured_sm])
  have := enterLock_at e _ h2.edges (by rw [h2.state]; decide)
  rw [h2.cause] at this
  exact this

theorem lockProven_checked {e : DoorEnv} {w : Work} (h : lockProven e w = true) : lockProven e (checkDeployed e w) = true := by
  have hj : w.dw.step.job = .none := by
    unfold lockProven at h; simp only [Bool.and_eq_true, beq_iff_eq] at h; exact h.2
  have : checkDeployed e w = w := by unfold checkDeployed; rw [hj]; rfl
  rw [this]; exact h

/-- Phase LOCK and CLOSED_UNLOCKED end in LOCKED or RELEASED once DLS is confirmed and the step retracted and homed. -/
theorem levelRows_locked {e : DoorEnv} {w : Work} {st ph c} (h : w.At st ph c)
    (hs : st = .closing ∧ ph = .lock ∨ st = .closedUnlocked ∧ w.dw.dcs = true) (hp : lockProven e w = true) (ho : e.cfg.openMode e.d ≠ 1) :
    (levelRows e w).At (closedRest e w) .none c := by
  have hp' := lockProven_checked hp
  have hm : st ≠ .maint := by rcases hs with ⟨hs, -⟩ | ⟨hs, -⟩ <;> rw [hs] <;> decide
  have hc : (checkDeployed e w).At st ph c := h.of_sm (checkDeployed_sm e w)
  have hr : closedRest e (checkDeployed e w) = closedRest e w := by
    unfold closedRest; rw [checkDeployed_sm, checkDeployed_inp]
  have hf := finishClosed_at e (checkDeployed e w) hc.edges ho
  rw [hr, hc.cause] at hf
  unfold levelRows
  dsimp only
  rw [hc.course hm]
  rcases hs with ⟨hs, hph⟩ | ⟨hs, hdc⟩
  · rw [hs, hph]
    dsimp only
    rw [hp']
    have hst : (checkDeployed e w).dw.sm.state = .closing := by rw [hc.state, hs]
    rw [hst]
    exact hf
  · have hdc' : (checkDeployed e w).dw.dcs = true := by
      unfold Doorway.dcs Doorway.input at hdc ⊢; rw [checkDeployed_inp]; exact hdc
    rw [hs]
    dsimp only
    rw [hp', hdc']
    exact hf

/-- LOCKED after a return by the release condition stays so. -/
theorem levelRows_rest {e : DoorEnv} {w : Work} {c} (h : w.At (closedRest e w) .none c) :
    (levelRows e w).At (closedRest e w) .none c := by
  by_cases hx : closedRest e w = .released
  · rw [hx] at h ⊢; exact levelRows_quiet e h rfl
  · have hl : closedRest e w = .locked := by unfold closedRest at hx ⊢; split <;> simp_all
    have hn : (e.release && !w.dw.sm.flags.isolatedByCmd && !w.dw.inp.flags.commonFault) = false := by
      unfold closedRest at hx
      cases hb : (e.release && !w.dw.sm.flags.isolatedByCmd && !w.dw.inp.flags.commonFault)
      · rfl
      · rw [hb] at hx; exact absurd rfl hx
    rw [hl] at h ⊢
    have hc : (checkDeployed e w).At .locked .none c := h.of_sm (checkDeployed_sm e w)
    unfold levelRows
    dsimp only
    rw [hc.course (by decide)]
    dsimp only
    rw [checkDeployed_sm, checkDeployed_inp]
    have : (e.release && !w.dw.inp.flags.commonFault && !w.dw.sm.flags.isolatedByCmd) = false := by
      cases h1 : e.release <;> cases h2 : w.dw.inp.flags.commonFault <;> cases h3 : w.dw.sm.flags.isolatedByCmd <;> simp_all
    rw [this]
    exact hc

theorem levelRows_rest_sm {e : DoorEnv} {w : Work} {c} (h : w.At (closedRest e w) .none c) : (levelRows e w).dw.sm = w.dw.sm := by
  have hm : w.dw.sm.state ≠ .maint := by rw [h.state]; unfold closedRest; split <;> decide
  by_cases hx : closedRest e w = .released
  · exact levelRows_sm e hm (by rw [h.state, hx]; rfl)
  · have hl : closedRest e w = .locked := by unfold closedRest at hx ⊢; split <;> simp_all
    have hn : (e.release && !w.dw.inp.flags.commonFault && !w.dw.sm.flags.isolatedByCmd) = false := by
      unfold closedRest at hx
      cases h1 : e.release <;> cases h2 : w.dw.inp.flags.commonFault <;> cases h3 : w.dw.sm.flags.isolatedByCmd <;> simp_all
    have hco := course_own (w := (checkDeployed e w).dw) (by rw [checkDeployed_sm]; exact hm)
    rw [checkDeployed_sm, h.state, hl] at hco
    unfold levelRows
    dsimp only
    rw [hco]
    dsimp only
    rw [checkDeployed_sm, checkDeployed_inp, hn]
    exact checkDeployed_sm _ _

/-- A calm tick that ends in a standing with no edge waiting. -/
theorem tick_at {e : DoorEnv} {w : Work} (h : w.dw.Calm e) {f : Work → Work} {st ph c}
    (hf : (levelRows e (f (solenoidCheck e w))).At st ph c) : (doorTickWith e f w).At st ph c := by
  rw [tick_checked h, takeEdges_quiet e hf.edges]
  exact seeLevels_at e hf

/-! ## Timers of the state machine -/

theorem backFromUnlocking_same (e : DoorEnv) (cause : Option Cause) (w : Work) :
    (backFromUnlocking e cause w).dw.sm.flags.unlockFailed = w.dw.sm.flags.unlockFailed
      ∧ (backFromUnlocking e cause w).dw.sm.flags.isolatedByCmd = w.dw.sm.flags.isolatedByCmd
      ∧ (backFromUnlocking e cause w).dw.sm.flags.grace = true ∧ (backFromUnlocking e cause w).dw.inp = w.dw.inp := by
  have hs := enter_same e (closedRest e w) .none cause w
  have hi : (enter e (closedRest e w) .none cause w).dw.inp = w.dw.inp := enter_inp _ _ _ _ _
  unfold backFromUnlocking
  dsimp only
  generalize enter e (closedRest e w) .none cause w = v at hs hi
  rw [startRetract_sm, doorOff_sm, startRetract_inp, doorOff_inp]
  exact ⟨hs.unlockFailed, hs.isol, rfl, hi⟩

/-- UNLOCK_TIMEOUT with DLS still made (R176, R216). -/
theorem onUnlockTimeout_at {e : DoorEnv} {w : Work} {c} (h : w.dw.Calm e) (hs : w.At .unlocking .none c) (hd : w.dw.dls = true)
    (ho : e.cfg.openMode e.d ≠ 1) : (onUnlockTimeout e w).At (closedRest e w) .none c
      ∧ (onUnlockTimeout e w).dw.sm.flags.unlockFailed = true := by
  unfold onUnlockTimeout
  dsimp only
  generalize hv : w.smFlags (fun f => { f with solenoidOff := true }) = v
  have hvs : v.At .unlocking .none c := by rw [← hv]; exact hs.smFlags _
  have hvd : v.dw.dls = true := by rw [← hv]; exact hd
  have hcond : v.dw.sm.state = .unlocking ∧ v.dw.dls = true := ⟨hvs.state, hvd⟩
  rw [if_pos hcond]
  generalize hu : (v.smFlags (fun f => { f with unlockFailed := true })).count
      (fun c => { c with unlockFails := satInc 16 c.unlockFails }) = u
  have hus : u.At .unlocking .none c := by rw [← hu]; exact (hvs.smFlags _).count _
  have huc : u.dw.Calm e := by
    rw [← hu, ← hv]
    obtain ⟨a1, a2, a3, a4, a5, a6, a7, a8, a9, a10, a11, a12, a13, a14, a15, a17⟩ := h
    exact ⟨a1, a2, a3, a4, a5, a6, a7, a8, a9, a10, a11, a12, a13, a14, a15, a17⟩
  have hrest : closedRest e u = closedRest e w := by rw [← hu, ← hv]; rfl
  have huf : u.dw.sm.flags.unlockFailed = true := by rw [← hu]; rfl
  have hb := backFromUnlocking_at e none u hus.edges ho
  have hk := backFromUnlocking_same e none u
  simp only [Option.getD_none, hus.cause] at hb
  have huo : u.dw.sm.flags.solenoidOff = true := by rw [← hu, ← hv]; rfl
  rw [tick_calm huc (solenoidCheck_already e huo)]
  rw [if_pos hus.state]
  generalize backFromUnlocking e none u = x at hb hk
  have hx : closedRest e x = closedRest e u := by unfold closedRest; rw [hk.2.1, hk.2.2.2]
  rw [← hx] at hb
  have hl := levelRows_rest hb
  have hlf : (levelRows e x).dw.sm = x.dw.sm := levelRows_rest_sm hb
  rw [takeEdges_quiet e hl.edges]
  refine ⟨?_, ?_⟩
  · rw [← hrest, ← hx]; exact seeLevels_at e hl
  · show (levelRows e x).dw.sm.flags.unlockFailed = true
    rw [hlf, hk.1]; exact huf

/-- PRE_CLOSE_WARN ends (R37): phase MOVE, with no sensitive edge and the closed window not reached. -/
theorem onWarnEnd_at {e : DoorEnv} {w : Work} {c} (h : w.dw.Calm e) (hs : w.At .closing .warn c)
    (hq : w.dw.obst.seFast = (false, false)) (hd : w.dw.dcs = false) : (onWarnEnd e w).At .closing .move c := by
  have hm := enterMove_at e w hs.edges (by rw [hs.state]; decide) hq
  have hi : (enterMove e w).dw.inp = w.dw.inp := enterMove_inp _ _
  rw [hs.cause] at hm
  unfold onWarnEnd
  refine tick_at h ?_
  rw [hs.unchecked e (by decide)]
  rw [hs.course (by decide), if_pos rfl]
  generalize enterMove e w = v at hm hi
  have hc : (checkDeployed e v).At .closing .move c := hm.of_sm (checkDeployed_sm e v)
  have hdc : (checkDeployed e v).dw.dcs = false := by
    unfold Doorway.dcs Doorway.input at hd ⊢; rw [checkDeployed_inp, hi]; exact hd
  unfold levelRows
  dsimp only
  rw [hc.course (by decide)]
  dsimp only
  rw [hdc]
  exact hc

/-- DWELL ends (Table 1.4). -/
theorem onDwellEnd_at {e : DoorEnv} {w : Work} {c} (h : w.dw.Calm e) (hs : w.At .opened .none c) (hd : e.cfg.dwell e.d ≠ 0)
    (hw : e.cfg.preCloseWarn e.d ≠ 0) : (onDwellEnd e w).At .closing .warn .closeDwell := by
  unfold onDwellEnd
  refine tick_quiet h (hs.unchecked e (by decide)) ?_ rfl
  rw [if_pos ⟨hs.state, hd⟩]
  unfold doLocalClose
  rw [hs.state]
  exact enterWarn_at e (some .closeDwell) false w hs.edges (by rw [hs.state]; decide) hw

/-- REOPEN_DWELL ends (R264): the cause 0x22 or another stays in force. -/
theorem onReopenDwellEnd_at {e : DoorEnv} {w : Work} {c} (h : w.dw.Calm e) (hs : w.At .reopening .reopenDwell c)
    (hw : e.cfg.preCloseWarn e.d ≠ 0) : (onReopenDwellEnd e w).At .closing .warn c := by
  unfold onReopenDwellEnd
  refine tick_quiet h (hs.unchecked e (by decide)) ?_ rfl
  rw [if_pos ⟨hs.state, hs.phase⟩]
  have := enterWarn_at e none false w hs.edges (by rw [hs.state]; decide) hw
  rw [Option.getD_none, hs.cause] at this
  exact this

theorem checkDeployed_retracted (e : DoorEnv) (w : Work) : stepRetracted e (checkDeployed e w).dw = stepRetracted e w.dw := by
  unfold checkDeployed; split <;> rfl

/-- The state after the last lock attempt: CLOSED_UNLOCKED, whose rows act at once (R178, Table 1.6). -/
def afterLastAttempt (e : DoorEnv) (w : Doorway) : DoorState :=
  if w.dcs = false then .stopped
  else if w.dls = true ∧ stepRetracted e w = true ∧ (checkDeployed e ⟨w, []⟩).dw.step.job = .none then closedRest e ⟨w, []⟩
  else .closedUnlocked

/-- The last lock attempt ends without DLS confirmed (R178). -/
theorem onLockAttemptEnd_last {e : DoorEnv} {w : Work} {c} (h : w.dw.Calm e) (hs : w.At .closing .lock c)
    (hd : w.dw.sm.flags.dlsConfirmed = false) (ha : e.cfg.lockRetries e.d + 1 ≤ w.dw.door.attempt) (ho : e.cfg.openMode e.d ≠ 1) :
    (onLockAttemptEnd e w).At (afterLastAttempt e w.dw) .none c := by
  unfold onLockAttemptEnd
  rw [hs.course (by decide), hd]
  simp only [Bool.not_false, and_self, if_true]
  rw [if_neg (by omega)]
  refine tick_at h ?_
  rw [hs.unchecked e (by decide), hs.course (by decide), if_pos rfl]
  have hms : (maintStops 3 0 w).At .closing .lock c := by
    unfold maintStops; split
    · exact hs
    · exact ⟨hs.state, hs.phase, hs.cause, hs.edges⟩
  have hmd : (maintStops 3 0 w).dw.sm.flags = w.dw.sm.flags := by unfold maintStops; split <;> rfl
  have hmi : (maintStops 3 0 w).dw.inp = w.dw.inp := maintStops_inp _ _ _
  have hmt : (maintStops 3 0 w).dw.step = w.dw.step := maintStops_step _ _ _
  have he := enter_at e .closedUnlocked .none none (maintStops 3 0 w) hms.edges (by decide) (by decide)
  have hsm := enter_same e .closedUnlocked .none none (maintStops 3 0 w)
  have hei : (enter e .closedUnlocked .none none (maintStops 3 0 w)).dw.inp = w.dw.inp := (enter_inp _ _ _ _ _).trans hmi
  have het := (enter_drives e .closedUnlocked .none none (maintStops 3 0 w) (.inr (by rw [hms.state]; decide))).2.trans hmt
  rw [Option.getD_none, hms.cause] at he
  generalize enter e .closedUnlocked .none none (maintStops 3 0 w) = v at he hsm hei het
  have hk : (doorHold e (v.door (fun q => { q with push := .holding }))).At .closedUnlocked .none c := he.of_sm (doorHold_sm _ _)
  have hki : (doorHold e (v.door (fun q => { q with push := .holding }))).dw.inp = w.dw.inp := (doorHold_inp _ _).trans hei
  have hkt : (doorHold e (v.door (fun q => { q with push := .holding }))).dw.step = w.dw.step := (doorHold_step _ _).trans het
  have hkf : (doorHold e (v.door (fun q => { q with push := .holding }))).dw.sm.flags.isolatedByCmd = w.dw.sm.flags.isolatedByCmd := by
    rw [doorHold_sm]; exact hsm.isol.trans (by rw [hmd])
  have hkd : (doorHold e (v.door (fun q => { q with push := .holding }))).dw.sm.flags.dlsConfirmed = false := by
    rw [doorHold_sm]; exact hsm.dls.trans (by rw [hmd]; exact hd)
  generalize doorHold e (v.door (fun q => { q with push := .holding })) = x at hk hki hkt hkf hkd
  have hdc : x.dw.dcs = w.dw.dcs := by unfold Doorway.dcs Doorway.input; rw [hki]
  have hdl : x.dw.dls = w.dw.dls := by unfold Doorway.dls Doorway.input; rw [hki]
  have hsr : stepRetracted e x.dw = stepRetracted e w.dw := by unfold stepRetracted Doorway.stepHomed; rw [hkt]
  have hcr : closedRest e x = closedRest e ⟨w.dw, []⟩ := by unfold closedRest; rw [hkf, hki]
  have hjb : (checkDeployed e x).dw.step = (checkDeployed e ⟨w.dw, []⟩).dw.step := by
    have hsd : x.dw.sds = w.dw.sds := by unfold Doorway.sds Doorway.input; rw [hki]
    unfold checkDeployed
    rw [hkt, hsd]
    dsimp only
    split
    · show ({ x.dw.step with job := _, demandFails := _, flags := _ } : StepDrive) = _
      rw [hkt]; rfl
    · exact hkt
  have hc : (checkDeployed e x).At .closedUnlocked .none c := hk.of_sm (checkDeployed_sm e x)
  unfold afterLastAttempt
  cases hb : w.dw.dcs
  · rw [if_pos rfl]
    have hcd : (checkDeployed e x).dw.dcs = false := by
      unfold Doorway.dcs Doorway.input; rw [checkDeployed_inp]; exact hdc.trans hb
    have hst := enter_at e .stopped .none none (checkDeployed e x) hc.edges (by decide) (by decide)
    rw [Option.getD_none, hc.cause] at hst
    unfold levelRows
    dsimp only
    rw [hc.course (by decide)]
    dsimp only
    rw [hcd]
    exact stopDrives_at (hst.sm rfl rfl rfl rfl)
  · rw [if_neg (by decide)]
    split
    · rename_i hp
      have hcd : (checkDeployed e x).dw.dcs = true := by
        unfold Doorway.dcs Doorway.input; rw [checkDeployed_inp]; exact hdc.trans hb
      have hpn : lockProven e (checkDeployed e x) = true := by
        have h1 : (checkDeployed e x).dw.dls = true := by
          unfold Doorway.dls Doorway.input; rw [checkDeployed_inp]; exact hdl.trans hp.1
        have h2 : stepRetracted e (checkDeployed e x).dw = true := by rw [checkDeployed_retracted]; exact hsr.trans hp.2.1
        unfold lockProven
        rw [h1, h2, hjb, hp.2.2, hc.state]
        cases (checkDeployed e x).dw.sm.flags.dlsConfirmed <;> rfl
      have hcr' : closedRest e (checkDeployed e x) = closedRest e ⟨w.dw, []⟩ := by
        rw [← hcr]; unfold closedRest; rw [checkDeployed_sm, checkDeployed_inp]
      have hf := finishClosed_at e (checkDeployed e x) hc.edges ho
      rw [hcr', hc.cause] at hf
      unfold levelRows
      dsimp only
      rw [hc.course (by decide)]
      dsimp only
      rw [hcd, hpn]
      exact hf
    · rename_i hp
      have hcd : (checkDeployed e x).dw.dcs = true := by
        unfold Doorway.dcs Doorway.input; rw [checkDeployed_inp]; exact hdc.trans hb
      have hpn : lockProven e (checkDeployed e x) = false := by
        rw [Bool.eq_false_iff]
        intro hq
        apply hp
        unfold lockProven at hq
        simp only [Bool.and_eq_true, beq_iff_eq] at hq
        obtain ⟨⟨⟨q1, -⟩, q3⟩, q4⟩ := hq
        have q1' : x.dw.dls = true := by
          unfold Doorway.dls Doorway.input at q1 ⊢; rw [checkDeployed_inp] at q1; exact q1
        rw [checkDeployed_retracted] at q3
        rw [hjb] at q4
        exact ⟨hdl.symm.trans q1', hsr.symm.trans q3, q4⟩
      unfold levelRows
      dsimp only
      rw [hc.course (by decide)]
      dsimp only
      rw [hcd, hpn]
      exact hc

/-! ## Inputs of the state machine -/

/-- DLS breaks in UNLOCKING (Table 1.6). -/
theorem onDlsBreak_at {e : DoorEnv} {w : Work} {c} (h : w.dw.Calm e) (hs : w.At .unlocking .none c)
    (hq : e.cfg.stepSequence e.d = 1 ∨ stepDeployed e w.dw = true) : (onDlsBreak e w).At .opening .none c := by
  have hu : uncommanded w.dw true = false := by unfold uncommanded; rw [hs.state]; rfl
  have hc := setInput_switch_calm (b := false) h (.inr rfl) (.inr hu)
  have hsw := setInput_switch e 1 false w (.inr rfl)
  have hsm := hsw.2.2.2.1 (.inr ⟨rfl, rfl, hu⟩)
  have hi := setInput_filtered e 1 1 false w (by decide)
  unfold onDlsBreak
  rw [hs.course (by decide), if_pos rfl]
  generalize setInput e 1 false w = v at hc hsw hsm hi
  refine tick_at hc ?_
  refine levelRows_unlocking ((hs.of_sm hsm).checked e) ?_ ?_
  · unfold Doorway.dls Doorway.input; rw [id, solenoidCheck_inp]; exact hi
  rcases hq with hq | hq
  · rw [hq]; rfl
  · have : stepDeployed e (id (solenoidCheck e v)).dw = true := by
      unfold stepDeployed at hq ⊢; rw [id, solenoidCheck_step, hsw.1]; exact hq
    rw [this]; simp

/-- DCS is made in phase MOVE with the position, once its index is compared, in the closed window (Table 1.6, R168). -/
theorem onDcsMade_at {e : DoorEnv} {w : Work} {c} (h : w.dw.Calm e) (hs : w.At .closing .move c)
    (hq : inClosedWindow e (setInput e 0 true w).dw = true) (hr : (setInput e 0 true w).dw.obst.flags.reflexStop = false) :
    (onDcsMade e w).At .closing .lock c := by
  have hc := setInput_switch_calm (b := true) h (.inl rfl) (.inl rfl)
  have hsm := (setInput_switch e 0 true w (.inl rfl)).2.2.2.1 (.inl ⟨rfl, rfl⟩)
  have hi := setInput_filtered e 0 0 true w (by decide)
  unfold onDcsMade
  rw [hs.course (by decide), if_pos rfl]
  generalize setInput e 0 true w = v at hc hsm hi hq hr
  refine tick_at hc ?_
  rw [(hs.of_sm hsm).unchecked e (by decide)]
  exact levelRows_move (hs.of_sm hsm) hi hq hr

/-- DLS is confirmed in phase LOCK with the step retracted and homed (R177, R217). -/
theorem onDlsConfirmed_at {e : DoorEnv} {w : Work} {c} (h : w.dw.Calm e) (hs : w.At .closing .lock c)
    (hq : stepRetracted e w.dw = true) (hj : w.dw.step.job = .none) (ho : e.cfg.openMode e.d ≠ 1) :
    (onDlsConfirmed e w).At (closedRest e w) .none c := by
  have hc := setInput_switch_calm (b := true) h (.inr rfl) (.inl rfl)
  have hsw := setInput_switch e 1 true w (.inr rfl)
  obtain ⟨gr, hsm⟩ := hsw.2.2.2.2 ⟨rfl, rfl⟩
  have hlv := setInput_filtered e 1 1 true w (by decide)
  have hlc := setInput_filtered e 1 0 true w (by decide)
  have hfl := setInput_flags e 1 true w
  unfold onDlsConfirmed
  rw [hs.course (by decide), if_pos rfl]
  generalize setInput e 1 true w = v at hc hsw hsm hfl hlv hlc
  dsimp only
  have hvs : v.At .closing .lock c := ⟨by rw [hsm]; exact hs.state, by rw [hsm]; exact hs.phase, by rw [hsm]; exact hs.cause, by rw [hsm]; exact hs.edges⟩
  have hst : ((v.smFlags (fun f => { f with dlsConfirmed := true })).door (fun q => { q with push := .holding })).dw.sm.state = .closing := hvs.state
  rw [hst]
  dsimp only
  generalize hu : ((v.smFlags (fun f => { f with dlsConfirmed := true })).door (fun q => { q with push := .holding })) = u
  have hus : u.At .closing .lock c := by
    rw [← hu]; exact (hvs.smFlags (fun f => { f with dlsConfirmed := true })).of_sm rfl
  have huc : u.dw.Calm e := by
    rw [← hu]
    obtain ⟨a1, a2, a3, a4, a5, a6, a7, a8, a9, a10, a11, a12, a13, a14, a15, a17⟩ := hc
    exact ⟨a1, a2, a3, a4, a5, a6, a7, a8, a9, a10, a11, a12, a13, fun hx => absurd hx (by simp [Work.door]), a15, a17⟩
  have hr : closedRest e u = closedRest e w := by
    rw [← hu]; unfold closedRest
    show (if (e.release && !v.dw.sm.flags.isolatedByCmd && !v.dw.inp.flags.commonFault) = true then _ else _) = _
    rw [hsm, hfl]
  have hp : lockProven e u = true := by
    rw [← hu]; unfold lockProven
    show (v.dw.inp.filtered.getLsbD 1 && (true || _) && stepRetracted e v.dw && v.dw.step.job == .none) = true
    rw [hlv]
    have h1 : stepRetracted e v.dw = true := by unfold stepRetracted Doorway.stepHomed at hq ⊢; rw [hsw.1]; exact hq
    rw [h1, hsw.1, hj]; rfl
  rw [← hr]
  refine tick_at huc ?_
  rw [hus.unchecked e (by decide)]
  exact levelRows_locked hus (.inl ⟨rfl, rfl⟩) hp ho

/-- DLS is made in CLOSED_UNLOCKED with the step retracted and homed (Table 1.6). -/
theorem onDlsMadeClosedUnlocked_at {e : DoorEnv} {w : Work} {c} (h : w.dw.Calm e) (hs : w.At .closedUnlocked .none c)
    (hdc : w.dw.dcs = true) (hq : stepRetracted e w.dw = true) (hj : w.dw.step.job = .none) (ho : e.cfg.openMode e.d ≠ 1) :
    (onDlsMadeClosedUnlocked e w).At (closedRest e w) .none c := by
  have hc := setInput_switch_calm (b := true) h (.inr rfl) (.inl rfl)
  have hsw := setInput_switch e 1 true w (.inr rfl)
  obtain ⟨gr, hsm⟩ := hsw.2.2.2.2 ⟨rfl, rfl⟩
  have hlv := setInput_filtered e 1 1 true w (by decide)
  have hlc := setInput_filtered e 1 0 true w (by decide)
  have hfl := setInput_flags e 1 true w
  unfold onDlsMadeClosedUnlocked
  rw [if_pos hs.state]
  generalize setInput e 1 true w = v at hc hsw hsm hfl hlv hlc
  have hvs : v.At .closedUnlocked .none c := ⟨by rw [hsm]; exact hs.state, by rw [hsm]; exact hs.phase, by rw [hsm]; exact hs.cause, by rw [hsm]; exact hs.edges⟩
  have hvd : v.dw.dcs = true := by unfold Doorway.dcs Doorway.input; rw [hlc]; exact hdc
  generalize hu : (v.smFlags (fun f => { f with dlsConfirmed := true })) = u
  have hud : u.dw.dcs = true := by rw [← hu]; exact hvd
  have hus : u.At .closedUnlocked .none c := by rw [← hu]; exact hvs.smFlags _
  have huc : u.dw.Calm e := by
    rw [← hu]
    obtain ⟨a1, a2, a3, a4, a5, a6, a7, a8, a9, a10, a11, a12, a13, a14, a15, a17⟩ := hc
    exact ⟨a1, a2, a3, a4, a5, a6, a7, a8, a9, a10, a11, a12, a13, a14, a15, a17⟩
  have hr : closedRest e u = closedRest e w := by
    rw [← hu]; unfold closedRest
    show (if (e.release && !v.dw.sm.flags.isolatedByCmd && !v.dw.inp.flags.commonFault) = true then _ else _) = _
    rw [hsm, hfl]
  have hp : lockProven e u = true := by
    rw [← hu]; unfold lockProven
    show (v.dw.inp.filtered.getLsbD 1 && (true || _) && stepRetracted e v.dw && v.dw.step.job == .none) = true
    rw [hlv]
    have h1 : stepRetracted e v.dw = true := by unfold stepRetracted Doorway.stepHomed at hq ⊢; rw [hsw.1]; exact hq
    rw [h1, hsw.1, hj]; rfl
  rw [← hr]
  refine tick_at huc ?_
  rw [hus.unchecked e (by decide)]
  exact levelRows_locked hus (.inr ⟨rfl, hud⟩) hp ho

theorem setInput_edges (e : DoorEnv) (i : Nat) (b : Bool) (w : Work) (hi : i = 0 ∨ i = 1) :
    (setInput e i b w).dw.sm.edges = w.dw.sm.edges := by
  have hsm := rawChange_sm e i b w
  show (filteredChange e i b (rawChange e i b w)).dw.sm.edges = _
  rw [← hsm]
  generalize rawChange e i b w = v
  by_cases h : v.dw.inp.filtered.getLsbD i = b
  · unfold filteredChange; rw [if_pos h]
  unfold filteredChange
  rw [if_neg h]
  dsimp only
  generalize hu : (if (i = 0 ∨ i = 1) ∧ (!b) = true ∧ v.dw.door.flags.suspectHeld = true then markSuspect e 2 0 _ else _ : Work) = u
  have husm : u.dw.sm = v.dw.sm := by rw [← hu]; split; · exact markSuspect_sm _ _ _ _
                                      · rfl
  rcases hi with rfl | rfl
  · rw [if_pos rfl, indexCompare_sm, ← husm]
    cases b
    · simp only [Bool.false_eq_true, if_false]; split <;> rfl
    · rfl
  · rw [if_neg (by decide), if_pos rfl, ← husm]
    split
    · rfl
    · split <;> rfl

/-- DCS breaks in CLOSED_UNLOCKED (Table 1.6). -/
theorem onDcsBreakClosedUnlocked_at {e : DoorEnv} {w : Work} {c} (h : w.dw.Calm e) (hs : w.At .closedUnlocked .none c) :
    (onDcsBreakClosedUnlocked e w).Is .stopped .none c := by
  have hu : uncommanded w.dw false = false := by unfold uncommanded; rw [hs.state]; rfl
  have hc := setInput_switch_calm (b := false) h (.inl rfl) (.inr hu)
  have hco := setInput_core e 0 false w
  have hed := setInput_edges e 0 false w (.inl rfl)
  have hi := setInput_filtered e 0 0 false w (by decide)
  unfold onDcsBreakClosedUnlocked
  rw [if_pos hs.state]
  generalize setInput e 0 false w = v at hc hco hed hi
  have hvs : v.At .closedUnlocked .none c := ⟨hco.state.trans hs.state, hco.phase.trans hs.phase, hco.cause.trans hs.cause, hed.trans hs.edges⟩
  have hvc : (checkDeployed e v).At .closedUnlocked .none c := hvs.of_sm (checkDeployed_sm e v)
  have hvd : (checkDeployed e v).dw.dcs = false := by
    unfold Doorway.dcs Doorway.input; rw [checkDeployed_inp]; exact hi
  refine (tick_at hc (c := c) ?_).is
  rw [hvs.unchecked e (by decide)]
  have he := enter_at e .stopped .none none (checkDeployed e v) hvc.edges (by decide) (by decide)
  rw [Option.getD_none, hvc.cause] at he
  unfold levelRows
  dsimp only [id]
  rw [hvc.course (by decide)]
  dsimp only
  rw [hvd]
  exact stopDrives_at (he.sm rfl rfl rfl rfl)


end Sys2Proof.Machine
end

