-- ==== Sys2Proof/Laws/DoorInputs.lean ====
section
/-!
SUPPORT. What a change of a doorway's input makes of the doorway: ranks 2 to 4 of Table 1.5, settling, and the break of DCS.
-/

namespace Sys2Proof.Machine

theorem tickPre_plaus (e : DoorEnv) (w : Work) (h : w.dw.sm.flags.plausibility = false) :
    (tickPre e w).dw.sm.flags.plausibility = false := by
  obtain ⟨⟨b, hl⟩, -⟩ := tickMarks_flags e w
  unfold tickPre
  generalize tickMarks e w = v at hl
  have hv : v.dw.sm.flags.plausibility = false := by rw [hl]; exact h
  unfold clearGone
  dsimp only
  rw [hv]
  simp only [Bool.false_and, Bool.false_eq_true, if_false]
  split <;> exact hv

theorem srsTransition_code (e : DoorEnv) (b : Bool) (w : Work) : (srsTransition e b w).dw.step.faultCode = w.dw.step.faultCode := by
  unfold srsTransition
  dsimp only
  repeat' (first | rfl | split)

/-- No input gives a drive a fault code. -/
theorem setInput_codes (e : DoorEnv) (i : Nat) (b : Bool) (w : Work) :
    (setInput e i b w).dw.door.faultCode = w.dw.door.faultCode ∧ (setInput e i b w).dw.step.faultCode = w.dw.step.faultCode := by
  have hr : (rawChange e i b w).dw.door.faultCode = w.dw.door.faultCode ∧ (rawChange e i b w).dw.step.faultCode = w.dw.step.faultCode := by
    unfold rawChange
    by_cases h : w.dw.inp.raw.getLsbD i = b
    · rw [if_pos h]; exact ⟨rfl, rfl⟩
    · rw [if_neg h]
      dsimp only
      by_cases h0 : i = 0
      · rw [if_pos h0]; cases b <;> exact ⟨rfl, rfl⟩
      · rw [if_neg h0]
        by_cases h11 : i = 11
        · rw [if_pos h11, srsTransition_door, srsTransition_code]; exact ⟨rfl, rfl⟩
        · rw [if_neg h11]; exact ⟨rfl, rfl⟩
  show (filteredChange e i b (rawChange e i b w)).dw.door.faultCode = _ ∧ (filteredChange e i b (rawChange e i b w)).dw.step.faultCode = _
  rw [← hr.1, ← hr.2]
  generalize rawChange e i b w = v
  by_cases h : v.dw.inp.filtered.getLsbD i = b
  · unfold filteredChange; rw [if_pos h]; exact ⟨rfl, rfl⟩
  by_cases h01 : i = 0 ∨ i = 1
  · have := filteredChange_switch e i b v h01
    exact ⟨this.2.1.fault, by rw [this.1]⟩
  unfold filteredChange
  rw [if_neg h]
  have h0 : ¬i = 0 := fun x => h01 (.inl x)
  have h1 : ¬i = 1 := fun x => h01 (.inr x)
  simp only [h0, h1, false_and, or_self, if_false]
  by_cases h5 : i = 5
  · rw [if_pos h5]; cases b <;> exact ⟨rfl, rfl⟩
  rw [if_neg h5]
  by_cases h6 : i = 6
  · rw [if_pos h6]; cases b <;> exact ⟨rfl, rfl⟩
  rw [if_neg h6]
  by_cases h7 : i = 7
  · rw [if_pos h7]; cases b <;> exact ⟨rfl, rfl⟩
  rw [if_neg h7]
  by_cases h8 : i = 8 ∨ i = 9
  · rw [if_pos h8]
    split
    · exact ⟨rfl, rfl⟩
    · split <;> exact ⟨rfl, rfl⟩
  rw [if_neg h8]
  by_cases h10 : i = 10
  · rw [if_pos h10]; split <;> exact ⟨rfl, rfl⟩
  rw [if_neg h10]
  by_cases h11 : i = 11
  · rw [if_pos h11]; cases b <;> exact ⟨rfl, rfl⟩
  rw [if_neg h11]; exact ⟨rfl, rfl⟩

/-- DIS and the egress inputs change nothing but the inputs. -/
theorem setInput_plain (e : DoorEnv) (i : Nat) (b : Bool) (w : Work) (hi : i = 2 ∨ i = 3 ∨ i = 4) :
    (setInput e i b w).dw.sm = w.dw.sm ∧ (setInput e i b w).dw.door = w.dw.door ∧ (setInput e i b w).dw.step = w.dw.step := by
  have hr : (rawChange e i b w).dw.door = w.dw.door ∧ (rawChange e i b w).dw.step = w.dw.step := by
    unfold rawChange
    by_cases h : w.dw.inp.raw.getLsbD i = b
    · rw [if_pos h]; exact ⟨rfl, rfl⟩
    · rw [if_neg h]
      dsimp only
      rw [if_neg (by omega), if_neg (by omega)]; exact ⟨rfl, rfl⟩
  have hs := rawChange_sm e i b w
  show (filteredChange e i b (rawChange e i b w)).dw.sm = _ ∧ (filteredChange e i b (rawChange e i b w)).dw.door = _ ∧
    (filteredChange e i b (rawChange e i b w)).dw.step = _
  rw [← hr.1, ← hr.2, ← hs]
  generalize rawChange e i b w = v
  by_cases h : v.dw.inp.filtered.getLsbD i = b
  · unfold filteredChange; rw [if_pos h]; exact ⟨rfl, rfl, rfl⟩
  unfold filteredChange
  rw [if_neg h]
  rcases hi with rfl | rfl | rfl <;> exact ⟨rfl, rfl, rfl⟩

theorem setInput_awake {e : DoorEnv} {w : Work} (h : w.dw.Awake e) (i : Nat) (b : Bool) : (setInput e i b w).dw.Awake e := by
  have hc := setInput_core e i b w
  exact ⟨h.fitted, hc.settledF.trans h.settled, hc.halted.trans h.running, by rw [setInput_flags]; exact h.valid⟩

theorem setInput_bit (e : DoorEnv) (i j : Nat) (b : Bool) (w : Work) (hi : i < 16) (hj : j ≠ i) :
    (setInput e i b w).dw.input j = w.dw.input j := by
  unfold Doorway.input; rw [setInput_filtered e i j b w hi, if_neg hj]

theorem setInput_own (e : DoorEnv) (i : Nat) (b : Bool) (w : Work) (hi : i < 16) : (setInput e i b w).dw.input i = b := by
  unfold Doorway.input; rw [setInput_filtered e i i b w hi, if_pos rfl]

/-- DIS is made (R43). -/
theorem onDis_made {e : DoorEnv} {w : Work} (h : w.dw.Awake e) (hs : w.dw.sm.state ≠ .isolated) :
    (onDis e true w).Is .isolated .none .isolSwitch :=
  tick_isolates (setInput_awake h 2 true) id (setInput_own e 2 true w (by decide))
    (by rw [(setInput_plain e 2 true w (.inl rfl)).1]; exact hs)

theorem settled_plain (e : DoorEnv) {w v : Work} (hd : v.dw.door = w.dw.door) (hs : v.dw.step = w.dw.step)
    (h0 : v.dw.dcs = w.dw.dcs) (h1 : v.dw.dls = w.dw.dls) : settled e v.dw = settled e w.dw := by
  have hw : inClosedWindow e v.dw = inClosedWindow e w.dw := by unfold inClosedWindow; rw [hd]
  have hr : stepRetracted e v.dw = stepRetracted e w.dw := by unfold stepRetracted Doorway.stepHomed; rw [hs]
  unfold settled pcl
  rw [h0, h1, hw, hr]

/-- DIS breaks, with no other condition of ranks 1 to 3 (R43, R44). -/
theorem onDis_broken {e : DoorEnv} {w : Work} (h : w.dw.Awake e) (hs : w.dw.sm.state = .isolated)
    (hc : w.dw.sm.flags.isolatedByCmd = false) (h1 : w.dw.eehIn = false) (h2 : w.dw.eeaOut = false) (ht : e.tlPresent = false)
    (hn : w.dw.step.flags.standing = true → w.dw.srs = true) : (onDis e false w).Is (settled e w.dw) .none .settled := by
  have hp := setInput_plain e 2 false w (.inl rfl)
  have hb := fun j hj => setInput_bit e 2 j false w (by decide) hj
  rw [← settled_plain e (w := w) (v := setInput e 2 false w) hp.2.1 hp.2.2 (hb 0 (by decide)) (hb 1 (by decide))]
  exact tick_settles (setInput_awake h 2 false) id (setInput_own e 2 false w (by decide))
    ((hb 3 (by decide)).trans h1) ((hb 4 (by decide)).trans h2) (.inr (by rw [hp.1]; exact hs)) (by rw [hp.1]; exact hc) ht
    (by rw [hp.2.2]; intro hx; exact (hb 11 (by decide)).trans (hn hx))

/-- An egress input becomes active (R41). -/
theorem onEgress_is {e : DoorEnv} {which : Egress} {w : Work} (h : w.dw.Awake e) (hs : w.dw.sm.state ≠ .egress) (hd : w.dw.dis = false)
    (hw : which = .outside → w.dw.eehIn = false) :
    (onEgress e which w).Is .egress .none (match which with
      | .inside => .egressInside
      | .outside => .accessOutside) := by
  unfold onEgress doorTick
  cases which with
  | inside =>
    have hp := setInput_plain e 3 true w (.inr (.inl rfl))
    have ho := setInput_own e 3 true w (by decide)
    have := tick_egress (setInput_awake h 3 true) id ((setInput_bit e 3 2 true w (by decide) (by decide)).trans hd)
      (by show ((setInput e 3 true w).dw.input 3 || _) = true; rw [ho]; rfl) (by rw [hp.1]; exact hs)
    have he : (setInput e 3 true w).dw.eehIn = true := ho
    rw [he] at this
    exact this
  | outside =>
    have hp := setInput_plain e 4 true w (.inr (.inr rfl))
    have ho := setInput_own e 4 true w (by decide)
    have h3 : (setInput e 4 true w).dw.eehIn = false := (setInput_bit e 4 3 true w (by decide) (by decide)).trans (hw rfl)
    have := tick_egress (setInput_awake h 4 true) id ((setInput_bit e 4 2 true w (by decide) (by decide)).trans hd)
      (by show (_ || (setInput e 4 true w).dw.input 4) = true; rw [ho]; simp) (by rw [hp.1]; exact hs)
    rw [h3] at this
    exact this

/-- With both egress inputs active the cause is that of the inner one (R42). -/
theorem onEgress_both {e : DoorEnv} {w : Work} (h : w.dw.Awake e) (hs : w.dw.sm.state ≠ .egress) (hd : w.dw.dis = false)
    (hi : w.dw.eehIn = true) : (onEgress e .outside w).Is .egress .none .egressInside := by
  unfold onEgress doorTick
  have hp := setInput_plain e 4 true w (.inr (.inr rfl))
  have h3 : (setInput e 4 true w).dw.eehIn = true := (setInput_bit e 4 3 true w (by decide) (by decide)).trans hi
  have := tick_egress (setInput_awake h 4 true) id ((setInput_bit e 4 2 true w (by decide) (by decide)).trans hd)
    (by rw [h3]; rfl) (by rw [hp.1]; exact hs)
  rw [h3] at this
  exact this

/-- Both egress inputs become inactive (Table 1.6). -/
theorem onEgressEnds_is {e : DoorEnv} {w : Work} (h : w.dw.Awake e) (hs : w.dw.sm.state = .egress) (hd : w.dw.dis = false)
    (hc : w.dw.sm.flags.isolatedByCmd = false) (ht : e.tlPresent = false)
    (hn : w.dw.step.flags.standing = true → w.dw.srs = true) : (onEgressEnds e w).Is (settled e w.dw) .none .settled := by
  have hp := setInput_plain e 3 false w (.inr (.inl rfl))
  have hb := fun j hj => setInput_bit e 3 j false w (by decide) hj
  have ho := setInput_own e 3 false w (by decide)
  have ha := setInput_awake h 3 false
  unfold onEgressEnds doorTick
  generalize setInput e 3 false w = v at hp hb ho ha
  have hp2 := setInput_plain e 4 false v (.inr (.inr rfl))
  have hb2 := fun j hj => setInput_bit e 4 j false v (by decide) hj
  have ho2 := setInput_own e 4 false v (by decide)
  have ha2 := setInput_awake ha 4 false
  rw [← settled_plain e (w := w) (v := setInput e 4 false v) (hp2.2.1.trans hp.2.1) (hp2.2.2.trans hp.2.2)
    ((hb2 0 (by decide)).trans (hb 0 (by decide))) ((hb2 1 (by decide)).trans (hb 1 (by decide)))]
  exact tick_settles ha2 id ((hb2 2 (by decide)).trans ((hb 2 (by decide)).trans hd))
    ((hb2 3 (by decide)).trans ho) ho2 (.inl (by rw [hp2.1, hp.1]; exact hs)) (by rw [hp2.1, hp.1]; exact hc) ht
    (by rw [hp2.2.2, hp.2.2]; intro hx; exact (hb2 11 (by decide)).trans ((hb 11 (by decide)).trans (hn hx)))

/-- DCS or DLS breaks uncommanded (R33): no drive fault, no plausibility fault and no group fault comes before it. -/
theorem onUnlockSeen_is {e : DoorEnv} {sw : DoorSwitch} {w : Work} (h : w.dw.Awake e) (hs : w.dw.sm.state = .locked ∨ w.dw.sm.state = .released)
    (hd : w.dw.dis = false) (h1 : w.dw.eehIn = false) (h2 : w.dw.eeaOut = false) (hf : driveFaultCause w.dw = none)
    (hp : w.dw.sm.flags.plausibility = false) (hg : w.dw.inp.flags.commonFault = false)
    (hb : w.dw.input (match sw with
      | .dcs => 0
      | .dls => 1) = true) (hgr : sw = .dls → w.dw.sm.flags.grace = false) :
    (onUnlockSeen e sw w).Is .fault .none .faultUncommandedUnlock := by
  have main : ∀ i, i = 0 ∨ i = 1 → (setInput e i false w).dw.sm.flags.unlockSeen = true →
      (doorTick e (setInput e i false w)).Is .fault .none .faultUncommandedUnlock := by
    intro i hi hu
    have hc := setInput_core e i false w
    have hco := setInput_codes e i false w
    have hbit := fun j hj => setInput_bit e i j false w (by omega) hj
    have hfl := setInput_flags e i false w
    have ha := setInput_awake h i false
    generalize setInput e i false w = v at hc hco hbit hfl ha hu
    have hst : v.dw.sm.state ≠ .egress ∧ v.dw.sm.state ≠ .isolated ∧ v.dw.sm.state ≠ .fault := by
      rw [hc.state]; rcases hs with hs | hs <;> rw [hs] <;> decide
    have hm := tickPre_marked e v
    have hpl : (tickPre e v).dw.sm.flags.plausibility = false := tickPre_plaus e v (hc.plaus.trans hp)
    refine tick_faults ha id ((hbit 2 (by omega)).trans hd) ((hbit 3 (by omega)).trans h1) ((hbit 4 (by omega)).trans h2)
      hst.1 hst.2.1 hst.2.2 ?_
    have hdf : driveFaultCause (tickPre e v).dw = none := by
      unfold driveFaultCause at hf ⊢; rw [hm.door.2.2.2, hm.step.1, hco.1, hco.2]; exact hf
    unfold rankFour
    rw [hdf, hpl, hm.inp, hfl, hg, hm.unlock, hu]
    rfl
  unfold onUnlockSeen
  cases sw with
  | dcs =>
    refine main 0 (.inl rfl) ?_
    have := (setInput_dcsBreak e w hb).1
    have hun : uncommanded w.dw false = true := by unfold uncommanded; rw [h1, h2]; rcases hs with hs | hs <;> rw [hs] <;> rfl
    rw [this, hun]; simp
  | dls =>
    refine main 1 (.inr rfl) ?_
    have := setInput_dlsBreak e w hb
    have hun : uncommanded w.dw true = true := by
      unfold uncommanded; rw [h1, h2, hgr rfl]; rcases hs with hs | hs <;> rw [hs] <;> rfl
    rw [this, hun]; simp

theorem tickPre_plaus_stays (e : DoorEnv) (w : Work) (h : w.dw.sm.flags.plausibility = true)
    (hi : (implausible w.dw || dcsImplausible e w.dw) = true) : (tickPre e w).dw.sm.flags.plausibility = true := by
  obtain ⟨⟨b, h1⟩, -⟩ := tickMarks_flags e w
  have hl := tickMarks_marked e w
  unfold tickPre
  generalize tickMarks e w = v at hl h1
  obtain ⟨h5, h3, h4, -⟩ := hl.door
  have h2 := hl.inp
  have hv : v.dw.sm.flags.plausibility = true := by rw [h1]; exact h
  have hx : (v.dw.sm.flags.plausibility && !implausible v.dw && !dcsImplausible e v.dw) = false := by
    have ha : implausible v.dw = implausible w.dw := by
      unfold implausible Doorway.dls Doorway.dcs Doorway.sds Doorway.srs Doorway.input; rw [h2]
    have hb : dcsImplausible e v.dw = dcsImplausible e w.dw := by
      unfold dcsImplausible Doorway.dcs Doorway.input; rw [h2, h3, h4, h5]
    rw [ha, hb]
    cases hc : implausible w.dw <;> cases hd : dcsImplausible e w.dw <;> simp_all
  unfold clearGone
  dsimp only
  rw [hx]
  simp only [Bool.false_eq_true, if_false]
  split <;> exact hv

/-- A plausibility condition found present brings FAULT 0x54 (R25, R179). -/
theorem tick_implausible {e : DoorEnv} {w : Work} (h : w.dw.Awake e) (f : Work → Work)
    (hs : w.dw.sm.state ≠ .egress ∧ w.dw.sm.state ≠ .isolated ∧ w.dw.sm.state ≠ .fault) (hd : w.dw.dis = false)
    (h1 : w.dw.eehIn = false) (h2 : w.dw.eeaOut = false) (hf : driveFaultCause w.dw = none)
    (hp : w.dw.sm.flags.plausibility = true) (hi : (implausible w.dw || dcsImplausible e w.dw) = true) :
    (doorTickWith e f w).Is .fault .none .faultPlausibility := by
  refine tick_faults h f hd h1 h2 hs.1 hs.2.1 hs.2.2 ?_
  have hm := tickPre_marked e w
  have hdf : driveFaultCause (tickPre e w).dw = none := by
    unfold driveFaultCause at hf ⊢; rw [hm.door.2.2.2, hm.step.1]; exact hf
  unfold rankFour
  rw [hdf, tickPre_plaus_stays e w hp hi]
  rfl

/-- R25: a pair of switches has been implausible for 200 ms. -/
theorem onImplausible_is {e : DoorEnv} {p : Implausible} {w : Work} (h : w.dw.Awake e)
    (hs : w.dw.sm.state ≠ .egress ∧ w.dw.sm.state ≠ .isolated ∧ w.dw.sm.state ≠ .fault) (hd : w.dw.dis = false)
    (h1 : w.dw.eehIn = false) (h2 : w.dw.eeaOut = false) (hf : driveFaultCause w.dw = none) :
    (onImplausible e p w).Is .fault .none .faultPlausibility := by
  have main : ∀ (i j : Nat) (b : Bool), i < 16 → j < 16 → (i < 2 ∨ 4 < i) → (j < 2 ∨ 4 < j) → i ≠ j →
      (∀ v : Work, v.dw.input i = true → v.dw.input j = b → implausible v.dw = true) →
      (doorTick e ((setInput e j b (setInput e i true w)).smFlags (fun f => { f with plausibility := true, unlockSeen := false }))).Is
        .fault .none .faultPlausibility := by
    intro i j b hi hj hi2 hj2 hij him
    have hc := setInput_core e i true w
    have hco := setInput_codes e i true w
    have hb := fun k hk => setInput_bit e i k true w hi hk
    have ho := setInput_own e i true w hi
    have ha := setInput_awake h i true
    generalize setInput e i true w = v at hc hco hb ho ha
    have hc' := setInput_core e j b v
    have hco' := setInput_codes e j b v
    have hb' := fun k hk => setInput_bit e j k b v hj hk
    have ho' := setInput_own e j b v hj
    have ha' := setInput_awake ha j b
    generalize setInput e j b v = u at hc' hco' hb' ho' ha'
    have hst : u.dw.sm.state = w.dw.sm.state := hc'.state.trans hc.state
    refine tick_implausible (w := u.smFlags (fun f => { f with plausibility := true, unlockSeen := false }))
      ⟨ha'.fitted, ha'.settled, ha'.running, ha'.valid⟩ id ?_ ?_ ?_ ?_ ?_ rfl ?_
    · show u.dw.sm.state ≠ _ ∧ u.dw.sm.state ≠ _ ∧ u.dw.sm.state ≠ _
      rw [hst]; exact hs
    · exact (hb' 2 (by omega)).trans ((hb 2 (by omega)).trans hd)
    · exact (hb' 3 (by omega)).trans ((hb 3 (by omega)).trans h1)
    · exact (hb' 4 (by omega)).trans ((hb 4 (by omega)).trans h2)
    · show driveFaultCause u.dw = none
      unfold driveFaultCause at hf ⊢
      rw [hco'.1, hco.1, hco'.2, hco.2]; exact hf
    · have : implausible u.dw = true := him u ((hb' i hij).trans ho) ho'
      show (implausible u.dw || _) = true
      rw [this]; rfl
  unfold onImplausible
  cases p with
  | dlsWithoutDcs =>
    exact main 1 0 false (by decide) (by decide) (.inl (by decide)) (.inl (by decide)) (by decide) (fun v ha hb => by
      unfold implausible Doorway.dls Doorway.dcs; rw [ha, hb]; rfl)
  | sdsWithSrs =>
    exact main 10 11 true (by decide) (by decide) (.inr (by decide)) (.inr (by decide)) (by decide) (fun v ha hb => by
      unfold implausible Doorway.sds Doorway.srs; rw [ha, hb]; simp)

/-- R179: DCS made far above DCS_BREAK_POS. -/
theorem onDcsImplausible_is {e : DoorEnv} {w : Work} (h : w.dw.Awake e)
    (hs : w.dw.sm.state ≠ .egress ∧ w.dw.sm.state ≠ .isolated ∧ w.dw.sm.state ≠ .fault) (hd : w.dw.dis = false)
    (h1 : w.dw.eehIn = false) (h2 : w.dw.eeaOut = false) (hf : driveFaultCause w.dw = none) (hi : dcsImplausible e w.dw = true) :
    (onDcsImplausible e w).Is .fault .none .faultPlausibility := by
  unfold onDcsImplausible
  rw [if_pos hi]
  exact tick_implausible (w := w.smFlags (fun f => { f with plausibility := true })) ⟨h.fitted, h.settled, h.running, h.valid⟩ id
    hs hd h1 h2 hf rfl (by show (_ || dcsImplausible e w.dw) = true; rw [hi]; simp)

/-- The solenoid's command ends with the filtered break of DCS (R176). -/
theorem onDcsBreakOpening_solenoid {e : DoorEnv} {w : Work} {c} (h : w.dw.Calm e) (hs : w.At .opening .none c)
    (hb : w.dw.input 0 = true) : (onDcsBreakOpening e w).dw.sm.flags.solenoidOff = true := by
  have hu : uncommanded w.dw false = false := by unfold uncommanded; rw [hs.state]; rfl
  have hc := setInput_switch_calm (b := false) h (.inl rfl) (.inr hu)
  have hco := setInput_core e 0 false w
  have hed := setInput_edges e 0 false w (.inl rfl)
  have hso := (setInput_dcsBreak e w hb).2
  unfold onDcsBreakOpening
  rw [hs.course (by decide), if_pos rfl]
  generalize setInput e 0 false w = v at hc hco hed hso
  have hvs : v.At .opening .none c := ⟨hco.state.trans hs.state, hco.phase.trans hs.phase, hco.cause.trans hs.cause, hed.trans hs.edges⟩
  unfold doorTick
  rw [tick_calm hc (solenoidCheck_already e hso)]
  have hl : (levelRows e v).dw.sm.edges = noEdges ∧ (levelRows e v).dw.sm.flags.solenoidOff = true := by
    have hcd : (checkDeployed e v).At .opening .none c := hvs.of_sm (checkDeployed_sm e v)
    have hsd : (checkDeployed e v).dw.sm.flags.solenoidOff = true := by rw [checkDeployed_sm]; exact hso
    unfold levelRows
    dsimp only
    rw [hcd.course (by decide)]
    dsimp only
    generalize checkDeployed e v = x at hcd hsd
    unfold tryOpened
    split
    · unfold goTo
      have h2 : (adaptStroke e false (x.sm (fun m => { m with obstacles := 0 }))).At .opening .none c :=
        Work.At.of_sm (w := x.sm (fun m => { m with obstacles := 0 })) (hcd.sm rfl rfl rfl rfl) (adaptStroke_sm _ _ _)
      have h2f : (adaptStroke e false (x.sm (fun m => { m with obstacles := 0 }))).dw.sm.flags.solenoidOff = true := by
        rw [adaptStroke_sm]; exact hsd
      rw [if_neg (by rw [h2.state]; decide)]
      exact ⟨(enter_at e .opened .none none _ h2.edges (by decide) (by decide)).edges, (enter_same e .opened .none none _).solenoid.trans h2f⟩
    · exact ⟨hcd.edges, hsd⟩
  show (seeLevels e (takeEdges e (levelRows e v))).dw.sm.flags.solenoidOff = true
  rw [takeEdges_quiet e hl.1]
  exact hl.2
end Sys2Proof.Machine
end

