-- ==== Sys2Proof/Laws/AtDoors.lean ====
section
/-!
SUPPORT. From a doorway's engine to the module: an occurrence leaves the doorway alike to what the engine's work made of it.
-/

namespace Sys2Proof.Machine

theorem State.runDoor_own (s : State) (d : DoorIx) (f : DoorEnv → Work → Work) (hr : s.leafRuns d = true) :
    (f (s.doorEnv d) ⟨s.doors[d], []⟩).dw.alike (s.runDoor d f).doors[d] := by
  have h := State.runDoor_alike s d f hr d
  rw [if_pos rfl] at h
  exact h

theorem State.atDoor_own (s : State) (d : DoorIx) (f : DoorEnv → Work → Work) (hf : s.cfg.isFitted d = true)
    (hr : s.leafRuns d = true) : (f (s.doorEnv d) ⟨s.doors[d], []⟩).dw.alike (s.atDoor d f).doors[d] := by
  unfold State.atDoor
  rw [if_pos hf]
  exact s.runDoor_own d f hr

theorem State.atStep_own (s : State) (d : DoorIx) (f : DoorEnv → Work → Work) (hf : s.cfg.driveFitted (stepDrive d) = true)
    (hr : s.leafRuns d = true) : (f (s.doorEnv d) ⟨s.doors[d], []⟩).dw.alike (s.atStep d f).doors[d] := by
  unfold State.atStep
  rw [if_pos hf]
  exact s.runDoor_own d f hr

theorem State.atDrive_own (s : State) (r : DriveIx) (f : DoorEnv → Work → Work) (hf : s.cfg.driveFitted r = true)
    (hr : s.leafRuns (doorOf r) = true) :
    (f (s.doorEnv (doorOf r)) ⟨s.doors[doorOf r], []⟩).dw.alike (s.atDrive r f).doors[doorOf r] := by
  unfold State.atDrive
  rw [if_pos hf]
  exact s.runDoor_own (doorOf r) f hr

theorem State.keeperSees_alike (s : State) (d : DoorIx) : s.alike (s.keeperSees d) := by
  unfold State.keeperSees
  split
  · exact State.alike_refl s
  · exact State.alike_of_doors rfl

/-- An input's change at a doorway whose engine runs. -/
theorem State.doorInput_own (s : State) (d : DoorIx) (f : DoorEnv → Work → Work) (ho : s.fieldOn = true)
    (hf : s.cfg.isFitted d = true) (hv : (s.doors[d]).inp.flags.valid = true) (hr : s.leafRuns d = true) :
    (f (s.doorEnv d) ⟨s.doors[d], []⟩).dw.alike (s.doorInput d f).doors[d] := by
  have h := s.runDoor_own d f hr
  unfold State.doorInput
  rw [ho, hf, hv, hr]
  simp only [Bool.not_true, Bool.or_self, Bool.false_eq_true, if_false, if_true]
  have h2 := State.alike_trans (State.alike_trans (State.keeperSees_alike (s.runDoor d f) d) (State.egressRows_alike _ d))
    (State.evaluate_alike _)
  exact Doorway.alike_trans h (h2 d)

theorem Work.Is.of_alike {w : Work} {st ph c} {b : Doorway} (h : w.Is st ph c) (ha : w.dw.alike b) :
    b.sm.state = st ∧ b.sm.phase = ph ∧ b.sm.cause = c := by
  rw [ha.sm]; exact ⟨h.state, h.phase, h.cause⟩

end Sys2Proof.Machine
end

