-- ==== Sys2Proof/Laws/DoorDrives.lean ====
section
/-!
SUPPORT. What drive faults, interruptions and the ends of motions make of a doorway's engine (chapters 3 to 6).
-/

namespace Sys2Proof.Machine

/-! ## Faults -/

/-- What the tick after a fault must find. -/
structure Doorway.Sound (e : DoorEnv) (w : Doorway) : Prop where
  awake : w.Awake e
  dis   : w.dis = false
  eeh   : w.eehIn = false
  eea   : w.eeaOut = false
  state : w.sm.state ≠ .egress ∧ w.sm.state ≠ .isolated ∧ w.sm.state ≠ .fault

theorem Doorway.Sound.of_sm {e : DoorEnv} {w v : Doorway} (h : w.Sound e) (h1 : v.sm = w.sm) (h2 : v.inp = w.inp) : v.Sound e := by
  obtain ⟨⟨a1, a2, a3, a4⟩, b, c, d, f⟩ := h
  refine ⟨⟨a1, by rw [h1]; exact a2, by rw [h1]; exact a3, by rw [h2]; exact a4⟩, ?_, ?_, ?_, by rw [h1]; exact f⟩
  · unfold Doorway.dis Doorway.input at *; rw [h2]; exact b
  · unfold Doorway.eehIn Doorway.input at *; rw [h2]; exact c
  · unfold Doorway.eeaOut Doorway.input at *; rw [h2]; exact d

theorem tick_fault_sound {e : DoorEnv} {w : Work} (h : w.dw.Sound e) (f : Work → Work) {c : Cause} (hc : driveFaultCause w.dw = some c) :
    (doorTickWith e f w).Is .fault .none c ∧ (doorTickWith e f w).dw.door.faultCode = w.dw.door.faultCode
      ∧ (doorTickWith e f w).dw.step.faultCode = w.dw.step.faultCode :=
  tick_faultCode h.awake f h.dis h.eeh h.eea h.state.1 h.state.2.1 h.state.2.2 hc

theorem hallSuspect_door (e : DoorEnv) (w : Work) : (hallSuspect e w).dw.door.faultCode = w.dw.door.faultCode
    ∧ (hallSuspect e w).dw.step = w.dw.step ∧ (hallSuspect e w).dw.sm = w.dw.sm ∧ (hallSuspect e w).dw.inp = w.dw.inp := by
  unfold hallSuspect
  split
  · exact ⟨rfl, rfl, rfl, rfl⟩
  · unfold markSuspect
    split <;> exact ⟨rfl, rfl, rfl, rfl⟩

theorem onHallFault_is {e : DoorEnv} {w : Work} (h : w.dw.Sound e) {code : Nat} (hc : code = 6 ∨ code = 7) (hf : w.dw.door.faultCode = 0) :
    (onHallFault e code w).Is .fault .none .faultHall ∧ (onHallFault e code w).dw.door.faultCode = code := by
  unfold onHallFault
  rw [if_neg (by simp [hf])]
  obtain ⟨h1, h2, h3, h4⟩ := hallSuspect_door e (doorFault e code 0 w)
  have hs : (hallSuspect e (doorFault e code 0 w)).dw.Sound e := h.of_sm h3 h4
  have hk : driveFaultCause (hallSuspect e (doorFault e code 0 w)).dw = some .faultHall := by
    unfold driveFaultCause; rw [h1]; exact if_pos hc
  have := tick_fault_sound hs id hk
  exact ⟨this.1, this.2.1.trans h1⟩

theorem doorFault_is {e : DoorEnv} {w : Work} (h : w.dw.Sound e) {code : Nat} {v : Int} (h0 : code ≠ 0) (h6 : code ≠ 6) (h7 : code ≠ 7) :
    (doorTick e (doorFault e code v w)).Is .fault .none .faultDrive ∧ (doorTick e (doorFault e code v w)).dw.door.faultCode = code := by
  have hs : (doorFault e code v w).dw.Sound e := h.of_sm rfl rfl
  have hk : driveFaultCause (doorFault e code v w).dw = some .faultDrive := by
    unfold driveFaultCause
    show (if code = 6 ∨ code = 7 then _ else if code ≠ 0 then _ else _ : Option Cause) = _
    rw [if_neg (by omega), if_pos h0]
  have := tick_fault_sound hs id hk
  exact ⟨this.1, this.2.1⟩

theorem stepTorqueRemoved_parts (e : DoorEnv) (w : Work) : (stepTorqueRemoved e w).dw.inp = w.dw.inp ∧ (stepTorqueRemoved e w).dw.sm = w.dw.sm
    ∧ (stepTorqueRemoved e w).dw.door = w.dw.door := by
  unfold stepTorqueRemoved
  split
  · exact ⟨rfl, rfl, rfl⟩
  · unfold stepLose; dsimp only; split <;> exact ⟨rfl, rfl, rfl⟩

theorem stepFault_is {e : DoorEnv} {w : Work} (h : w.dw.Sound e) {code : Nat} {v : Int} (h0 : code ≠ 0) (hd : w.dw.door.faultCode = 0) :
    (afterStep e (stepFault e code v w)).Is .fault .none .faultStep
      ∧ (afterStep e (stepFault e code v w)).dw.step.faultCode = code := by
  obtain ⟨h1, h2, h3⟩ := stepTorqueRemoved_parts e w
  have hs : (stepFault e code v w).dw.Sound e := h.of_sm h2 h1
  have hk : driveFaultCause (stepFault e code v w).dw = some .faultStep := by
    have ha : (stepFault e code v w).dw.door.faultCode = 0 := (congrArg DoorDrive.faultCode h3).trans hd
    have hb : (stepFault e code v w).dw.step.faultCode = code := rfl
    unfold driveFaultCause
    rw [ha, hb]
    simp [h0]
  have hi : (stepFault e code v w).dw.sm.state ≠ .isolated := by
    show (stepTorqueRemoved e w).dw.sm.state ≠ _; rw [h2]; exact h.state.2.1
  have hm : (stepFault e code v w).dw.step.faultCode = code := rfl
  have ht := tick_fault_sound hs id hk
  unfold afterStep
  rw [if_neg (fun hx => hi hx.2), if_neg (fun hx => h0 (hm.symm.trans hx.1))]
  exact ⟨ht.1, ht.2.2.trans hm⟩

/-! ## Hardware trips -/

theorem State.tripRows_alike (s : State) (r : DriveIx) (on : Bool) : s.alike (s.tripRows r on) := by
  have h0 : ∀ q : Quince, s.alike { s with quince := q } := fun _ => State.alike_of_doors rfl
  unfold State.tripRows
  dsimp only
  split
  · exact State.alike_trans (State.alike_trans (h0 _) (State.latchRow_alike _ 57 (by decide) 0 _)) (State.latchRow_alike _ 58 (by decide) 0 _)
  · exact h0 _

theorem Doorway.Sound.alike {e f : DoorEnv} {w v : Doorway} (h : w.Sound e) (ha : w.alike v) (h1 : f.cfg = e.cfg) (h2 : f.d = e.d) : v.Sound f := by
  have hv := Doorway.Sound.of_sm (v := v) h ha.sm ha.inp
  obtain ⟨⟨a1, a2, a3, a4⟩, b, c, d, f⟩ := hv
  exact ⟨⟨by rw [h1, h2]; exact a1, a2, a3, a4⟩, b, c, d, f⟩

theorem tripCode_plain (t : HwTrip) : tripCode t ≠ 0 ∧ tripCode t ≠ 6 ∧ tripCode t ≠ 7 := by cases t <;> decide

theorem State.driveTrips_is (s : State) (r : DriveIx) (t : HwTrip) (peak : Nat) (hr : s.leafRuns (doorOf r) = true)
    (hs : (s.doors[doorOf r]).Sound (s.doorEnv (doorOf r))) (hd : (s.doors[doorOf r]).door.faultCode = 0)
    (hst : (s.doors[doorOf r]).step.faultCode = 0) :
    ((s.driveTrips r t peak).doors[doorOf r]).sm.state = .fault
      ∧ ((s.driveTrips r t peak).doors[doorOf r]).sm.cause = (if isStep r then .faultStep else .faultDrive)
      ∧ (if isStep r then ((s.driveTrips r t peak).doors[doorOf r]).step.faultCode
          else ((s.driveTrips r t peak).doors[doorOf r]).door.faultCode) = tripCode t := by
  have ha := State.tripRows_alike s r true (doorOf r)
  have hk : Keeps [.doors, .quince, .fcp, .log] s (s.tripRows r true) := State.tripRows_keeps (Within.refl _) (Keeps.refl _ _) r true
  have hr' : (s.tripRows r true).leafRuns (doorOf r) = true := by
    unfold State.leafRuns at *
    rw [hk.only .power (by decide), hk.only .engines (by decide)]; exact hr
  have hc : ((s.tripRows r true).doorEnv (doorOf r)).cfg = (s.doorEnv (doorOf r)).cfg := by
    show (s.tripRows r true).config.cfg = s.config.cfg
    rw [hk.only .config (by decide)]
  have hs' := hs.alike ha hc rfl
  have hd' : ((s.tripRows r true).doors[doorOf r]).door.faultCode = 0 := (congrArg DoorDrive.faultCode ha.door).trans hd
  have hst' : ((s.tripRows r true).doors[doorOf r]).step.faultCode = 0 := (congrArg StepDrive.faultCode ha.step).trans hst
  have hown := (s.tripRows r true).runDoor_own (doorOf r) (fun e w => onHardwareTrip e (isStep r) t peak w) hr'
  unfold State.driveTrips
  generalize s.tripRows r true = u at *
  obtain ⟨n0, n6, n7⟩ := tripCode_plain t
  cases hi : isStep r
  · rw [hi] at hown
    have he : onHardwareTrip (u.doorEnv (doorOf r)) false t peak ⟨u.doors[doorOf r], []⟩ = doorTick (u.doorEnv (doorOf r))
        (doorFault (u.doorEnv (doorOf r)) (tripCode t) (if t = .currentSensor then 0 else peak) ⟨u.doors[doorOf r], []⟩) := by
      unfold onHardwareTrip
      dsimp only
      rw [if_neg (by decide), if_neg (by rw [hd']; decide)]
    rw [he] at hown
    have hi := doorFault_is (w := ⟨u.doors[doorOf r], []⟩) hs' (code := tripCode t) (v := if t = .currentSensor then 0 else peak) n0 n6 n7
    have hb := hi.1.of_alike hown
    exact ⟨hb.1, hb.2.2, (congrArg DoorDrive.faultCode hown.door).trans hi.2⟩
  · rw [hi] at hown
    have he : onHardwareTrip (u.doorEnv (doorOf r)) true t peak ⟨u.doors[doorOf r], []⟩ = afterStep (u.doorEnv (doorOf r))
        (stepFault (u.doorEnv (doorOf r)) (tripCode t) (if t = .currentSensor then 0 else peak) ⟨u.doors[doorOf r], []⟩) := by
      unfold onHardwareTrip
      dsimp only
      rw [if_pos rfl, if_neg (by rw [hst']; decide)]
    rw [he] at hown
    have hi := stepFault_is (w := ⟨u.doors[doorOf r], []⟩) hs' (code := tripCode t) (v := if t = .currentSensor then 0 else peak) n0 hd'
    have hb := hi.1.of_alike hown
    exact ⟨hb.1, hb.2.2, (congrArg StepDrive.faultCode hown.step).trans hi.2⟩

theorem leg_of : ∀ (r : DriveIx) (leg : Fin 4), legDrive (pairOf (doorOf r)) (legOf r leg) = r := by decide

end Sys2Proof.Machine
end

