-- ==== Sys2Proof/Laws/Interrupts.lean ====
section
/-!
SUPPORT. Interruptions of a drive: the doorway stops, and the drive keeps the cause until it ends (R127, R658).
-/

namespace Sys2Proof.Machine

theorem levelRows_quiet_eq (e : DoorEnv) {w : Work} {st ph c} (h : w.At st ph c) (hq : quiet st ph = true) :
    levelRows e w = checkDeployed e w := by
  have h2 := h.of_sm (checkDeployed_sm e w)
  have hm : (checkDeployed e w).dw.sm.state ≠ .maint := by
    rw [h2.state]; intro hx; subst hx; simp [quiet] at hq
  have hco := course_own hm
  rw [h2.state, h2.phase] at hco
  unfold levelRows
  dsimp only
  rw [hco]
  dsimp only
  split <;> first
    | rfl
    | (exfalso; simp_all [quiet]; done)
    | (have : Doorway.windsUp (checkDeployed e w).dw = false := by
         unfold Doorway.windsUp; rw [show ((checkDeployed e w).dw.sm.state == .maint) = false by simpa using hm]; rfl
       rw [this]; rfl)

theorem tick_quiet_eq {e : DoorEnv} {w : Work} (h : w.dw.Calm e) (hn : solenoidCheck e w = w) {f : Work → Work} {st ph c}
    (hf : (f w).At st ph c) (hq : quiet st ph = true) : doorTickWith e f w = seeLevels e (checkDeployed e (f w)) := by
  rw [tick_calm h hn, levelRows_quiet_eq e hf hq, takeEdges_quiet]
  rw [checkDeployed_sm]; exact hf.edges

theorem checkDeployed_gen (e : DoorEnv) (w : Work) : (checkDeployed e w).dw.door = w.dw.door
    ∧ (checkDeployed e w).dw.step.gen = w.dw.step.gen ∧ (checkDeployed e w).dw.step.bridgeTemp = w.dw.step.bridgeTemp
    ∧ (checkDeployed e w).dw.step.flags.thermalHold = w.dw.step.flags.thermalHold
    ∧ (checkDeployed e w).dw.sm = w.dw.sm := by
  unfold checkDeployed
  split <;> exact ⟨rfl, rfl, rfl, rfl, rfl⟩

/-- What an interruption leaves on the interrupted drive's side for the tick that follows. -/
structure Doorway.Kept (w v : Doorway) : Prop where
  door : v.door.gen.stops = w.door.gen.stops ∧ (w.door.gen.state = .stoppedMid → v.door.gen.state = .stoppedMid)
    ∧ v.door.flags.thermalHold = w.door.flags.thermalHold ∧ v.door.flags.followError = w.door.flags.followError
    ∧ v.door.flags.hallDropout = w.door.flags.hallDropout ∧ v.door.bridgeTemp = w.door.bridgeTemp
    ∧ v.door.counters = w.door.counters
  step : v.step.gen.stops = w.step.gen.stops ∧ (w.step.gen.state = .stoppedMid → v.step.gen.state = .stoppedMid)
    ∧ v.step.flags.thermalHold = w.step.flags.thermalHold ∧ v.step.bridgeTemp = w.step.bridgeTemp

theorem Gen.stop_stops (g : Gen) (e : GenEnv) (q : Bool) : (g.stop e q).stops = g.stops
    ∧ (g.state = .stoppedMid → (g.stop e q).state = .stoppedMid) := by
  unfold Gen.stop
  split
  · rename_i h; exact ⟨rfl, fun hs => by rw [h] at hs; exact nomatch hs⟩
  · exact ⟨rfl, fun _ => rfl⟩
  · exact ⟨rfl, fun h => h⟩

theorem Doorway.Kept.refl (w : Doorway) : w.Kept w := ⟨⟨rfl, id, rfl, rfl, rfl, rfl, rfl⟩, ⟨rfl, id, rfl, rfl⟩⟩

theorem stopDrives_kept (e : DoorEnv) (q : Bool) (w : Work) : w.dw.Kept (stopDrives e q w).dw := by
  have hs : ∀ (v : Work) (b : Bool), w.dw.Kept v.dw →
      w.dw.Kept (v.step (fun s => { s with gen := s.gen.stop (stepEnvOf e v.dw b) q })).dw := by
    intro v b hv
    have h1 := Gen.stop_stops v.dw.step.gen (stepEnvOf e v.dw b) q
    exact ⟨hv.door, h1.1.trans hv.step.1, fun hx => h1.2 (hv.step.2.1 hx), hv.step.2.2.1, hv.step.2.2.2⟩
  have h1 := Gen.stop_stops w.dw.door.gen (doorEnvOf e w.dw) q
  unfold stopDrives
  refine hs _ _ ?_
  unfold unlessReflexStop
  split
  · exact Doorway.Kept.refl _
  · exact ⟨⟨h1.1, h1.2, rfl, rfl, rfl, rfl, rfl⟩, ⟨rfl, id, rfl, rfl⟩⟩

/-- Courses on which a stop of the drives is taken as a transition to STOPPED. -/
def stopsHere (st : DoorState) (ph : Phase) : Bool :=
  match st with
  | .opening | .reopening | .opened => true
  | .closing => ph != .lock
  | _ => false

theorem interruptionStop_is (e : DoorEnv) {w : Work} {st ph c} (h : w.At st ph c) (hq : stopsHere st ph = true) :
    (interruptionStop e w).At .stopped .none .stopDriveInterrupted ∧ w.dw.Kept (interruptionStop e w).dw := by
  have he := enter_at e .stopped .none (some .stopDriveInterrupted) w h.edges (by decide) (by decide)
  have hnf : w.dw.sm.state ≠ .fault := by rw [h.state]; intro hx; rw [hx] at hq; exact absurd hq (by simp [stopsHere])
  have key : ∀ f : DoorSm → DoorSm, (∀ m, (f m).state = m.state ∧ (f m).phase = m.phase ∧ (f m).cause = m.cause ∧ (f m).edges = m.edges) →
      (stopDrives e false ((enter e .stopped .none (some .stopDriveInterrupted) w).sm f)).At .stopped .none .stopDriveInterrupted
        ∧ w.dw.Kept (stopDrives e false ((enter e .stopped .none (some .stopDriveInterrupted) w).sm f)).dw := by
    intro f hf
    refine ⟨(he.sm (hf _).1 (hf _).2.1 (hf _).2.2.1 (hf _).2.2.2).of_sm (stopDrives_sm _ _ _), ?_⟩
    have hk := stopDrives_kept e false ((enter e .stopped .none (some .stopDriveInterrupted) w).sm f)
    have hd : ((enter e .stopped .none (some .stopDriveInterrupted) w).sm f).dw.door = w.dw.door :=
      (enter_drives e _ _ _ w (.inr hnf)).1
    have hs : ((enter e .stopped .none (some .stopDriveInterrupted) w).sm f).dw.step = w.dw.step :=
      (enter_drives e _ _ _ w (.inr hnf)).2
    exact ⟨by rw [← hd]; exact hk.door, by rw [← hs]; exact hk.step⟩
  unfold interruptionStop
  rw [h.state, h.phase]
  cases st <;> simp only [stopsHere, Bool.false_eq_true] at hq
  · exact key _ (fun _ => ⟨rfl, rfl, rfl, rfl⟩)
  · exact key _ (fun _ => ⟨rfl, rfl, rfl, rfl⟩)
  · cases ph <;> first | (exact absurd hq (by decide)) | exact key _ (fun _ => ⟨rfl, rfl, rfl, rfl⟩)
  · exact key _ (fun _ => ⟨rfl, rfl, rfl, rfl⟩)

theorem Doorway.Kept.trans {u v w : Doorway} (h : u.Kept v) (k : v.Kept w) : u.Kept w :=
  ⟨⟨k.door.1.trans h.door.1, fun hs => k.door.2.1 (h.door.2.1 hs), k.door.2.2.1.trans h.door.2.2.1, k.door.2.2.2.1.trans h.door.2.2.2.1,
      k.door.2.2.2.2.1.trans h.door.2.2.2.2.1, k.door.2.2.2.2.2.1.trans h.door.2.2.2.2.2.1, k.door.2.2.2.2.2.2.trans h.door.2.2.2.2.2.2⟩,
    ⟨k.step.1.trans h.step.1, fun hs => k.step.2.1 (h.step.2.1 hs), k.step.2.2.1.trans h.step.2.2.1, k.step.2.2.2.trans h.step.2.2.2⟩⟩

theorem interruption_tick {e : DoorEnv} {w : Work} {st ph c} (hc : w.dw.Calm e) (h : w.At st ph c) (hq : stopsHere st ph = true) :
    (doorTickWith e (interruptionStop e) w).Is .stopped .none .stopDriveInterrupted ∧ w.dw.Kept (doorTickWith e (interruptionStop e) w).dw := by
  rw [tick_after_check hc]
  have hck : w.dw.Kept (solenoidCheck e w).dw := by
    obtain ⟨b, hb⟩ := solenoidCheck_dw e w
    rw [hb]; exact ⟨⟨rfl, id, rfl, rfl, rfl, rfl, rfl⟩, ⟨rfl, id, rfl, rfl⟩⟩
  suffices hx : ∀ v : Work, v.dw.Calm e → v.At st ph c → solenoidCheck e v = v →
      (doorTickWith e (interruptionStop e) v).Is .stopped .none .stopDriveInterrupted
        ∧ v.dw.Kept (doorTickWith e (interruptionStop e) v).dw by
    have := hx _ hc.checked (h.checked e) (solenoidCheck_idem e w)
    exact ⟨this.1, hck.trans this.2⟩
  clear h hc hck w
  intro w hc h hn
  obtain ⟨h1, h2⟩ := interruptionStop_is e h hq
  rw [tick_quiet_eq hc hn h1 rfl]
  have hg := checkDeployed_gen e (interruptionStop e w)
  refine ⟨(h1.of_sm hg.2.2.2.2).is.of_sm rfl |> seeLevels_is, h2.trans ⟨?_, ?_⟩⟩
  · show (checkDeployed e (interruptionStop e w)).dw.door.gen.stops = _ ∧ (_ → (checkDeployed e (interruptionStop e w)).dw.door.gen.state = _)
      ∧ (checkDeployed e (interruptionStop e w)).dw.door.flags.thermalHold = _ ∧ (checkDeployed e (interruptionStop e w)).dw.door.flags.followError = _
      ∧ (checkDeployed e (interruptionStop e w)).dw.door.flags.hallDropout = _ ∧ (checkDeployed e (interruptionStop e w)).dw.door.bridgeTemp = _
      ∧ (checkDeployed e (interruptionStop e w)).dw.door.counters = _
    rw [hg.1]; exact ⟨rfl, fun h => h, rfl, rfl, rfl, rfl, rfl⟩
  · show (checkDeployed e (interruptionStop e w)).dw.step.gen.stops = _ ∧ (_ → (checkDeployed e (interruptionStop e w)).dw.step.gen.state = _)
      ∧ (checkDeployed e (interruptionStop e w)).dw.step.flags.thermalHold = _ ∧ (checkDeployed e (interruptionStop e w)).dw.step.bridgeTemp = _
    rw [hg.2.1, hg.2.2.1, hg.2.2.2.1]; exact ⟨rfl, fun h => h, rfl, rfl⟩

theorem Gen.tracked_same (g : Gen) : g.tracked.state = g.state ∧ g.tracked.stops = g.stops := ⟨rfl, rfl⟩

/-- A cause of an interruption holds the drive from then on (R127). -/
theorem Gen.interrupt_holds (g : Gen) (e : GenEnv) (x : Interruption) : x ∈ (g.interrupt e x).stops := by
  have key : x ∈ (if g.stops.contains x then g.stops else x :: g.stops) := by
    split
    · rename_i h; simpa using h
    · exact List.mem_cons_self
  unfold Gen.interrupt
  dsimp only
  split <;> exact key

/-- A doorway's calm depends on these parts of it alone. -/
theorem Doorway.Calm.of_parts {e : DoorEnv} {w v : Doorway} (h : w.Calm e) (h1 : v.sm = w.sm) (h2 : v.inp = w.inp)
    (h3 : v.door.faultCode = w.door.faultCode) (h4 : v.step.faultCode = w.step.faultCode) (h5 : v.obst.pending = w.obst.pending)
    (h6 : v.door.push = w.door.push) (h7 : v.step.job = w.step.job) (h8 : v.step.flags.standing = w.step.flags.standing) : v.Calm e := by
  obtain ⟨a1, a2, a3, a4, a5, a6, a7, a8, a9, b1, b2, b3, b4, b5, b6, b8⟩ := h
  refine ⟨a1, by rw [h1]; exact a2, by rw [h1]; exact a3, by rw [h2]; exact a4, ?_, ?_, ?_, by rw [h1]; exact a8, ?_, by rw [h1]; exact b1,
    b2, by rw [h5]; exact b3, b4, by rw [h6]; exact b5, by rw [h7]; exact b6, by rw [h8]; exact b8⟩
  · unfold Doorway.dis Doorway.input at *; rw [h2]; exact a5
  · unfold Doorway.eehIn Doorway.input at *; rw [h2]; exact a6
  · unfold Doorway.eeaOut Doorway.input at *; rw [h2]; exact a7
  · unfold rankFour driveFaultCause at *; rw [h1, h2, h3, h4]; exact a9

theorem Gen.interrupt_moving (g : Gen) (e : GenEnv) (x : Interruption) (h : g.state = .moving) :
    (g.interrupt e x).state = .stoppedMid := by
  unfold Gen.interrupt
  dsimp only
  rw [h]
  rfl

/-- An interruption of the moving door drive (R127). -/
theorem onInterruption_door {e : DoorEnv} {w : Work} {st ph c} (hc : w.dw.Calm e) (h : w.At st ph c) (hq : stopsHere st ph = true) (x : Interruption)
    (hm : w.dw.door.gen.state = .moving) :
    (onInterruption e false x w).Is .stopped .none .stopDriveInterrupted ∧ (onInterruption e false x w).dw.door.gen.state = .stoppedMid
      ∧ x ∈ (onInterruption e false x w).dw.door.gen.stops ∧ (x = .following → (onInterruption e false x w).dw.door.flags.followError = true)
      ∧ (x = .temperature → (onInterruption e false x w).dw.door.flags.thermalHold = true)
      ∧ (onInterruption e false x w).dw.door.bridgeTemp = w.dw.door.bridgeTemp
      ∧ (onInterruption e false x w).dw.door.flags.hallDropout = w.dw.door.flags.hallDropout := by
  have hb : (w.dw.door.gen.state == DriveState.moving) = true := by rw [hm]; rfl
  have hcw : (doorInterrupted e x w).dw.Calm e := by
    unfold doorInterrupted
    dsimp only
    rw [if_pos hb]
    exact hc.of_parts rfl rfl rfl rfl rfl rfl rfl rfl
  have hat : (doorInterrupted e x w).At st ph c := h.of_sm (doorInterrupted_sm _ _ _)
  have ht := interruption_tick hcw hat hq
  have hv : (doorInterrupted e x w).dw.door.gen.state = .stoppedMid ∧ x ∈ (doorInterrupted e x w).dw.door.gen.stops
      ∧ (x = .following → (doorInterrupted e x w).dw.door.flags.followError = true)
      ∧ (x = .temperature → (doorInterrupted e x w).dw.door.flags.thermalHold = true)
      ∧ (doorInterrupted e x w).dw.door.bridgeTemp = w.dw.door.bridgeTemp
      ∧ (doorInterrupted e x w).dw.door.flags.hallDropout = w.dw.door.flags.hallDropout := by
    unfold doorInterrupted
    dsimp only
    rw [if_pos hb]
    exact ⟨Gen.interrupt_moving _ _ _ hm, Gen.interrupt_holds _ _ _, fun h => if_pos h, fun h => if_pos h, rfl, rfl⟩
  have he : onInterruption e false x w = doorTickWith e (interruptionStop e) (doorInterrupted e x w) := by
    unfold onInterruption
    dsimp only
    simp only [Bool.false_eq_true, if_false, hb, if_true]
  rw [he]
  refine ⟨ht.1, ht.2.door.2.1 hv.1, ?_, ?_, ?_, ?_, ?_⟩
  · rw [ht.2.door.1]; exact hv.2.1
  · rw [ht.2.door.2.2.2.1]; exact hv.2.2.1
  · rw [ht.2.door.2.2.1]; exact hv.2.2.2.1
  · rw [ht.2.door.2.2.2.2.2.1]; exact hv.2.2.2.2.1
  · rw [ht.2.door.2.2.2.2.1]; exact hv.2.2.2.2.2

/-- An interruption of the moving step drive (R127, R220). -/
theorem onInterruption_step {e : DoorEnv} {w : Work} {st ph c} (hc : w.dw.Calm e) (h : w.At st ph c) (hq : stopsHere st ph = true) (x : Interruption)
    (hm : w.dw.step.gen.state = .moving) :
    (onInterruption e true x w).Is .stopped .none .stopDriveInterrupted ∧ (onInterruption e true x w).dw.step.gen.state = .stoppedMid
      ∧ x ∈ (onInterruption e true x w).dw.step.gen.stops
      ∧ (x = .temperature → (onInterruption e true x w).dw.step.flags.thermalHold = true)
      ∧ (onInterruption e true x w).dw.step.bridgeTemp = w.dw.step.bridgeTemp := by
  have hb : (w.dw.step.gen.state == DriveState.moving) = true := by rw [hm]; rfl
  have ht0 := stepTorqueRemoved_parts e w
  have ht1 : (stepTorqueRemoved e w).dw.step.faultCode = w.dw.step.faultCode ∧ (stepTorqueRemoved e w).dw.step.job = w.dw.step.job
      ∧ (stepTorqueRemoved e w).dw.step.flags.standing = w.dw.step.flags.standing ∧ (stepTorqueRemoved e w).dw.obst = w.dw.obst
      ∧ (stepTorqueRemoved e w).dw.step.bridgeTemp = w.dw.step.bridgeTemp := by
    unfold stepTorqueRemoved
    split
    · exact ⟨rfl, rfl, rfl, rfl, rfl⟩
    · unfold stepLose; dsimp only; split <;> exact ⟨rfl, rfl, rfl, rfl, rfl⟩
  have hcw : (stepInterrupted e x w).dw.Calm e := by
    unfold stepInterrupted
    dsimp only
    rw [if_pos hb]
    exact hc.of_parts ht0.2.1 ht0.1 (congrArg DoorDrive.faultCode ht0.2.2) ht1.1 (congrArg Obstacle.pending ht1.2.2.2.1)
      (congrArg DoorDrive.push ht0.2.2) ht1.2.1 ht1.2.2.1
  have hat : (stepInterrupted e x w).At st ph c := h.of_sm (stepInterrupted_sm _ _ _)
  have ht := interruption_tick hcw hat hq
  have hv : (stepInterrupted e x w).dw.step.gen.state = .stoppedMid ∧ x ∈ (stepInterrupted e x w).dw.step.gen.stops
      ∧ (x = .temperature → (stepInterrupted e x w).dw.step.flags.thermalHold = true)
      ∧ (stepInterrupted e x w).dw.step.bridgeTemp = w.dw.step.bridgeTemp := by
    unfold stepInterrupted
    dsimp only
    rw [if_pos hb]
    refine ⟨?_, ?_, fun h => if_pos h, ht1.2.2.2.2⟩
    · show (if _ then _ else _ : Gen).state = _
      split <;> exact Gen.interrupt_moving _ _ _ hm
    · show x ∈ (if _ then _ else _ : Gen).stops
      split <;> exact Gen.interrupt_holds _ _ _
  have he : onInterruption e true x w = doorTickWith e (interruptionStop e) (stepInterrupted e x w) := by
    unfold onInterruption
    dsimp only
    simp only [if_true, hb]
  rw [he]
  refine ⟨ht.1, ht.2.step.2.1 hv.1, ?_, ?_, ?_⟩
  · rw [ht.2.step.1]; exact hv.2.1
  · rw [ht.2.step.2.2.1]; exact hv.2.2.1
  · rw [ht.2.step.2.2.2]; exact hv.2.2.2

end Sys2Proof.Machine
end

