-- ==== Sys2Proof/Laws/Rests.lean ====
section
/-!
SUPPORT. What running a doorway's engine leaves of Quince and of the spare legs.
-/

namespace Sys2Proof.Machine

/-- Quince's clock and the rows common to all columns, and the spare legs. -/
structure State.Rests (s t : State) : Prop where
  clock : t.quince.oscillator = s.quince.oscillator ∧ t.quince.clockFaults = s.quince.clockFaults
  rows  : ∀ n, 56 ≤ n → t.quince.present.getLsbD n = s.quince.present.getLsbD n
  spare : t.service.brambles = s.service.brambles

theorem State.Rests.refl (s : State) : s.Rests s := ⟨⟨rfl, rfl⟩, fun _ _ => rfl, rfl⟩

theorem State.Rests.trans {s t u : State} (h : s.Rests t) (k : t.Rests u) : s.Rests u :=
  ⟨⟨k.clock.1.trans h.clock.1, k.clock.2.trans h.clock.2⟩, fun n hn => (k.rows n hn).trans (h.rows n hn),
    k.spare.trans h.spare⟩

theorem State.Rests.of_eq {s t : State} (h : t.quince = s.quince) (k : t.service = s.service) : s.Rests t :=
  ⟨⟨by rw [h], by rw [h]⟩, fun _ _ => by rw [h], by rw [k]⟩

theorem State.Rests.of_keeps {s t : State} {ps : List Part} (h : Keeps ps s t) (hq : Part.quince ∉ ps) (hs : Part.service ∉ ps) : s.Rests t :=
  .of_eq (h.only .quince hq) (h.only .service hs)

theorem State.Rests.foldl {α : Type} {s0 : State} (l : List α) {f : State → α → State} (hf : ∀ t x, s0.Rests t → s0.Rests (f t x)) :
    ∀ {t : State}, s0.Rests t → s0.Rests (l.foldl f t) := by
  induction l with
  | nil => exact fun h => h
  | cons x l ih => exact fun h => ih (hf _ x h)

theorem State.latchColumn_rests (s : State) (row : RowIx) (n : Nat) (c : DriveIx) : s.Rests (s.latchColumn row n c) := by
  have hf : ∀ (l : List DoorFx) (t : State), t.Rests (l.foldl (fun s x => match x with
      | .event k p => s.event k p
      | _ => s) t) := by
    intro l t
    refine State.Rests.foldl l (fun u x hu => hu.trans ?_) (State.Rests.refl t)
    split
    · exact .of_eq rfl rfl
    · exact .refl _
  have hi : ∀ (t : State) a b c d x y, t.Rests (t.incident a b c d x y) := fun t a b c d x y =>
    .of_keeps (State.incident_keeps (Within.refl _) (Keeps.refl _ _) a b c d x y) (by decide) (by decide)
  unfold State.latchColumn State.latchAction
  dsimp only
  split
  · exact .refl _
  · split
    · refine State.Rests.trans ?_ (hi _ _ _ _ _ _ _)
      exact State.Rests.trans (t := { s with doors := _, quince := { s.quince with events := satInc 32 s.quince.events } })
        ⟨⟨rfl, rfl⟩, fun _ _ => rfl, rfl⟩ (hf _ _)
    · exact State.Rests.trans (t := { s with doors := _, quince := { s.quince with events := satInc 32 s.quince.events } })
        ⟨⟨rfl, rfl⟩, fun _ _ => rfl, rfl⟩ (hf _ _)

/-- Quince's rows in force and the trips. -/
structure State.Rows (s t : State) : Prop where
  same : t.quince.present = s.quince.present
  trips : t.quince.trips = s.quince.trips

theorem State.Rows.refl (s : State) : s.Rows s := ⟨rfl, rfl⟩

theorem State.Rows.trans {s t u : State} (h : s.Rows t) (k : t.Rows u) : s.Rows u := ⟨k.same.trans h.same, k.trips.trans h.trips⟩

theorem State.Rows.of_eq {s t : State} (h : t.quince.present = s.quince.present) (k : t.quince.trips = s.quince.trips) : s.Rows t := ⟨h, k⟩

theorem State.Rows.of_keeps {s t : State} {ps : List Part} (h : Keeps ps s t) (hq : Part.quince ∉ ps) : s.Rows t :=
  ⟨congrArg Quince.present (h.only .quince hq), congrArg Quince.trips (h.only .quince hq)⟩

theorem State.Rows.foldl {α : Type} {s0 : State} (l : List α) {f : State → α → State} (hf : ∀ t x, s0.Rows t → s0.Rows (f t x)) :
    ∀ {t : State}, s0.Rows t → s0.Rows (l.foldl f t) := by
  induction l with
  | nil => exact fun h => h
  | cons x l ih => exact fun h => ih (hf _ x h)

theorem State.latchColumn_rows (s : State) (row : RowIx) (n : Nat) (c : DriveIx) : s.Rows (s.latchColumn row n c) := by
  have hf : ∀ (l : List DoorFx) (t : State), t.Rows (l.foldl (fun s x => match x with
      | .event k p => s.event k p
      | _ => s) t) := by
    intro l t
    refine State.Rows.foldl l (fun u x hu => hu.trans ?_) (State.Rows.refl t)
    split
    · exact .of_eq rfl rfl
    · exact .refl _
  have hi : ∀ (t : State) a b c d x y, t.Rows (t.incident a b c d x y) := fun t a b c d x y =>
    .of_keeps (State.incident_keeps (Within.refl _) (Keeps.refl _ _) a b c d x y) (by decide)
  unfold State.latchColumn State.latchAction
  dsimp only
  split
  · exact .refl _
  · split
    · refine State.Rows.trans ?_ (hi _ _ _ _ _ _ _)
      exact State.Rows.trans (t := { s with doors := _, quince := { s.quince with events := satInc 32 s.quince.events } })
        (State.Rows.of_eq rfl rfl) (hf _ _)
    · exact State.Rows.trans (t := { s with doors := _, quince := { s.quince with events := satInc 32 s.quince.events } })
        (State.Rows.of_eq rfl rfl) (hf _ _)

theorem State.latchRow_rests (s : State) (row : RowIx) (n : Nat) (l : List DriveIx) : s.Rests (s.latchRow row n l) :=
  State.Rests.foldl l (fun t c h => h.trans (State.latchColumn_rests t row n c)) (State.Rests.refl s)

theorem State.latchRow_rows (s : State) (row : RowIx) (n : Nat) (l : List DriveIx) : s.Rows (s.latchRow row n l) :=
  State.Rows.foldl l (fun t c h => h.trans (State.latchColumn_rows t row n c)) (State.Rows.refl s)

theorem row_bit (p : BitVec 64) (k n : Nat) (h : n ≠ k) (on : Bool) :
    (if on then p ||| (1#64 <<< k) else p &&& ~~~(1#64 <<< k)).getLsbD n = p.getLsbD n := by
  have h1 : (1#64 <<< k).getLsbD n = false := by
    simp [BitVec.getLsbD_shiftLeft]; omega
  by_cases hn : n < 64
  · have h2 : (p ||| (1#64 <<< k)).getLsbD n = p.getLsbD n := by rw [BitVec.getLsbD_or, h1, Bool.or_false]
    have h3 : (p &&& ~~~(1#64 <<< k)).getLsbD n = p.getLsbD n := by
      rw [BitVec.getLsbD_and, BitVec.getLsbD_not, h1]; simp [hn]
    cases on
    · exact h3
    · exact h2
  · have : 64 ≤ n := by omega
    rw [BitVec.getLsbD_of_ge _ _ this, BitVec.getLsbD_of_ge _ _ this]

theorem State.setLevel_rests (s : State) (row : RowIx) (hr : row.val < 56) (on : Bool) : s.Rests (s.setLevel row on) := by
  have h0 : s.Rests { s with quince := { s.quince with
      present := if on then s.quince.present ||| (1#64 <<< row.val) else s.quince.present &&& ~~~(1#64 <<< row.val) } } :=
    ⟨⟨rfl, rfl⟩, fun n hn => row_bit _ _ _ (by omega) _, rfl⟩
  unfold State.setLevel
  dsimp only
  split
  · exact h0.trans (State.latchRow_rests _ row 0 drives)
  · exact h0

theorem State.setLevel_bit (s : State) (row : RowIx) (on : Bool) : (s.setLevel row on).quince.present.getLsbD row.val = on := by
  have hb : (1#64 <<< row.val).getLsbD row.val = true := by
    simp [row.isLt]
  have h0 : (if on then s.quince.present ||| (1#64 <<< row.val) else s.quince.present &&& ~~~(1#64 <<< row.val)).getLsbD row.val = on := by
    cases on <;> simp
  have h1 : ∀ l (t : State), (t.latchRow row 0 l).quince.present = t.quince.present := fun l t =>
    (State.latchRow_rows t row 0 l).same
  unfold State.setLevel
  dsimp only
  split
  · rw [h1]; exact h0
  · exact h0

theorem State.egressRows_rests (s : State) (d : DoorIx) : s.Rests (s.egressRows d) :=
  (State.setLevel_rests s _ (by show 40 + 2 * d.val < 56; omega) _).trans (State.setLevel_rests _ _ (by show 41 + 2 * d.val < 56; omega) _)

theorem State.applyFx_rests (d : DoorIx) (s : State) (x : DoorFx) : s.Rests (s.applyFx d x) := by
  cases x with
  | event c p => exact .of_eq rfl rfl
  | incident c step =>
    show s.Rests (s.incident c false (some d) (some (if step then stepDrive d else doorDrive d)) false false)
    exact .of_keeps (State.incident_keeps (Within.refl _) (Keeps.refl _ _) _ _ _ _ _ _) (by decide) (by decide)
  | cycleRecord c st => exact .of_keeps (State.stage_keeps (Within.refl _) (Keeps.refl _ _) _ _) (by decide) (by decide)
  | flush => exact .of_eq rfl rfl
  | releaseBlocked => exact .of_eq rfl rfl
  | pulse => exact .of_eq rfl rfl
  | tripsEnd => exact ⟨⟨rfl, rfl⟩, fun _ _ => rfl, rfl⟩
  | maintEnd m o r =>
    show s.Rests (s.maintEnds d m o r)
    have hc : ∀ a b c p, s.Rests (s.complete a b c p) := fun a b c p =>
      .of_keeps (State.complete_keeps (Within.refl _) (Keeps.refl _ _) a b c p) (by decide) (by decide)
    unfold State.maintEnds
    dsimp only
    split
    · exact hc _ _ _ _
    · exact hc _ _ _ _
    · exact hc _ _ _ _
    · exact .refl _
    · exact ⟨⟨rfl, rfl⟩, fun _ _ => rfl, rfl⟩

theorem State.runDoor_rests (s : State) (d : DoorIx) (f : DoorEnv → Work → Work) : s.Rests (s.runDoor d f) := by
  unfold State.runDoor
  split
  · exact .refl _
  · have h1 : ∀ (l : List DoorFx) (t : State), t.Rests (l.foldl (State.applyFx d) t) := fun l t =>
      State.Rests.foldl l (fun u x hu => hu.trans (State.applyFx_rests d u x)) (State.Rests.refl t)
    dsimp only
    generalize f (s.doorEnv d) ⟨s.doors[d], []⟩ = w
    have h2 := State.Rests.trans (s := s) (t := { s with doors := s.doors.set d w.dw }) (.of_eq rfl rfl) (h1 w.fx _)
    have h3 := h2.trans (.of_keeps (State.followDoor_keeps (Within.refl _) (Keeps.refl _ _) d) (by decide) (by decide))
    have h4 := h3.trans (State.egressRows_rests _ d)
    have h5 := h4.trans (.of_keeps (State.evaluate_keeps (Within.refl _) (Keeps.refl _ _)) (by decide) (by decide))
    exact h5.trans (.of_eq rfl rfl)

/-! ## The same work at every doorway -/

/-- One doorway's share where every fitted doorway does the same. -/
theorem State.eachDoor_own (g : DoorEnv → Work → Work) (d : DoorIx) : ∀ (l : List DoorIx) (s : State), l.Nodup → d ∈ l →
    s.cfg.isFitted d = true → s.leafRuns d = true →
    ∃ e w, e.cfg = s.cfg ∧ e.d = d ∧ (s.doors[d]).alike w
      ∧ (g e ⟨w, []⟩).dw.alike (l.foldl (fun s d => if s.cfg.isFitted d then s.runDoor d g else s) s).doors[d] := by
  have hstep : ∀ (u : State) (c : DoorIx), (if u.cfg.isFitted c then u.runDoor c g else u).config = u.config
      ∧ (if u.cfg.isFitted c then u.runDoor c g else u).power = u.power
      ∧ (if u.cfg.isFitted c then u.runDoor c g else u).engines = u.engines := by
    intro u c
    have hk := State.runDoor_keeps (Within.refl _) (Keeps.refl _ u) c g
    split
    · exact ⟨hk.only .config (by decide), hk.only .power (by decide), hk.only .engines (by decide)⟩
    · exact ⟨rfl, rfl, rfl⟩
  have hother : ∀ (u : State) (c : DoorIx), c ≠ d → (u.doors[d]).alike (if u.cfg.isFitted c then u.runDoor c g else u).doors[d] := by
    intro u c hc
    split
    · by_cases hr : u.leafRuns c = true
      · have := State.runDoor_alike u c g hr d
        rw [if_neg (fun h => hc h.symm)] at this
        exact this
      · have : u.runDoor c g = u := by unfold State.runDoor; simp [hr]
        rw [this]; exact Doorway.alike_refl _
    · exact Doorway.alike_refl _
  have hrest : ∀ (l : List DoorIx) (u : State), d ∉ l →
      (u.doors[d]).alike (l.foldl (fun s d => if s.cfg.isFitted d then s.runDoor d g else s) u).doors[d] := by
    intro l
    induction l with
    | nil => intro u _; exact Doorway.alike_refl _
    | cons c l ih =>
      intro u hd
      rw [List.mem_cons, not_or] at hd
      exact Doorway.alike_trans (hother u c (fun h => hd.1 h.symm)) (ih _ hd.2)
  intro l
  induction l with
  | nil => intro s _ hm; exact absurd hm List.not_mem_nil
  | cons c l ih =>
    intro s hn hm hf hr
    rw [List.nodup_cons] at hn
    rw [List.foldl_cons]
    by_cases hc : c = d
    · subst hc
      have h := s.runDoor_own c g hr
      have hif : (if s.cfg.isFitted c then s.runDoor c g else s) = s.runDoor c g := if_pos hf
      exact ⟨s.doorEnv c, s.doors[c], rfl, rfl, Doorway.alike_refl _, Doorway.alike_trans h (by rw [hif]; exact hrest l _ hn.1)⟩
    · have hm' : d ∈ l := by
        rcases List.mem_cons.mp hm with h | h
        · exact absurd h.symm hc
        · exact h
      obtain ⟨h1, h2, h3⟩ := hstep s c
      have hcfg : (if s.cfg.isFitted c then s.runDoor c g else s).cfg = s.cfg := congrArg ConfigStore.cfg h1
      obtain ⟨e, w, q1, q2, q3, q4⟩ := ih _ hn.2 hm' (by rw [hcfg]; exact hf) (by
        unfold State.leafRuns at *; rw [h2, h3]; exact hr)
      exact ⟨e, w, q1.trans hcfg, q2, Doorway.alike_trans (hother s c hc) q3, q4⟩

end Sys2Proof.Machine
end

