-- ==== Sys2Proof/Laws/Hushes.lean ====
section
/-!
SUPPORT. What of a session no event touches, and the operations that touch sessions by events alone (chapter 9).
-/

namespace Sys2Proof.Machine

/-- A session apart from its events: their store, their numbering and the transmit queue. -/
def Session.core (z : Session) : Session :=
  { z with events := [], dseqNext := 0, txQueue := [], txWaiting := [], txDropped := 0, lostUnacked := 0, eventsLost := false
           lastGone := none }

/-- From s to t the sessions change by events alone. -/
def State.Hush (s t : State) : Prop := ∀ i : SessIx, t.fcp.sessions[i].core = s.fcp.sessions[i].core

theorem State.Hush.refl (s : State) : s.Hush s := fun _ => rfl

theorem State.Hush.trans {s t u : State} (h : s.Hush t) (k : t.Hush u) : s.Hush u := fun i => (k i).trans (h i)

theorem State.Hush.of_fcp {s t : State} (h : t.fcp = s.fcp) : s.Hush t := fun i => by rw [h]

theorem State.Hush.of_sessions {s t : State} (h : t.fcp.sessions = s.fcp.sessions) : s.Hush t := fun i => by rw [h]

theorem State.Hush.foldl {α : Type} {s0 : State} (l : List α) {f : State → α → State} (hf : ∀ (t : State) (x : α), t.Hush (f t x)) :
    ∀ {t : State}, s0.Hush t → s0.Hush (l.foldl f t) := by
  induction l with
  | nil => exact fun h => h
  | cons x l ih => exact fun h => ih (h.trans (hf _ x))

theorem Session.storeEvent_core (z : Session) (e : StoredEvent) : (z.storeEvent e).core = z.core := by
  unfold Session.storeEvent
  dsimp only
  split
  · rfl
  · split
    · rfl
    · split <;> rfl

theorem Session.sendEvent_core (z : Session) (i : SessIx) (code handle : Nat) (payload : List Byte) :
    (z.sendEvent i code handle payload).core = z.core := by
  unfold Session.sendEvent
  dsimp only
  split
  · rfl
  · have h : ∀ (v : Session), v.core = z.core → (∀ q n, ({ v with txQueue := q, dseqNext := n } : Session).core = z.core)
        ∧ (∀ q n, ({ v with txDropped := q, dseqNext := n } : Session).core = z.core) := by
      intro v hv
      exact ⟨fun _ _ => hv, fun _ _ => hv⟩
    obtain ⟨h1, h2⟩ := h _ (Session.storeEvent_core z ⟨z.dseqNext, code, payload⟩)
    split
    · exact h1 _ _
    · exact h2 _ _

theorem Fcp.eventAll_core (f : Fcp) (code : Nat) (p : List Byte) (i : SessIx) :
    (f.eventAll code p).sessions[i].core = f.sessions[i].core := by
  unfold Fcp.eventAll
  show ((tab 6 _ : Vector Session 6)[i] : Session).core = _
  rw [tab_get]
  exact Session.sendEvent_core _ _ _ _ _

theorem Fcp.eventState_core (f : Fcp) (now : Nat) (j : SessIx) (a b : SessState) (i : SessIx) :
    (f.eventState now j a b).sessions[i].core = f.sessions[i].core := by
  unfold Fcp.eventState
  show ((tab 6 _ : Vector Session 6)[i] : Session).core = _
  rw [tab_get]
  split
  · rfl
  · exact Session.sendEvent_core _ _ _ _ _

theorem Fcp.setCommanders_core (f : Fcp) (now : Nat) (g : DoorIx → Option SessIx) (i : SessIx) :
    (f.setCommanders now g).sessions[i].core = f.sessions[i].core := by
  unfold Fcp.setCommanders
  dsimp only
  split
  · rfl
  · exact Fcp.eventAll_core _ _ _ _

theorem State.event_hush (s : State) (c : Nat) (p : List Byte) : s.Hush (s.event c p) := fun i => Fcp.eventAll_core _ _ _ i

theorem State.events_hush (s : State) (l : Events) : s.Hush (s.events l) := by
  unfold State.events
  exact State.Hush.foldl l (fun t x => t.event_hush x.1 x.2) (.refl s)

theorem State.loopEvents_hush (s : State) (l : List Nat) : s.Hush (s.loopEvents l) := by
  unfold State.loopEvents
  exact State.Hush.foldl l (fun t x => t.event_hush x _) (.refl s)

theorem State.incident_hush (s : State) (c m d r a b) : s.Hush (s.incident c m d r a b) := by
  unfold State.incident
  dsimp only
  have h : ∀ (x : Recorder) (l : Events), s.Hush (({ s with log := x }).events l) := fun x l =>
    State.Hush.trans (t := { s with log := x }) (.of_fcp rfl) (State.events_hush _ _)
  generalize s.log.open s.cfg _ _ = o
  cases d with
  | none => exact h _ _
  | some d =>
    dsimp only
    split
    · exact (h _ _).trans (.of_fcp rfl)
    · exact h _ _

theorem State.stage_hush (s : State) (c : Bool) (b : Nat → List Byte) : s.Hush (s.stage c b) :=
  State.Hush.trans (t := { s with log := (s.log.stage s.cfg s.now c b).1 }) (.of_fcp rfl) (State.events_hush _ _)

theorem Fcp.session_core (f : Fcp) (j : SessIx) (g : Session → Session) (hg : ∀ z : Session, (g z).core = z.core) (i : SessIx) :
    (f.session j g).sessions[i].core = f.sessions[i].core := by
  show ((f.sessions.set j.val (g f.sessions[j]))[i.val]).core = _
  rw [Vector.getElem_set]
  split
  · rename_i h
    have : j = i := Fin.ext h
    subst this
    exact hg _
  · rfl

theorem State.complete_hush (s : State) (h st r p) : s.Hush (s.complete h st r p) := by
  unfold State.complete
  split
  · exact .refl s
  · exact fun i => Fcp.session_core _ _ _ (fun z => Session.sendEvent_core z _ _ _ _) i

theorem State.settleOp_hush (s : State) (h : Nat) : s.Hush (s.settleOp h) := by
  unfold State.settleOp
  split
  · exact .refl s
  · split
    · exact .refl s
    · dsimp only
      split <;> first | exact State.complete_hush _ _ _ _ _ | exact .refl s

theorem State.followDoor_hush (s : State) (d : DoorIx) : s.Hush (s.followDoor d) := by
  unfold State.followDoor
  dsimp only
  exact State.Hush.foldl _ (fun t x => t.settleOp_hush x) (.of_sessions rfl)

theorem State.maintEnds_hush (s : State) (d m o r) : s.Hush (s.maintEnds d m o r) := by
  unfold State.maintEnds
  dsimp only
  split
  · exact State.complete_hush _ _ _ _ _
  · exact State.complete_hush _ _ _ _ _
  · exact State.complete_hush _ _ _ _ _
  · exact .refl s
  · exact .of_fcp rfl

theorem State.latchAction_hush (s : State) (row : RowIx) (n : Nat) (a : Action) (c : DriveIx) : s.Hush (s.latchAction row n a c) := by
  unfold State.latchAction
  dsimp only
  split
  · exact .refl s
  · generalize (if (!isStep c && tripRow row (doorOf c)) = true then _ else _ : Work) = w
    have h : s.Hush (w.fx.foldl (fun s x => match x with
        | .event k p => s.event k p
        | _ => s) { s with doors := s.doors.set (doorOf c) w.dw, quince := { s.quince with events := satInc 32 s.quince.events } }) := by
      refine State.Hush.foldl _ (fun t x => ?_) (.of_fcp rfl)
      cases x <;> first | exact State.event_hush _ _ _ | exact .refl t
    split
    · exact h.trans (State.incident_hush _ _ _ _ _ _ _)
    · exact h

theorem State.latchColumn_hush (s : State) (row : RowIx) (n : Nat) (c : DriveIx) : s.Hush (s.latchColumn row n c) :=
  s.latchAction_hush row n _ c

theorem State.latchRow_hush (s : State) (row : RowIx) (n : Nat) (l : List DriveIx) : s.Hush (s.latchRow row n l) :=
  State.Hush.foldl l (fun t c => t.latchColumn_hush row n c) (.refl s)

theorem State.setLevel_hush (s : State) (row : RowIx) (on : Bool) : s.Hush (s.setLevel row on) := by
  unfold State.setLevel
  dsimp only
  have h : ∀ v : BitVec 64, s.Hush { s with quince := { s.quince with present := v } } := fun _ => .of_fcp rfl
  split
  · exact (h _).trans (State.latchRow_hush _ _ _ _)
  · exact h _

theorem State.egressRows_hush (s : State) (d : DoorIx) : s.Hush (s.egressRows d) :=
  (State.setLevel_hush _ _ _).trans (State.setLevel_hush _ _ _)

theorem State.bypassRow_hush (s : State) : s.Hush s.bypassRow := State.setLevel_hush _ _ _

theorem State.tripRows_hush (s : State) (r : DriveIx) (on : Bool) : s.Hush (s.tripRows r on) := by
  unfold State.tripRows
  dsimp only
  have h : ∀ v, s.Hush { s with quince := { s.quince with trips := v } } := fun _ => .of_fcp rfl
  split
  · exact (h _).trans ((State.latchRow_hush _ _ _ _).trans (State.latchRow_hush _ _ _ _))
  · exact h _

theorem State.evaluate_hush (s : State) : s.Hush s.evaluate := by
  have h1 : s.Hush (if s.power.on 3 || s.power.on 8 then
      ({ s with loop := (s.loop.evaluate s.loopEnv).1 }).loopEvents (s.loop.evaluate s.loopEnv).2 else s) := by
    split
    · exact State.Hush.trans (t := { s with loop := (s.loop.evaluate s.loopEnv).1 }) (.of_fcp rfl) (State.loopEvents_hush _ _)
    · exact .refl s
  have h2 : ∀ t : State, t.Hush (if t.supvRuns then { t with outs := t.outs.evaluate t.outEnv }
      else if t.fieldOn then { t with outs := { (FieldOutputs.evaluate t.outEnv { t.outs with held := true }) with held := t.outs.held } } else t) := by
    intro t
    split
    · exact .of_fcp rfl
    · split
      · exact .of_fcp rfl
      · exact .refl t
  unfold State.evaluate
  exact h1.trans (h2 _)

theorem State.applyFx_hush (d : DoorIx) (s : State) (x : DoorFx) : s.Hush (s.applyFx d x) := by
  cases x with
  | event c p => exact State.event_hush _ _ _
  | incident c step => exact State.incident_hush _ _ _ _ _ _ _
  | cycleRecord c st => exact State.stage_hush _ _ _
  | flush => exact .of_fcp rfl
  | releaseBlocked => exact .of_fcp rfl
  | pulse => exact .of_fcp rfl
  | tripsEnd => exact .of_fcp rfl
  | maintEnd m o r => exact State.maintEnds_hush _ _ _ _ _

theorem State.runDoor_hush (s : State) (d : DoorIx) (f : DoorEnv → Work → Work) : s.Hush (s.runDoor d f) := by
  unfold State.runDoor
  split
  · exact .refl _
  · dsimp only
    generalize f (s.doorEnv d) ⟨s.doors[d], []⟩ = w
    have h2 : s.Hush (w.fx.foldl (State.applyFx d) { s with doors := s.doors.set d w.dw }) :=
      State.Hush.foldl _ (fun t x => State.applyFx_hush d t x) (.of_fcp rfl)
    exact (((h2.trans (State.followDoor_hush _ _)).trans (State.egressRows_hush _ _)).trans (State.evaluate_hush _)).trans (.of_fcp rfl)

theorem State.tickAll_hush (s : State) : s.Hush s.tickAll :=
  State.Hush.foldl doorways (fun t d => t.runDoor_hush d doorTick) (.refl s)

theorem State.supervise_hush (s : State) : s.Hush s.supervise := (State.evaluate_hush s).trans s.evaluate.tickAll_hush

end Sys2Proof.Machine
end

