-- ==== Sys2Proof/Laws/Cans.lean ====
section
/-!
SUPPORT. The CAN channels (chapter 12).
-/

set_option linter.unusedVariables false
set_option linter.unusedSimpArgs false

namespace Sys2Proof.Machine

theorem events_can (s : State) (l : Events) : (s.events l).can = s.can :=
  (State.events_keeps (Within.refl _) (Keeps.refl _ s) l).only .can (by decide)

theorem chan_set (c : Vector CanChannel 2) (ch : CanIx) (k : CanChannel) : (c.set ch.val k ch.isLt)[ch] = k := by
  show (c.set ch.val k ch.isLt)[ch.val] = k
  rw [Vector.getElem_set_self]

theorem onChannel_own (s : State) (ch : CanIx) (f : CanChannel → CanEnv → CanChannel × Events) (h : s.power.on 2 = true) :
    (s.onChannel ch f).can.channels[ch] = (f s.can.channels[ch] s.canEnv).1 := by
  unfold State.onChannel
  rw [if_neg (by rw [h]; decide)]
  dsimp only
  rw [events_can]
  exact chan_set _ _ _

theorem dropPartials_can (s : State) (ch : CanIx) : (s.dropPartials ch).can = s.can := by
  unfold State.dropPartials
  have h : ∀ (l : List SessIx) (t : State), (l.foldl (fun s i => if s.cfg.sessTransport i = 2 + ch.val then s.partialTimeout i else s) t).can = t.can := by
    intro l
    induction l with
    | nil => exact fun _ => rfl
    | cons a l ih =>
      intro t
      refine (ih _).trans ?_
      dsimp only
      split
      · unfold State.partialTimeout
        split <;> rfl
      · rfl
  exact h _ _

theorem service_out (k : CanChannel) (c : Cfg) (ch : CanIx) (h : c.canOwned ch = false) :
    (k.service c ch).rxq0.entries = [] ∧ (k.service c ch).rxq1.entries = [] ∧ (k.service c ch).rxq0.overflows = k.rxq0.overflows
      ∧ ∀ x, k.rxq0.entries = [x] → k.rxq1.entries = [] → bitOf (c.filterCtrl ch x.filter.val) 3 = true →
          (k.service c ch).filters[x.filter].lastRx = frameBytes x.frame x.time := by
  unfold CanChannel.service
  rw [if_neg (by rw [h]; decide)]
  dsimp only
  refine ⟨rfl, rfl, rfl, fun x h0 h1 hb => ?_⟩
  rw [h0, h1]
  simp only [List.append_nil, List.foldl_cons, List.foldl_nil, hb, if_true]
  show (Vector.set k.filters x.filter.val _ x.filter.isLt)[x.filter.val].lastRx = _
  rw [Vector.getElem_set_self]

theorem enterBusOff_out (k : CanChannel) (e : CanEnv) (ch : CanIx) (h1 : k.active = true) (h2 : k.busOff = false) :
    (k.enterBusOff e ch).1 = { k with busOff := true, integrating := false, busOffs := satInc 16 k.busOffs, busOffSeen := true
                                      txErr := 255, recovering := decide (e.cfg.canBusoffAuto ch = 1), txb0 := TxBuffer.empty
                                      txb1 := TxBuffer.empty, txb2 := TxBuffer.empty, running := false, cycle := none, syncLost := false } := by
  unfold CanChannel.enterBusOff
  rw [if_neg (by rw [h1, h2]; decide)]

theorem loadSlot_out (c : Can) (e : CanEnv) (ch : CanIx) (n : Nat) (k : CanChannel) (hk : c.channels[ch] = k) (ha : k.active = true)
    (hi : k.integrating = false) (hb : k.busOff = false) (hs : k.syncLost = false) (hn : schedBase k.live ≠ 0) (hl : n < schedSlots k.live)
    (b : BasicCycle) (hc : k.cycle = some b) (h0 : n ≠ 0) (h1 : cellKind (schedCell k.live b.number n) = 1)
    (hd : e.cfg.dataSource (cellObject (schedCell k.live b.number n)) ≠ 3) :
    c.loadSlot e ch n = c.channel ch (fun q => { q with txb0 := { frames := [objectFrame c.objects[cellObject (schedCell k.live b.number n)] e ch (cellObject (schedCell k.live b.number n)) b.number], session := none, object := some (cellObject (schedCell k.live b.number n)), waits := false } }) := by
  have hx : k.loadNumber e n = b.number := by
    unfold CanChannel.loadNumber; rw [if_neg h0, hc]
  unfold Can.loadSlot
  subst hk
  have e2 : (schedBase c.channels[ch].live == 0) = false := by rw [beq_eq_false_iff_ne]; exact hn
  have e3 : decide (schedSlots c.channels[ch].live ≤ n) = false := by simpa using hl
  have e4 : (c.channels[ch].cycle.isSome || decide (n = 0)) = true := by rw [hc]; rfl
  dsimp only
  rw [if_neg (by rw [ha, hi, hb, hs, e2, e3, e4]; decide)]
  simp only [hx]
  rw [if_neg (fun h => h.elim (fun h => h h1) (fun h => hd h.1))]

theorem chan_own (c : Can) (ch : CanIx) (g : CanChannel → CanChannel) : (c.channel ch g).channels[ch] = g c.channels[ch] := chan_set _ _ _

theorem object_own (c : Can) (m : Fin 64) (g : MsgObject → MsgObject) : (c.object m g).objects[m] = g c.objects[m] := by
  show (c.objects.set m.val _ m.isLt)[m.val] = _
  rw [Vector.getElem_set_self]

theorem buffer_set (k : CanChannel) (b : TxBuf) (x : TxBuffer) : (k.setBuffer b x).buffer b = x := by cases b <;> rfl

theorem bitOf_toNat (v : BitVec 32) (k : Nat) : bitOf v.toNat k = v.getLsbD k := by
  unfold bitOf BitVec.getLsbD; rw [Nat.testBit_eq_decide_div_mod_eq]; rfl

theorem transmitted_out (c : Can) (e : CanEnv) (ch : CanIx) (b : TxBuf) (x : CanFrame) (rest : List CanFrame)
    (h : (c.channels[ch].buffer b).frames = x :: rest) :
    ((c.transmitted e ch b .complete).1.channels[ch].buffer b).frames = rest
      ∧ (c.transmitted e ch b .complete).1.channels[ch].txFrames = satInc 32 c.channels[ch].txFrames
      ∧ ∀ m, (c.channels[ch].buffer b).object = some m → (c.transmitted e ch b .complete).1.objects[m].txCount = satInc 32 c.objects[m].txCount
          ∧ (c.transmitted e ch b .complete).1.objects[m].lastTx = e.now := by
  unfold Can.transmitted
  dsimp only
  rw [h]
  dsimp only
  generalize hy : (if rest.isEmpty then TxBuffer.empty else { c.channels[ch].buffer b with frames := rest, waits := false }) = y
  have hyf : y.frames = rest := by
    subst hy
    cases rest <;> rfl
  have hw : ∀ (k : CanChannel) (n m : Nat), ({ k with txFrames := n, txErr := m } : CanChannel).buffer b = k.buffer b := by
    intro k n m; cases b <;> rfl
  cases ho : (c.channels[ch].buffer b).object with
  | none =>
    refine ⟨?_, ?_, fun m hm => by cases hm⟩
    · dsimp only
      rw [chan_set, hw, buffer_set, hyf]
    · dsimp only
      rw [chan_set]
  | some m =>
    refine ⟨?_, ?_, fun m' hm => ?_⟩
    · show ((((Vector.set _ ch.val _ ch.isLt : Vector CanChannel 2)[ch]) : CanChannel).buffer b).frames = _
      rw [chan_set, hw, buffer_set, hyf]
    · show (((Vector.set _ ch.val _ ch.isLt : Vector CanChannel 2)[ch]) : CanChannel).txFrames = _
      rw [chan_set]
    · cases hm
      dsimp only
      rw [object_own]
      exact ⟨rfl, rfl⟩

theorem receive_remote (k : CanChannel) (e : CanEnv) (ch : CanIx) (x : CanFrame) (h1 : k.active = true) (h2 : k.integrating = false)
    (h3 : k.busOff = false) (hr : x.remote = true) :
    (k.receive e ch x).1.rxFrames = satInc 32 k.rxFrames ∧ (k.receive e ch x).1.rxUnmatched = satInc 32 k.rxUnmatched
      ∧ (k.receive e ch x).2.2 = .nothing := by
  unfold CanChannel.receive
  rw [if_neg (by rw [h1, h2, h3]; decide)]
  dsimp only
  rw [if_pos hr]
  exact ⟨rfl, rfl, rfl⟩

theorem receive_filtered (k : CanChannel) (e : CanEnv) (ch : CanIx) (x : CanFrame) (h1 : k.active = true) (h2 : k.integrating = false)
    (h3 : k.busOff = false) (hr : x.remote = false) (hs : sessionOf e.cfg ch x = none) (hb : schedBase k.live ≠ 2) :
    ∃ k' : CanChannel, k'.rxFrames = satInc 32 k.rxFrames ∧ k'.filters = k.filters ∧ k'.rxq0 = k.rxq0 ∧ k'.rxq1 = k.rxq1
      ∧ (k.receive e ch x).1 = (k'.filtered e ch x).1 ∧ (k.receive e ch x).2.2 = .nothing := by
  refine ⟨{ k with rxFrames := satInc 32 k.rxFrames, rxErr := if 127 < k.rxErr then 127 else k.rxErr - 1 }, rfl, rfl, rfl, rfl, ?_, ?_⟩
  · unfold CanChannel.receive
    rw [if_neg (by rw [h1, h2, h3]; decide)]
    dsimp only
    rw [if_neg (by rw [hr]; decide), hs]
    dsimp only
    rw [if_neg]
    unfold CanChannel.isReference
    simp [hb]
  · unfold CanChannel.receive
    rw [if_neg (by rw [h1, h2, h3]; decide)]
    dsimp only
    rw [if_neg (by rw [hr]; decide), hs]

theorem filtered_first (k : CanChannel) (e : CanEnv) (ch : CanIx) (x : CanFrame) (f : Fin 32)
    (hf : filterNumbers.find? (fun f => filterMatches e.cfg ch f x) = some f) (hb : bitOf (e.cfg.filterCtrl ch f.val) 2 = false)
    (hl : k.rxq0.entries.length < 16) :
    (k.filtered e ch x).1.rxq0.entries = k.rxq0.entries ++ [⟨x, e.now, f⟩] ∧ (k.filtered e ch x).1.rxFrames = k.rxFrames
      ∧ (k.filtered e ch x).1.filters[f].hits = satInc 32 k.filters[f].hits ∧ (k.filtered e ch x).1.rxq1 = k.rxq1 := by
  unfold CanChannel.filtered
  rw [hf]
  dsimp only
  rw [if_neg (by rw [hb]; decide)]
  unfold RxQueue.take
  dsimp only
  rw [if_pos hl]
  refine ⟨rfl, rfl, ?_, rfl⟩
  show ((k.filters.set f.val _ f.isLt)[f.val]).hits = _
  rw [Vector.getElem_set_self]

theorem filtered_full (k : CanChannel) (e : CanEnv) (ch : CanIx) (x : CanFrame) (f : Fin 32)
    (hf : filterNumbers.find? (fun f => filterMatches e.cfg ch f x) = some f) (hb : bitOf (e.cfg.filterCtrl ch f.val) 2 = true)
    (hl : 16 ≤ k.rxq1.entries.length) :
    (k.filtered e ch x).1.rxq1.entries = k.rxq1.entries ∧ (k.filtered e ch x).1.rxq1.overflows = satInc 32 k.rxq1.overflows
      ∧ (k.filtered e ch x).1.rxq0 = k.rxq0 := by
  unfold CanChannel.filtered
  rw [hf]
  dsimp only
  rw [if_pos hb]
  unfold RxQueue.take
  dsimp only
  rw [if_neg (by omega)]
  cases k.rxq1.lastEvent with
  | none => exact ⟨rfl, rfl, rfl⟩
  | some t =>
    dsimp only
    split <;> exact ⟨rfl, rfl, rfl⟩

theorem canFrame_own (s : State) (ch : CanIx) (x : CanFrame) (h : s.power.on 2 = true)
    (hn : (s.can.channels[ch].receive s.canEnv ch x).2.2 = .nothing) :
    (s.canFrame ch x).can.channels[ch] = (s.can.channels[ch].receive s.canEnv ch x).1 := by
  unfold State.canFrame
  rw [if_neg (by rw [h]; decide)]
  dsimp only
  rw [hn]
  dsimp only
  rw [events_can]
  exact chan_set _ _ _

theorem latestStart_goes (c : Can) (ch : CanIx) (b : TxBuf) (k : CanChannel) (hk : c.channels[ch] = k) (h1 : (k.buffer b).frames ≠ [])
    (h2 : schedBase k.live ≠ 0) (h3 : k.syncLost = false) (h4 : k.running = true) :
    c.latestStart ch b = (match b with
    | .txb0 =>
      let c := c.channel ch (fun k => { k with txb0 := TxBuffer.empty, txMissed := satInc 32 k.txMissed })
      match k.txb0.object with
      | some m => c.object m (fun o => { o with missed := satInc 32 o.missed })
      | none => c
    | .txb1 => c.channel ch (fun _ => { k with txb1 := { k.txb1 with waits := true } })
    | .txb2 => c.channel ch (fun _ => { k with txb2 := { k.txb2 with waits := true } })) := by
  unfold Can.latestStart
  subst hk
  have e1 : ((c.channels[ch].buffer b).frames).isEmpty = false := by simpa using h1
  have e2 : (schedBase c.channels[ch].live == 0) = false := by rw [beq_eq_false_iff_ne]; exact h2
  dsimp only
  rw [if_neg (by rw [e1, e2, h3, h4]; decide)]
  cases b <;> rfl

theorem object_channels (c : Can) (m : Fin 64) (g : MsgObject → MsgObject) : (c.object m g).channels = c.channels := rfl

theorem events_ops (s : State) (l : Events) : (s.events l).fcp.ops = s.fcp.ops := by
  unfold State.events
  induction l generalizing s with
  | nil => rfl
  | cons x l ih => exact (ih _).trans rfl

end Sys2Proof.Machine
end

