-- ==== Sys2Proof/Laws/Settles.lean ====
section
/-!
SUPPORT. What evaluating release, loop and outputs, and running the doorways' engines, leave of the loop's own records, of the
trainline group and of the outputs (chapters 2 and 8).
-/

namespace Sys2Proof.Machine

/-- The part of the loop that no evaluation touches: settle states, the keeper, bypass, discrepancy and their counters. -/
def Loop.records (l : Loop) : List Nat × (Bool × Bool × Bool) × Option (Nat × Nat) × Vector KeeperView 8 × KeeperView
    × Bool × Option KeeperAlone × (Bool × Bool × List Nat) × (Bool × Nat) :=
  ([l.counters.discrepancies, l.counters.bypasses, l.counters.bypassTime, l.counters.rbFaults, l.counters.zspdFaults],
    (l.orientPending, l.relSettled.1, l.relSettled.2), l.masks, l.keeper, l.bypassView, l.supvStopped, l.alone,
    (l.discrepancy, l.persistent, l.latched), (l.bypassActive, l.bypassSince))

/-- The part of the outputs that no evaluation touches. -/
def FieldOutputs.records (f : FieldOutputs) : FieldOutputs := { f with value := 0, pulse := [] }

/-- From s to t the trainline group, the loop's records and the outputs but for their values and the compare pulses stay, and a discrepancy of the
zero-speed inputs does not clear while they differ. -/
structure State.Settles (s t : State) : Prop where
  loop  : t.loop.records = s.loop.records
  train : t.train = s.train
  outs  : t.outs.records = s.outs.records
  zspd  : s.train.filtered.getLsbD 3 ≠ s.train.filtered.getLsbD 4 → t.loop.zspdDiscrepancy = s.loop.zspdDiscrepancy

theorem State.Settles.refl (s : State) : s.Settles s := ⟨rfl, rfl, rfl, fun _ => rfl⟩

theorem State.Settles.trans {s t u : State} (h : s.Settles t) (k : t.Settles u) : s.Settles u :=
  ⟨k.loop.trans h.loop, k.train.trans h.train, k.outs.trans h.outs, fun hz => (k.zspd (by rw [h.train]; exact hz)).trans (h.zspd hz)⟩

theorem State.Settles.of_keeps {s t : State} {ps : List Part} (h : Keeps ps s t) (hl : Part.loop ∉ ps) (ht : Part.train ∉ ps)
    (ho : Part.outs ∉ ps) : s.Settles t :=
  ⟨congrArg Loop.records (h.only .loop hl), h.only .train ht, congrArg FieldOutputs.records (h.only .outs ho),
    fun _ => congrArg Loop.zspdDiscrepancy (h.only .loop hl)⟩

theorem State.Settles.of_eq {s t : State} (hl : t.loop = s.loop) (ht : t.train = s.train) (ho : t.outs = s.outs) : s.Settles t :=
  ⟨congrArg Loop.records hl, ht, congrArg FieldOutputs.records ho, fun _ => congrArg Loop.zspdDiscrepancy hl⟩

theorem State.Settles.foldl {α : Type} {s0 : State} (l : List α) {f : State → α → State} (hf : ∀ t x, s0.Settles t → s0.Settles (f t x)) :
    ∀ {t : State}, s0.Settles t → s0.Settles (l.foldl f t) := by
  induction l with
  | nil => exact fun h => h
  | cons x l ih => exact fun h => ih (hf _ x h)

theorem Loop.drive_records (l : Loop) (e : LoopEnv) : (l.drive e).1.records = l.records
    ∧ (l.drive e).1.zspdDiscrepancy = l.zspdDiscrepancy := by
  unfold Loop.drive
  dsimp only
  split
  · exact ⟨rfl, rfl⟩
  · refine ⟨?_, rfl⟩
    unfold Loop.records
    dsimp only
    split <;> rfl

theorem Loop.evaluate_records (l : Loop) (e : LoopEnv) : (l.evaluate e).1.records = l.records
    ∧ (e.tl 3 ≠ e.tl 4 → (l.evaluate e).1.zspdDiscrepancy = l.zspdDiscrepancy) := by
  have h1 : ∀ v : Loop, (v.clearFlags e).1.records = v.records ∧ (e.tl 3 ≠ e.tl 4 → (v.clearFlags e).1.zspdDiscrepancy = v.zspdDiscrepancy) := by
    intro v
    refine ⟨rfl, fun hz => ?_⟩
    unfold Loop.clearFlags
    have : (e.tl 3 == e.tl 4) = false := by simp [hz]
    simp [this]
  have h2 : ∀ v : Loop, v.records = l.records → v.zspdDiscrepancy = l.zspdDiscrepancy →
      ((v.drive e).1.clearFlags e).1.records = l.records
        ∧ (e.tl 3 ≠ e.tl 4 → ((v.drive e).1.clearFlags e).1.zspdDiscrepancy = l.zspdDiscrepancy) := by
    intro v ha hb
    exact ⟨(h1 _).1.trans ((v.drive_records e).1.trans ha), fun hz => ((h1 _).2 hz).trans ((v.drive_records e).2.trans hb)⟩
  unfold Loop.evaluate
  dsimp only
  split
  · exact h2 l rfl rfl
  · exact h2 (Loop.release { l with relCounts := l.relCounts || e.train.flags.valid } e).1 rfl rfl

theorem State.loopEvents_keeps' (s : State) (l : List Nat) : Keeps [.fcp] s (s.loopEvents l) :=
  State.loopEvents_keeps (Within.refl _) (Keeps.refl _ s) l

theorem State.Settles.outsValue (s : State) (f : FieldOutputs) (h : f.records = s.outs.records) : s.Settles { s with outs := f } :=
  ⟨rfl, rfl, h, fun _ => rfl⟩

theorem State.Settles.atDoors (s : State) (ds : Vector Doorway 8) : s.Settles { s with doors := ds } := ⟨rfl, rfl, rfl, fun _ => rfl⟩

theorem State.fresh_settles (s : State) : s.Settles s.fresh := ⟨rfl, rfl, rfl, fun _ => rfl⟩

theorem State.evaluate_settles (s : State) : s.Settles s.evaluate := by
  have h1 : s.Settles (if s.power.on 3 || s.power.on 8 then
      ({ s with loop := (s.loop.evaluate s.loopEnv).1 }).loopEvents (s.loop.evaluate s.loopEnv).2 else s) := by
    split
    · obtain ⟨a, b⟩ := s.loop.evaluate_records s.loopEnv
      refine State.Settles.trans (t := { s with loop := (s.loop.evaluate s.loopEnv).1 }) ⟨a, rfl, rfl, b⟩ ?_
      exact .of_keeps (State.loopEvents_keeps' _ _) (by decide) (by decide) (by decide)
    · exact .refl s
  have h2 : ∀ t : State, t.Settles (if t.supvRuns then { t with outs := t.outs.evaluate t.outEnv }
      else if t.fieldOn then { t with outs := { (FieldOutputs.evaluate t.outEnv { t.outs with held := true }) with held := t.outs.held } } else t) := by
    intro t
    have hv : ∀ (e : OutEnv) (f : FieldOutputs), (f.evaluate e).records = f.records := fun _ _ => by
      unfold FieldOutputs.records FieldOutputs.evaluate; dsimp only
    have hh : ∀ (e : OutEnv) (f : FieldOutputs), ({ (FieldOutputs.evaluate e { f with held := true }) with held := f.held } : FieldOutputs).records = f.records :=
      fun _ _ => by unfold FieldOutputs.records FieldOutputs.evaluate; dsimp only
    split
    · exact State.Settles.outsValue t _ (hv _ _)
    · split
      · exact State.Settles.outsValue t _ (hh _ _)
      · exact .refl t
  unfold State.evaluate
  exact h1.trans (h2 _)

theorem State.applyFx_settles (d : DoorIx) (s : State) (x : DoorFx) : s.Settles (s.applyFx d x) := by
  cases x with
  | event c p => exact .of_eq rfl rfl rfl
  | incident c step =>
    show s.Settles (s.incident c false (some d) (some (if step then stepDrive d else doorDrive d)) false false)
    exact .of_keeps (State.incident_keeps (Within.refl _) (Keeps.refl _ _) _ _ _ _ _ _) (by decide) (by decide) (by decide)
  | cycleRecord c st => exact .of_keeps (State.stage_keeps (Within.refl _) (Keeps.refl _ _) _ _) (by decide) (by decide) (by decide)
  | flush => exact .of_eq rfl rfl rfl
  | releaseBlocked => exact ⟨rfl, rfl, rfl, fun _ => rfl⟩
  | pulse => exact ⟨rfl, rfl, rfl, fun _ => rfl⟩
  | tripsEnd => exact .of_eq rfl rfl rfl
  | maintEnd m o r =>
    show s.Settles (s.maintEnds d m o r)
    exact .of_keeps (State.maintEnds_keeps (Within.refl _) (Keeps.refl _ _) d m o r) (by decide) (by decide) (by decide)

theorem State.egressRows_settles (s : State) (d : DoorIx) : s.Settles (s.egressRows d) :=
  .of_keeps (State.egressRows_keeps (Within.refl _) (Keeps.refl _ _) d) (by decide) (by decide) (by decide)

theorem State.bypassRow_settles (s : State) : s.Settles s.bypassRow :=
  .of_keeps (State.bypassRow_keeps (Within.refl _) (Keeps.refl _ _)) (by decide) (by decide) (by decide)

theorem State.runDoor_settles (s : State) (d : DoorIx) (f : DoorEnv → Work → Work) : s.Settles (s.runDoor d f) := by
  unfold State.runDoor
  split
  · exact .refl _
  · have h1 : ∀ (l : List DoorFx) (t : State), t.Settles (l.foldl (State.applyFx d) t) := fun l t =>
      State.Settles.foldl l (fun u x hu => hu.trans (State.applyFx_settles d u x)) (State.Settles.refl t)
    dsimp only
    generalize f (s.doorEnv d) ⟨s.doors[d], []⟩ = w
    have h2 := (State.Settles.atDoors s (s.doors.set d w.dw)).trans (h1 w.fx _)
    have h3 := h2.trans (.of_keeps (State.followDoor_keeps (Within.refl _) (Keeps.refl _ _) d) (by decide) (by decide) (by decide))
    have h4 := h3.trans (State.egressRows_settles _ d)
    exact (h4.trans (State.evaluate_settles _)).trans (State.fresh_settles _)

theorem State.tickAll_settles (s : State) : s.Settles s.tickAll := by
  have h : ∀ (l : List DoorIx) (t : State), t.Settles (l.foldl (fun s d => s.runDoor d doorTick) t) := by
    intro l
    induction l with
    | nil => exact fun t => .refl t
    | cons d l ih => exact fun t => (t.runDoor_settles d doorTick).trans (ih _)
  exact h doorways s

theorem State.supervise_settles (s : State) : s.Settles s.supervise := (State.evaluate_settles s).trans s.evaluate.tickAll_settles

end Sys2Proof.Machine
end

