-- ==== Sys2Proof/Laws/Apps.lean ====
section
/-!
SUPPORT. The application engine and the interrupt controller (chapter 15).
-/

set_option linter.unusedVariables false
set_option linter.unusedSimpArgs false

namespace Sys2Proof.Machine

theorem events_engines (s : State) (l : Events) : (s.events l).engines = s.engines :=
  (State.events_keeps (Within.refl _) (Keeps.refl _ s) l).only .engines (by decide)

theorem closeSession_engines (s : State) (i b) : (s.closeSession i b).engines = s.engines := by
  unfold State.closeSession; split <;> rfl

theorem onApp_app (s : State) (f : App → App) (h : s.appRuns = true) : (s.onApp f).engines.app = f s.engines.app := by
  unfold State.onApp; rw [if_pos h]; rfl

theorem appRuns_state {s : State} (h : s.appRuns = true) : s.engines.app.state = .running := by
  unfold State.appRuns at h; simpa using h

theorem appEnds_engines (s : State) (c : Nat) (h : s.engines.app.state = .running) :
    (s.appEnds c).engines = (s.engines.appEnd s.now c).1 := by
  unfold State.appEnds
  rw [if_neg (by rw [h]; simp)]
  dsimp only
  rw [events_engines, closeSession_engines]

theorem appEnd_app (g : Engines) (now c : Nat) (h : g.app.state = .running) (hc : c ≠ 0) :
    (g.appEnd now c).1 = { g with app := { g.app with state := .faulted, cause := c, wdHalf := false, faults := satInc 16 g.app.faults } } := by
  unfold Engines.appEnd
  simp [h, hc]

theorem readMany_writeMany {m : Memory} (h : m.wf = true) (a : Nat) (bs : List Byte) :
    (m.writeMany a bs).readMany a bs.length = bs := by
  induction bs generalizing m a with
  | nil => rfl
  | cons b bs ih =>
    show ((m.write a b).writeMany (a + 1) bs).read a :: ((m.write a b).writeMany (a + 1) bs).readMany (a + 1) bs.length = _
    rw [ih (Memory.write_wf h a b), Memory.read_writeMany (Memory.write_wf h a b) _ _ _ (.inl (by omega)), Memory.read_write h, if_pos rfl]

theorem le_length (n v : Nat) : (le n v).length = n := by
  induction n generalizing v with
  | zero => rfl
  | succ n ih => show (le n (v / 256)).length + 1 = _; rw [ih]

theorem writeMem (s : State) (a : Nat) (w : Nat) (v : BitVec 32) (hr : s.appRuns = true) (h : memWritable a w = true) :
    s.writeRegister a w v = s.onApp (fun x => { x with mem := x.mem.writeMany a (le w (v.toNat % 2 ^ (8 * w))) }) := by
  unfold State.writeRegister
  have hn : ¬(0x40000000 ≤ a ∧ a < 0x40005000) := by
    unfold memWritable dataBase outBase at h; simp at h; omega
  rw [if_neg (by rw [hr]; decide), if_neg hn, if_pos h]

theorem writeBad (s : State) (a : Nat) (w : AccessWidth) (v : BitVec 32) (hr : s.appRuns = true) (h : memWritable a w.bytes = false)
    (hn : ¬(0x40000000 ≤ a ∧ a < 0x40005000 ∧ w = .word ∧ a % 4 = 0)) :
    s.writeRegister a w.bytes v = s.violates a := by
  unfold State.writeRegister
  rw [if_neg (by rw [hr]; decide)]
  split
  · rename_i h1
    rw [if_pos]
    cases w with
    | byte => exact .inl (by decide)
    | half => exact .inl (by decide)
    | word => exact .inr (fun h2 => hn ⟨h1.1, h1.2, rfl, h2⟩)
  · rw [if_neg (by rw [h]; decide)]

theorem bitOf_getLsbD (v : BitVec 32) (k : Fin 4) : bitOf (v.toNat % 16) k.val = v.getLsbD k := by
  have h : bitOf (v.toNat % 16) k.val = (v.toNat % 16).testBit k.val := by
    unfold bitOf; rw [Nat.testBit_eq_decide_div_mod_eq]; rfl
  rw [h, show (16:Nat) = 2 ^ 4 from rfl, Nat.testBit_mod_two_pow]
  have : k.val < 4 := k.isLt
  simp [this, BitVec.getLsbD]

end Sys2Proof.Machine
end

