-- ==== Sys2Proof/Laws/EngineStops.lean ====
section
/-!
SUPPORT. Engines that stop and run again, and sessions that close (chapters 9 and 15).
-/

set_option linter.unusedVariables false
set_option linter.unusedSimpArgs false

namespace Sys2Proof.Machine

theorem runDoor_engines (s : State) (d f) : (s.runDoor d f).engines = s.engines :=
  (State.runDoor_keeps (Within.refl _) (Keeps.refl _ s) d f).only .engines (by decide)

theorem supervise_engines (s : State) : s.supervise.engines = s.engines :=
  (State.supervise_keeps (Within.refl _) (Keeps.refl _ s)).only .engines (by decide)

theorem setLevel_engines (s : State) (r b) : (s.setLevel r b).engines = s.engines :=
  (State.setLevel_keeps (Within.refl _) (Keeps.refl _ s) r b).only .engines (by decide)

theorem setLevel_loop (s : State) (r b) : (s.setLevel r b).loop = s.loop :=
  (State.setLevel_keeps (Within.refl _) (Keeps.refl _ s) r b).only .loop (by decide)

theorem takeEngines_engines (s : State) (r : Engines × Events) : (s.takeEngines r).engines = r.1 := events_engines _ _

theorem takeEngines_doors (s : State) (r : Engines × Events) : (s.takeEngines r).doors = s.doors :=
  (State.events_keeps (Within.refl _) (Keeps.refl _ _) _).only .doors (by decide)

theorem set_get {α : Type} {n : Nat} (v : Vector α n) (i j : Fin n) (x : α) : (v.set i.val x i.isLt)[j] = if i = j then x else v[j] := by
  show (v.set i.val x i.isLt)[j.val] = if i = j then x else v[j.val]
  rw [Vector.getElem_set]
  by_cases h : i = j
  · rw [if_pos h, if_pos (congrArg Fin.val h)]
  · rw [if_neg h, if_neg (fun k => h (Fin.ext k))]

theorem leafStops_out (s : State) (d : DoorIx) : let times := s.now :: lastHour s.now s.engines.leafTimes[d]
    (s.leafStops d).engines.states[leafEngine d] = (if 3 ≤ times.length then .held else .loading)
      ∧ (s.leafStops d).engines.leafTimes[d] = times ∧ (s.leafStops d).engines.expiries = s.engines.expiries
      ∧ (s.leafStops d).doors = (if s.cfg.isFitted d then s.runDoor d onEngineStop else s).doors := by
  intro times
  unfold State.leafStops
  dsimp only
  have he : (if s.cfg.isFitted d then s.runDoor d onEngineStop else s).engines = s.engines := by
    split
    · exact runDoor_engines _ _ _
    · rfl
  have hk : ∀ (u : State), u.engines = s.engines → ∀ held : Bool, held = decide (3 ≤ times.length) →
      let v := u.onEngines (fun g => { g with leafTimes := g.leafTimes.set d times, states := g.states.set (leafEngine d) (if held then .held else .loading) })
      ∀ z : State, (z = v ∨ z = v.takeEngines (v.engines, [v.engines.event v.now (leafEngine d) 2 0])) →
      z.engines.states[leafEngine d] = (if 3 ≤ times.length then .held else .loading)
      ∧ z.engines.leafTimes[d] = times ∧ z.engines.expiries = s.engines.expiries ∧ z.doors = u.doors := by
    intro u hu held hh v z hz
    have hv : z.engines = v.engines ∧ z.doors = v.doors := by
      rcases hz with hz | hz
      · exact ⟨by rw [hz], by rw [hz]⟩
      · rw [hz]; exact ⟨takeEngines_engines _ _, takeEngines_doors _ _⟩
    rw [hv.1, hv.2]
    refine ⟨?_, ?_, (congrArg Engines.expiries hu : u.engines.expiries = s.engines.expiries), rfl⟩
    · show ((u.engines.states.set (leafEngine d) _))[leafEngine d] = _
      rw [set_get, if_pos rfl, hh]; simp
    · show ((u.engines.leafTimes.set d.val times))[d] = _
      rw [set_get, if_pos rfl]
  refine hk _ he _ rfl _ ?_
  split
  · right; rfl
  · left; rfl

theorem engineStop_is (e : DoorEnv) (w : Work) (h1 : w.dw.sm.state ≠ .fault) (h2 : w.dw.sm.state ≠ .egress) (h3 : w.dw.sm.state ≠ .isolated) :
    (onEngineStop e w).Is .fault .none .faultLeafEngine := by
  unfold onEngineStop
  dsimp only
  have hs : (if w.dw.step.gen.energised then stepTorqueRemoved e w else w).dw.sm = w.dw.sm := by
    split
    · exact ((stepTorqueRemoved_wk (Inside.refl _) (WorkKeeps.refl _ w) e).sm.resolve_left (by decide))
    · rfl
  generalize (if w.dw.step.gen.energised then stepTorqueRemoved e w else w) = v at hs
  have h := enterFault_is e .faultLeafEngine v
  have hf : (enterFault e .faultLeafEngine v |>.smFlags (fun f => { f with halted := true })).Is .fault .none .faultLeafEngine := ⟨h.state, h.phase, h.cause⟩
  rw [← hs] at h1 h2 h3
  split
  · exact absurd ‹_› h1
  · exact absurd ‹_› h2
  · exact absurd ‹_› h3
  · exact hf

theorem set89 (v : Vector EngState 12) (x : EngState) : ((v.set 8 x).set 9 x)[(8 : Fin 12)] = x ∧ ((v.set 8 x).set 9 x)[(9 : Fin 12)] = x := by
  constructor
  · show ((v.set 8 x).set 9 x)[8] = x
    rw [Vector.getElem_set_ne _ _ (by decide), Vector.getElem_set_self]
  · show ((v.set 8 x).set 9 x)[9] = x
    rw [Vector.getElem_set_self]

theorem again_out (g : Engines) (now : Nat) (n : Fin 12) : (g.again now n).1.restarts[n] = satInc 16 g.restarts[n]
    ∧ (g.again now n).1.states = g.states ∧ (∀ m, m ≠ n → (g.again now n).1.restarts[m] = g.restarts[m]) := by
  unfold Engines.again
  dsimp only
  split
  · refine ⟨?_, rfl, fun m hm => ?_⟩
    · show (g.restarts.set n.val _)[n] = _
      rw [set_get, if_pos rfl]
    · show (g.restarts.set n.val _)[m] = _
      rw [set_get, if_neg (fun h => hm h.symm)]
  · refine ⟨?_, rfl, fun m hm => ?_⟩
    · show (g.restarts.set n.val _)[n] = _
      rw [set_get, if_pos rfl]
    · show (g.restarts.set n.val _)[m] = _
      rw [set_get, if_neg (fun h => hm h.symm)]

theorem records_stopped (a b : Loop) (h : a.records = b.records) : a.supvStopped = b.supvStopped :=
  congrArg (fun x => x.2.2.2.2.2.1) h

theorem supvStops_out (s : State) (b : Bool) (hr : s.supvRuns = true) : let times := s.now :: lastHour s.now s.engines.supvTimes
    (s.supvStops b).engines.states[(8 : Fin 12)] = (if 3 ≤ times.length then .held else .loading)
        ∧ (s.supvStops b).engines.states[(9 : Fin 12)] = (if 3 ≤ times.length then .held else .loading)
        ∧ (b = true → (s.supvStops b).engines.expiries = ((s.engines.expired 8).expired 9).expiries ∧ (s.supvStops b).engines.mismatches = s.engines.mismatches)
        ∧ (b = false → (s.supvStops b).engines.mismatches = satInc 16 s.engines.mismatches)
        ∧ (s.supvStops b).loop.supvStopped = true := by
  intro times
  unfold State.supvStops
  rw [if_neg (by rw [hr]; decide)]
  dsimp only
  obtain ⟨g, hg⟩ : ∃ g, (if b then (s.engines.expired 8).expired 9 else { s.engines with mismatches := satInc 16 s.engines.mismatches }) = g := ⟨_, rfl⟩
  have hx : ∀ (v : State), v.loop.supvStopped = true → (v.setLevel 61 true).supervise.engines = v.engines ∧ (v.setLevel 61 true).supervise.loop.supvStopped = true := by
    intro v hv
    refine ⟨by rw [supervise_engines, setLevel_engines], ?_⟩
    have h := (State.supervise_settles (v.setLevel 61 true)).loop
    have h2 : (v.setLevel 61 true).supervise.loop.supvStopped = (v.setLevel 61 true).loop.supvStopped := records_stopped _ _ h
    rw [h2, setLevel_loop]; exact hv
  have hgs : g.states = s.engines.states ∧ (b = true → g.expiries = ((s.engines.expired 8).expired 9).expiries ∧ g.mismatches = s.engines.mismatches)
      ∧ (b = false → g.mismatches = satInc 16 s.engines.mismatches) := by
    subst hg; cases b
    · exact ⟨rfl, ⟨fun h => absurd h (by decide), fun _ => rfl⟩⟩
    · exact ⟨rfl, ⟨fun _ => ⟨rfl, rfl⟩, fun h => absurd h (by decide)⟩⟩
  generalize hst : (if decide (3 ≤ (s.now :: lastHour s.now s.engines.supvTimes).length) = true then EngState.held else EngState.loading) = st
  have hk : ∀ (t1 : State) (G : Engines), t1.engines = G → t1.loop.supvStopped = true → 
      G.states = (g.states.set 8 st).set 9 st → G.expiries = g.expiries → G.mismatches = g.mismatches →
      ∀ u : State, u = (t1.setLevel 61 true).supervise →
      u.engines.states[(8 : Fin 12)] = (if 3 ≤ times.length then .held else .loading)
        ∧ u.engines.states[(9 : Fin 12)] = (if 3 ≤ times.length then .held else .loading)
        ∧ (b = true → u.engines.expiries = ((s.engines.expired 8).expired 9).expiries ∧ u.engines.mismatches = s.engines.mismatches)
        ∧ (b = false → u.engines.mismatches = satInc 16 s.engines.mismatches)
        ∧ u.loop.supvStopped = true := by
    intro t1 G h1 h2 h3 h4 h5 u hu
    obtain ⟨ha, hb⟩ := hx t1 h2
    rw [← hu] at ha hb
    have hst' : st = (if 3 ≤ times.length then .held else .loading) := by rw [← hst]; simp [times]
    have hG : u.engines = G := ha.trans h1
    rw [hG, h3, h4, h5, ← hst']
    exact ⟨(set89 _ _).1, (set89 _ _).2, hgs.2.1, hgs.2.2, hb⟩
  have hl : ∀ (v : State), ({ v with loop := v.loop.supvStops } : State).engines = v.engines ∧ ({ v with loop := v.loop.supvStops } : State).loop.supvStopped = true :=
    fun _ => ⟨rfl, rfl⟩
  exact hk _ _ ((hl _).1.trans (takeEngines_engines _ _)) (hl _).2 (by subst hg; rfl) (by subst hg; rfl) (by subst hg; rfl) _ rfl

theorem bypassCheck_engines (s : State) : s.bypassCheck.engines = s.engines :=
  (State.bypassCheck_keeps (Within.refl _) (Keeps.refl _ s)).only .engines (by decide)

theorem bypassCheck_stopped (s : State) : s.bypassCheck.loop.supvStopped = s.loop.supvStopped := by
  unfold State.bypassCheck
  dsimp only
  split
  · rfl
  · have h : ∀ (v : State) (l c m d r a b), ((v.loopEvents l).incident c m d r a b).loop = v.loop := by
      intro v l c m d r a b
      exact ((State.incident_keeps (Within.refl _) (Keeps.refl _ _) c m d r a b).only .loop (by decide)).trans
        ((State.loopEvents_keeps (Within.refl _) (Keeps.refl _ v) l).only .loop (by decide))
    rw [h]
    unfold Loop.bypassChanges
    dsimp only
    split <;> first | rfl | (split <;> rfl)

theorem pairAgain_restarts (g : Engines) (now : Nat) : (g.pairAgain now).1.restarts[(8 : Fin 12)] = satInc 16 g.restarts[(8 : Fin 12)] := by
  unfold Engines.pairAgain
  rw [(again_out _ _ _).1]
  congr 1
  show (g.restarts.set 9 _)[8] = g.restarts[8]
  rw [Vector.getElem_set_ne _ _ (by decide)]

theorem supvRestarts_out (s : State) (hl : s.engines.states[(8 : Fin 12)] = .loading) :
    s.supvRestarts.engines.states[(8 : Fin 12)] = .running ∧ s.supvRestarts.engines.states[(9 : Fin 12)] = .running
      ∧ s.supvRestarts.engines.restarts[(8 : Fin 12)] = satInc 16 s.engines.restarts[(8 : Fin 12)] ∧ s.supvRestarts.loop.supvStopped = false := by
  unfold State.supvRestarts
  rw [if_neg (by rw [hl]; decide)]
  dsimp only
  have hx : ∀ (v : State), ((v.bypassCheck.setLevel 61 false).supervise).engines = v.engines
      ∧ ((v.bypassCheck.setLevel 61 false).supervise).loop.supvStopped = v.loop.supvStopped := by
    intro v
    refine ⟨by rw [supervise_engines, setLevel_engines, bypassCheck_engines], ?_⟩
    have h := (State.supervise_settles (v.bypassCheck.setLevel 61 false)).loop
    have h2 : (v.bypassCheck.setLevel 61 false).supervise.loop.supvStopped = (v.bypassCheck.setLevel 61 false).loop.supvStopped  := records_stopped _ _ h
    rw [h2, setLevel_loop, bypassCheck_stopped]
  have hk : ∀ (t1 : State) (G : Engines), t1.engines = G → t1.loop.supvStopped = false →
      ∀ u : State, u = (t1.bypassCheck.setLevel 61 false).supervise → u.engines = G ∧ u.loop.supvStopped = false := by
    intro t1 G h1 h2 u hu
    obtain ⟨ha, hb⟩ := hx t1
    rw [← hu] at ha hb
    exact ⟨ha.trans h1, hb.trans h2⟩
  have hl : ∀ (v : State) (f : Engines → Engines), ({ (v.onEngines f) with loop := { (v.onEngines f).loop with supvStopped := false, starting := true } } : State).engines = f v.engines ∧ ({ (v.onEngines f) with loop := { (v.onEngines f).loop with supvStopped := false, starting := true } } : State).loop.supvStopped = false :=
    fun _ _ => ⟨rfl, rfl⟩
  have hp : ∀ G : Engines, ({ G with states := (G.states.set 8 .running).set 9 .running } : Engines).states = (G.states.set 8 .running).set 9 .running
    ∧ ({ G with states := (G.states.set 8 .running).set 9 .running } : Engines).restarts = G.restarts := fun _ => ⟨rfl, rfl⟩
  generalize hu : State.supervise _ = u
  obtain ⟨h0, h4⟩ := hk _ _ (hl _ _).1 (hl _ _).2 u hu.symm
  rw [takeEngines_engines] at h0
  rw [h0]
  refine ⟨?_, ?_, pairAgain_restarts _ _, h4⟩
  · exact (set89 _ _).1
  · exact (set89 _ _).2

theorem core_state {a b : Session} (h : a.core = b.core) : a.state = b.state := by
  show a.core.state = b.core.state
  rw [h]

theorem closeSession_state (s : State) (i : SessIx) (held : Bool) (j : SessIx) :
    (s.closeSession i held).fcp.sessions[j].state = if i = j then .closed else s.fcp.sessions[j].state := by
  unfold State.closeSession
  split
  · rename_i h
    by_cases hij : i = j
    · subst hij; rw [if_pos rfl]; exact h
    · rw [if_neg hij]
  · rename_i h
    show ((s.fcp.closeSession s.now i held).sessions[j]).state = _
    unfold Fcp.closeSession
    rw [if_neg h]
    have h1 : ((s.fcp.session i Session.close).eventState s.now i s.fcp.sessions[i].state .closed).sessions[j].state
        = if i = j then .closed else s.fcp.sessions[j].state := by
      refine (core_state (Fcp.eventState_core _ _ _ _ _ _)).trans ?_
      show ((s.fcp.sessions.set i.val (Session.close s.fcp.sessions[i]) i.isLt)[j]).state = _
      rw [set_get]
      split
      · rfl
      · rfl
    dsimp only
    split
    · exact h1
    · exact (core_state (Fcp.setCommanders_core _ _ _ _)).trans h1

theorem closeAll_state (s : State) (j : SessIx) : s.closeAll.fcp.sessions[j].state = .closed := by
  have hq : ∀ t : State, ({ t with fcp := { t.fcp with sessions := tab 6 (fun i => { t.fcp.sessions[i] with txQueue := [], txWaiting := [] }) } } : State).fcp.sessions[j].state = t.fcp.sessions[j].state := by
    intro t
    show ((tab 6 (fun i => { t.fcp.sessions[i] with txQueue := [], txWaiting := [] }) : Vector Session 6)[j]).state = _
    rw [tab_get]
  refine (hq _).trans ?_
  have key : ∀ (l : List SessIx) (t : State), (j ∈ l ∨ t.fcp.sessions[j].state = .closed) →
      (l.foldl (fun s i => s.closeSession i true) t).fcp.sessions[j].state = .closed := by
    intro l
    induction l with
    | nil => intro t h; rcases h with h | h
             · cases h
             · exact h
    | cons a l ih =>
      intro t h
      refine ih _ ?_
      rcases h with h | h
      · rcases List.mem_cons.1 h with h | h
        · right; rw [closeSession_state, if_pos h.symm]
        · left; exact h
      · right; rw [closeSession_state]; split
        · rfl
        · exact h
  refine key _ _ (.inl ?_)
  have : ∀ j : Fin 6, j ∈ ([0, 1, 2, 3, 4, 5] : List (Fin 6)) := by decide
  exact this j

end Sys2Proof.Machine
end

