-- ==== Sys2Proof/Laws/Fronts.lean ====
section
/-!
SUPPORT. The input groups and their front ends (chapter 8).
-/

set_option linter.unusedVariables false
set_option linter.unusedSimpArgs false

namespace Sys2Proof.Machine

theorem onGroup_group (s : State) (g : GroupIx) (f : InGroup → InGroup) : (s.onGroup g f).group g = f (s.group g) := by
  unfold State.onGroup State.group
  by_cases h : g.val < 8
  · rw [dif_pos h, dif_pos h, dif_pos h]; unfold State.onDoor
    show ((s.doors.set g.val _)[g.val]).inp = _
    simp
  · rw [dif_neg h, dif_neg h, dif_neg h]

theorem onFront_group (s : State) (g : GroupIx) (f : FrontEnd → FrontEnd) (h : s.frontOn g = true) :
    (s.onFront g f).group g = { s.group g with front := f (s.group g).front } := by
  unfold State.onFront; rw [if_pos h, onGroup_group]

theorem group_alike {s t : State} (h : s.alike t) (ht : t.train = s.train) (g : GroupIx) : t.group g = s.group g := by
  unfold State.group
  by_cases hg : g.val < 8
  · rw [dif_pos hg, dif_pos hg]; exact (h ⟨g.val, hg⟩).inp
  · rw [dif_neg hg, dif_neg hg]; exact ht

theorem latchRow_train (s : State) (row n l) : (s.latchRow row n l).train = s.train :=
  (State.latchRow_keeps (Within.refl _) (Keeps.refl _ s) row n l).only .train (by decide)

theorem onTrain_train (s : State) (f : InGroup → InGroup) : (s.onTrain f).train = f s.train := by
  have h1 : ∀ v : State, ((v.bypassCheck.bypassRow).supervise).train = v.train := by
    intro v
    have h := (State.bypassRow_settles v.bypassCheck).trans (State.supervise_settles _)
    refine h.train.trans ?_
    unfold State.bypassCheck
    dsimp only
    split
    · rfl
    · exact (State.incident_keeps (Within.refl _) (Keeps.refl _ _) _ _ _ _ _ _).only .train (by decide)
  exact h1 _

theorem runGroup_group (s : State) (g : GroupIx) (f : InGroup → InGroup) : (s.runGroup g f).group g = f (s.group g) := by
  unfold State.runGroup
  by_cases hg : g.val < 8
  · rw [dif_pos hg]
    dsimp only
    have hend : ∀ t : State, ((t.egressRows ⟨g.val, hg⟩).evaluate).group g = t.group g := by
      intro t
      have h1 := State.alike_trans (State.egressRows_alike t ⟨g.val, hg⟩) (State.evaluate_alike _)
      exact group_alike h1 ((State.egressRows_settles t ⟨g.val, hg⟩).trans (State.evaluate_settles _)).train g
    rw [hend]
    split
    · rename_i hr
      have h := s.runDoor_own ⟨g.val, hg⟩ (fun e w => doorTick e { w with dw := { w.dw with inp := f w.dw.inp } }) hr
      unfold State.group
      rw [dif_pos hg, dif_pos hg]
      have h2 := h.inp
      rw [doorTick_inp] at h2
      exact h2
    · unfold State.group State.onDoor
      rw [dif_pos hg, dif_pos hg]
      show ((s.doors.set g.val _)[g.val]).inp = _
      simp
  · rw [dif_neg hg]
    unfold State.group
    rw [dif_neg hg, dif_neg hg]; exact onTrain_train s f

theorem groupEvent_group (s : State) (g : GroupIx) (n : Nat) : (s.groupEvent g n).group g = s.group g := rfl

theorem raise_front (f : FrontEnd) (g : GroupIx) : (f.raise g).contact = f.contact ∧ (f.raise g).raw = f.raw ∧ (f.raise g).breakMask = f.breakMask
   ∧ (f.raise g).feedFault = f.feedFault ∧ (f.raise g).selftestFail = f.selftestFail ∧ (f.raise g).supplyFault = f.supplyFault := ⟨rfl, rfl, rfl, rfl, rfl, rfl⟩

theorem fold_inp (l : List Nat) (g : Work → Nat → Work) (hg : ∀ u i, (g u i).dw.inp.lastSeq = u.dw.inp.lastSeq ∧ (g u i).dw.inp.bad = u.dw.inp.bad) :
      ∀ u, (l.foldl g u).dw.inp.lastSeq = u.dw.inp.lastSeq ∧ (l.foldl g u).dw.inp.bad = u.dw.inp.bad := by
  induction l with
  | nil => exact fun u => ⟨rfl, rfl⟩
  | cons i l ih => exact fun u => ⟨(ih _).1.trans (hg u i).1, (ih _).2.trans (hg u i).2⟩

theorem raw_inp (e : DoorEnv) (i : Nat) (b : Bool) (w : Work) : (rawChange e i b w).dw.inp.lastSeq = w.dw.inp.lastSeq ∧ (rawChange e i b w).dw.inp.bad = w.dw.inp.bad := by
  unfold rawChange
  dsimp only
  split
  · exact ⟨rfl, rfl⟩
  · split
    · split <;> exact ⟨rfl, rfl⟩
    · split
      · rw [srsTransition_inp]; exact ⟨rfl, rfl⟩
      · exact ⟨rfl, rfl⟩

theorem filt_inp (e : DoorEnv) (i : Nat) (b : Bool) (w : Work) : (filteredChange e i b w).dw.inp.lastSeq = w.dw.inp.lastSeq ∧ (filteredChange e i b w).dw.inp.bad = w.dw.inp.bad := by
  by_cases h : w.dw.inp.filtered.getLsbD i = b
  · have : filteredChange e i b w = w := by unfold filteredChange; rw [if_pos h]
    rw [this]; exact ⟨rfl, rfl⟩
  · rw [filteredChange_inp e i b w h]; exact ⟨rfl, rfl⟩

theorem filterDoor_inp (e : DoorEnv) (raw : BitVec 16) (w : Work) : (filterDoor e raw w).dw.inp.lastSeq = w.dw.inp.lastSeq ∧ (filterDoor e raw w).dw.inp.bad = w.dw.inp.bad := by
  unfold filterDoor
  dsimp only
  have h1 := fold_inp (List.range 12) (fun w i => rawChange e i (raw.getLsbD i) w) (fun u i => raw_inp e i _ u) w
  have h2 := fun b : Nat → Bool => fold_inp filterOrder (fun w i => filteredChange e i (b i) w) (fun u i => filt_inp e i _ u)
    ((List.range 12).foldl (fun w i => rawChange e i (raw.getLsbD i) w) w)
  exact ⟨(h2 _).1.trans h1.1, (h2 _).2.trans h1.2⟩

/-- The frame records. -/
def frontBit (q : InGroup) : Option Nat × Bool := (q.lastSeq, q.bad)

theorem filterFrame_sb (s : State) (g : GroupIx) (raw : BitVec 16) : frontBit ((s.filterFrame g raw).group g) = frontBit (s.group g) := by
  unfold State.filterFrame
  dsimp only
  split
  · rw [onGroup_group]; rfl
  · split
    · rw [onGroup_group]; rfl
    · split
      · rename_i hg
        split
        · rename_i hr
          have h := (s.runDoor_own ⟨g.val, hg⟩ (fun e w => doorTick e (filterDoor e raw w)) hr).inp
          rw [doorTick_inp] at h
          unfold State.group
          rw [dif_pos hg, dif_pos hg]
          have h2 := filterDoor_inp (s.doorEnv ⟨g.val, hg⟩) raw ⟨s.doors[(⟨g.val, hg⟩ : DoorIx)], []⟩
          have h3 : ((s.runDoor ⟨g.val, hg⟩ (fun e w => doorTick e (filterDoor e raw w))).doors[(⟨g.val, hg⟩ : DoorIx)]).inp = _ := h
          unfold frontBit
          exact Prod.ext ((congrArg InGroup.lastSeq h3).trans h2.1) ((congrArg InGroup.bad h3).trans h2.2)
        · have h2 := filterDoor_inp (s.doorEnv ⟨g.val, hg⟩) raw ⟨s.doors[(⟨g.val, hg⟩ : DoorIx)], []⟩
          unfold State.group State.quietInput State.onDoor
          rw [dif_pos hg, dif_pos hg]
          show frontBit ((s.doors.set g.val _)[g.val]).inp = _
          simp only [Vector.getElem_set_self]
          exact Prod.ext h2.1 h2.2
      · rename_i hg
        have h1 : ∀ f, (s.onTrain f).group g = f (s.group g) := by
          intro f; unfold State.group; rw [dif_neg hg, dif_neg hg]; exact onTrain_train s f
        rw [h1]; rfl

theorem keeperFrame_group (s : State) (g : GroupIx) (r) : (s.keeperFrame g r).group g = s.group g := by
  unfold State.keeperFrame; split <;> rfl

theorem groupFault_sb (s : State) (g : GroupIx) (on : Bool) : frontBit ((s.groupFault g on).group g) = frontBit (s.group g) := by
  unfold State.groupFault
  split
  · rfl
  · rw [runGroup_group, groupEvent_group, onGroup_group]; rfl

theorem groupValid_sb (s : State) (g : GroupIx) : frontBit ((s.groupValid g).group g) = frontBit (s.group g) := by
  unfold State.groupValid
  dsimp only
  split
  · rfl
  · rw [runGroup_group, groupEvent_group, onGroup_group]; split <;> rfl

theorem evaluate_group (s : State) (g : GroupIx) : s.evaluate.group g = s.group g := group_alike (State.evaluate_alike s) (State.evaluate_settles s).train g

theorem egress_group (s : State) (d : DoorIx) (g : GroupIx) : (s.egressRows d).group g = s.group g := group_alike (State.egressRows_alike s d) (State.egressRows_settles s d).train g

theorem bypassRow_group (s : State) (g : GroupIx) : s.bypassRow.group g = s.group g := group_alike (State.bypassRow_alike s) (State.bypassRow_settles s).train g

theorem uplink_good (s : State) (g : GroupIx) (group seq : Nat) (raw : BitVec 16) (flags : Nat) (hf : s.frontOn g = true) (hm : s.power.mode = .run)
    (hg : group = g.val) (hs : seqValid (s.group g).lastSeq (s.group g).bad seq = true) :
    frontBit ((s.uplink g group seq true raw flags).group g) = (some (seq % 16), false) := by
  unfold State.uplink
  dsimp only
  rw [if_neg (by rw [hf, hm]; decide), if_neg (by decide), if_neg (by rw [hs]; simp [hg])]
  rw [evaluate_group]
  have hv : ∀ v : State, frontBit (v.group g) = (some (seq % 16), false) → frontBit ((if h : g.val < 8 then v.egressRows ⟨g.val, h⟩ else v.bypassRow).group g) = (some (seq % 16), false) := by
    intro v hv
    split
    · rw [egress_group]; exact hv
    · rw [bypassRow_group]; exact hv
  have hu : ∀ v : State, frontBit (v.group g) = (some (seq % 16), false) → frontBit ((if (v.group g).validRun = 16 then v.groupValid g else v).group g) = (some (seq % 16), false) := by
    intro v hv
    split
    · rw [groupValid_sb]; exact hv
    · exact hv
  refine hv _ (hu _ ?_)
  rw [groupFault_sb, filterFrame_sb, keeperFrame_group, onGroup_group]; rfl

end Sys2Proof.Machine
end

