-- ==== Sys2Proof/Laws/Powers.lean ====
section
/-!
SUPPORT. Supply, hold-up, power states and wakes: what each operation leaves in the power part.
-/

set_option linter.unusedVariables false
set_option linter.unusedSimpArgs false

namespace Sys2Proof.Machine

theorem tab10_on (f : Fin 10 → Bool) (n : Fin 10) : (tab 10 f)[n] = f n := tab_get _ _

theorem powerLost_out (s : State) : (∀ n, s.powerLost.power.on n = decide (n.val = 0)) ∧ s.powerLost.loop.commanded = false
    ∧ (∀ i : SessIx, s.powerLost.fcp.sessions[i].state = .closed) ∧ s.powerLost.power.counters = s.power.counters
    ∧ s.powerLost.power.cart = s.power.cart ∧ s.powerLost.power.ready = false ∧ s.powerLost.power.mode = .run := by
  refine ⟨fun n => tab_get _ _, rfl, fun i => ?_, rfl, rfl, rfl, rfl⟩
  show (tab 6 (fun _ => Session.reset))[i].state = _
  rw [tab_get]; rfl

theorem fresh_power (s : State) : s.fresh.power = s.power := rfl

theorem powerEvent_power (s : State) (a b c) : (s.powerEvent a b c).power = s.power := rfl

theorem powerFail_power (s : State) : s.powerFail.power = s.power :=
  (State.powerFail_keeps (Within.refl _) (Keeps.refl _ s)).only .power (by decide)

theorem evaluate_power (s : State) : s.evaluate.power = s.power :=
  (State.evaluate_keeps (Within.refl _) (Keeps.refl _ s)).only .power (by decide)

theorem tickAll_power (s : State) : s.tickAll.power = s.power :=
  (State.tickAll_keeps (Within.refl _) (Keeps.refl _ s)).only .power (by decide)

theorem event_power (s : State) (c p) : (s.event c p).power = s.power := rfl

theorem measure_power (s : State) (c e : Nat) (h : s.power.cart.fitted = true) :
    (s.measureCartridge c e).power = { s.power with cart := s.power.cart.measure s.now c e } := by
  unfold State.measureCartridge
  rw [if_neg (by rw [h]; decide)]
  dsimp only
  rw [evaluate_power]
  split <;> rfl

theorem measure_out (q : Cartridge) (now c e : Nat) : (q.measure now c e).fitted = q.fitted ∧ (q.measure now c e).serial = q.serial
    ∧ (q.measure now c e).fittedAt = q.fittedAt ∧ (q.measure now c e).cap = c ∧ (q.measure now c e).esr = e
    ∧ (q.firstDue = true → (q.measure now c e).capInitial = c ∧ (q.measure now c e).esrInitial = e)
    ∧ (q.firstDue = false → (q.measure now c e).capInitial = q.capInitial)
    ∧ (q.measure now c e).measures = (q.measures ++ [(⟨now, c, e⟩ : CartMeasure)]).filter (fun m => decide (now ≤ m.time + 365 * dayUs)) := by
  unfold Cartridge.measure
  dsimp only
  cases q.firstDue
  · exact ⟨rfl, rfl, rfl, rfl, rfl, fun h => (by cases h), fun _ => rfl, rfl⟩
  · exact ⟨rfl, rfl, rfl, rfl, rfl, fun _ => ⟨rfl, rfl⟩, fun h => (by cases h), rfl⟩

theorem hush_closed {s t : State} (h : s.Hush t) (hc : ∀ i : SessIx, s.fcp.sessions[i].state = .closed) (i : SessIx) :
    t.fcp.sessions[i].state = .closed := (core_state (h i)).trans (hc i)

theorem bootFirmware_hush (s : State) : s.Hush s.bootFirmware := by
  unfold State.bootFirmware
  dsimp only
  have h : s.Hush { s with service := { s.service with fw := s.service.fw.boot.1 } } := .of_fcp rfl
  split
  · exact h.trans (State.event_hush _ _ _)
  · exact h

theorem bootImage_hush (s : State) (a b) : s.Hush (s.bootImage a b) := by
  unfold State.bootImage
  split
  · exact .of_fcp rfl
  · dsimp only
    have h : ∀ r, s.Hush { s with config := r } := fun _ => .of_fcp rfl
    split
    · exact (h _).trans (State.event_hush _ _ _)
    · exact h _

theorem bootApp_hush (s : State) (a) : s.Hush (s.bootApp a) := by
  unfold State.bootApp
  dsimp only
  have h : ∀ r, s.Hush { s with engines := r } := fun _ => .of_fcp rfl
  split
  · exact h _
  · split
    · exact (h _).trans ((State.Hush.of_fcp rfl).trans (State.events_hush _ _))
    · exact h _

/-- The power part when RUN is reached. -/
def inRunPower (p : Power) (c : Cfg) (m : Nat) : Power := { (p.switchTo c .run) with runSince := m, appRan := false }

theorem domainsOn_out (s : State) (ran : Bool) : s.Hush (s.domainsOn ran) ∧ (s.domainsOn ran).power = inRunPower s.power s.cfg s.mono
    ∧ (s.domainsOn ran).cfg = s.cfg := by
  have hk : ∀ v : State, v.Hush (v.bootApp ran).tickAll ∧ (v.bootApp ran).tickAll.power = v.power ∧ (v.bootApp ran).tickAll.config = v.config :=
    fun v => ⟨(bootApp_hush v ran).trans (State.tickAll_hush _),
      (tickAll_power _).trans ((State.bootApp_keeps (Within.refl _) (Keeps.refl _ v) _).only .power (by decide)),
      ((State.tickAll_keeps (Within.refl _) (Keeps.refl _ _)).only .config (by decide)).trans ((State.bootApp_keeps (Within.refl _) (Keeps.refl _ v) _).only .config (by decide))⟩
  unfold State.domainsOn
  extract_lets c s1 boot e1 e2 e3 e4 s2
  refine ⟨(State.Hush.of_fcp (t := s2) rfl).trans (hk s2).1, (hk s2).2.1.trans ?_, ?_⟩
  · rfl
  · exact congrArg (fun g => g.cfg) (hk s2).2.2

theorem boot_power (s : State) (a b) : ((s.bootFirmware).bootImage a b).power = s.power ∧ ((s.bootFirmware).bootImage a b).mono = s.mono := by
  have h1 := State.bootFirmware_keeps (Within.refl _) (Keeps.refl _ s)
  have h2 := State.bootImage_keeps (Within.refl _) (Keeps.refl _ s.bootFirmware) a b
  exact ⟨(h2.only .power (by decide)).trans (h1.only .power (by decide)), (h2.only .mono (by decide)).trans (h1.only .mono (by decide))⟩

theorem restart_out (s : State) (a b ran) : s.Hush (s.restart a b ran) ∧
    (s.restart a b ran).power = inRunPower s.power (s.restart a b ran).cfg s.mono := by
  unfold State.restart
  extract_lets s1 l s2
  have h1 : s.Hush s1 := (bootFirmware_hush s).trans (bootImage_hush _ a b)
  have hb := boot_power s a b
  obtain ⟨h2, h3, h4⟩ := domainsOn_out s2 ran
  refine ⟨(h1.trans (.of_fcp (t := s2) rfl)).trans (h2.trans (State.evaluate_hush _)), (evaluate_power _).trans (h3.trans ?_)⟩
  have hc : (s2.domainsOn ran).evaluate.cfg = s2.cfg :=
    (congrArg (fun g => g.cfg) ((State.evaluate_keeps (Within.refl _) (Keeps.refl _ (s2.domainsOn ran))).only .config (by decide))).trans h4
  have hp : s2.power = s.power := hb.1
  have hm : s2.mono = s.mono := hb.2
  exact congr (congr (congrArg inRunPower hp) hc.symm) hm

theorem runs_on (p : Power) (c : Cfg) (m) (n : Fin 10) : (inRunPower p c m).on n = runDomain c n := tab_get _ _

theorem measureCell_out (s : State) : s.Hush s.measureCell ∧ ∃ b, s.measureCell.power = { s.power with cellLow := b } := by
  unfold State.measureCell
  extract_lets low s1
  have h : s.Hush s1 := .of_fcp rfl
  split
  · exact ⟨h.trans (State.event_hush _ _ _), low, rfl⟩
  · exact ⟨h, low, rfl⟩

theorem powersUp_out (s : State) (k a b : Bool) : (s.powersUp k a b).power.mode = .run ∧ (s.powersUp k a b).power.lastWake = 0xFF
    ∧ (s.powersUp k a b).power.noHoldup = true ∧ (s.powersUp k a b).power.charging = s.power.cart.fitted ∧ (s.powersUp k a b).power.ready = false
    ∧ (∀ n, (s.powersUp k a b).power.on n = runDomain (s.powersUp k a b).cfg n) ∧ ∀ i : SessIx, (s.powersUp k a b).fcp.sessions[i].state = .closed := by
  obtain ⟨_, _, h3, _, h5, h6, h7⟩ := powerLost_out s
  unfold State.powersUp
  extract_lets s1 r s2 s3
  have hs2 : s2.power = s.powerLost.power ∧ s2.fcp = s.powerLost.fcp := by
    show State.power (if k then _ else _) = _ ∧ State.fcp (if k then _ else _) = _
    cases k <;> exact ⟨rfl, rfl⟩
  have h8 : s3.power = { s2.power with lastWake := 0xFF, keepLost := s2.power.keepLost || k, noHoldup := true, charging := s2.power.cart.fitted } := rfl
  have h9 : s.powerLost.Hush s3 := .of_fcp hs2.2
  obtain ⟨m1, lo, m2⟩ := measureCell_out s3
  obtain ⟨r1, r2⟩ := restart_out s3.measureCell a b false
  rw [m2, h8, hs2.1] at r2
  generalize s3.measureCell.restart a b false = t at r1 r2 ⊢
  have hc := hush_closed (h9.trans (m1.trans r1)) h3
  show t.power.mode = _ ∧ t.power.lastWake = _ ∧ t.power.noHoldup = _ ∧ t.power.charging = _ ∧ t.power.ready = _ ∧ (∀ n, t.power.on n = runDomain t.cfg n)
    ∧ ∀ i : SessIx, t.fcp.sessions[i].state = _
  rw [r2]
  refine ⟨rfl, rfl, rfl, congrArg (fun q => q.fitted) h5, ?_, fun n => runs_on _ _ _ n, hc⟩
  exact (congrArg (fun b => b && (PwrMode.run == PwrMode.run)) h6).trans rfl

theorem latch_one (p : Power) (c : Cfg) (bit : Nat) (h1 : wakeMarked p.wakeState bit = true) (h2 : bitOf c.wakeEnable bit = true)
    (h3 : bitOf p.latched bit = false) : p.latch c bit = { p with latched := p.latched + 2 ^ bit } := by
  unfold Power.latch; rw [if_pos (by rw [h1, h2, h3]; simp)]

theorem commits_out (s : State) (n : Entry) (hn : s.power.entry = some n) (ha : n.aborted = false) (he : s.entryReady n.target = true) :
    s.entryCommits.power.mode = n.target ∧ s.entryCommits.power.entry = none ∧ (∀ k, s.entryCommits.power.on k = domainOn s.cfg n.target k)
    ∧ (n.target = .stable → s.entryCommits.power.counters.stable = satInc 16 s.power.counters.stable)
    ∧ (n.target = .hibernate → s.entryCommits.power.counters.hibernate = satInc 16 s.power.counters.hibernate)
    ∧ ∀ i : SessIx, s.entryCommits.fcp.sessions[i].state = .closed := by
  unfold State.entryCommits
  split
  · rename_i h; rw [hn] at h; cases h
  rename_i n' h
  rw [hn] at h; injection h with h; subst h
  rw [if_neg (by rw [ha, he]; decide)]
  extract_lets c toStable s1 m s2 s3 s4 s5 s6 s7 cs s8
  have h1 : s1.power = s.power := by show State.power (if _ then _ else _) = _; split <;> rfl
  have h2 : s2.power = s1.power := by show State.power (if _ then _ else _) = _; split <;> rfl
  have h3 : s3.power = s2.power := by
    have k1 := State.complete_keeps (Within.refl _) (Keeps.refl _ s2) n.handle stDone 0 (entryResult n 0 0xFF s2.mono s2.now)
    have k2 := State.operationsEnd_keeps (Within.refl _) (Keeps.refl _ (s2.complete n.handle stDone 0 (entryResult n 0 0xFF s2.mono s2.now)))
    have k3 := State.closeAll_keeps (Within.refl _) (Keeps.refl _ (s2.complete n.handle stDone 0 (entryResult n 0 0xFF s2.mono s2.now)).operationsEnd)
    exact (k3.only .power (by decide)).trans ((k2.only .power (by decide)).trans (k1.only .power (by decide)))
  have hc3 : ∀ i : SessIx, s3.fcp.sessions[i].state = .closed := fun i => closeAll_state _ i
  have h5 : s6.power = s4.power ∧ s6.fcp = s3.fcp := by
    show State.power (if _ then _ else _) = _ ∧ State.fcp (if _ then _ else _) = _; split <;> exact ⟨rfl, rfl⟩
  have h4 : s4.power = { s3.power with watchFired := 0, appRan := n.appRan, entry := none, counters := if toStable then { s3.power.counters with stable := satInc 16 s3.power.counters.stable } else { s3.power.counters with hibernate := satInc 16 s3.power.counters.hibernate } } := rfl
  have h8 : s8.power = s6.power.switchTo c n.target ∧ s8.fcp = s6.fcp := ⟨rfl, rfl⟩
  have hf : ∀ w : State, s8.Hush w → w.power = s8.power → w.power.mode = n.target ∧ w.power.entry = none ∧ (∀ k, w.power.on k = domainOn s.cfg n.target k)
    ∧ (n.target = .stable → w.power.counters.stable = satInc 16 s.power.counters.stable)
    ∧ (n.target = .hibernate → w.power.counters.hibernate = satInc 16 s.power.counters.hibernate)
    ∧ ∀ i : SessIx, w.fcp.sessions[i].state = .closed := by
    intro w hw hp
    rw [hp, h8.1, h5.1, h4, h3, h2, h1]
    refine ⟨rfl, rfl, fun k => tab_get _ _, fun ht => ?_, fun ht => ?_, hush_closed hw (fun i => by rw [h8.2, h5.2]; exact hc3 i)⟩
    · have : toStable = true := by show (n.target == .stable) = true; rw [ht]; rfl
      rw [this]; rfl
    · have : toStable = false := by show (n.target == .stable) = false; rw [ht]; rfl
      rw [this]; rfl
  clear_value s8
  split
  · have hw : ∀ (v : State) (o : FieldOutputs), v.Hush ({ v with outs := o } : State).evaluate ∧ ({ v with outs := o } : State).evaluate.power = v.power :=
      fun v o => ⟨(State.Hush.of_fcp rfl).trans (State.evaluate_hush _), (evaluate_power _).trans rfl⟩
    exact hf _ (hw s8 _).1 (hw s8 _).2
  · exact hf s8 (State.Hush.refl _) rfl

theorem groupValid_raw (s : State) (g : GroupIx) (h : (s.group g).loaded = true) :
    ((s.groupValid g).group g).raw = (s.group g).raw ∧ ((s.groupValid g).group g).filtered = (s.group g).filtered := by
  unfold State.groupValid
  extract_lets q load s1
  split
  · exact ⟨rfl, rfl⟩
  · rw [runGroup_group, groupEvent_group]
    have h1 : s1.group g = { s.group g with validRun := 16, flags := { (s.group g).flags with valid := true, applied := true } } := onGroup_group _ _ _
    rw [h1]
    show InGroup.raw (if _ then _ else _) = _ ∧ InGroup.filtered (if _ then _ else _) = _
    rw [if_pos h]
    exact ⟨rfl, rfl⟩

theorem inputWakes_group (s : State) (g k a b) : (s.inputWakes g a b).group k = s.group k := by
  unfold State.inputWakes
  split
  · split <;> rfl
  · split <;> rfl

theorem keeperBurst_group (s : State) (g k r a) : (s.keeperBurst g r a).group k = s.group k := by
  unfold State.keeperBurst
  split <;> rfl

theorem burst_out (s : State) (g : GroupIx) (raw : BitVec 16) (agree : Bool) (hg : s.frontOn g = true) :
    ((s.burst (g, raw, agree)).group g).raw = shownRaw (s.group g) g raw
    ∧ ((s.group g).loaded = false ∨ ((s.group g).flags.valid = true ∧ agree = true) → ((s.burst (g, raw, agree)).group g).filtered = shownRaw (s.group g) g raw) := by
  unfold State.burst
  extract_lets g' q raw' fil s1 s2 s3
  rw [if_neg (by show ¬(!s.frontOn g) = true; rw [hg]; decide)]
  have h1 : s3.group g = { s.group g with raw := raw', filtered := fil, loaded := true, bad := false, validRun := min 16 ((s.group g).validRun + 4), counts := if (s.group g).loaded then (s.group g).counts else loadedCounts s.cfg g raw' } :=
    (keeperBurst_group _ _ _ _ _).trans ((inputWakes_group _ _ _ _ _).trans (onGroup_group _ _ _))
  have hf : ∀ w : State, (w.group g).raw = (s3.group g).raw ∧ (w.group g).filtered = (s3.group g).filtered → (w.group g).raw = shownRaw (s.group g) g raw
    ∧ ((s.group g).loaded = false ∨ ((s.group g).flags.valid = true ∧ agree = true) → (w.group g).filtered = shownRaw (s.group g) g raw) := by
    intro w hw
    rw [hw.1, hw.2, h1]
    refine ⟨rfl, fun h => ?_⟩
    show (if _ then _ else _) = _
    rw [if_pos]
    rcases h with h | h
    · show (!(s.group g).loaded || _) = true
      rw [h]; rfl
    · show (_ || ((s.group g).flags.valid && agree)) = true
      rw [h.1, h.2]; simp
  split
  · exact hf _ (groupValid_raw s3 g (by rw [h1]))
  · exact hf _ ⟨rfl, rfl⟩

theorem keeperWakes_group (s : State) (g) : s.keeperWakes.group g = s.group g := by
  unfold State.keeperWakes; split <;> rfl

theorem outs_group (s : State) (g : GroupIx) (o : FieldOutputs) : ({ s with outs := o } : State).group g = s.group g := rfl

end Sys2Proof.Machine
end

