-- ==== Sys2Proof/Laws/Flushes.lean ====
section
/-!
SUPPORT. Flushes, incidents, session timers and packets that leave: what each operation leaves behind.
-/

set_option linter.unusedVariables false
set_option linter.unusedSimpArgs false

namespace Sys2Proof.Machine

theorem max_fold (l : List Nat) (m : Nat) : m ≤ l.foldl max m ∧ ∀ n ∈ l, n ≤ l.foldl max m := by
  induction l generalizing m with
  | nil => exact ⟨Nat.le_refl _, fun n h => by cases h⟩
  | cons x l ih =>
    refine ⟨Nat.le_trans (Nat.le_max_left m x) (ih _).1, fun n h => ?_⟩
    rcases List.mem_cons.mp h with h | h
    · subst h; exact Nat.le_trans (Nat.le_max_right m _) (ih _).1
    · exact (ih _).2 n h

theorem writeIncidents_log (r : Recorder) (now upTo : Nat) : let q := (r.writeIncidents now upTo).1
    q.staged = r.staged ∧ q.durableRseq = r.durableRseq ∧ q.lastFlush = r.lastFlush ∧ q.lastFlushTime = r.lastFlushTime ∧ q.flushes = r.flushes
    ∧ q.flush = r.flush ∧ q.log = r.log := by
  unfold Recorder.writeIncidents
  split
  · exact ⟨rfl, rfl, rfl, rfl, rfl, rfl, rfl⟩
  · have hk : ∀ (l : List Nat) (g : Recorder × Events → Nat → Recorder × Events)
        (hg : ∀ p n, (g p n).1.staged = p.1.staged ∧ (g p n).1.durableRseq = p.1.durableRseq ∧ (g p n).1.lastFlush = p.1.lastFlush
          ∧ (g p n).1.lastFlushTime = p.1.lastFlushTime ∧ (g p n).1.flushes = p.1.flushes ∧ (g p n).1.flush = p.1.flush ∧ (g p n).1.log = p.1.log)
        (p : Recorder × Events), (l.foldl g p).1.staged = p.1.staged ∧ (l.foldl g p).1.durableRseq = p.1.durableRseq
          ∧ (l.foldl g p).1.lastFlush = p.1.lastFlush ∧ (l.foldl g p).1.lastFlushTime = p.1.lastFlushTime
          ∧ (l.foldl g p).1.flushes = p.1.flushes ∧ (l.foldl g p).1.flush = p.1.flush ∧ (l.foldl g p).1.log = p.1.log := by
      intro l g hg
      induction l with
      | nil => exact fun p => ⟨rfl, rfl, rfl, rfl, rfl, rfl, rfl⟩
      | cons x l ih =>
        intro p
        obtain ⟨a1, a2, a3, a4, a5, a6, a7⟩ := ih (g p x)
        obtain ⟨b1, b2, b3, b4, b5, b6, b7⟩ := hg p x
        exact ⟨a1.trans b1, a2.trans b2, a3.trans b3, a4.trans b4, a5.trans b5, a6.trans b6, a7.trans b7⟩
    refine hk _ _ ?_ _
    intro p n
    dsimp only
    split
    · exact ⟨rfl, rfl, rfl, rfl, rfl, rfl, rfl⟩
    · split <;> exact ⟨rfl, rfl, rfl, rfl, rfl, rfl, rfl⟩

theorem onSession_get (s : State) (i j : SessIx) (g : Session → Session) :
    (s.onSession i g).fcp.sessions[j] = if i = j then g s.fcp.sessions[i] else s.fcp.sessions[j] := set_get _ _ _ _

theorem countFcp_sessions (s : State) (g) : (s.countFcp g).fcp.sessions = s.fcp.sessions := rfl

theorem takeLog_log (s : State) (r : Recorder × Events) : (s.takeLog r).log = r.1 :=
  (State.events_keeps (Within.refl _) (Keeps.refl _ _) _).only .log (by decide)

theorem flushDone_log (s : State) : s.flushDone.log = s.log :=
  (State.flushDone_keeps (Within.refl _) (Keeps.refl _ _)).only .log (by decide)

theorem entryChecks_log (s : State) : s.entryChecks.log = s.log :=
  (State.entryChecks_keeps (Within.refl _) (Keeps.refl _ _)).only .log (by decide)

theorem complete_out (s : State) (h st r p) (o : Operation) (ho : s.fcp.ops.find? (fun o => o.handle == h && o.state == .running) = some o) :
    ∃ q ∈ (s.complete h st r p).fcp.ops, q.handle = h ∧ q.state = .complete ∧ q.status = st ∧ q.reason = r ∧ q.result = p := by
  unfold State.complete
  rw [ho]
  have hm := List.mem_of_find?_eq_some ho
  have hp := List.find?_some ho
  simp only [Bool.and_eq_true, beq_iff_eq] at hp
  refine ⟨{ o with state := .complete, status := st, reason := r, result := p }, ?_, hp.1, rfl, rfl, rfl, rfl⟩
  show _ ∈ s.fcp.ops.map _
  exact List.mem_map.mpr ⟨o, hm, if_pos hp.1⟩

theorem endFlush_out (r : Recorder) (now us : Nat) (f : Flush) (h : r.flush = some f) (q : Recorder) (hq : q = (r.endFlush now us).1) :
    q.staged = r.staged.filter (fun n => decide (f.rseq ≤ n)) ∧ (∀ n ∈ r.staged, n < f.rseq → n ≤ q.durableRseq) ∧ r.durableRseq ≤ q.durableRseq
    ∧ q.lastFlush = now ∧ q.lastFlushTime = satTo 32 us ∧ q.flushes = satInc 32 r.flushes ∧ q.flush.isSome = f.further ∧ q.log = r.log := by
  have hx : ∃ v : Recorder, v = { r with staged := r.staged.filter (fun n => decide (f.rseq ≤ n)), durableRseq := (r.staged.filter (fun n => decide (n < f.rseq))).foldl max r.durableRseq, flush := none, lastFlush := now, lastFlushTime := satTo 32 us, flushes := satInc 32 r.flushes }
      ∧ q = if f.further then (v.writeIncidents now f.iseq).1.beginFlush else (v.writeIncidents now f.iseq).1 := by
    refine ⟨_, rfl, ?_⟩
    rw [hq]; unfold Recorder.endFlush; rw [h]
  obtain ⟨r1, hr1, hq'⟩ := hx
  generalize hw : r1.writeIncidents now f.iseq = w at hq'
  obtain ⟨a1, a2, a3, a4, a5, a6, a7⟩ := writeIncidents_log r1 now f.iseq
  rw [hw] at a1 a2 a3 a4 a5 a6 a7
  rw [hr1] at a1 a2 a3 a4 a5 a6 a7
  dsimp only at a1 a2 a3 a4 a5 a6 a7
  have hb : ∀ v : Recorder, v.flush = none → v.beginFlush.staged = v.staged ∧ v.beginFlush.durableRseq = v.durableRseq ∧ v.beginFlush.lastFlush = v.lastFlush
      ∧ v.beginFlush.lastFlushTime = v.lastFlushTime ∧ v.beginFlush.flushes = v.flushes ∧ v.beginFlush.log = v.log ∧ v.beginFlush.flush.isSome = true := by
    intro v hv; unfold Recorder.beginFlush; rw [hv]; exact ⟨rfl, rfl, rfl, rfl, rfl, rfl, rfl⟩
  have ht := max_fold (r.staged.filter (fun n => decide (n < f.rseq))) r.durableRseq
  have hd : ∀ n ∈ r.staged, n < f.rseq → n ≤ (r.staged.filter (fun n => decide (n < f.rseq))).foldl max r.durableRseq := fun n hn hl => ht.2 n (List.mem_filter.mpr ⟨hn, decide_eq_true hl⟩)
  cases hf : f.further
  · rw [hf] at hq'
    rw [hq', if_neg (by decide), a1, a2, a3, a4, a5, a6, a7]
    exact ⟨rfl, hd, ht.1, rfl, rfl, rfl, rfl, rfl⟩
  · obtain ⟨b1, b2, b3, b4, b5, b6, b7⟩ := hb w.1 a6
    rw [hf] at hq'
    rw [hq', if_pos rfl, b1, b2, b3, b4, b5, b6, b7, a1, a2, a3, a4, a5, a7]
    exact ⟨rfl, hd, ht.1, rfl, rfl, rfl, rfl, rfl⟩

theorem sendNext_out (z : Session) (p : Packet) (rest : List Packet) (h : z.txQueue = p :: rest) : z.sendNext.lastSent = some p
    ∧ z.sendNext.txQueue = rest ++ z.txWaiting.take 1 ∧ z.sendNext.txWaiting = z.txWaiting.drop 1 := by
  unfold Session.sendNext
  rw [h]
  dsimp only
  cases hw : z.txWaiting with
  | nil => exact ⟨rfl, (List.append_nil _).symm, rfl⟩
  | cons q more => exact ⟨rfl, rfl, rfl⟩

theorem eventState_get (f : Fcp) (now : Nat) (i : SessIx) (a b : SessState) : (f.eventState now i a b).sessions[i] = f.sessions[i] := by
  unfold Fcp.eventState
  show (tab 6 _)[i] = _
  rw [tab_get, if_pos rfl]

theorem complete_inc (r : Recorder) (now free : Nat) (slot : Fin 9) (i : Incident) (h : r.opened[slot] = some i) (hl : i.samples.length ≤ 2000)
    (hb : r.stagedBytes + 16384 ≤ 262144) (q : Recorder) (hq : q = (r.complete now free slot).1) : q.opened[slot] = none ∧ q.nextIseq = r.nextIseq + 1
      ∧ q.stagedInc = r.stagedInc ++ [r.nextIseq] ∧ q.due = true
      ∧ ∃ j, q.journal = r.journal ++ [(r.nextIseq, j)] ∧ j.samples.length = 2000 ∧ j.cause = i.cause
        ∧ (∀ k, k < i.samples.length → j.samples[k]? = i.samples[k]?) := by
  unfold Recorder.complete at hq
  rw [h] at hq
  dsimp only at hq
  generalize hj : ({ i with samples := _ } : Incident) = j at hq
  have hs : ∀ (v : Recorder) (w : Recorder), w = { v with opened := v.opened.set slot none } → v.stagedBytes + 16384 ≤ 262144 →
      (w.stageIncident now j).1.opened[slot] = none ∧ (w.stageIncident now j).1.nextIseq = v.nextIseq + 1
      ∧ (w.stageIncident now j).1.stagedInc = v.stagedInc ++ [v.nextIseq] ∧ (w.stageIncident now j).1.due = true
      ∧ (w.stageIncident now j).1.journal = v.journal ++ [(v.nextIseq, j)] := by
    intro v w hw hb
    have hb' : ¬ 262144 < w.stagedBytes + 16384 := by rw [hw]; exact Nat.not_lt.mpr hb
    unfold Recorder.stageIncident
    rw [if_neg hb']
    have hf : ∀ u : Recorder, u.fillTrigger.opened = u.opened ∧ u.fillTrigger.nextIseq = u.nextIseq ∧ u.fillTrigger.stagedInc = u.stagedInc
        ∧ (u.due = true → u.fillTrigger.due = true) ∧ u.fillTrigger.journal = u.journal := by
      intro u; unfold Recorder.fillTrigger; split <;> exact ⟨rfl, rfl, rfl, (by first | exact fun _ => rfl | exact fun h => h), rfl⟩
    dsimp only
    obtain ⟨f1, f2, f3, f4, f5⟩ := hf { w with journal := w.journal ++ [(w.nextIseq, j)], stagedInc := w.stagedInc ++ [w.nextIseq], nextIseq := w.nextIseq + 1, due := true }
    rw [f1, f2, f3, f4 rfl, f5]
    subst hw
    exact ⟨(set_get v.opened slot slot none).trans (if_pos rfl), rfl, rfl, rfl, rfl⟩
  have hc : ∀ (v : Recorder) (x : Incident), v.opened[slot] = some x → v.completeAt now slot = ({ v with opened := v.opened.set slot none }).stageIncident now x := by
    intro v x hv; unfold Recorder.completeAt; rw [hv]
  generalize hv : ({ r with opened := r.opened.set slot (some j) } : Recorder) = v at hq
  have v1 : v.opened[slot] = some j := by rw [← hv]; exact (set_get r.opened slot slot _).trans (if_pos rfl)
  have v2 : v.nextIseq = r.nextIseq := by rw [← hv]
  have v3 : v.stagedInc = r.stagedInc := by rw [← hv]
  have v4 : v.journal = r.journal := by rw [← hv]
  have v5 : v.stagedBytes = r.stagedBytes := by rw [← hv]; rfl
  rw [hc v j v1] at hq
  obtain ⟨a1, a2, a3, a4, a5⟩ := hs v _ rfl (by rw [v5]; exact hb)
  rw [← hq] at a1 a2 a3 a4 a5
  rw [v2] at a2 a3 a5
  rw [v3] at a3
  rw [v4] at a5
  refine ⟨a1, a2, a3, a4, j, a5, ?_, ?_, ?_⟩
  · rw [← hj]
    show (_ ++ List.map _ _).length = 2000
    rw [List.length_append, List.length_map, List.length_range]; omega
  · rw [← hj]
  · intro k hk
    rw [← hj]
    exact List.getElem?_append_left hk

theorem closes_out (s : State) (i : SessIx) (h : s.fcp.sessions[i].state ≠ .closed) :
    (s.closeSession i false).fcp.sessions[i].core = (Session.close s.fcp.sessions[i]).core
    ∧ (∀ d : DoorIx, (s.closeSession i false).fcp.commander[d] = if s.fcp.commander[d] = some i then none else s.fcp.commander[d])
    ∧ (s.closeSession i false).fcp.ops = s.fcp.ops := by
  unfold State.closeSession
  rw [if_neg h]
  have hk : ∀ f : Fcp, f = s.fcp.closeSession s.now i false → f.sessions[i].core = (Session.close s.fcp.sessions[i]).core
      ∧ (∀ d : DoorIx, f.commander[d] = if s.fcp.commander[d] = some i then none else s.fcp.commander[d]) ∧ f.ops = s.fcp.ops := by
    intro f hf
    unfold Fcp.closeSession at hf
    rw [if_neg h] at hf
    dsimp only at hf
    rw [if_neg (by decide)] at hf
    have h0 : ((s.fcp.session i Session.close).eventState s.now i s.fcp.sessions[i].state .closed).sessions[i] = Session.close s.fcp.sessions[i] := by
      rw [eventState_get]
      exact (set_get _ _ _ _).trans (if_pos rfl)
    generalize hv : (s.fcp.session i Session.close).eventState s.now i s.fcp.sessions[i].state .closed = v at h0 hf
    have h1 : v.commander = s.fcp.commander := by rw [← hv]; rfl
    have h2 : v.ops = s.fcp.ops := by rw [← hv]; rfl
    have hs : ∀ (w : Fcp) (g), (∀ d, (w.setCommanders s.now g).commander[d] = g d) ∧ (w.setCommanders s.now g).ops = w.ops := by
      intro w g
      unfold Fcp.setCommanders
      dsimp only
      split
      · rename_i h; exact ⟨fun d => (congrArg (fun v : Vector (Option SessIx) 8 => v[d]) h).symm.trans (tab_get _ _), rfl⟩
      · exact ⟨fun d => tab_get _ _, rfl⟩
    rw [hf]
    refine ⟨(Fcp.setCommanders_core _ _ _ _).trans (congrArg _ h0), fun d => ?_, (hs _ _).2.trans h2⟩
    rw [(hs _ _).1, h1]
  exact hk (s.fcp.closeSession s.now i false) rfl

theorem packet_goes (s : State) (i : SessIx) (p : Packet) (rest : List Packet) (hc : s.commsRuns = true) (hq : s.fcp.sessions[i].txQueue = p :: rest)
    (hr : i = 4 ∨ (s.cfg.sessTransport i = 1 ∧ s.onRing = true)
          ∨ (s.power.on 2 = true ∧ ∃ ch : CanIx, s.cfg.sessTransport i = 2 + ch.val ∧ (s.can.channels[ch].free s.cfg ch).isSome = true)) :
    (s.sendPacket i).fcp = s.fcp.session i Session.sendNext := by
  unfold State.sendPacket
  rw [hq]
  dsimp only
  rw [if_neg (by rw [hc]; decide)]
  rcases hr with hr | ⟨h1, h2⟩ | ⟨h1, ch, h2, h3⟩
  · rw [if_pos hr]; rfl
  · by_cases hi : i = 4
    · rw [if_pos hi]; rfl
    · rw [if_neg hi, h1, if_pos h2]; rfl
  · by_cases hi : i = 4
    · rw [if_pos hi]; rfl
    · have hk : ∀ ch : CanIx, (s.can.channels[ch].free s.cfg ch).isSome = true → (s.sendCan ch i p).fcp = s.fcp.session i Session.sendNext := by
        intro ch hf
        unfold State.sendCan
        split
        · rename_i h; rw [h] at hf; cases hf
        · rw [if_neg (by rw [h1]; decide)]; rfl
      rw [if_neg hi, h2]
      match ch, h3 with
      | 0, h3 => exact hk 0 h3
      | 1, h3 => exact hk 1 h3

end Sys2Proof.Machine
end

