-- ==== Sys2Proof/Laws/Admissions.lean ====
section
/-!
SUPPORT. A packet that passes steps 3 to 11 of Table 9.6: what receiving it does, and the reply that stays stored.
-/

namespace Sys2Proof.Machine

theorem Session.takeDack_state (z : Session) (d : Nat) : (z.takeDack d).state = z.state ∧ (z.takeDack d).authenticated = z.authenticated
    ∧ (z.takeDack d).expected = z.expected := by
  unfold Session.takeDack; split <;> exact ⟨rfl, rfl, rfl⟩

theorem State.onSession_onSession (s : State) (i : SessIx) (f g : Session → Session) :
    (s.onSession i f).onSession i g = s.onSession i (fun z => g (f z)) := by
  unfold State.onSession Fcp.session
  simp

theorem State.admitted_session (s : State) (h : Hdr) (i : SessIx) : (s.admitted h i).fcp.sessions[i] = s.fcp.sessions[i].admitted h s.now :=
  (onSession_get _ _ _ _).trans (if_pos rfl)

theorem Session.admitted_same (z : Session) (h : Hdr) (now : Nat) : (z.admitted h now).state = z.state
    ∧ (z.admitted h now).authenticated = z.authenticated := by
  obtain ⟨h1, h2, _⟩ := Session.takeDack_state { z with lastValid := now, peer := replyTo h } h.dack.toNat
  exact ⟨h1, h2⟩

theorem State.Admits.precheck {s : State} {h : Hdr} {i : SessIx} {q : Req} (a : s.Admits h i q) :
    (s.admitted h i).precheck h i q = none := by
  unfold State.precheck
  dsimp only
  have h1 : (s.admitted h i).service = s.service := rfl
  have h2 : (s.admitted h i).needsAuth i = s.needsAuth i := rfl
  have h3 : (s.admitted h i).granted i q.opcode = s.granted i q.opcode := rfl
  have h4 : (s.admitted h i).trainWideRefusal h q = s.trainWideRefusal h q := rfl
  have h5 : (s.admitted h i).fcp.sessions[i].authenticated = s.fcp.sessions[i].authenticated := by
    rw [State.admitted_session]; exact (Session.admitted_same _ _ _).2
  rw [h1, h2, h3, h4, h5, a.listed, a.valid, a.granted, a.rights, a.ready, a.agreed]
  rw [if_neg (by decide), if_neg (by decide), if_neg, if_neg]
  · rfl
  · rintro ⟨g1, g2, g3⟩
    rcases a.authed with k | k | k
    · exact g1 k
    · rw [k] at g2; cases g2
    · rw [k] at g3; cases g3
  · rintro ⟨g1, g2, g3, g4⟩
    rcases a.keyed with k | k | k | k
    · exact g1 k
    · exact k g2
    · rw [k] at g3; cases g3
    · rw [k] at g4; cases g4

/-- What receiving an admitted packet does. -/
theorem State.Admits.receive {s : State} {h : Hdr} {i : SessIx} {q : Req} (a : s.Admits h i q) (ho : q.opcode ≠ 0x0101) :
    s.receive h q = ((q.act h i (s.admitted h i)).after (match (q.act h i (s.admitted h i)).answer with
      | some x => (q.act h i (s.admitted h i)).state.answerStored h i q x
      | none => (q.act h i (s.admitted h i)).state)).fresh := by
  unfold State.receive
  rw [a.bound]
  dsimp only
  rw [if_neg (by rw [a.opened]; decide), if_neg (by rw [a.hears]; decide)]
  have h1 : (if (decide (q.opcode = 0x0101) && s.foreign h i) = true then s else s.heard h i) = s.heard h i :=
    if_neg (by rw [decide_eq_false ho]; exact Bool.noConfusion)
  rw [h1]
  have h2 : s.heard h i = s.onSession i (fun z => { z with lastValid := s.now, peer := replyTo h }) := by
    unfold State.heard
    dsimp only
    rw [if_neg]
    rw [onSession_get, if_pos rfl]
    show ¬ s.fcp.sessions[i].state = .silent
    rw [a.opened]; decide
  rw [h2]
  unfold State.process
  dsimp only
  rw [if_neg (by rw [a.format]; decide), if_neg]
  · rw [if_neg ho, State.onSession_onSession, State.onSession_onSession]
    rw [if_pos]
    · have h3 : s.onSession i (fun z => { (Session.takeDack { z with lastValid := s.now, peer := replyTo h } h.dack.toNat) with
          expected := seqNext (Session.takeDack { z with lastValid := s.now, peer := replyTo h } h.dack.toNat).expected }) = s.admitted h i := rfl
      rw [h3]
      unfold State.perform
      rw [a.precheck]
      all_goals rfl
    · rw [onSession_get, if_pos rfl]; exact a.ordered
  · rintro ⟨g1, _⟩
    rw [onSession_get, if_pos rfl] at g1
    have : s.fcp.sessions[i].state = .closed := g1
    rw [a.opened] at this; cases this

theorem State.answerStored_session (s : State) (h : Hdr) (i : SessIx) (q : Req) (a : Answer) (ho : q.opcode ≠ 0x0101) :
    ∃ n rest, (s.answerStored h i q a).fcp.sessions[i].replies = StoredReply.of h q a n :: rest := by
  have hs : ∀ v : State, ∃ n rest, (v.onSession i (fun z => z.answerStored i h.hseq.toNat q.opcode h.tag.toNat (replyTo h) q.params a)).fcp.sessions[i].replies
      = StoredReply.of h q a n :: rest := by
    intro v
    rw [onSession_get, if_pos rfl]
    exact ⟨_, _, rfl⟩
  unfold State.answerStored
  dsimp only
  rw [if_neg ho]
  exact hs _

/-- A reply stays stored while the sessions change by events alone. -/
theorem State.Answered.of_hush {s t : State} {h : Hdr} {i : SessIx} {q : Req} {a : Answer} (ho : q.opcode ≠ 0x0101)
    (k : (s.answerStored h i q a).Hush t) : t.Answered i h q a := by
  obtain ⟨n, rest, hr⟩ := s.answerStored_session h i q a ho
  exact ⟨n, rest, (congrArg (fun z : Session => z.replies) (k i)).trans hr⟩

/-- Storing a reply changes the protocol's part alone. -/
theorem State.answerStored_only (s : State) (h : Hdr) (i : SessIx) (q : Req) (a : Answer) (ho : q.opcode ≠ 0x0101) :
    s.answerStored h i q a = { s with fcp := (s.answerStored h i q a).fcp } ∧ (s.answerStored h i q a).fcp.ops = s.fcp.ops
      ∧ (s.answerStored h i q a).fcp.commander = s.fcp.commander ∧ (s.answerStored h i q a).fcp.nextHandle = s.fcp.nextHandle
      ∧ (∀ j : SessIx, (s.answerStored h i q a).fcp.sessions[j].state = s.fcp.sessions[j].state) := by
  have hz : ∀ (z : Session) (p c t d l), (z.answerStored i p c t d l a).state = z.state := by
    intro z p c t d l
    show (z.queueReply _).state = z.state
    unfold Session.queueReply; split <;> rfl
  have hs : ∀ v : State, ∀ u, u = v.onSession i (fun z => z.answerStored i h.hseq.toNat q.opcode h.tag.toNat (replyTo h) q.params a) →
      u = { v with fcp := u.fcp } ∧ u.fcp.ops = v.fcp.ops ∧ u.fcp.commander = v.fcp.commander ∧ u.fcp.nextHandle = v.fcp.nextHandle
      ∧ (∀ j : SessIx, u.fcp.sessions[j].state = v.fcp.sessions[j].state) := by
    intro v u hu
    subst hu
    refine ⟨rfl, rfl, rfl, rfl, fun j => ?_⟩
    rw [onSession_get]
    split
    · rename_i hj; subst hj; exact hz _ _ _ _ _ _
    · rfl
  unfold State.answerStored
  dsimp only
  rw [if_neg ho]
  split
  · exact hs (s.countFcp (fun k => { k with formatErrors := satInc 32 k.formatErrors })) _ rfl
  · exact hs s _ rfl

/-- An admitted packet that is answered at once, with nothing to follow. -/
theorem State.Admits.answers {s u : State} {h : Hdr} {i : SessIx} {q : Req} {a : Answer} (k : s.Admits h i q) (ho : q.opcode ≠ 0x0101)
    (hq : q.act h i (s.admitted h i) = u.answers a) :
    s.receive h q = (u.answerStored h i q a).fresh ∧ (u.answerStored h i q a).fresh.Answered i h q a := by
  refine ⟨?_, State.Answered.of_hush ho (State.Hush.of_fcp rfl)⟩
  rw [k.receive ho, hq]
  rfl

theorem State.admitted_unmoved (s : State) (h : Hdr) (i : SessIx) : s.Unmoved (s.admitted h i) := by
  refine ⟨rfl, rfl, rfl, fun j => ?_⟩
  show (s.onSession i (fun z => z.admitted h s.now)).fcp.sessions[j].state = _
  rw [onSession_get]
  split
  · rename_i hj; subst hj; exact (Session.admitted_same _ _ _).1
  · rfl

/-- An admitted packet that reads: its answer is stored and nothing else moves. -/
theorem State.Admits.reads {s : State} {h : Hdr} {i : SessIx} {q : Req} {a : Answer} (k : s.Admits h i q) (ho : q.opcode ≠ 0x0101)
    (hq : q.act h i (s.admitted h i) = (s.admitted h i).answers a) :
    (s.receive h q).Answered i h q a ∧ s.Unmoved (s.receive h q) := by
  obtain ⟨h1, h2⟩ := k.answers ho hq
  rw [h1]
  refine ⟨h2, ?_⟩
  obtain ⟨a1, a2, a3, _, a5⟩ := (s.admitted h i).answerStored_only h i q a ho
  obtain ⟨_, b2, b3, b4⟩ := s.admitted_unmoved h i
  generalize (s.admitted h i).answerStored h i q a = v at *
  have c1 : v = { s with fcp := v.fcp } := a1
  refine ⟨?_, a3.trans b2, a2.trans b3, fun j => (a5 j).trans (b4 j)⟩
  show v.fresh = { s with fcp := v.fresh.fcp, free := v.fresh.free }
  rw [c1]
  rfl

/-- Of its session a reply changes the store, the numbering and the transmit queue; the other sessions stay. -/
theorem State.answerStored_sessions (s : State) (h : Hdr) (i : SessIx) (q : Req) (a : Answer) (ho : q.opcode ≠ 0x0101) :
    (∃ r d x w, (s.answerStored h i q a).fcp.sessions[i] = { s.fcp.sessions[i] with replies := r, dseqNext := d, txQueue := x, txWaiting := w })
      ∧ ∀ j, j ≠ i → (s.answerStored h i q a).fcp.sessions[j] = s.fcp.sessions[j] := by
  have hz : ∀ (z : Session) (p c t d l), ∃ r e x w, z.answerStored i p c t d l a = { z with replies := r, dseqNext := e, txQueue := x, txWaiting := w } := by
    intro z p c t d l
    unfold Session.answerStored Session.answer Session.queueReply
    dsimp only
    split
    · exact ⟨_, _, _, _, rfl⟩
    · exact ⟨_, _, _, _, rfl⟩
  have hs : ∀ v : State, ∀ u, u = v.onSession i (fun z => z.answerStored i h.hseq.toNat q.opcode h.tag.toNat (replyTo h) q.params a) →
      (∃ r d x w, u.fcp.sessions[i] = { v.fcp.sessions[i] with replies := r, dseqNext := d, txQueue := x, txWaiting := w })
      ∧ ∀ j, j ≠ i → u.fcp.sessions[j] = v.fcp.sessions[j] := by
    intro v u hu
    subst hu
    refine ⟨?_, fun j hj => ?_⟩
    · rw [onSession_get, if_pos rfl]; exact hz _ _ _ _ _ _
    · rw [onSession_get, if_neg (fun k => hj k.symm)]
  unfold State.answerStored
  dsimp only
  rw [if_neg ho]
  split
  · exact hs (s.countFcp (fun k => { k with formatErrors := satInc 32 k.formatErrors })) _ rfl
  · exact hs s _ rfl

theorem Session.admitted_is (z : Session) (h : Hdr) (now : Nat) : ∃ d, z.admitted h now
    = { z with lastValid := now, peer := replyTo h, lastDack := d, expected := seqNext z.expected } := by
  unfold Session.admitted Session.takeDack
  dsimp only
  split
  · exact ⟨_, rfl⟩
  · exact ⟨_, rfl⟩

end Sys2Proof.Machine
end

