-- ==== Sys2Proof/Laws/Claims.lean ====
section
/-!
SUPPORT. Opening a session, and the command of doorways: claims, yields, and what a packet's reply leaves alone.
-/

set_option linter.unusedVariables false
set_option linter.unusedSimpArgs false

namespace Sys2Proof.Machine

theorem setCommanders_out (f : Fcp) (now : Nat) (g : DoorIx → Option SessIx) :
    (∀ d : DoorIx, (f.setCommanders now g).commander[d] = g d) ∧ (f.setCommanders now g).ops = f.ops
      ∧ (f.setCommanders now g).nextHandle = f.nextHandle ∧ ∀ i : SessIx, (f.setCommanders now g).sessions[i].core = f.sessions[i].core := by
  refine ⟨?_, ?_, ?_, fun i => Fcp.setCommanders_core _ _ _ _⟩
  · unfold Fcp.setCommanders
    dsimp only
    split
    · rename_i h; exact fun d => (congrArg (fun v : Vector (Option SessIx) 8 => v[d]) h).symm.trans (tab_get _ _)
    · exact fun d => tab_get _ _
  · unfold Fcp.setCommanders
    dsimp only
    split <;> rfl
  · unfold Fcp.setCommanders
    dsimp only
    split <;> rfl

theorem heard_out (s : State) (h : Hdr) (i : SessIx) : (s.heard h i).fcp.commander = s.fcp.commander ∧ (s.heard h i).fcp.ops = s.fcp.ops
    ∧ s.heard h i = { s with fcp := (s.heard h i).fcp } ∧ (s.heard h i).fcp.sessions[i].peer = replyTo h
    ∧ (s.heard h i).fcp.sessions[i].state = (if s.fcp.sessions[i].state = .silent then .opened else s.fcp.sessions[i].state) := by
  have h0 : (s.onSession i (fun z => { z with lastValid := s.now, peer := replyTo h })).fcp.sessions[i]
      = { s.fcp.sessions[i] with lastValid := s.now, peer := replyTo h } := (onSession_get _ _ _ _).trans (if_pos rfl)
  unfold State.heard
  extract_lets s1
  have h1 : s1.fcp.sessions[i] = { s.fcp.sessions[i] with lastValid := s.now, peer := replyTo h } := h0
  have h2 : s1.fcp.commander = s.fcp.commander ∧ s1.fcp.ops = s.fcp.ops ∧ s1 = { s with fcp := s1.fcp } := ⟨rfl, rfl, rfl⟩
  clear_value s1
  have h3 : s1.fcp.sessions[i].state = s.fcp.sessions[i].state := by rw [h1]
  by_cases hs : s.fcp.sessions[i].state = .silent
  · rw [if_pos (h3.trans hs), if_pos hs]
    have hk : ∀ f, f = s1.fcp.enterState s1.now i .opened → f.commander = s1.fcp.commander ∧ f.ops = s1.fcp.ops
        ∧ f.sessions[i] = { s1.fcp.sessions[i] with state := .opened } := by
      intro f hf
      unfold Fcp.enterState at hf
      dsimp only at hf
      rw [if_neg (by rw [h3, hs]; decide)] at hf
      subst hf
      refine ⟨rfl, rfl, ?_⟩
      rw [eventState_get]
      exact (set_get _ _ _ _).trans (if_pos rfl)
    obtain ⟨k1, k2, k3⟩ := hk _ rfl
    refine ⟨k1.trans h2.1, k2.trans h2.2.1, ?_, ?_, ?_⟩
    · rw [h2.2.2]
    · show (s1.fcp.enterState s1.now i .opened).sessions[i].peer = _
      rw [k3, h1]
    · show (s1.fcp.enterState s1.now i .opened).sessions[i].state = _
      rw [k3]
  · rw [if_neg (fun k => hs (h3.symm.trans k)), if_neg hs]
    exact ⟨h2.1, h2.2.1, h2.2.2, by rw [h1], h3⟩

theorem precheck_open (s : State) (h : Hdr) (i : SessIx) (p : List Byte) (a b c : Nat) (hp : p.length = 12) :
    s.precheck h i (Req.sessionOpen p a b c) = none := by
  unfold State.precheck
  have h1 : (Req.sessionOpen p a b c).valid = true := by show decide (p.length = 12) = true; rw [hp]; rfl
  have h2 : s.granted i (Req.sessionOpen p a b c).opcode = true := by
    unfold State.granted
    show (decide (i.val = 4) || ((decide ((0x0101 : Nat) / 256 = 1) || _) && ((0x0101 : Nat) != 0x0605) && !(decide (i.val = 5) && (decide ((0x0101 : Nat) / 256 = 8) || ((0x0101 : Nat) == 0x0201) || ((0x0101 : Nat) == 0x0202))))) = true
    have e1 : decide ((0x0101 : Nat) / 256 = 1) = true := by decide
    have e2 : ((0x0101 : Nat) != 0x0605) = true := by decide
    have e3 : (decide ((0x0101 : Nat) / 256 = 8) || ((0x0101 : Nat) == 0x0201) || ((0x0101 : Nat) == 0x0202)) = false := by decide
    rw [e1, e2, e3, Bool.and_false]
    simp
  have h3 : s.trainWideRefusal h (Req.sessionOpen p a b c) = none := by
    unfold State.trainWideRefusal
    dsimp only
    rw [if_pos]
    show (!h.trainWide || ((0x0101 : Nat) / 256 == 1) || _) = true
    have e1 : ((0x0101 : Nat) / 256 == 1) = true := by decide
    rw [e1]; simp
  dsimp only
  rw [h1, h2, h3]
  have g : (Req.sessionOpen p a b c).opcode / 256 = 1 := by show (0x0101 : Nat) / 256 = 1; decide
  rw [g]
  simp [Req.sessionOpen, Req.plain]

theorem eventState_rest (f : Fcp) (now : Nat) (i : SessIx) (a b : SessState) : (f.eventState now i a b).commander = f.commander
    ∧ (f.eventState now i a b).ops = f.ops := by
  unfold Fcp.eventState
  dsimp only
  first | exact ⟨rfl, rfl⟩ | (split <;> exact ⟨rfl, rfl⟩)

theorem opened_out (s : State) (i : SessIx) (old : SessState) : (∀ d : DoorIx, (s.opened i old).fcp.commander[d] =
      if s.fcp.commander[d] = none ∧ bitOf (s.cfg.sessDoorPrimary i) d.val = true ∧ s.cfg.isFitted d = true then some i else s.fcp.commander[d])
    ∧ (s.opened i old).fcp.ops = s.fcp.ops ∧ (s.opened i old).fcp.sessions[i].core = s.fcp.sessions[i].core := by
  have hk : ∀ f : Fcp, f.commander = s.fcp.commander → f.ops = s.fcp.ops → f.sessions[i].core = s.fcp.sessions[i].core →
      ∀ g, g = f.takePrimaries s.cfg s.now i → (∀ d : DoorIx, g.commander[d] =
      if s.fcp.commander[d] = none ∧ bitOf (s.cfg.sessDoorPrimary i) d.val = true ∧ s.cfg.isFitted d = true then some i else s.fcp.commander[d])
      ∧ g.ops = s.fcp.ops ∧ g.sessions[i].core = s.fcp.sessions[i].core := by
    intro f h1 h2 h3 g hg
    subst hg
    unfold Fcp.takePrimaries
    obtain ⟨a1, a2, _, a4⟩ := setCommanders_out f s.now (fun d => if f.commander[d].isNone && bitOf (s.cfg.sessDoorPrimary i) d.val && s.cfg.isFitted d then some i else f.commander[d])
    refine ⟨fun d => (a1 d).trans ?_, a2.trans h2, (a4 i).trans h3⟩
    rw [h1]
    simp [and_assoc]
  unfold State.opened
  dsimp only
  split
  · exact hk _ rfl rfl rfl _ rfl
  · exact hk _ (eventState_rest _ _ _ _ _).1 (eventState_rest _ _ _ _ _).2 (Fcp.eventState_core _ _ _ _ _ _) _ rfl

theorem answerPlain_open (s : State) (h : Hdr) (i : SessIx) (c : Nat) (a : Answer) (ho : s.fcp.sessions[i].state = .opened) :
    (s.answerPlain h i c a).fcp.commander = s.fcp.commander ∧ (s.answerPlain h i c a).fcp.ops = s.fcp.ops
      ∧ (s.answerPlain h i c a).config = s.config ∧ (s.answerPlain h i c a).fcp.sessions[i].core = s.fcp.sessions[i].core := by
  unfold State.answerPlain
  refine ⟨rfl, rfl, rfl, ?_⟩
  rw [onSession_get, if_pos rfl, if_neg (by rw [ho]; decide)]
  show (s.fcp.sessions[i].queueReply _).core = _
  unfold Session.queueReply
  split <;> rfl

theorem takeDack_core (z : Session) (d : Nat) : (z.takeDack d).state = z.state ∧ (z.takeDack d).peer = z.peer := by
  unfold Session.takeDack; split <;> exact ⟨rfl, rfl⟩

theorem openFresh_out (s : State) (h : Hdr) (i : SessIx) (p : List Byte) (a b c : Nat) (hp12 : p.length = 12)
    (hb : s.bound h = some i) (hp : s.fcp.sessions[i].state ≠ .paused) (hh : s.hears h (Req.sessionOpen p a b c) = true)
    (hf : h.format = 2) (hr : h.resume = false) (hx : s.foreign h i = false) :
    ∃ n x, (s.receive h (Req.sessionOpen p a b c)).fcp.sessions[i].core =
      (((Session.openFresh · h.hseq.toNat) x).openWith false n).core ∧ (s.receive h (Req.sessionOpen p a b c)).fcp.ops = s.fcp.ops
      ∧ (∀ k : DoorIx, (s.receive h (Req.sessionOpen p a b c)).fcp.commander[k] =
          if s.fcp.commander[k] = none ∧ bitOf (s.cfg.sessDoorPrimary i) k.val = true ∧ s.cfg.isFitted k = true then some i
          else s.fcp.commander[k]) := by
  obtain ⟨a1, a2, a3, a4, a5⟩ := heard_out s h i
  have hrec : s.receive h (Req.sessionOpen p a b c) = ((s.heard h i).process h i (Req.sessionOpen p a b c)).fresh := by
    unfold State.receive
    rw [hb]
    dsimp only
    rw [if_neg hp, if_neg (by rw [hh]; decide), if_neg (by rw [hx, Bool.and_false]; decide)]
  rw [hrec]
  generalize s.heard h i = u at *
  have hv : ∃ v, v = u.onSession i (Session.takeDack · h.dack.toNat) ∧ v.fcp.sessions[i].peer = replyTo h ∧ v.fcp.commander = s.fcp.commander
      ∧ v.fcp.ops = s.fcp.ops ∧ v.cfg = s.cfg := by
    refine ⟨_, rfl, ?_, a1, a2, ?_⟩
    · rw [onSession_get, if_pos rfl]; exact (takeDack_core _ _).2.trans a4
    · rw [a3]; rfl
  obtain ⟨v, hv, v1, v2, v3, v4⟩ := hv
  have hproc : u.process h i (Req.sessionOpen p a b c) = v.perform h i (Req.sessionOpen p a b c) := by
    rw [hv]
    unfold State.process
    dsimp only
    rw [if_neg (by rw [hf]; decide), if_neg (fun k => k.2 rfl), if_pos (show (Req.sessionOpen p a b c).opcode = 0x0101 from rfl)]
  rw [hproc]
  clear hproc hrec hv
  have hfor : v.foreign h i = false := by
    unfold State.foreign
    rw [v1]; simp
  have hact : (Req.sessionOpen p a b c).act h i v = v.opens i false (Session.openFresh · h.hseq.toNat) := by
    show (if v.foreign h i = true then _ else _) = _
    rw [hfor, if_neg (by decide), hr, if_neg (by decide)]
  unfold State.perform
  rw [precheck_open _ _ _ _ _ _ _ hp12, hact]
  have hop : ∃ t nonce old, t.fcp.sessions[i] = ((Session.openFresh · h.hseq.toNat) v.fcp.sessions[i]).openWith false nonce
      ∧ (t.fcp.commander = s.fcp.commander ∧ t.fcp.ops = s.fcp.ops ∧ t.cfg = s.cfg)
      ∧ v.opens i false (Session.openFresh · h.hseq.toNat)
        = { state := t, answer := some (Answer.done (t.openPayload i)), after := fun u => u.opened i old } :=
    ⟨(v.onSession i (fun z => (z.openFresh h.hseq.toNat).openWith false (v.freshNonce i))).fresh, _, _, (onSession_get _ _ _ _).trans (if_pos rfl), ⟨v2, v3, v4⟩, rfl⟩
  obtain ⟨t, nonce, old, t1, t2, hop⟩ := hop
  rw [hop]
  dsimp only
  have hst : t.answerStored h i (Req.sessionOpen p a b c) (Answer.done (t.openPayload i))
      = t.answerPlain h i 0x0101 (Answer.done (t.openPayload i)) := by
    unfold State.answerStored
    dsimp only
    rw [if_pos (show (Req.sessionOpen p a b c).opcode = 0x0101 from rfl), if_neg (by show ¬ (stDone = stFormat); decide)]
    rfl
  rw [hst]
  obtain ⟨b1, b2, b3, b4⟩ := answerPlain_open t h i 0x0101 (Answer.done (t.openPayload i)) (by rw [t1]; rfl)
  generalize t.answerPlain h i 0x0101 (Answer.done (t.openPayload i)) = y at *
  obtain ⟨c1, c2, c3⟩ := opened_out y i old
  have yc : y.cfg = s.cfg := (congrArg (fun c => c.cfg) b3).trans t2.2.2
  refine ⟨nonce, v.fcp.sessions[i], ?_, ?_, fun k => ?_⟩
  · exact c3.trans (b4.trans (congrArg Session.core t1))
  · exact c2.trans (b2.trans t2.2.1)
  · refine (c1 k).trans ?_
    rw [yc, b1, t2.1]

theorem unmoved_session {s t : State} (h : s.Unmoved t) (i : SessIx) (g : Session → Session) (hg : ∀ z, (g z).state = z.state) :
    s.Unmoved (t.onSession i g) := by
  obtain ⟨a, b, c, d⟩ := h
  refine ⟨?_, b, c, fun j => ?_⟩
  · show t.onSession i g = { s with fcp := (t.onSession i g).fcp, free := t.free }
    exact congrArg (fun x : State => { x with fcp := t.fcp.session i g }) a
  · rw [onSession_get]
    split
    · rename_i hj; subst hj; exact (hg _).trans (d i)
    · exact d j

theorem unmoved_count {s t : State} (h : s.Unmoved t) (g : FcpCounters → FcpCounters) : s.Unmoved (t.countFcp g) := by
  obtain ⟨a, b, c, d⟩ := h
  refine ⟨?_, b, c, d⟩
  show t.countFcp g = { s with fcp := (t.countFcp g).fcp, free := t.free }
  exact congrArg (fun x : State => { x with fcp := t.fcp.count g }) a

theorem unmoved_stored (s u : State) (h : Hdr) (i : SessIx) (q : Req) (a : Answer) (ho : q.opcode ≠ 0x0101) (hu : s.Unmoved u) :
    s.Unmoved (u.answerStored h i q a).fresh := by
  obtain ⟨a1, a2, a3, _, a5⟩ := u.answerStored_only h i q a ho
  obtain ⟨b1, b2, b3, b4⟩ := hu
  generalize u.answerStored h i q a = v at *
  refine ⟨?_, a3.trans b2, a2.trans b3, fun j => (a5 j).trans (b4 j)⟩
  show v.fresh = { s with fcp := v.fcp, free := v.free + 65536 }
  have : v = { s with fcp := v.fcp, free := v.free } := by
    rw [a1, b1]
  conv => lhs; rw [this]
  rfl

theorem stored_counters (u : State) (h : Hdr) (i : SessIx) (q : Req) (a : Answer) (ho : q.opcode ≠ 0x0101) (ha : a.status ≠ stFormat) :
    (u.answerStored h i q a).fresh.fcp.counters.authFailures = u.fcp.counters.authFailures := by
  unfold State.answerStored
  dsimp only
  rw [if_neg ho, if_neg ha]
  rfl

theorem bitWord_zero : ∀ l : List Bool, bitWord l = 0 ↔ ∀ b ∈ l, b = false
  | [] => by simp [bitWord]
  | b :: bs => by
    have := bitWord_zero bs
    cases b
    · have h2 : bitWord (false :: bs) = 0 ↔ bitWord bs = 0 := by
        show false.toNat + 2 * bitWord bs = 0 ↔ _
        rw [show false.toNat = 0 from rfl]; omega
      rw [h2, this]; simp
    · simp [bitWord]

theorem mem_doorways : ∀ d : DoorIx, d ∈ doorways := by decide

theorem doorMask_zero (f : DoorIx → Bool) : doorMask f = 0 ↔ ∀ d, f d = false := by
  unfold doorMask
  rw [bitWord_zero]
  constructor
  · exact fun h d => h _ (List.mem_map.mpr ⟨d, mem_doorways d, rfl⟩)
  · intro h b hb
    obtain ⟨d, _, rfl⟩ := List.mem_map.mp hb
    exact h d

theorem claimRefusal_same {f g : Fcp} (c : Cfg) (i : SessIx) (d : DoorIx) (h1 : g.commander = f.commander)
    (h2 : ∀ j : SessIx, g.sessions[j].state = f.sessions[j].state) : g.claimRefusal c i d = f.claimRefusal c i d := by
  unfold Fcp.claimRefusal
  rw [h1]
  split
  · rfl
  · split
    · rfl
    · split
      · rfl
      · split
        · rfl
        · split
          · rfl
          · rw [h2]

theorem claim_out (f : Fcp) (c : Cfg) (now : Nat) (i : SessIx) (m : Nat) :
    (∀ d : DoorIx, (f.claim c now i m).commander[d] = if bitOf m d.val = true ∧ f.claimRefusal c i d = none then some i else f.commander[d])
    ∧ (f.claim c now i m).ops = f.ops ∧ ∀ j : SessIx, (f.claim c now i m).sessions[j].core = f.sessions[j].core := by
  unfold Fcp.claim
  extract_lets takes displaced
  obtain ⟨a1, a2, _, a4⟩ := setCommanders_out (f.count (fun q => { q with takeovers := satAdd 16 q.takeovers displaced })) now
    (fun d => if takes d = true then some i else f.commander[d])
  refine ⟨fun d => (a1 d).trans ?_, a2, a4⟩
  simp [takes]

theorem claim_act (h : Hdr) (i : SessIx) (v : State) (m : Nat) (why : DoorIx → Option Nat)
    (hw : (fun d : DoorIx => if bitOf m d.val = true then v.fcp.claimRefusal v.cfg i d else none) = why) :
    (Req.commandClaim (pairParams m 0) m).act h i v =
      (if doorMask (fun d => bitOf m d.val && (why d).isNone) = 0 ∧ doorMask (fun d => (why d).isSome) ≠ 0 then
        v.answers (Answer.refused (lowestReason why))
      else
        { state := v, answer := some (Answer.done (le 1 (doorMask (fun d => bitOf m d.val && (why d).isNone))
            ++ le 1 (doorMask (fun d => (why d).isSome)) ++ le 2 0))
          after := fun t => { t with fcp := t.fcp.claim t.cfg t.now i m } }) := by
  subst hw
  simp only [Req.commandClaim, Req.plain]

end Sys2Proof.Machine
end

