-- ==== Sys2Proof/Laws/Reflexes.lean ====
section
/-!
SUPPORT. Quince's trip rows at a doorway, and the reflex trip that the state machine takes (R251, R257, R259).
-/

namespace Sys2Proof.Machine

/-! ## A trip row -/

/-- A column on which the row is no trip of its doorway leaves every doorway alike. -/
theorem State.latchColumn_other (s : State) (row : RowIx) (n : Nat) (c : DriveIx)
    (ht : (!isStep c && tripRow row (doorOf c)) = false) : s.alike (s.latchColumn row n c) := by
  have hf : ∀ (l : List DoorFx) (t : State), t.alike (l.foldl (fun s x => match x with
      | .event k p => s.event k p
      | _ => s) t) := by
    intro l t
    refine State.alike_foldl l (fun u x hu => State.alike_trans hu ?_) (State.alike_refl t)
    split
    · exact State.alike_of_doors rfl
    · exact State.alike_refl _
  unfold State.latchColumn State.latchAction
  dsimp only
  split
  · exact State.alike_refl s
  · rw [ht]
    simp only [Bool.false_eq_true, if_false]
    refine State.alike_trans (State.alike_set (d := doorOf c) rfl ?_) (hf _ _)
    split
    · generalize hy : (if 2 ≤ (reflexAction s.cfg row c).strength then
          stepTorqueRemoved (s.doorEnv (doorOf c)) { dw := s.doors[doorOf c], fx := [] } else { dw := s.doors[doorOf c], fx := [] } : Work) = y
      have hx : (s.doors[doorOf c]).alike y.dw := by
        rw [← hy]; split
        · exact stepTorqueRemoved_alike (s.doorEnv (doorOf c)) ⟨s.doors[doorOf c], []⟩
        · exact Doorway.alike_refl _
      exact Doorway.alike_trans hx ⟨rfl, rfl, rfl, rfl, rfl, rfl⟩
    · exact ⟨rfl, rfl, rfl, rfl, rfl, rfl⟩

/-- What a trip row leaves of a doorway's obstacle part: the trip waits, and its source is recorded (R257, Table 6.8). -/
structure Obstacle.TripOf (row : RowIx) (criterion : Nat) (a b : Obstacle) : Prop where
  pending : b.pending = some (a.pending.getD { source := row.val, fromSeal := false })
  source  : b.lastTripSource = row.val + 64 * criterion
  fast    : b.seFast = a.seFast
  effort  : b.lastEffort = a.lastEffort ∧ b.lastLimit = a.lastLimit
  energy  : b.sigEnergy = a.sigEnergy
  counted : b.counters.seTrips = (if row.val < 16 then satInc 32 a.counters.seTrips else a.counters.seTrips)
    ∧ b.counters.envTrips = (if 16 ≤ row.val ∧ row.val < 32 then satInc 32 a.counters.envTrips else a.counters.envTrips)
    ∧ b.counters.sigTrips = (if 32 ≤ row.val then satInc 16 a.counters.sigTrips else a.counters.sigTrips)

theorem takeLatchTrip_is (e : DoorEnv) (row : RowIx) (n : Nat) (w : Work) :
    w.dw.obst.TripOf row n (takeLatchTrip e row n w).dw.obst := by
  unfold takeLatchTrip
  dsimp only
  split
  · rename_i h; exact ⟨rfl, rfl, rfl, ⟨rfl, rfl⟩, rfl, (if_pos h).symm, (if_neg (by omega)).symm, (if_neg (by omega)).symm⟩
  · rename_i h
    split
    · exact ⟨rfl, rfl, rfl, ⟨rfl, rfl⟩, rfl, (if_neg h).symm, (if_pos (by omega)).symm, (if_neg (by omega)).symm⟩
    · exact ⟨rfl, rfl, rfl, ⟨rfl, rfl⟩, rfl, (if_neg h).symm, (if_neg (by omega)).symm, (if_pos (by omega)).symm⟩

theorem State.latchColumn_own (s : State) (row : RowIx) (n : Nat) (c : DriveIx)
    (ht : (!isStep c && tripRow row (doorOf c)) = true) (ha : reflexAction s.cfg row c ≠ .none) (hf : s.cfg.driveFitted c = true)
    (hp : s.power.on (leafDomain (doorOf c)) = true) (ho : s.quince.oscillator = true) :
    (s.doors[doorOf c]).obst.TripOf row n ((s.latchColumn row n c).doors[doorOf c]).obst := by
  have hfx : ∀ (l : List DoorFx) (t : State), t.alike (l.foldl (fun s x => match x with
      | .event k p => s.event k p
      | _ => s) t) := by
    intro l t
    refine State.alike_foldl l (fun u x hu => State.alike_trans hu ?_) (State.alike_refl t)
    split
    · exact State.alike_of_doors rfl
    · exact State.alike_refl _
  have hs : isStep c = false := by
    cases h : isStep c
    · rfl
    · rw [h] at ht; simp at ht
  unfold State.latchColumn State.latchAction
  dsimp only
  rw [if_neg (by simp [ha, hf, hp, ho]), ht, hs]
  simp only [Bool.false_eq_true, if_false, if_true]
  have key : ∀ (w : Doorway) (u v : State), u.doors[doorOf c] = w → u.alike v → (s.doors[doorOf c]).obst.TripOf row n w.obst →
      (s.doors[doorOf c]).obst.TripOf row n ((v.incident 1 false (some (doorOf c)) (some c) false false).doors[doorOf c]).obst := by
    intro w u v hu hv hw
    have h1 := State.alike_trans hv (State.incident_alike v 1 false (some (doorOf c)) (some c) false false) (doorOf c)
    rw [h1.obst, hu]; exact hw
  have hset : ∀ (x : Doorway) (q : Quince), ({ s with doors := s.doors.set (doorOf c) x, quince := q } : State).doors[doorOf c] = x :=
    fun x q => by simp
  have hrow : ∀ x : Work, x.dw.obst = (s.doors[doorOf c]).obst →
      (s.doors[doorOf c]).obst.TripOf row n (takeLatchTrip (s.doorEnv (doorOf c)) row n x).dw.obst :=
    fun x hx => hx ▸ takeLatchTrip_is _ row n x
  exact key _ _ _ (hset _ _) (hfx _ _) (hrow _ rfl)

theorem drives_split : ∀ d : DoorIx, drives = drives.take (2 * d.val) ++ doorDrive d :: drives.drop (2 * d.val + 1)
    ∧ doorDrive d ∉ drives.take (2 * d.val) ∧ doorDrive d ∉ drives.drop (2 * d.val + 1) := by decide

/-- The trip rows of a doorway (Table 6.6). -/
def ownRow (d : DoorIx) (row : RowIx) : Prop :=
  row.val = 2 * d.val ∨ row.val = 2 * d.val + 1 ∨ row.val = 16 + 2 * d.val ∨ row.val = 17 + 2 * d.val ∨ row.val = 32 + d.val

theorem tripRow_own {d : DoorIx} {row : RowIx} (h : ownRow d row) (x : DoorIx) : tripRow row x = decide (x = d) := by
  unfold ownRow at h
  unfold tripRow
  have h1 := d.isLt
  have h2 := x.isLt
  rw [Bool.eq_iff_iff]
  simp only [Bool.or_eq_true, Bool.and_eq_true, decide_eq_true_eq, beq_iff_eq, Fin.ext_iff]
  omega

theorem tripRow_other {d : DoorIx} {row : RowIx} (h : ownRow d row) {c : DriveIx} (hc : c ≠ doorDrive d) :
    (!isStep c && tripRow row (doorOf c)) = false := by
  rw [tripRow_own h]
  have : isStep c = true ∨ doorOf c ≠ d := by
    by_cases hs : isStep c = true
    · exact .inl hs
    · right
      intro hd; apply hc
      subst hd
      apply Fin.ext
      show c.val = 2 * (c.val / 2)
      have h3 : c.val % 2 ≠ 1 := by simpa [isStep] using hs
      omega
  rcases this with h1 | h1 <;> simp [h1]

theorem State.latchRow_others {d : DoorIx} {row : RowIx} (h : ownRow d row) (n : Nat) (s : State) (l : List DriveIx) (hl : doorDrive d ∉ l) :
    s.alike (l.foldl (fun s c => s.latchColumn row n c) s) := by
  induction l generalizing s with
  | nil => exact State.alike_refl s
  | cons c l ih =>
    have h1 : c ≠ doorDrive d := fun hx => hl (hx ▸ List.mem_cons_self)
    exact State.alike_trans (s.latchColumn_other row n c (tripRow_other h h1)) (ih _ (fun hx => hl (List.mem_cons_of_mem _ hx)))

theorem doorDrive_of : ∀ d : DoorIx, doorOf (doorDrive d) = d ∧ isStep (doorDrive d) = false ∧ doorOf (stepDrive d) = d
    ∧ isStep (stepDrive d) = true := by decide

/-- A trip row of a fitted doorway whose leaf engine is powered: its trip waits. -/
theorem State.latchRow_trip (s : State) {d : DoorIx} {row : RowIx} (h : ownRow d row) (n : Nat)
    (ha : reflexAction s.cfg row (doorDrive d) ≠ .none) (hf : s.cfg.isFitted d = true) (hp : s.power.on (leafDomain d) = true)
    (ho : s.quince.oscillator = true) : (s.doors[d]).obst.TripOf row n ((s.latchRow row n drives).doors[d]).obst := by
  obtain ⟨h1, h2, h3⟩ := drives_split d
  obtain ⟨d1, d2, -, -⟩ := doorDrive_of d
  have ht : (!isStep (doorDrive d) && tripRow row (doorOf (doorDrive d))) = true := by rw [d1, d2, tripRow_own h]; simp
  have hk : Keeps [.doors, .quince, .fcp, .log] s ((drives.take (2 * d.val)).foldl (fun s c => s.latchColumn row n c) s) :=
    State.latchRow_keeps (Within.refl _) (Keeps.refl _ s) row n _
  have hq : ((drives.take (2 * d.val)).foldl (fun s c => s.latchColumn row n c) s).quince.oscillator = s.quince.oscillator :=
    (State.latchRow_rests s row n (drives.take (2 * d.val))).clock.1
  have hd : doorDrive d ∈ drives := by rw [h1]; simp
  have hfit : s.cfg.driveFitted (doorDrive d) = true := by unfold Cfg.driveFitted; rw [d1, d2, hf]; rfl
  unfold State.latchRow
  rw [h1, List.foldl_append, List.foldl_cons]
  have ha1 := State.latchRow_others h n s _ h2
  generalize hv : (drives.take (2 * d.val)).foldl (fun s c => s.latchColumn row n c) s = v at *
  have hc : v.cfg = s.cfg := congrArg ConfigStore.cfg (hk.only .config (by decide))
  have hpw : v.power = s.power := hk.only .power (by decide)
  have hcol := State.latchColumn_own v row n (doorDrive d) ht (by rw [hc]; exact ha) (by rw [hc]; exact hfit)
    (by rw [hpw, d1]; exact hp) (by rw [hq]; exact ho)
  have hb := State.latchRow_others h n (v.latchColumn row n (doorDrive d)) _ h3 d
  rw [hb.obst]
  have h4 : ∀ x : DoorIx, x = d → (v.doors[x]).obst.TripOf row n ((v.latchColumn row n (doorDrive d)).doors[x]).obst →
      (s.doors[d]).obst.TripOf row n ((v.latchColumn row n (doorDrive d)).doors[d]).obst := by
    intro x hx; subst hx; rw [(ha1 x).obst]; exact id
  exact h4 _ d1 hcol

theorem State.fresh_alike (s : State) : s.alike s.fresh := State.alike_of_doors rfl

/-! ## The trip that the state machine takes -/

/-- At a tick a waiting trip is taken before the triggers of Table 1.6, and the edges that wait are ignored (R32, R259). -/
theorem tick_trip {e : DoorEnv} {w : Work} {t : Trip} (ht : w.dw.obst.pending = some t)
    (h : ({ w.dw with obst := { w.dw.obst with pending := none } } : Doorway).Calm e) (f : Work → Work) :
    doorTickWith e f w
      = seeLevels e (dropEdges (takeTrip e t (solenoidCheck e (w.obst (fun q => { q with pending := none }))))) := by
  have hc : (w.obst (fun q => { q with pending := none })).dw.Calm e := h
  have hv := hc.checked
  have hm : tickMarks e w = solenoidCheck e (w.obst (fun q => { q with pending := none })) := by
    unfold tickMarks
    generalize hu : w.obst (fun q => { q with pending := none }) = u at hc
    have hp : permitCheck e u = u := by
      unfold permitCheck
      have : (u.dw.step.job == StepJob.deploying) = false := by simp [hc.notDeploying]
      simp [this]
    have hl : lockTiming e u = u := by
      unfold lockTiming
      have : (u.dw.door.push == LockPush.relaxing) = false := by simp [hc.notRelaxing]
      simp [this]
    rw [hp, hl]
  have hpre : tickPre e w = solenoidCheck e (w.obst (fun q => { q with pending := none })) := by
    unfold tickPre; rw [hm, hv.forgets]
  have hl : ∀ u : Work, u.dw.Calm e → laterRanks e f (some t) u = dropEdges (takeTrip e t u) := by
    intro u hu
    unfold laterRanks
    simp [hu.sound, hu.notEntering, hu.own]
  rw [tick_awake (w := w) ⟨hc.fitted, hc.settled, hc.running, hc.valid⟩, hpre, hv.noRank, ht]
  dsimp only
  rw [hl _ hv]

theorem doorContext_firm (e : DoorEnv) (role skip : Nat) (w : Work) : w.Firm (doorContext e role skip w) := by
  unfold doorContext
  dsimp only
  split
  · exact Work.Firm.refl w
  · rename_i n x _
    have h := strokeStarts_firm e (w.dw.door.gen.state != .moving) false
      (w.door (fun q => { q with gen := q.gen.startContext (doorEnvOf e w.dw) n x skip none false }))
    exact ⟨h.fault, h.push, h.pend⟩

/-- What a reflex stop or the reopen after it leaves of a doorway that reopens or is obstructed (R261 to R263): its state and
cause, and no trip that waits; the phase where the motion goes on. -/
structure Work.Reopens (w v : Work) : Prop where
  state : v.dw.sm.state = w.dw.sm.state
  cause : v.dw.sm.cause = w.dw.sm.cause
  pend  : v.dw.obst.pending = w.dw.obst.pending

theorem Work.Reopens.of_sm {u w v : Work} (h : u.Reopens w) (hs : v.dw.sm = w.dw.sm) (hp : v.dw.obst.pending = w.dw.obst.pending) :
    u.Reopens v := ⟨by rw [hs]; exact h.state, by rw [hs]; exact h.cause, hp.trans h.pend⟩

theorem Work.Reopens.refl (w : Work) : w.Reopens w := ⟨rfl, rfl, rfl⟩

theorem enterDwell_reopens {e : DoorEnv} {u w : Work} (h : u.Reopens w) : u.Reopens (enterDwell e w) := by
  unfold enterDwell
  split
  · rename_i hs
    have h1 := enter_is e .reopening .reopenDwell none w
    have h2 := h.state
    have h3 := h.cause
    exact ⟨h1.state.trans (hs.symm.trans h2), h1.cause.trans h3, by rw [enter_obst]; exact h.pend⟩
  · exact h

theorem reopenMotion_reopens {e : DoorEnv} {u w : Work} (h : u.Reopens w) : u.Reopens (reopenMotion e w) := by
  unfold reopenMotion
  dsimp only
  generalize hx : w.door _ = x
  have h0 : u.Reopens x := by rw [← hx]; exact h.of_sm rfl rfl
  have hm : ∀ t s b, u.Reopens (doorMove e t s b x) := fun t s b => h0.of_sm (doorMove_sm _ _ _ _ _) (doorMove_firm e t s b x).pend
  have hd : ∀ y : Work, u.Reopens y → u.Reopens (enterDwell e (doorHold e y)) := fun y hy =>
    enterDwell_reopens (hy.of_sm (doorHold_sm _ _) (by rw [doorHold_obst]))
  split
  · have h1 := hd (x.obstFlags (fun f => { f with reopenBlocked := true, reopenHeld := true })) (h0.of_sm rfl rfl)
    exact h1.of_sm rfl rfl
  · split
    · split
      · exact hm _ _ _
      · exact h0.of_sm (doorContext_sm _ _ _ _) (doorContext_firm e 2 0 x).pend
    · split
      · exact hd _ h0
      · exact hm _ _ _

theorem reflexStopStart_reopens {e : DoorEnv} {u w : Work} (h : u.Reopens w)
    (hs : w.dw.sm.state = .reopening ∧ w.dw.sm.phase = .reopenMove ∨ w.dw.sm.state = .obstructed) :
    u.Reopens (reflexStopStart e w) ∧ (w.dw.door.gen.braked = true ∨ w.dw.door.gen.state = .moving →
      (reflexStopStart e w).dw.sm = w.dw.sm) := by
  unfold reflexStopStart
  dsimp only
  generalize hx : w.obstFlags _ = x
  have h0 : u.Reopens x := by rw [← hx]; exact h.of_sm rfl rfl
  have hxs : x.dw.sm = w.dw.sm := by rw [← hx]; rfl
  have hxd : x.dw.door = w.dw.door := by rw [← hx]; rfl
  rw [← hxs] at hs ⊢
  rw [← hxd]
  split
  · exact ⟨h0.of_sm rfl rfl, fun _ => rfl⟩
  · rename_i hb
    split
    · exact ⟨h0.of_sm rfl rfl, fun _ => rfl⟩
    · rename_i hm
      refine ⟨?_, fun hc => (hc.elim hb hm).elim⟩
      unfold afterReflexStop
      dsimp only
      generalize hy : x.obstFlags _ = y
      have h1 : u.Reopens y := by rw [← hy]; exact h0.of_sm rfl rfl
      have hys : y.dw.sm = x.dw.sm := by rw [← hy]; rfl
      rw [hys]
      rcases hs with ⟨h2, h3⟩ | h2
      · rw [h2, h3]
        dsimp only
        split
        · exact enterDwell_reopens (h1.of_sm (doorHold_sm _ _) (by rw [doorHold_obst]))
        · exact reopenMotion_reopens h1
      · rw [h2]
        exact reopenMotion_reopens h1

/-- A trip in CLOSING phase MOVE reopens the doorway below OBSTACLE_LIMIT and obstructs it at it (R266 to R268). -/
theorem takeTrip_closing (e : DoorEnv) (t : Trip) {w : Work} (hs : w.dw.sm.state = .closing) (hph : w.dw.sm.phase = .move)
    (hp : w.dw.obst.pending = none) :
    (takeTrip e t w).dw.sm.state = (if w.dw.sm.obstacles + 1 < e.cfg.obstacleLimit e.d then .reopening else .obstructed)
    ∧ (takeTrip e t w).dw.sm.cause = .obstacleClosing ∧ (takeTrip e t w).dw.obst.pending = none
    ∧ (w.dw.sm.obstacles + 1 < e.cfg.obstacleLimit e.d → w.dw.door.gen.braked = true ∨ w.dw.door.gen.state = .moving →
        (takeTrip e t w).dw.sm.phase = .reopenMove) := by
  have key : ∀ v : Work, v.dw.sm = { w.dw.sm with counters := v.dw.sm.counters } → v.dw.door = w.dw.door →
      v.dw.obst.pending = none →
      (tripClosing e v).dw.sm.state = (if w.dw.sm.obstacles + 1 < e.cfg.obstacleLimit e.d then .reopening else .obstructed)
      ∧ (tripClosing e v).dw.sm.cause = .obstacleClosing ∧ (tripClosing e v).dw.obst.pending = none
      ∧ (w.dw.sm.obstacles + 1 < e.cfg.obstacleLimit e.d → w.dw.door.gen.braked = true ∨ w.dw.door.gen.state = .moving →
          (tripClosing e v).dw.sm.phase = .reopenMove) := by
    intro v hv hd hp
    have ho : v.dw.sm.obstacles = w.dw.sm.obstacles := by rw [hv]
    have hst : v.dw.sm.state = .closing := by rw [hv]; exact hs
    generalize hx : v.sm (fun m => { m with obstacles := w.dw.sm.obstacles + 1 }) = x
    have hxo : (tripEvent e x).dw.obst.pending = none := by rw [tripEvent_obst, ← hx]; exact hp
    have hxd : (tripEvent e x).dw.door = w.dw.door := by rw [tripEvent_door, ← hx]; exact hd
    have hxf : (tripEvent e x).dw.sm.state ≠ .fault := by
      rw [tripEvent_sm, ← hx]; intro hc; exact absurd (hst.symm.trans hc) (by decide)
    unfold tripClosing
    dsimp only
    rw [ho, hx]
    split
    · rename_i hn
      have h1 := enter_is e .reopening .reopenMove (some .obstacleClosing) (tripEvent e x)
      obtain ⟨h2, h3⟩ := reflexStopStart_reopens (e := e) (Work.Reopens.refl _) (.inl ⟨h1.state, h1.phase⟩)
      refine ⟨h2.state.trans h1.state, h2.cause.trans h1.cause, h2.pend.trans (by rw [enter_obst]; exact hxo), fun _ hm => ?_⟩
      rw [h3 (by rw [(enter_drives e _ _ _ _ (.inr hxf)).1, hxd]; exact hm)]
      exact h1.phase
    · rename_i hn
      have h1 := enter_is e .obstructed .none (some .obstacleClosing) (tripEvent e x)
      have hxo2 : (enter e .obstructed .none (some .obstacleClosing) (tripEvent e x)).dw.obst.pending = none := by
        rw [enter_obst]; exact hxo
      generalize enter e .obstructed .none (some .obstacleClosing) (tripEvent e x) = y at h1 hxo2 ⊢
      generalize hz : (y.obst (fun q => { q with counters := { q.counters with obstructions := satInc 16 q.counters.obstructions } })).obstEvent
        e 0xE602 0 (e.cfg.obstacleLimit e.d) 0 = z
      have hzs : z.dw.sm = y.dw.sm := by rw [← hz]; rfl
      have hzp : z.dw.obst.pending = none := by rw [← hz]; exact hxo2
      obtain ⟨h2, -⟩ := reflexStopStart_reopens (e := e) (Work.Reopens.refl z) (.inr (by rw [hzs]; exact h1.state))
      exact ⟨h2.state.trans (by rw [hzs]; exact h1.state), h2.cause.trans (by rw [hzs]; exact h1.cause), h2.pend.trans hzp,
        fun hc => absurd hc hn⟩
  unfold takeTrip
  dsimp only
  generalize hx : (((w.count (fun c => { c with obstacles := satInc 32 c.obstacles })).cyc
    (fun c => { c with obstacles := satInc 8 c.obstacles })).obstFlags (fun f => { f with disturbed := true })) = x
  have a1 : x.dw.sm = { w.dw.sm with counters := x.dw.sm.counters } := by rw [← hx]; rfl
  have a2 : x.dw.door = w.dw.door := by rw [← hx]; rfl
  have a3 : x.dw.obst.pending = none := by rw [← hx]; exact hp
  have a4 : x.dw.sm.state = .closing := by rw [a1]; exact hs
  have a5 : x.dw.sm.phase = .move := by rw [a1]; exact hph
  rw [if_neg (show ¬ x.dw.sm.state = .maint by rw [a4]; decide)]
  cases hf : t.fromSeal
  · simp only [Bool.false_eq_true, if_false]
    rw [a4, a5]
    exact key x a1 a2 a3
  · simp only [if_true]
    rw [show (x.emit (.incident 1 false)).dw.sm = x.dw.sm from rfl, a4, a5]
    exact key _ a1 a2 a3

end Sys2Proof.Machine
end

