-- ==== Sys2Proof/Laws/StepMotions.lean ====
section
/-!
SUPPORT. What the step drive's occurrences make of a doorway that is calm but for them (chapter 5).
-/

namespace Sys2Proof.Machine

theorem Doorway.Still.calm {e : DoorEnv} {w v : Doorway} (h : w.Still e) (h1 : v.sm = w.sm) (h2 : v.inp = w.inp)
    (h3 : v.door.faultCode = w.door.faultCode) (h4 : v.step.faultCode = w.step.faultCode) (h5 : v.obst.pending = w.obst.pending)
    (h6 : v.door.push = w.door.push) (h7 : v.step.job ≠ .deploying)
    (h8 : w.step.flags.standing = false → v.step.flags.standing = false) : v.Calm e := by
  have hk : (v.Still e) := Doorway.Calm.of_parts (w := { w with step := { w.step with job := .none, flags := { w.step.flags with standing := v.step.flags.standing } } })
    (by
      have hs : v.step.flags.standing = w.step.flags.standing := by
        have := h.notStanding
        have h9 : w.step.flags.standing = false := this
        rw [h9, h8 h9]
      rw [hs]; exact h) h1 h2 h3 h4 h5 h6 rfl rfl
  obtain ⟨a1, a2, a3, a4, a5, a6, a7, a8, a9, b1, b2, b3, b4, b5, b6, b7⟩ := hk
  exact ⟨a1, a2, a3, a4, a5, a6, a7, a8, a9, b1, b2, b3, b4, b5, h7, b7⟩

theorem quiet_unchecked {st : DoorState} {ph : Phase} (h : quiet st ph = true) : st ≠ .maint ∧ st ≠ .unlocking ∧ st ≠ .opening := by
  refine ⟨?_, ?_, ?_⟩ <;> (intro hs; rw [hs] at h; cases ph <;> exact absurd h (by decide))

/-- A calm doorway without a job that a level row ends stays as it is at a tick on a quiet course. -/
theorem tick_rest {e : DoorEnv} {w : Work} {st ph c} (h : w.dw.Calm e) (hs : w.At st ph c) (hq : quiet st ph = true)
    (hj : w.dw.step.job ≠ .awaitSds) : doorTick e w = seeLevels e w := by
  have h1 := tick_quiet_eq h (hs.unchecked e (quiet_unchecked hq)) (f := id) (w := w) hs hq
  unfold doorTick
  rw [h1]
  have : checkDeployed e w = w := by
    unfold checkDeployed
    have : (w.dw.step.job == StepJob.awaitSds) = false := by simpa using hj
    rw [this]; rfl
  exact congrArg (seeLevels e) this

/-- The same in OPENING while the open context runs. -/
theorem tick_opening {e : DoorEnv} {w : Work} {ph c} (h : w.dw.Calm e) (hs : w.At .opening ph c)
    (ho : w.dw.sm.flags.openComplete = false) : doorTick e w = seeLevels e (checkDeployed e (solenoidCheck e w)) := by
  have hv := hs.checked e
  have hvo : (solenoidCheck e w).dw.sm.flags.openComplete = false := by
    obtain ⟨b, hb⟩ := solenoidCheck_dw e w
    rw [hb]; exact ho
  unfold doorTick
  rw [tick_checked h, id]
  generalize solenoidCheck e w = v at hv hvo ⊢
  have h2 := hv.of_sm (checkDeployed_sm e v)
  have hco := h2.course (by decide)
  have hl : levelRows e v = checkDeployed e v := by
    unfold levelRows
    dsimp only
    rw [hco]
    dsimp only
    unfold tryOpened
    rw [checkDeployed_sm, hvo]
    simp
  rw [hl, takeEdges_quiet]
  rw [checkDeployed_sm]; exact hv.edges

/-- SDS with the deployed step does not ask where the state machine stands (R213). -/
theorem checkDeployed_checked (e : DoorEnv) (w : Work) :
    (checkDeployed e (solenoidCheck e w)).dw.step = (checkDeployed e w).dw.step := by
  obtain ⟨b, hb⟩ := solenoidCheck_dw e w
  rw [hb]
  have key : ∀ (c : Bool) (a b p q : Work), a.dw.step = p.dw.step → b.dw.step = q.dw.step →
      (if c = true then a else b).dw.step = (if c = true then p else q).dw.step := by
    intro c a b p q h1 h2; cases c
    · exact h2
    · exact h1
  exact key _ _ _ _ _ rfl rfl

theorem checkDeployed_not {e : DoorEnv} {w : Work} (h : (w.dw.step.job == .awaitSds && w.dw.sds) = false) : checkDeployed e w = w := by
  unfold checkDeployed
  rw [h]; rfl

/-- The path's end leaves the register at the target, and no fault code or standing mark changes. -/
theorem stepCompletes_parts (e : DoorEnv) (w : Work) :
    (stepCompletes e w).dw.step.position = w.dw.step.gen.target ∧ (stepCompletes e w).dw.step.gen.target = w.dw.step.gen.target
      ∧ (stepCompletes e w).dw.step.faultCode = w.dw.step.faultCode
      ∧ (stepCompletes e w).dw.step.flags.standing = w.dw.step.flags.standing := by
  have ht : (Gen.complete w.dw.step.gen).target = w.dw.step.gen.target := by unfold Gen.complete; split <;> rfl
  unfold stepCompletes
  dsimp only
  split
  · unfold stepLose
    dsimp only
    split <;> exact ⟨rfl, ht, rfl, rfl⟩
  · exact ⟨rfl, ht, rfl, rfl⟩

/-- The DEPLOY context completes in OPENING (R213). -/
theorem onDeployComplete_is {e : DoorEnv} {w : Work} {ph c} (h : w.dw.Still e) (hs : w.At .opening ph c)
    (ho : w.dw.sm.flags.openComplete = false) (hj : w.dw.step.job = .deploying) :
    (onDeployComplete e w).dw.step.position = w.dw.step.gen.target
      ∧ (w.dw.sds = true → (onDeployComplete e w).dw.step.job = .none ∧ (onDeployComplete e w).dw.step.flags.deployed = true)
      ∧ (w.dw.sds = false → (onDeployComplete e w).dw.step.job = .awaitSds) := by
  unfold onDeployComplete
  rw [if_pos hj]
  unfold deployCompletes
  obtain ⟨c1, c2, c3, c4⟩ := stepCompletes_parts e w
  generalize hv : (Work.step (stepCompletes e w) fun q => _ : Work) = v
  have hpos : v.dw.step.position = w.dw.step.gen.target := by rw [← hv]; exact c1
  have htg : v.dw.step.gen.target = w.dw.step.gen.target := by rw [← hv]; exact c2
  have hjv : v.dw.step.job = .awaitSds := by rw [← hv]; rfl
  have hin : v.dw.inp = w.dw.inp := by rw [← hv]; exact stepCompletes_inp e w
  have hsv : v.dw.sds = w.dw.sds := by unfold Doorway.sds Doorway.input; rw [hin]
  have hsm : v.dw.sm = w.dw.sm := by rw [← hv]; exact stepCompletes_sm e w
  have hdo : v.dw.door = w.dw.door := by rw [← hv]; exact stepCompletes_door e w
  have hob : v.dw.obst = w.dw.obst := by rw [← hv]; exact stepCompletes_obst e w
  have hcv : (checkDeployed e v).dw.Calm e := by
    have hx : ∀ u : Work, u.dw.sm = v.dw.sm → u.dw.inp = v.dw.inp → u.dw.door = v.dw.door → u.dw.obst = v.dw.obst →
        u.dw.step.faultCode = v.dw.step.faultCode → u.dw.step.job ≠ .deploying → u.dw.step.flags.standing = v.dw.step.flags.standing → u.dw.Calm e := by
      intro u a1 a2 a3 a4 a5 a6 a7
      refine h.calm (a1.trans hsm) (a2.trans hin) (by rw [a3, hdo]) (a5.trans (by rw [← hv]; exact c3)) (by rw [a4, hob])
        (by rw [a3, hdo]) a6 (fun hst => ?_)
      rw [a7, ← hv]; exact c4.trans hst
    unfold checkDeployed
    split
    · exact hx _ rfl rfl rfl rfl rfl (by simp [Work.step]) rfl
    · exact hx _ rfl rfl rfl rfl rfl (by rw [hjv]; decide) rfl
  have hsm2 : (checkDeployed e v).dw.sm = w.dw.sm := (checkDeployed_sm e v).trans hsm
  rw [tick_opening hcv (hs.of_sm hsm2) (by rw [hsm2]; exact ho)]
  have hwin : decide ((v.dw.step.position - v.dw.step.gen.target).natAbs ≤ e.cfg.deployWindow e.d) = true := by
    rw [hpos, htg]; simp
  show (checkDeployed e (solenoidCheck e (checkDeployed e v))).dw.step.position = _
    ∧ (_ → (checkDeployed e (solenoidCheck e (checkDeployed e v))).dw.step.job = _
    ∧ (checkDeployed e (solenoidCheck e (checkDeployed e v))).dw.step.flags.deployed = _)
    ∧ (_ → (checkDeployed e (solenoidCheck e (checkDeployed e v))).dw.step.job = _)
  rw [checkDeployed_checked]
  cases hq : w.dw.sds
  · have h1 : checkDeployed e v = v := checkDeployed_not (by rw [hsv, hq]; simp)
    rw [h1, h1]
    exact ⟨hpos, (fun h => nomatch h), fun _ => hjv⟩
  · have h1 : checkDeployed e v = v.step (fun q => { q with job := .none, demandFails := 0, flags := { q.flags with deployed := true } }) := by
      unfold checkDeployed
      rw [hjv, hsv, hq, hwin]; rfl
    rw [h1, checkDeployed_not rfl]
    exact ⟨hpos, fun _ => ⟨rfl, rfl⟩, fun h => nomatch h⟩

theorem stepContext_parts (e : DoorEnv) (role : Nat) (homing : Bool) (job : StepJob) (w : Work) :
    (stepContext e role homing job w).dw.step.faultCode = w.dw.step.faultCode
      ∧ ((stepContext e role homing job w).dw.step.job = job ∨ (stepContext e role homing job w).dw.step.job = w.dw.step.job)
      ∧ (w.dw.step.flags.standing = false → (stepContext e role homing job w).dw.step.flags.standing = false)
      ∧ (stepContext e role homing job w).dw.step.demandFails = w.dw.step.demandFails := by
  unfold stepContext
  dsimp only
  split
  · exact ⟨rfl, .inr rfl, fun h => h, rfl⟩
  · split
    · exact ⟨rfl, .inr rfl, fun h => h, rfl⟩
    · exact ⟨rfl, .inl rfl, fun _ => rfl, rfl⟩

/-- SDS does not come, for the first time in a demand (R214). -/
theorem onSdsTimeout_first {e : DoorEnv} {w : Work} {ph c} (h : w.dw.Still e) (hs : w.At .opening ph c)
    (ho : w.dw.sm.flags.openComplete = false) (hj : w.dw.step.job = .awaitSds) (hq : w.dw.sds = false) (hf : w.dw.step.demandFails = 0)
    (hl : w.dw.step.flags.lost = false) (hp : e.cfg.homeStartPos e.d < w.dw.step.position) :
    (onSdsTimeout e w).dw.step.demandFails = 1 ∧ (onSdsTimeout e w).dw.step.thenDeploy = true ∧ (onSdsTimeout e w).dw.sm.state = .opening := by
  unfold onSdsTimeout deployFails
  rw [if_pos hj, if_pos hf]
  dsimp only
  simp only [Bool.false_eq_true, if_false]
  generalize hu : (w.step fun q => { q with demandFails := 1, gen := q.gen.discard }) = u
  have hsh : startHoming e u = stepContext e 1 false .approach u := by
    unfold startHoming
    rw [← hu]
    show (if w.dw.step.flags.lost = true then _ else if e.cfg.homeStartPos e.d < w.dw.step.position then _ else _) = _
    rw [if_neg (by rw [hl]; decide), if_pos hp]
  rw [hsh]
  obtain ⟨p1, p2, p3, p4⟩ := stepContext_parts e 1 false .approach u
  generalize hv : ((Work.step (stepContext e 1 false .approach u) _).cycleFlags _) = v
  have hsm : v.dw.sm = w.dw.sm := by rw [← hv, ← hu]; exact stepContext_sm _ _ _ _ _
  have hin : v.dw.inp = w.dw.inp := by rw [← hv, ← hu]; exact stepContext_inp _ _ _ _ _
  have hdo : v.dw.door = w.dw.door := by rw [← hv, ← hu]; exact stepContext_door _ _ _ _ _
  have hob : v.dw.obst = w.dw.obst := by rw [← hv, ← hu]; exact stepContext_obst _ _ _ _ _
  have hfc : v.dw.step.faultCode = w.dw.step.faultCode := by rw [← hv]; exact p1.trans (by rw [← hu]; rfl)
  have hjb : v.dw.step.job = .approach ∨ v.dw.step.job = .awaitSds := by
    rw [← hv]; rcases p2 with p | p
    · exact .inl p
    · exact .inr (p.trans (by rw [← hu]; exact hj))
  have hcv : v.dw.Calm e := h.calm hsm hin (by rw [hdo]) hfc (by rw [hob]) (by rw [hdo]) (by rcases hjb with h | h <;> rw [h] <;> decide)
    (fun hst => by rw [← hv]; exact p3 (by rw [← hu]; exact hst))
  have hsd : v.dw.sds = false := by
    have : v.dw.sds = w.dw.sds := by unfold Doorway.sds Doorway.input; rw [hin]
    rw [this]; exact hq
  rw [tick_opening hcv (hs.of_sm hsm) (by rw [hsm]; exact ho)]
  have hx := checkDeployed_checked e v
  rw [checkDeployed_not (w := v) (by rw [hsd]; simp)] at hx
  refine ⟨?_, ?_, ?_⟩
  · show (checkDeployed e (solenoidCheck e v)).dw.step.demandFails = 1
    rw [hx, ← hv]; exact p4.trans (by rw [← hu]; rfl)
  · show (checkDeployed e (solenoidCheck e v)).dw.step.thenDeploy = true
    rw [hx, ← hv]; rfl
  · show (checkDeployed e (solenoidCheck e v)).dw.sm.state = _
    rw [checkDeployed_sm]; exact (((hs.of_sm hsm)).checked e).state

/-- After an action of the step drive that leaves no fault, on a quiet course. -/
theorem afterStep_rest {e : DoorEnv} {w : Work} {st ph c} (h : w.dw.Calm e) (hs : w.At st ph c) (hq : quiet st ph = true)
    (hj : w.dw.step.job ≠ .awaitSds) : afterStep e w = seeLevels e w := by
  have ht := tick_rest h hs hq hj
  have hf : w.dw.step.faultCode = 0 := by
    have := h.sound
    unfold rankFour driveFaultCause at this
    by_cases hz : w.dw.step.faultCode = 0
    · exact hz
    · exfalso
      by_cases h1 : w.dw.door.faultCode = 6 ∨ w.dw.door.faultCode = 7
      · simp [h1] at this
      · by_cases h2 : w.dw.door.faultCode = 0
        · simp [h2, hz] at this
        · simp [h1, h2] at this
  unfold afterStep
  rw [if_neg (fun hx => hx.1 hf)]
  have hm : w.dw.sm.state ≠ .maint ∧ w.dw.sm.state ≠ .isolated := ⟨h.own.2.2.2, h.own.2.1⟩
  split
  · unfold homingEnds
    split
    · rename_i h1 _; exact absurd h1 hm.2
    · rename_i h1 _; exact absurd h1 hm.2
    · rename_i h1 _; exact absurd h1 hm.1
    · exact ht
  · exact ht

/-- The park ends (R206). -/
theorem onParkComplete_is {e : DoorEnv} {w : Work} {st ph c} (h : w.dw.Still e) (hs : w.At st ph c) (hq : quiet st ph = true)
    (hj : w.dw.step.job = .parking) (ht : w.dw.step.thenDeploy = false) :
    (onParkComplete e w).dw.step.flags.homed = true ∧ (onParkComplete e w).dw.step.job = .none
      ∧ (onParkComplete e w).dw.step.position = w.dw.step.gen.target
      ∧ (onParkComplete e w).dw.step.counters.homings = satInc 32 w.dw.step.counters.homings := by
  unfold onParkComplete
  rw [if_pos hj]
  have hk : (finishPark e w).dw.step.flags.homed = true ∧ (finishPark e w).dw.step.job = .none
      ∧ (finishPark e w).dw.step.position = w.dw.step.gen.target
      ∧ (finishPark e w).dw.step.counters.homings = satInc 32 w.dw.step.counters.homings
      ∧ (finishPark e w).dw.step.faultCode = w.dw.step.faultCode ∧ (finishPark e w).dw.step.flags.standing = false := by
    unfold finishPark
    dsimp only
    rw [if_neg (by show ¬w.dw.step.thenDeploy = true; rw [ht]; decide)]
    exact ⟨rfl, rfl, rfl, rfl, rfl, rfl⟩
  have hcv : (finishPark e w).dw.Calm e := h.calm (finishPark_sm _ _) (finishPark_inp _ _) (by rw [finishPark_door]) hk.2.2.2.2.1
    (by rw [finishPark_obst]) (by rw [finishPark_door]) (by rw [hk.2.1]; decide) (fun _ => hk.2.2.2.2.2)
  rw [afterStep_rest hcv (hs.of_sm (finishPark_sm _ _)) hq (by rw [hk.2.1]; decide)]
  exact ⟨hk.1, hk.2.1, hk.2.2.1, hk.2.2.2.1⟩

/-- A confirmed stall in the homing phase (R199, R202). -/
theorem onStall_homing {e : DoorEnv} {w : Work} {st ph c} {onset : Int} (hmk : e.cfg.stallSteps e.d ≤ w.dw.step.load.marks)
    (hon : w.dw.step.load.onset = onset) (h : w.dw.Still e) (hs : w.At st ph c) (hq : quiet st ph = true)
    (hj : w.dw.step.job = .homing ∨ w.dw.step.job = .creepHoming) (hm : w.dw.step.gen.state = .moving)
    (hseen : (w.dw.step.run.chatter || w.dw.step.run.srsSeen || w.dw.srs) = true) :
    (onStallReport e onset w).dw.step.job = .parking ∧ (onStallReport e onset w).dw.step.position = 0
      ∧ (onStallReport e onset w).dw.step.lastShift = -onset := by
  have hmm : stallMarked e w.dw = true := by unfold stallMarked; rw [hm]; simpa using hmk
  have he : onStallReport e onset w
      = afterStep e (homingStall e onset (w.step (fun q => { q with load := { q.load with marks := 0, slipDue := false } }))) := by
    unfold onStallReport onStall stepStall
    rw [if_pos hon, hmm, hon]
    simp only [Bool.not_true, Bool.false_eq_true, if_false]
    have hjv : (w.step (fun q => { q with load := { q.load with marks := 0, slipDue := false } })).dw.step.job = w.dw.step.job := rfl
    have hsv : ((w.step (fun q => { q with load := { q.load with marks := 0, slipDue := false } })).dw.step.run.chatter
        || (w.step (fun q => { q with load := { q.load with marks := 0, slipDue := false } })).dw.step.run.srsSeen
        || (w.step (fun q => { q with load := { q.load with marks := 0, slipDue := false } })).dw.srs) = true := hseen
    rcases hj with hj | hj <;> simp only [hjv, hj, hsv, if_true, Bool.false_eq_true, if_false]
  rw [he]
  replace h : (w.step (fun q => { q with load := { q.load with marks := 0, slipDue := false } })).dw.Still e :=
    Doorway.Calm.of_parts h rfl rfl rfl rfl rfl rfl rfl rfl
  replace hs : (w.step (fun q => { q with load := { q.load with marks := 0, slipDue := false } })).At st ph c := hs.of_sm rfl
  clear he hmm hseen hm hj hon hmk
  generalize w.step (fun q => { q with load := { q.load with marks := 0, slipDue := false } }) = w at h hs
  have hk : (homingStall e onset w).dw.step.job = .parking ∧ (homingStall e onset w).dw.step.position = 0
      ∧ (homingStall e onset w).dw.step.lastShift = -onset ∧ (homingStall e onset w).dw.step.faultCode = w.dw.step.faultCode
      ∧ (homingStall e onset w).dw.step.flags.standing = w.dw.step.flags.standing := by
    have hp : ∀ v : Work, (startPark e v).dw.step.job = .parking ∧ (startPark e v).dw.step.position = v.dw.step.position
        ∧ (startPark e v).dw.step.lastShift = v.dw.step.lastShift ∧ (startPark e v).dw.step.faultCode = v.dw.step.faultCode
        ∧ (startPark e v).dw.step.flags.standing = v.dw.step.flags.standing := fun v => ⟨rfl, rfl, rfl, rfl, rfl⟩
    unfold homingStall
    dsimp only
    refine ⟨(hp _).1, (hp _).2.1.trans ?_, (hp _).2.2.1.trans ?_, (hp _).2.2.2.1.trans ?_, (hp _).2.2.2.2.trans ?_⟩
    all_goals
      split
      · split <;> rfl
      · rfl
  have hcv : (homingStall e onset w).dw.Calm e := h.calm (homingStall_sm _ _ _) (homingStall_inp _ _ _) (by rw [homingStall_door]) hk.2.2.2.1
    (by rw [homingStall_obst]) (by rw [homingStall_door]) (by rw [hk.1]; decide) (fun hst => hk.2.2.2.2.trans hst)
  rw [afterStep_rest hcv (hs.of_sm (homingStall_sm _ _ _)) hq (by rw [hk.1]; decide)]
  exact ⟨hk.1, hk.2.1, hk.2.2.1⟩

/-- The retry pause ends (R218). -/
theorem onRetryPauseEnd_is {e : DoorEnv} {w : Work} {st ph c} (h : w.dw.Still e) (hs : w.At st ph c) (hq : quiet st ph = true)
    (hj : w.dw.step.job = .retryPause) {n x} (hr : roleContext e (stepDrive e.d) w.dw.step.gen 3 = some (n, x)) (hx : x.relative = false) :
    (onRetryPauseEnd e w).dw.step.job = .creepHoming ∧ (onRetryPauseEnd e w).dw.step.run.startedAt = e.mono
      ∧ (onRetryPauseEnd e w).dw.step.flags.homed = false := by
  unfold onRetryPauseEnd
  rw [if_pos hj]
  have hk : (startHomingPhase e true w).dw.step.job = .creepHoming ∧ (startHomingPhase e true w).dw.step.run.startedAt = e.mono
      ∧ (startHomingPhase e true w).dw.step.flags.homed = false ∧ (startHomingPhase e true w).dw.step.faultCode = w.dw.step.faultCode
      ∧ (startHomingPhase e true w).dw.step.flags.standing = false ∧ (startHomingPhase e true w).dw.sm = w.dw.sm
      ∧ (startHomingPhase e true w).dw.inp = w.dw.inp ∧ (startHomingPhase e true w).dw.door = w.dw.door
      ∧ (startHomingPhase e true w).dw.obst = w.dw.obst := by
    unfold startHomingPhase
    dsimp only
    generalize hu : (w.step fun q => _ : Work) = u
    have hg : u.dw.step.gen = w.dw.step.gen := by rw [← hu]; rfl
    have hc : ∃ g, stepContext e 3 true .creepHoming u = stepStarts (u.step (fun q => { q with gen := g, job := .creepHoming })) := by
      unfold stepContext
      dsimp only
      rw [hg, hr]
      dsimp only
      have hn : w.dw.step.gen.refuses (stepEnvOf e u.dw true) x 0 true = false := by unfold Gen.refuses; rw [hx]; rfl
      rw [hn]
      exact ⟨_, rfl⟩
    obtain ⟨g, hc⟩ := hc
    simp only [if_true, hc]
    have hjj : (stepStarts (u.step (fun q => { q with gen := g, job := .creepHoming }))).dw.step.job = .creepHoming := rfl
    rw [if_pos hjj, ← hu]
    exact ⟨rfl, rfl, rfl, rfl, rfl, rfl, rfl, rfl, rfl⟩
  obtain ⟨k1, k2, k3, k4, k5, k6, k7, k8, k9⟩ := hk
  have hcv : (startHomingPhase e true w).dw.Calm e := h.calm k6 k7 (by rw [k8]) k4 (by rw [k9]) (by rw [k8]) (by rw [k1]; decide) (fun _ => k5)
  rw [afterStep_rest hcv (hs.of_sm k6) hq (by rw [k1]; decide)]
  exact ⟨k1, k2, k3⟩

/-- SDS breaks after deployment (R213). -/
theorem onSdsLost_is {e : DoorEnv} {w : Work} (hq : w.dw.inp.filtered.getLsbD 10 = true) (hd : w.dw.step.flags.deployed = true) :
    (onSdsLost e w).dw.step.flags.deployed = false ∧ (onSdsLost e w).dw.step.flags.sdsLost = true := by
  unfold onSdsLost setInput
  dsimp only
  have hf : (rawChange e 10 false w).dw.inp.filtered = w.dw.inp.filtered := rawChange_filtered e 10 false w
  have hst : (rawChange e 10 false w).dw.step = w.dw.step := by
    unfold rawChange; split
    · rfl
    · rfl
  generalize rawChange e 10 false w = v at hf hst
  have hne : ¬v.dw.inp.filtered.getLsbD 10 = false := by rw [hf, hq]; decide
  show (filteredChange e 10 false v).dw.step.flags.deployed = false ∧ (filteredChange e 10 false v).dw.step.flags.sdsLost = true
  unfold filteredChange
  rw [if_neg hne]
  dsimp only
  simp only [show ¬((10 : Nat) = 0 ∨ (10 : Nat) = 1) by decide, false_and, if_false]
  rw [if_neg (by decide), if_neg (by decide), if_neg (by decide), if_neg (by decide), if_neg (by decide), if_neg (by decide), if_pos trivial]
  have : (!false && v.dw.step.flags.deployed) = true := by rw [hst, hd]; rfl
  rw [if_pos this]
  exact ⟨rfl, rfl⟩

end Sys2Proof.Machine
end

