-- ==== Sys2Proof/Laws/DoorMotions.lean ====
section
/-!
SUPPORT. What the ends of the door drive's motions, a seal stall and a confirmed DCS edge make of a doorway (chapters 3, 4).
-/

namespace Sys2Proof.Machine

/-- The open context ends with the step deployed (R212, R662). -/
theorem doorPathEnds_opened {e : DoorEnv} {w : Work} {c} (h : w.dw.Calm e) (hs : w.At .opening .none c) (hm : w.dw.door.gen.state = .moving)
    (hk : w.dw.door.gen.stopping = false) (hp : w.dw.door.gen.path.isSome = true) (hd : stepDeployed e w.dw = true) :
    (doorPathEnds e w).At .opened .none c := by
  have hco := hs.course (by decide)
  have hg : (w.dw.door.gen.state != .moving || w.dw.door.gen.stopping || w.dw.door.gen.path.isNone) = false := by
    rw [hm, hk]
    cases hq : w.dw.door.gen.path
    · rw [hq] at hp; exact nomatch hp
    · rfl
  have he : doorPathEnds e w = doorTick e (((w.door (fun q => { q with gen := q.gen.complete })).smFlags
      (fun f => { f with openComplete := true, solenoidOff := true })).doorFlags (fun f => { f with openedOnce := true })) := by
    unfold doorPathEnds
    dsimp only
    have hco' : (w.door (fun q => { q with gen := q.gen.complete })).dw.course = (.opening, .none) := hco
    rw [hg, hco']
    rfl
  rw [he]
  generalize hv : (((w.door (fun q => { q with gen := q.gen.complete })).smFlags
      (fun f => { f with openComplete := true, solenoidOff := true })).doorFlags (fun f => { f with openedOnce := true })) = v
  have hcv : v.dw.Calm e := by
    obtain ⟨a1, a2, a3, a4, a5, a6, a7, a8, a9, b1, b2, b3, b4, b5, b6, b7⟩ := h
    rw [← hv]
    exact ⟨a1, a2, a3, a4, a5, a6, a7, a8, a9, b1, b2, b3, b4, b5, b6, b7⟩
  have hat : v.At .opening .none c := by rw [← hv]; exact ⟨hs.state, hs.phase, hs.cause, hs.edges⟩
  have hoc : v.dw.sm.flags.openComplete = true := by rw [← hv]; rfl
  have hdv : stepDeployed e v.dw = true := by rw [← hv]; exact hd
  refine tick_at hcv (f := id) ?_
  rw [solenoidCheck_already e (by rw [← hv]; rfl)]
  show (levelRows e v).At .opened .none c
  have h2 := hat.of_sm (checkDeployed_sm e v)
  have hco2 := h2.course (by decide)
  have hd2 : stepDeployed e (checkDeployed e v).dw = true := by
    unfold stepDeployed at *
    unfold checkDeployed
    split
    · simp [Work.step]
    · exact hdv
  unfold levelRows
  dsimp only
  rw [hco2]
  dsimp only
  unfold tryOpened
  rw [hco2, checkDeployed_sm, hoc, hd2]
  simp only [beq_self_eq_true, Bool.and_self, if_true]
  generalize hu : (checkDeployed e v).sm _ = u
  have hu1 : (adaptStroke e false u).At .opening .none c := by
    refine Work.At.of_sm (w := u) ?_ (adaptStroke_sm _ _ _)
    rw [← hu]; exact h2.sm rfl rfl rfl rfl
  have := goTo_at e .opened .none none (adaptStroke e false u) hu1.edges (by rw [hu1.state]; decide) (by decide) (by decide)
  rw [hu1.cause] at this
  exact this

theorem doorPathEnds_dwell {e : DoorEnv} {w : Work} {c} (hs : w.At .reopening .reopenMove c) (hm : w.dw.door.gen.state = .moving)
    (hk : w.dw.door.gen.stopping = false) (hp : w.dw.door.gen.path.isSome = true) : (doorPathEnds e w).At .reopening .reopenDwell c := by
  have hco : (w.door (fun q => { q with gen := q.gen.complete })).dw.course = (.reopening, .reopenMove) := hs.course (by decide)
  have hg : (w.dw.door.gen.state != .moving || w.dw.door.gen.stopping || w.dw.door.gen.path.isNone) = false := by
    rw [hm, hk]
    cases hq : w.dw.door.gen.path
    · rw [hq] at hp; exact nomatch hp
    · rfl
  unfold doorPathEnds
  dsimp only
  rw [hg, hco]
  simp only [Bool.false_eq_true, if_false]
  unfold enterDwell
  have hst : (w.door (fun q => { q with gen := q.gen.complete })).dw.sm.state = .reopening := hs.state
  rw [if_pos hst]
  have := enter_at e .reopening .reopenDwell none (w.door (fun q => { q with gen := q.gen.complete })) hs.edges (by decide) (by decide)
  have hc : (w.door (fun q => { q with gen := q.gen.complete })).dw.sm.cause = c := hs.cause
  rw [hc] at this
  exact this

theorem doorPathEnds_seal {e : DoorEnv} {w : Work} {c} (hs : w.At .closing .move c) (hm : w.dw.door.gen.state = .moving)
    (hk : w.dw.door.gen.stopping = false) (hp : w.dw.door.gen.path.isSome = true) (hq : w.dw.door.flags.suspect = true) :
    (doorPathEnds e w).At .closing .move c ∧ (doorPathEnds e w).dw.door.flags.sealSeek = true := by
  have hco : (w.door (fun q => { q with gen := q.gen.complete })).dw.course = (.closing, .move) := hs.course (by decide)
  have hg : (w.dw.door.gen.state != .moving || w.dw.door.gen.stopping || w.dw.door.gen.path.isNone) = false := by
    rw [hm, hk]
    cases hq : w.dw.door.gen.path
    · rw [hq] at hp; exact nomatch hp
    · rfl
  unfold doorPathEnds
  dsimp only
  rw [hg, hco]
  simp only [Bool.false_eq_true, if_false]
  have hsus : ((w.door (fun q => { q with gen := q.gen.complete })).dw.door.flags.suspect
      || (w.door (fun q => { q with gen := q.gen.complete })).dw.obst.flags.sePathFault) = true := by
    show (w.dw.door.flags.suspect || _) = true; rw [hq]; rfl
  rw [if_pos hsus]
  exact ⟨hs.of_sm (by rw [sealSeekStart_sm]; rfl), rfl⟩

/-- The stopping door drive reaches rest (R125, R126). -/
theorem onDoorStopped_is {e : DoorEnv} {w : Work} {m p} (hr : w.dw.obst.flags.reflexStop = false)
    (hm : w.dw.door.gen.state = .moving) (hk : w.dw.door.gen.kept = some m)
    (hp : w.dw.door.gen.path = some p) (hs : p.stopping = true) :
    (onDoorStopped e w).dw.sm = w.dw.sm ∧ (onDoorStopped e w).dw.door.gen.state = .stoppedMid
      ∧ (onDoorStopped e w).dw.door.gen.kept = some m ∧ (onDoorStopped e w).dw.door.gen.remaining = m.target - p.planTo
      ∧ (onDoorStopped e w).dw.door.gen.ref.pos = p.planTo := by
  have h1 : onDoorStopped e w = w.door (fun q => { q with gen := q.gen.stopped p.planTo, integ := 0 }) := by
    unfold onDoorStopped
    rw [hm, hp]
    dsimp only
    rw [if_pos hs]
    rw [if_neg (by show ¬w.dw.obst.flags.reflexStop = true; rw [hr]; decide)]
  have h2 : (onDoorStopped e w).dw.door.gen = w.dw.door.gen.stopped p.planTo := by rw [h1]; rfl
  refine ⟨by rw [h1]; rfl, by rw [h2]; rfl, by rw [h2]; exact hk, ?_, by rw [h2]; rfl⟩
  rw [h2]
  show keptEnd w.dw.door.gen.kept p.planTo - p.planTo = _
  rw [hk]; rfl

/-- A motion that starts leaves the mark of a reflex stop. -/
theorem doorContext_reflex (e : DoorEnv) (role skip : Nat) (w : Work) :
    (doorContext e role skip w).dw.obst.flags.reflexStop = w.dw.obst.flags.reflexStop := by
  unfold doorContext
  dsimp only
  split
  · rfl
  · unfold strokeStarts; dsimp only; split <;> rfl

theorem doorMove_reflex (e : DoorEnv) (t : Int) (s : Nat) (b : Bool) (w : Work) :
    (doorMove e t s b w).dw.obst.flags.reflexStop = w.dw.obst.flags.reflexStop := by
  unfold doorMove strokeStarts; dsimp only; split <;> rfl

/-- A reflex stop that ends is over, whatever motion begins then (R261). -/
theorem afterReflexStop_over (e : DoorEnv) (w : Work) : (afterReflexStop e w).dw.obst.flags.reflexStop = false := by
  have hd : ∀ u : Work, u.dw.obst.flags.reflexStop = false → (enterDwell e (doorHold e u)).dw.obst.flags.reflexStop = false := by
    intro u hu
    unfold enterDwell
    split
    · rw [enter_obst, doorHold_obst]; exact hu
    · rw [doorHold_obst]; exact hu
  have hm : ∀ u : Work, u.dw.obst.flags.reflexStop = false → (reopenMotion e u).dw.obst.flags.reflexStop = false := by
    intro u hu
    unfold reopenMotion
    dsimp only
    generalize hx : u.door _ = x
    have h0 : x.dw.obst.flags.reflexStop = false := by rw [← hx]; exact hu
    split
    · exact hd _ h0
    · split
      · split
        · rw [doorMove_reflex]; exact h0
        · rw [doorContext_reflex]; exact h0
      · split
        · exact hd _ h0
        · rw [doorMove_reflex]; exact h0
  have ho : ∀ u : Work, u.dw.obst.flags.reflexStop = false → (doorStartOpen e u).dw.obst.flags.reflexStop = false := by
    intro u hu
    unfold doorStartOpen
    dsimp only
    split
    · rw [doorMove_reflex]; exact hu
    · rw [doorContext_reflex]; exact hu
  have hc : ∀ u : Work, u.dw.obst.flags.reflexStop = false → (doorStartClose e u).dw.obst.flags.reflexStop = false := by
    intro u hu
    unfold doorStartClose
    dsimp only
    split
    · split
      · show (strokeStarts e _ _ u).dw.obst.flags.reflexStop = false
        unfold strokeStarts; dsimp only; split <;> exact hu
      · rw [doorContext_reflex]; exact hu
    · rw [doorContext_reflex]; exact hu
  unfold afterReflexStop
  dsimp only
  generalize hy : w.obstFlags _ = y
  have h1 : y.dw.obst.flags.reflexStop = false := by rw [← hy]; rfl
  split
  · split
    · exact hd _ h1
    · exact hm _ h1
  · exact hm _ h1
  · exact ho _ h1
  · exact hc _ h1
  · rw [doorHold_obst]; exact h1
  · exact h1
  · exact h1

/-- The stop of a reflex without torque loss ends the reflex stop (R261). -/
theorem onDoorStopped_reflex {e : DoorEnv} {w : Work} {p} (hr : w.dw.obst.flags.reflexStop = true)
    (hm : w.dw.door.gen.state = .moving) (hp : w.dw.door.gen.path = some p) (hs : p.stopping = true) :
    (onDoorStopped e w).dw.obst.flags.reflexStop = false := by
  unfold onDoorStopped
  rw [hm, hp]
  dsimp only
  rw [if_pos hs]
  rw [if_pos (show (w.door _).dw.obst.flags.reflexStop = true from hr)]
  exact afterReflexStop_over _ _

theorem onStepStopped_is {w : Work} {p} (hm : w.dw.step.gen.state = .moving) (hp : w.dw.step.gen.path = some p) (hs : p.stopping = true) :
    (onStepStopped w).dw.sm = w.dw.sm ∧ (onStepStopped w).dw.step.gen.state = .stoppedMid ∧ (onStepStopped w).dw.step.position = p.planTo := by
  unfold onStepStopped
  rw [hm, hp]
  dsimp only
  rw [if_pos hs]
  exact ⟨rfl, rfl, rfl⟩

/-- A seal stall without DCS is passed on as a final-closure trip (R172, R250). -/
theorem onSealStall_trip {e : DoorEnv} {w : Work} (hs : w.dw.door.flags.sealSeek = true) (hv : w.dw.door.hall.velocity.natAbs < 1000) (hd : w.dw.dcs = false) :
    (onSealStall e w).dw.door.flags.sealSeek = false ∧ (onSealStall e w).dw.obst.pending = some { source := 32 + e.d.val + 192, fromSeal := true }
      ∧ (onSealStall e w).dw.obst.lastTripSource = 32 + e.d.val + 192 ∧ (onSealStall e w).dw.obst.flags.sigTripped = true
      ∧ (onSealStall e w).dw.obst.counters.sigTrips = satInc 16 w.dw.obst.counters.sigTrips
      ∧ (onSealStall e w).dw.door.flags.suspect = w.dw.door.flags.suspect := by
  have hv' : decide (1000 ≤ w.dw.door.hall.velocity.natAbs) = false := by simp; omega
  unfold onSealStall
  rw [hs, hd, hv']
  exact ⟨rfl, rfl, rfl, rfl, rfl, rfl⟩

/-- A change of phase within CLOSING leaves the state machine's flags. -/
theorem enter_closing_flags (e : DoorEnv) (ph : Phase) (w : Work) (h : w.dw.sm.state = .closing) :
    (enter e .closing ph none w).dw.sm.flags = w.dw.sm.flags := by
  have hb : (cycleBegin e 5 (cycleAccount e w)).dw.sm = w.dw.sm := (cycleBegin_sm e 5 _).trans (cycleAccount_sm e w)
  unfold enter
  dsimp only
  rw [if_pos h.symm]
  show (cycleBegin e 5 (cycleAccount e w)).dw.sm.flags = w.dw.sm.flags
  rw [hb]

/-- A seal stall with DCS made is a relearn, and the close goes on in phase LOCK (R172, R174). -/
theorem onSealStall_relearn {e : DoorEnv} {w : Work} {c} (h : w.dw.Calm e) (hat : w.At .closing .move c)
    (hs : w.dw.door.flags.sealSeek = true) (hvel : w.dw.door.hall.velocity.natAbs < 1000) (hd : w.dw.dcs = true)
    (hr : e.cfg.hasStep e.d = false ∨ w.dw.stepHomed = true ∧ w.dw.step.flags.moved = false) :
    (onSealStall e w).Is .closing .lock c ∧ (onSealStall e w).dw.door.hall.ticks = 0 ∧ (onSealStall e w).dw.door.flags.suspect = false
      ∧ (onSealStall e w).dw.door.counters.relearns = satInc 16 w.dw.door.counters.relearns := by
  have hrs : (relearn e w).dw.sm = w.dw.sm := relearn_sm e w
  have har : (relearn e w).At .closing .move c := hat.of_sm hrs
  have he : onSealStall e w = doorTick e (enterLock e (relearn e w)) := by
    have hv' : decide (1000 ≤ w.dw.door.hall.velocity.natAbs) = false := by simp; omega
    unfold onSealStall
    rw [hs, hd, hv']
    simp only [Bool.not_true, Bool.or_false, Bool.false_eq_true, if_false, if_true]
    rw [if_pos (har.course (by decide))]
  rw [he]
  have hlk := enterLock_at e (relearn e w) har.edges (by rw [har.state]; decide)
  rw [har.cause] at hlk
  have hret : ∀ u : Work, u.dw.step = w.dw.step → startRetract e u = u := by
    intro u hu
    have hx : (!e.cfg.hasStep e.d || (u.dw.stepHomed && !u.dw.step.flags.moved)) = true := by
      unfold Doorway.stepHomed at *
      rw [hu]
      rcases hr with hr | ⟨h1, h2⟩
      · rw [hr]; rfl
      · rw [h1, h2]; simp
    unfold startRetract
    dsimp only
    rw [if_pos hx]
  have hrst : (relearn e w).dw.step = w.dw.step := relearn_step e w
  have hrin : (relearn e w).dw.inp = w.dw.inp := relearn_inp e w
  have hrob : (relearn e w).dw.obst = w.dw.obst := relearn_obst e w
  have hrd : (relearn e w).dw.door.hall.ticks = 0 ∧ (relearn e w).dw.door.flags.suspect = false
      ∧ (relearn e w).dw.door.counters.relearns = satInc 16 w.dw.door.counters.relearns
      ∧ (relearn e w).dw.door.faultCode = w.dw.door.faultCode := by
    refine ⟨?_, rfl, rfl, rfl⟩
    show 64 * w.dw.door.hall.rawEdges + w.dw.door.hall.dirLast * w.dw.door.hall.frac
      - (w.dw.door.hall.zeroOffset + (64 * w.dw.door.hall.rawEdges + w.dw.door.hall.dirLast * w.dw.door.hall.frac - w.dw.door.hall.zeroOffset)) = 0
    omega
  have hparts : ∀ u : Work, u.dw.step = w.dw.step → u.dw.sm.state = .closing → (enterLock e u).dw.door.hall = u.dw.door.hall
      ∧ (enterLock e u).dw.door.flags.suspect = u.dw.door.flags.suspect
      ∧ (enterLock e u).dw.door.counters = u.dw.door.counters
      ∧ (enterLock e u).dw.door.faultCode = u.dw.door.faultCode
      ∧ (enterLock e u).dw.door.push = .pushing
      ∧ (enterLock e u).dw.sm.flags.dlsConfirmed = false
      ∧ (enterLock e u).dw.step = u.dw.step ∧ (enterLock e u).dw.inp = u.dw.inp
      ∧ (enterLock e u).dw.obst.pending = u.dw.obst.pending := by
    intro u hu hus
    have hgt : goTo e .closing .lock none u = enter e .closing .lock none u := by
      unfold goTo; rw [if_neg (by rw [hus]; decide)]
    have hdr := enter_drives e .closing .lock none u (.inr (by rw [hus]; decide))
    have hg : (goTo e .closing .lock none u).dw.door = u.dw.door := by rw [hgt]; exact hdr.1
    have hgs : (goTo e .closing .lock none u).dw.step = u.dw.step := by rw [hgt]; exact hdr.2
    have hgi : (goTo e .closing .lock none u).dw.inp = u.dw.inp := goTo_inp e _ _ _ u
    have hgo : (goTo e .closing .lock none u).dw.obst = u.dw.obst := goTo_obst e _ _ _ u
    unfold enterLock
    dsimp only
    generalize hz : Work.obstFlags _ _ = z
    rw [hret z (by rw [← hz]; exact hgs.trans hu), ← hz]
    refine ⟨congrArg (fun q => q.hall) hg, congrArg (fun q => q.flags.suspect) hg, congrArg (fun q => q.counters) hg,
      congrArg (fun q => q.faultCode) hg, rfl, rfl, hgs, hgi, congrArg (fun q => q.pending) hgo⟩
  obtain ⟨p1, p2, p3, p4, p5, p6, p7, p8, p9⟩ := hparts (relearn e w) hrst har.state
  have hfl : (enterLock e (relearn e w)).dw.sm.flags = { w.dw.sm.flags with dlsConfirmed := false, solenoidOff := true } := by
    have h1 := enter_closing_flags e .lock (relearn e w) har.state
    rw [hrs] at h1
    have h2 : goTo e .closing .lock none (relearn e w) = enter e .closing .lock none (relearn e w) := by
      unfold goTo; rw [if_neg (by rw [har.state]; decide)]
    unfold enterLock
    dsimp only
    rw [startRetract_sm, h2]
    show ({ (enter e .closing .lock none (relearn e w)).dw.sm.flags with dlsConfirmed := false, solenoidOff := true } : SmFlags) = _
    rw [h1]
  have hcv : (enterLock e (relearn e w)).dw.Calm e := by
    obtain ⟨a1, a2, a3, a4, a5, a6, a7, a8, a9, b1, b2, b3, b4, b5, b6, b7⟩ := h
    have hin : (enterLock e (relearn e w)).dw.inp = w.dw.inp := p8.trans hrin
    have hstep : (enterLock e (relearn e w)).dw.step = w.dw.step := p7.trans hrst
    have hfc : (enterLock e (relearn e w)).dw.door.faultCode = w.dw.door.faultCode := p4.trans hrd.2.2.2
    have hst : (enterLock e (relearn e w)).dw.sm.state = .closing := hlk.state
    refine ⟨a1, by rw [hfl]; exact a2, by rw [hfl]; exact a3, by rw [hin]; exact a4, ?_, ?_, ?_, by rw [hst]; decide, ?_, by rw [hfl]; exact b1,
      b2, by rw [p9, hrob]; exact b3, b4, by rw [p5]; decide, by rw [hstep]; exact b6, by rw [hstep]; exact b7⟩
    · unfold Doorway.dis Doorway.input at *; rw [hin]; exact a5
    · unfold Doorway.eehIn Doorway.input at *; rw [hin]; exact a6
    · unfold Doorway.eeaOut Doorway.input at *; rw [hin]; exact a7
    · have hs0 : w.dw.sm.state = .closing := hat.state
      unfold rankFour driveFaultCause at *
      rw [hfl, hin, hfc, hstep, hst]
      rw [hs0] at a9
      exact a9
  have hpl : lockProven e (checkDeployed e (enterLock e (relearn e w))) = false := by
    unfold lockProven
    rw [checkDeployed_sm, p6, hlk.state]; simp
  have hlr : levelRows e (enterLock e (relearn e w)) = checkDeployed e (enterLock e (relearn e w)) := by
    have h2 := hlk.of_sm (checkDeployed_sm e (enterLock e (relearn e w)))
    have hco := h2.course (by decide)
    unfold levelRows
    dsimp only
    rw [hco]
    dsimp only
    rw [hpl]
    rfl
  have hg := checkDeployed_gen e (enterLock e (relearn e w))
  have ht : doorTick e (enterLock e (relearn e w)) = seeLevels e (checkDeployed e (enterLock e (relearn e w))) := by
    unfold doorTick
    rw [tick_calm hcv (hlk.unchecked e (by decide))]
    show seeLevels e (takeEdges e (levelRows e (enterLock e (relearn e w)))) = _
    rw [hlr, takeEdges_quiet]
    rw [checkDeployed_sm]; exact hlk.edges
  rw [ht]
  refine ⟨seeLevels_is (hlk.of_sm hg.2.2.2.2).is, ?_, ?_, ?_⟩
  · show ((checkDeployed e (enterLock e (relearn e w))).dw.door).hall.ticks = 0
    rw [hg.1, p1]; exact hrd.1
  · show ((checkDeployed e (enterLock e (relearn e w))).dw.door).flags.suspect = false
    rw [hg.1, p2]; exact hrd.2.1
  · show ((checkDeployed e (enterLock e (relearn e w))).dw.door).counters.relearns = _
    rw [hg.1, p3]; exact hrd.2.2.1

end Sys2Proof.Machine
end

