-- ==== Sys2Proof/Laws/Doorbells.lean ====
section
/-!
SUPPORT. Doorway-bound commands on one doorway: the reply, and what the engine makes of it (chapters 1, 3 and 9).
-/

set_option linter.unusedVariables false
set_option linter.unusedSimpArgs false

namespace Sys2Proof.Machine

theorem same_env {s v : State} (hv : v = { s with fcp := v.fcp }) (d : DoorIx) : v.doors = s.doors ∧ v.doorEnv d = s.doorEnv d
    ∧ v.leafRuns d = s.leafRuns d ∧ v.config = s.config := by
  rw [hv]; exact ⟨rfl, rfl, rfl, rfl⟩

theorem mask_bit (d x : DoorIx) : bitOf (2 ^ d.val) x.val = decide (x = d) := by revert d x; decide

theorem filter_one (d : DoorIx) (p : DoorIx → Bool) : doorways.filter (fun x => decide (x = d) && p x) = if p d then [d] else [] := by
  have : ∀ d : DoorIx, doorways.filter (fun x => decide (x = d)) = [d] := by decide
  rw [show (fun x : DoorIx => decide (x = d) && p x) = fun x => decide (x = d) && p d from by
    funext x
    by_cases hx : x = d
    · subst hx; rfl
    · simp [hx]]
  cases p d
  · simp
  · simp [this d]

/-- The reasons of a mask of one doorway, with its commander's own command. -/
theorem own_plain {s : State} {h : Hdr} {i : SessIx} {d : DoorIx} (ht : h.takeover = false) (hc : s.fcp.commander[d] = some i)
    (hf : s.cfg.isFitted d = true) : s.own h i (2 ^ d.val) = (s, fun _ => none) := by
  unfold State.own
  rw [ht]
  simp only [Bool.false_eq_true, if_false]
  congr 1
  funext x
  rw [mask_bit]
  by_cases hx : x = d
  · subst hx
    rw [hf]
    simp [hc]
  · simp [hx]

theorem reasons_one (s : State) (d : DoorIx) (refuse : DoorEnv → Doorway → Option Nat) (x : DoorIx) :
    s.reasons (2 ^ d.val) (fun _ => none) refuse x = if x = d then refuse (s.doorEnv d) s.doors[d] else none := by
  unfold State.reasons
  rw [mask_bit]
  by_cases hx : x = d
  · subst hx; simp
  · simp [hx]

theorem acting_one {d : DoorIx} {why : DoorIx → Option Nat} (h : why d = none) : acting (2 ^ d.val) why = [d] := by
  unfold acting
  simp only [mask_bit]
  rw [filter_one d (fun x => (why x).isNone), h]
  rfl

theorem acting_none {d : DoorIx} {why : DoorIx → Option Nat} {r : Nat} (h : why d = some r) : acting (2 ^ d.val) why = [] := by
  unfold acting
  simp only [mask_bit]
  rw [filter_one d (fun x => (why x).isNone), h]
  rfl

theorem only_fcp {s v x : State} (h1 : v = { s with fcp := v.fcp }) (h2 : x = { v with fcp := x.fcp }) : x = { s with fcp := x.fcp } :=
  h2.trans (congrArg (fun y : State => { y with fcp := x.fcp }) h1)

theorem lowest_one (d : DoorIx) (why : DoorIx → Option Nat) (r : Nat) (h : ∀ x, why x = if x = d then some r else none) : lowestReason why = r := by
  unfold lowestReason
  rw [show why = fun x => if x = d then some r else none from funext h]
  have : ∀ d : DoorIx, doorways.findSome? (fun x => if x = d then some r else none) = some r := by
    intro d
    match d with
    | 0 => rfl | 1 => rfl | 2 => rfl | 3 => rfl | 4 => rfl | 5 => rfl | 6 => rfl | 7 => rfl
  rw [this]; rfl

theorem acted_one (d : DoorIx) (why : DoorIx → Option Nat) (h : ∀ x, why x = none) :
    actedPayload (2 ^ d.val) why = BitVec.ofNat 8 (2 ^ d.val) :: List.replicate 11 0 := by
  unfold actedPayload
  rw [show why = fun _ => none from funext h]
  revert d; decide

/-- An operation accepted on one doorway: the reply, and the doorway as the engine's work leaves it. -/
theorem accepts_runs {s : State} {h : Hdr} {i : SessIx} {d : DoorIx} {q : Req} (k : s.Admits h i q) (ho : q.opcode ≠ 0x0101)
    {opcode : Nat} {kind : OpKind} {doors : Vector DoorOut 8} {run : Nat → DoorEnv → Work → Work} {pre fin : Nat → State → State}
    (hp : ∀ n u, (pre n u) = { u with fcp := (pre n u).fcp } ∧ u.Hush (pre n u)) (hf : ∀ n u, u.Hush (fin n u) ∧ (fin n u).doors = u.doors)
    (hq : q.act h i (s.admitted h i) = (s.admitted h i).accepts i opcode kind doors (fun n t => fin n ((pre n t).runDoor d (run n))))
    (hx : s.exhausted i = false) (hl : s.leafRuns d = true) :
    (s.receive h q).Answered i h q (Answer.accepted s.fcp.nextHandle)
      ∧ (run s.fcp.nextHandle (s.doorEnv d) ⟨s.doors[d], []⟩).dw.alike (s.receive h q).doors[d] := by
  have hr := k.receive ho
  have hacc : (s.admitted h i).accepts i opcode kind doors (fun n t => fin n ((pre n t).runDoor d (run n)))
      = { state := ((s.admitted h i).startOp i opcode kind doors).1, answer := some (Answer.accepted s.fcp.nextHandle)
          after := fun t => fin s.fcp.nextHandle ((pre s.fcp.nextHandle t).runDoor d (run s.fcp.nextHandle)) } := by
    unfold State.accepts
    rw [if_neg (by show ¬ s.exhausted i = true; rw [hx]; decide)]
    rfl
  rw [hq, hacc] at hr
  dsimp only at hr
  obtain ⟨b1, _⟩ := (((s.admitted h i).startOp i opcode kind doors).1).answerStored_only h i q (Answer.accepted s.fcp.nextHandle) ho
  have hu : ∃ u : State, u = ((s.admitted h i).startOp i opcode kind doors).1 ∧ u = { s with fcp := u.fcp } := ⟨_, rfl, rfl⟩
  obtain ⟨u, hu, hu2⟩ := hu
  rw [← hu] at b1 hr
  have hv : ∃ v, v = u.answerStored h i q (Answer.accepted s.fcp.nextHandle) := ⟨_, rfl⟩
  obtain ⟨v, hv⟩ := hv
  rw [← hv] at b1 hr
  have hv2 : v = { s with fcp := v.fcp } := only_fcp hu2 b1
  obtain ⟨p1, p2⟩ := hp s.fcp.nextHandle v
  have hw2 := only_fcp hv2 p1
  obtain ⟨e1, e2, e3, _⟩ := same_env hw2 d
  have hw : v.Hush ((pre s.fcp.nextHandle v).runDoor d (run s.fcp.nextHandle)) := p2.trans (State.runDoor_hush _ _ _)
  have hown := (pre s.fcp.nextHandle v).runDoor_own d (run s.fcp.nextHandle) (e3.trans hl)
  rw [e1, e2] at hown
  generalize (pre s.fcp.nextHandle v).runDoor d (run s.fcp.nextHandle) = x at *
  obtain ⟨f1, f2⟩ := hf s.fcp.nextHandle x
  rw [hr]
  refine ⟨State.Answered.of_hush ho (s := u) ?_, ?_⟩
  · rw [← hv]; exact hw.trans (f1.trans (.of_fcp rfl))
  · show Doorway.alike _ (fin s.fcp.nextHandle x).doors[d]
    rw [f2]; exact hown

theorem accepts_busy {s : State} {h : Hdr} {i : SessIx} {q : Req} (k : s.Admits h i q) (ho : q.opcode ≠ 0x0101)
    {opcode : Nat} {kind : OpKind} {doors : Vector DoorOut 8} {next : Nat → State → State}
    (hq : q.act h i (s.admitted h i) = (s.admitted h i).accepts i opcode kind doors next) (hx : s.exhausted i = true) :
    (s.receive h q).Answered i h q (Answer.busy 0x49) ∧ s.Unmoved (s.receive h q) :=
  k.reads ho (hq.trans (if_pos hx))

theorem settleOp_doors (n : Nat) (u : State) : u.Hush (u.settleOp n) ∧ (u.settleOp n).doors = u.doors :=
  ⟨State.settleOp_hush _ _, (State.settleOp_keeps (Within.refl _) (Keeps.refl _ _) n).only .doors (by decide)⟩

/-- OPEN, CLOSE or RESUME of one doorway. -/
theorem doorOperation_one {s : State} {i : SessIx} {d : DoorIx} {opcode : Nat} {kind : OpKind} {refuse : DoorEnv → Doorway → Option Nat}
    {opening atOnce : Doorway → Bool} {run : DoorEnv → Work → Work} :
    (∀ r, refuse (s.doorEnv d) s.doors[d] = some r →
      s.doorOperation i opcode (2 ^ d.val) kind (s.reasons (2 ^ d.val) (fun _ => none) refuse) opening atOnce run = s.answers (Answer.refused r)) ∧
    (refuse (s.doorEnv d) s.doors[d] = none → ∃ parts,
      s.doorOperation i opcode (2 ^ d.val) kind (s.reasons (2 ^ d.val) (fun _ => none) refuse) opening atOnce run
        = s.accepts i opcode kind parts (fun h t => (t.runDoor d run).settleOp h)) := by
  have hw : ∀ x, s.reasons (2 ^ d.val) (fun _ => none) refuse x = if x = d then refuse (s.doorEnv d) s.doors[d] else none := reasons_one s d refuse
  refine ⟨fun r hr => ?_, fun hr => ?_⟩
  · unfold State.doorOperation
    dsimp only
    rw [acting_none (r := r) (by rw [hw, if_pos rfl, hr]), if_pos (show ([] : List DoorIx).isEmpty = true from rfl)]
    rw [lowest_one d _ r (fun x => by rw [hw, hr])]
  · refine ⟨tab 8 (fun x => partOf (2 ^ d.val) (s.reasons (2 ^ d.val) (fun _ => none) refuse) s.doors[x] (opening s.doors[x]) (atOnce s.doors[x]) x), ?_⟩
    unfold State.doorOperation
    dsimp only
    rw [acting_one (by rw [hw, if_pos rfl, hr]), if_neg (by simp)]
    rfl

theorem doorStop_one {s : State} {h : Hdr} {i : SessIx} {d : DoorIx} {c : Cause} {quick : Bool} (ht : h.takeover = false)
    (hc : s.fcp.commander[d] = some i) (hf : s.cfg.isFitted d = true) :
    (∀ r, refuseStop (s.doorEnv d) s.doors[d] = some r → s.doorStop h i (2 ^ d.val) c quick = s.answers (Answer.refused r)) ∧
    (refuseStop (s.doorEnv d) s.doors[d] = none → s.doorStop h i (2 ^ d.val) c quick
        = (s.runDoor d (fun e => doorTickWith e (doStop e c quick))).answers (Answer.done (BitVec.ofNat 8 (2 ^ d.val) :: List.replicate 11 0))) := by
  have hw : ∀ x, s.reasons (2 ^ d.val) (fun _ => none) refuseStop x = if x = d then refuseStop (s.doorEnv d) s.doors[d] else none := reasons_one s d _
  refine ⟨fun r hr => ?_, fun hr => ?_⟩
  · unfold State.doorStop
    rw [own_plain ht hc hf]
    dsimp only
    rw [acting_none (r := r) (by rw [hw, if_pos rfl, hr]), if_pos (show ([] : List DoorIx).isEmpty = true from rfl)]
    rw [lowest_one d _ r (fun x => by rw [hw, hr])]
  · unfold State.doorStop
    rw [own_plain ht hc hf]
    dsimp only
    rw [acting_one (by rw [hw, if_pos rfl, hr]), if_neg (by simp), acted_one d _ (fun x => by rw [hw, hr]; simp)]
    rfl

theorem levelRows_held {e : DoorEnv} {w : Work} {c} (h : w.At .unlocking .none c) (hd : w.dw.dls = true) : (levelRows e w).At .unlocking .none c := by
  have h2 := h.of_sm (checkDeployed_sm e w)
  have hco := h2.course (by decide)
  have hd2 : (checkDeployed e w).dw.dls = true := by unfold Doorway.dls Doorway.input at *; rw [checkDeployed_inp]; exact hd
  unfold levelRows
  dsimp only
  rw [hco]
  dsimp only
  rw [hd2]
  exact h2

theorem hostOpen_is {e : DoorEnv} {w : Work} (h : w.dw.Calm e) (hn : w.dw.sm.edges = noEdges) (hs : w.dw.sm.state = .released)
    (ho : e.openAllowed = true) (hd : w.dw.dls = true) : (demandAt hostOpen e w).Is .unlocking .none .openHost := by
  have h1 : hostOpen e w = enterUnlocking e .openHost w := by
    unfold hostOpen
    rw [if_neg (by rw [hs]; decide)]
    unfold doOpen
    rw [ho, hs]
    rfl
  have h2 : (hostOpen e w).At .unlocking .none .openHost := by
    rw [h1]; exact enterUnlocking_at e _ w hn (by rw [hs]; decide)
  have h3 : (hostOpen e w).dw.dls = true := by
    rw [h1]; unfold Doorway.dls Doorway.input at *; rw [enterUnlocking_inp]; exact hd
  unfold demandAt
  rw [if_neg (by rw [h.notEntering]; decide)]
  have hc : solenoidCheck e w = w := Work.At.unchecked (st := .released) (ph := w.dw.sm.phase) (c := w.dw.sm.cause) e ⟨hs, rfl, rfl, hn⟩ (by decide)
  refine (tick_at (f := hostOpen e) h ?_).is
  rw [hc]
  exact levelRows_held h2 h3

theorem hostClose_is {e : DoorEnv} {w : Work} (h : w.dw.Calm e) (hn : w.dw.sm.edges = noEdges) (hs : w.dw.sm.state = .opened)
    (hw : e.cfg.preCloseWarn e.d ≠ 0) : (demandAt (fun e => doLocalClose e .closeHost) e w).Is .closing .warn .closeHost := by
  have h1 : doLocalClose e .closeHost w = enterWarn e (some .closeHost) false w := by
    unfold doLocalClose; rw [hs]
  unfold demandAt
  rw [if_neg (by rw [h.notEntering]; decide)]
  have hc : solenoidCheck e w = w := Work.At.unchecked (st := .opened) (ph := w.dw.sm.phase) (c := w.dw.sm.cause) e ⟨hs, rfl, rfl, hn⟩ (by decide)
  refine (tick_quiet h hc (st := .closing) (ph := .warn) (c := .closeHost) ?_ rfl).is
  show (doLocalClose e .closeHost w).At _ _ _
  rw [h1]
  exact enterWarn_at e _ false w hn (by rw [hs]; decide) hw

theorem stop_is {e : DoorEnv} {w : Work} {c : Cause} {quick : Bool} (h : w.dw.Calm e) (hn : w.dw.sm.edges = noEdges)
    (hr : refuseStop e w.dw = none) (hs : w.dw.sm.state = .opening ∨ w.dw.sm.state = .reopening ∨ w.dw.sm.state = .closing) :
    (doorTickWith e (doStop e c quick) w).Is .stopped .none c
      ∧ (doorTickWith e (doStop e c quick) w).dw.sm.interrupted = some (w.dw.sm.state, w.dw.sm.phase) := by
  have hlk : w.dw.sm.state = .closing → w.dw.sm.phase ≠ .lock := by
    intro hs hp
    unfold refuseStop at hr
    split at hr
    · cases hr
    · rw [if_pos ⟨hs, hp⟩] at hr; cases hr
  obtain ⟨b, hb⟩ := solenoidCheck_dw e w
  have h1 : (solenoidCheck e w).dw.sm.state = w.dw.sm.state ∧ (solenoidCheck e w).dw.sm.phase = w.dw.sm.phase
      ∧ (solenoidCheck e w).dw.sm.edges = noEdges := by rw [hb]; exact ⟨rfl, rfl, hn⟩
  have hv := h.checked
  have hid := solenoidCheck_idem e w
  rw [tick_after_check h, ← h1.1, ← h1.2.1]
  rw [← h1.1, ← h1.2.1] at hlk
  rw [← h1.1] at hs
  replace hn := h1.2.2
  clear hb h1 hr
  generalize solenoidCheck e w = v at *
  have hst : ∀ u b, (stopDrives e b u).dw.sm = u.dw.sm := fun u b => stopDrives_sm _ _ _
  have h2 := enter_at e .stopped .none (some c) v hn (by decide) (by decide)
  have key : (doStop e c quick v).At .stopped .none c ∧ (doStop e c quick v).dw.sm.interrupted = some (v.dw.sm.state, v.dw.sm.phase) := by
    have hx : ∀ f : DoorSm → DoorSm, (∀ m, (f m).state = m.state ∧ (f m).phase = m.phase ∧ (f m).cause = m.cause ∧ (f m).edges = m.edges) →
        (stopDrives e quick ((enter e .stopped .none (some c) v).sm f)).At .stopped .none c := fun f hf =>
      Work.At.of_sm (w := (enter e .stopped .none (some c) v).sm f) (h2.sm (hf _).1 (hf _).2.1 (hf _).2.2.1 (hf _).2.2.2) (hst _ _)
    unfold doStop
    rcases hs with hs | hs | hs
    · rw [hs]
      refine ⟨hx _ (fun _ => ⟨rfl, rfl, rfl, rfl⟩), ?_⟩
      dsimp only
      rw [hst]; rfl
    · rw [hs]
      refine ⟨hx _ (fun _ => ⟨rfl, rfl, rfl, rfl⟩), ?_⟩
      dsimp only
      rw [hst]; rfl
    · have hl := hlk hs
      rw [hs]
      cases hp : v.dw.sm.phase with
      | lock => exact absurd hp hl
      | _ =>
        refine ⟨hx _ (fun _ => ⟨rfl, rfl, rfl, rfl⟩), ?_⟩
        dsimp only
        rw [hst]; rfl
  obtain ⟨k1, k2⟩ := key
  have := tick_quiet_eq hv hid (f := doStop e c quick) k1 rfl
  refine ⟨(tick_quiet hv hid k1 rfl).is, ?_⟩
  rw [this]
  show (checkDeployed e (doStop e c quick v)).dw.sm.interrupted = _
  rw [checkDeployed_sm]; exact k2

theorem resume_is {e : DoorEnv} {w : Work} {ph : Phase} (h : w.dw.Calm e) (hn : w.dw.sm.edges = noEdges) (hr : refuseResume e w.dw = none) :
    (w.dw.sm.interrupted = some (.closing, ph) → e.cfg.preCloseWarn e.d ≠ 0 →
      ∃ c, (doorTickWith e (doResume e) w).Is .closing .warn c) ∧
    (w.dw.sm.interrupted = some (.reopening, ph) → ∃ c, (doorTickWith e (doResume e) w).Is .reopening ph c) := by
  have hcan : w.dw.canResume = true := by
    unfold refuseResume at hr
    cases hc : w.dw.canResume
    · rw [hc] at hr; exact nomatch hr
    · rfl
  have hst : w.dw.sm.state = .stopped := by
    unfold Doorway.canResume at hcan
    simp at hcan
    exact hcan.1.1
  have hc : solenoidCheck e w = w := Work.At.unchecked (st := .stopped) (ph := w.dw.sm.phase) (c := w.dw.sm.cause) e ⟨hst, rfl, rfl, hn⟩ (by decide)
  refine ⟨fun hi hw => ?_, fun hi => ?_⟩
  · refine ⟨_, (tick_quiet h hc (f := doResume e) (st := .closing) (ph := .warn) (c := w.dw.sm.cause) ?_ rfl).is⟩
    unfold doResume
    rw [hcan, hi]
    simp only [Bool.not_true, Bool.false_eq_true, if_false]
    exact (enterWarn_at e none true w hn (by rw [hst]; decide) hw).of_sm (stepResume_sm _ _)
  · refine ⟨_, (tick_quiet h hc (f := doResume e) (st := .reopening) (ph := ph) (c := w.dw.sm.cause) ?_ (by cases ph <;> rfl)).is⟩
    unfold doResume
    rw [hcan, hi]
    simp only [Bool.not_true, Bool.false_eq_true, if_false]
    have h2 := enter_at e .reopening ph none w hn (by decide) (by decide)
    exact ((h2.sm (f := fun m => { m with interrupted := none }) rfl rfl rfl rfl).of_sm (doorResume_sm _ _)).of_sm (stepResume_sm _ _)

theorem stored_doors (u : State) (h : Hdr) (i : SessIx) (q : Req) (a : Answer) (ho : q.opcode ≠ 0x0101) :
    (u.answerStored h i q a).fresh.doors = u.doors := by
  show (u.answerStored h i q a).doors = u.doors
  rw [(u.answerStored_only h i q a ho).1]

end Sys2Proof.Machine
end

