-- ==== Sys2Proof/Laws/Updates.lean ====
section
/-!
SUPPORT. Engine updates, the safe point and self-tests: what each operation leaves behind (chapters 10 and 16).
-/

set_option linter.unusedVariables false
set_option linter.unusedSimpArgs false

namespace Sys2Proof.Machine

theorem maintEnds_fw (s : State) (d : DoorIx) (m : Maint) (o r : Nat) : (s.maintEnds d m o r).service.fw = s.service.fw := by
  have hc : ∀ (a b c p), (s.complete a b c p).service = s.service := fun a b c p =>
    (State.complete_keeps (Within.refl _) (Keeps.refl _ s) a b c p).only .service (by decide)
  unfold State.maintEnds
  dsimp only
  split
  · rw [hc]
  · rw [hc]
  · rw [hc]
  · rfl
  · rfl

theorem applyFx_fw (d : DoorIx) (s : State) (x : DoorFx) : (s.applyFx d x).service.fw = s.service.fw := by
  cases x with
  | event c p => rfl
  | incident c step =>
    exact congrArg Service.fw ((State.incident_keeps (Within.refl _) (Keeps.refl _ s) c false (some d) (some (if step then stepDrive d else doorDrive d)) false false).only .service (by decide))
  | cycleRecord c st => exact congrArg Service.fw ((State.stage_keeps (Within.refl _) (Keeps.refl _ s) _ _).only .service (by decide))
  | flush => rfl
  | releaseBlocked => rfl
  | pulse => rfl
  | tripsEnd => rfl
  | maintEnd m o r => exact maintEnds_fw s d m o r

theorem runDoor_fw (s : State) (d : DoorIx) (f : DoorEnv → Work → Work) : (s.runDoor d f).service.fw = s.service.fw := by
  unfold State.runDoor
  split
  · rfl
  · dsimp only
    generalize f (s.doorEnv d) ⟨s.doors[d], []⟩ = w
    have h1 : ∀ (l : List DoorFx) (t : State), (l.foldl (State.applyFx d) t).service.fw = t.service.fw := by
      intro l
      induction l with
      | nil => exact fun _ => rfl
      | cons x l ih => exact fun t => (ih _).trans (applyFx_fw d t x)
    have h2 : ∀ t : State, (((t.followDoor d).egressRows d).evaluate).fresh.service = t.service := by
      intro t
      have k1 := State.followDoor_keeps (Within.refl _) (Keeps.refl _ t) d
      have k2 := State.egressRows_keeps (Within.refl _) (Keeps.refl _ (t.followDoor d)) d
      have k3 := State.evaluate_keeps (Within.refl _) (Keeps.refl _ ((t.followDoor d).egressRows d))
      exact (k3.only .service (by decide)).trans ((k2.only .service (by decide)).trans (k1.only .service (by decide)))
    rw [h2, h1]

theorem tickAll_fw (s : State) : s.tickAll.service.fw = s.service.fw := by
  have : ∀ (l : List DoorIx) (t : State), (l.foldl (fun s d => s.runDoor d doorTick) t).service.fw = t.service.fw := by
    intro l
    induction l with
    | nil => exact fun _ => rfl
    | cons x l ih => exact fun t => (ih _).trans (runDoor_fw t x _)
  unfold State.tickAll
  exact this doorways s

theorem supervise_fw (s : State) : s.supervise.service.fw = s.service.fw := by
  unfold State.supervise
  rw [tickAll_fw]
  exact congrArg Service.fw ((State.evaluate_keeps (Within.refl _) (Keeps.refl _ s)).only .service (by decide))

theorem complete_service (s : State) (a b c p) : (s.complete a b c p).service = s.service :=
  (State.complete_keeps (Within.refl _) (Keeps.refl _ s) a b c p).only .service (by decide)

/-- The activation where a roll-back with nothing left to return has ended. -/
def settledActivation (b : Activation) : Option Activation := if b.rolling.isSome && b.updated.isEmpty then none else some b

theorem rollSettles_out (s : State) (b : Activation) (h : s.service.fw.activation = some b) (hc : b.current = none) :
    s.rollSettles.service.fw.activation = settledActivation b ∧ s.rollSettles.engines = s.engines ∧ s.rollSettles.loop = s.loop
      ∧ s.rollSettles.outs = s.outs := by
  have hk := State.rollSettles_keeps (Within.refl _) (Keeps.refl _ s)
  refine ⟨?_, hk.only .engines (by decide), hk.only .loop (by decide), hk.only .outs (by decide)⟩
  unfold State.rollSettles settledActivation
  rw [h]
  dsimp only
  cases hr : b.rolling with
  | none => exact h
  | some r =>
    dsimp only
    rw [hc]
    cases hu : b.updated.isEmpty
    · exact h
    · show (State.activationEnds _ _ _ _ _ _).service.fw.activation = none
      unfold State.activationEnds
      dsimp only
      rw [complete_service]
      rfl

theorem engineDone_out (s : State) (a : Activation) (x : FwEngine) (ok : Bool) (b : Activation) (h : s.service.fw.activation = some a)
    (hx : a.current = some x) (hb : b = (if a.rolling = none ∧ ok = false then
          { a with current := none, rolling := some { status := stRefused, reason := 0x66, failed := x.number } }
        else if a.rolling = none then { a with current := none, updated := a.updated ++ [x] }
        else { a with current := none, updated := a.updated.filter (fun y => y != x) })) :
    (s.engineDone x ok).service.fw.activation = settledActivation b ∧ (s.engineDone x ok).engines = s.engines
      ∧ (s.engineDone x ok).loop = s.loop ∧ (s.engineDone x ok).outs = s.outs := by
  have hon : ∀ (v : State) (f : Activation → Activation) (p : Activation), v.service.fw.activation = some p →
      (v.onActivation f).service.fw.activation = some (f p) := by
    intro v f p hv
    show v.service.fw.activation.map f = _
    rw [hv]; rfl
  unfold State.engineDone
  rw [h]
  extract_lets fwd ver
  cases hr : a.rolling with
  | none =>
    have hf : fwd = true := by show a.rolling.isNone = true; rw [hr]; rfl
    cases ok
    · rw [if_pos (by rw [hf]; rfl)]
      rw [if_pos ⟨hr, rfl⟩] at hb
      unfold State.rollsBack
      obtain ⟨r1, r2, r3, r4⟩ := rollSettles_out ((s.onActivation (fun a => { a with current := none })).onActivation
        (fun a => { a with rolling := some ({ status := stRefused, reason := 0x66, failed := x.number } : RollBack) })) b
        (by rw [hon _ _ _ (hon _ _ _ h), hb]) (by rw [hb])
      exact ⟨r1, r2, r3, r4⟩
    · rw [if_neg (by simp)]
      rw [if_neg (by simp), if_pos hr] at hb
      obtain ⟨r1, r2, r3, r4⟩ := rollSettles_out ((s.onActivation (fun a => a.finished x)).event 0xE101 (serviceEvent s.now 2 x.number 0 ver)) b
        (by show (s.onActivation (fun a => a.finished x)).service.fw.activation = _
            rw [hon _ _ _ h, hb]; unfold Activation.finished; rw [hr]) (by rw [hb])
      exact ⟨r1, r2, r3, r4⟩
  | some r =>
    have hf : fwd = false := by show a.rolling.isNone = false; rw [hr]; rfl
    rw [if_neg (by rw [hf]; simp)]
    rw [if_neg (by rw [hr]; simp), if_neg (by rw [hr]; simp)] at hb
    obtain ⟨r1, r2, r3, r4⟩ := rollSettles_out ((s.onActivation (fun a => a.finished x)).event 0xE101 (serviceEvent s.now 2 x.number 0 ver)) b
        (by show (s.onActivation (fun a => a.finished x)).service.fw.activation = _
            rw [hon _ _ _ h, hb]; unfold Activation.finished; rw [hr]) (by rw [hb])
    exact ⟨r1, r2, r3, r4⟩

theorem rollSettles_fw (s : State) : s.rollSettles.service.fw.active = s.service.fw.active ∧ s.rollSettles.service.fw.activations = s.service.fw.activations := by
  unfold State.rollSettles
  split
  · exact ⟨rfl, rfl⟩
  · split
    · exact ⟨rfl, rfl⟩
    · split
      · unfold State.activationEnds
        dsimp only
        rw [complete_service]
        exact ⟨rfl, rfl⟩
      · exact ⟨rfl, rfl⟩

theorem engineDone_fw (s : State) (x : FwEngine) (ok : Bool) : (s.engineDone x ok).service.fw.active = s.service.fw.active
    ∧ (s.engineDone x ok).service.fw.activations = s.service.fw.activations := by
  unfold State.engineDone
  extract_lets fwd ver
  split
  · unfold State.rollsBack
    obtain ⟨h1, h2⟩ := rollSettles_fw ((s.onActivation (fun a => { a with current := none })).onActivation
        (fun a => { a with rolling := some ({ status := stRefused, reason := 0x66, failed := x.number } : RollBack) }))
    exact ⟨h1, h2⟩
  · obtain ⟨h1, h2⟩ := rollSettles_fw ((s.onActivation (fun a => a.finished x)).event 0xE101 (serviceEvent s.now 2 x.number 0 ver))
    exact ⟨h1, h2⟩

theorem updateDue_is (s : State) (a : Activation) (h : s.service.fw.activation = some a) (hl : a.live = true) (hc : a.current = none) :
    s.updateDue = a.due s.leafOn := by
  unfold State.updateDue; rw [h]
  dsimp only
  rw [if_pos (by rw [hl, hc]; rfl)]

theorem takes_act (s : State) (a : Activation) (h : s.service.fw.activation = some a) (x : FwEngine) :
    (s.takesEngine x).service.fw.activation = some { a with current := some x } := by
  show s.service.fw.activation.map _ = _
  rw [h]; rfl

theorem setEngine_get (s : State) (n m : Fin 12) (x : EngState) : (s.setEngine n x).engines.states[m] = if n = m then x else s.engines.states[m] :=
  set_get _ _ _ _

theorem records_alone (a b : Loop) (h : a.records = b.records) : a.alone = b.alone :=
  congrArg (fun r => r.2.2.2.2.2.2.1) h

theorem held_records (a b : FieldOutputs) (h : a.records = b.records) : a.held = b.held := congrArg (fun r => r.held) h

theorem supervise_rest (s : State) : s.supervise.engines = s.engines ∧ s.supervise.loop.supvStopped = s.loop.supvStopped
    ∧ s.supervise.loop.alone = s.loop.alone ∧ s.supervise.outs.held = s.outs.held ∧ s.supervise.service.fw = s.service.fw := by
  have h := State.supervise_settles s
  exact ⟨supervise_engines s, records_stopped _ _ h.loop, records_alone _ _ h.loop, held_records _ _ h.outs, supervise_fw s⟩

theorem event_config (s : State) (a b) : (s.event a b).config = s.config := rfl

theorem fresh_config (s : State) : s.fresh.config = s.config := rfl

theorem swaps_config (s : State) (m : Commit) : (s.swaps m).config = s.config.swap s.now := by
  have h1 : s.swapModel.config = s.config.swap s.now := by
    unfold State.swapModel
    extract_lets old power s1
    have k1 : ∀ (l : List DoorIx) (v : State), (l.foldl (State.swapDoor old s1.cfg) v).config = v.config := by
      intro l
      induction l with
      | nil => exact fun _ => rfl
      | cons x l ih => exact fun v => (ih _).trans ((State.swapDoor_keeps (Within.refl _) (Keeps.refl _ v) old s1.cfg x).only .config (by decide))
    have k2 : ((doorways.foldl (State.swapDoor old s1.cfg) s1).swapDomains power).config = s.config.swap s.now :=
      ((State.swapDomains_keeps (Within.refl _) (Keeps.refl _ _) power).only .config (by decide)).trans (k1 _ _)
    generalize (doorways.foldl (State.swapDoor old s1.cfg) s1).swapDomains power = v at k2
    have k3 : ∀ (n : Cfg) (l : List SessIx) (w : State), w.config = s.config.swap s.now →
        (l.foldl (fun s i => if old.sessTransport i ≠ n.sessTransport i ∨ old.sessSource i ≠ n.sessSource i
          ∨ old.sessAuthRequired i ≠ n.sessAuthRequired i then s.closeSession i false else s) w).config = s.config.swap s.now := by
      intro n l
      induction l with
      | nil => exact fun _ h => h
      | cons x l ih =>
        intro w hw
        refine ih _ ?_
        dsimp only
        split
        · unfold State.closeSession
          split
          · exact hw
          · show w.config.sessionClosed x = _
            rw [hw]; rfl
        · exact hw
    exact k3 _ _ _ k2
  unfold State.swaps
  extract_lets s1 e s2 s3
  have h2 : s1.config = s.config.swap s.now := ((State.swapRest_keeps (Within.refl _) (Keeps.refl _ s.swapModel)).only .config (by decide)).trans h1
  have h3 : s3.config = s2.config := (State.complete_keeps (Within.refl _) (Keeps.refl _ s2) _ _ _ _).only .config (by decide)
  have h4 : s3.supervise.config = s3.config := (State.supervise_keeps (Within.refl _) (Keeps.refl _ s3)).only .config (by decide)
  have h5 : s2.config = s1.config := event_config _ _ _
  exact (fresh_config _).trans (h4.trans (h3.trans (h5.trans h2)))

theorem powerLost_fw (s : State) : s.powerLost.service.fw = { s.service.fw with activation := none, stager := none } := rfl

theorem restarts_out (s : State) (a : Activation) (hs : s.atSafePoint = true) (hc : s.config.commit = none) (ha : s.service.fw.activation = some a)
    (hl : a.live = false) (hr : a.rolling = none) : s.safePoint = s.activated.powerLost := by
  unfold State.safePoint
  rw [if_neg (by rw [hs]; decide), hc]
  show s.activationRestarts = _
  unfold State.activationRestarts
  rw [ha]
  show (if _ then _ else _) = _
  rw [if_neg (by rw [hl, hr, hs]; decide)]

theorem applyFx_idle (d : DoorIx) (s : State) (x : DoorFx) (h : s.service.selftest = none) : (s.applyFx d x).service.selftest = none := by
  cases x with
  | event c p => exact h
  | incident c step =>
    exact (congrArg Service.selftest ((State.incident_keeps (Within.refl _) (Keeps.refl _ s) c false (some d) (some (if step then stepDrive d else doorDrive d)) false false).only .service (by decide))).trans h
  | cycleRecord c st => exact (congrArg Service.selftest ((State.stage_keeps (Within.refl _) (Keeps.refl _ s) _ _).only .service (by decide))).trans h
  | flush => exact h
  | releaseBlocked => exact h
  | pulse => exact h
  | tripsEnd => exact h
  | maintEnd m o r =>
    show (s.maintEnds d m o r).service.selftest = none
    unfold State.maintEnds
    dsimp only
    split
    · rw [complete_service]; exact h
    · rw [complete_service]; exact h
    · rw [complete_service]; exact h
    · exact h
    · show s.service.selftest.map _ = none
      rw [h]; rfl

theorem runDoor_idle (s : State) (d : DoorIx) (f : DoorEnv → Work → Work) (h : s.service.selftest = none) : (s.runDoor d f).service.selftest = none := by
  unfold State.runDoor
  split
  · exact h
  · dsimp only
    generalize f (s.doorEnv d) ⟨s.doors[d], []⟩ = w
    have h1 : ∀ (l : List DoorFx) (t : State), t.service.selftest = none → (l.foldl (State.applyFx d) t).service.selftest = none := by
      intro l
      induction l with
      | nil => exact fun _ h => h
      | cons x l ih => exact fun t ht => ih _ (applyFx_idle d t x ht)
    have h2 : ∀ t : State, (((t.followDoor d).egressRows d).evaluate).fresh.service = t.service := by
      intro t
      have k1 := State.followDoor_keeps (Within.refl _) (Keeps.refl _ t) d
      have k2 := State.egressRows_keeps (Within.refl _) (Keeps.refl _ (t.followDoor d)) d
      have k3 := State.evaluate_keeps (Within.refl _) (Keeps.refl _ ((t.followDoor d).egressRows d))
      exact (k3.only .service (by decide)).trans ((k2.only .service (by decide)).trans (k1.only .service (by decide)))
    rw [h2]
    exact h1 _ _ h

theorem legFails_idle (s : State) (p : Fin 4) (l : Fin 14) (n : Nat) (h : s.service.selftest = none) : (s.legFails p l n).service.selftest = none := by
  unfold State.legFails
  extract_lets b r early s1
  have h1 : s1.service.selftest = none := h
  split
  · exact runDoor_idle _ _ _ h1
  · unfold State.driveTrips
    refine runDoor_idle _ _ _ ?_
    exact (congrArg Service.selftest ((State.tripRows_keeps (Within.refl _) (Keeps.refl _ s1) r true).only .service (by decide))).trans h1

theorem selftest_foldl {α : Type} (l : List α) {f : State → α → State} (hf : ∀ t x, t.service.selftest = none → (f t x).service.selftest = none) :
    ∀ {t : State}, t.service.selftest = none → (l.foldl f t).service.selftest = none := by
  induction l with
  | nil => exact fun h => h
  | cons x l ih => exact fun h => ih (hf _ x h)

theorem selftestEnds_out (s : State) (q : SelfTest) (hq : s.service.selftest = some q) (outcome : Nat) (legs : List (Fin 4 × Fin 14)) (latency : Nat) :
    ∃ (v : State) (f : Nat) (l : List Byte), s.selftestEnds outcome legs latency
        = (({ v with service := { v.service with testLast := v.now, testFailed := f } } : State).complete q.handle (if q.aborted then stAborted else stDone) 0 l).fresh
      ∧ v.service.selftest = none ∧ v.now = s.now
      ∧ ((∀ d : DoorIx, q.doors[d] = false) → bitOf q.tests 5 = false →
          f = bitWord [false, false, bitOf q.tests 2 && bitOf outcome 2, bitOf q.tests 3 && !s.service.fw.banksPass, bitOf q.tests 4 && bitOf outcome 4, false]
          ∧ v.fcp = s.fcp) := by
  unfold State.selftestEnds
  split
  · rename_i h; rw [hq] at h; cases h
  rename_i t h
  rw [hq] at h; injection h with h; subst h
  extract_lets tested sv s1 s2 before any lg hit s3 newly cart s4 run bad failed s5
  have n1 : s1.service.selftest = none := rfl
  have n2 : s2.service.selftest = none := selftest_foldl _ (fun t x ht => runDoor_idle t x _ ht) n1
  have n3 : s3.service.selftest = none := by
    show (if lg = true then _ else _ : State).service.selftest = none
    split
    · exact selftest_foldl _ (fun t x ht => legFails_idle t x.1 x.2 0 ht) n2
    · exact n2
  have km := (State.measuresFreely_keeps (Within.refl _) (Keeps.refl _ s3))
  have n4 : s4.service.selftest = none := by
    show (if cart = true then _ else _ : State).service.selftest = none
    split
    · rw [km.only .service (by decide)]; exact n3
    · exact n3
  have kf : ∀ {α : Type} (l : List α) (f : State → α → State) (hf : ∀ t x, (f t x).now = t.now) (v : State), (l.foldl f v).now = v.now := by
    intro α l f hf
    induction l with
    | nil => exact fun _ => rfl
    | cons x l ih => exact fun v => (ih _).trans (hf v x)
  have m2 : s2.now = s.now := (kf tested _ (fun t x => (State.runDoor_keeps (Within.refl _) (Keeps.refl _ t) x endTest).only .now (by decide)) s1).trans rfl
  have m3 : s3.now = s2.now := by
    show (if lg = true then _ else _ : State).now = _
    split
    · exact kf hit _ (fun t x => (State.legFails_keeps (Within.refl _) (Keeps.refl _ t) x.1 x.2 0).only .now (by decide)) s2
    · rfl
  have m4 : s4.now = s3.now := by
    show (if cart = true then _ else _ : State).now = _
    split
    · exact km.only .now (by decide)
    · rfl
  refine ⟨s4, failed, _, rfl, n4, m4.trans (m3.trans m2), fun hd h5 => ?_⟩
  have ht : tested = [] := List.filter_eq_nil_iff.mpr (fun d _ => by show ¬ q.doors[d] = true; rw [hd d]; decide)
  have hany : any = false := by show (!tested.isEmpty) = false; rw [ht]; rfl
  have hlg : lg = false := by show (bitOf q.tests 1 && any) = false; rw [hany, Bool.and_false]
  have hcart : cart = false := by show (bitOf q.tests 5 && _) = false; rw [h5]; rfl
  have e2 : s2 = s1 := by show tested.foldl _ s1 = s1; rw [ht]; rfl
  have e3 : s3 = s2 := by show (if lg = true then _ else _ : State) = _; rw [hlg]; rfl
  have e4 : s4 = s3 := by show (if cart = true then _ else _ : State) = _; rw [hcart]; rfl
  refine ⟨?_, by rw [e4, e3, e2]⟩
  have e5 : s4.service.fw = s.service.fw := by rw [e4, e3, e2]
  show bitWord [(bitOf q.tests 0 && any) && _, lg && _, bitOf q.tests 2 && bitOf outcome 2, bitOf q.tests 3 && !s4.service.fw.banksPass, bitOf q.tests 4 && bitOf outcome 4, cart && _] = _
  rw [hany, hlg, hcart, e5, Bool.and_false, Bool.false_and, Bool.false_and, Bool.false_and]

end Sys2Proof.Machine
end

