-- ==== Sys2Proof/Laws/ObjectWrites.lean ====
section
/-!
SUPPORT. Operations accepted, and the writes of objects (R421, R422).
-/

set_option linter.unusedVariables false
set_option linter.unusedSimpArgs false

namespace Sys2Proof.Machine

/-- An operation accepted: the reply, and what follows it. -/
theorem accepts_next {s : State} {h : Hdr} {i : SessIx} {q : Req} (k : s.Admits h i q) (ho : q.opcode ≠ 0x0101)
    {opcode : Nat} {kind : OpKind} {doors : Vector DoorOut 8} {next : Nat → State → State}
    (hq : q.act h i (s.admitted h i) = (s.admitted h i).accepts i opcode kind doors next) (hx : s.exhausted i = false) :
    ∃ v : State, v = { s with fcp := v.fcp } ∧ s.receive h q = (next s.fcp.nextHandle v).fresh ∧ v.Answered i h q (Answer.accepted s.fcp.nextHandle)
      ∧ (v.Hush (next s.fcp.nextHandle v) → (s.receive h q).Answered i h q (Answer.accepted s.fcp.nextHandle)) := by
  have hr := k.receive ho
  have hacc : (s.admitted h i).accepts i opcode kind doors next
      = { state := ((s.admitted h i).startOp i opcode kind doors).1, answer := some (Answer.accepted s.fcp.nextHandle)
          after := fun t => next s.fcp.nextHandle t } := by
    unfold State.accepts
    rw [if_neg (by show ¬ s.exhausted i = true; rw [hx]; decide)]
    rfl
  rw [hq, hacc] at hr
  dsimp only at hr
  obtain ⟨b1, _⟩ := (((s.admitted h i).startOp i opcode kind doors).1).answerStored_only h i q (Answer.accepted s.fcp.nextHandle) ho
  have hA := State.Answered.of_hush (a := Answer.accepted s.fcp.nextHandle) ho
    (State.Hush.refl ((((s.admitted h i).startOp i opcode kind doors).1).answerStored h i q (Answer.accepted s.fcp.nextHandle)))
  have hH : ∀ t : State, ((((s.admitted h i).startOp i opcode kind doors).1).answerStored h i q (Answer.accepted s.fcp.nextHandle)).Hush t →
      t.Answered i h q (Answer.accepted s.fcp.nextHandle) := fun t ht => State.Answered.of_hush ho ht
  have hu : ∃ u : State, u = ((s.admitted h i).startOp i opcode kind doors).1 ∧ u = { s with fcp := u.fcp } := ⟨_, rfl, rfl⟩
  obtain ⟨u, hu, hu2⟩ := hu
  rw [← hu] at b1 hr hA hH
  generalize hv : u.answerStored h i q (Answer.accepted s.fcp.nextHandle) = v at *
  refine ⟨v, ?_, hr, hA, fun hh => ?_⟩
  · rw [b1, hu2]
  · rw [hr]
    exact hH _ (hh.trans (.of_fcp rfl))

theorem own_none {s : State} {h : Hdr} {i : SessIx} (ht : h.takeover = false) : s.own h i 0 = (s, fun _ => none) := by
  unfold State.own
  rw [ht]
  simp only [Bool.false_eq_true, if_false]
  congr 1
  funext x
  simp [bitOf]

theorem findNone : doorways.findSome? (fun _ : DoorIx => (none : Option Nat)) = none := by decide

/-- A write that step 12 lets pass. -/
theorem objWrite_is {s : State} {h : Hdr} {i : SessIx} {index sub : Nat} {b : List Byte} (ho : s.own h i (ownerMask s.cfg index) = (s, fun _ => none)) :
    (∀ x, s.objRefusal index sub b = some x → s.objWrite h i index sub b = s.answers (Answer.refused x)) ∧
    (s.objRefusal index sub b = none → s.objWrite h i index sub b =
      { state := s.writeObj index sub b, answer := some (Answer.done []), after := fun t => if s.service.keyUnset && index == 0x1050 && sub == 5 then t.closeSession 4 false else t }) := by
  refine ⟨fun x hx => ?_, fun hx => ?_⟩
  · unfold State.objWrite
    rw [ho]
    dsimp only
    rw [findNone]
    dsimp only
    rw [hx]
  · unfold State.objWrite
    rw [ho]
    dsimp only
    rw [findNone]
    dsimp only
    rw [hx]

theorem mod_refusal {s : State} {index sub : Nat} {b : List Byte} {o : Obj} (hi : index < 0x2000) (h : s.moduleObj index sub = some o)
    (hw : o.writable = true) (hl : b.length = o.bytes.length) : s.objRefusal index sub b = s.writeRefusal index sub b := by
  unfold State.objRefusal
  rw [if_neg (by omega)]
  have : s.obj index sub = some o := by
    unfold State.obj
    dsimp only
    rw [if_pos hi, h]
  rw [this]
  dsimp only
  rw [hw, if_neg (by decide), if_neg (by rw [hl]; simp)]

theorem ofLe_one (v : BitVec 8) : ofLe [v] = v.toNat := by unfold ofLe; simp [ofLe]


theorem records_discrepancy (a b : Loop) (h : a.records = b.records) : a.discrepancy = b.discrepancy ∧ a.persistent = b.persistent := by
  have h1 := congrArg (fun r => r.2.2.2.2.2.2.2.1) h
  exact ⟨congrArg (fun r => r.1) h1, congrArg (fun r => r.2.1) h1⟩

theorem discrepancyReset_out (u : State) : u.discrepancyReset.loop.discrepancy = false ∧ u.discrepancyReset.loop.persistent = false := by
  unfold State.discrepancyReset
  have hx : ∀ u : State, u.loop.discrepancy = false ∧ u.loop.persistent = false → u.supervise.loop.discrepancy = false ∧ u.supervise.loop.persistent = false := by
    intro u hu
    obtain ⟨h1, h2⟩ := records_discrepancy _ _ u.supervise_settles.loop
    exact ⟨h1.trans hu.1, h2.trans hu.2⟩
  have hl : ∀ (u : State) l, (u.loopEvents l).loop = u.loop := fun u l => (State.loopEvents_keeps (Within.refl _) (Keeps.refl _ u) l).only .loop (by decide)
  extract_lets was l1 s1
  have h1 : s1.loop.discrepancy = false ∧ s1.loop.persistent = false := ⟨rfl, rfl⟩
  clear_value s1 l1 was
  refine hx _ ?_
  split
  · rw [hl]; exact h1
  · exact h1

theorem write_disc (u : State) (sub : Nat) (b : List Byte) : u.writeObj 0x1203 sub b = u.discrepancyReset := by
  unfold State.writeObj
  dsimp only
  rw [dif_neg (by decide), dif_neg (by decide), dif_neg (by decide), dif_neg (by decide), dif_neg (by decide), dif_neg (by decide)]
  rfl

theorem write_key (u : State) (sub : Nat) (b : List Byte) :
    u.writeObj 0x1050 sub b = { u with service := { u.service with keys := u.service.keys.set (Fin.ofNat 5 (sub - 1)).val b } } := by
  unfold State.writeObj
  dsimp only
  rw [dif_neg (by decide), dif_neg (by decide), dif_neg (by decide), dif_neg (by decide), dif_neg (by decide), dif_neg (by decide)]
  rfl

theorem write_own_key (u : State) (n : Fin 5) (b : List Byte) :
    u.writeObj 0x1050 (n.val + 1) b = { u with service := { u.service with keys := u.service.keys.set n.val b } } := by
  rw [write_key]
  match n with
  | ⟨0, _⟩ => rfl
  | ⟨1, _⟩ => rfl
  | ⟨2, _⟩ => rfl
  | ⟨3, _⟩ => rfl
  | ⟨4, _⟩ => rfl

theorem write_restart (u : State) (ch : CanIx) (b : List Byte) : u.writeObj (0x5100 + ch.val) 0x40 b = { u with can := u.can.channel ch CanChannel.restart } := by
  have h0 : u.writeObj 0x5100 0x40 b = { u with can := u.can.channel 0 CanChannel.restart } := by
    unfold State.writeObj
    dsimp only
    rw [dif_neg (by decide), dif_neg (by decide), dif_neg (by decide), dif_neg (by decide), dif_neg (by decide), dif_neg (by decide)]
    rfl
  have h1 : u.writeObj 0x5101 0x40 b = { u with can := u.can.channel 1 CanChannel.restart } := by
    unfold State.writeObj
    dsimp only
    rw [dif_neg (by decide), dif_neg (by decide), dif_neg (by decide), dif_neg (by decide), dif_neg (by decide), dif_neg (by decide)]
    rfl
  match ch with
  | ⟨0, _⟩ => exact h0
  | ⟨1, _⟩ => exact h1

/-- The write of an object that closes no session. -/
theorem writes_plain {s : State} {h : Hdr} {i : SessIx} {p : List Byte} {index sub : Nat} {b : List Byte} (k : s.Admits h i (Req.objWrite p index sub b))
    (hn : index ≠ 0x1050 ∨ sub ≠ 5 ∨ s.service.keyUnset = false)
    (ho : (s.admitted h i).own h i (ownerMask (s.admitted h i).cfg index) = (s.admitted h i, fun _ => none))
    (hx : (s.admitted h i).objRefusal index sub b = none) :
    ∃ t, s.receive h (Req.objWrite p index sub b) = t ∧ t.Answered i h (Req.objWrite p index sub b) (Answer.done [])
      ∧ ∀ {α : Type} (f : State → α), (∀ (u : State) p, f { u with fcp := p } = f u) → (∀ u : State, f u.fresh = f u) → f t = f ((s.admitted h i).writeObj index sub b) := by
  have hact := (objWrite_is (s := s.admitted h i) (h := h) (i := i) (index := index) (sub := sub) (b := b) ho).2 hx
  have hc : ((s.admitted h i).service.keyUnset && index == 0x1050 && sub == 5) = false := by
    rcases hn with hn | hn | hn
    · rw [beq_eq_false_iff_ne.mpr hn]; simp
    · rw [beq_eq_false_iff_ne.mpr hn]; simp
    · have : (s.admitted h i).service.keyUnset = false := hn
      rw [this]; simp
  rw [hc] at hact
  obtain ⟨h1, h2⟩ := k.answers (u := (s.admitted h i).writeObj index sub b) nofun hact
  have hst := (State.answerStored_only ((s.admitted h i).writeObj index sub b) h i (Req.objWrite p index sub b) (Answer.done []) nofun).1
  refine ⟨_, h1, h2, fun f hf hg => ?_⟩
  rw [hg, hst, hf]

/-- A write that is refused. -/
theorem writes_refused {s : State} {h : Hdr} {i : SessIx} {p : List Byte} {index sub : Nat} {b : List Byte} (k : s.Admits h i (Req.objWrite p index sub b))
    (ho : (s.admitted h i).own h i (ownerMask (s.admitted h i).cfg index) = (s.admitted h i, fun _ => none)) {x : Nat}
    (hx : (s.admitted h i).objRefusal index sub b = some x) :
    ∃ t, s.receive h (Req.objWrite p index sub b) = t ∧ s.Unmoved t ∧ t.Answered i h (Req.objWrite p index sub b) (Answer.refused x) := by
  obtain ⟨h1, h2⟩ := k.reads nofun ((objWrite_is (s := s.admitted h i) (h := h) (i := i) (index := index) (sub := sub) (b := b) ho).1 x hx)
  exact ⟨_, rfl, h2, h1⟩

theorem any_write {s : State} {h : Hdr} {i : SessIx} (ht : h.takeover = false) (index : BitVec 16) (sub : BitVec 8) (value : List Byte) (q : Req)
    (hq : q = Req.objWrite (objParams index.toNat sub.toNat value) index.toNat sub.toNat value) (k : s.Admits h i q) (hm : ownerMask s.cfg index.toNat = 0) :
      (∀ x, (s.admitted h i).objRefusal index.toNat sub.toNat value = some x →
        ∃ t, exec (.objWrite h index sub value) s = .next t ∧ s.Unmoved t ∧ t.Answered i h q (Answer.refused x)) ∧
      ((s.admitted h i).objRefusal index.toNat sub.toNat value = none → index ≠ 0x1203 → index ≠ 0x1050 →
        ∃ t, exec (.objWrite h index sub value) s = .next t ∧ t.Answered i h q (Answer.done [])
          ∧ (∀ m : Fin 64, index.toNat = 0x5300 + m.val → t.can.objects[m].data = value)
          ∧ (∀ n : Nat, n < 16 → index.toNat = 0x4200 + n →
              t.outs.tripSeen = if bitOf (ofLe value) 5 = true then setBit s.outs.tripSeen n false else s.outs.tripSeen)
          ∧ (index = 0x6001 → t.log.overrunSeen = (s.log.overrunSeen && !bitOf (ofLe value) 6)
              ∧ t.log.powerFailSeen = (s.log.powerFailSeen && !bitOf (ofLe value) 7))
          ∧ (index = 0x7001 → t.power.keepLost = (s.power.keepLost && !bitOf (ofLe value) 8))) := by
  subst hq
  have ho : (s.admitted h i).own h i (ownerMask (s.admitted h i).cfg index.toNat) = (s.admitted h i, fun _ => none) := by
    have : ownerMask (s.admitted h i).cfg index.toNat = 0 := hm
    rw [this]; exact own_none ht
  refine ⟨fun x hx => ?_, fun hx n1 n2 => ?_⟩
  · obtain ⟨t, h1, h2, h3⟩ := writes_refused k ho hx
    exact ⟨t, congrArg Host.Outcome.next h1, h2, h3⟩
  · obtain ⟨t, h1, h2, h3⟩ := writes_plain k (.inl (fun e => n2 (BitVec.eq_of_toNat_eq e))) ho hx
    have ha : (s.admitted h i).can = s.can ∧ (s.admitted h i).outs = s.outs ∧ (s.admitted h i).log = s.log ∧ (s.admitted h i).power = s.power := ⟨rfl, rfl, rfl, rfl⟩
    generalize s.admitted h i = u at *
    refine ⟨t, congrArg Host.Outcome.next h1, h2, fun m hi => ?_, fun n hn hi => ?_, fun hi => ?_, fun hi => ?_⟩
    · refine (h3 (fun u => u.can.objects[m].data) (fun _ _ => rfl) (fun _ => rfl)).trans ?_
      unfold State.writeObj
      dsimp only
      rw [dif_neg (by omega), dif_neg (by omega), dif_neg (by omega), dif_neg (by omega), dif_pos (by omega)]
      have : (⟨index.toNat - 0x5300, by omega⟩ : Fin 64) = m := Fin.ext (by show index.toNat - 0x5300 = m.val; omega)
      rw [this]
      unfold Can.object
      dsimp only
      rw [set_get, if_pos rfl]
    · refine (h3 (fun u => u.outs.tripSeen) (fun _ _ => rfl) (fun _ => rfl)).trans ?_
      unfold State.writeObj
      dsimp only
      rw [dif_neg (by omega), dif_neg (by omega), dif_neg (by omega), dif_pos (by omega)]
      have : index.toNat - 0x4200 = n := by omega
      rw [this, ← ha.2.1]
      split <;> rfl
    · subst hi
      rw [← ha.2.2.1]
      exact ⟨(h3 (fun u => u.log.overrunSeen) (fun _ _ => rfl) (fun _ => rfl)).trans rfl, (h3 (fun u => u.log.powerFailSeen) (fun _ _ => rfl) (fun _ => rfl)).trans rfl⟩
    · subst hi
      rw [← ha.2.2.2]
      exact (h3 (fun u => u.power.keepLost) (fun _ _ => rfl) (fun _ => rfl)).trans rfl

end Sys2Proof.Machine
end

