-- ==== Sys2Proof/Laws/Acknowledgements.lean ====
section
/-!
SUPPORT. LOG_ACK, and the start of an entry to a power mode (R520, R539).
-/

set_option linter.unusedVariables false
set_option linter.unusedSimpArgs false

namespace Sys2Proof.Machine

theorem ack_skips (r : Recorder) (c : Cfg) (now upTo : Nat) (h : upTo ≤ r.ackRseq) : r.ack c now upTo = (r, []) := if_pos h

theorem marker_staged (r : Recorder) (c : Cfg) (now : Nat) (b : Nat → List Byte) (h : r.stopped = false) :
    (r.stage c now false b).1.ackRseq = r.ackRseq ∧ (r.stage c now false b).1.acks = r.acks ∧ (r.gap = 0 → (r.stage c now false b).1.gap = 0)
      ∧ (r.stagedBytes + 64 ≤ 262144 → (r.stage c now false b).1.nextRseq = r.nextRseq + 1 ∧ (r.stage c now false b).1.log = r.log ++ [(r.nextRseq, b r.nextRseq)]) := by
  unfold Recorder.stage
  extract_lets lose src r1 r2 w r3 r4
  rw [if_neg (by rw [h]; decide)]
  have hl : lose r = r := if_neg (by decide)
  by_cases hs : 262144 < r.stagedBytes + 64
  · rw [if_pos hs, hl]
    refine ⟨?_, ?_, fun hg => ?_, fun hx => absurd hx (by omega)⟩ <;> (unfold Recorder.overrun; dsimp only; split <;> first | rfl | exact hg)
  · rw [if_neg hs]
    have h2 : r2.ackRseq = r1.ackRseq ∧ r2.acks = r1.acks ∧ r2.gap = r1.gap ∧ r2.nextRseq = r1.nextRseq ∧ r2.log = r1.log := by
      show r1.fillTrigger.ackRseq = _ ∧ r1.fillTrigger.acks = _ ∧ r1.fillTrigger.gap = _ ∧ r1.fillTrigger.nextRseq = _ ∧ r1.fillTrigger.log = _
      unfold Recorder.fillTrigger
      split <;> exact ⟨rfl, rfl, rfl, rfl, rfl⟩
    have h3 : r3.ackRseq = r2.ackRseq ∧ r3.acks = r2.acks ∧ r3.gap = r2.gap ∧ r3.nextRseq = r2.nextRseq ∧ r3.log = r2.log := ⟨rfl, rfl, rfl, rfl, rfl⟩
    have h4 : r4.ackRseq = r3.ackRseq ∧ r4.acks = r3.acks ∧ (r3.gap = 0 → r4.gap = 0) ∧ r4.nextRseq = r3.nextRseq ∧ r4.log = r3.log := by
      show (if _ then _ else _ : Recorder).ackRseq = _ ∧ (if _ then _ else _ : Recorder).acks = _ ∧ (_ → (if _ then _ else _ : Recorder).gap = 0) ∧ (if _ then _ else _ : Recorder).nextRseq = _ ∧ (if _ then _ else _ : Recorder).log = _
      split
      · exact ⟨rfl, rfl, fun _ => rfl, rfl, rfl⟩
      · exact ⟨rfl, rfl, id, rfl, rfl⟩
    have h1 : r1.ackRseq = r.ackRseq ∧ r1.acks = r.acks ∧ r1.gap = r.gap ∧ r1.nextRseq = r.nextRseq + 1 ∧ r1.log = r.log ++ [(r.nextRseq, b r.nextRseq)] := ⟨rfl, rfl, rfl, rfl, rfl⟩
    clear_value r1 r2 r3 r4 w src
    obtain ⟨a1, a2, a3, a4, a5⟩ := h1
    obtain ⟨b1, b2, b3, b4, b5⟩ := h2
    obtain ⟨c1, c2, c3, c4, c5⟩ := h3
    obtain ⟨d1, d2, d3, d4, d5⟩ := h4
    refine ⟨d1.trans (c1.trans (b1.trans a1)), d2.trans (c2.trans (b2.trans a2)), fun hg => d3 (c3.trans (b3.trans (a3.trans hg))), fun _ => ⟨d4.trans (c4.trans (b4.trans a4)), d5.trans (c5.trans (b5.trans a5))⟩⟩

theorem ack_moves (r : Recorder) (c : Cfg) (now upTo : Nat) (h : r.ackRseq < upTo) :
    (r.ack c now upTo).1.ackRseq = upTo ∧ (r.ack c now upTo).1.acks = satInc 32 r.acks
      ∧ (r.stopped = false → (r.ack c now upTo).1.stopped = false ∧ (r.ack c now upTo).1.nextRseq = r.nextRseq
        ∧ (r.ack c now upTo).1.log = r.log.filter (fun x => decide (upTo ≤ x.1)))
      ∧ (r.stopped = true → (r.ack c now upTo).1.gap = 0 ∧ (r.stagedBytes + 64 ≤ 262144 → (r.ack c now upTo).1.nextRseq = r.nextRseq + 1
        ∧ (r.ack c now upTo).1.log = r.log.filter (fun x => decide (upTo ≤ x.1)) ++ [(r.nextRseq, markerBytes now r.nextRseq 9 (le 4 r.gap))])) := by
  unfold Recorder.ack
  rw [if_neg (by omega)]
  extract_lets r1 r2 lost m
  have h2 : r2.ackRseq = upTo ∧ r2.acks = satInc 32 r.acks ∧ r2.stopped = r.stopped ∧ r2.nextRseq = r.nextRseq ∧ r2.gap = r.gap
      ∧ r2.log = r.log.filter (fun x => decide (upTo ≤ x.1)) ∧ r2.staged = r.staged.filter (fun n => decide (upTo ≤ n)) ∧ r2.stagedInc = r.stagedInc := ⟨rfl, rfl, rfl, rfl, rfl, rfl, rfl, rfl⟩
  have hm : ∃ r3 : Recorder, r3 = { r2 with stopped := false, gap := 0 } ∧ m = r3.stage c now false (fun n => markerBytes now n 9 (le 4 lost)) := ⟨_, rfl, rfl⟩
  obtain ⟨r3, h3, hm⟩ := hm
  have hlost : lost = r2.gap := rfl
  clear_value r1 r2 m lost
  obtain ⟨a1, a2, a3, a4, a5, a6, a7, a8⟩ := h2
  by_cases hs : r2.stopped = true
  · rw [if_pos hs]
    obtain ⟨m1, m2, m3, m4⟩ := marker_staged r3 c now (fun n => markerBytes now n 9 (le 4 lost)) (by rw [h3])
    rw [← hm] at m1 m2 m3 m4
    refine ⟨m1.trans (by rw [h3]; exact a1), m2.trans (by rw [h3]; exact a2), fun hx => ?_, fun _ => ⟨m3 (by rw [h3]), fun hb => ?_⟩⟩
    · rw [← a3, hs] at hx; cases hx
    · have hle : r3.stagedBytes ≤ r.stagedBytes := by
        rw [h3]
        show 64 * r2.staged.length + 16384 * r2.stagedInc.length ≤ 64 * r.staged.length + 16384 * r.stagedInc.length
        rw [a7, a8]
        have := List.length_filter_le (fun n => decide (upTo ≤ n)) r.staged
        omega
      obtain ⟨m5, m6⟩ := m4 (by omega)
      refine ⟨m5.trans (by rw [h3]; exact congrArg (· + 1) a4), m6.trans ?_⟩
      rw [h3]
      show r2.log ++ [(r2.nextRseq, markerBytes now r2.nextRseq 9 (le 4 lost))] = _
      rw [a6, a4, hlost, a5]
  · rw [if_neg hs]
    have hf : r.stopped = false := by
      cases hx : r.stopped
      · rfl
      · exact absurd (a3.trans hx) hs
    exact ⟨a1, a2, fun _ => ⟨a3.trans hf, a4, a6⟩, fun hx => by rw [hf] at hx; cases hx⟩

theorem takeLog_hush (s : State) (r : Recorder × Events) : s.Hush (s.takeLog r) :=
  State.Hush.trans (t := { s with log := r.1 }) (.of_fcp rfl) (State.events_hush _ _)

theorem entryStarts_out (s : State) (i : SessIx) (m : PwrMode) (wakeAt handle : Nat) :
    (s.entryStarts i m wakeAt handle).power = { s.power with wakeAt := wakeAt, latched := 0, entry := some {
      handle := handle, session := i, target := m, started := s.mono, appRan := s.engines.app.state == .running, aborted := false } }
    ∧ s.Hush (s.entryStarts i m wakeAt handle) := by
  unfold State.entryStarts
  extract_lets n s1 s2 s3
  have h1 : s1.power = { s.power with wakeAt := wakeAt, latched := 0, entry := some n } ∧ s1.fcp = s.fcp := ⟨rfl, rfl⟩
  have h2 : s2.power = s1.power ∧ s1.Hush s2 := ⟨rfl, State.event_hush _ _ _⟩
  have h3 : s3.power = s2.power ∧ s3.fcp = s2.fcp := ⟨rfl, rfl⟩
  clear_value s1 s2 s3
  have h4 : ∀ (l : List DoorIx) (t : State), (l.foldl (fun s d => s.runDoor d parkAtDetent) t).power = t.power := by
    intro l
    induction l with
    | nil => exact fun _ => rfl
    | cons x l ih => exact fun t => (ih _).trans ((State.runDoor_keeps (Within.refl _) (Keeps.refl _ t) x parkAtDetent).only .power (by decide))
  have hp : s3.power = { s.power with wakeAt := wakeAt, latched := 0, entry := some n } := h3.1.trans (h2.1.trans h1.1)
  have hh : s.Hush s3 := (State.Hush.of_fcp h1.2).trans (h2.2.trans (.of_fcp h3.2))
  split
  · exact ⟨(h4 _ _).trans hp, hh.trans (State.Hush.foldl doorways (fun t d => t.runDoor_hush d parkAtDetent) (.refl s3))⟩
  · exact ⟨hp, hh⟩

end Sys2Proof.Machine
end

