-- ==== Sys2Proof/Laws/DriveStops.lean ====
section
/-!
SUPPORT. How drives and doorways stop: interruptions, substitutions and Quince's clock.
-/

set_option linter.unusedVariables false
set_option linter.unusedSimpArgs false

namespace Sys2Proof.Machine

theorem stopsHere_of {m : DoorSm} (h : m.state = .opening ∨ m.state = .reopening ∨ m.state = .closing ∧ m.phase ≠ .lock) :
    stopsHere m.state m.phase = true := by
  rcases h with h | h | ⟨h, h2⟩ <;> rw [h] <;> simp [stopsHere]
  exact h2

theorem gen_door {s : State} {r : DriveIx} (h : isStep r = false) : s.gen r = (s.doors[doorOf r]).door.gen := by unfold State.gen; rw [h]; rfl
theorem gen_step {s : State} {r : DriveIx} (h : isStep r = true) : s.gen r = (s.doors[doorOf r]).step.gen := by unfold State.gen; rw [h]; rfl

theorem filter_gone {x : Interruption} {l : List Interruption} : x ∉ l.filter (· != x) := fun h => by
  have := (List.mem_filter.mp h).2; simp at this

theorem filter_stays {x y : Interruption} {l : List Interruption} (hy : y ≠ x) (hm : y ∈ l) : y ∈ l.filter (· != x) :=
  List.mem_filter.mpr ⟨hm, by simpa using hy⟩

theorem onEnd_is (e : DoorEnv) (st : Bool) (x : Interruption) (w : Work) (hj : st = true → w.dw.step.job = .none) :
    onInterruptionEnd e st x w = if causeEnds e st x w.dw then (if st then stepInterruptionEnds e x w else doorInterruptionEnds e x w) else w := by
  unfold onInterruptionEnd
  cases hc : causeEnds e st x w.dw
  · rfl
  · cases st
    · rfl
    · have h2 : ((stepInterruptionEnds e x w).dw.step.job == StepJob.none) = true := by
        show (w.dw.step.job == StepJob.none) = true
        rw [hj rfl]; rfl
      unfold stepRegains
      simp [h2]

theorem enterFault_notHalted (e : DoorEnv) (w : Work) (he : (w.dw.door.gen.energised || w.dw.step.gen.energised) = true)
    (h1 : w.dw.sm.state ≠ .fault) (h2 : w.dw.sm.state ≠ .egress) (h3 : w.dw.sm.state ≠ .isolated) :
    (onClockFault e w).Is .fault .none .faultDrive := by
  unfold onClockFault
  have h0 : (!w.dw.door.gen.energised && !w.dw.step.gen.energised) = false := by
    cases hq : w.dw.door.gen.energised <;> cases hr : w.dw.step.gen.energised <;> rw [hq, hr] at he <;> simp at he ⊢
  rw [if_neg (by rw [h0]; decide)]
  dsimp only
  generalize hv : (if w.dw.step.gen.energised = true then stepTorqueRemoved e w else w) = v
  have hs : v.dw.sm = w.dw.sm := by
    rw [← hv]; split
    · exact (stepTorqueRemoved_parts e w).2.1
    · rfl
  split
  · rename_i h; rw [hs] at h; exact absurd h h1
  · rename_i h; rw [hs] at h; exact absurd h h2
  · rename_i h; rw [hs] at h; exact absurd h h3
  · exact enterFault_is e _ _

theorem setBit_own (w : BitVec 16) (r : DriveIx) (b : Bool) : (setBit w r.val b).getLsbD r.val = b := by
  rw [setBit_get w r.val r.val b r.isLt]; simp

theorem doorways_all : ∀ d : DoorIx, d ∈ doorways := by decide

theorem dcLinkOut_eq (s : State) (high : Bool) (hp : s.power.on 9 = true) : s.dcLinkOut high
    = (((s.onPower (fun p => { p with dcLink := Config.measured .dcLink s.free })).setLevel (if high then 60 else 59) true).interruptDrives
        (if high then .dcHigh else .dcLow)).fresh := by
  unfold State.dcLinkOut
  rw [hp]
  rfl

end Sys2Proof.Machine
end

