-- ==== Sys2Proof/Laws/FirmwareStages.lean ====
section
/-!
SUPPORT. Staging and verification of firmware.
-/

set_option linter.unusedVariables false
set_option linter.unusedSimpArgs false

namespace Sys2Proof.Machine

theorem fwStage_act (p : List Byte) (offset flags : Nat) (block : List Byte) (h : Hdr) (i : SessIx) (u : State) : ∀ x,
    u.service.fw.stageRefusal i u.mono offset block.length (bitOf flags 0) = x →
    (Req.fwStage p offset flags block).act h i u = match x with
      | some x => u.answers (Answer.refused x)
      | none =>
        if u.service.fw.activation.isSome then u.answers (Answer.busy 0x4A)
        else if bitOf flags 1 then (u.onFw (fun f => f.stage i u.mono (bitOf flags 0) block)).stageLast
        else (u.onFw (fun f => f.stage i u.mono (bitOf flags 0) block)).answers (Answer.done (le 4 (u.service.fw.stage i u.mono (bitOf flags 0) block).stagedBytes)) := by
  intro x hx
  subst hx
  rfl

theorem stage_out (f : Firmware) (i : SessIx) (mono : Nat) (first : Bool) (block : List Byte) (bytes : List Byte)
    (hb : bytes = (if first = true then [] else f.banks[f.other].bytes) ++ block) :
    (f.stage i mono first block).banks[f.other].bytes = bytes ∧ (f.stage i mono first block).stagedBytes = bytes.length
      ∧ (f.stage i mono first block).stager = some i ∧ (f.stage i mono first block).active = f.active
      ∧ (f.stage i mono first block).staged = (f.staged && !first) ∧ (f.stage i mono first block).floor = f.floor := by
  subst hb
  unfold Firmware.stage
  dsimp only
  refine ⟨?_, ?_, rfl, rfl, rfl, rfl⟩
  · rw [set_get, if_pos rfl]
  · rw [List.length_append]

theorem check_out (f : Firmware) (b : Fin 2) (hb : f.other = b) (bytes : List Byte) (h : f.banks[b].bytes = bytes) :
    (bytes.length < 256 ∨ Config.firmwareSigned bytes = false → f.check = (f, some 0x61)) ∧
    (256 ≤ bytes.length → Config.firmwareSigned bytes = true → (Config.firmwareVersion bytes).toNat < f.floor → f.check = (f, some 0x65)) ∧
    (256 ≤ bytes.length → Config.firmwareSigned bytes = true → f.floor ≤ (Config.firmwareVersion bytes).toNat →
      f.check.2 = none ∧ f.check.1.staged = true ∧ f.check.1.banks[b].valid = true ∧ f.check.1.banks[b].bytes = bytes
        ∧ f.check.1.banks[b].version = (Config.firmwareVersion bytes).toNat ∧ f.check.1.stagedBytes = f.stagedBytes
        ∧ f.check.1.stager = f.stager ∧ f.check.1.active = f.active) := by
  subst hb h
  unfold Firmware.check
  dsimp only
  refine ⟨fun hx => ?_, fun h1 h2 h3 => ?_, fun h1 h2 h3 => ?_⟩
  · rw [if_pos]
    rcases hx with hx | hx
    · rw [decide_eq_true hx]; rfl
    · rw [hx]; simp
  · rw [if_neg, if_pos h3]
    rw [h2, decide_eq_false (by omega)]; decide
  · rw [if_neg (by rw [h2, decide_eq_false (by omega)]; decide), if_neg (by omega)]
    refine ⟨rfl, rfl, ?_, ?_, ?_, rfl, rfl, rfl⟩ <;> rw [set_get, if_pos rfl]

theorem stageLast_is (u : State) (r : Firmware × Option Nat) (h : u.service.fw.check = r) :
    (∀ x, r.2 = some x → u.stageLast = u.answers (Answer.refused x)) ∧
    (r.2 = none → ∃ v : State, v.service.fw = r.1 ∧ u.stageLast = v.answers (Answer.done (le 4 r.1.stagedBytes))) := by
  subst h
  unfold State.stageLast
  dsimp only
  refine ⟨fun x hx => ?_, fun hx => ?_⟩
  · rw [hx]
  · rw [hx]
    exact ⟨_, rfl, rfl⟩

end Sys2Proof.Machine
end

