-- ==== Sys2Proof/Laws/KeepsPeriod.lean ====
section
/-!
SUPPORT. For every operation of Machine/Period.lean: the parts of State it may change, and that it keeps the invariant.
-/

set_option linter.unusedVariables false
set_option linter.unusedSimpArgs false

namespace Sys2Proof.Machine

theorem State.clocks_keeps {ps : List Part} {s0 s : State} (hw : Within [.now, .mono, .lsw, .outs, .power, .service]
    ps) (h : Keeps ps s0 s)  :
    Keeps ps s0 (State.clocks s) := by
  unfold State.clocks
  repeat' (first
    | (with_reducible assumption) | (with_reducible exact id) | (with_reducible refine Keeps.ite ?_ ?_)
    | rw [State.put_now_mono_lsw_outs_power_service] | (with_reducible refine Keeps.putNow (hw.of rfl) ?_)
    | (with_reducible refine Keeps.putMono (hw.of rfl) ?_) | (with_reducible refine Keeps.putLsw (hw.of rfl) ?_)
    | (with_reducible refine Keeps.putOuts (hw.of rfl) ?_) | (with_reducible refine Keeps.putPower (hw.of rfl) ?_)
    | (with_reducible refine Keeps.putService (hw.of rfl) ?_)
    | (with_reducible refine Keeps.foldl _ (fun _ _ _ => ?_) ?_) | intro _ | split | dsimp only)

theorem State.doorPasses_keeps {ps : List Part} {s0 s : State} (hw : Within [.free, .doors, .quince, .loop, .outs,
    .fcp, .log, .service] ps) (h : Keeps ps s0 s) (a2 : DoorIx) :
    Keeps ps s0 (State.doorPasses s a2) := by
  unfold State.doorPasses
  repeat' (first
    | (with_reducible assumption)
    | (with_reducible exact id)
    | (with_reducible refine State.runDoor_keeps (hw.of rfl) ?_ _ _)
    | (with_reducible refine State.changeDoor_keeps (hw.of rfl) ?_ _ _)
    | (with_reducible refine State.fresh_keeps (hw.of rfl) ?_)
    | (with_reducible refine Keeps.ite ?_ ?_)
    | (with_reducible refine Keeps.foldl _ (fun _ _ _ => ?_) ?_)
    | intro _
    | split
    | dsimp only)

theorem State.doorPeriods_keeps {ps : List Part} {s0 s : State} (hw : Within [.free, .doors, .quince, .loop, .outs,
    .fcp, .log, .service] ps) (h : Keeps ps s0 s) :
    Keeps ps s0 (State.doorPeriods s) := by
  unfold State.doorPeriods
  repeat' (first
    | (with_reducible assumption)
    | (with_reducible exact id)
    | (with_reducible refine State.doorPasses_keeps (hw.of rfl) ?_ _)
    | (with_reducible refine Keeps.ite ?_ ?_)
    | (with_reducible refine Keeps.foldl _ (fun _ _ _ => ?_) ?_)
    | intro _
    | split
    | dsimp only)

theorem State.millisecond_keeps {ps : List Part} {s0 s : State} (hw : Within [.half, .fcp, .log] ps) (h : Keeps ps s0
    s)  :
    Keeps ps s0 (State.millisecond s) := by
  unfold State.millisecond
  repeat' (first
    | (with_reducible assumption) | (with_reducible exact id)
    | (with_reducible refine State.takeLog_keeps (hw.of rfl) ?_ _) | (with_reducible refine Keeps.ite ?_ ?_)
    | rw [State.put_half] | (with_reducible refine Keeps.putHalf (hw.of rfl) ?_)
    | (with_reducible refine Keeps.foldl _ (fun _ _ _ => ?_) ?_) | intro _ | split | dsimp only)

theorem State.quinceRuns_keeps {ps : List Part} {s0 s : State} (hw : Within [.doors, .quince, .fcp, .log] ps) (h :
    Keeps ps s0 s) :
    Keeps ps s0 (State.quinceRuns s) := by
  unfold State.quinceRuns
  repeat' (first
    | (with_reducible assumption)
    | (with_reducible exact id)
    | (with_reducible refine State.quinceStarts_keeps (hw.of rfl) ?_)
    | (with_reducible refine Keeps.ite ?_ ?_)
    | rw [State.put_quince]
    | (with_reducible refine Keeps.putQuince (hw.of rfl) ?_)
    | (with_reducible refine Keeps.foldl _ (fun _ _ _ => ?_) ?_)
    | intro _
    | split
    | dsimp only)

theorem State.period_keeps {ps : List Part} {s0 s : State} (hw : Within [.free, .now, .mono, .half, .doors, .quince,
    .loop, .lsw, .outs, .fcp, .log, .power, .service] ps) (h : Keeps ps s0 s)  :
    Keeps ps s0 (State.period s) := by
  unfold State.period
  repeat' (first
    | (with_reducible assumption) | (with_reducible refine State.doorPeriods_keeps (hw.of rfl) ?_)
    | (with_reducible refine State.millisecond_keeps (hw.of rfl) ?_)
    | (with_reducible refine State.fresh_keeps (hw.of rfl) ?_)
    | (with_reducible refine State.clocks_keeps (hw.of rfl) ?_)
    | (with_reducible refine State.entryChecks_keeps (hw.of rfl) ?_)
    | (with_reducible refine State.evaluate_keeps (hw.of rfl) ?_)
    | (with_reducible refine State.quinceRuns_keeps (hw.of rfl) ?_)
    | (with_reducible refine State.bypassCheck_keeps (hw.of rfl) ?_) | (with_reducible refine Keeps.ite ?_ ?_)
    | (with_reducible refine Keeps.foldl _ (fun _ _ _ => ?_) ?_) | intro _ | split | dsimp only)

end Sys2Proof.Machine
end

