-- ==== Sys2Proof/Laws/LoadSwitches.lean ====
section
/-!
SUPPORT. The load switches: what a change of one channel, of a group or of the link leaves of every channel (chapter 7).
-/

namespace Sys2Proof.Machine

/-- A row at the controllers with FIELD_IO on leaves what the controllers' operation made. -/
theorem State.takeLsw_lsw (s : State) (f : LswEnv → LoadSwitches → LoadSwitches × Events) (h : s.fieldOn = true) :
    (s.takeLsw f).lsw = (f s.lswEnv s.lsw).1 := by
  have h1 : ∀ (t : State) (l : Events), (t.events l).evaluate.lsw = t.lsw := fun t l =>
    ((State.evaluate_keeps (Within.refl _) (Keeps.refl _ _)).only .lsw (by decide)).trans
      ((State.events_keeps (Within.refl _) (Keeps.refl _ t) l).only .lsw (by decide))
  unfold State.takeLsw
  rw [if_neg (by rw [h]; decide)]
  exact h1 { s with lsw := (f s.lswEnv s.lsw).1 } _

/-! ## One channel -/

theorem LoadSwitches.chan_self (s : LoadSwitches) (n : ChanIx) (f : Channel → Channel) : (s.chan n f).chans[n] = f s.chans[n] := by
  unfold LoadSwitches.chan; simp

theorem LoadSwitches.chan_other (s : LoadSwitches) {n m : ChanIx} (h : n ≠ m) (f : Channel → Channel) :
    (s.chan n f).chans[m] = s.chans[m] := by
  unfold LoadSwitches.chan
  have : n.val ≠ m.val := fun hx => h (Fin.ext hx)
  simp [this]

/-- Two states of the load switches whose channels agree in a view. -/
def LoadSwitches.Same {α : Type} (p : Channel → α) (s t : LoadSwitches) : Prop := ∀ m : ChanIx, p t.chans[m] = p s.chans[m]

theorem LoadSwitches.Same.refl {α : Type} (p : Channel → α) (s : LoadSwitches) : s.Same p s := fun _ => rfl

theorem LoadSwitches.Same.trans {α : Type} {p : Channel → α} {s t u : LoadSwitches} (h : s.Same p t) (k : t.Same p u) : s.Same p u :=
  fun m => (k m).trans (h m)

theorem LoadSwitches.chan_same {α : Type} (p : Channel → α) (s : LoadSwitches) (n : ChanIx) (f : Channel → Channel)
    (h : ∀ q, p (f q) = p q) : s.Same p (s.chan n f) := by
  intro m
  by_cases hm : n = m
  · subst hm; rw [LoadSwitches.chan_self]; exact h _
  · rw [LoadSwitches.chan_other s hm]

theorem LoadSwitches.each_same {α : Type} (p : Channel → α) (ns : List ChanIx) (f : Channel → Channel)
    (h : ∀ q, p (f q) = p q) (s : LoadSwitches) : s.Same p (s.each ns f) := by
  induction ns generalizing s with
  | nil => exact .refl p s
  | cons n ns ih => exact (s.chan_same p n f h).trans (ih (s.chan n f))

theorem LoadSwitches.each_link (ns : List ChanIx) (f : Channel → Channel) (s : LoadSwitches) : (s.each ns f).link = s.link := by
  induction ns generalizing s with
  | nil => rfl
  | cons n ns ih => exact ih (s.chan n f)

theorem LoadSwitches.Same.chan {α : Type} {p : Channel → α} {a s : LoadSwitches} (h : a.Same p s) (n : ChanIx) (f : Channel → Channel)
    (hf : ∀ q, p (f q) = p q) : a.Same p (s.chan n f) := h.trans (s.chan_same p n f hf)

theorem LoadSwitches.Same.each {α : Type} {p : Channel → α} {a s : LoadSwitches} (h : a.Same p s) (ns : List ChanIx) (f : Channel → Channel)
    (hf : ∀ q, p (f q) = p q) : a.Same p (s.each ns f) := h.trans (LoadSwitches.each_same p ns f hf s)

/-! ## Turning on and off -/

/-- What switching leaves alone of a channel. -/
def Channel.kept (q : Channel) : Option ChanCmd × Option Bool × ChanCmd × Bool × Bool × ChanDiag × Heater :=
  (q.override, q.flash, q.cmd, q.lockout, q.blocked, q.diag, q.heater)

theorem LoadSwitches.turnOn_same (s : LoadSwitches) (c : Cfg) (n : ChanIx) (b : Bool) : s.Same Channel.kept (s.turnOn c n b) :=
  ((LoadSwitches.Same.refl Channel.kept s).chan n (fun q => { q with on := true, inrush := true, extUsed := false, shortWindow := b })
    (fun _ => rfl)).each _ (fun q => { q with counters := { q.counters with onCount := satInc 32 q.counters.onCount } }) (fun _ => rfl)

theorem LoadSwitches.turnOn_link (s : LoadSwitches) (c : Cfg) (n : ChanIx) (b : Bool) : (s.turnOn c n b).link = s.link :=
  LoadSwitches.each_link _ _ _

theorem LoadSwitches.turnOn_self (s : LoadSwitches) (c : Cfg) (n : ChanIx) (b : Bool) :
    ((s.turnOn c n b).chans[n]).on = true ∧ ((s.turnOn c n b).chans[n]).inrush = true
      ∧ ((s.turnOn c n b).chans[n]).shortWindow = b ∧ ((s.turnOn c n b).chans[n]).retryWait = (s.chans[n]).retryWait
      ∧ ((s.turnOn c n b).chans[n]).retriesLeft = (s.chans[n]).retriesLeft := by
  have h := LoadSwitches.each_same (fun q : Channel => (q.on, q.inrush, q.shortWindow, q.retryWait, q.retriesLeft)) (membersOf c n)
    (fun q => { q with counters := { q.counters with onCount := satInc 32 q.counters.onCount } }) (fun _ => rfl)
    (s.chan n (fun q => { q with on := true, inrush := true, extUsed := false, shortWindow := b })) n
  have h2 := s.chan_self n (fun q => { q with on := true, inrush := true, extUsed := false, shortWindow := b })
  rw [h2] at h
  have h3 : ((fun q : Channel => (q.on, q.inrush, q.shortWindow, q.retryWait, q.retriesLeft)) (s.turnOn c n b).chans[n])
      = (true, true, b, (s.chans[n]).retryWait, (s.chans[n]).retriesLeft) := h
  exact ⟨congrArg (·.1) h3, congrArg (·.2.1) h3, congrArg (·.2.2.1) h3, congrArg (·.2.2.2.1) h3, congrArg (·.2.2.2.2) h3⟩

theorem LoadSwitches.follow_same (s : LoadSwitches) (c : Cfg) (n : ChanIx) (b : Bool) : s.Same Channel.kept (s.follow c n b) := by
  unfold LoadSwitches.follow
  dsimp only
  split
  · split
    · exact .refl _ s
    · exact s.turnOn_same c n false
  · split
    · refine LoadSwitches.Same.chan (LoadSwitches.Same.chan (LoadSwitches.Same.chan (.refl _ s) n _ ?_) n _ ?_) n _ ?_ <;> exact fun _ => rfl
    · refine LoadSwitches.Same.chan (.refl _ s) n _ ?_; exact fun _ => rfl

theorem LoadSwitches.follow_link (s : LoadSwitches) (c : Cfg) (n : ChanIx) (b : Bool) : (s.follow c n b).link = s.link := by
  unfold LoadSwitches.follow
  dsimp only
  split
  · split
    · rfl
    · exact s.turnOn_link c n false
  · split <;> rfl

/-- What following a demand leaves alone of a channel. -/
def Channel.told (q : Channel) : Option ChanCmd × Option Bool × ChanCmd × Bool × Bool × ChanDiag :=
  (q.override, q.flash, q.cmd, q.lockout, q.blocked, q.diag)

theorem LoadSwitches.Same.told {s t : LoadSwitches} (h : s.Same Channel.kept t) : s.Same Channel.told t := fun m =>
  congrArg (fun x : Option ChanCmd × Option Bool × ChanCmd × Bool × Bool × ChanDiag × Heater =>
    (x.1, x.2.1, x.2.2.1, x.2.2.2.1, x.2.2.2.2.1, x.2.2.2.2.2.1)) (h m)

theorem LoadSwitches.apply_same (s : LoadSwitches) (c : Cfg) (n : ChanIx) : s.Same Channel.told (s.apply c n) := by
  unfold LoadSwitches.apply
  split
  · refine LoadSwitches.Same.trans (LoadSwitches.Same.chan (.refl _ s) n _ ?_) (LoadSwitches.follow_same _ c n false).told; exact fun _ => rfl
  · refine LoadSwitches.Same.trans (LoadSwitches.Same.chan (.refl _ s) n _ ?_) (LoadSwitches.follow_same _ c n true).told; exact fun _ => rfl
  · exact (s.follow_same c n _).told

theorem LoadSwitches.apply_link (s : LoadSwitches) (c : Cfg) (n : ChanIx) : (s.apply c n).link = s.link := by
  unfold LoadSwitches.apply
  split <;> exact LoadSwitches.follow_link _ c n _

theorem LoadSwitches.applyList_same (c : Cfg) (l : List ChanIx) (s : LoadSwitches) :
    s.Same Channel.told (l.foldl (fun s n => s.apply c n) s) ∧ (l.foldl (fun s n => s.apply c n) s).link = s.link := by
  induction l generalizing s with
  | nil => exact ⟨.refl _ s, rfl⟩
  | cons n l ih => exact ⟨(s.apply_same c n).trans (ih (s.apply c n)).1, (ih (s.apply c n)).2.trans (s.apply_link c n)⟩

theorem LoadSwitches.applyAll_same (s : LoadSwitches) (c : Cfg) : s.Same Channel.told (s.applyAll c) ∧ (s.applyAll c).link = s.link :=
  LoadSwitches.applyList_same c _ s

theorem LoadSwitches.onLink_link (s : LoadSwitches) (f : LswLink → LswLink) : (s.onLink f).link = f s.link := rfl

/-! ## Overcurrents -/

theorem overcurrent_is (e : LswEnv) (n : ChanIx) (cause current : Nat) (s : LoadSwitches) :
    Channel.Tripped (s.chans[leaderOf e.cfg n]) ((overcurrent e n cause current s).1.chans[leaderOf e.cfg n]) cause := by
  unfold overcurrent LoadSwitches.turnOff
  dsimp only
  split
  · rename_i h
    rw [LoadSwitches.chan_self, LoadSwitches.chan_self, LoadSwitches.chan_self]
    exact ⟨⟨rfl, rfl⟩, ⟨rfl, rfl⟩, rfl, fun h2 => absurd h h2, fun _ => rfl, rfl⟩
  · rename_i h
    rw [LoadSwitches.chan_self, LoadSwitches.chan_self, LoadSwitches.chan_self]
    exact ⟨⟨rfl, rfl⟩, ⟨rfl, rfl⟩, rfl, fun _ => ⟨rfl, rfl⟩, fun h2 => absurd h2 h, rfl⟩

end Sys2Proof.Machine
end

