-- ==== Sys2Proof/Laws/LoadMasks.lean ====
section
/-!
SUPPORT. Words of bits, the channels of a mask, and the commands over channels and outputs (chapters 7 and 8).
-/

set_option linter.unusedVariables false
set_option linter.unusedSimpArgs false

namespace Sys2Proof.Machine

/-! ## Words and the channels of a mask -/

theorem bitOf_zero (n : Nat) : bitOf 0 n = false := by simp [bitOf]

theorem bitOf_bitWord : ∀ (l : List Bool) (n : Nat), bitOf (bitWord l) n = l.getD n false
  | [], n => by simp [bitWord, bitOf_zero]
  | b :: bs, 0 => by
    show ((b.toNat + 2 * bitWord bs) / 2 ^ 0 % 2 == 1) = b
    cases b <;> simp [Nat.add_mul_mod_self_left]
  | b :: bs, n + 1 => by
    have h := bitOf_bitWord bs n
    have e : (b.toNat + 2 * bitWord bs) / 2 ^ (n + 1) = bitWord bs / 2 ^ n := by
      have e2 : (b.toNat + 2 * bitWord bs) / 2 = bitWord bs := by
        cases b
        · show (0 + 2 * bitWord bs) / 2 = _; omega
        · show (1 + 2 * bitWord bs) / 2 = _; omega
      rw [Nat.pow_succ, Nat.mul_comm (2 ^ n) 2, ← Nat.div_div_eq_div_mul, e2]
    show (((b.toNat + 2 * bitWord bs) / 2 ^ (n + 1)) % 2 == 1) = _
    rw [e]
    exact h

theorem bitWord_add : ∀ {α : Type} (l : List α) (f g : α → Bool), (∀ x, f x = true → g x = false) →
    bitWord (l.map f) + bitWord (l.map g) = bitWord (l.map (fun x => f x || g x))
  | _, [], _, _, _ => rfl
  | _, a :: l, f, g, h => by
    have ih := bitWord_add l f g h
    show (f a).toNat + 2 * bitWord (l.map f) + ((g a).toNat + 2 * bitWord (l.map g)) = (f a || g a).toNat + 2 * bitWord (l.map (fun x => f x || g x))
    rw [← ih]
    have ha := h a
    cases hf : f a with
    | false => cases hg : g a <;> simp <;> omega
    | true => rw [ha hf]; simp; omega

theorem contains_filter {n : Nat} (p : Fin n → Bool) (k : Fin n) : ((List.finRange n).filter p).contains k = p k := by
  cases hp : p k with
  | true => exact List.elem_eq_true_of_mem (List.mem_filter.mpr ⟨List.mem_finRange k, hp⟩)
  | false =>
    cases hc : ((List.finRange n).filter p).contains k with
    | false => rfl
    | true =>
      have := (List.mem_filter.mp (List.mem_of_elem_eq_true hc)).2
      rw [hp] at this; cases this

theorem maskOf_filter (p : ChanIx → Bool) : maskOf ((List.finRange 48).filter p) = bitWord ((List.finRange 48).map p) := by
  unfold maskOf
  congr 1
  exact List.map_congr_left (fun k _ => contains_filter p k)

theorem bit_mask (p : ChanIx → Bool) (n : ChanIx) : bitOf (bitWord ((List.finRange 48).map p)) n.val = p n := by
  rw [bitOf_bitWord, List.getD_eq_getElem?_getD, List.getElem?_map, List.getElem?_eq_getElem (by simp)]
  simp

theorem chansOf_mask (p : ChanIx → Bool) : chansOf (bitWord ((List.finRange 48).map p)) = (List.finRange 48).filter p := by
  unfold chansOf
  congr 1
  funext n
  exact bit_mask p n

/-- The first of a part of a list in order. -/
theorem filter_least {α : Type} [LT α] (l : List α) (p : α → Bool) {n : α} {rest : List α} (hp : l.Pairwise (· < ·)) (h : l.filter p = n :: rest) :
    ∀ m ∈ l, p m = true → m = n ∨ n < m := by
  induction l with
  | nil => cases h
  | cons a l ih =>
    intro m hm hpm
    rw [List.filter_cons] at h
    rw [List.pairwise_cons] at hp
    split at h
    · injection h with h1 h2
      subst h1
      rcases List.mem_cons.mp hm with e | e
      · exact .inl e
      · exact .inr (hp.1 m e)
    · rename_i ha
      rcases List.mem_cons.mp hm with e | e
      · subst e; exact absurd hpm ha
      · exact ih hp.2 h m e hpm

theorem chans_sorted : (List.finRange 48).Pairwise (· < ·) := by decide

theorem chans_nodup : (List.finRange 48).Nodup := chans_sorted.imp (fun h => Fin.ne_of_lt h)

theorem outs_sorted : (List.finRange 16).Pairwise (· < ·) := by decide

theorem filter_head {α : Type} (l : List α) (p g : α → Bool) {n : α} {rest : List α} (h : l.filter p = n :: rest) (hg : ∀ x, g x = true → p x = true)
    (hn : g n = true) : ∃ r, l.filter g = n :: r := by
  induction l with
  | nil => cases h
  | cons a l ih =>
    rw [List.filter_cons] at h ⊢
    split at h
    · injection h with h1 h2
      subst h1
      rw [if_pos hn]
      exact ⟨_, rfl⟩
    · rename_i ha
      rw [if_neg (fun k => ha (hg a k))]
      exact ih h

theorem each_idem (f : Channel → Channel) (hf : ∀ q, f (f q) = f q) : ∀ (ns : List ChanIx) (s : LoadSwitches) (m : ChanIx),
    (s.each ns f).chans[m] = if m ∈ ns then f s.chans[m] else s.chans[m]
  | [], s, m => by simp [LoadSwitches.each]
  | n :: ns, s, m => by
    have ih := each_idem f hf ns (s.chan n f) m
    show ((s.chan n f).each ns f).chans[m] = _
    rw [ih]
    by_cases hm : n = m
    · subst hm
      rw [LoadSwitches.chan_self, if_pos List.mem_cons_self, hf]
      split <;> rfl
    · rw [LoadSwitches.chan_other s hm]
      by_cases hl : m ∈ ns
      · rw [if_pos hl, if_pos (List.mem_cons_of_mem _ hl)]
      · rw [if_neg hl, if_neg (by
          intro k
          rcases List.mem_cons.mp k with e | e
          · exact hm e.symm
          · exact hl e)]

theorem bit_doors (p : DoorIx → Bool) (d : DoorIx) : bitOf (doorMask p) d.val = p d := by
  unfold doorMask
  rw [bitOf_bitWord]
  have : ∀ d : DoorIx, (doorways.map p).getD d.val false = p d := by
    intro d
    match d with
    | ⟨0, _⟩ => rfl
    | ⟨1, _⟩ => rfl
    | ⟨2, _⟩ => rfl
    | ⟨3, _⟩ => rfl
    | ⟨4, _⟩ => rfl
    | ⟨5, _⟩ => rfl
    | ⟨6, _⟩ => rfl
    | ⟨7, _⟩ => rfl
  exact this d

/-- Step 12 for a channel of a mask, without TAKEOVER. -/
theorem own_channel {s : State} {h : Hdr} {i : SessIx} {mask : Nat} (ht : h.takeover = false) (n : ChanIx) (hb : bitOf mask n.val = true) :
    (s.own h i (ownersOf mask)).2 (chanDoor n) = if s.cfg.isFitted (chanDoor n) = false then some 0x38
      else if s.fcp.commander[chanDoor n] ≠ some i then some 0x45 else none := by
  unfold State.own
  rw [ht]
  simp only [Bool.false_eq_true, if_false]
  have hm : bitOf (ownersOf mask) (chanDoor n).val = true := by
    unfold ownersOf
    rw [bit_doors]
    exact List.any_eq_true.mpr ⟨n, List.mem_filter.mpr ⟨List.mem_finRange n, hb⟩, beq_self_eq_true _⟩
  rw [hm]
  cases hf : s.cfg.isFitted (chanDoor n)
  · rfl
  · by_cases hc : s.fcp.commander[chanDoor n] = some i
    · simp [hc]
    · simp [hc]

theorem own_state {s : State} {h : Hdr} {i : SessIx} {mask : Nat} (ht : h.takeover = false) : (s.own h i mask).1 = s := by
  unfold State.own
  rw [ht]
  rfl

theorem channelAnswer_is (mask : Nat) (r : ChanIx → Option Nat) (reason : ChanIx → Nat)
    (hr : ∀ n rest, (List.finRange 48).filter (fun n => bitOf mask n.val && (r n).isSome) = n :: rest →
      (∀ m : ChanIx, bitOf mask m.val = true → r m ≠ none) → some (reason n) = r n) :
    (((∃ n : ChanIx, bitOf mask n.val = true ∧ r n = none) ∨ (∀ n : ChanIx, bitOf mask n.val = false)) →
      channelAnswer (bitWord ((List.finRange 48).map (fun n : ChanIx => bitOf mask n.val && (r n).isNone)))
        (bitWord ((List.finRange 48).map (fun n : ChanIx => bitOf mask n.val && (r n).isSome))) reason
      = Answer.done (le 8 (bitWord ((List.finRange 48).map (fun n : ChanIx => bitOf mask n.val && (r n).isNone)))
        ++ le 8 (bitWord ((List.finRange 48).map (fun n : ChanIx => bitOf mask n.val && (r n).isSome))))) ∧
    (∀ n : ChanIx, bitOf mask n.val = true → (∀ m, m < n → bitOf mask m.val = false) → (∀ m : ChanIx, bitOf mask m.val = true → r m ≠ none) →
      ∃ x, r n = some x ∧ channelAnswer (bitWord ((List.finRange 48).map (fun n : ChanIx => bitOf mask n.val && (r n).isNone)))
        (bitWord ((List.finRange 48).map (fun n : ChanIx => bitOf mask n.val && (r n).isSome))) reason = Answer.refused x) := by
  unfold channelAnswer
  rw [chansOf_mask]
  refine ⟨fun hy => ?_, fun n hb hlow hall => ?_⟩
  · split
    · rename_i n rest hn
      rw [if_neg]
      intro hz
      rw [bitWord_zero] at hz
      rcases hy with ⟨m, m1, m2⟩ | hy
      · have := hz _ (List.mem_map.mpr ⟨m, List.mem_finRange m, rfl⟩)
        rw [m1, m2] at this; cases this
      · have := (List.mem_filter.mp (hn ▸ List.mem_cons_self : n ∈ (List.finRange 48).filter (fun n => bitOf mask n.val && (r n).isSome))).2
        rw [hy n] at this; cases this
    · rfl
  · have hmem : n ∈ (List.finRange 48).filter (fun n => bitOf mask n.val && (r n).isSome) :=
      List.mem_filter.mpr ⟨List.mem_finRange n, by
        rw [hb, Bool.true_and]
        exact Option.isSome_iff_ne_none.mpr (hall n hb)⟩
    split
    · rename_i k rest hk
      have hkb := (List.mem_filter.mp (hk ▸ List.mem_cons_self : k ∈ (List.finRange 48).filter (fun n => bitOf mask n.val && (r n).isSome))).2
      have hkn : n = k := by
        rcases filter_least _ _ chans_sorted hk n (List.mem_finRange n) (List.mem_filter.mp hmem).2 with e | e
        · exact e
        · exfalso
          have := filter_least _ _ chans_sorted hk k (List.mem_finRange k) hkb
          by_cases hlt : k < n
          · have := hlow k hlt
            rw [this] at hkb; cases hkb
          · exact hlt e
      subst hkn
      rw [if_pos]
      · exact ⟨_, (hr n rest hk hall).symm, rfl⟩
      · rw [bitWord_zero]
        intro b hb'
        obtain ⟨m, _, rfl⟩ := List.mem_map.mp hb'
        cases hbm : bitOf mask m.val with
        | false => rfl
        | true => cases hrm : r m with
          | none => exact absurd hrm (hall m hbm)
          | some x => rfl
    · rename_i hnil
      rw [hnil] at hmem; cases hmem

/-- A command over channels: what it did, and its answer. -/
theorem overChannels_is {s : State} {h : Hdr} {i : SessIx} {mask : Nat} (ht : h.takeover = false) (w : ChanIx → Option Nat)
    (hw : ∀ n : ChanIx, w n = if s.cfg.isFitted (chanDoor n) = false then some 0x38 else if s.fcp.commander[chanDoor n] ≠ some i then some 0x45 else none)
    (act : State → Nat → LoadSwitches × Nat × Nat × Nat) (r : ChanIx → Option Nat) (a : LoadSwitches × Nat × Nat × Nat) (f : ChanIx → Option Nat)
    (ha : act s (bitWord ((List.finRange 48).map (fun n : ChanIx => bitOf mask n.val && (w n).isNone))) = a)
    (hr : ∀ n : ChanIx, r n = if (w n).isSome then w n else f n)
    (h1 : a.2.1 = bitWord ((List.finRange 48).map (fun n : ChanIx => (bitOf mask n.val && (w n).isNone) && (f n).isNone)))
    (h2 : a.2.2.1 = bitWord ((List.finRange 48).map (fun n : ChanIx => (bitOf mask n.val && (w n).isNone) && (f n).isSome)))
    (h3 : ∀ n rest, (List.finRange 48).filter (fun n : ChanIx => (bitOf mask n.val && (w n).isNone) && (f n).isSome) = n :: rest → some a.2.2.2 = f n) :
    ∃ A, s.overChannels h i mask act = ({ s with lsw := a.1 } : State).answers A ∧
      ∀ t : State, ∀ q, t.Answered i h q A → t.ChannelsAnswered i h q mask r := by
  have hmine : channelsOn mask (fun d => ((s.own h i (ownersOf mask)).2 d).isNone) = bitWord ((List.finRange 48).map (fun n : ChanIx => bitOf mask n.val && (w n).isNone)) := by
    unfold channelsOn chansOf
    rw [List.filter_filter, maskOf_filter]
    refine congrArg bitWord (List.map_congr_left (fun n _ => ?_))
    cases hb : bitOf mask n.val with
    | false => exact Bool.and_false _
    | true =>
      dsimp only
      rw [own_channel ht n hb, ← hw, Bool.and_true, Bool.true_and]
  have hother : channelsOn mask (fun d => ((s.own h i (ownersOf mask)).2 d).isSome) = bitWord ((List.finRange 48).map (fun n : ChanIx => bitOf mask n.val && (w n).isSome)) := by
    unfold channelsOn chansOf
    rw [List.filter_filter, maskOf_filter]
    refine congrArg bitWord (List.map_congr_left (fun n _ => ?_))
    cases hb : bitOf mask n.val with
    | false => exact Bool.and_false _
    | true =>
      dsimp only
      rw [own_channel ht n hb, ← hw, Bool.and_true, Bool.true_and]
  unfold State.overChannels
  dsimp only
  rw [own_state ht, hmine, hother, ha, h1, h2, bitWord_add _ _ _ (fun n hn => by
    cases hwn : w n with
    | none => simp
    | some x => rw [hwn] at hn; simp at hn)]
  have e1 : (fun n : ChanIx => (bitOf mask n.val && (w n).isNone) && (f n).isNone) = fun n => bitOf mask n.val && (r n).isNone := by
    funext n; rw [hr]; cases hwn : w n <;> simp
  have e2 : (fun n : ChanIx => (bitOf mask n.val && (w n).isNone && (f n).isSome || bitOf mask n.val && (w n).isSome)) = fun n => bitOf mask n.val && (r n).isSome := by
    funext n; rw [hr]; cases hwn : w n <;> simp
  rw [e1, e2]
  refine ⟨_, rfl, fun t q hA => ?_⟩
  have hx := channelAnswer_is mask r (fun n => ((s.own h i (ownersOf mask)).2 (chanDoor n)).getD a.2.2.2) (fun n rest hn hall => by
    have hm := (List.mem_filter.mp (hn ▸ List.mem_cons_self : n ∈ (List.finRange 48).filter (fun n => bitOf mask n.val && (r n).isSome))).2
    have hb : bitOf mask n.val = true := by
      cases hb : bitOf mask n.val
      · rw [hb] at hm; cases hm
      · rfl
    rw [own_channel ht n hb, ← hw, hr]
    cases hwn : w n with
    | some x => rfl
    | none =>
      have hf : (f n).isSome = true := by
        have := hall n hb
        rw [hr, hwn] at this
        exact Option.isSome_iff_ne_none.mpr this
      obtain ⟨rest', hr'⟩ := filter_head _ _ (fun n : ChanIx => (bitOf mask n.val && (w n).isNone) && (f n).isSome) hn (fun x hx => by
        rw [hr]
        cases hwx : w x with
        | some y => rw [hwx] at hx; simp at hx
        | none => rw [hwx] at hx; simpa using hx) (by rw [hb, hwn, hf]; rfl)
      exact (h3 n _ hr').trans rfl)
  exact ⟨fun hy => by rw [← hx.1 hy]; exact hA, fun n hb hl hall => by
    obtain ⟨x, x1, x2⟩ := hx.2 n hb hl hall
    exact ⟨x, x1, x2 ▸ hA⟩⟩

theorem clear_pred (e : LswEnv) (P : ChanIx → Channel → Prop)
    (hP : ∀ m q, P m q → ∀ (on inr ext sh : Bool) (oc : Bool) (ht : Heater) (k : ChanCounters), (oc = q.overcurrent ∨ oc = false) →
      P m { q with on := on, inrush := inr, extUsed := ext, shortWindow := sh, retryWait := q.retryWait, overcurrent := oc, heater := ht, counters := k })
    (hW : ∀ m q, P m q → P m { q with retryWait := false }) (s : LoadSwitches) (n : ChanIx)
    (h : ∀ m, P m s.chans[m]) : ∀ m, P m (s.apply e.cfg n).chans[m] := by
  have hchan : ∀ (s : LoadSwitches) (n : ChanIx) (f : Channel → Channel), (∀ m q, P m q → P m (f q)) → (∀ m, P m s.chans[m]) → ∀ m, P m (s.chan n f).chans[m] := by
    intro s n f hf hs m
    by_cases hm : n = m
    · subst hm; rw [LoadSwitches.chan_self]; exact hf _ _ (hs _)
    · rw [LoadSwitches.chan_other s hm]; exact hs m
  have heach : ∀ (ns : List ChanIx) (s : LoadSwitches) (f : Channel → Channel), (∀ m q, P m q → P m (f q)) → (∀ m, P m s.chans[m]) → ∀ m, P m (s.each ns f).chans[m] := by
    intro ns
    induction ns with
    | nil => exact fun s f _ hs => hs
    | cons n ns ih => exact fun s f hf hs => ih (s.chan n f) f hf (hchan s n f hf hs)
  have hfollow : ∀ (s : LoadSwitches) (b : Bool), (∀ m, P m s.chans[m]) → ∀ m, P m (s.follow e.cfg n b).chans[m] := by
    intro s b hs
    unfold LoadSwitches.follow
    dsimp only
    split
    · split
      · exact hs
      · unfold LoadSwitches.turnOn
        dsimp only
        exact heach _ _ _ (fun m q hq => hP m q hq _ _ _ _ _ _ _ (.inl rfl)) (hchan _ _ _ (fun m q hq => hP m q hq _ _ _ _ _ _ _ (.inl rfl)) hs)
    · split
      · unfold LoadSwitches.turnOff
        exact hchan _ _ _ (fun m q hq => hP m q hq _ _ _ _ _ _ _ (.inr rfl)) (hchan _ _ _ (fun m q hq => hP m q hq _ _ _ _ _ _ _ (.inl rfl)) (hchan _ _ _ (fun m q hq => hW m q hq) hs))
      · exact hchan _ _ _ (fun m q hq => hW m q hq) hs
  unfold LoadSwitches.apply
  split
  · exact hfollow _ _ (hchan _ _ _ (fun m q hq => hP m q hq _ _ _ _ _ _ _ (.inl rfl)) h)
  · exact hfollow _ _ (hchan _ _ _ (fun m q hq => hP m q hq _ _ _ _ _ _ _ (.inl rfl)) h)
  · exact hfollow _ _ h

/-- What FAULT_CLEAR of one channel leaves. -/
structure Cleared (e : LswEnv) (n : ChanIx) (s t : LoadSwitches) : Prop where
  lead : t.chans[leaderOf e.cfg n].lockout = false ∧ t.chans[leaderOf e.cfg n].overcurrent = false
    ∧ t.chans[leaderOf e.cfg n].retryWait = false ∧ t.chans[leaderOf e.cfg n].retriesLeft = e.cfg.chRetryCount (leaderOf e.cfg n)
  kept : ∀ m, s.chans[m].lockout = false ∧ s.chans[m].overcurrent = false ∧ s.chans[m].retryWait = false ∧ s.chans[m].retriesLeft = e.cfg.chRetryCount m →
    t.chans[m].lockout = false ∧ t.chans[m].overcurrent = false ∧ t.chans[m].retryWait = false ∧ t.chans[m].retriesLeft = e.cfg.chRetryCount m
  same : ∀ m, leaderOf e.cfg n ≠ m → t.chans[m].lockout = s.chans[m].lockout
  heat : ∀ m, t.chans[m].thermal = if n = m then s.chans[m].thermal && decide (1300 ≤ Config.measured .switchTemp (e.free + n.val)) else s.chans[m].thermal

theorem clearChannel_is (e : LswEnv) (n : ChanIx) (s : LoadSwitches) : Cleared e n s (clearChannel e n s).1
    ∧ (clearChannel e n s).2 = (s.chans[n].thermal && decide (1300 ≤ Config.measured .switchTemp (e.free + n.val))) := by
  unfold clearChannel
  extract_lets l hot s1 s2
  have hs1 : ∀ m, s1.chans[m] = if l = m then { s.chans[m] with lockout := false, overcurrent := false, retryWait := false, retriesLeft := e.cfg.chRetryCount l } else s.chans[m] := by
    intro m
    by_cases hm : l = m
    · subst hm; rw [if_pos rfl]; exact LoadSwitches.chan_self _ _ _
    · rw [if_neg hm]; exact LoadSwitches.chan_other _ hm _
  have hs2 : ∀ m, s2.chans[m] = if n = m then { s1.chans[m] with thermal := hot } else s1.chans[m] := by
    intro m
    by_cases hm : n = m
    · subst hm; rw [if_pos rfl]; exact LoadSwitches.chan_self _ _ _
    · rw [if_neg hm]; exact LoadSwitches.chan_other _ hm _
  have hot_is : hot = (s.chans[n].thermal && decide (1300 ≤ Config.measured .switchTemp (e.free + n.val))) := rfl
  have hl : l = leaderOf e.cfg n := rfl
  clear_value s1 s2 hot l
  subst hl
  refine ⟨?_, hot_is⟩
  have hpred : ∀ m : ChanIx, s2.chans[m].lockout = false ∧ s2.chans[m].overcurrent = false ∧ s2.chans[m].retryWait = false ∧ s2.chans[m].retriesLeft = e.cfg.chRetryCount m →
      (s2.apply e.cfg (leaderOf e.cfg n)).chans[m].lockout = false ∧ (s2.apply e.cfg (leaderOf e.cfg n)).chans[m].overcurrent = false
      ∧ (s2.apply e.cfg (leaderOf e.cfg n)).chans[m].retryWait = false ∧ (s2.apply e.cfg (leaderOf e.cfg n)).chans[m].retriesLeft = e.cfg.chRetryCount m := by
    intro m hm
    exact clear_pred e (fun k q => (s2.chans[k].lockout = false ∧ s2.chans[k].overcurrent = false ∧ s2.chans[k].retryWait = false ∧ s2.chans[k].retriesLeft = e.cfg.chRetryCount k) →
        q.lockout = false ∧ q.overcurrent = false ∧ q.retryWait = false ∧ q.retriesLeft = e.cfg.chRetryCount k)
      (fun k q hq _ _ _ _ oc _ _ ho hk => by
        obtain ⟨a, b, c, d⟩ := hq hk
        refine ⟨a, ?_, c, d⟩
        rcases ho with ho | ho
        · exact ho.trans b
        · exact ho)
      (fun k q hq hk => by
        obtain ⟨a, b, c, d⟩ := hq hk
        exact ⟨a, b, rfl, d⟩) s2 (leaderOf e.cfg n) (fun k hk => hk) m hm
  have hview : ∀ m : ChanIx, (s2.apply e.cfg (leaderOf e.cfg n)).chans[m].thermal = s2.chans[m].thermal ∧ (s2.apply e.cfg (leaderOf e.cfg n)).chans[m].lockout = s2.chans[m].lockout :=
    clear_pred e (fun k q => q.thermal = s2.chans[k].thermal ∧ q.lockout = s2.chans[k].lockout)
      (fun k q hq _ _ _ _ _ _ _ _ => hq) (fun k q hq => hq) s2 (leaderOf e.cfg n) (fun k => ⟨rfl, rfl⟩)
  have hk2 : ∀ m : ChanIx, s2.chans[m].lockout = s1.chans[m].lockout ∧ s2.chans[m].overcurrent = s1.chans[m].overcurrent ∧ s2.chans[m].retryWait = s1.chans[m].retryWait
      ∧ s2.chans[m].retriesLeft = s1.chans[m].retriesLeft := by
    intro m; rw [hs2]; split <;> exact ⟨rfl, rfl, rfl, rfl⟩
  refine ⟨hpred _ ?_, fun m hm => hpred m ?_, fun m hm => ?_, fun m => ?_⟩
  · obtain ⟨a, b, c, d⟩ := hk2 (leaderOf e.cfg n)
    rw [a, b, c, d, hs1, if_pos rfl]
    exact ⟨rfl, rfl, rfl, rfl⟩
  · obtain ⟨a, b, c, d⟩ := hk2 m
    rw [a, b, c, d, hs1]
    split
    · rename_i he; subst he; exact ⟨rfl, rfl, rfl, rfl⟩
    · exact hm
  · rw [(hview m).2, (hk2 m).1, hs1, if_neg hm]
  · rw [(hview m).1, hs2]
    have ht : s1.chans[m].thermal = s.chans[m].thermal := by rw [hs1]; split <;> rfl
    split
    · rename_i he; subst he; exact hot_is
    · exact ht

theorem clearChannels_is (e : LswEnv) : ∀ (ns : List ChanIx) (s : LoadSwitches), ns.Nodup →
    (∀ n ∈ ns, (clearChannels e ns s).1.chans[leaderOf e.cfg n].lockout = false ∧ (clearChannels e ns s).1.chans[leaderOf e.cfg n].overcurrent = false
      ∧ (clearChannels e ns s).1.chans[leaderOf e.cfg n].retryWait = false
      ∧ (clearChannels e ns s).1.chans[leaderOf e.cfg n].retriesLeft = e.cfg.chRetryCount (leaderOf e.cfg n)) ∧
    (∀ m, s.chans[m].lockout = false ∧ s.chans[m].overcurrent = false ∧ s.chans[m].retryWait = false ∧ s.chans[m].retriesLeft = e.cfg.chRetryCount m →
      (clearChannels e ns s).1.chans[m].lockout = false ∧ (clearChannels e ns s).1.chans[m].overcurrent = false
      ∧ (clearChannels e ns s).1.chans[m].retryWait = false ∧ (clearChannels e ns s).1.chans[m].retriesLeft = e.cfg.chRetryCount m) ∧
    (∀ m, (∀ n ∈ ns, leaderOf e.cfg n ≠ m) → (clearChannels e ns s).1.chans[m].lockout = s.chans[m].lockout) ∧
    (∀ m, (clearChannels e ns s).1.chans[m].thermal
      = if m ∈ ns then s.chans[m].thermal && decide (1300 ≤ Config.measured .switchTemp (e.free + m.val)) else s.chans[m].thermal) ∧
    (clearChannels e ns s).2 = ns.filter (fun m => s.chans[m].thermal && decide (1300 ≤ Config.measured .switchTemp (e.free + m.val)))
  | [], s, _ => ⟨nofun, fun _ h => h, fun _ _ => rfl, fun m => by simp [clearChannels], rfl⟩
  | n :: ns, s, hd => by
    obtain ⟨hn, hd⟩ := List.nodup_cons.mp hd
    obtain ⟨i1, i2, i3, i4, i5⟩ := clearChannels_is e ns (clearChannel e n s).1 hd
    obtain ⟨c, c2⟩ := clearChannel_is e n s
    have hother : ∀ m, m ∈ ns → (clearChannel e n s).1.chans[m].thermal = s.chans[m].thermal := by
      intro m hm
      rw [c.heat, if_neg (fun he : n = m => hn (he.symm ▸ hm))]
    have e1 : (clearChannels e (n :: ns) s).1 = (clearChannels e ns (clearChannel e n s).1).1 := rfl
    refine ⟨?_, ?_, ?_, ?_, ?_⟩
    · rw [e1]
      intro m hm
      rcases List.mem_cons.mp hm with h | h
      · subst h
        exact i2 _ c.lead
      · exact i1 m h
    · rw [e1]
      exact fun m hm => i2 m (c.kept m hm)
    · rw [e1]
      exact fun m hm => (i3 m (fun k hk => hm k (List.mem_cons_of_mem _ hk))).trans (c.same m (hm n List.mem_cons_self))
    · intro m
      rw [e1, i4, c.heat]
      by_cases hm : n = m
      · subst hm
        rw [if_neg hn, if_pos rfl, if_pos List.mem_cons_self]
      · rw [if_neg hm]
        by_cases hl : m ∈ ns
        · rw [if_pos hl, if_pos (List.mem_cons_of_mem _ hl)]
        · rw [if_neg hl, if_neg (by
            intro k
            rcases List.mem_cons.mp k with e | e
            · exact hm e.symm
            · exact hl e)]
    · show (if (clearChannel e n s).2 = true then n :: (clearChannels e ns (clearChannel e n s).1).2 else (clearChannels e ns (clearChannel e n s).1).2) = _
      rw [i5, c2, List.filter_cons]
      have : ns.filter (fun m => (clearChannel e n s).1.chans[m].thermal && decide (1300 ≤ Config.measured .switchTemp (e.free + m.val)))
          = ns.filter (fun m => s.chans[m].thermal && decide (1300 ≤ Config.measured .switchTemp (e.free + m.val))) :=
        List.filter_congr (fun m hm => by rw [hother m hm])
      rw [this]

theorem clearChannels_at (e : LswEnv) (c : Cfg) (fr : Nat) (hc : e.cfg = c) (hf : e.free = fr) (ns : List ChanIx) (s : LoadSwitches) (hd : ns.Nodup) :
    (∀ n ∈ ns, (clearChannels e ns s).1.chans[leaderOf c n].lockout = false ∧ (clearChannels e ns s).1.chans[leaderOf c n].overcurrent = false
      ∧ (clearChannels e ns s).1.chans[leaderOf c n].retryWait = false
      ∧ (clearChannels e ns s).1.chans[leaderOf c n].retriesLeft = c.chRetryCount (leaderOf c n)) ∧
    (∀ m, (∀ n ∈ ns, leaderOf c n ≠ m) → (clearChannels e ns s).1.chans[m].lockout = s.chans[m].lockout) ∧
    (∀ m : ChanIx, (clearChannels e ns s).1.chans[m].thermal
      = if m ∈ ns then s.chans[m].thermal && decide (1300 ≤ Config.measured .switchTemp (fr + m.val)) else s.chans[m].thermal) ∧
    (clearChannels e ns s).2 = ns.filter (fun m => s.chans[m].thermal && decide (1300 ≤ Config.measured .switchTemp (fr + m.val))) := by
  subst hc hf
  obtain ⟨c1, _, c3, c4, c5⟩ := clearChannels_is e ns s hd
  exact ⟨c1, c3, c4, c5⟩

theorem faultClear_parts (e : LswEnv) (M : Nat) (s : LoadSwitches) (F : List ChanIx) (hF : (chansOf M).filter (fun n => e.cfg.isFitted (chanDoor n)) = F)
    (hU : (chansOf M).filter (fun n => !e.cfg.isFitted (chanDoor n)) = []) :
    ∃ x, Sys2Proof.Machine.faultClear e M s = ((clearChannels e F s).1, maskOf (F.filter (fun n => !(clearChannels e F s).2.contains n)),
        maskOf ((chansOf M).filter (fun n => (clearChannels e F s).2.contains n)), x)
      ∧ ∀ n rest, (chansOf M).filter (fun n => (clearChannels e F s).2.contains n) = n :: rest → x = 0x3F := by
  unfold Sys2Proof.Machine.faultClear
  rw [hU, hF]
  have hR : (chansOf M).filter (fun n => ([] : List ChanIx).contains n || (clearChannels e F s).2.contains n)
      = (chansOf M).filter (fun n => (clearChannels e F s).2.contains n) := List.filter_congr (fun n _ => rfl)
  dsimp only
  rw [hR]
  generalize (chansOf M).filter (fun n => (clearChannels e F s).2.contains n) = R
  cases R with
  | nil => exact ⟨_, rfl, nofun⟩
  | cons n rest => exact ⟨_, rfl, fun _ _ _ => if_neg (by simp)⟩

theorem clear_core (s : State) (mask : Nat) (w f : ChanIx → Option Nat)
    (hfit : ∀ n : ChanIx, (bitOf mask n.val && (w n).isNone) = true → s.cfg.isFitted (chanDoor n) = true)
    (hfs : ∀ n : ChanIx, (f n).isSome = (s.lsw.chans[n].thermal && decide (1300 ≤ Config.measured .switchTemp (s.free + n.val))))
    (hf3 : ∀ n x, f n = some x → x = 0x3F) :
    ∃ x C, Sys2Proof.Machine.faultClear s.lswEnv (bitWord ((List.finRange 48).map (fun n : ChanIx => bitOf mask n.val && (w n).isNone))) s.lsw
      = (C, bitWord ((List.finRange 48).map (fun n : ChanIx => (bitOf mask n.val && (w n).isNone) && (f n).isNone)),
          bitWord ((List.finRange 48).map (fun n : ChanIx => (bitOf mask n.val && (w n).isNone) && (f n).isSome)), x)
      ∧ (∀ n rest, (List.finRange 48).filter (fun n : ChanIx => (bitOf mask n.val && (w n).isNone) && (f n).isSome) = n :: rest → some x = f n)
      ∧ (∀ n : ChanIx, bitOf mask n.val = true → w n = none → C.chans[leaderOf s.cfg n].lockout = false ∧ C.chans[leaderOf s.cfg n].overcurrent = false
        ∧ C.chans[leaderOf s.cfg n].retryWait = false ∧ C.chans[leaderOf s.cfg n].retriesLeft = s.cfg.chRetryCount (leaderOf s.cfg n)
        ∧ C.chans[n].thermal = (f n).isSome)
      ∧ (∀ n : ChanIx, bitOf mask n.val = false → C.chans[n].thermal = s.lsw.chans[n].thermal)
      ∧ (∀ m, (∀ n : ChanIx, bitOf mask n.val = true → leaderOf s.cfg n ≠ m) → C.chans[m].lockout = s.lsw.chans[m].lockout) := by
  have hmine : (List.finRange 48).filter (fun n : ChanIx => (bitOf mask n.val && (w n).isNone)) = chansOf (bitWord ((List.finRange 48).map (fun n : ChanIx => bitOf mask n.val && (w n).isNone))) := (chansOf_mask _).symm
  generalize hM : bitWord ((List.finRange 48).map (fun n : ChanIx => bitOf mask n.val && (w n).isNone)) = M at hmine
  have hfitted : (chansOf M).filter (fun n => s.cfg.isFitted (chanDoor n)) = (List.finRange 48).filter (fun n : ChanIx => (bitOf mask n.val && (w n).isNone)) := by
    rw [← hmine, List.filter_filter]
    refine List.filter_congr (fun n _ => ?_)
    cases hb : (bitOf mask n.val && (w n).isNone) with
    | false => rw [Bool.and_false]
    | true => rw [hfit n hb]; rfl
  have hunf : (chansOf M).filter (fun n => !s.cfg.isFitted (chanDoor n)) = [] := by
    rw [← hmine]
    refine List.filter_eq_nil_iff.mpr (fun n hn => ?_)
    rw [hfit n (List.mem_filter.mp hn).2]; decide
  have hnd : ((List.finRange 48).filter (fun n : ChanIx => (bitOf mask n.val && (w n).isNone))).Nodup := List.Nodup.sublist List.filter_sublist chans_nodup
  generalize hL : (List.finRange 48).filter (fun n : ChanIx => (bitOf mask n.val && (w n).isNone)) = L at *
  have hLm : ∀ n, n ∈ L ↔ bitOf mask n.val = true ∧ w n = none := by
    intro n
    rw [← hL, List.mem_filter, Bool.and_eq_true, Option.isNone_iff_eq_none]
    exact ⟨fun h => h.2, fun h => ⟨List.mem_finRange n, h⟩⟩
  obtain ⟨c1, c3, c4, c5⟩ := clearChannels_at s.lswEnv s.cfg s.free rfl rfl L s.lsw hnd
  have hF : ∀ g : ChanIx → Bool, L.filter g = (List.finRange 48).filter (fun n : ChanIx => (bitOf mask n.val && (w n).isNone) && g n) := by
    intro g
    rw [← hL, List.filter_filter]
    exact List.filter_congr (fun n _ => Bool.and_comm _ _)
  have hc5 : (clearChannels s.lswEnv L s.lsw).2 = L.filter (fun n => (f n).isSome) := c5.trans (List.filter_congr (fun n _ => (hfs n).symm))
  have hin : ∀ n ∈ L, (clearChannels s.lswEnv L s.lsw).2.contains n = (f n).isSome := by
    intro n hn
    rw [hc5, hF]
    refine (contains_filter _ n).trans ?_
    obtain ⟨a1, a2⟩ := (hLm n).mp hn
    rw [a1, a2]; rfl
  have href : (chansOf M).filter (fun n => (clearChannels s.lswEnv L s.lsw).2.contains n) = L.filter (fun n => (f n).isSome) := by
    rw [← hmine]
    exact List.filter_congr (fun n hn => hin n hn)
  obtain ⟨x, x1, x2⟩ := faultClear_parts s.lswEnv M s.lsw L hfitted hunf
  rw [href] at x1
  rw [href] at x2
  refine ⟨x, (clearChannels s.lswEnv L s.lsw).1, x1.trans ?_, fun n rest hn => ?_, fun n hb hw => ?_, fun n hb => ?_, fun m hm => ?_⟩
  · rw [List.filter_congr (fun n hn => by rw [hin n hn]), hF, hF, maskOf_filter, maskOf_filter]
    have : (fun n : ChanIx => (bitOf mask n.val && (w n).isNone) && !(f n).isSome) = fun n : ChanIx => (bitOf mask n.val && (w n).isNone) && (f n).isNone := by
      funext n; cases f n <;> rfl
    rw [this]
  · rw [← hF] at hn
    have h2 := (List.mem_filter.mp (hn ▸ List.mem_cons_self : n ∈ L.filter (fun n => (f n).isSome))).2
    rw [x2 n rest hn]
    cases hfn : f n with
    | none => rw [hfn] at h2; cases h2
    | some y => rw [hf3 n y hfn]
  · have hL' := (hLm n).mpr ⟨hb, hw⟩
    obtain ⟨a, b, c, d⟩ := c1 n hL'
    refine ⟨a, b, c, d, ?_⟩
    rw [c4, if_pos hL']
    exact (hfs n).symm
  · rw [c4, if_neg]
    intro hk
    rw [((hLm n).mp hk).1] at hb; cases hb
  · exact c3 m (fun n hn => hm n ((hLm n).mp hn).1)

theorem clear_over {s : State} {h : Hdr} {i : SessIx} {r : ChanIx → Option Nat} (ht : h.takeover = false) (mask : BitVec 64)
    (hr : ∀ n : ChanIx, r n = if s.cfg.isFitted (chanDoor n) = false then some 0x38 else if s.fcp.commander[chanDoor n] ≠ some i then some 0x45
        else if s.lsw.chans[n].thermal = true ∧ 1300 ≤ Config.measured .switchTemp (s.free + n.val) then some 0x3F else none) :
    ∃ A C, s.overChannels h i mask.toNat (fun t m => Sys2Proof.Machine.faultClear t.lswEnv m t.lsw) = ({ s with lsw := C } : State).answers A
      ∧ (∀ t : State, ∀ q, t.Answered i h q A → t.ChannelsAnswered i h q mask.toNat r)
      ∧ (∀ n : ChanIx, bitOf mask.toNat n.val = true → r n = none ∨ r n = some 0x3F →
            C.chans[leaderOf s.cfg n].lockout = false ∧ C.chans[leaderOf s.cfg n].overcurrent = false
              ∧ C.chans[leaderOf s.cfg n].retryWait = false
              ∧ C.chans[leaderOf s.cfg n].retriesLeft = s.cfg.chRetryCount (leaderOf s.cfg n)
              ∧ C.chans[n].thermal = (r n).isSome)
        ∧ (∀ n : ChanIx, bitOf mask.toNat n.val = false → C.chans[n].thermal = s.lsw.chans[n].thermal)
        ∧ (∀ m, (∀ n : ChanIx, bitOf mask.toNat n.val = true → leaderOf s.cfg n ≠ m) → C.chans[m].lockout = s.lsw.chans[m].lockout) := by
  let w : ChanIx → Option Nat := fun n => if s.cfg.isFitted (chanDoor n) = false then some 0x38 else if s.fcp.commander[chanDoor n] ≠ some i then some 0x45 else none
  let f : ChanIx → Option Nat := fun n => if s.lsw.chans[n].thermal = true ∧ 1300 ≤ Config.measured .switchTemp (s.free + n.val) then some 0x3F else none
  have hrw : ∀ n, r n = if (w n).isSome then w n else f n := by
    intro n
    rw [hr]
    show _ = if (if _ then _ else _ : Option Nat).isSome then (if _ then _ else _) else _
    split
    · rfl
    · split <;> rfl
  have hfit : ∀ n : ChanIx, (bitOf mask.toNat n.val && (w n).isNone) = true → s.cfg.isFitted (chanDoor n) = true := by
    intro n hn
    rw [Bool.and_eq_true] at hn
    cases hf : s.cfg.isFitted (chanDoor n)
    · have : w n = some 0x38 := if_pos hf
      rw [this] at hn; cases hn.2
    · rfl
  have hfs : ∀ n : ChanIx, (f n).isSome = (s.lsw.chans[n].thermal && decide (1300 ≤ Config.measured .switchTemp (s.free + n.val))) := by
    intro n
    show (if _ then _ else _ : Option Nat).isSome = _
    by_cases hc : s.lsw.chans[n].thermal = true ∧ 1300 ≤ Config.measured .switchTemp (s.free + n.val)
    · rw [if_pos hc, hc.1, decide_eq_true hc.2]; rfl
    · rw [if_neg hc]
      cases hth : s.lsw.chans[n].thermal with
      | false => rfl
      | true => rw [decide_eq_false (fun hx => hc ⟨hth, hx⟩)]; rfl
  obtain ⟨x, C, h1, h2, h3, h4, h5⟩ := clear_core s mask.toNat w f hfit hfs (fun n x hx => by
    have hx2 : (if s.lsw.chans[n].thermal = true ∧ 1300 ≤ Config.measured .switchTemp (s.free + n.val) then some 0x3F else none) = some x := hx
    split at hx2
    · injection hx2 with e; exact e.symm
    · cases hx2)
  obtain ⟨A, hA, hans⟩ := overChannels_is (s := s) (h := h) (i := i) (mask := mask.toNat) ht w (fun _ => rfl)
    (fun t m => Sys2Proof.Machine.faultClear t.lswEnv m t.lsw) r _ f h1 hrw rfl rfl h2
  refine ⟨A, C, hA, hans, fun n hb hn => ?_, h4, h5⟩
  have hwn : w n = none := by
    cases hwn : w n with
    | none => rfl
    | some y =>
      have hy : r n = some y := by rw [hrw, hwn]; rfl
      have : y = 0x38 ∨ y = 0x45 := by
        have hw2 : (if s.cfg.isFitted (chanDoor n) = false then some 0x38 else if s.fcp.commander[chanDoor n] ≠ some i then some 0x45 else none) = some y := hwn
        split at hw2
        · injection hw2 with e; exact .inl e.symm
        · split at hw2
          · injection hw2 with e; exact .inr e.symm
          · cases hw2
      rw [hy] at hn
      rcases hn with hn | hn
      · cases hn
      · injection hn with hn
        rcases this with e | e <;> omega
  obtain ⟨a, b, c, d, e⟩ := h3 n hb hwn
  refine ⟨a, b, c, d, e.trans ?_⟩
  rw [hrw, hwn]
  rfl

theorem out_bit (g : OutIx → Bool) (k : OutIx) : (outWord g).getLsbD k.val = g k := by
  unfold outWord
  rw [BitVec.getLsbD_ofNat]
  have h : (bitWord ((List.finRange 16).map g)).testBit k.val = bitOf (bitWord ((List.finRange 16).map g)) k.val := by
    rw [Nat.testBit_eq_decide_div_mod_eq]
    unfold bitOf
    cases hd : decide (bitWord ((List.finRange 16).map g) / 2 ^ k.val % 2 = 1) with
    | true => exact (beq_iff_eq.mpr (of_decide_eq_true hd)).symm
    | false => exact (beq_eq_false_iff_ne.mpr (of_decide_eq_false hd)).symm
  rw [h, bitOf_bitWord, List.getD_eq_getElem?_getD, List.getElem?_map, List.getElem?_eq_getElem (by simp)]
  simp

theorem outputSet_masks (c : Cfg) (mask value : Nat) (o : FieldOutputs) :
    (Sys2Proof.Machine.outputSet c mask value o).2.1 = bitWord ((List.finRange 16).map (fun k => bitOf mask k.val && decide (c.outSource (outSettings c k) = 1)))
    ∧ (Sys2Proof.Machine.outputSet c mask value o).2.2 = bitWord ((List.finRange 16).map (fun k => bitOf mask k.val && !decide (c.outSource (outSettings c k) = 1))) := by
  unfold Sys2Proof.Machine.outputSet
  generalize hg : (fun k : OutIx => decide (c.outSource (outSettings c k) = 1)) = g
  have hg2 : ∀ k, decide (c.outSource (outSettings c k) = 1) = g k := fun k => congrFun hg k
  simp only [hg2]
  have hok : ∀ p : OutIx → Bool, bitWord ((List.finRange 16).map (fun k => ((List.finRange 16).filter p).contains k)) = bitWord ((List.finRange 16).map p) := fun p =>
    congrArg bitWord (List.map_congr_left (fun k _ => contains_filter p k))
  rw [List.filter_filter, List.filter_filter, hok, hok]
  refine ⟨congrArg bitWord (List.map_congr_left (fun k _ => Bool.and_comm _ _)), congrArg bitWord (List.map_congr_left (fun k _ => ?_))⟩
  exact Bool.and_comm _ _

theorem find_least {α : Type} [LT α] (l : List α) (p : α → Bool) (hp : l.Pairwise (· < ·)) {x : α} (h : l.find? p = some x) :
    p x = true ∧ ∀ m ∈ l, p m = true → m = x ∨ x < m := by
  refine ⟨List.find?_some h, ?_⟩
  rw [← List.head?_filter] at h
  cases hf : l.filter p with
  | nil => rw [hf] at h; cases h
  | cons n rest =>
    rw [hf] at h
    injection h with h
    subst h
    exact filter_least l p hp hf

theorem outputSet_host (c : Cfg) (mask value : Nat) (o : FieldOutputs) :
    (∀ j : OutIx, bitOf mask j.val = true → c.outSource (outSettings c j) = 1 →
      (∀ l, l < j → bitOf mask l.val = true → outSettings c l ≠ outSettings c j) →
      (Sys2Proof.Machine.outputSet c mask value o).1.host.getLsbD (outSettings c j).val = bitOf value j.val) ∧
    (∀ k : OutIx, (∀ j : OutIx, bitOf mask j.val = true → c.outSource (outSettings c j) = 1 → outSettings c j ≠ k) →
      (Sys2Proof.Machine.outputSet c mask value o).1.host.getLsbD k.val = o.host.getLsbD k.val) := by
  have hh : ∀ k : OutIx, (Sys2Proof.Machine.outputSet c mask value o).1.host.getLsbD k.val
      = ((((List.finRange 16).find? (fun j => bitOf mask j.val && (decide (c.outSource (outSettings c j) = 1) && outSettings c j == k))).map (fun j => bitOf value j.val))).getD (o.host.getLsbD k.val) := by
    intro k
    unfold Sys2Proof.Machine.outputSet
    dsimp only
    rw [out_bit, List.find?_filter, List.find?_filter]
    simp only [Bool.decide_and, Bool.decide_eq_true]
  refine ⟨fun j hb hs hl => ?_, fun k hk => ?_⟩
  · rw [hh]
    cases hf : (List.finRange 16).find? (fun l => bitOf mask l.val && (decide (c.outSource (outSettings c l) = 1) && outSettings c l == outSettings c j)) with
    | none =>
      have := List.find?_eq_none.mp hf j (List.mem_finRange j)
      rw [hb, decide_eq_true hs, beq_self_eq_true] at this
      exact absurd rfl this
    | some x =>
      obtain ⟨f1, f2⟩ := find_least _ _ outs_sorted hf
      have hx : j = x := by
        rcases f2 j (List.mem_finRange j) (by rw [hb, decide_eq_true hs, beq_self_eq_true]; rfl) with e | e
        · exact e
        · exfalso
          rw [Bool.and_eq_true, Bool.and_eq_true] at f1
          exact hl x e f1.1 (eq_of_beq f1.2.2)
      subst hx
      rfl
  · rw [hh]
    rw [List.find?_eq_none.mpr (fun j _ hj => ?_)]
    · rfl
    · rw [Bool.and_eq_true, Bool.and_eq_true] at hj
      exact hk j hj.1 (of_decide_eq_true hj.2.1) (eq_of_beq hj.2.2)

theorem outputSet_act (p : List Byte) (m v : Nat) (h : Hdr) (i : SessIx) (u : State) (O : FieldOutputs × Nat × Nat) (hO : Sys2Proof.Machine.outputSet u.cfg m v u.outs = O) :
    (Req.outputSet p m v).act h i u = if O.2.1 = 0 ∧ O.2.2 ≠ 0 then u.answers (Answer.refused 0x3E)
      else ({ u with outs := O.1 } : State).evaluate.answers (Answer.done (le 2 O.2.1 ++ le 2 O.2.2)) := by
  unfold Req.outputSet Req.plain
  dsimp only
  rw [hO]

theorem host_records (a b : FieldOutputs) (h : a.records = b.records) : a.host = b.host := congrArg (fun r => r.host) h

end Sys2Proof.Machine
end

