-- ==== Sys2Proof/Laws/Settling.lean ====
section
/-!
SUPPORT. A tick of a doorway in FAULT, ISOLATED or MAINT, and what settling leaves (Table 1.5, R39).
-/

set_option linter.unusedVariables false
set_option linter.unusedSimpArgs false

namespace Sys2Proof.Machine

theorem tickPre_rest (e : DoorEnv) (w : Work) : (tickPre e w).dw.obst = { w.dw.obst with pending := none }
    ∧ (w.dw.sm.flags.plausibility = false → (tickPre e w).dw.sm.flags.plausibility = false) := by
  obtain ⟨⟨b, hb⟩, -⟩ := tickMarks_flags e w
  have ho : (tickMarks e w).dw.obst = { w.dw.obst with pending := none } := by
    unfold tickMarks
    rw [solenoidCheck_obst, lockTiming_obst, permitCheck_obst]
    rfl
  unfold tickPre
  refine ⟨by rw [clearGone_obst, ho], fun h => ?_⟩
  unfold clearGone
  dsimp only
  have key : ∀ (c : Bool) (u v : Work), u.dw.sm.flags.plausibility = false → v.dw.sm.flags.plausibility = false →
      (if c = true then u else v).dw.sm.flags.plausibility = false := by
    intro c u v hu hv; cases c <;> assumption
  have h0 : (tickMarks e w).dw.sm.flags.plausibility = false := by rw [hb]; exact h
  have h1 := key ((tickMarks e w).dw.sm.flags.plausibility && !implausible (tickMarks e w).dw && !dcsImplausible e (tickMarks e w).dw)
    ((tickMarks e w).smFlags (fun f => { f with plausibility := false })) (tickMarks e w) rfl h0
  exact key _ _ _ h1 h1

theorem tickPre_rankFour (e : DoorEnv) (w : Work) (h : w.dw.sm.flags.plausibility = false) : rankFour (tickPre e w).dw = rankFour w.dw := by
  have hm := tickPre_marked e w
  have hd : driveFaultCause (tickPre e w).dw = driveFaultCause w.dw := by
    unfold driveFaultCause; rw [hm.door.2.2.2, hm.step.1]
  unfold rankFour
  rw [hd, hm.inp, hm.state, hm.unlock, h, (tickPre_rest e w).2 h]

theorem ready_pre {e : DoorEnv} {w : Work} (h : w.dw.Ready e) : (tickPre e w).dw.inp.flags.valid = true ∧ (tickPre e w).dw.dis = false
    ∧ (tickPre e w).dw.eehIn = false ∧ (tickPre e w).dw.eeaOut = false := by
  have hm := tickPre_marked e w
  obtain ⟨a, b, c, d, _⟩ := h
  unfold Doorway.dis Doorway.eehIn Doorway.eeaOut Doorway.input at *
  rw [hm.inp]
  exact ⟨a.valid, b, c, d⟩

/-- Nothing of ranks 1 to 3 acts on a doorway that is ready, but for the end of EGRESS and of ISOLATED by DIS. -/
theorem ready_noRank {e : DoorEnv} {w : Work} (h : w.dw.Ready e) (h1 : w.dw.sm.state ≠ .egress)
    (h2 : w.dw.sm.state = .isolated → w.dw.sm.flags.isolatedByCmd = true) : firstRanks e (tickPre e w) = none := by
  have hm := tickPre_marked e w
  obtain ⟨p1, p2, p3, p4⟩ := ready_pre h
  have h3 : ¬((tickPre e w).dw.sm.state = .egress ∨ (tickPre e w).dw.sm.state = .isolated ∧ (tickPre e w).dw.sm.flags.isolatedByCmd = false) := by
    rw [hm.state, hm.isol]
    rintro (hx | ⟨hx, hy⟩)
    · exact h1 hx
    · rw [h2 hx] at hy; exact nomatch hy
  unfold firstRanks
  simp only [Bool.not_true, Bool.or_self, Bool.false_eq_true, if_false, p1, p2, p3, p4, Bool.not_eq_true', h3]

/-- From w to v only what a trip without a transition counts has changed (Table 6.8). -/
structure Work.Counts (w v : Work) : Prop where
  sm   : ∃ k, v.dw.sm = { w.dw.sm with counters := k }
  inp  : v.dw.inp = w.dw.inp
  door : v.dw.door = w.dw.door
  step : v.dw.step = w.dw.step

theorem Work.Counts.refl (w : Work) : w.Counts w := ⟨⟨w.dw.sm.counters, rfl⟩, rfl, rfl, rfl⟩

/-- In FAULT and ISOLATED a trip brings no transition (Table 6.8). -/
theorem takeTrip_counts (e : DoorEnv) (t : Trip) (w : Work) (hs : w.dw.sm.state = .fault ∨ w.dw.sm.state = .isolated) :
    w.Counts (takeTrip e t w) := by
  unfold takeTrip
  dsimp only
  generalize hx : (((w.count (fun c => { c with obstacles := satInc 32 c.obstacles })).cyc
    (fun c => { c with obstacles := satInc 8 c.obstacles })).obstFlags (fun f => { f with disturbed := true })) = x
  have hk : w.Counts x := by rw [← hx]; exact ⟨⟨_, rfl⟩, rfl, rfl, rfl⟩
  have a1 : x.dw.sm.state = w.dw.sm.state := by obtain ⟨⟨k, h⟩, -, -, -⟩ := hk; rw [h]
  rw [if_neg (show ¬ x.dw.sm.state = .maint by rw [a1]; rcases hs with hs | hs <;> rw [hs] <;> decide)]
  generalize hy : (if t.fromSeal = true then x.emit (.incident 1 false) else x) = y
  have hyd : y.dw = x.dw := by rw [← hy]; split <;> rfl
  have hy2 : w.Counts (tripEvent e y) := by
    obtain ⟨⟨k, h⟩, h2, h3, h4⟩ := hk
    exact ⟨⟨k, by rw [tripEvent_sm, hyd]; exact h⟩, by rw [tripEvent_inp, hyd]; exact h2, by rw [tripEvent_door, hyd]; exact h3,
      by rw [tripEvent_step, hyd]; exact h4⟩
  have hys : y.dw.sm.state = w.dw.sm.state := by rw [hyd]; exact a1
  rcases hs with hs | hs
  · rw [hys, hs]; exact hy2
  · rw [hys, hs]; exact hy2

/-- A tick of a doorway in FAULT, or ISOLATED by command. -/
theorem tick_held {e : DoorEnv} {w : Work} (h : w.dw.Ready e) (f : Work → Work)
    (hs : w.dw.sm.state = .fault ∨ w.dw.sm.state = .isolated ∧ w.dw.sm.flags.isolatedByCmd = true) :
    ∃ v, (tickPre e w).Counts v ∧ doorTickWith e f w = seeLevels e (takeEdges e (f v)) := by
  have hm := tickPre_marked e w
  have h2 : (tickPre e w).dw.sm.state = .fault ∨ (tickPre e w).dw.sm.state = .isolated := by
    rw [hm.state]; rcases hs with hs | ⟨hs, _⟩ <;> simp [hs]
  rw [tick_awake h.awake, ready_noRank h (by rcases hs with hs | ⟨hs, _⟩ <;> rw [hs] <;> decide)
    (fun hx => by rcases hs with hs | ⟨_, hb⟩; (· rw [hs] at hx; exact nomatch hx); (· exact hb))]
  dsimp only
  unfold laterRanks
  cases w.dw.obst.pending with
  | none => exact ⟨_, Work.Counts.refl _, by simp only [h2, h2.symm, if_true, h.entering, Bool.false_eq_true, if_false]⟩
  | some t => exact ⟨_, takeTrip_counts e t _ h2, by simp only [h2, h2.symm, if_true, h.entering, Bool.false_eq_true, if_false]⟩

/-- A tick of a doorway at its own course, without a close class. -/
theorem tick_open {e : DoorEnv} {w : Work} (h : w.dw.Ready e) (f : Work → Work)
    (hs : w.dw.sm.state ≠ .egress ∧ w.dw.sm.state ≠ .isolated ∧ w.dw.sm.state ≠ .fault ∧ w.dw.sm.state ≠ .maint)
    (h4 : rankFour w.dw = none) (hpl : w.dw.sm.flags.plausibility = false) (hpe : w.dw.obst.pending = none) (ht : e.tlPresent = false) :
    doorTickWith e f w = seeLevels e (takeEdges e (levelRows e (f (tickPre e w)))) := by
  have hm := tickPre_marked e w
  have hs' := hs
  rw [← hm.state] at hs'
  have h5 : rankFour (tickPre e w).dw = none := (tickPre_rankFour e w hpl).trans h4
  rw [tick_awake h.awake, ready_noRank h hs.1 (fun hx => absurd hx hs.2.1), hpe]
  dsimp only
  unfold laterRanks
  simp only [hs'.2.1, hs'.2.2.1, hs'.2.2.2, or_self, if_false, h5, h.entering, Bool.false_eq_true, ht]

/-- A tick of a doorway in MAINT. -/
theorem tick_maint {e : DoorEnv} {w : Work} (h : w.dw.Ready e) (f : Work → Work) {m : Maint} (hs : w.dw.sm.state = .maint)
    (hma : w.dw.sm.maint = some m) (h4 : rankFour w.dw = none) (hpl : w.dw.sm.flags.plausibility = false)
    (hpe : w.dw.obst.pending = none) (hr : e.release = true) :
    doorTickWith e f w = seeLevels e (dropEdges (levelRows e (f (tickPre e w)))) := by
  have hm := tickPre_marked e w
  have hs' : (tickPre e w).dw.sm.state = .maint := hm.state.trans hs
  have hma' : (tickPre e w).dw.sm.maint = some m := hm.maint.trans hma
  have h5 : rankFour (tickPre e w).dw = none := (tickPre_rankFour e w hpl).trans h4
  rw [tick_awake h.awake, ready_noRank h (by rw [hs]; decide) (fun hx => by rw [hs] at hx; exact nomatch hx), hpe]
  dsimp only
  unfold laterRanks
  simp only [hs', reduceCtorEq, or_self, if_false, h5, h.entering, Bool.false_eq_true, if_true]
  unfold maintRank
  rw [hma', hr]
  simp

/-- The marks of the state machine that entries and settling leave. -/
def SmFlags.core (f : SmFlags) : SmFlags :=
  { f with lockFailed := false, openedSince := false, openComplete := false, solenoidOff := false, tlCloseSeen := false
           classSeen := false, unlockSeen := false }

/-- From w to v an entry or settling leaves the inputs, the flags of faults and isolation, and no edge comes. -/
structure Work.Mild (w v : Work) : Prop where
  flags : v.dw.sm.flags.core = w.dw.sm.flags.core
  edges : w.dw.sm.edges = noEdges → v.dw.sm.edges = noEdges
  unlock : w.dw.sm.flags.unlockSeen = false → v.dw.sm.flags.unlockSeen = false

theorem mild_refl (w : Work) : w.Mild w := ⟨rfl, id, id⟩

theorem mild_trans {u v w : Work} (h : u.Mild v) (k : v.Mild w) : u.Mild w := ⟨k.flags.trans h.flags, fun x => k.edges (h.edges x), fun x => k.unlock (h.unlock x)⟩

theorem mild_sm {u v w : Work} (h : u.Mild v) (hs : w.dw.sm = v.dw.sm) : u.Mild w :=
  ⟨by rw [hs]; exact h.flags, fun x => by rw [hs]; exact h.edges x, fun x => by rw [hs]; exact h.unlock x⟩

theorem entryMarks_mild (e : DoorEnv) (ho : e.cfg.openMode e.d ≠ 1) (st o : DoorState) (p : Phase) (w : Work) : w.Mild (entryMarks e st o p w) := by
  have h2 : ∀ (b : Prop) (_ : Decidable b) (g : DoorCounters → DoorCounters), w.Mild (if b then w.count g else w) := by
    intro b _ g; split
    · exact ⟨rfl, id, id⟩
    · exact mild_refl w
  have hend : ∀ (u : Work) n, w.Mild u → w.Mild (cycleEnd n u) := fun u n hu => mild_sm hu (cycleEnd_sm _ _)
  have hed : ∀ (u : Work) (b : Bool) (x : Bool), u.Mild (u.sm (fun m => { m with flags := { m.flags with openedSince := x }, edges := { m.edges with auto := b && decide (e.cfg.openMode e.d = 1) } })) := by
    intro u b x
    refine ⟨rfl, fun h => ?_, id⟩
    show ({ u.dw.sm.edges with auto := _ } : Edges) = noEdges
    rw [h, decide_eq_false ho, Bool.and_false]; rfl
  cases st with
  | locked => exact hend _ _ (mild_trans (h2 _ _ _) (hed _ _ _))
  | released => exact hend _ _ (mild_trans (h2 _ _ _) (hed _ _ _))
  | unlocking => exact mild_refl w
  | opening => exact ⟨rfl, id, id⟩
  | opened => exact ⟨rfl, id, id⟩
  | closing =>
    show w.Mild (if o = .obstructed then _ else _ : Work)
    split
    · exact ⟨rfl, id, id⟩
    · exact mild_refl w
  | reopening => exact mild_sm (mild_refl w) rfl
  | obstructed => exact mild_sm (mild_refl w) rfl
  | closedUnlocked => exact ⟨rfl, id, id⟩
  | stopped => exact mild_sm (mild_refl w) rfl
  | egress => exact ⟨rfl, id, id⟩
  | isolated => exact hend _ _ (mild_refl w)
  | fault => exact mild_sm (hend w _ (mild_refl w)) rfl
  | maint => exact mild_refl w

theorem enter_mild (e : DoorEnv) (ho : e.cfg.openMode e.d ≠ 1) (st : DoorState) (ph : Phase) (cause : Option Cause) (w : Work) :
    w.Mild (enter e st ph cause w) := by
  obtain ⟨u, hu, -, -, -, -, h⟩ := enter_shape e st ph cause w
  have h1 : w.Mild (u.sm (entered e st ph cause)) := mild_trans (mild_sm (mild_refl w) hu) ⟨rfl, id, id⟩
  rw [h]
  split
  · exact h1
  · refine mild_trans ?_ (entryMarks_mild e ho _ _ _ _)
    split
    · exact mild_sm h1 (leaveFault_sm _)
    · exact h1

/-- An entry leaves the drives, but that leaving FAULT clears their codes (R182, R219). -/
theorem enter_codes (e : DoorEnv) (st : DoorState) (ph : Phase) (cause : Option Cause) (w : Work) :
    (enter e st ph cause w).dw.step.job = w.dw.step.job
      ∧ ((enter e st ph cause w).dw.door.faultCode = w.dw.door.faultCode ∧ (enter e st ph cause w).dw.step.faultCode = w.dw.step.faultCode
        ∨ (enter e st ph cause w).dw.door.faultCode = 0 ∧ (enter e st ph cause w).dw.step.faultCode = 0)
      ∧ (w.dw.sm.state = .fault → st ≠ .fault →
          (enter e st ph cause w).dw.door.faultCode = 0 ∧ (enter e st ph cause w).dw.step.faultCode = 0) := by
  obtain ⟨u, -, -, hd, hs, -, h⟩ := enter_shape e st ph cause w
  rw [h, ← hd, ← hs]
  by_cases h1 : st = w.dw.sm.state
  · rw [if_pos h1]; exact ⟨rfl, .inl ⟨rfl, rfl⟩, fun h2 h3 => absurd (h1.trans h2) h3⟩
  · rw [if_neg h1, entryMarks_door, entryMarks_step]
    by_cases h2 : w.dw.sm.state = .fault
    · rw [if_pos h2]; exact ⟨rfl, .inr ⟨rfl, rfl⟩, fun _ _ => ⟨rfl, rfl⟩⟩
    · rw [if_neg h2]; exact ⟨rfl, .inl ⟨rfl, rfl⟩, fun h3 => absurd h3 h2⟩

theorem settle_mild (e : DoorEnv) (ho : e.cfg.openMode e.d ≠ 1) (w : Work) (hi : w.dw.sm.flags.isolatedByCmd = false) (ht : e.tlPresent = false)
    (hse : w.dw.sm.flags.hasSettled = true) :
    w.Mild (settle e w) ∧ (settle e w).dw.step.job = w.dw.step.job
      ∧ ((settle e w).dw.door.faultCode = w.dw.door.faultCode ∧ (settle e w).dw.step.faultCode = w.dw.step.faultCode
        ∨ (settle e w).dw.door.faultCode = 0 ∧ (settle e w).dw.step.faultCode = 0)
      ∧ (w.dw.sm.state = .fault → (settle e w).dw.door.faultCode = 0 ∧ (settle e w).dw.step.faultCode = 0)
      ∧ (settle e w).dw.obst.pending = w.dw.obst.pending := by
  have hm : w.Mild (maintStops 3 0 w) ∧ (maintStops 3 0 w).dw.obst.pending = w.dw.obst.pending
      ∧ (maintStops 3 0 w).dw.sm.state = w.dw.sm.state := by
    unfold maintStops; split
    · exact ⟨mild_refl w, rfl, rfl⟩
    · exact ⟨⟨rfl, id, id⟩, rfl, rfl⟩
  have hm2 : (maintStops 3 0 w).dw.door = w.dw.door ∧ (maintStops 3 0 w).dw.step = w.dw.step := ⟨maintStops_door _ _ _, maintStops_step _ _ _⟩
  unfold settle
  dsimp only
  generalize maintStops 3 0 w = v at hm hm2
  generalize hu : (((v.door _).step _).sm _ : Work) = u
  have hu1 : w.Mild u ∧ u.dw.sm.flags.isolatedByCmd = false ∧ u.dw.step.job = w.dw.step.job ∧ u.dw.door.faultCode = w.dw.door.faultCode
      ∧ u.dw.step.faultCode = w.dw.step.faultCode ∧ u.dw.obst.pending = w.dw.obst.pending ∧ u.dw.sm.state = w.dw.sm.state := by
    rw [← hu]
    have hv : v.dw.sm.flags.hasSettled = true := (congrArg SmFlags.hasSettled hm.1.flags).trans hse
    refine ⟨mild_trans hm.1 ⟨?_, id, fun _ => rfl⟩, ?_, ?_, ?_, ?_, hm.2.1, hm.2.2⟩
    · show SmFlags.core { v.dw.sm.flags with hasSettled := true, solenoidOff := true, unlockSeen := false } = _
      unfold SmFlags.core; rw [hv]
    · have := congrArg SmFlags.isolatedByCmd hm.1.flags
      exact this.trans hi
    · show v.dw.step.job = _; rw [hm2.2]
    · show v.dw.door.faultCode = _; rw [hm2.1]
    · show v.dw.step.faultCode = _; rw [hm2.2]
  clear hu
  obtain ⟨u0, u1, u2, u3, u4, u5, u6⟩ := hu1
  rw [u1, ht]
  simp only [Bool.false_eq_true, if_false]
  have hent : ∀ (st : DoorState) (y : Work → Work), st ≠ .fault → (∀ x, (y x).dw.sm = x.dw.sm) → (∀ x, (y x).dw.step.job = x.dw.step.job) →
      (∀ x, (y x).dw.door.faultCode = x.dw.door.faultCode) → (∀ x, (y x).dw.step.faultCode = x.dw.step.faultCode) →
      (∀ x, (y x).dw.obst.pending = x.dw.obst.pending) → ∀ z, z = y (enter e st .none (some .settled) u) →
      w.Mild z ∧ z.dw.step.job = w.dw.step.job
        ∧ (z.dw.door.faultCode = w.dw.door.faultCode ∧ z.dw.step.faultCode = w.dw.step.faultCode ∨ z.dw.door.faultCode = 0 ∧ z.dw.step.faultCode = 0)
        ∧ (w.dw.sm.state = .fault → z.dw.door.faultCode = 0 ∧ z.dw.step.faultCode = 0)
        ∧ z.dw.obst.pending = w.dw.obst.pending := by
    intro st y hst y1 y2 y3 y4 y5 z hz
    obtain ⟨c1, c2, c3⟩ := enter_codes e st .none (some .settled) u
    rw [u2] at c1; rw [u3, u4] at c2; rw [u6] at c3
    rw [hz, y2, y3, y4, y5, enter_obst]
    exact ⟨mild_sm (mild_trans u0 (enter_mild e ho _ _ _ _)) (y1 _), c1, c2, fun h => c3 h hst, u5⟩
  split
  · exact hent (if e.release = true then .released else .locked) doorOff (by split <;> decide) (fun _ => doorOff_sm _) (fun _ => rfl)
      (fun _ => rfl) (fun _ => rfl) (fun _ => rfl) _ rfl
  · split
    · exact hent .closedUnlocked (doorHold e) (by decide) (fun _ => doorHold_sm _ _) (fun _ => rfl)
        (fun _ => rfl) (fun _ => rfl) (fun _ => rfl) _ rfl
    · exact hent .stopped (fun w => w.door (fun q => { q with
          gen := q.gen.standStopped (doorEnvOf e w.dw), integ := 0, flags := { q.flags with sealSeek := false } })) (by decide)
        (fun _ => rfl) (fun _ => rfl) (fun _ => rfl) (fun _ => rfl) (fun _ => rfl) _ rfl

end Sys2Proof.Machine
end

