-- ==== Sys2Proof/Laws/Maintenances.lean ====
section
/-!
SUPPORT. RESET, isolation by command and maintenance operations at a doorway's engine (R46, R59, R61, R184, R221).
-/

set_option linter.unusedVariables false
set_option linter.unusedSimpArgs false

namespace Sys2Proof.Machine

theorem enterUnlocking_maint (e : DoorEnv) (c : Cause) (w : Work) (h : w.dw.sm.state = .maint) :
    (enterUnlocking e c w).dw.sm = { (maintCourse e .unlocking .none w).dw.sm with
      flags := { (maintCourse e .unlocking .none w).dw.sm.flags with solenoidOff := false, grace := false } } := by
  unfold enterUnlocking goTo
  rw [if_pos h]
  dsimp only
  generalize maintCourse e .unlocking .none w = v
  have hv : (v.smFlags (fun f => { f with solenoidOff := false, grace := false })).dw.sm
    = { v.dw.sm with flags := { v.dw.sm.flags with solenoidOff := false, grace := false } } := rfl
  generalize v.smFlags (fun f => { f with solenoidOff := false, grace := false }) = u at hv ⊢
  rw [← hv]
  split <;> split <;> simp

theorem levelRows_maint {e : DoorEnv} {w : Work} {m : Maint} (h : w.dw.sm.state = .maint) (hm : w.dw.sm.maint = some m)
    (hs : m.shadow = .maint ∨ m.shadow = .unlocking ∧ w.dw.dls = true) : levelRows e w = checkDeployed e w := by
  have hco : (checkDeployed e w).dw.course = (m.shadow, m.phase) := by
    unfold Doorway.course
    rw [checkDeployed_sm, h, hm]
  have hd2 : (checkDeployed e w).dw.dls = w.dw.dls := by unfold Doorway.dls Doorway.input; rw [checkDeployed_inp]
  unfold levelRows
  dsimp only
  rw [hco]
  dsimp only
  rcases hs with hs | ⟨hs, hd⟩
  · rw [hs]
  · rw [hs]
    dsimp only
    rw [hd2, hd]
    rfl

theorem core_facts {a b : SmFlags} (h : a.core = b.core) : a.hasSettled = b.hasSettled ∧ a.halted = b.halted ∧ a.plausibility = b.plausibility
    ∧ a.isolatedByCmd = b.isolatedByCmd := by
  refine ⟨?_, ?_, ?_, ?_⟩
  · show a.core.hasSettled = b.core.hasSettled; rw [h]
  · show a.core.halted = b.core.halted; rw [h]
  · show a.core.plausibility = b.core.plausibility; rw [h]
  · show a.core.isolatedByCmd = b.core.isolatedByCmd; rw [h]

theorem startMaint_out (e : DoorEnv) (ho : e.cfg.openMode e.d ≠ 1) (op : MaintOp) (n : Nat) (w : Work)
    (hop : (∃ k, op = .test k) ∨ op = .learn ∨ ∃ k, op = .home k) :
    ∃ m, (startMaint e op n w).dw.sm.maint = some m ∧ m.op = op ∧ m.handle = n
      ∧ m.shadow = (if op.cycleType = 4 then .maint else .unlocking)
      ∧ (startMaint e op n w).dw.sm.state = .maint ∧ (startMaint e op n w).dw.sm.cause = op.cause
      ∧ (startMaint e op n w).dw.inp = w.dw.inp ∧ (startMaint e op n w).dw.obst.pending = w.dw.obst.pending
      ∧ (startMaint e op n w).dw.sm.flags.hasSettled = w.dw.sm.flags.hasSettled
      ∧ (startMaint e op n w).dw.sm.flags.halted = w.dw.sm.flags.halted
      ∧ (startMaint e op n w).dw.sm.flags.plausibility = w.dw.sm.flags.plausibility
      ∧ (op = .learn → (startMaint e op n w).dw.obst.flags.learnRunning = true) := by
  have h0 : ∃ x, x = enter e .maint .none (some op.cause) (w.sm (fun m => { m with maint := some (newMaint e op n) })) ∧ x.dw.sm.state = .maint
      ∧ x.dw.sm.cause = op.cause ∧ x.dw.sm.maint = some (newMaint e op n) ∧ x.dw.sm.flags.core = w.dw.sm.flags.core ∧ x.dw.inp = w.dw.inp
      ∧ x.dw.obst = w.dw.obst := by
    have h1 := enter_is e .maint .none (some op.cause) (w.sm (fun m => { m with maint := some (newMaint e op n) }))
    have h2 := enter_same e .maint .none (some op.cause) (w.sm (fun m => { m with maint := some (newMaint e op n) }))
    have h3 := enter_mild e ho .maint .none (some op.cause) (w.sm (fun m => { m with maint := some (newMaint e op n) }))
    exact ⟨_, rfl, h1.state, h1.cause, h2.maint, h3.flags, by simp, by simp⟩
  obtain ⟨x, hx, x1, x2, x3, x4, x5, x6⟩ := h0
  have hun : ∀ y : Work, y.dw.sm = x.dw.sm → y.dw.inp = x.dw.inp → ∀ v, v = maintUnlock e y →
      v.dw.sm.maint = some { newMaint e op n with shadow := .unlocking, phase := .none } ∧ v.dw.sm.state = .maint ∧ v.dw.sm.cause = op.cause
      ∧ v.dw.inp = w.dw.inp ∧ v.dw.obst = y.dw.obst ∧ v.dw.sm.flags.hasSettled = w.dw.sm.flags.hasSettled
      ∧ v.dw.sm.flags.halted = w.dw.sm.flags.halted ∧ v.dw.sm.flags.plausibility = w.dw.sm.flags.plausibility := by
    intro y hy hyi v hv
    subst hv
    unfold maintUnlock
    have hy' : (y.sm (fun m => { m with edges := { m.edges with auto := false } })).dw.sm = { x.dw.sm with edges := { x.dw.sm.edges with auto := false } } := by
      show ({ y.dw.sm with edges := { y.dw.sm.edges with auto := false } } : DoorSm) = _
      rw [hy]
    have hst : (y.sm (fun m => { m with edges := { m.edges with auto := false } })).dw.sm.state = .maint := by rw [hy']; exact x1
    have hob : (enterUnlocking e .maintTest (y.sm (fun m => { m with edges := { m.edges with auto := false } }))).dw.obst = y.dw.obst := by
      rw [enterUnlocking_obst]; rfl
    have hin : (enterUnlocking e .maintTest (y.sm (fun m => { m with edges := { m.edges with auto := false } }))).dw.inp = w.dw.inp := by
      rw [enterUnlocking_inp]; exact hyi.trans x5
    have hsm := enterUnlocking_maint e .maintTest _ hst
    generalize y.sm (fun m => { m with edges := { m.edges with auto := false } }) = z at *
    have hmc : (maintCourse e .unlocking .none z).dw.sm = { z.dw.sm with since := e.mono, maint := z.dw.sm.maint.map (fun q => { q with shadow := .unlocking, phase := .none }) } := by
      unfold maintCourse
      dsimp only
      show ({ (cycleAccount e z).dw.sm with since := e.mono, maint := (cycleAccount e z).dw.sm.maint.map _ } : DoorSm) = _
      rw [cycleAccount_sm]
    rw [hsm, hmc, hy']
    refine ⟨?_, x1, x2, hin, hob, (core_facts x4).1, (core_facts x4).2.1, (core_facts x4).2.2.1⟩
    show x.dw.sm.maint.map _ = _
    rw [x3]; rfl
  unfold startMaint
  dsimp only
  rw [← hx]
  rcases hop with ⟨k, rfl⟩ | rfl | ⟨k, rfl⟩
  · obtain ⟨a1, a2, a3, a4, a5, a6, a7, a8⟩ := hun x rfl rfl _ rfl
    exact ⟨_, a1, rfl, rfl, rfl, a2, a3, a4, by dsimp only; rw [a5, x6], a6, a7, a8, nofun⟩
  · obtain ⟨a1, a2, a3, a4, a5, a6, a7, a8⟩ := hun (x.obstFlags (fun f => { f with learnRunning := true })) rfl rfl _ rfl
    refine ⟨_, a1, rfl, rfl, rfl, a2, a3, a4, ?_, a6, a7, a8, fun _ => ?_⟩
    · dsimp only; rw [a5]; show x.dw.obst.pending = _; rw [x6]
    · dsimp only; rw [a5]; rfl
  · dsimp only
    have hf := core_facts x4
    have hk : ∀ v : Work, v.dw.sm = x.dw.sm → v.dw.inp = x.dw.inp → v.dw.obst = x.dw.obst → ∃ m, v.dw.sm.maint = some m ∧ m.op = .home k ∧ m.handle = n
      ∧ m.shadow = .maint ∧ v.dw.sm.state = .maint ∧ v.dw.sm.cause = MaintOp.cause (.home k) ∧ v.dw.inp = w.dw.inp ∧ v.dw.obst.pending = w.dw.obst.pending
      ∧ v.dw.sm.flags.hasSettled = w.dw.sm.flags.hasSettled ∧ v.dw.sm.flags.halted = w.dw.sm.flags.halted
      ∧ v.dw.sm.flags.plausibility = w.dw.sm.flags.plausibility ∧ (MaintOp.home k = .learn → v.dw.obst.flags.learnRunning = true) := by
      intro v h1 h2 h3
      refine ⟨_, by rw [h1]; exact x3, rfl, rfl, rfl, by rw [h1]; exact x1, by rw [h1]; exact x2, h2.trans x5, by rw [h3, x6],
        by rw [h1]; exact hf.1, by rw [h1]; exact hf.2.1, by rw [h1]; exact hf.2.2.1, nofun⟩
    exact hk _ (startHome_sm _ _ _) (startHome_inp _ _ _) (startHome_obst _ _ _)


theorem oneDoor_plain {s : State} {h : Hdr} {i : SessIx} {d : DoorIx} {refuse : State → DoorEnv → Doorway → Option Nat} {go : State → Reply}
    (ht : h.takeover = false) (hc : s.fcp.commander[d] = some i) (hf : s.cfg.isFitted d = true) :
    s.oneDoor h i d refuse go = match refuse s (s.doorEnv d) s.doors[d] with
      | some x => s.answers (Answer.refused x)
      | none => go s := by
  unfold State.oneDoor
  rw [own_plain ht hc hf]
  all_goals
    dsimp only
    cases refuse s (s.doorEnv d) s.doors[d] <;> rfl

theorem doorOfNat_val (d : DoorIx) : doorOfNat d.val = d := Fin.ext (Nat.mod_eq_of_lt d.isLt)

theorem release_of {e : DoorEnv} (h : e.tlPresent = false) : e.release = true := by
  unfold DoorEnv.tlPresent at h
  cases hr : e.release
  · rw [hr] at h; simp at h
  · rfl

/-- Edges that are ignored leave the operation in progress. -/
theorem dropEdges_maint (w : Work) : (dropEdges w).dw.sm.maint = w.dw.sm.maint := by
  have hb : ∀ (c : Bool) (f : Work → Work) (v : Work), (∀ u : Work, (f u).dw.sm.maint = u.dw.sm.maint) →
      (if c = true then f v else v).dw.sm.maint = v.dw.sm.maint := by
    intro c f v hf; cases c
    · rfl
    · exact hf v
  unfold dropEdges
  dsimp only
  rw [hb _ ignoreOpen _ (fun _ => rfl), hb _ ignoreOpen _ (fun _ => rfl), hb _ ignoreOpen _ (fun _ => rfl), hb _ ignoreButton _ (fun _ => rfl)]
  rfl

theorem maint_stays {e : DoorEnv} (ho : e.cfg.openMode e.d ≠ 1) (ht : e.tlPresent = false) {op : MaintOp} {n : Nat} {w : Work} (h : w.dw.Ready e)
    (hop : (∃ k, op = .test k) ∨ op = .learn ∨ ∃ k, op = .home k) (hd : op.cycleType = 4 ∨ w.dw.dls = true)
    (h4 : rankFour (startMaint e op n w).dw = none) (hpl : w.dw.sm.flags.plausibility = false) (hpe : w.dw.obst.pending = none) :
    ∃ m, (doorTick e (startMaint e op n w)).dw.sm.maint = some m ∧ m.op = op ∧ m.handle = n
      ∧ m.shadow = (if op.cycleType = 4 then .maint else .unlocking)
      ∧ (doorTick e (startMaint e op n w)).dw.sm.state = .maint ∧ (doorTick e (startMaint e op n w)).dw.sm.cause = op.cause
      ∧ (op = .learn → (doorTick e (startMaint e op n w)).dw.obst.flags.learnRunning = true) := by
  obtain ⟨m, a1, a2, a3, a4, a5, a6, a7, a8, a9, b1, b2, b3⟩ := startMaint_out e ho op n w hop
  generalize startMaint e op n w = v at *
  have hR : v.dw.Ready e := by
    obtain ⟨⟨c1, c2, c3, c4⟩, c5, c6, c7, c8⟩ := h
    unfold Doorway.dis Doorway.eehIn Doorway.eeaOut Doorway.input at *
    exact ⟨⟨c1, by rw [a9]; exact c2, by rw [b1]; exact c3, by rw [a7]; exact c4⟩, by unfold Doorway.dis Doorway.input; rw [a7]; exact c5,
      by unfold Doorway.eehIn Doorway.input; rw [a7]; exact c6, by unfold Doorway.eeaOut Doorway.input; rw [a7]; exact c7, c8⟩
  have hm := tickPre_marked e v
  have hobst := (tickPre_rest e v).1
  have htick : doorTick e v = seeLevels e (dropEdges (checkDeployed e (tickPre e v))) := by
    unfold doorTick
    rw [tick_maint hR id a5 a1 h4 (b2.trans hpl) (a8.trans hpe) (release_of ht)]
    refine congrArg (fun x => seeLevels e (dropEdges x)) ?_
    refine levelRows_maint (m := m) (hm.state.trans a5) (hm.maint.trans a1) ?_
    by_cases hcy : op.cycleType = 4
    · left; rw [a4, if_pos hcy]
    · right
      refine ⟨by rw [a4, if_neg hcy], ?_⟩
      have := hd.resolve_left hcy
      unfold Doorway.dls Doorway.input at *
      show (tickPre e v).dw.inp.filtered.getLsbD 1 = true
      rw [hm.inp, a7]; exact this
  rw [htick]
  refine ⟨m, ?_, a2, a3, a4, ?_, ?_, fun hl => ?_⟩
  · show (dropEdges (checkDeployed e (tickPre e v))).dw.sm.maint = _
    rw [dropEdges_maint, checkDeployed_sm]; exact hm.maint.trans a1
  · exact (dropEdges_is (w := checkDeployed e (tickPre e v)) ⟨rfl, rfl, rfl⟩).state.trans
      (by rw [checkDeployed_sm]; exact hm.state.trans a5)
  · exact (dropEdges_is (w := checkDeployed e (tickPre e v)) ⟨rfl, rfl, rfl⟩).cause.trans
      (by rw [checkDeployed_sm]; exact hm.cause.trans a6)
  · show (dropEdges (checkDeployed e (tickPre e v))).dw.obst.flags.learnRunning = _
    rw [dropEdges_obst, checkDeployed_obst, hobst]; exact b3 hl


theorem tickPre_settledF (e : DoorEnv) (w : Work) : (tickPre e w).dw.sm.flags.hasSettled = w.dw.sm.flags.hasSettled := by
  obtain ⟨⟨b, hb⟩, -⟩ := tickMarks_flags e w
  have h0 : (tickMarks e w).dw.sm.flags.hasSettled = w.dw.sm.flags.hasSettled := by rw [hb]
  have key : ∀ (c : Bool) (u v : Work) (x : Bool), u.dw.sm.flags.hasSettled = x → v.dw.sm.flags.hasSettled = x →
      (if c = true then u else v).dw.sm.flags.hasSettled = x := by
    intro c u v x hu hv; cases c <;> assumption
  unfold tickPre clearGone
  dsimp only
  have h1 := key ((tickMarks e w).dw.sm.flags.plausibility && !implausible (tickMarks e w).dw && !dcsImplausible e (tickMarks e w).dw)
    ((tickMarks e w).smFlags (fun f => { f with plausibility := false })) (tickMarks e w) _ h0 h0
  exact key _ _ _ _ h1 h1

theorem takeEdges_none (e : DoorEnv) {w : Work} (h : w.dw.sm.edges = noEdges) : takeEdges e w = w := takeEdges_quiet e h

theorem reset_is {e : DoorEnv} (ho : e.cfg.openMode e.d ≠ 1) (ht : e.tlPresent = false) {w : Work} (h : w.dw.Ready e)
    (hn : w.dw.sm.edges = noEdges) (hs : w.dw.sm.state = .fault) (hi : w.dw.sm.flags.isolatedByCmd = false) (h16 : w.dw.step.faultCode < 16)
    (hst : w.dw.step.flags.standing = true → w.dw.srs = true) :
    (doorTickWith e (fun w => if w.dw.sm.state = .fault then doReset e w else w) w).Is (settled e w.dw) .none .settled
      ∧ (doorTickWith e (fun w => if w.dw.sm.state = .fault then doReset e w else w) w).dw.door.faultCode = 0
      ∧ (doorTickWith e (fun w => if w.dw.sm.state = .fault then doReset e w else w) w).dw.step.faultCode = 0 := by
  have hm := tickPre_marked e w
  have hk : settled e (tickPre e w).dw = settled e w.dw := by
    have hr : stepRetracted e (tickPre e w).dw = stepRetracted e w.dw := by
      unfold stepRetracted; rw [tickPre_homed e w hst]
    have hin : inClosedWindow e (tickPre e w).dw = inClosedWindow e w.dw := by unfold inClosedWindow; rw [hm.door.1, hm.door.2.1]
    unfold settled pcl Doorway.dcs Doorway.dls Doorway.input
    rw [hr, hin, hm.inp]
  obtain ⟨v, ⟨⟨k, hsm⟩, hin, hdo, hst2⟩, ht2⟩ := tick_held h (fun w => if w.dw.sm.state = .fault then doReset e w else w) (.inl hs)
  rw [ht2]
  have hkv : settled e v.dw = settled e w.dw := by
    rw [← hk]
    unfold settled pcl stepRetracted inClosedWindow Doorway.stepHomed Doorway.dcs Doorway.dls Doorway.input
    rw [hin, hdo, hst2]
  have hvs : v.dw.sm.state = .fault := by rw [hsm]; exact hm.state.trans hs
  rw [if_pos hvs]
  have hx : doReset e v = settle e v := by
    have : ¬0x10 ≤ v.dw.step.faultCode := by rw [hst2, hm.step.1]; omega
    unfold doReset; rw [if_neg this]
  have vi : v.dw.sm.flags.isolatedByCmd = false := by rw [hsm]; exact hm.isol.trans hi
  rw [hx]
  obtain ⟨y1, _, _, y4, _⟩ := settle_mild e ho v vi ht (by rw [hsm]; exact (tickPre_settledF e w).trans h.awake.settled)
  have y0 := settle_is e v vi ht
  rw [takeEdges_none e (y1.edges (by rw [hsm]; exact hm.edges.trans hn))]
  rw [hkv] at y0
  exact ⟨seeLevels_is y0, (y4 hvs).1, (y4 hvs).2⟩

theorem isolate_is {e : DoorEnv} (ho : e.cfg.openMode e.d ≠ 1) {w : Work} (h : w.dw.Ready e) (hn : w.dw.sm.edges = noEdges) :
    (doorTick e (doIsolate e w)).Is .isolated .none .isolCommand ∧ (doorTick e (doIsolate e w)).dw.sm.flags.isolatedByCmd = true := by
  have hx : ∃ x : Work, (doIsolate e w).dw.sm = { x.dw.sm with
        interrupted := none, flags := { x.dw.sm.flags with unlockSeen := false, solenoidOff := true, hasSettled := true } }
      ∧ x.Is .isolated .none .isolCommand ∧ x.dw.sm.flags.core = { w.dw.sm.flags with isolatedByCmd := true }.core ∧ x.dw.sm.edges = noEdges := by
    unfold doIsolate enterIsolated
    dsimp only
    have hms : ((maintStops 3 0 (w.smFlags (fun f => { f with isolatedByCmd := true }))).dw.sm.flags = { w.dw.sm.flags with isolatedByCmd := true })
        ∧ (maintStops 3 0 (w.smFlags (fun f => { f with isolatedByCmd := true }))).dw.sm.edges = noEdges := by
      unfold maintStops; split
      · exact ⟨rfl, hn⟩
      · exact ⟨rfl, hn⟩
    generalize maintStops 3 0 (w.smFlags (fun f => { f with isolatedByCmd := true })) = u at hms
    have h1 := enter_is e .isolated .none (some .isolCommand) u
    have h2 := enter_mild e ho .isolated .none (some .isolCommand) u
    refine ⟨enter e .isolated .none (some .isolCommand) u, ?_, h1, ?_, h2.edges hms.2⟩
    · split
      · rw [doorOff_sm]; rfl
      · rw [startRetract_sm, cycleBegin_sm, doorOff_sm]; rfl
    · rw [h2.flags, hms.1]
  obtain ⟨x, hx, x1, x2, x3⟩ := hx
  have hin := doIsolate_inp e w
  obtain ⟨g1, g2, g3, g4⟩ := core_facts x2
  generalize doIsolate e w = v at *
  have hR : v.dw.Ready e := by
    obtain ⟨⟨c1, c2, c3, c4⟩, c5, c6, c7, c8⟩ := h
    unfold Doorway.dis Doorway.eehIn Doorway.eeaOut Doorway.input at *
    exact ⟨⟨c1, by rw [hx], by rw [hx]; exact g2.trans c3, by rw [hin]; exact c4⟩, by unfold Doorway.dis Doorway.input; rw [hin]; exact c5,
      by unfold Doorway.eehIn Doorway.input; rw [hin]; exact c6, by unfold Doorway.eeaOut Doorway.input; rw [hin]; exact c7, c8⟩
  have hm := tickPre_marked e v
  have v1 : v.dw.sm.state = .isolated := by rw [hx]; exact x1.state
  have v2 : v.dw.sm.flags.isolatedByCmd = true := by rw [hx]; exact g4
  unfold doorTick
  obtain ⟨u, ⟨⟨k, hsm⟩, -, -, -⟩, ht⟩ := tick_held hR id (.inr ⟨v1, v2⟩)
  rw [ht, id, takeEdges_none e (by rw [hsm]; exact hm.edges.trans (by rw [hx]; exact x3))]
  refine ⟨seeLevels_is ⟨by rw [hsm]; exact hm.state.trans v1, by rw [hsm]; exact hm.phase.trans (by rw [hx]; exact x1.phase),
    by rw [hsm]; exact hm.cause.trans (by rw [hx]; exact x1.cause)⟩, ?_⟩
  show u.dw.sm.flags.isolatedByCmd = true
  rw [hsm]; exact hm.isol.trans v2

theorem return_is {e : DoorEnv} (ho : e.cfg.openMode e.d ≠ 1) (ht : e.tlPresent = false) {w : Work} (h : w.dw.Ready e)
    (hn : w.dw.sm.edges = noEdges) (hs : w.dw.sm.state = .isolated) (h4 : rankFour w.dw = none) (hpl : w.dw.sm.flags.plausibility = false)
    (hpe : w.dw.obst.pending = none) (hc : settled e w.dw ≠ .closedUnlocked) :
    (doorTick e (doReturn e w)).Is (settled e w.dw) .none .settled ∧ (doorTick e (doReturn e w)).dw.sm.flags.isolatedByCmd = false := by
  have hdr : doReturn e w = settle e (w.smFlags (fun f => { f with isolatedByCmd := false })) := if_pos hs
  have hcf : w.dw.inp.flags.commonFault = false := by
    unfold rankFour at h4
    cases hdf : driveFaultCause w.dw with
    | some c => rw [hdf] at h4; cases h4
    | none =>
      rw [hdf, hpl, hs] at h4
      cases hq : w.dw.inp.flags.commonFault
      · rfl
      · rw [hq] at h4; simp at h4
  have hus : w.dw.sm.flags.unlockSeen = false := by
    unfold rankFour at h4
    cases hdf : driveFaultCause w.dw with
    | some c => rw [hdf] at h4; cases h4
    | none =>
      rw [hdf, hpl, hcf] at h4
      cases hq : w.dw.sm.flags.unlockSeen
      · rfl
      · rw [hq] at h4; simp at h4
  have hdf : driveFaultCause w.dw = none := by
    unfold rankFour at h4
    cases hdf : driveFaultCause w.dw with
    | some c => rw [hdf] at h4; cases h4
    | none => rfl
  obtain ⟨y1, y2, y3, -, y5⟩ := settle_mild e ho (w.smFlags (fun f => { f with isolatedByCmd := false })) rfl ht h.awake.settled
  have y0 := settle_is e (w.smFlags (fun f => { f with isolatedByCmd := false })) rfl ht
  have yi := settle_inp e (w.smFlags (fun f => { f with isolatedByCmd := false }))
  have hk : settled e (w.smFlags (fun f => { f with isolatedByCmd := false })).dw = settled e w.dw := rfl
  rw [hk] at y0
  rw [hdr]
  obtain ⟨g1, g2, g3, g4⟩ := core_facts y1.flags
  have ye := y1.edges hn
  generalize settle e (w.smFlags (fun f => { f with isolatedByCmd := false })) = v at *
  have yi' : v.dw.inp = w.dw.inp := yi
  have hR : v.dw.Ready e := by
    obtain ⟨⟨c1, c2, c3, c4⟩, c5, c6, c7, c8⟩ := h
    unfold Doorway.dis Doorway.eehIn Doorway.eeaOut Doorway.input at *
    exact ⟨⟨c1, g1.trans c2, g2.trans c3, by rw [yi']; exact c4⟩, by unfold Doorway.dis Doorway.input; rw [yi']; exact c5,
      by unfold Doorway.eehIn Doorway.input; rw [yi']; exact c6, by unfold Doorway.eeaOut Doorway.input; rw [yi']; exact c7, c8⟩
  have hst : settled e w.dw = .released ∨ settled e w.dw = .stopped := by
    unfold settled at hc ⊢
    split
    · exact .inl rfl
    · rename_i hz
      rw [if_neg hz] at hc
      split
      · rename_i hz2; rw [if_pos hz2] at hc; exact absurd rfl hc
      · exact .inr rfl
  have hvr : rankFour v.dw = none := by
    have hd2 : driveFaultCause v.dw = none := by
      rcases y3 with ⟨e1, e2⟩ | ⟨e1, e2⟩
      · have e1 : v.dw.door.faultCode = w.dw.door.faultCode := e1
        have e2 : v.dw.step.faultCode = w.dw.step.faultCode := e2
        unfold driveFaultCause at hdf ⊢; rw [e1, e2]; exact hdf
      · unfold driveFaultCause; rw [e1, e2]; rfl
    have e3 : v.dw.sm.flags.plausibility = false := g3.trans hpl
    have e4 : v.dw.sm.flags.unlockSeen = false := y1.unlock hus
    unfold rankFour
    rw [hd2, e3, yi', hcf, e4]
    rfl
  have hm := tickPre_marked e v
  have hstate : v.dw.sm.state ≠ .egress ∧ v.dw.sm.state ≠ .isolated ∧ v.dw.sm.state ≠ .fault ∧ v.dw.sm.state ≠ .maint := by
    rw [y0.state]; rcases hst with hst | hst <;> rw [hst] <;> decide
  unfold doorTick
  rw [tick_open hR id hstate hvr (g3.trans hpl) (y5.trans hpe) ht, id]
  have hl := levelRows_sm e (w := tickPre e v) (by rw [hm.state]; exact hstate.2.2.2) (by
    rw [hm.state, hm.phase, y0.state, y0.phase]; rcases hst with hst | hst <;> rw [hst] <;> rfl)
  generalize levelRows e (tickPre e v) = u at *
  rw [takeEdges_none e (by rw [hl]; exact hm.edges.trans ye)]
  refine ⟨seeLevels_is ⟨?_, ?_, ?_⟩, ?_⟩
  · rw [hl]; exact hm.state.trans y0.state
  · rw [hl]; exact hm.phase.trans y0.phase
  · rw [hl]; exact hm.cause.trans y0.cause
  · show u.dw.sm.flags.isolatedByCmd = false; rw [hl]; exact hm.isol.trans g4

end Sys2Proof.Machine
end

