-- ==== Sys2Proof/Laws/ServiceCommands.lean ====
section
/-!
SUPPORT. SELFTEST, LEG_SUBSTITUTE, SCHED_LOAD, APP_LOAD and APP_CONTROL: what each leaves (chapters 12, 15 and 16).
-/

set_option linter.unusedVariables false
set_option linter.unusedSimpArgs false

namespace Sys2Proof.Machine

/-- The service part but for the mark of an aborted self-test. -/
def Service.unmarked (v : Service) : Service := { v with selftest := v.selftest.map (fun t => { t with aborted := false }) }

theorem map_mark (x : Option SelfTest) : (x.map (fun t => { t with aborted := true })).map (fun t : SelfTest => { t with aborted := false }) = x.map (fun t => { t with aborted := false }) := by
  cases x <;> rfl

theorem unmarked_mark (v : Service) : Service.unmarked { v with selftest := v.selftest.map (fun t => { t with aborted := true }) } = Service.unmarked v := by
  unfold Service.unmarked
  dsimp only
  rw [map_mark]

theorem maintEnds_unmarked (s : State) (d : DoorIx) (m : Maint) (o r : Nat) : Service.unmarked (s.maintEnds d m o r).service = Service.unmarked s.service := by
  unfold State.maintEnds
  dsimp only
  split
  · rw [complete_service]
  · rw [complete_service]
  · rw [complete_service]
  · rfl
  · exact unmarked_mark s.service

theorem applyFx_unmarked (d : DoorIx) (s : State) (x : DoorFx) : Service.unmarked (s.applyFx d x).service = Service.unmarked s.service := by
  cases x with
  | event c p => rfl
  | incident c step =>
    exact congrArg Service.unmarked ((State.incident_keeps (Within.refl _) (Keeps.refl _ s) c false (some d) (some (if step then stepDrive d else doorDrive d)) false false).only .service (by decide))
  | cycleRecord c st => exact congrArg Service.unmarked ((State.stage_keeps (Within.refl _) (Keeps.refl _ s) _ _).only .service (by decide))
  | flush => rfl
  | releaseBlocked => rfl
  | pulse => rfl
  | tripsEnd => rfl
  | maintEnd m o r => exact maintEnds_unmarked s d m o r

theorem runDoor_unmarked (s : State) (d : DoorIx) (f : DoorEnv → Work → Work) : Service.unmarked (s.runDoor d f).service = Service.unmarked s.service := by
  unfold State.runDoor
  split
  · rfl
  · dsimp only
    generalize f (s.doorEnv d) ⟨s.doors[d], []⟩ = w
    have h1 : ∀ (l : List DoorFx) (t : State), Service.unmarked (l.foldl (State.applyFx d) t).service = Service.unmarked t.service := by
      intro l
      induction l with
      | nil => exact fun _ => rfl
      | cons x l ih => exact fun t => (ih _).trans (applyFx_unmarked d t x)
    have h2 : ∀ t : State, (((t.followDoor d).egressRows d).evaluate).fresh.service = t.service := by
      intro t
      have k1 := State.followDoor_keeps (Within.refl _) (Keeps.refl _ t) d
      have k2 := State.egressRows_keeps (Within.refl _) (Keeps.refl _ (t.followDoor d)) d
      have k3 := State.evaluate_keeps (Within.refl _) (Keeps.refl _ ((t.followDoor d).egressRows d))
      exact (k3.only .service (by decide)).trans ((k2.only .service (by decide)).trans (k1.only .service (by decide)))
    rw [h2, h1]

theorem runDoor_brambles (s : State) (d : DoorIx) (f : DoorEnv → Work → Work) : (s.runDoor d f).service.brambles = s.service.brambles :=
  (congrArg Service.brambles (runDoor_unmarked s d f) :)

theorem runDoors_unmarked (f : DoorEnv → Work → Work) : ∀ (l : List DoorIx) (s : State),
    Service.unmarked (l.foldl (fun s d => s.runDoor d f) s).service = Service.unmarked s.service := by
  intro l
  induction l with
  | nil => exact fun _ => rfl
  | cons x l ih => exact fun s => (ih _).trans (runDoor_unmarked s x f)

theorem runDoors_hush (f : DoorEnv → Work → Work) (l : List DoorIx) (s : State) : s.Hush (l.foldl (fun s d => s.runDoor d f) s) :=
  State.Hush.foldl l (fun t x => t.runDoor_hush x f) (State.Hush.refl _)

/-- REFLEX_PATH leaves the service part and the sessions but for events. -/
theorem reflexTest_rest (s : State) (d : DoorIx) : s.Hush (s.reflexTest d) ∧ (s.reflexTest d).service = s.service := by
  have hk : Keeps [.doors, .quince, .fcp, .log] s (s.reflexTest d) := State.reflexTest_keeps (Within.refl _) (Keeps.refl _ s) d
  refine ⟨?_, hk.only .service (by decide)⟩
  unfold State.reflexTest
  exact State.Hush.foldl drives (fun t c => State.latchAction_hush t 62 0 _ c) (.refl s)

/-- A self-test begins at each of its doorways. -/
def State.testsAt (tests n : Nat) (s : State) (d : DoorIx) : State :=
  let s := s.runDoor d (fun e w => startTest e tests n w)
  if bitOf tests 0 then s.reflexTest d else s

theorem testsAt_rest (tests n : Nat) (s : State) (d : DoorIx) :
    s.Hush (State.testsAt tests n s d) ∧ Service.unmarked (State.testsAt tests n s d).service = Service.unmarked s.service := by
  unfold State.testsAt
  dsimp only
  have h1 := s.runDoor_hush d (fun e w => startTest e tests n w)
  have h2 := runDoor_unmarked s d (fun e w => startTest e tests n w)
  split
  · have h3 := reflexTest_rest (s.runDoor d (fun e w => startTest e tests n w)) d
    exact ⟨h1.trans h3.1, by rw [h3.2]; exact h2⟩
  · exact ⟨h1, h2⟩

theorem testsFold_unmarked (tests n : Nat) : ∀ (l : List DoorIx) (s : State),
    Service.unmarked (l.foldl (State.testsAt tests n) s).service = Service.unmarked s.service := by
  intro l
  induction l with
  | nil => exact fun _ => rfl
  | cons x l ih => exact fun s => (ih _).trans (testsAt_rest tests n s x).2

theorem selftest_act (p : List Byte) (tests mask : Nat) (h : Hdr) (i : SessIx) (u : State) : ∀ busy : Bool,
    (u.service.selftest.isSome || doorways.any (fun d => bitOf mask d.val && u.testable d && u.service.brambles[pairOf d].running.isSome)) = busy →
    (Req.selftest p tests mask).act h i u = if busy = true then u.answers (Answer.busy 0x4A)
      else u.accepts i 0x0803 .selftest noDoors (fun n t => t.selftestStarts i tests mask n) := by
  intro b hb
  subst hb
  rfl

theorem starts_out (v : State) (i : SessIx) (tests mask n : Nat) : v.Hush (v.selftestStarts i tests mask n) ∧ ∃ x,
    (v.selftestStarts i tests mask n).service.selftest = some x ∧ x.handle = n ∧ x.session = i ∧ x.tests = tests ∧ x.started = v.mono
      ∧ ∀ d : DoorIx, x.doors[d] = (tests % 4 != 0 && bitOf mask d.val && v.testable d) := by
  unfold State.selftestStarts
  extract_lets asked ds skipped src s1
  have hff : s1.Hush ((doorways.filter (fun d => ds[d])).foldl (State.testsAt tests n) s1) :=
    State.Hush.foldl _ (fun t x => (testsAt_rest tests n t x).1) (.refl s1)
  refine ⟨State.Hush.trans (State.Hush.of_fcp rfl) hff, ?_⟩
  have hu := testsFold_unmarked tests n (doorways.filter (fun d => ds[d])) s1
  change ∃ x, ((doorways.filter (fun d => ds[d])).foldl (State.testsAt tests n) s1).service.selftest = some x ∧ _
  generalize (doorways.filter (fun d => ds[d])).foldl (State.testsAt tests n) s1 = t at *
  have hu := congrArg Service.selftest hu
  have hu : t.service.selftest.map (fun t => { t with aborted := false }) = some { handle := n, session := i, tests := tests, doors := ds, skipped := skipped, started := v.mono, aborted := false } := hu
  cases hv : t.service.selftest with
  | none => rw [hv] at hu; cases hu
  | some x =>
    rw [hv] at hu
    have hu := Option.some.inj hu
    refine ⟨x, rfl, (congrArg SelfTest.handle hu :), (congrArg SelfTest.session hu :), (congrArg SelfTest.tests hu :), (congrArg SelfTest.started hu :), fun d => ?_⟩
    have hd : x.doors = ds := (congrArg SelfTest.doors hu :)
    rw [hd]
    exact tab_get _ _

theorem legSub_act (params : List Byte) (pair leg : Nat) (h : Hdr) (i : SessIx) (u : State) : ∀ (p : Fin 4) (l : Option (Fin 14)),
    (Fin.ofNat 4 pair : Fin 4) = p → (if h : leg < 14 then some ⟨leg, h⟩ else none : Option (Fin 14)) = l →
    (Req.legSubstitute params pair leg).act h i u =
    if 4 ≤ pair ∨ (14 ≤ leg ∧ leg ≠ 0xFF) then u.answers (Answer.refused 0x0C)
    else if !u.pairQuiet p then u.answers (Answer.refused 0x6A)
    else if u.pairBusy p then u.answers (Answer.busy 0x4A)
    else match u.service.brambles[p].legRefusal i l with
      | some x => u.answers (Answer.refused x)
      | none => u.accepts i 0x0804 .legSubstitute noDoors (fun n t =>
          (match l with
            | some k => t.onPair p (fun b => b.mark k)
            | none => t).startSub p l (some n) (legDrive p (l.getD (u.service.brambles[p].leg.getD 0)))) := by
  intro p l hp hl
  subst hp hl
  rfl

theorem startSub_out (v : State) (p : Fin 4) (l : Option (Fin 14)) (n : Option Nat) (r : DriveIx) (u : State) (hu : u = (match l with
    | some k => v.onPair p (fun b => b.mark k)
    | none => v)) : v.Hush (u.startSub p l n r) ∧
    (u.startSub p l n r).service.brambles[p].running = some { leg := l, handle := n, started := v.mono }
      ∧ ∀ k : Fin 14, (u.startSub p l n r).service.brambles[p].failed[k] = (v.service.brambles[p].failed[k] || l == some k) := by
  have hon : ∀ (w : State) (f : Bramble → Bramble), (w.onPair p f).service.brambles[p] = f w.service.brambles[p] := by
    intro w f
    show (w.service.brambles.set p _)[p] = _
    rw [set_get, if_pos rfl]
  have hm : u.mono = v.mono ∧ v.Hush u := by subst hu; cases l <;> exact ⟨rfl, State.Hush.of_fcp rfl⟩
  have hf : ∀ k : Fin 14, u.service.brambles[p].failed[k] = (v.service.brambles[p].failed[k] || l == some k) := by
    intro k
    subst hu
    cases l with
    | none => simp
    | some x =>
      dsimp only
      rw [hon]
      show (v.service.brambles[p].failed.set x true)[k] = _
      rw [set_get]
      by_cases hx : x = k
      · rw [if_pos hx, hx]; simp
      · rw [if_neg hx]
        have : (some x == some k) = false := by simp [hx]
        rw [this, Bool.or_false]
  unfold State.startSub
  have hw : ∃ w, w = u.onPair p (fun b => { b with running := some ({ leg := l, handle := n, started := u.mono } : Substitution) }) := ⟨_, rfl⟩
  obtain ⟨w, hw⟩ := hw
  rw [← hw]
  have h1 : w.service.brambles[p].running = some { leg := l, handle := n, started := v.mono } := by rw [hw, hon, hm.1]
  have h2 : w.service.brambles[p].failed = u.service.brambles[p].failed := by rw [hw, hon]
  have h3 : v.Hush w := hm.2.trans (by rw [hw]; exact State.Hush.of_fcp rfl)
  clear hw
  have hs := runDoor_brambles w (doorOf r) (fun e w => onInterruption e (isStep r) .legSubstitution w)
  refine ⟨h3.trans (State.runDoor_hush _ _ _), ?_, fun k => ?_⟩
  · rw [hs]; exact h1
  · rw [hs, h2]; exact hf k

theorem sched_act (p : List Byte) (channel : Nat) (b : List Byte) (h : Hdr) (i : SessIx) (u : State) :
    ∀ ch : CanIx, canOfNat channel = ch → (Req.schedLoad p channel b).act h i u =
    if 2 ≤ channel then u.answers (Answer.refused 0x0C)
    else match schedRefusal u.cfg ch b with
      | some (slot, cycle) => u.answers { Answer.refused 0x23 with payload := le 2 slot ++ le 1 cycle }
      | none =>
        if u.config.commit.isSome then u.answers (Answer.busy 0x4A)
        else ({ u with can := u.can.channel ch (fun k => { k with loaded := some b }) }).answers (Answer.done []) := by
  intro ch hc
  subst hc
  rfl

theorem stored_only {s u : State} {h : Hdr} {i : SessIx} {q : Req} {a : Answer} (k : s.Admits h i q) (ho : q.opcode ≠ 0x0101)
    (hact : q.act h i (s.admitted h i) = u.answers a) : (s.receive h q).Answered i h q a ∧ ∃ p w, s.receive h q = { u with fcp := p, free := w } 
      ∧ ∀ j : SessIx, p.sessions[j].state = u.fcp.sessions[j].state := by
  obtain ⟨a1, a2⟩ := k.answers ho hact
  rw [a1]
  obtain ⟨h1, _, _, _, h5⟩ := u.answerStored_only h i q a ho
  generalize u.answerStored h i q a = v at *
  refine ⟨a2, v.fresh.fcp, v.fresh.free, ?_, h5⟩
  rw [h1]; rfl

theorem appLoad_act (p : List Byte) (offset flags : Nat) (block : List Byte) (h : Hdr) (i : SessIx) (u : State) : ∀ x,
    u.engines.app.loadRefusal offset (bitOf flags 0) = x →
    (Req.appLoad p offset flags block).act h i u = match x with
      | some x => u.answers (Answer.refused x)
      | none => u.appLoad (bitOf flags 0) (bitOf flags 1) block := by
  intro x hx; subst hx; rfl

theorem appStore_app (s : State) (st : AppState) (image loaded : List Byte) : (s.appStore st image loaded).engines.app =
    { s.engines.app with state := st, cause := if st = .empty then 0 else s.engines.app.cause, image := image, loaded := loaded } := by
  unfold State.appStore
  dsimp only
  split <;> rfl

theorem appControl_act (p : List Byte) (action : Nat) (h : Hdr) (i : SessIx) (u : State) :
    (Req.appControl p action).act h i u = if action ≠ 0 ∧ u.engines.app.state = .empty then u.answers (Answer.refused 0x6E)
      else (u.appControl action).answers (Answer.done (u.appControl action).appStatus) := rfl

theorem events_same (s : State) (l : Events) : (s.events l).mono = s.mono ∧ ∀ j : SessIx, (s.events l).fcp.sessions[j].state = s.fcp.sessions[j].state :=
  ⟨(State.events_keeps (Within.refl _) (Keeps.refl _ s) l).only .mono (by decide), fun j => core_state (State.events_hush s l j)⟩

theorem appEnds_zero (u : State) :
    (u.engines.app.state = .running ∨ u.engines.app.state = .starting → (u.appEnds 0).engines.app.state = .stopped ∧ (u.appEnds 0).engines.app.cause = 0
      ∧ (u.appEnds 0).fcp.sessions[(5 : SessIx)].state = .closed ∧ (u.appEnds 0).engines.app.entry = u.engines.app.entry ∧ (u.appEnds 0).mono = u.mono) ∧
    (u.engines.app.state ≠ .running → u.engines.app.state ≠ .starting → u.appEnds 0 = u) := by
  refine ⟨fun h => ?_, fun h1 h2 => ?_⟩
  · unfold State.appEnds
    rw [if_neg (by rcases h with h | h <;> rw [h] <;> simp)]
    dsimp only
    obtain ⟨m1, m2⟩ := events_same (({ u with engines := (u.engines.appEnd u.now 0).1, can := u.can.appStops u.cfg } : State).closeSession 5 false) (u.engines.appEnd u.now 0).2
    have e : (u.engines.appEnd u.now 0).1.app.state = .stopped ∧ (u.engines.appEnd u.now 0).1.app.cause = 0 ∧ (u.engines.appEnd u.now 0).1.app.entry = u.engines.app.entry := by
      unfold Engines.appEnd
      dsimp only
      rw [if_neg (by rcases h with h | h <;> rw [h] <;> simp)]
      exact ⟨rfl, rfl, rfl⟩
    rw [events_engines, closeSession_engines]
    refine ⟨e.1, e.2.1, ?_, e.2.2, ?_⟩
    · rw [m2, closeSession_state, if_pos rfl]
    · rw [m1]; unfold State.closeSession; split <;> rfl
  · unfold State.appEnds
    rw [if_pos ⟨h1, h2⟩]

theorem appStarts_out (u : State) (h : u.engines.app.state ≠ .empty) : u.appStarts.mono = u.mono ∧ u.appStarts.engines.app.state = .running
    ∧ u.appStarts.engines.app.restartTimes = u.engines.app.restartTimes
    ∧ (u.engines.app.state = .running → u.appStarts.engines = u.engines)
    ∧ (u.engines.app.state ≠ .running → u.appStarts.engines.app.cause = 0 ∧ u.appStarts.engines.app.runSince = u.mono ∧ u.appStarts.engines.app.wdKick = u.mono
      ∧ u.appStarts.engines.views[(11 : Fin 12)] = { IntView.reset with pc := (u.engines.app.entry : Int) }) := by
  unfold State.appStarts
  dsimp only
  obtain ⟨m1, m2⟩ := events_same ({ u with engines := (u.engines.appStart u.cfg u.now u.mono).1 } : State) (u.engines.appStart u.cfg u.now u.mono).2
  rw [m1, events_engines]
  by_cases hr : u.engines.app.state = .running
  · have : u.engines.appStart u.cfg u.now u.mono = (u.engines, []) := by
      unfold Engines.appStart; dsimp only; rw [if_pos (.inr hr)]
    rw [this]
    exact ⟨rfl, hr, rfl, fun _ => rfl, fun h => absurd hr h⟩
  · unfold Engines.appStart
    dsimp only
    rw [if_neg (by simp [h, hr])]
    refine ⟨rfl, rfl, rfl, fun h => absurd h hr, fun _ => ⟨rfl, rfl, rfl, ?_⟩⟩
    show (u.engines.views.set 11 _)[11] = _
    rw [Vector.getElem_set_self]
    rfl

theorem status_same (u : State) (p : Fcp) (w : Nat) : ({ u with fcp := p, free := w } : State).appStatus = u.appStatus := rfl

end Sys2Proof.Machine
end

