-- ==== Sys2Proof/Laws/PacketBytes.lean ====
section
/-!
SUPPORT. Command packets as bytes: building one and reading it back (Tables 9.1 and 9.14).
-/

set_option linter.unusedVariables false
set_option linter.unusedSimpArgs false

namespace Sys2Proof.Machine

theorem hosted_exec {c : Instr} {h : Hdr} {q : Req} (hc : hosted c = some (h, q)) (s : State) : exec c s = .next (s.receive h q) := by
  cases c <;> first | (cases hc; rfl) | (cases hc)

theorem ofLe_le (n v : Nat) : ofLe (le n v) = v % 256 ^ n := by
  induction n generalizing v with
  | zero => show 0 = v % 1; omega
  | succ n ih =>
    show (BitVec.ofNat 8 v).toNat + 256 * ofLe (le n (v / 256)) = _
    rw [ih, Nat.pow_succ, Nat.mul_comm (256 ^ n) 256, Nat.mod_mul]
    simp

theorem field_at (a b : List Byte) (n v k : Nat) (hk : a.length = k) : fieldAt (a ++ (le n v ++ b)) k n = v % 256 ^ n := by
  unfold fieldAt
  rw [← hk, List.drop_left, List.take_left' (le_length n v), ofLe_le]

theorem field_skip (m v k n : Nat) (b : List Byte) (h : m ≤ k) : fieldAt (le m v ++ b) k n = fieldAt b (k - m) n := by
  unfold fieldAt
  rw [List.drop_append, List.drop_eq_nil_of_le (by rw [le_length]; exact h), le_length]
  rfl

theorem field_here (n v : Nat) (b : List Byte) : fieldAt (le n v ++ b) 0 n = v % 256 ^ n := field_at [] b n v 0 rfl

theorem field_only (n v : Nat) : fieldAt (le n v) 0 n = v % 256 ^ n := by
  have := field_here n v []
  rwa [List.append_nil] at this

theorem crcBit_lt (c n : Nat) (h : c < 2 ^ 32) : crcBit c < 2 ^ 32 := by
  unfold crcBit
  split
  · exact Nat.xor_lt_two_pow (by omega) (by omega)
  · omega

theorem crcByte_lt (c : Nat) (b : Byte) (h : c < 2 ^ 32) : crcByte c b < 2 ^ 32 := by
  unfold crcByte
  have h0 : c ^^^ b.toNat < 2 ^ 32 := Nat.xor_lt_two_pow h (by have := b.isLt; omega)
  exact crcBit_lt _ 0 (crcBit_lt _ 0 (crcBit_lt _ 0 (crcBit_lt _ 0 (crcBit_lt _ 0 (crcBit_lt _ 0 (crcBit_lt _ 0 (crcBit_lt _ 0 h0)))))))

theorem crc_lt (b : List Byte) : crc32c b < 2 ^ 32 := by
  unfold crc32c
  refine Nat.xor_lt_two_pow ?_ (by decide)
  have : ∀ (l : List Byte) (c : Nat), c < 2 ^ 32 → l.foldl crcByte c < 2 ^ 32 := by
    intro l
    induction l with
    | nil => exact fun _ h => h
    | cons x l ih => exact fun c h => ih _ (crcByte_lt c x h)
  exact this b _ (by decide)

/-- The bytes of a packet before its CRC. -/
def packetBody (h : Hdr) (opcode : Nat) (params : List Byte) : List Byte :=
  le 2 0x6A44 ++ (le 1 h.format.toNat ++ (le 1 (sessionByte h) ++ (le 2 opcode ++ (le 2 h.hseq.toNat ++ (le 2 h.dack.toNat
    ++ (le 2 params.length ++ (le 4 h.tag.toNat ++ params)))))))

theorem packet_is (h : Hdr) (opcode : Nat) (params : List Byte) :
    commandPacket h opcode params = packetBody h opcode params ++ le 4 (crc32c (packetBody h opcode params)) := by
  unfold commandPacket packetBody
  simp only [List.append_assoc]

theorem body_length (h : Hdr) (opcode : Nat) (params : List Byte) : (packetBody h opcode params).length = 16 + params.length := by
  unfold packetBody
  simp only [List.length_append, le_length]
  omega

theorem session_lt (h : Hdr) : sessionByte h < 256 := by
  unfold sessionByte
  have := h.session.isLt
  cases h.resume <;> cases h.takeover <;> simp <;> omega

theorem packet_fields (h : Hdr) (op : Nat) (p : List Byte) (ho : op < 65536) (hp : p.length ≤ 1008) :
    fieldAt (commandPacket h op p) 0 2 = 0x6A44 ∧ fieldAt (commandPacket h op p) 2 1 = h.format.toNat
      ∧ fieldAt (commandPacket h op p) 3 1 = sessionByte h ∧ fieldAt (commandPacket h op p) 4 2 = op
      ∧ fieldAt (commandPacket h op p) 6 2 = h.hseq.toNat ∧ fieldAt (commandPacket h op p) 8 2 = h.dack.toNat
      ∧ fieldAt (commandPacket h op p) 10 2 = p.length ∧ fieldAt (commandPacket h op p) 12 4 = h.tag.toNat := by
  rw [packet_is]
  generalize le 4 (crc32c (packetBody h op p)) = z
  unfold packetBody
  have h1 := h.format.isLt
  have h2 := h.hseq.isLt
  have h3 := h.dack.isLt
  have h4 := h.tag.isLt
  have h5 := session_lt h
  refine ⟨?_, ?_, ?_, ?_, ?_, ?_, ?_, ?_⟩ <;>
    simp only [List.append_assoc, field_skip, field_here, Nat.reduceLeDiff, Nat.reduceSub, Nat.reducePow, Nat.le_refl, Nat.sub_self] <;> omega

theorem packet_ok (h : Hdr) (op : Nat) (p : List Byte) (ho : op < 65536) (hp : p.length ≤ 1008) :
    packetOk (commandPacket h op p) = true ∧ (commandPacket h op p).length = 20 + p.length
      ∧ ((commandPacket h op p).drop 16).take ((commandPacket h op p).length - 20) = p := by
  obtain ⟨f1, f2, f3, f4, f5, f6, f7, f8⟩ := packet_fields h op p ho hp
  have hl : (commandPacket h op p).length = 20 + p.length := by
    rw [packet_is, List.length_append, body_length, le_length]; omega
  have hb : (commandPacket h op p).take (16 + p.length) = packetBody h op p := by
    rw [packet_is, ← body_length h op p, List.take_left]
  have hc : fieldAt (commandPacket h op p) (16 + p.length) 4 = crc32c (packetBody h op p) := by
    have := field_at (packetBody h op p) [] 4 (crc32c (packetBody h op p)) (16 + p.length) (body_length h op p)
    rw [List.append_nil, ← packet_is] at this
    rw [this]
    exact Nat.mod_eq_of_lt (crc_lt _)
  have hs : (commandPacket h op p).length - 4 = 16 + p.length := by omega
  refine ⟨?_, hl, ?_⟩
  · unfold packetOk packetLen
    rw [hs, hb, hc, f1, f7, hl]
    simp
    omega
  · rw [hl, packet_is]
    have e : packetBody h op p = (le 2 0x6A44 ++ (le 1 h.format.toNat ++ (le 1 (sessionByte h) ++ (le 2 op ++ (le 2 h.hseq.toNat ++ (le 2 h.dack.toNat
      ++ (le 2 p.length ++ le 4 h.tag.toNat))))))) ++ p := by unfold packetBody; simp only [List.append_assoc]
    rw [e, List.append_assoc, List.drop_left' (by simp only [List.length_append, le_length]), show 20 + p.length - 20 = p.length by omega, List.take_left]

theorem packet_hdr (h : Hdr) (op : Nat) (p : List Byte) (ho : op < 65536) (hp : p.length ≤ 1008) (ht : h.trainWide = false) :
    packetHdr h.transport h.source false (commandPacket h op p) = h := by
  obtain ⟨f1, f2, f3, f4, f5, f6, f7, f8⟩ := packet_fields h op p ho hp
  unfold packetHdr
  dsimp only
  rw [f2, f3, f5, f6, f8]
  cases h with
  | mk tr src tw fm ses rs tk hq da tg =>
    have ht : tw = false := ht
    subst ht
    have h1 : BitVec.ofNat 4 (sessionByte ⟨tr, src, false, fm, ses, rs, tk, hq, da, tg⟩) = ses := by
      apply BitVec.eq_of_toNat_eq
      have := ses.isLt
      unfold sessionByte
      rw [BitVec.toNat_ofNat]
      cases rs <;> cases tk <;> simp <;> omega
    have h2 : bitOf (sessionByte ⟨tr, src, false, fm, ses, rs, tk, hq, da, tg⟩) 4 = rs := by
      have := ses.isLt
      unfold sessionByte bitOf
      cases rs <;> cases tk <;> simp <;> omega
    have h3 : bitOf (sessionByte ⟨tr, src, false, fm, ses, rs, tk, hq, da, tg⟩) 5 = tk := by
      have := ses.isLt
      unfold sessionByte bitOf
      cases rs <;> cases tk <;> simp <;> omega
    rw [h1, h2, h3]
    simp

theorem datagram_runs (s : State) (h : Hdr) (op : Nat) (p : List Byte) (source : BitVec 48) (ho : op < 65536) (hp : p.length ≤ 1008)
    (h1 : h.transport = .service) (h2 : h.source = source.toNat) (h3 : h.trainWide = false) (hr : s.commsRuns = true ∨ s.service.fw.bootLoader = true) :
    exec (.serviceDatagramReceived source (commandPacket h op p)) s = .next (s.receive h (request op p)) := by
  show Host.Outcome.next (s.packet .service source.toNat false (commandPacket h op p)) = _
  obtain ⟨k1, k2, k3⟩ := packet_ok h op p ho hp
  unfold State.packet
  rw [if_neg (by rcases hr with hr | hr <;> rw [hr] <;> simp), if_neg (by rw [k1]; decide), k3, ← h1, ← h2, packet_hdr h op p ho hp h3,
    (packet_fields h op p ho hp).2.2.2.1]

theorem le_inj_drop (a b : List Byte) (k : Nat) (h : a.length = k) : (a ++ b).drop k = b := by rw [← h, List.drop_left]

theorem request_of {q : Req} (op : Nat) (p : List Byte) (h1 : q.opcode = op) (h2 : q.params = p) (h3 : op < 65536) (h4 : request op p = q) :
    request q.opcode q.params = q ∧ q.opcode < 65536 := by
  subst h1 h2
  exact ⟨h4, h3⟩

theorem int_skip (m v k n : Nat) (b : List Byte) (h : m ≤ k) : fieldIntAt (le m v ++ b) k n = fieldIntAt b (k - m) n := by
  unfold fieldIntAt; rw [field_skip _ _ _ _ _ h]

theorem int_here (x : BitVec 32) (b : List Byte) : fieldIntAt (leInt 4 x.toInt ++ b) 0 4 = x.toInt := by
  unfold fieldIntAt leInt
  rw [field_here]
  have := x.isLt
  unfold signedOf
  rw [BitVec.toInt_eq_toNat_cond]
  simp only [Nat.reduceMul, Nat.reducePow, Nat.reduceSub]
  split <;> split <;> omega

theorem skip_int (x : Int) (k n : Nat) (b : List Byte) (h : 4 ≤ k) : fieldAt (leInt 4 x ++ b) k n = fieldAt b (k - 4) n := field_skip 4 _ k n b h

theorem field_last (n v : Nat) (k : Nat) (h : k = 0) : fieldAt (le n v) k n = v % 256 ^ n := by subst h; exact field_only n v

theorem drop_skip (m v k : Nat) (b : List Byte) (h : m ≤ k) : (le m v ++ b).drop k = b.drop (k - m) := by
  rw [List.drop_append, List.drop_eq_nil_of_le (by rw [le_length]; exact h), le_length]; rfl

theorem mod1 (x : BitVec 8) : x.toNat % 256 = x.toNat := Nat.mod_eq_of_lt x.isLt
theorem mod2 (x : BitVec 16) : x.toNat % 65536 = x.toNat := Nat.mod_eq_of_lt x.isLt
theorem mod4 (x : BitVec 32) : x.toNat % 4294967296 = x.toNat := Nat.mod_eq_of_lt x.isLt
theorem mod8 (x : BitVec 64) : x.toNat % 18446744073709551616 = x.toNat := Nat.mod_eq_of_lt x.isLt

/-- The packet of a command spells that command. -/
theorem hosted_request {c : Instr} {h : Hdr} {q : Req} (hc : hosted c = some (h, q)) : request q.opcode q.params = q ∧ q.opcode < 65536 := by
  cases c with
  | powerEnterStable h wakeAt => cases hc; exact request_of 0x0701 (enterParams 1 wakeAt.toNat) rfl rfl (by decide) (by
      simp only [request, sessionRequest, doorRequest, moduleRequest, Nat.reduceLT, if_true, if_false, pairParams, wordParams, switchParams, blockParams,
        commitParams, enterParams, moveToParams, moveStopParams, compareParams, doorCommandParams, objParams, List.append_assoc, field_skip, skip_int, int_skip, int_here,
        field_here, field_last, drop_skip, mod1, mod2, mod4, mod8, Nat.reduceMod, Nat.reducePow, Nat.reduceLeDiff, Nat.reduceSub, Nat.sub_self, Nat.le_refl, List.drop_zero])
  | powerEnterHibernate h wakeAt => cases hc; exact request_of 0x0701 (enterParams 2 wakeAt.toNat) rfl rfl (by decide) (by
      simp only [request, sessionRequest, doorRequest, moduleRequest, Nat.reduceLT, if_true, if_false, pairParams, wordParams, switchParams, blockParams,
        commitParams, enterParams, moveToParams, moveStopParams, compareParams, doorCommandParams, objParams, List.append_assoc, field_skip, skip_int, int_skip, int_here,
        field_here, field_last, drop_skip, mod1, mod2, mod4, mod8, Nat.reduceMod, Nat.reducePow, Nat.reduceLeDiff, Nat.reduceSub, Nat.sub_self, Nat.le_refl, List.drop_zero])
  | sessionOpen h lastHseq lastDseq cfgId => cases hc; exact request_of 0x0101 (le 2 lastHseq.toNat ++ le 2 lastDseq.toNat ++ le 8 cfgId.toNat) rfl rfl (by decide) (by
      simp only [request, sessionRequest, doorRequest, moduleRequest, Nat.reduceLT, if_true, if_false, pairParams, wordParams, switchParams, blockParams,
        commitParams, enterParams, moveToParams, moveStopParams, compareParams, doorCommandParams, objParams, List.append_assoc, field_skip, skip_int, int_skip, int_here,
        field_here, field_last, drop_skip, mod1, mod2, mod4, mod8, Nat.reduceMod, Nat.reducePow, Nat.reduceLeDiff, Nat.reduceSub, Nat.sub_self, Nat.le_refl, List.drop_zero])
  | sessionClose h => cases hc; exact request_of 0x0102 [] rfl rfl (by decide) (by
      simp only [request, sessionRequest, doorRequest, moduleRequest, Nat.reduceLT, if_true, if_false, pairParams, wordParams, switchParams, blockParams,
        commitParams, enterParams, moveToParams, moveStopParams, compareParams, doorCommandParams, objParams, List.append_assoc, field_skip, skip_int, int_skip, int_here,
        field_here, field_last, drop_skip, mod1, mod2, mod4, mod8, Nat.reduceMod, Nat.reducePow, Nat.reduceLeDiff, Nat.reduceSub, Nat.sub_self, Nat.le_refl, List.drop_zero])
  | sessionState h => cases hc; exact request_of 0x0103 [] rfl rfl (by decide) (by
      simp only [request, sessionRequest, doorRequest, moduleRequest, Nat.reduceLT, if_true, if_false, pairParams, wordParams, switchParams, blockParams,
        commitParams, enterParams, moveToParams, moveStopParams, compareParams, doorCommandParams, objParams, List.append_assoc, field_skip, skip_int, int_skip, int_here,
        field_here, field_last, drop_skip, mod1, mod2, mod4, mod8, Nat.reduceMod, Nat.reducePow, Nat.reduceLeDiff, Nat.reduceSub, Nat.sub_self, Nat.le_refl, List.drop_zero])
  | sessionAuth h mac => cases hc; exact request_of 0x0104 mac rfl rfl (by decide) (by
      simp only [request, sessionRequest, doorRequest, moduleRequest, Nat.reduceLT, if_true, if_false, pairParams, wordParams, switchParams, blockParams,
        commitParams, enterParams, moveToParams, moveStopParams, compareParams, doorCommandParams, objParams, List.append_assoc, field_skip, skip_int, int_skip, int_here,
        field_here, field_last, drop_skip, mod1, mod2, mod4, mod8, Nat.reduceMod, Nat.reducePow, Nat.reduceLeDiff, Nat.reduceSub, Nat.sub_self, Nat.le_refl, List.drop_zero])
  | resultFetch h handle => cases hc; exact request_of 0x0105 (wordParams handle.toNat) rfl rfl (by decide) (by
      simp only [request, sessionRequest, doorRequest, moduleRequest, Nat.reduceLT, if_true, if_false, pairParams, wordParams, switchParams, blockParams,
        commitParams, enterParams, moveToParams, moveStopParams, compareParams, doorCommandParams, objParams, List.append_assoc, field_skip, skip_int, int_skip, int_here,
        field_here, field_last, drop_skip, mod1, mod2, mod4, mod8, Nat.reduceMod, Nat.reducePow, Nat.reduceLeDiff, Nat.reduceSub, Nat.sub_self, Nat.le_refl, List.drop_zero])
  | abort h handle => cases hc; exact request_of 0x0106 (wordParams handle.toNat) rfl rfl (by decide) (by
      simp only [request, sessionRequest, doorRequest, moduleRequest, Nat.reduceLT, if_true, if_false, pairParams, wordParams, switchParams, blockParams,
        commitParams, enterParams, moveToParams, moveStopParams, compareParams, doorCommandParams, objParams, List.append_assoc, field_skip, skip_int, int_skip, int_here,
        field_here, field_last, drop_skip, mod1, mod2, mod4, mod8, Nat.reduceMod, Nat.reducePow, Nat.reduceLeDiff, Nat.reduceSub, Nat.sub_self, Nat.le_refl, List.drop_zero])
  | eventReplay h fromDseq count => cases hc; exact request_of 0x0107 (le 2 fromDseq.toNat ++ le 1 count.toNat ++ le 1 0) rfl rfl (by decide) (by
      simp only [request, sessionRequest, doorRequest, moduleRequest, Nat.reduceLT, if_true, if_false, pairParams, wordParams, switchParams, blockParams,
        commitParams, enterParams, moveToParams, moveStopParams, compareParams, doorCommandParams, objParams, List.append_assoc, field_skip, skip_int, int_skip, int_here,
        field_here, field_last, drop_skip, mod1, mod2, mod4, mod8, Nat.reduceMod, Nat.reducePow, Nat.reduceLeDiff, Nat.reduceSub, Nat.sub_self, Nat.le_refl, List.drop_zero])
  | commandClaim h mask => cases hc; exact request_of 0x0108 (pairParams mask.toNat 0) rfl rfl (by decide) (by
      simp only [request, sessionRequest, doorRequest, moduleRequest, Nat.reduceLT, if_true, if_false, pairParams, wordParams, switchParams, blockParams,
        commitParams, enterParams, moveToParams, moveStopParams, compareParams, doorCommandParams, objParams, List.append_assoc, field_skip, skip_int, int_skip, int_here,
        field_here, field_last, drop_skip, mod1, mod2, mod4, mod8, Nat.reduceMod, Nat.reducePow, Nat.reduceLeDiff, Nat.reduceSub, Nat.sub_self, Nat.le_refl, List.drop_zero])
  | commandYield h mask => cases hc; exact request_of 0x0109 (pairParams mask.toNat 0) rfl rfl (by decide) (by
      simp only [request, sessionRequest, doorRequest, moduleRequest, Nat.reduceLT, if_true, if_false, pairParams, wordParams, switchParams, blockParams,
        commitParams, enterParams, moveToParams, moveStopParams, compareParams, doorCommandParams, objParams, List.append_assoc, field_skip, skip_int, int_skip, int_here,
        field_here, field_last, drop_skip, mod1, mod2, mod4, mod8, Nat.reduceMod, Nat.reducePow, Nat.reduceLeDiff, Nat.reduceSub, Nat.sub_self, Nat.le_refl, List.drop_zero])
  | cfgLoadBlock h offset flags block => cases hc; exact request_of 0x0201 (blockParams offset.toNat flags.toNat block) rfl rfl (by decide) (by
      simp only [request, sessionRequest, doorRequest, moduleRequest, Nat.reduceLT, if_true, if_false, pairParams, wordParams, switchParams, blockParams,
        commitParams, enterParams, moveToParams, moveStopParams, compareParams, doorCommandParams, objParams, List.append_assoc, field_skip, skip_int, int_skip, int_here,
        field_here, field_last, drop_skip, mod1, mod2, mod4, mod8, Nat.reduceMod, Nat.reducePow, Nat.reduceLeDiff, Nat.reduceSub, Nat.sub_self, Nat.le_refl, List.drop_zero])
  | cfgCommit h previous cfgId => cases hc; exact request_of 0x0202 (commitParams (bitWord [true, previous]) cfgId.toNat) rfl rfl (by decide) (by
      simp only [request, sessionRequest, doorRequest, moduleRequest, Nat.reduceLT, if_true, if_false, pairParams, wordParams, switchParams, blockParams,
        commitParams, enterParams, moveToParams, moveStopParams, compareParams, doorCommandParams, objParams, List.append_assoc, field_skip, skip_int, int_skip, int_here,
        field_here, field_last, drop_skip, mod1, mod2, mod4, mod8, Nat.reduceMod, Nat.reducePow, Nat.reduceLeDiff, Nat.reduceSub, Nat.sub_self, Nat.le_refl, List.drop_zero]
      rw [Nat.mod_eq_of_lt (by cases previous <;> decide)])
  | cfgCommitCheckOnly h previous cfgId => cases hc; exact request_of 0x0202 (commitParams (bitWord [false, previous]) cfgId.toNat) rfl rfl (by decide) (by
      simp only [request, sessionRequest, doorRequest, moduleRequest, Nat.reduceLT, if_true, if_false, pairParams, wordParams, switchParams, blockParams,
        commitParams, enterParams, moveToParams, moveStopParams, compareParams, doorCommandParams, objParams, List.append_assoc, field_skip, skip_int, int_skip, int_here,
        field_here, field_last, drop_skip, mod1, mod2, mod4, mod8, Nat.reduceMod, Nat.reducePow, Nat.reduceLeDiff, Nat.reduceSub, Nat.sub_self, Nat.le_refl, List.drop_zero]
      rw [Nat.mod_eq_of_lt (by cases previous <;> decide)])
  | cfgRead h bank length offset => cases hc; exact request_of 0x0203 (le 1 bank.toNat ++ le 1 0 ++ le 2 length.toNat ++ le 4 offset.toNat) rfl rfl (by decide) (by
      simp only [request, sessionRequest, doorRequest, moduleRequest, Nat.reduceLT, if_true, if_false, pairParams, wordParams, switchParams, blockParams,
        commitParams, enterParams, moveToParams, moveStopParams, compareParams, doorCommandParams, objParams, List.append_assoc, field_skip, skip_int, int_skip, int_here,
        field_here, field_last, drop_skip, mod1, mod2, mod4, mod8, Nat.reduceMod, Nat.reducePow, Nat.reduceLeDiff, Nat.reduceSub, Nat.sub_self, Nat.le_refl, List.drop_zero])
  | objRead h index sub => cases hc; exact request_of 0x0204 (le 2 index.toNat ++ le 1 sub.toNat ++ le 1 0) rfl rfl (by decide) (by
      simp only [request, sessionRequest, doorRequest, moduleRequest, Nat.reduceLT, if_true, if_false, pairParams, wordParams, switchParams, blockParams,
        commitParams, enterParams, moveToParams, moveStopParams, compareParams, doorCommandParams, objParams, List.append_assoc, field_skip, skip_int, int_skip, int_here,
        field_here, field_last, drop_skip, mod1, mod2, mod4, mod8, Nat.reduceMod, Nat.reducePow, Nat.reduceLeDiff, Nat.reduceSub, Nat.sub_self, Nat.le_refl, List.drop_zero])
  | objWrite h index sub value => cases hc; exact request_of 0x0205 (objParams index.toNat sub.toNat value) rfl rfl (by decide) (by
      simp only [request, sessionRequest, doorRequest, moduleRequest, Nat.reduceLT, if_true, if_false, pairParams, wordParams, switchParams, blockParams,
        commitParams, enterParams, moveToParams, moveStopParams, compareParams, doorCommandParams, objParams, List.append_assoc, field_skip, skip_int, int_skip, int_here,
        field_here, field_last, drop_skip, mod1, mod2, mod4, mod8, Nat.reduceMod, Nat.reducePow, Nat.reduceLeDiff, Nat.reduceSub, Nat.sub_self, Nat.le_refl, List.drop_zero])
  | discrepancyReset h v => cases hc; exact request_of 0x0205 (objParams 0x1203 1 [v]) rfl rfl (by decide) (by
      simp only [request, sessionRequest, doorRequest, moduleRequest, Nat.reduceLT, if_true, if_false, pairParams, wordParams, switchParams, blockParams,
        commitParams, enterParams, moveToParams, moveStopParams, compareParams, doorCommandParams, objParams, List.append_assoc, field_skip, skip_int, int_skip, int_here,
        field_here, field_last, drop_skip, mod1, mod2, mod4, mod8, Nat.reduceMod, Nat.reducePow, Nat.reduceLeDiff, Nat.reduceSub, Nat.sub_self, Nat.le_refl, List.drop_zero])
  | roleSelect h r v => cases hc; exact request_of 0x0205 (objParams (motionIndex r 0x12) 0x11 (le 2 v.toNat)) rfl rfl (by decide) (by
      simp only [request, sessionRequest, doorRequest, moduleRequest, Nat.reduceLT, if_true, if_false, pairParams, wordParams, switchParams, blockParams,
        commitParams, enterParams, moveToParams, moveStopParams, compareParams, doorCommandParams, objParams, List.append_assoc, field_skip, skip_int, int_skip, int_here,
        field_here, field_last, drop_skip, mod1, mod2, mod4, mod8, Nat.reduceMod, Nat.reducePow, Nat.reduceLeDiff, Nat.reduceSub, Nat.sub_self, Nat.le_refl, List.drop_zero]
      rw [Nat.mod_eq_of_lt ((by decide : ∀ r : DriveIx, motionIndex r 18 < 65536) r)])
  | sessionKey h i key => cases hc; exact request_of 0x0205 (objParams 0x1050 (i.val + 1) key) rfl rfl (by decide) (by
      simp only [request, sessionRequest, doorRequest, moduleRequest, Nat.reduceLT, if_true, if_false, pairParams, wordParams, switchParams, blockParams,
        commitParams, enterParams, moveToParams, moveStopParams, compareParams, doorCommandParams, objParams, List.append_assoc, field_skip, skip_int, int_skip, int_here,
        field_here, field_last, drop_skip, mod1, mod2, mod4, mod8, Nat.reduceMod, Nat.reducePow, Nat.reduceLeDiff, Nat.reduceSub, Nat.sub_self, Nat.le_refl, List.drop_zero]
      rw [Nat.mod_eq_of_lt (by omega)])
  | canRestart h ch v => cases hc; exact request_of 0x0205 (objParams (0x5100 + ch.val) 0x40 [v]) rfl rfl (by decide) (by
      simp only [request, sessionRequest, doorRequest, moduleRequest, Nat.reduceLT, if_true, if_false, pairParams, wordParams, switchParams, blockParams,
        commitParams, enterParams, moveToParams, moveStopParams, compareParams, doorCommandParams, objParams, List.append_assoc, field_skip, skip_int, int_skip, int_here,
        field_here, field_last, drop_skip, mod1, mod2, mod4, mod8, Nat.reduceMod, Nat.reducePow, Nat.reduceLeDiff, Nat.reduceSub, Nat.sub_self, Nat.le_refl, List.drop_zero]
      rw [Nat.mod_eq_of_lt (by omega)])
  | doorCommandOpen h mask => cases hc; exact request_of 0x0301 (doorCommandParams mask.toNat 1) rfl rfl (by decide) (by
      simp only [request, sessionRequest, doorRequest, moduleRequest, Nat.reduceLT, if_true, if_false, pairParams, wordParams, switchParams, blockParams,
        commitParams, enterParams, moveToParams, moveStopParams, compareParams, doorCommandParams, objParams, List.append_assoc, field_skip, skip_int, int_skip, int_here,
        field_here, field_last, drop_skip, mod1, mod2, mod4, mod8, Nat.reduceMod, Nat.reducePow, Nat.reduceLeDiff, Nat.reduceSub, Nat.sub_self, Nat.le_refl, List.drop_zero])
  | doorCommandClose h mask => cases hc; exact request_of 0x0301 (doorCommandParams mask.toNat 2) rfl rfl (by decide) (by
      simp only [request, sessionRequest, doorRequest, moduleRequest, Nat.reduceLT, if_true, if_false, pairParams, wordParams, switchParams, blockParams,
        commitParams, enterParams, moveToParams, moveStopParams, compareParams, doorCommandParams, objParams, List.append_assoc, field_skip, skip_int, int_skip, int_here,
        field_here, field_last, drop_skip, mod1, mod2, mod4, mod8, Nat.reduceMod, Nat.reducePow, Nat.reduceLeDiff, Nat.reduceSub, Nat.sub_self, Nat.le_refl, List.drop_zero])
  | doorCommandStop h mask => cases hc; exact request_of 0x0301 (doorCommandParams mask.toNat 3) rfl rfl (by decide) (by
      simp only [request, sessionRequest, doorRequest, moduleRequest, Nat.reduceLT, if_true, if_false, pairParams, wordParams, switchParams, blockParams,
        commitParams, enterParams, moveToParams, moveStopParams, compareParams, doorCommandParams, objParams, List.append_assoc, field_skip, skip_int, int_skip, int_here,
        field_here, field_last, drop_skip, mod1, mod2, mod4, mod8, Nat.reduceMod, Nat.reducePow, Nat.reduceLeDiff, Nat.reduceSub, Nat.sub_self, Nat.le_refl, List.drop_zero])
  | doorCommandResume h mask => cases hc; exact request_of 0x0301 (doorCommandParams mask.toNat 4) rfl rfl (by decide) (by
      simp only [request, sessionRequest, doorRequest, moduleRequest, Nat.reduceLT, if_true, if_false, pairParams, wordParams, switchParams, blockParams,
        commitParams, enterParams, moveToParams, moveStopParams, compareParams, doorCommandParams, objParams, List.append_assoc, field_skip, skip_int, int_skip, int_here,
        field_here, field_last, drop_skip, mod1, mod2, mod4, mod8, Nat.reduceMod, Nat.reducePow, Nat.reduceLeDiff, Nat.reduceSub, Nat.sub_self, Nat.le_refl, List.drop_zero])
  | doorCommandReset h mask => cases hc; exact request_of 0x0301 (doorCommandParams mask.toNat 5) rfl rfl (by decide) (by
      simp only [request, sessionRequest, doorRequest, moduleRequest, Nat.reduceLT, if_true, if_false, pairParams, wordParams, switchParams, blockParams,
        commitParams, enterParams, moveToParams, moveStopParams, compareParams, doorCommandParams, objParams, List.append_assoc, field_skip, skip_int, int_skip, int_here,
        field_here, field_last, drop_skip, mod1, mod2, mod4, mod8, Nat.reduceMod, Nat.reducePow, Nat.reduceLeDiff, Nat.reduceSub, Nat.sub_self, Nat.le_refl, List.drop_zero])
  | doorStatus h mask detail => cases hc; exact request_of 0x0302 (pairParams mask.toNat detail.toNat) rfl rfl (by decide) (by
      simp only [request, sessionRequest, doorRequest, moduleRequest, Nat.reduceLT, if_true, if_false, pairParams, wordParams, switchParams, blockParams,
        commitParams, enterParams, moveToParams, moveStopParams, compareParams, doorCommandParams, objParams, List.append_assoc, field_skip, skip_int, int_skip, int_here,
        field_here, field_last, drop_skip, mod1, mod2, mod4, mod8, Nat.reduceMod, Nat.reducePow, Nat.reduceLeDiff, Nat.reduceSub, Nat.sub_self, Nat.le_refl, List.drop_zero])
  | doorIsolateSet h doorway => cases hc; exact request_of 0x0303 (pairParams doorway.toNat 1) rfl rfl (by decide) (by
      simp only [request, sessionRequest, doorRequest, moduleRequest, Nat.reduceLT, if_true, if_false, pairParams, wordParams, switchParams, blockParams,
        commitParams, enterParams, moveToParams, moveStopParams, compareParams, doorCommandParams, objParams, List.append_assoc, field_skip, skip_int, int_skip, int_here,
        field_here, field_last, drop_skip, mod1, mod2, mod4, mod8, Nat.reduceMod, Nat.reducePow, Nat.reduceLeDiff, Nat.reduceSub, Nat.sub_self, Nat.le_refl, List.drop_zero])
  | doorIsolateClear h doorway => cases hc; exact request_of 0x0303 (pairParams doorway.toNat 0) rfl rfl (by decide) (by
      simp only [request, sessionRequest, doorRequest, moduleRequest, Nat.reduceLT, if_true, if_false, pairParams, wordParams, switchParams, blockParams,
        commitParams, enterParams, moveToParams, moveStopParams, compareParams, doorCommandParams, objParams, List.append_assoc, field_skip, skip_int, int_skip, int_here,
        field_here, field_last, drop_skip, mod1, mod2, mod4, mod8, Nat.reduceMod, Nat.reducePow, Nat.reduceLeDiff, Nat.reduceSub, Nat.sub_self, Nat.le_refl, List.drop_zero])
  | doorTestCycle h doorway cycles => cases hc; exact request_of 0x0304 (pairParams doorway.toNat cycles.toNat) rfl rfl (by decide) (by
      simp only [request, sessionRequest, doorRequest, moduleRequest, Nat.reduceLT, if_true, if_false, pairParams, wordParams, switchParams, blockParams,
        commitParams, enterParams, moveToParams, moveStopParams, compareParams, doorCommandParams, objParams, List.append_assoc, field_skip, skip_int, int_skip, int_here,
        field_here, field_last, drop_skip, mod1, mod2, mod4, mod8, Nat.reduceMod, Nat.reducePow, Nat.reduceLeDiff, Nat.reduceSub, Nat.sub_self, Nat.le_refl, List.drop_zero])
  | envelopeLearn h doorway => cases hc; exact request_of 0x0305 (pairParams doorway.toNat 0) rfl rfl (by decide) (by
      simp only [request, sessionRequest, doorRequest, moduleRequest, Nat.reduceLT, if_true, if_false, pairParams, wordParams, switchParams, blockParams,
        commitParams, enterParams, moveToParams, moveStopParams, compareParams, doorCommandParams, objParams, List.append_assoc, field_skip, skip_int, int_skip, int_here,
        field_here, field_last, drop_skip, mod1, mod2, mod4, mod8, Nat.reduceMod, Nat.reducePow, Nat.reduceLeDiff, Nat.reduceSub, Nat.sub_self, Nat.le_refl, List.drop_zero])
  | moveTo h drive mode target speed => cases hc; exact request_of 0x0401 (moveToParams drive.toNat mode.toNat target.toInt speed.toNat) rfl rfl (by decide) (by
      simp only [request, sessionRequest, doorRequest, moduleRequest, Nat.reduceLT, if_true, if_false, pairParams, wordParams, switchParams, blockParams,
        commitParams, enterParams, moveToParams, moveStopParams, compareParams, doorCommandParams, objParams, List.append_assoc, field_skip, skip_int, int_skip, int_here,
        field_here, field_last, drop_skip, mod1, mod2, mod4, mod8, Nat.reduceMod, Nat.reducePow, Nat.reduceLeDiff, Nat.reduceSub, Nat.sub_self, Nat.le_refl, List.drop_zero])
  | moveStop h mask mode => cases hc; exact request_of 0x0402 (moveStopParams mask.toNat mode.toNat) rfl rfl (by decide) (by
      simp only [request, sessionRequest, doorRequest, moduleRequest, Nat.reduceLT, if_true, if_false, pairParams, wordParams, switchParams, blockParams,
        commitParams, enterParams, moveToParams, moveStopParams, compareParams, doorCommandParams, objParams, List.append_assoc, field_skip, skip_int, int_skip, int_here,
        field_here, field_last, drop_skip, mod1, mod2, mod4, mod8, Nat.reduceMod, Nat.reducePow, Nat.reduceLeDiff, Nat.reduceSub, Nat.sub_self, Nat.le_refl, List.drop_zero])
  | moveResume h mask => cases hc; exact request_of 0x0403 (wordParams mask.toNat) rfl rfl (by decide) (by
      simp only [request, sessionRequest, doorRequest, moduleRequest, Nat.reduceLT, if_true, if_false, pairParams, wordParams, switchParams, blockParams,
        commitParams, enterParams, moveToParams, moveStopParams, compareParams, doorCommandParams, objParams, List.append_assoc, field_skip, skip_int, int_skip, int_here,
        field_here, field_last, drop_skip, mod1, mod2, mod4, mod8, Nat.reduceMod, Nat.reducePow, Nat.reduceLeDiff, Nat.reduceSub, Nat.sub_self, Nat.le_refl, List.drop_zero])
  | profileWrite h context body => cases hc; exact request_of 0x0404 (wordParams context.toNat ++ body) rfl rfl (by decide) (by
      simp only [request, sessionRequest, doorRequest, moduleRequest, Nat.reduceLT, if_true, if_false, pairParams, wordParams, switchParams, blockParams,
        commitParams, enterParams, moveToParams, moveStopParams, compareParams, doorCommandParams, objParams, List.append_assoc, field_skip, skip_int, int_skip, int_here,
        field_here, field_last, drop_skip, mod1, mod2, mod4, mod8, Nat.reduceMod, Nat.reducePow, Nat.reduceLeDiff, Nat.reduceSub, Nat.sub_self, Nat.le_refl, List.drop_zero])
  | compareSet h drive mode direction actions position hyst => cases hc; exact request_of 0x0405 (compareParams drive.toNat mode.toNat direction.toNat actions.toNat position.toInt hyst.toNat) rfl rfl (by decide) (by
      simp only [request, sessionRequest, doorRequest, moduleRequest, Nat.reduceLT, if_true, if_false, pairParams, wordParams, switchParams, blockParams,
        commitParams, enterParams, moveToParams, moveStopParams, compareParams, doorCommandParams, objParams, List.append_assoc, field_skip, skip_int, int_skip, int_here,
        field_here, field_last, drop_skip, mod1, mod2, mod4, mod8, Nat.reduceMod, Nat.reducePow, Nat.reduceLeDiff, Nat.reduceSub, Nat.sub_self, Nat.le_refl, List.drop_zero])
  | homeStepHome h doorway => cases hc; exact request_of 0x0406 (pairParams doorway.toNat 0) rfl rfl (by decide) (by
      simp only [request, sessionRequest, doorRequest, moduleRequest, Nat.reduceLT, if_true, if_false, pairParams, wordParams, switchParams, blockParams,
        commitParams, enterParams, moveToParams, moveStopParams, compareParams, doorCommandParams, objParams, List.append_assoc, field_skip, skip_int, int_skip, int_here,
        field_here, field_last, drop_skip, mod1, mod2, mod4, mod8, Nat.reduceMod, Nat.reducePow, Nat.reduceLeDiff, Nat.reduceSub, Nat.sub_self, Nat.le_refl, List.drop_zero])
  | homeStepMeasure h doorway => cases hc; exact request_of 0x0406 (pairParams doorway.toNat 1) rfl rfl (by decide) (by
      simp only [request, sessionRequest, doorRequest, moduleRequest, Nat.reduceLT, if_true, if_false, pairParams, wordParams, switchParams, blockParams,
        commitParams, enterParams, moveToParams, moveStopParams, compareParams, doorCommandParams, objParams, List.append_assoc, field_skip, skip_int, int_skip, int_here,
        field_here, field_last, drop_skip, mod1, mod2, mod4, mod8, Nat.reduceMod, Nat.reducePow, Nat.reduceLeDiff, Nat.reduceSub, Nat.sub_self, Nat.le_refl, List.drop_zero])
  | switchSetOff h mask => cases hc; exact request_of 0x0501 (switchParams mask.toNat 0) rfl rfl (by decide) (by
      simp only [request, sessionRequest, doorRequest, moduleRequest, Nat.reduceLT, if_true, if_false, pairParams, wordParams, switchParams, blockParams,
        commitParams, enterParams, moveToParams, moveStopParams, compareParams, doorCommandParams, objParams, List.append_assoc, field_skip, skip_int, int_skip, int_here,
        field_here, field_last, drop_skip, mod1, mod2, mod4, mod8, Nat.reduceMod, Nat.reducePow, Nat.reduceLeDiff, Nat.reduceSub, Nat.sub_self, Nat.le_refl, List.drop_zero])
  | switchSetOn h mask => cases hc; exact request_of 0x0501 (switchParams mask.toNat 1) rfl rfl (by decide) (by
      simp only [request, sessionRequest, doorRequest, moduleRequest, Nat.reduceLT, if_true, if_false, pairParams, wordParams, switchParams, blockParams,
        commitParams, enterParams, moveToParams, moveStopParams, compareParams, doorCommandParams, objParams, List.append_assoc, field_skip, skip_int, int_skip, int_here,
        field_here, field_last, drop_skip, mod1, mod2, mod4, mod8, Nat.reduceMod, Nat.reducePow, Nat.reduceLeDiff, Nat.reduceSub, Nat.sub_self, Nat.le_refl, List.drop_zero])
  | switchSetKeepWarm h mask => cases hc; exact request_of 0x0501 (switchParams mask.toNat 2) rfl rfl (by decide) (by
      simp only [request, sessionRequest, doorRequest, moduleRequest, Nat.reduceLT, if_true, if_false, pairParams, wordParams, switchParams, blockParams,
        commitParams, enterParams, moveToParams, moveStopParams, compareParams, doorCommandParams, objParams, List.append_assoc, field_skip, skip_int, int_skip, int_here,
        field_here, field_last, drop_skip, mod1, mod2, mod4, mod8, Nat.reduceMod, Nat.reducePow, Nat.reduceLeDiff, Nat.reduceSub, Nat.sub_self, Nat.le_refl, List.drop_zero])
  | switchSetReturn h mask => cases hc; exact request_of 0x0501 (switchParams mask.toNat 3) rfl rfl (by decide) (by
      simp only [request, sessionRequest, doorRequest, moduleRequest, Nat.reduceLT, if_true, if_false, pairParams, wordParams, switchParams, blockParams,
        commitParams, enterParams, moveToParams, moveStopParams, compareParams, doorCommandParams, objParams, List.append_assoc, field_skip, skip_int, int_skip, int_here,
        field_here, field_last, drop_skip, mod1, mod2, mod4, mod8, Nat.reduceMod, Nat.reducePow, Nat.reduceLeDiff, Nat.reduceSub, Nat.sub_self, Nat.le_refl, List.drop_zero])
  | switchStatus h mask => cases hc; exact request_of 0x0502 (le 8 mask.toNat) rfl rfl (by decide) (by
      simp only [request, sessionRequest, doorRequest, moduleRequest, Nat.reduceLT, if_true, if_false, pairParams, wordParams, switchParams, blockParams,
        commitParams, enterParams, moveToParams, moveStopParams, compareParams, doorCommandParams, objParams, List.append_assoc, field_skip, skip_int, int_skip, int_here,
        field_here, field_last, drop_skip, mod1, mod2, mod4, mod8, Nat.reduceMod, Nat.reducePow, Nat.reduceLeDiff, Nat.reduceSub, Nat.sub_self, Nat.le_refl, List.drop_zero])
  | faultClear h mask => cases hc; exact request_of 0x0505 (le 8 mask.toNat) rfl rfl (by decide) (by
      simp only [request, sessionRequest, doorRequest, moduleRequest, Nat.reduceLT, if_true, if_false, pairParams, wordParams, switchParams, blockParams,
        commitParams, enterParams, moveToParams, moveStopParams, compareParams, doorCommandParams, objParams, List.append_assoc, field_skip, skip_int, int_skip, int_here,
        field_here, field_last, drop_skip, mod1, mod2, mod4, mod8, Nat.reduceMod, Nat.reducePow, Nat.reduceLeDiff, Nat.reduceSub, Nat.sub_self, Nat.le_refl, List.drop_zero])
  | ioRead h mask => cases hc; exact request_of 0x0503 (wordParams mask.toNat) rfl rfl (by decide) (by
      simp only [request, sessionRequest, doorRequest, moduleRequest, Nat.reduceLT, if_true, if_false, pairParams, wordParams, switchParams, blockParams,
        commitParams, enterParams, moveToParams, moveStopParams, compareParams, doorCommandParams, objParams, List.append_assoc, field_skip, skip_int, int_skip, int_here,
        field_here, field_last, drop_skip, mod1, mod2, mod4, mod8, Nat.reduceMod, Nat.reducePow, Nat.reduceLeDiff, Nat.reduceSub, Nat.sub_self, Nat.le_refl, List.drop_zero])
  | outputSet h mask value => cases hc; exact request_of 0x0504 (le 2 mask.toNat ++ le 2 value.toNat) rfl rfl (by decide) (by
      simp only [request, sessionRequest, doorRequest, moduleRequest, Nat.reduceLT, if_true, if_false, pairParams, wordParams, switchParams, blockParams,
        commitParams, enterParams, moveToParams, moveStopParams, compareParams, doorCommandParams, objParams, List.append_assoc, field_skip, skip_int, int_skip, int_here,
        field_here, field_last, drop_skip, mod1, mod2, mod4, mod8, Nat.reduceMod, Nat.reducePow, Nat.reduceLeDiff, Nat.reduceSub, Nat.sub_self, Nat.le_refl, List.drop_zero])
  | logDrain h fromRseq count => cases hc; exact request_of 0x0601 (le 4 fromRseq.toNat ++ le 1 count.toNat ++ le 3 0) rfl rfl (by decide) (by
      simp only [request, sessionRequest, doorRequest, moduleRequest, Nat.reduceLT, if_true, if_false, pairParams, wordParams, switchParams, blockParams,
        commitParams, enterParams, moveToParams, moveStopParams, compareParams, doorCommandParams, objParams, List.append_assoc, field_skip, skip_int, int_skip, int_here,
        field_here, field_last, drop_skip, mod1, mod2, mod4, mod8, Nat.reduceMod, Nat.reducePow, Nat.reduceLeDiff, Nat.reduceSub, Nat.sub_self, Nat.le_refl, List.drop_zero])
  | logAck h upTo => cases hc; exact request_of 0x0602 (le 4 upTo.toNat) rfl rfl (by decide) (by
      simp only [request, sessionRequest, doorRequest, moduleRequest, Nat.reduceLT, if_true, if_false, pairParams, wordParams, switchParams, blockParams,
        commitParams, enterParams, moveToParams, moveStopParams, compareParams, doorCommandParams, objParams, List.append_assoc, field_skip, skip_int, int_skip, int_here,
        field_here, field_last, drop_skip, mod1, mod2, mod4, mod8, Nat.reduceMod, Nat.reducePow, Nat.reduceLeDiff, Nat.reduceSub, Nat.sub_self, Nat.le_refl, List.drop_zero])
  | incidentRead h iseq chunk => cases hc; exact request_of 0x0603 (le 4 iseq.toNat ++ wordParams chunk.toNat) rfl rfl (by decide) (by
      simp only [request, sessionRequest, doorRequest, moduleRequest, Nat.reduceLT, if_true, if_false, pairParams, wordParams, switchParams, blockParams,
        commitParams, enterParams, moveToParams, moveStopParams, compareParams, doorCommandParams, objParams, List.append_assoc, field_skip, skip_int, int_skip, int_here,
        field_here, field_last, drop_skip, mod1, mod2, mod4, mod8, Nat.reduceMod, Nat.reducePow, Nat.reduceLeDiff, Nat.reduceSub, Nat.sub_self, Nat.le_refl, List.drop_zero])
  | logStatus h flags => cases hc; exact request_of 0x0604 (pairParams flags.toNat 0) rfl rfl (by decide) (by
      simp only [request, sessionRequest, doorRequest, moduleRequest, Nat.reduceLT, if_true, if_false, pairParams, wordParams, switchParams, blockParams,
        commitParams, enterParams, moveToParams, moveStopParams, compareParams, doorCommandParams, objParams, List.append_assoc, field_skip, skip_int, int_skip, int_here,
        field_here, field_last, drop_skip, mod1, mod2, mod4, mod8, Nat.reduceMod, Nat.reducePow, Nat.reduceLeDiff, Nat.reduceSub, Nat.sub_self, Nat.le_refl, List.drop_zero])
  | incidentErase h upTo confirm => cases hc; exact request_of 0x0605 (le 4 upTo.toNat ++ le 4 confirm.toNat) rfl rfl (by decide) (by
      simp only [request, sessionRequest, doorRequest, moduleRequest, Nat.reduceLT, if_true, if_false, pairParams, wordParams, switchParams, blockParams,
        commitParams, enterParams, moveToParams, moveStopParams, compareParams, doorCommandParams, objParams, List.append_assoc, field_skip, skip_int, int_skip, int_here,
        field_here, field_last, drop_skip, mod1, mod2, mod4, mod8, Nat.reduceMod, Nat.reducePow, Nat.reduceLeDiff, Nat.reduceSub, Nat.sub_self, Nat.le_refl, List.drop_zero])
  | powerStatus h => cases hc; exact request_of 0x0702 [] rfl rfl (by decide) (by
      simp only [request, sessionRequest, doorRequest, moduleRequest, Nat.reduceLT, if_true, if_false, pairParams, wordParams, switchParams, blockParams,
        commitParams, enterParams, moveToParams, moveStopParams, compareParams, doorCommandParams, objParams, List.append_assoc, field_skip, skip_int, int_skip, int_here,
        field_here, field_last, drop_skip, mod1, mod2, mod4, mod8, Nat.reduceMod, Nat.reducePow, Nat.reduceLeDiff, Nat.reduceSub, Nat.sub_self, Nat.le_refl, List.drop_zero])
  | powerAccounts h => cases hc; exact request_of 0x0703 [] rfl rfl (by decide) (by
      simp only [request, sessionRequest, doorRequest, moduleRequest, Nat.reduceLT, if_true, if_false, pairParams, wordParams, switchParams, blockParams,
        commitParams, enterParams, moveToParams, moveStopParams, compareParams, doorCommandParams, objParams, List.append_assoc, field_skip, skip_int, int_skip, int_here,
        field_here, field_last, drop_skip, mod1, mod2, mod4, mod8, Nat.reduceMod, Nat.reducePow, Nat.reduceLeDiff, Nat.reduceSub, Nat.sub_self, Nat.le_refl, List.drop_zero])
  | fwStage h offset flags block => cases hc; exact request_of 0x0801 (blockParams offset.toNat flags.toNat block) rfl rfl (by decide) (by
      simp only [request, sessionRequest, doorRequest, moduleRequest, Nat.reduceLT, if_true, if_false, pairParams, wordParams, switchParams, blockParams,
        commitParams, enterParams, moveToParams, moveStopParams, compareParams, doorCommandParams, objParams, List.append_assoc, field_skip, skip_int, int_skip, int_here,
        field_here, field_last, drop_skip, mod1, mod2, mod4, mod8, Nat.reduceMod, Nat.reducePow, Nat.reduceLeDiff, Nat.reduceSub, Nat.sub_self, Nat.le_refl, List.drop_zero])
  | fwActivateLive h flags => cases hc; exact request_of 0x0802 (pairParams 0 flags.toNat) rfl rfl (by decide) (by
      simp only [request, sessionRequest, doorRequest, moduleRequest, Nat.reduceLT, if_true, if_false, pairParams, wordParams, switchParams, blockParams,
        commitParams, enterParams, moveToParams, moveStopParams, compareParams, doorCommandParams, objParams, List.append_assoc, field_skip, skip_int, int_skip, int_here,
        field_here, field_last, drop_skip, mod1, mod2, mod4, mod8, Nat.reduceMod, Nat.reducePow, Nat.reduceLeDiff, Nat.reduceSub, Nat.sub_self, Nat.le_refl, List.drop_zero])
  | fwActivateRestart h flags => cases hc; exact request_of 0x0802 (pairParams 1 flags.toNat) rfl rfl (by decide) (by
      simp only [request, sessionRequest, doorRequest, moduleRequest, Nat.reduceLT, if_true, if_false, pairParams, wordParams, switchParams, blockParams,
        commitParams, enterParams, moveToParams, moveStopParams, compareParams, doorCommandParams, objParams, List.append_assoc, field_skip, skip_int, int_skip, int_here,
        field_here, field_last, drop_skip, mod1, mod2, mod4, mod8, Nat.reduceMod, Nat.reducePow, Nat.reduceLeDiff, Nat.reduceSub, Nat.sub_self, Nat.le_refl, List.drop_zero])
  | selftest h tests mask => cases hc; exact request_of 0x0803 (le 2 tests.toNat ++ le 1 mask.toNat ++ le 1 0) rfl rfl (by decide) (by
      simp only [request, sessionRequest, doorRequest, moduleRequest, Nat.reduceLT, if_true, if_false, pairParams, wordParams, switchParams, blockParams,
        commitParams, enterParams, moveToParams, moveStopParams, compareParams, doorCommandParams, objParams, List.append_assoc, field_skip, skip_int, int_skip, int_here,
        field_here, field_last, drop_skip, mod1, mod2, mod4, mod8, Nat.reduceMod, Nat.reducePow, Nat.reduceLeDiff, Nat.reduceSub, Nat.sub_self, Nat.le_refl, List.drop_zero])
  | legSubstitute h pair leg => cases hc; exact request_of 0x0804 (pairParams pair.toNat leg.toNat) rfl rfl (by decide) (by
      simp only [request, sessionRequest, doorRequest, moduleRequest, Nat.reduceLT, if_true, if_false, pairParams, wordParams, switchParams, blockParams,
        commitParams, enterParams, moveToParams, moveStopParams, compareParams, doorCommandParams, objParams, List.append_assoc, field_skip, skip_int, int_skip, int_here,
        field_here, field_last, drop_skip, mod1, mod2, mod4, mod8, Nat.reduceMod, Nat.reducePow, Nat.reduceLeDiff, Nat.reduceSub, Nat.sub_self, Nat.le_refl, List.drop_zero])
  | identity h => cases hc; exact request_of 0x0805 [] rfl rfl (by decide) (by
      simp only [request, sessionRequest, doorRequest, moduleRequest, Nat.reduceLT, if_true, if_false, pairParams, wordParams, switchParams, blockParams,
        commitParams, enterParams, moveToParams, moveStopParams, compareParams, doorCommandParams, objParams, List.append_assoc, field_skip, skip_int, int_skip, int_here,
        field_here, field_last, drop_skip, mod1, mod2, mod4, mod8, Nat.reduceMod, Nat.reducePow, Nat.reduceLeDiff, Nat.reduceSub, Nat.sub_self, Nat.le_refl, List.drop_zero])
  | ringStatus h => cases hc; exact request_of 0x0901 [] rfl rfl (by decide) (by
      simp only [request, sessionRequest, doorRequest, moduleRequest, Nat.reduceLT, if_true, if_false, pairParams, wordParams, switchParams, blockParams,
        commitParams, enterParams, moveToParams, moveStopParams, compareParams, doorCommandParams, objParams, List.append_assoc, field_skip, skip_int, int_skip, int_here,
        field_here, field_last, drop_skip, mod1, mod2, mod4, mod8, Nat.reduceMod, Nat.reducePow, Nat.reduceLeDiff, Nat.reduceSub, Nat.sub_self, Nat.le_refl, List.drop_zero])
  | consistView h mask => cases hc; exact request_of 0x0902 (le 4 mask.toNat) rfl rfl (by decide) (by
      simp only [request, sessionRequest, doorRequest, moduleRequest, Nat.reduceLT, if_true, if_false, pairParams, wordParams, switchParams, blockParams,
        commitParams, enterParams, moveToParams, moveStopParams, compareParams, doorCommandParams, objParams, List.append_assoc, field_skip, skip_int, int_skip, int_here,
        field_here, field_last, drop_skip, mod1, mod2, mod4, mod8, Nat.reduceMod, Nat.reducePow, Nat.reduceLeDiff, Nat.reduceSub, Nat.sub_self, Nat.le_refl, List.drop_zero])
  | schedLoad h channel schedule => cases hc; exact request_of 0x0A01 (pairParams channel.toNat 0 ++ schedule) rfl rfl (by decide) (by
      simp only [request, sessionRequest, doorRequest, moduleRequest, Nat.reduceLT, if_true, if_false, pairParams, wordParams, switchParams, blockParams,
        commitParams, enterParams, moveToParams, moveStopParams, compareParams, doorCommandParams, objParams, List.append_assoc, field_skip, skip_int, int_skip, int_here,
        field_here, field_last, drop_skip, mod1, mod2, mod4, mod8, Nat.reduceMod, Nat.reducePow, Nat.reduceLeDiff, Nat.reduceSub, Nat.sub_self, Nat.le_refl, List.drop_zero])
  | canStatus h mask => cases hc; exact request_of 0x0A02 (pairParams mask.toNat 0) rfl rfl (by decide) (by
      simp only [request, sessionRequest, doorRequest, moduleRequest, Nat.reduceLT, if_true, if_false, pairParams, wordParams, switchParams, blockParams,
        commitParams, enterParams, moveToParams, moveStopParams, compareParams, doorCommandParams, objParams, List.append_assoc, field_skip, skip_int, int_skip, int_here,
        field_here, field_last, drop_skip, mod1, mod2, mod4, mod8, Nat.reduceMod, Nat.reducePow, Nat.reduceLeDiff, Nat.reduceSub, Nat.sub_self, Nat.le_refl, List.drop_zero])
  | appLoad h offset flags block => cases hc; exact request_of 0x0B01 (blockParams offset.toNat flags.toNat block) rfl rfl (by decide) (by
      simp only [request, sessionRequest, doorRequest, moduleRequest, Nat.reduceLT, if_true, if_false, pairParams, wordParams, switchParams, blockParams,
        commitParams, enterParams, moveToParams, moveStopParams, compareParams, doorCommandParams, objParams, List.append_assoc, field_skip, skip_int, int_skip, int_here,
        field_here, field_last, drop_skip, mod1, mod2, mod4, mod8, Nat.reduceMod, Nat.reducePow, Nat.reduceLeDiff, Nat.reduceSub, Nat.sub_self, Nat.le_refl, List.drop_zero])
  | appControlStop h => cases hc; exact request_of 0x0B02 (pairParams 0 0) rfl rfl (by decide) (by
      simp only [request, sessionRequest, doorRequest, moduleRequest, Nat.reduceLT, if_true, if_false, pairParams, wordParams, switchParams, blockParams,
        commitParams, enterParams, moveToParams, moveStopParams, compareParams, doorCommandParams, objParams, List.append_assoc, field_skip, skip_int, int_skip, int_here,
        field_here, field_last, drop_skip, mod1, mod2, mod4, mod8, Nat.reduceMod, Nat.reducePow, Nat.reduceLeDiff, Nat.reduceSub, Nat.sub_self, Nat.le_refl, List.drop_zero])
  | appControlStart h => cases hc; exact request_of 0x0B02 (pairParams 1 0) rfl rfl (by decide) (by
      simp only [request, sessionRequest, doorRequest, moduleRequest, Nat.reduceLT, if_true, if_false, pairParams, wordParams, switchParams, blockParams,
        commitParams, enterParams, moveToParams, moveStopParams, compareParams, doorCommandParams, objParams, List.append_assoc, field_skip, skip_int, int_skip, int_here,
        field_here, field_last, drop_skip, mod1, mod2, mod4, mod8, Nat.reduceMod, Nat.reducePow, Nat.reduceLeDiff, Nat.reduceSub, Nat.sub_self, Nat.le_refl, List.drop_zero])
  | appControlRestart h => cases hc; exact request_of 0x0B02 (pairParams 2 0) rfl rfl (by decide) (by
      simp only [request, sessionRequest, doorRequest, moduleRequest, Nat.reduceLT, if_true, if_false, pairParams, wordParams, switchParams, blockParams,
        commitParams, enterParams, moveToParams, moveStopParams, compareParams, doorCommandParams, objParams, List.append_assoc, field_skip, skip_int, int_skip, int_here,
        field_here, field_last, drop_skip, mod1, mod2, mod4, mod8, Nat.reduceMod, Nat.reducePow, Nat.reduceLeDiff, Nat.reduceSub, Nat.sub_self, Nat.le_refl, List.drop_zero])
  | _ => cases hc

end Sys2Proof.Machine
end

