-- ==== Sys2Proof/Laws/PacketChecks.lean ====
section
/-!
SUPPORT. The checks of Table 9.6: what becomes of a packet at each (R359 to R364).
-/

set_option linter.unusedVariables false
set_option linter.unusedSimpArgs false

namespace Sys2Proof.Machine

theorem packet_runs (s : State) (h : Hdr) (op : Nat) (p : List Byte) (ho : op < 65536) (hp : p.length ≤ 1008)
    (h3 : h.trainWide = false) (hr : s.commsRuns = true ∨ s.service.fw.bootLoader = true) :
    s.packet h.transport h.source false (commandPacket h op p) = s.receive h (request op p) := by
  obtain ⟨k1, k2, k3⟩ := packet_ok h op p ho hp
  unfold State.packet
  rw [if_neg (by rcases hr with hr | hr <;> rw [hr] <;> simp), if_neg (by rw [k1]; decide), k3, packet_hdr h op p ho hp h3,
    (packet_fields h op p ho hp).2.2.2.1]

/-- A session with a packet's time, source and DACK noted. -/
structure Noted (i : SessIx) (s v : State) : Prop where
  only : v = { s with fcp := { s.fcp with sessions := v.fcp.sessions } }
  mark : ∃ a b d, v.fcp.sessions[i] = { s.fcp.sessions[i] with lastValid := a, peer := b, lastDack := d }
  states : ∀ j : SessIx, v.fcp.sessions[j].state = s.fcp.sessions[j].state

theorem Noted.on {i : SessIx} {s v : State} (k : Noted i s v) (f : Session → Session)
    (hf : ∀ z, ∃ a b d, f z = { z with lastValid := a, peer := b, lastDack := d }) : Noted i s (v.onSession i f) := by
  refine ⟨?_, ?_, fun j => ?_⟩
  · have := k.only
    generalize hx : v.fcp.sessions = x at this
    subst this
    rfl
  · obtain ⟨a, b, d, h⟩ := k.mark
    obtain ⟨a', b', d', h'⟩ := hf v.fcp.sessions[i]
    rw [onSession_get, if_pos rfl, h', h]
    exact ⟨a', b', d', rfl⟩
  · rw [onSession_get]
    split
    · rename_i hj
      subst hj
      obtain ⟨a', b', d', h'⟩ := hf v.fcp.sessions[i]
      rw [h', ← k.states i]
    · exact k.states j

theorem takes_dack (n : Nat) (z : Session) : ∃ a b d, z.takeDack n = { z with lastValid := a, peer := b, lastDack := d } := by
  unfold Session.takeDack
  split
  · exact ⟨z.lastValid, z.peer, n, rfl⟩
  · exact ⟨z.lastValid, z.peer, z.lastDack, rfl⟩

theorem Noted.refl (i : SessIx) (s : State) : Noted i s s := ⟨rfl, ⟨_, _, _, rfl⟩, fun _ => rfl⟩

/-- A packet that is heard in an OPEN or CLOSED session reaches step 4. -/
theorem heard_is {s : State} {h : Hdr} {q : Req} {i : SessIx} (hb : s.bound h = some i) (ho : s.fcp.sessions[i].state = .opened ∨ s.fcp.sessions[i].state = .closed)
    (hh : s.hears h q = true) : ∃ v, Noted i s v ∧ s.receive h q = (v.process h i q).fresh ∧ (q.opcode ≠ 0x0101 → v = s.heard h i) := by
  unfold State.receive
  rw [hb]
  dsimp only
  rw [if_neg (by rcases ho with ho | ho <;> rw [ho] <;> decide), if_neg (by rw [hh]; decide)]
  split
  · refine ⟨s, Noted.refl i s, rfl, fun hq => ?_⟩
    rename_i hx
    simp [hq] at hx
  · refine ⟨s.heard h i, ?_, rfl, fun _ => rfl⟩
    unfold State.heard
    dsimp only
    rw [if_neg]
    · exact (Noted.refl i s).on _ (fun z => ⟨_, _, _, rfl⟩)
    · rw [onSession_get, if_pos rfl]
      rcases ho with ho | ho <;> (show ¬ s.fcp.sessions[i].state = _; rw [ho]; decide)

/-- A reply that is not stored. -/
theorem plain_out {s v : State} {i : SessIx} {h : Hdr} {op : Nat} {a : Answer} (k : Noted i s v) (g : FcpCounters → FcpCounters) (t : State)
    (ht : t = ((v.answerPlain h i op a).countFcp g).fresh) : s.Unmoved t ∧ t.fcp.sessions[i].expected = s.fcp.sessions[i].expected
      ∧ t.fcp.sessions[i].replies = s.fcp.sessions[i].replies ∧ t.fcp.counters = g s.fcp.counters
      ∧ (s.fcp.sessions[i].state = .closed → t.fcp.sessions[i].dseqNext = s.fcp.sessions[i].dseqNext)
      ∧ t.waiting i = s.waiting i ++ [{ event := false, session := i, code := op, dseq := s.fcp.sessions[i].dseqNext, hack := s.fcp.sessions[i].hack, tag := h.tag.toNat, status := a.status, reason := a.reason, handle := a.handle, payload := a.payload, dest := replyTo h }] := by
  obtain ⟨va, vb, vd, hm⟩ := k.mark
  have hq : ∀ (z : Session) (p : Packet), (z.queueReply p).txQueue ++ (z.queueReply p).txWaiting = (z.txQueue ++ z.txWaiting) ++ [p]
      ∧ (z.queueReply p).expected = z.expected ∧ (z.queueReply p).replies = z.replies ∧ (z.queueReply p).dseqNext = z.dseqNext ∧ (z.queueReply p).state = z.state := by
    intro z p
    unfold Session.queueReply
    split
    · rename_i hw
      have : z.txWaiting = [] := by simpa using (Bool.and_eq_true_iff.mp hw).2
      rw [this]
      exact ⟨by simp, rfl, rfl, rfl, rfl⟩
    · exact ⟨by simp, rfl, rfl, rfl, rfl⟩
  have ht : t = ((v.onSession i (fun z =>
    if z.state = .closed then z.answerClosed i op h.tag.toNat (replyTo h) a else z.answer i op h.tag.toNat (replyTo h) a)).countFcp g).fresh := ht
  generalize hf : (fun z : Session => if z.state = .closed then z.answerClosed i op h.tag.toNat (replyTo h) a else z.answer i op h.tag.toNat (replyTo h) a) = f at ht
  have hz : ∀ z : Session, (f z).state = z.state ∧ (f z).expected = z.expected ∧ (f z).replies = z.replies ∧ (z.state = .closed → (f z).dseqNext = z.dseqNext)
      ∧ (f z).txQueue ++ (f z).txWaiting = (z.txQueue ++ z.txWaiting) ++ [z.packet i op h.tag.toNat (replyTo h) a] := by
    intro z
    subst hf
    dsimp only
    obtain ⟨q1, q2, q3, q4, q5⟩ := hq z (z.packet i op h.tag.toNat (replyTo h) a)
    split
    · exact ⟨q5, q2, q3, fun _ => q4, q1⟩
    · rename_i hn
      exact ⟨q5, q2, q3, fun hc => absurd hc hn, q1⟩
  have hs : ∀ j : SessIx, t.fcp.sessions[j] = if i = j then f v.fcp.sessions[i] else v.fcp.sessions[j] := by
    intro j
    rw [ht]
    exact onSession_get v i j f
  obtain ⟨z1, z2, z3, z4, z5⟩ := hz v.fcp.sessions[i]
  have hi := (hs i).trans (if_pos rfl)
  have ho := k.only
  refine ⟨⟨?_, ?_, ?_, fun j => ?_⟩, ?_, ?_, ?_, fun hc => ?_, ?_⟩
  · generalize v.fcp.sessions = x at ho
    subst ho
    rw [ht]
    rfl
  · rw [ht]; show v.fcp.commander = _; rw [ho]
  · rw [ht]; show v.fcp.ops = _; rw [ho]
  · rw [hs]
    split
    · rename_i hj; subst hj; rw [z1]; exact k.states i
    · exact k.states j
  · rw [hi, z2, hm]
  · rw [hi, z3, hm]
  · rw [ht]; show g v.fcp.counters = _; rw [ho]
  · rw [hi, z4 (by rw [hm]; exact hc), hm]
  · unfold State.waiting
    rw [hi, z5, hm]
    rfl

/-- What reaches step 6: an OPEN session hears a packet of the right format. -/
theorem reaches_six {s : State} {h : Hdr} {q : Req} {i : SessIx} (hb : s.bound h = some i) (ho : s.fcp.sessions[i].state = .opened)
    (hh : s.hears h q = true) (hf : h.format = 2) (hq : q.opcode ≠ 0x0101) : ∃ v, Noted i s v ∧
    (h.hseq.toNat ≠ s.fcp.sessions[i].expected → s.receive h q = (v.unexpected h i q).fresh) ∧
    (h.hseq.toNat = s.fcp.sessions[i].expected → s.receive h q = ((s.admitted h i).perform h i q).fresh) := by
  obtain ⟨v, k, hr, hv⟩ := heard_is hb (.inl ho) hh
  have k2 := k.on (Session.takeDack · h.dack.toNat) (takes_dack _)
  refine ⟨v.onSession i (Session.takeDack · h.dack.toNat), k2, ?_⟩
  have hs : v.fcp.sessions[i].state = .opened := (k.states i).trans ho
  have he : v.fcp.sessions[i].expected = s.fcp.sessions[i].expected := by obtain ⟨a, b, d, hm⟩ := k.mark; rw [hm]
  rw [hr]
  unfold State.process
  dsimp only
  rw [if_neg (by rw [hf]; decide), if_neg (by rw [hs]; simp), if_neg hq, he]
  refine ⟨fun h1 => by rw [if_neg h1], fun h1 => ?_⟩
  rw [if_pos h1]
  have h2 : s.heard h i = s.onSession i (fun z => { z with lastValid := s.now, peer := replyTo h }) := by
    unfold State.heard
    dsimp only
    rw [if_neg]
    rw [onSession_get, if_pos rfl]
    show ¬ s.fcp.sessions[i].state = .silent
    rw [ho]; decide
  rw [hv hq, h2, State.onSession_onSession, State.onSession_onSession]
  rfl

/-- A command of steps 7 to 11 that goes no further. -/
theorem stops_at {s : State} {h : Hdr} {q : Req} {i : SessIx} (hb : s.bound h = some i) (ho : s.fcp.sessions[i].state = .opened)
    (hh : s.hears h q = true) (hf : h.format = 2) (hq : q.opcode ≠ 0x0101) (he : h.hseq.toNat = s.fcp.sessions[i].expected) {a : Answer} {t : State}
    (hp : (s.admitted h i).precheck h i q = some (t, a)) : s.receive h q = (t.answerStored h i q a).fresh := by
  obtain ⟨v, k, _, h1⟩ := reaches_six hb ho hh hf hq
  rw [h1 he]
  unfold State.perform
  rw [hp]

theorem stored_out {t : State} {h : Hdr} {q : Req} {i : SessIx} {a : Answer} (hq : q.opcode ≠ 0x0101) (u : State) (hu : u = (t.answerStored h i q a).fresh) :
    t.Unmoved u ∧ u.Answered i h q a ∧ u.fcp.sessions[i].expected = t.fcp.sessions[i].expected ∧ u.fcp.counters.violations = t.fcp.counters.violations
      ∧ u.fcp.counters.violationLast = t.fcp.counters.violationLast := by
  subst hu
  obtain ⟨a1, a2, a3, a4, a5⟩ := t.answerStored_only h i q a hq
  have ha : (t.answerStored h i q a).fresh.Answered i h q a := State.Answered.of_hush hq (State.Hush.of_fcp rfl)
  have he : (t.answerStored h i q a).fcp.sessions[i].expected = t.fcp.sessions[i].expected ∧ (t.answerStored h i q a).fcp.counters.violations = t.fcp.counters.violations
      ∧ (t.answerStored h i q a).fcp.counters.violationLast = t.fcp.counters.violationLast := by
    have hz : ∀ (z : Session) (x : Nat) (o tg d : Nat) (p : List Byte), (z.answerStored i x o tg d p a).expected = z.expected := by
      intro z x o tg d p
      show (z.queueReply _).expected = z.expected
      unfold Session.queueReply; split <;> rfl
    have hs : ∀ v : State, v.fcp.sessions = t.fcp.sessions → v.fcp.counters.violations = t.fcp.counters.violations → v.fcp.counters.violationLast = t.fcp.counters.violationLast →
        (v.onSession i (fun z => z.answerStored i h.hseq.toNat q.opcode h.tag.toNat (replyTo h) q.params a)).fcp.sessions[i].expected = t.fcp.sessions[i].expected
        ∧ (v.onSession i (fun z => z.answerStored i h.hseq.toNat q.opcode h.tag.toNat (replyTo h) q.params a)).fcp.counters.violations = t.fcp.counters.violations
        ∧ (v.onSession i (fun z => z.answerStored i h.hseq.toNat q.opcode h.tag.toNat (replyTo h) q.params a)).fcp.counters.violationLast = t.fcp.counters.violationLast := by
      intro v h1 h2 h3
      refine ⟨?_, h2, h3⟩
      rw [onSession_get, if_pos rfl, hz, h1]
    unfold State.answerStored
    dsimp only
    rw [if_neg hq]
    split
    · exact hs _ rfl rfl rfl
    · exact hs _ rfl rfl rfl
  refine ⟨?_, ha, he⟩
  generalize t.answerStored h i q a = v at *
  refine ⟨?_, a3, a2, a5⟩
  rw [a1]; rfl

theorem unmoved_trans {s t u : State} (h1 : s.Unmoved t) (h2 : t.Unmoved u) : s.Unmoved u := by
  obtain ⟨a1, a2, a3, a4⟩ := h1
  obtain ⟨b1, b2, b3, b4⟩ := h2
  refine ⟨?_, b2.trans a2, b3.trans a3, fun j => (b4 j).trans (a4 j)⟩
  rw [b1]
  generalize t.fcp = x at a1
  generalize t.free = y at a1
  subst a1
  rfl

theorem heard_silent (s : State) (h : Hdr) (i : SessIx) (ho : s.fcp.sessions[i].state = .silent) :
    (s.heard h i).fcp.sessions[i] = { s.fcp.sessions[i] with lastValid := s.now, peer := replyTo h, state := .opened } := by
  have h0 : (s.onSession i (fun z => { z with lastValid := s.now, peer := replyTo h })).fcp.sessions[i]
      = { s.fcp.sessions[i] with lastValid := s.now, peer := replyTo h } := (onSession_get _ _ _ _).trans (if_pos rfl)
  unfold State.heard
  extract_lets s1
  have h1 : s1.fcp.sessions[i] = { s.fcp.sessions[i] with lastValid := s.now, peer := replyTo h } := h0
  clear_value s1
  have h3 : s1.fcp.sessions[i].state = .silent := by rw [h1]; exact ho
  rw [if_pos h3]
  have hk : ∀ f, f = s1.fcp.enterState s1.now i .opened → f.sessions[i] = { s1.fcp.sessions[i] with state := .opened } := by
    intro f hf
    unfold Fcp.enterState at hf
    dsimp only at hf
    rw [if_neg (by rw [h3]; decide)] at hf
    subst hf
    rw [eventState_get]
    exact (set_get _ _ _ _).trans (if_pos rfl)
  show (s1.fcp.enterState s1.now i .opened).sessions[i] = _
  rw [hk _ rfl, h1]

/-- In SILENT a packet first opens the session again. -/
theorem silent_opens {s : State} {h : Hdr} {q : Req} {i : SessIx} (hb : s.bound h = some i) (ho : s.fcp.sessions[i].state = .silent)
    (hh : s.hears h q = true) (hq : q.opcode ≠ 0x0101) : s.receive h q = (s.heard h i).receive h q := by
  obtain ⟨_, _, a3, _, _⟩ := heard_out s h i
  have hi := heard_silent s h i ho
  have e1 : s.receive h q = ((s.heard h i).process h i q).fresh := by
    unfold State.receive
    rw [hb]
    dsimp only
    rw [if_neg (by rw [ho]; decide), if_neg (by rw [hh]; decide), if_neg (by simp [hq])]
  rw [e1]
  have k1 : (s.heard h i).bound h = s.bound h := by rw [a3]; rfl
  have k2 : (s.heard h i).hears h q = s.hears h q := by rw [a3]; rfl
  have k3 : (s.heard h i).now = s.now := by rw [a3]
  generalize s.heard h i = u at *
  unfold State.receive
  rw [k1, hb]
  dsimp only
  have hu : u.heard h i = u := by
    unfold State.heard
    have : u.onSession i (fun z => { z with lastValid := u.now, peer := replyTo h }) = u := by
      unfold State.onSession Fcp.session
      have hs : ({ u.fcp.sessions[i] with lastValid := u.now, peer := replyTo h } : Session) = u.fcp.sessions[i] := by rw [k3, hi]
      dsimp only
      rw [hs]
      show ({ u with fcp := { u.fcp with sessions := u.fcp.sessions.set i.val u.fcp.sessions[i.val] } } : State) = u
      rw [Vector.set_getElem_self]
    rw [this]
    dsimp only
    rw [if_neg (by rw [hi]; nofun)]
  rw [if_neg (by rw [hi]; nofun), if_neg (by rw [k2, hh]; decide), if_neg (by simp [hq]), hu]

/-- An opcode that is not listed is not that of SESSION_OPEN. -/
theorem unlisted_params (op : Nat) (p : List Byte) (h : (request op p).listed = false) :
    (request op p).opcode = op ∧ op ≠ 0x0101 := by
  refine ⟨?_, ?_⟩
  · revert h
    unfold request sessionRequest doorRequest moduleRequest
    repeat' split
    all_goals first
      | exact fun _ => rfl
      | (intro h; cases h)
  · rintro rfl
    cases h

/-- Step 7: a packet of an unlisted opcode is answered UNKNOWN and changes nothing else. -/
theorem unlisted_packet (s : State) (source : BitVec 48) (h : Hdr) (i : SessIx) (op : Nat) (params : List Byte) (ho : op < 65536)
    (hp : params.length ≤ 1008) (hl : (request op params).listed = false) (ht : h.transport = .service) (hsrc : h.source = source.toNat)
    (h3 : h.trainWide = false) (hc : s.commsRuns = true) (hbl : s.service.fw.bootLoader = false) (hb : s.bound h = some i)
    (hopen : s.fcp.sessions[i].state = .opened) (hf : h.format = 2) (he : h.hseq.toNat = s.fcp.sessions[i].expected) :
    ∃ t, exec (.serviceDatagramReceived source (commandPacket h op params)) s = .next t ∧ s.Unmoved t
      ∧ t.fcp.sessions[i].expected = seqNext s.fcp.sessions[i].expected
      ∧ t.Answered i h (request op params) { status := 0x11, reason := 0, handle := 0, payload := [] } := by
  obtain ⟨h1, h2⟩ := unlisted_params op params hl
  have hq : (request op params).opcode ≠ 0x0101 := by rw [h1]; exact h2
  have hh : s.hears h (request op params) = true := by unfold State.hears; rw [hbl]; exact hc
  have hpre : (s.admitted h i).precheck h i (request op params) = some (s.admitted h i, { Answer.format with status := stUnknown }) := by
    unfold State.precheck
    dsimp only
    rw [if_pos (by rw [hl]; rfl)]
  have hr := stops_at hb hopen hh hf hq he hpre
  obtain ⟨b1, b2, b3, _⟩ := stored_out hq _ hr
  refine ⟨_, datagram_runs s h op params source ho hp ht hsrc h3 (.inl hc), unmoved_trans (s.admitted_unmoved h i) b1, b3.trans ?_, b2⟩
  rw [State.admitted_session]
  show seqNext (Session.takeDack _ _).expected = _
  rw [(Session.takeDack_state _ _).2.2]

end Sys2Proof.Machine
end

