-- ==== Sys2Proof/Laws/OtherDoorways.lean ====
section
/-!
SUPPORT. An occurrence at one doorway and the others.
-/

set_option linter.unusedVariables false
set_option linter.unusedSimpArgs false

namespace Sys2Proof.Machine

theorem answers_next (c : Instr) (s : State) : ∃ t, exec c s = .next t := by
  cases c <;> exact ⟨_, rfl⟩

theorem runDoor_others (s : State) (d j : DoorIx) (f : DoorEnv → Work → Work) (hj : j ≠ d) : (s.doors[j]).alike (s.runDoor d f).doors[j] := by
  cases hr : s.leafRuns d
  · unfold State.runDoor
    rw [hr]
    exact Doorway.alike_refl _
  · have h := s.runDoor_alike d f hr j
    rw [if_neg hj] at h
    exact h

theorem atDoor_others (s : State) (d j : DoorIx) (f : DoorEnv → Work → Work) (hj : j ≠ d) : (s.doors[j]).alike (s.atDoor d f).doors[j] := by
  unfold State.atDoor
  split
  · exact runDoor_others s d j f hj
  · exact Doorway.alike_refl _

theorem atStep_others (s : State) (d j : DoorIx) (f : DoorEnv → Work → Work) (hj : j ≠ d) : (s.doors[j]).alike (s.atStep d f).doors[j] := by
  unfold State.atStep
  split
  · exact runDoor_others s d j f hj
  · exact Doorway.alike_refl _

theorem atDrive_others (s : State) (r : DriveIx) (j : DoorIx) (f : DoorEnv → Work → Work) (hj : j ≠ doorOf r) : (s.doors[j]).alike (s.atDrive r f).doors[j] := by
  unfold State.atDrive
  split
  · exact runDoor_others s _ j f hj
  · exact Doorway.alike_refl _

theorem doorInput_others (s : State) (d j : DoorIx) (f : DoorEnv → Work → Work) (hj : j ≠ d) : (s.doors[j]).alike (s.doorInput d f).doors[j] := by
  unfold State.doorInput
  split
  · exact Doorway.alike_refl _
  · extract_lets t
    have ht : (s.doors[j]).alike t.doors[j] := by
      show (s.doors[j]).alike (if s.leafRuns d then s.runDoor d f
        else s.quietInput d f).doors[j]
      split
      · exact runDoor_others s d j f hj
      · refine Doorway.alike_of_eq ?_
        exact (doors_set _ _ _ _).trans (if_neg hj)
    exact Doorway.alike_trans ht ((State.alike_trans (State.alike_trans (State.keeperSees_alike t d) (State.egressRows_alike _ d)) (State.evaluate_alike _)) j)

theorem changeDoor_others (s : State) (d j : DoorIx) (f : DoorEnv → Work → Work) (hj : j ≠ d) : (s.doors[j]).alike (s.changeDoor d f).doors[j] := by
  unfold State.changeDoor
  generalize f (s.doorEnv d) ⟨s.doors[d], []⟩ = w
  refine Doorway.alike_trans ?_ (State.alike_foldl _ (fun t x ht => State.alike_trans ht (State.applyFx_alike d t x)) (State.alike_refl _) j)
  exact Doorway.alike_of_eq ((doors_set _ _ _ _).trans (if_neg hj))

/-- The Hall sensors of one doorway leave every other as it was. -/
theorem hallChanges_others (s : State) (d j : DoorIx) (code since : Nat) (hj : j ≠ d) :
    (s.doors[j]).alike (s.hallChanges d code since).doors[j] := by
  unfold State.hallChanges
  split
  · exact Doorway.alike_refl _
  · exact Doorway.alike_trans (Doorway.alike_trans (changeDoor_others s d j _ hj) (State.evaluate_alike _ j)) (runDoor_others _ d j _ hj)

/-- The comparison of one doorway's edges leaves every other as it was. -/
theorem edgesCompared_others (s : State) (d j : DoorIx) (f : DoorEnv → Work → Work) (hj : j ≠ d) :
    (s.doors[j]).alike (s.edgesCompared d f).doors[j] := by
  unfold State.edgesCompared
  split
  · exact Doorway.alike_refl _
  · exact Doorway.alike_trans (changeDoor_others s d j f hj)
      (State.alike_of_keeps (State.fresh_keeps (Within.refl _) (Keeps.refl _ _)) (by decide) j)

/-- The operation that runs a command of one doorway. -/
theorem own_forms {c : Instr} {d : DoorIx} (hc : ownDoorway c = some d) (s : State) : (∃ f, exec c s = .next (s.doorInput d f)) ∨ (∃ f, exec c s = .next (s.atDoor d f))
    ∨ (∃ f, exec c s = .next (s.atStep d f)) ∨ (∃ r f, doorOf r = d ∧ exec c s = .next (s.atDrive r f))
    ∨ (∃ code since, exec c s = .next (s.hallChanges d code since)) ∨ ∃ f, exec c s = .next (s.edgesCompared d f) := by
  cases c with
  | openPushbutton => cases hc; exact .inl ⟨_, rfl⟩
  | closePushbutton => cases hc; exact .inl ⟨_, rfl⟩
  | disMake => cases hc; exact .inl ⟨_, rfl⟩
  | disBreak => cases hc; exact .inl ⟨_, rfl⟩
  | egressActive => cases hc; exact .inl ⟨_, rfl⟩
  | egressInactive => cases hc; exact .inl ⟨_, rfl⟩
  | uncommandedUnlock => cases hc; exact .inl ⟨_, rfl⟩
  | plausibilityTimeout => cases hc; exact .inl ⟨_, rfl⟩
  | dcsPositionImplausible => cases hc; exact .inr (.inl ⟨_, rfl⟩)
  | faultInputCauseGone => cases hc; exact .inr (.inl ⟨_, rfl⟩)
  | unlockTimeoutExpiry => cases hc; exact .inr (.inl ⟨_, rfl⟩)
  | dlsBreakUnlocking => cases hc; exact .inl ⟨_, rfl⟩
  | dcsBreakOpening => cases hc; exact .inl ⟨_, rfl⟩
  | unlockCommandedGraceEnd => cases hc; exact .inr (.inl ⟨_, rfl⟩)
  | preCloseWarnExpiry => cases hc; exact .inr (.inl ⟨_, rfl⟩)
  | dwellExpiry => cases hc; exact .inr (.inl ⟨_, rfl⟩)
  | dcsMadeClosedWindow => cases hc; exact .inl ⟨_, rfl⟩
  | dlsConfirmed => cases hc; exact .inl ⟨_, rfl⟩
  | lockAttemptExpiry => cases hc; exact .inr (.inl ⟨_, rfl⟩)
  | dlsMadeClosedUnlocked => cases hc; exact .inl ⟨_, rfl⟩
  | dcsBreakClosedUnlocked => cases hc; exact .inl ⟨_, rfl⟩
  | reopenDwellExpiry => cases hc; exact .inr (.inl ⟨_, rfl⟩)
  | adaptWindowEnd => cases hc; exact .inr (.inl ⟨_, rfl⟩)
  | adaptMramWrite => cases hc; exact .inr (.inl ⟨_, rfl⟩)
  | segmentEndEvent => cases hc; exact .inr (.inr (.inr (.inl ⟨_, _, rfl, rfl⟩)))
  | hallChange => cases hc; exact .inr (.inr (.inr (.inr (.inl ⟨_, _, rfl⟩))))
  | hallDropout => cases hc; exact .inr (.inl ⟨_, rfl⟩)
  | hallLostTimeout => cases hc; exact .inr (.inl ⟨_, rfl⟩)
  | hallSupplyFault => cases hc; exact .inr (.inl ⟨_, rfl⟩)
  | directionFault => cases hc; exact .inr (.inl ⟨_, rfl⟩)
  | followingError => cases hc; exact .inr (.inl ⟨_, rfl⟩)
  | thermalHold => cases hc; exact .inr (.inr (.inr (.inl ⟨_, _, rfl, rfl⟩)))
  | thermalHoldClear => cases hc; exact .inr (.inr (.inr (.inl ⟨_, _, rfl, rfl⟩)))
  | dcsEdgeConfirmed => cases hc; exact .inl ⟨_, rfl⟩
  | sealStall => cases hc; exact .inr (.inl ⟨_, rfl⟩)
  | sealSeekOvertravel => cases hc; exact .inr (.inl ⟨_, rfl⟩)
  | stepTimerExpiry => cases hc; exact .inr (.inr (.inl ⟨_, rfl⟩))
  | stallConfirmed => cases hc; exact .inr (.inr (.inl ⟨_, rfl⟩))
  | homingOvertravel => cases hc; exact .inr (.inr (.inl ⟨_, rfl⟩))
  | deployComplete => cases hc; exact .inr (.inr (.inl ⟨_, rfl⟩))
  | deploySdsTimeout => cases hc; exact .inr (.inr (.inl ⟨_, rfl⟩))
  | sdsLost => cases hc; exact .inl ⟨_, rfl⟩
  | stepRetryPauseExpiry => cases hc; exact .inr (.inr (.inl ⟨_, rfl⟩))
  | reflexTripTaken => cases hc; exact .inr (.inl ⟨_, rfl⟩)
  | sePathFault => cases hc; exact .inr (.inr (.inr (.inr (.inr ⟨_, rfl⟩))))
  | sePathFaultClear => cases hc; exact .inr (.inr (.inr (.inr (.inr ⟨_, rfl⟩))))
  | envBreakawayExpiry => cases hc; exact .inr (.inl ⟨_, rfl⟩)
  | maintOpenHoldExpiry => cases hc; exact .inr (.inl ⟨_, rfl⟩)
  | _ => cases hc

theorem next_eq {x : Outcome} {u t : State} (h : x = .next u) (k : x = .next t) : u = t := by
  rw [h] at k
  injection k

end Sys2Proof.Machine
end

