-- ==== Sys2Proof/Laws/OutputSteps.lean ====
section
/-!
SUPPORT. The outputs after one occurrence.
-/

set_option linter.unusedVariables false
set_option linter.unusedSimpArgs false

namespace Sys2Proof.Machine

theorem takeOuts_is (s : State) (f : OutEnv → FieldOutputs → FieldOutputs × Events) (h : s.fieldOn = true) :
    (s.takeOuts f).outs.records = (f s.outEnv s.outs).1.records ∧ (s.takeOuts f).train = s.train := by
  unfold State.takeOuts
  rw [if_neg (by rw [h]; decide)]
  have h1 : ∀ (o : FieldOutputs) (l : Events), (({ s with outs := o } : State).events l).evaluate.outs.records = o.records ∧ (({ s with outs := o } : State).events l).evaluate.train = s.train := by
    intro o l
    have hk := State.Settles.of_keeps (State.events_keeps (Within.refl _) (Keeps.refl _ ({ s with outs := o } : State)) l) (by decide) (by decide) (by decide)
    have h2 := hk.trans (State.evaluate_settles _)
    exact ⟨h2.outs, h2.train⟩
  exact h1 _ _

theorem outsRecords_of {a b : FieldOutputs} (h : b.records = a.records) : b.on = a.on ∧ b.tripped = a.tripped ∧ b.tripSeen = a.tripSeen ∧ b.trips = a.trips
    ∧ b.safe = a.safe ∧ b.heldOut = a.heldOut ∧ b.losses = a.losses :=
  ⟨congrArg (fun q => q.on) h, congrArg (fun q => q.tripped) h, congrArg (fun q => q.tripSeen) h, congrArg (fun q => q.trips) h, congrArg (fun q => q.safe) h,
    congrArg (fun q => q.heldOut) h, congrArg (fun q => q.losses) h⟩

theorem outBit_set (w : BitVec 16) (i j : OutIx) (b : Bool) : (setBit w i.val b).getLsbD j.val = if j = i then b else w.getLsbD j.val := by
  rw [setBit_get _ _ _ _ i.isLt]
  by_cases h : j = i
  · subst h; rw [if_pos rfl, if_pos rfl]
  · rw [if_neg h, if_neg (fun hx => h (Fin.ext hx))]

theorem partner_ne (c : Cfg) (k p : OutIx) (h : outPartner c k = some p) : p ≠ k := by
  unfold outPartner at h
  dsimp only at h
  split at h
  · split at h
    · simp at h; subst h; intro hx; have := congrArg Fin.val hx; simp at this; omega
    · exact nomatch h
  · split at h
    · split at h
      · simp at h; subst h; intro hx; have := congrArg Fin.val hx; simp at this
      · exact nomatch h
    · exact nomatch h

end Sys2Proof.Machine
end

