-- ==== Sys2Proof/Laws/PathEnds.lean ====
section
/-!
SUPPORT. The end of a path at one drive.
-/

set_option linter.unusedVariables false
set_option linter.unusedSimpArgs false

namespace Sys2Proof.Machine

theorem doorBare_fields {a b : DoorDrive} (h : b.bare = a.bare) : b.flags = a.flags ∧ b.hall = a.hall ∧ b.counters = a.counters
    ∧ b.gen.state = a.gen.state ∧ b.gen.kept = a.gen.kept ∧ b.gen.remaining = a.gen.remaining ∧ b.gen.ref = a.gen.ref :=
  ⟨congrArg (fun q => q.flags) h, congrArg (fun q => q.hall) h, congrArg (fun q => q.counters) h, congrArg (fun q => q.gen.state) h,
    congrArg (fun q => q.gen.kept) h, congrArg (fun q => q.gen.remaining) h, congrArg (fun q => q.gen.ref) h⟩

theorem doorOf_door : ∀ d : DoorIx, doorOf (doorDrive d) = d ∧ isStep (doorDrive d) = false ∧ doorOf (stepDrive d) = d ∧ isStep (stepDrive d) = true := by decide

theorem pathEnds_eq (s : State) (r : DriveIx) (hn : s.power.entry = none) : s.pathEnds r = s.atDrive r (if isStep r then onStepPathEnds else doorPathEnds) := by
  unfold State.pathEnds State.entryChecks
  have h3 : (s.atDrive r (if isStep r then onStepPathEnds else doorPathEnds)).power = s.power :=
    (State.atDrive_keeps (Within.refl _) (Keeps.refl _ s) r _).only .power (by decide)
  rw [h3, hn]

theorem atDrive_owned (s : State) (r : DriveIx) (d : DoorIx) (f g : DoorEnv → Work → Work) (h : doorOf r = d) (hg : g = f) (hf : s.cfg.driveFitted r = true)
    (hr : s.leafRuns d = true) : (g (s.doorEnv d) ⟨s.doors[d], []⟩).dw.alike (s.atDrive r f).doors[d] := by
  subst h; subst hg; exact s.atDrive_own r g hf hr

theorem stepBare_gen {a b : StepDrive} (h : b.bare = a.bare) : b.position = a.position ∧ b.job = a.job ∧ b.gen.state = a.gen.state
    ∧ b.flags.homed = a.flags.homed :=
  ⟨congrArg (fun q => q.position) h, congrArg (fun q => q.job) h, congrArg (fun q => q.gen.state) h, congrArg (fun q => q.flags.homed) h⟩

theorem onDcsEdge_dcs (e : DoorEnv) (make : Bool) (w : Work) : (onDcsEdge e make w).dw.dcs = make := by
  unfold onDcsEdge
  have : ∀ v : Work, (doorTick e v).dw.dcs = v.dw.dcs := fun v => by unfold Doorway.dcs Doorway.input; rw [doorTick_inp]
  rw [this]
  by_cases h : w.dw.inp.filtered.getLsbD 0 = make
  · rw [if_pos h]
    have h1 : (indexCompare e make w).dw.inp = w.dw.inp := indexCompare_inp _ _ _
    unfold Doorway.dcs Doorway.input; rw [h1]; exact h
  · rw [if_neg h]
    exact setInput_own e 0 make w (by decide)

end Sys2Proof.Machine
end

