-- ==== Sys2Proof/Laws/ReflexLatches.lean ====
section
/-!
SUPPORT. A reflex row of the doorway itself latches a trip.
-/

set_option linter.unusedVariables false
set_option linter.unusedSimpArgs false

namespace Sys2Proof.Machine

theorem onDoor_own (s : State) (d : DoorIx) (f) : ((s.onDoor d f).doors[d]) = f s.doors[d] := by
  unfold State.onDoor; simp

theorem reflexTrip_own (s : State) (d : DoorIx) (f : Doorway → Doorway) {row : RowIx} (h : ownRow d row) (n : Nat)
    (ha : reflexAction s.cfg row (doorDrive d) ≠ .none) (hf : s.cfg.isFitted d = true) (hp : s.power.on (leafDomain d) = true)
    (ho : s.quince.oscillator = true) : (f s.doors[d]).obst.TripOf row n ((((s.onDoor d f).latchRow row n drives).fresh).doors[d]).obst := by
  have hc : (s.onDoor d f).cfg = s.cfg := rfl
  have hp2 : (s.onDoor d f).power = s.power := rfl
  have hq2 : (s.onDoor d f).quince = s.quince := rfl
  have h1 := State.latchRow_trip (s.onDoor d f) h n (by rw [hc]; exact ha) (by rw [hc]; exact hf) (by rw [hp2]; exact hp) (by rw [hq2]; exact ho)
  rw [onDoor_own] at h1
  rw [(State.fresh_alike ((s.onDoor d f).latchRow row n drives) d).obst]
  exact h1

theorem reflexTrip_effort (s : State) (d : DoorIx) (a b : Int) {row : RowIx} (h : ownRow d row) 
    (ha : reflexAction s.cfg row (doorDrive d) ≠ .none) (hf : s.cfg.isFitted d = true) (hp : s.power.on (leafDomain d) = true)
    (ho : s.quince.oscillator = true) : ({ (s.doors[d]).obst with lastEffort := a, lastLimit := b } : Obstacle).TripOf row 0 ((((s.onDoor d (fun w => { w with obst := { w.obst with
      lastEffort := a, lastLimit := b } })).latchRow row 0 drives).fresh).doors[d]).obst := reflexTrip_own s d (fun w => { w with obst := { w.obst with
      lastEffort := a, lastLimit := b } }) h 0 ha hf hp ho

theorem reflexTrip_edge (s : State) (d : DoorIx) (second : Bool) {row : RowIx} (h : ownRow d row) 
    (ha : reflexAction s.cfg row (doorDrive d) ≠ .none) (hf : s.cfg.isFitted d = true) (hp : s.power.on (leafDomain d) = true)
    (ho : s.quince.oscillator = true) : ({ (s.doors[d]).obst with seFast := if second then ((s.doors[d]).obst.seFast.1, true) else (true, (s.doors[d]).obst.seFast.2) } : Obstacle).TripOf row 0 ((((s.onDoor d (fun w => { w with obst := { w.obst with
      seFast := if second then (w.obst.seFast.1, true) else (true, w.obst.seFast.2) } })).latchRow row 0 drives).fresh).doors[d]).obst := reflexTrip_own s d (fun w => { w with obst := { w.obst with
      seFast := if second then (w.obst.seFast.1, true) else (true, w.obst.seFast.2) } }) h 0 ha hf hp ho

def finalOffset (m : FinalClosure) (o : Nat) : Nat := match m with
      | .energy x => x
      | _ => o

theorem reflexTrip_final (s : State) (d : DoorIx) (g : Obstacle → Nat) {row : RowIx} (h : ownRow d row) (n : Nat)
    (ha : reflexAction s.cfg row (doorDrive d) ≠ .none) (hf : s.cfg.isFitted d = true) (hp : s.power.on (leafDomain d) = true)
    (ho : s.quince.oscillator = true) (X : State) (hX : X = (((s.onDoor d (fun w => { w with obst := { w.obst with
      sigEnergy := g w.obst } })).latchRow row n drives).fresh)) : ({ (s.doors[d]).obst with sigEnergy := g (s.doors[d]).obst } : Obstacle).TripOf row n (X.doors[d]).obst := by
  subst hX
  exact reflexTrip_own s d (fun w => { w with obst := { w.obst with
      sigEnergy := g w.obst } }) h n ha hf hp ho

end Sys2Proof.Machine
end

