-- ==== Sys2Proof/Laws/Resets.lean ====
section
/-!
SUPPORT. RESET of one doorway (R52, R184).
-/

set_option linter.unusedVariables false
set_option linter.unusedSimpArgs false

namespace Sys2Proof.Machine

theorem one_mask (d : DoorIx) (s : State) (h : Hdr) (i : SessIx) (mask : Nat) (hm : mask = 2 ^ d.val) (ht : h.takeover = false)
    (hc : s.fcp.commander[d] = some i) (hf : s.cfg.isFitted d = true) :
    (∀ r, refuseReset (s.doorEnv d) s.doors[d] = some r → s.doorCommand h i mask 5 = s.answers (Answer.refused r)) ∧
    (refuseReset (s.doorEnv d) s.doors[d] = none → s.doorCommand h i mask 5
      = ((s.doorReset d).testAfterReset (fun d => s.doors[d]) [d]).answers (Answer.done (BitVec.ofNat 8 (2 ^ d.val) :: List.replicate 11 0))) := by
  subst hm
  have hw : ∀ x, s.reasons (2 ^ d.val) (fun _ => none) refuseReset x = if x = d then refuseReset (s.doorEnv d) s.doors[d] else none := reasons_one s d _
  refine ⟨fun r hr => ?_, fun hr => ?_⟩
  · unfold State.doorCommand
    rw [if_neg (by decide), if_neg (by decide), own_plain ht hc hf]
    dsimp only
    rw [if_neg (by decide), if_neg (by decide), acting_none (r := r) (by rw [hw, if_pos rfl, hr]), if_pos (show ([] : List DoorIx).isEmpty = true from rfl)]
    rw [lowest_one d _ r (fun x => by rw [hw, hr])]
  · unfold State.doorCommand
    rw [if_neg (by decide), if_neg (by decide), own_plain ht hc hf]
    dsimp only
    rw [if_neg (by decide), if_neg (by decide), acting_one (by rw [hw, if_pos rfl, hr]), if_neg (by simp), acted_one d _ (fun x => by rw [hw, hr]; simp)]
    rfl

end Sys2Proof.Machine
end

