-- ==== Sys2Proof/Laws/Retargets.lean ====
section
/-!
SUPPORT. MOVE_TO at a door drive, and the moves it supersedes (R138, R139).
-/

set_option linter.unusedVariables false
set_option linter.unusedSimpArgs false

namespace Sys2Proof.Machine

theorem startMove_out (e : DoorEnv) (mode : Nat) (target : Int) (speed : Nat) (w : Work)
    (hs : w.dw.sm.state = .opening ∨ w.dw.sm.state = .opened) :
    (startMove e mode target speed w).dw.sm.state = .opening ∧ (startMove e mode target speed w).dw.door.gen.state = .moving
      ∧ (startMove e mode target speed w).dw.door.gen.target = moveTarget e w.dw mode target
      ∧ (startMove e mode target speed w).dw.sm.flags.openComplete = false := by
  unfold startMove
  dsimp only
  generalize hu : (if w.dw.sm.state = .opened then enter e .opening .none none w else w) = u
  have hst : u.dw.sm.state = .opening := by
    rw [← hu]; split
    · exact (enter_is e .opening .none none w).state
    · rename_i hn; exact hs.resolve_right hn
  unfold doMoveTo
  have hg : ∀ (t : Int) (v : Work), (doorMove e t speed true v).dw.sm = v.dw.sm ∧ (doorMove e t speed true v).dw.door.gen = v.dw.door.gen.moveToTarget (doorEnvOf e v.dw) t speed true := by
    intro t v
    refine ⟨doorMove_sm _ _ _ _ _, ?_⟩
    unfold doorMove strokeStarts
    dsimp only
    split <;> rfl
  refine ⟨?_, ?_, ?_, ?_⟩
  · rw [(hg _ _).1]; exact hst
  · rw [(hg _ _).2]; rfl
  · rw [(hg _ _).2]; rfl
  · rw [(hg _ _).1]; rfl

theorem supersede_ok (r : DriveIx) (n : Nat) (u : State) : u.supersedeMove r n = { u with fcp := (u.supersedeMove r n).fcp } ∧ u.Hush (u.supersedeMove r n) := by
  unfold State.supersedeMove
  dsimp only
  generalize List.map (fun x : Operation => x.handle) _ = l
  generalize hv : ({ u with fcp := { u.fcp with ops := _ } } : State) = v
  have h0 : v = { u with fcp := v.fcp } ∧ u.Hush v := by rw [← hv]; exact ⟨rfl, fun _ => rfl⟩
  clear hv
  induction l generalizing v with
  | nil => exact h0
  | cons a t ih =>
    refine ih (v.settleOp a) ⟨only_fcp h0.1 ?_, h0.2.trans (State.settleOp_hush _ _)⟩
    have hc : ∀ a b c d, v.complete a b c d = { v with fcp := (v.complete a b c d).fcp } := by
      intro a b c d; unfold State.complete; split <;> rfl
    unfold State.settleOp
    split
    · rfl
    · split
      · rfl
      · dsimp only
        split <;> first | exact hc _ _ _ _ | rfl

end Sys2Proof.Machine
end

