-- ==== Sys2Proof/Laws/Rings.lean ====
section
/-!
SUPPORT. The Nulor ring (chapter 11).
-/

set_option linter.unusedVariables false
set_option linter.unusedSimpArgs false

namespace Sys2Proof.Machine

theorem events_ring (s : State) (l : Events) : (s.events l).ring = s.ring :=
  (State.events_keeps (Within.refl _) (Keeps.refl _ s) l).only .ring (by decide)

theorem takeRing_ring (s : State) (r : Ring × Events) : (s.takeRing r).ring = r.1 := events_ring _ _

theorem onInserted_ring (s : State) (f : Ring → RingEnv → Ring × Events) (h : s.onRing = true) :
    (s.onInserted f).ring = (f s.ring s.ringEnv).1 := by
  unfold State.onInserted; rw [if_pos h, takeRing_ring]

theorem chooseMaster_out (r : Ring) (e : RingEnv) : (r.chooseMaster e).1.timeAge = r.timeAge ∧ (r.chooseMaster e).1.nodes = r.nodes
    ∧ (r.chooseMaster e).1.nodeLost = r.nodeLost ∧ (r.chooseMaster e).1.counters = r.counters ∧ (r.chooseMaster e).1.inserted = r.inserted
    ∧ (r.chooseMaster e).1.wrapped = r.wrapped := by
  unfold Ring.chooseMaster
  dsimp only
  split <;> exact ⟨rfl, rfl, rfl, rfl, rfl, rfl⟩

theorem setAge_out (r : Ring) (e : RingEnv) (n : Nat) : (r.setAge e n).1.timeAge = n := by
  unfold Ring.setAge
  dsimp only
  split <;> rfl

theorem ofPort_set (x : Bool × Bool) (p : PortIx) (b : Bool) : ofPort (setPort x p b) p = b
    ∧ ofPort (setPort x p b) (otherPort p) = ofPort x (otherPort p) := by
  unfold ofPort setPort otherPort
  by_cases h : p = 0
  · subst h; exact ⟨rfl, rfl⟩
  · simp [h]

theorem ringFrame_ring (s : State) (p : PortIx) (f : RingFrame) (h : s.onRing = true) (hn : (s.ring.receive s.ringEnv p f).2.2 = .nothing) :
    (s.ringFrame p f).ring = (s.ring.receive s.ringEnv p f).1 := by
  unfold State.ringFrame
  rw [if_neg (by rw [h]; decide)]
  dsimp only
  rw [hn]
  exact takeRing_ring _ _

theorem sendOn_out (r : Ring) (p : PortIx) (f : RingFrame) : (r.sendOn p f).windows = r.windows ∧ (r.sendOn p f).etherConflict = r.etherConflict
    ∧ (r.sendOn p f).counters.foreign = r.counters.foreign ∧ (r.sendOn p f).counters.duplicates = r.counters.duplicates := by
  unfold Ring.sendOn
  dsimp only
  split <;> split <;> exact ⟨rfl, rfl, rfl, rfl⟩

theorem judge_out (r : Ring) (e : RingEnv) : (r.judge e).1.etherConflict = r.etherConflict ∧ (r.judge e).1.counters.foreign = r.counters.foreign
    ∧ (r.consistCondition = true → (r.judge e).1.consistMismatch = true) ∧ (r.judge e).1.addressConflict = r.addressConflict
    ∧ (r.judge e).1.lastOut = r.lastOut := by
  unfold Ring.judge
  dsimp only
  refine ⟨rfl, ?_, fun h => ?_, rfl, rfl⟩
  · split <;> rfl
  · rw [h]; cases r.consistMismatch <;> rfl

theorem sendOn_through (r : Ring) (p : PortIx) (f : RingFrame) (h1 : r.wrapped = (false, false)) (h2 : r.up = (true, true)) :
    r.sendOn p f = { r with lastOut := some (otherPort p, f), counters := { r.counters with forwarded := satInc 32 r.counters.forwarded } } := by
  unfold Ring.sendOn
  dsimp only
  have ha : ∀ q, ofPort r.wrapped q = false := by intro q; rw [h1]; unfold ofPort; split <;> rfl
  have hb : ∀ q, ofPort r.up q = true := by intro q; rw [h2]; unfold ofPort; split <;> rfl
  rw [ha, hb]
  simp [ha]

theorem sendOn_back (r : Ring) (p : PortIx) (f : RingFrame) (h1 : ofPort r.wrapped p = false) (h2 : ofPort r.wrapped (otherPort p) = true) :
    (r.sendOn p f).lastOut = some (p, { f with wrapped := true }) := by
  unfold Ring.sendOn
  dsimp only
  rw [h2]
  simp [h1]

end Sys2Proof.Machine
end

