-- ==== Sys2Proof/Laws/StepEnds.lean ====
section
/-!
SUPPORT. What a step drive keeps under the latches of Quince.
-/

set_option linter.unusedVariables false
set_option linter.unusedSimpArgs false

namespace Sys2Proof.Machine

theorem stepBare_fields {a b : StepDrive} (h : b.bare = a.bare) : b.position = a.position ∧ b.job = a.job ∧ b.thenDeploy = a.thenDeploy ∧ b.run = a.run
    ∧ b.flags.homed = a.flags.homed ∧ b.flags.deployed = a.flags.deployed ∧ b.flags.sdsLost = a.flags.sdsLost ∧ b.demandFails = a.demandFails
    ∧ b.lastShift = a.lastShift ∧ b.counters = a.counters :=
  ⟨congrArg (fun q => q.position) h, congrArg (fun q => q.job) h, congrArg (fun q => q.thenDeploy) h, congrArg (fun q => q.run) h,
    congrArg (fun q => q.flags.homed) h, congrArg (fun q => q.flags.deployed) h, congrArg (fun q => q.flags.sdsLost) h,
    congrArg (fun q => q.demandFails) h, congrArg (fun q => q.lastShift) h, congrArg (fun q => q.counters) h⟩

end Sys2Proof.Machine
end

