-- ==== Sys2Proof/Laws/SwitchFrames.lean ====
section
/-!
SUPPORT. Command frames, tests and regulation of the load channels.
-/

set_option linter.unusedVariables false
set_option linter.unusedSimpArgs false

namespace Sys2Proof.Machine

theorem lsw_next (s : State) (f) (h : s.fieldOn = true) : OnlyChanges [.free, .loop, .lsw, .outs, .fcp] s (s.takeLsw f) :=
  (State.takeLsw_keeps (Within.refl _) (Keeps.refl _ s) f).only

theorem tripped_of (s : State) (n : ChanIx) (a b : Nat) : Channel.Tripped (s.lsw.chans[leaderOf s.cfg n]) ((overcurrent s.lswEnv n a b s.lsw).1.chans[leaderOf s.cfg n]) a :=
  overcurrent_is s.lswEnv n a b s.lsw

theorem takeFrame_link (e : LswEnv) (m : LswMode) (w : LoadSwitches) : (takeFrame e m w).link.seq = w.link.seq ∧ (takeFrame e m w).link.failsafe = w.link.failsafe
    ∧ (takeFrame e m w).link.updateHold = (m == .updateHold)
    ∧ (takeFrame e m w).link.stable = (m == .stable || (m == .updateHold && w.link.stable)) := by
  unfold takeFrame
  cases m <;> dsimp only
  · rw [(LoadSwitches.applyAll_same _ _).2]; exact ⟨rfl, rfl, rfl, rfl⟩
  · rw [(LoadSwitches.applyAll_same _ _).2, LoadSwitches.each_link]; exact ⟨rfl, rfl, rfl, rfl⟩
  · rw [(LoadSwitches.applyAll_same _ _).2]; exact ⟨rfl, rfl, rfl, rfl⟩

theorem takeFrame_run (e : LswEnv) (w : LoadSwitches) (n : ChanIx) (hl : isLeader e.cfg n = true) (h4 : functionOf e.cfg n = 4)
    (hp : e.permits[chanDoor n] = false) : ((takeFrame e .run w).chans[n]).cmd = .off := by
  unfold takeFrame
  dsimp only
  have h := (LoadSwitches.applyAll_same ({ w.onLink (fun l => { l with updateHold := false, stable := false }) with chans := tab 48 (fun n => if isLeader e.cfg n then frameChannel e n (w.chans[n]) else w.chans[n]) }) e.cfg).1 n
  refine (congrArg (·.2.2.1) h).trans ?_
  have ht : ((tab 48 (fun n => if isLeader e.cfg n then frameChannel e n (w.chans[n]) else w.chans[n]))[n]) = frameChannel e n (w.chans[n]) := by
    unfold tab; simp [hl]
  show (((tab 48 (fun n => if isLeader e.cfg n then frameChannel e n (w.chans[n]) else w.chans[n]))[n])).cmd = _
  rw [ht]
  unfold frameChannel
  dsimp only
  rw [h4, hp]; rfl

theorem eachOnly (ns : List ChanIx) (f : Channel → Channel) (m : ChanIx) (hm : m ∉ ns) (w : LoadSwitches) : (w.each ns f).chans[m] = w.chans[m] := by
  induction ns generalizing w with
  | nil => rfl
  | cons n ns ih =>
    have h1 : n ≠ m := fun hx => hm (hx ▸ List.mem_cons_self)
    exact (ih (fun hx => hm (List.mem_cons_of_mem _ hx)) (w.chan n f)).trans (w.chan_other h1 f)

theorem takeFrame_hold (e : LswEnv) (w : LoadSwitches) (n : ChanIx) (h4 : functionOf e.cfg n ≠ 4) : ((takeFrame e .updateHold w).chans[n]).cmd = (w.chans[n]).cmd := by
  unfold takeFrame
  dsimp only
  have h := (LoadSwitches.applyAll_same ((w.onLink (fun l => { l with updateHold := true })).each
      ((List.finRange 48).filter (fun n => functionOf e.cfg n == 4)) (fun q => { q with cmd := .off, blocked := false })) e.cfg).1 n
  refine (congrArg (·.2.2.1) h).trans ?_
  show ((LoadSwitches.each _ _ _).chans[n]).cmd = _
  rw [eachOnly]
  · rfl
  · simp [h4]

theorem enterFailsafe_is (e : LswEnv) (w : LoadSwitches) (h : w.link.failsafe = false) : (enterFailsafe e w).1.link.failsafe = true
    ∧ (enterFailsafe e w).1.link.validRun = 0 ∧ (enterFailsafe e w).1.link.updateHold = false ∧ (enterFailsafe e w).1.link.timeouts = satInc 16 w.link.timeouts := by
  unfold enterFailsafe
  rw [if_neg (by rw [h]; decide)]
  dsimp only
  rw [(LoadSwitches.applyAll_same _ _).2]
  exact ⟨rfl, rfl, rfl, rfl⟩

theorem frame_bad (e : LswEnv) (seq : Nat) (crc : Bool) (m : LswMode) (w : LoadSwitches)
    (h : crc = false ∨ ∃ q, w.link.seq = some q ∧ seq % 256 ≠ (q + 1) % 256) :
    lswFrame e seq crc m w = (w.onLink (fun l => { l with validRun := 0, invalidFrames := satInc 32 l.invalidFrames }), []) := by
  unfold lswFrame
  dsimp only
  rcases h with h | ⟨q, h1, h2⟩
  · subst h; rw [Bool.false_and]; rfl
  · rw [h1]; dsimp only; simp only [h2, decide_false, Bool.and_false]; rfl

theorem frame_good (e : LswEnv) (seq : Nat) (m : LswMode) (w : LoadSwitches) (h : ∀ q, w.link.seq = some q → seq % 256 = (q + 1) % 256) :
    lswFrame e seq true m w =
      let s := w.onLink (fun l => { l with seq := some (seq % 256), validRun := min 8 (l.validRun + 1) })
      if s.link.failsafe && s.link.validRun < 8 then (s, [])
      else
        let left := s.link.failsafe
        let s := takeFrame e m (s.onLink (fun l => { l with failsafe := false }))
        (s, if left then [(0xE702, lswEvent e 0xFF 0 0 0)] else []) := by
  unfold lswFrame
  dsimp only
  cases hs : w.link.seq with
  | none => rfl
  | some q => dsimp only; simp only [h q hs, decide_true]; rfl

theorem each_in (ns : List ChanIx) (f : Channel → Channel) (p : Channel → Prop) (hf : ∀ q, p (f q)) (m : ChanIx) (hm : m ∈ ns) (w : LoadSwitches) : p ((w.each ns f).chans[m]) := by
  induction ns generalizing w with
  | nil => exact (nomatch hm)
  | cons n ns ih =>
    by_cases h : m ∈ ns
    · exact ih h (w.chan n f)
    · have hn : n = m := by
        rcases List.mem_cons.mp hm with h1 | h1
        · exact h1.symm
        · exact absurd h1 h
      subst hn
      have h1 := eachOnly ns f n h (w.chan n f)
      show p (((w.chan n f).each ns f).chans[n])
      rw [h1, LoadSwitches.chan_self]; exact hf _

theorem sag_is (e : LswEnv) (d : DoorIx) (du : Nat) (w : LoadSwitches) (h : 100 < du) : (onRailSag e d du w).1.link.railSags = satInc 16 w.link.railSags
    ∧ ∀ n : ChanIx, chanDoor n = d → isLeader e.cfg n = true → (w.chans[n]).on = true → (w.chans[n]).inrush = true → (w.chans[n]).extUsed = false →
      (((onRailSag e d du w).1.chans[n]).extended = true ∧ ((onRailSag e d du w).1.chans[n]).extUsed = true) := by
  unfold onRailSag
  rw [if_neg (by omega)]
  dsimp only
  refine ⟨?_, fun n h1 h2 h3 h4 h5 => ?_⟩
  · rw [LoadSwitches.onLink_link, LoadSwitches.each_link]
  · refine each_in _ _ (fun q => q.extended = true ∧ q.extUsed = true) (fun q => ⟨rfl, rfl⟩) n ?_ w
    simp [h1, h2]; exact ⟨⟨h3, h4⟩, h5⟩

theorem off_is (e : LswEnv) (n : ChanIx) (w : LoadSwitches) (h : testRuns e n w = true) :
    (((onOffTest e n .openLoad w).1.chans[n]).diag.openOff = true) ∧
    (1 ≤ (w.chans[n]).diag.presentRun → ((onOffTest e n .present w).1.chans[n]).diag.openOff = false
      ∧ ((onOffTest e n .present w).1.chans[n]).diag.shortSupply = false ∧ ((onOffTest e n .present w).1.chans[n]).diag.crossFed = false) ∧
    ((w.chans[n]).diag.crossFed = false → ((onOffTest e n (.fed none) w).1.chans[n]).diag.shortSupply = true) := by
  have hn : (!testRuns e n w) = false := by rw [h]; rfl
  have hd : ∀ f : ChanDiag → ChanDiag, ((w.diag n f).chans[n]) = { (w.chans[n]) with diag := f (w.chans[n]).diag } := fun f => LoadSwitches.chan_self _ _ _
  refine ⟨?_, fun h1 => ?_, fun h1 => ?_⟩
  · unfold onOffTest
    rw [if_neg (by rw [hn]; decide)]
    dsimp only
    split
    · rw [hd]
    · rw [LoadSwitches.chan_self, hd]; rfl
  · have hx : onOffTest e n .present w = (w.diag n (fun q => { q with openOff := false, shortSupply := false, crossFed := false, partner := none, presentRun := 2 }), []) := by
      unfold onOffTest
      rw [if_neg (by rw [hn]; decide)]
      dsimp only
      rw [if_pos h1]
    rw [hx]
    exact ⟨congrArg (fun q => q.diag.openOff) (hd _), congrArg (fun q => q.diag.shortSupply) (hd _), congrArg (fun q => q.diag.crossFed) (hd _)⟩
  · have hx : (onOffTest e n (.fed none) w).1 = w.diag n (fun q => { q with shortSupply := true, presentRun := 0 }) := by
      unfold onOffTest
      rw [if_neg (by rw [hn]; decide)]
      dsimp only
      rw [if_neg (by decide), if_neg (by intro hx; exact absurd (h1.symm.trans hx) (by decide))]
    rw [hx]
    exact congrArg (fun q => q.diag.shortSupply) (hd _)

theorem openOn_is (e : LswEnv) (n : ChanIx) (cur : Nat) (w : LoadSwitches) (h1 : (w.chans[leaderOf e.cfg n]).on = true)
    (h2 : (w.chans[leaderOf e.cfg n]).inrush = false) (h3 : e.cfg.chOpenOnI (leaderOf e.cfg n) ≠ 0) :
    ((onOpenOn e n cur w).1.chans[n]).diag.openOn = decide (cur < e.cfg.chOpenOnI (leaderOf e.cfg n)) := by
  have hd : ∀ f : ChanDiag → ChanDiag, ((w.diag n f).chans[n]) = { (w.chans[n]) with diag := f (w.chans[n]).diag } := fun f => LoadSwitches.chan_self _ _ _
  unfold onOpenOn
  dsimp only
  have hc : ¬((!(w.chans[leaderOf e.cfg n]).on || (w.chans[leaderOf e.cfg n]).inrush || decide (e.cfg.chOpenOnI (leaderOf e.cfg n) = 0)) = true) := by
    rw [h1, h2, decide_eq_false h3]; decide
  rw [if_neg hc]
  split
  · rename_i hc
    rw [decide_eq_true hc]
    split
    · rw [hd]
    · rw [LoadSwitches.chan_self, hd]; rfl
  · rename_i hc
    rw [decide_eq_false hc, hd]

theorem reading_is (e : LswEnv) (l : ChanIx) (v cur : Nat) (b : Bool) (w : LoadSwitches) (h : cur ≠ 0) (ht : tempInRange (elementTemp e.cfg l (elementR v cur)) = true) :
    ((takeReading e l v cur b w).1.chans[l]).heater.temp = elementTemp e.cfg l (elementR v cur)
    ∧ ((w.chans[l]).heater.rFault = false → ((takeReading e l v cur b w).1.chans[l]).heater.rFault = false)
    ∧ (takeReading e l v cur b w).1.link = w.link ∧ w.Same (fun q => q.cmd) (takeReading e l v cur b w).1 := by
  unfold takeReading
  rw [if_neg h]
  dsimp only
  rw [if_pos ht, LoadSwitches.chan_self]
  refine ⟨rfl, fun hr => ?_, rfl, LoadSwitches.Same.chan (.refl _ w) _ _ (fun _ => rfl)⟩
  dsimp only
  rw [hr]; rfl

theorem demand_same (c : Cfg) (l : ChanIx) {a b : LoadSwitches} (h1 : b.link = a.link) (h2 : a.Same (fun q => q.cmd) b) : b.demand c l = a.demand c l := by
  unfold LoadSwitches.demand
  dsimp only
  have h3 : (b.chans[l]).cmd = (a.chans[l]).cmd := h2 l
  rw [h1, h3]

theorem regulate_is (e : LswEnv) (l : ChanIx) (w : LoadSwitches) (hd : w.demand e.cfg l = .keepWarm) (hr : (w.chans[l]).heater.rFault = false) :
    ((regulate e l w).chans[l]).heater.temp = (w.chans[l]).heater.temp ∧
    ((w.chans[l]).heater.temp < e.cfg.chHeatSetpoint l - (e.cfg.chHeatBand l / 2 : Nat) → ((regulate e l w).chans[l]).heater.heating = true) ∧
    (e.cfg.chHeatSetpoint l + (e.cfg.chHeatBand l / 2 : Nat) < (w.chans[l]).heater.temp → ((regulate e l w).chans[l]).heater.heating = false) := by
  have key : ∀ b : Bool, (((w.chan l (fun q => { q with heater := { q.heater with heating := b } })).apply e.cfg l).chans[l]).heater = { (w.chans[l]).heater with heating := b } := by
    intro b
    have h1 : (w.chan l (fun q => { q with heater := { q.heater with heating := b } })).demand e.cfg l = .keepWarm := by
      rw [← hd]
      refine demand_same e.cfg l rfl (LoadSwitches.Same.chan (.refl _ w) _ _ ?_)
      exact fun _ => rfl
    unfold LoadSwitches.apply
    rw [h1]
    have h2 := LoadSwitches.follow_same (w.chan l (fun q => { q with heater := { q.heater with heating := b } })) e.cfg l ((w.chan l (fun q => { q with heater := { q.heater with heating := b } })).chans[l]).heater.heating l
    have h3 := congrArg (fun x : Option ChanCmd × Option Bool × ChanCmd × Bool × Bool × ChanDiag × Heater => x.2.2.2.2.2.2) h2
    refine h3.trans ?_
    show (((w.chan l _).chans[l]).heater) = _
    rw [LoadSwitches.chan_self]
  unfold regulate
  dsimp only
  rw [key, hr]
  refine ⟨rfl, fun h => ?_, fun h => ?_⟩
  · show (if false = true then false else if _ then true else _) = true
    rw [if_neg (by decide), if_pos h]
  · show (if false = true then false else if _ then true else if _ then false else _) = false
    rw [if_neg (by decide), if_neg (by omega), if_pos h]

theorem warm_is (e : LswEnv) (n l : ChanIx) (v cur : Nat) (w : LoadSwitches) (hl : l = leaderOf e.cfg n) (hd : w.demand e.cfg l = .keepWarm)
    (hs : selfSensing e.cfg l = true) (h : cur ≠ 0) (ht : tempInRange (elementTemp e.cfg l (elementR v cur)) = true)
    (h1 : (w.chans[l]).on = true) (h2 : (w.chans[l]).inrush = false) (hr : (w.chans[l]).heater.rFault = false) :
    ((onKeepWarm e n v cur w).1.chans[l]).heater.temp = elementTemp e.cfg l (elementR v cur) ∧
    (elementTemp e.cfg l (elementR v cur) < e.cfg.chHeatSetpoint l - (e.cfg.chHeatBand l / 2 : Nat) → ((onKeepWarm e n v cur w).1.chans[l]).heater.heating = true) ∧
    (e.cfg.chHeatSetpoint l + (e.cfg.chHeatBand l / 2 : Nat) < elementTemp e.cfg l (elementR v cur) → ((onKeepWarm e n v cur w).1.chans[l]).heater.heating = false) := by
  obtain ⟨a, b, c, d⟩ := reading_is e l v cur false w h ht
  have hx : (onKeepWarm e n v cur w).1 = regulate e l (takeReading e l v cur false w).1 := by
    subst hl
    unfold onKeepWarm
    dsimp only
    rw [if_neg (by rw [hd, hs]; decide), if_pos (by rw [h1, h2]; rfl)]
  rw [hx]
  have h3 := regulate_is e l (takeReading e l v cur false w).1 ((demand_same e.cfg l c d).trans hd) (b hr)
  rw [a] at h3
  exact h3

theorem pulse_is (e : LswEnv) (n l : ChanIx) (v cur : Nat) (w : LoadSwitches) (hl : l = leaderOf e.cfg n) (hd : w.demand e.cfg l = .keepWarm)
    (hs : selfSensing e.cfg l = true) (h : cur ≠ 0) (ht : tempInRange (elementTemp e.cfg l (elementR v cur)) = true)
    (h1 : (w.chans[l]).on = false) (h2 : (w.chans[l]).lockout = false) (h3 : (w.chans[l]).retryWait = false) (h4 : w.groupThermal e.cfg l = false) :
    ((onMeasurePulse e n v cur w).1.chans[l]).heater.temp = elementTemp e.cfg l (elementR v cur) ∧ ((onMeasurePulse e n v cur w).1.chans[l]).on = false := by
  obtain ⟨a, -, -, -⟩ := reading_is e l v cur true (w.turnOn e.cfg l false) h ht
  have hx : (onMeasurePulse e n v cur w).1 = (takeReading e l v cur true (w.turnOn e.cfg l false)).1.turnOff l := by
    subst hl
    unfold onMeasurePulse
    dsimp only
    rw [if_neg (by rw [hd, hs, h1, h2, h3, h4]; decide)]
  rw [hx]
  unfold LoadSwitches.turnOff
  rw [LoadSwitches.chan_self]
  exact ⟨a, rfl⟩

theorem flash_is (e : LswEnv) (n l : ChanIx) (w : LoadSwitches) (half : Bool) (hl : l = leaderOf e.cfg n) (h : flashes e l (w.chans[l]) = true) (hf : (w.chans[l]).flash = some half) :
    ((onFlash e n w).chans[l]).flash = some (!half) ∧ ((onFlash e n w).chans[l]).cmd = (if half then .off else .on) := by
  have hx : onFlash e n w = (w.chan l (fun q => { q with flash := some (!half), cmd := if half then .off else .on })).apply e.cfg l := by
    subst hl
    unfold onFlash
    dsimp only
    rw [if_pos h, hf]
    cases half <;> rfl
  rw [hx]
  have h2 := LoadSwitches.apply_same (w.chan l (fun q => { q with flash := some (!half), cmd := if half then .off else .on })) e.cfg l l
  rw [LoadSwitches.chan_self] at h2
  exact ⟨congrArg (·.2.1) h2, congrArg (·.2.2.1) h2⟩

end Sys2Proof.Machine
end

