-- ==== Sys2Proof/Laws/TrainInputs.lean ====
section
/-!
SUPPORT. Trainline inputs and the loop's occurrences.
-/

set_option linter.unusedVariables false
set_option linter.unusedSimpArgs false

namespace Sys2Proof.Machine

theorem loopRecords_of {a b : Loop} (h : b.records = a.records) :
   b.orientPending = a.orientPending ∧ b.relSettled = a.relSettled ∧ b.keeper = a.keeper ∧ b.alone = a.alone ∧ b.discrepancy = a.discrepancy
   ∧ b.persistent = a.persistent ∧ b.latched = a.latched ∧ b.bypassActive = a.bypassActive ∧ b.bypassSince = a.bypassSince ∧
   b.counters.discrepancies = a.counters.discrepancies ∧ b.counters.bypasses = a.counters.bypasses ∧ b.counters.bypassTime = a.counters.bypassTime
   ∧ b.counters.rbFaults = a.counters.rbFaults ∧ b.counters.zspdFaults = a.counters.zspdFaults := by
  unfold Loop.records at h
  simp only [Prod.mk.injEq, List.cons.injEq] at h
  obtain ⟨⟨h1, h2, h3, h4, h5, -⟩, ⟨h6, h7, h8⟩, -, h9, -, -, h10, ⟨h11, h12, h13⟩, h14, h15⟩ := h
  exact ⟨h6, Prod.ext h7 h8, h9, h10, h11, h12, h13, h14, h15, h1, h2, h3, h4, h5⟩

theorem incident_settles (s : State) (a b c d e g) : s.Settles (s.incident a b c d e g) :=
  .of_keeps (State.incident_keeps (Within.refl _) (Keeps.refl _ _) a b c d e g) (by decide) (by decide) (by decide)

theorem bypassCheck_is (s : State) : s.bypassCheck.train = s.train ∧
    s.bypassCheck.loop.records = (if s.supvRuns then (s.loop.bypassChanges s.loopEnv).1 else s.loop).records := by
  unfold State.bypassCheck
  dsimp only
  by_cases hr : s.supvRuns = true
  · rw [hr]
    by_cases hc : (s.loop.bypassChanges s.loopEnv).2 = true
    · rw [hc]
      simp only [Bool.not_true, Bool.or_self, Bool.false_eq_true, if_false, if_true]
      have hk : ∀ (L : Loop) (a b c d e g), ((({ s with loop := L } : State).loopEvents [0xE203]).incident a b c d e g).train = s.train ∧
          ((({ s with loop := L } : State).loopEvents [0xE203]).incident a b c d e g).loop.records = L.records := by
        intro L a b c d e g
        have h1 := (State.Settles.of_keeps (State.loopEvents_keeps' ({ s with loop := L } : State) [0xE203]) (by decide) (by decide) (by decide)).trans
          (incident_settles _ a b c d e g)
        exact ⟨h1.train, h1.loop⟩
      exact hk _ _ _ _ _ _ _
    · have hc2 : (s.loop.bypassChanges s.loopEnv).2 = false := by simpa using hc
      rw [hc2]
      simp only [Bool.not_true, Bool.not_false, Bool.or_true, if_true]
      have : (s.loop.bypassChanges s.loopEnv).1 = s.loop := by
        unfold Loop.bypassChanges at hc2 ⊢
        dsimp only at hc2 ⊢
        split
        · rfl
        · rename_i h; rw [if_neg h] at hc2; split at hc2 <;> exact Bool.noConfusion hc2
      rw [this]; exact ⟨trivial, rfl⟩
  · have : s.supvRuns = false := by simpa using hr
    rw [this]
    simp

theorem onTrain_is (s : State) (f : InGroup → InGroup) : (s.onTrain f).train = f s.train ∧
    ∃ L e, L = s.loop.inputsChanged e s.train.filtered ∧ e.train = f s.train ∧ e.mono = s.mono ∧
      (s.onTrain f).loop.records = (if s.supvRuns then (L.bypassChanges e).1 else L).records := by
  have key : ∀ v : State, ((v.bypassCheck.bypassRow).supervise).train = v.train ∧
      ((v.bypassCheck.bypassRow).supervise).loop.records = (if v.supvRuns then (v.loop.bypassChanges v.loopEnv).1 else v.loop).records := by
    intro v
    obtain ⟨a, b⟩ := bypassCheck_is v
    have h := (State.bypassRow_settles v.bypassCheck).trans (State.supervise_settles _)
    exact ⟨h.train.trans a, h.loop.trans b⟩
  obtain ⟨a, b⟩ := key ({ ({ s with train := f s.train } : State) with loop := s.loop.inputsChanged ({ s with train := f s.train } : State).loopEnv s.train.filtered })
  exact ⟨a, _, ({ s with train := f s.train } : State).loopEnv, rfl, rfl, rfl, b⟩

theorem trainInput_is (s : State) (i : Nat) (b : Bool) (h : s.fieldOn = true) (hv : s.train.flags.valid = true) :
    s.trainInput i b = s.onTrain (fun q => q.setLevel s.cfg i b) := by
  unfold State.trainInput; rw [if_neg (by rw [h, hv]; decide)]

theorem changes_orient (L : Loop) (e : LoopEnv) (b : Bool) : (if b then (L.bypassChanges e).1 else L).orientPending = L.orientPending := by
  unfold Loop.bypassChanges; dsimp only; split
  · split
    · rfl
    · split <;> rfl
  · rfl

theorem setBit_same (w : BitVec 16) (i : Nat) (hi : i < 16) (b : Bool) : (setBit w i b).getLsbD i = b := by rw [setBit_get _ _ _ _ hi, if_pos rfl]

theorem takeLoop_is (s : State) (f : Loop → LoopEnv → Loop × List Nat) (h : s.supvRuns = true) :
    ({ s with loop := (f s.loop s.loopEnv).1 } : State).Settles (s.takeLoop f) := by
  unfold State.takeLoop
  rw [if_neg (by rw [h]; decide)]
  exact (State.Settles.of_keeps (State.loopEvents_keeps' _ _) (by decide) (by decide) (by decide)).trans (State.supervise_settles _)

theorem incident_if (u : State) (l : List Nat) (b : Bool) (x a c d e g) :
    u.Settles ((if b then u.loopEvents l else (u.loopEvents l).incident x a c d e g).supervise) := by
  refine State.Settles.trans ?_ (State.supervise_settles _)
  have h := State.Settles.of_keeps (State.loopEvents_keeps' u l) (by decide) (by decide) (by decide)
  cases b
  · exact h.trans (incident_settles _ _ _ _ _ _ _)
  · exact h

end Sys2Proof.Machine
end

section
/-!
The application engine's memory and mailbox (R573 to R581): what a write, a post, an acknowledgement, a refresh of the
mirror and a fill of an inbound slot make of the application.
-/

namespace Sys2Proof.Machine

/-! ## Writes of memory (R10, R573, R574) -/

/-- What was written is read back. -/
theorem Memory.readMany_writeMany_le {m : Memory} (h : m.wf = true) (a n v : Nat) :
    (m.writeMany a (le n v)).readMany a n = le n v := by
  have hr := readMany_writeMany h a (le n v)
  rwa [le_length] at hr

/-- Every byte outside the n written reads as before. -/
theorem Memory.read_writeMany_le {m : Memory} (h : m.wf = true) (a n v : Nat) {q : Nat} (hq : q < a ∨ a + n ≤ q) :
    (m.writeMany a (le n v)).read q = m.read q :=
  Memory.read_writeMany h a (le n v) q (by rwa [le_length])

/-- A write to writable memory changes the application's memory alone. -/
theorem writeRegister_writable_app {s : State} (hr : s.appRuns = true) {a n : Nat} (v : BitVec 32) (hw : memWritable a n = true) :
    (s.writeRegister a n v).engines.app
      = { s.engines.app with mem := s.engines.app.mem.writeMany a (le n (v.toNat % 2 ^ (8 * n))) } := by
  rw [writeMem s a n v hr hw, onApp_app _ _ hr]

/-- A write outside the registers and writable memory is a violation. -/
theorem writeRegister_violation_app {s : State} (hr : s.appRuns = true) {a : Nat} {w : AccessWidth} (v : BitVec 32)
    (hw : memWritable a w.bytes = false) (hn : ¬(0x40000000 ≤ a ∧ a < 0x40005000 ∧ w = .word ∧ a % 4 = 0)) :
    (s.writeRegister a w.bytes v).engines.app = s.engines.app.violate a := by
  rw [writeBad s a w v hr hw hn]
  exact onApp_app _ _ hr

/-! ## The mailbox (R579 to R581) -/

/-- A post of a free slot with a length of a packet is taken. -/
theorem App.post_taken {a : App} {k : Fin 4} {len : Nat} (hk : a.outBusy[k] = false) (h1 : 20 ≤ len) (h2 : len ≤ 1028) :
    a.post k len = { a with outBusy := a.outBusy.set k true, posts := a.posts ++ [(k, len)] } := by
  unfold App.post
  rw [if_neg]
  simp only [hk, Bool.false_or, Bool.or_eq_true, decide_eq_true_eq]
  omega

/-- Any other post is counted and does nothing else. -/
theorem App.post_refused {a : App} {k : Fin 4} {len : Nat} (h : a.outBusy[k] = true ∨ len < 20 ∨ 1028 < len) :
    a.post k len = { a with postErrors := satInc 32 a.postErrors } := by
  unfold App.post
  rw [if_pos]
  simpa only [Bool.or_eq_true, decide_eq_true_eq, or_assoc] using h

/-- An acknowledgement empties the inbound slots its mask names, and no other. -/
theorem App.ack_inLen (a : App) (mask : BitVec 32) (k : Fin 4) :
    (a.ack (mask.toNat % 16)).inLen[k] = if mask.getLsbD k then 0 else a.inLen[k] := by
  unfold App.ack
  dsimp only
  rw [tab_get, bitOf_getLsbD]

/-- A delivery fills the next inbound slot. -/
theorem App.deliver_inLen (a : App) (p : List Byte) : (a.deliver p).inLen[a.inNext] = p.length := by
  unfold App.deliver
  dsimp only
  rw [set_get, if_pos rfl]

/-- A delivery writes its packet from the base of the next inbound slot. -/
theorem App.deliver_mem (a : App) (p : List Byte) : (a.deliver p).mem = a.mem.writeMany (inBase + 0x800 * a.inNext.val) p := rfl

/-- A delivery moves on to the slot after. -/
theorem App.deliver_inNext (a : App) (p : List Byte) : (a.deliver p).inNext = Fin.ofNat 4 (a.inNext.val + 1) := rfl

/-- The comms engine takes the first packet of session 5's transmit queue into a free slot. -/
theorem State.mailFill_free {s : State} {p : Packet} {rest : List Packet} (hr : s.appRuns = true) (hc : s.commsRuns = true)
    (hq : s.fcp.sessions[(5 : SessIx)].txQueue = p :: rest) (hf : s.engines.app.inLen[s.engines.app.inNext] = 0) :
    s.mailFill = (s.onApp (fun a => a.deliver p.bytes)).onSession 5 Session.sendNext := by
  unfold State.mailFill State.onApp
  rw [hq]
  dsimp only
  have hfree : s.engines.app.inboundFree = true := decide_eq_true hf
  rw [if_neg (by rw [hc, hfree]; decide), if_pos hr]

/-- A change of a session leaves the engines. -/
@[simp] theorem State.onSession_engines (s : State) (i : SessIx) (f : Session → Session) : (s.onSession i f).engines = s.engines := rfl

/-- A change of the application engine leaves the protocol. -/
@[simp] theorem State.onApp_fcp (s : State) (f : App → App) : (s.onApp f).fcp = s.fcp := by
  unfold State.onApp
  split <;> rfl

/-! ## The mirror (R576) -/

/-- A refresh stores the mirror and counts its start and its end. -/
theorem State.mirrorRefresh_app {s : State} (hc : s.commsRuns = true) : s.mirrorRefresh.engines.app
    = { s.engines.app with mirrorSeq := (s.engines.app.mirrorSeq + 2) % 2 ^ 32, mirror := s.mirrorBytes } := by
  unfold State.mirrorRefresh
  rw [if_pos hc]
  rfl

/-! ## The statement -/

/-- R10, R573, R574: the clause of the writes. -/
theorem registerWrite_of_app {s : State} (hr : s.appRuns = true) (hm : s.engines.memOk) (a v : BitVec 32) (w : AccessWidth)
    (hn : ¬(0x40000000 ≤ a.toNat ∧ a.toNat < 0x40005000 ∧ w = .word ∧ a.toNat % 4 = 0)) :
    (memWritable a.toNat w.bytes = true → ∃ t, exec (.registerWrite a w v) s = .next t
      ∧ t.engines.app.mem.readMany a.toNat w.bytes = le w.bytes (v.toNat % 2 ^ (8 * w.bytes))
      ∧ t.engines.app.violations = s.engines.app.violations
      ∧ ∀ q, q < a.toNat ∨ a.toNat + w.bytes ≤ q → t.engines.app.mem.read q = s.engines.app.mem.read q) ∧
    (memWritable a.toNat w.bytes = false → ∃ t, exec (.registerWrite a w v) s = .next t
      ∧ t.engines.app = { s.engines.app with violations := satInc 32 s.engines.app.violations, lastViolation := a.toNat }) := by
  refine ⟨fun hw => ⟨s.writeRegister a.toNat w.bytes v, rfl, ?_⟩,
    fun hw => ⟨_, rfl, writeRegister_violation_app hr v hw hn⟩⟩
  rw [writeRegister_writable_app hr v hw]
  exact ⟨Memory.readMany_writeMany_le hm _ _ _, rfl, fun q hq => Memory.read_writeMany_le hm _ _ _ hq⟩

/-- R580: the clause of the posts. -/
theorem mbxPost_of_app {s : State} (hr : s.appRuns = true) (v : BitVec 32) :
    let k : Fin 4 := Fin.ofNat 4 (v.toNat % 4)
    let len := v.toNat / 65536 % 2048
    (s.engines.app.outBusy[k] = false → 20 ≤ len → len ≤ 1028 → ∃ t, exec (.mbxPost v) s = .next t
      ∧ t.engines.app.outBusy[k] = true ∧ t.engines.app.posts = s.engines.app.posts ++ [(k, len)]
      ∧ t.engines.app.postErrors = s.engines.app.postErrors) ∧
    (s.engines.app.outBusy[k] = true ∨ len < 20 ∨ 1028 < len → ∃ t, exec (.mbxPost v) s = .next t
      ∧ t.engines.app = { s.engines.app with postErrors := satInc 32 s.engines.app.postErrors }) := by
  intro k len
  have hpost : (s.mailPost v).engines.app = s.engines.app.post k len := onApp_app _ _ hr
  refine ⟨fun hk h1 h2 => ⟨s.mailPost v, rfl, ?_⟩, fun h => ⟨s.mailPost v, rfl, hpost.trans (App.post_refused h)⟩⟩
  rw [hpost, App.post_taken hk h1 h2]
  exact ⟨(set_get _ _ _ _).trans (if_pos rfl), rfl, rfl⟩

/-- R581: the clause of the inbound slots. -/
theorem mbxInboundFill_of_app {s : State} {p : Packet} {rest : List Packet} (hr : s.appRuns = true)
    (hq : s.fcp.sessions[(5 : SessIx)].txQueue = p :: rest) (hc : s.commsRuns = true)
    (hf : s.engines.app.inLen[s.engines.app.inNext] = 0) :
    ∃ t, exec .mbxInboundFill s = .next t ∧ t.engines.app.inLen[s.engines.app.inNext] = p.bytes.length
      ∧ t.engines.app.mem = s.engines.app.mem.writeMany (inBase + 0x800 * s.engines.app.inNext.val) p.bytes
      ∧ t.engines.app.inNext = Fin.ofNat 4 (s.engines.app.inNext.val + 1)
      ∧ t.fcp.sessions[(5 : SessIx)].txQueue = (s.fcp.sessions[(5 : SessIx)].sendNext).txQueue := by
  have happ : s.mailFill.engines.app = s.engines.app.deliver p.bytes := by
    rw [State.mailFill_free hr hc hq hf, State.onSession_engines, onApp_app _ _ hr]
  refine ⟨s.mailFill, rfl, ?_, ?_, ?_, ?_⟩
  · rw [happ, App.deliver_inLen]
  · rw [happ, App.deliver_mem]
  · rw [happ, App.deliver_inNext]
  · rw [State.mailFill_free hr hc hq hf, onSession_get, if_pos rfl, State.onApp_fcp]

/-- Settles O24: each command changes the application by one operation, whose effect a lemma above states. -/
theorem appMemoryAndMailbox : Obligations.AppMemoryAndMailbox := by
  unfold Obligations.AppMemoryAndMailbox
  intro s hr hm
  refine ⟨fun a v w hn => registerWrite_of_app hr hm a v w hn, fun v => mbxPost_of_app hr v, fun mask => ⟨s.mailAck mask, rfl, fun k => ?_⟩,
    fun hc => ⟨s.mirrorRefresh, rfl, ?_⟩, fun p rest hq hc hf => mbxInboundFill_of_app hr hq hc hf⟩
  · have hack : (s.mailAck mask).engines.app = s.engines.app.ack (mask.toNat % 16) := onApp_app _ _ hr
    rw [hack, App.ack_inLen]
  · rw [State.mirrorRefresh_app hc]
    exact ⟨rfl, rfl⟩

end Sys2Proof.Machine
end

section
/-!
Writes of objects (R421, R422): what step 12 and the common refusals let pass, and what each write with an effect of its
own does: DISCREPANCY_RESET (R89), ROLE_SELECT (R113), CAN_RESTART (R473) and the session keys (R607, R608).
-/

namespace Sys2Proof.Machine

/-! ## Step 12 (R387) -/

/-- Step 12 lets an object pass that no doorway owns. -/
theorem own_unowned {s : State} {h : Hdr} {i : SessIx} {index : Nat} (ht : h.takeover = false) (hm : ownerMask s.cfg index = 0) :
    (s.admitted h i).own h i (ownerMask (s.admitted h i).cfg index) = (s.admitted h i, fun _ => none) := by
  have hm' : ownerMask (s.admitted h i).cfg index = 0 := hm
  rw [hm']
  exact own_none ht

/-- Objects below 0x2000 and from 0x5000 on have no owner. -/
theorem ownerMask_module (c : Cfg) {index : Nat} (h : index < 0x2000 ∨ 0x5000 ≤ index) : ownerMask c index = 0 := by
  unfold ownerMask
  rw [if_neg (by omega), if_neg (by omega), if_neg (by omega)]

/-! ## Motion objects of a drive (R107, R113) -/

/-- Where the object of ROLE_SELECT lies. -/
theorem motionIndex_role_range (r : DriveIx) : 0x2000 ≤ motionIndex r 0x12 ∧ motionIndex r 0x12 < 0x2800 := by
  revert r; decide

/-- The doorway that the index names. -/
theorem motionIndex_role_div (r : DriveIx) : (motionIndex r 0x12 - 0x2000) / 0x100 = (doorOf r).val := by
  revert r; decide

/-- The offset that the index names. -/
theorem motionIndex_role_offset (r : DriveIx) : motionIndex r 0x12 % 0x100 = if isStep r then 0x1A else 0x12 := by
  revert r; decide

/-- The drive that the offset names. -/
theorem motionIndex_role_drive (r : DriveIx) :
    (if motionIndex r 0x12 % 0x100 = 0x12 then doorDrive (doorOf r) else stepDrive (doorOf r)) = r := by
  revert r; decide

/-- The number of a drive's doorway names that doorway. -/
theorem ofNat_doorOf (r : DriveIx) : Fin.ofNat 8 (doorOf r).val = doorOf r := Fin.ofNat_val_eq_self _

/-- A 16-bit word is what its two bytes hold (R6). -/
theorem ofLe_le_word (v : BitVec 16) : ofLe (le 2 v.toNat) = v.toNat := (ofLe_le 2 _).trans (Nat.mod_eq_of_lt v.isLt)

/-- R387: the doorway of the drive owns its ROLE_SELECT. -/
theorem ownerMask_role (c : Cfg) (r : DriveIx) : ownerMask c (motionIndex r 0x12) = 2 ^ (doorOf r).val := by
  unfold ownerMask
  rw [if_pos (motionIndex_role_range r), motionIndex_role_div]

/-- Step 12 lets the commanding session's ROLE_SELECT pass. -/
theorem own_role {s : State} {h : Hdr} {i : SessIx} {r : DriveIx} (ht : h.takeover = false)
    (hc : s.fcp.commander[doorOf r] = some i) (hf : s.cfg.isFitted (doorOf r) = true) :
    (s.admitted h i).own h i (ownerMask (s.admitted h i).cfg (motionIndex r 0x12)) = (s.admitted h i, fun _ => none) := by
  rw [ownerMask_role]
  exact own_plain ht hc hf

/-- The refusals of a write of a writable object in its length are the object's own. -/
theorem objRefusal_writable {s : State} {index sub : Nat} {b : List Byte} {o : Obj} (hi : ¬(0x3000 ≤ index ∧ index < 0x30A0))
    (h : s.obj index sub = some o) (hw : o.writable = true) (hl : b.length = o.bytes.length) :
    s.objRefusal index sub b = s.writeRefusal index sub b := by
  unfold State.objRefusal
  rw [if_neg hi, h]
  dsimp only
  rw [hw, if_neg (by decide), if_neg (not_not_intro hl)]

/-- ROLE_SELECT is a writable object of two bytes. -/
theorem roleObj_select (c : Cfg) (r : DriveIx) (g : Gen) : roleObj c r g 0x11 = some (ou16 g.roleSelect).rw := rfl

/-- ROLE_SELECT of a drive is defined in every state. -/
theorem obj_role (s : State) (r : DriveIx) : ∃ g : Gen, s.obj (motionIndex r 0x12) 0x11 = some (ou16 g.roleSelect).rw := by
  obtain ⟨hlo, hhi⟩ := motionIndex_role_range r
  unfold State.obj
  dsimp only
  rw [if_neg (by omega), if_pos hhi, motionIndex_role_offset]
  unfold State.doorObj
  cases isStep r
  · exact ⟨_, roleObj_select _ _ _⟩
  · exact ⟨_, roleObj_select _ _ _⟩

/-- R113: a ROLE_SELECT is refused for an empty slot alone. -/
theorem objRefusal_role (s : State) (r : DriveIx) (v : BitVec 16) :
    s.objRefusal (motionIndex r 0x12) 0x11 (le 2 v.toNat) = if emptySlot s.cfg r v.toNat then some 0x7C else none := by
  obtain ⟨hlo, hhi⟩ := motionIndex_role_range r
  obtain ⟨g, hobj⟩ := obj_role s r
  have hoff : motionIndex r 0x12 % 0x100 = 0x12 ∨ motionIndex r 0x12 % 0x100 = 0x1A := by
    rw [motionIndex_role_offset]
    cases isStep r
    · exact .inl rfl
    · exact .inr rfl
  rw [objRefusal_writable (by omega) hobj rfl ((le_length _ _).trans (le_length _ _).symm)]
  unfold State.writeRefusal
  dsimp only
  rw [if_neg (by omega), if_neg (by omega), if_neg (by omega), if_pos ⟨hlo, hhi, hoff⟩, motionIndex_role_div, ofNat_doorOf,
    motionIndex_role_drive, ofLe_le_word]

/-- The offset of ROLE_SELECT leads to the generator of its drive. -/
theorem doorWrite_role (r : DriveIx) (v : Nat) (w : Doorway) :
    doorWrite (motionIndex r 0x12 % 0x100) v w = w.onGen (isStep r) (fun g => { g with roleSelect := v }) := by
  rw [motionIndex_role_offset]
  cases isStep r <;> rfl

/-- R113: a write of ROLE_SELECT sets it in the generator of its drive. -/
theorem writeObj_role (s : State) (r : DriveIx) (v : BitVec 16) :
    (s.writeObj (motionIndex r 0x12) 0x11 (le 2 v.toNat)).doors[doorOf r]
      = s.doors[doorOf r].onGen (isStep r) (fun g => { g with roleSelect := v.toNat }) := by
  unfold State.writeObj
  dsimp only
  rw [dif_pos (motionIndex_role_range r), motionIndex_role_div, ofNat_doorOf, onDoor_own, doorWrite_role, ofLe_le_word]

/-! ## Refusals of the module's own objects -/

/-- A byte differs from 1 where its number does. -/
theorem toNat_ne_one (v : BitVec 8) : v.toNat ≠ 1 ↔ v ≠ 1 := not_congr (BitVec.toNat_inj (y := 1#8))

/-- R89: DISCREPANCY_RESET is refused for a value other than 1 and while a pair disagrees. -/
theorem objRefusal_discrepancyReset (s : State) (v : BitVec 8) : s.objRefusal 0x1203 1 [v]
    = if v ≠ 1 then some 0x2B else if s.loop.pairsAgree s.loopEnv = false then some 0x3B else none := by
  rw [mod_refusal (b := [v]) (o := (ou8 0).rw) (by decide : 0x1203 < 0x2000) rfl rfl rfl]
  unfold State.writeRefusal
  dsimp only
  rw [if_pos rfl, ofLe_one]
  simp only [toNat_ne_one, Bool.not_eq_true']

/-- R607: a session key of 32 bytes is refused where it is all zero. -/
theorem objRefusal_key (s : State) (n : Fin 5) {key : List Byte} (hl : key.length = 32) :
    s.objRefusal 0x1050 (n.val + 1) key = if keyEmpty key then some 0x2B else none := by
  have hobj : s.moduleObj 0x1050 (n.val + 1) = some (oarr 32 []).rw := if_pos (by omega)
  rw [mod_refusal (by decide) hobj rfl (hl.trans (by decide))]
  unfold State.writeRefusal
  dsimp only
  rw [if_neg (by decide), if_pos rfl]

/-- R473: CAN_RESTART is refused for a value other than 1. -/
theorem objRefusal_restart (s : State) (ch : CanIx) (v : BitVec 8) :
    s.objRefusal (0x5100 + ch.val) 0x40 [v] = if v ≠ 1 then some 0x2B else none := by
  have hobj : s.obj (0x5100 + ch.val) 0x40 = some (ou8 0).rw := by
    match ch with
    | ⟨0, _⟩ => rfl
    | ⟨1, _⟩ => rfl
  rw [objRefusal_writable (b := [v]) (by omega) hobj rfl rfl]
  unfold State.writeRefusal
  dsimp only
  rw [if_neg (by omega), if_neg (by omega), if_pos (by omega), ofLe_one]
  simp only [toNat_ne_one]

/-- R473: a restart starts the recovery of a channel that is bus-off. -/
theorem CanChannel.restart_recovering (k : CanChannel) : k.restart.recovering = (k.recovering || (k.active && k.busOff)) := by
  unfold CanChannel.restart
  cases hb : k.active && k.busOff
  · exact (Bool.or_false _).symm
  · exact (Bool.or_true _).symm

/-! ## The four writes -/

/-- A command that writes an object and is refused. -/
theorem hosted_write_refused {c : Instr} {s : State} {h : Hdr} {i : SessIx} {p : List Byte} {index sub : Nat} {b : List Byte}
    (hc : hosted c = some (h, Req.objWrite p index sub b)) (k : s.Admits h i (Req.objWrite p index sub b))
    (ho : (s.admitted h i).own h i (ownerMask (s.admitted h i).cfg index) = (s.admitted h i, fun _ => none)) {x : Nat}
    (hx : (s.admitted h i).objRefusal index sub b = some x) :
    ∃ t, exec c s = .next t ∧ s.Unmoved t ∧ t.Answered i h (Req.objWrite p index sub b) (Answer.refused x) := by
  obtain ⟨t, hr, hu, ha⟩ := writes_refused k ho hx
  exact ⟨t, (hosted_exec hc s).trans (congrArg Host.Outcome.next hr), hu, ha⟩

/-- A command that writes an object and closes no session: the reply, and every part but the protocol's as the write leaves it. -/
theorem hosted_write_done {c : Instr} {s : State} {h : Hdr} {i : SessIx} {p : List Byte} {index sub : Nat} {b : List Byte}
    (hc : hosted c = some (h, Req.objWrite p index sub b)) (k : s.Admits h i (Req.objWrite p index sub b))
    (hn : index ≠ 0x1050 ∨ sub ≠ 5 ∨ s.service.keyUnset = false)
    (ho : (s.admitted h i).own h i (ownerMask (s.admitted h i).cfg index) = (s.admitted h i, fun _ => none))
    (hx : (s.admitted h i).objRefusal index sub b = none) :
    ∃ t, exec c s = .next t ∧ t.Answered i h (Req.objWrite p index sub b) (Answer.done [])
      ∧ ∀ {α : Type} (f : State → α), (∀ (u : State) p, f { u with fcp := p } = f u) → (∀ u : State, f u.fresh = f u) →
        f t = f ((s.admitted h i).writeObj index sub b) := by
  obtain ⟨t, hr, ha, hf⟩ := writes_plain k hn ho hx
  exact ⟨t, (hosted_exec hc s).trans (congrArg Host.Outcome.next hr), ha, hf⟩

/-- The write of a session key stores it. -/
theorem writeObj_key_keys (u : State) (n : Fin 5) (key : List Byte) :
    (u.writeObj 0x1050 (n.val + 1) key).service.keys = u.service.keys.set n key := by
  rw [write_own_key]

/-- The end of a session leaves the keys. -/
theorem closeSession_keys (s : State) (i : SessIx) (held : Bool) : (s.closeSession i held).service.keys = s.service.keys := by
  unfold State.closeSession
  split <;> rfl

/-- R608: the first key of session 4 is stored, and session 4 closes after the reply. -/
theorem receive_first_key {s : State} {h : Hdr} {i : SessIx} {p key : List Byte} (k : s.Admits h i (Req.objWrite p 0x1050 5 key))
    (ho : (s.admitted h i).own h i (ownerMask (s.admitted h i).cfg 0x1050) = (s.admitted h i, fun _ => none))
    (hx : (s.admitted h i).objRefusal 0x1050 5 key = none) (hu : s.service.keyUnset = true) :
    (s.receive h (Req.objWrite p 0x1050 5 key)).service.keys = s.service.keys.set 4 key
      ∧ (s.receive h (Req.objWrite p 0x1050 5 key)).fcp.sessions[(4 : SessIx)].state = .closed := by
  have hact := (objWrite_is ho).2 hx
  have hu' : (s.admitted h i).service.keyUnset = true := hu
  have hr := k.receive nofun
  rw [show (Req.objWrite p 0x1050 5 key).act h i (s.admitted h i) = _ from hact] at hr
  dsimp only at hr
  rw [hu', if_pos (by decide)] at hr
  obtain ⟨hst, _⟩ := State.answerStored_only ((s.admitted h i).writeObj 0x1050 5 key) h i (Req.objWrite p 0x1050 5 key) (Answer.done []) nofun
  have hkeys : ((s.admitted h i).writeObj 0x1050 5 key).service.keys = s.service.keys.set 4 key :=
    writeObj_key_keys (s.admitted h i) 4 key
  rw [hr]
  refine ⟨?_, (closeSession_state _ _ _ _).trans (if_pos rfl)⟩
  show (State.closeSession _ 4 false).service.keys = _
  rw [closeSession_keys, hst, ← hkeys]

/-- DISCREPANCY_RESET (R89). -/
theorem discrepancyReset_written {s : State} {h : Hdr} {i : SessIx} (ht : h.takeover = false) (v : BitVec 8) {q : Req}
    (hq : q = Req.objWrite (objParams 0x1203 1 [v]) 0x1203 1 [v]) (k : s.Admits h i q) :
    (v ≠ 1 → ∃ t, exec (.discrepancyReset h v) s = .next t ∧ s.Unmoved t ∧ t.Answered i h q (Answer.refused 0x2B)) ∧
    (v = 1 → s.loop.pairsAgree s.loopEnv = false →
      ∃ t, exec (.discrepancyReset h v) s = .next t ∧ s.Unmoved t ∧ t.Answered i h q (Answer.refused 0x3B)) ∧
    (v = 1 → s.loop.pairsAgree s.loopEnv = true →
      ∃ t, exec (.discrepancyReset h v) s = .next t ∧ t.Answered i h q (Answer.done [])
        ∧ t.loop.discrepancy = false ∧ t.loop.persistent = false) := by
  subst hq
  have ho := own_unowned (s := s) (i := i) ht (ownerMask_module s.cfg (index := 0x1203) (by decide))
  have hx : (s.admitted h i).objRefusal 0x1203 1 [v] = if v ≠ 1 then some 0x2B
      else if s.loop.pairsAgree s.loopEnv = false then some 0x3B else none := objRefusal_discrepancyReset (s.admitted h i) v
  refine ⟨fun hv => ?_, fun hv ha => ?_, fun hv ha => ?_⟩
  · exact hosted_write_refused rfl k ho (hx.trans (if_pos hv))
  · rw [if_neg (not_not_intro hv), if_pos ha] at hx
    exact hosted_write_refused rfl k ho hx
  · rw [if_neg (not_not_intro hv), if_neg (by rw [ha]; decide)] at hx
    obtain ⟨t, hr, hdone, hf⟩ := hosted_write_done (c := .discrepancyReset h v) rfl k (.inl (by decide)) ho hx
    obtain ⟨hd, hp⟩ := discrepancyReset_out (s.admitted h i)
    have hloop := hf State.loop (fun _ _ => rfl) (fun _ => rfl)
    rw [write_disc] at hloop
    rw [← hloop] at hd hp
    exact ⟨t, hr, hdone, hd, hp⟩

/-- ROLE_SELECT (R113). -/
theorem roleSelect_written {s : State} {h : Hdr} {i : SessIx} (ht : h.takeover = false) (r : DriveIx) (v : BitVec 16) {q : Req}
    (hq : q = Req.objWrite (objParams (motionIndex r 0x12) 0x11 (le 2 v.toNat)) (motionIndex r 0x12) 0x11 (le 2 v.toNat))
    (k : s.Admits h i q) (hc : s.fcp.commander[doorOf r] = some i) (hf : s.cfg.isFitted (doorOf r) = true) :
    (emptySlot s.cfg r v.toNat = true → ∃ t, exec (.roleSelect h r v) s = .next t ∧ s.Unmoved t ∧ t.Answered i h q (Answer.refused 0x7C)) ∧
    (emptySlot s.cfg r v.toNat = false → ∃ t, exec (.roleSelect h r v) s = .next t ∧ t.Answered i h q (Answer.done [])
      ∧ t.doors[doorOf r] = s.doors[doorOf r].onGen (isStep r) (fun g => { g with roleSelect := v.toNat })) := by
  subst hq
  have ho := own_role (h := h) ht hc hf
  have hx : (s.admitted h i).objRefusal (motionIndex r 0x12) 0x11 (le 2 v.toNat)
      = if emptySlot s.cfg r v.toNat then some 0x7C else none := objRefusal_role (s.admitted h i) r v
  refine ⟨fun he => hosted_write_refused rfl k ho (hx.trans (if_pos he)), fun he => ?_⟩
  rw [if_neg (by rw [he]; decide)] at hx
  obtain ⟨hlo, hhi⟩ := motionIndex_role_range r
  obtain ⟨t, hr, hdone, hw⟩ := hosted_write_done (c := .roleSelect h r v) rfl k (.inl (by omega)) ho hx
  exact ⟨t, hr, hdone, (hw (fun u => u.doors[doorOf r]) (fun _ _ => rfl) (fun _ => rfl)).trans (writeObj_role (s.admitted h i) r v)⟩

/-- A session key (R607, R608). -/
theorem sessionKey_written {s : State} {h : Hdr} {i : SessIx} (ht : h.takeover = false) (n : Fin 5) {key : List Byte} {q : Req}
    (hq : q = Req.objWrite (objParams 0x1050 (n.val + 1) key) 0x1050 (n.val + 1) key) (k : s.Admits h i q) (hl : key.length = 32) :
    (keyEmpty key = true → ∃ t, exec (.sessionKey h n key) s = .next t ∧ s.Unmoved t ∧ t.Answered i h q (Answer.refused 0x2B)) ∧
    (keyEmpty key = false → ∃ t, exec (.sessionKey h n key) s = .next t ∧ t.service.keys = s.service.keys.set n key
      ∧ (n = 4 → s.service.keyUnset = true → t.fcp.sessions[(4 : SessIx)].state = .closed)
      ∧ (n ≠ 4 ∨ s.service.keyUnset = false → t.Answered i h q (Answer.done []))) := by
  subst hq
  have ho := own_unowned (s := s) (i := i) ht (ownerMask_module s.cfg (index := 0x1050) (by decide))
  have hx := objRefusal_key (s.admitted h i) n hl
  refine ⟨fun he => hosted_write_refused rfl k ho (hx.trans (if_pos he)), fun he => ?_⟩
  rw [if_neg (by rw [he]; decide)] at hx
  by_cases hfirst : n = 4 ∧ s.service.keyUnset = true
  · obtain ⟨rfl, hu⟩ := hfirst
    obtain ⟨hkeys, hclosed⟩ := receive_first_key k ho hx hu
    refine ⟨_, rfl, hkeys, fun _ _ => hclosed, fun hn => ?_⟩
    rcases hn with hn | hn
    · exact absurd rfl hn
    · exact absurd hu (by rw [hn]; decide)
  · have hn : n ≠ 4 ∨ s.service.keyUnset = false := by
      by_cases h4 : n = 4
      · exact .inr (Bool.eq_false_iff.mpr (fun hu => hfirst ⟨h4, hu⟩))
      · exact .inl h4
    have hstays : (0x1050 : Nat) ≠ 0x1050 ∨ n.val + 1 ≠ 5 ∨ s.service.keyUnset = false :=
      .inr (hn.imp_left (fun hne he => hne (Fin.ext (Nat.succ.inj he))))
    obtain ⟨t, hr, hdone, hw⟩ := hosted_write_done (c := .sessionKey h n key) rfl k hstays ho hx
    have hkeys := (hw (fun u => u.service.keys) (fun _ _ => rfl) (fun _ => rfl)).trans (writeObj_key_keys (s.admitted h i) n key)
    exact ⟨t, hr, hkeys, fun h4 hu => absurd ⟨h4, hu⟩ hfirst, fun _ => hdone⟩

/-- CAN_RESTART (R473). -/
theorem canRestart_written {s : State} {h : Hdr} {i : SessIx} (ht : h.takeover = false) (ch : CanIx) (v : BitVec 8) {q : Req}
    (hq : q = Req.objWrite (objParams (0x5100 + ch.val) 0x40 [v]) (0x5100 + ch.val) 0x40 [v]) (k : s.Admits h i q) :
    (v ≠ 1 → ∃ t, exec (.canRestart h ch v) s = .next t ∧ s.Unmoved t ∧ t.Answered i h q (Answer.refused 0x2B)) ∧
    (v = 1 → ∃ t, exec (.canRestart h ch v) s = .next t ∧ t.Answered i h q (Answer.done [])
      ∧ t.can.channels[ch].recovering = (s.can.channels[ch].recovering || (s.can.channels[ch].active && s.can.channels[ch].busOff))) := by
  subst hq
  have ho := own_unowned (s := s) (i := i) ht (ownerMask_module s.cfg (index := 0x5100 + ch.val) (.inr (by omega)))
  have hx := objRefusal_restart (s.admitted h i) ch v
  refine ⟨fun hv => hosted_write_refused rfl k ho (hx.trans (if_pos hv)), fun hv => ?_⟩
  rw [if_neg (not_not_intro hv)] at hx
  obtain ⟨t, hr, hdone, hw⟩ := hosted_write_done (c := .canRestart h ch v) rfl k (.inl (by omega)) ho hx
  refine ⟨t, hr, hdone, (hw (fun u => u.can.channels[ch].recovering) (fun _ _ => rfl) (fun _ => rfl)).trans ?_⟩
  rw [write_restart]
  dsimp only
  rw [chan_own, CanChannel.restart_recovering]
  rfl

/-- Settles O42: the writes of other objects are `any_write`'s, and each of the four with a refusal or effect of its own has
its lemma above. -/
theorem objectsAreWritten : Obligations.ObjectsAreWritten := by
  unfold Obligations.ObjectsAreWritten
  intro s h i ht
  exact ⟨fun index sub value q hq k hm => any_write ht index sub value q hq k hm,
    fun v q hq k => discrepancyReset_written ht v hq k,
    fun r v q hq k hc hf => roleSelect_written ht r v hq k hc hf,
    fun n key q hq k hl => sessionKey_written ht n hq k hl,
    fun ch v q hq k => canRestart_written ht ch v hq k⟩

end Sys2Proof.Machine
end


section
/-!
What a command leaves unchanged: the parts of State that the table of parts does not name for it, and the other doorways
(R28, R208, R251, R257).
-/

namespace Sys2Proof.Machine

/-- Settles O52: every command answers a next state (`answers_next`), and what `exec_keeps` says of it holds of that state. -/
theorem frameOfEveryCommand : Obligations.FrameOfEveryCommand := by
  unfold Obligations.FrameOfEveryCommand
  intro c s
  obtain ⟨t, ht⟩ := answers_next c s
  exact ⟨t, ht, (exec_keeps ht).only⟩

/-- Settles O54: each of the 48 commands runs by one of six operations on its own doorway, and each operation leaves every
other doorway alike. -/
theorem otherDoorwaysAreLeftAlone : Obligations.OtherDoorwaysAreLeftAlone := by
  unfold Obligations.OtherDoorwaysAreLeftAlone
  intro c d j s t hc hj ht
  rcases own_forms hc s with ⟨f, h⟩ | ⟨f, h⟩ | ⟨f, h⟩ | ⟨r, f, rfl, h⟩ | ⟨code, since, h⟩ | ⟨f, h⟩
  · rw [← next_eq h ht]
    exact doorInput_others s d j f hj
  · rw [← next_eq h ht]
    exact atDoor_others s d j f hj
  · rw [← next_eq h ht]
    exact atStep_others s d j f hj
  · rw [← next_eq h ht]
    exact atDrive_others s r j f hj
  · rw [← next_eq h ht]
    exact hallChanges_others s d j code since hj
  · rw [← next_eq h ht]
    exact edgesCompared_others s d j f hj

end Sys2Proof.Machine
end


section
/-!
Occurrences at one doorway (Tables 1.4 to 1.6): what the engine's work makes of the doorway is what the module shows of it, and
so each row of a calm or awake doorway holds of the command that is its occurrence.
-/

namespace Sys2Proof.Machine

/-! ## From the engine's work to the module -/

/-- Where a doorway's state machine stands. -/
structure Doorway.Stands (w : Doorway) (st : DoorState) (ph : Phase) (c : Cause) : Prop where
  state : w.sm.state = st
  phase : w.sm.phase = ph
  cause : w.sm.cause = c

/-- A doorway alike to what work left stands where that work left it. -/
theorem Work.Is.stands {w : Work} {st ph c} {b : Doorway} (h : w.Is st ph c) (ha : w.dw.alike b) : b.Stands st ph c := by
  obtain ⟨h1, h2, h3⟩ := h.of_alike ha
  exact ⟨h1, h2, h3⟩

theorem Doorway.Stands.parts {w : Doorway} {st ph c} (h : w.Stands st ph c) :
    w.sm.state = st ∧ w.sm.phase = ph ∧ w.sm.cause = c := ⟨h.state, h.phase, h.cause⟩

/-- A calm doorway in a course stands there with no edge waiting. -/
theorem at_of {w : Doorway} {st ph} (hs : w.sm.state = st) (hp : w.sm.phase = ph) (he : w.sm.edges = noEdges) :
    (⟨w, []⟩ : Work).At st ph w.sm.cause := ⟨hs, hp, rfl, he⟩

section
variable {s : State} {d : DoorIx} {f : DoorEnv → Work → Work} {st : DoorState} {ph : Phase} {c : Cause}

/-- A change of an input at a doorway whose engine runs. -/
theorem doorInput_alike (hon : s.fieldOn = true) (hr : s.leafRuns d = true) (hw : (s.doors[d]).Awake (s.doorEnv d)) :
    (f (s.doorEnv d) ⟨s.doors[d], []⟩).dw.alike (s.doorInput d f).doors[d] :=
  s.doorInput_own d f hon hw.fitted hw.valid hr

theorem doorInput_stands (hon : s.fieldOn = true) (hr : s.leafRuns d = true) (hw : (s.doors[d]).Awake (s.doorEnv d))
    (h : (f (s.doorEnv d) ⟨s.doors[d], []⟩).Is st ph c) : ((s.doorInput d f).doors[d]).Stands st ph c :=
  h.stands (doorInput_alike hon hr hw)

/-- An occurrence at a fitted doorway whose engine runs. -/
theorem atDoor_stands (hf : s.cfg.isFitted d = true) (hr : s.leafRuns d = true)
    (h : (f (s.doorEnv d) ⟨s.doors[d], []⟩).Is st ph c) : ((s.atDoor d f).doors[d]).Stands st ph c :=
  h.stands (s.atDoor_own d f hf hr)

end

/-! ## O1: pushbuttons, the isolation switch and the egress inputs -/

/-- Settles O1: each input has its row at the engine (`onOpenButton_is` to `onEgress_both`), and the module shows it. -/
theorem buttonsIsolationAndEgressActAtOnce : Obligations.ButtonsIsolationAndEgressActAtOnce := by
  unfold Obligations.ButtonsIsolationAndEgressActAtOnce
  refine ⟨fun s d hon hr hw he => ⟨fun outside hs ho hf => ?_, fun hs hp hf => ?_⟩,
    fun s d hon hr hw => ⟨fun hs => ?_, fun hd hs => ⟨?_, fun hi => ?_, fun hi => ?_⟩⟩⟩
  · have h := doorInput_stands (f := fun e => onOpenButton e outside true) hon hr hw.awake
      (onOpenButton_is (w := ⟨s.doors[d], []⟩) hw he hs ho hf)
    exact ⟨_, rfl, h.parts⟩
  · have h := doorInput_stands (f := fun e => onCloseButton e true) hon hr hw.awake
      (onCloseButton_is (w := ⟨s.doors[d], []⟩) hw he hs hp hf)
    exact ⟨_, rfl, h.parts⟩
  · have h := doorInput_stands (f := fun e => onDis e true) hon hr hw (onDis_made (w := ⟨s.doors[d], []⟩) hw hs)
    exact ⟨_, rfl, h.parts⟩
  · have h := doorInput_stands (f := fun e => onEgress e .inside) hon hr hw
      (onEgress_is (which := .inside) (w := ⟨s.doors[d], []⟩) hw hs hd nofun)
    exact ⟨_, rfl, h.parts⟩
  · have h := doorInput_stands (f := fun e => onEgress e .outside) hon hr hw
      (onEgress_is (which := .outside) (w := ⟨s.doors[d], []⟩) hw hs hd (fun _ => hi))
    exact ⟨_, rfl, h.parts⟩
  · have h := doorInput_stands (f := fun e => onEgress e .outside) hon hr hw (onEgress_both (w := ⟨s.doors[d], []⟩) hw hs hd hi)
    exact ⟨_, rfl, h.parts⟩

/-! ## O2: conditions of rank 4 -/

/-- Settles O2: each condition has its row at the engine (`onUnlockSeen_is`, `onImplausible_is`, `onDcsImplausible_is`). -/
theorem rankFourConditionsBringFault : Obligations.RankFourConditionsBringFault := by
  unfold Obligations.RankFourConditionsBringFault
  intro s d hon hr hw hdis heeh heea hdrive
  refine ⟨fun sw hs hp hg hb hgr => ?_, fun h1 h2 h3 => ⟨fun p => ?_, fun hi => ?_⟩⟩
  · have h := doorInput_stands hon hr hw (f := fun e => onUnlockSeen e sw)
      (onUnlockSeen_is hw hs hdis heeh heea hdrive hp hg hb hgr)
    exact ⟨_, rfl, h.state, h.cause⟩
  · have h := doorInput_stands hon hr hw (f := fun e => onImplausible e p)
      (onImplausible_is hw ⟨h1, h2, h3⟩ hdis heeh heea hdrive)
    exact ⟨_, rfl, h.state, h.cause⟩
  · have h := atDoor_stands hw.fitted hr (onDcsImplausible_is hw ⟨h1, h2, h3⟩ hdis heeh heea hdrive hi)
    exact ⟨_, rfl, h.state, h.cause⟩

/-! ## O4: UNLOCKING and the grace of R216 -/

/-- A solenoid whose command has ended is off in every state. -/
theorem solenoidOn_off {w : Doorway} (h : w.sm.flags.solenoidOff = true) : solenoidOn w = false := by
  unfold solenoidOn
  rw [h, Bool.not_true, Bool.and_false]

/-- The break of DCS in OPENING sets its filtered level (log entry 3). -/
theorem onDcsBreakOpening_dcs {e : DoorEnv} {w : Work} {c} (hs : w.At .opening .none c) : (onDcsBreakOpening e w).dw.dcs = false := by
  unfold onDcsBreakOpening
  rw [hs.course (by decide), if_pos rfl]
  unfold Doorway.dcs Doorway.input
  rw [doorTick_inp]
  exact setInput_own e 0 false w (by decide)

/-- The end of the grace leaves DLS breaks to be judged as outside it. -/
theorem uncommanded_graceEnd (w : Work) : uncommanded (onGraceEnd w).dw true = uncommanded w.dw false := by
  unfold uncommanded
  rw [Bool.false_and, Bool.true_and]
  rfl

/-- Whether a break is uncommanded depends on the state machine and the inputs alone. -/
theorem uncommanded_alike {a b : Doorway} (h : a.alike b) (dls : Bool) : uncommanded b dls = uncommanded a dls := by
  unfold uncommanded Doorway.eehIn Doorway.eeaOut Doorway.input
  rw [h.sm, h.inp]

/-- Settles O4: the rows `onUnlockTimeout_at`, `onDlsBreak_at` and `onDcsBreakOpening_solenoid`, and the flag of the grace. -/
theorem unlockingRowsAndGrace : Obligations.UnlockingRowsAndGrace := by
  unfold Obligations.UnlockingRowsAndGrace
  refine ⟨fun s d hr hw he hp => ⟨fun hs hd ho => ?_, fun hon hs hq => ?_, fun hon hs hd => ?_⟩, fun s d hf hr => ?_⟩
  · obtain ⟨hat, hfail⟩ := onUnlockTimeout_at hw (at_of hs hp he) hd ho
    have ha := s.atDoor_own d onUnlockTimeout hw.fitted hr
    have h := hat.is.stands ha
    exact ⟨_, rfl, (congrArg (fun m => m.flags.unlockFailed) ha.sm).trans hfail, h.cause, h.state⟩
  · exact ⟨_, rfl, (doorInput_stands hon hr hw.awake (onDlsBreak_at hw (at_of hs hp he) hq).is).parts⟩
  · have ha := doorInput_alike (f := onDcsBreakOpening) hon hr hw.awake
    have hoff := onDcsBreakOpening_solenoid hw (at_of hs hp he) hd
    refine ⟨_, rfl, solenoidOn_off ((congrArg (fun m => m.flags.solenoidOff) ha.sm).trans hoff), ?_⟩
    exact (congrArg (fun q => q.filtered.getLsbD 0) ha.inp).trans (onDcsBreakOpening_dcs (e := s.doorEnv d) (at_of hs hp he))
  · have ha := s.atDoor_own d (fun _ => onGraceEnd) hf hr
    exact ⟨_, rfl, congrArg (fun m => m.flags.grace) ha.sm, congrArg (fun m => m.state) ha.sm,
      (uncommanded_alike ha true).trans (uncommanded_graceEnd _)⟩

/-! ## O5: closing and locking -/

/-- R178: a lock attempt that ends with attempts left starts the next one and leaves the state machine. -/
theorem onLockAttemptEnd_again {e : DoorEnv} {w : Work} {c} (hs : w.At .closing .lock c) (hd : w.dw.sm.flags.dlsConfirmed = false)
    (ha : w.dw.door.attempt < e.cfg.lockRetries e.d + 1) : (onLockAttemptEnd e w).dw.sm = w.dw.sm
      ∧ (onLockAttemptEnd e w).dw.door.attempt = w.dw.door.attempt + 1 ∧ (onLockAttemptEnd e w).dw.door.push = .relaxing := by
  unfold onLockAttemptEnd
  rw [if_pos ⟨hs.course (by decide), by rw [hd]; rfl⟩, if_pos ha]
  exact ⟨rfl, rfl, rfl⟩


/-- Settles O5: the rows of `DoorRows`, one for each end of a time and each switch. -/
theorem closingAndLockingRows : Obligations.ClosingAndLockingRows := by
  unfold Obligations.ClosingAndLockingRows
  refine ⟨fun s d hr hw he => ⟨fun hs hp hq hd => ?_, fun hs hp hd hn => ?_, fun hs hp hn => ?_, fun hon hs hp hc hx => ?_⟩,
    fun s d hr hw he => ⟨fun hs hp => ⟨fun hon hq hj ho => ?_, fun hd ha ho => ?_, fun hd ha => ?_⟩,
      fun hon hs hp => ⟨fun hd hq hj ho => ?_, ?_⟩⟩⟩
  · exact ⟨_, rfl, (atDoor_stands hw.fitted hr (onWarnEnd_at hw (at_of hs hp he) hq hd).is).parts⟩
  · exact ⟨_, rfl, (atDoor_stands hw.fitted hr (onDwellEnd_at hw (at_of hs hp he) hd hn).is).parts⟩
  · exact ⟨_, rfl, (atDoor_stands hw.fitted hr (onReopenDwellEnd_at hw (at_of hs hp he) hn).is).parts⟩
  · exact ⟨_, rfl, (doorInput_stands hon hr hw.awake (onDcsMade_at hw (at_of hs hp he) hc hx).is).parts⟩
  · exact ⟨_, rfl, (doorInput_stands hon hr hw.awake (onDlsConfirmed_at hw (at_of hs hp he) hq hj ho).is).parts⟩
  · have h := atDoor_stands hw.fitted hr (onLockAttemptEnd_last hw (at_of hs hp he) hd ha ho).is
    exact ⟨_, rfl, h.cause, h.state⟩
  · obtain ⟨hsm, hat, hpush⟩ := onLockAttemptEnd_again (e := s.doorEnv d) (at_of hs hp he) hd ha
    have ha := s.atDoor_own d onLockAttemptEnd hw.fitted hr
    exact ⟨_, rfl, ha.sm.trans hsm, (congrArg DoorDrive.attempt ha.door).trans hat, (congrArg DoorDrive.push ha.door).trans hpush⟩
  · exact ⟨_, rfl, (doorInput_stands hon hr hw.awake (onDlsMadeClosedUnlocked_at hw (at_of hs hp he) hd hq hj ho).is).parts⟩
  · have h := doorInput_stands hon hr hw.awake (onDcsBreakClosedUnlocked_at hw (at_of hs hp he))
    exact ⟨_, rfl, h.state, h.cause⟩

/-! ## O13: ends of door motions -/

/-- R109: the end of a path at a door drive; no entry to a power mode waits for it at a calm doorway. -/
theorem pathEnds_door {s : State} {d : DoorIx} (hr : s.leafRuns d = true) (hf : s.cfg.driveFitted (doorDrive d) = true)
    (hw : (s.doors[d]).Calm (s.doorEnv d)) :
    (doorPathEnds (s.doorEnv d) ⟨s.doors[d], []⟩).dw.alike (s.pathEnds (doorDrive d)).doors[d] := by
  have hn : s.power.entry = none := Option.isSome_eq_false_iff.mp hw.notEntering |> Option.isNone_iff_eq_none.mp
  obtain ⟨hd, hi, -, -⟩ := doorOf_door d
  rw [pathEnds_eq s _ hn]
  exact atDrive_owned s (doorDrive d) d _ doorPathEnds hd (by rw [hi]; rfl) hf hr

/-- R125: the end of a stop at a door drive. -/
theorem stopEnds_door {s : State} {d : DoorIx} (hr : s.leafRuns d = true) (hf : s.cfg.driveFitted (doorDrive d) = true) :
    (onDoorStopped (s.doorEnv d) ⟨s.doors[d], []⟩).dw.alike (s.stopEnds (doorDrive d)).doors[d] := by
  obtain ⟨hd, hi, -, -⟩ := doorOf_door d
  exact atDrive_owned s (doorDrive d) d _ onDoorStopped hd (by rw [hi]; rfl) hf hr

/-- Settles O13: the ends of the door's paths and stops at the engine (`doorPathEnds_opened` to `onDoorStopped_reflex`). -/
theorem doorMotionEnds : Obligations.DoorMotionEnds := by
  unfold Obligations.DoorMotionEnds
  intro s d hr hf hw he hm
  have ha := pathEnds_door hr hf hw
  have hstop := stopEnds_door hr hf
  refine ⟨fun hk hp => ⟨fun hs hph hd => ?_, fun hs hph => ?_, fun hs hph hq => ?_⟩, fun p hp hst => ⟨fun m hx hk => ?_, fun hx => ?_⟩⟩
  · exact ⟨_, rfl, ((doorPathEnds_opened hw (at_of hs hph he) hm hk hp hd).is.stands ha).parts⟩
  · have h := (doorPathEnds_dwell (at_of hs hph he) hm hk hp).is.stands ha
    exact ⟨_, rfl, h.state, h.phase⟩
  · obtain ⟨hat, hseal⟩ := doorPathEnds_seal (e := s.doorEnv d) (at_of hs hph he) hm hk hp hq
    obtain ⟨hflags, -⟩ := doorBare_fields ha.door
    have h := hat.is.stands ha
    exact ⟨_, rfl, h.state, h.phase, (congrArg (fun q => q.sealSeek) hflags).trans hseal⟩
  · obtain ⟨hsm, hstate, hkept, hrem, href⟩ := onDoorStopped_is (e := s.doorEnv d) (w := ⟨s.doors[d], []⟩) hx hm hk hp hst
    obtain ⟨-, -, -, gstate, gkept, grem, gref⟩ := doorBare_fields hstop.door
    exact ⟨_, rfl, gstate.trans hstate, gkept.trans hkept, grem.trans hrem, (congrArg (fun r => r.pos) gref).trans href,
      hstop.sm.trans hsm⟩
  · have hover := onDoorStopped_reflex (e := s.doorEnv d) (w := ⟨s.doors[d], []⟩) hx hm hp hst
    exact ⟨_, rfl, (congrArg (fun q => q.flags.reflexStop) hstop.obst).trans hover⟩

end Sys2Proof.Machine
end

section
/-!
Input front ends and groups (R320, R326, R327, R331): what each operation makes of the group it acts on.
-/

namespace Sys2Proof.Machine

/-! ## Front ends -/

/-- The end of a break time leaves the contact states and the raw word. -/
theorem lineBreak_levels (f : FrontEnd) (g : GroupIx) (i : Nat) :
    (f.lineBreak g i).contact = f.contact ∧ (f.lineBreak g i).raw = f.raw := by
  unfold FrontEnd.lineBreak
  split
  · exact ⟨rfl, rfl⟩
  · exact ⟨rfl, rfl⟩

/-- R326: the break of a supervised doorway input is a cause of the common fault. -/
theorem lineBreak_is (f : FrontEnd) (g : GroupIx) (i : Nat) (hi : i < 16) (hg : g.val < 8) (he : f.eolMask.getLsbD i = true) :
    (f.lineBreak g i).breakMask.getLsbD i = true ∧ (f.lineBreak g i).commonFault = true := by
  have hbit : (setBit f.breakMask i true).getLsbD i = true := setBit_same _ i hi true
  have hne : setBit f.breakMask i true ≠ 0#16 := fun h => by
    rw [h] at hbit
    simp at hbit
  unfold FrontEnd.lineBreak
  rw [if_pos ⟨hg, he⟩]
  refine ⟨hbit, ?_⟩
  simp [FrontEnd.raise, FrontEnd.causePresent, hg, hne]

/-- R320: a sample of an input that no legacy coupler serves sets its contact state and its raw bit. -/
theorem sample_native (f : FrontEnd) (g : GroupIx) (now i vIn vCom : Nat) (hi : i < 16)
    (hc : ¬(g = 8 ∧ f.legacy = true ∧ i < 8)) :
    (f.sample g now i vIn vCom).1.contact.getLsbD i = f.classify i vIn vCom
      ∧ (f.sample g now i vIn vCom).1.raw.getLsbD i = (f.classify i vIn vCom ^^ f.polarity.getLsbD i) := by
  have hn : (decide (g.val = 8) && f.legacy && decide (i < 8)) = false := by
    rw [← Bool.not_eq_true]
    simp only [Bool.and_eq_true, decide_eq_true_eq]
    exact fun ⟨⟨h1, h2⟩, h3⟩ => hc ⟨Fin.ext h1, h2, h3⟩
  unfold FrontEnd.sample
  simp only [hn, Bool.false_eq_true, if_false]
  exact ⟨setBit_same _ i hi _, setBit_same _ i hi _⟩

/-- R320, Table 8.2: the thresholds of class 0 for an input that is not supervised. -/
theorem classify_class0 (f : FrontEnd) (i vIn vCom : Nat) (hc : f.cls = 0) (he : f.eolMask.getLsbD i = false) :
    f.classify i vIn vCom = if 12000 ≤ vIn then true else if vIn ≤ 5000 then false else f.contact.getLsbD i := by
  unfold FrontEnd.classify FrontEnd.classifyFrom classLevels
  simp [hc, he]

/-- A sample changes the group's front end, and the end of a break time that comes with it leaves the levels. -/
theorem sampleInput_levels (s : State) (g : GroupIx) (i vIn vCom : Nat) (hon : s.frontOn g = true) (hi : i < inputsOf g) :
    ((s.sampleInput g i vIn vCom).group g).front.contact = ((s.group g).front.sample g s.now i vIn vCom).1.contact
      ∧ ((s.sampleInput g i vIn vCom).group g).front.raw = ((s.group g).front.sample g s.now i vIn vCom).1.raw := by
  unfold State.sampleInput
  rw [if_neg (by simp [hon, hi]), onGroup_group]
  dsimp only
  split
  · exact lineBreak_levels _ g i
  · exact ⟨rfl, rfl⟩

/-! ## Groups (R26, R331) -/

/-- R326: the logic side sees a common fault bit that it had not. -/
theorem groupFault_is (s : State) (g : GroupIx) (on : Bool) (hon : s.frontOn g = true) (hf : (s.group g).flags.commonFault = !on) :
    (s.groupFault g on).group g = (s.group g).seeFault on := by
  unfold State.groupFault
  rw [if_neg (by simp [hon, hf]), runGroup_group, groupEvent_group, onGroup_group, id]

/-- R331: the sixteenth valid frame marks the group valid; filters not yet loaded load, which leaves the flags. -/
theorem groupValid_is (s : State) (g : GroupIx) (hon : s.frontOn g = true) (hv : (s.group g).flags.valid = false)
    (ha : (s.group g).flags.applied = true) :
    ((s.groupValid g).group g).flags.valid = true ∧ ((s.groupValid g).group g).validRun = 16 := by
  unfold State.groupValid
  dsimp only
  rw [if_neg (by simp [hon, hv, ha]), runGroup_group, groupEvent_group, onGroup_group]
  split
  · exact ⟨rfl, rfl⟩
  · exact ⟨rfl, rfl⟩

/-- The row of an invalid group latches drives and leaves the groups. -/
theorem invalidRow_group (s : State) (d : DoorIx) (g : GroupIx) : (s.invalidRow d).group g = s.group g :=
  group_alike (State.latchRow_alike s 63 (by decide) 0 _) (latchRow_train s 63 0 _) g

/-- R331: what the mark of invalidity makes of a valid group. -/
def InGroup.lost (q : InGroup) : InGroup :=
  { q with validRun := 0, invalidations := satInc 16 q.invalidations, flags := { q.flags with valid := false } }

theorem groupLost_is (s : State) (g : GroupIx) (hon : s.frontOn g = true) (hv : (s.group g).flags.valid = true) :
    (s.groupLost g).group g = (s.group g).lost := by
  unfold State.groupLost
  rw [keeperWakes_group]
  unfold State.groupInvalid
  rw [if_neg (by simp [hon, hv]), runGroup_group, id]
  split
  · rw [invalidRow_group, groupEvent_group, onGroup_group]
    rfl
  · rw [groupEvent_group, onGroup_group]
    rfl

/-- Settles O20: each operation on a front end or a group by its lemma above. -/
theorem inputFrontEndsAndGroups : Obligations.InputFrontEndsAndGroups := by
  unfold Obligations.InputFrontEndsAndGroups
  refine ⟨fun s g hon => ⟨fun i vIn vCom hi hc => ?_, fun i hg he => ?_, fun hg => ?_, fun hcause => ?_, fun pass => ?_,
    fun present => ?_⟩, fun s g hon => ⟨fun hf => ?_, fun hf => ?_, fun hv ha => ?_, fun hv _ => ?_⟩⟩
  · obtain ⟨hcontact, hraw⟩ := sampleInput_levels s g i vIn vCom hon hi
    obtain ⟨h1, h2⟩ := sample_native (s.group g).front g s.now i vIn vCom i.isLt hc
    rw [← hcontact] at h1
    rw [← hraw] at h2
    refine ⟨_, rfl, h1, h2, fun hcls he => ?_⟩
    have h0 := h1.trans (classify_class0 _ i vIn vCom hcls he)
    refine ⟨fun h => ?_, fun h => ?_, fun h h' => ?_⟩
    · exact h0.trans (if_pos h)
    · exact h0.trans ((if_neg (by omega)).trans (if_pos h))
    · exact h0.trans ((if_neg (by omega)).trans (if_neg (by omega)))
  · refine ⟨_, rfl, ?_⟩
    rw [onFront_group s g _ hon]
    exact lineBreak_is _ g i i.isLt hg he
  · refine ⟨_, rfl, ?_⟩
    rw [onFront_group s g _ hon]
    simp [FrontEnd.raise, FrontEnd.causePresent, hg]
  · refine ⟨_, rfl, ?_⟩
    rw [onFront_group s g _ hon]
    simp [hcause]
  · refine ⟨_, rfl, ?_⟩
    rw [onFront_group s g _ hon]
    exact ⟨rfl, fun h => by simp [FrontEnd.raise, FrontEnd.causePresent, h], rfl⟩
  · refine ⟨_, rfl, ?_⟩
    rw [onFront_group s g _ hon]
    exact ⟨rfl, fun h => by simp [FrontEnd.raise, FrontEnd.causePresent, h]⟩
  · refine ⟨_, rfl, ?_⟩
    rw [groupFault_is s g true hon hf]
    simp [InGroup.seeFault, hf]
  · refine ⟨_, rfl, ?_⟩
    rw [groupFault_is s g false hon hf]
    simp [InGroup.seeFault]
  · exact ⟨_, rfl, groupValid_is s g hon hv ha⟩
  · refine ⟨_, rfl, ?_⟩
    rw [groupLost_is s g hon hv]
    exact ⟨rfl, rfl, rfl, rfl⟩

end Sys2Proof.Machine
end

section
/-!
Reading commands (chapter 9): each answers from the state at once and moves nothing.
-/

namespace Sys2Proof.Machine

/-- A command whose packet passes the checks and is answered at once: the reply is stored and nothing else moves. -/
theorem hosted_reads {c : Instr} {s : State} {h : Hdr} {i : SessIx} {q : Req} {a : Answer} (hc : hosted c = some (h, q))
    (k : s.Admits h i q) (ho : q.opcode ≠ 0x0101) (hq : q.act h i (s.admitted h i) = (s.admitted h i).answers a) :
    ∃ t, exec c s = .next t ∧ s.Unmoved t ∧ t.Answered i h q a := by
  obtain ⟨hans, hun⟩ := k.reads ho hq
  exact ⟨_, hosted_exec hc s, hun, hans⟩

section
variable {s : State} {h : Hdr} {i : SessIx}

/-- EVENT_REPLAY: the events kept, and EVENTS_LOST cleared when nothing of what was asked is missing. -/
theorem eventReplay_is {p : List Byte} {dseq n : Nat} (k : s.Admits h i (Req.eventReplay p dseq n)) :
    (s.receive h (Req.eventReplay p dseq n)).Answered i h (Req.eventReplay p dseq n)
        (Answer.done ((s.admitted h i).fcp.sessions[i].replay dseq n))
      ∧ (s.receive h (Req.eventReplay p dseq n)).fcp.sessions[i].eventsLost
        = (s.fcp.sessions[i].eventsLost && s.fcp.sessions[i].replayGap dseq) := by
  have ho : (Req.eventReplay p dseq n).opcode ≠ 0x0101 := nofun
  obtain ⟨hrec, hans⟩ := k.answers ho rfl
  rw [hrec]
  refine ⟨hans, ?_⟩
  obtain ⟨⟨r, e, x, w, hstore⟩, -⟩ := State.answerStored_sessions
    ((s.admitted h i).onSession i (fun z => { z with eventsLost := z.eventsLost && z.replayGap dseq })) h i
    (Req.eventReplay p dseq n) (Answer.done ((s.admitted h i).fcp.sessions[i].replay dseq n)) ho
  obtain ⟨d, hadm⟩ := Session.admitted_is s.fcp.sessions[i] h s.now
  refine (congrArg Session.eventsLost hstore).trans ?_
  rw [onSession_get, if_pos rfl, State.admitted_session, hadm]
  rfl

theorem objRead_found {u : State} {p : List Byte} {x sub : Nat} {o : Obj} (ho : u.obj x sub = some o) :
    (Req.objRead p x sub).act h i u = u.answers (Answer.done (objHead x sub o.type o.bytes.length ++ o.bytes)) := by
  simp only [Req.objRead, Req.plain, ho]

theorem objRead_undefined {u : State} {p : List Byte} {x sub : Nat} (ho : u.obj x sub = none) :
    (Req.objRead p x sub).act h i u = u.answers (Answer.refused 0x28) := by
  simp only [Req.objRead, Req.plain, ho]

theorem incidentRead_missing {u : State} {p : List Byte} {x n : Nat} (hj : u.log.incident x = none) :
    (Req.incidentRead p x n).act h i u = u.answers (Answer.refused 0x81) := by
  simp only [Req.incidentRead, Req.plain, hj]

/-- R524: an incident has 17 chunks; those past the last are refused. -/
theorem incidentRead_found {u : State} {p : List Byte} {x n : Nat} {j : Incident} (hj : u.log.incident x = some j) :
    (Req.incidentRead p x n).act h i u
      = u.answers (if 16 < n then Answer.refused 0x0C else Answer.done (readChunk j x n)) := by
  simp only [Req.incidentRead, Req.plain, hj]
  split <;> rfl

end

/-- Settles O34: each command's packet is answered from the state (`hosted_reads`); EVENT_REPLAY by `eventReplay_is`. -/
theorem readsAnswerWhatTheStateHolds : Obligations.ReadsAnswerWhatTheStateHolds := by
  unfold Obligations.ReadsAnswerWhatTheStateHolds
  refine ⟨fun s h i q k => ⟨?_, fun dseq n => ?_, fun x sub => ?_, fun b n off => ?_, ?_⟩,
    fun s h i q k => ⟨fun mask detail => ?_, fun mask => ?_, fun mask => ?_⟩,
    fun s h i q k => ⟨fun x n => ?_, fun x n => ?_, fun f hf => ?_, ?_, ?_, ?_, fun mask => ?_, fun mask => ?_⟩⟩ <;>
    (intro hq; subst hq)
  · exact hosted_reads rfl k nofun rfl
  · exact ⟨_, hosted_exec rfl s, eventReplay_is k⟩
  · cases ho : (s.admitted h i).obj x.toNat sub.toNat with
    | none =>
      obtain ⟨t, hx, hun, hans⟩ := hosted_reads (c := .objRead h x sub) rfl k nofun (objRead_undefined ho)
      exact ⟨t, hx, hun, nofun, fun _ => hans⟩
    | some o =>
      obtain ⟨t, hx, hun, hans⟩ := hosted_reads (c := .objRead h x sub) rfl k nofun (objRead_found ho)
      exact ⟨t, hx, hun, fun _ he => Option.some.inj he ▸ hans, nofun⟩
  · exact hosted_reads rfl k nofun rfl
  · exact hosted_reads rfl k nofun rfl
  · exact hosted_reads rfl k nofun rfl
  · exact hosted_reads rfl k nofun rfl
  · exact hosted_reads rfl k nofun rfl
  · exact hosted_reads rfl k nofun rfl
  · cases hj : s.log.incident x.toNat with
    | none =>
      obtain ⟨t, hx, hun, hans⟩ := hosted_reads (c := .incidentRead h x n) rfl k nofun (incidentRead_missing hj)
      exact ⟨t, hx, hun, fun _ => hans, nofun, nofun⟩
    | some j =>
      obtain ⟨t, hx, hun, hans⟩ := hosted_reads (c := .incidentRead h x n) rfl k nofun (incidentRead_found hj)
      refine ⟨t, hx, hun, nofun, fun _ _ hn => ?_, fun _ he hn => Option.some.inj he ▸ ?_⟩
      · rwa [if_pos hn] at hans
      · rwa [if_neg (Nat.not_lt.mpr hn)] at hans
  · exact hosted_reads rfl k nofun (if_neg (by rw [hf]; decide))
  · exact hosted_reads rfl k nofun rfl
  · exact hosted_reads rfl k nofun rfl
  · exact hosted_reads rfl k nofun rfl
  · exact hosted_reads rfl k nofun rfl
  · exact hosted_reads rfl k nofun rfl

end Sys2Proof.Machine
end

section
/-!
Doorway-bound commands of the host on one doorway (Tables 1.10 and 1.11): the reply, and where the doorway then stands.
-/

namespace Sys2Proof.Machine

/-- A packet that asks for an operation on doorway d alone: `refuse` tells why it is refused, and `run` is what an accepting
doorway does at its tick (R52, R53). -/
structure State.Operates (s : State) (h : Hdr) (i : SessIx) (d : DoorIx) (q : Req) (refuse : DoorEnv → Doorway → Option Nat)
    (run : DoorEnv → Work → Work) : Prop where
  opcode  : q.opcode ≠ 0x0101
  refused : ∀ r, refuse (s.doorEnv d) s.doors[d] = some r →
    q.act h i (s.admitted h i) = (s.admitted h i).answers (Answer.refused r)
  starts  : refuse (s.doorEnv d) s.doors[d] = none → ∃ op kind parts, q.act h i (s.admitted h i)
    = (s.admitted h i).accepts i op kind parts (fun n t => (t.runDoor d run).settleOp n)

section
variable {u : State} {h : Hdr} {i : SessIx} {mask op : Nat}

theorem doorCommand_open (ho : u.own h i mask = (u, fun _ => none)) : u.doorCommand h i mask 1
    = u.doorOperation i 0x0301 mask .doorOpen (u.reasons mask (fun _ => none) refuseOpen) (fun _ => true)
      (fun w => w.sm.state == .opened) (demandAt hostOpen) := by
  unfold State.doorCommand
  rw [ho]
  rfl

theorem doorCommand_close (ho : u.own h i mask = (u, fun _ => none)) : u.doorCommand h i mask 2
    = u.doorOperation i 0x0301 mask .doorClose (u.reasons mask (fun _ => none) refuseClose) (fun _ => false)
      (fun w => w.sm.state == .locked || w.sm.state == .released) (demandAt (fun e => doLocalClose e .closeHost)) := by
  unfold State.doorCommand
  rw [ho]
  rfl

/-- The opening parts of a RESUME: the doorways whose OPENING was interrupted. -/
def resumesOpen (w : Doorway) : Bool :=
  match w.sm.interrupted with
  | some (.opening, _) => true
  | _ => false

theorem doorResumes_own (ho : u.own h i mask = (u, fun _ => none)) : u.doorResumes h i op mask
    = u.doorOperation i op mask .doorResume (u.reasons mask (fun _ => none) refuseResume) resumesOpen (fun _ => false)
      (fun e => doorTickWith e (doResume e)) := by
  unfold State.doorResumes
  rw [ho]
  rfl

end

section
variable {s : State} {h : Hdr} {i : SessIx} {d : DoorIx} {q : Req} {c : Instr} {refuse : DoorEnv → Doorway → Option Nat}
  {run : DoorEnv → Work → Work}

theorem State.Operates.answers_refused (o : s.Operates h i d q refuse run) (hc : hosted c = some (h, q)) (k : s.Reaches h i q d)
    {r : Nat} (hr : refuse (s.doorEnv d) s.doors[d] = some r) :
    ∃ t, exec c s = .next t ∧ s.Unmoved t ∧ t.Answered i h q (Answer.refused r) :=
  hosted_reads hc k.toAdmits o.opcode (o.refused r hr)

theorem State.Operates.answers_busy (o : s.Operates h i d q refuse run) (hc : hosted c = some (h, q)) (k : s.Reaches h i q d)
    (hr : refuse (s.doorEnv d) s.doors[d] = none) (hx : s.exhausted i = true) :
    ∃ t, exec c s = .next t ∧ s.Unmoved t ∧ t.Answered i h q (Answer.busy 0x49) := by
  obtain ⟨op, kind, parts, hact⟩ := o.starts hr
  obtain ⟨hans, hun⟩ := accepts_busy k.toAdmits o.opcode hact hx
  exact ⟨_, hosted_exec hc s, hun, hans⟩

theorem State.Operates.runs (o : s.Operates h i d q refuse run) (hc : hosted c = some (h, q)) (k : s.Reaches h i q d)
    (hr : refuse (s.doorEnv d) s.doors[d] = none) (hx : s.exhausted i = false) {st ph cause}
    (hrun : (run (s.doorEnv d) ⟨s.doors[d], []⟩).Is st ph cause) :
    ∃ t, exec c s = .next t ∧ t.Answered i h q (Answer.accepted s.fcp.nextHandle) ∧ (t.doors[d]).Stands st ph cause := by
  obtain ⟨op, kind, parts, hact⟩ := o.starts hr
  obtain ⟨hans, hown⟩ := accepts_runs k.toAdmits o.opcode (run := fun _ => run) (pre := fun _ u => u) (fin := fun n u => u.settleOp n)
    (fun _ _ => ⟨rfl, .refl _⟩) settleOp_doors hact hx k.runs
  exact ⟨_, hosted_exec hc s, hans, hrun.stands hown⟩

/-- A packet that acts on the state and is answered at once: the reply leaves the doorways as the action left them. -/
theorem answers_at {u : State} {a : Answer} (hc : hosted c = some (h, q)) (k : s.Admits h i q) (ho : q.opcode ≠ 0x0101)
    (hq : q.act h i (s.admitted h i) = u.answers a) : ∃ t, exec c s = .next t ∧ t.Answered i h q a ∧ t.doors = u.doors := by
  obtain ⟨hrec, hans⟩ := k.answers ho hq
  exact ⟨_, (hosted_exec hc s).trans (congrArg _ hrec), hans, stored_doors u h i q a ho⟩

/-- A doorway operation whose reasons are those of its only doorway. -/
theorem operates_of {op : Nat} {kind : OpKind} {opening atOnce : Doorway → Bool} (ho : q.opcode ≠ 0x0101)
    (hq : q.act h i (s.admitted h i) = (s.admitted h i).doorOperation i op (2 ^ d.val) kind
      ((s.admitted h i).reasons (2 ^ d.val) (fun _ => none) refuse) opening atOnce run) : s.Operates h i d q refuse run := by
  obtain ⟨hrefuse, hstart⟩ := doorOperation_one (s := s.admitted h i) (i := i) (d := d) (opcode := op) (kind := kind)
    (refuse := refuse) (opening := opening) (atOnce := atOnce) (run := run)
  refine ⟨ho, fun r hr => hq.trans (hrefuse r hr), fun hr => ?_⟩
  obtain ⟨parts, hp⟩ := hstart hr
  exact ⟨op, kind, parts, hq.trans hp⟩

/-- The commander's own command has no reason of ownership (R387). -/
theorem State.Reaches.own (k : s.Reaches h i q d) : (s.admitted h i).own h i (2 ^ d.val) = (s.admitted h i, fun _ => none) :=
  own_plain k.noTakeover k.commands k.fits

theorem open_operates {p : List Byte} (k : s.Reaches h i (Req.doorCommand p (2 ^ d.val) 1) d) :
    s.Operates h i d (Req.doorCommand p (2 ^ d.val) 1) refuseOpen (demandAt hostOpen) :=
  operates_of nofun (doorCommand_open k.own)

theorem close_operates {p : List Byte} (k : s.Reaches h i (Req.doorCommand p (2 ^ d.val) 2) d) :
    s.Operates h i d (Req.doorCommand p (2 ^ d.val) 2) refuseClose (demandAt (fun e => doLocalClose e .closeHost)) :=
  operates_of nofun (doorCommand_close k.own)

/-- RESUME and MOVE_RESUME are one operation (R142). -/
theorem resume_operates {op : Nat} (k : s.Reaches h i q d) (ho : q.opcode ≠ 0x0101)
    (hq : q.act h i (s.admitted h i) = (s.admitted h i).doorResumes h i op (2 ^ d.val)) :
    s.Operates h i d q refuseResume (fun e => doorTickWith e (doResume e)) :=
  operates_of ho (hq.trans (doorResumes_own k.own))

theorem resume_stands (k : s.Reaches h i q d) (hc : hosted c = some (h, q))
    (o : s.Operates h i d q refuseResume (fun e => doorTickWith e (doResume e))) (hw : (s.doors[d]).Calm (s.doorEnv d))
    (he : (s.doors[d]).sm.edges = noEdges) {ph : Phase} (hr : refuseResume (s.doorEnv d) s.doors[d] = none) (hx : s.exhausted i = false) :
    ((s.doors[d]).sm.interrupted = some (.closing, ph) → s.cfg.preCloseWarn d ≠ 0 →
      ∃ t, exec c s = .next t ∧ t.Answered i h q (Answer.accepted s.fcp.nextHandle)
        ∧ (t.doors[d]).sm.state = .closing ∧ (t.doors[d]).sm.phase = .warn)
    ∧ ((s.doors[d]).sm.interrupted = some (.reopening, ph) →
      ∃ t, exec c s = .next t ∧ t.Answered i h q (Answer.accepted s.fcp.nextHandle)
        ∧ (t.doors[d]).sm.state = .reopening ∧ (t.doors[d]).sm.phase = ph) := by
  obtain ⟨hclose, hreopen⟩ := resume_is (e := s.doorEnv d) (w := ⟨s.doors[d], []⟩) (ph := ph) hw he hr
  refine ⟨fun hi hp => ?_, fun hi => ?_⟩
  · obtain ⟨cause, his⟩ := hclose hi hp
    obtain ⟨t, hx, hans, hst⟩ := o.runs hc k hr hx his
    exact ⟨t, hx, hans, hst.state, hst.phase⟩
  · obtain ⟨cause, his⟩ := hreopen hi
    obtain ⟨t, hx, hans, hst⟩ := o.runs hc k hr hx his
    exact ⟨t, hx, hans, hst.state, hst.phase⟩

/-- STOP and MOVE_STOP of a moving doorway answer DONE and keep what they interrupted (R54, R141). -/
theorem stop_stands {cause : Cause} {quick : Bool} (k : s.Reaches h i q d) (hc : hosted c = some (h, q)) (ho : q.opcode ≠ 0x0101)
    (hq : q.act h i (s.admitted h i) = (s.admitted h i).doorStop h i (2 ^ d.val) cause quick)
    (hw : (s.doors[d]).Calm (s.doorEnv d)) (he : (s.doors[d]).sm.edges = noEdges) (hr : refuseStop (s.doorEnv d) s.doors[d] = none)
    (hs : (s.doors[d]).sm.state = .opening ∨ (s.doors[d]).sm.state = .reopening ∨ (s.doors[d]).sm.state = .closing) :
    ∃ t, exec c s = .next t ∧ t.Answered i h q (Answer.done (BitVec.ofNat 8 (2 ^ d.val) :: List.replicate 11 0))
      ∧ (t.doors[d]).sm.state = .stopped ∧ (t.doors[d]).sm.cause = cause
      ∧ (t.doors[d]).sm.interrupted = some ((s.doors[d]).sm.state, (s.doors[d]).sm.phase) := by
  obtain ⟨-, hstop⟩ := doorStop_one (s := s.admitted h i) (c := cause) (quick := quick) k.noTakeover k.commands k.fits
  obtain ⟨t, hx, hans, hdoors⟩ := answers_at hc k.toAdmits ho (hq.trans (hstop hr))
  obtain ⟨his, hint⟩ := stop_is (e := s.doorEnv d) (w := ⟨s.doors[d], []⟩) (c := cause) (quick := quick) hw he hr hs
  have hown := (s.admitted h i).runDoor_own d (fun e => doorTickWith e (doStop e cause quick)) k.runs
  have hst := his.stands hown
  refine ⟨t, hx, hans, ?_⟩
  rw [hdoors]
  exact ⟨hst.state, hst.cause, (congrArg DoorSm.interrupted hown.sm).trans hint⟩

end

/-- A doorway whose OPEN is not refused may open. -/
theorem openAllowed_of {e : DoorEnv} {w : Doorway} (h : refuseOpen e w = none) : e.openAllowed = true := by
  unfold refuseOpen at h
  by_cases hs : w.sm.state = .isolated
  · rw [if_pos hs] at h
    exact nomatch h
  by_cases hf : w.inp.flags.commonFault = true
  · rw [if_neg hs, if_pos hf] at h
    exact nomatch h
  rw [if_neg hs, if_neg hf] at h
  unfold DoorEnv.openAllowed
  cases htl : e.tlClose with
  | true =>
    rw [htl, if_pos rfl] at h
    exact nomatch h
  | false =>
    cases hrel : e.release with
    | true => rfl
    | false =>
      rw [htl, hrel, if_neg Bool.false_ne_true, if_pos (by decide)] at h
      exact nomatch h

/-- Settles O38: OPEN, CLOSE and the two RESUMEs as operations (`State.Operates`), the two STOPs by `stop_stands`. -/
theorem hostCommandsOfOneDoorway : Obligations.HostCommandsOfOneDoorway := by
  unfold Obligations.HostCommandsOfOneDoorway
  intro s h i d q k hw he
  refine ⟨fun mask hm hq => ?_, fun mask hm hq hr hx hs hp => ?_, fun mask hm hq => ?_, fun mask ph hm hq hr hx => ?_,
    fun mask mode hm hq hr hs => ?_, fun mask ph hm hq hr hx => ?_⟩
  · have hc : hosted (.doorCommandOpen h mask) = some (h, q) := hq ▸ rfl
    rw [hm] at hq
    have o := open_operates (hq ▸ k)
    rw [← hq] at o
    refine ⟨fun r hr => o.answers_refused hc k hr, fun hr hx => o.answers_busy hc k hr hx, fun hr hx hs hd => ?_⟩
    obtain ⟨t, hx, hans, hst⟩ := o.runs hc k hr hx (hostOpen_is (w := ⟨s.doors[d], []⟩) hw he hs (openAllowed_of hr) hd)
    exact ⟨t, hx, hans, hst.parts⟩
  · have hc : hosted (.doorCommandClose h mask) = some (h, q) := hq ▸ rfl
    rw [hm] at hq
    have o := close_operates (hq ▸ k)
    rw [← hq] at o
    obtain ⟨t, hx, hans, hst⟩ := o.runs hc k hr hx (hostClose_is (w := ⟨s.doors[d], []⟩) hw he hs hp)
    exact ⟨t, hx, hans, hst.parts⟩
  · have hc : hosted (.doorCommandStop h mask) = some (h, q) := hq ▸ rfl
    rw [hm] at hq
    subst hq
    obtain ⟨hrefuse, -⟩ := doorStop_one (s := s.admitted h i) (c := .stopHost) (quick := false) k.noTakeover k.commands k.fits
    exact ⟨fun r hr => hosted_reads hc k.toAdmits nofun (hrefuse r hr), fun hr hs => stop_stands k hc nofun rfl hw he hr hs⟩
  · have hc : hosted (.doorCommandResume h mask) = some (h, q) := hq ▸ rfl
    rw [hm] at hq
    subst hq
    exact resume_stands k hc (resume_operates k nofun rfl) hw he hr hx
  · have hc : hosted (.moveStop h mask mode) = some (h, q) := hq ▸ rfl
    subst hq
    exact stop_stands k hc nofun (congrArg (fun m => (s.admitted h i).doorStop h i m .stopMove (mode.toNat == 1)) hm) hw he hr hs
  · have hc : hosted (.moveResume h mask) = some (h, q) := hq ▸ rfl
    subst hq
    exact resume_stands k hc
      (resume_operates k nofun (congrArg (fun m => (s.admitted h i).doorResumes h i 0x0403 m) hm)) hw he hr hx

end Sys2Proof.Machine
end

section
/-!
Doorways out of service: RESET, DOOR_ISOLATE and the operations of MAINT on one doorway (R52, R59 to R62, R184, R221, R238).
-/

namespace Sys2Proof.Machine

/-! ## RESET -/

/-- The state in which a RESET finds its doorway: the trip rows of both drives have ended. -/
def State.tripsEnded (s : State) (d : DoorIx) : State := (s.tripRows (doorDrive d) false).tripRows (stepDrive d) false

/-- Of the doorway's environment the trip rows reach the latched levels alone. -/
theorem tripsEnded_doorEnv (s : State) (d : DoorIx) :
    ∃ x y, (s.tripsEnded d).doorEnv d = { s.doorEnv d with doorLevel := x, stepLevel := y } := ⟨_, _, rfl⟩

theorem Doorway.Ready.levels {e : DoorEnv} {w : Doorway} (h : w.Ready e) (x y : Bool) :
    w.Ready { e with doorLevel := x, stepLevel := y } :=
  ⟨⟨h.awake.fitted, h.awake.settled, h.awake.running, h.awake.valid⟩, h.dis, h.eeh, h.eea, h.entering⟩

/-- R184: RESET of a doorway in FAULT, as its engine's work leaves it. -/
theorem doorReset_own {s : State} {d : DoorIx} (hl : s.leafRuns d = true) :
    (doorTickWith ((s.tripsEnded d).doorEnv d) (fun w => if w.dw.sm.state = .fault then doReset ((s.tripsEnded d).doorEnv d) w else w)
      ⟨s.doors[d], []⟩).dw.alike (s.doorReset d).doors[d] :=
  (s.tripsEnded d).runDoor_own d (fun e => doorTickWith e (fun w => if w.dw.sm.state = .fault then doReset e w else w)) hl

/-- No leg test follows where neither drive had faulted with OVERCURRENT or DESAT (R184). -/
theorem testAfterReset_none {u : State} {before : DoorIx → Doorway} {d : DoorIx} (h1 : (before d).door.faultCode ≠ 1)
    (h2 : (before d).door.faultCode ≠ 2) (h3 : (before d).step.faultCode ≠ 1) (h4 : (before d).step.faultCode ≠ 2) :
    u.testAfterReset before [d] = u := by
  unfold State.testAfterReset
  simp [h1, h2, h3, h4]

/-- Table 1.11: RESET is refused everywhere but in FAULT. -/
theorem refuseReset_fault {e : DoorEnv} {w : Doorway} (h : refuseReset e w = none) : w.sm.state = .fault := by
  unfold refuseReset at h
  by_cases hs : w.sm.state = .fault
  · exact hs
  · rw [if_pos hs] at h
    exact nomatch h

section
variable {s : State} {h : Hdr} {i : SessIx} {d : DoorIx} {q : Req} {c : Instr}

theorem reset_stands {p : List Byte} (k : s.Reaches h i (Req.doorCommand p (2 ^ d.val) 5) d)
    (hc : hosted c = some (h, Req.doorCommand p (2 ^ d.val) 5)) (hw : (s.doors[d]).Ready (s.doorEnv d))
    (he : (s.doors[d]).sm.edges = noEdges) (ht : (s.doorEnv d).tlPresent = false) (ho : s.cfg.openMode d ≠ 1)
    (hr : refuseReset (s.doorEnv d) s.doors[d] = none) (hi : (s.doors[d]).sm.flags.isolatedByCmd = false)
    (h1 : (s.doors[d]).door.faultCode ≠ 1) (h2 : (s.doors[d]).door.faultCode ≠ 2) (h3 : (s.doors[d]).step.faultCode ≠ 1)
    (h4 : (s.doors[d]).step.faultCode ≠ 2) (h16 : (s.doors[d]).step.faultCode < 16)
    (hst : (s.doors[d]).step.flags.standing = true → (s.doors[d]).srs = true) :
    ∃ t, exec c s = .next t
      ∧ t.Answered i h (Req.doorCommand p (2 ^ d.val) 5) (Answer.done (BitVec.ofNat 8 (2 ^ d.val) :: List.replicate 11 0))
      ∧ (t.doors[d]).sm.state = settled (s.doorEnv d) s.doors[d] ∧ (t.doors[d]).sm.cause = .settled
      ∧ (t.doors[d]).door.faultCode = 0 ∧ (t.doors[d]).step.faultCode = 0 := by
  have hfault := refuseReset_fault hr
  obtain ⟨-, hacts⟩ := one_mask d (s.admitted h i) h i _ rfl k.noTakeover k.commands k.fits
  obtain ⟨t, hx, hans, hdoors⟩ := answers_at hc k.toAdmits nofun (hacts hr)
  have hown := doorReset_own (s := s.admitted h i) (d := d) k.runs
  obtain ⟨x, y, henv⟩ := tripsEnded_doorEnv (s.admitted h i) d
  rw [henv] at hown
  obtain ⟨his, hdoor, hstep⟩ := reset_is (e := { s.doorEnv d with doorLevel := x, stepLevel := y }) (w := ⟨s.doors[d], []⟩) ho ht
    (hw.levels x y) he hfault hi h16 hst
  have hstands := his.stands hown
  rw [testAfterReset_none h1 h2 h3 h4] at hdoors
  refine ⟨t, hx, hans, ?_⟩
  rw [hdoors]
  exact ⟨hstands.state, hstands.cause, (congrArg DoorDrive.faultCode hown.door).trans hdoor,
    (congrArg StepDrive.faultCode hown.step).trans hstep⟩

end

/-! ## Commands for one doorway -/

section
variable {u : State} {h : Hdr} {i : SessIx} {d : DoorIx} {p : List Byte} {r : Nat}

section
variable {refuse : State → DoorEnv → Doorway → Option Nat} {go : State → Reply}

theorem oneDoor_refused (ho : u.own h i (2 ^ d.val) = (u, fun _ => none)) (hr : refuse u (u.doorEnv d) u.doors[d] = some r) :
    u.oneDoor h i (doorOfNat d.val) refuse go = u.answers (Answer.refused r) := by
  unfold State.oneDoor
  rw [doorOfNat_val, ho]
  simp only [hr]

theorem oneDoor_goes (ho : u.own h i (2 ^ d.val) = (u, fun _ => none)) (hr : refuse u (u.doorEnv d) u.doors[d] = none) :
    u.oneDoor h i (doorOfNat d.val) refuse go = go u := by
  unfold State.oneDoor
  rw [doorOfNat_val, ho]
  simp only [hr]

end

theorem isolate_refused (ho : u.own h i (2 ^ d.val) = (u, fun _ => none))
    (hs : ¬((u.doors[d]).sm.state = .locked ∨ (u.doors[d]).sm.state = .released)) :
    (Req.doorIsolate p d.val 1).act h i u = u.answers (Answer.refused 0x36) := by
  unfold Req.doorIsolate Req.doorway Req.plain
  dsimp only
  exact oneDoor_refused ho (if_neg hs)

theorem isolate_goes (ho : u.own h i (2 ^ d.val) = (u, fun _ => none))
    (hs : (u.doors[d]).sm.state = .locked ∨ (u.doors[d]).sm.state = .released) :
    (Req.doorIsolate p d.val 1).act h i u = (u.runDoor d (fun e w => doorTick e (doIsolate e w))).answers (Answer.done []) := by
  unfold Req.doorIsolate Req.doorway Req.plain
  dsimp only
  refine (oneDoor_goes ho (if_pos hs)).trans ?_
  rw [doorOfNat_val]
  rfl

theorem return_goes (ho : u.own h i (2 ^ d.val) = (u, fun _ => none)) (hd : (u.doors[d]).dis = false) :
    (Req.doorIsolate p d.val 0).act h i u = (u.runDoor d (fun e w => doorTick e (doReturn e w))).answers (Answer.done []) := by
  unfold Req.doorIsolate Req.doorway Req.plain
  dsimp only
  refine (oneDoor_goes ho (if_neg (Bool.eq_false_iff.mp hd))).trans ?_
  rw [doorOfNat_val]
  rfl

theorem testCycle_refused {cycles : Nat} (ho : u.own h i (2 ^ d.val) = (u, fun _ => none))
    (hr : refuseTest (u.doorEnv d) u.doors[d] = some r) :
    (Req.doorTestCycle p d.val cycles).act h i u = u.answers (Answer.refused r) := by
  unfold Req.doorTestCycle Req.doorway Req.plain
  dsimp only
  exact oneDoor_refused ho hr

theorem testCycle_goes {cycles : Nat} (ho : u.own h i (2 ^ d.val) = (u, fun _ => none))
    (hr : refuseTest (u.doorEnv d) u.doors[d] = none) :
    (Req.doorTestCycle p d.val cycles).act h i u = u.startsMaint i 0x0304 .testCycle d (.test cycles) := by
  unfold Req.doorTestCycle Req.doorway Req.plain
  dsimp only
  refine (oneDoor_goes ho hr).trans ?_
  rw [doorOfNat_val]

theorem learn_goes (ho : u.own h i (2 ^ d.val) = (u, fun _ => none)) (hr : refuseLearn (u.doorEnv d) u.doors[d] = none) :
    (Req.envelopeLearn p d.val).act h i u = u.startsMaint i 0x0305 .learn d .learn := by
  unfold Req.envelopeLearn Req.doorway Req.plain
  dsimp only
  refine (oneDoor_goes ho hr).trans ?_
  rw [doorOfNat_val]

/-- HOME_STEP of a doorway in LOCKED or RELEASED with no operation in progress starts one (R221). -/
theorem homeStep_goes {mode : Nat} (ho : u.own h i (2 ^ d.val) = (u, fun _ => none))
    (hr : refuseHome mode (u.doorEnv d) u.doors[d] = none) (hm : (u.doors[d]).sm.maint = none)
    (hs : (u.doors[d]).sm.state = .locked ∨ (u.doors[d]).sm.state = .released) :
    (Req.homeStep p d.val mode).act h i u = u.startsMaint i 0x0406 .homeStep d (.home mode) := by
  have hi : (u.doors[d]).sm.state ≠ .isolated := by
    rcases hs with hs | hs
    · rw [hs]; decide
    · rw [hs]; decide
  unfold Req.homeStep Req.doorway Req.plain
  dsimp only
  refine (oneDoor_goes ho hr).trans ?_
  simp only [doorOfNat_val]
  have hidle : (u.doors[d]).sm.maint.isSome ≠ true := by rw [hm]; decide
  exact (if_neg hidle).trans (if_neg (fun hx => hi hx.1))

end

section
variable {s : State} {h : Hdr} {i : SessIx} {d : DoorIx} {q : Req} {c : Instr}

/-- R59: DOOR_ISOLATE with SET 1 takes LOCKED and RELEASED doorways out of service and no others. -/
theorem isolate_stands {p : List Byte} (k : s.Reaches h i (Req.doorIsolate p d.val 1) d)
    (hc : hosted c = some (h, Req.doorIsolate p d.val 1)) (hw : (s.doors[d]).Ready (s.doorEnv d))
    (he : (s.doors[d]).sm.edges = noEdges) (ho : s.cfg.openMode d ≠ 1) :
    ((s.doors[d]).sm.state ≠ .locked → (s.doors[d]).sm.state ≠ .released →
      ∃ t, exec c s = .next t ∧ s.Unmoved t ∧ t.Answered i h (Req.doorIsolate p d.val 1) (Answer.refused 0x36))
    ∧ ((s.doors[d]).sm.state = .locked ∨ (s.doors[d]).sm.state = .released →
      ∃ t, exec c s = .next t ∧ t.Answered i h (Req.doorIsolate p d.val 1) (Answer.done [])
        ∧ (t.doors[d]).sm.state = .isolated ∧ (t.doors[d]).sm.cause = .isolCommand ∧ (t.doors[d]).sm.flags.isolatedByCmd = true) := by
  refine ⟨fun hl hr => ?_, fun hs => ?_⟩
  · exact hosted_reads hc k.toAdmits nofun (isolate_refused k.own (not_or.mpr ⟨hl, hr⟩))
  · obtain ⟨t, hx, hans, hdoors⟩ := answers_at hc k.toAdmits nofun (isolate_goes k.own hs)
    obtain ⟨his, hcmd⟩ := isolate_is (e := s.doorEnv d) (w := ⟨s.doors[d], []⟩) ho hw he
    have hown := (s.admitted h i).runDoor_own d (fun e w => doorTick e (doIsolate e w)) k.runs
    have hst := his.stands hown
    refine ⟨t, hx, hans, ?_⟩
    rw [hdoors]
    exact ⟨hst.state, hst.cause, (congrArg (fun m => m.flags.isolatedByCmd) hown.sm).trans hcmd⟩

/-- R59: DOOR_ISOLATE with SET 0 returns a doorway isolated by command, which settles. -/
theorem return_stands {p : List Byte} (k : s.Reaches h i (Req.doorIsolate p d.val 0) d)
    (hc : hosted c = some (h, Req.doorIsolate p d.val 0)) (hw : (s.doors[d]).Ready (s.doorEnv d))
    (he : (s.doors[d]).sm.edges = noEdges) (ht : (s.doorEnv d).tlPresent = false) (ho : s.cfg.openMode d ≠ 1)
    (hs : (s.doors[d]).sm.state = .isolated) (h4 : rankFour s.doors[d] = none) (hpl : (s.doors[d]).sm.flags.plausibility = false)
    (hpe : (s.doors[d]).obst.pending = none) (hcl : settled (s.doorEnv d) s.doors[d] ≠ .closedUnlocked) :
    ∃ t, exec c s = .next t ∧ t.Answered i h (Req.doorIsolate p d.val 0) (Answer.done [])
      ∧ (t.doors[d]).sm.state = settled (s.doorEnv d) s.doors[d] ∧ (t.doors[d]).sm.cause = .settled
      ∧ (t.doors[d]).sm.flags.isolatedByCmd = false := by
  obtain ⟨t, hx, hans, hdoors⟩ := answers_at hc k.toAdmits nofun (return_goes k.own hw.dis)
  obtain ⟨his, hcmd⟩ := return_is (e := s.doorEnv d) (w := ⟨s.doors[d], []⟩) ho ht hw he hs h4 hpl hpe hcl
  have hown := (s.admitted h i).runDoor_own d (fun e w => doorTick e (doReturn e w)) k.runs
  have hst := his.stands hown
  refine ⟨t, hx, hans, ?_⟩
  rw [hdoors]
  exact ⟨hst.state, hst.cause, (congrArg (fun m => m.flags.isolatedByCmd) hown.sm).trans hcmd⟩

/-! ## Operations of MAINT -/

/-- A doorway at which an operation of MAINT has begun. -/
structure Doorway.Begun (w : Doorway) (op : MaintOp) (handle : Nat) : Prop where
  state   : w.sm.state = .maint
  cause   : w.sm.cause = op.cause
  learns  : op = .learn → w.obst.flags.learnRunning = true
  running : ∃ m, w.sm.maint = some m ∧ m.op = op ∧ m.handle = handle ∧ m.shadow = (if op.cycleType = 4 then .maint else .unlocking)

/-- An accepted operation of MAINT begins at its doorway (R61, R221, R238). -/
theorem maint_begins {opcode : Nat} {kind : OpKind} {op : MaintOp} (k : s.Reaches h i q d) (hc : hosted c = some (h, q))
    (ho : q.opcode ≠ 0x0101) (hq : q.act h i (s.admitted h i) = (s.admitted h i).startsMaint i opcode kind d op)
    (hx : s.exhausted i = false) (hw : (s.doors[d]).Ready (s.doorEnv d)) (ht : (s.doorEnv d).tlPresent = false)
    (hm : s.cfg.openMode d ≠ 1) (hop : (∃ n, op = .test n) ∨ op = .learn ∨ ∃ n, op = .home n)
    (hd : op.cycleType = 4 ∨ (s.doors[d]).dls = true)
    (h4 : rankFour (startMaint (s.doorEnv d) op s.fcp.nextHandle ⟨s.doors[d], []⟩).dw = none)
    (hpl : (s.doors[d]).sm.flags.plausibility = false) (hpe : (s.doors[d]).obst.pending = none) :
    ∃ t, exec c s = .next t ∧ t.Answered i h q (Answer.accepted s.fcp.nextHandle) ∧ (t.doors[d]).Begun op s.fcp.nextHandle := by
  obtain ⟨hans, hown⟩ := accepts_runs k.toAdmits ho (run := fun n e w => doorTick e (startMaint e op n w)) (pre := fun _ u => u)
    (fin := fun _ u => u) (fun _ _ => ⟨rfl, .refl _⟩) (fun _ _ => ⟨.refl _, rfl⟩) hq hx k.runs
  obtain ⟨m, hmaint, hmop, hmh, hms, hst, hcause, hl⟩ := maint_stays (e := s.doorEnv d) (w := ⟨s.doors[d], []⟩) hm ht hw hop hd h4 hpl hpe
  exact ⟨_, hosted_exec hc s, hans,
    { state := (congrArg DoorSm.state hown.sm).trans hst
      cause := (congrArg DoorSm.cause hown.sm).trans hcause
      learns := fun he => (congrArg (fun o => o.flags.learnRunning) hown.obst).trans (hl he)
      running := ⟨m, (congrArg DoorSm.maint hown.sm).trans hmaint, hmop, hmh, hms⟩ }⟩

theorem homeStep_begins {p : List Byte} {mode : Nat} (k : s.Reaches h i (Req.homeStep p d.val mode) d)
    (hc : hosted c = some (h, Req.homeStep p d.val mode)) (hx : s.exhausted i = false) (hw : (s.doors[d]).Ready (s.doorEnv d))
    (ht : (s.doorEnv d).tlPresent = false) (ho : s.cfg.openMode d ≠ 1) (hm : (s.doors[d]).sm.maint = none)
    (hs : (s.doors[d]).sm.state = .locked ∨ (s.doors[d]).sm.state = .released)
    (hr : refuseHome mode (s.doorEnv d) s.doors[d] = none)
    (h4 : rankFour (startMaint (s.doorEnv d) (.home mode) s.fcp.nextHandle ⟨s.doors[d], []⟩).dw = none)
    (hpl : (s.doors[d]).sm.flags.plausibility = false) (hpe : (s.doors[d]).obst.pending = none) :
    ∃ t, exec c s = .next t ∧ t.Answered i h (Req.homeStep p d.val mode) (Answer.accepted s.fcp.nextHandle)
      ∧ (t.doors[d]).sm.state = .maint ∧ (t.doors[d]).sm.cause = .maintHome
      ∧ ∃ m, (t.doors[d]).sm.maint = some m ∧ m.op = .home mode ∧ m.handle = s.fcp.nextHandle := by
  obtain ⟨t, hx, hans, hb⟩ := maint_begins k hc nofun (homeStep_goes k.own hr hm hs) hx hw ht ho (.inr (.inr ⟨mode, rfl⟩)) (.inl rfl)
    h4 hpl hpe
  obtain ⟨m, hmaint, hop, hh, -⟩ := hb.running
  exact ⟨t, hx, hans, hb.state, hb.cause, m, hmaint, hop, hh⟩

end

/-- Settles O39: RESET by `reset_stands`, DOOR_ISOLATE by `isolate_stands` and `return_stands`, the operations of MAINT by
`maint_begins`. -/
theorem doorwaysOutOfService : Obligations.DoorwaysOutOfService := by
  unfold Obligations.DoorwaysOutOfService
  intro s h i d q k hw he ht ho
  refine ⟨fun mask hm hq => ?_, fun door hd hq => ?_, fun door hd hq hs h4 hpl hpe hcl => ?_, fun door cycles hd hq => ?_,
    fun door hd hq hr hx h4 hpl hpe hdls => ?_, fun hm hs hx hpl hpe => ⟨fun door hd hq hr h4 => ?_, fun door hd hq hr h4 => ?_⟩⟩
  · have hc : hosted (.doorCommandReset h mask) = some (h, q) := hq ▸ rfl
    rw [hm] at hq
    subst hq
    obtain ⟨hrefuse, -⟩ := one_mask d (s.admitted h i) h i _ rfl k.noTakeover k.commands k.fits
    exact ⟨fun r hr => hosted_reads hc k.toAdmits nofun (hrefuse r hr),
      fun hr hi h1 h2 h3 h4 h16 hst => reset_stands k hc hw he ht ho hr hi h1 h2 h3 h4 h16 hst⟩
  · have hc : hosted (.doorIsolateSet h door) = some (h, q) := hq ▸ rfl
    rw [hd] at hq
    subst hq
    exact isolate_stands k hc hw he ho
  · have hc : hosted (.doorIsolateClear h door) = some (h, q) := hq ▸ rfl
    rw [hd] at hq
    subst hq
    exact return_stands k hc hw he ht ho hs h4 hpl hpe hcl
  · have hc : hosted (.doorTestCycle h door cycles) = some (h, q) := hq ▸ rfl
    rw [hd] at hq
    subst hq
    refine ⟨fun r hr => hosted_reads hc k.toAdmits nofun (testCycle_refused k.own hr), fun hr hx h4 hpl hpe hdls => ?_⟩
    obtain ⟨t, hx, hans, hb⟩ := maint_begins k hc nofun (testCycle_goes k.own hr) hx hw ht ho (.inl ⟨_, rfl⟩) (.inr hdls) h4 hpl hpe
    exact ⟨t, hx, hans, hb.state, hb.cause, hb.running⟩
  · have hc : hosted (.envelopeLearn h door) = some (h, q) := hq ▸ rfl
    rw [hd] at hq
    subst hq
    obtain ⟨t, hx, hans, hb⟩ := maint_begins k hc nofun (learn_goes k.own hr) hx hw ht ho (.inr (.inl rfl)) (.inr hdls) h4 hpl hpe
    exact ⟨t, hx, hans, hb.state, hb.learns rfl, hb.running⟩
  · have hc : hosted (.homeStepHome h door) = some (h, q) := hq ▸ rfl
    rw [hd] at hq
    subst hq
    exact homeStep_begins k hc hx hw ht ho hm hs hr h4 hpl hpe
  · have hc : hosted (.homeStepMeasure h door) = some (h, q) := hq ▸ rfl
    rw [hd] at hq
    subst hq
    exact homeStep_begins k hc hx hw ht ho hm hs hr h4 hpl hpe

end Sys2Proof.Machine
end

section
/-!
The loop keeper (R84, R97): what the end of KEEPER_ALONE, the end of the 4 ms and a missed uplink frame make of its record.
-/

namespace Sys2Proof.Machine

/-! ## What evaluation leaves -/

/-- An evaluation of release, loop and outputs keeps the loop keeper's views of the doorways. -/
theorem evaluate_keeper (s : State) : s.evaluate.loop.keeper = s.loop.keeper := by
  obtain ⟨-, -, hkeeper, -⟩ := loopRecords_of (State.evaluate_settles s).loop
  exact hkeeper

/-- An evaluation of release, loop and outputs keeps KEEPER_ALONE. -/
theorem evaluate_alone (s : State) : s.evaluate.loop.alone = s.loop.alone := by
  obtain ⟨-, -, -, halone, -⟩ := loopRecords_of (State.evaluate_settles s).loop
  exact halone

/-- A change of an input group leaves the loop. -/
theorem onGroup_loop (s : State) (g : GroupIx) (f : InGroup → InGroup) : (s.onGroup g f).loop = s.loop :=
  (State.onGroup_keeps (Within.refl _) (Keeps.refl _ s) g f).only .loop (by decide)

/-! ## KEEPER_ALONE (R97) -/

/-- The end of the 2.0 s in an update stops both toggles. -/
theorem aloneTimeout_update {l : Loop} {a : KeeperAlone} (ha : l.alone = some a) (hu : a.reason = .update) :
    l.aloneTimeout.alone = some { a with stopped := true } := by
  unfold Loop.aloneTimeout
  rw [ha]
  exact congrArg Loop.alone (if_pos hu)

theorem keeperTimesOut_alone (s : State) (hf : s.fieldOn = true) : s.keeperTimesOut.loop.alone = s.loop.aloneTimeout.alone := by
  unfold State.keeperTimesOut
  rw [if_pos hf, evaluate_alone]

/-! ## Views of the doorways (R84) -/

/-- One frame that shows a condition false restarts the 4 ms, and the second in succession opens the view. -/
theorem frames_false (v : KeeperView) :
    (v.frames false 1).trueRun = 0 ∧ (1 ≤ v.falseRun → (v.frames false 1).closed = false) := by
  refine ⟨rfl, fun hrun => ?_⟩
  have hsecond : ¬ min 2 (v.falseRun + 1) < 2 := by omega
  show (v.closed && decide (min 2 (v.falseRun + 1) < 2)) = false
  rw [decide_eq_false hsecond, Bool.and_false]

section
variable {s : State} {d : DoorIx} {hd : d.val < 9}

/-- The field side of a fitted doorway's group is supplied with the domain. -/
theorem frontOn_door (hf : s.fieldOn = true) (hfit : s.cfg.isFitted d = true) : s.frontOn ⟨d.val, hd⟩ = true := by
  have hused : s.groupUsed ⟨d.val, hd⟩ = true := (dif_pos d.isLt).trans hfit
  unfold State.frontOn
  rw [hf, hused, Bool.and_self]

/-- A doorway's inputs are the group of its index. -/
theorem group_door : s.group ⟨d.val, hd⟩ = (s.doors[d]).inp := dif_pos d.isLt

/-- A frame period without a valid frame shows the loop keeper its doorway not closed. -/
theorem keeperFrame_none : ((s.keeperFrame ⟨d.val, hd⟩ none).loop.keeper[d]) = (s.loop.keeper[d]).frames false 1 := by
  unfold State.keeperFrame
  rw [dif_pos d.isLt]
  exact Vector.getElem_set_self d.isLt

/-- The 4 ms of a doorway whose raw inputs meet the keeper's condition end with its view settled. -/
theorem keeperSettles_keeper (hon : s.frontOn ⟨d.val, hd⟩ = true) (hv : (s.doors[d]).inp.flags.valid = true)
    (hraw : s.loop.rawCond d (s.doors[d]).inp.raw = true) :
    (s.keeperSettles d).loop.keeper[d] = (s.loop.keeper[d]).settle := by
  unfold State.keeperSettles
  rw [if_pos (by rw [hon, hv, hraw]; rfl), evaluate_keeper]
  exact Vector.getElem_set_self d.isLt

/-- In RUN a missed frame ends the group's run of valid frames, and the loop keeper counts it (R84, R331). -/
theorem uplinkMissed_door (hon : s.frontOn ⟨d.val, hd⟩ = true) (hrun : s.power.mode = .run) :
    ((s.uplinkMissed ⟨d.val, hd⟩).doors[d]).inp = { (s.doors[d]).inp with validRun := 0 }
      ∧ (s.uplinkMissed ⟨d.val, hd⟩).loop.keeper[d] = (s.loop.keeper[d]).frames false 1 := by
  unfold State.uplinkMissed
  rw [if_neg (by rw [hon, hrun]; decide)]
  refine ⟨?_, ?_⟩
  · rw [← group_door (hd := hd), evaluate_group, keeperFrame_group, onGroup_group, group_door]
  · rw [evaluate_keeper, keeperFrame_none, onGroup_loop]

end

/-- Settles O19: the end of KEEPER_ALONE by `keeperTimesOut_alone`, the end of the 4 ms by `keeperSettles_keeper`, the missed
frame by `uplinkMissed_door`; an evaluation follows each and leaves what the keeper holds. -/
theorem loopKeeper : Obligations.LoopKeeper := by
  unfold Obligations.LoopKeeper
  intro s hf
  refine ⟨fun a ha hu => ?_, fun d hfit hv hraw => ?_, fun d hfit hrun => ?_⟩
  · exact ⟨_, rfl, (keeperTimesOut_alone s hf).trans (aloneTimeout_update ha hu)⟩
  · refine ⟨_, rfl, ?_⟩
    rw [keeperSettles_keeper (hd := by omega) (frontOn_door hf hfit) hv hraw]
    rfl
  · obtain ⟨hinp, hview⟩ := uplinkMissed_door (hd := by omega) (frontOn_door hf hfit) hrun
    obtain ⟨htrue, hopen⟩ := frames_false (s.loop.keeper[d])
    refine ⟨_, rfl, ?_, ?_, fun hsecond => ?_⟩
    · rw [hinp]
    · rw [hview, htrue]
    · rw [hview, hopen hsecond]

end Sys2Proof.Machine
end

section
/-!
The step of the block (log entries 1 and 83), and drive faults: a fault of a drive brings its doorway to FAULT (R128, R182, R219).
-/

namespace Sys2Proof.Machine

/-! ## O51: the front of the queue -/

/-- Settles O51: the two branches of `step`. -/
theorem stepTakesTheFront : Obligations.StepTakesTheFront := by
  unfold Obligations.StepTakesTheFront
  refine ⟨fun s c rest hp => ?_, fun s hp => ?_⟩
  · unfold step
    rw [hp]
  · unfold step
    rw [hp]

/-! ## O8: faults of a drive -/

/-- A doorway in FAULT for a cause, with a FAULT_CODE on its door drive or its step drive. -/
structure Doorway.Faulted (w : Doorway) (step : Bool) (c : Cause) (code : Nat) : Prop where
  state : w.sm.state = .fault
  cause : w.sm.cause = c
  code  : (if step then w.step.faultCode else w.door.faultCode) = code

theorem Doorway.Faulted.of_door {w : Work} {b : Doorway} {c : Cause} {code : Nat}
    (h : w.Is .fault .none c ∧ w.dw.door.faultCode = code) (ha : w.dw.alike b) : b.Faulted false c code :=
  ⟨(h.1.stands ha).state, (h.1.stands ha).cause, (congrArg DoorDrive.faultCode ha.door).trans h.2⟩

theorem Doorway.Faulted.of_step {w : Work} {b : Doorway} {c : Cause} {code : Nat}
    (h : w.Is .fault .none c ∧ w.dw.step.faultCode = code) (ha : w.dw.alike b) : b.Faulted true c code :=
  ⟨(h.1.stands ha).state, (h.1.stands ha).cause, (congrArg StepDrive.faultCode ha.step).trans h.2⟩

/-- R159: the register falls 20 edges under a positive q command on the first opening. -/
theorem onDirection_is {e : DoorEnv} {w : Work} (h : w.dw.Sound e) (ho : w.dw.course.1 = .opening)
    (hf : w.dw.door.flags.openedOnce = false) (hc : w.dw.door.faultCode = 0) (hq : 0 < w.dw.door.iqCmd)
    (hd : w.dw.door.hall.ticks + 1280 ≤ w.dw.door.dirHigh) :
    (onDirection e w).Is .fault .none .faultDrive ∧ (onDirection e w).dw.door.faultCode = 8 := by
  have he : onDirection e w = doorTick e (doorFault e 8 0 w) := if_pos ⟨ho, by rw [hf]; rfl, hc, hq, hd⟩
  rw [he]
  exact doorFault_is h (by decide) (by decide) (by decide)

/-- R173: seal seek beyond SEAL_SEEK_MAX. -/
theorem onSealOvertravel_is {e : DoorEnv} {w : Work} (h : w.dw.Sound e) (hs : w.dw.door.flags.sealSeek = true)
    (hd : e.cfg.sealSeekMax e.d < (w.dw.door.sealStart - doorPos e.cfg e.d w.dw.door.hall).natAbs) :
    (onSealOvertravel e w).Is .fault .none .faultDrive ∧ (onSealOvertravel e w).dw.door.faultCode = 9 := by
  have he : onSealOvertravel e w = doorTick e (doorFault e 9 0 w) := if_pos (by rw [hs, decide_eq_true hd]; rfl)
  rw [he]
  exact doorFault_is h (by decide) (by decide) (by decide)

/-- R205: the homing phase ends without a stall. -/
theorem onHomingOvertravel_is {e : DoorEnv} {w : Work} (h : w.dw.Sound e) (hd : w.dw.door.faultCode = 0)
    (hj : w.dw.step.job = .homing ∨ w.dw.step.job = .creepHoming) :
    (onHomingOvertravel e w).Is .fault .none .faultStep ∧ (onHomingOvertravel e w).dw.step.faultCode = 0x11 := by
  have he : onHomingOvertravel e w = afterStep e (stepFault e 0x11 0 w) := if_pos hj
  rw [he]
  exact stepFault_is h (by decide) hd

/-- R600, R602: a hardware trip that no spare leg takes is a trip of its drive, on a module that differs in its service part alone. -/
theorem hardwareTrip_trips (s : State) (r : DriveIx) (trip : HwTrip) (leg : Fin 4) (peak : Nat)
    (hm : trip = .desat → (s.service.brambles[pairOf (doorOf r)]).mayTake s.cfg = false) :
    ∃ v, s.hardwareTrip r trip leg peak = State.driveTrips { s with service := v } r trip peak := by
  unfold State.hardwareTrip
  by_cases ht : trip = .desat
  · rw [if_pos ht]
    unfold State.legFails
    dsimp only
    rw [if_neg (by show ¬(s.service.brambles[pairOf (doorOf r)]).mayTake s.cfg = true; rw [hm ht]; decide), leg_of, ht]
    exact ⟨_, rfl⟩
  · rw [if_neg ht]
    exact ⟨s.service, rfl⟩

theorem hardwareTrip_faults {s : State} {r : DriveIx} {trip : HwTrip} {leg : Fin 4} {peak : Nat} (hr : s.leafRuns (doorOf r) = true)
    (hs : (s.doors[doorOf r]).Sound (s.doorEnv (doorOf r))) (hd : (s.doors[doorOf r]).door.faultCode = 0)
    (hst : (s.doors[doorOf r]).step.faultCode = 0)
    (hm : trip = .desat → (s.service.brambles[pairOf (doorOf r)]).mayTake s.cfg = false) :
    ((s.hardwareTrip r trip leg peak).doors[doorOf r]).Faulted (isStep r) (if isStep r then .faultStep else .faultDrive)
      (tripCode trip) := by
  obtain ⟨v, hv⟩ := hardwareTrip_trips s r trip leg peak hm
  rw [hv]
  obtain ⟨hstate, hcause, hcode⟩ := State.driveTrips_is { s with service := v } r trip peak hr hs hd hst
  exact ⟨hstate, hcause, hcode⟩

/-- Settles O8: each fault at the engine (`onHallFault_is` to `onHomingOvertravel_is`), and every trip by `hardwareTrip_faults`. -/
theorem driveTripsBringFault : Obligations.DriveTripsBringFault := by
  unfold Obligations.DriveTripsBringFault
  refine ⟨fun s d hr hw hdis heeh heea h1 h2 h3 hdoor hstep => ?_,
    fun s r trip leg peak hf hr hw hdis heeh heea h1 h2 h3 hdoor hstep hm => ?_⟩
  · have hs : (s.doors[d]).Sound (s.doorEnv d) := ⟨hw, hdis, heeh, heea, h1, h2, h3⟩
    refine ⟨?_, ?_, fun ho hn hq hk => ?_, fun hseek hmax => ?_, fun hf hj => ?_⟩
    · have h := Doorway.Faulted.of_door (onHallFault_is (w := ⟨s.doors[d], []⟩) hs (.inl rfl) hdoor)
        (s.atDoor_own d (fun e => onHallFault e 6) hw.fitted hr)
      exact ⟨_, rfl, h.state, h.cause, h.code⟩
    · have h := Doorway.Faulted.of_door (onHallFault_is (w := ⟨s.doors[d], []⟩) hs (.inr rfl) hdoor)
        (s.atDoor_own d (fun e => onHallFault e 7) hw.fitted hr)
      exact ⟨_, rfl, h.state, h.cause, h.code⟩
    · have h := Doorway.Faulted.of_door (onDirection_is (w := ⟨s.doors[d], []⟩) hs ho hn hdoor hq hk)
        (s.atDoor_own d onDirection hw.fitted hr)
      exact ⟨_, rfl, h.state, h.cause, h.code⟩
    · have h := Doorway.Faulted.of_door (onSealOvertravel_is (w := ⟨s.doors[d], []⟩) hs hseek hmax)
        (s.atDoor_own d onSealOvertravel hw.fitted hr)
      exact ⟨_, rfl, h.state, h.cause, h.code⟩
    · have h := Doorway.Faulted.of_step (onHomingOvertravel_is (w := ⟨s.doors[d], []⟩) hs hdoor hj)
        (s.atStep_own d onHomingOvertravel hf hr)
      exact ⟨_, rfl, h.state, h.cause, h.code⟩
  · have h := hardwareTrip_faults (leg := leg) (peak := peak) hr ⟨hw, hdis, heeh, heea, h1, h2, h3⟩ hdoor hstep hm
    exact ⟨_, congrArg Host.Outcome.next (if_pos hf), h.state, h.cause, h.code⟩

end Sys2Proof.Machine
end

section
/-!
Interruptions of a drive (R127, R163, R164, R180): the doorway stops with cause 0x24 and the drive keeps the cause; and the end of a
cause, which takes away that cause alone (R658).
-/

namespace Sys2Proof.Machine

/-! ## One drive of a doorway -/

/-- The generator of a doorway's step drive or door drive. -/
def Doorway.genOf (w : Doorway) (step : Bool) : Gen := if step then w.step.gen else w.door.gen

/-- THERMAL_HOLD of a doorway's step drive or door drive. -/
def Doorway.heldOf (w : Doorway) (step : Bool) : Bool := if step then w.step.flags.thermalHold else w.door.flags.thermalHold

/-- The bridge temperature of a doorway's step drive or door drive. -/
def Doorway.tempOf (w : Doorway) (step : Bool) : Int := if step then w.step.bridgeTemp else w.door.bridgeTemp

theorem State.gen_eq (s : State) (r : DriveIx) : s.gen r = (s.doors[doorOf r]).genOf (isStep r) := rfl

/-- Quince's latches leave a drive's state, the causes that hold it, THERMAL_HOLD and the bridge temperature. -/
theorem Doorway.alike.drive {a b : Doorway} (h : a.alike b) (step : Bool) : (b.genOf step).state = (a.genOf step).state
    ∧ (b.genOf step).stops = (a.genOf step).stops ∧ b.heldOf step = a.heldOf step ∧ b.tempOf step = a.tempOf step := by
  cases step with
  | false =>
    have hd := h.door
    exact ⟨congrArg (fun q => q.gen.state) hd, congrArg (fun q => q.gen.stops) hd, congrArg (fun q => q.flags.thermalHold) hd,
      congrArg (fun q => q.bridgeTemp) hd⟩
  | true =>
    have hs := h.step
    exact ⟨congrArg (fun q => q.gen.state) hs, congrArg (fun q => q.gen.stops) hs, congrArg (fun q => q.flags.thermalHold) hs,
      congrArg (fun q => q.bridgeTemp) hs⟩

/-! ## The stop -/

/-- An interruption of a drive has stopped the doorway, and its cause is among those that hold the drive (R127). -/
structure Doorway.Interrupted (w : Doorway) (step : Bool) (x : Interruption) : Prop where
  state : w.sm.state = .stopped
  cause : w.sm.cause = .stopDriveInterrupted
  drive : (w.genOf step).state = .stoppedMid
  holds : x ∈ (w.genOf step).stops

theorem Doorway.Interrupted.alike {a b : Doorway} {step : Bool} {x : Interruption} (h : a.Interrupted step x) (ha : a.alike b) :
    b.Interrupted step x := by
  obtain ⟨hstate, hstops, -, -⟩ := ha.drive step
  exact ⟨(congrArg DoorSm.state ha.sm).trans h.state, (congrArg DoorSm.cause ha.sm).trans h.cause, hstate.trans h.drive,
    hstops ▸ h.holds⟩

section
variable {e : DoorEnv} {w : Work} {st : DoorState} {ph : Phase} {c : Cause}

/-- An interruption of a moving drive, whichever of the doorway's two it is. -/
theorem onInterruption_stops (hc : w.dw.Calm e) (h : w.At st ph c) (hq : stopsHere st ph = true) (step : Bool) (x : Interruption)
    (hm : (w.dw.genOf step).state = .moving) : (onInterruption e step x w).dw.Interrupted step x
      ∧ (x = .temperature → (onInterruption e step x w).dw.heldOf step = true)
      ∧ (onInterruption e step x w).dw.tempOf step = w.dw.tempOf step := by
  cases step with
  | false =>
    obtain ⟨his, hmid, hin, -, hheld, htemp, -⟩ := onInterruption_door hc h hq x hm
    exact ⟨⟨his.state, his.cause, hmid, hin⟩, hheld, htemp⟩
  | true =>
    obtain ⟨his, hmid, hin, hheld, htemp⟩ := onInterruption_step hc h hq x hm
    exact ⟨⟨his.state, his.cause, hmid, hin⟩, hheld, htemp⟩

/-- A bridge temperature is measured. -/
def Work.measures (w : Work) (step : Bool) (temp : Int) : Work :=
  if step then w.step (fun q => { q with bridgeTemp := temp }) else w.door (fun q => { q with bridgeTemp := temp })

/-- A measurement leaves all but the temperature that it brings. -/
theorem Work.measures_leaves (w : Work) (step : Bool) (temp : Int) : (w.measures step temp).dw.genOf step = w.dw.genOf step
    ∧ (w.measures step temp).dw.heldOf step = w.dw.heldOf step ∧ (w.measures step temp).dw.tempOf step = temp
    ∧ (w.measures step temp).dw.sm = w.dw.sm ∧ (w.measures step temp).dw.step.job = w.dw.step.job := by
  cases step <;> exact ⟨rfl, rfl, rfl, rfl, rfl⟩

theorem Doorway.Calm.measures (hc : w.dw.Calm e) (step : Bool) (temp : Int) : (w.measures step temp).dw.Calm e := by
  cases step <;> exact hc.of_parts rfl rfl rfl rfl rfl rfl rfl rfl

/-- R163: the bridge of a moving drive reaches 125 °C. -/
theorem onThermal_stops (hc : w.dw.Calm e) (h : w.At st ph c) (hq : stopsHere st ph = true) (step : Bool) {temp : Int}
    (hm : (w.dw.genOf step).state = .moving) (ht : 1250 ≤ temp) (hh : w.dw.heldOf step = false) :
    (onThermal e step temp w).dw.Interrupted step .temperature ∧ (onThermal e step temp w).dw.heldOf step = true
      ∧ (onThermal e step temp w).dw.tempOf step = temp := by
  obtain ⟨hgen, hheld, htemp, hsm, -⟩ := w.measures_leaves step temp
  have he : onThermal e step temp w = onInterruption e step .temperature (w.measures step temp) := by
    have hf : (w.measures step temp).dw.heldOf step = false := hheld.trans hh
    exact if_pos ⟨ht, congrArg (!·) hf⟩
  rw [he]
  obtain ⟨hint, hset, hkeeps⟩ := onInterruption_stops (hc.measures step temp) (h.of_sm hsm) hq step .temperature
    (by rw [hgen]; exact hm)
  exact ⟨hint, hset rfl, hkeeps.trans htemp⟩

/-- R164: a following error beyond FOLLOW_ERR_MAX outside seal seek. -/
theorem onFollowing_stops (hc : w.dw.Calm e) (h : w.At st ph c) (hq : stopsHere st ph = true) (hm : w.dw.door.gen.state = .moving)
    (hs : w.dw.door.flags.sealSeek = false)
    (hf : e.cfg.followErrMax e.d < (w.dw.door.gen.ref.pos - doorPos e.cfg e.d w.dw.door.hall).natAbs) :
    (onFollowing e w).dw.Interrupted false .following ∧ (onFollowing e w).dw.door.flags.followError = true := by
  have hlock : w.dw.course ≠ (.closing, .lock) := by
    rw [course_own hc.own.2.2.2, h.state, h.phase]
    rintro ⟨⟩
    exact absurd hq (by decide)
  have he : onFollowing e w = onInterruption e false .following w := if_pos ⟨hm, by rw [hs]; rfl, hlock, hf⟩
  rw [he]
  obtain ⟨-, -, -, herror, -⟩ := onInterruption_door hc h hq .following hm
  exact ⟨(onInterruption_stops hc h hq false .following hm).1, herror rfl⟩

/-- R181: a suspect position leaves the door drive's state, the causes that hold it and HALL_DROPOUT. -/
theorem hallSuspect_drive (e : DoorEnv) (w : Work) : ((hallSuspect e w).dw.genOf false).state = (w.dw.genOf false).state
    ∧ ((hallSuspect e w).dw.genOf false).stops = (w.dw.genOf false).stops
    ∧ (hallSuspect e w).dw.door.flags.hallDropout = w.dw.door.flags.hallDropout := by
  unfold hallSuspect
  split
  · exact ⟨rfl, rfl, rfl⟩
  · unfold markSuspect
    split <;> exact ⟨rfl, rfl, rfl⟩

/-- R180: an invalid Hall code under a moving door drive, however it returns. -/
theorem onHallDropout_stops (hc : w.dw.Calm e) (h : w.At st ph c) (hq : stopsHere st ph = true) (hm : w.dw.door.gen.state = .moving)
    (consistent : Bool) (after : Nat) : (onHallDropout e consistent after w).dw.Interrupted false .hall
      ∧ (onHallDropout e consistent after w).dw.door.flags.hallDropout = true := by
  unfold onHallDropout
  extract_lets v u
  have hu : u = onInterruption e false .hall v := if_pos (by rw [show v.dw.door.gen.state = .moving from hm]; rfl)
  have hcv : v.dw.Calm e := hc.of_parts rfl rfl rfl rfl rfl rfl rfl rfl
  have hat : v.At st ph c := h.of_sm rfl
  have hint := (onInterruption_stops hcv hat hq false .hall hm).1
  obtain ⟨-, -, -, -, -, -, hdrop⟩ := onInterruption_door hcv hat hq .hall hm
  rw [← hu] at hint hdrop
  split
  · exact ⟨hint, hdrop⟩
  · obtain ⟨hstate, hstops, hflag⟩ := hallSuspect_drive e u
    refine ⟨⟨?_, ?_, hstate.trans hint.drive, hstops ▸ hint.holds⟩, hflag.trans hdrop⟩
    · rw [hallSuspect_sm]
      exact hint.state
    · rw [hallSuspect_sm]
      exact hint.cause

end

/-! ## The end of a cause -/

theorem Gen.interruptionEnds_stops (g : Gen) (e : GenEnv) (x : Interruption) :
    (g.interruptionEnds e x).stops = g.stops.filter (· != x) := by
  unfold Gen.interruptionEnds
  dsimp only
  split <;> rfl

/-- R658: the end of a cause at a doorway whose step drive has no job: a cause seen to have ended is taken away, any other stays. -/
theorem onInterruptionEnd_drive (e : DoorEnv) (step : Bool) (x : Interruption) (w : Work) (hj : step = true → w.dw.step.job = .none) :
    ((onInterruptionEnd e step x w).dw.genOf step).stops
        = (if causeEnds e step x w.dw then (w.dw.genOf step).stops.filter (· != x) else (w.dw.genOf step).stops)
      ∧ (causeEnds e step x w.dw = true → x = .temperature → (onInterruptionEnd e step x w).dw.heldOf step = false)
      ∧ (onInterruptionEnd e step x w).dw.tempOf step = w.dw.tempOf step := by
  rw [onEnd_is e step x w hj]
  cases causeEnds e step x w.dw with
  | false => exact ⟨rfl, nofun, rfl⟩
  | true =>
    cases step with
    | false => exact ⟨Gen.interruptionEnds_stops _ _ _, fun _ hx => if_pos hx, rfl⟩
    | true => exact ⟨Gen.interruptionEnds_stops _ _ _, fun _ hx => if_pos hx, rfl⟩

/-- Whether a cause is seen to have ended does not hang on Quince's latches. -/
theorem causeEnds_alike {e f : DoorEnv} {a b : Doorway} (ha : a.alike b) (hc : f.cfg = e.cfg) (hd : f.d = e.d) (step : Bool)
    (x : Interruption) : causeEnds f step x b = causeEnds e step x a := by
  have hhall : b.door.hall = a.door.hall := congrArg (fun q => q.hall) ha.door
  obtain ⟨-, -, -, htemp⟩ := ha.drive step
  cases x with
  | temperature => exact congrArg (fun t : Int => decide (t < 1100)) htemp
  | following => exact congrArg (fun h : Hall => decide (h.velocity.natAbs < 1000)) hhall
  | hall =>
    show (sectorOf (f.cfg.hallSequence f.d) b.door.hall.code).isSome = _
    rw [hc, hd, hhall]
    rfl
  | dcLow => rfl
  | dcHigh => rfl
  | legSubstitution => rfl

/-- R182: with the DC link back in range the row of its fault ends. -/
def State.linkRowEnds (s : State) : Interruption → State
  | .dcLow => s.setLevel 59 false
  | .dcHigh => s.setLevel 60 false
  | .temperature | .following | .hall | .legSubstitution => s

theorem interruptionEnds_eq (s : State) (r : DriveIx) (x : Interruption) :
    s.interruptionEnds r x = (s.linkRowEnds x).atDrive r (fun e w => onInterruptionEnd e (isStep r) x w) := by
  cases x <;> rfl

/-- The end of such a row leaves every doorway alike, the configuration, the domains and the engines. -/
theorem linkRowEnds_keeps (s : State) (x : Interruption) : s.alike (s.linkRowEnds x)
    ∧ Keeps [.doors, .quince, .fcp, .log] s (s.linkRowEnds x) := by
  cases x with
  | dcLow => exact ⟨State.setLevel_alike s 59 (by decide) false, State.setLevel_keeps (Within.refl _) (Keeps.refl _ s) 59 false⟩
  | dcHigh => exact ⟨State.setLevel_alike s 60 (by decide) false, State.setLevel_keeps (Within.refl _) (Keeps.refl _ s) 60 false⟩
  | temperature => exact ⟨s.alike_refl, Keeps.refl _ s⟩
  | following => exact ⟨s.alike_refl, Keeps.refl _ s⟩
  | hall => exact ⟨s.alike_refl, Keeps.refl _ s⟩
  | legSubstitution => exact ⟨s.alike_refl, Keeps.refl _ s⟩

section
variable {s : State} {r : DriveIx}

/-- The end of a cause at a module: the causes that hold the drive afterwards. -/
theorem interruptionEnds_stops (hf : s.cfg.driveFitted r = true) (hr : s.leafRuns (doorOf r) = true)
    (hj : isStep r = true → (s.doors[doorOf r]).step.job = .none) (x : Interruption) : ((s.interruptionEnds r x).gen r).stops
      = (if causeEnds (s.doorEnv (doorOf r)) (isStep r) x s.doors[doorOf r] then (s.gen r).stops.filter (· != x)
        else (s.gen r).stops) := by
  rw [interruptionEnds_eq]
  obtain ⟨halike, hkeeps⟩ := linkRowEnds_keeps s x
  generalize s.linkRowEnds x = u at halike hkeeps ⊢
  have ha := halike (doorOf r)
  have hcfg : u.cfg = s.cfg := congrArg ConfigStore.cfg (hkeeps.only .config (by decide))
  have hru : u.leafRuns (doorOf r) = true := by
    unfold State.leafRuns at hr ⊢
    rw [hkeeps.only .power (by decide), hkeeps.only .engines (by decide)]
    exact hr
  have hown := u.atDrive_own r (fun e w => onInterruptionEnd e (isStep r) x w) (by rw [hcfg]; exact hf) hru
  obtain ⟨-, hstops, -, -⟩ := hown.drive (isStep r)
  obtain ⟨hend, -, -⟩ := onInterruptionEnd_drive (u.doorEnv (doorOf r)) (isStep r) x ⟨u.doors[doorOf r], []⟩
    (fun h => (congrArg StepDrive.job ha.step).trans (hj h))
  obtain ⟨-, hsame, -, -⟩ := ha.drive (isStep r)
  have hcause := causeEnds_alike (e := s.doorEnv (doorOf r)) (f := u.doorEnv (doorOf r)) ha hcfg rfl (isStep r) x
  rw [State.gen_eq, State.gen_eq, hstops, hend, hcause, hsame]

/-- R163: a bridge below 110 °C. -/
theorem thermalClear_drive (hf : s.cfg.driveFitted r = true) (hr : s.leafRuns (doorOf r) = true)
    (hj : isStep r = true → (s.doors[doorOf r]).step.job = .none) {temp : Int} (ht : temp < 1100) :
    .temperature ∉ ((s.atDrive r (fun e => onThermalClear e (isStep r) temp)).gen r).stops
      ∧ ((s.atDrive r (fun e => onThermalClear e (isStep r) temp)).doors[doorOf r]).heldOf (isStep r) = false
      ∧ ((s.atDrive r (fun e => onThermalClear e (isStep r) temp)).doors[doorOf r]).tempOf (isStep r) = temp := by
  have hown := s.atDrive_own r (fun e => onThermalClear e (isStep r) temp) hf hr
  obtain ⟨-, hstops, hheld, htemp⟩ := hown.drive (isStep r)
  obtain ⟨-, -, hmeasured, -, hjob⟩ := Work.measures_leaves ⟨s.doors[doorOf r], []⟩ (isStep r) temp
  obtain ⟨hend, hclear, hkeeps⟩ := onInterruptionEnd_drive (s.doorEnv (doorOf r)) (isStep r) .temperature
    (Work.measures ⟨s.doors[doorOf r], []⟩ (isStep r) temp) (fun h => hjob.trans (hj h))
  have hcool : causeEnds (s.doorEnv (doorOf r)) (isStep r) .temperature
      (Work.measures ⟨s.doors[doorOf r], []⟩ (isStep r) temp).dw = true := by
    show decide ((Work.measures ⟨s.doors[doorOf r], []⟩ (isStep r) temp).dw.tempOf (isStep r) < 1100) = true
    rw [hmeasured]
    exact decide_eq_true ht
  rw [hcool, if_pos rfl] at hend
  refine ⟨?_, hheld.trans (hclear hcool rfl), htemp.trans (hkeeps.trans hmeasured)⟩
  rw [State.gen_eq, hstops]
  exact hend ▸ filter_gone

end

/-- Settles O9: the interruptions at the engine by `onInterruption_stops` to `onHallDropout_stops`, the ends of causes by
`interruptionEnds_stops` and `thermalClear_drive`. -/
theorem interruptionsStopAndEnd : Obligations.InterruptionsStopAndEnd := by
  unfold Obligations.InterruptionsStopAndEnd
  refine ⟨fun s d hr hw he hcourse => ?_, fun s r hf hr hj => ⟨fun x hx => ?_, fun x hx => ?_, fun temp ht => ?_⟩⟩
  · have hat := at_of (w := s.doors[d]) rfl rfl he
    have hq := stopsHere_of hcourse
    refine ⟨fun r x hd hf hm => ?_, fun r temp hd hf hm ht hh => ?_, fun hm => ⟨fun hs hmax => ?_, fun consistent after => ?_⟩⟩
    · subst hd
      have h := (onInterruption_stops hw hat hq (isStep r) x hm).1.alike
        (s.atDrive_own r (fun e w => onInterruption e (isStep r) x w) hf hr)
      exact ⟨_, rfl, h.state, h.cause, h.drive, h.holds⟩
    · subst hd
      have hown := s.atDrive_own r (fun e => onThermal e (isStep r) temp) hf hr
      obtain ⟨hint, hheld, htemp⟩ := onThermal_stops hw hat hq (isStep r) hm ht hh
      have h := hint.alike hown
      obtain ⟨-, -, hheld', htemp'⟩ := hown.drive (isStep r)
      exact ⟨_, rfl, h.state, h.cause, h.drive, h.holds, hheld'.trans hheld, htemp'.trans htemp⟩
    · have hown := s.atDoor_own d onFollowing hw.fitted hr
      obtain ⟨hint, herror⟩ := onFollowing_stops hw hat hq hm hs hmax
      have h := hint.alike hown
      exact ⟨_, rfl, h.state, h.cause, h.drive, h.holds, (congrArg (fun q => q.flags.followError) hown.door).trans herror⟩
    · have hown := s.atDoor_own d (fun e => onHallDropout e consistent after) hw.fitted hr
      obtain ⟨hint, hdrop⟩ := onHallDropout_stops hw hat hq hm consistent after
      have h := hint.alike hown
      exact ⟨_, rfl, h.state, h.cause, h.drive, h.holds, (congrArg (fun q => q.flags.hallDropout) hown.door).trans hdrop⟩
  · have hstops := interruptionEnds_stops hf hr hj x
    rw [hx, if_pos rfl] at hstops
    exact ⟨_, rfl, hstops ▸ filter_gone, fun y hne hy => hstops ▸ filter_stays hne hy⟩
  · have hstops := interruptionEnds_stops hf hr hj x
    rw [hx, if_neg Bool.false_ne_true] at hstops
    exact ⟨_, rfl, hstops⟩
  · exact ⟨_, rfl, thermalClear_drive hf hr hj ht⟩

end Sys2Proof.Machine
end

section
/-!
Ends of the step drive's motions at a doorway that is calm but for them (chapter 5), and the ends of its stops and paths (R109, R125).
-/

namespace Sys2Proof.Machine

section
variable {s : State} {d : DoorIx}

/-- R206: the end of a park; no entry to a power mode waits for it at a still doorway. -/
theorem parkEnds_eq (hn : s.power.entry = none) : s.parkEnds d = s.atStep d onParkComplete := by
  unfold State.parkEnds State.entryChecks
  have hp : (s.atStep d onParkComplete).power = s.power :=
    (State.atStep_keeps (Within.refl _) (Keeps.refl _ s) d onParkComplete).only .power (by decide)
  rw [hp, hn]

theorem Doorway.Still.noEntry {w : Doorway} (h : w.Still (s.doorEnv d)) : s.power.entry = none :=
  Option.isNone_iff_eq_none.mp (Option.isSome_eq_false_iff.mp h.notEntering)

/-- R109: the path of a running park ends as the park does. -/
theorem onStepPathEnds_park {e : DoorEnv} {w : Work} (hm : w.dw.step.gen.state = .moving) (hs : w.dw.step.gen.stopping = false)
    (hj : w.dw.step.job = .parking) : onStepPathEnds e w = onParkComplete e w := by
  have hp : stepPathEnds e w = finishPark e w := by
    unfold stepPathEnds
    rw [hj]
  unfold onStepPathEnds onParkComplete
  rw [if_neg (by rw [hm, hs]; decide), hp, if_pos hj]

/-- R109: the end of a path at a step drive whose doorway is still. -/
theorem pathEnds_step (hr : s.leafRuns d = true) (hf : s.cfg.driveFitted (stepDrive d) = true) (hn : s.power.entry = none) :
    (onStepPathEnds (s.doorEnv d) ⟨s.doors[d], []⟩).dw.alike (s.pathEnds (stepDrive d)).doors[d] := by
  obtain ⟨-, -, hd, hi⟩ := doorOf_door d
  rw [pathEnds_eq s _ hn]
  exact atDrive_owned s (stepDrive d) d _ onStepPathEnds hd (by rw [hi]; rfl) hf hr

/-- R125: the end of a stop at a step drive. -/
theorem stopEnds_step (hr : s.leafRuns d = true) (hf : s.cfg.driveFitted (stepDrive d) = true) :
    (onStepStopped ⟨s.doors[d], []⟩).dw.alike (s.stopEnds (stepDrive d)).doors[d] := by
  obtain ⟨-, -, hd, hi⟩ := doorOf_door d
  exact atDrive_owned s (stepDrive d) d _ (fun _ => onStepStopped) hd (by rw [hi]; rfl) hf hr

end

/-- Settles O12: the rows of `StepMotions`, and the ends of paths and stops by `pathEnds_step` and `stopEnds_step`. -/
theorem stepMotionsEndAsTheSpecSays : Obligations.StepMotionsEndAsTheSpecSays := by
  unfold Obligations.StepMotionsEndAsTheSpecSays
  refine ⟨fun s d hr hf he hw => ⟨fun hs ho => ⟨fun hj => ?_, fun hj hsds hfail hlost hpos => ?_⟩,
      fun hq => ⟨fun hj ht => ?_, fun onset hj hm hmarks honset hseen => ?_, fun n x hj hrole hrel => ?_⟩, fun hon hsds hdep => ?_⟩,
    fun s d hr hf hm => ⟨fun p hp hstop => ?_, fun hw he hq hns hj ht => ?_⟩⟩
  · obtain ⟨hpos, hmade, hopen⟩ := onDeployComplete_is hw (at_of hs rfl he) ho hj
    obtain ⟨spos, sjob, -, -, -, sdep, -⟩ := stepBare_fields (s.atStep_own d onDeployComplete hf hr).step
    exact ⟨_, rfl, spos.trans hpos, fun h => ⟨sjob.trans (hmade h).1, sdep.trans (hmade h).2⟩, fun h => sjob.trans (hopen h)⟩
  · obtain ⟨hfails, hthen, hstate⟩ := onSdsTimeout_first hw (at_of hs rfl he) ho hj hsds hfail hlost hpos
    have ha := s.atStep_own d onSdsTimeout hf hr
    obtain ⟨-, -, sthen, -, -, -, -, sfails, -⟩ := stepBare_fields ha.step
    exact ⟨_, rfl, sfails.trans hfails, sthen.trans hthen, (congrArg DoorSm.state ha.sm).trans hstate⟩
  · obtain ⟨hhomed, hjob, hpos, hcount⟩ := onParkComplete_is hw (at_of rfl rfl he) hq hj ht
    obtain ⟨spos, sjob, -, -, shomed, -, -, -, -, scount⟩ := stepBare_fields (s.atStep_own d onParkComplete hf hr).step
    rw [← parkEnds_eq hw.noEntry] at spos sjob shomed scount
    exact ⟨_, rfl, shomed.trans hhomed, sjob.trans hjob, spos.trans hpos, (congrArg StepCounters.homings scount).trans hcount⟩
  · obtain ⟨hjob, hpos, hshift⟩ := onStall_homing hmarks honset hw (at_of rfl rfl he) hq hj hm hseen
    obtain ⟨spos, sjob, -, -, -, -, -, -, sshift, -⟩ := stepBare_fields (s.atStep_own d (fun e => onStallReport e onset) hf hr).step
    exact ⟨_, rfl, sjob.trans hjob, spos.trans hpos, sshift.trans hshift⟩
  · obtain ⟨hjob, hstart, hhomed⟩ := onRetryPauseEnd_is hw (at_of rfl rfl he) hq hj hrole hrel
    obtain ⟨-, sjob, -, srun, shomed, -⟩ := stepBare_fields (s.atStep_own d onRetryPauseEnd hf hr).step
    exact ⟨_, rfl, sjob.trans hjob, (congrArg HomingRun.startedAt srun).trans hstart, shomed.trans hhomed⟩
  · obtain ⟨hdeployed, hlost⟩ := onSdsLost_is (e := s.doorEnv d) (w := ⟨s.doors[d], []⟩) hsds hdep
    have ha := s.doorInput_own d onSdsLost hon hw.fitted hw.valid hr
    obtain ⟨-, -, -, -, -, sdep, slost, -⟩ := stepBare_fields ha.step
    have hinput := setInput_own (s.doorEnv d) 10 false ⟨s.doors[d], []⟩ (by decide)
    exact ⟨_, rfl, (congrArg (fun q => q.filtered.getLsbD 10) ha.inp).trans hinput, sdep.trans hdeployed, slost.trans hlost⟩
  · obtain ⟨hsm, hstate, hpos⟩ := onStepStopped_is (w := ⟨s.doors[d], []⟩) hm hp hstop
    have ha := stopEnds_step hr hf
    obtain ⟨spos, -, sstate, -⟩ := stepBare_gen ha.step
    exact ⟨_, rfl, sstate.trans hstate, spos.trans hpos, ha.sm.trans hsm⟩
  · obtain ⟨hhomed, hjob, hpos, -⟩ := onParkComplete_is hw (at_of rfl rfl he) hq hj ht
    have ha := pathEnds_step hr hf hw.noEntry
    rw [onStepPathEnds_park hm hns hj] at ha
    obtain ⟨spos, sjob, -, -, shomed, -⟩ := stepBare_fields ha.step
    exact ⟨_, rfl, shomed.trans hhomed, sjob.trans hjob, spos.trans hpos⟩

end Sys2Proof.Machine
end

section
/-!
MOVE_TO, COMPARE_SET and PROFILE_WRITE from the session that commands the doorway (R137, R138, R143 to R145).
-/

namespace Sys2Proof.Machine

theorem driveOfNat_val (r : DriveIx) : driveOfNat r.val = r := Fin.ext (Nat.mod_eq_of_lt r.isLt)

/-- The generators are parts of the doorways. -/
theorem gen_of_doors {s t : State} (h : t.doors = s.doors) (r : DriveIx) : t.gen r = s.gen r := by
  unfold State.gen
  rw [h]

section
variable {s u : State} {h : Hdr} {i : SessIx} {d : DoorIx} {q : Req} {c : Instr} {p : List Byte}

/-- A packet that acts on the state and is answered at once: the doorways and the configuration are those of the action. -/
theorem answers_leave {a : Answer} (hc : hosted c = some (h, q)) (k : s.Admits h i q) (ho : q.opcode ≠ 0x0101)
    (hq : q.act h i (s.admitted h i) = u.answers a) :
    ∃ t, exec c s = .next t ∧ t.Answered i h q a ∧ t.doors = u.doors ∧ t.config = u.config := by
  obtain ⟨hrec, hans⟩ := k.answers ho hq
  have hconfig : (u.answerStored h i q a).config = u.config := by rw [(u.answerStored_only h i q a ho).1]
  exact ⟨_, (hosted_exec hc s).trans (congrArg _ hrec), hans, stored_doors u h i q a ho, hconfig⟩

section
variable {refuse : State → DoorEnv → Doorway → Option Nat} {go : State → Reply}

/-- A doorway-bound command that its doorway refuses (Table 9.6). -/
theorem State.Reaches.refuses (k : s.Reaches h i q d) {r : Nat} (hr : refuse (s.admitted h i) (s.doorEnv d) s.doors[d] = some r) :
    (s.admitted h i).oneDoor h i d refuse go = (s.admitted h i).answers (Answer.refused r) := by
  have hone := oneDoor_refused (go := go) k.own hr
  rwa [doorOfNat_val] at hone

/-- A doorway-bound command that its doorway carries out. -/
theorem State.Reaches.carries (k : s.Reaches h i q d) (hr : refuse (s.admitted h i) (s.doorEnv d) s.doors[d] = none) :
    (s.admitted h i).oneDoor h i d refuse go = go (s.admitted h i) := by
  have hone := oneDoor_goes (go := go) k.own hr
  rwa [doorOfNat_val] at hone

end

/-! ## MOVE_TO -/

/-- R138: a MOVE_TO that nothing refuses finds its doorway in OPENING or OPEN. -/
theorem refuseMove_state {e : DoorEnv} {w : Doorway} {mode : Nat} {target : Int} (hr : refuseMove mode target e w = none) :
    w.sm.state = .opening ∨ w.sm.state = .opened := by
  refine Decidable.byContradiction fun hn => ?_
  have hs := not_or.mp hn
  unfold refuseMove at hr
  extract_lets t fixed at hr
  by_cases hf : w.door.gen.state = .fault
  · rw [if_pos hf] at hr
    exact nomatch hr
  · rw [if_neg hf, if_pos hs] at hr
    exact nomatch hr

section
variable {mode speed : Nat} {target : Int}

theorem moveTo_refused (k : s.Reaches h i q d) {r : Nat} (hr : refuseMove mode target (s.doorEnv d) s.doors[d] = some r) :
    (Req.moveTo p (doorDrive d).val mode target speed).act h i (s.admitted h i) = (s.admitted h i).answers (Answer.refused r) := by
  obtain ⟨hd, hi, -, -⟩ := doorOf_door d
  unfold Req.moveTo Req.doorway Req.plain
  simp only [driveOfNat_val, hd, hi]
  rw [if_neg (Nat.not_le.mpr (doorDrive d).isLt)]
  exact k.refuses ((if_neg Bool.false_ne_true).trans hr)

theorem moveTo_accepted (k : s.Reaches h i q d) (hr : refuseMove mode target (s.doorEnv d) s.doors[d] = none) :
    ∃ parts, (Req.moveTo p (doorDrive d).val mode target speed).act h i (s.admitted h i)
      = (s.admitted h i).accepts i 0x0401 (.moveTo (doorDrive d)) parts
          (fun n t => (t.supersedeMove (doorDrive d) n).runDoor d (fun e w => startMove e mode target speed w)) := by
  obtain ⟨hd, hi, -, -⟩ := doorOf_door d
  unfold Req.moveTo Req.doorway Req.plain
  simp only [driveOfNat_val, hd, hi]
  rw [if_neg (Nat.not_le.mpr (doorDrive d).isLt)]
  exact ⟨_, k.carries ((if_neg Bool.false_ne_true).trans hr)⟩

/-- R139: an accepted MOVE_TO moves the door drive to its target in OPENING. -/
theorem moveTo_moves (k : s.Reaches h i (Req.moveTo p (doorDrive d).val mode target speed) d)
    (hc : hosted c = some (h, Req.moveTo p (doorDrive d).val mode target speed))
    (hr : refuseMove mode target (s.doorEnv d) s.doors[d] = none) (hx : s.exhausted i = false) :
    ∃ t, exec c s = .next t
      ∧ t.Answered i h (Req.moveTo p (doorDrive d).val mode target speed) (Answer.accepted s.fcp.nextHandle)
      ∧ (t.doors[d]).sm.state = .opening ∧ (t.doors[d]).door.gen.state = .moving
      ∧ (t.doors[d]).door.gen.target = moveTarget (s.doorEnv d) s.doors[d] mode target
      ∧ (t.doors[d]).sm.flags.openComplete = false := by
  obtain ⟨parts, hact⟩ := moveTo_accepted (p := p) (speed := speed) k hr
  obtain ⟨hans, hown⟩ := accepts_runs k.toAdmits nofun (run := fun _ e w => startMove e mode target speed w)
    (pre := fun n u => u.supersedeMove (doorDrive d) n) (fin := fun _ u => u) (fun n u => supersede_ok _ n u)
    (fun _ _ => ⟨.refl _, rfl⟩) hact hx k.runs
  obtain ⟨hstate, hmoving, htarget, hopen⟩ := startMove_out (s.doorEnv d) mode target speed ⟨s.doors[d], []⟩ (refuseMove_state hr)
  exact ⟨_, hosted_exec hc s, hans, (congrArg DoorSm.state hown.sm).trans hstate,
    (congrArg (fun b => b.gen.state) hown.door).trans hmoving, (congrArg (fun b => b.gen.target) hown.door).trans htarget,
    (congrArg (fun m => m.flags.openComplete) hown.sm).trans hopen⟩

end

/-! ## COMPARE_SET -/

section
variable {drive mode direction actions hyst : Nat} {position : Int}

/-- R145: the values that COMPARE_SET refuses with 0x75. -/
def compareOutside (c : Cfg) (r : DriveIx) (mode direction : Nat) (position : Int) : Prop :=
  3 ≤ mode ∨ 3 ≤ direction ∨ position < c.softMin r ∨ c.softMax r < position

theorem compareSet_refused (k : s.Reaches h i q d) (hn : drive < 16) (hd : doorOf (driveOfNat drive) = d)
    (hf : s.cfg.driveFitted (driveOfNat drive) = true) (hr : compareOutside s.cfg (driveOfNat drive) mode direction position) :
    (Req.compareSet p drive mode direction actions position hyst).act h i (s.admitted h i)
      = (s.admitted h i).answers (Answer.refused 0x75) := by
  subst hd
  unfold Req.compareSet Req.doorway Req.plain
  dsimp only
  rw [if_neg (Nat.not_le.mpr hn)]
  refine k.refuses ((if_neg ?_).trans (if_pos hr))
  show ¬(!s.cfg.driveFitted (driveOfNat drive)) = true
  rw [hf]
  decide

theorem compareSet_done (k : s.Reaches h i q d) (hn : drive < 16) (hd : doorOf (driveOfNat drive) = d)
    (hf : s.cfg.driveFitted (driveOfNat drive) = true) (hr : ¬compareOutside s.cfg (driveOfNat drive) mode direction position) :
    (Req.compareSet p drive mode direction actions position hyst).act h i (s.admitted h i)
      = ((s.admitted h i).compareSet (driveOfNat drive) mode direction actions hyst position).1.answers
          (Answer.done ((s.admitted h i).compareSet (driveOfNat drive) mode direction actions hyst position).2) := by
  subst hd
  unfold Req.compareSet Req.doorway Req.plain
  dsimp only
  rw [if_neg (Nat.not_le.mpr hn)]
  refine k.carries ((if_neg ?_).trans (if_neg hr))
  show ¬(!s.cfg.driveFitted (driveOfNat drive)) = true
  rw [hf]
  decide

/-- R145: the drive's compare is as written. -/
theorem compareSet_written (s : State) (r : DriveIx) (mode direction actions hyst : Nat) (position : Int) : ∃ pos travel moving,
    ((s.compareSet r mode direction actions hyst position).1.gen r).compare
      = compareWritten r mode direction actions hyst position pos travel moving (s.gen r).compare := by
  unfold State.compareSet
  extract_lets d e w g pos vel travel x
  refine ⟨pos, travel, g.state == .moving, ?_⟩
  change _ = x
  clear_value x
  unfold State.gen
  rw [onDoor_own]
  cases isStep r <;> rfl

end

/-! ## PROFILE_WRITE -/

section
variable {n : Nat} {b : List Byte}

/-- The module with a context of the live pool replaced. -/
def State.putContext (s : State) (n : Nat) (b : List Byte) : State :=
  { s with config := { s.config with pool := poolPut s.config.pool n b } }

theorem profileWrite_refused (hn : n < 160) (ha : (assignments u.cfg).find? (fun x => x.1.val == n) = none) {reason k : Nat}
    (hr : profileRefusal u.cfg none b = some (reason, k)) :
    (Req.profileWrite p n b).act h i u = u.answers (refusedSegment reason k) := by
  show u.profileWrite h i n b = _
  unfold State.profileWrite
  simp only [ha, Option.map_none]
  rw [if_neg (Nat.not_le.mpr hn)]
  simp [hr]

/-- R143: a context that no drive is assigned. -/
theorem profileWrite_unassigned (hn : n < 160) (ha : (assignments u.cfg).find? (fun x => x.1.val == n) = none)
    (hr : profileRefusal u.cfg none b = none) :
    (Req.profileWrite p n b).act h i u = (u.putContext n b).answers (Answer.done []) := by
  show u.profileWrite h i n b = _
  unfold State.profileWrite
  simp only [ha, Option.map_none]
  rw [if_neg (Nat.not_le.mpr hn)]
  simp [hr, State.putContext]

/-- R144: a context assigned to a drive at rest of a doorway at rest. -/
theorem profileWrite_assigned {x : CtxIx} {r : DriveIx} {slot : Nat} (hn : n < 160)
    (ha : (assignments u.cfg).find? (fun x => x.1.val == n) = some (x, r, slot))
    (ho : u.own h i (2 ^ (doorOf r).val) = (u, fun _ => none)) (hm : (u.gen r).state ≠ .moving)
    (hs : (u.doors[doorOf r]).sm.state = .locked ∨ (u.doors[doorOf r]).sm.state = .released ∨ (u.doors[doorOf r]).sm.state = .isolated)
    (hr : profileRefusal u.cfg (some (r, slot)) b = none) :
    (Req.profileWrite p n b).act h i u
      = ((u.putContext n b).onDoor (doorOf r) (fun w => w.contextModified r)).answers (Answer.done []) := by
  have hquiet : ¬((u.gen r).state == .moving || ((u.doors[doorOf r]).sm.state != .locked
      && (u.doors[doorOf r]).sm.state != .released && (u.doors[doorOf r]).sm.state != .isolated)) = true := by
    rw [beq_eq_false_iff_ne.mpr hm]
    rcases hs with hs | hs | hs <;> rw [hs] <;> decide
  show u.profileWrite h i n b = _
  unfold State.profileWrite
  simp only [ha, Option.map_some, ho, Option.bind_some]
  rw [if_neg (Nat.not_le.mpr hn)]
  refine (if_neg hquiet).trans ?_
  simp only [hr]
  rfl

theorem contextModified_gen (s : State) (r : DriveIx) :
    ((s.onDoor (doorOf r) (fun w => w.contextModified r)).gen r).flags.ctxModified = true := by
  unfold State.gen
  rw [onDoor_own]
  unfold Doorway.contextModified
  cases isStep r <;> rfl

end

end

/-- Settles O40: MOVE_TO by `moveTo_refused` and `moveTo_moves`, COMPARE_SET by `compareSet_written`, PROFILE_WRITE by
`profileWrite_refused` to `profileWrite_assigned`. -/
theorem motionWrites : Obligations.MotionWrites := by
  unfold Obligations.MotionWrites
  intro s h i d q k
  refine ⟨fun drive mode target speed hd hq => ⟨fun r hr => ?_, fun hr hx => ?_⟩,
    fun drive mode direction actions position hyst hn hd hq hf => ⟨fun hr => ?_, fun hm hdir hlo hhi => ?_⟩,
    fun context body hq hn ha => ⟨fun reason n hr => ?_, fun hr => ?_⟩, fun context body r slot n hq hn ha hd hs hm hr => ?_⟩
  · have hc : hosted (.moveTo h drive mode target speed) = some (h, q) := hq ▸ rfl
    rw [hd] at hq
    subst hq
    exact hosted_reads hc k.toAdmits nofun (moveTo_refused k hr)
  · have hc : hosted (.moveTo h drive mode target speed) = some (h, q) := hq ▸ rfl
    rw [hd] at hq
    subst hq
    exact moveTo_moves k hc hr hx
  · have hc : hosted (.compareSet h drive mode direction actions position hyst) = some (h, q) := hq ▸ rfl
    subst hq
    exact hosted_reads hc k.toAdmits nofun (compareSet_refused k hn hd hf hr)
  · have hc : hosted (.compareSet h drive mode direction actions position hyst) = some (h, q) := hq ▸ rfl
    subst hq
    have hin : ¬compareOutside s.cfg (driveOfNat drive.toNat) mode.toNat direction.toNat position.toInt := by
      unfold compareOutside
      omega
    obtain ⟨t, hx, hans, hdoors, -⟩ := answers_leave hc k.toAdmits nofun (compareSet_done k hn hd hf hin)
    obtain ⟨pos, travel, moving, hw⟩ := compareSet_written (s.admitted h i) (driveOfNat drive.toNat) mode.toNat direction.toNat
      actions.toNat hyst.toNat position.toInt
    refine ⟨t, _, hx, hans, ?_⟩
    rw [gen_of_doors hdoors, hw]
    exact ⟨rfl, rfl, rfl, rfl, decide_not.symm, rfl⟩
  · have hc : hosted (.profileWrite h context body) = some (h, q) := hq ▸ rfl
    subst hq
    exact hosted_reads hc k.toAdmits nofun (profileWrite_refused (u := s.admitted h i) hn ha hr)
  · have hc : hosted (.profileWrite h context body) = some (h, q) := hq ▸ rfl
    subst hq
    obtain ⟨t, hx, hans, hdoors, hconfig⟩ := answers_leave hc k.toAdmits nofun (profileWrite_unassigned (u := s.admitted h i) hn ha hr)
    exact ⟨t, hx, hans, hconfig, hdoors⟩
  · have hc : hosted (.profileWrite h context body) = some (h, q) := hq ▸ rfl
    subst hq
    subst hd
    obtain ⟨t, hx, hans, hdoors, hconfig⟩ := answers_leave hc k.toAdmits nofun
      (profileWrite_assigned (u := s.admitted h i) hn ha k.own hm hs hr)
    refine ⟨t, hx, hans, hconfig, ?_⟩
    rw [gen_of_doors hdoors]
    exact contextModified_gen ((s.admitted h i).putContext context.toNat body) r

end Sys2Proof.Machine
end

section
/-!
Marks of the obstacle protection, position compares, encoder outputs and single steps (R115, R130 to R135, R188, R192, R228, R235,
R245, R246).
-/

namespace Sys2Proof.Machine

/-! ## Envelopes (R235, R245, R246) -/

/-- R245: the window of the direction named restarts after 1,000 ms of use, and no other. -/
theorem onAdaptWindowEnd_envs (closing : Bool) (w : Work) :
    (onAdaptWindowEnd closing w).dw.obst.closeEnv = (if closing = true ∧ 1000 ≤ w.dw.obst.closeEnv.windowUsed
        then restartWindow w.dw.obst.closeEnv else w.dw.obst.closeEnv)
      ∧ (onAdaptWindowEnd closing w).dw.obst.openEnv = (if closing = false ∧ 1000 ≤ w.dw.obst.openEnv.windowUsed
        then restartWindow w.dw.obst.openEnv else w.dw.obst.openEnv) := by
  unfold onAdaptWindowEnd Work.obst
  cases closing with
  | false => by_cases ho : 1000 ≤ w.dw.obst.openEnv.windowUsed <;> simp [ho]
  | true => by_cases hc : 1000 ≤ w.dw.obst.closeEnv.windowUsed <;> simp [hc]

/-- R246: the bins of both envelopes are saved at every 64th adapted stroke. -/
theorem onAdaptWrite_saved (w : Work) :
    (onAdaptWrite w).dw.obst.closeEnv.saved = (if w.dw.obst.signature.adaptStrokes % 64 = 0
        then w.dw.obst.closeEnv.bins else w.dw.obst.closeEnv.saved)
      ∧ (onAdaptWrite w).dw.obst.openEnv.saved = (if w.dw.obst.signature.adaptStrokes % 64 = 0
        then w.dw.obst.openEnv.bins else w.dw.obst.openEnv.saved) := by
  unfold onAdaptWrite
  split <;> exact ⟨rfl, rfl⟩

/-! ## Sensitive edges (R228) -/

theorem onSePathFault_sets (e : DoorEnv) (second : Bool) (w : Work) :
    (onSePathFault e second w).dw.obst.flags.sePathFault = (w.dw.obst.flags.sePathFault || !w.dw.edgeAgrees second)
      ∧ (w.dw.obst.flags.sePathFault = false → w.dw.edgeAgrees second = false →
          (onSePathFault e second w).dw.obst.seFaultEdge = (if second then 2 else 1)
          ∧ (onSePathFault e second w).dw.obst.counters.sePathFaults = satInc 16 w.dw.obst.counters.sePathFaults) := by
  unfold onSePathFault
  cases hf : w.dw.obst.flags.sePathFault with
  | true => exact ⟨hf, nofun⟩
  | false =>
    cases ha : w.dw.edgeAgrees second with
    | true => exact ⟨hf, nofun⟩
    | false => exact ⟨rfl, fun _ _ => ⟨rfl, rfl⟩⟩

theorem onSePathClear_flag (e : DoorEnv) (w : Work) : (onSePathClear e w).dw.obst.flags.sePathFault
    = (w.dw.obst.flags.sePathFault && !(w.dw.edgeAgrees false && w.dw.edgeAgrees true)) := by
  unfold onSePathClear
  cases hf : w.dw.obst.flags.sePathFault with
  | false => exact hf
  | true =>
    cases ha : w.dw.edgeAgrees false with
    | false => exact hf
    | true =>
      cases hb : w.dw.edgeAgrees true with
      | false => exact hf
      | true => rfl

/-- A change of a doorway without its engine leaves it as the change made it. -/
theorem changeDoor_own (s : State) (d : DoorIx) (f : DoorEnv → Work → Work) :
    (f (s.doorEnv d) ⟨s.doors[d], []⟩).dw.alike (s.changeDoor d f).doors[d] := by
  unfold State.changeDoor
  dsimp only
  generalize f (s.doorEnv d) ⟨s.doors[d], []⟩ = w
  have h := State.alike_foldl (s0 := { s with doors := s.doors.set d w.dw }) w.fx
    (fun t x ht => State.alike_trans ht (State.applyFx_alike d t x)) (State.alike_refl _) d
  have hset : ({ s with doors := s.doors.set d w.dw } : State).doors[d] = w.dw := (doors_set _ _ _ _).trans (if_pos rfl)
  rw [hset] at h
  exact h

theorem edgesCompared_own (s : State) (d : DoorIx) (f : DoorEnv → Work → Work) (hf : s.cfg.isFitted d = true)
    (hs : s.supvRuns = true) : (f (s.doorEnv d) ⟨s.doors[d], []⟩).dw.alike (s.edgesCompared d f).doors[d] := by
  unfold State.edgesCompared
  rw [if_neg (by rw [hf, hs]; decide)]
  exact changeDoor_own s d f

/-! ## The cycle in progress (R115) -/

theorem Doorway.alike.cycleOf {a b : Doorway} (h : a.alike b) {c : Cycle} (hc : a.cycle = some c) :
    ∃ c', b.cycle = some c' ∧ c'.bare = c.bare := by
  have hb := h.cycle
  rw [hc, Option.map_some] at hb
  exact Option.map_eq_some_iff.mp hb

/-! ## Position compares (R130, R131, R134) -/

/-- The test of a drive's compare, as a doorway's work. -/
def driveCompare (r : DriveIx) (e : DoorEnv) (w : Work) : Work := if isStep r then stepCompare e w else doorCompare e w

theorem compare_alike {a b : Doorway} (h : a.alike b) (step : Bool) : (b.genOf step).compare = (a.genOf step).compare := by
  cases step with
  | false => exact congrArg (fun q => q.gen.compare) h.door
  | true => exact congrArg (fun q => q.gen.compare) h.step

theorem doorCompare_compare (e : DoorEnv) (w : Work) : (doorCompare e w).dw.door.gen.compare
    = (w.dw.door.gen.compare.test e.now (doorKin e w.dw).pos).1 := by
  unfold doorCompare
  dsimp only
  split <;> rfl

theorem stepCompare_compare (e : DoorEnv) (w : Work) : (stepCompare e w).dw.step.gen.compare
    = (w.dw.step.gen.compare.test e.now w.dw.step.reads).1 := by
  unfold stepCompare
  dsimp only
  split <;> rfl

theorem driveCompare_compare (r : DriveIx) (e : DoorEnv) (w : Work) : ((driveCompare r e w).dw.genOf (isStep r)).compare
    = ((w.dw.genOf (isStep r)).compare.test e.now (drivePosition e w.dw r)).1 := by
  unfold driveCompare drivePosition
  cases isStep r with
  | false => exact doorCompare_compare e w
  | true => exact stepCompare_compare e w

theorem drive_cases : ∀ r : DriveIx, (∃ d, r = doorDrive d) ∨ ∃ d, r = stepDrive d := by decide

/-- A compare as it is after it fired at a position. -/
def Compare.firedAt (c : Compare) (now : Nat) (up : Bool) (p : Int) : Compare := { c.fired now up with last := p }

theorem Compare.test_fires {c : Compare} {now : Nat} {p : Int} {up : Bool} (h : c.fires p = some up) :
    c.test now p = (c.firedAt now up p, some up) := by
  unfold Compare.test
  rw [h]
  rfl

theorem Compare.test_rests {c : Compare} {now : Nat} {p : Int} (h : c.fires p = none) :
    (c.test now p).1.armed = (c.armed || c.rearms p) := by
  unfold Compare.test
  rw [h]

theorem doorCompare_fires {e : DoorEnv} {w : Work} {up : Bool}
    (hf : w.dw.door.gen.compare.fires (doorKin e w.dw).pos = some up) : (doorCompare e w).fx
      = w.fx ++ compareActions e (doorDrive e.d) (w.dw.door.gen.compare.firedAt e.now up (doorKin e w.dw).pos) up
          (doorKin e w.dw).pos (doorKin e w.dw).vel := by
  unfold doorCompare
  dsimp only
  rw [Compare.test_fires hf]
  rfl

theorem stepCompare_fires {e : DoorEnv} {w : Work} {up : Bool} (hf : w.dw.step.gen.compare.fires w.dw.step.reads = some up) :
    (stepCompare e w).fx = w.fx ++ compareActions e (stepDrive e.d) (w.dw.step.gen.compare.firedAt e.now up w.dw.step.reads) up
      w.dw.step.reads (driveVelocity e w.dw (stepDrive e.d)) := by
  unfold stepCompare
  dsimp only
  rw [Compare.test_fires hf]
  rfl

theorem driveCompare_fires {r : DriveIx} {e : DoorEnv} {w : Work} {up : Bool} (hd : e.d = doorOf r)
    (hf : (w.dw.genOf (isStep r)).compare.fires (drivePosition e w.dw r) = some up) :
    (driveCompare r e w).fx = w.fx ++ compareActions e r
      ((w.dw.genOf (isStep r)).compare.firedAt e.now up (drivePosition e w.dw r)) up (drivePosition e w.dw r)
      (driveVelocity e w.dw r) := by
  unfold driveCompare
  rcases drive_cases r with ⟨d, rfl⟩ | ⟨d, rfl⟩
  · obtain ⟨hdoor, hi, -, -⟩ := doorOf_door d
    unfold drivePosition driveVelocity at *
    rw [hi] at hf ⊢
    obtain rfl := hd.trans hdoor
    exact doorCompare_fires hf
  · obtain ⟨-, -, hdoor, hi⟩ := doorOf_door d
    unfold drivePosition at *
    rw [hi] at hf ⊢
    obtain rfl := hd.trans hdoor
    exact stepCompare_fires hf

/-- R134: the payload of the event of a drive's compare that fires. -/
def State.compareEvent (s : State) (r : DriveIx) (up : Bool) : List Byte :=
  le 8 s.now ++ le 1 r.val ++ le 1 (if up then 1 else 2) ++ le 2 (satInc 32 (s.gen r).compare.fireCount)
    ++ leInt 4 (s.gen r).compare.position ++ leInt 4 (drivePosition (s.baseEnv (doorOf r)) s.doors[doorOf r] r)
    ++ leInt 4 (driveVelocity (s.baseEnv (doorOf r)) s.doors[doorOf r] r)

section
variable {s : State} {r : DriveIx}

/-- The test of a drive's compare changes its doorway; the outputs follow where a pulse starts. -/
theorem compareTests_change (hf : s.cfg.driveFitted r = true) (hp : s.power.on (leafDomain (doorOf r)) = true) :
    (s.compareTests r).doors = (s.changeDoor (doorOf r) (driveCompare r)).doors
      ∧ ((s.changeDoor (doorOf r) (driveCompare r)).outs.pulse = s.outs.pulse →
          s.compareTests r = s.changeDoor (doorOf r) (driveCompare r)) := by
  have he : s.compareTests r = (if (s.changeDoor (doorOf r) (driveCompare r)).outs.pulse = s.outs.pulse
      then s.changeDoor (doorOf r) (driveCompare r) else (s.changeDoor (doorOf r) (driveCompare r)).evaluate) :=
    if_neg (by rw [hf, hp]; decide)
  rw [he]
  refine ⟨?_, fun h => if_pos h⟩
  split
  · rfl
  · exact (State.evaluate_keeps (Within.refl _) (Keeps.refl _ _)).only .doors (by decide)

theorem compareTests_compare (hf : s.cfg.driveFitted r = true) (hp : s.power.on (leafDomain (doorOf r)) = true) :
    ((s.compareTests r).gen r).compare
      = ((s.gen r).compare.test s.now (drivePosition (s.baseEnv (doorOf r)) s.doors[doorOf r] r)).1 := by
  have ha := changeDoor_own s (doorOf r) (driveCompare r)
  rw [← (compareTests_change hf hp).1] at ha
  exact (compare_alike ha (isStep r)).trans (driveCompare_compare r (s.doorEnv (doorOf r)) ⟨s.doors[doorOf r], []⟩)

/-- R134: a compare without the pulse among its ACTIONS sends its event at most. -/
theorem compareActions_event {e : DoorEnv} {r : DriveIx} {c : Compare} {up : Bool} {p v : Int} (hb : bitOf c.actions 1 = false) :
    compareActions e r c up p v = (if bitOf c.actions 0 then
      [.event 0xE301 (le 8 e.now ++ le 1 r.val ++ le 1 (if up then 1 else 2) ++ le 2 c.fireCount ++ leInt 4 c.position
        ++ leInt 4 p ++ leInt 4 v)] else []) := by
  unfold compareActions
  rw [hb]
  exact List.append_nil _

/-- R134: the event of a compare that fires without a pulse. -/
theorem compareTests_event (hf : s.cfg.driveFitted r = true) (hp : s.power.on (leafDomain (doorOf r)) = true) {up : Bool}
    (hu : (s.gen r).compare.fires (drivePosition (s.baseEnv (doorOf r)) s.doors[doorOf r] r) = some up)
    (hb : bitOf (s.gen r).compare.actions 1 = false) :
    (s.compareTests r).fcp
      = (if bitOf (s.gen r).compare.actions 0 then s.fcp.eventAll 0xE301 (s.compareEvent r up) else s.fcp) := by
  have hfx : (driveCompare r (s.doorEnv (doorOf r)) ⟨s.doors[doorOf r], []⟩).fx
      = (if bitOf (s.gen r).compare.actions 0 then [DoorFx.event 0xE301 (s.compareEvent r up)] else []) :=
    (driveCompare_fires (e := s.doorEnv (doorOf r)) (w := ⟨s.doors[doorOf r], []⟩) rfl hu).trans (compareActions_event hb)
  have hchange : s.changeDoor (doorOf r) (driveCompare r) = List.foldl (State.applyFx (doorOf r)) _ _ :=
    congrArg (fun l => List.foldl (State.applyFx (doorOf r)) _ l) hfx
  have hsame := (compareTests_change hf hp).2
  rw [hchange] at hsame
  split at hsame
  · rw [hsame rfl, if_pos ‹_›]
    rfl
  · rw [hsame rfl, if_neg ‹_›]
    rfl

end

/-! ## Encoder outputs (R135) -/

theorem encoderCounts_get {s : State} {r : DriveIx} {x : Fin 2} {up : Bool} (hs : s.cfg.encSourceDrive x = r.val)
    (hf : s.cfg.driveFitted r = true) (hp : s.power.on (leafDomain (doorOf r)) = true) : (s.encoderCounts x up).encoders[x]
      = (s.encoders[x]).count (s.cfg.encRatioN x) (s.cfg.encRatioM x) (s.cfg.encInvert x == 1) up := by
  have hr : (Fin.ofNat 16 (s.cfg.encSourceDrive x) : DriveIx) = r := by rw [hs]; exact driveOfNat_val r
  unfold State.encoderCounts
  dsimp only
  rw [hr, hf, hp, decide_eq_false (by have := r.isLt; omega), if_neg (by decide)]
  exact Vector.getElem_set_self x.isLt

/-! ## Steps (R188, R192) -/

/-- R188: a step issued moves the register and the electrical index by as much. -/
theorem StepDrive.issue_moves (c : Cfg) (d : DoorIx) (move : Int) (x : CoilSample) (q : StepDrive) :
    (q.issue c d move x).1.position = q.position + move ∧ ((q.issue c d move x).1.elec : Int) = (q.elec + move) % 256 := by
  have helec : (((q.moveTo (q.position + move)).elec : Nat) : Int) = (q.elec + move) % 256 := by
    unfold StepDrive.moveTo
    dsimp only
    rw [Int.toNat_of_nonneg (Int.emod_nonneg _ (by decide)), Int.add_comm q.position move, Int.add_sub_cancel]
  unfold StepDrive.issue
  extract_lets l q' r l' y
  split
  · exact ⟨rfl, helec⟩
  · exact ⟨rfl, helec⟩

theorem stepCompare_register (e : DoorEnv) (w : Work) : (stepCompare e w).dw.step.position = w.dw.step.position
    ∧ (stepCompare e w).dw.step.elec = w.dw.step.elec := by
  unfold stepCompare
  dsimp only
  split <;> exact ⟨rfl, rfl⟩

theorem stepLose_register (e : DoorEnv) (code : Nat) (w : Work) : (stepLose e code w).dw.step.position = w.dw.step.position
    ∧ (stepLose e code w).dw.step.elec = w.dw.step.elec := by
  unfold stepLose
  dsimp only
  split <;> exact ⟨rfl, rfl⟩

theorem issueStep_moves (e : DoorEnv) (p : Path) (t : Nat) (move : Int) (c : CoilSample) (w : Work) :
    (issueStep e p t move c w).dw.step.position = w.dw.step.position + move
      ∧ ((issueStep e p t move c w).dw.step.elec : Int) = (w.dw.step.elec + move) % 256 := by
  obtain ⟨hpos, helec⟩ := stepCompare_register e w
  obtain ⟨ipos, ielec⟩ := (stepCompare e w).dw.step.issue_moves e.cfg e.d move c
  rw [hpos] at ipos
  rw [helec] at ielec
  unfold issueStep
  dsimp only
  split
  · obtain ⟨lpos, lelec⟩ := stepLose_register e 1 _
    exact ⟨lpos.trans ipos, (congrArg Nat.cast lelec).trans ielec⟩
  · exact ⟨ipos, ielec⟩

/-- R192: the step that the interval timer times is issued at its expiry. -/
theorem onStepTimer_moves {e : DoorEnv} {w : Work} {p : Path} {x : StepDue} (hr : e.ready = true)
    (ht : w.dw.step.gen.flags.tracking = false) (hp : w.dw.step.gen.path = some p) (hf : p.fresh = false)
    (hx : w.dw.step.timer = some x) (hm : x.move ≠ 0) (hs : stallMarked e w.dw = false) :
    (onStepTimer e w).dw.step.position = w.dw.step.position + x.move
      ∧ ((onStepTimer e w).dw.step.elec : Int) = (w.dw.step.elec + x.move) % 256 := by
  have hgo : (!e.ready || w.dw.step.gen.flags.tracking || p.fresh || x.move == 0 || stallMarked e w.dw) = false := by
    rw [hr, ht, hf, hs, beq_eq_false_iff_ne.mpr hm]
    rfl
  have he : onStepTimer e w = (issueStep e p (100 * p.elapsed + w.dw.step.ahead + x.ticks) x.move (coilsAt e.free 0) w).step
      (fun q => { q with ahead := q.ahead + x.ticks }) := by
    unfold onStepTimer
    simp only [hp, hx, Option.getD_some]
    rw [if_neg (by rw [hgo]; decide)]
  rw [he]
  exact issueStep_moves e p _ x.move _ w

/-- Settles O6: envelopes, edges, the cycle's mark and steps at the engine, compares by `compareTests_compare` and
`compareTests_event`, encoder outputs by `encoderCounts_get`. -/
theorem obstacleAndMotionMarks : Obligations.ObstacleAndMotionMarks := by
  unfold Obligations.ObstacleAndMotionMarks
  refine ⟨fun s d hf hr => ⟨fun closing => ?_, ?_, ?_⟩, fun s d hf hs => ⟨fun second => ?_, ?_⟩,
    fun s r hf => ⟨fun c hr hc => ?_, fun up hp hu => ?_, fun hp hn => ?_, fun x up hx hp => ?_,
      fun d p x hd hr hready ht hpath hfresh hx hm hs => ?_⟩⟩
  · have ha := s.atDoor_own d (fun _ => onAdaptWindowEnd closing) hf hr
    obtain ⟨hclose, hopen⟩ := onAdaptWindowEnd_envs closing ⟨s.doors[d], []⟩
    exact ⟨_, rfl, (congrArg Obstacle.closeEnv ha.obst).trans hclose, (congrArg Obstacle.openEnv ha.obst).trans hopen⟩
  · have ha := s.atDoor_own d (fun _ => onAdaptWrite) hf hr
    obtain ⟨hclose, hopen⟩ := onAdaptWrite_saved ⟨s.doors[d], []⟩
    exact ⟨_, rfl, (congrArg (fun o => o.closeEnv.saved) ha.obst).trans hclose,
      (congrArg (fun o => o.openEnv.saved) ha.obst).trans hopen⟩
  · have ha := s.atDoor_own d (fun _ => onBreakawayEnd) hf hr
    exact ⟨_, rfl, congrArg (fun o => o.flags.breakaway) ha.obst⟩
  · have ha := edgesCompared_own s d (fun e => onSePathFault e second) hf hs
    obtain ⟨hflag, hset⟩ := onSePathFault_sets (s.doorEnv d) second ⟨s.doors[d], []⟩
    exact ⟨_, rfl, (congrArg (fun o => o.flags.sePathFault) ha.obst).trans hflag,
      fun h1 h2 => ⟨(congrArg Obstacle.seFaultEdge ha.obst).trans (hset h1 h2).1,
        (congrArg (fun o => o.counters.sePathFaults) ha.obst).trans (hset h1 h2).2⟩⟩
  · have ha := edgesCompared_own s d onSePathClear hf hs
    exact ⟨_, rfl, (congrArg (fun o => o.flags.sePathFault) ha.obst).trans (onSePathClear_flag _ _)⟩
  · have ha := s.atDrive_own r (fun _ => onSegmentEnd) hf hr
    obtain ⟨c', hc', hbare⟩ := ha.cycleOf (congrArg (Option.map _) hc)
    exact ⟨_, c', rfl, hc', congrArg (fun c => c.flags.segmentMark) hbare, congrArg (fun c => c.start) hbare⟩
  · have hcompare := compareTests_compare hf hp
    rw [Compare.test_fires hu] at hcompare
    exact ⟨_, rfl, congrArg Compare.armed hcompare, congrArg Compare.fireCount hcompare, congrArg Compare.lastFired hcompare,
      compareTests_event hf hp hu⟩
  · exact ⟨_, rfl, (congrArg Compare.armed (compareTests_compare hf hp)).trans (Compare.test_rests hn)⟩
  · exact ⟨_, rfl, encoderCounts_get hx hf hp⟩
  · subst hd
    obtain ⟨hpos, helec⟩ := onStepTimer_moves (e := s.doorEnv d) (w := ⟨s.doors[d], []⟩) hready ht hpath hfresh hx hm hs
    have ha := (s.atStep_own d onStepTimer hf hr).step
    exact ⟨_, rfl, (congrArg StepDrive.position ha).trans hpos, (congrArg (fun q => (q.elec : Int)) ha).trans helec⟩

end Sys2Proof.Machine
end

section
/-!
DCS edges and the seal seek: a confirmed edge sets the filtered DCS (R168), and a seal stall is a final-closure trip or a relearn
(R172, R174, R250).
-/

namespace Sys2Proof.Machine

section
variable {s : State} {d : DoorIx}

/-- R172, R247, R250: the seal seek stalls without DCS. -/
theorem sealStall_trips (hf : s.cfg.isFitted d = true) (hr : s.leafRuns d = true) (hs : (s.doors[d]).door.flags.sealSeek = true)
    (hv : (s.doors[d]).door.hall.velocity.natAbs < 1000) (hd : (s.doors[d]).dcs = false) :
    ((s.atDoor d onSealStall).doors[d]).door.flags.sealSeek = false
      ∧ ((s.atDoor d onSealStall).doors[d]).obst.pending = some { source := 32 + d.val + 192, fromSeal := true }
      ∧ ((s.atDoor d onSealStall).doors[d]).obst.lastTripSource = 32 + d.val + 192
      ∧ ((s.atDoor d onSealStall).doors[d]).obst.flags.sigTripped = true
      ∧ ((s.atDoor d onSealStall).doors[d]).obst.counters.sigTrips = satInc 16 (s.doors[d]).obst.counters.sigTrips
      ∧ ((s.atDoor d onSealStall).doors[d]).door.flags.suspect = (s.doors[d]).door.flags.suspect := by
  have ha := s.atDoor_own d onSealStall hf hr
  have hflags := (doorBare_fields ha.door).1
  rw [ha.obst, hflags]
  exact onSealStall_trip (e := s.doorEnv d) (w := ⟨s.doors[d], []⟩) hs hv hd

/-- R172, R174: the seal seek of a closing calm doorway stalls with DCS made. -/
theorem sealStall_relearns (hf : s.cfg.isFitted d = true) (hr : s.leafRuns d = true) (hs : (s.doors[d]).door.flags.sealSeek = true)
    (hv : (s.doors[d]).door.hall.velocity.natAbs < 1000) (hd : (s.doors[d]).dcs = true)
    (hw : (s.doors[d]).Calm (s.doorEnv d)) (he : (s.doors[d]).sm.edges = noEdges) (hst : (s.doors[d]).sm.state = .closing)
    (hph : (s.doors[d]).sm.phase = .move)
    (hq : s.cfg.hasStep d = false ∨ (s.doors[d]).stepHomed = true ∧ (s.doors[d]).step.flags.moved = false) :
    ((s.atDoor d onSealStall).doors[d]).sm.state = .closing ∧ ((s.atDoor d onSealStall).doors[d]).sm.phase = .lock
      ∧ ((s.atDoor d onSealStall).doors[d]).door.hall.ticks = 0
      ∧ ((s.atDoor d onSealStall).doors[d]).door.flags.suspect = false
      ∧ ((s.atDoor d onSealStall).doors[d]).door.counters.relearns = satInc 16 (s.doors[d]).door.counters.relearns := by
  have ha := s.atDoor_own d onSealStall hf hr
  obtain ⟨hflags, hhall, hcounters, -⟩ := doorBare_fields ha.door
  obtain ⟨hat, hticks, hsuspect, hrelearns⟩ := onSealStall_relearn hw (at_of hst hph he) hs hv hd hq
  have hstands := hat.stands ha
  rw [hflags, hhall, hcounters]
  exact ⟨hstands.state, hstands.phase, hticks, hsuspect, hrelearns⟩

end

/-- Settles O14: the edge by `onDcsEdge_dcs`, the stall by `sealStall_trips` and `sealStall_relearns`. -/
theorem sealSeekAndDcsEdges : Obligations.SealSeekAndDcsEdges := by
  unfold Obligations.SealSeekAndDcsEdges
  intro s d hf hr
  refine ⟨fun make hon hv => ?_, fun hs hvel => ⟨fun hd => ?_, fun hd hw he hst hph hq => ?_⟩⟩
  · have ha := s.doorInput_own d (fun e => onDcsEdge e make) hon hf hv hr
    exact ⟨_, rfl, (congrArg (fun q => q.filtered.getLsbD 0) ha.inp).trans (onDcsEdge_dcs (s.doorEnv d) make _)⟩
  · exact ⟨_, rfl, sealStall_trips hf hr hs hvel hd⟩
  · exact ⟨_, rfl, sealStall_relearns hf hr hs hvel hd hw he hst hph hq⟩

end Sys2Proof.Machine
end

section
/-!
Level rows of Quince (R182, R251, R659), which follow their events, and its clock fault (R255), which brings every doorway with a
drive energised to FAULT.
-/

namespace Sys2Proof.Machine

/-! ## Level rows -/

/-- Every drive takes an interruption: Quince's clock, its common rows and the spare legs rest. -/
theorem State.interruptDrives_rests (s : State) (x : Interruption) : s.Rests (s.interruptDrives x) := by
  refine State.Rests.foldl drives (fun t r ht => ht.trans ?_) (.refl s)
  unfold State.interruptDrive
  split
  · exact t.runDoor_rests _ _
  · exact .refl t

/-- R182: the row of a DC link out of range shows it, and the voltage is measured. -/
theorem dcLinkOut_shows {s : State} (high : Bool) (hp : s.power.on 9 = true) :
    (s.dcLinkOut high).quince.present.getLsbD (if high then 60 else 59) = true
      ∧ (s.dcLinkOut high).power.dcLink = Config.measured .dcLink s.free := by
  have heq := dcLinkOut_eq s high hp
  generalize hu : s.onPower (fun p => { p with dcLink := Config.measured .dcLink s.free }) = u at heq
  generalize hrow : (if high then (60 : RowIx) else 59) = row at heq
  generalize (if high then Interruption.dcHigh else .dcLow) = x at heq
  have hlevel := State.setLevel_keeps (Within.refl _) (Keeps.refl _ u) row true
  have hstops := State.interruptDrives_keeps (Within.refl _) (Keeps.refl _ (u.setLevel row true)) x
  have hfresh := State.fresh_keeps (Within.refl _) (Keeps.refl _ ((u.setLevel row true).interruptDrives x))
  have hpower : (s.dcLinkOut high).power = u.power := heq ▸ (hfresh.only .power (by decide)).trans
    ((hstops.only .power (by decide)).trans (hlevel.only .power (by decide)))
  have hrests : (u.setLevel row true).Rests (s.dcLinkOut high) := heq ▸ ((u.setLevel row true).interruptDrives_rests x).trans
    (.of_keeps hfresh (by decide) (by decide))
  have hval : (if high then 60 else 59) = row.val := by rw [← hrow]; cases high <;> rfl
  refine ⟨?_, ?_⟩
  · rw [hval, hrests.rows row.val (by rw [← hval]; cases high <;> decide)]
    exact u.setLevel_bit row true
  · rw [hpower, ← hu]
    rfl

/-- Rows 59 to 61 are common to all columns. -/
theorem levelRow_common (s : State) {row : RowIx} (r : DriveIx) (on : Bool) (hrow : row.val = 59 ∨ row.val = 60 ∨ row.val = 61) :
    s.levelRow row r on = s.setLevel row on := by
  unfold State.levelRow
  dsimp only
  rw [if_neg (by omega), if_neg (by omega), if_neg (by omega), if_neg (by omega), if_neg (by omega), if_neg (by omega)]

/-- R257: the trip of a drive shows while it is present. -/
theorem tripRows_bit (s : State) (r : DriveIx) (on : Bool) : (s.tripRows r on).quince.trips.getLsbD r.val = on := by
  unfold State.tripRows
  dsimp only
  split
  · rw [(State.latchRow_rows _ 58 0 _).trips, (State.latchRow_rows _ 57 0 _).trips]
    exact setBit_own _ r on
  · exact setBit_own _ r on

/-! ## The clock fault (R255) -/

theorem energised_alike {a b : Doorway} (h : a.alike b) :
    (b.door.gen.energised || b.step.gen.energised) = (a.door.gen.energised || a.step.gen.energised) := by
  obtain ⟨-, -, -, hdoor, -⟩ := doorBare_fields h.door
  obtain ⟨-, -, hstep, -⟩ := stepBare_gen h.step
  unfold Gen.energised
  rw [hdoor, hstep]

/-- R255: Quince with its clock stopped and the fault counted. -/
def State.clockStopped (s : State) : State :=
  { s with quince := { s.quince with oscillator := false, clockFaults := satInc 16 s.quince.clockFaults } }

/-- R255: every fitted doorway's engine takes the fault of Quince's clock. -/
def State.clockFaultTaken (s : State) : State :=
  doorways.foldl (fun s d => if s.cfg.isFitted d then s.runDoor d onClockFault else s) s

theorem clockFails_eq {s : State} (ho : s.quince.oscillator = true) :
    s.clockFails = s.clockStopped.clockFaultTaken.incident 9 true none none false false := by
  unfold State.clockFails
  rw [if_neg (by rw [ho]; decide)]
  unfold State.clockFaultTaken State.clockStopped
  rfl

theorem State.clockFaultTaken_rests (s : State) : s.Rests s.clockFaultTaken := by
  unfold State.clockFaultTaken
  refine State.Rests.foldl doorways (fun t d ht => ht.trans ?_) (.refl s)
  split
  · exact t.runDoor_rests _ _
  · exact .refl t

theorem clockFails_clock {s : State} (ho : s.quince.oscillator = true) :
    s.clockFails.quince.oscillator = false ∧ s.clockFails.quince.clockFaults = satInc 16 s.quince.clockFaults := by
  have hk : Keeps [.doors, .fcp, .log] _ (s.clockStopped.clockFaultTaken.incident 9 true none none false false) :=
    State.incident_keeps (Within.refl _) (Keeps.refl _ _) _ _ _ _ _ _
  rw [clockFails_eq ho, hk.only .quince (by decide)]
  exact s.clockStopped.clockFaultTaken_rests.clock

/-- R255: a fitted doorway with an energised drive, its engine running, under no higher rank. -/
theorem clockFails_fault {s : State} {d : DoorIx} (ho : s.quince.oscillator = true) (hf : s.cfg.isFitted d = true)
    (hr : s.leafRuns d = true) (he : ((s.doors[d]).door.gen.energised || (s.doors[d]).step.gen.energised) = true)
    (h1 : (s.doors[d]).sm.state ≠ .fault) (h2 : (s.doors[d]).sm.state ≠ .egress) (h3 : (s.doors[d]).sm.state ≠ .isolated) :
    (s.clockFails.doors[d]).Stands .fault .none .faultDrive := by
  obtain ⟨e, w, -, -, hw, hown⟩ := State.eachDoor_own onClockFault d doorways s.clockStopped (by decide) (doorways_all d) hf hr
  have hsm : w.sm = (s.doors[d]).sm := hw.sm
  have hfault := enterFault_notHalted e ⟨w, []⟩ ((energised_alike hw).trans he) (hsm ▸ h1) (hsm ▸ h2) (hsm ▸ h3)
  rw [clockFails_eq ho]
  exact hfault.stands (Doorway.alike_trans hown (State.incident_alike s.clockStopped.clockFaultTaken 9 true none none false false d))

/-- Settles O11: the rows by `dcLinkOut_shows`, `State.setLevel_bit` and `tripRows_bit`, the clock by `clockFails_clock` and
`clockFails_fault`. -/
theorem quinceRowsAndClock : Obligations.QuinceRowsAndClock := by
  unfold Obligations.QuinceRowsAndClock
  refine fun s => ⟨fun high hp => ?_, fun row r on hrow => ?_, fun r on => ?_, fun ho => ?_⟩
  · exact ⟨_, rfl, dcLinkOut_shows high hp⟩
  · refine ⟨_, rfl, ?_⟩
    rw [levelRow_common s r on hrow]
    exact s.setLevel_bit row on
  · exact ⟨_, rfl, tripRows_bit s r on⟩
  · obtain ⟨hstopped, hcounted⟩ := clockFails_clock ho
    refine ⟨_, rfl, hstopped, hcounted, fun d hf hr he h1 h2 h3 => ?_⟩
    have h := clockFails_fault ho hf hr he h1 h2 h3
    exact ⟨h.state, h.cause⟩

end Sys2Proof.Machine
end

section
/-!
The Hall counter of a door drive (R151, R153, R154, R180, R181): what a change between two valid codes counts, and when it marks the
position suspect.
-/

namespace Sys2Proof.Machine

/-! ## The counter -/

/-- Table 4.2: there are six sectors. -/
theorem sectorOf_lt {sequence code b : Nat} (h : sectorOf sequence code = some b) : b < 6 := by
  unfold sectorOf at h
  obtain ⟨k, hk, rfl⟩ := Option.map_eq_some_iff.mp h
  have hlt : k < 6 := by
    split at hk
    all_goals cases hk <;> decide
  split
  · exact Nat.mod_lt _ (by decide)
  · exact hlt

/-- R153, Table 4.6: the edges that a change by k sectors counts. -/
def hallEdges (k : Nat) : Int :=
  match k with
  | 1 => 1
  | 2 => 2
  | 4 => -2
  | 5 => -1
  | _ => 0

/-- What a change by k sectors, to sector b, makes of the counter (R153, Table 4.6). -/
structure Hall.Counts (h : Hall) (b k : Nat) (x : Hall × HallEvent) : Prop where
  sector : x.1.sector = some b
  edges  : x.1.rawEdges = h.rawEdges + hallEdges k
  skips  : x.1.skips = h.skips + (if k = 2 ∨ k = 4 then 1 else 0)
  jump   : x.2 = .jump ↔ k = 3

/-- Table 4.6: a change by one sector or none is at most a glitch. -/
theorem glitch_noJump (glitch : Bool) : (if glitch then HallEvent.glitch else .quiet) ≠ .jump := by
  cases glitch <;> decide

theorem skip_noJump : HallEvent.skip ≠ .jump := by decide

/-- A valid code that undoes no step counts by the difference of the sectors. -/
theorem Hall.change_counts {sequence code since a b : Nat} (pitch : Int) {h : Hall} (hb : sectorOf sequence code = some b)
    (ha : h.sector = some a) (hlt : a < 6) (hu : 2000 ≤ since ∨ h.prior = none) :
    h.Counts b ((b + 6 - a) % 6) (h.change sequence pitch code since) := by
  have hlast := sectorOf_lt hb
  have hnone : h.prior.filter (fun p => decide (since < 2000) && (sectorOf sequence h.code).isSome && p.sector == b) = none := by
    rcases hu with hu | hu
    · rw [decide_eq_false (by omega)]
      exact Option.filter_eq_none_iff.mpr (fun _ _ => Bool.false_ne_true)
    · rw [hu]
      rfl
  have hk : (b + 6 - a) % 6 < 6 := Nat.mod_lt _ (by decide)
  unfold Hall.change
  dsimp only
  rw [hb, ha]
  dsimp only
  rw [hnone]
  have hsame : (b + 6 - a) % 6 = 0 → a = b := by omega
  generalize (b + 6 - a) % 6 = k at *
  obtain rfl | rfl | rfl | rfl | rfl | rfl : k = 0 ∨ k = 1 ∨ k = 2 ∨ k = 3 ∨ k = 4 ∨ k = 5 := by omega
  · exact ⟨congrArg some (hsame rfl), (Int.add_zero _).symm, rfl, iff_of_false (glitch_noJump _) (by decide)⟩
  · exact ⟨rfl, rfl, rfl, iff_of_false (glitch_noJump _) (by decide)⟩
  · exact ⟨rfl, rfl, rfl, iff_of_false skip_noJump (by decide)⟩
  · exact ⟨rfl, (Int.add_zero _).symm, rfl, iff_of_true rfl rfl⟩
  · exact ⟨rfl, rfl, rfl, iff_of_false skip_noJump (by decide)⟩
  · exact ⟨rfl, rfl, rfl, iff_of_false (glitch_noJump _) (by decide)⟩

/-- Table 4.6: a code that goes back within 100 µs undoes the step before it. -/
theorem Hall.change_undoes {sequence code since a b : Nat} (pitch : Int) {h : Hall} {p : HallPrior}
    (hb : sectorOf sequence code = some b) (ha : h.sector = some a) (hp : h.prior = some p) (hs : since < 2000)
    (hv : (sectorOf sequence h.code).isSome = true) (hback : p.sector = b) :
    (h.change sequence pitch code since).1.sector = some b ∧ (h.change sequence pitch code since).1.rawEdges = p.rawEdges
      ∧ (h.change sequence pitch code since).2 = .glitch := by
  have hsome : h.prior.filter (fun p => decide (since < 2000) && (sectorOf sequence h.code).isSome && p.sector == b) = some p := by
    rw [hp, decide_eq_true hs, hv]
    exact Option.filter_some_pos (beq_iff_eq.mpr hback)
  unfold Hall.change
  dsimp only
  rw [hb, ha]
  dsimp only
  rw [hsome]
  exact ⟨congrArg some hback, rfl, rfl⟩

/-! ## The hardware and the engine -/

theorem hallHardware_hall (e : DoorEnv) (code since : Nat) (w : Work) :
    ((hallHardware e code since w).1.dw.door.hall, (hallHardware e code since w).2)
      = w.dw.door.hall.change (e.cfg.hallSequence e.d) (e.cfg.edgePitch e.d) code since := by
  unfold hallHardware DoorDrive.hallChange doorCompare
  dsimp only
  split <;> rfl

theorem hallHardware_parts (e : DoorEnv) (code since : Nat) (w : Work) :
    (hallHardware e code since w).1.dw.door.gen.state = w.dw.door.gen.state
      ∧ (hallHardware e code since w).1.dw.inp = w.dw.inp := by
  unfold hallHardware doorCompare
  dsimp only
  split <;> exact ⟨rfl, rfl⟩

theorem hallSuspect_hall (e : DoorEnv) (w : Work) : (hallSuspect e w).dw.door.hall = w.dw.door.hall := by
  unfold hallSuspect
  split
  · rfl
  · unfold markSuspect
    split <;> rfl

/-- R181: while DCS and DLS have not both stayed made, a Hall condition marks the position suspect. -/
theorem hallSuspect_marks (e : DoorEnv) {w : Work} (h : (w.dw.dcs && w.dw.dls) = false) :
    (hallSuspect e w).dw.door.flags.suspect = true := by
  unfold hallSuspect
  rw [if_neg (by rw [h]; decide)]
  unfold markSuspect
  split
  · assumption
  · rfl

/-- Table 4.6: at rest a jump interrupts no move. -/
theorem hallReacts_jump (e : DoorEnv) {w : Work} (hm : w.dw.door.gen.state ≠ .moving) :
    hallReacts e .jump w = hallSuspect e w := by
  unfold hallReacts
  dsimp only
  rw [if_neg (by simpa using hm)]

/-- The engine leaves the counter, unless the jump interrupts a moving drive. -/
theorem hallReacts_hall (e : DoorEnv) (x : HallEvent) {w : Work} (hm : x = .jump → w.dw.door.gen.state ≠ .moving) :
    (hallReacts e x w).dw.door.hall = w.dw.door.hall := by
  cases x with
  | quiet => rfl
  | glitch => rfl
  | skip =>
    unfold hallReacts
    dsimp only
    split
    · exact hallSuspect_hall e w
    · rfl
  | jump => rw [hallReacts_jump e (hm rfl), hallSuspect_hall]

/-! ## The module -/

/-- Quince's latches do not touch the counter. -/
theorem hall_alike {a b : Doorway} (h : a.alike b) : b.door.hall = a.door.hall := congrArg (fun q => q.hall) h.door

/-- The module as a change of the Hall code leaves it before the engine takes it. -/
def State.hallCounted (s : State) (d : DoorIx) (code since : Nat) : State :=
  (s.changeDoor d (fun e w => (hallHardware e code since w).1)).evaluate

/-- What the change of a doorway's Hall code is, for Table 4.6. -/
def State.hallResult (s : State) (d : DoorIx) (code since : Nat) : Hall × HallEvent :=
  (s.doors[d]).door.hall.change (s.cfg.hallSequence d) (s.cfg.edgePitch d) code since

section
variable {s : State} {d : DoorIx}

theorem hallChanges_eq (hf : s.cfg.isFitted d = true) (hp : s.power.on (leafDomain d) = true) (code since : Nat) :
    s.hallChanges d code since
      = (s.hallCounted d code since).runDoor d (fun e w => hallReacts e (s.hallResult d code since).2 w) := by
  have hevent := congrArg Prod.snd (hallHardware_hall (s.doorEnv d) code since ⟨s.doors[d], []⟩)
  unfold State.hallChanges
  rw [if_neg (by rw [hf, hp]; decide)]
  dsimp only at hevent ⊢
  rw [hevent]
  rfl

theorem hallCounted_alike (s : State) (d : DoorIx) (code since : Nat) :
    (hallHardware (s.doorEnv d) code since ⟨s.doors[d], []⟩).1.dw.alike (s.hallCounted d code since).doors[d] :=
  Doorway.alike_trans (changeDoor_own s d (fun e w => (hallHardware e code since w).1)) (State.evaluate_alike _ d)

theorem hallCounted_hall (s : State) (d : DoorIx) (code since : Nat) :
    ((s.hallCounted d code since).doors[d]).door.hall = (s.hallResult d code since).1 :=
  (hall_alike (hallCounted_alike s d code since)).trans
    (congrArg Prod.fst (hallHardware_hall (s.doorEnv d) code since ⟨s.doors[d], []⟩))

theorem hallCounted_parts (s : State) (d : DoorIx) (code since : Nat) :
    ((s.hallCounted d code since).doors[d]).door.gen.state = (s.doors[d]).door.gen.state
      ∧ ((s.hallCounted d code since).doors[d]).inp = (s.doors[d]).inp
      ∧ (s.hallCounted d code since).leafRuns d = s.leafRuns d := by
  have ha := hallCounted_alike s d code since
  obtain ⟨hstate, hinp⟩ := hallHardware_parts (s.doorEnv d) code since ⟨s.doors[d], []⟩
  obtain ⟨-, -, -, hgen, -⟩ := doorBare_fields ha.door
  have hchange := State.changeDoor_keeps (Within.refl _) (Keeps.refl _ s) d (fun e w => (hallHardware e code since w).1)
  have heval := State.evaluate_keeps (Within.refl _) (Keeps.refl _ (s.changeDoor d (fun e w => (hallHardware e code since w).1)))
  have hpower : (s.hallCounted d code since).power = s.power := (heval.only .power (by decide)).trans (hchange.only .power (by decide))
  have hengines : (s.hallCounted d code since).engines = s.engines :=
    (heval.only .engines (by decide)).trans (hchange.only .engines (by decide))
  refine ⟨hgen.trans hstate, ha.inp.trans hinp, ?_⟩
  unfold State.leafRuns
  rw [hpower, hengines]

/-- R153, R154: the counter takes the change whether the engine runs or not. -/
theorem hallChanges_hall (hf : s.cfg.isFitted d = true) (hp : s.power.on (leafDomain d) = true) {code since : Nat}
    (hm : (s.hallResult d code since).2 = .jump → (s.doors[d]).door.gen.state ≠ .moving) :
    ((s.hallChanges d code since).doors[d]).door.hall = (s.hallResult d code since).1 := by
  rw [hallChanges_eq hf hp]
  have hcount := hallCounted_hall s d code since
  obtain ⟨hstate, -, -⟩ := hallCounted_parts s d code since
  generalize s.hallCounted d code since = u at *
  cases hr : u.leafRuns d with
  | false =>
    unfold State.runDoor
    rw [if_pos (by rw [hr]; rfl)]
    exact hcount
  | true =>
    have ha := u.runDoor_own d (fun e w => hallReacts e (s.hallResult d code since).2 w) hr
    have hkeep := hallReacts_hall (u.doorEnv d) (s.hallResult d code since).2 (w := ⟨u.doors[d], []⟩) (fun h => hstate ▸ hm h)
    exact (hall_alike ha).trans (hkeep.trans hcount)

/-- R181: a change through the opposite sector at rest, taken by the engine. -/
theorem hallChanges_suspect (hf : s.cfg.isFitted d = true) (hp : s.power.on (leafDomain d) = true) (hr : s.leafRuns d = true)
    {code since : Nat} (hj : (s.hallResult d code since).2 = .jump) (hm : (s.doors[d]).door.gen.state ≠ .moving)
    (hd : ((s.doors[d]).dcs && (s.doors[d]).dls) = false) :
    ((s.hallChanges d code since).doors[d]).door.flags.suspect = true := by
  rw [hallChanges_eq hf hp, hj]
  obtain ⟨hstate, hinp, hruns⟩ := hallCounted_parts s d code since
  generalize s.hallCounted d code since = u at *
  have ha := u.runDoor_own d (fun e w => hallReacts e .jump w) (hruns.trans hr)
  have hopen : ((u.doors[d]).dcs && (u.doors[d]).dls) = false := by
    unfold Doorway.dcs Doorway.dls Doorway.input at *
    rw [hinp]
    exact hd
  rw [hallReacts_jump (w := ⟨u.doors[d], []⟩) _ (hstate ▸ hm)] at ha
  exact (congrArg (fun q => q.flags.suspect) ha.door).trans (hallSuspect_marks (w := ⟨u.doors[d], []⟩) _ hopen)

end

/-- Settles O7: the counter by `Hall.change_counts` and `Hall.change_undoes`, which `hallChanges_hall` carries to the module, and
the mark by `hallChanges_suspect`. -/
theorem hallCounts : Obligations.HallCounts := by
  unfold Obligations.HallCounts
  intro s d code since a b hf hp hb ha hlt
  refine ⟨fun hu hm => ?_, fun p hprior hs hv hback => ?_⟩
  · have hcounts : (s.doors[d]).door.hall.Counts b ((b + 6 - a) % 6) (s.hallResult d code.toNat since) :=
      Hall.change_counts _ hb ha hlt hu
    have hhall := hallChanges_hall hf hp (fun h => hm (hcounts.jump.mp h))
    refine ⟨_, rfl, (congrArg Hall.sector hhall).trans hcounts.sector, (congrArg Hall.rawEdges hhall).trans hcounts.edges,
      (congrArg Hall.skips hhall).trans hcounts.skips, fun hr hk hd => ?_⟩
    exact hallChanges_suspect hf hp hr (hcounts.jump.mpr hk) (hm hk) hd
  · obtain ⟨hsector, hedges, hevent⟩ := Hall.change_undoes (since := since) (s.cfg.edgePitch d) hb ha hprior hs hv hback
    have hhall := hallChanges_hall (s := s) (code := code.toNat) (since := since) hf hp
      (fun h => absurd (hevent.symm.trans h) (by decide))
    exact ⟨_, rfl, (congrArg Hall.sector hhall).trans hsector, (congrArg Hall.rawEdges hhall).trans hedges⟩

end Sys2Proof.Machine
end

section
/-!
The module as delivered (log entry 85): what it holds in each of its tables, and the invariant (R376, R389, R447, R608).
-/

namespace Sys2Proof.Machine

theorem Fcp.reset_session (i : SessIx) : Fcp.reset.sessions[i] = Session.reset := tab_get _ i

theorem Fcp.reset_commander (d : DoorIx) : Fcp.reset.commander[d] = none := tab_get _ d

theorem State.reset_door (d : DoorIx) : State.reset.doors[d] = Doorway.reset := tab_get _ d

theorem keyEmpty_zeros (n : Nat) : keyEmpty (List.replicate n 0) = true := by
  unfold keyEmpty
  rw [List.all_eq_true]
  intro b hb
  rw [List.eq_of_mem_replicate hb]
  rfl

/-- R608: a module is delivered with the key of session 4 empty. -/
theorem Service.reset_keyUnset : Service.reset.keyUnset = true := by
  have hkey : Service.reset.keys[(4 : Fin 5)] = List.replicate 32 0 := tab_get _ _
  unfold Service.keyUnset
  rw [hkey]
  exact keyEmpty_zeros 32

theorem State.reset_inv : State.reset.Inv := ⟨Fcp.reset_bounded, Memory.nil_wf⟩

/-- Settles O55: the invariant by `State.reset_inv`, the key by `Service.reset_keyUnset`, and a session, a commander and a
doorway by the entry of their table; the rest is as `State.reset` writes it. -/
theorem resetState : Obligations.ResetState := by
  unfold Obligations.ResetState
  refine ⟨State.reset_inv, rfl, rfl, Service.reset_keyUnset, rfl, rfl, rfl, rfl, fun i => ?_, fun d => ⟨Fcp.reset_commander d, ?_⟩⟩
  · have hclosed : State.reset.fcp.sessions[i] = Session.reset := Fcp.reset_session i
    rw [hclosed]
    exact ⟨rfl, rfl, rfl⟩
  · rw [State.reset_door]
    rfl

end Sys2Proof.Machine
end

section
/-!
The reflex of a doorway (chapter 6): onsets of the sensitive edges, of Rowan and of the final-closure check leave a waiting trip
(R236, R247, R251), the state machine takes it (R259, R266), and the ends of a reflex stop and of a latch only clear their marks
(R261, R268).
-/

namespace Sys2Proof.Machine

/-! ## Onset rows leave a waiting trip -/

/-- An obstacle part with the fast path of one edge active (R251). -/
def Obstacle.edgeActive (o : Obstacle) (second : Bool) : Obstacle :=
  { o with seFast := if second then (o.seFast.1, true) else (true, o.seFast.2) }

theorem edgeActive_seFast (o : Obstacle) (second : Bool) :
    (if second then (o.edgeActive second).seFast.2 else (o.edgeActive second).seFast.1) = true := by cases second <;> rfl

section
variable {s : State} {d : DoorIx} {row : RowIx}

/-- R251: a fast path that was active already, or that the voltages leave inactive, has no onset. -/
theorem edgeOnset_none {x : EdgeSample}
    (h : (if x.second then (s.doors[d]).obst.seFast.2 else (s.doors[d]).obst.seFast.1) = true
      ∨ (s.doors[d]).inp.front.fastPath false (if x.second then 9 else 8) x.vIn x.vCom = false) : s.edgeOnset d x = s := by
  unfold State.edgeOnset
  dsimp only
  generalize (if x.second then (s.doors[d]).obst.seFast.2 else (s.doors[d]).obst.seFast.1) = was at h ⊢
  cases was
  · have hfast := h.resolve_left (by decide)
    rw [if_pos (by rw [hfast, Bool.not_false, Bool.or_true])]
  · rw [if_pos (by rw [Bool.or_true, Bool.true_or])]

/-- R251: the onset of a sensitive edge marks its fast path and latches its row. -/
theorem edgeOnset_trip {x : EdgeSample} (hf : s.cfg.isFitted d = true) (hp : s.power.on (leafDomain d) = true)
    (ho : s.quince.oscillator = true) (hrow : row.val = 2 * d.val + x.second.toNat)
    (ha : reflexAction s.cfg row (doorDrive d) ≠ .none)
    (hwas : (if x.second then (s.doors[d]).obst.seFast.2 else (s.doors[d]).obst.seFast.1) = false)
    (hfast : (s.doors[d]).inp.front.fastPath false (if x.second then 9 else 8) x.vIn x.vCom = true) :
    ((s.doors[d]).obst.edgeActive x.second).TripOf row 0 ((s.edgeOnset d x).doors[d]).obst := by
  have hown : ownRow d row := by
    unfold ownRow
    have := x.second.toNat_le
    omega
  have hix : (if x.second then ⟨2 * d.val + 1, by omega⟩ else ⟨2 * d.val, by omega⟩ : RowIx) = row := by
    refine Fin.ext ?_
    rw [hrow]
    cases x.second <;> rfl
  unfold State.edgeOnset
  dsimp only
  rw [hwas, hix]
  generalize (if x.second then 9 else 8) = input at hfast ⊢
  rw [if_neg (by rw [hf, hfast]; decide)]
  exact reflexTrip_edge s d x.second hown ha hf hp ho

/-- R236: a Rowan sample above its limit is kept, and latches its row. -/
theorem rowanTrips_trip {iq acc temp : Int} (hf : s.cfg.isFitted d = true) (hp : s.power.on (leafDomain d) = true)
    (ho : s.quince.oscillator = true) (hc : (rowanCompares s.doors[d]).1 = true)
    (hs : (rowanSample (s.doorEnv d) s.doors[d] iq acc temp).1 ≠ 0)
    (hl : (rowanSample (s.doorEnv d) s.doors[d] iq acc temp).2.2 < (rowanSample (s.doorEnv d) s.doors[d] iq acc temp).2.1)
    (hrow : row.val = (if (rowanSample (s.doorEnv d) s.doors[d] iq acc temp).1 < 0 then 16 + 2 * d.val else 17 + 2 * d.val))
    (ha : reflexAction s.cfg row (doorDrive d) ≠ .none) :
    ({ (s.doors[d]).obst with
      lastEffort := (rowanSample (s.doorEnv d) s.doors[d] iq acc temp).2.1
      lastLimit := (rowanSample (s.doorEnv d) s.doors[d] iq acc temp).2.2 } : Obstacle).TripOf row 0
      ((s.rowanTrips d iq acc temp).doors[d]).obst := by
  unfold State.rowanTrips
  dsimp only
  generalize rowanSample (s.doorEnv d) s.doors[d] iq acc temp = x at hs hl hrow ⊢
  have hown : ownRow d row := by
    unfold ownRow
    split at hrow <;> omega
  have hix : (if x.1 < 0 then ⟨16 + 2 * d.val, by omega⟩ else ⟨17 + 2 * d.val, by omega⟩ : RowIx) = row := by
    refine Fin.ext ?_
    rw [hrow]
    split <;> rfl
  rw [if_neg (by rw [hf, hp, hc, decide_eq_false hs, decide_eq_false (Int.not_le.mpr hl)]; decide), hix]
  exact reflexTrip_effort s d x.2.1 x.2.2 hown ha hf hp ho

theorem withEnergy_pending (w : Doorway) (m : FinalClosure) : (w.withEnergy m).obst.pending = w.obst.pending := by cases m <;> rfl

theorem withEnergy_counters (w : Doorway) (m : FinalClosure) : (w.withEnergy m).obst.counters = w.obst.counters := by cases m <;> rfl

/-- R247, R250: a final-closure criterion that is met latches the doorway's row. -/
theorem closureTrips_trip {m : FinalClosure} (hf : s.cfg.isFitted d = true) (hp : s.power.on (leafDomain d) = true)
    (ho : s.quince.oscillator = true) (hrow : row.val = 32 + d.val)
    (hruns : finalClosureRuns (s.doorEnv d) s.doors[d] m = true) (hmet : finalClosureTrips s.cfg d (s.doors[d]).obst m = true)
    (ha : reflexAction s.cfg row (doorDrive d) ≠ .none) :
    ((s.doors[d]).withEnergy m).obst.TripOf row (FinalClosure.number m) ((s.closureTrips d m).doors[d]).obst := by
  have hown : ownRow d row := .inr (.inr (.inr (.inr hrow)))
  have hix : (⟨32 + d.val, by omega⟩ : RowIx) = row := Fin.ext hrow.symm
  unfold State.closureTrips
  dsimp only
  rw [if_neg (by rw [hf, hruns, hmet]; decide), hix]
  exact reflexTrip_own s d (fun w => w.withEnergy m) hown (FinalClosure.number m) ha hf hp ho

end

/-! ## A waiting trip is taken -/

/-- R259, R266: the trip of a calm doorway in CLOSING phase MOVE, by the obstacles that this close has met. -/
theorem onTripTaken_closing {e : DoorEnv} {w : Work} {t : Trip} (ht : w.dw.obst.pending = some t)
    (h : ({ w.dw with obst := { w.dw.obst with pending := none } } : Doorway).Calm e) (hs : w.dw.sm.state = .closing)
    (hph : w.dw.sm.phase = .move) :
    (onTripTaken e w).dw.sm.state = (if w.dw.sm.obstacles + 1 < e.cfg.obstacleLimit e.d then .reopening else .obstructed)
      ∧ (onTripTaken e w).dw.sm.cause = .obstacleClosing ∧ (onTripTaken e w).dw.obst.pending = none
      ∧ (w.dw.sm.obstacles + 1 < e.cfg.obstacleLimit e.d → w.dw.door.gen.braked = true ∨ w.dw.door.gen.state = .moving →
          (onTripTaken e w).dw.sm.phase = .reopenMove) := by
  have htick : onTripTaken e w = _ := tick_trip ht h id
  generalize hv : w.obst (fun q => { q with pending := none }) = v at htick
  have hsm : v.dw.sm = w.dw.sm := by rw [← hv]; rfl
  have hdoor : v.dw.door = w.dw.door := by rw [← hv]; rfl
  have hpend : v.dw.obst.pending = none := by rw [← hv]; rfl
  have hvs : v.dw.sm.state = .closing := hsm ▸ hs
  have hvp : v.dw.sm.phase = .move := hsm ▸ hph
  have hcourse : v.dw.course = (.closing, .move) := by rw [course_own (by rw [hvs]; decide), hvs, hvp]
  rw [solenoidCheck_off e (by rw [hcourse]; decide) (by rw [hcourse]; decide)] at htick
  have hstands := seeLevels_is (e := e) (dropEdges_is (w := takeTrip e t v) ⟨rfl, rfl, rfl⟩)
  obtain ⟨hstate, hcause, hgone, hphase⟩ := takeTrip_closing e t hvs hvp hpend
  rw [hsm] at hstate hphase
  rw [hdoor] at hphase
  rw [htick]
  refine ⟨hstands.state.trans hstate, hstands.cause.trans hcause, ?_, fun hn hm => hstands.phase.trans (hphase hn hm)⟩
  rw [seeLevels_obst, dropEdges_obst, hgone]

/-! ## A motion that starts -/

/-- An obstacle part without the marks of the stroke in progress, which a motion that starts writes (R235, R244, R247). -/
def Obstacle.offStroke (o : Obstacle) : Obstacle :=
  { o with flags := { o.flags with breakaway := false, disturbed := false, pastMark := false } }

theorem seFast_of_offStroke {a b : Obstacle} (h : a.offStroke = b.offStroke) : a.seFast = b.seFast :=
  congrArg (fun o => o.seFast) h

theorem reflexStop_of_offStroke {a b : Obstacle} (h : a.offStroke = b.offStroke) : a.flags.reflexStop = b.flags.reflexStop :=
  congrArg (fun o => o.flags.reflexStop) h

theorem reopenOver_of_offStroke {a b : Obstacle} (h : a.offStroke = b.offStroke) : a.flags.reopenOver = b.flags.reopenOver :=
  congrArg (fun o => o.flags.reopenOver) h

theorem strokeStarts_offStroke (e : DoorEnv) (fromRest resumed : Bool) (w : Work) :
    (strokeStarts e fromRest resumed w).dw.obst.offStroke = w.dw.obst.offStroke := by
  unfold strokeStarts
  dsimp only
  split <;> rfl

theorem doorContext_offStroke (e : DoorEnv) (role skip : Nat) (w : Work) :
    (doorContext e role skip w).dw.obst.offStroke = w.dw.obst.offStroke := by
  unfold doorContext
  dsimp only
  split
  · rfl
  · exact strokeStarts_offStroke e _ _ _

theorem doorStartClose_offStroke (e : DoorEnv) (w : Work) : (doorStartClose e w).dw.obst.offStroke = w.dw.obst.offStroke := by
  unfold doorStartClose
  dsimp only
  split
  · split
    · rw [sealSeekStart_obst]
      exact strokeStarts_offStroke e _ _ w
    · exact doorContext_offStroke e 3 0 w
  · exact doorContext_offStroke e 1 0 w

theorem doorResume_offStroke (e : DoorEnv) (w : Work) : (doorResume e w).dw.obst.offStroke = w.dw.obst.offStroke := by
  unfold doorResume
  split
  · rfl
  · dsimp only
    split
    · exact strokeStarts_offStroke e _ _ _
    · split
      · rfl
      · split
        · exact strokeStarts_offStroke e _ _ _
        · exact strokeStarts_offStroke e _ _ _

theorem resumeDoor_offStroke (e : DoorEnv) (w : Work) : (resumeDoor e w).dw.obst.offStroke = w.dw.obst.offStroke := by
  unfold resumeDoor
  dsimp only
  split
  · rfl
  · split
    · split
      · rfl
      · exact doorResume_offStroke e _
    · split
      · rw [sealSeekStart_obst]; rfl
      · rw [doorHold_obst]; rfl
    · rw [doorHold_obst]; rfl
    · rfl

/-! ## The ends of a reflex stop and of a latch -/

/-- The marks of a reflex stop cleared (R261). -/
def Obstacle.stopOver (o : Obstacle) : Obstacle := { o with flags := { o.flags with reflexStop := false, reopenOver := false } }

/-- R261: after a reflex stop a doorway in STOPPED or CLOSING starts its motion at most. -/
theorem afterReflexStop_keeps {e : DoorEnv} {w : Work} (h : w.dw.sm.state = .stopped ∨ w.dw.sm.state = .closing) :
    (afterReflexStop e w).dw.sm = w.dw.sm ∧ (afterReflexStop e w).dw.obst.offStroke = w.dw.obst.stopOver.offStroke := by
  unfold afterReflexStop
  dsimp only
  generalize hv : w.obstFlags _ = v
  have hsm : v.dw.sm = w.dw.sm := by rw [← hv]; rfl
  have hobst : v.dw.obst = w.dw.obst.stopOver := by rw [← hv]; rfl
  rw [← hsm, ← hobst]
  rw [← hsm] at h
  rcases h with hs | hs
  · rw [hs]
    exact ⟨rfl, rfl⟩
  · rw [hs]
    cases v.dw.sm.phase
    case move => exact ⟨doorStartClose_sm e v, doorStartClose_offStroke e v⟩
    all_goals exact ⟨doorHold_sm e v, congrArg Obstacle.offStroke (doorHold_obst e v)⟩

/-- R261: a reflex stop under a torque reflex ends. -/
theorem onReflexStopEnd_ends {e : DoorEnv} {w : Work} (hr : w.dw.obst.flags.reflexStop = true) (hb : w.dw.door.gen.braked = true)
    (h : w.dw.sm.state = .stopped ∨ w.dw.sm.state = .closing) :
    (onReflexStopEnd e w).dw.sm = w.dw.sm ∧ (onReflexStopEnd e w).dw.obst.offStroke = w.dw.obst.stopOver.offStroke := by
  have hover := afterReflexStop_keeps (e := e) (w := releaseLatch e w) (by rw [releaseLatch_sm]; exact h)
  rw [releaseLatch_sm, releaseLatch_obst] at hover
  unfold onReflexStopEnd
  rw [if_pos (by rw [hr, hb]; rfl)]
  dsimp only
  split
  · rw [stepRegains_sm, stepRegains_obst]
    exact hover
  · exact hover

/-- R268, log entry 24: a release of the latches forgets the onsets of both edges. -/
theorem onLatchRelease_seFast {e : DoorEnv} {w : Work} (hr : w.dw.obst.flags.reflexStop = false)
    (hl : w.dw.door.latch.action ≠ .none) : (onLatchRelease e w).dw.obst.seFast = (false, false) := by
  unfold onLatchRelease
  rw [if_neg (not_or.mpr ⟨fun hnone => hl hnone.1, by rw [hr]; decide⟩)]
  dsimp only
  generalize hv : releaseLatch e (w.obst (fun q => { q with seFast := (false, false) })) = v
  have hfast : v.dw.obst.seFast = (false, false) := by rw [← hv, releaseLatch_obst]; rfl
  have hresumed : (if w.dw.door.gen.braked then resumeDoor e v else v).dw.obst.seFast = (false, false) := by
    split
    · exact (seFast_of_offStroke (resumeDoor_offStroke e v)).trans hfast
    · exact hfast
  split
  · rw [stepRegains_obst]
    exact hresumed
  · exact hresumed

/-- Settles O15: the onsets by `edgeOnset_trip`, `rowanTrips_trip` and `closureTrips_trip`, the trip by `onTripTaken_closing`, the
ends by `onReflexStopEnd_ends` and `onLatchRelease_seFast`. -/
theorem reflexTripsLatchAndAreTaken : Obligations.ReflexTripsLatchAndAreTaken := by
  unfold Obligations.ReflexTripsLatchAndAreTaken
  refine ⟨fun s d hf hp ho => ⟨fun x h => ?_, fun x row hrow ha hwas hfast => ?_, fun iq acc temp row hc hs hl hrow ha => ?_,
    fun m row hrow hruns hmet ha => ?_⟩, fun s d hf hr => ⟨fun t ht _ hw hs hph => ?_, fun hstop hb hs => ?_, fun hstop hl => ?_⟩⟩
  · exact congrArg Host.Outcome.next (edgeOnset_none h)
  · have htrip := edgeOnset_trip hf hp ho hrow ha hwas hfast
    have hlow : row.val < 16 := by have := x.second.toNat_le; omega
    refine ⟨_, rfl, ?_, htrip.pending, htrip.source, htrip.counted.1.trans (if_pos hlow)⟩
    rw [htrip.fast]
    exact edgeActive_seFast _ x.second
  · have htrip := rowanTrips_trip hf hp ho hc hs hl hrow ha
    obtain ⟨heffort, hlimit⟩ := htrip.effort
    have hmid : 16 ≤ row.val ∧ row.val < 32 := by split at hrow <;> omega
    exact ⟨_, rfl, heffort, hlimit, htrip.pending, htrip.source, htrip.counted.2.1.trans (if_pos hmid)⟩
  · have htrip := closureTrips_trip hf hp ho hrow hruns hmet ha
    have hpending := htrip.pending
    have hcounted := htrip.counted.2.2.trans (if_pos (by omega))
    rw [withEnergy_pending] at hpending
    rw [withEnergy_counters] at hcounted
    exact ⟨_, rfl, hpending, htrip.source, hcounted⟩
  · have hown := s.atDoor_own d onTripTaken hf hr
    obtain ⟨hstate, hcause, hgone, hphase⟩ := onTripTaken_closing (e := s.doorEnv d) (w := ⟨s.doors[d], []⟩) ht hw hs hph
    rw [← hown.sm] at hstate hcause hphase
    rw [← hown.obst] at hgone
    exact ⟨_, rfl, hcause, hgone, fun hn => ⟨hstate.trans (if_pos hn), hphase hn⟩, fun hn => hstate.trans (if_neg (Nat.not_lt.mpr hn))⟩
  · have hown := s.runDoor_own d onReflexStopEnd hr
    obtain ⟨hsm, hobst⟩ := onReflexStopEnd_ends (e := s.doorEnv d) (w := ⟨s.doors[d], []⟩) hstop hb hs
    rw [← hown.sm] at hsm
    rw [← hown.obst] at hobst
    exact ⟨_, rfl, reflexStop_of_offStroke hobst, reopenOver_of_offStroke hobst, hsm⟩
  · have hown := s.runDoor_own d onLatchRelease hr
    have hfast := onLatchRelease_seFast (e := s.doorEnv d) (w := ⟨s.doors[d], []⟩) hstop hl
    exact ⟨_, rfl, (congrArg (fun o => o.seFast) hown.obst).trans hfast, hown.sm.trans (onLatchRelease_sm _ _)⟩

end Sys2Proof.Machine
end

section
/-!
Protection, diagnostics and the command link of the load switches (chapter 7): what each occurrence makes of the channels and
of the link, at the controllers and then in the module.
-/

namespace Sys2Proof.Machine

/-! ## Protection (R280 to R286) -/

section
variable (e : LswEnv) {n : ChanIx} {w : LoadSwitches} {current : Nat}

/-- R280: an inrush window that ends at a current within the limits leaves the channel on. -/
theorem onInrushEnd_within (hon : (w.chans[leaderOf e.cfg n]).on = true) (hin : (w.chans[leaderOf e.cfg n]).inrush = true)
    (h6 : current < 6000) (hlim : current ≤ e.cfg.chOcLimit (leaderOf e.cfg n)) :
    (onInrushEnd e n current w).1.chans[leaderOf e.cfg n]
      = { w.chans[leaderOf e.cfg n] with inrush := false, shortWindow := false } := by
  unfold onInrushEnd
  dsimp only
  rw [if_pos (by rw [hon, hin]; rfl), if_neg (by omega), if_neg (by omega)]
  exact w.chan_self _ _

/-- R280: at the hardware limit the window ends as an overcurrent of cause 2. -/
theorem onInrushEnd_limited (hon : (w.chans[leaderOf e.cfg n]).on = true) (hin : (w.chans[leaderOf e.cfg n]).inrush = true)
    (h6 : 6000 ≤ current) :
    Channel.Tripped (w.chans[leaderOf e.cfg n]) ((onInrushEnd e n current w).1.chans[leaderOf e.cfg n]) 2 := by
  unfold onInrushEnd
  dsimp only
  rw [if_pos (by rw [hon, hin]; rfl), if_pos h6]
  exact overcurrent_is e n 2 current w

/-- R280: above OC_LIMIT, below the hardware limit, the window ends as an overcurrent of cause 3. -/
theorem onInrushEnd_above (hon : (w.chans[leaderOf e.cfg n]).on = true) (hin : (w.chans[leaderOf e.cfg n]).inrush = true)
    (h6 : current < 6000) (hlim : e.cfg.chOcLimit (leaderOf e.cfg n) < current) :
    Channel.Tripped (w.chans[leaderOf e.cfg n]) ((onInrushEnd e n current w).1.chans[leaderOf e.cfg n]) 3 := by
  unfold onInrushEnd
  dsimp only
  rw [if_pos (by rw [hon, hin]; rfl), if_neg (by omega), if_pos hlim]
  exact overcurrent_is e n 3 current w

/-- R282: OC_STEADY. -/
theorem onSteady_trips (hon : (w.chans[leaderOf e.cfg n]).on = true) (hin : (w.chans[leaderOf e.cfg n]).inrush = false)
    (hlim : e.cfg.chOcLimit (leaderOf e.cfg n) < current) :
    Channel.Tripped (w.chans[leaderOf e.cfg n]) ((onSteady e n current w).1.chans[leaderOf e.cfg n]) 1 := by
  unfold onSteady
  dsimp only
  rw [if_pos (by rw [hon, hin, decide_eq_true hlim]; rfl)]
  exact overcurrent_is e n 1 current w

/-- R283: OC_SHORT. -/
theorem onShort_trips (hon : (w.chans[leaderOf e.cfg n]).on = true) (hin : (w.chans[leaderOf e.cfg n]).inrush = false) :
    Channel.Tripped (w.chans[leaderOf e.cfg n]) ((onShort e n w).1.chans[leaderOf e.cfg n]) 2 := by
  unfold onShort
  dsimp only
  rw [if_pos (by rw [hon, hin]; rfl)]
  exact overcurrent_is e n 2 6000 w

/-- R284: a back-off that ends under a demand for on turns the channel on again and costs one retry. -/
theorem onRetry_turnsOn (hw : (w.chans[leaderOf e.cfg n]).retryWait = true) (hd : w.demand e.cfg (leaderOf e.cfg n) = .on) :
    ((onRetry e n w).chans[leaderOf e.cfg n]).on = true ∧ ((onRetry e n w).chans[leaderOf e.cfg n]).inrush = true
      ∧ ((onRetry e n w).chans[leaderOf e.cfg n]).retryWait = false
      ∧ ((onRetry e n w).chans[leaderOf e.cfg n]).retriesLeft = (w.chans[leaderOf e.cfg n]).retriesLeft - 1
      ∧ ((onRetry e n w).chans[leaderOf e.cfg n]).shortWindow = ((w.chans[leaderOf e.cfg n]).ocCause == 2) := by
  unfold onRetry
  extract_lets l q v
  have hv : v.chans[l] = { w.chans[l] with retryWait := false, retriesLeft := (w.chans[l]).retriesLeft - 1 } := w.chan_self l _
  have hcmd : w.Same (fun q => q.cmd) v := w.chan_same (fun q => q.cmd) l _ (by intro _; rfl)
  have hdemand : v.demand e.cfg l = .on := (demand_same (a := w) (b := v) e.cfg l rfl hcmd).trans hd
  obtain ⟨hon, hin, hshort, hwait, hleft⟩ := v.turnOn_self e.cfg l (q.ocCause == 2)
  rw [hv] at hwait hleft
  have hq : (!q.retryWait) = false := congrArg not hw
  rw [hq, if_neg (by decide), hdemand]
  exact ⟨hon, hin, hwait, hleft, hshort⟩

/-- R285: a channel that stayed on has its retries again. -/
theorem onRestore_refills (hon : (w.chans[leaderOf e.cfg n]).on = true) (ht : w.groupThermal e.cfg (leaderOf e.cfg n) = false) :
    ((onRestore e n w).chans[leaderOf e.cfg n]).retriesLeft = e.cfg.chRetryCount (leaderOf e.cfg n) := by
  unfold onRestore
  dsimp only
  rw [if_pos (by rw [hon, ht]; rfl), LoadSwitches.chan_self]

/-- R286: a switch that latches takes its group off, with no retry to wait for. -/
theorem onThermalLatch_off (ht : (w.chans[n]).thermal = false) :
    ((onThermalLatch e n w).1.chans[n]).thermal = true ∧ ((onThermalLatch e n w).1.chans[leaderOf e.cfg n]).on = false
      ∧ ((onThermalLatch e n w).1.chans[leaderOf e.cfg n]).retryWait = false
      ∧ ((onThermalLatch e n w).1.chans[leaderOf e.cfg n]).retriesLeft = (w.chans[leaderOf e.cfg n]).retriesLeft
      ∧ ((onThermalLatch e n w).1.chans[n]).counters.thermals = satInc 16 (w.chans[n]).counters.thermals := by
  unfold onThermalLatch
  rw [if_neg (by rw [ht]; decide)]
  extract_lets l v u
  have hoff : v.chans[l] = { w.chans[l] with on := false, inrush := false, retryWait := false } := by
    show ((w.turnOff l).chan l _).chans[l] = _
    unfold LoadSwitches.turnOff
    rw [LoadSwitches.chan_self, LoadSwitches.chan_self]
  have hcount : (v.chans[n]).counters = (w.chans[n]).counters :=
    ((w.chan_same (fun q => q.counters) l _ (by intro _; rfl)).chan l _ (by intro _; rfl)) n
  have hself : u.chans[n] = { v.chans[n] with
      thermal := true, counters := { (v.chans[n]).counters with thermals := satInc 16 (v.chans[n]).counters.thermals } } :=
    v.chan_self n _
  have hlead : ((u.chans[l]).on, (u.chans[l]).retryWait, (u.chans[l]).retriesLeft)
      = ((v.chans[l]).on, (v.chans[l]).retryWait, (v.chans[l]).retriesLeft) :=
    (v.chan_same (fun q => (q.on, q.retryWait, q.retriesLeft)) n _ (by intro _; rfl)) l
  rw [hoff] at hlead
  obtain ⟨hon, hwait, hleft⟩ : _ ∧ _ ∧ _ := by simpa only [Prod.mk.injEq] using hlead
  exact ⟨congrArg Channel.thermal hself, hon, hwait, hleft, by rw [hself, hcount]⟩

end

/-! ## Keep-warm whatever the fault of the element (R297, R299) -/

/-- Following a demand leaves the temperature last computed. -/
theorem LoadSwitches.apply_temp (w : LoadSwitches) (c : Cfg) (l : ChanIx) : w.Same (fun q => q.heater.temp) (w.apply c l) := by
  have hfollow : ∀ (v : LoadSwitches) (b : Bool), v.Same (fun q => q.heater.temp) (v.follow c l b) := fun v b m =>
    congrArg (fun x : Option ChanCmd × Option Bool × ChanCmd × Bool × Bool × ChanDiag × Heater => x.2.2.2.2.2.2.temp)
      (v.follow_same c l b m)
  unfold LoadSwitches.apply
  split
  · exact (w.chan_same _ l _ (by intro _; rfl)).trans (hfollow _ false)
  · exact (w.chan_same _ l _ (by intro _; rfl)).trans (hfollow _ true)
  · exact hfollow w _

/-- R297: the decision of a second leaves the temperature that it decides on. -/
theorem regulate_temp (e : LswEnv) (l : ChanIx) (w : LoadSwitches) : w.Same (fun q => q.heater.temp) (regulate e l w) :=
  (w.chan_same _ l _ (by intro _; rfl)).trans (LoadSwitches.apply_temp _ e.cfg l)

/-- R297: while it is on outside its inrush window a keep-warm heater takes the temperature of its element. -/
theorem onKeepWarm_temp (e : LswEnv) {n : ChanIx} {v current : Nat} {w : LoadSwitches}
    (hd : w.demand e.cfg (leaderOf e.cfg n) = .keepWarm) (hs : selfSensing e.cfg (leaderOf e.cfg n) = true) (hc : current ≠ 0)
    (ht : tempInRange (elementTemp e.cfg (leaderOf e.cfg n) (elementR v current)) = true)
    (hon : (w.chans[leaderOf e.cfg n]).on = true) (hin : (w.chans[leaderOf e.cfg n]).inrush = false) :
    ((onKeepWarm e n v current w).1.chans[leaderOf e.cfg n]).heater.temp
      = elementTemp e.cfg (leaderOf e.cfg n) (elementR v current) := by
  unfold onKeepWarm
  dsimp only
  rw [if_neg (by rw [hd, hs]; decide), if_pos (by rw [hon, hin]; rfl)]
  exact (regulate_temp e _ _ _).trans (reading_is e _ v current false w hc ht).1

/-! ## The command link (R300 to R305) -/

/-- The number of a frame is a byte (R300). -/
theorem frameSeq_mod (seq : BitVec 8) : seq.toNat % 256 = seq.toNat := Nat.mod_eq_of_lt seq.isLt

section
variable {e : LswEnv} {seq : Nat} {mode : LswMode} {w : LoadSwitches}

/-- R303: in fail-safe a valid frame before the eighth of its run only counts. -/
theorem frame_counted (h : ∀ q, w.link.seq = some q → seq % 256 = (q + 1) % 256) (hf : w.link.failsafe = true)
    (hr : w.link.validRun < 7) :
    (lswFrame e seq true mode w).1 = w.onLink (fun l => { l with seq := some (seq % 256), validRun := min 8 (l.validRun + 1) }) := by
  rw [frame_good e seq mode w h]
  dsimp only [LoadSwitches.onLink]
  rw [if_pos]
  rw [hf, decide_eq_true (by omega)]
  rfl

/-- R303: the eighth valid frame of a run in fail-safe, and every one outside it, is taken in its mode. -/
theorem frame_taken (h : ∀ q, w.link.seq = some q → seq % 256 = (q + 1) % 256)
    (hr : w.link.failsafe = false ∨ 7 ≤ w.link.validRun) :
    (lswFrame e seq true mode w).1 = takeFrame e mode
      (w.onLink (fun l => { l with seq := some (seq % 256), validRun := min 8 (l.validRun + 1), failsafe := false })) := by
  rw [frame_good e seq mode w h]
  dsimp only [LoadSwitches.onLink]
  rw [if_neg]
  rw [Bool.and_eq_true, decide_eq_true_eq]
  rintro ⟨hf, hlt⟩
  rcases hr with hr | hr
  · rw [hr] at hf; cases hf
  · omega

end

/-- R301: the watchdog enters fail-safe, but in UPDATE_HOLD and in STABLE. -/
theorem lswWatchdog_enters {e : LswEnv} {w : LoadSwitches} (h : (w.link.updateHold || w.link.stable) = false) :
    lswWatchdog e w = enterFailsafe e w := if_neg (by rw [h]; decide)

/-- R304: the end of the update hold enters fail-safe. -/
theorem lswHoldTimeout_enters {e : LswEnv} {w : LoadSwitches} (h : w.link.updateHold = true) :
    lswHoldTimeout e w = enterFailsafe e w := if_pos h

section
variable {s : State}

/-- A frame at a module whose FIELD_IO is on and whose supervisor pair runs is the controllers' frame. -/
theorem commandFrame_exec (hon : s.fieldOn = true) (hr : s.supvRuns = true) (seq : BitVec 8) (crcOk : Bool) (mode : LswMode) :
    ∃ t, exec (.lswCommandFrame seq crcOk mode) s = .next t ∧ t.lsw = (lswFrame s.lswEnv seq.toNat crcOk mode s.lsw).1 := by
  refine ⟨_, rfl, ?_⟩
  rw [if_pos hr]
  exact s.takeLsw_lsw _ hon

/-- R300: a frame that is corrupt or out of sequence changes no channel. -/
theorem commandFrame_invalid (hon : s.fieldOn = true) (hr : s.supvRuns = true) {seq : BitVec 8} {crcOk : Bool} {mode : LswMode}
    (h : crcOk = false ∨ ∃ q, s.lsw.link.seq = some q ∧ seq.toNat ≠ (q + 1) % 256) :
    ∃ t, exec (.lswCommandFrame seq crcOk mode) s = .next t ∧ t.lsw.chans = s.lsw.chans ∧ t.lsw.link.seq = s.lsw.link.seq
      ∧ t.lsw.link.validRun = 0 ∧ t.lsw.link.invalidFrames = satInc 32 s.lsw.link.invalidFrames := by
  obtain ⟨t, hexec, hlsw⟩ := commandFrame_exec hon hr seq crcOk mode
  rw [frame_bad s.lswEnv seq.toNat crcOk mode s.lsw (by rwa [frameSeq_mod])] at hlsw
  refine ⟨t, hexec, ?_⟩
  rw [hlsw]
  exact ⟨rfl, rfl, rfl, rfl⟩

/-- R303: a valid frame in fail-safe that is not the eighth of its run changes no channel and leaves fail-safe. -/
theorem commandFrame_counted (hon : s.fieldOn = true) (hr : s.supvRuns = true) {seq : BitVec 8} {mode : LswMode}
    (h : ∀ q, s.lsw.link.seq = some q → seq.toNat = (q + 1) % 256) (hf : s.lsw.link.failsafe = true)
    (h7 : s.lsw.link.validRun < 7) :
    ∃ t, exec (.lswCommandFrame seq true mode) s = .next t ∧ t.lsw.chans = s.lsw.chans ∧ t.lsw.link.seq = some seq.toNat
      ∧ t.lsw.link.validRun = s.lsw.link.validRun + 1 ∧ t.lsw.link.failsafe = true := by
  obtain ⟨t, hexec, hlsw⟩ := commandFrame_exec hon hr seq true mode
  rw [frame_counted (by rwa [frameSeq_mod]) hf h7, frameSeq_mod] at hlsw
  refine ⟨t, hexec, ?_⟩
  rw [hlsw]
  exact ⟨rfl, rfl, Nat.min_eq_right (by omega), hf⟩

/-- R300, R303, R304: a valid frame that is taken leaves fail-safe and sets the mode; a LOCK channel follows its doorway's permit in
RUN, and in UPDATE_HOLD every other channel keeps its command. -/
theorem commandFrame_taken (hon : s.fieldOn = true) (hr : s.supvRuns = true) {seq : BitVec 8} {mode : LswMode}
    (h : ∀ q, s.lsw.link.seq = some q → seq.toNat = (q + 1) % 256)
    (h7 : s.lsw.link.failsafe = false ∨ 7 ≤ s.lsw.link.validRun) :
    ∃ t, exec (.lswCommandFrame seq true mode) s = .next t ∧ t.lsw.link.seq = some seq.toNat
      ∧ t.lsw.link.failsafe = false ∧ t.lsw.link.updateHold = (mode == .updateHold)
      ∧ t.lsw.link.stable = (mode == .stable || (mode == .updateHold && s.lsw.link.stable))
      ∧ (mode = .run → ∀ n : ChanIx, isLeader s.cfg n = true → functionOf s.cfg n = 4 →
          (s.lswEnv.permits[chanDoor n]) = false → (t.lsw.chans[n]).cmd = .off)
      ∧ (mode = .updateHold → ∀ n : ChanIx, functionOf s.cfg n ≠ 4 → (t.lsw.chans[n]).cmd = (s.lsw.chans[n]).cmd) := by
  obtain ⟨t, hexec, hlsw⟩ := commandFrame_exec hon hr seq true mode
  rw [frame_taken (by rwa [frameSeq_mod]) h7, frameSeq_mod] at hlsw
  refine ⟨t, hexec, ?_⟩
  rw [hlsw]
  obtain ⟨hseq, hfail, hhold, hstable⟩ := takeFrame_link s.lswEnv mode
    (s.lsw.onLink (fun l => { l with seq := some seq.toNat, validRun := min 8 (l.validRun + 1), failsafe := false }))
  refine ⟨hseq, hfail, hhold, hstable, fun hm n hl h4 hp => ?_, fun hm n h4 => ?_⟩
  · subst hm
    exact takeFrame_run s.lswEnv _ n hl h4 hp
  · subst hm
    exact takeFrame_hold s.lswEnv _ n h4

end

/-- Settles O17: a frame that does not count, that only counts, and that is taken, by the three lemmas above; the watchdog and the end
of the update hold by `enterFailsafe_is`. -/
theorem loadSwitchLink : Obligations.LoadSwitchLink := by
  unfold Obligations.LoadSwitchLink
  intro s hon
  refine ⟨fun seq crcOk mode hr => ⟨commandFrame_invalid hon hr, fun hcrc hseq => ?_⟩, fun hf => ⟨fun hh hs => ?_, fun hh => ?_⟩⟩
  · subst hcrc
    exact ⟨commandFrame_counted hon hr hseq, commandFrame_taken hon hr hseq⟩
  · obtain ⟨hfail, hrun, -, hcount⟩ := enterFailsafe_is s.lswEnv s.lsw hf
    refine ⟨_, rfl, ?_⟩
    rw [s.takeLsw_lsw _ hon, lswWatchdog_enters (by rw [hh, hs]; rfl)]
    exact ⟨hfail, hrun, hcount⟩
  · obtain ⟨hfail, -, hhold, hcount⟩ := enterFailsafe_is s.lswEnv s.lsw hf
    refine ⟨_, rfl, ?_⟩
    rw [s.takeLsw_lsw _ hon, lswHoldTimeout_enters hh]
    exact ⟨hfail, hhold, hcount⟩

/-- Settles O57: the occurrence is `onSteady_trips` at the controllers. -/
theorem steadyOvercurrentsSwitchOff : Obligations.SteadyOvercurrentsSwitchOff := by
  unfold Obligations.SteadyOvercurrentsSwitchOff
  rintro s n _ current hon rfl hc hin hlim
  refine ⟨_, rfl, ?_⟩
  rw [s.takeLsw_lsw _ hon]
  exact onSteady_trips s.lswEnv hc hin hlim

/-- Settles O16: each occurrence is its controllers' operation (`State.takeLsw_lsw`), whose effect a lemma above or one of
`SwitchFrames` states. -/
theorem loadSwitchProtectionAndDiagnostics : Obligations.LoadSwitchProtectionAndDiagnostics := by
  unfold Obligations.LoadSwitchProtectionAndDiagnostics
  refine ⟨?_, fun s hf => ⟨fun d duration hd => ?_, fun n ht => ?_, ?_, ?_, fun n l half hl hfl hh => ?_⟩⟩
  · rintro s n _ hf rfl
    refine ⟨fun current hon hin => ⟨_, rfl, lsw_next s _ hf, ?_⟩, fun hon hin => ⟨fun current hlim => ⟨_, rfl, ?_⟩, ⟨_, rfl, ?_⟩⟩,
      fun hw hd => ⟨_, rfl, ?_⟩, fun hon ht => ⟨_, rfl, ?_⟩, fun ht => ⟨_, rfl, ?_⟩⟩ <;> rw [s.takeLsw_lsw _ hf]
    · refine ⟨fun h6 hlim => ?_, onInrushEnd_limited s.lswEnv hon hin, onInrushEnd_above s.lswEnv hon hin⟩
      have hq := onInrushEnd_within s.lswEnv hon hin h6 hlim
      exact ⟨(congrArg Channel.on hq).trans hon, congrArg Channel.inrush hq, congrArg Channel.shortWindow hq⟩
    · exact onSteady_trips s.lswEnv hon hin hlim
    · exact onShort_trips s.lswEnv hon hin
    · exact onRetry_turnsOn s.lswEnv hw hd
    · exact onRestore_refills s.lswEnv hon ht
    · exact onThermalLatch_off s.lswEnv ht
  · refine ⟨_, rfl, ?_⟩
    rw [s.takeLsw_lsw _ hf]
    exact sag_is s.lswEnv d duration s.lsw hd
  · obtain ⟨hopen, hpresent, hfed⟩ := off_is s.lswEnv n s.lsw ht
    refine ⟨⟨_, rfl, ?_⟩, fun hr => ⟨_, rfl, ?_⟩, fun hc => ⟨_, rfl, ?_⟩⟩ <;> rw [s.takeLsw_lsw _ hf]
    · exact hopen
    · exact hpresent hr
    · exact hfed hc
  · rintro n _ current rfl hon hin hlim
    refine ⟨_, rfl, ?_⟩
    rw [s.takeLsw_lsw _ hf]
    exact openOn_is s.lswEnv n current s.lsw hon hin hlim
  · intro n l vOut current hl _ hd hs hc ht
    refine ⟨fun hon hin hr => ⟨_, rfl, ?_⟩, fun hon hlo hw hth => ⟨_, rfl, ?_⟩⟩ <;> rw [s.takeLsw_lsw _ hf]
    · exact warm_is s.lswEnv n l vOut current s.lsw hl hd hs hc ht hon hin hr
    · exact pulse_is s.lswEnv n l vOut current s.lsw hl hd hs hc ht hon hlo hw hth
  · refine ⟨_, rfl, ?_⟩
    rw [s.takeLsw_lsw _ hf]
    exact flash_is s.lswEnv n l s.lsw half hl hfl hh

end Sys2Proof.Machine
end

section
/-!
SWITCH_SET, FAULT_CLEAR and OUTPUT_SET (R307, R310, R348): what each does, and the answer that names who accepted.
-/

namespace Sys2Proof.Machine

/-! ## SWITCH_SET (R307) -/

/-- A channel with the override of an action (R307). -/
def Channel.overridden (action : Nat) (q : Channel) : Channel := { q with override := overrideOf action }

section
variable {p : ChanIx → Bool} {mask : Nat} (c : Cfg) (action : Nat) (w : LoadSwitches)

/-- A part of the channels of the mask that a predicate makes. -/
theorem chansOf_filter (hm : mask = bitWord ((List.finRange 48).map p)) (g : ChanIx → Bool) :
    (chansOf mask).filter g = (List.finRange 48).filter (fun n => p n && g n) := by
  rw [hm, chansOf_mask, List.filter_filter]
  exact List.filter_congr (fun n _ => Bool.and_comm _ _)

/-- R307: SWITCH_SET on the mask of a predicate: who accepts, who refuses, and the reason of the lowest that refuses. -/
theorem switchSet_masks (hm : mask = bitWord ((List.finRange 48).map p)) :
    (Sys2Proof.Machine.switchSet c mask action w).2.1
        = bitWord ((List.finRange 48).map (fun n => p n && (switchRefusal c n action).isNone)) ∧
    (Sys2Proof.Machine.switchSet c mask action w).2.2.1
        = bitWord ((List.finRange 48).map (fun n => p n && (switchRefusal c n action).isSome)) ∧
    ∀ n rest, (List.finRange 48).filter (fun n => p n && (switchRefusal c n action).isSome) = n :: rest →
      some (Sys2Proof.Machine.switchSet c mask action w).2.2.2 = switchRefusal c n action := by
  unfold Sys2Proof.Machine.switchSet
  dsimp only
  rw [chansOf_filter hm, chansOf_filter hm, maskOf_filter, maskOf_filter]
  refine ⟨rfl, rfl, fun n rest hn => ?_⟩
  have hmem : n ∈ (List.finRange 48).filter (fun n => p n && (switchRefusal c n action).isSome) := hn ▸ List.mem_cons_self
  obtain ⟨x, hx⟩ := Option.isSome_iff_exists.mp (Bool.and_eq_true_iff.mp (List.mem_filter.mp hmem).2).2
  rw [hn]
  simp only [hx, Option.getD_some]

/-- R307: the override of a leader is that of the action exactly where a channel of its group accepts. -/
theorem switchSet_chans (hm : mask = bitWord ((List.finRange 48).map p)) :
    (∀ n : ChanIx, p n = true → switchRefusal c n action = none →
      (Sys2Proof.Machine.switchSet c mask action w).1.chans[leaderOf c n] = (w.chans[leaderOf c n]).overridden action) ∧
    (∀ m, (∀ n : ChanIx, p n = true → switchRefusal c n action = none → leaderOf c n ≠ m) →
      (Sys2Proof.Machine.switchSet c mask action w).1.chans[m] = w.chans[m]) := by
  have hchan := each_idem (Channel.overridden action) (fun _ => rfl)
    (((chansOf mask).filter (fun n => (switchRefusal c n action).isNone)).map (leaderOf c)) w
  have hmem : ∀ m, m ∈ ((chansOf mask).filter (fun n => (switchRefusal c n action).isNone)).map (leaderOf c)
      ↔ ∃ n : ChanIx, (p n = true ∧ switchRefusal c n action = none) ∧ leaderOf c n = m := by
    intro m
    simp only [chansOf_filter hm, List.mem_map, List.mem_filter, List.mem_finRange, true_and, Bool.and_eq_true,
      Option.isNone_iff_eq_none]
  refine ⟨fun n hp hn => ?_, fun m hno => ?_⟩
  · exact (hchan _).trans (if_pos ((hmem _).mpr ⟨n, ⟨hp, hn⟩, rfl⟩))
  · refine (hchan m).trans (if_neg (fun h => ?_))
    obtain ⟨n, ⟨hp, hn⟩, hl⟩ := (hmem m).mp h
    exact hno n hp hn hl

end

/-! ## Commands over channels -/

/-- R387: why step 12 refuses a channel to a session that does not take command over. -/
def State.unowned (s : State) (i : SessIx) (n : ChanIx) : Option Nat :=
  if s.cfg.isFitted (chanDoor n) = false then some 0x38 else if s.fcp.commander[chanDoor n] ≠ some i then some 0x45 else none

section
variable {s : State} {h : Hdr} {i : SessIx} {q : Req} {c : Instr}

/-- A packet that acts on the load switches and is answered at once leaves them as the action left them. -/
theorem hosted_switches {u : State} {A : Answer} (hc : hosted c = some (h, q)) (k : s.Admits h i q) (ho : q.opcode ≠ 0x0101)
    (hq : q.act h i (s.admitted h i) = u.answers A) : ∃ t, exec c s = .next t ∧ t.Answered i h q A ∧ t.lsw = u.lsw := by
  obtain ⟨hrec, hans⟩ := k.answers ho hq
  refine ⟨_, (hosted_exec hc s).trans (congrArg _ hrec), hans, ?_⟩
  show (u.answerStored h i q A).lsw = u.lsw
  rw [(u.answerStored_only h i q A ho).1]

/-- R307: SWITCH_SET of a session that does not take command over. -/
theorem switchSet_over (ht : h.takeover = false) (mask action : Nat) {r : ChanIx → Option Nat}
    (hr : ∀ n : ChanIx, r n = if (s.unowned i n).isSome then s.unowned i n else switchRefusal s.cfg n action) :
    ∃ A C, s.overChannels h i mask (fun t m => Sys2Proof.Machine.switchSet t.cfg m action t.lsw)
        = ({ s with lsw := C } : State).answers A
      ∧ (∀ t : State, ∀ q, t.Answered i h q A → t.ChannelsAnswered i h q mask r)
      ∧ (∀ n : ChanIx, bitOf mask n.val = true → r n = none →
          C.chans[leaderOf s.cfg n] = (s.lsw.chans[leaderOf s.cfg n]).overridden action)
      ∧ (∀ m, (∀ n : ChanIx, bitOf mask n.val = true → r n = none → leaderOf s.cfg n ≠ m) → C.chans[m] = s.lsw.chans[m]) := by
  have hnone : ∀ n, r n = none ↔ s.unowned i n = none ∧ switchRefusal s.cfg n action = none := by
    intro n
    rw [hr]
    cases s.unowned i n <;> simp
  obtain ⟨hacc, href, hreason⟩ := switchSet_masks s.cfg action s.lsw (p := fun n => bitOf mask n.val && (s.unowned i n).isNone) rfl
  obtain ⟨hset, hkeep⟩ := switchSet_chans s.cfg action s.lsw (p := fun n => bitOf mask n.val && (s.unowned i n).isNone) rfl
  obtain ⟨A, hA, hans⟩ := overChannels_is (s := s) (i := i) (mask := mask) ht (s.unowned i) (fun _ => rfl)
    (fun t m => Sys2Proof.Machine.switchSet t.cfg m action t.lsw) r _ (fun n => switchRefusal s.cfg n action) rfl hr hacc href hreason
  refine ⟨A, _, hA, hans, fun n hb hn => ?_, fun m hm => ?_⟩
  · obtain ⟨hw, hn⟩ := (hnone n).mp hn
    exact hset n (by rw [hb, hw]; rfl) hn
  · refine hkeep m (fun n hp hn => ?_)
    obtain ⟨hb, hw⟩ := Bool.and_eq_true_iff.mp hp
    exact hm n hb ((hnone n).mpr ⟨Option.isNone_iff_eq_none.mp hw, hn⟩)

/-! ## OUTPUT_SET (R348) -/

/-- R348: a word of a predicate over the outputs is zero exactly where no output has it. -/
theorem outWord_zero (p : OutIx → Bool) : bitWord ((List.finRange 16).map p) = 0 ↔ ∀ k, p k = false := by
  rw [bitWord_zero]
  simp

/-- R348: OUTPUT_SET is refused where every output addressed has another source. -/
theorem outputSet_refused (mask value : BitVec 16)
    (hq : q = Req.outputSet (le 2 mask.toNat ++ le 2 value.toNat) mask.toNat value.toNat)
    (k : s.Admits h i q) (hsome : ∃ k : OutIx, bitOf mask.toNat k.val = true)
    (hno : ∀ k : OutIx, bitOf mask.toNat k.val = true → s.cfg.outSource (outSettings s.cfg k) ≠ 1) :
    ∃ t, exec (.outputSet h mask value) s = .next t ∧ s.Unmoved t ∧ t.Answered i h q (Answer.refused 0x3E) := by
  subst hq
  refine hosted_reads rfl k nofun ?_
  obtain ⟨hacc, href⟩ := outputSet_masks s.cfg mask.toNat value.toNat s.outs
  refine (outputSet_act _ mask.toNat value.toNat h i (s.admitted h i) _ rfl).trans (if_pos ⟨?_, ?_⟩)
  · refine hacc.trans ((outWord_zero _).mpr (fun j => ?_))
    cases hb : bitOf mask.toNat j.val with
    | false => rfl
    | true => exact decide_eq_false (hno j hb)
  · obtain ⟨j, hj⟩ := hsome
    intro hz
    have hbit := (outWord_zero _).mp (href.symm.trans hz) j
    rw [hj, decide_eq_false (hno j hj)] at hbit
    cases hbit

/-- R348: OUTPUT_SET sets the host values of the outputs addressed whose source is HOST, and answers with the two masks. -/
theorem outputSet_done (mask value : BitVec 16)
    (hq : q = Req.outputSet (le 2 mask.toNat ++ le 2 value.toNat) mask.toNat value.toNat)
    (k : s.Admits h i q) (hhost : (∃ k : OutIx, bitOf mask.toNat k.val = true ∧ s.cfg.outSource (outSettings s.cfg k) = 1)
      ∨ ∀ k : OutIx, bitOf mask.toNat k.val = false) :
    ∃ t, exec (.outputSet h mask value) s = .next t
      ∧ t.Answered i h q (Answer.done (
          le 2 (bitWord ((List.finRange 16).map (fun k => bitOf mask.toNat k.val && decide (s.cfg.outSource (outSettings s.cfg k) = 1))))
          ++ le 2 (bitWord ((List.finRange 16).map (fun k => bitOf mask.toNat k.val && !decide (s.cfg.outSource (outSettings s.cfg k) = 1))))))
      ∧ t.outs.host = (Sys2Proof.Machine.outputSet s.cfg mask.toNat value.toNat s.outs).1.host := by
  subst hq
  have ho : (Req.outputSet (le 2 mask.toNat ++ le 2 value.toNat) mask.toNat value.toNat).opcode ≠ 0x0101 := nofun
  obtain ⟨hacc, href⟩ := outputSet_masks s.cfg mask.toNat value.toNat s.outs
  have hsets : ¬((Sys2Proof.Machine.outputSet s.cfg mask.toNat value.toNat s.outs).2.1 = 0
      ∧ (Sys2Proof.Machine.outputSet s.cfg mask.toNat value.toNat s.outs).2.2 ≠ 0) := by
    rintro ⟨hz, hnz⟩
    rcases hhost with ⟨j, hj, hsrc⟩ | hnone
    · have hbit := (outWord_zero _).mp (hacc.symm.trans hz) j
      rw [hj, decide_eq_true hsrc] at hbit
      cases hbit
    · exact hnz (href.trans ((outWord_zero _).mpr (fun j => by rw [hnone j]; rfl)))
  have hact := (outputSet_act (le 2 mask.toNat ++ le 2 value.toNat) mask.toNat value.toNat h i (s.admitted h i) _ rfl).trans
    (if_neg hsets)
  obtain ⟨hrec, hans⟩ := k.answers ho hact
  rw [← hacc, ← href]
  refine ⟨_, congrArg Host.Outcome.next hrec, hans, ?_⟩
  show (State.answerStored _ h i _ _).outs.host = _
  rw [(State.answerStored_only _ h i _ _ ho).1]
  exact host_records _ _ (State.evaluate_settles _).outs

end

/-- Settles O43: SWITCH_SET by `switchSet_over`, FAULT_CLEAR by `clear_over`, OUTPUT_SET by `outputSet_done`, `outputSet_host` and
`outputSet_refused`. -/
theorem loadsAndOutputsFollowCommands : Obligations.LoadsAndOutputsFollowCommands := by
  unfold Obligations.LoadsAndOutputsFollowCommands
  intro s h i r q ht k
  refine ⟨fun action mask c hq hc hr => ?_, fun mask hq hr => ?_, fun mask value hq => ⟨fun hhost => ?_, fun hsome hno => ?_⟩⟩ <;> subst hq
  · have hhosted : hosted c = some (h, Req.switchSet (switchParams mask.toNat action.val) mask.toNat action.val) := by
      subst hc
      match action with
      | 0 | 1 | 2 | 3 => rfl
    have hover : ∀ n : ChanIx, r n = if (s.unowned i n).isSome then s.unowned i n else switchRefusal s.cfg n action.val := by
      intro n
      rw [hr]
      unfold State.unowned
      split
      · rfl
      · split <;> rfl
    have haction : ∀ p : Channel, p.overridden action.val
        = { p with override := if action = 0 then some .off else if action = 1 then some .on else if action = 2 then some .keepWarm
            else none } := by
      intro p
      match action with
      | 0 | 1 | 2 | 3 => rfl
    obtain ⟨A, C, hA, hans, hset, hkeep⟩ := switchSet_over (s := s.admitted h i) (i := i) ht mask.toNat action.val hover
    obtain ⟨t, hexec, hreply, hlsw⟩ := hosted_switches hhosted k nofun hA
    refine ⟨t, hexec, fun n hb hn => ?_, fun m hm => ?_, hans t _ hreply⟩
    · rw [hlsw, ← haction]
      exact hset n hb hn
    · rw [hlsw]
      exact hkeep m hm
  · obtain ⟨A, C, hA, hans, hclear, hthermal, hlock⟩ := clear_over (s := s.admitted h i) (h := h) (i := i) ht mask hr
    obtain ⟨t, hexec, hreply, hlsw⟩ := hosted_switches (c := .faultClear h mask) rfl k nofun hA
    refine ⟨t, hexec, ?_, ?_, ?_, hans t _ hreply⟩ <;> rw [hlsw]
    · exact hclear
    · exact hthermal
    · exact hlock
  · obtain ⟨t, hexec, hreply, hset⟩ := outputSet_done mask value rfl k hhost
    refine ⟨t, hexec, hreply, ?_⟩
    rw [hset]
    exact outputSet_host s.cfg mask.toNat value.toNat s.outs
  · exact outputSet_refused mask value rfl k hsome hno

end Sys2Proof.Machine
end

section
/-!
Upkeep of the ring (chapter 11), and the occurrences at the load switches and on the ring together.
-/

namespace Sys2Proof.Machine

/-! ## Frames (R432) -/

/-- R432: a frame whose check sequence is wrong is counted at its port and goes nowhere. -/
theorem receive_badFcs (r : Ring) (e : RingEnv) (p : PortIx) {f : RingFrame} (h : f.fcsOk = false) :
    (if p = 0 then (r.receive e p f).1.counters.fcsA else (r.receive e p f).1.counters.fcsB)
        = satInc 32 (if p = 0 then r.counters.fcsA else r.counters.fcsB)
      ∧ (r.receive e p f).2.2 = .nothing := by
  unfold Ring.receive
  dsimp only
  rw [if_pos (c := (!f.fcsOk) = true) (by rw [h]; rfl)]
  refine ⟨?_, rfl⟩
  by_cases hp : p = 0
  · simp only [if_pos hp]
  · simp only [if_neg hp]

section
variable {r : Ring} {e : RingEnv} {p : PortIx} {f : RingFrame}

/-- R432, R441: a frame for another node goes back, marked WRAPPED, where the other port is wrapped. -/
theorem receive_turnedBack (hfcs : f.fcsOk = true) (hdest : f.ringDest = true) (htag : f.tagged = false)
    (htype : f.etherType = e.etherType) (hsrc : f.source ≠ e.cfg.ringAddress) (hto : f.dest ≠ e.cfg.ringAddress) (hhops : f.hops ≠ 0)
    (h4 : f.type = 4) (hp : ofPort r.wrapped p = false) (hq : ofPort r.wrapped (otherPort p) = true) :
    (r.receive e p f).1.lastOut = some (p, { f with hops := f.hops - 1, wrapped := true }) ∧ (r.receive e p f).2.2 = .nothing := by
  have hexpired : (decide (f.source ≠ e.cfg.ringAddress) && decide (f.dest ≠ e.cfg.ringAddress) && decide (f.hops = 0)) = false := by
    rw [decide_eq_false hhops, Bool.and_false]
  have hbeacon : (ofPort r.wrapped p && f.type == 1) = false := by rw [hp, Bool.false_and]
  have hforwards : forwards e.cfg.ringAddress f = true := by
    unfold forwards
    rw [decide_eq_true hsrc, decide_eq_true hto, decide_eq_true hhops]
    rfl
  have hmine : ¬(f.type = 2 ∧ (decide (f.dest = e.cfg.ringAddress) || decide (f.dest = 0xFF)) = true) := fun h => by omega
  have hback := sendOn_back r p { f with hops := f.hops - 1 } hp hq
  unfold Ring.receive
  dsimp only
  rw [if_neg (c := (!f.fcsOk) = true) (by rw [hfcs]; decide), if_neg (c := (!f.ringDest || f.tagged) = true) (by rw [hdest, htag]; decide),
    if_neg (c := f.etherType ≠ e.etherType) (not_not_intro htype), hexpired, hbeacon, hforwards,
    if_neg (c := f.source = e.cfg.ringAddress) hsrc, if_neg (c := false = true) Bool.false_ne_true,
    if_pos (c := (true && !false) = true) rfl, if_neg (c := (false || false) = true) Bool.false_ne_true,
    if_neg (c := f.type = 1) (by omega), if_neg hmine, if_neg (c := f.type = 3) (by omega)]
  split
  · exact ⟨hback, rfl⟩
  · exact ⟨hback, rfl⟩

end

/-! ## The view and the ports (R438 to R442) -/

/-- R447: with no other master the age of time counts on. -/
theorem ageCount_age (r : Ring) (e : RingEnv) (h : r.master = 0 ∨ r.master = e.cfg.ringAddress) :
    (r.ageCount e).1.timeAge = satInc 32 r.timeAge := by
  unfold Ring.ageCount
  rw [if_neg (by rintro ⟨h0, ho⟩; exact h.elim h0 ho)]
  exact (chooseMaster_out _ e).1.trans (setAge_out r e _)

/-- R445: the relays are energised. -/
theorem insert_inserted (r : Ring) (e : RingEnv) (h : r.inserted = false) : (r.insert e).1.inserted = true := by
  obtain ⟨-, -, -, -, hins, -⟩ := chooseMaster_out ({ r with
    inserted := true, up := (false, false), wrapped := (true, true)
    counters := { r.counters with relayCycles := satInc 32 r.counters.relayCycles } } : Ring) e
  unfold Ring.insert
  rw [if_neg (by rw [h]; decide)]
  exact hins

/-- R438: a node that times out leaves the view. -/
theorem nodeTimeout_nodes (r : Ring) (e : RingEnv) {a : Nat} (h : r.nodes.any (fun n => n.addr == a) = true) :
    (r.nodeTimeout e a).1.nodes = r.nodes.filter (fun n => n.addr != a) := by
  unfold Ring.nodeTimeout
  rw [if_pos h]
  exact (chooseMaster_out _ e).2.1

/-- R440: a port that goes down is wrapped. -/
theorem portDown_wrapped (r : Ring) (e : RingEnv) {p : PortIx} (h : ofPort r.wrapped p = false) :
    ofPort (r.portDown e p).1.wrapped p = true := by
  unfold Ring.portDown
  rw [if_neg (by rw [h]; decide)]
  exact (ofPort_set r.wrapped p true).1

/-- R442: a port that comes up is unwrapped. -/
theorem portUp_unwrapped (r : Ring) (e : RingEnv) {p : PortIx} (h : ofPort r.wrapped p = true) :
    ofPort (r.portUp e p).1.wrapped p = false := by
  unfold Ring.portUp
  rw [if_neg (by rw [h]; decide)]
  exact (ofPort_set r.wrapped p false).1

/-! ## Conflicts and mismatches that end (R434, R439, R454, R455) -/

theorem addressClear_clears (r : Ring) (e : RingEnv) (h : r.addressConflict = true) : (r.addressClear e).1.addressConflict = false := by
  unfold Ring.addressClear
  rw [if_pos h]

theorem etherClear_clears (r : Ring) (e : RingEnv) (h : r.etherConflict = true) : (r.etherClear e).1.etherConflict = false := by
  unfold Ring.etherClear
  rw [if_pos h]

theorem consistClear_clears (r : Ring) (e : RingEnv) (h : r.consistMismatch = true) (hc : r.consistCondition = false) :
    (r.consistClear e).1.consistMismatch = false := by
  unfold Ring.consistClear
  rw [if_pos (by rw [h, hc]; rfl)]

theorem versionClear_clears (r : Ring) (e : RingEnv) (h : r.versionMismatch = true) (hc : r.versionCondition = false) :
    (r.versionClear e).1.versionMismatch = false := by
  unfold Ring.versionClear
  rw [if_pos (by rw [h, hc]; rfl)]

/-! ## The occurrences -/

/-- R280: the channel is on after its inrush window exactly where its current stayed within both limits. -/
theorem onInrushEnd_on (e : LswEnv) {n : ChanIx} {w : LoadSwitches} (hon : (w.chans[leaderOf e.cfg n]).on = true)
    (hin : (w.chans[leaderOf e.cfg n]).inrush = true) (current : Nat) :
    ((onInrushEnd e n current w).1.chans[leaderOf e.cfg n]).inrush = false
      ∧ ((onInrushEnd e n current w).1.chans[leaderOf e.cfg n]).on
        = decide (current < 6000 ∧ current ≤ e.cfg.chOcLimit (leaderOf e.cfg n)) := by
  have htrip : ∀ cause, Channel.Tripped (w.chans[leaderOf e.cfg n]) ((onInrushEnd e n current w).1.chans[leaderOf e.cfg n]) cause →
      ¬(current < 6000 ∧ current ≤ e.cfg.chOcLimit (leaderOf e.cfg n)) → _ ∧ _ := fun _ h hx =>
    And.intro h.off.2 (h.off.1.trans (decide_eq_false hx).symm)
  by_cases h6 : current < 6000
  · by_cases hlim : current ≤ e.cfg.chOcLimit (leaderOf e.cfg n)
    · have hq := onInrushEnd_within e hon hin h6 hlim
      exact ⟨congrArg Channel.inrush hq, (congrArg Channel.on hq).trans (hon.trans (decide_eq_true ⟨h6, hlim⟩).symm)⟩
    · exact htrip 3 (onInrushEnd_above e hon hin h6 (by omega)) (fun hx => hlim hx.2)
  · exact htrip 2 (onInrushEnd_limited e hon hin (by omega)) (fun hx => h6 hx.1)

/-- A frame that delivers nothing leaves the ring as receiving it made it. -/
theorem ringFrame_exec {s : State} (hr : s.onRing = true) (p : PortIx) {f : RingFrame}
    (hn : (s.ring.receive s.ringEnv p f).2.2 = .nothing) :
    ∃ t, exec (.ringFrameReceived p f) s = .next t ∧ t.ring = (s.ring.receive s.ringEnv p f).1 :=
  ⟨_, rfl, ringFrame_ring s p f hr hn⟩

/-- R436: a beacon takes the next number. -/
theorem sendBeacon_seq {s : State} (hr : s.onRing = true) : s.sendBeacon.ring.frameSeq = (s.ring.frameSeq + 1) % 65536 := by
  unfold State.sendBeacon
  rw [if_neg (by rw [hr]; decide)]

/-- R445: the module leaves the ring. -/
theorem ringRemoves_inserted {s : State} (hr : s.onRing = true) : s.ringRemoves.ring.inserted = false := by
  unfold State.ringRemoves
  rw [if_neg (by rw [hr]; decide)]
  rfl

/-- R445: the module joins the ring. -/
theorem ringInserts_inserted {s : State} (hp : s.power.on 1 = true) (hc : s.config.inForce = true) (he : s.cfg.ringEnable = 1)
    (hi : s.ring.inserted = false) : s.ringInserts.ring.inserted = true := by
  unfold State.ringInserts
  rw [if_pos (by rw [hp, hc, he]; rfl), takeRing_ring]
  exact insert_inserted s.ring s.ringEnv hi

/-- Settles O60: at the load switches by the lemmas of O16, on the ring by those above. -/
theorem loadSwitchAndRingOccurrencesComplete : Obligations.LoadSwitchAndRingOccurrencesComplete := by
  unfold Obligations.LoadSwitchAndRingOccurrencesComplete
  refine ⟨fun s hf => ⟨?_, fun d duration hd => ⟨_, rfl, ?_⟩⟩, fun s => ⟨fun hm => ⟨_, rfl, ?_⟩,
    fun hp hc he hi => ⟨_, rfl, ringInserts_inserted hp hc he hi⟩, fun hr => ⟨fun p f => ⟨fun hfcs => ?_, ?_⟩,
      ⟨_, rfl, sendBeacon_seq hr⟩, ⟨_, rfl, ringRemoves_inserted hr⟩, fun a ha => ⟨_, rfl, ?_⟩,
      fun p => ⟨fun hw => ⟨_, rfl, ?_⟩, fun hw => ⟨_, rfl, ?_⟩⟩, fun hx => ⟨_, rfl, ?_⟩, fun hx => ⟨_, rfl, ?_⟩,
      fun hx hc => ⟨_, rfl, ?_⟩, fun hx hc => ⟨_, rfl, ?_⟩⟩⟩⟩
  · rintro n _ rfl
    refine ⟨fun hon hin current => ⟨_, rfl, ?_⟩, fun hon hin => ⟨⟨_, rfl, ?_⟩, fun current hlim => ⟨_, rfl, ?_⟩⟩,
      fun hw hd => ⟨_, rfl, ?_⟩, fun hon ht => ⟨_, rfl, ?_⟩, fun ht => ⟨_, rfl, ?_⟩, fun ht => ⟨_, rfl, ?_⟩,
      fun vOut current _ hd hs hc ht => ⟨fun hon hin => ⟨_, rfl, ?_⟩, fun hon hlo hw hth => ⟨_, rfl, ?_⟩⟩,
      fun half hfl hh => ⟨_, rfl, ?_⟩⟩ <;> rw [s.takeLsw_lsw _ hf]
    · exact onInrushEnd_on s.lswEnv hon hin current
    · have htrip := onShort_trips s.lswEnv hon hin
      exact ⟨htrip.off.1, htrip.flagged.2⟩
    · exact openOn_is s.lswEnv n current s.lsw hon hin hlim
    · obtain ⟨ht, -, -, hleft, -⟩ := onRetry_turnsOn s.lswEnv hw hd
      exact ⟨ht, hleft⟩
    · exact onRestore_refills s.lswEnv hon ht
    · obtain ⟨hth, hoff, -⟩ := onThermalLatch_off s.lswEnv ht
      exact ⟨hth, hoff⟩
    · exact (off_is s.lswEnv n s.lsw ht).1
    · exact onKeepWarm_temp s.lswEnv hd hs hc ht hon hin
    · exact (pulse_is s.lswEnv n _ vOut current s.lsw rfl hd hs hc ht hon hlo hw hth).1
    · exact (flash_is s.lswEnv n _ s.lsw half rfl hfl hh).1
  · rw [s.takeLsw_lsw _ hf]
    exact (sag_is s.lswEnv d duration s.lsw hd).1
  · exact (congrArg Ring.timeAge (takeRing_ring s _)).trans (ageCount_age s.ring s.ringEnv hm)
  · obtain ⟨hcount, hn⟩ := receive_badFcs s.ring s.ringEnv p hfcs
    obtain ⟨t, hexec, hring⟩ := ringFrame_exec hr p hn
    exact ⟨t, hexec, hring ▸ hcount⟩
  · intro hfcs hdest htag htype hsrc hto hhops h4 hp hq
    obtain ⟨hout, hn⟩ := receive_turnedBack (e := s.ringEnv) hfcs hdest htag htype hsrc hto hhops h4 hp hq
    obtain ⟨t, hexec, hring⟩ := ringFrame_exec hr p hn
    exact ⟨t, hexec, hring ▸ hout⟩
  all_goals rw [onInserted_ring s _ hr]
  · exact nodeTimeout_nodes s.ring s.ringEnv ha
  · exact portDown_wrapped s.ring s.ringEnv hw
  · exact portUp_unwrapped s.ring s.ringEnv hw
  · exact addressClear_clears s.ring s.ringEnv hx
  · exact etherClear_clears s.ring s.ringEnv hx
  · exact consistClear_clears s.ring s.ringEnv hx hc
  · exact versionClear_clears s.ring s.ringEnv hx hc

end Sys2Proof.Machine
end

section
/-!
The isolation link (R328 to R330): what each end makes of a frame that it refuses or accepts.
-/

namespace Sys2Proof.Machine

/-! ## The downlink (R329) -/

/-- R330: the field side refuses a frame: the run of valid frames ends. -/
def FrontEnd.refuseFrame (f : FrontEnd) : FrontEnd := { f with downBad := true, downRun := 0 }

/-- R330: the field side accepts a frame with its number and MODE, before it takes the settings word. -/
def FrontEnd.acceptFrame (f : FrontEnd) (seq mode : Nat) : FrontEnd :=
  { f with downSeq := some (seq % 16), downBad := false, downRun := min 16 (f.downRun + 1), mode := mode }

/-- A settings word leaves the frame checks. -/
theorem takeWord_checks (f : FrontEnd) (i word : Nat) :
    (f.takeWord i word).downBad = f.downBad ∧ (f.takeWord i word).downSeq = f.downSeq
      ∧ (f.takeWord i word).downRun = f.downRun := by
  unfold FrontEnd.takeWord
  split
  · exact ⟨rfl, rfl, rfl⟩
  · split
    · exact ⟨rfl, rfl, rfl⟩
    · exact ⟨rfl, rfl, rfl⟩

/-- R329: the words before index 15 are stored. -/
theorem takeWord_stores (f : FrontEnd) (word : Nat) {i : Nat} (hi : i < 15) : (f.takeWord i word).words = f.words.set i word := by
  unfold FrontEnd.takeWord
  rw [if_pos hi]

/-- R329: the word at index 15 applies the stored set when it is their sum. -/
theorem takeWord_applies (f : FrontEnd) {word : Nat} (hsum : f.words.foldl (· + ·) 0 % 65536 = word) :
    (f.takeWord 15 word).applied = true ∧ (f.takeWord 15 word).polarity = BitVec.ofNat 16 (f.words.getD 0 0) := by
  unfold FrontEnd.takeWord
  rw [if_neg (by decide), if_pos hsum]
  exact ⟨rfl, rfl⟩

section
variable {s : State} {g : GroupIx}

/-- R330: a downlink frame that fails a check reaches the front end alone, and there only its frame checks. -/
theorem downlink_refused (hon : s.frontOn g = true) {group seq : Nat} {crcOk : Bool} (index : Nat)
    (hbad : crcOk = false ∨ group ≠ g.val ∨ seqValid (s.group g).front.downSeq (s.group g).front.downBad seq = false) :
    s.downlink g group seq crcOk index = s.onFront g FrontEnd.refuseFrame := by
  have hcheck : (!crcOk || decide (group ≠ g.val) || !seqValid (s.group g).front.downSeq (s.group g).front.downBad seq) = true := by
    rcases hbad with h | h | h
    · simp [h]
    · simp [h]
    · simp [h]
  unfold State.downlink
  dsimp only
  rw [if_neg (by simp [hon]), if_pos hcheck]
  rfl

/-- R329, R330: a valid downlink frame of a doorway's group: its number and MODE, then its settings word. -/
theorem downlink_accepted (hon : s.frontOn g = true) {seq : Nat}
    (hseq : seqValid (s.group g).front.downSeq (s.group g).front.downBad seq = true) (index : Nat) (hg : g.val ≠ 8) :
    ((s.downlink g g.val seq true index).group g).front
      = ((s.group g).front.acceptFrame seq s.linkMode).takeWord index (settingsWord s.cfg g index) := by
  unfold State.downlink
  dsimp only
  rw [if_neg (by simp [hon]), if_neg (by simp [hseq]), if_pos hg, onFront_group s g _ hon]
  rfl

/-! ## The uplink (R330) -/

/-- R330: an uplink frame with a bad CRC. -/
theorem uplink_badCrc (hon : s.frontOn g = true) (hm : s.power.mode = .run) (group seq : Nat) (raw : BitVec 16) (flags : Nat) :
    (s.uplink g group seq false raw flags).group g
      = { s.group g with bad := true, validRun := 0, crcErrors := satInc 32 (s.group g).crcErrors } := by
  unfold State.uplink
  dsimp only
  rw [if_neg (by simp [hon, hm]), if_pos (by rfl), onGroup_group]

/-- R330: an uplink frame of another group, or with a number out of order. -/
theorem uplink_invalid (hon : s.frontOn g = true) (hm : s.power.mode = .run) {group seq : Nat}
    (hbad : group ≠ g.val ∨ seqValid (s.group g).lastSeq (s.group g).bad seq = false) (raw : BitVec 16) (flags : Nat) :
    (s.uplink g group seq true raw flags).group g = { s.group g with bad := true, validRun := 0 } := by
  unfold State.uplink
  dsimp only
  rw [if_neg (by simp [hon, hm]), if_neg (by decide), if_pos (hbad.imp_right (fun h => by rw [h]; rfl)), onGroup_group]

end

/-- Settles O21: refused and accepted downlink frames by `downlink_refused` and `downlink_accepted`, uplink frames by
`uplink_badCrc`, `uplink_invalid` and `uplink_good`. -/
theorem isolationLink : Obligations.IsolationLink := by
  unfold Obligations.IsolationLink
  refine fun s g hon => ⟨fun group seq index => ⟨fun crcOk hbad => ⟨_, rfl, ?_⟩, fun hg hseq h8 => ⟨_, rfl, ?_⟩⟩,
    fun hm group seq raw flags => ⟨⟨_, rfl, ?_⟩, fun hbad => ⟨_, rfl, ?_⟩, fun hg hseq => ⟨_, rfl, ?_⟩⟩⟩
  · rw [downlink_refused hon index.toNat hbad, onFront_group s g _ hon]
    exact ⟨rfl, rfl, rfl, (State.onFront_keeps (Within.refl _) (Keeps.refl _ s) g _).only .outs (by decide)⟩
  · rw [hg, downlink_accepted hon hseq index.toNat h8]
    obtain ⟨hbad, hlast, hrun⟩ := takeWord_checks ((s.group g).front.acceptFrame seq.toNat s.linkMode) index.toNat
      (settingsWord s.cfg g index.toNat)
    refine ⟨hbad, hlast.trans ?_, hrun, fun hi => takeWord_stores _ _ hi, fun hi hsum => ?_⟩
    · exact congrArg some (Nat.mod_eq_of_lt seq.isLt)
    · rw [hi]
      exact takeWord_applies _ hsum
  · rw [uplink_badCrc hon hm]
    exact ⟨rfl, rfl, rfl, rfl⟩
  · rw [uplink_invalid hon hm hbad]
    exact ⟨rfl, rfl, rfl, rfl⟩
  · have htaken := uplink_good s g group.toNat seq.toNat raw flags.toNat hon hm hg hseq
    exact ⟨congrArg Prod.snd htaken, (congrArg Prod.fst htaken).trans (congrArg some (Nat.mod_eq_of_lt seq.isLt))⟩

end Sys2Proof.Machine
end

section
/-!
Supply, hold-up, cartridge, power states and wakes (chapter 14): what each occurrence leaves in the power part.
-/

namespace Sys2Proof.Machine

/-! ## Loss and return of the supply (R553 to R555) -/

/-- R553: the power part when the stack takes over. -/
def Power.onStack (p : Power) (mono : Nat) : Power :=
  { p with holdup := true, supplyLow := true, lowSince := some mono, dcLink := if p.mode = .run then 50400 else p.dcLink
           counters := { p.counters with holdupEvents := satInc 16 p.counters.holdupEvents } }

/-- A domain reads as it was switched. -/
theorem set_on (v : Vector Bool 10) (n : Fin 10) (b : Bool) : (v.set n.val b n.isLt)[n] = b := (set_get v n n b).trans (if_pos rfl)

theorem legTest_power (s : State) (r : DriveIx) : (s.legTest r).power = s.power :=
  (State.legTest_keeps (Within.refl _) (Keeps.refl _ s) r).only .power (by decide)

theorem legTests_power (l : List DriveIx) (s : State) : (l.foldl State.legTest s).power = s.power := by
  induction l generalizing s with
  | nil => rfl
  | cons r l ih => exact (ih _).trans (legTest_power s r)

theorem quinceStarts_power (s : State) : s.quinceStarts.power = s.power :=
  (State.quinceStarts_keeps (Within.refl _) (Keeps.refl _ s)).only .power (by decide)

theorem interruptDrives_power (s : State) (x : Interruption) : (s.interruptDrives x).power = s.power :=
  (State.interruptDrives_keeps (Within.refl _) (Keeps.refl _ s) x).only .power (by decide)

theorem complete_power (s : State) (handle status reason : Nat) (result : List Byte) :
    (s.complete handle status reason result).power = s.power :=
  (State.complete_keeps (Within.refl _) (Keeps.refl _ s) handle status reason result).only .power (by decide)

/-- A wake cause that is latched leaves the reserve flag. -/
theorem latch_reserve (p : Power) (c : Cfg) (bit : Nat) : (p.latch c bit).reserve = p.reserve := by
  unfold Power.latch
  split <;> rfl

section
variable {s : State}

/-- R553: with a cartridge the stack takes over; in RUN the power-fail flush leaves the power part. -/
theorem supplyFails_power (hon : s.powered = true) (hup : s.power.holdup = false) (hcart : s.power.cart.fitted = true) :
    s.supplyFails.power = s.power.onStack s.mono := by
  unfold State.supplyFails
  rw [if_neg (by simp [hon, hup]), if_neg (by simp [hcart])]
  dsimp only
  split
  · rw [fresh_power, powerEvent_power, powerFail_power]
    rfl
  · rfl

/-- Without a cartridge the failing supply is lost at once (log entry 65). -/
theorem supplyFails_lost (hon : s.powered = true) (hup : s.power.holdup = false) (hcart : s.power.cart.fitted = false) :
    s.supplyFails = s.powerLost := by
  unfold State.supplyFails
  rw [if_neg (by simp [hon, hup]), if_pos (by simp [hcart])]

/-- R553: the supply is back: the marks of the hold-up clear, and D9 comes on again where the reserve had shed it. -/
theorem supplyReturns_is (hup : s.power.holdup = true) :
    s.supplyReturns.power.holdup = false ∧ s.supplyReturns.power.supplyLow = false ∧ s.supplyReturns.power.reserve = false
      ∧ s.supplyReturns.power.lowSince = none ∧ (s.power.reserve = true → s.supplyReturns.power.on 9 = true) := by
  unfold State.supplyReturns
  extract_lets long waked returned
  have hreserve : waked.power.reserve = s.power.reserve := by
    show (if _ then s.wakeCause 7 else s).power.reserve = _
    split
    · exact latch_reserve _ _ _
    · rfl
  have hpower : returned.power.holdup = false ∧ returned.power.supplyLow = false ∧ returned.power.reserve = false
      ∧ returned.power.lowSince = none ∧ (s.power.reserve = true → returned.power.on 9 = true) := by
    refine ⟨rfl, rfl, rfl, rfl, fun h => ?_⟩
    show (if waked.power.reserve then waked.power.domains.set 9 true else waked.power.domains)[(9 : Fin 10)] = true
    rw [if_pos (hreserve.trans h)]
    exact set_on _ 9 true
  clear_value returned
  rw [if_neg (by simp [hup])]
  split
  · exact hpower
  · exact hpower

/-- R554: at the reserve the power stage is shed in RUN. -/
theorem reserveReached_power (hup : s.power.holdup = true) (hr : s.power.reserve = false) (hm : s.power.mode = .run) :
    s.reserveReached.power = { s.power with reserve := true, ready := false, domains := s.power.domains.set 9 false } := by
  unfold State.reserveReached
  rw [if_neg (by simp [hup, hr]), hm]
  dsimp only
  rw [interruptDrives_power]
  rfl

/-- R554: at the floor of the stack the module loses its power, and the reset is counted. -/
theorem stackEmpty_is (hup : s.power.holdup = true) (hm : s.power.mode = .run) :
    s.stackEmpty = s.powerLost.onPower (fun p =>
      { p with counters := { p.counters with holdupResets := satInc 16 p.counters.holdupResets } }) := by
  unfold State.stackEmpty
  rw [if_pos ⟨hup, hm⟩]

/-- R555: the hold-up in STABLE ends in the loss of power. -/
theorem stableHoldupEnds_lost (hup : s.power.holdup = true) (hm : s.power.mode = .stable) : s.stableHoldupEnds = s.powerLost := by
  unfold State.stableHoldupEnds
  rw [if_pos ⟨hup, hm⟩]

/-! ## The cartridge (R556) -/

/-- R556: the cartridge as it is inserted, its first measurement due. -/
def Cartridge.inserted (serial : List Byte) (now : Nat) : Cartridge :=
  { Cartridge.absent with fitted := true, serial := serial, fittedAt := now, firstDue := true }

/-- R556: an inserted cartridge charges and is measured at once. -/
theorem cartridgeIn_power (hcart : s.power.cart.fitted = false) (serial : List Byte) (cap esr : Nat) :
    (s.cartridgeIn serial cap esr).power
      = { s.power with cart := (Cartridge.inserted serial s.now).measure s.now cap esr, charging := true, noHoldup := true } := by
  unfold State.cartridgeIn
  rw [if_neg (by simp [hcart])]
  dsimp only
  rw [measure_power _ _ _ (by rfl)]
  rfl

/-- R556: the cartridge is withdrawn on the supply. -/
theorem cartridgeOut_power (hcart : s.power.cart.fitted = true) (hup : s.power.holdup = false) :
    s.cartridgeOut.power = s.power.removeCartridge := by
  unfold State.cartridgeOut
  dsimp only
  rw [if_neg (by simp [hcart]), if_neg (by simp [hup])]
  rfl

/-- R556: 90 % of the energy. -/
theorem cartridgeCharged_power (hcart : s.power.cart.fitted = true) :
    s.cartridgeCharged.power = { s.power with noHoldup := false, charging := false } := by
  unfold State.cartridgeCharged
  rw [if_pos hcart]
  rfl

/-! ## Precharge, failed entries and wakes (R539, R544 to R548) -/

/-- R548: at the end of precharge the power stage is ready; the tests of the legs and the first motions leave the power
part. -/
theorem precharged_power (hr : s.power.ready = false) (hon : s.power.on 9 = true) (hm : s.power.mode = .run) :
    s.precharged.power = { s.power with ready := true, dcLink := Config.measured .dcLink s.free } := by
  unfold State.precharged
  rw [if_neg (by simp [hr, hon, hm])]
  dsimp only
  rw [fresh_power, tickAll_power, quinceStarts_power, legTests_power]
  rfl

/-- R539: a flush that is late ends the entry: the refuser is counted, and causes latched meanwhile are dropped. -/
theorem entryFails_flush {n : Entry} (hn : s.power.entry = some n) (hw : s.flushWaits = true) :
    (s.entryFails 0x40).power = { s.power.refuse s.now 0x40 with entry := none, latched := 0 } := by
  unfold State.entryFails
  rw [hn]
  dsimp only
  rw [if_pos (by simpa using hw)]
  unfold State.entryEnds
  dsimp only
  rw [powerEvent_power, complete_power]
  rfl

/-- The settings in force are a function of the configuration part. -/
theorem cfg_of_config {s t : State} (h : t.config = s.config) : t.cfg = s.cfg := congrArg (fun c => c.cfg) h

/-- R545: the wake from STABLE takes the latched causes and switches every domain of RUN on. -/
theorem wakesFromStable_power (hl : s.power.latched ≠ 0) (hm : s.power.mode = .stable) :
    s.wakesFromStable.power = inRunPower (s.power.takeWake s.mono) s.cfg s.mono ∧ s.wakesFromStable.cfg = s.cfg := by
  unfold State.wakesFromStable
  rw [if_neg (by simp [hl, hm])]
  extract_lets ran taken returned woken
  obtain ⟨-, hpower, hcfg⟩ := domainsOn_out returned ran
  have hreturned : returned.power = s.power.takeWake s.mono ∧ returned.config = s.config ∧ returned.mono = s.mono := ⟨rfl, rfl, rfl⟩
  clear_value returned
  obtain ⟨htaken, hconfig, hmono⟩ := hreturned
  have hsame : returned.cfg = s.cfg := cfg_of_config hconfig
  rw [htaken, hsame, hmono] at hpower
  have hwoken : woken.power = inRunPower (s.power.takeWake s.mono) s.cfg s.mono ∧ woken.cfg = s.cfg := ⟨hpower, hcfg.trans hsame⟩
  clear_value woken
  obtain ⟨hon, hkept⟩ := hwoken
  refine ⟨(evaluate_power _).trans hon, (cfg_of_config ?_).trans hkept⟩
  exact (State.evaluate_keeps (Within.refl _) (Keeps.refl _ _)).only .config (by decide)

/-- R546: the wake from HIBERNATE takes the latched causes and starts the module with the configuration that it verifies. -/
theorem wakesFromHibernate_power (hl : s.power.latched ≠ 0) (hm : s.power.mode = .hibernate) (goodA goodB : Bool) :
    (s.wakesFromHibernate goodA goodB).power
      = inRunPower (s.power.takeWake s.mono) (s.wakesFromHibernate goodA goodB).cfg s.mono := by
  unfold State.wakesFromHibernate
  rw [if_neg (by simp [hl, hm])]
  dsimp only
  obtain ⟨-, hpower⟩ := restart_out s.takesWake goodA goodB s.power.appRan
  generalize s.takesWake.restart goodA goodB s.power.appRan = t at hpower ⊢
  exact hpower

/-- R544: a wake cause that arises is latched where its state is marked and its bit set. -/
theorem wakeCause_latches {bit : Nat} (hmark : wakeMarked s.power.wakeState bit = true) (hen : bitOf s.cfg.wakeEnable bit = true)
    (hnew : bitOf s.power.latched bit = false) :
    (s.wakeCause bit).power = { s.power with latched := s.power.latched + 2 ^ bit } := latch_one s.power s.cfg bit hmark hen hnew

/-- R594, R595: a watched source sets the bits of its entries and latches cause 8. -/
theorem watcher_latches {n bits : Nat} (hin : watchedIn s.cfg s.power.mode n = true) (hen : bitOf s.cfg.wakeEnable 8 = true)
    (hmark : wakeMarked s.power.wakeState 8 = true) (hnew : bitOf s.power.latched 8 = false)
    (hbits : bits = bitWord ((List.range 16).map (fun k => decide (s.cfg.watchSel k = n)))) (hsel : bits ≠ 0) :
    (s.watcher n).power
      = { s.power with watchFired := s.power.watchFired ||| bits, latched := s.power.latched + 256 } := by
  unfold State.watcher
  dsimp only
  rw [← hbits, if_pos ⟨hin, hen, hsel⟩]
  exact wakeCause_latches hmark hen hnew

/-- R334: the sample of one group in STABLE leaves that group as its burst does. -/
theorem stableSample_group (hm : s.power.mode = .stable) (hf : s.fieldOn = true) (g : GroupIx) (raw : BitVec 16) (agree : Bool) :
    (s.stableSample [(g, raw, agree)]).group g = (s.burst (g, raw, agree)).group g := by
  unfold State.stableSample
  rw [if_neg (by simp [hm, hf])]
  dsimp only [List.foldl]
  rw [outs_group, keeperWakes_group, evaluate_group]

end

/-- Settles O29: one lemma above, or of `Powers`, for each occurrence; the four wake sources by `wakeCause_latches` and
`watcher_latches`. -/
theorem supplyAndPowerStates : Obligations.SupplyAndPowerStates := by
  unfold Obligations.SupplyAndPowerStates
  refine ⟨fun s => ⟨fun hon hup => ⟨fun hcart => ⟨_, rfl, ?_⟩, fun hcart => ⟨_, rfl, ?_⟩⟩,
      fun hup => ⟨⟨_, rfl, supplyReturns_is hup⟩, fun hr hm => ⟨_, rfl, ?_⟩, fun hm => ⟨_, rfl, ?_⟩, fun hm => ⟨_, rfl, ?_⟩⟩,
      fun hcart serial c e => ⟨_, rfl, ?_⟩,
      fun hcart => ⟨fun hup => ⟨_, rfl, ?_⟩, ⟨_, rfl, cartridgeCharged_power hcart⟩, fun c e => ⟨_, rfl, ?_⟩⟩⟩,
    fun s => ⟨fun a b c => ⟨_, rfl, powersUp_out s a b c⟩, fun hr hon hm => ⟨_, rfl, ?_⟩,
      fun n hn => ⟨fun ha hready => ⟨_, rfl, commits_out s n hn ha hready⟩, fun hw => ⟨_, rfl, ?_⟩⟩,
      fun hl => ⟨fun hm => ⟨_, rfl, ?_⟩, fun hm a b => ⟨_, rfl, ?_⟩⟩,
      fun hm hf g raw agree hg => ⟨_, rfl, ?_⟩, ?_⟩⟩
  · rw [supplyFails_power hon hup hcart]
    exact ⟨rfl, rfl, rfl, rfl, fun hm => if_pos hm⟩
  · rw [supplyFails_lost hon hup hcart]
    obtain ⟨hdomains, hloop, hsessions, -⟩ := powerLost_out s
    exact ⟨hdomains, hloop, hsessions⟩
  · rw [reserveReached_power hup hr hm]
    exact ⟨rfl, rfl, set_on _ 9 false⟩
  · rw [stackEmpty_is hup hm]
    obtain ⟨hdomains, hloop, -⟩ := powerLost_out s
    exact ⟨hdomains, hloop, rfl⟩
  · rw [stableHoldupEnds_lost hup hm]
    obtain ⟨hdomains, hloop, -⟩ := powerLost_out s
    exact ⟨hdomains, hloop⟩
  · rw [cartridgeIn_power hcart]
    obtain ⟨hfitted, hserial, hat, hcap, hesr, hfirst, -⟩ := measure_out (Cartridge.inserted serial s.now) s.now c.toNat e.toNat
    obtain ⟨hcapInitial, hesrInitial⟩ := hfirst rfl
    exact ⟨hfitted, hserial, hat, rfl, rfl, hcap, hcapInitial, hesr, hesrInitial⟩
  · rw [cartridgeOut_power hcart hup]
    exact ⟨rfl, rfl, rfl⟩
  · rw [measure_power s _ _ hcart]
    obtain ⟨-, -, -, hcap, hesr, -, hlater, hmeasures⟩ := measure_out s.power.cart s.now c.toNat e.toNat
    exact ⟨hcap, hesr, hlater, hmeasures⟩
  · rw [precharged_power hr hon hm]
    exact ⟨rfl, rfl⟩
  · rw [show (0x40 : BitVec 8).toNat = 0x40 from rfl, entryFails_flush hn hw]
    exact ⟨rfl, rfl, rfl, rfl, rfl⟩
  · obtain ⟨hpower, hcfg⟩ := wakesFromStable_power hl hm
    rw [hpower, hcfg]
    exact ⟨rfl, rfl, rfl, fun n => runs_on _ _ _ n⟩
  · rw [wakesFromHibernate_power hl hm a b]
    exact ⟨rfl, rfl, rfl, fun n => runs_on _ _ _ n⟩
  · rw [stableSample_group hm hf]
    exact burst_out s g raw agree hg
  · rintro m rfl
    refine ⟨fun hmark hen hnew => ⟨_, rfl, wakeCause_latches hmark hen hnew⟩, fun hat hmark hen hnew => ⟨_, rfl, ?_⟩,
      fun ch hm hch hmark hen hnew => ⟨_, rfl, ?_⟩, ?_⟩
    · unfold State.alarm
      rw [if_neg hat]
      exact wakeCause_latches hmark hen hnew
    · unfold State.canWakes
      rw [if_pos ⟨hm, hch⟩]
      exact wakeCause_latches hmark hen hnew
    · intro n hin hen hmark hnew bits hbits hsel
      exact ⟨_, rfl, watcher_latches hin hen hmark hnew hbits hsel⟩

end Sys2Proof.Machine
end


section
/-!
The carriage of command packets (R351, R357, R359, R580): bytes that fail steps 1 and 2 of Table 9.6 are discarded, and the others run
as the command they spell.
-/

namespace Sys2Proof.Machine

/-! ## Packets as commands -/

/-- The packet of a command of the host, whatever its transport, runs as that command (log entry 108). -/
theorem packet_exec {s : State} {c : Instr} {h : Hdr} {q : Req} (hc : hosted c = some (h, q)) (ht : h.trainWide = false)
    (hp : q.params.length ≤ 1008) (hr : s.commsRuns = true ∨ s.service.fw.bootLoader = true) :
    .next (s.packet h.transport h.source false (commandPacket h q.opcode q.params)) = exec c s := by
  obtain ⟨hreq, hop⟩ := hosted_request hc
  rw [packet_runs s h q.opcode q.params hop hp ht hr, hreq, hosted_exec hc]

/-- Settles O47: a datagram is a packet by the service port (`packet_exec`). -/
theorem packetsSpellCommands : Obligations.PacketsSpellCommands := by
  unfold Obligations.PacketsSpellCommands
  intro s c h q source hc ht hs htw hp hr
  rw [← packet_exec hc htw hp hr, ht, hs]
  rfl

/-! ## Steps 1 and 2 -/

/-- What fails steps 1 and 2 of Table 9.6. -/
theorem packetOk_false (b : List Byte) : packetOk b = false ↔ b.length < 20 ∨ fieldAt b 0 2 ≠ 0x6A44 ∨ 1008 < fieldAt b 10 2
    ∨ b.length ≠ 20 + fieldAt b 10 2 ∨ fieldAt b (b.length - 4) 4 ≠ crc32c (b.take (b.length - 4)) := by
  unfold packetOk packetLen
  simp only [Bool.and_eq_false_iff, decide_eq_false_iff_not, beq_eq_false_iff_ne, Nat.not_le, or_assoc, ne_eq]

theorem packet_unheard {s : State} (hr : s.commsRuns = false) (hb : s.service.fw.bootLoader = false) (t : Transport) (source : Nat)
    (tw : Bool) (b : List Byte) : s.packet t source tw b = s := by
  unfold State.packet
  rw [if_pos (by rw [hr, hb]; rfl)]

theorem packet_discarded {s : State} (hr : s.commsRuns = true ∨ s.service.fw.bootLoader = true) {b : List Byte} (hb : packetOk b = false)
    (t : Transport) (source : Nat) (tw : Bool) :
    s.packet t source tw b = s.countFcp (fun k => { k with discarded := satInc 32 k.discarded }) := by
  unfold State.packet
  rw [if_neg (by rcases hr with hr | hr <;> simp [hr]), if_pos (by rw [hb]; rfl)]
  rfl

/-! ## The mailbox -/

theorem mailTaken_none {s : State}
    (h : s.commsRuns = false ∨ s.fcp.sessions[(5 : SessIx)].state = .paused ∨ s.engines.app.posts = []) : s.mailTaken = s := by
  unfold State.mailTaken
  rcases h with h | h | h
  · rw [if_pos (by rw [h]; rfl)]
  · rw [if_pos (by rw [h, beq_self_eq_true, Bool.or_true])]
  · unfold App.take
    rw [h]
    exact ite_self s

/-- The slot posted first is freed, and its bytes are a packet of the mailbox. -/
theorem mailTaken_first {s : State} {k : Fin 4} {len : Nat} {rest : List (Fin 4 × Nat)} (hr : s.commsRuns = true)
    (hp : s.fcp.sessions[(5 : SessIx)].state ≠ .paused) (hq : s.engines.app.posts = (k, len) :: rest) :
    s.mailTaken = ({ s with engines := { s.engines with app :=
      { s.engines.app with posts := rest, outBusy := s.engines.app.outBusy.set k false } } } : State).packet
        .mailbox 0 false (s.engines.app.mem.readMany (0x200FC000 + 0x800 * k.val) len) := by
  unfold State.mailTaken App.take
  rw [if_neg (by rw [hr, beq_eq_false_iff_ne.mpr hp]; decide), hq]
  rfl

/-- Settles O48: steps 1 and 2 by `packetOk_false`, a discarded packet by `packet_discarded`, and one that runs by `packet_exec`. -/
theorem carriageOfPackets : Obligations.CarriageOfPackets := by
  unfold Obligations.CarriageOfPackets
  refine ⟨fun s source bytes => ⟨fun hr hb => ?_, fun hr => ⟨fun hbad => ?_, fun c h q hc hbytes hp ht hs htw => ?_⟩⟩,
    fun s => ⟨fun h => ?_, fun k len rest bytes u hr hp hq hbytes hu => ⟨fun hbad => ?_, fun c h q hc hb hlen ht hs htw => ?_⟩⟩⟩
  · exact congrArg _ (packet_unheard hr hb _ _ _ _)
  · exact congrArg _ (packet_discarded hr ((packetOk_false bytes).mpr hbad) _ _ _)
  · rw [hbytes]
    exact packetsSpellCommands s c h q source hc ht hs htw hp hr
  · exact congrArg _ (mailTaken_none h)
  · have hur : u.commsRuns = true := by rw [hu]; exact hr
    subst hbytes
    refine congrArg _ ((mailTaken_first hr hp hq).trans ?_)
    rw [← hu, packet_discarded (.inl hur) hbad]
  · have hur : u.commsRuns = true := by rw [hu]; exact hr
    subst hbytes
    refine (congrArg _ (mailTaken_first hr hp hq)).trans ?_
    rw [← hu, hb, ← ht, ← hs, packet_exec hc htw hlen (.inl hur)]

end Sys2Proof.Machine
end


section
/-!
The invariant of a step (R363, R369, R370, R372, R573).
-/

namespace Sys2Proof.Machine

/-- Settles O53: the command at the front keeps the invariant by `exec_keeps`, and a period by `State.period_keeps`. -/
theorem stepKeepsTheInvariant : Obligations.StepKeepsTheInvariant := by
  unfold Obligations.StepKeepsTheInvariant
  intro s t hi ht
  obtain ⟨hfront, hidle⟩ := stepTakesTheFront
  cases hp : s.pending with
  | nil =>
    rw [hidle s hp] at ht
    have hperiod : s.period = t := Host.Outcome.next.inj ht
    rw [← hperiod]
    exact (State.period_keeps (Within.refl _) (Keeps.refl _ s)).inv hi
  | cons c rest =>
    rw [hfront s c rest hp] at ht
    have hrest : ({ s with pending := rest } : State).Inv := ⟨hi.fcp, hi.mem⟩
    exact (exec_keeps ht).inv hrest

end Sys2Proof.Machine
end


section
/-!
The checks of Table 9.6 (R359 to R364, R376, R378): what becomes of a packet at each of its steps, repeats and gaps among them.
-/

namespace Sys2Proof.Machine

/-! ## Step 3 and the state of the session (R354, R376, R378) -/

section
variable {s : State} {h : Hdr} {i : SessIx} {q : Req}

theorem receive_unbound (hb : s.bound h = none) (hr : s.commsRuns = true) :
    s.receive h q = s.countFcp (fun k => { k with unbound := satInc 32 k.unbound }) := by
  unfold State.receive
  rw [hb]
  exact if_pos hr

theorem receive_unbound_unheard (hb : s.bound h = none) (hr : s.commsRuns = false) : s.receive h q = s := by
  unfold State.receive
  rw [hb]
  exact if_neg (by rw [hr]; decide)

theorem receive_paused (hb : s.bound h = some i) (hp : s.fcp.sessions[i].state = .paused) :
    s.receive h q = s.countFcp (fun k => { k with pausedDiscards := satInc 32 k.pausedDiscards }) := by
  unfold State.receive
  rw [hb]
  exact if_pos hp

theorem receive_unheard (hb : s.bound h = some i) (hp : s.fcp.sessions[i].state ≠ .paused) (hh : s.hears h q = false) :
    s.receive h q = s := by
  unfold State.receive
  rw [hb]
  dsimp only
  rw [if_neg hp, if_pos (by rw [hh]; rfl)]

/-! ## Steps 4 and 5 -/

theorem process_format (hf : h.format ≠ 2) : s.process h i q
    = (s.answerPlain h i q.opcode Answer.format).countFcp (fun k => { k with formatErrors := satInc 32 k.formatErrors }) := by
  unfold State.process
  exact if_pos hf

theorem process_closed (hf : h.format = 2) (hc : s.fcp.sessions[i].state = .closed) (hq : q.opcode ≠ 0x0101) :
    s.process h i q = s.answerPlain h i q.opcode (Answer.refused 0x40) := by
  unfold State.process
  dsimp only
  rw [if_neg (by rw [hf]; decide), if_pos ⟨hc, hq⟩]

/-! ## Step 6: repeats and gaps (R362 to R364) -/

theorem Noted.same {v : State} (k : Noted i s v) : v.fcp.deferred = s.fcp.deferred ∧ v.fcp.sessions[i].replies = s.fcp.sessions[i].replies
    ∧ v.fcp.sessions[i].expected = s.fcp.sessions[i].expected ∧ v.waiting i = s.waiting i := by
  obtain ⟨a, b, d, hm⟩ := k.mark
  refine ⟨by rw [k.only], by rw [hm], by rw [hm], ?_⟩
  unfold State.waiting
  rw [hm]

theorem deferred_none (hd : ∀ x ∈ s.fcp.deferred, x.session ≠ i ∨ x.hseq ≠ h.hseq.toNat) :
    s.fcp.deferred.find? (fun x => x.session == i && x.hseq == h.hseq.toNat) = none := by
  refine List.find?_eq_none.mpr (fun x hx hp => ?_)
  simp only [Bool.and_eq_true, beq_iff_eq] at hp
  exact (hd x hx).elim (fun hs => hs hp.1) (fun hn => hn hp.2)

theorem unexpected_repeat {r : StoredReply} (hd : s.fcp.deferred.find? (fun x => x.session == i && x.hseq == h.hseq.toNat) = none)
    (hr : s.fcp.sessions[i].isRepeat h.hseq.toNat = some r) :
    s.unexpected h i q = if r.opcode = q.opcode ∧ r.params = q.params then s.duplicate h i r else s.gap h i q.opcode 0x48 := by
  unfold State.unexpected
  rw [hd]
  dsimp only
  rw [hr]

theorem unexpected_gap (hd : s.fcp.deferred.find? (fun x => x.session == i && x.hseq == h.hseq.toNat) = none)
    (hr : s.fcp.sessions[i].isRepeat h.hseq.toNat = none) : s.unexpected h i q = s.gap h i q.opcode 0 := by
  unfold State.unexpected
  rw [hd]
  dsimp only
  rw [hr]

/-- A LOG_STATUS that is repeated while its answer is due: the repeat's TAG waits with it (R363). -/
def Deferred.repeated (x : Deferred) (i : SessIx) (h : Hdr) : Deferred :=
  if x.session = i ∧ x.hseq = h.hseq.toNat then { x with repeats := x.repeats ++ [h.tag.toNat] } else x

theorem unexpected_deferred {x : Deferred} (hd : s.fcp.deferred.find? (fun x => x.session == i && x.hseq == h.hseq.toNat) = some x)
    (ho : q.opcode = 0x0604) (hp : q.params = x.params) :
    s.unexpected h i q = { s with fcp := { s.fcp with deferred := s.fcp.deferred.map (fun y => y.repeated i h) } } := by
  unfold State.unexpected
  rw [hd]
  dsimp only
  rw [if_pos ⟨ho, hp⟩]
  simp only [Bool.and_eq_true, beq_iff_eq]
  rfl

/-- A gap is answered with the expected HSEQ, counted, and nothing moves. -/
theorem gap_out {v : State} (k : Noted i s v) (op reason : Nat) : s.Unmoved (v.gap h i op reason).fresh
    ∧ (v.gap h i op reason).fresh.fcp.sessions[i].expected = s.fcp.sessions[i].expected
    ∧ (v.gap h i op reason).fresh.fcp.sessions[i].replies = s.fcp.sessions[i].replies
    ∧ (v.gap h i op reason).fresh.fcp.counters.gaps = satInc 32 s.fcp.counters.gaps
    ∧ (v.gap h i op reason).fresh.waiting i = s.waiting i ++ [s.fcp.sessions[i].packet i op h.tag.toNat (replyTo h)
        { status := stGap, reason := reason, handle := 0, payload := le 2 s.fcp.sessions[i].expected }] := by
  obtain ⟨-, -, hexp, -⟩ := k.same
  obtain ⟨hun, he, hr, hcount, -, hw⟩ := plain_out (h := h) (op := op)
    (a := { status := stGap, reason := reason, handle := 0, payload := le 2 v.fcp.sessions[i].expected }) k
    (fun c => { c with gaps := satInc 32 c.gaps }) (v.gap h i op reason).fresh rfl
  rw [hexp] at hw
  exact ⟨hun, he, hr, congrArg FcpCounters.gaps hcount, hw⟩

/-- A repeat is answered with the stored reply and counted, and nothing moves. -/
theorem duplicate_out {v : State} (k : Noted i s v) (r : StoredReply) : s.Unmoved (v.duplicate h i r).fresh
    ∧ (v.duplicate h i r).fresh.fcp.sessions[i].expected = s.fcp.sessions[i].expected
    ∧ (v.duplicate h i r).fresh.fcp.sessions[i].replies = s.fcp.sessions[i].replies
    ∧ (v.duplicate h i r).fresh.fcp.counters.duplicates = satInc 32 s.fcp.counters.duplicates
    ∧ (v.duplicate h i r).fresh.waiting i
      = s.waiting i ++ [s.fcp.sessions[i].packet i r.opcode h.tag.toNat (replyTo h) r.duplicate] := by
  obtain ⟨hun, he, hr, hcount, -, hw⟩ := plain_out (h := h) (op := r.opcode) (a := r.duplicate) k
    (fun c => { c with duplicates := satInc 32 c.duplicates }) (v.duplicate h i r).fresh rfl
  exact ⟨hun, he, hr, congrArg FcpCounters.duplicates hcount, hw⟩

/-- A repeat waits with the answer that is still due, and nothing moves. -/
theorem deferred_out {v : State} (k : Noted i s v) (l : List Deferred) :
    s.Unmoved ({ v with fcp := { v.fcp with deferred := l } } : State).fresh
    ∧ ({ v with fcp := { v.fcp with deferred := l } } : State).fresh.waiting i = s.waiting i := by
  obtain ⟨-, -, -, hw⟩ := k.same
  have honly := k.only
  refine ⟨⟨?_, ?_, ?_, k.states⟩, hw⟩
  · rw [honly]
    rfl
  · show v.fcp.commander = _
    rw [honly]
  · show v.fcp.ops = _
    rw [honly]

end

/-- Settles O49: step 6 is `State.unexpected` (`reaches_six`), whose answer is a stored reply's duplicate, a gap, or the one still due. -/
theorem repeatsAndGaps : Obligations.RepeatsAndGaps := by
  unfold Obligations.RepeatsAndGaps
  intro s c h q i z hc hb hz ho hh hf hq hne
  subst hz
  obtain ⟨v, k, hunexpected, -⟩ := reaches_six hb ho hh hf hq
  have hx : exec c s = .next (v.unexpected h i q).fresh := (hosted_exec hc s).trans (congrArg _ (hunexpected hne))
  obtain ⟨hdef, hrep, -, -⟩ := k.same
  refine ⟨fun hd => ?_, fun x hfind hop hpar => ?_⟩
  · have hnone := deferred_none (hdef ▸ hd)
    refine ⟨fun r hr hop hpar => ?_, fun r hr hdiff => ?_, fun hr => ?_⟩
    · rw [unexpected_repeat hnone ((congrArg _ hrep).trans hr), if_pos ⟨hop, hpar⟩] at hx
      refine ⟨_, hx, ?_⟩
      rw [← hop]
      exact duplicate_out k r
    · rw [unexpected_repeat hnone ((congrArg _ hrep).trans hr), if_neg (fun he => hdiff.elim (· he.1) (· he.2))] at hx
      exact ⟨_, hx, gap_out k _ _⟩
    · rw [unexpected_gap hnone ((congrArg _ hrep).trans hr)] at hx
      exact ⟨_, hx, gap_out k _ _⟩
  · rw [unexpected_deferred (hdef ▸ hfind) hop hpar, hdef] at hx
    obtain ⟨hun, hw⟩ := deferred_out k (s.fcp.deferred.map (fun y => y.repeated i h))
    exact ⟨_, hx, hun, hw, rfl⟩

/-! ## Steps 4 and 5 where the command ends (R360, R376) -/

section
variable {s : State} {h : Hdr} {i : SessIx} {q : Req}

/-- Another FORMAT is answered FORMAT_ERROR, and nothing moves. -/
theorem receive_format (hb : s.bound h = some i) (ho : s.fcp.sessions[i].state = .opened ∨ s.fcp.sessions[i].state = .closed)
    (hh : s.hears h q = true) (hf : h.format ≠ 2) : s.Unmoved (s.receive h q)
    ∧ (s.receive h q).fcp.sessions[i].expected = s.fcp.sessions[i].expected
    ∧ (s.receive h q).fcp.sessions[i].replies = s.fcp.sessions[i].replies
    ∧ (s.receive h q).waiting i = s.waiting i ++ [s.fcp.sessions[i].packet i q.opcode h.tag.toNat (replyTo h) Answer.format] := by
  obtain ⟨v, k, hr, -⟩ := heard_is hb ho hh
  rw [process_format hf] at hr
  obtain ⟨hun, he, hs, -, -, hw⟩ := plain_out k (fun c => { c with formatErrors := satInc 32 c.formatErrors }) _ hr
  exact ⟨hun, he, hs, hw⟩

/-- A CLOSED session answers 0x40 with no DSEQ of its own, and nothing moves (R365). -/
theorem receive_closed (hb : s.bound h = some i) (hc : s.fcp.sessions[i].state = .closed) (hh : s.hears h q = true) (hf : h.format = 2)
    (hq : q.opcode ≠ 0x0101) : s.Unmoved (s.receive h q)
    ∧ (s.receive h q).fcp.sessions[i].expected = s.fcp.sessions[i].expected
    ∧ (s.receive h q).fcp.sessions[i].replies = s.fcp.sessions[i].replies
    ∧ (s.receive h q).fcp.sessions[i].dseqNext = s.fcp.sessions[i].dseqNext
    ∧ (s.receive h q).waiting i
      = s.waiting i ++ [s.fcp.sessions[i].packet i q.opcode h.tag.toNat (replyTo h) (Answer.refused 0x40)] := by
  obtain ⟨v, k, hr, -⟩ := heard_is hb (.inr hc) hh
  rw [process_closed hf ((k.states i).trans hc) hq] at hr
  obtain ⟨hun, he, hs, -, hd, hw⟩ := plain_out k id _ hr
  exact ⟨hun, he, hs, hd hc, hw⟩

/-! ## Steps 7 to 11 -/

theorem precheck_invalid (hl : q.listed = true) (hv : q.valid = false) : s.precheck h i q = some (s, Answer.format) := by
  unfold State.precheck
  rw [hl, hv]
  rfl

theorem precheck_unauthenticated (hl : q.listed = true) (hv : q.valid = true) (hg : q.opcode / 256 ≠ 1)
    (ha : (i = 4 ∧ s.service.keyUnset = true ∧ q.keyless = false) ∨ (s.needsAuth i = true ∧ s.fcp.sessions[i].authenticated = false)) :
    s.precheck h i q = some (s, Answer.refused 0x41) := by
  unfold State.precheck
  dsimp only
  rw [hl, hv, if_neg (by decide), if_neg (by decide)]
  rcases ha with ⟨hi, hu, hk⟩ | ⟨hn, hz⟩
  · rw [if_pos ⟨hg, congrArg Fin.val hi, hu, by rw [hk]; rfl⟩]
  · split
    · rfl
    · rw [if_pos ⟨hg, hn, by rw [hz]; rfl⟩]

/-- R456: a train-wide command is refused and counted. -/
def State.consistRefuses (s : State) : State :=
  { s with ring := { s.ring with counters := { s.ring.counters with trainwideRefused := satInc 32 s.ring.counters.trainwideRefused } } }

/-- Steps 10 and 11 and R456, past listing, parameters and authentication. -/
theorem precheck_authenticated (hl : q.listed = true) (hv : q.valid = true)
    (hk : q.opcode / 256 = 1 ∨ i ≠ 4 ∨ s.service.keyUnset = false ∨ q.keyless = true)
    (ha : q.opcode / 256 = 1 ∨ s.needsAuth i = false ∨ s.fcp.sessions[i].authenticated = true) :
    s.precheck h i q = if !s.granted i q.opcode || !q.rights s i then some (s.violation i q, Answer.done (q.zeros s))
      else if !q.ready s then some (s, Answer.notReady)
      else (s.trainWideRefusal h q).map (fun r => (s.consistRefuses, Answer.refused r)) := by
  unfold State.precheck
  dsimp only
  rw [hl, hv, if_neg (by decide), if_neg (by decide), if_neg, if_neg]
  · cases s.trainWideRefusal h q <;> rfl
  · rintro ⟨hg, hn, hz⟩
    rcases ha with ha | ha | ha
    · exact hg ha
    · rw [ha] at hn
      cases hn
    · rw [ha] at hz
      cases hz
  · rintro ⟨hg, hi, hu, hless⟩
    rcases hk with hk | hk | hk | hk
    · exact hg hk
    · exact hk (Fin.ext hi)
    · rw [hk] at hu
      cases hu
    · rw [hk] at hless
      cases hless

/-- A packet that reaches step 7: its session is OPEN and hears it, and its HSEQ is the expected one. -/
structure State.InOrder (s : State) (h : Hdr) (i : SessIx) (q : Req) : Prop where
  bound   : s.bound h = some i
  opened  : s.fcp.sessions[i].state = .opened
  hears   : s.hears h q = true
  format  : h.format = 2
  opcode  : q.opcode ≠ 0x0101
  ordered : h.hseq.toNat = s.fcp.sessions[i].expected

theorem admitted_expected (s : State) (h : Hdr) (i : SessIx) :
    (s.admitted h i).fcp.sessions[i].expected = seqNext s.fcp.sessions[i].expected := by
  obtain ⟨d, hd⟩ := Session.admitted_is s.fcp.sessions[i] h s.now
  rw [State.admitted_session, hd]

/-- What a check of steps 7 to 11 decides is answered in its place, and the HSEQ is consumed (R359). -/
theorem State.InOrder.stops {u : State} {a : Answer} (k : s.InOrder h i q) (hp : (s.admitted h i).precheck h i q = some (u, a))
    (hs : u.fcp.sessions = (s.admitted h i).fcp.sessions) : u.Unmoved (s.receive h q)
    ∧ (s.receive h q).fcp.sessions[i].expected = seqNext s.fcp.sessions[i].expected ∧ (s.receive h q).Answered i h q a
    ∧ (s.receive h q).fcp.counters.violations = u.fcp.counters.violations
    ∧ (s.receive h q).fcp.counters.violationLast = u.fcp.counters.violationLast := by
  obtain ⟨hun, hans, he, hcount⟩ := stored_out k.opcode _ (stops_at k.bound k.opened k.hears k.format k.opcode k.ordered hp)
  refine ⟨hun, he.trans ?_, hans, hcount⟩
  rw [hs, admitted_expected]

/-- A check that counts nothing: only its answer is left. -/
theorem State.InOrder.refuses {a : Answer} (k : s.InOrder h i q) (hp : (s.admitted h i).precheck h i q = some (s.admitted h i, a)) :
    s.Unmoved (s.receive h q) ∧ (s.receive h q).fcp.sessions[i].expected = seqNext s.fcp.sessions[i].expected
    ∧ (s.receive h q).Answered i h q a := by
  obtain ⟨hun, he, hans, -⟩ := k.stops hp rfl
  exact ⟨unmoved_trans (s.admitted_unmoved h i) hun, he, hans⟩

/-- R386: a violation is answered with zeros, counted and recorded. -/
theorem State.InOrder.violates {a : Answer} (k : s.InOrder h i q)
    (hp : (s.admitted h i).precheck h i q = some ((s.admitted h i).violation i q, a)) :
    s.Unmoved (s.receive h q) ∧ (s.receive h q).fcp.sessions[i].expected = seqNext s.fcp.sessions[i].expected
    ∧ (s.receive h q).Answered i h q a
    ∧ (s.receive h q).fcp.counters.violations[i] = satInc 32 s.fcp.counters.violations[i]
    ∧ (s.receive h q).fcp.counters.violationLast[i] = q.opcode + q.index * 65536 := by
  obtain ⟨hun, he, hans, hviol, hlast⟩ := k.stops hp rfl
  refine ⟨unmoved_trans (unmoved_count (s.admitted_unmoved h i) _) hun, he, hans, ?_, ?_⟩
  · rw [hviol]
    exact (set_get _ _ _ _).trans (if_pos rfl)
  · rw [hlast]
    exact (set_get _ _ _ _).trans (if_pos rfl)

/-- R456: a refusal by the consist is counted on the ring. -/
theorem State.InOrder.disagrees {r : Nat} (k : s.InOrder h i q)
    (hp : (s.admitted h i).precheck h i q = some ((s.admitted h i).consistRefuses, Answer.refused r)) :
    (s.receive h q).fcp.sessions[i].expected = seqNext s.fcp.sessions[i].expected ∧ (s.receive h q).Answered i h q (Answer.refused r)
    ∧ (s.receive h q).ring.counters.trainwideRefused = satInc 32 s.ring.counters.trainwideRefused := by
  obtain ⟨⟨honly, -⟩, he, hans, -⟩ := k.stops hp rfl
  refine ⟨he, hans, ?_⟩
  rw [honly]
  rfl

end

/-- Settles O50: one lemma above for each check that fails; a silent session by `silent_opens`, an opcode that is not listed by
`unlisted_packet`. -/
theorem checksOfPackets : Obligations.ChecksOfPackets := by
  unfold Obligations.ChecksOfPackets
  refine ⟨fun s c h q hc => ?_, fun s source h i op params ho hp hl ht hs htw hr hbl hb hopen hf he =>
    unlisted_packet s source h i op params ho hp hl ht hs htw hr hbl hb hopen hf he⟩
  rw [hosted_exec hc]
  refine ⟨fun hb hr => congrArg _ (receive_unbound hb hr), fun hb hr => congrArg _ (receive_unbound_unheard hb hr), fun i z hb hz => ?_⟩
  subst hz
  refine ⟨fun hp => congrArg _ (receive_paused hb hp), fun hp hh => congrArg _ (receive_unheard hb hp hh), fun hz hh hq => ?_,
    fun ho hh hf => ⟨_, rfl, receive_format hb ho hh hf⟩, fun hz hh hf hq => ⟨_, rfl, receive_closed hb hz hh hf hq⟩,
    fun u ho hh hf hq he hu => ?_⟩
  · obtain ⟨hcom, hops, honly, -⟩ := heard_out s h i
    have hsession := heard_silent s h i hz
    refine ⟨s.heard h i, ?_, honly, hcom, hops, ?_, ?_, ?_, ?_⟩
    · rw [hosted_exec hc, silent_opens hb hz hh hq]
    all_goals rw [hsession]
  · subst hu
    have k : s.InOrder h i q := ⟨hb, ho, hh, hf, hq, he⟩
    have hauth : (s.admitted h i).fcp.sessions[i].authenticated = s.fcp.sessions[i].authenticated := by
      rw [State.admitted_session]
      exact (Session.admitted_same _ _ _).2
    refine ⟨fun hl hv => ⟨_, rfl, k.refuses (precheck_invalid hl hv)⟩, fun hl hv hg ha => ⟨_, rfl, k.refuses ?_⟩,
      fun hl hv hk ha => ?_⟩
    · exact precheck_unauthenticated hl hv hg (ha.imp id (fun ⟨hn, hz⟩ => ⟨hn, hauth.trans hz⟩))
    · have hpre := precheck_authenticated (s := s.admitted h i) (h := h) hl hv hk (ha.imp id (Or.imp id hauth.trans))
      refine ⟨fun hr => ⟨_, rfl, k.violates ?_⟩, fun hg hr hready => ⟨_, rfl, k.refuses ?_⟩,
        fun r hg hr hready ht => ⟨_, rfl, k.disagrees ?_⟩⟩
      · rw [hpre, if_pos]
        rcases hr with hr | hr
        · rw [show (s.admitted h i).granted i q.opcode = false from hr]
          rfl
        · rw [hr, Bool.not_false, Bool.or_true]
      · rw [hpre, show (s.admitted h i).granted i q.opcode = true from hg, hr, hready]
        rfl
      · rw [hpre, show (s.admitted h i).granted i q.opcode = true from hg, hr, hready,
          show (s.admitted h i).trainWideRefusal h q = some r from ht]
        rfl

end Sys2Proof.Machine
end


section
/-!
Timers of sessions, results and the transmit queue (R356, R370, R373, R376, R382).
-/

namespace Sys2Proof.Machine

section
variable {s : State} {i : SessIx}

/-- A session enters another state, and keeps everything else; commanding sessions and operations stay. -/
theorem enterState_out (f : Fcp) (now : Nat) (i : SessIx) {x : SessState} (hx : f.sessions[i].state ≠ x) :
    (f.enterState now i x).sessions[i] = { f.sessions[i] with state := x }
      ∧ (f.enterState now i x).commander = f.commander ∧ (f.enterState now i x).ops = f.ops := by
  unfold Fcp.enterState
  dsimp only
  rw [if_neg hx]
  refine ⟨?_, rfl, rfl⟩
  rw [eventState_get]
  exact (set_get _ _ _ _).trans (if_pos rfl)

/-- R356: the partial packet goes and is counted; the other sessions stay. -/
theorem partialTimeout_out {p : Partial} (hp : s.fcp.sessions[i].partialIn = some p) :
    (s.partialTimeout i).fcp.sessions[i].partialIn = none
      ∧ (s.partialTimeout i).fcp.counters.discarded = satInc 32 s.fcp.counters.discarded
      ∧ ∀ j, j ≠ i → (s.partialTimeout i).fcp.sessions[j] = s.fcp.sessions[j] := by
  unfold State.partialTimeout
  rw [if_neg (by rw [hp]; exact Bool.false_ne_true)]
  refine ⟨?_, rfl, fun j hj => ?_⟩
  · rw [countFcp_sessions, onSession_get, if_pos rfl]
  · rw [countFcp_sessions, onSession_get, if_neg hj.symm]

theorem sessionSilent_out (hr : s.commsRuns = true) (ho : s.fcp.sessions[i].state = .opened) :
    (s.sessionSilent i).fcp.sessions[i] = { s.fcp.sessions[i] with state := .silent }
      ∧ (s.sessionSilent i).fcp.commander = s.fcp.commander ∧ (s.sessionSilent i).fcp.ops = s.fcp.ops := by
  unfold State.sessionSilent
  rw [if_pos (by rw [hr, ho]; rfl)]
  exact enterState_out s.fcp s.now i (by rw [ho]; decide)

/-- A session that closes is CLOSED with nothing stored for it, and gives up its doorways; operations go on (R377, R389). -/
theorem closeSession_out (h : s.fcp.sessions[i].state ≠ .closed) : (s.closeSession i false).fcp.sessions[i].state = .closed
    ∧ (s.closeSession i false).fcp.sessions[i].replies = [] ∧ (s.closeSession i false).fcp.sessions[i].lastDack = 0
    ∧ (s.closeSession i false).fcp.sessions[i].authenticated = false
    ∧ (s.closeSession i false).fcp.ops = s.fcp.ops
    ∧ ∀ d : DoorIx, (s.closeSession i false).fcp.commander[d] = if s.fcp.commander[d] = some i then none else s.fcp.commander[d] := by
  obtain ⟨hcore, hcom, hops⟩ := closes_out s i h
  exact ⟨congrArg Session.state hcore, congrArg Session.replies hcore, congrArg Session.lastDack hcore,
    congrArg Session.authenticated hcore, hops, hcom⟩

theorem sessionExpires_is (hr : s.commsRuns = true) (hs : s.fcp.sessions[i].state = .silent) :
    s.sessionExpires i = s.closeSession i false := by
  unfold State.sessionExpires
  rw [if_pos (by rw [hr, hs]; rfl)]

theorem discardResult_ops (n : Nat) (st : OpState) : (s.discardResult n st).fcp.ops
    = s.fcp.ops.filter (fun o => !(decide (o.handle = n) && decide (o.state = st))) := rfl

end

/-- Settles O31: one lemma above for each timer; a packet that leaves by `packet_goes` and `sendNext_out`. -/
theorem sessionTimers : Obligations.SessionTimers := by
  unfold Obligations.SessionTimers
  intro s i
  refine ⟨fun p hp => ⟨_, rfl, partialTimeout_out hp⟩,
    fun hr => ⟨fun ho => ⟨_, rfl, sessionSilent_out hr ho⟩, fun hs => ⟨_, rfl, ?_⟩, fun p rest hq hcarrier => ⟨_, rfl, ?_⟩⟩,
    fun n => ⟨⟨_, rfl, discardResult_ops _ _⟩, ⟨_, rfl, discardResult_ops _ _⟩⟩, ⟨_, rfl, ?_⟩⟩
  · rw [sessionExpires_is hr hs]
    obtain ⟨hstate, hreplies, hdack, hauth, hops, hcom⟩ := closeSession_out (s := s) (i := i) (by rw [hs]; decide)
    exact ⟨hstate, hcom, hreplies, hdack, hauth, hops⟩
  · rw [packet_goes s i p rest hr hq hcarrier]
    have hsession : (s.fcp.session i Session.sendNext).sessions[i] = s.fcp.sessions[i].sendNext := (set_get _ _ _ _).trans (if_pos rfl)
    rw [hsession]
    exact sendNext_out _ p rest hq
  · exact (onSession_get s i i _).trans (if_pos rfl)

end Sys2Proof.Machine
end


section
/-!
Opening, closing and authenticating a session (R376, R380, R382, R383, R388, R389), and the command of doorways (R387, R389, R390).
-/

namespace Sys2Proof.Machine

section
variable {s u : State} {h : Hdr} {i : SessIx} {q : Req} {a : Answer}

/-- An admitted packet whose effect follows its reply. -/
theorem State.Admits.follows {f : State → State} (k : s.Admits h i q) (ho : q.opcode ≠ 0x0101)
    (hq : q.act h i (s.admitted h i) = { state := u, answer := some a, after := f }) :
    s.receive h q = (f (u.answerStored h i q a)).fresh := by
  rw [k.receive ho, hq]

/-! ## SESSION_OPEN and SESSION_CLOSE -/

/-- R380: the session as a fresh open leaves it. -/
theorem openFresh_session {z y : Session} {n : Nat} {nonce : List Byte}
    (hz : z.core = ((Session.openFresh y n).openWith false nonce).core) : z.state = .opened ∧ z.replies = []
    ∧ z.expected = seqNext n ∧ z.resumed = false ∧ z.authenticated = false ∧ z.authFails = 0 := by
  exact ⟨congrArg Session.state hz, congrArg Session.replies hz, congrArg Session.expected hz, congrArg Session.resumed hz,
    congrArg Session.authenticated hz, congrArg Session.authFails hz⟩

/-- R383: the session closes after its reply. -/
theorem sessionClose_out (k : s.Admits h i (Req.sessionClose [])) : (s.receive h (Req.sessionClose [])).fcp.sessions[i].state = .closed
    ∧ (s.receive h (Req.sessionClose [])).fcp.sessions[i].replies = []
    ∧ (s.receive h (Req.sessionClose [])).fcp.sessions[i].lastDack = 0
    ∧ (s.receive h (Req.sessionClose [])).fcp.sessions[i].authenticated = false
    ∧ (s.receive h (Req.sessionClose [])).fcp.ops = s.fcp.ops
    ∧ ∀ d : DoorIx, (s.receive h (Req.sessionClose [])).fcp.commander[d] = if s.fcp.commander[d] = some i then none else s.fcp.commander[d] := by
  rw [k.follows (u := s.admitted h i) (a := Answer.done []) (f := fun t => t.closeSession i false) nofun rfl]
  obtain ⟨-, hops, hcom, -, hstates⟩ := (s.admitted h i).answerStored_only h i (Req.sessionClose []) (Answer.done []) nofun
  obtain ⟨-, hcom', hops', hstates'⟩ := s.admitted_unmoved h i
  generalize (s.admitted h i).answerStored h i (Req.sessionClose []) (Answer.done []) = v at *
  have hopen : v.fcp.sessions[i].state = .opened := (hstates i).trans ((hstates' i).trans k.opened)
  obtain ⟨hstate, hreplies, hdack, hauth, hkept, hgiven⟩ := closeSession_out (s := v) (i := i) (by rw [hopen]; decide)
  rw [hcom, hcom'] at hgiven
  exact ⟨hstate, hreplies, hdack, hauth, hkept.trans (hops.trans hops'), hgiven⟩

/-! ## SESSION_AUTH (R382) -/

/-- What an accepted packet reads of its session's authentication is as it was. -/
theorem admitted_auth (s : State) (h : Hdr) (i : SessIx) (mac : List Byte) :
    (s.admitted h i).fcp.sessions[i].authLocked = s.fcp.sessions[i].authLocked
    ∧ (s.admitted h i).fcp.sessions[i].authFails = s.fcp.sessions[i].authFails
    ∧ (s.admitted h i).macRight i mac = s.macRight i mac := by
  obtain ⟨d, hd⟩ := Session.admitted_is s.fcp.sessions[i] h s.now
  have hsession := (State.admitted_session s h i).trans hd
  refine ⟨by rw [hsession], by rw [hsession], ?_⟩
  unfold State.macRight
  rw [hsession]
  rfl

/-- The session after a wrong MAC: the third one locks. -/
def Session.wrongMac (z : Session) : Session := { z with authFails := z.authFails + 1, authLocked := decide (3 ≤ z.authFails + 1) }

theorem sessionAuth_act (h : Hdr) (i : SessIx) (u : State) (mac : List Byte) : (Req.sessionAuth mac mac).act h i u
    = if u.fcp.sessions[i].authLocked then u.answers (Answer.refused 0x42)
      else if u.macRight i mac then (u.onSession i (fun z => { z with authenticated := true })).answers (Answer.done [])
      else ((u.countFcp (fun k => { k with authFailures := satInc 16 k.authFailures })).onSession i Session.wrongMac).answers
        (Answer.refused 0x43) := rfl

/-- A packet that changes its session and the counters, and is answered at once: no state of a session moves. -/
theorem State.Admits.answers_session {v : State} {g : Session → Session} (k : s.Admits h i q) (ho : q.opcode ≠ 0x0101)
    (hv : s.Unmoved v) (hg : ∀ z, (g z).state = z.state) (hq : q.act h i (s.admitted h i) = (v.onSession i g).answers a) :
    s.Unmoved (s.receive h q) ∧ (s.receive h q).Answered i h q a
    ∧ ∃ r d x w, (s.receive h q).fcp.sessions[i] = { g v.fcp.sessions[i] with replies := r, dseqNext := d, txQueue := x, txWaiting := w } := by
  obtain ⟨hrec, hans⟩ := k.answers ho hq
  rw [hrec]
  refine ⟨unmoved_stored s _ h i q a ho (unmoved_session hv i g hg), hans, ?_⟩
  obtain ⟨⟨r, d, x, w, hsession⟩, -⟩ := State.answerStored_sessions (v.onSession i g) h i q a ho
  rw [onSession_get, if_pos rfl] at hsession
  exact ⟨r, d, x, w, hsession⟩

theorem sessionAuth_right {mac : List Byte} (k : s.Admits h i (Req.sessionAuth mac mac)) (hl : s.fcp.sessions[i].authLocked = false)
    (hm : s.macRight i mac = true) : s.Unmoved (s.receive h (Req.sessionAuth mac mac))
    ∧ (s.receive h (Req.sessionAuth mac mac)).Answered i h (Req.sessionAuth mac mac) (Answer.done [])
    ∧ (s.receive h (Req.sessionAuth mac mac)).fcp.sessions[i].authenticated = true := by
  obtain ⟨hlocked, -, hright⟩ := admitted_auth s h i mac
  obtain ⟨hun, hans, r, d, x, w, hsession⟩ := k.answers_session (v := s.admitted h i) (a := Answer.done [])
    (g := fun z => { z with authenticated := true }) nofun (s.admitted_unmoved h i) (fun _ => rfl)
    (by rw [sessionAuth_act, hlocked, hl, hright, hm]; rfl)
  exact ⟨hun, hans, congrArg Session.authenticated hsession⟩

theorem sessionAuth_wrong {mac : List Byte} (k : s.Admits h i (Req.sessionAuth mac mac)) (hl : s.fcp.sessions[i].authLocked = false)
    (hm : s.macRight i mac = false) : s.Unmoved (s.receive h (Req.sessionAuth mac mac))
    ∧ (s.receive h (Req.sessionAuth mac mac)).Answered i h (Req.sessionAuth mac mac) (Answer.refused 0x43)
    ∧ (s.receive h (Req.sessionAuth mac mac)).fcp.sessions[i].authFails = s.fcp.sessions[i].authFails + 1
    ∧ (s.receive h (Req.sessionAuth mac mac)).fcp.sessions[i].authLocked = decide (3 ≤ s.fcp.sessions[i].authFails + 1)
    ∧ (s.receive h (Req.sessionAuth mac mac)).fcp.counters.authFailures = satInc 16 s.fcp.counters.authFailures := by
  obtain ⟨hlocked, hfails, hright⟩ := admitted_auth s h i mac
  have hact : (Req.sessionAuth mac mac).act h i (s.admitted h i) = (((s.admitted h i).countFcp
      (fun k => { k with authFailures := satInc 16 k.authFailures })).onSession i Session.wrongMac).answers (Answer.refused 0x43) := by
    rw [sessionAuth_act, hlocked, hl, hright, hm]
    rfl
  obtain ⟨hun, hans, r, d, x, w, hsession⟩ := k.answers_session (g := Session.wrongMac) nofun
    (unmoved_count (s.admitted_unmoved h i) _) (fun _ => rfl) hact
  rw [countFcp_sessions] at hsession
  refine ⟨hun, hans, ?_, ?_, ?_⟩
  · rw [← hfails]
    exact congrArg Session.authFails hsession
  · rw [← hfails]
    exact congrArg Session.authLocked hsession
  · rw [(k.answers nofun hact).1]
    exact stored_counters _ _ _ _ _ nofun (by decide)

end

/-- Settles O35: the fresh open by `openFresh_out`, the close by `sessionClose_out`, the MACs by `sessionAuth_right` and
`sessionAuth_wrong`; a locked session only answers. -/
theorem sessionsOpenAndClose : Obligations.SessionsOpenAndClose := by
  unfold Obligations.SessionsOpenAndClose
  intro s h i
  refine ⟨fun lastH lastD id hb hp hh hf hr hx => ?_, fun q hq k => ?_, fun mac q hq k => ?_⟩
  · have hlen : (le 2 lastH.toNat ++ le 2 lastD.toNat ++ le 8 id.toNat).length = 12 := by
      simp only [List.length_append, le_length]
    obtain ⟨nonce, y, hcore, hops, hcom⟩ := openFresh_out s h i _ lastH.toNat lastD.toNat id.toNat hlen hb hp hh hf hr hx
    obtain ⟨hstate, hreplies, hexp, hres, hauth, hfails⟩ := openFresh_session hcore
    exact ⟨_, rfl, hstate, hreplies, hexp, hres, hauth, hfails, hops, hcom⟩
  · subst hq
    exact ⟨_, rfl, sessionClose_out k⟩
  · subst hq
    refine ⟨fun hl => ?_, fun hl hm => ⟨_, rfl, sessionAuth_right k hl hm⟩, fun hl hm => ⟨_, rfl, sessionAuth_wrong k hl hm⟩⟩
    obtain ⟨hlocked, -⟩ := admitted_auth s h i mac
    exact hosted_reads rfl k nofun (by rw [sessionAuth_act, hlocked, hl]; rfl)

section
variable {s : State} {h : Hdr} {i : SessIx} {m : Nat}

/-! ## COMMAND_CLAIM and COMMAND_YIELD -/

/-- Why a claim of the doorways of a mask is refused. -/
def claimReasons (s : State) (i : SessIx) (m : Nat) (d : DoorIx) : Option Nat :=
  if bitOf m d.val = true then s.fcp.claimRefusal s.cfg i d else none

theorem claimReasons_isNone (s : State) (i : SessIx) (m : Nat) (d : DoorIx) :
    (bitOf m d.val && (claimReasons s i m d).isNone) = (bitOf m d.val && (s.fcp.claimRefusal s.cfg i d).isNone) := by
  unfold claimReasons
  cases bitOf m d.val <;> rfl

theorem claimReasons_isSome (s : State) (i : SessIx) (m : Nat) (d : DoorIx) :
    (claimReasons s i m d).isSome = (bitOf m d.val && (s.fcp.claimRefusal s.cfg i d).isSome) := by
  unfold claimReasons
  cases bitOf m d.val <;> rfl

/-- R390: a claim with a doorway to take, or of none, is DONE with both masks; where all addressed refuse it is refused. -/
theorem commandClaim_act (s : State) (h : Hdr) (i : SessIx) (m : Nat) :
    (Req.commandClaim (pairParams m 0) m).act h i (s.admitted h i)
      = if doorMask (fun d => bitOf m d.val && (s.fcp.claimRefusal s.cfg i d).isNone) = 0
          ∧ doorMask (fun d => bitOf m d.val && (s.fcp.claimRefusal s.cfg i d).isSome) ≠ 0 then
        (s.admitted h i).answers (Answer.refused (lowestReason (claimReasons s i m)))
      else
        { state := s.admitted h i
          answer := some (Answer.done (le 1 (doorMask (fun d => bitOf m d.val && (s.fcp.claimRefusal s.cfg i d).isNone))
            ++ le 1 (doorMask (fun d => bitOf m d.val && (s.fcp.claimRefusal s.cfg i d).isSome)) ++ le 2 0))
          after := fun t => { t with fcp := t.fcp.claim t.cfg t.now i m } } := by
  have hwhy : (fun d : DoorIx => if bitOf m d.val = true then (s.admitted h i).fcp.claimRefusal (s.admitted h i).cfg i d else none)
      = claimReasons s i m := by
    funext d
    rw [claimRefusal_same (f := s.fcp) (g := (s.admitted h i).fcp) (s.admitted h i).cfg i d rfl (s.admitted_unmoved h i).2.2.2]
    rfl
  rw [claim_act h i (s.admitted h i) m _ hwhy]
  simp only [claimReasons_isNone, claimReasons_isSome]

/-- R389: the commanding sessions after a claim that is not refused, and its stored answer. -/
theorem commandClaim_takes {a : Answer} (k : s.Admits h i (Req.commandClaim (pairParams m 0) m))
    (hact : (Req.commandClaim (pairParams m 0) m).act h i (s.admitted h i)
      = { state := s.admitted h i, answer := some a, after := fun t => { t with fcp := t.fcp.claim t.cfg t.now i m } }) :
    (∀ d : DoorIx, (s.receive h (Req.commandClaim (pairParams m 0) m)).fcp.commander[d]
      = if bitOf m d.val = true ∧ s.fcp.claimRefusal s.cfg i d = none then some i else s.fcp.commander[d])
    ∧ (s.receive h (Req.commandClaim (pairParams m 0) m)).Answered i h (Req.commandClaim (pairParams m 0) m) a := by
  rw [k.follows nofun hact]
  obtain ⟨honly, -, hcom, -, hstates⟩ := (s.admitted h i).answerStored_only h i (Req.commandClaim (pairParams m 0) m) a nofun
  obtain ⟨-, hcom', -, hstates'⟩ := s.admitted_unmoved h i
  have hans : ∀ t, ((s.admitted h i).answerStored h i (Req.commandClaim (pairParams m 0) m) a).Hush t →
      t.Answered i h (Req.commandClaim (pairParams m 0) m) a := fun t => State.Answered.of_hush nofun
  generalize (s.admitted h i).answerStored h i (Req.commandClaim (pairParams m 0) m) a = v at *
  have hcfg : v.cfg = s.cfg := by rw [honly]; rfl
  obtain ⟨hclaimed, -, hcore⟩ := claim_out v.fcp v.cfg v.now i m
  refine ⟨fun d => (hclaimed d).trans ?_, hans _ hcore⟩
  rw [hcfg, claimRefusal_same s.cfg i d (hcom.trans hcom') (fun j => (hstates j).trans (hstates' j)), hcom, hcom']

/-- The lowest refused doorway gives its reason. -/
theorem lowestReason_some {f : DoorIx → Option Nat} {d : DoorIx} (hd : (f d).isSome = true) : ∃ d, f d = some (lowestReason f) := by
  unfold lowestReason
  obtain ⟨x, hx⟩ := Option.isSome_iff_exists.mp (List.findSome?_isSome_iff.mpr ⟨d, mem_doorways d, hd⟩)
  obtain ⟨j, -, hj⟩ := List.exists_of_findSome?_eq_some hx
  exact ⟨j, by rw [hx]; exact hj⟩

/-- R389: a yield leaves the session's addressed doorways without a commander. -/
theorem commandYield_out (k : s.Admits h i (Req.commandYield (pairParams m 0) m)) :
    (s.receive h (Req.commandYield (pairParams m 0) m)).Answered i h (Req.commandYield (pairParams m 0) m) (Answer.done [])
    ∧ ∀ d : DoorIx, (s.receive h (Req.commandYield (pairParams m 0) m)).fcp.commander[d]
      = if bitOf m d.val = true ∧ s.fcp.commander[d] = some i then none else s.fcp.commander[d] := by
  rw [k.follows (u := s.admitted h i) (a := Answer.done []) (f := fun t => { t with fcp := t.fcp.setCommanders t.now (fun d =>
    if bitOf m d.val && t.fcp.commander[d] == some i then none else t.fcp.commander[d]) }) nofun rfl]
  obtain ⟨-, -, hcom, -⟩ := (s.admitted h i).answerStored_only h i (Req.commandYield (pairParams m 0) m) (Answer.done []) nofun
  have hans : ∀ t, ((s.admitted h i).answerStored h i (Req.commandYield (pairParams m 0) m) (Answer.done [])).Hush t →
      t.Answered i h (Req.commandYield (pairParams m 0) m) (Answer.done []) := fun t => State.Answered.of_hush nofun
  generalize (s.admitted h i).answerStored h i (Req.commandYield (pairParams m 0) m) (Answer.done []) = v at *
  obtain ⟨hgiven, -, -, hcore⟩ := setCommanders_out v.fcp v.now (fun d =>
    if bitOf m d.val && v.fcp.commander[d] == some i then none else v.fcp.commander[d])
  refine ⟨hans _ hcore, fun d => (hgiven d).trans ?_⟩
  rw [hcom]
  simp only [Bool.and_eq_true, beq_iff_eq]
  rfl

/-- A claim with a doorway to take, or of none, is not refused as a whole. -/
theorem claim_goes {r : DoorIx → Option Nat} (h : (∃ d : DoorIx, bitOf m d.val = true ∧ r d = none) ∨ ∀ d : DoorIx, bitOf m d.val = false) :
    ¬(doorMask (fun d => bitOf m d.val && (r d).isNone) = 0 ∧ doorMask (fun d => bitOf m d.val && (r d).isSome) ≠ 0) := by
  rintro ⟨hnone, hsome⟩
  rcases h with ⟨d, hd, hr⟩ | hempty
  · have hbit := (doorMask_zero _).mp hnone d
    rw [hd, hr] at hbit
    cases hbit
  · exact hsome ((doorMask_zero _).mpr (fun d => by rw [hempty d]; rfl))

/-- A claim whose doorways all refuse takes none, and there is one that refuses. -/
theorem claim_stops {r : DoorIx → Option Nat} {d : DoorIx} (hd : bitOf m d.val = true)
    (h : ∀ d : DoorIx, bitOf m d.val = true → r d ≠ none) :
    doorMask (fun d => bitOf m d.val && (r d).isNone) = 0 ∧ doorMask (fun d => bitOf m d.val && (r d).isSome) ≠ 0 := by
  have hsome : ∀ d : DoorIx, bitOf m d.val = true → (r d).isSome = true := fun d hb => Option.isSome_iff_ne_none.mpr (h d hb)
  refine ⟨(doorMask_zero _).mpr (fun j => ?_), fun hzero => ?_⟩
  · cases hb : bitOf m j.val with
    | false => rfl
    | true => rw [Bool.true_and, Option.isNone_eq_false_iff, hsome j hb]
  · have hbit := (doorMask_zero _).mp hzero d
    rw [hd, hsome d hd] at hbit
    cases hbit

theorem claimReasons_some {d : DoorIx} {r : Nat} (h : claimReasons s i m d = some r) :
    bitOf m d.val = true ∧ s.fcp.claimRefusal s.cfg i d = some r := by
  unfold claimReasons at h
  split at h
  · exact ⟨‹_›, h⟩
  · cases h

end

/-- Settles O36: the claim by `commandClaim_act`, its effect by `commandClaim_takes`, the yield by `commandYield_out`. -/
theorem commandOfDoorways : Obligations.CommandOfDoorways := by
  unfold Obligations.CommandOfDoorways
  intro s h i mask q k
  refine ⟨fun hq => ?_, fun hq => ?_⟩
  · subst hq
    have hact := commandClaim_act s h i mask.toNat
    refine ⟨fun hsome => ⟨_, rfl, ?_⟩, fun ⟨d, hd⟩ hall => ?_⟩
    · rw [if_neg (claim_goes hsome)] at hact
      exact commandClaim_takes k hact
    · have hstops := claim_stops hd hall
      rw [if_pos hstops] at hact
      obtain ⟨t, hx, hun, hans⟩ := hosted_reads (c := .commandClaim h mask) rfl k nofun hact
      have hreason : (claimReasons s i mask.toNat d).isSome = true := by
        rw [claimReasons_isSome, hd]
        exact Option.isSome_iff_ne_none.mpr (hall d hd)
      obtain ⟨j, hj⟩ := lowestReason_some hreason
      exact ⟨t, hx, hun, _, hans, j, claimReasons_some hj⟩
  · subst hq
    exact ⟨_, rfl, commandYield_out k⟩

end Sys2Proof.Machine
end


section
/-!
Results and ABORT (R372 to R374): what RESULT_FETCH answers, and what stops before its commitment point.
-/

namespace Sys2Proof.Machine

section
variable {s u : State} {h : Hdr} {i : SessIx} {p : List Byte} {n : Nat} {o : Operation}

/-! ## RESULT_FETCH (R373) -/

theorem resultFetch_unknown (ho : u.opOf i n = none) : (Req.resultFetch p n).act h i u = u.answers (Answer.refused 0x44) := by
  simp only [Req.resultFetch, Req.plain, ho]

theorem resultFetch_running (ho : u.opOf i n = some o) (hr : o.state = .running) :
    (Req.resultFetch p n).act h i u = u.answers { Answer.notReady with handle := n } := by
  simp only [Req.resultFetch, Req.plain, ho, if_pos hr]

/-- The result is held. -/
def Fcp.holds (f : Fcp) (n : Nat) : Fcp := f.onOp n (fun o => { o with state := .held })

theorem resultFetch_ended (ho : u.opOf i n = some o) (hr : o.state ≠ .running) :
    (Req.resultFetch p n).act h i u = ({ u with fcp := u.fcp.holds n } : State).answers o.fetched := by
  simp only [Req.resultFetch, Req.plain, ho, if_neg hr]
  rfl

/-! ## ABORT (R374) -/

theorem abort_unknown (ho : u.opOf i n = none) :
    (Req.abort p n).act h i u = u.answers { Answer.refused 0x44 with handle := n } := by
  simp only [Req.abort, Req.plain, ho]

theorem abort_again (ho : u.opOf i n = some o) (ha : o.aborting = true) :
    (Req.abort p n).act h i u = u.answers { Answer.done [] with handle := n } := by
  simp only [Req.abort, Req.plain, ho, if_pos ha]

theorem abort_ended (ho : u.opOf i n = some o) (ha : o.aborting = false) (hr : o.state ≠ .running) :
    (Req.abort p n).act h i u = u.answers { Answer.done [] with status := stTooLate, handle := n } := by
  simp only [Req.abort, Req.plain, ho, ha, if_neg Bool.false_ne_true, if_pos hr]

/-- The operation is marked as aborting. -/
def Fcp.marks (f : Fcp) (n : Nat) : Fcp := f.onOp n (fun o => { o with aborting := true })

theorem abort_running (ho : u.opOf i n = some o) (ha : o.aborting = false) (hr : o.state = .running) :
    (Req.abort p n).act h i u = (if (u.abortOp i o).2.status = stDone then
        { (u.abortOp i o).1 with fcp := (u.abortOp i o).1.fcp.marks n } else (u.abortOp i o).1).answers
      { (u.abortOp i o).2 with handle := n } := by
  simp only [Req.abort, Req.plain, ho, ha, if_neg Bool.false_ne_true, if_neg (not_not_intro hr)]
  rfl

/-- An erase has passed its commitment point with its acceptance (log entry 46). -/
theorem abort_erase (ho : u.opOf i n = some o) (ha : o.aborting = false) (hr : o.state = .running) (hk : o.kind = .incidentErase) :
    (Req.abort p n).act h i u = u.answers { Answer.done [] with status := stTooLate, handle := n } := by
  have hop : u.abortOp i o = (u, { Answer.done [] with status := stTooLate }) := by
    unfold State.abortOp
    rw [hk]
  rw [abort_running ho ha hr, hop]
  rfl

/-- An operation that is aborted is marked, and the ABORT is DONE. -/
theorem State.Admits.aborts (k : s.Admits h i (Req.abort p n)) (ho : s.opOf i n = some o) (ha : o.aborting = false)
    (hr : o.state = .running) (hop : (s.admitted h i).abortOp i o = (u, Answer.done [])) :
    (s.receive h (Req.abort p n)).Answered i h (Req.abort p n) { Answer.done [] with handle := n }
    ∧ ∃ f w, s.receive h (Req.abort p n) = { u with fcp := f, free := w } := by
  have hact : (Req.abort p n).act h i (s.admitted h i)
      = ({ u with fcp := u.fcp.marks n } : State).answers { Answer.done [] with handle := n } := by
    rw [abort_running (u := s.admitted h i) ho ha hr, hop]
    rfl
  obtain ⟨hans, f, w, hrec, -⟩ := stored_only k nofun hact
  exact ⟨hans, f, w, hrec⟩

/-- The module with its selftest marked aborted. -/
def State.selftestAborts (s : State) : State :=
  { s with service := { s.service with selftest := s.service.selftest.map (fun t => { t with aborted := true }) } }

theorem abortOp_selftest (hk : o.kind = .selftest) : u.abortOp i o = (u.selftestAborts, Answer.done []) := by
  unfold State.abortOp
  rw [hk]
  rfl

theorem abortOp_commit (hk : o.kind = .cfgCommit) : u.abortOp i o = (u.commitAborts, Answer.done []) := by
  unfold State.abortOp
  rw [hk]

theorem commitAborts_config {c : Commit} (hc : s.config.commit = some c) :
    s.commitAborts.config = { s.config with commit := none } := by
  unfold State.commitAborts
  rw [hc]
  exact (State.complete_keeps (Within.refl _) (Keeps.refl _ _) _ _ _ _).only .config (by decide)

/-- The module with its entry to a power mode marked aborted. -/
def State.entryMarked (s : State) : State := s.onPower (fun p => { p with entry := p.entry.map (fun n => { n with aborted := true }) })

theorem abortOp_powerEnter (hk : o.kind = .powerEnter) : u.abortOp i o = (u.entryMarked.entryChecks, Answer.done []) := by
  unfold State.abortOp
  rw [hk]
  rfl

/-- R542: an aborted entry ends at the end of the step in progress, at once where none is. -/
theorem entryMarked_checks {e : Entry} (he : s.power.entry = some e) :
    s.entryMarked.entryChecks.power.entry = if s.entryReady e.target then none else some { e with aborted := true } := by
  have hmark : s.entryMarked.power.entry = some { e with aborted := true } := by
    show s.power.entry.map _ = _
    rw [he]
    rfl
  have hready : s.entryMarked.entryReady e.target = s.entryReady e.target := rfl
  unfold State.entryChecks
  rw [hmark]
  dsimp only
  rw [hready, Bool.true_and]
  split
  · unfold State.entryEnds
    show (State.complete _ _ _ _ _).power.entry = none
    rw [complete_power]
    rfl
  · exact hmark

/-- A fetch holds the results of a handle, and answers the operation's own (R373). -/
theorem resultFetch_holds (k : s.Admits h i (Req.resultFetch p n)) (ho : s.opOf i n = some o) (hr : o.state ≠ .running) :
    (s.receive h (Req.resultFetch p n)).fcp.ops = s.fcp.ops.map (fun o => if o.handle = n then { o with state := .held } else o)
    ∧ (s.receive h (Req.resultFetch p n)).Answered i h (Req.resultFetch p n) o.fetched := by
  obtain ⟨hrec, hans⟩ := k.answers nofun (resultFetch_ended (u := s.admitted h i) ho hr)
  rw [hrec]
  refine ⟨?_, hans⟩
  obtain ⟨-, hops, -⟩ := State.answerStored_only { s.admitted h i with fcp := (s.admitted h i).fcp.holds n } h i
    (Req.resultFetch p n) o.fetched nofun
  exact hops

end

/-- Settles O37: RESULT_FETCH by its three answers, ABORT by those above, and by what each kind of operation does when aborted. -/
theorem resultsAndAborts : Obligations.ResultsAndAborts := by
  unfold Obligations.ResultsAndAborts
  intro s h i n q k
  refine ⟨fun hq => ?_, fun hq => ?_⟩
  · subst hq
    refine ⟨fun ho => hosted_reads rfl k nofun (resultFetch_unknown ho), fun o ho =>
      ⟨fun hr => hosted_reads rfl k nofun (resultFetch_running (u := s.admitted h i) ho hr), fun hr => ⟨_, rfl, resultFetch_holds k ho hr⟩⟩⟩
  · subst hq
    refine ⟨fun ho => hosted_reads rfl k nofun (abort_unknown ho), fun o ho =>
      ⟨fun ha => hosted_reads rfl k nofun (abort_again (u := s.admitted h i) ho ha), fun ha hlate => ?_, fun ha hr hk => ?_,
        fun c ha hr hk hc => ?_, fun e ha hr hk he => ?_⟩⟩
    · refine hosted_reads rfl k nofun ?_
      by_cases hr : o.state = .running
      · exact abort_erase (u := s.admitted h i) ho ha hr (hlate.resolve_left (not_not_intro hr))
      · exact abort_ended (u := s.admitted h i) ho ha hr
    · obtain ⟨hans, f, w, hrec⟩ := k.aborts ho ha hr (abortOp_selftest hk)
      exact ⟨_, rfl, congrArg (fun t : State => t.service.selftest) hrec, hans⟩
    · obtain ⟨hans, f, w, hrec⟩ := k.aborts ho ha hr (abortOp_commit hk)
      exact ⟨_, rfl, (congrArg State.config hrec).trans (commitAborts_config (s := s.admitted h i) hc), hans⟩
    · obtain ⟨hans, f, w, hrec⟩ := k.aborts ho ha hr (abortOp_powerEnter hk)
      exact ⟨_, rfl, (congrArg (fun t : State => t.power.entry) hrec).trans (entryMarked_checks (s := s.admitted h i) he), hans⟩

end Sys2Proof.Machine
end

section
/-!
The safe point and the selftest (R410, R617, R618): what waits for a safe point, what its timeout refuses, and what a selftest
reports.
-/

namespace Sys2Proof.Machine

section
variable {s : State} {m : Commit} {a : Activation} {q : SelfTest}

/-- R410: at a safe point a waiting commit goes on to the swap. -/
theorem safePoint_swaps (hs : s.atSafePoint = true) (hc : s.config.commit = some m) : s.safePoint = s.swaps m := by
  unfold State.safePoint
  rw [if_neg (by rw [hs]; decide), hc]

/-- R617: at a safe point a restart activation passes its commitment point, and every domain but KEEP goes off. -/
theorem safePoint_restarts (hs : s.atSafePoint = true) (hc : s.config.commit = none) (ha : s.service.fw.activation = some a)
    (hl : a.live = false) (hr : a.rolling = none) :
    (∀ n, s.safePoint.power.on n = decide (n.val = 0)) ∧ s.safePoint.loop.commanded = false
    ∧ s.safePoint.service.fw = { s.service.fw.commit with activation := none, stager := none } := by
  rw [restarts_out s a hs hc ha hl hr]
  obtain ⟨hon, hloop, -⟩ := powerLost_out s.activated
  exact ⟨hon, hloop, powerLost_fw s.activated⟩

/-- R410: the store once the safe point has not come. -/
theorem safePointTimeout_config (hc : s.config.commit = some m) :
    s.safePointTimeout.config = s.config.refuse (refusedBare 0x30 0xFFFF) := by
  unfold State.safePointTimeout
  rw [hc]
  exact (State.complete_keeps (Within.refl _) (Keeps.refl _ _) _ _ _ _).only .config (by decide)

/-- R410: the operation of a commit whose safe point has not come ends REFUSED 0x30. -/
theorem safePointTimeout_op (hc : s.config.commit = some m) {o : Operation}
    (ho : s.fcp.ops.find? (fun o => o.handle == m.handle && o.state == .running) = some o) :
    ∃ p ∈ s.safePointTimeout.fcp.ops, p.handle = m.handle ∧ p.state = .complete ∧ p.status = stRefused ∧ p.reason = 0x30 := by
  unfold State.safePointTimeout
  rw [hc]
  obtain ⟨p, hp, hhandle, hstate, hstatus, hreason, -⟩ := complete_out { s with config := s.config.refuse (refusedBare 0x30 0xFFFF) }
    m.handle stRefused 0x30 _ o ho
  exact ⟨p, hp, hhandle, hstate, hstatus, hreason⟩

/-- R618: a selftest that completes is over and dated; where it tests no doorway and no cartridge, its failed tests are those of
the hardware's outcomes and the firmware banks, and its operation ends. -/
theorem selftestEnds_reports (hq : s.service.selftest = some q) (outcome : Nat) (legs : List (Fin 4 × Fin 14)) (latency : Nat) :
    (s.selftestEnds outcome legs latency).service.selftest = none ∧ (s.selftestEnds outcome legs latency).service.testLast = s.now
    ∧ ((∀ d : DoorIx, q.doors[d] = false) → bitOf q.tests 5 = false →
      (s.selftestEnds outcome legs latency).service.testFailed
        = bitWord [false, false, bitOf q.tests 2 && bitOf outcome 2, bitOf q.tests 3 && !s.service.fw.banksPass,
          bitOf q.tests 4 && bitOf outcome 4, false]
      ∧ ∀ o, s.fcp.ops.find? (fun o => o.handle == q.handle && o.state == .running) = some o →
        ∃ p ∈ (s.selftestEnds outcome legs latency).fcp.ops, p.handle = q.handle ∧ p.state = .complete
          ∧ p.status = if q.aborted then stAborted else stDone) := by
  obtain ⟨v, f, l, hends, hidle, hnow, hfailed⟩ := selftestEnds_out s q hq outcome legs latency
  have hservice : (s.selftestEnds outcome legs latency).service = { v.service with testLast := v.now, testFailed := f } :=
    (congrArg State.service hends).trans (complete_service _ _ _ _ _)
  refine ⟨(congrArg Service.selftest hservice).trans hidle, (congrArg Service.testLast hservice).trans hnow, fun hd hcart => ?_⟩
  obtain ⟨hf, hfcp⟩ := hfailed hd hcart
  refine ⟨(congrArg Service.testFailed hservice).trans hf, fun o ho => ?_⟩
  rw [← hfcp] at ho
  obtain ⟨p, hp, hhandle, hstate, hstatus, -⟩ := complete_out
    { v with service := { v.service with testLast := v.now, testFailed := f } } q.handle (if q.aborted then stAborted else stDone) 0 l o ho
  rw [hends]
  exact ⟨p, hp, hhandle, hstate, hstatus⟩

end

/-- Settles O33: the swap by `swaps_config`, the restart by `safePoint_restarts`, the timeout by `safePointTimeout_config` and
`safePointTimeout_op`, the selftest by `selftestEnds_reports`. -/
theorem safePointAndSelfTest : Obligations.SafePointAndSelfTest := by
  unfold Obligations.SafePointAndSelfTest
  intro s
  refine ⟨fun hs => ⟨fun m hc => ?_, fun a hc ha hl hr => ?_⟩, fun m hc => ?_,
    fun q hq failed legs latency => ⟨_, rfl, selftestEnds_reports hq failed.toNat legs latency.toNat⟩⟩
  · exact ⟨_, rfl, (congrArg State.config (safePoint_swaps hs hc)).trans (swaps_config s m)⟩
  · obtain ⟨hon, hloop, hfw⟩ := safePoint_restarts hs hc ha hl hr
    exact ⟨_, rfl, hon, hloop, congrArg Firmware.active hfw, congrArg Firmware.previous hfw, congrArg Firmware.activations hfw⟩
  · have hconfig := safePointTimeout_config hc
    exact ⟨_, rfl, congrArg ConfigStore.commit hconfig, congrArg ConfigStore.timeouts hconfig, congrArg ConfigStore.refusals hconfig,
      (congrArg ConfigStore.active hconfig :), (congrArg ConfigStore.cfg hconfig :), fun o ho => safePointTimeout_op hc ho⟩

end Sys2Proof.Machine
end

section
/-!
Staging and committing a configuration image (R404 to R409): what CFG_LOAD_BLOCK and CFG_COMMIT answer, and what each leaves in
the store.
-/

namespace Sys2Proof.Machine

section
variable {s u : State} {h : Hdr} {i : SessIx} {p block : List Byte} {offset flags : Nat}

/-! ## CFG_LOAD_BLOCK (R404, R405) -/

theorem cfgLoadBlock_refused {x : Nat} (hx : u.config.stageRefusal i u.mono offset block.length (bitOf flags 0) = some x) :
    (Req.cfgLoadBlock p offset flags block).act h i u = u.answers (Answer.refused x) := by
  simp only [Req.cfgLoadBlock, Req.plain, hx]

theorem cfgLoadBlock_busy (hx : u.config.stageRefusal i u.mono offset block.length (bitOf flags 0) = none) (hc : u.config.commit ≠ none) :
    (Req.cfgLoadBlock p offset flags block).act h i u = u.answers (Answer.busy 0x4A) := by
  simp only [Req.cfgLoadBlock, Req.plain, hx, if_pos (Option.isSome_iff_ne_none.mpr hc)]

theorem cfgLoadBlock_staged (hx : u.config.stageRefusal i u.mono offset block.length (bitOf flags 0) = none) (hc : u.config.commit = none) :
    (Req.cfgLoadBlock p offset flags block).act h i u
      = ({ u with config := u.config.stage i u.mono (bitOf flags 0) block } : State).answers (Answer.done
        (le 4 (u.config.stage i u.mono (bitOf flags 0) block).stagedBytes ++ le 4 (u.config.stage i u.mono (bitOf flags 0) block).stagedCrc)) := by
  simp only [Req.cfgLoadBlock, Req.plain, hx, hc, Option.isSome_none, if_neg Bool.false_ne_true]

/-- The staged image with a block: a FIRST begins it, any other follows what is staged. -/
def ConfigStore.joined (c : ConfigStore) (first : Bool) (block : List Byte) : List Byte :=
  if first = true then block else c.banks[c.other].take c.stagedBytes ++ block

/-- R404, R405: the store with a block staged; only a FIRST gives up the previous image. -/
theorem ConfigStore.stage_eq (c : ConfigStore) (i : SessIx) (mono : Nat) (first : Bool) (block : List Byte) :
    c.stage i mono first block = { c with
      banks := c.banks.set c.other (c.joined first block), staged := true, stagedBytes := (c.joined first block).length
      stagingSession := some i, lastStaged := mono, previous := c.previous && !first, checkPassed := false } := by
  cases first with
  | true => simp only [ConfigStore.stage, ConfigStore.joined, if_pos, Bool.not_true, Bool.and_false]
  | false => simp only [ConfigStore.stage, ConfigStore.joined, if_neg Bool.false_ne_true, Bool.not_false, Bool.and_true]

/-- STAGED_CRC covers the staged image whole. -/
theorem ConfigStore.stage_stagedCrc (c : ConfigStore) (i : SessIx) (mono : Nat) (first : Bool) (block : List Byte) :
    (c.stage i mono first block).stagedCrc = crc32c (c.joined first block) := by
  rw [ConfigStore.stage_eq]
  unfold ConfigStore.stagedCrc
  show crc32c ((c.banks.set c.other (c.joined first block))[c.other].take (c.joined first block).length) = _
  rw [set_get, if_pos rfl, List.take_length]

/-- A block in order and in turn is staged, and answered with the bytes staged and their CRC. -/
theorem cfgLoadBlock_stages (k : s.Admits h i (Req.cfgLoadBlock p offset flags block))
    (hx : s.config.stageRefusal i s.mono offset block.length (bitOf flags 0) = none) (hc : s.config.commit = none) :
    (s.receive h (Req.cfgLoadBlock p offset flags block)).config = s.config.stage i s.mono (bitOf flags 0) block
    ∧ (s.receive h (Req.cfgLoadBlock p offset flags block)).Answered i h (Req.cfgLoadBlock p offset flags block)
      (Answer.done (le 4 (s.config.joined (bitOf flags 0) block).length ++ le 4 (crc32c (s.config.joined (bitOf flags 0) block)))) := by
  have hact := cfgLoadBlock_staged (h := h) (p := p) (u := s.admitted h i) hx hc
  rw [ConfigStore.stage_stagedCrc, ConfigStore.stage_eq] at hact
  obtain ⟨hans, f, w, hrec, -⟩ := stored_only k nofun hact
  refine ⟨?_, hans⟩
  rw [hrec, ConfigStore.stage_eq]
  rfl

/-! ## CFG_COMMIT (R407 to R409) -/

variable {enable previous : Bool} {id n : Nat}

theorem cfgCommit_busy (hc : u.config.commit ≠ none) : (Req.cfgCommit p flags id).act h i u = u.answers (Answer.busy 0x4A) := by
  simp only [Req.cfgCommit, Req.plain, if_pos (Option.isSome_iff_ne_none.mpr hc)]

theorem cfgCommit_accepts (hc : u.config.commit = none) :
    (Req.cfgCommit p (bitWord [enable, previous]) id).act h i u
      = u.accepts i 0x0202 .cfgCommit noDoors (fun n t => t.commitChecks i enable previous id n) := by
  simp only [Req.cfgCommit, Req.plain, hc, Option.isSome_none, if_neg Bool.false_ne_true, bitOf_bitWord]
  rfl

/-- Of the sessions the checks touch only events. -/
theorem commitChecks_hush (u : State) (i : SessIx) (enable previous : Bool) (id n : Nat) :
    u.Hush (u.commitChecks i enable previous id n) := by
  unfold State.commitChecks
  dsimp only
  split
  · exact State.Hush.trans (.of_fcp rfl) (State.complete_hush _ _ _ _ _)
  · split
    · exact .of_fcp rfl
    · exact State.Hush.trans (.of_fcp rfl) (State.complete_hush _ _ _ _ _)

/-- R408, R409: a fault that the check finds is recorded and counted. -/
theorem commitChecks_refuses {step : Nat} {f : Refused} (hf : u.config.check previous id u.service.fw.version = some (step, f))
    (hc : u.config.commit = none) :
    (u.commitChecks i enable previous id n).config = { u.config with
      checkPassed := false, refusals := satInc 16 u.config.refusals
      lastRefusal := f.code + f.sub * 0x100 + f.index * 0x10000
      timeouts := if f.code = 0x30 then satInc 16 u.config.timeouts else u.config.timeouts } := by
  have hcheck : ({ u.config with checkPassed := false } : ConfigStore).check previous id u.service.fw.version = some (step, f) := hf
  unfold State.commitChecks
  dsimp only
  rw [hcheck]
  refine ((State.complete_keeps (Within.refl _) (Keeps.refl _ _) _ _ _ _).only .config (by decide)).trans ?_
  unfold ConfigStore.refuse
  rw [← hc]

/-- R407: an image without fault waits for its safe point where it is to be enabled, and is marked checked where it is not. -/
theorem commitChecks_passes (hf : u.config.check previous id u.service.fw.version = none) (hc : u.config.commit = none) :
    (u.commitChecks i enable previous id n).config = { u.config with
      checkPassed := !enable
      commit := if enable = true then some {
        handle := n, session := i, previous := previous, cfgId := id, started := u.mono, waitFrom := u.mono }
      else none } := by
  have hcheck : ({ u.config with checkPassed := false } : ConfigStore).check previous id u.service.fw.version = none := hf
  unfold State.commitChecks
  dsimp only
  rw [hcheck]
  cases enable with
  | true => rfl
  | false =>
    refine ((State.complete_keeps (Within.refl _) (Keeps.refl _ _) _ _ _ _).only .config (by decide)).trans ?_
    show { u.config with checkPassed := true } = { u.config with checkPassed := true, commit := none }
    rw [← hc]

/-- A commit that nothing holds up is accepted with a handle, and the checks of its image follow. -/
theorem cfgCommit_checks (k : s.Admits h i (Req.cfgCommit p (bitWord [enable, previous]) id)) (hc : s.config.commit = none)
    (hx : s.exhausted i = false) :
    (s.receive h (Req.cfgCommit p (bitWord [enable, previous]) id)).Answered i h (Req.cfgCommit p (bitWord [enable, previous]) id)
      (Answer.accepted s.fcp.nextHandle)
    ∧ ∃ f, (s.receive h (Req.cfgCommit p (bitWord [enable, previous]) id)).config
      = (({ s with fcp := f } : State).commitChecks i enable previous id s.fcp.nextHandle).config := by
  obtain ⟨v, hv, hrec, -, hans⟩ := accepts_next k nofun (cfgCommit_accepts (u := s.admitted h i) hc) hx
  refine ⟨hans (commitChecks_hush _ _ _ _ _ _), v.fcp, ?_⟩
  rw [hrec, ← hv]
  rfl

end

/-- Settles O41: a block by `cfgLoadBlock_refused`, `cfgLoadBlock_busy` and `cfgLoadBlock_stages`, a commit by `cfgCommit_busy`,
`accepts_busy` and `cfgCommit_checks`, whose checks end by `commitChecks_refuses` or `commitChecks_passes`. -/
theorem configurationStagesAndCommits : Obligations.ConfigurationStagesAndCommits := by
  unfold Obligations.ConfigurationStagesAndCommits
  intro s h i
  refine ⟨fun offset flags block q hq k => ?_, fun enable previous id q c hq k hcmd => ?_⟩
  · subst hq
    refine ⟨fun x hx => hosted_reads rfl k nofun (cfgLoadBlock_refused (u := s.admitted h i) hx),
      fun hx hc => hosted_reads rfl k nofun (cfgLoadBlock_busy (u := s.admitted h i) hx hc), fun hx hc => ?_⟩
    obtain ⟨hconfig, hans⟩ := cfgLoadBlock_stages k hx hc
    exact ⟨_, s.config.joined (bitOf flags.toNat 0) block, rfl, rfl, hconfig.trans (ConfigStore.stage_eq ..), hans⟩
  · have hhost : hosted c = some (h, q) := by
      subst hq hcmd
      cases enable <;> rfl
    subst hq
    refine ⟨fun hc => hosted_reads hhost k nofun (cfgCommit_busy (u := s.admitted h i) hc), fun hc hx => ?_, fun hc hx => ?_⟩
    · obtain ⟨hans, hun⟩ := accepts_busy k nofun (cfgCommit_accepts (u := s.admitted h i) hc) hx
      exact ⟨_, hosted_exec hhost s, hun, hans⟩
    · obtain ⟨hans, f, hconfig⟩ := cfgCommit_checks k hc hx
      exact ⟨_, hosted_exec hhost s, hans,
        fun step r hr => hconfig.trans (commitChecks_refuses (u := { s with fcp := f }) hr hc),
        fun hr => hconfig.trans (commitChecks_passes (u := { s with fcp := f }) hr hc)⟩

end Sys2Proof.Machine
end

section
/-!
Frames on the ring and the ring's upkeep in full (chapter 11), and RING_STATUS.
-/

namespace Sys2Proof.Machine

/-! ## Frames (R432 to R434, R439) -/

section
variable {r : Ring} {e : RingEnv} {p : PortIx} {f : RingFrame}

theorem receive_badFcs_is (h : f.fcsOk = false) : r.receive e p f = ({ r with
    counters := if p = 0 then { r.counters with fcsA := satInc 32 r.counters.fcsA }
      else { r.counters with fcsB := satInc 32 r.counters.fcsB } }, [], .nothing) :=
  if_pos (by rw [h]; rfl)

theorem receive_foreign_is (hfcs : f.fcsOk = true) (h : f.ringDest = false ∨ f.tagged = true) : r.receive e p f
    = ({ r with counters := { r.counters with foreign := satInc 32 r.counters.foreign } }, [], .nothing) := by
  have hx : (!f.ringDest || f.tagged) = true := by rcases h with h | h <;> simp [h]
  simp only [Ring.receive, hfcs, hx, Bool.not_true, Bool.false_eq_true, if_false, if_true]

/-- R434: another EtherType is a conflict, and with it the consist disagrees. -/
theorem receive_otherType (hfcs : f.fcsOk = true) (hdest : f.ringDest = true) (htag : f.tagged = false)
    (htype : f.etherType ≠ e.etherType) :
    (r.receive e p f).1.etherConflict = true ∧ (r.receive e p f).1.counters.foreign = satInc 32 r.counters.foreign
      ∧ (r.receive e p f).1.consistMismatch = true ∧ (r.receive e p f).2.2 = .nothing := by
  have hrec : ∃ v : Ring, v.etherConflict = true ∧ v.counters.foreign = satInc 32 r.counters.foreign
      ∧ (r.receive e p f).1 = ((v.sendOn p f).judge e).1 ∧ (r.receive e p f).2.2 = .nothing := by
    refine ⟨{ r with etherConflict := true, counters := { r.counters with foreign := satInc 32 r.counters.foreign } }, rfl, rfl, ?_⟩
    simp only [Ring.receive, hfcs, hdest, htag, Bool.not_true, Bool.or_false, Bool.false_eq_true, if_false, if_pos htype, and_self]
  obtain ⟨v, hconflict, hforeign, hring, hnothing⟩ := hrec
  obtain ⟨-, hsent, hcount, -⟩ := sendOn_out v p f
  obtain ⟨hjudged, hkept, hmismatch, -, -⟩ := judge_out (v.sendOn p f) e
  have hset : (v.sendOn p f).etherConflict = true := hsent.trans hconflict
  rw [hring]
  refine ⟨hjudged.trans hset, hkept.trans (hcount.trans hforeign), hmismatch ?_, hnothing⟩
  unfold Ring.consistCondition
  rw [hset]
  simp

/-- A frame in the module's own terms: whole, of the ring, untagged and of its EtherType. -/
structure ProperFrame (f : RingFrame) (e : RingEnv) : Prop where
  fcs  : f.fcsOk = true
  dest : f.ringDest = true
  tag  : f.tagged = false
  type : f.etherType = e.etherType

/-- R432: a frame of another node, for another, that has no hop left is counted and goes nowhere. -/
theorem receive_expired (hf : ProperFrame f e) (hsrc : f.source ≠ e.cfg.ringAddress) (hto : f.dest ≠ e.cfg.ringAddress) (hhops : f.hops = 0) :
    r.receive e p f
      = ({ r with counters := { r.counters with hopsExpired := satInc 32 r.counters.hopsExpired } }, [], .nothing) := by
  obtain ⟨hfcs, hdest, htag, htype⟩ := hf
  simp [Ring.receive, forwards, hfcs, hdest, htag, htype, hsrc, hto, hhops]

/-- R433: a copy of an accepted frame goes on and is delivered no second time. -/
theorem receive_duplicate (hf : ProperFrame f e) (hsrc : f.source ≠ e.cfg.ringAddress) (hto : f.dest ≠ e.cfg.ringAddress) (hhops : f.hops ≠ 0)
    (h4 : f.type = 4) (hwrapped : r.wrapped = (false, false)) (hup : r.up = (true, true))
    (hdup : isDuplicate (r.window f.source) f.seq = true) :
    r.receive e p f = ({ r with
      lastOut := some (otherPort p, { f with hops := f.hops - 1 })
      counters := { r.counters with forwarded := satInc 32 r.counters.forwarded, duplicates := satInc 32 r.counters.duplicates } },
      [], .nothing) := by
  obtain ⟨hfcs, hdest, htag, htype⟩ := hf
  have hwindow : ∀ (o : Option (PortIx × RingFrame)) (c : RingCounters),
    ({ r with lastOut := o, counters := c } : Ring).window f.source = r.window f.source := fun _ _ => rfl
  simp [Ring.receive, forwards, hfcs, hdest, htag, htype, hsrc, hto, hhops, h4, sendOn_through r p _ hwrapped hup, hwindow, hdup]

/-- R439: a beacon with the module's own address and another MAC address is a conflict, and with it the consist disagrees. -/
theorem receive_ownBeacon (hf : ProperFrame f e) (hsrc : f.source = e.cfg.ringAddress) (h1 : f.type = 1) (hmac : f.srcMac ≠ e.mac)
    (hconflict : r.addressConflict = false) :
    (r.receive e p f).1.addressConflict = true ∧ (r.receive e p f).1.consistMismatch = true
      ∧ (r.receive e p f).1.lastOut = r.lastOut ∧ (r.receive e p f).2.2 = .nothing := by
  obtain ⟨hfcs, hdest, htag, htype⟩ := hf
  have hrec : (r.receive e p f).1 = (({ r with addressConflict := true } : Ring).judge e).1 ∧ (r.receive e p f).2.2 = .nothing := by
    simp [Ring.receive, forwards, hfcs, hdest, htag, htype, hsrc, h1, hmac, hconflict]
  obtain ⟨-, -, hmismatch, haddr, hout⟩ := judge_out ({ r with addressConflict := true } : Ring) e
  rw [hrec.1]
  exact ⟨haddr, hmismatch (by simp [Ring.consistCondition]), hout, hrec.2⟩

end

/-! ## The view, the ports and the relays (R438 to R445) -/

/-- R438: what a node's time-out leaves. -/
theorem nodeTimeout_out (r : Ring) (e : RingEnv) {a : Nat} (h : r.nodes.any (fun n => n.addr == a) = true) :
    (r.nodeTimeout e a).1.nodes = r.nodes.filter (fun n => n.addr != a) ∧ (r.nodeTimeout e a).1.nodeLost = true
      ∧ (r.nodeTimeout e a).1.counters.nodeTimeouts = satInc 16 r.counters.nodeTimeouts := by
  obtain ⟨-, -, hlost, hcount, -, -⟩ := chooseMaster_out ({ r.dropNode a with
    nodeLost := true, counters := { r.counters with nodeTimeouts := satInc 16 r.counters.nodeTimeouts } } : Ring) e
  refine ⟨nodeTimeout_nodes r e h, ?_⟩
  unfold Ring.nodeTimeout
  rw [if_pos h]
  exact ⟨hlost, congrArg RingCounters.nodeTimeouts hcount⟩

theorem portDown_is (r : Ring) (e : RingEnv) {p : PortIx} (h : ofPort r.wrapped p = false) :
    (r.portDown e p).1 = { r with
      up := setPort r.up p false, wrapped := setPort r.wrapped p true, wrappedAt := some e.mono
      counters := { r.counters with wraps := satInc 16 r.counters.wraps } } :=
  congrArg Prod.fst (if_neg (by rw [h]; decide))

theorem portUp_is (r : Ring) (e : RingEnv) {p : PortIx} (h : ofPort r.wrapped p = true) :
    (r.portUp e p).1 = { r with
      up := setPort r.up p true, wrapped := setPort r.wrapped p false, wrappedAt := some e.mono
      counters := { r.counters with unwraps := satInc 16 r.counters.unwraps } } :=
  congrArg Prod.fst (if_neg (by rw [h]; decide))

/-- R445: the relays are energised, and both ports start wrapped (log entry 52). -/
theorem insert_out (r : Ring) (e : RingEnv) (h : r.inserted = false) :
    (r.insert e).1.inserted = true ∧ (r.insert e).1.wrapped = (true, true)
      ∧ (r.insert e).1.counters.relayCycles = satInc 32 r.counters.relayCycles := by
  obtain ⟨-, -, -, hcount, -, hwrapped⟩ := chooseMaster_out ({ r with
    inserted := true, up := (false, false), wrapped := (true, true)
    counters := { r.counters with relayCycles := satInc 32 r.counters.relayCycles } } : Ring) e
  refine ⟨insert_inserted r e h, ?_⟩
  unfold Ring.insert
  rw [if_neg (by rw [h]; decide)]
  exact ⟨hwrapped, congrArg RingCounters.relayCycles hcount⟩

/-! ## Conflicts and mismatches that end (R434, R439, R454, R455) -/

theorem addressClear_is (r : Ring) (e : RingEnv) (h : r.addressConflict = true) :
    (r.addressClear e).1 = { r with addressConflict := false } := congrArg Prod.fst (if_pos h)

theorem etherClear_is (r : Ring) (e : RingEnv) (h : r.etherConflict = true) :
    (r.etherClear e).1 = { r with etherConflict := false } := congrArg Prod.fst (if_pos h)

theorem consistClear_is (r : Ring) (e : RingEnv) (h : r.consistMismatch = true) (hc : r.consistCondition = false) :
    (r.consistClear e).1 = { r with
      consistMismatch := false, counters := { r.counters with mismatches := satInc 16 r.counters.mismatches } } :=
  congrArg Prod.fst (if_pos (by rw [h, hc]; rfl))

theorem versionClear_is (r : Ring) (e : RingEnv) (h : r.versionMismatch = true) (hc : r.versionCondition = false) :
    (r.versionClear e).1 = { r with versionMismatch := false } := congrArg Prod.fst (if_pos (by rw [h, hc]; rfl))

/-! ## The statements -/

section
variable {s : State}

/-- R436: the beacon sent, with the content that a running comms engine refreshes. -/
theorem sendBeacon_sent (hr : s.onRing = true) : s.sendBeacon.ring.sent
    = s.beaconBody s.nodeState (if s.commsRuns then s.beaconContent else s.ring.beacon) := by
  unfold State.sendBeacon
  rw [if_neg (by rw [hr]; decide)]

/-- R445: what the module keeps of the ring as it leaves it. -/
theorem ringRemoves_ring (hr : s.onRing = true) : s.ringRemoves.ring = { s.ring.leave with
    beacon := if s.commsRuns then s.beaconContent else s.ring.beacon
    sent := s.beaconBody 3 (if s.commsRuns then s.beaconContent else s.ring.beacon)
    frameSeq := (s.ring.frameSeq + 3) % 65536 } := by
  unfold State.ringRemoves
  rw [if_neg (by rw [hr]; decide)]

/-- R445: the module joins the ring as `Ring.insert` has it. -/
theorem ringInserts_ring (hp : s.power.on 1 = true) (hc : s.config.inForce = true) (he : s.cfg.ringEnable = 1) :
    s.ringInserts.ring = (s.ring.insert s.ringEnv).1 := by
  unfold State.ringInserts
  rw [if_pos (by rw [hp, hc, he]; rfl), takeRing_ring]

end

/-- Settles O28: each frame by the lemma of its kind (`ringFrame_exec`), the upkeep by what each operation leaves of the ring. -/
theorem ringFramesAndUpkeep : Obligations.RingFramesAndUpkeep := by
  unfold Obligations.RingFramesAndUpkeep
  refine ⟨fun s p f hr => ⟨fun hfcs => ?_, fun hfcs hx => ?_, fun hfcs hdest htag htype => ?_,
      fun hfcs hdest htag htype hsrc => ⟨fun hto hhops => ?_, fun hto hhops h4 hw hup hdup => ?_, fun hto hhops h4 hp hq => ?_⟩,
      fun hfcs hdest htag htype hsrc h1 hmac hconflict => ?_⟩,
    fun s => ⟨fun hm => ⟨_, rfl, ?_⟩, fun hp hc he hi => ⟨_, rfl, ?_⟩,
      fun hr => ⟨⟨_, rfl, sendBeacon_seq hr, sendBeacon_sent hr⟩, ⟨_, rfl, ?_⟩, fun a ha => ⟨_, rfl, ?_⟩, fun p hw => ⟨_, rfl, ?_⟩,
        fun p hw => ⟨_, rfl, ?_⟩, fun hx => ⟨_, rfl, ?_⟩, fun hx => ⟨_, rfl, ?_⟩, fun hx hc => ⟨_, rfl, ?_⟩,
        fun hx hc => ⟨_, rfl, ?_⟩⟩⟩⟩
  · have hrec := receive_badFcs_is (r := s.ring) (e := s.ringEnv) (p := p) hfcs
    obtain ⟨t, hexec, hring⟩ := ringFrame_exec hr p (f := f) (by rw [hrec])
    exact ⟨t, hexec, by rw [hring, hrec]⟩
  · have hrec := receive_foreign_is (r := s.ring) (e := s.ringEnv) (p := p) hfcs hx
    obtain ⟨t, hexec, hring⟩ := ringFrame_exec hr p (f := f) (by rw [hrec])
    exact ⟨t, hexec, by rw [hring, hrec]⟩
  · obtain ⟨hset, hcount, hmismatch, hn⟩ := receive_otherType (r := s.ring) (p := p) hfcs hdest htag htype
    obtain ⟨t, hexec, hring⟩ := ringFrame_exec hr p hn
    exact ⟨t, hexec, by rw [hring]; exact ⟨hset, hcount, hmismatch⟩⟩
  · have hrec := receive_expired (r := s.ring) (p := p) ⟨hfcs, hdest, htag, htype⟩ hsrc hto hhops
    obtain ⟨t, hexec, hring⟩ := ringFrame_exec hr p (f := f) (by rw [hrec])
    exact ⟨t, hexec, by rw [hring, hrec]⟩
  · have hrec := receive_duplicate (p := p) ⟨hfcs, hdest, htag, htype⟩ hsrc hto hhops h4 hw hup hdup
    obtain ⟨t, hexec, hring⟩ := ringFrame_exec hr p (f := f) (by rw [hrec])
    exact ⟨t, hexec, by rw [hring, hrec]; exact ⟨rfl, rfl, rfl, rfl⟩⟩
  · obtain ⟨hout, hn⟩ := receive_turnedBack (e := s.ringEnv) hfcs hdest htag htype hsrc hto hhops h4 hp hq
    obtain ⟨t, hexec, hring⟩ := ringFrame_exec hr p hn
    exact ⟨t, hexec, hring ▸ hout⟩
  · obtain ⟨hset, hmismatch, hout, hn⟩ := receive_ownBeacon (p := p) ⟨hfcs, hdest, htag, htype⟩ hsrc h1 hmac hconflict
    obtain ⟨t, hexec, hring⟩ := ringFrame_exec hr p hn
    exact ⟨t, hexec, by rw [hring]; exact ⟨hset, hmismatch, hout⟩⟩
  · exact (congrArg Ring.timeAge (takeRing_ring s _)).trans (ageCount_age s.ring s.ringEnv hm)
  · rw [ringInserts_ring hp hc he]
    exact insert_out s.ring s.ringEnv hi
  · rw [ringRemoves_ring hr]
    exact ⟨rfl, rfl, rfl, rfl, rfl⟩
  · rw [onInserted_ring s _ hr]
    exact nodeTimeout_out s.ring s.ringEnv ha
  · rw [onInserted_ring s _ hr, portDown_is s.ring s.ringEnv hw]
    obtain ⟨hown, hother⟩ := ofPort_set s.ring.wrapped p true
    exact ⟨hown, (ofPort_set s.ring.up p false).1, rfl, hother⟩
  · rw [onInserted_ring s _ hr, portUp_is s.ring s.ringEnv hw]
    obtain ⟨hown, hother⟩ := ofPort_set s.ring.wrapped p false
    exact ⟨hown, (ofPort_set s.ring.up p true).1, rfl, hother⟩
  · rw [onInserted_ring s _ hr, addressClear_is s.ring s.ringEnv hx]
  · rw [onInserted_ring s _ hr, etherClear_is s.ring s.ringEnv hx]
  · rw [onInserted_ring s _ hr, consistClear_is s.ring s.ringEnv hx hc]
    exact ⟨rfl, rfl⟩
  · rw [onInserted_ring s _ hr, versionClear_is s.ring s.ringEnv hx hc]

theorem Ring.status_length (r : Ring) (e : RingEnv) : (r.status e).length = 40 := by
  simp only [Ring.status, leInt, List.length_append, le_length]

/-- Settles O58: the answer is the ring's status, whose fields have fixed lengths (`Ring.status_length`), and nothing else moves
(`hosted_reads`). -/
theorem ringStatusAnswers : Obligations.RingStatusAnswers := by
  unfold Obligations.RingStatusAnswers
  intro s h i q payload k hq hpayload
  subst hq hpayload
  exact ⟨s.ring.status_length s.ringEnv, hosted_reads rfl k nofun rfl⟩

end Sys2Proof.Machine
end

section
/-!
The CAN channels (chapter 12): what each occurrence at a channel, and each access of the application engine to CAN1, leaves there.
-/

namespace Sys2Proof.Machine

/-! ## Received frames (R469, R480) -/

/-- A frame that brings no segment leaves its channel and the events of its reception, and nothing else. -/
theorem canFrame_quiet {s : State} {ch : CanIx} {x : CanFrame} (h : s.power.on 2 = true)
    (hn : (s.can.channels[ch].receive s.canEnv ch x).2.2 = .nothing) :
    s.canFrame ch x = ({ s with can := { s.can with
      channels := s.can.channels.set ch (s.can.channels[ch].receive s.canEnv ch x).1 } } : State).events
        (s.can.channels[ch].receive s.canEnv ch x).2.1 := by
  unfold State.canFrame
  rw [if_neg (by rw [h]; decide)]
  dsimp only
  rw [hn]

/-- R469: a remote frame is counted, and brings nothing. -/
theorem receive_remote_is {k : CanChannel} (e : CanEnv) (ch : CanIx) {x : CanFrame} (ha : k.active = true) (hi : k.integrating = false)
    (hb : k.busOff = false) (hr : x.remote = true) :
    (k.receive e ch x).1 = { k with
        rxFrames := satInc 32 k.rxFrames, rxErr := (k.receive e ch x).1.rxErr, rxUnmatched := satInc 32 k.rxUnmatched }
      ∧ (k.receive e ch x).2.2 = .nothing := by
  unfold CanChannel.receive
  rw [if_neg (by rw [ha, hi, hb]; decide)]
  dsimp only
  rw [if_pos hr]
  exact ⟨rfl, rfl⟩

/-- Settles O56: the channel by `receive_remote_is`, the rest by `canFrame_quiet`. -/
theorem remoteFramesAreDiscarded : Obligations.RemoteFramesAreDiscarded := by
  unfold Obligations.RemoteFramesAreDiscarded
  intro s ch x hp ha hi hb hr
  obtain ⟨hk, hn⟩ := receive_remote_is s.canEnv ch ha hi hb hr
  have hquiet := canFrame_quiet hp hn
  have hkeeps : Keeps [.fcp, .can] s (s.canFrame ch x) := by
    rw [hquiet]
    exact State.events_keeps (Within.of (Within.refl _) rfl)
      (Keeps.putCan (x := { s.can with channels := _ }) (Within.of (Within.refl _) rfl) (Keeps.refl _ s)) _
  refine ⟨s.canFrame ch x, _, rfl, hkeeps.only, ?_, ?_, hk⟩
  · rw [hquiet]
    exact events_ops _ _
  · rw [hquiet]
    exact events_can _ _

/-! ## Basic cycles (R488, R490) -/

section
variable {k : CanChannel} {e : CanEnv} {ch : CanIx}

/-- R488: under TIME_BASE 3 the cycles number on from the last. -/
theorem cycleStart_free (ha : k.active = true) (hi : k.integrating = false) (hb : k.busOff = false) (h3 : schedBase k.live = 3) :
    (k.cycleStart e ch).1.running = true ∧ (k.cycleStart e ch).1.syncLost = false
      ∧ (k.cycleStart e ch).1.cycle = some ⟨match k.cycle with
        | some b => (b.number + 1) % max 1 (schedCycles k.live)
        | none => 0, e.mono⟩ := by
  unfold CanChannel.cycleStart
  rw [if_neg (by rw [ha, hi, hb]; decide), if_neg (by omega), if_pos h3]
  unfold CanChannel.beginCycle CanChannel.nextNumber
  rw [if_neg (by omega)]
  exact ⟨rfl, rfl, rfl⟩

/-- R488: under TIME_BASE 1 number and start follow module time. -/
theorem cycleStart_timed (ha : k.active = true) (hi : k.integrating = false) (hb : k.busOff = false) (h1 : schedBase k.live = 1) :
    (k.cycleStart e ch).1.running = true
      ∧ (k.cycleStart e ch).1.cycle = some ⟨e.now / max 1 (schedLength k.live) % max 1 (schedCycles k.live),
        e.now / max 1 (schedLength k.live) * max 1 (schedLength k.live)⟩ := by
  unfold CanChannel.cycleStart
  rw [if_neg (by rw [ha, hi, hb]; decide), if_pos h1]
  unfold CanChannel.beginCycle CanChannel.nextNumber
  refine ⟨rfl, ?_⟩
  rw [if_pos h1]

/-- R490: without a reference the sync is lost, and TXB0 is emptied. -/
theorem loseSync_out (ha : k.active = true) (hi : k.integrating = false) (hb : k.busOff = false) (h2 : schedBase k.live = 2)
    (hs : k.syncLost = false) : (k.loseSync e ch).1.syncLost = true ∧ (k.loseSync e ch).1.txb0 = TxBuffer.empty := by
  unfold CanChannel.loseSync
  rw [if_pos (by rw [ha, hi, hb, hs, h2]; rfl)]
  exact ⟨rfl, rfl⟩

theorem recovered_is (ha : k.active = true) (hb : k.busOff = true) (hr : k.recovering = true) :
    (k.recovered e ch).1 = { k with busOff := false, recovering := false, txErr := 0, rxErr := 0 } :=
  congrArg Prod.fst (if_pos (by rw [ha, hb, hr]; rfl))

theorem integrated_is (ha : k.active = true) (hi : k.integrating = true) : (k.integrated e ch).1 = { k with integrating := false } :=
  congrArg Prod.fst (if_pos (by rw [ha, hi]; rfl))

/-- R497: the loaded schedule takes the place of the live one. -/
theorem swap_out {b : List Byte} (hl : k.loaded = some b) : (k.swap e ch).1.live = b ∧ (k.swap e ch).1.loaded = none
    ∧ (k.swap e ch).1.modified = true ∧ (k.swap e ch).1.cycle = none := by
  unfold CanChannel.swap
  rw [hl]
  exact ⟨rfl, rfl, rfl, rfl⟩

end

/-! ## Occurrences at a channel -/

section
variable {s : State} {ch : CanIx}

/-- R473: the module's part in a bus-off beyond the channel is the partial packets alone. -/
theorem busOff_own (hp : s.power.on 2 = true) (ha : (s.can.channels[ch]).active = true) (hb : (s.can.channels[ch]).busOff = false) :
    (s.busOff ch).can.channels[ch] = (s.can.channels[ch].enterBusOff s.canEnv ch).1 := by
  unfold State.busOff
  dsimp only
  rw [if_neg (by rw [hp, ha, hb]; decide), dropPartials_can, onChannel_own s ch _ hp]

theorem loadSlot_can (hp : s.power.on 2 = true) (slot : Nat) : (s.loadSlot ch slot).can = s.can.loadSlot s.canEnv ch slot :=
  congrArg State.can (if_pos hp)

theorem latestStart_can (hp : s.power.on 2 = true) (b : TxBuf) : (s.latestStart ch b).can = s.can.latestStart ch b :=
  congrArg State.can (if_pos hp)

/-- R476: where no buffer goes, nothing does. -/
theorem frameSent_none (hp : s.power.on 2 = true) {ready : BitVec 3} (hg : s.can.channels[ch].goesFirst s.cfg ch ready = none)
    (r : TxResult) : s.frameSent ch ready r = s := by
  unfold State.frameSent
  rw [if_neg (by rw [hp]; decide), hg]

/-- R476, R477: the attempt is that of the buffer which goes first. -/
theorem frameSent_can (hp : s.power.on 2 = true) {ready : BitVec 3} {b : TxBuf}
    (hg : s.can.channels[ch].goesFirst s.cfg ch ready = some b) (r : TxResult) :
    (s.frameSent ch ready r).can = (s.can.transmitted s.canEnv ch b r).1 := by
  unfold State.frameSent
  rw [if_neg (by rw [hp]; decide), hg]
  exact events_can _ _

/-- R477: a frame that loses arbitration stays. -/
theorem transmitted_lost (c : Can) (e : CanEnv) (ch : CanIx) (b : TxBuf) : (c.transmitted e ch b .lostArbitration).1 = c := by
  unfold Can.transmitted
  dsimp only
  split <;> rfl

/-- R480: a data frame that no session takes, on a channel whose schedule takes no reference, goes to the filter bank. -/
theorem canFrame_filtered {x : CanFrame} (hp : s.power.on 2 = true) (ha : (s.can.channels[ch]).active = true)
    (hi : (s.can.channels[ch]).integrating = false) (hb : (s.can.channels[ch]).busOff = false) (hr : x.remote = false)
    (hs : sessionOf s.cfg ch x = none) (h2 : schedBase (s.can.channels[ch]).live ≠ 2) :
    ∃ k : CanChannel, k.rxFrames = satInc 32 (s.can.channels[ch]).rxFrames ∧ k.filters = (s.can.channels[ch]).filters
      ∧ k.rxq0 = (s.can.channels[ch]).rxq0 ∧ k.rxq1 = (s.can.channels[ch]).rxq1
      ∧ (s.canFrame ch x).can.channels[ch] = (k.filtered s.canEnv ch x).1 := by
  obtain ⟨k, hframes, hfilters, hq0, hq1, hrec, hn⟩ := receive_filtered (s.can.channels[ch]) s.canEnv ch x ha hi hb hr hs h2
  exact ⟨k, hframes, hfilters, hq0, hq1, (canFrame_own s ch x hp hn).trans hrec⟩

end

/-! ## CAN1 and the application engine (R494 to R496) -/

section
variable {s : State}

theorem onOwnCan_owned (hr : s.appRuns = true) (ho : s.cfg.canOwned 1 = true) (hp : s.power.on 2 = true) (addr : Nat) (f : Can → Can) :
    (s.onOwnCan addr f).can = f s.can := by
  unfold State.onOwnCan
  rw [if_neg (by rw [hr]; decide), if_pos (by rw [ho, hp]; rfl)]

/-- R574: without ownership the access is out of rights. -/
theorem onOwnCan_foreign (hr : s.appRuns = true) (ho : s.cfg.canOwned 1 = false) (addr : Nat) (f : Can → Can) :
    s.onOwnCan addr f = s.violates addr := by
  unfold State.onOwnCan
  rw [if_neg (by rw [hr]; decide), if_neg (by simp [ho])]

theorem violates_app (hr : s.appRuns = true) (addr : Nat) : (s.violates addr).engines.app
    = { s.engines.app with violations := satInc 32 s.engines.app.violations, lastViolation := addr } := onApp_app s _ hr

theorem violates_can (s : State) (addr : Nat) : (s.violates addr).can = s.can := by
  unfold State.violates State.onApp
  split <;> rfl

/-- R496: a request for TXB1 alone loads it from its registers. -/
theorem request_first {c : Can} {bits : Nat} (h1 : bitOf bits 1 = true) (h2 : bitOf bits 2 = false)
    (hf : (c.channels[(1 : CanIx)]).txb1.frames = []) : c.request bits = c.channel 1 (fun k => { k with
      txb1 := { frames := [frameOfBytes c.appTx[(0 : Fin 2)]], session := none, object := none, waits := false } }) := by
  have hempty : ((c.channels[(1 : CanIx)]).buffer .txb1).frames.isEmpty = true := List.isEmpty_iff.mpr hf
  unfold Can.request
  dsimp only
  rw [if_pos h1, if_pos hempty, if_neg (by rw [h2]; decide)]
  rfl

theorem emptied_first (c : Can) : let d := c.channel 1 (fun k => k.setBuffer .txb1 .empty)
    (d.channels[(1 : CanIx)]).txb1 = .empty ∧ (d.channels[(1 : CanIx)]).txb2 = (c.channels[(1 : CanIx)]).txb2 := by
  intro d
  rw [chan_own]
  exact ⟨rfl, rfl⟩

theorem emptied_second (c : Can) : let d := c.channel 1 (fun k => k.setBuffer .txb2 .empty)
    (d.channels[(1 : CanIx)]).txb1 = (c.channels[(1 : CanIx)]).txb1 ∧ (d.channels[(1 : CanIx)]).txb2 = .empty := by
  intro d
  rw [chan_own]
  exact ⟨rfl, rfl⟩

/-- R496: an abort empties the buffers it names. -/
theorem abort_buffers (c : Can) (bits : Nat) :
    ((c.abort bits).channels[(1 : CanIx)]).txb1 = (if bitOf bits 1 = true then TxBuffer.empty else (c.channels[(1 : CanIx)]).txb1)
      ∧ ((c.abort bits).channels[(1 : CanIx)]).txb2 = (if bitOf bits 2 = true then TxBuffer.empty else (c.channels[(1 : CanIx)]).txb2) := by
  unfold Can.abort
  dsimp only
  cases bitOf bits 1 <;> cases bitOf bits 2
  case false.false => exact ⟨rfl, rfl⟩
  case false.true => exact emptied_second c
  case true.false => exact emptied_first c
  case true.true =>
    obtain ⟨hsame, hempty⟩ := emptied_second (c.channel 1 (fun k => k.setBuffer .txb1 .empty))
    exact ⟨hsame.trans (emptied_first c).1, hempty⟩

end

/-! ## The statement -/

/-- Settles O27: the channel's own occurrences by `onChannel_own`, transmission by `frameSent_can` and `latestStart_goes`, reception by
`canFrame_own` and `canFrame_filtered`, the application engine's accesses by `onOwnCan_owned`. -/
theorem canChannelsAndFrames : Obligations.CanChannelsAndFrames := by
  unfold Obligations.CanChannelsAndFrames
  refine ⟨fun s ch hp => ⟨fun hc ho => ⟨_, rfl, ?_⟩, fun ha => ⟨fun hb => ⟨_, rfl, ?_⟩, fun hb hr => ⟨_, rfl, ?_⟩, fun hi => ⟨_, rfl, ?_⟩,
      fun hi hb => ⟨fun h3 => ⟨_, rfl, ?_⟩, fun h1 => ⟨_, rfl, ?_⟩, fun h2 hs => ⟨_, rfl, ?_⟩,
        fun slot hs hn hl b hcy h0 h1 hd => ⟨_, rfl, ?_⟩⟩⟩, fun b hl => ⟨_, rfl, ?_⟩⟩,
    fun s ch hp => ⟨fun hrun hs hn => ⟨fun m hf hm => ⟨_, rfl, ?_⟩, fun hf => ⟨_, rfl, ?_⟩, fun hf => ⟨_, rfl, ?_⟩⟩,
      fun ready hg r => congrArg _ (frameSent_none hp hg r),
      fun ready b x rest hg hf => ⟨⟨_, rfl, ?_⟩, ⟨_, rfl, ?_⟩⟩,
      fun ha hi hb x => ⟨fun hr => ⟨_, rfl, ?_⟩, fun f hr hs h2 hf hq hl => ⟨_, rfl, ?_⟩, fun f hr hs h2 hf hq hl => ⟨_, rfl, ?_⟩⟩,
      ?_⟩⟩
  · have hserved : s.canServed ch = s.onChannel ch (fun k _ => (k.service s.cfg ch, [])) := if_pos hc
    rw [hserved, onChannel_own s ch _ hp]
    exact service_out _ s.cfg ch ho
  · rw [busOff_own hp ha hb, enterBusOff_out _ s.canEnv ch ha hb]
    exact ⟨rfl, rfl, rfl, rfl, rfl, rfl, rfl⟩
  · rw [onChannel_own s ch _ hp]
    exact recovered_is ha hb hr
  · rw [onChannel_own s ch _ hp]
    exact integrated_is ha hi
  · rw [onChannel_own s ch _ hp]
    exact cycleStart_free ha hi hb h3
  · rw [onChannel_own s ch _ hp]
    exact cycleStart_timed ha hi hb h1
  · rw [onChannel_own s ch _ hp]
    exact loseSync_out ha hi hb h2 hs
  · rw [loadSlot_can hp, loadSlot_out s.can s.canEnv ch slot.toNat _ rfl ha hi hb hs hn hl b hcy h0 h1 hd, chan_own]
    exact ⟨rfl, ⟨_, rfl, rfl⟩, rfl, rfl⟩
  · rw [onChannel_own s ch _ hp]
    exact swap_out hl
  · rw [latestStart_can hp, latestStart_goes s.can ch .txb0 _ rfl hf hn hs hrun]
    dsimp only
    rw [hm, object_channels, chan_own, object_own]
    exact ⟨rfl, rfl, rfl⟩
  · rw [latestStart_can hp, latestStart_goes s.can ch .txb1 _ rfl hf hn hs hrun]
    exact ⟨chan_own _ _ _, rfl⟩
  · rw [latestStart_can hp, latestStart_goes s.can ch .txb2 _ rfl hf hn hs hrun]
    exact ⟨chan_own _ _ _, rfl⟩
  · rw [frameSent_can hp hg]
    exact transmitted_out s.can s.canEnv ch b x rest hf
  · rw [frameSent_can hp hg]
    exact transmitted_lost s.can s.canEnv ch b
  · obtain ⟨hframes, hunmatched, hn⟩ := receive_remote (s.can.channels[ch]) s.canEnv ch x ha hi hb hr
    rw [canFrame_own s ch x hp hn]
    exact ⟨hframes, hunmatched⟩
  · obtain ⟨k, hframes, hfilters, hq0, hq1, hown⟩ := canFrame_filtered hp ha hi hb hr hs h2
    rw [hown, ← hframes, ← hfilters, ← hq0, ← hq1]
    exact filtered_first k s.canEnv ch x f hf hq (by rw [hq0]; exact hl)
  · obtain ⟨k, -, -, hq0, hq1, hown⟩ := canFrame_filtered hp ha hi hb hr hs h2
    rw [hown, ← hq0, ← hq1]
    exact filtered_full k s.canEnv ch x f hf hq (by rw [hq1]; exact hl)
  · rintro rfl hr
    refine ⟨fun ho => ⟨fun v h1 h2 hf => ⟨_, rfl, ?_⟩, fun v => ⟨_, rfl, ?_⟩, ⟨_, rfl, ?_⟩, ⟨_, rfl, ?_⟩, fun m v hd hc => ⟨_, rfl, ?_⟩⟩,
      fun ho v => ⟨_, rfl, ?_⟩⟩
    · unfold State.canRequest
      rw [onOwnCan_owned hr ho hp, request_first (by rw [bitOf_toNat]; exact h1) (by rw [bitOf_toNat]; exact h2) hf, chan_own]
      exact ⟨rfl, rfl⟩
    · unfold State.canAbort
      rw [onOwnCan_owned hr ho hp]
      obtain ⟨hb1, hb2⟩ := abort_buffers s.can v.toNat
      rw [hb1, hb2, bitOf_toNat, bitOf_toNat]
      exact ⟨fun h => if_pos h, fun h => if_neg (by rw [h]; decide), fun h => if_pos h, fun h => if_neg (by rw [h]; decide)⟩
    · unfold State.canPop
      rw [onOwnCan_owned hr ho hp, chan_own]
      exact ⟨rfl, rfl⟩
    · unfold State.canPop
      rw [onOwnCan_owned hr ho hp, chan_own]
      exact ⟨rfl, rfl⟩
    · have happ : s.cfg.appObject m = true := by unfold Cfg.appObject; rw [hd, hc]; rfl
      unfold State.canObjWord
      rw [onOwnCan_owned hr ho hp, if_pos happ, object_own]
      rfl
    · unfold State.canRequest
      rw [onOwnCan_foreign hr ho, violates_can, violates_app hr]
      exact ⟨rfl, rfl, rfl⟩

end Sys2Proof.Machine
end

section
/-!
Flushes of the recorder, incidents that are complete and erases that end (R509 to R516, R526).
-/

namespace Sys2Proof.Machine

section
variable {s : State}

theorem beginFlush_idle {r : Recorder} (h : r.flush = none) : r.beginFlush.due = false ∧ r.beginFlush.staged = r.staged
    ∧ r.beginFlush.log = r.log ∧ r.beginFlush.flush = some { rseq := r.nextRseq, iseq := r.nextIseq, further := false } := by
  unfold Recorder.beginFlush
  rw [h]
  exact ⟨rfl, rfl, rfl, rfl⟩

theorem beginFlush_again {r : Recorder} {f : Flush} (h : r.flush = some f) :
    r.beginFlush.flush = some { f with further := true } := by
  unfold Recorder.beginFlush
  rw [h]

theorem flushStarts_log (hc : s.commsRuns = true) (hp : s.power.on 7 = true) : s.flushStarts.log = s.log.beginFlush :=
  congrArg State.log (if_pos (by rw [hc, hp]; rfl))

/-- R513: of the recorder's part the replies and the entry that waited leave everything. -/
theorem flushEnds_log (hc : s.commsRuns = true) (hp : s.power.on 7 = true) {f : Flush} (hf : s.log.flush = some f) (us : Nat) :
    (s.flushEnds us).log = (s.log.endFlush s.now us).1 := by
  unfold State.flushEnds
  rw [if_pos (by rw [hc, hp, hf]; rfl), entryChecks_log, flushDone_log, takeLog_log]

theorem trigger_idle {r : Recorder} (h : r.flush = none) : r.trigger = { r with due := true } := by
  unfold Recorder.trigger
  split
  · rename_i f hf
    cases h.symm.trans hf
  · rfl

/-- R516: without hold-up the records staged call for a flush at once. -/
theorem flushRecord_due (hp : s.power.on 7 = true) (hn : s.power.noHoldup = true) (hf : s.log.flush = none)
    (hs : s.log.staged ≠ [] ∨ s.log.stagedInc ≠ []) : s.flushRecord.log = { s.log with due := true } := by
  have hany : (!s.log.staged.isEmpty || !s.log.stagedInc.isEmpty) = true := by
    rcases hs with h | h <;> simp [h]
  unfold State.flushRecord State.flushEach
  rw [if_pos (by rw [hn, hp, hany]; rfl)]
  exact trigger_idle hf

theorem incidentEnds_log (hp : s.power.on 7 = true) (slot : Fin 9) :
    (s.incidentEnds slot).log = (s.log.complete s.now s.free slot).1 := by
  unfold State.incidentEnds
  rw [if_pos hp]
  exact takeLog_log s _

/-- R526: what the end of an erase leaves of the recorder. -/
theorem eraseDone_log {e : Erase} (he : s.log.erase = some e) :
    s.eraseDone.log = { s.log with erase := none, due := s.log.due || !s.log.stagedInc.isEmpty } := by
  unfold State.eraseDone
  rw [he]
  exact (State.complete_keeps (Within.refl _) (Keeps.refl _ _) _ _ _ _).only .log (by decide)

/-- R526: the operation of an erase ends with the number erased, the first ISEQ left and the time taken. -/
theorem eraseDone_op {e : Erase} (he : s.log.erase = some e) {o : Operation}
    (ho : s.fcp.ops.find? (fun o => o.handle == e.handle && o.state == .running) = some o) :
    ∃ p ∈ s.eraseDone.fcp.ops, p.handle = e.handle ∧ p.state = .complete ∧ p.status = stDone
      ∧ p.result = le 4 e.erased ++ le 4 s.log.firstIseq ++ le 4 (satTo 32 ((s.mono - e.since) / 1000)) := by
  unfold State.eraseDone
  rw [he]
  obtain ⟨p, hp, hhandle, hstate, hstatus, -, hresult⟩ := complete_out
    { s with log := { s.log with erase := none, due := s.log.due || !s.log.stagedInc.isEmpty } } e.handle stDone 0
    (le 4 e.erased ++ le 4 s.log.firstIseq ++ le 4 (satTo 32 ((s.mono - e.since) / 1000))) o ho
  exact ⟨p, hp, hhandle, hstate, hstatus, hresult⟩

end

/-- Settles O30: a flush by `beginFlush_idle`, `beginFlush_again` and `endFlush_out`, an incident by `complete_inc`, an erase by
`eraseDone_log` and `eraseDone_op`. -/
theorem recorderFlushes : Obligations.RecorderFlushes := by
  unfold Obligations.RecorderFlushes
  refine fun s => ⟨fun hc hp => ⟨fun hf => ⟨_, rfl, ?_⟩, fun f hf => ⟨⟨_, rfl, ?_⟩, fun us => ⟨_, rfl, ?_⟩⟩⟩,
    fun hp => ⟨fun hn hf hs => ⟨_, rfl, ?_⟩, fun slot i hi hl hb => ⟨_, rfl, ?_⟩⟩,
    fun e he => ⟨_, rfl, ?_⟩⟩
  · rw [flushStarts_log hc hp]
    exact beginFlush_idle hf
  · rw [flushStarts_log hc hp]
    exact beginFlush_again hf
  · rw [flushEnds_log hc hp hf]
    exact endFlush_out s.log s.now us f hf _ rfl
  · rw [flushRecord_due hp hn hf hs]
    exact ⟨rfl, rfl⟩
  · rw [incidentEnds_log hp]
    exact complete_inc s.log s.now s.free slot i hi hl hb _ rfl
  · rw [eraseDone_log he]
    exact ⟨rfl, rfl, rfl, fun o ho => eraseDone_op he ho⟩

end Sys2Proof.Machine
end

section
/-!
LOG_ACK, INCIDENT_ERASE and POWER_ENTER: what each refuses, what it answers and what it starts (R519 to R526 and R537 to
R541). Each is answered from the state that the session's packet was admitted in, so a lemma per outcome says what the
command's own rule does there, and the obligation reads them off.
-/

namespace Sys2Proof.Machine

section
variable {s : State} {h : Hdr} {i : SessIx}

/-! ## LOG_ACK (R519 to R521) -/

theorem logAck_beyond {p : List Byte} {upTo : Nat} (hb : s.log.nextRseq < upTo) :
    (Req.logAck p upTo).act h i (s.admitted h i) = (s.admitted h i).answers (Answer.refused 0x80) := if_pos hb

theorem logAck_takes {p : List Byte} {upTo : Nat} (hb : upTo ≤ s.log.nextRseq) :
    (Req.logAck p upTo).act h i (s.admitted h i)
      = ((s.admitted h i).takeLog (s.log.ack s.cfg s.now upTo)).answers
          (Answer.done (s.log.ack s.cfg s.now upTo).1.ackPayload) := by
  refine (if_neg (Nat.not_lt.mpr hb)).trans ?_
  show State.answers _ (Answer.done (State.takeLog _ _).log.ackPayload) = _
  rw [takeLog_log]
  rfl

theorem takeLog_same (u : State) : u.takeLog (u.log, []) = u := rfl

theorem logAck_behind {p : List Byte} {upTo : Nat} (hb : upTo ≤ s.log.nextRseq) (hl : upTo ≤ s.log.ackRseq) :
    (Req.logAck p upTo).act h i (s.admitted h i) = (s.admitted h i).answers (Answer.done s.log.ackPayload) := by
  rw [logAck_takes hb, ack_skips _ _ _ _ hl]
  exact congrArg (fun u => State.answers u _) (takeLog_same _)

/-- A LOG_ACK that releases records leaves the log as the recorder's own rule gives it. -/
theorem logAck_releases {p : List Byte} {upTo : Nat} (k : s.Admits h i (Req.logAck p upTo)) (hb : upTo ≤ s.log.nextRseq) :
    (s.receive h (Req.logAck p upTo)).Answered i h (Req.logAck p upTo)
        (Answer.done (s.log.ack s.cfg s.now upTo).1.ackPayload)
      ∧ (s.receive h (Req.logAck p upTo)).log = (s.log.ack s.cfg s.now upTo).1 := by
  obtain ⟨hans, _, _, hr, _⟩ := stored_only k nofun (logAck_takes hb)
  exact ⟨hans, by rw [hr]; exact takeLog_log _ _⟩

/-! ## INCIDENT_ERASE (R525, R526) -/

theorem eraseRefusal_count {r : Recorder} {upTo confirm : Nat} (hc : confirm ≠ r.journal.length) :
    r.eraseRefusal upTo confirm = some 0x83 := if_pos hc

theorem eraseRefusal_beyond {r : Recorder} {upTo confirm : Nat} (hc : confirm = r.journal.length) (hn : r.nextIseq < upTo)
    (hall : upTo ≠ 0xFFFFFFFF) : r.eraseRefusal upTo confirm = some 0x81 :=
  (if_neg (Classical.not_not.mpr hc)).trans (if_pos ⟨hn, hall⟩)

theorem eraseRefusal_none {r : Recorder} {upTo confirm : Nat} (hc : confirm = r.journal.length)
    (hn : upTo ≤ r.nextIseq ∨ upTo = 0xFFFFFFFF) : r.eraseRefusal upTo confirm = none := by
  refine (if_neg (Classical.not_not.mpr hc)).trans (if_neg ?_)
  rintro ⟨hlt, hall⟩
  exact hn.elim (by omega) hall

theorem incidentErase_refused {p : List Byte} {upTo confirm x : Nat} (hx : s.log.eraseRefusal upTo confirm = some x) :
    (Req.incidentErase p upTo confirm).act h i (s.admitted h i) = (s.admitted h i).answers (Answer.refused x) := by
  change (match s.log.eraseRefusal upTo confirm with
    | some x => (s.admitted h i).answers (Answer.refused x)
    | none => _) = _
  rw [hx]

theorem incidentErase_goes {p : List Byte} {upTo confirm : Nat} (hx : s.log.eraseRefusal upTo confirm = none) :
    (Req.incidentErase p upTo confirm).act h i (s.admitted h i)
      = if s.log.erase.isSome then (s.admitted h i).answers (Answer.busy 0x4A)
        else (s.admitted h i).accepts i 0x0605 .incidentErase noDoors
          (fun n t => t.takeLog (t.log.startErase t.now t.mono upTo n)) := by
  change (match s.log.eraseRefusal upTo confirm with
    | some x => (s.admitted h i).answers (Answer.refused x)
    | none => _) = _
  rw [hx]
  rfl

/-- An INCIDENT_ERASE that is accepted has taken its effect (log entry 46). -/
theorem incidentErase_starts {p : List Byte} {upTo confirm : Nat} (k : s.Admits h i (Req.incidentErase p upTo confirm))
    (hx : s.log.eraseRefusal upTo confirm = none) (he : s.log.erase = none) (hf : s.exhausted i = false) :
    (s.receive h (Req.incidentErase p upTo confirm)).Answered i h (Req.incidentErase p upTo confirm)
        (Answer.accepted s.fcp.nextHandle)
      ∧ (s.receive h (Req.incidentErase p upTo confirm)).log = (s.log.startErase s.now s.mono upTo s.fcp.nextHandle).1 := by
  have hact := (incidentErase_goes (h := h) (i := i) (p := p) hx).trans (if_neg (by rw [he]; decide))
  obtain ⟨v, hv, hr, _, hans⟩ := accepts_next k nofun hact hf
  refine ⟨hans (takeLog_hush _ _), ?_⟩
  rw [hr, hv]
  exact takeLog_log _ _

/-! ## POWER_ENTER (R537 to R541) -/

theorem powerEnter_hosted {m : PwrMode} {wakeAt : BitVec 64} {c : Instr} {n : Nat}
    (hc : (m = .stable ∧ n = 1 ∧ c = .powerEnterStable h wakeAt) ∨ (m = .hibernate ∧ n = 2 ∧ c = .powerEnterHibernate h wakeAt)) :
    hosted c = some (h, Req.powerEnter (enterParams n wakeAt.toNat) n wakeAt.toNat) ∧ entryTarget n = m := by
  obtain ⟨rfl, rfl, rfl⟩ | ⟨rfl, rfl, rfl⟩ := hc <;> exact ⟨rfl, rfl⟩

section
variable {p : List Byte} {n wakeAt : Nat}

theorem powerEnter_busy (he : s.power.entry ≠ none) :
    (Req.powerEnter p n wakeAt).act h i (s.admitted h i) = (s.admitted h i).answers (Answer.busy 0x4A) :=
  if_pos (Option.isSome_iff_ne_none.mpr he)

theorem powerEnter_idle (he : s.power.entry = none) :
    (Req.powerEnter p n wakeAt).act h i (s.admitted h i)
      = match s.lowestRefuser (entryTarget n) wakeAt with
        | some r => ((s.admitted h i).onPower (fun p => p.refuse s.now r)).answers { Answer.refused 0x50 with payload := le 1 r }
        | none => (s.admitted h i).accepts i 0x0701 .powerEnter noDoors (fun a t => t.entryStarts i (entryTarget n) wakeAt a) :=
  if_neg (by rw [show (s.admitted h i).power.entry = none from he]; decide)

theorem powerEnter_refused {r : Nat} (k : s.Admits h i (Req.powerEnter p n wakeAt)) (he : s.power.entry = none)
    (hl : s.lowestRefuser (entryTarget n) wakeAt = some r) :
    (s.receive h (Req.powerEnter p n wakeAt)).Answered i h (Req.powerEnter p n wakeAt)
        { Answer.refused 0x50 with payload := le 1 r }
      ∧ (s.receive h (Req.powerEnter p n wakeAt)).power = s.power.refuse s.now r := by
  have hact := powerEnter_idle (h := h) (i := i) (p := p) (n := n) (wakeAt := wakeAt) he
  rw [hl] at hact
  obtain ⟨hans, _, _, hr, _⟩ := stored_only k nofun hact
  exact ⟨hans, by rw [hr]; rfl⟩

theorem powerEnter_accepts (he : s.power.entry = none) (hl : s.lowestRefuser (entryTarget n) wakeAt = none) :
    (Req.powerEnter p n wakeAt).act h i (s.admitted h i)
      = (s.admitted h i).accepts i 0x0701 .powerEnter noDoors (fun a t => t.entryStarts i (entryTarget n) wakeAt a) := by
  rw [powerEnter_idle he, hl]

theorem powerEnter_starts (k : s.Admits h i (Req.powerEnter p n wakeAt)) (he : s.power.entry = none)
    (hl : s.lowestRefuser (entryTarget n) wakeAt = none) (hf : s.exhausted i = false) :
    (s.receive h (Req.powerEnter p n wakeAt)).Answered i h (Req.powerEnter p n wakeAt) (Answer.accepted s.fcp.nextHandle)
      ∧ (s.receive h (Req.powerEnter p n wakeAt)).power = { s.power with wakeAt := wakeAt, latched := 0, entry := some {
          handle := s.fcp.nextHandle, session := i, target := entryTarget n, started := s.mono
          appRan := s.engines.app.state == .running, aborted := false } } := by
  obtain ⟨v, hv, hr, _, hans⟩ := accepts_next k nofun (powerEnter_accepts he hl) hf
  obtain ⟨hpower, hhush⟩ := entryStarts_out v i (entryTarget n) wakeAt s.fcp.nextHandle
  refine ⟨hans hhush, ?_⟩
  rw [hr]
  refine hpower.trans ?_
  rw [hv]

end
end

/-- Settles O44: each command answers from the state its packet was admitted in, and its lemma above gives the outcome. -/
theorem recordsAndPowerModesAreCommanded : Obligations.RecordsAndPowerModesAreCommanded := by
  unfold Obligations.RecordsAndPowerModesAreCommanded
  intro s h i q k
  refine ⟨fun upTo hq => ?_, fun upTo confirm hq => ?_, fun m wakeAt c n hc hq => ?_⟩
  · subst hq
    have hexec := hosted_exec (c := .logAck h upTo) rfl s
    refine ⟨fun hb => hosted_reads rfl k nofun (logAck_beyond hb), fun hb hl => hosted_reads rfl k nofun (logAck_behind hb hl),
      fun hb hl => ?_⟩
    obtain ⟨hans, hlog⟩ := logAck_releases k hb
    obtain ⟨hack, hacks, hgoes, hrestarts⟩ := ack_moves s.log s.cfg s.now upTo.toNat hl
    refine ⟨_, hexec, ?_⟩
    rw [hlog]
    refine ⟨?_, hack, hacks, hgoes, hrestarts⟩
    rwa [Recorder.ackPayload, hack] at hans
  · subst hq
    have hexec := hosted_exec (c := .incidentErase h upTo confirm) rfl s
    refine ⟨fun hc => hosted_reads rfl k nofun (incidentErase_refused (eraseRefusal_count hc)),
      fun hc hn hall => hosted_reads rfl k nofun (incidentErase_refused (eraseRefusal_beyond hc hn hall)), fun hc hn => ?_⟩
    have hx := eraseRefusal_none hc hn
    have hact := incidentErase_goes (s := s) (h := h) (i := i) (p := le 4 upTo.toNat ++ le 4 confirm.toNat) hx
    refine ⟨fun he => ?_, fun he hf => ?_, fun he hf => ?_⟩
    · exact hosted_reads rfl k nofun (hact.trans (if_pos (Option.isSome_iff_ne_none.mpr he)))
    · obtain ⟨hans, hun⟩ := accepts_busy k nofun (hact.trans (if_neg (by rw [he]; decide))) hf
      exact ⟨_, hexec, hun, hans⟩
    · obtain ⟨hans, hlog⟩ := incidentErase_starts k hx he hf
      refine ⟨_, hexec, hans, ?_⟩
      rw [hlog]
      exact ⟨rfl, rfl, rfl, rfl⟩
  · obtain ⟨hh, hm⟩ := powerEnter_hosted hc
    subst hq hm
    have hexec := hosted_exec hh s
    refine ⟨fun he => hosted_reads hh k nofun (powerEnter_busy he), fun r he hl => ?_, fun he hl hf => ?_, fun he hl hf => ?_⟩
    · obtain ⟨hans, hpower⟩ := powerEnter_refused k he hl
      exact ⟨_, hexec, hans, hpower⟩
    · obtain ⟨hans, hun⟩ := accepts_busy k nofun (powerEnter_accepts he hl) hf
      exact ⟨_, hexec, hun, hans⟩
    · obtain ⟨hans, hpower⟩ := powerEnter_starts k he hl hf
      exact ⟨_, hexec, hans, hpower⟩

end Sys2Proof.Machine
end

section
/-!
FW_STAGE and FW_ACTIVATE: the block that joins the inactive bank, what the last block must leave there, and the
activation that starts or is refused (R606 and R609 to R611). Signature and version of an image are opaque (log entry 62).
-/

namespace Sys2Proof.Machine

section
variable {s : State} {h : Hdr} {i : SessIx}

/-- A command answered at once from a state whose firmware part is known leaves that firmware part. -/
theorem stored_fw {q : Req} {u : State} {f : Firmware} {a : Answer} (k : s.Admits h i q) (ho : q.opcode ≠ 0x0101)
    (hact : q.act h i (s.admitted h i) = u.answers a) (hf : u.service.fw = f) :
    (s.receive h q).Answered i h q a ∧ (s.receive h q).service.fw = f := by
  obtain ⟨hans, _, _, hr, _⟩ := stored_only k ho hact
  exact ⟨hans, by rw [hr]; exact hf⟩

/-! ## FW_STAGE (R609) -/

section
variable {p : List Byte} {offset flags : Nat} {block : List Byte}

theorem fwStage_refused {r : Nat}
    (hx : s.service.fw.stageRefusal i s.mono offset block.length (bitOf flags 0) = some r) :
    (Req.fwStage p offset flags block).act h i (s.admitted h i) = (s.admitted h i).answers (Answer.refused r) :=
  fwStage_act p offset flags block h i (s.admitted h i) _ hx

theorem fwStage_busy (hx : s.service.fw.stageRefusal i s.mono offset block.length (bitOf flags 0) = none)
    (ha : s.service.fw.activation ≠ none) :
    (Req.fwStage p offset flags block).act h i (s.admitted h i) = (s.admitted h i).answers (Answer.busy 0x4A) :=
  (fwStage_act p offset flags block h i (s.admitted h i) _ hx).trans (if_pos (Option.isSome_iff_ne_none.mpr ha))

theorem fwStage_takes (hx : s.service.fw.stageRefusal i s.mono offset block.length (bitOf flags 0) = none)
    (ha : s.service.fw.activation = none) :
    (Req.fwStage p offset flags block).act h i (s.admitted h i)
      = if bitOf flags 1 then ((s.admitted h i).onFw (fun f => f.stage i s.mono (bitOf flags 0) block)).stageLast
        else ((s.admitted h i).onFw (fun f => f.stage i s.mono (bitOf flags 0) block)).answers
          (Answer.done (le 4 (s.service.fw.stage i s.mono (bitOf flags 0) block).stagedBytes)) := by
  refine (fwStage_act p offset flags block h i (s.admitted h i) _ hx).trans (if_neg ?_)
  rw [show (s.admitted h i).service.fw.activation = none from ha]
  decide

/-- The firmware after a block that is not the last. -/
theorem fwStage_joins (k : s.Admits h i (Req.fwStage p offset flags block))
    (hx : s.service.fw.stageRefusal i s.mono offset block.length (bitOf flags 0) = none)
    (ha : s.service.fw.activation = none) (hlast : bitOf flags 1 = false) :
    (s.receive h (Req.fwStage p offset flags block)).Answered i h (Req.fwStage p offset flags block)
        (Answer.done (le 4 (s.service.fw.stage i s.mono (bitOf flags 0) block).stagedBytes))
      ∧ (s.receive h (Req.fwStage p offset flags block)).service.fw = s.service.fw.stage i s.mono (bitOf flags 0) block :=
  stored_fw k nofun ((fwStage_takes hx ha).trans (if_neg (by rw [hlast]; decide))) rfl

theorem fwStage_last (hx : s.service.fw.stageRefusal i s.mono offset block.length (bitOf flags 0) = none)
    (ha : s.service.fw.activation = none) (hlast : bitOf flags 1 = true) :
    (Req.fwStage p offset flags block).act h i (s.admitted h i)
      = ((s.admitted h i).onFw (fun f => f.stage i s.mono (bitOf flags 0) block)).stageLast :=
  (fwStage_takes hx ha).trans (if_pos hlast)

/-- A last block whose image does not pass is refused and stays staged. -/
theorem fwStage_fails {r : Nat} (k : s.Admits h i (Req.fwStage p offset flags block))
    (hx : s.service.fw.stageRefusal i s.mono offset block.length (bitOf flags 0) = none)
    (ha : s.service.fw.activation = none) (hlast : bitOf flags 1 = true)
    (hc : (s.service.fw.stage i s.mono (bitOf flags 0) block).check.2 = some r) :
    (s.receive h (Req.fwStage p offset flags block)).Answered i h (Req.fwStage p offset flags block) (Answer.refused r)
      ∧ (s.receive h (Req.fwStage p offset flags block)).service.fw = s.service.fw.stage i s.mono (bitOf flags 0) block :=
  stored_fw k nofun ((fwStage_last hx ha hlast).trans ((stageLast_is _ _ rfl).1 r hc)) rfl

/-- A last block whose image passes marks the bank staged. -/
theorem fwStage_passes (k : s.Admits h i (Req.fwStage p offset flags block))
    (hx : s.service.fw.stageRefusal i s.mono offset block.length (bitOf flags 0) = none)
    (ha : s.service.fw.activation = none) (hlast : bitOf flags 1 = true)
    (hc : (s.service.fw.stage i s.mono (bitOf flags 0) block).check.2 = none) :
    (s.receive h (Req.fwStage p offset flags block)).Answered i h (Req.fwStage p offset flags block)
        (Answer.done (le 4 (s.service.fw.stage i s.mono (bitOf flags 0) block).check.1.stagedBytes))
      ∧ (s.receive h (Req.fwStage p offset flags block)).service.fw
        = (s.service.fw.stage i s.mono (bitOf flags 0) block).check.1 := by
  obtain ⟨v, hv, hl⟩ := (stageLast_is ((s.admitted h i).onFw (fun f => f.stage i s.mono (bitOf flags 0) block)) _ rfl).2 hc
  exact stored_fw k nofun ((fwStage_last hx ha hlast).trans hl) hv

end

/-! ## FW_ACTIVATE (R611) -/

theorem activateRefusal_live (s : State) (flags : Nat) : s.activateRefusal 0 flags =
    (if s.service.fw.staged = false then some 0x63
      else if fwMajor s.service.fw.stagedVersion ≠ fwMajor s.service.fw.version then some 0x64
      else if s.config.inForce = true ∧ compatible s.config.image s.service.fw.stagedVersion = false then some 0x62
      else none) := by
  simp [State.activateRefusal]

theorem activateRefusal_restart (s : State) (flags : Nat) : s.activateRefusal 1 flags =
    (if s.service.fw.staged = false then some 0x63
      else if s.config.inForce = true ∧ compatible s.config.image s.service.fw.stagedVersion = false ∧ bitOf flags 0 = false
        then some 0x62
      else none) := by
  simp [State.activateRefusal]

section
variable {p : List Byte} {mode flags : Nat}

theorem fwActivate_refused {r : Nat} (hx : s.activateRefusal mode flags = some r) :
    (Req.fwActivate p mode flags).act h i (s.admitted h i) = (s.admitted h i).answers (Answer.refused r) := by
  change (match s.activateRefusal mode flags with
    | some x => (s.admitted h i).answers (Answer.refused x)
    | none => _) = _
  rw [hx]

/-- What FW_ACTIVATE does when nothing refuses it. -/
theorem fwActivate_goes (hx : s.activateRefusal mode flags = none) :
    (Req.fwActivate p mode flags).act h i (s.admitted h i)
      = if s.config.commit.isSome || s.manualSub || s.power.entry.isSome || s.service.fw.activation.isSome then
          (s.admitted h i).answers (Answer.busy 0x4A)
        else (s.admitted h i).accepts i 0x0802 .fwActivate noDoors (fun n t => t.onFw (fun f => { f with
          activation := some ({ handle := n, session := i, live := decide (mode = 0), started := t.mono, updated := []
                                current := none, rolling := none } : Activation) })) := by
  change (match s.activateRefusal mode flags with
    | some x => (s.admitted h i).answers (Answer.refused x)
    | none => _) = _
  rw [hx]
  rfl

theorem fwActivate_busy (hx : s.activateRefusal mode flags = none)
    (hb : s.config.commit ≠ none ∨ s.manualSub = true ∨ s.power.entry ≠ none ∨ s.service.fw.activation ≠ none) :
    (Req.fwActivate p mode flags).act h i (s.admitted h i) = (s.admitted h i).answers (Answer.busy 0x4A) := by
  refine (fwActivate_goes hx).trans (if_pos ?_)
  simpa [Option.isSome_iff_ne_none, or_assoc] using hb

theorem fwActivate_accepts (hx : s.activateRefusal mode flags = none) (hc : s.config.commit = none) (hm : s.manualSub = false)
    (he : s.power.entry = none) (ha : s.service.fw.activation = none) :
    (Req.fwActivate p mode flags).act h i (s.admitted h i)
      = (s.admitted h i).accepts i 0x0802 .fwActivate noDoors (fun n t => t.onFw (fun f => { f with
          activation := some ({ handle := n, session := i, live := decide (mode = 0), started := t.mono, updated := []
                                current := none, rolling := none } : Activation) })) :=
  (fwActivate_goes hx).trans (if_neg (by simp [hc, hm, he, ha]))

/-- An accepted FW_ACTIVATE leaves its activation, with no engine taken. -/
theorem fwActivate_starts (k : s.Admits h i (Req.fwActivate p mode flags)) (hx : s.activateRefusal mode flags = none)
    (hc : s.config.commit = none) (hm : s.manualSub = false) (he : s.power.entry = none)
    (ha : s.service.fw.activation = none) (hf : s.exhausted i = false) :
    (s.receive h (Req.fwActivate p mode flags)).Answered i h (Req.fwActivate p mode flags) (Answer.accepted s.fcp.nextHandle)
      ∧ (s.receive h (Req.fwActivate p mode flags)).service.fw = { s.service.fw with activation := some {
          handle := s.fcp.nextHandle, session := i, live := decide (mode = 0), started := s.mono, updated := []
          current := none, rolling := none } } := by
  obtain ⟨v, hv, hr, _, hans⟩ := accepts_next k nofun (fwActivate_accepts hx hc hm he ha) hf
  refine ⟨hans (.of_fcp rfl), ?_⟩
  rw [hr, hv]
  rfl

end
end

/-- Settles O45: FW_STAGE by what `stage` and `check` leave in the bank, FW_ACTIVATE by its refusals in order. -/
theorem firmwareIsStagedAndActivated : Obligations.FirmwareIsStagedAndActivated := by
  unfold Obligations.FirmwareIsStagedAndActivated
  intro s h i q k
  refine ⟨fun offset flags block x bytes hq hx hbytes => ?_, fun live flags c x hq hc hx => ?_⟩
  · subst hq hx
    have hexec := hosted_exec (c := .fwStage h offset flags block) rfl s
    refine ⟨fun r hr => hosted_reads rfl k nofun (fwStage_refused hr),
      fun hn ha => hosted_reads rfl k nofun (fwStage_busy hn ha), fun hn ha => ⟨_, hexec, ?_⟩⟩
    obtain ⟨hstage, hcount, hstager, hactive, hstaged, hfloor⟩ :=
      stage_out s.service.fw i s.mono (bitOf flags.toNat 0) block bytes hbytes
    have hother : (s.service.fw.stage i s.mono (bitOf flags.toNat 0) block).other = s.service.fw.other := by
      rw [Firmware.other, hactive]; rfl
    obtain ⟨hunsigned, hold, hgood⟩ := check_out _ _ hother bytes hstage
    rw [hfloor] at hold hgood
    cases hlast : bitOf flags.toNat 1 with
    | false =>
      obtain ⟨hans, hfw⟩ := fwStage_joins k hn ha hlast
      rw [hcount] at hans
      rw [hfw]
      exact ⟨hstage, hcount, hstager, hactive, fun _ => ⟨hans, hstaged⟩, nofun, nofun, nofun⟩
    | true =>
      by_cases hsig : bytes.length < 256 ∨ Config.firmwareSigned bytes = false
      · obtain ⟨hans, hfw⟩ := fwStage_fails k hn ha hlast (congrArg Prod.snd (hunsigned hsig))
        rw [hfw]
        refine ⟨hstage, hcount, hstager, hactive, nofun, fun _ _ => hans, fun _ hl hs => ?_, fun _ hl hs => ?_⟩ <;>
          exact absurd hsig (by simp [hs, Nat.not_lt.mpr hl])
      · obtain ⟨hlen, hsigned⟩ : 256 ≤ bytes.length ∧ Config.firmwareSigned bytes = true := by simpa using hsig
        by_cases hver : (Config.firmwareVersion bytes).toNat < s.service.fw.floor
        · obtain ⟨hans, hfw⟩ := fwStage_fails k hn ha hlast (congrArg Prod.snd (hold hlen hsigned hver))
          rw [hfw]
          exact ⟨hstage, hcount, hstager, hactive, nofun, fun _ hb => absurd hb hsig, fun _ _ _ _ => hans,
            fun _ _ _ hf => absurd hver (Nat.not_lt.mpr hf)⟩
        · obtain ⟨hpass, hc1, hc2, hc3, hc4, hc5, hc6, hc7⟩ := hgood hlen hsigned (Nat.not_lt.mp hver)
          obtain ⟨hans, hfw⟩ := fwStage_passes k hn ha hlast hpass
          rw [hc5, hcount] at hans
          rw [hfw]
          exact ⟨hc3, hc5.trans hcount, hc6.trans hstager, hc7.trans hactive, nofun, fun _ hb => absurd hb hsig,
            fun _ _ _ hv => absurd hv hver, fun _ _ _ _ => ⟨hans, hc1, hc2, hc4⟩⟩
  · have hh : hosted c = some (h, q) := by subst hc hq; cases live <;> rfl
    have hx' : s.activateRefusal (if live then 0 else 1) flags.toNat = x := by
      cases live with
      | true => rw [hx, if_pos rfl, activateRefusal_live]; simp
      | false => rw [hx, if_neg (by decide), activateRefusal_restart]; simp
    have hmode : decide ((if live then 0 else 1) = 0) = live := by cases live <;> rfl
    have hexec := hosted_exec hh s
    subst hq
    refine ⟨fun r hr => hosted_reads hh k nofun (fwActivate_refused (hx'.trans hr)),
      fun hn hb => hosted_reads hh k nofun (fwActivate_busy (hx'.trans hn) hb), fun hn hcm hm he ha => ⟨fun hf => ?_, fun hf => ?_⟩⟩
    · obtain ⟨hans, hun⟩ := accepts_busy k nofun (fwActivate_accepts (hx'.trans hn) hcm hm he ha) hf
      exact ⟨_, hexec, hun, hans⟩
    · obtain ⟨hans, hfw⟩ := fwActivate_starts k (hx'.trans hn) hcm hm he ha hf
      rw [hmode] at hfw
      exact ⟨_, hexec, hans, hfw⟩

end Sys2Proof.Machine
end

section
/-!
The application engine while its application runs: watchdog, exceptions, timers and accesses outside its rights (R574,
R577, R578 and R583); and the interrupt controller of every engine: completion, GROUP_WIDTH and delivery (R588 to R592).
-/

namespace Sys2Proof.Machine

/-! ## The application engine -/

section
variable {s : State}

theorem appHalf_app (hr : s.appRuns = true) (hw : s.cfg.appWdTime ≠ 0) :
    s.appHalf.engines.app = { s.engines.app with wdHalf := true } :=
  (congrArg (fun t => State.engines t |>.app) (if_neg hw)).trans (onApp_app s _ hr)

/-- What an end of the running application with a cause other than 0 leaves of the engines. -/
theorem appEnds_faulted {c : Nat} (hr : s.appRuns = true) (hc : c ≠ 0) :
    (s.appEnds c).engines = { s.engines with app := { s.engines.app with
      state := .faulted, cause := c, wdHalf := false, faults := satInc 16 s.engines.app.faults } } :=
  (appEnds_engines s c (appRuns_state hr)).trans (appEnd_app _ _ _ (appRuns_state hr) hc)

theorem appExpires_engines (hr : s.appRuns = true) (hw : s.cfg.appWdTime ≠ 0) :
    s.appExpires.engines = { s.engines with
      expiries := s.engines.expiries.set 11 (satInc 16 s.engines.expiries[11])
      app := { s.engines.app with state := .faulted, cause := 1, wdHalf := false, faults := satInc 16 s.engines.app.faults } } := by
  have hgoes : s.appExpires = (s.onEngines (fun g => g.expired 11)).appEnds 1 := if_neg (by simp [hr, hw])
  rw [hgoes]
  exact appEnds_faulted hr (by decide)

theorem appExcepts_engines (hr : s.appRuns = true) :
    s.appExcepts.engines = { s.engines with app := { s.engines.app with
      state := .faulted, cause := 3, wdHalf := false, faults := satInc 16 s.engines.app.faults } } :=
  (congrArg State.engines (if_pos hr)).trans (appEnds_faulted hr (by decide))

/-- A write to TMR_WD_KICK reaches the timer block, whatever is written. -/
theorem writeRegister_kick (hr : s.appRuns = true) (v : BitVec 32) : s.writeRegister 0x40001008 4 v = s.kick := by
  simp [State.writeRegister, State.writeTimer, hr]

/-! ## Its timers (R577) -/

theorem timerControl_timers (hr : s.appRuns = true) (k : Fin 4) (v : BitVec 32) :
    (s.timerControl k v).engines.app.timers = s.engines.app.timers.set k (s.engines.app.timers[k].control s.mono v) :=
  congrArg App.timers (onApp_app s _ hr)

theorem timerControl_mono (k : Fin 4) (v : BitVec 32) : (s.timerControl k v).mono = s.mono := by
  unfold State.timerControl State.onApp
  split <;> rfl

theorem timerExpires_is (hp : s.power.on 4 = true) (k : Fin 4) : s.timerExpires k = s.onEngines (fun g => g.onApp (fun a =>
    { a with timers := a.timers.set k (a.timers[k].expire s.mono) })) := if_pos hp

theorem AppTimer.control_out (x : AppTimer) (mono : Nat) (v : BitVec 32) :
    (x.control mono v).en = v.getLsbD 0 ∧ (x.control mono v).periodic = v.getLsbD 1
      ∧ (x.control mono v).fired = (x.fired && !v.getLsbD 2)
      ∧ (v.getLsbD 0 = true → x.en = false → (x.control mono v).count mono = max 1 x.load)
      ∧ (x.en = true → (x.control mono v).span = x.span) := by
  unfold AppTimer.control
  cases hv : v.getLsbD 0 <;> cases he : x.en <;> simp [AppTimer.count, AppTimer.period]

theorem AppTimer.expire_out {x : AppTimer} (mono : Nat) (he : x.en = true) :
    (x.expire mono).fired = true ∧ (x.expire mono).en = x.periodic
      ∧ (x.periodic = true → (x.expire mono).count mono = max 1 x.load) := by
  unfold AppTimer.expire
  cases hp : x.periodic <;> simp [he, AppTimer.count, AppTimer.period]

end

/-- Settles O23: each occurrence is a change of the running application's engine, given by its lemma above. -/
theorem applicationEngine : Obligations.ApplicationEngine := by
  unfold Obligations.ApplicationEngine
  intro s hr
  refine ⟨fun hw => ⟨⟨_, rfl, appHalf_app hr hw⟩, _, rfl, ?_⟩, ⟨_, rfl, ?_⟩, ⟨_, rfl, onApp_app s _ hr⟩, fun v => ⟨_, rfl, ?_⟩,
    fun k v => ⟨_, rfl, ?_⟩, fun k hp he => ⟨_, rfl, ?_⟩, fun a => ⟨_, rfl, ?_⟩⟩
  · rw [appExpires_engines hr hw]
    exact ⟨rfl, rfl, rfl, rfl⟩
  · rw [appExcepts_engines hr]
    exact ⟨rfl, rfl, rfl⟩
  · rw [writeRegister_kick hr]
    exact onApp_app s _ hr
  · rw [timerControl_timers hr, timerControl_mono, set_get, if_pos rfl]
    obtain ⟨hen, hper, hfired, hcount, hspan⟩ := s.engines.app.timers[k].control_out s.mono v
    exact ⟨hen, hper, hfired, hcount, hspan, fun j hj => (set_get _ _ _ _).trans (if_neg (Ne.symm hj))⟩
  · rw [timerExpires_is hp]
    change (s.engines.app.timers.set k (s.engines.app.timers[k].expire s.mono))[k].fired = true
      ∧ (s.engines.app.timers.set k (s.engines.app.timers[k].expire s.mono))[k].en = _
      ∧ (_ → (s.engines.app.timers.set k (s.engines.app.timers[k].expire s.mono))[k].count s.mono = _)
    rw [set_get, if_pos rfl]
    exact AppTimer.expire_out _ he
  · rw [if_pos hr]
    exact violates_app hr a.toNat

/-! ## The interrupt controller -/

section
variable {s : State} {e : Engine}

/-! ### Completion and GROUP_WIDTH (R589, R592) -/

theorem IntView.complete_ignored {v : IntView} {n : Fin 128} (h : v.active n = false) :
    v.complete n = ({ v with ignored := satInc 32 v.ignored }, .ignored) := if_pos (by rw [h]; rfl)

theorem IntView.complete_top {v : IntView} {n : Fin 128} {p : Nat} {rest : List (Fin 128 × Nat)} (h : v.stack = (n, p) :: rest) :
    v.complete n = ({ v with stack := rest }, .popped) := by
  have hact : v.active n = true := by simp [IntView.active, h]
  simp [IntView.complete, hact, h]

/-- A completion that pops or is ignored leaves its view as the view's own rule gives it. -/
theorem completes_view {v : BitVec 32} {x : IntView} {y : Completion} (he : s.engineRuns e = true)
    (hc : s.engines.views[viewOf e].complete (Fin.ofNat 128 (v.toNat % 128)) = (x, y)) (hy : y ≠ .fault) :
    (s.completes e v).engines.views[viewOf e] = x := by
  unfold State.completes
  rw [if_neg (by rw [he]; decide)]
  dsimp only
  rw [hc]
  cases y with
  | fault => exact absurd rfl hy
  | ignored => exact (set_get _ _ _ _).trans (if_pos rfl)
  | popped => exact (set_get _ _ _ _).trans (if_pos rfl)

theorem IntView.control_out (v : IntView) (w : Nat) :
    (v.control w).groupWidth = (if v.stack = [] then (if 8 < w % 16 then 8 else w % 16) else v.groupWidth)
      ∧ (v.control w).stack = v.stack := by
  unfold IntView.control
  cases hs : v.stack <;> simp [groupWidthOf, hs]

theorem intcControl_view (he : s.engineRuns e = true) (v : BitVec 32) :
    (s.intcControl e v).engines.views[viewOf e] = s.engines.views[viewOf e].control v.toNat :=
  (congrArg (fun t => (State.engines t).views[viewOf e]) (if_pos he)).trans ((set_get _ _ _ _).trans (if_pos rfl))

/-! ### Delivery (R590, R591) -/

theorem IntView.mayDeliver_empty {v : IntView} (p : Nat) (h : v.stack = []) : v.mayDeliver p = true := by
  unfold IntView.mayDeliver
  rw [h]

theorem IntView.mayDeliver_over {v : IntView} {p q : Nat} {m : Fin 128} {rest : List (Fin 128 × Nat)}
    (h : v.stack = (m, q) :: rest) (hlen : rest.length < 7) (hg : groupOf v.groupWidth q < groupOf v.groupWidth p) :
    v.mayDeliver p = true := by
  unfold IntView.mayDeliver
  rw [h]
  simp [hg]
  omega

/-- A delivery to the application engine: the winner of its arbitration, with the priority and the handler it is set to. -/
theorem delivers_app {n : Fin 128} (p : Nat) (he : s.engineRuns .app = true) (hw : s.engines.winner s.cfg s.asserted = some n)
    (hm : s.engines.views[viewOf .app].mayDeliver s.engines.prio[n].toNat = true) :
    (s.delivers .app n p).engines.views[viewOf .app]
      = s.engines.views[viewOf .app].deliver n s.engines.prio[n].toNat s.engines.vec[n].toNat s.free := by
  unfold State.delivers
  dsimp only
  rw [if_pos (by rw [he, hw, hm]; simp)]
  exact (set_get _ _ _ _).trans (if_pos rfl)

/-- A delivery to another engine: a source routed to it, at the address that its firmware gives (log entry 61). -/
theorem delivers_other {n : Fin 128} {p : Nat} (ha : e ≠ .app) (he : s.engineRuns e = true)
    (hs : sourceTarget s.cfg n.val = some (viewOf e)) (hp : p ≠ 0) (hact : s.engines.views[viewOf e].active n = false)
    (hm : s.engines.views[viewOf e].mayDeliver p = true) :
    (s.delivers e n p).engines.views[viewOf e]
      = s.engines.views[viewOf e].deliver n p (Config.measured .interruptedPc (s.free + 1)).toNat s.free := by
  have hgoes : s.delivers e n p = (s.onEngines (fun g => { g with
      views := g.views.set (viewOf e)
        (s.engines.views[viewOf e].deliver n p (Config.measured .interruptedPc (s.free + 1)).toNat s.free) })).fresh := by
    have hgo : (s.engineRuns e && (sourceTarget s.cfg n.val == some (viewOf e) && decide (p ≠ 0)
        && !s.engines.views[viewOf e].active n) && s.engines.views[viewOf e].mayDeliver p) = true := by
      rw [he, hs, hact, hm]
      simp [hp]
    cases e with
    | app => exact absurd rfl ha
    | leaf d => exact if_pos hgo
    | supv => exact if_pos hgo
    | comms => exact if_pos hgo
  rw [hgoes]
  exact (set_get _ _ _ _).trans (if_pos rfl)

end

/-- Settles O25: completion, GROUP_WIDTH and delivery by what the engine's view becomes in each. -/
theorem interruptController : Obligations.InterruptController := by
  unfold Obligations.InterruptController
  intro s e he
  refine ⟨fun v => ⟨fun hact => ⟨_, rfl, ?_⟩, fun p rest hs => ⟨_, rfl, ?_⟩⟩, fun v => ⟨_, rfl, ?_⟩, fun n p happ hw hs => ⟨_, rfl, ?_⟩,
    fun n p happ hs hp hempty => ⟨_, rfl, ?_⟩⟩
  · exact completes_view he (IntView.complete_ignored hact) (by decide)
  · exact completes_view he (IntView.complete_top hs) (by decide)
  · rw [intcControl_view he]
    exact IntView.control_out _ _
  · subst happ
    have hm : s.engines.views[viewOf .app].mayDeliver s.engines.prio[n].toNat = true := by
      obtain hempty | ⟨m, q, rest, hstack, hlen, hg⟩ := hs
      · exact IntView.mayDeliver_empty _ hempty
      · exact IntView.mayDeliver_over hstack hlen hg
    rw [delivers_app p.toNat he hw hm]
    exact ⟨rfl, rfl, rfl, rfl, rfl⟩
  · have hp' : p.toNat ≠ 0 := fun h0 => hp (BitVec.eq_of_toNat_eq h0)
    have hact : s.engines.views[viewOf e].active n = false := by rw [IntView.active, hempty]; rfl
    rw [delivers_other happ he hs hp' hact (IntView.mayDeliver_empty _ hempty)]
    exact ⟨congrArg _ hempty, rfl, rfl, rfl⟩

end Sys2Proof.Machine
end

section
/-!
Engines that stop and run again (R568, R569, R571, R572 and R585): what each watchdog, the lockstep comparator and each
restart leave of the engines and of what hangs on them.
-/

namespace Sys2Proof.Machine

section
variable {s : State} {d : DoorIx}

/-! ## Leaf engines (R568) -/

theorem leafExpires_is (hr : s.leafRuns d = true) :
    s.leafExpires d = (s.onEngines (fun g => g.expired (leafEngine d))).leafStops d := if_pos hr

/-- The doorway of a leaf engine that stops is in FAULT 0x57, where no higher rank holds it (log entry 80). -/
theorem leafStops_door (hr : s.leafRuns d = true) (hfit : s.cfg.isFitted d = true) (hfault : s.doors[d].sm.state ≠ .fault)
    (hegress : s.doors[d].sm.state ≠ .egress) (hisolated : s.doors[d].sm.state ≠ .isolated) :
    (s.leafStops d).doors[d].sm.state = .fault ∧ (s.leafStops d).doors[d].sm.cause = .faultLeafEngine := by
  obtain ⟨-, -, -, hdoors⟩ := leafStops_out s d
  obtain ⟨hstate, -, hcause⟩ := (engineStop_is (s.doorEnv d) ⟨s.doors[d], []⟩ hfault hegress hisolated).of_alike
    (s.runDoor_own d onEngineStop hr)
  rw [hdoors, if_pos hfit]
  exact ⟨hstate, hcause⟩

theorem leafRestarts_engines (hl : s.engines.states[leafEngine d] = .loading) :
    (s.leafRestarts d).engines = { (s.engines.again s.now (leafEngine d)).1 with
      states := (s.engines.again s.now (leafEngine d)).1.states.set (leafEngine d) .running } := by
  unfold State.leafRestarts
  rw [if_neg (Classical.not_not.mpr hl)]
  dsimp only
  split
  · rw [runDoor_engines]
    exact congrArg (fun g : Engines => { g with states := g.states.set (leafEngine d) .running }) (takeEngines_engines _ _)
  · exact congrArg (fun g : Engines => { g with states := g.states.set (leafEngine d) .running }) (takeEngines_engines _ _)

/-! ## The comms engine (R569) -/

/-- Ending an operation leaves the engines (log entry 78). -/
theorem orphaned_engines (s : State) (o : Operation) : (s.orphaned o).engines = s.engines :=
  (State.orphaned_keeps (Within.refl _) (Keeps.refl _ s) o).only .engines (by decide)

theorem orphanedAll_engines (l : List Operation) (s : State) : (l.foldl State.orphaned s).engines = s.engines := by
  induction l generalizing s with
  | nil => rfl
  | cons o l ih => exact (ih _).trans (orphaned_engines s o)

/-- The comms engine that stops: the state its operations and sessions leave, and no operation, reply or commander in it. -/
theorem commsStops_is (s : State) : ∃ u : State, u.engines = { s.engines with states := s.engines.states.set 10 .loading }
    ∧ (∀ i : SessIx, u.fcp.sessions[i].state = .closed)
    ∧ s.commsStops = { u with fcp := { u.fcp with ops := [], deferred := [], commander := tab 8 (fun _ => none) } } := by
  unfold State.commsStops
  have hclose (u : State) : u.closeAll.engines = u.engines :=
    (State.closeAll_keeps (Within.refl _) (Keeps.refl _ u)).only .engines (by decide)
  exact ⟨_, (hclose _).trans (orphanedAll_engines _ _), closeAll_state _, rfl⟩

theorem commsRestarts_engines (hl : s.engines.states[(10 : Fin 12)] = .loading) :
    s.commsRestarts.engines = { (s.engines.again s.now 10).1 with states := (s.engines.again s.now 10).1.states.set 10 .running } := by
  unfold State.commsRestarts
  rw [if_neg (Classical.not_not.mpr hl)]
  exact congrArg (fun g : Engines => { g with states := g.states.set 10 .running }) (takeEngines_engines _ _)

/-! ## The application engine (R585) -/

theorem appStart_restarts (g : Engines) (c : Cfg) (now mono : Nat) : (g.appStart c now mono).1.app.restarts = g.app.restarts := by
  unfold Engines.appStart
  dsimp only
  split <;> rfl

theorem appStarts_restarts (s : State) : s.appStarts.engines.app.restarts = s.engines.app.restarts := by
  unfold State.appStarts
  dsimp only
  rw [events_engines]
  exact appStart_restarts _ _ _ _

theorem appRestarts_is (hp : s.power.on 4 = true) (hf : s.engines.app.state = .faulted) (ha : s.cfg.appAutorestart = 1)
    (hn : (lastHour s.now s.engines.app.restartTimes).length < 3) :
    s.appRestarts = (s.onEngines (fun g => g.onApp (fun a => { a with
      restarts := satInc 16 a.restarts, restartTimes := s.now :: lastHour s.now a.restartTimes }))).appStarts := by
  have hmay : s.engines.app.mayRestart s.cfg s.now = true := by simp [App.mayRestart, hf, ha, hn]
  exact if_neg (by simp [hp, hmay])

end

/-- Settles O26: each stop and each restart by what it leaves of the engines; the doorway by `leafStops_door`, the sessions
by `commsStops_is`. -/
theorem enginesStopAndRestart : Obligations.EnginesStopAndRestart := by
  unfold Obligations.EnginesStopAndRestart
  refine fun s => ⟨fun d hr => ⟨_, rfl, ?_⟩, fun d hl => ⟨_, rfl, ?_⟩, fun hr => ⟨⟨_, rfl, ?_⟩, ⟨_, rfl, ?_⟩⟩,
    fun hl => ⟨_, rfl, supvRestarts_out s hl⟩, fun hr => ⟨_, rfl, ?_⟩, fun hl => ⟨_, rfl, ?_⟩, fun hp hf ha hn => ⟨_, rfl, ?_⟩⟩
  · rw [leafExpires_is hr]
    obtain ⟨hstate, htimes, hexpiries, -⟩ := leafStops_out (s.onEngines (fun g => g.expired (leafEngine d))) d
    refine ⟨hstate, htimes, ?_, fun hfit hfault hegress hisolated => leafStops_door hr hfit hfault hegress hisolated⟩
    rw [hexpiries]
    exact (set_get _ _ _ _).trans (if_pos rfl)
  · rw [leafRestarts_engines hl]
    exact ⟨(set_get _ _ _ _).trans (if_pos rfl), (again_out _ _ _).1⟩
  · obtain ⟨h8, h9, hcounts, -, hstopped⟩ := supvStops_out s true hr
    obtain ⟨hexpiries, hmismatches⟩ := hcounts rfl
    refine ⟨h8, h9, ?_, ?_, hmismatches, hstopped⟩ <;> rw [hexpiries]
    · exact ((set_get _ 9 8 _).trans (if_neg (by decide))).trans ((set_get _ 8 8 _).trans (if_pos rfl))
    · refine ((set_get _ 9 9 _).trans (if_pos rfl)).trans (congrArg (satInc 16) ?_)
      exact (set_get _ 8 9 _).trans (if_neg (by decide))
  · obtain ⟨h8, h9, -, hmismatches, hstopped⟩ := supvStops_out s false hr
    exact ⟨h8, h9, hmismatches rfl, hstopped⟩
  · have hgoes : s.commsExpires = (s.onEngines (fun g => g.expired 10)).commsStops := if_pos hr
    obtain ⟨u, hengines, hclosed, hu⟩ := commsStops_is (s.onEngines (fun g => g.expired 10))
    rw [hgoes, hu]
    refine ⟨?_, rfl, rfl, hclosed, fun d => tab_get _ d⟩
    rw [hengines]
    exact (set_get _ 10 10 _).trans (if_pos rfl)
  · rw [commsRestarts_engines hl]
    exact ⟨(set_get _ 10 10 _).trans (if_pos rfl), (again_out _ _ _).1⟩
  · rw [appRestarts_is hp hf ha hn]
    have hstate : (s.onEngines (fun g => g.onApp (fun a => { a with
        restarts := satInc 16 a.restarts, restartTimes := s.now :: lastHour s.now a.restartTimes }))).engines.app.state = .faulted := hf
    obtain ⟨-, hruns, -, -, hfresh⟩ := appStarts_out _ (by rw [hstate]; decide)
    obtain ⟨hcause, -⟩ := hfresh (by rw [hstate]; decide)
    exact ⟨hruns, hcause, appStarts_restarts _⟩

end Sys2Proof.Machine
end

section
/-!
The end of a leg substitution, and the resume of the doorway that it served (R601, R603 and R605).
-/

namespace Sys2Proof.Machine

section
variable {s : State} {p : Fin 4}

/-! ## The substitution's end (R601, R605) -/

theorem driveTrips_brambles (s : State) (r : DriveIx) (t : HwTrip) (peak : Nat) :
    (s.driveTrips r t peak).service.brambles = s.service.brambles := by
  have hrows : (s.tripRows r true).service = s.service :=
    (State.tripRows_keeps (Within.refl _) (Keeps.refl _ s) r true).only .service (by decide)
  exact (runDoor_brambles _ _ _).trans (congrArg Service.brambles hrows)

/-- The pair's spare when substitution `u` is over. -/
def Bramble.ended (b : Bramble) (u : Substitution) (mono : Nat) (pass : Bool) : Bramble :=
  match u.leg, pass with
  | some l, true => { b with running := none, state := .inUse, leg := some l, takenAt := mono }
  | some _, false => { b with running := none, state := .failed }
  | none, true => { b with running := none, state := .free, leg := none, suspect := false, failed := b.failed.set (b.leg.getD 0) false }
  | none, false => { b with running := none }

theorem subEnds_bramble {u : Substitution} (hu : s.service.brambles[p].running = some u) (pass : Bool) :
    (s.subEnds p pass).service.brambles[p] = s.service.brambles[p].ended u s.mono pass := by
  unfold State.subEnds
  extract_lets b
  split
  · rename_i hnone
    cases hu.symm.trans hnone
  · rename_i v hv
    obtain rfl : u = v := Option.some.inj (hu.symm.trans hv)
    extract_lets b' l r s1 service s2 s3 s4 s5
    have hb' : b' = s.service.brambles[p].ended u s.mono pass := rfl
    have h1 : s1.service.brambles[p] = b' := (set_get _ p p _).trans (if_pos rfl)
    have h2 : s2.service.brambles = s1.service.brambles := by unfold s2; split <;> rfl
    have h3 : s3.service.brambles = s2.service.brambles := by unfold s3; split <;> rfl
    have h4 : s4.service.brambles = s3.service.brambles := runDoor_brambles _ _ _
    have h5 : s5.service.brambles = s4.service.brambles := by
      unfold s5
      split
      · exact driveTrips_brambles _ _ _ _
      · rfl
    have hend : s5.service.brambles[p] = s.service.brambles[p].ended u s.mono pass := by rw [h5, h4, h3, h2, h1, hb']
    split
    · rw [complete_service]; exact hend
    · exact hend

theorem Bramble.ended_pass (b : Bramble) (u : Substitution) (mono : Nat) : (b.ended u mono true).running = none
    ∧ (b.ended u mono true).leg = u.leg ∧ (b.ended u mono true).state = if u.leg.isSome then .inUse else .free := by
  unfold Bramble.ended
  cases u.leg <;> exact ⟨rfl, rfl, rfl⟩

theorem Bramble.ended_fail (b : Bramble) (u : Substitution) (mono : Nat) : (b.ended u mono false).running = none
    ∧ (b.ended u mono false).leg = b.leg ∧ (b.ended u mono false).state = if u.leg.isSome then .failed else b.state := by
  unfold Bramble.ended
  cases u.leg <;> exact ⟨rfl, rfl, rfl⟩

end

/-! ## The resume (R603) -/

section
variable {e : DoorEnv} {w : Work} {ph : Phase}

theorem refuseResume_none {x : Doorway} (h : refuseResume e x = none) : x.canResume = true := by
  unfold refuseResume at h
  cases hc : x.canResume with
  | true => rfl
  | false =>
    rw [hc] at h
    cases h

/-- RESUME of a close starts its warning again. -/
theorem doResume_closing (hn : w.dw.sm.edges = noEdges) (hs : w.dw.sm.state = .stopped) (hr : refuseResume e w.dw = none)
    (hi : w.dw.sm.interrupted = some (.closing, ph)) (hw : e.cfg.preCloseWarn e.d ≠ 0) :
    (doResume e w).Is .closing .warn w.dw.sm.cause := by
  unfold doResume
  rw [refuseResume_none hr, hi, if_neg (by decide)]
  exact ((enterWarn_at e none true w hn (by rw [hs]; decide) hw).of_sm (stepResume_sm _ _)).is

/-- RESUME of an opening continues it in its phase. -/
theorem doResume_opening (hn : w.dw.sm.edges = noEdges) (hr : refuseResume e w.dw = none)
    (hi : w.dw.sm.interrupted = some (.opening, ph)) : (doResume e w).Is .opening ph w.dw.sm.cause := by
  unfold doResume
  rw [refuseResume_none hr, hi, if_neg (by decide)]
  have hentered := enter_at e .opening ph none w hn (by decide) (by decide)
  exact (((hentered.sm (f := fun m => { m with interrupted := none }) rfl rfl rfl rfl).of_sm (doorResume_sm _ _)).of_sm (stepResume_sm _ _)).is

theorem onAutoResume_resumes (hs : w.dw.sm.state = .stopped) (hc : w.dw.sm.cause = .stopDriveInterrupted)
    (hdoor : w.dw.door.gen.state ≠ .moving) (hstep : w.dw.step.gen.state ≠ .moving) (hr : refuseResume e w.dw = none) :
    onAutoResume e w = doResume e w :=
  if_pos ⟨hs, hc, bne_iff_ne.mpr hdoor, bne_iff_ne.mpr hstep, by rw [hr]; rfl⟩

end

/-- Settles O10: the spare of a pair by `subEnds_bramble`, the doorway by what RESUME makes of it at rest. -/
theorem substitutionsAndResumes : Obligations.SubstitutionsAndResumes := by
  unfold Obligations.SubstitutionsAndResumes
  refine fun s => ⟨fun p u hu => ⟨⟨_, rfl, ?_⟩, ⟨_, rfl, ?_⟩⟩, fun d ph hserves hl hs hc hn hdoor hstep hr hw => ?_⟩
  · rw [subEnds_bramble hu]
    exact Bramble.ended_pass _ _ _
  · rw [subEnds_bramble hu]
    exact Bramble.ended_fail _ _ _
  · have hgoes : s.autoResumes d = s.runDoor d onAutoResume := if_pos hserves
    have hresumes := onAutoResume_resumes (w := ⟨s.doors[d], []⟩) hs hc hdoor hstep hr
    have hown := s.runDoor_own d onAutoResume hl
    rw [hresumes] at hown
    refine ⟨fun hi => ⟨_, rfl, ?_⟩, fun hi => ⟨_, rfl, ?_⟩⟩ <;> rw [hgoes]
    · obtain ⟨hstate, hphase, -⟩ := (doResume_closing (w := ⟨s.doors[d], []⟩) hn hs hr hi hw).of_alike hown
      exact ⟨hstate, hphase⟩
    · obtain ⟨hstate, hphase, -⟩ := (doResume_opening (w := ⟨s.doors[d], []⟩) hn hr hi).of_alike hown
      exact ⟨hstate, hphase⟩

end Sys2Proof.Machine
end

section
/-!
Live activations engine by engine (R612, R613, R615 and R616): the engine that is taken, the wait that ends the activation
or rolls it back (log entry 75), and the engine that is done.
-/

namespace Sys2Proof.Machine

section
variable {s : State} {a : Activation}

/-! ## An engine is taken (R612, R613) -/

theorem startMaint_update_is (e : DoorEnv) (n : Nat) (w : Work) : (startMaint e .update n w).Is .maint .none .maintUpdate := by
  obtain ⟨hstate, hphase, hcause⟩ := enter_is e .maint .none (some .maintUpdate) (w.sm (fun m => { m with maint := some (newMaint e .update n) }))
  exact ⟨hstate, hphase, hcause⟩

theorem leafReady_runs {d : DoorIx} (h : s.leafReady d = true) (hfit : s.cfg.isFitted d = true) : s.leafRuns d = true := by
  unfold State.leafReady at h
  rw [hfit] at h
  simp only [Bool.not_true, Bool.false_or, Bool.and_eq_true] at h
  exact h.1.1

theorem leafUpdate_is {d : DoorIx} (hdue : s.updateDue = some (.leaf d)) (hready : s.leafReady d = true) :
    s.leafUpdate d = (if s.cfg.isFitted d then (s.takesEngine (.leaf d)).runDoor d (fun e w => startMaint e .update 0 w)
      else s.takesEngine (.leaf d)).setEngine (leafEngine d) .updating :=
  if_neg (by simp [hdue, hready])

/-- A leaf engine that is taken: halted for its update, its doorway in MAINT. -/
theorem leafUpdate_out {d : DoorIx} (ha : s.service.fw.activation = some a) (hdue : s.updateDue = some (.leaf d))
    (hready : s.leafReady d = true) : (s.leafUpdate d).engines.states[leafEngine d] = .updating
      ∧ (s.leafUpdate d).service.fw.activation = some { a with current := some (.leaf d) }
      ∧ (s.cfg.isFitted d = true → (s.leafUpdate d).doors[d].sm.state = .maint
        ∧ (s.leafUpdate d).doors[d].sm.cause = .maintUpdate) := by
  have htaken := takes_act s a ha (.leaf d)
  rw [leafUpdate_is hdue hready]
  refine ⟨(setEngine_get _ _ _ _).trans (if_pos rfl), ?_, fun hfit => ?_⟩
  · change (if s.cfg.isFitted d then _ else _ : State).service.fw.activation = _
    split
    · rw [runDoor_fw]; exact htaken
    · exact htaken
  · rw [if_pos hfit]
    obtain ⟨hstate, -, hcause⟩ := (startMaint_update_is ((s.takesEngine (.leaf d)).doorEnv d) 0 ⟨s.doors[d], []⟩).of_alike
      ((s.takesEngine (.leaf d)).runDoor_own d (fun e w => startMaint e .update 0 w) (leafReady_runs hready hfit))
    exact ⟨hstate, hcause⟩

/-- The supervisor pair that is taken, up to the evaluation that follows: the keeper alone has the loop, the outputs hold. -/
theorem supvUpdate_is (ha : s.service.fw.activation = some a) (hdue : s.updateDue = some .supv) (hready : s.supvReady = true) :
    ∃ u : State, s.supvUpdate = u.supervise ∧ u.engines.states = (s.engines.states.set 8 .updating).set 9 .updating
      ∧ u.loop = s.loop.keeperTakes .update ∧ u.outs.held = true
      ∧ u.service.fw.activation = some { a with current := some .supv } :=
  ⟨_, if_neg (by simp [hdue, hready]), rfl, rfl, rfl, takes_act s a ha .supv⟩

theorem commsUpdate_is (hdue : s.updateDue = some .comms) (hr : s.commsRuns = true) (hc : s.config.commit = none)
    (he : s.log.erase = none) :
    s.commsUpdate = { (s.takesEngine .comms).setEngine 10 .updating with fcp := s.fcp.pauseAll } :=
  if_neg (by simp [hdue, hr, hc, he])

/-! ## The wait ends (R616) -/

theorem onActivation_some (ha : s.service.fw.activation = some a) (f : Activation → Activation) :
    (s.onActivation f).service.fw.activation = some (f a) := by
  change s.service.fw.activation.map f = _
  rw [ha]
  rfl

theorem settledActivation_rolling {b : Activation} (hr : b.rolling ≠ none) :
    settledActivation b = if b.updated = [] then none else some b := by
  unfold settledActivation
  rw [Option.isSome_iff_ne_none.mpr hr, Bool.true_and]
  simp only [List.isEmpty_iff]

theorem updateWaitEnds_out (ha : s.service.fw.activation = some a) (hc : a.current = none) (hr : a.rolling = none) :
    s.updateWaitEnds.service.fw.activation = if a.updated = [] then none
      else some { a with rolling := some { status := stRefused, reason := 0x30, failed := 0xFF } } := by
  have hgoes : s.updateWaitEnds = s.rollsBack stRefused 0x30 0xFF := by
    unfold State.updateWaitEnds
    rw [ha]
    exact if_pos (by rw [hc, hr]; rfl)
  rw [hgoes]
  obtain ⟨hact, -, -, -⟩ := rollSettles_out _ _ (onActivation_some ha
    (fun a => { a with rolling := some ({ status := stRefused, reason := 0x30, failed := 0xFF } : RollBack) })) hc
  exact hact.trans (settledActivation_rolling nofun)

/-! ## An engine is done (R613, R615) -/

/-- The activation after engine `x`: rolled back where it failed, with or without the engine otherwise. -/
def Activation.after (a : Activation) (x : FwEngine) (ok : Bool) : Activation :=
  if a.rolling = none ∧ ok = false then
    { a with current := none, rolling := some { status := stRefused, reason := 0x66, failed := x.number } }
  else if a.rolling = none then { a with current := none, updated := a.updated ++ [x] }
  else { a with current := none, updated := a.updated.filter (fun y => y != x) }

theorem updating_of_current {x : FwEngine} (ha : s.service.fw.activation = some a) (hx : a.current = some x) : s.updating x = true := by
  unfold State.updating
  rw [ha]
  exact beq_iff_eq.mpr hx

theorem leafUpdateDone_out {d : DoorIx} (ha : s.service.fw.activation = some a) (hx : a.current = some (.leaf d)) (ok : Bool) :
    (s.leafUpdateDone d ok).engines.states[leafEngine d] = .running
      ∧ (s.leafUpdateDone d ok).service.fw.activation = settledActivation (a.after (.leaf d) ok) := by
  have hgoes : s.leafUpdateDone d ok = ((s.setEngine (leafEngine d) .running).runDoor d endUpdate).engineDone (.leaf d) ok :=
    if_neg (by rw [updating_of_current ha hx]; decide)
  have hact : ((s.setEngine (leafEngine d) .running).runDoor d endUpdate).service.fw.activation = some a := by
    rw [runDoor_fw]; exact ha
  obtain ⟨hdone, hengines, -, -⟩ := engineDone_out _ a (.leaf d) ok _ hact hx rfl
  rw [hgoes, hengines, runDoor_engines]
  exact ⟨(setEngine_get _ _ _ _).trans (if_pos rfl), hdone⟩

/-- The supervisor pair that is done, up to the evaluation that precedes the activation's next step. -/
theorem supvUpdateDone_is (ha : s.service.fw.activation = some a) (hx : a.current = some .supv) (ok : Bool) :
    ∃ u : State, s.supvUpdateDone ok = u.supervise.engineDone .supv ok
      ∧ u.engines.states = (s.engines.states.set 8 .running).set 9 .running ∧ u.loop = s.loop.supvResumes ∧ u.outs.held = false
      ∧ u.service.fw = s.service.fw :=
  ⟨_, if_neg (by rw [updating_of_current ha hx]; decide), rfl, rfl, rfl, rfl⟩

theorem supvUpdateDone_out (ha : s.service.fw.activation = some a) (hx : a.current = some .supv) (ok : Bool) :
    (s.supvUpdateDone ok).engines.states[(8 : Fin 12)] = .running ∧ (s.supvUpdateDone ok).engines.states[(9 : Fin 12)] = .running
      ∧ (s.supvUpdateDone ok).loop.supvStopped = false ∧ (s.supvUpdateDone ok).loop.alone = none
      ∧ (s.supvUpdateDone ok).outs.held = false
      ∧ (s.supvUpdateDone ok).service.fw.activation = settledActivation (a.after .supv ok) := by
  obtain ⟨u, hgoes, hstates, hloop, hheld, hfw⟩ := supvUpdateDone_is ha hx ok
  obtain ⟨kengines, kstopped, kalone, kheld, kfw⟩ := supervise_rest u
  obtain ⟨hdone, hengines, hl, ho⟩ := engineDone_out u.supervise a .supv ok _ (by rw [kfw, hfw]; exact ha) hx rfl
  rw [hgoes, hengines, hl, ho, kengines, kstopped, kalone, kheld, hstates, hloop, hheld]
  exact ⟨(set89 _ _).1, (set89 _ _).2, rfl, rfl, rfl, hdone⟩

/-- The state in which the comms engine runs again with its sessions as before, and what follows of the activation. -/
theorem commsUpdateDone_is (ha : s.service.fw.activation = some a) (hx : a.current = some .comms) (ok : Bool) :
    ∃ u : State, u.engines.states[(10 : Fin 12)] = .running ∧ u.service = s.service
      ∧ s.commsUpdateDone ok = match (u.engineDone .comms ok).service.fw.activation with
        | some b => if b.rolling.isNone && ok then ((u.engineDone .comms ok).activated).activationEnds b stDone 0 0 0xFF
            else u.engineDone .comms ok
        | none => u.engineDone .comms ok := by
  have hkeeps := State.resumeSessions_keeps (Within.refl _) (Keeps.refl _ (s.setEngine 10 .running))
  refine ⟨(s.setEngine 10 .running).resumeSessions, ?_, hkeeps.only .service (by decide), ?_⟩
  · rw [show (s.setEngine 10 .running).resumeSessions.engines = _ from hkeeps.only .engines (by decide)]
    exact (setEngine_get _ _ _ _).trans (if_pos rfl)
  · refine (if_neg (by rw [updating_of_current ha hx]; decide)).trans ?_
    rfl

theorem activationEnds_engines (s : State) (a : Activation) (status reason outcome failed : Nat) :
    (s.activationEnds a status reason outcome failed).engines = s.engines :=
  (State.activationEnds_keeps (Within.refl _) (Keeps.refl _ s) a status reason outcome failed).only .engines (by decide)

theorem activationEnds_fw (s : State) (a : Activation) (status reason outcome failed : Nat) :
    (s.activationEnds a status reason outcome failed).service.fw = { s.service.fw with activation := none } := by
  unfold State.activationEnds
  dsimp only
  rw [complete_service]
  rfl

theorem commsUpdateDone_runs (ha : s.service.fw.activation = some a) (hx : a.current = some .comms) (ok : Bool) :
    (s.commsUpdateDone ok).engines.states[(10 : Fin 12)] = .running := by
  obtain ⟨u, hu, hservice, hgoes⟩ := commsUpdateDone_is ha hx ok
  obtain ⟨-, hengines, -, -⟩ := engineDone_out u a .comms ok _ (by rw [hservice]; exact ha) hx rfl
  have hsame : (s.commsUpdateDone ok).engines = u.engines := by
    rw [hgoes]
    split
    · split
      · exact (activationEnds_engines _ _ _ _ _ _).trans hengines
      · exact hengines
    · exact hengines
  rw [hsame]
  exact hu

theorem Activation.after_forward (hr : a.rolling = none) (x : FwEngine) :
    a.after x true = { a with current := none, updated := a.updated ++ [x] } := by
  unfold Activation.after
  rw [if_neg (by simp), if_pos hr]

/-- R615: the comms engine that runs the new code commits the activation. -/
theorem commsUpdateDone_commits (ha : s.service.fw.activation = some a) (hx : a.current = some .comms) (hr : a.rolling = none) :
    ∃ f : Firmware, f.active = s.service.fw.active ∧ f.activations = s.service.fw.activations
      ∧ (s.commsUpdateDone true).service.fw = { f.commit with activation := none } := by
  obtain ⟨u, -, hservice, hgoes⟩ := commsUpdateDone_is ha hx true
  obtain ⟨hdone, -, -, -⟩ := engineDone_out u a .comms true (a.after .comms true) (by rw [hservice]; exact ha) hx rfl
  obtain ⟨hactive, hcount⟩ := engineDone_fw u .comms true
  have hforward : (a.after .comms true).rolling = none := by rw [a.after_forward hr]; exact hr
  have hstays : settledActivation (a.after .comms true) = some (a.after .comms true) := if_neg (by rw [hforward]; simp)
  rw [hdone, hstays] at hgoes
  dsimp only at hgoes
  rw [if_pos (by rw [hforward]; rfl)] at hgoes
  refine ⟨(u.engineDone .comms true).service.fw, by rw [hactive, hservice], by rw [hcount, hservice], ?_⟩
  rw [hgoes, activationEnds_fw]
  rfl

end

/-- Settles O32: the engine taken by `leafUpdate_out`, `supvUpdate_is` and `commsUpdate_is`, the wait by `updateWaitEnds_out`, the
engine done by `leafUpdateDone_out`, `supvUpdateDone_out` and `commsUpdateDone_commits`. -/
theorem engineUpdates : Obligations.EngineUpdates := by
  unfold Obligations.EngineUpdates
  refine fun s a ha => ⟨fun hlive hc => ⟨fun d hd hready => ⟨_, rfl, ?_⟩, fun hd hready => ⟨_, rfl, ?_⟩,
      fun hd hr hcommit herase => ⟨_, rfl, ?_⟩⟩,
    fun hc hr => ⟨_, rfl, updateWaitEnds_out ha hc hr⟩, fun x hx ok b hb => ⟨fun d hd => ⟨_, rfl, ?_⟩, fun hs => ⟨_, rfl, ?_⟩,
      fun hs => ⟨_, rfl, ?_⟩⟩⟩
  · exact leafUpdate_out ha ((updateDue_is s a ha hlive hc).trans hd) hready
  · obtain ⟨u, hgoes, hstates, hloop, hheld, hact⟩ := supvUpdate_is ha ((updateDue_is s a ha hlive hc).trans hd) hready
    obtain ⟨kengines, kstopped, kalone, kheld, kfw⟩ := supervise_rest u
    rw [hgoes, kengines, kstopped, kalone, kheld, kfw, hstates, hloop, hheld]
    exact ⟨(set89 _ _).1, (set89 _ _).2, Bool.or_true _, rfl, rfl, hact⟩
  · rw [commsUpdate_is ((updateDue_is s a ha hlive hc).trans hd) hr hcommit herase]
    exact ⟨(setEngine_get _ 10 10 _).trans (if_pos rfl), takes_act s a ha .comms, fun i => tab_get _ i⟩
  · subst hd hb
    exact leafUpdateDone_out ha hx ok
  · subst hs hb
    exact supvUpdateDone_out ha hx ok
  · subst hs
    refine ⟨commsUpdateDone_runs ha hx ok, fun hr hok => ?_⟩
    subst hok
    obtain ⟨f, hactive, hcount, hfw⟩ := commsUpdateDone_commits ha hx hr
    rw [hfw, Firmware.other, ← hactive, ← hcount]
    exact ⟨rfl, rfl, rfl, rfl, rfl⟩

end Sys2Proof.Machine
end
